-- ==== Sys2Proof/Word.lean ====
section
/-! DEFINITION. Words of the engine: bytes, 32-bit registers, 64-bit scalars, vectors and accumulators. -/

namespace Sys2Proof

/-- A byte, the smallest addressable unit (R206). -/
abbrev Byte := BitVec 8

/-- A 32-bit register of a page or a 32-bit lane (R51, R105). -/
abbrev Word := BitVec 32

/-- A scalar register, an instruction word or a core register (R102, R105). -/
abbrev DWord := BitVec 64

/-- A vector register: lane k in bits [32k+31:32k] (R105). -/
abbrev Vec := BitVec 512

/-- An accumulator: 64 lanes, lane j in bits [32j+31:32j] (R105). -/
abbrev Acc := BitVec 2048

/-- A core ID, `F × 4096 + CY × 64 + CX` (R11). -/
abbrev CoreId := BitVec 19

/-- A beat number (R25). -/
abbrev Beat := BitVec 48

/-- The numeric value of an error code; 0 is no error (R500). -/
abbrev Code := BitVec 16

end Sys2Proof
end

