-- ==== Sys2Proof/Syntax.lean ====
section
/-! DEFINITION. The commands of the engine and their operands. -/

namespace Sys2Proof

/-- A core that R11 names: field, row and column. -/
structure CoreRef where
  field : Fin 80
  cy : Fin 60
  cx : Fin 64
  deriving DecidableEq, Repr

/-- A master of the control network (R43). -/
inductive Master where
  /-- 0x0, the module controller -/
  | mc
  /-- 0x1, the host over CXL.io -/
  | host
  /-- 0x2, the service port -/
  | service
  /-- 0x3, the security engine -/
  | security
  /-- 0x8 to 0xF, the chain peer on a link -/
  | peer (link : Fin 8)
  deriving DecidableEq, Repr

/-- The width of a control network access in bits; `odd` is any width R46 does not list. -/
inductive Width where
  | w8 | w16 | w32 | w64 | odd
  deriving DecidableEq, Repr

/-- A candidate beat source: the external input or a link (R27, R527). -/
inductive Cand where
  | ext
  | link (n : Fin 8)
  deriving DecidableEq, Repr

/-- The frame read on BEAT_P/BEAT_N (R25): its cells, and whether every cell kept the Manchester code. -/
structure BeatFrame where
  preamble : Byte
  number : Beat
  tail : Byte
  manchester : Bool
  deriving DecidableEq, Repr

/-- One error that the protection of the core store met in a read (R212 to R215). -/
inductive StoreHit where
  /-- a weights-mode codeword was corrected, in a slot of the read range -/
  | corrected (slot : BitVec 13)
  /-- a parity error whose second read was clean, or in a clean cache line -/
  | retried (slot : BitVec 13)
  /-- an uncorrectable codeword, a parity error on both reads, or a parity error in a dirty cache line; in an activations-mode
  bank, at a byte of the slot -/
  | failed (slot : BitVec 13) (byte : Fin 32)
  deriving DecidableEq, Repr

/-- What the protection of the core store met in the reads of an access, in the order in which they occur. -/
abbrev StoreCheck := List StoreHit

/-- No error. -/
abbrev StoreCheck.clean : StoreCheck := []

/-- What the sparge finds in a codeword (R217). -/
inductive Codeword where
  | clean | corrected | failed
  deriving DecidableEq, Repr

/-- A wrong sum in a cell of the matrix array (R152): token row and channel column, 32 being the checksum's, and by how much
the sum differs from the exact one. -/
structure CellError where
  row : Fin 33
  col : Fin 33
  delta : Int
  deriving DecidableEq, Repr

/-- What an access to a stack meets, by local address (R206, R219, R220). -/
inductive StackHit where
  /-- a word with one bit in error, corrected -/
  | corrected (addr : Nat)
  /-- an uncorrectable word whose second read is clean -/
  | retried (addr : Nat)
  /-- an uncorrectable word on both reads -/
  | failed (addr : Nat)
  /-- a byte that reads with wrong bits unnoticed by SEC-DED: on the first read, or again on the second -/
  | misread (addr : Nat) (mask : Byte) (again : Bool)
  deriving DecidableEq, Repr

/-- What an access to a stack meets; nothing where it is clean. -/
abbrev StackCheck := List StackHit

/-- The scalar unit offers a thread an issue slot (R77): the core and thread, the field's cycle count (R113), and what the
store's protection found for the fetch and for the instruction's own reads. -/
structure Issue where
  core : CoreRef
  thread : Fin 16
  cycle : DWord
  fetch : StoreCheck
  data : StoreCheck
  deriving DecidableEq, Repr

/-- What reads of host memory returned while a command ran: pieces by host physical address. A byte in no piece had an error
response or none (R362). -/
abbrev HostMem := List (Nat × List Byte)

/-- An entry of the MSI-X table (R356): message address and data. -/
structure MsixEntry where
  addr : DWord
  data : Word
  deriving DecidableEq, Repr

/-- What system software sets in the function's configuration space and BAR2 (R353, R356, R357, R369). -/
structure HostCfg where
  /-- Cache_Enable -/
  cacheEn : Bool
  /-- Mem_Enable, with the HDM decoder committed -/
  hdmOn : Bool
  /-- Memory Space Enable -/
  memSpace : Bool
  /-- the MSI-X table, and the mask bits of its vectors -/
  msix : Vector MsixEntry 4
  mask : BitVec 4
  /-- errors of AER that it clears -/
  aerClear : Word
  deriving DecidableEq, Repr

/-- What takes the CXL link down (R364). -/
inductive DownCause where
  | perst | hotReset | disable | loss | d3hot
  deriving DecidableEq, Repr

/-- A holding query or payload transfer between module controllers (R264, R265, R393). -/
inductive Svc where
  | query (imageId : BitVec 128) (keyId : DWord)
  | answer (imageId : BitVec 128) (held : Bool)
  | fetch (imageId : BitVec 128) (keyId : DWord) (range unit off len : Nat)
  | payload (imageId : BitVec 128) (range unit off : Nat)
  deriving DecidableEq, Repr

/-- A PCL message (R390). -/
structure Pcl where
  op : Nat
  hops : Nat
  len : Nat
  dest : Nat
  srcM : Nat
  tagged : Bool
  status : Code
  mtag : Nat
  addr : Nat
  keyId : DWord
  data : List Byte
  /-- what a SVC message says (R393) -/
  svc : Option Svc := none
  deriving DecidableEq, Repr

/-- A flit that arrives on a chain link: its 276 bytes (R375), and the FEC codewords corrected with it (R397). -/
structure LinkFlit where
  bytes : List Byte
  corrected : Nat
  deriving DecidableEq, Repr

/-- An SPDM request that a DOE object carries, as far as R368 tells requests apart. -/
inductive SpdmReq where
  | getVersion | getCapabilities | negotiateAlgorithms
  /-- a chunk of a large request: last, and its bytes -/
  | chunkSend (last : Bool) (data : List Byte)
  | chunkGet (n : Nat)
  /-- VENDOR_DEFINED_REQUEST carrying a security command -/
  | vendor (data : List Byte)
  | other (code : Byte)
  deriving DecidableEq, Repr

/-- A DOE object (R368). -/
inductive DoeReq where
  | discovery (index : Byte)
  | cdat
  | spdm (r : SpdmReq)
  /-- another protocol -/
  | unknown
  /-- over 262,144 bytes -/
  | tooLong
  deriving DecidableEq, Repr

/-- The regulator rails of a field (R436). -/
inductive Rail where
  | vcore | vret | vfab
  deriving DecidableEq, Repr

/-- Header fields of a service port request (R517): the requester's address and port as a number, SEQ and SESSION. -/
structure Dgram where
  from_ : Nat
  seq : Word
  session : BitVec 16
  deriving DecidableEq, Repr

/-- What is wrong with a datagram (R517, R520). -/
inductive MalDgram where
  | oversized | fragmented | header | unknownOp
  deriving DecidableEq, Repr

/-- An ICMPv6 request (R517). -/
inductive IcmpReq where
  | solicitation
  | echo (data : List Byte)
  deriving DecidableEq, Repr

/-- The commands of the block: one constructor for each row of the opcode table, with the row's operands. -/
inductive Instr where
  /-- BEAT_FRAME (R27). A frame arrives on BEAT_P/BEAT_N and is checked, discarded if malformed, and counted toward lock. -/
  | beatFrame (now : Nat) (frame : BeatFrame)
  /-- BEAT_MARKER (R379). A BEAT flit arrives on a chain link and its arrival, less OFFSET, is given to the beat unit as a marker. -/
  | beatMarker (link : Fin 8) (now : Nat) (flit : LinkFlit)
  /-- BEAT_TICK (R36). The regenerated tick of a beat fires and each block performs its beat work in the fixed order. -/
  | beatTick (now : Nat)
  /-- BEAT_LOST (R38). More than four periods pass without an edge or marker and the unit declares the fatal loss of the beat. -/
  | beatLost (now : Nat)
  /-- CAND_LOCK_TIMEOUT (R527). A candidate source sends nothing for four periods and its lock bit falls. -/
  | candLockTimeout (cand : Cand) (now : Nat)
  /-- BEAT_RESTART (R40). RESTART validates the beat shadows and returns the unit to IDLE or ACQUIRING. -/
  | beatRestart
  /-- REGISTER_WRITE (R52). A write to a register with no row of its own sets its live value or shadow, or is discarded and counted. -/
  | registerWrite (now : Nat) (master : Master) (page : BitVec 14) (off : BitVec 12) (width : Width) (value : BitVec 64)
  /-- RC_READ (R46). A read that returns a bit of an RC field returns its value and clears the whole field. -/
  | rcRead (master : Master) (page : BitVec 14) (off : BitVec 12) (width : Width)
  /-- LATCH_READ (R46). A read of a register whose reading latches another performs that latch. -/
  | latchRead (master : Master) (page : BitVec 14) (off : BitVec 12) (width : Width)
  /-- TXN_ALLOC (R57). ALLOC makes the lowest FREE group OPEN and selects it for the master. -/
  | txnAlloc (master : Master)
  /-- BLK_TXN_ENROL (R57). A write of BLK_TXN with ENROL 1 enrols the page in an OPEN group or records the refusal. -/
  | blkTxnEnrol (master : Master) (page : BitVec 14) (group : Fin 64)
  /-- BLK_TXN_WITHDRAW (R57). A write of BLK_TXN with ENROL 0 withdraws the page from an OPEN or DONE group. -/
  | blkTxnWithdraw (master : Master) (page : BitVec 14) (group : Fin 64)
  /-- TXN_ARM (R57). ARM checks the commit beat and starts validation of every enrolled page. -/
  | txnArm (master : Master)
  /-- TXN_ARM_NOW (R61). ARM with NOW validates and, while the beat unit is not LOCKED, applies all shadows at once. -/
  | txnArmNow (master : Master)
  /-- TXN_ABORT (R58). ABORT ends an OPEN or ARMED group before any effect. -/
  | txnAbort (master : Master)
  /-- TXN_RELEASE (R57). RELEASE returns a DONE group to FREE and withdraws its pages. -/
  | txnRelease (master : Master)
  /-- TXN_VALIDATION_DONE (R57). The enrolled pages finish validation and the group becomes ARMED or ends REJECTED. -/
  | txnValidationDone (group : Fin 64)
  /-- TXN_NOW_APPLY_DONE (R61). The last page of an immediate commit applies and the group reads DONE with COMMITTED. -/
  | txnNowApplyDone (now : Nat) (group : Fin 64)
  /-- ADD (R113). ADD writes the sum of two registers. -/
  | add (iss : Issue)
  /-- SUB (R113). SUB writes the difference of two registers. -/
  | sub (iss : Issue)
  /-- MUL (R113). MUL writes the low 64 bits of the product. -/
  | mul (iss : Issue)
  /-- AND (R113). AND writes the bitwise and. -/
  | and_ (iss : Issue)
  /-- OR (R113). OR writes the bitwise or. -/
  | or_ (iss : Issue)
  /-- XOR (R113). XOR writes the bitwise exclusive or. -/
  | xor_ (iss : Issue)
  /-- SHL (R113). SHL shifts left. -/
  | shl (iss : Issue)
  /-- SHR (R113). SHR shifts logically right. -/
  | shr (iss : Issue)
  /-- SAR (R113). SAR shifts arithmetically right. -/
  | sar (iss : Issue)
  /-- MIN (R113). MIN writes the signed minimum. -/
  | min_ (iss : Issue)
  /-- MAX (R113). MAX writes the signed maximum. -/
  | max_ (iss : Issue)
  /-- MINU (R113). MINU writes the unsigned minimum. -/
  | minu (iss : Issue)
  /-- MAXU (R113). MAXU writes the unsigned maximum. -/
  | maxu (iss : Issue)
  /-- SLT (R113). SLT writes 1 if A is less than B, signed. -/
  | slt (iss : Issue)
  /-- SLTU (R113). SLTU writes 1 if A is less than B, unsigned. -/
  | sltu (iss : Issue)
  /-- ADDI (R113). ADDI adds a sign-extended immediate. -/
  | addi (iss : Issue)
  /-- ANDI (R113). ANDI ands an immediate. -/
  | andi (iss : Issue)
  /-- ORI (R113). ORI ors an immediate. -/
  | ori (iss : Issue)
  /-- XORI (R113). XORI exclusive-ors an immediate. -/
  | xori (iss : Issue)
  /-- SHLI (R113). SHLI shifts left by an immediate. -/
  | shli (iss : Issue)
  /-- SHRI (R113). SHRI shifts logically right by an immediate. -/
  | shri (iss : Issue)
  /-- SARI (R113). SARI shifts arithmetically right by an immediate. -/
  | sari (iss : Issue)
  /-- SLTI (R113). SLTI compares with an immediate, signed. -/
  | slti (iss : Issue)
  /-- LIH (R113). LIH places the immediate in the upper half above A's lower half. -/
  | lih (iss : Issue)
  /-- NOP (R113). NOP has no effect. -/
  | nop (iss : Issue)
  /-- HALT (R113). HALT stops the thread with its program counter at the next word. -/
  | halt (iss : Issue)
  /-- RDSYS (R113). RDSYS reads a system value selected by the immediate. -/
  | rdsys (iss : Issue)
  /-- BEQ (R114). BEQ branches if A equals B. -/
  | beq (iss : Issue)
  /-- BNE (R114). BNE branches if A differs from B. -/
  | bne (iss : Issue)
  /-- BLT (R114). BLT branches if A is less than B, signed. -/
  | blt (iss : Issue)
  /-- BGE (R114). BGE branches if A is at least B, signed. -/
  | bge (iss : Issue)
  /-- BLTU (R114). BLTU branches if A is less than B, unsigned. -/
  | bltu (iss : Issue)
  /-- BGEU (R114). BGEU branches if A is at least B, unsigned. -/
  | bgeu (iss : Issue)
  /-- JAL (R114). JAL writes the link and jumps relative to itself. -/
  | jal (iss : Issue)
  /-- JR (R114). JR writes the link and jumps to A plus IMM. -/
  | jr (iss : Issue)
  /-- LDF (R70). LDF waits for full slots, loads them and sets them empty. -/
  | ldf (iss : Issue)
  /-- LDK (R70). LDK loads, waiting for full slots through a tagged handle and leaving them full. -/
  | ldk (iss : Issue)
  /-- STE (R70). STE waits for empty slots, stores and sets them full. -/
  | ste (iss : Issue)
  /-- STF (R70). STF stores without waiting and sets tagged slots full. -/
  | stf (iss : Issue)
  /-- EMPT (R115). EMPT waits for full slots and sets them all empty without moving data. -/
  | empt (iss : Issue)
  /-- BIND (R84). BIND sets a dynamic handle to a checked sub-range of a source handle. -/
  | bind (iss : Issue)
  /-- UNBIND (R85). UNBIND invalidates a dynamic handle. -/
  | unbind (iss : Issue)
  /-- DMQ (R93). DMQ checks a descriptor and enqueues it, or blocks on queue or scoreboard. -/
  | dmq (iss : Issue)
  /-- VADD (R118). VADD adds lanes. -/
  | vadd (iss : Issue)
  /-- VSUB (R118). VSUB subtracts lanes. -/
  | vsub (iss : Issue)
  /-- VMUL (R118). VMUL multiplies lanes. -/
  | vmul (iss : Issue)
  /-- VFMA (R118). VFMA multiplies and adds into VD with one rounding. -/
  | vfma (iss : Issue)
  /-- VMAX (R118). VMAX takes lane maxima. -/
  | vmax (iss : Issue)
  /-- VMIN (R118). VMIN takes lane minima. -/
  | vmin (iss : Issue)
  /-- VSUM (R118). VSUM sums the lanes into a scalar register. -/
  | vsum (iss : Issue)
  /-- VBCAST (R118). VBCAST broadcasts a scalar to every lane. -/
  | vbcast (iss : Issue)
  /-- VMOVA (R118). VMOVA copies a lane group of an accumulator to a vector. -/
  | vmova (iss : Issue)
  /-- VMOVS (R118). VMOVS copies one lane to a scalar register. -/
  | vmovs (iss : Issue)
  /-- EXP2 (R118). EXP2 computes 2 to the power of each lane. -/
  | exp2 (iss : Issue)
  /-- RSQ (R118). RSQ computes the reciprocal square root of each lane. -/
  | rsq (iss : Issue)
  /-- MVD (R120). MVD takes a unit entry and enters the MV path to compute 64 scaled dot products. -/
  | mvd (iss : Issue)
  /-- MMA (R121). MMA takes a unit entry and permit and enters the matrix array for one 32 × 32 tile. -/
  | mma (iss : Issue)
  /-- MMAX (R122). MMAX enters the array for a four-pass 8-bit or three-pass complex product. -/
  | mmax (iss : Issue)
  /-- CVT (R124). CVT enters the edge converter to convert N elements between formats. -/
  | cvt (iss : Issue)
  /-- QCF (R125). QCF enters the edge converter to narrow with carry-forward residuals. -/
  | qcf (iss : Issue)
  /-- TOPK (R126). TOPK enters the edge converter to select the K largest of N items. -/
  | topk (iss : Issue)
  /-- SND (R127). SND copies a local range into the injection queue as a DATA message. -/
  | snd (iss : Issue)
  /-- SNDR (R128). SNDR sends an accumulator as a REDUCE message. -/
  | sndr (iss : Issue)
  /-- RDM (R129). RDM sends a READ whose reply arrives later into a local range. -/
  | rdm (iss : Issue)
  /-- TADD (R133). TADD sends a one-flit TALLY add message. -/
  | tadd (iss : Issue)
  /-- TSET (R133). TSET sends a one-flit TALLY set message. -/
  | tset (iss : Issue)
  /-- TWAIT (R134). TWAIT peeks at a tally or registers and blocks until its epoch moves. -/
  | twait (iss : Issue)
  /-- THREAD_WAKE (R77). A thread whose wait condition was met becomes READY two cycles later. -/
  | threadWake (c : CoreRef) (t : Fin 16)
  /-- MVD_STREAM_END (R143). An MVD's last group streams and the waiting MVD starts streaming. -/
  | mvdStreamEnd (c : CoreRef) (check : StoreCheck)
  /-- MVD_RESULT (R143). An MVD's lanes become available and its unit entry retires. -/
  | mvdResult (c : CoreRef)
  /-- ARRAY_STAGING_DONE (R148). An array instruction's operands are staged, freeing the ports for the next staging. -/
  | arrayStagingDone (c : CoreRef) (check : StoreCheck)
  /-- ARRAY_STREAM_END (R148). An array instruction's streaming ends, freeing its staging buffer and letting the waiting one become active. -/
  | arrayStreamEnd (c : CoreRef)
  /-- ARRAY_PASS_CHECK (R152). The checksum comparison of a pass ends and a mismatch is acted on. -/
  | arrayPassCheck (c : CoreRef) (errors : List CellError)
  /-- ARRAY_DRAIN_DONE (R149). An array instruction's drain ends, its result is written and its unit entry retires. -/
  | arrayDrainDone (c : CoreRef) (check : StoreCheck)
  /-- EDGE_OCCUPANCY_END (R173). The edge converter's occupancy ends and the waiting instruction starts. -/
  | edgeOccupancyEnd (c : CoreRef) (check : StoreCheck)
  /-- EDGE_RESULT_READY (R173). Three cycles after occupancy the results are available and the unit entry retires. -/
  | edgeResultReady (c : CoreRef) (check : StoreCheck)
  /-- HQ_PERMIT_RELEASE (R247). An array idle for HQ_LINGER cycles releases its heavy-unit permit. -/
  | hqPermitRelease (c : CoreRef)
  /-- DMA_DESC_START (R94). A queued descriptor starts once an active place and, if off the floor, a credit are free. -/
  | dmaDescStart (c : CoreRef) (check : StoreCheck)
  /-- DMA_DESC_END (R94). A descriptor's last byte is written and it frees its entries and credit and notifies its tally. -/
  | dmaDescEnd (c : CoreRef) (index : Fin 4)
  /-- FAILURE_NOTICE (R211). A failure notice arrives over the control network and ends or records the failed access. -/
  | failureNotice (index : Nat)
  /-- CACHE_MISS_FILL (R90). A missed cache line arrives from the stack and its waiting threads are released. -/
  | cacheMissFill (c : CoreRef) (line : Nat)
  /-- CACHE_WRITEBACK (R90). A replaced dirty line is written back to its stack. -/
  | cacheWriteback (c : CoreRef) (check : StoreCheck)
  /-- FABRIC_ARRIVAL (R72). A message reaches a core's ejection port and is written, waiting first for empty slots if tagged. -/
  | fabricArrival (c : CoreRef)
  /-- BANK_CLEAR_DONE (R69). Clearing of a bank whose mode changed ends and waiting accesses proceed. -/
  | bankClearDone (c : CoreRef) (bank : Fin 12)
  /-- SPARGE_VISIT (R217). Every 4.8 ms the sparge reads one slot and corrects or reports its codewords. -/
  | spargeVisit (c : CoreRef) (low high : Codeword)
  /-- CAW_READ (R100). The window READ command loads the selected core register into CAW_DATA. -/
  | cawRead (master : Master) (field : Fin 80)
  /-- CAW_WRITE (R101). The window WRITE command writes CAW_DATA to a core register or shadow. -/
  | cawWrite (master : Master) (field : Fin 80)
  /-- CAW_DISCARD (R100). DISCARD reloads every dirty core's shadows from live. -/
  | cawDiscard (master : Master) (field : Fin 80)
  /-- THREAD_START (R104). START moves named stopped or faulted threads to READY at their start offsets. -/
  | threadStart (master : Master) (c : CoreRef) (mask : BitVec 16)
  /-- THREAD_STOP (R104). STOP moves named threads to STOPPED. -/
  | threadStop (master : Master) (c : CoreRef) (mask : BitVec 16)
  /-- CORE_RESET (R104). RESET stops all threads, clears dynamic handles, tags, scoreboard and errors and drains the queue. -/
  | coreReset (master : Master) (c : CoreRef)
  /-- TAG_INIT (R75). TAG_INIT sets every tag of a tagged handle's range and wakes its waiters. -/
  | tagInit (master : Master) (c : CoreRef) (handle : Fin 64) (value : Bool)
  /-- TALLY_ADD (R132). An add message reaches the tally block and updates COUNT and EPOCH. -/
  | tallyAdd (block : Fin 84)
  /-- TALLY_SET (R132). A set message reaches the tally block, resets COUNT and adds its value. -/
  | tallySet (block : Fin 84)
  /-- TALLY_REGISTRATION (R134). A registration is answered at once, placed in a wait list, or refused when the list is full. -/
  | tallyRegistration (block : Fin 84)
  /-- TALLY_WAKE_REPLY (R134). A wake reply reaches the core and completes TWAIT or re-sends the registration. -/
  | tallyWakeReply (c : CoreRef)
  /-- TALLY_REG_RETRY (R135). 256 cycles after a refusal the core repeats the registration. -/
  | tallyRegRetry (c : CoreRef) (t : Fin 16)
  /-- TALLY_CMD_ADD (R139). TALLY_CMD ADD adds VALUE to the selected tally. -/
  | tallyCmdAdd (master : Master) (field : Fin 80) (value : BitVec 24)
  /-- TALLY_CMD_SET (R139). TALLY_CMD SET sets the selected tally. -/
  | tallyCmdSet (master : Master) (field : Fin 80) (value : BitVec 24)
  /-- FLUSH_WAITS (R139). FLUSH_WAITS wakes every waiter of the selected tally without a fire. -/
  | flushWaits (master : Master) (field : Fin 80)
  /-- ROUTER_HEADER (R186). A header reaches a router and is routed, waypointed, detoured or dropped. -/
  | routerHeader (router : CoreRef) (port : Fin 11) (plane : Bool)
  /-- REDUCE_AT_ROUTER (R191). A REDUCE header at an intermediate router is combined, parked in a transit entry, or passed on. -/
  | reduceAtRouter (router : CoreRef) (port : Fin 11) (plane : Bool) (busy : Bool)
  /-- TRANSIT_ENTRY_RELEASE (R191). A transit entry leaves as one message when its port is free and its window has passed or it is complete. -/
  | transitEntryRelease (router : CoreRef) (entry : Fin 8)
  /-- REDUCE_AT_OWNER (R192). A REDUCE message at its destination router is added into or opens an owner entry, or is discarded. -/
  | reduceAtOwner (router : CoreRef) (port : Fin 11) (plane : Bool)
  /-- READ_AT_MERGE_POINT (R195). A READ at a merge point is absorbed, opens an entry, or is forwarded or served. -/
  | readAtMergePoint (router : CoreRef) (port : Fin 11) (plane : Bool) (check : StoreCheck)
  /-- MERGE_ENTRY_CLOSE (R194). A merge entry stops accepting READs after 64 cycles. -/
  | mergeEntryClose (router : CoreRef) (entry : Fin 16)
  /-- READ_REPLY_FANOUT (R195). A reply reaching a merge entry is copied to every stored requester and the entry frees. -/
  | readReplyFanout (router : CoreRef) (entry : Fin 16)
  /-- FLIT_PARITY_ERROR (R199). A flit fails parity, later flits are discarded and a replay is requested. -/
  | flitParityError (router : CoreRef) (port : Fin 5) (plane : Bool)
  /-- FLIT_REPLAY (R199). A replayed flit arrives clean as a transient or fails again and the link is failed. -/
  | flitReplay (router : CoreRef) (port : Fin 5) (plane : Bool) (clean : Bool)
  /-- FLUSH_MERGE (R203). FLUSH_MERGE discards every read-merge entry of the field. -/
  | flushMerge (master : Master) (field : Fin 80)
  /-- FLUSH_REDUCE (R203). FLUSH_REDUCE discards every transit and incomplete owner entry of the field. -/
  | flushReduce (master : Master) (field : Fin 80)
  /-- STACK_READ_REQUEST (R226). A READ reaches a stack controller's request path and is served with one reply or a failure notice. -/
  | stackReadRequest (n : Fin 24) (check : StackCheck)
  /-- STACK_WRITE_REQUEST (R226). A DATA message reaches the request path and is encrypted and written, then notifies. -/
  | stackWriteRequest (n : Fin 24) (check : StackCheck)
  /-- CH_START (R232). START loads LAST_EPOCH and starts a channel at CH_HEAD. -/
  | chStart (master : Master) (n : Fin 24) (ch : Fin 16)
  /-- CH_ABORT (R232). ABORT stops a channel after its segments in flight and returns it to IDLE. -/
  | chAbort (master : Master) (n : Fin 24) (ch : Fin 16)
  /-- CH_DESC_FETCH (R229). A channel reaches a descriptor, checks it and starts, waits or enters ERROR. -/
  | chDescFetch (n : Fin 24) (ch : Fin 16) (check : StackCheck)
  /-- CH_WAIT_RELEASE (R231). The waited tally's epoch moves and the WAITING channel starts its descriptor. -/
  | chWaitRelease (n : Fin 24) (ch : Fin 16) (check : StackCheck)
  /-- CH_POOL_SPACE (R230). Pool space frees and a STALLED channel continues. -/
  | chPoolSpace (n : Fin 24) (ch : Fin 16) (check : StackCheck)
  /-- CH_SEGMENT_DONE (R230). A segment's last byte is written and its pool space frees. -/
  | chSegmentDone (n : Fin 24) (ch : Fin 16) (seg : Nat) (check : StackCheck)
  /-- CH_DESC_END (R230). A descriptor's last segment completes, its tally is notified and the channel follows NEXT. -/
  | chDescEnd (n : Fin 24) (ch : Fin 16)
  /-- HD_CLEAR (R255). CLEAR discards all hazard records and clears every watch. -/
  | hdClear (master : Master) (field : Fin 80)
  /-- HD_MARK_WRITE (R255). MARK_WRITE writes the selected mark entry. -/
  | hdMarkWrite (master : Master) (field : Fin 80)
  /-- HD_MARK_CLEAR (R255). MARK_CLEAR invalidates every mark. -/
  | hdMarkClear (master : Master) (field : Fin 80)
  /-- LOAD (R281). LOAD checks a placement image and grist image and loads a model through the stages of R242. -/
  | load (master : Master) (host : HostMem)
  /-- LOAD_CONTENT (R242). After the load commit the MC writes CONTENT records and applies relocations. -/
  | loadContent
  /-- LOAD_THREAD_START (R242). The MC writes start offsets and STARTs every core's threads and the model becomes READY. -/
  | loadThreadStart
  /-- INSTALL (R264). INSTALL opens and checks a grist image and fills an EMPTY epoch. -/
  | install (master : Master) (host : HostMem)
  /-- HOLDING_QUERY_TIMEOUT (R264). 50 µs after the holding queries the install chooses a peer or the host as source. -/
  | holdingQueryTimeout (who : Nat)
  /-- GRIST_UNIT_ARRIVAL (R264). A digest unit arrives, is hashed and written, or is re-read from the host. -/
  | gristUnitArrival (who : Nat) (host : HostMem)
  /-- RELEASE (R273). RELEASE makes a READY epoch EMPTY. -/
  | release (master : Master)
  /-- UNLOAD (R274). UNLOAD makes the model UNLOADING and ends its streams. -/
  | unload (master : Master)
  /-- UNLOAD_TEARDOWN (R274). When both in-flight tallies reach 0 the MC resets, flushes and frees the placement. -/
  | unloadTeardown
  /-- EPOCH_DRAIN_RELEASE (R271). At the first tick with a zero in-flight tally a DRAINING epoch becomes EMPTY. -/
  | epochDrainRelease (model : Fin 64) (epoch : Fin 2)
  /-- STAGED_SWITCH_COPY (R272). Once the old epoch drains the MC copies the target's mirrors into its core ranges. -/
  | stagedSwitchCopy (model : Fin 64) (check again : StackCheck)
  /-- STAGED_SWITCH_DONE (R272). At the tick after the copy the target becomes ACTIVE and held steps issue. -/
  | stagedSwitchDone (model : Fin 64)
  /-- AD_INSTALL (R275). AD_INSTALL fills a FREE adapter slot from an adapter image. -/
  | adInstall (master : Master) (host : HostMem)
  /-- AD_RETIRE (R278). AD_RETIRE makes a READY adapter slot RETIRING. -/
  | adRetire (master : Master)
  /-- ADAPTER_SLOT_FREE (R278). At the first tick with REFS 0 a RETIRING slot becomes FREE. -/
  | adapterSlotFree (slot : Fin 1024)
  /-- HOST_POLL (R287). The poll begun at a beat reads the summary and handles changed request and selection entries. -/
  | hostPoll (host : HostMem)
  /-- ADMIT (R290). An ADMIT request is checked, reserves frames, looks up prefixes and schedules the stream. -/
  | admit_ (host : HostMem) (blocks : Nat)
  /-- REQ_END (R291). An END request ends the stream under R309. -/
  | reqEnd
  /-- REBIND (R291). A REBIND request records a new adapter slot for the next issue. -/
  | rebind
  /-- PREFILL (R291). A PREFILL request restates a NEED_PREFILL stream's context and schedules it. -/
  | prefill (host : HostMem) (blocks : Nat)
  /-- SELECTION (R307). A selection entry is checked and schedules the next step, ends the stream or is discarded with a notice. -/
  | selection
  /-- OUTPUT_COLLECT (R301). At a fire of OUT_TALLY the hub reads and checks the next output descriptor and acknowledges it. -/
  | outputCollect (model : Fin 64)
  /-- STEP_COMPLETE (R21). The hub finishes sealing a step's output and the step completes. -/
  | stepComplete (stream : Fin 4096)
  /-- SPEC_VERIFY_ISSUE (R339). At the tick after the draft tree is accepted the verification marker is injected into the main model. -/
  | specVerifyIssue (stream : Fin 4096)
  /-- ST_CMD_END (R312). ST_CMD END ends the selected stream. -/
  | stCmdEnd (master : Master)
  /-- ST_SEL (R312). Writing ST_SEL selects a stream and latches its entry into ST_W. -/
  | stSel (master : Master) (stream : Fin 4096)
  /-- PX_SEL (R335). Writing PX_SEL selects a prefix entry and latches PX_W. -/
  | pxSel (master : Master) (index : BitVec 16)
  /-- FLUSH_MODEL (R332). FLUSH_MODEL detaches every prefix entry of the selected model. -/
  | flushModel (master : Master)
  /-- SPEC_SEL (R352). Writing SPEC_SEL selects a stream and latches SPEC_ST. -/
  | specSel (master : Master) (stream : Fin 4096)
  /-- HOST_LINK_TRAIN (R354). The CXL link trains with 256-byte flits or stays down with HOST_LINK_MODE. -/
  | hostLinkTrain (lopt std : Bool) (rate width : Fin 3)
  /-- HOST_LINK_DOWN (R364). PERST#, reset, disable, loss or D3hot take the link down and fail outstanding requests. -/
  | hostLinkDown (cause : DownCause)
  /-- HOST_LINK_UP (R364). The link is up with Cache_Enable and serving resumes at the next tick. -/
  | hostLinkUp (cfg : HostCfg)
  /-- HOST_READ_DATA (R360). A RdCurr response returns host data to its requester. -/
  | hostReadData (id : Nat) (data : List Byte)
  /-- HOST_WRITE_OBSERVED (R361). The host signals global observation of an engine write. -/
  | hostWriteObserved (id : Nat)
  /-- HOST_REQUEST_ERROR (R362). A host request receives an error or poison response and fails with HOST_ACCESS_FAIL. -/
  | hostRequestError (id : Nat)
  /-- HOST_REQUEST_TIMEOUT (R362). A host request without a response after 10 ms fails with HOST_ACCESS_FAIL. -/
  | hostRequestTimeout (id : Nat)
  /-- H2D_SNOOP (R360). An H2D snoop is answered RspIHitI. -/
  | h2dSnoop
  /-- HDM_ACCESS (R363). A host CXL.mem access reads or writes exchange memory. -/
  | hdmAccess (addr len : Nat) (write : Option (List Byte)) (interleaved : Bool)
  /-- IRQ_STATUS_CLEAR (R366). A W1C write clears cause bits so new causes raise new messages. -/
  | irqStatusClear (master : Master) (clear : BitVec 4)
  /-- MSIX_UNMASK (R366). Unmasking a vector sends its pending message. -/
  | msixUnmask (vector : Fin 4)
  /-- IDE_CHECK_FAIL (R367). An IDE integrity failure makes the stream insecure and raises vector 3. -/
  | ideCheckFail
  /-- DOE_REQUEST (R368). A DOE object is answered under discovery, SPDM or CDAT. -/
  | doeRequest (req : DoeReq)
  /-- DOE_ABORT (R368). A DOE Abort discards the object in progress. -/
  | doeAbort
  /-- LINK_TRAIN_DONE (R374). All lanes lock and the chain link enters HELLO. -/
  | linkTrainDone (link : Fin 8)
  /-- LINK_TRAIN_TIMEOUT (R374). Training not complete within 200 ms returns the link to DOWN. -/
  | linkTrainTimeout (link : Fin 8)
  /-- LINK_RETRY_TIMER (R374). 100 ms after a failure an enabled DOWN link starts training. -/
  | linkRetryTimer (link : Fin 8)
  /-- LINK_HELLO (R374). A HELLO flit arrives and advances the link to ATTEST or records the peer's values. -/
  | linkHello (link : Fin 8) (flit : LinkFlit)
  /-- HS_HELLO (R423). A handshake HS_HELLO carrying the peer's nonce arrives. -/
  | hsHello (link : Fin 8) (nonce : List Byte) (flash : Bool)
  /-- HS_REPORT (R423). A handshake HS_REPORT arrives and is verified. -/
  | hsReport (link : Fin 8) (report sig key certs : List Byte)
  /-- HS_KEM (R423). A handshake HS_KEM ciphertext arrives and is decapsulated. -/
  | hsKem (link : Fin 8) (ct : List Byte)
  /-- HS_FINISH (R423). HS_FINISH is checked and the link keys are derived and the link goes UP. -/
  | hsFinish (link : Fin 8) (mac : List Byte)
  /-- HS_TIMEOUT (R424). A handshake unfinished 1 s after ATTEST rejects the peer. -/
  | hsTimeout (link : Fin 8)
  /-- LINK_FEC_LOSS (R374). Loss of FEC lock for 10 µs takes the link DOWN. -/
  | linkFecLoss (link : Fin 8)
  /-- RETRAIN (R397). RETRAIN takes the link DOWN and trains it again. -/
  | retrain (master : Master) (link : Fin 8)
  /-- LINK_DATA_FLIT (R375). A DATA flit arrives, is decrypted and appended to its VC's message stream. -/
  | linkDataFlit (link : Fin 8) (flit : LinkFlit)
  /-- LINK_CREDIT (R376). A CREDIT flit returns send credits for the VCs. -/
  | linkCredit (link : Fin 8) (flit : LinkFlit)
  /-- LINK_ACK (R377). An ACK frees replay buffer entries. -/
  | linkAck (link : Fin 8) (flit : LinkFlit)
  /-- LINK_NAK (R377). A NAK makes the sender replay from the named flit. -/
  | linkNak (link : Fin 8) (flit : LinkFlit)
  /-- LINK_FLIT_FAIL (R377). A flit fails its tag or FEC and is NAKed, or fails again on replay and the link goes DOWN. -/
  | linkFlitFail (link : Fin 8) (ty : BitVec 4) (seq : BitVec 16) (corrected : Nat)
  /-- DELAY_REQ_SEND (R380). Every 1 ms an UP link sends a DELAY_REQ. -/
  | delayReqSend (link : Fin 8) (t1 : Nat)
  /-- DELAY_REQ (R380). A DELAY_REQ arrives and is answered with DELAY_RSP. -/
  | delayReq (link : Fin 8) (flit : LinkFlit) (t2 t3 : Nat)
  /-- DELAY_RSP (R380). A DELAY_RSP arrives and yields a one-way delay measurement. -/
  | delayRsp (link : Fin 8) (flit : LinkFlit) (t4 : Nat)
  /-- PCL_WR (R391). A WR request is checked against windows and written over the floor with flush READs. -/
  | pclWr (link : Fin 8) (vc : Fin 4)
  /-- PCL_RD (R391). A RD request is checked and served with READs, then RD_DATA. -/
  | pclRd (link : Fin 8) (vc : Fin 4)
  /-- FLUSH_READ_REPLY (R391). A flush READ's reply returns and WR_ACK is sent when all have returned. -/
  | flushReadReply (link : Fin 8)
  /-- PCL_WR_ACK (R391). A WR_ACK reaches the requester and completes part of its descriptor. -/
  | pclWrAck (link : Fin 8) (vc : Fin 4)
  /-- PCL_RD_DATA (R391). RD_DATA reaches the requester and is written into its destination. -/
  | pclRdData (link : Fin 8) (vc : Fin 4)
  /-- PCL_REG_WR (R393). A REG_WR is checked and performed on the control network as a chain master. -/
  | pclRegWr (now : Nat) (link : Fin 8) (vc : Fin 4)
  /-- PCL_REG_RD (R393). A REG_RD is checked and performed and answered with REG_RSP. -/
  | pclRegRd (link : Fin 8) (vc : Fin 4)
  /-- PCL_REG_RSP (R393). A REG_RSP returns to the originating module controller. -/
  | pclRegRsp (link : Fin 8) (vc : Fin 4)
  /-- SVC_REQ (R393). A SVC_REQ from a direct neighbour carries a holding query or payload request. -/
  | svcReq (link : Fin 8) (vc : Fin 4)
  /-- SVC_RSP (R393). A SVC_RSP carries a holding answer or payload to the requesting module controller. -/
  | svcRsp (link : Fin 8) (vc : Fin 4)
  /-- REMOTE_TIMEOUT (R392). A remote request without a response within CL_TIMEOUT fails with PEER_GONE. -/
  | remoteTimeout (mtag : Word)
  /-- RT_COPY (R399). COPY copies the live route bank into the other bank. -/
  | rtCopy (master : Master) (table : Fin 9)
  /-- GET_REPORT (R411). GET_REPORT returns a signed attestation report. -/
  | getReport (flash : Bool)
  /-- GET_KEM_KEY (R428). GET_KEM_KEY returns the boot KEM public key. -/
  | getKemKey
  /-- GET_CERTS (R428). GET_CERTS returns the identity public key, DEVICE_ID and Verfort endorsement. -/
  | getCerts
  /-- TENANT_BIND (R414). TENANT_BIND opens a wrapped TRS into a tenant slot and loads its store keys. -/
  | tenantBind
  /-- TENANT_UNBIND (R415). TENANT_UNBIND clears a tenant's key slots and erases its keys. -/
  | tenantUnbind
  /-- SESSION_OPEN (R416). SESSION_OPEN raises a handle's GEN and opens it for a tenant. -/
  | sessionOpen
  /-- SESSION_CLOSE (R416). SESSION_CLOSE closes an OPEN session. -/
  | sessionClose
  /-- IDE_KEYS (R425). IDE_KEYS derives IDE keys from an encapsulated secret. -/
  | ideKeys
  /-- MB_SUBMIT (R430). SUBMIT passes the mailbox request buffer to the security engine. -/
  | mbSubmit (master : Master)
  /-- MB_RESET (R430). RESET discards both mailbox buffers. -/
  | mbReset (master : Master)
  /-- MB_DATA (R430). An MB_DATA access stores or loads a word at BYTE and advances BYTE by 4. -/
  | mbData (master : Master) (write : Option (BitVec 32))
  /-- SIGN_BUCKET_REFILL (R409). Every 500 ms the signature bucket gains one signature. -/
  | signBucketRefill (flash : Bool)
  /-- POWER_ON_VALID (R434). Every blade above 40.0 V for 10 ms makes 44 V valid and starts start-up. -/
  | powerOnValid (now : Nat)
  /-- INPUT_LOW (R434). Input between 38 and 40 V for 1 ms sets INPUT_LOW and lowers the cap. -/
  | inputLow
  /-- INPUT_HIGH (R434). Input entering 48–50 V is counted. -/
  | inputHigh
  /-- INPUT_RANGE_FAIL (R434). Input outside 38–50 V for 20 µs opens every breaker, a fatal condition. -/
  | inputRangeFail
  /-- POWER_WINDOW_END (R435). A 1 ms power window ends and is judged over or not. -/
  | powerWindowEnd (watts : Nat) (blades : List Nat) (now : Nat)
  /-- PHASE_FAULT (R437). A phase fault comparator fires, the phase switches off and an injected sequence starts. -/
  | phaseFault (field : Fin 80) (rail : Rail) (phase : Fin 36)
  /-- PHASE_RETRY_TIMER (R437). 1 ms after a fault the phase is re-enabled, or marked FAILED if it faults again. -/
  | phaseRetryTimer (field : Fin 80) (rail : Rail) (phase : Fin 36)
  /-- PHASE_CLEAN_TIMER (R437). A re-enabled phase running clean for 100 ms is counted as transient. -/
  | phaseCleanTimer (field : Fin 80) (rail : Rail) (phase : Fin 36)
  /-- CONVERTER_FAULT (R438). A field converter faults and is switched off, or the field goes dark if both have failed. -/
  | converterFault (field : Fin 80) (fcB : Bool)
  /-- BREAKER_TRIP (R454). Over-current or over-temperature trips a field breaker within 2 µs. -/
  | breakerTrip (field : Fin 80) (overTemp : Bool) (now : Nat)
  /-- KILN_ENTRY_DONE (R440). Core clocks stop and VCORE ramps down, releasing permits. -/
  | kilnEntryDone (field : Fin 80)
  /-- VCORE_STAGE_END (R444). A VCORE stage's 8 µs ramp ends. -/
  | vcoreStageEnd (field : Fin 80)
  /-- RAIL_STAGE_DONE (R443). The FCU reports READY after a rail stage and the field is in kiln. -/
  | railStageDone (field : Fin 80) (calA calB : List (Nat × Nat))
  /-- POWER_RETRY (R446). PM_RETRY beats after a timed-out attempt a new attempt starts. -/
  | powerRetry (field : Fin 80)
  /-- CLOCK_STEP_DONE (R448). A field's clock and voltage change to a new effective step. -/
  | clockStepDone (field : Fin 80)
  /-- THERMAL_EVAL (R452). Every 1 ms the field temperature is evaluated against warn, cap and kiln thresholds. -/
  | thermalEval (field : Fin 80)
  /-- CURRENT_LIMIT_TIMER (R451). Current above limit for 100 µs slows the field's power cap, or 100 ms below restores it. -/
  | currentLimitTimer (field : Fin 80) (above : Bool)
  /-- COOLANT_LOSS (R453). Flow below 8 L/min or inlet above 50 °C for 1 s makes every field dark. -/
  | coolantLoss
  /-- CONN_SUSPECT (R456). A blade voltage and current imbalance for 10 ms sets CONN_SUSPECT. -/
  | connSuspect (blade : Fin 4)
  /-- RECLOSE (R455). RECLOSE lets a tripped field's next rail stage close its breaker. -/
  | reclose (master : Master) (field : BitVec 7) (now : Nat)
  /-- CONVERSION_DONE (R472). A 1 µs conversion ends, its calibrated result is written and the next entry converts. -/
  | conversionDone (conv : Fin 164) (raw : BitVec 12) (now : Nat)
  /-- TEL_REPEAT (R472). RPT_US after a pass started, a repeat pass starts. -/
  | telRepeat (conv : Fin 164) (now : Nat)
  /-- INJECTED_TRIGGER (R473). A hardware trigger starts an injected sequence or marks one pending. -/
  | injectedTrigger (conv : Fin 164) (trigger : Fin 3)
  /-- CAL (R470). CAL runs 240 conversions against ground and REF_CAL. -/
  | cal (master : Master) (conv : Fin 164)
  /-- CAL_COVER (R475). CAL with COVER calibrates while the partner covers the converter's channels. -/
  | calCover (master : Master) (conv : Fin 164)
  /-- CAL_DONE (R470). CAL ends and stores or rejects its offset and gain. -/
  | calDone (conv : Fin 164) (z y : Nat) (now : Nat)
  /-- TELEM_STALE (R468). No temperature reading of an on field for 10 ms holds its thermal cap at step 3. -/
  | telemStale (field : Fin 80) (now : Nat)
  /-- THREAD_FAULT_CLASSIFY (R482). The MC classifies a faulted thread's code and acts on its placement. -/
  | threadFaultClassify (core : CoreRef) (thread : Fin 16)
  /-- FAULT_SUSPEND (R488). A lasting fault suspends affected placements, abandons steps and queues or aborts plans. -/
  | faultSuspend (now : Nat) (reload : Bool)
  /-- PLAN_ARM (R489). The MC computes a recovery plan and arms it in a group of 60–63. -/
  | planArm (commit : Beat) (flash : Bool) (ways : List (Fin 80 × Fin 160 × Word))
  /-- PLAN_APPLY (R489). After the plan commits the MC copies or reloads slots, rewrites content and starts threads. -/
  | planApply (now : Nat)
  /-- PLAN_RESUME (R491). At the resume tick paused streams return or become NEED_PREFILL. -/
  | planResume (now : Nat)
  /-- FLOOR_MAP_RETRY (R504). Every 10 s a failed FLOOR_MAP write is retried. -/
  | floorMapRetry (ok : Bool)
  /-- SE_BOOT_DONE (R508). The security engine boots, reads identity and draws BOOT_ID and the boot KEM key. -/
  | seBootDone
  /-- MC_BOOT_DONE (R508). The MC boots, resolves and migrates records and starts the service port. -/
  | mcBootDone (now : Nat) (bad : List (Fin 8)) (hub : List (List (Nat × Nat)))
  /-- STARTUP_FIELDS_TIMEOUT (R508). 20 s into stage 4 start-up moves on without the pending fields. -/
  | startupFieldsTimeout
  /-- SELFTEST_DONE (R511). A field's self-test ends and failed cores are retired. -/
  | selftestDone (field : Fin 80) (failed : List (Fin 60 × Fin 64 × Fin 6)) (flash : Bool)
  /-- SELFTEST_TIMEOUT (R511). A self-test unfinished after 2 s imposes a dark target on its field. -/
  | selftestTimeout (field : Fin 80)
  /-- SP_HELLO (R518). HELLO returns identity and may open a staging session. -/
  | spHello (d : Dgram) (wantSession : Bool)
  /-- SP_REG_RD (R518). REG_RD reads a register locally or on another module through PCL. -/
  | spRegRd (d : Dgram) (module page off : BitVec 16)
  /-- SP_REG_WR (R518). REG_WR writes a register locally or on another module through PCL. -/
  | spRegWr (now : Nat) (d : Dgram) (module page off : BitVec 16) (data : Word)
  /-- STAGE_BEGIN (R519). STAGE_BEGIN opens an inactive bank or record buffer for staging. -/
  | stageBegin (d : Dgram) (target : Byte) (len : Word)
  /-- STAGE_DATA (R519). STAGE_DATA writes up to 1,024 bytes at an offset. -/
  | stageData (d : Dgram) (off : Word) (data : List Byte) (flash : Bool)
  /-- STAGE_END (R519). STAGE_END checks completeness and digest and makes the bank STAGED or writes the record. -/
  | stageEnd (d : Dgram) (digest : List Byte) (flash : Bool)
  /-- SP_ACTIVATE (R514). The service ACTIVATE message activates a staged component through FW_CMD. -/
  | spActivate (d : Dgram) (component : Byte)
  /-- SP_RESTART (R516). The service RESTART message restarts a component through FW_CMD. -/
  | spRestart (d : Dgram) (component unit : Byte)
  /-- RECORD_READ (R518). RECORD_READ returns up to 1,024 bytes of a record copy. -/
  | recordRead (d : Dgram) (type slot : Byte) (off : Word)
  /-- SP_SESSION_TIMEOUT (R518). A session idle for 60 s closes and discards its staging. -/
  | spSessionTimeout
  /-- FW_ACTIVATE (R514). ACTIVATE checks the staged image's compatibility and makes it the next boot bank. -/
  | fwActivate (master : Master) (component : Fin 8)
  /-- FW_RESTART (R516). RESTART restarts one component or all its units while the rest keeps running. -/
  | fwRestart (master : Master) (component : Fin 8) (unit : Byte)
  /-- COMPONENT_BOOT (R515). A component's image is verified at boot and run, or the other bank is booted. -/
  | componentBoot (bad : List (Fin 8))
  /-- INPUT_LOW_CLEAR (R434). After 100 ms with the input above 40.0 V, INPUT_LOW clears and the module cap rises again. -/
  | inputLowClear
  /-- COOLANT_LOW (R453). Coolant flow or inlet temperature leaves or re-enters its range, setting or clearing COOLANT_LOW and changing CAP_EFF under R449. -/
  | coolantLow
  /-- HOST_LINK_RECOVERY (R369). The CXL link recovers or retrains without going down, is counted in RETRAINS and raises the LINK vector. -/
  | hostLinkRecovery
  /-- SERVICE_PORT_LINK (R522). The 1000BASE-X service port link comes up or goes down, changing SP_STATUS.LINK_UP. -/
  | servicePortLink (up : Bool)
  /-- ICMPV6_REQUEST (R517). A neighbour discovery or echo request arrives at the service port and is answered. -/
  | icmpv6Request (global : Bool) (req : IcmpReq)
  /-- MALFORMED_DATAGRAM (R520). A datagram at the service port that is oversized, fragmented, has a malformed header or names an unknown OP is dropped or answered with UPD_PROTOCOL and counted. -/
  | malformedDatagram (d : Dgram) (what : MalDgram) (op : Byte)
  deriving DecidableEq, Repr

end Sys2Proof
end

