-- ==== Sys2Proof/Decode.lean ====
section
/-! DEFINITION. The command that a word spells. The table gives no command any bits, so no word spells one. -/

namespace Sys2Proof

/-- The command whose table bits are `w`: none, since no row of the opcode table has bits. DESIGN CHOICE, log 6. -/
def decodeTableWord (_nbits _w : Nat) : Option Instr := none

end Sys2Proof
end

