-- ==== Sys2Proof/Machine/Codes.lean ====
section
/-! DEFINITION. The numeric value of every error code (R500). -/

namespace Sys2Proof.Machine.E

open Sys2Proof

/-- RESERVED_VALUE, class R -/
def reservedValue : Code := 0x0001#16
/-- LEN_OVERRUN, class R -/
def lenOverrun : Code := 0x0002#16
/-- COUNT_OVERRUN, class R -/
def countOverrun : Code := 0x0003#16
/-- SIZE_OVERRUN, class R -/
def sizeOverrun : Code := 0x0004#16
/-- RESERVED_BIT, class R -/
def reservedBit : Code := 0x0005#16
/-- CORE_ID_INVALID, class R -/
def coreIdInvalid : Code := 0x0006#16
/-- CORE_DISABLED, class R -/
def coreDisabled : Code := 0x0007#16
/-- PLACEMENT_OVERLAP, class R -/
def placementOverlap : Code := 0x0008#16
/-- LOAD_REFUSED_CAPACITY, class R -/
def loadRefusedCapacity : Code := 0x0009#16
/-- BEAT_LOST, class F -/
def beatLost : Code := 0x0101#16
/-- BEAT_CFG_INVALID, class R -/
def beatCfgInvalid : Code := 0x0102#16
/-- BEAT_SRC_NOT_LOCKED, class R -/
def beatSrcNotLocked : Code := 0x0103#16
/-- ACCESS_WIDTH, class C -/
def accessWidth : Code := 0x0110#16
/-- UNASSIGNED, class C -/
def unassigned : Code := 0x0111#16
/-- TXN_SHADOW_LOCKED, class R -/
def txnShadowLocked : Code := 0x0112#16
/-- TXN_PAGE_BUSY, class R -/
def txnPageBusy : Code := 0x0113#16
/-- TXN_GROUP_STATE, class R -/
def txnGroupState : Code := 0x0114#16
/-- TXN_NOW_REFUSED, class R -/
def txnNowRefused : Code := 0x0115#16
/-- LATE, class R -/
def late : Code := 0x0116#16
/-- PAGE_LOST, class E -/
def pageLost : Code := 0x0117#16
/-- NOW_REFUSED, class R -/
def nowRefused : Code := 0x0118#16
/-- TAG_MODE, class R -/
def tagMode : Code := 0x0201#16
/-- ALIGN_FAULT, class R -/
def alignFault : Code := 0x0202#16
/-- HANDLE_INVALID, class R -/
def handleInvalid : Code := 0x0203#16
/-- HANDLE_KIND, class R -/
def handleKind : Code := 0x0204#16
/-- HANDLE_PERM, class R -/
def handlePerm : Code := 0x0205#16
/-- HANDLE_CLASS, class R -/
def handleClass : Code := 0x0206#16
/-- HANDLE_BANK_MISMATCH, class R -/
def handleBankMismatch : Code := 0x0207#16
/-- BANK_MODE_INVALID, class R -/
def bankModeInvalid : Code := 0x0208#16
/-- DMA_OP_INVALID, class R -/
def dmaOpInvalid : Code := 0x0209#16
/-- THREAD_RUNNING, class R -/
def threadRunning : Code := 0x020A#16
/-- CAW_SPACE, class R -/
def cawSpace : Code := 0x020B#16
/-- CORE_THREAD_FAULT, class E -/
def coreThreadFault : Code := 0x020C#16
/-- ILLEGAL_OP, class R -/
def illegalOp : Code := 0x020D#16
/-- FMT_PAIR_INVALID, class R -/
def fmtPairInvalid : Code := 0x020E#16
/-- FABRIC_TARGET_INVALID, class R -/
def fabricTargetInvalid : Code := 0x020F#16
/-- TALLY_INVALID, class R -/
def tallyInvalid : Code := 0x0210#16
/-- ARRAY_CHECK_FAIL, class L -/
def arrayCheckFail : Code := 0x0211#16
/-- TARGET_DARK, class E -/
def targetDark : Code := 0x0301#16
/-- FABRIC_PARITY, class T -/
def fabricParity : Code := 0x0302#16
/-- FABRIC_LINK_FAIL, class L -/
def fabricLinkFail : Code := 0x0303#16
/-- REDUCE_MISMATCH, class E -/
def reduceMismatch : Code := 0x0304#16
/-- FABRIC_CFG_INVALID, class R -/
def fabricCfgInvalid : Code := 0x0305#16
/-- ADDR_UNBACKED, class R -/
def addrUnbacked : Code := 0x0401#16
/-- STORE_UNCORRECTABLE, class L -/
def storeUncorrectable : Code := 0x0402#16
/-- ACT_PARITY, class L -/
def actParity : Code := 0x0403#16
/-- CACHE_LINE_LOST, class L -/
def cacheLineLost : Code := 0x0404#16
/-- STACK_ECC_FAIL, class L -/
def stackEccFail : Code := 0x0405#16
/-- STACK_CRC_FAIL, class L -/
def stackCrcFail : Code := 0x0406#16
/-- STACK_UNAVAILABLE, class E -/
def stackUnavailable : Code := 0x0407#16
/-- STACK_NO_REGION, class R -/
def stackNoRegion : Code := 0x0408#16
/-- STACK_REGION_OVERLAP, class R -/
def stackRegionOverlap : Code := 0x0409#16
/-- XTS_KEY_ABSENT, class R -/
def xtsKeyAbsent : Code := 0x040A#16
/-- STACK_DESC_INVALID, class R -/
def stackDescInvalid : Code := 0x040B#16
/-- STACK_CH_BUSY, class R -/
def stackChBusy : Code := 0x040C#16
/-- PIMG_FORMAT, class R -/
def pimgFormat : Code := 0x0501#16
/-- PIMG_SECTION, class R -/
def pimgSection : Code := 0x0502#16
/-- PIMG_RELOC, class R -/
def pimgReloc : Code := 0x0503#16
/-- QUOTA_RANGE, class R -/
def quotaRange : Code := 0x0504#16
/-- HAZARD_SCOPE, class R -/
def hazardScope : Code := 0x0505#16
/-- HAZARD_CFG_INVALID, class R -/
def hazardCfgInvalid : Code := 0x0506#16
/-- MODEL_ARG_INVALID, class R -/
def modelArgInvalid : Code := 0x0601#16
/-- MODEL_INVALID, class R -/
def modelInvalid : Code := 0x0602#16
/-- MODEL_BUSY, class R -/
def modelBusy : Code := 0x0603#16
/-- GRIST_FORMAT, class R -/
def gristFormat : Code := 0x0604#16
/-- GRIST_MISMATCH, class R -/
def gristMismatch : Code := 0x0605#16
/-- GRIST_DIGEST_FAIL, class R -/
def gristDigestFail : Code := 0x0606#16
/-- GRIST_UNREADABLE, class R -/
def gristUnreadable : Code := 0x0607#16
/-- EPOCH_RANGE_BUSY, class R -/
def epochRangeBusy : Code := 0x0608#16
/-- EPOCH_NOT_READY, class R -/
def epochNotReady : Code := 0x0609#16
/-- EPOCH_BUSY, class R -/
def epochBusy : Code := 0x060A#16
/-- ADAPTER_INVALID, class R -/
def adapterInvalid : Code := 0x060B#16
/-- ADAPTER_RETIRING, class R -/
def adapterRetiring : Code := 0x060C#16
/-- ADAPTER_RANGE_BUSY, class R -/
def adapterRangeBusy : Code := 0x060D#16
/-- WL_BUSY, class R -/
def wlBusy : Code := 0x060E#16
/-- WL_OP_INVALID, class R -/
def wlOpInvalid : Code := 0x060F#16
/-- REQ_INVALID, class R -/
def reqInvalid : Code := 0x0701#16
/-- STREAM_BUSY, class R -/
def streamBusy : Code := 0x0702#16
/-- STREAM_STATE, class R -/
def streamState : Code := 0x0703#16
/-- TENANT_DISABLED, class R -/
def tenantDisabled : Code := 0x0704#16
/-- SEL_STALE, class E -/
def selStale : Code := 0x0705#16
/-- SEL_AUTH_FAIL, class E -/
def selAuthFail : Code := 0x0706#16
/-- SEL_TOKEN_INVALID, class E -/
def selTokenInvalid : Code := 0x0707#16
/-- CONTEXT_LIMIT, class E -/
def contextLimit : Code := 0x0708#16
/-- MODEL_UNLOADED, class E -/
def modelUnloaded : Code := 0x0709#16
/-- NEED_PREFILL, class E -/
def needPrefill : Code := 0x070A#16
/-- OUTPUT_INVALID, class E -/
def outputInvalid : Code := 0x070B#16
/-- SRV_CFG_INVALID, class R -/
def srvCfgInvalid : Code := 0x070C#16
/-- KV_EXHAUSTED, class R -/
def kvExhausted : Code := 0x070D#16
/-- SEL_ACCEPT_INVALID, class E -/
def selAcceptInvalid : Code := 0x070E#16
/-- DRAFT_TREE_INVALID, class E -/
def draftTreeInvalid : Code := 0x070F#16
/-- HOST_LINK_MODE, class E -/
def hostLinkMode : Code := 0x0801#16
/-- HOST_UNMAPPED, class E -/
def hostUnmapped : Code := 0x0802#16
/-- HOST_ACCESS_FAIL, class E -/
def hostAccessFail : Code := 0x0803#16
/-- HOST_LINK_DOWN, class E -/
def hostLinkDown : Code := 0x0804#16
/-- IDE_CHECK_FAIL, class E -/
def ideCheckFail : Code := 0x0805#16
/-- UNMAPPED, class E -/
def unmapped : Code := 0x0901#16
/-- PEER_GONE, class E -/
def peerGone : Code := 0x0902#16
/-- CHAIN_LINK_FAIL, class L -/
def chainLinkFail : Code := 0x0903#16
/-- CHAIN_REPLAY, class T -/
def chainReplay : Code := 0x0904#16
/-- CHAIN_ID_CONFLICT, class R -/
def chainIdConflict : Code := 0x0905#16
/-- CHAIN_CFG_INVALID, class R -/
def chainCfgInvalid : Code := 0x0906#16
/-- FENCE_VIOLATION, class E -/
def fenceViolation : Code := 0x0A01#16
/-- SEALED_STATE, class R -/
def sealedState : Code := 0x0A02#16
/-- SEAL_FORMAT, class R -/
def sealFormat : Code := 0x0A03#16
/-- SEAL_KEY_MISMATCH, class R -/
def sealKeyMismatch : Code := 0x0A04#16
/-- SEAL_AUTH_FAIL, class R -/
def sealAuthFail : Code := 0x0A05#16
/-- TENANT_UNBOUND, class R -/
def tenantUnbound : Code := 0x0A06#16
/-- TENANT_BUSY, class R -/
def tenantBusy : Code := 0x0A07#16
/-- BIND_AUTH_FAIL, class R -/
def bindAuthFail : Code := 0x0A08#16
/-- SESSION_INVALID, class R -/
def sessionInvalid : Code := 0x0A09#16
/-- SESSION_BUSY, class R -/
def sessionBusy : Code := 0x0A0A#16
/-- PROMPT_AUTH_FAIL, class R -/
def promptAuthFail : Code := 0x0A0B#16
/-- LINK_ATTEST_FAIL, class E -/
def linkAttestFail : Code := 0x0A0C#16
/-- IDENTITY_EXHAUSTED, class R -/
def identityExhausted : Code := 0x0A0D#16
/-- ATTEST_RATE, class R -/
def attestRate : Code := 0x0A0E#16
/-- FW_SIG_FAIL, class E -/
def fwSigFail : Code := 0x0A0F#16
/-- FW_ROLLBACK, class E -/
def fwRollback : Code := 0x0A10#16
/-- SE_CMD_INVALID, class R -/
def seCmdInvalid : Code := 0x0A11#16
/-- INPUT_LOW, class E -/
def inputLow : Code := 0x0B01#16
/-- INPUT_RANGE_FAIL, class F -/
def inputRangeFail : Code := 0x0B02#16
/-- PHASE_RETRY, class T -/
def phaseRetry : Code := 0x0B03#16
/-- PHASE_FAIL, class L -/
def phaseFail : Code := 0x0B04#16
/-- RAIL_FAIL, class L -/
def railFail : Code := 0x0B05#16
/-- CONV_DEGRADED, class L -/
def convDegraded : Code := 0x0B06#16
/-- POWER_DEFER_TIMEOUT, class E -/
def powerDeferTimeout : Code := 0x0B07#16
/-- POWER_CAP_KILN, class E -/
def powerCapKiln : Code := 0x0B08#16
/-- OVER_TEMP, class L -/
def overTemp : Code := 0x0B09#16
/-- COOLANT_LOW, class E -/
def coolantLow : Code := 0x0B0A#16
/-- COOLANT_LOSS, class F -/
def coolantLoss : Code := 0x0B0B#16
/-- FIELD_SHORT, class L -/
def fieldShort : Code := 0x0B0C#16
/-- BREAKER_LOCKED, class L -/
def breakerLocked : Code := 0x0B0D#16
/-- CONN_SUSPECT, class L -/
def connSuspect : Code := 0x0B0E#16
/-- POWER_CFG_INVALID, class R -/
def powerCfgInvalid : Code := 0x0B0F#16
/-- POWER_FIELD_BUSY, class R -/
def powerFieldBusy : Code := 0x0B10#16
/-- TELEM_CAL_FAIL, class T -/
def telemCalFail : Code := 0x0C01#16
/-- TELEM_BUSY, class R -/
def telemBusy : Code := 0x0C02#16
/-- TELEM_PLAUS_FAIL, class T -/
def telemPlausFail : Code := 0x0C03#16
/-- TELEM_STALE, class E -/
def telemStale : Code := 0x0C04#16
/-- TELEM_CFG_INVALID, class R -/
def telemCfgInvalid : Code := 0x0C05#16
/-- PLACEMENT_FAULT, class L -/
def placementFault : Code := 0x0D01#16
/-- MODEL_DEMOTED, class E -/
def modelDemoted : Code := 0x0D02#16
/-- MODEL_LOST, class E -/
def modelLost : Code := 0x0D03#16
/-- PLAN_ABORTED, class E -/
def planAborted : Code := 0x0D04#16
/-- RECOVERY_OVERFLOW, class F -/
def recoveryOverflow : Code := 0x0D05#16
/-- MEASURE_LOST, class F -/
def measureLost : Code := 0x0D06#16
/-- CFG_RECORD_INVALID, class E -/
def cfgRecordInvalid : Code := 0x0E01#16
/-- CFG_RECORD_NEWER, class E -/
def cfgRecordNewer : Code := 0x0E02#16
/-- CFG_MIGRATE_FAIL, class E -/
def cfgMigrateFail : Code := 0x0E03#16
/-- FW_FALLBACK, class E -/
def fwFallback : Code := 0x0E04#16
/-- FW_COMPAT_FAIL, class R -/
def fwCompatFail : Code := 0x0E05#16
/-- FLASH_WRITE_FAIL, class E -/
def flashWriteFail : Code := 0x0E06#16
/-- UPD_PROTOCOL, class R -/
def updProtocol : Code := 0x0E07#16

end Sys2Proof.Machine.E
end

