-- ==== Sys2Proof/Config.lean ====
section
/-! DEFINITION. What one engine fixes and the spec leaves open: constants without a body, so that nothing can be proved of
their value. -/

namespace Sys2Proof

/-- The two silicon steppings (R1). -/
inductive Stepping where
  /-- VF-PW1-A1 -/
  | a1
  /-- VF-PW1-B0 -/
  | b0
  deriving DecidableEq, Repr, Inhabited

/-- The stepping of this engine (R1): either. DESIGN CHOICE, log 18. -/
opaque Config.stepping : Stepping

/-- The n-th free value a step draws: the manual says a value results and does not say which. DESIGN CHOICE, log 5. -/
opaque Config.freeWord : Nat → DWord

/-- What a byte of a stack reads as before anything has written it: "Stack contents and CRCs are undefined at power-on" (R220). DESIGN CHOICE, log 15. -/
opaque Config.stackByte : Nat → Byte

/-- The CRC of a 512-byte block of a stack that has not been written whole: "Stack contents and CRCs are undefined at power-on"
(R220). DESIGN CHOICE, log 15. -/
opaque Config.stackCrc : Nat → Word

/-- The engine's first answer for EXP2 of a lane; used only where it lies within the bound of R118. PRESUMED, log 14. -/
opaque Config.exp2Guess : Word → Word

/-- The engine's first answer for RSQ of a lane; used only where it lies within the bound of R118. PRESUMED, log 14. -/
opaque Config.rsqGuess : Word → Word

/-- DEVICE_ID, set at manufacture (R411, R432). DESIGN CHOICE, log 36. -/
opaque Config.deviceId : BitVec 128

/-- MAJOR and MINOR of BLK_VER, block by block, which R51 leaves "per block". DESIGN CHOICE, log 18. -/
opaque Config.blkVer : Nat → BitVec 16

/-- The firmware revision that BLK_VER shows for a component's image, by its VERSION (R51). DESIGN CHOICE, log 18. -/
opaque Config.fwRevision : Nat → Nat → Byte

/-- BLK_CAPS bits the manual does not name, block by block (R51). DESIGN CHOICE, log 18. -/
opaque Config.blkCaps : Nat → Word

/-- BSTATUS of BLK_STATUS, which R51 leaves "per block". DESIGN CHOICE, log 18. -/
opaque Config.bStatus : Nat → BitVec 28

/-! ### Keys (R407, R426) -/

/-- The identity key's private state, tree by tree, the top tree first: the ID of each tree, the secret of each chain of each leaf, and
the randomizer of each leaf's signature (R407). DESIGN CHOICE, log 36. -/
opaque Config.lmsId : Nat → BitVec 128
opaque Config.lmsSecret : Nat → Nat → Nat → BitVec 256
opaque Config.lmsRandom : Nat → Nat → BitVec 256

/-- Verfort's endorsement of the identity key: a signature of the public key and DEVICE_ID (R407). DESIGN CHOICE, log 36. -/
opaque Config.endorsement : List Byte

/-- Verfort's provisioning key, its firmware keys FW_KEY0 and FW_KEY1, and the device-unique record key (R426, R502). DESIGN CHOICE, log 36. -/
opaque Config.provisioningKey : List Byte
opaque Config.fwKey : Nat → List Byte
opaque Config.recordKey : List Byte

/-- Verfort's vendor ID, which the manual does not give as a number (R355, R368). DESIGN CHOICE, log 18. -/
opaque Config.vendorId : BitVec 16

/-! ### DOE (R368) -/

/-- The CDAT tables, which CXL 3.1 lays out (R368). PRESUMED, log 46. -/
opaque Config.cdat : List Byte

/-! ### What flash holds at power-on, and formats the manual does not lay out (R426, R501 to R507) -/

/-- A firmware image taken apart: its signed header, the header's fields, the signature and the body (R426). -/
structure FwHead where
  component : Nat
  svn : Nat
  version : Nat
  digest : List Byte
  signer : Nat
  header : List Byte
  signature : List Byte
  body : List Byte
  deriving DecidableEq, Repr, Inhabited

/-- CONFIG_BOOT version 1 (R507). -/
structure BootCfg where
  moduleId : Nat
  beatSrc : Nat
  periodNs : Nat
  extDelay : Nat
  fwdMask : Nat
  /-- target of each field, by index -/
  targets : List Nat
  bootRamps : Nat
  pmCap : Nat
  /-- TEL_CTRL, TEL_ISEQ, TEL_RSEQ0 and TEL_RSEQ1 of TA and of TB -/
  telA : List Nat
  telB : List Nat
  linkEnable : Nat
  /-- SP_ADDR, most significant word first, and SP_PREFIX -/
  spAddr : Option (List Nat × Nat)
  deriving DecidableEq, Repr, Inhabited

/-- The fields of a firmware image's header, whose layout the manual does not give (R426). DESIGN CHOICE, log 53. -/
opaque Config.fwHead : List Byte → FwHead

/-- TEL_CTRL, TEL_ISEQ, TEL_RSEQ0 and TEL_RSEQ1 that the module controller commits on a hub converter, which the manual does not
give (R508). DESIGN CHOICE, log 56. -/
opaque Config.hubSeq : Nat → List Nat

/-- Body of a CONFIG_BOOT record, whose layout the manual does not give (R507). DESIGN CHOICE, log 53. -/
opaque Config.bootBody : List Byte → BootCfg

/-- What a FLOOR_SHIPPED or FLOOR_MAP body says of a core: enabled, its router retired, and the reason (R498, R503). DESIGN CHOICE, log 53. -/
opaque Config.floorBody : List Byte → Nat → Bool × Bool × Byte

/-- A FLOOR_MAP body that says a list of cores that are not enabled, with router and reason, failed phases and failed converters
(R503). DESIGN CHOICE, log 53. -/
opaque Config.floorWrite : List (Nat × Bool × Byte) → List (Nat × Nat × Nat) → List Nat → List Byte

/-- Failed regulator phases (field, rail, phase) and failed converters of a FLOOR_MAP body (R503). DESIGN CHOICE, log 53. -/
opaque Config.floorPhases : List Byte → List (Nat × Nat × Nat)
opaque Config.floorConvs : List Byte → List Nat

/-- Whether a REVOCATION body revokes a firmware key, and the MIN_SVN a SVN_FLOOR body gives a component (R426, R503). DESIGN CHOICE, log 53. -/
opaque Config.revoked : List Byte → Nat → Bool
opaque Config.svnFloor : List Byte → Nat → Nat

/-- A body of an older VERSION in the format of a newer one: type, new VERSION, body (R506). DESIGN CHOICE, log 53. -/
opaque Config.migrate : Nat → Nat → List Byte → List Byte

/-- What secure flash holds at power-on: the copy of a record type in slot A or B, empty for none (R501 to R503). DESIGN CHOICE, log 53. -/
opaque Config.flashRecord : Nat → Nat → List Byte

/-- The image in bank A or B of a component at power-on, and the bank booted next (R501, R523). DESIGN CHOICE, log 53. -/
opaque Config.flashBank : Nat → Nat → List Byte
opaque Config.flashBoot : Nat → Bool

end Sys2Proof
end

