-- ==== Sys2Proof/Machine/State.lean ====
section
/-! DEFINITION. Everything the manual gives the engine to hold, as plain data, and its value after reset. -/

namespace Sys2Proof.Machine

open Sys2Proof

/-- Sparse data by key: keys strictly rising, no entry equal to what an unlisted key reads as. DESIGN CHOICE, log 3. -/
abbrev Map (α : Type) := List (Nat × α)

/-! ### Beat unit (02) -/

/-- BEAT_STATE.STATE (R42). -/
inductive BeatMode where
  | idle | acquiring | locked | lost
  deriving DecidableEq, Repr

/-- What the beat unit keeps of one candidate source (R27, R30, R527). Times are in units of 0.25 ns. -/
structure CandState where
  /-- number of its latest frame or marker -/
  number : Beat
  /-- frames or markers of the run, saturating at 3; 3 means the bit of CAND_LOCKED is set -/
  run : Nat
  /-- arrival of its latest frame or marker -/
  last : Nat
  /-- whether anything has arrived from it -/
  seen : Bool
  deriving DecidableEq, Repr

/-- The beat unit (R24 to R42). -/
structure BeatUnit where
  mode : BeatMode
  /-- ACTIVE_SRC, encoded as SRC -/
  activeSrc : BitVec 4
  /-- number of the latest tick (BEAT_NOW) -/
  now : Beat
  /-- number of the last tick before the latest loss (BEAT_LAST) -/
  last : Beat
  /-- time of the latest tick, in 0.25 ns -/
  tickAt : Nat
  /-- whether an edge or marker of the selected source has arrived since the latest tick -/
  edgeSince : Bool
  /-- the selected source has sent a malformed frame or a number out of order since the unit entered LOCKED (R41) -/
  broken : Bool
  /-- the period in ns that governs loss detection now (R37) -/
  lossPeriod : Nat
  /-- the external candidate and the eight link candidates -/
  ext : CandState
  links : List CandState
  /-- the run of the selected source while ACQUIRING -/
  acq : CandState
  /-- the last intervals between arrivals of the selected source, newest first, at most 16 (R30) -/
  intervals : List Nat
  /-- arrival of the latest frame or marker of the selected source -/
  prevArrival : Option Nat
  /-- with a compensation delay above 0, the number of the tick with which the unit will lock (R27) -/
  lockAt : Option Beat
  /-- NOW_HI and LAST_HI as latched -/
  nowHi : BitVec 16
  lastHi : BitVec 16
  /-- last eight delay measurements of each link, in 0.25 ns, newest first (R380) -/
  linkDelays : List (List Nat)
  deriving DecidableEq, Repr

/-! ### Transactions (03) -/

/-- TXN_RESULT.STATE (R63). -/
inductive GState where
  | free | opened | validating | armed | irrevocable | done
  deriving DecidableEq, Repr

/-- TXN_RESULT.RESULT (R63). -/
inductive GResult where
  | pending | committed | rejected | late | aborted | beatLost | pageLost | nowRefused
  deriving DecidableEq, Repr

/-- One transaction group (R57, R63). -/
structure Group where
  st : GState
  res : GResult
  /-- page named by REJECTED or PAGE_LOST -/
  page : Nat
  darkSeen : Bool
  code : Code
  commit : Beat
  /-- armed with NOW -/
  isNow : Bool
  /-- enrolled pages, ascending -/
  pages : List Nat
  /-- pages whose validation rejected -/
  rejected : List Nat
  deriving DecidableEq, Repr

/-! ### What leaves the engine -/

/-! ### Cores (04, 05, 06) -/

/-- A range in whole slots: of the core's store, or of the stacks in 32-byte units of the offset from the first stack
window (R80, R88, R119). -/
structure Rng where
  stack : Bool
  first : Nat
  count : Nat
  deriving DecidableEq, Repr

/-- Thread states (R76). -/
inductive TSt where
  | stopped | ready | blocked | faulted
  deriving DecidableEq, Repr

/-- What a blocked thread waits on; the wait reason of R77 follows from it. -/
inductive WaitOn where
  | none
  /-- TAG: a tag change on a slot of the range -/
  | tag (r : Rng)
  /-- SCOREBOARD: the scoreboard entry of a descriptor -/
  | score (id : Nat)
  /-- SCOREBOARD: a unit entry -/
  | unit (id : Nat)
  /-- TALLY: tally number, expected epoch, destination register -/
  | tally (num : Nat) (expect : BitVec 16) (d : Nat)
  | dmqFull
  | scoreFull
  /-- INJECT_FULL: flits of the message -/
  | inject (flits : Nat)
  /-- CACHE_MISS: the lines awaited, or none where a miss table entry is awaited -/
  | miss (lines : List Nat)
  | quota
  /-- BANK_CLEAR: a bank -/
  | bankClear (bank : Nat)
  deriving DecidableEq, Repr

/-- One hardware thread (R76, R105). Registers that are 0 are not listed. -/
structure Thread where
  st : TSt
  wait : WaitOn
  /-- the event that meets the wait condition has occurred; READY follows (R77) -/
  met : Bool
  pc : BitVec 18
  /-- the last jump's target lay beyond the 18 bits of the program counter: the next fetch faults (R114) -/
  beyond : Bool
  s : Map DWord
  v : Map Vec
  a : Map Acc
  deriving DecidableEq, Repr

/-- The unit of an issued unit instruction. -/
inductive UnitKind where
  | mv | array | edge
  deriving DecidableEq, Repr

/-- Where a unit instruction stands (R143, R148, R173). -/
inductive UPhase where
  /-- in the waiting place, or waiting for a staging buffer -/
  | queued
  /-- executing on the MV path or the edge converter; staging on the array -/
  | running
  /-- operands staged (array) -/
  | staged
  /-- columns entering the cells (array) -/
  | streaming
  /-- operands read and results formed, not yet available; on the array, streamed -/
  | formed
  /-- failed: the entry stays held (R154, R213) -/
  | stuck
  deriving DecidableEq, Repr

/-- A unit entry (R119) with what its instruction captured at issue. -/
structure UnitEntry where
  id : Nat
  kind : UnitKind
  phase : UPhase
  thread : Nat
  pc : BitVec 18
  /-- the instruction word -/
  word : DWord
  srcs : List Rng
  dst : List Rng
  /-- the destination lies in a tagged handle -/
  dstTagged : Bool
  /-- byte addresses of the operands in the core's stride or, for a stack-backed one, in the stacks -/
  addrs : List Nat
  /-- scalar operands taken at issue -/
  vals : List DWord
  /-- pass sums that the array has formed and checked, a table for each pass (R150 to R152) -/
  sums : List (List (List Int))
  /-- operand bytes once read -/
  data : List (List Byte)
  /-- lanes for a0 to a3 once formed -/
  lanes : List Word
  /-- bytes to write once formed, by address in the core's stride -/
  writes : List (Nat × List Byte)
  /-- array: holds the active place (R148) -/
  active : Bool
  /-- array: a re-execution under R153 -/
  again : Bool
  /-- array: passes whose check has ended -/
  checked : Nat
  deriving DecidableEq, Repr

/-- A core DMA descriptor in the queue (R92, R94). -/
structure Desc where
  id : Nat
  op : Nat
  handle : Nat
  off : Nat
  len : Nat
  notify : Bool
  tally : Nat
  remote : DWord
  /-- first byte of the local range: in the core's stride, or in the stacks for CLEAN and PURGE -/
  loc : Nat
  tagged : Bool
  active : Bool
  credit : Bool
  /-- bytes of its local range that a PUT has read, in order, and whether it has read all -/
  buf : List Byte
  sent : Bool
  /-- bytes not yet written at the destination -/
  left : Nat
  failed : Option Code
  deriving DecidableEq, Repr

/-- A scoreboard entry (R87). -/
structure Score where
  id : Nat
  isGet : Bool
  rng : Rng
  deriving DecidableEq, Repr

/-- A cache line (R89). -/
structure CacheLine where
  dirty : Bool
  /-- stamp of its latest use -/
  used : Nat
  data : List Byte
  /-- where it lies: its bank, and its set among the 16 of that bank -/
  bank : Nat
  row : Nat
  deriving DecidableEq, Repr

/-! ### Messages of the fabric (08) -/

/-- CLASS of a header (R183). -/
inductive MsgClass where
  | data | reduce | read | tally | ctl
  deriving DecidableEq, Repr

/-- On whose behalf a message travels: what progresses when its bytes are written and whom a failure notice reaches
(R211). Not a field of the header. -/
inductive Origin where
  | none
  /-- an SND of a core -/
  | snd (core : Nat)
  /-- an RDM of a core, with its handle and offset -/
  | rdm (core handle off : Nat)
  /-- a descriptor of a core's DMA queue -/
  | desc (core id : Nat)
  /-- a fetch of a cache line -/
  | fill (core line : Nat)
  /-- a write-back of a cache line -/
  | wback (core line : Nat)
  /-- a segment of a stack channel -/
  | seg (stack ch id : Nat)
  /-- a READ that fetches bytes of such a segment: its id and the local address where they belong -/
  | segIn (stack ch id dst : Nat)
  /-- an inbound chain request served at an attachment -/
  | chain (link id : Nat)
  /-- a flush READ of such a request, and the router it goes to -/
  | chainFlush (link id router : Nat)
  /-- the hub, for the output descriptors of a model (R301): the hub port it reads through, and the piece asked for -/
  | hub (port model piece : Nat)
  /-- the module controller, which writes CONTENT of a model through an FCU and then sets the tags or not (R184, R238) -/
  | fcu (model : Nat) (full : Bool)
  /-- the same, which copies the store of a moved slot's former core (R489) -/
  | fcuCopy (model core : Nat)
  /-- the module controller, for a REG message of its service port: requester, OP and SEQ of the datagram (R393, R518) -/
  | spReg (dst op seq : Nat)
  /-- a message of another engine that an attachment forwards: its link of arrival, VC and number there (R376, R387) -/
  | transit (link vc id : Nat)
  /-- the module controller, for a SVC message of an install: 0 of a model, 1 of an adapter, n + 2 reload n (R264, R265) -/
  | svc (who : Nat)
  deriving DecidableEq, Repr

/-- OP of a TALLY message (R183). -/
inductive TallyOp where
  | add | set | reg | wake
  deriving DecidableEq, Repr

/-- A message: its header (R183) and payload. -/
structure Msg where
  cls : MsgClass
  plane : Bool
  wp : Bool
  wx : Nat
  wy : Nat
  tag : Bool
  notify : Bool
  tally : Nat
  dport : Nat
  dx : Nat
  dy : Nat
  nomerge : Bool
  addr : Nat
  rtag : Nat
  total : Nat
  count : Nat
  lt : Bool
  rcore : Nat
  roff : Nat
  rflits : Nat
  rtagged : Bool
  rnotify : Bool
  rtally : Nat
  rvia : Bool
  rentry : Nat
  /-- number of the merge entry that RENTRY names: the model's own, not a field of the header -/
  rnumber : Nat
  op : TallyOp
  value : Nat
  epoch : BitVec 16
  thread : Nat
  src : Nat
  payload : List Byte
  /-- the chain message that a message to or from an attachment carries, its data being the payload (R373) -/
  pcl : Option Pcl
  origin : Origin
  /-- field of the router that last handled it -/
  lastField : Nat
  /-- hops left of a detour (R200) -/
  path : List Nat
  deriving DecidableEq, Repr

/-- A line that a core has asked its stack for (R90). -/
structure Miss where
  line : Nat
  /-- the reply, once it has arrived -/
  reply : Option (List Byte)
  deriving DecidableEq, Repr

/-- One core. -/
structure Core where
  threads : Map Thread
  /-- live handle words, by register index 0x000 to 0x07F (R102) -/
  handles : Map DWord
  bankMode : DWord
  /-- shadows of registers 0x000 to 0x080 that a window write changed, and whether the core is dirty (R98) -/
  shadowRegs : Map DWord
  dirty : Bool
  /-- full slots, ascending (R70) -/
  full : List Nat
  score : List Score
  dmq : List Desc
  units : List UnitEntry
  /-- numbers handed to descriptors and unit entries -/
  nextId : Nat
  cache : Map CacheLine
  useStamp : Nat
  misses : List Miss
  /-- banks being cleared (R69) -/
  clearing : List Nat
  /-- thread that issued last (R77) -/
  lastIssued : Nat
  /-- the cycle offered last, and the threads that did not take it or came after one that did (R77) -/
  offerCycle : DWord
  passed : List Nat
  /-- local injection queue (R182) -/
  inject : List Msg
  /-- what the core's engines (DMA, cache, notifications) and the blocks at its router have still to inject -/
  engine : List Msg
  /-- arrivals at the local ejection port (R72) -/
  eject : List Msg
  /-- wake replies that have reached the core (R134) -/
  wakes : List Msg
  /-- threads whose registration was refused and is to be repeated (R135) -/
  refused : List Nat
  /-- RESET waits for active descriptors to end (R104) -/
  draining : Bool
  /-- THREAD_PC0 to 15 -/
  startPc : Map DWord
  coreErr : DWord
  dmaErr : DWord
  dmaFails : BitVec 16
  dirtyDropped : BitVec 16
  arrayStat : DWord
  arrayLast : DWord
  storeStat : DWord
  storeLast : DWord
  /-- threads whose fault has been classified since they last entered FAULTED (R482) -/
  classified : List Nat
  sparge : Nat
  deriving DecidableEq, Repr

/-! ### Tallies (05) -/

/-- COUNT and EPOCH of a tally (R132). -/
structure Tally where
  count : BitVec 24
  epoch : BitVec 16
  deriving DecidableEq, Repr

/-- Who waits in a wait list. -/
inductive Waiter where
  | thread (core t : Nat)
  | channel (stack ch : Nat)
  deriving DecidableEq, Repr

/-- A wait list entry (R134). -/
structure WaitEntry where
  tally : Nat
  expect : BitVec 16
  who : Waiter
  deriving DecidableEq, Repr

/-! ### Routers (08) -/

/-- A combine entry (R191, R192). -/
structure Combine where
  /-- an owner entry, not a transit entry -/
  owner : Bool
  /-- the sum so far -/
  msg : Msg
  /-- an owner entry whose delivery waits at the ejection port -/
  leaving : Bool
  deriving DecidableEq, Repr

/-- A requester stored in a read-merge entry (R194). -/
structure MergeReq where
  rcore : Nat
  roff : Nat
  rtagged : Bool
  rnotify : Bool
  rtally : Nat
  rvia : Bool
  rentry : Nat
  rnumber : Nat
  src : Nat
  origin : Origin
  deriving DecidableEq, Repr

/-- A read-merge entry (R194). -/
structure MergeEntry where
  addr : Nat
  rflits : Nat
  reqs : List MergeReq
  /-- it still accepts READs -/
  accepting : Bool
  /-- its number among the entries of its router: the model's own -/
  number : Nat
  /-- the reply that has reached it, and its SRC -/
  reply : Option (List Byte)
  src : Nat
  deriving DecidableEq, Repr

/-- A router. Queues are keyed by port × 2 + plane: ports 1 to 4 are north, south, west and east, 5 the fan-out path of read
merging, 6 the combine buffer, and 7 to 10 the escape buffers of ports 1 to 4. -/
structure Router where
  /-- input queues, the fan-out path and escape buffers (R180, R182) -/
  queues : Map (List Msg)
  /-- output queues (R180, R182) -/
  outq : Map (List Msg)
  /-- what the stack controller, hub port or chain link attachment at an outward port has still to send -/
  ext : Map (List Msg)
  /-- the input that an output port served last (R181) -/
  grant : Map Nat
  /-- the input, with its plane, that opened an owner entry last (R192) -/
  ownerTurn : Nat
  combine : Map Combine
  merge : Map MergeEntry
  /-- merge entries opened so far: the model's own -/
  mergeNo : Nat
  /-- merge entries whose copies go through the fan-out path, in order -/
  fan : List Nat
  /-- directions whose link has failed -/
  failed : List Nat
  /-- input ports × 2 + plane that discard flits and wait for a replay (R199) -/
  replay : List Nat
  deriving DecidableEq, Repr

/-! ### Stacks (09) -/

/-- CH_STATUS.STATE (R234). -/
inductive ChSt where
  | idle | running | waiting | stalled | error
  deriving DecidableEq, Repr

/-- What a key slot holds: the two 256-bit XTS keys, 64 bytes (R225, R413). -/
abbrev StoreKey := List Byte

/-- A stack channel descriptor (R228). -/
structure ChDesc where
  op : Nat
  notify : Bool
  tally : Nat
  wait : Bool
  waitTally : Nat
  last : Bool
  tag : Bool
  src : DWord
  dst : DWord
  len : Nat
  next : Nat
  deriving DecidableEq, Repr

/-- A segment in flight (R230). -/
structure Seg where
  id : Nat
  /-- offset of the segment in the descriptor's range, and its length -/
  off : Nat
  len : Nat
  /-- bytes not yet written at the destination -/
  left : Nat
  /-- bytes read that this controller itself is to write -/
  data : List Byte
  /-- 256-byte units of the pool that it holds -/
  pool : Nat
  /-- the key of its part of this stack, where that is its destination, as its region stood when it started (R223) -/
  key : Option StoreKey
  /-- part of it has failed: some bytes will not be written -/
  lost : Bool
  deriving DecidableEq, Repr

/-- One DMA channel (R228 to R234). -/
structure Chan where
  st : ChSt
  code : Code
  cur : Nat
  done : Word
  lastEpoch : BitVec 16
  desc : Option ChDesc
  /-- bytes of the descriptor's range that have entered a segment -/
  started : Nat
  segs : List Seg
  nextSeg : Nat
  credit : Bool
  /-- the EPOCH with which the wait was answered -/
  woken : Option (BitVec 16)
  /-- its registration was refused and is to be repeated (R135, R231) -/
  refused : Bool
  /-- ABORT was accepted while segments were in flight -/
  aborting : Bool
  /-- the failure that ends the descriptor -/
  failed : Option Code
  deriving DecidableEq, Repr

/-- One stack controller. -/
structure Stack where
  /-- loaded key slots and the key each holds (R225) -/
  keys : Map StoreKey
  /-- requests that have reached the request path, and the edge router column each came through -/
  inbox : List Msg
  chans : Map Chan
  /-- free pool space in 256-byte units -/
  poolFree : Nat
  /-- SC_LAST and its latch -/
  lastFail : Nat
  deriving DecidableEq, Repr

/-! ### Failure notices, hazard detector, permits -/

/-- A failure notice on its way (R211). -/
structure Notice where
  origin : Origin
  code : Code
  addr : Nat
  deriving DecidableEq, Repr

/-- The hazard detector and heavy-unit permits of a field (R247, R252 to R254). -/
structure FieldUnits where
  /-- permits held, by core ID -/
  permits : List Nat
  /-- request queue, first in first out -/
  quotaQ : List Nat
  /-- valid marks: entry to program counter -/
  marks : Map Word
  /-- records, in order -/
  records : List DWord
  /-- watches that are PENDING, and those of them that have produced their record -/
  pendingWatch : List Nat
  recordedWatch : List Nat
  deriving DecidableEq, Repr

/-- What the repair map says of a core (R498). -/
structure Repair where
  enabled : Bool
  shipped : Bool
  routerRetired : Bool
  reason : Byte
  deriving DecidableEq, Repr

/-! ### Placement and grist images (10, 11) -/

/-- A slot record (R239). -/
structure SlotRec where
  bankMode : DWord
  start : BitVec 16
  pcs : List Nat
  /-- words 0 and 1 of handles 0 to 47 -/
  handles : List DWord
  deriving DecidableEq, Repr

/-- A CONTENT record (R238). -/
structure ContentRec where
  slot : Nat
  full : Bool
  off : Nat
  data : List Byte
  deriving DecidableEq, Repr

/-- A relocation entry (R240). -/
structure RelocRec where
  slot : Nat
  kind : Nat
  tfield : Nat
  tslot : Nat
  off : Nat
  addend : Nat
  deriving DecidableEq, Repr

/-- A WEIGHTS entry (R238). -/
structure WeightRec where
  first : Nat
  last : Nat
  handle : Nat
  form : Nat
  off : Nat
  len : Nat
  deriving DecidableEq, Repr

/-- A STACKS entry (R238); BASE and SIZE in MiB. -/
structure StackRec where
  stack : Nat
  weight : Bool
  base : Nat
  size : Nat
  deriving DecidableEq, Repr

/-- A WATCHES entry (R238). -/
structure WatchRec where
  slot : Nat
  first : Nat
  count : Nat
  tally : Nat
  deriving DecidableEq, Repr

/-- What a placement image says of one field. -/
structure FieldImg where
  field : Nat
  slots : Nat
  hq : Nat
  recs : List SlotRec
  content : List ContentRec
  relocs : List RelocRec
  weights : List WeightRec
  marks : List Nat
  watches : List WatchRec
  deriving DecidableEq, Repr

/-- A placement image (R236 to R240). -/
structure PImg where
  id : DWord
  draft : Bool
  debug : Bool
  batch : Bool
  fields : List FieldImg
  /-- tally number and TARGET -/
  tallies : List (Nat × Nat)
  regions : List StackRec
  /-- SHA-256 of the opened image (R412) -/
  hash : List Byte
  deriving DecidableEq, Repr

/-- A placement in force: its image, and per field of it the core bound to each slot (R16). -/
structure Placed where
  img : PImg
  cores : List (List Nat)
  deriving DecidableEq, Repr

/-- A range table entry (R262). -/
structure GRange where
  kind : Nat
  unit : Nat
  handle : Nat
  stageStack : Nat
  first : Nat
  last : Nat
  off : Nat
  len : Nat
  stageOff : Nat
  digests : Nat
  payload : Nat
  deriving DecidableEq, Repr

/-- What the engine keeps of a grist or adapter image: manifest and digests (R267). -/
structure GristImg where
  imageId : BitVec 128
  placementId : DWord
  ikind : Nat
  /-- aperture offset of the envelope, its IV and HEAD_LEN (R417) -/
  addr : Nat
  iv : List Byte
  headLen : Nat
  /-- the plaintext head -/
  head : List Byte
  ranges : List GRange
  /-- digests of each range, in unit order -/
  digests : List (List (List Byte))
  deriving DecidableEq, Repr

/-- A digest unit on its way: range, unit, bytes still awaited from a peer, and what the peer has sent by offset. -/
structure UnitIn where
  range : Nat
  unit : Nat
  left : Nat
  got : Map Byte
  /-- it is to be read from host memory -/
  host : Bool
  deriving DecidableEq, Repr

/-- Stages of an install (R264). -/
inductive InstPhase where
  /-- waiting for the holding queries -/
  | query
  | units
  deriving DecidableEq, Repr

/-- An install (R264), or a reload of some units (R267). -/
structure Inst where
  model : Nat
  epoch : Nat
  tenant : Nat
  /-- written into mirrors only -/
  staged : Bool
  img : GristImg
  phase : InstPhase
  /-- links whose peers answered that they hold the image -/
  held : List Nat
  /-- the answering peer's link, where the payload comes from a peer -/
  peer : Option Nat
  /-- units not yet verified, in order: range and unit -/
  todo : List (Nat × Nat)
  cur : Option UnitIn
  /-- bytes verified, and units read from the host -/
  bytes : Nat
  hostUnits : Nat
  deriving DecidableEq, Repr

/-- Where a LOAD stands (R242). -/
inductive LoadPhase where
  /-- the transaction group of stage 1 -/
  | commit (group : Nat)
  | content
  /-- contents are on their way to the cores -/
  | landing
  | install
  | threads
  deriving DecidableEq, Repr

/-- A LOAD in progress. -/
structure LoadJob where
  model : Nat
  phase : LoadPhase
  img : GristImg
  deriving DecidableEq, Repr

/-- Stages of a staged switch (R272). -/
inductive SwitchPhase where
  /-- the old epoch drains -/
  | draining
  | copying
  | done
  deriving DecidableEq, Repr

/-- A staged switch in progress. -/
structure Switch where
  target : Nat
  phase : SwitchPhase
  deriving DecidableEq, Repr

/-- An allocation of the stage region (R294), in 64-byte units of the ring: start, length, and the stream that holds it. -/
structure StageUse where
  first : Nat
  count : Nat
  stream : Nat
  deriving DecidableEq, Repr

/-- Frames of a model (R316, R319). -/
structure KvFrames where
  /-- allocated floor and stack frames, ascending -/
  floor : List Nat
  stack : List Nat
  reserved : Nat
  deriving DecidableEq, Repr

/-- An output of a model that the hub is reading (R301): its descriptor's bytes once they are there, the ranges asked for now, as
address and length, the number of the first of those READs, what has come back by number, and a read that failed. -/
structure Collect where
  desc : Option (List Byte)
  want : List (Nat × Nat)
  first : Nat
  got : Map (List Byte)
  bad : Bool
  deriving DecidableEq, Repr

/-- What the engine keeps of a model beside MODEL_STATUS and MODEL_INFLIGHT. -/
structure Model where
  place : Option Placed
  /-- the streamed placement of a standard-class RESIDENT model (R258) -/
  alt : Option PImg
  /-- manifests of epochs A and B -/
  epA : Option GristImg
  epB : Option GristImg
  switching : Option Switch
  /-- its placement is suspended (R488) -/
  suspended : Bool
  /-- cores of its placement whose field has gone dark since they were bound (R481, R491) -/
  lostCores : List Nat
  /-- next marker number and next output descriptor number (R294) -/
  marker : Nat
  outNo : Nat
  /-- EPOCH of OUT_TALLY up to which descriptors have been collected (R301) -/
  outEpoch : BitVec 16
  /-- the output that is being read, and the number of the hub's next READ for the model: the model's own -/
  collect : Option Collect
  readNo : Nat
  stage : List StageUse
  /-- next 64-byte unit of the stage ring -/
  stageNext : Nat
  kv : KvFrames
  deriving DecidableEq, Repr

/-- States of an adapter slot (R275). -/
inductive AdSt where
  | free | installing | ready | retiring
  deriving DecidableEq, Repr

/-- An adapter slot (R275). -/
structure Adapter where
  st : AdSt
  refs : Nat
  version : Nat
  tenant : Nat
  model : Nat
  stack : Nat
  off : Nat
  len : Nat
  deriving DecidableEq, Repr

/-- An install that this engine serves to a neighbour (R265): its module, IMAGE_ID and KEY_ID, and the beat of its latest query or
fetch. -/
structure Served where
  module : BitVec 14
  image : BitVec 128
  key : DWord
  at_ : Beat
  deriving DecidableEq, Repr

/-- What the module controller keeps of weights and adapters. -/
structure Weights where
  models : Map Model
  load : Option LoadJob
  inst : Option Inst
  adapters : Map Adapter
  /-- slot of the adapter install in progress -/
  adSlot : Nat
  adInst : Option Inst
  /-- reloads of digest units (R267), and the next number -/
  reloads : Map Inst
  nextReload : Nat
  /-- installs that this engine serves to neighbours (R265) -/
  serving : List Served
  /-- model that an UNLOAD in progress names -/
  unloading : Option Nat
  /-- OP of a WL_CMD write that waits for its image to be read, and the same for AD_CMD -/
  asked : Option Nat
  adAsked : Bool
  deriving DecidableEq, Repr

/-! ### Serving (12, 13, 14) -/

/-- Stream states (R282). -/
inductive StreamSt where
  | free | scheduled | inFlight | waitSel | needPrefill | paused | ending
  deriving DecidableEq, Repr

/-- HOLD (R283). -/
inductive Hold where
  | none | budget | ring | stage | epoch | placement | tenantOff | gather
  deriving DecidableEq, Repr

/-- A node of a draft tree (R341). -/
structure Node where
  token : Nat
  parent : Nat
  depth : Nat
  anc : DWord
  deriving DecidableEq, Repr

/-- A KV map entry (R317): a frame of a tier, shared or not. -/
structure Frame where
  stack : Bool
  shared : Bool
  num : Nat
  deriving DecidableEq, Repr

/-- An output as collected (R301): KIND of the descriptor, items, payload and the code of a rejected one. -/
structure OutRec where
  kind : Nat
  count : Nat
  payload : List Byte
  code : Code
  deriving DecidableEq, Repr

/-- A step in flight (R292, R339). -/
structure StepRec where
  /-- KIND of its marker (R293); 3 for a batch member -/
  kind : Nat
  step : Nat
  pos : Nat
  count : Nat
  final : Bool
  epoch : Nat
  /-- epoch of the draft model that its draft copy captured -/
  draftEpoch : Option Nat
  /-- outputs still awaited from the main and the draft model -/
  mainLeft : Bool
  draftLeft : Bool
  /-- the batch it belongs to -/
  batch : Option Nat
  /-- code its entry carries -/
  code : Code
  /-- bytes reserved in the ring -/
  resv : Nat
  /-- round: depth and node budgets, the tree once accepted, and whether its verification marker has been injected -/
  depth : Nat
  size : Nat
  nodes : List Node
  verifying : Bool
  /-- it is a probe round (R349) -/
  probe : Bool
  /-- beat at which the tree was accepted -/
  treeBeat : Beat
  /-- its marker carries FIRST, and its token -/
  first : Bool
  token : Nat
  /-- the round whose accepted slots its marker has copied (R347): PREV_A, PREV_PATH, its nodes and root position -/
  prevA : Nat
  prevPath : List Nat
  prevNodes : List Node
  prevPos : Nat
  out : Option OutRec
  deriving DecidableEq, Repr

/-- What a stream holds in one model (R318, R320, R331). -/
structure StreamKv where
  /-- frames by block -/
  blocks : Map Frame
  /-- reserved frames not yet allocated -/
  resv : Nat
  /-- the candidate frame (R337) -/
  cand : Option Frame
  /-- prefix entries referenced -/
  entries : List Nat
  /-- blocks adopted, and the next block to publish -/
  adopted : Nat
  next : Nat
  /-- entry of the block before it, 0xFFFF for none -/
  parent : Nat
  eligible : Bool
  /-- the epoch and adapter that its steps since admission captured (R331) -/
  capture : Option (Nat × Option (Nat × Nat))
  deriving DecidableEq, Repr

/-- A stream table entry (R283) with what the engine keeps beside it. -/
structure Stream where
  st : StreamSt
  /-- the state held before PAUSED -/
  back : StreamSt
  epoch : Nat
  model : Nat
  tenant : Nat
  /-- bound adapter slot and version -/
  ad : Option (Nat × Nat)
  /-- a REBIND that waits: the slot named, or none (R277) -/
  rebind : Option (Option Nat)
  step : Nat
  pos : Nat
  topk : Nat
  batch : Bool
  channel : Nat
  spec : Bool
  pub : Bool
  hold : Hold
  sumSeen : Nat
  nextBeat : Beat
  lastCode : Code
  reqSeq : Nat
  selSeq : Nat
  session : Nat
  promptEnd : Nat
  prompt : DWord
  /-- the next marker carries FIRST (R323) -/
  first : Bool
  /-- the pending token of the next decode step -/
  token : Nat
  /-- tokens of the context, by position -/
  tokens : List Nat
  /-- COUNT of the abandoned steps whose next issue is not charged, in order (R23) -/
  paid : List Nat
  /-- UNLOAD or END has ended it with this code; its last entry carries ENDED (R309) -/
  endCode : Code
  kv : StreamKv
  dkv : StreamKv
  /-- speculation (R346, R348, R349) -/
  size : Nat
  zrun : Nat
  plain : Nat
  prevA : Nat
  prevPath : List Nat
  /-- the abandoned step that is to be issued again was a probe round (R349) -/
  probe : Bool
  /-- the round, answered or not, whose selection is awaited: node records and depths -/
  lastNodes : List Node
  lastDepth : Nat
  /-- it was a probe round -/
  lastProbe : Bool
  /-- root position of the round whose accepted slots wait to be copied -/
  lastPos : Nat
  /-- beat at which it joined its gather set (R299) -/
  joined : Option Beat
  /-- order of joining -/
  joinNo : Nat
  run : Option StepRec
  deriving DecidableEq, Repr

/-- A batch in flight: its model and epoch, and the members whose outputs are awaited (R299). -/
structure Batch where
  model : Nat
  epoch : Nat
  left : Nat
  deriving DecidableEq, Repr

/-- States of a prefix tree entry (R329). -/
inductive PxSt where
  | live | detached
  deriving DecidableEq, Repr

/-- A prefix tree entry (R329); an unlisted one is FREE. -/
structure PxEntry where
  key : DWord
  parent : Nat
  children : Nat
  refs : Nat
  tenant : Nat
  pub : Bool
  epoch : Nat
  model : Nat
  ad : Option (Nat × Nat)
  stack : Bool
  frame : Nat
  st : PxSt
  last : Beat
  deriving DecidableEq, Repr

/-- A request entry (R285). -/
structure ReqEntry where
  seq : Nat
  op : Nat
  rflags : Nat
  model : Nat
  tenant : Nat
  adapter : Nat
  topk : Nat
  promptLen : Nat
  prompt : DWord
  session : Nat
  /-- every reserved byte and bit is 0 -/
  clean : Bool
  deriving DecidableEq, Repr

/-- A selection entry (R286). -/
structure SelEntry where
  seq : Nat
  step : Nat
  nonce : List Byte
  sealed_ : List Byte
  tag : List Byte
  deriving DecidableEq, Repr

/-- A stream that the poll has read and that is not yet handled (R287). -/
structure PollItem where
  stream : Nat
  sum : Nat
  req : Option ReqEntry
  sel : Option SelEntry
  /-- its SUM_SEEN stays as it was -/
  keep : Bool
  deriving DecidableEq, Repr

/-- An entry of a gyle record (R305). -/
structure GEntry where
  stream : Nat
  kind : Nat
  ended : Bool
  sealed_ : Bool
  epoch : Nat
  topk : Bool
  code : Code
  reqSeq : Nat
  step : Nat
  pos : Nat
  count : Nat
  payload : List Byte
  beat : Beat
  nonce : List Byte
  tag : List Byte
  /-- bytes reserved for it -/
  resv : Nat
  /-- the step whose entry it is, kept for a re-issue (R362) -/
  of : Option StepRec
  deriving DecidableEq, Repr

/-- Where the writing of a record stands (R302, R361, R362). -/
inductive RecPhase where
  /-- closed, behind earlier records -/
  | waiting
  /-- entry writes not yet observed -/
  | entries (left : Nat) (failed : Bool)
  /-- the header is to be written at the next tick, again -/
  | headerDue
  | header
  deriving DecidableEq, Repr

/-- A closed record (R302). -/
structure GRec where
  beat : Beat
  loss : Bool
  entries : List GEntry
  phase : RecPhase
  deriving DecidableEq, Repr

/-- The serving engine. -/
structure Serving where
  streams : Map Stream
  /-- balances in sixteenths, by tenant -/
  balances : Map Nat
  batches : Map Batch
  nextBatch : Nat
  nextJoin : Nat
  /-- a poll has begun and has not yet read its lines -/
  polling : Bool
  work : List PollItem
  /-- gyle ring: CONS as last read, write offset, RSEQ of the next record -/
  cons : Nat
  writeOff : Nat
  rseq : Nat
  /-- a record was skipped since the last one written -/
  skipped : Bool
  /-- entries of the next record, and notices that wait for room -/
  queue : List GEntry
  late : List GEntry
  recs : List GRec
  px : Map PxEntry
  /-- public prefix key, drawn at start-up (R413) -/
  pubKey : List Byte
  /-- ST_W, PX_W as latched -/
  stLatch : List DWord
  pxLatch : List DWord
  deriving DecidableEq, Repr

/-! ### Host interface (15) -/

/-- For whom the host interface performs an access to host memory (R362). -/
inductive HostWho where
  /-- a DATA message of a core's PUT that a hub port took: for whom it writes, and how many bytes -/
  | put (origin : Origin) (len : Nat)
  /-- a READ of a core's GET, and the hub port that took it -/
  | get (m : Msg) (h : Nat)
  /-- an entry write of the gyle record, and its header write -/
  | entry
  | header
  deriving DecidableEq, Repr

/-- A request for one line of host memory, or part of it (R360): outstanding, or waiting for its turn (R362). -/
structure HostReq where
  id : Nat
  write : Bool
  /-- the access that it is part of -/
  job : Nat
  /-- aperture offset and host address of its first byte, and how many bytes it takes of the line -/
  off : Nat
  addr : Nat
  len : Nat
  /-- bytes to be written -/
  data : List Byte
  deriving DecidableEq, Repr

/-- An access to host memory in progress: for whom, what it has read by request, the requests that are not done, and whether one
failed. -/
structure HostJob where
  id : Nat
  who : HostWho
  got : List (Nat × List Byte)
  left : Nat
  failed : Bool
  deriving DecidableEq, Repr

/-- What the function presents in its configuration space (R353, R355, R356). -/
structure FnIdentity where
  vendor : BitVec 16
  device : BitVec 16
  revision : Byte
  classCode : BitVec 24
  /-- MSI-X vectors -/
  vectors : Nat
  /-- IDs of extended capabilities, and of the CXL DVSECs -/
  extCaps : List Nat
  dvsecs : List Nat
  /-- Cache_Capable, IO_Capable and Mem_Capable -/
  cacheCapable : Bool
  ioCapable : Bool
  memCapable : Bool
  hdmCount : Nat
  cacheKiB : Nat
  rangeMiB : Nat
  /-- Memory_Info_Valid and Memory_Active: exchange memory has been cleared -/
  memInfoValid : Bool
  memActive : Bool
  /-- size of BAR0 and of BAR2 in KiB -/
  bar0KiB : Nat
  bar2KiB : Nat
  deriving DecidableEq, Repr

/-- What the host interface holds beside its registers. -/
structure HostIf where
  /-- the CXL link is up -/
  up : Bool
  /-- Cache_Enable, Mem_Enable with the decoder committed, Memory Space Enable outside D3hot (R357, R369) -/
  cacheEn : Bool
  hdmOn : Bool
  memSpace : Bool
  /-- HI_LINK.RATE, WIDTH and LOPT -/
  rate : Nat
  width : Nat
  lopt : Bool
  /-- CXL.io and CXL.cachemem streams of IDE secure -/
  ideIo : Bool
  ideCm : Bool
  /-- MSI-X table: the mask bit of each vector, and its message (R356, R366) -/
  msixMask : BitVec 4
  msix : List MsixEntry
  /-- messages requested and not yet sent: masked, or due while the link was down (R366) -/
  pba : BitVec 4
  /-- uncorrectable errors that AER has recorded (R353) -/
  aer : Word
  /-- exchange memory has been cleared: Memory_Active (R355, R363) -/
  memActive : Bool
  /-- requests outstanding, those that wait beyond them, and the accesses they are part of (R362) -/
  reqs : List HostReq
  waiting : List HostReq
  jobs : List HostJob
  nextReq : Nat
  /-- HI_LAST_FAIL: aperture offset and REQ -/
  lastFail : Nat × Nat
  /-- the link went down and has not come up since (R365) -/
  wentDown : Bool
  deriving DecidableEq, Repr

/-! ### Chain links (16) -/

/-- LINK_STATUS.STATE (R374). -/
inductive LinkSt where
  | down | training | hello | attest | up
  deriving DecidableEq, Repr

/-- A handshake in progress (R423). -/
structure Hs where
  /-- own messages sent and the peer's messages accepted, in order -/
  mine : List (List Byte)
  theirs : List (List Byte)
  /-- the secret of the ciphertext sent, and that of the ciphertext received -/
  ssSent : List Byte
  ssGot : List Byte
  /-- waits for a signature (R409), and the ciphertext that waits behind the report -/
  wantSign : Bool
  kemDue : List Byte
  deriving DecidableEq, Repr

/-- The receive buffer of a VC (R375, R376). -/
structure RxVc where
  /-- flits whose credits have been returned -/
  base : Nat
  /-- bytes of the stream that have been taken as messages -/
  pos : Nat
  /-- bytes that have arrived and not been taken -/
  buf : List Byte
  /-- forwarded messages that have not moved on: where each begins in the stream, and its number -/
  held : List (Nat × Nat)
  deriving DecidableEq, Repr

/-- A message that waits for the link, whole or in part (R376). -/
structure TxMsg where
  vc : Nat
  msg : Pcl
  /-- bytes of it that have left -/
  sent : Nat
  /-- for a forwarded message, the link and VC it arrived on and its number there -/
  back : Option (Nat × Nat × Nat)
  deriving DecidableEq, Repr

/-- A chain link. -/
structure Link where
  st : LinkSt
  peerModule : BitVec 14
  peerJoined : Bool
  /-- the peer's HELLO of this training has arrived -/
  helloSeen : Bool
  hs : Hs
  /-- next sequence number to send and to accept (R377) -/
  txSeq : Nat
  rxSeq : Nat
  /-- sequenced flits kept for replay (R377) -/
  replay : List (Nat × List Byte)
  /-- a NAK is outstanding for this sequence number -/
  nakFor : Option Nat
  /-- send credits of each VC (R376) -/
  credits : List Nat
  /-- messages that wait for credits, in order -/
  txq : List TxMsg
  /-- control flits that wait for room in the replay buffer: type and body -/
  ctlq : List (Nat × List Byte)
  /-- receive buffers, by VC -/
  rx : List RxVc
  /-- 100 ms since the last failure have not passed (R374) -/
  failWait : Bool
  /-- windows of the link's page +1 whose latest write was the module controller's (R386) -/
  winMc : List Nat
  /-- keys and salts of this UP (R423): K_AB, K_BA, salt_AB, salt_BA, KF; and whether this engine is side A -/
  keys : List Byte
  sideA : Bool
  deriving DecidableEq, Repr

/-- A remote request of this engine without its response (R391). -/
structure ClReq where
  mtag : Nat
  /-- attachment that keeps it, and egress link -/
  home : Nat
  link : Nat
  module : Nat
  origin : Origin
  write : Bool
  /-- local address of the bytes and whether their arrival is tagged -/
  loc : Nat
  tagged : Bool
  len : Nat
  deriving DecidableEq, Repr

/-- An accepted inbound request (R391). -/
structure ClIn where
  id : Nat
  /-- link of arrival -/
  link : Nat
  hdr : Pcl
  /-- mapped local address -/
  target : Nat
  /-- routers whose flush READs have not been answered (WR) -/
  flush : List Nat
  /-- bytes still awaited, and those read by offset (RD) -/
  left : Nat
  got : Map Byte
  failed : Code
  deriving DecidableEq, Repr

/-! ### Security engine (17) -/

/-- Session states (R416). -/
inductive SessSt where
  | closed | opened | bound
  deriving DecidableEq, Repr

/-- A session table entry (R416, R421). -/
structure Session where
  st : SessSt
  tenant : Nat
  gen : Nat
  stream : Nat
  /-- entries sealed at this GEN -/
  counter : Nat
  deriving DecidableEq, Repr

/-- The mailbox of one master (R430). -/
structure Mailbox where
  /-- MB_STATUS.STATE: 0 idle, 1 busy, 2 done, 3 failed -/
  st : Nat
  /-- MB_INDEX.BYTE -/
  byte : Nat
  /-- request buffer words that are not 0, by word -/
  req : Map Word
  resp : List Byte
  code : Code
  deriving DecidableEq, Repr

/-- Who sent a security command (R427): a master's mailbox, or DOE. -/
inductive CmdSrc where
  | mailbox (m : Nat)
  | doe
  deriving DecidableEq, Repr

/-- A security command that waits (R427). -/
structure SeCmd where
  src : CmdSrc
  op : Nat
  rtag : Nat
  body : List Byte
  /-- it is malformed: it fails with SE_CMD_INVALID in its turn -/
  bad : Bool
  deriving DecidableEq, Repr

/-- The security engine. -/
structure SecEngine where
  /-- drawn at start-up: BOOT_ID, and the 64 seed bytes of the boot KEM key (R410) -/
  bootId : Option (BitVec 128)
  kemSeed : List Byte
  identityOk : Bool
  signHalt : Bool
  /-- next unused leaf, and the flash value RESERVED_TO (R408) -/
  leaf : Nat
  reservedTo : Nat
  /-- the latest bottom tree whose signed public key is stored in flash, and that key (R408) -/
  tree : Option (Nat × List Byte)
  bucket : Nat
  /-- bound tenants: slot to TRS (R413, R414) -/
  tenants : Map (BitVec 256)
  /-- sessions that are not as after start-up (R416) -/
  sessions : Map Session
  mailboxes : Map Mailbox
  /-- commands in order of arrival (R427) -/
  queue : List SeCmd
  /-- bytes of a large DOE request that have arrived, and of a large response not yet fetched (R368) -/
  doeIn : List Byte
  doeOut : List Byte
  /-- IDE keys: slot, direction, substream, key and the next IV, and the slot in use (R425) -/
  ideKeys : List (Nat × Nat × Nat × List Byte × BitVec 96)
  ideSlot : Option Nat
  /-- CONFIG_DIGEST as measured at start-up (R411) -/
  configDigest : List Byte
  deriving DecidableEq, Repr

/-! ### Fields and power (18) -/

/-- FLD_STATE.STATE: the state of a field (R439). -/
inductive FieldSt where
  | dark | kiln | on
  deriving DecidableEq, Repr

/-- A regulator phase that is not simply running (R437). -/
inductive PhaseSt where
  /-- switched off, awaiting its retry -/
  | off
  /-- re-enabled, and not yet clean for 100 ms -/
  | retried
  | failed
  deriving DecidableEq, Repr

/-- An attempt to bring a field up (R443 to R446). -/
structure Attempt where
  /-- the stage in progress or to be evaluated: 0 the rail stage, 1 to 8 VCORE stages; 9 once stage 8 has ended -/
  stage : Nat
  /-- that stage has started and has not ended -/
  running : Bool
  /-- consecutive deferrals of the stage -/
  defers : Nat
  deriving DecidableEq, Repr

/-- What the power side holds of one field. -/
structure FieldPower where
  st : FieldSt
  /-- READY of its pages: the FCU runs -/
  ready : Bool
  /-- returned from dark, and the re-placement transaction that lets the fabric route into it has not committed (R198, R443) -/
  unrouted : Bool
  /-- kiln imposed by the capping ladder, and for heat (R450, R452) -/
  kilnCap : Bool
  kilnHeat : Bool
  /-- a dark target imposed for the cause that LAST_DARK encodes -/
  darkBy : Option Nat
  lastDark : Nat
  /-- the effective target at the latest tick -/
  target : FieldSt
  attempt : Option Attempt
  /-- last stage started (FLD_STATE.STAGE) -/
  stage : Nat
  /-- order in which its target rose, while it waits for a ramp slot (R445) -/
  waitNo : Option Nat
  /-- beat before which no new attempt starts (R446) -/
  retryAt : Option Beat
  /-- kiln entry in progress (R440) -/
  kilnEntry : Bool
  /-- it has been dark since it was last on (R216, R511) -/
  wasDark : Bool
  /-- phases that are not running, by number (R437, R438) -/
  vcore : Map PhaseSt
  vret : Map PhaseSt
  vfab : Map PhaseSt
  /-- converters FC_A and FC_B that have failed -/
  fcA : Bool
  fcB : Bool
  brkClosed : Bool
  brkLocked : Bool
  /-- time of a FIELD_SHORT that no RECLOSE has answered, and of the latest RECLOSE (R455), in 0.25 ns -/
  shortAt : Option Nat
  reclosedAt : Option Nat
  /-- dark by OVER_TEMP (R458) -/
  overTemp : Bool
  thermCap : Nat
  powCap : Nat
  /-- evaluations in a row at or above T_CAP, below T_CAP − 5 °C for the cap, and below it for kiln (R452) -/
  hot : Nat
  cool : Nat
  coolKiln : Nat
  /-- TELEM_STALE holds the thermal cap at step 3 (R468); an implausible pair holds it at step 2 (R476) -/
  stale : Bool
  plausHold : Bool
  /-- the step that clock and voltage have reached (R448) -/
  clk : Nat
  /-- plausibility failed lastingly: the hold stays (R487) -/
  plausLasting : Bool
  deriving DecidableEq, Repr

/-- An action of the capping ladder (R450). -/
inductive CapAct where
  | limit
  /-- fields whose cap moved -/
  | slower (fields : List Nat)
  | kiln (field : Nat)
  deriving DecidableEq, Repr

/-- The module power manager. -/
structure PowerMgr where
  /-- 44 V valid, and since when, in 0.25 ns -/
  valid : Bool
  validAt : Nat
  connSuspect : Bool
  inputLow : Bool
  coolantLow : Bool
  /-- power of the latest window, W, and its end, in 0.25 ns (R435) -/
  watts : Nat
  wattsAt : Nat
  /-- actions in effect, latest first -/
  acts : List CapAct
  /-- windows in a row below 90 % of CAP_EFF -/
  under : Nat
  nextWait : Nat
  /-- THERM_TRIP# asserted because of COOLANT_LOSS -/
  coolantTrip : Bool
  deriving DecidableEq, Repr

/-! ### Telemetry converters (19) -/

/-- What a converter converts now (R472 to R475). -/
inductive ConvJob where
  | idle
  /-- an entry of its regular sequence, and of its partner's while it covers -/
  | regular (n : Nat)
  | regularFor (n : Nat)
  | injected (n : Nat)
  | injectedFor (n : Nat)
  /-- CAL, with COVER or without -/
  | cal (cover : Bool)
  deriving DecidableEq, Repr

/-- A telemetry converter. -/
structure Conv where
  job : ConvJob
  /-- the regular job that an injected run or a CAL interrupted -/
  resume : ConvJob
  /-- the regular sequence runs (TEL_STATUS.RUNNING) -/
  running : Bool
  /-- entry in progress or next -/
  entry : Nat
  passes : Nat
  /-- start of the current pass, in 0.25 ns -/
  passAt : Nat
  /-- a pass is to start once the injected runs or the CAL have ended (R474) -/
  startDue : Bool
  injPending : Bool
  /-- triggers that fired before the run started, and those of the pending run -/
  cause : BitVec 3
  nextCause : BitVec 3
  calState : Nat
  /-- a CAL, with COVER or without, that begins when the injected runs have ended -/
  calDue : Option Bool
  /-- CALs that have failed in succession (R470) -/
  calFails : Nat
  ofs : BitVec 8
  gain : BitVec 16
  /-- latest result of each input: code and time, in 0.25 ns (R468) -/
  readings : Map (Nat × Nat)
  /-- it is failed under R487 -/
  failed : Bool
  /-- its last plausibility comparison failed, and recalibration of the pair is under way (R476) -/
  plausFail : Bool
  recal : Bool
  deriving DecidableEq, Repr

/-! ### Recovery (20) -/

/-- An entry of the recovery log (R499). -/
structure LogEntry where
  /-- names the entry inside the model -/
  id : Nat
  code : Code
  kind : Nat
  result : Nat
  unit : Nat
  /-- DURATION, in µs -/
  us : Nat
  deriving DecidableEq, Repr

/-- A fault that a block has reported to the module controller: its code, and KIND and UNIT as in the log (R480, R499). DEDUCED, log 35. -/
structure FaultRec where
  code : Code
  kind : Nat
  unit : Nat
  /-- its log entry, once it has one -/
  entry : Nat
  deriving DecidableEq, Repr

/-- An entry of the fault queue (R494): its faults, when the first was detected, in 0.25 ns, and what they strike and cost. -/
structure FaultEntry where
  faults : List FaultRec
  at_ : Nat
  /-- models suspended for it, ascending -/
  models : List Nat
  /-- cores to be retired, the reasons, and whether their routers are retired -/
  retire : List (Nat × Byte × Bool)
  /-- cores, fields and stacks that its faults name -/
  cores : List Nat
  fields : List Nat
  stackNos : List Nat
  /-- models of which every stack frame counts as lost (R485) -/
  lostStack : List Nat
  /-- stack channels to be restarted: stack and channel (R489) -/
  chans : List (Nat × Nat)
  deriving DecidableEq, Repr

/-- RC_STATE.PHASE of a running plan (R489, R499). -/
inductive RecPlanPhase where
  | planning | armed | applying
  deriving DecidableEq, Repr

/-- The running recovery plan (R489). -/
structure RecPlan where
  entry : FaultEntry
  phase : RecPlanPhase
  group : Nat
  /-- the placements whose cores still hold the contents to be moved, by model -/
  src : Map Placed
  /-- the new placements of models that are moved, and of those demoted (R492) -/
  moves : Map Placed
  demote : Map Placed
  /-- models without enough free cores, which are unloaded (R492) -/
  lose : List Nat
  /-- the group has committed -/
  committed : Bool
  /-- a fault struck it when it could no longer be aborted (R495) -/
  again : Bool
  /-- slots whose banks are being copied: model, field, slot, former core and new core; former cores of which a read was not clean;
  and whether contents have been sent -/
  copying : List (Nat × Nat × Nat × Nat × Nat)
  unclean : List Nat
  written : Bool
  /-- contents and threads are in place again -/
  started : Bool
  /-- models that have lost an activations bank (R491) -/
  lostFrames : List Nat
  deriving DecidableEq, Repr

/-- What the module controller keeps of faults and recovery. -/
structure Recovery where
  /-- the last 64 log entries, newest first, and the numbers handed out -/
  log : List LogEntry
  nextLog : Nat
  /-- faults reported and not yet taken up -/
  reported : List FaultRec
  /-- lasting faults that wait for a plan, in order of detection (R494) -/
  queue : List FaultEntry
  plan : Option RecPlan
  /-- RECOVERY_OVERFLOW (R496, R497): no step issues and plans stop -/
  overflow : Bool
  /-- time of the latest lasting parity event of a core, and of the latest transfer failure of a model (R484, R486) -/
  parityAt : Map Nat
  transferAt : Map Nat
  /-- models suspended until the edge fields of their stacks are on again, and the channels to be restarted then (R482) -/
  awaitStack : Map (List (Nat × Nat))
  /-- those of them whose contents have been sent -/
  awaitSent : List Nat
  /-- RC_LOG_HI as latched -/
  logHi : Word
  deriving DecidableEq, Repr

/-! ### Start-up, records and firmware (21) -/

/-- What a component or a unit of it runs: the image's SVN, VERSION, measurement and compatibility block (R411, R513). -/
structure FwRun where
  svn : Nat
  version : Nat
  hash : List Byte
  release : Nat
  iface : Nat
  order : Nat
  minIface : List Nat
  recVersions : List Nat
  deriving DecidableEq, Repr

/-- A firmware component (R501, R523). -/
structure Component where
  /-- bank running and bank booted next: 0 A, 1 B -/
  runBank : Nat
  bootBank : Nat
  /-- state of the inactive bank: 0 EMPTY, 1 STAGING, 2 STAGED, 3 ACTIVATED -/
  inactive : Nat
  fellBack : Bool
  bankA : List Byte
  bankB : List Byte
  /-- what each unit that has booted runs, and units that could boot neither bank (R515) -/
  runs : Map FwRun
  dead : List Nat
  deriving DecidableEq, Repr

/-- How a record type was resolved (R504 to R506, R523). -/
structure RecRes where
  /-- REC_STATE.STATE -/
  st : Nat
  slot : Nat
  version : Nat
  deriving DecidableEq, Repr

/-- A staging in progress (R519). -/
structure Staging where
  target : Nat
  len : Nat
  /-- bytes written, by offset / 1,024 -/
  chunks : Map (List Byte)
  deriving DecidableEq, Repr

/-- A RESTART in progress (R516): component, the unit that restarts, and those that follow; whether that unit has stopped, or
still waits. -/
structure Restart where
  component : Nat
  unit : Nat
  rest : List Nat
  begun : Bool
  deriving DecidableEq, Repr

/-- Secure flash, start-up and the service port. -/
structure BootUnit where
  /-- MC_STATE.STAGE, SERVICE_READY, HOST_READY and SERVICE_MODE with its cause -/
  stage : Nat
  serviceReady : Bool
  hostReady : Bool
  serviceMode : Bool
  cause : Code
  tService : Nat
  tHost : Nat
  /-- fields not on at the end of stage 4 -/
  pending : Nat
  /-- configuration in force since the MC's boot -/
  cfg : Option BootCfg
  /-- fields whose self-test runs (R511) -/
  testing : List Nat
  /-- converters whose covered recalibration stage 6 still awaits, in order -/
  calTodo : List Nat
  comps : Map Component
  /-- record copies: type × 2 + slot to bytes -/
  records : Map (List Byte)
  recRes : Map RecRes
  /-- a FLOOR_MAP write failed and is to be retried (R504) -/
  floorDue : Bool
  restart : Option Restart
  /-- FW_RESULT: STATE and CODE -/
  fwState : Nat
  fwCode : Code
  deriving DecidableEq, Repr

/-- A response kept for repeated requests (R520). -/
structure SpResp where
  seq : Nat
  op : Nat
  status : Code
  data : List Byte
  deriving DecidableEq, Repr

/-- The service port (R517 to R520). -/
structure ServicePort where
  up : Bool
  session : Option Nat
  nextSession : Nat
  staging : Option Staging
  /-- responses of each requester's last 256 requests, newest first -/
  cache : Map (List SpResp)
  /-- responses to the open session's last 256 requests, newest first -/
  sessCache : List SpResp
  /-- requests whose response has not been sent: requester, SEQ and SESSION -/
  waiting : List (Nat × Nat × Nat)
  deriving DecidableEq, Repr

/-- What left the engine on a link or a pin. DESIGN CHOICE, log 4. -/
inductive Output where
  /-- MSI-X message of a vector, with the address and data of its table entry (R366) -/
  | msix (v : Nat) (entry : MsixEntry)
  /-- what the function presents once the link has trained (R355) -/
  | presents (f : FnIdentity)
  /-- Unsupported Request answered to the host (R46, R357) -/
  | unsupported
  /-- requests for a line of host memory: a read, a write of the whole line, and one of part of it with its byte enables (R360) -/
  | rdCurr (id line : Nat)
  | itoMWr (id line : Nat) (data : List Byte)
  | woWrInv (id line : Nat) (enables : BitVec 64) (data : List Byte)
  /-- RspIHitI (R360) -/
  | rspIHitI
  /-- data of a CXL.mem read, or its HDM decoder error (R363) -/
  | hdmData (data : List Byte)
  | hdmError
  /-- a DOE response: protocol and body, or the DOE error bit (R368) -/
  | doe (protocol : Nat) (body : List Byte)
  | doeError
  /-- a flit of 276 bytes on a chain link (R375) -/
  | flit (link : Nat) (bytes : List Byte)
  /-- a handshake message (R423): link, step and content -/
  | handshake (link step : Nat) (data : List Byte)
  /-- a response of the service port: requester, OP, STATUS, SEQ and payload (R517) -/
  | datagram (dst op : Nat) (status : Code) (seq : Nat) (data : List Byte)
  /-- an answer to neighbour discovery or echo (R517) -/
  | icmp (global : Bool) (req : IcmpReq)
  deriving DecidableEq, Repr

/-! ### Why a step stops -/

/-- The machine stops with a fault. DESIGN CHOICE, log 21. -/
inductive Fault where
  /-- Raised by BEAT_TICK: since the lock the selected source has sent a malformed frame or a number out of order, where the
  behaviour of the engine is undefined (R41). Safe: the model claims nothing from there on. -/
  | beatUndefined
  deriving DecidableEq, Repr

/-- No meaning for the command. -/
inductive Refusal where
  /-- Answered by the arm of a command that is not modelled. Safe: nothing can be proved of it. -/
  | notModelled (mnemonic : String)
  deriving DecidableEq, Repr

/-! ### The engine -/

/-- Everything the engine holds. DESIGN CHOICE, log 61. DESIGN CHOICE, log 62. -/
structure State where
  /-- commands that wait, first in first out: the model's own -/
  pending : List Instr
  /-- live values of the registers that differ from reset, keyed by page × 4096 + offset (R52) -/
  live : Map Word
  /-- shadow values that differ from the live value (R52), keyed alike -/
  shadow : Map Word
  /-- what each master's latest read returned, by master ID: the model's own -/
  busOut : Map DWord
  /-- what left the engine, latest last: the model's own -/
  out : List Output
  /-- free values drawn so far: the model's own -/
  freeCount : Nat
  beat : BeatUnit
  /-- groups that are not as after reset, by number -/
  groups : Map Group
  /-- TXN_GROUP_SEL of each master, by master ID: GROUP and NONE (R63) -/
  groupSel : Map (Nat × Bool)
  /-- cores that are not as after reset, by core ID -/
  cores : Map Core
  /-- core store bytes that are not 0, by local address (R206, R216) -/
  mem : Map Byte
  /-- bytes of activations-mode banks whose parity is lastingly bad, by local address, ascending (R214) -/
  badParity : List Nat
  /-- engine DMA credits in use (R94) -/
  credits : Nat
  /-- tallies that are not 0, by number (R131) -/
  tallies : Map Tally
  /-- targets of hub tallies (R131) -/
  hubTargets : Map (BitVec 24)
  /-- wait lists: field F port p at 4F + p, hub port h at 320 + h (R135) -/
  waits : Map (List WaitEntry)
  /-- TALLY messages that have reached a tally block: field F at F, hub port h at 80 + h; each with its port -/
  tallyIn : Map (List (Nat × Msg))
  /-- routers that are not as after reset, by core ID -/
  routers : Map Router
  stk : Map Stack
  /-- stack bytes by local address, where written under the key that the unit's entry names (R220, R225) -/
  stackMem : Map Byte
  /-- identity of the key under which each written 512-byte unit was written, by unit number -/
  stackKey : Map StoreKey
  /-- CRCs of the 512-byte units that have been written whole (R220) -/
  stackCrc : Map Word
  notices : List Notice
  fieldUnits : Map FieldUnits
  repair : Map Repair
  /-- owner of each core and tally that is not FREE: a model index (R402) -/
  owner : Map Nat
  tallyOwner : Map Nat
  /-- models whose placement carries DEBUG, ascending -/
  debugModels : List Nat
  /-- messages that have reached a chain link attachment, by link -/
  linkIn : Map (List Msg)
  weights : Weights
  serving : Serving
  host : HostIf
  /-- exchange memory bytes that are not 0 (R363) -/
  exch : Map Byte
  /-- links that are not as after reset -/
  links : Map Link
  clReqs : List ClReq
  clIns : List ClIn
  nextTag : Nat
  /-- flush replies that have reached an attachment: link, request and router -/
  clFlushed : List (Nat × Nat × Nat)
  /-- members leaving: accepted inbound requests remain (R395) -/
  leaving : Bool
  /-- route tables: table (0 to 7 ingress, 8 local) × 4096 + bank × 2048 + word (R399) -/
  routes : Map Word
  sec : SecEngine
  /-- fields that are not as after reset, by index -/
  fields : Map FieldPower
  pm : PowerMgr
  /-- converters that are not as after power-up, by number -/
  convs : Map Conv
  recov : Recovery
  boot : BootUnit
  sp : ServicePort
  deriving DecidableEq, Repr

/-- A candidate from which nothing has arrived. -/
def CandState.reset : CandState := ⟨0, 0, 0, false⟩

/-- The beat unit after reset (R42). DESIGN CHOICE, log 7. -/
def BeatUnit.reset : BeatUnit :=
  { mode := .idle, activeSrc := 0, now := 0, last := 0, tickAt := 0, edgeSince := false, broken := false, lossPeriod := 0,
    ext := .reset, links := List.replicate 8 .reset, acq := .reset, intervals := [], prevArrival := none,
    lockAt := none, nowHi := 0, lastHi := 0, linkDelays := List.replicate 8 [] }

/-- A thread after core reset (R105). -/
def Thread.reset : Thread := { st := .stopped, wait := .none, met := false, pc := 0, beyond := false, s := [], v := [], a := [] }

/-- A core after its field enters on from dark (R216). DESIGN CHOICE, log 7. -/
def Core.reset : Core :=
  { threads := [], handles := [], bankMode := 0x555555, shadowRegs := [], dirty := false, full := [], score := [],
    dmq := [], units := [], nextId := 0, cache := [], useStamp := 0, misses := [], clearing := [],
    lastIssued := 15, offerCycle := 0, passed := [], inject := [], engine := [], eject := [], wakes := [], refused := [], draining := false, startPc := [],
    coreErr := 0, dmaErr := 0, dmaFails := 0, dirtyDropped := 0, arrayStat := 0, arrayLast := 0, storeStat := 0,
    storeLast := 0, sparge := 0, classified := [] }

/-- A router with empty queues and tables. -/
def Router.reset : Router :=
  { queues := [], outq := [], ext := [], grant := [], ownerTurn := 0, combine := [], merge := [], mergeNo := 0, fan := [], failed := [],
    replay := [] }

/-- A channel after reset (R234). -/
def Chan.reset : Chan :=
  { st := .idle, code := 0, cur := 0, done := 0, lastEpoch := 0, desc := none, started := 0, segs := [], nextSeg := 0,
    credit := false, woken := none, refused := false, aborting := false, failed := none }

/-- A stack controller after reset (R233). -/
def Stack.reset : Stack := { keys := [], inbox := [], chans := [], poolFree := 0x4000, lastFail := 0 }

/-- No permits, marks or records. -/
def FieldUnits.reset : FieldUnits :=
  { permits := [], quotaQ := [], marks := [], records := [], pendingWatch := [], recordedWatch := [] }

/-- A core as shipped: enabled. DESIGN CHOICE, log 7. -/
def Repair.reset : Repair := { enabled := true, shipped := true, routerRetired := false, reason := 0 }

/-- A model entry after reset: EMPTY. -/
def Model.reset : Model :=
  { place := none, alt := none, epA := none, epB := none, switching := none, suspended := false, lostCores := [], marker := 0, outNo := 0,
    outEpoch := 0, collect := none, readNo := 0, stage := [], stageNext := 0, kv := ⟨[], [], 0⟩ }

/-- A free adapter slot. -/
def Adapter.reset : Adapter :=
  { st := .free, refs := 0, version := 0, tenant := 0, model := 0, stack := 0, off := 0, len := 0 }

/-- No models, installs or adapters. -/
def Weights.reset : Weights :=
  { models := [], load := none, inst := none, adapters := [], adSlot := 0, adInst := none, reloads := [], nextReload := 0,
    serving := [], unloading := none, asked := none, adAsked := false }

/-- Nothing held in a model. -/
def StreamKv.reset : StreamKv :=
  { blocks := [], resv := 0, cand := none, entries := [], adopted := 0, next := 0, parent := 0xFFFF, eligible := false,
    capture := none }

/-- A FREE stream. -/
def Stream.reset : Stream :=
  { st := .free, back := .free, epoch := 0, model := 0, tenant := 0, ad := none, rebind := none, step := 0, pos := 0,
    topk := 0, batch := false, channel := 0, spec := false, pub := false, hold := .none, sumSeen := 0, nextBeat := 0,
    lastCode := 0, reqSeq := 0, selSeq := 0, session := 0, promptEnd := 0, prompt := 0, first := false, token := 0,
    tokens := [], paid := [], endCode := 0, kv := .reset, dkv := .reset, size := 0, zrun := 0, plain := 0, prevA := 0,
    prevPath := [], probe := false, lastNodes := [], lastDepth := 0, lastProbe := false, lastPos := 0, joined := none, joinNo := 0,
    run := none }

/-- The serving engine after reset. -/
def Serving.reset : Serving :=
  { streams := [], balances := [], batches := [], nextBatch := 0, nextJoin := 0, polling := false, work := [], cons := 0,
    writeOff := 0, rseq := 0, skipped := false, queue := [], late := [], recs := [], px := [],
    pubKey := List.replicate 32 0, stLatch := List.replicate 6 0, pxLatch := List.replicate 3 0 }

/-- The host interface after reset. DESIGN CHOICE, log 7. PRESUMED, log 8. -/
def HostIf.reset : HostIf :=
  { up := false, cacheEn := false, hdmOn := false, memSpace := false, rate := 0, width := 0, lopt := false, ideIo := false,
    ideCm := false, msixMask := 0xF, msix := List.replicate 4 ⟨0, 0⟩, pba := 0, aer := 0, memActive := false, reqs := [],
    waiting := [], jobs := [], nextReq := 0, lastFail := (0, 0), wentDown := false }

/-- No handshake. -/
def Hs.reset : Hs := { mine := [], theirs := [], ssSent := [], ssGot := [], wantSign := false, kemDue := [] }

/-- A link after reset. DESIGN CHOICE, log 7. -/
def Link.reset : Link :=
  { st := .down, peerModule := 0, peerJoined := false, helloSeen := false, hs := .reset, txSeq := 0, rxSeq := 0, replay := [],
    nakFor := none, credits := [0, 0, 0, 0], txq := [], ctlq := [], rx := List.replicate 4 ⟨0, 0, [], []⟩,
    failWait := false, winMc := [], keys := [], sideA := false }

/-- A session at start-up. -/
def Session.reset : Session := { st := .closed, tenant := 0, gen := 0, stream := 0, counter := 0 }

/-- A mailbox after reset. -/
def Mailbox.reset : Mailbox := { st := 0, byte := 0, req := [], resp := [], code := 0 }

/-- The security engine before it boots. DESIGN CHOICE, log 7. -/
def SecEngine.reset : SecEngine :=
  { bootId := none, kemSeed := [], identityOk := false, signHalt := false, leaf := 0, reservedTo := 0, tree := none, bucket := 256,
    tenants := [], sessions := [], mailboxes := [], queue := [], doeIn := [], doeOut := [], ideKeys := [], ideSlot := none,
    configDigest := List.replicate 32 0 }

/-- A field after reset: dark. -/
def FieldPower.reset : FieldPower :=
  { st := .dark, ready := false, unrouted := false, kilnCap := false, kilnHeat := false, darkBy := none, lastDark := 0, target := .dark,
    attempt := none, stage := 0, waitNo := none, retryAt := none, kilnEntry := false, wasDark := true, vcore := [], vret := [],
    vfab := [], fcA := false, fcB := false, brkClosed := false, brkLocked := false, shortAt := none, reclosedAt := none,
    overTemp := false, thermCap := 0, powCap := 0, hot := 0, cool := 0, coolKiln := 0, stale := false, plausHold := false,
    clk := 0, plausLasting := false }

/-- The power manager before 44 V is valid. -/
def PowerMgr.reset : PowerMgr :=
  { valid := false, validAt := 0, connSuspect := false, inputLow := false, coolantLow := false, watts := 0, wattsAt := 0, acts := [],
    under := 0, nextWait := 0, coolantTrip := false }

/-- A converter after power-up. -/
def Conv.reset : Conv :=
  { job := .idle, resume := .idle, running := false, entry := 0, passes := 0, passAt := 0, startDue := false,
    injPending := false, cause := 0, nextCause := 0, calState := 0, calDue := none, calFails := 0, ofs := 0, gain := 0x8000, readings := [],
    failed := false, plausFail := false, recal := false }

/-- Nothing logged. -/
def Recovery.reset : Recovery :=
  { log := [], nextLog := 0, reported := [], queue := [], plan := none, overflow := false, parityAt := [], transferAt := [],
    awaitStack := [], awaitSent := [], logHi := 0 }

/-- A component whose flash holds no image. -/
def Component.reset : Component :=
  { runBank := 0, bootBank := 0, inactive := 0, fellBack := false, bankA := [], bankB := [], runs := [],
    dead := [] }

/-- A component as flash holds it at power-on. -/
def Component.shipped (c : Nat) : Component :=
  { Component.reset with
    runBank := if Config.flashBoot c then 1 else 0
    bootBank := if Config.flashBoot c then 1 else 0
    inactive := if (Config.flashBank c (if Config.flashBoot c then 0 else 1)).isEmpty then 0 else 2
    bankA := Config.flashBank c 0
    bankB := Config.flashBank c 1 }

/-- Start-up at power-on: flash holds what the configuration says. DESIGN CHOICE, log 7. -/
def BootUnit.reset : BootUnit :=
  { stage := 0, serviceReady := false, hostReady := false, serviceMode := false, cause := 0, tService := 0, tHost := 0,
    pending := 0, cfg := none, testing := [], calTodo := [],
    comps := [(0, .shipped 0), (1, .shipped 1), (2, .shipped 2), (3, .shipped 3), (4, .shipped 4)],
    records := [1, 2, 3, 4, 5, 6, 7].flatMap fun t => [(2 * t, Config.flashRecord t 0), (2 * t + 1, Config.flashRecord t 1)],
    recRes := [], floorDue := false, restart := none, fwState := 0, fwCode := 0 }

/-- The service port at power-on. -/
def ServicePort.reset : ServicePort :=
  { up := false, session := none, nextSession := 1, staging := none, cache := [], sessCache := [], waiting := [] }

/-- The machine right after reset. DESIGN CHOICE, log 6. DESIGN CHOICE, log 7. PRESUMED, log 8. -/
def State.reset : State :=
  { pending := [], live := [], shadow := [], busOut := [], out := [], freeCount := 0,
    beat := .reset, groups := [], groupSel := []
    , cores := [], mem := [], badParity := [], credits := 0, tallies := [], hubTargets := [], waits := [], tallyIn := [], routers := []
    , stk := [], stackMem := [], stackKey := [], stackCrc := [], notices := [], fieldUnits := [], repair := []
    , owner := [], tallyOwner := [], debugModels := [], linkIn := []
    , weights := .reset, serving := .reset
    , host := .reset, exch := []
    , links := [], clReqs := [], clIns := [], nextTag := 0, clFlushed := [], leaving := false, routes := []
    , sec := .reset
    , fields := [], pm := .reset
    , convs := []
    , recov := .reset
    , boot := .reset, sp := .reset
  }

end Sys2Proof.Machine
end

