-- ==== Sys2Proof/Machine/Ops.lean ====
section
/-! DEFINITION. The operations every meaning is built from: sparse maps, bit fields, outcomes and free values. -/

namespace Sys2Proof.Machine

open Sys2Proof

/-- What a meaning answers. -/
abbrev Result := Host.Outcome State Fault Refusal

/-! ### Sparse maps -/

/-- The entry of a key. -/
def mfind {α : Type} : Map α → Nat → Option α
  | [], _ => none
  | (j, a) :: m, k => if j = k then some a else mfind m k

/-- The map without a key. -/
def mdel {α : Type} : Map α → Nat → Map α
  | [], _ => []
  | (j, a) :: m, k => if j = k then mdel m k else (j, a) :: mdel m k

/-- The map with an entry set; keys stay in rising order. DESIGN CHOICE, log 3. -/
def mput {α : Type} : Map α → Nat → α → Map α
  | [], k, v => [(k, v)]
  | (j, a) :: m, k, v =>
    if k < j then (k, v) :: (j, a) :: m
    else if j = k then (k, v) :: m
    else (j, a) :: mput m k v

/-- What a key reads as, `d` where it has no entry. DESIGN CHOICE, log 3. -/
def mget {α : Type} (d : α) (m : Map α) (k : Nat) : α := (mfind m k).getD d

/-- Sets a key, dropping the entry where the value is what an unlisted key reads as. DESIGN CHOICE, log 3. -/
def mset {α : Type} [DecidableEq α] (d : α) (m : Map α) (k : Nat) (v : α) : Map α :=
  if v = d then mdel m k else mput m k v

/-- Keys strictly rising, and no entry equal to `d` of its key. -/
def mwf {α : Type} [DecidableEq α] (d : Nat → α) : Map α → Bool
  | [] => true
  | [(k, v)] => decide (v ≠ d k)
  | (k, v) :: (j, w) :: m => decide (k < j) && decide (v ≠ d k) && mwf d ((j, w) :: m)

/-- The entries whose key satisfies `p`, removed. DESIGN CHOICE, log 3. -/
def mdrop {α : Type} (p : Nat → Bool) : Map α → Map α
  | [] => []
  | (k, v) :: m => if p k then mdrop p m else (k, v) :: mdrop p m

/-! ### Bit fields -/

/-- Bits [hi:lo] of a word as a number. -/
def bits {n : Nat} (w : BitVec n) (hi lo : Nat) : Nat := w.toNat / 2 ^ lo % 2 ^ (hi - lo + 1)

/-- Bit `i` of a word. -/
def bit {n : Nat} (w : BitVec n) (i : Nat) : Bool := w.getLsbD i

/-- A word with bits [hi:lo] set to `v`. -/
def withBits {n : Nat} (w : BitVec n) (hi lo v : Nat) : BitVec n :=
  let m := BitVec.ofNat n ((2 ^ (hi - lo + 1) - 1) * 2 ^ lo)
  (w &&& ~~~m) ||| (BitVec.ofNat n (v * 2 ^ lo) &&& m)

/-- 1 for true. -/
def b2n (b : Bool) : Nat := if b then 1 else 0

/-- A number sign-extended from its lowest `n` bits. -/
def sext (n : Nat) (v : Nat) : Int := (BitVec.ofNat n v).toInt

/-- The lower of a count raised by `k` and its greatest value: a saturating counter. -/
def satAdd (max cur k : Nat) : Nat := Nat.min max (cur + k)

/-! ### Lists -/

/-- A list with the entry at an index replaced. -/
def lset {α : Type} (l : List α) (i : Nat) (a : α) : List α := l.set i a

/-- Inserts a number into an ascending list without repeats. -/
def insertAsc (k : Nat) : List Nat → List Nat
  | [] => [k]
  | j :: l => if k < j then k :: j :: l else if k = j then j :: l else j :: insertAsc k l

/-- A list without a value. -/
def without (k : Nat) (l : List Nat) : List Nat := l.filter (· ≠ k)

/-- The little-endian number of a list of bytes. -/
def leNat : List Byte → Nat
  | [] => 0
  | b :: l => b.toNat + 256 * leNat l

/-- The `n` little-endian bytes of a number. -/
def leBytes : Nat → Nat → List Byte
  | 0, _ => []
  | n + 1, v => BitVec.ofNat 8 v :: leBytes n (v / 256)

/-- Pieces of a range: each at most `max` bytes and within one unit of `align` bytes of address a. Entries are offset and
length. -/
def pieces (max align a : Nat) : Nat → Nat → Nat → List (Nat × Nat)
  | 0, _, _ => []
  | fuel + 1, off, len =>
    if len = 0 then []
    else
      let n := Nat.min (Nat.min max len) (align - (a + off) % align)
      (off, n) :: pieces max align a fuel (off + n) (len - n)

/-- The pieces of a whole range. -/
def piecesOf (max align a len : Nat) : List (Nat × Nat) := pieces max align a len 0 len

/-! ### Output and free values -/

/-- The engine sends something. DESIGN CHOICE, log 4. -/
def emit (o : Output) (s : State) : State := { s with out := s.out ++ [o] }

/-- The next free value: the manual says a value results and not which (Config.freeWord). DESIGN CHOICE, log 5. -/
def freshWord (s : State) : DWord × State :=
  (Config.freeWord s.freeCount, { s with freeCount := s.freeCount + 1 })

/-- Fresh bytes: 8 at a time. DESIGN CHOICE, log 5. -/
def freshBytes : Nat → State → List Byte × State
  | 0, s => ([], s)
  | n + 1, s =>
    let a := freshWord s
    let r := freshBytes n a.2
    (leBytes 8 a.1.toNat ++ r.1, r.2)

/-- The little-endian number of n bytes at an offset. -/
def le (l : List Byte) (off n : Nat) : Nat := leNat ((l.drop off).take n)

/-- n bytes at an offset. -/
def bytesAt (l : List Byte) (off n : Nat) : List Byte := (l.drop off).take n

/-- Whether n bytes at an offset are all 0. -/
def zeros (l : List Byte) (off n : Nat) : Bool := (bytesAt l off n).all (· == 0)

/-- A core's ID (R11). -/
def coreId (c : CoreRef) : Nat := 4096 * c.field.val + c.cy.val * 64 + c.cx.val

/-- A master's ID (R43). -/
def masterId : Master → Nat
  | .mc => 0 | .host => 1 | .service => 2 | .security => 3 | .peer l => 8 + l.val

/-- Whether a number is a core ID that R11 allows. -/
def coreIdValid (c : Nat) : Bool := c / 4096 < 80 && c / 64 % 64 < 60

/-- Beat c lies in the future at beat b (R35). -/
def inFuture (c b : Beat) : Bool := 1 ≤ (c - b).toNat && (c - b).toNat ≤ 2 ^ 47 - 1

end Sys2Proof.Machine
end

