-- ==== Sys2Proof/Machine/Crypto.lean ====
section
/-! DEFINITION. The hash, key derivation and authenticated encryption that the seals use (R413, R417): SHA-256, HMAC, HKDF with
SHA-256 under RFC 5869, AES-256, AES-256-CTR and AES-256-GCM. -/

namespace Sys2Proof.Machine

open Sys2Proof

/-- The big-endian number of a list of bytes. -/
def beNat (l : List Byte) : Nat := l.foldl (fun n b => 256 * n + b.toNat) 0

/-- The `n` big-endian bytes of a number. -/
def beBytes (n v : Nat) : List Byte := (leBytes n v).reverse

/-- A list cut into groups of n, the last of which may be shorter. -/
def groups {α : Type} (n : Nat) : Nat → List α → List (List α)
  | 0, _ => []
  | k + 1, l => if l.isEmpty then [] else l.take n :: groups n k (l.drop n)

/-- A list of bytes cut into groups of n. -/
def groupsOf (n : Nat) (l : List Byte) : List (List Byte) := groups n l.length l

/-- Bytewise exclusive or, as long as the shorter. -/
def xorBytes (a b : List Byte) : List Byte := List.zipWith (· ^^^ ·) a b

/-! ### SHA-256 -/

/-- The 64 round constants, first in the highest bits. -/
def shaK : Nat := 0x428A2F9871374491B5C0FBCFE9B5DBA53956C25B59F111F1923F82A4AB1C5ED5D807AA9812835B01243185BE550C7DC372BE5D7480DEB1FE9BDC06A7C19BF174E49B69C1EFBE47860FC19DC6240CA1CC2DE92C6F4A7484AA5CB0A9DC76F988DA983E5152A831C66DB00327C8BF597FC7C6E00BF3D5A7914706CA63511429296727B70A852E1B21384D2C6DFC53380D13650A7354766A0ABB81C2C92E92722C85A2BFE8A1A81A664BC24B8B70C76C51A3D192E819D6990624F40E3585106AA07019A4C1161E376C082748774C34B0BCB5391C0CB34ED8AA4A5B9CCA4F682E6FF3748F82EE78A5636F84C878148CC7020890BEFFFAA4506CEBBEF9A3F7C67178F2

/-- The first hash value. -/
def shaInit : List Word :=
  [0x6A09E667, 0xBB67AE85, 0x3C6EF372, 0xA54FF53A, 0x510E527F, 0x9B05688C, 0x1F83D9AB, 0x5BE0CD19]

/-- A word rotated right. -/
def rotr (w : Word) (n : Nat) : Word := w.rotateRight n

/-- The eight working words after one round with schedule word w and constant k. -/
def shaRound (v : List Word) (w k : Word) : List Word :=
  match v with
  | [a, b, c, d, e, f, g, h] =>
    let t1 := h + (rotr e 6 ^^^ rotr e 11 ^^^ rotr e 25) + ((e &&& f) ^^^ (~~~e &&& g)) + k + w
    let t2 := (rotr a 2 ^^^ rotr a 13 ^^^ rotr a 22) + ((a &&& b) ^^^ (a &&& c) ^^^ (b &&& c))
    [t1 + t2, a, b, c, d + t1, e, f, g]
  | _ => v

/-- Rounds from the one numbered 64 − n on, with the next 16 schedule words. -/
def shaRounds : Nat → List Word → List Word → List Word
  | 0, _, v => v
  | n + 1, w, v =>
    let w0 := w.headD 0
    let w1 := w.getD 1 0
    let w14 := w.getD 14 0
    let s0 := rotr w1 7 ^^^ rotr w1 18 ^^^ (w1 >>> 3)
    let s1 := rotr w14 17 ^^^ rotr w14 19 ^^^ (w14 >>> 10)
    shaRounds n (w.drop 1 ++ [s1 + w.getD 9 0 + s0 + w0]) (shaRound v w0 (BitVec.ofNat 32 (shaK / 2 ^ (32 * n))))

/-- One 64-byte block is taken into the hash value. -/
def shaBlock (h : List Word) (b : List Byte) : List Word :=
  let w := (List.range 16).map fun i => BitVec.ofNat 32 (beNat ((b.drop (4 * i)).take 4))
  List.zipWith (· + ·) h (shaRounds 64 w h)

/-- A message padded to whole blocks. -/
def shaPad (l : List Byte) : List Byte :=
  l ++ 0x80 :: List.replicate ((119 - l.length % 64) % 64) 0 ++ beBytes 8 (8 * l.length)

/-- SHA-256 of a list of bytes, 32 bytes. PRESUMED, log 67. -/
def sha256 (l : List Byte) : List Byte :=
  ((groupsOf 64 (shaPad l)).foldl shaBlock shaInit).flatMap fun w => beBytes 4 w.toNat

/-- HMAC-SHA-256. -/
def hmac (key msg : List Byte) : List Byte :=
  let k0 := if 64 < key.length then sha256 key else key
  let k := k0 ++ List.replicate (64 - k0.length) 0
  sha256 (k.map (· ^^^ 0x5C) ++ sha256 (k.map (· ^^^ 0x36) ++ msg))

/-- The expand blocks of HKDF from number i on. -/
def hkdfExpand (prk info : List Byte) : Nat → Nat → List Byte → List Byte
  | 0, _, _ => []
  | n + 1, i, t =>
    let t' := hmac prk (t ++ info ++ [BitVec.ofNat 8 i])
    t' ++ hkdfExpand prk info n (i + 1) t'

/-- HKDF(IKM, salt, info, L); an absent salt is 32 zero bytes. PRESUMED, log 67. -/
def hkdf (ikm : List Byte) (salt : Option (List Byte)) (info : List Byte) (len : Nat) : List Byte :=
  (hkdfExpand (hmac (salt.getD (List.replicate 32 0)) ikm) info ((len + 31) / 32) 1 []).take len

/-! ### AES-256 -/

/-- The substitution table, entry 0 in the highest bits. -/
def aesSbox : Nat := 0x637C777BF26B6FC53001672BFED7AB76CA82C97DFA5947F0ADD4A2AF9CA472C0B7FD9326363FF7CC34A5E5F171D8311504C723C31896059A071280E2EB27B27509832C1A1B6E5AA0523BD6B329E32F8453D100ED20FCB15B6ACBBE394A4C58CFD0EFAAFB434D338545F9027F503C9FA851A3408F929D38F5BCB6DA2110FFF3D2CD0C13EC5F974417C4A77E3D645D197360814FDC222A908846EEB814DE5E0BDBE0323A0A4906245CC2D3AC629195E479E7C8376D8DD54EA96C56F4EA657AAE08BA78252E1CA6B4C6E8DD741F4BBD8B8A703EB5664803F60E613557B986C11D9EE1F8981169D98E949B1E87E9CE5528DF8CA1890DBFE6426841992D0FB054BB16

/-- A substituted byte. -/
def aesSub (b : Byte) : Byte := BitVec.ofNat 8 (aesSbox / 2 ^ (8 * (255 - b.toNat)))

/-- A byte times x in the field of AES. -/
def aesX (b : Byte) : Byte := (b <<< 1) ^^^ (if b.getLsbD 7 then 0x1B else 0)

/-- Words of the key schedule from number i on; `w` holds the last eight. -/
def aesKeyWords : Nat → Nat → Byte → List (List Byte) → List (List Byte)
  | 0, _, _, _ => []
  | n + 1, i, rc, w =>
    let prev := w.getD 7 []
    let t := if i % 8 = 0 then xorBytes ((prev.drop 1 ++ prev.take 1).map aesSub) [rc, 0, 0, 0]
      else if i % 8 = 4 then prev.map aesSub else prev
    let k := xorBytes (w.headD []) t
    k :: aesKeyWords n (i + 1) (if i % 8 = 0 then aesX rc else rc) (w.drop 1 ++ [k])

/-- The fifteen round keys of a 32-byte key. -/
def aesKeys (key : List Byte) : List (List Byte) :=
  let w := groupsOf 4 key
  (groups 4 15 (w ++ aesKeyWords 52 8 1 w)).map List.flatten

/-- Substitution and the shift of rows. -/
def aesShift (s : List Byte) : List Byte := (List.range 16).map fun i => aesSub (s.getD ((5 * i) % 16) 0)

/-- One column mixed. -/
def aesMixCol (c : List Byte) : List Byte :=
  match c with
  | [a, b, c, d] =>
    let t := a ^^^ b ^^^ c ^^^ d
    [a ^^^ t ^^^ aesX (a ^^^ b), b ^^^ t ^^^ aesX (b ^^^ c), c ^^^ t ^^^ aesX (c ^^^ d), d ^^^ t ^^^ aesX (d ^^^ a)]
  | _ => c

/-- The remaining rounds. -/
def aesRounds : List (List Byte) → List Byte → List Byte
  | [], s => s
  | [k], s => xorBytes (aesShift s) k
  | k :: ks, s => aesRounds ks (xorBytes ((groupsOf 4 (aesShift s)).flatMap aesMixCol) k)

/-- AES-256 of one block under the round keys. PRESUMED, log 67. -/
def aesEnc (ks : List (List Byte)) (b : List Byte) : List Byte := aesRounds (ks.drop 1) (xorBytes b (ks.headD []))

/-- The byte that a byte is substituted for. -/
def aesUnsub (b : Byte) : Byte := BitVec.ofNat 8 (((List.range 256).find? fun i => aesSub (BitVec.ofNat 8 i) == b).getD 0)

/-- The shift of rows and the substitution undone. -/
def aesUnshift (s : List Byte) : List Byte := (List.range 16).map fun i => aesUnsub (s.getD ((13 * i) % 16) 0)

/-- One column unmixed: mixing it four times is the identity. -/
def aesUnmixCol (c : List Byte) : List Byte := aesMixCol (aesMixCol (aesMixCol c))

/-- The rounds undone, the round keys last first. -/
def aesUnrounds : List (List Byte) → List Byte → List Byte
  | [], s => s
  | [k], s => xorBytes s k
  | k :: ks, s => aesUnrounds ks (aesUnshift ((groupsOf 4 (xorBytes s k)).flatMap aesUnmixCol))

/-- AES-256 of one block undone under the round keys. PRESUMED, log 67. -/
def aesDec (ks : List (List Byte)) (b : List Byte) : List Byte :=
  match ks.reverse with
  | k :: ks => aesUnrounds ks (aesUnshift (xorBytes b k))
  | [] => b

/-! ### XTS (R225) -/

/-- A tweak times x: the lowest bit is bit 0 of the first byte. -/
def xtsDouble (t : Nat) : Nat := (2 * t) % 2 ^ 128 ^^^ (if 2 ^ 127 ≤ t then 0x87 else 0)

/-- The tweak of 16-byte block j of a data unit, under the second half of a 64-byte key. -/
def xtsTweak (key : List Byte) (unit j : Nat) : List Byte :=
  leBytes 16 ((List.range j).foldl (fun t _ => xtsDouble t) (leNat (aesEnc (aesKeys (key.drop 32)) (leBytes 16 unit))))

/-- AES-256-XTS of a block. PRESUMED, log 67. -/
def xtsEnc (key : List Byte) (unit j : Nat) (b : List Byte) : List Byte :=
  let t := xtsTweak key unit j
  xorBytes (aesEnc (aesKeys (key.take 32)) (xorBytes b t)) t

/-- AES-256-XTS of a block undone. -/
def xtsDec (key : List Byte) (unit j : Nat) (b : List Byte) : List Byte :=
  let t := xtsTweak key unit j
  xorBytes (aesDec (aesKeys (key.take 32)) (xorBytes b t)) t

/-- Bytes exclusive-or'ed with the key stream of counter blocks; `ctr` gives the block of a group. -/
def aesStream (ks : List (List Byte)) (ctr : Nat → List Byte) : Nat → List (List Byte) → List Byte
  | _, [] => []
  | i, g :: gs => xorBytes g (aesEnc ks (ctr i)) ++ aesStream ks ctr (i + 1) gs

/-- AES-256-CTR of R417: bytes that begin at 16-byte block j of the plaintext. -/
def aesCtr (key : List Byte) (j : Nat) (l : List Byte) : List Byte :=
  aesStream (aesKeys key) (fun i => beBytes 16 i) j (groupsOf 16 l)

/-! ### GCM -/

/-- The product of two blocks in the field of GHASH, bit 0 of a block being its highest: n bits of x are left. -/
def ghMul : Nat → BitVec 128 → BitVec 128 → BitVec 128 → BitVec 128
  | 0, _, _, z => z
  | n + 1, x, v, z =>
    let v' := (v >>> 1) ^^^ (if v.getLsbD 0 then 0xE1000000000000000000000000000000 else 0)
    ghMul n x v' (if x.getLsbD n then z ^^^ v else z)

/-- GHASH of whole and padded blocks. -/
def ghash (h : BitVec 128) (l : List (List Byte)) : BitVec 128 :=
  l.foldl (fun y b => ghMul 128 (y ^^^ BitVec.ofNat 128 (beNat (b ++ List.replicate (16 - b.length) 0))) h 0) 0

/-- The tag of a ciphertext. -/
def gcmTag (ks : List (List Byte)) (nonce aad ct : List Byte) : List Byte :=
  let h := BitVec.ofNat 128 (beNat (aesEnc ks (List.replicate 16 0)))
  let s := ghash h (groupsOf 16 aad ++ groupsOf 16 ct ++ [beBytes 8 (8 * aad.length) ++ beBytes 8 (8 * ct.length)])
  xorBytes (beBytes 16 s.toNat) (aesEnc ks (nonce ++ beBytes 4 1))

/-- Encryption or decryption of the data under a 12-byte nonce. -/
def gcmCrypt (ks : List (List Byte)) (nonce l : List Byte) : List Byte :=
  aesStream ks (fun i => nonce ++ beBytes 4 i) 2 (groupsOf 16 l)

/-- AES-256-GCM: ciphertext and tag. PRESUMED, log 67. -/
def gcmSeal (key nonce aad pt : List Byte) : List Byte × List Byte :=
  let ks := aesKeys key
  let ct := gcmCrypt ks nonce pt
  (ct, gcmTag ks nonce aad ct)

/-- AES-256-GCM opened: the plaintext where the tag verifies. -/
def gcmOpen (key nonce aad ct tag : List Byte) : Option (List Byte) :=
  let ks := aesKeys key
  if gcmTag ks nonce aad ct = tag then some (gcmCrypt ks nonce ct) else none

/-- CRC-32C taken one byte further (R220). -/
def crcByte (c : Word) (b : Byte) : Word :=
  (List.range 8).foldl (fun c _ => (c >>> 1) ^^^ (if c.getLsbD 0 then 0x82F63B78 else 0)) (c ^^^ b.setWidth 32)

/-- CRC-32C of bytes: polynomial 0x1EDC_6F41, bits reflected (R220). PRESUMED, log 67. -/
def crc32c (l : List Byte) : Word := ~~~ l.foldl crcByte 0xFFFFFFFF

/-- ASCII bytes of a string. -/
def ascii (t : String) : List Byte := t.toList.map fun c => BitVec.ofNat 8 c.toNat

/-! ### Keys of a tenant (R413) -/

/-- The bytes of a tenant root secret. -/
def trsBytes (trs : BitVec 256) : List Byte := leBytes 32 trs.toNat

/-- KEY_ID, a little-endian word. -/
def keyIdOf (trs : BitVec 256) : DWord := BitVec.ofNat 64 (leNat ((hkdf (trsBytes trs) none (ascii "PW1 keyid") 32).take 8))

/-- The image key IK. -/
def imageKey (trs : BitVec 256) : List Byte := hkdf (trsBytes trs) none (ascii "PW1 image") 32

/-- The per-image keys KG and KC of an IV (R417). -/
def sealKeys (trs : BitVec 256) (iv : List Byte) : List Byte × List Byte :=
  let k := hkdf (imageKey trs) (some iv) (ascii "PW1 seal") 64
  (k.take 32, k.drop 32)

/-- The store key SK of a tenant in one start-up: the two XTS keys. -/
def storeKeyOf (trs : BitVec 256) (boot : BitVec 128) : List Byte :=
  hkdf (trsBytes trs) (some (leBytes 16 boot.toNat)) (ascii "PW1 store") 64

/-- The prefix key PK of a tenant. -/
def prefixKey (trs : BitVec 256) (boot : BitVec 128) : List Byte :=
  hkdf (trsBytes trs) (some (leBytes 16 boot.toNat)) (ascii "PW1 prefix") 32

/-- The session keys K_in and K_out. -/
def sessionKeys (trs : BitVec 256) (boot : BitVec 128) (handle gen : Nat) : List Byte × List Byte :=
  let k := hkdf (trsBytes trs) (some (leBytes 16 boot.toNat)) (ascii "PW1 session" ++ leBytes 2 handle ++ leBytes 4 gen) 64
  (k.take 32, k.drop 32)

end Sys2Proof.Machine
end

