-- ==== Sys2Proof/Machine/Flit.lean ====
section
/-! DEFINITION. PCL messages as bytes (R390), and link flits: their encoding, encryption and sequence numbers (R375, R377, R378). -/

namespace Sys2Proof.Machine

open Sys2Proof

/-! ### PCL messages (R390) -/

/-- A list of bytes followed by zeros to a length. -/
def padTo (n : Nat) (l : List Byte) : List Byte := l ++ List.replicate (n - l.length) 0

/-- The first 64 data bytes of a SVC message, whose layout the manual does not give. DESIGN CHOICE, log 45. -/
def svcHead (q : Svc) : List Byte :=
  padTo 64 (match q with
    | .query i k => padTo 8 [1] ++ leBytes 16 i.toNat ++ leBytes 8 k.toNat
    | .answer i h => padTo 8 [2, if h then 1 else 0] ++ leBytes 16 i.toNat
    | .fetch i k r u o n => padTo 8 [3] ++ leBytes 16 i.toNat ++ leBytes 8 k.toNat ++ leBytes 4 r ++ leBytes 4 u ++ leBytes 8 o ++ leBytes 4 n
    | .payload i r u o => padTo 8 [4] ++ leBytes 16 i.toNat ++ leBytes 8 0 ++ leBytes 4 r ++ leBytes 4 u ++ leBytes 8 o)

/-- A SVC message read from its data bytes. -/
def readSvc (l : List Byte) : Option Svc :=
  let i : BitVec 128 := BitVec.ofNat 128 (le l 8 16)
  let k : DWord := BitVec.ofNat 64 (le l 24 8)
  match le l 0 1 with
  | 1 => some (.query i k)
  | 2 => some (.answer i (le l 1 1 != 0))
  | 3 => some (.fetch i k (le l 32 4) (le l 36 4) (le l 40 8) (le l 48 4))
  | 4 => some (.payload i (le l 32 4) (le l 36 4) (le l 40 8))
  | _ => none

/-- Data bytes that follow a header of a type with a LEN: none follow that of a RD. -/
def dataLen (op len : Nat) : Nat := if op = 2 then 0 else len

/-- A message as bytes: its header and its data, padded to a multiple of 32. -/
def pclWire (p : Pcl) : List Byte :=
  let body := match p.svc with
    | some q => svcHead q ++ p.data
    | none => p.data
  let len := if p.svc.isSome then body.length else p.len
  leBytes 1 p.op ++ leBytes 1 p.hops ++ leBytes 2 len ++ leBytes 2 p.dest ++ leBytes 2 p.srcM ++ [0, if p.tagged then 1 else 0]
    ++ leBytes 2 p.status.toNat ++ leBytes 4 p.mtag ++ leBytes 8 p.addr ++ leBytes 8 p.keyId.toNat
    ++ padTo ((dataLen p.op len + 31) / 32 * 32) ((padTo (dataLen p.op len) body).take (dataLen p.op len))

/-- Bytes of the message that begins a stream, from its header. -/
def wireLen (l : List Byte) : Nat := 32 + (dataLen (le l 0 1) (le l 2 2) + 31) / 32 * 32

/-- The message that begins a stream. -/
def readPcl (l : List Byte) : Pcl :=
  let op := le l 0 1
  let data := bytesAt l 32 (dataLen op (le l 2 2))
  let svc := if op = 8 ∨ op = 9 then readSvc data else none
  { op := op, hops := le l 1 1, len := le l 2 2, dest := le l 4 2 % 2 ^ 14, srcM := le l 6 2 % 2 ^ 14, tagged := le l 9 1 % 2 == 1,
    status := BitVec.ofNat 16 (le l 10 2), mtag := le l 12 4, addr := le l 16 8 % 2 ^ 50, keyId := BitVec.ofNat 64 (le l 24 8),
    data := if svc.isSome then data.drop 64 else data, svc := svc }

/-! ### Flits (R375) -/

/-- TYPE of DATA, CREDIT, ACK, NAK, BEAT, DELAY_REQ, DELAY_RSP and HELLO flits. -/
def tyData : Nat := 0
/-- CREDIT -/
def tyCredit : Nat := 1
/-- ACK -/
def tyAck : Nat := 2
/-- NAK -/
def tyNak : Nat := 3
/-- BEAT -/
def tyBeat : Nat := 4
/-- DELAY_REQ -/
def tyDelayReq : Nat := 5
/-- DELAY_RSP -/
def tyDelayRsp : Nat := 6
/-- HELLO -/
def tyHello : Nat := 7

/-- Whether a sequenced flit of a type is kept for replay: BEAT, DELAY and IDLE flits are not (R377). -/
def keptType (ty : Nat) : Bool := decide (ty < 4) || ty == 7

/-- FHDR -/
def flitHeader (ty vc seq : Nat) : List Byte := leBytes 4 (2 ^ 28 * ty + 2 ^ 26 * vc + seq % 2 ^ 16)

/-- TYPE, VC and SEQ of a flit. -/
def flitType (l : List Byte) : Nat := le l 0 4 / 2 ^ 28
/-- VC of a flit. -/
def flitVc (l : List Byte) : Nat := le l 0 4 / 2 ^ 26 % 4
/-- SEQ of a flit. -/
def flitSeq (l : List Byte) : Nat := le l 0 4 % 2 ^ 16

/-- A flit in the clear, before UP. -/
def clearFlit (ty vc : Nat) (body : List Byte) : List Byte := flitHeader ty vc 0 ++ padTo 256 body ++ List.replicate 16 0

/-- The key and salt of one direction of a link (R378, R423): A to B, or B to A. -/
def dirKey (keys : List Byte) (aToB : Bool) : List Byte × List Byte :=
  if aToB then (keys.take 32, (keys.drop 64).take 4) else ((keys.drop 32).take 32, (keys.drop 68).take 4)

/-- The nonce of a flit: the salt, then the sequence number. DESIGN CHOICE, log 45. -/
def flitNonce (salt : List Byte) (seq : Nat) : List Byte := salt ++ leBytes 8 seq

/-- A flit in UP (R378): its BODY encrypted, FHDR as additional authenticated data, and its TAG. -/
def sealFlit (key : List Byte × List Byte) (ty vc seq : Nat) (body : List Byte) : List Byte :=
  let h := flitHeader ty vc seq
  let c := gcmSeal key.1 (flitNonce key.2 seq) h (padTo 256 body)
  h ++ c.1 ++ c.2

/-- The BODY of a flit in UP with its full sequence number, where its tag checks. -/
def openFlit (key : List Byte × List Byte) (seq : Nat) (l : List Byte) : Option (List Byte) :=
  gcmOpen key.1 (flitNonce key.2 seq) (l.take 4) (bytesAt l 4 256) (bytesAt l 260 16)

/-- The full sequence number of a flit at or after the one awaited, rebuilt from its low 16 bits (R377). DESIGN CHOICE, log 45. -/
def fullSeq (awaited seq : Nat) : Option Nat :=
  let d := (seq + 2 ^ 16 - awaited % 2 ^ 16) % 2 ^ 16
  if d < 2 ^ 15 then some (awaited + d) else none

end Sys2Proof.Machine
end

