-- ==== Sys2Proof/Machine/RegTable.lean ====
section
/-! DEFINITION. The register pages: which page belongs to which block (R47, R48, R66) and the fields of every register. -/

namespace Sys2Proof.Machine

open Sys2Proof

/-- Access codes (R2). -/
inductive Access where
  | ro | rw | wo | w1c | rc
  deriving DecidableEq, Repr

/-- A field of a register: bits [hi:lo], access code and reset value. Bits in no field are reserved (R56). -/
structure Fld where
  hi : Nat
  lo : Nat
  acc : Access
  reset : Nat
  deriving DecidableEq, Repr

/-- Registers at `base + stride * i`, i below `count`, all with the same fields. -/
structure RegRow where
  base : Nat
  stride : Nat
  count : Nat
  flds : List Fld
  deriving DecidableEq, Repr

/-- A read-only field -/
def fro (hi lo reset : Nat) : Fld := ⟨hi, lo, .ro, reset⟩
/-- A read-write field -/
def frw (hi lo reset : Nat) : Fld := ⟨hi, lo, .rw, reset⟩
/-- A write-only field -/
def fwo (hi lo reset : Nat) : Fld := ⟨hi, lo, .wo, reset⟩
/-- A field whose bits a write of 1 clears -/
def fw1c (hi lo reset : Nat) : Fld := ⟨hi, lo, .w1c, reset⟩
/-- A field that a read clears -/
def frc (hi lo reset : Nat) : Fld := ⟨hi, lo, .rc, reset⟩

/-- What a page belongs to (R47, R48). Numbers are the unit and, for blocks of several pages, the subpage. -/
inductive PageKind where
  | mc | cnet | beat | txn
  | serving (k : Nat) | host (k : Nat) | sec (k : Nat)
  | sp | pm (k : Nat) | tel (n : Nat) | flash
  | fcu (f : Nat) | clock (f : Nat) | vcore (f : Nat) | rails (f : Nat)
  | tally (f k : Nat) | fabric (f : Nat) | repair (f : Nat) | hq (f : Nat) | hd (f : Nat) | caw (f : Nat)
  | stack (n k : Nat) | link (n k : Nat)
  /-- reserved and unassigned pages -/
  | none
  deriving DecidableEq, Repr

/-- The role of page +r of field f (R48). -/
def fieldRole (f r : Nat) : PageKind :=
  match r with
  | 0 => .fcu f | 1 => .clock f | 2 => .vcore f | 3 => .rails f
  | 4 => .tel (2 * f) | 5 => .tel (2 * f + 1)
  | 6 => .tally f 0 | 7 => .tally f 1 | 8 => .tally f 2
  | 9 => .fabric f | 10 => .repair f | 11 => .hq f | 12 => .hd f | 13 => .caw f
  | _ => .none

/-- The block of page p (R47). -/
def pageKind (p : Nat) : PageKind :=
  if p < 0x100 then
    if p = 0 then .mc else if p = 4 then .cnet else if p = 8 then .beat else if p = 0xC then .txn
    else if 0x10 ≤ p ∧ p < 0x20 then .serving (p - 0x10)
    else if 0x20 ≤ p ∧ p < 0x24 then .host (p - 0x20)
    else if 0x28 ≤ p ∧ p < 0x2C then .sec (p - 0x28)
    else if p = 0x30 then .sp
    else if 0x38 ≤ p ∧ p < 0x3C then .pm (p - 0x38)
    else if 0x3C ≤ p ∧ p < 0x40 then .tel (160 + (p - 0x3C))
    else if p = 0x40 then .flash
    else .none
  else if p < 0x600 then fieldRole ((p - 0x100) / 16) ((p - 0x100) % 16)
  else if p < 0x6C0 then .stack ((p - 0x600) / 8) ((p - 0x600) % 8)
  else if 0x700 ≤ p ∧ p < 0x740 then .link ((p - 0x700) / 8) ((p - 0x700) % 8)
  else .none

/-- Page index of page +r of field f (R47). -/
def fieldPage (f r : Nat) : Nat := 0x100 + f * 16 + r
/-- Page index of page +k of stack n (R47). -/
def stackPage (n k : Nat) : Nat := 0x600 + n * 8 + k
/-- Page index of page +k of link n (R47). -/
def linkPage (n k : Nat) : Nat := 0x700 + n * 8 + k

/-- Registers of R51, the common header. -/
def regsHeader : List RegRow := [
  ⟨0x000, 4, 1, [fro 31 16 0, fro 15 4 0, fro 3 0 0]⟩,
  ⟨0x004, 4, 1, [fro 31 24 0, fro 23 16 0, fro 15 8 0, fro 7 0 0]⟩,
  ⟨0x008, 4, 1, [fro 31 0 0]⟩,
  ⟨0x00C, 4, 1, [fro 31 4 0, fro 3 3 0, fro 2 2 0, fro 1 1 0, fro 0 0 0]⟩,
  ⟨0x010, 4, 1, [fw1c 31 31 0, fro 30 30 0, fro 15 0 0]⟩,
  ⟨0x014, 4, 1, [fro 31 0 0]⟩,
  ⟨0x018, 4, 1, [frw 31 31 0, frw 5 0 0]⟩,
  ⟨0x01C, 4, 1, [fro 13 8 0, fro 2 0 0]⟩]

/-- Registers of R499, R521. -/
def regsMc : List RegRow := [
  ⟨0x060, 4, 1, [fro 31 28 0, fro 27 27 0, fro 26 26 0, fro 25 25 0, fro 15 0 0]⟩,
  ⟨0x064, 4, 1, [fro 31 0 0]⟩,
  ⟨0x068, 4, 1, [fro 31 0 0]⟩,
  ⟨0x06C, 4, 1, [fro 6 0 0]⟩,
  ⟨0xA00, 4, 1, [fro 31 30 0, fro 22 16 0, fro 5 0 0]⟩,
  ⟨0xA04, 4, 1, [frw 5 0 0]⟩,
  ⟨0xA08, 4, 1, [fro 31 0 0]⟩,
  ⟨0xA0C, 4, 1, [fro 31 0 0]⟩,
  ⟨0xA10, 4, 1, [frc 31 16 0, frc 15 0 0]⟩,
  ⟨0xA14, 4, 1, [frc 15 0 0]⟩]

/-- Registers of R65. -/
def regsCnet : List RegRow := [
  ⟨0x800, 4, 1, [frc 31 16 0, frc 15 0 0]⟩,
  ⟨0x804, 4, 1, [fro 31 28 0, fro 27 14 0, fro 11 0 0]⟩]

/-- Registers of R42. -/
def regsBeat : List RegRow := [
  ⟨0x040, 4, 1, [frw 19 12 0, frw 3 0 0]⟩,
  ⟨0x044, 4, 1, [frw 16 0 0]⟩,
  ⟨0x048, 4, 1, [frw 11 0 0]⟩,
  ⟨0x060, 4, 1, [fro 24 17 0, fro 16 9 0, fro 8 8 0, fro 7 4 0, fro 1 0 0]⟩,
  ⟨0x064, 4, 1, [fro 31 0 0]⟩,
  ⟨0x068, 4, 1, [fro 15 0 0]⟩,
  ⟨0x06C, 4, 1, [fro 17 0 0]⟩,
  ⟨0x070, 4, 1, [fro 31 0 0]⟩,
  ⟨0x074, 4, 1, [fro 15 0 0]⟩,
  ⟨0x080, 4, 8, [fro 17 0 0]⟩,
  ⟨0x800, 4, 1, [fwo 0 0 0]⟩,
  ⟨0x804, 4, 1, [fw1c 2 2 0, fw1c 1 1 0, fw1c 0 0 0]⟩]

/-- Registers of R63. -/
def regsTxn : List RegRow := [
  ⟨0x800, 4, 1, [fwo 0 0 0]⟩,
  ⟨0x804, 4, 1, [fro 31 31 0, frw 5 0 0]⟩,
  ⟨0x808, 4, 1, [frw 31 0 0]⟩,
  ⟨0x80C, 4, 1, [frw 15 0 0]⟩,
  ⟨0x810, 4, 1, [fwo 1 1 0, fwo 0 0 0]⟩,
  ⟨0x814, 4, 1, [fwo 0 0 0]⟩,
  ⟨0x818, 4, 1, [fwo 0 0 0]⟩,
  ⟨0x81C, 4, 1, [fro 29 16 0, fro 8 8 0, fro 7 4 0, fro 3 0 0]⟩,
  ⟨0x820, 4, 1, [fro 15 0 0]⟩,
  ⟨0x824, 4, 1, [fro 11 0 0]⟩,
  ⟨0x828, 4, 1, [fro 31 0 0]⟩,
  ⟨0x82C, 4, 1, [fro 31 0 0]⟩]

/-- Registers of R310, R311. -/
def regsServing0 : List RegRow := [
  ⟨0x040, 4, 1, [frw 31 31 0, frw 12 0 256]⟩,
  ⟨0x044, 8, 4, [frw 31 12 0]⟩,
  ⟨0x048, 8, 4, [frw 11 0 0]⟩,
  ⟨0x064, 4, 1, [frw 23 0 0]⟩,
  ⟨0x080, 4, 1, [fro 12 0 0]⟩,
  ⟨0x084, 4, 1, [fro 31 0 0]⟩,
  ⟨0x800, 4, 1, [frc 31 16 0, frc 15 0 0]⟩,
  ⟨0x804, 4, 1, [frc 31 16 0, frc 15 0 0]⟩,
  ⟨0x808, 4, 1, [frc 31 16 0, frc 15 0 0]⟩,
  ⟨0x80C, 4, 1, [frc 31 0 0]⟩,
  ⟨0x810, 4, 1, [fro 31 0 0]⟩,
  ⟨0x814, 4, 1, [frc 31 16 0, frc 15 0 0]⟩]

/-- Registers of R312. -/
def regsServing1 : List RegRow := [
  ⟨0x800, 4, 1, [frw 11 0 0]⟩,
  ⟨0x804, 8, 6, [fro 31 0 0]⟩,
  ⟨0x808, 8, 6, [fro 31 0 0]⟩,
  ⟨0x834, 4, 1, [fwo 0 0 0]⟩,
  ⟨0x838, 4, 1, [frw 7 0 0]⟩,
  ⟨0x83C, 4, 1, [fro 27 0 0]⟩]

/-- Registers of R313. -/
def regsServingTenant : List RegRow := [
  ⟨0x040, 12, 64, [frw 31 31 0, frw 23 0 0]⟩,
  ⟨0x044, 12, 64, [frw 31 24 16, frw 15 0 0]⟩,
  ⟨0x048, 12, 64, [frw 15 0 0]⟩]

/-- Registers of R314. -/
def regsServingModel : List RegRow := [
  ⟨0x040, 20, 32, [frw 31 31 0, frw 30 24 0, frw 23 12 0, frw 5 0 0]⟩,
  ⟨0x044, 20, 32, [frw 24 18 0, frw 17 6 0, frw 3 0 0]⟩,
  ⟨0x048, 20, 32, [frw 29 15 0, frw 14 0 0]⟩,
  ⟨0x04C, 20, 32, [frw 28 24 0, frw 16 0 0]⟩,
  ⟨0x050, 20, 32, [frw 19 0 0]⟩]

/-- Registers of R279, R280. -/
def regsServing8 : List RegRow := [
  ⟨0x040, 4, 64, [frw 0 0 0]⟩,
  ⟨0x200, 4, 64, [fro 31 29 0, fro 28 28 0, fro 27 27 0, fro 26 26 0, fro 25 23 0, fro 22 20 0, fro 19 19 0, fro 18 18 0, fro 15 8 0, fro 7 7 0, fro 5 0 0]⟩,
  ⟨0x300, 4, 64, [fro 28 16 0, fro 12 0 0]⟩,
  ⟨0x800, 4, 1, [frw 31 24 0, frw 21 16 0, frw 10 10 0, frw 9 9 0, frw 8 8 0, frw 7 7 0, frw 6 6 0, frw 5 0 0]⟩,
  ⟨0x804, 4, 1, [frw 31 0 0]⟩,
  ⟨0x808, 4, 1, [frw 31 0 0]⟩,
  ⟨0x80C, 4, 1, [frw 31 0 0]⟩,
  ⟨0x810, 4, 1, [frw 31 0 0]⟩,
  ⟨0x814, 4, 1, [frw 31 0 0]⟩,
  ⟨0x818, 4, 1, [frw 31 0 0]⟩,
  ⟨0x81C, 4, 1, [fwo 3 0 0]⟩,
  ⟨0x820, 4, 1, [fro 31 30 0, fro 15 0 0]⟩,
  ⟨0x824, 4, 1, [fro 31 0 0]⟩,
  ⟨0x828, 4, 1, [fro 31 31 0, fro 26 24 0, fro 23 0 0]⟩,
  ⟨0x830, 4, 1, [frw 9 0 0]⟩,
  ⟨0x834, 4, 1, [frw 31 16 0, frw 5 0 0]⟩,
  ⟨0x838, 4, 1, [frw 31 0 0]⟩,
  ⟨0x83C, 4, 1, [frw 31 0 0]⟩,
  ⟨0x840, 4, 1, [fro 31 30 0, fro 28 16 0, fro 15 0 0]⟩,
  ⟨0x844, 4, 1, [fro 31 24 0, fro 13 8 0, fro 4 0 0]⟩,
  ⟨0x848, 4, 1, [fro 24 0 0]⟩,
  ⟨0x84C, 4, 1, [fwo 1 1 0, fwo 0 0 0]⟩,
  ⟨0x850, 4, 1, [fro 31 30 0, fro 15 0 0]⟩]

/-- Registers of R314, batch channels. -/
def regsServing9 : List RegRow := [
  ⟨0x040, 4, 4, [frw 31 31 0, frw 21 16 0, frw 13 8 32, frw 7 0 4]⟩]

/-- Registers of R333, R335. -/
def regsServingA : List RegRow := [
  ⟨0x040, 12, 64, [frw 31 31 0, frw 30 30 0, frw 27 13 0, frw 12 0 512]⟩,
  ⟨0x044, 12, 64, [frw 31 16 0, frw 15 0 0]⟩,
  ⟨0x048, 12, 64, [frw 28 24 0, frw 16 0 0]⟩,
  ⟨0x340, 4, 1, [frw 15 0 64]⟩,
  ⟨0x800, 4, 1, [frw 5 0 0]⟩,
  ⟨0x804, 4, 1, [fro 15 0 0]⟩,
  ⟨0x808, 4, 1, [fro 23 0 0]⟩,
  ⟨0x80C, 4, 1, [fro 23 0 0]⟩,
  ⟨0x810, 4, 1, [fro 23 0 0]⟩,
  ⟨0x814, 4, 1, [fro 31 16 0, fro 15 0 0]⟩,
  ⟨0x818, 4, 1, [frc 31 0 0]⟩,
  ⟨0x81C, 4, 1, [frc 31 0 0]⟩,
  ⟨0x820, 4, 1, [frw 15 0 65535]⟩,
  ⟨0x824, 8, 3, [fro 31 0 0]⟩,
  ⟨0x828, 8, 3, [fro 31 0 0]⟩,
  ⟨0x83C, 4, 1, [fwo 0 0 0]⟩,
  ⟨0x840, 4, 1, [frc 15 0 0]⟩]

/-- Registers of R351, R352. -/
def regsServingB : List RegRow := [
  ⟨0x040, 8, 64, [frw 31 31 0, frw 29 24 0, frw 22 16 64, frw 12 8 16, frw 7 0 8]⟩,
  ⟨0x044, 8, 64, [frw 7 0 64]⟩,
  ⟨0x800, 4, 1, [frw 11 0 0]⟩,
  ⟨0x804, 4, 1, [fro 31 25 0, fro 24 17 0, fro 16 9 0, fro 8 4 0]⟩,
  ⟨0x808, 4, 1, [frc 31 0 0]⟩,
  ⟨0x80C, 4, 1, [frc 31 0 0]⟩,
  ⟨0x810, 4, 1, [frc 31 16 0, frc 15 0 0]⟩]

/-- Registers of R369. -/
def regsHost0 : List RegRow := [
  ⟨0x040, 16, 16, [frw 31 20 0]⟩,
  ⟨0x044, 16, 16, [frw 19 0 0]⟩,
  ⟨0x048, 16, 16, [frw 31 31 0, frw 30 30 0, frw 19 0 0]⟩,
  ⟨0x200, 4, 1, [fro 31 16 0, fro 11 11 0, fro 10 10 0, fro 9 9 0, fro 8 8 0, fro 6 6 0, fro 5 4 0, fro 3 2 0, fro 0 0 0]⟩,
  ⟨0x800, 4, 1, [frc 31 16 0, frc 15 0 0]⟩,
  ⟨0x804, 4, 1, [fro 31 0 0]⟩,
  ⟨0x808, 4, 1, [fro 31 28 0, fro 11 0 0]⟩,
  ⟨0x80C, 4, 1, [frc 31 16 0, frc 15 0 0]⟩]

/-- Registers of R370. -/
def regsHost1 : List RegRow := [
  ⟨0x040, 4, 1, [frw 3 0 15]⟩,
  ⟨0x800, 4, 1, [fw1c 3 0 0]⟩,
  ⟨0x804, 4, 1, [fro 13 0 0]⟩,
  ⟨0x808, 4, 1, [fro 31 0 0]⟩,
  ⟨0x80C, 4, 1, [fro 31 0 0]⟩,
  ⟨0x810, 4, 1, [fro 15 0 0]⟩,
  ⟨0x814, 4, 1, [fro 31 24 0, fro 23 0 0]⟩,
  ⟨0x818, 4, 1, [fro 31 31 0, fro 15 0 0]⟩]

/-- Registers of R371. -/
def regsHost2 : List RegRow := [
  ⟨0x800, 4, 1, [frc 31 16 0, frc 15 0 0]⟩,
  ⟨0x804, 4, 1, [frc 31 16 0, fro 1 1 0, fro 0 0 0]⟩]

/-- Registers of R429. -/
def regsSec0 : List RegRow := [
  ⟨0x040, 4, 1, [frw 15 0 0]⟩,
  ⟨0x060, 4, 1, [fro 16 8 0, fro 2 2 0, fro 1 1 0, fro 0 0 0]⟩,
  ⟨0x064, 4, 1, [fro 30 0 0]⟩,
  ⟨0x068, 4, 1, [fro 8 0 256]⟩,
  ⟨0x800, 4, 1, [frc 31 0 0]⟩,
  ⟨0x804, 4, 1, [frc 31 16 0, frc 15 0 0]⟩,
  ⟨0x808, 4, 1, [frc 31 16 0, frc 15 0 0]⟩,
  ⟨0x80C, 4, 1, [frc 15 0 0]⟩]

/-- Registers of R430. -/
def regsSec1 : List RegRow := [
  ⟨0x800, 4, 1, [fwo 1 1 0, fwo 0 0 0]⟩,
  ⟨0x804, 4, 1, [frw 13 0 0]⟩,
  ⟨0x808, 4, 1, [frw 31 0 0]⟩,
  ⟨0x80C, 4, 1, [fro 31 30 0, fro 29 16 0, fro 15 0 0]⟩]

/-- Registers of R431. -/
def regsSec2 : List RegRow := [
  ⟨0x800, 4, 1, [frw 12 0 0]⟩,
  ⟨0x804, 4, 1, [fro 31 30 0, fro 27 16 0, fro 15 8 0]⟩,
  ⟨0x808, 4, 1, [fro 31 0 0]⟩,
  ⟨0x80C, 4, 1, [frw 7 0 0]⟩,
  ⟨0x810, 4, 1, [fro 31 31 0, fro 6 0 0]⟩,
  ⟨0x814, 4, 1, [fro 31 0 0]⟩,
  ⟨0x818, 4, 1, [fro 31 0 0]⟩]

/-- Registers of R432. -/
def regsSec3 : List RegRow := [
  ⟨0x800, 4, 8, [fro 31 0 0]⟩]

/-- Registers of R522. -/
def regsSp : List RegRow := [
  ⟨0x040, 4, 4, [frw 31 0 0]⟩,
  ⟨0x050, 4, 1, [frw 31 31 0, frw 7 0 0]⟩,
  ⟨0x060, 4, 1, [fro 31 31 0, fro 30 30 0, fro 15 0 0]⟩,
  ⟨0x800, 4, 1, [frc 31 0 0]⟩,
  ⟨0x804, 4, 1, [frc 31 16 0, frc 15 0 0]⟩,
  ⟨0x808, 4, 1, [frc 15 0 0]⟩]

/-- Registers of R463. -/
def regsPm0 : List RegRow := [
  ⟨0x040, 4, 1, [frw 8 0 330]⟩,
  ⟨0x044, 4, 1, [frw 22 16 4, frw 15 0 600]⟩,
  ⟨0x048, 4, 1, [frw 25 16 65, frw 15 0 1024]⟩,
  ⟨0x04C, 4, 1, [fro 31 24 125, frw 23 16 115, frw 15 8 105, frw 7 0 95]⟩,
  ⟨0x060, 4, 1, [fro 31 31 0, fro 30 30 0, fro 29 29 0, fro 28 26 0, fro 8 0 330]⟩,
  ⟨0x064, 4, 1, [fro 15 0 0]⟩]

/-- Registers of R464. -/
def regsPm1 : List RegRow := [
  ⟨0x040, 4, 5, [frw 31 0 0]⟩,
  ⟨0x800, 4, 1, [fwo 14 8 0, fwo 0 0 0]⟩,
  ⟨0x804, 4, 1, [fro 15 0 0]⟩]

/-- Registers of R465. -/
def regsPm2 : List RegRow := [
  ⟨0x800, 4, 4, [fro 31 16 0, fro 15 0 0]⟩,
  ⟨0x810, 4, 1, [fro 31 24 0, fro 23 16 0, fro 15 0 0]⟩,
  ⟨0x814, 4, 1, [frc 31 16 0, frc 15 8 0, frc 7 0 0]⟩]

/-- Registers of R477, R479. -/
def regsTel : List RegRow := [
  ⟨0x040, 4, 1, [frw 31 31 0, frw 30 30 0, frw 29 29 0, frw 20 16 0, frw 15 0 0]⟩,
  ⟨0x044, 4, 1, [frw 22 20 0, frw 18 16 0, frw 15 0 0]⟩,
  ⟨0x048, 4, 1, [frw 31 0 0]⟩,
  ⟨0x04C, 4, 1, [frw 31 0 0]⟩,
  ⟨0x800, 4, 1, [fwo 1 1 0, fwo 0 0 0]⟩,
  ⟨0x804, 4, 1, [fro 31 30 0, fro 29 29 0, fro 28 28 0, fro 27 27 0, fro 26 26 0, fro 19 16 0, fro 15 0 0]⟩,
  ⟨0x808, 4, 1, [fro 7 0 0]⟩,
  ⟨0x80C, 4, 1, [fro 15 0 32768]⟩,
  ⟨0x810, 4, 1, [fw1c 3 3 0, fw1c 2 2 0, fw1c 1 1 0, fw1c 0 0 0]⟩,
  ⟨0x814, 4, 1, [frc 31 16 0, fro 2 0 0]⟩,
  ⟨0x818, 4, 1, [fro 11 0 0]⟩,
  ⟨0x840, 4, 16, [fro 31 31 0, fro 30 30 0, fro 27 24 0, fro 23 12 0, fro 11 0 0]⟩,
  ⟨0x880, 4, 4, [fro 31 0 0]⟩]

/-- Registers of R523. -/
def regsFlash : List RegRow := [
  ⟨0x060, 16, 5, [fro 31 31 0, fro 30 30 0, fro 29 27 0, fro 26 26 0, fro 15 0 0]⟩,
  ⟨0x064, 16, 5, [fro 31 0 0]⟩,
  ⟨0x068, 16, 5, [fro 31 0 0]⟩,
  ⟨0x06C, 16, 5, [fro 31 16 0, fro 15 0 0]⟩,
  ⟨0x104, 4, 7, [fro 31 30 0, fro 29 29 0, fro 15 0 0]⟩,
  ⟨0x800, 4, 1, [fwo 15 8 0, fwo 7 5 0, fwo 1 1 0, fwo 0 0 0]⟩,
  ⟨0x804, 4, 1, [fro 31 30 0, fro 15 0 0]⟩,
  ⟨0x808, 4, 1, [frc 15 0 0]⟩]

/-- Registers of R459. -/
def regsFcu : List RegRow := [
  ⟨0x060, 4, 1, [fro 31 30 0, fro 29 28 0, fro 27 27 0, fro 26 23 0, fro 19 12 0, fro 11 8 0]⟩,
  ⟨0x064, 4, 1, [fro 7 0 0]⟩,
  ⟨0x800, 4, 1, [fw1c 3 3 0, fw1c 2 2 0, fw1c 1 1 0, fw1c 0 0 0]⟩]

/-- Registers of R460. -/
def regsClock : List RegRow := [
  ⟨0x040, 4, 1, [frw 1 0 0]⟩,
  ⟨0x060, 4, 1, [fro 31 31 0, fro 7 4 0, fro 1 0 0]⟩]

/-- Registers of R461. -/
def regsVcore : List RegRow := [
  ⟨0x040, 4, 1, [frw 9 0 600]⟩,
  ⟨0x060, 4, 1, [fro 31 0 0]⟩,
  ⟨0x064, 4, 1, [fro 3 0 0]⟩,
  ⟨0x068, 4, 1, [fro 31 26 0, fro 23 14 0, fro 9 0 0]⟩,
  ⟨0x800, 4, 1, [frc 15 0 0]⟩]

/-- Registers of R462. -/
def regsRails : List RegRow := [
  ⟨0x060, 4, 1, [fro 31 24 0, fro 23 16 0, fro 7 7 0, fro 6 6 0, fro 5 5 0, fro 4 4 0]⟩,
  ⟨0x064, 4, 1, [fro 31 16 0, fro 15 0 0]⟩,
  ⟨0x068, 4, 1, [fro 31 16 0, fro 15 0 0]⟩]

/-- Registers of R138. -/
def regsTally0 : List RegRow := [
  ⟨0x040, 4, 192, [frw 23 0 0]⟩]

/-- Registers of R138. -/
def regsTally1 : List RegRow := [
  ⟨0x040, 4, 192, [frw 23 0 0]⟩]

/-- Registers of R139. -/
def regsTally2 : List RegRow := [
  ⟨0x800, 4, 1, [frw 8 0 0]⟩,
  ⟨0x804, 4, 1, [fro 23 0 0]⟩,
  ⟨0x808, 4, 1, [fro 22 16 0, fro 15 0 0]⟩,
  ⟨0x80C, 4, 1, [fwo 25 2 0, fwo 1 0 0]⟩,
  ⟨0x810, 4, 1, [fro 28 24 0, fro 20 16 0, fro 12 8 0, fro 4 0 0]⟩,
  ⟨0x814, 4, 1, [frc 15 0 0]⟩]

/-- Registers of R201, R203. -/
def regsFabric : List RegRow := [
  ⟨0x040, 4, 1, [frw 5 0 8]⟩,
  ⟨0x060, 4, 1, [fro 7 0 0]⟩,
  ⟨0x100, 4, 160, [frw 31 31 0, frw 19 13 0, frw 11 6 0, frw 5 0 0]⟩,
  ⟨0x800, 4, 1, [fwo 1 1 0, fwo 0 0 0]⟩,
  ⟨0x804, 4, 1, [frc 31 16 0, frc 15 0 0]⟩,
  ⟨0x808, 4, 1, [frc 31 16 0, frc 15 0 0]⟩,
  ⟨0x80C, 4, 1, [frc 31 16 0, frc 15 0 0]⟩,
  ⟨0x810, 4, 1, [frc 31 0 0]⟩,
  ⟨0x814, 4, 1, [frc 31 0 0]⟩,
  ⟨0x818, 4, 1, [fro 31 28 0, fro 27 25 0, fro 24 22 0, fro 19 19 0, fro 11 0 0]⟩]

/-- Registers of R498. -/
def regsRepair : List RegRow := [
  ⟨0x060, 4, 1, [fro 31 24 0, fro 23 12 0, fro 11 0 0]⟩,
  ⟨0x800, 4, 1, [frw 11 0 0]⟩,
  ⟨0x804, 4, 1, [fro 31 31 0, fro 30 30 0, fro 29 29 0, fro 23 16 0]⟩,
  ⟨0x808, 4, 1, [fro 1 1 0, fro 0 0 0]⟩]

/-- Registers of R250. -/
def regsHq : List RegRow := [
  ⟨0x040, 4, 1, [frw 11 0 1536]⟩,
  ⟨0x044, 4, 1, [frw 11 0 256]⟩,
  ⟨0x060, 4, 1, [fro 11 0 1920]⟩,
  ⟨0x064, 4, 1, [fro 11 0 0]⟩,
  ⟨0x068, 4, 1, [fro 11 0 1920]⟩,
  ⟨0x800, 4, 1, [frc 11 0 0]⟩,
  ⟨0x804, 4, 1, [frc 31 0 0]⟩,
  ⟨0x808, 4, 1, [fro 11 0 0]⟩]

/-- Registers of R255. -/
def regsHd : List RegRow := [
  ⟨0x040, 4, 1, [frw 31 31 0, frw 15 0 14]⟩,
  ⟨0x100, 12, 64, [frw 31 31 0, frw 11 0 0]⟩,
  ⟨0x104, 12, 64, [frw 28 16 0, frw 12 0 0]⟩,
  ⟨0x108, 12, 64, [frw 8 0 0]⟩,
  ⟨0x800, 4, 1, [fwo 2 2 0, fwo 1 1 0, fwo 0 0 0]⟩,
  ⟨0x804, 4, 1, [frw 11 0 0]⟩,
  ⟨0x808, 4, 1, [frw 31 31 0, frw 17 0 0]⟩,
  ⟨0x80C, 4, 1, [fro 8 0 0]⟩,
  ⟨0x810, 4, 1, [frc 31 0 0]⟩,
  ⟨0x814, 4, 1, [frw 7 0 0]⟩,
  ⟨0x818, 4, 1, [fro 31 0 0]⟩,
  ⟨0x81C, 4, 1, [fro 31 0 0]⟩]

/-- Registers of R100. -/
def regsCaw : List RegRow := [
  ⟨0x800, 4, 1, [frw 11 6 0, frw 5 0 0]⟩,
  ⟨0x804, 4, 1, [frw 15 14 0, frw 13 0 0]⟩,
  ⟨0x808, 4, 1, [frw 31 0 0]⟩,
  ⟨0x80C, 4, 1, [frw 31 0 0]⟩,
  ⟨0x810, 4, 1, [fwo 2 2 0, fwo 1 1 0, fwo 0 0 0]⟩,
  ⟨0x814, 4, 1, [fro 15 0 0]⟩,
  ⟨0x818, 4, 1, [fro 11 0 0]⟩,
  ⟨0x81C, 4, 1, [fro 11 0 0]⟩]

/-- Registers of R233. -/
def regsStack0 : List RegRow := [
  ⟨0x040, 16, 32, [frw 16 0 0]⟩,
  ⟨0x044, 16, 32, [frw 16 0 0]⟩,
  ⟨0x048, 16, 32, [frw 31 31 0, frw 30 30 0, frw 7 0 0]⟩,
  ⟨0x800, 4, 8, [fro 31 0 0]⟩,
  ⟨0x820, 4, 1, [frc 31 16 0, frc 15 0 0]⟩,
  ⟨0x824, 4, 1, [frc 31 16 0, frc 15 0 0]⟩,
  ⟨0x828, 4, 1, [frc 31 16 0, fro 14 0 16384]⟩,
  ⟨0x82C, 4, 1, [fro 31 0 0]⟩,
  ⟨0x830, 4, 1, [fro 5 0 0]⟩]

/-- Registers of R234. -/
def regsStack1 : List RegRow := [
  ⟨0x800, 32, 16, [frw 31 0 0]⟩,
  ⟨0x804, 32, 16, [frw 15 0 0]⟩,
  ⟨0x808, 32, 16, [fwo 1 1 0, fwo 0 0 0]⟩,
  ⟨0x80C, 32, 16, [fro 31 16 0, fro 2 0 0]⟩,
  ⟨0x810, 32, 16, [fro 31 0 0]⟩,
  ⟨0x814, 32, 16, [fro 31 0 0]⟩,
  ⟨0x818, 32, 16, [fro 15 0 0]⟩]

/-- Registers of R397. -/
def regsLink0 : List RegRow := [
  ⟨0x040, 4, 1, [frw 31 31 0, frw 30 30 0]⟩,
  ⟨0x060, 4, 1, [fro 31 29 0, fro 28 28 0, fro 13 0 0]⟩,
  ⟨0x800, 4, 1, [fwo 0 0 0]⟩,
  ⟨0x804, 4, 1, [frc 31 16 0, frc 15 0 0]⟩,
  ⟨0x808, 4, 1, [frc 31 0 0]⟩,
  ⟨0x80C, 4, 1, [frc 31 16 0, frc 15 0 0]⟩,
  ⟨0x810, 4, 1, [fro 10 0 0]⟩]

/-- Registers of R398. -/
def regsLink1 : List RegRow := [
  ⟨0x040, 24, 32, [frw 31 31 0, frw 30 30 0, frw 29 29 0, frw 28 28 0, frw 21 8 0, frw 7 0 0]⟩,
  ⟨0x044, 24, 32, [frw 31 12 0]⟩,
  ⟨0x048, 24, 32, [frw 17 0 0]⟩,
  ⟨0x04C, 24, 32, [frw 29 0 0]⟩,
  ⟨0x050, 24, 32, [frw 31 12 0]⟩,
  ⟨0x054, 24, 32, [frw 17 0 0]⟩]

/-- Registers of R399. -/
def regsLink2 : List RegRow := [
  ⟨0x040, 4, 1, [frw 0 0 0]⟩,
  ⟨0x800, 4, 1, [frw 10 0 0]⟩,
  ⟨0x804, 4, 1, [frw 31 0 4294967295]⟩,
  ⟨0x808, 4, 1, [fro 31 0 4294967295]⟩,
  ⟨0x80C, 4, 1, [fwo 0 0 0]⟩]

/-- Registers of R400 (link L0 only). -/
def regsLink3 : List RegRow := [
  ⟨0x040, 4, 1, [frw 31 31 0, frw 13 0 0]⟩,
  ⟨0x044, 4, 1, [frw 15 0 2000]⟩,
  ⟨0x048, 4, 1, [frw 0 0 0]⟩,
  ⟨0x060, 4, 1, [fro 31 30 0, fro 12 0 0]⟩,
  ⟨0x800, 4, 1, [frw 10 0 0]⟩,
  ⟨0x804, 4, 1, [frw 31 0 4294967295]⟩,
  ⟨0x808, 4, 1, [fro 31 0 4294967295]⟩,
  ⟨0x80C, 4, 1, [fwo 0 0 0]⟩,
  ⟨0x810, 4, 1, [frc 31 16 0, frc 15 0 0]⟩,
  ⟨0x814, 4, 1, [frc 31 16 0, frc 15 0 0]⟩,
  ⟨0x818, 4, 1, [fro 31 28 0, fro 13 0 0]⟩]

/-- The registers beyond the header of a page of each kind; a chain link's page +3 holds them on L0 only (R400). -/
def kindRegs (k : PageKind) : List RegRow :=
  match k with
  | .mc => regsMc | .cnet => regsCnet | .beat => regsBeat | .txn => regsTxn
  | .serving 0 => regsServing0 | .serving 1 => regsServing1
  | .serving 2 | .serving 3 | .serving 4 | .serving 5 => regsServingTenant
  | .serving 6 | .serving 7 => regsServingModel.map fun r => { r with count := 32 }
  | .serving 8 => regsServing8 | .serving 9 => regsServing9
  | .serving 10 => regsServingA | .serving 11 => regsServingB
  | .serving _ => []
  | .host 0 => regsHost0 | .host 1 => regsHost1 | .host 2 => regsHost2 | .host _ => []
  | .sec 0 => regsSec0 | .sec 1 => regsSec1 | .sec 2 => regsSec2 | .sec 3 => regsSec3 | .sec _ => []
  | .sp => regsSp
  | .pm 0 => regsPm0 | .pm 1 => regsPm1 | .pm 2 => regsPm2 | .pm _ => []
  | .tel _ => regsTel | .flash => regsFlash
  | .fcu _ => regsFcu | .clock _ => regsClock | .vcore _ => regsVcore | .rails _ => regsRails
  | .tally _ 0 => regsTally0 | .tally _ 1 => regsTally1 | .tally _ _ => regsTally2
  | .fabric _ => regsFabric | .repair _ => regsRepair | .hq _ => regsHq | .hd _ => regsHd | .caw _ => regsCaw
  | .stack _ 0 => regsStack0 | .stack _ 1 => regsStack1 | .stack _ _ => []
  | .link _ 0 => regsLink0 | .link _ 1 => regsLink1 | .link _ 2 => regsLink2
  | .link 0 3 => regsLink3 | .link _ _ => []
  | .none => []

/-- The row of a register table that holds offset `off`. -/
def rowAt (rows : List RegRow) (off : Nat) : Option RegRow :=
  rows.find? fun r => r.base ≤ off && (off - r.base) % r.stride == 0 && (off - r.base) / r.stride < r.count

/-- Whether a page is assigned (R47). -/
def pageAssigned (p : Nat) : Bool := pageKind p != .none

/-- The fields of the register at offset `off` of page p, if a register occupies it (R49, R51). -/
def regAt (p off : Nat) : Option RegRow :=
  if pageAssigned p then
    match rowAt regsHeader off with
    | some r => some r
    | none => rowAt (kindRegs (pageKind p)) off
  else none

/-- The bits of a field as a mask. -/
def fldMask (f : Fld) : Word := BitVec.ofNat 32 ((2 ^ (f.hi - f.lo + 1) - 1) * 2 ^ f.lo)

/-- The bits of a register whose access code is one of `as`. -/
def accMask (as : List Access) (r : RegRow) : Word :=
  r.flds.foldl (fun m f => if as.contains f.acc then m ||| fldMask f else m) 0

/-- The bits of a register that are in no field. -/
def reservedMask (r : RegRow) : Word := ~~~ (r.flds.foldl (fun m f => m ||| fldMask f) 0)

/-- A register's value after its block's reset, the table's reset of each field. -/
def rowReset (r : RegRow) : Word :=
  r.flds.foldl (fun m f => m ||| BitVec.ofNat 32 (f.reset * 2 ^ f.lo)) 0

/-- A register's value after reset, 0 where no register is. DEDUCED, log 9. -/
def resetWord (p off : Nat) : Word :=
  match regAt p off with
  | some r => rowReset r
  | none => 0

/-- Configuration area offsets (R52): 0x040 to 0x3FF. -/
def isCfg (off : Nat) : Bool := 0x40 ≤ off && off < 0x400
/-- Offsets that read shadows (R524): 0x440 to 0x7FF. -/
def isShadowOff (off : Nat) : Bool := 0x440 ≤ off && off < 0x800

end Sys2Proof.Machine
end

