-- ==== Sys2Proof/Machine/Regs.lean ====
section
/-! DEFINITION. Registers of the pages: live values, shadows, recording errors, interrupts and counters. -/

namespace Sys2Proof.Machine

open Sys2Proof

/-- The key of a register in the live and shadow maps. -/
def regKey (p off : Nat) : Nat := 4096 * p + off

/-- A register's live value. DEDUCED, log 9. -/
def live (s : State) (p off : Nat) : Word := mget (resetWord p off) s.live (regKey p off)

/-- Sets a register's live value; its shadow follows where the two were equal. DEDUCED, log 9. -/
def setLive (p off : Nat) (v : Word) (s : State) : State :=
  { s with live := mset (resetWord p off) s.live (regKey p off) v }

/-- A register's shadow value (R52). DEDUCED, log 9. -/
def shadow (s : State) (p off : Nat) : Word := (mfind s.shadow (regKey p off)).getD (live s p off)

/-- Sets a register's shadow value. DEDUCED, log 9. -/
def setShadow (p off : Nat) (v : Word) (s : State) : State :=
  { s with shadow := if v = live s p off then mdel s.shadow (regKey p off) else mput s.shadow (regKey p off) v }

/-- A field of a live register. -/
def liveF (s : State) (p off hi lo : Nat) : Nat := bits (live s p off) hi lo
/-- A field of a shadow. -/
def shadowF (s : State) (p off hi lo : Nat) : Nat := bits (shadow s p off) hi lo
/-- Sets a field of a live register. -/
def setLiveF (p off hi lo v : Nat) (s : State) : State := setLive p off (withBits (live s p off) hi lo v) s
/-- Sets both the live value and the shadow of a register. -/
def setBoth (p off : Nat) (v : Word) (s : State) : State :=
  let s := { s with shadow := mdel s.shadow (regKey p off) }
  setLive p off v s

/-- Raises a saturating counter field of a register. -/
def countUp (p off hi lo k : Nat) (s : State) : State :=
  setLiveF p off hi lo (satAdd (2 ^ (hi - lo + 1) - 1) (liveF s p off hi lo) k) s

/-- Raises a 32-bit counter; the table does not call it saturating, so it wraps. -/
def countWrap (p off k : Nat) (s : State) : State := setLive p off (live s p off + BitVec.ofNat 32 k) s

/-- The shadows of a page's registers reloaded from live. -/
def reloadShadows (p : Nat) (s : State) : State := { s with shadow := mdrop (fun k => k / 4096 == p) s.shadow }

/-- The shadows of every dirty core of a field reloaded from live (R53, R98). -/
def reloadWindow (f : Nat) (s : State) : State :=
  (s.cores.filter fun e => e.1 / 4096 == f && e.2.dirty).foldl (fun s e =>
    { s with cores := mset .reset s.cores e.1 { e.2 with shadowRegs := [], dirty := false } }) s

/-- Every shadow of a page reloaded from live (R53): those of its cores too for a core access window. -/
def reloadPage (p : Nat) (s : State) : State :=
  match pageKind p with
  | .caw f => reloadWindow f (reloadShadows p s)
  | _ => reloadShadows p s

/-- The keys and shadows of a page. -/
def pageShadows (p : Nat) (s : State) : List (Nat × Word) := s.shadow.filter fun e => e.1 / 4096 == p

/-- Every RW field of a page's configuration area takes its shadow value (R52, R57 step 6). DEDUCED, log 9. -/
def commitPage (p : Nat) (s : State) : State :=
  reloadShadows p ((pageShadows p s).foldl (fun s e =>
    let off := e.1 % 4096
    match regAt p off with
    | some r =>
      let m := accMask [.rw] r
      setLive p off ((live s p off &&& ~~~m) ||| (e.2 &&& m)) s
    | none => s) s)

/-- Every register of a page as after its block's reset. -/
def resetPage (p : Nat) (s : State) : State :=
  { s with live := mdrop (fun k => k / 4096 == p) s.live, shadow := mdrop (fun k => k / 4096 == p) s.shadow }

/-! ### Interrupts (R365, R366, R497) -/

/-- Page of HI_IRQ_CTRL, HI_IRQ_STATUS and HI_FATAL. -/
def pIrq : Nat := 0x21

/-- Sends what is due: requested, not masked, the link up (R366). DESIGN CHOICE, log 59. -/
def sendDue (s : State) : State :=
  if s.host.up then
    let go := s.host.pba &&& ~~~s.host.msixMask
    let s' := { s with host := { s.host with pba := s.host.pba &&& s.host.msixMask } }
    [0, 1, 2, 3].foldl (fun s v => if bit go v then emit (.msix v (s.host.msix.getD v ⟨0, 0⟩)) s else s) s'
  else s

/-- A cause of vector v occurs (R366). DESIGN CHOICE, log 59. -/
def raiseIrq (v : Nat) (s : State) : State :=
  let st := live s pIrq 0x800
  if bit st v then s
  else
    let s1 := setLive pIrq 0x800 (withBits st v v 1) s
    if bit (live s1 pIrq 0x40) v then
      sendDue { s1 with host := { s1.host with pba := withBits s1.host.pba v v 1 } }
    else s1

/-- A fatal condition: HI_FATAL keeps the first, and its becoming valid raises vector 0 (R365, R497). -/
def fatal (c : Code) (s : State) : State :=
  if liveF s pIrq 0x818 31 31 = 1 then s
  else raiseIrq 0 (setLive pIrq 0x818 (withBits (BitVec.ofNat 32 c.toNat) 31 31 1) s)

/-! ### The host's accesses (R357) -/

/-- Unsupported Request is the answer to the host; AER records it. PRESUMED, log 8. -/
def unsupportedReq (s : State) : State := emit .unsupported { s with host := { s.host with aer := s.host.aer ||| 0x00100000 } }

/-- Whether an access of a master reaches the register window: the host's does while Memory Space Enable is 1, outside D3hot. -/
def reaches (m : Master) (s : State) : Bool := m != .host || s.host.memSpace

/-- An access of a master to the register window acts, or completes with Unsupported Request. -/
def viaBar (m : Master) (act : State → State) (s : State) : State := if reaches m s then act s else unsupportedReq s

/-! ### Recording errors (R51) -/

/-- BLK_ERR.VALID of a page. -/
def errValid (s : State) (p : Nat) : Bool := bit (live s p 0x10) 31

/-- The pages `base`, `base + 1`, … `base + n - 1`. -/
def pageRange (base n : Nat) : List Nat := (List.range n).map (base + ·)

/-- The pages covered by the bit of HI_ERRSUM that covers a page (R370). DEDUCED, log 64. -/
def sumGroup (p : Nat) : List Nat :=
  if p < 0x100 then
    match pageKind p with
    | .serving _ => pageRange 0x10 16
    | .host _ => pageRange 0x20 4
    | .sec _ => pageRange 0x28 4
    | .pm _ => pageRange 0x38 4
    | _ => [p]
  else if p < 0x600 then pageRange (p / 16 * 16) 16
  else pageRange (p / 8 * 8) 8

/-- A page records an error: BLK_ERR keeps the first code, a further one sets OVF (R51), and vector 1 is raised when a
summary bit of HI_ERRSUM goes from 0 to 1 (R365). DEDUCED, log 64. -/
def recordErr (p : Nat) (c : Code) (info : Word) (s : State) : State :=
  if errValid s p then setLive p 0x10 (withBits (live s p 0x10) 30 30 1) s
  else
    let was := (sumGroup p).any (errValid s)
    let s1 := setLive p 0x14 info (setLive p 0x10 (withBits (BitVec.ofNat 32 c.toNat) 31 31 1) s)
    if was then s1 else raiseIrq 1 s1

/-- A page records an error whose BLK_ERRINFO the manual does not state: any value. DESIGN CHOICE, log 17. -/
def recordErrAny (p : Nat) (c : Code) (s : State) : State :=
  let v := freshWord s
  recordErr p c (v.1.setWidth 32) v.2

/-! ### The recovery log (R480, R499) -/

/-- An entry of the log: the newest first, 64 kept. DESIGN CHOICE, log 13. DEDUCED, log 35. -/
def logPut (c : Code) (kind result unit us : Nat) (s : State) : State :=
  { s with recov := { s.recov with log := (⟨s.recov.nextLog, c, kind, result, unit, us⟩ :: s.recov.log).take 64,
                                   nextLog := s.recov.nextLog + 1 } }

/-- A transient event: counted and logged, with no further consequence (R480). DEDUCED, log 35. -/
def logTransient (c : Code) (kind unit : Nat) (s : State) : State :=
  logPut c kind 1 unit 0 (countUp 0 0xA10 31 16 1 s)

/-- A block reports a fault to the module controller, which takes it up under R480 to R488. DEDUCED, log 35. -/
def report (c : Code) (kind unit : Nat) (s : State) : State :=
  { s with recov := { s.recov with reported := s.recov.reported ++ [⟨c, kind, unit, 0⟩] } }

/-! ### Dark fields -/

/-- What the power side holds of a field. -/
def fieldOf (s : State) (f : Nat) : FieldPower := mget .reset s.fields f

/-- A field's state. -/
def fieldSt (s : State) (f : Nat) : FieldSt := (fieldOf s f).st

/-- The field a page belongs to. -/
def pageField (p : Nat) : Option Nat := if 0x100 ≤ p ∧ p < 0x600 then some ((p - 0x100) / 16) else none

/-- Whether a unit of a component has stopped for a RESTART (R516). -/
def restarts (s : State) (c u : Nat) : Bool :=
  match s.boot.restart with
  | some r => r.begun && r.component == c && r.unit == u
  | none => false

/-- Whether the module controller does not act: it restarts, or can boot no image (R515, R516). -/
def mcStops (s : State) : Bool := restarts s 1 0 || (mget .reset s.boot.comps 1).dead.contains 0

/-- Whether a page is one of a field whose FCU restarts (R516). -/
def pageRestarts (s : State) (p : Nat) : Bool :=
  match pageField p with
  | some f => restarts s 2 f
  | none => false

/-- Whether writes to a page are discarded: its field is dark (R50), or its FCU restarts (R516). -/
def pageDark (s : State) (p : Nat) : Bool :=
  match pageField p with
  | some f => fieldSt s f == .dark || restarts s 2 f
  | none => false

/-! ### Clock steps (R437, R448) -/

/-- Phases of a rail that do not run: failed, or switched off awaiting their retry (R437). -/
def phasesDown (m : Map PhaseSt) : Nat := (m.filter (·.2 != .retried)).length

/-- The phase cap (R437). -/
def phaseCap (x : FieldPower) : Nat := if 5 ≤ phasesDown x.vcore then 2 else 0

/-- The thermal cap with the holds of R468 and R476. -/
def thermalCap (x : FieldPower) : Nat := Nat.max x.thermCap (Nat.max (if x.stale then 3 else 0) (if x.plausHold then 2 else 0))

/-- CLK_CTRL.REQ_STEP. -/
def reqStep (s : State) (f : Nat) : Nat := liveF s (0x100 + 16 * f + 1) 0x40 1 0

/-- The effective clock step of a field: the slowest of its inputs (R448). -/
def effStep (s : State) (f : Nat) : Nat :=
  let x := fieldOf s f
  Nat.max (Nat.max (reqStep s f) (phaseCap x)) (Nat.max (thermalCap x) x.powCap)

/-- VCORE of a clock step, in mV (R436). -/
def vcoreOfStep (step : Nat) : Nat := [850, 750, 680, 600].getD step 600

/-- Where VCORE of a field is set, in eighths of a mV (R436, R444, R448): the value of the step that an on field has reached; k eighths
of that of the effective step once stage k of an attempt has started; otherwise it is down. -/
def vcoreSet (s : State) (f : Nat) : Nat :=
  let x := fieldOf s f
  match x.st, x.attempt with
  | .on, _ => 8 * vcoreOfStep x.clk
  | .kiln, some _ => x.stage * vcoreOfStep (effStep s f)
  | _, _ => 0

/-! ### Discards (R46, R49, R65) -/

/-- A discarded access of the wrong width or alignment is counted; a write is the last drop. -/
def countWidth (s : State) : State := countUp 4 0x800 31 16 1 s

/-- CNET_LAST_DROP names the last discarded write (R65). -/
def lastDrop (m p off : Nat) (s : State) : State :=
  setLive 4 0x804 (withBits (withBits (BitVec.ofNat 32 off) 31 28 m) 27 14 p) s

/-- A write to a reserved, unassigned, shadow or dark offset (R49, R50, R524). DESIGN CHOICE, log 59. -/
def dropUnassigned (m p off : Nat) (s : State) : State := lastDrop m p off (countUp 4 0x800 15 0 1 s)

/-- A write of the wrong width or alignment (R46). -/
def dropWidth (m p off : Nat) (s : State) : State := lastDrop m p off (countWidth s)

end Sys2Proof.Machine
end

