-- ==== Sys2Proof/Machine/CoreOps.lean ====
section
/-! DEFINITION. Operations on one core: its store, tags, handles, threads and what they wait on (04). -/

namespace Sys2Proof.Machine

open Sys2Proof

/-! ### Cores and threads -/

/-- Core `c` by ID. -/
def coreAt (s : State) (c : Nat) : Core := mget .reset s.cores c

/-- Sets core `c`. -/
def setCore (c : Nat) (x : Core) (s : State) : State := { s with cores := mset .reset s.cores c x }

/-- Changes core `c`. -/
def updCore (c : Nat) (f : Core → Core) (s : State) : State := setCore c (f (coreAt s c)) s

/-- Thread t of a core. -/
def threadAt (x : Core) (t : Nat) : Thread := mget .reset x.threads t

/-- Sets thread t of a core. -/
def setThread (t : Nat) (th : Thread) (x : Core) : Core := { x with threads := mset .reset x.threads t th }

/-- The field of a core ID. -/
def fieldOfCore (c : Nat) : Nat := c / 4096
/-- The core index within the field, CY × 64 + CX. -/
def coreIndex (c : Nat) : Nat := c % 4096

/-- What the repair map says of a core. -/
def repairOf (s : State) (c : Nat) : Repair := mget .reset s.repair c

/-- Whether the floor map enables a core (R13). -/
def coreEnabled (s : State) (c : Nat) : Bool := (repairOf s c).enabled

/-- The check that any block makes of a core ID (R11, R13). -/
def coreIdCheck (s : State) (c : Nat) : Option Code :=
  if !coreIdValid c then some E.coreIdInvalid else if !coreEnabled s c then some E.coreDisabled else none

/-- A scalar register; s0 reads as 0 (R105). -/
def regS (th : Thread) (n : Nat) : DWord := if n = 0 then 0 else mget 0 th.s n
/-- Writes a scalar register; writes to s0 are discarded (R105). -/
def setS (n : Nat) (v : DWord) (th : Thread) : Thread := if n = 0 then th else { th with s := mset 0 th.s n v }
/-- A vector register. -/
def regV (th : Thread) (n : Nat) : Vec := mget 0 th.v n
/-- Writes a vector register. -/
def setV (n : Nat) (v : Vec) (th : Thread) : Thread := { th with v := mset 0 th.v n v }
/-- An accumulator. -/
def regA (th : Thread) (n : Nat) : Acc := mget 0 th.a n
/-- Writes an accumulator. -/
def setA (n : Nat) (v : Acc) (th : Thread) : Thread := { th with a := mset 0 th.a n v }

/-- Lane k of a vector or accumulator. -/
def lane {n : Nat} (v : BitVec n) (k : Nat) : Word := BitVec.ofNat 32 (v.toNat / 2 ^ (32 * k))

/-- A vector or accumulator from its lanes. -/
def fromLanes (n : Nat) (l : List Word) : BitVec n :=
  BitVec.ofNat n (l.foldr (fun w acc => w.toNat + 2 ^ 32 * acc) 0)

/-- The lanes of a vector or accumulator. -/
def lanesOf {n : Nat} (v : BitVec n) (k : Nat) : List Word := (List.range k).map (lane v)

/-! ### The core store (R206) -/

/-- Local address of a byte of a core's stride. -/
def coreAddr (c b : Nat) : Nat := 0x40000 * c + b

/-- Bytes of the core stores from a local address. -/
def readMem (s : State) (a : Nat) : Nat → List Byte
  | 0 => []
  | n + 1 => mget 0 s.mem a :: readMem s (a + 1) n

/-- Memory with bytes written from an address. -/
def writeBytes (m : Map Byte) (a : Nat) : List Byte → Map Byte
  | [] => m
  | b :: l => writeBytes (mset 0 m a b) (a + 1) l

/-- Writes bytes of the core stores. -/
def writeMem (a : Nat) (l : List Byte) (s : State) : State :=
  { s with mem := writeBytes s.mem a l, badParity := s.badParity.filter fun b => decide (b < a ∨ a + l.length ≤ b) }

/-- The bytes whose address satisfies `p` become 0 with valid parity (R69, R216). -/
def clearMem (p : Nat → Bool) (s : State) : State :=
  { s with mem := mdrop p s.mem, badParity := s.badParity.filter fun b => !p b }

/-- The mode of a bank of a core: 0 weights, 1 activations, 2 cache (R67). -/
def bankMode (x : Core) (b : Nat) : Nat := bits x.bankMode (2 * b + 1) (2 * b)

/-- The bank of a slot. -/
def bankOf (slot : Nat) : Nat := slot / 512

/-- The banks in cache mode, ascending. -/
def cacheBankList (x : Core) : List Nat := (List.range 12).filter fun b => bankMode x b == 2

/-- How many banks are in cache mode. -/
def cacheBanks (x : Core) : Nat := (cacheBankList x).length

/-- Whether an engine DMA credit is left (R94). -/
def creditLeft (s : State) : Bool := decide (s.credits < 4096)

/-! ### Ranges -/

/-- The range of whole slots that bytes [a, a + n) touch. -/
def rngOf (stack : Bool) (a n : Nat) : Rng :=
  if n = 0 then ⟨stack, a / 32, 0⟩ else ⟨stack, a / 32, (a + n - 1) / 32 + 1 - a / 32⟩

/-- Overlap, judged in whole slots. -/
def overlap (p q : Rng) : Bool :=
  p.stack == q.stack && decide (0 < p.count) && decide (0 < q.count) && decide (p.first < q.first + q.count)
    && decide (q.first < p.first + p.count)

/-- The slots of a range. -/
def slotsOf (r : Rng) : List Nat := (List.range r.count).map (r.first + ·)

/-! ### Waiting -/

/-- The wait reason of R77. -/
def waitCode : WaitOn → Nat
  | .none => 0 | .tag _ => 1 | .score _ => 2 | .unit _ => 2 | .tally _ _ _ => 3 | .dmqFull => 4 | .scoreFull => 5
  | .inject _ => 6 | .miss _ => 7 | .quota => 8 | .bankClear _ => 9

/-- An event meets the condition of every blocked thread whose wait satisfies `p` (R77). -/
def meetWaits (p : WaitOn → Bool) (x : Core) : Core :=
  { x with threads := x.threads.map fun e =>
      (e.1, if e.2.st == .blocked && p e.2.wait then { e.2 with met := true } else e.2) }

/-- A tag change on slots wakes every thread that waits on one of them (R74). -/
def wakeTag (l : List Nat) (x : Core) : Core :=
  meetWaits (fun w => match w with
    | .tag q => l.any fun k => decide (q.first ≤ k) && decide (k < q.first + q.count)
    | _ => false) x

/-- Whether every slot of a range is full. -/
def allFull (x : Core) (r : Rng) : Bool := (slotsOf r).all (x.full.contains ·)
/-- Whether every slot of a range is empty. -/
def allEmpty (x : Core) (r : Rng) : Bool := (slotsOf r).all fun k => !x.full.contains k

/-- Sets the tags of a range full. -/
def setFull (r : Rng) (x : Core) : Core :=
  wakeTag ((slotsOf r).filter fun k => !x.full.contains k)
    { x with full := (slotsOf r).foldl (fun l k => insertAsc k l) x.full }

/-- Sets the tags of a range empty. -/
def setEmpty (r : Rng) (x : Core) : Core :=
  wakeTag ((slotsOf r).filter fun k => x.full.contains k)
    { x with full := x.full.filter fun k => !(r.first ≤ k && k < r.first + r.count) }

/-- A bank of the range that is being cleared. -/
def clearingBank (x : Core) (r : Rng) : Option Nat :=
  if r.stack then none else x.clearing.find? fun b => overlap ⟨false, 512 * b, 512⟩ r

/-! ### Handles (R80 to R83) -/

/-- A handle table entry as translated. -/
structure HView where
  valid : Bool
  rd : Bool
  wr : Bool
  tagged : Bool
  cls : Nat
  /-- extent in bytes -/
  ext : Nat
  /-- first byte: in the core's stride, or the offset from the first stack window for a stack-backed one -/
  base : Nat
  deriving DecidableEq, Repr

/-- Reset value of a handle register: DYN reads 1 in word 0 of handles 48 to 63 (R80). -/
def handleReset (i : Nat) : DWord := if 96 ≤ i ∧ i % 2 = 0 then 0x4000000000000000 else 0

/-- A live handle register. -/
def handleReg (x : Core) (i : Nat) : DWord := mget (handleReset i) x.handles i

/-- Sets a live handle register; DYN reads as R80 fixes it. -/
def setHandleReg (i : Nat) (v : DWord) (x : Core) : Core :=
  { x with handles := mset (handleReset i) x.handles i (if i % 2 = 0 then withBits v 62 62 (if 96 ≤ i then 1 else 0) else v) }

/-- An entry from its two words. -/
def viewOf (w0 w1 : DWord) : HView :=
  let cls := bits w0 58 56
  { valid := bit w0 63, rd := bit w0 61, wr := bit w0 60, tagged := bit w0 59, cls := cls,
    ext := bits w0 47 24 * (if cls = 2 then 256 else 32),
    base := if cls = 2 then 256 * bits w1 41 8 else bits w0 12 0 * 32 }

/-- Handle h of a core. -/
def hview (x : Core) (h : Nat) : HView := viewOf (handleReg x (2 * h)) (handleReg x (2 * h + 1))

/-- Whether a handle is stack-backed. -/
def isStack (h : HView) : Bool := h.cls == 2

/-- The checks of one named handle at step 2 of R108: validity, permissions, class, then tag mode. -/
def handleChk (h : HView) (rd wr : Bool) (classes : List Nat) (needTag : Bool) : Option Code :=
  if !h.valid then some E.handleInvalid
  else if (rd && !h.rd) || (wr && !h.wr) then some E.handlePerm
  else if !classes.contains h.cls then some E.handleClass
  else if needTag && !h.tagged then some E.tagMode
  else none

/-- The range of slots that bytes [off, off + n) of a handle touch. -/
def hrng (h : HView) (off n : Nat) : Rng := rngOf (isStack h) (h.base + off) n

/-! ### Scoreboard and unit entries (R88, R119) -/

/-- The scoreboard entry that holds back an untagged access to a range. -/
def scoreBlock (x : Core) (r : Rng) (write : Bool) : Option WaitOn :=
  (x.score.find? fun e => overlap e.rng r && (e.isGet || write)).map (.score ·.id)

/-- The unit entry that holds back an instruction which reads and writes the given ranges. -/
def unitBlock (x : Core) (reads writes : List Rng) : Option WaitOn :=
  (x.units.find? fun u =>
    writes.any (fun w => u.srcs.any (overlap w)) || u.dst.any fun d => (reads ++ writes).any (overlap d)).map (.unit ·.id)

/-- The first of several conditions that applies. -/
def firstSome {α : Type} : List (Option α) → Option α
  | [] => none
  | some a :: _ => some a
  | none :: l => firstSome l

/-- The first failing check. DESIGN CHOICE, log 11. -/
def firstFail : List (Bool × Code) → Option Code
  | [] => none
  | (b, c) :: l => if b then some c else firstFail l

/-! ### Faults of threads (R79) -/

/-- The core access window page of a field. -/
def pCaw (f : Nat) : Nat := fieldPage f 13

/-- A core records the fault of a thread if CORE_ERR is not valid, and the window page records CORE_THREAD_FAULT. -/
def noteFault (c t : Nat) (pc : BitVec 18) (code : Code) (s : State) : State :=
  let x := coreAt s c
  let word : DWord := BitVec.ofNat 64 (2 ^ 63 + 2 ^ 32 * code.toNat + 2 ^ 24 * t + pc.toNat)
  let s := setCore c { x with coreErr := if bit x.coreErr 63 then x.coreErr else word } s
  recordErr (pCaw (fieldOfCore c)) E.coreThreadFault (BitVec.ofNat 32 (coreIndex c + 4096 * t)) s

/-- A thread enters FAULTED with its program counter unchanged. -/
def faultThread (c t : Nat) (code : Code) (s : State) : State :=
  let x := coreAt s c
  let th := threadAt x t
  noteFault c t th.pc code (setCore c (setThread t { th with st := .faulted, wait := .none, met := false } x) s)

/-- DMA_ERR records a failure if it is not already valid (R95, R102, R211). -/
def recordDma (c : Nat) (code : Code) (ext : Bool) (handle off : Nat) (s : State) : State :=
  let x := coreAt s c
  if bit x.dmaErr 63 then s
  else
    let word := BitVec.ofNat 64 (2 ^ 63 + 2 ^ 32 * code.toNat + 2 ^ 26 * b2n ext + 2 ^ 20 * handle + off % 2 ^ 18)
    setCore c { x with dmaErr := word } s

/-! ### Protection of the store (R212 to R218) -/

/-- Raises a 16-bit saturating field of STORE_STAT whose lowest bit is `lo`. -/
def statUp (lo : Nat) (x : Core) : Core :=
  { x with storeStat := withBits x.storeStat (lo + 15) lo (satAdd 0xFFFF (bits x.storeStat (lo + 15) lo) 1) }

/-- STORE_LAST is overwritten by an event. -/
def storeLast (kind slot : Nat) (x : Core) : Core :=
  { x with storeLast := BitVec.ofNat 64 (2 ^ 63 + 2 ^ 59 * kind + slot) }

/-- The slot that an error concerns. -/
def hitSlot : StoreHit → Nat
  | .corrected k => k.toNat
  | .retried k => k.toNat
  | .failed k _ => k.toNat

/-- What an error does in a bank of a given mode: the core with its records, and the code that fails the reader. DESIGN CHOICE, log 60. -/
def hitEvent (h : StoreHit) (x : Core) : Core × Option Code :=
  let n := hitSlot h
  match h with
  | .corrected _ => if bankMode x (bankOf n) = 0 then (storeLast 1 n (statUp 48 x), none) else (x, none)
  | .retried _ => if bankMode x (bankOf n) = 0 then (x, none) else (storeLast 3 n (statUp 32 x), none)
  | .failed _ _ =>
    match bankMode x (bankOf n) with
    | 0 => (storeLast 2 n (statUp 16 x), some E.storeUncorrectable)
    | 1 => (storeLast 4 n (statUp 0 x), some E.actParity)
    | _ => (storeLast 6 n (statUp 0 x), some E.cacheLineLost)

/-- What the module controller hears of an error in core c's store: a clean second read is transient, every other failure is
reported (R213 to R215, R480). -/
def hitReport (c : Nat) (h : StoreHit) (x : Core) (code : Option Code) (s : State) : State :=
  match h, code with
  | .retried n, _ => if bankMode x (bankOf n.toNat) = 0 then s else logTransient E.actParity 0 c s
  | .failed _ _, some e => report e 0 c s
  | _, _ => s

/-- A lasting parity error stays in its byte until a write replaces it (R214). -/
def noteBad (c : Nat) (h : StoreHit) (x : Core) (s : State) : State :=
  match h with
  | .failed n b =>
    if bankMode x (bankOf n.toNat) = 1 then { s with badParity := insertAsc (c * 0x40000 + 32 * n.toNat + b.val) s.badParity } else s
  | _ => s

/-- An error in what a read of core c covers: recorded and reported; the first that fails the reader names the code. -/
def takeHit (c : Nat) (q : State × Option Code) (h : StoreHit) : State × Option Code :=
  let x := coreAt q.1 c
  let r := hitEvent h x
  (hitReport c h x r.2 (noteBad c h x (setCore c r.1 q.1)), q.2.or r.2)

/-- A core without one of its cached lines. -/
def dropLine (l : Nat) (x : Core) : Core := { x with cache := mdel x.cache l }

/-- Those of some lines that are cached, dirty or clean. -/
def linesWith (x : Core) (dirty : Bool) (lines : List Nat) : List Nat :=
  lines.filter fun l => match mfind x.cache l with
    | some e => e.dirty == dirty
    | none => false

/-- A parity error in a cache bank concerns the first line read that it can concern: a clean line is invalidated, so that it is
fetched again, a dirty one is lost (R215). DESIGN CHOICE, log 24. -/
def takeLineHit (c : Nat) (lines : List Nat) (q : State × Option Code) (h : StoreHit) : State × Option Code :=
  let x := coreAt q.1 c
  let can := match h with
    | .failed _ _ => linesWith x true lines
    | .retried _ => linesWith x false lines
    | .corrected _ => []
  match can with
  | [] => q
  | l :: _ =>
    let r := hitEvent h x
    (hitReport c h x r.2 (setCore c (dropLine l r.1) q.1), q.2.or r.2)

/-- Whether a slot lies in one of some ranges of the store. -/
def slotIn (rs : List Rng) (n : Nat) : Bool := rs.any fun r => !r.stack && overlap r ⟨false, n, 1⟩

/-- The lastingly bad bytes of core c in the slots of some ranges, as errors that a read of them meets again (R214). -/
def badHits (s : State) (c : Nat) (rs : List Rng) : StoreCheck :=
  (s.badParity.filter fun a => a / 0x40000 == c && slotIn rs (a % 0x40000 / 32)).map fun a =>
    .failed (BitVec.ofNat 13 (a % 0x40000 / 32)) ⟨a % 32, Nat.mod_lt _ (by decide)⟩

/-- An access of core c reads ranges of its store and cache lines: the state with what its errors record, and the code that
fails the reader. DESIGN CHOICE, log 60. -/
def accessCheck (c : Nat) (k : StoreCheck) (rs : List Rng) (lines : List Nat) (s : State) : State × Option Code :=
  let bad := badHits s c rs
  ((k.filter fun h => !bad.contains h) ++ bad).foldl (fun q h =>
    if bankMode (coreAt q.1 c) (bankOf (hitSlot h)) = 2 then takeLineHit c lines q h
    else if slotIn rs (hitSlot h) then takeHit c q h
    else q) (s, none)

/-- A read of ranges of core c's store. DESIGN CHOICE, log 60. -/
def readCheck (c : Nat) (k : StoreCheck) (rs : List Rng) (s : State) : State × Option Code := accessCheck c k rs [] s

/-- A write of n bytes at a reads the codewords of weights-mode banks that it covers in part (R212). -/
def partialCheck (c : Nat) (k : StoreCheck) (a n : Nat) (s : State) : State × Option Code :=
  let x := coreAt s c
  let slots := (if a % 16 = 0 then [] else [a / 32]) ++ (if (a + n) % 16 = 0 then [] else [(a + n) / 32])
  readCheck c k ((slots.filter fun p => bankMode x (bankOf p) == 0).map fun p => ⟨false, p, 1⟩) s

/-! ### Hazard detector (R252 to R254) -/

/-- The hazard detector page of a field. -/
def pHd (f : Nat) : Nat := fieldPage f 12

/-- Hazard detector and permits of a field. -/
def unitsOf (s : State) (f : Nat) : FieldUnits := mget .reset s.fieldUnits f
/-- Sets them. -/
def setUnits (f : Nat) (x : FieldUnits) (s : State) : State := { s with fieldUnits := mset .reset s.fieldUnits f x }

/-- Whether the detector of a field is on. -/
def hdOn (s : State) (f : Nat) : Bool := liveF s (pHd f) 0x40 31 31 == 1

/-- Keeps a record, or counts it beyond 256 (R254). -/
def hdRecord (f : Nat) (r : DWord) (s : State) : State :=
  let u := unitsOf s f
  if u.records.length < 256 then setUnits f { u with records := u.records ++ [r] } s
  else
    let v := live s (pHd f) 0x810
    setLive (pHd f) 0x810 (if v = 0xFFFFFFFF then v else v + 1) s

/-- A record word (R254). -/
def hdWord (kind core t reason watch pc cycle : Nat) : DWord :=
  BitVec.ofNat 64 (2 ^ 62 * kind + 2 ^ 50 * core + 2 ^ 46 * t + 2 ^ 42 * reason + 2 ^ 36 * watch + 2 ^ 18 * pc
    + cycle % 2 ^ 18)

/-- A marked instruction blocks with a reason of REASON_MASK (R252). -/
def hdBlocked (c t : Nat) (pc cycle reason : Nat) (s : State) : State :=
  let f := fieldOfCore c
  if hdOn s f && bit (live s (pHd f) 0x40) reason
      && (unitsOf s f).marks.any (fun e => bits e.2 17 0 == pc) then
    hdRecord f (hdWord 1 (coreIndex c) t reason 0 pc cycle) s
  else s

/-- The slot range of watch w of a field, where it watches core index `core` (R255). -/
def watchRng (s : State) (f w core : Nat) : Option Rng :=
  let p := pHd f
  if liveF s p (0x100 + 12 * w) 31 31 = 1 ∧ liveF s p (0x100 + 12 * w) 11 0 = core then
    some ⟨false, liveF s p (0x104 + 12 * w) 12 0, liveF s p (0x104 + 12 * w) 28 16⟩
  else none

/-- An untagged write from outside into a range of core c sets its watches PENDING (R253). -/
def hdOutsideWrite (c : Nat) (r : Rng) (s : State) : State :=
  let f := fieldOfCore c
  if hdOn s f then
    (List.range 64).foldl (fun s w =>
      match watchRng s f w (coreIndex c) with
      | some q =>
        let u := unitsOf s f
        if overlap q r && !u.pendingWatch.contains w then
          setUnits f { u with pendingWatch := insertAsc w u.pendingWatch, recordedWatch := without w u.recordedWatch } s
        else s
      | none => s) s
  else s

/-- A read of ranges by a thread load or unit operand while a watch is PENDING produces one record (R253). -/
def hdRead (c t : Nat) (pc cycle : Nat) (rs : List Rng) (s : State) : State :=
  let f := fieldOfCore c
  if hdOn s f then
    (List.range 64).foldl (fun s w =>
      match watchRng s f w (coreIndex c) with
      | some q =>
        let u := unitsOf s f
        if rs.any (overlap q) && u.pendingWatch.contains w && !u.recordedWatch.contains w then
          hdRecord f (hdWord 2 (coreIndex c) t 0 w pc cycle)
            (setUnits f { u with recordedWatch := insertAsc w u.recordedWatch } s)
        else s
      | none => s) s
  else s

/-- A fire of a field tally clears the watches that name it (R253). -/
def hdFire (f i : Nat) (s : State) : State :=
  if hdOn s f then
    let u := unitsOf s f
    let hit := fun w => liveF s (pHd f) (0x108 + 12 * w) 8 0 == i
    setUnits f { u with pendingWatch := u.pendingWatch.filter (fun w => !hit w),
                        recordedWatch := u.recordedWatch.filter (fun w => !hit w) } s
  else s

end Sys2Proof.Machine
end

