-- ==== Sys2Proof/Machine/MsgOps.lean ====
section
/-! DEFINITION. Messages of the fabric: where they go, how they are built and how they enter a router (08, R14, R15, R130,
R135, R183 to R186, R372). -/

namespace Sys2Proof.Machine

open Sys2Proof

/-! ### Places -/

/-- Mesh X of a core ID (R10). -/
def meshX (c : Nat) : Nat := c / 4096 % 10 * 64 + c % 64
/-- Mesh Y of a core ID (R10). -/
def meshY (c : Nat) : Nat := c / 4096 / 10 * 60 + c / 64 % 64
/-- The core ID at mesh coordinates (R10, R11). -/
def coreOfXY (x y : Nat) : Nat := 4096 * (y / 60 * 10 + x / 64) + y % 60 * 64 + x % 64

/-- Core ID from field, row and column (R11). -/
def mkCore (f cy cx : Nat) : Nat := 4096 * f + cy * 64 + cx

/-- The edge field of each stack (R14). -/
def stackField (n : Nat) : Nat :=
  [0, 1, 2, 2, 3, 4, 5, 6, 7, 7, 8, 9, 70, 71, 72, 72, 73, 74, 75, 76, 77, 77, 78, 79].getD n 0

/-- The first router column of each stack (R14). -/
def stackCol (n : Nat) : Nat := [16, 16, 0, 32, 16, 16, 16, 16, 0, 32, 16, 16].getD (n % 12) 0

/-- The edge router of stack n for an offset in its window, and its DPORT (R185). -/
def stackRouter (n off : Nat) : Nat × Nat :=
  (mkCore (stackField n) (if n < 12 then 0 else 59) (stackCol n + off / 256 % 32), if n < 12 then 2 else 1)

/-- The field of hub port h and its router (R15). -/
def hubField (h : Nat) : Nat := 20 + 10 * h
/-- The router of hub port h (R15). -/
def hubRouter (h : Nat) : Nat := mkCore (hubField h) 30 0

/-- The distance of two numbers. -/
def dist (a b : Nat) : Nat := (a - b) + (b - a)

/-- Whether a field is dark. -/
def isDark (s : State) (f : Nat) : Bool := fieldSt s f == .dark

/-- Whether the fabric routes no flit into a field: it is dark, or has returned and is not routed into yet (R197, R443). -/
def shutOff (s : State) (f : Nat) : Bool := isDark s f || (fieldOf s f).unrouted

/-- The hub port of a field: the nearest by field row whose field is not dark, the lower-numbered on a tie (R15). Where all four are
dark the manual names none, and it is the row's own. DESIGN CHOICE, log 29. -/
def hubPort (s : State) (f : Nat) : Nat :=
  let fy := f / 10
  let first := if fy ≤ 2 then 0 else if fy = 3 then 1 else if fy = 4 then 2 else 3
  if !isDark s (hubField first) then first
  else
    let live := [0, 1, 2, 3].filter fun h => !isDark s (hubField h)
    live.foldl (fun best h => if dist (2 + h) fy < dist (2 + best) fy then h else best) (live.headD first)

/-- Tally port p of a field: its router (R135). -/
def tallyRouter (f p : Nat) : Nat := mkCore f (29 + p / 2) (31 + p % 2)

/-- The tally port a core uses in a target field; a retired router hands over to the next port (R135). -/
def tallyPort (s : State) (c f : Nat) : Nat :=
  let p := 2 * b2n (decide (30 ≤ c / 64 % 64)) + b2n (decide (32 ≤ c % 64))
  (([p, (p + 1) % 4, (p + 2) % 4, (p + 3) % 4].find? fun q => !(repairOf s (tallyRouter f q)).routerRetired)).getD p

/-- Field of a link's attachment, its column and its DPORT (R372). -/
def linkField (n : Nat) : Nat := [0, 10, 60, 70, 9, 19, 69, 79].getD n 0
/-- The attachment router of link n in row CY 28 + k (R372). -/
def linkRouter (n k : Nat) : Nat := mkCore (linkField n) (28 + k) (if n < 4 then 0 else 63)
/-- DPORT of a link's attachment (R372). -/
def linkDport (n : Nat) : Nat := if n < 4 then 3 else 4

/-- First local address of the stack windows (R206). -/
def stackBase : Nat := 0x100000000000
/-- Size of a stack window. -/
def stackWin : Nat := 0x2000000000
/-- Used bytes of a stack. -/
def stackUsed : Nat := 0x1800000000

/-- What a local address names (R206, R207). -/
inductive AddrKind where
  /-- the store of a core ID at a byte below 192 KiB -/
  | core (c off : Nat)
  /-- the used part of a stack window -/
  | stack (n off : Nat)
  | pages | aperture (off : Nat) | unbacked
  deriving DecidableEq, Repr

/-- The map of R206. -/
def addrKind (a : Nat) : AddrKind :=
  if a < 0x2000000000 then (if a % 0x40000 < 0x30000 then .core (a / 0x40000) (a % 0x40000) else .unbacked)
  else if stackBase ≤ a ∧ a < stackBase + 24 * stackWin then
    (if (a - stackBase) % stackWin < stackUsed then .stack ((a - stackBase) / stackWin) ((a - stackBase) % stackWin)
     else .unbacked)
  else if 0x200000000000 ≤ a ∧ a < 0x200004000000 then .pages
  else if 0x300000000000 ≤ a ∧ a < 0x400000000000 then .aperture (a - 0x300000000000)
  else .unbacked

/-- A fabric target of SND, SNDR or RDM: its whole range inside one core store or, for RDM, one stack (R130). -/
def targetCheck (s : State) (a : DWord) (len : Nat) (stackOk : Bool) : Option Code :=
  match addrKind a.toNat with
  | .core c off =>
    if 0x30000 < off + len then some E.fabricTargetInvalid else coreIdCheck s c
  | .stack _ off => if stackOk && decide (off + len ≤ stackUsed) then none else some E.fabricTargetInvalid
  | _ => some E.fabricTargetInvalid

/-! ### Building messages -/

/-- A message with every field 0. -/
def msgNull : Msg :=
  { cls := .data, plane := false, wp := false, wx := 0, wy := 0, tag := false, notify := false, tally := 0, dport := 0,
    dx := 0, dy := 0, nomerge := false, addr := 0, rtag := 0, total := 0, count := 0, lt := false, rcore := 0, roff := 0,
    rflits := 0, rtagged := false, rnotify := false, rtally := 0, rvia := false, rentry := 0, rnumber := 0, op := .add, value := 0,
    epoch := 0, thread := 0, src := 0, payload := [], pcl := none, origin := .none, lastField := 0,
    path := [] }

/-- Flits of a message: its header and its payload (R183). -/
def flits (m : Msg) : Nat := 1 + (m.payload.length + 31) / 32

/-- The routing page of a field. -/
def pFab (f : Nat) : Nat := fieldPage f 9

/-- A message as router r injects it: plane (R180), waypoint of its field (R186). -/
def stamp (s : State) (r : Nat) (m : Msg) : Msg :=
  let plane := if m.cls = .reduce then m.rtag % 2 == 1 else (meshX r + meshY r + m.dx + m.dy) % 2 == 1
  let df := m.dy / 60 * 10 + m.dx / 64
  let w := live s (pFab (fieldOfCore r)) (0x100 + 4 * (b2n plane * 80 + df))
  let way := mkCore (bits w 19 13) (bits w 11 6) (bits w 5 0)
  if bit w 31 then { m with plane := plane, wp := true, wx := meshX way, wy := meshY way, lastField := fieldOfCore r }
  else { m with plane := plane, wp := false, wx := 0, wy := 0, lastField := fieldOfCore r }

/-- A message addressed to a router and port. -/
def toward (r dport : Nat) (m : Msg) : Msg := { m with dx := meshX r, dy := meshY r, dport := dport }

/-- A message addressed to the place of a core store or stack address (R185). -/
def towardAddr (a : Nat) (m : Msg) : Msg :=
  match addrKind a with
  | .core c _ => toward c 0 { m with addr := a }
  | .stack n off => toward (stackRouter n off).1 (stackRouter n off).2 { m with addr := a }
  | _ => { m with addr := a }

/-- A TALLY message from a core or unit in field f at router r, addressed to tally t (R131, R135, R185). -/
def towardTally (s : State) (r t : Nat) (m : Msg) : Msg :=
  if t < 30720 then
    let f := t / 384
    toward (tallyRouter f (tallyPort s r f)) 5 { m with addr := t % 384, tally := t }
  else toward (hubRouter (hubPort s (fieldOfCore r))) 3 { m with addr := t - 30720, tally := t }

/-! ### Entering a router -/

/-- Router at core ID r. -/
def routerAt (s : State) (r : Nat) : Router := mget .reset s.routers r
/-- Sets it. -/
def setRouter (r : Nat) (x : Router) (s : State) : State := { s with routers := mset .reset s.routers r x }

/-- Key of an input queue. -/
def qKey (port : Nat) (plane : Bool) : Nat := port * 2 + b2n plane

/-- Flits in a queue. -/
def flitsIn (l : List Msg) : Nat := l.foldl (fun n m => n + flits m) 0

/-- Whether a queue of a number of flits takes a message: it has the flits free, or is empty, the message then reaching back to the
queue before it. DESIGN CHOICE, log 29. -/
def hasRoom (cap : Nat) (l : List Msg) (m : Msg) : Bool := l.isEmpty || decide (flitsIn l + flits m ≤ cap)

/-- A message joins a queue of router r behind its input ports, on its plane. -/
def enqueue (r port : Nat) (m : Msg) (s : State) : State :=
  let x := routerAt s r
  let k := qKey port m.plane
  setRouter r { x with queues := mset [] x.queues k (mget [] x.queues k ++ [m]) } s

/-- Flits in a local injection queue. DESIGN CHOICE, log 29. -/
def injectUsed (x : Core) : Nat := flitsIn x.inject

/-- Room in the local injection queue meets the threads that wait for it (R77). -/
def meetInject (x : Core) : Core :=
  meetWaits (fun w => match w with
    | .inject n => decide (injectUsed x + n ≤ 32)
    | _ => false) x

/-- A thread's message joins the local injection queue of its core (R127, R182). -/
def injectLocal (c : Nat) (m : Msg) (s : State) : State :=
  updCore c (fun x => { x with inject := x.inject ++ [stamp s c m] }) s

/-- What the core's engines wait to inject joins the local injection queue in order, while it has room for the whole message
(R182). DESIGN CHOICE, log 29. -/
def refillFrom (s : State) (c : Nat) : Nat → Core → Core
  | 0, x => x
  | n + 1, x =>
    match x.engine with
    | m :: l =>
      if injectUsed x + flits m ≤ 32 then refillFrom s c n { x with engine := l, inject := x.inject ++ [stamp s c m] } else x
    | [] => x

/-- What waits in the engines of core c enters its injection queue. -/
def refillCore (c : Nat) (s : State) : State := updCore c (fun x => refillFrom s c x.engine.length x) s

/-- The outward port of router r at which the unit of a source ID attaches: 0 for a core, a tally block and an FCU (R184, R185). -/
def unitPort (src : Nat) : Nat :=
  if src / 4096 = 0x7D then (if src % 4096 < 12 then 2 else 1)
  else if src / 4096 = 0x7C then linkDport (src % 4096)
  else if src / 4096 = 0x7F then 3 else 0

/-- A block other than a thread injects a message at router r: a core's engine or the router's tally block through the local
injection queue, a stack controller, hub port or link attachment through the outward port at which it attaches. -/
def injectEngine (r : Nat) (m : Msg) (s : State) : State :=
  match unitPort m.src with
  | 0 => refillCore r (updCore r (fun x => { x with engine := x.engine ++ [m] }) s)
  | p =>
    let m := stamp s r m
    let x := routerAt s r
    let k := qKey p m.plane
    setRouter r { x with ext := mset [] x.ext k (mget [] x.ext k ++ [m]) } s

/-- Where the FCU of a field joins the fabric: at its first tally port whose router is not retired. DESIGN CHOICE, log 29. -/
def fcuRouter (s : State) (f : Nat) : Nat :=
  tallyRouter f (([0, 1, 2, 3].find? fun q => !(repairOf s (tallyRouter f q)).routerRetired).getD 0)

/-- The FCU of field f injects a message (R184). -/
def injectFcu (f : Nat) (m : Msg) (s : State) : State := injectEngine (fcuRouter s f) { m with src := 0x7E000 + f } s

/-- Whether a message of some origin is in the fabric, or a notice of it on its way. -/
def underWay (p : Origin → Bool) (s : State) : Bool :=
  let any := fun (l : Map (List Msg)) => l.any fun q => q.2.any fun m => p m.origin
  s.routers.any (fun e => any e.2.queues || any e.2.outq || any e.2.ext || e.2.merge.any fun q => q.2.reqs.any fun r => p r.origin)
    || s.cores.any (fun e => (e.2.inject ++ e.2.engine ++ e.2.eject).any fun m => p m.origin)
    || s.notices.any fun n => p n.origin

/-- The block at router r adds v to tally t (NOTIFY): an add message (R127, R136). -/
def sendAdd (r src t v : Nat) (s : State) : State :=
  injectEngine r (towardTally s r t { msgNull with cls := .tally, op := .add, value := v, src := src }) s

/-- The block at router r adds 1 to a tally where NOTIFY asks for it. -/
def sendNotify (r src : Nat) (on : Bool) (t : Nat) (s : State) : State := if on then sendAdd r src t 1 s else s

/-- A failure notice starts on its way (R211). -/
def notify (o : Origin) (code : Code) (addr : Nat) (s : State) : State :=
  if o = .none then s else { s with notices := s.notices ++ [⟨o, code, addr⟩] }

/-- A read of a moved slot's former core was not clean (R489). -/
def copyUnclean (c : Nat) (s : State) : State :=
  { s with recov := { s.recov with plan := s.recov.plan.map fun p => { p with unclean := insertAsc c p.unclean } } }

/-! ### Progress of transfers -/

/-- Bytes of a descriptor's range have been written at its destination (R94). -/
def descLanded (c id n : Nat) (s : State) : State :=
  updCore c (fun x => { x with dmq := x.dmq.map fun d => if d.id = id then { d with left := d.left - n } else d }) s

/-- Stack n. -/
def stackAt (s : State) (n : Nat) : Stack := mget .reset s.stk n
/-- Sets it. -/
def setStack (n : Nat) (x : Stack) (s : State) : State := { s with stk := mset .reset s.stk n x }
/-- Channel ch of a stack. -/
def chanAt (x : Stack) (ch : Nat) : Chan := mget .reset x.chans ch
/-- Sets it. -/
def setChan (ch : Nat) (c : Chan) (x : Stack) : Stack := { x with chans := mset .reset x.chans ch c }
/-- Changes a channel. -/
def updChan (n ch : Nat) (f : Chan → Chan) (s : State) : State :=
  setStack n (setChan ch (f (chanAt (stackAt s n) ch)) (stackAt s n)) s

/-- Whether a segment is still its channel's: one of an ended descriptor is not. -/
def hasSeg (s : State) (n ch id : Nat) : Bool := (chanAt (stackAt s n) ch).segs.any (·.id == id)

/-- Bytes of a segment have been written at its destination (R230). -/
def segLanded (n ch id k : Nat) (s : State) : State :=
  updChan n ch (fun c => { c with segs := c.segs.map fun g => if g.id = id then { g with left := g.left - k } else g }) s

/-- Bytes that a message carried for its origin have been written. -/
def landed (o : Origin) (n : Nat) (s : State) : State :=
  match o with
  | .desc c id => descLanded c id n s
  | .seg st ch id => segLanded st ch id n s
  | _ => s

/-! ### Models -/

/-- Model m. -/
def modelAt (s : State) (m : Nat) : Model := mget .reset s.weights.models m
/-- Sets it. -/
def setModel (m : Nat) (x : Model) (s : State) : State :=
  { s with weights := { s.weights with models := mset .reset s.weights.models m x } }
/-- Changes it. -/
def updModel (m : Nat) (f : Model → Model) (s : State) : State := setModel m (f (modelAt s m)) s

/-! ### Fence (R402 to R404) -/

/-- Whether a source ID is a core's (R184). -/
def srcIsCore (src : Nat) : Bool := src / 4096 < 80

/-- The fence at a core store or a tally: the two owners are equal and neither is FREE (R403). -/
def fenceOwner (s : State) (src : Nat) (target : Option Nat) : Bool :=
  !srcIsCore src || (match mfind s.owner src, target with
    | some a, some b => a == b
    | _, _ => false)

/-- TENANT of model m (R279). -/
def modelTenant (s : State) (m : Nat) : Nat := liveF s 0x18 (0x200 + 4 * m) 15 8

/-- Tenant of a core: that of the model whose placement holds it (R383, R402). -/
def tenantOfCore (s : State) (c : Nat) : Option Nat := (mfind s.owner c).map (modelTenant s)

/-- Page of SE_FENCE and of refusals at hub tallies. -/
def pSec : Nat := 0x28

/-- A refusal of the fence at a tally: recorded with the message's SRC and counted in SE_FENCE (R404). DEDUCED, log 31. -/
def fenceRefused (page src : Nat) (s : State) : State :=
  countUp pSec 0x808 15 0 1 (recordErr page E.fenceViolation (BitVec.ofNat 32 src) s)

/-- A refusal of the fence at a core store or a stack (R404). -/
def fenceRefusedAny (page : Nat) (s : State) : State := countUp pSec 0x808 15 0 1 (recordErrAny page E.fenceViolation s)

end Sys2Proof.Machine
end

