-- ==== Sys2Proof/Machine/ChainOps.lean ====
section
/-! DEFINITION. The chain as the rest of the engine uses it: routes, sending a PCL message on a link, the attachments' requests
and how they end (R373, R375 to R378, R381, R382, R387 to R391, R396). -/

namespace Sys2Proof.Machine

open Sys2Proof

/-! ### Membership and routes -/

/-- Page +0 of link n. -/
def pLink (n : Nat) : Nat := linkPage n 0
/-- The page of the engine-wide chain registers (R400). -/
def pCl : Nat := linkPage 0 3

/-- This engine's MODULE_ID, live. -/
def ownModule (s : State) : Nat := liveF s pCl 0x40 13 0
/-- CL_MODULE.JOINED, live. -/
def joined (s : State) : Bool := liveF s pCl 0x40 31 31 == 1

/-- Link n. -/
def linkAt (s : State) (n : Nat) : Link := mget .reset s.links n
/-- Sets it. -/
def setLink (n : Nat) (x : Link) (s : State) : State := { s with links := mset .reset s.links n x }
/-- Whether link n is UP. -/
def linkUp (s : State) (n : Nat) : Bool := (linkAt s n).st == .up

/-- Live bank of a route table: 0 to 7 the ingress table of a link, 8 the local table (R399, R400). -/
def routeBank (s : State) (t : Nat) : Nat := if t < 8 then liveF s (linkPage t 2) 0x40 0 0 else liveF s pCl 0x48 0 0

/-- Key of word k of a bank of a table. -/
def routeKey (t bank k : Nat) : Nat := 4096 * t + 2048 * bank + k

/-- A word of a bank of a table; every table resets to all 0xF. -/
def routeWord (s : State) (t bank k : Nat) : Word := mget 0xFFFFFFFF s.routes (routeKey t bank k)

/-- Where a table sends a message. -/
inductive Route where
  | link (n : Nat) | own | drop
  deriving DecidableEq, Repr

/-- The entry for a module in the live bank (R387): LOCAL is valid only for the engine's own MODULE_ID. -/
def routeFor (s : State) (t dest : Nat) : Route :=
  let e := bits (routeWord s t (routeBank s t) (dest / 8 % 2048)) (4 * (dest % 8) + 3) (4 * (dest % 8))
  if e < 8 then .link e
  else if e = 8 ∧ dest = ownModule s then .own
  else .drop

/-! ### Sending on a link -/

/-- Whether a type is a response (R390). -/
def isResp (op : Nat) : Bool := op == 3 || op == 4 || op == 7 || op == 9

/-- The VC on which a message leaves on link n: VC 1 of its class from a dateline link on (R389). -/
def egressVc (s : State) (n vc : Nat) : Nat := if liveF s (pLink n) 0x40 30 30 = 1 then vc / 2 * 2 + 1 else vc

/-- A flit leaves a link that is UP, numbered and encrypted, and is kept for replay where its type is (R377, R378). -/
def sendFlit (n ty vc : Nat) (body : List Byte) (s : State) : State :=
  let x := linkAt s n
  let l := sealFlit (dirKey x.keys x.sideA) ty vc x.txSeq body
  emit (.flit n l) (setLink n { x with
    txSeq := x.txSeq + 1, replay := if keptType ty then x.replay ++ [(x.txSeq, l)] else x.replay } s)

/-- Whether a link may send a new flit: its replay buffer has room (R377). -/
def flitRoom (x : Link) : Bool := decide (x.replay.length < 1024)

/-- A control flit leaves, or waits behind those that wait for room. -/
def sendCtl (n ty : Nat) (body : List Byte) (s : State) : State :=
  let x := linkAt s n
  if x.st ≠ .up then s
  else if flitRoom x && x.ctlq.isEmpty then sendFlit n ty 0 body s
  else setLink n { x with ctlq := x.ctlq ++ [(ty, body)] } s

/-- Control flits that waited leave while there is room: at most k. -/
def pumpCtl (n : Nat) : Nat → State → State
  | 0, s => s
  | k + 1, s =>
    let x := linkAt s n
    match x.ctlq with
    | q :: l => if flitRoom x then pumpCtl n k (sendFlit n q.1 0 q.2 (setLink n { x with ctlq := l } s)) else s
    | [] => s

/-- Flits of a receive buffer that nothing holds any more: bytes leave it in order (R376). DESIGN CHOICE, log 45. -/
def rxFree (b : RxVc) : Nat := b.held.foldl (fun n h => Nat.min n h.1) b.pos / 256

/-- Credits of flits that have left a VC's receive buffer go back to the peer (R376). -/
def returnCredits (n vc : Nat) (s : State) : State :=
  let x := linkAt s n
  let b := x.rx.getD vc ⟨0, 0, [], []⟩
  let k := rxFree b - b.base
  if k = 0 then s
  else sendCtl n tyCredit ((List.range 4).flatMap fun v => leBytes 2 (if v = vc then k else 0))
    (setLink n { x with rx := lset x.rx vc { b with base := rxFree b } } s)

/-- A forwarded message has moved on: its place in the receive buffer is free (R376). -/
def movedOn (back : Option (Nat × Nat × Nat)) (s : State) : State :=
  match back with
  | some (n, vc, id) =>
    let x := linkAt s n
    let b := x.rx.getD vc ⟨0, 0, [], []⟩
    returnCredits n vc (setLink n { x with rx := lset x.rx vc { b with held := b.held.filter (·.2 != id) } } s)
  | none => s

/-- A message as it leaves: HOPS rises (R388); a SVC message, which only direct neighbours accept, goes with HOPS 0 (R393). -/
def wireOut (q : TxMsg) : List Byte :=
  pclWire { q.msg with hops := if q.msg.op = 8 ∨ q.msg.op = 9 then 0 else q.msg.hops + 1 }

/-- What the waiting messages of a VC put into a flit with some room: its bytes, the messages that still wait, and those that have
left whole. -/
def fillFlit (vc : Nat) : Nat → List TxMsg → List Byte × List TxMsg × List TxMsg
  | _, [] => ([], [], [])
  | room, q :: l =>
    if q.vc ≠ vc then
      let r := fillFlit vc room l
      (r.1, q :: r.2.1, r.2.2)
    else
      let b := (wireOut q).drop q.sent
      if room = 0 then ([], q :: l, [])
      else if b.length ≤ room then
        let r := fillFlit vc (room - b.length) l
        (b ++ r.1, r.2.1, q :: r.2.2)
      else (b.take room, { q with sent := q.sent + room } :: l, [])

/-- DATA flits of a VC leave, each with a credit, while messages wait (R376): at most k. A flit leaves with what waits, zeros after it.
DESIGN CHOICE, log 45. -/
def pumpVc (n vc : Nat) : Nat → State → State
  | 0, s => s
  | k + 1, s =>
    let x := linkAt s n
    if x.txq.any (·.vc == vc) && flitRoom x && x.ctlq.isEmpty && decide (0 < x.credits.getD vc 0) then
      let r := fillFlit vc 256 x.txq
      let s := sendFlit n tyData vc r.1 (setLink n { x with txq := r.2.1, credits := lset x.credits vc (x.credits.getD vc 0 - 1) } s)
      pumpVc n vc k (r.2.2.foldl (fun s q => movedOn q.back s) s)
    else s

/-- Whatever waits for a link leaves as far as it can: control flits, then the messages of each VC in order. -/
def pumpTx (n : Nat) (s : State) : State :=
  let s := pumpCtl n (linkAt s n).ctlq.length s
  let k := ((linkAt s n).txq.map fun q => (wireOut q).length / 256 + 1).foldl (· + ·) 0
  [0, 1, 2, 3].foldl (fun s v => pumpVc n v k s) s

/-- A message leaves on link n behind those of its VC, as credits allow. -/
def transmit (n vc : Nat) (back : Option (Nat × Nat × Nat)) (p : Pcl) (s : State) : State :=
  let x := linkAt s n
  pumpTx n (setLink n { x with txq := x.txq ++ [⟨egressVc s n vc, p, 0, back⟩] } s)

/-! ### Across the floor to another attachment -/

/-- Source ID of an attachment (R184). -/
def srcAttach (n : Nat) : Nat := 0x7C000 + n

/-- Whether a source ID is an attachment's. -/
def srcIsLink (src : Nat) : Bool := src / 4096 == 0x7C

/-- A message that carries a PCL message from router r to the attachment of link l. -/
def floorMsg (l k vc src : Nat) (o : Origin) (p : Pcl) : Msg :=
  toward (linkRouter l k) (linkDport l)
    { msgNull with cls := .data, src := src, origin := o, pcl := some p, rtag := vc, payload := p.data }

/-- A message at attachment n leaves on link l: at once on its own link, or across the floor to that link's attachment
(R373). -/
def egress (n l vc : Nat) (back : Option (Nat × Nat × Nat)) (p : Pcl) (s : State) : State :=
  if n = l then transmit l vc back p s
  else
    let o := match back with
      | some (k, v, id) => Origin.transit k v id
      | none => .none
    injectEngine (linkRouter n (p.mtag % 4)) (floorMsg l (p.mtag % 4) vc (srcAttach n) o p) s

/-! ### How requests end -/

/-- CL_LAST names the latest event (R400). -/
def clLast (kind module : Nat) (s : State) : State := setLive pCl 0x818 (BitVec.ofNat 32 (2 ^ 28 * kind + module)) s

/-- A request of this engine ended UNMAPPED or PEER_GONE: counted (R400). -/
def countEnd (c : Code) (module : Nat) (s : State) : State :=
  if c = E.unmapped then clLast 1 module (countUp pCl 0x810 31 16 1 s)
  else if c = E.peerGone then clLast 3 module (countUp pCl 0x814 15 0 1 s)
  else s

/-- An install by its number: 0 of a model, 1 of an adapter, n + 2 reload n. -/
def instAt (s : State) (who : Nat) : Option Inst :=
  if who = 0 then s.weights.inst else if who = 1 then s.weights.adInst else mfind s.weights.reloads (who - 2)

/-- Sets it. -/
def setInst (who : Nat) (x : Option Inst) (s : State) : State :=
  let w := s.weights
  { s with weights :=
    if who = 0 then { w with inst := x }
    else if who = 1 then { w with adInst := x }
    else { w with reloads := match x with
      | some i => mput w.reloads (who - 2) i
      | none => mdel w.reloads (who - 2) } }

/-- A payload transfer from a peer has failed: its unit is read again from host memory (R264). -/
def svcFails (who : Nat) (s : State) : State :=
  match instAt s who with
  | some i => setInst who (some { i with cur := i.cur.map fun u => { u with host := true } }) s
  | none => s

/-- A response of the service port leaves, and is kept among the last 256 of its requester and of the open session, where the
request named that (R517, R520); UPD_PROTOCOL is counted. -/
def spRespond (dst op : Nat) (c : Code) (seq : Nat) (data : List Byte) (s : State) : State :=
  let r : SpResp := ⟨seq, op, c, data⟩
  let w := s.sp.waiting.find? fun w => w.1 == dst && w.2.1 == seq
  let mine := match w with
    | some w => s.sp.session == some w.2.2
    | none => false
  let x := { s.sp with
    cache := mput s.sp.cache dst ((r :: mget [] s.sp.cache dst).take 256)
    sessCache := if mine then (r :: s.sp.sessCache).take 256 else s.sp.sessCache
    waiting := s.sp.waiting.filter fun w => !(w.1 == dst && w.2.1 == seq) }
  let s := if c = E.updProtocol then countUp 0x30 0x804 31 16 1 s else s
  emit (.datagram dst op c seq data) { s with sp := x }

/-- A transfer has failed in part: its first code stands, and n bytes are no longer awaited, or some of a segment will never be written
where their number is not known (R211, R391). -/
def failPart (o : Origin) (n : Nat) (c : Code) (s : State) : State :=
  match o with
  | .desc k id =>
    updCore k (fun x => { x with dmq := x.dmq.map fun d =>
      if d.id = id then { d with left := d.left - n, failed := some (d.failed.getD c) } else d }) s
  | .seg st ch id =>
    if hasSeg s st ch id then
      segLanded st ch id n (updChan st ch (fun x => { x with
        failed := some (x.failed.getD c), segs := x.segs.map fun g => if g.id = id then { g with lost := g.lost || n == 0 } else g }) s)
    else s
  | .spReg dst op seq => spRespond dst op c seq [] s
  | .svc who => svcFails who s
  | _ => s

/-- Response type of a request type (R390). -/
def respOp (op : Nat) : Nat := if op = 1 then 3 else if op = 2 then 4 else if op = 8 then 9 else 7

/-- A response of this engine (R390). -/
def respTo (s : State) (p : Pcl) (status : Code) (data : List Byte) : Pcl :=
  { op := respOp p.op, hops := 0, len := data.length, dest := p.srcM, srcM := ownModule s, tagged := false, status := status,
    mtag := p.mtag, addr := 0, keyId := 0, data := data }

/-- A response leaves attachment n by the local table; one without a way is discarded and counted (R387). -/
def sendResp (n : Nat) (p : Pcl) (s : State) : State :=
  match routeFor s 8 p.dest with
  | .link l => if linkUp s l then egress n l 2 none p s else countUp (pLink n) 0x80C 15 0 1 s
  | _ => countUp (pLink n) 0x80C 15 0 1 s

/-- Takes a request of this engine from the outstanding ones. -/
def takeReq (mtag : Nat) (s : State) : Option (ClReq × State) :=
  match s.clReqs.find? (·.mtag == mtag) with
  | some q => some (q, { s with clReqs := s.clReqs.filter (·.mtag != mtag) })
  | none => none

/-! ### Requests at an attachment -/

/-- A new request of this engine at attachment n, looked up in the local table (R387, R391). -/
def originate (n : Nat) (o : Origin) (loc : Nat) (tagged : Bool) (p : Pcl) (s : State) : State :=
  let size := if p.op = 1 ∨ p.op = 2 then p.len else 0
  match routeFor s 8 p.dest with
  | .link l =>
    if linkUp s l then
      let p := { p with mtag := s.nextTag % 2 ^ 32 }
      egress n l 0 none p { s with
        nextTag := s.nextTag + 1, clReqs := s.clReqs ++ [⟨p.mtag, n, l, p.dest, o, p.op == 1, loc, tagged, size⟩] }
    else countEnd E.peerGone p.dest (failPart o size E.peerGone s)
  | _ => countEnd E.unmapped p.dest (failPart o size E.unmapped s)

/-- Requests that attachment n keeps outstanding. -/
def outstanding (s : State) (n : Nat) : Nat := (s.clReqs.filter (·.home == n)).length

/-- A message that has crossed the floor to attachment n and leaves on its link; one that finds the link down is answered
PEER_GONE, a response is discarded and counted (R387, R396). -/
def transitOut (n vc : Nat) (o : Origin) (p : Pcl) (s : State) : State :=
  let back := match o with
    | .transit k v id => some (k, v, id)
    | _ => none
  if linkUp s n then transmit n vc back p s
  else
    let s := movedOn back s
    if isResp p.op then countUp (pLink n) 0x80C 15 0 1 s
    else if p.srcM = ownModule s then
      match takeReq p.mtag s with
      | some q => countEnd E.peerGone q.1.module (failPart q.1.origin q.1.len E.peerGone q.2)
      | none => s
    else sendResp n (respTo s p E.peerGone []) s

/-! ### Accepted inbound requests (R391, R395) -/

/-- Changes an accepted request. -/
def updIn (id : Nat) (f : ClIn → ClIn) (s : State) : State :=
  { s with clIns := s.clIns.map fun q => if q.id = id then f q else q }

/-- An accepted request has been answered; an engine that leaves is OUT with its last (R395). -/
def inEnded (id : Nat) (s : State) : State :=
  let l := s.clIns.filter (·.id != id)
  { s with clIns := l, leaving := s.leaving && !l.isEmpty }

/-- A WR is answered once every flush READ has been, a RD once every byte has been read (R391). -/
def finishIn (id : Nat) (s : State) : State :=
  match s.clIns.find? (·.id == id) with
  | some q =>
    if q.hdr.op = 1 then
      (if q.flush.isEmpty then sendResp q.link (respTo s q.hdr q.failed []) (inEnded id s) else s)
    else if q.failed ≠ 0 then sendResp q.link (respTo s q.hdr q.failed []) (inEnded id s)
    else if q.left = 0 then
      sendResp q.link (respTo s q.hdr 0 ((List.range q.hdr.len).map (mget 0 q.got))) (inEnded id s)
    else s
  | none => s

/-- Bytes from a local address have been read for a request. -/
def inRead (id addr : Nat) (l : List Byte) (s : State) : State :=
  finishIn id (updIn id (fun q => { q with left := q.left - l.length, got := writeBytes q.got (addr - q.target) l }) s)

/-- The first occurrence of a number leaves a list. -/
def dropOne (k : Nat) : List Nat → List Nat
  | [] => []
  | a :: l => if a = k then l else a :: dropOne k l

/-- A flush READ of a request to a router has been answered. -/
def flushAnswered (id router : Nat) (s : State) : State :=
  finishIn id (updIn id (fun q => { q with flush := dropOne router q.flush }) s)

/-- A floor message of a request has failed: its first code stands (R211, R391). DESIGN CHOICE, log 45. -/
def inFails (id : Nat) (c : Code) (s : State) : State :=
  finishIn id (updIn id (fun q => { q with failed := if q.failed = 0 then c else q.failed }) s)

/-- A reply that has crossed the floor to attachment n: bytes of a RD, or the reply to a flush READ. -/
def attachReply (m : Msg) (s : State) : State :=
  match m.origin with
  | .chain _ id => inRead id m.addr m.payload s
  | .chainFlush n id r => { s with clFlushed := s.clFlushed ++ [(n, id, r)] }
  | _ => s

/-- The message at the front of what has reached attachment n is handled, at most 1,024 requests being outstanding (R391). -/
def attachFront (n : Nat) (s : State) : State :=
  match mget [] s.linkIn n with
  | [] => s
  | m :: l =>
    let t := { s with linkIn := mset [] s.linkIn n l }
    match m.pcl with
    | none => attachReply m t
    | some p =>
      if srcIsLink m.src then transitOut n m.rtag m.origin p t
      else if outstanding s n < 1024 then originate n m.origin m.roff m.rtagged p t
      else s

/-- As many messages as can be are handled, in order. -/
def attachDrain (n : Nat) : Nat → State → State
  | 0, s => s
  | k + 1, s =>
    let t := attachFront n s
    if (mget [] t.linkIn n).length = (mget [] s.linkIn n).length then t else attachDrain n k t

/-- A message reaches the attachment of link n. -/
def attachArrive (n : Nat) (m : Msg) (s : State) : State :=
  let l := mget [] s.linkIn n ++ [m]
  attachDrain n l.length { s with linkIn := mset [] s.linkIn n l }

/-- A request has ended: those that wait at its attachment go. -/
def reqEnded (q : ClReq) (s : State) : State := attachDrain q.home (mget [] s.linkIn q.home).length s

/-- An outstanding request ends with a code. -/
def endReq (mtag : Nat) (c : Code) (s : State) : State :=
  match takeReq mtag s with
  | some q => reqEnded q.1 (countEnd c q.1.module (failPart q.1.origin q.1.len c q.2))
  | none => s

/-! ### From the floor to an attachment (R373) -/

/-- The order in which links serve a field: its home link, the next of the side in ascending order, then the other side. -/
def homeOrder (f : Nat) : List Nat :=
  let side := if f % 10 ≤ 4 then 0 else 4
  let fy := f / 10
  let k := if fy = 0 then 0 else if fy ≤ 3 then 1 else if fy ≤ 6 then 2 else 3
  let at4 := (List.range 4).map fun i => (k + i) % 4
  at4.map (side + ·) ++ at4.map (4 - side + ·)

/-- The attachment that serves a field. -/
def homeLink (s : State) (f : Nat) : Nat :=
  ((homeOrder f).find? fun l => linkUp s l && !isDark s (linkField l)).getD ((homeOrder f).headD 0)

/-- Why a remote access fails before any message leaves the engine (R382, R383). -/
def remoteCheck (s : State) (dest : Nat) (tenant : Option Nat) : Option Code :=
  let known := match routeFor s 8 dest with
    | .link _ => true
    | _ => false
  let bound := match tenant with
    | some t => (mfind s.sec.tenants t).isSome
    | none => false
  if joined s && known && bound then none else some E.unmapped

/-- KEY_ID bound in a tenant slot (R383, R413). -/
def boundKey (s : State) (tenant : Option Nat) : DWord :=
  match tenant with
  | some t => (match mfind s.sec.tenants t with
    | some trs => keyIdOf trs
    | none => 0)
  | none => 0

end Sys2Proof.Machine
end

