-- ==== Sys2Proof/Machine/HostOps.lean ====
section
/-! DEFINITION. The host aperture: translation, requests to host memory, exchange memory and failures (R358 to R363). -/

namespace Sys2Proof.Machine

open Sys2Proof

/-- Page 0x0020 of the host interface. -/
def pHost : Nat := 0x20

/-- Whether a byte at an aperture offset is translated, and where to: exchange memory or not, and the address (R358). -/
def aperByte (s : State) (o : Nat) : Option (Bool × Nat) :=
  let n := o / 2 ^ 40
  let r := o % 2 ^ 40
  let size := live s pHost (0x48 + 16 * n)
  if n < 16 ∧ bit size 31 ∧ r < 2 ^ 20 * bits size 19 0 then
    some (bit size 30, 2 ^ 32 * bits (live s pHost (0x44 + 16 * n)) 19 0 + 2 ^ 20 * bits (live s pHost (0x40 + 16 * n)) 31 20 + r)
  else none

/-- Where an access goes: none where any byte of it is not translated (R358). DESIGN CHOICE, log 44. -/
def aperRange (s : State) (o len : Nat) : Option (Bool × Nat) :=
  match aperByte s o, aperByte s (o + (len - 1)) with
  | some a, some _ => if o / 2 ^ 40 = (o + (len - 1)) / 2 ^ 40 then some a else none
  | _, _ => none

/-- A failure of a host access is counted, latched and recorded (R362, R369). REQ: 1 poll, 2 gyle record, 3 core DMA, 4 image,
5 prompt. -/
def hostFail (c : Code) (req off : Nat) (s : State) : State :=
  let s := if c = E.hostUnmapped then countUp pHost 0x800 31 16 1 s else countUp pHost 0x800 15 0 1 s
  recordErrAny pHost c { s with host := { s.host with lastFail := (off, req) } }

/-- Whether the link is up with Cache_Enable 1 (R364). -/
def hostReady (s : State) : Bool := s.host.up && s.host.cacheEn

/-- Bytes of exchange memory. -/
def exchRead (s : State) (a : Nat) : Nat → List Byte
  | 0 => []
  | n + 1 => mget 0 s.exch a :: exchRead s (a + 1) n

/-- Writes bytes of exchange memory. -/
def exchWrite (a : Nat) (l : List Byte) (s : State) : State := { s with exch := writeBytes s.exch a l }

/-- A byte of host memory as the reads of a command returned it. -/
def hostByte (mem : HostMem) (a : Nat) : Option Byte :=
  firstSomeByte (mem.map fun p => if p.1 ≤ a ∧ a < p.1 + p.2.length then p.2[a - p.1]? else none)
where
  /-- The first piece that holds it. -/
  firstSomeByte : List (Option Byte) → Option Byte
    | [] => none
    | some b :: _ => some b
    | none :: l => firstSomeByte l

/-- Bytes of host memory, where every one of them was returned. -/
def hostBytes (mem : HostMem) (a : Nat) : Nat → Option (List Byte)
  | 0 => some []
  | n + 1 => match hostByte mem a, hostBytes mem (a + 1) n with
    | some b, some l => some (b :: l)
    | _, _ => none

/-! ### Requests (R360 to R362) -/

/-- Changes what the host interface holds. -/
def updHost (f : HostIf → HostIf) (s : State) : State := { s with host := f s.host }

/-- The lines of a range of host memory: for each, the offset in the range of its first byte, and how many bytes it takes (R360). -/
def linesOfRange (a len : Nat) : List (Nat × Nat) := piecesOf 64 64 a len

/-- Byte enables of a write of part of a line. -/
def byteEnables (addr len : Nat) : BitVec 64 := BitVec.ofNat 64 ((2 ^ len - 1) * 2 ^ (addr % 64))

/-- A request goes to the host: RdCurr, ItoMWr of a whole line, or WOWrInv of part of one (R360). It reaches the host while the link
is up. -/
def sendLine (q : HostReq) (s : State) : State :=
  if !hostReady s then s
  else if !q.write then emit (.rdCurr q.id (q.addr / 64)) s
  else if q.len = 64 then emit (.itoMWr q.id (q.addr / 64) q.data) s
  else emit (.woWrInv q.id (q.addr / 64) (byteEnables q.addr q.len) q.data) s

/-- Requests that wait go out in order, 1,024 being outstanding at most (R362). -/
def issueLines : List HostReq → State → State
  | [], s => s
  | q :: l, s =>
    if s.host.reqs.length < 1024 then
      issueLines l (sendLine q (updHost (fun h => { h with reqs := h.reqs ++ [q], waiting := l }) s))
    else s

/-- An access to host memory begins: one request for each line (R360, R362). -/
def hostSend (w : HostWho) (write : Bool) (off addr len : Nat) (data : List Byte) (s : State) : State :=
  let id := s.host.nextReq
  let ls := linesOfRange addr len
  let qs := (List.range ls.length).zip ls |>.map fun e =>
    ⟨id + 1 + e.1, write, id, off + e.2.1, addr + e.2.1, e.2.2, (data.drop e.2.1).take e.2.2⟩
  let s := updHost (fun h => { h with
    nextReq := id + 1 + ls.length, jobs := h.jobs ++ [⟨id, w, [], ls.length, false⟩], waiting := h.waiting ++ qs }) s
  issueLines s.host.waiting s

/-- Takes an outstanding request; one that waits goes out in its place. -/
def takeHostReq (id : Nat) (s : State) : Option (HostReq × State) :=
  match s.host.reqs.find? (·.id == id) with
  | some q =>
    let s := updHost (fun h => { h with reqs := h.reqs.filter (·.id != id) }) s
    some (q, issueLines s.host.waiting s)
  | none => none

/-- A request of an access is done, with what it has read, or has failed: the access, once it was the last. -/
def lineDone (q : HostReq) (ok : Bool) (l : List Byte) (s : State) : Option HostJob × State :=
  match s.host.jobs.find? (·.id == q.job) with
  | some j =>
    let j := { j with got := if q.write then j.got else j.got ++ [(q.id, l)], left := j.left - 1, failed := j.failed || !ok }
    if j.left = 0 then (some j, updHost (fun h => { h with jobs := h.jobs.filter (·.id != j.id) }) s)
    else (none, updHost (fun h => { h with jobs := h.jobs.map fun k => if k.id = j.id then j else k }) s)
  | none => (none, s)

/-- What an access has read, in the order of its lines. -/
def jobBytes (j : HostJob) : List Byte := (List.range j.got.length).flatMap fun k => (mfind j.got (j.id + 1 + k)).getD []

/-- The requests that a read of the engine's own tables, images or prompts makes, each of which its command has answered: one that
brought nothing fails (R360, R362). DESIGN CHOICE, log 44. -/
def askLines (req off a : Nat) (mem : HostMem) (ls : List (Nat × Nat)) (s : State) : State :=
  ls.foldl (fun s e =>
    let id := s.host.nextReq
    let s := emit (.rdCurr id ((a + e.1) / 64)) (updHost (fun h => { h with nextReq := id + 1 }) s)
    if (hostBytes mem (a + e.1) e.2).isSome then s else hostFail E.hostAccessFail req (off + e.1) s) s

/-- A read through the aperture that the engine's own tables, images and prompts need (R358, R360 to R362); `req` as in
HI_LAST_FAIL. -/
def readHost (req o len : Nat) (mem : HostMem) (s : State) : Except Code (List Byte) × State :=
  if len = 0 then (.ok [], s)
  else match aperRange s o len with
    | none => (.error E.hostUnmapped, hostFail E.hostUnmapped req o s)
    | some (true, a) => (.ok (exchRead s a len), s)
    | some (false, a) =>
      if hostReady s then
        let s := askLines req o a mem (linesOfRange a len) s
        match hostBytes mem a len with
        | some l => (.ok l, s)
        | none => (.error E.hostAccessFail, s)
      else (.error E.hostAccessFail, hostFail E.hostAccessFail req o s)

end Sys2Proof.Machine
end

