-- ==== Sys2Proof/Machine/Flags.lean ====
section
/-! DEFINITION. Arithmetic on lanes and stored elements: binary32 under R112 (there are no flags), the narrow formats and
scales of R159 to R164, narrowing and widening (R170 to R175), the products of MVD, MMA and MMAX, and TOPK. Every operation
computes exactly and rounds where the manual rounds. -/

namespace Sys2Proof.Machine

open Sys2Proof

/-! ### Exact values -/

/-- An exact value: NaN, an infinity, or (−1)^neg × m × 2^e. -/
inductive FV where
  | nan
  | inf (neg : Bool)
  | fin (neg : Bool) (m : Nat) (e : Int)
  deriving DecidableEq, Repr

/-- The value of a binary32 lane; subnormals are zeros of the same sign (R112). -/
def ofF32 (w : Word) : FV :=
  let s := bit w 31
  let x := bits w 30 23
  let f := bits w 22 0
  if x = 255 then (if f = 0 then .inf s else .nan)
  else if x = 0 then .fin s 0 0
  else .fin s (f + 2 ^ 23) ((x : Int) - 150)

/-- The value of a signed integer. -/
def ofInt (v : Int) : FV := .fin (decide (v < 0)) v.natAbs 0

/-- 2 to the power of a difference, 0 and below giving 1. -/
def pow2 (e : Int) : Nat := 2 ^ e.toNat

/-- `m ≠ 0` rounded to `p` significant bits, to nearest with ties to even: a value `q × 2^k` with `2^(p-1) ≤ q < 2^p`. -/
def roundSig (m p : Nat) : Nat × Int :=
  let l := m.log2 + 1
  if l ≤ p then (m * 2 ^ (p - l), -((p - l : Nat) : Int))
  else
    let k := l - p
    let q := m / 2 ^ k
    let r := m % 2 ^ k
    let q' := if 2 ^ k < 2 * r ∨ (2 * r = 2 ^ k ∧ q % 2 = 1) then q + 1 else q
    if q' = 2 ^ p then (2 ^ (p - 1), (k : Int) + 1) else (q', (k : Int))

/-- The NaN result (R112). -/
def f32NaN : Word := 0x7FC00000
/-- A zero with a sign. -/
def f32Zero (neg : Bool) : Word := BitVec.ofNat 32 (2 ^ 31 * b2n neg)
/-- An infinity. -/
def f32Inf (neg : Bool) : Word := BitVec.ofNat 32 (2 ^ 31 * b2n neg + 0x7F800000)

/-- An exact value rounded once to binary32 (R112). -/
def toF32 : FV → Word
  | .nan => f32NaN
  | .inf s => f32Inf s
  | .fin s m e =>
    if m = 0 then f32Zero s
    else
      let r := roundSig m 24
      let x := e + r.2 + 23
      if x < -126 then f32Zero s
      else if 127 < x then f32Inf s
      else BitVec.ofNat 32 (2 ^ 31 * b2n s + 2 ^ 23 * (x + 127).toNat + (r.1 - 2 ^ 23))

/-- The negated value. -/
def fvNeg : FV → FV
  | .nan => .nan
  | .inf s => .inf (!s)
  | .fin s m e => .fin (!s) m e

/-- A magnitude with its sign as an integer. -/
def signed (s : Bool) (m : Nat) : Int := if s then -(m : Int) else m

/-- The exact sum; an exact zero from operands that are not both negative zeros is +0. -/
def fvAdd : FV → FV → FV
  | .nan, _ => .nan
  | _, .nan => .nan
  | .inf s, .inf t => if s = t then .inf s else .nan
  | .inf s, _ => .inf s
  | _, .inf t => .inf t
  | .fin s m e, .fin t n f =>
    if m = 0 ∧ n = 0 then .fin (s && t) 0 0
    else
      let k := Min.min e f
      let v := signed s (m * pow2 (e - k)) + signed t (n * pow2 (f - k))
      .fin (decide (v < 0)) v.natAbs k

/-- The exact product. -/
def fvMul : FV → FV → FV
  | .nan, _ => .nan
  | _, .nan => .nan
  | .inf s, .inf t => .inf (s != t)
  | .inf s, .fin t n _ => if n = 0 then .nan else .inf (s != t)
  | .fin s m _, .inf t => if m = 0 then .nan else .inf (s != t)
  | .fin s m e, .fin t n f => .fin (s != t) (m * n) (e + f)

/-- Whether a value is NaN. -/
def fvNaN : FV → Bool
  | .nan => true
  | _ => false

/-- Strictly below, on values that are not NaN; the zeros are equal. -/
def fvLt : FV → FV → Bool
  | .nan, _ => false
  | _, .nan => false
  | .inf s, .inf t => s && !t
  | .inf s, .fin _ _ _ => s
  | .fin _ _ _, .inf t => !t
  | .fin s m e, .fin t n f =>
    let k := Min.min e f
    decide (signed s (m * pow2 (e - k)) < signed t (n * pow2 (f - k)))

/-! ### Lane operations (R118) -/

/-- The larger of two lanes: NaN where either is NaN, −0 below +0. -/
def f32Max (a b : Word) : Word :=
  let x := ofF32 a
  let y := ofF32 b
  if fvNaN x || fvNaN y then f32NaN
  else if fvLt x y then toF32 y
  else if fvLt y x then toF32 x
  else match x, y with
    | .fin s m e, .fin t _ _ => toF32 (.fin (s && t) m e)
    | _, _ => toF32 x

/-- The smaller of two lanes. -/
def f32Min (a b : Word) : Word :=
  let x := ofF32 a
  let y := ofF32 b
  if fvNaN x || fvNaN y then f32NaN
  else if fvLt y x then toF32 y
  else if fvLt x y then toF32 x
  else match x, y with
    | .fin s m e, .fin t _ _ => toF32 (.fin (s || t) m e)
    | _, _ => toF32 x

/-- The sum of two lanes. -/
def f32Add (a b : Word) : Word := toF32 (fvAdd (ofF32 a) (ofF32 b))
/-- The difference of two lanes. -/
def f32Sub (a b : Word) : Word := toF32 (fvAdd (ofF32 a) (fvNeg (ofF32 b)))
/-- The product of two lanes. -/
def f32Mul (a b : Word) : Word := toF32 (fvMul (ofF32 a) (ofF32 b))
/-- a × b + c with one rounding. -/
def f32Fma (a b c : Word) : Word := toF32 (fvAdd (fvMul (ofF32 a) (ofF32 b)) (ofF32 c))

/-- Whether a lane lies within 2 units in the last place of the positive value n × 2^e, `n` itself known to 2^-30. -/
def nearUlp (g : Word) (n : Nat) (e : Int) : Bool :=
  match ofF32 g with
  | .fin false m f =>
    if m = 0 then false
    else
      let u := e + (n.log2 : Int) - 23 - 14
      let k := Min.min u (Min.min e f)
      let d := ((m * pow2 (f - k) : Nat) : Int) - ((n * pow2 (e - k) : Nat) : Int)
      decide (d.natAbs ≤ (2 ^ 15 + 1) * pow2 (u - k))
  | _ => false

/-- The engine's own answer where it lies within the bound of R118, otherwise the rounded value. PRESUMED, log 14. -/
def boundedGuess (g : Word) (n : Nat) (e : Int) : Word := if nearUlp g n e then g else toF32 (.fin false n e)

/-- 2^(2^-i) × 2^64 for i = 1 to 40. -/
def exp2Table : List Nat :=
  [
    0x16a09e667f3bcc908, 0x1306fe0a31b7152de, 0x1172b83c7d517adcd, 0x10b5586cf9890f629, 0x1059b0d31585743ae,
    0x102c9a3e778060ee6, 0x10163da9fb33356d8, 0x100b1afa5abcbed61, 0x10058c86da1c09ea1, 0x1002c605e2e8cec50,
    0x100162f3904051fa1, 0x1000b175effdc76ba, 0x100058ba01fb9f96d, 0x10002c5cc37da9491, 0x1000162e525ee0547,
    0x10000b17255775c04, 0x1000058b91b5bc9ae, 0x100002c5c89d5ec6c, 0x10000162e43f4f831, 0x100000b1721bcfc99] ++
  [
    0x10000058b90cf1e6d, 0x1000002c5c863b73f, 0x100000162e430e5a1, 0x1000000b172183551, 0x100000058b90c0b48,
    0x10000002c5c8601cc, 0x1000000162e42fff0, 0x10000000b17217fba, 0x1000000058b90bfcd, 0x100000002c5c85fe3,
    0x10000000162e42ff0, 0x100000000b17217f8, 0x10000000058b90bfb, 0x1000000002c5c85fd, 0x100000000162e42fe,
    0x1000000000b17217f, 0x100000000058b90bf, 0x10000000002c5c85f, 0x1000000000162e42f, 0x10000000000b17217]

/-- 2^(f / 2^40) × 2^64 for f below 2^40, from the bits of f. -/
def exp2Frac (f : Nat) : Nat :=
  (exp2Table.zipIdx 1).foldl (fun acc p => if f / 2 ^ (40 - p.2) % 2 = 1 then acc * p.1 / 2 ^ 64 else acc) (2 ^ 64)

/-- 2 to the power of a lane (R118). PRESUMED, log 14. -/
def f32Exp2 (a : Word) : Word :=
  match ofF32 a with
  | .nan => f32NaN
  | .inf true => f32Zero false
  | .inf false => f32Inf false
  | .fin s m e =>
    let x : Int := if 0 ≤ e + 40 then signed s (m * pow2 (e + 40)) else signed s m / ((2 ^ (-(e + 40)).toNat : Nat) : Int)
    if fvLt (ofInt 128) (.fin s m e) then f32Inf false
    else if fvLt (.fin s m e) (ofInt (-126)) then f32Zero false
    else boundedGuess (Config.exp2Guess a) (exp2Frac (x % 2 ^ 40).toNat) (x / 2 ^ 40 - 64)

/-- The integer square root of a number below 2^128. -/
def isqrt (n : Nat) : Nat := (List.range 64).foldr (fun i r => if (r + 2 ^ i) * (r + 2 ^ i) ≤ n then r + 2 ^ i else r) 0

/-- The reciprocal square root of a lane (R118). PRESUMED, log 14. -/
def f32Rsq (a : Word) : Word :=
  match ofF32 a with
  | .nan => f32NaN
  | .inf true => f32NaN
  | .inf false => f32Zero false
  | .fin s m e =>
    if m = 0 then f32Inf s
    else if s then f32NaN
    else
      let m' := if e % 2 = 0 then m else 2 * m
      let e' := if e % 2 = 0 then e else e - 1
      boundedGuess (Config.rsqGuess a) (isqrt (2 ^ 120 / m')) (-60 - e' / 2)

/-- Integer lanes: the larger and the smaller, signed. -/
def i32Max (a b : Word) : Word := if a.slt b then b else a
/-- The smaller of two signed lanes. -/
def i32Min (a b : Word) : Word := if b.slt a then b else a

/-! ### Stored formats (R159 to R164) -/

/-- The format codes of R123. -/
inductive Fmt where
  | w4i | w4f | w3i | w2t | a8f | a8i | a4i | i32 | f32
  deriving DecidableEq, Repr

/-- The format of a code, none where it is reserved. -/
def fmtOf (c : Nat) : Option Fmt :=
  match c with
  | 0 => some .w4i | 1 => some .w4f | 2 => some .w3i | 3 => some .w2t | 4 => some .a8f | 5 => some .a8i | 6 => some .a4i
  | 8 => some .i32 | 9 => some .f32 | _ => none

/-- Bits of an element (R160). -/
def fmtBits : Fmt → Nat
  | .w4i | .w4f | .a4i => 4
  | .w3i => 3
  | .w2t => 2
  | .a8f | .a8i => 8
  | .i32 | .f32 => 32

/-- A wide format. -/
def fmtWide : Fmt → Bool
  | .i32 | .f32 => true
  | _ => false

/-- Bytes of an operand of n elements (R123). -/
def fmtBytes (f : Fmt) (n : Nat) : Nat := if fmtWide f then 4 * n else n * fmtBits f / 8 + n / 32

/-- Base exponent b of R167: a narrow element's value is its integer × 2^b. -/
def fmtExp : Fmt → Int
  | .w4f => -1
  | .a8f => -9
  | _ => 0

/-- The integer of a narrow code, 0 for an A8F NaN (R161, R162, R169). -/
def codeInt (f : Fmt) (c : Nat) : Int :=
  match f with
  | .w4f =>
    let m := if c / 2 % 4 = 0 then c % 2 else (2 + c % 2) * 2 ^ (c / 2 % 4 - 1)
    signed (c / 8 % 2 == 1) m
  | .a8f =>
    let x := c / 8 % 16
    let m := c % 8
    if x = 15 ∧ m = 7 then 0 else signed (c / 128 % 2 == 1) (if x = 0 then m else (8 + m) * 2 ^ (x - 1))
  | _ => sext (fmtBits f) c

/-- An A8F NaN code. -/
def codeNaN (f : Fmt) (c : Nat) : Bool := f == .a8f && c % 128 == 127

/-- Element i of packed bytes read as one little-endian integer (R160). -/
def elem (f : Fmt) (packed i : Nat) : Nat := packed / 2 ^ (fmtBits f * i) % 2 ^ fmtBits f

/-- The code of the largest magnitude that narrowing produces. -/
def fmtTop : Fmt → Nat
  | .w4i | .a4i => 7
  | .w4f => 7
  | .w3i => 3
  | .w2t => 1
  | .a8f => 0x7E
  | _ => 127

/-- f(s) as an integer × 2^e (R163). -/
def scaleInt (s : Nat) : Nat := [8388608, 9975792, 11863283, 14107901].getD (s % 4) 0
/-- The exponent of f(s). -/
def scaleExp (s : Nat) : Int := (s / 4 : Nat) - 32 - 23
/-- f(s). -/
def scaleV (s : Nat) : FV := .fin false (scaleInt s) (scaleExp s)

/-- The value v(q) × f(s) of a narrow code. -/
def codeV (f : Fmt) (c : Nat) : FV :=
  if codeNaN f c then .nan else .fin (decide (codeInt f c < 0)) (codeInt f c).natAbs (fmtExp f)

/-! ### Bytes -/

/-- `n` bytes of a list from an index. -/
def slice (l : List Byte) (i n : Nat) : List Byte := (l.drop i).take n
/-- Byte i of a list as a number. -/
def byteAt (l : List Byte) (i : Nat) : Nat := (l.getD i 0).toNat
/-- The little-endian 32-bit word at byte i. -/
def wordAt (l : List Byte) (i : Nat) : Word := BitVec.ofNat 32 (leNat (slice l i 4))
/-- The bytes of lanes, each little-endian. -/
def laneBytes (l : List Word) : List Byte := l.flatMap fun w => leBytes 4 w.toNat

/-! ### Narrowing and widening (R170 to R175) -/

/-- Whether the magnitude m × 2^e is at most (integer top) × 2^b × f(s). -/
def fitsScale (f : Fmt) (m : Nat) (e : Int) (s : Nat) : Bool :=
  let e' := fmtExp f + scaleExp s
  let k := Min.min e e'
  decide (m * pow2 (e - k) ≤ (codeInt f (fmtTop f)).natAbs * scaleInt s * pow2 (e' - k))

/-- The larger magnitude of two values, NaN counting as nothing. -/
def magMax (a b : FV) : FV :=
  match a, b with
  | a, .nan => a
  | .nan, .inf _ => .inf false
  | .nan, .fin _ m e => .fin false m e
  | a, .inf _ => (fun _ => .inf false) a
  | .inf _, _ => .inf false
  | .fin _ m e, .fin _ n f => if fvLt (.fin false m e) (.fin false n f) then .fin false n f else .fin false m e

/-- Step 3 of R170: the block scale. -/
def blockScale (f : Fmt) (u : List FV) : Nat :=
  match u.foldl magMax .nan with
  | .nan => 0
  | .inf _ => 255
  | .fin _ m e => if m = 0 then 0 else ((List.range 256).find? (fitsScale f m e)).getD 255

/-- Codes of positive magnitude that a magnitude reaches: the nearest value of the format, ties to the even code, capped at
the largest (step 4 of R170). -/
def roundMag (f : Fmt) (m : Nat) (e : Int) (s : Nat) : Nat :=
  let e' := fmtExp f + scaleExp s
  let k := Min.min e e'
  let u := 2 * (m * pow2 (e - k))
  let d := scaleInt s * pow2 (e' - k)
  ((List.range (fmtTop f)).filter fun c =>
    let mid := ((codeInt f c).natAbs + (codeInt f (c + 1)).natAbs) * d
    decide (mid < u) || (decide (mid = u) && (c + 1) % 2 == 0)).length

/-- The code of a magnitude code with a sign. -/
def signCode (f : Fmt) (neg : Bool) (c : Nat) : Nat :=
  if !neg || c = 0 then c
  else match f with
    | .w4f => c + 8
    | .a8f => c + 128
    | _ => 2 ^ fmtBits f - c

/-- Step 4 of R170: the code of u / f(s). -/
def narrowCode (f : Fmt) (s : Nat) : FV → Nat
  | .nan => if f = .a8f then 0x7F else 0
  | .inf neg => signCode f neg (fmtTop f)
  | .fin neg m e => signCode f neg (roundMag f m e s)

/-- Packs codes of a block: one little-endian integer (R160). -/
def packCodes (f : Fmt) (l : List Nat) : Nat := l.foldr (fun c acc => c + 2 ^ fmtBits f * acc) 0

/-- The blocks of 32 elements of a list. -/
def blocks {α : Type} (n : Nat) (l : List α) : List (List α) := (List.range (n / 32)).map fun b => (l.drop (32 * b)).take 32

/-- Exact values narrowed: packed codes, then the block scales. -/
def narrowAll (f : Fmt) (n : Nat) (u : List FV) : List Byte :=
  let bl := (blocks n u).map fun b => (blockScale f b, b)
  (bl.flatMap fun p => leBytes (4 * fmtBits f) (packCodes f (p.2.map (narrowCode f p.1))))
    ++ bl.map fun p => BitVec.ofNat 8 p.1

/-- The exact values of an operand of n elements, block scales applied (R164). -/
def elemsOf (f : Fmt) (n : Nat) (data : List Byte) : List FV :=
  match f with
  | .f32 => (List.range n).map fun i => ofF32 (wordAt data (4 * i))
  | .i32 => (List.range n).map fun i => ofInt (wordAt data (4 * i)).toInt
  | _ =>
    let body := n * fmtBits f / 8
    (List.range (n / 32)).flatMap fun b =>
      let packed := leNat (slice data (4 * fmtBits f * b) (4 * fmtBits f))
      (List.range 32).map fun i => fvMul (codeV f (elem f packed i)) (scaleV (byteAt data (body + b)))

/-- An exact value to the nearest 32-bit integer, ties to even, saturating; NaN gives 0 (R171, R172). -/
def toI32 : FV → Word
  | .nan => 0
  | .inf s => if s then 0x80000000 else 0x7FFFFFFF
  | .fin s m e =>
    let q :=
      if 0 ≤ e then m * pow2 e
      else
        let d := pow2 (-e)
        let q := m / d
        let r := m % d
        if d < 2 * r ∨ (2 * r = d ∧ q % 2 = 1) then q + 1 else q
    if s then (if 2 ^ 31 ≤ q then 0x80000000 else BitVec.ofInt 32 (-(q : Int)))
    else if 2 ^ 31 ≤ q then 0x7FFFFFFF else BitVec.ofNat 32 q

/-- CVT (R170 to R172). -/
def cvtBytes (sf df : Fmt) (n : Nat) (data : List Byte) (sigma : Word) : List Byte :=
  let u := (elemsOf sf n data).map fun x => fvMul x (ofF32 sigma)
  match df with
  | .f32 => laneBytes (u.map toF32)
  | .i32 => laneBytes (u.map toI32)
  | _ => narrowAll df n u

/-- An exact value in CF16 (R174). -/
def toCf16 : FV → Nat
  | .nan => 0
  | .inf _ => 0
  | .fin s m e =>
    if m = 0 then 0
    else
      let r := roundSig m 8
      let x := e + r.2 + 7
      let sg := 2 ^ 15 * b2n s
      if x < -126 then sg
      else if 127 < x then sg + 0x7F7F
      else sg + 2 ^ 7 * (x + 127).toNat + (r.1 - 2 ^ 7)

/-- QCF (R175): the narrow operand and the new residuals. -/
def qcfBytes (sf df : Fmt) (n : Nat) (data : List Byte) (sigma : Word) (resid : List Byte) (rz : Bool) :
    List Byte × List Byte :=
  let x := (elemsOf sf n data).map fun x => fvMul x (ofF32 sigma)
  let u := x.zipIdx.map fun p =>
    if rz then p.1 else fvAdd p.1 (ofF32 (BitVec.ofNat 32 (2 ^ 16 * leNat (slice resid (2 * p.2) 2))))
  let out := (blocks n u).flatMap fun b =>
    let s := blockScale df b
    b.map fun v =>
      match v with
      | .fin _ _ _ => toCf16 (fvAdd v (fvNeg (fvMul (codeV df (narrowCode df s v)) (scaleV s))))
      | _ => 0
  (narrowAll df n u, out.flatMap (leBytes 2))

/-! ### MVD (R120, R141, R142, R169) -/

/-- The exact product sum of two runs of integers. -/
def dotInt (a b : List Int) : Int := (a.zip b).foldl (fun acc p => acc + p.1 * p.2) 0

/-- Bytes of a row of 32 elements. -/
def rowBytes (f : Fmt) : Nat := 4 * fmtBits f
/-- Bytes of an MVD group (R120). -/
def groupBytes (f : Fmt) : Nat := 64 * rowBytes f + 64

/-- The 32 codes of a row. -/
def rowCodes (f : Fmt) (row : List Byte) : List Nat := (List.range 32).map (elem f (leNat row))

/-- The value of an integer × 2^b × f(s) × f(t), rounded once. -/
def scaled (v : Int) (b : Int) (s t : Nat) : Word :=
  toF32 (fvMul (fvMul (.fin (decide (v < 0)) v.natAbs b) (scaleV s)) (scaleV t))

/-- One group added to the lanes. -/
def mvdGroup (wf af : Fmt) (w : List Byte) (act : List Byte) (asc : Nat) (lanes : List Word) : List Word :=
  let codes := rowCodes af act
  let a := codes.map (codeInt af)
  let nan := codes.any (codeNaN af)
  lanes.zipIdx.map fun p =>
    let row := (rowCodes wf (slice w (rowBytes wf * p.2) (rowBytes wf))).map (codeInt wf)
    let v := if nan then f32NaN
      else scaled (dotInt row a) (fmtExp wf + fmtExp af) (byteAt w (64 * rowBytes wf + p.2)) asc
    f32Add p.1 v

/-- The 64 lanes of an MVD of K elements. -/
def mvdLanes (wf af : Fmt) (k : Nat) (w act : List Byte) (start : List Word) : List Word :=
  (List.range (k / 32)).foldl (fun lanes g =>
    mvdGroup wf af (slice w (groupBytes wf * g) (groupBytes wf)) (slice act (32 * g) 32) (byteAt act (k + g)) lanes) start

/-! ### The array (R145 to R151, R167 to R169) -/

/-- A tile of 32 rows: integers, rows that hold a NaN, and scale bytes. -/
structure Tile where
  rows : List (List Int)
  nans : List Bool
  scales : List Nat
  deriving DecidableEq, Repr

/-- The tile at byte `off`: 32 packed rows of 32 elements, then 32 scales (R121). -/
def tileAt (f : Fmt) (data : List Byte) (off : Nat) : Tile :=
  let rows := (List.range 32).map fun r => rowCodes f (slice data (off + rowBytes f * r) (rowBytes f))
  { rows := rows.map fun r => r.map (codeInt f), nans := rows.map fun r => r.any (codeNaN f),
    scales := (List.range 32).map fun r => byteAt data (off + 32 * rowBytes f + r) }

/-- Products of every token row with every weight row. -/
def tileDot (a w : List (List Int)) : List (List Int) := a.map fun t => w.map (dotInt t)

/-- An output tile: each exact sum scaled, rounded once and, with ACC, added to the old element (R147, R169). -/
def tileOut (sums : List (List Int)) (b : Int) (w a : Tile) (nanW : Bool) (old : Option (List Byte)) : List Byte :=
  sums.zipIdx.flatMap fun t => t.1.zipIdx.flatMap fun r =>
    let v := if a.nans.getD t.2 false || (nanW && w.nans.getD r.2 false) then f32NaN
      else scaled r.1 b (w.scales.getD r.2 0) (a.scales.getD t.2 0)
    let v := match old with
      | some o => f32Add (wordAt o (4 * (32 * t.2 + r.2))) v
      | none => v
    leBytes 4 v.toNat

/-- The 4-bit form of a weight format in a tile (R146). -/
def tileFmt (f : Fmt) : Fmt := if f = .w4f then .w4f else .w4i

/-- Element-wise on two tables of sums. -/
def sumsWith (g : Int → Int → Int) (x y : List (List Int)) : List (List Int) :=
  List.zipWith (fun a b => List.zipWith g a b) x y

/-! ### Digits, passes and checksums (R145, R150 to R152, R167, R168) -/

/-- Whether an activation format is presented as two digits. -/
def twoDigit (f : Fmt) : Bool := f == .a8i || f == .a8f
/-- The radix of the high digit. -/
def digitRadix (f : Fmt) : Int := if f = .a8f then 128 else 16
/-- The high digit of an element's integer, with its shift. -/
def digitHi (f : Fmt) (v : Int) : Int := if f = .a8f then (if 1024 ≤ v.natAbs then v / 128 else 0) else v / 16
/-- The low digit of an element's integer, with its shift. -/
def digitLo (f : Fmt) (v : Int) : Int := if f = .a8f then (if 1024 ≤ v.natAbs then 0 else v) else v % 16
/-- The digits of a tile's rows. -/
def digits (g : Int → Int) (rows : List (List Int)) : List (List Int) := rows.map fun r => r.map g

/-- What a pass multiplies: digits of the 32 activation rows, and of the 32 weight rows. -/
abbrev PassRows := List (List Int) × List (List Int)

/-- The passes of an MMA. -/
def mmaPasses (af : Fmt) (a w : List (List Int)) : List PassRows :=
  if twoDigit af then [(digits (digitHi af) a, w), (digits (digitLo af) a, w)] else [(a, w)]

/-- The passes of MMAX mode 0b00: high × high, high × low, low × high, low × low, the weight's digit first (R150). -/
def mmax8Passes (f : Fmt) (a w : List (List Int)) : List PassRows :=
  [(digits (digitHi f) a, digits (digitHi f) w), (digits (digitLo f) a, digits (digitHi f) w),
   (digits (digitHi f) a, digits (digitLo f) w), (digits (digitLo f) a, digits (digitLo f) w)]

/-- The passes of MMAX mode 0b01 (R151). -/
def complexPasses (ar ai wr wi : List (List Int)) : List PassRows :=
  [(ar, wr), (ai, wi), (sumsWith (· + ·) ar ai, sumsWith (· + ·) wr wi)]

/-- The exact sums of an MMA from its pass sums (R168). -/
def mmaCombine (af : Fmt) (p : List (List (List Int))) : List (List Int) :=
  if twoDigit af then sumsWith (fun h l => digitRadix af * h + l) (p.getD 0 []) (p.getD 1 []) else p.getD 0 []

/-- The exact sums of MMAX mode 0b00 from its pass sums (R150, R168). -/
def mmax8Combine (f : Fmt) (p : List (List (List Int))) : List (List Int) :=
  sumsWith (fun h l => digitRadix f * h + l)
    (sumsWith (fun h l => digitRadix f * h + l) (p.getD 0 []) (p.getD 1 []))
    (sumsWith (fun h l => digitRadix f * h + l) (p.getD 2 []) (p.getD 3 []))

/-- The checksum of a tile's digits: the sum of its rows, column by column (R152). -/
def checkRow (rows : List (List Int)) : List Int := rows.foldl (List.zipWith (· + ·)) (List.replicate 32 0)

/-- The sums in the 33 × 33 cells after a pass, row 32 fed by the activation checksum and column 32 by the weight checksum
(R152). -/
def passCells (p : PassRows) : List (List Int) := tileDot (p.1 ++ [checkRow p.1]) (p.2 ++ [checkRow p.2])

/-- The cells with errors in some of them. -/
def cellsWith (errs : List CellError) (m : List (List Int)) : List (List Int) :=
  m.zipIdx.map fun r => r.1.zipIdx.map fun v =>
    v.1 + ((errs.filter fun e => e.row.val == r.2 && e.col.val == v.2).map (·.delta)).sum

/-- The three comparisons at the end of a pass (R152). -/
def cellsAgree (m : List (List Int)) : Bool :=
  let last := m.getD 32 []
  let corner := last.getD 32 0
  ((m.take 32).all fun r => r.getD 32 0 == (r.take 32).sum)
    && ((List.range 32).all fun r => last.getD r 0 == ((m.take 32).map fun row => row.getD r 0).sum)
    && corner == (last.take 32).sum && corner == ((m.take 32).map fun row => row.getD 32 0).sum

/-- The pass sums of the 32 × 32 output elements. -/
def passSums (m : List (List Int)) : List (List Int) := (m.take 32).map fun r => r.take 32

/-! ### TOPK (R126) -/

/-- Item a ranks before item b: larger value, NaN lowest, equal values by ascending index. DEDUCED, log 28. -/
def topkBefore (a b : Word × Word) : Bool :=
  let x := ofF32 a.1
  let y := ofF32 b.1
  if fvNaN x && fvNaN y then decide (a.2.toNat < b.2.toNat)
  else if fvNaN x then false
  else if fvNaN y then true
  else if fvLt y x then true
  else if fvLt x y then false
  else decide (a.2.toNat < b.2.toNat)

/-- Inserts an item into a ranked list, keeping at most `k`. DEDUCED, log 28. -/
def topkInsert (k : Nat) (a : Word × Word) (l : List (Word × Word)) : List (Word × Word) :=
  ((l.takeWhile fun b => !topkBefore a b) ++ a :: l.dropWhile fun b => !topkBefore a b).take k

/-- The output of TOPK: K pairs of value and index. -/
def topkBytes (n k base : Nat) (merge : Bool) (data : List Byte) : List Byte :=
  let items := (List.range n).map fun i =>
    if merge then (wordAt data (8 * i), wordAt data (8 * i + 4)) else (wordAt data (4 * i), BitVec.ofNat 32 (base + i))
  (items.foldl (fun l a => topkInsert k a l) []).flatMap fun p => leBytes 4 p.1.toNat ++ leBytes 4 p.2.toNat

end Sys2Proof.Machine
end

