-- ==== Sys2Proof/Machine/Operands.lean ====
section
/-! DEFINITION. How an instruction issues: fetch, the checks of R108, what holds it back, and its operand forms (R77 to R83,
R88 to R91, R106 to R110, R119). -/

namespace Sys2Proof.Machine

open Sys2Proof

/-- How an instruction that was offered an issue slot ends. -/
inductive IRes where
  /-- rejected with a code; the state carries only what the checks recorded (R79) -/
  | fault (c : Code) (s : State)
  /-- blocked (R77); the state carries a requested cache line, permit or registration -/
  | block (w : WaitOn) (s : State)
  /-- held (R110) -/
  | held (s : State)
  /-- issued; the thread continues at the offset -/
  | done (s : State) (pc : BitVec 18)
  deriving Repr

/-- What an instruction sees at issue. -/
structure Iss where
  c : Nat
  t : Nat
  pc : BitVec 18
  word : DWord
  cycle : DWord
  data : StoreCheck
  x : Core
  th : Thread
  deriving DecidableEq, Repr

/-- Bits of the instruction word. -/
def fw (k : Iss) (hi lo : Nat) : Nat := bits k.word hi lo
/-- The scalar register that a field names. -/
def fs (k : Iss) (hi lo : Nat) : DWord := regS k.th (fw k hi lo)
/-- The number in the scalar register that a field names. -/
def fn (k : Iss) (hi lo : Nat) : Nat := (fs k hi lo).toNat
/-- The handle that a field names. -/
def fh (k : Iss) (hi lo : Nat) : HView := hview k.x (fw k hi lo)
/-- The offset of the following word. -/
def pcNext (k : Iss) : BitVec 18 := k.pc + 8

/-- Changes the issuing thread. -/
def updThread (k : Iss) (f : Thread → Thread) (s : State) : State :=
  let x := coreAt s k.c
  setCore k.c (setThread k.t (f (threadAt x k.t)) x) s

/-- Bits [55:0] that the format of an opcode marks reserved (R106, R113 to R134). -/
def reservedBits (op : Nat) : Nat :=
  if op ≤ 0x03 ∨ (0x20 ≤ op ∧ op < 0x40) then 0x1FF * 2 ^ 32
  else if op < 0x20 then 0x1FF * 2 ^ 32 + 0xFFFFFFFF
  else if op ≤ 0x44 then 0xFFFFF
  else if op = 0x48 then 0xFFFFFFFF
  else if op = 0x49 then 2 ^ 50 - 1
  else if op = 0x4A then 0x1F * 2 ^ 51 + (2 ^ 41 - 1)
  else if op < 0x60 then 2 ^ 32 + 0xFFFFFFF0
  else if op = 0x60 then 2 ^ 22 - 1
  else if op = 0x61 then 2 ^ 17 - 1
  else if op = 0x62 then 2 ^ 15 - 1
  else if op = 0x68 then 2 ^ 16 - 1
  else if op = 0x69 then 2 ^ 4 - 1
  else if op = 0x6A then 2 ^ 18 - 1
  else if op = 0x70 then 2 ^ 18 - 1
  else if op = 0x71 then 2 ^ 13 - 1
  else if op = 0x72 then 2 ^ 19 - 1
  else if op = 0x7A then 2 ^ 24
  else 0x1F * 2 ^ 51 + 3 * 2 ^ 24

/-- Whether the opcode map lists an opcode (R107). -/
def opAssigned (op : Nat) : Bool :=
  (1 ≤ op && op ≤ 3) || (0x10 ≤ op && op ≤ 0x1E) || op == 0x20 || (0x23 ≤ op && op ≤ 0x28) || op == 0x2D || op == 0x2F
    || (0x30 ≤ op && op ≤ 0x35) || op == 0x38 || op == 0x39 || (0x40 ≤ op && op ≤ 0x44) || (0x48 ≤ op && op ≤ 0x4A)
    || (0x50 ≤ op && op ≤ 0x59) || op == 0x5C || op == 0x5D || (0x60 ≤ op && op ≤ 0x62) || (0x68 ≤ op && op ≤ 0x6A)
    || (0x70 ≤ op && op ≤ 0x72) || (0x78 ≤ op && op ≤ 0x7A)

/-- The reserved encodings of format, mode and lane-type fields (R106, R113, R115, R118, R120 to R123, R151). -/
def reservedEnc (k : Iss) (op : Nat) : Bool :=
  if op = 0x03 then decide (4 < fw k 31 0)
  else if 0x40 ≤ op ∧ op ≤ 0x43 then fw k 55 54 == 3 || (fw k 55 54 != 0 && fw k 42 42 == 1)
  else if 0x50 ≤ op ∧ op < 0x60 then decide (1 < fw k 43 42) || (decide (0x5C ≤ op) && fw k 43 42 == 1)
  else if op = 0x60 then decide (3 < fw k 52 50)
  else if op = 0x61 then decide (3 < fw k 21 19) || fw k 18 17 == 3
  else if op = 0x62 then
    decide (1 < fw k 16 15) || fw k 18 17 == 3 || (fw k 16 15 == 0 && fw k 18 17 == 0)
      || (fw k 16 15 == 1 && (decide (3 < fw k 21 19) || fw k 21 19 == 1 || fw k 18 17 != 0))
  else if op = 0x68 ∨ op = 0x69 then (fmtOf (fw k 28 25)).isNone || (fmtOf (fw k 24 21)).isNone
  else false

/-- The offset of a thread's next fetch: a jump beyond the 18 bits of the program counter lies beyond every handle (R105, R114). -/
def fetchAt (th : Thread) : Nat := if th.beyond then 2 ^ 18 else th.pc.toNat

/-- Why handle 0 does not serve a fetch at an offset (R78). -/
def fetchFault (x : Core) (pc : Nat) : Option Code :=
  let h := hview x 0
  if !h.valid || !h.rd || h.tagged || !(h.cls == 0 || h.cls == 1) then some E.handleClass
  else if pc % 8 ≠ 0 then some E.alignFault
  else if h.ext < pc + 8 then some E.lenOverrun
  else none

/-- A thread enters BLOCKED with a wait reason (R77); the hazard detector may record it (R252). -/
def blockThread (c t : Nat) (cycle : DWord) (w : WaitOn) (s : State) : State :=
  let x := coreAt s c
  let th := threadAt x t
  hdBlocked c t th.pc.toNat cycle.toNat (waitCode w)
    (setCore c (setThread t { th with st := .blocked, wait := w, met := false } x) s)

/-! ### The round robin (R77) -/

/-- The threads that have been offered a cycle and cannot take it any more. -/
def passedIn (x : Core) (cycle : DWord) : List Nat := if x.offerCycle = cycle then x.passed else []

/-- How many threads the round robin passes before it comes to thread t. -/
def ringPlace (x : Core) (t : Nat) : Nat := (t + 31 - x.lastIssued % 16) % 16

/-- Whether the cycle is thread t's to take: it has not been offered it yet, and no READY thread that comes before it in
round-robin order, from the thread after the one that issued last, still has the offer to come (R77). -/
def myTurn (x : Core) (t : Nat) (cycle : DWord) : Bool :=
  let gone := passedIn x cycle
  !gone.contains t && (List.range 16).all fun u =>
    decide (ringPlace x t ≤ ringPlace x u) || (threadAt x u).st != .ready || gone.contains u

/-- A held thread does not take the cycle, which passes to the next READY thread (R77, R110). -/
def passOffer (c t : Nat) (cycle : DWord) (s : State) : State :=
  updCore c (fun x => { x with offerCycle := cycle, passed := passedIn x cycle ++ [t] }) s

/-- A thread that issued: its program counter moves, the round robin passes it, and the cycle is taken (R77). -/
def issued (c t : Nat) (cycle : DWord) (pc : BitVec 18) (s : State) : State :=
  let x := coreAt s c
  setCore c { setThread t { threadAt x t with pc := pc } x with
    lastIssued := t, offerCycle := cycle, passed := List.range 16 } s

/-- What the end of an offer does to the core. DESIGN CHOICE, log 11. -/
def settle (c t : Nat) (cycle : DWord) : IRes → State
  | .fault code s => faultThread c t code s
  | .block w s => blockThread c t cycle w s
  | .held s => passOffer c t cycle s
  | .done s pc => issued c t cycle pc s

/-- Whether a core's threads may issue: the floor map enables it and its field is on. DEDUCED, log 10. -/
def coreRuns (s : State) (c : Nat) : Bool := coreEnabled s c && fieldSt s (fieldOfCore c) == .on

/-- The word at an offset of handle 0. -/
def wordAtPc (s : State) (c : Nat) (pc : Nat) : DWord :=
  BitVec.ofNat 64 (leNat (readMem s (coreAddr c ((hview (coreAt s c) 0).base + pc)) 8))

/-- The scalar unit offers a thread an issue slot and the word fetched has the given opcode (R77, R78, R106, R108). Where the
thread is not READY, the cycle is not its to take or the word is another instruction's, the command does not occur and nothing changes. DEDUCED, log 10. DESIGN CHOICE, log 61. -/
def issue (op : Nat) (i : Issue) (body : Iss → State → IRes) (s : State) : State :=
  let c := coreId i.core
  let t := i.thread.val
  let x := coreAt s c
  let th := threadAt x t
  if !coreRuns s c || th.st != .ready || !myTurn x t i.cycle then s
  else match fetchFault x (fetchAt th) with
    | some code => faultThread c t code s
    | none =>
      let r := hrng (hview x 0) th.pc.toNat 8
      match clearingBank x r with
      | some b => blockThread c t i.cycle (.bankClear b) s
      | none =>
        match scoreBlock x r false with
        | some w => blockThread c t i.cycle w s
        | none =>
          let q := readCheck c i.fetch [r] s
          match q.2 with
          | some code => faultThread c t code q.1
          | none =>
            let word := wordAtPc s c th.pc.toNat
            if !opAssigned (bits word 63 56) then faultThread c t E.illegalOp q.1
            else if bits word 63 56 ≠ op then s
            else
              let k : Iss := ⟨c, t, th.pc, word, i.cycle, i.data, coreAt q.1 c, th⟩
              if word.toNat % 2 ^ 56 &&& reservedBits op ≠ 0 || reservedEnc k op then faultThread c t E.illegalOp q.1
              else settle c t i.cycle (body k q.1)

/-! ### Operand uses -/

/-- One operand range of an instruction. -/
structure Use where
  h : HView
  off : Nat
  len : Nat
  write : Bool
  /-- the tag state that a tagged range must have throughout -/
  need : Option Bool
  /-- the access changes tags -/
  change : Bool
  deriving DecidableEq, Repr

/-- A range that is read as an operand: full where tagged (R70). -/
def useRead (h : HView) (off len : Nat) : Use := ⟨h, off, len, false, some true, false⟩

/-- The slots of a use. -/
def useRng (u : Use) : Rng := hrng u.h u.off u.len

/-- A tagged access that does not cover whole slots (R71). -/
def tagAlign (u : Use) : Bool := u.h.tagged && (u.off % 32 != 0 || u.len % 32 != 0)

/-- A register value of all ones is reserved (R5, R109). DESIGN CHOICE, log 24. -/
def allOnes (v : DWord) : Bool := v == 0xFFFFFFFFFFFFFFFF

/-- The range of a use against its handle's extent (R82); a length of 0 touches nothing (R4). DESIGN CHOICE, log 24. -/
def overrun (u : Use) : Bool := u.len != 0 && decide (u.h.ext < u.off + u.len)

/-- The stack lines of a use. -/
def useLines (u : Use) : List Nat :=
  if u.h.cls = 2 ∧ u.len ≠ 0 then
    let a := (u.h.base + u.off) / 256
    (List.range ((u.h.base + u.off + u.len - 1) / 256 + 1 - a)).map (a + ·)
  else []

/-- Whether a tagged use finds the tags it needs. -/
def tagsReady (x : Core) (u : Use) : Bool :=
  if !u.h.tagged then true
  else match u.need with
    | some true => allFull x (useRng u)
    | some false => allEmpty x (useRng u)
    | none => true

/-- The core asks the stack controller for a line (R90): a READ of 256 bytes. -/
def requestLine (c line : Nat) (s : State) : State :=
  injectEngine c (towardAddr (stackBase + 256 * line)
      { msgNull with cls := .read, rflits := 8, rcore := c, src := c, origin := .fill c line })
    (updCore c (fun x => { x with misses := x.misses ++ [⟨line, none⟩] }) s)

/-- Misses on the lines of an access: entries allocated while the miss table has room (R89, R90), and the wait. -/
def missBlock (c : Nat) (lines : List Nat) (s : State) : Option (WaitOn × State) :=
  let absent := fun (s : State) l => (mfind (coreAt s c).cache l).isNone
  let miss := lines.filter (absent s)
  if miss.isEmpty then none
  else
    let r := miss.foldl (fun (p : Bool × State) l =>
      if (coreAt p.2 c).misses.any (·.line == l) then p
      else if (coreAt p.2 c).misses.length < 8 then (p.1, requestLine c l p.2)
      else (true, p.2)) (false, s)
    some (.miss (if r.1 then [] else miss), r.2)

/-- What blocks an instruction that has passed its checks, in order: bank clearing, the scoreboard on untagged ranges, unit
entries, tags, missing cache lines. -/
def gateLines (c : Nat) (uses : List Use) (lines : List Nat) (s : State) : Option (WaitOn × State) :=
  let x := coreAt s c
  let plain := fun w => some (w, s)
  match firstSome (uses.map fun u => clearingBank x (useRng u)) with
  | some b => plain (.bankClear b)
  | none =>
    match firstSome (uses.map fun u => if u.h.tagged then none else scoreBlock x (useRng u) u.write) with
    | some w => plain w
    | none =>
      match unitBlock x (uses.map useRng) ((uses.filter fun u => u.write || (u.change && u.h.tagged)).map useRng) with
      | some w => plain w
      | none =>
        match uses.find? fun u => !tagsReady x u with
        | some u => plain (.tag (useRng u))
        | none => missBlock c lines s

/-- As `gateLines`, awaiting every cache line of the operands. DESIGN CHOICE, log 11. -/
def gate (c : Nat) (uses : List Use) (s : State) : Option (WaitOn × State) :=
  gateLines c uses (uses.flatMap useLines) s

/-- An access marks the lines it uses (R89: least recently used). -/
def touchLines (lines : List Nat) (x : Core) : Core :=
  lines.foldl (fun x l =>
    match mfind x.cache l with
    | some e => { x with cache := mput x.cache l { e with used := x.useStamp + 1 }, useStamp := x.useStamp + 1 }
    | none => x) x

/-- Bytes of the cache from an offset in the stacks. DESIGN CHOICE, log 26. -/
def cacheRead (x : Core) (a : Nat) : Nat → List Byte
  | 0 => []
  | n + 1 =>
    (match mfind x.cache (a / 256) with
    | some e => e.data.getD (a % 256) 0
    | none => 0) :: cacheRead x (a + 1) n

/-- Writes one byte into the cache; its line becomes dirty. -/
def cacheSet (x : Core) (a : Nat) (b : Byte) : Core :=
  match mfind x.cache (a / 256) with
  | some e => { x with cache := mput x.cache (a / 256) { e with dirty := true, data := lset e.data (a % 256) b } }
  | none => x

/-- Writes bytes into the cache. DESIGN CHOICE, log 26. -/
def cacheWrite (x : Core) (a : Nat) : List Byte → Core
  | [] => x
  | b :: l => cacheWrite (cacheSet x a b) (a + 1) l

/-- The bytes of a use. -/
def useBytes (c : Nat) (u : Use) (s : State) : List Byte :=
  if u.h.cls = 2 then cacheRead (coreAt s c) (u.h.base + u.off) u.len else readMem s (coreAddr c (u.h.base + u.off)) u.len

/-- Writes the bytes of a use. -/
def useStore (c : Nat) (u : Use) (l : List Byte) (s : State) : State :=
  if u.h.cls = 2 then
    updCore c (fun x => touchLines (useLines u) (cacheWrite x (u.h.base + u.off) l)) s
  else writeMem (coreAddr c (u.h.base + u.off)) l s

/-- The store check of uses. -/
def useCheck (c : Nat) (k : StoreCheck) (us : List Use) (s : State) : State × Option Code :=
  accessCheck c k (us.map useRng) (us.flatMap useLines) s

/-- Reads of uses that nothing holds back: the protection of the store may fail them or invalidate a line, and the lines they
use are touched. -/
def withPlainReads (k : Iss) (us : List Use) (s : State) (go : State → IRes) : IRes :=
  let q := useCheck k.c k.data us s
  match q.2 with
  | some code => .fault code q.1
  | none =>
    match missBlock k.c (us.flatMap useLines) q.1 with
    | some w => .block w.1 w.2
    | none => go (updCore k.c (touchLines (us.flatMap useLines)) q.1)

/-- Reads of a thread load or a unit operand: the hazard detector sees them too (R253). -/
def withReads (k : Iss) (us : List Use) (s : State) (go : State → IRes) : IRes :=
  withPlainReads k us s fun q => go (hdRead k.c k.t k.pc.toNat k.cycle.toNat (us.map useRng) q)

/-- Tags of a tagged use are set. -/
def useTag (c : Nat) (u : Use) (full : Bool) (s : State) : State :=
  if u.h.tagged then updCore c (if full then setFull (useRng u) else setEmpty (useRng u)) s else s

/-! ### Registers with a result pending (R110) -/

/-- Whether an MVD of this thread has the accumulator as its destination and has not written it. -/
def accPending (k : Iss) (n : Nat) : Bool :=
  k.x.units.any fun u => u.kind == .mv && u.thread == k.t && bits u.word 55 54 == n && u.phase != .stuck

end Sys2Proof.Machine
end

