-- ==== Sys2Proof/Machine/Fabric.lean ====
section
/-! DEFINITION. Routers: routes, waypoints, detours, drops, parity and delivery at the destination router (R180, R186, R197,
R199, R200, R203, R205, R441). -/

namespace Sys2Proof.Machine

open Sys2Proof

/-! ### Directions -/

/-- The neighbour in a direction: 1 north, 2 south, 3 west, 4 east (R10, R203). -/
def neighbour (r d : Nat) : Nat :=
  let x := meshX r
  let y := meshY r
  match d with
  | 1 => coreOfXY x (y + 1)
  | 2 => coreOfXY x (y - 1)
  | 3 => coreOfXY (x - 1) y
  | _ => coreOfXY (x + 1) y

/-- The opposite direction: the port at which the neighbour receives. -/
def opposite (d : Nat) : Nat := [0, 2, 1, 4, 3].getD d 0

/-- The direction along X toward a goal, 0 at it. -/
def alongX (r gx : Nat) : Nat := if meshX r < gx then 4 else if gx < meshX r then 3 else 0
/-- The direction along Y toward a goal, 0 at it. -/
def alongY (r gy : Nat) : Nat := if meshY r < gy then 1 else if gy < meshY r then 2 else 0

/-- The first dimension step of a plane (R180); 0 at the goal. -/
def firstStep (plane : Bool) (r gx gy : Nat) : Nat :=
  let x := alongX r gx
  let y := alongY r gy
  if plane then (if y ≠ 0 then y else x) else if x ≠ 0 then x else y

/-- The message with its waypoint reached where it stands there (R186). -/
def atWaypoint (r : Nat) (m : Msg) : Msg := if m.wp && meshX r == m.wx && meshY r == m.wy then { m with wp := false } else m

/-- The goal of a message: its waypoint, then its destination. -/
def goalOf (m : Msg) : Nat × Nat := if m.wp then (m.wx, m.wy) else (m.dx, m.dy)

/-- The next direction of a message at router r; 0 at its destination. -/
def nextDir (r : Nat) (m : Msg) : Nat := firstStep m.plane r (goalOf m).1 (goalOf m).2

/-- Whether the link of router r in a direction has failed. -/
def linkFailed (s : State) (r d : Nat) : Bool := (routerAt s r).failed.contains d

/-- Whether router r is retired (R200). DEDUCED, log 30. -/
def retired (s : State) (r : Nat) : Bool := (repairOf s r).routerRetired

/-- The hops of a detour around the retired router in direction d: straight through, or turning there (R200). DESIGN CHOICE, log 29. -/
def detour (r d : Nat) (m : Msg) : List Nat :=
  let d2 := nextDir (neighbour r d) (atWaypoint (neighbour r d) m)
  if d2 = d then (if d = 3 ∨ d = 4 then [1, d, d, 2] else [4, d, d, 3]) else [d2, d]

/-! ### Events (R203, R205) -/

/-- CLASS as numbered in the header (R183). -/
def clsNum : MsgClass → Nat
  | .data => 0 | .reduce => 1 | .read => 2 | .tally => 3 | .ctl => 4

/-- An event of the fabric overwrites FAB_LAST_EVENT and records its code. -/
def fabEvent (r kind port : Nat) (m : Msg) (c : Code) (s : State) : State :=
  let p := pFab (fieldOfCore r)
  let v : Word := BitVec.ofNat 32 (2 ^ 28 * kind + 2 ^ 25 * clsNum m.cls + 2 ^ 22 * port + 2 ^ 19 * b2n m.plane + coreIndex r)
  recordErr p c v (setLive p 0x818 v s)

/-- A read or data of a moved slot's copy is dropped: that copy is not clean (R489). A forwarded message that is dropped leaves its
receive buffer (R376). -/
def noteDropped (m : Msg) (s : State) : State :=
  match m.origin with
  | .fcuCopy _ c => copyUnclean c s
  | .transit n vc id => movedOn (some (n, vc, id)) s
  | _ => s

/-- A message is dropped at router r before a dark field or a failed link in direction d (R197). DEDUCED, log 30. -/
def dropMsg (r d : Nat) (dark : Bool) (m : Msg) (s0 : State) : State :=
  let s := noteDropped m s0
  let p := pFab (fieldOfCore r)
  fabEvent r (if dark then 1 else 2) d m E.targetDark
    (if dark then countUp p 0x804 15 0 1 s else countUp p 0x804 31 16 1 s)

/-! ### Replies and delivery -/

/-- The stack whose edge ports a router's outward port d belongs to (R14, R185). -/
def stackOfEdge (r d : Nat) : Option Nat :=
  (List.range 24).find? fun n =>
    stackField n == fieldOfCore r && (if n < 12 then d == 2 else d == 1) && decide (stackCol n ≤ r % 64)
      && decide (r % 64 < stackCol n + 32)

/-- The link whose attachment a router's outward port d belongs to (R372). -/
def linkOfEdge (r d : Nat) : Option Nat :=
  (List.range 8).find? fun n => linkField n == fieldOfCore r && linkDport n == d

/-- Source ID of a stack controller (R184). -/
def srcStack (n : Nat) : Nat := 0x7D000 + n
/-- Source ID of a chain link attachment (R184). -/
def srcLink (n : Nat) : Nat := 0x7C000 + n
/-- Source ID of a hub port (R184). -/
def srcHub (n : Nat) : Nat := 0x7F000 + n

/-- The reply to a READ: its bytes travel to where the READ's reply fields point (R195). -/
def replyMsg (m : Msg) (src : Nat) (l : List Byte) : Msg :=
  let base := { msgNull with cls := .data, payload := l, src := src, origin := m.origin }
  if m.rvia then toward m.rcore 0 { base with rvia := true, rentry := m.rentry, rnumber := m.rnumber, addr := m.addr }
  else match m.origin with
    | .segIn n _ _ dst => toward (stackRouter n (dst - stackBase)).1 (stackRouter n (dst - stackBase)).2 { base with addr := dst }
    | .chain n _ => toward (linkRouter n (m.roff % 4)) (linkDport n) { base with addr := m.addr }
    | .chainFlush n _ _ => toward (linkRouter n (m.roff % 4)) (linkDport n) base
    | .hub h _ _ => toward (hubRouter h) 3 base
    | _ => toward m.rcore 0
        { base with tag := m.rtagged, notify := m.rnotify, tally := m.rtally, addr := coreAddr m.rcore m.roff }

/-- The requester of a READ as a merge entry stores it (R194). -/
def mergeReq (m : Msg) : MergeReq := ⟨m.rcore, m.roff, m.rtagged, m.rnotify, m.rtally, m.rvia, m.rentry, m.rnumber, m.src, m.origin⟩

/-- The reply to a stored requester. -/
def mergeReply (e : MergeEntry) (q : MergeReq) (src : Nat) (l : List Byte) : Msg :=
  replyMsg { msgNull with cls := .read, addr := e.addr, rflits := e.rflits, rcore := q.rcore, roff := q.roff,
                          rtagged := q.rtagged, rnotify := q.rnotify, rtally := q.rtally, rvia := q.rvia,
                          rentry := q.rentry, rnumber := q.rnumber, src := q.src, origin := q.origin } src l

/-- A reply reaches the merge entry it is addressed to; one whose entry has been discarded is dropped (R203). -/
def replyAtEntry (r : Nat) (m : Msg) (s : State) : State :=
  let x := routerAt s r
  match mfind x.merge m.rentry with
  | some e =>
    if e.number = m.rnumber ∧ e.reply.isNone then
      setRouter r { x with merge := mput x.merge m.rentry { e with reply := some m.payload, src := m.src } } s
    else s
  | none => s

/-- A line reaches the miss table of a core (R90). DEDUCED, log 31. -/
def fillArrives (c line : Nat) (l : List Byte) (s : State) : State :=
  updCore c (fun x => { x with misses := x.misses.map fun q => if q.line = line then { q with reply := some l } else q }) s

/-- Whether a message at its destination is one for the core's local ejection port. -/
def isArrival (m : Msg) : Bool :=
  m.dport == 0 && (m.cls == .data || m.cls == .ctl) && !m.rvia && (match m.origin with
    | .fill _ _ => false
    | _ => true)

/-- Whether the local port can take it: nothing in progress, and the field not in kiln (R97, R441). -/
def portFree (s : State) (r : Nat) : Bool := (coreAt s r).eject.isEmpty && fieldSt s (fieldOfCore r) == .on

/-- The tally port that a router serves: its number in a field (R135). -/
def portIndex (r : Nat) : Nat := 2 * b2n (decide (30 ≤ r / 64 % 64)) + b2n (decide (32 ≤ r % 64))

/-- A TALLY message joins what has reached a tally block. -/
def tallyArrives (b p : Nat) (m : Msg) (s : State) : State :=
  { s with tallyIn := mset [] s.tallyIn b (mget [] s.tallyIn b ++ [(p, m)]) }

/-- Whether a channel waits for a tally (R231). -/
def waitsFor (c : Chan) (tally : Nat) : Bool :=
  match c.desc with
  | some d => c.st == .waiting && d.waitTally == tally
  | none => false

/-- A wake reaches a channel of stack n: it is kept by one that waits for its tally and discarded by any other (R135, R231). -/
def channelWake (n : Nat) (m : Msg) (s : State) : State :=
  updChan n m.thread (fun c => if waitsFor c m.tally then { c with woken := some m.epoch } else c) s

/-- The requester of a READ that is not served gets a notice; where it is a merge entry, each requester that it has stored does,
and the entry frees (R195, R211). DEDUCED, log 31. -/
def readFails (code : Code) (addr : Nat) : Nat → MergeReq → State → State
  | 0, _, s => s
  | n + 1, q, s =>
    if q.rvia then
      match mfind (routerAt s q.rcore).merge q.rentry with
      | some e =>
        if e.number = q.rnumber then
          e.reqs.foldl (fun s q => readFails code addr n q s)
            (setRouter q.rcore { routerAt s q.rcore with merge := mdel (routerAt s q.rcore).merge q.rentry } s)
        else s
      | none => s
    else notify q.origin code addr s

/-- A READ fails with a code. -/
def readRefused (m : Msg) (code : Code) (s : State) : State := readFails code m.addr 80 (mergeReq m) s

/-- Offset in the host aperture of a message's address: the aperture is the 2^44 bytes from 0x3000_0000_0000 (R206). -/
def aperOff (m : Msg) : Nat := m.addr % 2 ^ 44

/-- Bytes of a core's PUT reach hub port h: they are translated and written (R15, R358, R360). An access that is not translated
fails before any byte moves, with a notice to its requester (R211, R362). DESIGN CHOICE, log 44. -/
def hubWrite (m : Msg) (s : State) : State :=
  match aperRange s (aperOff m) m.payload.length with
  | none => notify m.origin E.hostUnmapped m.addr (hostFail E.hostUnmapped 3 (aperOff m) s)
  | some (true, a) => landed m.origin m.payload.length (exchWrite a m.payload s)
  | some (false, a) => hostSend (.put m.origin m.payload.length) true (aperOff m) a m.payload.length m.payload s

/-- A READ of a core's GET reaches hub port h: its bytes go back from there (R15, R358, R360). DESIGN CHOICE, log 44. -/
def hubRead (h : Nat) (m : Msg) (s : State) : State :=
  match aperRange s (aperOff m) (32 * m.rflits) with
  | none => readRefused m E.hostUnmapped (hostFail E.hostUnmapped 3 (aperOff m) s)
  | some (true, a) => injectEngine (hubRouter h) (replyMsg m (srcHub h) (exchRead s a (32 * m.rflits))) s
  | some (false, a) => hostSend (.get m h) false (aperOff m) a (32 * m.rflits) [] s

/-- Bytes that the hub has asked a core for (R301): kept where the model still waits for that piece. -/
def hubReply (model piece : Nat) (l : List Byte) (s : State) : State :=
  match (modelAt s model).collect with
  | some c =>
    if c.first ≤ piece ∧ piece < c.first + c.want.length then
      updModel model (fun x => { x with collect := some { c with got := mput c.got piece l } }) s
    else s
  | none => s

/-- A message reaches hub port h: an operation on a hub tally, an access to the host aperture, or bytes that the hub asked for. -/
def hubArrive (h : Nat) (m : Msg) (s : State) : State :=
  match m.cls with
  | .tally => tallyArrives (80 + h) 0 m s
  | .read => hubRead h m s
  | _ => match m.origin with
    | .hub _ model piece => hubReply model piece m.payload s
    | _ => hubWrite m s

/-- A message leaves its destination router through DPORT (R183, R185). DESIGN CHOICE, log 29. -/
def deliver (r : Nat) (m : Msg) (s : State) : State :=
  match m.dport with
  | 0 =>
    if m.cls = .tally then updCore r (fun x => { x with wakes := x.wakes ++ [m] }) s
    else if m.rvia && m.cls == .data then replyAtEntry r m s
    else match m.origin, m.cls with
      | .fill c line, .data => fillArrives c line m.payload s
      | _, _ => updCore r (fun x => { x with eject := x.eject ++ [m] }) s
  | 5 => tallyArrives (fieldOfCore r) (portIndex r) m s
  | d =>
    match stackOfEdge r d with
    | some n => if m.cls = .tally then channelWake n m s else if d = 1 ∨ d = 2 then setStack n { stackAt s n with inbox := (stackAt s n).inbox ++ [m] } s else s
    | none =>
      match linkOfEdge r d with
      | some n => attachArrive n m s
      | none =>
        hubArrive (fieldOfCore r / 10 - 2) m s

/-! ### Queues -/

/-- Whether a direction leads to a neighbour on the floor, not to the outside. -/
def onFloor (r d : Nat) : Bool :=
  if d = 1 then decide (meshY r < 479) else if d = 2 then decide (0 < meshY r)
  else if d = 3 then decide (0 < meshX r) else decide (meshX r < 639)

/-- Whether an input of router r discards flits and waits for a replay (R199). -/
def inReplay (s : State) (r port : Nat) (plane : Bool) : Bool := (routerAt s r).replay.contains (qKey port plane)

/-- An output queue of router r. -/
def outQueue (s : State) (r d : Nat) (plane : Bool) : List Msg := mget [] (routerAt s r).outq (qKey d plane)

/-- What stands ready to cross the link to a mesh port of router r: the neighbour's output queue, or what the unit at an outward port
has to send. -/
def upstream (s : State) (r port : Nat) (plane : Bool) : List Msg :=
  if onFloor r port then outQueue s (neighbour r port) (opposite port) plane
  else mget [] (routerAt s r).ext (qKey port plane)

/-- The first message leaves the queue before a mesh port. -/
def popUpstream (r port : Nat) (plane : Bool) (s : State) : State :=
  if onFloor r port then
    let n := neighbour r port
    let x := routerAt s n
    let k := qKey (opposite port) plane
    setRouter n { x with outq := mset [] x.outq k ((mget [] x.outq k).drop 1) } s
  else
    let x := routerAt s r
    let k := qKey port plane
    setRouter r { x with ext := mset [] x.ext k ((mget [] x.ext k).drop 1) } s

/-- The messages at an input of router r on a plane; port 0 is the local injection queue, which has one order for both
planes (R182). -/
def inQueue (s : State) (r port : Nat) (plane : Bool) : List Msg :=
  if port = 0 then
    match (coreAt s r).inject with
    | m :: l => if m.plane = plane then m :: l.filter (·.plane == plane) else []
    | [] => []
  else mget [] (routerAt s r).queues (qKey port plane)

/-- Whether flits cross the link into a mesh port of router r: no replay is awaited on it, the link has not failed and the
neighbour is not dark. -/
def linkRuns (s : State) (r port : Nat) (plane : Bool) : Bool :=
  !inReplay s r port plane && !linkFailed s r port && (!onFloor r port || !shutOff s (fieldOfCore (neighbour r port)))

/-- Messages cross the link into the input queue of a mesh port in order, while the queue has room: the credits that it has given
(R180, R182). DESIGN CHOICE, log 29. -/
def pull (r port : Nat) (plane : Bool) : Nat → State → State
  | 0, s => s
  | n + 1, s =>
    match upstream s r port plane with
    | m :: _ =>
      if linkRuns s r port plane && hasRoom 16 (inQueue s r port plane) m then
        pull r port plane n (enqueue r port m (popUpstream r port plane s))
      else s
    | [] => s

/-- What can reach an input does: messages that cross the link to a mesh port. -/
def fetchInput (r port : Nat) (plane : Bool) (s : State) : State :=
  if 1 ≤ port ∧ port ≤ 4 then pull r port plane (upstream s r port plane).length s else s

/-- The head of an input: none while it is the message that waits for a replay. DEDUCED, log 10. -/
def headOf (s : State) (r port : Nat) (plane : Bool) : Option Msg :=
  if port = 0 && inReplay s r 0 plane then none else (inQueue s r port plane).head?

/-- The head of an input, or the message that is about to become it. -/
def headSoon (s : State) (r port : Nat) (plane : Bool) : Option Msg :=
  match headOf s r port plane with
  | some m => some m
  | none => if 1 ≤ port ∧ port ≤ 4 ∧ linkRuns s r port plane = true then (upstream s r port plane).head? else none

/-- The next copy of a merge entry takes the fan-out path, which holds one message; after the last the entry frees (R182, R195). -/
def fanNext (r : Nat) (s : State) : State :=
  let x := routerAt s r
  let free := (mget [] x.queues (qKey 5 false)).isEmpty && (mget [] x.queues (qKey 5 true)).isEmpty
  match free, x.fan with
  | true, i :: rest =>
    (match mfind x.merge i with
    | some e =>
      (match e.reply, e.reqs with
      | some l, q :: qs =>
        let x := if qs.isEmpty then { x with merge := mdel x.merge i, fan := rest }
          else { x with merge := mput x.merge i { e with reqs := qs } }
        enqueue r 5 (stamp s r (mergeReply e q e.src l)) (setRouter r x s)
      | _, _ => setRouter r { x with merge := mdel x.merge i, fan := rest } s)
    | none => setRouter r { x with fan := rest } s)
  | _, _ => s

/-- The head leaves an input. Room in the injection queue goes to what the engines wait to inject, then meets the threads that
waited for it (R77); the fan-out path takes its next copy. -/
def popHead (r port : Nat) (plane : Bool) (s : State) : State :=
  if port = 0 then updCore r meetInject (refillCore r (updCore r (fun x => { x with inject := x.inject.drop 1 }) s))
  else
    let x := routerAt s r
    let k := qKey port plane
    let s := setRouter r { x with queues := mset [] x.queues k ((mget [] x.queues k).drop 1) } s
    if port = 5 then fanNext r s else s

/-! ### Output ports (R181) -/

/-- The output port that a head wants: its next hop, or the port through which it leaves its destination router. A REDUCE and a READ
of core store data at their destination take none. -/
def wants (r : Nat) (m : Msg) : Option Nat :=
  match m.path with
  | d :: _ => some d
  | [] =>
    let m := atWaypoint r m
    let d := nextDir r m
    if d ≠ 0 then some d
    else if m.cls == .reduce || (m.cls == .read && m.dport == 0) then none
    else some m.dport

/-- How many inputs the round robin of an output port passes from the one that it served last to an input. -/
def turnsTo (last p : Nat) : Nat := (p + 21 - last) % 11

/-- Whether an output port on a plane is an input's to take: no input whose head wants it too comes earlier in round-robin order
after the one served last (R181). DESIGN CHOICE, log 29. -/
def granted (s : State) (r port : Nat) (plane : Bool) (m : Msg) : Bool :=
  match wants r m with
  | none => true
  | some o =>
    let last := mget 10 (routerAt s r).grant (qKey o plane)
    (List.range 11).all fun q =>
      q == port || decide (turnsTo last port < turnsTo last q)
        || (match headSoon s r q plane with
          | some h => wants r h != some o
          | none => true)

/-- The output port has served an input. -/
def noteGrant (r port : Nat) (plane : Bool) (m : Msg) (s : State) : State :=
  match wants r m with
  | none => s
  | some o =>
    let x := routerAt s r
    setRouter r { x with grant := mset 10 x.grant (qKey o plane) port } s

/-! ### Moving on -/

/-- A message joins the output queue of router r in a direction, or waits where it has no room (R182, R235). -/
def sendOut (r d : Nat) (m : Msg) (s : State) : Option State :=
  let k := qKey d m.plane
  let x := routerAt s r
  if hasRoom 16 (mget [] x.outq k) m then
    some (setRouter r { x with outq := mset [] x.outq k (mget [] x.outq k ++ [{ m with lastField := fieldOfCore r }]) } s)
  else none

/-- A message makes the next hop of a detour: into the escape buffer of the neighbour, or after the last turn back into the output
queue (R182, R200). It is dropped at a failed link on the way (R197). DESIGN CHOICE, log 29. -/
def hop (r : Nat) (m : Msg) (s : State) : Option State :=
  match m.path with
  | [] => none
  | d :: l =>
    let n := neighbour r d
    if linkFailed s r d then some (dropMsg r d false m s)
    else if l.isEmpty then sendOut r d { m with path := [] } s
    else
      let k := 6 + opposite d
      if hasRoom 4 (inQueue s n k m.plane) m then some (enqueue n k { m with path := l, lastField := fieldOfCore r } s) else none

/-- Whether a message that leaves its destination router crosses a link that has failed: the local one for what a core takes or has
read, an outward one for the unit behind it (R199). -/
def lastLinkFailed (s : State) (r : Nat) (m : Msg) : Bool :=
  if m.dport = 0 then linkFailed s r 0 && !(m.rvia && m.cls == .data)
  else decide (m.dport ≤ 4) && linkFailed s r m.dport

/-- A message at router r moves on by R186, or none where its next queue cannot take it now. A message whose destination is a
retired router has no way there and is lost. DESIGN CHOICE, log 29. DESIGN CHOICE, log 61. -/
def moveOn (r : Nat) (m0 : Msg) (s : State) : Option State :=
  if !m0.path.isEmpty then hop r m0 s
  else
    let m := atWaypoint r m0
    match nextDir r m with
    | 0 =>
      if lastLinkFailed s r m then some (dropMsg r m.dport false m s)
      else if isArrival m && !portFree s r then none else some (deliver r m s)
    | d =>
      let n := neighbour r d
      if shutOff s (fieldOfCore n) && fieldOfCore n != fieldOfCore r then some (dropMsg r d true m s)
      else if linkFailed s r d then some (dropMsg r d false m s)
      else if retired s n then
        (if nextDir n (atWaypoint n m) = 0 then some s else hop r { m with path := detour r d m } s)
      else sendOut r d m s

/-! ### Merge points (R194) -/

/-- The field in which a message was injected, from its SRC (R184). DESIGN CHOICE, log 29. -/
def injectField (m : Msg) : Nat :=
  if srcIsCore m.src then m.src / 4096
  else if m.src / 4096 = 0x7E then m.src % 4096
  else if m.src / 4096 = 0x7D then stackField (m.src % 4096)
  else if m.src / 4096 = 0x7C then linkField (m.src % 4096)
  else hubField (m.src % 4096)

/-- Whether a message at router r stands where its data lies: at its destination, or at a stack's edge router. -/
def atData (r : Nat) (m : Msg) : Bool := nextDir r (atWaypoint r m) == 0

/-- Whether router r is a field-entry router of a READ: the first it reaches in a field other than the one it was injected
in. -/
def atFieldEntry (r : Nat) (m : Msg) : Bool := m.lastField != fieldOfCore r && injectField m != fieldOfCore r

/-- Whether a READ at router r stands at a merge point. -/
def atMergePoint (r : Nat) (m : Msg) : Bool := m.cls == .read && (atData r m || atFieldEntry r m)

/-- A message from the core of a router whose local link has failed is dropped (R197, R199). -/
def localLost (s : State) (r port : Nat) : Bool := port == 0 && linkFailed s r 0

/-- What a row for a router's input does with its head: messages that have crossed the link to it stand in its queue; the rows act
on a head that is theirs, once its output port is the input's to take. A head whose local link has failed is dropped. -/
def onHead (r port : Nat) (plane : Bool) (mine : Msg → Bool) (act : Msg → State → Option State) (s0 : State) : State :=
  if isDark s0 (fieldOfCore r) then s0
  else
    let s := fetchInput r port plane s0
    match headOf s r port plane with
    | none => s
    | some m =>
      if !mine m then s
      else if localLost s r port then dropMsg r 0 false m (popHead r port plane s)
      else if !granted s r port plane m then s
      else ((act m s).map (noteGrant r port plane m)).getD s

/-- ROUTER_HEADER (R186): the head of an input is routed, dropped, detoured or delivered. A REDUCE, and a READ at a merge
point, are taken by rows of their own; a head that cannot move stays. DESIGN CHOICE, log 29. -/
def routerHeader (r port : Nat) (plane : Bool) (s : State) : State :=
  onHead r port plane (fun m => !(m.path.isEmpty && (m.cls == .reduce || atMergePoint r m)))
    (fun m s => moveOn r m (popHead r port plane s)) s

/-! ### Parity (R199) -/

/-- The message whose flits are arriving at an input. -/
def arriving (s : State) (r port : Nat) (plane : Bool) : Option Msg :=
  if port = 0 then ((coreAt s r).inject.filter (·.plane == plane)).head? else (upstream s r port plane).head?

/-- A flit fails its parity: it and every later flit of the plane from that port are discarded, and a replay is awaited. DEDUCED, log 30. -/
def parityError (r port : Nat) (plane : Bool) (s : State) : State :=
  if isDark s (fieldOfCore r) || linkFailed s r port || (arriving s r port plane).isNone then s
  else
    let x := routerAt s r
    setRouter r { x with replay := insertAsc (qKey port plane) x.replay } s

/-- The first message of a plane leaves an injection queue. -/
def dropInject (plane : Bool) (x : Core) : Core :=
  { x with inject := x.inject.takeWhile (·.plane != plane) ++ (x.inject.dropWhile (·.plane != plane)).drop 1 }

/-- The message that failed is gone. DEDUCED, log 30. -/
def dropArriving (r port : Nat) (plane : Bool) (s : State) : State :=
  if port = 0 then updCore r meetInject (refillCore r (updCore r (dropInject plane) s)) else popUpstream r port plane s

/-- What stands in the output queues of router r in a direction is dropped, before a dark field or a failed link (R197). -/
def dropOut (r d : Nat) (dark : Bool) (s : State) : State :=
  [false, true].foldl (fun s plane =>
    let x := routerAt s r
    (mget [] x.outq (qKey d plane)).foldl (fun s m => dropMsg r d dark m s)
      (setRouter r { x with outq := mset [] x.outq (qKey d plane) [] } s)) s

/-- A link fails in both directions; what stands before it is dropped. DEDUCED, log 30. -/
def failLink (r port : Nat) (s : State) : State :=
  let fail := fun r p s => setRouter r { routerAt s r with failed := insertAsc p (routerAt s r).failed } s
  let s := fail r port s
  if port = 0 ∨ onFloor r port = false then s
  else
    let n := neighbour r port
    dropOut n (opposite port) false (dropOut r port false (fail n (opposite port) s))

/-- The replayed flit arrives clean, or fails again: then the link is failed, the router is reported (R483) and the message
is dropped at the router before the link. DEDUCED, log 30. -/
def flitReplay (r port : Nat) (plane clean : Bool) (s : State) : State :=
  match isDark s (fieldOfCore r) || !inReplay s r port plane, arriving s r port plane with
  | true, _ => s
  | false, none => setRouter r { routerAt s r with replay := without (qKey port plane) (routerAt s r).replay } s
  | false, some m =>
    let x := routerAt s r
    let s := setRouter r { x with replay := without (qKey port plane) x.replay } s
    let p := pFab (fieldOfCore r)
    if clean then
      logTransient E.fabricParity 1 r (fabEvent r 3 port m E.fabricParity (countUp p 0x808 15 0 1 s))
    else
      let before := if port = 0 ∨ onFloor r port = false then (r, port) else (neighbour r port, opposite port)
      let s := fabEvent r 4 port m E.fabricLinkFail (countUp p 0x808 31 16 1 s)
      let s := dropMsg before.1 before.2 false m (dropArriving r port plane s)
      report E.fabricLinkFail 1 r (failLink r port s)

/-- Before a field that goes dark, what its neighbours have queued toward it is dropped (R197). DEDUCED, log 30. -/
def dropBefore (f : Nat) (s : State) : State :=
  (s.routers.map (·.1)).foldl (fun s r =>
    if fieldOfCore r = f then s
    else [1, 2, 3, 4].foldl (fun s d => if onFloor r d && fieldOfCore (neighbour r d) == f then dropOut r d true s else s) s) s

/-- ROUTER_HEADER (R186) -/
def execRouterHeader (router : CoreRef) (port : Fin 11) (plane : Bool) (s : State) : Result :=
  .next (routerHeader (coreId router) port.val plane s)
/-- FLIT_PARITY_ERROR (R199) -/
def execFlitParityError (router : CoreRef) (port : Fin 5) (plane : Bool) (s : State) : Result :=
  .next (parityError (coreId router) port.val plane s)
/-- FLIT_REPLAY (R199) -/
def execFlitReplay (router : CoreRef) (port : Fin 5) (plane clean : Bool) (s : State) : Result :=
  .next (flitReplay (coreId router) port.val plane clean s)

end Sys2Proof.Machine
end

