-- ==== Sys2Proof/Machine/Reduce.lean ====
section
/-! DEFINITION. In-network reduction (R190 to R193, R203, R204). -/

namespace Sys2Proof.Machine

open Sys2Proof

/-- Two REDUCE messages match (R190). -/
def redMatch (a b : Msg) : Bool :=
  a.dx == b.dx && a.dy == b.dy && a.rtag == b.rtag && a.addr == b.addr && a.lt == b.lt && a.total == b.total && a.tag == b.tag
    && a.notify == b.notify && a.tally == b.tally && a.plane == b.plane

/-- The 32-bit lanes of a payload. -/
def payLanes (l : List Byte) (n : Nat) : List Word := (List.range n).map fun k => BitVec.ofNat 32 (leNat ((l.drop (4 * k)).take 4))

/-- Each lane of a sum (R190): one F32 addition, or I32 modulo 2^32. -/
def redAdd (lt : Bool) (a b : Word) : Word := if lt then a + b else f32Add a b

/-- The sum of two matching messages: lanes and COUNT (R190). -/
def redSum (a b : Msg) : Msg :=
  { a with payload := laneBytes (List.zipWith (redAdd a.lt) (payLanes a.payload 64) (payLanes b.payload 64)),
           count := a.count + b.count }

/-- Matching, and together within TOTAL. -/
def canAdd (e m : Msg) : Bool := redMatch e m && decide (e.count + m.count ≤ e.total)

/-- The lowest free index of a table of n entries. -/
def freeIndex {α : Type} (m : Map α) (n : Nat) : Option Nat := (List.range n).find? fun i => (mfind m i).isNone

/-- An addition is counted (R203). -/
def countCombine (r : Nat) (s : State) : State := countUp (pFab (fieldOfCore r)) 0x810 31 0 1 s

/-- Sets a combine entry. -/
def setCombine (r i : Nat) (e : Combine) (s : State) : State :=
  setRouter r { routerAt s r with combine := mput (routerAt s r).combine i e } s

/-- Whether the output queue that a message needs next has no room. -/
def outputFull (s : State) (r : Nat) (m : Msg) : Bool :=
  match wants r m with
  | some d => !hasRoom 16 (outQueue s r d m.plane) m
  | none => false

/-- A REDUCE header at a router on its way (R191): added into a matching transit entry, moved into a new one while its output
port is occupied, or passed on. -/
def reduceOnWay (r port : Nat) (plane busy : Bool) (m : Msg) (s : State) : Option State :=
  let x := routerAt s r
  match x.combine.find? fun e => !e.2.owner && canAdd e.2.msg m with
  | some e => some (countCombine r (setCombine r e.1 { e.2 with msg := redSum e.2.msg m } (popHead r port plane s)))
  | none =>
    let known := x.combine.any fun e => !e.2.owner && redMatch e.2.msg m
    let transit := (x.combine.filter fun e => !e.2.owner).length
    if busy || outputFull s r m then
      match freeIndex x.combine 8 with
      | some i =>
        if transit < 4 && x.combine.length < 4 && !known then
          some (setCombine r i ⟨false, atWaypoint r m, false⟩ (popHead r port plane s)) else none
      | none => none
    else moveOn r m (popHead r port plane s)

/-- REDUCE_AT_ROUTER (R191): what is added or moves into an entry needs no output port. -/
def reduceAtRouter (r port : Nat) (plane busy : Bool) (s : State) : State :=
  onHead r port plane (fun m => m.cls == .reduce && !atData r m && m.path.isEmpty) (reduceOnWay r port plane busy) s

/-- A transit entry leaves as one message (R191): the combine buffer is an input of the router (R181). DESIGN CHOICE, log 29. -/
def transitRelease (r i : Nat) (s : State) : State :=
  let x := routerAt s r
  match isDark s (fieldOfCore r), mfind x.combine i with
  | false, some e =>
    if e.owner || !granted s r 6 e.msg.plane e.msg then s
    else ((moveOn r e.msg (setRouter r { x with combine := mdel x.combine i } s)).map (noteGrant r 6 e.msg.plane e.msg)).getD s
  | _, _ => s

/-- The first complete owner entry takes the ejection port when it is free: one arrival under R72, which names its entry. -/
def startDelivery (r : Nat) (s : State) : State :=
  match portFree s r, (routerAt s r).combine.find? fun e => e.2.leaving with
  | true, some e => updCore r (fun x => { x with eject := [{ e.2.msg with rentry := e.1 }] }) s
  | _, _ => s

/-- An owner entry takes its new sum; complete, it leaves (R192). -/
def ownerPut (r i : Nat) (m : Msg) (s : State) : State :=
  startDelivery r (setCombine r i ⟨true, m, m.count == m.total⟩ s)

/-- A REDUCE that disagrees with its owner entry is discarded and recorded (R193, R203). -/
def reduceMismatch (r port : Nat) (m : Msg) (s : State) : State :=
  fabEvent r 5 (if port ≤ 4 then port else 0) m E.reduceMismatch (countUp (pFab (fieldOfCore r)) 0x80C 15 0 1 s)

/-- Whether a head at router r is a REDUCE at its destination that needs a new owner entry. -/
def needsOwner (s : State) (r : Nat) (m : Msg) : Bool :=
  m.cls == .reduce && atData r m && !((routerAt s r).combine.any fun e => e.2.owner && e.2.msg.rtag == m.rtag)

/-- Whether a free combine entry is an input's to take: no input that waits for one too comes earlier in round-robin order (R192). -/
def ownerGranted (s : State) (r port : Nat) (plane : Bool) : Bool :=
  let me := qKey port plane
  let turns := fun k => (k + 43 - (routerAt s r).ownerTurn) % 22
  (List.range 22).all fun k =>
    k == me || decide (turns me < turns k)
      || (match headSoon s r (k / 2) (k % 2 == 1) with
        | some m => !needsOwner s r m
        | none => true)

/-- A REDUCE message at its destination router (R192, R193, R403). Behind a failed local link no core can take the sum (R199). -/
def reduceOwned (r port : Nat) (plane : Bool) (m : Msg) (s : State) : Option State :=
  let x := routerAt s r
  let t := popHead r port plane s
  if linkFailed s r 0 then some (dropMsg r 0 false m t)
  else if !fenceOwner s m.src (mfind s.owner r) then some (fenceRefusedAny (pFab (fieldOfCore r)) t)
  else match x.combine.find? fun e => e.2.owner && e.2.msg.rtag == m.rtag with
    | some e =>
      some (if canAdd e.2.msg m then countCombine r (ownerPut r e.1 (redSum e.2.msg m) t) else reduceMismatch r port m t)
    | none =>
      match ownerGranted s r port plane, freeIndex x.combine 8 with
      | true, some i =>
        let t := setRouter r { routerAt t r with ownerTurn := qKey port plane } t
        some (ownerPut r i (atWaypoint r m) t)
      | _, _ => none

/-- REDUCE_AT_OWNER (R192). DEDUCED, log 31. -/
def reduceAtOwner (r port : Nat) (plane : Bool) (s : State) : State :=
  onHead r port plane (fun m => m.cls == .reduce && atData r m && m.path.isEmpty) (reduceOwned r port plane) s

/-- The routers of a field that are not as after reset. -/
def routersOf (s : State) (f : Nat) : List Nat := (s.routers.filter fun e => fieldOfCore e.1 == f).map (·.1)

/-- FLUSH_REDUCE (R203): transit entries and incomplete owner entries are discarded and counted. -/
def flushReduce (f : Nat) (s : State) : State :=
  (routersOf s f).foldl (fun s r =>
    let x := routerAt s r
    let keep := x.combine.filter (·.2.leaving)
    setRouter r { x with combine := keep } (countUp (pFab f) 0x80C 31 16 (x.combine.length - keep.length) s)) s

/-- A write to a page of a dark field is discarded (R50); otherwise it acts. -/
def onPage (m : Master) (p off : Nat) (act : State → State) (s : State) : State :=
  viaBar m (fun s => if pageDark s p then dropUnassigned (masterId m) p off s else act s) s

/-- REDUCE_AT_ROUTER (R191) -/
def execReduceAtRouter (router : CoreRef) (port : Fin 11) (plane busy : Bool) (s : State) : Result :=
  .next (reduceAtRouter (coreId router) port.val plane busy s)
/-- TRANSIT_ENTRY_RELEASE (R191) -/
def execTransitEntryRelease (router : CoreRef) (entry : Fin 8) (s : State) : Result :=
  .next (transitRelease (coreId router) entry.val s)
/-- REDUCE_AT_OWNER (R192) -/
def execReduceAtOwner (router : CoreRef) (port : Fin 11) (plane : Bool) (s : State) : Result :=
  .next (reduceAtOwner (coreId router) port.val plane s)
/-- FLUSH_REDUCE (R203) -/
def execFlushReduce (m : Master) (field : Fin 80) (s : State) : Result :=
  .next (onPage m (pFab field.val) 0x800 (flushReduce field.val) s)

end Sys2Proof.Machine
end

