-- ==== Sys2Proof/Machine/Regions.lean ====
section
/-! DEFINITION. The regions of the stacks, and the fence at a stack (R222, R223, R225, R233, R403). -/

namespace Sys2Proof.Machine

open Sys2Proof

/-- Page +0 of stack n. -/
def pStack (n : Nat) : Nat := stackPage n 0
/-- Page +1 of stack n: its channels. -/
def pChan (n : Nat) : Nat := stackPage n 1

/-- Local address of an offset in the window of stack n (R206). -/
def stackAddr (n off : Nat) : Nat := stackBase + stackWin * n + off

/-- Whether the edge field of stack n is on (R222). -/
def stackOn (s : State) (n : Nat) : Bool := fieldSt s (stackField n) == .on
/-- Whether its request path and channels run: it is on and its controller does not restart (R516). -/
def stackRuns (s : State) (n : Nat) : Bool := stackOn s n && !restarts s 3 n

/-! ### Regions (R223, R225, R233) -/

/-- Whether a byte lies in valid region r of stack n. DESIGN CHOICE, log 34. -/
def inRegion (s : State) (n r off : Nat) : Bool :=
  let b := 2 ^ 20 * liveF s (pStack n) (0x40 + 16 * r) 16 0
  bit (live s (pStack n) (0x48 + 16 * r)) 31 && decide (b ≤ off)
    && decide (off < b + 2 ^ 20 * liveF s (pStack n) (0x44 + 16 * r) 16 0)

/-- The valid region that holds a byte. -/
def regionOf (s : State) (n off : Nat) : Option Nat := (List.range 32).find? fun r => inRegion s n r off

/-- KEY of a region: a tenant slot. -/
def regionKey (s : State) (n r : Nat) : Nat := liveF s (pStack n) (0x48 + 16 * r) 7 0
/-- WEIGHT of a region. -/
def regionWeight (s : State) (n r : Nat) : Bool := bit (live s (pStack n) (0x48 + 16 * r)) 30

/-- The region of an access, or why it fails (R223): outside every region, or beyond its region's end. DESIGN CHOICE, log 11. DESIGN CHOICE, log 34. -/
def accessRegion (s : State) (n off len : Nat) : Except Code Nat :=
  match regionOf s n off with
  | none => .error E.stackNoRegion
  | some r => if inRegion s n r (off + (len - 1)) then .ok r else .error E.lenOverrun

/-- Whether the fence lets a source reach a range of stack n (R403). -/
def fenceStack (s : State) (src n off : Nat) : Bool :=
  !srcIsCore src || (match tenantOfCore s src, regionOf s n off with
    | some t, some r => regionKey s n r == t
    | _, _ => false)

end Sys2Proof.Machine
end

