-- ==== Sys2Proof/Machine/ReadMerge.lean ====
section
/-! DEFINITION. Read service and read merging (R194 to R196, R203, R210). -/

namespace Sys2Proof.Machine

open Sys2Proof

/-- Sets a merge entry. -/
def setMerge (r i : Nat) (e : MergeEntry) (s : State) : State :=
  setRouter r { routerAt s r with merge := mput (routerAt s r).merge i e } s

/-- An open entry that a READ merges into: equal ADDR and RFLITS, with room for a requester (R194). -/
def openEntry (s : State) (r : Nat) (m : Msg) : Option (Nat × MergeEntry) :=
  if m.nomerge then none
  else (routerAt s r).merge.find? fun e =>
    e.2.accepting && e.2.addr == m.addr && e.2.rflits == m.rflits && decide (e.2.reqs.length < 8)

/-- The entry that a READ which finds no match opens. -/
def freeMerge (s : State) (r : Nat) (m : Msg) : Option Nat :=
  if m.nomerge then none else freeIndex (routerAt s r).merge 16

/-- A READ is absorbed (R195). DEDUCED, log 31. -/
def absorb (r : Nat) (e : Nat × MergeEntry) (m : Msg) (s : State) : State :=
  countUp (pFab (fieldOfCore r)) 0x814 31 0 1 (setMerge r e.1 { e.2 with reqs := e.2.reqs ++ [mergeReq m] } s)

/-- An entry opens with its first requester. -/
def openMerge (r i : Nat) (m : Msg) (reply : Option (List Byte)) (s : State) : State :=
  let x := routerAt s r
  setRouter r { x with merge := mput x.merge i ⟨m.addr, m.rflits, [mergeReq m], true, x.mergeNo, reply, r⟩, mergeNo := x.mergeNo + 1 } s

/-- A READ as it goes on behalf of a merge entry that has just opened. -/
def viaEntry (s : State) (r i : Nat) (m : Msg) : Msg :=
  { m with rcore := r, rvia := true, rentry := i, rnumber := (routerAt s r).mergeNo }

/-- Whether the fence lets a READ reach what it names (R403): a router at which READs merge checks as the destination does, each
holding a copy of the owner map (R402). -/
def readFenced (s : State) (m : Msg) : Bool :=
  match addrKind m.addr with
  | .stack n off => fenceStack s m.src n off
  | .core c _ => fenceOwner s m.src (mfind s.owner c)
  | _ => true

/-- Whether any bank of a range is in a mode. -/
def anyMode (x : Core) (q : Rng) (mode : Nat) : Bool := (List.range 12).any fun b => bankMode x b == mode && overlap ⟨false, 512 * b, 512⟩ q

/-- Core store data is read for a READ and answered, through a new entry where one is free (R195, R210, R213). DEDUCED, log 31. -/
def serveRead (r : Nat) (chk : StoreCheck) (m : Msg) (s : State) : State :=
  let off := m.addr % 0x40000
  let q := rngOf false off (32 * m.rflits)
  if anyMode (coreAt s r) q 2 then readRefused m E.addrUnbacked s
  else
    let t := readCheck r chk [q] s
    match t.2 with
    | some code => readRefused m code t.1
    | none =>
      let l := readMem t.1 m.addr (32 * m.rflits)
      match freeMerge t.1 r m with
      | some i => openMerge r i m (some l) t.1
      | none => injectEngine r (replyMsg m r l) t.1

/-- A READ at the core whose store holds its data: fenced, absorbed or served; it waits while the field is not on or a bank is
being cleared (R69, R195, R403, R441). -/
def readAtCore (r : Nat) (chk : StoreCheck) (m : Msg) (s : State) : Option State :=
  if fieldSt s (fieldOfCore r) != .on || (clearingBank (coreAt s r) (rngOf false (m.addr % 0x40000) (32 * m.rflits))).isSome
  then none
  else if linkFailed s r 0 then some (dropMsg r 0 false m s)
  else match openEntry s r m with
    | some e => some (absorb r e m s)
    | none => some (serveRead r chk m s)

/-- A READ at the edge router of the stack that holds its data. -/
def readAtEdge (r : Nat) (m : Msg) (s : State) : State :=
  match openEntry s r m with
  | some e => absorb r e m s
  | none =>
    match freeMerge s r m with
    | some i => deliver r (viaEntry s r i m) (openMerge r i m none s)
    | none => deliver r m s

/-- A READ at a field-entry router; none where it cannot move on now. -/
def readAtEntry (r : Nat) (m : Msg) (s : State) : Option State :=
  match openEntry s r m with
  | some e => some (absorb r e m s)
  | none =>
    match freeMerge s r m with
    | some i => moveOn r (viaEntry s r i m) (openMerge r i m none s)
    | none => moveOn r m s

/-- A READ at a merge point of router r, out of its input: fenced, then absorbed, opened, served or passed on. -/
def readMerges (r port : Nat) (plane : Bool) (chk : StoreCheck) (m0 : Msg) (s : State) : Option State :=
  let m := atWaypoint r m0
  let t := popHead r port plane s
  if !readFenced s m then some (readRefused m E.fenceViolation (fenceRefusedAny (pFab (fieldOfCore r)) t))
  else if atData r m0 then
    if m.dport = 0 then readAtCore r chk m t
    else if linkFailed s r m.dport then some (dropMsg r m.dport false m t)
    else if (stackOfEdge r m.dport).isNone then some (deliver r m t)
    else some (readAtEdge r m t)
  else readAtEntry r m t

/-- READ_AT_MERGE_POINT (R195). DEDUCED, log 31. -/
def readAtMergePoint (r port : Nat) (plane : Bool) (chk : StoreCheck) (s : State) : State :=
  onHead r port plane (fun m => m.path.isEmpty && atMergePoint r m) (readMerges r port plane chk) s

/-- MERGE_ENTRY_CLOSE (R194): the entry accepts no further READ. -/
def mergeClose (r i : Nat) (s : State) : State :=
  match mfind (routerAt s r).merge i with
  | some e => setMerge r i { e with accepting := false } s
  | none => s

/-- READ_REPLY_FANOUT (R195): one copy per stored requester, in the order they were stored, through the fan-out path one after
the other; after the last the entry frees. -/
def fanout (r i : Nat) (s : State) : State :=
  let x := routerAt s r
  match isDark s (fieldOfCore r), mfind x.merge i with
  | false, some e =>
    if e.reply.isSome && !x.fan.contains i then
      fanNext r (setRouter r { x with merge := mput x.merge i { e with accepting := false }, fan := x.fan ++ [i] } s)
    else s
  | _, _ => s

/-- FLUSH_MERGE (R203): every read-merge entry of the field is discarded. -/
def flushMerge (f : Nat) (s : State) : State :=
  (routersOf s f).foldl (fun s r => setRouter r { routerAt s r with merge := [], fan := [] } s) s

/-- READ_AT_MERGE_POINT (R195) -/
def execReadAtMergePoint (router : CoreRef) (port : Fin 11) (plane : Bool) (check : StoreCheck) (s : State) : Result :=
  .next (readAtMergePoint (coreId router) port.val plane check s)
/-- MERGE_ENTRY_CLOSE (R194) -/
def execMergeEntryClose (router : CoreRef) (entry : Fin 16) (s : State) : Result :=
  .next (mergeClose (coreId router) entry.val s)
/-- READ_REPLY_FANOUT (R195) -/
def execReadReplyFanout (router : CoreRef) (entry : Fin 16) (s : State) : Result :=
  .next (fanout (coreId router) entry.val s)
/-- FLUSH_MERGE (R203) -/
def execFlushMerge (m : Master) (field : Fin 80) (s : State) : Result :=
  .next (onPage m (pFab field.val) 0x800 (flushMerge field.val) s)

end Sys2Proof.Machine
end

