-- ==== Sys2Proof/Machine/Unit.lean ====
section
/-! DEFINITION. Unit instructions at issue: MVD, MMA, MMAX, CVT, QCF and TOPK, unit entries, places and heavy-unit permits
(R119 to R126, R143, R144, R148, R154, R173, R247, R248). -/

namespace Sys2Proof.Machine

open Sys2Proof

/-! ### Places -/

/-- The entries of a unit, in issue order. -/
def unitsOfKind (x : Core) (u : UnitKind) : List UnitEntry := x.units.filter (·.kind == u)

/-- Whether an entry still holds a place of the MV path or the edge converter. -/
def inPlace (u : UnitEntry) : Bool := u.phase == .queued || u.phase == .running

/-- Whether an entry still holds a place of the array (R148). -/
def inArray (u : UnitEntry) : Bool :=
  u.kind == .array && (u.phase == .queued || u.phase == .running || u.phase == .staged || u.phase == .streaming)

/-- Staging buffers in use (R148). -/
def buffersUsed (x : Core) : Nat :=
  (x.units.filter fun u => u.kind == .array && (u.phase == .running || u.phase == .staged || u.phase == .streaming)).length

/-- A new entry (R119). -/
def newEntry (k : Iss) (kind : UnitKind) (uses : List Use) (dst : List Use) (vals : List DWord) : UnitEntry :=
  { id := k.x.nextId, kind := kind, phase := .queued, thread := k.t, pc := k.pc, word := k.word,
    srcs := (uses.filter fun u => !u.write).map useRng, dst := dst.map useRng, dstTagged := dst.any (·.h.tagged),
    addrs := uses.map fun u => u.h.base + u.off, vals := vals, sums := [], data := [], lanes := [], writes := [], active := false,
    again := false, checked := 0 }

/-- The entry is taken. The detector sees its operand reads (R253). -/
def entryTaken (k : Iss) (e : UnitEntry) (reads : List Use) (s : State) : State :=
  hdRead k.c k.t k.pc.toNat k.cycle.toNat (reads.map useRng)
    (updCore k.c (fun x => { x with units := x.units ++ [e], nextId := x.nextId + 1 }) s)

/-- The entry is taken and the instruction issues. -/
def takeEntry (k : Iss) (e : UnitEntry) (reads : List Use) (s : State) : IRes := .done (entryTaken k e reads s) (pcNext k)

/-- Changes the entry with a number. -/
def updUnit (id : Nat) (f : UnitEntry → UnitEntry) (x : Core) : Core :=
  { x with units := x.units.map fun u => if u.id = id then f u else u }

/-- The first entry of a unit in a phase. DEDUCED, log 10. -/
def unitIn (x : Core) (kind : UnitKind) (ph : UPhase) : Option UnitEntry :=
  x.units.find? fun u => u.kind == kind && u.phase == ph

/-- Whether all 8 unit entries are in use (R119). -/
def entriesFull (k : Iss) : Bool := decide (8 ≤ k.x.units.length)

/-! ### MVD -/

/-- The weight format of an MVD, MMA or MMAX field. -/
def wFmt (c : Nat) : Fmt := if c = 0 then .w4i else if c = 1 then .w4f else if c = 2 then .w3i else .w2t

/-- Formats of an MVD word. -/
def mvdFmts (w : DWord) : Fmt × Fmt := (wFmt (bits w 52 50), if bit w 49 then .a8f else .a8i)

/-- Cached bytes from an offset in the stacks, up to the first absent line, at most `n`. DESIGN CHOICE, log 26. -/
def cacheRun (x : Core) (a : Nat) : Nat → List Byte
  | 0 => []
  | n + 1 =>
    match mfind x.cache (a / 256) with
    | some e => e.data.getD (a % 256) 0 :: cacheRun x (a + 1) n
    | none => []

/-- The lines of n bytes from an offset in the stacks. -/
def linesOf (a n : Nat) : List Nat := if n = 0 then [] else (List.range ((a + n - 1) / 256 + 1 - a / 256)).map (a / 256 + ·)

/-- A unit requests the lines that a stack operand still needs while the miss table has room (R144). -/
def requestAhead (c a n : Nat) (s : State) : State :=
  ((linesOf a n).take 8).foldl (fun s l =>
    let x := coreAt s c
    if (mfind x.cache l).isSome || x.misses.any (·.line == l) || decide (8 ≤ x.misses.length) then s
    else requestLine c l s) s

/-- Weight bytes of an MVD. -/
def mvdBytes (u : UnitEntry) : Nat := (u.vals.getD 0 0).toNat / 32 * groupBytes (mvdFmts u.word).1

/-- The MVD on the path takes the weight bytes whose lines are present, in order, and requests the next lines ahead of its stream
(R144). -/
def streamAhead (c : Nat) (s : State) : State :=
  let x := coreAt s c
  match unitIn x .mv .running with
  | some u =>
    if u.srcs.any (·.stack) then
      let have_ := u.data.headD []
      let a := u.addrs.getD 0 0
      let run := have_ ++ cacheRun x (a + have_.length) (mvdBytes u - have_.length)
      requestAhead c (a + run.length) (mvdBytes u - run.length)
        (updCore c (fun x => touchLines (linesOf (a + have_.length) (run.length - have_.length))
          (updUnit u.id (fun u => { u with data := [run] }) x)) s)
    else s
  | none => s

/-- Operands of an MVD: weights, activations (R120). -/
def mvdUses (k : Iss) : List Use :=
  let n := fn k 26 22
  [useRead (fh k 48 43) (fn k 36 32) (n / 32 * groupBytes (wFmt (fw k 52 50))),
   useRead (fh k 42 37) (fn k 31 27) (n + n / 32)]

/-- The checks of an MVD (R108, R120, R144). -/
def mvdCheck (k : Iss) : Option Code :=
  match firstSome [handleChk (fh k 48 43) true false [0, 1, 2] false, handleChk (fh k 42 37) true false [0, 1] false] with
  | some c => some c
  | none => firstFail [
      (fn k 26 22 % 32 != 0 || fn k 36 32 % 32 != 0 || fn k 31 27 % 32 != 0 || (mvdUses k).any tagAlign, E.alignFault),
      ((mvdUses k).any overrun, E.lenOverrun)]

/-- MVD (R120, R143): K = 0 is a no-op; held while the accumulator is pending, both places are taken or no entry is free. -/
def mvdBody (k : Iss) (s : State) : IRes :=
  match mvdCheck k with
  | some c => .fault c s
  | none =>
    if fn k 26 22 = 0 then .done s (pcNext k)
    else if accPending k (fw k 55 54) then .held s
    else match gateLines k.c (mvdUses k) [] s with
      | some w => .block w.1 w.2
      | none =>
        let there := (unitsOfKind k.x .mv).filter inPlace
        if entriesFull k || decide (2 ≤ there.length) then .held s
        else
          let e := newEntry k .mv (mvdUses k) [] [fs k 26 22]
          let e := { e with phase := if there.isEmpty then .running else .queued }
          .done (streamAhead k.c (entryTaken k e (mvdUses k) s)) (pcNext k)

/-! ### Permits (R247, R248) -/

/-- The heavy quota page of a field. -/
def pHq (f : Nat) : Nat := fieldPage f 11

/-- The effective quota (R248). DEDUCED, log 27. -/
def effQuota (s : State) (f : Nat) : Nat := Nat.min (liveF s (pHq f) 0x40 11 0) (liveF s (pHq f) 0x60 11 0)

/-- A core of the field receives a permit; HQ_PEAK follows. -/
def grantPermit (c : Nat) (s : State) : State :=
  let f := fieldOfCore c
  let u := unitsOf s f
  let u' := { u with permits := insertAsc c u.permits, quotaQ := without c u.quotaQ }
  let s := setUnits f u' s
  setLiveF (pHq f) 0x800 11 0 (Nat.max (liveF s (pHq f) 0x800 11 0) u'.permits.length) s

/-- Permits go to waiting cores in the order of their requests; their threads wake (R247). DEDUCED, log 27. -/
def grantWaiting (f : Nat) : Nat → State → State
  | 0, s => s
  | n + 1, s =>
    match (unitsOf s f).quotaQ with
    | [] => s
    | c :: _ =>
      if (unitsOf s f).permits.length < effQuota s f then
        grantWaiting f n (updCore c (meetWaits fun w => w == .quota) (grantPermit c s))
      else s

/-- Grants whatever the quota allows. DEDUCED, log 27. -/
def grantAll (f : Nat) (s : State) : State := grantWaiting f (unitsOf s f).quotaQ.length s

/-- A core gives its permit back. -/
def releasePermit (c : Nat) (s : State) : State :=
  let f := fieldOfCore c
  let u := unitsOf s f
  if u.permits.contains c then grantAll f (setUnits f { u with permits := without c u.permits } s) else s

/-- A core without a permit requests one (R247): granted, its thread is held; otherwise it waits. DEDUCED, log 27. -/
def requestPermit (k : Iss) (s : State) : IRes :=
  let f := fieldOfCore k.c
  let u := unitsOf s f
  if u.permits.length < effQuota s f then .held (grantPermit k.c s)
  else
    let s := if u.quotaQ.contains k.c then s else setUnits f { u with quotaQ := u.quotaQ ++ [k.c] } s
    let v := live s (pHq f) 0x804
    .block .quota (setLive (pHq f) 0x804 (if v = 0xFFFFFFFF then v else v + 1) s)

/-! ### MMA and MMAX -/

/-- Bytes of the weight tile, the activation tile and the output (R121, R122). -/
def arraySizes (k : Iss) : Nat × Nat × Nat :=
  if fw k 63 56 = 0x61 then (544, if fw k 18 17 = 0 then 544 else 1056, 4096)
  else if fw k 16 15 = 0 then (1056, 1056, 4096) else (1088, 1088, 8192)

/-- Passes of an array instruction word (R145, R150, R151). -/
def arrayPasses (w : DWord) : Nat :=
  if bits w 63 56 = 0x61 then (if bits w 18 17 = 0 then 1 else 2) else if bits w 16 15 = 0 then 4 else 3

/-- Whether an array instruction word accumulates. -/
def arrayAcc (w : DWord) : Bool := bit w 22

/-- Operands of an array instruction: weights, activations, output. -/
def arrayUses (k : Iss) : List Use :=
  let z := arraySizes k
  let acc := arrayAcc k.word
  [useRead (fh k 55 50) (fn k 49 45) z.1, useRead (fh k 44 39) (fn k 38 34) z.2.1,
   ⟨fh k 33 28, fn k 27 23, z.2.2, true, some acc, !acc⟩]

/-- The checks of an array instruction (R108, R121, R144, R154). -/
def arrayCheck (k : Iss) : Option Code :=
  match firstSome [handleChk (fh k 55 50) true false [0, 1] false, handleChk (fh k 44 39) true false [0, 1] false,
      handleChk (fh k 33 28) (arrayAcc k.word) true [0, 1] false] with
  | some c => some c
  | none => firstFail [
      (fn k 49 45 % 32 != 0 || fn k 38 34 % 32 != 0 || fn k 27 23 % 32 != 0, E.alignFault),
      ((arrayUses k).any overrun, E.lenOverrun),
      (bit k.x.arrayStat 63, E.arrayCheckFail)]

/-- MMA and MMAX: the core's permit first (R247), then what the operands wait for; held while both places are taken, a
re-execution waits or no entry is free. -/
def arrayBody (k : Iss) (s : State) : IRes :=
  match arrayCheck k with
  | some c => .fault c s
  | none =>
    if !(unitsOf s (fieldOfCore k.c)).permits.contains k.c then requestPermit k s
    else match gate k.c (arrayUses k) s with
    | some w => .block w.1 w.2
    | none =>
      let there := k.x.units.filter inArray
      if there.any (fun u => u.again && !u.active) || decide (2 ≤ there.length) || entriesFull k then .held s
      else
        let uses := arrayUses k
        let e := newEntry k .array uses (uses.drop 2) []
        let e := if arrayAcc k.word then { e with srcs := uses.map useRng, dstTagged := false } else e
        let stage := decide (buffersUsed k.x < 2) && !there.any (·.phase == .running)
        takeEntry k { e with active := there.isEmpty, phase := if stage then .running else .queued }
          (uses.take (if arrayAcc k.word then 3 else 2)) s

/-! ### The edge converter -/

/-- Source and destination formats of CVT and QCF. -/
def cvtFmts (w : DWord) : Fmt × Fmt := ((fmtOf (bits w 28 25)).getD .f32, (fmtOf (bits w 24 21)).getD .f32)

/-- Whether an instruction word is a QCF. -/
def isQcf (w : DWord) : Bool := bits w 63 56 == 0x69

/-- The format pair of CVT or QCF is rejected (R124, R125). -/
def fmtPairBad (w : DWord) : Bool :=
  let f := cvtFmts w
  if isQcf w then !fmtWide f.1 || !(f.2 == .a8f || f.2 == .a8i || f.2 == .a4i || f.2 == .w4i)
  else !fmtWide f.1 && !fmtWide f.2

/-- A destination range: entirely empty at issue where tagged (R119). -/
def useDst (h : HView) (off len : Nat) : Use := ⟨h, off, len, true, some false, true⟩

/-- Operands of CVT and QCF: source, destination and, for QCF, residuals as source and destination. -/
def cvtUses (k : Iss) : List Use :=
  let f := cvtFmts k.word
  let n := fn k 33 29
  [useRead (fh k 55 50) (fn k 49 45) (fmtBytes f.1 n), useDst (fh k 44 39) (fn k 38 34) (fmtBytes f.2 n)]
    ++ if isQcf k.word then
      [useRead (fh k 15 10) (fn k 9 5) (2 * n), ⟨fh k 15 10, fn k 9 5, 2 * n, true, none, false⟩] else []

/-- The checks of CVT and QCF (R108, R124, R125). -/
def cvtCheck (k : Iss) : Option Code :=
  let f := cvtFmts k.word
  let q := isQcf k.word
  let hr := fh k 15 10
  if fmtPairBad k.word then some E.fmtPairInvalid
  else match firstSome [handleChk (fh k 55 50) true false [0, 1, 2] false, handleChk (fh k 44 39) false true [0, 1, 2] false,
      if q then handleChk hr true true [1] false else none, if q && hr.tagged then some E.handleClass else none] with
    | some c => some c
    | none => firstFail [
        (fn k 49 45 % 32 != 0 || fn k 38 34 % 32 != 0 || (q && fn k 9 5 % 32 != 0)
          || ((!fmtWide f.1 || !fmtWide f.2) && fn k 33 29 % 32 != 0) || (cvtUses k).any tagAlign, E.alignFault),
        (allOnes (fs k 33 29), E.reservedValue),
        ((cvtUses k).any overrun, E.lenOverrun)]

/-- Operands of TOPK: input, output (R126). -/
def topkUses (k : Iss) : List Use :=
  [useRead (fh k 55 50) (fn k 49 45) ((if fw k 18 18 = 1 then 8 else 4) * fn k 33 29),
   useDst (fh k 44 39) (fn k 38 34) (8 * fn k 28 24)]

/-- The checks of TOPK: counts before the ranges that they size (R126). -/
def topkCheck (k : Iss) : Option Code :=
  let n := fs k 33 29
  let c := fs k 28 24
  match firstSome [handleChk (fh k 55 50) true false [0, 1, 2] false, handleChk (fh k 44 39) false true [0, 1, 2] false] with
  | some e => some e
  | none => firstFail [
      ((topkUses k).any tagAlign, E.alignFault),
      (allOnes n, E.reservedValue), (decide (65536 < n.toNat), E.countOverrun),
      (allOnes c, E.reservedValue), (decide (1024 < c.toNat) || decide (n.toNat < c.toNat), E.countOverrun),
      (allOnes (fs k 49 45), E.reservedValue), ((topkUses k).take 1 |>.any overrun, E.lenOverrun),
      (allOnes (fs k 38 34), E.reservedValue), ((topkUses k).any overrun, E.lenOverrun)]

/-- The edge converter takes an instruction (R173): a source behind the cache is read at issue. -/
def edgeTake (k : Iss) (uses : List Use) (vals : List DWord) (s : State) : IRes :=
  let src := uses.filter fun u => !u.write
  match gateLines k.c uses (src.flatMap useLines) s with
  | some w => .block w.1 w.2
  | none =>
    let there := (unitsOfKind k.x .edge).filter inPlace
    if entriesFull k || decide (2 ≤ there.length) then .held s
    else
      let e := newEntry k .edge uses (uses.filter (·.write)) vals
      let e := { e with phase := if there.isEmpty then .running else .queued }
      let cached := src.filter (·.h.cls == 2)
      if cached.isEmpty then takeEntry k e src s
      else withReads k cached s fun s => takeEntry k { e with data := cached.map fun u => useBytes k.c u s } src s

/-- CVT and QCF (R124, R125): N = 0 is a no-op. -/
def cvtBody (k : Iss) (s : State) : IRes :=
  match cvtCheck k with
  | some c => .fault c s
  | none => if fn k 33 29 = 0 then .done s (pcNext k) else edgeTake k (cvtUses k) [fs k 33 29, fs k 20 16] s

/-- TOPK (R126): K = 0 is a no-op. -/
def topkBody (k : Iss) (s : State) : IRes :=
  match topkCheck k with
  | some c => .fault c s
  | none =>
    if fn k 28 24 = 0 then .done s (pcNext k) else edgeTake k (topkUses k) [fs k 33 29, fs k 28 24, fs k 23 19] s

/-- MVD (R120) -/
def execMvd (i : Issue) (s : State) : Result := .next (issue 0x60 i mvdBody s)
/-- MMA (R121) -/
def execMma (i : Issue) (s : State) : Result := .next (issue 0x61 i arrayBody s)
/-- MMAX (R122) -/
def execMmax (i : Issue) (s : State) : Result := .next (issue 0x62 i arrayBody s)
/-- CVT (R124) -/
def execCvt (i : Issue) (s : State) : Result := .next (issue 0x68 i cvtBody s)
/-- QCF (R125) -/
def execQcf (i : Issue) (s : State) : Result := .next (issue 0x69 i cvtBody s)
/-- TOPK (R126) -/
def execTopk (i : Issue) (s : State) : Result := .next (issue 0x6A i topkBody s)

end Sys2Proof.Machine
end

