-- ==== Sys2Proof/Machine/Arrival.lean ====
section
/-! DEFINITION. Arrivals at a core, its cache's fills and write-backs, bank clearing and the sparge (R69, R72, R89, R90, R192,
R210, R215, R217). -/

namespace Sys2Proof.Machine

open Sys2Proof

/-! ### Arrivals (R72, R210) -/

/-- What becomes of the arrival at the head of a core's ejection port. -/
inductive Landing where
  | write | wait | discard (c : Code)
  deriving DecidableEq, Repr

/-- The slots of an arrival. -/
def arrivalRng (m : Msg) : Rng := rngOf false (m.addr % 0x40000) m.payload.length

/-- An arrival by the mode of the banks it addresses and, where tagged, by their tags. -/
def landing (x : Core) (m : Msg) : Landing :=
  let r := arrivalRng m
  if m.tag && (anyMode x r 0 || anyMode x r 2) then .discard E.tagMode
  else if anyMode x r 2 then .discard E.addrUnbacked
  else if (clearingBank x r).isSome || (m.tag && !allEmpty x r) then .wait
  else .write

/-- The arrival leaves the port; a REDUCE delivery frees its owner entry and the next one starts (R192). -/
def arrivalDone (c : Nat) (m : Msg) (s : State) : State :=
  let s := updCore c (fun x => { x with eject := x.eject.drop 1 }) s
  let s := if m.cls = .reduce then
      setRouter c { routerAt s c with combine := mdel (routerAt s c).combine m.rentry } s
    else s
  startDelivery c s

/-- Whether a message brings the data of a GET of core c, which its own scoreboard orders (R253). -/
def ownGet (c : Nat) (o : Origin) : Bool :=
  match o with
  | .desc d _ => d == c
  | _ => false

/-- Whether an arrival sets the tags of its slots: a tagged one, and CONTENT with FULL (R72, R238). -/
def setsTags (m : Msg) : Bool :=
  m.tag || (match m.origin with
    | .fcu _ full => full
    | _ => false)

/-- The bytes are written: tags set where tagged, the hazard detector's watches where not, then the notification (R72, R183,
R253). -/
def arrivalWrite (c : Nat) (m : Msg) (s : State) : State :=
  let r := arrivalRng m
  let s := writeMem (coreAddr c (m.addr % 0x40000)) m.payload s
  let s := if setsTags m then updCore c (setFull r) s else if ownGet c m.origin then s else hdOutsideWrite c r s
  landed m.origin m.payload.length (sendNotify c c m.notify m.tally s)

/-- A discarded arrival (R72, R210): TAG_MODE is recorded in DMA_ERR; the requester gets a notice, but for a reduction. DEDUCED, log 31. -/
def arrivalDiscard (c : Nat) (m : Msg) (code : Code) (s : State) : State :=
  let s := if code = E.tagMode then recordDma c code true 0 m.addr s else s
  if m.cls = .reduce then s else notify m.origin code m.addr s

/-- Whether an arrival answers a read of a core that it no longer serves: its descriptor is gone with the core's last owner (R405).
DEDUCED, log 39. -/
def answersGone (s : State) (c : Nat) (o : Origin) : Bool :=
  match o with
  | .desc d id => d == c && !(coreAt s c).dmq.any (·.id == id)
  | .rdm d _ _ => d == c && (mfind s.owner c).isNone
  | _ => false

/-- FABRIC_ARRIVAL (R72): the message at the local ejection port is fenced, then written, discarded, or waits. -/
def fabricArrival (c : Nat) (s0 : State) : State :=
  let s := startDelivery c s0
  if fieldSt s (fieldOfCore c) != .on then s
  else match (coreAt s c).eject with
    | [] => s
    | m :: _ =>
      if answersGone s c m.origin then arrivalDone c m s
      else if !fenceOwner s m.src (mfind s.owner c) then
        let s := arrivalDone c m (fenceRefusedAny (pFab (fieldOfCore c)) s)
        if m.cls = .reduce then s else notify m.origin E.fenceViolation m.addr s
      else match landing (coreAt s c) m with
        | .wait => s
        | .write => arrivalDone c m (arrivalWrite c m s)
        | .discard code => arrivalDone c m (arrivalDiscard c m code s)

/-! ### The cache (R89, R90, R215) -/

/-- Sets of a core's cache. -/
def cacheSets (x : Core) : Nat := 16 * cacheBanks x

/-- Where a line is filled: its set, the sets going to the cache banks in ascending order, 16 to a bank (R89). DESIGN CHOICE, log 26. -/
def linePlace (x : Core) (line : Nat) : Nat × Nat :=
  let k := line % cacheSets x
  ((cacheBankList x).getD (k / 16) 8, k % 16)

/-- The lines that lie in a line's set. DESIGN CHOICE, log 26. -/
def setLines (x : Core) (line : Nat) : List (Nat × CacheLine) :=
  x.cache.filter fun e => (e.2.bank, e.2.row) == linePlace x line

/-- The line that a fill replaces: the least recently used of a full set. DESIGN CHOICE, log 26. -/
def victim (x : Core) (line : Nat) : Option (Nat × CacheLine) :=
  match setLines x line with
  | [] => none
  | e :: l => if 4 ≤ l.length + 1 then some (l.foldl (fun b a => if a.2.used < b.2.used then a else b) e) else none

/-- The miss table entry of a line frees: the threads that await only lines now present, or an entry, are met. -/
def missEnds (line : Nat) (x : Core) : Core :=
  let left := x.misses.filter (·.line != line)
  meetWaits (fun w => match w with
    | .miss ls => ls.all fun l => !left.any (·.line == l)
    | _ => false) { x with misses := left }

/-- A line that has arrived is installed in place of a clean or free way, and its waiters are released (R90). DESIGN CHOICE, log 26. -/
def installLine (c line : Nat) (s : State) : State :=
  let x := coreAt s c
  match coreRuns s c, x.misses.find? (·.line == line) with
  | true, some ⟨_, some l⟩ =>
    if cacheBanks x = 0 then setCore c (missEnds line x) s
    else
      let put := fun (x : Core) => missEnds line
        { x with cache := mput x.cache line ⟨false, x.useStamp + 1, l, (linePlace x line).1, (linePlace x line).2⟩, useStamp := x.useStamp + 1 }
      match victim x line with
      | none => setCore c (put x) s
      | some v => if v.2.dirty then s else setCore c (put (dropLine v.1 x)) s
  | _, _ => s

/-- CACHE_MISS_FILL (R90); an MVD that streams through the cache goes on to its next lines (R144). -/
def missFill (c line : Nat) (s : State) : State := streamAhead c (installLine c line s)

/-- The dirty line that a fill which has arrived must replace. -/
def writebackDue (x : Core) : Option (Nat × CacheLine) :=
  firstSome (x.misses.map fun q =>
    if q.reply.isNone then none
    else match victim x q.line with
      | some v => if v.2.dirty then some v else none
      | none => none)

/-- The message that writes a line back to its stack. -/
def lineMsg (c line : Nat) (o : Origin) (l : List Byte) : Msg :=
  towardAddr (stackBase + 256 * line) { msgNull with cls := .data, src := c, payload := l, origin := o }

/-- The lasting errors of a check, each of which loses a dirty line whose write-back reads it (R215). -/
def lostHits (k : StoreCheck) : StoreCheck := k.filter fun h => match h with
  | .failed _ _ => true
  | _ => false

/-- A dirty line lost at write-back: recorded, dropped without write-back, its code in DMA_ERR (R211, R215). -/
def loseLine (c line : Nat) (h : StoreHit) (s : State) : State :=
  let s := updCore c (fun x => dropLine line (storeLast 6 (hitSlot h) (statUp 0 x))) s
  report E.cacheLineLost 0 c (recordDma c E.cacheLineLost true 0 (256 * line) s)

/-- CACHE_WRITEBACK (R90): a dirty line that is to be replaced is written back before its place is reused. -/
def writeback (c : Nat) (k : StoreCheck) (s : State) : State :=
  match coreRuns s c, writebackDue (coreAt s c) with
  | true, some v =>
    match lostHits k with
    | h :: _ => loseLine c v.1 h s
    | [] => injectEngine c (lineMsg c v.1 (.wback c v.1) v.2.data) (updCore c (dropLine v.1) s)
  | _, _ => s

/-! ### Bank clearing and the sparge -/

/-- BANK_CLEAR_DONE (R69) -/
def bankClearDone (c b : Nat) (s : State) : State :=
  updCore c (fun x => meetWaits (fun w => w == .bankClear b) { x with clearing := without b x.clearing }) s

/-- What the sparge finds in a codeword of slot P (R213, R217, R218): corrected, or reported with no reader. -/
def spargeFinds (c p : Nat) (k : Codeword) (s : State) : State :=
  match k with
  | .clean => s
  | .corrected => updCore c (fun x => storeLast 1 p (statUp 48 x)) s
  | .failed => report E.storeUncorrectable 0 c (updCore c (fun x => storeLast 5 p (statUp 16 x)) s)

/-- SPARGE_VISIT (R217) -/
def spargeVisit (c : Nat) (low high : Codeword) (s : State) : State :=
  if fieldSt s (fieldOfCore c) != .on then s
  else
    let p := (coreAt s c).sparge
    let s := if bankMode (coreAt s c) (bankOf p) = 0 then spargeFinds c p high (spargeFinds c p low s) else s
    updCore c (fun x => { x with sparge := (p + 1) % 6144 }) s

/-- FABRIC_ARRIVAL (R72) -/
def execFabricArrival (c : CoreRef) (s : State) : Result := .next (fabricArrival (coreId c) s)
/-- CACHE_MISS_FILL (R90) -/
def execCacheMissFill (c : CoreRef) (line : Nat) (s : State) : Result := .next (missFill (coreId c) line s)
/-- CACHE_WRITEBACK (R90) -/
def execCacheWriteback (c : CoreRef) (check : StoreCheck) (s : State) : Result := .next (writeback (coreId c) check s)
/-- BANK_CLEAR_DONE (R69) -/
def execBankClearDone (c : CoreRef) (bank : Fin 12) (s : State) : Result := .next (bankClearDone (coreId c) bank.val s)
/-- SPARGE_VISIT (R217) -/
def execSpargeVisit (c : CoreRef) (low high : Codeword) (s : State) : Result := .next (spargeVisit (coreId c) low high s)

end Sys2Proof.Machine
end

