-- ==== Sys2Proof/Machine/Txn.lean ====
section
/-! DEFINITION. Transaction groups (R57 to R64, R525, R526): allocation, enrolment, arming, ending and release. -/

namespace Sys2Proof.Machine

open Sys2Proof

/-- A group after reset. -/
def groupReset : Group :=
  { st := .free, res := .pending, page := 0, darkSeen := false, code := 0, commit := 0, isNow := false, pages := [],
    rejected := [] }

/-- Group g. -/
def grp (s : State) (g : Nat) : Group := mget groupReset s.groups g

/-- Sets group g. -/
def setGrp (g : Nat) (x : Group) (s : State) : State := { s with groups := mset groupReset s.groups g x }

/-- The page of the transaction controller. -/
def pTxn : Nat := 0xC

/-- The group in which a page is enrolled. -/
def pageGroup (s : State) (p : Nat) : Option Nat := (s.groups.find? fun e => e.2.pages.contains p).map (·.1)

/-- The group a master has selected, and NONE. -/
def sel (s : State) (m : Master) : Nat × Bool := mget (0, false) s.groupSel (masterId m)

/-- Sets a master's selection. -/
def setSel (m : Master) (x : Nat × Bool) (s : State) : State :=
  { s with groupSel := mset (0, false) s.groupSel (masterId m) x }

/-- Whether a group is validating, armed or irrevocable. -/
def groupBusy (g : Group) : Bool := g.st == .validating || g.st == .armed || g.st == .irrevocable

/-- Whether a page is enrolled in a group that is validating, armed or irrevocable (R54). -/
def pageLocked (s : State) (p : Nat) : Bool :=
  match pageGroup s p with
  | some g => groupBusy (grp s g)
  | none => false

/-- PSTATE of a page (R51). -/
def pstate (s : State) (p : Nat) : Nat :=
  match pageGroup s p with
  | none => 0
  | some g =>
    let x := grp s g
    match x.st with
    | .validating => 2
    | .armed | .irrevocable => 3
    | .done => if x.rejected.contains p then 4 else 1
    | _ => 1

/-- The code that TXN_RESULT_CODE holds for a result that has one of its own (R526). -/
def resultCode : GResult → Code
  | .late => E.late | .beatLost => E.beatLost | .pageLost => E.pageLost | .nowRefused => E.nowRefused
  | _ => 0

/-- A group ends without taking effect: DONE, and the shadows of its pages reloaded from live (R53). -/
def endGroup (g : Nat) (r : GResult) (page : Nat) (c : Code) (s : State) : State :=
  let x := grp s g
  setGrp g { x with st := .done, res := r, page := page, code := c } (x.pages.foldl (fun s p => reloadPage p s) s)

/-- A group ends with a result of R526 that has its own code. -/
def endPlain (g : Nat) (r : GResult) (s : State) : State := endGroup g r 0 (resultCode r) s

/-- The transaction controller records TXN_GROUP_STATE (R64). -/
def txnState (s : State) : State := recordErrAny pTxn E.txnGroupState s

/-- The lowest-numbered FREE group below `n` from `g` on. -/
def lowestFree (s : State) : Nat → Nat → Option Nat
  | 0, _ => none
  | k + 1, g => if (grp s g).st = .free then some g else lowestFree s k (g + 1)

/-- ALLOC (R57 step 1): the lowest FREE group becomes OPEN and selected; only the MC is given groups 60 to 63. -/
def allocGroup (m : Master) (s : State) : State :=
  match lowestFree s (if m = .mc then 64 else 60) 0 with
  | some g => setSel m (g, false) (setGrp g { groupReset with st := .opened } s)
  | none => setSel m ((sel s m).1, true) s

/-- BLK_TXN written with ENROL 1 (R57 step 2): the page is checked first, then the group. -/
def enrol (m : Master) (p g : Nat) (s : State) : State :=
  if !pageAssigned p || pageDark s p then dropUnassigned (masterId m) p 0x18 s
  else if p = pTxn then recordErrAny p E.txnPageBusy s
  else
    let old := pageGroup s p
    let busy := match old with
      | some h => decide ((grp s h).st ≠ GState.done)
      | none => false
    if busy then recordErrAny p E.txnPageBusy s
    else if (grp s g).st ≠ GState.opened then recordErrAny p E.txnGroupState s
    else
      let s := match old with
        | some h => setGrp h { grp s h with pages := without p (grp s h).pages } s
        | none => s
      setLive p 0x18 (BitVec.ofNat 32 (0x80000000 + g))
        (setGrp g { grp s g with pages := insertAsc p (grp s g).pages } s)

/-- BLK_TXN written with ENROL 0 and a GROUP (R51, R54, R57 step 2). -/
def withdraw (m : Master) (p g : Nat) (s : State) : State :=
  if !pageAssigned p || pageDark s p then dropUnassigned (masterId m) p 0x18 s
  else if p = pTxn then s
  else if pageLocked s p then recordErrAny p E.txnShadowLocked s
  else
    setLive p 0x18 (BitVec.ofNat 32 g) (match pageGroup s p with
      | some h => setGrp h { grp s h with pages := without p (grp s h).pages } s
      | none => s)

/-- The current beat of a LATE comparison: BEAT_NOW (R57 step 3). -/
def beatNow (s : State) : Beat := s.beat.now

/-- Whether an arm comes too late (R57 steps 3 and 4): the commit beat c has passed, or it is the next beat of a LOCKED unit, whose
tick c − 1 validation can no longer precede. DEDUCED, log 23. -/
def armLate (s : State) (c : Beat) : Bool :=
  !inFuture c (beatNow s) || (s.beat.mode == .locked && c == beatNow s + 1)

/-- ARM without NOW (R57 step 3): LATE, or validation begins. -/
def armGroup (m : Master) (s : State) : State :=
  let g := (sel s m).1
  let x := grp s g
  if x.st ≠ .opened then txnState s
  else if armLate s x.commit then endPlain g .late s
  else setGrp g { x with st := .validating, isNow := false } s

/-- ARM with NOW (R61): refused while the beat unit is LOCKED, otherwise validation begins. -/
def armNow (m : Master) (s : State) : State :=
  let g := (sel s m).1
  let x := grp s g
  if x.st ≠ .opened then txnState s
  else if s.beat.mode = .locked then endPlain g .nowRefused s
  else setGrp g { x with st := .validating, isNow := true } s

/-- ABORT (R58, R64). -/
def abortGroup (m : Master) (s : State) : State :=
  let g := (sel s m).1
  let x := grp s g
  if x.st = .opened ∨ x.st = .armed then endPlain g .aborted s else txnState s

/-- BLK_TXN.ENROL of every page of a list falls to 0; GROUP keeps its number. DEDUCED, log 23. -/
def clearEnrol (ps : List Nat) (s : State) : State :=
  ps.foldl (fun s p => setLive p 0x18 (withBits (live s p 0x18) 31 31 0) s) s

/-- RELEASE (R57): every page still enrolled is withdrawn and the group is FREE. -/
def releaseGroup (m : Master) (s : State) : State :=
  let g := (sel s m).1
  let x := grp s g
  if x.st = .done then setGrp g groupReset (clearEnrol x.pages s) else txnState s

/-- A page is lost to its group, its block being reset or claimed by a recovery plan: an ARMED group ends PAGE_LOST naming it
(R58). -/
def claimPage (p : Nat) (s : State) : State :=
  match pageGroup s p with
  | some g => if (grp s g).st = .armed then endGroup g .pageLost p E.pageLost s else s
  | none => s

/-- A page's field goes dark: an ARMED group ends PAGE_LOST naming it, and an IRREVOCABLE one commits without it with DARK_SEEN set
(R58). Any other group loses the page, whose BLK_TXN is 0 from now on. DEDUCED, log 23. -/
def losePage (p : Nat) (s : State) : State :=
  let s := claimPage p s
  match pageGroup s p with
  | some g =>
    let x := grp s g
    setGrp g { x with pages := without p x.pages, darkSeen := x.darkSeen || x.st == .irrevocable } s
  | none => s

/-- BEAT_LOST ends every group that is validating, armed or irrevocable (R39, R58). -/
def loseBeatGroups (s : State) : State :=
  s.groups.foldl (fun s e => if groupBusy (grp s e.1) then endPlain e.1 .beatLost s else s) s

/-- The tick of c − 1 (R57 steps 4 and 5) at beat b: validating groups end LATE, armed ones become IRREVOCABLE. -/
def tickBefore (b : Beat) (s : State) : State :=
  s.groups.foldl (fun s e =>
    let x := grp s e.1
    if x.isNow || x.commit ≠ b + 1 then s
    else match x.st with
      | .validating => endPlain e.1 .late s
      | .armed => setGrp e.1 { x with st := .irrevocable } s
      | _ => s) s

/-- The tick with which the unit enters LOCKED, carrying n (R525): a waiting group whose commit beat is not in the future
of n ends LATE. -/
def tickLock (n : Beat) (s : State) : State :=
  s.groups.foldl (fun s e =>
    let x := grp s e.1
    if !x.isNow && (x.st == .validating || x.st == .armed) && !inFuture x.commit n then endPlain e.1 .late s else s) s

/-- The groups that commit at beat b. -/
def dueGroups (b : Beat) (s : State) : List Nat :=
  (s.groups.filter fun e => e.2.st == .irrevocable && !e.2.isNow && e.2.commit == b).map (·.1)

/-- TXN_ALLOC (R57) -/
def execTxnAlloc (m : Master) (s : State) : Result := .next (viaBar m (allocGroup m) s)
/-- BLK_TXN_ENROL (R57) -/
def execBlkTxnEnrol (m : Master) (page : BitVec 14) (g : Fin 64) (s : State) : Result := .next (viaBar m (enrol m page.toNat g.val) s)
/-- BLK_TXN_WITHDRAW (R57) -/
def execBlkTxnWithdraw (m : Master) (page : BitVec 14) (g : Fin 64) (s : State) : Result := .next (viaBar m (withdraw m page.toNat g.val) s)
/-- TXN_ARM (R57) -/
def execTxnArm (m : Master) (s : State) : Result := .next (viaBar m (armGroup m) s)
/-- TXN_ARM_NOW (R61) -/
def execTxnArmNow (m : Master) (s : State) : Result := .next (viaBar m (armNow m) s)
/-- TXN_ABORT (R58) -/
def execTxnAbort (m : Master) (s : State) : Result := .next (viaBar m (abortGroup m) s)
/-- TXN_RELEASE (R57) -/
def execTxnRelease (m : Master) (s : State) : Result := .next (viaBar m (releaseGroup m) s)

end Sys2Proof.Machine
end

