-- ==== Sys2Proof/Machine/Beat.lean ====
section
/-! DEFINITION. The beat unit: candidates, acquisition, delay compensation and RESTART (R27 to R40, R527). -/

namespace Sys2Proof.Machine

open Sys2Proof

/-- The page of the beat unit. -/
def pBeat : Nat := 8

/-- PERIOD_NS in force, in ns. -/
def periodNs (s : State) : Nat := liveF s pBeat 0x44 16 0

/-- SRC in force. -/
def beatSrc (s : State) : Nat := liveF s pBeat 0x40 3 0

/-- The SRC value that selects a candidate (R42). -/
def candSrc : Cand → Nat
  | .ext => 1
  | .link n => 8 + n.val

/-- What the unit keeps of a candidate. -/
def candOf (s : State) : Cand → CandState
  | .ext => s.beat.ext
  | .link n => s.beat.links.getD n.val .reset

/-- Sets what the unit keeps of a candidate. -/
def setCand (c : Cand) (x : CandState) (s : State) : State :=
  match c with
  | .ext => { s with beat := { s.beat with ext := x } }
  | .link n => { s with beat := { s.beat with links := lset s.beat.links n.val x } }

/-- A well-formed frame or marker joins a run or starts a new one (R27). Times are in 0.25 ns. -/
def runNext (period : Nat) (x : CandState) (number : Beat) (t : Nat) : CandState :=
  if x.seen && number == x.number + 1 && t - x.last ≤ 16 * period then ⟨number, Nat.min 3 (x.run + 1), t, true⟩
  else ⟨number, 1, t, true⟩

/-- A malformed frame breaks the run (R27, R527). -/
def runBroken (x : CandState) : CandState := { x with run := 0, seen := false }

/-- Whether a candidate's bit of CAND_LOCKED is set (R527). -/
def candLocked (x : CandState) : Bool := 3 ≤ x.run

/-- The mean of a list of numbers in whole units, rounded down; 0 for none. DESIGN CHOICE, log 21. -/
def meanOf (l : List Nat) : Nat := if l.length = 0 then 0 else l.foldl (· + ·) 0 / l.length

/-- Measured one-way delay of a link in 0.25 ns (R380). -/
def linkDelay (s : State) (n : Nat) : Nat := meanOf (s.beat.linkDelays.getD n [])

/-- Whether a link's delay exceeds the bound of R31 for a period in ns. -/
def delayExcess (s : State) (periodNs n : Nat) : Bool := decide (4 * periodNs < linkDelay s n + 2000)

/-- The compensation delay d of the selected source, in 0.25 ns (R30). -/
def compDelay (s : State) : Nat :=
  let src := beatSrc s
  if src = 1 then 4 * liveF s pBeat 0x48 11 0 else if 8 ≤ src then linkDelay s (src - 8) else 0

/-- The measured period, in 0.25 ns (R30). -/
def measuredPeriod (s : State) : Nat := meanOf s.beat.intervals

/-- Whether a tick falls at a time (R30): at the arrival of an edge where d is 0, else at an arrival plus the measured period,
minus d. DESIGN CHOICE, log 21. -/
def tickDue (now : Nat) (s : State) : Bool :=
  s.beat.edgeSince && match s.beat.prevArrival with
    | some a => decide (now + compDelay s = a + if compDelay s = 0 then 0 else measuredPeriod s)
    | none => false

/-- An arrival of the selected source ends an interval (R30). -/
def noteArrival (t : Nat) (s : State) : State :=
  let iv := match s.beat.prevArrival with
    | some p => ((t - p) :: s.beat.intervals).take 16
    | none => s.beat.intervals
  { s with beat := { s.beat with intervals := iv, prevArrival := some t, edgeSince := true } }

/-- A check of the three beat registers (R40, R42, R31): the first failure, its code and the register's offset. -/
def beatCheck (s : State) : Option (Code × Nat) :=
  let res := fun off => match regAt pBeat off with
    | some r => decide (shadow s pBeat off &&& reservedMask r ≠ 0)
    | none => false
  let src := shadowF s pBeat 0x40 3 0
  let per := shadowF s pBeat 0x44 16 0
  let d := shadowF s pBeat 0x48 11 0
  if res 0x40 then some (E.reservedBit, 0x40)
  else if !(src ≤ 1 || 8 ≤ src) || (8 ≤ src && delayExcess s per (src - 8)) then some (E.beatCfgInvalid, 0x40)
  else if res 0x44 then some (E.reservedBit, 0x44)
  else if per < 1000 || 64000 < per then some (E.beatCfgInvalid, 0x44)
  else if res 0x48 then some (E.reservedBit, 0x48)
  else if 4000 < d || per < d + 500 then some (E.beatCfgInvalid, 0x48)
  else none

/-- The checks of R37 at arm time, with those of R42 and, in an immediate group, R61. A group takes effect while the unit is
LOCKED, so one that would take a source away is rejected before the lock too. DESIGN CHOICE, log 21. -/
def beatValidate (isNow : Bool) (s : State) : Option (Code × Nat) :=
  let src := shadowF s pBeat 0x40 3 0
  if isNow then some (E.txnNowRefused, 0)
  else match beatCheck s with
    | some (c, off) => some (c, off)
    | none =>
      if src = 0 ∧ (s.beat.mode = .locked ∨ beatSrc s ≠ 0) then some (E.beatCfgInvalid, 0x40)
      else if src ≠ beatSrc s ∧ src ≠ 0 then
        let x := if src = 1 then s.beat.ext else s.beat.links.getD (src - 8) .reset
        if candLocked x ∧ x.number = s.beat.now then none else some (E.beatSrcNotLocked, 0x40)
      else none

/-- Copies the beat registers' shadows to live (R40). -/
def beatCommitShadows (s : State) : State := commitPage pBeat s

/-- RESTART (R40): without effect while LOCKED. -/
def restart (s : State) : State :=
  if s.beat.mode = .locked then s
  else match beatCheck s with
    | some (c, off) => reloadPage pBeat (recordErr pBeat c (BitVec.ofNat 32 off) s)
    | none =>
      let s := beatCommitShadows s
      let src := beatSrc s
      { s with beat := { s.beat with
          mode := if src = 0 then .idle else .acquiring
          activeSrc := BitVec.ofNat 4 src
          acq := .reset
          intervals := []
          prevArrival := none
          edgeSince := false
          broken := false
          lockAt := none
          lossPeriod := periodNs s } }

/-- A candidate falls silent for more than four periods (R527). -/
def candTimeout (c : Cand) (t : Nat) (s : State) : State :=
  let x := candOf s c
  if 16 * periodNs s < t - x.last then setCand c (runBroken x) s else s

/-- A link leaves UP: its candidate's bit falls (R527) and its delay reads 0 (R42). -/
def candLinkDown (n : Nat) (s : State) : State :=
  { s with beat := { s.beat with
      links := lset s.beat.links n (runBroken (s.beat.links.getD n .reset))
      linkDelays := lset s.beat.linkDelays n [] } }

/-- CAND_LOCK_TIMEOUT (R527) -/
def execCandLockTimeout (c : Cand) (now : Nat) (s : State) : Result := .next (candTimeout c now s)

/-- BEAT_RESTART (R40) -/
def execBeatRestart (s : State) : Result := .next (restart s)

end Sys2Proof.Machine
end

