-- ==== Sys2Proof/Machine/Handle.lean ====
section
/-! DEFINITION. BIND, UNBIND and DMQ (R84 to R88, R92, R93, R96, R117). -/

namespace Sys2Proof.Machine

open Sys2Proof

/-- The unit of offsets and lengths of a BIND. -/
def bindUnit (h : HView) : Nat := if h.cls = 2 then 256 else 32

/-- The checks of BIND, in the order of R84. DESIGN CHOICE, log 24. -/
def bindCheck (k : Iss) : Option Code :=
  let src := fh k 49 44
  let off := fs k 43 39
  let len := fs k 38 34
  firstFail [
    (decide (fw k 55 50 < 48), E.handleKind),
    (!src.valid, E.handleInvalid),
    (off.toNat % bindUnit src != 0 || len.toNat % bindUnit src != 0, E.alignFault),
    (allOnes len || allOnes off, E.reservedValue),
    (decide (src.ext < off.toNat + len.toNat), E.lenOverrun),
    ((fw k 33 33 == 1 && !src.rd) || (fw k 32 32 == 1 && !src.wr), E.handlePerm)]

/-- The two words of the bound handle (R80, R84). -/
def boundWords (k : Iss) : DWord × DWord :=
  let src := fh k 49 44
  let off := fn k 43 39
  let len := fn k 38 34
  let head := 2 ^ 63 + 2 ^ 61 * fw k 33 33 + 2 ^ 60 * fw k 32 32 + 2 ^ 59 * b2n src.tagged + 2 ^ 56 * src.cls
    + 2 ^ 24 * (len / bindUnit src)
  if src.cls = 2 then (BitVec.ofNat 64 head, BitVec.ofNat 64 (src.base + off))
  else (BitVec.ofNat 64 (head + (src.base + off) / 32), 0)

/-- BIND (R84): a length of 0 leaves the destination unchanged. -/
def bindBody (k : Iss) (s : State) : IRes :=
  match bindCheck k with
  | some c => .fault c s
  | none =>
    if fs k 38 34 = 0 then .done s (pcNext k)
    else
      let h := fw k 55 50
      let w := boundWords k
      .done (updCore k.c (fun x => setHandleReg (2 * h + 1) w.2 (setHandleReg (2 * h) w.1 x)) s) (pcNext k)

/-- UNBIND (R85): VALID becomes 0. -/
def unbindBody (k : Iss) (s : State) : IRes :=
  let h := fw k 55 50
  if h < 48 then .fault E.handleKind s
  else .done (updCore k.c (fun x => setHandleReg (2 * h) (withBits (handleReg x (2 * h)) 63 63 0) x) s) (pcNext k)

/-! ### DMQ -/

/-- A descriptor from its two words (R92). -/
def descOf (x : Core) (w0 w1 : DWord) : Desc :=
  let h := hview x (bits w0 59 54)
  { id := x.nextId, op := bits w0 63 60, handle := bits w0 59 54, off := bits w0 37 20, len := bits w0 19 0,
    notify := bit w0 38, tally := bits w0 53 39, remote := w1, loc := h.base + bits w0 37 20, tagged := h.tagged,
    active := false, credit := false, buf := [], sent := false, left := bits w0 19 0, failed := none }

/-- The local range of a descriptor. -/
def descRng (d : Desc) : Rng := rngOf (decide (3 ≤ d.op)) d.loc d.len

/-- The checks of DMQ, in the order of R93; CLEAN and PURGE need neither RD nor WR. DESIGN CHOICE, log 24. -/
def dmqCheck (x : Core) (w0 w1 : DWord) : Option Code :=
  let d := descOf x w0 w1
  let h := hview x d.handle
  if d.op = 0 ∨ 4 < d.op then some E.dmaOpInvalid
  else
    let move := decide (d.op ≤ 2)
    match handleChk h (d.op == 2) (d.op == 1) (if move then [0, 1] else [2]) false with
    | some c => some c
    | none => firstFail [
        (d.off % 32 != 0 || d.len % 32 != 0 || d.remote.toNat % 32 != 0, E.alignFault),
        (!move && d.remote != 0, E.reservedValue),
        (d.off == 0x3FFFF, E.reservedValue),
        (d.len == 0xFFFFF, E.reservedValue),
        (d.len != 0 && decide (h.ext < d.off + d.len), E.lenOverrun),
        (d.notify && decide (31744 ≤ d.tally), E.tallyInvalid)]

/-- Whether a descriptor takes a scoreboard entry (R87, R96). -/
def descScored (d : Desc) : Bool := decide (d.op ≤ 2) && !d.tagged && d.len != 0

/-- What holds back a DMQ that passes its checks, in the order of R93. -/
def dmqBlock (x : Core) (d : Desc) : Option WaitOn :=
  let r := descRng d
  let wr := d.op == 1
  if 32 ≤ x.dmq.length || x.draining then some .dmqFull
  else firstSome [
    if d.tagged || r.stack then none else scoreBlock x r wr,
    if d.tagged then none else unitBlock x [r] (if wr || d.op == 4 then [r] else []),
    if descScored d && decide (16 ≤ x.score.length) then some .scoreFull else none]

/-- DMQ (R93): the descriptor joins the queue, with its scoreboard entry (R87); one of length 0 ends at once (R96). -/
def dmqBody (k : Iss) (s : State) : IRes :=
  let w0 := fs k 50 46
  let w1 := fs k 45 41
  match dmqCheck k.x w0 w1 with
  | some c => .fault c s
  | none =>
    let d := descOf k.x w0 w1
    match dmqBlock k.x d with
    | some w => .block w s
    | none =>
      if d.len = 0 then .done (sendNotify k.c k.c d.notify d.tally s) (pcNext k)
      else .done (updCore k.c (fun x =>
        { x with dmq := x.dmq ++ [d], nextId := x.nextId + 1,
                 score := if descScored d then x.score ++ [⟨d.id, d.op == 1, descRng d⟩] else x.score }) s) (pcNext k)

/-- BIND (R84) -/
def execBind (i : Issue) (s : State) : Result := .next (issue 0x48 i bindBody s)
/-- UNBIND (R85) -/
def execUnbind (i : Issue) (s : State) : Result := .next (issue 0x49 i unbindBody s)
/-- DMQ (R93) -/
def execDmq (i : Issue) (s : State) : Result := .next (issue 0x4A i dmqBody s)

end Sys2Proof.Machine
end

