-- ==== Sys2Proof/Machine/Dma.lean ====
section
/-! DEFINITION. The core DMA queue and failure notices (R92 to R96, R207 to R211, R373, R382, R391). -/

namespace Sys2Proof.Machine

open Sys2Proof

/-- What the remote side of a GET or PUT is (R207 to R209, R381). -/
inductive Remote where
  | bad (c : Code)
  | floor
  | stack
  /-- an aperture offset -/
  | host (off : Nat)
  | chain (dest : Nat)
  deriving DecidableEq, Repr

/-- A local range of n bytes against R209. -/
def localRange (s : State) (a n : Nat) : Remote :=
  if a < 0x2000000000 then
    match coreIdCheck s (a / 0x40000) with
    | some c => .bad c
    | none =>
      if 0x30000 ≤ a % 0x40000 then .bad E.addrUnbacked
      else if 0x30000 < a % 0x40000 + n then .bad E.lenOverrun
      else .floor
  else match addrKind a with
    | .stack _ off => if stackUsed < off + n then .bad E.lenOverrun else .stack
    | .aperture off => .host off
    | _ => .bad E.addrUnbacked

/-- The remote side of a descriptor of core c. -/
def remoteOf (s : State) (c : Nat) (d : Desc) : Remote :=
  let dest := bits d.remote 63 50
  if dest = ownModule s then localRange s (bits d.remote 49 0) d.len
  else match remoteCheck s dest (tenantOfCore s c) with
    | some e => .bad e
    | none => .chain dest

/-- Changes a descriptor. -/
def updDesc (c id : Nat) (f : Desc → Desc) (s : State) : State :=
  updCore c (fun x => { x with dmq := x.dmq.map fun d => if d.id = id then f d else d }) s

/-- A descriptor ends failed: nothing of it is awaited any more (R95). DEDUCED, log 33. DEDUCED, log 65. -/
def failDesc (c id : Nat) (code : Code) (s : State) : State :=
  updDesc c id (fun d => { d with sent := true, left := 0, failed := some (d.failed.getD code) }) s

/-- A request of at most 4,096 bytes to another engine, from core c to its home attachment (R373, R383, R391). -/
def sendRemote (c : Nat) (d : Desc) (op : Nat) (off n : Nat) (data : List Byte) (s : State) : State :=
  let p : Pcl := { op := op, hops := 0, len := n, dest := bits d.remote 63 50, srcM := ownModule s, tagged := false, status := 0,
                   mtag := 0, addr := bits d.remote 49 0 + off, keyId := boundKey s (tenantOfCore s c), data := data }
  let l := homeLink s (fieldOfCore c)
  injectEngine c { floorMsg l (c % 4) 0 c (.desc c d.id) p with roff := coreAddr c (d.loc + off), rtagged := d.tagged } s

/-- The address of a message to the host aperture: the hub port of the core's field (R15, R185). -/
def toHub (s : State) (c a : Nat) (m : Msg) : Msg := toward (hubRouter (hubPort s (fieldOfCore c))) 3 { m with addr := a }

/-- READs of at most 512 bytes ask for the remote side of a GET. DEDUCED, log 33. -/
def getPieces (c : Nat) (d : Desc) (addressed : Nat → Msg → Msg) (s : State) : State :=
  (piecesOf 512 (2 ^ 50) (bits d.remote 49 0) d.len).foldl (fun s q =>
    injectEngine c (addressed (bits d.remote 49 0 + q.1)
      { msgNull with cls := .read, rflits := q.2 / 32, rcore := c, roff := d.loc + q.1, rtagged := d.tagged, src := c,
                     origin := .desc c d.id }) s) s

/-- A GET asks for its bytes. DEDUCED, log 33. -/
def startGet (c : Nat) (d : Desc) (r : Remote) (s : State) : State :=
  match r with
  | .chain _ =>
    (piecesOf 4096 4096 (bits d.remote 49 0) d.len).foldl (fun s q => sendRemote c d 2 q.1 q.2 [] s) s
  | .host off =>
    match aperRange s off d.len with
    | none => failDesc c d.id E.hostUnmapped (hostFail E.hostUnmapped 3 off s)
    | some _ => getPieces c d (toHub s c) s
  | _ => getPieces c d towardAddr s

/-- A PUT sends its bytes piece by piece as it has read them, all those up to the end of `l`; those before were sent. DEDUCED,
log 33. -/
def startPut (c : Nat) (d : Desc) (r : Remote) (l : List Byte) (s0 : State) : State :=
  let got := d.buf.length
  let s := updDesc c d.id (fun d => { d with buf := l, sent := decide (d.len ≤ l.length) }) s0
  let pieces := fun most gap => (piecesOf most gap (bits d.remote 49 0) d.len).filter fun q =>
    decide (got < q.1 + q.2) && decide (q.1 + q.2 ≤ l.length)
  let part := fun (q : Nat × Nat) => (l.drop q.1).take q.2
  let send := fun (addressed : Nat → Msg → Msg) => (pieces 512 (2 ^ 50)).foldl (fun s q =>
    injectEngine c (addressed (bits d.remote 49 0 + q.1)
      { msgNull with cls := .data, src := c, payload := part q, origin := .desc c d.id }) s) s
  match r with
  | .bad e => failDesc c d.id e s
  | .chain _ => (pieces 480 4096).foldl (fun s q => sendRemote c d 1 q.1 q.2 (part q) s) s
  | .host off =>
    match aperRange s off d.len with
    | none => failDesc c d.id E.hostUnmapped (hostFail E.hostUnmapped 3 off s)
    | some _ => send (toHub s0 c)
  | _ => send towardAddr

/-- The bytes that a PUT can read now, from the first it has not read: slots that are full where the handle is tagged, in banks
that are not being cleared (R69, R70). -/
def putReady (x : Core) (d : Desc) : Nat :=
  let slots := (List.range (d.len / 32)).drop (d.buf.length / 32)
  32 * (slots.takeWhile fun k =>
    let r := rngOf false (d.loc + 32 * k) 32
    (clearingBank x r).isNone && (!d.tagged || allFull x r)).length

/-- A PUT reads on in its local range, slot by slot as they fill, under the protection of the store, and sends (R70, R213). -/
def readPut (c : Nat) (d : Desc) (chk : StoreCheck) (s : State) : State :=
  let n := putReady (coreAt s c) d
  if n = 0 then s
  else
    let at_ := d.loc + d.buf.length
    let q := readCheck c chk [rngOf false at_ n] s
    match q.2 with
    | some code => failDesc c d.id code q.1
    | none => startPut c d (remoteOf q.1 c d) (d.buf ++ readMem q.1 (coreAddr c at_) n) q.1

/-- Dirty lines of a range, and all its cached lines. -/
def linesIn (x : Core) (r : Rng) : List (Nat × CacheLine) :=
  x.cache.filter fun e => overlap r ⟨true, e.1 * 8, 8⟩

/-- CLEAN and PURGE (R91, R92): each dirty line is written back; PURGE drops every line of the range. A line lost to a parity
error is dropped (R215). DEDUCED, log 33. -/
def startClean (c : Nat) (d : Desc) (chk : StoreCheck) (s : State) : State :=
  let ls := linesIn (coreAt s c) (descRng d)
  let dirty := ls.filter (·.2.dirty)
  let lost := lostHits chk
  let s := (dirty.zip lost).foldl (fun s e => loseLine c e.1.1 e.2 s) s
  let go := dirty.drop lost.length
  let s := go.foldl (fun s e =>
    injectEngine c (lineMsg c e.1 (.desc c d.id) e.2.data)
      (updCore c (fun x => { x with cache := mput x.cache e.1 { e.2 with dirty := false } }) s)) s
  let s := if d.op = 4 then updCore c (fun x => ls.foldl (fun x e => dropLine e.1 x) x) s else s
  updDesc c d.id (fun d => { d with sent := true, left := 256 * go.length }) s

/-- The next descriptor becomes active (R94): it fails at once under R209 and R382, or holds a credit where its remote side
lies off the floor. DEDUCED, log 33. -/
def activate (c : Nat) (d : Desc) (chk : StoreCheck) (s : State) : State :=
  let on := updDesc c d.id (fun d => { d with active := true })
  if 3 ≤ d.op then startClean c d chk (on s)
  else
    let r := remoteOf s c d
    let go := fun s => if d.op = 1 then startGet c d r s else readPut c d chk s
    match r with
    | .bad e => (if e = E.unmapped then countEnd e (bits d.remote 63 50) else id) (failDesc c d.id e (on s))
    | .floor => go (on s)
    | _ =>
      if creditLeft s then
        go { updDesc c d.id (fun d => { d with active := true, credit := true }) s with credits := s.credits + 1 }
      else s

/-- DMA_DESC_START (R94): an active PUT whose next slots can be read goes on; otherwise the first descriptor that has not
started starts, at most four being active. -/
def descStart (c : Nat) (chk : StoreCheck) (s : State) : State :=
  let x := coreAt s c
  if !coreRuns s c then s
  else match x.dmq.find? fun d => d.active && d.op == 2 && !d.sent && putReady x d != 0 with
    | some d => readPut c d chk s
    | none =>
      match x.dmq.find? fun d => !d.active with
      | some d => if (x.dmq.filter (·.active)).length < 4 then activate c d chk s else s
      | none => s

/-- Waits that a retired descriptor meets (R77): its queue entry and its scoreboard entry. -/
def descMeets (id : Nat) (scored : Bool) (x : Core) : Core :=
  meetWaits (fun w => match w with
    | .dmqFull => !x.draining
    | .scoreFull => scored
    | .score k => k == id
    | _ => false) x

/-- The module controller hears of a transfer that failed on its way out of the engine (R486). DEDUCED, log 33. -/
def reportTransfer (c : Nat) (code : Code) (s : State) : State :=
  match mfind s.owner c with
  | some m =>
    if code = E.unmapped ∨ code = E.peerGone ∨ code = E.hostUnmapped ∨ code = E.hostAccessFail then report code 6 m s else s
  | none => s

/-- A failed descriptor is counted and recorded (R95). DEDUCED, log 33. -/
def descFailed (c : Nat) (d : Desc) (s : State) : State :=
  match d.failed with
  | none => s
  | some code =>
    reportTransfer c code (recordDma c code false d.handle d.off
      (updCore c (fun x => { x with dmaFails := BitVec.ofNat 16 (satAdd 0xFFFF x.dmaFails.toNat 1) }) s))

/-- A descriptor ends (R94): queue entry, scoreboard entry and credit free, and its tally is notified. -/
def descDone (c : Nat) (d : Desc) (s : State) : State :=
  let s := updCore c (fun x =>
    let scored := x.score.any (·.id == d.id)
    let left := x.dmq.filter (·.id != d.id)
    descMeets d.id scored { x with dmq := left, score := x.score.filter (·.id != d.id),
                                   draining := x.draining && left.any (·.active) }) s
  let s := { s with credits := if d.credit then s.credits - 1 else s.credits }
  sendNotify c c d.notify d.tally (descFailed c d s)

/-- DMA_DESC_END (R94): an active descriptor with nothing left to write ends. DEDUCED, log 65. -/
def descEnd (c index : Nat) (s : State) : State :=
  match ((coreAt s c).dmq.filter (·.active))[index]? with
  | some d => if d.left = 0 ∧ (d.op = 1 ∨ d.sent) then descDone c d s else s
  | none => s

/-! ### Failure notices (R211) -/

/-- A missed line cannot be had: every thread that waits on it faults (R211). DESIGN CHOICE, log 26. -/
def missFails (c line : Nat) (code : Code) (s : State) : State :=
  let x := coreAt s c
  let ts := (List.range 16).filter fun t =>
    (threadAt x t).st == .blocked && (match (threadAt x t).wait with
      | .miss ls => ls.contains line
      | _ => false)
  updCore c (missEnds line) (ts.foldl (fun s t => faultThread c t code s) s)

/-- Bytes that the hub asked for cannot be had. DESIGN CHOICE, log 41. -/
def readLost (m piece : Nat) (s : State) : State :=
  match (modelAt s m).collect with
  | some c =>
    if c.first ≤ piece ∧ piece < c.first + c.want.length then
      updModel m (fun x => { x with collect := some { c with bad := true } }) s
    else s
  | none => s

/-- What a notice does to its requester (R211). DEDUCED, log 65. -/
def noticeActs (n : Notice) (s : State) : State :=
  match n.origin with
  | .desc c id => failDesc c id n.code s
  | .fill c line => missFails c line n.code s
  | .rdm c h off => recordDma c n.code false h off s
  | .snd c => recordDma c n.code true 0 n.addr s
  | .wback c line => recordDma c n.code true 0 (256 * line) s
  | .seg st ch id => failPart (.seg st ch id) 0 n.code s
  | .segIn st ch id _ => failPart (.seg st ch id) 0 n.code s
  | .chain _ id => inFails id n.code s
  | .chainFlush _ id r => flushAnswered id r (inFails id n.code s)
  | .hub _ m i => readLost m i s
  | .fcuCopy _ k => copyUnclean k s
  | _ => s

/-- FAILURE_NOTICE (R211): one of the notices under way arrives. DEDUCED, log 31. -/
def failureNotice (i : Nat) (s : State) : State :=
  match s.notices[i]? with
  | some n => noticeActs n { s with notices := s.notices.eraseIdx i }
  | none => s

/-- DMA_DESC_START (R94) -/
def execDmaDescStart (c : CoreRef) (check : StoreCheck) (s : State) : Result := .next (descStart (coreId c) check s)
/-- DMA_DESC_END (R94) -/
def execDmaDescEnd (c : CoreRef) (index : Fin 4) (s : State) : Result := .next (descEnd (coreId c) index.val s)
/-- FAILURE_NOTICE (R211) -/
def execFailureNotice (index : Nat) (s : State) : Result := .next (failureNotice index s)

end Sys2Proof.Machine
end

