-- ==== Sys2Proof/Machine/Placement.lean ====
section
/-! DEFINITION. Placement images: their plaintext, and the checks of the loader (R236 to R241, R68, R81). -/

namespace Sys2Proof.Machine

open Sys2Proof

/-- Two ranges of numbers overlap. -/
def meets (a n b m : Nat) : Bool := decide (0 < n) && decide (0 < m) && decide (a < b + m) && decide (b < a + n)

/-- A failing check of a list, in order. -/
def firstOf {α : Type} (f : α → Option Code) : List α → Option Code
  | [] => none
  | a :: l => (f a).orElse fun _ => firstOf f l

/-! ### Bank modes and placed handles (R68, R81) -/

/-- BANK_MODE of a shadow or a slot record: reserved bits, then R68. -/
def bankModeCheck (v : DWord) (resv : Code) : Option Code :=
  if bits v 63 24 ≠ 0 then some resv
  else if (List.range 12).any fun b => bits v (2 * b + 1) (2 * b) == 3 || (decide (b < 8) && bits v (2 * b + 1) (2 * b) == 2) then
    some E.bankModeInvalid
  else none

/-- Reserved bits of words 0 and 1 of a handle (R80). -/
def handleResv0 (w : DWord) : Bool := bits w 55 48 != 0 || bits w 23 13 != 0
/-- Reserved bits of word 1. -/
def handleResv1 (w : DWord) : Bool := bits w 63 42 != 0 || bits w 7 0 != 0

/-- Whether every bank that a range of slots touches is in a mode. -/
def banksIn (bm : DWord) (mode first count : Nat) : Bool :=
  (List.range 12).all fun b => !meets (512 * b) 512 first count || bits bm (2 * b + 1) (2 * b) == mode

/-- The stack window that an offset from the first window lies in, where [o, o + n) stays in its used part. -/
def inStackUsed (o n : Nat) : Bool :=
  decide (o / stackWin < 24) && decide (o % stackWin + n ≤ stackUsed)

/-- A placed handle under the bank modes that hold after the same commit (R81). -/
def placedCheck (bm w0 w1 : DWord) : Option Code :=
  let h := viewOf w0 w1
  let ext := bits w0 47 24
  if !h.valid then none
  else firstFail
    [(decide (2 < h.cls), E.bankModeInvalid),
     (h.tagged && h.cls != 1, E.handleClass),
     (ext == 0xFFFFFF, E.reservedValue),
     (decide (h.cls < 2) && decide (6144 < bits w0 12 0 + ext), E.sizeOverrun),
     (decide (h.cls < 2) && !banksIn bm h.cls (bits w0 12 0) ext, E.handleBankMismatch),
     (h.cls == 2 && !inStackUsed h.base h.ext, E.sizeOverrun),
     (h.cls == 2 && !(List.range 12).any (fun b => bits bm (2 * b + 1) (2 * b) == 2), E.handleBankMismatch)]

/-! ### The header and the section table (R236 to R238) -/

/-- A section table entry. -/
structure Sect where
  type : Nat
  flags : Nat
  field : Nat
  resv : Nat
  off : Nat
  len : Nat
  count : Nat
  deriving DecidableEq, Repr

/-- Section table entry i. -/
def sectAt (l : List Byte) (i : Nat) : Sect :=
  let o := le l 0x1C 4 + 16 * i
  ⟨le l o 1, le l (o + 1) 1, le l (o + 2) 1, le l (o + 3) 1, le l (o + 4) 4, le l (o + 8) 4, le l (o + 12) 4⟩

/-- Every entry of the section table. -/
def sects (l : List Byte) : List Sect := (List.range (le l 0x0C 2)).map (sectAt l)

/-- Step 1 of R241: the header. -/
def pimgHeader (l : List Byte) : Option Code :=
  let len := le l 0x08 4
  firstFail
    [(decide (l.length < 64), E.sizeOverrun),
     (le l 0 4 != 0x4C505750 || le l 4 2 != 1, E.pimgFormat),
     (len == 0xFFFFFFFF, E.reservedValue),
     (decide (len < 64) || len % 32 != 0, E.pimgFormat),
     (decide (l.length < len), E.sizeOverrun),
     (le l 0x0C 2 == 0, E.pimgFormat),
     (le l 0x0C 2 == 0xFFFF, E.reservedValue),
     (decide (64 < le l 0x0C 2), E.countOverrun),
     (le l 0x0E 1 == 0, E.pimgFormat),
     (le l 0x0E 1 == 0xFF, E.reservedValue),
     (decide (80 < le l 0x0E 1), E.countOverrun),
     (le l 0x0F 1 != 0 || decide (8 ≤ le l 0x18 4) || le l 0x1C 4 % 16 != 0 || !zeros l 0x20 32, E.pimgFormat),
     (decide (len < le l 0x1C 4 + 16 * le l 0x0C 2), E.sizeOverrun)]

/-- Entry size of a section type, 0 where entries vary. -/
def sectSize (t : Nat) : Nat :=
  [0, 8, 848, 0, 16, 8, 16, 16, 4, 16].getD t 0

/-- Whether a type is one of R238. -/
def sectKnown (t : Nat) : Bool := decide (1 ≤ t) && decide (t ≤ 9)

/-- Whether a type is module-wide. -/
def sectWide (t : Nat) : Bool := t == 1 || t == 5 || t == 7

/-- The section of a type for a field, or the module-wide one. -/
def findSect (l : List Byte) (t f : Nat) : Option Sect := (sects l).find? fun c => c.type == t && (sectWide t || c.field == f)

/-- Field numbers that FIELDS names, with SLOTS and HQ_REQUEST. -/
def fieldEntries (l : List Byte) : List (Nat × Nat × Nat) :=
  match findSect l 1 0xFF with
  | some c => (List.range c.count).map fun i => let o := c.off + 8 * i; (le l o 1, le l (o + 2) 2, le l (o + 4) 2)
  | none => []

/-- Step 2 of R241, one entry: within the image, then R238. -/
def sectCheck (l : List Byte) (i : Nat) : Option Code :=
  let c := sectAt l i
  let dup := (List.range i).any fun j => (sectAt l j).type == c.type && (sectAt l j).field == c.field
  let debug := bit (BitVec.ofNat 32 (le l 0x18 4)) 1
  firstFail
    [(decide (2 ≤ c.flags) || c.resv != 0, E.pimgFormat),
     (c.len == 0xFFFFFFFF, E.reservedValue),
     (decide (le l 8 4 < c.off + c.len), E.sizeOverrun),
     (c.count == 0xFFFFFFFF, E.reservedValue),
     (!sectKnown c.type && c.flags % 2 == 0, E.pimgSection),
     (sectKnown c.type && (dup || c.off % 32 != 0
       || (if sectWide c.type then c.field != 0xFF else !(fieldEntries l).any (·.1 == c.field))
       || (sectSize c.type != 0 && c.len != c.count * sectSize c.type)
       || ((c.type == 8 || c.type == 9) && !debug)), E.pimgSection)]

/-- Step 2 of R241. -/
def sectChecks (l : List Byte) : Option Code :=
  (firstOf (sectCheck l) (List.range (le l 0x0C 2))).orElse fun _ =>
    if (findSect l 1 0xFF).isNone || (fieldEntries l).length != le l 0x0E 1
        || (fieldEntries l).any (fun e => match findSect l 2 e.1 with
          | some c => c.count != e.2.1
          | none => true) then some E.pimgSection
    else none

/-! ### Reading the sections -/

/-- Entries of a section of fixed entries, each from its offset. -/
def readSect {α : Type} (l : List Byte) (t f : Nat) (g : Nat → α) : List α :=
  match findSect l t f with
  | some c => (List.range c.count).map fun i => g (c.off + sectSize t * i)
  | none => []

/-- A slot record at an offset (R239). -/
def slotRec (l : List Byte) (o : Nat) : SlotRec :=
  { bankMode := BitVec.ofNat 64 (le l o 8), start := BitVec.ofNat 16 (le l (o + 8) 2),
    pcs := (List.range 16).map fun i => le l (o + 0x10 + 4 * i) 4,
    handles := (List.range 96).map fun i => BitVec.ofNat 64 (le l (o + 0x50 + 8 * i) 8) }

/-- CONTENT records of a section, `n` at most, from an offset to its end, or why a record is malformed or runs past it. -/
def contentRecs (l : List Byte) (end_ : Nat) : Nat → Nat → Except Code (List ContentRec)
  | 0, o => if o = end_ then .ok [] else .error E.pimgSection
  | n + 1, o =>
    let len := le l (o + 8) 4
    if len = 0xFFFFFFFF then .error E.reservedValue
    else if end_ < o + 16 + len ∨ 2 ≤ le l (o + 2) 1 ∨ le l (o + 3) 1 ≠ 0 ∨ le l (o + 12) 4 ≠ 0 ∨ len % 32 ≠ 0
        ∨ le l (o + 4) 4 % 32 ≠ 0 then .error E.pimgSection
    else match contentRecs l end_ n (o + 16 + len) with
      | .error c => .error c
      | .ok rs => .ok (⟨le l o 2, le l (o + 2) 1 == 1, le l (o + 4) 4, bytesAt l (o + 16) len⟩ :: rs)

/-- CONTENT of a field. -/
def contentOf (l : List Byte) (f : Nat) : Except Code (List ContentRec) :=
  match findSect l 3 f with
  | some c => contentRecs l (c.off + c.len) c.count c.off
  | none => .ok []

/-- What the image says of a field; malformed CONTENT reads as none. -/
def fieldImg (l : List Byte) (e : Nat × Nat × Nat) : FieldImg :=
  let f := e.1
  { field := f, slots := e.2.1, hq := e.2.2,
    recs := readSect l 2 f (slotRec l),
    content := (contentOf l f).toOption.getD [],
    relocs := readSect l 4 f fun o =>
      ⟨le l o 2, le l (o + 2) 1, le l (o + 3) 1, le l (o + 4) 2, le l (o + 8) 4, le l (o + 12) 4⟩,
    weights := readSect l 6 f fun o => ⟨le l o 2, le l (o + 2) 2, le l (o + 4) 1, le l (o + 5) 1, le l (o + 8) 4, le l (o + 12) 4⟩,
    marks := readSect l 8 f fun o => le l o 4,
    watches := readSect l 9 f fun o => ⟨le l o 2, le l (o + 2) 2, le l (o + 4) 2, le l (o + 6) 2⟩ }

/-- The image that a plaintext holds. -/
def pimgOf (l : List Byte) : PImg :=
  let fl : Word := BitVec.ofNat 32 (le l 0x18 4)
  { id := BitVec.ofNat 64 (le l 0x10 8), draft := bit fl 0, debug := bit fl 1, batch := bit fl 2,
    fields := (fieldEntries l).map (fieldImg l),
    tallies := readSect l 5 0xFF fun o => (le l o 2, le l (o + 4) 3),
    regions := readSect l 7 0xFF fun o => ⟨le l o 1, le l (o + 1) 1 == 1, le l (o + 4) 4, le l (o + 8) 4⟩,
    hash := sha256 l }

/-! ### Models as the loader sees them -/

/-- Whether a manifest has a range or mirror in stack n. -/
def usesStack (n : Nat) (g : GristImg) : Bool :=
  g.ranges.any fun r => if r.kind = 0 then r.stageStack == n else r.unit == n

/-- Whether the module controller uses channel C15 of stack n: an install, a reload or a staged copy writes or reads there
(R266). -/
def mcUses (s : State) (n : Nat) : Bool :=
  let w := s.weights
  let busy := fun (i : Inst) => i.phase == .units && usesStack n i.img
  let on := fun (i : Option Inst) => match i with
    | some i => busy i
    | none => false
  on w.inst || on w.adInst || w.reloads.any (fun e => busy e.2)
    || w.models.any fun e => match e.2.switching with
      | some x => x.phase == .copying && (match if x.target = 0 then e.2.epA else e.2.epB with
          | some g => usesStack n g
          | none => false)
      | none => false

/-- Placements in force, with their models. -/
def placements (s : State) : List (Nat × Placed) :=
  s.weights.models.filterMap fun e => e.2.place.map fun p => (e.1, p)

/-- The fields that a placement occupies. -/
def fieldsOf (p : PImg) : List Nat := p.fields.map (·.field)

/-- The fields where a placement holds cores, its image's until a plan moves a slot into another (R490). -/
def heldFields (p : Placed) : List Nat := (p.cores.flatten.map fieldOfCore).dedup

/-- The loaded models that draft for model m. -/
def draftsFor (s : State) (m : Nat) : List Nat :=
  (List.range 64).filter fun q =>
    liveF s 0x18 (0x200 + 4 * q) 31 29 != 0 && liveF s 0x18 (0x200 + 4 * q) 7 7 == 1 && liveF s 0x18 (0x200 + 4 * q) 5 0 == m

/-- The fields that R18 keeps a placement of model m out of: where its drafts and the model that it drafts for hold cores. DESIGN CHOICE, log 55. -/
def barredFields (s : State) (m : Nat) (draftFor : Option Nat) : List Nat :=
  (draftsFor s m ++ draftFor.toList).flatMap fun q => match (modelAt s q).place with
    | some x => heldFields x
    | none => []

/-- Free enabled cores of a field in ascending ID: held by no placement, one being loaded among them (R16). A field whose self-test
runs has none (R511). DESIGN CHOICE, log 55. -/
def freeCores (s : State) (f : Nat) : List Nat :=
  if s.boot.testing.contains f then []
  else
  let held := (placements s).flatMap fun e => e.2.cores.flatten
  ((List.range 3840).map (4096 * f + ·)).filter fun c =>
    coreEnabled s c && (mfind s.owner c).isNone && !held.contains c

/-- The binding of an image's slots (R16), where the field is on and has enough free enabled cores. -/
def bindCores (s : State) : List FieldImg → Option (List (List Nat))
  | [] => some []
  | f :: l =>
    let free := freeCores s f.field
    if fieldSt s f.field == .on && decide (f.slots ≤ free.length) then (bindCores s l).map (free.take f.slots :: ·) else none

/-- The core bound to a slot of a field. -/
def boundCore (p : Placed) (f slot : Nat) : Option Nat :=
  ((p.img.fields.zip p.cores).find? (·.1.field == f)).bind fun e => e.2[slot]?

/-- The field section of an image. -/
def fieldIn (p : PImg) (f : Nat) : Option FieldImg := p.fields.find? (·.field == f)

/-! ### Checks of the sections (R241) -/

/-- Step 3, without capacity. -/
def fieldsCheck (l : List Byte) : Option Code :=
  let es := fieldEntries l
  let resv := match findSect l 1 0xFF with
    | some c => (List.range c.count).any fun i => le l (c.off + 8 * i + 1) 1 != 0 || le l (c.off + 8 * i + 6) 2 != 0
    | none => false
  (firstOf (fun i =>
    let e := es.getD i (0, 0, 0)
    firstFail [(decide (80 ≤ e.1) || (es.take i).any (·.1 == e.1) || e.2.1 == 0, E.pimgSection),
      (e.2.1 == 0xFFFF, E.reservedValue), (decide (3840 < e.2.1), E.countOverrun),
      (e.2.2 == 0xFFFF, E.reservedValue), (decide (3840 < e.2.2), E.countOverrun)]) (List.range es.length)).orElse fun _ =>
    if resv then some E.pimgFormat else none

/-- Step 4: R18, against the model that it drafts for and the drafts of the model itself. -/
def overlapCheck (s : State) (m : Nat) (draftFor : Option Nat) (p : PImg) : Option Code :=
  if (barredFields s m draftFor).any (fieldsOf p).contains then some E.placementOverlap else none

/-- Step 5, one slot record at its offset. -/
def slotCheck (l : List Byte) (o : Nat) : Option Code :=
  let r := slotRec l o
  let h0 := viewOf (r.handles.getD 0 0) (r.handles.getD 1 0)
  (if !zeros l (o + 0x0A) 6 || r.pcs.any (fun p => decide (2 ^ 18 ≤ p)) then some E.pimgFormat else none).orElse fun _ =>
  (bankModeCheck r.bankMode E.pimgFormat).orElse fun _ =>
  (firstOf (fun h =>
    let w0 := r.handles.getD (2 * h) 0
    let w1 := r.handles.getD (2 * h + 1) 0
    if handleResv0 w0 || bit w0 62 || handleResv1 w1 then some E.pimgFormat else placedCheck r.bankMode w0 w1)
    (List.range 48)).orElse fun _ =>
  if r.start ≠ 0 ∧ !(h0.valid && h0.rd && !h0.tagged && decide (h0.cls < 2)) then some E.handleClass else none

/-- Step 5 for a field. -/
def slotsCheck (l : List Byte) (f : Nat) : Option Code :=
  match findSect l 2 f with
  | some c => firstOf (fun i => slotCheck l (c.off + 848 * i)) (List.range c.count)
  | none => none

/-- Step 6, one record. DESIGN CHOICE, log 37. -/
def contentCheck (f : FieldImg) (c : ContentRec) : Option Code :=
  let bm := (f.recs.getD c.slot ⟨0, 0, [], []⟩).bankMode
  let n := c.data.length / 32
  firstFail
    [(decide (f.slots ≤ c.slot), E.countOverrun),
     (decide (0x30000 < c.off + c.data.length), E.lenOverrun),
     ((List.range 12).any (fun b => meets (512 * b) 512 (c.off / 32) n && decide (2 ≤ bits bm (2 * b + 1) (2 * b))), E.addrUnbacked),
     (c.full && !banksIn bm 1 (c.off / 32) n, E.tagMode)]

/-- Step 7, one entry (R240). DESIGN CHOICE, log 37. -/
def relocCheck (p : PImg) (f : FieldImg) (r : RelocRec) : Bool :=
  let w := if r.kind = 0 then 4 else 8
  let target := match fieldIn p r.tfield with
    | some t => decide (r.tslot < t.slots)
    | none => false
  decide (r.slot < f.slots) && decide (r.kind < 2) && target && r.off % w == 0
    && f.content.any (fun c => c.slot == r.slot && decide (c.off ≤ r.off) && decide (r.off + w ≤ c.off + c.data.length))
    && (if r.kind = 0 then r.addend == 0 else decide (r.addend < 0x30000))

/-- Reserved bytes of the relocation, tally, weight and stack entries. -/
def entryResv (l : List Byte) (t f : Nat) (resv : Nat → Bool) : Bool := (readSect l t f resv).any id

/-- Step 8, one entry. DESIGN CHOICE, log 37. -/
def tallyEntryCheck (s : State) (p : PImg) (e : Nat × Nat) : Option Code :=
  firstFail
    [(decide (31744 ≤ e.1), E.tallyInvalid),
     (decide (e.1 < 30720) && !(fieldsOf p).contains (e.1 / 384), E.pimgSection),
     (e.2 == 0xFFFFFF, E.reservedValue),
     ((mfind s.tallyOwner e.1).isSome || decide (1 < (p.tallies.filter (·.1 == e.1)).length), E.placementOverlap)]

/-- Step 9, one entry. -/
def weightCheck (f : FieldImg) (w : WeightRec) : Option Code :=
  let views := (f.recs.drop w.first).take (w.last + 1 - w.first) |>.map fun r =>
    viewOf (r.handles.getD (2 * w.handle) 0) (r.handles.getD (2 * w.handle + 1) 0)
  firstFail
    [(decide (w.last < w.first) || decide (f.slots ≤ w.last), E.countOverrun),
     (decide (48 ≤ w.handle) || views.any (fun h => !h.valid || h.cls != 0), E.handleClass),
     (decide (2 ≤ w.form), E.pimgSection),
     (w.len == 0xFFFFFFFF, E.reservedValue),
     (views.any (fun h => decide (h.ext < w.off + w.len)), E.lenOverrun)]

/-- Valid regions of a stack in the live table. -/
def liveRegions (s : State) (n : Nat) : List Nat :=
  (List.range 32).filter fun r => liveF s (stackPage n 0) (0x48 + 16 * r) 31 31 == 1

/-- Step 10: the regions of the image. -/
def regionsCheck (s : State) (p : PImg) : Option Code :=
  (firstOf (fun i =>
    let r := p.regions.getD i ⟨0, false, 0, 0⟩
    firstFail
      [(decide (24 ≤ r.stack), E.pimgSection),
       (r.size == 0xFFFFFFFF, E.reservedValue),
       (decide (98304 < r.base + r.size), E.sizeOverrun),
       (decide (32 < (liveRegions s r.stack).length + ((p.regions.take (i + 1)).filter (·.stack == r.stack)).length), E.countOverrun),
       ((p.regions.take i).any (fun q => q.stack == r.stack && meets q.base q.size r.base r.size), E.placementOverlap),
       ((placements s).any (fun e => e.2.img.regions.any fun q => q.stack == r.stack && meets q.base q.size r.base r.size),
        E.placementOverlap)]) (List.range p.regions.length))

/-- The HQ_REQUEST values of a placement for the slots that it holds in a field. DESIGN CHOICE, log 55. -/
def hqOf (p : Placed) (f : Nat) : Nat :=
  (p.img.fields.zip p.cores).foldl (fun n e => if (e.2.map fieldOfCore).contains f then n + e.1.hq else n) 0

/-- HQ_REQUEST values of the placements in force in a field. -/
def hqSum (s : State) (f : Nat) : Nat := (placements s).foldl (fun n e => n + hqOf e.2 f) 0

/-- The heavy quota page of a field. -/
def pHeavy (f : Nat) : Nat := fieldPage f 11

/-- Step 11: the quota sums (R239). -/
def quotaCheck (s : State) (p : PImg) : Option Code :=
  firstOf (fun f => if liveF s (pHeavy f.field) 0x68 11 0 < hqSum s f.field + f.hq then some E.quotaRange else none) p.fields

/-- Step 12: marks and watches, and the scope of an enabled detector (R251 to R253). -/
def debugCheck (s : State) (p : PImg) (f : FieldImg) : Option Code :=
  (firstFail
    [(hdOn s f.field && (!p.debug || decide (1 < p.fields.length)), E.hazardScope),
     (decide (4096 < f.marks.length), E.countOverrun),
     (f.marks.any (fun m => decide (2 ^ 18 ≤ m) || m % 8 != 0), E.hazardCfgInvalid),
     (decide (64 < f.watches.length), E.countOverrun)]).orElse fun _ =>
  firstOf (fun w =>
    firstFail
      [(w.count == 0xFFFF, E.reservedValue),
       (decide (f.slots ≤ w.slot) || decide (6144 < w.first + w.count)
         || !banksIn (f.recs.getD w.slot ⟨0, 0, [], []⟩).bankMode 1 w.first w.count, E.hazardCfgInvalid),
       (decide (384 ≤ w.tally), E.tallyInvalid)]) f.watches

/-- Reserved bytes of the entries of a field's and the module-wide sections. -/
def resvWide (l : List Byte) : Bool :=
  entryResv l 5 0xFF (fun o => le l (o + 2) 2 != 0 || le l (o + 7) 1 != 0)
    || entryResv l 7 0xFF (fun o => decide (2 ≤ le l (o + 1) 1) || le l (o + 2) 2 != 0 || le l (o + 12) 4 != 0)

/-- Reserved bytes of the WEIGHTS and WATCHES entries of a field. -/
def resvField (l : List Byte) (f : Nat) : Bool :=
  entryResv l 6 f (fun o => le l (o + 6) 2 != 0) || entryResv l 9 f (fun o => !zeros l (o + 8) 8)

/-- Steps 1 to 3 of R241 without capacity. -/
def pimgPre (l : List Byte) : Option Code := (pimgHeader l).orElse fun _ => (sectChecks l).orElse fun _ => fieldsCheck l

/-- Steps 4 to 12 of R241 and reserved bytes: the first failure. -/
def pimgLater (s : State) (m : Nat) (draftFor : Option Nat) (l : List Byte) : Option Code :=
  let p := pimgOf l
  let fs := p.fields
  (overlapCheck s m draftFor p).orElse fun _ =>
  (firstOf (fun f => slotsCheck l f.field) fs).orElse fun _ =>
  (firstOf (fun f => match contentOf l f.field with
    | .error c => some c
    | .ok _ => firstOf (contentCheck f) f.content) fs).orElse fun _ =>
  (firstOf (fun f => if f.relocs.all (relocCheck p f) && !entryResv l 4 f.field (fun o => le l (o + 6) 2 != 0) then none
    else some E.pimgReloc) fs).orElse fun _ =>
  (firstOf (tallyEntryCheck s p) p.tallies).orElse fun _ =>
  (firstOf (fun f => firstOf (weightCheck f) f.weights) fs).orElse fun _ =>
  (regionsCheck s p).orElse fun _ =>
  (quotaCheck s p).orElse fun _ =>
  (firstOf (debugCheck s p) fs).orElse fun _ =>
  if resvWide l || fs.any (fun f => resvField l f.field) then some E.pimgFormat else none

/-- The checks of a placement image in the order of R241, and its binding: the first failure; a field short of cores is
LOAD_REFUSED_CAPACITY in step 3. DESIGN CHOICE, log 37. -/
def pimgCheck (s : State) (m : Nat) (draftFor : Option Nat) (l : List Byte) : Except Code Placed :=
  match pimgPre l with
  | some c => .error c
  | none =>
    match bindCores s (pimgOf l).fields with
    | none => .error E.loadRefusedCapacity
    | some cores =>
      match pimgLater s m draftFor l with
      | some c => .error c
      | none => .ok ⟨pimgOf l, cores⟩

/-- An image checked in full whether or not its cores can be bound (R258): its binding, where they can. -/
def pimgTry (s : State) (m : Nat) (draftFor : Option Nat) (l : List Byte) : Except Code (PImg × Option (List (List Nat))) :=
  match (pimgPre l).orElse fun _ => pimgLater s m draftFor l with
  | some c => .error c
  | none => .ok (pimgOf l, bindCores s (pimgOf l).fields)

end Sys2Proof.Machine
end

