-- ==== Sys2Proof/Machine/StackOps.lean ====
section
/-! DEFINITION. The stacks: regions, keys, protection, and bytes under their encryption (R219 to R226). -/

namespace Sys2Proof.Machine

open Sys2Proof

/-- The key of a region, where its slot is loaded (R225). -/
def storeKey (s : State) (n r : Nat) : Except Code StoreKey :=
  match mfind (stackAt s n).keys (regionKey s n r) with
  | some k => .ok k
  | none => .error E.xtsKeyAbsent

/-! ### Bytes (R220, R225) -/

/-- The byte at a local address as stored. DESIGN CHOICE, log 15. -/
def storedByte (s : State) (a : Nat) : Byte := (mfind s.stackMem a).getD (Config.stackByte a)

/-- The byte at a local address as decrypted under a key: undefined before the first write (R220), meaningless under another
key than it was written under (R225). DESIGN CHOICE, log 15. -/
def plainByte (s : State) (k : StoreKey) (a : Nat) : Byte :=
  match mfind s.stackKey (a / 512) with
  | none => Config.stackByte a
  | some q =>
    if q = k then storedByte s a
    else
      let b := (List.range 16).map fun i => storedByte s (a / 16 * 16 + i)
      (xtsDec k (a / 512) (a % 512 / 16) (xtsEnc q (a / 512) (a % 512 / 16) b)).getD (a % 16) 0

/-- Bytes from a local address under a key. -/
def plainBytes (s : State) (k : StoreKey) (a : Nat) : Nat → List Byte
  | 0 => []
  | n + 1 => plainByte s k a :: plainBytes s k (a + 1) n

/-- The stack bytes listed with bytes written from an address. -/
def putBytes (m : Map Byte) (a : Nat) : List Byte → Map Byte
  | [] => m
  | b :: l => putBytes (mput m a b) (a + 1) l

/-- A list with part of it replaced from a position. -/
def splice (old : List Byte) (at_ : Nat) (new : List Byte) : List Byte := old.take at_ ++ new ++ old.drop (at_ + new.length)

/-! ### Protection (R219, R220, R480) -/

/-- Where a hit lies. -/
def stackHitAddr (h : StackHit) : Nat :=
  match h with
  | .corrected a | .retried a | .failed a | .misread a _ _ => a

/-- The hits of a check among n bytes from a local address. -/
def hitsIn (chk : StackCheck) (a n : Nat) : StackCheck := chk.filter fun h => decide (a ≤ stackHitAddr h) && decide (stackHitAddr h < a + n)

/-- A byte as the first read of it gives it, or the second. -/
def misreadByte (chk : StackCheck) (again : Bool) (a : Nat) (b : Byte) : Byte :=
  chk.foldl (fun b h => match h with
    | .misread x m g => if x = a ∧ (again = false ∨ g = true) then b ^^^ m else b
    | _ => b) b

/-- Bytes from a local address as the first read of them gives them, or the second. -/
def readBytes (s : State) (k : StoreKey) (chk : StackCheck) (again : Bool) (a n : Nat) : List Byte :=
  (plainBytes s k a n).zipIdx.map fun q => misreadByte chk again (a + q.2) q.1

/-- SC_LAST names the latest failed access (R233). -/
def stackLast (n off : Nat) (s : State) : State := setStack n { stackAt s n with lastFail := off } s

/-- SEC-DED of a word that an access of stack n at `off` reads: counted, logged where the second read was clean, or failed
(R219). DESIGN CHOICE, log 60. -/
def eccEvent (n off : Nat) (r : Option Code × State) (h : StackHit) : Option Code × State :=
  match r.1, h with
  | none, .corrected _ => (none, countUp (pStack n) 0x820 15 0 1 r.2)
  | none, .retried _ => (none, logTransient E.stackEccFail 3 n (countUp (pStack n) 0x820 31 16 1 r.2))
  | none, .failed _ => (some E.stackEccFail, report E.stackEccFail 3 n (recordErrAny (pStack n) E.stackEccFail (stackLast n off r.2)))
  | _, _ => r

/-- SEC-DED of every word that an access reads. -/
def eccEvents (n off : Nat) (chk : StackCheck) (s : State) : Option Code × State := chk.foldl (eccEvent n off) (none, s)

/-- The CRC kept of a unit: undefined until the unit has been written whole (R220). -/
def crcOf (s : State) (u : Nat) : Word := (mfind s.stackCrc u).getD (Config.stackCrc u)

/-- Part of one unit as an access of stack n at `off` reads it, checked whole against its CRC where `crc` says so: from the second read
where the first does not match, and failed where neither does (R220). DESIGN CHOICE, log 34. -/
def readUnit (n off : Nat) (crc : Bool) (k : StoreKey) (chk : StackCheck) (a len : Nat) (s : State) : Except Code (List Byte) × State :=
  let u := a / 512
  let block := fun again => readBytes s k chk again (512 * u) 512
  if !crc then (.ok (readBytes s k chk false a len), s)
  else if crc32c (block false) = crcOf s u then (.ok (bytesAt (block false) (a % 512) len), s)
  else if crc32c (block true) = crcOf s u then
    (.ok (bytesAt (block true) (a % 512) len), logTransient E.stackCrcFail 3 n (countUp (pStack n) 0x824 15 0 1 s))
  else
    (.error E.stackCrcFail,
      report E.stackCrcFail 3 n (recordErrAny (pStack n) E.stackCrcFail (stackLast n off (countUp (pStack n) 0x824 31 16 1 s))))

/-- Parts of units in turn, until one fails. -/
def readUnits (n off : Nat) (crc : Bool) (k : StoreKey) (chk : StackCheck) (a : Nat) : List (Nat × Nat) → State → Except Code (List Byte) × State
  | [], s => (.ok [], s)
  | q :: l, s =>
    match readUnit n off crc k chk (a + q.1) q.2 s with
    | (.error c, s) => (.error c, s)
    | (.ok b, s) =>
      match readUnits n off crc k chk a l s with
      | (.error c, s) => (.error c, s)
      | (.ok bs, s) => (.ok (b ++ bs), s)

/-- The words that an access touches: those of its range, or of the whole units where it reads them whole. -/
def touched (whole : Bool) (a len : Nat) : Nat × Nat :=
  if len = 0 then (a, 0)
  else if whole then (a / 512 * 512, ((a + len - 1) / 512 + 1) * 512 - a / 512 * 512)
  else (a / 8 * 8, (a + len + 7) / 8 * 8 - a / 8 * 8)

/-- A read of stack n: `floor` says that the data enters the floor or leaves for a chain peer, so that a WEIGHT region's CRCs
are checked (R220). -/
def stackRead (n off len : Nat) (floor : Bool) (chk : StackCheck) (s : State) : Except Code (List Byte) × State :=
  match accessRegion s n off len with
  | .error c => (.error c, stackLast n off s)
  | .ok r =>
    match storeKey s n r with
    | .error c => (.error c, stackLast n off s)
    | .ok k =>
      let crc := floor && regionWeight s n r
      let a := stackAddr n off
      let w := touched crc a len
      match eccEvents n off (hitsIn chk w.1 w.2) s with
      | (some c, s) => (.error c, s)
      | (none, s) => readUnits n off crc k chk a (piecesOf 512 512 a len) s

/-- A write within one 512-byte unit under a key: of part of it, the rest is read and merged, and its CRC follows where it is
consistent; written whole it becomes consistent (R220). DESIGN CHOICE, log 34. -/
def writeUnit (k : StoreKey) (chk : StackCheck) (a : Nat) (l : List Byte) (s : State) : State :=
  let u := a / 512
  let whole := l.length == 512
  let new := if whole then l else splice (readBytes s k chk false (512 * u) 512) (a % 512) l
  { s with stackMem := putBytes s.stackMem (512 * u) new
           stackKey := mput s.stackKey u k
           stackCrc := if whole || (mfind s.stackCrc u).isSome then mput s.stackCrc u (crc32c new) else s.stackCrc }

/-- A write of bytes at a local address under a key. DESIGN CHOICE, log 34. -/
def writeStack (k : StoreKey) (chk : StackCheck) (a : Nat) (l : List Byte) (s : State) : State :=
  (piecesOf 512 512 a l.length).foldl (fun s q => writeUnit k chk (a + q.1) ((l.drop q.1).take q.2) s) s

/-- The units of a write of which a part is read and merged. -/
def mergedHits (chk : StackCheck) (a len : Nat) : StackCheck :=
  ((piecesOf 512 512 a len).filter (·.2 ≠ 512)).flatMap fun q => hitsIn chk ((a + q.1) / 512 * 512) 512

/-- A write to stack n under a key; a unit of which a part is written reads the rest first (R219, R220). -/
def stackPut (n off : Nat) (k : StoreKey) (l : List Byte) (chk : StackCheck) (s : State) : Option Code × State :=
  match eccEvents n off (mergedHits chk (stackAddr n off) l.length) s with
  | (some c, s) => (some c, s)
  | (none, s) => (none, writeStack k chk (stackAddr n off) l s)

/-- A write to stack n, by the region of its place. -/
def stackWrite (n off : Nat) (l : List Byte) (chk : StackCheck) (s : State) : Option Code × State :=
  match accessRegion s n off l.length with
  | .error c => (some c, stackLast n off s)
  | .ok r =>
    match storeKey s n r with
    | .error c => (some c, stackLast n off s)
    | .ok k => stackPut n off k l chk s

/-! ### Requests from the floor (R222, R226, R403, R404) -/

/-- A request fails: its requester gets a notice (R211, R226). -/
def requestFails (n : Nat) (m : Msg) (c : Code) (s : State) : State :=
  (if m.cls = .read then readRefused m c else notify m.origin c m.addr) (if c = E.fenceViolation then fenceRefusedAny (pStack n) s else s)

/-- Why a request of the request path is not served, before its data is touched. DESIGN CHOICE, log 11. -/
def requestCheck (s : State) (n : Nat) (m : Msg) (len : Nat) : Option Code :=
  let off := m.addr - stackAddr n 0
  if !stackOn s n then some E.stackUnavailable
  else match accessRegion s n off len with
    | .error c => some c
    | .ok _ => if fenceStack s m.src n off then none else some E.fenceViolation

/-- The edge router that a request came through. -/
def requestRouter (m : Msg) : Nat := coreOfXY m.dx m.dy

/-- A READ of the request path: one reply, or a notice (R226). -/
def serveStackRead (n : Nat) (m : Msg) (chk : StackCheck) (s : State) : State :=
  let len := 32 * m.rflits
  match requestCheck s n m len with
  | some c => requestFails n m c (stackLast n (m.addr - stackAddr n 0) s)
  | none =>
    match stackRead n (m.addr - stackAddr n 0) len true chk s with
    | (.error c, s) => requestFails n m c s
    | (.ok l, s) => injectEngine (requestRouter m) (replyMsg m (srcStack n) l) s

/-- Bytes that a channel asked for have come back: fenced where a core sends them (R403), they are written under the key that the
segment's place had when the segment started (R223). -/
def serveSegIn (n : Nat) (m : Msg) (st ch id : Nat) (chk : StackCheck) (s : State) : State :=
  match (chanAt (stackAt s st) ch).segs.find? (·.id == id) with
  | none => s
  | some g =>
    if !fenceStack s m.src n (m.addr - stackAddr n 0) then
      failPart (.seg st ch id) m.payload.length E.fenceViolation (fenceRefusedAny (pStack n) s)
    else match g.key with
      | none => failPart (.seg st ch id) m.payload.length E.xtsKeyAbsent s
      | some k =>
        match stackPut n (m.addr - stackAddr n 0) k m.payload chk s with
        | (some c, s) => failPart (.seg st ch id) m.payload.length c s
        | (none, s) => segLanded st ch id m.payload.length s

/-- A DATA message of the request path is written, then notifies (R226). -/
def serveStackWrite (n : Nat) (m : Msg) (chk : StackCheck) (s : State) : State :=
  match m.origin with
  | .segIn st ch id _ => serveSegIn n m st ch id chk s
  | _ =>
    match requestCheck s n m m.payload.length with
    | some c => requestFails n m c (stackLast n (m.addr - stackAddr n 0) s)
    | none =>
      match stackWrite n (m.addr - stackAddr n 0) m.payload chk s with
      | (some c, s) => requestFails n m c s
      | (none, s) => landed m.origin m.payload.length (sendNotify (requestRouter m) (srcStack n) m.notify m.tally s)

/-- Whether a message brings bytes that a channel asked for, which wait while the stack is not on (R222). -/
def isSegIn (m : Msg) : Bool :=
  match m.origin, m.cls with
  | .segIn _ _ _ _, .data => true
  | _, _ => false

/-- Bytes of a request of the request path. -/
def requestLen (m : Msg) : Nat := if m.cls = .read then 32 * m.rflits else m.payload.length

/-- Pool units of a number of bytes. -/
def poolUnits (len : Nat) : Nat := (len + 255) / 256

/-- Whether the request at the front of a stack's request path can be served now: the stack is not dark, its controller does not
restart, bytes that a channel asked for find the stack on, and the pool has room for its data (R222, R230, R516). DESIGN CHOICE,
log 34. -/
def frontRuns (s : State) (n : Nat) (m : Msg) : Bool :=
  !isDark s (stackField n) && !restarts s 3 n && (!isSegIn m || stackOn s n) && decide (poolUnits (requestLen m) ≤ (stackAt s n).poolFree)

/-- The request at the front of a stack's request path is served, where it can be. -/
def serveFront (n : Nat) (chk : StackCheck) (s : State) : State :=
  match (stackAt s n).inbox with
  | m :: l =>
    if frontRuns s n m then
      let s := setStack n { stackAt s n with inbox := l } s
      if m.cls = .read then serveStackRead n m chk s else serveStackWrite n m chk s
    else s
  | [] => s

/-- The same, where it is a READ or not as asked. -/
def requestRow (n : Nat) (isRead : Bool) (chk : StackCheck) (s : State) : State :=
  match (stackAt s n).inbox with
  | m :: _ => if (m.cls == .read) == isRead then serveFront n chk s else s
  | [] => s

/-- Whether a request touches a 512-byte unit of a range of local addresses. -/
def sharesUnit (a len : Nat) (m : Msg) : Bool :=
  decide (0 < len) && decide (0 < requestLen m) && decide (m.addr / 512 ≤ (a + len - 1) / 512)
    && decide (a / 512 ≤ (m.addr + requestLen m - 1) / 512)

/-- Whether an earlier request to a unit of a range still waits (R221). -/
def behind (s : State) (n a len : Nat) : Bool := (stackAt s n).inbox.any (sharesUnit a len)

/-- Earlier requests to the units of a range take effect first (R221): at most k. -/
def serveEarlier (n a len : Nat) (chk : StackCheck) : Nat → State → State
  | 0, s => s
  | k + 1, s => if behind s n a len then serveEarlier n a len chk k (serveFront n chk s) else s

/-- Requests to the units of a range that arrived before an access of a channel take effect before it (R221). DESIGN CHOICE, log 34. -/
def inOrder (n a len : Nat) (chk : StackCheck) (s : State) : State := serveEarlier n a len chk (stackAt s n).inbox.length s

/-- STACK_READ_REQUEST (R226) -/
def execStackReadRequest (n : Fin 24) (check : StackCheck) (s : State) : Result :=
  .next (requestRow n.val true check s)
/-- STACK_WRITE_REQUEST (R226) -/
def execStackWriteRequest (n : Fin 24) (check : StackCheck) (s : State) : Result :=
  .next (requestRow n.val false check s)

end Sys2Proof.Machine
end

