-- ==== Sys2Proof/Machine/FabricInstr.lean ====
section
/-! DEFINITION. Fabric instructions: SND, SNDR and RDM (R127 to R130). -/

namespace Sys2Proof.Machine

open Sys2Proof

/-- A message joins the local injection queue once it fits whole (R127, R182). -/
def sendLocal (k : Iss) (m : Msg) (s : State) : IRes :=
  if 32 < injectUsed (coreAt s k.c) + flits m then .block (.inject (flits m)) s
  else .done (injectLocal k.c m s) (pcNext k)

/-- A NOTIFY that names a tally of the serving engine or none (R131). -/
def notifyBad (n : Bool) (t : Nat) : Bool := n && decide (31744 ≤ t)

/-- The source range of an SND. -/
def sndUse (k : Iss) : Use := useRead (fh k 55 50) (fn k 49 45) (fn k 44 40)

/-- The checks of SND (R108, R127, R130). DESIGN CHOICE, log 24. -/
def sndCheck (k : Iss) (s : State) : Option Code :=
  let u := sndUse k
  match handleChk u.h true false [0, 1, 2] false with
  | some c => some c
  | none =>
    match firstFail [
        (u.len % 32 != 0 || tagAlign u || (fw k 34 34 == 1 && fn k 39 35 % 32 != 0), E.alignFault),
        (allOnes (fs k 49 45), E.reservedValue), (decide (512 < u.len) || overrun u, E.lenOverrun)] with
    | some c => some c
    | none => firstSome [targetCheck s (fs k 39 35) u.len false,
        if notifyBad (fw k 33 33 == 1) (fw k 32 18) then some E.tallyInvalid else none]

/-- The message of an SND. -/
def sndMsg (k : Iss) (l : List Byte) : Msg :=
  towardAddr (fn k 39 35)
    { msgNull with cls := .data, tag := fw k 34 34 == 1, notify := fw k 33 33 == 1, tally := fw k 32 18, payload := l,
                   src := k.c, origin := .snd k.c }

/-- SND (R127): the message is copied into the queue at issue; a length of 0 is a no-op. -/
def sndBody (k : Iss) (s : State) : IRes :=
  match sndCheck k s with
  | some c => .fault c s
  | none =>
    let u := sndUse k
    if u.len = 0 then .done s (pcNext k)
    else match gate k.c [u] s with
      | some w => .block w.1 w.2
      | none =>
        if 32 < injectUsed k.x + 1 + u.len / 32 then .block (.inject (1 + u.len / 32)) s
        else withPlainReads k [u] s fun s => sendLocal k (sndMsg k (useBytes k.c u s)) s

/-- The checks of SNDR (R108, R128, R130). -/
def sndrCheck (k : Iss) (s : State) : Option Code :=
  match firstFail [(fn k 52 48 % 32 != 0, E.alignFault), (fw k 42 30 == 0x1FFF, E.reservedValue)] with
  | some c => some c
  | none => firstSome [targetCheck s (fs k 52 48) 256 false,
      if notifyBad (fw k 28 28 == 1) (fw k 27 13) then some E.tallyInvalid else none]

/-- The message of an SNDR: one contribution of 64 lanes. -/
def sndrMsg (k : Iss) : Msg :=
  towardAddr (fn k 52 48)
    { msgNull with cls := .reduce, tag := fw k 29 29 == 1, notify := fw k 28 28 == 1, tally := fw k 27 13,
                   rtag := fn k 47 43 % 2 ^ 16, total := fw k 42 30, count := 1, lt := fw k 53 53 == 1,
                   payload := leBytes 256 (regA k.th (fw k 55 54)).toNat, src := k.c, origin := .snd k.c }

/-- SNDR (R128): TOTAL 0 is a no-op; held while an MVD is to write the accumulator. -/
def sndrBody (k : Iss) (s : State) : IRes :=
  match sndrCheck k s with
  | some c => .fault c s
  | none =>
    if fw k 42 30 = 0 then .done s (pcNext k)
    else if accPending k (fw k 55 54) then .held s
    else sendLocal k (sndrMsg k) s

/-- The destination range of an RDM: the reply is an arrival and waits for its tags itself (R129). -/
def rdmUse (k : Iss) : Use := ⟨fh k 55 50, fn k 49 45, fn k 44 40, true, none, false⟩

/-- The checks of RDM (R108, R129, R130). -/
def rdmCheck (k : Iss) (s : State) : Option Code :=
  let u := rdmUse k
  match handleChk u.h false true [0, 1] false with
  | some c => some c
  | none =>
    match firstFail [
        (u.len % 32 != 0 || tagAlign u || fn k 39 35 % 32 != 0, E.alignFault),
        (allOnes (fs k 49 45), E.reservedValue), (decide (512 < u.len) || overrun u, E.lenOverrun)] with
    | some c => some c
    | none => firstSome [targetCheck s (fs k 39 35) u.len true,
        if notifyBad (fw k 34 34 == 1) (fw k 33 19) then some E.tallyInvalid else none]

/-- The READ of an RDM. -/
def rdmMsg (k : Iss) : Msg :=
  let u := rdmUse k
  towardAddr (fn k 39 35)
    { msgNull with cls := .read, rflits := u.len / 32, rcore := k.c, roff := u.h.base + u.off, rtagged := u.h.tagged,
                   rnotify := fw k 34 34 == 1, rtally := fw k 33 19, src := k.c,
                   origin := .rdm k.c (fw k 55 50) u.off }

/-- RDM (R129): the thread does not wait for the reply. -/
def rdmBody (k : Iss) (s : State) : IRes :=
  match rdmCheck k s with
  | some c => .fault c s
  | none =>
    let u := rdmUse k
    if u.len = 0 then .done s (pcNext k)
    else match gate k.c [u] s with
      | some w => .block w.1 w.2
      | none => sendLocal k (rdmMsg k) s

/-- SND (R127) -/
def execSnd (i : Issue) (s : State) : Result := .next (issue 0x70 i sndBody s)
/-- SNDR (R128) -/
def execSndr (i : Issue) (s : State) : Result := .next (issue 0x71 i sndrBody s)
/-- RDM (R129) -/
def execRdm (i : Issue) (s : State) : Result := .next (issue 0x72 i rdmBody s)

end Sys2Proof.Machine
end

