-- ==== Sys2Proof/Machine/TallyInstr.lean ====
section
/-! DEFINITION. Tally instructions and the wake of threads (R77, R131, R133, R134). -/

namespace Sys2Proof.Machine

open Sys2Proof

/-- The tally number sA + TNUM, at 64 bits. DESIGN CHOICE, log 24. -/
def tallyNum (k : Iss) : DWord := fs k 50 46 + BitVec.ofNat 64 (fw k 40 26)

/-- The value sB + VIMM, at 64 bits. DESIGN CHOICE, log 24. -/
def tallyVal (k : Iss) : DWord := fs k 45 41 + BitVec.ofNat 64 (fw k 23 0)

/-- The checks of TADD and TSET (R108, R131, R133). -/
def taddCheck (k : Iss) : Option Code :=
  firstFail [(tallyVal k == 0xFFFFFF, E.reservedValue), (decide (0xFFFFFF < (tallyVal k).toNat), E.countOverrun),
    (decide (31744 ≤ (tallyNum k).toNat), E.tallyInvalid)]

/-- A message of this core to a tally. -/
def tallyMsg (k : Iss) (s : State) (op : TallyOp) : Msg :=
  towardTally s k.c (tallyNum k).toNat { msgNull with cls := .tally, op := op, src := k.c }

/-- TADD and TSET (R133): TADD of 0 is a no-op. -/
def taddBody (op : TallyOp) (k : Iss) (s : State) : IRes :=
  match taddCheck k with
  | some c => .fault c s
  | none =>
    if op = .add ∧ tallyVal k = 0 then .done s (pcNext k)
    else sendLocal k { tallyMsg k s op with value := (tallyVal k).toNat } s

/-- A tally by number. -/
def tallyAt (s : State) (t : Nat) : Tally := mget ⟨0, 0⟩ s.tallies t

/-- The value that TWAIT and a wake deliver: EPOCH in [15:0], COUNT in [39:16]. -/
def tallyWord (t : Tally) : DWord := BitVec.ofNat 64 (2 ^ 16 * t.count.toNat + t.epoch.toNat)

/-- The page that records a refusal at a tally (R404). -/
def tallyPage (t : Nat) : Nat := if t < 30720 then fieldPage (t / 384) 8 else pSec

/-- Whether the place of a tally is in a dark field; the hub is never dark. -/
def tallyDark (s : State) (t : Nat) : Bool := decide (t < 30720) && isDark s (t / 384)

/-- TWAIT with PEEK 1: sD receives the tally as sampled (R134). Fenced or dark, the request has no effect (R137, R404). DESIGN CHOICE, log 24. -/
def peek (k : Iss) (s : State) : State :=
  let t := (tallyNum k).toNat
  if tallyDark s t then s
  else if !fenceOwner s k.c (mfind s.tallyOwner t) then fenceRefused (tallyPage t) k.c s
  else updThread k (setS (fw k 55 51) (tallyWord (tallyAt s t))) s

/-- TWAIT (R134): with PEEK 0 the registration is sent and the thread blocks with TALLY until the reply. -/
def twaitBody (k : Iss) (s : State) : IRes :=
  if 31744 ≤ (tallyNum k).toNat then .fault E.tallyInvalid s
  else if fw k 25 25 = 1 then .done (peek k s) (pcNext k)
  else
    let expect := BitVec.ofNat 16 (fn k 45 41)
    let m := { tallyMsg k s .reg with epoch := expect, thread := k.t }
    if 32 < injectUsed k.x + flits m then .block (.inject (flits m)) s
    else .block (.tally (tallyNum k).toNat expect (fw k 55 51)) (injectLocal k.c m s)

/-- A thread whose wait condition is met becomes READY (R77). -/
def wakeThread (c t : Nat) (s : State) : State :=
  let x := coreAt s c
  let th := threadAt x t
  if th.st == .blocked && th.met then setCore c (setThread t { th with st := .ready, wait := .none, met := false } x) s
  else s

/-- TADD (R133) -/
def execTadd (i : Issue) (s : State) : Result := .next (issue 0x78 i (taddBody .add) s)
/-- TSET (R133) -/
def execTset (i : Issue) (s : State) : Result := .next (issue 0x79 i (taddBody .set) s)
/-- TWAIT (R134) -/
def execTwait (i : Issue) (s : State) : Result := .next (issue 0x7A i twaitBody s)
/-- THREAD_WAKE (R77) -/
def execThreadWake (c : CoreRef) (t : Fin 16) (s : State) : Result :=
  .next (if coreRuns s (coreId c) then wakeThread (coreId c) t.val s else s)

end Sys2Proof.Machine
end

