-- ==== Sys2Proof/Machine/Tally.lean ====
section
/-! DEFINITION. Tally blocks: adds, sets, fires, registrations and wakes (R131 to R135, R137, R139). -/

namespace Sys2Proof.Machine

open Sys2Proof

/-- TARGET of tally t: a register of pages +6 and +7 of its field, or set by the module controller (R131, R138). -/
def tallyTarget (s : State) (t : Nat) : Nat :=
  if t < 30720 then
    let i := t % 384
    if i < 192 then liveF s (fieldPage (t / 384) 6) (0x40 + 4 * i) 23 0
    else liveF s (fieldPage (t / 384) 7) (0x40 + 4 * (i - 192)) 23 0
  else (mget 0 s.hubTargets t).toNat

/-- Sets a tally. -/
def setTally (t : Nat) (x : Tally) (s : State) : State := { s with tallies := mset ⟨0, 0⟩ s.tallies t x }

/-- Wait lists of tally t: its field's four ports, or the hub's (R135). -/
def waitKeys (t : Nat) : List Nat := if t < 30720 then (List.range 4).map (4 * (t / 384) + ·) else (List.range 4).map (320 + ·)

/-- The router at which a wait list's port attaches, and the SRC of what it sends (R15, R135, R183). DEDUCED, log 32. -/
def waitRouter (key : Nat) : Nat × Nat :=
  if key < 320 then (tallyRouter (key / 4) (key % 4), 0x7E000 + key / 4) else (hubRouter (key - 320), 0x7F000 + (key - 320))

/-- The wake that answers a waiter: EPOCH and COUNT of the tally (R134, R183). DEDUCED, log 32. -/
def sendWake (key t : Nat) (w : Waiter) (s : State) : State :=
  let x := tallyAt s t
  let q := waitRouter key
  let m : Msg := { msgNull with cls := .tally, op := .wake, value := x.count.toNat, epoch := x.epoch, tally := t, src := q.2 }
  match w with
  | .thread c th => injectEngine q.1 (toward c 0 { m with thread := th }) s
  | .channel n ch => injectEngine q.1 (toward (stackRouter n 0).1 (stackRouter n 0).2 { m with thread := ch }) s

/-- Every waiter of tally t is woken and its entry freed. -/
def wakeWaiters (t : Nat) (s : State) : State :=
  (waitKeys t).foldl (fun s key =>
    let l := mget [] s.waits key
    let go := l.filter (·.tally == t)
    if go.isEmpty then s
    else go.foldl (fun s e => sendWake key t e.who s)
      { s with waits := mset [] s.waits key (l.filter (·.tally != t)) }) s

/-- An add of v to COUNT (R132). -/
def addTo (target : Nat) (x : Tally) (v : Nat) : Tally :=
  let total := x.count.toNat + v
  if target = 0 then { x with count := BitVec.ofNat 24 total }
  else ⟨BitVec.ofNat 24 (total % target), x.epoch + BitVec.ofNat 16 (total / target)⟩

/-- A tally takes its new value; it fires when EPOCH changes (R132, R253). -/
def tallyPut (t : Nat) (x : Tally) (s : State) : State :=
  let was := tallyAt s t
  let s := setTally t x s
  if x.epoch = was.epoch then s
  else wakeWaiters t (if t < 30720 then hdFire (t / 384) (t % 384) s else s)

/-- An add at the tally block (R132). -/
def tallyAdd (t v : Nat) (s : State) : State := tallyPut t (addTo (tallyTarget s t) (tallyAt s t) v) s
/-- A set: COUNT becomes 0, then v is added (R132). -/
def tallySet (t v : Nat) (s : State) : State := tallyPut t (addTo (tallyTarget s t) { tallyAt s t with count := 0 } v) s

/-- The message at the front of a tally block, where its OP is the given one, and the state without it. -/
def tallyFront (b : Nat) (op : TallyOp) (s : State) : Option ((Nat × Msg) × State) :=
  if b < 80 ∧ isDark s b then none
  else match mget [] s.tallyIn b with
    | q :: l => if q.2.op = op then some (q, { s with tallyIn := mset [] s.tallyIn b l }) else none
    | [] => none

/-- The fence at a tally (R403, R404): a refused message is dropped and recorded. -/
def tallyFenced (m : Msg) (s : State) (act : State → State) : State :=
  if fenceOwner s m.src (mfind s.tallyOwner m.tally) then act s else fenceRefused (tallyPage m.tally) m.src s

/-- Who a registration is for (R134, R231). -/
def waiterOf (m : Msg) : Waiter := if srcIsCore m.src then .thread m.src m.thread else .channel (m.src % 4096) m.thread

/-- A refused registration is to be repeated by its sender (R135). DEDUCED, log 32. -/
def refuseWait (b : Nat) (w : Waiter) (s : State) : State :=
  let s := if b < 80 then countUp (fieldPage b 8) 0x814 15 0 1 s else s
  match w with
  | .thread c t => updCore c (fun x => { x with refused := insertAsc t x.refused }) s
  | .channel n ch => updChan n ch (fun c => { c with refused := true }) s

/-- A registration at port p of block b (R134, R135): answered at once, listed, or refused. DEDUCED, log 32. -/
def tallyRegister (b p : Nat) (m : Msg) (s : State) : State :=
  let key := if b < 80 then 4 * b + p else 320 + (b - 80)
  if (tallyAt s m.tally).epoch ≠ m.epoch then sendWake key m.tally (waiterOf m) s
  else if 16 ≤ (mget [] s.waits key).length then refuseWait b (waiterOf m) s
  else { s with waits := mset [] s.waits key (mget [] s.waits key ++ [⟨m.tally, m.epoch, waiterOf m⟩]) }

/-- What a row of a tally block does with the message at its front. -/
def tallyRow (b : Nat) (op : TallyOp) (act : Nat → Msg → State → State) (s : State) : State :=
  match tallyFront b op s with
  | some q => tallyFenced q.1.2 q.2 (act q.1.1 q.1.2)
  | none => s

/-- A thread's registration, sent again by its core (R134, R135). -/
def sendReg (c t num : Nat) (expect : BitVec 16) (s : State) : State :=
  injectEngine c (towardTally s c num { msgNull with cls := .tally, op := .reg, src := c, epoch := expect, thread := t }) s

/-- A wake reply at a core (R134): it completes TWAIT, or the registration goes out again; one for a thread that does not
wait is discarded. -/
def wakeReply (c : Nat) (m : Msg) (s : State) : State :=
  let x := coreAt s c
  let th := threadAt x m.thread
  match th.st, th.wait with
  | .blocked, .tally num expect d =>
    if th.met || num != m.tally then s
    else if m.epoch = expect then sendReg c m.thread num expect s
    else
      setCore c (setThread m.thread
        { setS d (tallyWord ⟨BitVec.ofNat 24 m.value, m.epoch⟩) th with pc := th.pc + 8, met := true } x) s
  | _, _ => s

/-- TALLY_WAKE_REPLY (R134) -/
def tallyWakeReply (c : Nat) (s : State) : State :=
  match isDark s (fieldOfCore c), (coreAt s c).wakes with
  | false, m :: l => wakeReply c m (updCore c (fun x => { x with wakes := l }) s)
  | _, _ => s

/-- TALLY_REG_RETRY (R135): the registration that was refused goes out again. DEDUCED, log 32. -/
def tallyRegRetry (c t : Nat) (s : State) : State :=
  let x := coreAt s c
  if isDark s (fieldOfCore c) || !x.refused.contains t then s
  else
    let s := setCore c { x with refused := without t x.refused } s
    match (threadAt x t).st, (threadAt x t).wait with
    | .blocked, .tally num expect _ => sendReg c t num expect s
    | _, _ => s

/-- The tally that TALLY_SEL selects (R139). -/
def tallySelected (s : State) (f : Nat) : Nat := 384 * f + liveF s (fieldPage f 8) 0x800 8 0

/-- TALLY_CMD with ADD or SET (R139). -/
def tallyCmd (f : Nat) (set : Bool) (v : Nat) (s : State) : State :=
  if v = 0xFFFFFF then recordErrAny (fieldPage f 8) E.reservedValue s
  else if set then tallySet (tallySelected s f) v s else tallyAdd (tallySelected s f) v s

/-- TALLY_ADD (R132) -/
def execTallyAdd (b : Fin 84) (s : State) : Result := .next (tallyRow b.val .add (fun _ m => tallyAdd m.tally m.value) s)
/-- TALLY_SET (R132) -/
def execTallySet (b : Fin 84) (s : State) : Result := .next (tallyRow b.val .set (fun _ m => tallySet m.tally m.value) s)
/-- TALLY_REGISTRATION (R134) -/
def execTallyRegistration (b : Fin 84) (s : State) : Result := .next (tallyRow b.val .reg (tallyRegister b.val) s)
/-- TALLY_WAKE_REPLY (R134) -/
def execTallyWakeReply (c : CoreRef) (s : State) : Result := .next (tallyWakeReply (coreId c) s)
/-- TALLY_REG_RETRY (R135) -/
def execTallyRegRetry (c : CoreRef) (t : Fin 16) (s : State) : Result := .next (tallyRegRetry (coreId c) t.val s)
/-- TALLY_CMD_ADD (R139) -/
def execTallyCmdAdd (m : Master) (field : Fin 80) (v : BitVec 24) (s : State) : Result :=
  .next (onPage m (fieldPage field.val 8) 0x80C (tallyCmd field.val false v.toNat) s)
/-- TALLY_CMD_SET (R139) -/
def execTallyCmdSet (m : Master) (field : Fin 80) (v : BitVec 24) (s : State) : Result :=
  .next (onPage m (fieldPage field.val 8) 0x80C (tallyCmd field.val true v.toNat) s)
/-- FLUSH_WAITS (R139) -/
def execFlushWaits (m : Master) (field : Fin 80) (s : State) : Result :=
  .next (onPage m (fieldPage field.val 8) 0x80C (fun s => wakeWaiters (tallySelected s field.val) s) s)

end Sys2Proof.Machine
end

