-- ==== Sys2Proof/Machine/Channel.lean ====
section
/-! DEFINITION. Stack DMA channels (R228 to R232, R234, R403). -/

namespace Sys2Proof.Machine

open Sys2Proof

/-! ### Descriptors (R228, R229) -/

/-- A descriptor from its four words, and the reserved bits of word 0. -/
def chDescOf (l : List Byte) : ChDesc × Nat :=
  let w := fun i => leNat ((l.drop (8 * i)).take 8)
  let w0 : DWord := BitVec.ofNat 64 (w 0)
  let w3 : DWord := BitVec.ofNat 64 (w 3)
  ({ op := bits w0 63 60, notify := bit w0 59, tally := bits w0 58 44, wait := bit w0 43, waitTally := bits w0 42 28,
     last := bit w0 27, tag := bit w0 26, src := BitVec.ofNat 64 (w 1), dst := BitVec.ofNat 64 (w 2), len := bits w3 63 32,
     next := bits w3 31 0 }, bits w0 25 0)

/-- Whether a side is local to this engine. -/
def sideLocal (s : State) (a : DWord) : Bool := bits a 63 50 == ownModule s

/-- Whether a side starts in the window of stack n. -/
def sideOwn (s : State) (n : Nat) (a : DWord) : Bool :=
  sideLocal s a && decide (stackAddr n 0 ≤ bits a 49 0) && decide (bits a 49 0 < stackAddr n 0 + stackWin)

/-- Whether a side starts in the host aperture. -/
def sideHost (s : State) (a : DWord) : Bool :=
  sideLocal s a && decide (0x300000000000 ≤ bits a 49 0) && decide (bits a 49 0 < 0x400000000000)

/-- Whether a side starts among the core strides. -/
def sideCore (s : State) (a : DWord) : Bool := sideLocal s a && decide (bits a 49 0 < 0x2000000000)

/-- The operand rule (R229 step 5). -/
def operandRule (s : State) (n : Nat) (d : ChDesc) : Bool :=
  match d.op with
  | 3 => d.src == 0 && d.dst == 0 && d.len == 0
  | 2 => d.src == 0 && (sideOwn s n d.dst || sideCore s d.dst)
  | _ => (sideOwn s n d.src || sideOwn s n d.dst) && !sideHost s d.src && !sideHost s d.dst

/-- The range of a side against R209, then R223. -/
def sideCheck (s : State) (a : DWord) (len : Nat) : Option Code :=
  if !sideLocal s a || len == 0 then none
  else match localRange s (bits a 49 0) len with
    | .bad c => some c
    | .stack =>
      let o := bits a 49 0 - stackBase
      (match accessRegion s (o / stackWin) (o % stackWin) len with
        | .error c => some c
        | .ok _ => none)
    | _ => none

/-- The checks of a descriptor, in the order of R229. -/
def chDescCheck (s : State) (n : Nat) (d : ChDesc) (resv : Nat) : Option Code :=
  match firstFail [
      (d.op == 0 || decide (3 < d.op), E.dmaOpInvalid),
      (resv != 0, E.stackDescInvalid),
      (d.src.toNat % 32 != 0 || d.dst.toNat % 32 != 0 || d.len % 32 != 0, E.alignFault),
      (d.len == 0xFFFFFFFF, E.reservedValue),
      (!operandRule s n d, E.stackDescInvalid)] with
  | some c => some c
  | none => firstSome [
      if d.op = 1 then sideCheck s d.src d.len else none,
      if d.op ≤ 2 then sideCheck s d.dst d.len else none,
      if 31744 ≤ d.waitTally ∨ 31744 ≤ d.tally then some E.tallyInvalid else none]

/-! ### Segments (R230, R403) -/

/-- The channel's TENANT: KEY of the region that holds its descriptor (R383). -/
def chanTenant (s : State) (n : Nat) (c : Chan) : Option Nat := (regionOf s n (32 * c.cur)).map (regionKey s n)

/-- Whether the fence lets a segment touch n bytes of a side (R403). -/
def fenceSide (s : State) (tenant : Option Nat) (a : DWord) (off : Nat) : Bool :=
  if !sideLocal s a then true
  else match tenant, addrKind (bits a 49 0 + off) with
    | some t, .core c _ => tenantOfCore s c == some t
    | some t, .stack k o => (match regionOf s k o with
        | some r => regionKey s k r == t
        | none => false)
    | _, _ => false

/-- The side whose 4 KiB alignment cuts a descriptor's range into segments. -/
def cutSide (d : ChDesc) : Nat := if d.op = 1 then bits d.src 49 0 else bits d.dst 49 0

/-- Length of the segment that begins at an offset of the range. -/
def segLen (d : ChDesc) (off : Nat) : Nat := Nat.min (d.len - off) (4096 - (cutSide d + off) % 4096)

/-- A segment becomes part of its channel, with the pool space of the data that it brings into the controller (R230). -/
def addSeg (n ch : Nat) (g : Seg) (s : State) : State :=
  let s := updChan n ch (fun c => { c with segs := c.segs ++ [g], started := g.off + g.len, nextSeg := c.nextSeg + 1 }) s
  setStack n { stackAt s n with poolFree := (stackAt s n).poolFree - g.pool } s

/-- A remote request of a segment, from the stack's edge field to its home attachment (R373, R391). -/
def segRemote (n ch id op : Nat) (a : DWord) (off len loc : Nat) (tag : Bool) (tenant : Option Nat) (l : List Byte) (s : State) :
    State :=
  let p : Pcl := { op := op, hops := 0, len := len, dest := bits a 63 50, srcM := ownModule s, tagged := tag, status := 0,
                   mtag := 0, addr := bits a 49 0 + off, keyId := boundKey s tenant, data := l }
  let k := homeLink s (stackField n)
  injectEngine (stackRouter n 0).1
    { floorMsg k (stackCol n % 4) 0 (srcStack n) (.seg n ch id) p with roff := loc, rtagged := false } s

/-- Bytes of a segment leave for its destination: core store, another stack or another engine; those for this stack stay with
the segment. -/
def segSend (n ch : Nat) (g : Seg) (d : ChDesc) (tenant : Option Nat) (l : List Byte) (s : State) : State :=
  if sideOwn s n d.dst then
    updChan n ch (fun c => { c with segs := c.segs.map fun q => if q.id = g.id then { q with data := l } else q }) s
  else if sideLocal s d.dst then
    (piecesOf 512 (2 ^ 50) 0 g.len).foldl (fun s q =>
      let a := bits d.dst 49 0 + g.off + q.1
      let r := (stackRouter n (256 * ((g.off + q.1) / 512 % 32))).1
      injectEngine r (towardAddr a
        { msgNull with cls := .data, tag := d.tag && decide (a < 0x2000000000), src := srcStack n,
                       payload := (l.drop q.1).take q.2, origin := .seg n ch g.id }) s) s
  else
    (piecesOf 4096 4096 (bits d.dst 49 0 + g.off) g.len).foldl (fun s q =>
      segRemote n ch g.id 1 d.dst (g.off + q.1) q.2 0 d.tag tenant ((l.drop q.1).take q.2) s) s

/-- A segment asks for bytes that lie elsewhere. DESIGN CHOICE, log 34. -/
def segFetch (n ch : Nat) (g : Seg) (d : ChDesc) (tenant : Option Nat) (s : State) : State :=
  let dst := bits d.dst 49 0 + g.off
  if sideLocal s d.src then
    (piecesOf 512 (2 ^ 50) 0 g.len).foldl (fun s q =>
      let r := (stackRouter n (256 * ((g.off + q.1) / 512 % 32))).1
      injectEngine r (towardAddr (bits d.src 49 0 + g.off + q.1)
        { msgNull with cls := .read, rflits := q.2 / 32, src := srcStack n, origin := .segIn n ch g.id (dst + q.1) }) s) s
  else
    (piecesOf 4096 4096 (bits d.src 49 0 + g.off) g.len).foldl (fun s q =>
      segRemote n ch g.id 2 d.src (g.off + q.1) q.2 (dst + q.1) false tenant [] s) s

/-- A channel's descriptor has failed; no further segment starts (R232). -/
def chanFails (n ch : Nat) (c : Code) (s : State) : State := updChan n ch (fun x => { x with failed := some (x.failed.getD c) }) s

/-- Why a segment may not start: its ranges against R209 and R223, then the fence (R403). -/
def segCheck (s : State) (t : Option Nat) (d : ChDesc) (off len : Nat) : Option Code :=
  let at_ := fun a : DWord => a + BitVec.ofNat 64 off
  firstSome [
    if d.op = 2 then none else sideCheck s (at_ d.src) len,
    sideCheck s (at_ d.dst) len,
    if (d.op == 2 || fenceSide s t d.src off) && fenceSide s t d.dst off then none else some E.fenceViolation]

/-- The key under which a part of this stack is written, where it lies there. -/
def placeKey (s : State) (n : Nat) (a : DWord) (off : Nat) : Option StoreKey :=
  if !sideOwn s n a then none
  else match regionOf s n (bits a 49 0 + off - stackAddr n 0) with
    | some r => mfind (stackAt s n).keys (regionKey s n r)
    | none => none

/-- The next segment starts: checked, its bytes read from this stack or asked for (R220, R223, R230, R403). -/
def startSeg (n ch : Nat) (d : ChDesc) (off : Nat) (chk : StackCheck) (s : State) : State :=
  let c := chanAt (stackAt s n) ch
  let t := chanTenant s n c
  let len := segLen d off
  let g : Seg := ⟨c.nextSeg, off, len, len, [], if segBrings s n d then poolUnits len else 0, placeKey s n d.dst off, false⟩
  match segCheck s t d off len with
  | some e => chanFails n ch e (if e = E.fenceViolation then fenceRefusedAny (pStack n) s else s)
  | none =>
    if sideOwn s n d.dst && g.key.isNone then chanFails n ch E.xtsKeyAbsent s
    else if d.op = 2 then segSend n ch g d t (List.replicate g.len 0) (addSeg n ch g s)
    else if sideOwn s n d.src then
      match stackRead n (bits d.src 49 0 + off - stackAddr n 0) g.len (!sideOwn s n d.dst) chk s with
      | (.error e, s) => chanFails n ch e s
      | (.ok l, s) => segSend n ch g d t l (addSeg n ch g s)
    else segFetch n ch g d t (addSeg n ch g s)
where
  /-- Whether a segment's data enters the controller as it starts: zeros, or bytes of this stack (R230). -/
  segBrings (s : State) (n : Nat) (d : ChDesc) : Bool := d.op == 2 || sideOwn s n d.src

/-- Whether a descriptor's other side lies in another engine: it then holds a DMA credit (R230). -/
def chRemote (s : State) (d : ChDesc) : Option Nat :=
  if d.op ≠ 1 then none
  else if !sideLocal s d.src then some (bits d.src 63 50)
  else if !sideLocal s d.dst then some (bits d.dst 63 50)
  else none

/-- The bytes of this stack that a segment reads: local address and length. -/
def segReads (s : State) (n : Nat) (d : ChDesc) (off : Nat) : Nat × Nat :=
  if d.op ≠ 2 ∧ sideOwn s n d.src then (bits d.src 49 0 + off, segLen d off) else (0, 0)

/-- A channel is STALLED for pool space; each entry is counted. -/
def stallPool (n ch : Nat) (s : State) : State :=
  updChan n ch (fun c => { c with st := .stalled })
    (if (chanAt (stackAt s n) ch).st = .stalled then s else countUp (pStack n) 0x828 31 16 1 s)

/-- Segments start while the range lasts, 128 are not in flight and the pool has room; earlier requests to the bytes that one reads
take effect first (R221). A channel that finds no room, for its segment or for such a request, is STALLED. -/
def startSegs (n ch : Nat) (d : ChDesc) (chk : StackCheck) : Nat → State → State
  | 0, s => s
  | fuel + 1, s0 =>
    let c := chanAt (stackAt s0 n) ch
    if c.failed.isSome || c.aborting || decide (d.len ≤ c.started) || decide (128 ≤ c.segs.length) then s0
    else
      let r := segReads s0 n d c.started
      let s := inOrder n r.1 r.2 chk s0
      let room := startSeg.segBrings s n d && decide ((stackAt s n).poolFree < poolUnits (segLen d c.started))
      if behind s n r.1 r.2 || room then stallPool n ch s
      else startSegs n ch d chk fuel (startSeg n ch d c.started chk (updChan n ch (fun c => { c with st := .running }) s))

/-- A descriptor runs on: a remote one first takes a credit, or is STALLED for one; one that may not leave the engine fails
(R230, R382). -/
def runDesc (n ch : Nat) (chk : StackCheck) (s : State) : State :=
  let c := chanAt (stackAt s n) ch
  match c.desc with
  | none => s
  | some d =>
    let go := fun s => startSegs n ch d chk (d.len / 32 + 1) s
    match chRemote s d with
    | none => go s
    | some dest =>
      if d.len = 0 ∨ c.credit then go s
      else match remoteCheck s dest (chanTenant s n c) with
        | some e => countEnd e dest (chanFails n ch e s)
        | none =>
          if creditLeft s then
            go (updChan n ch (fun c => { c with credit := true }) { s with credits := s.credits + 1 })
          else updChan n ch (fun c => { c with st := .stalled }) s

/-! ### Waiting (R231) -/

/-- The channel registers with its wait tally, as a thread does. -/
def chanRegister (n ch tally : Nat) (e : BitVec 16) (s : State) : State :=
  let r := (stackRouter n 0).1
  injectEngine r (towardTally s r tally
    { msgNull with cls := .tally, op := .reg, src := srcStack n, epoch := e, thread := ch }) s

/-- A descriptor that has passed its checks waits, or starts. -/
def beginDesc (n ch : Nat) (d : ChDesc) (chk : StackCheck) (s : State) : State :=
  let s := updChan n ch (fun c =>
    { c with desc := some d, started := 0, segs := [], failed := none, woken := none, refused := false,
             st := if d.wait then .waiting else .running }) s
  if d.wait then chanRegister n ch d.waitTally (chanAt (stackAt s n) ch).lastEpoch s else runDesc n ch chk s

/-- The channel enters ERROR: the list ends (R232). DESIGN CHOICE, log 34. -/
def chanError (n ch : Nat) (code : Code) (s : State) : State :=
  recordErrAny (pChan n) code (updChan n ch (fun c => { c with st := .error, code := code }) s)

/-- CH_DESC_FETCH (R229): the descriptor at CUR is read through its region and key, checked, and waits or starts; one that fails a
check has ended (R232, R234). -/
def descFetch (n ch : Nat) (chk : StackCheck) (s0 : State) : State :=
  let c := chanAt (stackAt s0 n) ch
  if !stackRuns s0 n || c.st != .running || c.desc.isSome || c.aborting then s0
  else if stackUsed < 32 * c.cur + 32 then chanError n ch E.addrUnbacked s0
  else
    let s := inOrder n (stackAddr n (32 * c.cur)) 32 chk s0
    if behind s n (stackAddr n (32 * c.cur)) 32 then s
    else match stackRead n (32 * c.cur) 32 false chk s with
      | (.error e, s) => chanError n ch e s
      | (.ok l, s) =>
        let d := chDescOf l
        match chDescCheck s n d.1 d.2 with
        | some e =>
          chanError n ch e (sendNotify (stackRouter n 0).1 (srcStack n) (descNotifies d.1) d.1.tally
            (updChan n ch (fun c => { c with done := c.done + 1 }) s))
        | none => beginDesc n ch d.1 chk s
where
  /-- A failed descriptor still notifies its tally, where it names one (R232). -/
  descNotifies (d : ChDesc) : Bool := d.notify && decide (d.tally < 31744)

/-- CH_WAIT_RELEASE (R231): the tally's EPOCH has moved and the descriptor starts; a wake without a fire, or a refusal,
registers again. -/
def waitRelease (n ch : Nat) (chk : StackCheck) (s : State) : State :=
  let c := chanAt (stackAt s n) ch
  match stackRuns s n && c.st == .waiting, c.desc with
  | true, some d =>
    if c.refused then chanRegister n ch d.waitTally c.lastEpoch (updChan n ch (fun c => { c with refused := false }) s)
    else match c.woken with
      | none => s
      | some e =>
        let s := updChan n ch (fun c => { c with woken := none }) s
        if e = c.lastEpoch then chanRegister n ch d.waitTally e s
        else runDesc n ch chk (updChan n ch (fun c => { c with lastEpoch := e, st := .running }) s)
  | _, _ => s

/-- CH_POOL_SPACE (R230): a STALLED channel continues when there is room. DESIGN CHOICE, log 34. -/
def poolSpace (n ch : Nat) (chk : StackCheck) (s : State) : State :=
  if stackRuns s n && (chanAt (stackAt s n) ch).st == .stalled then runDesc n ch chk s else s

/-- Part of a segment has failed: no more of it is awaited, and the descriptor has failed. -/
def segFails (n ch id : Nat) (c : Code) (s : State) : State :=
  chanFails n ch c (updChan n ch (fun x => { x with segs := x.segs.map fun g => if g.id = id then { g with lost := true } else g }) s)

/-- A segment's bytes for this stack are written under the key of its place (R223, R230), after earlier requests there (R221). -/
def segWrite (n ch : Nat) (g : Seg) (chk : StackCheck) (s0 : State) : State :=
  match (chanAt (stackAt s0 n) ch).desc with
  | none => s0
  | some d =>
    let a := bits d.dst 49 0 + g.off
    let s := inOrder n a g.len chk s0
    if behind s n a g.len then s
    else match stackPut n (a - stackAddr n 0) (g.key.getD []) g.data chk s with
      | (some c, s) => segFails n ch g.id c s
      | (none, s) => segLanded n ch g.id g.len s

/-- A segment leaves its channel and its pool space frees. -/
def dropSeg (n ch : Nat) (g : Seg) (s : State) : State :=
  let s := updChan n ch (fun c => { c with segs := c.segs.filter (·.id != g.id) }) s
  setStack n { stackAt s n with poolFree := (stackAt s n).poolFree + g.pool } s

/-- CH_SEGMENT_DONE (R230): a segment's last byte is written; further segments start. DEDUCED, log 65. -/
def segDone (n ch id : Nat) (chk : StackCheck) (s : State) : State :=
  if !stackRuns s n then s
  else match (chanAt (stackAt s n) ch).segs.find? (·.id == id) with
    | none => s
    | some g =>
      let s := if g.data.isEmpty || g.lost then s else segWrite n ch g chk s
      match (chanAt (stackAt s n) ch).segs.find? (·.id == id) with
      | none => s
      | some g =>
        if g.left = 0 then
          let s := dropSeg n ch g s
          if (chanAt (stackAt s n) ch).st = .running then runDesc n ch chk s else s
        else s

/-- The channel follows NEXT, or its list has ended. -/
def nextDesc (d : ChDesc) (c : Chan) : Chan := { c with desc := none, st := if d.last then .idle else .running, cur := if d.last then c.cur else d.next }

/-- Pool space and credit of a channel's descriptor free. -/
def freeDesc (n ch : Nat) (s : State) : State :=
  let c := chanAt (stackAt s n) ch
  let s := c.segs.foldl (fun s g => dropSeg n ch g s) s
  { updChan n ch (fun c => { c with credit := false, done := c.done + 1, started := 0 }) s with
    credits := if c.credit then s.credits - 1 else s.credits }

/-- The module controller hears of a channel's transfer that failed (R486): by the model whose tenant the channel has. -/
def reportChannel (code : Code) (n : Nat) (s : State) : State :=
  if code = E.unmapped ∨ code = E.peerGone then report code 3 n s else s

/-- Whether nothing of a channel's segments in flight is awaited any more. -/
def segsOver (c : Chan) : Bool := c.segs.all fun g => g.left == 0 || g.lost

/-- CH_DESC_END (R230, R232): the last segment is written, or the descriptor failed; its tally is notified. One whose other side lies in
another engine ends when every response has arrived (R391). An aborted one ends unnotified. DESIGN CHOICE, log 34. DEDUCED, log 65. -/
def chDescEnd (n ch : Nat) (s : State) : State :=
  let c := chanAt (stackAt s n) ch
  match stackRuns s n && (c.st == .running || c.st == .stalled), c.desc with
  | true, some d =>
    let tell := fun s => sendNotify (stackRouter n 0).1 (srcStack n) d.notify d.tally s
    if c.aborting then
      (if segsOver c then updChan n ch (fun c => { c with st := .idle, desc := none, aborting := false }) (freeDesc n ch s)
       else s)
    else match c.failed with
      | some code =>
        if (chRemote s d).isSome && !segsOver c then s
        else reportChannel code n (chanError n ch code (tell (updChan n ch (fun c => { c with desc := none }) (freeDesc n ch s))))
      | none =>
        if c.segs.isEmpty ∧ d.len ≤ c.started then tell (updChan n ch (nextDesc d) (freeDesc n ch s)) else s
  | _, _ => s

/-! ### Channel commands (R232, R234) -/

/-- Registers of a channel. -/
def chOff (ch k : Nat) : Nat := 0x800 + 32 * ch + k

/-- START (R232); on C15 it is refused while the module controller uses the channel (R266). -/
def chStart (n ch : Nat) (s : State) : State :=
  let c := chanAt (stackAt s n) ch
  if ch = 15 ∧ mcUses s n then recordErrAny (pChan n) E.stackChBusy s
  else if c.st = .idle ∨ c.st = .error then
    updChan n ch (fun c => { c with st := .running, code := 0, desc := none, failed := none, aborting := false,
                                    cur := liveF s (pChan n) (chOff ch 0) 31 0,
                                    lastEpoch := (live s (pChan n) (chOff ch 4)).setWidth 16 }) s
  else recordErrAny (pChan n) E.stackChBusy s

/-- ABORT (R232): segments in flight complete, then the channel is IDLE. DESIGN CHOICE, log 34. -/
def chAbort (n ch : Nat) (s : State) : State :=
  let c := chanAt (stackAt s n) ch
  match c.st with
  | .running | .waiting | .stalled =>
    if c.segs.isEmpty then
      updChan n ch (fun c => { c with st := .idle, desc := none, aborting := false })
        (if c.desc.isSome then freeDesc n ch s else s)
    else updChan n ch (fun c => { c with aborting := true, st := .running }) s
  | _ => s

/-- CH_START (R232) -/
def execChStart (m : Master) (n : Fin 24) (ch : Fin 16) (s : State) : Result :=
  .next (onPage m (pChan n.val) (chOff ch.val 8) (chStart n.val ch.val) s)
/-- CH_ABORT (R232) -/
def execChAbort (m : Master) (n : Fin 24) (ch : Fin 16) (s : State) : Result :=
  .next (onPage m (pChan n.val) (chOff ch.val 8) (chAbort n.val ch.val) s)
/-- CH_DESC_FETCH (R229) -/
def execChDescFetch (n : Fin 24) (ch : Fin 16) (check : StackCheck) (s : State) : Result :=
  .next (descFetch n.val ch.val check s)
/-- CH_WAIT_RELEASE (R231) -/
def execChWaitRelease (n : Fin 24) (ch : Fin 16) (check : StackCheck) (s : State) : Result :=
  .next (waitRelease n.val ch.val check s)
/-- CH_POOL_SPACE (R230) -/
def execChPoolSpace (n : Fin 24) (ch : Fin 16) (check : StackCheck) (s : State) : Result :=
  .next (poolSpace n.val ch.val check s)
/-- CH_SEGMENT_DONE (R230) -/
def execChSegmentDone (n : Fin 24) (ch : Fin 16) (seg : Nat) (check : StackCheck) (s : State) : Result :=
  .next (segDone n.val ch.val seg check s)
/-- CH_DESC_END (R230) -/
def execChDescEnd (n : Fin 24) (ch : Fin 16) (s : State) : Result := .next (chDescEnd n.val ch.val s)

end Sys2Proof.Machine
end

