-- ==== Sys2Proof/Machine/UnitEvents.lean ====
section
/-! DEFINITION. What happens in the units after issue: the MV path, the matrix array with its checks and re-execution, the
edge converter, and the release of heavy-unit permits (R119, R142, R143, R148 to R154, R158, R169, R173, R213, R247). -/

namespace Sys2Proof.Machine

open Sys2Proof

/-! ### Entries -/

/-- An entry retires: whatever waits on it is woken (R119). -/
def retireUnit (c id : Nat) (s : State) : State :=
  updCore c (fun x => meetWaits (fun w => w == .unit id) { x with units := x.units.filter (·.id ≠ id) }) s

/-- A thread enters FAULTED because of an instruction that issued earlier; the record holds that instruction's offset (R154,
R213). -/
def faultUnit (c : Nat) (u : UnitEntry) (code : Code) (s : State) : State :=
  let x := coreAt s c
  noteFault c u.thread u.pc code
    (setCore c (setThread u.thread { threadAt x u.thread with st := .faulted, wait := .none, met := false } x) s)

/-- An operand read of a unit instruction failed: no result, the entry stays held, the thread faults (R213). -/
def stickUnit (c : Nat) (u : UnitEntry) (code : Code) (s : State) : State :=
  faultUnit c u code (updCore c (updUnit u.id fun u => { u with phase := .stuck, active := false }) s)

/-- The waiting instruction of the MV path or the edge converter starts. -/
def startWaiting (kind : UnitKind) (x : Core) : Core :=
  match unitIn x kind .queued with
  | some u => updUnit u.id (fun u => { u with phase := .running }) x
  | none => x

/-- Whether a core's clocks run: its field is on, or enters kiln and its units finish (R440). -/
def fieldOn (s : State) (c : Nat) : Bool := fieldSt s (fieldOfCore c) == .on || (fieldOf s (fieldOfCore c)).kilnEntry

/-- Bytes of the core store at an address of the stride. -/
def storeRead (s : State) (c a n : Nat) : List Byte := readMem s (coreAddr c a) n

/-! ### The MV path -/

/-- The lanes of an MVD from its operand bytes (R142): from +0, or from aAD with ACC. -/
def mvdResult (x : Core) (u : UnitEntry) (k : Nat) (w act : List Byte) : List Word :=
  let f := mvdFmts u.word
  let start := if bit u.word 53 then lanesOf (regA (threadAt x u.thread) (bits u.word 55 54)) 64 else List.replicate 64 0
  mvdLanes f.1 f.2 k w act start

/-- The waiting MVD starts, and requests the lines of its weights (R143, R144). -/
def nextMvd (c : Nat) (s : State) : State := streamAhead c (updCore c (startWaiting .mv) s)

/-- The MVD on the path reads again what it had taken from lines that are no longer cached (R215). -/
def streamAgain (c id : Nat) (s : State) : State :=
  streamAhead c (updCore c (updUnit id fun u => { u with data := [] }) s)

/-- The executing MVD's last group has streamed (R141, R143): its lanes are formed and the waiting MVD starts. Where its
weights lie behind the cache and a line is absent, the path pauses and the event does not come (R144). -/
def mvdStreamEnd (c : Nat) (chk : StoreCheck) (s0 : State) : State :=
  let s := streamAhead c s0
  let x := coreAt s c
  match unitIn x .mv .running with
  | none => s
  | some u =>
    let k := (u.vals.getD 0 0).toNat
    let a := u.addrs.getD 0 0
    let stack := u.srcs.any (·.stack)
    let run := if stack then u.data.headD [] else storeRead s c a (mvdBytes u)
    let lines := if stack then linesOf a (mvdBytes u) else []
    if run.length < mvdBytes u then s
    else
      let q := accessCheck c chk u.srcs lines s
      match q.2 with
      | some code => nextMvd c (stickUnit c u code q.1)
      | none =>
        if (coreAt q.1 c).cache.length < x.cache.length then streamAgain c u.id q.1
        else
          let act := storeRead s c (u.addrs.getD 1 0) (k + k / 32)
          let lanes := mvdResult x u k run act
          nextMvd c (updCore c (updUnit u.id fun u => { u with phase := .formed, lanes := lanes, data := [] }) q.1)

/-- An MVD's lanes become available and its entry retires (R143). -/
def mvdDone (c : Nat) (s : State) : State :=
  match unitIn (coreAt s c) .mv .formed with
  | none => s
  | some u =>
    retireUnit c u.id (updCore c (fun x =>
      setThread u.thread (setA (bits u.word 55 54) (fromLanes 2048 u.lanes) (threadAt x u.thread)) x) s)

/-! ### The array -/

/-- The next staging begins where no staging runs and a buffer is free (R148). -/
def beginStaging (x : Core) : Core :=
  if x.units.any (fun u => u.kind == .array && u.phase == .running) || decide (2 ≤ buffersUsed x) then x
  else match unitIn x .array .queued with
    | some u => updUnit u.id (fun u => { u with phase := .running }) x
    | none => x

/-- A staged instruction becomes active and streams where no other holds the active place and at most one that streamed
before it has still to drain (R148). -/
def beginStream (x : Core) : Core :=
  match x.units.find? inArray with
  | some u =>
    let busy := x.units.any fun v => v.active && v.id != u.id
    let sets := (x.units.filter fun v => v.kind == .array && v.phase == .formed).length
    if u.phase == .staged && !busy && decide (sets < 2) then updUnit u.id (fun u => { u with phase := .streaming, active := true }) x
    else x
  | none => x

/-- What the array does as soon as it can. -/
def arrayAdvance (x : Core) : Core := beginStaging (beginStream x)

/-- An instruction's operands are staged (R148, R213). -/
def stagingDone (c : Nat) (chk : StoreCheck) (s : State) : State :=
  match unitIn (coreAt s c) .array .running with
  | none => s
  | some u =>
    let q := readCheck c chk (u.srcs.take 2) s
    match q.2 with
    | some code => updCore c arrayAdvance (stickUnit c u code q.1)
    | none =>
      let z := if bits u.word 63 56 = 0x61 then (544, if bits u.word 18 17 = 0 then 544 else 1056)
        else if bits u.word 16 15 = 0 then (1056, 1056) else (1088, 1088)
      let d := [storeRead s c (u.addrs.getD 0 0) z.1, storeRead s c (u.addrs.getD 1 0) z.2]
      updCore c (fun x => arrayAdvance (updUnit u.id (fun u => { u with phase := .staged, data := d }) x)) q.1

/-- An instruction's streaming ends (R148). -/
def streamEnd (c : Nat) (s : State) : State :=
  match unitIn (coreAt s c) .array .streaming with
  | none => s
  | some u => updCore c (fun x => arrayAdvance (updUnit u.id (fun u => { u with phase := .formed, active := false }) x)) s

/-- The instruction whose next pass check can end: the last pass's check follows the streaming (R152). -/
def checkDue (x : Core) : Option UnitEntry :=
  x.units.find? fun u => u.kind == .array &&
    ((u.phase == .streaming && decide (u.checked + 1 < arrayPasses u.word))
      || (u.phase == .formed && decide (u.checked < arrayPasses u.word)))

/-- A count of ARRAY_STAT rises (R155). -/
def arrayStatUp (lo : Nat) (x : Core) : Core :=
  { x with arrayStat := withBits x.arrayStat (lo + 15) lo (satAdd 0xFFFF (bits x.arrayStat (lo + 15) lo) 1) }

/-- A mismatch is counted and ARRAY_LAST overwritten (R155). -/
def noteMismatch (u : UnitEntry) (x : Core) : Core :=
  arrayStatUp 0 { x with arrayLast := BitVec.ofNat 64 (2 ^ 63 + 2 ^ 32 * u.pc.toNat + 2 ^ 24 * u.thread + u.checked) }

/-- The array is FAILED (R154): every instruction in it is discarded with its entry held, the failing one first, their
threads fault, and the permit is gone. -/
def arrayFailed (c : Nat) (u : UnitEntry) (s : State) : State :=
  let others := (coreAt s c).units.filter fun v => v.kind == .array && v.phase != .stuck && v.id != u.id
  let s := updCore c (fun x =>
    { x with arrayStat := withBits x.arrayStat 63 63 1,
             units := x.units.map fun v => if v.kind == .array then { v with phase := .stuck, active := false } else v }) s
  let s := faultUnit c u E.arrayCheckFail s
  releasePermit c (others.foldl (fun s v =>
    if (threadAt (coreAt s c) v.thread).st == .faulted then s else faultUnit c v E.arrayCheckFail s) s)

/-- The first mismatch: the instruction is discarded and executes once more, after every instruction now in the array
(R153). -/
def reExecute (u : UnitEntry) (x : Core) : Core :=
  let u' := { u with phase := .queued, active := false, again := true, checked := 0, data := [], sums := [] }
  arrayAdvance { x with units := x.units.filter (·.id ≠ u.id) ++ [u'] }

/-- The activation format of an array instruction word. -/
def arrayFmt (w : DWord) : Fmt := if bits w 18 17 = 0 then .a4i else if bits w 18 17 = 1 then .a8i else .a8f

/-- The tiles of an array instruction: weights and activations and, for a complex product, their imaginary parts. -/
def arrayTiles (u : UnitEntry) : (Tile × Tile) × (Tile × Tile) :=
  let w := u.data.getD 0 []
  let a := u.data.getD 1 []
  let af := arrayFmt u.word
  if bits u.word 63 56 = 0x61 then
    let p := (tileAt (tileFmt (wFmt (bits u.word 21 19))) w 0, tileAt af a 0)
    (p, p)
  else if bits u.word 16 15 = 0 then
    let p := (tileAt af w 0, tileAt af a 0)
    (p, p)
  else ((tileAt .w4i w 0, tileAt .a4i a 0), (tileAt .w4i w 544, tileAt .a4i a 544))

/-- What each pass of an array instruction multiplies. -/
def arrayRows (u : UnitEntry) : List PassRows :=
  let t := arrayTiles u
  if bits u.word 63 56 = 0x61 then mmaPasses (arrayFmt u.word) t.1.2.rows t.1.1.rows
  else if bits u.word 16 15 = 0 then mmax8Passes (arrayFmt u.word) t.1.2.rows t.1.1.rows
  else complexPasses t.1.2.rows t.2.2.rows t.1.1.rows t.2.1.rows

/-- The cells as the next pass of an instruction leaves them, with errors in some. DESIGN CHOICE, log 60. -/
def cellsAfter (u : UnitEntry) (errs : List CellError) : List (List Int) :=
  cellsWith errs (passCells ((arrayRows u).getD u.checked ([], [])))

/-- The comparison of a pass ends (R152 to R154): its sums are kept where the checksums agree. -/
def passCheck (c : Nat) (errs : List CellError) (s : State) : State :=
  match checkDue (coreAt s c) with
  | none => s
  | some u =>
    let cells := cellsAfter u errs
    if !cellsAgree cells then
      let s := updCore c (noteMismatch u) s
      if u.again then report E.arrayCheckFail 0 c (arrayFailed c u s) else updCore c (reExecute u) s
    else
      let clean := u.again && decide (u.checked + 1 = arrayPasses u.word)
      let s := updCore c (fun x =>
        let x := updUnit u.id (fun u => { u with checked := u.checked + 1, sums := u.sums ++ [passSums cells] }) x
        if clean then arrayStatUp 16 x else x) s
      if clean then logTransient E.arrayCheckFail 0 c s else s

/-- The output bytes of an array instruction, from its pass sums (R147, R150, R151). -/
def arrayOutput (u : UnitEntry) (old : List Byte) : List Byte :=
  let t := arrayTiles u
  let old := if arrayAcc u.word then some old else none
  let af := arrayFmt u.word
  if bits u.word 63 56 = 0x61 then
    tileOut (mmaCombine af u.sums) (fmtExp (tileFmt (wFmt (bits u.word 21 19))) + fmtExp af) t.1.1 t.1.2 false old
  else if bits u.word 16 15 = 0 then tileOut (mmax8Combine af u.sums) (2 * fmtExp af) t.1.1 t.1.2 true old
  else
    let p := fun n => u.sums.getD n []
    tileOut (sumsWith (· - ·) (p 0) (p 1)) 0 t.1.1 t.1.2 false (old.map fun o => o.take 4096)
      ++ tileOut (sumsWith (· - ·) (sumsWith (· - ·) (p 2) (p 0)) (p 1)) 0 t.1.1 t.1.2 false (old.map fun o => o.drop 4096)

/-- Bytes of an array instruction's output. -/
def arrayOutLen (w : DWord) : Nat := if bits w 63 56 = 0x62 ∧ bits w 16 15 = 1 then 8192 else 4096

/-- An empty tagged destination is set full on completion (R119). -/
def fillDst (u : UnitEntry) (x : Core) : Core := if u.dstTagged then (u.dst.take 1).foldl (fun x r => setFull r x) x else x

/-- An instruction's drain ends: with ACC the old output is read, the result is written and the entry retires (R148, R149,
R213). -/
def drainDone (c : Nat) (chk : StoreCheck) (s : State) : State :=
  match (coreAt s c).units.find? fun u => u.kind == .array && u.phase == .formed && u.checked == arrayPasses u.word with
  | none => s
  | some u =>
    let q := if arrayAcc u.word then readCheck c chk (u.srcs.drop 2) s else (s, none)
    match q.2 with
    | some code => updCore c arrayAdvance (stickUnit c u code q.1)
    | none =>
      let a := u.addrs.getD 2 0
      let out := arrayOutput u (storeRead s c a (arrayOutLen u.word))
      updCore c arrayAdvance (retireUnit c u.id (updCore c (fillDst u) (writeMem (coreAddr c a) out q.1)))

/-! ### The edge converter -/

/-- The bytes of an edge instruction's first source and, for QCF, its residuals. -/
def edgeData (c : Nat) (u : UnitEntry) (s : State) : List Byte × List Byte :=
  let n := (u.vals.getD 0 0).toNat
  let op := bits u.word 63 56
  let len := if op = 0x6A then (if bit u.word 18 then 8 else 4) * n else fmtBytes (cvtFmts u.word).1 n
  let src := match u.data with
    | d :: _ => d
    | [] => storeRead s c (u.addrs.getD 0 0) len
  (src, if op = 0x69 then storeRead s c (u.addrs.getD 2 0) (2 * n) else [])

/-- What an edge instruction writes: its destination and, for QCF, the new residuals. -/
def edgeWrites (u : UnitEntry) (src resid : List Byte) : List (Nat × List Byte) :=
  let n := (u.vals.getD 0 0).toNat
  let op := bits u.word 63 56
  let a := u.addrs.getD 1 0
  let sigma : Word := (u.vals.getD 1 0).setWidth 32
  if op = 0x6A then [(a, topkBytes n (u.vals.getD 1 0).toNat (u.vals.getD 2 0).toNat (bit u.word 18) src)]
  else if op = 0x69 then
    let r := qcfBytes (cvtFmts u.word).1 (cvtFmts u.word).2 n src sigma resid (bit u.word 4)
    [(a, r.1), (u.addrs.getD 2 0, r.2)]
  else [(a, cvtBytes (cvtFmts u.word).1 (cvtFmts u.word).2 n src sigma)]

/-- The executing instruction's occupancy ends and the waiting one starts (R173, R213). -/
def edgeEnd (c : Nat) (chk : StoreCheck) (s : State) : State :=
  match unitIn (coreAt s c) .edge .running with
  | none => s
  | some u =>
    let q := readCheck c chk u.srcs s
    match q.2 with
    | some code => updCore c (startWaiting .edge) (stickUnit c u code q.1)
    | none =>
      let d := edgeData c u s
      updCore c (fun x => startWaiting .edge
        (updUnit u.id (fun u => { u with phase := .formed, writes := edgeWrites u d.1 d.2, data := [] }) x)) q.1

/-- A destination behind the cache is written line by line, as its lines are present (R89: write-allocate): what is left. DESIGN CHOICE, log 26. -/
def cacheDrain (x : Core) (a : Nat) : List Byte → Core × Nat × List Byte
  | [] => (x, a, [])
  | b :: l => if (mfind x.cache (a / 256)).isSome then cacheDrain (cacheSet x a b) (a + 1) l else (x, a, b :: l)

/-- The results of an edge instruction reach its destination in the store: the codewords that they cover in part are read, and
where one cannot be the instruction writes nothing (R212, R213). -/
def edgeStore (c : Nat) (u : UnitEntry) (chk : StoreCheck) (ws : List (Nat × List Byte)) (s : State) : State :=
  let q := ws.foldl (fun (q : State × Option Code) w =>
    let r := partialCheck c chk w.1 w.2.length q.1
    (r.1, q.2.or r.2)) (s, none)
  match q.2 with
  | some code => stickUnit c u code q.1
  | none => retireUnit c u.id (updCore c (fillDst u) (ws.foldl (fun s w => writeMem (coreAddr c w.1) w.2 s) q.1))

/-- An edge instruction's results are available and its entry retires (R173). -/
def edgeReady (c : Nat) (chk : StoreCheck) (s : State) : State :=
  let x := coreAt s c
  match unitIn x .edge .formed with
  | none => s
  | some u =>
    match u.dst.any (·.stack), u.writes with
    | true, (a, l) :: rest =>
      let r := cacheDrain x a l
      if r.2.2.isEmpty then edgeStore c u chk rest (setCore c r.1 s)
      else
        requestAhead c r.2.1 r.2.2.length
          (setCore c (updUnit u.id (fun u => { u with writes := (r.2.1, r.2.2) :: rest }) r.1) s)
    | _, ws => edgeStore c u chk ws s

/-! ### Permits -/

/-- An array idle for HQ_LINGER cycles gives its permit back (R247). -/
def permitIdle (c : Nat) (s : State) : State :=
  if (coreAt s c).units.any fun u => u.kind == .array && u.phase != .stuck then s else releasePermit c s

/-- MVD_STREAM_END (R143) -/
def execMvdStreamEnd (c : CoreRef) (chk : StoreCheck) (s : State) : Result :=
  .next (if fieldOn s (coreId c) then mvdStreamEnd (coreId c) chk s else s)
/-- MVD_RESULT (R143) -/
def execMvdResult (c : CoreRef) (s : State) : Result := .next (if fieldOn s (coreId c) then mvdDone (coreId c) s else s)
/-- ARRAY_STAGING_DONE (R148) -/
def execArrayStagingDone (c : CoreRef) (chk : StoreCheck) (s : State) : Result :=
  .next (if fieldOn s (coreId c) then stagingDone (coreId c) chk s else s)
/-- ARRAY_STREAM_END (R148) -/
def execArrayStreamEnd (c : CoreRef) (s : State) : Result :=
  .next (if fieldOn s (coreId c) then streamEnd (coreId c) s else s)
/-- ARRAY_PASS_CHECK (R152) -/
def execArrayPassCheck (c : CoreRef) (errors : List CellError) (s : State) : Result :=
  .next (if fieldOn s (coreId c) then passCheck (coreId c) errors s else s)
/-- ARRAY_DRAIN_DONE (R149) -/
def execArrayDrainDone (c : CoreRef) (chk : StoreCheck) (s : State) : Result :=
  .next (if fieldOn s (coreId c) then drainDone (coreId c) chk s else s)
/-- EDGE_OCCUPANCY_END (R173) -/
def execEdgeOccupancyEnd (c : CoreRef) (chk : StoreCheck) (s : State) : Result :=
  .next (if fieldOn s (coreId c) then edgeEnd (coreId c) chk s else s)
/-- EDGE_RESULT_READY (R173) -/
def execEdgeResultReady (c : CoreRef) (chk : StoreCheck) (s : State) : Result :=
  .next (if fieldOn s (coreId c) then edgeReady (coreId c) chk s else s)
/-- HQ_PERMIT_RELEASE (R247) -/
def execHqPermitRelease (c : CoreRef) (s : State) : Result :=
  .next (if fieldOn s (coreId c) then permitIdle (coreId c) s else s)

end Sys2Proof.Machine
end

