-- ==== Sys2Proof/Machine/Caw.lean ====
section
/-! DEFINITION. The core access window: core registers, thread contexts, thread and core commands (R75, R86, R98 to R104, R155,
R158, R218, R406). -/

namespace Sys2Proof.Machine

open Sys2Proof

/-! ### Core registers (R102) -/

/-- The live value of a shadowed register: a handle word or BANK_MODE. DESIGN CHOICE, log 24. -/
def shadowedReg (x : Core) (i : Nat) : DWord := if i = 0x80 then x.bankMode else handleReg x i

/-- The shadow of a register. -/
def shadowReg (x : Core) (i : Nat) : DWord := (mfind x.shadowRegs i).getD (shadowedReg x i)

/-- Sets a shadow; the core is dirty (R98). DYN of word 0 is read-only (R80). -/
def setShadowReg (i : Nat) (v : DWord) (x : Core) : Core :=
  let v := if i < 0x80 ∧ i % 2 = 0 then withBits v 62 62 0 else v
  { x with dirty := true,
           shadowRegs := if v = shadowedReg x i then mdel x.shadowRegs i else mput x.shadowRegs i v }

/-- Shadows reloaded from live; the core is dirty no longer (R53, R98). -/
def reloadCore (x : Core) : Core := { x with shadowRegs := [], dirty := false }

/-- THREAD_STATE (R102). -/
def threadWord (th : Thread) : DWord :=
  BitVec.ofNat 64 (2 ^ 32 * th.pc.toNat + waitCode th.wait * 16 + (match th.st with
    | .stopped => 0 | .ready => 1 | .blocked => 2 | .faulted => 3))

/-- CORE_OCC (R102). -/
def coreOcc (x : Core) : DWord :=
  BitVec.ofNat 64 (2 ^ 48 * x.dmaFails.toNat + 2 ^ 32 * x.dirtyDropped.toNat + 2 ^ 24 * x.misses.length + 2 ^ 16 * x.score.length
    + 2 ^ 8 * (x.dmq.filter (·.active)).length + x.dmq.length)

/-- A live core register; none where the index is unassigned (R102, R155, R218). -/
def coreReg (x : Core) (i : Nat) : Option DWord :=
  if i ≤ 0x80 then some (shadowedReg x i)
  else if i = 0x100 ∨ i = 0x101 then some 0
  else if 0x110 ≤ i ∧ i < 0x120 then some (mget 0 x.startPc (i - 0x110))
  else if 0x120 ≤ i ∧ i < 0x130 then some (threadWord (threadAt x (i - 0x120)))
  else if i = 0x130 then some x.coreErr
  else if i = 0x131 then some x.dmaErr
  else if i = 0x132 then some (coreOcc x)
  else if i = 0x140 then some x.arrayStat
  else if i = 0x141 then some x.arrayLast
  else if i = 0x150 then some x.storeStat
  else if i = 0x151 then some x.storeLast
  else if i = 0x152 then some (BitVec.ofNat 64 x.sparge)
  else none

/-- Whether a value holds a 1 in a reserved bit of a core register (R102, R155, R218). -/
def coreReserved (i : Nat) (v : DWord) : Bool :=
  if i = 0x100 then bits v 63 32 != 0
  else if i = 0x101 then bits v 63 14 != 0 || bits v 7 5 != 0 || bits v 3 2 != 0
  else if 0x110 ≤ i ∧ i < 0x120 then bits v 63 18 != 0
  else if i = 0x130 then bits v 62 48 != 0 || bits v 31 28 != 0 || bits v 23 18 != 0
  else if i = 0x131 then bits v 62 48 != 0 || bits v 31 27 != 0 || bits v 19 18 != 0
  else if 0x120 ≤ i ∧ i < 0x130 then bits v 63 50 != 0 || bits v 31 8 != 0 || bits v 3 2 != 0
  else if i = 0x132 then bits v 31 28 != 0 || bits v 23 21 != 0 || bits v 15 11 != 0 || bits v 7 6 != 0
  else if i = 0x140 then bits v 62 32 != 0
  else if i = 0x151 then bits v 58 13 != 0
  else if i = 0x152 then bits v 63 13 != 0
  else if i = 0x141 then bits v 62 50 != 0 || bits v 31 28 != 0 || bits v 23 2 != 0
  else false

/-! ### Thread and core commands (R75, R104, R158) -/

/-- STOP of one thread. -/
def stopThread (t : Nat) (x : Core) : Core :=
  let th := threadAt x t
  match th.st with
  | .ready | .blocked => setThread t { th with st := .stopped, wait := .none, met := false } x
  | _ => x

/-- START of one thread: to READY at its start offset; one that is READY or BLOCKED is left. DEDUCED, log 25. -/
def startThread (t : Nat) (x : Core) : Core :=
  let th := threadAt x t
  match th.st with
  | .stopped | .faulted =>
    setThread t { th with st := .ready, wait := .none, met := false, pc := (mget 0 x.startPc t).setWidth 18, beyond := false }
      { x with classified := without t x.classified }
  | _ => x

/-- The threads that a mask names. -/
def maskThreads (m : Nat) : List Nat := (List.range 16).filter fun t => m / 2 ^ t % 2 == 1

/-- THREAD_CMD (R104): STOP wins where one write names a thread in both masks. DEDUCED, log 25. -/
def threadCmd (start stop : Nat) (x : Core) : Core × Code :=
  let x1 := (maskThreads stop).foldl (fun x t => stopThread t x) x
  let go := (maskThreads start).filter fun t => !(maskThreads stop).contains t
  let running := go.any fun t => (threadAt x1 t).st == .ready || (threadAt x1 t).st == .blocked
  (go.foldl (fun x t => startThread t x) x1, if running then E.threadRunning else 0)

/-- Whether a unit entry survives RESET until its instruction has written (R158). -/
def unitSurvives (u : UnitEntry) : Bool :=
  match u.kind, u.phase with
  | _, .stuck => false
  | _, .queued => false
  | .array, .running => u.active && !u.again
  | .array, .staged => u.active && !u.again
  | _, _ => true

/-- RESET (R104, R105, R158): THREAD_PC0–15, DMA_FAILS and DIRTY_DROPPED, which R104 names neither way, stay. DEDUCED, log 25. -/
def resetCore (x : Core) : Core :=
  let act := x.dmq.filter (·.active)
  { x with
    threads := []
    handles := x.handles.filter (·.1 < 96)
    full := []
    score := []
    dmq := act
    draining := !act.isEmpty
    units := x.units.filter unitSurvives
    refused := []
    classified := []
    coreErr := 0
    dmaErr := 0 }

/-- TAG_INIT (R75). DEDUCED, log 25. -/
def tagInit (h : Nat) (v : Bool) (x : Core) : Core × Code :=
  let e := hview x h
  if !e.valid then (x, E.handleInvalid)
  else if !e.tagged then (x, E.tagMode)
  else
    let r := hrng e 0 e.ext
    (if v then setFull r x else setEmpty r x, 0)

/-! ### Commands of the window (R100, R101, R103, R406) -/

/-- The core that the window of a field selects. -/
def cawCore (s : State) (f : Nat) : Nat := 4096 * f + liveF s (pCaw f) 0x800 11 0

/-- CAW_STATUS takes the result of a command. -/
def cawStatus (f : Nat) (c : Code) (s : State) : State := setLive (pCaw f) 0x814 (BitVec.ofNat 32 c.toNat) s

/-- Whether the window refuses a command of a master on a core because its placement is sealed (R406). -/
def sealedCore (s : State) (m : Master) (c : Nat) : Bool :=
  match mfind s.owner c with
  | some k => m != .mc && m != .security && !s.debugModels.contains k
  | none => false

/-- A refusal under R406: SEALED_STATE, counted. DEDUCED, log 25. -/
def refuseSealed (f : Nat) (s : State) : State := cawStatus f E.sealedState (countUp pSec 0x808 31 16 1 s)

/-- A command on core c that is refused while its placement is sealed, and otherwise changes the core. -/
def sealedCmd (f : Nat) (m : Master) (c : Nat) (act : Core → Core × Code) (s : State) : State :=
  if sealedCore s m c then refuseSealed f s
  else
    let r := act (coreAt s c)
    cawStatus f r.2 (setCore c r.1 s)

/-- A command on core c that changes the core. -/
def openCmd (f c : Nat) (act : Core → Core × Code) (s : State) : State :=
  let r := act (coreAt s c)
  cawStatus f r.2 (setCore c r.1 s)

/-- CORE_CMD (R102): RESET, then TAG_INIT; a refused TAG_INIT refuses the whole write. -/
def coreCmd (f : Nat) (m : Master) (c : Nat) (v : DWord) (s : State) : State :=
  let x := coreAt s c
  if bit v 1 then
    if sealedCore s m c then refuseSealed f s
    else
      let r := tagInit (bits v 13 8) (bit v 4) x
      if r.2 ≠ 0 then cawStatus f r.2 s
      else openCmd f c (fun x => (if bit v 0 then (tagInit (bits v 13 8) (bit v 4) (resetCore x)).1 else r.1, 0)) s
  else openCmd f c (fun x => (if bit v 0 then resetCore x else x, 0)) s

/-- A value of a thread context (R102): none where the index is unassigned. -/
def ctxRead (th : Thread) (r : Nat) : Option DWord :=
  if r < 0x20 then some (regS th r)
  else if r < 0xA0 then some (BitVec.ofNat 64 ((regV th ((r - 0x20) / 8)).toNat / 2 ^ (64 * ((r - 0x20) % 8))))
  else if r < 0x120 then some (BitVec.ofNat 64 ((regA th ((r - 0xA0) / 32)).toNat / 2 ^ (64 * ((r - 0xA0) % 32))))
  else if r = 0x1A0 then some (th.pc.setWidth 64)
  else none

/-- Replaces 64 bits of a register at group k. -/
def setGroup {n : Nat} (w : BitVec n) (k : Nat) (v : DWord) : BitVec n := withBits w (64 * k + 63) (64 * k) v.toNat

/-- Writes a value of a thread context (R102, R105). -/
def ctxWrite (r : Nat) (v : DWord) (th : Thread) : Thread :=
  if r < 0x20 then setS r v th
  else if r < 0xA0 then setV ((r - 0x20) / 8) (setGroup (regV th ((r - 0x20) / 8)) ((r - 0x20) % 8) v) th
  else if r < 0x120 then setA ((r - 0xA0) / 32) (setGroup (regA th ((r - 0xA0) / 32)) ((r - 0xA0) % 32) v) th
  else { th with pc := v.setWidth 18, beyond := false }

/-- Why an access to a thread context fails (R101 to R103, R106's reserved bits of the program counter aside). -/
def ctxCheck (x : Core) (i : Nat) : Option Code :=
  if 0x2000 ≤ i ∨ (ctxRead .reset (i % 512)).isNone then some E.cawSpace
  else
    let st := (threadAt x (i / 512 % 16)).st
    if st = .ready ∨ st = .blocked then some E.threadRunning else none

/-- CAW_DATA. -/
def cawData (s : State) (f : Nat) : DWord := BitVec.ofNat 64 (live s (pCaw f) 0x80C).toNat <<< 32 ||| BitVec.ofNat 64 (live s (pCaw f) 0x808).toNat

/-- A READ succeeds with a value. -/
def cawResult (f : Nat) (v : DWord) (s : State) : State :=
  cawStatus f 0 (setLive (pCaw f) 0x80C (BitVec.ofNat 32 (v.toNat / 2 ^ 32)) (setLive (pCaw f) 0x808 (BitVec.ofNat 32 v.toNat) s))

/-- What precedes every READ and WRITE: the core is enabled (R101), the space is not 0b11 (R100). -/
def cawRefused (s : State) (f : Nat) : Option Code :=
  match coreIdCheck s (cawCore s f) with
  | some c => some c
  | none => if liveF s (pCaw f) 0x804 15 14 = 3 then some E.cawSpace else none

/-- The window's READ (R100 to R103, R406). -/
def cawRead (m : Master) (f : Nat) (s : State) : State :=
  let c := cawCore s f
  let x := coreAt s c
  let i := liveF s (pCaw f) 0x804 13 0
  match cawRefused s f with
  | some code => cawStatus f code s
  | none =>
    match liveF s (pCaw f) 0x804 15 14 with
    | 0 => (match coreReg x i with
        | some v => cawResult f v s
        | none => cawStatus f E.cawSpace s)
    | 1 => if i < 0x60 ∨ i = 0x80 then cawResult f (shadowReg x i) s else cawStatus f E.cawSpace s
    | _ =>
      if 0x2000 ≤ i ∨ (ctxRead .reset (i % 512)).isNone then cawStatus f E.cawSpace s
      else if sealedCore s m c then refuseSealed f s
      else match ctxCheck x i with
        | some code => cawStatus f code s
        | none => (match ctxRead (threadAt x (i / 512 % 16)) (i % 512) with
            | some v => cawResult f v s
            | none => s)

/-- The page is locked: a shadow write or DISCARD is discarded (R54, R101). -/
def cawLocked (f : Nat) (s : State) : State := cawStatus f E.txnShadowLocked (recordErrAny (pCaw f) E.txnShadowLocked s)

/-- A WRITE to a shadow (R86, R98, R101, R406). DEDUCED, log 25. -/
def cawShadow (m : Master) (f c i : Nat) (s : State) : State :=
  if 0x60 ≤ i ∧ i < 0x80 then cawStatus f E.handleKind s
  else if 0x80 < i then cawStatus f E.cawSpace s
  else if sealedCore s m c then refuseSealed f s
  else if pageLocked s (pCaw f) then cawLocked f s
  else cawStatus f 0 (updCore c (setShadowReg i (cawData s f)) s)

/-- A WRITE with a 1 in a reserved bit is refused, and the page records it (R56, R102). -/
def cawReserved (f : Nat) (s : State) : State := cawStatus f E.reservedBit (recordErrAny (pCaw f) E.reservedBit s)

/-- A WRITE to a live register (R101, R102, R104). DEDUCED, log 25. -/
def cawLive (m : Master) (f c i : Nat) (s : State) : State :=
  let v := cawData s f
  if i ≤ 0x80 ∨ (coreReg (coreAt s c) i).isNone then cawStatus f E.cawSpace s
  else if coreReserved i v then cawReserved f s
  else if i = 0x100 then openCmd f c (threadCmd (bits v 15 0) (bits v 31 16)) s
  else if i = 0x101 then coreCmd f m c v s
  else if 0x110 ≤ i ∧ i < 0x120 then sealedCmd f m c (fun x => ({ x with startPc := mset 0 x.startPc (i - 0x110) v }, 0)) s
  else if i = 0x130 then openCmd f c (fun x => (if bit v 63 then { x with coreErr := 0 } else x, 0)) s
  else if i = 0x131 then openCmd f c (fun x => (if bit v 63 then { x with dmaErr := 0 } else x, 0)) s
  else cawStatus f 0 s

/-- A WRITE to a thread context (R102, R103, R105, R406). DEDUCED, log 25. -/
def cawCtx (m : Master) (f c i : Nat) (s : State) : State :=
  let x := coreAt s c
  let v := cawData s f
  if 0x2000 ≤ i ∨ (ctxRead .reset (i % 512)).isNone then cawStatus f E.cawSpace s
  else if sealedCore s m c then refuseSealed f s
  else match ctxCheck x i with
    | some code => cawStatus f code s
    | none =>
      if i % 512 = 0x1A0 ∧ bits v 63 18 ≠ 0 then cawReserved f s
      else openCmd f c (fun x => (setThread (i / 512 % 16) (ctxWrite (i % 512) v (threadAt x (i / 512 % 16))) x, 0)) s

/-- The window's WRITE (R100, R101). -/
def cawWrite (m : Master) (f : Nat) (s : State) : State :=
  let c := cawCore s f
  let i := liveF s (pCaw f) 0x804 13 0
  match cawRefused s f with
  | some code => cawStatus f code s
  | none =>
    match liveF s (pCaw f) 0x804 15 14 with
    | 0 => cawLive m f c i s
    | 1 => cawShadow m f c i s
    | _ => cawCtx m f c i s

/-- The dirty cores of a field, ascending. -/
def dirtyCores (s : State) (f : Nat) : List Nat := (s.cores.filter fun e => fieldOfCore e.1 == f && e.2.dirty).map (·.1)

/-- Every dirty core's shadows reloaded (R53, R98). -/
def reloadCores (f : Nat) (s : State) : State := (dirtyCores s f).foldl (fun s c => updCore c reloadCore s) s

/-- DISCARD (R100, R101). -/
def cawDiscard (f : Nat) (s : State) : State := if pageLocked s (pCaw f) then cawLocked f s else cawStatus f 0 (reloadCores f s)

/-- A thread or core command that a master sends through the window of the core's field. -/
def viaWindow (m : Master) (c : Nat) (act : State → State) (s : State) : State :=
  let f := fieldOfCore c
  onPage m (pCaw f) 0x810 (fun s => match coreIdCheck s c with
    | some code => cawStatus f code s
    | none => act s) s

/-- CAW_READ (R100) -/
def execCawRead (m : Master) (field : Fin 80) (s : State) : Result := .next (onPage m (pCaw field.val) 0x810 (cawRead m field.val) s)
/-- CAW_WRITE (R101) -/
def execCawWrite (m : Master) (field : Fin 80) (s : State) : Result :=
  .next (onPage m (pCaw field.val) 0x810 (cawWrite m field.val) s)
/-- CAW_DISCARD (R100) -/
def execCawDiscard (m : Master) (field : Fin 80) (s : State) : Result :=
  .next (onPage m (pCaw field.val) 0x810 (cawDiscard field.val) s)
/-- THREAD_START (R104) -/
def execThreadStart (m : Master) (c : CoreRef) (mask : BitVec 16) (s : State) : Result :=
  .next (viaWindow m (coreId c) (openCmd c.field.val (coreId c) (threadCmd mask.toNat 0)) s)
/-- THREAD_STOP (R104) -/
def execThreadStop (m : Master) (c : CoreRef) (mask : BitVec 16) (s : State) : Result :=
  .next (viaWindow m (coreId c) (openCmd c.field.val (coreId c) (threadCmd 0 mask.toNat)) s)
/-- CORE_RESET (R104) -/
def execCoreReset (m : Master) (c : CoreRef) (s : State) : Result :=
  .next (viaWindow m (coreId c) (openCmd c.field.val (coreId c) fun x => (resetCore x, 0)) s)
/-- TAG_INIT (R75) -/
def execTagInit (m : Master) (c : CoreRef) (handle : Fin 64) (value : Bool) (s : State) : Result :=
  .next (viaWindow m (coreId c) (sealedCmd c.field.val m (coreId c) (tagInit handle.val value)) s)

end Sys2Proof.Machine
end

