-- ==== Sys2Proof/Machine/Grist.lean ====
section
/-! DEFINITION. Envelopes and grist images: how they are opened and checked, and where their digest units lie (R261 to R263,
R275, R417, R418). -/

namespace Sys2Proof.Machine

open Sys2Proof

/-! ### Envelopes (R417, R418) -/

/-- Bytes of an envelope's header. -/
def envHdr : Nat := 128

/-- The secret bound in a tenant slot. -/
def trsOf (s : State) (tenant : Nat) : Option (BitVec 256) := mfind s.sec.tenants tenant

/-- Steps 1 to 3 of R418, over the header bytes h of an envelope at an aperture offset. -/
def envFormat (s : State) (kind addr : Nat) (h : List Byte) : Option Code :=
  let head := le h 0x10 8
  let total := le h 0x18 8
  firstFail
    [(le h 0 4 != 0x4C414553 || le h 4 1 != kind || le h 5 1 != 1 || !zeros h 6 2 || !zeros h 0x40 64, E.sealFormat),
     (head == 2 ^ 64 - 1, E.reservedValue),
     (total == 2 ^ 64 - 1, E.reservedValue),
     ((aperRange s addr (envHdr + total)).isNone, E.sizeOverrun),
     (decide (total < head) || (kind == 1 && head != total), E.sealFormat)]

/-- Steps 4 and 5: the tenant is bound, and its KEY_ID is the envelope's. -/
def envKey (s : State) (tenant : Nat) (h : List Byte) : Except Code (BitVec 256) :=
  match trsOf s tenant with
  | none => .error E.tenantUnbound
  | some trs => if keyIdOf trs = BitVec.ofNat 64 (le h 8 8) then .ok trs else .error E.sealKeyMismatch

/-- The head of an envelope decrypted, where its tag verifies. -/
def envOpen (trs : BitVec 256) (h ct : List Byte) : Option (List Byte) :=
  gcmOpen (sealKeys trs (bytesAt h 0x20 16)).1 (List.replicate 12 0) (h.take 0x30) ct (bytesAt h 0x30 16)

/-- An opened envelope: header and plaintext head. -/
structure Opened where
  hdr : List Byte
  head : List Byte
  deriving DecidableEq, Repr

/-- A read of an image: a failure is counted, latched and recorded (R362) and ends in GRIST_UNREADABLE. -/
def readImage (o len : Nat) (mem : HostMem) (s : State) : Except Code (List Byte) × State :=
  match readHost 4 o len mem s with
  | (.ok l, s) => (.ok l, s)
  | (.error _, s) => (.error E.gristUnreadable, s)

/-- SEAL_KEY_MISMATCH and SEAL_AUTH_FAIL are counted (R429). -/
def openFails (c : Code) (s : State) : State :=
  if c = E.sealKeyMismatch ∨ c = E.sealAuthFail then countUp pSec 0x804 31 16 1 s else s

/-- An envelope at an aperture offset is read and opened for a tenant. -/
def openEnvelope (kind tenant addr : Nat) (mem : HostMem) (s : State) : Except Code Opened × State :=
  match readImage addr envHdr mem s with
  | (.error c, s) => (.error c, s)
  | (.ok h, s) =>
    match envFormat s kind addr h with
    | some c => (.error c, s)
    | none =>
      match envKey s tenant h with
      | .error c => (.error c, openFails c s)
      | .ok trs =>
        match readImage (addr + envHdr) (le h 0x10 8) mem s with
        | (.error c, s) => (.error c, s)
        | (.ok ct, s) =>
          match envOpen trs h ct with
          | none => (.error E.sealAuthFail, openFails E.sealAuthFail s)
          | some p => (.ok ⟨h, p⟩, s)

/-! ### The manifest (R261, R262) -/

/-- Range table entry i of a head. -/
def gristRange (l : List Byte) (i : Nat) : GRange :=
  let o := le l 0x2C 4 + 64 * i
  { kind := le l o 1, unit := le l (o + 1) 1, handle := le l (o + 2) 1, stageStack := le l (o + 3) 1, first := le l (o + 4) 2,
    last := le l (o + 6) 2, off := le l (o + 8) 8, len := le l (o + 0x10) 8, stageOff := le l (o + 0x18) 8,
    digests := le l (o + 0x20) 8, payload := le l (o + 0x28) 8 }

/-- Digest units of a range: one slot of a core range, or one 1 MiB piece. -/
def unitCount (r : GRange) : Nat := if r.kind = 0 then r.last + 1 - r.first else (r.len + 0xFFFFF) / 0x100000

/-- Bytes of a unit. -/
def unitLen (r : GRange) (u : Nat) : Nat := if r.kind = 0 then r.len else Nat.min 0x100000 (r.len - 0x100000 * u)

/-- Payload bytes of a range. -/
def payloadLen (r : GRange) : Nat := if r.kind = 0 then unitCount r * r.len else r.len

/-- Offset of a unit's payload in the image. -/
def unitPos (r : GRange) (u : Nat) : Nat := r.payload + u * (if r.kind = 0 then r.len else 0x100000)

/-- Step 2 of R263: the header. -/
def gristHeader (l : List Byte) (total : Nat) : Option Code :=
  let len := le l 8 8
  firstFail
    [(decide (l.length < 64) || le l 0 4 != 0x54535247 || le l 4 2 != 1, E.gristFormat),
     (len == 2 ^ 64 - 1, E.reservedValue),
     (decide (len < 128) || len % 64 != 0, E.gristFormat),
     (decide (total < len), E.sizeOverrun),
     (decide (len < total), E.gristFormat),
     (le l 0x28 2 == 0, E.gristFormat),
     (le l 0x28 2 == 0xFFFF, E.reservedValue),
     (decide (4096 < le l 0x28 2), E.countOverrun),
     (decide (2 ≤ le l 0x2A 1) || le l 0x2B 1 != 0 || le l 0x2C 4 % 64 != 0 || !zeros l 0x30 16, E.gristFormat)]

/-- Step 7 of R418: the range table and every DIGESTS span lie below HEAD_LEN; a reserved LENGTH gives no span. -/
def headCovers (l : List Byte) : Bool :=
  let n := le l 0x28 2
  decide (le l 0x2C 4 + 64 * n ≤ l.length)
    && (List.range n).all fun i => let r := gristRange l i; r.len == 2 ^ 64 - 1 || decide (r.digests + 32 * unitCount r ≤ l.length)

/-- The format of one range table entry (R262). -/
def rangeFormat (l : List Byte) (i : Nat) : Option Code :=
  let r := gristRange l i
  if decide (3 ≤ r.kind) || !zeros l (le l 0x2C 4 + 64 * i + 0x30) 16
      || (if r.kind = 0 then decide (80 ≤ r.unit) || decide (48 ≤ r.handle) || (decide (24 ≤ r.stageStack) && r.stageStack != 0xFF)
            || decide (r.last < r.first)
          else decide (24 ≤ r.unit) || r.handle != 0 || r.stageStack != 0xFF)
      || r.off % (if r.kind = 2 then 4096 else 32) != 0 || r.len % 32 != 0 then some E.gristFormat
  else none

/-- Step 3 for one entry: the reserved LENGTH (R5, R7), its spans within the image, its format. -/
def rangeSpan (l : List Byte) (i : Nat) : Option Code :=
  let r := gristRange l i
  let len := le l 8 8
  if len < le l 0x2C 4 + 64 * i + 64 then some E.sizeOverrun
  else if r.len = 2 ^ 64 - 1 then some E.reservedValue
  else if len < r.digests + 32 * unitCount r ∨ len < r.payload + payloadLen r then some E.sizeOverrun
  else rangeFormat l i

/-- What the engine keeps of an opened image. -/
def gristOf (addr : Nat) (o : Opened) : GristImg :=
  let l := o.head
  let rs := (List.range (le l 0x28 2)).map (gristRange l)
  { imageId := BitVec.ofNat 128 (le l 0x18 16), placementId := BitVec.ofNat 64 (le l 0x10 8), ikind := le l 0x2A 1,
    addr := addr, iv := bytesAt o.hdr 0x20 16, headLen := le o.hdr 0x10 8, head := l, ranges := rs,
    digests := rs.map fun r => (List.range (unitCount r)).map fun u => bytesAt l (r.digests + 32 * u) 32 }

/-! ### Against the placement (R263) -/

/-- Bytes that a range or a mirror occupies. -/
inductive Extent where
  | core (c a n : Nat)
  | stack (k a n : Nat)
  deriving DecidableEq, Repr

/-- Two extents overlap. -/
def extMeets : Extent → Extent → Bool
  | .core c a n, .core d b m => c == d && meets a n b m
  | .stack k a n, .stack j b m => k == j && meets a n b m
  | _, _ => false

/-- First byte, in the stride of a slot's core, of an offset of a placed handle. -/
def handleBase (f : FieldImg) (slot handle : Nat) : Nat :=
  let r := f.recs.getD slot ⟨0, 0, [], []⟩
  (viewOf (r.handles.getD (2 * handle) 0) (r.handles.getD (2 * handle + 1) 0)).base

/-- Where unit u of a core range lies: its core and the byte in its stride. -/
def coreUnit (p : Placed) (r : GRange) (u : Nat) : Option (Nat × Nat) :=
  match fieldIn p.img r.unit, boundCore p r.unit (r.first + u) with
  | some f, some c => some (c, handleBase f (r.first + u) r.handle + r.off)
  | _, _ => none

/-- The mirror of a range, where it has one. -/
def mirrorExt (r : GRange) : List Extent :=
  if r.kind = 0 ∧ r.stageStack ≠ 0xFF then [.stack r.stageStack r.stageOff (unitCount r * r.len)] else []

/-- What a range occupies of the model's other epoch: the units of a core range, but for an image installed STAGED, and its mirror,
or its stack range. -/
def rangeExts (p : Placed) (staged : Bool) (r : GRange) : List Extent :=
  if r.kind = 0 then
    (if staged then [] else (List.range (unitCount r)).filterMap fun u => (coreUnit p r u).map fun e => .core e.1 e.2 r.len)
      ++ mirrorExt r
  else [.stack r.unit r.off r.len]

/-- What a range occupies in the image: its units by field and slot, whether or not they are bound, and its mirror. -/
def slotExts (p : PImg) (r : GRange) : List Extent :=
  if r.kind = 0 then
    (match fieldIn p r.unit with
      | some f => (List.range (unitCount r)).map fun u =>
          .core (4096 * r.unit + r.first + u) (handleBase f (r.first + u) r.handle + r.off) r.len
      | none => []) ++ mirrorExt r
  else [.stack r.unit r.off r.len]

/-- A stack range lies in a region of the placement with WEIGHT 1. -/
def inWeightRegion (p : PImg) (k a n : Nat) : Bool :=
  p.regions.any fun q => q.stack == k && q.weight && decide (2 ^ 20 * q.base ≤ a) && decide (a + n ≤ 2 ^ 20 * (q.base + q.size))

/-- A core range lies inside one WEIGHTS entry of its field and handle. -/
def inWeights (p : PImg) (r : GRange) : Bool :=
  match fieldIn p r.unit with
  | none => false
  | some f => decide (r.last < f.slots) && f.weights.any fun w =>
      w.handle == r.handle && decide (w.first ≤ r.first) && decide (r.last ≤ w.last) && decide (w.off ≤ r.off)
        && decide (r.off + r.len ≤ w.off + w.len)

/-- Steps 4 to 6 for one range. -/
def rangeFits (p : PImg) (ikind : Nat) (needMirror : Bool) (r : GRange) : Bool :=
  if r.kind = 0 then ikind == 0 && inWeights p r
    && (if r.stageStack = 0xFF then !needMirror else inWeightRegion p r.stageStack r.stageOff (unitCount r * r.len))
  else inWeightRegion p r.unit r.off r.len && (if r.kind = 1 then ikind == 0 else ikind == 1)

/-- Some two extents of different ranges overlap. -/
def selfOverlap : List (List Extent) → Bool
  | [] => false
  | a :: l => a.any (fun e => l.any fun b => b.any (extMeets e)) || selfOverlap l

/-- Steps 2 to 7 of R263 against a placement, for an image of a kind; a range and its own mirror lie in different places. DESIGN CHOICE, log 38. -/
def gristCheck (p : Placed) (ikind : Nat) (needMirror : Bool) (addr : Nat) (o : Opened) : Except Code GristImg :=
  let l := o.head
  let g := gristOf addr o
  if !headCovers l then .error E.gristFormat
  else match (gristHeader l (le o.hdr 0x18 8)).orElse fun _ => firstOf (rangeSpan l) (List.range (le l 0x28 2)) with
    | some c => .error c
    | none =>
      if g.ikind ≠ ikind ∨ (ikind = 0 ∧ g.placementId ≠ p.img.id) then .error E.gristMismatch
      else if !g.ranges.all (rangeFits p.img ikind needMirror) then .error E.gristMismatch
      else if selfOverlap (g.ranges.map (slotExts p.img)) then .error E.gristMismatch
      else .ok g

/-- Step 8: no range or mirror meets those of the other epoch. DESIGN CHOICE, log 38. -/
def epochClash (p : Placed) (g : GristImg) (staged : Bool) (other : GristImg) (otherStaged : Bool) : Bool :=
  let a := g.ranges.flatMap (rangeExts p staged)
  let b := other.ranges.flatMap (rangeExts p otherStaged)
  a.any fun e => b.any (extMeets e)

/-! ### Payload -/

/-- Plaintext of image bytes [pos, pos + n) from their ciphertext: below HEAD_LEN they stand in the opened head, beyond it they
are AES-256-CTR under KC. -/
def unsealBytes (kc : List Byte) (g : GristImg) (pos : Nat) (ct : List Byte) : List Byte :=
  let inHead := bytesAt g.head pos ct.length
  inHead ++ ((aesCtr kc (pos / 16) (List.replicate (pos % 16) 0 ++ ct)).drop (pos % 16)).drop inHead.length

/-- The plaintext of a unit that host memory gave. -/
def hostUnit (s : State) (tenant : Nat) (g : GristImg) (r : GRange) (u : Nat) (ct : List Byte) : List Byte :=
  match trsOf s tenant with
  | some trs => unsealBytes (sealKeys trs g.iv).2 g (unitPos r u) ct
  | none => []

/-- Whether a unit's bytes have the digest of the manifest. -/
def unitGood (g : GristImg) (ri u : Nat) (l : List Byte) : Bool := decide (sha256 l = (g.digests.getD ri []).getD u [])

/-- Bytes are written to a core as untagged arrivals (R264). -/
def putCore (c a : Nat) (l : List Byte) (s : State) : State :=
  if l.isEmpty then s
  else hdOutsideWrite c (rngOf false a l.length) (writeMem (coreAddr c a) l s)

/-- A verified unit is written: to its core, its mirror or its stack range (R264). A stack that refuses gives its code. -/
def putUnit (p : Placed) (staged : Bool) (r : GRange) (u : Nat) (l : List Byte) (s : State) : Option Code × State :=
  if r.kind = 0 then
    let s := if staged then s else match coreUnit p r u with
      | some e => putCore e.1 e.2 l s
      | none => s
    if r.stageStack = 0xFF ∨ l.isEmpty then (none, s) else stackWrite r.stageStack (r.stageOff + u * r.len) l [] s
  else if l.isEmpty then (none, s) else stackWrite r.unit (r.off + 0x100000 * u) l [] s

/-- A unit as it stands installed: in its mirror, its stack range or its core (R265, R272). -/
def takeUnit (p : Placed) (mirror : Bool) (r : GRange) (u : Nat) (s : State) : Except Code (List Byte) × State :=
  let n := unitLen r u
  if n = 0 then (.ok [], s)
  else if r.kind ≠ 0 then stackRead r.unit (r.off + 0x100000 * u) n true [] s
  else if mirror then
    (if r.stageStack = 0xFF then (.error E.gristMismatch, s) else stackRead r.stageStack (r.stageOff + u * r.len) n true [] s)
  else match coreUnit p r u with
    | some e => (.ok (readMem s (coreAddr e.1 e.2) n), s)
    | none => (.error E.gristMismatch, s)

end Sys2Proof.Machine
end

