-- ==== Sys2Proof/Machine/Kv.lean ====
section
/-! DEFINITION. KV frames, the KV map and the prefix tree (R315 to R321, R328 to R332). -/

namespace Sys2Proof.Machine

open Sys2Proof

/-- The serving engine page of KV and prefix registers (R333). -/
def pKv : Nat := 0x1A

/-- Changes the serving engine. -/
def updServing (f : Serving → Serving) (s : State) : State := { s with serving := f s.serving }

/-- Stream i. -/
def streamAt (s : State) (i : Nat) : Stream := mget .reset s.serving.streams i
/-- Sets it. -/
def setStream (i : Nat) (x : Stream) (s : State) : State :=
  updServing (fun v => { v with streams := mset .reset v.streams i x }) s
/-- Changes it. -/
def updStream (i : Nat) (f : Stream → Stream) (s : State) : State := setStream i (f (streamAt s i)) s

/-- CTX_BLOCKS of a model (R315). -/
def ctxBlocks (s : State) (m : Nat) : Nat := liveF s pKv (0x40 + 12 * m) 27 13
/-- CTX: the context limit in tokens. -/
def ctxLimit (s : State) (m : Nat) : Nat := 64 * ctxBlocks s m
/-- CHUNK_MAX of a model. -/
def chunkMax (s : State) (m : Nat) : Nat := liveF s pKv (0x40 + 12 * m) 12 0
/-- PX of a model. -/
def pxOn (s : State) (m : Nat) : Bool := liveF s pKv (0x40 + 12 * m) 31 31 == 1
/-- FLOOR_FRAMES, and the number of stack frames. -/
def floorFrames (s : State) (m : Nat) : Nat := liveF s pKv (0x44 + 12 * m) 31 16
/-- The number of stack frames. -/
def stackFrames (s : State) (m : Nat) : Nat := 256 * liveF s pKv (0x44 + 12 * m) 15 0

/-! ### Prefix entries (R329, R332) -/

/-- Entry i. -/
def pxAt (s : State) (i : Nat) : Option PxEntry := mfind s.serving.px i
/-- Sets or frees it. -/
def setPx (i : Nat) (e : Option PxEntry) (s : State) : State :=
  updServing (fun v => { v with px := match e with
    | some x => mput v.px i x
    | none => mdel v.px i }) s

/-- Whether an entry is evictable. -/
def evictable (e : PxEntry) : Bool := e.st == .live && e.refs == 0 && e.children == 0

/-- A frame of a model is free again. -/
def freeFrame (m : Nat) (stack : Bool) (num : Nat) (s : State) : State :=
  updModel m (fun x => { x with kv := if stack then { x.kv with stack := without num x.kv.stack }
    else { x.kv with floor := without num x.kv.floor } }) s

/-- The entry before i, if any, gains or loses children. -/
def pxChild (parent : Nat) (up : Bool) (s : State) : State :=
  match pxAt s parent with
  | some e => setPx parent (some { e with children := if up then e.children + 1 else e.children - 1 }) s
  | none => s

/-- The evictable entry with the smallest LAST_BEAT, the lowest index on a tie (R329). -/
def pxVictim (s : State) (p : PxEntry → Bool) : Option (Nat × PxEntry) :=
  s.serving.px.foldl (fun best e =>
    if evictable e.2 && p e.2 then
      (match best with
        | some b => if e.2.last.toNat < b.2.last.toNat then some e else best
        | none => some e)
    else best) none

/-- An entry is evicted: its frame and index are free, its parent has one child less (R329). -/
def evict (v : Nat × PxEntry) (s : State) : State :=
  countUp pKv 0x81C 31 0 1 (freeFrame v.2.model v.2.stack v.2.frame (setPx v.1 none (pxChild v.2.parent false s)))

/-- A stream no longer references an entry; a DETACHED one without references is freed with its frame (R320, R332). -/
def pxRelease (i : Nat) (s : State) : State :=
  match pxAt s i with
  | some e =>
    if e.st = .detached ∧ e.refs ≤ 1 then freeFrame e.model e.stack e.frame (setPx i none s)
    else setPx i (some { e with refs := e.refs - 1 }) s
  | none => s

/-- A LIVE entry becomes DETACHED (R332). -/
def pxDetach (i : Nat) (s : State) : State :=
  match pxAt s i with
  | some e =>
    if e.st ≠ .live then s
    else
      let s := pxChild e.parent false s
      if e.refs = 0 then freeFrame e.model e.stack e.frame (setPx i none s)
      else setPx i (some { (pxAt s i).getD e with st := .detached }) s
  | none => s

/-- Every LIVE entry that satisfies p is detached. -/
def pxDetachAll (p : PxEntry → Bool) (s : State) : State :=
  (s.serving.px.filter fun e => p e.2).foldl (fun s e => pxDetach e.1 s) s

/-! ### Frames (R318, R319) -/

/-- The lowest number below n that an ascending list does not hold. -/
def lowestNotIn (n : Nat) (used : List Nat) : Option Nat := go used 0
where
  /-- Looks from a number on. -/
  go : List Nat → Nat → Option Nat
    | [], k => if k < n then some k else none
    | u :: l, k => if k < u then (if k < n then some k else none) else go l (u + 1)

/-- Frames E that evicting prefix entries of a model would give. -/
def evictableOf (s : State) (m : Nat) : Nat := (s.serving.px.filter fun e => evictable e.2 && e.2.model == m).length

/-- Free floor frames. -/
def freeFloor (s : State) (m : Nat) : Nat := floorFrames s m - (modelAt s m).kv.floor.length
/-- Free stack frames. -/
def freeStack (s : State) (m : Nat) : Nat := stackFrames s m - (modelAt s m).kv.stack.length

/-- A frame is allocated: a free floor frame, a free stack frame, or that of an evicted prefix entry (R318). -/
def takeFrame (m : Nat) (s : State) : Option (Frame × State) :=
  let kv := (modelAt s m).kv
  match lowestNotIn (floorFrames s m) kv.floor with
  | some n => some (⟨false, false, n⟩, updModel m (fun x => { x with kv := { kv with floor := insertAsc n kv.floor } }) s)
  | none =>
    match lowestNotIn (stackFrames s m) kv.stack with
    | some n => some (⟨true, false, n⟩, updModel m (fun x => { x with kv := { kv with stack := insertAsc n kv.stack } }) s)
    | none =>
      match pxVictim s (fun e => e.model == m) with
      | some v =>
        let s := evict v s
        let kv := (modelAt s m).kv
        some (⟨v.2.stack, false, v.2.frame⟩, updModel m (fun x => { x with kv :=
          if v.2.stack then { kv with stack := insertAsc v.2.frame kv.stack } else { kv with floor := insertAsc v.2.frame kv.floor } }) s)
      | none => none

/-- R grows or shrinks by n (R319). -/
def addReserved (m n : Nat) (s : State) : State := updModel m (fun x => { x with kv := { x.kv with reserved := x.kv.reserved + n } }) s
/-- R shrinks by n. -/
def subReserved (m n : Nat) (s : State) : State := updModel m (fun x => { x with kv := { x.kv with reserved := x.kv.reserved - n } }) s

/-- Whether n more frames can be reserved in a model (R319). -/
def canReserve (s : State) (m n : Nat) : Bool :=
  decide ((modelAt s m).kv.reserved + n ≤ freeFloor s m + freeStack s m + evictableOf s m)

/-! ### The KV map (R317) -/

/-- A map entry. -/
def frameWord (f : Frame) : Nat := 2 ^ 31 + 2 ^ 30 * b2n f.stack + 2 ^ 29 * b2n f.shared + f.num

/-- The map entry of block k of a stream is written through the stack controller. DESIGN CHOICE, log 42. DEDUCED, log 43. -/
def writeMap (m stream k : Nat) (f : Frame) (s : State) : State :=
  let w := live s pKv (0x48 + 12 * m)
  (stackWrite (bits w 28 24) (2 ^ 20 * bits w 16 0 + 4 * (stream * ctxBlocks s m + k)) (leBytes 4 (frameWord f)) [] s).2

/-- Which of a stream's models: its own, or its draft model. -/
def kvOf (x : Stream) (draft : Bool) : StreamKv := if draft then x.dkv else x.kv
/-- Sets what it holds there. -/
def setKv (draft : Bool) (k : StreamKv) (x : Stream) : Stream := if draft then { x with dkv := k } else { x with kv := k }

/-- A block of a stream gets a frame, from its reservation, and its map entry (R318). -/
def allocBlock (i m : Nat) (draft : Bool) (b : Nat) (s : State) : State :=
  let k := kvOf (streamAt s i) draft
  if (mfind k.blocks b).isSome then s
  else match takeFrame m s with
    | some (f, s) =>
      writeMap m i b f (subReserved m 1 (updStream i (setKv draft { k with blocks := mput k.blocks b f, resv := k.resv - 1 }) s))
    | none => s

/-- Every block that positions [pos, pos + n) enter gets a frame. -/
def allocBlocks (i m : Nat) (draft : Bool) (pos n : Nat) (s : State) : State :=
  if n = 0 then s
  else (List.range ((pos + n - 1) / 64 + 1 - pos / 64)).foldl (fun s j => allocBlock i m draft (pos / 64 + j) s) s

/-- The candidate frame is allocated where the stream holds none (R339). -/
def allocCand (i m : Nat) (draft : Bool) (s : State) : State :=
  let k := kvOf (streamAt s i) draft
  if k.cand.isSome then s
  else match takeFrame m s with
    | some (f, s) => subReserved m 1 (updStream i (setKv draft { k with cand := some f, resv := k.resv - 1 }) s)
    | none => s

/-- What a stream holds in a model is released: private frames, references, unused reservation (R320). -/
def releaseKv (i m : Nat) (draft : Bool) (s : State) : State :=
  let k := kvOf (streamAt s i) draft
  let s := k.blocks.foldl (fun s e => if e.2.shared then s else freeFrame m e.2.stack e.2.num s) s
  let s := match k.cand with
    | some f => freeFrame m f.stack f.num s
    | none => s
  let s := k.entries.foldl (fun s e => pxRelease e s) s
  updStream i (setKv draft .reset) (subReserved m k.resv s)

/-! ### Lookup (R328, R330) -/

/-- The tenant's or the public prefix key. -/
def spaceKey (s : State) (tenant : Nat) (pub : Bool) : List Byte :=
  if pub then s.serving.pubKey
  else match mfind s.sec.tenants tenant with
    | some trs => prefixKey trs (s.sec.bootId.getD 0)
    | none => []

/-- The key of a block of 64 tokens (R328). -/
def blockKey (key : List Byte) (tokens : List Nat) : DWord :=
  BitVec.ofNat 64 (leNat ((hmac key (tokens.flatMap fun t => leBytes 4 t)).take 8))

/-- Tokens of block k. -/
def blockTokens (tokens : List Nat) (k : Nat) : List Nat := (tokens.drop (64 * k)).take 64

/-- What entries must agree in, beside key and parent (R330). -/
structure PxScope where
  model : Nat
  epoch : Nat
  pub : Bool
  tenant : Nat
  ad : Option (Nat × Nat)
  deriving DecidableEq, Repr

/-- The LIVE entry that agrees with a block. -/
def pxMatch (s : State) (q : PxScope) (key : DWord) (parent : Nat) : Option Nat :=
  (s.serving.px.find? fun e => e.2.st == .live && e.2.key == key && e.2.parent == parent && e.2.model == q.model
    && e.2.epoch == q.epoch && e.2.pub == q.pub && (q.pub || e.2.tenant == q.tenant) && e.2.ad == q.ad).map (·.1)

/-- The entries matched by blocks k, k + 1, …, n of them at most. -/
def pxWalk (s : State) (q : PxScope) (key : List Byte) (tokens : List Nat) : Nat → Nat → Nat → List Nat
  | 0, _, _ => []
  | n + 1, k, parent =>
    match pxMatch s q (blockKey key (blockTokens tokens k)) parent with
    | some e => e :: pxWalk s q key tokens n (k + 1) e
    | none => []

/-- LOOKUP_MAX. -/
def lookupMax (s : State) : Nat := liveF s pKv 0x340 15 0

/-- Blocks a lookup looks at (R330). -/
def lookupLen (s : State) (len : Nat) : Nat := Nat.min ((len - 1) / 64) (lookupMax s)

/-- The entries that a prompt's blocks match, where the tick leaves time for `time` of them. -/
def pxLookup (s : State) (q : PxScope) (tokens : List Nat) (time : Nat) : List Nat :=
  if pxOn s q.model && decide (0 < lookupMax s) then
    pxWalk s q (spaceKey s q.tenant q.pub) tokens (Nat.min (lookupLen s tokens.length) time) 0 0xFFFF
  else []

/-- Whether the tick stopped the lookup. -/
def pxStopped (s : State) (q : PxScope) (tokens : List Nat) (time : Nat) (found : Nat) : Bool :=
  pxOn s q.model && decide (0 < lookupMax s) && decide (time < lookupLen s tokens.length) && found == time

/-- One matched block is adopted at beat b: a reference, the map entry. -/
def adoptOne (i m : Nat) (draft : Bool) (b : Beat) (s : State) (e : Nat) : State :=
  match pxAt s e with
  | none => s
  | some x =>
    let k := kvOf (streamAt s i) draft
    let f : Frame := ⟨x.stack, true, x.frame⟩
    writeMap m i k.adopted f (updStream i (setKv draft { k with
        blocks := mput k.blocks k.adopted f, entries := k.entries ++ [e], adopted := k.adopted + 1, next := k.adopted + 1,
        parent := e })
      (setPx e (some { x with refs := x.refs + 1, last := b }) s))

/-- Matched blocks are adopted, in order (R330). -/
def adopt (i m : Nat) (draft : Bool) (b : Beat) (es : List Nat) (s : State) : State := es.foldl (adoptOne i m draft b) s

/-! ### Publishing (R331) -/

/-- A FREE index, evicting an entry where there is none. -/
def pxSlot (s : State) : Option (Nat × State) :=
  match lowestNotIn 65535 (s.serving.px.map (·.1)) with
  | some n => some (n, s)
  | none =>
    match pxVictim s (fun _ => true) with
    | some v => some (v.1, evict v s)
    | none => none

/-- The next block of an eligible stream is published, or stays private. -/
def publishOne (i : Nat) (draft : Bool) (q : PxScope) (b : Beat) (s : State) : State :=
  let x := streamAt s i
  let k := kvOf x draft
  let key := blockKey (spaceKey s q.tenant q.pub) (blockTokens x.tokens k.next)
  match pxMatch s q key k.parent with
  | some e => updStream i (setKv draft { k with next := k.next + 1, parent := e }) s
  | none =>
    match pxSlot s, mfind k.blocks k.next with
    | some (n, s), some f =>
      let e : PxEntry := { key := key, parent := k.parent, children := 0, refs := 1, tenant := q.tenant, pub := q.pub,
                           epoch := q.epoch, model := q.model, ad := q.ad, stack := f.stack, frame := f.num, st := .live, last := b }
      updStream i (setKv draft { k with blocks := mput k.blocks k.next { f with shared := true }, entries := k.entries ++ [n],
                                        next := k.next + 1, parent := n })
        (setPx n (some e) (pxChild k.parent true s))
    | _, _ => updStream i (setKv draft { k with eligible := false }) s

/-- Blocks that the positions below `filled` fill are published while the stream is eligible. -/
def publish (i : Nat) (draft : Bool) (q : PxScope) (b : Beat) (filled : Nat) : Nat → State → State
  | 0, s => s
  | n + 1, s =>
    let k := kvOf (streamAt s i) draft
    if k.eligible && pxOn s q.model && decide (64 * (k.next + 1) ≤ filled) then publish i draft q b filled n (publishOne i draft q b s)
    else s

end Sys2Proof.Machine
end

