-- ==== Sys2Proof/Machine/ServeOps.lean ====
section
/-! DEFINITION. Operations of the serving engine: models and epochs, adapters, sessions, the ring's room, entries and notices,
and how streams and steps end (R269, R276, R282, R303, R305, R306, R309, R320, R421). -/

namespace Sys2Proof.Machine

open Sys2Proof

/-! ### Models and epochs (R269, R279) -/

/-- Page 0x0018. -/
def pWl : Nat := 0x18

/-- MODEL_STATUS.STATE of a model. -/
def modelState (s : State) (m : Nat) : Nat := liveF s pWl (0x200 + 4 * m) 31 29
/-- Sets it. DESIGN CHOICE, log 59. -/
def setModelState (m v : Nat) (s : State) : State := setLiveF pWl (0x200 + 4 * m) 31 29 v s
/-- A bit of MODEL_STATUS. -/
def statusBit (s : State) (m i : Nat) : Bool := bit (live s pWl (0x200 + 4 * m)) i
/-- Whether a model is READY. -/
def modelReady (s : State) (m : Nat) : Bool := modelState s m == 2

/-- Lowest bit of the state of an epoch in MODEL_STATUS. -/
def epLo (e : Nat) : Nat := if e = 0 then 23 else 20
/-- The state of an epoch: 0 EMPTY, 1 INSTALLING, 2 READY, 3 ACTIVE, 4 DRAINING, 5 SWITCHING. -/
def epochSt (s : State) (m e : Nat) : Nat := liveF s pWl (0x200 + 4 * m) (epLo e + 2) (epLo e)
/-- Sets it. -/
def setEpochSt (m e v : Nat) (s : State) : State := setLiveF pWl (0x200 + 4 * m) (epLo e + 2) (epLo e) v s
/-- Whether an epoch was installed STAGED. -/
def stagedEp (s : State) (m e : Nat) : Bool := statusBit s m (if e = 0 then 19 else 18)
/-- Sets it. -/
def setStaged (m e : Nat) (v : Bool) (s : State) : State :=
  let b := if e = 0 then 19 else 18
  setLiveF pWl (0x200 + 4 * m) b b (b2n v) s

/-- The epoch that the live MODEL_EPOCH names. -/
def activeEp (s : State) (m : Nat) : Nat := liveF s pWl (0x40 + 4 * m) 0 0

/-- The in-flight tally of an epoch. -/
def inflight (s : State) (m e : Nat) : Nat := if e = 0 then liveF s pWl (0x300 + 4 * m) 12 0 else liveF s pWl (0x300 + 4 * m) 28 16
/-- Sets it. -/
def setInflight (m e v : Nat) (s : State) : State :=
  if e = 0 then setLiveF pWl (0x300 + 4 * m) 12 0 v s else setLiveF pWl (0x300 + 4 * m) 28 16 v s

/-- The manifest of an epoch. -/
def epImg (x : Model) (e : Nat) : Option GristImg := if e = 0 then x.epA else x.epB
/-- Sets it. -/
def setEpImg (e : Nat) (g : Option GristImg) (x : Model) : Model := if e = 0 then { x with epA := g } else { x with epB := g }

/-- An epoch becomes EMPTY: its manifest goes, and its prefix entries are detached (R271, R332). -/
def epochEmpty (m e : Nat) (s : State) : State :=
  pxDetachAll (fun q => q.model == m && q.epoch == e)
    (setStaged m e false (setEpochSt m e 0 (updModel m (setEpImg e none) s)))

/-! ### Adapters (R276) -/

/-- Adapter slot k. -/
def adapterAt (s : State) (k : Nat) : Adapter := mget .reset s.weights.adapters k
/-- Sets it. -/
def setAdapter (k : Nat) (x : Adapter) (s : State) : State :=
  { s with weights := { s.weights with adapters := mset .reset s.weights.adapters k x } }

/-- Why a stream of a model and tenant may not be bound to a slot. -/
def adapterCheck (s : State) (k m tenant : Nat) : Option Code :=
  let a := adapterAt s k
  if a.st = .retiring ∧ a.model = m ∧ a.tenant = tenant then some E.adapterRetiring
  else if a.st ≠ .ready ∨ a.model ≠ m ∨ a.tenant ≠ tenant then some E.adapterInvalid
  else none

/-- REFS of a slot rises or falls. -/
def adapterRef (k : Nat) (up : Bool) (s : State) : State :=
  let a := adapterAt s k
  setAdapter k { a with refs := if up then a.refs + 1 else a.refs - 1 } s

/-! ### Sessions (R416) -/

/-- Session h. -/
def sessionAt (s : State) (h : Nat) : Session := mget .reset s.sec.sessions h
/-- Sets it. -/
def setSession (h : Nat) (x : Session) (s : State) : State :=
  { s with sec := { s.sec with sessions := mset .reset s.sec.sessions h x } }

/-- K_in and K_out of a session (R413). -/
def keysOf (s : State) (h : Nat) : List Byte × List Byte :=
  match mfind s.sec.tenants (sessionAt s h).tenant with
  | some trs => sessionKeys trs (s.sec.bootId.getD 0) h (sessionAt s h).gen
  | none => ([], [])

/-! ### The ring (R303) -/

/-- Page 0x0010. -/
def pSrv : Nat := 0x10

/-- SRV_CTRL.ENABLE. -/
def srvOn (s : State) : Bool := bit (live s pSrv 0x40) 31
/-- An address of page 0x0010: 0 HCA, 1 requests, 2 selections, 3 ring. -/
def srvAddr (s : State) (k : Nat) : Nat := 2 ^ 32 * liveF s pSrv (0x48 + 8 * k) 11 0 + 4096 * liveF s pSrv (0x44 + 8 * k) 31 12
/-- Bytes of the gyle ring. -/
def ringSize (s : State) : Nat := 4096 * liveF s pSrv 0x64 23 0

/-- A number rounded up to 64. -/
def pad64 (n : Nat) : Nat := (n + 63) / 64 * 64

/-- Bytes of an entry. -/
def entrySize (e : GEntry) : Nat := 64 + pad64 e.payload.length
/-- Bytes of a list of entries. -/
def entriesSize (l : List GEntry) : Nat := l.foldl (fun n e => n + entrySize e) 0

/-- Bytes that reservations and closed records hold. -/
def ringHeld (s : State) : Nat :=
  s.serving.streams.foldl (fun n e => n + (match e.2.run with
      | some r => r.resv
      | none => 0)) 0
    + s.serving.queue.foldl (fun n e => n + e.resv) 0 + s.serving.recs.foldl (fun n r => n + 64 + entriesSize r.entries) 0

/-- Free space of the ring (R303). -/
def ringFree (s : State) : Nat :=
  let size := ringSize s
  if size = 0 then 0
  else size - ((s.serving.writeOff + size - s.serving.cons % size) % size) - ringHeld s

/-- Whether n bytes can be reserved with room for a header beyond them. -/
def canHold (s : State) (n : Nat) : Bool := decide (n + 64 ≤ ringFree s)

/-! ### Entries (R305, R306) -/

/-- An entry of a stream that is not a step's: a request result or a notice. -/
def plainEntry (s : State) (i kind : Nat) (code : Code) (reqSeq : Nat) (ended : Bool) : GEntry :=
  let x := streamAt s i
  { stream := i, kind := kind, ended := ended, sealed_ := false, epoch := x.epoch, topk := false, code := code, reqSeq := reqSeq,
    step := (x.step + 2 ^ 32 - 1) % 2 ^ 32, pos := x.pos, count := 0, payload := [], beat := s.beat.now,
    nonce := List.replicate 12 0, tag := List.replicate 16 0, resv := 64, of := none }

/-- An entry enters the next record. -/
def queueEntry (e : GEntry) (s : State) : State := updServing (fun v => { v with queue := v.queue ++ [e] }) s

/-- The latest code reported for a stream. -/
def setLastCode (i : Nat) (c : Code) (s : State) : State := updStream i (fun x => { x with lastCode := c }) s

/-- A notice: it enters the next record, or waits for room (R303, R306). -/
def notice (i : Nat) (c : Code) (ended : Bool) (s : State) : State :=
  let e := plainEntry s i 6 c 0 ended
  let s := setLastCode i c s
  if s.serving.late.isEmpty ∧ canHold s 64 then queueEntry e s
  else updServing (fun v => { v with late := v.late ++ [e] }) s

/-- A request result (R289). -/
def result (i : Nat) (c : Code) (seq : Nat) (ended : Bool) (s : State) : State :=
  setLastCode i c (queueEntry (plainEntry s i 5 c seq ended) s)

/-! ### Streams and steps end (R309, R320) -/

/-- The draft model of a SPEC stream's model. -/
def draftOf (s : State) (m : Nat) : Nat := liveF s 0x1B (0x40 + 8 * m) 29 24

/-- Stage allocations of a stream in a model are free again. -/
def freeStage (i m : Nat) (s : State) : State :=
  updModel m (fun x => { x with stage := x.stage.filter (·.stream != i) }) s

/-- A stream becomes FREE (R309): adapter, KV entries and session are released. -/
def freeStream (i : Nat) (s : State) : State :=
  let x := streamAt s i
  let s := match x.ad with
    | some a => adapterRef a.1 false s
    | none => s
  let s := freeStage i x.model (releaseKv i x.model false s)
  let s := if x.spec then freeStage i (draftOf s x.model) (releaseKv i (draftOf s x.model) true s) else s
  let y := sessionAt s x.session
  let s := if y.st = .bound ∧ y.stream = i then setSession x.session { y with st := .opened, stream := 0 } s else s
  setStream i { Stream.reset with sumSeen := x.sumSeen, reqSeq := x.reqSeq, selSeq := x.selSeq, lastCode := x.lastCode } s

/-- A stream ends (R309): FREE at once, or ENDING while a step is in flight. -/
def endStream (i : Nat) (code : Code) (s : State) : State :=
  let x := streamAt s i
  match x.st with
  | .free | .ending => s
  | _ => if x.run.isSome then updStream i (fun x => { x with st := .ending, endCode := code, joined := none }) s else freeStream i s

/-- A stream ends with a notice of the reason (R296, R309). DESIGN CHOICE, log 40. -/
def endWith (i : Nat) (code : Code) (s : State) : State :=
  if (streamAt s i).run.isSome then endStream i code s else endStream i code (notice i code true s)

/-- One epoch's in-flight tally loses 1 (R269). -/
def flightEnds (m e : Nat) (s : State) : State := setInflight m e (inflight s m e - 1) s

/-- A batch member has completed or is abandoned; the batch ends with its last (R299). -/
def batchEnds (b : Nat) (s : State) : State :=
  match mfind s.serving.batches b with
  | some x =>
    if x.left ≤ 1 then
      freeStage (4096 + b) x.model (flightEnds x.model x.epoch (updServing (fun v => { v with batches := mdel v.batches b }) s))
    else updServing (fun v => { v with batches := mput v.batches b { x with left := x.left - 1 } }) s
  | none => s

/-- What a step in flight holds ends with it: its tallies and stage allocations. A round before its verification holds only the
draft's tally. -/
def stepLeaves (i : Nat) (r : StepRec) (s : State) : State :=
  let x := streamAt s i
  let s := match r.batch with
    | some b => batchEnds b s
    | none =>
      let s := if r.kind = 2 ∧ !r.verifying then s else flightEnds x.model r.epoch s
      match r.draftEpoch with
      | some e => flightEnds (draftOf s x.model) e s
      | none => s
  let s := freeStage i x.model s
  if x.spec then freeStage i (draftOf s x.model) s else s

/-- A stream is to issue steps again from a step on, `paid` their COUNTs: the token, position and accepted round from before it,
their charges paid (R23). DESIGN CHOICE, log 40. -/
def reissue (i : Nat) (r : StepRec) (paid : List Nat) (s : State) : State :=
  updStream i (fun x => { x with
    st := if x.st = .paused then .paused else .scheduled, back := if x.st = .paused then .scheduled else x.back, run := none,
    pos := r.pos, first := r.first, token := r.token, paid := paid, nextBeat := s.beat.now + 1, prevA := r.prevA,
    prevPath := r.prevPath, lastNodes := r.prevNodes, lastPos := r.prevPos, probe := r.probe }) s

/-- COUNT of a step as its next issue is measured. -/
def paidFor (r : StepRec) : Nat := Nat.max 1 r.count

/-- The last notice of a stream that ends without an entry of its own carries ENDED (R309). DESIGN CHOICE, log 40. -/
def endNotice (i : Nat) (s : State) : State := freeStream i (notice i (streamAt s i).endCode true s)

/-- A step in flight is abandoned (R23): it is issued again without charge, or its ENDING stream is FREE. DESIGN CHOICE, log 40. -/
def abandonStep (i : Nat) (s : State) : State :=
  let x := streamAt s i
  match x.run with
  | none => s
  | some r =>
    let s := updStream i (fun x => { x with run := none }) (stepLeaves i r s)
    if x.st = .ending then endNotice i s else reissue i r (paidFor r :: x.paid) s

/-- Streams of a model, its draft streams among them (R336), that are not FREE. -/
def streamsOf (s : State) (m : Nat) : List Nat :=
  (s.serving.streams.filter fun e => e.2.st != .free && (e.2.model == m || (e.2.spec && draftOf s e.2.model == m))).map (·.1)

end Sys2Proof.Machine
end

