-- ==== Sys2Proof/Machine/Teardown.lean ====
section
/-! DEFINITION. How a placement leaves the floor: its cores, tallies, regions and quotas (R137, R239, R274, R402, R405). -/

namespace Sys2Proof.Machine

open Sys2Proof

/-- A core as a placement leaves it (R104, R405): no context, handle, tag or line, every bank in its reset mode. -/
def clearedCore (x : Core) : Core :=
  let y := resetCore x
  { y with handles := [], bankMode := Core.reset.bankMode, shadowRegs := [], dirty := false, full := [], cache := [],
           misses := [], clearing := [], units := [], dmq := [], draining := false }

/-- A core that leaves one placement for another at one tick: as a FREE core, but for the bank modes and placed handles that the
commit has given it (R259). DESIGN CHOICE, log 55. -/
def recycledCore (x : Core) : Core :=
  { clearedCore x with handles := x.handles, bankMode := x.bankMode, shadowRegs := x.shadowRegs, clearing := x.clearing }

/-- A core's heavy-unit permit, its place among the waiting and the credits of its descriptors are given back. -/
def giveUpUnits (c : Nat) (s : State) : State :=
  let n := ((coreAt s c).dmq.filter (·.credit)).length
  let s := releasePermit c { s with credits := s.credits - n }
  let u := unitsOf s (fieldOfCore c)
  setUnits (fieldOfCore c) { u with quotaQ := without c u.quotaQ } s

/-- A core leaves its placement, `f` being what becomes of it; its store is zero, and neither a unit nor a descriptor writes it
later (R402, R405). DEDUCED, log 39. -/
def freeCoreAs (f : Core → Core) (c : Nat) (s : State) : State :=
  let t := updCore c f (giveUpUnits c s)
  { clearMem (fun a => a / 0x40000 == c) t with owner := mdel t.owner c }

/-- A core leaves its placement and is FREE. DEDUCED, log 39. -/
def freeCore (c : Nat) (s : State) : State := freeCoreAs clearedCore c s

/-- The register that holds the target of a field tally (R138). -/
def targetReg (t : Nat) : Nat × Nat :=
  let i := t % 384
  if i < 192 then (fieldPage (t / 384) 6, 0x40 + 4 * i) else (fieldPage (t / 384) 7, 0x40 + 4 * (i - 192))

/-- A tally leaves its placement: TARGET and COUNT 0, EPOCH kept, its waiters woken (R137, R274). DEDUCED, log 39. -/
def freeTally (t : Nat) (s : State) : State :=
  let s := if t < 30720 then setBoth (targetReg t).1 (targetReg t).2 0 s else { s with hubTargets := mset 0 s.hubTargets t 0 }
  let s := wakeWaiters t (setTally t { tallyAt s t with count := 0 } s)
  { s with tallyOwner := mdel s.tallyOwner t }

/-- A tally leaves one placement for another at one tick: as a free tally, but for the TARGET that the commit has given it. -/
def recycleTally (t : Nat) (s : State) : State :=
  let s := wakeWaiters t (setTally t { tallyAt s t with count := 0 } s)
  { s with tallyOwner := mdel s.tallyOwner t }

/-- The live region of stack n with a base and size in MiB. -/
def findRegion (s : State) (n base size : Nat) : Option Nat :=
  (liveRegions s n).find? fun r => liveF s (pStack n) (0x40 + 16 * r) 16 0 == base && liveF s (pStack n) (0x44 + 16 * r) 16 0 == size

/-- A stack region leaves its placement. DEDUCED, log 39. -/
def freeRegion (q : StackRec) (s : State) : State :=
  match findRegion s q.stack q.base q.size with
  | some r =>
    let p := pStack q.stack
    setBoth p (0x48 + 16 * r) 0 (setBoth p (0x44 + 16 * r) 0 (setBoth p (0x40 + 16 * r) 0 s))
  | none => s

/-- HEAVY_QUOTA of a field: the sum of the requests of the placements that hold cores there, or its reset value (R239). -/
def quotaWord (s : State) (f : Nat) : Word :=
  if (placements s).any fun e => (heldFields e.2).contains f then BitVec.ofNat 32 (hqSum s f) else resetWord (pHeavy f) 0x40

/-- The cores of a placement. -/
def coresOf (p : Placed) : List Nat := p.cores.flatten

/-- A placement leaves the floor (R274 steps 1 to 4): the model m has none then. DEDUCED, log 39. -/
def clearPlacement (m : Nat) (p : Placed) (s : State) : State :=
  let fs := heldFields p
  let s := (coresOf p).foldl (fun s c => freeCore c s) s
  let s := fs.foldl (fun s f => flushMerge f (flushReduce f s)) s
  let s := p.img.regions.foldl (fun s q => freeRegion q s) s
  let s := p.img.tallies.foldl (fun s e => freeTally e.1 s) s
  let s := updModel m (fun x => { x with place := none }) { s with debugModels := without m s.debugModels }
  fs.foldl (fun s f => setBoth (pHeavy f) 0x40 (quotaWord s f) s) s

/-- A model becomes EMPTY (R274): its placement leaves, both epochs are EMPTY, ACTIVE is 0 live and shadow. -/
def emptyModel (m : Nat) (s : State) : State :=
  let s := match (modelAt s m).place with
    | some p => clearPlacement m p s
    | none => s
  let s := epochEmpty m 1 (epochEmpty m 0 s)
  let w := s.weights
  let s := { s with weights := { w with reloads := w.reloads.filter (·.2.model != m) } }
  setLive pWl (0x300 + 4 * m) 0 (setLive pWl (0x200 + 4 * m) 0 (setBoth pWl (0x40 + 4 * m) 0 (setModel m .reset s)))

end Sys2Proof.Machine
end

