-- ==== Sys2Proof/Machine/Install.lean ====
section
/-! DEFINITION. Installs and reloads: holding queries, digest units, how they end (R264, R265, R267, R393). -/

namespace Sys2Proof.Machine

open Sys2Proof

/-! ### Results and progress (R280) -/

/-- WL_RESULT or AD_RESULT takes a state and a code: 1 BUSY, 2 done, 3 failed. -/
def setCmdResult (off st : Nat) (c : Code) (s : State) : State := setLive pWl off (BitVec.ofNat 32 (2 ^ 30 * st + c.toNat)) s
/-- A command of a result register has ended with a code. -/
def endCmd (off : Nat) (c : Code) (s : State) : State := setCmdResult off (if c = 0 then 2 else 3) c s
/-- Whether the command of a result register is BUSY. DESIGN CHOICE, log 37. -/
def cmdBusy (s : State) (off : Nat) : Bool := liveF s pWl off 31 30 == 1

/-- WL_PROGRESS and WL_SOURCE of the install of a model. -/
def showInstall (i : Inst) (s : State) : State :=
  let src := match i.peer with
    | some l => 2 ^ 31 + 2 ^ 24 * l
    | none => 0
  setLive pWl 0x828 (BitVec.ofNat 32 (src + Nat.min (2 ^ 24 - 1) i.hostUnits)) (setLive pWl 0x824 (BitVec.ofNat 32 (i.bytes / 2 ^ 20)) s)

/-- An install has a new state; the one of a model is shown. -/
def putInst (who : Nat) (i : Inst) (s : State) : State :=
  let s := setInst who (some i) s
  if who = 0 then showInstall i s else s

/-! ### The placement an image is judged against -/

/-- Whether a model is STREAMED. -/
def streamed (s : State) (m : Nat) : Bool := statusBit s m 28

/-- Whether a model keeps its core ranges only in mirrors: a standard-class RESIDENT load that runs on its streamed placement
(R258, R259). -/
def mirrorsOnly (s : State) (m : Nat) : Bool := streamed s m && (modelAt s m).alt.isSome

/-- The placement of a model's grist images (R263): that in force, or the resident image with the regions in force. -/
def gristPlace (s : State) (m : Nat) : Option Placed :=
  match (modelAt s m).place, (modelAt s m).alt with
  | some p, some a => if streamed s m then some ⟨{ a with regions := p.img.regions }, []⟩ else some p
  | p, _ => p

/-- Whether every core range needs a mirror: for a STAGED install, and for a standard-class RESIDENT load (R259). -/
def needMirror (s : State) (m : Nat) (staged : Bool) : Bool := staged || (modelAt s m).alt.isSome

/-! ### The chain peer (R264, R393) -/

/-- Links that are up with a joined peer, while this engine is joined. -/
def svcLinks (s : State) : List Nat := (List.range 8).filter fun l => joined s && linkUp s l && (linkAt s l).peerJoined

/-- Links to the peer of link l. -/
def linksTo (s : State) (l : Nat) : List Nat := (svcLinks s).filter fun k => (linkAt s k).peerModule == (linkAt s l).peerModule

/-- A SVC_REQ goes out on link l for an install. DESIGN CHOICE, log 45. -/
def sendSvc (l who : Nat) (q : Svc) (s : State) : State :=
  let tag := s.nextTag % 2 ^ 32
  let dest := (linkAt s l).peerModule.toNat
  let p : Pcl := { op := 8, hops := 0, len := 0, dest := dest, srcM := ownModule s, tagged := false, status := 0, mtag := tag,
                   addr := 0, keyId := 0, data := [], svc := some q }
  transmit l 0 none p { s with nextTag := s.nextTag + 1, clReqs := s.clReqs ++ [⟨tag, l, l, dest, .svc who, false, 0, false, 0⟩] }

/-- KEY_ID of the tenant of an install (R422). -/
def instKey (s : State) (i : Inst) : DWord := boundKey s (some i.tenant)

/-- The holding queries of an install (R264 step 2). -/
def sendQueries (who : Nat) (i : Inst) (s : State) : State :=
  (svcLinks s).foldl (fun s l => sendSvc l who (.query i.img.imageId (instKey s i)) s) s

/-- The most payload bytes of a SVC message: with the 64 bytes of its head they fill LEN (R390). DESIGN CHOICE, log 45. -/
def svcPiece : Nat := 4032

/-- Fetches of a unit from the peer, over every link to it in turn. DESIGN CHOICE, log 38. -/
def sendFetches (who : Nat) (i : Inst) (l r u len : Nat) (s : State) : State :=
  let ks := linksTo s l
  ((piecesOf svcPiece (2 ^ 50) 0 len).zipIdx).foldl (fun s q =>
    sendSvc (ks.getD (q.2 % ks.length) l) who (.fetch i.img.imageId (instKey s i) r u q.1.1 q.1.2) s) s

/-! ### Digest units -/

/-- Units of an image that hold bytes, in order: range and unit. -/
def unitsOfImg (g : GristImg) : List (Nat × Nat) :=
  (g.ranges.zipIdx).flatMap fun r => ((List.range (unitCount r.1)).filter fun u => decide (0 < unitLen r.1 u)).map (r.2, ·)

/-- Range r of an image. -/
def rangeOf (g : GristImg) (r : Nat) : GRange := g.ranges.getD r ⟨0, 0, 0, 0, 0, 0, 0, 0, 0, 0, 0⟩

/-! ### The content of a failed install's ranges is undefined (R264) -/

/-- Bytes of a stack range whose content is undefined take free values. DESIGN CHOICE, log 38. -/
def openStack (n off len : Nat) (s : State) : State :=
  match accessRegion s n off len with
  | .error _ => s
  | .ok r => match storeKey s n r with
    | .error _ => s
    | .ok k =>
      let b := freshBytes ((len + 7) / 8) s
      writeStack k [] (stackAddr n off) (b.1.take len) b.2

/-- Bytes of a core store whose content is undefined take free values; a store without power holds none. DESIGN CHOICE, log 38. -/
def openCore (c a len : Nat) (s : State) : State :=
  if fieldSt s (fieldOfCore c) = .dark then s
  else
    let b := freshBytes ((len + 7) / 8) s
    writeMem (coreAddr c a) (b.1.take len) b.2

/-- Where a unit of a failed install was to be written, the content is undefined. DESIGN CHOICE, log 38. -/
def openUnit (p : Placed) (staged : Bool) (r : GRange) (u : Nat) (s : State) : State :=
  let n := unitLen r u
  if n = 0 then s
  else if r.kind = 0 then
    let s := if staged then s else match coreUnit p r u with
      | some e => openCore e.1 e.2 n s
      | none => s
    if r.stageStack = 0xFF then s else openStack r.stageStack (r.stageOff + u * r.len) n s
  else openStack r.unit (r.off + 0x100000 * u) n s

/-- Everything that a failed install was to write. DESIGN CHOICE, log 38. -/
def openRanges (i : Inst) (s : State) : State :=
  match gristPlace s i.model with
  | none => s
  | some p => (unitsOfImg i.img).foldl (fun s q => openUnit p i.staged (rangeOf i.img q.1) q.2 s) s

/-! ### How installs end -/

/-- A failed LOAD ends its install and unloads its placement (R264, R281). DESIGN CHOICE, log 37. DESIGN CHOICE, log 38. DEDUCED, log 66. -/
def loadFails (c : Code) (s : State) : State :=
  match s.weights.load with
  | some j =>
    let s := match s.weights.inst with
      | some i => openRanges i s
      | none => s
    endCmd 0x820 c (emptyModel j.model { s with weights := { s.weights with load := none, inst := none } })
  | none => s

/-- The install of a model has ended (R264): in a LOAD the threads start next. DESIGN CHOICE, log 38. -/
def modelInstEnds (i : Inst) (c : Code) (s : State) : State :=
  match s.weights.load with
  | some j =>
    if c = 0 then setEpochSt i.model i.epoch 2 { s with weights := { s.weights with load := some { j with phase := .threads } } }
    else loadFails c s
  | none =>
    if c = 0 then endCmd 0x820 0 (setStaged i.model i.epoch (i.staged && !streamed s i.model) (setEpochSt i.model i.epoch 2 s))
    else endCmd 0x820 c (epochEmpty i.model i.epoch s)

/-- The install of an adapter has ended (R275). DESIGN CHOICE, log 38. -/
def adapterInstEnds (c : Code) (s : State) : State :=
  let k := s.weights.adSlot
  endCmd 0x850 c (if c = 0 then setAdapter k { adapterAt s k with st := .ready } s else setAdapter k .reset s)

/-- A reload has ended: one that failed is a lasting fault (R267); a staged switch that waited for it is copied. -/
def reloadEnds (i : Inst) (c : Code) (s : State) : State :=
  if c ≠ 0 then report c 6 i.model s
  else updModel i.model (fun x => match x.switching with
    | some w => if w.target = i.epoch ∧ w.phase = .copying then { x with switching := some { w with phase := .done } } else x
    | none => x) s

/-- An install or reload ends with a code, 0 for success; a failed install leaves its ranges undefined (R264). DESIGN CHOICE, log 38. DEDUCED, log 66. -/
def instEnds (who : Nat) (c : Code) (s : State) : State :=
  match instAt s who with
  | none => s
  | some i =>
    let s := setInst who none (if c ≠ 0 ∧ who < 2 then openRanges i s else s)
    if who = 0 then modelInstEnds i c s else if who = 1 then adapterInstEnds c s else reloadEnds i c s

/-! ### Units in turn -/

/-- The next unit of an install is asked of the peer, or waits to be read from host memory; without one the install ends. DESIGN CHOICE, log 38. -/
def beginUnit (who : Nat) (s : State) : State :=
  match instAt s who with
  | none => s
  | some i =>
    match i.todo with
    | [] => instEnds who 0 s
    | q :: _ =>
      let n := unitLen (rangeOf i.img q.1) q.2
      match i.peer with
      | some l =>
        if (svcLinks s).contains l then
          sendFetches who i l q.1 q.2 n (putInst who { i with cur := some ⟨q.1, q.2, n, [], false⟩ } s)
        else putInst who { i with cur := some ⟨q.1, q.2, n, [], true⟩ } s
      | none => putInst who { i with cur := some ⟨q.1, q.2, n, [], true⟩ } s

/-- An install begins (R264): its queries go out. DESIGN CHOICE, log 38. -/
def startInst (who : Nat) (i : Inst) (s : State) : State := sendQueries who i (putInst who i s)

/-- 50 µs after the queries: the answering peer on the lowest link, or the host (R264 step 3). -/
def queryTimeout (who : Nat) (s : State) : State :=
  match instAt s who with
  | none => s
  | some i =>
    if i.phase ≠ .query then s
    else beginUnit who (putInst who { i with phase := .units, peer := i.held.find? (svcLinks s).contains } s)

/-- A peer answers a holding query (R264). -/
def queryAnswered (who l : Nat) (held : Bool) (s : State) : State :=
  match instAt s who with
  | none => s
  | some i => if i.phase = .query ∧ held then putInst who { i with held := insertAsc l i.held } s else s

/-- Bytes of a unit arrive from a peer. -/
def payloadArrives (who range unit off : Nat) (l : List Byte) (s : State) : State :=
  match instAt s who with
  | none => s
  | some i =>
    setInst who (some { i with cur := i.cur.map fun u =>
      if u.range = range ∧ u.unit = unit then { u with got := putBytes u.got off l, left := u.left - l.length } else u }) s

/-- A unit's good bytes are written; then the next (R264 steps 4 and 6). A stack that refuses them ends the install. DEDUCED, log 66. -/
def unitWritten (who : Nat) (i : Inst) (u : UnitIn) (l : List Byte) (s : State) : State :=
  match gristPlace s i.model with
  | none => instEnds who E.gristMismatch s
  | some p =>
    match putUnit p i.staged (rangeOf i.img u.range) u.unit l s with
    | (some c, s) => instEnds who c s
    | (none, s) =>
      beginUnit who (putInst who { i with todo := i.todo.drop 1, cur := none, bytes := i.bytes + l.length,
                                          hostUnits := i.hostUnits + b2n u.host } s)

/-- A unit read from host memory: a failed read or digest ends the install (R264 step 5). -/
def hostUnitArrives (who : Nat) (i : Inst) (u : UnitIn) (mem : HostMem) (s : State) : State :=
  let r := rangeOf i.img u.range
  match readImage (i.img.addr + envHdr + unitPos r u.unit) (unitLen r u.unit) mem s with
  | (.error c, s) => instEnds who c s
  | (.ok ct, s) =>
    let l := hostUnit s i.tenant i.img r u.unit ct
    if unitGood i.img u.range u.unit l then unitWritten who i u l s else instEnds who E.gristDigestFail s

/-- The unit on its way has arrived (R264): one from a peer whose digest fails is read again from host memory. -/
def unitArrives (who : Nat) (mem : HostMem) (s : State) : State :=
  match instAt s who with
  | none => s
  | some i =>
    if who = 0 ∧ (modelAt s i.model).suspended then s
    else match i.cur with
      | none => s
      | some u =>
        if u.host then hostUnitArrives who i u mem s
        else if u.left ≠ 0 then s
        else
          let l := (List.range (unitLen (rangeOf i.img u.range) u.unit)).map (mget 0 u.got)
          if unitGood i.img u.range u.unit l then unitWritten who i u l s
          else setInst who (some { i with cur := some { u with host := true } }) s

/-- A reload of units of an epoch begins (R267): from a peer first, then from the host. -/
def startReload (m e : Nat) (units : List (Nat × Nat)) (s : State) : State :=
  match epImg (modelAt s m) e with
  | none => s
  | some g =>
    let who := s.weights.nextReload + 2
    startInst who { model := m, epoch := e, tenant := modelTenant s m, staged := mirrorsOnly s m, img := g, phase := .query,
                    held := [], peer := none, todo := units, cur := none, bytes := 0, hostUnits := 0 }
      { s with weights := { s.weights with nextReload := s.weights.nextReload + 1 } }

/-! ### Serving a peer (R265) -/

/-- The model and epoch that hold an image of a tenant, named by KEY_ID: READY, ACTIVE or DRAINING. -/
def holder (s : State) (imageId : BitVec 128) (keyId : DWord) : Option (Nat × Nat) :=
  ((List.range 64).flatMap fun m => [(m, 0), (m, 1)]).find? fun q =>
    (match epImg (modelAt s q.1) q.2 with
      | some g => decide (g.imageId = imageId)
      | none => false)
    && (let e := epochSt s q.1 q.2; e == 2 || e == 3 || e == 4)
    && decide (boundKey s (some (modelTenant s q.1)) = keyId) && (mfind s.sec.tenants (modelTenant s q.1)).isSome

/-- A response to a SVC_REQ that came over link l. -/
def svcResp (l : Nat) (p : Pcl) (status : Code) (data : List Byte) (q : Svc) (s : State) : State :=
  transmit l 2 none { respTo s p status data with svc := if status = 0 then some q else none } s

/-- Whether an install being served is that of a query or fetch that came over link l. -/
def servedBy (s : State) (l : Nat) (image : BitVec 128) (key : DWord) (e : Served) : Bool :=
  e.module == (linkAt s l).peerModule && e.image == image && e.key == key

/-- Whether nothing has been fetched for an install for more than 100 µs of the beat. DESIGN CHOICE, log 38. -/
def servedStale (s : State) (e : Served) : Bool :=
  s.beat.mode == .locked && decide (100000 < (s.beat.now - e.at_).toNat * liveF s pBeat 0x44 16 0)

/-- The installs being served, without one. -/
def servedOther (s : State) (l : Nat) (image : BitVec 128) (key : DWord) : List Served :=
  s.weights.serving.filter fun e => !servedBy s l image key e

/-- The install of a query or fetch is being served now. -/
def serveNow (l : Nat) (image : BitVec 128) (key : DWord) (s : State) : State :=
  { s with weights := { s.weights with
      serving := servedOther s l image key ++ [⟨(linkAt s l).peerModule, image, key, s.beat.now⟩] } }

/-- A holding query is answered: held where a model holds the image and fewer than two other installs are being served (R265).
DESIGN CHOICE, log 38. -/
def answerQuery (l : Nat) (p : Pcl) (imageId : BitVec 128) (keyId : DWord) (s : State) : State :=
  let others := (servedOther s l imageId keyId).filter fun e => !servedStale s e
  let held := (holder s imageId keyId).isSome && decide (others.length < 2)
  let s := { s with weights := { s.weights with serving := s.weights.serving.filter fun e => !servedStale s e } }
  svcResp l p 0 [] (.answer imageId held) (if held then serveNow l imageId keyId s else s)

/-- The last digest unit of an image that holds bytes has been sent to its end. -/
def lastPiece (g : GristImg) (range unit off len : Nat) : Bool :=
  (unitsOfImg g).getLast? == some (range, unit) && decide (unitLen (rangeOf g range) unit ≤ off + len)

/-- A payload fetch is served from the installed ranges and mirrors (R265); a failed one answers with its code. -/
def answerFetch (l : Nat) (p : Pcl) (imageId : BitVec 128) (keyId : DWord) (range unit off len : Nat) (s : State) : State :=
  match holder s imageId keyId with
  | none => svcResp l p E.unmapped [] (.payload imageId range unit off) s
  | some q =>
    match epImg (modelAt s q.1) q.2, gristPlace s q.1 with
    | some g, some pl =>
      let s := if lastPiece g range unit off len then { s with weights := { s.weights with serving := servedOther s l imageId keyId } }
        else if s.weights.serving.any (servedBy s l imageId keyId) then serveNow l imageId keyId s else s
      (match takeUnit pl (stagedEp s q.1 q.2 || mirrorsOnly s q.1) (rangeOf g range) unit s with
        | (.ok b, s) => svcResp l p 0 (bytesAt b off len) (.payload imageId range unit off) s
        | (.error c, s) => svcResp l p c [] (.payload imageId range unit off) s)
    | _, _ => svcResp l p E.unmapped [] (.payload imageId range unit off) s

/-- HOLDING_QUERY_TIMEOUT (R264) -/
def execHoldingQueryTimeout (who : Nat) (s : State) : Result := .next (queryTimeout who s)
/-- GRIST_UNIT_ARRIVAL (R264) -/
def execGristUnitArrival (who : Nat) (host : HostMem) (s : State) : Result := .next (unitArrives who host s)

end Sys2Proof.Machine
end

