-- ==== Sys2Proof/Machine/Load.lean ====
section
/-! DEFINITION. Models: LOAD and its stages, INSTALL, RELEASE, UNLOAD, switches of epoch, adapters (R242, R258 to R260, R264,
R270 to R278, R281). -/

namespace Sys2Proof.Machine

open Sys2Proof

/-! ### Commands of page 0x0018 (R280) -/

/-- A field of WL_MODEL. -/
def wlF (s : State) (hi lo : Nat) : Nat := liveF s pWl 0x800 hi lo
/-- An address of two words. -/
def addr64 (s : State) (off : Nat) : Nat := (live s pWl off).toNat + 2 ^ 32 * (live s pWl (off + 4)).toNat

/-- A command of WL_CMD acts, or is discarded while another one is BUSY. -/
def wlCommand (op : Nat) (act : State → State) (s : State) : State :=
  if s.weights.asked = some op then act { s with weights := { s.weights with asked := none } }
  else if cmdBusy s 0x820 || mcStops s then recordErrAny pWl E.wlBusy s
  else act s

/-- A command of AD_CMD acts, or is discarded while another one is BUSY; `asked` says that it may be the INSTALL asked for. -/
def adCommand (asked : Bool) (act : State → State) (s : State) : State :=
  if asked && s.weights.adAsked then act { s with weights := { s.weights with adAsked := false } }
  else if cmdBusy s 0x850 || mcStops s then recordErrAny pWl E.wlBusy s
  else act s

/-! ### LOAD (R241, R258, R260, R281) -/

/-- What a LOAD that has passed its checks loads. -/
structure LoadPlan where
  placed : Placed
  alt : Option PImg
  streamed : Bool
  img : GristImg
  deriving DecidableEq, Repr

/-- The checks of a LOAD before any image is read (R258, R260, R281). -/
def loadArgs (s : State) : Option Code :=
  let pinned := wlF s 8 8 == 1
  let str := wlF s 9 9 == 1
  let q := wlF s 21 16
  firstFail
    [(modelState s (wlF s 5 0) != 0, E.modelBusy),
     (pinned && str, E.modelArgInvalid),
     (!pinned && !str && addr64 s 0x80C == 0, E.modelArgInvalid),
     (wlF s 10 10 == 1 && !((modelState s q == 1 || modelState s q == 2) && modelTenant s q == wlF s 31 24), E.modelInvalid)]

/-- The model that a LOAD with DRAFT 1 drafts for. -/
def loadDraftFor (s : State) : Option Nat := if wlF s 10 10 = 1 then some (wlF s 21 16) else none

/-- A placement image is read, opened, checked in full and paired by its DRAFT flag; its binding, where its cores can be bound.
`later` says that capacity does not end the check. -/
def loadImage (addr : Nat) (later : Bool) (mem : HostMem) (s : State) :
    Except Code (PImg × Option (List (List Nat))) × State :=
  match openEnvelope 1 (wlF s 31 24) addr mem s with
  | (.error c, s) => (.error c, s)
  | (.ok o, s) =>
    let r := if later then pimgTry s (wlF s 5 0) (loadDraftFor s) o.head
      else match pimgCheck s (wlF s 5 0) (loadDraftFor s) o.head with
        | .error c => .error c
        | .ok p => .ok (p.img, some p.cores)
    match r with
    | .error c => (.error c, s)
    | .ok q => (if q.1.draft == (wlF s 10 10 == 1) then .ok q else .error E.gristMismatch, s)

/-- Whether an image may be a streamed placement: it holds no core range (R258). -/
def isStreamed (p : PImg) : Bool := p.fields.all (·.weights.isEmpty)

/-- The placement that a LOAD takes, with its other image (R258). DESIGN CHOICE, log 37. -/
def loadPlacement (mem : HostMem) (s : State) : Except Code (Placed × Option PImg × Bool) × State :=
  let pinned := wlF s 8 8 == 1
  let str := wlF s 9 9 == 1
  match loadImage (addr64 s 0x804) (!pinned && !str) mem s with
  | (.error c, s) => (.error c, s)
  | (.ok p, s) =>
    if pinned || str then
      (match p.2 with
        | some cores => if str && !isStreamed p.1 then (.error E.gristMismatch, s) else (.ok (⟨p.1, cores⟩, none, str), s)
        | none => (.error E.loadRefusedCapacity, s))
    else match loadImage (addr64 s 0x80C) true mem s with
      | (.error c, s) => (.error c, s)
      | (.ok a, s) =>
        if !isStreamed a.1 then (.error E.modelArgInvalid, s)
        else match p.2, a.2 with
        | some cores, _ => (.ok (⟨p.1, cores⟩, some a.1, false), s)
        | none, some cores => (.ok (⟨a.1, cores⟩, some p.1, true), s)
        | none, none => (.error E.loadRefusedCapacity, s)

/-- The grist image of a LOAD, read, opened and checked (R258, R263). -/
def loadGrist (p : Placed) (alt : Option PImg) (str : Bool) (mem : HostMem) (s : State) : Except Code GristImg × State :=
  match openEnvelope 2 (wlF s 31 24) (addr64 s 0x814) mem s with
  | (.error c, s) => (.error c, s)
  | (.ok o, s) =>
    let judged : Placed := match alt with
      | some a => if str then ⟨{ a with regions := p.img.regions }, []⟩ else p
      | none => p
    match gristCheck judged 0 alt.isSome (addr64 s 0x814) o with
    | .error c => (.error c, s)
    | .ok g =>
      if wlF s 8 8 = 1 ∧ g.ranges.any (·.kind == 1) then (.error E.loadRefusedCapacity, s)
      else if str ∧ alt.isNone ∧ g.ranges.any (·.kind == 0) then (.error E.gristMismatch, s)
      else (.ok g, s)

/-- Every check of a LOAD. DESIGN CHOICE, log 37. -/
def loadChecks (mem : HostMem) (s : State) : Except Code LoadPlan × State :=
  match loadArgs s with
  | some c => (.error c, s)
  | none =>
    match loadPlacement mem s with
    | (.error c, s) => (.error c, s)
    | (.ok p, s) =>
      match loadGrist p.1 p.2.1 p.2.2 mem s with
      | (.error c, s) => (.error c, s)
      | (.ok g, s) => (.ok ⟨p.1, p.2.1, p.2.2, g⟩, s)

/-! ### Stage 1 (R99, R242) -/

/-- The pages that a placement's transaction enrols (R242). -/
def loadPages (p : Placed) : List Nat :=
  p.img.fields.flatMap (fun f => [fieldPage f.field 11, pCaw f.field] ++ if p.img.debug then [fieldPage f.field 12] else [])
    ++ ((p.img.tallies.filter (·.1 < 30720)).map fun e => e.1 / 384).dedup.flatMap (fun f => [fieldPage f 6, fieldPage f 7])
    ++ (p.img.regions.map (·.stack)).dedup.map pStack

/-- Why a page cannot be enrolled now. DESIGN CHOICE, log 55. -/
def enrolFails (s : State) (pg : Nat) : Option Code :=
  match pageGroup s pg with
  | some g => if (grp s g).st = .done then none else some E.txnPageBusy
  | none => none

/-- Shadows of one core: its bank modes and placed handles. -/
def shadowSlot (c : Nat) (r : SlotRec) (s : State) : State :=
  updCore c (fun x => setShadowReg 0x80 r.bankMode (r.handles.zipIdx.foldl (fun x q => setShadowReg q.2 q.1 x) x)) s

/-- Shadows of the watches of a field (R253). -/
def shadowWatches (p : Placed) (f : FieldImg) (s : State) : State :=
  (f.watches.zipIdx).foldl (fun s q =>
    let pg := pHd f.field
    let core := coreIndex ((boundCore p f.field q.1.slot).getD 0)
    setShadow pg (0x108 + 12 * q.2) (BitVec.ofNat 32 q.1.tally)
      (setShadow pg (0x104 + 12 * q.2) (BitVec.ofNat 32 (2 ^ 16 * q.1.count + q.1.first))
        (setShadow pg (0x100 + 12 * q.2) (BitVec.ofNat 32 (2 ^ 31 + core)) s))) s

/-- Shadows of a stack region of a tenant, in the lowest region index that is free live and in the shadow. DESIGN CHOICE, log 37. -/
def shadowRegion (tenant : Nat) (q : StackRec) (s : State) : State :=
  let pg := pStack q.stack
  match (List.range 32).find? fun r => liveF s pg (0x48 + 16 * r) 31 31 == 0 && shadowF s pg (0x48 + 16 * r) 31 31 == 0 with
  | some r =>
    setShadow pg (0x48 + 16 * r) (BitVec.ofNat 32 (2 ^ 31 + 2 ^ 30 * b2n q.weight + tenant))
      (setShadow pg (0x44 + 16 * r) (BitVec.ofNat 32 q.size) (setShadow pg (0x40 + 16 * r) (BitVec.ofNat 32 q.base) s))
  | none => s

/-- Every shadow of a placement of a tenant (R242 stage 1). -/
def loadShadows (tenant : Nat) (p : Placed) (s : State) : State :=
  let s := (p.img.fields.zip p.cores).foldl (fun s e =>
    let s := (e.2.zip e.1.recs).foldl (fun s q => shadowSlot q.1 q.2 s) s
    let s := setShadow (pHeavy e.1.field) 0x40 (quotaWord s e.1.field) s
    if p.img.debug then shadowWatches p e.1 s else s) s
  let s := (p.img.tallies.filter (·.1 < 30720)).foldl (fun s e =>
    setShadow (targetReg e.1).1 (targetReg e.1).2 (BitVec.ofNat 32 e.2) s) s
  p.img.regions.foldl (fun s q => shadowRegion tenant q s) s

/-- Beats that a commit of the placement is armed ahead: 10 µs and 2 µs per dirty core of a field, and two beats (R99). DESIGN CHOICE, log 37. -/
def loadLead (s : State) (p : Placed) : Nat :=
  let us := 10 + 2 * (p.cores.map (·.length)).foldl Nat.max 0
  1000 * us / periodNs s + 2

/-- The module controller arms one group over pages, the shadows having been written; the group's number. -/
def mcGroup (pages : List Nat) (lead : Nat) (s : State) : Except Code (Nat × State) :=
  match firstOf (enrolFails s) pages with
  | some c => .error c
  | none =>
    match lowestFree s 64 0 with
    | none => .error E.txnGroupState
    | some g =>
      let s := allocGroup .mc s
      let s := pages.foldl (fun s p => enrol .mc p g s) s
      .ok (g, setGrp g { grp s g with st := .validating, commit := beatNow s + BitVec.ofNat 48 lead } s)

/-- A model becomes LOADING with a placement (R281). -/
def loadBegins (m : Nat) (pl : LoadPlan) (s : State) : State :=
  let v := 2 ^ 29 + 2 ^ 28 * b2n pl.streamed + 2 ^ 27 * wlF s 8 8 + 2 ^ 8 * wlF s 31 24
    + (if wlF s 10 10 = 1 then 2 ^ 7 + wlF s 21 16 else 0)
  setLive pWl (0x200 + 4 * m) (BitVec.ofNat 32 v) (setModel m { Model.reset with place := some pl.placed, alt := pl.alt } s)

/-- A LOAD that has passed its checks: stage 1, or refused with nothing changed. DESIGN CHOICE, log 37. -/
def loadStart (pl : LoadPlan) (s : State) : State :=
  let m := wlF s 5 0
  let t := loadBegins m pl s
  let t := loadShadows (wlF s 31 24) pl.placed t
  match mcGroup (loadPages pl.placed) (loadLead s pl.placed) t with
  | .error c => endCmd 0x820 c s
  | .ok (g, t) =>
    setCmdResult 0x820 1 0 { t with weights := { t.weights with load := some ⟨m, .commit g, pl.img⟩ } }

/-- LOAD (R281) -/
def loadCmd (mem : HostMem) (s : State) : State :=
  match loadChecks mem s with
  | (.error c, s) => endCmd 0x820 c s
  | (.ok pl, s) => loadStart pl s

/-- Owners of the cores and tallies of a placement, its hub targets and its DEBUG mark, from its commit tick on (R242, R402,
R137). -/
def ownPlacement (m : Nat) (p : Placed) (s : State) : State :=
  let s := (coresOf p).foldl (fun s c => { s with owner := mput s.owner c m }) s
  let s := p.img.tallies.foldl (fun s e =>
    let s := { s with tallyOwner := mput s.tallyOwner e.1 m }
    if e.1 < 30720 then s
    else setTally e.1 { tallyAt s e.1 with count := 0 } { s with hubTargets := mset 0 s.hubTargets e.1 (BitVec.ofNat 24 e.2) }) s
  if p.img.debug then { s with debugModels := insertAsc m s.debugModels } else s

/-- The module controller releases a group that is DONE. -/
def mcRelease (g : Nat) (s : State) : State := setGrp g groupReset (clearEnrol (grp s g).pages s)

/-- The group of a LOAD has committed. -/
def loadCommitted (g : Nat) (s : State) : State :=
  match s.weights.load with
  | some j =>
    if j.phase = .commit g then
      match (modelAt s j.model).place with
      | some p => mcRelease g (ownPlacement j.model p { s with weights := { s.weights with load := some { j with phase := .content } } })
      | none => s
    else s
  | none => s

/-! ### Stages 2 to 4 (R240, R242) -/

/-- Bytes that a relocation writes at its site. -/
def relocBytes (p : Placed) (r : RelocRec) : List Byte :=
  let c := (boundCore p r.tfield r.tslot).getD 0
  if r.kind = 0 then leBytes 4 c else leBytes 8 (0x40000 * c + r.addend)

/-- The bytes of a CONTENT record with the relocations of its slot applied. -/
def patched (p : Placed) (f : FieldImg) (c : ContentRec) : List Byte :=
  f.relocs.foldl (fun l r =>
    if r.slot = c.slot ∧ c.off ≤ r.off ∧ r.off < c.off + c.data.length then splice l (r.off - c.off) (relocBytes p r) else l) c.data

/-- A CONTENT record leaves for its core through the FCU of its field (R184, R242). -/
def sendContent (m : Nat) (p : Placed) (f : FieldImg) (c : ContentRec) (s : State) : State :=
  match boundCore p f.field c.slot with
  | some k =>
    let l := patched p f c
    (piecesOf 512 512 c.off l.length).foldl (fun s q =>
      injectFcu f.field (towardAddr (coreAddr k (c.off + q.1))
        { msgNull with cls := .data, payload := (l.drop q.1).take q.2, origin := .fcu m c.full }) s) s
  | none => s

/-- Every CONTENT record of a placement is sent to its core, and its marks are set (R242 stage 2, R252). -/
def writeContent (m : Nat) (p : Placed) (s : State) : State :=
  p.img.fields.foldl (fun s f =>
    let s := f.content.foldl (fun s c => sendContent m p f c s) s
    if p.img.debug then
      setUnits f.field { unitsOf s f.field with marks := f.marks.zipIdx.map fun q => (q.2, BitVec.ofNat 32 (2 ^ 31 + q.1)) } s
    else s) s

/-- Whether contents of a model are still on their way. -/
def contentsFly (s : State) (m : Nat) : Bool :=
  underWay (fun o => match o with
    | .fcu k _ => k == m
    | _ => false) s

/-- The install of a LOAD, epoch A of its model. -/
def loadInst (s : State) (j : LoadJob) : Inst :=
  { model := j.model, epoch := 0, tenant := modelTenant s j.model, staged := mirrorsOnly s j.model, img := j.img,
    phase := .query, held := [], peer := none, todo := unitsOfImg j.img, cur := none, bytes := 0, hostUnits := 0 }

/-- An epoch begins to be installed. -/
def installBegins (i : Inst) (s : State) : State :=
  startInst 0 i (setEpochSt i.model i.epoch 1 (updModel i.model (setEpImg i.epoch (some i.img)) s))

/-- LOAD_CONTENT (R242): the group of stage 1 has ended otherwise than COMMITTED and the load is refused; or the banks are
clear and contents leave for the cores; or they have been written and the grist install begins. -/
def loadContent (s : State) : State :=
  match s.weights.load with
  | none => s
  | some j =>
    match j.phase, (modelAt s j.model).place with
    | .commit g, _ =>
      if (grp s g).st = .done then
        let c := (grp s g).code
        setCmdResult 0x820 3 c (setLive pWl (0x200 + 4 * j.model) 0 (setModel j.model .reset
          (mcRelease g { s with weights := { s.weights with load := none } })))
      else s
    | .content, some p =>
      if (coresOf p).any fun c => !(coreAt s c).clearing.isEmpty then s
      else writeContent j.model p { s with weights := { s.weights with load := some { j with phase := .landing } } }
    | .landing, some _ =>
      if contentsFly s j.model then s
      else installBegins (loadInst s j) { s with weights := { s.weights with load := some { j with phase := .install } } }
    | _, _ => s

/-- Threads of a placement start, field by field and core by core (R242 stage 4). -/
def startPlacement (p : Placed) (s : State) : State :=
  (p.img.fields.zip p.cores).foldl (fun s e =>
    (e.2.zip e.1.recs).foldl (fun s q =>
      updCore q.1 (fun x =>
        let x := q.2.pcs.zipIdx.foldl (fun x k => { x with startPc := mset 0 x.startPc k.2 (BitVec.ofNat 64 k.1) }) x
        (threadCmd q.2.start.toNat 0 x).1) s) s) s

/-- LOAD_THREAD_START (R242, R243, R268): page 0x0018 being enrolled in no group, the threads start, epoch A is ACTIVE and the
model READY. -/
def loadThreadStart (s : State) : State :=
  match s.weights.load with
  | none => s
  | some j =>
    match j.phase, (modelAt s j.model).place with
    | .threads, some p =>
      if (pageGroup s pWl).isSome then s
      else
        let s := startPlacement p { s with weights := { s.weights with load := none } }
        endCmd 0x820 0 (setModelState j.model 2 (setEpochSt j.model 0 3 (setBoth pWl (0x40 + 4 * j.model) 0 s)))
    | _, _ => s

/-! ### INSTALL, RELEASE, UNLOAD (R264, R273, R274, R281) -/

/-- Whether page 0x0018 is enrolled in a group that is validating, armed or irrevocable. -/
def wlLocked (s : State) : Bool := pageLocked s pWl

/-- Whether an epoch's core ranges are in its mirrors only: installed STAGED and not yet switched to, or under a streamed
placement. DESIGN CHOICE, log 38. -/
def inMirrors (s : State) (m e : Nat) : Bool :=
  mirrorsOnly s m || (stagedEp s m e && epochSt s m e != 3 && epochSt s m e != 4)

/-- The image of an INSTALL read, opened and checked. DESIGN CHOICE, log 38. -/
def installImage (m e : Nat) (staged : Bool) (mem : HostMem) (s : State) : Except Code GristImg × State :=
  match openEnvelope 2 (modelTenant s m) (addr64 s 0x814) mem s with
  | (.error c, s) => (.error c, s)
  | (.ok o, s) =>
    match gristPlace s m with
    | none => (.error E.modelInvalid, s)
    | some p =>
      let only := staged || mirrorsOnly s m
      match gristCheck p 0 (needMirror s m staged) (addr64 s 0x814) o with
      | .error c => (.error c, s)
      | .ok g =>
        let clash := match epImg (modelAt s m) (1 - e) with
          | some q => epochSt s m (1 - e) != 0 && epochClash p g only q (inMirrors s m (1 - e))
          | none => false
        if clash then (.error E.epochRangeBusy, s)
        else if statusBit s m 27 ∧ g.ranges.any (·.kind == 1) then (.error E.loadRefusedCapacity, s)
        else if streamed s m ∧ !mirrorsOnly s m ∧ g.ranges.any (·.kind == 0) then (.error E.gristMismatch, s)
        else (.ok g, s)

/-- INSTALL -/
def installCmd (mem : HostMem) (s : State) : State :=
  let m := wlF s 5 0
  let e := wlF s 6 6
  let staged := wlF s 7 7 == 1
  match firstFail
      [(!modelReady s m, E.modelInvalid),
       (wlLocked s || epochSt s m e != 0, E.epochBusy),
       (staged && streamed s m, E.gristMismatch)] with
  | some c => endCmd 0x820 c s
  | none =>
    match installImage m e staged mem s with
    | (.error c, s) => endCmd 0x820 c s
    | (.ok g, s) =>
      installBegins { model := m, epoch := e, tenant := modelTenant s m, staged := staged || mirrorsOnly s m, img := g,
                      phase := .query, held := [], peer := none, todo := unitsOfImg g, cur := none, bytes := 0, hostUnits := 0 }
        (setCmdResult 0x820 1 0 s)

/-- RELEASE -/
def releaseCmd (s : State) : State :=
  let m := wlF s 5 0
  let e := wlF s 6 6
  match firstFail [(modelState s m == 0, E.modelInvalid), (wlLocked s || epochSt s m e != 2, E.epochBusy)] with
  | some c => endCmd 0x820 c s
  | none => endCmd 0x820 0 (epochEmpty m e s)

/-- A model is UNLOADING: its streams and those that draft with it end with a code (R274, R309, R350). DEDUCED, log 39. -/
def unloadModel (m : Nat) (c : Code) (s : State) : State :=
  (streamsOf s m).foldl (fun s i => endWith i c s) (setModelState m 3 s)

/-- UNLOAD -/
def unloadCmd (s : State) : State :=
  let m := wlF s 5 0
  match firstFail [(modelState s m == 0, E.modelInvalid), (wlLocked s, E.epochBusy)] with
  | some c => endCmd 0x820 c s
  | none =>
    unloadModel m E.modelUnloaded (setCmdResult 0x820 1 0 { s with weights := { s.weights with unloading := some m } })

/-- UNLOAD_TEARDOWN (R274): the lowest UNLOADING model whose in-flight tallies are both 0 becomes EMPTY. DEDUCED, log 39. -/
def unloadTeardown (s : State) : State :=
  match (List.range 64).find? fun m => modelState s m == 3 && inflight s m 0 == 0 && inflight s m 1 == 0 with
  | some m =>
    let t := emptyModel m s
    if s.weights.unloading = some m then endCmd 0x820 0 { t with weights := { t.weights with unloading := none } } else t
  | none => s

/-! ### Switches (R270 to R272) -/

/-- A commit of page 0x0018 has changed ACTIVE of model m to e (R270). DESIGN CHOICE, log 38. -/
def switchModel (m e : Nat) (s : State) : State :=
  let s := setEpochSt m (1 - e) 4 s
  if stagedEp s m e then updModel m (fun x => { x with switching := some ⟨e, .draining⟩ }) (setEpochSt m e 5 s)
  else setEpochSt m e 3 s

/-- Why a commit of page 0x0018 is rejected, with the register at fault (R270). -/
def switchCheck (s : State) : Option (Code × Nat) :=
  (List.range 64).findSome? fun m =>
    let e := shadowF s pWl (0x40 + 4 * m) 0 0
    if e = activeEp s m then none
    else if !modelReady s m then some (E.modelInvalid, 0x40 + 4 * m)
    else if epochSt s m e ≠ 2 then some (E.epochNotReady, 0x40 + 4 * m)
    else none

/-- EPOCH_DRAIN_RELEASE (R271): a DRAINING epoch whose tally is 0 becomes EMPTY; that of a staged switch waits for its copy. DESIGN CHOICE, log 22. -/
def drainRelease (m e : Nat) (s : State) : State :=
  if s.beat.mode = .locked ∧ epochSt s m e = 4 ∧ inflight s m e = 0 ∧ (modelAt s m).switching.isNone then epochEmpty m e s else s

/-- One unit of a mirror goes into its core, read up to twice (R272); whether both reads failed. -/
def copyUnit (p : Placed) (g : GristImg) (q : Nat × Nat) (chk again : StackCheck) (s : State) : Bool × State :=
  let r := rangeOf g q.1
  let put := fun l s => match coreUnit p r q.2 with
    | some e => putCore e.1 e.2 l s
    | none => s
  match stackRead r.stageStack (r.stageOff + q.2 * r.len) r.len true chk s with
  | (.ok l, s) => (false, put l s)
  | (.error _, s) =>
    match stackRead r.stageStack (r.stageOff + q.2 * r.len) r.len true again s with
    | (.ok l, s) => (false, put l s)
    | (.error _, s) => (true, s)

/-- STAGED_SWITCH_COPY (R272): the old epoch's tally is 0 and every mirror of the target is copied. Units that failed twice are reloaded. DESIGN CHOICE, log 22. -/
def stagedCopy (m : Nat) (chk again : StackCheck) (s : State) : State :=
  match (modelAt s m).switching, (modelAt s m).place with
  | some w, some p =>
    if s.beat.mode ≠ .locked ∨ w.phase ≠ .draining ∨ inflight s m (1 - w.target) ≠ 0 ∨ (modelAt s m).suspended then s
    else match epImg (modelAt s m) w.target with
      | none => s
      | some g =>
        let us := (unitsOfImg g).filter fun q => (rangeOf g q.1).kind == 0
        let r := us.foldl (fun (a : State × List (Nat × Nat)) q =>
          let c := copyUnit p g q chk again a.1
          (c.2, if c.1 then a.2 ++ [q] else a.2)) (s, [])
        let set := fun ph s => updModel m (fun x => { x with switching := some ⟨w.target, ph⟩ }) s
        if r.2.isEmpty then set .done r.1 else startReload m w.target r.2 (set .copying r.1)
  | _, _ => s

/-! ### Adapters (R275, R278) -/

/-- The image of an AD_INSTALL read, opened and checked against model m. -/
def adapterImage (m : Nat) (mem : HostMem) (s : State) : Except Code GristImg × State :=
  let t := modelTenant s m
  let addr := addr64 s 0x838
  match openEnvelope 3 t addr mem s with
  | (.error c, s) => (.error c, s)
  | (.ok o, s) =>
    match gristPlace s m with
    | none => (.error E.adapterInvalid, s)
    | some p =>
      match gristCheck p 1 false addr o with
      | .error c => (.error c, s)
      | .ok g =>
        let clash := [0, 1].any fun e => match epImg (modelAt s m) e with
          | some q => epochSt s m e != 0 && epochClash p g false q (inMirrors s m e)
          | none => false
        let r := rangeOf g 0
        let busy := s.weights.adapters.any fun e =>
          e.2.st != .free && e.2.stack == r.unit && meets e.2.off e.2.len r.off r.len
        if g.ranges.length ≠ 1 then (.error E.gristMismatch, s)
        else if clash then (.error E.epochRangeBusy, s)
        else if busy then (.error E.adapterRangeBusy, s)
        else (.ok g, s)

/-- AD_INSTALL. DESIGN CHOICE, log 38. -/
def adInstallCmd (mem : HostMem) (s : State) : State :=
  let k := liveF s pWl 0x830 9 0
  let v := liveF s pWl 0x834 31 16
  let m := liveF s pWl 0x834 5 0
  match firstFail
      [(v == 0xFFFF, E.reservedValue), ((adapterAt s k).st != .free || !modelReady s m, E.adapterInvalid)] with
  | some c => endCmd 0x850 c s
  | none =>
    match adapterImage m mem s with
    | (.error c, s) => endCmd 0x850 c s
    | (.ok g, s) =>
      let r := rangeOf g 0
      let s := setAdapter k { st := .installing, refs := 0, version := v, tenant := modelTenant s m, model := m, stack := r.unit,
                              off := r.off, len := r.len } (setCmdResult 0x850 1 0 s)
      startInst 1 { model := m, epoch := 0, tenant := modelTenant s m, staged := false, img := g, phase := .query, held := [],
                    peer := none, todo := unitsOfImg g, cur := none, bytes := 0, hostUnits := 0 }
        { s with weights := { s.weights with adSlot := k } }

/-- AD_RETIRE -/
def adRetireCmd (s : State) : State :=
  let k := liveF s pWl 0x830 9 0
  let a := adapterAt s k
  if a.st = .ready then endCmd 0x850 0 (setAdapter k { a with st := .retiring } s) else endCmd 0x850 E.adapterInvalid s

/-- ADAPTER_SLOT_FREE (R278, R332). DESIGN CHOICE, log 22. -/
def adapterFree (k : Nat) (s : State) : State :=
  let a := adapterAt s k
  if s.beat.mode = .locked ∧ a.st = .retiring ∧ a.refs = 0 then
    pxDetachAll (fun q => match q.ad with
      | some b => b.1 == k
      | none => false) (setAdapter k .reset s)
  else s

/-- LOAD (R281) -/
def execLoad (m : Master) (host : HostMem) (s : State) : Result := .next (onPage m pWl 0x81C (wlCommand 1 (loadCmd host)) s)
/-- LOAD_CONTENT (R242) -/
def execLoadContent (s : State) : Result := .next (loadContent s)
/-- LOAD_THREAD_START (R242) -/
def execLoadThreadStart (s : State) : Result := .next (loadThreadStart s)
/-- INSTALL (R264) -/
def execInstall (m : Master) (host : HostMem) (s : State) : Result :=
  .next (onPage m pWl 0x81C (wlCommand 2 (installCmd host)) s)
/-- RELEASE (R273) -/
def execRelease (m : Master) (s : State) : Result := .next (onPage m pWl 0x81C (wlCommand 3 releaseCmd) s)
/-- UNLOAD (R274) -/
def execUnload (m : Master) (s : State) : Result := .next (onPage m pWl 0x81C (wlCommand 4 unloadCmd) s)
/-- UNLOAD_TEARDOWN (R274) -/
def execUnloadTeardown (s : State) : Result := .next (unloadTeardown s)
/-- EPOCH_DRAIN_RELEASE (R271) -/
def execEpochDrainRelease (model : Fin 64) (epoch : Fin 2) (s : State) : Result := .next (drainRelease model.val epoch.val s)
/-- STAGED_SWITCH_COPY (R272) -/
def execStagedSwitchCopy (model : Fin 64) (check again : StackCheck) (s : State) : Result :=
  .next (stagedCopy model.val check again s)
/-- AD_INSTALL (R275) -/
def execAdInstall (m : Master) (host : HostMem) (s : State) : Result := .next (onPage m pWl 0x84C (adCommand true (adInstallCmd host)) s)
/-- AD_RETIRE (R278) -/
def execAdRetire (m : Master) (s : State) : Result := .next (onPage m pWl 0x84C (adCommand false adRetireCmd) s)
/-- ADAPTER_SLOT_FREE (R278) -/
def execAdapterSlotFree (slot : Fin 1024) (s : State) : Result := .next (adapterFree slot.val s)

end Sys2Proof.Machine
end

