-- ==== Sys2Proof/Machine/Issue.lean ====
section
/-! DEFINITION. Issuing steps: budgets, plans, conditions, stage lists, markers, batch channels (R20, R268, R277, R292 to R299,
R318, R325 to R327, R338 to R341, R347, R349). -/

namespace Sys2Proof.Machine

open Sys2Proof

/-! ### Registers (R313, R314, R351) -/

/-- A field of register k of a model's I/O map. -/
def mioF (s : State) (m k hi lo : Nat) : Nat := liveF s (0x16 + m / 32) (0x40 + 20 * (m % 32) + 4 * k) hi lo
/-- MIO VALID. -/
def mioValid (s : State) (m : Nat) : Bool := mioF s m 0 31 31 == 1
/-- Marker and output descriptor numbers of a model restart at 0, output from its OUT_TALLY's EPOCH on (R294). -/
def renumber (m : Nat) (s : State) : State :=
  updModel m (fun x => { x with marker := 0, outNo := 0, collect := none, outEpoch := (tallyAt s (mioF s m 2 29 15)).epoch }) s
/-- VOCAB. -/
def vocab (s : State) (m : Nat) : Nat := mioF s m 4 19 0
/-- A field of register k of a tenant. -/
def tnF (s : State) (t k hi lo : Nat) : Nat := liveF s (0x12 + t / 64) (0x40 + 12 * (t % 64) + 4 * k) hi lo
/-- A tenant's ENABLE. -/
def tnOn (s : State) (t : Nat) : Bool := tnF s t 0 31 31 == 1
/-- PREFILL_WEIGHT. -/
def prefillWeight (s : State) (t : Nat) : Nat := tnF s t 1 31 24
/-- A field of SPEC_CFG or SPEC_PROBE of a model. -/
def specF (s : State) (m k hi lo : Nat) : Nat := liveF s 0x1B (0x40 + 8 * m + 4 * k) hi lo
/-- A field of BC_CTRL of a batch channel. -/
def bcF (s : State) (c hi lo : Nat) : Nat := liveF s 0x19 (0x40 + 4 * c) hi lo
/-- Whether a batch channel serves a model. -/
def bcServes (s : State) (c m : Nat) : Bool := bcF s c 31 31 == 1 && bcF s c 21 16 == m

/-! ### Budgets (R297) -/

/-- A tenant's balance in sixteenths. -/
def balance (s : State) (t : Nat) : Nat := mget 0 s.serving.balances t
/-- Sets it; while the beat is LOST, budgets are frozen (R39). -/
def setBalance (t v : Nat) (s : State) : State :=
  if s.beat.mode = .lost then s else updServing (fun x => { x with balances := mset 0 x.balances t v }) s
/-- The balance at a window start. -/
def fullBalance (s : State) (t : Nat) : Nat := 16 * tnF s t 0 23 0

/-- Step 2 of R36 at beat b: the balance of every tenant whose window starts. -/
def refill (b : Beat) (s : State) : State :=
  (List.range 256).foldl (fun s t =>
    let w := tnF s t 1 15 0
    if w ≠ 0 ∧ b.toNat % w = tnF s t 2 15 0 then setBalance t (fullBalance s t) s else s) s

/-! ### Plans -/

/-- What a stream issues next. -/
structure Plan where
  /-- KIND of its marker -/
  kind : Nat
  count : Nat
  final : Bool
  cost : Nat
  /-- ring bytes -/
  resv : Nat
  /-- budgets of a round -/
  depth : Nat
  size : Nat
  /-- stage bytes in each model, 0 for no list -/
  list : Nat
  deriving DecidableEq, Repr

/-- Bytes of one output in the form that a stream asks for: full logits or top-K pairs. -/
def outBytes (s : State) (x : Stream) : Nat := if x.topk = 0 then 4 * vocab s x.model else 8 * x.topk

/-- Bytes of a verification entry of n nodes (R345). -/
def verifyBytes (s : State) (x : Stream) (n : Nat) : Nat := pad64 (64 + 8 * n + n * outBytes s x)

/-- Upper bound of the bucket of a position (R325). DEDUCED, log 43. -/
def bucketBound (p : Nat) : Nat := ([128, 512, 2048, 8192, 32768, 131072, 524288].find? (p < ·)).getD 1048576
/-- The bucket of a position. DEDUCED, log 43. -/
def bucket (p : Nat) : Nat := ([128, 512, 2048, 8192, 32768, 131072, 524288].filter (· ≤ p)).length

/-- Tokens of the next prefill chunk (R295, R326). -/
def chunkLen (s : State) (x : Stream) : Nat :=
  let n := Nat.min (x.promptEnd - x.pos) (Nat.min (chunkMax s x.model) (bucketBound x.pos - x.pos))
  let w := prefillWeight s x.tenant
  if !x.paid.isEmpty then Nat.min n (x.paid.headD 0) else if w = 0 then n else Nat.min n (balance s x.tenant / w)

/-- The tree size in force: SIZE, lowered to SIZE_MAX (R349). -/
def treeSize (s : State) (x : Stream) : Nat := Nat.min x.size (specF s x.model 0 22 16)

/-- Whether the next step of a stream at SIZE 1 is a probe round (R349). -/
def probeDue (s : State) (x : Stream) : Bool :=
  treeSize s x == 1 && (x.probe || (specF s x.model 1 7 0 != 0 && decide (specF s x.model 1 7 0 ≤ x.plain)))

/-- Node and depth budgets of the next step of a SPEC stream (R339, R349). -/
def roundBudget (s : State) (x : Stream) : Nat × Nat :=
  let n := if probeDue s x then 2 else treeSize s x
  (n, Nat.min (if probeDue s x then 1 else specF s x.model 0 12 8) (Nat.min (n - 1) (ctxLimit s x.model - 1 - x.pos)))

/-- The step that a SCHEDULED stream issues next (R295, R338, R339). DESIGN CHOICE, log 41. -/
def planOf (s : State) (x : Stream) : Plan :=
  let pay := fun c => if x.paid.isEmpty then c else 0
  if x.pos < x.promptEnd then
    let n := chunkLen s x
    let fin := decide (x.pos + n = x.promptEnd)
    { kind := 1, count := n, final := fin, cost := pay (n * prefillWeight s x.tenant),
      resv := if fin then 64 + pad64 (outBytes s x) else 64, depth := 0, size := 1,
      list := 4 * n + (if x.spec then 32 else 0) }
  else
    let r := roundBudget s x
    if x.spec ∧ 1 ≤ r.2 then
      { kind := 2, count := 1, final := true, cost := pay (16 * (r.2 + 1)), resv := verifyBytes s x r.1, depth := r.2,
        size := r.1, list := 32 + 16 * r.1 }
    else
      { kind := 0, count := 1, final := true, cost := pay 16, resv := 64 + pad64 (outBytes s x), depth := 0, size := 1,
        list := if x.spec ∧ !x.lastNodes.isEmpty then 32 else 0 }

/-! ### Conditions (R292) -/

/-- Condition 1 for a model. -/
def modelHold (s : State) (m : Nat) : Hold :=
  if !modelReady s m || epochSt s m (activeEp s m) == 5 then .epoch
  else if (modelAt s m).suspended then .placement else .none

/-- Condition 1 for every model that a step of a stream enters. DESIGN CHOICE, log 41. -/
def modelsHold (s : State) (x : Stream) : Hold :=
  if modelHold s x.model ≠ .none then modelHold s x.model
  else if x.spec then modelHold s (draftOf s x.model) else .none

/-- Where n units of a model's stage ring are free: after the latest allocation, or from its start (R294). -/
def stageFit (s : State) (m n : Nat) : Option Nat :=
  let x := modelAt s m
  let ok := fun a => decide (a + n ≤ 16384) && !(x.stage.any fun u => meets u.first u.count a n)
  if ok x.stageNext then some x.stageNext else if ok 0 then some 0 else none

/-- Units of 64 bytes of a list. -/
def stageUnits (bytes : Nat) : Nat := pad64 bytes / 64

/-- Conditions 4 to 6 of a plan. -/
def planHold (s : State) (x : Stream) (p : Plan) : Hold :=
  if p.count = 0 ∨ balance s x.tenant < p.cost then .budget
  else if !canHold s p.resv then .ring
  else if p.list ≠ 0 ∧ ((stageFit s x.model (stageUnits p.list)).isNone
      ∨ (x.spec ∧ (stageFit s (draftOf s x.model) (stageUnits p.list)).isNone)) then .stage
  else .none

/-- A stream holds: HOLD is set, and SRV_HOLDS counts (R311). -/
def holdStream (i : Nat) (h : Hold) (s : State) : State :=
  let s := match h with
    | .ring | .stage => countUp pSrv 0x808 31 16 1 s
    | .budget => countUp pSrv 0x808 15 0 1 s
    | _ => s
  updStream i (fun x => { x with hold := h }) s

/-! ### Lists and markers (R293, R294, R340, R341) -/

/-- Units of the stage ring are allocated to an owner: the first, if they fit. DESIGN CHOICE, log 41. -/
def stageAlloc (m owner bytes : Nat) (s : State) : Option Nat × State :=
  let n := stageUnits bytes
  match stageFit s m n with
  | some a => (some a, updModel m (fun x => { x with stage := x.stage ++ [⟨a, n, owner⟩], stageNext := a + n }) s)
  | none => (none, s)

/-- Offset in its stack of a unit of a model's stage region. -/
def stageOff (s : State) (m a : Nat) : Nat := 2 ^ 20 * mioF s m 3 16 0 + 64 * a

/-- Local address of a unit of a model's stage region. -/
def stageAddr (s : State) (m a : Nat) : Nat := stackBase + stackWin * mioF s m 3 28 24 + stageOff s m a

/-- A list is written at a unit of the stage region. -/
def writeList (m a : Nat) (l : List Byte) (s : State) : State := (stackWrite (mioF s m 3 28 24) (stageOff s m a) l [] s).2

/-- A list is allocated and written: its address, 0 where there is none. DESIGN CHOICE, log 41. -/
def putList (m owner bytes : Nat) (l : List Byte) (s : State) : Nat × State :=
  if bytes = 0 then (0, s)
  else match stageAlloc m owner bytes s with
    | (some a, s) => (stageAddr s m a, writeList m a l s)
    | (none, s) => (0, s)

/-- What a marker carries. -/
structure Marker where
  stream : Nat
  kind : Nat
  epoch : Nat
  first : Bool
  final : Bool
  step : Nat
  pos : Nat
  count : Nat
  token : Nat
  ad : Option (Nat × Nat)
  topk : Nat
  list : Nat
  deriving DecidableEq, Repr

/-- Local address of an adapter slot's location. -/
def adapterAddr (s : State) (k : Nat) : Nat := stackBase + stackWin * (adapterAt s k).stack + (adapterAt s k).off

/-- AD_VERSION and AD_ADDR of a binding. -/
def adFields (s : State) (ad : Option (Nat × Nat)) : Nat × Nat :=
  match ad with
  | some a => (a.2, adapterAddr s a.1)
  | none => (0, 0)

/-- The 64 bytes of a marker numbered n. -/
def markerBytes (s : State) (k : Marker) (n : Nat) : List Byte :=
  let a := adFields s k.ad
  leBytes 2 k.stream ++ leBytes 1 k.kind ++ leBytes 1 (k.epoch + 2 * b2n k.first + 4 * b2n k.final + 8 * b2n k.ad.isSome)
    ++ leBytes 4 k.step ++ leBytes 4 k.pos ++ leBytes 4 k.count ++ leBytes 4 (if k.kind = 0 then k.token else 0)
    ++ leBytes 2 a.1 ++ leBytes 2 k.topk ++ leBytes 8 a.2 ++ leBytes 8 k.list ++ leBytes 4 n ++ List.replicate 20 0

/-- The core that a field and slot of a model's placement name. -/
def slotCore (s : State) (m f slot : Nat) : Option Nat := (modelAt s m).place.bind fun p => boundCore p f slot

/-- A marker is injected into a model's placement: tagged, to the marker ring of the entry core (R294). -/
def sendMarker (m : Nat) (k : Marker) (s : State) : State :=
  let n := (modelAt s m).marker
  let s := updModel m (fun x => { x with marker := n + 1 }) s
  match slotCore s m (mioF s m 0 30 24) (mioF s m 0 23 12) with
  | some c =>
    let h := hubPort s (fieldOfCore c)
    let a := coreAddr c (4096 * mioF s m 0 5 0 + 64 * (n % 64))
    injectEngine (hubRouter h)
      (towardAddr a { msgNull with cls := .ctl, tag := true, src := 0x7F000 + h, payload := markerBytes s k n }) s
  | none => s

/-- A candidate frame in map entry format. -/
def candWord (f : Option Frame) : Nat :=
  match f with
  | some f => frameWord f
  | none => 0

/-- The header of a SPEC stream's list (R340). -/
def listHeader (x : Stream) (size depth : Nat) : List Byte :=
  leBytes 4 (candWord x.kv.cand) ++ leBytes 4 (candWord x.dkv.cand) ++ leBytes 1 size ++ leBytes 1 depth ++ leBytes 1 x.prevA
    ++ leBytes 1 0 ++ (x.prevPath.map (BitVec.ofNat 8 ·) ++ List.replicate 16 0).take 16 ++ leBytes 4 0

/-- A node record (R341). -/
def nodeBytes (n : Node) : List Byte :=
  leBytes 4 n.token ++ leBytes 1 n.parent ++ leBytes 1 n.depth ++ leBytes 2 0 ++ leBytes 8 n.anc.toNat

/-- Node 0 of a round: the stream's pending token. -/
def rootNode (x : Stream) : Node := ⟨x.token, 0xFF, 0, 1⟩

/-- The list of a plan of a stream. -/
def planList (x : Stream) (p : Plan) : List Byte :=
  let hdr := if x.spec then listHeader x p.size p.depth else []
  if p.kind = 1 then hdr ++ ((x.tokens.drop x.pos).take p.count).flatMap (fun t => leBytes 4 t)
  else if p.kind = 2 then hdr ++ nodeBytes (rootNode x)
  else hdr

/-! ### Issue (R268, R269, R276, R277, R292, R318) -/

/-- A REBIND that waits takes effect, or its refusal is the step's code (R277). -/
def rebindNow (i : Nat) (s : State) : Code × State :=
  let x := streamAt s i
  let release := fun s => match x.ad with
    | some a => adapterRef a.1 false s
    | none => s
  match x.rebind with
  | none => (0, s)
  | some none => (0, updStream i (fun x => { x with ad := none, rebind := none }) (release s))
  | some (some k) =>
    match adapterCheck s k x.model x.tenant with
    | some c => (c, updStream i (fun x => { x with rebind := none }) s)
    | none => (0, updStream i (fun x => { x with ad := some (k, (adapterAt s k).version), rebind := none })
        (release (adapterRef k true s)))

/-- A step captures an epoch and a binding: eligibility to publish ends where they differ from the earlier ones (R331). -/
def captureKv (k : StreamKv) (e : Nat) (ad : Option (Nat × Nat)) : StreamKv :=
  match k.capture with
  | none => { k with capture := some (e, ad) }
  | some c => if c = (e, ad) then k else { k with eligible := false }

/-- An epoch's in-flight tally gains 1. -/
def flightBegins (m e : Nat) (s : State) : State := setInflight m e (inflight s m e + 1) s

/-- What an issue fixes before its lists and markers: the binding, the charge, the epochs, eligibility, frames and candidate
frame, and the stream's entry; the code of its entry. -/
def issueCapture (i : Nat) (p : Plan) (s : State) : Code × State :=
  let r := rebindNow i s
  let s := r.2
  let x := streamAt s i
  let m := x.model
  let dm := draftOf s m
  let e := activeEp s m
  let s := setBalance x.tenant (balance s x.tenant - p.cost) s
  let s := if p.kind = 2 then s else flightBegins m e s
  let s := if x.spec then flightBegins dm (activeEp s dm) s else s
  let n := if p.kind = 2 then p.depth + 1 else p.count
  let s := updStream i (fun x => { x with
    kv := if p.kind = 2 then x.kv else captureKv x.kv e x.ad,
    dkv := if x.spec then captureKv x.dkv (activeEp s dm) none else x.dkv,
    epoch := if p.kind = 2 then x.epoch else e, size := treeSize s x }) s
  let s := allocBlocks i m false x.pos n s
  let s := if x.spec then allocBlocks i dm true x.pos n s else s
  (r.1, if p.kind = 2 then allocCand i dm true (allocCand i m false s) else s)

/-- The record of a step in flight. -/
def stepRec (s : State) (x : Stream) (p : Plan) (code : Code) : StepRec :=
  { kind := p.kind, step := x.step, pos := x.pos, count := p.count, final := p.final, epoch := x.epoch,
    draftEpoch := if x.spec then some (activeEp s (draftOf s x.model)) else none, mainLeft := true, draftLeft := x.spec,
    batch := none, code := code, resv := p.resv, depth := p.depth, size := p.size, nodes := [], verifying := false,
    probe := p.kind == 2 && probeDue s x, treeBeat := 0,
    first := x.first, token := x.token, prevA := x.prevA, prevPath := x.prevPath, prevNodes := x.lastNodes, prevPos := x.lastPos,
    out := none }

/-- PLAIN after an issue (R349). DESIGN CHOICE, log 41. -/
def plainAfter (s : State) (x : Stream) (p : Plan) : Nat :=
  if x.spec ∧ p.kind = 2 ∧ probeDue s x then 0
  else if x.spec ∧ p.kind = 0 ∧ treeSize s x = 1 ∧ x.paid.isEmpty then Nat.min 255 (x.plain + 1) else x.plain

/-- A stream is IN_FLIGHT with a step. -/
def inFlightNow (i plain : Nat) (r : StepRec) (s : State) : State :=
  updStream i (fun x => { x with
    run := some r, st := .inFlight, hold := .none, step := (x.step + 1) % 2 ^ 32, first := false, paid := x.paid.drop 1, probe := false,
    plain := plain, joined := none }) s

/-- A step issues: a stream that has passed every condition (R292, R338, R339). DESIGN CHOICE, log 41. -/
def issueStep (i : Nat) (p : Plan) (s : State) : State :=
  let plain := plainAfter s (streamAt s i) p
  let c := issueCapture i p s
  let s := c.2
  let x := streamAt s i
  let dm := draftOf s x.model
  let r := stepRec s x p c.1
  let main : Marker := {
    stream := i, kind := p.kind, epoch := x.epoch, first := x.first, final := p.final, step := x.step, pos := x.pos, count := p.count, token := x.token, ad := x.ad, topk := x.topk, list := 0 }
  let l := planList x p
  let a := if p.kind = 2 then (0, (stageAlloc x.model i p.list s).2) else putList x.model i p.list l s
  let s := if p.kind = 2 then a.2 else sendMarker x.model { main with list := a.1 } a.2
  let s := if x.spec then
      let b := putList dm i p.list l s
      sendMarker dm { main with list := b.1, final := false, ad := none, epoch := activeEp s dm } b.2
    else s
  inFlightNow i plain r s

/-- A decode step of a BATCH stream joins its channel's gather set (R299). -/
def joinGather (i : Nat) (s : State) : State :=
  let s := holdStream i .gather s
  if (streamAt s i).joined.isSome then s
  else
    updServing (fun v => { v with nextJoin := v.nextJoin + 1 })
      (updStream i (fun x => { x with joined := some s.beat.now, joinNo := s.serving.nextJoin }) s)

/-- A due stream is tried (R292). -/
def tryStream (i : Nat) (s : State) : State :=
  let x := streamAt s i
  let h := modelsHold s x
  if h ≠ .none then holdStream i h s
  else if !tnOn s x.tenant then holdStream i .tenantOff s
  else if x.batch ∧ x.promptEnd ≤ x.pos ∧ bcServes s x.channel x.model then joinGather i s
  else
    let p := planOf s x
    let h := planHold s x p
    if h ≠ .none then holdStream i h s else issueStep i p s

/-- Streams with an entry, in the order of beat b: ascending from b mod 4096, wrapping (R20). -/
def pollOrder (b : Beat) (l : List Nat) : List Nat := l.filter (b.toNat % 4096 ≤ ·) ++ l.filter (· < b.toNat % 4096)

/-- Whether a stream's step is due at beat b. -/
def dueAt (b : Beat) (x : Stream) : Bool := x.st == .scheduled && !inFuture x.nextBeat b

/-! ### Batch channels (R299, R327) -/

/-- Members of a channel's gather set, in the order in which they joined. -/
def gatherSet (s : State) (c : Nat) : List Nat :=
  let l := s.serving.streams.filter fun e => e.2.st == .scheduled && e.2.joined.isSome && e.2.channel == c && e.2.batch
  (l.mergeSort fun a b => decide (a.2.joinNo ≤ b.2.joinNo)).map (·.1)

/-- Whether a gather set is due at beat b. -/
def gatherDue (s : State) (c : Nat) (b : Beat) : Bool :=
  match gatherSet s c with
  | [] => false
  | i :: l => decide (bcF s c 13 8 ≤ l.length + 1)
      || decide (bcF s c 7 0 ≤ (b - ((streamAt s i).joined.getD b)).toNat)

/-- A member tries to be taken into a batch numbered k that has n members so far. DESIGN CHOICE, log 41. -/
def tryMember (k i : Nat) (n : Nat) (s : State) : Bool × State :=
  let x := streamAt s i
  let p := { planOf s x with kind := 3, list := 0 }
  let h := if !tnOn s x.tenant then .tenantOff
    else if planHold s x p ≠ .none then planHold s x p
    else if (stageFit s x.model (stageUnits (32 * (n + 1)))).isNone then .stage else .none
  if h ≠ .none then (false, holdStream i h s)
  else
    let plain := x.plain
    let r := rebindNow i s
    let s := r.2
    let e := activeEp s x.model
    let s := setBalance x.tenant (balance s x.tenant - p.cost) s
    let s := allocBlocks i x.model false x.pos 1 (updStream i (fun x => { x with kv := captureKv x.kv e x.ad, epoch := e }) s)
    let y := streamAt s i
    (true, inFlightNow i plain { stepRec s y p r.1 with batch := some k } s)

/-- The members taken, up to a limit, and the state after the last. DESIGN CHOICE, log 41. -/
def takeMembers (k : Nat) : Nat → List Nat → List Nat → State → List Nat × State
  | _, [], got, s => (got, s)
  | 0, _, got, s => (got, s)
  | n + 1, i :: l, got, s =>
    match tryMember k i got.length s with
    | (true, s) => takeMembers k n l (got ++ [i]) s
    | (false, s) => takeMembers k (n + 1) l got s

/-- A member's record in the batch list (R293). -/
def memberBytes (s : State) (i : Nat) : List Byte :=
  let x := streamAt s i
  let a := adFields s x.ad
  match x.run with
  | some r =>
    leBytes 2 i ++ leBytes 1 (b2n r.first + 2 * b2n x.ad.isSome) ++ leBytes 1 0 ++ leBytes 4 r.token ++ leBytes 4 r.pos
      ++ leBytes 2 x.topk ++ leBytes 2 a.1 ++ leBytes 8 a.2 ++ leBytes 4 r.step ++ leBytes 4 0
  | none => []

/-- Members by bucket, then by order of joining (R327). -/
def byBucket (s : State) (l : List Nat) : List Nat :=
  (List.range 8).flatMap fun b => l.filter fun i => bucket (streamAt s i).pos == b

/-- A channel issues one batch at beat b where its gather set is due (R299). DESIGN CHOICE, log 41. -/
def issueBatch (b : Beat) (s : State) (c : Nat) : State :=
  let m := bcF s c 21 16
  if bcF s c 31 31 = 0 ∨ !gatherDue s c b then s
  else if modelHold s m ≠ .none then (gatherSet s c).foldl (fun s i => holdStream i (modelHold s m) s) s
  else
    let k := s.serving.nextBatch
    let t := takeMembers k (bcF s c 13 8) (gatherSet s c) [] s
    let s := t.2
    if t.1.isEmpty then s
    else
      let e := activeEp s m
      let s := updServing (fun v => { v with nextBatch := k + 1, batches := mput v.batches k ⟨m, e, t.1.length⟩ }) s
      let s := flightBegins m e s
      let l := byBucket s t.1
      let a := putList m (4096 + k) (32 * l.length) (l.flatMap (memberBytes s)) s
      sendMarker m {
        stream := 0, kind := 3, epoch := e, first := false, final := true, step := 0, pos := 0, count := l.length,
        token := 0, ad := none, topk := 0, list := a.1 } a.2

/-- Step 4 of R36 at beat b (R20, R292, R299), where serving is enabled and the host can be reached (R364). -/
def issueAll (b : Beat) (s : State) : State :=
  if srvOn s && hostReady s then
    let s := (pollOrder b (s.serving.streams.map (·.1))).foldl (fun s i => if dueAt b (streamAt s i) then tryStream i s else s) s
    [0, 1, 2, 3].foldl (issueBatch b) s
  else s

/-! ### Staged switches end (R272) -/

/-- STAGED_SWITCH_DONE: the target is ACTIVE, the old epoch EMPTY, and the held steps of the model issue at this tick. DESIGN CHOICE, log 22. -/
def stagedDone (m : Nat) (s : State) : State :=
  match (modelAt s m).switching with
  | some w =>
    if w.phase = .done ∧ s.beat.mode = .locked then
      let s := updModel m (fun x => { x with switching := none }) (epochEmpty m (1 - w.target) (setEpochSt m w.target 3 s))
      if srvOn s && hostReady s then
        let b := s.beat.now
        let s := (pollOrder b (s.serving.streams.map (·.1))).foldl (fun s i =>
          let x := streamAt s i
          if dueAt b x && x.hold == .epoch && (x.model == m || (x.spec && draftOf s x.model == m)) then tryStream i s else s) s
        [0, 1, 2, 3].foldl (fun s c => if bcF s c 21 16 = m then issueBatch b s c else s) s
      else s
    else s
  | none => s

/-! ### Verification (R339, R341) -/

/-- SPEC_VERIFY_ISSUE: after the tick that follows the acceptance of the tree, the verification marker is injected into the main
model, or waits with HOLD. DESIGN CHOICE, log 22. DESIGN CHOICE, log 41. -/
def verifyIssue (i : Nat) (s : State) : State :=
  let x := streamAt s i
  match x.run with
  | some r =>
    if r.kind ≠ 2 ∨ r.nodes.isEmpty ∨ r.verifying ∨ s.beat.mode ≠ .locked ∨ r.treeBeat = s.beat.now then s
    else
      let m := x.model
      let h := modelHold s m
      if h ≠ .none then holdStream i h s
      else
        let e := activeEp s m
        let a := ((modelAt s m).stage.find? (·.stream == i)).map (·.first)
        let s := flightBegins m e s
        let y := { x with prevA := r.prevA, prevPath := r.prevPath }
        let s := match a with
          | some a => writeList m a (listHeader y r.size r.depth ++ r.nodes.flatMap nodeBytes) s
          | none => s
        let s := sendMarker m {
          stream := i, kind := 2, epoch := e, first := r.first, final := true, step := r.step, pos := r.pos,
          count := r.nodes.length, token := 0, ad := x.ad, topk := x.topk,
          list := match a with
            | some a => stageAddr s m a
            | none => 0 } s
        updStream i (fun x => { x with
          hold := .none, epoch := e, kv := captureKv x.kv e x.ad,
          run := some { r with verifying := true, epoch := e } }) s
  | none => s

/-- STAGED_SWITCH_DONE (R272) -/
def execStagedSwitchDone (model : Fin 64) (s : State) : Result := .next (stagedDone model.val s)
/-- SPEC_VERIFY_ISSUE (R339) -/
def execSpecVerifyIssue (stream : Fin 4096) (s : State) : Result := .next (verifyIssue stream.val s)

end Sys2Proof.Machine
end

