-- ==== Sys2Proof/Machine/Link.lean ====
section
/-! DEFINITION. Chain links: their states, flits and credits, delay measurement, inbound and returning messages, timeouts (R374
to R380, R384, R387, R388, R391 to R393, R396, R397, R399). -/

namespace Sys2Proof.Machine

open Sys2Proof

/-! ### A link goes DOWN (R374, R396) -/

/-- Changes link n. -/
def updLink (n : Nat) (f : Link → Link) (s : State) : State := setLink n (f (linkAt s n)) s

/-- LINK_CTRL.ENABLE. -/
def linkEnabled (s : State) (n : Nat) : Bool := bit (live s (pLink n) 0x40) 31

/-- A message queued for a link that has gone: a request is answered PEER_GONE, a response discarded and counted (R396). -/
def queuedGone (n : Nat) (p : Pcl) (s : State) : State :=
  if isResp p.op then countUp (pLink n) 0x80C 15 0 1 s
  else if p.srcM = ownModule s then endReq p.mtag E.peerGone s
  else sendResp n (respTo s p E.peerGone []) s

/-- A link is DOWN, whatever it was (R396): queued and outstanding messages end, markers are no longer a candidate (R527). DESIGN CHOICE, log 45. -/
def linkGone (n : Nat) (s : State) : State :=
  let x := linkAt s n
  if x.st = .down then s
  else
    let s := setLink n { Link.reset with peerModule := x.peerModule, peerJoined := x.peerJoined, failWait := x.failWait, winMc := x.winMc } s
    let s := setCand (.link ⟨n % 8, Nat.mod_lt n (by decide)⟩) (runBroken (candOf s (.link ⟨n % 8, Nat.mod_lt n (by decide)⟩)))
      { s with beat := { s.beat with linkDelays := lset s.beat.linkDelays n [] } }
    let s := x.txq.foldl (fun s q => movedOn q.back (queuedGone n q.msg s)) s
    let s := (s.clReqs.filter (·.link == n)).foldl (fun s q => endReq q.mtag E.peerGone s) s
    attachDrain n (mget [] s.linkIn n).length
      (if (linksTo s n).isEmpty then
        { s with weights := { s.weights with serving := s.weights.serving.filter (·.module != x.peerModule) } } else s)

/-- A link goes DOWN by a failure: counted; it may train again after 100 ms (R374, R397). -/
def linkFailure (n : Nat) (s : State) : State :=
  updLink n (fun x => { x with failWait := true }) (linkGone n (countUp (pLink n) 0x804 15 0 1 s))

/-- A failure with a code, recorded and taken up by recovery. DESIGN CHOICE, log 45. -/
def linkFails (n : Nat) (c : Code) (s : State) : State := report c 4 n (recordErrAny (pLink n) c (linkFailure n s))

/-- An enabled DOWN link whose wait is over trains (R374), unless its controller runs no image or restarts (R515, R516). -/
def tryTrain (n : Nat) (s : State) : State :=
  let x := linkAt s n
  let dead := (mget .reset s.boot.comps 4).dead.contains n || restarts s 4 n
  if x.st = .down ∧ linkEnabled s n ∧ !x.failWait ∧ !dead then setLink n { x with st := .training } s else s

/-! ### Training and HELLO (R374) -/

/-- BODY of a HELLO flit: MODULE_ID, JOINED, the stepping and PCL version 1 (R374, R375). -/
def helloBody (s : State) : List Byte :=
  leBytes 2 (ownModule s) ++ [if joined s then 1 else 0, if Config.stepping = .a1 then 0xA1 else 0xB0, 1]

/-- A HELLO flit leaves: in the clear before UP. -/
def sendHello (n : Nat) (s : State) : State :=
  if linkUp s n then sendCtl n tyHello (helloBody s) s else emit (.flit n (clearFlit tyHello 0 (helloBody s))) s

/-- LINK_TRAIN_DONE -/
def trainDone (n : Nat) (s : State) : State :=
  let x := linkAt s n
  if x.st = .training then sendHello n (setLink n { x with st := .hello, helloSeen := false } s) else s

/-- LINK_TRAIN_TIMEOUT -/
def trainTimeout (n : Nat) (s : State) : State := if (linkAt s n).st = .training then linkFails n E.chainLinkFail s else s

/-- LINK_RETRY_TIMER. DESIGN CHOICE, log 16. -/
def retryTimer (n : Nat) (s : State) : State := tryTrain n (updLink n (fun x => { x with failWait := false }) s)

/-- A link enters ATTEST and sends HS_HELLO with a fresh NONCE (R374, R423). -/
def enterAttest (n : Nat) (s : State) : State :=
  let a := freshWord s
  let b := freshWord a.2
  let c := freshWord b.2
  let d := freshWord c.2
  let nonce := leBytes 8 a.1.toNat ++ leBytes 8 b.1.toNat ++ leBytes 8 c.1.toNat ++ leBytes 8 d.1.toNat
  emit (.handshake n 1 nonce) (updLink n (fun x => { x with st := .attest, hs := { Hs.reset with mine := [nonce] } }) d.2)

/-- A HELLO flit's BODY: in HELLO the link goes on to ATTEST, or fails where the version differs; afterwards the values are
recorded. -/
def peerHello (n : Nat) (b : List Byte) (s : State) : State :=
  let t := updLink n (fun x => { x with
    peerModule := BitVec.ofNat 14 (le b 0 2), peerJoined := le b 2 1 != 0, helloSeen := true }) s
  match (linkAt s n).st with
  | .hello => if le b 4 1 = 1 then enterAttest n t else linkFails n E.chainLinkFail t
  | .attest | .up => t
  | _ => s

/-- LINK_FEC_LOSS. DESIGN CHOICE, log 45. -/
def fecLoss (n : Nat) (s : State) : State := if (linkAt s n).st = .up then linkFailure n s else s

/-- RETRAIN (R397). DESIGN CHOICE, log 45. -/
def retrain (n : Nat) (s : State) : State := tryTrain n (linkGone n s)

/-- A link is UP (R376 to R378): sequences and credits start afresh, under new keys. -/
def linkIsUp (n : Nat) (keys : List Byte) (sideA : Bool) (s : State) : State :=
  updLink n (fun x => { x with
    st := .up, hs := .reset, txSeq := 0, rxSeq := 0, replay := [], nakFor := none, credits := [1024, 1024, 1024, 1024], txq := [],
    ctlq := [], rx := Link.reset.rx, keys := keys, sideA := sideA }) s

/-! ### Received flits (R375, R377, R378) -/

/-- Corrected FEC codewords are counted (R397). -/
def fecCorrected (n k : Nat) (s : State) : State := countUp (pLink n) 0x808 31 0 k s

/-- A flit that is awaited fails (R377): a BEAT, DELAY or IDLE flit is discarded, another is NAKed; the replay of one that was NAKed
fails too, and the link goes DOWN. DESIGN CHOICE, log 45. -/
def flitFails (n ty q : Nat) (s : State) : State :=
  if !keptType ty then updLink n (fun x => { x with rxSeq := q + 1 }) s
  else match (linkAt s n).nakFor with
    | none => sendCtl n tyNak (leBytes 8 q) (updLink n (fun x => { x with rxSeq := q, nakFor := some q }) s)
    | some _ => linkFails n E.chainLinkFail s

/-- A flit has arrived clean (R377): a replay is counted, and every 64 flits are acknowledged. -/
def flitTaken (n q : Nat) (s : State) : State :=
  let x := linkAt s n
  let s := if x.nakFor.isSome then
      logTransient E.chainReplay 4 n (recordErrAny (pLink n) E.chainReplay (countUp (pLink n) 0x804 31 16 1 s)) else s
  let s := updLink n (fun x => { x with rxSeq := q + 1, nakFor := none }) s
  if (q + 1) / 64 > x.rxSeq / 64 then sendCtl n tyAck (leBytes 8 q) s else s

/-- The full sequence number of a flit that is not discarded: the one awaited after a NAK, or one that is not behind (R377). DESIGN CHOICE, log 45. -/
def flitDue (x : Link) (seq : Nat) : Option Nat :=
  match fullSeq x.rxSeq seq with
  | some q => if x.nakFor.isSome && decide (q ≠ x.rxSeq) then none else some q
  | none => none

/-- A flit of a type arrives: decrypted in UP, and its BODY acted on where the tag checks (R378); before UP only HELLO flits are
taken, in the clear. -/
def recvFlit (n ty : Nat) (f : LinkFlit) (act : Nat → List Byte → State → State) (s0 : State) : State :=
  let s := fecCorrected n f.corrected s0
  let x := linkAt s n
  if f.bytes.length ≠ 276 ∨ flitType f.bytes ≠ ty then s
  else match x.st with
    | .hello | .attest => if ty = tyHello then act 0 (bytesAt f.bytes 4 256) s else s
    | .up =>
      match flitDue x (flitSeq f.bytes) with
      | none => s
      | some q =>
        match openFlit (dirKey x.keys !x.sideA) q f.bytes with
        | none => flitFails n ty q s
        | some b => act (flitVc f.bytes) b (flitTaken n q s)
    | _ => s

/-- LINK_FLIT_FAIL (R377): a flit fails its tag or lies in a codeword that cannot be corrected. -/
def flitFail (n ty : Nat) (seq corrected : Nat) (s0 : State) : State :=
  let s := fecCorrected n corrected s0
  if (linkAt s n).st ≠ .up then s
  else match flitDue (linkAt s n) seq with
    | some q => flitFails n ty q s
    | none => s

/-! ### Received messages (R375, R376, R387, R388, R390) -/

/-- A VC's receive buffer. -/
def rxBuf (x : Link) (vc : Nat) : RxVc := x.rx.getD vc ⟨0, 0, [], []⟩

/-- Padding at the front of a stream leaves it: 32 zero bytes are no message. DESIGN CHOICE, log 45. -/
def skipPad : Nat → RxVc → RxVc
  | 0, b => b
  | k + 1, b =>
    if 32 ≤ b.buf.length ∧ (b.buf.take 32).all (· == 0) then skipPad k { b with pos := b.pos + 32, buf := b.buf.drop 32 } else b

/-- The padding at the front of a stream leaves it. -/
def trimRx (b : RxVc) : RxVc := skipPad (b.buf.length / 32) b

/-- The first message of a VC's stream that has arrived whole (R375). -/
def rxHead (x : Link) (vc : Nat) : Option Pcl :=
  let l := (rxBuf x vc).buf
  if 32 ≤ l.length ∧ wireLen l ≤ l.length then some (readPcl (l.take (wireLen l))) else none

/-- The first message of a VC is taken; a forwarded one, which has a number, stays in the buffer until it has moved on (R376). DESIGN CHOICE, log 45. -/
def rxConsume (n vc : Nat) (hold : Option Nat) (s : State) : State :=
  let x := linkAt s n
  let b := rxBuf x vc
  let k := wireLen b.buf
  let held := match hold with
    | some id => b.held ++ [(b.pos, id)]
    | none => b.held
  returnCredits n vc (setLink n { x with
    rx := lset x.rx vc (trimRx { b with pos := b.pos + k, buf := b.buf.drop k, held := held }) } s)

/-- An inbound request is answered UNMAPPED and counted (R384, R387, R400). -/
def answerUnmapped (n : Nat) (p : Pcl) (s : State) : State :=
  clLast 2 p.srcM (countUp pCl 0x810 15 0 1 (sendResp n (respTo s p E.unmapped []) s))

/-- A message whose way the ingress table names another link: it is answered or discarded (R387, R388), or moves on to the link
answered. -/
def transitWay (n : Nat) (p : Pcl) (r : Route) (s : State) : Option Nat × State :=
  let l := match r with
    | .link l => some l
    | _ => none
  match joined s, l with
  | true, some l =>
    if p.hops = 255 then (none, countUp (pLink n) 0x80C 31 16 1 s)
    else if linkUp s l then (some l, s)
    else (none, if isResp p.op then countUp (pLink n) 0x80C 15 0 1 s else sendResp n (respTo s p E.peerGone []) s)
  | _, _ => (none, if isResp p.op then countUp (pLink n) 0x80C 15 0 1 s else answerUnmapped n p s)

/-- A message whose way the ingress table names another link leaves its stream; one that moves on is held in its buffer until it has. DESIGN CHOICE, log 45. -/
def transitMsg (n vc : Nat) (p : Pcl) (r : Route) (s : State) : State :=
  match transitWay n p r s with
  | (some l, s) =>
    let id := s.nextTag
    egress n l vc (some (n, vc, id)) p (rxConsume n vc (some id) { s with nextTag := id + 1 })
  | (none, s) => rxConsume n vc none s

/-- What becomes of a first message without a command; none where it is one for this engine, which a command handles. -/
def rxAuto (n vc : Nat) (p : Pcl) (s : State) : Option State :=
  if p.op = 0 ∨ 9 < p.op then some (rxConsume n vc none (countUp (pLink n) 0x80C 15 0 1 s))
  else if p.op = 8 ∨ p.op = 9 then
    (if p.hops = 0 ∧ joined s ∧ (linkAt s n).peerJoined then none else some (rxConsume n vc none s))
  else match routeFor s n p.dest with
    | .own => none
    | r => some (transitMsg n vc p r s)

/-- First messages that need no command are handled. DESIGN CHOICE, log 45. -/
def rxSettle (n vc : Nat) : Nat → State → State
  | 0, s => s
  | k + 1, s =>
    match rxHead (linkAt s n) vc with
    | some p =>
      match rxAuto n vc p s with
      | some t => rxSettle n vc k t
      | none => s
    | none => s

/-- More than the messages that a VC's buffer can hold. -/
def rxCount (s : State) (n vc : Nat) : Nat := (rxBuf (linkAt s n) vc).buf.length / 32

/-- BODY of a DATA flit joins the stream of its VC (R375). -/
def dataBody (n vc : Nat) (b : List Byte) (s : State) : State :=
  let s := updLink n (fun x =>
    let r := rxBuf x vc
    { x with rx := lset x.rx vc (trimRx { r with buf := r.buf ++ b }) }) s
  rxSettle n vc (rxCount s n vc) (returnCredits n vc s)

/-- BODY of a CREDIT flit: credits for the four VCs (R376). -/
def creditBody (n : Nat) (b : List Byte) (s : State) : State :=
  pumpTx n (updLink n (fun x => { x with credits := [0, 1, 2, 3].map fun v => x.credits.getD v 0 + le b (2 * v) 2 }) s)

/-- BODY of an ACK flit: every flit up to its number is kept no longer (R377). -/
def ackBody (n : Nat) (b : List Byte) (s : State) : State :=
  pumpTx n (updLink n (fun x => { x with replay := x.replay.filter fun q => decide (le b 0 8 < q.1) }) s)

/-- BODY of a NAK flit: the kept flits leave again from its number on (R377). -/
def nakBody (n : Nat) (b : List Byte) (s : State) : State :=
  ((linkAt s n).replay.filter fun q => decide (le b 0 8 ≤ q.1)).foldl (fun s q => emit (.flit n q.2) s) s

/-! ### Delay (R380); times in 0.25 ns -/

/-- DELAY_REQ_SEND -/
def delaySend (n t1 : Nat) (s : State) : State := sendCtl n tyDelayReq (leBytes 8 t1) s
/-- BODY of a DELAY_REQ flit: it is answered. -/
def delayReq (n t2 t3 : Nat) (b : List Byte) (s : State) : State :=
  sendCtl n tyDelayRsp (leBytes 8 (le b 0 8) ++ leBytes 8 t2 ++ leBytes 8 t3) s
/-- BODY of a DELAY_RSP flit: one measurement; the last eight are kept. -/
def delayRsp (n t4 : Nat) (b : List Byte) (s : State) : State :=
  { s with beat := { s.beat with
    linkDelays := lset s.beat.linkDelays n
      ((((t4 - le b 0 8) - (le b 16 8 - le b 8 8)) / 2 :: s.beat.linkDelays.getD n []).take 8) } }

/-! ### Inbound requests (R384, R391) -/

/-- A field of window w: register k, bits [hi:lo]. -/
def winF (s : State) (w k hi lo : Nat) : Nat := liveF s (linkPage (w / 32) 1) (0x40 + 24 * (w % 32) + 4 * k) hi lo
/-- IN_BASE of a window. -/
def winBase (s : State) (w : Nat) : Nat := 2 ^ 32 * winF s w 2 17 0 + 4096 * winF s w 1 31 12
/-- TARGET of a window. -/
def winTarget (s : State) (w : Nat) : Nat := 2 ^ 32 * winF s w 5 17 0 + 4096 * winF s w 4 31 12

/-- Whether a window matches a request (R384 step 2). -/
def winMatch (s : State) (p : Pcl) (w : Nat) : Bool :=
  let reg := p.op == 5 || p.op == 6
  let wr := p.op == 1 || p.op == 5
  let t := winF s w 0 7 0
  winF s w 0 31 31 == 1 && winF s w 0 21 8 == p.srcM && winF s w 0 28 28 == b2n reg
    && winF s w 0 (if wr then 29 else 30) (if wr then 29 else 30) == 1
    && decide (winBase s w ≤ p.addr) && decide (p.addr + p.len ≤ winBase s w + 4096 * winF s w 3 29 0)
    && (reg || ((mfind s.sec.tenants t).isSome && boundKey s (some t) == p.keyId))

/-- Whether every byte of a mapped range belongs to a tenant (R384 step 3). -/
def tenantOwns (s : State) (t a len : Nat) : Bool :=
  match addrKind a with
  | .core c off => decide (off + len ≤ 0x30000) && tenantOfCore s c == some t
  | .stack n off =>
    let ok := fun o => match regionOf s n o with
      | some r => regionKey s n r == t
      | none => false
    ok off && ok (off + (len - 1))
  | _ => false

/-- Step 4 of R384: R209 and R223 on the mapped range. -/
def mappedCheck (s : State) (a len : Nat) : Option Code :=
  match localRange s a len, addrKind a with
  | .bad c, _ => some c
  | _, .stack n off => (match accessRegion s n off len with
      | .error c => some c
      | .ok _ => none)
  | _, _ => none

/-- A request against R384: its mapped address, or the code that answers it; a LEN beyond R390 is rejected under R5 and R6. -/
def inboundCheck (s : State) (p : Pcl) : Except Code Nat :=
  if !joined s then .error E.unmapped
  else if p.len = 0xFFFF then .error E.reservedValue
  else if 4096 < p.len then .error E.lenOverrun
  else match (List.range 256).find? (winMatch s p) with
    | none => .error E.unmapped
    | some w =>
      let a := winTarget s w + (p.addr - winBase s w)
      if p.op = 5 ∨ p.op = 6 then .ok a
      else if !tenantOwns s (winF s w 0 7 0) a p.len then .error E.unmapped
      else match mappedCheck s a p.len with
        | some c => .error c
        | none => .ok a

/-- The code that a failed check answers; UNMAPPED is counted. -/
def refuseIn (n : Nat) (p : Pcl) (c : Code) (s : State) : State :=
  if c = E.unmapped then answerUnmapped n p s else sendResp n (respTo s p c []) s

/-- The router to which R185 maps an address. -/
def addrRouter (a : Nat) : Nat :=
  match addrKind a with
  | .core c _ => c
  | .stack n off => (stackRouter n off).1
  | _ => 0

/-- A flush READ of a request, to the router of an address (R391). -/
def sendFlush (n id a : Nat) (p : Pcl) (s : State) : State :=
  let k := p.mtag % 4
  injectEngine (linkRouter n k) (towardAddr (a / 32 * 32)
    { msgNull with cls := .read, nomerge := true, rflits := 1, roff := k, src := srcAttach n,
                   origin := .chainFlush n id (addrRouter a) })
    (updIn id (fun q => { q with flush := q.flush ++ [addrRouter a] }) s)

/-- The last address of each router among the pieces of a write. -/
def lastOfRouter : List Nat → List Nat
  | [] => []
  | a :: l => if l.any (fun b => addrRouter b == addrRouter a) then lastOfRouter l else a :: lastOfRouter l

/-- An accepted WR: DATA messages, then a flush READ to each router they went to (R391). -/
def serveWr (n : Nat) (p : Pcl) (a : Nat) (s : State) : State :=
  let k := p.mtag % 4
  let id := s.nextTag
  let s := { s with nextTag := id + 1, clIns := s.clIns ++ [⟨id, n, p, a, [], 0, [], 0⟩] }
  let ps := piecesOf 512 (2 ^ 50) 0 p.len
  let s := ps.foldl (fun s q =>
    injectEngine (linkRouter n k) (towardAddr (a + q.1)
      { msgNull with cls := .data, tag := p.tagged && decide (a < 0x2000000000), src := srcAttach n,
                     payload := (p.data.drop q.1).take q.2, origin := .chain n id }) s) s
  finishIn id ((lastOfRouter (ps.map fun q => a + q.1)).foldl (fun s b => sendFlush n id b p s) s)

/-- An accepted RD: READs of its range (R391). -/
def serveRd (n : Nat) (p : Pcl) (a : Nat) (s : State) : State :=
  let k := p.mtag % 4
  let id := s.nextTag
  let s := { s with nextTag := id + 1, clIns := s.clIns ++ [⟨id, n, p, a, [], p.len, [], 0⟩] }
  finishIn id ((piecesOf 512 (2 ^ 50) 0 p.len).foldl (fun s q =>
    injectEngine (linkRouter n k) (towardAddr (a + q.1)
      { msgNull with cls := .read, rflits := q.2 / 32, roff := k, src := srcAttach n, origin := .chain n id }) s) s)

/-- The first message of a VC, of a type that a command handles, is taken and acted on. -/
def takeMsg (n vc op : Nat) (act : Pcl → State → State) (s : State) : State :=
  match rxHead (linkAt s n) vc with
  | some p =>
    if p.op = op ∧ (linkAt s n).st = .up then
      let s := act p (rxConsume n vc none s)
      rxSettle n vc (rxCount s n vc) s
    else s
  | none => s

/-- PCL_WR and PCL_RD: checked, then served. -/
def inboundReq (n : Nat) (serve : Pcl → Nat → State → State) (p : Pcl) (s : State) : State :=
  match inboundCheck s p with
  | .error c => refuseIn n p c s
  | .ok a => serve p a s

/-- FLUSH_READ_REPLY (R391): the first flush reply that has reached the attachment. -/
def flushReply (n : Nat) (s : State) : State :=
  match s.clFlushed.find? (·.1 == n) with
  | some q => flushAnswered q.2.1 q.2.2 { s with clFlushed := s.clFlushed.erase q }
  | none => s

/-! ### Responses (R391, R392) -/

/-- A response to no outstanding request: discarded and counted (R392). DEDUCED, log 10. -/
def lateResp (s : State) : State := countUp pCl 0x814 31 16 1 s

/-- A response that carries a code ends its request with it; otherwise it acts. -/
def response (p : Pcl) (act : ClReq → State → State) (s : State) : State :=
  if p.status ≠ 0 then
    (match s.clReqs.find? (·.mtag == p.mtag) with
      | some _ => endReq p.mtag p.status s
      | none => lateResp s)
  else match takeReq p.mtag s with
    | some q => reqEnded q.1 (act q.1 q.2)
    | none => lateResp s

/-- Read bytes go to their destination over the floor (R391). -/
def deliverRead (p : Pcl) (q : ClReq) (s : State) : State :=
  let k := p.mtag % 4
  (piecesOf 512 (2 ^ 50) 0 p.data.length).foldl (fun s r =>
    let a := q.loc + r.1
    let o := match q.origin, addrKind a with
      | .seg n ch id, .stack _ _ => Origin.segIn n ch id a
      | o, _ => o
    injectEngine (linkRouter q.home k) (towardAddr a
      { msgNull with cls := .data, tag := q.tagged, src := srcAttach q.home, payload := (p.data.drop r.1).take r.2, origin := o }) s) s

/-- A SVC response reaches the install that asked (R264, R393). -/
def svcResponse (p : Pcl) (q : ClReq) (s : State) : State :=
  match q.origin, p.svc with
  | .svc who, some (.answer _ held) => queryAnswered who q.link held s
  | .svc who, some (.payload _ r u off) => payloadArrives who r u off p.data s
  | _, _ => s

/-- SVC_REQ (R265, R393): a holding query or payload request. -/
def svcRequest (n : Nat) (p : Pcl) (s : State) : State :=
  match p.svc with
  | some (.query image key) => answerQuery n p image key s
  | some (.fetch image key r u off len) => answerFetch n p image key r u off len s
  | _ => s

/-- RT_COPY (R399): the live bank of a table is copied into the other; locked while its page is enrolled in a group under way. -/
def rtCopy (t : Nat) (s : State) : State :=
  let pg := if t < 8 then linkPage t 2 else pCl
  if pageLocked s pg then recordErrAny pg E.txnShadowLocked s
  else
    let b := routeBank s t
    (List.range 2048).foldl (fun s k =>
      { s with routes := mset 0xFFFFFFFF s.routes (routeKey t (1 - b) k) (routeWord s t b k) }) s

/-- LINK_TRAIN_DONE (R374) -/
def execLinkTrainDone (link : Fin 8) (s : State) : Result := .next (trainDone link.val s)
/-- LINK_TRAIN_TIMEOUT (R374) -/
def execLinkTrainTimeout (link : Fin 8) (s : State) : Result := .next (trainTimeout link.val s)
/-- LINK_RETRY_TIMER (R374) -/
def execLinkRetryTimer (link : Fin 8) (s : State) : Result := .next (retryTimer link.val s)
/-- LINK_HELLO (R374) -/
def execLinkHello (link : Fin 8) (flit : LinkFlit) (s : State) : Result :=
  .next (recvFlit link.val tyHello flit (fun _ => peerHello link.val) s)
/-- LINK_FEC_LOSS (R374) -/
def execLinkFecLoss (link : Fin 8) (s : State) : Result := .next (fecLoss link.val s)
/-- RETRAIN (R397) -/
def execRetrain (m : Master) (link : Fin 8) (s : State) : Result := .next (onPage m (pLink link.val) 0x800 (retrain link.val) s)
/-- LINK_DATA_FLIT (R375) -/
def execLinkDataFlit (link : Fin 8) (flit : LinkFlit) (s : State) : Result :=
  .next (recvFlit link.val tyData flit (dataBody link.val) s)
/-- LINK_CREDIT (R376) -/
def execLinkCredit (link : Fin 8) (flit : LinkFlit) (s : State) : Result :=
  .next (recvFlit link.val tyCredit flit (fun _ => creditBody link.val) s)
/-- LINK_ACK (R377) -/
def execLinkAck (link : Fin 8) (flit : LinkFlit) (s : State) : Result :=
  .next (recvFlit link.val tyAck flit (fun _ => ackBody link.val) s)
/-- LINK_NAK (R377) -/
def execLinkNak (link : Fin 8) (flit : LinkFlit) (s : State) : Result :=
  .next (recvFlit link.val tyNak flit (fun _ => nakBody link.val) s)
/-- LINK_FLIT_FAIL (R377) -/
def execLinkFlitFail (link : Fin 8) (ty : BitVec 4) (seq : BitVec 16) (corrected : Nat) (s : State) : Result :=
  .next (flitFail link.val ty.toNat seq.toNat corrected s)
/-- DELAY_REQ_SEND (R380) -/
def execDelayReqSend (link : Fin 8) (t1 : Nat) (s : State) : Result := .next (delaySend link.val t1 s)
/-- DELAY_REQ (R380) -/
def execDelayReq (link : Fin 8) (flit : LinkFlit) (t2 t3 : Nat) (s : State) : Result :=
  .next (recvFlit link.val tyDelayReq flit (fun _ => delayReq link.val t2 t3) s)
/-- DELAY_RSP (R380) -/
def execDelayRsp (link : Fin 8) (flit : LinkFlit) (t4 : Nat) (s : State) : Result :=
  .next (recvFlit link.val tyDelayRsp flit (fun _ => delayRsp link.val t4) s)
/-- PCL_WR (R391) -/
def execPclWr (link : Fin 8) (vc : Fin 4) (s : State) : Result :=
  .next (takeMsg link.val vc.val 1 (inboundReq link.val (serveWr link.val)) s)
/-- PCL_RD (R391) -/
def execPclRd (link : Fin 8) (vc : Fin 4) (s : State) : Result :=
  .next (takeMsg link.val vc.val 2 (inboundReq link.val (serveRd link.val)) s)
/-- FLUSH_READ_REPLY (R391) -/
def execFlushReadReply (link : Fin 8) (s : State) : Result := .next (flushReply link.val s)
/-- PCL_WR_ACK (R391) -/
def execPclWrAck (link : Fin 8) (vc : Fin 4) (s : State) : Result :=
  .next (takeMsg link.val vc.val 3 (fun p => response p (fun q => landed q.origin q.len)) s)
/-- PCL_RD_DATA (R391) -/
def execPclRdData (link : Fin 8) (vc : Fin 4) (s : State) : Result :=
  .next (takeMsg link.val vc.val 4 (fun p => response p (deliverRead p)) s)
/-- SVC_REQ (R393) -/
def execSvcReq (link : Fin 8) (vc : Fin 4) (s : State) : Result := .next (takeMsg link.val vc.val 8 (svcRequest link.val) s)
/-- SVC_RSP (R393) -/
def execSvcRsp (link : Fin 8) (vc : Fin 4) (s : State) : Result :=
  .next (takeMsg link.val vc.val 9 (fun p => response p (svcResponse p)) s)
/-- REMOTE_TIMEOUT (R392) -/
def execRemoteTimeout (mtag : Word) (s : State) : Result := .next (endReq mtag.toNat E.peerGone s)
/-- RT_COPY (R399) -/
def execRtCopy (m : Master) (table : Fin 9) (s : State) : Result :=
  .next (onPage m (if table.val < 8 then linkPage table.val 2 else pCl) 0x80C (rtCopy table.val) s)

end Sys2Proof.Machine
end

