-- ==== Sys2Proof/Machine/Hss.lean ====
section
/-! DEFINITION. HSS signatures under RFC 8554: LM-OTS, LMS, and the identity key of two levels (R407). -/

namespace Sys2Proof.Machine

open Sys2Proof

/-! ### LM-OTS -/

/-- Parameters of an LM-OTS type with 32-byte hashes: width w, chains p and the shift of the checksum. -/
def otsPars (t : Nat) : Option (Nat × Nat × Nat) :=
  match t with
  | 1 => some (1, 265, 7) | 2 => some (2, 133, 6) | 3 => some (4, 67, 4) | 4 => some (8, 34, 0)
  | _ => none

/-- The height of an LMS type with 32-byte hashes. -/
def lmsHeight (t : Nat) : Option Nat := if 5 ≤ t ∧ t ≤ 9 then some (5 * (t - 4)) else none

/-- The hash of a tree's ID, a number, a second number of two bytes and data. -/
def lmsHash (id : List Byte) (q d : Nat) (l : List Byte) : List Byte := sha256 (id ++ beBytes 4 q ++ beBytes 2 d ++ l)

/-- A chain value moved on n steps from step j. -/
def otsChain (id : List Byte) (q i : Nat) : Nat → Nat → List Byte → List Byte
  | 0, _, x => x
  | n + 1, j, x => otsChain id q i n (j + 1) (lmsHash id q i (beBytes 1 j ++ x))

/-- The w-bit digits of a list of bytes, most significant first. -/
def otsDigits (w : Nat) (l : List Byte) : List Nat :=
  l.flatMap fun b => (List.range (8 / w)).map fun k => b.toNat / 2 ^ (8 - w * (k + 1)) % 2 ^ w

/-- How far each chain goes for a message: the digits of its hash and of their checksum. -/
def otsSteps (w p ls : Nat) (id : List Byte) (q : Nat) (c msg : List Byte) : List Nat :=
  let h := lmsHash id q 0x8181 (c ++ msg)
  let sum := (otsDigits w h).foldl (fun n d => n + (2 ^ w - 1 - d)) 0
  (otsDigits w (h ++ beBytes 2 (sum * 2 ^ ls))).take p

/-- The public key of a one-time key whose chain ends are given. -/
def otsPublic (id : List Byte) (q : Nat) (ends : List (List Byte)) : List Byte := lmsHash id q 0x8080 ends.flatten

/-- The public key that a one-time signature of a message leads to. -/
def otsCandidate (t : Nat) (id : List Byte) (q : Nat) (msg sig : List Byte) : Option (List Byte) :=
  match otsPars t with
  | none => none
  | some (w, p, ls) =>
    if sig.length ≠ 36 + 32 * p ∨ beNat (sig.take 4) ≠ t then none
    else
      let a := otsSteps w p ls id q ((sig.drop 4).take 32) msg
      some (otsPublic id q ((List.range p).map fun i =>
        otsChain id q i (2 ^ w - 1 - a.getD i 0) (a.getD i 0) ((sig.drop (36 + 32 * i)).take 32)))

/-! ### LMS -/

/-- The bytes of a signature under an LMS public key, 0 where its types are unknown. -/
def lmsSigLen (key : List Byte) : Nat :=
  match lmsHeight (beNat (key.take 4)), otsPars (beNat ((key.drop 4).take 4)) with
  | some h, some (_, p, _) => 44 + 32 * p + 32 * h
  | _, _ => 0

/-- The root that a leaf's path leads to from a node. -/
def lmsClimb (id : List Byte) : List (List Byte) → Nat → List Byte → List Byte
  | [], _, x => x
  | y :: l, r, x => lmsClimb id l (r / 2) (lmsHash id (r / 2) 0x8383 (if r % 2 = 1 then y ++ x else x ++ y))

/-- Whether an LMS signature of a message verifies. -/
def lmsVerify (key msg sig : List Byte) : Bool :=
  match lmsHeight (beNat (key.take 4)), otsPars (beNat ((key.drop 4).take 4)) with
  | some h, some (_, p, _) =>
    let id := (key.drop 8).take 16
    let q := beNat (sig.take 4)
    let n := 36 + 32 * p
    if key.length ≠ 56 ∨ sig.length ≠ lmsSigLen key ∨ beNat ((sig.drop (4 + n)).take 4) ≠ beNat (key.take 4) ∨ 2 ^ h ≤ q then false
    else match otsCandidate (beNat ((key.drop 4).take 4)) id q msg ((sig.drop 4).take n) with
      | none => false
      | some k => lmsClimb id (groupsOf 32 (sig.drop (8 + n))) (2 ^ h + q) (lmsHash id (2 ^ h + q) 0x8282 k) == key.drop 24
  | _, _ => false

/-! ### HSS -/

/-- The signed keys and the last signature of a signature under an LMS key. -/
def hssChain : Nat → List Byte → List Byte → List Byte → Bool
  | 0, key, msg, sig => lmsVerify key msg sig
  | n + 1, key, msg, sig =>
    let len := lmsSigLen key
    let pub := (sig.drop len).take 56
    lmsVerify key pub (sig.take len) && hssChain n pub msg (sig.drop (len + 56))

/-- Whether a signature of a message verifies against an HSS public key of at most eight levels. -/
def hssVerify (key msg sig : List Byte) : Bool :=
  let levels := beNat (key.take 4)
  decide (1 ≤ levels) && decide (levels ≤ 8) && beNat (sig.take 4) + 1 == levels && hssChain (levels - 1) (key.drop 4) msg (sig.drop 4)

/-! ### The identity key (R407): LMS_SHA256_M32_H15 with LMOTS_SHA256_N32_W4 on both levels -/

/-- What a tree's key holds: its ID, the secret of each chain of each leaf, and the randomizer of each leaf. -/
structure LmsTree where
  id : List Byte
  secret : Nat → Nat → List Byte
  rand : Nat → List Byte

/-- A one-time public key of a tree. -/
def lmsLeafKey (t : LmsTree) (q : Nat) : List Byte :=
  otsPublic t.id q ((List.range 67).map fun i => otsChain t.id q i 15 0 (t.secret q i))

/-- The node at a height above the leaves of a tree of height h. -/
def lmsNode (h : Nat) (t : LmsTree) : Nat → Nat → List Byte
  | 0, i => lmsHash t.id (2 ^ h + i) 0x8282 (lmsLeafKey t i)
  | n + 1, i => lmsHash t.id (2 ^ (h - (n + 1)) + i) 0x8383 (lmsNode h t n (2 * i) ++ lmsNode h t n (2 * i + 1))

/-- The type number of an LMS tree of height h. -/
def lmsType (h : Nat) : Nat := h / 5 + 4

/-- A tree's public key, 56 bytes. -/
def lmsPublic (h : Nat) (t : LmsTree) : List Byte := beBytes 4 (lmsType h) ++ beBytes 4 3 ++ t.id ++ lmsNode h t h 0

/-- A tree's signature of a message with a leaf, 2,188 + 32 h bytes. -/
def lmsSign (h : Nat) (t : LmsTree) (q : Nat) (msg : List Byte) : List Byte :=
  let a := otsSteps 4 67 4 t.id q (t.rand q) msg
  beBytes 4 q ++ beBytes 4 3 ++ t.rand q ++ (List.range 67).flatMap (fun i => otsChain t.id q i (a.getD i 0) 0 (t.secret q i))
    ++ beBytes 4 (lmsType h) ++ (List.range h).flatMap fun k => lmsNode h t k (q / 2 ^ k ^^^ 1)

/-- A tree of the identity key: the top tree 0, and bottom tree k at k + 1. PRESUMED, log 67. -/
def identityTree (n : Nat) : LmsTree :=
  ⟨beBytes 16 (Config.lmsId n).toNat, fun q i => beBytes 32 (Config.lmsSecret n q i).toNat, fun q => beBytes 32 (Config.lmsRandom n q).toNat⟩

/-- The identity public key, 60 bytes: two levels. -/
def identityKey : List Byte := beBytes 4 2 ++ lmsPublic 15 (identityTree 0)

/-- The signed public key of bottom tree k: the signature that binds it to the top tree, and the key. -/
def signedTree (k : Nat) : List Byte :=
  let pub := lmsPublic 15 (identityTree (k + 1))
  lmsSign 15 (identityTree 0) k pub ++ pub

/-- The identity key's signature with leaf q, 5,396 bytes, the tree's signed public key given. -/
def hssSign (signed : List Byte) (q : Nat) (msg : List Byte) : List Byte :=
  beBytes 4 1 ++ signed ++ lmsSign 15 (identityTree (q / 2 ^ 15 + 1)) (q % 2 ^ 15) msg

end Sys2Proof.Machine
end

