-- ==== Sys2Proof/Machine/Flash.lean ====
section
/-! DEFINITION. Secure flash: record copies and their choice (R501 to R507), firmware images and the boot of a component (R426,
R513, R515). -/

namespace Sys2Proof.Machine

open Sys2Proof

/-- Changes what the start-up unit holds. -/
def updBoot (f : BootUnit → BootUnit) (s : State) : State := { s with boot := f s.boot }

/-- The pages of the module controller and of secure flash. -/
def pMc : Nat := 0
/-- Page 0x0040. -/
def pFlash : Nat := 0x40

/-! ### Record copies (R502) -/

/-- Signer of a record type (R503): 1 the record key, 0 Verfort's provisioning key. -/
def recSigner (t : Nat) : Nat := if t = 2 ∨ t = 4 ∨ t = 5 then 1 else 0

/-- LENGTH, VERSION and SEQ of a copy. -/
def recLength (l : List Byte) : Nat := le l 0x0C 4
/-- VERSION of a copy. -/
def recVersion (l : List Byte) : Nat := le l 8 2
/-- SEQ of a copy. -/
def recSeq (l : List Byte) : Nat := le l 0x10 8
/-- MIGRATED of a copy. -/
def recMigrated (l : List Byte) : Bool := (l.getD 6 0).getLsbD 0
/-- Body of a copy. -/
def recBody (l : List Byte) : List Byte := bytesAt l 64 (recLength l)

/-- Whether a copy's MAGIC and authenticator check for its type (R504). DESIGN CHOICE, log 53. -/
def recValid (t : Nat) (l : List Byte) : Bool :=
  let n := 64 + recLength l
  le l 0 4 == 0x43525750 && le l 4 1 == t && le l 5 1 == recSigner t && decide (recLength l ≤ 65536) && decide (n ≤ l.length)
    && (if recSigner t = 1 then decide (l.drop n = hmac Config.recordKey (l.take n))
        else hssVerify Config.provisioningKey (l.take n) (l.drop n))

/-- A header (R502). -/
def recHeader (t flags version len seq : Nat) : List Byte :=
  leBytes 4 0x43525750 ++ leBytes 1 t ++ leBytes 1 (recSigner t) ++ leBytes 1 flags ++ [0] ++ leBytes 2 version ++ [0, 0]
    ++ leBytes 4 len ++ leBytes 8 seq ++ List.replicate 40 0

/-- A copy made under the record key. DESIGN CHOICE, log 53. -/
def recMake (t flags version seq : Nat) (body : List Byte) : List Byte :=
  let l := recHeader t flags version body.length seq ++ body
  l ++ hmac Config.recordKey l

/-- The copy of a type in a slot. -/
def recCopy (s : State) (t slot : Nat) : List Byte := mget [] s.boot.records (2 * t + slot)

/-! ### Choosing a copy (R504, R505) -/

/-- What a record type offers: no copy, no valid copy, only a newer format, or the slot of the copy in use. -/
inductive RecChoice where
  | absent | noValid | newer (slot : Nat) | use (slot : Nat)
  deriving DecidableEq, Repr

/-- The choice among the two copies under a running MC that supports VERSIONs up to `cur`. DESIGN CHOICE, log 53. -/
def recChoose (s : State) (t cur : Nat) : RecChoice :=
  let a := recCopy s t 0
  let b := recCopy s t 1
  let va := recValid t a
  let vb := recValid t b
  if a.isEmpty && b.isEmpty then .absent
  else if !va && !vb then .noValid
  else
    let h := if va && (!vb || recSeq b ≤ recSeq a) then 0 else 1
    let x := if h = 0 then a else b
    let y := if h = 0 then b else a
    if recVersion x ≤ cur then .use h
    else if va && vb && recMigrated x && recSeq x == recSeq y + 1 && decide (recVersion y ≤ cur) then .use (1 - h)
    else .newer h

/-- The resolution of a type. -/
def recRes (s : State) (t : Nat) : RecRes := mget ⟨0, 0, 0⟩ s.boot.recRes t

/-- The body of the copy in use; before the MC has resolved records, that of the valid copy with the higher SEQ. -/
def recUse (s : State) (t : Nat) : Option (List Byte) :=
  match mfind s.boot.recRes t with
  | some r => if r.st = 1 ∨ r.st = 2 then some (recBody (recCopy s t r.slot)) else none
  | none => match recChoose s t 0xFFFF with
    | .use k => some (recBody (recCopy s t k))
    | _ => none

/-- A flash write that read-back does not confirm is counted and recorded (R504, R523). -/
def flashFails (s : State) : State := recordErrAny pFlash E.flashWriteFail (countUp pFlash 0x808 15 0 1 s)

/-- A copy is written to the slot that does not hold the copy in use (R504). DESIGN CHOICE, log 53. -/
def recPut (t : Nat) (l : List Byte) (ok : Bool) (s : State) : State :=
  let r := recRes s t
  let used := r.st = 1 ∨ r.st = 2
  let slot := if used then 1 - r.slot else 0
  if ok then
    updBoot (fun b => { b with
      records := mset [] b.records (2 * t + slot) l
      recRes := mset ⟨0, 0, 0⟩ b.recRes t ⟨if recMigrated l then 2 else 1, slot, recVersion l⟩ }) s
  else flashFails (updBoot (fun b => { b with records := mset [] b.records (2 * t + slot) [] }) s)

/-- SEQ of the next copy of a type (R502). -/
def recNextSeq (s : State) (t : Nat) : Nat :=
  let r := recRes s t
  if r.st = 1 ∨ r.st = 2 then recSeq (recCopy s t r.slot) + 1 else 1

/-- A LEAF_STATE body: RESERVED_TO, the latest signed bottom tree counted from 1, and its signed public key (R408, R503). DESIGN
CHOICE, log 53. -/
def leafBytes (upTo : Nat) (t : Option (Nat × List Byte)) : List Byte :=
  match t with
  | some (k, l) => leBytes 4 upTo ++ leBytes 4 (k + 1) ++ l
  | none => leBytes 4 upTo ++ leBytes 4 0

/-- The bottom tree that a LEAF_STATE body names. -/
def leafTree (l : List Byte) : Option (Nat × List Byte) := if le l 4 4 = 0 then none else some (le l 4 4 - 1, l.drop 8)

/-- A record that the engine itself writes, under the record key (R503). -/
def recWrite (t version : Nat) (body : List Byte) (ok : Bool) (s : State) : State :=
  recPut t (recMake t 0 version (recNextSeq s t) body) ok s

/-- Service mode with its first cause (R508). DESIGN CHOICE, log 53. -/
def serviceMode (c : Code) (s : State) : State :=
  if s.boot.serviceMode then s else updBoot (fun b => { b with serviceMode := true, cause := c }) s

/-! ### The floor map (R481, R503) -/

/-- VERSION of a type that the running MC writes (R506, R513). -/
def curVersion (s : State) (t : Nat) : Nat :=
  match mfind (mget .reset s.boot.comps 1).runs 0 with
  | some r => r.recVersions.getD (t - 1) 0
  | none => 0

/-- The cores that are not enabled, with router and reason. -/
def floorCores (s : State) : List (Nat × Bool × Byte) :=
  (s.repair.filter fun e => !e.2.enabled).map fun e => (e.1, e.2.routerRetired, e.2.reason)

/-- FAILED phases of every field: field, rail, phase. -/
def floorPhaseList (s : State) : List (Nat × Nat × Nat) :=
  s.fields.flatMap fun e =>
    let pick := fun (r : Nat) (m : Map PhaseSt) => ((m.filter (·.2 == .failed)).map fun p => ((e.1, r, p.1) : Nat × Nat × Nat))
    pick 0 e.2.vcore ++ pick 1 e.2.vret ++ pick 2 e.2.vfab

/-- Converters failed under R487. -/
def floorConvList (s : State) : List Nat := (s.convs.filter (·.2.failed)).map (·.1)

/-- FLOOR_MAP is written with what is retired now; a failed write is retried every 10 s (R504). -/
def floorPut (ok : Bool) (s : State) : State :=
  updBoot (fun b => { b with floorDue := !ok })
    (recWrite 4 (curVersion s 4) (Config.floorWrite (floorCores s) (floorPhaseList s) (floorConvList s)) ok s)

/-! ### Firmware images (R426, R513) -/

/-- Component c. -/
def compAt (s : State) (c : Nat) : Component := mget .reset s.boot.comps c
/-- Changes component c. -/
def updComp (c : Nat) (f : Component → Component) (s : State) : State :=
  updBoot (fun b => { b with comps := mset .reset b.comps c (f (mget .reset b.comps c)) }) s

/-- The image in a bank. -/
def bankImg (x : Component) (k : Nat) : List Byte := if k = 0 then x.bankA else x.bankB
/-- Sets it. -/
def setBankImg (k : Nat) (l : List Byte) (x : Component) : Component := if k = 0 then { x with bankA := l } else { x with bankB := l }

/-- What runs once an image has booted: header fields, measurement and compatibility block (R411, R513). -/
def fwRun (img : List Byte) : FwRun :=
  let h := Config.fwHead img
  { svn := h.svn, version := h.version, hash := sha256 img, release := le h.body 0 4, iface := le h.body 4 2, order := le h.body 6 1,
    minIface := (List.range 5).map fun k => le h.body (8 + 2 * k) 2,
    recVersions := (List.range 7).map fun k => le h.body (0x12 + 2 * k) 2 }

/-- MIN_SVN of a component (R426). DESIGN CHOICE, log 57. -/
def minSvn (s : State) (c : Nat) : Nat :=
  match recUse s 7 with
  | some l => Config.svnFloor l c
  | none => 0

/-- Why an image is refused as component c (R426). -/
def fwCheck (s : State) (c : Nat) (img : List Byte) : Option Code :=
  let h := Config.fwHead img
  let revoked := match recUse s 6 with
    | some l => Config.revoked l h.signer
    | none => false
  if img.isEmpty || decide (1 < h.signer) || !hssVerify (Config.fwKey h.signer) h.header h.signature || revoked
      || h.component != c || decide (sha256 h.body ≠ h.digest) then some E.fwSigFail
  else if h.svn < minSvn s c then some E.fwRollback
  else none

/-- A unit runs the image of a bank; the other bank is the inactive one. -/
def unitRuns (c u k : Nat) (fell : Bool) (s : State) : State :=
  updComp c (fun x => { x with
    runBank := k
    inactive := if x.runBank = k then x.inactive else if (bankImg x (1 - k)).isEmpty then 0 else 2
    fellBack := fell
    runs := mput x.runs u (fwRun (bankImg x k))
    dead := without u x.dead }) s

/-- A unit of a component boots (R515): its boot bank, else the other, else not at all. The answer says whether the boot bank's
image ran. DESIGN CHOICE, log 53. -/
def bootUnit (c u : Nat) (s : State) : Bool × State :=
  let k := (compAt s c).bootBank
  match fwCheck s c (bankImg (compAt s c) k) with
  | none => (true, unitRuns c u k false s)
  | some e =>
    let s1 := recordErr pFlash E.fwFallback (e.setWidth 32)
      (updComp c (fun x => setBankImg k [] { x with bootBank := 1 - k }) s)
    match fwCheck s1 c (bankImg (compAt s1 c) (1 - k)) with
    | none => (false, updComp c (fun x => { x with inactive := 0 }) (unitRuns c u (1 - k) true s1))
    | some e' =>
      (false, serviceMode e' (updComp c (fun x => { x with fellBack := true, inactive := 0, runs := mdel x.runs u, dead := insertAsc u x.dead }) s1))

end Sys2Proof.Machine
end

