-- ==== Sys2Proof/Machine/Telemetry.lean ====
section
/-! DEFINITION. Telemetry converters: calibration, readings, regular and injected sequences, covered calibration and plausibility
(R466 to R476). Times are in 0.25 ns. -/

namespace Sys2Proof.Machine

open Sys2Proof

/-- Page of converter n (R466). -/
def pTel (n : Nat) : Nat := if n < 160 then fieldPage (n / 2) (4 + n % 2) else 0x3C + (n - 160)

/-- The other converter of a pair. -/
def partner (n : Nat) : Nat := if n % 2 = 0 then n + 1 else n - 1

/-- Converter n. -/
def convAt (s : State) (n : Nat) : Conv := mget .reset s.convs n
/-- Sets it. -/
def setConv (n : Nat) (x : Conv) (s : State) : State := { s with convs := mset .reset s.convs n x }
/-- Changes it. -/
def updConv (n : Nat) (f : Conv → Conv) (s : State) : State := setConv n (f (convAt s n)) s

/-- Whether a converter has no power (R474). -/
def convDark (s : State) (n : Nat) : Bool := decide (n < 160) && fieldSt s (n / 2) == .dark

/-- Microseconds and milliseconds in units of time. DESIGN CHOICE, log 13. -/
def usec (n : Nat) : Nat := 4000 * n

/-! ### Its live configuration (R477) -/

/-- RSEQ_LEN. -/
def seqLen (s : State) (n : Nat) : Nat := liveF s (pTel n) 0x40 20 16
/-- REPEAT. -/
def seqRepeat (s : State) (n : Nat) : Bool := bit (live s (pTel n) 0x40) 30
/-- RPT_US. -/
def rptUs (s : State) (n : Nat) : Nat := liveF s (pTel n) 0x40 15 0
/-- ILEN. -/
def injLen (s : State) (n : Nat) : Nat := liveF s (pTel n) 0x44 18 16
/-- Input of regular entry k. -/
def seqInput (s : State) (n k : Nat) : Nat := liveF s (pTel n) (0x48 + 4 * (k / 8)) (4 * (k % 8) + 3) (4 * (k % 8))
/-- Input of injected entry k. -/
def injInput (s : State) (n k : Nat) : Nat := liveF s (pTel n) 0x44 (4 * k + 3) (4 * k)

/-- Inputs of hub converters that are reserved (R467). -/
def inputReserved (n i : Nat) : Bool := decide (160 ≤ n) && (decide (11 ≤ i ∧ i ≤ 14) || (decide (162 ≤ n) && i == 7))

/-! ### Calibration (R469, R470) -/

/-- a / b to the nearest whole number, ties to even. -/
def roundDiv (a b : Nat) : Nat :=
  let q := a / b
  let r := a % b
  if 2 * r < b then q else if b < 2 * r then q + 1 else q + q % 2

/-- A calibrated result (R469). -/
def calibrate (raw : Nat) (ofs : BitVec 8) (gain : BitVec 16) : Nat :=
  let d : Int := (raw : Int) - ofs.toInt
  if d ≤ 0 then 0 else Nat.min 4095 (roundDiv (d.toNat * gain.toNat) (2 ^ 15))

/-- OFS and GAIN from the sums of the 112 raw results of the ground short and of REF_CAL, where they lie in range (R470). DESIGN CHOICE, log 52. -/
def calFactors (z y : Nat) : Option (BitVec 8 × BitVec 16) :=
  let ofs := roundDiv z 112
  let num := 3072 * 2 ^ 15 * 112
  let den := y - 112 * ofs
  if 127 < ofs ∨ den = 0 then none
  else
    let g := roundDiv num den
    if 24576 ≤ g ∧ g ≤ 40960 then some (BitVec.ofNat 8 ofs, BitVec.ofNat 16 g) else none

/-! ### Readings (R468) -/

/-- The reading of an input of a pair: code and time, the later of the two converters'. -/
def reading (s : State) (pair input : Nat) : Option (Nat × Nat) :=
  match mfind (convAt s (2 * pair)).readings input, mfind (convAt s (2 * pair + 1)).readings input with
  | some a, some b => if a.2 < b.2 then some b else some a
  | some a, none => some a
  | none, b => b

/-- A field's temperature: the highest reading among inputs 8 to 14 (R452, R468), as a code. -/
def fieldTemp (s : State) (f : Nat) : Option Nat :=
  let l := [8, 9, 10, 11, 12, 13, 14].filterMap fun i => (reading s f i).map (·.1)
  match l with
  | [] => none
  | a :: l => some (l.foldl Nat.max a)

/-- Whether every temperature reading of a field is older than a span. -/
def tempsOlder (s : State) (f now span : Nat) : Bool :=
  [8, 9, 10, 11, 12, 13, 14].all fun i => match reading s f i with
    | some r => decide (span < now - r.2)
    | none => true

/-! ### Covering (R475, R487) -/

/-- Whether a converter covers its partner: the partner runs a covered CAL, or has failed. -/
def covering (s : State) (n : Nat) : Bool :=
  let p := convAt s (partner n)
  (p.job == .cal true || p.failed) && !(convAt s n).failed

/-- Whether a converter runs CAL. -/
def inCal (s : State) (n : Nat) : Bool :=
  match (convAt s n).job with
  | .cal _ => true
  | _ => false

/-! ### Results -/

/-- A result word (R479). -/
def resultWord (covered : Bool) (input pass code : Nat) : Word :=
  BitVec.ofNat 32 (2 ^ 31 + 2 ^ 30 * b2n covered + 2 ^ 24 * input + 2 ^ 12 * (pass % 4096) + code)

/-- An event bit of a converter page (R479). -/
def telEvent (n i : Nat) (s : State) : State := setLive (pTel n) 0x810 (withBits (live s (pTel n) 0x810) i i 1) s

/-- Recalibration of a pair after its first failed comparison: one converter after the other, each at once or after the injected
runs in progress (R475, R476). DESIGN CHOICE, log 52. -/
def startRecal (n : Nat) (s : State) : State :=
  let a := n / 2 * 2
  let go := fun (k : Nat) (s : State) => updConv k (fun x => match x.job with
    | .injected _ | .injectedFor _ => { x with calDue := some true, calState := 1 }
    | _ => { x with job := .cal true, resume := .idle, calState := 1 }) s
  let due := (convAt s a).calDue.isSome || (convAt s (a + 1)).calDue.isSome
  if inCal s a || inCal s (a + 1) || due || convDark s a then s
  else if (convAt s a).recal then go a s
  else if (convAt s (a + 1)).recal then go (a + 1) s
  else s

/-- The thermal cap of a field pair is held at step 2, or released (R476, R487). -/
def plausHold (n : Nat) (v : Bool) (s : State) : State :=
  if n < 160 then
    let x := fieldOf s (n / 2)
    { s with fields := mset .reset s.fields (n / 2) { x with plausHold := v || x.plausLasting } }
  else s

/-- A pair that fails lastingly at stage 6 leaves the engine in service mode (R508). DESIGN CHOICE, log 52. -/
def stageSixFails (s : State) : State :=
  if s.boot.stage = 6 ∧ !s.boot.serviceMode then { s with boot := { s.boot with serviceMode := true, cause := E.telemPlausFail } } else s

/-- A failed comparison: on both pages; the first asks for a recalibration, one after it is lasting (R476, R487). DESIGN CHOICE, log 52. -/
def plausFails (n : Nat) (s : State) : State :=
  let p := partner n
  let a := n / 2 * 2
  let s := recordErrAny (pTel p) E.telemPlausFail (recordErrAny (pTel n) E.telemPlausFail (telEvent p 3 (telEvent n 3 s)))
  let x := convAt s a
  if !x.plausFail then
    plausHold n true (updConv (a + 1) (fun y => { y with recal := true })
      (updConv a (fun y => { y with plausFail := true, recal := true }) s))
  else if x.recal || (convAt s (a + 1)).recal then plausHold n true s
  else
    let s := updConv a (fun y => { y with plausFail := false }) s
    let s := if n < 160 then
        let f := fieldOf s (n / 2)
        { s with fields := mset .reset s.fields (n / 2) { f with plausHold := true, plausLasting := true } }
      else s
    report E.telemPlausFail 5 a (stageSixFails s)

/-- A passed comparison lifts the hold; it ends a failure that a recalibration has followed, which was transient (R476). -/
def plausPasses (n : Nat) (s : State) : State :=
  let a := n / 2 * 2
  let x := convAt s a
  if x.plausFail && !x.recal && !(convAt s (a + 1)).recal then
    plausHold n false (logTransient E.telemPlausFail 5 a (updConv a (fun y => { y with plausFail := false }) s))
  else plausHold n false s

/-- The comparison of a new input-15 result of converter n with its partner's latest (R476). DESIGN CHOICE, log 52. -/
def plausCheck (n code now : Nat) (s : State) : State :=
  match mfind (convAt s (partner n)).readings 15 with
  | some (c, t) =>
    if now - t < usec 1000 then
      let d := dist code c
      let put := fun (k : Nat) (s : State) => setLive (pTel k) 0x818 (BitVec.ofNat 32 d) s
      let s := put (partner n) (put n s)
      if 24 < d then plausFails n s else plausPasses n s
    else s
  | none => s

/-- A regular result of entry k of converter n, converted by itself or by its partner, from a raw code of `by`. -/
def regularResult (n k by_ raw now : Nat) (s : State) : State :=
  let i := seqInput s n k
  let y := convAt s by_
  let code := if inputReserved n i then 0 else calibrate raw y.ofs y.gain
  let s := setLive (pTel n) (0x840 + 4 * k) (resultWord (n != by_) i (convAt s n).passes code) s
  let s := updConv n (fun x => { x with readings := mput x.readings i (code, now) }) s
  let s := if n < 160 ∧ 8 ≤ i ∧ i ≤ 14 then
      { s with fields := mset .reset s.fields (n / 2) { fieldOf s (n / 2) with stale := false } }
    else s
  if i = 15 then plausCheck n code now s else s

/-- An injected result of entry k of converter n. -/
def injectedResult (n k by_ raw : Nat) (s : State) : State :=
  let i := injInput s n k
  let y := convAt s by_
  let code := if inputReserved n i then 0 else calibrate raw y.ofs y.gain
  setLive (pTel n) (0x880 + 4 * k) (resultWord (n != by_) i (liveF s (pTel n) 0x814 31 16) code) s

/-! ### Sequences (R471 to R474) -/

/-- A pass starts at entry 0. -/
def startPass (n now : Nat) (s : State) : State :=
  if seqLen s n = 0 then updConv n (fun x => { x with job := .idle, running := false, startDue := false }) s
  else updConv n (fun x => { x with job := .regular 0, resume := .idle, running := true, entry := 0, passAt := now, startDue := false }) s

/-- A pass has ended, its extension included: the next starts now, later, or not at all (R472). -/
def passDone (n now : Nat) (s : State) : State :=
  let x := convAt s n
  if !x.running then setConv n { x with job := .idle } s
  else if seqRepeat s n then
    if rptUs s n = 0 ∨ x.passAt + usec (rptUs s n) ≤ now then startPass n now s
    else setConv n { x with job := .idle, entry := 0 } s
  else telEvent n 0 (setConv n { x with job := .idle, running := false, entry := 0 } s)

/-- What follows entry k of the own sequence. DESIGN CHOICE, log 52. -/
def afterRegular (n k now : Nat) (s : State) : State :=
  let x := convAt s n
  if !x.running then setConv n { x with job := .idle } s
  else if k + 1 < seqLen s n then setConv n { x with job := .regular (k + 1), entry := k + 1 } s
  else
    let s := setConv n { x with passes := (x.passes + 1) % 65536, entry := 0 } s
    if covering s n && decide (0 < seqLen s (partner n)) then updConv n (fun x => { x with job := .regularFor 0 }) s
    else passDone n now s

/-- What follows entry k of the partner's sequence. DESIGN CHOICE, log 52. -/
def afterCovered (n k now : Nat) (s : State) : State :=
  if covering s n && decide (k + 1 < seqLen s (partner n)) then updConv n (fun x => { x with job := .regularFor (k + 1) }) s
  else passDone n now s

/-- What a converter does once its injected runs or its CAL are over (R474). -/
def goOn (n now : Nat) (s : State) : State :=
  let x := convAt s n
  match x.calDue with
  | some c => setConv n { x with calDue := none, job := .cal c, calState := 1 } s
  | none =>
    if x.startDue then startPass n now s
    else match x.resume with
      | .idle =>
        if x.running && seqRepeat s n && decide (x.passAt + usec (rptUs s n) ≤ now) then startPass n now s
        else setConv n { x with job := .idle } s
      | j => setConv n { x with job := if x.running then j else .idle, resume := .idle } s

/-- An injected run has ended, that of a covered partner included. -/
def injectedDone (n now : Nat) (s : State) : State :=
  let x := convAt s n
  if x.injPending then setConv n { x with job := .injected 0, injPending := false, cause := x.nextCause, nextCause := 0 } s
  else goOn n now s

/-- What follows injected entry k of the own sequence. -/
def afterInjected (n k now : Nat) (s : State) : State :=
  if k + 1 < injLen s n then updConv n (fun x => { x with job := .injected (k + 1) }) s
  else
    let s := telEvent n 1 (countUp (pTel n) 0x814 31 16 1 s)
    if covering s n && decide (0 < injLen s (partner n)) then updConv n (fun x => { x with job := .injectedFor 0 }) s
    else injectedDone n now s

/-- What follows injected entry k of the partner's sequence. -/
def afterInjCovered (n k now : Nat) (s : State) : State :=
  if covering s n && decide (k + 1 < injLen s (partner n)) then updConv n (fun x => { x with job := .injectedFor (k + 1) }) s
  else injectedDone n now (telEvent (partner n) 1 s)

/-- CONVERSION_DONE: the result is written and the next entry converts, or a recalibration that its comparison asks for begins. DEDUCED, log 10. -/
def conversionDone (n raw now : Nat) (s : State) : State :=
  if convDark s n then s
  else match (convAt s n).job with
    | .regular k => startRecal n (afterRegular n k now (regularResult n k n raw now s))
    | .regularFor k => startRecal n (afterCovered n k now (regularResult (partner n) k n raw now s))
    | .injected k => afterInjected n k now (injectedResult n k n raw s)
    | .injectedFor k => afterInjCovered n k now (injectedResult (partner n) k n raw s)
    | _ => s

/-- TEL_REPEAT: a repeat pass starts. DEDUCED, log 10. -/
def telRepeat (n now : Nat) (s : State) : State :=
  let x := convAt s n
  if x.job = .idle ∧ x.running ∧ seqRepeat s n ∧ x.passAt + usec (rptUs s n) ≤ now ∧ !convDark s n then startPass n now s else s

/-- A commit of a converter's page (R471, R474). DESIGN CHOICE, log 52. -/
def telCommit (n now : Nat) (s : State) : State :=
  let x := convAt s n
  let busy := match x.job with
    | .injected _ | .injectedFor _ | .cal _ => true
    | _ => false
  if bit (live s (pTel n) 0x40) 31 then
    if seqLen s n = 0 then
      (if busy then setConv n { x with running := false, resume := .idle, startDue := false } s
       else setConv n { x with job := .idle, running := false } s)
    else if busy then setConv n { x with startDue := true, running := true, resume := .idle, entry := 0 } s
    else startPass n now s
  else if busy then setConv n { x with running := false, resume := .idle, startDue := false } s
  else setConv n { x with running := false, startDue := false } s

/-- A trigger reaches a converter (R473, R474). -/
def injTrigger (n k : Nat) (s : State) : State :=
  let x := convAt s n
  let c : BitVec 3 := BitVec.ofNat 3 (2 ^ k)
  if convDark s n || x.failed || !bit (live s (pTel n) 0x40) 29 || injLen s n == 0 || !bit (live s (pTel n) 0x44) (20 + k) then s
  else match x.job with
    | .cal true => s
    | .cal false => setConv n { x with job := .injected 0, calState := 3, cause := c } s
    | .injected _ | .injectedFor _ => setConv n { x with injPending := true, nextCause := x.nextCause ||| c } s
    | j => setConv n { x with job := .injected 0, resume := j, cause := c } s

/-- A trigger that both converters of a field see. DESIGN CHOICE, log 51. -/
def fieldTrigger (f k : Nat) (s : State) : State := injTrigger (2 * f + 1) k (injTrigger (2 * f) k s)

/-! ### CAL (R470, R475) -/

/-- CAL, covered or not. DESIGN CHOICE, log 52. -/
def startCal (n : Nat) (cover : Bool) (s : State) : State :=
  let x := convAt s n
  let p := partner n
  if inCal s n || inCal s p || convDark s p then
    recordErrAny (pTel n) E.telemBusy (if inCal s n then s else setConv n { x with calState := 3 } s)
  else match x.job with
    | .injected _ | .injectedFor _ => setConv n { x with calDue := some cover, calState := 1 } s
    | j => setConv n { x with job := .cal cover, resume := if cover then .idle else j, calState := 1 } s

/-- What a CAL has measured is stored or rejected; two failures in succession mark the converter failed (R470, R487). DESIGN CHOICE, log 51. DESIGN CHOICE, log 52. -/
def calOutcome (n z y : Nat) (s : State) : State :=
  match calFactors z y with
  | some (o, g) =>
    let was := (convAt s n).calFails
    let s := updConv n (fun x => { x with ofs := o, gain := g, calState := 2, calFails := 0, recal := false }) s
    if was = 0 then s else logTransient E.telemCalFail 5 n s
  | none =>
    let k := (convAt s n).calFails + 1
    let s := recordErrAny (pTel n) E.telemCalFail (telEvent n 2 s)
    let s := updConv n (fun x => { x with calState := 3, calFails := k, recal := false }) s
    if k = 2 ∧ !(convAt s n).failed then
      report E.telemCalFail 5 n (updBoot' (updConv n (fun x => { x with failed := true, running := false }) s))
    else s
where
  /-- FLOOR_MAP is to be written. -/
  updBoot' (s : State) : State := { s with boot := { s.boot with floorDue := true } }

/-- CAL_DONE: the factors are stored, and the sequences resume: after COVER at entry 0, otherwise where CAL stopped them. -/
def calDone (n z y now : Nat) (s : State) : State :=
  match (convAt s n).job with
  | .cal cover =>
    let s := calOutcome n z y s
    let x := convAt s n
    let s := if x.failed then setConv n { x with job := .idle, resume := .idle, startDue := false } s
      else if cover && x.running then startPass n now s
      else goOn n now s
    startRecal n s
  | _ => s

end Sys2Proof.Machine
end

