-- ==== Sys2Proof/Machine/Power.lean ====
section
/-! DEFINITION. Power and heat: the input, field states and targets, bringing a field up, clock steps, capping, breakers and
connections (R434 to R456). Times are in 0.25 ns. -/

namespace Sys2Proof.Machine

open Sys2Proof

/-- Pages 0x0038 to 0x003A of the power manager. -/
def pPm : Nat := 0x38
/-- Page 0x0039. -/
def pPmField : Nat := 0x39
/-- Page 0x003A. -/
def pPmMeas : Nat := 0x3A

/-- Changes what the power manager holds. -/
def updPm (f : PowerMgr → PowerMgr) (s : State) : State := { s with pm := f s.pm }
/-- Sets a field. -/
def setField (f : Nat) (x : FieldPower) (s : State) : State := { s with fields := mset .reset s.fields f x }
/-- Changes it. -/
def updField (f : Nat) (g : FieldPower → FieldPower) (s : State) : State := setField f (g (fieldOf s f)) s

/-- The 80 fields. -/
def allFields : List Nat := List.range 80

/-- An event bit of a field's FCU page (R459). -/
def fldEvent (f i : Nat) (s : State) : State := setLive (fieldPage f 0) 0x800 (withBits (live s (fieldPage f 0) 0x800) i i 1) s

/-! ### Targets (R442) -/

/-- The order of field states. -/
def stRank : FieldSt → Nat
  | .dark => 0 | .kiln => 1 | .on => 2

/-- The configured target of a field (R464). -/
def confTarget (s : State) (f : Nat) : FieldSt :=
  match liveF s pPmField (0x40 + 4 * (f / 16)) (2 * (f % 16) + 1) (2 * (f % 16)) with
  | 1 => .kiln
  | 2 => .on
  | _ => .dark

/-- The effective target: the lowest of the configured and the imposed ones (R442). -/
def effTarget (s : State) (f : Nat) : FieldSt :=
  let x := fieldOf s f
  if x.darkBy.isSome then .dark
  else if (x.kilnCap || x.kilnHeat) && confTarget s f == .on then .kiln
  else confTarget s f

/-! ### A field goes dark (R197, R216, R222, R439, R442, R474) -/

/-- Credits that the cores of a field and its stacks hold (R94). -/
def creditsIn (s : State) (f : Nat) : Nat :=
  let cores := (s.cores.filter fun e => fieldOfCore e.1 == f).flatMap fun e => e.2.dmq.filter (·.credit)
  let chans := (s.stk.filter fun e => stackField e.1 == f).flatMap fun e => e.2.chans.filter (·.2.credit)
  cores.length + chans.length

/-- A stack whose edge field goes dark: contents, CRCs and configuration are lost; channels are IDLE (R222). -/
def stackLost (n : Nat) (s : State) : State :=
  let here := fun a => decide (stackBase + stackWin * n ≤ a) && decide (a < stackBase + stackWin * (n + 1))
  let s := { s with
    stackMem := mdrop here s.stackMem
    stackKey := mdrop (fun u => here (512 * u)) s.stackKey
    stackCrc := mdrop (fun u => here (512 * u)) s.stackCrc
    stk := mdel s.stk n }
  (List.range 8).foldl (fun s k => resetPage (stackPage n k) s) s

/-- Every placement's cores in a field that goes dark are noted as lost until a plan has moved them (R481, R491). -/
def noteLost (f : Nat) (s : State) : State :=
  (placements s).foldl (fun s e =>
    let cs := (e.2.cores.flatten).filter fun c => c / 4096 == f
    if cs.isEmpty then s else updModel e.1 (fun x => { x with lostCores := cs.foldl (fun l c => insertAsc c l) x.lostCores }) s) s

/-- Everything a field holds is lost. DEDUCED, log 49. -/
def fieldLost (f : Nat) (s : State) : State :=
  let mine := fun c => c / 4096 == f
  let conv := fun (k : Nat) (m : Map Conv) => mset .reset m k { Conv.reset with failed := (mget .reset m k).failed }
  let s := { s with
    credits := s.credits - creditsIn s f
    cores := mdrop mine s.cores
    mem := mdrop (fun a => a / 0x40000 / 4096 == f) s.mem
    badParity := s.badParity.filter fun a => a / 0x40000 / 4096 != f
    routers := mdrop mine s.routers
    tallies := mdrop (fun t => t / 384 == f) s.tallies
    waits := mdrop (fun w => w / 4 == f) s.waits
    tallyIn := mdel s.tallyIn f
    fieldUnits := mdel s.fieldUnits f
    convs := conv (2 * f + 1) (conv (2 * f) s.convs)
    boot := { s.boot with testing := without f s.boot.testing } }
  let s := (List.range 16).foldl (fun s r => resetPage (fieldPage f r) s) s
  ((List.range 24).filter fun n => stackField n == f).foldl (fun s n => stackLost n s) s

/-- A field goes dark at once, with the cause that LAST_DARK will read (R439, R447, R454). DEDUCED, log 49. -/
def goDark (f cause : Nat) (s : State) : State :=
  let x := fieldOf s f
  let keep := fun (m : Map PhaseSt) => m.filter (·.2 == .failed)
  if x.st = .dark ∧ x.attempt.isNone then updField f (fun x => { x with brkClosed := false }) s
  else
    let s := (List.range 16).foldl (fun s r => losePage (fieldPage f r) s) s
    let s := ((List.range 24).filter fun n => stackField n == f).foldl (fun s n =>
      (List.range 8).foldl (fun s k => losePage (stackPage n k) s) s) s
    let s := fieldLost f (dropBefore f (noteLost f s))
    updField f (fun x => { FieldPower.reset with
      lastDark := cause, kilnCap := x.kilnCap, kilnHeat := false, darkBy := x.darkBy, target := x.target, retryAt := none,
      vcore := keep x.vcore, vret := keep x.vret, vfab := keep x.vfab, fcA := x.fcA, fcB := x.fcB, brkLocked := x.brkLocked,
      shortAt := x.shortAt, reclosedAt := x.reclosedAt, overTemp := x.overTemp, powCap := x.powCap,
      plausHold := x.plausLasting, plausLasting := x.plausLasting }) s

/-- A dark target is imposed for a cause, and the field goes dark at once (R442). DEDUCED, log 49. -/
def imposeDark (f cause : Nat) (s : State) : State := goDark f cause (updField f (fun x => { x with darkBy := some cause }) s)

/-- Every field goes dark for a fatal condition (R497). -/
def allDark (c : Code) (cause : Nat) (s : State) : State :=
  fatal c (allFields.foldl (fun s f => imposeDark f cause s) s)

/-- A lost field is reported to the module controller as a lasting fault of scope field (R481). -/
def fieldFault (f : Nat) (c : Code) (s : State) : State := report c 2 f s

/-! ### The input (R434, R435) -/

/-- POWER_ON_VALID -/
def powerOnValid (now : Nat) (s : State) : State :=
  if s.pm.valid then s
  else updBoot (fun b => { b with stage := Nat.max b.stage 1 }) (updPm (fun p => { p with valid := true, validAt := now }) s)

/-- INPUT_LOW -/
def inputLow (s : State) : State :=
  if s.pm.inputLow then s else recordErrAny pPm E.inputLow (updPm (fun p => { p with inputLow := true }) s)

/-- INPUT_RANGE_FAIL -/
def inputRangeFail (s : State) : State := allDark E.inputRangeFail 7 (recordErrAny pPm E.inputRangeFail s)

/-! ### Capping (R449, R450) -/

/-- A hub reading of pair 80 (converters 160 and 161), as a code. DEDUCED, log 50. -/
def hubCode (s : State) (input : Nat) : Option Nat := (reading s 80 input).map (·.1)

/-- CAP_EFF in units of 1 / 240 W, so that every term of R449 is whole. DEDUCED, log 50. -/
def capEffFine (s : State) : Nat :=
  let cap := 240 * (100 * liveF s pPm 0x40 8 0)
  let low := if s.pm.connSuspect || s.pm.inputLow then 24750 * 240 else cap
  let flow := match hubCode s 10 with
    | some c => if c < 960 then 33000 * 240 * c / 960 else cap
    | none => cap
  let inlet := match hubCode s 8 with
    | some c => if 1600 < c then 33000 * 240 - 100 * 240 * (c - 1600) else cap
    | none => cap
  Nat.min (Nat.min cap low) (Nat.min flow inlet)

/-- CAP_EFF in whole watts. DEDUCED, log 50. -/
def capEff (s : State) : Nat := capEffFine s / 240

/-- How often the ladder has lowered HQ_LIMIT. -/
def limitActs (s : State) : Nat := (s.pm.acts.filter (· == .limit)).length

/-- How often it has slowed every field. -/
def slowActs (s : State) : Nat := (s.pm.acts.filter fun a => match a with
  | .slower _ => true
  | _ => false).length

/-- HQ_LIMIT of a field follows the ladder; permits are granted where it rose (R248, R450). -/
def putLimit (f : Nat) (s : State) : State :=
  if fieldSt s f = .dark then s
  else grantAll f (setLive (pHq f) 0x60 (BitVec.ofNat 32 (1920 - 384 * limitActs s)) s)

/-- HQ_LIMIT of every field. -/
def putLimits (s : State) : State := allFields.foldl (fun s f => putLimit f s) s

/-- The on field that rung 3 takes: the highest VCORE current, the lowest index on a tie. -/
def kilnVictim (s : State) : Option Nat :=
  let cur := fun f => ((reading s f 1).map (·.1)).getD 0
  (allFields.filter fun f => fieldSt s f == .on && !(fieldOf s f).kilnCap).foldl (fun best f => match best with
    | some g => if cur g < cur f then some f else some g
    | none => some f) none

/-- The next action of the ladder. DEDUCED, log 49. -/
def capAction (s : State) : State :=
  if limitActs s < 5 then putLimits (updPm (fun p => { p with acts := .limit :: p.acts }) s)
  else if slowActs s < 3 then
    let fs := allFields.filter fun f => fieldSt s f == .on && decide ((fieldOf s f).powCap < 3)
    updPm (fun p => { p with acts := .slower fs :: p.acts })
      (fs.foldl (fun s f => updField f (fun x => { x with powCap := x.powCap + 1 }) s) s)
  else match kilnVictim s with
    | some f =>
      recordErrAny pPm E.powerCapKiln (countUp pPmMeas 0x814 7 0 1
        (updPm (fun p => { p with acts := .kiln f :: p.acts }) (updField f (fun x => { x with kilnCap := true }) s)))
    | none => s

/-- The most recent action is undone. -/
def capUndo (s : State) : State :=
  match s.pm.acts with
  | [] => s
  | a :: rest =>
    let s := updPm (fun p => { p with acts := rest }) s
    match a with
    | .limit => putLimits s
    | .slower fs => fs.foldl (fun s f => updField f (fun x => { x with powCap := x.powCap - 1 }) s) s
    | .kiln f => updField f (fun x => { x with kilnCap := false }) s

/-- POWER_WINDOW_END: the window's mean power in W, and the blades' mean currents in 0.1 A. DESIGN CHOICE, log 13. DEDUCED, log 50. -/
def windowEnd (watts : Nat) (blades : List Nat) (now : Nat) (s : State) : State :=
  let s := updPm (fun p => { p with watts := watts, wattsAt := now }) s
  if capEffFine s < 240 * watts || blades.any fun b => decide (2200 < b) then
    capAction (updPm (fun p => { p with under := 0 }) (countUp pPmMeas 0x814 31 16 1 s))
  else if 10 * 240 * watts < 9 * capEffFine s then
    if s.pm.under + 1 = 10 then capUndo (updPm (fun p => { p with under := 0 }) s)
    else updPm (fun p => { p with under := p.under + 1 }) s
  else updPm (fun p => { p with under := 0 }) s

/-! ### Phases and converters (R437, R438) -/

/-- The phases of a rail that are not simply running. -/
def railPhases (x : FieldPower) : Rail → Map PhaseSt
  | .vcore => x.vcore | .vret => x.vret | .vfab => x.vfab
/-- Sets them. -/
def setRail (r : Rail) (m : Map PhaseSt) (x : FieldPower) : FieldPower :=
  match r with
  | .vcore => { x with vcore := m } | .vret => { x with vret := m } | .vfab => { x with vfab := m }
/-- Phases of a rail (R436). -/
def railSize : Rail → Nat
  | .vcore => 36 | .vret | .vfab => 8
/-- The page of a rail. -/
def railPage (f : Nat) : Rail → Nat
  | .vcore => fieldPage f 2 | .vret | .vfab => fieldPage f 3

/-- The field acts on its count of failed phases (R437, R438). DESIGN CHOICE, log 51. -/
def phasesChanged (f : Nat) (s : State) : State :=
  let x := fieldOf s f
  if x.st = .dark ∧ x.attempt.isNone then s
  else if 9 ≤ phasesDown x.vcore then fieldFault f E.phaseFail (imposeDark f 4 s)
  else if 3 ≤ phasesDown x.vret ∨ 3 ≤ phasesDown x.vfab then
    fieldFault f E.railFail (imposeDark f 6 (recordErrAny (fieldPage f 3) E.railFail s))
  else s

/-- PHASE_FAULT. DESIGN CHOICE, log 51. -/
def phaseFault (f : Nat) (r : Rail) (p : Nat) (s : State) : State :=
  let x := fieldOf s f
  if railSize r ≤ p ∨ (x.st = .dark ∧ x.attempt.isNone) then s
  else match mfind (railPhases x r) p with
    | none => phasesChanged f (fieldTrigger f 0 (setField f (setRail r (mput (railPhases x r) p .off) x) s))
    | some .retried =>
      let s := recordErrAny (railPage f r) E.phaseFail (fldEvent f 1 (fieldTrigger f 0
        (setField f (setRail r (mput (railPhases x r) p .failed) x) s)))
      phasesChanged f (report E.phaseFail 2 f (updBoot (fun b => { b with floorDue := true }) s))
    | some _ => s

/-- PHASE_RETRY_TIMER: the phase is re-enabled. -/
def phaseRetry (f : Nat) (r : Rail) (p : Nat) (s : State) : State :=
  let x := fieldOf s f
  if mfind (railPhases x r) p = some .off then fldEvent f 1 (setField f (setRail r (mput (railPhases x r) p .retried) x) s) else s

/-- PHASE_CLEAN_TIMER: the fault was transient. -/
def phaseClean (f : Nat) (r : Rail) (p : Nat) (s : State) : State :=
  let x := fieldOf s f
  if mfind (railPhases x r) p = some .retried then
    let s := recordErrAny (railPage f r) E.phaseRetry (setField f (setRail r (mdel (railPhases x r) p) x) s)
    let s := if r = .vcore then countUp (fieldPage f 2) 0x800 15 0 1 s else s
    logTransient E.phaseRetry 2 f s
  else s

/-- CONVERTER_FAULT -/
def converterFault (f : Nat) (b : Bool) (s : State) : State :=
  let x := fieldOf s f
  if (x.st = .dark ∧ x.attempt.isNone) ∨ (if b then x.fcB else x.fcA) then s
  else
    let s := updField f (fun x => if b then { x with fcB := true } else { x with fcA := true }) s
    if (if b then x.fcA else x.fcB) then fieldFault f E.convDegraded (imposeDark f 5 s)
    else report E.convDegraded 2 f (recordErrAny (fieldPage f 3) E.convDegraded s)

/-! ### Breakers (R454, R455) -/

/-- Seconds in units of time. -/
def seconds (n : Nat) : Nat := 4000000000 * n

/-- BREAKER_TRIP -/
def breakerTrip (f : Nat) (overTemp : Bool) (now : Nat) (s : State) : State :=
  let x := fieldOf s f
  if !x.brkClosed then s
  else if overTemp then
    fieldFault f E.overTemp (recordErrAny pPm E.overTemp (goDark f 3 (updField f (fun x => { x with overTemp := true }) s)))
  else
    let lock := match x.reclosedAt with
      | some t => decide (now - t ≤ seconds 60)
      | none => false
    let s := updField f (fun x => { x with shortAt := some now, brkLocked := x.brkLocked || lock }) s
    let s := recordErrAny pPm E.fieldShort (goDark f 2 s)
    let s := if lock then recordErrAny pPmField E.breakerLocked s else s
    fieldFault f E.fieldShort s

/-- RECLOSE (R455, R464). DESIGN CHOICE, log 51. -/
def reclose (f now : Nat) (s : State) : State :=
  let x := fieldOf s f
  let early := match x.shortAt with
    | some t => decide (now - t < seconds 10)
    | none => false
  if decide (80 ≤ f) || x.st != .dark || x.brkLocked || early then
    let v := freshWord s
    setLive pPmField 0x804 (BitVec.ofNat 32 (Nat.max 1 (bits v.1 15 0))) v.2
  else
    let s := setLive pPmField 0x804 0 s
    if x.shortAt.isSome then updField f (fun x => { x with shortAt := none, reclosedAt := some now }) s else s

/-! ### Bringing a field up (R443 to R447) -/

/-- The VCORE current limit of a field in A (R451). DEDUCED, log 49. -/
def currentLimit (s : State) (f : Nat) : Nat :=
  Nat.min (liveF s (fieldPage f 2) 0x40 9 0) (20 * (36 - phasesDown (fieldOf s f).vcore))

/-- Fields that share an edge with a field (R9, R444). -/
def edgeFields (f : Nat) : List Nat :=
  (if 10 ≤ f then [f - 10] else []) ++ (if f % 10 = 0 then [] else [f - 1]) ++ (if f % 10 = 9 then [] else [f + 1])
    ++ (if f < 70 then [f + 10] else [])

/-- Whether a neighbour's measured VCORE current allows a stage: below 85 % of its limit and fresh; a dark field counts as 0 A. `add`
lists fields whose stages started in this tick (R444, R445). -/
def currentLow (s : State) (now : Nat) (add : List Nat) (g : Nat) : Bool :=
  if fieldSt s g = .dark then true
  else match reading s g 1 with
    | some (c, t) =>
      let stageA := if add.contains g then 100 * liveF s pPm 0x48 25 16 else 0
      decide (now - t ≤ usec 1000) && decide (20 * c + stageA < 85 * currentLimit s g)
    | none => false

/-- Both conditions of R444 at a tick. DEDUCED, log 49. -/
def stageMay (s : State) (now : Nat) (add : List Nat) (f : Nat) : Bool :=
  let inrush := liveF s pPm 0x44 15 0
  (edgeFields f).all (currentLow s now add) && decide (now - s.pm.wattsAt ≤ usec 1000)
    && decide (240 * (s.pm.watts + inrush * add.length + inrush) ≤ capEffFine s)

/-- An attempt ends: the field is back in the state it held before it (R446, R447). DEDUCED, log 49. -/
def attemptEnds (f : Nat) (s : State) : State :=
  updField f (fun x => { x with attempt := none, brkClosed := x.brkClosed && x.st != .dark }) s

/-- A stage deferred at 256 consecutive evaluations (R446). DESIGN CHOICE, log 16. -/
def deferTimeout (f : Nat) (b : Beat) (s : State) : State :=
  let s := recordErrAny pPm E.powerDeferTimeout (fldEvent f 0 (attemptEnds f s))
  updField f (fun x => { x with retryAt := some (b + BitVec.ofNat 48 (liveF s pPm 0x48 15 0)) }) s

/-- The stage of field f is evaluated at a tick; the answer lists the fields started in this tick. -/
def evalStage (f now : Nat) (b : Beat) (add : List Nat) (s : State) : List Nat × State :=
  match (fieldOf s f).attempt with
  | some a =>
    if a.running ∨ 8 < a.stage then (add, s)
    else if stageMay s now add f then
      (add ++ [f], updField f (fun x => { x with
        attempt := some { a with running := true, defers := 0 }, stage := a.stage, brkClosed := true }) s)
    else if a.defers + 1 = 256 then (add, deferTimeout f b s)
    else (add, updField f (fun x => { x with attempt := some { a with defers := a.defers + 1 } }) s)
  | none => (add, s)

/-- The field is on: its clock starts at the effective step, kiln state resumes; after dark its banks are clear and its self-test
starts (R216, R444, R511). -/
def fieldOnNow (f : Nat) (s : State) : State :=
  let x := fieldOf s f
  let s := fldEvent f 2 (setField f { x with st := .on, attempt := none, wasDark := false, clk := effStep s f } s)
  let s := if x.wasDark then updBoot (fun b => { b with testing := insertAsc f b.testing }) s else s
  { s with cores := s.cores.map fun e =>
      if fieldOfCore e.1 = f then
        (e.1, { e.2 with threads := e.2.threads.map fun t => if t.2.wait = .quota then (t.1, { t.2 with met := true }) else t })
      else e }

/-- Kiln begins at a tick: issue stops, units finish (R440). -/
def kilnBegins (f : Nat) (s : State) : State :=
  fldEvent f 2 (updField f (fun x => { x with st := .kiln, kilnEntry := true }) s)

/-- KILN_ENTRY_DONE: clocks stop; permits are released and the request queue is emptied (R249, R440). -/
def kilnEntryDone (f : Nat) (s : State) : State :=
  if (fieldOf s f).kilnEntry then
    let s := updField f (fun x => { x with kilnEntry := false }) s
    setUnits f { unitsOf s f with permits := [], quotaQ := [] } s
  else s

/-- Targets at a tick: falls take effect, rises wait for a ramp slot in ascending field index (R442, R445, R447). -/
def targetStep (f : Nat) (s : State) : State :=
  let x := fieldOf s f
  let t := effTarget s f
  let rose := stRank x.target < stRank t
  let s := updField f (fun x => { x with target := t }) s
  if t = .dark then
    (if x.st = .dark ∧ x.attempt.isNone then updField f (fun x => { x with waitNo := none, retryAt := none }) s
     else goDark f (x.darkBy.getD 1) (updField f (fun x => { x with waitNo := none }) s))
  else
    let s := if t = .kiln ∧ x.st = .on then kilnBegins f s
      else if t = .kiln ∧ x.st = .kiln then updField f (fun x => { x with attempt := none, waitNo := none, retryAt := none }) s
      else s
    let x := fieldOf s f
    if stRank x.st < stRank t ∧ x.attempt.isNone ∧ x.waitNo.isNone ∧ (rose ∨ x.retryAt.isNone) then
      updPm (fun p => { p with nextWait := p.nextWait + 1 })
        (updField f (fun x => { x with waitNo := some s.pm.nextWait, retryAt := none }) s)
    else s

/-- Whether a waiting field may start an attempt: its breaker may close (R455). -/
def mayStart (s : State) (f : Nat) : Bool :=
  let x := fieldOf s f
  x.waitNo.isSome && !x.kilnEntry && (x.st != .dark || (x.shortAt.isNone && !x.brkLocked))

/-- The waiting field whose target rose first. -/
def firstWaiting (s : State) : Option Nat :=
  (allFields.filter (mayStart s)).foldl (fun best f => match best with
    | some g => if (fieldOf s f).waitNo.getD 0 < (fieldOf s g).waitNo.getD 0 then some f else some g
    | none => some f) none

/-- Ramp slots go to waiting fields, at most `n` more (R445). -/
def giveSlots : Nat → State → State
  | 0, s => s
  | n + 1, s =>
    if (allFields.filter fun f => (fieldOf s f).attempt.isSome).length < liveF s pPm 0x44 22 16 then
      match firstWaiting s with
      | some f =>
        giveSlots n (updField f (fun x => { x with
          waitNo := none, attempt := some ⟨if x.st = .dark then 0 else 1, false, 0⟩ }) s)
      | none => s
    else s

/-- The power manager's part of a tick (R36 step 6, R440 to R446): fields whose last stage has ended are on, targets act, slots
are given and stages are evaluated in ascending field index. -/
def powerTick (now : Nat) (b : Beat) (s : State) : State :=
  let s := allFields.foldl (fun s f => match (fieldOf s f).attempt with
    | some a => if a.stage = 9 then fieldOnNow f s else s
    | none => s) s
  let s := allFields.foldl (fun s f => if restarts s 2 f then s else targetStep f s) s
  let s := giveSlots 80 s
  (allFields.foldl (fun q f => evalStage f now b q.1 q.2) (([] : List Nat), s)).2

/-- BEAT_LOST: fields part way through a ramp return to their state before the attempt, which ends with BEAT_LOST (R39); they wait
for a slot again. DEDUCED, log 49. -/
def powerBeatLost (s : State) : State :=
  allFields.foldl (fun s f => if (fieldOf s f).attempt.isSome then attemptEnds f s else s) s

/-- VCORE_STAGE_END -/
def stageEnd (f : Nat) (s : State) : State :=
  match (fieldOf s f).attempt with
  | some a =>
    if a.running ∧ 1 ≤ a.stage then updField f (fun x => { x with attempt := some ⟨a.stage + 1, false, 0⟩ }) s else s
  | none => s

/-- POWER_RETRY: PM_RETRY beats have passed, and a new attempt may start. -/
def powerRetry (f : Nat) (s : State) : State :=
  match (fieldOf s f).retryAt with
  | some b => if (s.beat.now - b).toNat < 2 ^ 47 then updField f (fun x => { x with retryAt := none }) s else s
  | none => s

/-- Key slots of every bound tenant go into a controller that has lost them (R415). -/
def reloadKeys (n : Nat) (s : State) : State :=
  s.sec.tenants.foldl (fun s e =>
    setStack n { stackAt s n with keys := mput (stackAt s n).keys e.1 (storeKeyOf e.2 (s.sec.bootId.getD 0)) } s) s

/-- CAL outcomes of one converter at a rail stage: the first, and a second where the first is rejected (R470, R510). -/
def railCals (n : Nat) (l : List (Nat × Nat)) (s : State) : State :=
  match l with
  | [] => s
  | q :: rest =>
    let t := calOutcome n q.1 q.2 s
    match (convAt t n).calState, rest with
    | 3, r :: _ => calOutcome n r.1 r.2 t
    | _, _ => t

/-- The sequences of TEL_SEQ are committed with START, REPEAT and INJ_ARM (R510). -/
def railSeq (n : Nat) (l : List Nat) (now : Nat) (s : State) : State :=
  let w := fun k => BitVec.ofNat 32 (l.getD k 0)
  let s := setBoth (pTel n) 0x4C (w 3) (setBoth (pTel n) 0x48 (w 2) (setBoth (pTel n) 0x44 (w 1)
    (setBoth (pTel n) 0x40 (w 0 ||| 0xE0000000) s)))
  telCommit n now s

/-- The values of the example of ch. 19 (R507). DESIGN CHOICE, log 52. -/
def telDefaults (b : Bool) : List Nat := [0xE0080064, 0x00730701, if b then 0x5F6EDB91 else 0x4F0ECA81, 0]

/-- Both converters of a pair have failed: a field gets a dark target, hub converters 0 and 1 are MEASURE_LOST (R487). -/
def pairLost (n : Nat) (s : State) : State :=
  if (convAt s n).failed && (convAt s (partner n)).failed then
    if n < 160 then fieldFault (n / 2) E.telemCalFail (imposeDark (n / 2) 9 s)
    else if n < 162 then allDark E.measureLost 10 s
    else s
  else s

/-- RAIL_STAGE_DONE: the FCU boots and reports READY, its converters are calibrated and configured, key slots are restored, and the
field is in kiln (R415, R443, R510, R515). DEDUCED, log 49. -/
def railDone (f : Nat) (calA calB : List (Nat × Nat)) (s : State) : State :=
  match (fieldOf s f).attempt with
  | some a =>
    if a.stage ≠ 0 ∨ !a.running then s
    else
      let now := s.beat.tickAt
      let boot := bootUnit 2 f s
      let s := boot.2
      if (compAt s 2).dead.contains f then fieldFault f E.fwSigFail (imposeDark f 11 s)
      else
        let s := fldEvent f 2 (updField f (fun x => { x with
          st := .kiln, ready := true, unrouted := s.boot.serviceReady, overTemp := false, attempt := some ⟨1, false, 0⟩ }) s)
        let cfg := s.boot.cfg
        let seqA := (cfg.map (·.telA)).getD (telDefaults false)
        let seqB := (cfg.map (·.telB)).getD (telDefaults true)
        let s := railSeq (2 * f + 1) seqB now (railSeq (2 * f) seqA now (railCals (2 * f + 1) calB (railCals (2 * f) calA s)))
        let s := putLimit f (pairLost (2 * f) s)
        let s := ((List.range 24).filter fun n => stackField n == f).foldl (fun s n =>
          let t := (bootUnit 3 n s).2
          if (compAt t 3).dead.contains n then imposeDark f 11 t else reloadKeys n t) s
        if effTarget s f = .kiln then updField f (fun x => { x with attempt := none }) s else s
  | none => s

/-! ### Clock, heat and current (R448, R451 to R453, R468) -/

/-- CLOCK_STEP_DONE -/
def clockStepDone (f : Nat) (s : State) : State :=
  if fieldSt s f = .dark ∨ restarts s 2 f then s else updField f (fun x => { x with clk := effStep s f }) s

/-- The code of a temperature in °C (R467). -/
def tempCode (t : Nat) : Nat := 20 * (t + 40)

/-- THERMAL_EVAL. DEDUCED, log 50. -/
def thermalEval (f : Nat) (s : State) : State :=
  if fieldSt s f = .dark then s
  else match fieldTemp s f with
    | none => s
    | some c =>
      let s := if tempCode (liveF s pPm 0x4C 7 0) ≤ c then fldEvent f 3 s else s
      let tCap := liveF s pPm 0x4C 15 8
      let x := fieldOf s f
      let x := if tempCode tCap ≤ c then
          if x.hot + 1 = 10 then { x with hot := 0, thermCap := Nat.min 3 (x.thermCap + 1) } else { x with hot := x.hot + 1 }
        else { x with hot := 0 }
      let x := if c < tempCode (tCap - 5) then
          let y := if x.cool + 1 = 100 then { x with cool := 0, thermCap := x.thermCap - 1 } else { x with cool := x.cool + 1 }
          if 1000 ≤ y.coolKiln + 1 then { y with coolKiln := 1000, kilnHeat := false } else { y with coolKiln := y.coolKiln + 1 }
        else { x with cool := 0, coolKiln := 0 }
      let x := if tempCode (liveF s pPm 0x4C 23 16) ≤ c then { x with kilnHeat := true } else x
      setField f x s

/-- CURRENT_LIMIT_TIMER -/
def currentTimer (f : Nat) (above : Bool) (s : State) : State :=
  updField f (fun x => { x with powCap := if above then Nat.min 3 (x.powCap + 1) else x.powCap - 1 }) s

/-- COOLANT_LOSS (R453, R458). -/
def coolantLoss (s : State) : State :=
  allDark E.coolantLoss 8 (updPm (fun p => { p with coolantTrip := true }) (recordErrAny pPm E.coolantLoss s))

/-- Whether flow or inlet temperature lies outside the range of R453. -/
def coolantOut (s : State) : Bool :=
  (match hubCode s 10 with
    | some c => decide (c < 960)
    | none => false) ||
  (match hubCode s 8 with
    | some c => decide (c < 1200 ∨ 1600 < c)
    | none => false)

/-- COOLANT_LOW: set and recorded while the readings lie outside the range, cleared once they are back. DEDUCED, log 50. -/
def coolantLow (s : State) : State :=
  if coolantOut s then
    if s.pm.coolantLow then s else recordErrAny pPm E.coolantLow (updPm (fun p => { p with coolantLow := true }) s)
  else updPm (fun p => { p with coolantLow := false }) s

/-- CONN_SUSPECT (R456). -/
def connSuspect (blade : Nat) (s : State) : State :=
  if s.pm.connSuspect then s
  else report E.connSuspect 2 blade (recordErr pPm E.connSuspect (BitVec.ofNat 32 blade) (updPm (fun p => { p with connSuspect := true }) s))

/-- TELEM_STALE (R468). -/
def telemStale (f now : Nat) (s : State) : State :=
  if fieldSt s f = .on ∧ tempsOlder s f now (usec 10000) ∧ !(fieldOf s f).stale then
    recordErrAny (fieldPage f 0) E.telemStale (updField f (fun x => { x with stale := true }) s)
  else s

/-! ### Commands -/

/-- POWER_ON_VALID (R434) -/
def execPowerOnValid (now : Nat) (s : State) : Result := .next (powerOnValid now s)
/-- INPUT_LOW (R434) -/
def execInputLow (s : State) : Result := .next (inputLow s)
/-- INPUT_LOW_CLEAR (R434) -/
def execInputLowClear (s : State) : Result := .next (updPm (fun p => { p with inputLow := false }) s)
/-- INPUT_HIGH (R434) -/
def execInputHigh (s : State) : Result := .next (countUp pPmMeas 0x814 15 8 1 s)
/-- INPUT_RANGE_FAIL (R434) -/
def execInputRangeFail (s : State) : Result := .next (inputRangeFail s)
/-- POWER_WINDOW_END (R435) -/
def execPowerWindowEnd (watts : Nat) (blades : List Nat) (now : Nat) (s : State) : Result := .next (windowEnd watts blades now s)
/-- PHASE_FAULT (R437) -/
def execPhaseFault (f : Fin 80) (r : Rail) (p : Fin 36) (s : State) : Result := .next (phaseFault f.val r p.val s)
/-- PHASE_RETRY_TIMER (R437) -/
def execPhaseRetryTimer (f : Fin 80) (r : Rail) (p : Fin 36) (s : State) : Result := .next (phaseRetry f.val r p.val s)
/-- PHASE_CLEAN_TIMER (R437) -/
def execPhaseCleanTimer (f : Fin 80) (r : Rail) (p : Fin 36) (s : State) : Result := .next (phaseClean f.val r p.val s)
/-- CONVERTER_FAULT (R438) -/
def execConverterFault (f : Fin 80) (b : Bool) (s : State) : Result := .next (converterFault f.val b s)
/-- BREAKER_TRIP (R454) -/
def execBreakerTrip (f : Fin 80) (overTemp : Bool) (now : Nat) (s : State) : Result := .next (breakerTrip f.val overTemp now s)
/-- KILN_ENTRY_DONE (R440) -/
def execKilnEntryDone (f : Fin 80) (s : State) : Result := .next (kilnEntryDone f.val s)
/-- VCORE_STAGE_END (R444) -/
def execVcoreStageEnd (f : Fin 80) (s : State) : Result := .next (stageEnd f.val s)
/-- RAIL_STAGE_DONE (R443) -/
def execRailStageDone (f : Fin 80) (calA calB : List (Nat × Nat)) (s : State) : Result := .next (railDone f.val calA calB s)
/-- POWER_RETRY (R446) -/
def execPowerRetry (f : Fin 80) (s : State) : Result := .next (powerRetry f.val s)
/-- CLOCK_STEP_DONE (R448) -/
def execClockStepDone (f : Fin 80) (s : State) : Result := .next (clockStepDone f.val s)
/-- THERMAL_EVAL (R452) -/
def execThermalEval (f : Fin 80) (s : State) : Result := .next (thermalEval f.val s)
/-- CURRENT_LIMIT_TIMER (R451) -/
def execCurrentLimitTimer (f : Fin 80) (above : Bool) (s : State) : Result := .next (currentTimer f.val above s)
/-- COOLANT_LOSS (R453) -/
def execCoolantLoss (s : State) : Result := .next (coolantLoss s)
/-- COOLANT_LOW (R453) -/
def execCoolantLow (s : State) : Result := .next (coolantLow s)
/-- CONN_SUSPECT (R456) -/
def execConnSuspect (b : Fin 4) (s : State) : Result := .next (connSuspect b.val s)
/-- RECLOSE (R455) -/
def execReclose (m : Master) (f : BitVec 7) (now : Nat) (s : State) : Result := .next (viaBar m (reclose f.toNat now) s)
/-- CONVERSION_DONE (R472) -/
def execConversionDone (n : Fin 164) (raw : BitVec 12) (now : Nat) (s : State) : Result :=
  .next (conversionDone n.val raw.toNat now s)
/-- TEL_REPEAT (R472) -/
def execTelRepeat (n : Fin 164) (now : Nat) (s : State) : Result := .next (telRepeat n.val now s)
/-- INJECTED_TRIGGER (R473) -/
def execInjectedTrigger (n : Fin 164) (k : Fin 3) (s : State) : Result := .next (injTrigger n.val k.val s)
/-- CAL (R470) -/
def execCal (m : Master) (n : Fin 164) (s : State) : Result :=
  .next (onPage m (pTel n.val) 0x800 (startCal n.val false) s)
/-- CAL_COVER (R475) -/
def execCalCover (m : Master) (n : Fin 164) (s : State) : Result :=
  .next (onPage m (pTel n.val) 0x800 (startCal n.val true) s)
/-- CAL_DONE (R470) -/
def execCalDone (n : Fin 164) (z y now : Nat) (s : State) : Result := .next (pairLost n.val (calDone n.val z y now s))
/-- TELEM_STALE (R468) -/
def execTelemStale (f : Fin 80) (now : Nat) (s : State) : Result := .next (telemStale f.val now s)

end Sys2Proof.Machine
end

