-- ==== Sys2Proof/Machine/Waypoints.lean ====
section
/-! DEFINITION. What the module controller's waypoints must satisfy: every field reaches every other around the dark fields, and no
cycle of dependences between queues forms on either plane (R198). -/

namespace Sys2Proof.Machine

open Sys2Proof

/-- Where a leg begins or ends: a field, and along X and Y whether at its low edge (0), its high edge (1) or anywhere in it (2). -/
structure Spot where
  field : Nat
  x : Nat
  y : Nat
  deriving DecidableEq, Repr

/-- Anywhere in a field. -/
def anywhere (f : Nat) : Spot := ⟨f, 2, 2⟩

/-- Numbers from a to b, in that order, both included. -/
def spanOf (a b : Nat) : List Nat :=
  if a ≤ b then (List.range (b + 1 - a)).map (a + ·) else (List.range (a + 1 - b)).map (a - ·)

/-- Directions in which a message may move along a dimension: `up` or `down` between fields a and b, inside one field either, but
from or to an edge of it. -/
def dirsOf (up down a ea b eb : Nat) : List Nat :=
  if a < b then [up] else if b < a then [down]
  else (if eb = 0 ∨ ea = 1 then [] else [up]) ++ (if eb = 1 ∨ ea = 0 then [] else [down])

/-- A leg of a way on a plane: the fields along its first and its second dimension, and the directions of each (R180). -/
structure Leg where
  first : List Nat
  firstDirs : List Nat
  second : List Nat
  secondDirs : List Nat
  deriving DecidableEq, Repr

/-- The leg from spot a to spot b. -/
def legOf (plane : Bool) (a b : Spot) : Leg :=
  let ax := a.field % 10
  let ay := a.field / 10
  let bx := b.field % 10
  let bY := b.field / 10
  let xs := dirsOf 4 3 ax a.x bx b.x
  let ys := dirsOf 1 2 ay a.y bY b.y
  if plane then
    { first := (spanOf ay bY).map fun y => 10 * y + ax, firstDirs := ys, second := (spanOf ax bx).map fun x => 10 * bY + x, secondDirs := xs }
  else
    { first := (spanOf ax bx).map fun x => 10 * ay + x, firstDirs := xs, second := (spanOf ay bY).map fun y => 10 * y + bx, secondDirs := ys }

/-- Whether a leg enters a dark field, `dark` saying which are. -/
def legBlocked (dark : Nat → Bool) (l : Leg) : Bool := l.first.any dark || l.second.any dark

/-- The queues of a field that carry one direction. -/
def dirNode (f d : Nat) : Nat := 8 * f + d

/-- Queues of consecutive fields in one direction: each waits for the next. -/
def straightDeps (d : Nat) : List Nat → List (Nat × Nat)
  | a :: b :: l => (dirNode a d, dirNode b d) :: straightDeps d (b :: l)
  | _ => []

/-- Queues of a field in some directions wait for those in others. -/
def turnDeps (f : Nat) (before after : List Nat) : List (Nat × Nat) :=
  before.flatMap fun d => after.filterMap fun e => if d = e then none else some (dirNode f d, dirNode f e)

/-- Dependences between queues on a leg. -/
def legDeps (l : Leg) : List (Nat × Nat) :=
  (l.firstDirs.flatMap fun d => straightDeps d l.first) ++ turnDeps (l.second.headD 0) l.firstDirs l.secondDirs
    ++ l.secondDirs.flatMap fun d => straightDeps d l.second

/-- Dependences at field w, where one leg ends and the next begins: a message arrives in a direction in which it last moves, and
leaves in one in which it first moves. -/
def joinDeps (w : Nat) (l k : Leg) : List (Nat × Nat) :=
  turnDeps w (if l.second.length = 1 then l.firstDirs ++ l.secondDirs else l.secondDirs)
    (if k.first.length = 1 then k.firstDirs ++ k.secondDirs else k.firstDirs)

/-- The waypoint of a routing entry, none where the entry is not valid. -/
def waySpot (w : Word) : Option Spot :=
  let edge := fun (v top : Nat) => if v = 0 then 0 else if v = top then 1 else 2
  if bit w 31 then some ⟨bits w 19 13, edge (bits w 5 0) 63, edge (bits w 11 6) 59⟩ else none

/-- A way from field a to field b by an entry: it enters no dark field; without a waypoint it may, where no waypoint would help. -/
def wayOk (dark : Nat → Bool) (plane : Bool) (a b : Nat) (e : Option Spot) : Bool :=
  let clear := fun a b => !legBlocked dark (legOf plane a b)
  let a := anywhere a
  let b := anywhere b
  match e with
  | some w => clear a w && clear w b
  | none => clear a b || (List.range 80).all fun w => !(clear a (anywhere w) && clear (anywhere w) b)

/-- Dependences of a way. -/
def wayDeps (plane : Bool) (a b : Nat) (e : Option Spot) : List (Nat × Nat) :=
  match e with
  | some w =>
    let l := legOf plane (anywhere a) w
    let k := legOf plane w (anywhere b)
    legDeps l ++ legDeps k ++ joinDeps w.field l k
  | none => legDeps (legOf plane (anywhere a) (anywhere b))

/-- For each queue, as a set of bits, the queues on which it depends directly. -/
def depSets (l : List (Nat × Nat)) : Array Nat :=
  l.foldl (fun r e => r.modify e.1 fun s => s ||| 2 ^ e.2) (Array.replicate 640 0)

/-- Each queue with the dependences of those on which it depends, n times over. -/
def closeSets : Nat → Array Nat → Array Nat
  | 0, r => r
  | n + 1, r =>
    closeSets n (r.map fun s => (List.range 640).foldl (fun t v => if s.testBit v then t ||| r.getD v 0 else t) s)

/-- Whether a cycle of dependences can run through a queue: one that turns back, or that comes round through all four directions. -/
def cycleAt (r : Array Nat) (u : Nat) : Bool :=
  let tied := fun v => (r.getD u 0).testBit v && (r.getD v 0).testBit u
  [1, 2, 3, 4].all fun d => (List.range 80).any fun f => tied (dirNode f d)

/-- Whether a queue waits for one of the opposite direction that waits for it. -/
def turnsBack (r : Array Nat) (e : Nat × Nat) : Bool :=
  (r.getD e.2 0).testBit e.1 && [(1, 2), (2, 1), (3, 4), (4, 3)].contains (e.1 % 8, e.2 % 8)

/-- No cycle forms among dependences between queues. A cycle moves in all four directions, or turns back. -/
def noCycle (l : List (Nat × Nat)) : Bool :=
  let r := closeSets 10 (depSets l)
  (List.range 80).all (fun f => !cycleAt r (dirNode f 4)) && l.all fun e => !turnsBack r e

/-- Whether routing entries are what R198 asks of the module controller: `entry` gives the entry of a field for a plane and a
destination field. Queues are told apart by field and direction, which loses no cycle. DESIGN CHOICE, log 55. -/
def waysOk (dark : Nat → Bool) (entry : Nat → Bool → Nat → Word) : Bool :=
  let live := (List.range 80).filter fun f => !dark f
  [false, true].all fun plane =>
    let e := fun a b => waySpot (entry a plane b)
    (live.all fun a => live.all fun b => wayOk dark plane a b (e a b))
      && noCycle (live.flatMap fun a => live.flatMap fun b => wayDeps plane a b (e a b))

end Sys2Proof.Machine
end

