-- ==== Sys2Proof/Machine/Recovery.lean ====
section
/-! DEFINITION. Faults and recovery (R480 to R497): classification, suspension, plans, re-placement and resume. -/

namespace Sys2Proof.Machine

open Sys2Proof

/-- Changes what the module controller keeps of recovery. -/
def updRecov (f : Recovery → Recovery) (s : State) : State := { s with recov := f s.recov }
/-- Changes the running plan. -/
def setPlan (p : Option RecPlan) (s : State) : State := updRecov (fun r => { r with plan := p }) s

/-! ### The log (R480, R499) -/

/-- Microseconds between two times. DESIGN CHOICE, log 13. -/
def usSince (at_ now : Nat) : Nat := Nat.min (2 ^ 22 - 1) ((now - at_) / 4000)

/-- A log entry that still reads pending takes its result and duration. -/
def logResolve (id result us : Nat) (s : State) : State :=
  updRecov (fun r => { r with log := r.log.map fun e => if e.id = id ∧ e.result = 0 then { e with result := result, us := us } else e }) s

/-- A lasting event is counted and logged as pending; the fault with its log entry. -/
def logLasting (q : FaultRec) (s : State) : FaultRec × State :=
  ({ q with entry := s.recov.nextLog }, logPut q.code q.kind 0 q.unit 0 (countUp 0 0xA10 15 0 1 s))

/-! ### Suspension (R488) -/

/-- The channels of a placement that are not IDLE: their list begins in one of its regions. DESIGN CHOICE, log 54. -/
def chansOf (s : State) (p : Placed) : List (Nat × Nat) :=
  p.img.regions.flatMap fun q =>
    ((List.range 16).filter fun ch =>
      let o := 32 * liveF s (pChan q.stack) (chOff ch 0) 31 0
      (chanAt (stackAt s q.stack) ch).st != .idle && decide (2 ^ 20 * q.base ≤ o) && decide (o < 2 ^ 20 * (q.base + q.size))).map
        (q.stack, ·)

/-- A stream of a suspended placement, its own or its draft's (R350), becomes PAUSED. DESIGN CHOICE, log 55. -/
def pauseStream (i : Nat) (s : State) : State :=
  updStream i (fun x => match x.st with
    | .free | .ending | .needPrefill | .paused => x
    | st => { x with st := .paused, back := if st = .inFlight then .scheduled else st, joined := none }) s

/-- An install or staged copy of a suspended model stops; it will begin again from its first unit. -/
def stopInstall (m : Nat) (s : State) : State :=
  let s := match s.weights.inst with
    | some i => if i.model = m then setInst 0 (some { i with todo := unitsOfImg i.img, cur := none, bytes := 0, hostUnits := 0 }) s else s
    | none => s
  updModel m (fun x => { x with switching := x.switching.map fun w => if w.phase = .copying then { w with phase := .draining } else w }) s

/-- A placement is suspended: its steps are abandoned, its streams PAUSED, its cores reset, its waiters released, its channels
aborted. `keep` leaves the threads of its cores as they are (R482). DESIGN CHOICE, log 54. -/
def suspendModel (keep : Bool) (m : Nat) (s : State) : State :=
  match (modelAt s m).place with
  | none => s
  | some p =>
    let s := updModel m (fun x => { x with suspended := true, collect := none }) s
    let s := (streamsOf s m).foldl (fun s i => abandonStep i s) s
    let s := (streamsOf s m).foldl (fun s i => pauseStream i s) s
    let s := if keep then s else (coresOf p).foldl (fun s c => updCore c resetCore s) s
    let s := p.img.tallies.foldl (fun s e => wakeWaiters e.1 s) s
    stopInstall m ((chansOf s p).foldl (fun s c => chAbort c.1 c.2 s) s)

/-- Models that hold a core in one of the fields. -/
def modelsIn (s : State) (fs : List Nat) : List Nat := ((placements s).filter fun e => (heldFields e.2).any fs.contains).map (·.1)

/-- The fields where some models hold cores. -/
def fieldsOfModels (s : State) (ms : List Nat) : List Nat :=
  (ms.flatMap fun m => match (modelAt s m).place with
    | some p => heldFields p
    | none => []).dedup

/-- Models suspended when faults strike the models `ms` and the fields `fs`: those in the fields, and then every other one that
has cores in a field of these. -/
def struck (s : State) (ms fs : List Nat) : List Nat := ((ms ++ modelsIn s (fieldsOfModels s (ms ++ modelsIn s fs)) ++ modelsIn s fs).dedup)

/-- Whether a model is being loaded. -/
def loading (s : State) (m : Nat) : Bool :=
  match s.weights.load with
  | some j => j.model == m
  | none => false

/-- Suspension of everything a fault strikes (R488); the channels that are to be restarted and the models suspended. A LOAD in
progress among them fails with the code (R482). DESIGN CHOICE, log 54. -/
def suspendAll (c : Code) (keep : Option Nat) (ms fs : List Nat) (s : State) : (List Nat × List (Nat × Nat)) × State :=
  let all := struck s ms fs
  let fields := fieldsOfModels s (all.filter fun m => ms.contains m || (modelsIn s fs).contains m)
  let s := if all.any (loading s) then loadFails c s else s
  let all := all.filter fun m => (modelAt s m).place.isSome
  let chans := all.flatMap fun m => match (modelAt s m).place with
    | some p => chansOf s p
    | none => []
  let s := all.foldl (fun s m => suspendModel (keep == some m) m s) s
  let s := fields.foldl (fun s f => flushMerge f (flushReduce f s)) s
  ((all, chans), if all.isEmpty then s else raiseIrq 2 s)

/-! ### Losses -/

/-- A model is lost: it is unloaded, and MODEL_LOST is logged (R485, R486, R492). DESIGN CHOICE, log 55. DEDUCED, log 66. -/
def loseModel (m us : Nat) (s : State) : State :=
  if modelState s m = 0 then s else logPut E.modelLost 6 4 m us (unloadModel m E.modelUnloaded s)

/-- Models whose placement has a region in a stack, with the region that holds an offset where one is asked for. -/
def regionModels (s : State) (n : Nat) (off : Option Nat) (weight : Option Bool) : List Nat :=
  ((placements s).filter fun e => e.2.img.regions.any fun q =>
    q.stack == n && (match off with
      | some o => decide (2 ^ 20 * q.base ≤ o) && decide (o < 2 ^ 20 * (q.base + q.size))
      | none => true) && (match weight with
      | some w => q.weight == w
      | none => true)).map (·.1)

/-- Digest units of an epoch that lie at an offset of a stack, in a stack range or a mirror. -/
def unitsAt (g : GristImg) (n off : Nat) : List (Nat × Nat) :=
  (unitsOfImg g).filter fun q =>
    let r := rangeOf g q.1
    if r.kind = 0 then r.stageStack == n && meets off 64 (r.stageOff + q.2 * r.len) r.len
    else r.unit == n && meets off 64 (r.off + 0x100000 * q.2) (unitLen r q.2)

/-- Epochs of a model that hold an image. -/
def epochsHeld (s : State) (m : Nat) : List Nat := [0, 1].filter fun e => let v := epochSt s m e; v == 2 || v == 3 || v == 4 || v == 5

/-- The units of a model that lie at an offset of a stack are loaded again (R267, R485). -/
def reloadAt (m n off : Nat) (s : State) : State :=
  (epochsHeld s m).foldl (fun s e => match epImg (modelAt s m) e with
    | some g => if (unitsAt g n off).isEmpty then s else startReload m e (unitsAt g n off) s
    | none => s) s

/-- Digest units of an epoch that cover a slot of a core. -/
def unitsInCore (p : Placed) (g : GristImg) (c slot : Nat) : List (Nat × Nat) :=
  (unitsOfImg g).filter fun q =>
    let r := rangeOf g q.1
    r.kind == 0 && (match coreUnit p r q.2 with
      | some e => e.1 == c && meets e.2 r.len (32 * slot) 32
      | none => false)

/-- The units of the model that holds a core that cover the slot of its STORE_LAST are loaded again (R213, R267). DESIGN CHOICE, log 54. -/
def reloadSlot (c : Nat) (s : State) : State :=
  match mfind s.owner c with
  | none => s
  | some m =>
    match (modelAt s m).place with
    | none => s
    | some p => (epochsHeld s m).foldl (fun s e => match epImg (modelAt s m) e with
        | some g =>
          let us := unitsInCore p g c (bits (coreAt s c).storeLast 12 0)
          if us.isEmpty then s else startReload m e us s
        | none => s) s

/-! ### Plans and the queue (R489, R494 to R496) -/

/-- An entry for one fault. DESIGN CHOICE, log 54. -/
def entryOf (q : FaultRec) (now : Nat) : FaultEntry :=
  { faults := [q], at_ := now, models := [], retire := [], cores := [], fields := [], stackNos := [], lostStack := [], chans := [] }

/-- Two entries as one, the first with its time. DESIGN CHOICE, log 54. -/
def joinEntries (a b : FaultEntry) : FaultEntry :=
  { faults := a.faults ++ b.faults, at_ := a.at_, models := (a.models ++ b.models).dedup, retire := (a.retire ++ b.retire).dedup,
    cores := (a.cores ++ b.cores).dedup, fields := (a.fields ++ b.fields).dedup, stackNos := (a.stackNos ++ b.stackNos).dedup,
    lostStack := (a.lostStack ++ b.lostStack).dedup, chans := (a.chans ++ b.chans).dedup }

/-- Two lists share an element. -/
def share (a b : List Nat) : Bool := a.any b.contains

/-- The same core, field or stack is named by both entries. -/
def sameFault (a b : FaultEntry) : Bool := share a.cores b.cores || share a.fields b.fields || share a.stackNos b.stackNos

/-- The cores that a plan binds or copies from. -/
def planCores (p : RecPlan) : List Nat := (p.moves ++ p.demote ++ p.src).flatMap fun e => coresOf e.2

/-- A new fault conflicts with the running plan (R495): the same placement, or something that the plan binds, copies from, enrols
or reloads through. -/
def conflicts (s : State) (p : RecPlan) (e : FaultEntry) : Bool :=
  let cs := planCores p
  share p.entry.models e.models || sameFault p.entry e || share cs e.cores || share (cs.map fieldOfCore) e.fields
    || share ((grp s p.group).pages.filterMap pageField) e.fields

/-- A plan for an entry starts. -/
def newPlan (e : FaultEntry) : RecPlan :=
  { entry := e, phase := .planning, group := 0, src := [], moves := [], demote := [], lose := [], committed := false, again := false,
    copying := [], unclean := [], written := false, started := false, lostFrames := [] }

/-- The plan is computed again for an entry: what has not been moved is still to be moved, and what is lost stays lost. -/
def replan (p : RecPlan) (e : FaultEntry) : RecPlan :=
  { newPlan e with src := if p.committed && (p.phase == .armed || !p.copying.isEmpty) then p.src else [], unclean := p.unclean,
                   lostFrames := p.lostFrames }

/-- PLAN_ABORTED is logged and counted (R495). -/
def logAbort (p : RecPlan) (s : State) : State :=
  let q := p.entry.faults.headD ⟨0, 0, 0, 0⟩
  logPut E.planAborted q.kind 6 q.unit 0 (countUp 0 0xA14 15 0 1 s)

/-- The running plan is aborted by a fault (R495), and a new one covers both. DESIGN CHOICE, log 54. -/
def abortPlan (p : RecPlan) (e : FaultEntry) (s : State) : State :=
  let s := logAbort p s
  let both := joinEntries p.entry e
  match p.phase with
  | .planning => setPlan (some (replan p both)) s
  | .applying => setPlan (some (replan p both)) (if (grp s p.group).st = .done then mcRelease p.group s else s)
  | .armed =>
    if p.committed ∨ (grp s p.group).st = .irrevocable then setPlan (some { p with entry := both, again := true }) s
    else
      let s := if (grp s p.group).st = .done then s else endPlain p.group .aborted s
      setPlan (some (replan p both)) (mcRelease p.group s)

/-- Faults that are merged into an entry read 5. DESIGN CHOICE, log 54. -/
def logMerged (e : FaultEntry) (s : State) : State := e.faults.foldl (fun s q => logResolve q.entry 5 0 s) s

/-- A lasting fault takes its place: it aborts the plan, merges into an entry, waits in the queue, or is planned at once. DESIGN CHOICE, log 54. -/
def enqueueFault (e : FaultEntry) (s : State) : State :=
  match s.recov.plan with
  | none => setPlan (some (newPlan e)) s
  | some p =>
    if conflicts s p e then abortPlan p e s
    else match s.recov.queue.find? (sameFault · e) with
      | some _ =>
        logMerged e (updRecov (fun r => { r with queue := r.queue.map fun q => if sameFault q e then joinEntries q e else q }) s)
      | none =>
        if s.recov.queue.length < 64 then updRecov (fun r => { r with queue := r.queue ++ [e] }) s
        else fatal E.recoveryOverflow (updRecov (fun r => { r with overflow := true }) s)

/-! ### What a fault costs (R481 to R487) -/

/-- REASON of a retired core (R498). -/
def retireReason (c : Code) : Byte :=
  if c = E.storeUncorrectable then 1 else if c = E.actParity then 2 else if c = E.cacheLineLost then 3
  else if c = E.arrayCheckFail then 4 else 5

/-- A second parity event of a core within 1 s, or a second transfer failure of a model. -/
def again (m : Map Nat) (k now : Nat) : Bool :=
  match mfind m k with
  | some t => decide (now ≤ t + seconds 1)
  | none => false

/-- An entry, its suspension made, takes its place. -/
def faultStrikes (q : FaultRec) (now : Nat) (keep : Option Nat) (ms fs : List Nat) (f : FaultEntry → FaultEntry) (s : State) : State :=
  let r := suspendAll q.code keep ms fs s
  let ms := r.1.1.filter fun m => keep ≠ some m
  enqueueFault { f (entryOf q now) with models := ms, chans := r.1.2 } r.2

/-- A fault of a core (R481, R484). DESIGN CHOICE, log 54. -/
def coreFault (q : FaultRec) (now : Nat) (s : State) : State :=
  let soft := q.code = E.actParity ∨ q.code = E.cacheLineLost
  let go := !decide soft || again s.recov.parityAt q.unit now
  let s := if soft then updRecov (fun r => { r with parityAt := mput r.parityAt q.unit now }) s else s
  faultStrikes q now none [] [fieldOfCore q.unit]
    (fun e => { e with cores := [q.unit], retire := if go then [(q.unit, retireReason q.code, false)] else [] }) s

/-- Routers whose retirement is planned and has not committed. -/
def retiring (s : State) : List Nat :=
  ((s.recov.plan.toList.map (·.entry) ++ s.recov.queue).flatMap (·.retire)).filterMap fun q => if q.2.2 then some q.1 else none

/-- Whether R200 and R483 admit the retirement of a router, with those retired and those planned to be. -/
def mayRetire (s : State) (r : Nat) : Bool :=
  let f := fieldOfCore r
  let others := (((s.repair.filter (·.2.routerRetired)).map (·.1) ++ retiring s).filter fun o => fieldOfCore o == f && o != r).dedup
  let near := fun (a b : Nat) => decide (a ≤ b + 2) && decide (b ≤ a + 2)
  decide (1 ≤ r % 64) && decide (r % 64 ≤ 62) && decide (1 ≤ r / 64 % 64) && decide (r / 64 % 64 ≤ 58) && decide (others.length < 32)
    && others.all fun o => !(near (o % 64) (r % 64) && near (o / 64 % 64) (r / 64 % 64))

/-- A field is lost (R481, R485): its slots are re-placed, and models with a region in one of its stacks unloaded. -/
def fieldStrikes (q : FaultRec) (f now : Nat) (s : State) : State :=
  let lost := ((List.range 24).filter fun n => stackField n == f).flatMap fun n => regionModels s n none none
  let s := lost.dedup.foldl (fun s m => if loading s m then loadFails q.code s else loseModel m 0 s) s
  faultStrikes q now none [] [f] (fun e => { e with fields := [f] }) s

/-- A lasting fabric link failure (R483). -/
def routerFault (q : FaultRec) (now : Nat) (s : State) : State :=
  let f := fieldOfCore q.unit
  if mayRetire s q.unit then
    faultStrikes q now none [] [f] (fun e => { e with cores := [q.unit], retire := [(q.unit, 5, true)] }) s
  else fieldStrikes q f now (imposeDark f 9 s)

/-- A lasting stack error or a channel's failed transfer (R485, R486). `reload` says that the reloaded block read clean. -/
def stackFault (q : FaultRec) (reload : Bool) (now : Nat) (s : State) : State :=
  let n := q.unit
  if q.code = E.stackEccFail ∨ q.code = E.stackCrcFail then
    let off := (stackAt s n).lastFail
    let wm := regionModels s n (some off) (some true)
    let am := regionModels s n (some off) (some false)
    let s := if reload then wm.foldl (fun s m => reloadAt m n off s) s else wm.foldl (fun s m => loseModel m 0 s) s
    faultStrikes q now none (wm ++ am) [] (fun e => { e with stackNos := [n], lostStack := am }) s
  else
    let ms := regionModels s n none none
    let lost := ms.filter fun m => again s.recov.transferAt m now
    let s := updRecov (fun r => { r with transferAt := ms.foldl (fun t m => mput t m now) r.transferAt }) s
    faultStrikes q now none ms [] id (lost.foldl (fun s m => loseModel m 0 s) s)

/-- A fault of a placement (R482, R486, R493). -/
def placementFault (q : FaultRec) (now : Nat) (s : State) : State :=
  let m := q.unit
  if modelState s m = 0 then s
  else if q.code = E.placementFault then
    if s.debugModels.contains m then faultStrikes q now (some m) [m] [] id s
    else
      let s := faultStrikes q now none [m] [] id s
      if modelState s m = 0 then s else unloadModel m E.modelUnloaded s
  else if q.code = E.gristDigestFail ∨ q.code = E.gristUnreadable then faultStrikes q now none [m] [] id (loseModel m 0 s)
  else
    let lost := again s.recov.transferAt m now
    let s := updRecov (fun r => { r with transferAt := mput r.transferAt m now }) s
    faultStrikes q now none [m] [] id (if lost then loseModel m 0 s else s)

/-- Whether some placement has lost cores with a field, which may be on again. -/
def fieldWasLost (s : State) (f : Nat) : Bool := (placements s).any fun e => (modelAt s e.1).lostCores.any fun c => fieldOfCore c == f

/-- FAULT_SUSPEND (R480 to R488): the module controller takes up the first fault reported. For an uncorrectable codeword, and for a
block of a WEIGHT 1 region, `reload` says that the reloaded bytes read clean. DESIGN CHOICE, log 54. -/
def faultSuspend (now : Nat) (reload : Bool) (s : State) : State :=
  match s.recov.reported with
  | [] => s
  | q :: l =>
    if mcStops s then s
    else
    let s := updRecov (fun r => { r with reported := l }) s
    let s := if q.code = E.storeUncorrectable then reloadSlot q.unit s else s
    if q.code = E.storeUncorrectable ∧ reload then logTransient q.code q.kind q.unit s
    else
      let r := logLasting q s
      let q := r.1
      let s := r.2
      if q.kind = 0 then coreFault q now s
      else if q.kind = 1 then routerFault q now s
      else if q.kind = 2 then
        (if (fieldSt s q.unit = .dark ∨ fieldWasLost s q.unit) ∧ q.code ≠ E.connSuspect then fieldStrikes q q.unit now s else s)
      else if q.kind = 3 then stackFault q reload now s
      else if q.kind = 6 then placementFault q now s
      else s

/-! ### Thread faults (R482) -/

/-- The stacks of a placement whose edge field is not on. DESIGN CHOICE, log 55. -/
def stacksOff (s : State) (p : Placed) : List Nat := ((p.img.regions.map (·.stack)).filter fun n => !stackOn s n).dedup

/-- THREAD_FAULT_CLASSIFY (R482) -/
def classify (c t : Nat) (s : State) : State :=
  let x := coreAt s c
  match mfind s.owner c with
  | none => s
  | some m =>
    if (threadAt x t).st ≠ .faulted ∨ x.classified.contains t ∨ mcStops s then s
    else
      let s := updCore c (fun x => { x with classified := insertAsc t x.classified }) s
      let code : Code := BitVec.ofNat 16 (bits x.coreErr 47 32)
      if [E.storeUncorrectable, E.actParity, E.cacheLineLost, E.arrayCheckFail, E.stackEccFail, E.stackCrcFail].contains code then
        (if loading s m then loadFails code s else s)
      else if loading s m then loadFails code s
      else if code = E.stackUnavailable then
        let r := suspendAll code none [m] [] s
        updRecov (fun v => { v with awaitStack := r.1.1.foldl (fun a m => mput a m r.1.2) v.awaitStack }) r.2
      else report E.placementFault 6 m s

/-! ### Planning (R489, R490, R492) -/

/-- Hop distance between two cores (R10). -/
def hops (a b : Nat) : Nat :=
  let d := fun (x y : Nat) => (x - y) + (y - x)
  d (meshX a) (meshX b) + d (meshY a) (meshY b)

/-- The free enabled core nearest to a core, the lowest ID on a tie. -/
def nearest (free : List Nat) (c : Nat) : Option Nat :=
  free.foldl (fun best k => match best with
    | some b => if hops c k < hops c b then some k else best
    | none => some k) none

/-- The model that a draft model drafts for. -/
def draftsTo (s : State) (m : Nat) : Option Nat := if statusBit s m 7 then some (liveF s pWl (0x200 + 4 * m) 5 0) else none

/-- Free enabled cores for a model, of every field that is on (R490) and that R18 does not bar. -/
def freeEverywhere (s : State) (m : Nat) : List Nat :=
  allFields.flatMap fun f =>
    if fieldSt s f = .on && !(barredFields s m (draftsTo s m)).contains f then freeCores s f else []

/-- Whether the quota sums hold in some fields (R239). -/
def quotasHold (s : State) (fs : List Nat) : Bool := fs.all fun f => decide (hqSum s f ≤ liveF s (pHeavy f) 0x68 11 0)

/-- A core can no longer serve model m: retired, in a field that is not on, or lost with its field since it was bound. -/
def coreGone (s : State) (m c : Nat) : Bool :=
  !coreEnabled s c || fieldSt s (fieldOfCore c) != .on || (modelAt s m).lostCores.contains c

/-- Slots are bound anew, in order; the free cores that are left. -/
def rebindSlots (gone : Nat → Bool) (free : List Nat) : List Nat → Option (List Nat × List Nat)
  | [] => some ([], free)
  | c :: l =>
    if gone c then
      match nearest free c with
      | none => none
      | some k => (rebindSlots gone (without k free) l).map fun r => (k :: r.1, r.2)
    else (rebindSlots gone free l).map fun r => (c :: r.1, r.2)

/-- Every field of a placement is bound anew. -/
def rebindAll (gone : Nat → Bool) : List Nat → List (List Nat) → Option (List (List Nat))
  | _, [] => some []
  | free, cs :: l =>
    match rebindSlots gone free cs with
    | none => none
    | some r => (rebindAll gone r.2 l).map (r.1 :: ·)

/-- A state in which a model is planned to hold a placement. -/
def withPlace (m : Nat) (q : Option Placed) (s : State) : State := updModel m (fun x => { x with place := q }) s

/-- The new binding of a model that has lost cores, where free cores and quotas suffice (R239, R490). DESIGN CHOICE, log 55. -/
def rebound (s : State) (m : Nat) (p : Placed) : Option Placed :=
  match rebindAll (coreGone s m) (freeEverywhere s m) p.cores with
  | none => none
  | some cs => if quotasHold (withPlace m (some ⟨p.img, cs⟩) s) (heldFields ⟨p.img, cs⟩) then some ⟨p.img, cs⟩ else none

/-- The demotion of a standard RESIDENT model, where its streamed placement binds (R18, R259, R492). DESIGN CHOICE, log 55. -/
def demoted (s : State) (m : Nat) : Option Placed :=
  if statusBit s m 28 || statusBit s m 27 || statusBit s m 7 then none
  else
    let t := withPlace m none { s with owner := s.owner.filter (·.2 != m) }
    match (modelAt s m).alt with
    | none => none
    | some a =>
      if (barredFields s m none).any (fieldsOf a).contains then none
      else match bindCores t a.fields with
        | none => none
        | some cs => if quotasHold (withPlace m (some ⟨a, cs⟩) t) (heldFields ⟨a, cs⟩) then some ⟨a, cs⟩ else none

/-- What is decided of each model of a plan, with the state in which the decisions already taken hold. -/
def planModel (a : State × RecPlan) (m : Nat) : State × RecPlan :=
  let s := a.1
  match (modelAt s m).place with
  | none => a
  | some p =>
    if (coresOf p).any (coreGone s m) then
      match rebound s m p with
      | some q => (withPlace m (some q) s, { a.2 with moves := mput a.2.moves m q })
      | none =>
        match demoted s m with
        | some q => (withPlace m (some q) { s with owner := s.owner.filter (·.2 != m) }, { a.2 with demote := mput a.2.demote m q })
        | none => (s, { a.2 with lose := a.2.lose ++ [m] })
    else if (mfind a.2.src m).isSome then (s, { a.2 with moves := mput a.2.moves m p }) else a

/-- The retirements of an entry, in the repair map. -/
def retireAll (e : FaultEntry) (s : State) : State :=
  e.retire.foldl (fun s q =>
    let x := repairOf s q.1
    let y := { x with enabled := false, reason := if x.enabled then q.2.1 else x.reason, routerRetired := x.routerRetired || q.2.2 }
    { s with repair := mset .reset s.repair q.1 y }) s

/-- Shadows of what a moved placement binds anew. -/
def shadowMoves (m : Nat) (p : Placed) (s : State) : State :=
  match (modelAt s m).place with
  | none => s
  | some old =>
    ((p.img.fields.zip p.cores).zip old.cores).foldl (fun s e =>
      ((e.1.2.zip e.2).zip e.1.1.recs).foldl (fun s q => if q.1.1 = q.1.2 then s else shadowSlot q.1.1 q.2 s) s) s

/-- Shadows that take a placement away: its regions and targets (R259). -/
def shadowLeaves (p : Placed) (s : State) : State :=
  let s := (p.img.tallies.filter (·.1 < 30720)).foldl (fun s e => setShadow (targetReg e.1).1 (targetReg e.1).2 0 s) s
  p.img.regions.foldl (fun s q => match findRegion s q.stack q.base q.size with
    | some r =>
      let g := pStack q.stack
      setShadow g (0x48 + 16 * r) 0 (setShadow g (0x44 + 16 * r) 0 (setShadow g (0x40 + 16 * r) 0 s))
    | none => s) s

/-- The slots of a placement that have moved: field, slot, former and new core. DESIGN CHOICE, log 55. -/
def movedSlots (old new : Placed) : List (Nat × Nat × Nat × Nat) :=
  ((new.img.fields.zip new.cores).zip old.cores).flatMap fun e =>
    (((e.1.2.zip e.2).zipIdx).filter fun q => q.1.1 != q.1.2).map fun q => (e.1.1.field, q.2, q.1.2, q.1.1)

/-- The valid data windows of the module controller whose target lies in a core that moves, with their new TARGET (R386). -/
def movedWindows (s : State) (mv : List (Nat × Nat × Nat × Nat)) : List (Nat × Nat) :=
  (List.range 256).filterMap fun w =>
    if winF s w 0 31 31 = 1 ∧ winF s w 0 28 28 = 0 ∧ (linkAt s (w / 32)).winMc.contains w then
      match addrKind (winTarget s w) with
      | .core c off => (mv.find? (·.2.2.1 == c)).map fun q => (w, coreAddr q.2.2.2 off)
      | _ => none
    else none

/-- The shadows of a window's TARGET. -/
def shadowTarget (w a : Nat) (s : State) : State :=
  let p := linkPage (w / 32) 1
  let o := 0x40 + 24 * (w % 32)
  setShadow p (o + 0x14) (BitVec.ofNat 32 (a / 2 ^ 32)) (setShadow p (o + 0x10) (BitVec.ofNat 32 (a % 2 ^ 32)) s)

/-- The moves of a plan, slot by slot. -/
def planSlots (s : State) (p : RecPlan) : List (Nat × Nat × Nat × Nat) :=
  p.moves.flatMap fun e => match (modelAt s e.1).place with
    | some old => movedSlots old e.2
    | none => []

/-- The fields whose quotas a plan sets: those where its moved placements held and hold cores. -/
def moveFields (s : State) (p : RecPlan) : List Nat :=
  (p.moves.flatMap fun e => heldFields e.2 ++ (match (modelAt s e.1).place with
    | some old => heldFields old
    | none => [])).dedup

/-- Quota shadows of the fields, in those that are not dark. -/
def shadowQuotas (t : State) (fs : List Nat) (s : State) : State :=
  fs.foldl (fun s f => if pageDark s (pHeavy f) then s else setShadow (pHeavy f) 0x40 (quotaWord t f) s) s

/-- A waypoint of a field's routing page (R198). -/
def shadowWay (w : Fin 80 × Fin 160 × Word) (s : State) : State :=
  let p := fieldPage w.1.val 9
  setShadow p (0x100 + 4 * w.2.1.val) w.2.2 s

/-- The pages of a plan in a state that are not dark: windows and quotas of the fields of what moves, windows of the chain that
follow it, every page of a placement that comes or goes, and routing pages. -/
def planPages (s : State) (p : RecPlan) (ways : List (Fin 80 × Fin 160 × Word)) : List Nat :=
  let old := p.demote.flatMap fun e => match (modelAt s e.1).place with
    | some q => loadPages q ++ (heldFields q).map pHeavy
    | none => []
  let all := (p.moves.flatMap fun e => (heldFields e.2).map pCaw) ++ (moveFields s p).map pHeavy
    ++ (movedWindows s (planSlots s p)).map (fun w => linkPage (w.1 / 32) 1) ++ old ++ p.demote.flatMap (fun e => loadPages e.2)
    ++ ways.map fun w => fieldPage w.1.val 9
  all.dedup.filter fun g => !pageDark s g

/-- Every shadow of a plan, `t` being the state as planned. -/
def planShadows (t : State) (p : RecPlan) (ways : List (Fin 80 × Fin 160 × Word)) (s : State) : State :=
  let moved := planSlots s p
  let s := p.moves.foldl (fun s e => shadowMoves e.1 e.2 s) s
  let s := (movedWindows s moved).foldl (fun s w => shadowTarget w.1 w.2 s) s
  let s := p.demote.foldl (fun s e => match (modelAt s e.1).place with
    | some q => shadowQuotas t (heldFields q) (shadowLeaves q s)
    | none => s) s
  let s := p.demote.foldl (fun s e => shadowQuotas t (heldFields e.2) (loadShadows (modelTenant s e.1) e.2 s)) s
  let s := shadowQuotas t (moveFields s p) s
  ways.foldl (fun s w => if pageDark s (fieldPage w.1.val 9) then s else shadowWay w s) s

/-- The routing entry of a field for a destination field and a plane as a plan leaves it. -/
def plannedWay (s : State) (ways : List (Fin 80 × Fin 160 × Word)) (a : Nat) (plane : Bool) (b : Nat) : Word :=
  let k := 80 * b2n plane + b
  match ways.find? fun w => w.1.val == a && w.2.1.val == k with
  | some w => w.2.2
  | none => live s (fieldPage a 9) (0x100 + 4 * k)

/-- Whether the waypoints that the module controller has computed are as R198 asks, where a field has gone dark or returned. -/
def waysFit (s : State) (p : RecPlan) (ways : List (Fin 80 × Fin 160 × Word)) : Bool :=
  p.entry.fields.isEmpty || waysOk (isDark s) (plannedWay s ways)

/-- PLAN_ARM (R481, R489 to R492): the plan is computed, the floor map written, and one of groups 60 to 63 armed. DESIGN CHOICE, log 55. -/
def planArm (commit : Beat) (flash : Bool) (ways : List (Fin 80 × Fin 160 × Word)) (s : State) : State :=
  match s.recov.plan with
  | none => s
  | some p =>
    if p.phase ≠ .planning ∨ mcStops s ∨ s.recov.overflow ∨ s.beat.mode ≠ .locked ∨ !inFuture commit (beatNow s) ∨ !waysFit s p ways then s
    else
      let r := p.entry.models.foldl planModel (retireAll p.entry s, { p with moves := [], demote := [], lose := [] })
      let q := r.2
      let pages := planPages s q ways
      let s := pages.foldl (fun s k => claimPage k s) s
      match firstOf (enrolFails s) pages, lowestFree s 4 60 with
      | none, some g =>
        let t := if p.entry.retire.isEmpty then s else { floorPut flash (retireAll p.entry s) with repair := s.repair }
        let t := planShadows r.1 q ways t
        let t := pages.foldl (fun s k => enrol .mc k g s) (setGrp g { groupReset with st := .opened } t)
        let src := q.moves.filterMap fun e => match mfind q.src e.1, (modelAt s e.1).place with
          | some x, _ => some (e.1, x)
          | none, some x => some (e.1, x)
          | none, none => none
        setPlan (some { q with phase := .armed, group := g, src := src })
          (setGrp g { grp t g with st := .validating, commit := commit } t)
      | _, _ => s

/-! ### The commit and what follows (R489) -/

/-- The cores and the field tallies that the new placements of a plan use. -/
def planNew (p : RecPlan) : List Nat × List Nat :=
  ((p.demote ++ p.moves).flatMap (fun e => coresOf e.2), p.demote.flatMap fun e => e.2.img.tallies.map (·.1))

/-- A demoted model at the commit tick: its cores are freed, those that a new placement of the plan takes keeping what the commit
has written to them, and its streamed placement holds (R259). DESIGN CHOICE, log 55. -/
def demoteNow (use : List Nat × List Nat) (m : Nat) (q : Placed) (s : State) : State :=
  match (modelAt s m).place with
  | none => s
  | some old =>
    let s := (coresOf old).foldl (fun s c => freeCoreAs (if use.1.contains c then recycledCore else clearedCore) c s) s
    let s := old.img.tallies.foldl (fun s e => if use.2.contains e.1 then recycleTally e.1 s else freeTally e.1 s) s
    let s := updModel m (fun x => { x with place := some q, alt := some old.img, lostCores := [] }) { s with debugModels := without m s.debugModels }
    renumber m (setLive pWl (0x200 + 4 * m) (live s pWl (0x200 + 4 * m) ||| 0x14000000) (ownPlacement m q s))

/-- The running plan's group has committed: retirements, bindings and owners take effect at its tick, and the markers and output
descriptors of what it re-places are numbered from 0 (R294). -/
def planCommitted (g : Nat) (s : State) : State :=
  match s.recov.plan with
  | some p =>
    if p.phase = .armed ∧ p.group = g ∧ !p.committed then
      let s := retireAll p.entry s
      let s := p.demote.foldl (fun s e => demoteNow (planNew p) e.1 e.2 s) s
      let s := p.moves.foldl (fun s e =>
        renumber e.1 ((coresOf e.2).foldl (fun s c => { s with owner := mput s.owner c e.1 })
          (updModel e.1 (fun x => { x with place := some e.2 }) s))) s
      let s := p.entry.fields.foldl (fun s f => updField f (fun x => { x with unrouted := false }) s) s
      setPlan (some { p with committed := true }) s
    else s
  | none => s

/-- READs through the FCU of the former core's field bring its banks to a moved slot's new core, where their modes are not cache
(R184, R489). DESIGN CHOICE, log 55. -/
def copyReads (m a b : Nat) (s : State) : State :=
  let banks := (List.range 12).filter fun k => bankMode (coreAt s b) k != 2
  (banks.flatMap fun k => (piecesOf 512 (2 ^ 50) 0 16384).map fun q => (16384 * k + q.1, q.2)).foldl (fun s q =>
    injectFcu (fieldOfCore a) (towardAddr (coreAddr a q.1)
      { msgNull with cls := .read, rflits := q.2 / 32, rcore := b, roff := q.1, origin := .fcuCopy m a }) s) s

/-- Whether reads or data of a copy are on their way. -/
def copiesFly (s : State) : Bool :=
  underWay (fun o => match o with
    | .fcuCopy _ _ => true
    | _ => false) s

/-- The units of an image that a slot of a field holds. -/
def slotUnits (g : GristImg) (f slot : Nat) : List (Nat × Nat) :=
  (unitsOfImg g).filter fun q => let r := rangeOf g q.1; r.kind == 0 && r.unit == f && r.first + q.2 == slot

/-- The weights of some slots of a model are loaded again. -/
def reloadSlots (m : Nat) (slots : List (Nat × Nat)) (s : State) : State :=
  (epochsHeld s m).foldl (fun s e => match epImg (modelAt s m) e with
    | some g =>
      let us := slots.flatMap fun q => slotUnits g q.1 q.2
      if us.isEmpty then s else startReload m e us s
    | none => s) s

/-- Whether a slot's former core cannot be copied: its field is not on or went dark, or a read of it was not clean (R489). -/
def copyBad (s : State) (p : RecPlan) (m a : Nat) : Bool :=
  fieldSt s (fieldOfCore a) != .on || p.unclean.contains a || (modelAt s m).lostCores.contains a

/-- The moved slots of the plan: those that can be copied are. -/
def beginCopies (p : RecPlan) (s : State) : State :=
  let all := p.moves.flatMap fun e => match mfind p.src e.1 with
    | some old => (movedSlots old e.2).map fun q => (e.1, q.1, q.2.1, q.2.2.1, q.2.2.2)
    | none => []
  let bad := all.filter fun q => copyBad s p q.1 q.2.2.2.1
  let s := all.foldl (fun s q => if bad.contains q then s else copyReads q.1 q.2.2.2.1 q.2.2.2.2 s) s
  setPlan (some { p with phase := .applying, copying := all, unclean := (bad.map (·.2.2.2.1)).foldl (fun l c => insertAsc c l) p.unclean }) s

/-- Reads and data of the copies are all in: a slot that could not be copied has its weights loaded again and its other banks
cleared, with its model's floor frames lost; the former cores are free (R489, R491). DESIGN CHOICE, log 55. -/
def endCopies (p : RecPlan) (s : State) : State :=
  let bad := p.copying.filter fun q => copyBad s p q.1 q.2.2.2.1
  let s := bad.foldl (fun s q => clearMem (fun a => a / 0x40000 == q.2.2.2.2) s) s
  let s := p.copying.foldl (fun s q => match (modelAt s q.1).place with
    | some new => if (coresOf new).contains q.2.2.2.1 then s else freeCore q.2.2.2.1 s
    | none => s) s
  let ms := p.moves.map (·.1)
  let s := ms.foldl (fun s m => updModel m (fun x => { x with lostCores := [] }) s) s
  let s := ms.foldl (fun s m => reloadSlots m ((bad.filter (·.1 == m)).map fun q => (q.2.1, q.2.2.1)) s) s
  setPlan (some { p with copying := [], lostFrames := (bad.map (·.1)).foldl (fun l m => insertAsc m l) p.lostFrames }) s

/-- A channel is restarted at CH_HEAD, with CH_EPOCH from its wait tally's EPOCH (R489 step 4). -/
def chRestart (q : Nat × Nat) (s : State) : State :=
  if !stackOn s q.1 then s
  else match stackRead q.1 (32 * liveF s (pChan q.1) (chOff q.2 0) 31 0) 32 false [] s with
    | (.error _, s) => chStart q.1 q.2 s
    | (.ok l, s) =>
      let d := (chDescOf l).1
      chStart q.1 q.2 (if d.wait then setLive (pChan q.1) (chOff q.2 4) ((tallyAt s d.waitTally).epoch.setWidth 32) s else s)

/-- Contents of a placement are sent again (R489 step 2). -/
def resendContent (m : Nat) (s : State) : State :=
  match (modelAt s m).place with
  | some p => if modelReady s m then writeContent m p s else s
  | none => s

/-- Threads of a placement start again (R489 step 3), its markers numbered from 0 (R294). -/
def restartThreads (m : Nat) (s : State) : State :=
  match (modelAt s m).place with
  | some p => if modelReady s m then renumber m (startPlacement p s) else s
  | none => s

/-- Whether a reload for one of the models goes on, or one of their cores clears a bank. -/
def contentsWait (s : State) (ms : List Nat) : Bool :=
  s.weights.reloads.any (fun e => ms.contains e.2.model)
    || ms.any fun m => match (modelAt s m).place with
      | some p => (coresOf p).any fun c => !(coreAt s c).clearing.isEmpty
      | none => false

/-- Every stream of a demoted model becomes NEED_PREFILL and its prefix entries are detached (R492). -/
def demoteStreams (m : Nat) (us : Nat) (s : State) : State :=
  logPut E.modelDemoted 6 3 m us (pxDetachAll (fun q => q.model == m) s)

/-- The group of the plan ended otherwise than COMMITTED: the plan is aborted and computed again. -/
def planFails (p : RecPlan) (s : State) : State := setPlan (some (replan p p.entry)) (mcRelease p.group (logAbort p s))

/-- PLAN_APPLY (R489, R491, R492): the plan's group has ended and moved slots are copied; or the copies are in; or contents follow
once every reload has ended; or, these being in place, threads and channels. -/
def planApply (now : Nat) (s : State) : State :=
  match s.recov.plan with
  | none => s
  | some p =>
    if s.recov.overflow || mcStops s then s
    else match p.phase with
    | .planning => s
    | .armed =>
      if (grp s p.group).st ≠ .done then s
      else if !p.committed then planFails p s
      else if p.again then setPlan (some (replan p p.entry)) (mcRelease p.group s)
      else
        let us := usSince p.entry.at_ now
        let s := mcRelease p.group s
        let s := p.demote.foldl (fun s e => demoteStreams e.1 us s) s
        let s := p.lose.foldl (fun s m => loseModel m us s) s
        beginCopies p s
    | .applying =>
      if p.started then s
      else if !p.copying.isEmpty then (if copiesFly s then s else endCopies p s)
      else if contentsWait s p.entry.models || p.entry.models.any (contentsFly s) then s
      else if !p.written then setPlan (some { p with written := true }) (p.entry.models.foldl (fun s m => resendContent m s) s)
      else
        let s := p.entry.models.foldl (fun s m => restartThreads m s) s
        setPlan (some { p with started := true }) (p.entry.chans.foldl (fun s q => chRestart q s) s)

/-! ### Resume (R491, R493) -/

/-- A stream holds a floor frame, or a stack frame, in what it holds of a model. -/
def holdsFrame (k : StreamKv) (stack : Bool) : Bool :=
  k.blocks.any (·.2.stack == stack) || (match k.cand with
    | some f => f.stack == stack
    | none => false)

/-- A stream loses its KV entries: NEED_PREFILL with a notice (R309). -/
def needPrefill (i : Nat) (s : State) : State :=
  notice i E.needPrefill false (updStream i (fun x => { x with st := .needPrefill, joined := none }) s)

/-- Whether a stream has lost a frame in the plan. DESIGN CHOICE, log 55. -/
def frameLost (s : State) (p : RecPlan) (x : Stream) : Bool :=
  let lost := fun (k : StreamKv) (m : Nat) =>
    (p.lostFrames.contains m && holdsFrame k false) || (p.entry.lostStack.contains m && holdsFrame k true) || (mfind p.demote m).isSome
  lost x.kv x.model || (x.spec && lost x.dkv (draftOf s x.model))

/-- Whether a placement of a stream is suspended. -/
def stillPaused (s : State) (x : Stream) : Bool :=
  (modelAt s x.model).suspended || (x.spec && (modelAt s (draftOf s x.model)).suspended)

/-- A model resumes: its streams return to the states they held, but for those that hold a lost frame. -/
def resumeModel (lost : Stream → Bool) (m : Nat) (s : State) : State :=
  if !modelReady s m || !(modelAt s m).suspended then s
  else
    let s := updModel m (fun x => { x with suspended := false }) s
    let s := (streamsOf s m).foldl (fun s i =>
      let x := streamAt s i
      if lost x && (x.st == .paused || x.st == .scheduled || x.st == .waitSel) then needPrefill i s
      else if x.st = .paused ∧ !stillPaused s x then updStream i (fun x => { x with st := x.back, nextBeat := s.beat.now + 1 }) s
      else s) s
    match s.weights.inst with
    | some i => if i.model = m ∧ i.phase = .units then beginUnit 0 s else s
    | none => s

/-- Prefix entries whose frames are lost leave the tree (R321). -/
def dropPrefixes (p : RecPlan) (s : State) : State :=
  pxDetachAll (fun q => (p.lostFrames.contains q.model && !q.stack) || (p.entry.lostStack.contains q.model && q.stack)) s

/-- The result that a plan gives its faults: re-placed, or where every model was demoted or unloaded, that. -/
def planResult (p : RecPlan) : Nat :=
  if !p.lose.isEmpty && p.lose.length = p.entry.models.length then 4
  else if !p.demote.isEmpty && p.demote.length = p.entry.models.length then 3 else 2

/-- PLAN_RESUME (R491, R493): the resume tick; then the next entry is planned (R494). DESIGN CHOICE, log 55. -/
def planResume (now : Nat) (s : State) : State :=
  match s.recov.plan with
  | none => s
  | some p =>
    if p.phase ≠ .applying ∨ !p.started ∨ mcStops s ∨ s.recov.overflow ∨ s.beat.mode ≠ .locked then s
    else
      let us := usSince p.entry.at_ now
      let s := p.entry.models.foldl (fun s m => resumeModel (frameLost s p) m s) s
      let s := dropPrefixes p s
      let s := p.entry.faults.foldl (fun s q => logResolve q.entry (planResult p) us s) s
      let s := if p.entry.models.isEmpty then s else raiseIrq 2 s
      updRecov (fun r => { r with plan := r.queue.head?.map newPlan, queue := r.queue.drop 1 }) s

/-- An entry that asks for waypoints only. -/
def wayEntry (fs : List Nat) : FaultEntry :=
  { faults := [], at_ := 0, models := [], retire := [], cores := [], fields := fs, stackNos := [], lostStack := [], chans := [] }

/-- At a tick, a field that has returned from dark is planned for (R198, R489). -/
def returnTick (s : State) : State :=
  let fs := allFields.filter fun f => (fieldOf s f).unrouted
    && !((s.recov.plan.toList.map (·.entry) ++ s.recov.queue).any fun e => e.fields.contains f)
  if fs.isEmpty then s else enqueueFault (wayEntry fs) s

/-- At a tick, models that waited for an edge field resume (R482). DESIGN CHOICE, log 55. -/
def awaitTick (s : State) : State :=
  s.recov.awaitStack.foldl (fun s e =>
    match (modelAt s e.1).place with
    | none => updRecov (fun r => { r with awaitStack := mdel r.awaitStack e.1, awaitSent := without e.1 r.awaitSent }) s
    | some p =>
      if !(stacksOff s p).isEmpty || s.recov.plan.any (·.entry.models.contains e.1) || s.recov.queue.any (·.models.contains e.1) then s
      else if contentsFly s e.1 then s
      else if !s.recov.awaitSent.contains e.1 then
        resendContent e.1 (updRecov (fun r => { r with awaitSent := insertAsc e.1 r.awaitSent }) s)
      else
        let s := restartThreads e.1 (updRecov (fun r => { r with
          awaitStack := mdel r.awaitStack e.1, awaitSent := without e.1 r.awaitSent }) s)
        raiseIrq 2 (resumeModel (fun _ => false) e.1 (e.2.foldl (fun s q => chRestart q s) s))) s

/-- BEAT_LOST aborts the running plan; it is planned again after the lock (R39, R496). -/
def planBeatLost (s : State) : State :=
  match s.recov.plan with
  | none => s
  | some p =>
    setPlan (some (replan p p.entry)) (if p.phase = .armed then mcRelease p.group (logAbort p s) else logAbort p s)

/-- FLOOR_MAP_RETRY (R504) -/
def floorRetry (ok : Bool) (s : State) : State := if s.boot.floorDue then floorPut ok s else s

/-- THREAD_FAULT_CLASSIFY (R482) -/
def execThreadFaultClassify (c : CoreRef) (t : Fin 16) (s : State) : Result := .next (classify (coreId c) t.val s)
/-- FAULT_SUSPEND (R488) -/
def execFaultSuspend (now : Nat) (reload : Bool) (s : State) : Result := .next (faultSuspend now reload s)
/-- PLAN_ARM (R489) -/
def execPlanArm (commit : Beat) (flash : Bool) (ways : List (Fin 80 × Fin 160 × Word)) (s : State) : Result :=
  .next (planArm commit flash ways s)
/-- PLAN_APPLY (R489) -/
def execPlanApply (now : Nat) (s : State) : Result := .next (planApply now s)
/-- PLAN_RESUME (R491) -/
def execPlanResume (now : Nat) (s : State) : Result := .next (planResume now s)
/-- FLOOR_MAP_RETRY (R504) -/
def execFloorMapRetry (ok : Bool) (s : State) : Result := .next (floorRetry ok s)

end Sys2Proof.Machine
end

