-- ==== Sys2Proof/Machine/Poll.lean ====
section
/-! DEFINITION. The poll of the host's tables, requests and selections, and the serving engine's commands (R285 to R291, R296,
R307, R309, R312, R315, R319, R330, R332, R335, R337, R346, R348, R349, R352, R416, R419, R420). -/

namespace Sys2Proof.Machine

open Sys2Proof

/-! ### The poll (R284 to R288) -/

/-- A request line read (R285): whether it is torn, and its entry. -/
def reqOf (l : List Byte) : Bool × ReqEntry :=
  let ad := le l 6 2
  (le l 0 2 != le l 0x3E 2,
   { seq := le l 0 2, op := le l 2 1, rflags := le l 3 1, model := le l 4 1, tenant := le l 5 1, adapter := ad, topk := le l 8 2,
     promptLen := le l 0x0C 4, prompt := BitVec.ofNat 64 (le l 0x10 8), session := le l 0x18 2,
     clean := decide (le l 3 1 < 32) && ad / 1024 % 32 == 0 && zeros l 0x0A 2 && zeros l 0x1A 2 && zeros l 0x1C 34 })

/-- A selection line read (R286). -/
def selOf (l : List Byte) : Bool × SelEntry :=
  (le l 0 2 != le l 0x3E 2,
   { seq := le l 0 2, step := le l 4 4, nonce := bytesAt l 8 12, sealed_ := bytesAt l 0x14 16, tag := bytesAt l 0x24 16 })

/-- A torn entry is counted (R288). -/
def countTorn (on : Bool) (s : State) : State := if on then countUp pSrv 0x800 15 0 1 s else s

/-- The lines of one changed stream are read (R287): an item, none where the stream is passed over. -/
def readLines (mem : HostMem) (i sum : Nat) (s : State) : Option PollItem × State :=
  match readHost 1 (srvAddr s 1 + 64 * i) 64 mem s with
  | (.error _, s) => (none, s)
  | (.ok a, s) =>
    match readHost 1 (srvAddr s 2 + 64 * i) 64 mem s with
    | (.error _, s) => (none, s)
    | (.ok b, s) =>
      let r := reqOf a
      let q := selOf b
      if r.1 || q.1 then (none, countTorn q.1 (countTorn r.1 s))
      else
        let x := streamAt s i
        (some { stream := i, sum := sum, req := if r.2.seq ≠ x.reqSeq then some r.2 else none,
                sel := if q.2.seq ≠ x.selSeq then some q.2 else none, keep := false }, s)

/-- Lines of the changed streams, in order, POLL_MAX of them at most. -/
def readChanged (mem : HostMem) : Nat → List (Nat × Nat) → List PollItem → State → List PollItem × State
  | _, [], got, s => (got, s)
  | 0, _, got, s => (got, s)
  | n + 1, e :: l, got, s =>
    match readLines mem e.1 e.2 s with
    | (some it, s) => readChanged mem n l (got ++ [it]) s
    | (none, s) => readChanged mem n l got s

/-- A stream's entries are handled: SUM_SEEN is the summary byte that was read, but where an entry is left for another poll. -/
def itemDone (it : PollItem) (s : State) : State :=
  if it.keep then s else updStream it.stream (fun x => { x with sumSeen := it.sum }) s

/-- What is left of an item's selection without a command: one that its stream does not await (R287). DESIGN CHOICE, log 42. -/
def settleSel (it : PollItem) (s : State) : Option PollItem × State :=
  match it.sel with
  | none => (none, itemDone it s)
  | some q =>
    match (streamAt s it.stream).st with
    | .waitSel => (some it, s)
    | .inFlight | .paused | .scheduled => (none, itemDone { it with keep := true } s)
    | _ => (none, itemDone it (updStream it.stream (fun x => { x with selSeq := q.seq }) s))

/-- What is left of an item without a command: a request that names no operation, one that names a reserved operation, one whose
result has no room (R285, R287, R290). -/
def settleItem (it : PollItem) (s : State) : Option PollItem × State :=
  match it.req with
  | none => settleSel it s
  | some r =>
    let done := fun it s => settleSel { it with req := none } s
    if r.op = 0 then done it (updStream it.stream (fun x => { x with reqSeq := r.seq }) s)
    else if !canHold s 64 then done { it with keep := true } s
    else if 4 < r.op then done it (result it.stream E.reqInvalid r.seq false (updStream it.stream (fun x => { x with reqSeq := r.seq }) s))
    else (some it, s)

/-- Items that need no command are handled. -/
def settleList : List PollItem → State → List PollItem × State
  | [], s => ([], s)
  | it :: l, s =>
    match settleItem it s with
    | (some it, s) => (it :: l, s)
    | (none, s) => settleList l s

/-- The items in hand, with those that need no command handled. -/
def settleWork (l : List PollItem) (s : State) : State :=
  let r := settleList l s
  updServing (fun v => { v with work := r.1 }) r.2

/-- HOST_POLL (R287): the summary, CONS and the changed lines are read. -/
def hostPoll (mem : HostMem) (s : State) : State :=
  if !s.serving.polling then s
  else
    let s := updServing (fun v => { v with polling := false }) s
    match readHost 1 (srvAddr s 0) 4160 mem s with
    | (.error _, s) => s
    | (.ok h, s) =>
      let s := updServing (fun v => { v with cons := le h 0x1000 8 }) s
      let changed := (pollOrder s.beat.now (List.range 4096)).filterMap fun i =>
        if le h i 1 ≠ (streamAt s i).sumSeen then some (i, le h i 1) else none
      let r := readChanged mem (liveF s pSrv 0x40 12 0) changed [] s
      settleWork r.1 r.2

/-- The item that a command serves: the first in hand, whose request names an operation. DESIGN CHOICE, log 42. -/
def frontReq (s : State) (op : Nat) : Option (PollItem × ReqEntry × List PollItem) :=
  match s.serving.work with
  | it :: l => match it.req with
    | some r => if r.op = op then some (it, r, l) else none
    | none => none
  | [] => none

/-- A request has been handled with a code: its result, and what remains of its item. -/
def requestDone (it : PollItem) (r : ReqEntry) (l : List PollItem) (c : Code) (ended : Bool) (s : State) : State :=
  let s := updStream it.stream (fun x => { x with reqSeq := r.seq }) (result it.stream c r.seq ended s)
  settleWork ({ it with req := none } :: l) s

/-! ### Prompts, lookup and reservation (R319, R330, R337, R419) -/

/-- The prompt of a request read and opened under a session key: its tokens (R419). DESIGN CHOICE, log 42. -/
def openPrompt (i : Nat) (r : ReqEntry) (key : List Byte) (mem : HostMem) (s : State) : Except Code (List Nat) × State :=
  match readHost 5 r.prompt.toNat (32 + 4 * r.promptLen) mem s with
  | (.error c, s) => (.error c, s)
  | (.ok l, s) =>
    let aad := leBytes 1 1 ++ leBytes 2 i ++ leBytes 2 r.seq ++ leBytes 1 r.op ++ leBytes 4 r.promptLen
    match gcmOpen key (bytesAt l 0 12) aad (bytesAt l 16 (4 * r.promptLen)) (bytesAt l (16 + 4 * r.promptLen) 16) with
    | some p => (.ok ((List.range r.promptLen).map fun k => le p (4 * k) 4), s)
    | none => (.error E.promptAuthFail, countUp pSec 0x804 15 0 1 s)

/-- Why TOPK_K is refused (R290 step 3). -/
def topkReqCheck (k : Nat) : Option Code := firstFail [(k == 0xFFFF, E.reservedValue), (decide (1024 < k), E.countOverrun)]

/-- Why PROMPT_LEN is refused against a model's context limit (R290 step 4). DESIGN CHOICE, log 42. -/
def promptLenCheck (s : State) (m len : Nat) : Option Code :=
  firstFail [(len == 0xFFFFFFFF, E.reservedValue), (decide (m < 64) && decide (ctxLimit s m < len), E.lenOverrun)]

/-- The scope of a stream in its own or its draft model. -/
def scopeOf (s : State) (x : Stream) (draft : Bool) : PxScope :=
  let m := if draft then draftOf s x.model else x.model
  { model := m, epoch := activeEp s m, pub := x.pub, tenant := x.tenant, ad := if draft then none else x.ad }

/-- What a stream holds in a model once matched blocks es have been adopted from scope q: eligible, its capture that of the
adopted entries (R331). -/
def kvBegins (s : State) (q : PxScope) (es : List Nat) (k : StreamKv) : StreamKv :=
  { k with eligible := pxOn s q.model, capture := if es.isEmpty then none else some (q.epoch, q.ad) }

/-- A model's frames for a stream: n more reserved where they can be. -/
def reserve (i m : Nat) (draft : Bool) (n : Nat) (s : State) : Option State :=
  if canReserve s m n then some (addReserved m n (updStream i (fun x => setKv draft { kvOf x draft with resv := n } x) s)) else none

/-- The lookup, adoption and reservation of a stream whose prompt is in its entry, where the tick leaves time for a number of
blocks: none where the frames cannot be reserved (R319, R330, R337). -/
def lookupReserve (i blocks : Nat) (s : State) : Option State :=
  let x := streamAt s i
  let b := s.beat.now
  let q := scopeOf s x false
  let dq := scopeOf s x true
  let es := pxLookup s q x.tokens blocks
  let ds := if x.spec then pxLookup s dq x.tokens blocks else es
  let a := Nat.min es.length ds.length
  let spec := b2n x.spec
  let s := if pxStopped s q x.tokens blocks es.length || (x.spec && pxStopped s dq x.tokens blocks ds.length) then
      countUp pKv 0x840 15 0 1 s else s
  let s := countUp pKv 0x818 31 0 a (adopt i q.model false b (es.take a) s)
  let s := if x.spec then countUp pKv 0x818 31 0 a (adopt i dq.model true b (ds.take a) s) else s
  let s := updStream i (fun x => { x with
    pos := 64 * a, kv := kvBegins s q (es.take a) x.kv, dkv := if x.spec then kvBegins s dq (ds.take a) x.dkv else x.dkv }) s
  match reserve i q.model false (ctxBlocks s q.model - a + spec) s with
  | none => none
  | some s => if x.spec then reserve i dq.model true (ctxBlocks s dq.model - a + spec) s else some s

/-! ### Requests (R290, R291) -/

/-- Step 7 of R290 (R416). -/
def sessionCheck (s : State) (h tenant : Nat) : Option Code :=
  let y := sessionAt s h
  firstFail
    [(decide (8192 ≤ h) || y.st == .closed, E.sessionInvalid),
     (y.tenant != tenant, E.sessionInvalid),
     (y.st == .bound, E.sessionBusy)]

/-- The entry that an ADMIT sets (R290). -/
def admitted (s : State) (x : Stream) (r : ReqEntry) (tokens : List Nat) : Stream :=
  { Stream.reset with
    st := .scheduled, model := r.model, tenant := r.tenant,
    ad := if r.adapter / 2 ^ 15 = 1 then some (r.adapter % 1024, (adapterAt s (r.adapter % 1024)).version) else none,
    topk := r.topk, batch := r.rflags % 2 == 1, channel := r.rflags / 2 % 4, spec := r.rflags / 8 % 2 == 1,
    pub := r.rflags / 16 % 2 == 1, sumSeen := x.sumSeen, nextBeat := s.beat.now + 1, lastCode := x.lastCode, reqSeq := x.reqSeq,
    selSeq := x.selSeq, session := r.session, promptEnd := r.promptLen, prompt := r.prompt, first := true, tokens := tokens,
    size := specF s r.model 0 22 16 }

/-- Steps 1 to 10 of R290, with those of R337. -/
def admitChecks (s : State) (i : Nat) (r : ReqEntry) : Option Code :=
  let m := r.model
  let x := admitted s (streamAt s i) r []
  let largest := if x.spec then Nat.max (verifyBytes s x (specF s m 0 22 16)) (64 + pad64 (outBytes s x)) else 64 + pad64 (outBytes s x)
  (firstFail
    [(!r.clean || r.promptLen == 0, E.reqInvalid),
     ((streamAt s i).st != .free, E.streamBusy)]).orElse fun _ =>
  (topkReqCheck r.topk).orElse fun _ =>
  (promptLenCheck s m r.promptLen).orElse fun _ =>
  (firstFail
    [(!tnOn s r.tenant, E.tenantDisabled),
     (decide (64 ≤ m) || !modelReady s m || statusBit s m 7 || modelTenant s m != r.tenant || !mioValid s m, E.modelInvalid)]).orElse
    fun _ =>
  (sessionCheck s r.session r.tenant).orElse fun _ =>
  (if r.adapter / 2 ^ 15 = 1 then adapterCheck s (r.adapter % 1024) m r.tenant else none).orElse fun _ =>
  firstFail
    [(x.batch && !bcServes s x.channel m, E.reqInvalid),
     (x.spec && (x.batch || specF s m 0 31 31 == 0), E.reqInvalid),
     (decide (ringSize s < largest + 64), E.sizeOverrun)]

/-- ADMIT once its prompt has been opened: the session is bound, the adapter referenced, blocks adopted and frames reserved. -/
def admitTokens (i : Nat) (r : ReqEntry) (tokens : List Nat) (blocks : Nat) (s : State) : Option State :=
  let x := admitted s (streamAt s i) r tokens
  let s := setStream i x (setSession r.session { sessionAt s r.session with st := .bound, stream := i } s)
  let s := match x.ad with
    | some a => adapterRef a.1 true s
    | none => s
  lookupReserve i blocks s

/-- ADMIT (R290) -/
def admitReq (mem : HostMem) (blocks : Nat) (s : State) : State :=
  match frontReq s 1 with
  | none => s
  | some (it, r, l) =>
    let i := it.stream
    match admitChecks s i r with
    | some c => requestDone it r l c false s
    | none =>
      match openPrompt i r (keysOf s r.session).1 mem s with
      | (.error c, s) => requestDone it r l c false s
      | (.ok tokens, s) =>
        match admitTokens i r tokens blocks s with
        | some s => requestDone it r l 0 false s
        | none => requestDone it r l E.kvExhausted false s

/-- PREFILL once its prompt has been opened: what the stream held is released before the new lookup (R320). -/
def prefillTokens (i : Nat) (r : ReqEntry) (tokens : List Nat) (blocks : Nat) (s : State) : Option State :=
  let x := streamAt s i
  let s := releaseKv i x.model false s
  let s := if x.spec then releaseKv i (draftOf s x.model) true s else s
  lookupReserve i blocks (updStream i (fun x => { x with
    st := .scheduled, pos := 0, promptEnd := r.promptLen, prompt := r.prompt, nextBeat := s.beat.now + 1, hold := .none, first := true,
    tokens := tokens, paid := [], prevA := 0, prevPath := [], lastNodes := [], lastPos := 0, probe := false }) s)

/-- PREFILL (R291). DESIGN CHOICE, log 42. -/
def prefillReq (mem : HostMem) (blocks : Nat) (s : State) : State :=
  match frontReq s 4 with
  | none => s
  | some (it, r, l) =>
    let i := it.stream
    let x := streamAt s i
    match (firstFail [(!r.clean || r.promptLen == 0, E.reqInvalid), (x.st != .needPrefill, E.streamState)]).orElse fun _ =>
        (topkReqCheck r.topk).orElse fun _ => promptLenCheck s x.model r.promptLen with
    | some c => requestDone it r l c false s
    | none =>
      match openPrompt i r (keysOf s x.session).1 mem s with
      | (.error c, s) => requestDone it r l c false s
      | (.ok tokens, s) =>
        match prefillTokens i r tokens blocks s with
        | some s => requestDone it r l 0 false s
        | none => requestDone it r l E.kvExhausted false s

/-- END (R291, R309). DESIGN CHOICE, log 40. -/
def endRequest (s : State) : State :=
  match frontReq s 2 with
  | none => s
  | some (it, r, l) =>
    match firstFail [(!r.clean, E.reqInvalid), ((streamAt s it.stream).st == .free, E.streamState)] with
    | some c => requestDone it r l c false s
    | none =>
      let atOnce := (streamAt s it.stream).run.isNone
      let s := updStream it.stream (fun x => { x with reqSeq := r.seq }) (result it.stream 0 r.seq atOnce s)
      settleWork ({ it with req := none } :: l) (endStream it.stream 0 s)

/-- REBIND (R277, R291) -/
def rebindReq (s : State) : State :=
  match frontReq s 3 with
  | none => s
  | some (it, r, l) =>
    let x := streamAt s it.stream
    match firstFail [(!r.clean, E.reqInvalid), (x.st == .free || x.st == .ending, E.streamState)] with
    | some c => requestDone it r l c false s
    | none =>
      let slot := if r.adapter / 2 ^ 15 = 1 then some (r.adapter % 1024) else none
      requestDone it r l 0 false (updStream it.stream (fun x => { x with rebind := some slot }) s)

/-! ### Selections (R296, R307, R346, R348) -/

/-- TOKEN, ACTION and ACCEPT of a selection that authenticates (R286, R420). -/
def openSel (s : State) (i : Nat) (q : SelEntry) : Option (Nat × Nat × Nat) :=
  let aad := leBytes 1 2 ++ leBytes 2 i ++ leBytes 4 q.step
  match gcmOpen (keysOf s (streamAt s i).session).1 q.nonce aad q.sealed_ q.tag with
  | some p => if zeros p 6 10 && decide (le p 4 1 < 2) then some (le p 0 4, le p 4 1, le p 5 1) else none
  | none => none

/-- Nodes on the path from the root, the root left out, to a node. -/
def pathTo (nodes : List Node) : Nat → Nat → List Nat
  | 0, _ => []
  | n + 1, k => if k = 0 then [] else pathTo nodes n (nodes.getD k ⟨0, 0, 0, 0⟩).parent ++ [k]

/-- Depth of a verified tree. -/
def treeDepth (nodes : List Node) : Nat := nodes.foldl (fun d n => Nat.max d n.depth) 0

/-- SIZE, ZRUN and halvings after a round with accepted depth a (R348, R349). -/
def sizeAfter (s : State) (x : Stream) (a : Nat) : Nat × Nat × Nat :=
  let most := specF s x.model 0 22 16
  let back := specF s x.model 0 7 0
  let size := Nat.min x.size most
  if a = 0 then
    if x.lastProbe then (size, x.zrun, 0)
    else if back ≠ 0 ∧ back ≤ x.zrun + 1 then (Nat.max 1 (size / 2), 0, 1) else (size, Nat.min 255 (x.zrun + 1), 0)
  else if treeDepth x.lastNodes < 2 * a then (Nat.min most (2 * size), 0, 0)
  else (size, 0, 0)

/-- A valid ACTION 0 selection of a round: yield, refund, SIZE, and what the next marker commits (R346, R348). -/
def selectRound (i token accept : Nat) (s : State) : State :=
  let x := streamAt s i
  let path := pathTo x.lastNodes accept accept
  let a := (x.lastNodes.getD accept ⟨0, 0, 0, 0⟩).depth
  let p := x.pos
  let toks := path.map fun k => (x.lastNodes.getD k ⟨0, 0, 0, 0⟩).token
  let z := sizeAfter s x a
  let s := setBalance x.tenant (Nat.min (fullBalance s x.tenant) (balance s x.tenant + 16 * (x.lastDepth - a))) s
  let s := countUp 0x1B 0x810 15 0 z.2.2 (countUp 0x1B 0x80C 31 0 (a + 1) s)
  updStream i (fun x => { x with
    pos := p + a + 1, tokens := x.tokens.take (p + 1) ++ toks ++ [token], token := token, prevA := a, prevPath := path, lastPos := p,
    size := z.1, zrun := z.2.1 }) s

/-- A valid ACTION 0 selection of another step. -/
def selectPlain (i token : Nat) (s : State) : State :=
  updStream i (fun x => { x with tokens := x.tokens.take x.pos ++ [token], token := token, prevA := 0, prevPath := [] }) s

/-- A selection is discarded with a notice; the stream stays in WAIT_SEL (R307). -/
def discardSel (i : Nat) (c : Code) (s : State) : State :=
  let s := if c = E.selStale then countUp pSrv 0x804 31 16 1 s
    else if c = E.selAuthFail then countUp pSrv 0x804 15 0 1 s else s
  notice i c false s

/-- A selection that has passed every check (R296, R307). -/
def selectNow (i token action accept : Nat) (s : State) : State :=
  if action = 1 then endWith i 0 s
  else
    let round := !(streamAt s i).lastNodes.isEmpty
    let s := if round then selectRound i token accept s else selectPlain i token s
    if ctxLimit s (streamAt s i).model ≤ (streamAt s i).pos then endWith i E.contextLimit s
    else updStream i (fun x => { x with st := .scheduled, hold := .none, nextBeat := s.beat.now + 1 }) s

/-- A selection of a stream in WAIT_SEL is checked and acts (R307, R346). DESIGN CHOICE, log 42. -/
def handleSel (i : Nat) (q : SelEntry) (s : State) : State :=
  let x := streamAt s i
  let s := updStream i (fun x => { x with selSeq := q.seq }) s
  if (q.step + 1) % 2 ^ 32 ≠ x.step then discardSel i E.selStale s
  else match openSel s i q with
    | none => discardSel i E.selAuthFail s
    | some (token, action, accept) =>
      if action = 0 ∧ vocab s x.model ≤ token then discardSel i E.selTokenInvalid s
      else if (if x.lastNodes.isEmpty then accept ≠ 0 else x.lastNodes.length ≤ accept) then discardSel i E.selAcceptInvalid s
      else selectNow i token action accept s

/-- SELECTION (R307): the selection of the first item in hand. -/
def selection (s : State) : State :=
  match s.serving.work with
  | it :: l =>
    match it.req, it.sel with
    | none, some q => settleWork ({ it with sel := none } :: l) (handleSel it.stream q s)
    | _, _ => s
  | [] => s

/-! ### Commands of the serving engine's pages (R312, R332, R335, R352) -/

/-- A hold reason's code (R283). -/
def holdCode : Hold → Nat
  | .none => 0 | .budget => 1 | .ring => 2 | .stage => 3 | .epoch => 4 | .placement => 5 | .tenantOff => 6 | .gather => 7

/-- A stream state's code (R282). -/
def streamCode : StreamSt → Nat
  | .free => 0 | .scheduled => 1 | .inFlight => 2 | .waitSel => 3 | .needPrefill => 4 | .paused => 5 | .ending => 6

/-- The six words of a stream's entry (R283). -/
def streamWords (x : Stream) : List DWord :=
  let ad := match x.ad with
    | some a => 2 ^ 45 + 2 ^ 35 * a.1
    | none => 0
  [BitVec.ofNat 64 (2 ^ 61 * streamCode x.st + 2 ^ 60 * x.epoch + 2 ^ 54 * x.model + 2 ^ 46 * x.tenant + ad + x.step),
   BitVec.ofNat 64 ((match x.ad with
      | some a => 2 ^ 48 * a.2
      | none => 0) + 2 ^ 22 * x.pos + 2 ^ 11 * x.topk + 2 ^ 10 * b2n x.batch + 2 ^ 8 * x.channel + 2 ^ 7 * b2n x.spec + 2 ^ 6 * b2n x.pub),
   BitVec.ofNat 64 (2 ^ 60 * holdCode x.hold + 2 ^ 48 * x.sumSeen + x.nextBeat.toNat),
   BitVec.ofNat 64 (2 ^ 48 * x.lastCode.toNat + 2 ^ 32 * x.reqSeq + 2 ^ 16 * x.selSeq + x.session),
   BitVec.ofNat 64 x.promptEnd, x.prompt]

/-- ST_SEL: the entry of the selected stream is latched (R312). -/
def stSel (i : Nat) (s : State) : State :=
  updServing (fun v => { v with stLatch := streamWords (streamAt s i) }) (setLive 0x11 0x800 (BitVec.ofNat 32 i) s)

/-- The result of ST_CMD.END enters the next record, or waits for room. DESIGN CHOICE, log 42. -/
def cmdResult (i : Nat) (c : Code) (ended : Bool) (s : State) : State :=
  if s.serving.late.isEmpty ∧ canHold s 64 then result i c 0 ended s
  else setLastCode i c (updServing (fun v => { v with late := v.late ++ [plainEntry s i 5 c 0 ended] }) s)

/-- ST_CMD.END (R309, R312) -/
def stCmdEnd (s : State) : State :=
  let i := liveF s 0x11 0x800 11 0
  if (streamAt s i).st = .free then cmdResult i E.streamState false s
  else endStream i 0 (cmdResult i 0 (streamAt s i).run.isNone s)

/-- Words 1 to 3 of a prefix tree entry (R329). -/
def pxWords (e : PxEntry) : List DWord :=
  [BitVec.ofNat 64 (2 ^ 48 * e.parent + 2 ^ 32 * e.children + 2 ^ 19 * e.refs + 2 ^ 8 * e.tenant + 2 ^ 7 * b2n e.pub + 2 ^ 6 * e.epoch + e.model),
   BitVec.ofNat 64 ((match e.ad with
      | some a => 2 ^ 63 + 2 ^ 53 * a.1 + 2 ^ 32 * a.2
      | none => 0) + 2 ^ 31 * b2n e.stack + e.frame),
   BitVec.ofNat 64 (2 ^ 62 * (if e.st = .live then 1 else 2) + e.last.toNat)]

/-- PX_SEL: the selected entry is latched (R335). -/
def pxSel (i : BitVec 16) (s : State) : State :=
  let w := match pxAt s i.toNat with
    | some e => pxWords e
    | none => [0, 0, 0]
  updServing (fun v => { v with pxLatch := w }) (setLive pKv 0x820 (i.setWidth 32) s)

/-- FLUSH_MODEL (R332) -/
def flushModel (s : State) : State :=
  let m := liveF s pKv 0x800 5 0
  pxDetachAll (fun e => e.model == m) s

/-- SPEC_SEL: SPEC_ST of the selected stream is latched (R352). -/
def specSel (i : Nat) (s : State) : State :=
  let x := streamAt s i
  let v := if x.spec then 2 ^ 25 * x.size + 2 ^ 17 * x.zrun + 2 ^ 9 * x.plain + 2 ^ 4 * x.prevA else 0
  setLive 0x1B 0x804 (BitVec.ofNat 32 v) (setLive 0x1B 0x800 (BitVec.ofNat 32 i) s)

/-- HOST_POLL (R287) -/
def execHostPoll (host : HostMem) (s : State) : Result := .next (hostPoll host s)
/-- ADMIT (R290) -/
def execAdmit (host : HostMem) (blocks : Nat) (s : State) : Result := .next (admitReq host blocks s)
/-- END (R291) -/
def execReqEnd (s : State) : Result := .next (endRequest s)
/-- REBIND (R291) -/
def execRebind (s : State) : Result := .next (rebindReq s)
/-- PREFILL (R291) -/
def execPrefill (host : HostMem) (blocks : Nat) (s : State) : Result := .next (prefillReq host blocks s)
/-- SELECTION (R307) -/
def execSelection (s : State) : Result := .next (selection s)
/-- ST_CMD.END (R312) -/
def execStCmdEnd (m : Master) (s : State) : Result := .next (onPage m 0x11 0x834 stCmdEnd s)
/-- ST_SEL (R312) -/
def execStSel (m : Master) (stream : Fin 4096) (s : State) : Result := .next (onPage m 0x11 0x800 (stSel stream.val) s)
/-- PX_SEL (R335) -/
def execPxSel (m : Master) (index : BitVec 16) (s : State) : Result := .next (onPage m pKv 0x820 (pxSel index) s)
/-- FLUSH_MODEL (R332) -/
def execFlushModel (m : Master) (s : State) : Result := .next (onPage m pKv 0x83C flushModel s)
/-- SPEC_SEL (R352) -/
def execSpecSel (m : Master) (stream : Fin 4096) (s : State) : Result := .next (onPage m 0x1B 0x800 (specSel stream.val) s)

end Sys2Proof.Machine
end

