-- ==== Sys2Proof/Machine/Output.lean ====
section
/-! DEFINITION. Collecting outputs, completing steps and writing gyle records (R21, R300 to R306, R331, R338, R342 to R345, R361,
R362, R364, R421). -/

namespace Sys2Proof.Machine

open Sys2Proof

/-! ### Records (R302 to R305) -/

/-- The first 32 bytes of an entry. -/
def entryHead (e : GEntry) : List Byte :=
  leBytes 2 e.stream ++ leBytes 1 e.kind ++ leBytes 1 (b2n e.ended + 2 * b2n e.sealed_ + 4 * e.epoch + 8 * b2n e.topk)
    ++ leBytes 2 e.code.toNat ++ leBytes 2 e.reqSeq ++ leBytes 4 e.step ++ leBytes 4 e.pos ++ leBytes 4 e.count
    ++ leBytes 4 e.payload.length ++ leBytes 8 e.beat.toNat

/-- An entry as it is written. -/
def entryBytes (e : GEntry) : List Byte :=
  entryHead e ++ e.nonce ++ List.replicate 4 0 ++ e.tag ++ e.payload ++ List.replicate (pad64 e.payload.length - e.payload.length) 0

/-- A record's header. -/
def headerBytes (r : GRec) (rseq : Nat) (skipped : Bool) : List Byte :=
  leBytes 4 0x454C5947 ++ leBytes 2 (b2n r.loss + 2 * b2n skipped) ++ leBytes 2 0 ++ leBytes 4 r.entries.length
    ++ leBytes 4 (64 + entriesSize r.entries) ++ leBytes 8 r.beat.toNat ++ leBytes 4 rseq ++ List.replicate 36 0

/-- Whether records can be written: the host can be reached, or the ring lies in exchange memory (R363, R364). -/
def recordable (s : State) : Bool :=
  hostReady s || (match aperByte s (srvAddr s 3) with
    | some (true, _) => true
    | _ => false)

/-- The pieces of a write of bytes at an offset of the ring, which may wrap: aperture offset and bytes. -/
def ringPieces (s : State) (off : Nat) (l : List Byte) : List (Nat × List Byte) :=
  let size := ringSize s
  let o := off % size
  [(srvAddr s 3 + o, l.take (size - o)), (srvAddr s 3, l.drop (size - o))].filter fun p => !p.2.isEmpty

/-- Step entries of a stream that records not yet begun and the next record hold. -/
def laterEntries (s : State) (i : Nat) : List GEntry :=
  (s.serving.recs.filter (·.phase == .waiting)).flatMap (fun r => r.entries.filter fun e => e.stream == i && e.of.isSome)
    ++ s.serving.queue.filter fun e => e.stream == i && e.of.isSome

/-- They are taken out of those records. -/
def dropLater (i : Nat) (s : State) : State :=
  let keep := fun (e : GEntry) => !(e.stream == i && e.of.isSome)
  updServing (fun v => { v with
    recs := v.recs.map fun r => if r.phase = .waiting then { r with entries := r.entries.filter keep } else r
    queue := v.queue.filter keep }) s

/-- The last entry of an ended stream is not written: a notice takes its place (R309, R362). DESIGN CHOICE, log 40. -/
def endedEntry (e : GEntry) (s : State) : State :=
  queueEntry { e with kind := 6, sealed_ := false, topk := false, count := 0, payload := [], nonce := List.replicate 12 0,
                      tag := List.replicate 16 0, resv := 64, of := none } s

/-- Step entries `es` of stream i are not written (R362): the stream goes back to the first of them, and its later steps, in flight
or with entries that are not written either, are abandoned with it. DESIGN CHOICE, log 40. -/
def entriesLost (i : Nat) (es : List GEntry) (s : State) : State :=
  let all := es ++ laterEntries s i
  let steps := all.filterMap (·.of)
  match all.find? (·.ended), steps with
  | some e, _ => endedEntry e (dropLater i s)
  | none, [] => s
  | none, r :: _ =>
    let x := streamAt s i
    let run := x.run.toList
    if x.step ≠ (r.step + steps.length + run.length) % 2 ^ 32 ∨ x.st = .free ∨ x.st = .ending ∨ x.st = .needPrefill then s
    else
      let s := dropLater i s
      let s := match x.run with
        | some q => stepLeaves i q s
        | none => s
      reissue i r ((steps ++ run).map paidFor ++ x.paid) s

/-- Entries of records that cannot be written (R362): results and notices return to the hub, and the steps of each stream are
issued again. DESIGN CHOICE, log 40. -/
def dissolve (es : List GEntry) (s : State) : State :=
  let lost := es.filter (·.of.isSome)
  let s := ((lost.map (·.stream)).dedup).foldl (fun s i => entriesLost i (lost.filter (·.stream == i)) s) s
  updServing (fun v => { v with queue := (es.filter (·.of.isNone)).map (fun e => { e with resv := 64 }) ++ v.queue }) s

/-- Changes the record that is being written. -/
def updRec (f : GRec → GRec) (s : State) : State :=
  updServing (fun v => { v with recs := match v.recs with
    | r :: l => f r :: l
    | [] => [] }) s

/-- The first record has been written: the write offset and RSEQ move on (R304, R311). -/
def recWritten (s : State) : State :=
  match s.serving.recs with
  | r :: l =>
    let v := s.serving
    let n := 64 + entriesSize r.entries
    setLive pSrv 0x810 (BitVec.ofNat 32 v.rseq)
      (updServing (fun v => { v with recs := l, writeOff := (v.writeOff + n) % Nat.max 1 (ringSize s), rseq := (v.rseq + 1) % 2 ^ 32,
                                     skipped := false }) s)
  | [] => s

/-- The header of the first record is written: true where it is done at once. -/
def sendHeader (s : State) : Bool × State :=
  match s.serving.recs with
  | r :: _ =>
    let off := srvAddr s 3 + s.serving.writeOff
    let l := headerBytes r s.serving.rseq s.serving.skipped
    match aperRange s off 64 with
    | none => (false, updRec (fun r => { r with phase := .headerDue }) (hostFail E.hostUnmapped 2 off s))
    | some (true, a) => (true, recWritten (exchWrite a l s))
    | some (false, a) =>
      if hostReady s then (false, hostSend .header true off a 64 l (updRec (fun r => { r with phase := .header }) s))
      else (false, updRec (fun r => { r with phase := .headerDue }) s)
  | [] => (false, s)

/-- Entry pieces of the first record are written, in order: how many are outstanding, and whether one failed at once. -/
def sendPieces : List (Nat × List Byte) → State → Nat × Bool × State
  | [], s => (0, false, s)
  | p :: l, s =>
    match aperRange s p.1 p.2.length with
    | none => (0, true, hostFail E.hostUnmapped 2 p.1 s)
    | some (true, a) => sendPieces l (exchWrite a p.2 s)
    | some (false, a) =>
      if hostReady s then
        let r := sendPieces l (hostSend .entry true p.1 a p.2.length p.2 s)
        (r.1 + 1, r.2)
      else (0, true, hostFail E.hostAccessFail 2 p.1 s)

/-- The first record is dropped from the list, and dissolves. DESIGN CHOICE, log 40. -/
def dissolveFirst (s : State) : State :=
  match s.serving.recs with
  | r :: l => dissolve r.entries (updServing (fun v => { v with recs := l }) s)
  | [] => s

/-- Records that wait are written in turn, while one is done at once. -/
def startRecs : Nat → State → State
  | 0, s => s
  | n + 1, s =>
    match s.serving.recs with
    | r :: _ =>
      if r.phase ≠ .waiting then s
      else if !recordable s then startRecs n (dissolveFirst s)
      else
        let p := sendPieces (ringPieces s (s.serving.writeOff + 64) (r.entries.flatMap entryBytes)) s
        let s := p.2.2
        if p.1 = 0 then
          (if p.2.1 then startRecs n (dissolveFirst s)
           else match sendHeader s with
            | (true, s) => startRecs n s
            | (false, s) => s)
        else updRec (fun r => { r with phase := .entries p.1 p.2.1 }) s
    | [] => s

/-- The records in hand go on. DESIGN CHOICE, log 42. -/
def writeOn (s : State) : State := startRecs s.serving.recs.length s

/-- An entry write of the first record has been observed, or has failed (R361, R362). -/
def entryWriteEnds (ok : Bool) (s : State) : State :=
  match s.serving.recs with
  | r :: _ =>
    match r.phase with
    | .entries left failed =>
      let bad := failed || !ok
      if left ≤ 1 then
        (if bad then writeOn (dissolveFirst s)
         else match sendHeader s with
          | (true, s) => writeOn s
          | (false, s) => s)
      else updRec (fun r => { r with phase := .entries (left - 1) bad }) s
    | _ => s
  | [] => s

/-- The header write has been observed, or has failed and is due again at each later tick (R362). -/
def headerWriteEnds (ok : Bool) (s : State) : State :=
  if ok then writeOn (recWritten s) else updRec (fun r => { r with phase := .headerDue }) s

/-- Notices that waited enter the next record while there is room (R303). -/
def lateEnter : List GEntry → State → State
  | [], s => s
  | e :: l, s =>
    if canHold s 64 then lateEnter l (queueEntry e (updServing (fun v => { v with late := l }) s)) else s

/-- Whether a step is in flight. -/
def anyInFlight (s : State) : Bool := s.serving.streams.any fun e => e.2.run.isSome

/-- The record of beat b closes and its write begins (R302, R303). -/
def closeRecord (b : Beat) (loss : Bool) (s : State) : State :=
  let s := lateEnter s.serving.late s
  let q := s.serving.queue
  if q.isEmpty ∧ ringFree s < 64 then updServing (fun v => { v with skipped := true }) (countUp pSrv 0x80C 31 0 1 s)
  else writeOn (updServing (fun v => { v with queue := [], recs := v.recs ++ [⟨b, loss, q, .waiting⟩] }) s)

/-- Step 3 of R36 at beat b: a header that is due is written first; then the record of the beat (R302, R362, R364). -/
def gyleTick (b : Beat) (s : State) : State :=
  if !recordable s then s
  else
    let s := match s.serving.recs with
      | r :: _ => if r.phase = .headerDue then (match sendHeader s with
          | (true, s) => writeOn s
          | (false, s) => s) else s
      | [] => s
    if srvOn s || anyInFlight s || !s.serving.queue.isEmpty || !s.serving.late.isEmpty then closeRecord b false s else s

/-- Once the beat is lost and no step is in flight, the closing record is written (R39). DESIGN CHOICE, log 41. -/
def closingRecord (s : State) : State :=
  if s.beat.mode = .lost ∧ !anyInFlight s ∧ (srvOn s ∨ !s.serving.queue.isEmpty) ∧ recordable s then closeRecord s.beat.now true s
  else s

/-- With the host out of reach, records that have not begun dissolve (R364). -/
def recordsStop (s : State) : State :=
  if recordable s then s
  else
    let wait := s.serving.recs.filter (·.phase == .waiting)
    dissolve (wait.flatMap (·.entries)) (updServing (fun v => { v with recs := v.recs.filter (·.phase != .waiting) }) s)

/-! ### Descriptors (R300, R301) -/

/-- An output descriptor. -/
structure OutDesc where
  stream : Nat
  kind : Nat
  nseg : Nat
  step : Nat
  count : Nat
  /-- bytes and local address of each segment -/
  segs : List (Nat × Nat)
  deriving DecidableEq, Repr

/-- A descriptor from its 256 bytes. -/
def outDesc (l : List Byte) : OutDesc :=
  { stream := le l 0 2, kind := le l 2 1, nseg := le l 3 1, step := le l 4 4, count := le l 8 4,
    segs := (List.range (Nat.min 30 (le l 3 1))).map fun i =>
      let w := le l (16 + 8 * i) 8
      (32 * (w / 2 ^ 50), w % 2 ^ 50) }

/-- Whether a segment lies in a core of a placement, its length in range. -/
def segOk (p : Placed) (g : Nat × Nat) : Bool :=
  decide (32 ≤ g.1) && decide (g.1 ≤ 32 * 6144) && g.2 % 32 == 0 && (match addrKind g.2 with
    | .core c off => (coresOf p).contains c && decide (off + g.1 ≤ 0x30000)
    | _ => false)

/-- NSEG and every segment are within range. -/
def segsOk (p : Placed) (d : OutDesc) : Bool :=
  decide (d.nseg ≤ 30) && (d.kind == 2 || d.nseg != 0) && d.segs.all (segOk p)

/-- Bytes of the segments. -/
def segTotal (d : OutDesc) : Nat := d.segs.foldl (fun n g => n + g.1) 0

/-- Whether pairs stand in the order of R126. DEDUCED, log 43. -/
def pairsOrdered (l : List Byte) (n : Nat) : Bool :=
  (List.range (n - 1)).all fun i =>
    topkBefore (wordAt l (8 * i), wordAt l (8 * i + 4)) (wordAt l (8 * i + 8), wordAt l (8 * i + 12))

/-- Whether the pairs that each segment holds stand in order: the segments, their bytes, and how many pairs are left. -/
def listsOk : List (Nat × Nat) → List Byte → Nat → Bool
  | [], _, n => n == 0
  | g :: l, b, n => pairsOrdered (b.take g.1) (Nat.min n (g.1 / 8)) && listsOk l (b.drop g.1) (n - g.1 / 8)

/-- A rejected output: no payload. DESIGN CHOICE, log 41. -/
def outInvalid : OutRec := ⟨2, 0, [], E.outputInvalid⟩

/-- A node's record in an entry (R345). -/
def entryNode (n : Node) : List Byte := leBytes 4 n.token ++ leBytes 1 n.parent ++ leBytes 1 n.depth ++ leBytes 2 0

/-- Ring bytes of a vector output (R303). -/
def vectorResv (d : OutDesc) : Nat := 64 + pad64 (4 * d.count)

/-- The output of a step of the main model as a descriptor and the bytes of its segments give it (R301, R344, R345). -/
def mainOutput (s : State) (p : Placed) (x : Stream) (r : StepRec) (d : OutDesc) (bytes : List Byte) : OutRec :=
  let n := segTotal d
  let v := vocab s x.model
  if !segsOk p d then outInvalid
  else if r.kind = 2 then
    let per := outBytes s x
    if d.kind = 4 ∧ d.count = r.nodes.length ∧ n = d.count * per then
      ⟨4, d.count, r.nodes.flatMap entryNode ++ bytes.take (d.count * per), 0⟩
    else outInvalid
  else if !r.final then (if d.kind = 2 then ⟨2, 0, [], 0⟩ else outInvalid)
  else if d.kind = 0 then (if x.topk = 0 ∧ 4 * v ≤ n then ⟨0, v, bytes.take (4 * v), 0⟩ else outInvalid)
  else if d.kind = 1 then
    (if x.topk ≠ 0 ∧ listsOk d.segs bytes d.count then
      let l := topkBytes d.count x.topk 0 true bytes
      ⟨1, l.length / 8, l, 0⟩
     else outInvalid)
  else if d.kind = 3 then
    (if 4 * d.count ≤ n ∧ vectorResv d + 64 ≤ Nat.max (r.resv + 64) (ringSize s) then ⟨3, d.count, bytes.take (4 * d.count), 0⟩ else outInvalid)
  else outInvalid

/-- Node records of a draft tree from their bytes, checked in ascending index (R342): the tree so far, and how many are left. DEDUCED, log 43. -/
def treeFrom (l : List Byte) (depth : Nat) : Nat → List Node → Option (List Node)
  | 0, t => some t
  | n + 1, t =>
    let i := t.length
    let o := 16 * (i - 1)
    let parent := le l (o + 4) 1
    let q := t.getD parent ⟨0, 0, 0, 0⟩
    let d := le l (o + 5) 1
    if parent < i ∧ d = q.depth + 1 ∧ d ≤ depth ∧ zeros l (o + 6) 2 then
      treeFrom l depth n (t ++ [⟨le l o 4, parent, d, q.anc ||| BitVec.ofNat 64 (2 ^ i)⟩])
    else none

/-- The tree that a draft descriptor gives, where it passes R301 and R342. DEDUCED, log 43. -/
def draftTree (p : Placed) (x : Stream) (r : StepRec) (d : OutDesc) (bytes : List Byte) : Option (List Node) :=
  if d.kind = 4 ∧ segsOk p d ∧ d.count ≤ r.size - 1 ∧ 16 * d.count ≤ segTotal d then
    treeFrom bytes r.depth d.count [{ rootNode x with token := r.token }]
  else none

/-- The draft model answers a round: its tree is accepted, or the root alone is verified (R342). DEDUCED, log 43. -/
def draftAnswers (i : Nat) (p : Placed) (r : StepRec) (d : OutDesc) (bytes : List Byte) (s : State) : State :=
  let x := streamAt s i
  let put := fun r s => updStream i (fun x => { x with run := some { r with draftLeft := false, treeBeat := s.beat.now } }) s
  match draftTree p x r d bytes with
  | some t => put { r with nodes := t } s
  | none =>
    countUp 0x1B 0x810 31 16 1 (put { r with
      nodes := [{ rootNode x with token := r.token }], code := if r.code = 0 then E.draftTreeInvalid else r.code } s)

/-- The main model answers a step. -/
def mainAnswers (i : Nat) (p : Placed) (r : StepRec) (d : OutDesc) (bytes : List Byte) (s : State) : State :=
  let o := mainOutput s p (streamAt s i) r d bytes
  let o := if (r.out.map (·.code)) = some E.outputInvalid then outInvalid else o
  updStream i (fun x => { x with run := some { r with
    mainLeft := false, out := some o, resv := if o.kind = 3 then Nat.max r.resv (vectorResv d) else r.resv } }) s

/-- The draft model answers its copy of another step (R338): with KIND 2, or the step has an invalid output. -/
def copyAnswers (i : Nat) (p : Placed) (r : StepRec) (d : OutDesc) (s : State) : State :=
  let ok := d.kind == 2 && segsOk p d
  updStream i (fun x => { x with
    run := some { r with draftLeft := false, out := if ok then r.out else some outInvalid } }) s

/-- Whether a descriptor of a model names a step of its main model in flight, or of its draft (R301, R338). -/
def namesMain (s : State) (m : Nat) (d : OutDesc) : Option StepRec :=
  let x := streamAt s d.stream
  x.run.filter fun r => r.step == d.step && x.model == m && r.mainLeft && (r.kind != 2 || r.verifying)
/-- The same for a draft model. -/
def namesDraft (s : State) (m : Nat) (d : OutDesc) : Option StepRec :=
  let x := streamAt s d.stream
  x.run.filter fun r => r.step == d.step && x.spec && draftOf s x.model == m && r.draftLeft

/-- What a descriptor of a model does with the bytes of its segments: none where it names no step of the model in flight (R301). -/
def outputOf (m : Nat) (p : Placed) (d : OutDesc) (bytes : List Byte) (s : State) : Option State :=
  match namesMain s m d, namesDraft s m d with
  | some r, _ => some (mainAnswers d.stream p r d bytes s)
  | none, some r => some (if r.kind = 2 then draftAnswers d.stream p r d bytes s else copyAnswers d.stream p r d s)
  | none, none => none

/-- Whether a vector output waits: its reservation is made once its COUNT is known, and the ring has no room for it yet (R303). DESIGN
CHOICE, log 41. -/
def vectorWaits (s : State) (m : Nat) (d : OutDesc) : Bool :=
  let x := streamAt s d.stream
  match x.run with
  | some r => decide (r.step = d.step) && decide (d.kind = 3) && r.final && r.kind != 2 && x.model == m && r.mainLeft
      && decide (r.resv < vectorResv d) && decide (vectorResv d + 64 ≤ ringSize s) && !canHold s (vectorResv d - r.resv)
  | none => false

/-- READs of at most 512 bytes of some ranges of core store: address and length of each. -/
def hubPieces (l : List (Nat × Nat)) : List (Nat × Nat) :=
  l.flatMap fun g => (piecesOf 512 (2 ^ 50) g.2 g.1).map fun q => (g.2 + q.1, q.2)

/-- The hub asks for ranges of core store, through the hub port of each core's field (R15, R301). -/
def hubAsks (m : Nat) (want : List (Nat × Nat)) (s : State) : State :=
  want.foldl (fun s q =>
    let h := hubPort s (fieldOfCore (q.1 / 0x40000))
    let i := (modelAt s m).readNo
    injectEngine (hubRouter h)
      (towardAddr q.1 { msgNull with cls := .read, rflits := q.2 / 32, rcore := hubRouter h, src := srcHub h, origin := .hub h m i })
      (updModel m (fun x => { x with readNo := i + 1 }) s)) s

/-- The hub begins to read: a descriptor, or with it at hand its segments. -/
def startCollect (m : Nat) (desc : Option (List Byte)) (want : List (Nat × Nat)) (s : State) : State :=
  hubAsks m want (updModel m (fun x => { x with collect := some ⟨desc, want, x.readNo, [], false⟩ }) s)

/-- Everything that was asked for has come back, or something cannot be had. -/
def collected (c : Collect) : Bool := c.bad || c.got.length == c.want.length

/-- The bytes that came back, in order. -/
def collectBytes (c : Collect) : List Byte :=
  (List.range c.want.length).flatMap fun k => (mfind c.got (c.first + k)).getD []

/-- The output of a model is taken: the next descriptor's turn, and an acknowledgement through the hub port of the ring's core
(R300, R301). -/
def outputTaken (m c : Nat) (s : State) : State :=
  let h := hubPort s (fieldOfCore c)
  sendAdd (hubRouter h) (srcHub h) (mioF s m 2 14 0) 1
    (updModel m (fun x => { x with collect := none, outNo := x.outNo + 1, outEpoch := x.outEpoch + 1 }) s)

/-- A descriptor is skipped (R301). -/
def outputSkipped (m c : Nat) (s : State) : State := outputTaken m c (countUp pSrv 0x814 31 16 1 s)

/-- OUTPUT_COLLECT (R300, R301): OUT_TALLY of a model has fired. Its next descriptor is read; once it is there its segments are
read; once those are there it is checked, its step answered, and it is acknowledged. A descriptor that names no step in flight, or
whose bytes cannot be had, is skipped. DESIGN CHOICE, log 41. DESIGN CHOICE, log 42. -/
def outputCollect (m : Nat) (s : State) : State :=
  let y := modelAt s m
  match y.place, slotCore s m (mioF s m 1 24 18) (mioF s m 1 17 6) with
  | some p, some c =>
    if !mioValid s m ∨ (tallyAt s (mioF s m 2 29 15)).epoch = y.outEpoch then s
    else match y.collect with
      | none => startCollect m none [(coreAddr c (16384 * mioF s m 1 3 0 + 256 * (y.outNo % 64)), 256)] s
      | some q =>
        if !collected q then s
        else match q.desc with
          | none =>
            let l := collectBytes q
            let d := outDesc l
            if q.bad || ((namesMain s m d).isNone && (namesDraft s m d).isNone) then outputSkipped m c s
            else startCollect m (some l) (if segsOk p d then hubPieces d.segs else []) s
          | some l =>
            let d := outDesc l
            if vectorWaits s m d then s
            else
              let d := if q.bad then { d with nseg := 31 } else d
              match outputOf m p d (collectBytes q) s with
              | some s => outputTaken m c s
              | none => outputSkipped m c s
  | _, _ => s

/-! ### Completion (R21, R282, R309, R331, R421) -/

/-- KIND of a step's entry (R305). -/
def entryKind (r : StepRec) (o : OutRec) : Nat :=
  if r.kind = 2 then 3
  else if o.kind = 3 then 4
  else if r.kind = 1 then (if r.final then 2 else 1)
  else 0

/-- A step's entry before it is sealed. -/
def stepEntry (s : State) (i : Nat) (x : Stream) (r : StepRec) (o : OutRec) : GEntry :=
  let code := if o.code ≠ 0 then o.code else if r.code ≠ 0 then r.code else if x.st = .ending then x.endCode else 0
  { stream := i, kind := entryKind r o, ended := x.st == .ending, sealed_ := !o.payload.isEmpty, epoch := r.epoch,
    topk := o.kind == 1 || (o.kind == 4 && x.topk != 0), code := code, reqSeq := 0, step := r.step, pos := r.pos, count := o.count,
    payload := o.payload, beat := s.beat.now, nonce := List.replicate 12 0, tag := List.replicate 16 0, resv := r.resv, of := some r }

/-- An entry is sealed under K_out of its stream's session (R421). -/
def sealEntry (h : Nat) (e : GEntry) (s : State) : GEntry × State :=
  if e.payload.isEmpty then (e, s)
  else
    let y := sessionAt s h
    let nonce := leBytes 4 0 ++ leBytes 8 y.counter
    let c := gcmSeal (keysOf s h).2 nonce (entryHead e) e.payload
    ({ e with nonce := nonce, payload := c.1, tag := c.2 }, setSession h { y with counter := y.counter + 1 } s)

/-- A completed step's positions are published in a model (R331). -/
def publishKv (i : Nat) (draft : Bool) (filled : Nat) (s : State) : State :=
  let x := streamAt s i
  match (kvOf x draft).capture with
  | some c =>
    publish i draft { model := if draft then draftOf s x.model else x.model, epoch := c.1, pub := x.pub, tenant := x.tenant, ad := c.2 }
      s.beat.now filled (filled / 64 + 1) s
  | none => s

/-- A stream after its step has completed (R282, R295). -/
def afterStep (b : Beat) (r : StepRec) (x : Stream) : Stream :=
  { x with
    run := none, pos := if r.kind = 2 then r.pos else r.pos + r.count, st := if r.final then .waitSel else .scheduled,
    nextBeat := if r.final then x.nextBeat else b + 2, prevA := 0, prevPath := [], lastNodes := if r.kind = 2 then r.nodes else [],
    lastDepth := if r.kind = 2 then r.depth else 0, lastProbe := r.probe }

/-- STEP_COMPLETE (R21): the output of a step is sealed, and its entry enters the next record. -/
def stepComplete (i : Nat) (s : State) : State :=
  let x := streamAt s i
  match x.run with
  | none => s
  | some r =>
    match r.out with
    | none => s
    | some o =>
      if r.mainLeft || r.draftLeft then s
      else if !recordable s then closingRecord (abandonStep i s)
      else
        let s := countUp pSrv 0x814 15 0 (b2n (o.code != 0)) (countUp 0x1B 0x808 31 0 (b2n (r.kind == 2)) s)
        let e := sealEntry x.session (stepEntry s i x r o) s
        let s := queueEntry e.1 (stepLeaves i r e.2)
        let s := setLastCode i e.1.code (updStream i (afterStep s.beat.now r) s)
        let filled := if r.kind = 2 then r.pos else r.pos + r.count
        let s := publishKv i false filled s
        let s := if x.spec then publishKv i true filled s else s
        closingRecord (if x.st = .ending then freeStream i s else s)

/-- OUTPUT_COLLECT (R301) -/
def execOutputCollect (model : Fin 64) (s : State) : Result := .next (outputCollect model.val s)
/-- STEP_COMPLETE (R21) -/
def execStepComplete (stream : Fin 4096) (s : State) : Result := .next (stepComplete stream.val s)

end Sys2Proof.Machine
end

