-- ==== Sys2Proof/Machine/Host.lean ====
section
/-! DEFINITION. The CXL port: the link, requests to host memory, snoops, exchange memory, interrupts and IDE failures (R354,
R357, R360 to R367, R369). -/

namespace Sys2Proof.Machine

open Sys2Proof

/-! ### Requests to host memory (R360 to R362) -/

/-- REQ of HI_LAST_FAIL of a requester. -/
def reqCode : HostWho → Nat
  | .put _ _ | .get _ _ => 3
  | _ => 2

/-- The last request of an access is done: its requester goes on, or hears of the failure (R361, R362). -/
def jobEnds (j : HostJob) (s : State) : State :=
  match j.who with
  | .entry => entryWriteEnds (!j.failed) s
  | .header => headerWriteEnds (!j.failed) s
  | .put o n => if j.failed then notify o E.hostAccessFail 0 s else landed o n s
  | .get m h =>
    if j.failed then readRefused m E.hostAccessFail s
    else injectEngine (hubRouter h) (replyMsg m (srcHub h) (jobBytes j)) s

/-- A request that has been taken is done, with what it has read, or has failed: counted, latched and recorded (R362). -/
def lineEnds (q : HostReq) (ok : Bool) (l : List Byte) (s : State) : State :=
  let who := ((s.host.jobs.find? (·.id == q.job)).map (·.who)).getD .entry
  let r := lineDone q ok l (if ok then s else hostFail E.hostAccessFail (reqCode who) q.off s)
  match r.1 with
  | some j => jobEnds j r.2
  | none => r.2

/-- The answer that request `id` awaits has come: a read's line, or the observation of a write (R360, R361). -/
def hostAnswers (id : Nat) (write : Bool) (l : List Byte) (s : State) : State :=
  match takeHostReq id s with
  | some (q, t) =>
    if q.write ≠ write ∨ (write = false ∧ l.length ≠ 64) ∨ hostReady s = false then s
    else lineEnds q true ((l.drop (q.addr % 64)).take q.len) t
  | none => s

/-- A request fails with HOST_ACCESS_FAIL (R362). DESIGN CHOICE, log 44. -/
def hostReqFails (id : Nat) (s : State) : State :=
  match takeHostReq id s with
  | some (q, s) => lineEnds q false [] s
  | none => s

/-! ### The link (R354, R364) -/

/-- What takes the link down (R364). PRESUMED, log 8. DESIGN CHOICE, log 44. -/
def resetsFunction : DownCause → Bool
  | .perst | .hotReset => true
  | _ => false

/-- What the cause does to the function's configuration space: PERST# and hot reset reset it, and in D3hot its memory space does not
answer (R357, R364). -/
def configAfter (cause : DownCause) (h : HostIf) : HostIf :=
  if resetsFunction cause then
    { h with cacheEn := false, hdmOn := false, memSpace := false, msixMask := HostIf.reset.msixMask, msix := HostIf.reset.msix,
             pba := 0, aer := 0 }
  else if cause = .d3hot then { h with memSpace := false } else h

/-- Both IDE streams end, and no key slot is in use. -/
def ideEnds (s : State) : State :=
  { s with host := { s.host with ideIo := false, ideCm := false }, sec := { s.sec with ideSlot := none } }

/-- HOST_LINK_DOWN (R364): recorded and counted where the link was up, outstanding requests fail, and records that have not begun
dissolve. The cause acts on the configuration space whether or not the link was up. DESIGN CHOICE, log 44. -/
def hostLinkDown (cause : DownCause) (s : State) : State :=
  let was := s.host.up
  let reqs := s.host.reqs
  let s := updHost (configAfter cause) s
  if !was then s
  else
    let s := ideEnds (updHost (fun h => { h with up := false, rate := 0, width := 0, lopt := false, wentDown := true }) s)
    let s := countUp pHost 0x80C 31 16 1 (recordErrAny pHost E.hostLinkDown s)
    recordsStop (reqs.foldl (fun s q => hostReqFails q.id s) s)

/-- What the function presents (R353, R355, R356). PRESUMED, log 8. -/
def fnIdentity (s : State) : FnIdentity :=
  { vendor := Config.vendorId, device := 0x0C01, revision := if Config.stepping = .a1 then 0xA1 else 0xB0, classCode := 0x120000,
    vectors := 4, extCaps := [0x01, 0x25, 0x26, 0x2A, 0x31, 0x2E, 0x30, 0x23], dvsecs := [0, 7, 8], cacheCapable := true,
    ioCapable := true, memCapable := true, hdmCount := 1, cacheKiB := 64, rangeMiB := 256, memInfoValid := s.host.memActive,
    memActive := s.host.memActive, bar0KiB := 65536, bar2KiB := 128 }

/-- HOST_LINK_TRAIN (R354, R365, R366, R508): from stage 8 of start-up on, the partner offers flit modes, a rate and a width; the
link is up, or stays down. -/
def hostLinkTrain (lopt std : Bool) (rate width : Nat) (s : State) : State :=
  if s.host.up || !s.boot.serviceReady then s
  else if !lopt && !std then recordErrAny pHost E.hostLinkMode s
  else
    let was := s.host.wentDown
    let h := { s.host with up := true, rate := rate, width := width, lopt := lopt, wentDown := false }
    let s := emit (.presents (fnIdentity s)) (sendDue (countUp pHost 0x200 31 16 1 { s with host := h }))
    if was then raiseIrq 3 s else s

/-- HOST_LINK_UP (R353, R356, R357, R364, R366): with the link up, system software has set the enables and the MSI-X table and
cleared errors of AER; messages that are no longer masked are sent. -/
def hostLinkUp (g : HostCfg) (s : State) : State :=
  if s.host.up then
    sendDue (updHost (fun h => { h with
      cacheEn := g.cacheEn, hdmOn := g.hdmOn, memSpace := g.memSpace, msix := g.msix.toList, msixMask := g.mask,
      aer := h.aer &&& ~~~g.aerClear }) s)
  else s

/-- HOST_LINK_RECOVERY (R365, R369). DESIGN CHOICE, log 44. -/
def hostLinkRecovery (s : State) : State :=
  if s.host.up then raiseIrq 3 (countUp pHost 0x80C 15 0 1 s) else s

/-! ### Exchange memory (R363) -/

/-- Size of exchange memory: 256 MiB. -/
def exchSize : Nat := 0x10000000

/-- HDM_ACCESS (R363): a CXL.mem read, or a write of bytes, at an offset of the range. -/
def hdmAccess (addr len : Nat) (write : Option (List Byte)) (interleaved : Bool) (s : State) : State :=
  let n := match write with
    | some l => l.length
    | none => len
  if !s.host.up || !s.host.hdmOn then s
  else if interleaved || decide (exchSize < addr + n) then emit .hdmError s
  else match write with
    | some l => exchWrite addr l s
    | none => emit (.hdmData (exchRead s addr len)) s

/-! ### Interrupts and IDE (R366, R367) -/

/-- IRQ_STATUS_CLEAR (R366) -/
def irqClear (v : BitVec 4) (s : State) : State := setLive pIrq 0x800 (live s pIrq 0x800 &&& ~~~(v.setWidth 32)) s

/-- MSIX_UNMASK (R366) -/
def msixUnmask (v : Nat) (s : State) : State := sendDue { s with host := { s.host with msixMask := withBits s.host.msixMask v v 0 } }

/-- IDE_CHECK_FAIL (R367): the stream is insecure, the link stays up. DESIGN CHOICE, log 44. -/
def ideCheckFail (s : State) : State :=
  if s.host.ideIo || s.host.ideCm then
    raiseIrq 3 (countUp 0x22 0x804 31 16 1 (recordErrAny pHost E.ideCheckFail (ideEnds s)))
  else s

/-- HOST_LINK_TRAIN (R354) -/
def execHostLinkTrain (lopt std : Bool) (rate width : Fin 3) (s : State) : Result :=
  .next (hostLinkTrain lopt std (rate.val + 1) (width.val + 1) s)
/-- HOST_LINK_DOWN (R364) -/
def execHostLinkDown (cause : DownCause) (s : State) : Result := .next (hostLinkDown cause s)
/-- HOST_LINK_UP (R364) -/
def execHostLinkUp (cfg : HostCfg) (s : State) : Result := .next (hostLinkUp cfg s)
/-- HOST_READ_DATA (R360) -/
def execHostReadData (id : Nat) (data : List Byte) (s : State) : Result := .next (hostAnswers id false data s)
/-- HOST_WRITE_OBSERVED (R361) -/
def execHostWriteObserved (id : Nat) (s : State) : Result := .next (hostAnswers id true [] s)
/-- HOST_REQUEST_ERROR (R362) -/
def execHostRequestError (id : Nat) (s : State) : Result := .next (hostReqFails id s)
/-- HOST_REQUEST_TIMEOUT (R362) -/
def execHostRequestTimeout (id : Nat) (s : State) : Result := .next (hostReqFails id s)
/-- H2D_SNOOP (R360) -/
def execH2dSnoop (s : State) : Result := .next (emit .rspIHitI s)
/-- HDM_ACCESS (R363) -/
def execHdmAccess (addr len : Nat) (write : Option (List Byte)) (interleaved : Bool) (s : State) : Result :=
  .next (hdmAccess addr len write interleaved s)
/-- IRQ_STATUS_CLEAR (R366) -/
def execIrqStatusClear (m : Master) (clear : BitVec 4) (s : State) : Result := .next (onPage m pIrq 0x800 (irqClear clear) s)
/-- MSIX_UNMASK (R366) -/
def execMsixUnmask (vector : Fin 4) (s : State) : Result := .next (msixUnmask vector.val s)
/-- IDE_CHECK_FAIL (R367) -/
def execIdeCheckFail (s : State) : Result := .next (ideCheckFail s)
/-- HOST_LINK_RECOVERY (R369) -/
def execHostLinkRecovery (s : State) : Result := .next (hostLinkRecovery s)

end Sys2Proof.Machine
end

