-- ==== Sys2Proof/Machine/Kem.lean ====
section
/-! DEFINITION. ML-KEM-1024 under FIPS 203, and the SHA-3 functions of FIPS 202 that it uses (R410). PRESUMED, log 36. -/

namespace Sys2Proof.Machine

open Sys2Proof

/-! ### SHA-3 -/

/-- The 24 round constants of Keccak, first in the highest bits. -/
def kecK : Nat := 0x00000000000000010000000000008082800000000000808A8000000080008000000000000000808B000000008000000180000000800080818000000000008009000000000000008A00000000000000880000000080008009000000008000000A000000008000808B800000000000008B8000000000008089800000000000800380000000000080028000000000000080000000000000800A800000008000000A8000000080008081800000000000808000000000800000018000000080008008

/-- The rotation of each lane. -/
def kecRot : List Nat := [0, 1, 62, 28, 27, 36, 44, 6, 55, 20, 3, 10, 43, 25, 39, 41, 45, 15, 21, 8, 18, 2, 61, 56, 14]

/-- One round on the 25 lanes, lane (x, y) at x + 5 y. -/
def kecRound (a : List DWord) (rc : DWord) : List DWord :=
  let c := (List.range 5).map fun x => (List.range 5).foldl (fun w y => w ^^^ a.getD (x + 5 * y) 0) 0
  let d := (List.range 5).map fun x => c.getD ((x + 4) % 5) 0 ^^^ (c.getD ((x + 1) % 5) 0).rotateLeft 1
  let b := (List.range 25).map fun i =>
    let j := (i % 5 + 3 * (i / 5)) % 5 + 5 * (i % 5)
    (a.getD j 0 ^^^ d.getD (j % 5) 0).rotateLeft (kecRot.getD j 0)
  (List.range 25).map fun i =>
    let w := b.getD i 0 ^^^ (~~~ b.getD (i / 5 * 5 + (i + 1) % 5) 0 &&& b.getD (i / 5 * 5 + (i % 5 + 2) % 5) 0)
    if i = 0 then w ^^^ rc else w

/-- Keccak-f[1600]. -/
def keccak (a : List DWord) : List DWord := (List.range 24).foldl (fun a i => kecRound a (BitVec.ofNat 64 (kecK / 2 ^ (64 * (23 - i))))) a

/-- A block is taken into the lanes. -/
def kecAbsorb (a : List DWord) (b : List Byte) : List DWord :=
  keccak ((List.range 25).map fun i => a.getD i 0 ^^^ BitVec.ofNat 64 (leNat ((b.drop (8 * i)).take 8)))

/-- Blocks that leave the lanes. -/
def kecSqueeze (rate : Nat) : Nat → List DWord → List Byte
  | 0, _ => []
  | n + 1, a => (a.flatMap fun w => leBytes 8 w.toNat).take rate ++ kecSqueeze rate n (keccak a)

/-- The sponge: a message with its domain suffix, padded to whole blocks; `len` bytes are answered. -/
def sponge (rate suffix : Nat) (l : List Byte) (len : Nat) : List Byte :=
  let body := l ++ [BitVec.ofNat 8 suffix] ++ List.replicate (rate - 1 - l.length % rate) 0
  let pad := body.dropLast ++ [body.getLastD 0 ||| 0x80]
  (kecSqueeze rate (len / rate + 1) ((groupsOf rate pad).foldl kecAbsorb (List.replicate 25 0))).take len

/-- SHA3-256, SHA3-512, SHAKE128 and SHAKE256. -/
def sha3 (l : List Byte) : List Byte := sponge 136 6 l 32
/-- SHA3-512 -/
def sha3Long (l : List Byte) : List Byte := sponge 72 6 l 64
/-- SHAKE128 -/
def shake128 (l : List Byte) (len : Nat) : List Byte := sponge 168 0x1F l len
/-- SHAKE256 -/
def shake256 (l : List Byte) (len : Nat) : List Byte := sponge 136 0x1F l len

/-! ### Polynomials of 256 coefficients modulo 3,329 -/

/-- The modulus. -/
def kemQ : Nat := 3329

/-- A polynomial, or its transform. -/
abbrev Poly := List Nat

/-- Coefficients of d bits as 32 d bytes. -/
def polyBytes (d : Nat) (f : Poly) : List Byte := leBytes (32 * d) (f.foldr (fun c n => c + 2 ^ d * n) 0)

/-- Coefficients of d bits read from bytes. -/
def bytesPoly (d : Nat) (l : List Byte) : Poly :=
  let n := leNat l
  (List.range 256).map fun i => n / 2 ^ (d * i) % 2 ^ d

/-- A coefficient rounded to d bits, and back. -/
def compress (d c : Nat) : Nat := (2 ^ (d + 1) * c + kemQ) / (2 * kemQ) % 2 ^ d
/-- The coefficient of d bits. -/
def decompress (d c : Nat) : Nat := (2 * kemQ * c + 2 ^ d) / 2 ^ (d + 1)

/-- Sum and difference. -/
def polyAdd (f g : Poly) : Poly := List.zipWith (fun a b => (a + b) % kemQ) f g
/-- The difference of two polynomials. -/
def polySub (f g : Poly) : Poly := List.zipWith (fun a b => (a + kemQ - b) % kemQ) f g

/-- The seven bits of a number in reverse. -/
def rev7 (i : Nat) : Nat := (List.range 7).foldl (fun n k => 2 * n + i / 2 ^ k % 2) 0

/-- The power of 17, a 256th root of unity. -/
def zeta (e : Nat) : Nat := 17 ^ (e % 256) % kemQ

/-- The sum of products of two lists. -/
def dot (f g : List Nat) : Nat := (List.zipWith (· * ·) f g).foldl (· + ·) 0 % kemQ

/-- The even coefficients, or the odd ones. -/
def everyOther (k : Nat) (f : Poly) : List Nat := (List.range 128).map fun j => f.getD (2 * j + k) 0

/-- Two lists of 128 as the even and the odd coefficients. -/
def interleave (f g : List Nat) : Poly := (List.zip f g).flatMap fun p => [p.1, p.2]

/-- The transform: remainders modulo the 128 quadratic factors. -/
def ntt (f : Poly) : Poly :=
  let ev := everyOther 0 f
  let od := everyOther 1 f
  let at_ := fun l => (List.range 128).map fun i => dot l ((List.range 128).map fun j => zeta ((2 * rev7 i + 1) * j))
  interleave (at_ ev) (at_ od)

/-- The inverse transform. -/
def nttInv (f : Poly) : Poly :=
  let ev := everyOther 0 f
  let od := everyOther 1 f
  let at_ := fun l => (List.range 128).map fun j =>
    3303 * dot l ((List.range 128).map fun i => zeta ((256 - (2 * rev7 i + 1) % 256) * j)) % kemQ
  interleave (at_ ev) (at_ od)

/-- The product of two transforms. -/
def nttMul (f g : Poly) : Poly :=
  (List.range 128).flatMap fun i =>
    let a := f.getD (2 * i) 0
    let b := f.getD (2 * i + 1) 0
    let c := g.getD (2 * i) 0
    let d := g.getD (2 * i + 1) 0
    [(a * c + b * d % kemQ * zeta (2 * rev7 i + 1)) % kemQ, (a * d + b * c) % kemQ]

/-- The zero polynomial. -/
def polyZero : Poly := List.replicate 256 0

/-- The sum of the products of two vectors of transforms. -/
def vecMul (f g : List Poly) : Poly := (List.zipWith nttMul f g).foldl polyAdd polyZero

/-! ### Sampling -/

/-- A uniform transform: the candidates of 840 bytes below the modulus (SampleNTT). -/
def sampleUniform (seed : List Byte) : Poly :=
  let cand := (groupsOf 3 (shake128 seed 840)).flatMap fun b =>
    [(b.getD 0 0).toNat + 256 * ((b.getD 1 0).toNat % 16), (b.getD 1 0).toNat / 16 + 16 * (b.getD 2 0).toNat]
  ((cand.filter (· < kemQ)) ++ polyZero).take 256

/-- A small polynomial from a seed and a number (SamplePolyCBD with 2). -/
def sampleSmall (seed : List Byte) (n : Nat) : Poly :=
  (bytesPoly 4 (shake256 (seed ++ [BitVec.ofNat 8 n]) 128)).map fun c => (c % 2 + c / 2 % 2 + kemQ - c / 4 % 2 - c / 8) % kemQ

/-- Row i of the matrix, or of its transpose. -/
def kemRow (rho : List Byte) (transpose : Bool) (i : Nat) : List Poly :=
  (List.range 4).map fun j =>
    let e := if transpose then [i, j] else [j, i]
    sampleUniform (rho ++ e.map (BitVec.ofNat 8))

/-! ### The key pair, encapsulation and decapsulation -/

/-- A boot KEM key pair: the encapsulation key of 1,568 bytes, the secret transforms, and the secret of a rejected ciphertext. -/
structure KemPair where
  ek : List Byte
  sk : List Poly
  z : List Byte
  deriving DecidableEq, Repr

/-- ML-KEM.KeyGen of 64 seed bytes. -/
def kemGen (seed : List Byte) : KemPair :=
  let g := sha3Long (seed.take 32 ++ [4])
  let rho := g.take 32
  let sig := g.drop 32
  let s := (List.range 4).map fun i => ntt (sampleSmall sig i)
  let t := (List.range 4).map fun i => polyAdd (vecMul (kemRow rho false i) s) (ntt (sampleSmall sig (4 + i)))
  ⟨t.flatMap (polyBytes 12) ++ rho, s, seed.drop 32⟩

/-- Encryption of 32 bytes under randomness r. -/
def kemEncrypt (ek m r : List Byte) : List Byte :=
  let t := (groupsOf 384 (ek.take 1536)).map fun b => (bytesPoly 12 b).map (· % kemQ)
  let rho := ek.drop 1536
  let y := (List.range 4).map fun i => ntt (sampleSmall r i)
  let u := (List.range 4).map fun i => polyAdd (nttInv (vecMul (kemRow rho true i) y)) (sampleSmall r (4 + i))
  let mu := (bytesPoly 1 m).map (decompress 1)
  let v := polyAdd (polyAdd (nttInv (vecMul t y)) (sampleSmall r 8)) mu
  u.flatMap (fun f => polyBytes 11 (f.map (compress 11))) ++ polyBytes 5 (v.map (compress 5))

/-- Decryption. -/
def kemDecrypt (sk : List Poly) (ct : List Byte) : List Byte :=
  let u := (groupsOf 352 (ct.take 1408)).map fun b => (bytesPoly 11 b).map (decompress 11)
  let v := (bytesPoly 5 (ct.drop 1408)).map (decompress 5)
  polyBytes 1 ((polySub v (nttInv (vecMul sk (u.map ntt)))).map (compress 1))

/-- ML-KEM.Encaps with 32 random bytes m: the ciphertext of 1,568 bytes and the secret of 32. -/
def kemEncaps (ek m : List Byte) : List Byte × List Byte :=
  let g := sha3Long (m ++ sha3 ek)
  (kemEncrypt ek m (g.drop 32), g.take 32)

/-- ML-KEM.Decaps: it never reports failure (R414). -/
def kemDecaps (k : KemPair) (ct : List Byte) : List Byte :=
  let m := kemDecrypt k.sk ct
  let g := sha3Long (m ++ sha3 k.ek)
  if kemEncrypt k.ek m (g.drop 32) = ct then g.take 32 else shake256 (k.z ++ ct) 32

end Sys2Proof.Machine
end

