-- ==== Sys2Proof/Machine/Security.lean ====
section
/-! DEFINITION. The security engine: signatures, the report, tenants, sessions, the mailbox and DOE, and the link handshake (R368,
R407 to R416, R423 to R425, R427, R428, R430). -/

namespace Sys2Proof.Machine

open Sys2Proof

/-- Changes what the security engine holds. -/
def updSec (f : SecEngine → SecEngine) (s : State) : State := { s with sec := f s.sec }

/-- Page 0x0029, the mailbox. -/
def pMailbox : Nat := 0x29

/-- Whether the security engine serves commands: it has booted and does not restart (R508, R516). -/
def seRuns (s : State) : Bool := s.sec.bootId.isSome && !restarts s 0 0 && !(mget .reset s.boot.comps 0).dead.contains 0

/-- BOOT_ID as bytes. -/
def bootBytes (s : State) : List Byte := leBytes 16 (s.sec.bootId.getD 0).toNat
/-- The boot KEM key pair (R410). PRESUMED, log 67. -/
def kemPair (s : State) : KemPair := kemGen s.sec.kemSeed
/-- The boot KEM public key. -/
def kemPublic (s : State) : List Byte := (kemPair s).ek
/-- Its SHA-256. -/
def kemHash (s : State) : List Byte := sha256 (kemPublic s)
/-- The secret of a ciphertext, 32 bytes. -/
def decap (s : State) (ct : List Byte) : List Byte := kemDecaps (kemPair s) ct
/-- DEVICE_ID as bytes. -/
def deviceBytes : List Byte := leBytes 16 Config.deviceId.toNat
/-- What GET_CERTS returns (R428). -/
def certs : List Byte := identityKey ++ deviceBytes ++ Config.endorsement

/-! ### Signatures (R408, R409) -/

/-- Leaves of the identity key. -/
def leafMax : Nat := 2 ^ 30

/-- A leaf for one signature: reserved in flash where it must be, its tree bound, and used (R408, R409). DESIGN CHOICE, log 47. -/
def takeLeaf (flash : Bool) (s : State) : Except Code Nat × State :=
  let q := s.sec.leaf
  if leafMax ≤ q then (.error E.identityExhausted, updSec (fun x => { x with signHalt := true }) s)
  else if s.sec.bucket = 0 then (.error E.attestRate, s)
  else if !s.sec.identityOk then
    let v := freshWord s
    (.error (v.1.setWidth 16), v.2)
  else
    let k := q / 2 ^ 15
    let bound := s.sec.tree.map (·.1) == some k
    let need := decide (s.sec.reservedTo ≤ q) || !bound
    let upTo := if s.sec.reservedTo ≤ q then q - q % 256 + 256 else s.sec.reservedTo
    let tree := if bound then s.sec.tree else some (k, signedTree k)
    let s1 := if need then recWrite 2 (curVersion s 2) (leafBytes upTo tree) flash s else s
    if need && !flash then (.error E.flashWriteFail, updSec (fun x => { x with signHalt := true }) s1)
    else
      (.ok q, countUp pSec 0x800 31 0 1 (updSec (fun x => { x with
        leaf := q + 1, bucket := x.bucket - 1, reservedTo := upTo, tree := tree, signHalt := decide (leafMax ≤ q + 1) }) s1))

/-- The signed public key of the bottom tree in use, as flash holds it. -/
def treeKey (s : State) : List Byte := (s.sec.tree.map (·.2)).getD []

/-! ### The report (R411, R412) -/

/-- The lowest-numbered unit of a component that has booted, and what it runs. -/
def compRun (s : State) (c : Nat) : FwRun :=
  match (compAt s c).runs.head? with
  | some (_, r) => r
  | none => ⟨0, 0, List.replicate 32 0, 0, 0, 0, [], []⟩

/-- A COMPONENTS entry. DESIGN CHOICE, log 47. -/
def compEntry (s : State) (c : Nat) : List Byte :=
  let r := compRun s c
  leBytes 1 c ++ [0] ++ leBytes 2 r.svn ++ leBytes 4 r.version ++ List.replicate 8 0 ++ r.hash

/-- Models of a tenant that are not EMPTY, ascending. -/
def tenantModels (s : State) (t : Nat) : List Nat := (List.range 64).filter fun m => modelState s m != 0 && modelTenant s m == t

/-- IMAGE_ID of an epoch, 0 when EMPTY. -/
def imageIdOf (s : State) (m e : Nat) : Nat :=
  match epochSt s m e, epImg (modelAt s m) e with
  | 0, _ => 0
  | _, some g => g.imageId.toNat
  | _, none => 0

/-- SHA-256 of the loaded placement image. -/
def placementHash (s : State) (m : Nat) : List Byte :=
  match (modelAt s m).place with
  | some p => p.img.hash
  | none => List.replicate 32 0

/-- An entry of the tenant section (R412). -/
def modelEntry (s : State) (m : Nat) : List Byte :=
  let flags := b2n (s.debugModels.contains m) + 2 * b2n (statusBit s m 7) + 4 * b2n (statusBit s m 27) + 8 * b2n (statusBit s m 28)
    + 16 * b2n (epochSt s m 1 == 3)
  leBytes 1 m ++ leBytes 1 flags ++ List.replicate 6 0 ++ placementHash s m ++ leBytes 16 (imageIdOf s m 0)
    ++ leBytes 16 (imageIdOf s m 1) ++ List.replicate 8 0

/-- The tenant section; empty where the tenant is not bound. -/
def tenantSection (s : State) (t : Nat) : List Byte :=
  match mfind s.sec.tenants t with
  | some trs =>
    let ms := tenantModels s t
    leBytes 1 t ++ leBytes 1 ms.length ++ List.replicate 6 0 ++ leBytes 8 (keyIdOf trs).toNat ++ ms.flatMap (modelEntry s)
  | none => []

/-- A report for a nonce, before its signature; `t` is the tenant asked for, and q the leaf (R411). -/
def reportBody (s : State) (t : Option Nat) (nonce : List Byte) (q : Nat) : List Byte :=
  let sect := match t with
    | some t => tenantSection s t
    | none => []
  let step := match Config.stepping with
    | .a1 => 0xA1
    | .b0 => 0xB0
  let beat := if s.beat.mode = .locked then s.beat.now.toNat else 0
  leBytes 4 0x54505241 ++ leBytes 2 1 ++ [0, 0] ++ leBytes 4 (0x1A0 + sect.length) ++ leBytes 1 step
    ++ leBytes 1 (b2n (!sect.isEmpty) + 2 * b2n (decide (leafMax - (q + 1) < 2 ^ 20)))
    ++ leBytes 2 (ownModule s + 0x8000 * b2n (joined s)) ++ deviceBytes ++ bootBytes s ++ nonce ++ List.replicate 16 0
    ++ leBytes 8 beat ++ leBytes 4 q ++ List.replicate 4 0 ++ kemHash s ++ s.sec.configDigest
    ++ (List.range 5).flatMap (compEntry s) ++ sect

/-- A signed report: its bytes and the signature. -/
def signReport (t : Option Nat) (nonce : List Byte) (flash : Bool) (s : State) : Except Code (List Byte × List Byte) × State :=
  match takeLeaf flash s with
  | (.ok q, s) =>
    let b := reportBody s t nonce q
    (.ok (b, hssSign (treeKey s) q b), s)
  | (.error c, s) => (.error c, s)

/-! ### Commands (R427, R428) -/

/-- Body length of an OP, none for a reserved OP. -/
def opLen (op : Nat) : Option Nat :=
  match op with
  | 1 => some 36 | 2 | 3 => some 0 | 4 => some 1624 | 5 | 6 | 7 => some 4 | 8 => some 1572
  | _ => none

/-- Reserved bytes of a body: first and count. -/
def opResv (op : Nat) : Nat × Nat :=
  match op with
  | 1 => (2, 2) | 4 => (1, 7) | 5 => (1, 3) | 6 => (1, 1) | 7 => (2, 2) | 8 => (1569, 3)
  | _ => (0, 0)

/-- A command read from a message; one that is malformed fails with SE_CMD_INVALID. DESIGN CHOICE, log 47. -/
def parseCmd (src : CmdSrc) (l : List Byte) : SeCmd :=
  let op := le l 0 2
  let len := le l 4 4
  let body := bytesAt l 16 len
  let r := opResv op
  ⟨src, op, le l 8 4, body, decide (l.length < 16) || le l 2 2 != 0 || !zeros l 12 4 || opLen op != some len || body.length != len
    || !zeros body r.1 r.2 || (op == 8 && decide (1 < le body 1568 1))⟩

/-- A mailbox. -/
def mailboxAt (s : State) (m : Nat) : Mailbox := mget .reset s.sec.mailboxes m
/-- Changes it. -/
def updMailbox (m : Nat) (f : Mailbox → Mailbox) (s : State) : State :=
  updSec (fun x => { x with mailboxes := mset .reset x.mailboxes m (f (mget .reset x.mailboxes m)) }) s

/-- An answer of DOE, counted (R371): short ones at once, long ones in chunks that CHUNK_GET fetches (R368). -/
def doeAnswer (l : List Byte) (s : State) : State :=
  let s := countUp 0x22 0x800 15 0 1 s
  if l.length ≤ 4096 then emit (.doe 1 l) s
  else emit (.doe 1 [0x12, 0x7F, 0x0F, 0, 1]) (updSec (fun x => { x with doeOut := l }) s)

/-- The response to a command goes to its sender: a header and the body (R427, R430). DESIGN CHOICE, log 47. -/
def respond (src : CmdSrc) (op rtag : Nat) (c : Code) (body : List Byte) (s : State) : State :=
  let l := leBytes 2 op ++ leBytes 2 c.toNat ++ leBytes 4 body.length ++ leBytes 4 rtag ++ List.replicate 4 0 ++ body
  match src with
  | .mailbox m => updMailbox m (fun x => { x with st := if c = 0 then 2 else 3, resp := l, code := c }) s
  | .doe => doeAnswer ([0x12, 0x7E, 0, 0] ++ l) s

/-- Malformed commands whose turn has come fail (R427): at most n of them. -/
def failMalformed : Nat → State → State
  | 0, s => s
  | n + 1, s =>
    match s.sec.queue with
    | c :: rest =>
      if c.bad && seRuns s then
        failMalformed n (respond c.src c.op c.rtag E.seCmdInvalid [] (updSec (fun x => { x with queue := rest }) s))
      else s
    | [] => s

/-- The malformed commands at the front of the queue fail. -/
def settleCmds (s : State) : State := failMalformed s.sec.queue.length s

/-- A command arrives and waits in order of arrival (R427). DESIGN CHOICE, log 47. -/
def submit (src : CmdSrc) (l : List Byte) (s : State) : State :=
  settleCmds (updSec (fun x => { x with queue := x.queue ++ [parseCmd src l] }) s)

/-- Serves the command at the head of the queue where its OP is `op`: what it answers and does. -/
def serve (op : Nat) (act : List Byte → State → (Code × List Byte) × State) (s : State) : State :=
  match s.sec.queue with
  | c :: rest =>
    if c.op = op ∧ c.bad = false ∧ seRuns s then
      let r := act c.body (updSec (fun x => { x with queue := rest }) s)
      settleCmds (respond c.src c.op c.rtag r.1.1 (if r.1.1 = 0 then r.1.2 else []) r.2)
    else s
  | [] => s

/-- GET_REPORT. DESIGN CHOICE, log 47. -/
def cmdReport (flash : Bool) (b : List Byte) (s : State) : (Code × List Byte) × State :=
  let t := le b 0 2
  match signReport (if t = 0xFFFF then none else some t) (bytesAt b 4 32) flash s with
  | (.ok r, s) => ((0, r.1 ++ r.2), s)
  | (.error c, s) => ((c, []), s)

/-- TENANT_BIND (R414) -/
def cmdBind (b : List Byte) (s : State) : (Code × List Byte) × State :=
  let t := le b 0 1
  if (mfind s.sec.tenants t).isSome then ((E.tenantBusy, []), s)
  else
    let kw := hkdf (decap s (bytesAt b 8 1568)) (some (bootBytes s)) (ascii "PW1 bind" ++ leBytes 1 t) 32
    match gcmOpen kw (List.replicate 12 0) (leBytes 1 t ++ kemHash s) (bytesAt b 1576 32) (bytesAt b 1608 16) with
    | none => ((E.bindAuthFail, []), s)
    | some l =>
      let trs : BitVec 256 := BitVec.ofNat 256 (leNat l)
      let key := storeKeyOf trs (s.sec.bootId.getD 0)
      let s := updSec (fun x => { x with tenants := mput x.tenants t trs }) s
      ((0, []), (List.range 24).foldl (fun s n => setStack n { stackAt s n with keys := mput (stackAt s n).keys t key } s) s)

/-- Whether a tenant has a model or a bound session (R415). -/
def tenantInUse (s : State) (t : Nat) : Bool :=
  !(tenantModels s t).isEmpty || s.sec.sessions.any fun e => e.2.st == .bound && e.2.tenant == t

/-- TENANT_UNBIND (R415) -/
def cmdUnbind (b : List Byte) (s : State) : (Code × List Byte) × State :=
  let t := le b 0 1
  if tenantInUse s t then ((E.tenantBusy, []), s)
  else
    let s := (List.range 24).foldl (fun s n => setStack n { stackAt s n with keys := mdel (stackAt s n).keys t } s) s
    let s := s.sec.sessions.foldl (fun s e =>
      if e.2.st = .opened ∧ e.2.tenant = t then setSession e.1 { e.2 with st := .closed } s else s) s
    ((0, []), updSec (fun x => { x with tenants := mdel x.tenants t }) s)

/-- SESSION_OPEN (R416). DESIGN CHOICE, log 47. -/
def cmdOpen (b : List Byte) (s : State) : (Code × List Byte) × State :=
  let t := le b 0 1
  let h := le b 2 2
  let x := sessionAt s h
  if 8192 ≤ h then ((E.sessionInvalid, []), s)
  else if x.st ≠ .closed then ((E.sessionBusy, []), s)
  else if (mfind s.sec.tenants t).isNone then ((E.tenantUnbound, []), s)
  else if x.gen = 0xFFFFFFFF then ((E.sessionInvalid, []), s)
  else ((0, leBytes 4 (x.gen + 1)), setSession h ⟨.opened, t, x.gen + 1, 0, 0⟩ s)

/-- SESSION_CLOSE (R416). DESIGN CHOICE, log 47. -/
def cmdClose (b : List Byte) (s : State) : (Code × List Byte) × State :=
  let h := le b 0 2
  let x := sessionAt s h
  if 8192 ≤ h then ((E.sessionInvalid, []), s)
  else if x.st ≠ .opened then ((E.sessionBusy, []), s)
  else ((0, []), setSession h { x with st := .closed } s)

/-- The IDE key of a direction and substream (R425). -/
def ideKey (s : State) (ss : List Byte) (slot dir sub : Nat) : List Byte :=
  hkdf ss (some (bootBytes s)) (ascii "PW1 ide" ++ leBytes 1 dir ++ leBytes 1 sub ++ leBytes 1 slot) 32

/-- The first IV of an IDE stream (R425): the invocation field is 1. PRESUMED, log 46. -/
def ideFirstIv : BitVec 96 := 1

/-- IDE_KEYS (R425): the slot's keys are in place with their first IVs, and a link that is up switches to them. DESIGN CHOICE,
log 47. -/
def cmdIde (b : List Byte) (s : State) : (Code × List Byte) × State :=
  let slot := le b 1568 1
  let ss := decap s (bytesAt b 0 1568)
  let ks := [0, 1].flatMap fun d => [0, 1, 2, 3].map fun u => (slot, d, u, ideKey s ss slot d u, ideFirstIv)
  let s := updSec (fun x => { x with ideKeys := x.ideKeys.filter (·.1 != slot) ++ ks }) s
  ((0, []), if s.host.up then
    updSec (fun x => { x with ideSlot := some slot }) { s with host := { s.host with ideIo := true, ideCm := true } } else s)

/-! ### The mailbox (R430) -/

/-- The request buffer of a mailbox as bytes. PRESUMED, log 46. -/
def requestBytes (x : Mailbox) : List Byte := (List.range 4096).flatMap fun i => leBytes 4 (mget 0 x.req i).toNat

/-- SUBMIT. DESIGN CHOICE, log 47. -/
def mbSubmit (m : Nat) (s : State) : State :=
  let x := mailboxAt s m
  if x.st = 1 then recordErrAny pMailbox E.seCmdInvalid s
  else submit (.mailbox m) (requestBytes x) (updMailbox m (fun x => { x with st := 1, resp := [], code := 0 }) s)

/-- RESET: both buffers are discarded, with a command that waits. DESIGN CHOICE, log 47. -/
def mbReset (m : Nat) (s : State) : State :=
  updMailbox m (fun x => { Mailbox.reset with byte := x.byte })
    (settleCmds (updSec (fun x => { x with queue := x.queue.filter (·.src != .mailbox m) }) s))

/-- A read of MB_DATA: the word of the response buffer at BYTE. -/
def mbWord (x : Mailbox) : Word := BitVec.ofNat 32 (le x.resp x.byte 4)

/-- An access to MB_DATA. -/
def mbData (m : Nat) (w : Option Word) (s : State) : State :=
  let x := mailboxAt s m
  let next := (x.byte + 4) % 16384
  match w with
  | some v => updMailbox m (fun x => { x with req := mset 0 x.req (x.byte / 4) v, byte := next }) s
  | none => updMailbox m (fun x => { x with byte := next }) { s with busOut := mset 0 s.busOut m ((mbWord x).setWidth 64) }

/-! ### DOE (R368) -/

/-- A DOE discovery answer: vendor, protocol and next index. PRESUMED, log 46. -/
def doeDiscovery (i : Nat) : List Byte :=
  if i = 0 then leBytes 2 1 ++ [0, 1] else if i = 1 then leBytes 2 1 ++ [1, 2] else if i = 2 then leBytes 2 0x1E98 ++ [2, 0]
  else leBytes 2 0xFFFF ++ [0, 0]

/-- The largest DOE message. -/
def doeMax : Nat := 262144

/-- CAPABILITIES: chunked messages, transfers of 4,096 bytes, messages of 262,144 bytes (R368). PRESUMED, log 46. -/
def spdmCapabilities : List Byte := [0x12, 0x61, 0, 0, 0, 0, 0, 0] ++ leBytes 4 0x00020000 ++ leBytes 4 4096 ++ leBytes 4 doeMax

/-- ALGORITHMS: no base asymmetric algorithm is selected (R368). PRESUMED, log 46. -/
def spdmAlgorithms : List Byte := [0x12, 0x63, 0, 0] ++ leBytes 2 36 ++ List.replicate 30 0

/-- A DOE object is refused with the error bit, and counted (R368, R371). -/
def doeRefused (s : State) : State := emit .doeError (countUp 0x22 0x800 31 16 1 s)

/-- An SPDM request. PRESUMED, log 46. -/
def spdmRequest (r : SpdmReq) (s : State) : State :=
  match r with
  | .getVersion => doeAnswer [0x10, 0x04, 0, 0, 0, 1, 0, 0x12] s
  | .getCapabilities => doeAnswer spdmCapabilities s
  | .negotiateAlgorithms => doeAnswer spdmAlgorithms s
  | .chunkSend last data =>
    let l := s.sec.doeIn ++ data
    if doeMax < l.length then doeRefused (updSec (fun x => { x with doeIn := [] }) s)
    else if last then submit .doe l (updSec (fun x => { x with doeIn := [] }) s)
    else doeAnswer [0x12, 0x05, 0, 0] (updSec (fun x => { x with doeIn := l }) s)
  | .chunkGet n => doeAnswer ([0x12, 0x06, 0, 1] ++ bytesAt s.sec.doeOut (4080 * n) 4080) s
  | .vendor data => submit .doe data s
  | .other c => doeAnswer [0x12, 0x7F, 0x07, c] s

/-- A DOE object. PRESUMED, log 46. -/
def doeRequest (r : DoeReq) (s : State) : State :=
  if !s.host.up then s
  else match r with
    | .discovery i => emit (.doe 0 (doeDiscovery i.toNat)) (countUp 0x22 0x800 15 0 1 s)
    | .cdat => emit (.doe 2 Config.cdat) (countUp 0x22 0x800 15 0 1 s)
    | .spdm q => spdmRequest q s
    | .unknown | .tooLong => doeRefused s

/-- DOE Abort: the object in progress is discarded and counted. -/
def doeAbort (s : State) : State :=
  settleCmds (countUp 0x22 0x800 31 16 1 (updSec (fun x => { x with queue := x.queue.filter (·.src != .doe), doeIn := [], doeOut := [] }) s))

/-! ### The link handshake (R423, R424) -/

/-- A handshake fails: the peer is rejected and the link goes DOWN. -/
def attestFails (n : Nat) (s : State) : State := linkFails n E.linkAttestFail (countUp pSec 0x80C 15 0 1 s)

/-- Changes the handshake of a link. -/
def updHs (n : Nat) (f : Hs → Hs) (s : State) : State := updLink n (fun x => { x with hs := f x.hs }) s

/-- A handshake message leaves. -/
def sendHs (n step : Nat) (l : List Byte) (s : State) : State :=
  emit (.handshake n step l) (updHs n (fun h => { h with mine := h.mine ++ [l] }) s)

/-- Whether a link is in ATTEST with a number of messages sent and received. -/
def hsAt (s : State) (n sent got : Nat) : Bool :=
  let x := linkAt s n
  x.st == .attest && x.hs.mine.length == sent && x.hs.theirs.length == got && seRuns s

/-- The own HS_REPORT leaves, where a signature is available; otherwise it waits for the bucket (R409). -/
def sendReport (n : Nat) (flash : Bool) (s : State) : State :=
  match signReport none ((linkAt s n).hs.theirs.headD []) flash s with
  | (.ok r, s) => sendHs n 2 (r.1 ++ r.2 ++ kemPublic s ++ certs) (updHs n (fun h => { h with wantSign := false }) s)
  | (.error _, s) => updHs n (fun h => { h with wantSign := true }) s

/-- HS_HELLO -/
def hsHello (n : Nat) (nonce : List Byte) (flash : Bool) (s : State) : State :=
  if hsAt s n 1 0 && nonce.length == 32 then sendReport n flash (updHs n (fun h => { h with theirs := [nonce] }) s) else s

/-- Whether the peer's report is accepted (R424). DEDUCED, log 48. -/
def reportGood (s : State) (n : Nat) (report sig key cert : List Byte) : Bool :=
  let pk := bytesAt cert 0 60
  let dev := bytesAt cert 60 16
  hssVerify Config.provisioningKey (bytesAt cert 0 76) (cert.drop 76) && hssVerify pk report sig
    && le report 0 4 == 0x54505241 && le report 4 2 == 1
    && decide (bytesAt report 0x10 16 = dev) && decide (bytesAt report 0x70 32 = sha256 key)
    && decide (bytesAt report 0x30 32 = (linkAt s n).hs.mine.headD []) && decide (dev ≠ deviceBytes)
    && le report 0x0E 2 % 0x4000 == (linkAt s n).peerModule.toNat
    && (List.range 5).all fun c => decide (liveF s pSec 0x40 15 0 ≤ le report (0xB0 + 48 * c + 2) 2)

/-- HS_REPORT: an accepted peer is sent HS_KEM. DEDUCED, log 48. -/
def hsReport (n : Nat) (report sig key cert : List Byte) (s : State) : State :=
  let x := linkAt s n
  if x.st ≠ .attest ∨ x.hs.theirs.length ≠ 1 ∨ !seRuns s then s
  else if !reportGood s n report sig key cert then attestFails n s
  else
    let m := freshBytes 4 s
    let e := kemEncaps key m.1
    let s := updHs n (fun h => { h with theirs := h.theirs ++ [report ++ sig ++ key ++ cert], ssSent := e.2 }) m.2
    if x.hs.mine.length = 2 then sendHs n 3 e.1 s else updHs n (fun h => { h with kemDue := e.1 }) s

/-- Whether this engine is side A: its DEVICE_ID is lower. DEDUCED, log 48. -/
def sideA (peerDev : List Byte) : Bool := decide (Config.deviceId.toNat < leNat peerDev)

/-- Whether this engine is side A of a handshake. -/
def ownSide (h : Hs) : Bool := sideA (bytesAt (h.theirs.getD 1 []) 0x10 16)

/-- Keys, salts and KF of a handshake: 104 bytes (R423). -/
def linkKeys (h : Hs) : List Byte :=
  let a := ownSide h
  let sent := h.ssSent
  let got := h.ssGot
  let own := h.mine.headD []
  let peer := h.theirs.headD []
  if a then hkdf (sent ++ got) (some (own ++ peer)) (ascii "PW1 link") 104
  else hkdf (got ++ sent) (some (peer ++ own)) (ascii "PW1 link") 104

/-- HMAC of HS_FINISH: over the messages of steps 1 to 3, side A's first. DEDUCED, log 48. -/
def finishMac (h : Hs) : List Byte :=
  let a := ownSide h
  let step := fun i => if a then h.mine.getD i [] ++ h.theirs.getD i [] else h.theirs.getD i [] ++ h.mine.getD i []
  hmac ((linkKeys h).drop 72) (sha256 (step 0 ++ step 1 ++ step 2))

/-- HS_FINISH leaves once both ciphertexts have passed. -/
def sendFinish (n : Nat) (s : State) : State :=
  if hsAt s n 3 3 then sendHs n 4 (finishMac (linkAt s n).hs) s else s

/-- HS_KEM. DEDUCED, log 48. -/
def hsKem (n : Nat) (ct : List Byte) (s : State) : State :=
  let x := linkAt s n
  if x.st ≠ .attest ∨ x.hs.theirs.length ≠ 2 ∨ ct.length ≠ 1568 ∨ !seRuns s then s
  else sendFinish n (updHs n (fun h => { h with
    theirs := h.theirs ++ [ct], ssGot := decap s ct }) s)

/-- HS_FINISH: the link is UP with its keys, or the peer is rejected. -/
def hsFinish (n : Nat) (mac : List Byte) (s : State) : State :=
  if hsAt s n 4 3 then
    let h := (linkAt s n).hs
    if mac = finishMac h then linkIsUp n (linkKeys h) (ownSide h) s else attestFails n s
  else s

/-- HS_TIMEOUT. DESIGN CHOICE, log 16. -/
def hsTimeout (n : Nat) (s : State) : State := if (linkAt s n).st = .attest then attestFails n s else s

/-- A link whose report waits for a signature takes one; its own HS_KEM follows where it was due. DEDUCED, log 48. -/
def serveWaiting (flash : Bool) (n : Nat) (s : State) : State :=
  let x := linkAt s n
  if x.st = .attest ∧ x.hs.wantSign ∧ seRuns s then
    let s := sendReport n flash s
    let h := (linkAt s n).hs
    if h.mine.length = 2 ∧ !h.kemDue.isEmpty then sendHs n 3 h.kemDue (updHs n (fun h => { h with kemDue := [] }) s) else s
  else s

/-- SIGN_BUCKET_REFILL: one more signature, up to 256 (R409). DEDUCED, log 48. -/
def bucketRefill (flash : Bool) (s : State) : State :=
  (List.range 8).foldl (fun s n => serveWaiting flash n s) (updSec (fun x => { x with bucket := Nat.min 256 (x.bucket + 1) }) s)

/-- GET_REPORT (R411) -/
def execGetReport (flash : Bool) (s : State) : Result := .next (serve 1 (cmdReport flash) s)
/-- GET_KEM_KEY (R428) -/
def execGetKemKey (s : State) : Result := .next (serve 2 (fun _ s => ((0, kemPublic s), s)) s)
/-- GET_CERTS (R428) -/
def execGetCerts (s : State) : Result := .next (serve 3 (fun _ s => ((0, certs), s)) s)
/-- TENANT_BIND (R414) -/
def execTenantBind (s : State) : Result := .next (serve 4 cmdBind s)
/-- TENANT_UNBIND (R415) -/
def execTenantUnbind (s : State) : Result := .next (serve 5 cmdUnbind s)
/-- SESSION_OPEN (R416) -/
def execSessionOpen (s : State) : Result := .next (serve 6 cmdOpen s)
/-- SESSION_CLOSE (R416) -/
def execSessionClose (s : State) : Result := .next (serve 7 cmdClose s)
/-- IDE_KEYS (R425) -/
def execIdeKeys (s : State) : Result := .next (serve 8 cmdIde s)
/-- MB_SUBMIT (R430) -/
def execMbSubmit (m : Master) (s : State) : Result := .next (viaBar m (mbSubmit (masterId m)) s)
/-- MB_RESET (R430) -/
def execMbReset (m : Master) (s : State) : Result := .next (viaBar m (mbReset (masterId m)) s)
/-- MB_DATA (R430) -/
def execMbData (m : Master) (w : Option Word) (s : State) : Result := .next (viaBar m (mbData (masterId m) w) s)
/-- SIGN_BUCKET_REFILL (R409) -/
def execSignBucketRefill (flash : Bool) (s : State) : Result := .next (bucketRefill flash s)
/-- DOE_REQUEST (R368) -/
def execDoeRequest (r : DoeReq) (s : State) : Result := .next (doeRequest r s)
/-- DOE_ABORT (R368) -/
def execDoeAbort (s : State) : Result := .next (doeAbort s)
/-- HS_HELLO (R423) -/
def execHsHello (link : Fin 8) (nonce : List Byte) (flash : Bool) (s : State) : Result := .next (hsHello link.val nonce flash s)
/-- HS_REPORT (R423) -/
def execHsReport (link : Fin 8) (report sig key cert : List Byte) (s : State) : Result :=
  .next (hsReport link.val report sig key cert s)
/-- HS_KEM (R423) -/
def execHsKem (link : Fin 8) (ct : List Byte) (s : State) : Result := .next (hsKem link.val ct s)
/-- HS_FINISH (R423) -/
def execHsFinish (link : Fin 8) (mac : List Byte) (s : State) : Result := .next (hsFinish link.val mac s)
/-- HS_TIMEOUT (R424) -/
def execHsTimeout (link : Fin 8) (s : State) : Result := .next (hsTimeout link.val s)

end Sys2Proof.Machine
end

