-- ==== Sys2Proof/Machine/Boot.lean ====
section
/-! DEFINITION. Start-up and firmware: the stages of R508, records at an MC boot, self-test, ACTIVATE and RESTART (R504 to R516). -/

namespace Sys2Proof.Machine

open Sys2Proof

/-! ### Records at boot (R504 to R506) -/

/-- CFG_RECORD_INVALID is recorded for every copy of a type that does not check (R504). -/
def logCopies (t : Nat) (s : State) : State :=
  [0, 1].foldl (fun s k =>
    let l := recCopy s t k
    if l.isEmpty || recValid t l then s else recordErrAny pMc E.cfgRecordInvalid s) s

/-- The resolution of a type. -/
def setRes (t : Nat) (r : RecRes) (s : State) : State := updBoot (fun b => { b with recRes := mset ⟨0, 0, 0⟩ b.recRes t r }) s

/-- What a type without a valid copy costs (R505); `written` says that copies exist. -/
def recLack (t : Nat) (written : Bool) (s : State) : State :=
  match t with
  | 1 => serviceMode E.cfgRecordInvalid (updSec (fun x => { x with identityOk := false }) s)
  | 2 => serviceMode E.cfgRecordInvalid (updSec (fun x => { x with signHalt := true }) s)
  | 3 => serviceMode E.cfgRecordInvalid (allFields.foldl (fun s f => imposeDark f 1 s) s)
  | 6 | 7 => if written then serviceMode E.cfgRecordInvalid s else s
  | _ => s

/-- A record of an older VERSION is written anew with MIGRATED set (R506). DESIGN CHOICE, log 56. -/
def migrateRec (t cur : Nat) (ok : Bool) (s : State) : State :=
  let old := recCopy s t (recRes s t).slot
  let l := recMake t 1 cur (recSeq old + 1) (Config.migrate t cur (recBody old))
  if ok then recPut t l true s
  else serviceMode E.cfgMigrateFail (recordErrAny pMc E.cfgMigrateFail (recPut t l false s))

/-- A type is resolved, and migrated where its VERSION is old; `bad` names the types whose migration fails. -/
def resolveRec (bad : List Nat) (s : State) (t : Nat) : State :=
  let cur := if t = 1 ∨ t = 3 then 0xFFFF else curVersion s t
  let s := logCopies t s
  match recChoose s t cur with
  | .absent => recLack t false (setRes t ⟨0, 0, 0⟩ s)
  | .noValid => recLack t true (setRes t ⟨3, 0, 0⟩ s)
  | .newer k =>
    serviceMode E.cfgRecordNewer (recordErrAny pMc E.cfgRecordNewer (setRes t ⟨3, k, recVersion (recCopy s t k)⟩ s))
  | .use k =>
    let l := recCopy s t k
    let s := setRes t ⟨if recMigrated l then 2 else 1, k, recVersion l⟩ s
    if t ≠ 1 ∧ t ≠ 3 ∧ recVersion l < cur then migrateRec t cur (!bad.contains t) s else s

/-- The records part of an MC boot: service mode ends unless a cause is found again (R506, R508). DESIGN CHOICE, log 56. -/
def mcRecords (bad : List Nat) (s : State) : State :=
  let dead := s.boot.comps.any fun e => !e.2.dead.isEmpty
  let s := if dead then s else updBoot (fun b => { b with serviceMode := false, cause := 0 }) s
  [1, 2, 3, 4, 5, 6, 7].foldl (resolveRec bad) s

/-! ### Stages 1 and 2 (R508) -/

/-- The body of the valid copy of a type with the higher SEQ. -/
def seRead (s : State) (t : Nat) : Option (List Byte) :=
  match recChoose s t 0xFFFF with
  | .use k => some (recBody (recCopy s t k))
  | _ => none

/-- SE_BOOT_DONE (R508 stage 1) -/
def seBootDone (s : State) : State :=
  if s.boot.stage ≠ 1 then s
  else
    let s := (bootUnit 0 0 s).2
    if (compAt s 0).dead.contains 0 then s
    else
      let s := match seRead s 1 with
        | some _ => updSec (fun x => { x with identityOk := true }) s
        | none => recLack 1 false s
      let s := match seRead s 2 with
        | some l => updSec (fun x => { x with
            leaf := le l 0 4, reservedTo := le l 0 4, tree := leafTree l, signHalt := x.signHalt || decide (leafMax ≤ le l 0 4) }) s
        | none => recLack 2 false s
      let a := freshWord s
      let b := freshWord a.2
      let k := freshBytes 4 b.2
      let g := freshBytes 8 k.2
      let s := updSec (fun x => { x with bootId := some (BitVec.ofNat 128 (a.1.toNat + 2 ^ 64 * b.1.toNat)), kemSeed := g.1 }) g.2
      let s := { s with serving := { s.serving with pubKey := k.1 } }
      settleCmds (bootUnit 1 0 (updBoot (fun b => { b with stage := 2 }) s)).2

/-- CONFIG_BOOT with every field at its default (R507). DESIGN CHOICE, log 56. -/
def defaultCfg : BootCfg :=
  { moduleId := 0, beatSrc := 1, periodNs := 4000, extDelay := 0, fwdMask := 0, targets := List.replicate 80 2, bootRamps := 8,
    pmCap := 330, telA := telDefaults false, telB := telDefaults true, linkEnable := 0, spAddr := none }

/-- Every core by ID. -/
def allCores : List Nat := allFields.flatMap fun f => (List.range 3840).map (4096 * f + ·)

/-- The repair map and repair data as the floor map in use says (R503, R505). DESIGN CHOICE, log 56. -/
def readFloor (s : State) : State :=
  match recUse s 3 with
  | none => s
  | some sh =>
    let fm := (recUse s 4).getD sh
    let rep := allCores.filterMap fun c =>
      let e := Config.floorBody fm c
      let r : Repair := ⟨e.1, (Config.floorBody sh c).1, e.2.1, e.2.2⟩
      if r = .reset then none else some (c, r)
    let s := (Config.floorPhases fm).foldl (fun s q =>
      updField q.1 (fun x =>
        if q.2.1 = 0 then { x with vcore := mput x.vcore q.2.2 .failed }
        else if q.2.1 = 1 then { x with vret := mput x.vret q.2.2 .failed }
        else { x with vfab := mput x.vfab q.2.2 .failed }) s) { s with repair := rep }
    (Config.floorConvs fm).foldl (fun s n => updConv n (fun x => { x with failed := true }) s) s

/-- Registers that stage 2 commits (R507). -/
def commitCfg (c : BootCfg) (s : State) : State :=
  let s := setBoth pCl 0x40 (BitVec.ofNat 32 (c.moduleId % 2 ^ 14)) s
  let s := setBoth pPm 0x40 (BitVec.ofNat 32 c.pmCap) s
  match c.spAddr with
  | some a =>
    let s := [0, 1, 2, 3].foldl (fun s k => setBoth 0x30 (0x40 + 4 * k) (BitVec.ofNat 32 (a.1.getD k 0)) s) s
    setBoth 0x30 0x50 (BitVec.ofNat 32 (2 ^ 31 + a.2)) s
  | none => s

/-- Stage 3 begins: the shadows of the beat registers are written, and RESTART makes them live where they are valid (R40, R508). -/
def beginBeat (c : BootCfg) (s : State) : State :=
  restart (setShadow pBeat 0x48 (BitVec.ofNat 32 c.extDelay) (setShadow pBeat 0x44 (BitVec.ofNat 32 c.periodNs)
    (setShadow pBeat 0x40 (BitVec.ofNat 32 (4096 * c.fwdMask + c.beatSrc)) s)))

/-- CONFIG_DIGEST: of the bodies of the floor map and configuration in use (R411). -/
def digestCfg (s : State) : State :=
  updSec (fun x => { x with configDigest := sha256 ((recUse s 4).getD [] ++ (recUse s 5).getD []) }) s

/-- MC_BOOT_DONE (R508 stage 2): records, hub converters with the outcomes of their CALs, registers, links' firmware; stage 3
begins. DESIGN CHOICE, log 56. -/
def mcBootDone (now : Nat) (bad : List Nat) (hub : List (List (Nat × Nat))) (s : State) : State :=
  if s.boot.stage ≠ 2 ∨ (compAt s 1).dead.contains 0 then s
  else
    let s := digestCfg (readFloor (mcRecords bad s))
    let c := ((recUse s 5).map Config.bootBody).getD defaultCfg
    let s := updBoot (fun b => { b with cfg := some c, stage := 3 }) s
    let s := [0, 1, 2, 3].foldl (fun s k => railSeq (160 + k) (Config.hubSeq k) now (railCals (160 + k) (hub.getD k []) s)) s
    let s := pairLost 160 s
    let s := (List.range 8).foldl (fun s n => (bootUnit 4 n s).2) s
    beginBeat c (commitCfg c s)

/-! ### Stages 3 to 8 at ticks (R508, R509) -/

/-- The configuration in force. -/
def cfgNow (s : State) : BootCfg := s.boot.cfg.getD defaultCfg

/-- PM_FTARGETk of the configured targets. DESIGN CHOICE, log 56. -/
def targetWord (c : BootCfg) (k : Nat) : Word :=
  BitVec.ofNat 32 ((List.range 16).foldl (fun n j => n + c.targets.getD (16 * k + j) 0 * 4 ^ j) 0)

/-- Stage 4 begins: ramps and targets (R509). DESIGN CHOICE, log 56. -/
def beginFields (s : State) : State :=
  let c := cfgNow s
  let s := setLiveF pPm 0x44 22 16 c.bootRamps (updBoot (fun b => { b with stage := 4 }) s)
  (List.range 5).foldl (fun s k => setBoth pPmField (0x40 + 4 * k) (targetWord c k) s) s

/-- Fields with a target above dark that are not on. -/
def fieldsPending (s : State) : List Nat := allFields.filter fun f => effTarget s f != .dark && fieldSt s f != .on

/-- Stage 4 ends: MAX_RAMPS takes its reset value. -/
def endFields (s : State) : State :=
  let n := (fieldsPending s).length
  setLiveF pPm 0x44 22 16 4 (updBoot (fun b => { b with stage := 5, pending := n }) s)

/-- The next covered recalibration of stage 6 starts. DESIGN CHOICE, log 56. -/
def startNextCal (s : State) : State :=
  match s.boot.calTodo with
  | n :: _ => if (convAt s n).failed || convDark s n then s else startCal n true s
  | [] => s

/-- Stage 6 begins: TA then TB of every field that is on, and of each hub pair. -/
def beginCals (s : State) : State :=
  let l := (allFields.filter fun f => fieldSt s f == .on).flatMap (fun f => [2 * f, 2 * f + 1]) ++ [160, 161, 162, 163]
  startNextCal (updBoot (fun b => { b with stage := 6, calTodo := l }) s)

/-- Milliseconds from 44 V valid. -/
def bootMs (s : State) (now : Nat) : Nat := Nat.min 0xFFFFFFFF ((now - s.pm.validAt) / 4000000)

/-- Stage 7: every owner FREE, exchange memory clear, links enabled; where fields are dark, waypoints are planned; SERVICE_READY. DESIGN
CHOICE, log 56. -/
def routesStage (now : Nat) (s : State) : State :=
  let c := cfgNow s
  let s := { s with owner := [], tallyOwner := [], exch := [], host := { s.host with memActive := true } }
  let s := (List.range 8).foldl (fun s n =>
    if c.linkEnable / 2 ^ n % 2 = 1 then tryTrain n (setBoth (pLink n) 0x40 (withBits (live s (pLink n) 0x40) 31 31 1) s) else s) s
  let dark := allFields.filter (isDark s)
  let s := if dark.isEmpty then s else enqueueFault (wayEntry dark) s
  updBoot (fun b => { b with stage := 8, serviceReady := true, tService := bootMs s now }) s

/-- Stage 6 at a tick: the CAL at the head has ended and the next starts; the stage ends once every pair passes. -/
def calStage (now : Nat) (s : State) : State :=
  match s.boot.calTodo with
  | n :: l =>
    if (convAt s n).calState = 1 ∧ !convDark s n ∧ !(convAt s n).failed then s
    else startNextCal (updBoot (fun b => { b with calTodo := l }) s)
  | [] => if s.convs.any (·.2.plausFail) then s else routesStage now s

/-- Stage 8 ends with the host link up: HOST_READY. DESIGN CHOICE, log 56. -/
def linkStage (now : Nat) (s : State) : State :=
  if s.host.up then updBoot (fun b => { b with stage := 9, hostReady := true, tHost := bootMs s now }) s else s

/-- Start-up at a tick. DESIGN CHOICE, log 56. -/
def bootTick (now : Nat) (s : State) : State :=
  match s.boot.stage with
  | 3 => beginFields s
  | 4 => if (fieldsPending s).isEmpty then endFields s else s
  | 5 => if s.boot.testing.isEmpty && !s.boot.floorDue then beginCals s else s
  | 6 => calStage now s
  | 8 => linkStage now s
  | _ => s

/-- STARTUP_FIELDS_TIMEOUT (R508). DESIGN CHOICE, log 16. -/
def fieldsTimeout (s : State) : State := if s.boot.stage = 4 then endFields s else s

/-! ### Self-test (R511) -/

/-- A core fails a test: it is retired, and for a loopback failure its router under R483. DESIGN CHOICE, log 56. -/
def testFails (f : Nat) (s : State) (q : Fin 60 × Fin 64 × Fin 6) : State :=
  let c := 4096 * f + q.1.val * 64 + q.2.1.val
  if !coreEnabled s c || q.2.2.val = 0 then s
  else
    let one := fun r => retireAll { entryOf ⟨0, 0, c, 0⟩ 0 with retire := [(c, BitVec.ofNat 8 q.2.2.val, r)] } s
    if q.2.2.val = 5 then
      (if mayRetire s c then one true else fieldFault f E.fabricLinkFail (imposeDark f 9 s))
    else one false

/-- SELFTEST_DONE (R511): the failed cores are retired; FLOOR_MAP is written once every self-test has ended, in stage 4 later. DESIGN CHOICE, log 56. -/
def selftestDone (f : Nat) (failed : List (Fin 60 × Fin 64 × Fin 6)) (flash : Bool) (s : State) : State :=
  if !s.boot.testing.contains f then s
  else
    let s := failed.foldl (testFails f) (updBoot (fun b => { b with testing := without f b.testing }) s)
    if s.boot.testing.isEmpty && decide (5 ≤ s.boot.stage) then floorPut flash s
    else if failed.isEmpty then s
    else updBoot (fun b => { b with floorDue := true }) s

/-- SELFTEST_TIMEOUT (R511): the field is lost; the manual names no code. DESIGN CHOICE, log 56. -/
def selftestTimeout (f : Nat) (s : State) : State :=
  if s.boot.testing.contains f then
    let a := freshWord s
    fieldFault f (a.1.setWidth 16) (imposeDark f 9 a.2)
  else s

/-! ### ACTIVATE (R514) -/

/-- The images that a component runs. DESIGN CHOICE, log 57. -/
def runsOf (s : State) (c : Nat) : List FwRun := (compAt s c).runs.map (·.2)

/-- The image in the inactive bank. -/
def inactiveImg (s : State) (c : Nat) : List Byte := let x := compAt s c; bankImg x (1 - x.runBank)

/-- Why ACTIVATE of a component is refused. -/
def activateCheck (s : State) (c : Nat) : Option Code :=
  if 4 < c then some E.updProtocol
  else
    let x := fwRun (inactiveImg s c)
    let others := [0, 1, 2, 3, 4].filter (· ≠ c)
    firstFail
      [((compAt s c).inactive != 2, E.updProtocol),
       (others.any fun k => (runsOf s k).any fun r => decide (x.iface < r.minIface.getD c 0), E.fwCompatFail),
       (others.any fun k => (runsOf s k).any fun r => decide (r.iface < x.minIface.getD k 0), E.fwCompatFail),
       (others.any fun k =>
          let y := fwRun (inactiveImg s k)
          ((compAt s k).inactive == 2 || (compAt s k).inactive == 3) && y.release == x.release && decide (y.order < x.order)
            && !(runsOf s k).all (fun r => decide (r.hash = y.hash)), E.fwCompatFail),
       (c == 1 && [1, 2, 3, 4, 5, 6, 7].any fun t =>
          let r := recRes s t
          (r.st == 1 || r.st == 2) && decide (x.recVersions.getD (t - 1) 0 < r.version), E.fwCompatFail)]

/-- FW_RESULT. -/
def fwResult (st : Nat) (c : Code) (s : State) : State := updBoot (fun b => { b with fwState := st, fwCode := c }) s

/-- A command of FW_CMD is refused; FW_RESULT shows it unless a RESTART is BUSY. DESIGN CHOICE, log 57. -/
def fwRefused (c : Code) (s : State) : State :=
  if s.boot.restart.isSome then recordErrAny pFlash c s else fwResult 3 c s

/-- ACTIVATE: BOOT_BANK names the staged bank. The answer is its code. DESIGN CHOICE, log 57. -/
def fwActivate (c : Nat) (s : State) : Code × State :=
  match activateCheck s c with
  | some e => (e, fwRefused e s)
  | none =>
    let s := updComp c (fun x => { x with bootBank := 1 - x.runBank, inactive := 3 }) s
    (0, if s.boot.restart.isSome then s else fwResult 2 0 s)

/-! ### RESTART (R515, R516) -/

/-- Units of a component. -/
def unitsOfComp (c : Nat) : Nat := [1, 1, 80, 24, 8].getD c 0

/-- What a unit's restart waits for. DESIGN CHOICE, log 57. -/
def restartWaits (s : State) (c u : Nat) : Bool :=
  match c with
  | 1 => s.recov.plan.isSome || !s.recov.queue.isEmpty || s.weights.load.isSome || s.weights.inst.isSome || s.weights.adInst.isSome
      || s.groups.any fun e => decide (60 ≤ e.1) && e.2.st != .free && e.2.st != .done
  | 2 => fieldSt s u == .dark || (fieldOf s u).attempt.isSome || (List.range 16).any fun r => pageLocked s (fieldPage u r)
  | 3 => !stackOn s u
  | _ => false

/-- The pages of a component's unit (R47, R516). -/
def unitPages (c u : Nat) : List Nat :=
  match c with
  | 0 => pageRange 0x28 4
  | 1 => [pMc]
  | 2 => pageRange (fieldPage u 0) 16
  | 3 => pageRange (stackPage u 0) 8
  | _ => pageRange (linkPage u 0) 8

/-- The unit stops, where nothing is waited for any more: its pages are lost to armed groups (R58), an FCU's pages are not READY, a
link goes DOWN. DESIGN CHOICE, log 57. -/
def beginRestart (s : State) : State :=
  match s.boot.restart with
  | none => s
  | some r =>
    if r.begun || restartWaits s r.component r.unit then s
    else
      let s := (unitPages r.component r.unit).foldl (fun s p => claimPage p s)
        (updBoot (fun b => { b with restart := some { r with begun := true } }) s)
      match r.component with
      | 2 => updField r.unit (fun x => { x with ready := false }) s
      | 4 => linkGone r.unit s
      | _ => s

/-- Why RESTART is refused. DESIGN CHOICE, log 57. -/
def restartCheck (s : State) (c unit : Nat) : Option Code :=
  if 4 < c then some E.updProtocol
  else if s.boot.restart.isSome then some E.updProtocol
  else if 2 ≤ c ∧ unit ≠ 0xFF ∧ unitsOfComp c ≤ unit then some E.updProtocol
  else none

/-- RESTART of a component: one unit, or each in ascending order. DESIGN CHOICE, log 57. -/
def fwRestart (c unit : Nat) (s : State) : Code × State :=
  match restartCheck s c unit with
  | some e => (e, fwRefused e s)
  | none =>
    let units := if c < 2 then [0] else if unit = 0xFF then List.range (unitsOfComp c) else [unit]
    (0, beginRestart (fwResult 1 0 (updBoot (fun b => { b with restart := some ⟨c, units.headD 0, units.drop 1, false⟩ }) s)))

/-- What a unit that has booted, or can boot neither bank, does then (R515). -/
def unitBooted (bad : List Nat) (c u : Nat) (s : State) : State :=
  let dead := (compAt s c).dead.contains u
  match c with
  | 0 => settleCmds s
  | 1 => if dead then s else mcRecords bad s
  | 2 => if dead then fieldFault u E.fwSigFail (imposeDark u 11 s) else putLimit u (updField u (fun x => { x with ready := true }) s)
  | 3 => if dead then fieldFault (stackField u) E.fwSigFail (imposeDark (stackField u) 11 s) else s
  | 4 => if dead then s else tryTrain u s
  | _ => s

/-- COMPONENT_BOOT (R515, R516): the unit that restarts boots; then the next, unless it fell back. DESIGN CHOICE, log 57. -/
def componentBoot (bad : List Nat) (s : State) : State :=
  match s.boot.restart with
  | none => s
  | some r =>
    if !r.begun then s
    else
      let b := bootUnit r.component r.unit s
      let next := if b.1 then r.rest else []
      let s := updBoot (fun x => { x with restart := next.head?.map fun u => ⟨r.component, u, next.drop 1, false⟩ }) b.2
      let s := unitBooted bad r.component r.unit s
      if next.isEmpty then
        (if (compAt s r.component).dead.contains r.unit then fwResult 3 E.fwFallback s else fwResult 2 0 s)
      else beginRestart s

/-- SE_BOOT_DONE (R508) -/
def execSeBootDone (s : State) : Result := .next (seBootDone s)
/-- MC_BOOT_DONE (R508) -/
def execMcBootDone (now : Nat) (bad : List (Fin 8)) (hub : List (List (Nat × Nat))) (s : State) : Result :=
  .next (mcBootDone now (bad.map (·.val)) hub s)
/-- STARTUP_FIELDS_TIMEOUT (R508) -/
def execStartupFieldsTimeout (s : State) : Result := .next (fieldsTimeout s)
/-- SELFTEST_DONE (R511) -/
def execSelftestDone (field : Fin 80) (failed : List (Fin 60 × Fin 64 × Fin 6)) (flash : Bool) (s : State) : Result :=
  .next (selftestDone field.val failed flash s)
/-- SELFTEST_TIMEOUT (R511) -/
def execSelftestTimeout (field : Fin 80) (s : State) : Result := .next (selftestTimeout field.val s)
/-- FW_ACTIVATE (R514) -/
def execFwActivate (m : Master) (component : Fin 8) (s : State) : Result :=
  .next (onPage m pFlash 0x800 (fun s => (fwActivate component.val s).2) s)
/-- FW_RESTART (R516) -/
def execFwRestart (m : Master) (component : Fin 8) (unit : Byte) (s : State) : Result :=
  .next (onPage m pFlash 0x800 (fun s => (fwRestart component.val unit.toNat s).2) s)
/-- COMPONENT_BOOT (R515) -/
def execComponentBoot (bad : List (Fin 8)) (s : State) : Result := .next (componentBoot (bad.map (·.val)) s)

end Sys2Proof.Machine
end

