-- ==== Sys2Proof/Machine/Scalar.lean ====
section
/-! DEFINITION. Control and scalar instructions (R113). -/

namespace Sys2Proof.Machine

open Sys2Proof

/-- D ← a value; the thread continues at the following word. -/
def writeD (k : Iss) (v : DWord) (s : State) : IRes := .done (updThread k (setS (fw k 55 51) v) s) (pcNext k)

/-- Register-register forms: D ← A op B. -/
def scalarRR (op : Nat) (f : DWord → DWord → DWord) (i : Issue) (s : State) : State :=
  issue op i (fun k s => writeD k (f (fs k 50 46) (fs k 45 41)) s) s

/-- The immediate, sign-extended to 64 bits. -/
def immS (k : Iss) : DWord := (BitVec.ofNat 32 (fw k 31 0)).signExtend 64

/-- Immediate forms: D ← A op IMM. -/
def scalarRI (op : Nat) (f : DWord → DWord → DWord) (i : Issue) (s : State) : State :=
  issue op i (fun k s => writeD k (f (fs k 50 46) (immS k)) s) s

/-- Shift amounts are bits [5:0] of the second operand. -/
def shAmt (b : DWord) : Nat := b.toNat % 64

/-- 1 for true in a register. -/
def boolWord (b : Bool) : DWord := if b then 1 else 0

/-- SHL -/
def opShl (a b : DWord) : DWord := a <<< shAmt b
/-- SHR -/
def opShr (a b : DWord) : DWord := a >>> shAmt b
/-- SAR -/
def opSar (a b : DWord) : DWord := a.sshiftRight (shAmt b)
/-- MIN -/
def opMin (a b : DWord) : DWord := if a.slt b then a else b
/-- MAX -/
def opMax (a b : DWord) : DWord := if a.slt b then b else a
/-- MINU -/
def opMinu (a b : DWord) : DWord := if a.ult b then a else b
/-- MAXU -/
def opMaxu (a b : DWord) : DWord := if a.ult b then b else a
/-- SLT -/
def opSlt (a b : DWord) : DWord := boolWord (a.slt b)
/-- SLTU -/
def opSltu (a b : DWord) : DWord := boolWord (a.ult b)
/-- LIH: the immediate's 32 bits above A's lower half. -/
def opLih (a b : DWord) : DWord := b <<< 32 ||| (a &&& 0xFFFFFFFF)

/-- The clock step of a field (R113): CLK_STATUS.STEP. -/
def clockStep (s : State) (f : Nat) : Nat := effStep s f

/-- The system value that RDSYS reads (R113). DESIGN CHOICE, log 12. -/
def sysValue (k : Iss) (s : State) : DWord :=
  match fw k 31 0 with
  | 0 => BitVec.ofNat 64 k.c
  | 1 => BitVec.ofNat 64 k.t
  | 2 => k.cycle
  | 3 => s.beat.now.setWidth 64
  | _ => BitVec.ofNat 64 (clockStep s (fieldOfCore k.c))

/-- ADD (R113) -/
def execAdd (i : Issue) (s : State) : Result := .next (scalarRR 0x10 (· + ·) i s)
/-- SUB (R113) -/
def execSub (i : Issue) (s : State) : Result := .next (scalarRR 0x11 (· - ·) i s)
/-- MUL (R113) -/
def execMul (i : Issue) (s : State) : Result := .next (scalarRR 0x12 (· * ·) i s)
/-- AND (R113) -/
def execAnd (i : Issue) (s : State) : Result := .next (scalarRR 0x13 (· &&& ·) i s)
/-- OR (R113) -/
def execOr (i : Issue) (s : State) : Result := .next (scalarRR 0x14 (· ||| ·) i s)
/-- XOR (R113) -/
def execXor (i : Issue) (s : State) : Result := .next (scalarRR 0x15 (· ^^^ ·) i s)
/-- SHL (R113) -/
def execShl (i : Issue) (s : State) : Result := .next (scalarRR 0x16 opShl i s)
/-- SHR (R113) -/
def execShr (i : Issue) (s : State) : Result := .next (scalarRR 0x17 opShr i s)
/-- SAR (R113) -/
def execSar (i : Issue) (s : State) : Result := .next (scalarRR 0x18 opSar i s)
/-- MIN (R113) -/
def execMin (i : Issue) (s : State) : Result := .next (scalarRR 0x19 opMin i s)
/-- MAX (R113) -/
def execMax (i : Issue) (s : State) : Result := .next (scalarRR 0x1A opMax i s)
/-- MINU (R113) -/
def execMinu (i : Issue) (s : State) : Result := .next (scalarRR 0x1B opMinu i s)
/-- MAXU (R113) -/
def execMaxu (i : Issue) (s : State) : Result := .next (scalarRR 0x1C opMaxu i s)
/-- SLT (R113) -/
def execSlt (i : Issue) (s : State) : Result := .next (scalarRR 0x1D opSlt i s)
/-- SLTU (R113) -/
def execSltu (i : Issue) (s : State) : Result := .next (scalarRR 0x1E opSltu i s)
/-- ADDI (R113) -/
def execAddi (i : Issue) (s : State) : Result := .next (scalarRI 0x20 (· + ·) i s)
/-- ANDI (R113) -/
def execAndi (i : Issue) (s : State) : Result := .next (scalarRI 0x23 (· &&& ·) i s)
/-- ORI (R113) -/
def execOri (i : Issue) (s : State) : Result := .next (scalarRI 0x24 (· ||| ·) i s)
/-- XORI (R113) -/
def execXori (i : Issue) (s : State) : Result := .next (scalarRI 0x25 (· ^^^ ·) i s)
/-- SHLI (R113) -/
def execShli (i : Issue) (s : State) : Result := .next (scalarRI 0x26 opShl i s)
/-- SHRI (R113) -/
def execShri (i : Issue) (s : State) : Result := .next (scalarRI 0x27 opShr i s)
/-- SARI (R113) -/
def execSari (i : Issue) (s : State) : Result := .next (scalarRI 0x28 opSar i s)
/-- SLTI (R113) -/
def execSlti (i : Issue) (s : State) : Result := .next (scalarRI 0x2D opSlt i s)
/-- LIH (R113) -/
def execLih (i : Issue) (s : State) : Result := .next (scalarRI 0x2F opLih i s)
/-- NOP (R113) -/
def execNop (i : Issue) (s : State) : Result := .next (issue 0x01 i (fun k s => .done s (pcNext k)) s)
/-- HALT (R113): the thread enters STOPPED at the following word. -/
def execHalt (i : Issue) (s : State) : Result :=
  .next (issue 0x02 i (fun k s => .done (updThread k (fun th => { th with st := .stopped }) s) (pcNext k)) s)
/-- RDSYS (R113) -/
def execRdsys (i : Issue) (s : State) : Result := .next (issue 0x03 i (fun k s => writeD k (sysValue k s) s) s)

end Sys2Proof.Machine
end

