-- ==== Sys2Proof/Machine/Branch.lean ====
section
/-! DEFINITION. Branches and jumps (R114). -/

namespace Sys2Proof.Machine

open Sys2Proof

/-- A program counter holds 18 bits of a target (R105). -/
def pcOf (v : Int) : BitVec 18 := BitVec.ofInt 18 v

/-- The thread's program counter is at a target; one of more than 18 bits is remembered as such (R105, R114). DESIGN CHOICE, log 24. -/
def landAt (v : Int) (th : Thread) : Thread := { th with beyond := decide (v < 0 ∨ 2 ^ 18 ≤ v) }

/-- The immediate as a signed number. -/
def immZ (k : Iss) : Int := sext 32 (fw k 31 0)

/-- A conditional branch: to its own offset plus IMM, or the following word (R114). -/
def branch (op : Nat) (p : DWord → DWord → Bool) (i : Issue) (s : State) : State :=
  issue op i (fun k s =>
    if fw k 31 0 % 8 ≠ 0 then .fault E.alignFault s
    else if p (fs k 50 46) (fs k 45 41) then .done (updThread k (landAt (k.pc.toNat + immZ k)) s) (pcOf (k.pc.toNat + immZ k))
    else .done s (pcNext k)) s

/-- D ← the offset of the following word, and a jump. -/
def linkTo (k : Iss) (target : Int) (s : State) : IRes :=
  .done (updThread k (fun th => landAt target (setS (fw k 55 51) ((pcNext k).setWidth 64) th)) s) (pcOf target)

/-- BEQ (R114) -/
def execBeq (i : Issue) (s : State) : Result := .next (branch 0x30 (· == ·) i s)
/-- BNE (R114) -/
def execBne (i : Issue) (s : State) : Result := .next (branch 0x31 (· != ·) i s)
/-- BLT (R114) -/
def execBlt (i : Issue) (s : State) : Result := .next (branch 0x32 (fun a b => a.slt b) i s)
/-- BGE (R114) -/
def execBge (i : Issue) (s : State) : Result := .next (branch 0x33 (fun a b => !a.slt b) i s)
/-- BLTU (R114) -/
def execBltu (i : Issue) (s : State) : Result := .next (branch 0x34 (fun a b => a.ult b) i s)
/-- BGEU (R114) -/
def execBgeu (i : Issue) (s : State) : Result := .next (branch 0x35 (fun a b => !a.ult b) i s)
/-- JAL (R114) -/
def execJal (i : Issue) (s : State) : Result :=
  .next (issue 0x38 i (fun k s =>
    if fw k 31 0 % 8 ≠ 0 then .fault E.alignFault s else linkTo k (k.pc.toNat + immZ k) s) s)
/-- JR (R114) -/
def execJr (i : Issue) (s : State) : Result :=
  .next (issue 0x39 i (fun k s =>
    let target := fs k 50 46 + immS k
    if target.toNat % 8 ≠ 0 then .fault E.alignFault s else linkTo k target.toNat s) s)

end Sys2Proof.Machine
end

