-- ==== Sys2Proof/Machine/Hazard.lean ====
section
/-! DEFINITION. Commands of the hazard detector (R252, R254, R255). -/

namespace Sys2Proof.Machine

open Sys2Proof

/-- CLEAR: records discarded, every watch clear (R254, R255). -/
def hdClear (f : Nat) (s : State) : State :=
  setUnits f { unitsOf s f with records := [], pendingWatch := [], recordedWatch := [] } s

/-- MARK_WRITE: HD_MARK_DATA goes to the entry that HD_MARK_SEL selects; a misaligned offset fails (R255). -/
def hdMarkWrite (f : Nat) (s : State) : State :=
  let d := live s (pHd f) 0x808
  let u := unitsOf s f
  let k := liveF s (pHd f) 0x804 11 0
  if bits d 2 0 ≠ 0 then recordErrAny (pHd f) E.alignFault s
  else if bit d 31 then setUnits f { u with marks := mput u.marks k d } s
  else setUnits f { u with marks := mdel u.marks k } s

/-- MARK_CLEAR: every mark invalid (R255). -/
def hdMarkClear (f : Nat) (s : State) : State := setUnits f { unitsOf s f with marks := [] } s

/-- HD_CLEAR (R255) -/
def execHdClear (m : Master) (field : Fin 80) (s : State) : Result :=
  .next (onPage m (pHd field.val) 0x800 (hdClear field.val) s)
/-- HD_MARK_WRITE (R255) -/
def execHdMarkWrite (m : Master) (field : Fin 80) (s : State) : Result :=
  .next (onPage m (pHd field.val) 0x800 (hdMarkWrite field.val) s)
/-- HD_MARK_CLEAR (R255) -/
def execHdMarkClear (m : Master) (field : Fin 80) (s : State) : Result :=
  .next (onPage m (pHd field.val) 0x800 (hdMarkClear field.val) s)

end Sys2Proof.Machine
end

