-- ==== Sys2Proof/Machine/ReadRegs.lean ====
section
/-! DEFINITION. What every register reads as: fields that report the state of a block, and the common header (R46, R51). -/

namespace Sys2Proof.Machine

open Sys2Proof

/-- A field of a register: a value at bit `lo`. -/
def fld (v lo : Nat) : Word := BitVec.ofNat 32 (v * 2 ^ lo)

/-- The value of a one-bit field. -/
def flag (b : Bool) (lo : Nat) : Word := fld (b2n b) lo

/-- Several fields together. -/
def flds (l : List Word) : Word := l.foldl (· ||| ·) 0

/-- The fields of a register that are stored: all but the read-only ones. -/
def stored (s : State) (p off : Nat) : Word :=
  match regAt p off with
  | some r => live s p off &&& accMask [.rw, .rc, .w1c] r
  | none => 0

/-! ### The common header (R51, R66) -/

/-- BLK_ID (R66). -/
def blkId (p : Nat) : Word :=
  let w := fun t u k => flds [fld t 16, fld u 4, fld k 0]
  match pageKind p with
  | .mc => w 0 0 0 | .cnet => w 4 0 0 | .beat => w 8 0 0 | .txn => w 0xC 0 0
  | .serving k => w 0x10 0 k | .host k => w 0x20 0 k | .sec k => w 0x28 0 k | .sp => w 0x30 0 0
  | .pm k => w 0x38 0 k | .tel n => w 0x3C n 0 | .flash => w 0x40 0 0
  | .fcu f => w 0x100 f 0 | .clock f => w 0x101 f 0 | .vcore f => w 0x102 f 0 | .rails f => w 0x103 f 0
  | .tally f k => w 0x106 f k | .fabric f => w 0x109 f 0 | .repair f => w 0x10A f 0 | .hq f => w 0x10B f 0
  | .hd f => w 0x10C f 0 | .caw f => w 0x10D f 0
  | .stack n k => w 0x600 n k | .link n k => w 0x700 n k
  | .none => 0

/-- A number that names a block, for what R51 leaves "per block": TYPE and UNIT of BLK_ID. -/
def blkNo (p : Nat) : Nat := (blkId p).toNat / 16

/-- The firmware component and unit that control the block of a page, where one does (R411, R516). DESIGN CHOICE, log 18. -/
def blkController (p : Nat) : Option (Nat × Nat) :=
  match pageField p with
  | some f => some (2, f)
  | none => match pageKind p with
    | .sec _ => some (0, 0)
    | .mc => some (1, 0)
    | .stack n _ => some (3, n)
    | .link n _ => some (4, n)
    | _ => none

/-- FW of BLK_VER: the revision of the image that the block's controller runs, 0 where it has none (R51). DESIGN CHOICE, log 18. -/
def blkFw (s : State) (p : Nat) : Nat :=
  match blkController p with
  | some (c, u) => match mfind (compAt s c).runs u with
    | some r => (Config.fwRevision c r.version).toNat
    | none => 0
  | none => 0

/-- BLK_VER: the stepping and the firmware, with what R51 leaves per block. -/
def blkVer (s : State) (p : Nat) : Word :=
  flds [fld (Config.blkVer (blkNo p)).toNat 16, fld (if Config.stepping = .a1 then 0xA1 else 0xB0) 8, fld (blkFw s p) 0]

/-- BLK_CAPS: the bits that the chapters name, and others that R51 leaves per block. -/
def blkCaps (p : Nat) : Word :=
  let c := Config.blkCaps (blkNo p)
  match pageKind p with
  | .beat => c ||| 1
  | .fabric _ | .host _ => c ||| 7
  | .tel n => withBits c 0 0 (b2n (decide (n < 160) || n == 160 || n == 162))
  | _ => c

/-- READY: whether the block of a page is initialised and accepts commands: a field page while its FCU runs (R443, R516), the page
of a component's unit while it runs, any other from the module controller's boot on. DESIGN CHOICE, log 18. -/
def blkReady (s : State) (p : Nat) : Bool :=
  match pageField p with
  | some f => (fieldOf s f).ready && !restarts s 2 f
  | none => match pageKind p with
    | .sec _ => seRuns s && s.sec.bootId.isSome
    | .mc => s.boot.cfg.isSome && !mcStops s
    | .stack n _ => s.boot.cfg.isSome && stackRuns s n
    | .link n _ => s.boot.cfg.isSome && !restarts s 4 n && !(compAt s 4).dead.contains n
    | _ => s.boot.cfg.isSome

/-- BLK_STATUS.BUSY: a command of the page's action area is in progress: an arm whose group validates or applies, an acquisition, a
channel's list, a training. The other commands end in the write that gives them. DESIGN CHOICE, log 18. -/
def blkBusy (s : State) (m p : Nat) : Bool :=
  match pageKind p with
  | .beat => s.beat.mode == .acquiring
  | .txn => s.groups.any fun e => e.2.st == .validating || (e.2.isNow && e.2.st == .irrevocable)
  | .stack n 1 => (List.range 16).any fun c => let x := (chanAt (stackAt s n) c).st; x != .idle && x != .error
  | .link n 0 => let x := (linkAt s n).st; x == .training || x == .hello || x == .attest
  | .serving 8 => cmdBusy s 0x820 || cmdBusy s 0x850
  | .sec 1 => (mailboxAt s m).st == 1
  | .flash => s.boot.fwState == 1
  | .tel n => (convAt s n).calState == 1
  | _ => false

/-- BLK_STATUS. DESIGN CHOICE, log 18. -/
def blkStatus (s : State) (m p : Nat) : Word :=
  let dark := match pageField p with
    | some f => fieldSt s f == .dark
    | none => false
  flds [fld (Config.bStatus (blkNo p)).toNat 4, flag dark 3, flag (errValid s p && !dark) 2, flag (blkBusy s m p && !dark) 1,
    flag (blkReady s p) 0]

/-- BLK_TXN_STATE. -/
def blkTxnState (s : State) (p : Nat) : Word := flds [fld ((pageGroup s p).getD 0) 8, fld (pstate s p) 0]

/-! ### Measured values -/

/-- A quotient in whole units: which neighbour a value between two units is shown as, the manual does not say. DESIGN CHOICE, log 20. -/
def shown (a b : Nat) (s : State) : Nat × State :=
  if a % b = 0 then (a / b, s)
  else
    let v := freshWord s
    (a / b + bits v.1 0 0, v.2)

/-- A temperature in °C from its code (R467); below 0 °C the manual does not say what an unsigned field shows. DESIGN CHOICE, log 20. -/
def shownTemp (code : Nat) (s : State) : Nat × State :=
  if 800 ≤ code then shown (code - 800) 20 s
  else
    let v := freshWord s
    (bits v.1 7 0, v.2)

/-- A value that the manual gives no source for. DESIGN CHOICE, log 5. -/
def anyWord (s : State) : Word × State :=
  let v := freshWord s
  (v.1.setWidth 32, v.2)

/-! ### Read-only fields, page by page -/

/-- Module controller page (R499, R521). -/
def mcWord (s : State) (off : Nat) : Word :=
  let b := s.boot
  let e := s.recov.log[liveF s pMc 0xA04 5 0]?
  match off with
  | 0x60 => flds [fld b.stage 28, flag b.serviceReady 27, flag b.hostReady 26, flag b.serviceMode 25, fld b.cause.toNat 0]
  | 0x64 => fld b.tService 0
  | 0x68 => fld b.tHost 0
  | 0x6C => fld b.pending 0
  | 0xA00 =>
    let ph := match s.recov.plan with
      | none => 0
      | some p => match p.phase with
        | .planning => 1 | .armed => 2 | .applying => 3
    flds [fld ph 30, fld s.recov.queue.length 16, fld ((s.recov.plan.map (·.group)).getD 0) 0]
  | 0xA08 => match e with
    | some e => BitVec.ofNat 32 (2 ^ 22 * (e.unit % 1024) + e.us)
    | none => 0
  | 0xA0C => s.recov.logHi
  | _ => 0

/-- Bits [63:32] of the selected log entry (R499). -/
def logHigh (s : State) : Word :=
  match s.recov.log[liveF s pMc 0xA04 5 0]? with
  | some e => flds [fld e.code.toNat 16, fld e.kind 13, fld e.result 10, fld (e.unit / 1024) 0]
  | none => 0

/-- A list of flags, the first at bit 0. -/
def flagList (l : List Bool) : Nat := l.foldr (fun b n => b2n b + 2 * n) 0

/-- Beat unit page (R42); measured values and means are rounded down to 0.25 ns, and one too
wide for its field is shown as the greatest the field holds. DESIGN CHOICE, log 21. -/
def beatWord (s : State) (off : Nat) : Word :=
  let b := s.beat
  match off with
  | 0x60 =>
    let st := match b.mode with
      | .idle => 0 | .acquiring => 1 | .locked => 2 | .lost => 3
    flds [fld (flagList ((List.range 8).map fun n => linkUp s n && delayExcess s (periodNs s) n)) 17, fld (flagList (b.links.map candLocked)) 9,
      flag (candLocked b.ext) 8, fld b.activeSrc.toNat 4, fld st 0]
  | 0x64 => b.now.setWidth 32
  | 0x68 => b.nowHi.setWidth 32
  | 0x6C => fld (Nat.min (2 ^ 18 - 1) (measuredPeriod s)) 0
  | 0x70 => b.last.setWidth 32
  | 0x74 => b.lastHi.setWidth 32
  | _ => if linkUp s ((off - 0x80) / 4) then fld (Nat.min (2 ^ 18 - 1) (linkDelay s ((off - 0x80) / 4))) 0 else 0

/-- TXN_RESULT.STATE as a number. -/
def gstateCode : GState → Nat
  | .free => 0 | .opened => 1 | .validating => 2 | .armed => 3 | .irrevocable => 4 | .done => 5
/-- TXN_RESULT.RESULT as a number. -/
def gresultCode : GResult → Nat
  | .pending => 0 | .committed => 1 | .rejected => 2 | .late => 3 | .aborted => 4 | .beatLost => 5 | .pageLost => 6 | .nowRefused => 7

/-- Transaction controller page, for the group that the master has selected (R63). -/
def txnWord (s : State) (m off : Nat) : Word :=
  let q := mget (0, false) s.groupSel m
  let g := grp s q.1
  match off with
  | 0x804 => flds [flag q.2 31, fld q.1 0]
  | 0x808 => g.commit.setWidth 32
  | 0x80C => fld (g.commit.toNat / 2 ^ 32) 0
  | 0x81C => flds [fld g.page 16, flag g.darkSeen 8, fld (gstateCode g.st) 4, fld (gresultCode g.res) 0]
  | 0x820 => fld g.code.toNat 0
  | 0x824 => fld g.pages.length 0
  | 0x828 => fld (flagList ((List.range 32).map fun k => (grp s k).st != .free)) 0
  | 0x82C => fld (flagList ((List.range 32).map fun k => (grp s (32 + k)).st != .free)) 0
  | _ => 0

/-- A half of a 64-bit word. -/
def half (w : DWord) (hi : Bool) : Word := BitVec.ofNat 32 (if hi then w.toNat / 2 ^ 32 else w.toNat)

/-- The half of an entry of a latched list at register k of the list. -/
def halfOf (l : List DWord) (k : Nat) : Word := half (l.getD (k / 2) 0) (k % 2 == 1)

/-- Serving engine pages (R280, R310 to R312, R335). -/
def servingWord (s : State) (k off : Nat) : Option Word :=
  let ad := adapterAt s (liveF s pWl 0x830 9 0)
  let mdl := liveF s pKv 0x800 5 0
  match k, off with
  | 0, 0x80 => some (fld (s.serving.streams.filter (·.2.st != .free)).length 0)
  | 0, 0x84 => some (fld (ringFree s / 64) 0)
  | 1, 0x83C => some (fld (mget 0 s.serving.balances (liveF s 0x11 0x838 7 0)) 0)
  | 8, 0x840 =>
    let st := match ad.st with
      | .free => 0 | .installing => 1 | .ready => 2 | .retiring => 3
    some (flds [fld st 30, fld ad.refs 16, fld ad.version 0])
  | 8, 0x844 => some (flds [fld ad.tenant 24, fld ad.model 8, fld ad.stack 0])
  | 8, 0x848 => some (fld (ad.off / 4096) 0)
  | 10, 0x804 => some (fld (freeFloor s mdl) 0)
  | 10, 0x808 => some (fld (freeStack s mdl) 0)
  | 10, 0x80C => some (fld (modelAt s mdl).kv.reserved 0)
  | 10, 0x810 => some (fld (evictableOf s mdl) 0)
  | 10, 0x814 =>
    let n := fun t => (s.serving.px.filter (·.2.st == t)).length
    some (flds [fld (n .detached) 16, fld (n .live) 0])
  | _, _ =>
    if k = 1 ∧ 0x804 ≤ off ∧ off < 0x834 then some (halfOf s.serving.stLatch ((off - 0x804) / 4))
    else if k = 10 ∧ 0x824 ≤ off ∧ off < 0x83C then some (halfOf s.serving.pxLatch ((off - 0x824) / 4))
    else none

/-- Whether some page of a range records an error. -/
def anyErr (s : State) (base n : Nat) : Bool := (pageRange base n).any (errValid s)

/-- Host interface pages (R369 to R371). -/
def hostWord (s : State) (k off : Nat) : Option Word :=
  let h := s.host
  let fields := fun b n => fld (flagList ((List.range n).map fun i => anyErr s (fieldPage (b + i) 0) 16)) 0
  match k, off with
  | 0, 0x200 => some (flds [fld (liveF s pHost 0x200 31 16) 16, flag h.ideCm 11, flag h.ideIo 10, flag h.hdmOn 9,
      flag h.cacheEn 8, flag h.lopt 6, fld h.width 4, fld h.rate 2, flag h.up 0])
  | 0, 0x804 => some (fld h.lastFail.1 0)
  | 1, 0x804 => some (fld (flagList ([anyErr s 0 1, anyErr s 4 1, anyErr s 8 1, anyErr s 0xC 1, anyErr s 0x10 16, anyErr s 0x20 4,
      anyErr s 0x28 4, anyErr s 0x30 1, anyErr s 0x38 4, anyErr s 0x3C 1, anyErr s 0x3D 1, anyErr s 0x3E 1, anyErr s 0x3F 1,
      anyErr s 0x40 1])) 0)
  | 1, 0x808 => some (fields 0 32)
  | 1, 0x80C => some (fields 32 32)
  | 1, 0x810 => some (fields 64 16)
  | 1, 0x814 => some (fld (flagList ((List.range 24).map (fun n => anyErr s (stackPage n 0) 8) ++
      (List.range 8).map (fun n => anyErr s (linkPage n 0) 8))) 0)
  | 2, 0x804 => some (flds [stored s 0x22 0x804, flag h.ideCm 1, flag h.ideIo 0])
  | _, _ => none

/-- Security engine pages (R429 to R431). -/
def secWord (s : State) (m k off : Nat) : Option Word :=
  let x := s.sec
  let b := mailboxAt s m
  let q := sessionAt s (liveF s 0x2A 0x800 12 0)
  let t := liveF s 0x2A 0x80C 7 0
  let key := match mfind x.tenants t with
    | some r => keyIdOf r
    | none => 0
  match k, off with
  | 0, 0x60 => some (flds [fld x.tenants.length 8, flag x.signHalt 2, flag x.bootId.isSome 1, flag x.identityOk 0])
  | 0, 0x64 => some (fld x.leaf 0)
  | 0, 0x68 => some (fld x.bucket 0)
  | 1, 0x804 => some (fld b.byte 0)
  | 1, 0x808 => some (mbWord b)
  | 1, 0x80C => some (flds [fld b.st 30, fld b.resp.length 16, fld b.code.toNat 0])
  | 2, 0x804 =>
    let st := match q.st with
      | .closed => 0 | .opened => 1 | .bound => 2
    some (flds [fld st 30, fld (if st = 2 then q.stream else 0) 16, fld (if st = 0 then 0 else q.tenant) 8])
  | 2, 0x808 => some (fld q.gen 0)
  | 2, 0x810 => some (flds [flag (mfind x.tenants t).isSome 31, fld (tenantModels s t).length 0])
  | 2, 0x814 => some (half key false)
  | 2, 0x818 => some (half key true)
  | 3, _ =>
    if off < 0x800 ∨ 0x820 ≤ off then none
    else some (fld (le (if off < 0x810 then deviceBytes else leBytes 16 (s.sec.bootId.getD 0).toNat) (off % 16) 4) 0)
  | _, _ => none

/-- What the reading of a hub input shows in a unit; 0 where there is none yet. DESIGN CHOICE, log 20. -/
def hubShown (input mul div : Nat) (s : State) : Nat × State :=
  match reading s 80 input with
  | some r => shown (r.1 * mul) div s
  | none => (0, s)

/-- PM_COOL: inlet, outlet and flow (R465, R468). DESIGN CHOICE, log 20. -/
def coolWord (s : State) : Word × State :=
  let t := fun i s => match reading s 80 i with
    | some r => shownTemp r.1 s
    | none => (0, s)
  let a := t 8 s
  let b := t 9 a.2
  let c := hubShown 10 1 4 b.2
  (flds [fld a.1 24, fld b.1 16, fld c.1 0], c.2)

/-- PM_BLADEn: current in 0.1 A, voltage in 10 mV (R465, R467, R468). DESIGN CHOICE, log 20. -/
def bladeWord (n : Nat) (s : State) : Word × State :=
  let i := hubShown (4 + n) 1 1 s
  let v := hubShown n 14648 10000 i.2
  (flds [fld i.1 16, fld v.1 0], v.2)

/-- Rung of the ladder that an action belongs to (R450). -/
def actRung : CapAct → Nat
  | .limit => 1 | .slower _ => 2 | .kiln _ => 3

/-- Power manager pages (R463 to R465). -/
def pmWord (s : State) (k off : Nat) : Option (Word × State) :=
  match k, off with
  | 0, 0x60 => some (flds [flag s.pm.connSuspect 31, flag s.pm.inputLow 30, flag s.pm.coolantLow 29,
      fld ((s.pm.acts.map actRung).foldl Nat.max 0) 26, fld (capEff s / 100) 0], s)
  | 0, 0x64 =>
    let v := shown s.pm.watts 10 s
    some (fld (Nat.min 0xFFFF v.1) 0, v.2)
  | 2, 0x810 => some (coolWord s)
  | 2, _ => if 0x800 ≤ off ∧ off < 0x810 then some (bladeWord ((off - 0x800) / 4) s) else none
  | _, _ => none

/-- Converter page (R479). DESIGN CHOICE, log 59. -/
def telWord (s : State) (n off : Nat) : Option Word :=
  let x := convAt s n
  match off with
  | 0x804 =>
    let inj := match x.job with
      | .injected _ | .injectedFor _ => true
      | _ => false
    some (flds [fld x.calState 30, flag x.running 29, flag inj 28, flag x.injPending 27, flag (covering s n) 26, fld x.entry 16,
      fld x.passes 0])
  | 0x808 => some (fld x.ofs.toNat 0)
  | 0x80C => some (fld x.gain.toNat 0)
  | 0x814 => some (flds [stored s (pTel n) 0x814, fld x.cause.toNat 0])
  | _ => none

/-- Secure flash interface page (R523); where the units of a component run different images, the lowest-numbered unit's. -/
def flashWord (s : State) (off : Nat) : Option Word :=
  if 0x60 ≤ off ∧ off < 0xB0 then
    let c := (off - 0x60) / 16
    let x := compAt s c
    let r : Option FwRun := x.runs.head?.map (·.2)
    match off % 16 with
    | 0 => some (flds [fld x.runBank 31, fld x.bootBank 30, fld x.inactive 27, flag x.fellBack 26, fld ((r.map (·.iface)).getD 0) 0])
    | 4 => some (fld ((r.map (·.version)).getD 0) 0)
    | 8 => some (fld (if x.inactive = 0 then 0 else (fwRun (inactiveImg s c)).version) 0)
    | _ => some (flds [fld (minSvn s c) 16, fld ((r.map (·.svn)).getD 0) 0])
  else if 0x104 ≤ off ∧ off < 0x120 then
    let q := recRes s ((off - 0x100) / 4)
    some (flds [fld q.st 30, fld q.slot 29, fld q.version 0])
  else if off = 0x804 then some (flds [fld s.boot.fwState 30, fld s.boot.fwCode.toNat 0])
  else none

/-- FLD_STATE.STATE as a number. -/
def fieldCode : FieldSt → Nat
  | .dark => 0 | .kiln => 1 | .on => 2

/-- FCU page (R459). DESIGN CHOICE, log 20. -/
def fcuWord (s : State) (f off : Nat) : Option (Word × State) :=
  let x := fieldOf s f
  match off with
  | 0x60 => some (flds [fld (fieldCode x.st) 30, fld (fieldCode (effTarget s f)) 28, flag x.attempt.isSome 27, fld x.stage 23,
      fld (Nat.min 255 ((x.attempt.map (·.defers)).getD 0)) 12, fld x.lastDark 8], s)
  | 0x64 => match fieldTemp s f with
    | some c =>
      let v := shownTemp c s
      some (fld v.1 0, v.2)
    | none => some (0, s)
  | _ => none

/-- Clock page (R460); the generator is locked once the rail stage has ended (R443). DESIGN CHOICE, log 20. -/
def clockWord (s : State) (f off : Nat) : Option Word :=
  let x := fieldOf s f
  let e := effStep s f
  if off = 0x60 then
    some (flds [flag true 31, flag (x.powCap == e) 7, flag (thermalCap x == e) 6, flag (phaseCap x == e) 5, flag (reqStep s f == e) 4,
      fld e 0])
  else none

/-- Phases of a rail that have failed or await their retry, as bits. -/
def phaseBits (m : Map PhaseSt) (n : Nat) : Nat :=
  flagList ((List.range n).map fun i => match mfind m i with
    | some .off | some .failed => true
    | _ => false)

/-- VCORE page (R461); the manual names the source of IMEAS only (R468). DESIGN CHOICE, log 20. -/
def vcoreWord (s : State) (f off : Nat) : Option (Word × State) :=
  let x := fieldOf s f
  match off with
  | 0x60 => some (fld (phaseBits x.vcore 32) 0, s)
  | 0x64 => some (fld (phaseBits x.vcore 36 / 2 ^ 32) 0, s)
  | 0x68 =>
    let v := anyWord s
    let i := match reading s f 1 with
      | some r => shown r.1 5 v.2
      | none => (0, v.2)
    some (flds [fld (phasesDown x.vcore) 26, fld (i.1 % 1024) 14, v.1 &&& 0x3FF], i.2)
  | _ => none

/-- Rails page (R462). DESIGN CHOICE, log 20. -/
def railsWord (s : State) (f off : Nat) : Option (Word × State) :=
  let x := fieldOf s f
  match off with
  | 0x60 => some (flds [fld (phaseBits x.vret 8) 24, fld (phaseBits x.vfab 8) 16, flag x.brkClosed 7, flag x.brkLocked 6, flag (!x.fcA) 5,
      flag (!x.fcB) 4], s)
  | 0x64 | 0x68 => some (anyWord s)
  | _ => none

/-- Wait list entries held for a tally. -/
def waitersOf (s : State) (t : Nat) : Nat :=
  (waitKeys t).foldl (fun n k => n + ((mget [] s.waits k).filter (·.tally == t)).length) 0

/-- Tally block page +2 (R139). -/
def tallyWordAt (s : State) (f off : Nat) : Option Word :=
  let t := tallySelected s f
  match off with
  | 0x804 => some ((tallyAt s t).count.setWidth 32)
  | 0x808 => some (live s (fieldPage f 8) 0x808)
  | 0x810 => some (flds ((List.range 4).map fun p => fld (mget [] s.waits (4 * f + p)).length (8 * p)))
  | _ => none

/-- Cores of a field that the repair map lists with a property. -/
def repairCount (s : State) (f : Nat) (q : Repair → Bool) : Nat := (s.repair.filter fun e => e.1 / 4096 == f && q e.2).length

/-- Repair map page (R498). -/
def repairWord (s : State) (f off : Nat) : Option Word :=
  let k := liveF s (fieldPage f 10) 0x800 11 0
  let r := repairOf s (4096 * f + k)
  match off with
  | 0x60 => some (flds [fld (repairCount s f (·.routerRetired)) 24, fld (repairCount s f fun r => r.shipped && !r.enabled) 12,
      fld (3840 - repairCount s f (!·.enabled)) 0])
  | 0x804 => if 3840 ≤ k then some 0
    else some (flds [flag r.enabled 31, flag r.shipped 30, flag r.routerRetired 29, fld r.reason.toNat 16])
  | 0x808 => some (flds [flag (convAt s (2 * f + 1)).failed 1, flag (convAt s (2 * f)).failed 0])
  | _ => none

/-- The selected record of the hazard detector (R254, R255). -/
def hdSelected (s : State) (f : Nat) : DWord := (unitsOf s f).records.getD (liveF s (pHd f) 0x814 7 0) 0

/-- Heavy quota, hazard detector and core access window pages (R100, R250, R255). -/
def unitsWord (s : State) (p : PageKind) (off : Nat) : Option Word :=
  match p, off with
  | .hq f, 0x64 => some (fld (unitsOf s f).permits.length 0)
  | .hq f, 0x808 => some (fld (unitsOf s f).quotaQ.length 0)
  | .hd f, 0x80C => some (fld (unitsOf s f).records.length 0)
  | .hd f, 0x818 => some (half (hdSelected s f) false)
  | .caw f, 0x818 => some (fld (dirtyCores s f).length 0)
  | .caw f, 0x81C =>
    some (fld (s.cores.filter fun e => e.1 / 4096 == f && (bit e.2.coreErr 63 || e.2.threads.any (·.2.st == .faulted))).length 0)
  | _, _ => none

/-- CH_STATUS.STATE as a number; a channel whose controller restarts is stalled (R516). -/
def chanCode (s : State) (n : Nat) : ChSt → Nat
  | .idle => 0 | .running => if restarts s 3 n then 3 else 1 | .waiting => 2 | .stalled => 3 | .error => 4

/-- Stack controller pages (R233, R234). -/
def stackWord (s : State) (n k off : Nat) : Option Word :=
  let x := stackAt s n
  if k = 0 then
    if 0x800 ≤ off ∧ off < 0x820 then
      some (fld (flagList ((List.range 32).map fun j => (mfind x.keys (8 * (off - 0x800) + j)).isSome)) 0)
    else if off = 0x828 then some (flds [stored s (pStack n) 0x828, fld x.poolFree 0])
    else if off = 0x82C then some (fld x.lastFail 0)
    else none
  else if k = 1 ∧ 0x800 ≤ off then
    let c := chanAt x ((off - 0x800) / 32)
    match off % 32 with
    | 0x0C => some (flds [fld c.code.toNat 16, fld (chanCode s n c.st) 0])
    | 0x10 => some (fld c.cur 0)
    | 0x14 => some c.done
    | 0x18 => some (c.lastEpoch.setWidth 32)
    | _ => none
  else none

/-- LINK_STATUS.STATE as a number. -/
def linkCode : LinkSt → Nat
  | .down => 0 | .training => 1 | .hello => 2 | .attest => 3 | .up => 4

/-- Chain link pages (R397, R399, R400). -/
def linkWord (s : State) (n k off : Nat) : Option Word :=
  let x := linkAt s n
  let rt := fun t (bank : Nat) => routeWord s t bank (liveF s (linkPage n k) 0x800 10 0)
  let t := if k = 2 then n else 8
  match k, off with
  | 0, 0x60 => some (flds [fld (linkCode x.st) 29, flag x.peerJoined 28, fld x.peerModule.toNat 0])
  | 0, 0x810 => some (fld (s.clReqs.filter (·.link == n)).length 0)
  | 2, 0x804 | 3, 0x804 => some (rt t (1 - routeBank s t))
  | 2, 0x808 | 3, 0x808 => some (rt t (routeBank s t))
  | 3, 0x60 => some (flds [fld (if s.leaving then 2 else b2n (joined s)) 30, fld s.clIns.length 0])
  | _, _ => none

/-- What a register beyond the header reads as, where some of its fields report state that is kept elsewhere. -/
def reported (s : State) (m p off : Nat) : Option (Word × State) :=
  let pure := fun (w : Option Word) => w.map (·, s)
  match pageKind p with
  | .mc => if off = 0xA04 ∨ off = 0xA10 ∨ off = 0xA14 then none else some (mcWord s off, s)
  | .beat => if 0x60 ≤ off ∧ off < 0x100 then some (beatWord s off, s) else none
  | .txn => some (txnWord s m off, s)
  | .serving k => pure (servingWord s k off)
  | .host k => pure (hostWord s k off)
  | .sec k => pure (secWord s m k off)
  | .sp => if off = 0x60 then
      some (flds [flag s.sp.up 31, flag s.sp.session.isSome 30, fld (s.sp.session.getD 0) 0], s) else none
  | .pm k => pmWord s k off
  | .tel n => pure (telWord s n off)
  | .flash => pure (flashWord s off)
  | .fcu f => fcuWord s f off
  | .clock f => pure (clockWord s f off)
  | .vcore f => vcoreWord s f off
  | .rails f => railsWord s f off
  | .tally f 2 => pure (tallyWordAt s f off)
  | .fabric f => if off = 0x60 then some (fld (repairCount s f (·.routerRetired)) 0, s) else none
  | .repair f => pure (repairWord s f off)
  | .hq f => pure (unitsWord s (.hq f) off)
  | .hd f => pure (unitsWord s (.hd f) off)
  | .caw f => pure (unitsWord s (.caw f) off)
  | .stack n k => pure (stackWord s n k off)
  | .link n k => pure (linkWord s n k off)
  | _ => none

/-- Whether a field's pages are dark (R50). -/
def darkPage (s : State) (p : Nat) : Bool :=
  match pageField p with
  | some f => fieldSt s f == .dark
  | none => false

/-- What the register at an aligned offset reads as for a master (R46, R49 to R51, R524); write-only fields read 0. DEDUCED, log 9. -/
def regWord (s : State) (m p off : Nat) : Word × State :=
  if isShadowOff off then
    match regAt p (off - 0x400) with
    | some r => (if darkPage s p then 0 else shadow s p (off - 0x400) &&& accMask [.rw] r, s)
    | none => (0, s)
  else match regAt p off with
    | none => (0, s)
    | some r =>
      if off = 0 then (blkId p, s)
      else if off = 0xC then (blkStatus s m p, s)
      else if darkPage s p then (0, s)
      else if off = 4 then (blkVer s p, s)
      else if off = 8 then (blkCaps p, s)
      else if off = 0x1C then (blkTxnState s p, s)
      else if off < 0x20 then (live s p off, s)
      else match reported s m p off with
        | some v => v
        | none => (live s p off &&& ~~~accMask [.wo] r, s)

end Sys2Proof.Machine
end

