-- ==== Sys2Proof/Machine/Registers.lean ====
section
/-! DEFINITION. Accesses of a master over the control network: reads with their side effects, and writes (R45, R46, R49 to R56,
R524). -/

namespace Sys2Proof.Machine

open Sys2Proof

/-- The bytes of a width; 0 for one that R46 does not list. -/
def widthBytes : Width → Nat
  | .w8 => 1 | .w16 => 2 | .w32 => 4 | .w64 => 8 | .odd => 0

/-! ### Reads -/

/-- What a register whose reading latches another one latches. DEDUCED, log 9. -/
def latch (p off : Nat) (s : State) : State :=
  match pageKind p, off with
  | .beat, 0x64 => { s with beat := { s.beat with nowHi := BitVec.ofNat 16 (s.beat.now.toNat / 2 ^ 32) } }
  | .beat, 0x70 => { s with beat := { s.beat with lastHi := BitVec.ofNat 16 (s.beat.last.toNat / 2 ^ 32) } }
  | .mc, 0xA08 => updRecov (fun r => { r with logHi := logHigh s }) s
  | .host 0, 0x804 => setLive pHost 0x808 (flds [fld s.host.lastFail.2 28, fld (s.host.lastFail.1 / 2 ^ 32 % 2 ^ 12) 0]) s
  | .stack n 0, 0x82C => setLive (pStack n) 0x830 (fld ((stackAt s n).lastFail / 2 ^ 32) 0) s
  | .tally f 2, 0x804 =>
    let t := tallySelected s f
    setLive (fieldPage f 8) 0x808 (flds [fld (waitersOf s t) 16, fld (tallyAt s t).epoch.toNat 0]) s
  | .hd f, 0x818 => setLive (pHd f) 0x81C (half (hdSelected s f) true) s
  | _, _ => s

/-- What a counter restarts at when a read clears it: HQ_PEAK at the permits held, every other one at 0 (R250). DEDUCED, log 19. -/
def rcRestart (s : State) (p off : Nat) : Nat :=
  match pageKind p, off with
  | .hq f, 0x800 => (unitsOf s f).permits.length
  | _, _ => 0

/-- A read clears each RC field of which it returns a bit, whole (R46); `m` holds the bits returned. DEDUCED, log 19. -/
def readClears (p off : Nat) (m : Word) (s : State) : State :=
  match regAt p off with
  | some r => (r.flds.filter fun f => f.acc == .rc && fldMask f &&& m != 0).foldl (fun t f =>
      setLiveF p off f.hi f.lo (rcRestart s p off) t) s
  | none => s

/-- A read of the register at an aligned offset, of the bits in `m`: its value, and its side effects. -/
def readReg (ms p off : Nat) (m : Word) (s : State) : Word × State :=
  let v := regWord s ms p off
  if isShadowOff off ∨ darkPage s p then v
  else
    let t := latch p off (readClears p off m v.2)
    (v.1, if pageKind p = .sec 1 ∧ off = 0x808 then mbData ms none t else t)

/-- A read at any offset and width (R46): what it returns, and the state after it. DEDUCED, log 19. -/
def regRead (ms p off : Nat) (w : Width) (s : State) : DWord × State :=
  let n := widthBytes w
  if n = 0 ∨ off % n ≠ 0 then (0, (if ms = 1 then unsupportedReq else id) (countWidth s))
  else if n = 8 then
    let a := readReg ms p off 0xFFFFFFFF s
    let b := readReg ms p (off + 4) 0xFFFFFFFF a.2
    (BitVec.ofNat 64 (a.1.toNat + 2 ^ 32 * b.1.toNat), b.2)
  else
    let k := 8 * (off % 4)
    let a := readReg ms p (off - off % 4) (fld (2 ^ (8 * n) - 1) k) s
    (BitVec.ofNat 64 (a.1.toNat / 2 ^ k % 2 ^ (8 * n)), a.2)

/-- A master's read: what it returns stands in `busOut`. DESIGN CHOICE, log 4. -/
def busRead (m : Master) (page : BitVec 14) (off : BitVec 12) (w : Width) (s : State) : State :=
  let r := regRead (masterId m) page.toNat off.toNat w s
  { r.2 with busOut := mset 0 r.2.busOut (masterId m) r.1 }

/-! ### Writes -/

/-- Commands of a register, in the order of their bits. DEDUCED, log 19. -/
def cmds (l : List (Bool × (State → State))) (s : State) : State := l.foldl (fun s c => if c.1 then c.2 s else s) s

/-- A write to an action register without effects of its own: W1C bits clear, RW fields take the value. DEDUCED, log 19. -/
def plainWrite (p off : Nat) (v : Word) (s : State) : State :=
  match regAt p off with
  | some r =>
    let rw := accMask [.rw] r
    setLive p off ((live s p off &&& ~~~rw &&& ~~~(v &&& accMask [.w1c] r)) ||| (v &&& rw)) s
  | none => s

/-- TXN registers (R57, R61, R63, R64). -/
def txnWrite (m : Master) (off : Nat) (v : Word) (s : State) : State :=
  let g := (sel s m).1
  let x := grp s g
  match off with
  | 0x800 => if bit v 0 then allocGroup m s else s
  | 0x804 => setSel m (bits v 5 0, false) s
  | 0x808 => if x.st = .opened then setGrp g { x with commit := withBits x.commit 31 0 v.toNat } s else txnState s
  | 0x80C => if x.st = .opened then setGrp g { x with commit := withBits x.commit 47 32 (bits v 15 0) } s else txnState s
  | 0x810 => if bit v 0 then (if bit v 1 then armNow m s else armGroup m s) else s
  | 0x814 => if bit v 0 then abortGroup m s else s
  | 0x818 => if bit v 0 then releaseGroup m s else s
  | _ => s

/-- WL_CMD (R280): LOAD and INSTALL wait for their images to be read. DESIGN CHOICE, log 37. -/
def wlWrite (op : Nat) (s : State) : State :=
  if op = 0 then s
  else if 5 ≤ op then recordErrAny pWl E.wlOpInvalid s
  else if op = 3 then wlCommand 3 releaseCmd s
  else if op = 4 then wlCommand 4 unloadCmd s
  else if cmdBusy s 0x820 || mcStops s then recordErrAny pWl E.wlBusy s
  else setCmdResult 0x820 1 0 { s with weights := { s.weights with asked := some op } }

/-- AD_CMD.INSTALL (R280): it waits for its image to be read. DESIGN CHOICE, log 37. -/
def adInstallAsked (s : State) : State :=
  if cmdBusy s 0x850 || mcStops s then recordErrAny pWl E.wlBusy s
  else setCmdResult 0x850 1 0 { s with weights := { s.weights with adAsked := true } }

/-- Serving engine registers (R280, R312, R335, R352). -/
def servingWrite (k off : Nat) (v : Word) (s : State) : State :=
  match k, off with
  | 1, 0x800 => stSel (bits v 11 0) s
  | 1, 0x834 => if bit v 0 then stCmdEnd s else s
  | 8, 0x81C => wlWrite (bits v 3 0) s
  | 8, 0x84C => cmds [(bit v 0, adInstallAsked), (bit v 1, adCommand false adRetireCmd)] s
  | 10, 0x820 => pxSel (v.setWidth 16) s
  | 10, 0x83C => if bit v 0 then flushModel s else s
  | 11, 0x800 => specSel (bits v 11 0) s
  | _, _ => plainWrite (0x10 + k) off v s

/-- Mailbox registers (R430). DEDUCED, log 19. -/
def mailboxWrite (m : Nat) (off : Nat) (v : Word) (s : State) : State :=
  match off with
  | 0x800 => cmds [(bit v 0, mbSubmit m), (bit v 1, mbReset m)] s
  | 0x804 => updMailbox m (fun x => { x with byte := bits v 13 2 * 4 }) s
  | 0x808 => mbData m (some v) s
  | _ => s

/-- FW_CMD (R523). -/
def fwWrite (v : Word) (s : State) : State :=
  cmds [(bit v 0, fun s => (fwActivate (bits v 7 5) s).2), (bit v 1, fun s => (fwRestart (bits v 7 5) (bits v 15 8) s).2)] s

/-- Tally block registers (R139). -/
def tallyWrite (f off : Nat) (v : Word) (s : State) : State :=
  match off with
  | 0x800 => if 384 ≤ bits v 8 0 then recordErrAny (fieldPage f 8) E.tallyInvalid s else plainWrite (fieldPage f 8) off v s
  | 0x80C => match bits v 1 0 with
    | 1 => tallyCmd f false (bits v 25 2) s
    | 2 => tallyCmd f true (bits v 25 2) s
    | 3 => wakeWaiters (tallySelected s f) s
    | _ => s
  | _ => plainWrite (fieldPage f 8) off v s

/-- Chain link registers (R397, R399, R400). DEDUCED, log 19. -/
def linkWrite (n k off : Nat) (v : Word) (s : State) : State :=
  let p := linkPage n k
  let t := if k = 2 then n else 8
  if k = 0 ∧ off = 0x800 then (if bit v 0 then retrain n s else s)
  else if (k = 2 ∨ k = 3) ∧ off = 0x804 then
    if pageLocked s p then recordErrAny p E.txnShadowLocked s
    else { s with routes := mset 0xFFFFFFFF s.routes (routeKey t (1 - routeBank s t) (liveF s p 0x800 10 0)) v }
  else if (k = 2 ∨ k = 3) ∧ off = 0x80C then (if bit v 0 then rtCopy t s else s)
  else plainWrite p off v s

/-- A write to the action area (R55); `now` is the time of the write, in 0.25 ns. -/
def actionWrite (now : Nat) (m : Master) (p off : Nat) (v : Word) (s : State) : State :=
  match pageKind p, off with
  | .beat, 0x800 => if bit v 0 then restart s else s
  | .txn, _ => txnWrite m off v s
  | .serving k, _ => servingWrite k off v s
  | .sec 1, _ => mailboxWrite (masterId m) off v s
  | .pm 1, 0x800 => if bit v 0 then reclose (bits v 14 8) now s else s
  | .tel n, 0x800 => if bit v 0 then startCal n (bit v 1) s else s
  | .flash, 0x800 => fwWrite v s
  | .tally f 2, _ => tallyWrite f off v s
  | .fabric f, 0x800 => cmds [(bit v 0, flushReduce f), (bit v 1, flushMerge f)] s
  | .hd f, 0x800 => cmds [(bit v 0, hdClear f), (bit v 1, hdMarkWrite f), (bit v 2, hdMarkClear f)] s
  | .caw _, 0x800 => if 3840 ≤ bits v 11 0 then recordErrAny p E.coreIdInvalid s else plainWrite p off v s
  | .caw f, 0x810 => cmds [(bit v 0, cawRead m f), (bit v 1, cawWrite m f), (bit v 2, cawDiscard f)] s
  | .link n k, _ => linkWrite n k off v s
  | .stack n 1, _ =>
    if 0x800 ≤ off ∧ off % 32 = 8 then
      cmds [(bit v 0, chStart n ((off - 0x800) / 32)), (bit v 1, chAbort n ((off - 0x800) / 32))] s
    else plainWrite p off v s
  | _, _ => plainWrite p off v s

/-- A write to the header (R51, R57). -/
def headerWrite (m : Master) (p off : Nat) (v : Word) (s : State) : State :=
  match off with
  | 0x10 => if bit v 31 then setLive p 0x10 0 (setLive p 0x14 0 s) else s
  | 0x18 => if bit v 31 then enrol m p (bits v 5 0) s else withdraw m p (bits v 5 0) s
  | _ => s

/-- A write to the configuration area (R52, R54): the shadow keeps reserved bits too, for validation to reject. DESIGN CHOICE, log 11. -/
def cfgWrite (p off : Nat) (r : RegRow) (v : Word) (s : State) : State :=
  let m := accMask [.rw] r
  if pageLocked s p then recordErrAny p E.txnShadowLocked s
  else if m = 0 then s
  else
    let k := m ||| reservedMask r
    setShadow p off ((shadow s p off &&& ~~~k) ||| (v &&& k)) s

/-- The window that a write to page +1 of a link names is noted as the module controller's or another master's (R386). DESIGN CHOICE,
log 55. -/
def noteWindow (m : Master) (p off : Nat) (s : State) : State :=
  match pageKind p with
  | .link n 1 =>
    let w := 32 * n + (off - 0x40) / 24
    if pageLocked s p then s
    else updLink n (fun x => { x with winMc := if m = .mc then insertAsc w x.winMc else without w x.winMc }) s
  | _ => s

/-- A 32-bit write at an aligned offset. DESIGN CHOICE, log 11. -/
def writeReg (now : Nat) (m : Master) (p off : Nat) (v : Word) (s : State) : State :=
  if isShadowOff off || pageDark s p then dropUnassigned (masterId m) p off s
  else match regAt p off with
    | none => dropUnassigned (masterId m) p off s
    | some r =>
      if isCfg off then noteWindow m p off (cfgWrite p off r v s)
      else if v &&& reservedMask r ≠ 0 then recordErrAny p E.reservedBit s
      else if off < 0x20 then headerWrite m p off v s
      else actionWrite now m p off v s

/-- A write at any offset and width (R46). DEDUCED, log 19. -/
def regWrite (now : Nat) (m : Master) (p off : Nat) (w : Width) (v : DWord) (s : State) : State :=
  match w with
  | .w32 => if off % 4 = 0 then writeReg now m p off (v.setWidth 32) s else dropWidth (masterId m) p off s
  | .w64 => if off % 8 = 0 then
      writeReg now m p (off + 4) (BitVec.ofNat 32 (v.toNat / 2 ^ 32)) (writeReg now m p off (v.setWidth 32) s)
    else dropWidth (masterId m) p off s
  | _ => dropWidth (masterId m) p off s

/-- REGISTER_WRITE (R52) -/
def execRegisterWrite (now : Nat) (m : Master) (page : BitVec 14) (off : BitVec 12) (w : Width) (v : BitVec 64) (s : State) : Result :=
  .next (viaBar m (regWrite now m page.toNat off.toNat w v) s)
/-- RC_READ (R46) -/
def execRcRead (m : Master) (page : BitVec 14) (off : BitVec 12) (w : Width) (s : State) : Result := .next (viaBar m (busRead m page off w) s)
/-- LATCH_READ (R42) -/
def execLatchRead (m : Master) (page : BitVec 14) (off : BitVec 12) (w : Width) (s : State) : Result := .next (viaBar m (busRead m page off w) s)

/-! ### Register accesses of chain peers (R393) -/

/-- The first byte of the register window (R206). -/
def regWindow : Nat := 0x200000000000

/-- REG_WR or REG_RD of a peer: checked under R384, performed as master 0x8 + n, and answered. -/
def pclReg (n : Nat) (act : Nat → Nat → Pcl → State → DWord × State) (p : Pcl) (s : State) : State :=
  match inboundCheck s p with
  | .error c => refuseIn n p c s
  | .ok a => match addrKind a with
    | .pages =>
      let r := act ((a - regWindow) / 4096) (a % 4096) p s
      sendResp n (respTo r.2 p 0 (leBytes 4 r.1.toNat)) r.2
    | _ => refuseIn n p E.unmapped s

/-- PCL_REG_WR (R393) -/
def execPclRegWr (now : Nat) (link : Fin 8) (vc : Fin 4) (s : State) : Result :=
  .next (takeMsg link.val vc.val 5 (pclReg link.val fun p off q s =>
    (0, regWrite now (.peer link) p off .w32 (BitVec.ofNat 64 (leNat (q.data.take 4))) s)) s)
/-- PCL_REG_RD (R393) -/
def execPclRegRd (link : Fin 8) (vc : Fin 4) (s : State) : Result :=
  .next (takeMsg link.val vc.val 6 (pclReg link.val fun p off _ s => regRead (masterId (.peer link)) p off .w32 s) s)

/-- The response to a REG message of the service port goes to its requester (R518). -/
def regResponse (p : Pcl) (q : ClReq) (s : State) : State :=
  match q.origin with
  | .spReg dst op seq => spRespond dst op 0 seq (if op = 2 then leBytes 4 (leNat (p.data.take 4)) else []) s
  | _ => s

/-- PCL_REG_RSP (R393) -/
def execPclRegRsp (link : Fin 8) (vc : Fin 4) (s : State) : Result :=
  .next (takeMsg link.val vc.val 7 (fun p => response p (regResponse p)) s)

end Sys2Proof.Machine
end

