-- ==== Sys2Proof/Machine/Validate.lean ====
section
/-! DEFINITION. Validation of the pages of a transaction group (R57 step 3): what each page rejects, with the offset that
BLK_ERRINFO names. -/

namespace Sys2Proof.Machine

open Sys2Proof

/-- A failing check with its code and the offset at fault. -/
abbrev Bad := Option (Code × Nat)

/-- The first failing check of a list of condition, code and offset. DESIGN CHOICE, log 11. -/
def firstBad (l : List (Bool × Code × Nat)) : Bad := (l.find? (·.1)).map (·.2)

/-- A register as it will stand after the commit of a group of pages. -/
def aft (s : State) (pages : List Nat) (p off : Nat) : Word := if pages.contains p then shadow s p off else live s p off
/-- A field of it. -/
def aftF (s : State) (pages : List Nat) (p off hi lo : Nat) : Nat := bits (aft s pages p off) hi lo

/-- The first register of a page whose shadow holds a reserved bit (R56). -/
def resvBad (s : State) (p : Nat) : Option Nat :=
  ((pageShadows p s).find? fun e => match regAt p (e.1 % 4096) with
    | some r => decide (e.2 &&& reservedMask r ≠ 0)
    | none => false).map (·.1 % 4096)

/-! ### Fields -/

/-- TALLY_TARGET registers of a page (R139). -/
def tallyBad (s : State) (p : Nat) : Bad :=
  (List.range 192).findSome? fun i =>
    if shadowF s p (0x40 + 4 * i) 23 0 = 0xFFFFFF then some (E.reservedValue, 0x40 + 4 * i) else none

/-- The routing page (R201, R202). -/
def fabricBad (s : State) (p : Nat) : Bad :=
  if 48 < shadowF s p 0x40 5 0 then some (E.fabricCfgInvalid, 0x40)
  else (List.range 160).findSome? fun i =>
    let o := 0x100 + 4 * i
    let wf := shadowF s p o 19 13
    let wy := shadowF s p o 11 6
    if shadowF s p o 31 31 = 1 ∧ (79 < wf ∨ 59 < wy ∨ (repairOf s (4096 * wf + wy * 64 + shadowF s p o 5 0)).routerRetired
        ∨ fieldSt s wf = .dark) then some (E.fabricCfgInvalid, o) else none

/-- The heavy quota page (R250). -/
def heavyBad (s : State) (p : Nat) : Bad :=
  let q := shadowF s p 0x40 11 0
  firstBad
    [(q == 0xFFF, E.reservedValue, 0x40),
     (decide (3840 < q) || decide (liveF s p 0x68 11 0 < q), E.quotaRange, 0x40),
     (shadowF s p 0x44 11 0 == 0xFFF, E.reservedValue, 0x44)]

/-- Whether every placement that holds cores in a field holds none elsewhere and carries DEBUG (R251). -/
def hazardScopeOk (s : State) (f : Nat) : Bool :=
  (placements s).all fun e => !(heldFields e.2).contains f || (e.2.img.debug && decide ((heldFields e.2).length ≤ 1))

/-- BANK_MODE of a core as it will stand after the commit of a group of pages. -/
def aftBanks (s : State) (pages : List Nat) (c : Nat) : DWord :=
  let x := coreAt s c
  if pages.contains (pCaw (fieldOfCore c)) then shadowReg x 0x80 else x.bankMode

/-- A watch of the hazard detector page (R253, R255). -/
def watchBad (s : State) (pages : List Nat) (p f w : Nat) : Bad :=
  let o := 0x100 + 12 * w
  let c := shadowF s p o 11 0
  let n := shadowF s p (o + 4) 28 16
  let on := shadowF s p o 31 31 == 1
  let first := shadowF s p (o + 4) 12 0
  firstBad
    [(on && decide (3840 ≤ c), E.coreIdInvalid, o),
     (on && !coreEnabled s (4096 * f + c), E.coreDisabled, o),
     (n == 0x1FFF, E.reservedValue, o + 4),
     (decide (6144 < first + n) || (on && !banksIn (aftBanks s pages (4096 * f + c)) 1 first n), E.hazardCfgInvalid, o + 4),
     (decide (384 ≤ shadowF s p (o + 8) 8 0), E.tallyInvalid, o + 8)]

/-- The hazard detector page (R251, R255). -/
def hazardBad (s : State) (pages : List Nat) (p f : Nat) : Bad :=
  (firstBad
    [(shadowF s p 0x40 31 31 == 1 && !hazardScopeOk s f, E.hazardScope, 0x40),
     (decide (shadowF s p 0x40 0 0 ≠ 0) || decide (shadowF s p 0x40 15 10 ≠ 0), E.hazardCfgInvalid, 0x40)]).orElse fun _ =>
  (List.range 64).findSome? (watchBad s pages p f)

/-- The VCORE page (R461). -/
def vcoreBad (s : State) (p : Nat) : Bad :=
  let i := shadowF s p 0x40 9 0
  firstBad [(i == 0x3FF, E.reservedValue, 0x40), (i == 0 || decide (720 < i), E.powerCfgInvalid, 0x40)]

/-- A converter's page (R478). -/
def telBad (s : State) (p n : Nat) : Bad :=
  let r := shadowF s p 0x40 20 16
  let i := shadowF s p 0x44 18 16
  firstBad
    [(r == 0x1F, E.reservedValue, 0x40), (decide (16 < r), E.countOverrun, 0x40),
     (shadowF s p 0x40 15 0 == 0xFFFF, E.reservedValue, 0x40),
     (decide (162 ≤ n) && shadowF s p 0x44 22 22 == 1, E.telemCfgInvalid, 0x44),
     (i == 7, E.reservedValue, 0x44), (decide (4 < i), E.countOverrun, 0x44)]

/-! ### Core access windows (R98) -/

/-- The first failure of a core: its code and the register index. -/
def coreBad (x : Core) : Bad :=
  let bm := shadowReg x 0x80
  match bankModeCheck bm E.reservedBit with
  | some c => some (c, 0x80)
  | none => (List.range 48).findSome? fun h =>
    let w0 := shadowReg x (2 * h)
    let w1 := shadowReg x (2 * h + 1)
    if handleResv0 w0 then some (E.reservedBit, 2 * h)
    else if handleResv1 w1 then some (E.reservedBit, 2 * h + 1)
    else (placedCheck bm w0 w1).map (·, 2 * h)

/-- A window's page: 0x800, the core's index and the register's (R98). -/
def windowBad (s : State) (f : Nat) : Bad :=
  (dirtyCores s f).findSome? fun c => (coreBad (coreAt s c)).map fun e => (e.1, 0x800 + 2 ^ 12 * coreIndex c + 2 ^ 24 * e.2)

/-! ### Stacks and links -/

/-- A region of a stack's table in the shadow (R224). -/
def regionBad (s : State) (p n r : Nat) : Bad :=
  let base := fun k => shadowF s p (0x40 + 16 * k) 16 0
  let size := fun k => shadowF s p (0x44 + 16 * k) 16 0
  let valid := fun k => shadowF s p (0x48 + 16 * k) 31 31 == 1
  if !valid r then none
  else firstBad
    [(size r == 0x1FFFF, E.reservedValue, 0x44 + 16 * r),
     (decide (98304 < base r + size r), E.sizeOverrun, 0x44 + 16 * r),
     ((List.range r).any (fun k => valid k && meets (base k) (size k) (base r) (size r)), E.stackRegionOverlap, 0x40 + 16 * r),
     ((mfind (stackAt s n).keys (shadowF s p (0x48 + 16 * r) 7 0)).isNone, E.xtsKeyAbsent, 0x48 + 16 * r)]

/-- A window of a link as it will stand after the commit (R385). -/
def winAft (s : State) (pages : List Nat) (w k hi lo : Nat) : Nat :=
  aftF s pages (linkPage (w / 32) 1) (0x40 + 24 * (w % 32) + 4 * k) hi lo
/-- IN_BASE of it. -/
def winAftBase (s : State) (pages : List Nat) (w : Nat) : Nat :=
  2 ^ 32 * winAft s pages w 2 17 0 + 4096 * winAft s pages w 1 31 12
/-- TARGET of it. -/
def winAftTarget (s : State) (pages : List Nat) (w : Nat) : Nat :=
  2 ^ 32 * winAft s pages w 5 17 0 + 4096 * winAft s pages w 4 31 12

/-- Whether a data window's target lies where R385 allows. -/
def dataTarget (a n : Nat) : Bool :=
  match addrKind a with
  | .core _ off => decide (off + n ≤ 0x30000)
  | .stack _ off => decide (off + n ≤ stackUsed)
  | _ => false

/-- A valid window of page +1 (R385). -/
def windowRuleBad (s : State) (pages : List Nat) (w : Nat) : Bad :=
  let o := 0x40 + 24 * (w % 32)
  let valid := fun k => winAft s pages k 0 31 31 == 1
  let len := fun k => 4096 * winAft s pages k 3 29 0
  let m := winAft s pages w 0 21 8
  let kind := winAft s pages w 0 28 28
  if !valid w then none
  else firstBad
    [(winAft s pages w 3 29 0 == 0x3FFFFFFF, E.reservedValue, o + 0x0C),
     (decide (2 ^ 50 < winAftBase s pages w + len w), E.sizeOverrun, o + 0x0C),
     ((List.range 256).any (fun k => k != w && valid k && winAft s pages k 0 21 8 == m && winAft s pages k 0 28 28 == kind
        && meets (winAftBase s pages k) (len k) (winAftBase s pages w) (len w)), E.chainCfgInvalid, o + 4),
     (m == 0x3FFF || m == aftF s pages pCl 0x40 13 0, E.chainCfgInvalid, o),
     (kind == 0 && !dataTarget (winAftTarget s pages w) (len w), E.chainCfgInvalid, o + 0x10),
     (kind == 1 && !(decide (regWindow ≤ winAftTarget s pages w)
        && decide (winAftTarget s pages w + len w ≤ regWindow + 0x4000000)), E.chainCfgInvalid, o + 0x10)]

/-- Whether a word of a route table holds a reserved entry, or names the table's own link (R387, R399). -/
def routeBad (t : Nat) (v : Word) : Bool :=
  (List.range 8).any fun j =>
    let e := bits v (4 * j + 3) (4 * j)
    (decide (9 ≤ e) && decide (e ≤ 14)) || e == t

/-- A commit that makes the other bank of table t live; table 8 is the local one (R399, R400). -/
def bankBad (s : State) (p off t : Nat) : Bad :=
  let b := shadowF s p off 0 0
  if b = routeBank s t then none
  else if s.routes.any fun e => e.1 / 2048 == routeKey t b 0 / 2048 && routeBad (if t < 8 then t else 16) e.2 then
    some (E.chainCfgInvalid, off)
  else none

/-- The engine-wide chain registers (R394, R400). -/
def chainBad (s : State) : Bad :=
  let m := shadowF s pCl 0x40 13 0
  let j := shadowF s pCl 0x40 31 31 == 1
  let us := shadowF s pCl 0x44 15 0
  (firstBad
    [(j && (List.range 8).any (fun n => let x := linkAt s n; x.st == .up && x.peerJoined && x.peerModule == m), E.chainIdConflict, 0x40),
     (j && joined s && m != ownModule s, E.chainCfgInvalid, 0x40),
     (m == 0x3FFF, E.reservedValue, 0x40),
     (us == 0xFFFF, E.reservedValue, 0x44), (us == 0, E.chainCfgInvalid, 0x44)]).orElse fun _ => bankBad s pCl 0x48 8

/-- A page of a link. -/
def linkBad (s : State) (pages : List Nat) (p n k : Nat) : Bad :=
  match k with
  | 1 => (List.range 32).findSome? fun i => windowRuleBad s pages (32 * n + i)
  | 2 => bankBad s p 0x40 n
  | 3 => if n = 0 then chainBad s else none
  | _ => none

/-! ### Serving engine -/

/-- Page 0x0010 (R310); ENABLE is refused in service mode (R508). -/
def srvBad (s : State) (p : Nat) : Bad :=
  let on := shadowF s p 0x40 31 31 == 1
  let n := shadowF s p 0x40 12 0
  let both := on && srvOn s
  (firstBad
    [(on && (s.boot.serviceMode || shadowF s p 0x64 23 0 == 0), E.srvCfgInvalid, 0x40),
     (n == 0x1FFF, E.reservedValue, 0x40), (decide (4096 < n), E.countOverrun, 0x40)]).orElse fun _ =>
  (((List.range 8).findSome? fun k =>
    if both && decide (shadow s p (0x44 + 4 * k) ≠ live s p (0x44 + 4 * k)) then some (E.srvCfgInvalid, 0x44 + 4 * k) else none).orElse fun _ =>
  firstBad [(shadowF s p 0x64 23 0 == 0xFFFFFF, E.reservedValue, 0x64)])

/-- A tenant's entry at offset o (R298). -/
def tenantBad (s : State) (p o : Nat) : Bad :=
  let on := shadowF s p o 31 31 == 1
  let b := shadowF s p o 23 0
  let w := shadowF s p (o + 4) 15 0
  firstBad
    [(b == 0xFFFFFF, E.reservedValue, o),
     (on && decide (b * 16 < Nat.max 16 (shadowF s p (o + 4) 31 24)), E.srvCfgInvalid, o),
     (w == 0xFFFF, E.reservedValue, o + 4), (on && w == 0, E.srvCfgInvalid, o + 4),
     (on && decide (w ≤ shadowF s p (o + 8) 15 0), E.srvCfgInvalid, o + 8)]

/-- BANK_MODE of a core after the commit. -/
def bankAft (s : State) (pages : List Nat) (c : Nat) : DWord :=
  if pages.contains (pCaw (fieldOfCore c)) then shadowReg (coreAt s c) 0x80 else (coreAt s c).bankMode

/-- Whether a range of MiB lies in one WEIGHT 0 region of a placement (R314, R334); the length is in bytes. -/
def inPlainRegion (p : Placed) (stack mib len : Nat) : Bool :=
  p.img.regions.any fun r => r.stack == stack && !r.weight && decide (r.base ≤ mib)
    && decide (2 ^ 20 * mib + len ≤ 2 ^ 20 * (r.base + r.size))

/-- An I/O map of a model at offset o (R314). DEDUCED, log 23. -/
def mioBad (s : State) (pages : List Nat) (p m o : Nat) : Bad :=
  let f := fun k hi lo => shadowF s p (o + 4 * k) hi lo
  let valid := f 0 31 31 == 1
  let was := liveF s p o 31 31 == 1
  let used := !(streamsOf s m).isEmpty && (valid || was)
  let moved := fun k => used && decide (shadow s p (o + 4 * k) ≠ live s p (o + 4 * k))
  let pl := (modelAt s m).place
  let core := fun k hi lo hi' lo' => pl.bind fun q => boundCore q (f k hi lo) (f k hi' lo')
  let ring := match core 0 30 24 23 12 with
    | some c => bits (bankAft s pages c) (2 * (f 0 5 0 / 4) + 1) (2 * (f 0 5 0 / 4)) == 1
    | none => false
  let held := fun (t : Nat) => match pl with
    | some q => q.img.tallies.any (·.1 == t)
    | none => false
  let outOk := match pl with
    | some q => decide (30720 ≤ f 2 29 15) && decide (f 2 29 15 ≤ 31743) && q.img.tallies.any (fun e => e.1 == f 2 29 15 && e.2 == 1)
    | none => false
  let stage := match pl with
    | some q => inPlainRegion q (f 3 28 24) (f 3 16 0) (2 ^ 20)
    | none => false
  firstBad
    [(valid && (modelState s m != 1 && modelState s m != 2), E.srvCfgInvalid, o),
     (valid && (core 0 30 24 23 12).isNone, E.srvCfgInvalid, o),
     (valid && (decide (48 ≤ f 0 5 0) || !ring), E.srvCfgInvalid, o),
     (moved 0, E.srvCfgInvalid, o),
     (valid && ((core 1 24 18 17 6).isNone || decide (11 < f 1 3 0)), E.srvCfgInvalid, o + 4),
     (moved 1, E.srvCfgInvalid, o + 4),
     (valid && (!outOk || !held (f 2 14 0)), E.srvCfgInvalid, o + 8),
     (moved 2, E.srvCfgInvalid, o + 8),
     (valid && !stage, E.srvCfgInvalid, o + 12),
     (moved 3, E.srvCfgInvalid, o + 12),
     (f 4 19 0 == 0xFFFFF, E.reservedValue, o + 16),
     (valid && f 4 19 0 == 0, E.srvCfgInvalid, o + 16),
     (moved 4, E.srvCfgInvalid, o + 16)]

/-- MIO VALID of a model after the commit. -/
def mioAft (s : State) (pages : List Nat) (m : Nat) : Bool := aftF s pages (0x16 + m / 32) (0x40 + 20 * (m % 32)) 31 31 == 1

/-- A batch channel (R314). -/
def channelBad (s : State) (pages : List Nat) (p c : Nat) : Bad :=
  let o := 0x40 + 4 * c
  let on := shadowF s p o 31 31 == 1
  let n := shadowF s p o 13 8
  firstBad
    [(on && !mioAft s pages (shadowF s p o 21 16), E.srvCfgInvalid, o),
     (n == 0x3F, E.reservedValue, o), (decide (32 < n), E.countOverrun, o), (on && n == 0, E.srvCfgInvalid, o),
     (shadowF s p o 7 0 == 0xFF, E.reservedValue, o)]

/-- The KV configuration of a model (R334). DEDUCED, log 23. -/
def kvBad (s : State) (p m : Nat) : Bad :=
  let o := 0x40 + 12 * m
  let n := shadowF s p o 27 13
  let chunk := shadowF s p o 12 0
  let used := !(streamsOf s m).isEmpty
  let inside := match (modelAt s m).place with
    | some q => inPlainRegion q (shadowF s p (o + 8) 28 24) (shadowF s p (o + 8) 16 0) (16384 * n)
    | none => false
  firstBad
    [(n == 0x7FFF, E.reservedValue, o), (decide (16384 < n), E.lenOverrun, o),
     (chunk == 0x1FFF, E.reservedValue, o), (decide (4096 < chunk), E.countOverrun, o),
     (decide (0 < n) && chunk == 0, E.srvCfgInvalid, o),
     (used && (shadowF s p o 30 30 != liveF s p o 30 30 || n != liveF s p o 27 13), E.srvCfgInvalid, o),
     (shadowF s p (o + 4) 31 16 == 0xFFFF || shadowF s p (o + 4) 15 0 == 0xFFFF, E.reservedValue, o + 4),
     (used && decide (shadow s p (o + 4) ≠ live s p (o + 4)), E.srvCfgInvalid, o + 4),
     (decide (0 < n) && !inside, E.srvCfgInvalid, o + 8),
     (used && decide (shadow s p (o + 8) ≠ live s p (o + 8)), E.srvCfgInvalid, o + 8)]

/-- Page 0x001A (R334). -/
def kvPageBad (s : State) (p : Nat) : Bad :=
  ((List.range 64).findSome? (kvBad s p)).orElse fun _ =>
    let n := shadowF s p 0x340 15 0
    firstBad [(n == 0xFFFF, E.reservedValue, 0x340), (decide (16383 < n), E.countOverrun, 0x340)]

/-- Whether model d may draft for model m after the commit (R336). -/
def draftOk (s : State) (pages : List Nat) (m d : Nat) : Bool :=
  let st := fun k hi lo => liveF s pWl (0x200 + 4 * k) hi lo
  modelReady s d && st d 7 7 == 1 && st d 5 0 == m && st d 15 8 == st m 15 8 && mioAft s pages d
    && decide (aftF s pages pKv (0x40 + 12 * m) 27 13 ≤ aftF s pages pKv (0x40 + 12 * d) 27 13)

/-- The speculation entry of a model (R351). -/
def specBad (s : State) (pages : List Nat) (p m : Nat) : Bad :=
  let o := 0x40 + 8 * m
  let on := shadowF s p o 31 31 == 1
  let n := shadowF s p o 22 16
  let d := shadowF s p o 12 8
  let used := s.serving.streams.any fun e => e.2.st != .free && e.2.spec && e.2.model == m
  firstBad
    [(n == 0x7F, E.reservedValue, o), (decide (64 < n), E.countOverrun, o),
     (d == 0x1F, E.reservedValue, o), (decide (16 < d), E.countOverrun, o),
     (shadowF s p o 7 0 == 0xFF, E.reservedValue, o),
     (on && (n == 0 || d == 0 || !draftOk s pages m (shadowF s p o 29 24)), E.srvCfgInvalid, o),
     (used && (shadowF s p o 31 31 != liveF s p o 31 31 || shadowF s p o 29 24 != liveF s p o 29 24), E.srvCfgInvalid, o),
     (shadowF s p (o + 4) 7 0 == 0xFF, E.reservedValue, o + 4)]

/-- A serving engine page. DEDUCED, log 23. -/
def servingBad (s : State) (pages : List Nat) (p k : Nat) : Bad :=
  match k with
  | 0 => srvBad s p
  | 2 | 3 | 4 | 5 => (List.range 64).findSome? fun i => tenantBad s p (0x40 + 12 * i)
  | 6 | 7 => (List.range 32).findSome? fun i => mioBad s pages p (32 * (k - 6) + i) (0x40 + 20 * i)
  | 8 => switchCheck s
  | 9 => (List.range 4).findSome? (channelBad s pages p)
  | 10 => kvPageBad s p
  | 11 => (List.range 64).findSome? (specBad s pages p)
  | _ => none

/-! ### Host interface, power, service port -/

/-- A segment of the host aperture (R359). -/
def segmentBad (s : State) (p n : Nat) : Bad :=
  let o := 0x40 + 16 * n
  let base := 2 ^ 32 * shadowF s p (o + 4) 19 0 + 2 ^ 20 * shadowF s p o 31 20
  let size := shadowF s p (o + 8) 19 0
  let top := if shadowF s p (o + 8) 30 30 = 0 then 2 ^ 52 else 2 ^ 28
  if shadowF s p (o + 8) 31 31 = 0 then none
  else firstBad [(size == 0xFFFFF, E.reservedValue, o + 8), (decide (top < base + 2 ^ 20 * size), E.sizeOverrun, o + 8)]

/-- Page 0x0038 (R463). -/
def pmBad (s : State) (p : Nat) : Bad :=
  let f := fun off hi lo => shadowF s p off hi lo
  firstBad
    [(f 0x40 8 0 == 0x1FF, E.reservedValue, 0x40), (decide (f 0x40 8 0 < 50) || decide (330 < f 0x40 8 0), E.powerCfgInvalid, 0x40),
     (f 0x44 22 16 == 0x7F, E.reservedValue, 0x44), (f 0x44 22 16 == 0 || decide (80 < f 0x44 22 16), E.powerCfgInvalid, 0x44),
     (f 0x44 15 0 == 0xFFFF, E.reservedValue, 0x44), (f 0x44 15 0 == 0, E.powerCfgInvalid, 0x44),
     (f 0x48 25 16 == 0x3FF, E.reservedValue, 0x48), (decide (720 < f 0x48 25 16), E.powerCfgInvalid, 0x48),
     (f 0x48 15 0 == 0xFFFF, E.reservedValue, 0x48), (f 0x48 15 0 == 0, E.powerCfgInvalid, 0x48),
     (f 0x4C 23 16 == 0xFF || f 0x4C 15 8 == 0xFF || f 0x4C 7 0 == 0xFF, E.reservedValue, 0x4C),
     (decide (125 ≤ f 0x4C 23 16) || decide (f 0x4C 23 16 ≤ f 0x4C 15 8) || decide (f 0x4C 15 8 ≤ f 0x4C 7 0)
        || decide (f 0x4C 7 0 < 60), E.powerCfgInvalid, 0x4C)]

/-- Whether a field holds a core of a placement, or a valid region of a stack of its edge (R464). -/
def fieldHeld (s : State) (f : Nat) : Bool :=
  (placements s).any (fun e => (heldFields e.2).contains f)
    || (List.range 24).any fun n => stackField n == f && !(liveRegions s n).isEmpty

/-- A field's target (R464). -/
def targetBad (s : State) (p f : Nat) : Bad :=
  let o := 0x40 + 4 * (f / 16)
  let t := shadowF s p o (2 * (f % 16) + 1) (2 * (f % 16))
  firstBad
    [(t == 3 || (t != 0 && (fieldOf s f).brkLocked), E.powerCfgInvalid, o), (t == 0 && fieldHeld s f, E.powerFieldBusy, o)]

/-- SP_CTRL (R522). -/
def spBad (s : State) (p : Nat) : Bad :=
  let n := shadowF s p 0x50 7 0
  firstBad [(n == 0xFF, E.reservedValue, 0x50), (decide (128 < n), E.lenOverrun, 0x50)]

/-- What a page rejects beside reserved bits. -/
def rangeBad (s : State) (pages : List Nat) (p : Nat) : Bad :=
  match pageKind p with
  | .tally _ 0 | .tally _ 1 => tallyBad s p
  | .fabric _ => fabricBad s p
  | .hq _ => heavyBad s p
  | .hd f => hazardBad s pages p f
  | .vcore _ => vcoreBad s p
  | .tel n => telBad s p n
  | .stack n 0 => (List.range 32).findSome? (regionBad s p n)
  | .link n k => linkBad s pages p n k
  | .serving k => servingBad s pages p k
  | .host 0 => (List.range 16).findSome? (segmentBad s p)
  | .pm 0 => pmBad s p
  | .pm 1 => (List.range 80).findSome? (targetBad s p)
  | .sp => spBad s p
  | _ => none

/-- Why a page rejects: of a reserved bit and another failure, the one at the lower offset. -/
def pageBad (s : State) (g : Group) (p : Nat) : Bad :=
  match pageKind p with
  | .beat => beatValidate g.isNow s
  | .caw f => windowBad s f
  | _ => match resvBad s p, rangeBad s g.pages p with
    | some o, some (c, off) => if o ≤ off then some (E.reservedBit, o) else some (c, off)
    | some o, none => some (E.reservedBit, o)
    | none, r => r

/-- Validation of a group's pages ends (R57 step 3, R61): every page that rejects records why, and the group ends REJECTED with
the lowest; or the group is ARMED, an immediate one IRREVOCABLE while its pages apply. A page of an FCU that restarts is lost to
the group (R516). DEDUCED, log 23. -/
def validationDone (g : Nat) (s : State) : State :=
  let x := grp s g
  if x.st ≠ .validating then s
  else
    match x.pages.filterMap fun p => (pageBad s x p).map (p, ·) with
    | [] => match x.pages.find? (pageRestarts s) with
      | some p => endGroup g .pageLost p E.pageLost s
      | none => setGrp g { x with st := if x.isNow then .irrevocable else .armed } s
    | e :: l =>
      let t := (e :: l).foldl (fun s q => recordErr q.1 q.2.1 (BitVec.ofNat 32 q.2.2) s) s
      let t := endGroup g .rejected e.1 e.2.1 t
      setGrp g { grp t g with rejected := (e :: l).map (·.1) } t

/-- TXN_VALIDATION_DONE (R57) -/
def execTxnValidationDone (group : Fin 64) (s : State) : Result := .next (validationDone group.val s)

end Sys2Proof.Machine
end

