-- ==== Sys2Proof/Machine/Commit.lean ====
section
/-! DEFINITION. Commits: the pages' shadows become live, and what each page then does (R57 step 6, R61, R69, R98 and the rules of
the pages' own chapters). -/

namespace Sys2Proof.Machine

open Sys2Proof

/-! ### Core access windows (R69, R98) -/

/-- Banks whose mode changes. -/
def banksChanged (old new : DWord) : List Nat :=
  (List.range 12).filter fun b => bits old (2 * b + 1) (2 * b) != bits new (2 * b + 1) (2 * b)

/-- A core takes a new BANK_MODE (R69): lines of banks that leave cache mode are lost, dirty ones counted; banks that enter
weights or activations mode begin to be cleared, their tags empty; an unchanged bank keeps its lines. -/
def bankCommit (new : DWord) (x : Core) : Core :=
  let old := x.bankMode
  let ch := banksChanged old new
  let lost := x.cache.filter fun e => e.2.dirty && ch.contains e.2.bank
  let clear := ch.filter fun b => bits new (2 * b + 1) (2 * b) < 2
  { x with
    bankMode := new
    cache := x.cache.filter fun e => !ch.contains e.2.bank
    dirtyDropped := BitVec.ofNat 16 (satAdd 0xFFFF x.dirtyDropped.toNat lost.length)
    full := x.full.filter fun k => !ch.contains (bankOf k)
    clearing := clear.foldl (fun l b => insertAsc b l) (x.clearing.filter fun b => !ch.contains b) }

/-- A dirty core copies its shadows to live (R98). DEDUCED, log 23. -/
def coreCommit (x : Core) : Core :=
  let y := x.shadowRegs.foldl (fun (y : Core) e => if e.1 < 0x80 then setHandleReg e.1 e.2 y else y) x
  let z := match mfind x.shadowRegs 0x80 with
    | some v => bankCommit v y
    | none => y
  { z with shadowRegs := [], dirty := false }

/-- Banks that a core's commit clears lose their contents. -/
def clearBanks (c : Nat) (old new : DWord) (s : State) : State :=
  let l := (banksChanged old new).filter fun b => bits new (2 * b + 1) (2 * b) < 2
  if l.isEmpty then s
  else clearMem (fun a => a / 0x40000 == c && l.contains (a % 0x40000 / 0x4000)) s

/-- Every dirty core of a field commits. -/
def windowCommit (f : Nat) (s : State) : State :=
  (dirtyCores s f).foldl (fun s c =>
    let x := coreAt s c
    let y := coreCommit x
    setCore c y (clearBanks c x.bankMode y.bankMode s)) s

/-! ### What pages do at their commit -/

/-- What the unit keeps of the candidate that an SRC value selects. -/
def srcCand (s : State) : CandState := if beatSrc s = 1 then s.beat.ext else s.beat.links.getD (beatSrc s - 8) .reset

/-- The beat unit (R30, R37, R42): a new source is noted, and its latest arrival is the one from which the next tick is placed. The
measured period stays that of the last 16 intervals, which the new source's intervals replace in turn. DESIGN CHOICE, log 21. -/
def beatHook (o s : State) : State :=
  if beatSrc o = beatSrc s then s
  else
    let x := srcCand s
    setLive pBeat 0x804 (withBits (live s pBeat 0x804) 2 2 1)
      { s with beat := { s.beat with
        activeSrc := BitVec.ofNat 4 (beatSrc s)
        prevArrival := if x.seen then some x.last else none
        edgeSince := decide (compDelay s ≠ 0) && x.seen && x.number == s.beat.now } }

/-- The hazard detector: recording starts anew when it is enabled (R254). -/
def hazardHook (f : Nat) (o s : State) : State := if !hdOn o f && hdOn s f then hdClear f s else s

/-- TALLY_TARGET: a tally whose target changes has COUNT 0 (R137). -/
def tallyHook (f k : Nat) (o s : State) : State :=
  (List.range 192).foldl (fun s i =>
    let t := 384 * f + 192 * k + i
    if tallyTarget o t = tallyTarget s t then s else setTally t { tallyAt s t with count := 0 } s) s

/-- Tenants of a page: a changed entry starts a window (R297). -/
def tenantHook (k : Nat) (o s : State) : State :=
  (List.range 64).foldl (fun s i =>
    let t := 64 * (k - 2) + i
    let p := 0x10 + k
    if (List.range 3).all fun j => live o p (0x40 + 12 * i + 4 * j) == live s p (0x40 + 12 * i + 4 * j) then s
    else setBalance t (fullBalance s t) s) s

/-- I/O maps of a page: marker and descriptor numbers of the models whose MIO the page names restart at 0 (R294). DEDUCED, log 23. -/
def mioHook (k : Nat) (s : State) : State :=
  (List.range 32).foldl (fun s i =>
    let m := 32 * (k - 6) + i
    if mioF s m 0 31 31 = 1 then renumber m s else s) s

/-- Streams of a channel leave their gather set. -/
def ungather (c : Nat) (s : State) : State :=
  (s.serving.streams.filter fun e => e.2.batch && e.2.channel == c && e.2.joined.isSome).foldl (fun s e =>
    updStream e.1 (fun x => { x with joined := none }) s) s

/-- Batch channels: one that is cleared, or serves another model, returns its members to single issue (R299). -/
def channelHook (o s : State) : State :=
  (List.range 4).foldl (fun s c =>
    if bcF o c 31 31 = 1 ∧ (bcF s c 31 31 = 0 ∨ bcF o c 21 16 ≠ bcF s c 21 16) then ungather c s else s) s

/-- Page 0x0018: epoch switches (R270). -/
def epochHook (o s : State) : State :=
  (List.range 64).foldl (fun s m => if activeEp o m = activeEp s m then s else switchModel m (activeEp s m) s) s

/-- Page 0x001A: streams of a model whose PX is cleared stop being eligible (R331). -/
def kvHook (o s : State) : State :=
  (List.range 64).foldl (fun s m =>
    if pxOn o m && !pxOn s m then
      s.serving.streams.foldl (fun s e =>
        let main := e.2.model == m
        let draft := e.2.spec && draftOf s e.2.model == m
        if main || draft then updStream e.1 (fun x =>
          let x := if main then { x with kv := { x.kv with eligible := false } } else x
          if draft then { x with dkv := { x.dkv with eligible := false } } else x) s
        else s) s
    else s) s

/-- LINK_CTRL.ENABLE (R374). -/
def enableHook (n : Nat) (o s : State) : State :=
  if !linkEnabled o n && linkEnabled s n then tryTrain n s
  else if linkEnabled o n && !linkEnabled s n then linkGone n s
  else s

/-- CL_MODULE: a HELLO leaves on every link that is UP (R374), and an engine that leaves waits for what it has accepted
(R395). DEDUCED, log 23. -/
def moduleHook (o s : State) : State :=
  let s := if joined o && !joined s then { s with leaving := !s.clIns.isEmpty } else s
  let s := if !joined o && joined s then { s with leaving := false } else s
  (List.range 8).foldl (fun s n => if linkUp s n then sendHello n s else s) s

/-- Flush READs that have not been answered are issued again (R391). DEDUCED, log 23. -/
def reflush (s : State) : State :=
  s.clIns.foldl (fun s q =>
    if q.hdr.op ≠ 1 ∨ q.flush.isEmpty then s
    else
      let ps := piecesOf 512 (2 ^ 50) 0 q.hdr.len
      ((lastOfRouter (ps.map fun r => q.target + r.1)).filter fun a => q.flush.contains (addrRouter a)).foldl
        (fun s a => sendFlush q.link q.id a q.hdr s) s) s

/-- What a page does once its shadow is live; `o` is the state before the commit. -/
def pageHook (now : Nat) (o : State) (p : Nat) (s : State) : State :=
  match pageKind p with
  | .beat => beatHook o s
  | .hd f => hazardHook f o s
  | .tally f 0 => tallyHook f 0 o s
  | .tally f 1 => tallyHook f 1 o s
  | .hq f => grantAll f s
  | .tel n => telCommit n now s
  | .link n 0 => enableHook n o s
  | .link 0 3 => moduleHook o s
  | .serving 8 => epochHook o s
  | .serving 9 => channelHook o s
  | .serving 10 => kvHook o s
  | .serving k => if 2 ≤ k ∧ k ≤ 5 then tenantHook k o s else if k = 6 ∨ k = 7 then mioHook k s else s
  | _ => s

/-! ### Commits -/

/-- A page's shadows become live. -/
def copyPage (p : Nat) (s : State) : State :=
  match pageKind p with
  | .caw f => windowCommit f (commitPage p s)
  | _ => commitPage p s

/-- Whether a running plan whose group commits retires a router. -/
def planRetires (s : State) (g : Nat) : Bool :=
  match s.recov.plan with
  | some p => p.phase == .armed && p.group == g && !p.committed && p.entry.retire.any (·.2.2)
  | none => false

/-- A group is DONE with COMMITTED; a LOAD or a plan that waited for it goes on. -/
def groupDone (s : State) (g : Nat) : State :=
  planCommitted g (loadCommitted g (setGrp g { grp s g with st := .done, res := .committed } s))

/-- Groups commit together (R57 step 6, R60, R61). DEDUCED, log 23. -/
def commitGroups (now : Nat) (gs : List Nat) (s : State) : State :=
  let ps := gs.flatMap fun g => (grp s g).pages
  let routing := ps.any (fun p => match pageKind p with
    | .fabric _ => true
    | _ => false) || gs.any (planRetires s)
  let t := ps.foldl (fun s p => copyPage p s) s
  let t := ps.foldl (fun s' p => pageHook now s p s') t
  let t := gs.foldl groupDone t
  if routing then reflush t else t

/-- TXN_NOW_APPLY_DONE (R61): the last page of an immediate group has applied. DEDUCED, log 23. -/
def nowApplyDone (now g : Nat) (s : State) : State :=
  let x := grp s g
  if x.st = .irrevocable ∧ x.isNow then commitGroups now [g] s else s

/-- TXN_NOW_APPLY_DONE (R61) -/
def execTxnNowApplyDone (now : Nat) (group : Fin 64) (s : State) : Result := .next (nowApplyDone now group.val s)

end Sys2Proof.Machine
end

