-- ==== Sys2Proof/Machine/Memory.lean ====
section
/-! DEFINITION. Memory instructions (R70, R71, R115). -/

namespace Sys2Proof.Machine

open Sys2Proof

/-- Bytes that SIZE selects. -/
def memSize (k : Iss) : Nat := if fw k 55 54 = 0 then 8 else if fw k 55 54 = 1 then 32 else 64

/-- The effective offset sA + IMM, which does not wrap. DESIGN CHOICE, log 24. -/
def memOff (k : Iss) : Nat := fn k 47 43 + fw k 37 20

/-- The use of a load or store through its handle. -/
def memUse (k : Iss) (len : Nat) (write : Bool) (need : Option Bool) (change : Bool) : Use :=
  ⟨fh k 53 48, memOff k, len, write, need, change⟩

/-- The checks of a memory access, in the order of R108: handle, tag mode, alignment, extent (R70, R71, R82, R115);
an IMM of all ones is not reserved. DESIGN CHOICE, log 24. -/
def memCheck (k : Iss) (u : Use) (rd wr needTag : Bool) (len : Option DWord) : Option Code :=
  match handleChk u.h rd wr [0, 1, 2] needTag with
  | some c => some c
  | none => firstFail [
      (tagAlign u, E.alignFault),
      (!u.h.tagged && len.isNone && u.off % 8 != 0, E.alignFault),
      (allOnes (fs k 47 43), E.reservedValue),
      (len.any allOnes, E.reservedValue),
      (overrun u, E.lenOverrun)]

/-- The register that a load writes (R115). -/
def loadReg (k : Iss) (l : List Byte) (th : Thread) : Thread :=
  if fw k 55 54 = 0 then setS (fw k 42 38) (BitVec.ofNat 64 (leNat l)) th
  else setV (fw k 41 38) (BitVec.ofNat 512 (leNat l)) th

/-- The bytes that a store takes from its register (R115). -/
def storeBytes (k : Iss) : List Byte :=
  if fw k 55 54 = 0 then leBytes 8 (fn k 42 38) else leBytes (memSize k) (regV k.th (fw k 41 38)).toNat

/-- LDF and LDK: wait for full slots through a tagged handle, load, and for LDF set them empty. -/
def loadBody (ldf : Bool) (k : Iss) (s : State) : IRes :=
  let u := memUse k (memSize k) false (some true) ldf
  match memCheck k u true false ldf none with
  | some c => .fault c s
  | none =>
    match gate k.c [u] s with
    | some w => .block w.1 w.2
    | none =>
      withReads k [u] s fun s =>
        let l := useBytes k.c u s
        let s := updThread k (loadReg k l) s
        .done (if ldf then useTag k.c u false s else s) (pcNext k)

/-- What the reads of a store's partly covered codewords find (R212, R213): nothing behind the cache. -/
def storeCheck (k : Iss) (u : Use) (s : State) : State × Option Code :=
  if u.h.cls = 2 then (s, none) else partialCheck k.c k.data (u.h.base + u.off) u.len s

/-- STE and STF: STE waits for empty slots through a tagged handle; both set tagged slots full. -/
def storeBody (ste : Bool) (k : Iss) (s : State) : IRes :=
  let u := memUse k (memSize k) true (if ste then some false else none) true
  match memCheck k u false true ste none with
  | some c => .fault c s
  | none =>
    match gate k.c [u] s with
    | some w => .block w.1 w.2
    | none =>
      let q := storeCheck k u s
      match q.2 with
      | some code => .fault code q.1
      | none => .done (useTag k.c u true (useStore k.c u (storeBytes k) q.1)) (pcNext k)

/-- EMPT: waits for full slots and sets them all empty; no data moves (R115). -/
def emptBody (k : Iss) (s : State) : IRes :=
  let len := fs k 42 38
  let u := memUse k len.toNat false (some true) true
  match memCheck k u true false true (some len) with
  | some c => .fault c s
  | none =>
    match gate k.c [u] s with
    | some w => .block w.1 w.2
    | none => .done (useTag k.c u false s) (pcNext k)

/-- LDF (R70, R115) -/
def execLdf (i : Issue) (s : State) : Result := .next (issue 0x40 i (loadBody true) s)
/-- LDK (R70, R115) -/
def execLdk (i : Issue) (s : State) : Result := .next (issue 0x41 i (loadBody false) s)
/-- STE (R70, R115) -/
def execSte (i : Issue) (s : State) : Result := .next (issue 0x42 i (storeBody true) s)
/-- STF (R70, R115) -/
def execStf (i : Issue) (s : State) : Result := .next (issue 0x43 i (storeBody false) s)
/-- EMPT (R70, R115) -/
def execEmpt (i : Issue) (s : State) : Result := .next (issue 0x44 i emptBody s)

end Sys2Proof.Machine
end

