-- ==== Sys2Proof/Machine/ServicePort.lean ====
section
/-! DEFINITION. The service port: its datagrams, staging sessions and record submissions (R503, R514, R516 to R522). -/

namespace Sys2Proof.Machine

open Sys2Proof

/-- The page of the service port. -/
def pSp : Nat := 0x30

/-- Changes what the service port holds. -/
def updSp (f : ServicePort → ServicePort) (s : State) : State := { s with sp := f s.sp }

/-! ### Requests (R517, R520) -/

/-- Whether the service port answers: its link is up, and the module controller runs, from the end of stage 2 (R508). -/
def spAnswers (s : State) : Bool := s.sp.up && decide (3 ≤ s.boot.stage) && !mcStops s

/-- Whether a request names the open session. -/
def inSession (d : Dgram) (s : State) : Bool := decide (d.session ≠ 0) && s.sp.session == some d.session.toNat

/-- The response kept for a repeated request: among the requester's last 256, or the session's (R520). -/
def spCached (d : Dgram) (s : State) : Option SpResp :=
  let l := mget [] s.sp.cache d.from_ ++ (if inSession d s then s.sp.sessCache else [])
  l.find? fun r => r.seq == d.seq.toNat

/-- A repeated request is answered from the cache, and counted. DESIGN CHOICE, log 58. -/
def spReplay (d : Dgram) (r : SpResp) (s : State) : State :=
  emit (.datagram d.from_ r.op r.status r.seq r.data) (countUp pSp 0x808 15 0 1 s)

/-- Whether a request with this SEQ has not been answered yet. -/
def spOpen (d : Dgram) (s : State) : Bool := s.sp.waiting.any fun w => w.1 == d.from_ && w.2.1 == d.seq.toNat

/-- Requests of a requester that have not been answered. -/
def spOutstanding (d : Dgram) (s : State) : Nat := (s.sp.waiting.filter fun w => w.1 == d.from_).length

/-- A response to a request. DESIGN CHOICE, log 58. -/
def spAnswer (d : Dgram) (op : Nat) (c : Code) (l : List Byte) (s : State) : State := spRespond d.from_ op c d.seq.toNat l s

/-- A request is answered from the cache, refused, or accepted and carried out (R520). DESIGN CHOICE, log 58. -/
def spRequest (d : Dgram) (op : Nat) (act : State → State) (s : State) : State :=
  if !spAnswers s then s
  else match spCached d s with
    | some r => spReplay d r s
    | none =>
      if spOpen d s then s
      else if 64 ≤ spOutstanding d s then spAnswer d op E.updProtocol [] s
      else act (updSp (fun x => { x with waiting := x.waiting ++ [(d.from_, d.seq.toNat, d.session.toNat)] })
        (countUp pSp 0x800 31 0 1 s))

/-- A request that is answered at once with a code and data. -/
def spNow (d : Dgram) (op : Nat) (f : State → (Code × List Byte) × State) (s : State) : State :=
  spRequest d op (fun s => let r := f s; spAnswer d op r.1.1 r.1.2 r.2) s

/-- A request that carries no data back. -/
def spCode (d : Dgram) (op : Nat) (f : State → Code × State) (s : State) : State :=
  spNow d op (fun s => let r := f s; ((r.1, []), r.2)) s

/-! ### Staging (R519) -/

/-- The inactive bank of a component. -/
def idleBank (x : Component) : Nat := 1 - x.runBank

/-- The inactive bank of a component is emptied. -/
def emptyBank (c : Nat) (s : State) : State := updComp c (fun x => setBankImg (idleBank x) [] { x with inactive := 0 }) s

/-- The staging in progress ends without a result: its bank is EMPTY. -/
def dropStaging (s : State) : State :=
  match s.sp.staging with
  | some g => updSp (fun x => { x with staging := none }) (if g.target < 5 then emptyBank g.target s else s)
  | none => s

/-- Bytes of a bank, or of the record buffer (R501, R519). -/
def stageRoom (t : Nat) : Nat := if t = 8 then 65536 else 2 ^ 20 * [2, 16, 4, 2, 2].getD t 0

/-- STAGE_BEGIN (R519 step 1); a LENGTH of 0 stages nothing (R4). DESIGN CHOICE, log 58. -/
def openStaging (d : Dgram) (t len : Nat) (s : State) : Code × State :=
  if !inSession d s then (E.updProtocol, s)
  else if !(decide (t < 5) || t == 8) then (E.updProtocol, s)
  else if len = 0xFFFFFFFF then (E.reservedValue, s)
  else if stageRoom t < len then (E.sizeOverrun, s)
  else if t < 5 ∧ (compAt s t).inactive = 3 then (E.updProtocol, s)
  else if len = 0 then (0, s)
  else
    let s := dropStaging s
    let s := if t < 5 then updComp t (fun x => { x with inactive := 1 }) (emptyBank t s) else s
    (0, updSp (fun x => { x with staging := some ⟨t, len, []⟩ }) s)

/-- STAGE_DATA (R519 step 2); `ok` says that the flash write was confirmed. -/
def putStaging (d : Dgram) (off : Nat) (l : List Byte) (ok : Bool) (s : State) : Code × State :=
  match s.sp.staging with
  | none => (E.updProtocol, s)
  | some g =>
    if !inSession d s ∨ off % 1024 ≠ 0 ∨ 1024 < l.length then (E.updProtocol, s)
    else if g.len < off + l.length then (E.lenOverrun, s)
    else if g.target < 5 ∧ !ok then (E.flashWriteFail, flashFails (dropStaging s))
    else
      let k := off / 1024
      let old := mget [] g.chunks k
      (0, updSp (fun x => { x with staging := some { g with chunks := mput g.chunks k (l ++ old.drop l.length) } }) s)

/-- The bytes of a staging, where none is missing. -/
def stagedBytes (g : Staging) : Option (List Byte) :=
  let n := (g.len + 1023) / 1024
  if (List.range n).all fun k => (mget [] g.chunks k).length == Nat.min 1024 (g.len - 1024 * k) then
    some ((List.range n).flatMap fun k => mget [] g.chunks k)
  else none

/-! ### Record submissions (R503, R504, R507) -/

/-- Whether every value of CONFIG_BOOT lies in its range (R507). -/
def bootRanges (c : BootCfg) : Bool :=
  decide (c.moduleId ≤ 16382) && (decide (c.beatSrc ≤ 1) || (decide (8 ≤ c.beatSrc) && decide (c.beatSrc ≤ 15)))
    && decide (1000 ≤ c.periodNs) && decide (c.periodNs ≤ 64000) && decide (c.extDelay ≤ 4000)
    && decide (c.extDelay + 500 ≤ c.periodNs) && decide (c.fwdMask ≤ 255)
    && c.targets.length == 80 && c.targets.all (fun t => decide (t ≤ 2))
    && decide (1 ≤ c.bootRamps) && decide (c.bootRamps ≤ 80) && decide (50 ≤ c.pmCap) && decide (c.pmCap ≤ 330)
    && decide (c.linkEnable ≤ 255)
    && (match c.spAddr with
        | some a => decide (a.2 ≤ 128)
        | none => true)

/-- Whether a submission's header and length agree with its type: 64 bytes and the body, then the authenticator where one is
submitted (R502, R503). DESIGN CHOICE, log 58. -/
def submitForm (t : Nat) (l : List Byte) : Bool :=
  le l 0 4 == 0x43525750 && le l 5 1 == recSigner t && decide (64 ≤ l.length) && decide (recLength l ≤ 65536)
    && l.length == 64 + recLength l + (if t = 5 then 0 else 5396)

/-- The copy that a submission makes, or none where it is refused (R503, R507). The security engine adds the authenticator of
type 5. -/
def submitCopy (s : State) (l : List Byte) : Option (Nat × List Byte) :=
  let t := le l 4 1
  if t = 5 then
    (if submitForm 5 l && decide (recVersion l ≤ curVersion s 5) && bootRanges (Config.bootBody (recBody l)) then
      some (5, recMake 5 0 (recVersion l) (recNextSeq s 5) (recBody l)) else none)
  else if t = 6 ∨ t = 7 then
    (if submitForm t l && recValid t l && recSeq l == recNextSeq s t
        && (t == 6 || (List.range 5).all fun c => decide (minSvn s c ≤ Config.svnFloor (recBody l) c)) then some (t, l) else none)
  else none

/-- A record submission is written, or refused (R503, R504). DESIGN CHOICE, log 58. -/
def submitRecord (l : List Byte) (ok : Bool) (s : State) : Code × State :=
  match submitCopy s l with
  | none => (E.cfgRecordInvalid, recordErrAny pMc E.cfgRecordInvalid s)
  | some (t, c) => (if ok then 0 else E.flashWriteFail, recPut t c ok s)

/-- STAGE_END (R519 step 3) -/
def endStaging (d : Dgram) (digest : List Byte) (ok : Bool) (s : State) : Code × State :=
  match s.sp.staging with
  | none => (E.updProtocol, s)
  | some g =>
    if !inSession d s then (E.updProtocol, s)
    else match stagedBytes g with
      | none => (E.updProtocol, dropStaging s)
      | some l =>
        if sha256 l ≠ digest then (E.updProtocol, dropStaging s)
        else
          let t := updSp (fun x => { x with staging := none }) s
          if g.target = 8 then submitRecord l ok t
          else if ok then (0, updComp g.target (fun x => setBankImg (idleBank x) l { x with inactive := 2 }) t)
          else (E.flashWriteFail, flashFails (dropStaging s))

/-! ### Operations (R518) -/

/-- HELLO: the identity, MC_STATE, and the session granted where one was asked for and none was open. DESIGN CHOICE, log 58. -/
def spHello (open_ : Bool) (s : State) : (Code × List Byte) × State :=
  if open_ ∧ s.sp.session ≠ none then ((E.updProtocol, []), s)
  else
    let n := s.sp.nextSession
    let s := if open_ then
        updSp (fun x => { x with session := some n, sessCache := [], nextSession := if n = 0xFFFF then 1 else n + 1 }) s
      else s
    let r := regRead (masterId .service) pMc 0x60 .w32 s
    ((0, leBytes 16 Config.deviceId.toNat ++ leBytes 2 (ownModule r.2) ++ leBytes 4 r.1.toNat ++ leBytes 2 (if open_ then n else 0)),
      r.2)

/-- Whether REG_RD or REG_WR names a module, a page and an offset. DESIGN CHOICE, log 58. -/
def regArgs (module page off : Nat) : Bool :=
  decide (module < 0x3FFF) && decide (page < 0x4000) && decide (off < 0x1000)

/-- A register access of the service port: master 0x2 here, PCL for another module, where it must be aligned (R393, R518). DESIGN CHOICE, log 58. -/
def spReg (d : Dgram) (op module page off : Nat) (data : Word) (own : State → State) (s : State) : State :=
  if !regArgs module page off then spAnswer d op E.updProtocol [] s
  else if module = ownModule s then own s
  else if off % 4 ≠ 0 then spAnswer d op E.updProtocol [] s
  else if !joined s then spAnswer d op E.unmapped [] (countEnd E.unmapped module s)
  else
    let p : Pcl := { op := if op = 2 then 6 else 5, hops := 0, len := 4, dest := module, srcM := ownModule s, tagged := false,
                     status := 0, mtag := 0, addr := regWindow + 4096 * page + off, keyId := 0,
                     data := if op = 2 then [] else leBytes 4 data.toNat }
    let n := homeLink s 0
    attachArrive n (floorMsg n 0 0 0 (.spReg d.from_ op d.seq.toNat) p) s

/-- Up to 1,024 bytes of a record copy. -/
def recordBytes (t slot off : Nat) (s : State) : (Code × List Byte) × State :=
  if t = 0 ∨ 7 < t ∨ 1 < slot then ((E.updProtocol, []), s) else ((0, bytesAt (recCopy s t slot) off 1024), s)

/-- A firmware command of the service protocol: refused until SERVICE_READY (R508), else through FW_CMD. -/
def spFirmware (f : State → Code × State) (s : State) : Code × State :=
  if s.boot.serviceReady then f s else (E.updProtocol, s)

/-- A session closes with its staging (R518). -/
def closeSession (s : State) : State :=
  let t := dropStaging s
  updSp (fun x => { x with session := none, sessCache := [] }) t

/-- A datagram that is no request: dropped and counted, or answered with UPD_PROTOCOL (R517, R520). DESIGN CHOICE, log 58. -/
def malformed (d : Dgram) (what : MalDgram) (op : Nat) (s : State) : State :=
  if !spAnswers s then s
  else match what with
    | .oversized | .fragmented => countUp pSp 0x804 15 0 1 s
    | .header | .unknownOp => match spCached d s with
      | some r => spReplay d r s
      | none => spAnswer d op E.updProtocol [] s

/-- ICMPv6 on the link-local address, or on the global one while it is in use (R517). DESIGN CHOICE, log 58. -/
def icmp (global : Bool) (req : IcmpReq) (s : State) : State :=
  if spAnswers s ∧ (global = false ∨ liveF s pSp 0x50 31 31 = 1) then emit (.icmp global req) s else s

/-- SP_HELLO (R518) -/
def execSpHello (d : Dgram) (wantSession : Bool) (s : State) : Result := .next (spNow d 1 (spHello wantSession) s)
/-- SP_REG_RD (R518) -/
def execSpRegRd (d : Dgram) (module page off : BitVec 16) (s : State) : Result :=
  .next (spRequest d 2 (spReg d 2 module.toNat page.toNat off.toNat 0 fun s =>
    let r := regRead (masterId .service) page.toNat off.toNat .w32 s
    spAnswer d 2 0 (leBytes 4 r.1.toNat) r.2) s)
/-- SP_REG_WR (R518) -/
def execSpRegWr (now : Nat) (d : Dgram) (module page off : BitVec 16) (data : Word) (s : State) : Result :=
  .next (spRequest d 3 (spReg d 3 module.toNat page.toNat off.toNat data fun s =>
    spAnswer d 3 0 [] (regWrite now .service page.toNat off.toNat .w32 (data.setWidth 64) s)) s)
/-- STAGE_BEGIN (R519) -/
def execStageBegin (d : Dgram) (target : Byte) (len : Word) (s : State) : Result :=
  .next (spCode d 0x10 (openStaging d target.toNat len.toNat) s)
/-- STAGE_DATA (R519) -/
def execStageData (d : Dgram) (off : Word) (data : List Byte) (flash : Bool) (s : State) : Result :=
  .next (spCode d 0x11 (putStaging d off.toNat data flash) s)
/-- STAGE_END (R519) -/
def execStageEnd (d : Dgram) (digest : List Byte) (flash : Bool) (s : State) : Result :=
  .next (spCode d 0x12 (endStaging d digest flash) s)
/-- SP_ACTIVATE (R514) -/
def execSpActivate (d : Dgram) (component : Byte) (s : State) : Result :=
  .next (spCode d 0x13 (spFirmware (fwActivate component.toNat)) s)
/-- SP_RESTART (R516) -/
def execSpRestart (d : Dgram) (component unit : Byte) (s : State) : Result :=
  .next (spCode d 0x14 (spFirmware (fwRestart component.toNat unit.toNat)) s)
/-- RECORD_READ (R518) -/
def execRecordRead (d : Dgram) (type slot : Byte) (off : Word) (s : State) : Result :=
  .next (spNow d 0x20 (recordBytes type.toNat slot.toNat off.toNat) s)
/-- SP_SESSION_TIMEOUT (R518) -/
def execSpSessionTimeout (s : State) : Result := .next (closeSession s)
/-- SERVICE_PORT_LINK (R522) -/
def execServicePortLink (up : Bool) (s : State) : Result := .next (updSp (fun x => { x with up := up }) s)
/-- ICMPV6_REQUEST (R517) -/
def execIcmpv6Request (global : Bool) (req : IcmpReq) (s : State) : Result := .next (icmp global req s)
/-- MALFORMED_DATAGRAM (R520) -/
def execMalformedDatagram (d : Dgram) (what : MalDgram) (op : Byte) (s : State) : Result := .next (malformed d what op.toNat s)

end Sys2Proof.Machine
end

