-- ==== Sys2Proof/Machine/Tick.lean ====
section
/-! DEFINITION. Frames, markers, ticks and the loss of the beat (R25 to R41, R379, R525, R527). -/

namespace Sys2Proof.Machine

open Sys2Proof

/-- An event bit of BEAT_EVENTS (R42): 0 LOCK_EVT, 1 LOST_EVT. -/
def beatEvent (i : Nat) (s : State) : State := setLive pBeat 0x804 (withBits (live s pBeat 0x804) i i 1) s

/-! ### A tick (R36) -/

/-- A BEAT flit leaves ahead of every queued flit (R379). OFFSET, the time to the start of its transmission, lies within one flit
slot, in 0.25 ns; where the replay buffer is full it is open. DESIGN CHOICE, log 21. -/
def sendBeat (n : Nat) (s : State) : State :=
  let x := linkAt s n
  let v := freshWord s
  let body := fun o => leBytes 6 s.beat.now.toNat ++ [0, 0] ++ leBytes 4 o
  if flitRoom x then sendFlit n tyBeat 0 (body (v.1.toNat % 6)) v.2
  else setLink n { x with ctlq := (tyBeat, body v.1.toNat) :: x.ctlq } v.2

/-- A marker goes out on each link of FWD_MASK that is up, except the unit's own source (R32). DESIGN CHOICE, log 21. -/
def sendMarkers (s : State) : State :=
  let m := liveF s pBeat 0x40 19 12
  (List.range 8).foldl (fun s n =>
    if m / 2 ^ n % 2 = 1 ∧ linkUp s n ∧ beatSrc s ≠ 8 + n then sendBeat n s else s) s

/-- Step 5 of R36: an unfinished poll stops and counts itself; the next begins (R20, R287). -/
def beginPoll (s : State) : State :=
  let s := if s.serving.polling || !s.serving.work.isEmpty then countUp pSrv 0x800 31 16 1 s else s
  let go := srvOn s && hostReady s
  updServing (fun v => { v with polling := go, work := [] }) s

/-- A tick of the whole engine at beat b, at time `now`; `lock` says that the unit enters LOCKED with it. DESIGN CHOICE, log 21. DESIGN CHOICE, log 22. -/
def wholeTick (now : Nat) (b : Beat) (lock : Bool) (s : State) : State :=
  let s := { s with beat := { s.beat with
    mode := .locked, now := b, tickAt := now, edgeSince := false, lossPeriod := periodNs s, lockAt := none } }
  let s := tickBefore b (if lock then tickLock b (beatEvent 0 s) else s)
  let s := sendMarkers (commitGroups now (dueGroups b s) s)
  let s := gyleTick b (refill b s)
  let s := beginPoll (if s.recov.overflow then s else issueAll b s)
  awaitTick (returnTick (beginRestart (bootTick now (powerTick now b s))))

/-- BEAT_TICK: the next tick of a LOCKED unit, or the one with which a unit whose source has locked enters LOCKED (R27, R28,
R30). No tick falls at another time. DESIGN CHOICE, log 13. DESIGN CHOICE, log 21. -/
def beatTick (now : Nat) (s : State) : Result :=
  if !tickDue now s then .next s
  else match s.beat.mode, s.beat.lockAt with
    | .locked, _ => if s.beat.broken then .fault .beatUndefined else .next (wholeTick now (s.beat.now + 1) false s)
    | .acquiring, some b => .next (wholeTick now b true s)
    | _, _ => .next s

/-! ### Frames and markers (R27, R379) -/

/-- The source meets the lock criterion with number k + 2: the unit is LOCKED at once, or with a compensation delay at the next
tick (R27). DESIGN CHOICE, log 21. -/
def sourceLocks (now : Nat) (number : Beat) (s : State) : State :=
  if compDelay s = 0 then wholeTick now number true s
  else { s with beat := { s.beat with lockAt := some (number + 1) } }

/-- An arrival of the selected source while the unit is ACQUIRING; `none` is a malformed frame, which leaves a lock that awaits its
tick as it is. DESIGN CHOICE, log 21. -/
def acquire (now : Nat) (number : Option Beat) (s : State) : State :=
  match number with
  | none => { s with beat := { s.beat with acq := runBroken s.beat.acq } }
  | some b =>
    let x := runNext (periodNs s) s.beat.acq b now
    let s := noteArrival now { s with beat := { s.beat with acq := x } }
    if x.run = 3 then sourceLocks now b s else s

/-- An arrival of the selected source while the unit is LOCKED. What breaks R26 leaves the unit LOCKED (R527) and makes what the
engine does at its ticks undefined (R41). DESIGN CHOICE, log 21. -/
def lockedArrival (now : Nat) (old : CandState) (number : Option Beat) (s : State) : State :=
  match number with
  | none => { s with beat := { s.beat with broken := true } }
  | some b =>
    let s := noteArrival now s
    if old.seen && old.number + 1 != b then { s with beat := { s.beat with broken := true } } else s

/-- An arrival of a candidate: it is tracked (R27, R527), and acts on the unit where it is the selected source. DESIGN CHOICE, log 21. -/
def arrival (c : Cand) (now : Nat) (number : Option Beat) (s : State) : State :=
  let old := candOf s c
  let s := setCand c (match number with
    | none => runBroken old
    | some b => runNext (periodNs s) old b now) s
  if s.beat.activeSrc.toNat ≠ candSrc c then s
  else match s.beat.mode with
    | .acquiring => acquire now number s
    | .locked => lockedArrival now old number s
    | _ => s

/-- The number of a frame, where it is well formed (R27). DESIGN CHOICE, log 16. DESIGN CHOICE, log 21. -/
def frameNumber (f : BeatFrame) : Option Beat := if f.preamble = 0xA5 ∧ f.tail = 0 ∧ f.manchester then some f.number else none

/-! ### Loss (R38, R39) -/

/-- BEAT_LOST: more than four periods after the latest tick without an edge or marker. DESIGN CHOICE, log 16. DESIGN CHOICE, log 21. -/
def beatLoses (now : Nat) (s : State) : State :=
  if s.beat.mode = .locked ∧ !s.beat.edgeSince ∧ 16 * s.beat.lossPeriod < now - s.beat.tickAt then
    let s := { s with beat := { s.beat with mode := .lost, last := s.beat.now } }
    let s := recordErrAny pBeat E.beatLost (beatEvent 1 s)
    fatal E.beatLost (closingRecord (planBeatLost (powerBeatLost (loseBeatGroups s))))
  else s

/-- BEAT_FRAME (R27) -/
def execBeatFrame (now : Nat) (frame : BeatFrame) (s : State) : Result := .next (arrival .ext now (frameNumber frame) s)
/-- BEAT_MARKER (R379): a flit that fails its tag is no marker; its arrival is less OFFSET. -/
def execBeatMarker (link : Fin 8) (now : Nat) (flit : LinkFlit) (s : State) : Result :=
  .next (recvFlit link.val tyBeat flit (fun _ b => arrival (.link link) (now - le b 8 4) (some (BitVec.ofNat 48 (le b 0 6)))) s)
/-- BEAT_TICK (R36) -/
def execBeatTick (now : Nat) (s : State) : Result := beatTick now s
/-- BEAT_LOST (R38) -/
def execBeatLost (now : Nat) (s : State) : Result := .next (beatLoses now s)

end Sys2Proof.Machine
end

