-- ==== Sys2Proof/Machine/Vector.lean ====
section
/-! DEFINITION. Vector instructions (R118). -/

namespace Sys2Proof.Machine

open Sys2Proof

/-- The vector register that a field names. -/
def fv (k : Iss) (hi lo : Nat) : Vec := regV k.th (fw k hi lo)

/-- Whether the lane type is I32. -/
def isI32 (k : Iss) : Bool := fw k 43 42 == 1

/-- VD ← lanes. -/
def writeV (k : Iss) (l : List Word) (s : State) : IRes :=
  .done (updThread k (setV (fw k 55 52) (fromLanes 512 l)) s) (pcNext k)

/-- VD ← VA op VB, lane by lane. -/
def vec2 (op : Nat) (f g : Word → Word → Word) (i : Issue) (s : State) : State :=
  issue op i (fun k s =>
    writeV k (List.zipWith (if isI32 k then g else f) (lanesOf (fv k 51 48) 16) (lanesOf (fv k 47 44) 16)) s) s

/-- VD ← op VA, lane by lane. -/
def vec1 (op : Nat) (f : Word → Word) (i : Issue) (s : State) : State :=
  issue op i (fun k s => writeV k ((lanesOf (fv k 51 48) 16).map f) s) s

/-- A lane in a scalar register: F32 zero-extended, I32 sign-extended. -/
def laneToS (k : Iss) (w : Word) : DWord := if isI32 k then w.signExtend 64 else w.setWidth 64

/-- sS ← a lane. -/
def writeLane (k : Iss) (w : Word) (s : State) : IRes :=
  .done (updThread k (setS (fw k 41 37) (laneToS k w)) s) (pcNext k)

/-- VFMA: VA × VB + VD. -/
def vfmaBody (k : Iss) (s : State) : IRes :=
  let f := fun (p : Word × Word) (d : Word) => if isI32 k then p.1 * p.2 + d else f32Fma p.1 p.2 d
  writeV k (List.zipWith f ((lanesOf (fv k 51 48) 16).zip (lanesOf (fv k 47 44) 16)) (lanesOf (fv k 55 52) 16)) s

/-- VSUM: the lanes added from lane 0 to lane 15. -/
def vsumBody (k : Iss) (s : State) : IRes :=
  let l := lanesOf (fv k 51 48) 16
  writeLane k ((l.drop 1).foldl (if isI32 k then (· + ·) else f32Add) (l.headD 0)) s

/-- VMOVA: a lane group of an accumulator, held while an MVD is to write it (R110). -/
def vmovaBody (k : Iss) (s : State) : IRes :=
  if accPending k (fw k 36 35) then .held s
  else writeV k ((List.range 16).map fun j => lane (regA k.th (fw k 36 35)) (16 * fw k 34 33 + j)) s

/-- VADD (R118) -/
def execVadd (i : Issue) (s : State) : Result := .next (vec2 0x50 f32Add (· + ·) i s)
/-- VSUB (R118) -/
def execVsub (i : Issue) (s : State) : Result := .next (vec2 0x51 f32Sub (· - ·) i s)
/-- VMUL (R118) -/
def execVmul (i : Issue) (s : State) : Result := .next (vec2 0x52 f32Mul (· * ·) i s)
/-- VFMA (R118) -/
def execVfma (i : Issue) (s : State) : Result := .next (issue 0x53 i vfmaBody s)
/-- VMAX (R118) -/
def execVmax (i : Issue) (s : State) : Result := .next (vec2 0x54 f32Max i32Max i s)
/-- VMIN (R118) -/
def execVmin (i : Issue) (s : State) : Result := .next (vec2 0x55 f32Min i32Min i s)
/-- VSUM (R118) -/
def execVsum (i : Issue) (s : State) : Result := .next (issue 0x56 i vsumBody s)
/-- VBCAST (R118) -/
def execVbcast (i : Issue) (s : State) : Result :=
  .next (issue 0x57 i (fun k s => writeV k (List.replicate 16 ((fs k 41 37).setWidth 32)) s) s)
/-- VMOVA (R118) -/
def execVmova (i : Issue) (s : State) : Result := .next (issue 0x58 i vmovaBody s)
/-- VMOVS (R118) -/
def execVmovs (i : Issue) (s : State) : Result :=
  .next (issue 0x59 i (fun k s => writeLane k (lane (fv k 51 48) (fw k 3 0)) s) s)
/-- EXP2 (R118) -/
def execExp2 (i : Issue) (s : State) : Result := .next (vec1 0x5C f32Exp2 i s)
/-- RSQ (R118) -/
def execRsq (i : Issue) (s : State) : Result := .next (vec1 0x5D f32Rsq i s)

end Sys2Proof.Machine
end

