-- ==== Sys2Proof/Machine/Dispatch.lean ====
section
/-! DEFINITION. One arm for each command: a direct call of its meaning. -/

namespace Sys2Proof.Machine

open Sys2Proof

/-- The effect of one command on everything but the queue. -/
def exec (i : Instr) (s : State) : Host.Outcome State Fault Refusal :=
  match i with
  | .beatFrame now frame => Sys2Proof.Machine.execBeatFrame now frame s
  | .beatMarker link now flit => Sys2Proof.Machine.execBeatMarker link now flit s
  | .beatTick now => Sys2Proof.Machine.execBeatTick now s
  | .beatLost now => Sys2Proof.Machine.execBeatLost now s
  | .candLockTimeout cand now => Sys2Proof.Machine.execCandLockTimeout cand now s
  | .beatRestart => Sys2Proof.Machine.execBeatRestart s
  | .registerWrite now master page off width value => Sys2Proof.Machine.execRegisterWrite now master page off width value s
  | .rcRead master page off width => Sys2Proof.Machine.execRcRead master page off width s
  | .latchRead master page off width => Sys2Proof.Machine.execLatchRead master page off width s
  | .txnAlloc master => Sys2Proof.Machine.execTxnAlloc master s
  | .blkTxnEnrol master page group => Sys2Proof.Machine.execBlkTxnEnrol master page group s
  | .blkTxnWithdraw master page group => Sys2Proof.Machine.execBlkTxnWithdraw master page group s
  | .txnArm master => Sys2Proof.Machine.execTxnArm master s
  | .txnArmNow master => Sys2Proof.Machine.execTxnArmNow master s
  | .txnAbort master => Sys2Proof.Machine.execTxnAbort master s
  | .txnRelease master => Sys2Proof.Machine.execTxnRelease master s
  | .txnValidationDone group => Sys2Proof.Machine.execTxnValidationDone group s
  | .txnNowApplyDone now group => Sys2Proof.Machine.execTxnNowApplyDone now group s
  | .add iss => Sys2Proof.Machine.execAdd iss s
  | .sub iss => Sys2Proof.Machine.execSub iss s
  | .mul iss => Sys2Proof.Machine.execMul iss s
  | .and_ iss => Sys2Proof.Machine.execAnd iss s
  | .or_ iss => Sys2Proof.Machine.execOr iss s
  | .xor_ iss => Sys2Proof.Machine.execXor iss s
  | .shl iss => Sys2Proof.Machine.execShl iss s
  | .shr iss => Sys2Proof.Machine.execShr iss s
  | .sar iss => Sys2Proof.Machine.execSar iss s
  | .min_ iss => Sys2Proof.Machine.execMin iss s
  | .max_ iss => Sys2Proof.Machine.execMax iss s
  | .minu iss => Sys2Proof.Machine.execMinu iss s
  | .maxu iss => Sys2Proof.Machine.execMaxu iss s
  | .slt iss => Sys2Proof.Machine.execSlt iss s
  | .sltu iss => Sys2Proof.Machine.execSltu iss s
  | .addi iss => Sys2Proof.Machine.execAddi iss s
  | .andi iss => Sys2Proof.Machine.execAndi iss s
  | .ori iss => Sys2Proof.Machine.execOri iss s
  | .xori iss => Sys2Proof.Machine.execXori iss s
  | .shli iss => Sys2Proof.Machine.execShli iss s
  | .shri iss => Sys2Proof.Machine.execShri iss s
  | .sari iss => Sys2Proof.Machine.execSari iss s
  | .slti iss => Sys2Proof.Machine.execSlti iss s
  | .lih iss => Sys2Proof.Machine.execLih iss s
  | .nop iss => Sys2Proof.Machine.execNop iss s
  | .halt iss => Sys2Proof.Machine.execHalt iss s
  | .rdsys iss => Sys2Proof.Machine.execRdsys iss s
  | .beq iss => Sys2Proof.Machine.execBeq iss s
  | .bne iss => Sys2Proof.Machine.execBne iss s
  | .blt iss => Sys2Proof.Machine.execBlt iss s
  | .bge iss => Sys2Proof.Machine.execBge iss s
  | .bltu iss => Sys2Proof.Machine.execBltu iss s
  | .bgeu iss => Sys2Proof.Machine.execBgeu iss s
  | .jal iss => Sys2Proof.Machine.execJal iss s
  | .jr iss => Sys2Proof.Machine.execJr iss s
  | .ldf iss => Sys2Proof.Machine.execLdf iss s
  | .ldk iss => Sys2Proof.Machine.execLdk iss s
  | .ste iss => Sys2Proof.Machine.execSte iss s
  | .stf iss => Sys2Proof.Machine.execStf iss s
  | .empt iss => Sys2Proof.Machine.execEmpt iss s
  | .bind iss => Sys2Proof.Machine.execBind iss s
  | .unbind iss => Sys2Proof.Machine.execUnbind iss s
  | .dmq iss => Sys2Proof.Machine.execDmq iss s
  | .vadd iss => Sys2Proof.Machine.execVadd iss s
  | .vsub iss => Sys2Proof.Machine.execVsub iss s
  | .vmul iss => Sys2Proof.Machine.execVmul iss s
  | .vfma iss => Sys2Proof.Machine.execVfma iss s
  | .vmax iss => Sys2Proof.Machine.execVmax iss s
  | .vmin iss => Sys2Proof.Machine.execVmin iss s
  | .vsum iss => Sys2Proof.Machine.execVsum iss s
  | .vbcast iss => Sys2Proof.Machine.execVbcast iss s
  | .vmova iss => Sys2Proof.Machine.execVmova iss s
  | .vmovs iss => Sys2Proof.Machine.execVmovs iss s
  | .exp2 iss => Sys2Proof.Machine.execExp2 iss s
  | .rsq iss => Sys2Proof.Machine.execRsq iss s
  | .mvd iss => Sys2Proof.Machine.execMvd iss s
  | .mma iss => Sys2Proof.Machine.execMma iss s
  | .mmax iss => Sys2Proof.Machine.execMmax iss s
  | .cvt iss => Sys2Proof.Machine.execCvt iss s
  | .qcf iss => Sys2Proof.Machine.execQcf iss s
  | .topk iss => Sys2Proof.Machine.execTopk iss s
  | .snd iss => Sys2Proof.Machine.execSnd iss s
  | .sndr iss => Sys2Proof.Machine.execSndr iss s
  | .rdm iss => Sys2Proof.Machine.execRdm iss s
  | .tadd iss => Sys2Proof.Machine.execTadd iss s
  | .tset iss => Sys2Proof.Machine.execTset iss s
  | .twait iss => Sys2Proof.Machine.execTwait iss s
  | .threadWake c t => Sys2Proof.Machine.execThreadWake c t s
  | .mvdStreamEnd c check => Sys2Proof.Machine.execMvdStreamEnd c check s
  | .mvdResult c => Sys2Proof.Machine.execMvdResult c s
  | .arrayStagingDone c check => Sys2Proof.Machine.execArrayStagingDone c check s
  | .arrayStreamEnd c => Sys2Proof.Machine.execArrayStreamEnd c s
  | .arrayPassCheck c errors => Sys2Proof.Machine.execArrayPassCheck c errors s
  | .arrayDrainDone c check => Sys2Proof.Machine.execArrayDrainDone c check s
  | .edgeOccupancyEnd c check => Sys2Proof.Machine.execEdgeOccupancyEnd c check s
  | .edgeResultReady c check => Sys2Proof.Machine.execEdgeResultReady c check s
  | .hqPermitRelease c => Sys2Proof.Machine.execHqPermitRelease c s
  | .dmaDescStart c check => Sys2Proof.Machine.execDmaDescStart c check s
  | .dmaDescEnd c index => Sys2Proof.Machine.execDmaDescEnd c index s
  | .failureNotice index => Sys2Proof.Machine.execFailureNotice index s
  | .cacheMissFill c line => Sys2Proof.Machine.execCacheMissFill c line s
  | .cacheWriteback c check => Sys2Proof.Machine.execCacheWriteback c check s
  | .fabricArrival c => Sys2Proof.Machine.execFabricArrival c s
  | .bankClearDone c bank => Sys2Proof.Machine.execBankClearDone c bank s
  | .spargeVisit c low high => Sys2Proof.Machine.execSpargeVisit c low high s
  | .cawRead master field => Sys2Proof.Machine.execCawRead master field s
  | .cawWrite master field => Sys2Proof.Machine.execCawWrite master field s
  | .cawDiscard master field => Sys2Proof.Machine.execCawDiscard master field s
  | .threadStart master c mask => Sys2Proof.Machine.execThreadStart master c mask s
  | .threadStop master c mask => Sys2Proof.Machine.execThreadStop master c mask s
  | .coreReset master c => Sys2Proof.Machine.execCoreReset master c s
  | .tagInit master c handle value => Sys2Proof.Machine.execTagInit master c handle value s
  | .tallyAdd block => Sys2Proof.Machine.execTallyAdd block s
  | .tallySet block => Sys2Proof.Machine.execTallySet block s
  | .tallyRegistration block => Sys2Proof.Machine.execTallyRegistration block s
  | .tallyWakeReply c => Sys2Proof.Machine.execTallyWakeReply c s
  | .tallyRegRetry c t => Sys2Proof.Machine.execTallyRegRetry c t s
  | .tallyCmdAdd master field value => Sys2Proof.Machine.execTallyCmdAdd master field value s
  | .tallyCmdSet master field value => Sys2Proof.Machine.execTallyCmdSet master field value s
  | .flushWaits master field => Sys2Proof.Machine.execFlushWaits master field s
  | .routerHeader router port plane => Sys2Proof.Machine.execRouterHeader router port plane s
  | .reduceAtRouter router port plane busy => Sys2Proof.Machine.execReduceAtRouter router port plane busy s
  | .transitEntryRelease router entry => Sys2Proof.Machine.execTransitEntryRelease router entry s
  | .reduceAtOwner router port plane => Sys2Proof.Machine.execReduceAtOwner router port plane s
  | .readAtMergePoint router port plane check => Sys2Proof.Machine.execReadAtMergePoint router port plane check s
  | .mergeEntryClose router entry => Sys2Proof.Machine.execMergeEntryClose router entry s
  | .readReplyFanout router entry => Sys2Proof.Machine.execReadReplyFanout router entry s
  | .flitParityError router port plane => Sys2Proof.Machine.execFlitParityError router port plane s
  | .flitReplay router port plane clean => Sys2Proof.Machine.execFlitReplay router port plane clean s
  | .flushMerge master field => Sys2Proof.Machine.execFlushMerge master field s
  | .flushReduce master field => Sys2Proof.Machine.execFlushReduce master field s
  | .stackReadRequest n check => Sys2Proof.Machine.execStackReadRequest n check s
  | .stackWriteRequest n check => Sys2Proof.Machine.execStackWriteRequest n check s
  | .chStart master n ch => Sys2Proof.Machine.execChStart master n ch s
  | .chAbort master n ch => Sys2Proof.Machine.execChAbort master n ch s
  | .chDescFetch n ch check => Sys2Proof.Machine.execChDescFetch n ch check s
  | .chWaitRelease n ch check => Sys2Proof.Machine.execChWaitRelease n ch check s
  | .chPoolSpace n ch check => Sys2Proof.Machine.execChPoolSpace n ch check s
  | .chSegmentDone n ch seg check => Sys2Proof.Machine.execChSegmentDone n ch seg check s
  | .chDescEnd n ch => Sys2Proof.Machine.execChDescEnd n ch s
  | .hdClear master field => Sys2Proof.Machine.execHdClear master field s
  | .hdMarkWrite master field => Sys2Proof.Machine.execHdMarkWrite master field s
  | .hdMarkClear master field => Sys2Proof.Machine.execHdMarkClear master field s
  | .load master host => Sys2Proof.Machine.execLoad master host s
  | .loadContent => Sys2Proof.Machine.execLoadContent s
  | .loadThreadStart => Sys2Proof.Machine.execLoadThreadStart s
  | .install master host => Sys2Proof.Machine.execInstall master host s
  | .holdingQueryTimeout who => Sys2Proof.Machine.execHoldingQueryTimeout who s
  | .gristUnitArrival who host => Sys2Proof.Machine.execGristUnitArrival who host s
  | .release master => Sys2Proof.Machine.execRelease master s
  | .unload master => Sys2Proof.Machine.execUnload master s
  | .unloadTeardown => Sys2Proof.Machine.execUnloadTeardown s
  | .epochDrainRelease model epoch => Sys2Proof.Machine.execEpochDrainRelease model epoch s
  | .stagedSwitchCopy model check again => Sys2Proof.Machine.execStagedSwitchCopy model check again s
  | .stagedSwitchDone model => Sys2Proof.Machine.execStagedSwitchDone model s
  | .adInstall master host => Sys2Proof.Machine.execAdInstall master host s
  | .adRetire master => Sys2Proof.Machine.execAdRetire master s
  | .adapterSlotFree slot => Sys2Proof.Machine.execAdapterSlotFree slot s
  | .hostPoll host => Sys2Proof.Machine.execHostPoll host s
  | .admit_ host blocks => Sys2Proof.Machine.execAdmit host blocks s
  | .reqEnd => Sys2Proof.Machine.execReqEnd s
  | .rebind => Sys2Proof.Machine.execRebind s
  | .prefill host blocks => Sys2Proof.Machine.execPrefill host blocks s
  | .selection => Sys2Proof.Machine.execSelection s
  | .outputCollect model => Sys2Proof.Machine.execOutputCollect model s
  | .stepComplete stream => Sys2Proof.Machine.execStepComplete stream s
  | .specVerifyIssue stream => Sys2Proof.Machine.execSpecVerifyIssue stream s
  | .stCmdEnd master => Sys2Proof.Machine.execStCmdEnd master s
  | .stSel master stream => Sys2Proof.Machine.execStSel master stream s
  | .pxSel master index => Sys2Proof.Machine.execPxSel master index s
  | .flushModel master => Sys2Proof.Machine.execFlushModel master s
  | .specSel master stream => Sys2Proof.Machine.execSpecSel master stream s
  | .hostLinkTrain lopt std rate width => Sys2Proof.Machine.execHostLinkTrain lopt std rate width s
  | .hostLinkDown cause => Sys2Proof.Machine.execHostLinkDown cause s
  | .hostLinkUp cfg => Sys2Proof.Machine.execHostLinkUp cfg s
  | .hostReadData id data => Sys2Proof.Machine.execHostReadData id data s
  | .hostWriteObserved id => Sys2Proof.Machine.execHostWriteObserved id s
  | .hostRequestError id => Sys2Proof.Machine.execHostRequestError id s
  | .hostRequestTimeout id => Sys2Proof.Machine.execHostRequestTimeout id s
  | .h2dSnoop => Sys2Proof.Machine.execH2dSnoop s
  | .hdmAccess addr len write interleaved => Sys2Proof.Machine.execHdmAccess addr len write interleaved s
  | .irqStatusClear master clear => Sys2Proof.Machine.execIrqStatusClear master clear s
  | .msixUnmask vector => Sys2Proof.Machine.execMsixUnmask vector s
  | .ideCheckFail => Sys2Proof.Machine.execIdeCheckFail s
  | .doeRequest req => Sys2Proof.Machine.execDoeRequest req s
  | .doeAbort => Sys2Proof.Machine.execDoeAbort s
  | .linkTrainDone link => Sys2Proof.Machine.execLinkTrainDone link s
  | .linkTrainTimeout link => Sys2Proof.Machine.execLinkTrainTimeout link s
  | .linkRetryTimer link => Sys2Proof.Machine.execLinkRetryTimer link s
  | .linkHello link flit => Sys2Proof.Machine.execLinkHello link flit s
  | .hsHello link nonce flash => Sys2Proof.Machine.execHsHello link nonce flash s
  | .hsReport link report sig key certs => Sys2Proof.Machine.execHsReport link report sig key certs s
  | .hsKem link ct => Sys2Proof.Machine.execHsKem link ct s
  | .hsFinish link mac => Sys2Proof.Machine.execHsFinish link mac s
  | .hsTimeout link => Sys2Proof.Machine.execHsTimeout link s
  | .linkFecLoss link => Sys2Proof.Machine.execLinkFecLoss link s
  | .retrain master link => Sys2Proof.Machine.execRetrain master link s
  | .linkDataFlit link flit => Sys2Proof.Machine.execLinkDataFlit link flit s
  | .linkCredit link flit => Sys2Proof.Machine.execLinkCredit link flit s
  | .linkAck link flit => Sys2Proof.Machine.execLinkAck link flit s
  | .linkNak link flit => Sys2Proof.Machine.execLinkNak link flit s
  | .linkFlitFail link ty seq corrected => Sys2Proof.Machine.execLinkFlitFail link ty seq corrected s
  | .delayReqSend link t1 => Sys2Proof.Machine.execDelayReqSend link t1 s
  | .delayReq link flit t2 t3 => Sys2Proof.Machine.execDelayReq link flit t2 t3 s
  | .delayRsp link flit t4 => Sys2Proof.Machine.execDelayRsp link flit t4 s
  | .pclWr link vc => Sys2Proof.Machine.execPclWr link vc s
  | .pclRd link vc => Sys2Proof.Machine.execPclRd link vc s
  | .flushReadReply link => Sys2Proof.Machine.execFlushReadReply link s
  | .pclWrAck link vc => Sys2Proof.Machine.execPclWrAck link vc s
  | .pclRdData link vc => Sys2Proof.Machine.execPclRdData link vc s
  | .pclRegWr now link vc => Sys2Proof.Machine.execPclRegWr now link vc s
  | .pclRegRd link vc => Sys2Proof.Machine.execPclRegRd link vc s
  | .pclRegRsp link vc => Sys2Proof.Machine.execPclRegRsp link vc s
  | .svcReq link vc => Sys2Proof.Machine.execSvcReq link vc s
  | .svcRsp link vc => Sys2Proof.Machine.execSvcRsp link vc s
  | .remoteTimeout mtag => Sys2Proof.Machine.execRemoteTimeout mtag s
  | .rtCopy master table => Sys2Proof.Machine.execRtCopy master table s
  | .getReport flash => Sys2Proof.Machine.execGetReport flash s
  | .getKemKey => Sys2Proof.Machine.execGetKemKey s
  | .getCerts => Sys2Proof.Machine.execGetCerts s
  | .tenantBind => Sys2Proof.Machine.execTenantBind s
  | .tenantUnbind => Sys2Proof.Machine.execTenantUnbind s
  | .sessionOpen => Sys2Proof.Machine.execSessionOpen s
  | .sessionClose => Sys2Proof.Machine.execSessionClose s
  | .ideKeys => Sys2Proof.Machine.execIdeKeys s
  | .mbSubmit master => Sys2Proof.Machine.execMbSubmit master s
  | .mbReset master => Sys2Proof.Machine.execMbReset master s
  | .mbData master write => Sys2Proof.Machine.execMbData master write s
  | .signBucketRefill flash => Sys2Proof.Machine.execSignBucketRefill flash s
  | .powerOnValid now => Sys2Proof.Machine.execPowerOnValid now s
  | .inputLow => Sys2Proof.Machine.execInputLow s
  | .inputHigh => Sys2Proof.Machine.execInputHigh s
  | .inputRangeFail => Sys2Proof.Machine.execInputRangeFail s
  | .powerWindowEnd watts blades now => Sys2Proof.Machine.execPowerWindowEnd watts blades now s
  | .phaseFault field rail phase => Sys2Proof.Machine.execPhaseFault field rail phase s
  | .phaseRetryTimer field rail phase => Sys2Proof.Machine.execPhaseRetryTimer field rail phase s
  | .phaseCleanTimer field rail phase => Sys2Proof.Machine.execPhaseCleanTimer field rail phase s
  | .converterFault field fcB => Sys2Proof.Machine.execConverterFault field fcB s
  | .breakerTrip field overTemp now => Sys2Proof.Machine.execBreakerTrip field overTemp now s
  | .kilnEntryDone field => Sys2Proof.Machine.execKilnEntryDone field s
  | .vcoreStageEnd field => Sys2Proof.Machine.execVcoreStageEnd field s
  | .railStageDone field calA calB => Sys2Proof.Machine.execRailStageDone field calA calB s
  | .powerRetry field => Sys2Proof.Machine.execPowerRetry field s
  | .clockStepDone field => Sys2Proof.Machine.execClockStepDone field s
  | .thermalEval field => Sys2Proof.Machine.execThermalEval field s
  | .currentLimitTimer field above => Sys2Proof.Machine.execCurrentLimitTimer field above s
  | .coolantLoss => Sys2Proof.Machine.execCoolantLoss s
  | .connSuspect blade => Sys2Proof.Machine.execConnSuspect blade s
  | .reclose master field now => Sys2Proof.Machine.execReclose master field now s
  | .conversionDone conv raw now => Sys2Proof.Machine.execConversionDone conv raw now s
  | .telRepeat conv now => Sys2Proof.Machine.execTelRepeat conv now s
  | .injectedTrigger conv trigger => Sys2Proof.Machine.execInjectedTrigger conv trigger s
  | .cal master conv => Sys2Proof.Machine.execCal master conv s
  | .calCover master conv => Sys2Proof.Machine.execCalCover master conv s
  | .calDone conv z y now => Sys2Proof.Machine.execCalDone conv z y now s
  | .telemStale field now => Sys2Proof.Machine.execTelemStale field now s
  | .threadFaultClassify core thread => Sys2Proof.Machine.execThreadFaultClassify core thread s
  | .faultSuspend now reload => Sys2Proof.Machine.execFaultSuspend now reload s
  | .planArm commit flash ways => Sys2Proof.Machine.execPlanArm commit flash ways s
  | .planApply now => Sys2Proof.Machine.execPlanApply now s
  | .planResume now => Sys2Proof.Machine.execPlanResume now s
  | .floorMapRetry ok => Sys2Proof.Machine.execFloorMapRetry ok s
  | .seBootDone => Sys2Proof.Machine.execSeBootDone s
  | .mcBootDone now bad hub => Sys2Proof.Machine.execMcBootDone now bad hub s
  | .startupFieldsTimeout => Sys2Proof.Machine.execStartupFieldsTimeout s
  | .selftestDone field failed flash => Sys2Proof.Machine.execSelftestDone field failed flash s
  | .selftestTimeout field => Sys2Proof.Machine.execSelftestTimeout field s
  | .spHello d wantSession => Sys2Proof.Machine.execSpHello d wantSession s
  | .spRegRd d module page off => Sys2Proof.Machine.execSpRegRd d module page off s
  | .spRegWr now d module page off data => Sys2Proof.Machine.execSpRegWr now d module page off data s
  | .stageBegin d target len => Sys2Proof.Machine.execStageBegin d target len s
  | .stageData d off data flash => Sys2Proof.Machine.execStageData d off data flash s
  | .stageEnd d digest flash => Sys2Proof.Machine.execStageEnd d digest flash s
  | .spActivate d component => Sys2Proof.Machine.execSpActivate d component s
  | .spRestart d component unit => Sys2Proof.Machine.execSpRestart d component unit s
  | .recordRead d type slot off => Sys2Proof.Machine.execRecordRead d type slot off s
  | .spSessionTimeout => Sys2Proof.Machine.execSpSessionTimeout s
  | .fwActivate master component => Sys2Proof.Machine.execFwActivate master component s
  | .fwRestart master component unit => Sys2Proof.Machine.execFwRestart master component unit s
  | .componentBoot bad => Sys2Proof.Machine.execComponentBoot bad s
  | .inputLowClear => Sys2Proof.Machine.execInputLowClear s
  | .coolantLow => Sys2Proof.Machine.execCoolantLow s
  | .hostLinkRecovery => Sys2Proof.Machine.execHostLinkRecovery s
  | .servicePortLink up => Sys2Proof.Machine.execServicePortLink up s
  | .icmpv6Request global req => Sys2Proof.Machine.execIcmpv6Request global req s
  | .malformedDatagram d what op => Sys2Proof.Machine.execMalformedDatagram d what op s

end Sys2Proof.Machine
end

