-- ==== Sys2Proof/Machine/Step.lean ====
section
/-! DEFINITION. One step: the command at the front of the queue is performed. -/

namespace Sys2Proof.Machine

open Sys2Proof

/-- The command at the front of the queue acts on the engine with the rest of the queue; on an empty queue the engine idles. DESIGN CHOICE, log 1. DESIGN CHOICE, log 2. -/
def step (s : State) : Host.Outcome State Fault Refusal :=
  match s.pending with
  | [] => .next s
  | c :: cs => exec c { s with pending := cs }

/-- The engine with the command that a word spells at the front of its queue. DESIGN CHOICE, log 6. -/
def State.withFetchWord (s : State) (nbits w : Nat) : State :=
  match decodeTableWord nbits w with
  | some c => { s with pending := c :: s.pending }
  | none => s

end Sys2Proof.Machine
end

