-- ==== Sys2Proof/Safety.lean ====
section
/-! DEFINITION. What a safe run is, and the terms the statements use. -/

namespace Sys2Proof.Machine

open Sys2Proof

/-- A command completes: it neither faults nor is refused. -/
def Completes (c : Instr) (s : State) : Prop := ∃ t, exec c s = .next t

/-- Every one of the first k steps answers a next state. -/
def SafeRun : Nat → State → Prop
  | 0, _ => True
  | k + 1, s => ∃ t, step s = .next t ∧ SafeRun k t

/-- Every key of a map lies below the next. -/
def rising {α : Type} : Map α → Bool
  | [] => true
  | [_] => true
  | (k, _) :: (j, w) :: m => decide (k < j) && rising ((j, w) :: m)

/-- The addressed memories of the engine hold one entry a key in rising order, and none that says what an unlisted key says:
live registers, shadow registers, core stores, edge stacks with the key and the CRC-32C of each unit,
and exchange memory. -/
structure Canonical (s : State) : Prop where
  live : rising s.live = true
  shadow : rising s.shadow = true
  mem : mwf (fun _ => 0) s.mem = true
  stackMem : rising s.stackMem = true
  stackKey : rising s.stackKey = true
  stackCrc : rising s.stackCrc = true
  exch : mwf (fun _ => 0) s.exch = true

/-! ### Instructions that are offered an issue slot -/

/-- The thread that a command offers a slot. -/
def issThread (i : Issue) (s : State) : Thread := threadAt (coreAt s (coreId i.core)) i.thread.val

/-- The range of handle 0 that the fetch reads. -/
def fetchRng (i : Issue) (s : State) : Rng := hrng (hview (coreAt s (coreId i.core)) 0) (issThread i s).pc.toNat 8

/-- What the instruction sees at issue: `q` is the state after the fetch. -/
def issView (i : Issue) (s q : State) : Iss :=
  ⟨coreId i.core, i.thread.val, (issThread i s).pc, wordAtPc s (coreId i.core) (issThread i s).pc.toNat, i.cycle, i.data,
   coreAt q (coreId i.core), issThread i s⟩

/-- The scalar unit offers a READY thread of a running core a slot that is its to take in round-robin order, the fetch succeeds with state `q`, and the word fetched is
an instruction with opcode `op` and no reserved bit or encoding (R77, R78, R106, R108). -/
structure Offered (op : Nat) (i : Issue) (s : State) (k : Iss) (q : State) : Prop where
  runs : coreRuns s (coreId i.core) = true
  ready : (issThread i s).st = .ready
  turn : myTurn (coreAt s (coreId i.core)) i.thread.val i.cycle = true
  fetch : fetchFault (coreAt s (coreId i.core)) (fetchAt (issThread i s)) = none
  clear : clearingBank (coreAt s (coreId i.core)) (fetchRng i s) = none
  score : scoreBlock (coreAt s (coreId i.core)) (fetchRng i s) false = none
  read : readCheck (coreId i.core) i.fetch [fetchRng i s] s = (q, none)
  view : k = issView i s q
  opcode : fw k 63 56 = op
  known : opAssigned op = true
  bits0 : k.word.toNat % 2 ^ 56 &&& reservedBits op = 0
  codes : reservedEnc k op = false

/-- The thread continues at an offset after its registers changed by `f`. -/
def retire (k : Iss) (f : Thread → Thread) (pc : BitVec 18) (q : State) : State := issued k.c k.t k.cycle pc (updThread k f q)

/-- The opcode of a command that is an instruction of a thread, and its offer (R107). -/
def instrOf : Instr → Option (Nat × Issue)
  | .add i => some (0x10, i)
  | .sub i => some (0x11, i)
  | .mul i => some (0x12, i)
  | .and_ i => some (0x13, i)
  | .or_ i => some (0x14, i)
  | .xor_ i => some (0x15, i)
  | .shl i => some (0x16, i)
  | .shr i => some (0x17, i)
  | .sar i => some (0x18, i)
  | .min_ i => some (0x19, i)
  | .max_ i => some (0x1A, i)
  | .minu i => some (0x1B, i)
  | .maxu i => some (0x1C, i)
  | .slt i => some (0x1D, i)
  | .sltu i => some (0x1E, i)
  | .addi i => some (0x20, i)
  | .andi i => some (0x23, i)
  | .ori i => some (0x24, i)
  | .xori i => some (0x25, i)
  | .shli i => some (0x26, i)
  | .shri i => some (0x27, i)
  | .sari i => some (0x28, i)
  | .slti i => some (0x2D, i)
  | .lih i => some (0x2F, i)
  | .nop i => some (0x01, i)
  | .halt i => some (0x02, i)
  | .rdsys i => some (0x03, i)
  | .beq i => some (0x30, i)
  | .bne i => some (0x31, i)
  | .blt i => some (0x32, i)
  | .bge i => some (0x33, i)
  | .bltu i => some (0x34, i)
  | .bgeu i => some (0x35, i)
  | .jal i => some (0x38, i)
  | .jr i => some (0x39, i)
  | .ldf i => some (0x40, i)
  | .ldk i => some (0x41, i)
  | .ste i => some (0x42, i)
  | .stf i => some (0x43, i)
  | .empt i => some (0x44, i)
  | .bind i => some (0x48, i)
  | .unbind i => some (0x49, i)
  | .dmq i => some (0x4A, i)
  | .vadd i => some (0x50, i)
  | .vsub i => some (0x51, i)
  | .vmul i => some (0x52, i)
  | .vfma i => some (0x53, i)
  | .vmax i => some (0x54, i)
  | .vmin i => some (0x55, i)
  | .vsum i => some (0x56, i)
  | .vbcast i => some (0x57, i)
  | .vmova i => some (0x58, i)
  | .vmovs i => some (0x59, i)
  | .exp2 i => some (0x5C, i)
  | .rsq i => some (0x5D, i)
  | .mvd i => some (0x60, i)
  | .mma i => some (0x61, i)
  | .mmax i => some (0x62, i)
  | .cvt i => some (0x68, i)
  | .qcf i => some (0x69, i)
  | .topk i => some (0x6A, i)
  | .snd i => some (0x70, i)
  | .sndr i => some (0x71, i)
  | .rdm i => some (0x72, i)
  | .tadd i => some (0x78, i)
  | .tset i => some (0x79, i)
  | .twait i => some (0x7A, i)
  | _ => none

/-- The master whose access of the register window a command is. -/
def barMaster : Instr → Option Master
  | .registerWrite _ m _ _ _ _ => some m
  | .rcRead m _ _ _ => some m
  | .latchRead m _ _ _ => some m
  | .txnAlloc m => some m
  | .blkTxnEnrol m _ _ => some m
  | .blkTxnWithdraw m _ _ => some m
  | .txnArm m => some m
  | .txnArmNow m => some m
  | .txnAbort m => some m
  | .txnRelease m => some m
  | .cawRead m _ => some m
  | .cawWrite m _ => some m
  | .cawDiscard m _ => some m
  | .threadStart m _ _ => some m
  | .threadStop m _ _ => some m
  | .coreReset m _ => some m
  | .tagInit m _ _ _ => some m
  | .tallyCmdAdd m _ _ => some m
  | .tallyCmdSet m _ _ => some m
  | .flushWaits m _ => some m
  | .flushMerge m _ => some m
  | .flushReduce m _ => some m
  | .chStart m _ _ => some m
  | .chAbort m _ _ => some m
  | .hdClear m _ => some m
  | .hdMarkWrite m _ => some m
  | .hdMarkClear m _ => some m
  | .load m _ => some m
  | .install m _ => some m
  | .release m => some m
  | .unload m => some m
  | .adInstall m _ => some m
  | .adRetire m => some m
  | .stCmdEnd m => some m
  | .stSel m _ => some m
  | .pxSel m _ => some m
  | .flushModel m => some m
  | .specSel m _ => some m
  | .irqStatusClear m _ => some m
  | .retrain m _ => some m
  | .rtCopy m _ => some m
  | .mbSubmit m => some m
  | .mbReset m => some m
  | .mbData m _ => some m
  | .reclose m _ _ => some m
  | .cal m _ => some m
  | .calCover m _ => some m
  | .fwActivate m _ => some m
  | .fwRestart m _ _ => some m
  | _ => none

/-- What a command may change at most, given back as before: `giveBack s i` puts the parts of the engine that command `i` may change
back to their values in `s`. For every other command the statements say nothing here. -/
def giveBack (s : State) (i : Instr) : Option (State → State) :=
  match i with
  | .candLockTimeout .. =>
    some fun t => { t with beat := s.beat }
  | .telRepeat .. | .injectedTrigger .. =>
    some fun t => { t with convs := s.convs }
  | .threadWake .. | .mvdResult .. | .arrayStreamEnd .. | .bankClearDone .. =>
    some fun t => { t with cores := s.cores }
  | .vcoreStageEnd .. | .powerRetry .. | .clockStepDone .. | .currentLimitTimer .. =>
    some fun t => { t with fields := s.fields }
  | .linkRetryTimer .. =>
    some fun t => { t with links := s.links }
  | .inputHigh .. =>
    some fun t => { t with live := s.live }
  | .h2dSnoop .. | .icmpv6Request .. =>
    some fun t => { t with out := s.out }
  | .inputLowClear .. =>
    some fun t => { t with pm := s.pm }
  | .mergeEntryClose .. | .readReplyFanout .. | .flitParityError .. =>
    some fun t => { t with routers := s.routers }
  | .rebind .. =>
    some fun t => { t with serving := s.serving }
  | .servicePortLink .. =>
    some fun t => { t with sp := s.sp }
  | .spSessionTimeout .. =>
    some fun t => { t with boot := s.boot, sp := s.sp }
  | .spargeVisit .. =>
    some fun t => { t with cores := s.cores, recov := s.recov }
  | .cacheMissFill .. | .tallyWakeReply .. | .tallyRegRetry .. =>
    some fun t => { t with cores := s.cores, routers := s.routers }
  | .kilnEntryDone .. =>
    some fun t => { t with fieldUnits := s.fieldUnits, fields := s.fields }
  | .startupFieldsTimeout .. =>
    some fun t => { t with live := s.live, boot := s.boot }
  | .phaseRetryTimer .. | .thermalEval .. =>
    some fun t => { t with live := s.live, fields := s.fields }
  | .hdmAccess .. =>
    some fun t => { t with out := s.out, exch := s.exch }
  | .hostLinkUp .. | .msixUnmask .. =>
    some fun t => { t with out := s.out, host := s.host }
  | .linkTrainDone .. | .hsKem .. | .delayReqSend .. =>
    some fun t => { t with out := s.out, links := s.links }
  | .powerOnValid .. =>
    some fun t => { t with pm := s.pm, boot := s.boot }
  | .adapterSlotFree .. =>
    some fun t => { t with weights := s.weights, serving := s.serving }
  | .cacheWriteback .. =>
    some fun t => { t with cores := s.cores, routers := s.routers, recov := s.recov }
  | .hqPermitRelease .. =>
    some fun t => { t with live := s.live, cores := s.cores, fieldUnits := s.fieldUnits }
  | .cawRead .. | .specSel .. | .irqStatusClear .. | .hostLinkRecovery .. =>
    some fun t => { t with live := s.live, out := s.out, host := s.host }
  | .doeRequest .. | .doeAbort .. | .getKemKey .. | .getCerts .. | .sessionOpen .. | .sessionClose .. =>
    some fun t => { t with live := s.live, out := s.out, sec := s.sec }
  | .recordRead .. | .malformedDatagram .. =>
    some fun t => { t with live := s.live, out := s.out, sp := s.sp }
  | .epochDrainRelease .. =>
    some fun t => { t with live := s.live, weights := s.weights, serving := s.serving }
  | .reqEnd .. =>
    some fun t => { t with weights := s.weights, serving := s.serving, sec := s.sec }
  | .mbData .. =>
    some fun t => { t with busOut := s.busOut, out := s.out, host := s.host, sec := s.sec }
  | .dmaDescEnd .. =>
    some fun t => { t with cores := s.cores, credits := s.credits, routers := s.routers, recov := s.recov }
  | .stageBegin .. =>
    some fun t => { t with live := s.live, out := s.out, boot := s.boot, sp := s.sp }
  | .threadStart .. | .threadStop .. | .coreReset .. | .tagInit .. =>
    some fun t => { t with live := s.live, out := s.out, cores := s.cores, host := s.host }
  | .hdClear .. | .hdMarkClear .. =>
    some fun t => { t with live := s.live, out := s.out, fieldUnits := s.fieldUnits, host := s.host }
  | .hostLinkTrain .. =>
    some fun t => { t with live := s.live, out := s.out, freeCount := s.freeCount, host := s.host }
  | .ideKeys .. | .mbReset .. =>
    some fun t => { t with live := s.live, out := s.out, host := s.host, sec := s.sec }
  | .flushMerge .. | .flushReduce .. =>
    some fun t => { t with live := s.live, out := s.out, routers := s.routers, host := s.host }
  | .stSel .. | .pxSel .. =>
    some fun t => { t with live := s.live, out := s.out, serving := s.serving, host := s.host }
  | .tenantBind .. | .tenantUnbind .. =>
    some fun t => { t with live := s.live, out := s.out, stk := s.stk, sec := s.sec }
  | .loadThreadStart .. =>
    some fun t => { t with live := s.live, shadow := s.shadow, cores := s.cores, weights := s.weights }
  | .selection .. =>
    some fun t => { t with live := s.live, weights := s.weights, serving := s.serving, sec := s.sec }
  | .txnAlloc .. =>
    some fun t => { t with out := s.out, groups := s.groups, groupSel := s.groupSel, host := s.host }
  | .outputCollect .. =>
    some fun t => { t with live := s.live, cores := s.cores, routers := s.routers, weights := s.weights, serving := s.serving }
  | .chAbort .. =>
    some fun t => { t with live := s.live, out := s.out, credits := s.credits, stk := s.stk, host := s.host }
  | .cawWrite .. | .cawDiscard .. =>
    some fun t => { t with live := s.live, out := s.out, freeCount := s.freeCount, cores := s.cores, host := s.host }
  | .hdMarkWrite .. =>
    some fun t => { t with live := s.live, out := s.out, freeCount := s.freeCount, fieldUnits := s.fieldUnits, host := s.host }
  | .blkTxnEnrol .. | .blkTxnWithdraw .. | .txnRelease .. =>
    some fun t => { t with live := s.live, out := s.out, freeCount := s.freeCount, groups := s.groups, host := s.host }
  | .floorMapRetry .. | .fwActivate .. =>
    some fun t => { t with live := s.live, out := s.out, freeCount := s.freeCount, host := s.host, boot := s.boot }
  | .cal .. | .calCover .. =>
    some fun t => { t with live := s.live, out := s.out, freeCount := s.freeCount, host := s.host, convs := s.convs }
  | .reclose .. | .telemStale .. =>
    some fun t => { t with live := s.live, out := s.out, freeCount := s.freeCount, host := s.host, fields := s.fields }
  | .inputLow .. | .coolantLow .. =>
    some fun t => { t with live := s.live, out := s.out, freeCount := s.freeCount, host := s.host, pm := s.pm }
  | .rtCopy .. =>
    some fun t => { t with live := s.live, out := s.out, freeCount := s.freeCount, host := s.host, routes := s.routes }
  | .ideCheckFail .. | .mbSubmit .. =>
    some fun t => { t with live := s.live, out := s.out, freeCount := s.freeCount, host := s.host, sec := s.sec }
  | .hostPoll .. =>
    some fun t => { t with live := s.live, out := s.out, freeCount := s.freeCount, serving := s.serving, host := s.host }
  | .chStart .. =>
    some fun t => { t with live := s.live, out := s.out, freeCount := s.freeCount, stk := s.stk, host := s.host }
  | .adRetire .. =>
    some fun t => { t with live := s.live, out := s.out, freeCount := s.freeCount, weights := s.weights, host := s.host }
  | .connSuspect .. =>
    some fun t => { t with live := s.live, out := s.out, host := s.host, pm := s.pm, recov := s.recov }
  | .flushModel .. =>
    some fun t => { t with live := s.live, out := s.out, weights := s.weights, serving := s.serving, host := s.host }
  | .arrayStagingDone .. | .edgeOccupancyEnd .. =>
    some fun t => { t with live := s.live, out := s.out, cores := s.cores, badParity := s.badParity, host := s.host, recov := s.recov }
  | .arrayPassCheck .. =>
    some fun t => { t with live := s.live, out := s.out, cores := s.cores, fieldUnits := s.fieldUnits, host := s.host, recov := s.recov }
  | .flushWaits .. =>
    some fun t => { t with live := s.live, out := s.out, cores := s.cores, waits := s.waits, routers := s.routers, host := s.host }
  | .stageData .. | .stageEnd .. | .spActivate .. =>
    some fun t => { t with live := s.live, out := s.out, freeCount := s.freeCount, host := s.host, boot := s.boot, sp := s.sp }
  | .phaseCleanTimer .. =>
    some fun t => { t with live := s.live, out := s.out, freeCount := s.freeCount, host := s.host, fields := s.fields, recov := s.recov }
  | .getReport .. =>
    some fun t => { t with live := s.live, out := s.out, freeCount := s.freeCount, host := s.host, sec := s.sec, boot := s.boot }
  | .release .. =>
    some fun t => { t with live := s.live, out := s.out, freeCount := s.freeCount, weights := s.weights, serving := s.serving, host := s.host }
  | .stCmdEnd .. =>
    some fun t => { t with live := s.live, out := s.out, weights := s.weights, serving := s.serving, host := s.host, sec := s.sec }
  | .beatRestart .. =>
    some fun t => { t with live := s.live, shadow := s.shadow, out := s.out, beat := s.beat, cores := s.cores, host := s.host }
  | .txnValidationDone .. =>
    some fun t => { t with live := s.live, shadow := s.shadow, out := s.out, groups := s.groups, cores := s.cores, host := s.host }
  | .mvdStreamEnd .. =>
    some fun t => { t with live := s.live, out := s.out, cores := s.cores, badParity := s.badParity, routers := s.routers, host := s.host, recov := s.recov }
  | .arrayDrainDone .. =>
    some fun t => { t with live := s.live, out := s.out, cores := s.cores, mem := s.mem, badParity := s.badParity, host := s.host, recov := s.recov }
  | .flitReplay .. =>
    some fun t => { t with live := s.live, out := s.out, cores := s.cores, routers := s.routers, host := s.host, links := s.links, recov := s.recov }
  | .conversionDone .. =>
    some fun t => { t with live := s.live, out := s.out, freeCount := s.freeCount, host := s.host, fields := s.fields, convs := s.convs, recov := s.recov }
  | .hsHello .. | .signBucketRefill .. =>
    some fun t => { t with live := s.live, out := s.out, freeCount := s.freeCount, host := s.host, links := s.links, sec := s.sec, boot := s.boot }
  | .unload .. =>
    some fun t => { t with live := s.live, out := s.out, freeCount := s.freeCount, weights := s.weights, serving := s.serving, host := s.host, sec := s.sec }
  | .txnArm .. | .txnArmNow .. | .txnAbort .. =>
    some fun t => { t with live := s.live, shadow := s.shadow, out := s.out, freeCount := s.freeCount, groups := s.groups, cores := s.cores, host := s.host }
  | .rcRead .. | .latchRead .. =>
    some fun t => { t with live := s.live, busOut := s.busOut, out := s.out, freeCount := s.freeCount, beat := s.beat, host := s.host, sec := s.sec, recov := s.recov }
  | .edgeResultReady .. =>
    some fun t => { t with live := s.live, out := s.out, cores := s.cores, mem := s.mem, badParity := s.badParity, routers := s.routers, host := s.host, recov := s.recov }
  | .flushReadReply .. =>
    some fun t => { t with live := s.live, out := s.out, cores := s.cores, routers := s.routers, links := s.links, clIns := s.clIns, clFlushed := s.clFlushed, leaving := s.leaving }
  | .pclWr .. | .pclRd .. =>
    some fun t => { t with live := s.live, out := s.out, cores := s.cores, routers := s.routers, links := s.links, clIns := s.clIns, nextTag := s.nextTag, leaving := s.leaving }
  | .tallyRegistration .. =>
    some fun t => { t with live := s.live, out := s.out, cores := s.cores, waits := s.waits, tallyIn := s.tallyIn, routers := s.routers, stk := s.stk, host := s.host }
  | .powerWindowEnd .. =>
    some fun t => { t with live := s.live, out := s.out, freeCount := s.freeCount, cores := s.cores, fieldUnits := s.fieldUnits, host := s.host, fields := s.fields, pm := s.pm }
  | .reduceAtOwner .. =>
    some fun t => { t with live := s.live, out := s.out, freeCount := s.freeCount, cores := s.cores, routers := s.routers, host := s.host, links := s.links, recov := s.recov }
  | .install .. | .adInstall .. =>
    some fun t => { t with live := s.live, out := s.out, freeCount := s.freeCount, weights := s.weights, host := s.host, links := s.links, clReqs := s.clReqs, nextTag := s.nextTag }
  | .stepComplete .. =>
    some fun t => { t with live := s.live, out := s.out, freeCount := s.freeCount, weights := s.weights, serving := s.serving, host := s.host, exch := s.exch, sec := s.sec }
  | .spHello .. =>
    some fun t => { t with live := s.live, busOut := s.busOut, out := s.out, freeCount := s.freeCount, beat := s.beat, host := s.host, sec := s.sec, recov := s.recov, sp := s.sp }
  | .tallyAdd .. | .tallySet .. =>
    some fun t => { t with live := s.live, out := s.out, cores := s.cores, tallies := s.tallies, waits := s.waits, tallyIn := s.tallyIn, routers := s.routers, fieldUnits := s.fieldUnits, host := s.host }
  | .chDescEnd .. =>
    some fun t => { t with live := s.live, out := s.out, freeCount := s.freeCount, cores := s.cores, credits := s.credits, routers := s.routers, stk := s.stk, host := s.host, recov := s.recov }
  | .tallyCmdAdd .. | .tallyCmdSet .. =>
    some fun t => { t with live := s.live, out := s.out, freeCount := s.freeCount, cores := s.cores, tallies := s.tallies, waits := s.waits, routers := s.routers, fieldUnits := s.fieldUnits, host := s.host }
  | .hostReadData .. | .hostWriteObserved .. | .hostRequestError .. | .hostRequestTimeout .. =>
    some fun t => { t with live := s.live, out := s.out, freeCount := s.freeCount, cores := s.cores, routers := s.routers, stk := s.stk, notices := s.notices, weights := s.weights, serving := s.serving, host := s.host, exch := s.exch }
  | .hostLinkDown .. =>
    some fun t => { t with live := s.live, out := s.out, freeCount := s.freeCount, cores := s.cores, routers := s.routers, stk := s.stk, notices := s.notices, weights := s.weights, serving := s.serving, host := s.host, exch := s.exch, sec := s.sec }
  | .stackReadRequest .. =>
    some fun t => { t with live := s.live, out := s.out, freeCount := s.freeCount, cores := s.cores, routers := s.routers, stk := s.stk, stackMem := s.stackMem, stackKey := s.stackKey, stackCrc := s.stackCrc, notices := s.notices, weights := s.weights, host := s.host, recov := s.recov, sp := s.sp }
  | .chDescFetch .. | .chWaitRelease .. | .chPoolSpace .. =>
    some fun t => { t with live := s.live, out := s.out, freeCount := s.freeCount, cores := s.cores, credits := s.credits, routers := s.routers, stk := s.stk, stackMem := s.stackMem, stackKey := s.stackKey, stackCrc := s.stackCrc, notices := s.notices, weights := s.weights, host := s.host, recov := s.recov, sp := s.sp }
  | .linkDataFlit .. | .linkCredit .. | .linkAck .. | .linkNak .. | .delayReq .. | .delayRsp .. =>
    some fun t => { t with live := s.live, out := s.out, freeCount := s.freeCount, beat := s.beat, cores := s.cores, routers := s.routers, stk := s.stk, linkIn := s.linkIn, weights := s.weights, host := s.host, links := s.links, clReqs := s.clReqs, clIns := s.clIns, nextTag := s.nextTag, clFlushed := s.clFlushed, leaving := s.leaving, recov := s.recov, sp := s.sp }
  | _ => none

end Sys2Proof.Machine
end

