-- ==== Sys2Proof/Certificates/Slice0/Obligations.lean ====
section
/-! DEFINITION. The statements for the provers. -/

open Sys2Proof Sys2Proof.Machine

/-- A step performs the command at the front of the queue on the engine with the rest of the queue (95_what_each_step_holds). -/
def Obligations.StepRunsFront : Prop :=
  ∀ (c : Instr) (cs : List Instr) (s : State), step { s with pending := c :: cs } = exec c { s with pending := cs }

/-- With no command waiting the engine idles (the model's choice, log entry 2) (95_what_each_step_holds). -/
def Obligations.IdleOnEmptyQueue : Prop :=
  ∀ s : State, s.pending = [] → step s = .next s

/-- Every step keeps the addressed memories canonical and takes exactly one command from the queue (R52, R206, R359). -/
def Obligations.StepKeepsCanonicalMemories : Prop :=
  ∀ s t : State, Canonical s → step s = .next t → Canonical t ∧ t.pending = s.pending.tail

/-- The state after reset is canonical, with no command waiting and no memory written (R105, R77). -/
def Obligations.ResetIsCanonicalAndIdle : Prop :=
  Canonical State.reset ∧ State.reset.pending = [] ∧ State.reset.mem = [] ∧
  ∀ (c t : Nat), let th := threadAt (coreAt State.reset c) t
    th.st = .stopped ∧ th.pc = 0 ∧ ∀ n, regS th n = 0 ∧ regV th n = 0 ∧ regA th n = 0

/-- Each register-register scalar instruction that is offered a slot writes its result to D and goes on at the next word (R113, R105, R110, R112). -/
def Obligations.ScalarRegisterResults : Prop :=
  ∀ (i : Issue) (s q : State) (k : Iss),
    let a := fs k 50 46
    let b : DWord := fs k 45 41
    let d := fun v : DWord => retire k (setS (fw k 55 51) v) (k.pc + 8) q
    (Offered 0x10 i s k q → exec (.add i) s = .next (d (BitVec.ofNat 64 (a.toNat + b.toNat)))) ∧
    (Offered 0x11 i s k q → exec (.sub i) s = .next (d (BitVec.ofInt 64 (a.toInt - b.toInt)))) ∧
    (Offered 0x12 i s k q → exec (.mul i) s = .next (d (BitVec.ofNat 64 (a.toNat * b.toNat)))) ∧
    (Offered 0x13 i s k q → exec (.and_ i) s = .next (d (a &&& b))) ∧
    (Offered 0x14 i s k q → exec (.or_ i) s = .next (d (a ||| b))) ∧
    (Offered 0x15 i s k q → exec (.xor_ i) s = .next (d (a ^^^ b))) ∧
    (Offered 0x16 i s k q → exec (.shl i) s = .next (d (BitVec.ofNat 64 (2 ^ (b.toNat % 64) * a.toNat)))) ∧
    (Offered 0x17 i s k q → exec (.shr i) s = .next (d (BitVec.ofNat 64 (a.toNat / 2 ^ (b.toNat % 64))))) ∧
    (Offered 0x18 i s k q → exec (.sar i) s = .next (d (BitVec.ofInt 64 (a.toInt / 2 ^ (b.toNat % 64))))) ∧
    (Offered 0x19 i s k q → exec (.min_ i) s = .next (d (if a.toInt < b.toInt then a else b))) ∧
    (Offered 0x1A i s k q → exec (.max_ i) s = .next (d (if a.toInt < b.toInt then b else a))) ∧
    (Offered 0x1B i s k q → exec (.minu i) s = .next (d (if a.toNat < b.toNat then a else b))) ∧
    (Offered 0x1C i s k q → exec (.maxu i) s = .next (d (if a.toNat < b.toNat then b else a))) ∧
    (Offered 0x1D i s k q → exec (.slt i) s = .next (d (if a.toInt < b.toInt then 1 else 0))) ∧
    (Offered 0x1E i s k q → exec (.sltu i) s = .next (d (if a.toNat < b.toNat then 1 else 0)))

/-- Immediate scalar instructions, RDSYS, NOP and HALT that are offered a slot have the result and effect of R113 (R113, R105, R110, R448). -/
def Obligations.ScalarImmediateResults : Prop :=
  ∀ (i : Issue) (s q : State) (k : Iss),
    let a := fs k 50 46
    let b : DWord := BitVec.ofInt 64 (sext 32 (fw k 31 0))
    let d := fun v : DWord => retire k (setS (fw k 55 51) v) (k.pc + 8) q
    (Offered 0x20 i s k q → exec (.addi i) s = .next (d (BitVec.ofNat 64 (a.toNat + b.toNat)))) ∧
    (Offered 0x23 i s k q → exec (.andi i) s = .next (d (a &&& b))) ∧
    (Offered 0x24 i s k q → exec (.ori i) s = .next (d (a ||| b))) ∧
    (Offered 0x25 i s k q → exec (.xori i) s = .next (d (a ^^^ b))) ∧
    (Offered 0x26 i s k q → exec (.shli i) s = .next (d (BitVec.ofNat 64 (2 ^ (b.toNat % 64) * a.toNat)))) ∧
    (Offered 0x27 i s k q → exec (.shri i) s = .next (d (BitVec.ofNat 64 (a.toNat / 2 ^ (b.toNat % 64))))) ∧
    (Offered 0x28 i s k q → exec (.sari i) s = .next (d (BitVec.ofInt 64 (a.toInt / 2 ^ (b.toNat % 64))))) ∧
    (Offered 0x2D i s k q → exec (.slti i) s = .next (d (if a.toInt < b.toInt then 1 else 0))) ∧
    (Offered 0x2F i s k q → exec (.lih i) s = .next (d (BitVec.ofNat 64 (2 ^ 32 * fw k 31 0 + a.toNat % 2 ^ 32)))) ∧
    (Offered 0x03 i s k q → fw k 31 0 = 0 → exec (.rdsys i) s = .next (d (BitVec.ofNat 64 (coreId i.core)))) ∧
    (Offered 0x03 i s k q → fw k 31 0 = 1 → exec (.rdsys i) s = .next (d (BitVec.ofNat 64 i.thread.val))) ∧
    (Offered 0x03 i s k q → fw k 31 0 = 2 → exec (.rdsys i) s = .next (d i.cycle)) ∧
    (Offered 0x03 i s k q → fw k 31 0 = 3 → exec (.rdsys i) s = .next (d (BitVec.ofNat 64 s.beat.now.toNat))) ∧
    (Offered 0x03 i s k q → fw k 31 0 = 4 → exec (.rdsys i) s = .next (d (BitVec.ofNat 64 (effStep s (coreId i.core / 4096))))) ∧
    (Offered 0x01 i s k q → exec (.nop i) s = .next (issued k.c k.t k.cycle (k.pc + 8) q)) ∧
    (Offered 0x02 i s k q → exec (.halt i) s = .next (retire k (fun th => { th with st := .stopped }) (k.pc + 8) q))

/-- Whatever the instruction, a failing fetch or an ill-encoded word faults its thread, and a thread that cannot issue changes nothing (R77, R78, R79, R106, R108). -/
def Obligations.RejectedInstructionsFaultTheirThread : Prop :=
  ∀ (x : Instr) (op : Nat) (i : Issue) (s : State), instrOf x = some (op, i) →
    let c := coreId i.core
    let t := i.thread.val
    (coreRuns s c = false ∨ (issThread i s).st ≠ .ready ∨ myTurn (coreAt s c) t i.cycle = false → exec x s = .next s) ∧
    (∀ e, coreRuns s c = true → (issThread i s).st = .ready → myTurn (coreAt s c) t i.cycle = true →
      fetchFault (coreAt s c) (fetchAt (issThread i s)) = some e →
      exec x s = .next (faultThread c t e s)) ∧
    (∀ q, coreRuns s c = true → (issThread i s).st = .ready → myTurn (coreAt s c) t i.cycle = true →
      fetchFault (coreAt s c) (fetchAt (issThread i s)) = none →
      clearingBank (coreAt s c) (fetchRng i s) = none → scoreBlock (coreAt s c) (fetchRng i s) false = none →
      readCheck c i.fetch [fetchRng i s] s = (q, none) →
      (opAssigned (fw (issView i s q) 63 56) = false ∨ (fw (issView i s q) 63 56 = op ∧
        ((issView i s q).word.toNat % 2 ^ 56 &&& reservedBits op ≠ 0 ∨ reservedEnc (issView i s q) op = true))) →
      exec x s = .next (faultThread c t E.illegalOp q)) ∧
    (∀ (e : Code) (q : State), let y := coreAt (faultThread c t e q) c
      threadAt y t = { threadAt (coreAt q c) t with st := .faulted, wait := .none, met := false } ∧
      y.coreErr = (if bit (coreAt q c).coreErr 63 then (coreAt q c).coreErr
        else BitVec.ofNat 64 (2 ^ 63 + 2 ^ 32 * e.toNat + 2 ^ 24 * t + (threadAt (coreAt q c) t).pc.toNat)) ∧
      y.handles = (coreAt q c).handles ∧ (faultThread c t e q).mem = q.mem)

/-- Branches and jumps offered a slot go to the target of R114 or the next word; a misaligned one is rejected with ALIGN_FAULT (R114). -/
def Obligations.BranchesAndJumps : Prop :=
  ∀ (i : Issue) (s q : State) (k : Iss),
    let a := fs k 50 46
    let b := fs k 45 41
    let imm := sext 32 (fw k 31 0)
    let c := coreId i.core
    let rel := k.pc.toNat + imm
    let far : Int := (BitVec.ofInt 64 (a.toInt + imm)).toNat
    let goto := fun p : Bool => if p then retire k (landAt rel) (BitVec.ofInt 18 rel) q else issued k.c k.t k.cycle (k.pc + 8) q
    let link := fun v th => landAt v (setS (fw k 55 51) (BitVec.ofNat 64 (k.pc + 8).toNat) th)
    let bad := faultThread c i.thread.val E.alignFault q
    (imm % 8 = 0 →
      (Offered 0x30 i s k q → exec (.beq i) s = .next (goto (a == b))) ∧
      (Offered 0x31 i s k q → exec (.bne i) s = .next (goto (a != b))) ∧
      (Offered 0x32 i s k q → exec (.blt i) s = .next (goto (decide (a.toInt < b.toInt)))) ∧
      (Offered 0x33 i s k q → exec (.bge i) s = .next (goto (decide (b.toInt ≤ a.toInt)))) ∧
      (Offered 0x34 i s k q → exec (.bltu i) s = .next (goto (decide (a.toNat < b.toNat)))) ∧
      (Offered 0x35 i s k q → exec (.bgeu i) s = .next (goto (decide (b.toNat ≤ a.toNat)))) ∧
      (Offered 0x38 i s k q → exec (.jal i) s = .next (retire k (link rel) (BitVec.ofInt 18 rel) q))) ∧
    (far % 8 = 0 → Offered 0x39 i s k q → exec (.jr i) s = .next (retire k (link far) (BitVec.ofInt 18 far) q)) ∧
    (imm % 8 ≠ 0 →
      (Offered 0x30 i s k q → exec (.beq i) s = .next bad) ∧ (Offered 0x31 i s k q → exec (.bne i) s = .next bad) ∧
      (Offered 0x32 i s k q → exec (.blt i) s = .next bad) ∧ (Offered 0x33 i s k q → exec (.bge i) s = .next bad) ∧
      (Offered 0x34 i s k q → exec (.bltu i) s = .next bad) ∧ (Offered 0x35 i s k q → exec (.bgeu i) s = .next bad) ∧
      (Offered 0x38 i s k q → exec (.jal i) s = .next bad)) ∧
    (far % 8 ≠ 0 → Offered 0x39 i s k q → exec (.jr i) s = .next bad) ∧
    (∀ x op, instrOf x = some (op, i) → coreRuns s c = true → (issThread i s).st = .ready → myTurn (coreAt s c) i.thread.val i.cycle = true →
      let h := hview (coreAt s c) 0
      h.valid = true → h.rd = true → h.tagged = false → (h.cls = 0 ∨ h.cls = 1) → fetchAt (issThread i s) % 8 = 0 →
      h.ext < fetchAt (issThread i s) + 8 → exec x s = .next (faultThread c i.thread.val E.lenOverrun s)) ∧
    (∀ th : Thread, (landAt rel th).beyond = decide (rel < 0 ∨ 2 ^ 18 ≤ rel)) ∧
    (∀ th : Thread, th.beyond = true → fetchAt th % 8 = 0 ∧ ∀ h : HView, h.ext < 2 ^ 18 → h.ext < fetchAt th + 8)

/-- Each vector instruction that is offered a slot writes its lanes, or its scalar, as R118 gives them (R118, R112, R110). -/
def Obligations.VectorResults : Prop :=
  ∀ (i : Issue) (s q : State) (k : Iss),
    let x := fun j => lane (regV k.th (fw k 51 48)) j
    let y := fun j => lane (regV k.th (fw k 47 44)) j
    let z := fun j => lane (regV k.th (fw k 55 52)) j
    let int := fw k 43 42 = 1
    let d := fun g : Nat → Word => retire k (setV (fw k 55 52) (fromLanes 512 ((List.range 16).map g))) (k.pc + 8) q
    let sc := fun w : Word => retire k (setS (fw k 41 37) (if int then BitVec.ofInt 64 w.toInt else BitVec.ofNat 64 w.toNat)) (k.pc + 8) q
    (Offered 0x50 i s k q → exec (.vadd i) s = .next (d fun j => if int then x j + y j else f32Add (x j) (y j))) ∧
    (Offered 0x51 i s k q → exec (.vsub i) s = .next (d fun j => if int then x j - y j else f32Sub (x j) (y j))) ∧
    (Offered 0x52 i s k q → exec (.vmul i) s = .next (d fun j => if int then x j * y j else f32Mul (x j) (y j))) ∧
    (Offered 0x53 i s k q → exec (.vfma i) s = .next (d fun j => if int then x j * y j + z j else f32Fma (x j) (y j) (z j))) ∧
    (Offered 0x54 i s k q → exec (.vmax i) s =
      .next (d fun j => if int then (if (x j).toInt < (y j).toInt then y j else x j) else f32Max (x j) (y j))) ∧
    (Offered 0x55 i s k q → exec (.vmin i) s =
      .next (d fun j => if int then (if (x j).toInt < (y j).toInt then x j else y j) else f32Min (x j) (y j))) ∧
    (Offered 0x56 i s k q → exec (.vsum i) s =
      .next (sc (((List.range 15).map fun j => x (j + 1)).foldl (fun a b => if int then a + b else f32Add a b) (x 0)))) ∧
    (Offered 0x57 i s k q → exec (.vbcast i) s = .next (d fun _ => BitVec.ofNat 32 ((fs k 41 37).toNat % 2 ^ 32))) ∧
    (Offered 0x58 i s k q → accPending k (fw k 36 35) = false →
      exec (.vmova i) s = .next (d fun j => lane (regA k.th (fw k 36 35)) (16 * fw k 34 33 + j))) ∧
    (Offered 0x59 i s k q → exec (.vmovs i) s = .next (sc (x (fw k 3 0)))) ∧
    (Offered 0x5C i s k q → exec (.exp2 i) s = .next (d fun j => f32Exp2 (x j))) ∧
    (Offered 0x5D i s k q → exec (.rsq i) s = .next (d fun j => f32Rsq (x j)))

/-- LDF, LDK and EMPT that pass their checks and find nothing to wait for load, keep memory, and LDF and EMPT empty the tagged slots (R70, R71, R82, R115, R206). -/
def Obligations.LoadsWriteTheirRegister : Prop :=
  ∀ (i : Issue) (s q : State) (k : Iss),
    let u := fun ldf => memUse k (memSize k) false (some true) ldf
    let e := memUse k (fn k 42 38) false (some true) true
    let reg := fun (l : List Byte) (th : Thread) =>
      if fw k 55 54 = 0 then setS (fw k 42 38) (BitVec.ofNat 64 (leNat l)) th else setV (fw k 41 38) (BitVec.ofNat 512 (leNat l)) th
    let done := fun (ldf : Bool) (t : State) =>
      threadAt (coreAt t k.c) k.t = { reg (useBytes k.c (u ldf) q) (threadAt (coreAt q k.c) k.t) with pc := k.pc + 8 } ∧
      (∀ a, mget 0 t.mem a = mget 0 q.mem a) ∧ t.stackMem = q.stackMem
    (Offered 0x40 i s k q → memCheck k (u true) true false true none = none → gate k.c [u true] q = none → useCheck k.c i.data [u true] q = (q, none) →
      ∃ t, exec (.ldf i) s = .next t ∧ done true t ∧ allEmpty (coreAt t k.c) (useRng (u true)) = true) ∧
    (Offered 0x41 i s k q → memCheck k (u false) true false false none = none → gate k.c [u false] q = none → useCheck k.c i.data [u false] q = (q, none) →
      ∃ t, exec (.ldk i) s = .next t ∧ done false t ∧ (coreAt t k.c).full = (coreAt q k.c).full) ∧
    (Offered 0x44 i s k q → memCheck k e true false true (some (fs k 42 38)) = none → gate k.c [e] q = none →
      ∃ t, exec (.empt i) s = .next t ∧ allEmpty (coreAt t k.c) (useRng e) = true ∧
        threadAt (coreAt t k.c) k.t = { threadAt (coreAt q k.c) k.t with pc := k.pc + 8 } ∧ t.mem = q.mem ∧ t.stackMem = q.stackMem)

/-- STE and STF that pass their checks and find nothing to wait for write exactly the bytes of their register and fill tagged slots (R70, R71, R82, R115, R206, R105, R212). -/
def Obligations.StoresWriteExactlyTheirBytes : Prop :=
  ∀ (i : Issue) (s q : State) (k : Iss),
    let u := fun ste => memUse k (memSize k) true (if ste then some false else none) true
    let l := if fw k 55 54 = 0 then leBytes 8 (fn k 42 38) else leBytes (memSize k) (regV k.th (fw k 41 38)).toNat
    let done := fun (u : Use) (t : State) =>
      let a := coreAddr k.c (u.h.base + u.off)
      threadAt (coreAt t k.c) k.t = { threadAt (coreAt q k.c) k.t with pc := k.pc + 8 } ∧
      t.stackMem = q.stackMem ∧
      (u.h.cls ≠ 2 → readMem t a (memSize k) = l ∧ ∀ b, b < a ∨ a + memSize k ≤ b → mget 0 t.mem b = mget 0 q.mem b) ∧
      (u.h.cls = 2 → t.mem = q.mem ∧
        (coreAt t k.c).cache = (touchLines (useLines u) (cacheWrite (coreAt q k.c) (u.h.base + u.off) l)).cache) ∧
      (u.h.tagged = true → allFull (coreAt t k.c) (useRng u) = true) ∧
      (u.h.tagged = false → (coreAt t k.c).full = (coreAt q k.c).full)
    (Offered 0x42 i s k q → memCheck k (u true) false true true none = none → gate k.c [u true] q = none → storeCheck k (u true) q = (q, none) →
      ∃ t, exec (.ste i) s = .next t ∧ done (u true) t) ∧
    (Offered 0x43 i s k q → memCheck k (u false) false true false none = none → gate k.c [u false] q = none → storeCheck k (u false) q = (q, none) →
      ∃ t, exec (.stf i) s = .next t ∧ done (u false) t)

/-- BIND makes its sub-range handle, UNBIND invalidates one, DMQ puts its descriptor at the end of the queue with its scoreboard entry (R80, R83, R84, R85, R87, R92, R93, R96, R117). -/
def Obligations.BindUnbindAndEnqueue : Prop :=
  ∀ (i : Issue) (s q : State) (k : Iss),
    let src := fh k 49 44
    let off := fn k 43 39
    let len := fn k 38 34
    let dst := fw k 55 50
    let w0 := fs k 50 46
    let w1 := fs k 45 41
    let d := descOf k.x w0 w1
    let goesOn := fun t : State =>
      threadAt (coreAt t k.c) k.t = { threadAt (coreAt q k.c) k.t with pc := k.pc + 8 } ∧ t.mem = q.mem ∧ t.stackMem = q.stackMem
    (Offered 0x48 i s k q → bindCheck k = none → fs k 38 34 = 0 → exec (.bind i) s = .next (issued k.c k.t k.cycle (k.pc + 8) q)) ∧
    (Offered 0x48 i s k q → bindCheck k = none → fs k 38 34 ≠ 0 →
      (if src.cls = 2 then src.base + src.ext ≤ 2 ^ 42 else src.base + src.ext ≤ 0x30000) →
      ∃ t, exec (.bind i) s = .next t ∧ goesOn t ∧
        hview (coreAt t k.c) dst = ⟨true, fw k 33 33 == 1, fw k 32 32 == 1, src.tagged, src.cls, len, src.base + off⟩ ∧
        ∀ h, h ≠ dst → hview (coreAt t k.c) h = hview (coreAt q k.c) h) ∧
    (Offered 0x49 i s k q → 48 ≤ dst →
      ∃ t, exec (.unbind i) s = .next t ∧ goesOn t ∧
        hview (coreAt t k.c) dst = { hview (coreAt q k.c) dst with valid := false } ∧
        ∀ h, h ≠ dst → hview (coreAt t k.c) h = hview (coreAt q k.c) h) ∧
    (Offered 0x49 i s k q → dst < 48 → exec (.unbind i) s = .next (faultThread (coreId i.core) i.thread.val E.handleKind q)) ∧
    (Offered 0x4A i s k q → dmqCheck k.x w0 w1 = none → dmqBlock k.x d = none → d.len ≠ 0 →
      ∃ t, exec (.dmq i) s = .next t ∧ goesOn t ∧
        (coreAt t k.c).dmq = (coreAt q k.c).dmq ++ [d] ∧
        (coreAt t k.c).score = (coreAt q k.c).score ++
          (if d.op ≤ 2 ∧ d.tagged = false then [⟨d.id, d.op == 1, rngOf false d.loc d.len⟩] else []) ∧
        d.op = bits w0 63 60 ∧ d.off = bits w0 37 20 ∧ d.len = bits w0 19 0 ∧ d.remote = w1 ∧
        d.loc = (hview k.x (bits w0 59 54)).base + bits w0 37 20 ∧ (coreAt t k.c).handles = (coreAt q k.c).handles) ∧
    (Offered 0x4A i s k q → dmqCheck k.x w0 w1 = none → dmqBlock k.x d = none → d.len = 0 →
      exec (.dmq i) s = .next (issued k.c k.t k.cycle (k.pc + 8) (sendNotify k.c k.c (bit w0 38) (bits w0 53 39) q)))

/-- MVD, MMA, MMAX, CVT, QCF and TOPK that pass their checks and find room take the last unit entry with their ranges; one of no elements is a no-op (R108, R110, R119, R120, R121, R122, R124, R125, R126, R143, R148, R173). -/
def Obligations.UnitInstructionsTakeTheirEntry : Prop :=
  ∀ (i : Issue) (s q : State) (k : Iss),
    let skip := Host.Outcome.next (issued k.c k.t k.cycle (k.pc + 8) q)
    let takes := fun (strip : UnitEntry → UnitEntry) (kind : UnitKind) (ph : UPhase) (srcs : List Use) (t : State) =>
      (∃ e, (coreAt t k.c).units.map strip = ((coreAt q k.c).units ++ [e]).map strip ∧ e.kind = kind ∧ e.word = k.word ∧ e.thread = k.t ∧ e.pc = k.pc ∧
        e.phase = ph ∧ e.srcs = srcs.map useRng) ∧
      threadAt (coreAt t k.c) k.t = { threadAt (coreAt q k.c) k.t with pc := k.pc + 8 } ∧
      t.mem = q.mem ∧ t.stackMem = q.stackMem ∧ (coreAt t k.c).full = (coreAt q k.c).full
    let mv := (k.x.units.filter fun u => u.kind == .mv && (u.phase == .queued || u.phase == .running))
    let ed := (k.x.units.filter fun u => u.kind == .edge && (u.phase == .queued || u.phase == .running))
    let ar := k.x.units.filter inArray
    let roomA := gate k.c (arrayUses k) q = none ∧ ar.length < 2 ∧ k.x.units.length < 8 ∧
      (ar.any fun u => u.again && !u.active) = false ∧ (unitsOf q (k.c / 4096)).permits.contains k.c = true
    let phA : UPhase := if buffersUsed k.x < 2 ∧ (ar.any fun u => u.phase == .running) = false then .running else .queued
    let srcA := (arrayUses k).take (if arrayAcc k.word then 3 else 2)
    let roomE := fun uses : List Use => gateLines k.c uses ((uses.filter fun u => !u.write).flatMap useLines) q = none ∧
      ed.length < 2 ∧ k.x.units.length < 8 ∧
      useCheck k.c i.data ((uses.filter fun u => !u.write).filter (·.h.cls == 2)) q = (q, none)
    (Offered 0x60 i s k q → mvdCheck k = none → fn k 26 22 = 0 → exec (.mvd i) s = skip) ∧
    (Offered 0x60 i s k q → mvdCheck k = none → fn k 26 22 ≠ 0 → accPending k (fw k 55 54) = false →
      gateLines k.c (mvdUses k) [] q = none → mv.length < 2 → k.x.units.length < 8 →
      ∃ t, exec (.mvd i) s = .next t ∧ takes (fun u => { u with data := [] }) .mv (if mv = [] then .running else .queued) (mvdUses k) t) ∧
    (Offered 0x61 i s k q → arrayCheck k = none → roomA → ∃ t, exec (.mma i) s = .next t ∧ takes id .array phA srcA t) ∧
    (Offered 0x62 i s k q → arrayCheck k = none → roomA → ∃ t, exec (.mmax i) s = .next t ∧ takes id .array phA srcA t) ∧
    (Offered 0x68 i s k q → cvtCheck k = none → fn k 33 29 = 0 → exec (.cvt i) s = skip) ∧
    (Offered 0x68 i s k q → cvtCheck k = none → fn k 33 29 ≠ 0 → roomE (cvtUses k) → ∃ t, exec (.cvt i) s = .next t ∧
      takes id .edge (if ed = [] then .running else .queued) ((cvtUses k).filter fun u => !u.write) t) ∧
    (Offered 0x69 i s k q → cvtCheck k = none → fn k 33 29 = 0 → exec (.qcf i) s = skip) ∧
    (Offered 0x69 i s k q → cvtCheck k = none → fn k 33 29 ≠ 0 → roomE (cvtUses k) → ∃ t, exec (.qcf i) s = .next t ∧
      takes id .edge (if ed = [] then .running else .queued) ((cvtUses k).filter fun u => !u.write) t) ∧
    (Offered 0x6A i s k q → topkCheck k = none → fn k 28 24 = 0 → exec (.topk i) s = skip) ∧
    (Offered 0x6A i s k q → topkCheck k = none → fn k 28 24 ≠ 0 → roomE (topkUses k) → ∃ t, exec (.topk i) s = .next t ∧
      takes id .edge (if ed = [] then .running else .queued) ((topkUses k).filter fun u => !u.write) t)

/-- SND, SNDR, RDM, TADD, TSET and TWAIT that pass their checks and fit put their message last in the local injection queue; their no-op forms only go on (R72, R110, R127, R128, R129, R130, R131, R133, R134, R182). -/
def Obligations.FabricAndTallyInstructionsSend : Prop :=
  ∀ (i : Issue) (s q : State) (k : Iss),
    let skip := Host.Outcome.next (issued k.c k.t k.cycle (k.pc + 8) q)
    let fits := fun n => injectUsed (coreAt q k.c) + n ≤ 32
    let same := fun t : State => t.mem = q.mem ∧ t.stackMem = q.stackMem ∧ t.tallies = q.tallies ∧ (coreAt t k.c).full = (coreAt q k.c).full
    let goesOn := fun t : State => threadAt (coreAt t k.c) k.t = { threadAt (coreAt q k.c) k.t with pc := k.pc + 8 } ∧ same t
    let sends := fun (m : Msg) (t : State) => (coreAt t k.c).inject = (coreAt q k.c).inject ++ [m] ∧ m.src = k.c
    let v := (tallyVal k).toNat
    (Offered 0x70 i s k q → sndCheck k q = none → fn k 44 40 = 0 → exec (.snd i) s = skip) ∧
    (Offered 0x70 i s k q → sndCheck k q = none → fn k 44 40 ≠ 0 → gate k.c [sndUse k] q = none → useCheck k.c i.data [sndUse k] q = (q, none) →
      fits (1 + fn k 44 40 / 32) →
      ∃ m t, exec (.snd i) s = .next t ∧ goesOn t ∧ sends m t ∧ m.cls = .data ∧ m.addr = fn k 39 35 ∧
        m.payload = useBytes k.c (sndUse k) q ∧ m.tag = (fw k 34 34 == 1) ∧ m.notify = (fw k 33 33 == 1) ∧ m.tally = fw k 32 18) ∧
    (Offered 0x71 i s k q → sndrCheck k q = none → fw k 42 30 = 0 → exec (.sndr i) s = skip) ∧
    (Offered 0x71 i s k q → sndrCheck k q = none → fw k 42 30 ≠ 0 → accPending k (fw k 55 54) = false → fits 9 →
      ∃ m t, exec (.sndr i) s = .next t ∧ goesOn t ∧ sends m t ∧ m.cls = .reduce ∧ m.addr = fn k 52 48 ∧
        m.payload = leBytes 256 (regA k.th (fw k 55 54)).toNat ∧ m.rtag = fn k 47 43 % 2 ^ 16 ∧ m.total = fw k 42 30 ∧
        m.count = 1 ∧ m.lt = (fw k 53 53 == 1) ∧ m.tag = (fw k 29 29 == 1) ∧ m.notify = (fw k 28 28 == 1) ∧ m.tally = fw k 27 13) ∧
    (Offered 0x72 i s k q → rdmCheck k q = none → fn k 44 40 = 0 → exec (.rdm i) s = skip) ∧
    (Offered 0x72 i s k q → rdmCheck k q = none → fn k 44 40 ≠ 0 → gate k.c [rdmUse k] q = none → fits 1 →
      ∃ m t, exec (.rdm i) s = .next t ∧ goesOn t ∧ sends m t ∧ m.cls = .read ∧ m.addr = fn k 39 35 ∧ m.rcore = k.c ∧
        m.rflits = fn k 44 40 / 32 ∧ m.roff = (fh k 55 50).base + fn k 49 45 ∧ m.rtagged = (fh k 55 50).tagged ∧
        m.rnotify = (fw k 34 34 == 1) ∧ m.rtally = fw k 33 19) ∧
    (Offered 0x78 i s k q → taddCheck k = none → v = 0 → exec (.tadd i) s = skip) ∧
    (Offered 0x78 i s k q → taddCheck k = none → v ≠ 0 → fits 1 →
      ∃ m t, exec (.tadd i) s = .next t ∧ goesOn t ∧ sends m t ∧ m.cls = .tally ∧ m.op = .add ∧ m.value = v ∧
        m.tally = (tallyNum k).toNat) ∧
    (Offered 0x79 i s k q → taddCheck k = none → fits 1 →
      ∃ m t, exec (.tset i) s = .next t ∧ goesOn t ∧ sends m t ∧ m.cls = .tally ∧ m.op = .set ∧ m.value = v ∧
        m.tally = (tallyNum k).toNat) ∧
    (Offered 0x7A i s k q → (tallyNum k).toNat < 31744 → fw k 25 25 = 1 → tallyDark q (tallyNum k).toNat = false →
      fenceOwner q k.c (mfind q.tallyOwner (tallyNum k).toNat) = true →
      exec (.twait i) s = .next (retire k (setS (fw k 55 51)
        (BitVec.ofNat 64 (2 ^ 16 * (tallyAt q (tallyNum k).toNat).count.toNat + (tallyAt q (tallyNum k).toNat).epoch.toNat))) (k.pc + 8) q)) ∧
    (Offered 0x7A i s k q → (tallyNum k).toNat < 31744 → fw k 25 25 = 0 → fits 1 →
      ∃ m t, exec (.twait i) s = .next t ∧ same t ∧ sends m t ∧ m.cls = .tally ∧ m.op = .reg ∧ m.tally = (tallyNum k).toNat ∧
        m.epoch.toNat = fn k 45 41 % 2 ^ 16 ∧ m.thread = k.t ∧
        threadAt (coreAt t k.c) k.t = { threadAt (coreAt q k.c) k.t with
          st := .blocked, wait := .tally (tallyNum k).toNat (BitVec.ofNat 16 (fn k 45 41)) (fw k 55 51), met := false })

/-- The frame of every instruction: other cores, other threads' registers and all memory it does not store to (R79, R105, R110, R113, R114, R115, R206). -/
def Obligations.InstructionsLeaveTheRestUnchanged : Prop :=
  ∀ (x : Instr) (op : Nat) (i : Issue) (s t : State), instrOf x = some (op, i) → exec x s = .next t →
    let c := coreId i.core
    let th := issThread i s
    let w := wordAtPc s c th.pc.toNat
    (∀ d, d ≠ c → coreAt t d = coreAt s d) ∧
    (∀ n, n ≠ i.thread.val → let a := threadAt (coreAt t c) n; let b := threadAt (coreAt s c) n
      a.s = b.s ∧ a.v = b.v ∧ a.a = b.a ∧ a.pc = b.pc ∧ a.st = b.st ∧ a.wait = b.wait) ∧
    (∀ a, (op = 0x42 ∨ op = 0x43 → let h := hview (coreAt s c) (bits w 53 48)
        h.cls = 2 ∨ a < coreAddr c (h.base + (regS th (bits w 47 43)).toNat + bits w 37 20) ∨
          coreAddr c (h.base + (regS th (bits w 47 43)).toNat + bits w 37 20) + (if bits w 55 54 = 0 then 8 else if bits w 55 54 = 1 then 32 else 64) ≤ a) →
      mget 0 t.mem a = mget 0 s.mem a) ∧
    t.stackMem = s.stackMem ∧ t.exch = s.exch ∧ t.tallies = s.tallies ∧ t.beat = s.beat ∧ t.serving = s.serving ∧
    t.links = s.links ∧ t.fields = s.fields ∧ t.boot = s.boot ∧ t.pending = s.pending ∧
    (op < 0x40 → let y := issThread i t
      (∀ n, n ≠ bits w 55 51 → regS y n = regS th n) ∧ y.v = th.v ∧ y.a = th.a ∧
      (coreAt t c).handles = (coreAt s c).handles ∧ (coreAt t c).full = (coreAt s c).full ∧ (coreAt t c).dmq = (coreAt s c).dmq ∧
      (coreAt t c).units = (coreAt s c).units)

/-- The events of the MV path, the matrix array and the edge converter form, check, write and retire the entry they concern, and permits pass on (R119, R142, R143, R144, R147, R148, R149, R152, R153, R154, R173, R247). -/
def Obligations.UnitEventsAdvanceEntries : Prop :=
  ∀ (c : CoreRef) (chk : StoreCheck) (errs : List CellError) (s : State) (u : UnitEntry),
    let n := coreId c
    let x := coreAt s n
    fieldOn s n = true →
    let k := (u.vals.getD 0 0).toNat
    let a := u.addrs.getD 0 0
    let act := storeRead s n (u.addrs.getD 1 0) (k + k / 32)
    let formed := fun (w : List Byte) (t : State) => ∃ v, v ∈ (coreAt t n).units ∧ v.id = u.id ∧ v.phase = .formed ∧
      v.lanes = mvdResult x u k w act
    (unitIn x .mv .running = some u → u.srcs.any (·.stack) = false → readCheck n chk u.srcs s = (s, none) →
      ∃ t, exec (.mvdStreamEnd c chk) s = .next t ∧ formed (storeRead s n a (mvdBytes u)) t ∧ t.mem = s.mem) ∧
    (unitIn x .mv .running = some u → u.srcs.any (·.stack) = true → u.data = [] →
      (∀ l ∈ linesOf a (mvdBytes u), (mfind x.cache l).isSome = true) →
      accessCheck n chk u.srcs (linesOf a (mvdBytes u)) (streamAhead n s) = (streamAhead n s, none) →
      ∃ t, exec (.mvdStreamEnd c chk) s = .next t ∧ formed (cacheRead x a (mvdBytes u)) t ∧ t.mem = s.mem) ∧
    (unitIn x .mv .formed = some u →
      ∃ t, exec (.mvdResult c) s = .next t ∧
        regA (threadAt (coreAt t n) u.thread) (bits u.word 55 54) = fromLanes 2048 u.lanes ∧
        (∀ k, k ≠ bits u.word 55 54 → regA (threadAt (coreAt t n) u.thread) k = regA (threadAt x u.thread) k) ∧
        (coreAt t n).units = x.units.filter (fun v => v.id ≠ u.id) ∧ t.mem = s.mem) ∧
    (unitIn x .array .running = some u → readCheck n chk (u.srcs.take 2) s = (s, none) →
      ∃ t v, exec (.arrayStagingDone c chk) s = .next t ∧ v ∈ (coreAt t n).units ∧ v.id = u.id ∧
        (v.phase = .staged ∨ v.phase = .streaming) ∧ v.data.length = 2 ∧ t.mem = s.mem) ∧
    (unitIn x .array .streaming = some u →
      ∃ t v, exec (.arrayStreamEnd c) s = .next t ∧ v ∈ (coreAt t n).units ∧ v.id = u.id ∧ v.phase = .formed ∧ v.active = false ∧
        v.checked = u.checked) ∧
    (checkDue x = some u → cellsAgree (cellsAfter u errs) = true →
      ∃ t v, exec (.arrayPassCheck c errs) s = .next t ∧ v ∈ (coreAt t n).units ∧ v.id = u.id ∧ v.checked = u.checked + 1 ∧
        v.sums = u.sums ++ [passSums (cellsAfter u errs)]) ∧
    (checkDue x = some u → cellsAgree (cellsAfter u errs) = false → u.again = false →
      ∃ t v, exec (.arrayPassCheck c errs) s = .next t ∧ (coreAt t n).units.getLast? = some v ∧ v.id = u.id ∧ v.again = true ∧
        v.word = u.word ∧ v.addrs = u.addrs ∧ v.checked = 0 ∧ (coreAt t n).arrayLast = BitVec.ofNat 64 (2 ^ 63 + 2 ^ 32 * u.pc.toNat + 2 ^ 24 * u.thread + u.checked) ∧ t.mem = s.mem) ∧
    (checkDue x = some u → cellsAgree (cellsAfter u errs) = false → u.again = true →
      ∃ t, exec (.arrayPassCheck c errs) s = .next t ∧ bit (coreAt t n).arrayStat 63 = true ∧
        (threadAt (coreAt t n) u.thread).st = .faulted ∧ t.mem = s.mem) ∧
    ((x.units.find? fun u => u.kind == .array && u.phase == .formed && u.checked == arrayPasses u.word) = some u →
      (arrayAcc u.word = true → readCheck n chk (u.srcs.drop 2) s = (s, none)) →
      let a := coreAddr n (u.addrs.getD 2 0)
      let out := arrayOutput u (storeRead s n (u.addrs.getD 2 0) (arrayOutLen u.word))
      ∃ t, exec (.arrayDrainDone c chk) s = .next t ∧ readMem t a out.length = out ∧
        (∀ b, b < a ∨ a + out.length ≤ b → mget 0 t.mem b = mget 0 s.mem b) ∧
        (∀ v ∈ (coreAt t n).units, v.id ≠ u.id) ∧
        (u.dstTagged = true → ∀ d ∈ u.dst.take 1, allFull (coreAt t n) d = true)) ∧
    (unitIn x .edge .running = some u → readCheck n chk u.srcs s = (s, none) →
      ∃ t v, exec (.edgeOccupancyEnd c chk) s = .next t ∧ v ∈ (coreAt t n).units ∧ v.id = u.id ∧ v.phase = .formed ∧
        v.writes = edgeWrites u (edgeData n u s).1 (edgeData n u s).2 ∧ t.mem = s.mem) ∧
    (unitIn x .edge .formed = some u → u.dst.any (·.stack) = false →
      (∀ w ∈ u.writes, partialCheck n chk w.1 w.2.length s = (s, none)) →
      ∃ t, exec (.edgeResultReady c chk) s = .next t ∧ (∀ v ∈ (coreAt t n).units, v.id ≠ u.id) ∧
        (∀ a l, u.writes = [(a, l)] → readMem t (coreAddr n a) l.length = l ∧
          ∀ b, b < coreAddr n a ∨ coreAddr n a + l.length ≤ b → mget 0 t.mem b = mget 0 s.mem b)) ∧
    ((x.units.any fun u => u.kind == .array && u.phase != .stuck) = false → (unitsOf s (n / 4096)).quotaQ = [] →
      ∃ t, exec (.hqPermitRelease c) s = .next t ∧ (unitsOf t (n / 4096)).permits = without n (unitsOf s (n / 4096)).permits) ∧
    (∀ d, (x.units.any fun u => u.kind == .array && u.phase != .stuck) = false → (unitsOf s (n / 4096)).quotaQ = [d] →
      d / 4096 = n / 4096 → n ∈ (unitsOf s (n / 4096)).permits →
      (without n (unitsOf s (n / 4096)).permits).length < effQuota s (n / 4096) →
      ∃ t, exec (.hqPermitRelease c) s = .next t ∧ d ∈ (unitsOf t (n / 4096)).permits ∧ (unitsOf t (n / 4096)).quotaQ = [])

/-- Wakes, descriptor starts and ends, arrivals, fills, write-backs, bank clears and the sparge do to their core what their rules say (R69, R72, R77, R87, R89, R90, R94, R95, R211, R217, R218, R403). -/
def Obligations.CoreEventsAct : Prop :=
  ∀ (c : CoreRef) (chk : StoreCheck) (s : State),
    let n := coreId c
    let x := coreAt s n
    (∀ t : Fin 16, coreRuns s n = true → (threadAt x t.val).st = .blocked → (threadAt x t.val).met = true →
      exec (.threadWake c t) s =
        .next (setCore n (setThread t.val { threadAt x t.val with st := .ready, wait := .none, met := false } x) s)) ∧
    (∀ d, coreRuns s n = true → (x.dmq.find? fun d => d.active && d.op == 2 && !d.sent && putReady x d != 0) = none →
      (x.dmq.find? fun d => !d.active) = some d → (x.dmq.filter (·.active)).length < 4 → remoteOf s n d = .floor →
      let u := updDesc n d.id (fun d => { d with active := true }) s
      let starts := fun (e : Desc) (t : State) =>
        exec (.dmaDescStart c chk) s = .next t ∧ e ∈ (coreAt t n).dmq ∧ e.id = d.id ∧ e.active = true ∧ t.mem = s.mem ∧ t.credits = s.credits
      (d.op = 1 → ∃ t e, starts e t) ∧
      (d.op = 2 → d.buf = [] → 0 < d.len → putReady x d = d.len → readCheck n chk [rngOf false d.loc d.len] u = (u, none) →
        ∃ t e, starts e t ∧ e.sent = true ∧ e.buf = readMem s (coreAddr n d.loc) d.len)) ∧
    (∀ (j : Fin 4) d, (x.dmq.filter (·.active))[j.val]? = some d → d.left = 0 → d.op = 1 ∨ d.sent = true → d.failed = none →
      ∃ t, exec (.dmaDescEnd c j) s = .next t ∧ (coreAt t n).dmq = x.dmq.filter (fun e => e.id != d.id) ∧
        (coreAt t n).score = x.score.filter (fun e => e.id != d.id) ∧ t.credits = (if d.credit then s.credits - 1 else s.credits) ∧
        t.mem = s.mem) ∧
    (∀ j a code id, s.notices[j]? = some ⟨.desc n id, code, a⟩ →
      ∃ t, exec (.failureNotice j) s = .next t ∧ t.notices = s.notices.eraseIdx j ∧
        ∀ e ∈ (coreAt t n).dmq, e.id = id → e.left = 0 ∧ e.sent = true ∧ e.failed.isSome = true) ∧
    (∀ j a code h off, s.notices[j]? = some ⟨.rdm n h off, code, a⟩ → bit x.dmaErr 63 = false →
      ∃ t, exec (.failureNotice j) s = .next t ∧ t.notices = s.notices.eraseIdx j ∧
        (coreAt t n).dmaErr = BitVec.ofNat 64 (2 ^ 63 + 2 ^ 32 * code.toNat + 2 ^ 20 * h + off % 2 ^ 18)) ∧
    (∀ m l, fieldSt s (n / 4096) = .on → x.eject = m :: l → answersGone s n m.origin = false →
      fenceOwner s m.src (mfind s.owner n) = true → landing x m = .write →
      m.cls ≠ .reduce → let a := coreAddr n (m.addr % 0x40000)
      ∃ t, exec (.fabricArrival c) s = .next t ∧ (l ≠ [] → (coreAt t n).eject = l) ∧ readMem t a m.payload.length = m.payload ∧
        (∀ b, b < a ∨ a + m.payload.length ≤ b → mget 0 t.mem b = mget 0 s.mem b) ∧
        (m.tag = true → allFull (coreAt t n) (arrivalRng m) = true) ∧ (setsTags m = false → (coreAt t n).full = x.full)) ∧
    (∀ line k l, coreRuns s n = true → x.misses.find? (fun q => q.line == line) = some ⟨k, some l⟩ → cacheBanks x ≠ 0 →
      victim x line = none →
      ∃ t e, exec (.cacheMissFill c line) s = .next t ∧ mfind (coreAt t n).cache line = some e ∧ e.dirty = false ∧ e.data = l ∧
        (e.bank, e.row) = linePlace x line ∧ (∀ q ∈ (coreAt t n).misses, q.line ≠ line) ∧
        (unitIn x .mv .running = none → (coreAt t n).misses = x.misses.filter (fun q => q.line != line))) ∧
    (∀ v, coreRuns s n = true → writebackDue x = some v →
      let m := lineMsg n v.1 (.wback n v.1) v.2.data
      (lostHits chk = [] → exec (.cacheWriteback c chk) s = .next (injectEngine n m (updCore n (dropLine v.1) s))) ∧
      (∀ h l, lostHits chk = h :: l → exec (.cacheWriteback c chk) s = .next (loseLine n v.1 h s) ∧
        mfind (coreAt (loseLine n v.1 h s) n).cache v.1 = none) ∧
      mfind (coreAt (updCore n (dropLine v.1) s) n).cache v.1 = none ∧
      m.cls = .data ∧ m.addr = 0x100000000000 + 256 * v.1 ∧ m.payload = v.2.data) ∧
    (∀ b : Fin 12, ∃ t, exec (.bankClearDone c b) s = .next t ∧ (coreAt t n).clearing = x.clearing.filter (fun k => k ≠ b.val) ∧
      ∀ j th, mfind x.threads j = some th → th.st = .blocked → th.wait = .bankClear b.val →
        mfind (coreAt t n).threads j = some { th with met := true }) ∧
    (fieldSt s (n / 4096) = .on → ∃ t, exec (.spargeVisit c .clean .clean) s = .next t ∧
      (coreAt t n).sparge = (x.sparge + 1) % 6144 ∧ (coreAt t n).storeStat = x.storeStat ∧ t.mem = s.mem) ∧
    (fieldSt s (n / 4096) = .on → bankMode x (x.sparge / 512) = 0 →
      ∃ t, exec (.spargeVisit c .failed .clean) s = .next t ∧ (coreAt t n).sparge = (x.sparge + 1) % 6144 ∧
        (coreAt t n).storeLast = BitVec.ofNat 64 (2 ^ 63 + 2 ^ 59 * 5 + x.sparge) ∧ t.mem = s.mem)

/-- The core access window reads and writes what R102 gives it, and START, STOP, RESET and TAG_INIT act on the selected core as R104 and R75 say (R75, R80, R98, R100, R101, R102, R103, R104, R105, R406). -/
def Obligations.WindowCommandsReachTheCore : Prop :=
  ∀ (m : Master) (f : Fin 80) (s : State),
    let p := pCaw f.val
    let c := 4096 * f.val + liveF s p 0x800 11 0
    let x := coreAt s c
    let i := liveF s p 0x804 13 0
    let th := threadAt x (i / 512 % 16)
    let v : DWord := BitVec.ofNat 64 (2 ^ 32 * (live s p 0x80C).toNat + (live s p 0x808).toNat)
    let idle := sealedCore s m c = false ∧ (th.st = .stopped ∨ th.st = .faulted)
    let answers := fun (w : DWord) => ∃ t, exec (.cawRead m f) s = .next t ∧ t.cores = s.cores ∧ t.mem = s.mem ∧
      (live t p 0x808).toNat = w.toNat % 2 ^ 32 ∧ (live t p 0x80C).toNat = w.toNat / 2 ^ 32 ∧ live t p 0x814 = 0
    let sel := coreIdCheck s c = none
    reaches m s = true → pageDark s p = false →
    (∀ w, sel → liveF s p 0x804 15 14 = 0 → coreReg x i = some w → answers w) ∧
    (sel → liveF s p 0x804 15 14 = 1 → i < 0x60 ∨ i = 0x80 → answers (shadowReg x i)) ∧
    (∀ w, sel → liveF s p 0x804 15 14 = 2 → i < 0x2000 → idle → ctxRead th (i % 512) = some w → answers w) ∧
    (sel → liveF s p 0x804 15 14 = 1 → i < 0x60 ∨ i = 0x80 → sealedCore s m c = false → pageLocked s p = false →
      ∃ t, exec (.cawWrite m f) s = .next t ∧ (coreAt t c).dirty = true ∧ (coreAt t c).handles = x.handles ∧
        (coreAt t c).bankMode = x.bankMode ∧ live t p 0x814 = 0 ∧
        shadowReg (coreAt t c) i = (if i < 0x80 ∧ i % 2 = 0 then withBits v 62 62 0 else v) ∧
        ∀ j, j ≠ i → shadowReg (coreAt t c) j = shadowReg x j) ∧
    (sel → liveF s p 0x804 15 14 = 2 → i < 0x2000 → idle → i % 512 < 0x20 →
      ∃ t, exec (.cawWrite m f) s = .next t ∧ live t p 0x814 = 0 ∧
        threadAt (coreAt t c) (i / 512 % 16) = setS (i % 512) v th ∧ t.mem = s.mem) ∧
    (pageLocked s p = false → ∃ t, exec (.cawDiscard m f) s = .next t ∧ live t p 0x814 = 0 ∧
      ∀ d, d / 4096 = f.val → (coreAt t d).dirty = false ∧ ((coreAt s d).dirty = true → (coreAt t d).shadowRegs = []) ∧
        (coreAt t d).handles = (coreAt s d).handles) ∧
    (∀ (r : CoreRef) (mask : BitVec 16) (j : Fin 16), r.field = f → coreEnabled s (coreId r) = true →
      let y := coreAt s (coreId r)
      let u := threadAt y j.val
      (∃ t, exec (.threadStart m r mask) s = .next t ∧
        (mask.getLsbD j.val = true → u.st = .stopped ∨ u.st = .faulted → threadAt (coreAt t (coreId r)) j.val =
          { u with st := .ready, wait := .none, met := false, pc := BitVec.ofNat 18 (mget 0 y.startPc j.val).toNat, beyond := false }) ∧
        (mask.getLsbD j.val = false ∨ u.st = .ready ∨ u.st = .blocked → threadAt (coreAt t (coreId r)) j.val = u)) ∧
      (∃ t, exec (.threadStop m r mask) s = .next t ∧ live t p 0x814 = 0 ∧
        (mask.getLsbD j.val = true → u.st = .ready ∨ u.st = .blocked → threadAt (coreAt t (coreId r)) j.val =
          { u with st := .stopped, wait := .none, met := false }) ∧
        (mask.getLsbD j.val = false ∨ u.st = .stopped ∨ u.st = .faulted → threadAt (coreAt t (coreId r)) j.val = u)) ∧
      (∃ t, exec (.coreReset m r) s = .next t ∧ live t p 0x814 = 0 ∧ threadAt (coreAt t (coreId r)) j.val = .reset ∧
        (coreAt t (coreId r)).full = [] ∧ (coreAt t (coreId r)).coreErr = 0 ∧ (coreAt t (coreId r)).dmaErr = 0 ∧
        (coreAt t (coreId r)).score = [] ∧ (∀ h, 48 ≤ h → (hview (coreAt t (coreId r)) h).valid = false) ∧ t.mem = s.mem) ∧
      (∀ (h : Fin 64) (b : Bool), sealedCore s m (coreId r) = false →
        ∃ t, exec (.tagInit m r h b) s = .next t ∧ live t p 0x814 = BitVec.ofNat 32
            (if (hview y h.val).valid = false then E.handleInvalid else if (hview y h.val).tagged = false then E.tagMode else (0 : Code)).toNat ∧
          ((hview y h.val).valid = true → (hview y h.val).tagged = true → let g := hrng (hview y h.val) 0 (hview y h.val).ext
            (if b then allFull (coreAt t (coreId r)) g else allEmpty (coreAt t (coreId r)) g) = true)))

/-- CLEAR empties records and watches, MARK_WRITE sets or removes the mark that MARK_SEL selects, MARK_CLEAR removes every mark (R252, R254, R255). -/
def Obligations.HazardDetectorCommands : Prop :=
  ∀ (m : Master) (f : Fin 80) (s : State), reaches m s = true → pageDark s (pHd f.val) = false →
    let u := unitsOf s f.val
    let d := live s (pHd f.val) 0x808
    let k := liveF s (pHd f.val) 0x804 11 0
    (∃ t, exec (.hdClear m f) s = .next t ∧ (unitsOf t f.val).records = [] ∧ (unitsOf t f.val).pendingWatch = [] ∧
      (unitsOf t f.val).marks = u.marks ∧ (unitsOf t f.val).permits = u.permits ∧ t.live = s.live) ∧
    (d.toNat % 8 = 0 → ∃ t, exec (.hdMarkWrite m f) s = .next t ∧ t.live = s.live ∧ (unitsOf t f.val).records = u.records ∧
      mfind (unitsOf t f.val).marks k = (if 2 ^ 31 ≤ d.toNat then some d else none) ∧
      ∀ j, j ≠ k → mfind (unitsOf t f.val).marks j = mfind u.marks j) ∧
    (d.toNat % 8 ≠ 0 → errValid s (pHd f.val) = false → ∃ t, exec (.hdMarkWrite m f) s = .next t ∧ t.fieldUnits = s.fieldUnits ∧
      live t (pHd f.val) 0x10 = BitVec.ofNat 32 (2 ^ 31 + E.alignFault.toNat)) ∧
    (∃ t, exec (.hdMarkClear m f) s = .next t ∧ (unitsOf t f.val).marks = [] ∧ (unitsOf t f.val).records = u.records ∧ t.live = s.live)

/-- Adds and sets at a tally block follow R132, a fire frees every waiter, and registrations are answered, listed or refused (R131, R132, R133, R134, R135, R137, R139, R403). -/
def Obligations.TalliesAddFireAndWake : Prop :=
  ∀ (s : State),
    let add := fun (tgt : Nat) (y : Tally) (v : Nat) => if tgt = 0 then (⟨BitVec.ofNat 24 (y.count.toNat + v), y.epoch⟩ : Tally)
      else ⟨BitVec.ofNat 24 ((y.count.toNat + v) % tgt), BitVec.ofNat 16 (y.epoch.toNat + (y.count.toNat + v) / tgt)⟩
    let takes := fun (k : Nat) (y : Tally) (t : State) => tallyAt t k = y ∧ (∀ j, j ≠ k → tallyAt t j = tallyAt s j) ∧
      (y.epoch = (tallyAt s k).epoch → t.waits = s.waits) ∧
      (y.epoch ≠ (tallyAt s k).epoch → ∀ w ∈ waitKeys k, ∀ e ∈ mget [] t.waits w, e.tally ≠ k)
    let front := fun (b : Fin 84) (q : Nat × Msg) (l : List (Nat × Msg)) => (b.val < 80 → isDark s b.val = false) ∧
      mget [] s.tallyIn b.val = q :: l ∧ fenceOwner s q.2.src (mfind s.tallyOwner q.2.tally) = true
    (∀ b q l, front b q l → q.2.op = .add → ∃ t, exec (.tallyAdd b) s = .next t ∧ mget [] t.tallyIn b.val = l ∧
      takes q.2.tally (add (tallyTarget s q.2.tally) (tallyAt s q.2.tally) q.2.value) t) ∧
    (∀ b q l, front b q l → q.2.op = .set → ∃ t, exec (.tallySet b) s = .next t ∧ mget [] t.tallyIn b.val = l ∧
      takes q.2.tally (add (tallyTarget s q.2.tally) ⟨0, (tallyAt s q.2.tally).epoch⟩ q.2.value) t) ∧
    (∀ b q l, front b q l → q.2.op = .reg → let key := if b.val < 80 then 4 * b.val + q.1 else 240 + b.val
      ∃ t, exec (.tallyRegistration b) s = .next t ∧ mget [] t.tallyIn b.val = l ∧ t.tallies = s.tallies ∧
      ((tallyAt s q.2.tally).epoch ≠ q.2.epoch → t.waits = s.waits) ∧
      ((tallyAt s q.2.tally).epoch = q.2.epoch → (mget [] s.waits key).length < 16 →
        mget [] t.waits key = mget [] s.waits key ++ [⟨q.2.tally, q.2.epoch, waiterOf q.2⟩]) ∧
      ((tallyAt s q.2.tally).epoch = q.2.epoch → 16 ≤ (mget [] s.waits key).length → t.waits = s.waits ∧
        (srcIsCore q.2.src = true → q.2.thread ∈ (coreAt t q.2.src).refused))) ∧
    (∀ (m : Master) (f : Fin 80) (v : BitVec 24), reaches m s = true → pageDark s (fieldPage f.val 8) = false →
      let k := 384 * f.val + liveF s (fieldPage f.val 8) 0x800 8 0
      (v.toNat ≠ 0xFFFFFF → (∃ t, exec (.tallyCmdAdd m f v) s = .next t ∧ takes k (add (tallyTarget s k) (tallyAt s k) v.toNat) t) ∧
        (∃ t, exec (.tallyCmdSet m f v) s = .next t ∧ takes k (add (tallyTarget s k) ⟨0, (tallyAt s k).epoch⟩ v.toNat) t)) ∧
      (v.toNat = 0xFFFFFF → ∃ t, exec (.tallyCmdSet m f v) s = .next t ∧ t.tallies = s.tallies ∧ errValid t (fieldPage f.val 8) = true) ∧
      (∃ t, exec (.flushWaits m f) s = .next t ∧ t.tallies = s.tallies ∧ ∀ w ∈ waitKeys k, ∀ e ∈ mget [] t.waits w, e.tally ≠ k)) ∧
    (∀ (c : CoreRef) y l num expect d, isDark s (coreId c / 4096) = false → (coreAt s (coreId c)).wakes = y :: l →
      let th := threadAt (coreAt s (coreId c)) y.thread
      th.st = .blocked → th.wait = .tally num expect d → th.met = false → y.tally = num → y.epoch ≠ expect →
      ∃ t, exec (.tallyWakeReply c) s = .next t ∧ (coreAt t (coreId c)).wakes = l ∧
        threadAt (coreAt t (coreId c)) y.thread =
          { setS d (BitVec.ofNat 64 (2 ^ 16 * (y.value % 2 ^ 24) + y.epoch.toNat)) th with pc := th.pc + 8, met := true }) ∧
    (∀ (c : CoreRef) (j : Fin 16) num expect d, isDark s (coreId c / 4096) = false → (coreAt s (coreId c)).refused.contains j.val = true →
      let th := threadAt (coreAt s (coreId c)) j.val
      th.st = .blocked → th.wait = .tally num expect d →
      ∃ m, exec (.tallyRegRetry c j) s =
          .next (injectEngine (coreId c) m (updCore (coreId c) (fun x => { x with refused := without j.val x.refused }) s)) ∧
        m.cls = .tally ∧ m.op = .reg ∧ m.tally = num ∧ m.epoch = expect ∧ m.thread = j.val)

/-- A head moves one hop by its plane, is delivered, or is dropped and recorded at a dark field or failed link; parity replays hold or fail a link (R180, R181, R186, R197, R199, R203). -/
def Obligations.RoutersRouteDropAndReplay : Prop :=
  ∀ (c : CoreRef) (port : Fin 11) (plane : Bool) (s : State) (m : Msg),
    let r := coreId c
    let y := atWaypoint r m
    let d := nextDir r y
    let n := neighbour r d
    let q := fetchInput r port.val plane s
    let p := popHead r port.val plane q
    let away := shutOff p (fieldOfCore n) && fieldOfCore n != fieldOfCore r
    (isDark s (fieldOfCore r) = false → headOf q r port.val plane = some m → m.path = [] → localLost q r port.val = false →
      m.cls ≠ .reduce → atMergePoint r m = false → granted q r port.val plane m = true →
      (d ≠ 0 → away = false → linkFailed p r d = false → retired p n = false →
        (hasRoom 16 (outQueue p r d y.plane) y = true → exec (.routerHeader c port plane) s = .next (noteGrant r port.val plane m
          (setRouter r ({ routerAt p r with outq := mset [] (routerAt p r).outq (qKey d y.plane) (outQueue p r d y.plane ++ [{ y with lastField := fieldOfCore r }]) }) p))) ∧
        (hasRoom 16 (outQueue p r d y.plane) y = false → exec (.routerHeader c port plane) s = .next q)) ∧
      (d ≠ 0 → away = true ∨ linkFailed p r d = true → ∃ t, exec (.routerHeader c port plane) s = .next t ∧
        t = noteGrant r port.val plane m (dropMsg r d away y p) ∧
        live t (pFab (fieldOfCore r)) 0x818 = BitVec.ofNat 32 (2 ^ 28 * (if away then 1 else 2) + 2 ^ 25 * clsNum y.cls +
          2 ^ 22 * d + 2 ^ 19 * b2n y.plane + coreIndex r) ∧ errValid t (pFab (fieldOfCore r)) = true) ∧
      (d = 0 → isArrival y = true → linkFailed p r 0 = false → (coreAt p r).eject = [] → fieldSt p (fieldOfCore r) = .on → y.cls = .data →
        ∃ t, exec (.routerHeader c port plane) s = .next t ∧ (coreAt t r).eject = [y] ∧
          t = noteGrant r port.val plane m (updCore r (fun x => { x with eject := [y] }) p))) ∧
    (∀ gx gy, firstStep false r gx gy = (if meshX r < gx then 4 else if gx < meshX r then 3 else if meshY r < gy then 1 else if gy < meshY r then 2 else 0) ∧
      firstStep true r gx gy = (if meshY r < gy then 1 else if gy < meshY r then 2 else if meshX r < gx then 4 else if gx < meshX r then 3 else 0)) ∧
    (∀ (k : Nat) (rest : List Msg), upstream s r k plane = m :: rest → linkRuns s r k plane = true → hasRoom 16 (inQueue s r k plane) m = true →
      pull r k plane 1 s = enqueue r k m (popUpstream r k plane s)) ∧
    (∀ k : Fin 5, isDark s (fieldOfCore r) = false → arriving s r k.val plane = some m →
      (linkFailed s r k.val = false → ∃ t, exec (.flitParityError c k plane) s = .next t ∧ inReplay t r k.val plane = true ∧ t.cores = s.cores) ∧
      (inReplay s r k.val plane = true → ∃ t, exec (.flitReplay c k plane true) s = .next t ∧
        (routerAt t r).replay = without (qKey k.val plane) (routerAt s r).replay ∧ (routerAt t r).failed = (routerAt s r).failed ∧
        t.cores = s.cores) ∧
      (inReplay s r k.val plane = true → ∃ t, exec (.flitReplay c k plane false) s = .next t ∧ linkFailed t r k.val = true ∧
        (k.val ≠ 0 → onFloor r k.val = true → linkFailed t (neighbour r k.val) (opposite k.val) = true)))

/-- Matching REDUCE messages add lane by lane within TOTAL; READs at a merge point are absorbed, served and answered to each requester (R181, R182, R190, R191, R192, R194, R195, R203, R210, R403). -/
def Obligations.ReductionsCombineAndReadsMerge : Prop :=
  ∀ (c : CoreRef) (port : Fin 11) (plane : Bool) (s : State) (m : Msg),
    let r := coreId c
    let q := fetchInput r port.val plane s
    let p := popHead r port.val plane q
    let x := routerAt q r
    let y := atWaypoint r m
    let word := fun (a : Msg) (j : Nat) => BitVec.ofNat 32 (leNat ((a.payload.drop (4 * j)).take 4))
    let lanes := fun (a b : Msg) => (List.range 64).map fun j => if a.lt then word a j + word b j else f32Add (word a j) (word b j)
    let sum := fun (a b : Msg) => { a with count := a.count + b.count, payload := laneBytes (lanes a b) }
    let off := rngOf false (m.addr % 0x40000) (32 * m.rflits)
    let at_ := isDark s (fieldOfCore r) = false ∧ headOf q r port.val plane = some m ∧ m.path = [] ∧ localLost q r port.val = false ∧
      granted q r port.val plane m = true
    let fenced := linkFailed q r 0 = false ∧ fenceOwner q m.src (mfind q.owner r) = true
    (∀ k e, at_ → m.cls = .reduce → atData r m = false →
      (x.combine.find? fun e => !e.2.owner && canAdd e.2.msg m) = some (k, e) →
      ∃ t, exec (.reduceAtRouter c port plane true) s = .next t ∧ mfind (routerAt t r).combine k = some { e with msg := sum e.msg m } ∧
        (routerAt t r).queues = (routerAt p r).queues) ∧
    (∀ (k : Fin 8) e u, isDark s (fieldOfCore r) = false → mfind (routerAt s r).combine k.val = some e → e.owner = false →
      granted s r 6 e.msg.plane e.msg = true →
      moveOn r e.msg (setRouter r { routerAt s r with combine := mdel (routerAt s r).combine k.val } s) = some u →
      exec (.transitEntryRelease c k) s = .next (noteGrant r 6 e.msg.plane e.msg u)) ∧
    (∀ k e, at_ → m.cls = .reduce → atData r m = true → fenced →
      (x.combine.find? fun e => e.2.owner && e.2.msg.rtag == m.rtag) = some (k, e) → canAdd e.msg m = true →
      ∃ t, exec (.reduceAtOwner c port plane) s = .next t ∧
        mfind (routerAt t r).combine k = some ⟨true, sum e.msg m, decide (e.msg.count + m.count = e.msg.total)⟩) ∧
    (∀ k, at_ → m.cls = .reduce → atData r m = true → fenced →
      (x.combine.find? fun e => e.2.owner && e.2.msg.rtag == m.rtag) = none → ownerGranted q r port.val plane = true →
      freeIndex x.combine 8 = some k →
      ∃ t, exec (.reduceAtOwner c port plane) s = .next t ∧
        mfind (routerAt t r).combine k = some ⟨true, y, decide (m.count = m.total)⟩ ∧
        (routerAt t r).ownerTurn = qKey port.val plane) ∧
    (∀ chk, at_ → m.cls = .read → atData r m = true → m.dport = 0 → readFenced q y = true → fieldSt p (fieldOfCore r) = .on →
      clearingBank (coreAt p r) off = none → linkFailed p r 0 = false →
      (∀ e, openEntry p r y = some e → ∃ t, exec (.readAtMergePoint c port plane chk) s = .next t ∧
        mfind (routerAt t r).merge e.1 = some { e.2 with reqs := e.2.reqs ++ [mergeReq y] }) ∧
      (∀ u, openEntry p r y = none → anyMode (coreAt p r) off 2 = false → readCheck r chk [off] p = (u, none) →
        (∀ i, freeMerge u r y = some i → ∃ t, exec (.readAtMergePoint c port plane chk) s = .next t ∧
          mfind (routerAt t r).merge i =
            some ⟨m.addr, m.rflits, [mergeReq y], true, (routerAt u r).mergeNo, some (readMem u m.addr (32 * m.rflits)), r⟩) ∧
        (m.nomerge = true → exec (.readAtMergePoint c port plane chk) s =
          .next (noteGrant r port.val plane m (injectEngine r (replyMsg y r (readMem u m.addr (32 * m.rflits))) u))))) ∧
    (∀ (k : Fin 16) e, mfind (routerAt s r).merge k.val = some e → ∃ t, exec (.mergeEntryClose c k) s = .next t ∧
      mfind (routerAt t r).merge k.val = some { e with accepting := false } ∧ t.cores = s.cores) ∧
    (∀ (k : Fin 16) e, isDark s (fieldOfCore r) = false → mfind (routerAt s r).merge k.val = some e → e.reply.isSome = true →
      (routerAt s r).fan.contains k.val = false → exec (.readReplyFanout c k) s = .next (fanNext r (setRouter r { routerAt s r with
        merge := mput (routerAt s r).merge k.val { e with accepting := false }, fan := (routerAt s r).fan ++ [k.val] } s))) ∧
    (∀ i rest e l a as, mget [] (routerAt s r).queues (qKey 5 false) = [] → mget [] (routerAt s r).queues (qKey 5 true) = [] →
      (routerAt s r).fan = i :: rest → mfind (routerAt s r).merge i = some e → e.reply = some l → e.reqs = a :: as →
      fanNext r s = enqueue r 5 (stamp s r (mergeReply e a e.src l)) (setRouter r
        (if as = [] then { routerAt s r with merge := mdel (routerAt s r).merge i, fan := rest }
          else { routerAt s r with merge := mput (routerAt s r).merge i { e with reqs := as } }) s)) ∧
    (∀ (h : Master) (f : Fin 80), reaches h s = true → pageDark s (pFab f.val) = false →
      (∃ t, exec (.flushMerge h f) s = .next t ∧ ∀ d, fieldOfCore d = f.val → (routerAt t d).merge = [] ∧
        (routerAt t d).combine = (routerAt s d).combine) ∧
      (∃ t, exec (.flushReduce h f) s = .next t ∧ ∀ d, fieldOfCore d = f.val →
        (routerAt t d).combine = (routerAt s d).combine.filter (fun e => e.2.leaving) ∧ (routerAt t d).merge = (routerAt s d).merge))

/-- Configuration writes change shadows only; locked, reserved, unassigned and misaligned writes are discarded and recorded; reads clear and latch (R42, R46, R49, R50, R51, R52, R54, R56, R65, R357, R524). -/
def Obligations.RegisterAccesses : Prop :=
  ∀ (now : Nat) (m : Master) (page : BitVec 14) (off : BitVec 12) (v : BitVec 64) (s : State),
    let p := page.toNat
    let o := off.toNat
    let w := fun x => exec (.registerWrite now m page off x v) s
    let v32 : Word := BitVec.ofNat 32 v.toNat
    let records := fun (c : Code) (t : State) => errValid t p = true ∧ t.shadow = s.shadow ∧ t.cores = s.cores ∧ t.mem = s.mem ∧
      (errValid s p = false → live t p 0x10 = BitVec.ofNat 32 (2 ^ 31 + c.toNat))
    let drops := fun (hi : Bool) (t : State) => t.shadow = s.shadow ∧ t.cores = s.cores ∧
      liveF t 4 0x800 (if hi then 31 else 15) (if hi then 16 else 0) =
        Nat.min 65535 (liveF s 4 0x800 (if hi then 31 else 15) (if hi then 16 else 0) + 1) ∧
      live t 4 0x804 = BitVec.ofNat 32 (2 ^ 28 * masterId m + 2 ^ 14 * p + o)
    reaches m s = true →
    (∀ r, o % 4 = 0 → regAt p o = some r → isCfg o = true → pageDark s p = false → pageLocked s p = false → accMask [.rw] r ≠ 0 →
      let k := accMask [.rw] r ||| reservedMask r
      ∃ t, w .w32 = .next t ∧ { t with shadow := s.shadow, links := s.links } = s ∧ ((∀ n, pageKind p ≠ .link n 1) → t.links = s.links) ∧
        shadow t p o = (shadow s p o &&& ~~~k) ||| (v32 &&& k) ∧
        ∀ q a, a < 4096 → q ≠ p ∨ a ≠ o → shadow t q a = shadow s q a) ∧
    (∀ r, o % 4 = 0 → regAt p o = some r → isCfg o = true → pageDark s p = false → pageLocked s p = true →
      ∃ t, w .w32 = .next t ∧ records E.txnShadowLocked t) ∧
    (∀ r, o % 4 = 0 → regAt p o = some r → isCfg o = false → isShadowOff o = false → pageDark s p = false → v32 &&& reservedMask r ≠ 0 →
      ∃ t, w .w32 = .next t ∧ records E.reservedBit t) ∧
    (o % 4 = 0 → isShadowOff o = true ∨ pageDark s p = true ∨ regAt p o = none → ∃ t, w .w32 = .next t ∧ drops false t) ∧
    (∃ t, w .w8 = .next t ∧ drops true t) ∧ (∃ t, w .w16 = .next t ∧ drops true t) ∧ (∃ t, w .odd = .next t ∧ drops true t) ∧
    (o % 4 ≠ 0 → ∃ t, w .w32 = .next t ∧ drops true t) ∧ (o % 8 ≠ 0 → ∃ t, w .w64 = .next t ∧ drops true t) ∧
    (o % 8 = 0 → ∃ t, exec (.registerWrite now m page off .w32 (BitVec.ofNat 64 (v.toNat % 2 ^ 32))) s = .next t ∧
      w .w64 = exec (.registerWrite now m page (off + 4) .w32 (BitVec.ofNat 64 (v.toNat / 2 ^ 32))) t) ∧
    (∀ r, o = 0x10 → regAt p o = some r → pageDark s p = false → v32 &&& reservedMask r = 0 → 2 ^ 31 ≤ v32.toNat →
      ∃ t, w .w32 = .next t ∧ live t p 0x10 = 0 ∧ live t p 0x14 = 0 ∧ ∀ q a, a < 4096 → q ≠ p ∨ (a ≠ 0x10 ∧ a ≠ 0x14) → live t q a = live s q a) ∧
    (∃ t, exec (.rcRead m 4 0x800 .w32) s = .next t ∧ mget 0 t.busOut (masterId m) = BitVec.ofNat 64 (live s 4 0x800).toNat ∧
      live t 4 0x800 = 0 ∧ ∀ q a, a < 4096 → q ≠ 4 ∨ a ≠ 0x800 → live t q a = live s q a) ∧
    (∃ t, exec (.rcRead m 4 0x800 .w16) s = .next t ∧ mget 0 t.busOut (masterId m) = BitVec.ofNat 64 ((live s 4 0x800).toNat % 2 ^ 16) ∧
      (live t 4 0x800).toNat = 2 ^ 16 * ((live s 4 0x800).toNat / 2 ^ 16)) ∧
    (∃ t, exec (.latchRead m 8 0x64 .w32) s = .next t ∧ (mget 0 t.busOut (masterId m)).toNat = s.beat.now.toNat % 2 ^ 32 ∧
      t.beat.nowHi.toNat = s.beat.now.toNat / 2 ^ 32 ∧
      ∃ u, exec (.latchRead m 8 0x68 .w32) t = .next u ∧ (mget 0 u.busOut (masterId m)).toNat = s.beat.now.toNat / 2 ^ 32) ∧
    (darkPage s p = true → o % 4 = 0 → o ≠ 0 → o ≠ 0xC → ∃ t, exec (.rcRead m page off .w32) s = .next t ∧
      mget 0 t.busOut (masterId m) = 0 ∧ t.live = s.live)

/-- Groups are allocated, enrolled, armed, validated, applied, ended and released as R57 to R64 say (R35, R52, R53, R57, R58, R59, R61, R63, R64, R526). -/
def Obligations.TransactionGroupsLive : Prop :=
  ∀ (m : Master) (s : State),
    let g := (sel s m).1
    let x := grp s g
    let reload := fun (ps : List Nat) (t : State) => ∀ p ∈ ps, ∀ o, o < 4096 → shadow t p o = live s p o ∧ live t p o = live s p o
    let ended := fun (r : GResult) (c : Code) (t : State) => (grp t g).st = .done ∧ (grp t g).res = r ∧ (grp t g).code = c ∧ reload x.pages t
    let refused := fun (t : State) => t.groups = s.groups ∧ errValid t 0xC = true ∧
      (errValid s 0xC = false → live t 0xC 0x10 = BitVec.ofNat 32 (2 ^ 31 + E.txnGroupState.toNat))
    let ahead := 1 ≤ (x.commit - s.beat.now).toNat ∧ (x.commit - s.beat.now).toNat ≤ 2 ^ 47 - 1 ∧
      ¬ (s.beat.mode = .locked ∧ x.commit = s.beat.now + 1)
    reaches m s = true →
    (∀ k, (grp s k).st = .free → (∀ j < k, (grp s j).st ≠ .free) → k < (if m = .mc then 64 else 60) →
      ∃ t, exec (.txnAlloc m) s = .next t ∧ grp t k = { groupReset with st := .opened } ∧ sel t m = (k, false) ∧
        ∀ j, j ≠ k → grp t j = grp s j) ∧
    ((∀ j < (if m = .mc then 64 else 60), (grp s j).st ≠ .free) →
      ∃ t, exec (.txnAlloc m) s = .next t ∧ t.groups = s.groups ∧ sel t m = (g, true)) ∧
    (∀ (page : BitVec 14) (k : Fin 64), pageAssigned page.toNat = true → pageDark s page.toNat = false → page.toNat ≠ 0xC →
      pageLocked s page.toNat = false → pageGroup s page.toNat = none → (grp s k.val).st = .opened →
      ∃ t, exec (.blkTxnEnrol m page k) s = .next t ∧ (grp t k.val).pages = insertAsc page.toNat (grp s k.val).pages ∧
        live t page.toNat 0x18 = BitVec.ofNat 32 (2 ^ 31 + k.val) ∧ ∀ j, j ≠ k.val → grp t j = grp s j) ∧
    (∀ (page : BitVec 14) k (w : Fin 64), pageAssigned page.toNat = true → pageDark s page.toNat = false → page.toNat ≠ 0xC →
      pageLocked s page.toNat = false → pageGroup s page.toNat = some k →
      ∃ t, exec (.blkTxnWithdraw m page w) s = .next t ∧ (grp t k).pages = without page.toNat (grp s k).pages ∧
        live t page.toNat 0x18 = BitVec.ofNat 32 w.val) ∧
    (x.st = .opened → ahead →
      ∃ t, exec (.txnArm m) s = .next t ∧ grp t g = { x with st := .validating, isNow := false } ∧ t.shadow = s.shadow) ∧
    (x.st = .opened → ¬ ahead →
      ∃ t, exec (.txnArm m) s = .next t ∧ ended .late E.late t) ∧
    (x.st = .opened → s.beat.mode ≠ .locked →
      ∃ t, exec (.txnArmNow m) s = .next t ∧ grp t g = { x with st := .validating, isNow := true } ∧ t.shadow = s.shadow) ∧
    (x.st = .opened → s.beat.mode = .locked → ∃ t, exec (.txnArmNow m) s = .next t ∧ ended .nowRefused E.nowRefused t) ∧
    (x.st = .opened ∨ x.st = .armed → ∃ t, exec (.txnAbort m) s = .next t ∧ ended .aborted 0 t) ∧
    (x.st = .done → ∃ t, exec (.txnRelease m) s = .next t ∧ grp t g = groupReset ∧ t.shadow = s.shadow) ∧
    (x.st ≠ .opened → ∃ t, exec (.txnArm m) s = .next t ∧ refused t) ∧ (x.st ≠ .opened → ∃ t, exec (.txnArmNow m) s = .next t ∧ refused t) ∧
    (x.st ≠ .opened → x.st ≠ .armed → ∃ t, exec (.txnAbort m) s = .next t ∧ refused t) ∧
    (x.st ≠ .done → ∃ t, exec (.txnRelease m) s = .next t ∧ refused t) ∧
    (∀ k : Fin 64, (grp s k.val).st = .validating → (∀ p ∈ (grp s k.val).pages, pageBad s (grp s k.val) p = none) →
      ∃ t, exec (.txnValidationDone k) s = .next t ∧ t.shadow = s.shadow ∧
        grp t k.val = { grp s k.val with st := if (grp s k.val).isNow then .irrevocable else .armed }) ∧
    (∀ (k : Fin 64) p ps b, (grp s k.val).st = .validating → (grp s k.val).pages = p :: ps → pageBad s (grp s k.val) p = some b →
      ∃ t, exec (.txnValidationDone k) s = .next t ∧ (grp t k.val).st = .done ∧ (grp t k.val).res = .rejected ∧ (grp t k.val).page = p ∧
        (grp t k.val).code = b.1 ∧ errValid t p = true) ∧
    (∀ now (k : Fin 64) p, Canonical s → (grp s k.val).st = .irrevocable → (grp s k.val).isNow = true → (grp s k.val).pages = [p] →
      s.recov.plan = none → s.weights.load = none → (∀ n o q, pageHook n o p q = q) → (∀ f, pageKind p ≠ .fabric f ∧ pageKind p ≠ .caw f) →
      ∃ t, exec (.txnNowApplyDone now k) s = .next t ∧ (grp t k.val).st = .done ∧ (grp t k.val).res = .committed ∧
        ∀ o r, o < 4096 → regAt p o = some r →
          live t p o = (live s p o &&& ~~~accMask [.rw] r) ||| (shadow s p o &&& accMask [.rw] r) ∧ shadow t p o = live t p o)

/-- Frames, markers, loss, silence and RESTART act on the beat unit as R27, R38, R40, R41 and R527 say (R27, R30, R38, R39, R40, R41, R379, R527). -/
def Obligations.BeatUnitFollowsItsSource : Prop :=
  ∀ (s : State),
    let track := fun (u : State) (x : CandState) (n : Option Beat) (at' : Nat) => match n with
      | none => ({ x with run := 0, seen := false } : CandState)
      | some b => if x.seen = true ∧ b = x.number + 1 ∧ at' - x.last ≤ 16 * periodNs u then ⟨b, Nat.min 3 (x.run + 1), at', true⟩ else ⟨b, 1, at', true⟩
    let arrives := fun (i : Instr) (c : Cand) (n : Option Beat) (at' : Nat) (u : State) =>
      (∃ f, i = .beatFrame at' f ∧ c = .ext ∧ u = s ∧ n = if f.preamble = 0xA5 ∧ f.tail = 0 ∧ f.manchester = true then some f.number else none) ∨
      (∃ l now f q b, i = .beatMarker l now f ∧ c = .link l ∧ f.bytes.length = 276 ∧ flitType f.bytes = tyBeat ∧
        let v := fecCorrected l.val f.corrected s
        let x := linkAt v l.val
        x.st = .up ∧ flitDue x (flitSeq f.bytes) = some q ∧ openFlit (dirKey x.keys !x.sideA) q f.bytes = some b ∧
        u = flitTaken l.val q v ∧ n = some (BitVec.ofNat 48 (le b 0 6)) ∧ at' = now - le b 8 4)
    let selected := fun (u : State) (c : Cand) => u.beat.activeSrc.toNat = candSrc c
    (∀ i c n at' u, arrives i c n at' u → ¬ selected u c ∨ u.beat.mode = .idle ∨ u.beat.mode = .lost →
      exec i s = .next (setCand c (track u (candOf u c) n at') u)) ∧
    (∀ i c n at' u, arrives i c n at' u → selected u c → u.beat.mode = .acquiring → ∃ t, exec i s = .next t ∧
      ((track u u.beat.acq n at').run ≠ 3 → t.beat.acq = track u u.beat.acq n at' ∧ t.beat.mode = .acquiring ∧ t.beat.now = u.beat.now ∧
        t.beat.lockAt = u.beat.lockAt ∧ candOf t c = candOf (setCand c (track u (candOf u c) n at') u) c)) ∧
    (∀ i c b at' u, arrives i c (some b) at' u → selected u c → u.beat.mode = .acquiring → (track u u.beat.acq (some b) at').run = 3 →
      (compDelay u = 0 → ∃ t, exec i s = .next t ∧ t.beat.mode = .locked ∧ t.beat.now = b) ∧
      (0 < compDelay u → ∃ t, exec i s = .next t ∧ t.beat.mode = .acquiring ∧ t.beat.lockAt = some (b + 1) ∧
        t.beat.prevArrival = some at' ∧ t.beat.edgeSince = true)) ∧
    (∀ now, tickDue now s = true → (∀ b, s.beat.mode = .acquiring → s.beat.lockAt = some b →
        ∃ t, exec (.beatTick now) s = .next t ∧ t.beat.mode = .locked ∧ t.beat.now = b) ∧
      (s.beat.mode = .locked → s.beat.broken = false →
        ∃ t, exec (.beatTick now) s = .next t ∧ t.beat.mode = .locked ∧ t.beat.now = s.beat.now + 1) ∧
      (s.beat.mode = .locked → s.beat.broken = true → exec (.beatTick now) s = .fault .beatUndefined)) ∧
    (∀ now a, s.beat.prevArrival = some a → s.beat.edgeSince = true →
      tickDue now s = decide (now + compDelay s = a + if compDelay s = 0 then 0 else measuredPeriod s)) ∧
    (∀ now, tickDue now s = false → exec (.beatTick now) s = .next s) ∧
    (∀ i c b at' u, arrives i c (some b) at' u → selected u c → u.beat.mode = .locked → ∃ t, exec i s = .next t ∧
      t.beat.edgeSince = true ∧ t.beat.prevArrival = some at' ∧ t.beat.mode = .locked ∧ t.beat.now = u.beat.now ∧
        candOf t c = candOf (setCand c (track u (candOf u c) (some b) at') u) c ∧ t.live = u.live ∧ t.groups = u.groups ∧
        t.beat.broken = (u.beat.broken || (candOf u c).seen && (candOf u c).number + 1 != b)) ∧
    (∀ i c at' u, arrives i c none at' u → selected u c → u.beat.mode = .locked → ∃ t, exec i s = .next t ∧ t.beat.mode = .locked ∧
      t.beat.now = u.beat.now ∧ t.beat.broken = true) ∧
    (∀ l now f, (linkAt (fecCorrected l.val f.corrected s) l.val).st = .down →
      exec (.beatMarker l now f) s = .next (fecCorrected l.val f.corrected s)) ∧
    (∀ l now f q, let v := fecCorrected l.val f.corrected s
      let x := linkAt v l.val
      f.bytes.length = 276 → flitType f.bytes = tyBeat → x.st = .up → flitDue x (flitSeq f.bytes) = some q →
      openFlit (dirKey x.keys !x.sideA) q f.bytes = none →
      exec (.beatMarker l now f) s = .next (setLink l.val { x with rxSeq := q + 1 } v)) ∧
    (∀ now, s.beat.mode = .locked → s.beat.edgeSince = false → 16 * s.beat.lossPeriod < now - s.beat.tickAt →
      ∃ t, exec (.beatLost now) s = .next t ∧ t.beat.mode ≠ .locked ∧ t.beat.now = s.beat.now ∧ t.beat.last = s.beat.now ∧
        (s.recov.plan = none → ∀ k, groupBusy (grp s k) = true → (grp t k).st = .done ∧ (grp t k).res = .beatLost)) ∧
    (∀ now, s.beat.mode ≠ .locked ∨ s.beat.edgeSince = true → ∃ t, exec (.beatLost now) s = .next t ∧ t = s) ∧
    (∀ c now, 16 * periodNs s < now - (candOf s c).last →
      ∃ t, exec (.candLockTimeout c now) s = .next t ∧ t = setCand c { candOf s c with run := 0, seen := false } s) ∧
    (∀ c now, now - (candOf s c).last ≤ 16 * periodNs s → ∃ t, exec (.candLockTimeout c now) s = .next t ∧ t = s) ∧
    (s.beat.mode = .locked → ∃ t, exec .beatRestart s = .next t ∧ t = s) ∧
    (∀ e off, s.beat.mode ≠ .locked → beatCheck s = some (e, off) → ∃ t, exec .beatRestart s = .next t ∧ t.beat = s.beat ∧ errValid t 8 = true ∧
      (errValid s 8 = false → live t 8 0x14 = BitVec.ofNat 32 off)) ∧
    (Canonical s → s.beat.mode ≠ .locked → beatCheck s = none → ∃ t, exec .beatRestart s = .next t ∧
      t.beat.mode = (if shadowF s 8 0x40 3 0 = 0 then .idle else .acquiring) ∧ t.beat.activeSrc = BitVec.ofNat 4 (shadowF s 8 0x40 3 0) ∧
      periodNs t = shadowF s 8 0x44 16 0 ∧ t.beat.acq = CandState.reset ∧ t.beat.lockAt = none ∧ t.beat.now = s.beat.now)

/-- Of all commands only ticks move the beat number, and LOCKED is left only by BEAT_LOST (R28). -/
def Obligations.OnlyTicksMoveTheBeat : Prop :=
  ∀ (c : Instr) (s t : State), exec c s = .next t →
    (s.beat.mode = .locked →
      ((∃ now, c = .beatTick now ∧ tickDue now s = true) → t.beat.mode = .locked ∧ t.beat.now = s.beat.now + 1) ∧
      ((∀ now, c = .beatTick now → tickDue now s = false) → t.beat.now = s.beat.now ∧ (t.beat.mode ≠ .locked → ∃ now, c = .beatLost now))) ∧
    (s.beat.mode ≠ .locked → t.beat.mode = .locked ∨ t.beat.now ≠ s.beat.now →
      t.beat.mode = .locked ∧ ((∃ now f, c = .beatFrame now f) ∨ (∃ l now f, c = .beatMarker l now f) ∨ ∃ now, c = .beatTick now ∧ tickDue now s = true))

/-- A request at a stack is checked, then answers with the decrypted bytes or writes them under its region's key (R211, R219, R220, R222, R223, R225, R226, R230, R403). -/
def Obligations.StacksReadAndWriteTheirRegions : Prop :=
  ∀ (s : State) (n : Fin 24) (m : Msg) (q : List Msg),
    frontRuns s n.val m = true → stackOn s n.val = true → (stackAt s n.val).inbox = m :: q →
    let off := m.addr - stackAddr n.val 0
    let a := stackAddr n.val off
    let u := setStack n.val { stackAt s n.val with inbox := q } s
    let units := fun (len : Nat) (x : Nat) => a / 512 ≤ x ∧ x ≤ (a + len - 1) / 512
    let okIn := fun (len r : Nat) (k : StoreKey) => accessRegion s n.val off len = .ok r ∧ fenceStack s m.src n.val off = true ∧
      mfind (stackAt s n.val).keys (regionKey s n.val r) = some k
    let whole := fun (k : StoreKey) (x : Nat) => (List.range 512).map fun i => plainByte s k (512 * x + i)
    (∀ r k, m.cls = .read → okIn (32 * m.rflits) r k →
      (regionWeight s n.val r = true → ∀ x, units (32 * m.rflits) x → crc32c (whole k x) = crcOf s x) →
      exec (.stackReadRequest n []) s = .next (injectEngine (requestRouter m)
        (replyMsg m (srcStack n.val) ((List.range (32 * m.rflits)).map fun i => plainByte s k (a + i))) u)) ∧
    (∀ k b, mfind s.stackKey (b / 512) = some k → plainByte s k b = (mfind s.stackMem b).getD (Config.stackByte b)) ∧
    (∀ r k, m.cls ≠ .read → isSegIn m = false → 0 < m.payload.length → okIn m.payload.length r k →
      ∃ t v, exec (.stackWriteRequest n []) s = .next t ∧
        t = landed m.origin m.payload.length (sendNotify (requestRouter m) (srcStack n.val) m.notify m.tally v) ∧
        v = { u with stackMem := v.stackMem, stackKey := v.stackKey, stackCrc := v.stackCrc } ∧
        (∀ i, i < m.payload.length → mfind v.stackMem (a + i) = m.payload[i]?) ∧
        (∀ x, units m.payload.length x → mfind v.stackKey x = some k ∧
          (∀ b, b / 512 = x → b < a ∨ a + m.payload.length ≤ b → mfind v.stackMem b = some (plainByte s k b)) ∧
          ((mfind s.stackCrc x).isSome = true →
            mfind v.stackCrc x = some (crc32c ((List.range 512).map fun i => (mfind v.stackMem (512 * x + i)).getD 0)))) ∧
        ∀ b, ¬ units m.payload.length (b / 512) → mfind v.stackMem b = mfind s.stackMem b ∧
          mfind v.stackKey (b / 512) = mfind s.stackKey (b / 512) ∧ mfind v.stackCrc (b / 512) = mfind s.stackCrc (b / 512)) ∧
    (∀ chk c, let len := if m.cls = .read then 32 * m.rflits else m.payload.length
      (∀ st ch id d, m.origin ≠ .segIn st ch id d) → m.rvia = false →
      (accessRegion s n.val off len = .error c ∨ (∃ r, accessRegion s n.val off len = .ok r ∧ fenceStack s m.src n.val off = false ∧ c = E.fenceViolation) ∨
        (∃ r, accessRegion s n.val off len = .ok r ∧ fenceStack s m.src n.val off = true ∧ mfind (stackAt s n.val).keys (regionKey s n.val r) = none ∧
          c = E.xtsKeyAbsent)) →
      ∃ t, (m.cls = .read → exec (.stackReadRequest n chk) s = .next t) ∧ (m.cls ≠ .read → exec (.stackWriteRequest n chk) s = .next t) ∧
        (stackAt t n.val).inbox = q ∧ (stackAt t n.val).lastFail = off ∧ t.stackMem = s.stackMem ∧ t.stackKey = s.stackKey ∧
        t.routers = s.routers ∧ (m.origin ≠ .none → t.notices = s.notices ++ [⟨m.origin, c, m.addr⟩])) ∧
    (∀ r k chk, m.cls = .read → m.rvia = false → okIn (32 * m.rflits) r k →
      let w := touched (regionWeight s n.val r) a (32 * m.rflits)
      let refused := fun (c : Code) => ∃ t, exec (.stackReadRequest n chk) s = .next t ∧ (stackAt t n.val).inbox = q ∧
        errValid t (stackPage n.val 0) = true ∧ t.stackMem = s.stackMem ∧ (m.origin ≠ .none → t.notices = s.notices ++ [⟨m.origin, c, m.addr⟩])
      ((eccEvents n.val off (hitsIn chk w.1 w.2) u).1 = some E.stackEccFail → refused E.stackEccFail) ∧
      ((eccEvents n.val off (hitsIn chk w.1 w.2) u).1 = none → regionWeight s n.val r = true →
        (∃ x, units (32 * m.rflits) x ∧ ∀ again, crc32c (readBytes s k chk again (512 * x) 512) ≠ crcOf s x) → refused E.stackCrcFail)) ∧
    (∀ z w, (eccEvents n.val off [.corrected w] z).1 = none ∧ (eccEvents n.val off [.failed w] z).1 = some E.stackEccFail ∧
      liveF (eccEvents n.val off [.corrected w] z).2 (stackPage n.val 0) 0x820 15 0 = Nat.min 65535 (liveF z (stackPage n.val 0) 0x820 15 0 + 1))

/-- Stack DMA channels start, fetch, wait, move, end and abort as R228 to R234 say (R221, R228, R229, R230, R231, R232, R234, R266, R391, R403). -/
def Obligations.ChannelsRunTheirLists : Prop :=
  ∀ (s : State) (m : Master) (n : Fin 24) (ch : Fin 16),
    let x := stackAt s n.val
    let c := chanAt x ch.val
    let p := stackPage n.val 1
    let after := fun (t : State) => chanAt (stackAt t n.val) ch.val
    let others := fun (t : State) => ∀ j, j ≠ ch.val → chanAt (stackAt t n.val) j = chanAt x j
    reaches m s = true →
    (pageDark s p = false → ¬ (ch.val = 15 ∧ mcUses s n.val = true) → c.st = .idle ∨ c.st = .error →
      ∃ t, exec (.chStart m n ch) s = .next t ∧ others t ∧ after t = { c with
        st := .running, code := 0, desc := none, failed := none, aborting := false, cur := liveF s p (0x800 + 32 * ch.val) 31 0,
        lastEpoch := (live s p (0x804 + 32 * ch.val)).setWidth 16 }) ∧
    (pageDark s p = false → (ch.val = 15 ∧ mcUses s n.val = true) ∨ (c.st ≠ .idle ∧ c.st ≠ .error) →
      ∃ t, exec (.chStart m n ch) s = .next t ∧ after t = c ∧ errValid t p = true ∧
        (errValid s p = false → bits (live t p 0x10) 15 0 = E.stackChBusy.toNat)) ∧
    (pageDark s p = false → c.st = .running ∨ c.st = .waiting ∨ c.st = .stalled →
      ∃ t, exec (.chAbort m n ch) s = .next t ∧ others t ∧
        (c.segs = [] → (after t).st = .idle ∧ (after t).desc = none ∧ (after t).aborting = false) ∧
        (c.segs ≠ [] → after t = { c with aborting := true, st := .running })) ∧
    (∀ l k r, stackRuns s n.val = true → c.st = .running → c.desc = none → c.aborting = false → 32 * c.cur + 32 ≤ stackUsed →
      behind s n.val (stackAddr n.val (32 * c.cur)) 32 = false →
      accessRegion s n.val (32 * c.cur) 32 = .ok r → mfind x.keys (regionKey s n.val r) = some k → l = plainBytes s k (stackAddr n.val (32 * c.cur)) 32 →
      let d := (chDescOf l).1
      let base := { c with desc := some d, started := 0, segs := [], failed := none, woken := none, refused := false,
                           st := if d.wait then .waiting else .running }
      (chDescCheck s n.val d (chDescOf l).2 = none → ∃ t u, exec (.chDescFetch n ch []) s = .next t ∧
        u = setStack n.val (setChan ch.val base x) s ∧
        (d.wait = true → t = chanRegister n.val ch.val d.waitTally c.lastEpoch u) ∧ (d.wait = false → t = runDesc n.val ch.val [] u)) ∧
      (∀ e, chDescCheck s n.val d (chDescOf l).2 = some e → ∃ t, exec (.chDescFetch n ch []) s = .next t ∧
        after t = { c with st := .error, code := e, done := c.done + 1 } ∧ errValid t p = true)) ∧
    (∀ d e chk, stackRuns s n.val = true → c.st = .waiting → c.desc = some d → c.refused = false → c.woken = some e →
      ∃ t, exec (.chWaitRelease n ch chk) s = .next t ∧
        (e = c.lastEpoch → t = chanRegister n.val ch.val d.waitTally e (setStack n.val (setChan ch.val { c with woken := none } x) s)) ∧
        (e ≠ c.lastEpoch → t = runDesc n.val ch.val chk (updChan n.val ch.val (fun y => { y with lastEpoch := e, st := .running }) (updChan n.val ch.val (fun y => { y with woken := none }) s)))) ∧
    (∀ d k chk, stackRuns s n.val = true → c.st = .stalled → c.desc = some d → d.op = 2 → sideOwn s n.val d.dst = true →
      fenceSide s (chanTenant s n.val c) d.dst 0 = true → 0 < d.len → segLen d 0 = d.len → c.started = 0 → c.segs = [] → c.failed = none →
      c.aborting = false → poolUnits d.len ≤ x.poolFree → sideCheck s d.dst d.len = none → placeKey s n.val d.dst 0 = some k →
      ∃ t, exec (.chPoolSpace n ch chk) s = .next t ∧ (stackAt t n.val).poolFree = x.poolFree - poolUnits d.len ∧
        after t = { c with st := .running, started := d.len, nextSeg := c.nextSeg + 1,
                           segs := [⟨c.nextSeg, 0, d.len, d.len, List.replicate d.len 0, poolUnits d.len, some k, false⟩] }) ∧
    (∀ d g k, stackRuns s n.val = true → c.desc = some d → chRemote s d = none → d.len ≤ c.started →
      c.segs.find? (·.id == g.id) = some g → g.data ≠ [] → g.data.length = g.len → g.left = g.len → g.lost = false → g.key = some k →
      let off := bits d.dst 49 0 + g.off - stackAddr n.val 0
      behind s n.val (bits d.dst 49 0 + g.off) g.len = false →
      ∃ t, exec (.chSegmentDone n ch g.id []) s = .next t ∧ (after t).segs = c.segs.filter (·.id != g.id) ∧
        (stackAt t n.val).poolFree = x.poolFree + g.pool ∧
        ∀ i, i < g.len → mfind t.stackMem (stackAddr n.val off + i) = g.data[i]? ∧ mfind t.stackKey ((stackAddr n.val off + i) / 512) = some k) ∧
    (∀ d, stackRuns s n.val = true → c.st = .running ∨ c.st = .stalled → c.aborting = false → c.desc = some d → c.failed = none → c.segs = [] →
      d.len ≤ c.started → ∃ t u, exec (.chDescEnd n ch) s = .next t ∧ t = sendNotify (stackRouter n.val 0).1 (0x7D000 + n.val) d.notify d.tally u ∧
        u.routers = s.routers ∧ u.credits = (if c.credit = true then s.credits - 1 else s.credits) ∧
        after u = { c with desc := none, credit := false, done := c.done + 1, started := 0,
                           st := if d.last then .idle else .running, cur := if d.last then c.cur else d.next }) ∧
    (∀ d e, stackRuns s n.val = true → c.st = .running ∨ c.st = .stalled → c.aborting = false → c.desc = some d → c.failed = some e →
      chRemote s d = none ∨ segsOver c = true → ∃ t, exec (.chDescEnd n ch) s = .next t ∧ (after t).st = .error ∧ (after t).code = e ∧ (after t).desc = none ∧ (after t).segs = [] ∧
        (after t).done = c.done + 1 ∧ errValid t p = true)

/-- LOAD, its stages, UNLOAD and its teardown move a model between EMPTY, LOADING, READY, UNLOADING and EMPTY (R184, R241, R242, R243, R258, R260, R264, R273, R274, R280, R281, R405). -/
def Obligations.ModelsLoadAndUnload : Prop :=
  ∀ (s : State) (ma : Master) (host : HostMem),
    let m := bits (live s 0x18 0x800) 5 0
    let str := bits (live s 0x18 0x800) 9 9
    let pin := bits (live s 0x18 0x800) 8 8
    let free := fun (op : Nat) => s.weights.asked = some op ∨ (cmdBusy s 0x820 = false ∧ mcStops s = false)
    let failed := fun (t : State) (c : Code) => live t 0x18 0x820 = BitVec.ofNat 32 (2 ^ 31 + 2 ^ 30 + c.toNat)
    let s1 := if s.weights.asked = some 1 then { s with weights := { s.weights with asked := none } } else s
    reaches ma s = true →
    (∀ i ∈ [Instr.load ma host, Instr.unload ma], s.weights.asked = none → cmdBusy s 0x820 = true →
      ∃ t, exec i s = .next t ∧ t.weights = s.weights ∧ errValid t 0x18 = true ∧ live t 0x18 0x820 = live s 0x18 0x820) ∧
    (free 1 → (∃ t, exec (.load ma host) s = .next t ∧ (modelState s m ≠ 0 → failed t E.modelBusy) ∧
      (modelState s m = 0 → pin = 1 → str = 1 → failed t E.modelArgInvalid) ∧
      (modelState s m = 0 → pin = 0 → str = 0 → addr64 s 0x80C = 0 → failed t E.modelArgInvalid) ∧
      (modelState s m = 0 → pin = 1 → str = 0 → bits (live s 0x18 0x800) 10 10 = 1 → modelState s (bits (live s 0x18 0x800) 21 16) = 0 → failed t E.modelInvalid) ∧
      (∀ c, loadArgs s = some c → failed t c ∧ t.groups = s.groups ∧ t.weights.models = s.weights.models ∧ t.weights.load = s.weights.load) ∧
      (match loadChecks host s1 with
        | (.error c, u) => t = endCmd 0x820 c u
        | (.ok pl, u) =>
          (match mcGroup (loadPages pl.placed) (loadLead u pl.placed) (loadShadows (wlF u 31 24) pl.placed (loadBegins (wlF u 5 0) pl u)) with
            | .error c => t = endCmd 0x820 c u
            | .ok (g, _) => t.weights.load = some ⟨wlF u 5 0, .commit g, pl.img⟩ ∧ (modelAt t (wlF u 5 0)).place = some pl.placed ∧
                modelState t (wlF u 5 0) = 1 ∧ (grp t g).st = .validating ∧ live t 0x18 0x820 = 0x40000000)))) ∧
    (∀ j g, s.weights.load = some j → j.phase = .commit g → (grp s g).st = .done → j.model < 64 →
      ∃ t, exec .loadContent s = .next t ∧ t.weights.load = none ∧ failed t (grp s g).code ∧ modelState t j.model = 0 ∧
        modelAt t j.model = Model.reset ∧ (grp t g).st = .free) ∧
    (∀ j p, s.weights.load = some j → j.phase = .content → (modelAt s j.model).place = some p → (∀ c ∈ coresOf p, (coreAt s c).clearing = []) →
      ∃ t, exec .loadContent s = .next t ∧ t.weights.load = some { j with phase := .landing } ∧ t.weights.inst = s.weights.inst ∧
        (∀ f c k, p.img.fields = [f] → p.img.debug = false → f.content = [c] → boundCore p f.field c.slot = some k →
          t = (piecesOf 512 512 c.off (patched p f c).length).foldl (fun u q => injectFcu f.field (towardAddr (coreAddr k (c.off + q.1))
            { msgNull with cls := .data, payload := ((patched p f c).drop q.1).take q.2, origin := .fcu j.model c.full }) u)
            { s with weights := { s.weights with load := some { j with phase := .landing } } })) ∧
    (∀ j p, s.weights.load = some j → j.phase = .landing → (modelAt s j.model).place = some p → contentsFly s j.model = false →
      ∃ t i, exec .loadContent s = .next t ∧ t.weights.load = some { j with phase := .install } ∧ t.weights.inst = some i ∧
        i.model = j.model ∧ i.epoch = 0 ∧ i.img = j.img ∧ i.phase = .query ∧ i.todo = unitsOfImg j.img) ∧
    (∀ j p, s.weights.load = some j → j.phase = .threads → (modelAt s j.model).place = some p → pageGroup s 0x18 = none → j.model < 64 →
      ∃ t, exec .loadThreadStart s = .next t ∧ t.weights.load = none ∧ modelState t j.model = 2 ∧ epochSt t j.model 0 = 3 ∧ activeEp t j.model = 0 ∧
        live t 0x18 0x820 = 0x80000000 ∧
        (∀ f r k, p.img.fields = [f] → f.recs = [r] → p.cores = [[k]] → ∀ n, n < 16 → r.start.getLsbD n = true →
          (threadAt (coreAt s k) n).st = .stopped → (threadAt (coreAt t k) n).st = .ready ∧
          (∀ a, r.pcs[n]? = some a → (threadAt (coreAt t k) n).pc = BitVec.ofNat 18 a))) ∧
    (free 4 → ∃ t, exec (.unload ma) s = .next t ∧ (modelState s m = 0 → failed t E.modelInvalid) ∧
      (modelState s m ≠ 0 → pageLocked s 0x18 = true → failed t E.epochBusy ∧ t.weights.models = s.weights.models) ∧
      (modelState s m ≠ 0 → pageLocked s 0x18 = false → streamsOf s m = [] →
        modelState t m = 3 ∧ t.weights.unloading = some m ∧ live t 0x18 0x820 = 0x40000000)) ∧
    (∀ k p, k < 64 → modelState s k = 3 → inflight s k 0 = 0 → inflight s k 1 = 0 →
      (∀ j < k, ¬ (modelState s j = 3 ∧ inflight s j 0 = 0 ∧ inflight s j 1 = 0)) → (modelAt s k).place = some p →
      ∃ t, exec .unloadTeardown s = .next t ∧ modelState t k = 0 ∧ activeEp t k = 0 ∧ epochSt t k 0 = 0 ∧ epochSt t k 1 = 0 ∧
        modelAt t k = Model.reset ∧ (s.weights.unloading = some k → live t 0x18 0x820 = 0x80000000 ∧ t.weights.unloading = none) ∧
        (∀ c ∈ coresOf p, mfind t.owner c = none ∧ ∀ a, a / 0x40000 = c → mget 0 t.mem a = 0) ∧
        ∀ e ∈ p.img.tallies, mfind t.tallyOwner e.1 = none)

/-- INSTALL fills an EMPTY epoch from a peer or the host, and switches drain, copy and release epochs (R263, R264, R268, R270, R271, R272, R273, R280, R281). -/
def Obligations.EpochsInstallSwitchAndDrain : Prop :=
  ∀ (s : State) (ma : Master) (host : HostMem),
    let m := bits (live s 0x18 0x800) 5 0
    let e := bits (live s 0x18 0x800) 6 6
    let staged := bits (live s 0x18 0x800) 7 7
    let free := fun (op : Nat) => s.weights.asked = some op ∨ (cmdBusy s 0x820 = false ∧ mcStops s = false)
    let failed := fun (t : State) (c : Code) => live t 0x18 0x820 = BitVec.ofNat 32 (2 ^ 31 + 2 ^ 30 + c.toNat)
    let s1 := if s.weights.asked = some 2 then { s with weights := { s.weights with asked := none } } else s
    reaches ma s = true →
    (free 2 → ∃ t, exec (.install ma host) s = .next t ∧
      (modelState s m ≠ 2 → failed t E.modelInvalid ∧ t.weights.inst = s.weights.inst) ∧
      (modelState s m = 2 → pageLocked s 0x18 = true ∨ epochSt s m e ≠ 0 → failed t E.epochBusy ∧ t.weights.inst = s.weights.inst) ∧
      (modelState s m = 2 → pageLocked s 0x18 = false → epochSt s m e = 0 → staged = 1 → streamed s m = true → failed t E.gristMismatch) ∧
      (modelState s m = 2 → pageLocked s 0x18 = false → epochSt s m e = 0 → ¬ (staged = 1 ∧ streamed s m = true) →
        match installImage m e (staged == 1) host s1 with
        | (.error c, u) => t = endCmd 0x820 c u
        | (.ok g, _) => epochSt t m e = 1 ∧ live t 0x18 0x820 = 0x40000000 ∧ ∃ i, t.weights.inst = some i ∧ i.model = m ∧ i.epoch = e ∧
            i.img = g ∧ i.phase = .query ∧ i.held = [] ∧ i.todo = unitsOfImg g)) ∧
    (∀ who i q l, instAt s who = some i → i.phase = .query → i.todo = q :: l → i.held.find? (svcLinks s).contains = none →
      ∃ t, exec (.holdingQueryTimeout who) s = .next t ∧
        instAt t who = some { i with phase := .units, peer := none, cur := some ⟨q.1, q.2, unitLen (rangeOf i.img q.1) q.2, [], true⟩ }) ∧
    (∀ who i q l k, instAt s who = some i → i.phase = .query → i.todo = q :: l → i.held.find? (svcLinks s).contains = some k →
      ∃ t, exec (.holdingQueryTimeout who) s = .next t ∧
        instAt t who = some { i with phase := .units, peer := some k, cur := some ⟨q.1, q.2, unitLen (rangeOf i.img q.1) q.2, [], false⟩ }) ∧
    (∀ i u, s.weights.inst = some i → (modelAt s i.model).suspended = false → i.cur = some u → u.host = false → u.left = 0 →
      let l := (List.range (unitLen (rangeOf i.img u.range) u.unit)).map (mget 0 u.got)
      (sha256 l ≠ (i.img.digests.getD u.range []).getD u.unit [] →
        ∃ t, exec (.gristUnitArrival 0 host) s = .next t ∧ t.weights.inst = some { i with cur := some { u with host := true } }) ∧
      (∀ q r k a p, sha256 l = (i.img.digests.getD u.range []).getD u.unit [] → i.todo = q :: r → gristPlace s i.model = some p →
        (rangeOf i.img u.range).kind = 0 → i.staged = false → (rangeOf i.img u.range).stageStack = 0xFF →
        coreUnit p (rangeOf i.img u.range) u.unit = some (k, a) → i.peer = none →
        ∃ t, exec (.gristUnitArrival 0 host) s = .next t ∧ readMem t (coreAddr k a) l.length = l ∧
          (∀ q2 r2, r = q2 :: r2 → t.weights.inst = some { i with todo := r, bytes := i.bytes + l.length, cur := some ⟨q2.1, q2.2, unitLen (rangeOf i.img q2.1) q2.2, [], true⟩ }) ∧
          (r = [] → s.weights.load = none → i.model < 64 → i.epoch < 2 → t.weights.inst = none ∧ epochSt t i.model i.epoch = 2 ∧ live t 0x18 0x820 = 0x80000000))) ∧
    (∀ i u ct v, s.weights.inst = some i → (modelAt s i.model).suspended = false → i.cur = some u → u.host = true →
      readImage (i.img.addr + envHdr + unitPos (rangeOf i.img u.range) u.unit) (unitLen (rangeOf i.img u.range) u.unit) host s = (.ok ct, v) →
      sha256 (hostUnit v i.tenant i.img (rangeOf i.img u.range) u.unit ct) ≠ (i.img.digests.getD u.range []).getD u.unit [] →
      s.weights.load = none → i.model < 64 → i.epoch < 2 →
      ∃ t, exec (.gristUnitArrival 0 host) s = .next t ∧ t.weights.inst = none ∧ failed t E.gristDigestFail ∧ epochSt t i.model i.epoch = 0) ∧
    (free 3 → ∃ t, exec (.release ma) s = .next t ∧ (modelState s m = 0 → failed t E.modelInvalid) ∧
      (modelState s m ≠ 0 → pageLocked s 0x18 = true ∨ epochSt s m e ≠ 2 → failed t E.epochBusy) ∧
      (modelState s m ≠ 0 → pageLocked s 0x18 = false → epochSt s m e = 2 →
        epochSt t m e = 0 ∧ epImg (modelAt t m) e = none ∧ live t 0x18 0x820 = 0x80000000)) ∧
    (∀ (k : Fin 64) (d : Fin 2), s.beat.mode = .locked → epochSt s k.val d.val = 4 → inflight s k.val d.val = 0 → (modelAt s k.val).switching = none →
      ∃ t, exec (.epochDrainRelease k d) s = .next t ∧ epochSt t k.val d.val = 0 ∧ epImg (modelAt t k.val) d.val = none) ∧
    (∀ (k : Fin 64) (d : Fin 2), epochSt s k.val d.val ≠ 4 ∨ inflight s k.val d.val ≠ 0 ∨ (modelAt s k.val).switching ≠ none →
      ∃ t, exec (.epochDrainRelease k d) s = .next t ∧ t = s) ∧
    (∀ (k : Fin 64) d p g q c a r v l, (modelAt s k.val).switching = some ⟨d, .draining⟩ → (modelAt s k.val).place = some p →
      inflight s k.val (1 - d) = 0 → (modelAt s k.val).suspended = false → epImg (modelAt s k.val) d = some g → s.beat.mode = .locked →
      (unitsOfImg g).filter (fun y => (rangeOf g y.1).kind == 0) = [q] → r = rangeOf g q.1 →
      stackRead r.stageStack (r.stageOff + q.2 * r.len) r.len true [] s = (.ok l, v) → coreUnit p r q.2 = some (c, a) →
      ∃ t, exec (.stagedSwitchCopy k [] []) s = .next t ∧ readMem t (coreAddr c a) l.length = l ∧
        (modelAt t k.val).switching = some ⟨d, .done⟩) ∧
    (∀ (k : Fin 64) d chk again, (modelAt s k.val).switching = some ⟨d, .draining⟩ → inflight s k.val (1 - d) ≠ 0 →
      ∃ t, exec (.stagedSwitchCopy k chk again) s = .next t ∧ t = s) ∧
    (∀ (k : Fin 64) d, (modelAt s k.val).switching = some ⟨d, .done⟩ → d < 2 → s.beat.mode = .locked →
      ∃ t u, exec (.stagedSwitchDone k) s = .next t ∧ epochSt u k.val d = 3 ∧ epochSt u k.val (1 - d) = 0 ∧ (modelAt u k.val).switching = none ∧
        (srvOn u = false ∨ hostReady u = false → t = u))

/-- AD_INSTALL fills a FREE slot, AD_RETIRE retires a READY one, and a retiring slot without streams is FREE at a tick (R263, R264, R275, R278, R280). -/
def Obligations.AdapterSlotsLive : Prop :=
  ∀ (s : State) (ma : Master) (host : HostMem),
    let k := bits (live s 0x18 0x830) 9 0
    let v := bits (live s 0x18 0x834) 31 16
    let m := bits (live s 0x18 0x834) 5 0
    let free := s.weights.adAsked = true ∨ (cmdBusy s 0x850 = false ∧ mcStops s = false)
    let failed := fun (t : State) (c : Code) => live t 0x18 0x850 = BitVec.ofNat 32 (2 ^ 31 + 2 ^ 30 + c.toNat)
    let s1 := if s.weights.adAsked = true then { s with weights := { s.weights with adAsked := false } } else s
    reaches ma s = true →
    (free → ∃ t, exec (.adInstall ma host) s = .next t ∧
      (v = 0xFFFF → failed t E.reservedValue ∧ t.weights.adapters = s.weights.adapters) ∧
      (v ≠ 0xFFFF → (adapterAt s k).st ≠ .free ∨ modelState s m ≠ 2 → failed t E.adapterInvalid ∧ t.weights.adapters = s.weights.adapters) ∧
      (v ≠ 0xFFFF → (adapterAt s k).st = .free → modelState s m = 2 →
        match adapterImage m host s1 with
        | (.error c, u) => t = endCmd 0x850 c u
        | (.ok g, u) => live t 0x18 0x850 = 0x40000000 ∧ t.weights.adSlot = k ∧
            adapterAt t k = ⟨.installing, 0, v, modelTenant u m, m, (rangeOf g 0).unit, (rangeOf g 0).off, (rangeOf g 0).len⟩ ∧
            (∀ j, j ≠ k → adapterAt t j = adapterAt u j) ∧ ∃ i, t.weights.adInst = some i ∧ i.model = m ∧ i.img = g ∧ i.phase = .query ∧ i.todo = unitsOfImg g)) ∧
    (¬ free → ∃ t, exec (.adInstall ma host) s = .next t ∧ t.weights = s.weights ∧ errValid t 0x18 = true) ∧
    (cmdBusy s 0x850 = true → ∃ t, exec (.adRetire ma) s = .next t ∧ t.weights = s.weights ∧ errValid t 0x18 = true) ∧
    (cmdBusy s 0x850 = false → mcStops s = false → ∃ t, exec (.adRetire ma) s = .next t ∧
      ((adapterAt s k).st = .ready → adapterAt t k = { adapterAt s k with st := .retiring } ∧ live t 0x18 0x850 = 0x80000000) ∧
      ((adapterAt s k).st ≠ .ready → failed t E.adapterInvalid ∧ t.weights.adapters = s.weights.adapters) ∧
      ∀ j, j ≠ k → adapterAt t j = adapterAt s j) ∧
    (∀ n : Fin 1024, s.beat.mode = .locked → (adapterAt s n.val).st = .retiring → (adapterAt s n.val).refs = 0 →
      ∃ t, exec (.adapterSlotFree n) s = .next t ∧ (adapterAt t n.val).st = .free ∧ ∀ j, j ≠ n.val → adapterAt t j = adapterAt s j) ∧
    (∀ n : Fin 1024, (adapterAt s n.val).st ≠ .retiring ∨ (adapterAt s n.val).refs ≠ 0 → ∃ t, exec (.adapterSlotFree n) s = .next t ∧ t = s)

/-- The poll reads summary, CONS and changed lines; END, REBIND and selections act on their stream and are answered (R285, R286, R287, R288, R291, R296, R307, R309, R346, R348, R39, R360). -/
def Obligations.PollRequestsAndSelections : Prop :=
  ∀ (s : State) (host : HostMem),
    let x := fun (i : Nat) => streamAt s i
    let v := { s with serving := { s.serving with polling := false } }
    let answered := fun (u : State) (i : Nat) (c : Code) (seq : Nat) (ended : Bool) => (streamAt u i).lastCode = c ∧ (streamAt u i).reqSeq = seq ∧
      ∃ e, u.serving.queue = s.serving.queue ++ [e] ∧ e.stream = i ∧ e.kind = 5 ∧ e.code = c ∧ e.reqSeq = seq ∧ e.ended = ended
    (s.serving.polling = false → ∃ t, exec (.hostPoll host) s = .next t ∧ t = s) ∧
    (∀ c u, s.serving.polling = true → readHost 1 (srvAddr v 0) 4160 host v = (.error c, u) →
      ∃ t, exec (.hostPoll host) s = .next t ∧ t = u ∧ t.serving = { s.serving with polling := false } ∧ errValid t 0x20 = true) ∧
    (∀ h u, s.serving.polling = true → readHost 1 (srvAddr v 0) 4160 host v = (.ok h, u) → (∀ i, i < 4096 → le h i 1 = (x i).sumSeen) →
      ∃ t, exec (.hostPoll host) s = .next t ∧ t.serving = { s.serving with polling := false, cons := le h 0x1000 8, work := [] }) ∧
    (∀ h u i a b w1 w2, s.serving.polling = true → readHost 1 (srvAddr v 0) 4160 host v = (.ok h, u) → i < 4096 → le h i 1 ≠ (x i).sumSeen →
      (∀ j, j < 4096 → j ≠ i → le h j 1 = (x j).sumSeen) → 0 < liveF u 0x10 0x40 12 0 →
      let w := { u with serving := { u.serving with cons := le h 0x1000 8 } }
      readHost 1 (srvAddr w 1 + 64 * i) 64 host w = (.ok a, w1) → readHost 1 (srvAddr w1 2 + 64 * i) 64 host w1 = (.ok b, w2) →
      ∃ t, exec (.hostPoll host) s = .next t ∧ t.serving.cons = le h 0x1000 8 ∧
        (le a 0 2 ≠ le a 0x3E 2 ∨ le b 0 2 ≠ le b 0x3E 2 → t.serving.work = [] ∧ t.serving.streams = s.serving.streams) ∧
        (le a 0 2 = le a 0x3E 2 → le b 0 2 = le b 0x3E 2 → le a 0 2 ≠ (x i).reqSeq → 1 ≤ le a 2 1 → le a 2 1 ≤ 4 → canHold w2 64 = true →
          t.serving.streams = s.serving.streams ∧ ∃ it, t.serving.work = [it] ∧ it.stream = i ∧ it.sum = le h i 1 ∧ it.req = some (reqOf a).2)) ∧
    (∀ i ∈ [Instr.reqEnd, Instr.rebind, Instr.selection], s.serving.work = [] → ∃ t, exec i s = .next t ∧ t = s) ∧
    (∀ it r l, frontReq s 2 = some (it, r, l) → ∃ t u, exec .reqEnd s = .next t ∧ t = settleWork ({ it with req := none } :: l) u ∧
      (r.clean = false → answered u it.stream E.reqInvalid r.seq false ∧ (streamAt u it.stream).st = (x it.stream).st) ∧
      (r.clean = true → (x it.stream).st = .free → answered u it.stream E.streamState r.seq false) ∧
      (r.clean = true → (x it.stream).st ≠ .free → (x it.stream).st ≠ .ending → (x it.stream).run = none →
        answered u it.stream 0 r.seq true ∧ (streamAt u it.stream).st = .free) ∧
      (r.clean = true → (x it.stream).st ≠ .free → (x it.stream).st ≠ .ending → (x it.stream).run ≠ none →
        answered u it.stream 0 r.seq false ∧ (streamAt u it.stream).st = .ending ∧ (streamAt u it.stream).run = (x it.stream).run)) ∧
    (∀ it r l, frontReq s 3 = some (it, r, l) → ∃ t u, exec .rebind s = .next t ∧ t = settleWork ({ it with req := none } :: l) u ∧
      (r.clean = true → ((x it.stream).st = .free ∨ (x it.stream).st = .ending) → answered u it.stream E.streamState r.seq false) ∧
      (r.clean = true → (x it.stream).st ≠ .free → (x it.stream).st ≠ .ending → answered u it.stream 0 r.seq false ∧
        (streamAt u it.stream).st = (x it.stream).st ∧ (streamAt u it.stream).ad = (x it.stream).ad ∧
        (streamAt u it.stream).rebind = some (if r.adapter / 2 ^ 15 = 1 then some (r.adapter % 1024) else none))) ∧
    (∀ it q l, s.serving.work = it :: l → it.req = none → it.sel = some q → ∃ t u, exec .selection s = .next t ∧
      t = settleWork ({ it with sel := none } :: l) u ∧
      let y := x it.stream
      let z := streamAt u it.stream
      let kept := fun (c : Code) => z = { y with selSeq := q.seq, lastCode := c }
      let limit := 64 * liveF s 0x1A (0x40 + 12 * y.model) 27 13
      ((q.step + 1) % 2 ^ 32 ≠ y.step → kept E.selStale) ∧
      ((q.step + 1) % 2 ^ 32 = y.step →
        (openSel s it.stream q = none → kept E.selAuthFail) ∧
        (∀ tok act acc, openSel s it.stream q = some (tok, act, acc) →
          (act = 0 → vocab s y.model ≤ tok → kept E.selTokenInvalid) ∧
          ((act = 0 → tok < vocab s y.model) → (y.lastNodes = [] ∧ acc ≠ 0) ∨ (y.lastNodes ≠ [] ∧ y.lastNodes.length ≤ acc) → kept E.selAcceptInvalid) ∧
          (act = 1 → (y.lastNodes = [] ∧ acc = 0) ∨ acc < y.lastNodes.length → y.st = .waitSel → y.run = none → z.st = .free ∧
            ∃ e, (u.serving.queue = s.serving.queue ++ [e] ∨ u.serving.late = s.serving.late ++ [e]) ∧ e.stream = it.stream ∧ e.kind = 6 ∧ e.code = 0 ∧ e.ended = true) ∧
          (act = 0 → tok < vocab s y.model → y.lastNodes = [] → acc = 0 → y.pos < limit →
            z = { y with selSeq := q.seq, tokens := y.tokens.take y.pos ++ [tok], token := tok, prevA := 0, prevPath := [], st := .scheduled, hold := .none, nextBeat := s.beat.now + 1 }) ∧
          (∀ n, act = 0 → tok < vocab s y.model → y.lastNodes[acc]? = some n → y.pos + n.depth + 1 < limit →
            z.st = .scheduled ∧ z.pos = y.pos + n.depth + 1 ∧ z.token = tok ∧ z.prevA = n.depth ∧ z.lastPos = y.pos ∧ z.nextBeat = s.beat.now + 1 ∧
            balance u y.tenant = if s.beat.mode = .lost then balance s y.tenant
              else Nat.min (fullBalance s y.tenant) (balance s y.tenant + 16 * (y.lastDepth - n.depth))) ∧
          (act = 0 → tok < vocab s y.model → y.lastNodes = [] → acc = 0 → limit ≤ y.pos → y.st = .waitSel → y.run = none →
            z.st = .free ∧ z.lastCode = E.contextLimit))))

/-- ADMIT and PREFILL check their request in order, open the prompt, reserve the frames and make the stream SCHEDULED (R289, R290, R291, R319, R320, R330, R416, R419). -/
def Obligations.AdmitAndPrefillSetStreams : Prop :=
  ∀ (s : State) (host : HostMem) (blocks : Nat),
    let x := fun (i : Nat) => streamAt s i
    let answered := fun (u : State) (i : Nat) (c : Code) (seq : Nat) => (streamAt u i).lastCode = c ∧ (streamAt u i).reqSeq = seq ∧
      ∃ e, u.serving.queue = s.serving.queue ++ [e] ∧ e.stream = i ∧ e.kind = 5 ∧ e.code = c ∧ e.reqSeq = seq ∧ e.ended = false
    let kept := fun (u : State) (i seq : Nat) (c : Code) => answered u i c seq ∧ streamAt u i = { x i with reqSeq := seq, lastCode := c }
    let rest := fun (t u : State) (it : PollItem) (l : List PollItem) => t = settleWork ({ it with req := none } :: l) u
    (∀ i ∈ [Instr.admit_ host blocks, Instr.prefill host blocks], s.serving.work = [] → ∃ t, exec i s = .next t ∧ t = s) ∧
    (∀ it r l, frontReq s 1 = some (it, r, l) → ∃ t u, exec (.admit_ host blocks) s = .next t ∧ rest t u it l ∧
      (r.clean = false ∨ r.promptLen = 0 → kept u it.stream r.seq E.reqInvalid) ∧
      (r.clean = true → r.promptLen ≠ 0 → (x it.stream).st ≠ .free → kept u it.stream r.seq E.streamBusy) ∧
      (r.clean = true → r.promptLen ≠ 0 → (x it.stream).st = .free → r.topk = 0xFFFF → kept u it.stream r.seq E.reservedValue) ∧
      (r.clean = true → r.promptLen ≠ 0 → (x it.stream).st = .free → 1024 < r.topk → r.topk ≠ 0xFFFF → kept u it.stream r.seq E.countOverrun) ∧
      (∀ c, admitChecks s it.stream r = some c → kept u it.stream r.seq c) ∧
      (admitChecks s it.stream r = none → ∀ o v, openPrompt it.stream r (keysOf s r.session).1 host s = (o, v) →
        (∀ c, o = .error c → kept u it.stream r.seq c) ∧
        (∀ l, o = .ok l → admitTokens it.stream r l blocks v = none → kept u it.stream r.seq E.kvExhausted) ∧
        (∀ l w, o = .ok l → admitTokens it.stream r l blocks v = some w → answered u it.stream 0 r.seq ∧
          (streamAt u it.stream).st = .scheduled ∧ (streamAt u it.stream).model = r.model ∧ (streamAt u it.stream).tenant = r.tenant ∧
          (streamAt u it.stream).topk = r.topk ∧ (streamAt u it.stream).session = r.session ∧ (streamAt u it.stream).tokens = l ∧
          (streamAt u it.stream).promptEnd = r.promptLen ∧ (streamAt u it.stream).first = true ∧ (streamAt u it.stream).nextBeat = s.beat.now + 1 ∧
          (streamAt u it.stream).pos % 64 = 0 ∧ (sessionAt u r.session).st = .bound ∧ (sessionAt u r.session).stream = it.stream))) ∧
    (∀ it r l, frontReq s 4 = some (it, r, l) → ∃ t u, exec (.prefill host blocks) s = .next t ∧ rest t u it l ∧
      (r.clean = false ∨ r.promptLen = 0 → kept u it.stream r.seq E.reqInvalid) ∧
      (r.clean = true → r.promptLen ≠ 0 → (x it.stream).st ≠ .needPrefill → kept u it.stream r.seq E.streamState) ∧
      (r.clean = true → r.promptLen ≠ 0 → (x it.stream).st = .needPrefill → r.topk = 0xFFFF → kept u it.stream r.seq E.reservedValue) ∧
      (r.clean = true → r.promptLen ≠ 0 → (x it.stream).st = .needPrefill → 1024 < r.topk → r.topk ≠ 0xFFFF → kept u it.stream r.seq E.countOverrun) ∧
      (r.clean = true → r.promptLen ≠ 0 → (x it.stream).st = .needPrefill → r.topk ≤ 1024 → r.promptLen = 0xFFFFFFFF → kept u it.stream r.seq E.reservedValue) ∧
      (r.clean = true → r.promptLen ≠ 0 → (x it.stream).st = .needPrefill → r.topk ≤ 1024 → r.promptLen ≠ 0xFFFFFFFF → (x it.stream).model < 64 →
        r.promptLen ≤ ctxLimit s (x it.stream).model → ∀ o v, openPrompt it.stream r (keysOf s (x it.stream).session).1 host s = (o, v) →
        (∀ c, o = .error c → kept u it.stream r.seq c) ∧
        (∀ l w, o = .ok l → prefillTokens it.stream r l blocks v = some w → answered u it.stream 0 r.seq ∧
          (streamAt u it.stream).st = .scheduled ∧ (streamAt u it.stream).tokens = l ∧ (streamAt u it.stream).promptEnd = r.promptLen ∧
          (streamAt u it.stream).first = true ∧ (streamAt u it.stream).nextBeat = s.beat.now + 1 ∧ (streamAt u it.stream).model = (x it.stream).model)))

/-- Outputs are collected, checked and acknowledged, verification is issued, and a complete step queues its sealed entry (R21, R23, R269, R282, R295, R300, R301, R305, R309, R339, R344, R421). -/
def Obligations.OutputsCompleteSteps : Prop :=
  ∀ (s : State),
    let x := fun (i : Nat) => streamAt s i
    (∀ m : Fin 64, (modelAt s m.val).place = none ∨ mioValid s m.val = false ∨
      (tallyAt s (mioF s m.val 2 29 15)).epoch = (modelAt s m.val).outEpoch → ∃ t, exec (.outputCollect m) s = .next t ∧ t = s) ∧
    (∀ (m : Fin 64) p c, (modelAt s m.val).place = some p → slotCore s m.val (mioF s m.val 1 24 18) (mioF s m.val 1 17 6) = some c →
      mioValid s m.val = true → (tallyAt s (mioF s m.val 2 29 15)).epoch ≠ (modelAt s m.val).outEpoch →
      let y := modelAt s m.val
      let desc := [(coreAddr c (16384 * mioF s m.val 1 3 0 + 256 * (y.outNo % 64)), 256)]
      let asks := fun (t : State) (l : Option (List Byte)) (want : List (Nat × Nat)) => (modelAt t m.val).collect = some ⟨l, want, y.readNo, [], false⟩ ∧
        (modelAt t m.val).readNo = y.readNo + want.length ∧ (modelAt t m.val).outNo = y.outNo ∧ t.serving = s.serving
      let taken := fun (t u : State) => let h := hubPort s (fieldOfCore c)
        t = sendAdd (hubRouter h) (srcHub h) (mioF s m.val 2 14 0) 1 u ∧ (modelAt u m.val).collect = none ∧
        (modelAt u m.val).outNo = y.outNo + 1 ∧ (modelAt u m.val).outEpoch = y.outEpoch + 1
      let skipped := ∃ t u, exec (.outputCollect m) s = .next t ∧ taken t u ∧ u.serving = s.serving ∧
        bits (live u 0x10 0x814) 31 16 = Nat.min 0xFFFF (bits (live s 0x10 0x814) 31 16 + 1)
      (y.collect = none → ∃ t, exec (.outputCollect m) s = .next t ∧ asks t none desc) ∧
      (∀ q, y.collect = some q → collected q = false → exec (.outputCollect m) s = .next s) ∧
      (∀ q, y.collect = some q → collected q = true → q.desc = none →
        let d := outDesc (collectBytes q)
        (q.bad = true ∨ (x d.stream).run = none → skipped) ∧
        (∀ r, q.bad = false → (x d.stream).run = some r → r.step = d.step → (x d.stream).model = m.val → r.mainLeft = true → r.kind ≠ 2 →
          ∃ t, exec (.outputCollect m) s = .next t ∧ asks t (some (collectBytes q)) (if segsOk p d then hubPieces d.segs else []))) ∧
      (∀ q l, y.collect = some q → collected q = true → q.bad = false → q.desc = some l →
        let d := outDesc l
        ((x d.stream).run = none → skipped) ∧
        (∀ r, (x d.stream).run = some r → r.step = d.step → (x d.stream).model = m.val → r.mainLeft = true → r.kind = 0 → r.final = true → d.kind = 0 →
          r.out = none → (x d.stream).topk = 0 → ∃ t u, exec (.outputCollect m) s = .next t ∧ taken t u ∧
          (segsOk p d = true → 4 * vocab s m.val ≤ segTotal d →
            (streamAt u d.stream).run = some { r with mainLeft := false, out := some ⟨0, vocab s m.val, (collectBytes q).take (4 * vocab s m.val), 0⟩ }) ∧
          (segsOk p d = false → (streamAt u d.stream).run = some { r with mainLeft := false, out := some ⟨2, 0, [], E.outputInvalid⟩ })))) ∧
    (∀ (i : Fin 4096) r, (x i.val).run = some r → r.kind = 2 → r.nodes ≠ [] → r.verifying = false → s.beat.mode = .locked → r.treeBeat ≠ s.beat.now →
      let m := (x i.val).model
      let e := activeEp s m
      (modelHold s m ≠ .none → ∃ t, exec (.specVerifyIssue i) s = .next t ∧ (streamAt t i.val).hold = modelHold s m ∧ (streamAt t i.val).run = some r) ∧
      (modelHold s m = .none → m < 64 → inflight s m e < 4096 → ∃ t, exec (.specVerifyIssue i) s = .next t ∧ (streamAt t i.val).hold = .none ∧
        (streamAt t i.val).epoch = e ∧ (streamAt t i.val).run = some { r with verifying := true, epoch := e } ∧ inflight t m e = inflight s m e + 1 ∧
        (modelAt t m).marker = (modelAt s m).marker + 1)) ∧
    (∀ (i : Fin 4096), (x i.val).run = none ∨ (∃ r, (x i.val).run = some r ∧ (r.kind ≠ 2 ∨ r.nodes = [] ∨ r.verifying = true)) ∨ s.beat.mode ≠ .locked →
      ∃ t, exec (.specVerifyIssue i) s = .next t ∧ t = s) ∧
    (∀ (i : Fin 4096), (x i.val).run = none ∨ (∃ r, (x i.val).run = some r ∧ (r.out = none ∨ r.mainLeft = true ∨ r.draftLeft = true)) →
      ∃ t, exec (.stepComplete i) s = .next t ∧ t = s) ∧
    (∀ (i : Fin 4096) r o, (x i.val).run = some r → r.out = some o → r.mainLeft = false → r.draftLeft = false → recordable s = true →
      ∃ t u e, exec (.stepComplete i) s = .next t ∧ t = closingRecord u ∧ u.serving.queue = s.serving.queue ++ [e] ∧
        e.stream = i.val ∧ e.step = r.step ∧ e.pos = r.pos ∧ e.count = o.count ∧ e.epoch = r.epoch ∧ e.beat = s.beat.now ∧ e.resv = r.resv ∧ e.of = some r ∧
        e.code = (if o.code ≠ 0 then o.code else if r.code ≠ 0 then r.code else if (x i.val).st = .ending then (x i.val).endCode else 0) ∧
        e.ended = ((x i.val).st == .ending) ∧ e.kind = (if r.kind = 2 then 3 else if o.kind = 3 then 4 else if r.kind = 1 then (if r.final then 2 else 1) else 0) ∧
        (o.payload = [] → e.payload = [] ∧ e.sealed_ = false) ∧
        (o.payload ≠ [] → e.sealed_ = true ∧ e.nonce = leBytes 4 0 ++ leBytes 8 (sessionAt s (x i.val).session).counter ∧
          (e.payload, e.tag) = gcmSeal (keysOf s (x i.val).session).2 e.nonce (entryHead { e with payload := o.payload }) o.payload) ∧
        ((x i.val).st = .ending → (streamAt u i.val).st = .free) ∧
        ((x i.val).st ≠ .ending → (streamAt u i.val).run = none ∧ (streamAt u i.val).st = (if r.final then .waitSel else .scheduled) ∧
          (streamAt u i.val).pos = (if r.kind = 2 then r.pos else r.pos + r.count) ∧ (streamAt u i.val).lastCode = e.code ∧
          (r.final = false → (streamAt u i.val).nextBeat = s.beat.now + 2))) ∧
    (∀ (i : Fin 4096) r o, (x i.val).run = some r → r.out = some o → r.mainLeft = false → r.draftLeft = false → recordable s = false →
      (x i.val).st = .inFlight → ∃ t, exec (.stepComplete i) s = .next t ∧ (streamAt t i.val).run = none ∧ (streamAt t i.val).st = .scheduled ∧
        (streamAt t i.val).pos = r.pos ∧ (streamAt t i.val).token = r.token ∧ (streamAt t i.val).first = r.first ∧
        (streamAt t i.val).paid = Nat.max 1 r.count :: (x i.val).paid ∧ (streamAt t i.val).nextBeat = s.beat.now + 1 ∧ t.serving.queue = s.serving.queue)

/-- ST_SEL, PX_SEL and SPEC_SEL latch the selected entry, ST_CMD.END ends its stream and FLUSH_MODEL detaches a model's prefixes (R283, R309, R312, R329, R332, R335, R352). -/
def Obligations.ServingRegistersSelectAndEnd : Prop :=
  ∀ (s : State) (m : Master),
    reaches m s = true →
    (∀ i : Fin 4096, let x := streamAt s i.val
      ∃ t w0 w1 w2 w3, exec (.stSel m i) s = .next t ∧ t.serving = { s.serving with stLatch := [w0, w1, w2, w3, BitVec.ofNat 64 x.promptEnd, x.prompt] } ∧
        live t 0x11 0x800 = BitVec.ofNat 32 i.val ∧
        (x.epoch < 2 → x.model < 64 → x.tenant < 256 → x.step < 2 ^ 32 → (∀ a, x.ad = some a → a.1 < 1024 ∧ a.2 < 65536) →
          bits w0 63 61 = streamCode x.st ∧ bits w0 60 60 = x.epoch ∧ bits w0 59 54 = x.model ∧ bits w0 53 46 = x.tenant ∧ bits w0 31 0 = x.step) ∧
        (x.sumSeen < 256 → bits w2 63 60 = holdCode x.hold ∧ bits w2 55 48 = x.sumSeen ∧ bits w2 47 0 = x.nextBeat.toNat) ∧
        (x.reqSeq < 65536 → x.selSeq < 65536 → x.session < 65536 → bits w3 63 48 = x.lastCode.toNat ∧ bits w3 47 32 = x.reqSeq ∧
          bits w3 31 16 = x.selSeq ∧ bits w3 15 0 = x.session)) ∧
    (∀ i : BitVec 16, ∃ t, exec (.pxSel m i) s = .next t ∧ live t 0x1A 0x820 = i.setWidth 32 ∧ t.serving.px = s.serving.px ∧
      t.serving.streams = s.serving.streams ∧ (pxAt s i.toNat = none → t.serving.pxLatch = [0, 0, 0]) ∧
      (∀ e, pxAt s i.toNat = some e → t.serving.pxLatch = pxWords e)) ∧
    (∀ i : Fin 4096, ∃ t, exec (.specSel m i) s = .next t ∧ t.serving = s.serving ∧ live t 0x1B 0x800 = BitVec.ofNat 32 i.val ∧
      ((streamAt s i.val).spec = false → live t 0x1B 0x804 = 0) ∧
      ((streamAt s i.val).spec = true → live t 0x1B 0x804 = BitVec.ofNat 32 (2 ^ 25 * (streamAt s i.val).size + 2 ^ 17 * (streamAt s i.val).zrun +
        2 ^ 9 * (streamAt s i.val).plain + 2 ^ 4 * (streamAt s i.val).prevA))) ∧
    (let i := bits (live s 0x11 0x800) 11 0
      let x := streamAt s i
      ∃ t, exec (.stCmdEnd m) s = .next t ∧
        (x.st = .free → (streamAt t i).lastCode = E.streamState ∧ (streamAt t i).st = .free) ∧
        (x.st ≠ .free → x.st ≠ .ending → x.run = none → (streamAt t i).st = .free ∧ (streamAt t i).lastCode = 0 ∧
          (s.serving.late = [] → canHold s 64 = true → ∃ e, t.serving.queue = s.serving.queue ++ [e] ∧ e.stream = i ∧ e.kind = 5 ∧ e.ended = true ∧ e.code = 0)) ∧
        (x.st ≠ .free → x.st ≠ .ending → x.run ≠ none → (streamAt t i).st = .ending ∧ (streamAt t i).run = x.run)) ∧
    (let k := bits (live s 0x1A 0x800) 5 0
      ∃ t, exec (.flushModel m) s = .next t ∧ t.serving.streams = s.serving.streams ∧
        ∀ j e, pxAt t j = some e → e.model = k → e.st ≠ .live)

/-- The host link trains, goes down and recovers, host requests end, exchange memory serves CXL.mem, and vectors are sent as R366 says (R354, R357, R360, R361, R362, R363, R364, R365, R366, R367, R369). -/
def Obligations.HostInterfaceServesTheHost : Prop :=
  ∀ (s : State),
    let h := s.host
    (∀ rate width : Fin 3, h.up = false → s.boot.serviceReady = true → ∃ t, exec (.hostLinkTrain false false rate width) s = .next t ∧
      t.host.up = false ∧ t.host.reqs = h.reqs ∧ errValid t 0x20 = true ∧ (errValid s 0x20 = false → bits (live t 0x20 0x10) 15 0 = E.hostLinkMode.toNat)) ∧
    (∀ (lopt std : Bool) (rate width : Fin 3), h.up = false → s.boot.serviceReady = true → (lopt || std) = true →
      ∃ t, exec (.hostLinkTrain lopt std rate width) s = .next t ∧ t.host.up = true ∧ t.host.rate = rate.val + 1 ∧ t.host.width = width.val + 1 ∧
        t.host.lopt = lopt ∧ t.host.reqs = h.reqs) ∧
    (∀ (lopt std : Bool) (rate width : Fin 3), h.up = true ∨ s.boot.serviceReady = false →
      ∃ t, exec (.hostLinkTrain lopt std rate width) s = .next t ∧ t = s) ∧
    (∀ c, h.up = true → h.reqs = [] → ∃ t u, exec (.hostLinkDown c) s = .next t ∧ t = recordsStop u ∧ u.host.up = false ∧ u.host.reqs = [] ∧
      errValid u 0x20 = true ∧ (c = .perst ∨ c = .hotReset → u.host.cacheEn = false ∧ u.host.hdmOn = false ∧ u.host.memSpace = false ∧ u.host.msixMask = 0xF) ∧
      (c = .disable ∨ c = .loss → u.host.cacheEn = h.cacheEn ∧ u.host.memSpace = h.memSpace) ∧ (c = .d3hot → u.host.memSpace = false) ∧ u.exch = s.exch) ∧
    (∀ c, h.up = true → ∃ t u, exec (.hostLinkDown c) s = .next t ∧ t = recordsStop (h.reqs.foldl (fun v q => hostReqFails q.id v) u) ∧
      u.host.up = false ∧ u.host.reqs = h.reqs) ∧
    (∀ c, h.up = false → exec (.hostLinkDown c) s = .next { s with host := configAfter c h }) ∧
    (configAfter .perst h = configAfter .hotReset h ∧ (configAfter .perst h).cacheEn = false ∧ (configAfter .perst h).memSpace = false ∧ (configAfter .perst h).msixMask = 0xF ∧
      (configAfter .d3hot h).memSpace = false ∧ configAfter .loss h = h) ∧
    (∀ g, ∃ t, exec (.hostLinkUp g) s = .next t ∧ (h.up = false → t = s) ∧
      (h.up = true → t.host.cacheEn = g.cacheEn ∧ t.host.hdmOn = g.hdmOn ∧ t.host.memSpace = g.memSpace ∧ t.host.msix = g.msix.toList ∧
        t.host.msixMask = g.mask ∧ t.host.aer = h.aer &&& ~~~g.aerClear ∧ t.live = s.live)) ∧
    (h.up = true → ∃ t, exec .hostLinkRecovery s = .next t ∧ bit (live t 0x21 0x800) 3 = true ∧ t.host.up = true) ∧
    (∀ id q j l, h.reqs.find? (·.id == id) = some q → h.waiting = [] → h.jobs.find? (·.id == q.job) = some j →
      let gone := fun (js : List HostJob) => { s with host := { h with reqs := h.reqs.filter (·.id != id), jobs := js } }
      let rest := gone (h.jobs.filter (·.id != j.id))
      (q.write = false → l.length = 64 → hostReady s = true →
        let got := j.got ++ [(q.id, (l.drop (q.addr % 64)).take q.len)]
        (∀ m k, j.left = 1 → j.failed = false → j.who = .get m k → exec (.hostReadData id l) s =
          .next (injectEngine (hubRouter k) (replyMsg m (srcHub k) (jobBytes { j with got := got, left := 0 })) rest)) ∧
        (2 ≤ j.left → exec (.hostReadData id l) s =
          .next (gone (h.jobs.map fun k => if k.id = j.id then { j with got := got, left := j.left - 1 } else k)))) ∧
      (∀ o n, q.write = true → hostReady s = true → j.left = 1 → j.failed = false → j.who = .put o n →
        exec (.hostWriteObserved id) s = .next (landed o n rest)) ∧
      (∀ o n, j.left = 1 → j.who = .put o n → o ≠ .none → ∀ i ∈ [Instr.hostRequestError id, Instr.hostRequestTimeout id],
        ∃ t, exec i s = .next t ∧ t.host.reqs = h.reqs.filter (·.id != id) ∧ errValid t 0x20 = true ∧ t.host.lastFail = (q.off, 3) ∧
          t.notices = s.notices ++ [⟨o, E.hostAccessFail, 0⟩])) ∧
    (∀ id l, h.reqs.find? (·.id == id) = none → ∀ i ∈ [Instr.hostReadData id l, Instr.hostWriteObserved id, Instr.hostRequestError id, Instr.hostRequestTimeout id],
      exec i s = .next s) ∧
    (∀ w o a l, hostReady s = true → h.waiting = [] → h.reqs.length < 1024 → a % 64 = 0 → l.length = 64 →
      (hostSend w true o a 64 l s).out = s.out ++ [.itoMWr (h.nextReq + 1) (a / 64) l] ∧
      (hostSend w false o a 64 [] s).out = s.out ++ [.rdCurr (h.nextReq + 1) (a / 64)]) ∧
    (∃ t, exec .h2dSnoop s = .next t ∧ t = { s with out := s.out ++ [.rspIHitI] }) ∧
    (∀ a len l, h.up = true → h.hdmOn = true → a + l.length ≤ 0x10000000 → ∃ t, exec (.hdmAccess a len (some l) false) s = .next t ∧ t.out = s.out ∧
      exchRead t a l.length = l ∧ ∀ b, b < a ∨ a + l.length ≤ b → mget 0 t.exch b = mget 0 s.exch b) ∧
    (∀ a len, h.up = true → h.hdmOn = true → a + len ≤ 0x10000000 → ∃ t, exec (.hdmAccess a len none false) s = .next t ∧
      t = { s with out := s.out ++ [.hdmData (exchRead s a len)] }) ∧
    (∀ a len w x, h.up = true → h.hdmOn = true → (x = true ∨ 0x10000000 < a + (match w with | some l => List.length l | none => len)) →
      ∃ t, exec (.hdmAccess a len w x) s = .next t ∧ t = { s with out := s.out ++ [.hdmError] }) ∧
    (∀ (m : Master) (v : BitVec 4), reaches m s = true → ∃ t, exec (.irqStatusClear m v) s = .next t ∧ live t 0x21 0x800 = live s 0x21 0x800 &&& ~~~(v.setWidth 32) ∧ t.out = s.out) ∧
    (∀ v : Fin 4, ∃ t, exec (.msixUnmask v) s = .next t ∧ bit t.host.msixMask v.val = false ∧
      (h.up = true → bit t.host.pba v.val = false) ∧ (h.up = true → h.msixMask = 0xF → bit h.pba v.val = true → t.out = s.out ++ [.msix v.val (h.msix.getD v.val ⟨0, 0⟩)]) ∧
      (h.up = false → t.out = s.out ∧ t.host.pba = h.pba)) ∧
    (h.ideIo = true ∨ h.ideCm = true → ∃ t, exec .ideCheckFail s = .next t ∧ t.host.ideIo = false ∧ t.host.ideCm = false ∧ t.host.up = h.up ∧
      errValid t 0x20 = true ∧ bit (live t 0x21 0x800) 3 = true) ∧
    (h.ideIo = false → h.ideCm = false → ∃ t, exec .ideCheckFail s = .next t ∧ t = s)

/-- Chain links train, exchange HELLO, fail and retry as R374 says; flits are encrypted, sequenced, acknowledged, replayed and credited; delays are measured (R374, R375, R376, R377, R378, R380, R392, R396, R397, R399, R400). -/
def Obligations.ChainLinksTrainFailAndCountFlits : Prop :=
  ∀ (s : State) (n : Fin 8),
    let x := linkAt s n.val
    let other := fun (t : State) => ∀ m, m ≠ n.val → linkAt t m = linkAt s m
    let dead := (mget .reset s.boot.comps 4).dead.contains n.val || restarts s 4 n.val
    let quiet := x.txq = [] ∧ s.clReqs.filter (·.link == n.val) = [] ∧ mget [] s.linkIn n.val = []
    let failed := fun (t : State) => (linkAt t n.val).st = .down ∧ (linkAt t n.val).failWait = true
    let desc := fun (t : State) (c d : Nat) => (coreAt t c).dmq.find? (·.id == d)
    let counted := fun (f : LinkFlit) => fecCorrected n.val f.corrected s
    let rows := fun (f : LinkFlit) (t2 t3 : Nat) => [(7, Instr.linkHello n f), (0, .linkDataFlit n f), (1, .linkCredit n f), (2, .linkAck n f), (3, .linkNak n f),
      (5, .delayReq n f t2 t3), (6, .delayRsp n f t2)]
    let due := fun (ty : Nat) (f : LinkFlit) (q : Nat) => f.bytes.length = 276 ∧ flitType f.bytes = ty ∧ x.st = .up ∧ flitDue x (flitSeq f.bytes) = some q
    let opened := fun (q : Nat) (f : LinkFlit) => openFlit (dirKey x.keys !x.sideA) q f.bytes
    let takes := fun (i : Instr) (ty : Nat) (f : LinkFlit) (P : List Byte → State → State → Prop) => ∀ q b, due ty f q → opened q f = some b →
      ∃ t, exec i s = .next t ∧ P b (flitTaken n.val q (counted f)) t
    let idle := flitRoom x = true ∧ x.ctlq = []
    let sealed_ := fun (ty : Nat) (body : List Byte) => Output.flit n.val (sealFlit (dirKey x.keys x.sideA) ty 0 x.txSeq body)
    (x.st = .training → ∃ t, exec (.linkTrainDone n) s = .next t ∧ (linkAt t n.val).st = .hello ∧ (linkAt t n.val).helloSeen = false ∧ other t ∧
      t.out = s.out ++ [.flit n.val (clearFlit 7 0 (leBytes 2 (ownModule s) ++ [if joined s then 1 else 0, if Config.stepping = .a1 then 0xA1 else 0xB0, 1]))]) ∧
    (x.st ≠ .training → ∀ i ∈ [Instr.linkTrainDone n, Instr.linkTrainTimeout n], ∃ t, exec i s = .next t ∧ t = s) ∧
    (x.st = .training → ∃ t, exec (.linkTrainTimeout n) s = .next t ∧ failed t ∧
      (quiet → errValid t (pLink n.val) = true ∧ t.recov.reported = s.recov.reported ++ [⟨E.chainLinkFail, 4, n.val, 0⟩] ∧ other t ∧
        liveF t (pLink n.val) 0x804 15 0 = Nat.min 0xFFFF (liveF s (pLink n.val) 0x804 15 0 + 1))) ∧
    (∃ t, exec (.linkRetryTimer n) s = .next t ∧ (linkAt t n.val).failWait = false ∧ other t ∧
      (x.st = .down → linkEnabled s n.val = true → dead = false → (linkAt t n.val).st = .training) ∧
      (x.st ≠ .down ∨ linkEnabled s n.val = false ∨ dead = true → (linkAt t n.val).st = x.st)) ∧
    (∀ f, (counted f).links = s.links ∧ (counted f).out = s.out ∧
      liveF (counted f) (pLink n.val) 0x808 31 0 = Nat.min 0xFFFFFFFF (liveF s (pLink n.val) 0x808 31 0 + f.corrected)) ∧
    (∀ f t2 t3, ∀ r ∈ rows f t2 t3, f.bytes.length ≠ 276 ∨ flitType f.bytes ≠ r.1 ∨ x.st = .down ∨ x.st = .training ∨
        ((x.st = .hello ∨ x.st = .attest) ∧ r.1 ≠ 7) ∨ (x.st = .up ∧ flitDue x (flitSeq f.bytes) = none) →
      ∃ t, exec r.2 s = .next t ∧ t = counted f) ∧
    (∀ f t2 t3 q, ∀ r ∈ rows f t2 t3, due r.1 f q → opened q f = none → ∃ t, exec r.2 s = .next t ∧ t = flitFails n.val r.1 q (counted f)) ∧
    (∀ f, x.st = .hello → f.bytes.length = 276 → flitType f.bytes = 7 → le f.bytes 8 1 = 1 → ∃ t nonce, exec (.linkHello n f) s = .next t ∧ nonce.length = 32 ∧
      t.out = s.out ++ [.handshake n.val 1 nonce] ∧ (linkAt t n.val).st = .attest ∧ (linkAt t n.val).peerModule = BitVec.ofNat 14 (le f.bytes 4 2) ∧
      (linkAt t n.val).peerJoined = (le f.bytes 6 1 != 0) ∧ (linkAt t n.val).hs.mine = [nonce] ∧ (linkAt t n.val).hs.theirs = [] ∧ other t) ∧
    (∀ f, x.st = .hello → f.bytes.length = 276 → flitType f.bytes = 7 → le f.bytes 8 1 ≠ 1 → ∃ t, exec (.linkHello n f) s = .next t ∧ failed t) ∧
    (∀ f, x.st = .attest → f.bytes.length = 276 → flitType f.bytes = 7 → ∃ t, exec (.linkHello n f) s = .next t ∧ other t ∧ t.out = s.out ∧
      linkAt t n.val = { x with peerModule := BitVec.ofNat 14 (le f.bytes 4 2), peerJoined := le f.bytes 6 1 != 0, helloSeen := true }) ∧
    (∀ f, takes (.linkHello n f) 7 f fun b u t => t.out = u.out ∧ other t ∧
      linkAt t n.val = { linkAt u n.val with peerModule := BitVec.ofNat 14 (le b 0 2), peerJoined := le b 2 1 != 0, helloSeen := true }) ∧
    (∀ f q, x.st = .up → let u := flitTaken n.val q (counted f)
      other u ∧ (linkAt u n.val).rxSeq = q + 1 ∧ (linkAt u n.val).nakFor = none ∧ (linkAt u n.val).rx = x.rx ∧ (linkAt u n.val).credits = x.credits ∧ (linkAt u n.val).txq = x.txq ∧
      ((q + 1) / 64 ≤ x.rxSeq / 64 → linkAt u n.val = { x with rxSeq := q + 1, nakFor := none } ∧ u.out = s.out) ∧
      ((q + 1) / 64 > x.rxSeq / 64 → idle → u.out = s.out ++ [sealed_ 2 (leBytes 8 q)]) ∧
      (x.nakFor = none → u.recov = s.recov) ∧
      (x.nakFor ≠ none → errValid u (pLink n.val) = true ∧ liveF u (pLink n.val) 0x804 31 16 = Nat.min 0xFFFF (liveF s (pLink n.val) 0x804 31 16 + 1))) ∧
    (∀ f, takes (.linkDataFlit n f) 0 f fun b u t => let vc := flitVc f.bytes
      ∃ w, t = rxSettle n.val vc (rxCount w n.val vc) (returnCredits n.val vc w) ∧ (∀ m, m ≠ n.val → linkAt w m = linkAt s m) ∧ w.out = u.out ∧
        linkAt w n.val = { linkAt u n.val with rx := lset x.rx vc (trimRx { rxBuf x vc with buf := (rxBuf x vc).buf ++ b }) }) ∧
    (∀ f, takes (.linkCredit n f) 1 f fun b u t => ∃ w, t = pumpTx n.val w ∧ w.out = u.out ∧ (∀ m, m ≠ n.val → linkAt w m = linkAt s m) ∧
      linkAt w n.val = { linkAt u n.val with credits := [0, 1, 2, 3].map fun v => x.credits.getD v 0 + le b (2 * v) 2 }) ∧
    (∀ f, takes (.linkAck n f) 2 f fun b u t => ∃ w, t = pumpTx n.val w ∧ w.out = u.out ∧ (∀ m, m ≠ n.val → linkAt w m = linkAt s m) ∧
      linkAt w n.val = { linkAt u n.val with replay := (linkAt u n.val).replay.filter fun e => decide (le b 0 8 < e.1) }) ∧
    (∀ f, takes (.linkNak n f) 3 f fun b u t => t.links = u.links ∧
      t.out = u.out ++ ((linkAt u n.val).replay.filter fun e => decide (le b 0 8 ≤ e.1)).map fun e => Output.flit n.val e.2) ∧
    (∀ f t2 t3, takes (.delayReq n f t2 t3) 5 f fun b u t => t = sendCtl n.val 6 (leBytes 8 (le b 0 8) ++ leBytes 8 t2 ++ leBytes 8 t3) u) ∧
    (∀ f t4, s.beat.linkDelays.length = 8 → takes (.delayRsp n f t4) 6 f fun b u t => t.links = u.links ∧ t.out = u.out ∧
      t.beat.linkDelays.getD n.val [] = (((t4 - le b 0 8) - (le b 16 8 - le b 8 8)) / 2 :: s.beat.linkDelays.getD n.val []).take 8 ∧
      ∀ m, m ≠ n.val → t.beat.linkDelays.getD m [] = s.beat.linkDelays.getD m []) ∧
    (∀ (ty : BitVec 4) (seq : BitVec 16) k, let c := fecCorrected n.val k s
      (x.st ≠ .up ∨ flitDue x seq.toNat = none → ∃ t, exec (.linkFlitFail n ty seq k) s = .next t ∧ t = c) ∧
      (∀ q, x.st = .up → flitDue x seq.toNat = some q → ∃ t, exec (.linkFlitFail n ty seq k) s = .next t ∧ t = flitFails n.val ty.toNat q c)) ∧
    (∀ ty q c, linkAt c n.val = x → c.out = s.out → x.st = .up →
      (keptType ty = false → linkAt (flitFails n.val ty q c) n.val = { x with rxSeq := q + 1 } ∧ (flitFails n.val ty q c).out = s.out) ∧
      (keptType ty = true → x.nakFor = none → (linkAt (flitFails n.val ty q c) n.val).nakFor = some q ∧ (linkAt (flitFails n.val ty q c) n.val).rxSeq = q ∧
        (idle → (flitFails n.val ty q c).out = s.out ++ [sealed_ 3 (leBytes 8 q)])) ∧
      (keptType ty = true → x.nakFor ≠ none → failed (flitFails n.val ty q c))) ∧
    (x.st = .up → ∃ t, exec (.linkFecLoss n) s = .next t ∧ failed t) ∧
    (x.st ≠ .up → ∃ t, exec (.linkFecLoss n) s = .next t ∧ t = s) ∧
    (∀ m, reaches m s = true → ∃ t u, exec (.retrain m n) s = .next t ∧ t = tryTrain n.val u ∧ (linkAt u n.val).st = .down) ∧
    (∀ m, reaches m s = true → quiet → x.failWait = false → linkEnabled s n.val = true → dead = false →
      ∃ t, exec (.retrain m n) s = .next t ∧ (linkAt t n.val).st = .training) ∧
    (∀ t1, x.st = .up → idle → ∃ t, exec (.delayReqSend n t1) s = .next t ∧ other t ∧ t.out = s.out ++ [sealed_ 5 (leBytes 8 t1)] ∧
      linkAt t n.val = { x with txSeq := x.txSeq + 1 }) ∧
    (∀ t1, x.st = .up → ¬ idle → ∃ t, exec (.delayReqSend n t1) s = .next t ∧ other t ∧ t.out = s.out ∧ linkAt t n.val = { x with ctlq := x.ctlq ++ [(5, leBytes 8 t1)] }) ∧
    (∀ t1, x.st ≠ .up → ∃ t, exec (.delayReqSend n t1) s = .next t ∧ t = s) ∧
    (∀ (key : List Byte × List Byte) ty vc seq body, key.1.length = 32 → key.2.length = 4 → ty < 16 → vc < 4 → body.length ≤ 256 →
      let l := sealFlit key ty vc seq body
      openFlit key seq l = some (padTo 256 body) ∧ l.length = 276 ∧ flitType l = ty ∧ flitVc l = vc ∧ flitSeq l = seq % 65536) ∧
    (∀ (m : Master) (k : Fin 9), reaches m s = true → let pg := if k.val < 8 then linkPage k.val 2 else pCl
      ∃ t, exec (.rtCopy m k) s = .next t ∧ (pageLocked s pg = true → t.routes = s.routes ∧ errValid t pg = true) ∧
        (pageLocked s pg = false → t.live = s.live ∧ ∀ j, j < 2048 → routeWord t k.val (1 - routeBank s k.val) j = routeWord s k.val (routeBank s k.val) j ∧
          routeWord t k.val (routeBank s k.val) j = routeWord s k.val (routeBank s k.val) j)) ∧
    (∀ (tag : Word), s.clReqs.find? (·.mtag == tag.toNat) = none → ∃ t, exec (.remoteTimeout tag) s = .next t ∧ t = s) ∧
    (∀ (tag : Word) q, s.clReqs.find? (·.mtag == tag.toNat) = some q → ∃ t u, exec (.remoteTimeout tag) s = .next t ∧ t = reqEnded q u ∧
      u.clReqs = s.clReqs.filter (·.mtag != tag.toNat) ∧ liveF u pCl 0x814 15 0 = Nat.min 0xFFFF (liveF s pCl 0x814 15 0 + 1) ∧
      (∀ c d e, q.origin = .desc c d → desc s c d = some e →
        desc u c d = some { e with left := e.left - q.len, failed := some (e.failed.getD E.peerGone) }))

/-- Inbound PCL requests are checked and served, their responses end the requests that asked, as R384, R391 to R393 and R396 say (R264, R265, R376, R384, R390, R391, R392, R393, R394, R518). -/
def Obligations.ChainMessagesAreCheckedServedAndAnswered : Prop :=
  ∀ (s : State) (n : Fin 8) (vc : Fin 4) (p : Pcl),
    let head := fun (op : Nat) => rxHead (linkAt s n.val) vc.val = some p ∧ p.op = op ∧ (linkAt s n.val).st = .up
    let c := rxConsume n.val vc.val none s
    let x := linkAt s n.val
    let after := fun (i : Instr) (P : State → Prop) => ∃ t u, exec i s = .next t ∧ t = rxSettle n.val vc.val (rxCount u n.val vc.val) u ∧ P u
    let k := linkRouter n.val (p.mtag % 4)
    let found := fun (q : ClReq) => s.clReqs.find? (·.mtag == p.mtag) = some q
    let rest := { c with clReqs := s.clReqs.filter (·.mtag != p.mtag) }
    let desc := fun (t : State) (a d : Nat) => (coreAt t a).dmq.find? (·.id == d)
    (∀ now, ∀ i ∈ [(1, Instr.pclWr n vc), (2, .pclRd n vc), (3, .pclWrAck n vc), (4, .pclRdData n vc), (5, .pclRegWr now n vc), (6, .pclRegRd n vc), (7, .pclRegRsp n vc),
        (8, .svcReq n vc), (9, .svcRsp n vc)], x.st ≠ .up ∨ rxHead x vc.val = none ∨ (rxHead x vc.val = some p ∧ p.op ≠ i.1) → ∃ t, exec i.2 s = .next t ∧ t = s) ∧
    (c.clIns = s.clIns ∧ c.live = s.live ∧ c.clReqs = s.clReqs ∧ (x.rx.length = 4 → let b := rxBuf x vc.val; let r := trimRx { b with pos := b.pos + wireLen b.buf, buf := b.buf.drop (wireLen b.buf) }
      rxBuf (linkAt c n.val) vc.val = { r with base := Nat.max r.base (rxFree r) } ∧ (∀ v, v ≠ vc.val → rxBuf (linkAt c n.val) v = rxBuf x v) ∧
      (rxFree r ≤ r.base → c.out = s.out) ∧
      (r.base < rxFree r → x.st = .up → flitRoom x = true → x.ctlq = [] → c.out = s.out ++ [.flit n.val (sealFlit (dirKey x.keys x.sideA) 1 0 x.txSeq
        ((List.range 4).flatMap fun v => leBytes 2 (if v = vc.val then rxFree r - r.base else 0)))]))) ∧
    (joined s = false → inboundCheck s p = .error E.unmapped) ∧
    (p.len ≤ 4096 → (∀ w, w < 256 → winMatch s p w = false) → inboundCheck s p = .error E.unmapped) ∧
    (joined s = true → 4096 < p.len → inboundCheck s p = .error (if p.len = 0xFFFF then E.reservedValue else E.lenOverrun)) ∧
    (∀ a, inboundCheck s p = .ok a → joined s = true ∧ p.len ≤ 4096 ∧ ∃ w, w < 256 ∧ winMatch s p w = true ∧ (∀ v, v < w → winMatch s p v = false) ∧
      a = winTarget s w + (p.addr - winBase s w) ∧
      (p.op = 1 ∨ p.op = 2 → tenantOwns s (winF s w 0 7 0) a p.len = true ∧ mappedCheck s a p.len = none)) ∧
    (∀ e, inboundCheck s p = .error e → (head 1 → after (.pclWr n vc) fun u => u = refuseIn n.val p e c) ∧ (head 2 → after (.pclRd n vc) fun u => u = refuseIn n.val p e c) ∧
      (∀ now, head 5 → after (.pclRegWr now n vc) fun u => u = refuseIn n.val p e c) ∧ (head 6 → after (.pclRegRd n vc) fun u => u = refuseIn n.val p e c)) ∧
    (∀ a, head 1 → inboundCheck s p = .ok a → 0 < p.len → p.len ≤ 512 → (∀ q ∈ s.clIns, q.id ≠ s.nextTag) → after (.pclWr n vc) fun u =>
      u.clIns = s.clIns ++ [⟨s.nextTag, n.val, p, a, [addrRouter a], 0, [], 0⟩] ∧ u.nextTag = s.nextTag + 1 ∧
      u.routers = (injectEngine k (towardAddr (a / 32 * 32) { msgNull with cls := .read, nomerge := true, rflits := 1, roff := p.mtag % 4, src := srcAttach n.val, origin := .chainFlush n.val s.nextTag (addrRouter a) })
        (injectEngine k (towardAddr a { msgNull with cls := .data, tag := p.tagged && decide (a < 0x2000000000), src := srcAttach n.val, payload := p.data.take p.len, origin := .chain n.val s.nextTag }) s)).routers) ∧
    (∀ a, head 2 → inboundCheck s p = .ok a → 0 < p.len → p.len ≤ 512 → (∀ q ∈ s.clIns, q.id ≠ s.nextTag) → after (.pclRd n vc) fun u =>
      u.clIns = s.clIns ++ [⟨s.nextTag, n.val, p, a, [], p.len, [], 0⟩] ∧
      u.routers = (injectEngine k (towardAddr a { msgNull with cls := .read, rflits := p.len / 32, roff := p.mtag % 4, src := srcAttach n.val, origin := .chain n.val s.nextTag }) s).routers) ∧
    (∀ a now, head 5 → inboundCheck s p = .ok a → addrKind a = .pages → after (.pclRegWr now n vc) fun u =>
      let v := regWrite now (.peer n) ((a - regWindow) / 4096) (a % 4096) .w32 (BitVec.ofNat 64 (leNat (p.data.take 4))) c
      u = sendResp n.val (respTo v p 0 [0, 0, 0, 0]) v) ∧
    (∀ a, head 6 → inboundCheck s p = .ok a → addrKind a = .pages → after (.pclRegRd n vc) fun u =>
      let r := regRead (8 + n.val) ((a - regWindow) / 4096) (a % 4096) .w32 c
      u = sendResp n.val (respTo r.2 p 0 (leBytes 4 r.1.toNat)) r.2) ∧
    (s.clFlushed.find? (·.1 == n.val) = none → ∃ t, exec (.flushReadReply n) s = .next t ∧ t = s) ∧
    (∀ id r q, s.clFlushed.find? (·.1 == n.val) = some (n.val, id, r) → s.clIns.find? (·.id == id) = some q → q.hdr.op = 1 → q.flush = [r] →
      ∃ t u, exec (.flushReadReply n) s = .next t ∧ t = sendResp q.link (respTo s q.hdr q.failed []) u ∧ u.clIns = s.clIns.filter (·.id != id) ∧
        u.clFlushed = s.clFlushed.erase (n.val, id, r) ∧ u.out = s.out) ∧
    (∀ id r r' l q, s.clFlushed.find? (·.1 == n.val) = some (n.val, id, r) → s.clIns.find? (·.id == id) = some q → q.hdr.op = 1 → q.flush = r :: r' :: l →
      ∃ t, exec (.flushReadReply n) s = .next t ∧ t.out = s.out ∧ t.links = s.links ∧ t.clIns.find? (·.id == id) = some { q with flush := r' :: l }) ∧
    (s.clReqs.find? (·.mtag == p.mtag) = none → ∀ i ∈ [(3, Instr.pclWrAck n vc), (4, .pclRdData n vc), (7, .pclRegRsp n vc), (9, .svcRsp n vc)],
      head i.1 → after i.2 fun u => liveF u pCl 0x814 31 16 = Nat.min 0xFFFF (liveF s pCl 0x814 31 16 + 1) ∧ u.clReqs = s.clReqs) ∧
    (∀ q, found q → p.status ≠ 0 → ∀ i ∈ [(3, Instr.pclWrAck n vc), (4, .pclRdData n vc), (7, .pclRegRsp n vc), (9, .svcRsp n vc)],
      head i.1 → after i.2 fun u => u = reqEnded q (countEnd p.status q.module (failPart q.origin q.len p.status rest))) ∧
    (∀ q a d e, found q → p.status = 0 → head 3 → q.origin = .desc a d → desc s a d = some e → after (.pclWrAck n vc) fun u =>
      ∃ v, u = reqEnded q v ∧ v.clReqs = rest.clReqs ∧ desc v a d = some { e with left := e.left - q.len }) ∧
    (∀ q a d, found q → p.status = 0 → head 4 → q.origin = .desc a d → 0 < p.data.length → p.data.length ≤ 512 → after (.pclRdData n vc) fun u =>
      ∃ v, u = reqEnded q v ∧ v.clReqs = rest.clReqs ∧ v.routers = (injectEngine (linkRouter q.home (p.mtag % 4)) (towardAddr q.loc
        { msgNull with cls := .data, tag := q.tagged, src := srcAttach q.home, payload := p.data, origin := .desc a d }) s).routers) ∧
    (∀ q dst op seq, found q → p.status = 0 → head 7 → q.origin = .spReg dst op seq → after (.pclRegRsp n vc) fun u =>
      u = reqEnded q (spRespond dst op 0 seq (if op = 2 then leBytes 4 (leNat (p.data.take 4)) else []) rest)) ∧
    (∀ image key, head 8 → p.svc = some (.query image key) → after (.svcReq n vc) fun u => ∃ held v, u = svcResp n.val p 0 [] (.answer image held) v ∧
      (held = true ↔ (holder s image key).isSome = true ∧ ((servedOther s n.val image key).filter fun e => !servedStale s e).length < 2) ∧
      (held = true → ∃ e ∈ v.weights.serving, servedBy s n.val image key e = true)) ∧
    (∀ image key r a o len, head 8 → p.svc = some (.fetch image key r a o len) → holder s image key = none → after (.svcReq n vc) fun u =>
      u = svcResp n.val p E.unmapped [] (.payload image r a o) c) ∧
    (∀ image key r a o len m g pl, head 8 → p.svc = some (.fetch image key r a o len) → holder s image key = some m → epImg (modelAt s m.1) m.2 = some g →
      gristPlace s m.1 = some pl → after (.svcReq n vc) fun u => ∃ st data v, u = svcResp n.val p st data (.payload image r a o) v ∧ data.length ≤ len) ∧
    (∀ q who image held inst, found q → p.status = 0 → head 9 → q.origin = .svc who → p.svc = some (.answer image held) → instAt s who = some inst → inst.phase = .query →
      after (.svcRsp n vc) fun u => ∃ v, u = reqEnded q v ∧ v.clReqs = rest.clReqs ∧
        (held = false → v.weights = s.weights) ∧ (held = true → instAt v who = some { inst with held := insertAsc q.link inst.held })) ∧
    (∀ q who image r a o inst w, found q → p.status = 0 → head 9 → q.origin = .svc who → p.svc = some (.payload image r a o) → instAt s who = some inst →
      inst.cur = some w → w.range = r → w.unit = a → after (.svcRsp n vc) fun u => ∃ v, u = reqEnded q v ∧
        instAt v who = some { inst with cur := some { w with got := putBytes w.got o p.data, left := w.left - p.data.length } })

/-- The link handshake goes HELLO, REPORT, KEM, FINISH and ends UP with the agreed keys, or rejects the peer, as R423 and R424 say (R409, R410, R411, R423, R424, R376, R377). -/
def Obligations.LinksAttestTheirPeers : Prop :=
  ∀ (s : State) (n : Fin 8),
    let x := linkAt s n.val
    let rejected := fun (t : State) => (linkAt t n.val).st = .down ∧ (linkAt t n.val).failWait = true ∧ (linkAt t n.val).keys = []
    let at_ := fun (a b : Nat) => x.st = .attest ∧ x.hs.mine.length = a ∧ x.hs.theirs.length = b ∧ seRuns s = true
    (∀ nonce flash r v, at_ 1 0 → nonce.length = 32 → signReport none nonce flash (updHs n.val (fun h => { h with theirs := [nonce] }) s) = (.ok r, v) →
      ∃ t, exec (.hsHello n nonce flash) s = .next t ∧ t.out = v.out ++ [.handshake n.val 2 (r.1 ++ r.2 ++ kemPublic v ++ certs)] ∧
        (linkAt t n.val).hs.theirs = [nonce] ∧ (linkAt t n.val).hs.wantSign = false ∧ (linkAt t n.val).hs.mine.length = 2 ∧ (linkAt t n.val).st = .attest) ∧
    (∀ nonce flash c v, at_ 1 0 → nonce.length = 32 → signReport none nonce flash (updHs n.val (fun h => { h with theirs := [nonce] }) s) = (.error c, v) →
      ∃ t, exec (.hsHello n nonce flash) s = .next t ∧ (linkAt t n.val).hs.theirs = [nonce] ∧ (linkAt t n.val).hs.wantSign = true ∧
        (linkAt t n.val).hs.mine = x.hs.mine ∧ t.out = v.out) ∧
    (∀ nonce flash, ¬ at_ 1 0 ∨ nonce.length ≠ 32 → ∃ t, exec (.hsHello n nonce flash) s = .next t ∧ t = s) ∧
    (∀ nonce, s.sec.bucket = 0 → s.sec.leaf < leafMax → (signReport none nonce true s).1 = .error E.attestRate ∧ (signReport none nonce true s).2 = s) ∧
    (∀ report sig key cert, x.st = .attest → x.hs.theirs.length = 1 → seRuns s = true → reportGood s n.val report sig key cert = true → x.hs.mine.length = 2 →
      ∃ t r, exec (.hsReport n report sig key cert) s = .next t ∧ r.length = 32 ∧ (linkAt t n.val).st = .attest ∧
        t.out = s.out ++ [.handshake n.val 3 (kemEncaps key r).1] ∧ (linkAt t n.val).hs.ssSent = (kemEncaps key r).2 ∧
        (linkAt t n.val).hs.theirs = x.hs.theirs ++ [report ++ sig ++ key ++ cert] ∧ (linkAt t n.val).hs.mine.length = 3) ∧
    (∀ report sig key cert, x.st = .attest → x.hs.theirs.length = 1 → seRuns s = true → reportGood s n.val report sig key cert = true → x.hs.mine.length ≠ 2 →
      ∃ t r, exec (.hsReport n report sig key cert) s = .next t ∧ r.length = 32 ∧ t.out = s.out ∧ (linkAt t n.val).hs.kemDue = (kemEncaps key r).1 ∧
        (linkAt t n.val).hs.ssSent = (kemEncaps key r).2 ∧ (linkAt t n.val).hs.mine = x.hs.mine) ∧
    (∀ report sig key cert, x.st = .attest → x.hs.theirs.length = 1 → seRuns s = true → reportGood s n.val report sig key cert = false →
      ∃ t, exec (.hsReport n report sig key cert) s = .next t ∧ rejected t) ∧
    (∀ report sig key cert, x.st ≠ .attest ∨ x.hs.theirs.length ≠ 1 → ∃ t, exec (.hsReport n report sig key cert) s = .next t ∧ t = s) ∧
    (∀ report sig key cert, reportGood s n.val report sig key cert = true → hssVerify Config.provisioningKey (bytesAt cert 0 76) (cert.drop 76) = true ∧
      hssVerify (bytesAt cert 0 60) report sig = true ∧ bytesAt report 0x70 32 = sha256 key ∧ bytesAt report 0x30 32 = x.hs.mine.headD [] ∧
      bytesAt report 0x10 16 ≠ deviceBytes ∧ ∀ c, c < 5 → liveF s pSec 0x40 15 0 ≤ le report (0xB0 + 48 * c + 2) 2) ∧
    (∀ ct, x.st = .attest → x.hs.theirs.length = 2 → ct.length = 1568 → seRuns s = true → x.hs.mine.length = 3 →
      ∃ t mac, exec (.hsKem n ct) s = .next t ∧ (linkAt t n.val).hs.ssGot = kemDecaps (kemGen s.sec.kemSeed) ct ∧ (linkAt t n.val).hs.theirs = x.hs.theirs ++ [ct] ∧
        t.out = s.out ++ [.handshake n.val 4 mac] ∧ (linkAt t n.val).hs.mine = x.hs.mine ++ [mac] ∧ finishMac (linkAt t n.val).hs = mac) ∧
    (∀ ct, x.st = .attest → x.hs.theirs.length = 2 → ct.length = 1568 → seRuns s = true → x.hs.mine.length ≠ 3 →
      ∃ t, exec (.hsKem n ct) s = .next t ∧ t.out = s.out ∧ (linkAt t n.val).hs.theirs = x.hs.theirs ++ [ct]) ∧
    (∀ ct, x.st ≠ .attest ∨ x.hs.theirs.length ≠ 2 ∨ ct.length ≠ 1568 → ∃ t, exec (.hsKem n ct) s = .next t ∧ t = s) ∧
    (at_ 4 3 → ∃ t, exec (.hsFinish n (finishMac x.hs)) s = .next t ∧ (linkAt t n.val).st = .up ∧ (linkAt t n.val).keys = linkKeys x.hs ∧ (linkAt t n.val).sideA = ownSide x.hs ∧
      (linkAt t n.val).txSeq = 0 ∧ (linkAt t n.val).rxSeq = 0 ∧ (linkAt t n.val).credits = [1024, 1024, 1024, 1024] ∧ (linkAt t n.val).hs = .reset ∧
      (linkAt t n.val).peerModule = x.peerModule ∧ ∀ m, m ≠ n.val → linkAt t m = linkAt s m) ∧
    (∀ mac, at_ 4 3 → mac ≠ finishMac x.hs → ∃ t, exec (.hsFinish n mac) s = .next t ∧ rejected t) ∧
    (∀ mac, ¬ at_ 4 3 → ∃ t, exec (.hsFinish n mac) s = .next t ∧ t = s) ∧
    (x.st = .attest → ∃ t, exec (.hsTimeout n) s = .next t ∧ rejected t) ∧
    (x.st ≠ .attest → ∃ t, exec (.hsTimeout n) s = .next t ∧ t = s)

/-- The security engine serves its commands in order of arrival, each as R428 says, and never signs twice with one leaf (R408) (R408, R409, R411, R412, R413, R414, R415, R416, R425, R427, R428, R430). -/
def Obligations.SecurityCommandsActInOrder : Prop :=
  ∀ (s : State),
    let q := fun (rest : List SeCmd) => updSec (fun x => { x with queue := rest }) s
    let answers := fun (i : Instr) (op : Nat) (P : List Byte → State → Code → List Byte → State → Prop) => ∀ c rest, s.sec.queue = c :: rest → c.op = op → c.bad = false → seRuns s = true →
      ∃ t code body u, exec i s = .next t ∧ t = settleCmds (respond c.src c.op c.rtag code body u) ∧ P c.body (q rest) code body u
    (∀ flash, ∀ i ∈ [(1, Instr.getReport flash), (2, .getKemKey), (3, .getCerts), (4, .tenantBind), (5, .tenantUnbind), (6, .sessionOpen), (7, .sessionClose), (8, .ideKeys)],
      (s.sec.queue.head?.map (fun c => (c.op, c.bad)) ≠ some (i.1, false) ∨ seRuns s = false) → ∃ t, exec i.2 s = .next t ∧ t = s) ∧
    (∀ c rest, s.sec.queue = c :: rest → settleCmds s = if c.bad = true ∧ seRuns s = true then settleCmds (respond c.src c.op c.rtag E.seCmdInvalid [] (q rest)) else s) ∧
    (∀ flash, answers (.getReport flash) 1 fun b q code body u =>
      let asked := if le b 0 2 = 0xFFFF then none else some (le b 0 2)
      (∀ r v, signReport asked (bytesAt b 4 32) flash q = (.ok r, v) → code = 0 ∧ body = r.1 ++ r.2 ∧ u = v) ∧
      (∀ e v, signReport asked (bytesAt b 4 32) flash q = (.error e, v) → code = e ∧ body = [] ∧ u = v)) ∧
    (∀ tn nonce flash r v, signReport tn nonce flash s = (.ok r, v) → r.1 = reportBody v tn nonce s.sec.leaf ∧ r.2 = hssSign (treeKey v) s.sec.leaf r.1 ∧
      v.sec.leaf = s.sec.leaf + 1 ∧ s.sec.leaf < v.sec.reservedTo ∧ v.sec.tree.map (·.1) = some (s.sec.leaf / 2 ^ 15) ∧
      (s.sec.tree.map (·.1) ≠ some (s.sec.leaf / 2 ^ 15) → treeKey v = signedTree (s.sec.leaf / 2 ^ 15)) ∧ v.sec.signHalt = decide (2 ^ 30 ≤ s.sec.leaf + 1) ∧ s.sec.reservedTo ≤ v.sec.reservedTo ∧
      s.sec.bucket ≠ 0 ∧ v.sec.bucket = s.sec.bucket - 1 ∧ s.sec.leaf < 2 ^ 30) ∧
    (∀ tn nonce flash, 2 ^ 30 ≤ s.sec.leaf → (signReport tn nonce flash s).1 = .error E.identityExhausted ∧ (signReport tn nonce flash s).2.sec.signHalt = true) ∧
    (∀ tn nonce flash, s.sec.bucket = 0 → s.sec.leaf < 2 ^ 30 → (signReport tn nonce flash s).1 = .error E.attestRate) ∧
    (∀ tn nonce, s.sec.leaf < 2 ^ 30 → s.sec.bucket ≠ 0 → s.sec.identityOk = true → ∃ r v, signReport tn nonce true s = (.ok r, v)) ∧
    (answers .getKemKey 2 fun _ q code body u => code = 0 ∧ body = kemPublic s ∧ body.length = 1568 ∧ u = q) ∧
    (answers .getCerts 3 fun _ q code body u => code = 0 ∧ body = certs ∧ u = q) ∧
    (answers .tenantBind 4 fun b q code body u =>
      let n := le b 0 1
      let kw := hkdf (decap s (bytesAt b 8 1568)) (some (bootBytes s)) (ascii "PW1 bind" ++ leBytes 1 n) 32
      let opened := gcmOpen kw (List.replicate 12 0) (leBytes 1 n ++ kemHash s) (bytesAt b 1576 32) (bytesAt b 1608 16)
      ((mfind s.sec.tenants n).isSome = true → code = E.tenantBusy ∧ u = q) ∧
      (mfind s.sec.tenants n = none → opened = none → code = E.bindAuthFail ∧ u = q) ∧
      (∀ l, mfind s.sec.tenants n = none → opened = some l → code = 0 ∧ body = [] ∧ mfind u.sec.tenants n = some (BitVec.ofNat 256 (leNat l)) ∧
        (∀ k, k ≠ n → mfind u.sec.tenants k = mfind s.sec.tenants k) ∧
        ∀ k, k < 24 → mfind (stackAt u k).keys n = some (storeKeyOf (BitVec.ofNat 256 (leNat l)) (s.sec.bootId.getD 0)))) ∧
    (answers .tenantUnbind 5 fun b q code _ u =>
      let n := le b 0 1
      (tenantInUse s n = true → code = E.tenantBusy ∧ u = q) ∧
      (tenantInUse s n = false → code = 0 ∧ mfind u.sec.tenants n = none ∧ (∀ k, k ≠ n → mfind u.sec.tenants k = mfind s.sec.tenants k) ∧
        (∀ k, k < 24 → mfind (stackAt u k).keys n = none) ∧ ∀ h, (sessionAt s h).st = .opened → (sessionAt s h).tenant = n → (sessionAt u h).st = .closed)) ∧
    (answers .sessionOpen 6 fun b q code body u =>
      let x := sessionAt s (le b 2 2)
      (8192 ≤ le b 2 2 → code = E.sessionInvalid ∧ u = q) ∧
      (le b 2 2 < 8192 → x.st ≠ .closed → code = E.sessionBusy ∧ u = q) ∧
      (le b 2 2 < 8192 → x.st = .closed → mfind s.sec.tenants (le b 0 1) = none → code = E.tenantUnbound ∧ u = q) ∧
      (le b 2 2 < 8192 → x.st = .closed → (mfind s.sec.tenants (le b 0 1)).isSome = true → x.gen = 0xFFFFFFFF → code = E.sessionInvalid ∧ u = q) ∧
      (le b 2 2 < 8192 → x.st = .closed → (mfind s.sec.tenants (le b 0 1)).isSome = true → x.gen ≠ 0xFFFFFFFF → code = 0 ∧ body = leBytes 4 (x.gen + 1) ∧
        sessionAt u (le b 2 2) = ⟨.opened, le b 0 1, x.gen + 1, 0, 0⟩ ∧ ∀ h, h ≠ le b 2 2 → sessionAt u h = sessionAt s h)) ∧
    (answers .sessionClose 7 fun b q code _ u =>
      let x := sessionAt s (le b 0 2)
      (8192 ≤ le b 0 2 → code = E.sessionInvalid ∧ u = q) ∧ (le b 0 2 < 8192 → x.st ≠ .opened → code = E.sessionBusy ∧ u = q) ∧
      (le b 0 2 < 8192 → x.st = .opened → code = 0 ∧ sessionAt u (le b 0 2) = { x with st := .closed } ∧ ∀ h, h ≠ le b 0 2 → sessionAt u h = sessionAt s h)) ∧
    (answers .ideKeys 8 fun b _ code _ u =>
      let slot := le b 1568 1
      code = 0 ∧ u.host.up = s.host.up ∧ (s.host.up = true → u.host.ideIo = true ∧ u.host.ideCm = true ∧ u.sec.ideSlot = some slot) ∧
      (s.host.up = false → u.host = s.host ∧ u.sec.ideSlot = s.sec.ideSlot) ∧
      (∀ e ∈ s.sec.ideKeys, e.1 ≠ slot → e ∈ u.sec.ideKeys) ∧
      ∀ dir sub key iv, (slot, dir, sub, key, iv) ∈ u.sec.ideKeys ↔ dir < 2 ∧ sub < 4 ∧ iv = ideFirstIv ∧
        key = hkdf (decap s (bytesAt b 0 1568)) (some (bootBytes s)) (ascii "PW1 ide" ++ leBytes 1 dir ++ leBytes 1 sub ++ leBytes 1 slot) 32) ∧
    (∀ m op tag code body, let y := mailboxAt (respond (.mailbox m) op tag code body s) m
      y.st = (if code = 0 then 2 else 3) ∧ y.code = code ∧ y.resp = leBytes 2 op ++ leBytes 2 code.toNat ++ leBytes 4 body.length ++ leBytes 4 tag ++ List.replicate 4 0 ++ body)

/-- Each master has its own mailbox, DOE objects are answered or refused, and the signature bucket refills, as R368, R409, R427 and R430 say (R368, R409, R427, R428, R430, R43). -/
def Obligations.MailboxAndDoeCarryCommands : Prop :=
  ∀ (s : State) (m : Master),
    let k := masterId m
    let x := mailboxAt s k
    let others := fun (t : State) => ∀ j, j ≠ k → mailboxAt t j = mailboxAt s j
    let counted := fun (t : State) (hi lo : Nat) => liveF t 0x22 0x800 hi lo = Nat.min 0xFFFF (liveF s 0x22 0x800 hi lo + 1)
    reaches m s = true →
    (x.st = 1 → ∃ t, exec (.mbSubmit m) s = .next t ∧ t.sec = s.sec ∧ errValid t pMailbox = true) ∧
    (x.st ≠ 1 → ∃ t u, exec (.mbSubmit m) s = .next t ∧ t = settleCmds u ∧ u.sec.queue = s.sec.queue ++ [parseCmd (.mailbox k) (requestBytes x)] ∧
      mailboxAt u k = { x with st := 1, resp := [], code := 0 } ∧ (∀ j, j ≠ k → mailboxAt u j = mailboxAt s j) ∧ u.live = s.live) ∧
    (x.st ≠ 1 → (∀ c ∈ s.sec.queue, c.bad = false) → (parseCmd (.mailbox k) (requestBytes x)).bad = false → ∃ t, exec (.mbSubmit m) s = .next t ∧
      t.sec.queue = s.sec.queue ++ [parseCmd (.mailbox k) (requestBytes x)] ∧ mailboxAt t k = { x with st := 1, resp := [], code := 0 } ∧ others t) ∧
    (x.st ≠ 1 → s.sec.queue = [] → seRuns s = true → (parseCmd (.mailbox k) (requestBytes x)).bad = true → ∃ t, exec (.mbSubmit m) s = .next t ∧ t.sec.queue = [] ∧
      (mailboxAt t k).st = 3 ∧ (mailboxAt t k).code = E.seCmdInvalid ∧ (mailboxAt t k).req = x.req ∧ (mailboxAt t k).resp.length = 16 ∧ others t) ∧
    (∃ t, exec (.mbReset m) s = .next t ∧ mailboxAt t k = { Mailbox.reset with byte := x.byte } ∧ t.sec.tenants = s.sec.tenants ∧
      ((∀ c ∈ s.sec.queue, c.bad = false) → others t ∧ t.sec.queue = s.sec.queue.filter (·.src != .mailbox k))) ∧
    (∀ v, ∃ t, exec (.mbData m (some v)) s = .next t ∧ mailboxAt t k = { x with req := mset 0 x.req (x.byte / 4) v, byte := (x.byte + 4) % 16384 } ∧ others t ∧ t.sec.queue = s.sec.queue) ∧
    (∃ t, exec (.mbData m none) s = .next t ∧ mailboxAt t k = { x with byte := (x.byte + 4) % 16384 } ∧ others t ∧
      mget 0 t.busOut k = BitVec.ofNat 64 (le x.resp x.byte 4 % 2 ^ 32)) ∧
    (∀ l src, let c := parseCmd src l
      c.src = src ∧ c.op = le l 0 2 ∧ c.rtag = le l 8 4 ∧ c.body = bytesAt l 16 (le l 4 4) ∧
      (c.bad = false ↔ 16 ≤ l.length ∧ le l 2 2 = 0 ∧ zeros l 12 4 = true ∧ opLen c.op = some (le l 4 4) ∧ c.body.length = le l 4 4 ∧
        zeros c.body (opResv c.op).1 (opResv c.op).2 = true ∧ (c.op = 8 → le c.body 1568 1 ≤ 1))) ∧
    (∀ r, s.host.up = false → ∃ t, exec (.doeRequest r) s = .next t ∧ t = s) ∧
    (∀ i : Byte, s.host.up = true → ∃ t, exec (.doeRequest (.discovery i)) s = .next t ∧ t.out = s.out ++ [.doe 0 (doeDiscovery i.toNat)] ∧ t.sec = s.sec ∧ counted t 15 0) ∧
    (s.host.up = true → ∃ t, exec (.doeRequest .cdat) s = .next t ∧ t.out = s.out ++ [.doe 2 Config.cdat] ∧ t.sec = s.sec ∧ counted t 15 0) ∧
    (s.host.up = true → ∀ r ∈ [DoeReq.unknown, .tooLong], ∃ t, exec (.doeRequest r) s = .next t ∧ t.out = s.out ++ [.doeError] ∧ t.sec = s.sec ∧ counted t 31 16) ∧
    (s.host.up = true → ∀ r ∈ [(SpdmReq.getVersion, [0x10, 0x04, 0, 0, 0, 1, 0, 0x12]), (.getCapabilities, spdmCapabilities), (.negotiateAlgorithms, spdmAlgorithms)],
      ∃ t, exec (.doeRequest (.spdm r.1)) s = .next t ∧ counted t 15 0 ∧ t.sec = s.sec ∧ t.out = s.out ++ [.doe 1 r.2]) ∧
    (le spdmCapabilities 12 4 = 4096 ∧ le spdmCapabilities 16 4 = 262144 ∧ zeros spdmAlgorithms 12 4 = true) ∧
    (∀ l, s.host.up = true → ∃ t u, exec (.doeRequest (.spdm (.vendor l))) s = .next t ∧ t = settleCmds u ∧ u.out = s.out ∧ u.live = s.live ∧
      u.sec.queue = s.sec.queue ++ [parseCmd .doe l]) ∧
    (∀ l, s.host.up = true → s.sec.queue = [] → seRuns s = true → (parseCmd .doe l).bad = true → ∃ t, exec (.doeRequest (.spdm (.vendor l))) s = .next t ∧ t.sec = s.sec ∧ counted t 15 0 ∧
      t.out = s.out ++ [.doe 1 ([0x12, 0x7E, 0, 0] ++ (leBytes 2 (le l 0 2) ++ leBytes 2 E.seCmdInvalid.toNat ++ leBytes 4 0 ++ leBytes 4 (le l 8 4) ++ List.replicate 4 0))]) ∧
    (∀ last l, s.host.up = true → 262144 < s.sec.doeIn.length + l.length → ∃ t, exec (.doeRequest (.spdm (.chunkSend last l))) s = .next t ∧
      t.out = s.out ++ [.doeError] ∧ counted t 31 16 ∧ t.sec.doeIn = [] ∧ t.sec.queue = s.sec.queue) ∧
    (∀ l, s.host.up = true → s.sec.doeIn.length + l.length ≤ 262144 → ∃ t, exec (.doeRequest (.spdm (.chunkSend false l))) s = .next t ∧
      t.sec.doeIn = s.sec.doeIn ++ l ∧ t.sec.queue = s.sec.queue ∧ counted t 15 0 ∧ t.out = s.out ++ [.doe 1 [0x12, 0x05, 0, 0]]) ∧
    (∀ l, s.host.up = true → s.sec.doeIn.length + l.length ≤ 262144 →
      ∃ t u, exec (.doeRequest (.spdm (.chunkSend true l))) s = .next t ∧ t = settleCmds u ∧ u.sec.doeIn = [] ∧ u.sec.queue = s.sec.queue ++ [parseCmd .doe (s.sec.doeIn ++ l)]) ∧
    (∀ n, s.host.up = true → ∃ t, exec (.doeRequest (.spdm (.chunkGet n))) s = .next t ∧ t.sec = s.sec ∧
      t.out = s.out ++ [.doe 1 ([0x12, 0x06, 0, 1] ++ bytesAt s.sec.doeOut (4080 * n) 4080)]) ∧
    (∃ t u, exec .doeAbort s = .next t ∧ t = settleCmds u ∧ u.sec.queue = s.sec.queue.filter (·.src != .doe) ∧ u.sec.doeIn = [] ∧ u.sec.doeOut = [] ∧ u.out = s.out ∧ counted u 31 16) ∧
    (∀ flash, (∀ n, n < 8 → (linkAt s n).hs.wantSign = false) → ∃ t, exec (.signBucketRefill flash) s = .next t ∧
      t = { s with sec := { s.sec with bucket := Nat.min 256 (s.sec.bucket + 1) } }) ∧
    (∀ flash (n : Fin 8) r v, (∀ j, j < 8 → j ≠ n.val → (linkAt s j).hs.wantSign = false) → (linkAt s n.val).st = .attest → (linkAt s n.val).hs.wantSign = true → seRuns s = true →
      (linkAt s n.val).hs.mine.length = 1 → signReport none ((linkAt s n.val).hs.theirs.headD []) flash { s with sec := { s.sec with bucket := Nat.min 256 (s.sec.bucket + 1) } } = (.ok r, v) →
      ∃ t, exec (.signBucketRefill flash) s = .next t ∧ (linkAt t n.val).hs.wantSign = false ∧ t.out = v.out ++ [.handshake n.val 2 (r.1 ++ r.2 ++ kemPublic s ++ certs)] ++
        (if (linkAt s n.val).hs.kemDue.isEmpty then [] else [.handshake n.val 3 (linkAt s n.val).hs.kemDue]))

/-- Input voltage, the power windows with their capping ladder, coolant and connections act on the module as R434, R435, R449, R450, R453 and R456 say (R434, R435, R442, R449, R450, R453, R456, R458, R248, R497). -/
def Obligations.ModuleInputCapsAndCoolant : Prop :=
  ∀ (s : State),
    let dark := fun (t : State) (cause : Nat) => ∀ f, f < 80 → fieldSt t f = .dark ∧ (fieldOf t f).darkBy = some cause ∧ (fieldOf t f).brkClosed = false
    let isOver := fun (w : Nat) (bl : List Nat) => capEffFine s < 240 * w ∨ ∃ b ∈ bl, 2200 < b
    let counted := fun (t : State) => liveF t pPmMeas 0x814 31 16 = Nat.min 0xFFFF (liveF s pPmMeas 0x814 31 16 + 1)
    let kept := fun (t : State) (w now : Nat) => t.pm.watts = w ∧ t.pm.wattsAt = now ∧ t.pm.connSuspect = s.pm.connSuspect ∧ t.pm.inputLow = s.pm.inputLow
    (∀ now, s.pm.valid = false → ∃ t, exec (.powerOnValid now) s = .next t ∧ t.pm = { s.pm with valid := true, validAt := now } ∧ t.boot.stage = Nat.max s.boot.stage 1 ∧
      t.fields = s.fields ∧ t.live = s.live) ∧
    (∀ now, s.pm.valid = true → ∃ t, exec (.powerOnValid now) s = .next t ∧ t = s) ∧
    (s.pm.inputLow = false → ∃ t, exec .inputLow s = .next t ∧ t.pm = { s.pm with inputLow := true } ∧ errValid t pPm = true ∧ t.fields = s.fields) ∧
    (s.pm.inputLow = true → ∃ t, exec .inputLow s = .next t ∧ t = s) ∧
    (∃ t, exec (.inputLowClear) s = .next t ∧ t = { s with pm := { s.pm with inputLow := false } }) ∧
    (∃ t, exec (.inputHigh) s = .next t ∧ liveF t pPmMeas 0x814 15 8 = Nat.min 0xFF (liveF s pPmMeas 0x814 15 8 + 1) ∧ t.pm = s.pm ∧ t.fields = s.fields) ∧
    (∃ t, exec (.inputRangeFail) s = .next t ∧ dark t 7 ∧ errValid t pPm = true ∧ liveF t 0x21 0x818 31 31 = 1 ∧ t.pm = s.pm) ∧
    (∃ t, exec (.coolantLoss) s = .next t ∧ dark t 8 ∧ errValid t pPm = true ∧ liveF t 0x21 0x818 31 31 = 1 ∧ t.pm = { s.pm with coolantTrip := true }) ∧
    (∀ w bl now, isOver w bl → limitActs s < 5 → ∃ t, exec (.powerWindowEnd w bl now) s = .next t ∧ kept t w now ∧ counted t ∧ t.pm.acts = .limit :: s.pm.acts ∧ t.pm.under = 0 ∧
      (∀ f, f < 80 → fieldSt s f ≠ .dark → live t (pHq f) 0x60 = BitVec.ofNat 32 (1920 - 384 * (limitActs s + 1))) ∧ t.fields = s.fields) ∧
    (∀ w bl now, isOver w bl → 5 ≤ limitActs s → slowActs s < 3 → ∃ t, exec (.powerWindowEnd w bl now) s = .next t ∧ kept t w now ∧ counted t ∧ t.pm.under = 0 ∧
      (∃ fs, t.pm.acts = .slower fs :: s.pm.acts ∧ ∀ f, f ∈ fs ↔ f < 80 ∧ fieldSt s f = .on ∧ (fieldOf s f).powCap < 3) ∧
      ∀ f, f < 80 → fieldOf t f = (if fieldSt s f = .on ∧ (fieldOf s f).powCap < 3 then { fieldOf s f with powCap := (fieldOf s f).powCap + 1 } else fieldOf s f)) ∧
    (∀ w bl now f, isOver w bl → 5 ≤ limitActs s → 3 ≤ slowActs s → kilnVictim s = some f → ∃ t, exec (.powerWindowEnd w bl now) s = .next t ∧ kept t w now ∧ counted t ∧
      t.pm.acts = .kiln f :: s.pm.acts ∧ t.pm.under = 0 ∧ fieldOf t f = { fieldOf s f with kilnCap := true } ∧ (∀ g, g ≠ f → fieldOf t g = fieldOf s g) ∧
      errValid t pPm = true ∧ liveF t pPmMeas 0x814 7 0 = Nat.min 0xFF (liveF s pPmMeas 0x814 7 0 + 1)) ∧
    (∀ w bl now, isOver w bl → 5 ≤ limitActs s → 3 ≤ slowActs s → kilnVictim s = none → ∃ t, exec (.powerWindowEnd w bl now) s = .next t ∧ kept t w now ∧ counted t ∧
      t.pm.acts = s.pm.acts ∧ t.fields = s.fields) ∧
    (∀ f, kilnVictim s = some f → f < 80 ∧ fieldSt s f = .on ∧ (fieldOf s f).kilnCap = false) ∧
    (∀ w bl now, ¬ isOver w bl → 10 * 240 * w < 9 * capEffFine s → s.pm.under ≠ 9 → ∃ t, exec (.powerWindowEnd w bl now) s = .next t ∧
      t = { s with pm := { s.pm with watts := w, wattsAt := now, under := s.pm.under + 1 } }) ∧
    (∀ w bl now, ¬ isOver w bl → 9 * capEffFine s ≤ 10 * 240 * w → ∃ t, exec (.powerWindowEnd w bl now) s = .next t ∧
      t = { s with pm := { s.pm with watts := w, wattsAt := now, under := 0 } }) ∧
    (∀ w bl now a l, ¬ isOver w bl → 10 * 240 * w < 9 * capEffFine s → s.pm.under = 9 → s.pm.acts = a :: l → ∃ t, exec (.powerWindowEnd w bl now) s = .next t ∧ kept t w now ∧
      t.pm.acts = l ∧ t.pm.under = 0 ∧ (∀ f, a = .kiln f → fieldOf t f = { fieldOf s f with kilnCap := false }) ∧
      (a = .limit → t.fields = s.fields ∧ ∀ f, f < 80 → fieldSt s f ≠ .dark → live t (pHq f) 0x60 = BitVec.ofNat 32 (1920 - 384 * (limitActs s - 1)))) ∧
    (capEffFine s ≤ 240 * (100 * liveF s pPm 0x40 8 0) ∧ (s.pm.connSuspect = true ∨ s.pm.inputLow = true → capEffFine s ≤ 240 * 24750)) ∧
    (coolantOut s = true → ∃ t, exec (.coolantLow) s = .next t ∧ t.pm = { s.pm with coolantLow := true } ∧ t.fields = s.fields ∧ (s.pm.coolantLow = false → errValid t pPm = true)) ∧
    (coolantOut s = false → ∃ t, exec (.coolantLow) s = .next t ∧ t = { s with pm := { s.pm with coolantLow := false } }) ∧
    (∀ b : Fin 4, s.pm.connSuspect = false → ∃ t, exec (.connSuspect b) s = .next t ∧ t.pm = { s.pm with connSuspect := true } ∧ errValid t pPm = true ∧
      (errValid s pPm = false → bits (live t pPm 0x14) 31 0 = b.val) ∧ t.recov.reported = s.recov.reported ++ [⟨E.connSuspect, 2, b.val, 0⟩]) ∧
    (∀ b : Fin 4, s.pm.connSuspect = true → ∃ t, exec (.connSuspect b) s = .next t ∧ t = s)

/-- Phases, converters, breakers, ramps, clock and heat act on their field as R437 to R440, R443 to R446, R448, R451, R452, R454, R455 and R468 say (R436, R437, R438, R443, R444, R446, R448, R451, R452, R454, R455, R468). -/
def Obligations.FieldsPhasesBreakersClocksAndHeat : Prop :=
  ∀ (s : State) (n : Fin 80),
    let f := n.val
    let x := fieldOf s f
    let off := x.st = .dark ∧ x.attempt = none
    let dark := fun (t : State) => fieldSt t f = .dark ∧ (fieldOf t f).attempt = none ∧ (fieldOf t f).brkClosed = false
    let told := fun (t : State) (c : Code) => t.recov.reported = s.recov.reported ++ [⟨c, 2, f, 0⟩]
    let at_ := fun (t : State) (r : Rail) (p : Nat) => mfind (railPhases (fieldOf t f) r) p
    (∀ r p, railSize r ≤ p.val ∨ off → ∃ t, exec (.phaseFault n r p) s = .next t ∧ t = s) ∧
    (∀ r p, ¬ off → p.val < railSize r → at_ s r p.val = none → ∃ t u, exec (.phaseFault n r p) s = .next t ∧ t = phasesChanged f u ∧ at_ u r p.val = some .off ∧
      u.recov = s.recov ∧ fieldSt u f = x.st) ∧
    (∀ r p, ¬ off → p.val < railSize r → at_ s r p.val = some .retried → ∃ t u, exec (.phaseFault n r p) s = .next t ∧ t = phasesChanged f u ∧ at_ u r p.val = some .failed ∧
      told u E.phaseFail ∧ errValid u (railPage f r) = true ∧ u.boot.floorDue = true) ∧
    (∀ r p, ¬ off → p.val < railSize r → at_ s r p.val = some .off ∨ at_ s r p.val = some .failed → ∃ t, exec (.phaseFault n r p) s = .next t ∧ t = s) ∧
    (¬ off → 9 ≤ phasesDown x.vcore → let t := phasesChanged f s
      dark t ∧ (fieldOf t f).darkBy = some 4 ∧ (fieldOf t f).lastDark = 4 ∧ told t E.phaseFail) ∧
    (¬ off → phasesDown x.vcore < 9 → 3 ≤ phasesDown x.vret ∨ 3 ≤ phasesDown x.vfab → let t := phasesChanged f s
      dark t ∧ (fieldOf t f).darkBy = some 6 ∧ (fieldOf t f).lastDark = 6 ∧ told t E.railFail) ∧
    (phasesDown x.vcore < 9 → phasesDown x.vret < 3 → phasesDown x.vfab < 3 → phasesChanged f s = s) ∧
    (∀ r p, at_ s r p.val = some .off → ∃ t, exec (.phaseRetryTimer n r p) s = .next t ∧ at_ t r p.val = some .retried ∧ (∀ q, q ≠ p.val → at_ t r q = at_ s r q)) ∧
    (∀ r p, at_ s r p.val ≠ some .off → ∃ t, exec (.phaseRetryTimer n r p) s = .next t ∧ t = s) ∧
    (∀ r p, at_ s r p.val = some .retried → ∃ t, exec (.phaseCleanTimer n r p) s = .next t ∧ at_ t r p.val = none ∧ (∀ q, q ≠ p.val → at_ t r q = at_ s r q) ∧
      errValid t (railPage f r) = true ∧ t.recov.log = (⟨s.recov.nextLog, E.phaseRetry, 2, 1, f, 0⟩ :: s.recov.log).take 64 ∧
      (r = .vcore → liveF t (fieldPage f 2) 0x800 15 0 = Nat.min 0xFFFF (liveF s (fieldPage f 2) 0x800 15 0 + 1))) ∧
    (∀ r p, at_ s r p.val ≠ some .retried → ∃ t, exec (.phaseCleanTimer n r p) s = .next t ∧ t = s) ∧
    (∀ b, ¬ off → x.fcA = false → x.fcB = false → ∃ t, exec (.converterFault n b) s = .next t ∧ fieldOf t f = (if b then { x with fcB := true } else { x with fcA := true }) ∧
      told t E.convDegraded ∧ errValid t (fieldPage f 3) = true) ∧
    (¬ off → x.fcA = true → x.fcB = false → ∃ t, exec (.converterFault n true) s = .next t ∧ dark t ∧ (fieldOf t f).darkBy = some 5 ∧ told t E.convDegraded) ∧
    (¬ off → x.fcA = false → x.fcB = true → ∃ t, exec (.converterFault n false) s = .next t ∧ dark t ∧ (fieldOf t f).darkBy = some 5 ∧ told t E.convDegraded) ∧
    (∀ b, off ∨ (if b then x.fcB else x.fcA) = true → ∃ t, exec (.converterFault n b) s = .next t ∧ t = s) ∧
    (∀ b now, x.brkClosed = false → ∃ t, exec (.breakerTrip n b now) s = .next t ∧ t = s) ∧
    (∀ now, x.brkClosed = true → ¬ off → ∃ t, exec (.breakerTrip n true now) s = .next t ∧ dark t ∧ (fieldOf t f).overTemp = true ∧ (fieldOf t f).lastDark = 3 ∧
      (fieldOf t f).shortAt = x.shortAt ∧ errValid t pPm = true ∧ told t E.overTemp) ∧
    (∀ now, x.brkClosed = true → ¬ off → ∃ t, exec (.breakerTrip n false now) s = .next t ∧ dark t ∧ (fieldOf t f).lastDark = 2 ∧ (fieldOf t f).shortAt = some now ∧
      errValid t pPm = true ∧ told t E.fieldShort ∧
      (fieldOf t f).brkLocked = (x.brkLocked || (match x.reclosedAt with | some r => decide (now - r ≤ 240000000000) | none => false))) ∧
    (∀ m (g : BitVec 7) now, reaches m s = true → 80 ≤ g.toNat ∨ fieldSt s g.toNat ≠ .dark ∨ (fieldOf s g.toNat).brkLocked = true ∨ (∃ r, (fieldOf s g.toNat).shortAt = some r ∧ now - r < 40000000000) →
      ∃ t, exec (.reclose m g now) s = .next t ∧ live t pPmField 0x804 ≠ 0 ∧ t.fields = s.fields) ∧
    (∀ m now, reaches m s = true → fieldSt s f = .dark → x.brkLocked = false → (∀ r, x.shortAt = some r → 40000000000 ≤ now - r) → ∃ t, exec (.reclose m (BitVec.ofNat 7 f) now) s = .next t ∧
      live t pPmField 0x804 = 0 ∧ fieldOf t f = (if x.shortAt.isSome then { x with shortAt := none, reclosedAt := some now } else x)) ∧
    (x.kilnEntry = true → ∃ t, exec (.kilnEntryDone n) s = .next t ∧ fieldOf t f = { x with kilnEntry := false } ∧ (unitsOf t f).permits = [] ∧ (unitsOf t f).quotaQ = [] ∧ t.cores = s.cores) ∧
    (x.kilnEntry = false → ∃ t, exec (.kilnEntryDone n) s = .next t ∧ t = s) ∧
    (∀ a, x.attempt = some a → a.running = true → 1 ≤ a.stage → ∃ t, exec (.vcoreStageEnd n) s = .next t ∧ fieldOf t f = { x with attempt := some ⟨a.stage + 1, false, 0⟩ }) ∧
    ((∀ a, x.attempt = some a → a.running = false ∨ a.stage = 0) → ∃ t, exec (.vcoreStageEnd n) s = .next t ∧ t = s) ∧
    (∀ la lb, (∀ a, x.attempt = some a → a.running = false ∨ a.stage ≠ 0) → ∃ t, exec (.railStageDone n la lb) s = .next t ∧ t = s) ∧
    (∀ a la lb, x.attempt = some a → a.running = true → a.stage = 0 → (compAt (bootUnit 2 f s).2 2).dead.contains f = true →
      ∃ t, exec (.railStageDone n la lb) s = .next t ∧ fieldSt t f = .dark ∧ (fieldOf t f).darkBy = some 11) ∧
    (∀ a la lb, x.attempt = some a → a.running = true → a.stage = 0 → (compAt (bootUnit 2 f s).2 2).dead.contains f = false →
      ∃ t, exec (.railStageDone n la lb) s = .next t ∧ ((fieldOf t f).darkBy = none → fieldSt t f = .kiln ∧ (fieldOf t f).ready = true ∧ (fieldOf t f).unrouted = s.boot.serviceReady)) ∧
    (∀ b, x.retryAt = some b → (s.beat.now - b).toNat < 2 ^ 47 → ∃ t, exec (.powerRetry n) s = .next t ∧ fieldOf t f = { x with retryAt := none }) ∧
    ((∀ b, x.retryAt = some b → 2 ^ 47 ≤ (s.beat.now - b).toNat) → ∃ t, exec (.powerRetry n) s = .next t ∧ t = s) ∧
    (fieldSt s f ≠ .dark → restarts s 2 f = false → ∃ t, exec (.clockStepDone n) s = .next t ∧ fieldOf t f = { x with clk := effStep s f }) ∧
    (x.st = .on → x.clk < 4 → vcoreSet s f = 8 * [850, 750, 680, 600].getD x.clk 0) ∧
    (x.st = .kiln → ∀ a, x.attempt = some a → effStep s f < 4 → vcoreSet s f = x.stage * [850, 750, 680, 600].getD (effStep s f) 0) ∧
    (fieldSt s f = .dark ∨ restarts s 2 f = true → ∃ t, exec (.clockStepDone n) s = .next t ∧ t = s) ∧
    (fieldSt s f = .dark ∨ fieldTemp s f = none → ∃ t, exec (.thermalEval n) s = .next t ∧ t = s) ∧
    (∀ c, fieldSt s f ≠ .dark → fieldTemp s f = some c → ∃ t, exec (.thermalEval n) s = .next t ∧
      (20 * (liveF s pPm 0x4C 7 0 + 40) ≤ c → bit (live t (fieldPage f 0) 0x800) 3 = true) ∧
      (20 * (liveF s pPm 0x4C 23 16 + 40) ≤ c → (fieldOf t f).kilnHeat = true) ∧
      (20 * (liveF s pPm 0x4C 15 8 + 40) ≤ c → (fieldOf t f).cool = 0 ∧ (x.hot = 9 → (fieldOf t f).thermCap = Nat.min 3 (x.thermCap + 1) ∧ (fieldOf t f).hot = 0) ∧
        (x.hot ≠ 9 → (fieldOf t f).thermCap = x.thermCap ∧ (fieldOf t f).hot = x.hot + 1)) ∧
      (c < 20 * (liveF s pPm 0x4C 15 8 - 5 + 40) → (fieldOf t f).hot = 0 ∧ (x.cool = 99 → (fieldOf t f).thermCap = x.thermCap - 1 ∧ (fieldOf t f).cool = 0) ∧
        (x.cool ≠ 99 → (fieldOf t f).thermCap = x.thermCap ∧ (fieldOf t f).cool = x.cool + 1)) ∧ (fieldOf t f).st = x.st) ∧
    (∃ t, exec (.currentLimitTimer n true) s = .next t ∧ fieldOf t f = { x with powCap := Nat.min 3 (x.powCap + 1) }) ∧
    (∃ t, exec (.currentLimitTimer n false) s = .next t ∧ fieldOf t f = { x with powCap := x.powCap - 1 }) ∧
    (∀ now, fieldSt s f = .on → tempsOlder s f now 40000000 = true → x.stale = false → ∃ t, exec (.telemStale n now) s = .next t ∧ fieldOf t f = { x with stale := true } ∧
      errValid t (fieldPage f 0) = true ∧ 3 ≤ effStep t f) ∧
    (∀ now, fieldSt s f ≠ .on ∨ tempsOlder s f now 40000000 = false ∨ x.stale = true → ∃ t, exec (.telemStale n now) s = .next t ∧ t = s)

/-- Telemetry converters write calibrated results, run regular, injected and covering sequences, and calibrate, as R468 to R476 say (R468, R469, R470, R471, R472, R473, R474, R475, R476, R477, R479, R487). -/
def Obligations.ConvertersConvertInjectAndCalibrate : Prop :=
  ∀ (s : State) (m : Fin 164),
    let n := m.val
    let y := convAt s n
    let p := partner n
    let rep := (convAt s (n / 2 * 2)).recal || (convAt s (n / 2 * 2 + 1)).recal
    let value := fun (i raw : Nat) => if inputReserved n i then 0 else calibrate raw y.ofs y.gain
    let armed := fun (k : Nat) => convDark s n = false ∧ y.failed = false ∧ bit (live s (pTel n) 0x40) 29 = true ∧ injLen s n ≠ 0 ∧ bit (live s (pTel n) 0x44) (20 + k) = true
    let pairBusy := inCal s n || inCal s p || convDark s p
    (∀ raw now, convDark s n = true ∨ y.job = .idle ∨ (∃ c, y.job = .cal c) → ∃ t, exec (.conversionDone m raw now) s = .next t ∧ t = s) ∧
    (∀ (raw : BitVec 12) now k, convDark s n = false → y.job = .regular k → seqInput s n k ≠ 15 → ∃ t, exec (.conversionDone m raw now) s = .next t ∧
      live t (pTel n) (0x840 + 4 * k) = resultWord false (seqInput s n k) y.passes (value (seqInput s n k) raw.toNat) ∧
      mfind (convAt t n).readings (seqInput s n k) = some (value (seqInput s n k) raw.toNat, now) ∧
      (n < 160 → 8 ≤ seqInput s n k → (fieldOf t (n / 2)).stale = false) ∧
      (rep = false → y.running = true → k + 1 < seqLen s n → (convAt t n).job = .regular (k + 1) ∧ (convAt t n).passes = y.passes) ∧
      (rep = false → y.running = true → seqLen s n ≤ k + 1 → covering s n = false → seqRepeat s n = false → (convAt t n).job = .idle ∧ (convAt t n).running = false ∧
        (convAt t n).passes = (y.passes + 1) % 65536 ∧ bit (live t (pTel n) 0x810) 0 = true) ∧
      (rep = false → y.running = true → seqLen s n ≤ k + 1 → covering s n = true → 0 < seqLen s p → (convAt t n).job = .regularFor 0)) ∧
    (∀ (raw : BitVec 12) now k, convDark s n = false → y.job = .regularFor k → seqInput s p k ≠ 15 → ∃ t, exec (.conversionDone m raw now) s = .next t ∧
      live t (pTel p) (0x840 + 4 * k) = resultWord true (seqInput s p k) (convAt s p).passes (if inputReserved p (seqInput s p k) then 0 else calibrate raw.toNat y.ofs y.gain) ∧
      (rep = false → covering s n = true → k + 1 < seqLen s p → (convAt t n).job = .regularFor (k + 1))) ∧
    (∀ (raw : BitVec 12) now k, convDark s n = false → y.job = .injected k → ∃ t, exec (.conversionDone m raw now) s = .next t ∧
      live t (pTel n) (0x880 + 4 * k) = resultWord false (injInput s n k) (liveF s (pTel n) 0x814 31 16) (value (injInput s n k) raw.toNat) ∧
      (k + 1 < injLen s n → (convAt t n).job = .injected (k + 1)) ∧
      (injLen s n ≤ k + 1 → covering s n = false → y.injPending = true → (convAt t n).job = .injected 0 ∧ (convAt t n).injPending = false ∧ (convAt t n).cause = y.nextCause ∧
        bit (live t (pTel n) 0x810) 1 = true ∧ liveF t (pTel n) 0x814 31 16 = Nat.min 0xFFFF (liveF s (pTel n) 0x814 31 16 + 1)) ∧
      (injLen s n ≤ k + 1 → covering s n = false → y.injPending = false → y.calDue = none → y.startDue = false → y.running = true → ∀ j, y.resume = .regular j →
        (convAt t n).job = .regular j)) ∧
    (∀ now, y.job = .idle → y.running = true → seqRepeat s n = true → y.passAt + 4000 * rptUs s n ≤ now → convDark s n = false → seqLen s n ≠ 0 →
      ∃ t, exec (.telRepeat m now) s = .next t ∧ (convAt t n).job = .regular 0 ∧ (convAt t n).entry = 0 ∧ (convAt t n).passAt = now) ∧
    (∀ now, y.job ≠ .idle ∨ y.running = false ∨ seqRepeat s n = false ∨ now < y.passAt + 4000 * rptUs s n ∨ convDark s n = true →
      ∃ t, exec (.telRepeat m now) s = .next t ∧ t = s) ∧
    (∀ k : Fin 3, ¬ armed k.val ∨ y.job = .cal true → ∃ t, exec (.injectedTrigger m k) s = .next t ∧ t = s) ∧
    (∀ (k : Fin 3) j, armed k.val → y.job = j → j = .idle ∨ (∃ i, j = .regular i ∨ j = .regularFor i) → ∃ t, exec (.injectedTrigger m k) s = .next t ∧
      convAt t n = { y with job := .injected 0, resume := j, cause := BitVec.ofNat 3 (2 ^ k.val) }) ∧
    (∀ k : Fin 3, armed k.val → y.job = .cal false → ∃ t, exec (.injectedTrigger m k) s = .next t ∧
      convAt t n = { y with job := .injected 0, calState := 3, cause := BitVec.ofNat 3 (2 ^ k.val) }) ∧
    (∀ (k : Fin 3) i, armed k.val → y.job = .injected i ∨ y.job = .injectedFor i → ∃ t, exec (.injectedTrigger m k) s = .next t ∧
      convAt t n = { y with injPending := true, nextCause := y.nextCause ||| BitVec.ofNat 3 (2 ^ k.val) }) ∧
    (∀ a, reaches a s = true → pageDark s (pTel n) = true → ∀ i ∈ [Instr.cal a m, .calCover a m], ∃ t, exec i s = .next t ∧ t.convs = s.convs ∧
      liveF t 4 0x800 15 0 = Nat.min 0xFFFF (liveF s 4 0x800 15 0 + 1)) ∧
    (∀ a, reaches a s = true → pageDark s (pTel n) = false → pairBusy = true → ∀ i ∈ [Instr.cal a m, .calCover a m], ∃ t, exec i s = .next t ∧ errValid t (pTel n) = true ∧
      convAt t n = (if inCal s n then y else { y with calState := 3 })) ∧
    (∀ a i, reaches a s = true → pageDark s (pTel n) = false → pairBusy = false → y.job = .injected i ∨ y.job = .injectedFor i → ∀ q ∈ [(false, Instr.cal a m), (true, .calCover a m)],
      ∃ t, exec q.2 s = .next t ∧ convAt t n = { y with calDue := some q.1, calState := 1 }) ∧
    (∀ a, reaches a s = true → pageDark s (pTel n) = false → pairBusy = false → y.job = .idle ∨ (∃ i, y.job = .regular i ∨ y.job = .regularFor i) →
      (∃ t, exec (.cal a m) s = .next t ∧ convAt t n = { y with job := .cal false, resume := y.job, calState := 1 }) ∧
      (∃ t, exec (.calCover a m) s = .next t ∧ convAt t n = { y with job := .cal true, resume := .idle, calState := 1 })) ∧
    (∀ (z w now : Nat), (∀ c, y.job ≠ .cal c) → y.failed = false ∨ (convAt s p).failed = false → ∃ t, exec (.calDone m z w now) s = .next t ∧ t = s) ∧
    (∀ z w now c o g, y.job = .cal c → calFactors z w = some (o, g) → y.failed = false → y.calDue = none → ∃ t, exec (.calDone m z w now) s = .next t ∧
      (convAt t n).ofs = o ∧ (convAt t n).gain = g ∧ (convAt t n).calState = 2 ∧ (convAt t n).calFails = 0 ∧ (convAt t n).recal = false ∧
      (c = true → y.running = true → seqLen s n ≠ 0 → (convAt t n).job = .regular 0)) ∧
    (∀ z w now c, y.job = .cal c → calFactors z w = none → y.failed = false → y.calFails ≠ 1 → y.calDue = none → ∃ t, exec (.calDone m z w now) s = .next t ∧
      (convAt t n).ofs = y.ofs ∧ (convAt t n).gain = y.gain ∧ (convAt t n).calState = 3 ∧ (convAt t n).calFails = y.calFails + 1 ∧ errValid t (pTel n) = true ∧
      bit (live t (pTel n) 0x810) 2 = true) ∧
    (∀ z w now c, y.job = .cal c → calFactors z w = none → y.failed = false → y.calFails = 1 → (convAt s p).failed = false → ∃ t, exec (.calDone m z w now) s = .next t ∧
      (convAt t n).failed = true ∧ (convAt t n).running = false ∧ t.boot.floorDue = true ∧ t.recov.reported = s.recov.reported ++ [⟨E.telemCalFail, 5, n, 0⟩]) ∧
    (∀ z w now c, y.job = .cal c → calFactors z w = none → y.failed = false → y.calFails = 1 → (convAt s p).failed = true → n < 160 →
      ∃ t, exec (.calDone m z w now) s = .next t ∧ fieldSt t (n / 2) = .dark ∧ (fieldOf t (n / 2)).darkBy = some 9 ∧ (convAt t n).failed = true ∧ (convAt t p).failed = true) ∧
    (∀ z w o g, calFactors z w = some (o, g) → o.toNat = roundDiv z 112 ∧ o.toNat ≤ 127 ∧ 24576 ≤ g.toNat ∧ g.toNat ≤ 40960 ∧
      g.toNat = roundDiv (3072 * 2 ^ 15 * 112) (w - 112 * o.toNat))

/-- Faults are classified, suspended for, queued, planned, applied and resumed as R480 to R496 say, and the floor map is retried (R504) (R480, R481, R482, R483, R484, R485, R488, R489, R490, R491, R494, R504). -/
def Obligations.FaultsAreClassifiedPlannedAndResumed : Prop :=
  ∀ (s : State),
    let logged := fun (t : State) (q : FaultRec) (result : Nat) => t.recov.log.head? = some ⟨s.recov.nextLog, q.code, q.kind, result, q.unit, 0⟩ ∧ t.recov.nextLog = s.recov.nextLog + 1
    let base := fun (q : FaultRec) (l : List FaultRec) => let u := { s with recov := { s.recov with reported := l } }
      if q.code = E.storeUncorrectable then reloadSlot q.unit u else u
    let takes := fun (q : FaultRec) (l : List FaultRec) => s.recov.reported = q :: l ∧ mcStops s = false
    let lasting := fun (q : FaultRec) (reload : Bool) => q.code ≠ E.storeUncorrectable ∨ reload = false
    let strikes := fun (now : Nat) (reload : Bool) (q : FaultRec) (l : List FaultRec) (P : FaultEntry → State → Prop) => ∃ t e u, exec (.faultSuspend now reload) s = .next t ∧ t = enqueueFault e u ∧
      e.faults = [{ q with entry := (base q l).recov.nextLog }] ∧ e.at_ = now ∧ P e u
    let hard := [E.storeUncorrectable, E.actParity, E.cacheLineLost, E.arrayCheckFail, E.stackEccFail, E.stackCrcFail]
    let code := fun (c : CoreRef) => BitVec.ofNat 16 (bits (coreAt s (coreId c)).coreErr 47 32)
    let due := fun (c : CoreRef) (k : Fin 16) (m : Nat) => mfind s.owner (coreId c) = some m ∧ (threadAt (coreAt s (coreId c)) k.val).st = .faulted ∧
      (coreAt s (coreId c)).classified.contains k.val = false ∧ mcStops s = false
    (∀ c k, mfind s.owner (coreId c) = none ∨ (threadAt (coreAt s (coreId c)) k.val).st ≠ .faulted ∨ (coreAt s (coreId c)).classified.contains k.val = true ∨ mcStops s = true →
      ∃ t, exec (.threadFaultClassify c k) s = .next t ∧ t = s) ∧
    (∀ c k m, due c k m → loading s m = false → hard.contains (code c) = true → ∃ t, exec (.threadFaultClassify c k) s = .next t ∧
      coreAt t (coreId c) = { coreAt s (coreId c) with classified := insertAsc k.val (coreAt s (coreId c)).classified } ∧ t.recov = s.recov ∧ t.weights = s.weights) ∧
    (∀ c k m, due c k m → loading s m = false → hard.contains (code c) = false → code c ≠ E.stackUnavailable → ∃ t, exec (.threadFaultClassify c k) s = .next t ∧
      t.recov.reported = s.recov.reported ++ [⟨E.placementFault, 6, m, 0⟩] ∧ k.val ∈ (coreAt t (coreId c)).classified) ∧
    (∀ c k m, due c k m → loading s m = false → code c = E.stackUnavailable → (modelAt s m).place.isSome = true → ∃ t, exec (.threadFaultClassify c k) s = .next t ∧
      (mfind t.recov.awaitStack m).isSome = true) ∧
    (∀ now reload, s.recov.reported = [] ∨ mcStops s = true → ∃ t, exec (.faultSuspend now reload) s = .next t ∧ t = s) ∧
    (∀ now q l, takes q l → q.code = E.storeUncorrectable → ∃ t, exec (.faultSuspend now true) s = .next t ∧ t = logTransient q.code q.kind q.unit (base q l) ∧
      (mfind s.owner q.unit = none → t.recov.reported = l ∧ logged t q 1 ∧ t.recov.plan = s.recov.plan ∧ t.recov.queue = s.recov.queue ∧ t.cores = s.cores ∧ t.weights = s.weights)) ∧
    (∀ now reload q l, takes q l → lasting q reload → q.code ≠ E.storeUncorrectable → q.kind = 4 ∨ q.kind = 5 → ∃ t, exec (.faultSuspend now reload) s = .next t ∧ t.recov.reported = l ∧ logged t q 0 ∧
      t.recov.plan = s.recov.plan ∧ t.recov.queue = s.recov.queue ∧ liveF t 0 0xA10 15 0 = Nat.min 0xFFFF (liveF s 0 0xA10 15 0 + 1) ∧ t.weights = s.weights) ∧
    (∀ now reload q l, takes q l → lasting q reload → q.kind = 0 → strikes now reload q l fun e u => e.cores = [q.unit] ∧ e.fields = [] ∧
      (q.code ≠ E.actParity → q.code ≠ E.cacheLineLost → e.retire = [(q.unit, retireReason q.code, false)]) ∧
      (q.code = E.actParity → mfind s.recov.parityAt q.unit = none → e.retire = []) ∧
      (∀ m ∈ e.models, (modelAt u m).suspended = true) ∧ u.recov.plan = (base q l).recov.plan ∧ u.recov.queue = (base q l).recov.queue) ∧
    (∀ now reload q l, takes q l → lasting q reload → q.kind = 1 → mayRetire (base q l) q.unit = true → strikes now reload q l fun e _ => e.retire = [(q.unit, 5, true)] ∧ e.cores = [q.unit]) ∧
    (∀ now reload q l, takes q l → lasting q reload → q.kind = 1 → mayRetire (base q l) q.unit = false → strikes now reload q l fun e _ => e.fields = [fieldOfCore q.unit] ∧ e.retire = []) ∧
    (∀ now reload q l, takes q l → lasting q reload → q.kind = 2 → fieldSt (base q l) q.unit = .dark ∨ fieldWasLost (base q l) q.unit = true → q.code ≠ E.connSuspect → strikes now reload q l fun e _ => e.fields = [q.unit] ∧ e.cores = []) ∧
    (∀ now reload q l, takes q l → lasting q reload → q.code ≠ E.storeUncorrectable → q.kind = 2 → (fieldSt s q.unit ≠ .dark ∧ fieldWasLost s q.unit = false) ∨ q.code = E.connSuspect → ∃ t, exec (.faultSuspend now reload) s = .next t ∧
      t.recov.reported = l ∧ logged t q 0 ∧ t.recov.plan = s.recov.plan ∧ t.fields = s.fields) ∧
    (∀ now reload q l, takes q l → lasting q reload → q.kind = 3 → q.code = E.stackEccFail ∨ q.code = E.stackCrcFail → strikes now reload q l fun e _ => e.stackNos = [q.unit]) ∧
    (∀ now reload q l, takes q l → lasting q reload → q.kind = 6 → modelState s q.unit ≠ 0 → s.debugModels.contains q.unit = true → q.code = E.placementFault →
      strikes now reload q l fun e _ => e.cores = [] ∧ ∀ m ∈ e.models, m ≠ q.unit) ∧
    (∀ e, s.recov.plan = none → enqueueFault e s = setPlan (some (newPlan e)) s) ∧
    (∀ e p, s.recov.plan = some p → conflicts s p e = false → s.recov.queue.find? (sameFault · e) = none → s.recov.queue.length < 64 →
      (enqueueFault e s).recov = { s.recov with queue := s.recov.queue ++ [e] }) ∧
    (∀ e p, s.recov.plan = some p → conflicts s p e = false → s.recov.queue.find? (sameFault · e) = none → 64 ≤ s.recov.queue.length →
      (enqueueFault e s).recov.overflow = true ∧ liveF (enqueueFault e s) 0x21 0x818 31 31 = 1) ∧
    (∀ gone free css r, rebindAll gone free css = some r → ∀ cs ∈ r, ∀ c ∈ cs, gone c = false ∨ c ∈ free) ∧
    (∀ m c, c ∈ freeEverywhere s m → fieldSt s (fieldOfCore c) = .on ∧ fieldOfCore c ∉ barredFields s m (draftsTo s m)) ∧
    (∀ m p q, rebound s m p = some q → q.img = p.img ∧ ∀ f ∈ heldFields q, hqSum (withPlace m (some q) s) f ≤ liveF (withPlace m (some q) s) (pHeavy f) 0x68 11 0) ∧
    (∀ commit flash ways, (∀ p, s.recov.plan = some p → p.phase ≠ .planning) ∨ mcStops s = true ∨ s.recov.overflow = true ∨ s.beat.mode ≠ .locked ∨ inFuture commit (beatNow s) = false ∨
        (∃ p, s.recov.plan = some p ∧ waysFit s p ways = false) →
      ∃ t, exec (.planArm commit flash ways) s = .next t ∧ t = s) ∧
    (∀ commit flash ways p, s.recov.plan = some p → p.phase = .planning → mcStops s = false → s.recov.overflow = false → s.beat.mode = .locked → inFuture commit (beatNow s) = true →
      waysFit s p ways = true → let r := p.entry.models.foldl planModel (retireAll p.entry s, { p with moves := [], demote := [], lose := [] })
      let c := (planPages s r.2 ways).foldl (fun s k => claimPage k s) s
      (∀ g, firstOf (enrolFails c) (planPages s r.2 ways) = none → lowestFree c 4 60 = some g → ∃ t x, exec (.planArm commit flash ways) s = .next t ∧ t.recov.plan = some x ∧
        x.phase = .armed ∧ x.group = g ∧ x.moves = r.2.moves ∧ x.demote = r.2.demote ∧ x.lose = r.2.lose ∧ x.entry = r.2.entry ∧ (grp t g).st = .validating ∧ (grp t g).commit = commit) ∧
      (firstOf (enrolFails c) (planPages s r.2 ways) ≠ none ∨ lowestFree c 4 60 = none → ∃ t, exec (.planArm commit flash ways) s = .next t ∧ t = c)) ∧
    (∀ now, (∀ p, s.recov.plan = some p → p.phase = .planning ∨ (p.phase = .armed ∧ (grp s p.group).st ≠ .done)) → ∃ t, exec (.planApply now) s = .next t ∧ t = s) ∧
    (∀ now p, s.recov.plan = some p → s.recov.overflow = false → mcStops s = false → p.phase = .armed → (grp s p.group).st = .done → p.committed = false →
      ∃ t, exec (.planApply now) s = .next t ∧ t.recov.plan = some (replan p p.entry) ∧ liveF t 0 0xA14 15 0 = Nat.min 0xFFFF (liveF s 0 0xA14 15 0 + 1) ∧
        (grp t p.group).st = .free ∧ ∃ k us, t.recov.log.head? = some ⟨s.recov.nextLog, E.planAborted, k, 6, us, 0⟩) ∧
    (∀ now p, s.recov.plan = some p → s.recov.overflow = false → mcStops s = false → p.phase = .armed → (grp s p.group).st = .done → p.committed = true → p.again = false →
      ∃ t l, exec (.planApply now) s = .next t ∧ t.recov.plan = some { p with
        phase := .applying, unclean := l, copying := p.moves.flatMap fun e => match mfind p.src e.1 with
          | some old => (movedSlots old e.2).map fun q => (e.1, q.1, q.2.1, q.2.2.1, q.2.2.2)
          | none => [] } ∧ (∀ c ∈ p.unclean, c ∈ l) ∧ t.recov.queue = s.recov.queue) ∧
    (∀ now p, s.recov.plan = some p → s.recov.overflow = false → mcStops s = false → p.phase = .applying → p.started = false →
      let waits := contentsWait s p.entry.models = true ∨ p.entry.models.any (contentsFly s) = true
      (p.copying ≠ [] → copiesFly s = false → ∃ t l, exec (.planApply now) s = .next t ∧ t.recov.plan = some { p with copying := [], lostFrames := l } ∧
        ∀ m, m ∈ l ↔ m ∈ p.lostFrames ∨ ∃ q ∈ p.copying, q.1 = m ∧ copyBad s p m q.2.2.2.1 = true) ∧
      (p.copying = [] → ¬ waits → p.written = false → ∃ t, exec (.planApply now) s = .next t ∧ t.recov.plan = some { p with written := true }) ∧
      (p.copying = [] → ¬ waits → p.written = true → ∃ t, exec (.planApply now) s = .next t ∧ t.recov.plan = some { p with started := true })) ∧
    (∀ now p, s.recov.plan = some p → p.phase = .applying → p.started = true ∨ (p.copying ≠ [] ∧ copiesFly s = true) ∨
        (p.copying = [] ∧ (contentsWait s p.entry.models = true ∨ p.entry.models.any (contentsFly s) = true)) → ∃ t, exec (.planApply now) s = .next t ∧ t = s) ∧
    (∀ now p, s.recov.plan = some p → p.phase = .applying → p.started = true → mcStops s = false → s.recov.overflow = false → s.beat.mode = .locked →
      ∃ t, exec (.planResume now) s = .next t ∧ t.recov.plan = s.recov.queue.head?.map newPlan ∧ t.recov.queue = s.recov.queue.drop 1 ∧
        (s.weights.inst = none → ∀ m ∈ p.entry.models, modelReady s m = true → (modelAt t m).suspended = false)) ∧
    (∀ now, (∀ p, s.recov.plan = some p → p.phase ≠ .applying ∨ p.started = false) ∨ mcStops s = true ∨ s.beat.mode ≠ .locked → ∃ t, exec (.planResume now) s = .next t ∧ t = s) ∧
    (∀ ok, s.boot.floorDue = true → ∃ t, exec (.floorMapRetry ok) s = .next t ∧ t.boot.floorDue = !ok ∧ (ok = false → errValid t pFlash = true) ∧ t.repair = s.repair) ∧
    (∀ ok, s.boot.floorDue = false → ∃ t, exec (.floorMapRetry ok) s = .next t ∧ t = s)

/-- The start-up stages, self-test, ACTIVATE and RESTART act as R508, R509, R511 and R514 to R516 say (R408, R410, R504, R508, R509, R511, R512, R514, R515, R516, R523). -/
def Obligations.StartUpSelfTestAndFirmwareCommands : Prop :=
  ∀ (s : State),
    let seOk := s.boot.stage = 1 ∧ (compAt (bootUnit 0 0 s).2 0).dead.contains 0 = false
    (s.boot.stage ≠ 1 → ∃ t, exec (.seBootDone) s = .next t ∧ t = s) ∧
    (s.boot.stage = 1 → (compAt (bootUnit 0 0 s).2 0).dead.contains 0 = true → ∃ t, exec (.seBootDone) s = .next t ∧ t = (bootUnit 0 0 s).2) ∧
    (seOk → ∃ t, exec (.seBootDone) s = .next t ∧ t.boot.stage = 2 ∧ t.sec.bootId.isSome = true ∧ t.serving.pubKey.length = 32 ∧ t.sec.kemSeed.length = 64 ∧
      ((seRead s 1).isSome = true → t.sec.identityOk = true) ∧ (seRead s 1 = none → t.sec.identityOk = false ∧ t.boot.serviceMode = true) ∧
      (∀ l, seRead s 2 = some l → t.sec.leaf = le l 0 4 ∧ t.sec.reservedTo = le l 0 4 ∧ t.sec.tree = leafTree l ∧ (2 ^ 30 ≤ le l 0 4 → t.sec.signHalt = true)) ∧
      (seRead s 2 = none → t.sec.signHalt = true ∧ t.boot.serviceMode = true)) ∧
    (∀ now bad hub, s.boot.stage ≠ 2 ∨ (compAt s 1).dead.contains 0 = true → ∃ t, exec (.mcBootDone now bad hub) s = .next t ∧ t = s) ∧
    (∀ now bad hub, s.boot.stage = 2 → (compAt s 1).dead.contains 0 = false → ∃ t c, exec (.mcBootDone now bad hub) s = .next t ∧ t.boot.stage = 3 ∧ t.boot.cfg = some c ∧
      live t pCl 0x40 = BitVec.ofNat 32 (c.moduleId % 2 ^ 14) ∧ live t pPm 0x40 = BitVec.ofNat 32 c.pmCap) ∧
    (s.boot.stage = 4 → ∃ t, exec (.startupFieldsTimeout) s = .next t ∧ t.boot.stage = 5 ∧ t.boot.pending = (fieldsPending s).length ∧ liveF t pPm 0x44 22 16 = 4 ∧ t.fields = s.fields) ∧
    (s.boot.stage ≠ 4 → ∃ t, exec (.startupFieldsTimeout) s = .next t ∧ t = s) ∧
    (∀ (n : Fin 80) l flash, s.boot.testing.contains n.val = false → (∃ t, exec (.selftestDone n l flash) s = .next t ∧ t = s) ∧ ∃ t, exec (.selftestTimeout n) s = .next t ∧ t = s) ∧
    (∀ (n : Fin 80) flash, s.boot.testing.contains n.val = true → without n.val s.boot.testing ≠ [] ∨ s.boot.stage < 5 → ∃ t, exec (.selftestDone n [] flash) s = .next t ∧
      t = { s with boot := { s.boot with testing := without n.val s.boot.testing } }) ∧
    (∀ (n : Fin 80) l flash, s.boot.testing.contains n.val = true → ∃ t, exec (.selftestDone n l flash) s = .next t ∧ t.boot.testing = without n.val s.boot.testing ∧
      (without n.val s.boot.testing = [] → 5 ≤ s.boot.stage → t.boot.floorDue = !flash) ∧ (without n.val s.boot.testing ≠ [] ∨ s.boot.stage < 5 → l ≠ [] → t.boot.floorDue = true)) ∧
    (∀ (n : Fin 80) (y : Fin 60) (x : Fin 64) (r : Fin 6) flash, let c := 4096 * n.val + y.val * 64 + x.val
      s.boot.testing.contains n.val = true → coreEnabled s c = true → r.val ≠ 0 →
      (r.val ≠ 5 → ∃ t, exec (.selftestDone n [(y, x, r)] flash) s = .next t ∧ (repairOf t c).enabled = false ∧ (repairOf t c).reason = BitVec.ofNat 8 r.val ∧
        (repairOf t c).routerRetired = (repairOf s c).routerRetired ∧ t.fields = s.fields ∧ ∀ k, k ≠ c → repairOf t k = repairOf s k) ∧
      (r.val = 5 → mayRetire s c = true → ∃ t, exec (.selftestDone n [(y, x, r)] flash) s = .next t ∧ (repairOf t c).enabled = false ∧ (repairOf t c).routerRetired = true) ∧
      (r.val = 5 → mayRetire s c = false → ∃ t, exec (.selftestDone n [(y, x, r)] flash) s = .next t ∧ fieldSt t n.val = .dark ∧ (fieldOf t n.val).darkBy = some 9)) ∧
    (∀ (n : Fin 80), s.boot.testing.contains n.val = true → ∃ t c, exec (.selftestTimeout n) s = .next t ∧ fieldSt t n.val = .dark ∧ (fieldOf t n.val).darkBy = some 9 ∧
      t.recov.reported = s.recov.reported ++ [⟨c, 2, n.val, 0⟩]) ∧
    (∀ m (c : Fin 8) e, reaches m s = true → activateCheck s c.val = some e → ∃ t, exec (.fwActivate m c) s = .next t ∧ t.boot.comps = s.boot.comps ∧
      (s.boot.restart = none → t.boot.fwState = 3 ∧ t.boot.fwCode = e) ∧ (s.boot.restart ≠ none → errValid t pFlash = true ∧ t.boot.fwState = s.boot.fwState)) ∧
    (∀ m (c : Fin 8), reaches m s = true → activateCheck s c.val = none → ∃ t, exec (.fwActivate m c) s = .next t ∧
      compAt t c.val = { compAt s c.val with bootBank := 1 - (compAt s c.val).runBank, inactive := 3 } ∧ (s.boot.restart = none → t.boot.fwState = 2 ∧ t.boot.fwCode = 0)) ∧
    (∀ c, 4 < c ∨ (compAt s c).inactive ≠ 2 → activateCheck s c = some E.updProtocol) ∧
    (∀ m (c : Fin 8) (u : Byte) e, reaches m s = true → restartCheck s c.val u.toNat = some e → ∃ t, exec (.fwRestart m c u) s = .next t ∧ t.boot.restart = s.boot.restart ∧
      (s.boot.restart = none → t.boot.fwState = 3 ∧ t.boot.fwCode = e) ∧ (s.boot.restart ≠ none → errValid t pFlash = true)) ∧
    (∀ m (c : Fin 8) (u : Byte), reaches m s = true → restartCheck s c.val u.toNat = none → ∃ t v l, exec (.fwRestart m c u) s = .next t ∧ t = beginRestart v ∧ v.boot.fwState = 1 ∧
      v.boot.restart = some ⟨c.val, List.headD l 0, l.drop 1, false⟩ ∧
      l = (if c.val < 2 then [0] else if u = 0xFF then List.range (unitsOfComp c.val) else [u.toNat])) ∧
    (∀ r, s.boot.restart = some r → r.begun = false → restartWaits s r.component r.unit = false → (beginRestart s).boot.restart = some { r with begun := true } ∧
      (r.component = 2 → (fieldOf (beginRestart s) r.unit).ready = false) ∧ (r.component = 4 → (linkAt (beginRestart s) r.unit).st = .down)) ∧
    (∀ r, s.boot.restart = some r → r.begun = true ∨ restartWaits s r.component r.unit = true → beginRestart s = s) ∧
    (∀ bad, (∀ r, s.boot.restart = some r → r.begun = false) → ∃ t, exec (.componentBoot bad) s = .next t ∧ t = s) ∧
    (∀ bad r, s.boot.restart = some r → r.begun = true → r.rest = [] ∨ (bootUnit r.component r.unit s).1 = false → ∃ t, exec (.componentBoot bad) s = .next t ∧ t.boot.restart = none ∧
      ((compAt (bootUnit r.component r.unit s).2 r.component).dead.contains r.unit = false → t.boot.fwState = 2 ∧ t.boot.fwCode = 0) ∧
      ((compAt (bootUnit r.component r.unit s).2 r.component).dead.contains r.unit = true → t.boot.fwState = 3 ∧ t.boot.fwCode = E.fwFallback)) ∧
    (∀ bad r u l, s.boot.restart = some r → r.begun = true → r.rest = u :: l → (bootUnit r.component r.unit s).1 = true → ∃ t v, exec (.componentBoot bad) s = .next t ∧
      t = beginRestart v ∧ v.boot.restart = some ⟨r.component, u, l, false⟩) ∧
    (∀ bad r, s.boot.restart = some r → r.begun = true → r.component = 2 → r.rest = [] → (compAt (bootUnit 2 r.unit s).2 2).dead.contains r.unit = false →
      ∃ t, exec (.componentBoot bad) s = .next t ∧ (fieldOf t r.unit).ready = true)

/-- Service port datagrams are answered once, from the cache when repeated, and HELLO, registers, staging, firmware and records act as R516 to R522 say (R503, R504, R514, R516, R517, R518, R519, R520, R522, R393, R381, R382). -/
def Obligations.ServicePortAnswersItsRequests : Prop :=
  ∀ (s : State) (d : Dgram),
    let all := fun (i : Nat × Instr) => i ∈ [(1, Instr.spHello d true), (1, .spHello d false), (2, .spRegRd d 0 0 0), (3, .spRegWr 0 d 0 0 0 0), (0x10, .stageBegin d 0 0),
      (0x11, .stageData d 0 [] true), (0x12, .stageEnd d [] true), (0x13, .spActivate d 0), (0x14, .spRestart d 0 0), (0x20, .recordRead d 1 0 0)]
    let fresh := spAnswers s = true ∧ spCached d s = none ∧ spOpen d s = false ∧ spOutstanding d s < 64
    let u0 := { countUp pSp 0x800 31 0 1 s with sp := { s.sp with waiting := s.sp.waiting ++ [(d.from_, d.seq.toNat, d.session.toNat)] } }
    let answers := fun (i : Instr) (op : Nat) (P : Code → List Byte → State → Prop) => ∃ t c l u, exec i s = .next t ∧ t = spRespond d.from_ op c d.seq.toNat l u ∧ P c l u
    let same := fun (c : Code) (k : Code) (u : State) => c = k ∧ u = u0
    (∀ i, all i → spAnswers s = false → ∃ t, exec i.2 s = .next t ∧ t = s) ∧
    (∀ i r, all i → spAnswers s = true → spCached d s = some r → ∃ t, exec i.2 s = .next t ∧ t.out = s.out ++ [.datagram d.from_ r.op r.status r.seq r.data] ∧
      liveF t pSp 0x808 15 0 = Nat.min 0xFFFF (liveF s pSp 0x808 15 0 + 1) ∧ t.sp = s.sp ∧ t.boot = s.boot) ∧
    (∀ i, all i → spAnswers s = true → spCached d s = none → spOpen d s = true → ∃ t, exec i.2 s = .next t ∧ t = s) ∧
    (∀ i, all i → spAnswers s = true → spCached d s = none → spOpen d s = false → 64 ≤ spOutstanding d s → ∃ t, exec i.2 s = .next t ∧
      t = spRespond d.from_ i.1 E.updProtocol d.seq.toNat [] s) ∧
    (∀ dst op c seq l, let t := spRespond dst op c seq l s
      t.out = s.out ++ [.datagram dst op c seq l] ∧ (mget [] t.sp.cache dst).head? = some ⟨seq, op, c, l⟩ ∧
      t.sp.waiting = s.sp.waiting.filter (fun w => !(w.1 == dst && w.2.1 == seq)) ∧ t.sp.session = s.sp.session ∧ t.sp.staging = s.sp.staging ∧ t.boot = s.boot) ∧
    (fresh → s.sp.session = none → answers (.spHello d true) 1 fun c l u => c = 0 ∧ l.length = 24 ∧ u.sp.session = some s.sp.nextSession) ∧
    (fresh → s.sp.session ≠ none → answers (.spHello d true) 1 fun c l u => c = E.updProtocol ∧ l = [] ∧ u = u0) ∧
    (fresh → answers (.spHello d false) 1 fun c l u => c = 0 ∧ l.length = 24 ∧ u.sp.session = s.sp.session) ∧
    (∀ now (mo pg off : BitVec 16) v, fresh → regArgs mo.toNat pg.toNat off.toNat = false →
      (answers (.spRegRd d mo pg off) 2 fun c _ u => same c E.updProtocol u) ∧ answers (.spRegWr now d mo pg off v) 3 fun c _ u => same c E.updProtocol u) ∧
    (∀ now (mo pg off : BitVec 16) v, fresh → regArgs mo.toNat pg.toNat off.toNat = true → mo.toNat = ownModule s →
      (answers (.spRegRd d mo pg off) 2 fun c l u => c = 0 ∧ l = leBytes 4 (regRead 2 pg.toNat off.toNat .w32 u0).1.toNat ∧ u = (regRead 2 pg.toNat off.toNat .w32 u0).2) ∧
      answers (.spRegWr now d mo pg off v) 3 fun c l u => c = 0 ∧ l = [] ∧ u = regWrite now .service pg.toNat off.toNat .w32 (v.setWidth 64) u0) ∧
    (∀ now (mo pg off : BitVec 16) v, fresh → regArgs mo.toNat pg.toNat off.toNat = true → mo.toNat ≠ ownModule s → off.toNat % 4 ≠ 0 →
      (answers (.spRegRd d mo pg off) 2 fun c _ u => same c E.updProtocol u) ∧ answers (.spRegWr now d mo pg off v) 3 fun c _ u => same c E.updProtocol u) ∧
    (∀ now (mo pg off : BitVec 16) v, fresh → regArgs mo.toNat pg.toNat off.toNat = true → mo.toNat ≠ ownModule s → off.toNat % 4 = 0 → joined s = false →
      (answers (.spRegRd d mo pg off) 2 fun c _ u => c = E.unmapped ∧ u.sp = u0.sp) ∧ answers (.spRegWr now d mo pg off v) 3 fun c _ u => c = E.unmapped ∧ u.sp = u0.sp) ∧
    (∀ now (mo pg off : BitVec 16) v l, fresh → regArgs mo.toNat pg.toNat off.toNat = true → mo.toNat ≠ ownModule s → off.toNat % 4 = 0 → joined s = true →
      routeFor s 8 mo.toNat = .link l → linkUp s l = true → mget [] s.linkIn (homeLink s 0) = [] → outstanding s (homeLink s 0) < 1024 →
      (∃ t q, exec (.spRegRd d mo pg off) s = .next t ∧ t.clReqs = s.clReqs ++ [q] ∧ q.origin = .spReg d.from_ 2 d.seq.toNat ∧ q.module = mo.toNat ∧ q.link = l ∧ t.sp = u0.sp) ∧
      ∃ t q, exec (.spRegWr now d mo pg off v) s = .next t ∧ t.clReqs = s.clReqs ++ [q] ∧ q.origin = .spReg d.from_ 3 d.seq.toNat ∧ q.module = mo.toNat ∧ q.link = l ∧ t.sp = u0.sp) ∧
    (∀ (g : Byte) (len : Word), fresh → inSession d s = false ∨ (4 < g.toNat ∧ g.toNat ≠ 8) ∨ (g.toNat < 5 ∧ (compAt s g.toNat).inactive = 3 ∧ len.toNat ≤ stageRoom g.toNat) →
      answers (.stageBegin d g len) 0x10 fun c _ u => same c E.updProtocol u) ∧
    (∀ (g : Byte) (len : Word), fresh → inSession d s = true → g.toNat < 5 ∨ g.toNat = 8 → stageRoom g.toNat < len.toNat → len ≠ 0xFFFFFFFF → answers (.stageBegin d g len) 0x10 fun c _ u => same c E.sizeOverrun u) ∧
    (∀ (g : Byte), fresh → inSession d s = true → g.toNat < 5 ∨ g.toNat = 8 → answers (.stageBegin d g 0xFFFFFFFF) 0x10 fun c _ u => same c E.reservedValue u) ∧
    (∀ (g : Byte), fresh → inSession d s = true → (g.toNat < 5 ∧ (compAt s g.toNat).inactive ≠ 3) ∨ g.toNat = 8 → answers (.stageBegin d g 0) 0x10 fun c _ u => same c 0 u) ∧
    (∀ (g : Byte) (len : Word), fresh → inSession d s = true → g.toNat < 5 → len ≠ 0 → len.toNat ≤ stageRoom g.toNat → (compAt s g.toNat).inactive ≠ 3 →
      answers (.stageBegin d g len) 0x10 fun c _ u => c = 0 ∧ u.sp.staging = some ⟨g.toNat, len.toNat, []⟩ ∧ (compAt u g.toNat).inactive = 1 ∧
        bankImg (compAt u g.toNat) (1 - (compAt s g.toNat).runBank) = [] ∧ (compAt u g.toNat).runBank = (compAt s g.toNat).runBank) ∧
    (∀ (off : Word) l ok, fresh → s.sp.staging = none ∨ inSession d s = false ∨ off.toNat % 1024 ≠ 0 ∨ 1024 < l.length → answers (.stageData d off l ok) 0x11 fun c _ u => same c E.updProtocol u) ∧
    (∀ (off : Word) l ok g, fresh → s.sp.staging = some g → inSession d s = true → off.toNat % 1024 = 0 → l.length ≤ 1024 → g.len < off.toNat + l.length →
      answers (.stageData d off l ok) 0x11 fun c _ u => same c E.lenOverrun u) ∧
    (∀ (off : Word) l ok g, fresh → s.sp.staging = some g → inSession d s = true → off.toNat % 1024 = 0 → l.length ≤ 1024 → off.toNat + l.length ≤ g.len → ok = true ∨ 5 ≤ g.target →
      answers (.stageData d off l ok) 0x11 fun c _ u => c = 0 ∧ ∃ x, u.sp.staging = some x ∧ x.target = g.target ∧ x.len = g.len ∧ (mget [] x.chunks (off.toNat / 1024)).take l.length = l ∧
        ∀ k, k ≠ off.toNat / 1024 → mget [] x.chunks k = mget [] g.chunks k) ∧
    (∀ (off : Word) l g, fresh → s.sp.staging = some g → inSession d s = true → off.toNat % 1024 = 0 → l.length ≤ 1024 → off.toNat + l.length ≤ g.len → g.target < 5 →
      answers (.stageData d off l false) 0x11 fun c _ u => c = E.flashWriteFail ∧ u.sp.staging = none ∧ errValid u pFlash = true ∧ (compAt u g.target).inactive = 0) ∧
    (∀ dg ok, fresh → s.sp.staging = none ∨ inSession d s = false → answers (.stageEnd d dg ok) 0x12 fun c _ u => same c E.updProtocol u) ∧
    (∀ dg ok g, fresh → s.sp.staging = some g → inSession d s = true → (stagedBytes g = none ∨ ∃ l, stagedBytes g = some l ∧ sha256 l ≠ dg) →
      answers (.stageEnd d dg ok) 0x12 fun c _ u => c = E.updProtocol ∧ u.sp.staging = none ∧ (g.target < 5 → (compAt u g.target).inactive = 0)) ∧
    (∀ g l, fresh → s.sp.staging = some g → inSession d s = true → stagedBytes g = some l → g.target < 5 → answers (.stageEnd d (sha256 l) true) 0x12 fun c _ u =>
      c = 0 ∧ u.sp.staging = none ∧ (compAt u g.target).inactive = 2 ∧ bankImg (compAt u g.target) (1 - (compAt s g.target).runBank) = l) ∧
    (∀ g l, fresh → s.sp.staging = some g → inSession d s = true → stagedBytes g = some l → g.target = 8 → submitCopy s l = none → answers (.stageEnd d (sha256 l) true) 0x12 fun c _ u =>
      c = E.cfgRecordInvalid ∧ u.sp.staging = none ∧ errValid u pMc = true ∧ u.boot.records = s.boot.records) ∧
    (∀ c u, fresh → s.boot.serviceReady = false → (answers (.spActivate d c) 0x13 fun k _ v => same k E.updProtocol v) ∧ answers (.spRestart d c u) 0x14 fun k _ v => same k E.updProtocol v) ∧
    (∀ (c u : Byte), fresh → s.boot.serviceReady = true → (answers (.spActivate d c) 0x13 fun k _ v => k = (fwActivate c.toNat u0).1 ∧ v = (fwActivate c.toNat u0).2) ∧
      answers (.spRestart d c u) 0x14 fun k _ v => k = (fwRestart c.toNat u.toNat u0).1 ∧ v = (fwRestart c.toNat u.toNat u0).2) ∧
    (∀ (ty sl : Byte) (off : Word), fresh → ty.toNat = 0 ∨ 7 < ty.toNat ∨ 1 < sl.toNat → answers (.recordRead d ty sl off) 0x20 fun c l u => same c E.updProtocol u ∧ l = []) ∧
    (∀ (ty sl : Byte) (off : Word), fresh → 1 ≤ ty.toNat → ty.toNat ≤ 7 → sl.toNat ≤ 1 → answers (.recordRead d ty sl off) 0x20 fun c l u =>
      same c 0 u ∧ l = bytesAt (recCopy s ty.toNat sl.toNat) off.toNat 1024 ∧ l.length ≤ 1024) ∧
    (∃ t, exec (.spSessionTimeout) s = .next t ∧ t.sp.session = none ∧ t.sp.staging = none ∧ (∀ g, s.sp.staging = some g → g.target < 5 → (compAt t g.target).inactive = 0) ∧
      (s.sp.staging = none → t.boot = s.boot)) ∧
    (∀ up, ∃ t, exec (.servicePortLink up) s = .next t ∧ t = { s with sp := { s.sp with up := up } }) ∧
    (∀ gl r, spAnswers s = true → gl = false ∨ liveF s pSp 0x50 31 31 = 1 → ∃ t, exec (.icmpv6Request gl r) s = .next t ∧ t = { s with out := s.out ++ [.icmp gl r] }) ∧
    (∀ gl r, spAnswers s = false ∨ (gl = true ∧ liveF s pSp 0x50 31 31 ≠ 1) → ∃ t, exec (.icmpv6Request gl r) s = .next t ∧ t = s) ∧
    (∀ w op, spAnswers s = false → ∃ t, exec (.malformedDatagram d w op) s = .next t ∧ t = s) ∧
    (∀ w op, spAnswers s = true → w = .oversized ∨ w = .fragmented → ∃ t, exec (.malformedDatagram d w op) s = .next t ∧ t.out = s.out ∧ t.sp = s.sp ∧
      liveF t pSp 0x804 15 0 = Nat.min 0xFFFF (liveF s pSp 0x804 15 0 + 1)) ∧
    (∀ w op, spAnswers s = true → w = .header ∨ w = .unknownOp → spCached d s = none → ∃ t, exec (.malformedDatagram d w op) s = .next t ∧
      t = spRespond d.from_ op.toNat E.updProtocol d.seq.toNat [] s)

/-- After reset registers, states and factors hold the reset values that the register tables and rules give them (R57, R201, R233, R250, R255, R310, R333, R400, R429, R461, R463, R479). -/
def Obligations.ResetLeavesWhatTheSpecStates : Prop :=
  let r := State.reset
  let reads : List (BitVec 14 × BitVec 12 × Nat) := [(0x10, 0x40, 0x100), (0x1A, 0x340, 0x40), (0x1A, 0x820, 0xFFFF), (0x21, 0x40, 0xF), (0x28, 0x68, 0x100),
    (0x38, 0x40, 0x14A), (0x38, 0x44, 0x40258), (0x38, 0x48, 0x410400), (0x38, 0x4C, 0x7D73695F), (0x38, 0x60, 0x14A), (0x3C, 0x80C, 0x8000),
    (0x702, 0x804, 0xFFFFFFFF), (0x702, 0x808, 0xFFFFFFFF), (0x703, 0x44, 0x7D0), (0x600, 0x828, 0x4000)]
  let fieldRegs : List (Nat × Nat × Nat) := [(9, 0x40, 8), (11, 0x40, 0x600), (11, 0x44, 0x100), (11, 0x60, 0x780), (11, 0x68, 0x780), (12, 0x40, 14), (2, 0x40, 0x258)]
  (∀ q ∈ reads, ∃ t, exec (.rcRead .mc q.1 q.2.1 .w32) r = .next t ∧ mget 0 t.busOut 0 = BitVec.ofNat 64 q.2.2) ∧
  (∀ f < 80, ∀ q ∈ fieldRegs, live r (fieldPage f q.1) q.2.1 = BitVec.ofNat 32 q.2.2 ∧ shadow r (fieldPage f q.1) q.2.1 = BitVec.ofNat 32 q.2.2) ∧
  (∀ f < 80, fieldSt r f = .dark) ∧ (∀ c t, (threadAt (coreAt r c) t).st = .stopped) ∧ (∀ g < 64, grp r g = groupReset ∧ (grp r g).st = .free) ∧
  (∀ n < 8, (linkAt r n).st = .down) ∧ (∀ h, (sessionAt r h).st = .closed) ∧ (∀ m < 64, modelState r m = 0) ∧
  (∀ n, (streamAt r n).st = .free) ∧ (∀ n < 164, (convAt r n).ofs = 0 ∧ (convAt r n).gain = 0x8000) ∧
  r.beat.mode = .idle ∧ r.beat.now = 0 ∧ r.host.up = false ∧ r.sec.bucket = 256

/-- Beat c lies in the future at beat b exactly when (c − b) mod 2^48 is 1 to 2^47 − 1; a group armed for a passed beat ends LATE (R35) (R35). -/
def Obligations.BeatsAreComparedModulo : Prop :=
  (∀ c b : Beat, inFuture c b = true ↔ 1 ≤ (c.toNat + 2 ^ 48 - b.toNat) % 2 ^ 48 ∧ (c.toNat + 2 ^ 48 - b.toNat) % 2 ^ 48 ≤ 2 ^ 47 - 1) ∧
  (∀ b : Beat, inFuture b b = false) ∧
  ∀ (m : Master) (s : State),
    let g := (sel s m).1
    let d := ((grp s g).commit.toNat + 2 ^ 48 - s.beat.now.toNat) % 2 ^ 48
    reaches m s = true → (grp s g).st = .opened → ¬ (1 ≤ d ∧ d ≤ 2 ^ 47 - 1) →
      ∃ t, exec (.txnArm m) s = .next t ∧ (grp t g).st = .done ∧ (grp t g).res = .late ∧ (grp t g).code = E.late

/-- The bucket of a position is the smallest k whose upper bound lies above it, with the bounds of R325 (R325). -/
def Obligations.BucketsOfPositions : Prop :=
  let bounds := [128, 512, 2048, 8192, 32768, 131072, 524288, 1048576]
  ∀ p < 1048576, ∃ b, bounds[bucket p]? = some b ∧ p < b ∧ bucketBound p = b ∧ ∀ (k c : Nat), k < bucket p → bounds[k]? = some c → c ≤ p

/-- While a page is enrolled in a validating, armed or irrevocable group, writes to its configuration area and BLK_TXN are discarded and recorded (R54, R57) (R54, R57, R49, R56). -/
def Obligations.LockedPagesDiscardWrites : Prop :=
  ∀ (now : Nat) (m : Master) (page : BitVec 14) (s : State) (g : Nat),
    let p := page.toNat
    let recorded := fun (c : Code) (twice : Bool) (r : Host.Outcome State Fault Refusal) => ∃ t, r = .next t ∧ t.shadow = s.shadow ∧ t.groups = s.groups ∧ t.cores = s.cores ∧
      live t p 0x18 = live s p 0x18 ∧
      (errValid s p = false → live t p 0x10 = BitVec.ofNat 32 (2 ^ 31 + (if twice then 2 ^ 30 else 0) + c.toNat)) ∧
      (errValid s p = true → live t p 0x10 = live s p 0x10 ||| 0x40000000 ∧ live t p 0x14 = live s p 0x14)
    let locked := recorded E.txnShadowLocked
    let busy := recorded E.txnPageBusy false
    reaches m s = true → p ≠ 0xC → pageAssigned p = true → pageDark s p = false → pageGroup s p = some g →
    (grp s g).st = .validating ∨ (grp s g).st = .armed ∨ (grp s g).st = .irrevocable →
    (∀ (off : BitVec 12) (v : BitVec 64), off.toNat % 4 = 0 → 0x40 ≤ off.toNat → off.toNat < 0x400 → (regAt p off.toNat).isSome = true →
      locked false (exec (.registerWrite now m page off .w32 v) s)) ∧
    (∀ (off : BitVec 12) (v : BitVec 64), off.toNat % 8 = 0 → 0x40 ≤ off.toNat → off.toNat < 0x400 → (regAt p off.toNat).isSome = true →
      (regAt p (off.toNat + 4)).isSome = true → locked true (exec (.registerWrite now m page off .w64 v) s)) ∧
    (∀ (v : BitVec 64) r, regAt p 0x18 = some r → BitVec.ofNat 32 v.toNat &&& reservedMask r = 0 →
      if v.getLsbD 31 then busy (exec (.registerWrite now m page 0x18 .w32 v) s) else locked false (exec (.registerWrite now m page 0x18 .w32 v) s)) ∧
    ∀ k, busy (exec (.blkTxnEnrol m page k) s) ∧ locked false (exec (.blkTxnWithdraw m page k) s)

/-- ARM, ABORT, RELEASE and a write of TXN_COMMIT_BEAT in a state that does not accept them are discarded and record TXN_GROUP_STATE (R64) (R64). -/
def Obligations.GroupsRefuseWrongStates : Prop :=
  ∀ (now : Nat) (m : Master) (s : State),
    let x := grp s (sel s m).1
    let w := fun (off : BitVec 12) (v : BitVec 64) => exec (.registerWrite now m 0xC off .w32 v) s
    let refused := fun (r : Host.Outcome State Fault Refusal) => ∃ t, r = .next t ∧ t.groups = s.groups ∧ t.groupSel = s.groupSel ∧ t.shadow = s.shadow ∧
      t.cores = s.cores ∧
      (errValid s 0xC = false → live t 0xC 0x10 = BitVec.ofNat 32 (2 ^ 31 + E.txnGroupState.toNat)) ∧
      (errValid s 0xC = true → live t 0xC 0x10 = live s 0xC 0x10 ||| 0x40000000 ∧ live t 0xC 0x14 = live s 0xC 0x14)
    reaches m s = true →
    (x.st ≠ .opened → refused (exec (.txnArm m) s) ∧ refused (exec (.txnArmNow m) s) ∧ (∀ v : BitVec 64, refused (w 0x808 v)) ∧
      ∀ v : BitVec 64, v.toNat % 2 ^ 32 < 2 ^ 16 → refused (w 0x80C v)) ∧
    (x.st ≠ .opened → x.st ≠ .armed → refused (exec (.txnAbort m) s)) ∧
    (x.st ≠ .done → refused (exec (.txnRelease m) s)) ∧
    w 0x810 1 = exec (.txnArm m) s ∧ w 0x810 3 = exec (.txnArmNow m) s ∧ w 0x814 1 = exec (.txnAbort m) s ∧ w 0x818 1 = exec (.txnRelease m) s

/-- UNBIND of a dynamic handle sets VALID to 0, of an invalid one changes no handle, and of a placed handle is rejected with HANDLE_KIND (R85) (R85). -/
def Obligations.UnbindInvalidatesDynamicHandles : Prop :=
  ∀ (i : Issue) (s q : State) (k : Iss),
    let h := fw k 55 50
    Offered 0x49 i s k q →
    (48 ≤ h → ∃ t, exec (.unbind i) s = .next t ∧ (hview (coreAt t k.c) h).valid = false ∧
      hview (coreAt t k.c) h = { hview (coreAt q k.c) h with valid := false } ∧
      (∀ j, j ≠ h → hview (coreAt t k.c) j = hview (coreAt q k.c) j) ∧
      ((hview (coreAt q k.c) h).valid = false → ∀ j, hview (coreAt t k.c) j = hview (coreAt q k.c) j) ∧
      threadAt (coreAt t k.c) k.t = { threadAt (coreAt q k.c) k.t with pc := k.pc + 8 } ∧ t.mem = q.mem ∧ t.stackMem = q.stackMem) ∧
    (h < 48 → exec (.unbind i) s = .next (faultThread k.c k.t E.handleKind q) ∧
      ∀ j, hview (coreAt (faultThread k.c k.t E.handleKind q) k.c) j = hview (coreAt q k.c) j)

/-- Every result is code = min(4,095, max(0, round((raw − OFS) × GAIN / 2^15))), to nearest with ties to even; at reset OFS is 0 and GAIN 1.0 (R469) (R469). -/
def Obligations.ResultsAreCalibrated : Prop :=
  (∀ (raw : Nat) (ofs : BitVec 8) (gain : BitVec 16), ∃ r : Int,
    let num : Int := ((raw : Int) - ofs.toInt) * gain.toNat
    2 * num - 2 ^ 15 ≤ r * 2 ^ 16 ∧ r * 2 ^ 16 ≤ 2 * num + 2 ^ 15 ∧
    (r * 2 ^ 16 = 2 * num - 2 ^ 15 ∨ r * 2 ^ 16 = 2 * num + 2 ^ 15 → r % 2 = 0) ∧ (calibrate raw ofs gain : Int) = min 4095 (max 0 r)) ∧
  (∀ n, (convAt State.reset n).ofs = 0 ∧ (convAt State.reset n).gain = 0x8000) ∧
  ∀ (s : State) (m : Fin 164) (raw : BitVec 12) (now k : Nat),
    let n := m.val
    let y := convAt s n
    let p := partner n
    let code := calibrate raw.toNat y.ofs y.gain
    let writes := fun (q off : Nat) => ∃ t, exec (.conversionDone m raw now) s = .next t ∧ liveF t (pTel q) off 11 0 = code
    convDark s n = false → k < 16 →
    (y.job = .regular k → seqInput s n k ≠ 15 → inputReserved n (seqInput s n k) = false → writes n (0x840 + 4 * k)) ∧
    (y.job = .regularFor k → seqInput s p k ≠ 15 → inputReserved p (seqInput s p k) = false → writes p (0x840 + 4 * k)) ∧
    (y.job = .injected k → k < 4 → inputReserved n (injInput s n k) = false → writes n (0x880 + 4 * k)) ∧
    (y.job = .injectedFor k → k < 4 → inputReserved p (injInput s p k) = false → writes p (0x880 + 4 * k))

/-- A lost slot is bound to the free enabled core nearest in hops, the lowest ID on a tie; a slot that can still serve keeps its core (R490) (R490, R10, R11, R18). -/
def Obligations.SlotsRebindToTheNearestCore : Prop :=
  ∀ (s : State) (m : Nat) (taken : List Nat),
    let gone := coreGone s m
    let free := (freeEverywhere s m).filter fun k => !taken.contains k
    (∀ k ∈ freeEverywhere s m, fieldOfCore k ∉ barredFields s m (draftsTo s m) ∧ coreEnabled s k = true ∧ fieldSt s (fieldOfCore k) = .on ∧ mfind s.owner k = none ∧ fieldOfCore k < 80 ∧ k % 4096 < 3840) ∧
    (∀ c, nearest free c = none → free = []) ∧
    (∀ c k, nearest free c = some k → k ∈ free ∧ ∀ j ∈ free, hops c k ≤ hops c j ∧ (hops c k = hops c j → k ≤ j)) ∧
    (∀ (cs l rest : List Nat), (∀ c ∈ cs, c ∉ free) → rebindSlots gone free cs = some (l, rest) → l.length = cs.length ∧ (∀ k ∈ rest, k ∈ free ∧ k ∉ l) ∧
      (l.filter fun k => free.contains k).Nodup ∧ ∀ (i c k : Nat), cs[i]? = some c → l[i]? = some k → if gone c then k ∈ free else k = c) ∧
    (∀ cs : List Nat, rebindSlots gone free cs = none → free.length < (cs.filter fun c => gone c).length)

/-- Every W4F code has the value that R161 gives it, in units of one half (R161). -/
def Obligations.W4fCodesHaveTheirValues : Prop :=
  fmtExp .w4f = -1 ∧ codeInt .w4f 8 = 0 ∧ ∀ c < 16, codeNaN .w4f c = false ∧
    let S := c / 8
    let E := c / 2 % 4
    let M := c % 2
    codeInt .w4f c = (-1) ^ S * (if E = 0 then M else (2 + M) * 2 ^ (E - 1) : Int)

/-- The frame of the commands that stay within few units: everything outside the parts that the definition names is unchanged (R57, R77, R139, R228, R254, R309, R366, R375, R428, R471, R517). -/
def Obligations.CommandsChangeOnlyTheirUnits : Prop :=
  ∀ (i : Instr) (s t : State) r, giveBack s i = some r → exec i s = .next t → r t = s ∧ t.pending = s.pending

/-- The checksum row and column of a pass agree on correct cells and catch any error in one cell, and ARRAY_PASS_CHECK acts on that (R152, R153). -/
def Obligations.ChecksumCellsCatchOneError : Prop :=
  ∀ (p : PassRows), p.1.length = 32 → p.2.length = 32 → (∀ r ∈ p.1, r.length = 32) → (∀ r ∈ p.2, r.length = 32) →
    cellsAgree (passCells p) = true ∧ passSums (passCells p) = tileDot p.1 p.2 ∧
    (∀ e : CellError, e.delta ≠ 0 → cellsAgree (cellsWith [e] (passCells p)) = false) ∧
    ∀ (c : CoreRef) (s : State) (u : UnitEntry), fieldOn s (coreId c) = true → checkDue (coreAt s (coreId c)) = some u →
      (arrayRows u)[u.checked]? = some p →
      (∃ t v, exec (.arrayPassCheck c []) s = .next t ∧ v ∈ (coreAt t (coreId c)).units ∧ v.id = u.id ∧ v.checked = u.checked + 1 ∧
        v.sums = u.sums ++ [tileDot p.1 p.2]) ∧
      ∀ e : CellError, e.delta ≠ 0 → u.again = false →
        ∃ t v, exec (.arrayPassCheck c [e]) s = .next t ∧ (coreAt t (coreId c)).units.getLast? = some v ∧ v.id = u.id ∧ v.again = true ∧
          v.checked = 0 ∧ v.sums = []

/-- Every unit event, every command of the core access window and every channel command completes with its own effect (R75, R100, R104, R119, R143, R148, R149, R173, R229, R230, R231, R232). -/
def Obligations.CoreEventsWindowAndChannelsComplete : Prop :=
  (∀ (c : CoreRef) (s : State) (u : UnitEntry),
    let n := coreId c
    let x := coreAt s n
    let has := fun (ph : UPhase) (t : State) => ∃ v ∈ (coreAt t n).units, v.id = u.id ∧ v.phase = ph
    let gone := fun (t : State) => ∀ v ∈ (coreAt t n).units, v.id ≠ u.id
    fieldOn s n = true → s.badParity = [] →
    (unitIn x .mv .running = some u → u.srcs.any (·.stack) = false → ∃ t, exec (.mvdStreamEnd c []) s = .next t ∧ has .formed t) ∧
    (unitIn x .mv .formed = some u → ∃ t, exec (.mvdResult c) s = .next t ∧ gone t) ∧
    (unitIn x .array .running = some u → ∃ t, exec (.arrayStagingDone c []) s = .next t ∧ (has .staged t ∨ has .streaming t)) ∧
    (unitIn x .array .streaming = some u → ∃ t, exec (.arrayStreamEnd c) s = .next t ∧ has .formed t) ∧
    ((x.units.find? fun u => u.kind == .array && u.phase == .formed && u.checked == arrayPasses u.word) = some u →
      ∃ t, exec (.arrayDrainDone c []) s = .next t ∧ gone t) ∧
    (unitIn x .edge .running = some u → ∃ t, exec (.edgeOccupancyEnd c []) s = .next t ∧ has .formed t) ∧
    (unitIn x .edge .formed = some u → u.dst.any (·.stack) = false → ∃ t, exec (.edgeResultReady c []) s = .next t ∧ gone t) ∧
    ((x.units.any fun u => u.kind == .array && u.phase != .stuck) = false → (unitsOf s (fieldOfCore n)).quotaQ = [] →
      ∃ t, exec (.hqPermitRelease c) s = .next t ∧ n ∉ (unitsOf t (fieldOfCore n)).permits)) ∧
  (∀ (m : Master) (f : Fin 80) (s : State),
    let p := pCaw f.val
    let x := coreAt s (cawCore s f.val)
    let i := liveF s p 0x804 13 0
    reaches m s = true → pageDark s p = false → cawRefused s f.val = none →
    (∀ w, liveF s p 0x804 15 14 = 0 → coreReg x i = some w →
      ∃ t, exec (.cawRead m f) s = .next t ∧ live t p 0x814 = 0 ∧ (live t p 0x808).toNat = w.toNat % 2 ^ 32) ∧
    (liveF s p 0x804 15 14 = 1 → i = 0x80 → sealedCore s m (cawCore s f.val) = false → pageLocked s p = false →
      ∃ t, exec (.cawWrite m f) s = .next t ∧ live t p 0x814 = 0 ∧ shadowReg (coreAt t (cawCore s f.val)) 0x80 = cawData s f.val) ∧
    (pageLocked s p = false → ∃ t, exec (.cawDiscard m f) s = .next t ∧ (coreAt t (cawCore s f.val)).dirty = false)) ∧
  (∀ (m : Master) (r : CoreRef) (mask : BitVec 16) (j : Fin 16) (h : Fin 64) (s : State),
    let n := coreId r
    let th := fun (t : State) => threadAt (coreAt t n) j.val
    let v := hview (coreAt s n) h.val
    reaches m s = true → pageDark s (pCaw r.field.val) = false → coreEnabled s n = true →
    (mask.getLsbD j.val = true → (th s).st = .stopped → ∃ t, exec (.threadStart m r mask) s = .next t ∧ (th t).st = .ready) ∧
    (mask.getLsbD j.val = true → (th s).st = .ready → ∃ t, exec (.threadStop m r mask) s = .next t ∧ (th t).st = .stopped) ∧
    (∃ t, exec (.coreReset m r) s = .next t ∧ th t = .reset) ∧
    (sealedCore s m n = false → v.valid = true → v.tagged = true →
      ∃ t, exec (.tagInit m r h true) s = .next t ∧ allFull (coreAt t n) (hrng v 0 v.ext) = true)) ∧
  (∀ (m : Master) (n : Fin 24) (ch : Fin 16) (s : State),
    let c := chanAt (stackAt s n.val) ch.val
    let after := fun (t : State) => chanAt (stackAt t n.val) ch.val
    reaches m s = true → pageDark s (stackPage n.val 1) = false →
    (¬ (ch.val = 15 ∧ mcUses s n.val = true) → c.st = .idle → ∃ t, exec (.chStart m n ch) s = .next t ∧ (after t).st = .running) ∧
    (c.st = .running → c.segs = [] → ∃ t, exec (.chAbort m n ch) s = .next t ∧ (after t).st = .idle)) ∧
  (∀ (n : Fin 24) (ch : Fin 16) (s : State),
    let c := chanAt (stackAt s n.val) ch.val
    let after := fun (t : State) => chanAt (stackAt t n.val) ch.val
    stackRuns s n.val = true →
    (∀ l, c.st = .running → c.desc = none → c.aborting = false → 32 * c.cur + 32 ≤ stackUsed →
      behind s n.val (stackAddr n.val (32 * c.cur)) 32 = false → stackRead n.val (32 * c.cur) 32 false [] s = (.ok l, s) →
      chDescCheck s n.val (chDescOf l).1 (chDescOf l).2 = none →
      exec (.chDescFetch n ch []) s = .next (beginDesc n.val ch.val (chDescOf l).1 [] s)) ∧
    (∀ d e, c.st = .waiting → c.desc = some d → c.refused = false → c.woken = some e → e ≠ c.lastEpoch →
      exec (.chWaitRelease n ch []) s = .next (runDesc n.val ch.val [] (updChan n.val ch.val (fun y => { y with lastEpoch := e, st := .running })
        (updChan n.val ch.val (fun y => { y with woken := none }) s)))) ∧
    (c.st = .stalled → exec (.chPoolSpace n ch []) s = .next (runDesc n.val ch.val [] s)) ∧
    (∀ g, c.st = .stalled → c.segs.find? (·.id == g.id) = some g → g.data = [] → g.left = 0 →
      ∃ t, exec (.chSegmentDone n ch g.id []) s = .next t ∧ (after t).segs = c.segs.filter (·.id != g.id)) ∧
    (∀ d, c.st = .running → c.aborting = false → c.desc = some d → c.failed = none → c.segs = [] → d.len ≤ c.started →
      ∃ t, exec (.chDescEnd n ch) s = .next t ∧ (after t).desc = none ∧ (after t).done = c.done + 1))

/-- While Memory Space Enable is 0 or in D3hot, no access of the host reaches the register window (R357). -/
def Obligations.HostAccessesNeedMemorySpace : Prop :=
  ∀ (i : Instr) (s : State), barMaster i = some .host → s.host.memSpace = false →
    exec i s = .next (unsupportedReq s) ∧ (unsupportedReq s).out = s.out ++ [.unsupported] ∧ (unsupportedReq s).live = s.live ∧
      (unsupportedReq s).shadow = s.shadow ∧ (unsupportedReq s).cores = s.cores ∧ (unsupportedReq s).mem = s.mem ∧ (unsupportedReq s).groups = s.groups
end

