-- ==== Sys2Proof/Laws/Maps.lean ====
section
/-! SUPPORT. Sparse maps: reading after writing, and the canonical form. -/

namespace Sys2Proof.Machine

open Sys2Proof

variable {α : Type}

/-! ### Reading after writing -/

@[simp] theorem mfind_nil (k : Nat) : mfind ([] : Map α) k = none := rfl

theorem mfind_mput (m : Map α) (k j : Nat) (v : α) : mfind (mput m k v) j = if k = j then some v else mfind m j := by
  induction m with
  | nil => simp [mput, mfind]
  | cons e m ih =>
    obtain ⟨a, w⟩ := e
    simp only [mput]
    split
    · simp [mfind]
    · split
      · rename_i h
        subst h
        by_cases g : a = j <;> simp [mfind, g]
      · simp only [mfind, ih]
        by_cases h : a = j
        · have : k ≠ j := by omega
          simp [h, this]
        · simp [h]

theorem mfind_mdel (m : Map α) (k j : Nat) : mfind (mdel m k) j = if k = j then none else mfind m j := by
  induction m with
  | nil => simp [mdel, mfind]
  | cons e m ih =>
    obtain ⟨a, w⟩ := e
    by_cases h : a = k <;> by_cases g : a = j <;> simp_all [mdel, mfind]
    omega

theorem mget_mset [DecidableEq α] (d : α) (m : Map α) (k j : Nat) (v : α) :
    mget d (mset d m k v) j = if k = j then v else mget d m j := by
  unfold mset mget
  split
  · rw [mfind_mdel]; split <;> simp_all
  · rw [mfind_mput]; split <;> simp_all

@[simp] theorem mget_mset_same [DecidableEq α] (d : α) (m : Map α) (k : Nat) (v : α) : mget d (mset d m k v) k = v := by
  simp [mget_mset]

theorem mget_mset_ne [DecidableEq α] (d : α) (m : Map α) {k j : Nat} (v : α) (h : k ≠ j) :
    mget d (mset d m k v) j = mget d m j := by
  simp [mget_mset, h]

theorem mfind_mset [DecidableEq α] (d : α) (m : Map α) (k j : Nat) (v : α) :
    mfind (mset d m k v) j = if k = j then (if v = d then none else some v) else mfind m j := by
  unfold mset
  split
  · rw [mfind_mdel]
  · rw [mfind_mput]

/-! ### Rising keys -/

/-- Every key of a map is above a number. -/
def above (b : Nat) : Map α → Prop
  | [] => True
  | (k, _) :: m => b < k ∧ above b m

theorem above_mono {a b : Nat} {m : Map α} (h : above b m) (g : a ≤ b) : above a m := by
  induction m with
  | nil => trivial
  | cons e m ih => obtain ⟨k, v⟩ := e; exact ⟨by have := h.1; omega, ih h.2⟩

theorem rising_cons (k : Nat) (v : α) (m : Map α) : rising ((k, v) :: m) = true ↔ above k m ∧ rising m = true := by
  induction m generalizing k v with
  | nil => simp [rising, above]
  | cons e m ih =>
    obtain ⟨j, w⟩ := e
    simp only [rising, Bool.and_eq_true, decide_eq_true_eq, above]
    constructor
    · intro h
      exact ⟨⟨h.1, above_mono ((ih j w).1 h.2).1 (by omega)⟩, h.2⟩
    · intro h
      exact ⟨h.1.1, h.2⟩

theorem above_mput {b k : Nat} {v : α} {m : Map α} (h : above b m) (g : b < k) : above b (mput m k v) := by
  induction m with
  | nil => exact ⟨g, trivial⟩
  | cons e m ih =>
    obtain ⟨j, w⟩ := e
    simp only [mput]
    split
    · exact ⟨g, h⟩
    · split
      · exact ⟨g, h.2⟩
      · exact ⟨h.1, ih h.2⟩

theorem above_mdel {b k : Nat} {m : Map α} (h : above b m) : above b (mdel m k) := by
  induction m with
  | nil => trivial
  | cons e m ih =>
    obtain ⟨j, w⟩ := e
    simp only [mdel]
    split
    · exact ih h.2
    · exact ⟨h.1, ih h.2⟩

theorem above_mdrop {b : Nat} {p : Nat → Bool} {m : Map α} (h : above b m) : above b (mdrop p m) := by
  induction m with
  | nil => trivial
  | cons e m ih =>
    obtain ⟨j, w⟩ := e
    simp only [mdrop]
    split
    · exact ih h.2
    · exact ⟨h.1, ih h.2⟩

theorem rising_mput {m : Map α} (k : Nat) (v : α) (h : rising m = true) : rising (mput m k v) = true := by
  induction m with
  | nil => rfl
  | cons e m ih =>
    obtain ⟨j, w⟩ := e
    have h' := (rising_cons j w m).1 h
    simp only [mput]
    split
    · rename_i g
      exact (rising_cons ..).2 ⟨⟨g, above_mono h'.1 (by omega)⟩, h⟩
    · split
      · subst_vars; exact (rising_cons ..).2 h'
      · exact (rising_cons ..).2 ⟨above_mput h'.1 (by omega), ih h'.2⟩

theorem rising_mdel {m : Map α} (k : Nat) (h : rising m = true) : rising (mdel m k) = true := by
  induction m with
  | nil => rfl
  | cons e m ih =>
    obtain ⟨j, w⟩ := e
    have h' := (rising_cons j w m).1 h
    simp only [mdel]
    split
    · exact ih h'.2
    · exact (rising_cons ..).2 ⟨above_mdel h'.1, ih h'.2⟩

theorem rising_mset [DecidableEq α] {m : Map α} (d : α) (k : Nat) (v : α) (h : rising m = true) :
    rising (mset d m k v) = true := by
  unfold mset
  split
  · exact rising_mdel k h
  · exact rising_mput k v h

theorem rising_mdrop {m : Map α} (p : Nat → Bool) (h : rising m = true) : rising (mdrop p m) = true := by
  induction m with
  | nil => rfl
  | cons e m ih =>
    obtain ⟨j, w⟩ := e
    have h' := (rising_cons j w m).1 h
    simp only [mdrop]
    split
    · exact ih h'.2
    · exact (rising_cons ..).2 ⟨above_mdrop h'.1, ih h'.2⟩

/-! ### The canonical form: rising keys, and no entry that says what an unlisted key says -/

/-- No entry equals the default. -/
def nodef (d : α) : Map α → Prop
  | [] => True
  | (_, v) :: m => v ≠ d ∧ nodef d m

theorem mwf_iff [DecidableEq α] (d : α) (m : Map α) : mwf (fun _ => d) m = true ↔ rising m = true ∧ nodef d m := by
  induction m with
  | nil => simp [mwf, rising, nodef]
  | cons e m ih =>
    obtain ⟨k, v⟩ := e
    cases m with
    | nil => simp [mwf, rising, nodef]
    | cons f m =>
      obtain ⟨j, w⟩ := f
      simp only [mwf, rising, nodef, Bool.and_eq_true, decide_eq_true_eq] at ih ⊢
      constructor
      · rintro ⟨⟨a, b⟩, c⟩
        exact ⟨⟨a, (ih.1 c).1⟩, b, (ih.1 c).2⟩
      · rintro ⟨⟨a, b⟩, c, e⟩
        exact ⟨⟨a, c⟩, ih.2 ⟨b, e⟩⟩

theorem nodef_mput {d v : α} {m : Map α} (k : Nat) (h : nodef d m) (g : v ≠ d) : nodef d (mput m k v) := by
  induction m with
  | nil => exact ⟨g, trivial⟩
  | cons e m ih =>
    obtain ⟨j, w⟩ := e
    simp only [mput]
    split
    · exact ⟨g, h⟩
    · split
      · exact ⟨g, h.2⟩
      · exact ⟨h.1, ih h.2⟩

theorem nodef_mdel {d : α} {m : Map α} (k : Nat) (h : nodef d m) : nodef d (mdel m k) := by
  induction m with
  | nil => trivial
  | cons e m ih =>
    obtain ⟨j, w⟩ := e
    simp only [mdel]
    split
    · exact ih h.2
    · exact ⟨h.1, ih h.2⟩

theorem nodef_mdrop {d : α} {m : Map α} (p : Nat → Bool) (h : nodef d m) : nodef d (mdrop p m) := by
  induction m with
  | nil => trivial
  | cons e m ih =>
    obtain ⟨j, w⟩ := e
    simp only [mdrop]
    split
    · exact ih h.2
    · exact ⟨h.1, ih h.2⟩

theorem mwf_mset [DecidableEq α] {d : α} {m : Map α} (k : Nat) (v : α) (h : mwf (fun _ => d) m = true) :
    mwf (fun _ => d) (mset d m k v) = true := by
  rw [mwf_iff] at h ⊢
  refine ⟨rising_mset d k v h.1, ?_⟩
  unfold mset
  split
  · exact nodef_mdel k h.2
  · exact nodef_mput k h.2 ‹_›

theorem mwf_mdrop [DecidableEq α] {d : α} {m : Map α} (p : Nat → Bool) (h : mwf (fun _ => d) m = true) :
    mwf (fun _ => d) (mdrop p m) = true := by
  rw [mwf_iff] at h ⊢
  exact ⟨rising_mdrop p h.1, nodef_mdrop p h.2⟩

/-! ### Bytes -/

theorem mwf_writeBytes {m : Map Byte} (a : Nat) (l : List Byte) (h : mwf (fun _ => 0) m = true) :
    mwf (fun _ => 0) (writeBytes m a l) = true := by
  induction l generalizing m a with
  | nil => exact h
  | cons b l ih => exact ih _ (mwf_mset a b h)

/-- A byte outside a written run reads as before. -/
theorem mget_writeBytes_outside (m : Map Byte) (a : Nat) (l : List Byte) (j : Nat) (h : j < a ∨ a + l.length ≤ j) :
    mget 0 (writeBytes m a l) j = mget 0 m j := by
  induction l generalizing m a with
  | nil => rfl
  | cons b l ih =>
    simp only [List.length_cons] at h
    simp only [writeBytes]
    rw [ih _ _ (by omega), mget_mset_ne _ _ _ (by omega)]

/-- A byte of a written run reads as written. -/
theorem mget_writeBytes_inside (m : Map Byte) (a : Nat) (l : List Byte) (i : Nat) (h : i < l.length) :
    mget 0 (writeBytes m a l) (a + i) = l[i] := by
  induction l generalizing m a i with
  | nil => simp at h
  | cons b l ih =>
    simp only [writeBytes]
    cases i with
    | zero => rw [mget_writeBytes_outside _ _ _ _ (by omega)]; simp
    | succ i =>
      have := ih (m := mset 0 m a b) (a := a + 1) i (by simpa using h)
      rw [show a + (i + 1) = a + 1 + i by omega]
      simpa using this

/-- A run of the core stores reads as it was written. -/
theorem readMem_writeMem (s : State) (a : Nat) (l : List Byte) : readMem (writeMem a l s) a l.length = l := by
  suffices h : ∀ (k j : Nat) (hk : j + k = l.length), readMem (writeMem a l s) (a + j) k = l.drop j by
    simpa using h l.length 0 (by omega)
  intro k
  induction k with
  | zero => intro j hk; simp [readMem, List.drop_eq_nil_of_le (by omega : l.length ≤ j)]
  | succ k ih =>
    intro j hk
    have hj : j < l.length := by omega
    have e := mget_writeBytes_inside s.mem a l j hj
    rw [readMem, show a + j + 1 = a + (j + 1) by omega, ih (j + 1) (by omega), List.drop_eq_getElem_cons hj]
    exact congrArg (· :: _) e

end Sys2Proof.Machine
end

