-- ==== Sys2Proof/Laws/State.lean ====
section
/-! SUPPORT. What each basic update of the state does to each field. -/

namespace Sys2Proof.Machine

open Sys2Proof

/-! ### setLive -/

@[simp] theorem setLive_pending (p off : Nat) (v : Word) (s : State) : (setLive p off v s).pending = s.pending := rfl
@[simp] theorem setLive_shadow (p off : Nat) (v : Word) (s : State) : (setLive p off v s).shadow = s.shadow := rfl
@[simp] theorem setLive_busOut (p off : Nat) (v : Word) (s : State) : (setLive p off v s).busOut = s.busOut := rfl
@[simp] theorem setLive_out (p off : Nat) (v : Word) (s : State) : (setLive p off v s).out = s.out := rfl
@[simp] theorem setLive_freeCount (p off : Nat) (v : Word) (s : State) : (setLive p off v s).freeCount = s.freeCount := rfl
@[simp] theorem setLive_beat (p off : Nat) (v : Word) (s : State) : (setLive p off v s).beat = s.beat := rfl
@[simp] theorem setLive_groups (p off : Nat) (v : Word) (s : State) : (setLive p off v s).groups = s.groups := rfl
@[simp] theorem setLive_groupSel (p off : Nat) (v : Word) (s : State) : (setLive p off v s).groupSel = s.groupSel := rfl
@[simp] theorem setLive_cores (p off : Nat) (v : Word) (s : State) : (setLive p off v s).cores = s.cores := rfl
@[simp] theorem setLive_mem (p off : Nat) (v : Word) (s : State) : (setLive p off v s).mem = s.mem := rfl
@[simp] theorem setLive_badParity (p off : Nat) (v : Word) (s : State) : (setLive p off v s).badParity = s.badParity := rfl
@[simp] theorem setLive_credits (p off : Nat) (v : Word) (s : State) : (setLive p off v s).credits = s.credits := rfl
@[simp] theorem setLive_tallies (p off : Nat) (v : Word) (s : State) : (setLive p off v s).tallies = s.tallies := rfl
@[simp] theorem setLive_hubTargets (p off : Nat) (v : Word) (s : State) : (setLive p off v s).hubTargets = s.hubTargets := rfl
@[simp] theorem setLive_waits (p off : Nat) (v : Word) (s : State) : (setLive p off v s).waits = s.waits := rfl
@[simp] theorem setLive_tallyIn (p off : Nat) (v : Word) (s : State) : (setLive p off v s).tallyIn = s.tallyIn := rfl
@[simp] theorem setLive_routers (p off : Nat) (v : Word) (s : State) : (setLive p off v s).routers = s.routers := rfl
@[simp] theorem setLive_stk (p off : Nat) (v : Word) (s : State) : (setLive p off v s).stk = s.stk := rfl
@[simp] theorem setLive_stackMem (p off : Nat) (v : Word) (s : State) : (setLive p off v s).stackMem = s.stackMem := rfl
@[simp] theorem setLive_stackKey (p off : Nat) (v : Word) (s : State) : (setLive p off v s).stackKey = s.stackKey := rfl
@[simp] theorem setLive_stackCrc (p off : Nat) (v : Word) (s : State) : (setLive p off v s).stackCrc = s.stackCrc := rfl
@[simp] theorem setLive_notices (p off : Nat) (v : Word) (s : State) : (setLive p off v s).notices = s.notices := rfl
@[simp] theorem setLive_fieldUnits (p off : Nat) (v : Word) (s : State) : (setLive p off v s).fieldUnits = s.fieldUnits := rfl
@[simp] theorem setLive_repair (p off : Nat) (v : Word) (s : State) : (setLive p off v s).repair = s.repair := rfl
@[simp] theorem setLive_owner (p off : Nat) (v : Word) (s : State) : (setLive p off v s).owner = s.owner := rfl
@[simp] theorem setLive_tallyOwner (p off : Nat) (v : Word) (s : State) : (setLive p off v s).tallyOwner = s.tallyOwner := rfl
@[simp] theorem setLive_debugModels (p off : Nat) (v : Word) (s : State) : (setLive p off v s).debugModels = s.debugModels := rfl
@[simp] theorem setLive_linkIn (p off : Nat) (v : Word) (s : State) : (setLive p off v s).linkIn = s.linkIn := rfl
@[simp] theorem setLive_weights (p off : Nat) (v : Word) (s : State) : (setLive p off v s).weights = s.weights := rfl
@[simp] theorem setLive_serving (p off : Nat) (v : Word) (s : State) : (setLive p off v s).serving = s.serving := rfl
@[simp] theorem setLive_host (p off : Nat) (v : Word) (s : State) : (setLive p off v s).host = s.host := rfl
@[simp] theorem setLive_exch (p off : Nat) (v : Word) (s : State) : (setLive p off v s).exch = s.exch := rfl
@[simp] theorem setLive_links (p off : Nat) (v : Word) (s : State) : (setLive p off v s).links = s.links := rfl
@[simp] theorem setLive_clReqs (p off : Nat) (v : Word) (s : State) : (setLive p off v s).clReqs = s.clReqs := rfl
@[simp] theorem setLive_clIns (p off : Nat) (v : Word) (s : State) : (setLive p off v s).clIns = s.clIns := rfl
@[simp] theorem setLive_nextTag (p off : Nat) (v : Word) (s : State) : (setLive p off v s).nextTag = s.nextTag := rfl
@[simp] theorem setLive_clFlushed (p off : Nat) (v : Word) (s : State) : (setLive p off v s).clFlushed = s.clFlushed := rfl
@[simp] theorem setLive_leaving (p off : Nat) (v : Word) (s : State) : (setLive p off v s).leaving = s.leaving := rfl
@[simp] theorem setLive_routes (p off : Nat) (v : Word) (s : State) : (setLive p off v s).routes = s.routes := rfl
@[simp] theorem setLive_sec (p off : Nat) (v : Word) (s : State) : (setLive p off v s).sec = s.sec := rfl
@[simp] theorem setLive_fields (p off : Nat) (v : Word) (s : State) : (setLive p off v s).fields = s.fields := rfl
@[simp] theorem setLive_pm (p off : Nat) (v : Word) (s : State) : (setLive p off v s).pm = s.pm := rfl
@[simp] theorem setLive_convs (p off : Nat) (v : Word) (s : State) : (setLive p off v s).convs = s.convs := rfl
@[simp] theorem setLive_recov (p off : Nat) (v : Word) (s : State) : (setLive p off v s).recov = s.recov := rfl
@[simp] theorem setLive_boot (p off : Nat) (v : Word) (s : State) : (setLive p off v s).boot = s.boot := rfl
@[simp] theorem setLive_sp (p off : Nat) (v : Word) (s : State) : (setLive p off v s).sp = s.sp := rfl
@[simp] theorem setLive_live (p off : Nat) (v : Word) (s : State) : (setLive p off v s).live = mset (resetWord p off) s.live (regKey p off) v := rfl

/-! ### setShadow -/

@[simp] theorem setShadow_pending (p off : Nat) (v : Word) (s : State) : (setShadow p off v s).pending = s.pending := rfl
@[simp] theorem setShadow_live (p off : Nat) (v : Word) (s : State) : (setShadow p off v s).live = s.live := rfl
@[simp] theorem setShadow_busOut (p off : Nat) (v : Word) (s : State) : (setShadow p off v s).busOut = s.busOut := rfl
@[simp] theorem setShadow_out (p off : Nat) (v : Word) (s : State) : (setShadow p off v s).out = s.out := rfl
@[simp] theorem setShadow_freeCount (p off : Nat) (v : Word) (s : State) : (setShadow p off v s).freeCount = s.freeCount := rfl
@[simp] theorem setShadow_beat (p off : Nat) (v : Word) (s : State) : (setShadow p off v s).beat = s.beat := rfl
@[simp] theorem setShadow_groups (p off : Nat) (v : Word) (s : State) : (setShadow p off v s).groups = s.groups := rfl
@[simp] theorem setShadow_groupSel (p off : Nat) (v : Word) (s : State) : (setShadow p off v s).groupSel = s.groupSel := rfl
@[simp] theorem setShadow_cores (p off : Nat) (v : Word) (s : State) : (setShadow p off v s).cores = s.cores := rfl
@[simp] theorem setShadow_mem (p off : Nat) (v : Word) (s : State) : (setShadow p off v s).mem = s.mem := rfl
@[simp] theorem setShadow_badParity (p off : Nat) (v : Word) (s : State) : (setShadow p off v s).badParity = s.badParity := rfl
@[simp] theorem setShadow_credits (p off : Nat) (v : Word) (s : State) : (setShadow p off v s).credits = s.credits := rfl
@[simp] theorem setShadow_tallies (p off : Nat) (v : Word) (s : State) : (setShadow p off v s).tallies = s.tallies := rfl
@[simp] theorem setShadow_hubTargets (p off : Nat) (v : Word) (s : State) : (setShadow p off v s).hubTargets = s.hubTargets := rfl
@[simp] theorem setShadow_waits (p off : Nat) (v : Word) (s : State) : (setShadow p off v s).waits = s.waits := rfl
@[simp] theorem setShadow_tallyIn (p off : Nat) (v : Word) (s : State) : (setShadow p off v s).tallyIn = s.tallyIn := rfl
@[simp] theorem setShadow_routers (p off : Nat) (v : Word) (s : State) : (setShadow p off v s).routers = s.routers := rfl
@[simp] theorem setShadow_stk (p off : Nat) (v : Word) (s : State) : (setShadow p off v s).stk = s.stk := rfl
@[simp] theorem setShadow_stackMem (p off : Nat) (v : Word) (s : State) : (setShadow p off v s).stackMem = s.stackMem := rfl
@[simp] theorem setShadow_stackKey (p off : Nat) (v : Word) (s : State) : (setShadow p off v s).stackKey = s.stackKey := rfl
@[simp] theorem setShadow_stackCrc (p off : Nat) (v : Word) (s : State) : (setShadow p off v s).stackCrc = s.stackCrc := rfl
@[simp] theorem setShadow_notices (p off : Nat) (v : Word) (s : State) : (setShadow p off v s).notices = s.notices := rfl
@[simp] theorem setShadow_fieldUnits (p off : Nat) (v : Word) (s : State) : (setShadow p off v s).fieldUnits = s.fieldUnits := rfl
@[simp] theorem setShadow_repair (p off : Nat) (v : Word) (s : State) : (setShadow p off v s).repair = s.repair := rfl
@[simp] theorem setShadow_owner (p off : Nat) (v : Word) (s : State) : (setShadow p off v s).owner = s.owner := rfl
@[simp] theorem setShadow_tallyOwner (p off : Nat) (v : Word) (s : State) : (setShadow p off v s).tallyOwner = s.tallyOwner := rfl
@[simp] theorem setShadow_debugModels (p off : Nat) (v : Word) (s : State) : (setShadow p off v s).debugModels = s.debugModels := rfl
@[simp] theorem setShadow_linkIn (p off : Nat) (v : Word) (s : State) : (setShadow p off v s).linkIn = s.linkIn := rfl
@[simp] theorem setShadow_weights (p off : Nat) (v : Word) (s : State) : (setShadow p off v s).weights = s.weights := rfl
@[simp] theorem setShadow_serving (p off : Nat) (v : Word) (s : State) : (setShadow p off v s).serving = s.serving := rfl
@[simp] theorem setShadow_host (p off : Nat) (v : Word) (s : State) : (setShadow p off v s).host = s.host := rfl
@[simp] theorem setShadow_exch (p off : Nat) (v : Word) (s : State) : (setShadow p off v s).exch = s.exch := rfl
@[simp] theorem setShadow_links (p off : Nat) (v : Word) (s : State) : (setShadow p off v s).links = s.links := rfl
@[simp] theorem setShadow_clReqs (p off : Nat) (v : Word) (s : State) : (setShadow p off v s).clReqs = s.clReqs := rfl
@[simp] theorem setShadow_clIns (p off : Nat) (v : Word) (s : State) : (setShadow p off v s).clIns = s.clIns := rfl
@[simp] theorem setShadow_nextTag (p off : Nat) (v : Word) (s : State) : (setShadow p off v s).nextTag = s.nextTag := rfl
@[simp] theorem setShadow_clFlushed (p off : Nat) (v : Word) (s : State) : (setShadow p off v s).clFlushed = s.clFlushed := rfl
@[simp] theorem setShadow_leaving (p off : Nat) (v : Word) (s : State) : (setShadow p off v s).leaving = s.leaving := rfl
@[simp] theorem setShadow_routes (p off : Nat) (v : Word) (s : State) : (setShadow p off v s).routes = s.routes := rfl
@[simp] theorem setShadow_sec (p off : Nat) (v : Word) (s : State) : (setShadow p off v s).sec = s.sec := rfl
@[simp] theorem setShadow_fields (p off : Nat) (v : Word) (s : State) : (setShadow p off v s).fields = s.fields := rfl
@[simp] theorem setShadow_pm (p off : Nat) (v : Word) (s : State) : (setShadow p off v s).pm = s.pm := rfl
@[simp] theorem setShadow_convs (p off : Nat) (v : Word) (s : State) : (setShadow p off v s).convs = s.convs := rfl
@[simp] theorem setShadow_recov (p off : Nat) (v : Word) (s : State) : (setShadow p off v s).recov = s.recov := rfl
@[simp] theorem setShadow_boot (p off : Nat) (v : Word) (s : State) : (setShadow p off v s).boot = s.boot := rfl
@[simp] theorem setShadow_sp (p off : Nat) (v : Word) (s : State) : (setShadow p off v s).sp = s.sp := rfl
@[simp] theorem setShadow_shadow (p off : Nat) (v : Word) (s : State) : (setShadow p off v s).shadow = if v = live s p off then mdel s.shadow (regKey p off) else mput s.shadow (regKey p off) v := rfl

/-! ### reloadShadows -/

@[simp] theorem reloadShadows_pending (p : Nat) (s : State) : (reloadShadows p s).pending = s.pending := rfl
@[simp] theorem reloadShadows_live (p : Nat) (s : State) : (reloadShadows p s).live = s.live := rfl
@[simp] theorem reloadShadows_busOut (p : Nat) (s : State) : (reloadShadows p s).busOut = s.busOut := rfl
@[simp] theorem reloadShadows_out (p : Nat) (s : State) : (reloadShadows p s).out = s.out := rfl
@[simp] theorem reloadShadows_freeCount (p : Nat) (s : State) : (reloadShadows p s).freeCount = s.freeCount := rfl
@[simp] theorem reloadShadows_beat (p : Nat) (s : State) : (reloadShadows p s).beat = s.beat := rfl
@[simp] theorem reloadShadows_groups (p : Nat) (s : State) : (reloadShadows p s).groups = s.groups := rfl
@[simp] theorem reloadShadows_groupSel (p : Nat) (s : State) : (reloadShadows p s).groupSel = s.groupSel := rfl
@[simp] theorem reloadShadows_cores (p : Nat) (s : State) : (reloadShadows p s).cores = s.cores := rfl
@[simp] theorem reloadShadows_mem (p : Nat) (s : State) : (reloadShadows p s).mem = s.mem := rfl
@[simp] theorem reloadShadows_badParity (p : Nat) (s : State) : (reloadShadows p s).badParity = s.badParity := rfl
@[simp] theorem reloadShadows_credits (p : Nat) (s : State) : (reloadShadows p s).credits = s.credits := rfl
@[simp] theorem reloadShadows_tallies (p : Nat) (s : State) : (reloadShadows p s).tallies = s.tallies := rfl
@[simp] theorem reloadShadows_hubTargets (p : Nat) (s : State) : (reloadShadows p s).hubTargets = s.hubTargets := rfl
@[simp] theorem reloadShadows_waits (p : Nat) (s : State) : (reloadShadows p s).waits = s.waits := rfl
@[simp] theorem reloadShadows_tallyIn (p : Nat) (s : State) : (reloadShadows p s).tallyIn = s.tallyIn := rfl
@[simp] theorem reloadShadows_routers (p : Nat) (s : State) : (reloadShadows p s).routers = s.routers := rfl
@[simp] theorem reloadShadows_stk (p : Nat) (s : State) : (reloadShadows p s).stk = s.stk := rfl
@[simp] theorem reloadShadows_stackMem (p : Nat) (s : State) : (reloadShadows p s).stackMem = s.stackMem := rfl
@[simp] theorem reloadShadows_stackKey (p : Nat) (s : State) : (reloadShadows p s).stackKey = s.stackKey := rfl
@[simp] theorem reloadShadows_stackCrc (p : Nat) (s : State) : (reloadShadows p s).stackCrc = s.stackCrc := rfl
@[simp] theorem reloadShadows_notices (p : Nat) (s : State) : (reloadShadows p s).notices = s.notices := rfl
@[simp] theorem reloadShadows_fieldUnits (p : Nat) (s : State) : (reloadShadows p s).fieldUnits = s.fieldUnits := rfl
@[simp] theorem reloadShadows_repair (p : Nat) (s : State) : (reloadShadows p s).repair = s.repair := rfl
@[simp] theorem reloadShadows_owner (p : Nat) (s : State) : (reloadShadows p s).owner = s.owner := rfl
@[simp] theorem reloadShadows_tallyOwner (p : Nat) (s : State) : (reloadShadows p s).tallyOwner = s.tallyOwner := rfl
@[simp] theorem reloadShadows_debugModels (p : Nat) (s : State) : (reloadShadows p s).debugModels = s.debugModels := rfl
@[simp] theorem reloadShadows_linkIn (p : Nat) (s : State) : (reloadShadows p s).linkIn = s.linkIn := rfl
@[simp] theorem reloadShadows_weights (p : Nat) (s : State) : (reloadShadows p s).weights = s.weights := rfl
@[simp] theorem reloadShadows_serving (p : Nat) (s : State) : (reloadShadows p s).serving = s.serving := rfl
@[simp] theorem reloadShadows_host (p : Nat) (s : State) : (reloadShadows p s).host = s.host := rfl
@[simp] theorem reloadShadows_exch (p : Nat) (s : State) : (reloadShadows p s).exch = s.exch := rfl
@[simp] theorem reloadShadows_links (p : Nat) (s : State) : (reloadShadows p s).links = s.links := rfl
@[simp] theorem reloadShadows_clReqs (p : Nat) (s : State) : (reloadShadows p s).clReqs = s.clReqs := rfl
@[simp] theorem reloadShadows_clIns (p : Nat) (s : State) : (reloadShadows p s).clIns = s.clIns := rfl
@[simp] theorem reloadShadows_nextTag (p : Nat) (s : State) : (reloadShadows p s).nextTag = s.nextTag := rfl
@[simp] theorem reloadShadows_clFlushed (p : Nat) (s : State) : (reloadShadows p s).clFlushed = s.clFlushed := rfl
@[simp] theorem reloadShadows_leaving (p : Nat) (s : State) : (reloadShadows p s).leaving = s.leaving := rfl
@[simp] theorem reloadShadows_routes (p : Nat) (s : State) : (reloadShadows p s).routes = s.routes := rfl
@[simp] theorem reloadShadows_sec (p : Nat) (s : State) : (reloadShadows p s).sec = s.sec := rfl
@[simp] theorem reloadShadows_fields (p : Nat) (s : State) : (reloadShadows p s).fields = s.fields := rfl
@[simp] theorem reloadShadows_pm (p : Nat) (s : State) : (reloadShadows p s).pm = s.pm := rfl
@[simp] theorem reloadShadows_convs (p : Nat) (s : State) : (reloadShadows p s).convs = s.convs := rfl
@[simp] theorem reloadShadows_recov (p : Nat) (s : State) : (reloadShadows p s).recov = s.recov := rfl
@[simp] theorem reloadShadows_boot (p : Nat) (s : State) : (reloadShadows p s).boot = s.boot := rfl
@[simp] theorem reloadShadows_sp (p : Nat) (s : State) : (reloadShadows p s).sp = s.sp := rfl
@[simp] theorem reloadShadows_shadow (p : Nat) (s : State) : (reloadShadows p s).shadow = mdrop (fun k => k / 4096 == p) s.shadow := rfl

/-! ### setCore -/

@[simp] theorem setCore_pending (c : Nat) (x : Core) (s : State) : (setCore c x s).pending = s.pending := rfl
@[simp] theorem setCore_live (c : Nat) (x : Core) (s : State) : (setCore c x s).live = s.live := rfl
@[simp] theorem setCore_shadow (c : Nat) (x : Core) (s : State) : (setCore c x s).shadow = s.shadow := rfl
@[simp] theorem setCore_busOut (c : Nat) (x : Core) (s : State) : (setCore c x s).busOut = s.busOut := rfl
@[simp] theorem setCore_out (c : Nat) (x : Core) (s : State) : (setCore c x s).out = s.out := rfl
@[simp] theorem setCore_freeCount (c : Nat) (x : Core) (s : State) : (setCore c x s).freeCount = s.freeCount := rfl
@[simp] theorem setCore_beat (c : Nat) (x : Core) (s : State) : (setCore c x s).beat = s.beat := rfl
@[simp] theorem setCore_groups (c : Nat) (x : Core) (s : State) : (setCore c x s).groups = s.groups := rfl
@[simp] theorem setCore_groupSel (c : Nat) (x : Core) (s : State) : (setCore c x s).groupSel = s.groupSel := rfl
@[simp] theorem setCore_mem (c : Nat) (x : Core) (s : State) : (setCore c x s).mem = s.mem := rfl
@[simp] theorem setCore_badParity (c : Nat) (x : Core) (s : State) : (setCore c x s).badParity = s.badParity := rfl
@[simp] theorem setCore_credits (c : Nat) (x : Core) (s : State) : (setCore c x s).credits = s.credits := rfl
@[simp] theorem setCore_tallies (c : Nat) (x : Core) (s : State) : (setCore c x s).tallies = s.tallies := rfl
@[simp] theorem setCore_hubTargets (c : Nat) (x : Core) (s : State) : (setCore c x s).hubTargets = s.hubTargets := rfl
@[simp] theorem setCore_waits (c : Nat) (x : Core) (s : State) : (setCore c x s).waits = s.waits := rfl
@[simp] theorem setCore_tallyIn (c : Nat) (x : Core) (s : State) : (setCore c x s).tallyIn = s.tallyIn := rfl
@[simp] theorem setCore_routers (c : Nat) (x : Core) (s : State) : (setCore c x s).routers = s.routers := rfl
@[simp] theorem setCore_stk (c : Nat) (x : Core) (s : State) : (setCore c x s).stk = s.stk := rfl
@[simp] theorem setCore_stackMem (c : Nat) (x : Core) (s : State) : (setCore c x s).stackMem = s.stackMem := rfl
@[simp] theorem setCore_stackKey (c : Nat) (x : Core) (s : State) : (setCore c x s).stackKey = s.stackKey := rfl
@[simp] theorem setCore_stackCrc (c : Nat) (x : Core) (s : State) : (setCore c x s).stackCrc = s.stackCrc := rfl
@[simp] theorem setCore_notices (c : Nat) (x : Core) (s : State) : (setCore c x s).notices = s.notices := rfl
@[simp] theorem setCore_fieldUnits (c : Nat) (x : Core) (s : State) : (setCore c x s).fieldUnits = s.fieldUnits := rfl
@[simp] theorem setCore_repair (c : Nat) (x : Core) (s : State) : (setCore c x s).repair = s.repair := rfl
@[simp] theorem setCore_owner (c : Nat) (x : Core) (s : State) : (setCore c x s).owner = s.owner := rfl
@[simp] theorem setCore_tallyOwner (c : Nat) (x : Core) (s : State) : (setCore c x s).tallyOwner = s.tallyOwner := rfl
@[simp] theorem setCore_debugModels (c : Nat) (x : Core) (s : State) : (setCore c x s).debugModels = s.debugModels := rfl
@[simp] theorem setCore_linkIn (c : Nat) (x : Core) (s : State) : (setCore c x s).linkIn = s.linkIn := rfl
@[simp] theorem setCore_weights (c : Nat) (x : Core) (s : State) : (setCore c x s).weights = s.weights := rfl
@[simp] theorem setCore_serving (c : Nat) (x : Core) (s : State) : (setCore c x s).serving = s.serving := rfl
@[simp] theorem setCore_host (c : Nat) (x : Core) (s : State) : (setCore c x s).host = s.host := rfl
@[simp] theorem setCore_exch (c : Nat) (x : Core) (s : State) : (setCore c x s).exch = s.exch := rfl
@[simp] theorem setCore_links (c : Nat) (x : Core) (s : State) : (setCore c x s).links = s.links := rfl
@[simp] theorem setCore_clReqs (c : Nat) (x : Core) (s : State) : (setCore c x s).clReqs = s.clReqs := rfl
@[simp] theorem setCore_clIns (c : Nat) (x : Core) (s : State) : (setCore c x s).clIns = s.clIns := rfl
@[simp] theorem setCore_nextTag (c : Nat) (x : Core) (s : State) : (setCore c x s).nextTag = s.nextTag := rfl
@[simp] theorem setCore_clFlushed (c : Nat) (x : Core) (s : State) : (setCore c x s).clFlushed = s.clFlushed := rfl
@[simp] theorem setCore_leaving (c : Nat) (x : Core) (s : State) : (setCore c x s).leaving = s.leaving := rfl
@[simp] theorem setCore_routes (c : Nat) (x : Core) (s : State) : (setCore c x s).routes = s.routes := rfl
@[simp] theorem setCore_sec (c : Nat) (x : Core) (s : State) : (setCore c x s).sec = s.sec := rfl
@[simp] theorem setCore_fields (c : Nat) (x : Core) (s : State) : (setCore c x s).fields = s.fields := rfl
@[simp] theorem setCore_pm (c : Nat) (x : Core) (s : State) : (setCore c x s).pm = s.pm := rfl
@[simp] theorem setCore_convs (c : Nat) (x : Core) (s : State) : (setCore c x s).convs = s.convs := rfl
@[simp] theorem setCore_recov (c : Nat) (x : Core) (s : State) : (setCore c x s).recov = s.recov := rfl
@[simp] theorem setCore_boot (c : Nat) (x : Core) (s : State) : (setCore c x s).boot = s.boot := rfl
@[simp] theorem setCore_sp (c : Nat) (x : Core) (s : State) : (setCore c x s).sp = s.sp := rfl
@[simp] theorem setCore_cores (c : Nat) (x : Core) (s : State) : (setCore c x s).cores = mset .reset s.cores c x := rfl

/-! ### writeMem -/

@[simp] theorem writeMem_pending (a : Nat) (l : List Byte) (s : State) : (writeMem a l s).pending = s.pending := rfl
@[simp] theorem writeMem_live (a : Nat) (l : List Byte) (s : State) : (writeMem a l s).live = s.live := rfl
@[simp] theorem writeMem_shadow (a : Nat) (l : List Byte) (s : State) : (writeMem a l s).shadow = s.shadow := rfl
@[simp] theorem writeMem_busOut (a : Nat) (l : List Byte) (s : State) : (writeMem a l s).busOut = s.busOut := rfl
@[simp] theorem writeMem_out (a : Nat) (l : List Byte) (s : State) : (writeMem a l s).out = s.out := rfl
@[simp] theorem writeMem_freeCount (a : Nat) (l : List Byte) (s : State) : (writeMem a l s).freeCount = s.freeCount := rfl
@[simp] theorem writeMem_beat (a : Nat) (l : List Byte) (s : State) : (writeMem a l s).beat = s.beat := rfl
@[simp] theorem writeMem_groups (a : Nat) (l : List Byte) (s : State) : (writeMem a l s).groups = s.groups := rfl
@[simp] theorem writeMem_groupSel (a : Nat) (l : List Byte) (s : State) : (writeMem a l s).groupSel = s.groupSel := rfl
@[simp] theorem writeMem_cores (a : Nat) (l : List Byte) (s : State) : (writeMem a l s).cores = s.cores := rfl
@[simp] theorem writeMem_credits (a : Nat) (l : List Byte) (s : State) : (writeMem a l s).credits = s.credits := rfl
@[simp] theorem writeMem_tallies (a : Nat) (l : List Byte) (s : State) : (writeMem a l s).tallies = s.tallies := rfl
@[simp] theorem writeMem_hubTargets (a : Nat) (l : List Byte) (s : State) : (writeMem a l s).hubTargets = s.hubTargets := rfl
@[simp] theorem writeMem_waits (a : Nat) (l : List Byte) (s : State) : (writeMem a l s).waits = s.waits := rfl
@[simp] theorem writeMem_tallyIn (a : Nat) (l : List Byte) (s : State) : (writeMem a l s).tallyIn = s.tallyIn := rfl
@[simp] theorem writeMem_routers (a : Nat) (l : List Byte) (s : State) : (writeMem a l s).routers = s.routers := rfl
@[simp] theorem writeMem_stk (a : Nat) (l : List Byte) (s : State) : (writeMem a l s).stk = s.stk := rfl
@[simp] theorem writeMem_stackMem (a : Nat) (l : List Byte) (s : State) : (writeMem a l s).stackMem = s.stackMem := rfl
@[simp] theorem writeMem_stackKey (a : Nat) (l : List Byte) (s : State) : (writeMem a l s).stackKey = s.stackKey := rfl
@[simp] theorem writeMem_stackCrc (a : Nat) (l : List Byte) (s : State) : (writeMem a l s).stackCrc = s.stackCrc := rfl
@[simp] theorem writeMem_notices (a : Nat) (l : List Byte) (s : State) : (writeMem a l s).notices = s.notices := rfl
@[simp] theorem writeMem_fieldUnits (a : Nat) (l : List Byte) (s : State) : (writeMem a l s).fieldUnits = s.fieldUnits := rfl
@[simp] theorem writeMem_repair (a : Nat) (l : List Byte) (s : State) : (writeMem a l s).repair = s.repair := rfl
@[simp] theorem writeMem_owner (a : Nat) (l : List Byte) (s : State) : (writeMem a l s).owner = s.owner := rfl
@[simp] theorem writeMem_tallyOwner (a : Nat) (l : List Byte) (s : State) : (writeMem a l s).tallyOwner = s.tallyOwner := rfl
@[simp] theorem writeMem_debugModels (a : Nat) (l : List Byte) (s : State) : (writeMem a l s).debugModels = s.debugModels := rfl
@[simp] theorem writeMem_linkIn (a : Nat) (l : List Byte) (s : State) : (writeMem a l s).linkIn = s.linkIn := rfl
@[simp] theorem writeMem_weights (a : Nat) (l : List Byte) (s : State) : (writeMem a l s).weights = s.weights := rfl
@[simp] theorem writeMem_serving (a : Nat) (l : List Byte) (s : State) : (writeMem a l s).serving = s.serving := rfl
@[simp] theorem writeMem_host (a : Nat) (l : List Byte) (s : State) : (writeMem a l s).host = s.host := rfl
@[simp] theorem writeMem_exch (a : Nat) (l : List Byte) (s : State) : (writeMem a l s).exch = s.exch := rfl
@[simp] theorem writeMem_links (a : Nat) (l : List Byte) (s : State) : (writeMem a l s).links = s.links := rfl
@[simp] theorem writeMem_clReqs (a : Nat) (l : List Byte) (s : State) : (writeMem a l s).clReqs = s.clReqs := rfl
@[simp] theorem writeMem_clIns (a : Nat) (l : List Byte) (s : State) : (writeMem a l s).clIns = s.clIns := rfl
@[simp] theorem writeMem_nextTag (a : Nat) (l : List Byte) (s : State) : (writeMem a l s).nextTag = s.nextTag := rfl
@[simp] theorem writeMem_clFlushed (a : Nat) (l : List Byte) (s : State) : (writeMem a l s).clFlushed = s.clFlushed := rfl
@[simp] theorem writeMem_leaving (a : Nat) (l : List Byte) (s : State) : (writeMem a l s).leaving = s.leaving := rfl
@[simp] theorem writeMem_routes (a : Nat) (l : List Byte) (s : State) : (writeMem a l s).routes = s.routes := rfl
@[simp] theorem writeMem_sec (a : Nat) (l : List Byte) (s : State) : (writeMem a l s).sec = s.sec := rfl
@[simp] theorem writeMem_fields (a : Nat) (l : List Byte) (s : State) : (writeMem a l s).fields = s.fields := rfl
@[simp] theorem writeMem_pm (a : Nat) (l : List Byte) (s : State) : (writeMem a l s).pm = s.pm := rfl
@[simp] theorem writeMem_convs (a : Nat) (l : List Byte) (s : State) : (writeMem a l s).convs = s.convs := rfl
@[simp] theorem writeMem_recov (a : Nat) (l : List Byte) (s : State) : (writeMem a l s).recov = s.recov := rfl
@[simp] theorem writeMem_boot (a : Nat) (l : List Byte) (s : State) : (writeMem a l s).boot = s.boot := rfl
@[simp] theorem writeMem_sp (a : Nat) (l : List Byte) (s : State) : (writeMem a l s).sp = s.sp := rfl
@[simp] theorem writeMem_mem (a : Nat) (l : List Byte) (s : State) : (writeMem a l s).mem = writeBytes s.mem a l := rfl
@[simp] theorem writeMem_badParity (a : Nat) (l : List Byte) (s : State) : (writeMem a l s).badParity = s.badParity.filter fun b => decide (b < a ∨ a + l.length ≤ b) := rfl

/-! ### setUnits -/

@[simp] theorem setUnits_pending (f : Nat) (x : FieldUnits) (s : State) : (setUnits f x s).pending = s.pending := rfl
@[simp] theorem setUnits_live (f : Nat) (x : FieldUnits) (s : State) : (setUnits f x s).live = s.live := rfl
@[simp] theorem setUnits_shadow (f : Nat) (x : FieldUnits) (s : State) : (setUnits f x s).shadow = s.shadow := rfl
@[simp] theorem setUnits_busOut (f : Nat) (x : FieldUnits) (s : State) : (setUnits f x s).busOut = s.busOut := rfl
@[simp] theorem setUnits_out (f : Nat) (x : FieldUnits) (s : State) : (setUnits f x s).out = s.out := rfl
@[simp] theorem setUnits_freeCount (f : Nat) (x : FieldUnits) (s : State) : (setUnits f x s).freeCount = s.freeCount := rfl
@[simp] theorem setUnits_beat (f : Nat) (x : FieldUnits) (s : State) : (setUnits f x s).beat = s.beat := rfl
@[simp] theorem setUnits_groups (f : Nat) (x : FieldUnits) (s : State) : (setUnits f x s).groups = s.groups := rfl
@[simp] theorem setUnits_groupSel (f : Nat) (x : FieldUnits) (s : State) : (setUnits f x s).groupSel = s.groupSel := rfl
@[simp] theorem setUnits_cores (f : Nat) (x : FieldUnits) (s : State) : (setUnits f x s).cores = s.cores := rfl
@[simp] theorem setUnits_mem (f : Nat) (x : FieldUnits) (s : State) : (setUnits f x s).mem = s.mem := rfl
@[simp] theorem setUnits_badParity (f : Nat) (x : FieldUnits) (s : State) : (setUnits f x s).badParity = s.badParity := rfl
@[simp] theorem setUnits_credits (f : Nat) (x : FieldUnits) (s : State) : (setUnits f x s).credits = s.credits := rfl
@[simp] theorem setUnits_tallies (f : Nat) (x : FieldUnits) (s : State) : (setUnits f x s).tallies = s.tallies := rfl
@[simp] theorem setUnits_hubTargets (f : Nat) (x : FieldUnits) (s : State) : (setUnits f x s).hubTargets = s.hubTargets := rfl
@[simp] theorem setUnits_waits (f : Nat) (x : FieldUnits) (s : State) : (setUnits f x s).waits = s.waits := rfl
@[simp] theorem setUnits_tallyIn (f : Nat) (x : FieldUnits) (s : State) : (setUnits f x s).tallyIn = s.tallyIn := rfl
@[simp] theorem setUnits_routers (f : Nat) (x : FieldUnits) (s : State) : (setUnits f x s).routers = s.routers := rfl
@[simp] theorem setUnits_stk (f : Nat) (x : FieldUnits) (s : State) : (setUnits f x s).stk = s.stk := rfl
@[simp] theorem setUnits_stackMem (f : Nat) (x : FieldUnits) (s : State) : (setUnits f x s).stackMem = s.stackMem := rfl
@[simp] theorem setUnits_stackKey (f : Nat) (x : FieldUnits) (s : State) : (setUnits f x s).stackKey = s.stackKey := rfl
@[simp] theorem setUnits_stackCrc (f : Nat) (x : FieldUnits) (s : State) : (setUnits f x s).stackCrc = s.stackCrc := rfl
@[simp] theorem setUnits_notices (f : Nat) (x : FieldUnits) (s : State) : (setUnits f x s).notices = s.notices := rfl
@[simp] theorem setUnits_repair (f : Nat) (x : FieldUnits) (s : State) : (setUnits f x s).repair = s.repair := rfl
@[simp] theorem setUnits_owner (f : Nat) (x : FieldUnits) (s : State) : (setUnits f x s).owner = s.owner := rfl
@[simp] theorem setUnits_tallyOwner (f : Nat) (x : FieldUnits) (s : State) : (setUnits f x s).tallyOwner = s.tallyOwner := rfl
@[simp] theorem setUnits_debugModels (f : Nat) (x : FieldUnits) (s : State) : (setUnits f x s).debugModels = s.debugModels := rfl
@[simp] theorem setUnits_linkIn (f : Nat) (x : FieldUnits) (s : State) : (setUnits f x s).linkIn = s.linkIn := rfl
@[simp] theorem setUnits_weights (f : Nat) (x : FieldUnits) (s : State) : (setUnits f x s).weights = s.weights := rfl
@[simp] theorem setUnits_serving (f : Nat) (x : FieldUnits) (s : State) : (setUnits f x s).serving = s.serving := rfl
@[simp] theorem setUnits_host (f : Nat) (x : FieldUnits) (s : State) : (setUnits f x s).host = s.host := rfl
@[simp] theorem setUnits_exch (f : Nat) (x : FieldUnits) (s : State) : (setUnits f x s).exch = s.exch := rfl
@[simp] theorem setUnits_links (f : Nat) (x : FieldUnits) (s : State) : (setUnits f x s).links = s.links := rfl
@[simp] theorem setUnits_clReqs (f : Nat) (x : FieldUnits) (s : State) : (setUnits f x s).clReqs = s.clReqs := rfl
@[simp] theorem setUnits_clIns (f : Nat) (x : FieldUnits) (s : State) : (setUnits f x s).clIns = s.clIns := rfl
@[simp] theorem setUnits_nextTag (f : Nat) (x : FieldUnits) (s : State) : (setUnits f x s).nextTag = s.nextTag := rfl
@[simp] theorem setUnits_clFlushed (f : Nat) (x : FieldUnits) (s : State) : (setUnits f x s).clFlushed = s.clFlushed := rfl
@[simp] theorem setUnits_leaving (f : Nat) (x : FieldUnits) (s : State) : (setUnits f x s).leaving = s.leaving := rfl
@[simp] theorem setUnits_routes (f : Nat) (x : FieldUnits) (s : State) : (setUnits f x s).routes = s.routes := rfl
@[simp] theorem setUnits_sec (f : Nat) (x : FieldUnits) (s : State) : (setUnits f x s).sec = s.sec := rfl
@[simp] theorem setUnits_fields (f : Nat) (x : FieldUnits) (s : State) : (setUnits f x s).fields = s.fields := rfl
@[simp] theorem setUnits_pm (f : Nat) (x : FieldUnits) (s : State) : (setUnits f x s).pm = s.pm := rfl
@[simp] theorem setUnits_convs (f : Nat) (x : FieldUnits) (s : State) : (setUnits f x s).convs = s.convs := rfl
@[simp] theorem setUnits_recov (f : Nat) (x : FieldUnits) (s : State) : (setUnits f x s).recov = s.recov := rfl
@[simp] theorem setUnits_boot (f : Nat) (x : FieldUnits) (s : State) : (setUnits f x s).boot = s.boot := rfl
@[simp] theorem setUnits_sp (f : Nat) (x : FieldUnits) (s : State) : (setUnits f x s).sp = s.sp := rfl
@[simp] theorem setUnits_fieldUnits (f : Nat) (x : FieldUnits) (s : State) : (setUnits f x s).fieldUnits = mset .reset s.fieldUnits f x := rfl

/-! ### setGrp -/

@[simp] theorem setGrp_pending (g : Nat) (x : Group) (s : State) : (setGrp g x s).pending = s.pending := rfl
@[simp] theorem setGrp_live (g : Nat) (x : Group) (s : State) : (setGrp g x s).live = s.live := rfl
@[simp] theorem setGrp_shadow (g : Nat) (x : Group) (s : State) : (setGrp g x s).shadow = s.shadow := rfl
@[simp] theorem setGrp_busOut (g : Nat) (x : Group) (s : State) : (setGrp g x s).busOut = s.busOut := rfl
@[simp] theorem setGrp_out (g : Nat) (x : Group) (s : State) : (setGrp g x s).out = s.out := rfl
@[simp] theorem setGrp_freeCount (g : Nat) (x : Group) (s : State) : (setGrp g x s).freeCount = s.freeCount := rfl
@[simp] theorem setGrp_beat (g : Nat) (x : Group) (s : State) : (setGrp g x s).beat = s.beat := rfl
@[simp] theorem setGrp_groupSel (g : Nat) (x : Group) (s : State) : (setGrp g x s).groupSel = s.groupSel := rfl
@[simp] theorem setGrp_cores (g : Nat) (x : Group) (s : State) : (setGrp g x s).cores = s.cores := rfl
@[simp] theorem setGrp_mem (g : Nat) (x : Group) (s : State) : (setGrp g x s).mem = s.mem := rfl
@[simp] theorem setGrp_badParity (g : Nat) (x : Group) (s : State) : (setGrp g x s).badParity = s.badParity := rfl
@[simp] theorem setGrp_credits (g : Nat) (x : Group) (s : State) : (setGrp g x s).credits = s.credits := rfl
@[simp] theorem setGrp_tallies (g : Nat) (x : Group) (s : State) : (setGrp g x s).tallies = s.tallies := rfl
@[simp] theorem setGrp_hubTargets (g : Nat) (x : Group) (s : State) : (setGrp g x s).hubTargets = s.hubTargets := rfl
@[simp] theorem setGrp_waits (g : Nat) (x : Group) (s : State) : (setGrp g x s).waits = s.waits := rfl
@[simp] theorem setGrp_tallyIn (g : Nat) (x : Group) (s : State) : (setGrp g x s).tallyIn = s.tallyIn := rfl
@[simp] theorem setGrp_routers (g : Nat) (x : Group) (s : State) : (setGrp g x s).routers = s.routers := rfl
@[simp] theorem setGrp_stk (g : Nat) (x : Group) (s : State) : (setGrp g x s).stk = s.stk := rfl
@[simp] theorem setGrp_stackMem (g : Nat) (x : Group) (s : State) : (setGrp g x s).stackMem = s.stackMem := rfl
@[simp] theorem setGrp_stackKey (g : Nat) (x : Group) (s : State) : (setGrp g x s).stackKey = s.stackKey := rfl
@[simp] theorem setGrp_stackCrc (g : Nat) (x : Group) (s : State) : (setGrp g x s).stackCrc = s.stackCrc := rfl
@[simp] theorem setGrp_notices (g : Nat) (x : Group) (s : State) : (setGrp g x s).notices = s.notices := rfl
@[simp] theorem setGrp_fieldUnits (g : Nat) (x : Group) (s : State) : (setGrp g x s).fieldUnits = s.fieldUnits := rfl
@[simp] theorem setGrp_repair (g : Nat) (x : Group) (s : State) : (setGrp g x s).repair = s.repair := rfl
@[simp] theorem setGrp_owner (g : Nat) (x : Group) (s : State) : (setGrp g x s).owner = s.owner := rfl
@[simp] theorem setGrp_tallyOwner (g : Nat) (x : Group) (s : State) : (setGrp g x s).tallyOwner = s.tallyOwner := rfl
@[simp] theorem setGrp_debugModels (g : Nat) (x : Group) (s : State) : (setGrp g x s).debugModels = s.debugModels := rfl
@[simp] theorem setGrp_linkIn (g : Nat) (x : Group) (s : State) : (setGrp g x s).linkIn = s.linkIn := rfl
@[simp] theorem setGrp_weights (g : Nat) (x : Group) (s : State) : (setGrp g x s).weights = s.weights := rfl
@[simp] theorem setGrp_serving (g : Nat) (x : Group) (s : State) : (setGrp g x s).serving = s.serving := rfl
@[simp] theorem setGrp_host (g : Nat) (x : Group) (s : State) : (setGrp g x s).host = s.host := rfl
@[simp] theorem setGrp_exch (g : Nat) (x : Group) (s : State) : (setGrp g x s).exch = s.exch := rfl
@[simp] theorem setGrp_links (g : Nat) (x : Group) (s : State) : (setGrp g x s).links = s.links := rfl
@[simp] theorem setGrp_clReqs (g : Nat) (x : Group) (s : State) : (setGrp g x s).clReqs = s.clReqs := rfl
@[simp] theorem setGrp_clIns (g : Nat) (x : Group) (s : State) : (setGrp g x s).clIns = s.clIns := rfl
@[simp] theorem setGrp_nextTag (g : Nat) (x : Group) (s : State) : (setGrp g x s).nextTag = s.nextTag := rfl
@[simp] theorem setGrp_clFlushed (g : Nat) (x : Group) (s : State) : (setGrp g x s).clFlushed = s.clFlushed := rfl
@[simp] theorem setGrp_leaving (g : Nat) (x : Group) (s : State) : (setGrp g x s).leaving = s.leaving := rfl
@[simp] theorem setGrp_routes (g : Nat) (x : Group) (s : State) : (setGrp g x s).routes = s.routes := rfl
@[simp] theorem setGrp_sec (g : Nat) (x : Group) (s : State) : (setGrp g x s).sec = s.sec := rfl
@[simp] theorem setGrp_fields (g : Nat) (x : Group) (s : State) : (setGrp g x s).fields = s.fields := rfl
@[simp] theorem setGrp_pm (g : Nat) (x : Group) (s : State) : (setGrp g x s).pm = s.pm := rfl
@[simp] theorem setGrp_convs (g : Nat) (x : Group) (s : State) : (setGrp g x s).convs = s.convs := rfl
@[simp] theorem setGrp_recov (g : Nat) (x : Group) (s : State) : (setGrp g x s).recov = s.recov := rfl
@[simp] theorem setGrp_boot (g : Nat) (x : Group) (s : State) : (setGrp g x s).boot = s.boot := rfl
@[simp] theorem setGrp_sp (g : Nat) (x : Group) (s : State) : (setGrp g x s).sp = s.sp := rfl
@[simp] theorem setGrp_groups (g : Nat) (x : Group) (s : State) : (setGrp g x s).groups = mset groupReset s.groups g x := rfl

/-! ### setRouter -/

@[simp] theorem setRouter_pending (r : Nat) (x : Router) (s : State) : (setRouter r x s).pending = s.pending := rfl
@[simp] theorem setRouter_live (r : Nat) (x : Router) (s : State) : (setRouter r x s).live = s.live := rfl
@[simp] theorem setRouter_shadow (r : Nat) (x : Router) (s : State) : (setRouter r x s).shadow = s.shadow := rfl
@[simp] theorem setRouter_busOut (r : Nat) (x : Router) (s : State) : (setRouter r x s).busOut = s.busOut := rfl
@[simp] theorem setRouter_out (r : Nat) (x : Router) (s : State) : (setRouter r x s).out = s.out := rfl
@[simp] theorem setRouter_freeCount (r : Nat) (x : Router) (s : State) : (setRouter r x s).freeCount = s.freeCount := rfl
@[simp] theorem setRouter_beat (r : Nat) (x : Router) (s : State) : (setRouter r x s).beat = s.beat := rfl
@[simp] theorem setRouter_groups (r : Nat) (x : Router) (s : State) : (setRouter r x s).groups = s.groups := rfl
@[simp] theorem setRouter_groupSel (r : Nat) (x : Router) (s : State) : (setRouter r x s).groupSel = s.groupSel := rfl
@[simp] theorem setRouter_cores (r : Nat) (x : Router) (s : State) : (setRouter r x s).cores = s.cores := rfl
@[simp] theorem setRouter_mem (r : Nat) (x : Router) (s : State) : (setRouter r x s).mem = s.mem := rfl
@[simp] theorem setRouter_badParity (r : Nat) (x : Router) (s : State) : (setRouter r x s).badParity = s.badParity := rfl
@[simp] theorem setRouter_credits (r : Nat) (x : Router) (s : State) : (setRouter r x s).credits = s.credits := rfl
@[simp] theorem setRouter_tallies (r : Nat) (x : Router) (s : State) : (setRouter r x s).tallies = s.tallies := rfl
@[simp] theorem setRouter_hubTargets (r : Nat) (x : Router) (s : State) : (setRouter r x s).hubTargets = s.hubTargets := rfl
@[simp] theorem setRouter_waits (r : Nat) (x : Router) (s : State) : (setRouter r x s).waits = s.waits := rfl
@[simp] theorem setRouter_tallyIn (r : Nat) (x : Router) (s : State) : (setRouter r x s).tallyIn = s.tallyIn := rfl
@[simp] theorem setRouter_stk (r : Nat) (x : Router) (s : State) : (setRouter r x s).stk = s.stk := rfl
@[simp] theorem setRouter_stackMem (r : Nat) (x : Router) (s : State) : (setRouter r x s).stackMem = s.stackMem := rfl
@[simp] theorem setRouter_stackKey (r : Nat) (x : Router) (s : State) : (setRouter r x s).stackKey = s.stackKey := rfl
@[simp] theorem setRouter_stackCrc (r : Nat) (x : Router) (s : State) : (setRouter r x s).stackCrc = s.stackCrc := rfl
@[simp] theorem setRouter_notices (r : Nat) (x : Router) (s : State) : (setRouter r x s).notices = s.notices := rfl
@[simp] theorem setRouter_fieldUnits (r : Nat) (x : Router) (s : State) : (setRouter r x s).fieldUnits = s.fieldUnits := rfl
@[simp] theorem setRouter_repair (r : Nat) (x : Router) (s : State) : (setRouter r x s).repair = s.repair := rfl
@[simp] theorem setRouter_owner (r : Nat) (x : Router) (s : State) : (setRouter r x s).owner = s.owner := rfl
@[simp] theorem setRouter_tallyOwner (r : Nat) (x : Router) (s : State) : (setRouter r x s).tallyOwner = s.tallyOwner := rfl
@[simp] theorem setRouter_debugModels (r : Nat) (x : Router) (s : State) : (setRouter r x s).debugModels = s.debugModels := rfl
@[simp] theorem setRouter_linkIn (r : Nat) (x : Router) (s : State) : (setRouter r x s).linkIn = s.linkIn := rfl
@[simp] theorem setRouter_weights (r : Nat) (x : Router) (s : State) : (setRouter r x s).weights = s.weights := rfl
@[simp] theorem setRouter_serving (r : Nat) (x : Router) (s : State) : (setRouter r x s).serving = s.serving := rfl
@[simp] theorem setRouter_host (r : Nat) (x : Router) (s : State) : (setRouter r x s).host = s.host := rfl
@[simp] theorem setRouter_exch (r : Nat) (x : Router) (s : State) : (setRouter r x s).exch = s.exch := rfl
@[simp] theorem setRouter_links (r : Nat) (x : Router) (s : State) : (setRouter r x s).links = s.links := rfl
@[simp] theorem setRouter_clReqs (r : Nat) (x : Router) (s : State) : (setRouter r x s).clReqs = s.clReqs := rfl
@[simp] theorem setRouter_clIns (r : Nat) (x : Router) (s : State) : (setRouter r x s).clIns = s.clIns := rfl
@[simp] theorem setRouter_nextTag (r : Nat) (x : Router) (s : State) : (setRouter r x s).nextTag = s.nextTag := rfl
@[simp] theorem setRouter_clFlushed (r : Nat) (x : Router) (s : State) : (setRouter r x s).clFlushed = s.clFlushed := rfl
@[simp] theorem setRouter_leaving (r : Nat) (x : Router) (s : State) : (setRouter r x s).leaving = s.leaving := rfl
@[simp] theorem setRouter_routes (r : Nat) (x : Router) (s : State) : (setRouter r x s).routes = s.routes := rfl
@[simp] theorem setRouter_sec (r : Nat) (x : Router) (s : State) : (setRouter r x s).sec = s.sec := rfl
@[simp] theorem setRouter_fields (r : Nat) (x : Router) (s : State) : (setRouter r x s).fields = s.fields := rfl
@[simp] theorem setRouter_pm (r : Nat) (x : Router) (s : State) : (setRouter r x s).pm = s.pm := rfl
@[simp] theorem setRouter_convs (r : Nat) (x : Router) (s : State) : (setRouter r x s).convs = s.convs := rfl
@[simp] theorem setRouter_recov (r : Nat) (x : Router) (s : State) : (setRouter r x s).recov = s.recov := rfl
@[simp] theorem setRouter_boot (r : Nat) (x : Router) (s : State) : (setRouter r x s).boot = s.boot := rfl
@[simp] theorem setRouter_sp (r : Nat) (x : Router) (s : State) : (setRouter r x s).sp = s.sp := rfl
@[simp] theorem setRouter_routers (r : Nat) (x : Router) (s : State) : (setRouter r x s).routers = mset .reset s.routers r x := rfl

/-! ### setTally -/

@[simp] theorem setTally_pending (t : Nat) (x : Tally) (s : State) : (setTally t x s).pending = s.pending := rfl
@[simp] theorem setTally_live (t : Nat) (x : Tally) (s : State) : (setTally t x s).live = s.live := rfl
@[simp] theorem setTally_shadow (t : Nat) (x : Tally) (s : State) : (setTally t x s).shadow = s.shadow := rfl
@[simp] theorem setTally_busOut (t : Nat) (x : Tally) (s : State) : (setTally t x s).busOut = s.busOut := rfl
@[simp] theorem setTally_out (t : Nat) (x : Tally) (s : State) : (setTally t x s).out = s.out := rfl
@[simp] theorem setTally_freeCount (t : Nat) (x : Tally) (s : State) : (setTally t x s).freeCount = s.freeCount := rfl
@[simp] theorem setTally_beat (t : Nat) (x : Tally) (s : State) : (setTally t x s).beat = s.beat := rfl
@[simp] theorem setTally_groups (t : Nat) (x : Tally) (s : State) : (setTally t x s).groups = s.groups := rfl
@[simp] theorem setTally_groupSel (t : Nat) (x : Tally) (s : State) : (setTally t x s).groupSel = s.groupSel := rfl
@[simp] theorem setTally_cores (t : Nat) (x : Tally) (s : State) : (setTally t x s).cores = s.cores := rfl
@[simp] theorem setTally_mem (t : Nat) (x : Tally) (s : State) : (setTally t x s).mem = s.mem := rfl
@[simp] theorem setTally_badParity (t : Nat) (x : Tally) (s : State) : (setTally t x s).badParity = s.badParity := rfl
@[simp] theorem setTally_credits (t : Nat) (x : Tally) (s : State) : (setTally t x s).credits = s.credits := rfl
@[simp] theorem setTally_hubTargets (t : Nat) (x : Tally) (s : State) : (setTally t x s).hubTargets = s.hubTargets := rfl
@[simp] theorem setTally_waits (t : Nat) (x : Tally) (s : State) : (setTally t x s).waits = s.waits := rfl
@[simp] theorem setTally_tallyIn (t : Nat) (x : Tally) (s : State) : (setTally t x s).tallyIn = s.tallyIn := rfl
@[simp] theorem setTally_routers (t : Nat) (x : Tally) (s : State) : (setTally t x s).routers = s.routers := rfl
@[simp] theorem setTally_stk (t : Nat) (x : Tally) (s : State) : (setTally t x s).stk = s.stk := rfl
@[simp] theorem setTally_stackMem (t : Nat) (x : Tally) (s : State) : (setTally t x s).stackMem = s.stackMem := rfl
@[simp] theorem setTally_stackKey (t : Nat) (x : Tally) (s : State) : (setTally t x s).stackKey = s.stackKey := rfl
@[simp] theorem setTally_stackCrc (t : Nat) (x : Tally) (s : State) : (setTally t x s).stackCrc = s.stackCrc := rfl
@[simp] theorem setTally_notices (t : Nat) (x : Tally) (s : State) : (setTally t x s).notices = s.notices := rfl
@[simp] theorem setTally_fieldUnits (t : Nat) (x : Tally) (s : State) : (setTally t x s).fieldUnits = s.fieldUnits := rfl
@[simp] theorem setTally_repair (t : Nat) (x : Tally) (s : State) : (setTally t x s).repair = s.repair := rfl
@[simp] theorem setTally_owner (t : Nat) (x : Tally) (s : State) : (setTally t x s).owner = s.owner := rfl
@[simp] theorem setTally_tallyOwner (t : Nat) (x : Tally) (s : State) : (setTally t x s).tallyOwner = s.tallyOwner := rfl
@[simp] theorem setTally_debugModels (t : Nat) (x : Tally) (s : State) : (setTally t x s).debugModels = s.debugModels := rfl
@[simp] theorem setTally_linkIn (t : Nat) (x : Tally) (s : State) : (setTally t x s).linkIn = s.linkIn := rfl
@[simp] theorem setTally_weights (t : Nat) (x : Tally) (s : State) : (setTally t x s).weights = s.weights := rfl
@[simp] theorem setTally_serving (t : Nat) (x : Tally) (s : State) : (setTally t x s).serving = s.serving := rfl
@[simp] theorem setTally_host (t : Nat) (x : Tally) (s : State) : (setTally t x s).host = s.host := rfl
@[simp] theorem setTally_exch (t : Nat) (x : Tally) (s : State) : (setTally t x s).exch = s.exch := rfl
@[simp] theorem setTally_links (t : Nat) (x : Tally) (s : State) : (setTally t x s).links = s.links := rfl
@[simp] theorem setTally_clReqs (t : Nat) (x : Tally) (s : State) : (setTally t x s).clReqs = s.clReqs := rfl
@[simp] theorem setTally_clIns (t : Nat) (x : Tally) (s : State) : (setTally t x s).clIns = s.clIns := rfl
@[simp] theorem setTally_nextTag (t : Nat) (x : Tally) (s : State) : (setTally t x s).nextTag = s.nextTag := rfl
@[simp] theorem setTally_clFlushed (t : Nat) (x : Tally) (s : State) : (setTally t x s).clFlushed = s.clFlushed := rfl
@[simp] theorem setTally_leaving (t : Nat) (x : Tally) (s : State) : (setTally t x s).leaving = s.leaving := rfl
@[simp] theorem setTally_routes (t : Nat) (x : Tally) (s : State) : (setTally t x s).routes = s.routes := rfl
@[simp] theorem setTally_sec (t : Nat) (x : Tally) (s : State) : (setTally t x s).sec = s.sec := rfl
@[simp] theorem setTally_fields (t : Nat) (x : Tally) (s : State) : (setTally t x s).fields = s.fields := rfl
@[simp] theorem setTally_pm (t : Nat) (x : Tally) (s : State) : (setTally t x s).pm = s.pm := rfl
@[simp] theorem setTally_convs (t : Nat) (x : Tally) (s : State) : (setTally t x s).convs = s.convs := rfl
@[simp] theorem setTally_recov (t : Nat) (x : Tally) (s : State) : (setTally t x s).recov = s.recov := rfl
@[simp] theorem setTally_boot (t : Nat) (x : Tally) (s : State) : (setTally t x s).boot = s.boot := rfl
@[simp] theorem setTally_sp (t : Nat) (x : Tally) (s : State) : (setTally t x s).sp = s.sp := rfl
@[simp] theorem setTally_tallies (t : Nat) (x : Tally) (s : State) : (setTally t x s).tallies = mset ⟨0, 0⟩ s.tallies t x := rfl

/-! ### setStack -/

@[simp] theorem setStack_pending (n : Nat) (x : Stack) (s : State) : (setStack n x s).pending = s.pending := rfl
@[simp] theorem setStack_live (n : Nat) (x : Stack) (s : State) : (setStack n x s).live = s.live := rfl
@[simp] theorem setStack_shadow (n : Nat) (x : Stack) (s : State) : (setStack n x s).shadow = s.shadow := rfl
@[simp] theorem setStack_busOut (n : Nat) (x : Stack) (s : State) : (setStack n x s).busOut = s.busOut := rfl
@[simp] theorem setStack_out (n : Nat) (x : Stack) (s : State) : (setStack n x s).out = s.out := rfl
@[simp] theorem setStack_freeCount (n : Nat) (x : Stack) (s : State) : (setStack n x s).freeCount = s.freeCount := rfl
@[simp] theorem setStack_beat (n : Nat) (x : Stack) (s : State) : (setStack n x s).beat = s.beat := rfl
@[simp] theorem setStack_groups (n : Nat) (x : Stack) (s : State) : (setStack n x s).groups = s.groups := rfl
@[simp] theorem setStack_groupSel (n : Nat) (x : Stack) (s : State) : (setStack n x s).groupSel = s.groupSel := rfl
@[simp] theorem setStack_cores (n : Nat) (x : Stack) (s : State) : (setStack n x s).cores = s.cores := rfl
@[simp] theorem setStack_mem (n : Nat) (x : Stack) (s : State) : (setStack n x s).mem = s.mem := rfl
@[simp] theorem setStack_badParity (n : Nat) (x : Stack) (s : State) : (setStack n x s).badParity = s.badParity := rfl
@[simp] theorem setStack_credits (n : Nat) (x : Stack) (s : State) : (setStack n x s).credits = s.credits := rfl
@[simp] theorem setStack_tallies (n : Nat) (x : Stack) (s : State) : (setStack n x s).tallies = s.tallies := rfl
@[simp] theorem setStack_hubTargets (n : Nat) (x : Stack) (s : State) : (setStack n x s).hubTargets = s.hubTargets := rfl
@[simp] theorem setStack_waits (n : Nat) (x : Stack) (s : State) : (setStack n x s).waits = s.waits := rfl
@[simp] theorem setStack_tallyIn (n : Nat) (x : Stack) (s : State) : (setStack n x s).tallyIn = s.tallyIn := rfl
@[simp] theorem setStack_routers (n : Nat) (x : Stack) (s : State) : (setStack n x s).routers = s.routers := rfl
@[simp] theorem setStack_stackMem (n : Nat) (x : Stack) (s : State) : (setStack n x s).stackMem = s.stackMem := rfl
@[simp] theorem setStack_stackKey (n : Nat) (x : Stack) (s : State) : (setStack n x s).stackKey = s.stackKey := rfl
@[simp] theorem setStack_stackCrc (n : Nat) (x : Stack) (s : State) : (setStack n x s).stackCrc = s.stackCrc := rfl
@[simp] theorem setStack_notices (n : Nat) (x : Stack) (s : State) : (setStack n x s).notices = s.notices := rfl
@[simp] theorem setStack_fieldUnits (n : Nat) (x : Stack) (s : State) : (setStack n x s).fieldUnits = s.fieldUnits := rfl
@[simp] theorem setStack_repair (n : Nat) (x : Stack) (s : State) : (setStack n x s).repair = s.repair := rfl
@[simp] theorem setStack_owner (n : Nat) (x : Stack) (s : State) : (setStack n x s).owner = s.owner := rfl
@[simp] theorem setStack_tallyOwner (n : Nat) (x : Stack) (s : State) : (setStack n x s).tallyOwner = s.tallyOwner := rfl
@[simp] theorem setStack_debugModels (n : Nat) (x : Stack) (s : State) : (setStack n x s).debugModels = s.debugModels := rfl
@[simp] theorem setStack_linkIn (n : Nat) (x : Stack) (s : State) : (setStack n x s).linkIn = s.linkIn := rfl
@[simp] theorem setStack_weights (n : Nat) (x : Stack) (s : State) : (setStack n x s).weights = s.weights := rfl
@[simp] theorem setStack_serving (n : Nat) (x : Stack) (s : State) : (setStack n x s).serving = s.serving := rfl
@[simp] theorem setStack_host (n : Nat) (x : Stack) (s : State) : (setStack n x s).host = s.host := rfl
@[simp] theorem setStack_exch (n : Nat) (x : Stack) (s : State) : (setStack n x s).exch = s.exch := rfl
@[simp] theorem setStack_links (n : Nat) (x : Stack) (s : State) : (setStack n x s).links = s.links := rfl
@[simp] theorem setStack_clReqs (n : Nat) (x : Stack) (s : State) : (setStack n x s).clReqs = s.clReqs := rfl
@[simp] theorem setStack_clIns (n : Nat) (x : Stack) (s : State) : (setStack n x s).clIns = s.clIns := rfl
@[simp] theorem setStack_nextTag (n : Nat) (x : Stack) (s : State) : (setStack n x s).nextTag = s.nextTag := rfl
@[simp] theorem setStack_clFlushed (n : Nat) (x : Stack) (s : State) : (setStack n x s).clFlushed = s.clFlushed := rfl
@[simp] theorem setStack_leaving (n : Nat) (x : Stack) (s : State) : (setStack n x s).leaving = s.leaving := rfl
@[simp] theorem setStack_routes (n : Nat) (x : Stack) (s : State) : (setStack n x s).routes = s.routes := rfl
@[simp] theorem setStack_sec (n : Nat) (x : Stack) (s : State) : (setStack n x s).sec = s.sec := rfl
@[simp] theorem setStack_fields (n : Nat) (x : Stack) (s : State) : (setStack n x s).fields = s.fields := rfl
@[simp] theorem setStack_pm (n : Nat) (x : Stack) (s : State) : (setStack n x s).pm = s.pm := rfl
@[simp] theorem setStack_convs (n : Nat) (x : Stack) (s : State) : (setStack n x s).convs = s.convs := rfl
@[simp] theorem setStack_recov (n : Nat) (x : Stack) (s : State) : (setStack n x s).recov = s.recov := rfl
@[simp] theorem setStack_boot (n : Nat) (x : Stack) (s : State) : (setStack n x s).boot = s.boot := rfl
@[simp] theorem setStack_sp (n : Nat) (x : Stack) (s : State) : (setStack n x s).sp = s.sp := rfl
@[simp] theorem setStack_stk (n : Nat) (x : Stack) (s : State) : (setStack n x s).stk = mset .reset s.stk n x := rfl

/-! ### setLink -/

@[simp] theorem setLink_pending (n : Nat) (x : Link) (s : State) : (setLink n x s).pending = s.pending := rfl
@[simp] theorem setLink_live (n : Nat) (x : Link) (s : State) : (setLink n x s).live = s.live := rfl
@[simp] theorem setLink_shadow (n : Nat) (x : Link) (s : State) : (setLink n x s).shadow = s.shadow := rfl
@[simp] theorem setLink_busOut (n : Nat) (x : Link) (s : State) : (setLink n x s).busOut = s.busOut := rfl
@[simp] theorem setLink_out (n : Nat) (x : Link) (s : State) : (setLink n x s).out = s.out := rfl
@[simp] theorem setLink_freeCount (n : Nat) (x : Link) (s : State) : (setLink n x s).freeCount = s.freeCount := rfl
@[simp] theorem setLink_beat (n : Nat) (x : Link) (s : State) : (setLink n x s).beat = s.beat := rfl
@[simp] theorem setLink_groups (n : Nat) (x : Link) (s : State) : (setLink n x s).groups = s.groups := rfl
@[simp] theorem setLink_groupSel (n : Nat) (x : Link) (s : State) : (setLink n x s).groupSel = s.groupSel := rfl
@[simp] theorem setLink_cores (n : Nat) (x : Link) (s : State) : (setLink n x s).cores = s.cores := rfl
@[simp] theorem setLink_mem (n : Nat) (x : Link) (s : State) : (setLink n x s).mem = s.mem := rfl
@[simp] theorem setLink_badParity (n : Nat) (x : Link) (s : State) : (setLink n x s).badParity = s.badParity := rfl
@[simp] theorem setLink_credits (n : Nat) (x : Link) (s : State) : (setLink n x s).credits = s.credits := rfl
@[simp] theorem setLink_tallies (n : Nat) (x : Link) (s : State) : (setLink n x s).tallies = s.tallies := rfl
@[simp] theorem setLink_hubTargets (n : Nat) (x : Link) (s : State) : (setLink n x s).hubTargets = s.hubTargets := rfl
@[simp] theorem setLink_waits (n : Nat) (x : Link) (s : State) : (setLink n x s).waits = s.waits := rfl
@[simp] theorem setLink_tallyIn (n : Nat) (x : Link) (s : State) : (setLink n x s).tallyIn = s.tallyIn := rfl
@[simp] theorem setLink_routers (n : Nat) (x : Link) (s : State) : (setLink n x s).routers = s.routers := rfl
@[simp] theorem setLink_stk (n : Nat) (x : Link) (s : State) : (setLink n x s).stk = s.stk := rfl
@[simp] theorem setLink_stackMem (n : Nat) (x : Link) (s : State) : (setLink n x s).stackMem = s.stackMem := rfl
@[simp] theorem setLink_stackKey (n : Nat) (x : Link) (s : State) : (setLink n x s).stackKey = s.stackKey := rfl
@[simp] theorem setLink_stackCrc (n : Nat) (x : Link) (s : State) : (setLink n x s).stackCrc = s.stackCrc := rfl
@[simp] theorem setLink_notices (n : Nat) (x : Link) (s : State) : (setLink n x s).notices = s.notices := rfl
@[simp] theorem setLink_fieldUnits (n : Nat) (x : Link) (s : State) : (setLink n x s).fieldUnits = s.fieldUnits := rfl
@[simp] theorem setLink_repair (n : Nat) (x : Link) (s : State) : (setLink n x s).repair = s.repair := rfl
@[simp] theorem setLink_owner (n : Nat) (x : Link) (s : State) : (setLink n x s).owner = s.owner := rfl
@[simp] theorem setLink_tallyOwner (n : Nat) (x : Link) (s : State) : (setLink n x s).tallyOwner = s.tallyOwner := rfl
@[simp] theorem setLink_debugModels (n : Nat) (x : Link) (s : State) : (setLink n x s).debugModels = s.debugModels := rfl
@[simp] theorem setLink_linkIn (n : Nat) (x : Link) (s : State) : (setLink n x s).linkIn = s.linkIn := rfl
@[simp] theorem setLink_weights (n : Nat) (x : Link) (s : State) : (setLink n x s).weights = s.weights := rfl
@[simp] theorem setLink_serving (n : Nat) (x : Link) (s : State) : (setLink n x s).serving = s.serving := rfl
@[simp] theorem setLink_host (n : Nat) (x : Link) (s : State) : (setLink n x s).host = s.host := rfl
@[simp] theorem setLink_exch (n : Nat) (x : Link) (s : State) : (setLink n x s).exch = s.exch := rfl
@[simp] theorem setLink_clReqs (n : Nat) (x : Link) (s : State) : (setLink n x s).clReqs = s.clReqs := rfl
@[simp] theorem setLink_clIns (n : Nat) (x : Link) (s : State) : (setLink n x s).clIns = s.clIns := rfl
@[simp] theorem setLink_nextTag (n : Nat) (x : Link) (s : State) : (setLink n x s).nextTag = s.nextTag := rfl
@[simp] theorem setLink_clFlushed (n : Nat) (x : Link) (s : State) : (setLink n x s).clFlushed = s.clFlushed := rfl
@[simp] theorem setLink_leaving (n : Nat) (x : Link) (s : State) : (setLink n x s).leaving = s.leaving := rfl
@[simp] theorem setLink_routes (n : Nat) (x : Link) (s : State) : (setLink n x s).routes = s.routes := rfl
@[simp] theorem setLink_sec (n : Nat) (x : Link) (s : State) : (setLink n x s).sec = s.sec := rfl
@[simp] theorem setLink_fields (n : Nat) (x : Link) (s : State) : (setLink n x s).fields = s.fields := rfl
@[simp] theorem setLink_pm (n : Nat) (x : Link) (s : State) : (setLink n x s).pm = s.pm := rfl
@[simp] theorem setLink_convs (n : Nat) (x : Link) (s : State) : (setLink n x s).convs = s.convs := rfl
@[simp] theorem setLink_recov (n : Nat) (x : Link) (s : State) : (setLink n x s).recov = s.recov := rfl
@[simp] theorem setLink_boot (n : Nat) (x : Link) (s : State) : (setLink n x s).boot = s.boot := rfl
@[simp] theorem setLink_sp (n : Nat) (x : Link) (s : State) : (setLink n x s).sp = s.sp := rfl
@[simp] theorem setLink_links (n : Nat) (x : Link) (s : State) : (setLink n x s).links = mset .reset s.links n x := rfl

/-! ### setConv -/

@[simp] theorem setConv_pending (n : Nat) (x : Conv) (s : State) : (setConv n x s).pending = s.pending := rfl
@[simp] theorem setConv_live (n : Nat) (x : Conv) (s : State) : (setConv n x s).live = s.live := rfl
@[simp] theorem setConv_shadow (n : Nat) (x : Conv) (s : State) : (setConv n x s).shadow = s.shadow := rfl
@[simp] theorem setConv_busOut (n : Nat) (x : Conv) (s : State) : (setConv n x s).busOut = s.busOut := rfl
@[simp] theorem setConv_out (n : Nat) (x : Conv) (s : State) : (setConv n x s).out = s.out := rfl
@[simp] theorem setConv_freeCount (n : Nat) (x : Conv) (s : State) : (setConv n x s).freeCount = s.freeCount := rfl
@[simp] theorem setConv_beat (n : Nat) (x : Conv) (s : State) : (setConv n x s).beat = s.beat := rfl
@[simp] theorem setConv_groups (n : Nat) (x : Conv) (s : State) : (setConv n x s).groups = s.groups := rfl
@[simp] theorem setConv_groupSel (n : Nat) (x : Conv) (s : State) : (setConv n x s).groupSel = s.groupSel := rfl
@[simp] theorem setConv_cores (n : Nat) (x : Conv) (s : State) : (setConv n x s).cores = s.cores := rfl
@[simp] theorem setConv_mem (n : Nat) (x : Conv) (s : State) : (setConv n x s).mem = s.mem := rfl
@[simp] theorem setConv_badParity (n : Nat) (x : Conv) (s : State) : (setConv n x s).badParity = s.badParity := rfl
@[simp] theorem setConv_credits (n : Nat) (x : Conv) (s : State) : (setConv n x s).credits = s.credits := rfl
@[simp] theorem setConv_tallies (n : Nat) (x : Conv) (s : State) : (setConv n x s).tallies = s.tallies := rfl
@[simp] theorem setConv_hubTargets (n : Nat) (x : Conv) (s : State) : (setConv n x s).hubTargets = s.hubTargets := rfl
@[simp] theorem setConv_waits (n : Nat) (x : Conv) (s : State) : (setConv n x s).waits = s.waits := rfl
@[simp] theorem setConv_tallyIn (n : Nat) (x : Conv) (s : State) : (setConv n x s).tallyIn = s.tallyIn := rfl
@[simp] theorem setConv_routers (n : Nat) (x : Conv) (s : State) : (setConv n x s).routers = s.routers := rfl
@[simp] theorem setConv_stk (n : Nat) (x : Conv) (s : State) : (setConv n x s).stk = s.stk := rfl
@[simp] theorem setConv_stackMem (n : Nat) (x : Conv) (s : State) : (setConv n x s).stackMem = s.stackMem := rfl
@[simp] theorem setConv_stackKey (n : Nat) (x : Conv) (s : State) : (setConv n x s).stackKey = s.stackKey := rfl
@[simp] theorem setConv_stackCrc (n : Nat) (x : Conv) (s : State) : (setConv n x s).stackCrc = s.stackCrc := rfl
@[simp] theorem setConv_notices (n : Nat) (x : Conv) (s : State) : (setConv n x s).notices = s.notices := rfl
@[simp] theorem setConv_fieldUnits (n : Nat) (x : Conv) (s : State) : (setConv n x s).fieldUnits = s.fieldUnits := rfl
@[simp] theorem setConv_repair (n : Nat) (x : Conv) (s : State) : (setConv n x s).repair = s.repair := rfl
@[simp] theorem setConv_owner (n : Nat) (x : Conv) (s : State) : (setConv n x s).owner = s.owner := rfl
@[simp] theorem setConv_tallyOwner (n : Nat) (x : Conv) (s : State) : (setConv n x s).tallyOwner = s.tallyOwner := rfl
@[simp] theorem setConv_debugModels (n : Nat) (x : Conv) (s : State) : (setConv n x s).debugModels = s.debugModels := rfl
@[simp] theorem setConv_linkIn (n : Nat) (x : Conv) (s : State) : (setConv n x s).linkIn = s.linkIn := rfl
@[simp] theorem setConv_weights (n : Nat) (x : Conv) (s : State) : (setConv n x s).weights = s.weights := rfl
@[simp] theorem setConv_serving (n : Nat) (x : Conv) (s : State) : (setConv n x s).serving = s.serving := rfl
@[simp] theorem setConv_host (n : Nat) (x : Conv) (s : State) : (setConv n x s).host = s.host := rfl
@[simp] theorem setConv_exch (n : Nat) (x : Conv) (s : State) : (setConv n x s).exch = s.exch := rfl
@[simp] theorem setConv_links (n : Nat) (x : Conv) (s : State) : (setConv n x s).links = s.links := rfl
@[simp] theorem setConv_clReqs (n : Nat) (x : Conv) (s : State) : (setConv n x s).clReqs = s.clReqs := rfl
@[simp] theorem setConv_clIns (n : Nat) (x : Conv) (s : State) : (setConv n x s).clIns = s.clIns := rfl
@[simp] theorem setConv_nextTag (n : Nat) (x : Conv) (s : State) : (setConv n x s).nextTag = s.nextTag := rfl
@[simp] theorem setConv_clFlushed (n : Nat) (x : Conv) (s : State) : (setConv n x s).clFlushed = s.clFlushed := rfl
@[simp] theorem setConv_leaving (n : Nat) (x : Conv) (s : State) : (setConv n x s).leaving = s.leaving := rfl
@[simp] theorem setConv_routes (n : Nat) (x : Conv) (s : State) : (setConv n x s).routes = s.routes := rfl
@[simp] theorem setConv_sec (n : Nat) (x : Conv) (s : State) : (setConv n x s).sec = s.sec := rfl
@[simp] theorem setConv_fields (n : Nat) (x : Conv) (s : State) : (setConv n x s).fields = s.fields := rfl
@[simp] theorem setConv_pm (n : Nat) (x : Conv) (s : State) : (setConv n x s).pm = s.pm := rfl
@[simp] theorem setConv_recov (n : Nat) (x : Conv) (s : State) : (setConv n x s).recov = s.recov := rfl
@[simp] theorem setConv_boot (n : Nat) (x : Conv) (s : State) : (setConv n x s).boot = s.boot := rfl
@[simp] theorem setConv_sp (n : Nat) (x : Conv) (s : State) : (setConv n x s).sp = s.sp := rfl
@[simp] theorem setConv_convs (n : Nat) (x : Conv) (s : State) : (setConv n x s).convs = mset .reset s.convs n x := rfl

/-! ### setField -/

@[simp] theorem setField_pending (f : Nat) (x : FieldPower) (s : State) : (setField f x s).pending = s.pending := rfl
@[simp] theorem setField_live (f : Nat) (x : FieldPower) (s : State) : (setField f x s).live = s.live := rfl
@[simp] theorem setField_shadow (f : Nat) (x : FieldPower) (s : State) : (setField f x s).shadow = s.shadow := rfl
@[simp] theorem setField_busOut (f : Nat) (x : FieldPower) (s : State) : (setField f x s).busOut = s.busOut := rfl
@[simp] theorem setField_out (f : Nat) (x : FieldPower) (s : State) : (setField f x s).out = s.out := rfl
@[simp] theorem setField_freeCount (f : Nat) (x : FieldPower) (s : State) : (setField f x s).freeCount = s.freeCount := rfl
@[simp] theorem setField_beat (f : Nat) (x : FieldPower) (s : State) : (setField f x s).beat = s.beat := rfl
@[simp] theorem setField_groups (f : Nat) (x : FieldPower) (s : State) : (setField f x s).groups = s.groups := rfl
@[simp] theorem setField_groupSel (f : Nat) (x : FieldPower) (s : State) : (setField f x s).groupSel = s.groupSel := rfl
@[simp] theorem setField_cores (f : Nat) (x : FieldPower) (s : State) : (setField f x s).cores = s.cores := rfl
@[simp] theorem setField_mem (f : Nat) (x : FieldPower) (s : State) : (setField f x s).mem = s.mem := rfl
@[simp] theorem setField_badParity (f : Nat) (x : FieldPower) (s : State) : (setField f x s).badParity = s.badParity := rfl
@[simp] theorem setField_credits (f : Nat) (x : FieldPower) (s : State) : (setField f x s).credits = s.credits := rfl
@[simp] theorem setField_tallies (f : Nat) (x : FieldPower) (s : State) : (setField f x s).tallies = s.tallies := rfl
@[simp] theorem setField_hubTargets (f : Nat) (x : FieldPower) (s : State) : (setField f x s).hubTargets = s.hubTargets := rfl
@[simp] theorem setField_waits (f : Nat) (x : FieldPower) (s : State) : (setField f x s).waits = s.waits := rfl
@[simp] theorem setField_tallyIn (f : Nat) (x : FieldPower) (s : State) : (setField f x s).tallyIn = s.tallyIn := rfl
@[simp] theorem setField_routers (f : Nat) (x : FieldPower) (s : State) : (setField f x s).routers = s.routers := rfl
@[simp] theorem setField_stk (f : Nat) (x : FieldPower) (s : State) : (setField f x s).stk = s.stk := rfl
@[simp] theorem setField_stackMem (f : Nat) (x : FieldPower) (s : State) : (setField f x s).stackMem = s.stackMem := rfl
@[simp] theorem setField_stackKey (f : Nat) (x : FieldPower) (s : State) : (setField f x s).stackKey = s.stackKey := rfl
@[simp] theorem setField_stackCrc (f : Nat) (x : FieldPower) (s : State) : (setField f x s).stackCrc = s.stackCrc := rfl
@[simp] theorem setField_notices (f : Nat) (x : FieldPower) (s : State) : (setField f x s).notices = s.notices := rfl
@[simp] theorem setField_fieldUnits (f : Nat) (x : FieldPower) (s : State) : (setField f x s).fieldUnits = s.fieldUnits := rfl
@[simp] theorem setField_repair (f : Nat) (x : FieldPower) (s : State) : (setField f x s).repair = s.repair := rfl
@[simp] theorem setField_owner (f : Nat) (x : FieldPower) (s : State) : (setField f x s).owner = s.owner := rfl
@[simp] theorem setField_tallyOwner (f : Nat) (x : FieldPower) (s : State) : (setField f x s).tallyOwner = s.tallyOwner := rfl
@[simp] theorem setField_debugModels (f : Nat) (x : FieldPower) (s : State) : (setField f x s).debugModels = s.debugModels := rfl
@[simp] theorem setField_linkIn (f : Nat) (x : FieldPower) (s : State) : (setField f x s).linkIn = s.linkIn := rfl
@[simp] theorem setField_weights (f : Nat) (x : FieldPower) (s : State) : (setField f x s).weights = s.weights := rfl
@[simp] theorem setField_serving (f : Nat) (x : FieldPower) (s : State) : (setField f x s).serving = s.serving := rfl
@[simp] theorem setField_host (f : Nat) (x : FieldPower) (s : State) : (setField f x s).host = s.host := rfl
@[simp] theorem setField_exch (f : Nat) (x : FieldPower) (s : State) : (setField f x s).exch = s.exch := rfl
@[simp] theorem setField_links (f : Nat) (x : FieldPower) (s : State) : (setField f x s).links = s.links := rfl
@[simp] theorem setField_clReqs (f : Nat) (x : FieldPower) (s : State) : (setField f x s).clReqs = s.clReqs := rfl
@[simp] theorem setField_clIns (f : Nat) (x : FieldPower) (s : State) : (setField f x s).clIns = s.clIns := rfl
@[simp] theorem setField_nextTag (f : Nat) (x : FieldPower) (s : State) : (setField f x s).nextTag = s.nextTag := rfl
@[simp] theorem setField_clFlushed (f : Nat) (x : FieldPower) (s : State) : (setField f x s).clFlushed = s.clFlushed := rfl
@[simp] theorem setField_leaving (f : Nat) (x : FieldPower) (s : State) : (setField f x s).leaving = s.leaving := rfl
@[simp] theorem setField_routes (f : Nat) (x : FieldPower) (s : State) : (setField f x s).routes = s.routes := rfl
@[simp] theorem setField_sec (f : Nat) (x : FieldPower) (s : State) : (setField f x s).sec = s.sec := rfl
@[simp] theorem setField_pm (f : Nat) (x : FieldPower) (s : State) : (setField f x s).pm = s.pm := rfl
@[simp] theorem setField_convs (f : Nat) (x : FieldPower) (s : State) : (setField f x s).convs = s.convs := rfl
@[simp] theorem setField_recov (f : Nat) (x : FieldPower) (s : State) : (setField f x s).recov = s.recov := rfl
@[simp] theorem setField_boot (f : Nat) (x : FieldPower) (s : State) : (setField f x s).boot = s.boot := rfl
@[simp] theorem setField_sp (f : Nat) (x : FieldPower) (s : State) : (setField f x s).sp = s.sp := rfl
@[simp] theorem setField_fields (f : Nat) (x : FieldPower) (s : State) : (setField f x s).fields = mset .reset s.fields f x := rfl

/-! ### exchWrite -/

@[simp] theorem exchWrite_pending (a : Nat) (l : List Byte) (s : State) : (exchWrite a l s).pending = s.pending := rfl
@[simp] theorem exchWrite_live (a : Nat) (l : List Byte) (s : State) : (exchWrite a l s).live = s.live := rfl
@[simp] theorem exchWrite_shadow (a : Nat) (l : List Byte) (s : State) : (exchWrite a l s).shadow = s.shadow := rfl
@[simp] theorem exchWrite_busOut (a : Nat) (l : List Byte) (s : State) : (exchWrite a l s).busOut = s.busOut := rfl
@[simp] theorem exchWrite_out (a : Nat) (l : List Byte) (s : State) : (exchWrite a l s).out = s.out := rfl
@[simp] theorem exchWrite_freeCount (a : Nat) (l : List Byte) (s : State) : (exchWrite a l s).freeCount = s.freeCount := rfl
@[simp] theorem exchWrite_beat (a : Nat) (l : List Byte) (s : State) : (exchWrite a l s).beat = s.beat := rfl
@[simp] theorem exchWrite_groups (a : Nat) (l : List Byte) (s : State) : (exchWrite a l s).groups = s.groups := rfl
@[simp] theorem exchWrite_groupSel (a : Nat) (l : List Byte) (s : State) : (exchWrite a l s).groupSel = s.groupSel := rfl
@[simp] theorem exchWrite_cores (a : Nat) (l : List Byte) (s : State) : (exchWrite a l s).cores = s.cores := rfl
@[simp] theorem exchWrite_mem (a : Nat) (l : List Byte) (s : State) : (exchWrite a l s).mem = s.mem := rfl
@[simp] theorem exchWrite_badParity (a : Nat) (l : List Byte) (s : State) : (exchWrite a l s).badParity = s.badParity := rfl
@[simp] theorem exchWrite_credits (a : Nat) (l : List Byte) (s : State) : (exchWrite a l s).credits = s.credits := rfl
@[simp] theorem exchWrite_tallies (a : Nat) (l : List Byte) (s : State) : (exchWrite a l s).tallies = s.tallies := rfl
@[simp] theorem exchWrite_hubTargets (a : Nat) (l : List Byte) (s : State) : (exchWrite a l s).hubTargets = s.hubTargets := rfl
@[simp] theorem exchWrite_waits (a : Nat) (l : List Byte) (s : State) : (exchWrite a l s).waits = s.waits := rfl
@[simp] theorem exchWrite_tallyIn (a : Nat) (l : List Byte) (s : State) : (exchWrite a l s).tallyIn = s.tallyIn := rfl
@[simp] theorem exchWrite_routers (a : Nat) (l : List Byte) (s : State) : (exchWrite a l s).routers = s.routers := rfl
@[simp] theorem exchWrite_stk (a : Nat) (l : List Byte) (s : State) : (exchWrite a l s).stk = s.stk := rfl
@[simp] theorem exchWrite_stackMem (a : Nat) (l : List Byte) (s : State) : (exchWrite a l s).stackMem = s.stackMem := rfl
@[simp] theorem exchWrite_stackKey (a : Nat) (l : List Byte) (s : State) : (exchWrite a l s).stackKey = s.stackKey := rfl
@[simp] theorem exchWrite_stackCrc (a : Nat) (l : List Byte) (s : State) : (exchWrite a l s).stackCrc = s.stackCrc := rfl
@[simp] theorem exchWrite_notices (a : Nat) (l : List Byte) (s : State) : (exchWrite a l s).notices = s.notices := rfl
@[simp] theorem exchWrite_fieldUnits (a : Nat) (l : List Byte) (s : State) : (exchWrite a l s).fieldUnits = s.fieldUnits := rfl
@[simp] theorem exchWrite_repair (a : Nat) (l : List Byte) (s : State) : (exchWrite a l s).repair = s.repair := rfl
@[simp] theorem exchWrite_owner (a : Nat) (l : List Byte) (s : State) : (exchWrite a l s).owner = s.owner := rfl
@[simp] theorem exchWrite_tallyOwner (a : Nat) (l : List Byte) (s : State) : (exchWrite a l s).tallyOwner = s.tallyOwner := rfl
@[simp] theorem exchWrite_debugModels (a : Nat) (l : List Byte) (s : State) : (exchWrite a l s).debugModels = s.debugModels := rfl
@[simp] theorem exchWrite_linkIn (a : Nat) (l : List Byte) (s : State) : (exchWrite a l s).linkIn = s.linkIn := rfl
@[simp] theorem exchWrite_weights (a : Nat) (l : List Byte) (s : State) : (exchWrite a l s).weights = s.weights := rfl
@[simp] theorem exchWrite_serving (a : Nat) (l : List Byte) (s : State) : (exchWrite a l s).serving = s.serving := rfl
@[simp] theorem exchWrite_host (a : Nat) (l : List Byte) (s : State) : (exchWrite a l s).host = s.host := rfl
@[simp] theorem exchWrite_links (a : Nat) (l : List Byte) (s : State) : (exchWrite a l s).links = s.links := rfl
@[simp] theorem exchWrite_clReqs (a : Nat) (l : List Byte) (s : State) : (exchWrite a l s).clReqs = s.clReqs := rfl
@[simp] theorem exchWrite_clIns (a : Nat) (l : List Byte) (s : State) : (exchWrite a l s).clIns = s.clIns := rfl
@[simp] theorem exchWrite_nextTag (a : Nat) (l : List Byte) (s : State) : (exchWrite a l s).nextTag = s.nextTag := rfl
@[simp] theorem exchWrite_clFlushed (a : Nat) (l : List Byte) (s : State) : (exchWrite a l s).clFlushed = s.clFlushed := rfl
@[simp] theorem exchWrite_leaving (a : Nat) (l : List Byte) (s : State) : (exchWrite a l s).leaving = s.leaving := rfl
@[simp] theorem exchWrite_routes (a : Nat) (l : List Byte) (s : State) : (exchWrite a l s).routes = s.routes := rfl
@[simp] theorem exchWrite_sec (a : Nat) (l : List Byte) (s : State) : (exchWrite a l s).sec = s.sec := rfl
@[simp] theorem exchWrite_fields (a : Nat) (l : List Byte) (s : State) : (exchWrite a l s).fields = s.fields := rfl
@[simp] theorem exchWrite_pm (a : Nat) (l : List Byte) (s : State) : (exchWrite a l s).pm = s.pm := rfl
@[simp] theorem exchWrite_convs (a : Nat) (l : List Byte) (s : State) : (exchWrite a l s).convs = s.convs := rfl
@[simp] theorem exchWrite_recov (a : Nat) (l : List Byte) (s : State) : (exchWrite a l s).recov = s.recov := rfl
@[simp] theorem exchWrite_boot (a : Nat) (l : List Byte) (s : State) : (exchWrite a l s).boot = s.boot := rfl
@[simp] theorem exchWrite_sp (a : Nat) (l : List Byte) (s : State) : (exchWrite a l s).sp = s.sp := rfl
@[simp] theorem exchWrite_exch (a : Nat) (l : List Byte) (s : State) : (exchWrite a l s).exch = writeBytes s.exch a l := rfl

/-! ### emit -/

@[simp] theorem emit_pending (o : Output) (s : State) : (emit o s).pending = s.pending := rfl
@[simp] theorem emit_live (o : Output) (s : State) : (emit o s).live = s.live := rfl
@[simp] theorem emit_shadow (o : Output) (s : State) : (emit o s).shadow = s.shadow := rfl
@[simp] theorem emit_busOut (o : Output) (s : State) : (emit o s).busOut = s.busOut := rfl
@[simp] theorem emit_freeCount (o : Output) (s : State) : (emit o s).freeCount = s.freeCount := rfl
@[simp] theorem emit_beat (o : Output) (s : State) : (emit o s).beat = s.beat := rfl
@[simp] theorem emit_groups (o : Output) (s : State) : (emit o s).groups = s.groups := rfl
@[simp] theorem emit_groupSel (o : Output) (s : State) : (emit o s).groupSel = s.groupSel := rfl
@[simp] theorem emit_cores (o : Output) (s : State) : (emit o s).cores = s.cores := rfl
@[simp] theorem emit_mem (o : Output) (s : State) : (emit o s).mem = s.mem := rfl
@[simp] theorem emit_badParity (o : Output) (s : State) : (emit o s).badParity = s.badParity := rfl
@[simp] theorem emit_credits (o : Output) (s : State) : (emit o s).credits = s.credits := rfl
@[simp] theorem emit_tallies (o : Output) (s : State) : (emit o s).tallies = s.tallies := rfl
@[simp] theorem emit_hubTargets (o : Output) (s : State) : (emit o s).hubTargets = s.hubTargets := rfl
@[simp] theorem emit_waits (o : Output) (s : State) : (emit o s).waits = s.waits := rfl
@[simp] theorem emit_tallyIn (o : Output) (s : State) : (emit o s).tallyIn = s.tallyIn := rfl
@[simp] theorem emit_routers (o : Output) (s : State) : (emit o s).routers = s.routers := rfl
@[simp] theorem emit_stk (o : Output) (s : State) : (emit o s).stk = s.stk := rfl
@[simp] theorem emit_stackMem (o : Output) (s : State) : (emit o s).stackMem = s.stackMem := rfl
@[simp] theorem emit_stackKey (o : Output) (s : State) : (emit o s).stackKey = s.stackKey := rfl
@[simp] theorem emit_stackCrc (o : Output) (s : State) : (emit o s).stackCrc = s.stackCrc := rfl
@[simp] theorem emit_notices (o : Output) (s : State) : (emit o s).notices = s.notices := rfl
@[simp] theorem emit_fieldUnits (o : Output) (s : State) : (emit o s).fieldUnits = s.fieldUnits := rfl
@[simp] theorem emit_repair (o : Output) (s : State) : (emit o s).repair = s.repair := rfl
@[simp] theorem emit_owner (o : Output) (s : State) : (emit o s).owner = s.owner := rfl
@[simp] theorem emit_tallyOwner (o : Output) (s : State) : (emit o s).tallyOwner = s.tallyOwner := rfl
@[simp] theorem emit_debugModels (o : Output) (s : State) : (emit o s).debugModels = s.debugModels := rfl
@[simp] theorem emit_linkIn (o : Output) (s : State) : (emit o s).linkIn = s.linkIn := rfl
@[simp] theorem emit_weights (o : Output) (s : State) : (emit o s).weights = s.weights := rfl
@[simp] theorem emit_serving (o : Output) (s : State) : (emit o s).serving = s.serving := rfl
@[simp] theorem emit_host (o : Output) (s : State) : (emit o s).host = s.host := rfl
@[simp] theorem emit_exch (o : Output) (s : State) : (emit o s).exch = s.exch := rfl
@[simp] theorem emit_links (o : Output) (s : State) : (emit o s).links = s.links := rfl
@[simp] theorem emit_clReqs (o : Output) (s : State) : (emit o s).clReqs = s.clReqs := rfl
@[simp] theorem emit_clIns (o : Output) (s : State) : (emit o s).clIns = s.clIns := rfl
@[simp] theorem emit_nextTag (o : Output) (s : State) : (emit o s).nextTag = s.nextTag := rfl
@[simp] theorem emit_clFlushed (o : Output) (s : State) : (emit o s).clFlushed = s.clFlushed := rfl
@[simp] theorem emit_leaving (o : Output) (s : State) : (emit o s).leaving = s.leaving := rfl
@[simp] theorem emit_routes (o : Output) (s : State) : (emit o s).routes = s.routes := rfl
@[simp] theorem emit_sec (o : Output) (s : State) : (emit o s).sec = s.sec := rfl
@[simp] theorem emit_fields (o : Output) (s : State) : (emit o s).fields = s.fields := rfl
@[simp] theorem emit_pm (o : Output) (s : State) : (emit o s).pm = s.pm := rfl
@[simp] theorem emit_convs (o : Output) (s : State) : (emit o s).convs = s.convs := rfl
@[simp] theorem emit_recov (o : Output) (s : State) : (emit o s).recov = s.recov := rfl
@[simp] theorem emit_boot (o : Output) (s : State) : (emit o s).boot = s.boot := rfl
@[simp] theorem emit_sp (o : Output) (s : State) : (emit o s).sp = s.sp := rfl
@[simp] theorem emit_out (o : Output) (s : State) : (emit o s).out = s.out ++ [o] := rfl

/-! ### report -/

@[simp] theorem report_pending (c : Code) (kind unit : Nat) (s : State) : (report c kind unit s).pending = s.pending := rfl
@[simp] theorem report_live (c : Code) (kind unit : Nat) (s : State) : (report c kind unit s).live = s.live := rfl
@[simp] theorem report_shadow (c : Code) (kind unit : Nat) (s : State) : (report c kind unit s).shadow = s.shadow := rfl
@[simp] theorem report_busOut (c : Code) (kind unit : Nat) (s : State) : (report c kind unit s).busOut = s.busOut := rfl
@[simp] theorem report_out (c : Code) (kind unit : Nat) (s : State) : (report c kind unit s).out = s.out := rfl
@[simp] theorem report_freeCount (c : Code) (kind unit : Nat) (s : State) : (report c kind unit s).freeCount = s.freeCount := rfl
@[simp] theorem report_beat (c : Code) (kind unit : Nat) (s : State) : (report c kind unit s).beat = s.beat := rfl
@[simp] theorem report_groups (c : Code) (kind unit : Nat) (s : State) : (report c kind unit s).groups = s.groups := rfl
@[simp] theorem report_groupSel (c : Code) (kind unit : Nat) (s : State) : (report c kind unit s).groupSel = s.groupSel := rfl
@[simp] theorem report_cores (c : Code) (kind unit : Nat) (s : State) : (report c kind unit s).cores = s.cores := rfl
@[simp] theorem report_mem (c : Code) (kind unit : Nat) (s : State) : (report c kind unit s).mem = s.mem := rfl
@[simp] theorem report_badParity (c : Code) (kind unit : Nat) (s : State) : (report c kind unit s).badParity = s.badParity := rfl
@[simp] theorem report_credits (c : Code) (kind unit : Nat) (s : State) : (report c kind unit s).credits = s.credits := rfl
@[simp] theorem report_tallies (c : Code) (kind unit : Nat) (s : State) : (report c kind unit s).tallies = s.tallies := rfl
@[simp] theorem report_hubTargets (c : Code) (kind unit : Nat) (s : State) : (report c kind unit s).hubTargets = s.hubTargets := rfl
@[simp] theorem report_waits (c : Code) (kind unit : Nat) (s : State) : (report c kind unit s).waits = s.waits := rfl
@[simp] theorem report_tallyIn (c : Code) (kind unit : Nat) (s : State) : (report c kind unit s).tallyIn = s.tallyIn := rfl
@[simp] theorem report_routers (c : Code) (kind unit : Nat) (s : State) : (report c kind unit s).routers = s.routers := rfl
@[simp] theorem report_stk (c : Code) (kind unit : Nat) (s : State) : (report c kind unit s).stk = s.stk := rfl
@[simp] theorem report_stackMem (c : Code) (kind unit : Nat) (s : State) : (report c kind unit s).stackMem = s.stackMem := rfl
@[simp] theorem report_stackKey (c : Code) (kind unit : Nat) (s : State) : (report c kind unit s).stackKey = s.stackKey := rfl
@[simp] theorem report_stackCrc (c : Code) (kind unit : Nat) (s : State) : (report c kind unit s).stackCrc = s.stackCrc := rfl
@[simp] theorem report_notices (c : Code) (kind unit : Nat) (s : State) : (report c kind unit s).notices = s.notices := rfl
@[simp] theorem report_fieldUnits (c : Code) (kind unit : Nat) (s : State) : (report c kind unit s).fieldUnits = s.fieldUnits := rfl
@[simp] theorem report_repair (c : Code) (kind unit : Nat) (s : State) : (report c kind unit s).repair = s.repair := rfl
@[simp] theorem report_owner (c : Code) (kind unit : Nat) (s : State) : (report c kind unit s).owner = s.owner := rfl
@[simp] theorem report_tallyOwner (c : Code) (kind unit : Nat) (s : State) : (report c kind unit s).tallyOwner = s.tallyOwner := rfl
@[simp] theorem report_debugModels (c : Code) (kind unit : Nat) (s : State) : (report c kind unit s).debugModels = s.debugModels := rfl
@[simp] theorem report_linkIn (c : Code) (kind unit : Nat) (s : State) : (report c kind unit s).linkIn = s.linkIn := rfl
@[simp] theorem report_weights (c : Code) (kind unit : Nat) (s : State) : (report c kind unit s).weights = s.weights := rfl
@[simp] theorem report_serving (c : Code) (kind unit : Nat) (s : State) : (report c kind unit s).serving = s.serving := rfl
@[simp] theorem report_host (c : Code) (kind unit : Nat) (s : State) : (report c kind unit s).host = s.host := rfl
@[simp] theorem report_exch (c : Code) (kind unit : Nat) (s : State) : (report c kind unit s).exch = s.exch := rfl
@[simp] theorem report_links (c : Code) (kind unit : Nat) (s : State) : (report c kind unit s).links = s.links := rfl
@[simp] theorem report_clReqs (c : Code) (kind unit : Nat) (s : State) : (report c kind unit s).clReqs = s.clReqs := rfl
@[simp] theorem report_clIns (c : Code) (kind unit : Nat) (s : State) : (report c kind unit s).clIns = s.clIns := rfl
@[simp] theorem report_nextTag (c : Code) (kind unit : Nat) (s : State) : (report c kind unit s).nextTag = s.nextTag := rfl
@[simp] theorem report_clFlushed (c : Code) (kind unit : Nat) (s : State) : (report c kind unit s).clFlushed = s.clFlushed := rfl
@[simp] theorem report_leaving (c : Code) (kind unit : Nat) (s : State) : (report c kind unit s).leaving = s.leaving := rfl
@[simp] theorem report_routes (c : Code) (kind unit : Nat) (s : State) : (report c kind unit s).routes = s.routes := rfl
@[simp] theorem report_sec (c : Code) (kind unit : Nat) (s : State) : (report c kind unit s).sec = s.sec := rfl
@[simp] theorem report_fields (c : Code) (kind unit : Nat) (s : State) : (report c kind unit s).fields = s.fields := rfl
@[simp] theorem report_pm (c : Code) (kind unit : Nat) (s : State) : (report c kind unit s).pm = s.pm := rfl
@[simp] theorem report_convs (c : Code) (kind unit : Nat) (s : State) : (report c kind unit s).convs = s.convs := rfl
@[simp] theorem report_boot (c : Code) (kind unit : Nat) (s : State) : (report c kind unit s).boot = s.boot := rfl
@[simp] theorem report_sp (c : Code) (kind unit : Nat) (s : State) : (report c kind unit s).sp = s.sp := rfl

end Sys2Proof.Machine
end

