-- ==== Sys2Proof/Laws/Reads.lean ====
section
/-! SUPPORT. Reading back what an update wrote: cores, threads, registers, and registers of the pages. -/

namespace Sys2Proof.Machine

open Sys2Proof

/-! ### Cores, threads and their registers -/

theorem coreAt_setCore (c d : Nat) (x : Core) (s : State) : coreAt (setCore c x s) d = if c = d then x else coreAt s d := by
  simp [coreAt, mget_mset]

@[simp] theorem coreAt_setCore_same (c : Nat) (x : Core) (s : State) : coreAt (setCore c x s) c = x := by
  simp [coreAt_setCore]

theorem coreAt_setCore_ne {c d : Nat} (x : Core) (s : State) (h : c ≠ d) : coreAt (setCore c x s) d = coreAt s d := by
  simp [coreAt_setCore, h]

theorem threadAt_setThread (t u : Nat) (th : Thread) (x : Core) :
    threadAt (setThread t th x) u = if t = u then th else threadAt x u := by
  simp [threadAt, setThread, mget_mset]

@[simp] theorem threadAt_setThread_same (t : Nat) (th : Thread) (x : Core) : threadAt (setThread t th x) t = th := by
  simp [threadAt_setThread]

theorem threadAt_setThread_ne {t u : Nat} (th : Thread) (x : Core) (h : t ≠ u) :
    threadAt (setThread t th x) u = threadAt x u := by
  simp [threadAt_setThread, h]

/-- s0 reads as 0 and discards writes (R105). -/
theorem regS_setS (n m : Nat) (v : DWord) (th : Thread) :
    regS (setS n v th) m = if m = 0 then 0 else if n = m then v else regS th m := by
  unfold regS setS
  by_cases h : m = 0
  · simp [h]
  · by_cases g : n = 0
    · have : n ≠ m := by omega
      simp [h, g]
      omega
    · simp [h, g, mget_mset]

@[simp] theorem regS_zero (th : Thread) : regS th 0 = 0 := rfl

@[simp] theorem setS_zero (v : DWord) (th : Thread) : setS 0 v th = th := rfl

theorem regV_setV (n m : Nat) (v : Vec) (th : Thread) : regV (setV n v th) m = if n = m then v else regV th m := by
  simp [regV, setV, mget_mset]

theorem regA_setA (n m : Nat) (v : Acc) (th : Thread) : regA (setA n v th) m = if n = m then v else regA th m := by
  simp [regA, setA, mget_mset]

@[simp] theorem regV_setS (n m : Nat) (v : DWord) (th : Thread) : regV (setS n v th) m = regV th m := by
  unfold setS; split <;> rfl

@[simp] theorem regA_setS (n m : Nat) (v : DWord) (th : Thread) : regA (setS n v th) m = regA th m := by
  unfold setS; split <;> rfl

@[simp] theorem regS_setV (n m : Nat) (v : Vec) (th : Thread) : regS (setV n v th) m = regS th m := rfl
@[simp] theorem regA_setV (n m : Nat) (v : Vec) (th : Thread) : regA (setV n v th) m = regA th m := rfl
@[simp] theorem regS_setA (n m : Nat) (v : Acc) (th : Thread) : regS (setA n v th) m = regS th m := rfl
@[simp] theorem regV_setA (n m : Nat) (v : Acc) (th : Thread) : regV (setA n v th) m = regV th m := rfl

@[simp] theorem setS_pc (n : Nat) (v : DWord) (th : Thread) : (setS n v th).pc = th.pc := by unfold setS; split <;> rfl
@[simp] theorem setS_st (n : Nat) (v : DWord) (th : Thread) : (setS n v th).st = th.st := by unfold setS; split <;> rfl

/-! ### Registers of the pages -/

theorem regKey_inj {p q a b : Nat} (ha : a < 4096) (hb : b < 4096) : regKey p a = regKey q b ↔ p = q ∧ a = b := by
  unfold regKey
  constructor
  · intro h; omega
  · rintro ⟨rfl, rfl⟩; rfl

@[simp] theorem live_setLive_same (p off : Nat) (v : Word) (s : State) : live (setLive p off v s) p off = v := by
  simp [live, setLive]

theorem live_setLive_ne {p q a b : Nat} (v : Word) (s : State) (h : regKey p a ≠ regKey q b) :
    live (setLive p a v s) q b = live s q b := by
  simp only [live, setLive, mget, mfind_mset, if_neg h]

theorem live_setLive {p q a b : Nat} (v : Word) (s : State) (ha : a < 4096) (hb : b < 4096) :
    live (setLive p a v s) q b = if p = q ∧ a = b then v else live s q b := by
  by_cases h : p = q ∧ a = b
  · obtain ⟨rfl, rfl⟩ := h
    simp
  · rw [live_setLive_ne v s (fun e => h ((regKey_inj ha hb).1 e)), if_neg h]

end Sys2Proof.Machine
end

