-- ==== Sys2Proof/Laws/Issue.lean ====
section
/-! SUPPORT. What an offered instruction does, and the parts of the state that its end can change. -/

namespace Sys2Proof.Machine

open Sys2Proof

/-- An offered instruction ends as its meaning says. -/
theorem issue_offered {op : Nat} {i : Issue} {s q : State} {k : Iss} {body : Iss → State → IRes} (h : Offered op i s k q) :
    issue op i body s = settle k.c k.t i.cycle (body k q) := by
  have hv := h.view
  have h1 := h.runs; have h2 := h.ready; have ht := h.turn; have h3 := h.fetch; have h4 := h.clear; have h5 := h.score; have h6 := h.read
  have h7 := h.opcode; have h8 := h.known; have h9 := h.bits0; have h10 := h.codes
  subst hv
  simp only [issThread, fetchRng] at h2 ht h3 h4 h5 h6
  simp only [fw, issView, issThread] at h7 h9 h10
  simp only [issue, issView, issThread, h1, h2, ht, h3, h4, h5, h6, h7, h8, h9, h10]
  simp

/-- An instruction that completes retires: its registers change by `f` and the thread goes on at `pc`. -/
theorem settle_done (k : Iss) (f : Thread → Thread) (pc : BitVec 18) (q : State) :
    settle k.c k.t k.cycle (.done (updThread k f q) pc) = retire k f pc q := rfl

/-! ### Retiring -/

@[simp] theorem coreAt_retire (k : Iss) (f : Thread → Thread) (pc : BitVec 18) (q : State) :
    coreAt (retire k f pc q) k.c =
      { setThread k.t { f (threadAt (coreAt q k.c) k.t) with pc := pc } (setThread k.t (f (threadAt (coreAt q k.c) k.t)) (coreAt q k.c))
        with lastIssued := k.t, offerCycle := k.cycle, passed := List.range 16 } := by
  simp [retire, issued, updThread]

theorem coreAt_retire_ne {k : Iss} {c : Nat} (f : Thread → Thread) (pc : BitVec 18) (q : State) (h : k.c ≠ c) :
    coreAt (retire k f pc q) c = coreAt q c := by
  simp [retire, issued, updThread, coreAt_setCore, h]

theorem threadAt_retire (k : Iss) (f : Thread → Thread) (pc : BitVec 18) (q : State) (t : Nat) :
    threadAt (coreAt (retire k f pc q) k.c) t =
      if k.t = t then { f (threadAt (coreAt q k.c) k.t) with pc := pc } else threadAt (coreAt q k.c) t := by
  rw [coreAt_retire]
  show threadAt (setThread _ _ (setThread _ _ _)) t = _
  rw [threadAt_setThread, threadAt_setThread]
  split <;> rfl

@[simp] theorem retire_mem (k : Iss) (f : Thread → Thread) (pc : BitVec 18) (q : State) : (retire k f pc q).mem = q.mem := rfl
@[simp] theorem retire_live (k : Iss) (f : Thread → Thread) (pc : BitVec 18) (q : State) : (retire k f pc q).live = q.live := rfl

end Sys2Proof.Machine
end

