-- ==== Sys2Proof/Laws/Keeps.lean ====
section
/-! SUPPORT. What every operation keeps: the queue of commands, and the canonical form of the addressed memories. -/

namespace Sys2Proof.Machine

open Sys2Proof

/-- The queue, the beat number and BEAT_LAST, and whether the unit is LOCKED. -/
abbrev Kept := List Instr × (Beat × Beat) × Bool

/-- The queue and the beat are as `p` says, and the addressed memories are in canonical form. -/
def Keeps (p : Kept) (s : State) : Prop := (s.pending, (s.beat.now, s.beat.last), s.beat.mode == .locked) = p ∧ Canonical s

/-- As `Keeps`, for the end of an offered instruction. -/
def IKeeps (p : Kept) : IRes → Prop
  | .fault _ s => Keeps p s
  | .block _ s => Keeps p s
  | .held s => Keeps p s
  | .done s _ => Keeps p s

/-- Changing any other part of the state keeps both. -/
theorem keeps_upd {p : Kept} {t : State} {x3 x4 x5 x7 x8 x9 x11 x12 x13 x14 x15 x16 x17 x18 x22 x23 x24 x25 x26 x27 x28 x29 x30 x31 x33 x34 x35 x36 x37 x38 x39 x40 x41 x42 x43 x44 x45 x46} (h : Keeps p t) :
    Keeps p (State.mk t.pending t.live t.shadow x3 x4 x5 t.beat x7 x8 x9 t.mem x11 x12 x13 x14 x15 x16 x17 x18 t.stackMem t.stackKey t.stackCrc x22 x23 x24 x25 x26 x27 x28 x29 x30 x31 t.exch x33 x34 x35 x36 x37 x38 x39 x40 x41 x42 x43 x44 x45 x46) := ⟨h.1, ⟨h.2.1, h.2.2, h.2.3, h.2.4, h.2.5, h.2.6, h.2.7⟩⟩

/-- Changing other parts of the beat unit keeps both. -/
theorem keeps_beat {p : Kept} {t : State} {x3 x4 x5 x7 x8 x9 x11 x12 x13 x14 x15 x16 x17 x18 x22 x23 x24 x25 x26 x27 x28 x29 x30 x31 x33 x34 x35 x36 x37 x38 x39 x40 x41 x42 x43 x44 x45 x46} {y1 y4 y5 y6 y7 y8 y9 y10 y11 y12 y13 y14 y15 y16} (h : Keeps p t) :
    Keeps p (State.mk t.pending t.live t.shadow x3 x4 x5 (BeatUnit.mk t.beat.mode y1 t.beat.now t.beat.last y4 y5 y6 y7 y8 y9 y10 y11 y12 y13 y14 y15 y16) x7 x8 x9 t.mem x11 x12 x13 x14 x15 x16 x17 x18 t.stackMem t.stackKey t.stackCrc x22 x23 x24 x25 x26 x27 x28 x29 x30 x31 t.exch x33 x34 x35 x36 x37 x38 x39 x40 x41 x42 x43 x44 x45 x46) := ⟨h.1, ⟨h.2.1, h.2.2, h.2.3, h.2.4, h.2.5, h.2.6, h.2.7⟩⟩

theorem keeps_live {p : Kept} {t : State} {v} {x3 x4 x5 x7 x8 x9 x11 x12 x13 x14 x15 x16 x17 x18 x22 x23 x24 x25 x26 x27 x28 x29 x30 x31 x33 x34 x35 x36 x37 x38 x39 x40 x41 x42 x43 x44 x45 x46} (h : Keeps p t) (g : rising v = true) :
    Keeps p (State.mk t.pending v t.shadow x3 x4 x5 t.beat x7 x8 x9 t.mem x11 x12 x13 x14 x15 x16 x17 x18 t.stackMem t.stackKey t.stackCrc x22 x23 x24 x25 x26 x27 x28 x29 x30 x31 t.exch x33 x34 x35 x36 x37 x38 x39 x40 x41 x42 x43 x44 x45 x46) := ⟨h.1, ⟨g, h.2.2, h.2.3, h.2.4, h.2.5, h.2.6, h.2.7⟩⟩

theorem keeps_shadow {p : Kept} {t : State} {v} {x3 x4 x5 x7 x8 x9 x11 x12 x13 x14 x15 x16 x17 x18 x22 x23 x24 x25 x26 x27 x28 x29 x30 x31 x33 x34 x35 x36 x37 x38 x39 x40 x41 x42 x43 x44 x45 x46} (h : Keeps p t) (g : rising v = true) :
    Keeps p (State.mk t.pending t.live v x3 x4 x5 t.beat x7 x8 x9 t.mem x11 x12 x13 x14 x15 x16 x17 x18 t.stackMem t.stackKey t.stackCrc x22 x23 x24 x25 x26 x27 x28 x29 x30 x31 t.exch x33 x34 x35 x36 x37 x38 x39 x40 x41 x42 x43 x44 x45 x46) := ⟨h.1, ⟨h.2.1, g, h.2.3, h.2.4, h.2.5, h.2.6, h.2.7⟩⟩

theorem keeps_mem {p : Kept} {t : State} {v} {x3 x4 x5 x7 x8 x9 x11 x12 x13 x14 x15 x16 x17 x18 x22 x23 x24 x25 x26 x27 x28 x29 x30 x31 x33 x34 x35 x36 x37 x38 x39 x40 x41 x42 x43 x44 x45 x46} (h : Keeps p t) (g : mwf (fun _ => 0) v = true) :
    Keeps p (State.mk t.pending t.live t.shadow x3 x4 x5 t.beat x7 x8 x9 v x11 x12 x13 x14 x15 x16 x17 x18 t.stackMem t.stackKey t.stackCrc x22 x23 x24 x25 x26 x27 x28 x29 x30 x31 t.exch x33 x34 x35 x36 x37 x38 x39 x40 x41 x42 x43 x44 x45 x46) := ⟨h.1, ⟨h.2.1, h.2.2, g, h.2.4, h.2.5, h.2.6, h.2.7⟩⟩

theorem keeps_stackMem {p : Kept} {t : State} {v} {x3 x4 x5 x7 x8 x9 x11 x12 x13 x14 x15 x16 x17 x18 x22 x23 x24 x25 x26 x27 x28 x29 x30 x31 x33 x34 x35 x36 x37 x38 x39 x40 x41 x42 x43 x44 x45 x46} (h : Keeps p t) (g : rising v = true) :
    Keeps p (State.mk t.pending t.live t.shadow x3 x4 x5 t.beat x7 x8 x9 t.mem x11 x12 x13 x14 x15 x16 x17 x18 v t.stackKey t.stackCrc x22 x23 x24 x25 x26 x27 x28 x29 x30 x31 t.exch x33 x34 x35 x36 x37 x38 x39 x40 x41 x42 x43 x44 x45 x46) := ⟨h.1, ⟨h.2.1, h.2.2, h.2.3, g, h.2.5, h.2.6, h.2.7⟩⟩

theorem keeps_stackKey {p : Kept} {t : State} {v} {x3 x4 x5 x7 x8 x9 x11 x12 x13 x14 x15 x16 x17 x18 x22 x23 x24 x25 x26 x27 x28 x29 x30 x31 x33 x34 x35 x36 x37 x38 x39 x40 x41 x42 x43 x44 x45 x46} (h : Keeps p t) (g : rising v = true) :
    Keeps p (State.mk t.pending t.live t.shadow x3 x4 x5 t.beat x7 x8 x9 t.mem x11 x12 x13 x14 x15 x16 x17 x18 t.stackMem v t.stackCrc x22 x23 x24 x25 x26 x27 x28 x29 x30 x31 t.exch x33 x34 x35 x36 x37 x38 x39 x40 x41 x42 x43 x44 x45 x46) := ⟨h.1, ⟨h.2.1, h.2.2, h.2.3, h.2.4, g, h.2.6, h.2.7⟩⟩

theorem keeps_stackCrc {p : Kept} {t : State} {v} {x3 x4 x5 x7 x8 x9 x11 x12 x13 x14 x15 x16 x17 x18 x22 x23 x24 x25 x26 x27 x28 x29 x30 x31 x33 x34 x35 x36 x37 x38 x39 x40 x41 x42 x43 x44 x45 x46} (h : Keeps p t) (g : rising v = true) :
    Keeps p (State.mk t.pending t.live t.shadow x3 x4 x5 t.beat x7 x8 x9 t.mem x11 x12 x13 x14 x15 x16 x17 x18 t.stackMem t.stackKey v x22 x23 x24 x25 x26 x27 x28 x29 x30 x31 t.exch x33 x34 x35 x36 x37 x38 x39 x40 x41 x42 x43 x44 x45 x46) := ⟨h.1, ⟨h.2.1, h.2.2, h.2.3, h.2.4, h.2.5, g, h.2.7⟩⟩

theorem keeps_exch {p : Kept} {t : State} {v} {x3 x4 x5 x7 x8 x9 x11 x12 x13 x14 x15 x16 x17 x18 x22 x23 x24 x25 x26 x27 x28 x29 x30 x31 x33 x34 x35 x36 x37 x38 x39 x40 x41 x42 x43 x44 x45 x46} (h : Keeps p t) (g : mwf (fun _ => 0) v = true) :
    Keeps p (State.mk t.pending t.live t.shadow x3 x4 x5 t.beat x7 x8 x9 t.mem x11 x12 x13 x14 x15 x16 x17 x18 t.stackMem t.stackKey t.stackCrc x22 x23 x24 x25 x26 x27 x28 x29 x30 x31 v x33 x34 x35 x36 x37 x38 x39 x40 x41 x42 x43 x44 x45 x46) := ⟨h.1, ⟨h.2.1, h.2.2, h.2.3, h.2.4, h.2.5, h.2.6, g⟩⟩

/-! ### Folds and lists -/

theorem foldl_keeps {α : Type} {p : Kept} {f : State → α → State} {l : List α} {s : State}
    (hf : ∀ s x, Keeps p s → Keeps p (f s x)) (h : Keeps p s) : Keeps p (l.foldl f s) := by
  induction l generalizing s with
  | nil => exact h
  | cons a l ih => exact ih (hf s a h)

theorem foldl_keeps1 {α β : Type} {p : Kept} {f : State × β → α → State × β} {l : List α} {q : State × β}
    (hf : ∀ q x, Keeps p q.1 → Keeps p (f q x).1) (h : Keeps p q.1) : Keeps p (l.foldl f q).1 := by
  induction l generalizing q with
  | nil => exact h
  | cons a l ih => exact ih (hf q a h)

theorem foldl_keeps2 {α β : Type} {p : Kept} {f : β × State → α → β × State} {l : List α} {q : β × State}
    (hf : ∀ q x, Keeps p q.2 → Keeps p (f q x).2) (h : Keeps p q.2) : Keeps p (l.foldl f q).2 := by
  induction l generalizing q with
  | nil => exact h
  | cons a l ih => exact ih (hf q a h)

theorem getD_keeps {p : Kept} {o : Option State} {s : State} (h : Keeps p s) (g : ∀ t, o = some t → Keeps p t) :
    Keeps p (o.getD s) := by
  cases o with
  | none => exact h
  | some t => exact g t rfl

theorem map_keeps {p : Kept} {f : State → State} {o : Option State} {t : State} (e0 : o.map f = some t)
    (h : ∀ u, o = some u → Keeps p (f u)) : Keeps p t := by
  obtain ⟨u, e, rfl⟩ := Option.map_eq_some_iff.1 e0
  exact h u e

theorem snd_keeps {α : Type} {p : Kept} {q : α × State} {a : α} {t : State} (e : q = (a, t)) (h : Keeps p q.2) :
    Keeps p t := by
  rw [e] at h
  exact h

theorem fst_keeps {α : Type} {p : Kept} {q : State × α} {a : α} {t : State} (e : q = (t, a)) (h : Keeps p q.1) :
    Keeps p t := by
  rw [e] at h
  exact h

theorem ite_keeps {p : Kept} {c : Prop} [Decidable c] {s t : State} (h : c → Keeps p s) (g : ¬c → Keeps p t) :
    Keeps p (if c then s else t) := by
  by_cases e : c
  · rw [if_pos e]; exact h e
  · rw [if_neg e]; exact g e

theorem ite_ikeeps {p : Kept} {c : Prop} [Decidable c] {s t : IRes} (h : c → IKeeps p s) (g : ¬c → IKeeps p t) :
    IKeeps p (if c then s else t) := by
  by_cases e : c
  · rw [if_pos e]; exact h e
  · rw [if_neg e]; exact g e

theorem ikeeps_fault {p : Kept} {c : Code} {s : State} (h : Keeps p s) : IKeeps p (.fault c s) := h
theorem ikeeps_block {p : Kept} {w : WaitOn} {s : State} (h : Keeps p s) : IKeeps p (.block w s) := h
theorem ikeeps_held {p : Kept} {s : State} (h : Keeps p s) : IKeeps p (.held s) := h
theorem ikeeps_done {p : Kept} {c : BitVec 18} {s : State} (h : Keeps p s) : IKeeps p (.done s c) := h

theorem foldr_keeps {α : Type} {p : Kept} {f : α → State → State} {l : List α} {s : State}
    (hf : ∀ x s, Keeps p s → Keeps p (f x s)) (h : Keeps p s) : Keeps p (l.foldr f s) := by
  induction l with
  | nil => exact h
  | cons a l ih => exact hf a _ ih

/-! ### Ops -/

theorem freshWord_keeps {p : Kept} {s : State} (h : Keeps p s) : Keeps p (freshWord s).2 := by
  unfold freshWord
  repeat' first | with_reducible assumption | fail_if_no_progress with_reducible apply keeps_upd

theorem freshBytes_keeps {p : Kept} {s : State} {a0} (h : Keeps p s) : Keeps p (freshBytes a0 s).2 := by
  induction a0 generalizing s  with
  | zero =>
    unfold freshBytes
    repeat' with_reducible assumption
  | succ _ ih =>
    unfold freshBytes
    repeat' first | with_reducible apply ih | with_reducible assumption | with_reducible apply freshWord_keeps

theorem emit_keeps {p : Kept} {s : State} {a0} (h : Keeps p s) : Keeps p (emit a0 s) := by
  unfold emit
  repeat' first | with_reducible assumption | fail_if_no_progress with_reducible apply keeps_upd

/-! ### Regs -/

theorem setLive_keeps {p : Kept} {s : State} {a b v} (h : Keeps p s) : Keeps p (setLive a b v s) :=
  keeps_live h (rising_mset _ _ _ h.2.1)

theorem lastDrop_keeps {p : Kept} {s : State} {a0 a1 a2} (h : Keeps p s) : Keeps p (lastDrop a0 a1 a2 s) := by
  unfold lastDrop
  repeat' first | with_reducible assumption | with_reducible apply setLive_keeps

theorem setLiveF_keeps {p : Kept} {s : State} {a0 a1 a2 a3 a4} (h : Keeps p s) : Keeps p (setLiveF a0 a1 a2 a3 a4 s) := by
  unfold setLiveF
  repeat' first | with_reducible assumption | with_reducible apply setLive_keeps

theorem countUp_keeps {p : Kept} {s : State} {a0 a1 a2 a3 a4} (h : Keeps p s) : Keeps p (countUp a0 a1 a2 a3 a4 s) := by
  unfold countUp
  repeat' first | with_reducible assumption | with_reducible apply setLiveF_keeps

theorem countWidth_keeps {p : Kept} {s : State} (h : Keeps p s) : Keeps p (countWidth s) := by
  unfold countWidth
  repeat' first | with_reducible assumption | with_reducible apply countUp_keeps

theorem dropWidth_keeps {p : Kept} {s : State} {a0 a1 a2} (h : Keeps p s) : Keeps p (dropWidth a0 a1 a2 s) := by
  unfold dropWidth
  repeat' first | with_reducible assumption | with_reducible apply lastDrop_keeps | with_reducible apply countWidth_keeps

theorem logPut_keeps {p : Kept} {s : State} {a0 a1 a2 a3 a4} (h : Keeps p s) : Keeps p (logPut a0 a1 a2 a3 a4 s) := by
  unfold logPut
  repeat' first | with_reducible assumption | fail_if_no_progress with_reducible apply keeps_upd

theorem reloadWindow_keeps {p : Kept} {s : State} {a0} (h : Keeps p s) : Keeps p (reloadWindow a0 s) := by
  unfold reloadWindow
  repeat' first | with_reducible assumption | with_reducible refine foldl_keeps (fun _ _ _ => ?_) ?_ | fail_if_no_progress with_reducible apply keeps_upd

theorem reloadShadows_keeps {p : Kept} {s : State} {a} (h : Keeps p s) : Keeps p (reloadShadows a s) :=
  keeps_shadow h (rising_mdrop _ h.2.2)

theorem reloadPage_keeps {p : Kept} {s : State} {a0} (h : Keeps p s) : Keeps p (reloadPage a0 s) := by
  unfold reloadPage
  repeat' first | with_reducible assumption | with_reducible apply reloadWindow_keeps | with_reducible apply reloadShadows_keeps | split

theorem resetPage_keeps {p : Kept} {s : State} {a} (h : Keeps p s) : Keeps p (resetPage a s) :=
  ⟨h.1, ⟨rising_mdrop _ h.2.1, rising_mdrop _ h.2.2, h.2.3, h.2.4, h.2.5, h.2.6, h.2.7⟩⟩

theorem countWrap_keeps {p : Kept} {s : State} {a0 a1 a2} (h : Keeps p s) : Keeps p (countWrap a0 a1 a2 s) := by
  unfold countWrap
  repeat' first | with_reducible assumption | with_reducible apply setLive_keeps

theorem setShadow_keeps {p : Kept} {s : State} {a b v} (h : Keeps p s) : Keeps p (setShadow a b v s) := by
  refine keeps_shadow h ?_
  split
  · exact rising_mdel _ h.2.2
  · exact rising_mput _ _ h.2.2

theorem sendDue_keeps {p : Kept} {s : State} (h : Keeps p s) : Keeps p (sendDue s) := by
  unfold sendDue
  repeat' first
    | with_reducible assumption | with_reducible apply emit_keeps | with_reducible refine foldl_keeps (fun _ _ _ => ?_) ?_
    | fail_if_no_progress with_reducible apply keeps_upd | with_reducible refine ite_keeps (fun _ => ?_) (fun _ => ?_)

theorem raiseIrq_keeps {p : Kept} {s : State} {a0} (h : Keeps p s) : Keeps p (raiseIrq a0 s) := by
  unfold raiseIrq
  repeat' first
    | with_reducible assumption | with_reducible apply setLive_keeps | with_reducible apply sendDue_keeps
    | fail_if_no_progress with_reducible apply keeps_upd | with_reducible refine ite_keeps (fun _ => ?_) (fun _ => ?_)

theorem recordErr_keeps {p : Kept} {s : State} {a0 a1 a2} (h : Keeps p s) : Keeps p (recordErr a0 a1 a2 s) := by
  unfold recordErr
  repeat' first | with_reducible assumption | with_reducible apply setLive_keeps | with_reducible apply raiseIrq_keeps | with_reducible refine ite_keeps (fun _ => ?_) (fun _ => ?_)

theorem recordErrAny_keeps {p : Kept} {s : State} {a0 a1} (h : Keeps p s) : Keeps p (recordErrAny a0 a1 s) := by
  unfold recordErrAny
  repeat' first | with_reducible assumption | with_reducible apply freshWord_keeps | with_reducible apply recordErr_keeps

theorem unsupportedReq_keeps {p : Kept} {s : State} (h : Keeps p s) : Keeps p (unsupportedReq s) := by
  unfold unsupportedReq
  repeat' first | with_reducible assumption | with_reducible apply emit_keeps | fail_if_no_progress with_reducible apply keeps_upd

theorem viaBar_keeps {p : Kept} {s : State} {a0 a1} (hF : ∀ s, Keeps p s → Keeps p (a1 s)) (h : Keeps p s) : Keeps p (viaBar a0 a1 s) := by
  unfold viaBar
  repeat' first | with_reducible assumption | with_reducible apply hF | with_reducible apply unsupportedReq_keeps | with_reducible refine ite_keeps (fun _ => ?_) (fun _ => ?_)

theorem dropUnassigned_keeps {p : Kept} {s : State} {a0 a1 a2} (h : Keeps p s) : Keeps p (dropUnassigned a0 a1 a2 s) := by
  unfold dropUnassigned
  repeat' first | with_reducible assumption | with_reducible apply lastDrop_keeps | with_reducible apply countUp_keeps

theorem commitPage_keeps {p : Kept} {s : State} {a0} (h : Keeps p s) : Keeps p (commitPage a0 s) := by
  unfold commitPage
  repeat' first
    | with_reducible assumption | with_reducible apply reloadShadows_keeps | with_reducible apply setLive_keeps
    | with_reducible refine foldl_keeps (fun _ _ _ => ?_) ?_ | split | dsimp only

theorem logTransient_keeps {p : Kept} {s : State} {a0 a1 a2} (h : Keeps p s) : Keeps p (logTransient a0 a1 a2 s) := by
  unfold logTransient
  repeat' first | with_reducible assumption | with_reducible apply logPut_keeps | with_reducible apply countUp_keeps

theorem fatal_keeps {p : Kept} {s : State} {a0} (h : Keeps p s) : Keeps p (fatal a0 s) := by
  unfold fatal
  repeat' first | with_reducible assumption | with_reducible apply raiseIrq_keeps | with_reducible apply setLive_keeps | with_reducible refine ite_keeps (fun _ => ?_) (fun _ => ?_)

theorem report_keeps {p : Kept} {s : State} {a0 a1 a2} (h : Keeps p s) : Keeps p (report a0 a1 a2 s) := by
  unfold report
  repeat' first | with_reducible assumption | fail_if_no_progress with_reducible apply keeps_upd

theorem setBoth_keeps {p : Kept} {s : State} {a b v} (h : Keeps p s) : Keeps p (setBoth a b v s) :=
  setLive_keeps ⟨h.1, ⟨h.2.1, rising_mdel _ h.2.2, h.2.3, h.2.4, h.2.5, h.2.6, h.2.7⟩⟩

/-! ### CoreOps -/

theorem hitReport_keeps {p : Kept} {s : State} {a0 a1 a2 a3} (h : Keeps p s) : Keeps p (hitReport a0 a1 a2 a3 s) := by
  unfold hitReport
  repeat' first | with_reducible assumption | with_reducible apply logTransient_keeps | with_reducible apply report_keeps | with_reducible refine ite_keeps (fun _ => ?_) (fun _ => ?_) | split

theorem setCore_keeps {p : Kept} {s : State} {a0 a1} (h : Keeps p s) : Keeps p (setCore a0 a1 s) := by
  unfold setCore
  repeat' first | with_reducible assumption | fail_if_no_progress with_reducible apply keeps_upd

theorem takeLineHit_keeps {p : Kept} {a0 a1 a3} {a2 : State × Option Code} (h : Keeps p a2.1) : Keeps p (takeLineHit a0 a1 a2 a3).1 := by
  unfold takeLineHit
  dsimp only
  split
  · exact h
  · exact hitReport_keeps (setCore_keeps h)

theorem noteBad_keeps {p : Kept} {s : State} {a0 a1 a2} (h : Keeps p s) : Keeps p (noteBad a0 a1 a2 s) := by
  unfold noteBad
  repeat' first | with_reducible assumption | fail_if_no_progress with_reducible apply keeps_upd | with_reducible refine ite_keeps (fun _ => ?_) (fun _ => ?_) | split

theorem takeHit_keeps {p : Kept} {a0 a2} {a1 : State × Option Code} (h : Keeps p a1.1) : Keeps p (takeHit a0 a1 a2).1 :=
  hitReport_keeps (noteBad_keeps (setCore_keeps h))

theorem accessCheck_keeps {p : Kept} {s : State} {a0 a1 a2 a3} (h : Keeps p s) : Keeps p (accessCheck a0 a1 a2 a3 s).1 := by
  unfold accessCheck
  repeat' first | with_reducible assumption | with_reducible apply takeLineHit_keeps | with_reducible apply takeHit_keeps | with_reducible refine foldl_keeps1 (fun _ _ _ => ?_) ?_ | split

theorem readCheck_keeps {p : Kept} {s : State} {a0 a1 a2} (h : Keeps p s) : Keeps p (readCheck a0 a1 a2 s).1 := by
  unfold readCheck
  repeat' first | with_reducible assumption | with_reducible apply accessCheck_keeps

theorem partialCheck_keeps {p : Kept} {s : State} {a0 a1 a2 a3} (h : Keeps p s) : Keeps p (partialCheck a0 a1 a2 a3 s).1 := by
  unfold partialCheck
  repeat' first | with_reducible assumption | with_reducible apply readCheck_keeps

theorem noteFault_keeps {p : Kept} {s : State} {a0 a1 a2 a3} (h : Keeps p s) : Keeps p (noteFault a0 a1 a2 a3 s) := by
  unfold noteFault
  repeat' first | with_reducible assumption | with_reducible apply setCore_keeps | with_reducible apply recordErr_keeps

theorem faultThread_keeps {p : Kept} {s : State} {a0 a1 a2} (h : Keeps p s) : Keeps p (faultThread a0 a1 a2 s) := by
  unfold faultThread
  repeat' first | with_reducible assumption | with_reducible apply noteFault_keeps | with_reducible apply setCore_keeps

theorem setUnits_keeps {p : Kept} {s : State} {a0 a1} (h : Keeps p s) : Keeps p (setUnits a0 a1 s) := by
  unfold setUnits
  repeat' first | with_reducible assumption | fail_if_no_progress with_reducible apply keeps_upd

theorem hdOutsideWrite_keeps {p : Kept} {s : State} {a0 a1} (h : Keeps p s) : Keeps p (hdOutsideWrite a0 a1 s) := by
  unfold hdOutsideWrite
  repeat' first
    | with_reducible assumption | with_reducible apply setUnits_keeps | with_reducible refine foldl_keeps (fun _ _ _ => ?_) ?_
    | with_reducible refine ite_keeps (fun _ => ?_) (fun _ => ?_) | split

theorem clearMem_keeps {p : Kept} {s : State} {a0} (h : Keeps p s) : Keeps p (clearMem a0 s) :=
  keeps_mem h (mwf_mdrop _ h.2.3)

theorem recordDma_keeps {p : Kept} {s : State} {a0 a1 a2 a3 a4} (h : Keeps p s) : Keeps p (recordDma a0 a1 a2 a3 a4 s) := by
  unfold recordDma
  repeat' first | with_reducible assumption | with_reducible apply setCore_keeps | with_reducible refine ite_keeps (fun _ => ?_) (fun _ => ?_)

theorem hdFire_keeps {p : Kept} {s : State} {a0 a1} (h : Keeps p s) : Keeps p (hdFire a0 a1 s) := by
  unfold hdFire
  repeat' first | with_reducible assumption | with_reducible apply setUnits_keeps | with_reducible refine ite_keeps (fun _ => ?_) (fun _ => ?_)

theorem updCore_keeps {p : Kept} {s : State} {a0 a1} (h : Keeps p s) : Keeps p (updCore a0 a1 s) := by
  unfold updCore
  repeat' first | with_reducible assumption | with_reducible apply setCore_keeps

theorem writeMem_keeps {p : Kept} {s : State} {a l} (h : Keeps p s) : Keeps p (writeMem a l s) :=
  keeps_mem h (mwf_writeBytes a l h.2.3)

theorem hdRecord_keeps {p : Kept} {s : State} {a0 a1} (h : Keeps p s) : Keeps p (hdRecord a0 a1 s) := by
  unfold hdRecord
  repeat' first | with_reducible assumption | with_reducible apply setUnits_keeps | with_reducible apply setLive_keeps | with_reducible refine ite_keeps (fun _ => ?_) (fun _ => ?_)

theorem hdBlocked_keeps {p : Kept} {s : State} {a0 a1 a2 a3 a4} (h : Keeps p s) : Keeps p (hdBlocked a0 a1 a2 a3 a4 s) := by
  unfold hdBlocked
  repeat' first | with_reducible assumption | with_reducible apply hdRecord_keeps | with_reducible refine ite_keeps (fun _ => ?_) (fun _ => ?_)

theorem hdRead_keeps {p : Kept} {s : State} {a0 a1 a2 a3 a4} (h : Keeps p s) : Keeps p (hdRead a0 a1 a2 a3 a4 s) := by
  unfold hdRead
  repeat' first
    | with_reducible assumption | with_reducible apply hdRecord_keeps | with_reducible apply setUnits_keeps
    | with_reducible refine foldl_keeps (fun _ _ _ => ?_) ?_ | with_reducible refine ite_keeps (fun _ => ?_) (fun _ => ?_) | split

end Sys2Proof.Machine
end

