-- ==== Sys2Proof/Laws/KeepsCore.lean ====
section
/-! SUPPORT. What every operation keeps, continued. -/

namespace Sys2Proof.Machine

open Sys2Proof

/-! ### MsgOps -/

theorem refillCore_keeps {p : Kept} {s : State} {a0} (h : Keeps p s) : Keeps p (refillCore a0 s) := by
  unfold refillCore
  repeat' first | with_reducible assumption | with_reducible apply updCore_keeps

theorem setRouter_keeps {p : Kept} {s : State} {a0 a1} (h : Keeps p s) : Keeps p (setRouter a0 a1 s) := by
  unfold setRouter
  repeat' first | with_reducible assumption | fail_if_no_progress with_reducible apply keeps_upd

theorem injectEngine_keeps {p : Kept} {s : State} {a0 a1} (h : Keeps p s) : Keeps p (injectEngine a0 a1 s) := by
  unfold injectEngine
  repeat' first | with_reducible assumption | with_reducible apply refillCore_keeps | with_reducible apply updCore_keeps | with_reducible apply setRouter_keeps | split

theorem sendAdd_keeps {p : Kept} {s : State} {a0 a1 a2 a3} (h : Keeps p s) : Keeps p (sendAdd a0 a1 a2 a3 s) := by
  unfold sendAdd
  repeat' first | with_reducible assumption | with_reducible apply injectEngine_keeps

theorem sendNotify_keeps {p : Kept} {s : State} {a0 a1 a2 a3} (h : Keeps p s) : Keeps p (sendNotify a0 a1 a2 a3 s) := by
  unfold sendNotify
  repeat' first | with_reducible assumption | with_reducible apply sendAdd_keeps | with_reducible refine ite_keeps (fun _ => ?_) (fun _ => ?_)

theorem fenceRefused_keeps {p : Kept} {s : State} {a0 a1} (h : Keeps p s) : Keeps p (fenceRefused a0 a1 s) := by
  unfold fenceRefused
  repeat' first | with_reducible assumption | with_reducible apply countUp_keeps | with_reducible apply recordErr_keeps

theorem injectLocal_keeps {p : Kept} {s : State} {a0 a1} (h : Keeps p s) : Keeps p (injectLocal a0 a1 s) := by
  unfold injectLocal
  repeat' first | with_reducible assumption | with_reducible apply updCore_keeps

theorem descLanded_keeps {p : Kept} {s : State} {a0 a1 a2} (h : Keeps p s) : Keeps p (descLanded a0 a1 a2 s) := by
  unfold descLanded
  repeat' first | with_reducible assumption | with_reducible apply updCore_keeps

theorem setStack_keeps {p : Kept} {s : State} {a0 a1} (h : Keeps p s) : Keeps p (setStack a0 a1 s) := by
  unfold setStack
  repeat' first | with_reducible assumption | fail_if_no_progress with_reducible apply keeps_upd

theorem updChan_keeps {p : Kept} {s : State} {a0 a1 a2} (h : Keeps p s) : Keeps p (updChan a0 a1 a2 s) := by
  unfold updChan
  repeat' first | with_reducible assumption | with_reducible apply setStack_keeps

theorem segLanded_keeps {p : Kept} {s : State} {a0 a1 a2 a3} (h : Keeps p s) : Keeps p (segLanded a0 a1 a2 a3 s) := by
  unfold segLanded
  repeat' first | with_reducible assumption | with_reducible apply updChan_keeps

theorem landed_keeps {p : Kept} {s : State} {a0 a1} (h : Keeps p s) : Keeps p (landed a0 a1 s) := by
  unfold landed
  repeat' first | with_reducible assumption | with_reducible apply descLanded_keeps | with_reducible apply segLanded_keeps | split

theorem notify_keeps {p : Kept} {s : State} {a0 a1 a2} (h : Keeps p s) : Keeps p (notify a0 a1 a2 s) := by
  unfold notify
  repeat' first | with_reducible assumption | fail_if_no_progress with_reducible apply keeps_upd | with_reducible refine ite_keeps (fun _ => ?_) (fun _ => ?_)

theorem copyUnclean_keeps {p : Kept} {s : State} {a0} (h : Keeps p s) : Keeps p (copyUnclean a0 s) := by
  unfold copyUnclean
  repeat' first | with_reducible assumption | fail_if_no_progress with_reducible apply keeps_upd

theorem fenceRefusedAny_keeps {p : Kept} {s : State} {a0} (h : Keeps p s) : Keeps p (fenceRefusedAny a0 s) := by
  unfold fenceRefusedAny
  repeat' first | with_reducible assumption | with_reducible apply countUp_keeps | with_reducible apply recordErrAny_keeps

theorem setModel_keeps {p : Kept} {s : State} {a0 a1} (h : Keeps p s) : Keeps p (setModel a0 a1 s) := by
  unfold setModel
  repeat' first | with_reducible assumption | fail_if_no_progress with_reducible apply keeps_upd

theorem updModel_keeps {p : Kept} {s : State} {a0 a1} (h : Keeps p s) : Keeps p (updModel a0 a1 s) := by
  unfold updModel
  repeat' first | with_reducible assumption | with_reducible apply setModel_keeps

theorem injectFcu_keeps {p : Kept} {s : State} {a0 a1} (h : Keeps p s) : Keeps p (injectFcu a0 a1 s) := by
  unfold injectFcu
  repeat' first | with_reducible assumption | with_reducible apply injectEngine_keeps

theorem enqueue_keeps {p : Kept} {s : State} {a0 a1 a2} (h : Keeps p s) : Keeps p (enqueue a0 a1 a2 s) := by
  unfold enqueue
  repeat' first | with_reducible assumption | with_reducible apply setRouter_keeps

/-! ### ChainOps -/

theorem setLink_keeps {p : Kept} {s : State} {a0 a1} (h : Keeps p s) : Keeps p (setLink a0 a1 s) := by
  unfold setLink
  repeat' first | with_reducible assumption | fail_if_no_progress with_reducible apply keeps_upd

theorem sendFlit_keeps {p : Kept} {s : State} {a0 a1 a2 a3} (h : Keeps p s) : Keeps p (sendFlit a0 a1 a2 a3 s) := by
  unfold sendFlit
  repeat' first | with_reducible assumption | with_reducible apply emit_keeps | with_reducible apply setLink_keeps

theorem pumpCtl_keeps {p : Kept} {s : State} {a0 a1} (h : Keeps p s) : Keeps p (pumpCtl a0 a1 s) := by
  induction a1 generalizing s  with
  | zero =>
    unfold pumpCtl
    repeat' with_reducible assumption
  | succ _ ih =>
    unfold pumpCtl
    repeat' first
      | with_reducible apply ih | with_reducible assumption | with_reducible apply sendFlit_keeps | with_reducible apply setLink_keeps
      | with_reducible refine ite_keeps (fun _ => ?_) (fun _ => ?_) | split | dsimp only

theorem takeReq_keeps {p : Kept} {s : State} {a0} (h : Keeps p s) {w} {t} (e : takeReq a0 s = some (w, t)) : Keeps p t := by
  unfold takeReq at e
  repeat' first | cases e | split at e
  repeat' first | with_reducible assumption | fail_if_no_progress with_reducible apply keeps_upd

theorem sendCtl_keeps {p : Kept} {s : State} {a0 a1 a2} (h : Keeps p s) : Keeps p (sendCtl a0 a1 a2 s) := by
  unfold sendCtl
  repeat' first | with_reducible assumption | with_reducible apply sendFlit_keeps | with_reducible apply setLink_keeps | with_reducible refine ite_keeps (fun _ => ?_) (fun _ => ?_)

theorem returnCredits_keeps {p : Kept} {s : State} {a0 a1} (h : Keeps p s) : Keeps p (returnCredits a0 a1 s) := by
  unfold returnCredits
  repeat' first | with_reducible assumption | with_reducible apply sendCtl_keeps | with_reducible apply setLink_keeps | with_reducible refine ite_keeps (fun _ => ?_) (fun _ => ?_)

theorem movedOn_keeps {p : Kept} {s : State} {a0} (h : Keeps p s) : Keeps p (movedOn a0 s) := by
  unfold movedOn
  repeat' first | with_reducible assumption | with_reducible apply returnCredits_keeps | with_reducible apply setLink_keeps | split

theorem pumpVc_keeps {p : Kept} {s : State} {a0 a1 a2} (h : Keeps p s) : Keeps p (pumpVc a0 a1 a2 s) := by
  induction a2 generalizing s  with
  | zero =>
    unfold pumpVc
    repeat' with_reducible assumption
  | succ _ ih =>
    unfold pumpVc
    repeat' first
      | with_reducible apply ih | with_reducible assumption | with_reducible apply sendFlit_keeps | with_reducible apply movedOn_keeps
      | with_reducible apply setLink_keeps | with_reducible refine foldl_keeps (fun _ _ _ => ?_) ?_
      | with_reducible refine ite_keeps (fun _ => ?_) (fun _ => ?_)

theorem pumpTx_keeps {p : Kept} {s : State} {a0} (h : Keeps p s) : Keeps p (pumpTx a0 s) := by
  unfold pumpTx
  repeat' first | with_reducible assumption | with_reducible apply pumpCtl_keeps | with_reducible apply pumpVc_keeps | with_reducible refine foldl_keeps (fun _ _ _ => ?_) ?_

theorem spRespond_keeps {p : Kept} {s : State} {a0 a1 a2 a3 a4} (h : Keeps p s) : Keeps p (spRespond a0 a1 a2 a3 a4 s) := by
  unfold spRespond
  repeat' first
    | with_reducible assumption | with_reducible apply countUp_keeps | with_reducible apply emit_keeps
    | fail_if_no_progress with_reducible apply keeps_upd | with_reducible refine ite_keeps (fun _ => ?_) (fun _ => ?_)

theorem transmit_keeps {p : Kept} {s : State} {a0 a1 a2 a3} (h : Keeps p s) : Keeps p (transmit a0 a1 a2 a3 s) := by
  unfold transmit
  repeat' first | with_reducible assumption | with_reducible apply pumpTx_keeps | with_reducible apply setLink_keeps

theorem egress_keeps {p : Kept} {s : State} {a0 a1 a2 a3 a4} (h : Keeps p s) : Keeps p (egress a0 a1 a2 a3 a4 s) := by
  unfold egress
  repeat' first | with_reducible assumption | with_reducible apply transmit_keeps | with_reducible apply injectEngine_keeps | with_reducible refine ite_keeps (fun _ => ?_) (fun _ => ?_)

theorem sendResp_keeps {p : Kept} {s : State} {a0 a1} (h : Keeps p s) : Keeps p (sendResp a0 a1 s) := by
  unfold sendResp
  repeat' first | with_reducible assumption | with_reducible apply egress_keeps | with_reducible apply countUp_keeps | with_reducible refine ite_keeps (fun _ => ?_) (fun _ => ?_) | split

theorem inEnded_keeps {p : Kept} {s : State} {a0} (h : Keeps p s) : Keeps p (inEnded a0 s) := by
  unfold inEnded
  repeat' first | with_reducible assumption | fail_if_no_progress with_reducible apply keeps_upd

theorem finishIn_keeps {p : Kept} {s : State} {a0} (h : Keeps p s) : Keeps p (finishIn a0 s) := by
  unfold finishIn
  repeat' first | with_reducible assumption | with_reducible apply sendResp_keeps | with_reducible apply inEnded_keeps | with_reducible refine ite_keeps (fun _ => ?_) (fun _ => ?_) | split

theorem updIn_keeps {p : Kept} {s : State} {a0 a1} (h : Keeps p s) : Keeps p (updIn a0 a1 s) := by
  unfold updIn
  repeat' first | with_reducible assumption | fail_if_no_progress with_reducible apply keeps_upd

theorem inRead_keeps {p : Kept} {s : State} {a0 a1 a2} (h : Keeps p s) : Keeps p (inRead a0 a1 a2 s) := by
  unfold inRead
  repeat' first | with_reducible assumption | with_reducible apply finishIn_keeps | with_reducible apply updIn_keeps

theorem attachReply_keeps {p : Kept} {s : State} {a0} (h : Keeps p s) : Keeps p (attachReply a0 s) := by
  unfold attachReply
  repeat' first | with_reducible assumption | with_reducible apply inRead_keeps | fail_if_no_progress with_reducible apply keeps_upd | split

theorem clLast_keeps {p : Kept} {s : State} {a0 a1} (h : Keeps p s) : Keeps p (clLast a0 a1 s) := by
  unfold clLast
  repeat' first | with_reducible assumption | with_reducible apply setLive_keeps

theorem countEnd_keeps {p : Kept} {s : State} {a0 a1} (h : Keeps p s) : Keeps p (countEnd a0 a1 s) := by
  unfold countEnd
  repeat' first | with_reducible assumption | with_reducible apply clLast_keeps | with_reducible apply countUp_keeps | with_reducible refine ite_keeps (fun _ => ?_) (fun _ => ?_)

theorem setInst_keeps {p : Kept} {s : State} {a0 a1} (h : Keeps p s) : Keeps p (setInst a0 a1 s) := by
  unfold setInst
  repeat' first | with_reducible assumption | fail_if_no_progress with_reducible apply keeps_upd

theorem svcFails_keeps {p : Kept} {s : State} {a0} (h : Keeps p s) : Keeps p (svcFails a0 s) := by
  unfold svcFails
  repeat' first | with_reducible assumption | with_reducible apply setInst_keeps | split

theorem failPart_keeps {p : Kept} {s : State} {a0 a1 a2} (h : Keeps p s) : Keeps p (failPart a0 a1 a2 s) := by
  unfold failPart
  repeat' first
    | with_reducible assumption | with_reducible apply updCore_keeps | with_reducible apply segLanded_keeps | with_reducible apply updChan_keeps
    | with_reducible apply spRespond_keeps | with_reducible apply svcFails_keeps | with_reducible refine ite_keeps (fun _ => ?_) (fun _ => ?_) | split

theorem transitOut_keeps {p : Kept} {s : State} {a0 a1 a2 a3} (h : Keeps p s) : Keeps p (transitOut a0 a1 a2 a3 s) := by
  unfold transitOut
  repeat' first
    | with_reducible assumption | with_reducible apply transmit_keeps | with_reducible apply movedOn_keeps | with_reducible apply countUp_keeps
    | with_reducible refine takeReq_keeps ?_ (by assumption) | with_reducible apply countEnd_keeps | with_reducible apply failPart_keeps
    | with_reducible apply sendResp_keeps | with_reducible refine ite_keeps (fun _ => ?_) (fun _ => ?_) | split

theorem originate_keeps {p : Kept} {s : State} {a0 a1 a2 a3 a4} (h : Keeps p s) : Keeps p (originate a0 a1 a2 a3 a4 s) := by
  unfold originate
  repeat' first
    | with_reducible assumption | with_reducible apply egress_keeps | with_reducible apply countEnd_keeps | with_reducible apply failPart_keeps
    | fail_if_no_progress with_reducible apply keeps_upd | with_reducible refine ite_keeps (fun _ => ?_) (fun _ => ?_) | split

theorem attachFront_keeps {p : Kept} {s : State} {a0} (h : Keeps p s) : Keeps p (attachFront a0 s) := by
  unfold attachFront
  repeat' first
    | with_reducible assumption | with_reducible apply attachReply_keeps | with_reducible apply transitOut_keeps
    | with_reducible apply originate_keeps | fail_if_no_progress with_reducible apply keeps_upd
    | with_reducible refine ite_keeps (fun _ => ?_) (fun _ => ?_) | split

theorem attachDrain_keeps {p : Kept} {s : State} {a0 a1} (h : Keeps p s) : Keeps p (attachDrain a0 a1 s) := by
  induction a1 generalizing s  with
  | zero =>
    unfold attachDrain
    repeat' with_reducible assumption
  | succ _ ih =>
    unfold attachDrain
    repeat' first | with_reducible apply ih | with_reducible assumption | with_reducible apply attachFront_keeps | with_reducible refine ite_keeps (fun _ => ?_) (fun _ => ?_)

theorem reqEnded_keeps {p : Kept} {s : State} {a0} (h : Keeps p s) : Keeps p (reqEnded a0 s) := by
  unfold reqEnded
  repeat' first | with_reducible assumption | with_reducible apply attachDrain_keeps

theorem flushAnswered_keeps {p : Kept} {s : State} {a0 a1} (h : Keeps p s) : Keeps p (flushAnswered a0 a1 s) := by
  unfold flushAnswered
  repeat' first | with_reducible assumption | with_reducible apply finishIn_keeps | with_reducible apply updIn_keeps

theorem inFails_keeps {p : Kept} {s : State} {a0 a1} (h : Keeps p s) : Keeps p (inFails a0 a1 s) := by
  unfold inFails
  repeat' first | with_reducible assumption | with_reducible apply finishIn_keeps | with_reducible apply updIn_keeps

theorem endReq_keeps {p : Kept} {s : State} {a0 a1} (h : Keeps p s) : Keeps p (endReq a0 a1 s) := by
  unfold endReq
  repeat' first
    | with_reducible assumption | with_reducible refine takeReq_keeps ?_ (by assumption) | with_reducible apply reqEnded_keeps
    | with_reducible apply countEnd_keeps | with_reducible apply failPart_keeps | split

theorem attachArrive_keeps {p : Kept} {s : State} {a0 a1} (h : Keeps p s) : Keeps p (attachArrive a0 a1 s) := by
  unfold attachArrive
  repeat' first | with_reducible assumption | with_reducible apply attachDrain_keeps | fail_if_no_progress with_reducible apply keeps_upd

/-! ### Operands -/

theorem useCheck_keeps {p : Kept} {s : State} {a0 a1 a2} (h : Keeps p s) : Keeps p (useCheck a0 a1 a2 s).1 := by
  unfold useCheck
  repeat' first | with_reducible assumption | with_reducible apply accessCheck_keeps

theorem issued_keeps {p : Kept} {s : State} {a0 a1 a2 a3} (h : Keeps p s) : Keeps p (issued a0 a1 a2 a3 s) := by
  unfold issued
  repeat' first | with_reducible assumption | with_reducible apply setCore_keeps

theorem blockThread_keeps {p : Kept} {s : State} {a0 a1 a2 a3} (h : Keeps p s) : Keeps p (blockThread a0 a1 a2 a3 s) := by
  unfold blockThread
  repeat' first | with_reducible assumption | with_reducible apply hdBlocked_keeps | with_reducible apply setCore_keeps

theorem passOffer_keeps {p : Kept} {s : State} {a0 a1 a2} (h : Keeps p s) : Keeps p (passOffer a0 a1 a2 s) := by
  unfold passOffer
  repeat' first | with_reducible assumption | with_reducible apply updCore_keeps

theorem settle_keeps {p : Kept} {c t cycle} {r : IRes} (h : IKeeps p r) : Keeps p (settle c t cycle r) := by
  cases r with
  | fault code s => exact faultThread_keeps h
  | block w s => exact blockThread_keeps h
  | held s => exact passOffer_keeps h
  | done s pc => exact issued_keeps h

theorem issue_keeps {p : Kept} {s : State} {a0 a1 a2} (hF : ∀ k s, Keeps p s → IKeeps p (a2 k s)) (h : Keeps p s) : Keeps p (issue a0 a1 a2 s) := by
  unfold issue
  repeat' first
    | with_reducible assumption | with_reducible apply hF | with_reducible apply faultThread_keeps | with_reducible apply blockThread_keeps
    | with_reducible apply readCheck_keeps | with_reducible apply settle_keeps | with_reducible refine ite_keeps (fun _ => ?_) (fun _ => ?_) | split
    | dsimp only

theorem requestLine_keeps {p : Kept} {s : State} {a0 a1} (h : Keeps p s) : Keeps p (requestLine a0 a1 s) := by
  unfold requestLine
  repeat' first | with_reducible assumption | with_reducible apply injectEngine_keeps | with_reducible apply updCore_keeps

theorem missBlock_keeps {p : Kept} {s : State} {a0 a1} (h : Keeps p s) {w} {t} (e : missBlock a0 a1 s = some (w, t)) : Keeps p t := by
  unfold missBlock at e
  repeat' first | cases e | split at e | dsimp only at e
  repeat' first | with_reducible assumption | with_reducible apply requestLine_keeps | with_reducible refine foldl_keeps2 (fun _ _ _ => ?_) ?_ | split

theorem gateLines_keeps {p : Kept} {s : State} {a0 a1 a2} (h : Keeps p s) {w} {t} (e : gateLines a0 a1 a2 s = some (w, t)) : Keeps p t := by
  unfold gateLines at e
  repeat' first | cases e | split at e | dsimp only at e
  repeat' first | with_reducible assumption | with_reducible refine missBlock_keeps ?_ (by assumption)

theorem gate_keeps {p : Kept} {s : State} {a0 a1} (h : Keeps p s) {w} {t} (e : gate a0 a1 s = some (w, t)) : Keeps p t := by
  unfold gate at e
  repeat' first | with_reducible assumption | with_reducible refine gateLines_keeps ?_ (by assumption)

theorem withPlainReads_keeps {p : Kept} {s : State} {a0 a1 a3} (h : Keeps p s) (hF : ∀ s, Keeps p s → IKeeps p (a3 s)) : IKeeps p (withPlainReads a0 a1 s a3) := by
  unfold withPlainReads
  repeat' first
    | with_reducible assumption | with_reducible apply hF | with_reducible apply ikeeps_fault | with_reducible apply ikeeps_block
    | with_reducible apply useCheck_keeps | with_reducible refine missBlock_keeps ?_ (by assumption) | with_reducible apply updCore_keeps | split
    | dsimp only

theorem withReads_keeps {p : Kept} {s : State} {a0 a1 a3} (h : Keeps p s) (hF : ∀ s, Keeps p s → IKeeps p (a3 s)) : IKeeps p (withReads a0 a1 s a3) := by
  unfold withReads
  repeat' first | with_reducible assumption | with_reducible apply hF | with_reducible apply withPlainReads_keeps | with_reducible apply hdRead_keeps | intro _

theorem useTag_keeps {p : Kept} {s : State} {a0 a1 a2} (h : Keeps p s) : Keeps p (useTag a0 a1 a2 s) := by
  unfold useTag
  repeat' first | with_reducible assumption | with_reducible apply updCore_keeps | with_reducible refine ite_keeps (fun _ => ?_) (fun _ => ?_)

theorem useStore_keeps {p : Kept} {s : State} {a0 a1 a2} (h : Keeps p s) : Keeps p (useStore a0 a1 a2 s) := by
  unfold useStore
  repeat' first | with_reducible assumption | with_reducible apply updCore_keeps | with_reducible apply writeMem_keeps | with_reducible refine ite_keeps (fun _ => ?_) (fun _ => ?_)

theorem updThread_keeps {p : Kept} {s : State} {a0 a1} (h : Keeps p s) : Keeps p (updThread a0 a1 s) := by
  unfold updThread
  repeat' first | with_reducible assumption | with_reducible apply setCore_keeps

/-! ### HostOps -/

theorem hostFail_keeps {p : Kept} {s : State} {a0 a1 a2} (h : Keeps p s) : Keeps p (hostFail a0 a1 a2 s) := by
  unfold hostFail
  repeat' first
    | with_reducible assumption | with_reducible apply countUp_keeps | with_reducible apply recordErrAny_keeps
    | fail_if_no_progress with_reducible apply keeps_upd | with_reducible refine ite_keeps (fun _ => ?_) (fun _ => ?_)

theorem updHost_keeps {p : Kept} {s : State} {a0} (h : Keeps p s) : Keeps p (updHost a0 s) := by
  unfold updHost
  repeat' first | with_reducible assumption | fail_if_no_progress with_reducible apply keeps_upd

theorem askLines_keeps {p : Kept} {s : State} {a0 a1 a2 a3 a4} (h : Keeps p s) : Keeps p (askLines a0 a1 a2 a3 a4 s) := by
  unfold askLines
  repeat' first
    | with_reducible assumption | with_reducible apply emit_keeps | with_reducible apply updHost_keeps | with_reducible apply hostFail_keeps
    | with_reducible refine foldl_keeps (fun _ _ _ => ?_) ?_ | with_reducible refine ite_keeps (fun _ => ?_) (fun _ => ?_)

theorem readHost_keeps {p : Kept} {s : State} {a0 a1 a2 a3} (h : Keeps p s) : Keeps p (readHost a0 a1 a2 a3 s).2 := by
  unfold readHost
  repeat' first | with_reducible assumption | with_reducible apply hostFail_keeps | with_reducible apply askLines_keeps | split

theorem exchWrite_keeps {p : Kept} {s : State} {a l} (h : Keeps p s) : Keeps p (exchWrite a l s) :=
  keeps_exch h (mwf_writeBytes a l h.2.7)

theorem sendLine_keeps {p : Kept} {s : State} {a0} (h : Keeps p s) : Keeps p (sendLine a0 s) := by
  unfold sendLine
  repeat' first | with_reducible assumption | with_reducible apply emit_keeps | with_reducible refine ite_keeps (fun _ => ?_) (fun _ => ?_)

theorem issueLines_keeps {p : Kept} {s : State} {a0} (h : Keeps p s) : Keeps p (issueLines a0 s) := by
  induction a0 generalizing s  with
  | nil =>
    unfold issueLines
    repeat' with_reducible assumption
  | cons _ _ ih =>
    unfold issueLines
    repeat' first
      | with_reducible apply ih | with_reducible assumption | with_reducible apply updHost_keeps | with_reducible apply sendLine_keeps
      | with_reducible refine ite_keeps (fun _ => ?_) (fun _ => ?_)

theorem takeHostReq_keeps {p : Kept} {s : State} {a0} (h : Keeps p s) {w} {t} (e : takeHostReq a0 s = some (w, t)) : Keeps p t := by
  unfold takeHostReq at e
  repeat' first | cases e | split at e
  repeat' first | with_reducible assumption | with_reducible apply updHost_keeps | with_reducible apply issueLines_keeps

theorem lineDone_keeps {p : Kept} {s : State} {a0 a1 a2} (h : Keeps p s) : Keeps p (lineDone a0 a1 a2 s).2 := by
  unfold lineDone
  repeat' first | with_reducible assumption | with_reducible apply updHost_keeps | split | dsimp only

theorem hostSend_keeps {p : Kept} {s : State} {a0 a1 a2 a3 a4 a5} (h : Keeps p s) : Keeps p (hostSend a0 a1 a2 a3 a4 a5 s) := by
  unfold hostSend
  repeat' first | with_reducible assumption | with_reducible apply updHost_keeps | with_reducible apply issueLines_keeps

/-! ### Fabric -/

theorem popUpstream_keeps {p : Kept} {s : State} {a0 a1 a2} (h : Keeps p s) : Keeps p (popUpstream a0 a1 a2 s) := by
  unfold popUpstream
  repeat' first | with_reducible assumption | with_reducible apply setRouter_keeps | with_reducible refine ite_keeps (fun _ => ?_) (fun _ => ?_)

theorem dropArriving_keeps {p : Kept} {s : State} {a0 a1 a2} (h : Keeps p s) : Keeps p (dropArriving a0 a1 a2 s) := by
  unfold dropArriving
  repeat' first
    | with_reducible assumption | with_reducible apply updCore_keeps | with_reducible apply refillCore_keeps | with_reducible apply popUpstream_keeps
    | with_reducible refine ite_keeps (fun _ => ?_) (fun _ => ?_)

theorem hubWrite_keeps {p : Kept} {s : State} {a0} (h : Keeps p s) : Keeps p (hubWrite a0 s) := by
  unfold hubWrite
  repeat' first
    | with_reducible assumption | with_reducible apply notify_keeps | with_reducible apply hostFail_keeps | with_reducible apply landed_keeps
    | with_reducible apply exchWrite_keeps | with_reducible apply hostSend_keeps | split

theorem noteDropped_keeps {p : Kept} {s : State} {a0} (h : Keeps p s) : Keeps p (noteDropped a0 s) := by
  unfold noteDropped
  repeat' first | with_reducible assumption | with_reducible apply copyUnclean_keeps | with_reducible apply movedOn_keeps | split

theorem fabEvent_keeps {p : Kept} {s : State} {a0 a1 a2 a3 a4} (h : Keeps p s) : Keeps p (fabEvent a0 a1 a2 a3 a4 s) := by
  unfold fabEvent
  repeat' first | with_reducible assumption | with_reducible apply recordErr_keeps | with_reducible apply setLive_keeps

theorem dropMsg_keeps {p : Kept} {s : State} {a0 a1 a2 a3} (h : Keeps p s) : Keeps p (dropMsg a0 a1 a2 a3 s) := by
  unfold dropMsg
  repeat' first
    | with_reducible assumption | with_reducible apply noteDropped_keeps | with_reducible apply fabEvent_keeps | with_reducible apply countUp_keeps
    | with_reducible refine ite_keeps (fun _ => ?_) (fun _ => ?_)

theorem sendOut_keeps {p : Kept} {s : State} {a0 a1 a2} (h : Keeps p s) {t} (e : sendOut a0 a1 a2 s = some t) : Keeps p t := by
  unfold sendOut at e
  repeat' first | cases e | split at e | dsimp only at e
  repeat' first | with_reducible assumption | with_reducible apply setRouter_keeps

theorem hop_keeps {p : Kept} {s : State} {a0 a1} (h : Keeps p s) {t} (e : hop a0 a1 s = some t) : Keeps p t := by
  unfold hop at e
  repeat' first | cases e | split at e | dsimp only at e
  repeat' first | with_reducible assumption | with_reducible apply dropMsg_keeps | with_reducible refine sendOut_keeps ?_ (by assumption) | with_reducible apply enqueue_keeps

theorem dropOut_keeps {p : Kept} {s : State} {a0 a1 a2} (h : Keeps p s) : Keeps p (dropOut a0 a1 a2 s) := by
  unfold dropOut
  repeat' first | with_reducible assumption | with_reducible apply dropMsg_keeps | with_reducible apply setRouter_keeps | with_reducible refine foldl_keeps (fun _ _ _ => ?_) ?_

theorem dropBefore_keeps {p : Kept} {s : State} {a0} (h : Keeps p s) : Keeps p (dropBefore a0 s) := by
  unfold dropBefore
  repeat' first | with_reducible assumption | with_reducible apply dropOut_keeps | with_reducible refine foldl_keeps (fun _ _ _ => ?_) ?_ | with_reducible refine ite_keeps (fun _ => ?_) (fun _ => ?_)

theorem pull_keeps {p : Kept} {s : State} {a0 a1 a2 a3} (h : Keeps p s) : Keeps p (pull a0 a1 a2 a3 s) := by
  induction a3 generalizing s  with
  | zero =>
    unfold pull
    repeat' with_reducible assumption
  | succ _ ih =>
    unfold pull
    repeat' first
      | with_reducible apply ih | with_reducible assumption | with_reducible apply enqueue_keeps | with_reducible apply popUpstream_keeps
      | with_reducible refine ite_keeps (fun _ => ?_) (fun _ => ?_) | split

theorem fetchInput_keeps {p : Kept} {s : State} {a0 a1 a2} (h : Keeps p s) : Keeps p (fetchInput a0 a1 a2 s) := by
  unfold fetchInput
  repeat' first | with_reducible assumption | with_reducible apply pull_keeps | with_reducible refine ite_keeps (fun _ => ?_) (fun _ => ?_)

theorem noteGrant_keeps {p : Kept} {s : State} {a0 a1 a2 a3} (h : Keeps p s) : Keeps p (noteGrant a0 a1 a2 a3 s) := by
  unfold noteGrant
  repeat' first | with_reducible assumption | with_reducible apply setRouter_keeps | split

theorem fanNext_keeps {p : Kept} {s : State} {a0} (h : Keeps p s) : Keeps p (fanNext a0 s) := by
  unfold fanNext
  repeat' first | with_reducible assumption | with_reducible apply enqueue_keeps | with_reducible apply setRouter_keeps | split | dsimp only

theorem popHead_keeps {p : Kept} {s : State} {a0 a1 a2} (h : Keeps p s) : Keeps p (popHead a0 a1 a2 s) := by
  unfold popHead
  repeat' first
    | with_reducible assumption | with_reducible apply updCore_keeps | with_reducible apply refillCore_keeps | with_reducible apply setRouter_keeps
    | with_reducible apply fanNext_keeps | with_reducible refine ite_keeps (fun _ => ?_) (fun _ => ?_)

theorem onHead_keeps {p : Kept} {s : State} {a0 a1 a2 a3 a4} (hF : ∀ x s t, Keeps p s → a4 x s = some t → Keeps p t)
    (h : Keeps p s) : Keeps p (onHead a0 a1 a2 a3 a4 s) := by
  have hf : Keeps p (fetchInput a0 a1 a2 s) := fetchInput_keeps h
  unfold onHead
  dsimp only
  split
  · exact h
  · split
    · exact hf
    · split
      · exact hf
      · split
        · exact dropMsg_keeps (popHead_keeps hf)
        · split
          · exact hf
          · refine getD_keeps hf (fun t e0 => ?_)
            obtain ⟨u, e, rfl⟩ := Option.map_eq_some_iff.1 e0
            exact noteGrant_keeps (hF _ _ _ hf e)

theorem replyAtEntry_keeps {p : Kept} {s : State} {a0 a1} (h : Keeps p s) : Keeps p (replyAtEntry a0 a1 s) := by
  unfold replyAtEntry
  repeat' first | with_reducible assumption | with_reducible apply setRouter_keeps | with_reducible refine ite_keeps (fun _ => ?_) (fun _ => ?_) | split | dsimp only

theorem fillArrives_keeps {p : Kept} {s : State} {a0 a1 a2} (h : Keeps p s) : Keeps p (fillArrives a0 a1 a2 s) := by
  unfold fillArrives
  repeat' first | with_reducible assumption | with_reducible apply updCore_keeps

theorem tallyArrives_keeps {p : Kept} {s : State} {a0 a1 a2} (h : Keeps p s) : Keeps p (tallyArrives a0 a1 a2 s) := by
  unfold tallyArrives
  repeat' first | with_reducible assumption | fail_if_no_progress with_reducible apply keeps_upd

theorem channelWake_keeps {p : Kept} {s : State} {a0 a1} (h : Keeps p s) : Keeps p (channelWake a0 a1 s) := by
  unfold channelWake
  repeat' first | with_reducible assumption | with_reducible apply updChan_keeps

theorem readFails_keeps {p : Kept} {s : State} {a0 a1 a2 a3} (h : Keeps p s) : Keeps p (readFails a0 a1 a2 a3 s) := by
  induction a2 generalizing a3 s with
  | zero => exact h
  | succ n ih =>
    unfold readFails
    split
    · split
      · split
        · exact foldl_keeps (fun _ _ g => ih g) (setRouter_keeps h)
        · exact h
      · exact h
    · exact notify_keeps h

theorem readRefused_keeps {p : Kept} {s : State} {a0 a1} (h : Keeps p s) : Keeps p (readRefused a0 a1 s) := by
  unfold readRefused
  repeat' first | with_reducible assumption | with_reducible apply readFails_keeps

theorem hubRead_keeps {p : Kept} {s : State} {a0 a1} (h : Keeps p s) : Keeps p (hubRead a0 a1 s) := by
  unfold hubRead
  repeat' first
    | with_reducible assumption | with_reducible apply readRefused_keeps | with_reducible apply hostFail_keeps
    | with_reducible apply injectEngine_keeps | with_reducible apply hostSend_keeps | split

theorem hubReply_keeps {p : Kept} {s : State} {a0 a1 a2} (h : Keeps p s) : Keeps p (hubReply a0 a1 a2 s) := by
  unfold hubReply
  repeat' first | with_reducible assumption | with_reducible apply updModel_keeps | with_reducible refine ite_keeps (fun _ => ?_) (fun _ => ?_) | split

theorem hubArrive_keeps {p : Kept} {s : State} {a0 a1} (h : Keeps p s) : Keeps p (hubArrive a0 a1 s) := by
  unfold hubArrive
  repeat' first
    | with_reducible assumption | with_reducible apply tallyArrives_keeps | with_reducible apply hubRead_keeps | with_reducible apply hubReply_keeps
    | with_reducible apply hubWrite_keeps | split

theorem deliver_keeps {p : Kept} {s : State} {a0 a1} (h : Keeps p s) : Keeps p (deliver a0 a1 s) := by
  unfold deliver
  repeat' first
    | with_reducible assumption | with_reducible apply updCore_keeps | with_reducible apply replyAtEntry_keeps
    | with_reducible apply fillArrives_keeps | with_reducible apply tallyArrives_keeps | with_reducible apply channelWake_keeps
    | with_reducible apply setStack_keeps | with_reducible apply attachArrive_keeps | with_reducible apply hubArrive_keeps
    | with_reducible refine ite_keeps (fun _ => ?_) (fun _ => ?_) | split

theorem moveOn_keeps {p : Kept} {s : State} {a0 a1} (h : Keeps p s) {t} (e : moveOn a0 a1 s = some t) : Keeps p t := by
  unfold moveOn at e
  repeat' first | cases e | split at e | dsimp only at e
  repeat' first
    | with_reducible assumption | with_reducible refine hop_keeps ?_ (by assumption) | with_reducible apply dropMsg_keeps
    | with_reducible apply deliver_keeps | with_reducible refine sendOut_keeps ?_ (by assumption)

theorem routerHeader_keeps {p : Kept} {s : State} {a0 a1 a2} (h : Keeps p s) : Keeps p (routerHeader a0 a1 a2 s) := by
  unfold routerHeader
  repeat' first | with_reducible assumption | with_reducible apply onHead_keeps | with_reducible refine moveOn_keeps ?_ (by assumption) | with_reducible apply popHead_keeps | intro _

theorem failLink_keeps {p : Kept} {s : State} {a0 a1} (h : Keeps p s) : Keeps p (failLink a0 a1 s) := by
  unfold failLink
  repeat' first | with_reducible assumption | with_reducible apply setRouter_keeps | with_reducible apply dropOut_keeps | with_reducible refine ite_keeps (fun _ => ?_) (fun _ => ?_)

theorem flitReplay_keeps {p : Kept} {s : State} {a0 a1 a2 a3} (h : Keeps p s) : Keeps p (flitReplay a0 a1 a2 a3 s) := by
  unfold flitReplay
  repeat' first
    | with_reducible assumption | with_reducible apply setRouter_keeps | with_reducible apply logTransient_keeps | with_reducible apply fabEvent_keeps
    | with_reducible apply countUp_keeps | with_reducible apply dropMsg_keeps | with_reducible apply dropArriving_keeps
    | with_reducible apply report_keeps | with_reducible apply failLink_keeps | with_reducible refine ite_keeps (fun _ => ?_) (fun _ => ?_) | split

theorem execFlitReplay_keeps {p : Kept} {s : State} {a0 a1 a2 a3} (h : Keeps p s) {t} (e : execFlitReplay a0 a1 a2 a3 s = .next t) : Keeps p t := by
  unfold execFlitReplay at e
  repeat' (injection e with e; subst e)
  repeat' first | with_reducible assumption | with_reducible apply flitReplay_keeps

theorem execRouterHeader_keeps {p : Kept} {s : State} {a0 a1 a2} (h : Keeps p s) {t} (e : execRouterHeader a0 a1 a2 s = .next t) : Keeps p t := by
  unfold execRouterHeader at e
  repeat' (injection e with e; subst e)
  repeat' first | with_reducible assumption | with_reducible apply routerHeader_keeps

theorem parityError_keeps {p : Kept} {s : State} {a0 a1 a2} (h : Keeps p s) : Keeps p (parityError a0 a1 a2 s) := by
  unfold parityError
  repeat' first | with_reducible assumption | with_reducible apply setRouter_keeps | with_reducible refine ite_keeps (fun _ => ?_) (fun _ => ?_)

theorem execFlitParityError_keeps {p : Kept} {s : State} {a0 a1 a2} (h : Keeps p s) {t} (e : execFlitParityError a0 a1 a2 s = .next t) : Keeps p t := by
  unfold execFlitParityError at e
  repeat' (injection e with e; subst e)
  repeat' first | with_reducible assumption | with_reducible apply parityError_keeps

/-! ### Reduce -/

theorem transitRelease_keeps {p : Kept} {s : State} {a0 a1} (h : Keeps p s) : Keeps p (transitRelease a0 a1 s) := by
  unfold transitRelease
  repeat' first
    | with_reducible assumption | with_reducible apply noteGrant_keeps | with_reducible refine moveOn_keeps ?_ (by assumption)
    | with_reducible apply setRouter_keeps | with_reducible refine getD_keeps ?_ (fun _ _ => ?_)
    | with_reducible refine map_keeps (by assumption) (fun _ _ => ?_) | with_reducible refine ite_keeps (fun _ => ?_) (fun _ => ?_) | split
    | dsimp only

theorem execTransitEntryRelease_keeps {p : Kept} {s : State} {a0 a1} (h : Keeps p s) {t} (e : execTransitEntryRelease a0 a1 s = .next t) : Keeps p t := by
  unfold execTransitEntryRelease at e
  repeat' (injection e with e; subst e)
  repeat' first | with_reducible assumption | with_reducible apply transitRelease_keeps

theorem countCombine_keeps {p : Kept} {s : State} {a0} (h : Keeps p s) : Keeps p (countCombine a0 s) := by
  unfold countCombine
  repeat' first | with_reducible assumption | with_reducible apply countUp_keeps

theorem startDelivery_keeps {p : Kept} {s : State} {a0} (h : Keeps p s) : Keeps p (startDelivery a0 s) := by
  unfold startDelivery
  repeat' first | with_reducible assumption | with_reducible apply updCore_keeps | split

theorem setCombine_keeps {p : Kept} {s : State} {a0 a1 a2} (h : Keeps p s) : Keeps p (setCombine a0 a1 a2 s) := by
  unfold setCombine
  repeat' first | with_reducible assumption | with_reducible apply setRouter_keeps

theorem ownerPut_keeps {p : Kept} {s : State} {a0 a1 a2} (h : Keeps p s) : Keeps p (ownerPut a0 a1 a2 s) := by
  unfold ownerPut
  repeat' first | with_reducible assumption | with_reducible apply startDelivery_keeps | with_reducible apply setCombine_keeps

theorem reduceMismatch_keeps {p : Kept} {s : State} {a0 a1 a2} (h : Keeps p s) : Keeps p (reduceMismatch a0 a1 a2 s) := by
  unfold reduceMismatch
  repeat' first | with_reducible assumption | with_reducible apply fabEvent_keeps | with_reducible apply countUp_keeps

theorem reduceOwned_keeps {p : Kept} {s : State} {a0 a1 a2 a3} (h : Keeps p s) {t} (e : reduceOwned a0 a1 a2 a3 s = some t) : Keeps p t := by
  unfold reduceOwned at e
  repeat' first | cases e | split at e | dsimp only at e
  repeat' first
    | with_reducible assumption | with_reducible apply popHead_keeps | with_reducible apply dropMsg_keeps | with_reducible apply fenceRefusedAny_keeps
    | with_reducible apply countCombine_keeps | with_reducible apply ownerPut_keeps | with_reducible apply reduceMismatch_keeps
    | with_reducible apply setRouter_keeps | with_reducible refine ite_keeps (fun _ => ?_) (fun _ => ?_)

theorem reduceAtOwner_keeps {p : Kept} {s : State} {a0 a1 a2} (h : Keeps p s) : Keeps p (reduceAtOwner a0 a1 a2 s) := by
  unfold reduceAtOwner
  repeat' first | with_reducible assumption | with_reducible apply onHead_keeps | with_reducible refine reduceOwned_keeps ?_ (by assumption) | intro _

theorem execReduceAtOwner_keeps {p : Kept} {s : State} {a0 a1 a2} (h : Keeps p s) {t} (e : execReduceAtOwner a0 a1 a2 s = .next t) : Keeps p t := by
  unfold execReduceAtOwner at e
  repeat' (injection e with e; subst e)
  repeat' first | with_reducible assumption | with_reducible apply reduceAtOwner_keeps

theorem reduceOnWay_keeps {p : Kept} {s : State} {a0 a1 a2 a3 a4} (h : Keeps p s) {t} (e : reduceOnWay a0 a1 a2 a3 a4 s = some t) : Keeps p t := by
  unfold reduceOnWay at e
  repeat' first | cases e | split at e | dsimp only at e
  repeat' first
    | with_reducible assumption | with_reducible apply countCombine_keeps | with_reducible apply setCombine_keeps | with_reducible apply popHead_keeps
    | with_reducible refine moveOn_keeps ?_ (by assumption)

theorem reduceAtRouter_keeps {p : Kept} {s : State} {a0 a1 a2 a3} (h : Keeps p s) : Keeps p (reduceAtRouter a0 a1 a2 a3 s) := by
  unfold reduceAtRouter
  repeat' first | with_reducible assumption | with_reducible apply onHead_keeps | with_reducible refine reduceOnWay_keeps ?_ (by assumption) | intro _

theorem execReduceAtRouter_keeps {p : Kept} {s : State} {a0 a1 a2 a3} (h : Keeps p s) {t} (e : execReduceAtRouter a0 a1 a2 a3 s = .next t) : Keeps p t := by
  unfold execReduceAtRouter at e
  repeat' (injection e with e; subst e)
  repeat' first | with_reducible assumption | with_reducible apply reduceAtRouter_keeps

theorem flushReduce_keeps {p : Kept} {s : State} {a0} (h : Keeps p s) : Keeps p (flushReduce a0 s) := by
  unfold flushReduce
  repeat' first | with_reducible assumption | with_reducible apply setRouter_keeps | with_reducible apply countUp_keeps | with_reducible refine foldl_keeps (fun _ _ _ => ?_) ?_

theorem onPage_keeps {p : Kept} {s : State} {a0 a1 a2 a3} (hF : ∀ s, Keeps p s → Keeps p (a3 s)) (h : Keeps p s) : Keeps p (onPage a0 a1 a2 a3 s) := by
  unfold onPage
  repeat' first | with_reducible assumption | with_reducible apply hF | with_reducible apply viaBar_keeps | with_reducible apply dropUnassigned_keeps | split | intro _

theorem execFlushReduce_keeps {p : Kept} {s : State} {a0 a1} (h : Keeps p s) {t} (e : execFlushReduce a0 a1 s = .next t) : Keeps p t := by
  unfold execFlushReduce at e
  repeat' (injection e with e; subst e)
  repeat' first | with_reducible assumption | with_reducible apply onPage_keeps | with_reducible apply flushReduce_keeps | intro _

/-! ### ReadMerge -/

theorem setMerge_keeps {p : Kept} {s : State} {a0 a1 a2} (h : Keeps p s) : Keeps p (setMerge a0 a1 a2 s) := by
  unfold setMerge
  repeat' first | with_reducible assumption | with_reducible apply setRouter_keeps

theorem absorb_keeps {p : Kept} {s : State} {a0 a1 a2} (h : Keeps p s) : Keeps p (absorb a0 a1 a2 s) := by
  unfold absorb
  repeat' first | with_reducible assumption | with_reducible apply countUp_keeps | with_reducible apply setMerge_keeps

theorem openMerge_keeps {p : Kept} {s : State} {a0 a1 a2 a3} (h : Keeps p s) : Keeps p (openMerge a0 a1 a2 a3 s) := by
  unfold openMerge
  repeat' first | with_reducible assumption | with_reducible apply setRouter_keeps

theorem readAtEdge_keeps {p : Kept} {s : State} {a0 a1} (h : Keeps p s) : Keeps p (readAtEdge a0 a1 s) := by
  unfold readAtEdge
  repeat' first | with_reducible assumption | with_reducible apply absorb_keeps | with_reducible apply deliver_keeps | with_reducible apply openMerge_keeps | split

theorem fanout_keeps {p : Kept} {s : State} {a0 a1} (h : Keeps p s) : Keeps p (fanout a0 a1 s) := by
  unfold fanout
  repeat' first
    | with_reducible assumption | with_reducible apply fanNext_keeps | with_reducible apply setRouter_keeps
    | with_reducible refine ite_keeps (fun _ => ?_) (fun _ => ?_) | split | dsimp only

theorem execReadReplyFanout_keeps {p : Kept} {s : State} {a0 a1} (h : Keeps p s) {t} (e : execReadReplyFanout a0 a1 s = .next t) : Keeps p t := by
  unfold execReadReplyFanout at e
  repeat' (injection e with e; subst e)
  repeat' first | with_reducible assumption | with_reducible apply fanout_keeps

theorem readAtEntry_keeps {p : Kept} {s : State} {a0 a1} (h : Keeps p s) {t} (e : readAtEntry a0 a1 s = some t) : Keeps p t := by
  unfold readAtEntry at e
  repeat' first | cases e | split at e
  repeat' first | with_reducible assumption | with_reducible apply absorb_keeps | with_reducible refine moveOn_keeps ?_ (by assumption) | with_reducible apply openMerge_keeps

theorem flushMerge_keeps {p : Kept} {s : State} {a0} (h : Keeps p s) : Keeps p (flushMerge a0 s) := by
  unfold flushMerge
  repeat' first | with_reducible assumption | with_reducible apply setRouter_keeps | with_reducible refine foldl_keeps (fun _ _ _ => ?_) ?_

theorem execFlushMerge_keeps {p : Kept} {s : State} {a0 a1} (h : Keeps p s) {t} (e : execFlushMerge a0 a1 s = .next t) : Keeps p t := by
  unfold execFlushMerge at e
  repeat' (injection e with e; subst e)
  repeat' first | with_reducible assumption | with_reducible apply onPage_keeps | with_reducible apply flushMerge_keeps | intro _

theorem serveRead_keeps {p : Kept} {s : State} {a0 a1 a2} (h : Keeps p s) : Keeps p (serveRead a0 a1 a2 s) := by
  unfold serveRead
  repeat' first
    | with_reducible assumption | with_reducible apply readRefused_keeps | with_reducible apply readCheck_keeps | with_reducible apply openMerge_keeps
    | with_reducible apply injectEngine_keeps | with_reducible refine ite_keeps (fun _ => ?_) (fun _ => ?_) | split | dsimp only

theorem readAtCore_keeps {p : Kept} {s : State} {a0 a1 a2} (h : Keeps p s) {t} (e : readAtCore a0 a1 a2 s = some t) : Keeps p t := by
  unfold readAtCore at e
  repeat' first | cases e | split at e
  repeat' first | with_reducible assumption | with_reducible apply dropMsg_keeps | with_reducible apply absorb_keeps | with_reducible apply serveRead_keeps

theorem mergeClose_keeps {p : Kept} {s : State} {a0 a1} (h : Keeps p s) : Keeps p (mergeClose a0 a1 s) := by
  unfold mergeClose
  repeat' first | with_reducible assumption | with_reducible apply setMerge_keeps | split

theorem execMergeEntryClose_keeps {p : Kept} {s : State} {a0 a1} (h : Keeps p s) {t} (e : execMergeEntryClose a0 a1 s = .next t) : Keeps p t := by
  unfold execMergeEntryClose at e
  repeat' (injection e with e; subst e)
  repeat' first | with_reducible assumption | with_reducible apply mergeClose_keeps

theorem readMerges_keeps {p : Kept} {s : State} {a0 a1 a2 a3 a4} (h : Keeps p s) {t} (e : readMerges a0 a1 a2 a3 a4 s = some t) : Keeps p t := by
  unfold readMerges at e
  repeat' first | cases e | split at e | dsimp only at e
  repeat' first
    | with_reducible assumption | with_reducible apply popHead_keeps | with_reducible apply readRefused_keeps
    | with_reducible apply fenceRefusedAny_keeps | with_reducible refine readAtCore_keeps ?_ (by assumption) | with_reducible apply dropMsg_keeps
    | with_reducible apply deliver_keeps | with_reducible apply readAtEdge_keeps | with_reducible refine readAtEntry_keeps ?_ (by assumption)

theorem readAtMergePoint_keeps {p : Kept} {s : State} {a0 a1 a2 a3} (h : Keeps p s) : Keeps p (readAtMergePoint a0 a1 a2 a3 s) := by
  unfold readAtMergePoint
  repeat' first | with_reducible assumption | with_reducible apply onHead_keeps | with_reducible refine readMerges_keeps ?_ (by assumption) | intro _

theorem execReadAtMergePoint_keeps {p : Kept} {s : State} {a0 a1 a2 a3} (h : Keeps p s) {t} (e : execReadAtMergePoint a0 a1 a2 a3 s = .next t) : Keeps p t := by
  unfold execReadAtMergePoint at e
  repeat' (injection e with e; subst e)
  repeat' first | with_reducible assumption | with_reducible apply readAtMergePoint_keeps

/-! ### Unit -/

theorem grantPermit_keeps {p : Kept} {s : State} {a0} (h : Keeps p s) : Keeps p (grantPermit a0 s) := by
  unfold grantPermit
  repeat' first | with_reducible assumption | with_reducible apply setUnits_keeps | with_reducible apply setLiveF_keeps

theorem grantWaiting_keeps {p : Kept} {s : State} {a0 a1} (h : Keeps p s) : Keeps p (grantWaiting a0 a1 s) := by
  induction a1 generalizing s  with
  | zero =>
    unfold grantWaiting
    repeat' with_reducible assumption
  | succ _ ih =>
    unfold grantWaiting
    repeat' first
      | with_reducible apply ih | with_reducible assumption | with_reducible apply updCore_keeps | with_reducible apply grantPermit_keeps
      | with_reducible refine ite_keeps (fun _ => ?_) (fun _ => ?_) | split

theorem grantAll_keeps {p : Kept} {s : State} {a0} (h : Keeps p s) : Keeps p (grantAll a0 s) := by
  unfold grantAll
  repeat' first | with_reducible assumption | with_reducible apply grantWaiting_keeps

theorem releasePermit_keeps {p : Kept} {s : State} {a0} (h : Keeps p s) : Keeps p (releasePermit a0 s) := by
  unfold releasePermit
  repeat' first | with_reducible assumption | with_reducible apply grantAll_keeps | with_reducible apply setUnits_keeps | with_reducible refine ite_keeps (fun _ => ?_) (fun _ => ?_)

theorem requestPermit_keeps {p : Kept} {s : State} {a0} (h : Keeps p s) : IKeeps p (requestPermit a0 s) := by
  unfold requestPermit
  repeat' first
    | with_reducible assumption | with_reducible apply ikeeps_block | with_reducible apply ikeeps_held | with_reducible apply grantPermit_keeps
    | with_reducible apply setUnits_keeps | with_reducible apply setLive_keeps | with_reducible refine ite_keeps (fun _ => ?_) (fun _ => ?_)
    | with_reducible refine ite_ikeeps (fun _ => ?_) (fun _ => ?_)

theorem entryTaken_keeps {p : Kept} {s : State} {a0 a1 a2} (h : Keeps p s) : Keeps p (entryTaken a0 a1 a2 s) := by
  unfold entryTaken
  repeat' first | with_reducible assumption | with_reducible apply hdRead_keeps | with_reducible apply updCore_keeps

theorem takeEntry_keeps {p : Kept} {s : State} {a0 a1 a2} (h : Keeps p s) : IKeeps p (takeEntry a0 a1 a2 s) := by
  unfold takeEntry
  repeat' first | with_reducible assumption | with_reducible apply ikeeps_done | with_reducible apply entryTaken_keeps

theorem edgeTake_keeps {p : Kept} {s : State} {a0 a1 a2} (h : Keeps p s) : IKeeps p (edgeTake a0 a1 a2 s) := by
  unfold edgeTake
  repeat' first
    | with_reducible assumption | with_reducible apply ikeeps_block | with_reducible apply ikeeps_held
    | with_reducible refine gateLines_keeps ?_ (by assumption) | with_reducible apply takeEntry_keeps | with_reducible apply withReads_keeps
    | with_reducible refine ite_ikeeps (fun _ => ?_) (fun _ => ?_) | split | intro _ | dsimp only

theorem cvtBody_keeps {p : Kept} {s : State} {a0} (h : Keeps p s) : IKeeps p (cvtBody a0 s) := by
  unfold cvtBody
  repeat' first
    | with_reducible assumption | with_reducible apply ikeeps_fault | with_reducible apply ikeeps_done | with_reducible apply edgeTake_keeps
    | with_reducible refine ite_ikeeps (fun _ => ?_) (fun _ => ?_) | split

theorem execQcf_keeps {p : Kept} {s : State} {a0} (h : Keeps p s) {t} (e : execQcf a0 s = .next t) : Keeps p t := by
  unfold execQcf at e
  repeat' (injection e with e; subst e)
  repeat' first | with_reducible assumption | with_reducible apply issue_keeps | with_reducible apply cvtBody_keeps | intro _

theorem arrayBody_keeps {p : Kept} {s : State} {a0} (h : Keeps p s) : IKeeps p (arrayBody a0 s) := by
  unfold arrayBody
  repeat' first
    | with_reducible assumption | with_reducible apply ikeeps_fault | with_reducible apply ikeeps_block | with_reducible apply ikeeps_held
    | with_reducible apply requestPermit_keeps | with_reducible refine gate_keeps ?_ (by assumption) | with_reducible apply takeEntry_keeps
    | with_reducible refine ite_ikeeps (fun _ => ?_) (fun _ => ?_) | split

theorem execMmax_keeps {p : Kept} {s : State} {a0} (h : Keeps p s) {t} (e : execMmax a0 s = .next t) : Keeps p t := by
  unfold execMmax at e
  repeat' (injection e with e; subst e)
  repeat' first | with_reducible assumption | with_reducible apply issue_keeps | with_reducible apply arrayBody_keeps | intro _

theorem requestAhead_keeps {p : Kept} {s : State} {a0 a1 a2} (h : Keeps p s) : Keeps p (requestAhead a0 a1 a2 s) := by
  unfold requestAhead
  repeat' first
    | with_reducible assumption | with_reducible apply requestLine_keeps | with_reducible refine foldl_keeps (fun _ _ _ => ?_) ?_
    | with_reducible refine ite_keeps (fun _ => ?_) (fun _ => ?_)

theorem streamAhead_keeps {p : Kept} {s : State} {a0} (h : Keeps p s) : Keeps p (streamAhead a0 s) := by
  unfold streamAhead
  repeat' first
    | with_reducible assumption | with_reducible apply requestAhead_keeps | with_reducible apply updCore_keeps
    | with_reducible refine ite_keeps (fun _ => ?_) (fun _ => ?_) | split | dsimp only

theorem mvdBody_keeps {p : Kept} {s : State} {a0} (h : Keeps p s) : IKeeps p (mvdBody a0 s) := by
  unfold mvdBody
  repeat' first
    | with_reducible assumption | with_reducible apply ikeeps_fault | with_reducible apply ikeeps_block | with_reducible apply ikeeps_held
    | with_reducible apply ikeeps_done | with_reducible refine gateLines_keeps ?_ (by assumption) | with_reducible apply streamAhead_keeps
    | with_reducible apply entryTaken_keeps | with_reducible refine ite_ikeeps (fun _ => ?_) (fun _ => ?_) | split

theorem execMvd_keeps {p : Kept} {s : State} {a0} (h : Keeps p s) {t} (e : execMvd a0 s = .next t) : Keeps p t := by
  unfold execMvd at e
  repeat' (injection e with e; subst e)
  repeat' first | with_reducible assumption | with_reducible apply issue_keeps | with_reducible apply mvdBody_keeps | intro _

theorem execCvt_keeps {p : Kept} {s : State} {a0} (h : Keeps p s) {t} (e : execCvt a0 s = .next t) : Keeps p t := by
  unfold execCvt at e
  repeat' (injection e with e; subst e)
  repeat' first | with_reducible assumption | with_reducible apply issue_keeps | with_reducible apply cvtBody_keeps | intro _

theorem topkBody_keeps {p : Kept} {s : State} {a0} (h : Keeps p s) : IKeeps p (topkBody a0 s) := by
  unfold topkBody
  repeat' first
    | with_reducible assumption | with_reducible apply ikeeps_fault | with_reducible apply ikeeps_done | with_reducible apply edgeTake_keeps
    | with_reducible refine ite_ikeeps (fun _ => ?_) (fun _ => ?_) | split

theorem execTopk_keeps {p : Kept} {s : State} {a0} (h : Keeps p s) {t} (e : execTopk a0 s = .next t) : Keeps p t := by
  unfold execTopk at e
  repeat' (injection e with e; subst e)
  repeat' first | with_reducible assumption | with_reducible apply issue_keeps | with_reducible apply topkBody_keeps | intro _

theorem execMma_keeps {p : Kept} {s : State} {a0} (h : Keeps p s) {t} (e : execMma a0 s = .next t) : Keeps p t := by
  unfold execMma at e
  repeat' (injection e with e; subst e)
  repeat' first | with_reducible assumption | with_reducible apply issue_keeps | with_reducible apply arrayBody_keeps | intro _

/-! ### Arrival -/

theorem loseLine_keeps {p : Kept} {s : State} {a0 a1 a2} (h : Keeps p s) : Keeps p (loseLine a0 a1 a2 s) := by
  unfold loseLine
  repeat' first | with_reducible assumption | with_reducible apply updCore_keeps | with_reducible apply report_keeps | with_reducible apply recordDma_keeps

theorem writeback_keeps {p : Kept} {s : State} {a0 a1} (h : Keeps p s) : Keeps p (writeback a0 a1 s) := by
  unfold writeback
  repeat' first | with_reducible assumption | with_reducible apply loseLine_keeps | with_reducible apply injectEngine_keeps | with_reducible apply updCore_keeps | split

theorem spargeFinds_keeps {p : Kept} {s : State} {a0 a1 a2} (h : Keeps p s) : Keeps p (spargeFinds a0 a1 a2 s) := by
  unfold spargeFinds
  repeat' first | with_reducible assumption | with_reducible apply updCore_keeps | with_reducible apply report_keeps | split

theorem spargeVisit_keeps {p : Kept} {s : State} {a0 a1 a2} (h : Keeps p s) : Keeps p (spargeVisit a0 a1 a2 s) := by
  unfold spargeVisit
  repeat' first | with_reducible assumption | with_reducible apply spargeFinds_keeps | with_reducible apply updCore_keeps | with_reducible refine ite_keeps (fun _ => ?_) (fun _ => ?_)

theorem execSpargeVisit_keeps {p : Kept} {s : State} {a0 a1 a2} (h : Keeps p s) {t} (e : execSpargeVisit a0 a1 a2 s = .next t) : Keeps p t := by
  unfold execSpargeVisit at e
  repeat' (injection e with e; subst e)
  repeat' first | with_reducible assumption | with_reducible apply spargeVisit_keeps

theorem installLine_keeps {p : Kept} {s : State} {a0 a1} (h : Keeps p s) : Keeps p (installLine a0 a1 s) := by
  unfold installLine
  repeat' first | with_reducible assumption | with_reducible apply setCore_keeps | with_reducible refine ite_keeps (fun _ => ?_) (fun _ => ?_) | split | dsimp only

theorem bankClearDone_keeps {p : Kept} {s : State} {a0 a1} (h : Keeps p s) : Keeps p (bankClearDone a0 a1 s) := by
  unfold bankClearDone
  repeat' first | with_reducible assumption | with_reducible apply updCore_keeps

theorem arrivalWrite_keeps {p : Kept} {s : State} {a0 a1} (h : Keeps p s) : Keeps p (arrivalWrite a0 a1 s) := by
  unfold arrivalWrite
  repeat' first
    | with_reducible assumption | with_reducible apply writeMem_keeps | with_reducible apply updCore_keeps | with_reducible apply hdOutsideWrite_keeps
    | with_reducible apply landed_keeps | with_reducible apply sendNotify_keeps | with_reducible refine ite_keeps (fun _ => ?_) (fun _ => ?_)

theorem missFill_keeps {p : Kept} {s : State} {a0 a1} (h : Keeps p s) : Keeps p (missFill a0 a1 s) := by
  unfold missFill
  repeat' first | with_reducible assumption | with_reducible apply streamAhead_keeps | with_reducible apply installLine_keeps

theorem execCacheMissFill_keeps {p : Kept} {s : State} {a0 a1} (h : Keeps p s) {t} (e : execCacheMissFill a0 a1 s = .next t) : Keeps p t := by
  unfold execCacheMissFill at e
  repeat' (injection e with e; subst e)
  repeat' first | with_reducible assumption | with_reducible apply missFill_keeps

theorem arrivalDiscard_keeps {p : Kept} {s : State} {a0 a1 a2} (h : Keeps p s) : Keeps p (arrivalDiscard a0 a1 a2 s) := by
  unfold arrivalDiscard
  repeat' first | with_reducible assumption | with_reducible apply recordDma_keeps | with_reducible apply notify_keeps | with_reducible refine ite_keeps (fun _ => ?_) (fun _ => ?_)

theorem arrivalDone_keeps {p : Kept} {s : State} {a0 a1} (h : Keeps p s) : Keeps p (arrivalDone a0 a1 s) := by
  unfold arrivalDone
  repeat' first
    | with_reducible assumption | with_reducible apply updCore_keeps | with_reducible apply setRouter_keeps | with_reducible apply startDelivery_keeps
    | with_reducible refine ite_keeps (fun _ => ?_) (fun _ => ?_)

theorem fabricArrival_keeps {p : Kept} {s : State} {a0} (h : Keeps p s) : Keeps p (fabricArrival a0 s) := by
  unfold fabricArrival
  repeat' first
    | with_reducible assumption | with_reducible apply startDelivery_keeps | with_reducible apply arrivalDone_keeps
    | with_reducible apply fenceRefusedAny_keeps | with_reducible apply notify_keeps | with_reducible apply arrivalWrite_keeps
    | with_reducible apply arrivalDiscard_keeps | with_reducible refine ite_keeps (fun _ => ?_) (fun _ => ?_) | split

theorem execCacheWriteback_keeps {p : Kept} {s : State} {a0 a1} (h : Keeps p s) {t} (e : execCacheWriteback a0 a1 s = .next t) : Keeps p t := by
  unfold execCacheWriteback at e
  repeat' (injection e with e; subst e)
  repeat' first | with_reducible assumption | with_reducible apply writeback_keeps

theorem execBankClearDone_keeps {p : Kept} {s : State} {a0 a1} (h : Keeps p s) {t} (e : execBankClearDone a0 a1 s = .next t) : Keeps p t := by
  unfold execBankClearDone at e
  repeat' (injection e with e; subst e)
  repeat' first | with_reducible assumption | with_reducible apply bankClearDone_keeps

theorem execFabricArrival_keeps {p : Kept} {s : State} {a0} (h : Keeps p s) {t} (e : execFabricArrival a0 s = .next t) : Keeps p t := by
  unfold execFabricArrival at e
  repeat' (injection e with e; subst e)
  repeat' first | with_reducible assumption | with_reducible apply fabricArrival_keeps

end Sys2Proof.Machine
end

