-- ==== Sys2Proof/Laws/KeepsTxn.lean ====
section
/-! SUPPORT. What every operation keeps, continued. -/

namespace Sys2Proof.Machine

open Sys2Proof

/-! ### Txn -/

theorem setGrp_keeps {p : Kept} {s : State} {a0 a1} (h : Keeps p s) : Keeps p (setGrp a0 a1 s) := by
  unfold setGrp
  repeat' first | with_reducible assumption | fail_if_no_progress with_reducible apply keeps_upd

theorem endGroup_keeps {p : Kept} {s : State} {a0 a1 a2 a3} (h : Keeps p s) : Keeps p (endGroup a0 a1 a2 a3 s) := by
  unfold endGroup
  repeat' first | with_reducible assumption | with_reducible apply setGrp_keeps | with_reducible apply reloadPage_keeps | with_reducible refine foldl_keeps (fun _ _ _ => ?_) ?_

theorem endPlain_keeps {p : Kept} {s : State} {a0 a1} (h : Keeps p s) : Keeps p (endPlain a0 a1 s) := by
  unfold endPlain
  repeat' first | with_reducible assumption | with_reducible apply endGroup_keeps

theorem tickBefore_keeps {p : Kept} {s : State} {a0} (h : Keeps p s) : Keeps p (tickBefore a0 s) := by
  unfold tickBefore
  repeat' first
    | with_reducible assumption | with_reducible apply endPlain_keeps | with_reducible apply setGrp_keeps
    | with_reducible refine foldl_keeps (fun _ _ _ => ?_) ?_ | with_reducible refine ite_keeps (fun _ => ?_) (fun _ => ?_) | split

theorem enrol_keeps {p : Kept} {s : State} {a0 a1 a2} (h : Keeps p s) : Keeps p (enrol a0 a1 a2 s) := by
  unfold enrol
  repeat' first
    | with_reducible assumption | with_reducible apply dropUnassigned_keeps | with_reducible apply recordErrAny_keeps
    | with_reducible apply setGrp_keeps | with_reducible apply setLive_keeps | with_reducible refine ite_keeps (fun _ => ?_) (fun _ => ?_) | split

theorem setSel_keeps {p : Kept} {s : State} {a0 a1} (h : Keeps p s) : Keeps p (setSel a0 a1 s) := by
  unfold setSel
  repeat' first | with_reducible assumption | fail_if_no_progress with_reducible apply keeps_upd

theorem allocGroup_keeps {p : Kept} {s : State} {a0} (h : Keeps p s) : Keeps p (allocGroup a0 s) := by
  unfold allocGroup
  repeat' first | with_reducible assumption | with_reducible apply setSel_keeps | with_reducible apply setGrp_keeps | split

theorem execTxnAlloc_keeps {p : Kept} {s : State} {a0} (h : Keeps p s) {t} (e : execTxnAlloc a0 s = .next t) : Keeps p t := by
  unfold execTxnAlloc at e
  repeat' (injection e with e; subst e)
  repeat' first | with_reducible assumption | with_reducible apply viaBar_keeps | with_reducible apply allocGroup_keeps | intro _

theorem withdraw_keeps {p : Kept} {s : State} {a0 a1 a2} (h : Keeps p s) : Keeps p (withdraw a0 a1 a2 s) := by
  unfold withdraw
  repeat' first
    | with_reducible assumption | with_reducible apply dropUnassigned_keeps | with_reducible apply recordErrAny_keeps
    | with_reducible apply setLive_keeps | with_reducible apply setGrp_keeps | with_reducible refine ite_keeps (fun _ => ?_) (fun _ => ?_) | split

theorem clearEnrol_keeps {p : Kept} {s : State} {a0} (h : Keeps p s) : Keeps p (clearEnrol a0 s) := by
  unfold clearEnrol
  repeat' first | with_reducible assumption | with_reducible apply setLive_keeps | with_reducible refine foldl_keeps (fun _ _ _ => ?_) ?_

theorem tickLock_keeps {p : Kept} {s : State} {a0} (h : Keeps p s) : Keeps p (tickLock a0 s) := by
  unfold tickLock
  repeat' first | with_reducible assumption | with_reducible apply endPlain_keeps | with_reducible refine foldl_keeps (fun _ _ _ => ?_) ?_ | with_reducible refine ite_keeps (fun _ => ?_) (fun _ => ?_)

theorem txnState_keeps {p : Kept} {s : State} (h : Keeps p s) : Keeps p (txnState s) := by
  unfold txnState
  repeat' first | with_reducible assumption | with_reducible apply recordErrAny_keeps

theorem armGroup_keeps {p : Kept} {s : State} {a0} (h : Keeps p s) : Keeps p (armGroup a0 s) := by
  unfold armGroup
  repeat' first
    | with_reducible assumption | with_reducible apply txnState_keeps | with_reducible apply endPlain_keeps | with_reducible apply setGrp_keeps
    | with_reducible refine ite_keeps (fun _ => ?_) (fun _ => ?_)

theorem execBlkTxnEnrol_keeps {p : Kept} {s : State} {a0 a1 a2} (h : Keeps p s) {t} (e : execBlkTxnEnrol a0 a1 a2 s = .next t) : Keeps p t := by
  unfold execBlkTxnEnrol at e
  repeat' (injection e with e; subst e)
  repeat' first | with_reducible assumption | with_reducible apply viaBar_keeps | with_reducible apply enrol_keeps | intro _

theorem abortGroup_keeps {p : Kept} {s : State} {a0} (h : Keeps p s) : Keeps p (abortGroup a0 s) := by
  unfold abortGroup
  repeat' first | with_reducible assumption | with_reducible apply endPlain_keeps | with_reducible apply txnState_keeps | with_reducible refine ite_keeps (fun _ => ?_) (fun _ => ?_)

theorem execTxnAbort_keeps {p : Kept} {s : State} {a0} (h : Keeps p s) {t} (e : execTxnAbort a0 s = .next t) : Keeps p t := by
  unfold execTxnAbort at e
  repeat' (injection e with e; subst e)
  repeat' first | with_reducible assumption | with_reducible apply viaBar_keeps | with_reducible apply abortGroup_keeps | intro _

theorem execBlkTxnWithdraw_keeps {p : Kept} {s : State} {a0 a1 a2} (h : Keeps p s) {t} (e : execBlkTxnWithdraw a0 a1 a2 s = .next t) : Keeps p t := by
  unfold execBlkTxnWithdraw at e
  repeat' (injection e with e; subst e)
  repeat' first | with_reducible assumption | with_reducible apply viaBar_keeps | with_reducible apply withdraw_keeps | intro _

theorem execTxnArm_keeps {p : Kept} {s : State} {a0} (h : Keeps p s) {t} (e : execTxnArm a0 s = .next t) : Keeps p t := by
  unfold execTxnArm at e
  repeat' (injection e with e; subst e)
  repeat' first | with_reducible assumption | with_reducible apply viaBar_keeps | with_reducible apply armGroup_keeps | intro _

theorem claimPage_keeps {p : Kept} {s : State} {a0} (h : Keeps p s) : Keeps p (claimPage a0 s) := by
  unfold claimPage
  repeat' first | with_reducible assumption | with_reducible apply endGroup_keeps | with_reducible refine ite_keeps (fun _ => ?_) (fun _ => ?_) | split

theorem losePage_keeps {p : Kept} {s : State} {a0} (h : Keeps p s) : Keeps p (losePage a0 s) := by
  unfold losePage
  repeat' first | with_reducible assumption | with_reducible apply claimPage_keeps | with_reducible apply setGrp_keeps | split | dsimp only

theorem armNow_keeps {p : Kept} {s : State} {a0} (h : Keeps p s) : Keeps p (armNow a0 s) := by
  unfold armNow
  repeat' first
    | with_reducible assumption | with_reducible apply txnState_keeps | with_reducible apply endPlain_keeps | with_reducible apply setGrp_keeps
    | with_reducible refine ite_keeps (fun _ => ?_) (fun _ => ?_)

theorem loseBeatGroups_keeps {p : Kept} {s : State} (h : Keeps p s) : Keeps p (loseBeatGroups s) := by
  unfold loseBeatGroups
  repeat' first | with_reducible assumption | with_reducible apply endPlain_keeps | with_reducible refine foldl_keeps (fun _ _ _ => ?_) ?_ | with_reducible refine ite_keeps (fun _ => ?_) (fun _ => ?_)

theorem releaseGroup_keeps {p : Kept} {s : State} {a0} (h : Keeps p s) : Keeps p (releaseGroup a0 s) := by
  unfold releaseGroup
  repeat' first
    | with_reducible assumption | with_reducible apply setGrp_keeps | with_reducible apply clearEnrol_keeps | with_reducible apply txnState_keeps
    | with_reducible refine ite_keeps (fun _ => ?_) (fun _ => ?_)

theorem execTxnArmNow_keeps {p : Kept} {s : State} {a0} (h : Keeps p s) {t} (e : execTxnArmNow a0 s = .next t) : Keeps p t := by
  unfold execTxnArmNow at e
  repeat' (injection e with e; subst e)
  repeat' first | with_reducible assumption | with_reducible apply viaBar_keeps | with_reducible apply armNow_keeps | intro _

theorem execTxnRelease_keeps {p : Kept} {s : State} {a0} (h : Keeps p s) {t} (e : execTxnRelease a0 s = .next t) : Keeps p t := by
  unfold execTxnRelease at e
  repeat' (injection e with e; subst e)
  repeat' first | with_reducible assumption | with_reducible apply viaBar_keeps | with_reducible apply releaseGroup_keeps | intro _

/-! ### Beat -/

theorem noteArrival_keeps {p : Kept} {s : State} {a0} (h : Keeps p s) : Keeps p (noteArrival a0 s) := by
  unfold noteArrival
  repeat' first | with_reducible assumption | fail_if_no_progress with_reducible apply keeps_beat

theorem candLinkDown_keeps {p : Kept} {s : State} {a0} (h : Keeps p s) : Keeps p (candLinkDown a0 s) := by
  unfold candLinkDown
  repeat' first | with_reducible assumption | fail_if_no_progress with_reducible apply keeps_beat

theorem beatCommitShadows_keeps {p : Kept} {s : State} (h : Keeps p s) : Keeps p (beatCommitShadows s) := by
  unfold beatCommitShadows
  repeat' first | with_reducible assumption | with_reducible apply commitPage_keeps

theorem setCand_keeps {p : Kept} {s : State} {a0 a1} (h : Keeps p s) : Keeps p (setCand a0 a1 s) := by
  unfold setCand
  repeat' first | with_reducible assumption | fail_if_no_progress with_reducible apply keeps_beat | split

theorem candTimeout_keeps {p : Kept} {s : State} {a0 a1} (h : Keeps p s) : Keeps p (candTimeout a0 a1 s) := by
  unfold candTimeout
  repeat' first | with_reducible assumption | with_reducible apply setCand_keeps | with_reducible refine ite_keeps (fun _ => ?_) (fun _ => ?_)

theorem execCandLockTimeout_keeps {p : Kept} {s : State} {a0 a1} (h : Keeps p s) {t} (e : execCandLockTimeout a0 a1 s = .next t) : Keeps p t := by
  unfold execCandLockTimeout at e
  repeat' (injection e with e; subst e)
  repeat' first | with_reducible assumption | with_reducible apply candTimeout_keeps

theorem restart_keeps {p : Kept} {s : State} (h : Keeps p s) : Keeps p (restart s) := by
  unfold restart
  by_cases e : s.beat.mode = .locked
  · rw [if_pos e]; exact h
  · rw [if_neg e]
    split
    · exact reloadPage_keeps (recordErr_keeps h)
    · have g := beatCommitShadows_keeps h
      have g1 : (beatCommitShadows s).pending = p.1 := congrArg Prod.fst g.1
      have g2 : ((beatCommitShadows s).beat.now, (beatCommitShadows s).beat.last) = p.2.1 := congrArg (fun x => x.2.1) g.1
      have h3 : (s.beat.mode == .locked) = p.2.2 := congrArg (fun x => x.2.2) h.1
      have h4 : p.2.2 = false := by rw [← h3]; exact beq_eq_false_iff_ne.mpr e
      refine ⟨Prod.ext g1 (Prod.ext g2 (Eq.trans ?_ h4.symm)), ⟨g.2.1, g.2.2, g.2.3, g.2.4, g.2.5, g.2.6, g.2.7⟩⟩
      dsimp only
      split <;> rfl

theorem execBeatRestart_keeps {p : Kept} {s : State} (h : Keeps p s) {t} (e : execBeatRestart s = .next t) : Keeps p t := by
  unfold execBeatRestart at e
  repeat' (injection e with e; subst e)
  repeat' first | with_reducible assumption | with_reducible apply restart_keeps

/-! ### StackOps -/

theorem stackLast_keeps {p : Kept} {s : State} {a0 a1} (h : Keeps p s) : Keeps p (stackLast a0 a1 s) := by
  unfold stackLast
  repeat' first | with_reducible assumption | with_reducible apply setStack_keeps

theorem eccEvent_keeps {p : Kept} {a0 a1 a3} {a2 : Option Code × State} (h : Keeps p a2.2) : Keeps p (eccEvent a0 a1 a2 a3).2 := by
  unfold eccEvent
  split
  · exact countUp_keeps h
  · exact logTransient_keeps (countUp_keeps h)
  · exact report_keeps (recordErrAny_keeps (stackLast_keeps h))
  · exact h

theorem rising_putBytes {m : Map Byte} {a : Nat} {l : List Byte} (h : rising m = true) : rising (putBytes m a l) = true := by
  induction l generalizing m a with
  | nil => exact h
  | cons b l ih => exact ih (rising_mput a b h)

theorem writeUnit_keeps {p : Kept} {s : State} {k chk a l} (h : Keeps p s) : Keeps p (writeUnit k chk a l s) := by
  refine ⟨h.1, ⟨h.2.1, h.2.2, h.2.3, rising_putBytes h.2.4, rising_mput _ _ h.2.5, ?_, h.2.7⟩⟩
  dsimp only [writeUnit]
  split
  · exact rising_mput _ _ h.2.6
  · exact h.2.6

theorem requestFails_keeps {p : Kept} {s : State} {a0 a1 a2} (h : Keeps p s) : Keeps p (requestFails a0 a1 a2 s) := by
  unfold requestFails
  repeat' first
    | with_reducible assumption | with_reducible apply readRefused_keeps | with_reducible apply notify_keeps
    | with_reducible apply fenceRefusedAny_keeps | with_reducible refine ite_keeps (fun _ => ?_) (fun _ => ?_) | split

theorem eccEvents_keeps {p : Kept} {s : State} {a0 a1 a2} (h : Keeps p s) : Keeps p (eccEvents a0 a1 a2 s).2 := by
  unfold eccEvents
  repeat' first | with_reducible assumption | with_reducible apply eccEvent_keeps | with_reducible refine foldl_keeps2 (fun _ _ _ => ?_) ?_

theorem readUnit_keeps {p : Kept} {s : State} {a0 a1 a2 a3 a4 a5 a6} (h : Keeps p s) : Keeps p (readUnit a0 a1 a2 a3 a4 a5 a6 s).2 := by
  unfold readUnit
  repeat' first
    | with_reducible assumption | with_reducible apply logTransient_keeps | with_reducible apply countUp_keeps | with_reducible apply report_keeps
    | with_reducible apply recordErrAny_keeps | with_reducible apply stackLast_keeps | split | dsimp only

theorem readUnits_keeps {p : Kept} {s : State} {a0 a1 a2 a3 a4 a5 a6} (h : Keeps p s) : Keeps p (readUnits a0 a1 a2 a3 a4 a5 a6 s).2 := by
  induction a6 generalizing s with
  | nil => exact h
  | cons q l ih =>
    have g := readUnit_keeps (a0 := a0) (a1 := a1) (a2 := a2) (a3 := a3) (a4 := a4) (a5 := a5 + q.1) (a6 := q.2) h
    have g2 := ih g
    unfold readUnits
    split
    · rename_i e; rw [e] at g; exact g
    · rename_i e
      rw [e] at g2
      split
      · rename_i e2; rw [e2] at g2; exact g2
      · rename_i e2; rw [e2] at g2; exact g2

theorem stackRead_keeps {p : Kept} {s : State} {a0 a1 a2 a3 a4} (h : Keeps p s) : Keeps p (stackRead a0 a1 a2 a3 a4 s).2 := by
  unfold stackRead
  repeat' first
    | with_reducible assumption | with_reducible apply stackLast_keeps | with_reducible apply eccEvents_keeps | with_reducible apply readUnits_keeps
    | with_reducible refine snd_keeps (by assumption) ?_ | split | dsimp only

theorem serveStackRead_keeps {p : Kept} {s : State} {a0 a1 a2} (h : Keeps p s) : Keeps p (serveStackRead a0 a1 a2 s) := by
  unfold serveStackRead
  repeat' first
    | with_reducible assumption | with_reducible apply requestFails_keeps | with_reducible apply stackLast_keeps
    | with_reducible apply stackRead_keeps | with_reducible apply injectEngine_keeps | with_reducible refine snd_keeps (by assumption) ?_ | split
    | dsimp only

theorem writeStack_keeps {p : Kept} {s : State} {a0 a1 a2 a3} (h : Keeps p s) : Keeps p (writeStack a0 a1 a2 a3 s) := by
  unfold writeStack
  repeat' first | with_reducible assumption | with_reducible apply writeUnit_keeps | with_reducible refine foldl_keeps (fun _ _ _ => ?_) ?_

theorem stackPut_keeps {p : Kept} {s : State} {a0 a1 a2 a3 a4} (h : Keeps p s) : Keeps p (stackPut a0 a1 a2 a3 a4 s).2 := by
  unfold stackPut
  repeat' first | with_reducible assumption | with_reducible apply eccEvents_keeps | with_reducible apply writeStack_keeps | with_reducible refine snd_keeps (by assumption) ?_ | split

theorem serveSegIn_keeps {p : Kept} {s : State} {a0 a1 a2 a3 a4 a5} (h : Keeps p s) : Keeps p (serveSegIn a0 a1 a2 a3 a4 a5 s) := by
  unfold serveSegIn
  repeat' first
    | with_reducible assumption | with_reducible apply failPart_keeps | with_reducible apply fenceRefusedAny_keeps
    | with_reducible apply stackPut_keeps | with_reducible apply segLanded_keeps | with_reducible refine snd_keeps (by assumption) ?_
    | with_reducible refine ite_keeps (fun _ => ?_) (fun _ => ?_) | split

theorem stackWrite_keeps {p : Kept} {s : State} {a0 a1 a2 a3} (h : Keeps p s) : Keeps p (stackWrite a0 a1 a2 a3 s).2 := by
  unfold stackWrite
  repeat' first | with_reducible assumption | with_reducible apply stackLast_keeps | with_reducible apply stackPut_keeps | split

theorem serveStackWrite_keeps {p : Kept} {s : State} {a0 a1 a2} (h : Keeps p s) : Keeps p (serveStackWrite a0 a1 a2 s) := by
  unfold serveStackWrite
  repeat' first
    | with_reducible assumption | with_reducible apply serveSegIn_keeps | with_reducible apply requestFails_keeps
    | with_reducible apply stackLast_keeps | with_reducible apply stackWrite_keeps | with_reducible apply landed_keeps
    | with_reducible apply sendNotify_keeps | with_reducible refine snd_keeps (by assumption) ?_ | split

theorem serveFront_keeps {p : Kept} {s : State} {a0 a1} (h : Keeps p s) : Keeps p (serveFront a0 a1 s) := by
  unfold serveFront
  repeat' first
    | with_reducible assumption | with_reducible apply setStack_keeps | with_reducible apply serveStackRead_keeps
    | with_reducible apply serveStackWrite_keeps | with_reducible refine ite_keeps (fun _ => ?_) (fun _ => ?_) | split

theorem serveEarlier_keeps {p : Kept} {s : State} {a0 a1 a2 a3 a4} (h : Keeps p s) : Keeps p (serveEarlier a0 a1 a2 a3 a4 s) := by
  induction a4 generalizing s  with
  | zero =>
    unfold serveEarlier
    repeat' with_reducible assumption
  | succ _ ih =>
    unfold serveEarlier
    repeat' first | with_reducible apply ih | with_reducible assumption | with_reducible apply serveFront_keeps | with_reducible refine ite_keeps (fun _ => ?_) (fun _ => ?_)

theorem inOrder_keeps {p : Kept} {s : State} {a0 a1 a2 a3} (h : Keeps p s) : Keeps p (inOrder a0 a1 a2 a3 s) := by
  unfold inOrder
  repeat' first | with_reducible assumption | with_reducible apply serveEarlier_keeps

theorem requestRow_keeps {p : Kept} {s : State} {a0 a1 a2} (h : Keeps p s) : Keeps p (requestRow a0 a1 a2 s) := by
  unfold requestRow
  repeat' first | with_reducible assumption | with_reducible apply serveFront_keeps | with_reducible refine ite_keeps (fun _ => ?_) (fun _ => ?_) | split

theorem execStackWriteRequest_keeps {p : Kept} {s : State} {a0 a1} (h : Keeps p s) {t} (e : execStackWriteRequest a0 a1 s = .next t) : Keeps p t := by
  unfold execStackWriteRequest at e
  repeat' (injection e with e; subst e)
  repeat' first | with_reducible assumption | with_reducible apply requestRow_keeps

theorem execStackReadRequest_keeps {p : Kept} {s : State} {a0 a1} (h : Keeps p s) {t} (e : execStackReadRequest a0 a1 s = .next t) : Keeps p t := by
  unfold execStackReadRequest at e
  repeat' (injection e with e; subst e)
  repeat' first | with_reducible assumption | with_reducible apply requestRow_keeps

/-! ### Kv -/

theorem subReserved_keeps {p : Kept} {s : State} {a0 a1} (h : Keeps p s) : Keeps p (subReserved a0 a1 s) := by
  unfold subReserved
  repeat' first | with_reducible assumption | with_reducible apply updModel_keeps

theorem freeFrame_keeps {p : Kept} {s : State} {a0 a1 a2} (h : Keeps p s) : Keeps p (freeFrame a0 a1 a2 s) := by
  unfold freeFrame
  repeat' first | with_reducible assumption | with_reducible apply updModel_keeps

theorem updServing_keeps {p : Kept} {s : State} {a0} (h : Keeps p s) : Keeps p (updServing a0 s) := by
  unfold updServing
  repeat' first | with_reducible assumption | fail_if_no_progress with_reducible apply keeps_upd

theorem setPx_keeps {p : Kept} {s : State} {a0 a1} (h : Keeps p s) : Keeps p (setPx a0 a1 s) := by
  unfold setPx
  repeat' first | with_reducible assumption | with_reducible apply updServing_keeps

theorem pxRelease_keeps {p : Kept} {s : State} {a0} (h : Keeps p s) : Keeps p (pxRelease a0 s) := by
  unfold pxRelease
  repeat' first | with_reducible assumption | with_reducible apply freeFrame_keeps | with_reducible apply setPx_keeps | with_reducible refine ite_keeps (fun _ => ?_) (fun _ => ?_) | split

theorem setStream_keeps {p : Kept} {s : State} {a0 a1} (h : Keeps p s) : Keeps p (setStream a0 a1 s) := by
  unfold setStream
  repeat' first | with_reducible assumption | with_reducible apply updServing_keeps

theorem updStream_keeps {p : Kept} {s : State} {a0 a1} (h : Keeps p s) : Keeps p (updStream a0 a1 s) := by
  unfold updStream
  repeat' first | with_reducible assumption | with_reducible apply setStream_keeps

theorem releaseKv_keeps {p : Kept} {s : State} {a0 a1 a2} (h : Keeps p s) : Keeps p (releaseKv a0 a1 a2 s) := by
  unfold releaseKv
  repeat' first
    | with_reducible assumption | with_reducible apply freeFrame_keeps | with_reducible apply pxRelease_keeps | with_reducible apply updStream_keeps
    | with_reducible apply subReserved_keeps | with_reducible refine foldl_keeps (fun _ _ _ => ?_) ?_
    | with_reducible refine ite_keeps (fun _ => ?_) (fun _ => ?_) | split

theorem pxChild_keeps {p : Kept} {s : State} {a0 a1} (h : Keeps p s) : Keeps p (pxChild a0 a1 s) := by
  unfold pxChild
  repeat' first | with_reducible assumption | with_reducible apply setPx_keeps | split

theorem pxDetach_keeps {p : Kept} {s : State} {a0} (h : Keeps p s) : Keeps p (pxDetach a0 s) := by
  unfold pxDetach
  repeat' first
    | with_reducible assumption | with_reducible apply pxChild_keeps | with_reducible apply freeFrame_keeps | with_reducible apply setPx_keeps
    | with_reducible refine ite_keeps (fun _ => ?_) (fun _ => ?_) | split

theorem pxDetachAll_keeps {p : Kept} {s : State} {a0} (h : Keeps p s) : Keeps p (pxDetachAll a0 s) := by
  unfold pxDetachAll
  repeat' first | with_reducible assumption | with_reducible apply pxDetach_keeps | with_reducible refine foldl_keeps (fun _ _ _ => ?_) ?_

theorem writeMap_keeps {p : Kept} {s : State} {a0 a1 a2 a3} (h : Keeps p s) : Keeps p (writeMap a0 a1 a2 a3 s) := by
  unfold writeMap
  repeat' first | with_reducible assumption | with_reducible apply stackWrite_keeps

theorem evict_keeps {p : Kept} {s : State} {a0} (h : Keeps p s) : Keeps p (evict a0 s) := by
  unfold evict
  repeat' first | with_reducible assumption | with_reducible apply countUp_keeps | with_reducible apply freeFrame_keeps | with_reducible apply setPx_keeps | with_reducible apply pxChild_keeps

theorem takeFrame_keeps {p : Kept} {s : State} {a0} (h : Keeps p s) {w} {t} (e : takeFrame a0 s = some (w, t)) : Keeps p t := by
  unfold takeFrame at e
  repeat' first | cases e | split at e | dsimp only at e
  repeat' first | with_reducible assumption | with_reducible apply updModel_keeps | with_reducible apply evict_keeps

theorem allocBlock_keeps {p : Kept} {s : State} {a0 a1 a2 a3} (h : Keeps p s) : Keeps p (allocBlock a0 a1 a2 a3 s) := by
  unfold allocBlock
  repeat' first
    | with_reducible assumption | with_reducible refine takeFrame_keeps ?_ (by assumption) | with_reducible apply writeMap_keeps
    | with_reducible apply subReserved_keeps | with_reducible apply updStream_keeps | with_reducible refine ite_keeps (fun _ => ?_) (fun _ => ?_)
    | split

theorem pxSlot_keeps {p : Kept} {s : State} (h : Keeps p s) {w} {t} (e : pxSlot s = some (w, t)) : Keeps p t := by
  unfold pxSlot at e
  repeat' first | cases e | split at e
  repeat' first | with_reducible assumption | with_reducible apply evict_keeps

theorem publishOne_keeps {p : Kept} {s : State} {a0 a1 a2 a3} (h : Keeps p s) : Keeps p (publishOne a0 a1 a2 a3 s) := by
  unfold publishOne
  repeat' first
    | with_reducible assumption | with_reducible apply updStream_keeps | with_reducible refine pxSlot_keeps ?_ (by assumption)
    | with_reducible apply setPx_keeps | with_reducible apply pxChild_keeps | split | dsimp only

theorem publish_keeps {p : Kept} {s : State} {a0 a1 a2 a3 a4 a5} (h : Keeps p s) : Keeps p (publish a0 a1 a2 a3 a4 a5 s) := by
  induction a5 generalizing s  with
  | zero =>
    unfold publish
    repeat' with_reducible assumption
  | succ _ ih =>
    unfold publish
    repeat' first | with_reducible apply ih | with_reducible assumption | with_reducible apply publishOne_keeps | with_reducible refine ite_keeps (fun _ => ?_) (fun _ => ?_)

theorem allocCand_keeps {p : Kept} {s : State} {a0 a1 a2} (h : Keeps p s) : Keeps p (allocCand a0 a1 a2 s) := by
  unfold allocCand
  repeat' first
    | with_reducible assumption | with_reducible refine takeFrame_keeps ?_ (by assumption) | with_reducible apply subReserved_keeps
    | with_reducible apply updStream_keeps | with_reducible refine ite_keeps (fun _ => ?_) (fun _ => ?_) | split

theorem adoptOne_keeps {p : Kept} {s : State} {a0 a1 a2 a3 a5} (h : Keeps p s) : Keeps p (adoptOne a0 a1 a2 a3 s a5) := by
  unfold adoptOne
  repeat' first | with_reducible assumption | with_reducible apply writeMap_keeps | with_reducible apply updStream_keeps | with_reducible apply setPx_keeps | split

theorem adopt_keeps {p : Kept} {s : State} {a0 a1 a2 a3 a4} (h : Keeps p s) : Keeps p (adopt a0 a1 a2 a3 a4 s) := by
  unfold adopt
  repeat' first | with_reducible assumption | with_reducible apply adoptOne_keeps | with_reducible refine foldl_keeps (fun _ _ _ => ?_) ?_

theorem allocBlocks_keeps {p : Kept} {s : State} {a0 a1 a2 a3 a4} (h : Keeps p s) : Keeps p (allocBlocks a0 a1 a2 a3 a4 s) := by
  unfold allocBlocks
  repeat' first
    | with_reducible assumption | with_reducible apply allocBlock_keeps | with_reducible refine foldl_keeps (fun _ _ _ => ?_) ?_
    | with_reducible refine ite_keeps (fun _ => ?_) (fun _ => ?_)

theorem addReserved_keeps {p : Kept} {s : State} {a0 a1} (h : Keeps p s) : Keeps p (addReserved a0 a1 s) := by
  unfold addReserved
  repeat' first | with_reducible assumption | with_reducible apply updModel_keeps

/-! ### ServeOps -/

theorem freeStage_keeps {p : Kept} {s : State} {a0 a1} (h : Keeps p s) : Keeps p (freeStage a0 a1 s) := by
  unfold freeStage
  repeat' first | with_reducible assumption | with_reducible apply updModel_keeps

theorem setInflight_keeps {p : Kept} {s : State} {a0 a1 a2} (h : Keeps p s) : Keeps p (setInflight a0 a1 a2 s) := by
  unfold setInflight
  repeat' first | with_reducible assumption | with_reducible apply setLiveF_keeps | with_reducible refine ite_keeps (fun _ => ?_) (fun _ => ?_)

theorem flightEnds_keeps {p : Kept} {s : State} {a0 a1} (h : Keeps p s) : Keeps p (flightEnds a0 a1 s) := by
  unfold flightEnds
  repeat' first | with_reducible assumption | with_reducible apply setInflight_keeps

theorem batchEnds_keeps {p : Kept} {s : State} {a0} (h : Keeps p s) : Keeps p (batchEnds a0 s) := by
  unfold batchEnds
  repeat' first
    | with_reducible assumption | with_reducible apply freeStage_keeps | with_reducible apply flightEnds_keeps | with_reducible apply updServing_keeps
    | with_reducible refine ite_keeps (fun _ => ?_) (fun _ => ?_) | split

theorem setAdapter_keeps {p : Kept} {s : State} {a0 a1} (h : Keeps p s) : Keeps p (setAdapter a0 a1 s) := by
  unfold setAdapter
  repeat' first | with_reducible assumption | fail_if_no_progress with_reducible apply keeps_upd

theorem adapterRef_keeps {p : Kept} {s : State} {a0 a1} (h : Keeps p s) : Keeps p (adapterRef a0 a1 s) := by
  unfold adapterRef
  repeat' first | with_reducible assumption | with_reducible apply setAdapter_keeps

theorem setEpochSt_keeps {p : Kept} {s : State} {a0 a1 a2} (h : Keeps p s) : Keeps p (setEpochSt a0 a1 a2 s) := by
  unfold setEpochSt
  repeat' first | with_reducible assumption | with_reducible apply setLiveF_keeps

theorem queueEntry_keeps {p : Kept} {s : State} {a0} (h : Keeps p s) : Keeps p (queueEntry a0 s) := by
  unfold queueEntry
  repeat' first | with_reducible assumption | with_reducible apply updServing_keeps

theorem setSession_keeps {p : Kept} {s : State} {a0 a1} (h : Keeps p s) : Keeps p (setSession a0 a1 s) := by
  unfold setSession
  repeat' first | with_reducible assumption | fail_if_no_progress with_reducible apply keeps_upd

theorem freeStream_keeps {p : Kept} {s : State} {a0} (h : Keeps p s) : Keeps p (freeStream a0 s) := by
  unfold freeStream
  repeat' first
    | with_reducible assumption | with_reducible apply adapterRef_keeps | with_reducible apply freeStage_keeps | with_reducible apply releaseKv_keeps
    | with_reducible apply setSession_keeps | with_reducible apply setStream_keeps | with_reducible refine ite_keeps (fun _ => ?_) (fun _ => ?_)
    | split

theorem endStream_keeps {p : Kept} {s : State} {a0 a1} (h : Keeps p s) : Keeps p (endStream a0 a1 s) := by
  unfold endStream
  repeat' first
    | with_reducible assumption | with_reducible apply updStream_keeps | with_reducible apply freeStream_keeps
    | with_reducible refine ite_keeps (fun _ => ?_) (fun _ => ?_) | split | dsimp only

theorem setLastCode_keeps {p : Kept} {s : State} {a0 a1} (h : Keeps p s) : Keeps p (setLastCode a0 a1 s) := by
  unfold setLastCode
  repeat' first | with_reducible assumption | with_reducible apply updStream_keeps

theorem reissue_keeps {p : Kept} {s : State} {a0 a1 a2} (h : Keeps p s) : Keeps p (reissue a0 a1 a2 s) := by
  unfold reissue
  repeat' first | with_reducible assumption | with_reducible apply updStream_keeps

theorem result_keeps {p : Kept} {s : State} {a0 a1 a2 a3} (h : Keeps p s) : Keeps p (result a0 a1 a2 a3 s) := by
  unfold result
  repeat' first | with_reducible assumption | with_reducible apply setLastCode_keeps | with_reducible apply queueEntry_keeps

theorem stepLeaves_keeps {p : Kept} {s : State} {a0 a1} (h : Keeps p s) : Keeps p (stepLeaves a0 a1 s) := by
  unfold stepLeaves
  repeat' first
    | with_reducible assumption | with_reducible apply batchEnds_keeps | with_reducible apply flightEnds_keeps | with_reducible apply freeStage_keeps
    | with_reducible refine ite_keeps (fun _ => ?_) (fun _ => ?_) | split

theorem notice_keeps {p : Kept} {s : State} {a0 a1 a2} (h : Keeps p s) : Keeps p (notice a0 a1 a2 s) := by
  unfold notice
  repeat' first
    | with_reducible assumption | with_reducible apply setLastCode_keeps | with_reducible apply queueEntry_keeps
    | with_reducible apply updServing_keeps | with_reducible refine ite_keeps (fun _ => ?_) (fun _ => ?_)

theorem endNotice_keeps {p : Kept} {s : State} {a0} (h : Keeps p s) : Keeps p (endNotice a0 s) := by
  unfold endNotice
  repeat' first | with_reducible assumption | with_reducible apply freeStream_keeps | with_reducible apply notice_keeps

theorem abandonStep_keeps {p : Kept} {s : State} {a0} (h : Keeps p s) : Keeps p (abandonStep a0 s) := by
  unfold abandonStep
  repeat' first
    | with_reducible assumption | with_reducible apply updStream_keeps | with_reducible apply stepLeaves_keeps | with_reducible apply endNotice_keeps
    | with_reducible apply reissue_keeps | with_reducible refine ite_keeps (fun _ => ?_) (fun _ => ?_) | split | dsimp only

theorem endWith_keeps {p : Kept} {s : State} {a0 a1} (h : Keeps p s) : Keeps p (endWith a0 a1 s) := by
  unfold endWith
  repeat' first | with_reducible assumption | with_reducible apply endStream_keeps | with_reducible apply notice_keeps | with_reducible refine ite_keeps (fun _ => ?_) (fun _ => ?_)

theorem setStaged_keeps {p : Kept} {s : State} {a0 a1 a2} (h : Keeps p s) : Keeps p (setStaged a0 a1 a2 s) := by
  unfold setStaged
  repeat' first | with_reducible assumption | with_reducible apply setLiveF_keeps

theorem epochEmpty_keeps {p : Kept} {s : State} {a0 a1} (h : Keeps p s) : Keeps p (epochEmpty a0 a1 s) := by
  unfold epochEmpty
  repeat' first
    | with_reducible assumption | with_reducible apply pxDetachAll_keeps | with_reducible apply setStaged_keeps
    | with_reducible apply setEpochSt_keeps | with_reducible apply updModel_keeps

theorem setModelState_keeps {p : Kept} {s : State} {a0 a1} (h : Keeps p s) : Keeps p (setModelState a0 a1 s) := by
  unfold setModelState
  repeat' first | with_reducible assumption | with_reducible apply setLiveF_keeps

/-! ### Handle -/

theorem dmqBody_keeps {p : Kept} {s : State} {a0} (h : Keeps p s) : IKeeps p (dmqBody a0 s) := by
  unfold dmqBody
  repeat' first
    | with_reducible assumption | with_reducible apply ikeeps_fault | with_reducible apply ikeeps_block | with_reducible apply ikeeps_done
    | with_reducible apply sendNotify_keeps | with_reducible apply updCore_keeps | with_reducible refine ite_ikeeps (fun _ => ?_) (fun _ => ?_)
    | split | dsimp only

theorem execDmq_keeps {p : Kept} {s : State} {a0} (h : Keeps p s) {t} (e : execDmq a0 s = .next t) : Keeps p t := by
  unfold execDmq at e
  repeat' (injection e with e; subst e)
  repeat' first | with_reducible assumption | with_reducible apply issue_keeps | with_reducible apply dmqBody_keeps | intro _

theorem bindBody_keeps {p : Kept} {s : State} {a0} (h : Keeps p s) : IKeeps p (bindBody a0 s) := by
  unfold bindBody
  repeat' first
    | with_reducible assumption | with_reducible apply ikeeps_fault | with_reducible apply ikeeps_done | with_reducible apply updCore_keeps
    | with_reducible refine ite_ikeeps (fun _ => ?_) (fun _ => ?_) | split

theorem execBind_keeps {p : Kept} {s : State} {a0} (h : Keeps p s) {t} (e : execBind a0 s = .next t) : Keeps p t := by
  unfold execBind at e
  repeat' (injection e with e; subst e)
  repeat' first | with_reducible assumption | with_reducible apply issue_keeps | with_reducible apply bindBody_keeps | intro _

theorem unbindBody_keeps {p : Kept} {s : State} {a0} (h : Keeps p s) : IKeeps p (unbindBody a0 s) := by
  unfold unbindBody
  repeat' first
    | with_reducible assumption | with_reducible apply ikeeps_fault | with_reducible apply ikeeps_done | with_reducible apply updCore_keeps
    | with_reducible refine ite_ikeeps (fun _ => ?_) (fun _ => ?_)

theorem execUnbind_keeps {p : Kept} {s : State} {a0} (h : Keeps p s) {t} (e : execUnbind a0 s = .next t) : Keeps p t := by
  unfold execUnbind at e
  repeat' (injection e with e; subst e)
  repeat' first | with_reducible assumption | with_reducible apply issue_keeps | with_reducible apply unbindBody_keeps | intro _

/-! ### Dma -/

theorem reportTransfer_keeps {p : Kept} {s : State} {a0 a1} (h : Keeps p s) : Keeps p (reportTransfer a0 a1 s) := by
  unfold reportTransfer
  repeat' first | with_reducible assumption | with_reducible apply report_keeps | with_reducible refine ite_keeps (fun _ => ?_) (fun _ => ?_) | split

theorem updDesc_keeps {p : Kept} {s : State} {a0 a1 a2} (h : Keeps p s) : Keeps p (updDesc a0 a1 a2 s) := by
  unfold updDesc
  repeat' first | with_reducible assumption | with_reducible apply updCore_keeps

theorem failDesc_keeps {p : Kept} {s : State} {a0 a1 a2} (h : Keeps p s) : Keeps p (failDesc a0 a1 a2 s) := by
  unfold failDesc
  repeat' first | with_reducible assumption | with_reducible apply updDesc_keeps

theorem sendRemote_keeps {p : Kept} {s : State} {a0 a1 a2 a3 a4 a5} (h : Keeps p s) : Keeps p (sendRemote a0 a1 a2 a3 a4 a5 s) := by
  unfold sendRemote
  repeat' first | with_reducible assumption | with_reducible apply injectEngine_keeps

theorem startPut_keeps {p : Kept} {s : State} {a0 a1 a2 a3} (h : Keeps p s) : Keeps p (startPut a0 a1 a2 a3 s) := by
  unfold startPut
  repeat' first
    | with_reducible assumption | with_reducible apply updDesc_keeps | with_reducible apply injectEngine_keeps | with_reducible apply failDesc_keeps
    | with_reducible apply sendRemote_keeps | with_reducible apply hostFail_keeps | with_reducible refine foldl_keeps (fun _ _ _ => ?_) ?_ | split
    | dsimp only

theorem readPut_keeps {p : Kept} {s : State} {a0 a1 a2} (h : Keeps p s) : Keeps p (readPut a0 a1 a2 s) := by
  unfold readPut
  repeat' first
    | with_reducible assumption | with_reducible apply readCheck_keeps | with_reducible apply failDesc_keeps | with_reducible apply startPut_keeps
    | with_reducible refine ite_keeps (fun _ => ?_) (fun _ => ?_) | split | dsimp only

theorem startClean_keeps {p : Kept} {s : State} {a0 a1 a2} (h : Keeps p s) : Keeps p (startClean a0 a1 a2 s) := by
  unfold startClean
  repeat' first
    | with_reducible assumption | with_reducible apply loseLine_keeps | with_reducible apply injectEngine_keeps | with_reducible apply updCore_keeps
    | with_reducible apply updDesc_keeps | with_reducible refine foldl_keeps (fun _ _ _ => ?_) ?_
    | with_reducible refine ite_keeps (fun _ => ?_) (fun _ => ?_)

theorem getPieces_keeps {p : Kept} {s : State} {a0 a1 a2} (h : Keeps p s) : Keeps p (getPieces a0 a1 a2 s) := by
  unfold getPieces
  repeat' first | with_reducible assumption | with_reducible apply injectEngine_keeps | with_reducible refine foldl_keeps (fun _ _ _ => ?_) ?_

theorem startGet_keeps {p : Kept} {s : State} {a0 a1 a2} (h : Keeps p s) : Keeps p (startGet a0 a1 a2 s) := by
  unfold startGet
  repeat' first
    | with_reducible assumption | with_reducible apply sendRemote_keeps | with_reducible apply failDesc_keeps | with_reducible apply hostFail_keeps
    | with_reducible apply getPieces_keeps | with_reducible refine foldl_keeps (fun _ _ _ => ?_) ?_ | split

theorem activate_keeps {p : Kept} {s : State} {c d k} (h : Keeps p s) : Keeps p (activate c d k s) := by
  unfold activate
  dsimp only
  refine ite_keeps (fun _ => startClean_keeps (updDesc_keeps h)) (fun _ => ?_)
  generalize remoteOf s c d = r
  rcases r with e | _ | _ | o | x
  · dsimp only
    by_cases g : e = E.unmapped
    · rw [if_pos g]
      exact countEnd_keeps (failDesc_keeps (updDesc_keeps h))
    · rw [if_neg g]
      exact failDesc_keeps (updDesc_keeps h)
  · exact ite_keeps (fun _ => startGet_keeps (updDesc_keeps h)) (fun _ => readPut_keeps (updDesc_keeps h))
  all_goals
    dsimp only
    refine ite_keeps (fun _ => ite_keeps (fun _ => ?_) (fun _ => ?_)) (fun _ => h)
    · exact startGet_keeps (keeps_upd (updDesc_keeps h))
    · exact readPut_keeps (keeps_upd (updDesc_keeps h))

theorem descStart_keeps {p : Kept} {s : State} {a0 a1} (h : Keeps p s) : Keeps p (descStart a0 a1 s) := by
  unfold descStart
  repeat' first | with_reducible assumption | with_reducible apply readPut_keeps | with_reducible apply activate_keeps | with_reducible refine ite_keeps (fun _ => ?_) (fun _ => ?_) | split

theorem execDmaDescStart_keeps {p : Kept} {s : State} {a0 a1} (h : Keeps p s) {t} (e : execDmaDescStart a0 a1 s = .next t) : Keeps p t := by
  unfold execDmaDescStart at e
  repeat' (injection e with e; subst e)
  repeat' first | with_reducible assumption | with_reducible apply descStart_keeps

theorem descFailed_keeps {p : Kept} {s : State} {a0 a1} (h : Keeps p s) : Keeps p (descFailed a0 a1 s) := by
  unfold descFailed
  repeat' first | with_reducible assumption | with_reducible apply reportTransfer_keeps | with_reducible apply recordDma_keeps | with_reducible apply updCore_keeps | split

theorem descDone_keeps {p : Kept} {s : State} {a0 a1} (h : Keeps p s) : Keeps p (descDone a0 a1 s) := by
  unfold descDone
  repeat' first
    | with_reducible assumption | with_reducible apply updCore_keeps | with_reducible apply sendNotify_keeps | with_reducible apply descFailed_keeps
    | fail_if_no_progress with_reducible apply keeps_upd

theorem descEnd_keeps {p : Kept} {s : State} {a0 a1} (h : Keeps p s) : Keeps p (descEnd a0 a1 s) := by
  unfold descEnd
  repeat' first | with_reducible assumption | with_reducible apply descDone_keeps | with_reducible refine ite_keeps (fun _ => ?_) (fun _ => ?_) | split

theorem execDmaDescEnd_keeps {p : Kept} {s : State} {a0 a1} (h : Keeps p s) {t} (e : execDmaDescEnd a0 a1 s = .next t) : Keeps p t := by
  unfold execDmaDescEnd at e
  repeat' (injection e with e; subst e)
  repeat' first | with_reducible assumption | with_reducible apply descEnd_keeps

theorem missFails_keeps {p : Kept} {s : State} {a0 a1 a2} (h : Keeps p s) : Keeps p (missFails a0 a1 a2 s) := by
  unfold missFails
  repeat' first | with_reducible assumption | with_reducible apply updCore_keeps | with_reducible apply faultThread_keeps | with_reducible refine foldl_keeps (fun _ _ _ => ?_) ?_

theorem readLost_keeps {p : Kept} {s : State} {a0 a1} (h : Keeps p s) : Keeps p (readLost a0 a1 s) := by
  unfold readLost
  repeat' first | with_reducible assumption | with_reducible apply updModel_keeps | with_reducible refine ite_keeps (fun _ => ?_) (fun _ => ?_) | split

theorem noticeActs_keeps {p : Kept} {s : State} {a0} (h : Keeps p s) : Keeps p (noticeActs a0 s) := by
  unfold noticeActs
  repeat' first
    | with_reducible assumption | with_reducible apply failDesc_keeps | with_reducible apply missFails_keeps | with_reducible apply recordDma_keeps
    | with_reducible apply failPart_keeps | with_reducible apply inFails_keeps | with_reducible apply flushAnswered_keeps
    | with_reducible apply readLost_keeps | with_reducible apply copyUnclean_keeps | split

theorem failureNotice_keeps {p : Kept} {s : State} {a0} (h : Keeps p s) : Keeps p (failureNotice a0 s) := by
  unfold failureNotice
  repeat' first | with_reducible assumption | with_reducible apply noticeActs_keeps | fail_if_no_progress with_reducible apply keeps_upd | split

theorem execFailureNotice_keeps {p : Kept} {s : State} {a0} (h : Keeps p s) {t} (e : execFailureNotice a0 s = .next t) : Keeps p t := by
  unfold execFailureNotice at e
  repeat' (injection e with e; subst e)
  repeat' first | with_reducible assumption | with_reducible apply failureNotice_keeps

/-! ### UnitEvents -/

theorem faultUnit_keeps {p : Kept} {s : State} {a0 a1 a2} (h : Keeps p s) : Keeps p (faultUnit a0 a1 a2 s) := by
  unfold faultUnit
  repeat' first | with_reducible assumption | with_reducible apply noteFault_keeps | with_reducible apply setCore_keeps

theorem stickUnit_keeps {p : Kept} {s : State} {a0 a1 a2} (h : Keeps p s) : Keeps p (stickUnit a0 a1 a2 s) := by
  unfold stickUnit
  repeat' first | with_reducible assumption | with_reducible apply faultUnit_keeps | with_reducible apply updCore_keeps

theorem retireUnit_keeps {p : Kept} {s : State} {a0 a1} (h : Keeps p s) : Keeps p (retireUnit a0 a1 s) := by
  unfold retireUnit
  repeat' first | with_reducible assumption | with_reducible apply updCore_keeps

theorem drainDone_keeps {p : Kept} {s : State} {a0 a1} (h : Keeps p s) : Keeps p (drainDone a0 a1 s) := by
  unfold drainDone
  repeat' first
    | with_reducible assumption | with_reducible apply readCheck_keeps | with_reducible apply updCore_keeps | with_reducible apply stickUnit_keeps
    | with_reducible apply retireUnit_keeps | with_reducible apply writeMem_keeps | split | dsimp only

theorem execArrayDrainDone_keeps {p : Kept} {s : State} {a0 a1} (h : Keeps p s) {t} (e : execArrayDrainDone a0 a1 s = .next t) : Keeps p t := by
  unfold execArrayDrainDone at e
  repeat' (injection e with e; subst e)
  repeat' first | with_reducible assumption | with_reducible apply drainDone_keeps | with_reducible refine ite_keeps (fun _ => ?_) (fun _ => ?_)

theorem permitIdle_keeps {p : Kept} {s : State} {a0} (h : Keeps p s) : Keeps p (permitIdle a0 s) := by
  unfold permitIdle
  repeat' first | with_reducible assumption | with_reducible apply releasePermit_keeps | with_reducible refine ite_keeps (fun _ => ?_) (fun _ => ?_)

theorem execHqPermitRelease_keeps {p : Kept} {s : State} {a0} (h : Keeps p s) {t} (e : execHqPermitRelease a0 s = .next t) : Keeps p t := by
  unfold execHqPermitRelease at e
  repeat' (injection e with e; subst e)
  repeat' first | with_reducible assumption | with_reducible apply permitIdle_keeps | with_reducible refine ite_keeps (fun _ => ?_) (fun _ => ?_)

theorem stagingDone_keeps {p : Kept} {s : State} {a0 a1} (h : Keeps p s) : Keeps p (stagingDone a0 a1 s) := by
  unfold stagingDone
  repeat' first | with_reducible assumption | with_reducible apply readCheck_keeps | with_reducible apply updCore_keeps | with_reducible apply stickUnit_keeps | split | dsimp only

theorem execArrayStagingDone_keeps {p : Kept} {s : State} {a0 a1} (h : Keeps p s) {t} (e : execArrayStagingDone a0 a1 s = .next t) : Keeps p t := by
  unfold execArrayStagingDone at e
  repeat' (injection e with e; subst e)
  repeat' first | with_reducible assumption | with_reducible apply stagingDone_keeps | with_reducible refine ite_keeps (fun _ => ?_) (fun _ => ?_)

theorem mvdDone_keeps {p : Kept} {s : State} {a0} (h : Keeps p s) : Keeps p (mvdDone a0 s) := by
  unfold mvdDone
  repeat' first | with_reducible assumption | with_reducible apply retireUnit_keeps | with_reducible apply updCore_keeps | split

theorem arrayFailed_keeps {p : Kept} {s : State} {a0 a1} (h : Keeps p s) : Keeps p (arrayFailed a0 a1 s) := by
  unfold arrayFailed
  repeat' first
    | with_reducible assumption | with_reducible apply updCore_keeps | with_reducible apply faultUnit_keeps | with_reducible apply releasePermit_keeps
    | with_reducible refine foldl_keeps (fun _ _ _ => ?_) ?_ | with_reducible refine ite_keeps (fun _ => ?_) (fun _ => ?_)

theorem passCheck_keeps {p : Kept} {s : State} {a0 a1} (h : Keeps p s) : Keeps p (passCheck a0 a1 s) := by
  unfold passCheck
  repeat' first
    | with_reducible assumption | with_reducible apply updCore_keeps | with_reducible apply report_keeps | with_reducible apply arrayFailed_keeps
    | with_reducible apply logTransient_keeps | with_reducible refine ite_keeps (fun _ => ?_) (fun _ => ?_) | split

theorem execArrayPassCheck_keeps {p : Kept} {s : State} {a0 a1} (h : Keeps p s) {t} (e : execArrayPassCheck a0 a1 s = .next t) : Keeps p t := by
  unfold execArrayPassCheck at e
  repeat' (injection e with e; subst e)
  repeat' first | with_reducible assumption | with_reducible apply passCheck_keeps | with_reducible refine ite_keeps (fun _ => ?_) (fun _ => ?_)

theorem streamAgain_keeps {p : Kept} {s : State} {a0 a1} (h : Keeps p s) : Keeps p (streamAgain a0 a1 s) := by
  unfold streamAgain
  repeat' first | with_reducible assumption | with_reducible apply streamAhead_keeps | with_reducible apply updCore_keeps

theorem edgeEnd_keeps {p : Kept} {s : State} {a0 a1} (h : Keeps p s) : Keeps p (edgeEnd a0 a1 s) := by
  unfold edgeEnd
  repeat' first | with_reducible assumption | with_reducible apply readCheck_keeps | with_reducible apply updCore_keeps | with_reducible apply stickUnit_keeps | split | dsimp only

theorem nextMvd_keeps {p : Kept} {s : State} {a0} (h : Keeps p s) : Keeps p (nextMvd a0 s) := by
  unfold nextMvd
  repeat' first | with_reducible assumption | with_reducible apply streamAhead_keeps | with_reducible apply updCore_keeps

theorem streamEnd_keeps {p : Kept} {s : State} {a0} (h : Keeps p s) : Keeps p (streamEnd a0 s) := by
  unfold streamEnd
  repeat' first | with_reducible assumption | with_reducible apply updCore_keeps | split

theorem execArrayStreamEnd_keeps {p : Kept} {s : State} {a0} (h : Keeps p s) {t} (e : execArrayStreamEnd a0 s = .next t) : Keeps p t := by
  unfold execArrayStreamEnd at e
  repeat' (injection e with e; subst e)
  repeat' first | with_reducible assumption | with_reducible apply streamEnd_keeps | with_reducible refine ite_keeps (fun _ => ?_) (fun _ => ?_)

theorem mvdStreamEnd_keeps {p : Kept} {s : State} {a0 a1} (h : Keeps p s) : Keeps p (mvdStreamEnd a0 a1 s) := by
  unfold mvdStreamEnd
  repeat' first
    | with_reducible assumption | with_reducible apply streamAhead_keeps | with_reducible apply accessCheck_keeps | with_reducible apply nextMvd_keeps
    | with_reducible apply stickUnit_keeps | with_reducible apply streamAgain_keeps | with_reducible apply updCore_keeps
    | with_reducible refine ite_keeps (fun _ => ?_) (fun _ => ?_) | split | dsimp only

theorem execMvdResult_keeps {p : Kept} {s : State} {a0} (h : Keeps p s) {t} (e : execMvdResult a0 s = .next t) : Keeps p t := by
  unfold execMvdResult at e
  repeat' (injection e with e; subst e)
  repeat' first | with_reducible assumption | with_reducible apply mvdDone_keeps | with_reducible refine ite_keeps (fun _ => ?_) (fun _ => ?_)

theorem execMvdStreamEnd_keeps {p : Kept} {s : State} {a0 a1} (h : Keeps p s) {t} (e : execMvdStreamEnd a0 a1 s = .next t) : Keeps p t := by
  unfold execMvdStreamEnd at e
  repeat' (injection e with e; subst e)
  repeat' first | with_reducible assumption | with_reducible apply mvdStreamEnd_keeps | with_reducible refine ite_keeps (fun _ => ?_) (fun _ => ?_)

theorem edgeStore_keeps {p : Kept} {s : State} {a0 a1 a2 a3} (h : Keeps p s) : Keeps p (edgeStore a0 a1 a2 a3 s) := by
  unfold edgeStore
  repeat' first
    | with_reducible assumption | with_reducible apply partialCheck_keeps | with_reducible apply stickUnit_keeps
    | with_reducible apply retireUnit_keeps | with_reducible apply updCore_keeps | with_reducible apply writeMem_keeps
    | with_reducible refine foldl_keeps (fun _ _ _ => ?_) ?_ | with_reducible refine foldl_keeps1 (fun _ _ _ => ?_) ?_ | split | dsimp only

theorem edgeReady_keeps {p : Kept} {s : State} {a0 a1} (h : Keeps p s) : Keeps p (edgeReady a0 a1 s) := by
  unfold edgeReady
  repeat' first
    | with_reducible assumption | with_reducible apply edgeStore_keeps | with_reducible apply setCore_keeps | with_reducible apply requestAhead_keeps
    | with_reducible refine ite_keeps (fun _ => ?_) (fun _ => ?_) | split | dsimp only

theorem execEdgeResultReady_keeps {p : Kept} {s : State} {a0 a1} (h : Keeps p s) {t} (e : execEdgeResultReady a0 a1 s = .next t) : Keeps p t := by
  unfold execEdgeResultReady at e
  repeat' (injection e with e; subst e)
  repeat' first | with_reducible assumption | with_reducible apply edgeReady_keeps | with_reducible refine ite_keeps (fun _ => ?_) (fun _ => ?_)

theorem execEdgeOccupancyEnd_keeps {p : Kept} {s : State} {a0 a1} (h : Keeps p s) {t} (e : execEdgeOccupancyEnd a0 a1 s = .next t) : Keeps p t := by
  unfold execEdgeOccupancyEnd at e
  repeat' (injection e with e; subst e)
  repeat' first | with_reducible assumption | with_reducible apply edgeEnd_keeps | with_reducible refine ite_keeps (fun _ => ?_) (fun _ => ?_)

/-! ### Caw -/

theorem cawStatus_keeps {p : Kept} {s : State} {a0 a1} (h : Keeps p s) : Keeps p (cawStatus a0 a1 s) := by
  unfold cawStatus
  repeat' first | with_reducible assumption | with_reducible apply setLive_keeps

theorem viaWindow_keeps {p : Kept} {s : State} {a0 a1 a2} (hF : ∀ s, Keeps p s → Keeps p (a2 s)) (h : Keeps p s) : Keeps p (viaWindow a0 a1 a2 s) := by
  unfold viaWindow
  repeat' first | with_reducible assumption | with_reducible apply hF | with_reducible apply onPage_keeps | with_reducible apply cawStatus_keeps | split | intro _

theorem openCmd_keeps {p : Kept} {s : State} {a0 a1 a2} (h : Keeps p s) : Keeps p (openCmd a0 a1 a2 s) := by
  unfold openCmd
  repeat' first | with_reducible assumption | with_reducible apply cawStatus_keeps | with_reducible apply setCore_keeps

theorem execThreadStart_keeps {p : Kept} {s : State} {a0 a1 a2} (h : Keeps p s) {t} (e : execThreadStart a0 a1 a2 s = .next t) : Keeps p t := by
  unfold execThreadStart at e
  repeat' (injection e with e; subst e)
  repeat' first | with_reducible assumption | with_reducible apply viaWindow_keeps | with_reducible apply openCmd_keeps | intro _

theorem refuseSealed_keeps {p : Kept} {s : State} {a0} (h : Keeps p s) : Keeps p (refuseSealed a0 s) := by
  unfold refuseSealed
  repeat' first | with_reducible assumption | with_reducible apply cawStatus_keeps | with_reducible apply countUp_keeps

theorem coreCmd_keeps {p : Kept} {s : State} {a0 a1 a2 a3} (h : Keeps p s) : Keeps p (coreCmd a0 a1 a2 a3 s) := by
  unfold coreCmd
  repeat' first
    | with_reducible assumption | with_reducible apply refuseSealed_keeps | with_reducible apply cawStatus_keeps | with_reducible apply openCmd_keeps
    | with_reducible refine ite_keeps (fun _ => ?_) (fun _ => ?_)

theorem cawReserved_keeps {p : Kept} {s : State} {a0} (h : Keeps p s) : Keeps p (cawReserved a0 s) := by
  unfold cawReserved
  repeat' first | with_reducible assumption | with_reducible apply cawStatus_keeps | with_reducible apply recordErrAny_keeps

theorem sealedCmd_keeps {p : Kept} {s : State} {a0 a1 a2 a3} (h : Keeps p s) : Keeps p (sealedCmd a0 a1 a2 a3 s) := by
  unfold sealedCmd
  repeat' first
    | with_reducible assumption | with_reducible apply refuseSealed_keeps | with_reducible apply cawStatus_keeps | with_reducible apply setCore_keeps
    | with_reducible refine ite_keeps (fun _ => ?_) (fun _ => ?_)

theorem cawLive_keeps {p : Kept} {s : State} {a0 a1 a2 a3} (h : Keeps p s) : Keeps p (cawLive a0 a1 a2 a3 s) := by
  unfold cawLive
  repeat' first
    | with_reducible assumption | with_reducible apply cawStatus_keeps | with_reducible apply cawReserved_keeps | with_reducible apply openCmd_keeps
    | with_reducible apply coreCmd_keeps | with_reducible apply sealedCmd_keeps | with_reducible refine ite_keeps (fun _ => ?_) (fun _ => ?_)

theorem cawLocked_keeps {p : Kept} {s : State} {a0} (h : Keeps p s) : Keeps p (cawLocked a0 s) := by
  unfold cawLocked
  repeat' first | with_reducible assumption | with_reducible apply cawStatus_keeps | with_reducible apply recordErrAny_keeps

theorem cawShadow_keeps {p : Kept} {s : State} {a0 a1 a2 a3} (h : Keeps p s) : Keeps p (cawShadow a0 a1 a2 a3 s) := by
  unfold cawShadow
  repeat' first
    | with_reducible assumption | with_reducible apply cawStatus_keeps | with_reducible apply refuseSealed_keeps
    | with_reducible apply cawLocked_keeps | with_reducible apply updCore_keeps | with_reducible refine ite_keeps (fun _ => ?_) (fun _ => ?_)

theorem cawCtx_keeps {p : Kept} {s : State} {a0 a1 a2 a3} (h : Keeps p s) : Keeps p (cawCtx a0 a1 a2 a3 s) := by
  unfold cawCtx
  repeat' first
    | with_reducible assumption | with_reducible apply cawStatus_keeps | with_reducible apply refuseSealed_keeps
    | with_reducible apply cawReserved_keeps | with_reducible apply openCmd_keeps | with_reducible refine ite_keeps (fun _ => ?_) (fun _ => ?_)
    | split

theorem cawWrite_keeps {p : Kept} {s : State} {a0 a1} (h : Keeps p s) : Keeps p (cawWrite a0 a1 s) := by
  unfold cawWrite
  repeat' first
    | with_reducible assumption | with_reducible apply cawStatus_keeps | with_reducible apply cawLive_keeps | with_reducible apply cawShadow_keeps
    | with_reducible apply cawCtx_keeps | split

theorem cawResult_keeps {p : Kept} {s : State} {a0 a1} (h : Keeps p s) : Keeps p (cawResult a0 a1 s) := by
  unfold cawResult
  repeat' first | with_reducible assumption | with_reducible apply cawStatus_keeps | with_reducible apply setLive_keeps

theorem cawRead_keeps {p : Kept} {s : State} {a0 a1} (h : Keeps p s) : Keeps p (cawRead a0 a1 s) := by
  unfold cawRead
  repeat' first
    | with_reducible assumption | with_reducible apply cawStatus_keeps | with_reducible apply cawResult_keeps
    | with_reducible apply refuseSealed_keeps | with_reducible refine ite_keeps (fun _ => ?_) (fun _ => ?_) | split | dsimp only

theorem execCawRead_keeps {p : Kept} {s : State} {a0 a1} (h : Keeps p s) {t} (e : execCawRead a0 a1 s = .next t) : Keeps p t := by
  unfold execCawRead at e
  repeat' (injection e with e; subst e)
  repeat' first | with_reducible assumption | with_reducible apply onPage_keeps | with_reducible apply cawRead_keeps | intro _

theorem reloadCores_keeps {p : Kept} {s : State} {a0} (h : Keeps p s) : Keeps p (reloadCores a0 s) := by
  unfold reloadCores
  repeat' first | with_reducible assumption | with_reducible apply updCore_keeps | with_reducible refine foldl_keeps (fun _ _ _ => ?_) ?_

theorem execTagInit_keeps {p : Kept} {s : State} {a0 a1 a2 a3} (h : Keeps p s) {t} (e : execTagInit a0 a1 a2 a3 s = .next t) : Keeps p t := by
  unfold execTagInit at e
  repeat' (injection e with e; subst e)
  repeat' first | with_reducible assumption | with_reducible apply viaWindow_keeps | with_reducible apply sealedCmd_keeps | intro _

theorem cawDiscard_keeps {p : Kept} {s : State} {a0} (h : Keeps p s) : Keeps p (cawDiscard a0 s) := by
  unfold cawDiscard
  repeat' first
    | with_reducible assumption | with_reducible apply cawLocked_keeps | with_reducible apply cawStatus_keeps | with_reducible apply reloadCores_keeps
    | with_reducible refine ite_keeps (fun _ => ?_) (fun _ => ?_)

theorem execCawDiscard_keeps {p : Kept} {s : State} {a0 a1} (h : Keeps p s) {t} (e : execCawDiscard a0 a1 s = .next t) : Keeps p t := by
  unfold execCawDiscard at e
  repeat' (injection e with e; subst e)
  repeat' first | with_reducible assumption | with_reducible apply onPage_keeps | with_reducible apply cawDiscard_keeps | intro _

theorem execCawWrite_keeps {p : Kept} {s : State} {a0 a1} (h : Keeps p s) {t} (e : execCawWrite a0 a1 s = .next t) : Keeps p t := by
  unfold execCawWrite at e
  repeat' (injection e with e; subst e)
  repeat' first | with_reducible assumption | with_reducible apply onPage_keeps | with_reducible apply cawWrite_keeps | intro _

theorem execThreadStop_keeps {p : Kept} {s : State} {a0 a1 a2} (h : Keeps p s) {t} (e : execThreadStop a0 a1 a2 s = .next t) : Keeps p t := by
  unfold execThreadStop at e
  repeat' (injection e with e; subst e)
  repeat' first | with_reducible assumption | with_reducible apply viaWindow_keeps | with_reducible apply openCmd_keeps | intro _

theorem execCoreReset_keeps {p : Kept} {s : State} {a0 a1} (h : Keeps p s) {t} (e : execCoreReset a0 a1 s = .next t) : Keeps p t := by
  unfold execCoreReset at e
  repeat' (injection e with e; subst e)
  repeat' first | with_reducible assumption | with_reducible apply viaWindow_keeps | with_reducible apply openCmd_keeps | intro _

/-! ### FabricInstr -/

theorem sendLocal_keeps {p : Kept} {s : State} {a0 a1} (h : Keeps p s) : IKeeps p (sendLocal a0 a1 s) := by
  unfold sendLocal
  repeat' first
    | with_reducible assumption | with_reducible apply ikeeps_block | with_reducible apply ikeeps_done | with_reducible apply injectLocal_keeps
    | with_reducible refine ite_ikeeps (fun _ => ?_) (fun _ => ?_)

theorem sndBody_keeps {p : Kept} {s : State} {a0} (h : Keeps p s) : IKeeps p (sndBody a0 s) := by
  unfold sndBody
  repeat' first
    | with_reducible assumption | with_reducible apply ikeeps_fault | with_reducible apply ikeeps_block | with_reducible apply ikeeps_done
    | with_reducible refine gate_keeps ?_ (by assumption) | with_reducible apply withPlainReads_keeps | with_reducible apply sendLocal_keeps
    | with_reducible refine ite_ikeeps (fun _ => ?_) (fun _ => ?_) | split | intro _

theorem execSnd_keeps {p : Kept} {s : State} {a0} (h : Keeps p s) {t} (e : execSnd a0 s = .next t) : Keeps p t := by
  unfold execSnd at e
  repeat' (injection e with e; subst e)
  repeat' first | with_reducible assumption | with_reducible apply issue_keeps | with_reducible apply sndBody_keeps | intro _

theorem rdmBody_keeps {p : Kept} {s : State} {a0} (h : Keeps p s) : IKeeps p (rdmBody a0 s) := by
  unfold rdmBody
  repeat' first
    | with_reducible assumption | with_reducible apply ikeeps_fault | with_reducible apply ikeeps_block | with_reducible apply ikeeps_done
    | with_reducible refine gate_keeps ?_ (by assumption) | with_reducible apply sendLocal_keeps
    | with_reducible refine ite_ikeeps (fun _ => ?_) (fun _ => ?_) | split

theorem sndrBody_keeps {p : Kept} {s : State} {a0} (h : Keeps p s) : IKeeps p (sndrBody a0 s) := by
  unfold sndrBody
  repeat' first
    | with_reducible assumption | with_reducible apply ikeeps_fault | with_reducible apply ikeeps_held | with_reducible apply ikeeps_done
    | with_reducible apply sendLocal_keeps | with_reducible refine ite_ikeeps (fun _ => ?_) (fun _ => ?_) | split

theorem execSndr_keeps {p : Kept} {s : State} {a0} (h : Keeps p s) {t} (e : execSndr a0 s = .next t) : Keeps p t := by
  unfold execSndr at e
  repeat' (injection e with e; subst e)
  repeat' first | with_reducible assumption | with_reducible apply issue_keeps | with_reducible apply sndrBody_keeps | intro _

theorem execRdm_keeps {p : Kept} {s : State} {a0} (h : Keeps p s) {t} (e : execRdm a0 s = .next t) : Keeps p t := by
  unfold execRdm at e
  repeat' (injection e with e; subst e)
  repeat' first | with_reducible assumption | with_reducible apply issue_keeps | with_reducible apply rdmBody_keeps | intro _

/-! ### TallyInstr -/

theorem taddBody_keeps {p : Kept} {s : State} {a0 a1} (h : Keeps p s) : IKeeps p (taddBody a0 a1 s) := by
  unfold taddBody
  repeat' first
    | with_reducible assumption | with_reducible apply ikeeps_fault | with_reducible apply ikeeps_done | with_reducible apply sendLocal_keeps
    | with_reducible refine ite_ikeeps (fun _ => ?_) (fun _ => ?_) | split

theorem execTset_keeps {p : Kept} {s : State} {a0} (h : Keeps p s) {t} (e : execTset a0 s = .next t) : Keeps p t := by
  unfold execTset at e
  repeat' (injection e with e; subst e)
  repeat' first | with_reducible assumption | with_reducible apply issue_keeps | with_reducible apply taddBody_keeps | intro _

theorem peek_keeps {p : Kept} {s : State} {a0} (h : Keeps p s) : Keeps p (peek a0 s) := by
  unfold peek
  repeat' first | with_reducible assumption | with_reducible apply fenceRefused_keeps | with_reducible apply updThread_keeps | with_reducible refine ite_keeps (fun _ => ?_) (fun _ => ?_)

theorem twaitBody_keeps {p : Kept} {s : State} {a0} (h : Keeps p s) : IKeeps p (twaitBody a0 s) := by
  unfold twaitBody
  repeat' first
    | with_reducible assumption | with_reducible apply ikeeps_fault | with_reducible apply ikeeps_block | with_reducible apply ikeeps_done
    | with_reducible apply peek_keeps | with_reducible apply injectLocal_keeps | with_reducible refine ite_ikeeps (fun _ => ?_) (fun _ => ?_)

theorem execTwait_keeps {p : Kept} {s : State} {a0} (h : Keeps p s) {t} (e : execTwait a0 s = .next t) : Keeps p t := by
  unfold execTwait at e
  repeat' (injection e with e; subst e)
  repeat' first | with_reducible assumption | with_reducible apply issue_keeps | with_reducible apply twaitBody_keeps | intro _

theorem wakeThread_keeps {p : Kept} {s : State} {a0 a1} (h : Keeps p s) : Keeps p (wakeThread a0 a1 s) := by
  unfold wakeThread
  repeat' first | with_reducible assumption | with_reducible apply setCore_keeps | with_reducible refine ite_keeps (fun _ => ?_) (fun _ => ?_)

theorem execTadd_keeps {p : Kept} {s : State} {a0} (h : Keeps p s) {t} (e : execTadd a0 s = .next t) : Keeps p t := by
  unfold execTadd at e
  repeat' (injection e with e; subst e)
  repeat' first | with_reducible assumption | with_reducible apply issue_keeps | with_reducible apply taddBody_keeps | intro _

theorem execThreadWake_keeps {p : Kept} {s : State} {a0 a1} (h : Keeps p s) {t} (e : execThreadWake a0 a1 s = .next t) : Keeps p t := by
  unfold execThreadWake at e
  repeat' (injection e with e; subst e)
  repeat' first | with_reducible assumption | with_reducible apply wakeThread_keeps | with_reducible refine ite_keeps (fun _ => ?_) (fun _ => ?_)

/-! ### Tally -/

theorem sendWake_keeps {p : Kept} {s : State} {a0 a1 a2} (h : Keeps p s) : Keeps p (sendWake a0 a1 a2 s) := by
  unfold sendWake
  repeat' first | with_reducible assumption | with_reducible apply injectEngine_keeps | split

theorem wakeWaiters_keeps {p : Kept} {s : State} {a0} (h : Keeps p s) : Keeps p (wakeWaiters a0 s) := by
  unfold wakeWaiters
  repeat' first
    | with_reducible assumption | with_reducible apply sendWake_keeps | with_reducible refine foldl_keeps (fun _ _ _ => ?_) ?_
    | fail_if_no_progress with_reducible apply keeps_upd | with_reducible refine ite_keeps (fun _ => ?_) (fun _ => ?_)

theorem tallyFenced_keeps {p : Kept} {s : State} {a0 a2} (h : Keeps p s) (hF : ∀ s, Keeps p s → Keeps p (a2 s)) : Keeps p (tallyFenced a0 s a2) := by
  unfold tallyFenced
  repeat' first | with_reducible assumption | with_reducible apply hF | with_reducible apply fenceRefused_keeps | with_reducible refine ite_keeps (fun _ => ?_) (fun _ => ?_)

theorem tallyFront_keeps {p : Kept} {s : State} {a0 a1} (h : Keeps p s) {w} {t} (e : tallyFront a0 a1 s = some (w, t)) : Keeps p t := by
  unfold tallyFront at e
  repeat' first | cases e | split at e
  repeat' first | with_reducible assumption | fail_if_no_progress with_reducible apply keeps_upd

theorem tallyRow_keeps {p : Kept} {s : State} {a0 a1 a2} (hF : ∀ x y s, Keeps p s → Keeps p (a2 x y s)) (h : Keeps p s) : Keeps p (tallyRow a0 a1 a2 s) := by
  unfold tallyRow
  repeat' first | with_reducible assumption | with_reducible apply hF | with_reducible refine tallyFront_keeps ?_ (by assumption) | with_reducible apply tallyFenced_keeps | split

theorem setTally_keeps {p : Kept} {s : State} {a0 a1} (h : Keeps p s) : Keeps p (setTally a0 a1 s) := by
  unfold setTally
  repeat' first | with_reducible assumption | fail_if_no_progress with_reducible apply keeps_upd

theorem tallyPut_keeps {p : Kept} {s : State} {a0 a1} (h : Keeps p s) : Keeps p (tallyPut a0 a1 s) := by
  unfold tallyPut
  repeat' first
    | with_reducible assumption | with_reducible apply setTally_keeps | with_reducible apply wakeWaiters_keeps | with_reducible apply hdFire_keeps
    | with_reducible refine ite_keeps (fun _ => ?_) (fun _ => ?_)

theorem tallyAdd_keeps {p : Kept} {s : State} {a0 a1} (h : Keeps p s) : Keeps p (tallyAdd a0 a1 s) := by
  unfold tallyAdd
  repeat' first | with_reducible assumption | with_reducible apply tallyPut_keeps

theorem execTallyAdd_keeps {p : Kept} {s : State} {a0} (h : Keeps p s) {t} (e : execTallyAdd a0 s = .next t) : Keeps p t := by
  unfold execTallyAdd at e
  repeat' (injection e with e; subst e)
  repeat' first | with_reducible assumption | with_reducible apply tallyRow_keeps | with_reducible apply tallyAdd_keeps | intro _

theorem tallySet_keeps {p : Kept} {s : State} {a0 a1} (h : Keeps p s) : Keeps p (tallySet a0 a1 s) := by
  unfold tallySet
  repeat' first | with_reducible assumption | with_reducible apply tallyPut_keeps

theorem sendReg_keeps {p : Kept} {s : State} {a0 a1 a2 a3} (h : Keeps p s) : Keeps p (sendReg a0 a1 a2 a3 s) := by
  unfold sendReg
  repeat' first | with_reducible assumption | with_reducible apply injectEngine_keeps

theorem tallyRegRetry_keeps {p : Kept} {s : State} {a0 a1} (h : Keeps p s) : Keeps p (tallyRegRetry a0 a1 s) := by
  unfold tallyRegRetry
  repeat' first | with_reducible assumption | with_reducible apply setCore_keeps | with_reducible apply sendReg_keeps | with_reducible refine ite_keeps (fun _ => ?_) (fun _ => ?_) | split

theorem execTallyRegRetry_keeps {p : Kept} {s : State} {a0 a1} (h : Keeps p s) {t} (e : execTallyRegRetry a0 a1 s = .next t) : Keeps p t := by
  unfold execTallyRegRetry at e
  repeat' (injection e with e; subst e)
  repeat' first | with_reducible assumption | with_reducible apply tallyRegRetry_keeps

theorem tallyCmd_keeps {p : Kept} {s : State} {a0 a1 a2} (h : Keeps p s) : Keeps p (tallyCmd a0 a1 a2 s) := by
  unfold tallyCmd
  repeat' first
    | with_reducible assumption | with_reducible apply recordErrAny_keeps | with_reducible apply tallySet_keeps | with_reducible apply tallyAdd_keeps
    | with_reducible refine ite_keeps (fun _ => ?_) (fun _ => ?_)

theorem execTallyCmdAdd_keeps {p : Kept} {s : State} {a0 a1 a2} (h : Keeps p s) {t} (e : execTallyCmdAdd a0 a1 a2 s = .next t) : Keeps p t := by
  unfold execTallyCmdAdd at e
  repeat' (injection e with e; subst e)
  repeat' first | with_reducible assumption | with_reducible apply onPage_keeps | with_reducible apply tallyCmd_keeps | intro _

theorem refuseWait_keeps {p : Kept} {s : State} {a0 a1} (h : Keeps p s) : Keeps p (refuseWait a0 a1 s) := by
  unfold refuseWait
  repeat' first | with_reducible assumption | with_reducible apply countUp_keeps | with_reducible apply updCore_keeps | with_reducible apply updChan_keeps | split

theorem wakeReply_keeps {p : Kept} {s : State} {a0 a1} (h : Keeps p s) : Keeps p (wakeReply a0 a1 s) := by
  unfold wakeReply
  repeat' first | with_reducible assumption | with_reducible apply sendReg_keeps | with_reducible apply setCore_keeps | with_reducible refine ite_keeps (fun _ => ?_) (fun _ => ?_) | split | dsimp only

theorem execTallySet_keeps {p : Kept} {s : State} {a0} (h : Keeps p s) {t} (e : execTallySet a0 s = .next t) : Keeps p t := by
  unfold execTallySet at e
  repeat' (injection e with e; subst e)
  repeat' first | with_reducible assumption | with_reducible apply tallyRow_keeps | with_reducible apply tallySet_keeps | intro _

theorem execFlushWaits_keeps {p : Kept} {s : State} {a0 a1} (h : Keeps p s) {t} (e : execFlushWaits a0 a1 s = .next t) : Keeps p t := by
  unfold execFlushWaits at e
  repeat' (injection e with e; subst e)
  repeat' first | with_reducible assumption | with_reducible apply onPage_keeps | with_reducible apply wakeWaiters_keeps | intro _

theorem tallyRegister_keeps {p : Kept} {s : State} {a0 a1 a2} (h : Keeps p s) : Keeps p (tallyRegister a0 a1 a2 s) := by
  unfold tallyRegister
  repeat' first
    | with_reducible assumption | with_reducible apply sendWake_keeps | with_reducible apply refuseWait_keeps
    | fail_if_no_progress with_reducible apply keeps_upd | with_reducible refine ite_keeps (fun _ => ?_) (fun _ => ?_)

theorem execTallyRegistration_keeps {p : Kept} {s : State} {a0} (h : Keeps p s) {t} (e : execTallyRegistration a0 s = .next t) : Keeps p t := by
  unfold execTallyRegistration at e
  repeat' (injection e with e; subst e)
  repeat' first | with_reducible assumption | with_reducible apply tallyRow_keeps | with_reducible apply tallyRegister_keeps | intro _

theorem tallyWakeReply_keeps {p : Kept} {s : State} {a0} (h : Keeps p s) : Keeps p (tallyWakeReply a0 s) := by
  unfold tallyWakeReply
  repeat' first | with_reducible assumption | with_reducible apply wakeReply_keeps | with_reducible apply updCore_keeps | split

theorem execTallyWakeReply_keeps {p : Kept} {s : State} {a0} (h : Keeps p s) {t} (e : execTallyWakeReply a0 s = .next t) : Keeps p t := by
  unfold execTallyWakeReply at e
  repeat' (injection e with e; subst e)
  repeat' first | with_reducible assumption | with_reducible apply tallyWakeReply_keeps

theorem execTallyCmdSet_keeps {p : Kept} {s : State} {a0 a1 a2} (h : Keeps p s) {t} (e : execTallyCmdSet a0 a1 a2 s = .next t) : Keeps p t := by
  unfold execTallyCmdSet at e
  repeat' (injection e with e; subst e)
  repeat' first | with_reducible assumption | with_reducible apply onPage_keeps | with_reducible apply tallyCmd_keeps | intro _

end Sys2Proof.Machine
end

