-- ==== Sys2Proof/Laws/KeepsLoad.lean ====
section
/-! SUPPORT. What every operation keeps, continued. -/

namespace Sys2Proof.Machine

open Sys2Proof

/-! ### Grist -/

theorem readImage_keeps {p : Kept} {s : State} {a0 a1 a2} (h : Keeps p s) : Keeps p (readImage a0 a1 a2 s).2 := by
  unfold readImage
  repeat' first | with_reducible assumption | with_reducible apply readHost_keeps | with_reducible refine snd_keeps (by assumption) ?_ | split

theorem openFails_keeps {p : Kept} {s : State} {a0} (h : Keeps p s) : Keeps p (openFails a0 s) := by
  unfold openFails
  repeat' first | with_reducible assumption | with_reducible apply countUp_keeps | with_reducible refine ite_keeps (fun _ => ?_) (fun _ => ?_)

theorem openEnvelope_keeps {p : Kept} {s : State} {a0 a1 a2 a3} (h : Keeps p s) : Keeps p (openEnvelope a0 a1 a2 a3 s).2 := by
  unfold openEnvelope
  repeat' first | with_reducible assumption | with_reducible apply readImage_keeps | with_reducible apply openFails_keeps | with_reducible refine snd_keeps (by assumption) ?_ | split

theorem putCore_keeps {p : Kept} {s : State} {a0 a1 a2} (h : Keeps p s) : Keeps p (putCore a0 a1 a2 s) := by
  unfold putCore
  repeat' first | with_reducible assumption | with_reducible apply hdOutsideWrite_keeps | with_reducible apply writeMem_keeps | with_reducible refine ite_keeps (fun _ => ?_) (fun _ => ?_)

theorem putUnit_keeps {p : Kept} {s : State} {a0 a1 a2 a3 a4} (h : Keeps p s) : Keeps p (putUnit a0 a1 a2 a3 a4 s).2 := by
  unfold putUnit
  repeat' first | with_reducible assumption | with_reducible apply putCore_keeps | with_reducible apply stackWrite_keeps | split

theorem takeUnit_keeps {p : Kept} {s : State} {a0 a1 a2 a3} (h : Keeps p s) : Keeps p (takeUnit a0 a1 a2 a3 s).2 := by
  unfold takeUnit
  repeat' first | with_reducible assumption | with_reducible apply stackRead_keeps | split | dsimp only

/-! ### Teardown -/

theorem freeRegion_keeps {p : Kept} {s : State} {a0} (h : Keeps p s) : Keeps p (freeRegion a0 s) := by
  unfold freeRegion
  repeat' first | with_reducible assumption | with_reducible apply setBoth_keeps | split

theorem recycleTally_keeps {p : Kept} {s : State} {a0} (h : Keeps p s) : Keeps p (recycleTally a0 s) := by
  unfold recycleTally
  repeat' first | with_reducible assumption | with_reducible apply wakeWaiters_keeps | with_reducible apply setTally_keeps | fail_if_no_progress with_reducible apply keeps_upd

theorem giveUpUnits_keeps {p : Kept} {s : State} {a0} (h : Keeps p s) : Keeps p (giveUpUnits a0 s) := by
  unfold giveUpUnits
  repeat' first | with_reducible assumption | with_reducible apply releasePermit_keeps | with_reducible apply setUnits_keeps | fail_if_no_progress with_reducible apply keeps_upd

theorem freeCoreAs_keeps {p : Kept} {s : State} {a0 a1} (h : Keeps p s) : Keeps p (freeCoreAs a0 a1 s) := by
  unfold freeCoreAs
  repeat' first
    | with_reducible assumption | with_reducible apply updCore_keeps | with_reducible apply giveUpUnits_keeps | with_reducible apply clearMem_keeps
    | fail_if_no_progress with_reducible apply keeps_upd

theorem freeCore_keeps {p : Kept} {s : State} {a0} (h : Keeps p s) : Keeps p (freeCore a0 s) := by
  unfold freeCore
  repeat' first | with_reducible assumption | with_reducible apply freeCoreAs_keeps

theorem freeTally_keeps {p : Kept} {s : State} {a0} (h : Keeps p s) : Keeps p (freeTally a0 s) := by
  unfold freeTally
  repeat' first
    | with_reducible assumption | with_reducible apply setBoth_keeps | with_reducible apply wakeWaiters_keeps | with_reducible apply setTally_keeps
    | fail_if_no_progress with_reducible apply keeps_upd | with_reducible refine ite_keeps (fun _ => ?_) (fun _ => ?_)

theorem clearPlacement_keeps {p : Kept} {s : State} {a0 a1} (h : Keeps p s) : Keeps p (clearPlacement a0 a1 s) := by
  unfold clearPlacement
  repeat' first
    | with_reducible assumption | with_reducible apply freeCore_keeps | with_reducible apply flushMerge_keeps | with_reducible apply flushReduce_keeps
    | with_reducible apply freeRegion_keeps | with_reducible apply freeTally_keeps | with_reducible apply updModel_keeps
    | with_reducible apply setBoth_keeps | with_reducible refine foldl_keeps (fun _ _ _ => ?_) ?_ | fail_if_no_progress with_reducible apply keeps_upd

theorem emptyModel_keeps {p : Kept} {s : State} {a0} (h : Keeps p s) : Keeps p (emptyModel a0 s) := by
  unfold emptyModel
  repeat' first
    | with_reducible assumption | with_reducible apply clearPlacement_keeps | with_reducible apply epochEmpty_keeps
    | with_reducible apply setLive_keeps | with_reducible apply setBoth_keeps | with_reducible apply setModel_keeps
    | fail_if_no_progress with_reducible apply keeps_upd | split

/-! ### Install -/

theorem sendSvc_keeps {p : Kept} {s : State} {a0 a1 a2} (h : Keeps p s) : Keeps p (sendSvc a0 a1 a2 s) := by
  unfold sendSvc
  repeat' first | with_reducible assumption | with_reducible apply transmit_keeps | fail_if_no_progress with_reducible apply keeps_upd

theorem payloadArrives_keeps {p : Kept} {s : State} {a0 a1 a2 a3 a4} (h : Keeps p s) : Keeps p (payloadArrives a0 a1 a2 a3 a4 s) := by
  unfold payloadArrives
  repeat' first | with_reducible assumption | with_reducible apply setInst_keeps | split

theorem showInstall_keeps {p : Kept} {s : State} {a0} (h : Keeps p s) : Keeps p (showInstall a0 s) := by
  unfold showInstall
  repeat' first | with_reducible assumption | with_reducible apply setLive_keeps

theorem reloadEnds_keeps {p : Kept} {s : State} {a0 a1} (h : Keeps p s) : Keeps p (reloadEnds a0 a1 s) := by
  unfold reloadEnds
  repeat' first | with_reducible assumption | with_reducible apply report_keeps | with_reducible apply updModel_keeps | with_reducible refine ite_keeps (fun _ => ?_) (fun _ => ?_)

theorem svcResp_keeps {p : Kept} {s : State} {a0 a1 a2 a3 a4} (h : Keeps p s) : Keeps p (svcResp a0 a1 a2 a3 a4 s) := by
  unfold svcResp
  repeat' first | with_reducible assumption | with_reducible apply transmit_keeps

theorem serveNow_keeps {p : Kept} {s : State} {a0 a1 a2} (h : Keeps p s) : Keeps p (serveNow a0 a1 a2 s) := by
  unfold serveNow
  repeat' first | with_reducible assumption | fail_if_no_progress with_reducible apply keeps_upd

theorem answerQuery_keeps {p : Kept} {s : State} {a0 a1 a2 a3} (h : Keeps p s) : Keeps p (answerQuery a0 a1 a2 a3 s) := by
  unfold answerQuery
  repeat' first
    | with_reducible assumption | with_reducible apply svcResp_keeps | with_reducible apply serveNow_keeps
    | fail_if_no_progress with_reducible apply keeps_upd | with_reducible refine ite_keeps (fun _ => ?_) (fun _ => ?_)

theorem openStack_keeps {p : Kept} {s : State} {a0 a1 a2} (h : Keeps p s) : Keeps p (openStack a0 a1 a2 s) := by
  unfold openStack
  repeat' first | with_reducible assumption | with_reducible apply freshBytes_keeps | with_reducible apply writeStack_keeps | split

theorem answerFetch_keeps {p : Kept} {s : State} {a0 a1 a2 a3 a4 a5 a6 a7} (h : Keeps p s) : Keeps p (answerFetch a0 a1 a2 a3 a4 a5 a6 a7 s) := by
  unfold answerFetch
  repeat' first
    | with_reducible assumption | with_reducible apply svcResp_keeps | with_reducible apply serveNow_keeps | with_reducible apply takeUnit_keeps
    | fail_if_no_progress with_reducible apply keeps_upd | with_reducible refine snd_keeps (by assumption) ?_ | split | dsimp only

theorem sendFetches_keeps {p : Kept} {s : State} {a0 a1 a2 a3 a4 a5} (h : Keeps p s) : Keeps p (sendFetches a0 a1 a2 a3 a4 a5 s) := by
  unfold sendFetches
  repeat' first | with_reducible assumption | with_reducible apply sendSvc_keeps | with_reducible refine foldl_keeps (fun _ _ _ => ?_) ?_

theorem sendQueries_keeps {p : Kept} {s : State} {a0 a1} (h : Keeps p s) : Keeps p (sendQueries a0 a1 s) := by
  unfold sendQueries
  repeat' first | with_reducible assumption | with_reducible apply sendSvc_keeps | with_reducible refine foldl_keeps (fun _ _ _ => ?_) ?_

theorem putInst_keeps {p : Kept} {s : State} {a0 a1} (h : Keeps p s) : Keeps p (putInst a0 a1 s) := by
  unfold putInst
  repeat' first | with_reducible assumption | with_reducible apply setInst_keeps | with_reducible apply showInstall_keeps | with_reducible refine ite_keeps (fun _ => ?_) (fun _ => ?_)

theorem startInst_keeps {p : Kept} {s : State} {a0 a1} (h : Keeps p s) : Keeps p (startInst a0 a1 s) := by
  unfold startInst
  repeat' first | with_reducible assumption | with_reducible apply sendQueries_keeps | with_reducible apply putInst_keeps

theorem setCmdResult_keeps {p : Kept} {s : State} {a0 a1 a2} (h : Keeps p s) : Keeps p (setCmdResult a0 a1 a2 s) := by
  unfold setCmdResult
  repeat' first | with_reducible assumption | with_reducible apply setLive_keeps

theorem endCmd_keeps {p : Kept} {s : State} {a0 a1} (h : Keeps p s) : Keeps p (endCmd a0 a1 s) := by
  unfold endCmd
  repeat' first | with_reducible assumption | with_reducible apply setCmdResult_keeps

theorem openCore_keeps {p : Kept} {s : State} {a0 a1 a2} (h : Keeps p s) : Keeps p (openCore a0 a1 a2 s) := by
  unfold openCore
  repeat' first | with_reducible assumption | with_reducible apply freshBytes_keeps | with_reducible apply writeMem_keeps | with_reducible refine ite_keeps (fun _ => ?_) (fun _ => ?_)

theorem openUnit_keeps {p : Kept} {s : State} {a0 a1 a2 a3} (h : Keeps p s) : Keeps p (openUnit a0 a1 a2 a3 s) := by
  unfold openUnit
  repeat' first | with_reducible assumption | with_reducible apply openCore_keeps | with_reducible apply openStack_keeps | with_reducible refine ite_keeps (fun _ => ?_) (fun _ => ?_) | split

theorem openRanges_keeps {p : Kept} {s : State} {a0} (h : Keeps p s) : Keeps p (openRanges a0 s) := by
  unfold openRanges
  repeat' first | with_reducible assumption | with_reducible apply openUnit_keeps | with_reducible refine foldl_keeps (fun _ _ _ => ?_) ?_ | split

theorem loadFails_keeps {p : Kept} {s : State} {a0} (h : Keeps p s) : Keeps p (loadFails a0 s) := by
  unfold loadFails
  repeat' first
    | with_reducible assumption | with_reducible apply openRanges_keeps | with_reducible apply endCmd_keeps | with_reducible apply emptyModel_keeps
    | fail_if_no_progress with_reducible apply keeps_upd | split

theorem modelInstEnds_keeps {p : Kept} {s : State} {a0 a1} (h : Keeps p s) : Keeps p (modelInstEnds a0 a1 s) := by
  unfold modelInstEnds
  repeat' first
    | with_reducible assumption | with_reducible apply setEpochSt_keeps | with_reducible apply loadFails_keeps | with_reducible apply endCmd_keeps
    | with_reducible apply setStaged_keeps | with_reducible apply epochEmpty_keeps | fail_if_no_progress with_reducible apply keeps_upd
    | with_reducible refine ite_keeps (fun _ => ?_) (fun _ => ?_) | split

theorem adapterInstEnds_keeps {p : Kept} {s : State} {a0} (h : Keeps p s) : Keeps p (adapterInstEnds a0 s) := by
  unfold adapterInstEnds
  repeat' first | with_reducible assumption | with_reducible apply endCmd_keeps | with_reducible apply setAdapter_keeps | with_reducible refine ite_keeps (fun _ => ?_) (fun _ => ?_)

theorem instEnds_keeps {p : Kept} {s : State} {a0 a1} (h : Keeps p s) : Keeps p (instEnds a0 a1 s) := by
  unfold instEnds
  repeat' first
    | with_reducible assumption | with_reducible apply setInst_keeps | with_reducible apply openRanges_keeps
    | with_reducible apply modelInstEnds_keeps | with_reducible apply adapterInstEnds_keeps | with_reducible apply reloadEnds_keeps
    | with_reducible refine ite_keeps (fun _ => ?_) (fun _ => ?_) | split

theorem beginUnit_keeps {p : Kept} {s : State} {a0} (h : Keeps p s) : Keeps p (beginUnit a0 s) := by
  unfold beginUnit
  repeat' first
    | with_reducible assumption | with_reducible apply instEnds_keeps | with_reducible apply sendFetches_keeps | with_reducible apply putInst_keeps
    | with_reducible refine ite_keeps (fun _ => ?_) (fun _ => ?_) | split

theorem unitWritten_keeps {p : Kept} {s : State} {a0 a1 a2 a3} (h : Keeps p s) : Keeps p (unitWritten a0 a1 a2 a3 s) := by
  unfold unitWritten
  repeat' first
    | with_reducible assumption | with_reducible apply instEnds_keeps | with_reducible apply putUnit_keeps | with_reducible apply beginUnit_keeps
    | with_reducible apply putInst_keeps | with_reducible refine snd_keeps (by assumption) ?_ | split

theorem hostUnitArrives_keeps {p : Kept} {s : State} {a0 a1 a2 a3} (h : Keeps p s) : Keeps p (hostUnitArrives a0 a1 a2 a3 s) := by
  unfold hostUnitArrives
  repeat' first
    | with_reducible assumption | with_reducible apply readImage_keeps | with_reducible apply instEnds_keeps | with_reducible apply unitWritten_keeps
    | with_reducible refine snd_keeps (by assumption) ?_ | with_reducible refine ite_keeps (fun _ => ?_) (fun _ => ?_) | split | dsimp only

theorem unitArrives_keeps {p : Kept} {s : State} {a0 a1} (h : Keeps p s) : Keeps p (unitArrives a0 a1 s) := by
  unfold unitArrives
  repeat' first
    | with_reducible assumption | with_reducible apply hostUnitArrives_keeps | with_reducible apply unitWritten_keeps
    | with_reducible apply setInst_keeps | with_reducible refine ite_keeps (fun _ => ?_) (fun _ => ?_) | split

theorem execGristUnitArrival_keeps {p : Kept} {s : State} {a0 a1} (h : Keeps p s) {t} (e : execGristUnitArrival a0 a1 s = .next t) : Keeps p t := by
  unfold execGristUnitArrival at e
  repeat' (injection e with e; subst e)
  repeat' first | with_reducible assumption | with_reducible apply unitArrives_keeps

theorem startReload_keeps {p : Kept} {s : State} {a0 a1 a2} (h : Keeps p s) : Keeps p (startReload a0 a1 a2 s) := by
  unfold startReload
  repeat' first | with_reducible assumption | with_reducible apply startInst_keeps | fail_if_no_progress with_reducible apply keeps_upd | split

theorem queryTimeout_keeps {p : Kept} {s : State} {a0} (h : Keeps p s) : Keeps p (queryTimeout a0 s) := by
  unfold queryTimeout
  repeat' first | with_reducible assumption | with_reducible apply beginUnit_keeps | with_reducible apply putInst_keeps | with_reducible refine ite_keeps (fun _ => ?_) (fun _ => ?_) | split

theorem execHoldingQueryTimeout_keeps {p : Kept} {s : State} {a0} (h : Keeps p s) {t} (e : execHoldingQueryTimeout a0 s = .next t) : Keeps p t := by
  unfold execHoldingQueryTimeout at e
  repeat' (injection e with e; subst e)
  repeat' first | with_reducible assumption | with_reducible apply queryTimeout_keeps

theorem queryAnswered_keeps {p : Kept} {s : State} {a0 a1 a2} (h : Keeps p s) : Keeps p (queryAnswered a0 a1 a2 s) := by
  unfold queryAnswered
  repeat' first | with_reducible assumption | with_reducible apply putInst_keeps | with_reducible refine ite_keeps (fun _ => ?_) (fun _ => ?_) | split

/-! ### Load -/

theorem sendContent_keeps {p : Kept} {s : State} {a0 a1 a2 a3} (h : Keeps p s) : Keeps p (sendContent a0 a1 a2 a3 s) := by
  unfold sendContent
  repeat' first | with_reducible assumption | with_reducible apply injectFcu_keeps | with_reducible refine foldl_keeps (fun _ _ _ => ?_) ?_ | split

theorem switchModel_keeps {p : Kept} {s : State} {a0 a1} (h : Keeps p s) : Keeps p (switchModel a0 a1 s) := by
  unfold switchModel
  repeat' first | with_reducible assumption | with_reducible apply setEpochSt_keeps | with_reducible apply updModel_keeps | with_reducible refine ite_keeps (fun _ => ?_) (fun _ => ?_)

theorem loadGrist_keeps {p : Kept} {s : State} {a0 a1 a2 a3} (h : Keeps p s) : Keeps p (loadGrist a0 a1 a2 a3 s).2 := by
  unfold loadGrist
  repeat' first | with_reducible assumption | with_reducible apply openEnvelope_keeps | with_reducible refine snd_keeps (by assumption) ?_ | split | dsimp only

theorem loadBegins_keeps {p : Kept} {s : State} {a0 a1} (h : Keeps p s) : Keeps p (loadBegins a0 a1 s) := by
  unfold loadBegins
  repeat' first | with_reducible assumption | with_reducible apply setLive_keeps | with_reducible apply setModel_keeps

theorem wlCommand_keeps {p : Kept} {s : State} {a0 a1} (hF : ∀ s, Keeps p s → Keeps p (a1 s)) (h : Keeps p s) : Keeps p (wlCommand a0 a1 s) := by
  unfold wlCommand
  repeat' first
    | with_reducible assumption | with_reducible apply hF | with_reducible apply recordErrAny_keeps
    | fail_if_no_progress with_reducible apply keeps_upd | with_reducible refine ite_keeps (fun _ => ?_) (fun _ => ?_)

theorem releaseCmd_keeps {p : Kept} {s : State} (h : Keeps p s) : Keeps p (releaseCmd s) := by
  unfold releaseCmd
  repeat' first | with_reducible assumption | with_reducible apply endCmd_keeps | with_reducible apply epochEmpty_keeps | split | dsimp only

theorem execRelease_keeps {p : Kept} {s : State} {a0} (h : Keeps p s) {t} (e : execRelease a0 s = .next t) : Keeps p t := by
  unfold execRelease at e
  repeat' (injection e with e; subst e)
  repeat' first | with_reducible assumption | with_reducible apply onPage_keeps | with_reducible apply wlCommand_keeps | with_reducible apply releaseCmd_keeps | intro _

theorem adapterImage_keeps {p : Kept} {s : State} {a0 a1} (h : Keeps p s) : Keeps p (adapterImage a0 a1 s).2 := by
  unfold adapterImage
  repeat' first | with_reducible assumption | with_reducible apply openEnvelope_keeps | with_reducible refine snd_keeps (by assumption) ?_ | split | dsimp only

theorem adInstallCmd_keeps {p : Kept} {s : State} {a0} (h : Keeps p s) : Keeps p (adInstallCmd a0 s) := by
  unfold adInstallCmd
  repeat' first
    | with_reducible assumption | with_reducible apply endCmd_keeps | with_reducible apply adapterImage_keeps | with_reducible apply setAdapter_keeps
    | with_reducible apply setCmdResult_keeps | with_reducible apply startInst_keeps | fail_if_no_progress with_reducible apply keeps_upd
    | with_reducible refine snd_keeps (by assumption) ?_ | split | dsimp only

theorem ownPlacement_keeps {p : Kept} {s : State} {a0 a1} (h : Keeps p s) : Keeps p (ownPlacement a0 a1 s) := by
  unfold ownPlacement
  repeat' first
    | with_reducible assumption | with_reducible apply setTally_keeps | with_reducible refine foldl_keeps (fun _ _ _ => ?_) ?_
    | fail_if_no_progress with_reducible apply keeps_upd | with_reducible refine ite_keeps (fun _ => ?_) (fun _ => ?_)

theorem installImage_keeps {p : Kept} {s : State} {a0 a1 a2 a3} (h : Keeps p s) : Keeps p (installImage a0 a1 a2 a3 s).2 := by
  unfold installImage
  repeat' first | with_reducible assumption | with_reducible apply openEnvelope_keeps | with_reducible refine snd_keeps (by assumption) ?_ | split | dsimp only

theorem installBegins_keeps {p : Kept} {s : State} {a0} (h : Keeps p s) : Keeps p (installBegins a0 s) := by
  unfold installBegins
  repeat' first | with_reducible assumption | with_reducible apply startInst_keeps | with_reducible apply setEpochSt_keeps | with_reducible apply updModel_keeps

theorem installCmd_keeps {p : Kept} {s : State} {a0} (h : Keeps p s) : Keeps p (installCmd a0 s) := by
  unfold installCmd
  repeat' first
    | with_reducible assumption | with_reducible apply endCmd_keeps | with_reducible apply installImage_keeps
    | with_reducible apply installBegins_keeps | with_reducible apply setCmdResult_keeps | with_reducible refine snd_keeps (by assumption) ?_ | split
    | dsimp only

theorem execInstall_keeps {p : Kept} {s : State} {a0 a1} (h : Keeps p s) {t} (e : execInstall a0 a1 s = .next t) : Keeps p t := by
  unfold execInstall at e
  repeat' (injection e with e; subst e)
  repeat' first | with_reducible assumption | with_reducible apply onPage_keeps | with_reducible apply wlCommand_keeps | with_reducible apply installCmd_keeps | intro _

theorem drainRelease_keeps {p : Kept} {s : State} {a0 a1} (h : Keeps p s) : Keeps p (drainRelease a0 a1 s) := by
  unfold drainRelease
  repeat' first | with_reducible assumption | with_reducible apply epochEmpty_keeps | with_reducible refine ite_keeps (fun _ => ?_) (fun _ => ?_)

theorem execEpochDrainRelease_keeps {p : Kept} {s : State} {a0 a1} (h : Keeps p s) {t} (e : execEpochDrainRelease a0 a1 s = .next t) : Keeps p t := by
  unfold execEpochDrainRelease at e
  repeat' (injection e with e; subst e)
  repeat' first | with_reducible assumption | with_reducible apply drainRelease_keeps

theorem mcRelease_keeps {p : Kept} {s : State} {a0} (h : Keeps p s) : Keeps p (mcRelease a0 s) := by
  unfold mcRelease
  repeat' first | with_reducible assumption | with_reducible apply setGrp_keeps | with_reducible apply clearEnrol_keeps

theorem loadCommitted_keeps {p : Kept} {s : State} {a0} (h : Keeps p s) : Keeps p (loadCommitted a0 s) := by
  unfold loadCommitted
  repeat' first
    | with_reducible assumption | with_reducible apply mcRelease_keeps | with_reducible apply ownPlacement_keeps
    | fail_if_no_progress with_reducible apply keeps_upd | with_reducible refine ite_keeps (fun _ => ?_) (fun _ => ?_) | split

theorem copyUnit_keeps {p : Kept} {s : State} {a0 a1 a2 a3 a4} (h : Keeps p s) : Keeps p (copyUnit a0 a1 a2 a3 a4 s).2 := by
  unfold copyUnit
  repeat' first | with_reducible assumption | with_reducible apply putCore_keeps | with_reducible apply stackRead_keeps | with_reducible refine snd_keeps (by assumption) ?_ | split | dsimp only

theorem stagedCopy_keeps {p : Kept} {s : State} {a0 a1 a2} (h : Keeps p s) : Keeps p (stagedCopy a0 a1 a2 s) := by
  unfold stagedCopy
  repeat' first
    | with_reducible assumption | with_reducible apply copyUnit_keeps | with_reducible apply updModel_keeps | with_reducible apply startReload_keeps
    | with_reducible refine foldl_keeps1 (fun _ _ _ => ?_) ?_ | with_reducible refine ite_keeps (fun _ => ?_) (fun _ => ?_) | split

theorem execStagedSwitchCopy_keeps {p : Kept} {s : State} {a0 a1 a2} (h : Keeps p s) {t} (e : execStagedSwitchCopy a0 a1 a2 s = .next t) : Keeps p t := by
  unfold execStagedSwitchCopy at e
  repeat' (injection e with e; subst e)
  repeat' first | with_reducible assumption | with_reducible apply stagedCopy_keeps

theorem startPlacement_keeps {p : Kept} {s : State} {a0} (h : Keeps p s) : Keeps p (startPlacement a0 s) := by
  unfold startPlacement
  repeat' first | with_reducible assumption | with_reducible apply updCore_keeps | with_reducible refine foldl_keeps (fun _ _ _ => ?_) ?_

theorem adapterFree_keeps {p : Kept} {s : State} {a0} (h : Keeps p s) : Keeps p (adapterFree a0 s) := by
  unfold adapterFree
  repeat' first | with_reducible assumption | with_reducible apply pxDetachAll_keeps | with_reducible apply setAdapter_keeps | with_reducible refine ite_keeps (fun _ => ?_) (fun _ => ?_)

theorem execAdapterSlotFree_keeps {p : Kept} {s : State} {a0} (h : Keeps p s) {t} (e : execAdapterSlotFree a0 s = .next t) : Keeps p t := by
  unfold execAdapterSlotFree at e
  repeat' (injection e with e; subst e)
  repeat' first | with_reducible assumption | with_reducible apply adapterFree_keeps

theorem writeContent_keeps {p : Kept} {s : State} {a0 a1} (h : Keeps p s) : Keeps p (writeContent a0 a1 s) := by
  unfold writeContent
  repeat' first
    | with_reducible assumption | with_reducible apply sendContent_keeps | with_reducible apply setUnits_keeps
    | with_reducible refine foldl_keeps (fun _ _ _ => ?_) ?_ | with_reducible refine ite_keeps (fun _ => ?_) (fun _ => ?_)

theorem loadContent_keeps {p : Kept} {s : State} (h : Keeps p s) : Keeps p (loadContent s) := by
  unfold loadContent
  repeat' first
    | with_reducible assumption | with_reducible apply setCmdResult_keeps | with_reducible apply setLive_keeps | with_reducible apply setModel_keeps
    | with_reducible apply mcRelease_keeps | with_reducible apply writeContent_keeps | with_reducible apply installBegins_keeps
    | fail_if_no_progress with_reducible apply keeps_upd | with_reducible refine ite_keeps (fun _ => ?_) (fun _ => ?_) | split

theorem execLoadContent_keeps {p : Kept} {s : State} (h : Keeps p s) {t} (e : execLoadContent s = .next t) : Keeps p t := by
  unfold execLoadContent at e
  repeat' (injection e with e; subst e)
  repeat' first | with_reducible assumption | with_reducible apply loadContent_keeps

theorem shadowSlot_keeps {p : Kept} {s : State} {a0 a1} (h : Keeps p s) : Keeps p (shadowSlot a0 a1 s) := by
  unfold shadowSlot
  repeat' first | with_reducible assumption | with_reducible apply updCore_keeps

theorem shadowWatches_keeps {p : Kept} {s : State} {a0 a1} (h : Keeps p s) : Keeps p (shadowWatches a0 a1 s) := by
  unfold shadowWatches
  repeat' first | with_reducible assumption | with_reducible apply setShadow_keeps | with_reducible refine foldl_keeps (fun _ _ _ => ?_) ?_

theorem shadowRegion_keeps {p : Kept} {s : State} {a0 a1} (h : Keeps p s) : Keeps p (shadowRegion a0 a1 s) := by
  unfold shadowRegion
  repeat' first | with_reducible assumption | with_reducible apply setShadow_keeps | split | dsimp only

theorem loadShadows_keeps {p : Kept} {s : State} {a0 a1} (h : Keeps p s) : Keeps p (loadShadows a0 a1 s) := by
  unfold loadShadows
  repeat' first
    | with_reducible assumption | with_reducible apply shadowSlot_keeps | with_reducible apply setShadow_keeps
    | with_reducible apply shadowWatches_keeps | with_reducible apply shadowRegion_keeps | with_reducible refine foldl_keeps (fun _ _ _ => ?_) ?_
    | with_reducible refine ite_keeps (fun _ => ?_) (fun _ => ?_)

theorem mcGroup_keeps {p : Kept} {s : State} {a0 a1} (h : Keeps p s) {w} {t} (e : mcGroup a0 a1 s = .ok (w, t)) : Keeps p t := by
  unfold mcGroup at e
  repeat' first | cases e | split at e
  repeat' first
    | with_reducible assumption | with_reducible apply allocGroup_keeps | with_reducible apply enrol_keeps | with_reducible apply setGrp_keeps
    | with_reducible refine foldl_keeps (fun _ _ _ => ?_) ?_

theorem loadStart_keeps {p : Kept} {s : State} {a0} (h : Keeps p s) : Keeps p (loadStart a0 s) := by
  unfold loadStart
  repeat' first
    | with_reducible assumption | with_reducible apply loadBegins_keeps | with_reducible apply loadShadows_keeps
    | with_reducible refine mcGroup_keeps ?_ (by assumption) | with_reducible apply endCmd_keeps | with_reducible apply setCmdResult_keeps
    | fail_if_no_progress with_reducible apply keeps_upd | split | dsimp only

theorem unloadTeardown_keeps {p : Kept} {s : State} (h : Keeps p s) : Keeps p (unloadTeardown s) := by
  unfold unloadTeardown
  repeat' first
    | with_reducible assumption | with_reducible apply emptyModel_keeps | with_reducible apply endCmd_keeps
    | fail_if_no_progress with_reducible apply keeps_upd | with_reducible refine ite_keeps (fun _ => ?_) (fun _ => ?_) | split

theorem loadImage_keeps {p : Kept} {s : State} {a0 a1 a2} (h : Keeps p s) : Keeps p (loadImage a0 a1 a2 s).2 := by
  unfold loadImage
  repeat' first | with_reducible assumption | with_reducible apply openEnvelope_keeps | with_reducible refine snd_keeps (by assumption) ?_ | split | dsimp only

theorem loadPlacement_keeps {p : Kept} {s : State} {a0} (h : Keeps p s) : Keeps p (loadPlacement a0 s).2 := by
  unfold loadPlacement
  repeat' first | with_reducible assumption | with_reducible apply loadImage_keeps | with_reducible refine snd_keeps (by assumption) ?_ | split | dsimp only

theorem loadChecks_keeps {p : Kept} {s : State} {a0} (h : Keeps p s) : Keeps p (loadChecks a0 s).2 := by
  unfold loadChecks
  repeat' first | with_reducible assumption | with_reducible apply loadPlacement_keeps | with_reducible apply loadGrist_keeps | with_reducible refine snd_keeps (by assumption) ?_ | split

theorem loadCmd_keeps {p : Kept} {s : State} {a0} (h : Keeps p s) : Keeps p (loadCmd a0 s) := by
  unfold loadCmd
  repeat' first
    | with_reducible assumption | with_reducible apply loadChecks_keeps | with_reducible apply endCmd_keeps | with_reducible apply loadStart_keeps
    | with_reducible refine snd_keeps (by assumption) ?_ | split

theorem unloadModel_keeps {p : Kept} {s : State} {a0 a1} (h : Keeps p s) : Keeps p (unloadModel a0 a1 s) := by
  unfold unloadModel
  repeat' first | with_reducible assumption | with_reducible apply endWith_keeps | with_reducible apply setModelState_keeps | with_reducible refine foldl_keeps (fun _ _ _ => ?_) ?_

theorem loadThreadStart_keeps {p : Kept} {s : State} (h : Keeps p s) : Keeps p (loadThreadStart s) := by
  unfold loadThreadStart
  repeat' first
    | with_reducible assumption | with_reducible apply startPlacement_keeps | with_reducible apply endCmd_keeps
    | with_reducible apply setModelState_keeps | with_reducible apply setEpochSt_keeps | with_reducible apply setBoth_keeps
    | fail_if_no_progress with_reducible apply keeps_upd | with_reducible refine ite_keeps (fun _ => ?_) (fun _ => ?_) | split

theorem adCommand_keeps {p : Kept} {s : State} {a0 a1} (hF : ∀ s, Keeps p s → Keeps p (a1 s)) (h : Keeps p s) : Keeps p (adCommand a0 a1 s) := by
  unfold adCommand
  repeat' first
    | with_reducible assumption | with_reducible apply hF | with_reducible apply recordErrAny_keeps
    | fail_if_no_progress with_reducible apply keeps_upd | with_reducible refine ite_keeps (fun _ => ?_) (fun _ => ?_)

theorem adRetireCmd_keeps {p : Kept} {s : State} (h : Keeps p s) : Keeps p (adRetireCmd s) := by
  unfold adRetireCmd
  repeat' first | with_reducible assumption | with_reducible apply endCmd_keeps | with_reducible apply setAdapter_keeps | with_reducible refine ite_keeps (fun _ => ?_) (fun _ => ?_)

theorem execAdRetire_keeps {p : Kept} {s : State} {a0} (h : Keeps p s) {t} (e : execAdRetire a0 s = .next t) : Keeps p t := by
  unfold execAdRetire at e
  repeat' (injection e with e; subst e)
  repeat' first | with_reducible assumption | with_reducible apply onPage_keeps | with_reducible apply adCommand_keeps | with_reducible apply adRetireCmd_keeps | intro _

theorem execLoadThreadStart_keeps {p : Kept} {s : State} (h : Keeps p s) {t} (e : execLoadThreadStart s = .next t) : Keeps p t := by
  unfold execLoadThreadStart at e
  repeat' (injection e with e; subst e)
  repeat' first | with_reducible assumption | with_reducible apply loadThreadStart_keeps

theorem unloadCmd_keeps {p : Kept} {s : State} (h : Keeps p s) : Keeps p (unloadCmd s) := by
  unfold unloadCmd
  repeat' first
    | with_reducible assumption | with_reducible apply endCmd_keeps | with_reducible apply unloadModel_keeps | with_reducible apply setCmdResult_keeps
    | fail_if_no_progress with_reducible apply keeps_upd | split | dsimp only

theorem execUnload_keeps {p : Kept} {s : State} {a0} (h : Keeps p s) {t} (e : execUnload a0 s = .next t) : Keeps p t := by
  unfold execUnload at e
  repeat' (injection e with e; subst e)
  repeat' first | with_reducible assumption | with_reducible apply onPage_keeps | with_reducible apply wlCommand_keeps | with_reducible apply unloadCmd_keeps | intro _

theorem execLoad_keeps {p : Kept} {s : State} {a0 a1} (h : Keeps p s) {t} (e : execLoad a0 a1 s = .next t) : Keeps p t := by
  unfold execLoad at e
  repeat' (injection e with e; subst e)
  repeat' first | with_reducible assumption | with_reducible apply onPage_keeps | with_reducible apply wlCommand_keeps | with_reducible apply loadCmd_keeps | intro _

theorem execAdInstall_keeps {p : Kept} {s : State} {a0 a1} (h : Keeps p s) {t} (e : execAdInstall a0 a1 s = .next t) : Keeps p t := by
  unfold execAdInstall at e
  repeat' (injection e with e; subst e)
  repeat' first | with_reducible assumption | with_reducible apply onPage_keeps | with_reducible apply adCommand_keeps | with_reducible apply adInstallCmd_keeps | intro _

theorem execUnloadTeardown_keeps {p : Kept} {s : State} (h : Keeps p s) {t} (e : execUnloadTeardown s = .next t) : Keeps p t := by
  unfold execUnloadTeardown at e
  repeat' (injection e with e; subst e)
  repeat' first | with_reducible assumption | with_reducible apply unloadTeardown_keeps

end Sys2Proof.Machine
end

