-- ==== Sys2Proof/Laws/KeepsPower.lean ====
section
/-! SUPPORT. What every operation keeps, continued. -/

namespace Sys2Proof.Machine

open Sys2Proof

/-! ### Telemetry -/

theorem calOutcome.updBoot'_keeps {p : Kept} {s : State} (h : Keeps p s) : Keeps p (calOutcome.updBoot' s) := by
  unfold calOutcome.updBoot'
  repeat' first | with_reducible assumption | fail_if_no_progress with_reducible apply keeps_upd

theorem setConv_keeps {p : Kept} {s : State} {a0 a1} (h : Keeps p s) : Keeps p (setConv a0 a1 s) := by
  unfold setConv
  repeat' first | with_reducible assumption | fail_if_no_progress with_reducible apply keeps_upd

theorem updConv_keeps {p : Kept} {s : State} {a0 a1} (h : Keeps p s) : Keeps p (updConv a0 a1 s) := by
  unfold updConv
  repeat' first | with_reducible assumption | with_reducible apply setConv_keeps

theorem startRecal_keeps {p : Kept} {s : State} {a0} (h : Keeps p s) : Keeps p (startRecal a0 s) := by
  unfold startRecal
  repeat' first | with_reducible assumption | with_reducible apply updConv_keeps | with_reducible refine ite_keeps (fun _ => ?_) (fun _ => ?_)

theorem startPass_keeps {p : Kept} {s : State} {a0 a1} (h : Keeps p s) : Keeps p (startPass a0 a1 s) := by
  unfold startPass
  repeat' first | with_reducible assumption | with_reducible apply updConv_keeps | with_reducible refine ite_keeps (fun _ => ?_) (fun _ => ?_)

theorem telEvent_keeps {p : Kept} {s : State} {a0 a1} (h : Keeps p s) : Keeps p (telEvent a0 a1 s) := by
  unfold telEvent
  repeat' first | with_reducible assumption | with_reducible apply setLive_keeps

theorem passDone_keeps {p : Kept} {s : State} {a0 a1} (h : Keeps p s) : Keeps p (passDone a0 a1 s) := by
  unfold passDone
  repeat' first
    | with_reducible assumption | with_reducible apply setConv_keeps | with_reducible apply startPass_keeps | with_reducible apply telEvent_keeps
    | with_reducible refine ite_keeps (fun _ => ?_) (fun _ => ?_)

theorem afterCovered_keeps {p : Kept} {s : State} {a0 a1 a2} (h : Keeps p s) : Keeps p (afterCovered a0 a1 a2 s) := by
  unfold afterCovered
  repeat' first | with_reducible assumption | with_reducible apply updConv_keeps | with_reducible apply passDone_keeps | with_reducible refine ite_keeps (fun _ => ?_) (fun _ => ?_)

theorem goOn_keeps {p : Kept} {s : State} {a0 a1} (h : Keeps p s) : Keeps p (goOn a0 a1 s) := by
  unfold goOn
  repeat' first
    | with_reducible assumption | with_reducible apply setConv_keeps | with_reducible apply startPass_keeps
    | with_reducible refine ite_keeps (fun _ => ?_) (fun _ => ?_) | split | dsimp only

theorem injTrigger_keeps {p : Kept} {s : State} {a0 a1} (h : Keeps p s) : Keeps p (injTrigger a0 a1 s) := by
  unfold injTrigger
  repeat' first | with_reducible assumption | with_reducible apply setConv_keeps | with_reducible refine ite_keeps (fun _ => ?_) (fun _ => ?_) | split

theorem fieldTrigger_keeps {p : Kept} {s : State} {a0 a1} (h : Keeps p s) : Keeps p (fieldTrigger a0 a1 s) := by
  unfold fieldTrigger
  repeat' first | with_reducible assumption | with_reducible apply injTrigger_keeps

theorem telCommit_keeps {p : Kept} {s : State} {a0 a1} (h : Keeps p s) : Keeps p (telCommit a0 a1 s) := by
  unfold telCommit
  repeat' first | with_reducible assumption | with_reducible apply setConv_keeps | with_reducible apply startPass_keeps | with_reducible refine ite_keeps (fun _ => ?_) (fun _ => ?_)

theorem injectedDone_keeps {p : Kept} {s : State} {a0 a1} (h : Keeps p s) : Keeps p (injectedDone a0 a1 s) := by
  unfold injectedDone
  repeat' first | with_reducible assumption | with_reducible apply setConv_keeps | with_reducible apply goOn_keeps | with_reducible refine ite_keeps (fun _ => ?_) (fun _ => ?_)

theorem afterInjected_keeps {p : Kept} {s : State} {a0 a1 a2} (h : Keeps p s) : Keeps p (afterInjected a0 a1 a2 s) := by
  unfold afterInjected
  repeat' first
    | with_reducible assumption | with_reducible apply updConv_keeps | with_reducible apply telEvent_keeps | with_reducible apply countUp_keeps
    | with_reducible apply injectedDone_keeps | with_reducible refine ite_keeps (fun _ => ?_) (fun _ => ?_)

theorem stageSixFails_keeps {p : Kept} {s : State} (h : Keeps p s) : Keeps p (stageSixFails s) := by
  unfold stageSixFails
  repeat' first | with_reducible assumption | fail_if_no_progress with_reducible apply keeps_upd | with_reducible refine ite_keeps (fun _ => ?_) (fun _ => ?_)

theorem calOutcome_keeps {p : Kept} {s : State} {a0 a1 a2} (h : Keeps p s) : Keeps p (calOutcome a0 a1 a2 s) := by
  unfold calOutcome
  repeat' first
    | with_reducible assumption | with_reducible apply updConv_keeps | with_reducible apply logTransient_keeps
    | with_reducible apply recordErrAny_keeps | with_reducible apply telEvent_keeps | with_reducible apply report_keeps
    | with_reducible apply calOutcome.updBoot'_keeps | with_reducible refine ite_keeps (fun _ => ?_) (fun _ => ?_) | split

theorem calDone_keeps {p : Kept} {s : State} {a0 a1 a2 a3} (h : Keeps p s) : Keeps p (calDone a0 a1 a2 a3 s) := by
  unfold calDone
  repeat' first
    | with_reducible assumption | with_reducible apply calOutcome_keeps | with_reducible apply setConv_keeps | with_reducible apply startPass_keeps
    | with_reducible apply goOn_keeps | with_reducible apply startRecal_keeps | with_reducible refine ite_keeps (fun _ => ?_) (fun _ => ?_) | split

theorem afterInjCovered_keeps {p : Kept} {s : State} {a0 a1 a2} (h : Keeps p s) : Keeps p (afterInjCovered a0 a1 a2 s) := by
  unfold afterInjCovered
  repeat' first
    | with_reducible assumption | with_reducible apply updConv_keeps | with_reducible apply injectedDone_keeps | with_reducible apply telEvent_keeps
    | with_reducible refine ite_keeps (fun _ => ?_) (fun _ => ?_)

theorem afterRegular_keeps {p : Kept} {s : State} {a0 a1 a2} (h : Keeps p s) : Keeps p (afterRegular a0 a1 a2 s) := by
  unfold afterRegular
  repeat' first
    | with_reducible assumption | with_reducible apply setConv_keeps | with_reducible apply updConv_keeps | with_reducible apply passDone_keeps
    | with_reducible refine ite_keeps (fun _ => ?_) (fun _ => ?_)

theorem plausHold_keeps {p : Kept} {s : State} {a0 a1} (h : Keeps p s) : Keeps p (plausHold a0 a1 s) := by
  unfold plausHold
  repeat' first | with_reducible assumption | fail_if_no_progress with_reducible apply keeps_upd | with_reducible refine ite_keeps (fun _ => ?_) (fun _ => ?_)

theorem plausFails_keeps {p : Kept} {s : State} {a0} (h : Keeps p s) : Keeps p (plausFails a0 s) := by
  unfold plausFails
  repeat' first
    | with_reducible assumption | with_reducible apply recordErrAny_keeps | with_reducible apply telEvent_keeps | with_reducible apply plausHold_keeps
    | with_reducible apply updConv_keeps | with_reducible apply report_keeps | with_reducible apply stageSixFails_keeps
    | fail_if_no_progress with_reducible apply keeps_upd | with_reducible refine ite_keeps (fun _ => ?_) (fun _ => ?_)

theorem plausPasses_keeps {p : Kept} {s : State} {a0} (h : Keeps p s) : Keeps p (plausPasses a0 s) := by
  unfold plausPasses
  repeat' first
    | with_reducible assumption | with_reducible apply plausHold_keeps | with_reducible apply logTransient_keeps | with_reducible apply updConv_keeps
    | with_reducible refine ite_keeps (fun _ => ?_) (fun _ => ?_)

theorem plausCheck_keeps {p : Kept} {s : State} {a0 a1 a2} (h : Keeps p s) : Keeps p (plausCheck a0 a1 a2 s) := by
  unfold plausCheck
  repeat' first
    | with_reducible assumption | with_reducible apply setLive_keeps | with_reducible apply plausFails_keeps | with_reducible apply plausPasses_keeps
    | with_reducible refine ite_keeps (fun _ => ?_) (fun _ => ?_) | split

theorem regularResult_keeps {p : Kept} {s : State} {a0 a1 a2 a3 a4} (h : Keeps p s) : Keeps p (regularResult a0 a1 a2 a3 a4 s) := by
  unfold regularResult
  repeat' first
    | with_reducible assumption | with_reducible apply setLive_keeps | with_reducible apply updConv_keeps | with_reducible apply plausCheck_keeps
    | fail_if_no_progress with_reducible apply keeps_upd | with_reducible refine ite_keeps (fun _ => ?_) (fun _ => ?_)

theorem injectedResult_keeps {p : Kept} {s : State} {a0 a1 a2 a3} (h : Keeps p s) : Keeps p (injectedResult a0 a1 a2 a3 s) := by
  unfold injectedResult
  repeat' first | with_reducible assumption | with_reducible apply setLive_keeps

theorem conversionDone_keeps {p : Kept} {s : State} {a0 a1 a2} (h : Keeps p s) : Keeps p (conversionDone a0 a1 a2 s) := by
  unfold conversionDone
  repeat' first
    | with_reducible assumption | with_reducible apply startRecal_keeps | with_reducible apply afterRegular_keeps
    | with_reducible apply regularResult_keeps | with_reducible apply afterCovered_keeps | with_reducible apply afterInjected_keeps
    | with_reducible apply injectedResult_keeps | with_reducible apply afterInjCovered_keeps
    | with_reducible refine ite_keeps (fun _ => ?_) (fun _ => ?_) | split

theorem startCal_keeps {p : Kept} {s : State} {a0 a1} (h : Keeps p s) : Keeps p (startCal a0 a1 s) := by
  unfold startCal
  repeat' first | with_reducible assumption | with_reducible apply recordErrAny_keeps | with_reducible apply setConv_keeps | with_reducible refine ite_keeps (fun _ => ?_) (fun _ => ?_) | split

theorem telRepeat_keeps {p : Kept} {s : State} {a0 a1} (h : Keeps p s) : Keeps p (telRepeat a0 a1 s) := by
  unfold telRepeat
  repeat' first | with_reducible assumption | with_reducible apply startPass_keeps | with_reducible refine ite_keeps (fun _ => ?_) (fun _ => ?_)

/-! ### Flash -/

theorem updBoot_keeps {p : Kept} {s : State} {a0} (h : Keeps p s) : Keeps p (updBoot a0 s) := by
  unfold updBoot
  repeat' first | with_reducible assumption | fail_if_no_progress with_reducible apply keeps_upd

theorem updComp_keeps {p : Kept} {s : State} {a0 a1} (h : Keeps p s) : Keeps p (updComp a0 a1 s) := by
  unfold updComp
  repeat' first | with_reducible assumption | with_reducible apply updBoot_keeps

theorem unitRuns_keeps {p : Kept} {s : State} {a0 a1 a2 a3} (h : Keeps p s) : Keeps p (unitRuns a0 a1 a2 a3 s) := by
  unfold unitRuns
  repeat' first | with_reducible assumption | with_reducible apply updComp_keeps

theorem flashFails_keeps {p : Kept} {s : State} (h : Keeps p s) : Keeps p (flashFails s) := by
  unfold flashFails
  repeat' first | with_reducible assumption | with_reducible apply recordErrAny_keeps | with_reducible apply countUp_keeps

theorem recPut_keeps {p : Kept} {s : State} {a0 a1 a2} (h : Keeps p s) : Keeps p (recPut a0 a1 a2 s) := by
  unfold recPut
  repeat' first | with_reducible assumption | with_reducible apply updBoot_keeps | with_reducible apply flashFails_keeps | with_reducible refine ite_keeps (fun _ => ?_) (fun _ => ?_)

theorem recWrite_keeps {p : Kept} {s : State} {a0 a1 a2 a3} (h : Keeps p s) : Keeps p (recWrite a0 a1 a2 a3 s) := by
  unfold recWrite
  repeat' first | with_reducible assumption | with_reducible apply recPut_keeps

theorem serviceMode_keeps {p : Kept} {s : State} {a0} (h : Keeps p s) : Keeps p (serviceMode a0 s) := by
  unfold serviceMode
  repeat' first | with_reducible assumption | with_reducible apply updBoot_keeps | with_reducible refine ite_keeps (fun _ => ?_) (fun _ => ?_)

theorem bootUnit_keeps {p : Kept} {s : State} {a0 a1} (h : Keeps p s) : Keeps p (bootUnit a0 a1 s).2 := by
  unfold bootUnit
  repeat' first
    | with_reducible assumption | with_reducible apply unitRuns_keeps | with_reducible apply recordErr_keeps | with_reducible apply updComp_keeps
    | with_reducible apply serviceMode_keeps | split | dsimp only

theorem floorPut_keeps {p : Kept} {s : State} {a0} (h : Keeps p s) : Keeps p (floorPut a0 s) := by
  unfold floorPut
  repeat' first | with_reducible assumption | with_reducible apply updBoot_keeps | with_reducible apply recWrite_keeps

/-! ### Power -/

theorem setField_keeps {p : Kept} {s : State} {a0 a1} (h : Keeps p s) : Keeps p (setField a0 a1 s) := by
  unfold setField
  repeat' first | with_reducible assumption | fail_if_no_progress with_reducible apply keeps_upd

theorem updField_keeps {p : Kept} {s : State} {a0 a1} (h : Keeps p s) : Keeps p (updField a0 a1 s) := by
  unfold updField
  repeat' first | with_reducible assumption | with_reducible apply setField_keeps

theorem stackLost_keeps {p : Kept} {s : State} {n} (h : Keeps p s) : Keeps p (stackLost n s) :=
  foldl_keeps (fun _ _ g => resetPage_keeps g)
    ⟨h.1, ⟨h.2.1, h.2.2, h.2.3, rising_mdrop _ h.2.4, rising_mdrop _ h.2.5, rising_mdrop _ h.2.6, h.2.7⟩⟩

theorem fieldLost_keeps {p : Kept} {s : State} {f} (h : Keeps p s) : Keeps p (fieldLost f s) :=
  foldl_keeps (fun _ _ g => stackLost_keeps g) (foldl_keeps (fun _ _ g => resetPage_keeps g)
    ⟨h.1, ⟨h.2.1, h.2.2, mwf_mdrop _ h.2.3, h.2.4, h.2.5, h.2.6, h.2.7⟩⟩)

theorem noteLost_keeps {p : Kept} {s : State} {a0} (h : Keeps p s) : Keeps p (noteLost a0 s) := by
  unfold noteLost
  repeat' first | with_reducible assumption | with_reducible apply updModel_keeps | with_reducible refine foldl_keeps (fun _ _ _ => ?_) ?_ | with_reducible refine ite_keeps (fun _ => ?_) (fun _ => ?_)

theorem goDark_keeps {p : Kept} {s : State} {a0 a1} (h : Keeps p s) : Keeps p (goDark a0 a1 s) := by
  unfold goDark
  repeat' first
    | with_reducible assumption | with_reducible apply updField_keeps | with_reducible apply losePage_keeps | with_reducible apply fieldLost_keeps
    | with_reducible apply dropBefore_keeps | with_reducible apply noteLost_keeps | with_reducible refine foldl_keeps (fun _ _ _ => ?_) ?_
    | with_reducible refine ite_keeps (fun _ => ?_) (fun _ => ?_)

theorem imposeDark_keeps {p : Kept} {s : State} {a0 a1} (h : Keeps p s) : Keeps p (imposeDark a0 a1 s) := by
  unfold imposeDark
  repeat' first | with_reducible assumption | with_reducible apply goDark_keeps | with_reducible apply updField_keeps

theorem fieldFault_keeps {p : Kept} {s : State} {a0 a1} (h : Keeps p s) : Keeps p (fieldFault a0 a1 s) := by
  unfold fieldFault
  repeat' first | with_reducible assumption | with_reducible apply report_keeps

theorem phasesChanged_keeps {p : Kept} {s : State} {a0} (h : Keeps p s) : Keeps p (phasesChanged a0 s) := by
  unfold phasesChanged
  repeat' first
    | with_reducible assumption | with_reducible apply fieldFault_keeps | with_reducible apply imposeDark_keeps
    | with_reducible apply recordErrAny_keeps | with_reducible refine ite_keeps (fun _ => ?_) (fun _ => ?_)

theorem updPm_keeps {p : Kept} {s : State} {a0} (h : Keeps p s) : Keeps p (updPm a0 s) := by
  unfold updPm
  repeat' first | with_reducible assumption | fail_if_no_progress with_reducible apply keeps_upd

theorem coolantLow_keeps {p : Kept} {s : State} (h : Keeps p s) : Keeps p (coolantLow s) := by
  unfold coolantLow
  repeat' first | with_reducible assumption | with_reducible apply recordErrAny_keeps | with_reducible apply updPm_keeps | with_reducible refine ite_keeps (fun _ => ?_) (fun _ => ?_)

theorem execCoolantLow_keeps {p : Kept} {s : State} (h : Keeps p s) {t} (e : execCoolantLow s = .next t) : Keeps p t := by
  unfold execCoolantLow at e
  repeat' (injection e with e; subst e)
  repeat' first | with_reducible assumption | with_reducible apply coolantLow_keeps

theorem fldEvent_keeps {p : Kept} {s : State} {a0 a1} (h : Keeps p s) : Keeps p (fldEvent a0 a1 s) := by
  unfold fldEvent
  repeat' first | with_reducible assumption | with_reducible apply setLive_keeps

theorem fieldOnNow_keeps {p : Kept} {s : State} {a0} (h : Keeps p s) : Keeps p (fieldOnNow a0 s) := by
  unfold fieldOnNow
  repeat' first
    | with_reducible assumption | with_reducible apply fldEvent_keeps | with_reducible apply setField_keeps | with_reducible apply updBoot_keeps
    | fail_if_no_progress with_reducible apply keeps_upd | with_reducible refine ite_keeps (fun _ => ?_) (fun _ => ?_)

theorem kilnBegins_keeps {p : Kept} {s : State} {a0} (h : Keeps p s) : Keeps p (kilnBegins a0 s) := by
  unfold kilnBegins
  repeat' first | with_reducible assumption | with_reducible apply fldEvent_keeps | with_reducible apply updField_keeps

theorem targetStep_keeps {p : Kept} {s : State} {a0} (h : Keeps p s) : Keeps p (targetStep a0 s) := by
  unfold targetStep
  repeat' first
    | with_reducible assumption | with_reducible apply updField_keeps | with_reducible apply goDark_keeps | with_reducible apply kilnBegins_keeps
    | with_reducible apply updPm_keeps | with_reducible refine ite_keeps (fun _ => ?_) (fun _ => ?_)

theorem giveSlots_keeps {p : Kept} {s : State} {a0} (h : Keeps p s) : Keeps p (giveSlots a0 s) := by
  induction a0 generalizing s  with
  | zero =>
    unfold giveSlots
    repeat' with_reducible assumption
  | succ _ ih =>
    unfold giveSlots
    repeat' first | with_reducible apply ih | with_reducible assumption | with_reducible apply updField_keeps | with_reducible refine ite_keeps (fun _ => ?_) (fun _ => ?_) | split

theorem attemptEnds_keeps {p : Kept} {s : State} {a0} (h : Keeps p s) : Keeps p (attemptEnds a0 s) := by
  unfold attemptEnds
  repeat' first | with_reducible assumption | with_reducible apply updField_keeps

theorem deferTimeout_keeps {p : Kept} {s : State} {a0 a1} (h : Keeps p s) : Keeps p (deferTimeout a0 a1 s) := by
  unfold deferTimeout
  repeat' first
    | with_reducible assumption | with_reducible apply recordErrAny_keeps | with_reducible apply fldEvent_keeps
    | with_reducible apply attemptEnds_keeps | with_reducible apply updField_keeps

theorem evalStage_keeps {p : Kept} {s : State} {a0 a1 a2 a3} (h : Keeps p s) : Keeps p (evalStage a0 a1 a2 a3 s).2 := by
  unfold evalStage
  repeat' first | with_reducible assumption | with_reducible apply updField_keeps | with_reducible apply deferTimeout_keeps | split

theorem powerTick_keeps {p : Kept} {s : State} {a0 a1} (h : Keeps p s) : Keeps p (powerTick a0 a1 s) := by
  unfold powerTick
  repeat' first
    | with_reducible assumption | with_reducible apply fieldOnNow_keeps | with_reducible apply targetStep_keeps | with_reducible apply giveSlots_keeps
    | with_reducible apply evalStage_keeps | with_reducible refine foldl_keeps (fun _ _ _ => ?_) ?_
    | with_reducible refine foldl_keeps2 (fun _ _ _ => ?_) ?_ | with_reducible refine ite_keeps (fun _ => ?_) (fun _ => ?_) | split

theorem clockStepDone_keeps {p : Kept} {s : State} {a0} (h : Keeps p s) : Keeps p (clockStepDone a0 s) := by
  unfold clockStepDone
  repeat' first | with_reducible assumption | with_reducible apply updField_keeps | with_reducible refine ite_keeps (fun _ => ?_) (fun _ => ?_)

theorem railCals_keeps {p : Kept} {s : State} {a0 a1} (h : Keeps p s) : Keeps p (railCals a0 a1 s) := by
  unfold railCals
  repeat' first | with_reducible assumption | with_reducible apply calOutcome_keeps | split | dsimp only

theorem execInputLowClear_keeps {p : Kept} {s : State} (h : Keeps p s) {t} (e : execInputLowClear s = .next t) : Keeps p t := by
  unfold execInputLowClear at e
  repeat' (injection e with e; subst e)
  repeat' first | with_reducible assumption | with_reducible apply updPm_keeps

theorem connSuspect_keeps {p : Kept} {s : State} {a0} (h : Keeps p s) : Keeps p (connSuspect a0 s) := by
  unfold connSuspect
  repeat' first
    | with_reducible assumption | with_reducible apply report_keeps | with_reducible apply recordErr_keeps | with_reducible apply updPm_keeps
    | with_reducible refine ite_keeps (fun _ => ?_) (fun _ => ?_)

theorem execConnSuspect_keeps {p : Kept} {s : State} {a0} (h : Keeps p s) {t} (e : execConnSuspect a0 s = .next t) : Keeps p t := by
  unfold execConnSuspect at e
  repeat' (injection e with e; subst e)
  repeat' first | with_reducible assumption | with_reducible apply connSuspect_keeps

theorem thermalEval_keeps {p : Kept} {s : State} {a0} (h : Keeps p s) : Keeps p (thermalEval a0 s) := by
  unfold thermalEval
  repeat' first | with_reducible assumption | with_reducible apply fldEvent_keeps | with_reducible apply setField_keeps | with_reducible refine ite_keeps (fun _ => ?_) (fun _ => ?_) | split

theorem reloadKeys_keeps {p : Kept} {s : State} {a0} (h : Keeps p s) : Keeps p (reloadKeys a0 s) := by
  unfold reloadKeys
  repeat' first | with_reducible assumption | with_reducible apply setStack_keeps | with_reducible refine foldl_keeps (fun _ _ _ => ?_) ?_

theorem phaseClean_keeps {p : Kept} {s : State} {a0 a1 a2} (h : Keeps p s) : Keeps p (phaseClean a0 a1 a2 s) := by
  unfold phaseClean
  repeat' first
    | with_reducible assumption | with_reducible apply recordErrAny_keeps | with_reducible apply setField_keeps | with_reducible apply countUp_keeps
    | with_reducible apply logTransient_keeps | with_reducible refine ite_keeps (fun _ => ?_) (fun _ => ?_)

theorem execPhaseCleanTimer_keeps {p : Kept} {s : State} {a0 a1 a2} (h : Keeps p s) {t} (e : execPhaseCleanTimer a0 a1 a2 s = .next t) : Keeps p t := by
  unfold execPhaseCleanTimer at e
  repeat' (injection e with e; subst e)
  repeat' first | with_reducible assumption | with_reducible apply phaseClean_keeps

theorem allDark_keeps {p : Kept} {s : State} {a0 a1} (h : Keeps p s) : Keeps p (allDark a0 a1 s) := by
  unfold allDark
  repeat' first | with_reducible assumption | with_reducible apply fatal_keeps | with_reducible apply imposeDark_keeps | with_reducible refine foldl_keeps (fun _ _ _ => ?_) ?_

theorem powerOnValid_keeps {p : Kept} {s : State} {a0} (h : Keeps p s) : Keeps p (powerOnValid a0 s) := by
  unfold powerOnValid
  repeat' first | with_reducible assumption | with_reducible apply updBoot_keeps | with_reducible apply updPm_keeps | with_reducible refine ite_keeps (fun _ => ?_) (fun _ => ?_)

theorem execPowerOnValid_keeps {p : Kept} {s : State} {a0} (h : Keeps p s) {t} (e : execPowerOnValid a0 s = .next t) : Keeps p t := by
  unfold execPowerOnValid at e
  repeat' (injection e with e; subst e)
  repeat' first | with_reducible assumption | with_reducible apply powerOnValid_keeps

theorem railSeq_keeps {p : Kept} {s : State} {a0 a1 a2} (h : Keeps p s) : Keeps p (railSeq a0 a1 a2 s) := by
  unfold railSeq
  repeat' first | with_reducible assumption | with_reducible apply setBoth_keeps | with_reducible apply telCommit_keeps

theorem putLimit_keeps {p : Kept} {s : State} {a0} (h : Keeps p s) : Keeps p (putLimit a0 s) := by
  unfold putLimit
  repeat' first | with_reducible assumption | with_reducible apply grantAll_keeps | with_reducible apply setLive_keeps | with_reducible refine ite_keeps (fun _ => ?_) (fun _ => ?_)

theorem pairLost_keeps {p : Kept} {s : State} {a0} (h : Keeps p s) : Keeps p (pairLost a0 s) := by
  unfold pairLost
  repeat' first
    | with_reducible assumption | with_reducible apply fieldFault_keeps | with_reducible apply imposeDark_keeps | with_reducible apply allDark_keeps
    | with_reducible refine ite_keeps (fun _ => ?_) (fun _ => ?_)

theorem railDone_keeps {p : Kept} {s : State} {a0 a1 a2} (h : Keeps p s) : Keeps p (railDone a0 a1 a2 s) := by
  unfold railDone
  repeat' first
    | with_reducible assumption | with_reducible apply bootUnit_keeps | with_reducible apply fieldFault_keeps | with_reducible apply imposeDark_keeps
    | with_reducible apply fldEvent_keeps | with_reducible apply updField_keeps | with_reducible apply railSeq_keeps
    | with_reducible apply railCals_keeps | with_reducible apply putLimit_keeps | with_reducible apply pairLost_keeps
    | with_reducible apply reloadKeys_keeps | with_reducible refine foldl_keeps (fun _ _ _ => ?_) ?_
    | with_reducible refine ite_keeps (fun _ => ?_) (fun _ => ?_) | split

theorem currentTimer_keeps {p : Kept} {s : State} {a0 a1} (h : Keeps p s) : Keeps p (currentTimer a0 a1 s) := by
  unfold currentTimer
  repeat' first | with_reducible assumption | with_reducible apply updField_keeps

theorem stageEnd_keeps {p : Kept} {s : State} {a0} (h : Keeps p s) : Keeps p (stageEnd a0 s) := by
  unfold stageEnd
  repeat' first | with_reducible assumption | with_reducible apply updField_keeps | with_reducible refine ite_keeps (fun _ => ?_) (fun _ => ?_) | split

theorem execVcoreStageEnd_keeps {p : Kept} {s : State} {a0} (h : Keeps p s) {t} (e : execVcoreStageEnd a0 s = .next t) : Keeps p t := by
  unfold execVcoreStageEnd at e
  repeat' (injection e with e; subst e)
  repeat' first | with_reducible assumption | with_reducible apply stageEnd_keeps

theorem phaseRetry_keeps {p : Kept} {s : State} {a0 a1 a2} (h : Keeps p s) : Keeps p (phaseRetry a0 a1 a2 s) := by
  unfold phaseRetry
  repeat' first | with_reducible assumption | with_reducible apply fldEvent_keeps | with_reducible apply setField_keeps | with_reducible refine ite_keeps (fun _ => ?_) (fun _ => ?_)

theorem execCal_keeps {p : Kept} {s : State} {a0 a1} (h : Keeps p s) {t} (e : execCal a0 a1 s = .next t) : Keeps p t := by
  unfold execCal at e
  repeat' (injection e with e; subst e)
  repeat' first | with_reducible assumption | with_reducible apply onPage_keeps | with_reducible apply startCal_keeps | intro _

theorem execInjectedTrigger_keeps {p : Kept} {s : State} {a0 a1} (h : Keeps p s) {t} (e : execInjectedTrigger a0 a1 s = .next t) : Keeps p t := by
  unfold execInjectedTrigger at e
  repeat' (injection e with e; subst e)
  repeat' first | with_reducible assumption | with_reducible apply injTrigger_keeps

theorem execCurrentLimitTimer_keeps {p : Kept} {s : State} {a0 a1} (h : Keeps p s) {t} (e : execCurrentLimitTimer a0 a1 s = .next t) : Keeps p t := by
  unfold execCurrentLimitTimer at e
  repeat' (injection e with e; subst e)
  repeat' first | with_reducible assumption | with_reducible apply currentTimer_keeps

theorem execInputHigh_keeps {p : Kept} {s : State} (h : Keeps p s) {t} (e : execInputHigh s = .next t) : Keeps p t := by
  unfold execInputHigh at e
  repeat' (injection e with e; subst e)
  repeat' first | with_reducible assumption | with_reducible apply countUp_keeps

theorem execRailStageDone_keeps {p : Kept} {s : State} {a0 a1 a2} (h : Keeps p s) {t} (e : execRailStageDone a0 a1 a2 s = .next t) : Keeps p t := by
  unfold execRailStageDone at e
  repeat' (injection e with e; subst e)
  repeat' first | with_reducible assumption | with_reducible apply railDone_keeps

theorem execTelRepeat_keeps {p : Kept} {s : State} {a0 a1} (h : Keeps p s) {t} (e : execTelRepeat a0 a1 s = .next t) : Keeps p t := by
  unfold execTelRepeat at e
  repeat' (injection e with e; subst e)
  repeat' first | with_reducible assumption | with_reducible apply telRepeat_keeps

theorem powerRetry_keeps {p : Kept} {s : State} {a0} (h : Keeps p s) : Keeps p (powerRetry a0 s) := by
  unfold powerRetry
  repeat' first | with_reducible assumption | with_reducible apply updField_keeps | with_reducible refine ite_keeps (fun _ => ?_) (fun _ => ?_) | split

theorem execPowerRetry_keeps {p : Kept} {s : State} {a0} (h : Keeps p s) {t} (e : execPowerRetry a0 s = .next t) : Keeps p t := by
  unfold execPowerRetry at e
  repeat' (injection e with e; subst e)
  repeat' first | with_reducible assumption | with_reducible apply powerRetry_keeps

theorem putLimits_keeps {p : Kept} {s : State} (h : Keeps p s) : Keeps p (putLimits s) := by
  unfold putLimits
  repeat' first | with_reducible assumption | with_reducible apply putLimit_keeps | with_reducible refine foldl_keeps (fun _ _ _ => ?_) ?_

theorem capAction_keeps {p : Kept} {s : State} (h : Keeps p s) : Keeps p (capAction s) := by
  unfold capAction
  repeat' first
    | with_reducible assumption | with_reducible apply putLimits_keeps | with_reducible apply updPm_keeps | with_reducible apply updField_keeps
    | with_reducible apply recordErrAny_keeps | with_reducible apply countUp_keeps | with_reducible refine foldl_keeps (fun _ _ _ => ?_) ?_
    | with_reducible refine ite_keeps (fun _ => ?_) (fun _ => ?_) | split

theorem capUndo_keeps {p : Kept} {s : State} (h : Keeps p s) : Keeps p (capUndo s) := by
  unfold capUndo
  repeat' first
    | with_reducible assumption | with_reducible apply updPm_keeps | with_reducible apply putLimits_keeps | with_reducible apply updField_keeps
    | with_reducible refine foldl_keeps (fun _ _ _ => ?_) ?_ | split

theorem windowEnd_keeps {p : Kept} {s : State} {a0 a1 a2} (h : Keeps p s) : Keeps p (windowEnd a0 a1 a2 s) := by
  unfold windowEnd
  repeat' first
    | with_reducible assumption | with_reducible apply updPm_keeps | with_reducible apply capAction_keeps | with_reducible apply countUp_keeps
    | with_reducible apply capUndo_keeps | with_reducible refine ite_keeps (fun _ => ?_) (fun _ => ?_)

theorem execCalDone_keeps {p : Kept} {s : State} {a0 a1 a2 a3} (h : Keeps p s) {t} (e : execCalDone a0 a1 a2 a3 s = .next t) : Keeps p t := by
  unfold execCalDone at e
  repeat' (injection e with e; subst e)
  repeat' first | with_reducible assumption | with_reducible apply pairLost_keeps | with_reducible apply calDone_keeps

theorem telemStale_keeps {p : Kept} {s : State} {a0 a1} (h : Keeps p s) : Keeps p (telemStale a0 a1 s) := by
  unfold telemStale
  repeat' first | with_reducible assumption | with_reducible apply recordErrAny_keeps | with_reducible apply updField_keeps | with_reducible refine ite_keeps (fun _ => ?_) (fun _ => ?_)

theorem execTelemStale_keeps {p : Kept} {s : State} {a0 a1} (h : Keeps p s) {t} (e : execTelemStale a0 a1 s = .next t) : Keeps p t := by
  unfold execTelemStale at e
  repeat' (injection e with e; subst e)
  repeat' first | with_reducible assumption | with_reducible apply telemStale_keeps

theorem converterFault_keeps {p : Kept} {s : State} {a0 a1} (h : Keeps p s) : Keeps p (converterFault a0 a1 s) := by
  unfold converterFault
  repeat' first
    | with_reducible assumption | with_reducible apply updField_keeps | with_reducible apply fieldFault_keeps | with_reducible apply imposeDark_keeps
    | with_reducible apply report_keeps | with_reducible apply recordErrAny_keeps | with_reducible refine ite_keeps (fun _ => ?_) (fun _ => ?_)

theorem inputLow_keeps {p : Kept} {s : State} (h : Keeps p s) : Keeps p (inputLow s) := by
  unfold inputLow
  repeat' first | with_reducible assumption | with_reducible apply recordErrAny_keeps | with_reducible apply updPm_keeps | with_reducible refine ite_keeps (fun _ => ?_) (fun _ => ?_)

theorem execConversionDone_keeps {p : Kept} {s : State} {a0 a1 a2} (h : Keeps p s) {t} (e : execConversionDone a0 a1 a2 s = .next t) : Keeps p t := by
  unfold execConversionDone at e
  repeat' (injection e with e; subst e)
  repeat' first | with_reducible assumption | with_reducible apply conversionDone_keeps

theorem inputRangeFail_keeps {p : Kept} {s : State} (h : Keeps p s) : Keeps p (inputRangeFail s) := by
  unfold inputRangeFail
  repeat' first | with_reducible assumption | with_reducible apply allDark_keeps | with_reducible apply recordErrAny_keeps

theorem execInputRangeFail_keeps {p : Kept} {s : State} (h : Keeps p s) {t} (e : execInputRangeFail s = .next t) : Keeps p t := by
  unfold execInputRangeFail at e
  repeat' (injection e with e; subst e)
  repeat' first | with_reducible assumption | with_reducible apply inputRangeFail_keeps

theorem kilnEntryDone_keeps {p : Kept} {s : State} {a0} (h : Keeps p s) : Keeps p (kilnEntryDone a0 s) := by
  unfold kilnEntryDone
  repeat' first | with_reducible assumption | with_reducible apply updField_keeps | with_reducible apply setUnits_keeps | with_reducible refine ite_keeps (fun _ => ?_) (fun _ => ?_)

theorem powerBeatLost_keeps {p : Kept} {s : State} (h : Keeps p s) : Keeps p (powerBeatLost s) := by
  unfold powerBeatLost
  repeat' first
    | with_reducible assumption | with_reducible apply attemptEnds_keeps | with_reducible refine foldl_keeps (fun _ _ _ => ?_) ?_
    | with_reducible refine ite_keeps (fun _ => ?_) (fun _ => ?_)

theorem execClockStepDone_keeps {p : Kept} {s : State} {a0} (h : Keeps p s) {t} (e : execClockStepDone a0 s = .next t) : Keeps p t := by
  unfold execClockStepDone at e
  repeat' (injection e with e; subst e)
  repeat' first | with_reducible assumption | with_reducible apply clockStepDone_keeps

theorem execKilnEntryDone_keeps {p : Kept} {s : State} {a0} (h : Keeps p s) {t} (e : execKilnEntryDone a0 s = .next t) : Keeps p t := by
  unfold execKilnEntryDone at e
  repeat' (injection e with e; subst e)
  repeat' first | with_reducible assumption | with_reducible apply kilnEntryDone_keeps

theorem coolantLoss_keeps {p : Kept} {s : State} (h : Keeps p s) : Keeps p (coolantLoss s) := by
  unfold coolantLoss
  repeat' first | with_reducible assumption | with_reducible apply allDark_keeps | with_reducible apply updPm_keeps | with_reducible apply recordErrAny_keeps

theorem reclose_keeps {p : Kept} {s : State} {a0 a1} (h : Keeps p s) : Keeps p (reclose a0 a1 s) := by
  unfold reclose
  repeat' first
    | with_reducible assumption | with_reducible apply freshWord_keeps | with_reducible apply setLive_keeps | with_reducible apply updField_keeps
    | with_reducible refine ite_keeps (fun _ => ?_) (fun _ => ?_)

theorem execReclose_keeps {p : Kept} {s : State} {a0 a1 a2} (h : Keeps p s) {t} (e : execReclose a0 a1 a2 s = .next t) : Keeps p t := by
  unfold execReclose at e
  repeat' (injection e with e; subst e)
  repeat' first | with_reducible assumption | with_reducible apply viaBar_keeps | with_reducible apply reclose_keeps | intro _

theorem execConverterFault_keeps {p : Kept} {s : State} {a0 a1} (h : Keeps p s) {t} (e : execConverterFault a0 a1 s = .next t) : Keeps p t := by
  unfold execConverterFault at e
  repeat' (injection e with e; subst e)
  repeat' first | with_reducible assumption | with_reducible apply converterFault_keeps

theorem breakerTrip_keeps {p : Kept} {s : State} {a0 a1 a2} (h : Keeps p s) : Keeps p (breakerTrip a0 a1 a2 s) := by
  unfold breakerTrip
  repeat' first
    | with_reducible assumption | with_reducible apply fieldFault_keeps | with_reducible apply recordErrAny_keeps | with_reducible apply goDark_keeps
    | with_reducible apply updField_keeps | with_reducible refine ite_keeps (fun _ => ?_) (fun _ => ?_)

theorem execBreakerTrip_keeps {p : Kept} {s : State} {a0 a1 a2} (h : Keeps p s) {t} (e : execBreakerTrip a0 a1 a2 s = .next t) : Keeps p t := by
  unfold execBreakerTrip at e
  repeat' (injection e with e; subst e)
  repeat' first | with_reducible assumption | with_reducible apply breakerTrip_keeps

theorem phaseFault_keeps {p : Kept} {s : State} {a0 a1 a2} (h : Keeps p s) : Keeps p (phaseFault a0 a1 a2 s) := by
  unfold phaseFault
  repeat' first
    | with_reducible assumption | with_reducible apply phasesChanged_keeps | with_reducible apply fieldTrigger_keeps
    | with_reducible apply setField_keeps | with_reducible apply recordErrAny_keeps | with_reducible apply fldEvent_keeps
    | with_reducible apply report_keeps | with_reducible apply updBoot_keeps | with_reducible refine ite_keeps (fun _ => ?_) (fun _ => ?_) | split

theorem execPhaseFault_keeps {p : Kept} {s : State} {a0 a1 a2} (h : Keeps p s) {t} (e : execPhaseFault a0 a1 a2 s = .next t) : Keeps p t := by
  unfold execPhaseFault at e
  repeat' (injection e with e; subst e)
  repeat' first | with_reducible assumption | with_reducible apply phaseFault_keeps

theorem execPhaseRetryTimer_keeps {p : Kept} {s : State} {a0 a1 a2} (h : Keeps p s) {t} (e : execPhaseRetryTimer a0 a1 a2 s = .next t) : Keeps p t := by
  unfold execPhaseRetryTimer at e
  repeat' (injection e with e; subst e)
  repeat' first | with_reducible assumption | with_reducible apply phaseRetry_keeps

theorem execCoolantLoss_keeps {p : Kept} {s : State} (h : Keeps p s) {t} (e : execCoolantLoss s = .next t) : Keeps p t := by
  unfold execCoolantLoss at e
  repeat' (injection e with e; subst e)
  repeat' first | with_reducible assumption | with_reducible apply coolantLoss_keeps

theorem execInputLow_keeps {p : Kept} {s : State} (h : Keeps p s) {t} (e : execInputLow s = .next t) : Keeps p t := by
  unfold execInputLow at e
  repeat' (injection e with e; subst e)
  repeat' first | with_reducible assumption | with_reducible apply inputLow_keeps

theorem execCalCover_keeps {p : Kept} {s : State} {a0 a1} (h : Keeps p s) {t} (e : execCalCover a0 a1 s = .next t) : Keeps p t := by
  unfold execCalCover at e
  repeat' (injection e with e; subst e)
  repeat' first | with_reducible assumption | with_reducible apply onPage_keeps | with_reducible apply startCal_keeps | intro _

theorem execThermalEval_keeps {p : Kept} {s : State} {a0} (h : Keeps p s) {t} (e : execThermalEval a0 s = .next t) : Keeps p t := by
  unfold execThermalEval at e
  repeat' (injection e with e; subst e)
  repeat' first | with_reducible assumption | with_reducible apply thermalEval_keeps

theorem execPowerWindowEnd_keeps {p : Kept} {s : State} {a0 a1 a2} (h : Keeps p s) {t} (e : execPowerWindowEnd a0 a1 a2 s = .next t) : Keeps p t := by
  unfold execPowerWindowEnd at e
  repeat' (injection e with e; subst e)
  repeat' first | with_reducible assumption | with_reducible apply windowEnd_keeps

end Sys2Proof.Machine
end

