-- ==== Sys2Proof/Laws/KeepsServe.lean ====
section
/-! SUPPORT. What every operation keeps, continued. -/

namespace Sys2Proof.Machine

open Sys2Proof

/-! ### Issue -/

theorem rebindNow_keeps {p : Kept} {s : State} {a0} (h : Keeps p s) : Keeps p (rebindNow a0 s).2 := by
  unfold rebindNow
  repeat' first | with_reducible assumption | with_reducible apply adapterRef_keeps | with_reducible apply updStream_keeps | split | dsimp only

theorem setBalance_keeps {p : Kept} {s : State} {a0 a1} (h : Keeps p s) : Keeps p (setBalance a0 a1 s) := by
  unfold setBalance
  repeat' first | with_reducible assumption | with_reducible apply updServing_keeps | with_reducible refine ite_keeps (fun _ => ?_) (fun _ => ?_)

theorem flightBegins_keeps {p : Kept} {s : State} {a0 a1} (h : Keeps p s) : Keeps p (flightBegins a0 a1 s) := by
  unfold flightBegins
  repeat' first | with_reducible assumption | with_reducible apply setInflight_keeps

theorem issueCapture_keeps {p : Kept} {s : State} {a0 a1} (h : Keeps p s) : Keeps p (issueCapture a0 a1 s).2 := by
  unfold issueCapture
  repeat' first
    | with_reducible assumption | with_reducible apply rebindNow_keeps | with_reducible apply setBalance_keeps
    | with_reducible apply flightBegins_keeps | with_reducible apply updStream_keeps | with_reducible apply allocBlocks_keeps
    | with_reducible apply allocCand_keeps | with_reducible refine ite_keeps (fun _ => ?_) (fun _ => ?_)

theorem stageAlloc_keeps {p : Kept} {s : State} {a0 a1 a2} (h : Keeps p s) : Keeps p (stageAlloc a0 a1 a2 s).2 := by
  unfold stageAlloc
  repeat' first | with_reducible assumption | with_reducible apply updModel_keeps | split | dsimp only

theorem writeList_keeps {p : Kept} {s : State} {a0 a1 a2} (h : Keeps p s) : Keeps p (writeList a0 a1 a2 s) := by
  unfold writeList
  repeat' first | with_reducible assumption | with_reducible apply stackWrite_keeps

theorem putList_keeps {p : Kept} {s : State} {a0 a1 a2 a3} (h : Keeps p s) : Keeps p (putList a0 a1 a2 a3 s).2 := by
  unfold putList
  repeat' first | with_reducible assumption | with_reducible apply stageAlloc_keeps | with_reducible apply writeList_keeps | with_reducible refine snd_keeps (by assumption) ?_ | split

theorem sendMarker_keeps {p : Kept} {s : State} {a0 a1} (h : Keeps p s) : Keeps p (sendMarker a0 a1 s) := by
  unfold sendMarker
  repeat' first | with_reducible assumption | with_reducible apply updModel_keeps | with_reducible apply injectEngine_keeps | split | dsimp only

theorem inFlightNow_keeps {p : Kept} {s : State} {a0 a1 a2} (h : Keeps p s) : Keeps p (inFlightNow a0 a1 a2 s) := by
  unfold inFlightNow
  repeat' first | with_reducible assumption | with_reducible apply updStream_keeps

theorem issueStep_keeps {p : Kept} {s : State} {a0 a1} (h : Keeps p s) : Keeps p (issueStep a0 a1 s) := by
  unfold issueStep
  repeat' first
    | with_reducible assumption | with_reducible apply issueCapture_keeps | with_reducible apply stageAlloc_keeps | with_reducible apply putList_keeps
    | with_reducible apply sendMarker_keeps | with_reducible apply inFlightNow_keeps | with_reducible refine ite_keeps (fun _ => ?_) (fun _ => ?_)
    | split

theorem holdStream_keeps {p : Kept} {s : State} {a0 a1} (h : Keeps p s) : Keeps p (holdStream a0 a1 s) := by
  unfold holdStream
  repeat' first | with_reducible assumption | with_reducible apply countUp_keeps | with_reducible apply updStream_keeps | split

theorem joinGather_keeps {p : Kept} {s : State} {a0} (h : Keeps p s) : Keeps p (joinGather a0 s) := by
  unfold joinGather
  repeat' first
    | with_reducible assumption | with_reducible apply holdStream_keeps | with_reducible apply updServing_keeps | with_reducible apply updStream_keeps
    | with_reducible refine ite_keeps (fun _ => ?_) (fun _ => ?_)

theorem tryStream_keeps {p : Kept} {s : State} {a0} (h : Keeps p s) : Keeps p (tryStream a0 s) := by
  unfold tryStream
  repeat' first
    | with_reducible assumption | with_reducible apply holdStream_keeps | with_reducible apply joinGather_keeps | with_reducible apply issueStep_keeps
    | with_reducible refine ite_keeps (fun _ => ?_) (fun _ => ?_)

theorem tryMember_keeps {p : Kept} {s : State} {a0 a1 a2} (h : Keeps p s) : Keeps p (tryMember a0 a1 a2 s).2 := by
  unfold tryMember
  repeat' first
    | with_reducible assumption | with_reducible apply holdStream_keeps | with_reducible apply rebindNow_keeps | with_reducible apply setBalance_keeps
    | with_reducible apply allocBlocks_keeps | with_reducible apply updStream_keeps | with_reducible apply inFlightNow_keeps | split | dsimp only

theorem takeMembers_keeps {p : Kept} {s : State} {a0 a1 a2 a3} (h : Keeps p s) : Keeps p (takeMembers a0 a1 a2 a3 s).2 := by
  induction a2 generalizing s a1 a3 with
  | nil =>
    unfold takeMembers
    repeat' with_reducible assumption
  | cons _ _ ih =>
    unfold takeMembers
    repeat' first | with_reducible apply ih | cases ‹_ :: _ = _ :: _› | with_reducible assumption | with_reducible apply tryMember_keeps | with_reducible refine snd_keeps (by assumption) ?_ | split

theorem issueBatch_keeps {p : Kept} {s : State} {a0 a2} (h : Keeps p s) : Keeps p (issueBatch a0 s a2) := by
  unfold issueBatch
  repeat' first
    | with_reducible assumption | with_reducible apply holdStream_keeps | with_reducible apply takeMembers_keeps
    | with_reducible apply updServing_keeps | with_reducible apply flightBegins_keeps | with_reducible apply putList_keeps
    | with_reducible apply sendMarker_keeps | with_reducible refine foldl_keeps (fun _ _ _ => ?_) ?_
    | with_reducible refine ite_keeps (fun _ => ?_) (fun _ => ?_)

theorem stagedDone_keeps {p : Kept} {s : State} {a0} (h : Keeps p s) : Keeps p (stagedDone a0 s) := by
  unfold stagedDone
  repeat' first
    | with_reducible assumption | with_reducible apply updModel_keeps | with_reducible apply epochEmpty_keeps | with_reducible apply setEpochSt_keeps
    | with_reducible apply tryStream_keeps | with_reducible apply issueBatch_keeps | with_reducible refine foldl_keeps (fun _ _ _ => ?_) ?_
    | with_reducible refine ite_keeps (fun _ => ?_) (fun _ => ?_) | split

theorem execStagedSwitchDone_keeps {p : Kept} {s : State} {a0} (h : Keeps p s) {t} (e : execStagedSwitchDone a0 s = .next t) : Keeps p t := by
  unfold execStagedSwitchDone at e
  repeat' (injection e with e; subst e)
  repeat' first | with_reducible assumption | with_reducible apply stagedDone_keeps

theorem verifyIssue_keeps {p : Kept} {s : State} {a0} (h : Keeps p s) : Keeps p (verifyIssue a0 s) := by
  unfold verifyIssue
  repeat' first
    | with_reducible assumption | with_reducible apply holdStream_keeps | with_reducible apply flightBegins_keeps
    | with_reducible apply writeList_keeps | with_reducible apply sendMarker_keeps | with_reducible apply updStream_keeps
    | with_reducible refine ite_keeps (fun _ => ?_) (fun _ => ?_) | split | dsimp only

theorem execSpecVerifyIssue_keeps {p : Kept} {s : State} {a0} (h : Keeps p s) {t} (e : execSpecVerifyIssue a0 s = .next t) : Keeps p t := by
  unfold execSpecVerifyIssue at e
  repeat' (injection e with e; subst e)
  repeat' first | with_reducible assumption | with_reducible apply verifyIssue_keeps

theorem issueAll_keeps {p : Kept} {s : State} {a0} (h : Keeps p s) : Keeps p (issueAll a0 s) := by
  unfold issueAll
  repeat' first
    | with_reducible assumption | with_reducible apply tryStream_keeps | with_reducible apply issueBatch_keeps
    | with_reducible refine foldl_keeps (fun _ _ _ => ?_) ?_ | with_reducible refine ite_keeps (fun _ => ?_) (fun _ => ?_)

theorem refill_keeps {p : Kept} {s : State} {a0} (h : Keeps p s) : Keeps p (refill a0 s) := by
  unfold refill
  repeat' first
    | with_reducible assumption | with_reducible apply setBalance_keeps | with_reducible refine foldl_keeps (fun _ _ _ => ?_) ?_
    | with_reducible refine ite_keeps (fun _ => ?_) (fun _ => ?_)

theorem renumber_keeps {p : Kept} {s : State} {a0} (h : Keeps p s) : Keeps p (renumber a0 s) := by
  unfold renumber
  repeat' first | with_reducible assumption | with_reducible apply updModel_keeps

/-! ### Channel -/

theorem chanRegister_keeps {p : Kept} {s : State} {a0 a1 a2 a3} (h : Keeps p s) : Keeps p (chanRegister a0 a1 a2 a3 s) := by
  unfold chanRegister
  repeat' first | with_reducible assumption | with_reducible apply injectEngine_keeps

theorem chanFails_keeps {p : Kept} {s : State} {a0 a1 a2} (h : Keeps p s) : Keeps p (chanFails a0 a1 a2 s) := by
  unfold chanFails
  repeat' first | with_reducible assumption | with_reducible apply updChan_keeps

theorem segRemote_keeps {p : Kept} {s : State} {a0 a1 a2 a3 a4 a5 a6 a7 a8 a9 a10} (h : Keeps p s) : Keeps p (segRemote a0 a1 a2 a3 a4 a5 a6 a7 a8 a9 a10 s) := by
  unfold segRemote
  repeat' first | with_reducible assumption | with_reducible apply injectEngine_keeps

theorem segSend_keeps {p : Kept} {s : State} {a0 a1 a2 a3 a4 a5} (h : Keeps p s) : Keeps p (segSend a0 a1 a2 a3 a4 a5 s) := by
  unfold segSend
  repeat' first
    | with_reducible assumption | with_reducible apply updChan_keeps | with_reducible apply injectEngine_keeps | with_reducible apply segRemote_keeps
    | with_reducible refine foldl_keeps (fun _ _ _ => ?_) ?_ | with_reducible refine ite_keeps (fun _ => ?_) (fun _ => ?_)

theorem addSeg_keeps {p : Kept} {s : State} {a0 a1 a2} (h : Keeps p s) : Keeps p (addSeg a0 a1 a2 s) := by
  unfold addSeg
  repeat' first | with_reducible assumption | with_reducible apply updChan_keeps | with_reducible apply setStack_keeps

theorem segFetch_keeps {p : Kept} {s : State} {a0 a1 a2 a3 a4} (h : Keeps p s) : Keeps p (segFetch a0 a1 a2 a3 a4 s) := by
  unfold segFetch
  repeat' first
    | with_reducible assumption | with_reducible apply injectEngine_keeps | with_reducible apply segRemote_keeps
    | with_reducible refine foldl_keeps (fun _ _ _ => ?_) ?_ | with_reducible refine ite_keeps (fun _ => ?_) (fun _ => ?_)

theorem startSeg_keeps {p : Kept} {s : State} {a0 a1 a2 a3 a4} (h : Keeps p s) : Keeps p (startSeg a0 a1 a2 a3 a4 s) := by
  unfold startSeg
  repeat' first
    | with_reducible assumption | with_reducible apply chanFails_keeps | with_reducible apply fenceRefusedAny_keeps
    | with_reducible apply segSend_keeps | with_reducible apply addSeg_keeps | with_reducible apply stackRead_keeps
    | with_reducible apply segFetch_keeps | with_reducible refine snd_keeps (by assumption) ?_
    | with_reducible refine ite_keeps (fun _ => ?_) (fun _ => ?_) | split | dsimp only

theorem stallPool_keeps {p : Kept} {s : State} {a0 a1} (h : Keeps p s) : Keeps p (stallPool a0 a1 s) := by
  unfold stallPool
  repeat' first | with_reducible assumption | with_reducible apply updChan_keeps | with_reducible apply countUp_keeps | with_reducible refine ite_keeps (fun _ => ?_) (fun _ => ?_)

theorem startSegs_keeps {p : Kept} {s : State} {a0 a1 a2 a3 a4} (h : Keeps p s) : Keeps p (startSegs a0 a1 a2 a3 a4 s) := by
  induction a4 generalizing s  with
  | zero =>
    unfold startSegs
    repeat' with_reducible assumption
  | succ _ ih =>
    unfold startSegs
    repeat' first
      | with_reducible apply ih | with_reducible assumption | with_reducible apply updChan_keeps | with_reducible apply inOrder_keeps
      | with_reducible apply startSeg_keeps | with_reducible apply stallPool_keeps | with_reducible refine ite_keeps (fun _ => ?_) (fun _ => ?_)

theorem runDesc_keeps {p : Kept} {s : State} {a0 a1 a2} (h : Keeps p s) : Keeps p (runDesc a0 a1 a2 s) := by
  unfold runDesc
  repeat' first
    | with_reducible assumption | with_reducible apply startSegs_keeps | with_reducible apply countEnd_keeps | with_reducible apply chanFails_keeps
    | with_reducible apply updChan_keeps | fail_if_no_progress with_reducible apply keeps_upd
    | with_reducible refine ite_keeps (fun _ => ?_) (fun _ => ?_) | split | dsimp only

theorem waitRelease_keeps {p : Kept} {s : State} {a0 a1 a2} (h : Keeps p s) : Keeps p (waitRelease a0 a1 a2 s) := by
  unfold waitRelease
  repeat' first
    | with_reducible assumption | with_reducible apply chanRegister_keeps | with_reducible apply updChan_keeps | with_reducible apply runDesc_keeps
    | with_reducible refine ite_keeps (fun _ => ?_) (fun _ => ?_) | split | dsimp only

theorem segFails_keeps {p : Kept} {s : State} {a0 a1 a2 a3} (h : Keeps p s) : Keeps p (segFails a0 a1 a2 a3 s) := by
  unfold segFails
  repeat' first | with_reducible assumption | with_reducible apply chanFails_keeps | with_reducible apply updChan_keeps

theorem segWrite_keeps {p : Kept} {s : State} {a0 a1 a2 a3} (h : Keeps p s) : Keeps p (segWrite a0 a1 a2 a3 s) := by
  unfold segWrite
  repeat' first
    | with_reducible assumption | with_reducible apply inOrder_keeps | with_reducible apply stackPut_keeps | with_reducible apply segFails_keeps
    | with_reducible apply segLanded_keeps | with_reducible refine snd_keeps (by assumption) ?_
    | with_reducible refine ite_keeps (fun _ => ?_) (fun _ => ?_) | split

theorem dropSeg_keeps {p : Kept} {s : State} {a0 a1 a2} (h : Keeps p s) : Keeps p (dropSeg a0 a1 a2 s) := by
  unfold dropSeg
  repeat' first | with_reducible assumption | with_reducible apply updChan_keeps | with_reducible apply setStack_keeps

theorem segDone_keeps {p : Kept} {s : State} {a0 a1 a2 a3} (h : Keeps p s) : Keeps p (segDone a0 a1 a2 a3 s) := by
  unfold segDone
  repeat' first
    | with_reducible assumption | with_reducible apply segWrite_keeps | with_reducible apply dropSeg_keeps | with_reducible apply runDesc_keeps
    | with_reducible refine ite_keeps (fun _ => ?_) (fun _ => ?_) | split | dsimp only

theorem beginDesc_keeps {p : Kept} {s : State} {a0 a1 a2 a3} (h : Keeps p s) : Keeps p (beginDesc a0 a1 a2 a3 s) := by
  unfold beginDesc
  repeat' first
    | with_reducible assumption | with_reducible apply updChan_keeps | with_reducible apply chanRegister_keeps | with_reducible apply runDesc_keeps
    | with_reducible refine ite_keeps (fun _ => ?_) (fun _ => ?_)

theorem chanError_keeps {p : Kept} {s : State} {a0 a1 a2} (h : Keeps p s) : Keeps p (chanError a0 a1 a2 s) := by
  unfold chanError
  repeat' first | with_reducible assumption | with_reducible apply recordErrAny_keeps | with_reducible apply updChan_keeps

theorem descFetch_keeps {p : Kept} {s : State} {a0 a1 a2} (h : Keeps p s) : Keeps p (descFetch a0 a1 a2 s) := by
  unfold descFetch
  repeat' first
    | with_reducible assumption | with_reducible apply chanError_keeps | with_reducible apply inOrder_keeps | with_reducible apply stackRead_keeps
    | with_reducible apply sendNotify_keeps | with_reducible apply updChan_keeps | with_reducible apply beginDesc_keeps
    | with_reducible refine snd_keeps (by assumption) ?_ | with_reducible refine ite_keeps (fun _ => ?_) (fun _ => ?_) | split | dsimp only

theorem execChDescFetch_keeps {p : Kept} {s : State} {a0 a1 a2} (h : Keeps p s) {t} (e : execChDescFetch a0 a1 a2 s = .next t) : Keeps p t := by
  unfold execChDescFetch at e
  repeat' (injection e with e; subst e)
  repeat' first | with_reducible assumption | with_reducible apply descFetch_keeps

theorem freeDesc_keeps {p : Kept} {s : State} {a0 a1} (h : Keeps p s) : Keeps p (freeDesc a0 a1 s) := by
  unfold freeDesc
  repeat' first
    | with_reducible assumption | with_reducible apply dropSeg_keeps | with_reducible apply updChan_keeps
    | with_reducible refine foldl_keeps (fun _ _ _ => ?_) ?_ | fail_if_no_progress with_reducible apply keeps_upd

theorem poolSpace_keeps {p : Kept} {s : State} {a0 a1 a2} (h : Keeps p s) : Keeps p (poolSpace a0 a1 a2 s) := by
  unfold poolSpace
  repeat' first | with_reducible assumption | with_reducible apply runDesc_keeps | with_reducible refine ite_keeps (fun _ => ?_) (fun _ => ?_)

theorem chStart_keeps {p : Kept} {s : State} {a0 a1} (h : Keeps p s) : Keeps p (chStart a0 a1 s) := by
  unfold chStart
  repeat' first | with_reducible assumption | with_reducible apply recordErrAny_keeps | with_reducible apply updChan_keeps | with_reducible refine ite_keeps (fun _ => ?_) (fun _ => ?_)

theorem execChStart_keeps {p : Kept} {s : State} {a0 a1 a2} (h : Keeps p s) {t} (e : execChStart a0 a1 a2 s = .next t) : Keeps p t := by
  unfold execChStart at e
  repeat' (injection e with e; subst e)
  repeat' first | with_reducible assumption | with_reducible apply onPage_keeps | with_reducible apply chStart_keeps | intro _

theorem execChPoolSpace_keeps {p : Kept} {s : State} {a0 a1 a2} (h : Keeps p s) {t} (e : execChPoolSpace a0 a1 a2 s = .next t) : Keeps p t := by
  unfold execChPoolSpace at e
  repeat' (injection e with e; subst e)
  repeat' first | with_reducible assumption | with_reducible apply poolSpace_keeps

theorem chAbort_keeps {p : Kept} {s : State} {a0 a1} (h : Keeps p s) : Keeps p (chAbort a0 a1 s) := by
  unfold chAbort
  repeat' first
    | with_reducible assumption | with_reducible apply updChan_keeps | with_reducible apply freeDesc_keeps
    | with_reducible refine ite_keeps (fun _ => ?_) (fun _ => ?_) | split | dsimp only

theorem reportChannel_keeps {p : Kept} {s : State} {a0 a1} (h : Keeps p s) : Keeps p (reportChannel a0 a1 s) := by
  unfold reportChannel
  repeat' first | with_reducible assumption | with_reducible apply report_keeps | with_reducible refine ite_keeps (fun _ => ?_) (fun _ => ?_)

theorem execChWaitRelease_keeps {p : Kept} {s : State} {a0 a1 a2} (h : Keeps p s) {t} (e : execChWaitRelease a0 a1 a2 s = .next t) : Keeps p t := by
  unfold execChWaitRelease at e
  repeat' (injection e with e; subst e)
  repeat' first | with_reducible assumption | with_reducible apply waitRelease_keeps

theorem execChSegmentDone_keeps {p : Kept} {s : State} {a0 a1 a2 a3} (h : Keeps p s) {t} (e : execChSegmentDone a0 a1 a2 a3 s = .next t) : Keeps p t := by
  unfold execChSegmentDone at e
  repeat' (injection e with e; subst e)
  repeat' first | with_reducible assumption | with_reducible apply segDone_keeps

theorem execChAbort_keeps {p : Kept} {s : State} {a0 a1 a2} (h : Keeps p s) {t} (e : execChAbort a0 a1 a2 s = .next t) : Keeps p t := by
  unfold execChAbort at e
  repeat' (injection e with e; subst e)
  repeat' first | with_reducible assumption | with_reducible apply onPage_keeps | with_reducible apply chAbort_keeps | intro _

theorem chDescEnd_keeps {p : Kept} {s : State} {a0 a1} (h : Keeps p s) : Keeps p (chDescEnd a0 a1 s) := by
  unfold chDescEnd
  repeat' first
    | with_reducible assumption | with_reducible apply sendNotify_keeps | with_reducible apply updChan_keeps | with_reducible apply freeDesc_keeps
    | with_reducible apply reportChannel_keeps | with_reducible apply chanError_keeps | with_reducible refine ite_keeps (fun _ => ?_) (fun _ => ?_)
    | split | dsimp only

theorem execChDescEnd_keeps {p : Kept} {s : State} {a0 a1} (h : Keeps p s) {t} (e : execChDescEnd a0 a1 s = .next t) : Keeps p t := by
  unfold execChDescEnd at e
  repeat' (injection e with e; subst e)
  repeat' first | with_reducible assumption | with_reducible apply chDescEnd_keeps

/-! ### Link -/

theorem fecCorrected_keeps {p : Kept} {s : State} {a0 a1} (h : Keeps p s) : Keeps p (fecCorrected a0 a1 s) := by
  unfold fecCorrected
  repeat' first | with_reducible assumption | with_reducible apply countUp_keeps

theorem updLink_keeps {p : Kept} {s : State} {a0 a1} (h : Keeps p s) : Keeps p (updLink a0 a1 s) := by
  unfold updLink
  repeat' first | with_reducible assumption | with_reducible apply setLink_keeps

theorem queuedGone_keeps {p : Kept} {s : State} {a0 a1} (h : Keeps p s) : Keeps p (queuedGone a0 a1 s) := by
  unfold queuedGone
  repeat' first
    | with_reducible assumption | with_reducible apply countUp_keeps | with_reducible apply endReq_keeps | with_reducible apply sendResp_keeps
    | with_reducible refine ite_keeps (fun _ => ?_) (fun _ => ?_)

theorem linkGone_keeps {p : Kept} {s : State} {a0} (h : Keeps p s) : Keeps p (linkGone a0 s) := by
  unfold linkGone
  repeat' first
    | with_reducible assumption | with_reducible apply setLink_keeps | with_reducible apply setCand_keeps | with_reducible apply movedOn_keeps
    | with_reducible apply queuedGone_keeps | with_reducible apply endReq_keeps | with_reducible apply attachDrain_keeps
    | with_reducible refine foldl_keeps (fun _ _ _ => ?_) ?_ | fail_if_no_progress with_reducible apply keeps_upd
    | fail_if_no_progress with_reducible apply keeps_beat | with_reducible refine ite_keeps (fun _ => ?_) (fun _ => ?_)

theorem linkFailure_keeps {p : Kept} {s : State} {a0} (h : Keeps p s) : Keeps p (linkFailure a0 s) := by
  unfold linkFailure
  repeat' first | with_reducible assumption | with_reducible apply updLink_keeps | with_reducible apply linkGone_keeps | with_reducible apply countUp_keeps

theorem linkFails_keeps {p : Kept} {s : State} {a0 a1} (h : Keeps p s) : Keeps p (linkFails a0 a1 s) := by
  unfold linkFails
  repeat' first | with_reducible assumption | with_reducible apply report_keeps | with_reducible apply recordErrAny_keeps | with_reducible apply linkFailure_keeps

theorem flitFails_keeps {p : Kept} {s : State} {a0 a1 a2} (h : Keeps p s) : Keeps p (flitFails a0 a1 a2 s) := by
  unfold flitFails
  repeat' first
    | with_reducible assumption | with_reducible apply updLink_keeps | with_reducible apply sendCtl_keeps | with_reducible apply linkFails_keeps
    | with_reducible refine ite_keeps (fun _ => ?_) (fun _ => ?_) | split

theorem flitTaken_keeps {p : Kept} {s : State} {a0 a1} (h : Keeps p s) : Keeps p (flitTaken a0 a1 s) := by
  unfold flitTaken
  repeat' first
    | with_reducible assumption | with_reducible apply logTransient_keeps | with_reducible apply recordErrAny_keeps
    | with_reducible apply countUp_keeps | with_reducible apply updLink_keeps | with_reducible apply sendCtl_keeps
    | with_reducible refine ite_keeps (fun _ => ?_) (fun _ => ?_)

theorem recvFlit_keeps {p : Kept} {s : State} {a0 a1 a2 a3} (hF : ∀ x b s, Keeps p s → Keeps p (a3 x b s)) (h : Keeps p s) : Keeps p (recvFlit a0 a1 a2 a3 s) := by
  unfold recvFlit
  repeat' first
    | with_reducible assumption | with_reducible apply hF | with_reducible apply fecCorrected_keeps | with_reducible apply flitFails_keeps
    | with_reducible apply flitTaken_keeps | with_reducible refine ite_keeps (fun _ => ?_) (fun _ => ?_) | split

theorem creditBody_keeps {p : Kept} {s : State} {a0 a1} (h : Keeps p s) : Keeps p (creditBody a0 a1 s) := by
  unfold creditBody
  repeat' first | with_reducible assumption | with_reducible apply pumpTx_keeps | with_reducible apply updLink_keeps

theorem execLinkCredit_keeps {p : Kept} {s : State} {a0 a1} (h : Keeps p s) {t} (e : execLinkCredit a0 a1 s = .next t) : Keeps p t := by
  unfold execLinkCredit at e
  repeat' (injection e with e; subst e)
  repeat' first | with_reducible assumption | with_reducible apply recvFlit_keeps | with_reducible apply creditBody_keeps | intro _

theorem rxConsume_keeps {p : Kept} {s : State} {a0 a1 a2} (h : Keeps p s) : Keeps p (rxConsume a0 a1 a2 s) := by
  unfold rxConsume
  repeat' first | with_reducible assumption | with_reducible apply returnCredits_keeps | with_reducible apply setLink_keeps

theorem answerUnmapped_keeps {p : Kept} {s : State} {a0 a1} (h : Keeps p s) : Keeps p (answerUnmapped a0 a1 s) := by
  unfold answerUnmapped
  repeat' first | with_reducible assumption | with_reducible apply clLast_keeps | with_reducible apply countUp_keeps | with_reducible apply sendResp_keeps

theorem transitWay_keeps {p : Kept} {s : State} {a0 a1 a2} (h : Keeps p s) : Keeps p (transitWay a0 a1 a2 s).2 := by
  unfold transitWay
  repeat' first | with_reducible assumption | with_reducible apply countUp_keeps | with_reducible apply sendResp_keeps | with_reducible apply answerUnmapped_keeps | split | dsimp only

theorem transitMsg_keeps {p : Kept} {s : State} {a0 a1 a2 a3} (h : Keeps p s) : Keeps p (transitMsg a0 a1 a2 a3 s) := by
  unfold transitMsg
  repeat' first
    | with_reducible assumption | with_reducible apply transitWay_keeps | with_reducible apply egress_keeps | with_reducible apply rxConsume_keeps
    | fail_if_no_progress with_reducible apply keeps_upd | with_reducible refine snd_keeps (by assumption) ?_ | split

theorem rxAuto_keeps {p : Kept} {s : State} {a0 a1 a2} (h : Keeps p s) {t} (e : rxAuto a0 a1 a2 s = some t) : Keeps p t := by
  unfold rxAuto at e
  repeat' first | cases e | split at e
  repeat' first | with_reducible assumption | with_reducible apply rxConsume_keeps | with_reducible apply countUp_keeps | with_reducible apply transitMsg_keeps

theorem rxSettle_keeps {p : Kept} {s : State} {a0 a1 a2} (h : Keeps p s) : Keeps p (rxSettle a0 a1 a2 s) := by
  induction a2 generalizing s  with
  | zero =>
    unfold rxSettle
    repeat' with_reducible assumption
  | succ _ ih =>
    unfold rxSettle
    repeat' first | with_reducible apply ih | with_reducible assumption | with_reducible refine rxAuto_keeps ?_ (by assumption) | split

theorem takeMsg_keeps {p : Kept} {s : State} {a0 a1 a2 a3} (hF : ∀ x s, Keeps p s → Keeps p (a3 x s)) (h : Keeps p s) : Keeps p (takeMsg a0 a1 a2 a3 s) := by
  unfold takeMsg
  repeat' first
    | with_reducible assumption | with_reducible apply hF | with_reducible apply rxConsume_keeps | with_reducible apply rxSettle_keeps
    | with_reducible refine ite_keeps (fun _ => ?_) (fun _ => ?_) | split

theorem refuseIn_keeps {p : Kept} {s : State} {a0 a1 a2} (h : Keeps p s) : Keeps p (refuseIn a0 a1 a2 s) := by
  unfold refuseIn
  repeat' first | with_reducible assumption | with_reducible apply answerUnmapped_keeps | with_reducible apply sendResp_keeps | with_reducible refine ite_keeps (fun _ => ?_) (fun _ => ?_)

theorem inboundReq_keeps {p : Kept} {s : State} {a0 a1 a2} (hF : ∀ x y s, Keeps p s → Keeps p (a1 x y s)) (h : Keeps p s) : Keeps p (inboundReq a0 a1 a2 s) := by
  unfold inboundReq
  repeat' first | with_reducible assumption | with_reducible apply hF | with_reducible apply refuseIn_keeps | split

theorem sendFlush_keeps {p : Kept} {s : State} {a0 a1 a2 a3} (h : Keeps p s) : Keeps p (sendFlush a0 a1 a2 a3 s) := by
  unfold sendFlush
  repeat' first | with_reducible assumption | with_reducible apply injectEngine_keeps | with_reducible apply updIn_keeps

theorem serveWr_keeps {p : Kept} {s : State} {a0 a1 a2} (h : Keeps p s) : Keeps p (serveWr a0 a1 a2 s) := by
  unfold serveWr
  repeat' first
    | with_reducible assumption | with_reducible apply injectEngine_keeps | with_reducible apply finishIn_keeps | with_reducible apply sendFlush_keeps
    | with_reducible refine foldl_keeps (fun _ _ _ => ?_) ?_ | fail_if_no_progress with_reducible apply keeps_upd

theorem execPclWr_keeps {p : Kept} {s : State} {a0 a1} (h : Keeps p s) {t} (e : execPclWr a0 a1 s = .next t) : Keeps p t := by
  unfold execPclWr at e
  repeat' (injection e with e; subst e)
  repeat' first | with_reducible assumption | with_reducible apply takeMsg_keeps | with_reducible apply inboundReq_keeps | with_reducible apply serveWr_keeps | intro _

theorem lateResp_keeps {p : Kept} {s : State} (h : Keeps p s) : Keeps p (lateResp s) := by
  unfold lateResp
  repeat' first | with_reducible assumption | with_reducible apply countUp_keeps

theorem response_keeps {p : Kept} {s : State} {a0 a1} (hF : ∀ x s, Keeps p s → Keeps p (a1 x s)) (h : Keeps p s) : Keeps p (response a0 a1 s) := by
  unfold response
  repeat' first
    | with_reducible assumption | with_reducible apply hF | with_reducible apply endReq_keeps | with_reducible apply lateResp_keeps
    | with_reducible refine takeReq_keeps ?_ (by assumption) | with_reducible apply reqEnded_keeps
    | with_reducible refine ite_keeps (fun _ => ?_) (fun _ => ?_) | split

theorem execPclWrAck_keeps {p : Kept} {s : State} {a0 a1} (h : Keeps p s) {t} (e : execPclWrAck a0 a1 s = .next t) : Keeps p t := by
  unfold execPclWrAck at e
  repeat' (injection e with e; subst e)
  repeat' first | with_reducible assumption | with_reducible apply takeMsg_keeps | with_reducible apply response_keeps | with_reducible apply landed_keeps | intro _

theorem serveRd_keeps {p : Kept} {s : State} {a0 a1 a2} (h : Keeps p s) : Keeps p (serveRd a0 a1 a2 s) := by
  unfold serveRd
  repeat' first
    | with_reducible assumption | with_reducible apply finishIn_keeps | with_reducible apply injectEngine_keeps
    | with_reducible refine foldl_keeps (fun _ _ _ => ?_) ?_ | fail_if_no_progress with_reducible apply keeps_upd

theorem execPclRd_keeps {p : Kept} {s : State} {a0 a1} (h : Keeps p s) {t} (e : execPclRd a0 a1 s = .next t) : Keeps p t := by
  unfold execPclRd at e
  repeat' (injection e with e; subst e)
  repeat' first | with_reducible assumption | with_reducible apply takeMsg_keeps | with_reducible apply inboundReq_keeps | with_reducible apply serveRd_keeps | intro _

theorem trainTimeout_keeps {p : Kept} {s : State} {a0} (h : Keeps p s) : Keeps p (trainTimeout a0 s) := by
  unfold trainTimeout
  repeat' first | with_reducible assumption | with_reducible apply linkFails_keeps | with_reducible refine ite_keeps (fun _ => ?_) (fun _ => ?_)

theorem execLinkTrainTimeout_keeps {p : Kept} {s : State} {a0} (h : Keeps p s) {t} (e : execLinkTrainTimeout a0 s = .next t) : Keeps p t := by
  unfold execLinkTrainTimeout at e
  repeat' (injection e with e; subst e)
  repeat' first | with_reducible assumption | with_reducible apply trainTimeout_keeps

theorem sendHello_keeps {p : Kept} {s : State} {a0} (h : Keeps p s) : Keeps p (sendHello a0 s) := by
  unfold sendHello
  repeat' first | with_reducible assumption | with_reducible apply sendCtl_keeps | with_reducible apply emit_keeps | with_reducible refine ite_keeps (fun _ => ?_) (fun _ => ?_)

theorem enterAttest_keeps {p : Kept} {s : State} {a0} (h : Keeps p s) : Keeps p (enterAttest a0 s) := by
  unfold enterAttest
  repeat' first | with_reducible assumption | with_reducible apply freshWord_keeps | with_reducible apply emit_keeps | with_reducible apply updLink_keeps

theorem linkIsUp_keeps {p : Kept} {s : State} {a0 a1 a2} (h : Keeps p s) : Keeps p (linkIsUp a0 a1 a2 s) := by
  unfold linkIsUp
  repeat' first | with_reducible assumption | with_reducible apply updLink_keeps

theorem svcRequest_keeps {p : Kept} {s : State} {a0 a1} (h : Keeps p s) : Keeps p (svcRequest a0 a1 s) := by
  unfold svcRequest
  repeat' first | with_reducible assumption | with_reducible apply answerQuery_keeps | with_reducible apply answerFetch_keeps | split

theorem execSvcReq_keeps {p : Kept} {s : State} {a0 a1} (h : Keeps p s) {t} (e : execSvcReq a0 a1 s = .next t) : Keeps p t := by
  unfold execSvcReq at e
  repeat' (injection e with e; subst e)
  repeat' first | with_reducible assumption | with_reducible apply takeMsg_keeps | with_reducible apply svcRequest_keeps | intro _

theorem tryTrain_keeps {p : Kept} {s : State} {a0} (h : Keeps p s) : Keeps p (tryTrain a0 s) := by
  unfold tryTrain
  repeat' first | with_reducible assumption | with_reducible apply setLink_keeps | with_reducible refine ite_keeps (fun _ => ?_) (fun _ => ?_)

theorem retryTimer_keeps {p : Kept} {s : State} {a0} (h : Keeps p s) : Keeps p (retryTimer a0 s) := by
  unfold retryTimer
  repeat' first | with_reducible assumption | with_reducible apply tryTrain_keeps | with_reducible apply updLink_keeps

theorem execLinkRetryTimer_keeps {p : Kept} {s : State} {a0} (h : Keeps p s) {t} (e : execLinkRetryTimer a0 s = .next t) : Keeps p t := by
  unfold execLinkRetryTimer at e
  repeat' (injection e with e; subst e)
  repeat' first | with_reducible assumption | with_reducible apply retryTimer_keeps

theorem retrain_keeps {p : Kept} {s : State} {a0} (h : Keeps p s) : Keeps p (retrain a0 s) := by
  unfold retrain
  repeat' first | with_reducible assumption | with_reducible apply tryTrain_keeps | with_reducible apply linkGone_keeps

theorem execRetrain_keeps {p : Kept} {s : State} {a0 a1} (h : Keeps p s) {t} (e : execRetrain a0 a1 s = .next t) : Keeps p t := by
  unfold execRetrain at e
  repeat' (injection e with e; subst e)
  repeat' first | with_reducible assumption | with_reducible apply onPage_keeps | with_reducible apply retrain_keeps | intro _

theorem dataBody_keeps {p : Kept} {s : State} {a0 a1 a2} (h : Keeps p s) : Keeps p (dataBody a0 a1 a2 s) := by
  unfold dataBody
  repeat' first | with_reducible assumption | with_reducible apply updLink_keeps | with_reducible apply rxSettle_keeps | with_reducible apply returnCredits_keeps

theorem execLinkDataFlit_keeps {p : Kept} {s : State} {a0 a1} (h : Keeps p s) {t} (e : execLinkDataFlit a0 a1 s = .next t) : Keeps p t := by
  unfold execLinkDataFlit at e
  repeat' (injection e with e; subst e)
  repeat' first | with_reducible assumption | with_reducible apply recvFlit_keeps | with_reducible apply dataBody_keeps | intro _

theorem deliverRead_keeps {p : Kept} {s : State} {a0 a1} (h : Keeps p s) : Keeps p (deliverRead a0 a1 s) := by
  unfold deliverRead
  repeat' first | with_reducible assumption | with_reducible apply injectEngine_keeps | with_reducible refine foldl_keeps (fun _ _ _ => ?_) ?_

theorem delaySend_keeps {p : Kept} {s : State} {a0 a1} (h : Keeps p s) : Keeps p (delaySend a0 a1 s) := by
  unfold delaySend
  repeat' first | with_reducible assumption | with_reducible apply sendCtl_keeps

theorem execDelayReqSend_keeps {p : Kept} {s : State} {a0 a1} (h : Keeps p s) {t} (e : execDelayReqSend a0 a1 s = .next t) : Keeps p t := by
  unfold execDelayReqSend at e
  repeat' (injection e with e; subst e)
  repeat' first | with_reducible assumption | with_reducible apply delaySend_keeps

theorem delayReq_keeps {p : Kept} {s : State} {a0 a1 a2 a3} (h : Keeps p s) : Keeps p (delayReq a0 a1 a2 a3 s) := by
  unfold delayReq
  repeat' first | with_reducible assumption | with_reducible apply sendCtl_keeps

theorem nakBody_keeps {p : Kept} {s : State} {a0 a1} (h : Keeps p s) : Keeps p (nakBody a0 a1 s) := by
  unfold nakBody
  repeat' first | with_reducible assumption | with_reducible apply emit_keeps | with_reducible refine foldl_keeps (fun _ _ _ => ?_) ?_

theorem execLinkNak_keeps {p : Kept} {s : State} {a0 a1} (h : Keeps p s) {t} (e : execLinkNak a0 a1 s = .next t) : Keeps p t := by
  unfold execLinkNak at e
  repeat' (injection e with e; subst e)
  repeat' first | with_reducible assumption | with_reducible apply recvFlit_keeps | with_reducible apply nakBody_keeps | intro _

theorem peerHello_keeps {p : Kept} {s : State} {a0 a1} (h : Keeps p s) : Keeps p (peerHello a0 a1 s) := by
  unfold peerHello
  repeat' first
    | with_reducible assumption | with_reducible apply updLink_keeps | with_reducible apply enterAttest_keeps | with_reducible apply linkFails_keeps
    | with_reducible refine ite_keeps (fun _ => ?_) (fun _ => ?_) | split

theorem execLinkHello_keeps {p : Kept} {s : State} {a0 a1} (h : Keeps p s) {t} (e : execLinkHello a0 a1 s = .next t) : Keeps p t := by
  unfold execLinkHello at e
  repeat' (injection e with e; subst e)
  repeat' first | with_reducible assumption | with_reducible apply recvFlit_keeps | with_reducible apply peerHello_keeps | intro _

theorem svcResponse_keeps {p : Kept} {s : State} {a0 a1} (h : Keeps p s) : Keeps p (svcResponse a0 a1 s) := by
  unfold svcResponse
  repeat' first | with_reducible assumption | with_reducible apply queryAnswered_keeps | with_reducible apply payloadArrives_keeps | split

theorem execSvcRsp_keeps {p : Kept} {s : State} {a0 a1} (h : Keeps p s) {t} (e : execSvcRsp a0 a1 s = .next t) : Keeps p t := by
  unfold execSvcRsp at e
  repeat' (injection e with e; subst e)
  repeat' first | with_reducible assumption | with_reducible apply takeMsg_keeps | with_reducible apply response_keeps | with_reducible apply svcResponse_keeps | intro _

theorem trainDone_keeps {p : Kept} {s : State} {a0} (h : Keeps p s) : Keeps p (trainDone a0 s) := by
  unfold trainDone
  repeat' first | with_reducible assumption | with_reducible apply sendHello_keeps | with_reducible apply setLink_keeps | with_reducible refine ite_keeps (fun _ => ?_) (fun _ => ?_)

theorem flushReply_keeps {p : Kept} {s : State} {a0} (h : Keeps p s) : Keeps p (flushReply a0 s) := by
  unfold flushReply
  repeat' first | with_reducible assumption | with_reducible apply flushAnswered_keeps | fail_if_no_progress with_reducible apply keeps_upd | split

theorem execFlushReadReply_keeps {p : Kept} {s : State} {a0} (h : Keeps p s) {t} (e : execFlushReadReply a0 s = .next t) : Keeps p t := by
  unfold execFlushReadReply at e
  repeat' (injection e with e; subst e)
  repeat' first | with_reducible assumption | with_reducible apply flushReply_keeps

theorem flitFail_keeps {p : Kept} {s : State} {a0 a1 a2 a3} (h : Keeps p s) : Keeps p (flitFail a0 a1 a2 a3 s) := by
  unfold flitFail
  repeat' first | with_reducible assumption | with_reducible apply fecCorrected_keeps | with_reducible apply flitFails_keeps | with_reducible refine ite_keeps (fun _ => ?_) (fun _ => ?_) | split

theorem rtCopy_keeps {p : Kept} {s : State} {a0} (h : Keeps p s) : Keeps p (rtCopy a0 s) := by
  unfold rtCopy
  repeat' first
    | with_reducible assumption | with_reducible apply recordErrAny_keeps | with_reducible refine foldl_keeps (fun _ _ _ => ?_) ?_
    | fail_if_no_progress with_reducible apply keeps_upd | with_reducible refine ite_keeps (fun _ => ?_) (fun _ => ?_)

theorem delayRsp_keeps {p : Kept} {s : State} {a0 a1 a2} (h : Keeps p s) : Keeps p (delayRsp a0 a1 a2 s) := by
  unfold delayRsp
  repeat' first | with_reducible assumption | fail_if_no_progress with_reducible apply keeps_beat

theorem fecLoss_keeps {p : Kept} {s : State} {a0} (h : Keeps p s) : Keeps p (fecLoss a0 s) := by
  unfold fecLoss
  repeat' first | with_reducible assumption | with_reducible apply linkFailure_keeps | with_reducible refine ite_keeps (fun _ => ?_) (fun _ => ?_)

theorem execLinkFecLoss_keeps {p : Kept} {s : State} {a0} (h : Keeps p s) {t} (e : execLinkFecLoss a0 s = .next t) : Keeps p t := by
  unfold execLinkFecLoss at e
  repeat' (injection e with e; subst e)
  repeat' first | with_reducible assumption | with_reducible apply fecLoss_keeps

theorem execPclRdData_keeps {p : Kept} {s : State} {a0 a1} (h : Keeps p s) {t} (e : execPclRdData a0 a1 s = .next t) : Keeps p t := by
  unfold execPclRdData at e
  repeat' (injection e with e; subst e)
  repeat' first | with_reducible assumption | with_reducible apply takeMsg_keeps | with_reducible apply response_keeps | with_reducible apply deliverRead_keeps | intro _

theorem execRtCopy_keeps {p : Kept} {s : State} {a0 a1} (h : Keeps p s) {t} (e : execRtCopy a0 a1 s = .next t) : Keeps p t := by
  unfold execRtCopy at e
  repeat' (injection e with e; subst e)
  repeat' first | with_reducible assumption | with_reducible apply onPage_keeps | with_reducible apply rtCopy_keeps | intro _

theorem execRemoteTimeout_keeps {p : Kept} {s : State} {a0} (h : Keeps p s) {t} (e : execRemoteTimeout a0 s = .next t) : Keeps p t := by
  unfold execRemoteTimeout at e
  repeat' (injection e with e; subst e)
  repeat' first | with_reducible assumption | with_reducible apply endReq_keeps

theorem execDelayRsp_keeps {p : Kept} {s : State} {a0 a1 a2} (h : Keeps p s) {t} (e : execDelayRsp a0 a1 a2 s = .next t) : Keeps p t := by
  unfold execDelayRsp at e
  repeat' (injection e with e; subst e)
  repeat' first | with_reducible assumption | with_reducible apply recvFlit_keeps | with_reducible apply delayRsp_keeps | intro _

theorem execLinkFlitFail_keeps {p : Kept} {s : State} {a0 a1 a2 a3} (h : Keeps p s) {t} (e : execLinkFlitFail a0 a1 a2 a3 s = .next t) : Keeps p t := by
  unfold execLinkFlitFail at e
  repeat' (injection e with e; subst e)
  repeat' first | with_reducible assumption | with_reducible apply flitFail_keeps

theorem execDelayReq_keeps {p : Kept} {s : State} {a0 a1 a2 a3} (h : Keeps p s) {t} (e : execDelayReq a0 a1 a2 a3 s = .next t) : Keeps p t := by
  unfold execDelayReq at e
  repeat' (injection e with e; subst e)
  repeat' first | with_reducible assumption | with_reducible apply recvFlit_keeps | with_reducible apply delayReq_keeps | intro _

theorem ackBody_keeps {p : Kept} {s : State} {a0 a1} (h : Keeps p s) : Keeps p (ackBody a0 a1 s) := by
  unfold ackBody
  repeat' first | with_reducible assumption | with_reducible apply pumpTx_keeps | with_reducible apply updLink_keeps

theorem execLinkAck_keeps {p : Kept} {s : State} {a0 a1} (h : Keeps p s) {t} (e : execLinkAck a0 a1 s = .next t) : Keeps p t := by
  unfold execLinkAck at e
  repeat' (injection e with e; subst e)
  repeat' first | with_reducible assumption | with_reducible apply recvFlit_keeps | with_reducible apply ackBody_keeps | intro _

theorem execLinkTrainDone_keeps {p : Kept} {s : State} {a0} (h : Keeps p s) {t} (e : execLinkTrainDone a0 s = .next t) : Keeps p t := by
  unfold execLinkTrainDone at e
  repeat' (injection e with e; subst e)
  repeat' first | with_reducible assumption | with_reducible apply trainDone_keeps

/-! ### Recovery -/

theorem pauseStream_keeps {p : Kept} {s : State} {a0} (h : Keeps p s) : Keeps p (pauseStream a0 s) := by
  unfold pauseStream
  repeat' first | with_reducible assumption | with_reducible apply updStream_keeps

theorem stopInstall_keeps {p : Kept} {s : State} {a0} (h : Keeps p s) : Keeps p (stopInstall a0 s) := by
  unfold stopInstall
  repeat' first | with_reducible assumption | with_reducible apply setInst_keeps | with_reducible apply updModel_keeps | with_reducible refine ite_keeps (fun _ => ?_) (fun _ => ?_) | split

theorem suspendModel_keeps {p : Kept} {s : State} {a0 a1} (h : Keeps p s) : Keeps p (suspendModel a0 a1 s) := by
  unfold suspendModel
  repeat' first
    | with_reducible assumption | with_reducible apply updModel_keeps | with_reducible apply abandonStep_keeps
    | with_reducible apply pauseStream_keeps | with_reducible apply updCore_keeps | with_reducible apply wakeWaiters_keeps
    | with_reducible apply stopInstall_keeps | with_reducible apply chAbort_keeps | with_reducible refine foldl_keeps (fun _ _ _ => ?_) ?_
    | with_reducible refine ite_keeps (fun _ => ?_) (fun _ => ?_) | split

theorem suspendAll_keeps {p : Kept} {s : State} {a0 a1 a2 a3} (h : Keeps p s) : Keeps p (suspendAll a0 a1 a2 a3 s).2 := by
  unfold suspendAll
  repeat' first
    | with_reducible assumption | with_reducible apply loadFails_keeps | with_reducible apply suspendModel_keeps
    | with_reducible apply flushMerge_keeps | with_reducible apply flushReduce_keeps | with_reducible apply raiseIrq_keeps
    | with_reducible refine foldl_keeps (fun _ _ _ => ?_) ?_ | with_reducible refine ite_keeps (fun _ => ?_) (fun _ => ?_)

theorem demoteNow_keeps {p : Kept} {s : State} {a0 a1 a2} (h : Keeps p s) : Keeps p (demoteNow a0 a1 a2 s) := by
  unfold demoteNow
  repeat' first
    | with_reducible assumption | with_reducible apply freeCoreAs_keeps | with_reducible apply recycleTally_keeps
    | with_reducible apply freeTally_keeps | with_reducible apply updModel_keeps | with_reducible apply renumber_keeps
    | with_reducible apply setLive_keeps | with_reducible apply ownPlacement_keeps | with_reducible refine foldl_keeps (fun _ _ _ => ?_) ?_
    | fail_if_no_progress with_reducible apply keeps_upd | with_reducible refine ite_keeps (fun _ => ?_) (fun _ => ?_) | split

theorem reloadAt_keeps {p : Kept} {s : State} {a0 a1 a2} (h : Keeps p s) : Keeps p (reloadAt a0 a1 a2 s) := by
  unfold reloadAt
  repeat' first
    | with_reducible assumption | with_reducible apply startReload_keeps | with_reducible refine foldl_keeps (fun _ _ _ => ?_) ?_
    | with_reducible refine ite_keeps (fun _ => ?_) (fun _ => ?_) | split

theorem loseModel_keeps {p : Kept} {s : State} {a0 a1} (h : Keeps p s) : Keeps p (loseModel a0 a1 s) := by
  unfold loseModel
  repeat' first | with_reducible assumption | with_reducible apply logPut_keeps | with_reducible apply unloadModel_keeps | with_reducible refine ite_keeps (fun _ => ?_) (fun _ => ?_)

theorem updRecov_keeps {p : Kept} {s : State} {a0} (h : Keeps p s) : Keeps p (updRecov a0 s) := by
  unfold updRecov
  repeat' first | with_reducible assumption | fail_if_no_progress with_reducible apply keeps_upd

theorem setPlan_keeps {p : Kept} {s : State} {a0} (h : Keeps p s) : Keeps p (setPlan a0 s) := by
  unfold setPlan
  repeat' first | with_reducible assumption | with_reducible apply updRecov_keeps

theorem logAbort_keeps {p : Kept} {s : State} {a0} (h : Keeps p s) : Keeps p (logAbort a0 s) := by
  unfold logAbort
  repeat' first | with_reducible assumption | with_reducible apply logPut_keeps | with_reducible apply countUp_keeps

theorem abortPlan_keeps {p : Kept} {s : State} {a0 a1} (h : Keeps p s) : Keeps p (abortPlan a0 a1 s) := by
  unfold abortPlan
  repeat' first
    | with_reducible assumption | with_reducible apply logAbort_keeps | with_reducible apply setPlan_keeps | with_reducible apply mcRelease_keeps
    | with_reducible apply endPlain_keeps | with_reducible refine ite_keeps (fun _ => ?_) (fun _ => ?_) | split

theorem logResolve_keeps {p : Kept} {s : State} {a0 a1 a2} (h : Keeps p s) : Keeps p (logResolve a0 a1 a2 s) := by
  unfold logResolve
  repeat' first | with_reducible assumption | with_reducible apply updRecov_keeps

theorem logMerged_keeps {p : Kept} {s : State} {a0} (h : Keeps p s) : Keeps p (logMerged a0 s) := by
  unfold logMerged
  repeat' first | with_reducible assumption | with_reducible apply logResolve_keeps | with_reducible refine foldl_keeps (fun _ _ _ => ?_) ?_

theorem enqueueFault_keeps {p : Kept} {s : State} {a0} (h : Keeps p s) : Keeps p (enqueueFault a0 s) := by
  unfold enqueueFault
  repeat' first
    | with_reducible assumption | with_reducible apply setPlan_keeps | with_reducible apply abortPlan_keeps | with_reducible apply logMerged_keeps
    | with_reducible apply updRecov_keeps | with_reducible apply fatal_keeps | with_reducible refine ite_keeps (fun _ => ?_) (fun _ => ?_) | split

theorem faultStrikes_keeps {p : Kept} {s : State} {a0 a1 a2 a3 a4 a5} (h : Keeps p s) : Keeps p (faultStrikes a0 a1 a2 a3 a4 a5 s) := by
  unfold faultStrikes
  repeat' first | with_reducible assumption | with_reducible apply suspendAll_keeps | with_reducible apply enqueueFault_keeps

theorem stackFault_keeps {p : Kept} {s : State} {a0 a1 a2} (h : Keeps p s) : Keeps p (stackFault a0 a1 a2 s) := by
  unfold stackFault
  repeat' first
    | with_reducible assumption | with_reducible apply reloadAt_keeps | with_reducible apply loseModel_keeps | with_reducible apply faultStrikes_keeps
    | with_reducible apply updRecov_keeps | with_reducible refine foldl_keeps (fun _ _ _ => ?_) ?_
    | with_reducible refine ite_keeps (fun _ => ?_) (fun _ => ?_)

theorem copyReads_keeps {p : Kept} {s : State} {a0 a1 a2} (h : Keeps p s) : Keeps p (copyReads a0 a1 a2 s) := by
  unfold copyReads
  repeat' first | with_reducible assumption | with_reducible apply injectFcu_keeps | with_reducible refine foldl_keeps (fun _ _ _ => ?_) ?_

theorem needPrefill_keeps {p : Kept} {s : State} {a0} (h : Keeps p s) : Keeps p (needPrefill a0 s) := by
  unfold needPrefill
  repeat' first | with_reducible assumption | with_reducible apply notice_keeps | with_reducible apply updStream_keeps

theorem resumeModel_keeps {p : Kept} {s : State} {a0 a1} (h : Keeps p s) : Keeps p (resumeModel a0 a1 s) := by
  unfold resumeModel
  repeat' first
    | with_reducible assumption | with_reducible apply updModel_keeps | with_reducible apply needPrefill_keeps | with_reducible apply updStream_keeps
    | with_reducible apply beginUnit_keeps | with_reducible refine foldl_keeps (fun _ _ _ => ?_) ?_
    | with_reducible refine ite_keeps (fun _ => ?_) (fun _ => ?_) | split | dsimp only

theorem dropPrefixes_keeps {p : Kept} {s : State} {a0} (h : Keeps p s) : Keeps p (dropPrefixes a0 s) := by
  unfold dropPrefixes
  repeat' first | with_reducible assumption | with_reducible apply pxDetachAll_keeps

theorem planResume_keeps {p : Kept} {s : State} {a0} (h : Keeps p s) : Keeps p (planResume a0 s) := by
  unfold planResume
  repeat' first
    | with_reducible assumption | with_reducible apply resumeModel_keeps | with_reducible apply dropPrefixes_keeps
    | with_reducible apply logResolve_keeps | with_reducible apply raiseIrq_keeps | with_reducible apply updRecov_keeps
    | with_reducible refine foldl_keeps (fun _ _ _ => ?_) ?_ | with_reducible refine ite_keeps (fun _ => ?_) (fun _ => ?_) | split

theorem reloadSlots_keeps {p : Kept} {s : State} {a0 a1} (h : Keeps p s) : Keeps p (reloadSlots a0 a1 s) := by
  unfold reloadSlots
  repeat' first
    | with_reducible assumption | with_reducible apply startReload_keeps | with_reducible refine foldl_keeps (fun _ _ _ => ?_) ?_
    | with_reducible refine ite_keeps (fun _ => ?_) (fun _ => ?_) | split

theorem retireAll_keeps {p : Kept} {s : State} {a0} (h : Keeps p s) : Keeps p (retireAll a0 s) := by
  unfold retireAll
  repeat' first | with_reducible assumption | with_reducible refine foldl_keeps (fun _ _ _ => ?_) ?_ | fail_if_no_progress with_reducible apply keeps_upd

theorem planCommitted_keeps {p : Kept} {s : State} {a0} (h : Keeps p s) : Keeps p (planCommitted a0 s) := by
  unfold planCommitted
  repeat' first
    | with_reducible assumption | with_reducible apply retireAll_keeps | with_reducible apply demoteNow_keeps | with_reducible apply renumber_keeps
    | with_reducible apply updModel_keeps | with_reducible apply updField_keeps | with_reducible apply setPlan_keeps
    | with_reducible refine foldl_keeps (fun _ _ _ => ?_) ?_ | fail_if_no_progress with_reducible apply keeps_upd
    | with_reducible refine ite_keeps (fun _ => ?_) (fun _ => ?_) | split

theorem restartThreads_keeps {p : Kept} {s : State} {a0} (h : Keeps p s) : Keeps p (restartThreads a0 s) := by
  unfold restartThreads
  repeat' first | with_reducible assumption | with_reducible apply renumber_keeps | with_reducible apply startPlacement_keeps | with_reducible refine ite_keeps (fun _ => ?_) (fun _ => ?_) | split

theorem reloadSlot_keeps {p : Kept} {s : State} {a0} (h : Keeps p s) : Keeps p (reloadSlot a0 s) := by
  unfold reloadSlot
  repeat' first
    | with_reducible assumption | with_reducible apply startReload_keeps | with_reducible refine foldl_keeps (fun _ _ _ => ?_) ?_
    | with_reducible refine ite_keeps (fun _ => ?_) (fun _ => ?_) | split

theorem logLasting_keeps {p : Kept} {s : State} {a0} (h : Keeps p s) : Keeps p (logLasting a0 s).2 := by
  unfold logLasting
  repeat' first | with_reducible assumption | with_reducible apply logPut_keeps | with_reducible apply countUp_keeps

theorem coreFault_keeps {p : Kept} {s : State} {a0 a1} (h : Keeps p s) : Keeps p (coreFault a0 a1 s) := by
  unfold coreFault
  repeat' first | with_reducible assumption | with_reducible apply updRecov_keeps | with_reducible apply faultStrikes_keeps | with_reducible refine ite_keeps (fun _ => ?_) (fun _ => ?_)

theorem fieldStrikes_keeps {p : Kept} {s : State} {a0 a1 a2} (h : Keeps p s) : Keeps p (fieldStrikes a0 a1 a2 s) := by
  unfold fieldStrikes
  repeat' first
    | with_reducible assumption | with_reducible apply loadFails_keeps | with_reducible apply loseModel_keeps
    | with_reducible apply faultStrikes_keeps | with_reducible refine foldl_keeps (fun _ _ _ => ?_) ?_
    | with_reducible refine ite_keeps (fun _ => ?_) (fun _ => ?_)

theorem routerFault_keeps {p : Kept} {s : State} {a0 a1} (h : Keeps p s) : Keeps p (routerFault a0 a1 s) := by
  unfold routerFault
  repeat' first
    | with_reducible assumption | with_reducible apply faultStrikes_keeps | with_reducible apply fieldStrikes_keeps
    | with_reducible apply imposeDark_keeps | with_reducible refine ite_keeps (fun _ => ?_) (fun _ => ?_)

theorem placementFault_keeps {p : Kept} {s : State} {a0 a1} (h : Keeps p s) : Keeps p (placementFault a0 a1 s) := by
  unfold placementFault
  repeat' first
    | with_reducible assumption | with_reducible apply faultStrikes_keeps | with_reducible apply unloadModel_keeps
    | with_reducible apply loseModel_keeps | with_reducible apply updRecov_keeps | with_reducible refine ite_keeps (fun _ => ?_) (fun _ => ?_)

theorem faultSuspend_keeps {p : Kept} {s : State} {a0 a1} (h : Keeps p s) : Keeps p (faultSuspend a0 a1 s) := by
  unfold faultSuspend
  repeat' first
    | with_reducible assumption | with_reducible apply updRecov_keeps | with_reducible apply reloadSlot_keeps
    | with_reducible apply logTransient_keeps | with_reducible apply logLasting_keeps | with_reducible apply coreFault_keeps
    | with_reducible apply routerFault_keeps | with_reducible apply fieldStrikes_keeps | with_reducible apply stackFault_keeps
    | with_reducible apply placementFault_keeps | with_reducible refine ite_keeps (fun _ => ?_) (fun _ => ?_) | split

theorem endCopies_keeps {p : Kept} {s : State} {a0} (h : Keeps p s) : Keeps p (endCopies a0 s) := by
  unfold endCopies
  repeat' first
    | with_reducible assumption | with_reducible apply clearMem_keeps | with_reducible apply freeCore_keeps | with_reducible apply updModel_keeps
    | with_reducible apply reloadSlots_keeps | with_reducible apply setPlan_keeps | with_reducible refine foldl_keeps (fun _ _ _ => ?_) ?_
    | with_reducible refine ite_keeps (fun _ => ?_) (fun _ => ?_) | split

theorem resendContent_keeps {p : Kept} {s : State} {a0} (h : Keeps p s) : Keeps p (resendContent a0 s) := by
  unfold resendContent
  repeat' first | with_reducible assumption | with_reducible apply writeContent_keeps | with_reducible refine ite_keeps (fun _ => ?_) (fun _ => ?_) | split

theorem execFaultSuspend_keeps {p : Kept} {s : State} {a0 a1} (h : Keeps p s) {t} (e : execFaultSuspend a0 a1 s = .next t) : Keeps p t := by
  unfold execFaultSuspend at e
  repeat' (injection e with e; subst e)
  repeat' first | with_reducible assumption | with_reducible apply faultSuspend_keeps

theorem shadowWay_keeps {p : Kept} {s : State} {a0} (h : Keeps p s) : Keeps p (shadowWay a0 s) := by
  unfold shadowWay
  repeat' first | with_reducible assumption | with_reducible apply setShadow_keeps

theorem execPlanResume_keeps {p : Kept} {s : State} {a0} (h : Keeps p s) {t} (e : execPlanResume a0 s = .next t) : Keeps p t := by
  unfold execPlanResume at e
  repeat' (injection e with e; subst e)
  repeat' first | with_reducible assumption | with_reducible apply planResume_keeps

theorem withPlace_keeps {p : Kept} {s : State} {a0 a1} (h : Keeps p s) : Keeps p (withPlace a0 a1 s) := by
  unfold withPlace
  repeat' first | with_reducible assumption | with_reducible apply updModel_keeps

theorem planModel_keeps {p : Kept} {a : State × RecPlan} {m} (h : Keeps p a.1) : Keeps p (planModel a m).1 := by
  unfold planModel
  repeat' first | with_reducible assumption | with_reducible apply withPlace_keeps | fail_if_no_progress with_reducible refine keeps_upd ?_ | split | dsimp only

theorem shadowMoves_keeps {p : Kept} {s : State} {a0 a1} (h : Keeps p s) : Keeps p (shadowMoves a0 a1 s) := by
  unfold shadowMoves
  repeat' first
    | with_reducible assumption | with_reducible apply shadowSlot_keeps | with_reducible refine foldl_keeps (fun _ _ _ => ?_) ?_
    | with_reducible refine ite_keeps (fun _ => ?_) (fun _ => ?_) | split

theorem shadowTarget_keeps {p : Kept} {s : State} {a0 a1} (h : Keeps p s) : Keeps p (shadowTarget a0 a1 s) := by
  unfold shadowTarget
  repeat' first | with_reducible assumption | with_reducible apply setShadow_keeps

theorem shadowQuotas_keeps {p : Kept} {s s2 : State} {a1} (h : Keeps p s) (h2 : Keeps p s2) : Keeps p (shadowQuotas s a1 s2) := by
  unfold shadowQuotas
  repeat' first
    | with_reducible assumption | with_reducible apply setShadow_keeps | with_reducible refine foldl_keeps (fun _ _ _ => ?_) ?_
    | with_reducible refine ite_keeps (fun _ => ?_) (fun _ => ?_)

theorem shadowLeaves_keeps {p : Kept} {s : State} {a0} (h : Keeps p s) : Keeps p (shadowLeaves a0 s) := by
  unfold shadowLeaves
  repeat' first | with_reducible assumption | with_reducible apply setShadow_keeps | with_reducible refine foldl_keeps (fun _ _ _ => ?_) ?_ | split

theorem planShadows_keeps {p : Kept} {s s2 : State} {a1 a2} (h : Keeps p s) (h2 : Keeps p s2) : Keeps p (planShadows s a1 a2 s2) := by
  unfold planShadows
  repeat' first
    | with_reducible assumption | with_reducible apply shadowMoves_keeps | with_reducible apply shadowTarget_keeps
    | with_reducible apply shadowQuotas_keeps | with_reducible apply shadowLeaves_keeps | with_reducible apply loadShadows_keeps
    | with_reducible apply shadowWay_keeps | with_reducible refine foldl_keeps (fun _ _ _ => ?_) ?_
    | with_reducible refine ite_keeps (fun _ => ?_) (fun _ => ?_) | split

theorem planArm_keeps {p : Kept} {s : State} {a0 a1 a2} (h : Keeps p s) : Keeps p (planArm a0 a1 a2 s) := by
  unfold planArm
  repeat' first
    | with_reducible assumption | with_reducible apply planModel_keeps | with_reducible apply retireAll_keeps | with_reducible apply claimPage_keeps
    | with_reducible apply floorPut_keeps | with_reducible apply planShadows_keeps | with_reducible apply enrol_keeps
    | with_reducible apply setGrp_keeps | with_reducible apply setPlan_keeps | with_reducible refine foldl_keeps (fun _ _ _ => ?_) ?_
    | with_reducible refine foldl_keeps1 (fun _ _ _ => ?_) ?_ | fail_if_no_progress with_reducible apply keeps_upd
    | with_reducible refine ite_keeps (fun _ => ?_) (fun _ => ?_) | split | dsimp only

theorem classify_keeps {p : Kept} {s : State} {a0 a1} (h : Keeps p s) : Keeps p (classify a0 a1 s) := by
  unfold classify
  repeat' first
    | with_reducible assumption | with_reducible apply updCore_keeps | with_reducible apply loadFails_keeps | with_reducible apply suspendAll_keeps
    | with_reducible apply updRecov_keeps | with_reducible apply report_keeps | with_reducible refine ite_keeps (fun _ => ?_) (fun _ => ?_) | split

theorem execPlanArm_keeps {p : Kept} {s : State} {a0 a1 a2} (h : Keeps p s) {t} (e : execPlanArm a0 a1 a2 s = .next t) : Keeps p t := by
  unfold execPlanArm at e
  repeat' (injection e with e; subst e)
  repeat' first | with_reducible assumption | with_reducible apply planArm_keeps

theorem floorRetry_keeps {p : Kept} {s : State} {a0} (h : Keeps p s) : Keeps p (floorRetry a0 s) := by
  unfold floorRetry
  repeat' first | with_reducible assumption | with_reducible apply floorPut_keeps | with_reducible refine ite_keeps (fun _ => ?_) (fun _ => ?_)

theorem chRestart_keeps {p : Kept} {s : State} {a0} (h : Keeps p s) : Keeps p (chRestart a0 s) := by
  unfold chRestart
  repeat' first
    | with_reducible assumption | with_reducible apply stackRead_keeps | with_reducible apply chStart_keeps | with_reducible apply setLive_keeps
    | with_reducible refine snd_keeps (by assumption) ?_ | with_reducible refine ite_keeps (fun _ => ?_) (fun _ => ?_) | split

theorem demoteStreams_keeps {p : Kept} {s : State} {a0 a1} (h : Keeps p s) : Keeps p (demoteStreams a0 a1 s) := by
  unfold demoteStreams
  repeat' first | with_reducible assumption | with_reducible apply logPut_keeps | with_reducible apply pxDetachAll_keeps

theorem awaitTick_keeps {p : Kept} {s : State} (h : Keeps p s) : Keeps p (awaitTick s) := by
  unfold awaitTick
  repeat' first
    | with_reducible assumption | with_reducible apply updRecov_keeps | with_reducible apply resendContent_keeps
    | with_reducible apply restartThreads_keeps | with_reducible apply raiseIrq_keeps | with_reducible apply resumeModel_keeps
    | with_reducible apply chRestart_keeps | with_reducible refine foldl_keeps (fun _ _ _ => ?_) ?_
    | with_reducible refine ite_keeps (fun _ => ?_) (fun _ => ?_) | split

theorem planFails_keeps {p : Kept} {s : State} {a0} (h : Keeps p s) : Keeps p (planFails a0 s) := by
  unfold planFails
  repeat' first | with_reducible assumption | with_reducible apply setPlan_keeps | with_reducible apply mcRelease_keeps | with_reducible apply logAbort_keeps

theorem beginCopies_keeps {p : Kept} {s : State} {a0} (h : Keeps p s) : Keeps p (beginCopies a0 s) := by
  unfold beginCopies
  repeat' first
    | with_reducible assumption | with_reducible apply copyReads_keeps | with_reducible apply setPlan_keeps
    | with_reducible refine foldl_keeps (fun _ _ _ => ?_) ?_ | with_reducible refine ite_keeps (fun _ => ?_) (fun _ => ?_)

theorem planApply_keeps {p : Kept} {s : State} {a0} (h : Keeps p s) : Keeps p (planApply a0 s) := by
  unfold planApply
  repeat' first
    | with_reducible assumption | with_reducible apply planFails_keeps | with_reducible apply setPlan_keeps | with_reducible apply mcRelease_keeps
    | with_reducible apply demoteStreams_keeps | with_reducible apply loseModel_keeps | with_reducible apply beginCopies_keeps
    | with_reducible apply endCopies_keeps | with_reducible apply resendContent_keeps | with_reducible apply restartThreads_keeps
    | with_reducible apply chRestart_keeps | with_reducible refine foldl_keeps (fun _ _ _ => ?_) ?_
    | with_reducible refine ite_keeps (fun _ => ?_) (fun _ => ?_) | split

theorem returnTick_keeps {p : Kept} {s : State} (h : Keeps p s) : Keeps p (returnTick s) := by
  unfold returnTick
  repeat' first | with_reducible assumption | with_reducible apply enqueueFault_keeps | with_reducible refine ite_keeps (fun _ => ?_) (fun _ => ?_)

theorem planBeatLost_keeps {p : Kept} {s : State} (h : Keeps p s) : Keeps p (planBeatLost s) := by
  unfold planBeatLost
  repeat' first
    | with_reducible assumption | with_reducible apply setPlan_keeps | with_reducible apply mcRelease_keeps | with_reducible apply logAbort_keeps
    | with_reducible refine ite_keeps (fun _ => ?_) (fun _ => ?_) | split

theorem execThreadFaultClassify_keeps {p : Kept} {s : State} {a0 a1} (h : Keeps p s) {t} (e : execThreadFaultClassify a0 a1 s = .next t) : Keeps p t := by
  unfold execThreadFaultClassify at e
  repeat' (injection e with e; subst e)
  repeat' first | with_reducible assumption | with_reducible apply classify_keeps

theorem execFloorMapRetry_keeps {p : Kept} {s : State} {a0} (h : Keeps p s) {t} (e : execFloorMapRetry a0 s = .next t) : Keeps p t := by
  unfold execFloorMapRetry at e
  repeat' (injection e with e; subst e)
  repeat' first | with_reducible assumption | with_reducible apply floorRetry_keeps

theorem execPlanApply_keeps {p : Kept} {s : State} {a0} (h : Keeps p s) {t} (e : execPlanApply a0 s = .next t) : Keeps p t := by
  unfold execPlanApply at e
  repeat' (injection e with e; subst e)
  repeat' first | with_reducible assumption | with_reducible apply planApply_keeps

/-! ### Poll -/

theorem itemDone_keeps {p : Kept} {s : State} {a0} (h : Keeps p s) : Keeps p (itemDone a0 s) := by
  unfold itemDone
  repeat' first | with_reducible assumption | with_reducible apply updStream_keeps | with_reducible refine ite_keeps (fun _ => ?_) (fun _ => ?_)

theorem settleSel_keeps {p : Kept} {s : State} {a0} (h : Keeps p s) : Keeps p (settleSel a0 s).2 := by
  unfold settleSel
  repeat' first | with_reducible assumption | with_reducible apply itemDone_keeps | with_reducible apply updStream_keeps | split

theorem settleItem_keeps {p : Kept} {s : State} {a0} (h : Keeps p s) : Keeps p (settleItem a0 s).2 := by
  unfold settleItem
  repeat' first | with_reducible assumption | with_reducible apply settleSel_keeps | with_reducible apply updStream_keeps | with_reducible apply result_keeps | split

theorem settleList_keeps {p : Kept} {s : State} {a0} (h : Keeps p s) : Keeps p (settleList a0 s).2 := by
  induction a0 generalizing s  with
  | nil =>
    unfold settleList
    repeat' with_reducible assumption
  | cons _ _ ih =>
    unfold settleList
    repeat' first | with_reducible apply ih | with_reducible assumption | with_reducible apply settleItem_keeps | with_reducible refine snd_keeps (by assumption) ?_ | split

theorem settleWork_keeps {p : Kept} {s : State} {a0} (h : Keeps p s) : Keeps p (settleWork a0 s) := by
  unfold settleWork
  repeat' first | with_reducible assumption | with_reducible apply settleList_keeps | with_reducible apply updServing_keeps

theorem reserve_keeps {p : Kept} {s : State} {a0 a1 a2 a3} (h : Keeps p s) {t} (e : reserve a0 a1 a2 a3 s = some t) : Keeps p t := by
  unfold reserve at e
  repeat' first | cases e | split at e
  repeat' first | with_reducible assumption | with_reducible apply addReserved_keeps | with_reducible apply updStream_keeps

theorem lookupReserve_keeps {p : Kept} {s : State} {a0 a1} (h : Keeps p s) {t} (e : lookupReserve a0 a1 s = some t) : Keeps p t := by
  unfold lookupReserve at e
  repeat' first | cases e | split at e | dsimp only at e
  repeat' first
    | with_reducible assumption | with_reducible apply countUp_keeps | with_reducible apply adopt_keeps | with_reducible apply updStream_keeps
    | with_reducible refine reserve_keeps ?_ (by assumption) | with_reducible refine ite_keeps (fun _ => ?_) (fun _ => ?_)

theorem admitTokens_keeps {p : Kept} {s : State} {a0 a1 a2 a3} (h : Keeps p s) {t} (e : admitTokens a0 a1 a2 a3 s = some t) : Keeps p t := by
  unfold admitTokens at e
  repeat' first | split at e | dsimp only at e
  repeat' first
    | with_reducible assumption | with_reducible apply setStream_keeps | with_reducible apply setSession_keeps | with_reducible apply adapterRef_keeps
    | with_reducible refine lookupReserve_keeps ?_ (by assumption)

theorem specSel_keeps {p : Kept} {s : State} {a0} (h : Keeps p s) : Keeps p (specSel a0 s) := by
  unfold specSel
  repeat' first | with_reducible assumption | with_reducible apply setLive_keeps

theorem requestDone_keeps {p : Kept} {s : State} {a0 a1 a2 a3 a4} (h : Keeps p s) : Keeps p (requestDone a0 a1 a2 a3 a4 s) := by
  unfold requestDone
  repeat' first | with_reducible assumption | with_reducible apply updStream_keeps | with_reducible apply result_keeps | with_reducible apply settleWork_keeps

theorem openPrompt_keeps {p : Kept} {s : State} {a0 a1 a2 a3} (h : Keeps p s) : Keeps p (openPrompt a0 a1 a2 a3 s).2 := by
  unfold openPrompt
  repeat' first | with_reducible assumption | with_reducible apply readHost_keeps | with_reducible apply countUp_keeps | with_reducible refine snd_keeps (by assumption) ?_ | split | dsimp only

theorem admitReq_keeps {p : Kept} {s : State} {a0 a1} (h : Keeps p s) : Keeps p (admitReq a0 a1 s) := by
  unfold admitReq
  repeat' first
    | with_reducible assumption | with_reducible apply requestDone_keeps | with_reducible apply openPrompt_keeps
    | with_reducible refine admitTokens_keeps ?_ (by assumption) | with_reducible refine snd_keeps (by assumption) ?_ | split | dsimp only

theorem flushModel_keeps {p : Kept} {s : State} (h : Keeps p s) : Keeps p (flushModel s) := by
  unfold flushModel
  repeat' first | with_reducible assumption | with_reducible apply pxDetachAll_keeps

theorem selectPlain_keeps {p : Kept} {s : State} {a0 a1} (h : Keeps p s) : Keeps p (selectPlain a0 a1 s) := by
  unfold selectPlain
  repeat' first | with_reducible assumption | with_reducible apply updStream_keeps

theorem discardSel_keeps {p : Kept} {s : State} {a0 a1} (h : Keeps p s) : Keeps p (discardSel a0 a1 s) := by
  unfold discardSel
  repeat' first | with_reducible assumption | with_reducible apply countUp_keeps | with_reducible apply notice_keeps | with_reducible refine ite_keeps (fun _ => ?_) (fun _ => ?_)

theorem selectRound_keeps {p : Kept} {s : State} {a0 a1 a2} (h : Keeps p s) : Keeps p (selectRound a0 a1 a2 s) := by
  unfold selectRound
  repeat' first | with_reducible assumption | with_reducible apply setBalance_keeps | with_reducible apply countUp_keeps | with_reducible apply updStream_keeps

theorem selectNow_keeps {p : Kept} {s : State} {a0 a1 a2 a3} (h : Keeps p s) : Keeps p (selectNow a0 a1 a2 a3 s) := by
  unfold selectNow
  repeat' first
    | with_reducible assumption | with_reducible apply endWith_keeps | with_reducible apply selectRound_keeps | with_reducible apply selectPlain_keeps
    | with_reducible apply updStream_keeps | with_reducible refine ite_keeps (fun _ => ?_) (fun _ => ?_)

theorem handleSel_keeps {p : Kept} {s : State} {a0 a1} (h : Keeps p s) : Keeps p (handleSel a0 a1 s) := by
  unfold handleSel
  repeat' first
    | with_reducible assumption | with_reducible apply updStream_keeps | with_reducible apply discardSel_keeps | with_reducible apply selectNow_keeps
    | with_reducible refine ite_keeps (fun _ => ?_) (fun _ => ?_) | split

theorem selection_keeps {p : Kept} {s : State} (h : Keeps p s) : Keeps p (selection s) := by
  unfold selection
  repeat' first | with_reducible assumption | with_reducible apply settleWork_keeps | with_reducible apply handleSel_keeps | split

theorem rebindReq_keeps {p : Kept} {s : State} (h : Keeps p s) : Keeps p (rebindReq s) := by
  unfold rebindReq
  repeat' first | with_reducible assumption | with_reducible apply requestDone_keeps | with_reducible apply updStream_keeps | split | dsimp only

theorem execRebind_keeps {p : Kept} {s : State} (h : Keeps p s) {t} (e : execRebind s = .next t) : Keeps p t := by
  unfold execRebind at e
  repeat' (injection e with e; subst e)
  repeat' first | with_reducible assumption | with_reducible apply rebindReq_keeps

theorem endRequest_keeps {p : Kept} {s : State} (h : Keeps p s) : Keeps p (endRequest s) := by
  unfold endRequest
  repeat' first
    | with_reducible assumption | with_reducible apply requestDone_keeps | with_reducible apply updStream_keeps | with_reducible apply result_keeps
    | with_reducible apply settleWork_keeps | with_reducible apply endStream_keeps | split

theorem execReqEnd_keeps {p : Kept} {s : State} (h : Keeps p s) {t} (e : execReqEnd s = .next t) : Keeps p t := by
  unfold execReqEnd at e
  repeat' (injection e with e; subst e)
  repeat' first | with_reducible assumption | with_reducible apply endRequest_keeps

theorem prefillTokens_keeps {p : Kept} {s : State} {i r tokens blocks t} (h : Keeps p s)
    (e : prefillTokens i r tokens blocks s = some t) : Keeps p t := by
  unfold prefillTokens at e
  exact lookupReserve_keeps (updStream_keeps (ite_keeps (fun _ => releaseKv_keeps (releaseKv_keeps h)) (fun _ => releaseKv_keeps h))) e

theorem countTorn_keeps {p : Kept} {s : State} {a0} (h : Keeps p s) : Keeps p (countTorn a0 s) := by
  unfold countTorn
  repeat' first | with_reducible assumption | with_reducible apply countUp_keeps | with_reducible refine ite_keeps (fun _ => ?_) (fun _ => ?_)

theorem readLines_keeps {p : Kept} {s : State} {a0 a1 a2} (h : Keeps p s) : Keeps p (readLines a0 a1 a2 s).2 := by
  unfold readLines
  repeat' first | with_reducible assumption | with_reducible apply readHost_keeps | with_reducible apply countTorn_keeps | with_reducible refine snd_keeps (by assumption) ?_ | split | dsimp only

theorem readChanged_keeps {p : Kept} {s : State} {a0 a1 a2 a3} (h : Keeps p s) : Keeps p (readChanged a0 a1 a2 a3 s).2 := by
  induction a2 generalizing s a1 a3 with
  | nil =>
    unfold readChanged
    repeat' with_reducible assumption
  | cons _ _ ih =>
    unfold readChanged
    repeat' first | with_reducible apply ih | cases ‹_ :: _ = _ :: _› | with_reducible assumption | with_reducible apply readLines_keeps | with_reducible refine snd_keeps (by assumption) ?_ | split

theorem hostPoll_keeps {p : Kept} {s : State} {a0} (h : Keeps p s) : Keeps p (hostPoll a0 s) := by
  unfold hostPoll
  repeat' first
    | with_reducible assumption | with_reducible apply updServing_keeps | with_reducible apply readHost_keeps | with_reducible apply readChanged_keeps
    | with_reducible apply settleWork_keeps | with_reducible refine snd_keeps (by assumption) ?_
    | with_reducible refine ite_keeps (fun _ => ?_) (fun _ => ?_) | split | dsimp only

theorem execHostPoll_keeps {p : Kept} {s : State} {a0} (h : Keeps p s) {t} (e : execHostPoll a0 s = .next t) : Keeps p t := by
  unfold execHostPoll at e
  repeat' (injection e with e; subst e)
  repeat' first | with_reducible assumption | with_reducible apply hostPoll_keeps

theorem execFlushModel_keeps {p : Kept} {s : State} {a0} (h : Keeps p s) {t} (e : execFlushModel a0 s = .next t) : Keeps p t := by
  unfold execFlushModel at e
  repeat' (injection e with e; subst e)
  repeat' first | with_reducible assumption | with_reducible apply onPage_keeps | with_reducible apply flushModel_keeps

theorem stSel_keeps {p : Kept} {s : State} {a0} (h : Keeps p s) : Keeps p (stSel a0 s) := by
  unfold stSel
  repeat' first | with_reducible assumption | with_reducible apply updServing_keeps | with_reducible apply setLive_keeps

theorem execStSel_keeps {p : Kept} {s : State} {a0 a1} (h : Keeps p s) {t} (e : execStSel a0 a1 s = .next t) : Keeps p t := by
  unfold execStSel at e
  repeat' (injection e with e; subst e)
  repeat' first | with_reducible assumption | with_reducible apply onPage_keeps | with_reducible apply stSel_keeps | intro _

theorem execSelection_keeps {p : Kept} {s : State} (h : Keeps p s) {t} (e : execSelection s = .next t) : Keeps p t := by
  unfold execSelection at e
  repeat' (injection e with e; subst e)
  repeat' first | with_reducible assumption | with_reducible apply selection_keeps

theorem cmdResult_keeps {p : Kept} {s : State} {a0 a1 a2} (h : Keeps p s) : Keeps p (cmdResult a0 a1 a2 s) := by
  unfold cmdResult
  repeat' first
    | with_reducible assumption | with_reducible apply result_keeps | with_reducible apply setLastCode_keeps | with_reducible apply updServing_keeps
    | with_reducible refine ite_keeps (fun _ => ?_) (fun _ => ?_)

theorem stCmdEnd_keeps {p : Kept} {s : State} (h : Keeps p s) : Keeps p (stCmdEnd s) := by
  unfold stCmdEnd
  repeat' first | with_reducible assumption | with_reducible apply cmdResult_keeps | with_reducible apply endStream_keeps | with_reducible refine ite_keeps (fun _ => ?_) (fun _ => ?_)

theorem execStCmdEnd_keeps {p : Kept} {s : State} {a0} (h : Keeps p s) {t} (e : execStCmdEnd a0 s = .next t) : Keeps p t := by
  unfold execStCmdEnd at e
  repeat' (injection e with e; subst e)
  repeat' first | with_reducible assumption | with_reducible apply onPage_keeps | with_reducible apply stCmdEnd_keeps

theorem prefillReq_keeps {p : Kept} {s : State} {a0 a1} (h : Keeps p s) : Keeps p (prefillReq a0 a1 s) := by
  unfold prefillReq
  repeat' first
    | with_reducible assumption | with_reducible apply requestDone_keeps | with_reducible apply openPrompt_keeps
    | with_reducible refine prefillTokens_keeps ?_ (by assumption) | with_reducible refine snd_keeps (by assumption) ?_ | split | dsimp only

theorem execPrefill_keeps {p : Kept} {s : State} {a0 a1} (h : Keeps p s) {t} (e : execPrefill a0 a1 s = .next t) : Keeps p t := by
  unfold execPrefill at e
  repeat' (injection e with e; subst e)
  repeat' first | with_reducible assumption | with_reducible apply prefillReq_keeps

theorem pxSel_keeps {p : Kept} {s : State} {a0} (h : Keeps p s) : Keeps p (pxSel a0 s) := by
  unfold pxSel
  repeat' first | with_reducible assumption | with_reducible apply updServing_keeps | with_reducible apply setLive_keeps

theorem execPxSel_keeps {p : Kept} {s : State} {a0 a1} (h : Keeps p s) {t} (e : execPxSel a0 a1 s = .next t) : Keeps p t := by
  unfold execPxSel at e
  repeat' (injection e with e; subst e)
  repeat' first | with_reducible assumption | with_reducible apply onPage_keeps | with_reducible apply pxSel_keeps | intro _

theorem execSpecSel_keeps {p : Kept} {s : State} {a0 a1} (h : Keeps p s) {t} (e : execSpecSel a0 a1 s = .next t) : Keeps p t := by
  unfold execSpecSel at e
  repeat' (injection e with e; subst e)
  repeat' first | with_reducible assumption | with_reducible apply onPage_keeps | with_reducible apply specSel_keeps | intro _

theorem execAdmit_keeps {p : Kept} {s : State} {a0 a1} (h : Keeps p s) {t} (e : execAdmit a0 a1 s = .next t) : Keeps p t := by
  unfold execAdmit at e
  repeat' (injection e with e; subst e)
  repeat' first | with_reducible assumption | with_reducible apply admitReq_keeps

/-! ### Output -/

theorem recWritten_keeps {p : Kept} {s : State} (h : Keeps p s) : Keeps p (recWritten s) := by
  unfold recWritten
  repeat' first | with_reducible assumption | with_reducible apply setLive_keeps | with_reducible apply updServing_keeps | split

theorem copyAnswers_keeps {p : Kept} {s : State} {a0 a1 a2 a3} (h : Keeps p s) : Keeps p (copyAnswers a0 a1 a2 a3 s) := by
  unfold copyAnswers
  repeat' first | with_reducible assumption | with_reducible apply updStream_keeps

theorem lateEnter_keeps {p : Kept} {s : State} {a0} (h : Keeps p s) : Keeps p (lateEnter a0 s) := by
  induction a0 generalizing s  with
  | nil =>
    unfold lateEnter
    repeat' with_reducible assumption
  | cons _ _ ih =>
    unfold lateEnter
    repeat' first
      | with_reducible apply ih | with_reducible assumption | with_reducible apply updServing_keeps | with_reducible apply queueEntry_keeps
      | with_reducible refine ite_keeps (fun _ => ?_) (fun _ => ?_)

theorem sendPieces_keeps {p : Kept} {s : State} {a0} (h : Keeps p s) : Keeps p (sendPieces a0 s).2.2 := by
  induction a0 generalizing s  with
  | nil =>
    unfold sendPieces
    repeat' with_reducible assumption
  | cons _ _ ih =>
    unfold sendPieces
    repeat' first | with_reducible apply ih | with_reducible assumption | with_reducible apply exchWrite_keeps | with_reducible apply hostSend_keeps | with_reducible apply hostFail_keeps | split

theorem endedEntry_keeps {p : Kept} {s : State} {a0} (h : Keeps p s) : Keeps p (endedEntry a0 s) := by
  unfold endedEntry
  repeat' first | with_reducible assumption | with_reducible apply queueEntry_keeps

theorem dropLater_keeps {p : Kept} {s : State} {a0} (h : Keeps p s) : Keeps p (dropLater a0 s) := by
  unfold dropLater
  repeat' first | with_reducible assumption | with_reducible apply updServing_keeps

theorem entriesLost_keeps {p : Kept} {s : State} {a0 a1} (h : Keeps p s) : Keeps p (entriesLost a0 a1 s) := by
  unfold entriesLost
  repeat' first
    | with_reducible assumption | with_reducible apply endedEntry_keeps | with_reducible apply dropLater_keeps | with_reducible apply stepLeaves_keeps
    | with_reducible apply reissue_keeps | with_reducible refine ite_keeps (fun _ => ?_) (fun _ => ?_) | split | dsimp only

theorem dissolve_keeps {p : Kept} {s : State} {a0} (h : Keeps p s) : Keeps p (dissolve a0 s) := by
  unfold dissolve
  repeat' first | with_reducible assumption | with_reducible apply entriesLost_keeps | with_reducible apply updServing_keeps | with_reducible refine foldl_keeps (fun _ _ _ => ?_) ?_

theorem dissolveFirst_keeps {p : Kept} {s : State} (h : Keeps p s) : Keeps p (dissolveFirst s) := by
  unfold dissolveFirst
  repeat' first | with_reducible assumption | with_reducible apply dissolve_keeps | with_reducible apply updServing_keeps | split

theorem updRec_keeps {p : Kept} {s : State} {a0} (h : Keeps p s) : Keeps p (updRec a0 s) := by
  unfold updRec
  repeat' first | with_reducible assumption | with_reducible apply updServing_keeps

theorem sendHeader_keeps {p : Kept} {s : State} (h : Keeps p s) : Keeps p (sendHeader s).2 := by
  unfold sendHeader
  repeat' first
    | with_reducible assumption | with_reducible apply updRec_keeps | with_reducible apply hostFail_keeps | with_reducible apply recWritten_keeps
    | with_reducible apply exchWrite_keeps | with_reducible apply hostSend_keeps | split | dsimp only

theorem startRecs_keeps {p : Kept} {s : State} {a0} (h : Keeps p s) : Keeps p (startRecs a0 s) := by
  induction a0 generalizing s  with
  | zero =>
    unfold startRecs
    repeat' with_reducible assumption
  | succ _ ih =>
    unfold startRecs
    repeat' first
      | with_reducible apply ih | with_reducible assumption | with_reducible apply sendPieces_keeps | with_reducible apply dissolveFirst_keeps
      | with_reducible apply sendHeader_keeps | with_reducible apply updRec_keeps | with_reducible refine snd_keeps (by assumption) ?_
      | with_reducible refine ite_keeps (fun _ => ?_) (fun _ => ?_) | split

theorem writeOn_keeps {p : Kept} {s : State} (h : Keeps p s) : Keeps p (writeOn s) := by
  unfold writeOn
  repeat' first | with_reducible assumption | with_reducible apply startRecs_keeps

theorem closeRecord_keeps {p : Kept} {s : State} {a0 a1} (h : Keeps p s) : Keeps p (closeRecord a0 a1 s) := by
  unfold closeRecord
  repeat' first
    | with_reducible assumption | with_reducible apply lateEnter_keeps | with_reducible apply updServing_keeps | with_reducible apply countUp_keeps
    | with_reducible apply writeOn_keeps | with_reducible refine ite_keeps (fun _ => ?_) (fun _ => ?_)

theorem closingRecord_keeps {p : Kept} {s : State} (h : Keeps p s) : Keeps p (closingRecord s) := by
  unfold closingRecord
  repeat' first | with_reducible assumption | with_reducible apply closeRecord_keeps | with_reducible refine ite_keeps (fun _ => ?_) (fun _ => ?_)

theorem sealEntry_keeps {p : Kept} {s : State} {a0 a1} (h : Keeps p s) : Keeps p (sealEntry a0 a1 s).2 := by
  unfold sealEntry
  repeat' first | with_reducible assumption | with_reducible apply setSession_keeps | split

theorem publishKv_keeps {p : Kept} {s : State} {a0 a1 a2} (h : Keeps p s) : Keeps p (publishKv a0 a1 a2 s) := by
  unfold publishKv
  repeat' first | with_reducible assumption | with_reducible apply publish_keeps | split | dsimp only

theorem stepComplete_keeps {p : Kept} {s : State} {a0} (h : Keeps p s) : Keeps p (stepComplete a0 s) := by
  unfold stepComplete
  repeat' first
    | with_reducible assumption | with_reducible apply closingRecord_keeps | with_reducible apply abandonStep_keeps
    | with_reducible apply countUp_keeps | with_reducible apply sealEntry_keeps | with_reducible apply queueEntry_keeps
    | with_reducible apply stepLeaves_keeps | with_reducible apply setLastCode_keeps | with_reducible apply updStream_keeps
    | with_reducible apply publishKv_keeps | with_reducible apply freeStream_keeps | with_reducible refine ite_keeps (fun _ => ?_) (fun _ => ?_)
    | split | dsimp only

theorem execStepComplete_keeps {p : Kept} {s : State} {a0} (h : Keeps p s) {t} (e : execStepComplete a0 s = .next t) : Keeps p t := by
  unfold execStepComplete at e
  repeat' (injection e with e; subst e)
  repeat' first | with_reducible assumption | with_reducible apply stepComplete_keeps

theorem hubAsks_keeps {p : Kept} {s : State} {a0 a1} (h : Keeps p s) : Keeps p (hubAsks a0 a1 s) := by
  unfold hubAsks
  repeat' first | with_reducible assumption | with_reducible apply injectEngine_keeps | with_reducible apply updModel_keeps | with_reducible refine foldl_keeps (fun _ _ _ => ?_) ?_

theorem startCollect_keeps {p : Kept} {s : State} {a0 a1 a2} (h : Keeps p s) : Keeps p (startCollect a0 a1 a2 s) := by
  unfold startCollect
  repeat' first | with_reducible assumption | with_reducible apply hubAsks_keeps | with_reducible apply updModel_keeps

theorem outputTaken_keeps {p : Kept} {s : State} {a0 a1} (h : Keeps p s) : Keeps p (outputTaken a0 a1 s) := by
  unfold outputTaken
  repeat' first | with_reducible assumption | with_reducible apply sendAdd_keeps | with_reducible apply updModel_keeps

theorem outputSkipped_keeps {p : Kept} {s : State} {a0 a1} (h : Keeps p s) : Keeps p (outputSkipped a0 a1 s) := by
  unfold outputSkipped
  repeat' first | with_reducible assumption | with_reducible apply outputTaken_keeps | with_reducible apply countUp_keeps

theorem mainAnswers_keeps {p : Kept} {s : State} {a0 a1 a2 a3 a4} (h : Keeps p s) : Keeps p (mainAnswers a0 a1 a2 a3 a4 s) := by
  unfold mainAnswers
  repeat' first | with_reducible assumption | with_reducible apply updStream_keeps

theorem draftAnswers_keeps {p : Kept} {s : State} {a0 a1 a2 a3 a4} (h : Keeps p s) : Keeps p (draftAnswers a0 a1 a2 a3 a4 s) := by
  unfold draftAnswers
  repeat' first | with_reducible assumption | with_reducible apply updStream_keeps | with_reducible apply countUp_keeps | split | dsimp only

theorem outputOf_keeps {p : Kept} {s : State} {a0 a1 a2 a3} (h : Keeps p s) {t} (e : outputOf a0 a1 a2 a3 s = some t) : Keeps p t := by
  unfold outputOf at e
  repeat' first | cases e | split at e
  repeat' first
    | with_reducible assumption | with_reducible apply mainAnswers_keeps | with_reducible apply draftAnswers_keeps
    | with_reducible apply copyAnswers_keeps | with_reducible refine ite_keeps (fun _ => ?_) (fun _ => ?_)

theorem outputCollect_keeps {p : Kept} {s : State} {a0} (h : Keeps p s) : Keeps p (outputCollect a0 s) := by
  unfold outputCollect
  repeat' first
    | with_reducible assumption | with_reducible apply startCollect_keeps | with_reducible apply outputSkipped_keeps
    | with_reducible refine outputOf_keeps ?_ (by assumption) | with_reducible apply outputTaken_keeps
    | with_reducible refine ite_keeps (fun _ => ?_) (fun _ => ?_) | split | dsimp only

theorem execOutputCollect_keeps {p : Kept} {s : State} {a0} (h : Keeps p s) {t} (e : execOutputCollect a0 s = .next t) : Keeps p t := by
  unfold execOutputCollect at e
  repeat' (injection e with e; subst e)
  repeat' first | with_reducible assumption | with_reducible apply outputCollect_keeps

theorem gyleTick_keeps {p : Kept} {s : State} {a0} (h : Keeps p s) : Keeps p (gyleTick a0 s) := by
  unfold gyleTick
  repeat' first
    | with_reducible assumption | with_reducible apply sendHeader_keeps | with_reducible apply writeOn_keeps | with_reducible apply closeRecord_keeps
    | with_reducible refine snd_keeps (by assumption) ?_ | with_reducible refine ite_keeps (fun _ => ?_) (fun _ => ?_) | split

theorem entryWriteEnds_keeps {p : Kept} {s : State} {a0} (h : Keeps p s) : Keeps p (entryWriteEnds a0 s) := by
  unfold entryWriteEnds
  repeat' first
    | with_reducible assumption | with_reducible apply writeOn_keeps | with_reducible apply dissolveFirst_keeps
    | with_reducible apply sendHeader_keeps | with_reducible apply updRec_keeps | with_reducible refine snd_keeps (by assumption) ?_
    | with_reducible refine ite_keeps (fun _ => ?_) (fun _ => ?_) | split

theorem headerWriteEnds_keeps {p : Kept} {s : State} {a0} (h : Keeps p s) : Keeps p (headerWriteEnds a0 s) := by
  unfold headerWriteEnds
  repeat' first
    | with_reducible assumption | with_reducible apply writeOn_keeps | with_reducible apply recWritten_keeps | with_reducible apply updRec_keeps
    | with_reducible refine ite_keeps (fun _ => ?_) (fun _ => ?_)

theorem recordsStop_keeps {p : Kept} {s : State} (h : Keeps p s) : Keeps p (recordsStop s) := by
  unfold recordsStop
  repeat' first | with_reducible assumption | with_reducible apply dissolve_keeps | with_reducible apply updServing_keeps | with_reducible refine ite_keeps (fun _ => ?_) (fun _ => ?_)

end Sys2Proof.Machine
end

