-- ==== Sys2Proof/Laws/KeepsLink.lean ====
section
/-! SUPPORT. What every operation keeps, continued. -/

namespace Sys2Proof.Machine

open Sys2Proof

/-! ### Host -/

theorem ideEnds_keeps {p : Kept} {s : State} (h : Keeps p s) : Keeps p (ideEnds s) := by
  unfold ideEnds
  repeat' first | with_reducible assumption | fail_if_no_progress with_reducible apply keeps_upd

theorem ideCheckFail_keeps {p : Kept} {s : State} (h : Keeps p s) : Keeps p (ideCheckFail s) := by
  unfold ideCheckFail
  repeat' first
    | with_reducible assumption | with_reducible apply raiseIrq_keeps | with_reducible apply countUp_keeps | with_reducible apply recordErrAny_keeps
    | with_reducible apply ideEnds_keeps | with_reducible refine ite_keeps (fun _ => ?_) (fun _ => ?_)

theorem execIdeCheckFail_keeps {p : Kept} {s : State} (h : Keeps p s) {t} (e : execIdeCheckFail s = .next t) : Keeps p t := by
  unfold execIdeCheckFail at e
  repeat' (injection e with e; subst e)
  repeat' first | with_reducible assumption | with_reducible apply ideCheckFail_keeps

theorem hostLinkRecovery_keeps {p : Kept} {s : State} (h : Keeps p s) : Keeps p (hostLinkRecovery s) := by
  unfold hostLinkRecovery
  repeat' first | with_reducible assumption | with_reducible apply raiseIrq_keeps | with_reducible apply countUp_keeps | with_reducible refine ite_keeps (fun _ => ?_) (fun _ => ?_)

theorem jobEnds_keeps {p : Kept} {s : State} {a0} (h : Keeps p s) : Keeps p (jobEnds a0 s) := by
  unfold jobEnds
  repeat' first
    | with_reducible assumption | with_reducible apply entryWriteEnds_keeps | with_reducible apply headerWriteEnds_keeps
    | with_reducible apply notify_keeps | with_reducible apply landed_keeps | with_reducible apply readRefused_keeps
    | with_reducible apply injectEngine_keeps | with_reducible refine ite_keeps (fun _ => ?_) (fun _ => ?_) | split

theorem lineEnds_keeps {p : Kept} {s : State} {a0 a1 a2} (h : Keeps p s) : Keeps p (lineEnds a0 a1 a2 s) := by
  unfold lineEnds
  repeat' first | with_reducible assumption | with_reducible apply lineDone_keeps | with_reducible apply hostFail_keeps | with_reducible apply jobEnds_keeps | split | dsimp only

theorem hostReqFails_keeps {p : Kept} {s : State} {a0} (h : Keeps p s) : Keeps p (hostReqFails a0 s) := by
  unfold hostReqFails
  repeat' first | with_reducible assumption | with_reducible refine takeHostReq_keeps ?_ (by assumption) | with_reducible apply lineEnds_keeps | split

theorem execHostRequestError_keeps {p : Kept} {s : State} {a0} (h : Keeps p s) {t} (e : execHostRequestError a0 s = .next t) : Keeps p t := by
  unfold execHostRequestError at e
  repeat' (injection e with e; subst e)
  repeat' first | with_reducible assumption | with_reducible apply hostReqFails_keeps

theorem irqClear_keeps {p : Kept} {s : State} {a0} (h : Keeps p s) : Keeps p (irqClear a0 s) := by
  unfold irqClear
  repeat' first | with_reducible assumption | with_reducible apply setLive_keeps

theorem execIrqStatusClear_keeps {p : Kept} {s : State} {a0 a1} (h : Keeps p s) {t} (e : execIrqStatusClear a0 a1 s = .next t) : Keeps p t := by
  unfold execIrqStatusClear at e
  repeat' (injection e with e; subst e)
  repeat' first | with_reducible assumption | with_reducible apply onPage_keeps | with_reducible apply irqClear_keeps | intro _

theorem hostLinkUp_keeps {p : Kept} {s : State} {a0} (h : Keeps p s) : Keeps p (hostLinkUp a0 s) := by
  unfold hostLinkUp
  repeat' first | with_reducible assumption | with_reducible apply sendDue_keeps | with_reducible apply updHost_keeps | with_reducible refine ite_keeps (fun _ => ?_) (fun _ => ?_)

theorem execHostLinkUp_keeps {p : Kept} {s : State} {a0} (h : Keeps p s) {t} (e : execHostLinkUp a0 s = .next t) : Keeps p t := by
  unfold execHostLinkUp at e
  repeat' (injection e with e; subst e)
  repeat' first | with_reducible assumption | with_reducible apply hostLinkUp_keeps

theorem msixUnmask_keeps {p : Kept} {s : State} {a0} (h : Keeps p s) : Keeps p (msixUnmask a0 s) := by
  unfold msixUnmask
  repeat' first | with_reducible assumption | with_reducible apply sendDue_keeps | fail_if_no_progress with_reducible apply keeps_upd

theorem execMsixUnmask_keeps {p : Kept} {s : State} {a0} (h : Keeps p s) {t} (e : execMsixUnmask a0 s = .next t) : Keeps p t := by
  unfold execMsixUnmask at e
  repeat' (injection e with e; subst e)
  repeat' first | with_reducible assumption | with_reducible apply msixUnmask_keeps

theorem execHostRequestTimeout_keeps {p : Kept} {s : State} {a0} (h : Keeps p s) {t} (e : execHostRequestTimeout a0 s = .next t) : Keeps p t := by
  unfold execHostRequestTimeout at e
  repeat' (injection e with e; subst e)
  repeat' first | with_reducible assumption | with_reducible apply hostReqFails_keeps

theorem hostAnswers_keeps {p : Kept} {s : State} {a0 a1 a2} (h : Keeps p s) : Keeps p (hostAnswers a0 a1 a2 s) := by
  unfold hostAnswers
  repeat' first
    | with_reducible assumption | with_reducible refine takeHostReq_keeps ?_ (by assumption) | with_reducible apply lineEnds_keeps
    | with_reducible refine ite_keeps (fun _ => ?_) (fun _ => ?_) | split

theorem execHostReadData_keeps {p : Kept} {s : State} {a0 a1} (h : Keeps p s) {t} (e : execHostReadData a0 a1 s = .next t) : Keeps p t := by
  unfold execHostReadData at e
  repeat' (injection e with e; subst e)
  repeat' first | with_reducible assumption | with_reducible apply hostAnswers_keeps

theorem hostLinkTrain_keeps {p : Kept} {s : State} {a0 a1 a2 a3} (h : Keeps p s) : Keeps p (hostLinkTrain a0 a1 a2 a3 s) := by
  unfold hostLinkTrain
  repeat' first
    | with_reducible assumption | with_reducible apply recordErrAny_keeps | with_reducible apply emit_keeps | with_reducible apply sendDue_keeps
    | with_reducible apply countUp_keeps | with_reducible apply raiseIrq_keeps | fail_if_no_progress with_reducible apply keeps_upd
    | with_reducible refine ite_keeps (fun _ => ?_) (fun _ => ?_)

theorem execHostLinkTrain_keeps {p : Kept} {s : State} {a0 a1 a2 a3} (h : Keeps p s) {t} (e : execHostLinkTrain a0 a1 a2 a3 s = .next t) : Keeps p t := by
  unfold execHostLinkTrain at e
  repeat' (injection e with e; subst e)
  repeat' first | with_reducible assumption | with_reducible apply hostLinkTrain_keeps

theorem hdmAccess_keeps {p : Kept} {s : State} {a0 a1 a2 a3} (h : Keeps p s) : Keeps p (hdmAccess a0 a1 a2 a3 s) := by
  unfold hdmAccess
  repeat' first | with_reducible assumption | with_reducible apply emit_keeps | with_reducible apply exchWrite_keeps | with_reducible refine ite_keeps (fun _ => ?_) (fun _ => ?_) | split

theorem execH2dSnoop_keeps {p : Kept} {s : State} (h : Keeps p s) {t} (e : execH2dSnoop s = .next t) : Keeps p t := by
  unfold execH2dSnoop at e
  repeat' (injection e with e; subst e)
  repeat' first | with_reducible assumption | with_reducible apply emit_keeps

theorem execHostLinkRecovery_keeps {p : Kept} {s : State} (h : Keeps p s) {t} (e : execHostLinkRecovery s = .next t) : Keeps p t := by
  unfold execHostLinkRecovery at e
  repeat' (injection e with e; subst e)
  repeat' first | with_reducible assumption | with_reducible apply hostLinkRecovery_keeps

theorem execHdmAccess_keeps {p : Kept} {s : State} {a0 a1 a2 a3} (h : Keeps p s) {t} (e : execHdmAccess a0 a1 a2 a3 s = .next t) : Keeps p t := by
  unfold execHdmAccess at e
  repeat' (injection e with e; subst e)
  repeat' first | with_reducible assumption | with_reducible apply hdmAccess_keeps

theorem hostLinkDown_keeps {p : Kept} {s : State} {a0} (h : Keeps p s) : Keeps p (hostLinkDown a0 s) := by
  unfold hostLinkDown
  repeat' first
    | with_reducible assumption | with_reducible apply updHost_keeps | with_reducible apply ideEnds_keeps | with_reducible apply countUp_keeps
    | with_reducible apply recordErrAny_keeps | with_reducible apply recordsStop_keeps | with_reducible apply hostReqFails_keeps
    | with_reducible refine foldl_keeps (fun _ _ _ => ?_) ?_ | with_reducible refine ite_keeps (fun _ => ?_) (fun _ => ?_)

theorem execHostLinkDown_keeps {p : Kept} {s : State} {a0} (h : Keeps p s) {t} (e : execHostLinkDown a0 s = .next t) : Keeps p t := by
  unfold execHostLinkDown at e
  repeat' (injection e with e; subst e)
  repeat' first | with_reducible assumption | with_reducible apply hostLinkDown_keeps

theorem execHostWriteObserved_keeps {p : Kept} {s : State} {a0} (h : Keeps p s) {t} (e : execHostWriteObserved a0 s = .next t) : Keeps p t := by
  unfold execHostWriteObserved at e
  repeat' (injection e with e; subst e)
  repeat' first | with_reducible assumption | with_reducible apply hostAnswers_keeps

/-! ### Security -/

theorem updSec_keeps {p : Kept} {s : State} {a0} (h : Keeps p s) : Keeps p (updSec a0 s) := by
  unfold updSec
  repeat' first | with_reducible assumption | fail_if_no_progress with_reducible apply keeps_upd

theorem updMailbox_keeps {p : Kept} {s : State} {a0 a1} (h : Keeps p s) : Keeps p (updMailbox a0 a1 s) := by
  unfold updMailbox
  repeat' first | with_reducible assumption | with_reducible apply updSec_keeps

theorem doeAnswer_keeps {p : Kept} {s : State} {a0} (h : Keeps p s) : Keeps p (doeAnswer a0 s) := by
  unfold doeAnswer
  repeat' first
    | with_reducible assumption | with_reducible apply countUp_keeps | with_reducible apply emit_keeps | with_reducible apply updSec_keeps
    | with_reducible refine ite_keeps (fun _ => ?_) (fun _ => ?_)

theorem respond_keeps {p : Kept} {s : State} {a0 a1 a2 a3 a4} (h : Keeps p s) : Keeps p (respond a0 a1 a2 a3 a4 s) := by
  unfold respond
  repeat' first | with_reducible assumption | with_reducible apply updMailbox_keeps | with_reducible apply doeAnswer_keeps | split

theorem failMalformed_keeps {p : Kept} {s : State} {a0} (h : Keeps p s) : Keeps p (failMalformed a0 s) := by
  induction a0 generalizing s  with
  | zero =>
    unfold failMalformed
    repeat' with_reducible assumption
  | succ _ ih =>
    unfold failMalformed
    repeat' first
      | with_reducible apply ih | with_reducible assumption | with_reducible apply updSec_keeps | with_reducible apply respond_keeps
      | with_reducible refine ite_keeps (fun _ => ?_) (fun _ => ?_) | split

theorem settleCmds_keeps {p : Kept} {s : State} (h : Keeps p s) : Keeps p (settleCmds s) := by
  unfold settleCmds
  repeat' first | with_reducible assumption | with_reducible apply failMalformed_keeps

theorem submit_keeps {p : Kept} {s : State} {a0 a1} (h : Keeps p s) : Keeps p (submit a0 a1 s) := by
  unfold submit
  repeat' first | with_reducible assumption | with_reducible apply settleCmds_keeps | with_reducible apply updSec_keeps

theorem mbSubmit_keeps {p : Kept} {s : State} {a0} (h : Keeps p s) : Keeps p (mbSubmit a0 s) := by
  unfold mbSubmit
  repeat' first
    | with_reducible assumption | with_reducible apply recordErrAny_keeps | with_reducible apply submit_keeps | with_reducible apply updMailbox_keeps
    | with_reducible refine ite_keeps (fun _ => ?_) (fun _ => ?_)

theorem doeRefused_keeps {p : Kept} {s : State} (h : Keeps p s) : Keeps p (doeRefused s) := by
  unfold doeRefused
  repeat' first | with_reducible assumption | with_reducible apply emit_keeps | with_reducible apply countUp_keeps

theorem execMbSubmit_keeps {p : Kept} {s : State} {a0} (h : Keeps p s) {t} (e : execMbSubmit a0 s = .next t) : Keeps p t := by
  unfold execMbSubmit at e
  repeat' (injection e with e; subst e)
  repeat' first | with_reducible assumption | with_reducible apply viaBar_keeps | with_reducible apply mbSubmit_keeps | intro _

theorem takeLeaf_keeps {p : Kept} {s : State} {a0} (h : Keeps p s) : Keeps p (takeLeaf a0 s).2 := by
  unfold takeLeaf
  repeat' first
    | with_reducible assumption | with_reducible apply updSec_keeps | with_reducible apply freshWord_keeps | with_reducible apply recWrite_keeps
    | with_reducible apply countUp_keeps | with_reducible refine ite_keeps (fun _ => ?_) (fun _ => ?_) | split | dsimp only

theorem signReport_keeps {p : Kept} {s : State} {a0 a1 a2} (h : Keeps p s) : Keeps p (signReport a0 a1 a2 s).2 := by
  unfold signReport
  repeat' first | with_reducible assumption | with_reducible apply takeLeaf_keeps | with_reducible refine snd_keeps (by assumption) ?_ | split

theorem attestFails_keeps {p : Kept} {s : State} {a0} (h : Keeps p s) : Keeps p (attestFails a0 s) := by
  unfold attestFails
  repeat' first | with_reducible assumption | with_reducible apply linkFails_keeps | with_reducible apply countUp_keeps

theorem hsFinish_keeps {p : Kept} {s : State} {a0 a1} (h : Keeps p s) : Keeps p (hsFinish a0 a1 s) := by
  unfold hsFinish
  repeat' first | with_reducible assumption | with_reducible apply linkIsUp_keeps | with_reducible apply attestFails_keeps | with_reducible refine ite_keeps (fun _ => ?_) (fun _ => ?_)

theorem cmdReport_keeps {p : Kept} {s : State} {a0 a1} (h : Keeps p s) : Keeps p (cmdReport a0 a1 s).2 := by
  unfold cmdReport
  repeat' first | with_reducible assumption | with_reducible apply signReport_keeps | with_reducible refine snd_keeps (by assumption) ?_ | split | dsimp only

theorem mbData_keeps {p : Kept} {s : State} {a0 a1} (h : Keeps p s) : Keeps p (mbData a0 a1 s) := by
  unfold mbData
  repeat' first | with_reducible assumption | with_reducible apply updMailbox_keeps | fail_if_no_progress with_reducible apply keeps_upd | split

theorem updHs_keeps {p : Kept} {s : State} {a0 a1} (h : Keeps p s) : Keeps p (updHs a0 a1 s) := by
  unfold updHs
  repeat' first | with_reducible assumption | with_reducible apply updLink_keeps

theorem serve_keeps {p : Kept} {s : State} {a0 a1} (hF : ∀ l s, Keeps p s → Keeps p (a1 l s).2) (h : Keeps p s) : Keeps p (serve a0 a1 s) := by
  unfold serve
  repeat' first
    | with_reducible assumption | with_reducible apply hF | with_reducible apply updSec_keeps | with_reducible apply settleCmds_keeps
    | with_reducible apply respond_keeps | with_reducible refine ite_keeps (fun _ => ?_) (fun _ => ?_) | split

theorem cmdOpen_keeps {p : Kept} {s : State} {a0} (h : Keeps p s) : Keeps p (cmdOpen a0 s).2 := by
  unfold cmdOpen
  repeat' first | with_reducible assumption | with_reducible apply setSession_keeps | split | dsimp only

theorem execSessionOpen_keeps {p : Kept} {s : State} (h : Keeps p s) {t} (e : execSessionOpen s = .next t) : Keeps p t := by
  unfold execSessionOpen at e
  repeat' (injection e with e; subst e)
  repeat' first | with_reducible assumption | with_reducible apply serve_keeps | with_reducible apply cmdOpen_keeps | intro _

theorem sendHs_keeps {p : Kept} {s : State} {a0 a1 a2} (h : Keeps p s) : Keeps p (sendHs a0 a1 a2 s) := by
  unfold sendHs
  repeat' first | with_reducible assumption | with_reducible apply emit_keeps | with_reducible apply updHs_keeps

theorem sendReport_keeps {p : Kept} {s : State} {a0 a1} (h : Keeps p s) : Keeps p (sendReport a0 a1 s) := by
  unfold sendReport
  repeat' first
    | with_reducible assumption | with_reducible apply signReport_keeps | with_reducible apply sendHs_keeps | with_reducible apply updHs_keeps
    | with_reducible refine snd_keeps (by assumption) ?_ | split

theorem serveWaiting_keeps {p : Kept} {s : State} {a0 a1} (h : Keeps p s) : Keeps p (serveWaiting a0 a1 s) := by
  unfold serveWaiting
  repeat' first
    | with_reducible assumption | with_reducible apply sendReport_keeps | with_reducible apply sendHs_keeps | with_reducible apply updHs_keeps
    | with_reducible refine ite_keeps (fun _ => ?_) (fun _ => ?_)

theorem bucketRefill_keeps {p : Kept} {s : State} {a0} (h : Keeps p s) : Keeps p (bucketRefill a0 s) := by
  unfold bucketRefill
  repeat' first | with_reducible assumption | with_reducible apply serveWaiting_keeps | with_reducible apply updSec_keeps | with_reducible refine foldl_keeps (fun _ _ _ => ?_) ?_

theorem execSignBucketRefill_keeps {p : Kept} {s : State} {a0} (h : Keeps p s) {t} (e : execSignBucketRefill a0 s = .next t) : Keeps p t := by
  unfold execSignBucketRefill at e
  repeat' (injection e with e; subst e)
  repeat' first | with_reducible assumption | with_reducible apply bucketRefill_keeps

theorem mbReset_keeps {p : Kept} {s : State} {a0} (h : Keeps p s) : Keeps p (mbReset a0 s) := by
  unfold mbReset
  repeat' first | with_reducible assumption | with_reducible apply updMailbox_keeps | with_reducible apply settleCmds_keeps | with_reducible apply updSec_keeps

theorem execMbReset_keeps {p : Kept} {s : State} {a0} (h : Keeps p s) {t} (e : execMbReset a0 s = .next t) : Keeps p t := by
  unfold execMbReset at e
  repeat' (injection e with e; subst e)
  repeat' first | with_reducible assumption | with_reducible apply viaBar_keeps | with_reducible apply mbReset_keeps | intro _

theorem hsTimeout_keeps {p : Kept} {s : State} {a0} (h : Keeps p s) : Keeps p (hsTimeout a0 s) := by
  unfold hsTimeout
  repeat' first | with_reducible assumption | with_reducible apply attestFails_keeps | with_reducible refine ite_keeps (fun _ => ?_) (fun _ => ?_)

theorem execHsTimeout_keeps {p : Kept} {s : State} {a0} (h : Keeps p s) {t} (e : execHsTimeout a0 s = .next t) : Keeps p t := by
  unfold execHsTimeout at e
  repeat' (injection e with e; subst e)
  repeat' first | with_reducible assumption | with_reducible apply hsTimeout_keeps

theorem spdmRequest_keeps {p : Kept} {s : State} {a0} (h : Keeps p s) : Keeps p (spdmRequest a0 s) := by
  unfold spdmRequest
  repeat' first
    | with_reducible assumption | with_reducible apply doeAnswer_keeps | with_reducible apply doeRefused_keeps | with_reducible apply updSec_keeps
    | with_reducible apply submit_keeps | with_reducible refine ite_keeps (fun _ => ?_) (fun _ => ?_) | split

theorem doeRequest_keeps {p : Kept} {s : State} {a0} (h : Keeps p s) : Keeps p (doeRequest a0 s) := by
  unfold doeRequest
  repeat' first
    | with_reducible assumption | with_reducible apply emit_keeps | with_reducible apply countUp_keeps | with_reducible apply spdmRequest_keeps
    | with_reducible apply doeRefused_keeps | with_reducible refine ite_keeps (fun _ => ?_) (fun _ => ?_) | split

theorem execDoeRequest_keeps {p : Kept} {s : State} {a0} (h : Keeps p s) {t} (e : execDoeRequest a0 s = .next t) : Keeps p t := by
  unfold execDoeRequest at e
  repeat' (injection e with e; subst e)
  repeat' first | with_reducible assumption | with_reducible apply doeRequest_keeps

theorem execGetCerts_keeps {p : Kept} {s : State} (h : Keeps p s) {t} (e : execGetCerts s = .next t) : Keeps p t := by
  unfold execGetCerts at e
  repeat' (injection e with e; subst e)
  repeat' first | with_reducible assumption | with_reducible apply serve_keeps | fail_if_no_progress with_reducible apply keeps_upd | intro _

theorem cmdBind_keeps {p : Kept} {s : State} {a0} (h : Keeps p s) : Keeps p (cmdBind a0 s).2 := by
  unfold cmdBind
  repeat' first | with_reducible assumption | with_reducible apply updSec_keeps | with_reducible apply setStack_keeps | with_reducible refine foldl_keeps (fun _ _ _ => ?_) ?_ | split | dsimp only

theorem hsHello_keeps {p : Kept} {s : State} {a0 a1 a2} (h : Keeps p s) : Keeps p (hsHello a0 a1 a2 s) := by
  unfold hsHello
  repeat' first | with_reducible assumption | with_reducible apply sendReport_keeps | with_reducible apply updHs_keeps | with_reducible refine ite_keeps (fun _ => ?_) (fun _ => ?_)

theorem execGetKemKey_keeps {p : Kept} {s : State} (h : Keeps p s) {t} (e : execGetKemKey s = .next t) : Keeps p t := by
  unfold execGetKemKey at e
  repeat' (injection e with e; subst e)
  repeat' first | with_reducible assumption | with_reducible apply serve_keeps | fail_if_no_progress with_reducible apply keeps_upd | intro _

theorem doeAbort_keeps {p : Kept} {s : State} (h : Keeps p s) : Keeps p (doeAbort s) := by
  unfold doeAbort
  repeat' first | with_reducible assumption | with_reducible apply settleCmds_keeps | with_reducible apply countUp_keeps | with_reducible apply updSec_keeps

theorem cmdUnbind_keeps {p : Kept} {s : State} {a0} (h : Keeps p s) : Keeps p (cmdUnbind a0 s).2 := by
  unfold cmdUnbind
  repeat' first
    | with_reducible assumption | with_reducible apply setStack_keeps | with_reducible apply setSession_keeps | with_reducible apply updSec_keeps
    | with_reducible refine foldl_keeps (fun _ _ _ => ?_) ?_ | with_reducible refine ite_keeps (fun _ => ?_) (fun _ => ?_) | split | dsimp only

theorem cmdIde_keeps {p : Kept} {s : State} {a0} (h : Keeps p s) : Keeps p (cmdIde a0 s).2 := by
  unfold cmdIde
  repeat' first | with_reducible assumption | with_reducible apply updSec_keeps | fail_if_no_progress with_reducible apply keeps_upd | with_reducible refine ite_keeps (fun _ => ?_) (fun _ => ?_)

theorem execIdeKeys_keeps {p : Kept} {s : State} (h : Keeps p s) {t} (e : execIdeKeys s = .next t) : Keeps p t := by
  unfold execIdeKeys at e
  repeat' (injection e with e; subst e)
  repeat' first | with_reducible assumption | with_reducible apply serve_keeps | with_reducible apply cmdIde_keeps | intro _

theorem execTenantBind_keeps {p : Kept} {s : State} (h : Keeps p s) {t} (e : execTenantBind s = .next t) : Keeps p t := by
  unfold execTenantBind at e
  repeat' (injection e with e; subst e)
  repeat' first | with_reducible assumption | with_reducible apply serve_keeps | with_reducible apply cmdBind_keeps | intro _

theorem execHsFinish_keeps {p : Kept} {s : State} {a0 a1} (h : Keeps p s) {t} (e : execHsFinish a0 a1 s = .next t) : Keeps p t := by
  unfold execHsFinish at e
  repeat' (injection e with e; subst e)
  repeat' first | with_reducible assumption | with_reducible apply hsFinish_keeps

theorem sendFinish_keeps {p : Kept} {s : State} {a0} (h : Keeps p s) : Keeps p (sendFinish a0 s) := by
  unfold sendFinish
  repeat' first | with_reducible assumption | with_reducible apply sendHs_keeps | with_reducible refine ite_keeps (fun _ => ?_) (fun _ => ?_)

theorem hsKem_keeps {p : Kept} {s : State} {a0 a1} (h : Keeps p s) : Keeps p (hsKem a0 a1 s) := by
  unfold hsKem
  repeat' first | with_reducible assumption | with_reducible apply sendFinish_keeps | with_reducible apply updHs_keeps | with_reducible refine ite_keeps (fun _ => ?_) (fun _ => ?_)

theorem execHsHello_keeps {p : Kept} {s : State} {a0 a1 a2} (h : Keeps p s) {t} (e : execHsHello a0 a1 a2 s = .next t) : Keeps p t := by
  unfold execHsHello at e
  repeat' (injection e with e; subst e)
  repeat' first | with_reducible assumption | with_reducible apply hsHello_keeps

theorem execGetReport_keeps {p : Kept} {s : State} {a0} (h : Keeps p s) {t} (e : execGetReport a0 s = .next t) : Keeps p t := by
  unfold execGetReport at e
  repeat' (injection e with e; subst e)
  repeat' first | with_reducible assumption | with_reducible apply serve_keeps | with_reducible apply cmdReport_keeps | intro _

theorem cmdClose_keeps {p : Kept} {s : State} {a0} (h : Keeps p s) : Keeps p (cmdClose a0 s).2 := by
  unfold cmdClose
  repeat' first | with_reducible assumption | with_reducible apply setSession_keeps | split | dsimp only

theorem execSessionClose_keeps {p : Kept} {s : State} (h : Keeps p s) {t} (e : execSessionClose s = .next t) : Keeps p t := by
  unfold execSessionClose at e
  repeat' (injection e with e; subst e)
  repeat' first | with_reducible assumption | with_reducible apply serve_keeps | with_reducible apply cmdClose_keeps | intro _

theorem execMbData_keeps {p : Kept} {s : State} {a0 a1} (h : Keeps p s) {t} (e : execMbData a0 a1 s = .next t) : Keeps p t := by
  unfold execMbData at e
  repeat' (injection e with e; subst e)
  repeat' first | with_reducible assumption | with_reducible apply viaBar_keeps | with_reducible apply mbData_keeps | intro _

theorem hsReport_keeps {p : Kept} {s : State} {a0 a1 a2 a3 a4} (h : Keeps p s) : Keeps p (hsReport a0 a1 a2 a3 a4 s) := by
  unfold hsReport
  repeat' first
    | with_reducible assumption | with_reducible apply attestFails_keeps | with_reducible apply freshBytes_keeps | with_reducible apply updHs_keeps
    | with_reducible apply sendHs_keeps | with_reducible refine ite_keeps (fun _ => ?_) (fun _ => ?_)

theorem execHsReport_keeps {p : Kept} {s : State} {a0 a1 a2 a3 a4} (h : Keeps p s) {t} (e : execHsReport a0 a1 a2 a3 a4 s = .next t) : Keeps p t := by
  unfold execHsReport at e
  repeat' (injection e with e; subst e)
  repeat' first | with_reducible assumption | with_reducible apply hsReport_keeps

theorem execDoeAbort_keeps {p : Kept} {s : State} (h : Keeps p s) {t} (e : execDoeAbort s = .next t) : Keeps p t := by
  unfold execDoeAbort at e
  repeat' (injection e with e; subst e)
  repeat' first | with_reducible assumption | with_reducible apply doeAbort_keeps

theorem execHsKem_keeps {p : Kept} {s : State} {a0 a1} (h : Keeps p s) {t} (e : execHsKem a0 a1 s = .next t) : Keeps p t := by
  unfold execHsKem at e
  repeat' (injection e with e; subst e)
  repeat' first | with_reducible assumption | with_reducible apply hsKem_keeps

theorem execTenantUnbind_keeps {p : Kept} {s : State} (h : Keeps p s) {t} (e : execTenantUnbind s = .next t) : Keeps p t := by
  unfold execTenantUnbind at e
  repeat' (injection e with e; subst e)
  repeat' first | with_reducible assumption | with_reducible apply serve_keeps | with_reducible apply cmdUnbind_keeps | intro _

/-! ### Boot -/

theorem beginBeat_keeps {p : Kept} {s : State} {a0} (h : Keeps p s) : Keeps p (beginBeat a0 s) := by
  unfold beginBeat
  repeat' first | with_reducible assumption | with_reducible apply restart_keeps | with_reducible apply setShadow_keeps

theorem fwResult_keeps {p : Kept} {s : State} {a0 a1} (h : Keeps p s) : Keeps p (fwResult a0 a1 s) := by
  unfold fwResult
  repeat' first | with_reducible assumption | with_reducible apply updBoot_keeps

theorem readFloor_keeps {p : Kept} {s : State} (h : Keeps p s) : Keeps p (readFloor s) := by
  unfold readFloor
  repeat' first
    | with_reducible assumption | with_reducible apply updField_keeps | with_reducible apply updConv_keeps
    | with_reducible refine foldl_keeps (fun _ _ _ => ?_) ?_ | fail_if_no_progress with_reducible apply keeps_upd | split

theorem logCopies_keeps {p : Kept} {s : State} {a0} (h : Keeps p s) : Keeps p (logCopies a0 s) := by
  unfold logCopies
  repeat' first
    | with_reducible assumption | with_reducible apply recordErrAny_keeps | with_reducible refine foldl_keeps (fun _ _ _ => ?_) ?_
    | with_reducible refine ite_keeps (fun _ => ?_) (fun _ => ?_)

theorem recLack_keeps {p : Kept} {s : State} {a0 a1} (h : Keeps p s) : Keeps p (recLack a0 a1 s) := by
  unfold recLack
  repeat' first
    | with_reducible assumption | with_reducible apply serviceMode_keeps | with_reducible apply updSec_keeps | with_reducible apply imposeDark_keeps
    | with_reducible refine foldl_keeps (fun _ _ _ => ?_) ?_ | with_reducible refine ite_keeps (fun _ => ?_) (fun _ => ?_) | split

theorem setRes_keeps {p : Kept} {s : State} {a0 a1} (h : Keeps p s) : Keeps p (setRes a0 a1 s) := by
  unfold setRes
  repeat' first | with_reducible assumption | with_reducible apply updBoot_keeps

theorem migrateRec_keeps {p : Kept} {s : State} {a0 a1 a2} (h : Keeps p s) : Keeps p (migrateRec a0 a1 a2 s) := by
  unfold migrateRec
  repeat' first
    | with_reducible assumption | with_reducible apply recPut_keeps | with_reducible apply serviceMode_keeps | with_reducible apply recordErrAny_keeps
    | with_reducible refine ite_keeps (fun _ => ?_) (fun _ => ?_)

theorem resolveRec_keeps {p : Kept} {s : State} {a0 a2} (h : Keeps p s) : Keeps p (resolveRec a0 s a2) := by
  unfold resolveRec
  repeat' first
    | with_reducible assumption | with_reducible apply logCopies_keeps | with_reducible apply recLack_keeps | with_reducible apply setRes_keeps
    | with_reducible apply serviceMode_keeps | with_reducible apply recordErrAny_keeps | with_reducible apply migrateRec_keeps
    | with_reducible refine ite_keeps (fun _ => ?_) (fun _ => ?_) | split | dsimp only

theorem mcRecords_keeps {p : Kept} {s : State} {a0} (h : Keeps p s) : Keeps p (mcRecords a0 s) := by
  unfold mcRecords
  repeat' first
    | with_reducible assumption | with_reducible apply updBoot_keeps | with_reducible apply resolveRec_keeps
    | with_reducible refine foldl_keeps (fun _ _ _ => ?_) ?_ | with_reducible refine ite_keeps (fun _ => ?_) (fun _ => ?_)

theorem unitBooted_keeps {p : Kept} {s : State} {a0 a1 a2} (h : Keeps p s) : Keeps p (unitBooted a0 a1 a2 s) := by
  unfold unitBooted
  repeat' first
    | with_reducible assumption | with_reducible apply settleCmds_keeps | with_reducible apply mcRecords_keeps | with_reducible apply fieldFault_keeps
    | with_reducible apply imposeDark_keeps | with_reducible apply putLimit_keeps | with_reducible apply updField_keeps
    | with_reducible apply tryTrain_keeps | with_reducible refine ite_keeps (fun _ => ?_) (fun _ => ?_) | split

theorem beginRestart_keeps {p : Kept} {s : State} (h : Keeps p s) : Keeps p (beginRestart s) := by
  unfold beginRestart
  repeat' first
    | with_reducible assumption | with_reducible apply claimPage_keeps | with_reducible apply updBoot_keeps | with_reducible apply updField_keeps
    | with_reducible apply linkGone_keeps | with_reducible refine foldl_keeps (fun _ _ _ => ?_) ?_
    | with_reducible refine ite_keeps (fun _ => ?_) (fun _ => ?_) | split

theorem componentBoot_keeps {p : Kept} {s : State} {a0} (h : Keeps p s) : Keeps p (componentBoot a0 s) := by
  unfold componentBoot
  repeat' first
    | with_reducible assumption | with_reducible apply bootUnit_keeps | with_reducible apply updBoot_keeps | with_reducible apply unitBooted_keeps
    | with_reducible apply fwResult_keeps | with_reducible apply beginRestart_keeps | with_reducible refine ite_keeps (fun _ => ?_) (fun _ => ?_)
    | split

theorem execComponentBoot_keeps {p : Kept} {s : State} {a0} (h : Keeps p s) {t} (e : execComponentBoot a0 s = .next t) : Keeps p t := by
  unfold execComponentBoot at e
  repeat' (injection e with e; subst e)
  repeat' first | with_reducible assumption | with_reducible apply componentBoot_keeps

theorem selftestTimeout_keeps {p : Kept} {s : State} {a0} (h : Keeps p s) : Keeps p (selftestTimeout a0 s) := by
  unfold selftestTimeout
  repeat' first
    | with_reducible assumption | with_reducible apply freshWord_keeps | with_reducible apply fieldFault_keeps | with_reducible apply imposeDark_keeps
    | with_reducible refine ite_keeps (fun _ => ?_) (fun _ => ?_)

theorem endFields_keeps {p : Kept} {s : State} (h : Keeps p s) : Keeps p (endFields s) := by
  unfold endFields
  repeat' first | with_reducible assumption | with_reducible apply setLiveF_keeps | with_reducible apply updBoot_keeps

theorem fieldsTimeout_keeps {p : Kept} {s : State} (h : Keeps p s) : Keeps p (fieldsTimeout s) := by
  unfold fieldsTimeout
  repeat' first | with_reducible assumption | with_reducible apply endFields_keeps | with_reducible refine ite_keeps (fun _ => ?_) (fun _ => ?_)

theorem execStartupFieldsTimeout_keeps {p : Kept} {s : State} (h : Keeps p s) {t} (e : execStartupFieldsTimeout s = .next t) : Keeps p t := by
  unfold execStartupFieldsTimeout at e
  repeat' (injection e with e; subst e)
  repeat' first | with_reducible assumption | with_reducible apply fieldsTimeout_keeps

theorem beginFields_keeps {p : Kept} {s : State} (h : Keeps p s) : Keeps p (beginFields s) := by
  unfold beginFields
  repeat' first
    | with_reducible assumption | with_reducible apply setLiveF_keeps | with_reducible apply updBoot_keeps | with_reducible apply setBoth_keeps
    | with_reducible refine foldl_keeps (fun _ _ _ => ?_) ?_

theorem startNextCal_keeps {p : Kept} {s : State} (h : Keeps p s) : Keeps p (startNextCal s) := by
  unfold startNextCal
  repeat' first | with_reducible assumption | with_reducible apply startCal_keeps | with_reducible refine ite_keeps (fun _ => ?_) (fun _ => ?_) | split

theorem beginCals_keeps {p : Kept} {s : State} (h : Keeps p s) : Keeps p (beginCals s) := by
  unfold beginCals
  repeat' first | with_reducible assumption | with_reducible apply startNextCal_keeps | with_reducible apply updBoot_keeps

theorem routesStage_keeps {p : Kept} {s : State} {now} (h : Keeps p s) : Keeps p (routesStage now s) := by
  have k : Keeps p { s with exch := [] } := ⟨h.1, ⟨h.2.1, h.2.2, h.2.3, h.2.4, h.2.5, h.2.6, rfl⟩⟩
  unfold routesStage
  dsimp only
  refine updBoot_keeps (ite_keeps (fun _ => ?_) (fun _ => enqueueFault_keeps ?_)) <;>
    exact foldl_keeps (fun s n g => ite_keeps (fun _ => tryTrain_keeps (setBoth_keeps g)) (fun _ => g)) (keeps_upd k)

theorem calStage_keeps {p : Kept} {s : State} {a0} (h : Keeps p s) : Keeps p (calStage a0 s) := by
  unfold calStage
  repeat' first
    | with_reducible assumption | with_reducible apply startNextCal_keeps | with_reducible apply updBoot_keeps
    | with_reducible apply routesStage_keeps | with_reducible refine ite_keeps (fun _ => ?_) (fun _ => ?_) | split

theorem linkStage_keeps {p : Kept} {s : State} {a0} (h : Keeps p s) : Keeps p (linkStage a0 s) := by
  unfold linkStage
  repeat' first | with_reducible assumption | with_reducible apply updBoot_keeps | with_reducible refine ite_keeps (fun _ => ?_) (fun _ => ?_)

theorem bootTick_keeps {p : Kept} {s : State} {a0} (h : Keeps p s) : Keeps p (bootTick a0 s) := by
  unfold bootTick
  repeat' first
    | with_reducible assumption | with_reducible apply beginFields_keeps | with_reducible apply endFields_keeps | with_reducible apply beginCals_keeps
    | with_reducible apply calStage_keeps | with_reducible apply linkStage_keeps | with_reducible refine ite_keeps (fun _ => ?_) (fun _ => ?_) | split

theorem digestCfg_keeps {p : Kept} {s : State} (h : Keeps p s) : Keeps p (digestCfg s) := by
  unfold digestCfg
  repeat' first | with_reducible assumption | with_reducible apply updSec_keeps

theorem execSelftestTimeout_keeps {p : Kept} {s : State} {a0} (h : Keeps p s) {t} (e : execSelftestTimeout a0 s = .next t) : Keeps p t := by
  unfold execSelftestTimeout at e
  repeat' (injection e with e; subst e)
  repeat' first | with_reducible assumption | with_reducible apply selftestTimeout_keeps

theorem seBootDone_keeps {p : Kept} {s : State} (h : Keeps p s) : Keeps p (seBootDone s) := by
  unfold seBootDone
  repeat' first
    | with_reducible assumption | with_reducible apply bootUnit_keeps | with_reducible apply updSec_keeps | with_reducible apply recLack_keeps
    | with_reducible apply freshWord_keeps | with_reducible apply freshBytes_keeps | with_reducible apply settleCmds_keeps
    | with_reducible apply updBoot_keeps | fail_if_no_progress with_reducible apply keeps_upd
    | with_reducible refine ite_keeps (fun _ => ?_) (fun _ => ?_) | split

theorem testFails_keeps {p : Kept} {s : State} {a0 a2} (h : Keeps p s) : Keeps p (testFails a0 s a2) := by
  unfold testFails
  repeat' first
    | with_reducible assumption | with_reducible apply retireAll_keeps | with_reducible apply fieldFault_keeps | with_reducible apply imposeDark_keeps
    | with_reducible refine ite_keeps (fun _ => ?_) (fun _ => ?_)

theorem selftestDone_keeps {p : Kept} {s : State} {a0 a1 a2} (h : Keeps p s) : Keeps p (selftestDone a0 a1 a2 s) := by
  unfold selftestDone
  repeat' first
    | with_reducible assumption | with_reducible apply testFails_keeps | with_reducible apply updBoot_keeps | with_reducible apply floorPut_keeps
    | with_reducible refine foldl_keeps (fun _ _ _ => ?_) ?_ | with_reducible refine ite_keeps (fun _ => ?_) (fun _ => ?_)

theorem execSelftestDone_keeps {p : Kept} {s : State} {a0 a1 a2} (h : Keeps p s) {t} (e : execSelftestDone a0 a1 a2 s = .next t) : Keeps p t := by
  unfold execSelftestDone at e
  repeat' (injection e with e; subst e)
  repeat' first | with_reducible assumption | with_reducible apply selftestDone_keeps

theorem fwRefused_keeps {p : Kept} {s : State} {a0} (h : Keeps p s) : Keeps p (fwRefused a0 s) := by
  unfold fwRefused
  repeat' first | with_reducible assumption | with_reducible apply recordErrAny_keeps | with_reducible apply fwResult_keeps | with_reducible refine ite_keeps (fun _ => ?_) (fun _ => ?_)

theorem fwRestart_keeps {p : Kept} {s : State} {a0 a1} (h : Keeps p s) : Keeps p (fwRestart a0 a1 s).2 := by
  unfold fwRestart
  repeat' first
    | with_reducible assumption | with_reducible apply fwRefused_keeps | with_reducible apply beginRestart_keeps | with_reducible apply fwResult_keeps
    | with_reducible apply updBoot_keeps | split

theorem execFwRestart_keeps {p : Kept} {s : State} {a0 a1 a2} (h : Keeps p s) {t} (e : execFwRestart a0 a1 a2 s = .next t) : Keeps p t := by
  unfold execFwRestart at e
  repeat' (injection e with e; subst e)
  repeat' first | with_reducible assumption | with_reducible apply onPage_keeps | with_reducible apply fwRestart_keeps | intro _

theorem execSeBootDone_keeps {p : Kept} {s : State} (h : Keeps p s) {t} (e : execSeBootDone s = .next t) : Keeps p t := by
  unfold execSeBootDone at e
  repeat' (injection e with e; subst e)
  repeat' first | with_reducible assumption | with_reducible apply seBootDone_keeps

theorem commitCfg_keeps {p : Kept} {s : State} {a0} (h : Keeps p s) : Keeps p (commitCfg a0 s) := by
  unfold commitCfg
  repeat' first | with_reducible assumption | with_reducible apply setBoth_keeps | with_reducible refine foldl_keeps (fun _ _ _ => ?_) ?_ | split

theorem mcBootDone_keeps {p : Kept} {s : State} {a0 a1 a2} (h : Keeps p s) : Keeps p (mcBootDone a0 a1 a2 s) := by
  unfold mcBootDone
  repeat' first
    | with_reducible assumption | with_reducible apply digestCfg_keeps | with_reducible apply readFloor_keeps | with_reducible apply mcRecords_keeps
    | with_reducible apply updBoot_keeps | with_reducible apply railSeq_keeps | with_reducible apply railCals_keeps
    | with_reducible apply pairLost_keeps | with_reducible apply bootUnit_keeps | with_reducible apply beginBeat_keeps
    | with_reducible apply commitCfg_keeps | with_reducible refine foldl_keeps (fun _ _ _ => ?_) ?_
    | with_reducible refine ite_keeps (fun _ => ?_) (fun _ => ?_)

theorem execMcBootDone_keeps {p : Kept} {s : State} {a0 a1 a2} (h : Keeps p s) {t} (e : execMcBootDone a0 a1 a2 s = .next t) : Keeps p t := by
  unfold execMcBootDone at e
  repeat' (injection e with e; subst e)
  repeat' first | with_reducible assumption | with_reducible apply mcBootDone_keeps

theorem fwActivate_keeps {p : Kept} {s : State} {a0} (h : Keeps p s) : Keeps p (fwActivate a0 s).2 := by
  unfold fwActivate
  repeat' first
    | with_reducible assumption | with_reducible apply fwRefused_keeps | with_reducible apply updComp_keeps | with_reducible apply fwResult_keeps
    | with_reducible refine ite_keeps (fun _ => ?_) (fun _ => ?_) | split

theorem execFwActivate_keeps {p : Kept} {s : State} {a0 a1} (h : Keeps p s) {t} (e : execFwActivate a0 a1 s = .next t) : Keeps p t := by
  unfold execFwActivate at e
  repeat' (injection e with e; subst e)
  repeat' first | with_reducible assumption | with_reducible apply onPage_keeps | with_reducible apply fwActivate_keeps | intro _

end Sys2Proof.Machine
end

