-- ==== Sys2Proof/Laws/KeepsRegs.lean ====
section
/-! SUPPORT. What every operation keeps, continued. -/

namespace Sys2Proof.Machine

open Sys2Proof

/-! ### Scalar -/

theorem writeD_keeps {p : Kept} {s : State} {a0 a1} (h : Keeps p s) : IKeeps p (writeD a0 a1 s) := by
  unfold writeD
  repeat' first | with_reducible assumption | with_reducible apply ikeeps_done | with_reducible apply updThread_keeps

theorem scalarRR_keeps {p : Kept} {s : State} {a0 a1 a2} (h : Keeps p s) : Keeps p (scalarRR a0 a1 a2 s) := by
  unfold scalarRR
  repeat' first | with_reducible assumption | with_reducible apply issue_keeps | with_reducible apply writeD_keeps | intro _

theorem execMaxu_keeps {p : Kept} {s : State} {a0} (h : Keeps p s) {t} (e : execMaxu a0 s = .next t) : Keeps p t := by
  unfold execMaxu at e
  repeat' (injection e with e; subst e)
  repeat' first | with_reducible assumption | with_reducible apply scalarRR_keeps

theorem scalarRI_keeps {p : Kept} {s : State} {a0 a1 a2} (h : Keeps p s) : Keeps p (scalarRI a0 a1 a2 s) := by
  unfold scalarRI
  repeat' first | with_reducible assumption | with_reducible apply issue_keeps | with_reducible apply writeD_keeps | intro _

theorem execShli_keeps {p : Kept} {s : State} {a0} (h : Keeps p s) {t} (e : execShli a0 s = .next t) : Keeps p t := by
  unfold execShli at e
  repeat' (injection e with e; subst e)
  repeat' first | with_reducible assumption | with_reducible apply scalarRI_keeps

theorem execLih_keeps {p : Kept} {s : State} {a0} (h : Keeps p s) {t} (e : execLih a0 s = .next t) : Keeps p t := by
  unfold execLih at e
  repeat' (injection e with e; subst e)
  repeat' first | with_reducible assumption | with_reducible apply scalarRI_keeps

theorem execSari_keeps {p : Kept} {s : State} {a0} (h : Keeps p s) {t} (e : execSari a0 s = .next t) : Keeps p t := by
  unfold execSari at e
  repeat' (injection e with e; subst e)
  repeat' first | with_reducible assumption | with_reducible apply scalarRI_keeps

theorem execMax_keeps {p : Kept} {s : State} {a0} (h : Keeps p s) {t} (e : execMax a0 s = .next t) : Keeps p t := by
  unfold execMax at e
  repeat' (injection e with e; subst e)
  repeat' first | with_reducible assumption | with_reducible apply scalarRR_keeps

theorem execAddi_keeps {p : Kept} {s : State} {a0} (h : Keeps p s) {t} (e : execAddi a0 s = .next t) : Keeps p t := by
  unfold execAddi at e
  repeat' (injection e with e; subst e)
  repeat' first | with_reducible assumption | with_reducible apply scalarRI_keeps

theorem execNop_keeps {p : Kept} {s : State} {a0} (h : Keeps p s) {t} (e : execNop a0 s = .next t) : Keeps p t := by
  unfold execNop at e
  repeat' (injection e with e; subst e)
  repeat' first | with_reducible assumption | with_reducible apply ikeeps_done | with_reducible apply issue_keeps | intro _

theorem execSlti_keeps {p : Kept} {s : State} {a0} (h : Keeps p s) {t} (e : execSlti a0 s = .next t) : Keeps p t := by
  unfold execSlti at e
  repeat' (injection e with e; subst e)
  repeat' first | with_reducible assumption | with_reducible apply scalarRI_keeps

theorem execAdd_keeps {p : Kept} {s : State} {a0} (h : Keeps p s) {t} (e : execAdd a0 s = .next t) : Keeps p t := by
  unfold execAdd at e
  repeat' (injection e with e; subst e)
  repeat' first | with_reducible assumption | with_reducible apply scalarRR_keeps

theorem execOri_keeps {p : Kept} {s : State} {a0} (h : Keeps p s) {t} (e : execOri a0 s = .next t) : Keeps p t := by
  unfold execOri at e
  repeat' (injection e with e; subst e)
  repeat' first | with_reducible assumption | with_reducible apply scalarRI_keeps

theorem execXor_keeps {p : Kept} {s : State} {a0} (h : Keeps p s) {t} (e : execXor a0 s = .next t) : Keeps p t := by
  unfold execXor at e
  repeat' (injection e with e; subst e)
  repeat' first | with_reducible assumption | with_reducible apply scalarRR_keeps

theorem execRdsys_keeps {p : Kept} {s : State} {a0} (h : Keeps p s) {t} (e : execRdsys a0 s = .next t) : Keeps p t := by
  unfold execRdsys at e
  repeat' (injection e with e; subst e)
  repeat' first | with_reducible assumption | with_reducible apply issue_keeps | with_reducible apply writeD_keeps | intro _

theorem execHalt_keeps {p : Kept} {s : State} {a0} (h : Keeps p s) {t} (e : execHalt a0 s = .next t) : Keeps p t := by
  unfold execHalt at e
  repeat' (injection e with e; subst e)
  repeat' first | with_reducible assumption | with_reducible apply ikeeps_done | with_reducible apply issue_keeps | with_reducible apply updThread_keeps | intro _

theorem execSltu_keeps {p : Kept} {s : State} {a0} (h : Keeps p s) {t} (e : execSltu a0 s = .next t) : Keeps p t := by
  unfold execSltu at e
  repeat' (injection e with e; subst e)
  repeat' first | with_reducible assumption | with_reducible apply scalarRR_keeps

theorem execMin_keeps {p : Kept} {s : State} {a0} (h : Keeps p s) {t} (e : execMin a0 s = .next t) : Keeps p t := by
  unfold execMin at e
  repeat' (injection e with e; subst e)
  repeat' first | with_reducible assumption | with_reducible apply scalarRR_keeps

theorem execSub_keeps {p : Kept} {s : State} {a0} (h : Keeps p s) {t} (e : execSub a0 s = .next t) : Keeps p t := by
  unfold execSub at e
  repeat' (injection e with e; subst e)
  repeat' first | with_reducible assumption | with_reducible apply scalarRR_keeps

theorem execShri_keeps {p : Kept} {s : State} {a0} (h : Keeps p s) {t} (e : execShri a0 s = .next t) : Keeps p t := by
  unfold execShri at e
  repeat' (injection e with e; subst e)
  repeat' first | with_reducible assumption | with_reducible apply scalarRI_keeps

theorem execSar_keeps {p : Kept} {s : State} {a0} (h : Keeps p s) {t} (e : execSar a0 s = .next t) : Keeps p t := by
  unfold execSar at e
  repeat' (injection e with e; subst e)
  repeat' first | with_reducible assumption | with_reducible apply scalarRR_keeps

theorem execSlt_keeps {p : Kept} {s : State} {a0} (h : Keeps p s) {t} (e : execSlt a0 s = .next t) : Keeps p t := by
  unfold execSlt at e
  repeat' (injection e with e; subst e)
  repeat' first | with_reducible assumption | with_reducible apply scalarRR_keeps

theorem execAndi_keeps {p : Kept} {s : State} {a0} (h : Keeps p s) {t} (e : execAndi a0 s = .next t) : Keeps p t := by
  unfold execAndi at e
  repeat' (injection e with e; subst e)
  repeat' first | with_reducible assumption | with_reducible apply scalarRI_keeps

theorem execAnd_keeps {p : Kept} {s : State} {a0} (h : Keeps p s) {t} (e : execAnd a0 s = .next t) : Keeps p t := by
  unfold execAnd at e
  repeat' (injection e with e; subst e)
  repeat' first | with_reducible assumption | with_reducible apply scalarRR_keeps

theorem execMinu_keeps {p : Kept} {s : State} {a0} (h : Keeps p s) {t} (e : execMinu a0 s = .next t) : Keeps p t := by
  unfold execMinu at e
  repeat' (injection e with e; subst e)
  repeat' first | with_reducible assumption | with_reducible apply scalarRR_keeps

theorem execXori_keeps {p : Kept} {s : State} {a0} (h : Keeps p s) {t} (e : execXori a0 s = .next t) : Keeps p t := by
  unfold execXori at e
  repeat' (injection e with e; subst e)
  repeat' first | with_reducible assumption | with_reducible apply scalarRI_keeps

theorem execShl_keeps {p : Kept} {s : State} {a0} (h : Keeps p s) {t} (e : execShl a0 s = .next t) : Keeps p t := by
  unfold execShl at e
  repeat' (injection e with e; subst e)
  repeat' first | with_reducible assumption | with_reducible apply scalarRR_keeps

theorem execShr_keeps {p : Kept} {s : State} {a0} (h : Keeps p s) {t} (e : execShr a0 s = .next t) : Keeps p t := by
  unfold execShr at e
  repeat' (injection e with e; subst e)
  repeat' first | with_reducible assumption | with_reducible apply scalarRR_keeps

theorem execOr_keeps {p : Kept} {s : State} {a0} (h : Keeps p s) {t} (e : execOr a0 s = .next t) : Keeps p t := by
  unfold execOr at e
  repeat' (injection e with e; subst e)
  repeat' first | with_reducible assumption | with_reducible apply scalarRR_keeps

theorem execMul_keeps {p : Kept} {s : State} {a0} (h : Keeps p s) {t} (e : execMul a0 s = .next t) : Keeps p t := by
  unfold execMul at e
  repeat' (injection e with e; subst e)
  repeat' first | with_reducible assumption | with_reducible apply scalarRR_keeps

/-! ### Branch -/

theorem linkTo_keeps {p : Kept} {s : State} {a0 a1} (h : Keeps p s) : IKeeps p (linkTo a0 a1 s) := by
  unfold linkTo
  repeat' first | with_reducible assumption | with_reducible apply ikeeps_done | with_reducible apply updThread_keeps

theorem execJr_keeps {p : Kept} {s : State} {a0} (h : Keeps p s) {t} (e : execJr a0 s = .next t) : Keeps p t := by
  unfold execJr at e
  repeat' (injection e with e; subst e)
  repeat' first
    | with_reducible assumption | with_reducible apply ikeeps_fault | with_reducible apply issue_keeps | with_reducible apply linkTo_keeps
    | with_reducible refine ite_ikeeps (fun _ => ?_) (fun _ => ?_) | intro _

theorem branch_keeps {p : Kept} {s : State} {a0 a1 a2} (h : Keeps p s) : Keeps p (branch a0 a1 a2 s) := by
  unfold branch
  repeat' first
    | with_reducible assumption | with_reducible apply ikeeps_fault | with_reducible apply ikeeps_done | with_reducible apply issue_keeps
    | with_reducible apply updThread_keeps | split | intro _

theorem execBne_keeps {p : Kept} {s : State} {a0} (h : Keeps p s) {t} (e : execBne a0 s = .next t) : Keeps p t := by
  unfold execBne at e
  repeat' (injection e with e; subst e)
  repeat' first | with_reducible assumption | with_reducible apply branch_keeps

theorem execBlt_keeps {p : Kept} {s : State} {a0} (h : Keeps p s) {t} (e : execBlt a0 s = .next t) : Keeps p t := by
  unfold execBlt at e
  repeat' (injection e with e; subst e)
  repeat' first | with_reducible assumption | with_reducible apply branch_keeps

theorem execBeq_keeps {p : Kept} {s : State} {a0} (h : Keeps p s) {t} (e : execBeq a0 s = .next t) : Keeps p t := by
  unfold execBeq at e
  repeat' (injection e with e; subst e)
  repeat' first | with_reducible assumption | with_reducible apply branch_keeps

theorem execBgeu_keeps {p : Kept} {s : State} {a0} (h : Keeps p s) {t} (e : execBgeu a0 s = .next t) : Keeps p t := by
  unfold execBgeu at e
  repeat' (injection e with e; subst e)
  repeat' first | with_reducible assumption | with_reducible apply branch_keeps

theorem execJal_keeps {p : Kept} {s : State} {a0} (h : Keeps p s) {t} (e : execJal a0 s = .next t) : Keeps p t := by
  unfold execJal at e
  repeat' (injection e with e; subst e)
  repeat' first | with_reducible assumption | with_reducible apply ikeeps_fault | with_reducible apply issue_keeps | with_reducible apply linkTo_keeps | split | intro _

theorem execBge_keeps {p : Kept} {s : State} {a0} (h : Keeps p s) {t} (e : execBge a0 s = .next t) : Keeps p t := by
  unfold execBge at e
  repeat' (injection e with e; subst e)
  repeat' first | with_reducible assumption | with_reducible apply branch_keeps

theorem execBltu_keeps {p : Kept} {s : State} {a0} (h : Keeps p s) {t} (e : execBltu a0 s = .next t) : Keeps p t := by
  unfold execBltu at e
  repeat' (injection e with e; subst e)
  repeat' first | with_reducible assumption | with_reducible apply branch_keeps

/-! ### ReadRegs -/

theorem shown_keeps {p : Kept} {s : State} {a0 a1} (h : Keeps p s) : Keeps p (shown a0 a1 s).2 := by
  unfold shown
  repeat' first | with_reducible assumption | with_reducible apply freshWord_keeps | split

theorem shownTemp_keeps {p : Kept} {s : State} {a0} (h : Keeps p s) : Keeps p (shownTemp a0 s).2 := by
  unfold shownTemp
  repeat' first | with_reducible assumption | with_reducible apply shown_keeps | with_reducible apply freshWord_keeps | split

theorem hubShown_keeps {p : Kept} {s : State} {a0 a1 a2} (h : Keeps p s) : Keeps p (hubShown a0 a1 a2 s).2 := by
  unfold hubShown
  repeat' first | with_reducible assumption | with_reducible apply shown_keeps | split

theorem coolWord_keeps {p : Kept} {s : State} (h : Keeps p s) : Keeps p (coolWord s).2 := by
  have t : ∀ i s, Keeps p s → Keeps p (match reading s 80 i with
      | some r => shownTemp r.1 s
      | none => (0, s)).2 := by
    intro i s h
    cases reading s 80 i with
    | none => exact h
    | some r => exact shownTemp_keeps h
  exact hubShown_keeps (t _ _ (t _ _ h))

theorem bladeWord_keeps {p : Kept} {s : State} {a0} (h : Keeps p s) : Keeps p (bladeWord a0 s).2 := by
  unfold bladeWord
  repeat' first | with_reducible assumption | with_reducible apply hubShown_keeps

theorem pmWord_keeps {p : Kept} {s : State} {k off w t} (h : Keeps p s) (e : pmWord s k off = some (w, t)) : Keeps p t := by
  unfold pmWord at e
  split at e
  · injection e with e; injection e with _ e; subst e; exact h
  · injection e with e; injection e with _ e; subst e; exact shown_keeps h
  · injection e with e; exact snd_keeps e (coolWord_keeps h)
  · split at e
    · injection e with e; exact snd_keeps e (bladeWord_keeps h)
    · injection e
  · injection e

theorem fcuWord_keeps {p : Kept} {s : State} {a1 a2} (h : Keeps p s) {w} {t} (e : fcuWord s a1 a2 = some (w, t)) : Keeps p t := by
  unfold fcuWord at e
  repeat' first | cases e | split at e
  repeat' first | with_reducible assumption | with_reducible apply shownTemp_keeps

theorem anyWord_keeps {p : Kept} {s : State} (h : Keeps p s) : Keeps p (anyWord s).2 := by
  unfold anyWord
  repeat' first | with_reducible assumption | with_reducible apply freshWord_keeps

theorem vcoreWord_keeps {p : Kept} {s : State} {f off w t} (h : Keeps p s) (e : vcoreWord s f off = some (w, t)) : Keeps p t := by
  have g : Keeps p (match reading s f 1 with
      | some r => shown r.1 5 (anyWord s).2
      | none => (0, (anyWord s).2)).2 := by
    cases reading s f 1 with
    | none => exact anyWord_keeps h
    | some r => exact shown_keeps (anyWord_keeps h)
  unfold vcoreWord at e
  split at e
  · injection e with e; injection e with _ e; subst e; exact h
  · injection e with e; injection e with _ e; subst e; exact h
  · injection e with e; injection e with _ e; subst e; exact g
  · injection e

theorem railsWord_keeps {p : Kept} {s : State} {f off w t} (h : Keeps p s) (e : railsWord s f off = some (w, t)) : Keeps p t := by
  have a := anyWord_keeps h
  unfold railsWord at e
  split at e
  · injection e with e; injection e with _ e; subst e; exact h
  · injection e with e; rw [e] at a; exact a
  · injection e with e; rw [e] at a; exact a
  · injection e

theorem pure_keeps {p : Kept} {s : State} {o : Option Word} {w : Word} {t : State} (h : Keeps p s)
    (e : o.map (·, s) = some (w, t)) : Keeps p t := by
  cases o with
  | none => injection e
  | some v => injection e with e; injection e with _ e; subst e; exact h

theorem reported_keeps {p : Kept} {s : State} {m q off w t} (h : Keeps p s) (e : reported s m q off = some (w, t)) : Keeps p t := by
  unfold reported at e
  dsimp only at e
  split at e
  all_goals first
    | with_reducible exact pure_keeps h e
    | with_reducible exact pmWord_keeps h e
    | with_reducible exact fcuWord_keeps h e
    | with_reducible exact vcoreWord_keeps h e
    | with_reducible exact railsWord_keeps h e
    | (injection e with e; injection e with _ e; subst e; exact h)
    | (injection e; done)
    | (split at e <;> first | (injection e; done) | (injection e with e; injection e with _ e; subst e; exact h))

theorem regWord_keeps {p : Kept} {s : State} {a1 a2 a3} (h : Keeps p s) : Keeps p (regWord s a1 a2 a3).2 := by
  unfold regWord
  repeat' first | with_reducible assumption | with_reducible refine reported_keeps ?_ (by assumption) | split

/-! ### Hazard -/

theorem hdMarkWrite_keeps {p : Kept} {s : State} {a0} (h : Keeps p s) : Keeps p (hdMarkWrite a0 s) := by
  unfold hdMarkWrite
  repeat' first | with_reducible assumption | with_reducible apply recordErrAny_keeps | with_reducible apply setUnits_keeps | with_reducible refine ite_keeps (fun _ => ?_) (fun _ => ?_)

theorem execHdMarkWrite_keeps {p : Kept} {s : State} {a0 a1} (h : Keeps p s) {t} (e : execHdMarkWrite a0 a1 s = .next t) : Keeps p t := by
  unfold execHdMarkWrite at e
  repeat' (injection e with e; subst e)
  repeat' first | with_reducible assumption | with_reducible apply onPage_keeps | with_reducible apply hdMarkWrite_keeps | intro _

theorem hdMarkClear_keeps {p : Kept} {s : State} {a0} (h : Keeps p s) : Keeps p (hdMarkClear a0 s) := by
  unfold hdMarkClear
  repeat' first | with_reducible assumption | with_reducible apply setUnits_keeps

theorem execHdMarkClear_keeps {p : Kept} {s : State} {a0 a1} (h : Keeps p s) {t} (e : execHdMarkClear a0 a1 s = .next t) : Keeps p t := by
  unfold execHdMarkClear at e
  repeat' (injection e with e; subst e)
  repeat' first | with_reducible assumption | with_reducible apply onPage_keeps | with_reducible apply hdMarkClear_keeps | intro _

theorem hdClear_keeps {p : Kept} {s : State} {a0} (h : Keeps p s) : Keeps p (hdClear a0 s) := by
  unfold hdClear
  repeat' first | with_reducible assumption | with_reducible apply setUnits_keeps

theorem execHdClear_keeps {p : Kept} {s : State} {a0 a1} (h : Keeps p s) {t} (e : execHdClear a0 a1 s = .next t) : Keeps p t := by
  unfold execHdClear at e
  repeat' (injection e with e; subst e)
  repeat' first | with_reducible assumption | with_reducible apply onPage_keeps | with_reducible apply hdClear_keeps | intro _

/-! ### Registers -/

theorem plainWrite_keeps {p : Kept} {s : State} {a0 a1 a2} (h : Keeps p s) : Keeps p (plainWrite a0 a1 a2 s) := by
  unfold plainWrite
  repeat' first | with_reducible assumption | with_reducible apply setLive_keeps | split

theorem txnWrite_keeps {p : Kept} {s : State} {a0 a1 a2} (h : Keeps p s) : Keeps p (txnWrite a0 a1 a2 s) := by
  unfold txnWrite
  repeat' first
    | with_reducible assumption | with_reducible apply allocGroup_keeps | with_reducible apply setSel_keeps | with_reducible apply setGrp_keeps
    | with_reducible apply txnState_keeps | with_reducible apply armNow_keeps | with_reducible apply armGroup_keeps
    | with_reducible apply abortGroup_keeps | with_reducible apply releaseGroup_keeps | with_reducible refine ite_keeps (fun _ => ?_) (fun _ => ?_)
    | split

theorem wlWrite_keeps {p : Kept} {s : State} {a0} (h : Keeps p s) : Keeps p (wlWrite a0 s) := by
  unfold wlWrite
  repeat' first
    | with_reducible assumption | with_reducible apply recordErrAny_keeps | with_reducible apply wlCommand_keeps
    | with_reducible apply releaseCmd_keeps | with_reducible apply unloadCmd_keeps | with_reducible apply setCmdResult_keeps
    | fail_if_no_progress with_reducible apply keeps_upd | with_reducible refine ite_keeps (fun _ => ?_) (fun _ => ?_)

theorem cmds_nil_keeps {p : Kept} {s : State} (h : Keeps p s) : Keeps p (cmds [] s) := h

theorem cmds_cons_keeps {p : Kept} {s : State} {b : Bool} {f : State → State} {l : List (Bool × (State → State))}
    (hf : ∀ s, Keeps p s → Keeps p (f s)) (hl : ∀ s, Keeps p s → Keeps p (cmds l s)) (h : Keeps p s) :
    Keeps p (cmds ((b, f) :: l) s) := by
  cases b
  · exact hl _ h
  · exact hl _ (hf s h)

theorem adInstallAsked_keeps {p : Kept} {s : State} (h : Keeps p s) : Keeps p (adInstallAsked s) := by
  unfold adInstallAsked
  repeat' first
    | with_reducible assumption | with_reducible apply recordErrAny_keeps | with_reducible apply setCmdResult_keeps
    | fail_if_no_progress with_reducible apply keeps_upd | with_reducible refine ite_keeps (fun _ => ?_) (fun _ => ?_)

theorem servingWrite_keeps {p : Kept} {s : State} {a0 a1 a2} (h : Keeps p s) : Keeps p (servingWrite a0 a1 a2 s) := by
  unfold servingWrite
  repeat' first
    | with_reducible assumption | with_reducible apply stSel_keeps | with_reducible apply stCmdEnd_keeps | with_reducible apply wlWrite_keeps
    | with_reducible apply cmds_nil_keeps | with_reducible apply cmds_cons_keeps | with_reducible apply adInstallAsked_keeps
    | with_reducible apply adCommand_keeps | with_reducible apply adRetireCmd_keeps | with_reducible apply pxSel_keeps
    | with_reducible apply flushModel_keeps | with_reducible apply specSel_keeps | with_reducible apply plainWrite_keeps
    | with_reducible refine ite_keeps (fun _ => ?_) (fun _ => ?_) | split | intro _

theorem mailboxWrite_keeps {p : Kept} {s : State} {a0 a1 a2} (h : Keeps p s) : Keeps p (mailboxWrite a0 a1 a2 s) := by
  unfold mailboxWrite
  repeat' first
    | with_reducible assumption | with_reducible apply cmds_nil_keeps | with_reducible apply cmds_cons_keeps | with_reducible apply mbSubmit_keeps
    | with_reducible apply mbReset_keeps | with_reducible apply updMailbox_keeps | with_reducible apply mbData_keeps | split | intro _

theorem fwWrite_keeps {p : Kept} {s : State} {a0} (h : Keeps p s) : Keeps p (fwWrite a0 s) := by
  unfold fwWrite
  repeat' first
    | with_reducible assumption | with_reducible apply cmds_nil_keeps | with_reducible apply cmds_cons_keeps | with_reducible apply fwActivate_keeps
    | with_reducible apply fwRestart_keeps | intro _

theorem tallyWrite_keeps {p : Kept} {s : State} {a0 a1 a2} (h : Keeps p s) : Keeps p (tallyWrite a0 a1 a2 s) := by
  unfold tallyWrite
  repeat' first
    | with_reducible assumption | with_reducible apply recordErrAny_keeps | with_reducible apply plainWrite_keeps
    | with_reducible apply tallyCmd_keeps | with_reducible apply wakeWaiters_keeps | with_reducible refine ite_keeps (fun _ => ?_) (fun _ => ?_)
    | split

theorem linkWrite_keeps {p : Kept} {s : State} {a0 a1 a2 a3} (h : Keeps p s) : Keeps p (linkWrite a0 a1 a2 a3 s) := by
  unfold linkWrite
  repeat' first
    | with_reducible assumption | with_reducible apply retrain_keeps | with_reducible apply recordErrAny_keeps | with_reducible apply rtCopy_keeps
    | with_reducible apply plainWrite_keeps | fail_if_no_progress with_reducible apply keeps_upd
    | with_reducible refine ite_keeps (fun _ => ?_) (fun _ => ?_)

theorem actionWrite_keeps {p : Kept} {s : State} {a0 a1 a2 a3 a4} (h : Keeps p s) : Keeps p (actionWrite a0 a1 a2 a3 a4 s) := by
  unfold actionWrite
  repeat' first
    | with_reducible assumption | with_reducible apply restart_keeps | with_reducible apply txnWrite_keeps | with_reducible apply servingWrite_keeps
    | with_reducible apply mailboxWrite_keeps | with_reducible apply reclose_keeps | with_reducible apply startCal_keeps
    | with_reducible apply fwWrite_keeps | with_reducible apply tallyWrite_keeps | with_reducible apply cmds_nil_keeps
    | with_reducible apply cmds_cons_keeps | with_reducible apply flushReduce_keeps | with_reducible apply flushMerge_keeps
    | with_reducible apply hdClear_keeps | with_reducible apply hdMarkWrite_keeps | with_reducible apply hdMarkClear_keeps
    | with_reducible apply recordErrAny_keeps | with_reducible apply plainWrite_keeps | with_reducible apply cawRead_keeps
    | with_reducible apply cawWrite_keeps | with_reducible apply cawDiscard_keeps | with_reducible apply linkWrite_keeps
    | with_reducible apply chStart_keeps | with_reducible apply chAbort_keeps | with_reducible refine ite_keeps (fun _ => ?_) (fun _ => ?_) | split
    | intro _

theorem latch_keeps {p : Kept} {s : State} {a0 a1} (h : Keeps p s) : Keeps p (latch a0 a1 s) := by
  unfold latch
  repeat' first | with_reducible assumption | with_reducible apply updRecov_keeps | with_reducible apply setLive_keeps | fail_if_no_progress with_reducible apply keeps_beat | split

theorem cfgWrite_keeps {p : Kept} {s : State} {a0 a1 a2 a3} (h : Keeps p s) : Keeps p (cfgWrite a0 a1 a2 a3 s) := by
  unfold cfgWrite
  repeat' first | with_reducible assumption | with_reducible apply recordErrAny_keeps | with_reducible apply setShadow_keeps | with_reducible refine ite_keeps (fun _ => ?_) (fun _ => ?_)

theorem noteWindow_keeps {p : Kept} {s : State} {a0 a1 a2} (h : Keeps p s) : Keeps p (noteWindow a0 a1 a2 s) := by
  unfold noteWindow
  repeat' first | with_reducible assumption | with_reducible apply updLink_keeps | with_reducible refine ite_keeps (fun _ => ?_) (fun _ => ?_) | split

theorem headerWrite_keeps {p : Kept} {s : State} {a0 a1 a2 a3} (h : Keeps p s) : Keeps p (headerWrite a0 a1 a2 a3 s) := by
  unfold headerWrite
  repeat' first
    | with_reducible assumption | with_reducible apply setLive_keeps | with_reducible apply enrol_keeps | with_reducible apply withdraw_keeps
    | with_reducible refine ite_keeps (fun _ => ?_) (fun _ => ?_) | split

theorem writeReg_keeps {p : Kept} {s : State} {a0 a1 a2 a3 a4} (h : Keeps p s) : Keeps p (writeReg a0 a1 a2 a3 a4 s) := by
  unfold writeReg
  repeat' first
    | with_reducible assumption | with_reducible apply dropUnassigned_keeps | with_reducible apply noteWindow_keeps
    | with_reducible apply cfgWrite_keeps | with_reducible apply recordErrAny_keeps | with_reducible apply headerWrite_keeps
    | with_reducible apply actionWrite_keeps | with_reducible refine ite_keeps (fun _ => ?_) (fun _ => ?_) | split

theorem regWrite_keeps {p : Kept} {s : State} {a0 a1 a2 a3 a4 a5} (h : Keeps p s) : Keeps p (regWrite a0 a1 a2 a3 a4 a5 s) := by
  unfold regWrite
  repeat' first | with_reducible assumption | with_reducible apply writeReg_keeps | with_reducible apply dropWidth_keeps | with_reducible refine ite_keeps (fun _ => ?_) (fun _ => ?_) | split

theorem pclReg_keeps {p : Kept} {s : State} {a0 a1 a2} (hF : ∀ x y q s, Keeps p s → Keeps p (a1 x y q s).2) (h : Keeps p s) : Keeps p (pclReg a0 a1 a2 s) := by
  unfold pclReg
  repeat' first | with_reducible assumption | with_reducible apply hF | with_reducible apply refuseIn_keeps | with_reducible apply sendResp_keeps | split

theorem execPclRegWr_keeps {p : Kept} {s : State} {a0 a1 a2} (h : Keeps p s) {t} (e : execPclRegWr a0 a1 a2 s = .next t) : Keeps p t := by
  unfold execPclRegWr at e
  repeat' (injection e with e; subst e)
  repeat' first | with_reducible assumption | with_reducible apply takeMsg_keeps | with_reducible apply pclReg_keeps | with_reducible apply regWrite_keeps | intro _

theorem readClears_keeps {p : Kept} {s : State} {a0 a1 a2} (h : Keeps p s) : Keeps p (readClears a0 a1 a2 s) := by
  unfold readClears
  repeat' first | with_reducible assumption | with_reducible apply setLiveF_keeps | with_reducible refine foldl_keeps (fun _ _ _ => ?_) ?_ | split

theorem readReg_keeps {p : Kept} {s : State} {a0 a1 a2 a3} (h : Keeps p s) : Keeps p (readReg a0 a1 a2 a3 s).2 := by
  unfold readReg
  repeat' first
    | with_reducible assumption | with_reducible apply regWord_keeps | with_reducible apply latch_keeps | with_reducible apply readClears_keeps
    | with_reducible apply mbData_keeps | with_reducible refine ite_keeps (fun _ => ?_) (fun _ => ?_) | split

theorem regRead_keeps {p : Kept} {s : State} {ms q off w} (h : Keeps p s) : Keeps p (regRead ms q off w s).2 := by
  unfold regRead
  dsimp only
  split
  · by_cases g : ms = 1
    · simp only [g, if_true]; exact unsupportedReq_keeps (countWidth_keeps h)
    · simp only [g, if_false]; exact countWidth_keeps h
  · split
    · exact readReg_keeps (readReg_keeps h)
    · exact readReg_keeps h

theorem busRead_keeps {p : Kept} {s : State} {a0 a1 a2 a3} (h : Keeps p s) : Keeps p (busRead a0 a1 a2 a3 s) := by
  unfold busRead
  repeat' first | with_reducible assumption | with_reducible apply regRead_keeps | fail_if_no_progress with_reducible apply keeps_upd

theorem execPclRegRd_keeps {p : Kept} {s : State} {a0 a1} (h : Keeps p s) {t} (e : execPclRegRd a0 a1 s = .next t) : Keeps p t := by
  unfold execPclRegRd at e
  repeat' (injection e with e; subst e)
  repeat' first | with_reducible assumption | with_reducible apply takeMsg_keeps | with_reducible apply pclReg_keeps | with_reducible apply regRead_keeps | intro _

theorem regResponse_keeps {p : Kept} {s : State} {a0 a1} (h : Keeps p s) : Keeps p (regResponse a0 a1 s) := by
  unfold regResponse
  repeat' first | with_reducible assumption | with_reducible apply spRespond_keeps | split

theorem execPclRegRsp_keeps {p : Kept} {s : State} {a0 a1} (h : Keeps p s) {t} (e : execPclRegRsp a0 a1 s = .next t) : Keeps p t := by
  unfold execPclRegRsp at e
  repeat' (injection e with e; subst e)
  repeat' first | with_reducible assumption | with_reducible apply takeMsg_keeps | with_reducible apply response_keeps | with_reducible apply regResponse_keeps | intro _

theorem execLatchRead_keeps {p : Kept} {s : State} {a0 a1 a2 a3} (h : Keeps p s) {t} (e : execLatchRead a0 a1 a2 a3 s = .next t) : Keeps p t := by
  unfold execLatchRead at e
  repeat' (injection e with e; subst e)
  repeat' first | with_reducible assumption | with_reducible apply viaBar_keeps | with_reducible apply busRead_keeps | intro _

theorem execRcRead_keeps {p : Kept} {s : State} {a0 a1 a2 a3} (h : Keeps p s) {t} (e : execRcRead a0 a1 a2 a3 s = .next t) : Keeps p t := by
  unfold execRcRead at e
  repeat' (injection e with e; subst e)
  repeat' first | with_reducible assumption | with_reducible apply viaBar_keeps | with_reducible apply busRead_keeps | intro _

theorem execRegisterWrite_keeps {p : Kept} {s : State} {a0 a1 a2 a3 a4 a5} (h : Keeps p s) {t} (e : execRegisterWrite a0 a1 a2 a3 a4 a5 s = .next t) : Keeps p t := by
  unfold execRegisterWrite at e
  repeat' (injection e with e; subst e)
  repeat' first | with_reducible assumption | with_reducible apply viaBar_keeps | with_reducible apply regWrite_keeps | intro _

/-! ### Validate -/

theorem validationDone_keeps {p : Kept} {s : State} {a0} (h : Keeps p s) : Keeps p (validationDone a0 s) := by
  unfold validationDone
  repeat' first
    | with_reducible assumption | with_reducible apply endGroup_keeps | with_reducible apply setGrp_keeps | with_reducible apply recordErr_keeps
    | with_reducible refine foldl_keeps (fun _ _ _ => ?_) ?_ | with_reducible refine ite_keeps (fun _ => ?_) (fun _ => ?_) | split

theorem execTxnValidationDone_keeps {p : Kept} {s : State} {a0} (h : Keeps p s) {t} (e : execTxnValidationDone a0 s = .next t) : Keeps p t := by
  unfold execTxnValidationDone at e
  repeat' (injection e with e; subst e)
  repeat' first | with_reducible assumption | with_reducible apply validationDone_keeps

/-! ### Commit -/

theorem hazardHook_keeps {p : Kept} {s s2 : State} {a0} (h : Keeps p s) (h2 : Keeps p s2) : Keeps p (hazardHook a0 s s2) := by
  unfold hazardHook
  repeat' first | with_reducible assumption | with_reducible apply hdClear_keeps | with_reducible refine ite_keeps (fun _ => ?_) (fun _ => ?_)

theorem clearBanks_keeps {p : Kept} {s : State} {c old new} (h : Keeps p s) : Keeps p (clearBanks c old new s) :=
  ite_keeps (fun _ => h) (fun _ => clearMem_keeps h)

theorem windowCommit_keeps {p : Kept} {s : State} {a0} (h : Keeps p s) : Keeps p (windowCommit a0 s) := by
  unfold windowCommit
  repeat' first | with_reducible assumption | with_reducible apply setCore_keeps | with_reducible apply clearBanks_keeps | with_reducible refine foldl_keeps (fun _ _ _ => ?_) ?_

theorem epochHook_keeps {p : Kept} {s s2 : State} (h : Keeps p s) (h2 : Keeps p s2) : Keeps p (epochHook s s2) := by
  unfold epochHook
  repeat' first
    | with_reducible assumption | with_reducible apply switchModel_keeps | with_reducible refine foldl_keeps (fun _ _ _ => ?_) ?_
    | with_reducible refine ite_keeps (fun _ => ?_) (fun _ => ?_)

theorem ungather_keeps {p : Kept} {s : State} {a0} (h : Keeps p s) : Keeps p (ungather a0 s) := by
  unfold ungather
  repeat' first | with_reducible assumption | with_reducible apply updStream_keeps | with_reducible refine foldl_keeps (fun _ _ _ => ?_) ?_

theorem channelHook_keeps {p : Kept} {s s2 : State} (h : Keeps p s) (h2 : Keeps p s2) : Keeps p (channelHook s s2) := by
  unfold channelHook
  repeat' first | with_reducible assumption | with_reducible apply ungather_keeps | with_reducible refine foldl_keeps (fun _ _ _ => ?_) ?_ | with_reducible refine ite_keeps (fun _ => ?_) (fun _ => ?_)

theorem reflush_keeps {p : Kept} {s : State} (h : Keeps p s) : Keeps p (reflush s) := by
  unfold reflush
  repeat' first
    | with_reducible assumption | with_reducible apply sendFlush_keeps | with_reducible refine foldl_keeps (fun _ _ _ => ?_) ?_
    | with_reducible refine ite_keeps (fun _ => ?_) (fun _ => ?_)

theorem tallyHook_keeps {p : Kept} {s s2 : State} {a0 a1} (h : Keeps p s) (h2 : Keeps p s2) : Keeps p (tallyHook a0 a1 s s2) := by
  unfold tallyHook
  repeat' first | with_reducible assumption | with_reducible apply setTally_keeps | with_reducible refine foldl_keeps (fun _ _ _ => ?_) ?_ | with_reducible refine ite_keeps (fun _ => ?_) (fun _ => ?_)

theorem enableHook_keeps {p : Kept} {s s2 : State} {a0} (h : Keeps p s) (h2 : Keeps p s2) : Keeps p (enableHook a0 s s2) := by
  unfold enableHook
  repeat' first | with_reducible assumption | with_reducible apply tryTrain_keeps | with_reducible apply linkGone_keeps | with_reducible refine ite_keeps (fun _ => ?_) (fun _ => ?_)

theorem moduleHook_keeps {p : Kept} {s s2 : State} (h : Keeps p s) (h2 : Keeps p s2) : Keeps p (moduleHook s s2) := by
  unfold moduleHook
  repeat' first
    | with_reducible assumption | with_reducible apply sendHello_keeps | with_reducible refine foldl_keeps (fun _ _ _ => ?_) ?_
    | fail_if_no_progress with_reducible apply keeps_upd | with_reducible refine ite_keeps (fun _ => ?_) (fun _ => ?_)

theorem copyPage_keeps {p : Kept} {s : State} {a0} (h : Keeps p s) : Keeps p (copyPage a0 s) := by
  unfold copyPage
  repeat' first | with_reducible assumption | with_reducible apply windowCommit_keeps | with_reducible apply commitPage_keeps | split

theorem beatHook_keeps {p : Kept} {s s2 : State} (h : Keeps p s) (h2 : Keeps p s2) : Keeps p (beatHook s s2) := by
  unfold beatHook
  repeat' first | with_reducible assumption | with_reducible apply setLive_keeps | fail_if_no_progress with_reducible apply keeps_beat | with_reducible refine ite_keeps (fun _ => ?_) (fun _ => ?_)

theorem kvHook_keeps {p : Kept} {s s2 : State} (h : Keeps p s) (h2 : Keeps p s2) : Keeps p (kvHook s s2) := by
  unfold kvHook
  repeat' first
    | with_reducible assumption | with_reducible apply updStream_keeps | with_reducible refine foldl_keeps (fun _ _ _ => ?_) ?_
    | with_reducible refine ite_keeps (fun _ => ?_) (fun _ => ?_)

theorem tenantHook_keeps {p : Kept} {s s2 : State} {a0} (h : Keeps p s) (h2 : Keeps p s2) : Keeps p (tenantHook a0 s s2) := by
  unfold tenantHook
  repeat' first
    | with_reducible assumption | with_reducible apply setBalance_keeps | with_reducible refine foldl_keeps (fun _ _ _ => ?_) ?_
    | with_reducible refine ite_keeps (fun _ => ?_) (fun _ => ?_)

theorem mioHook_keeps {p : Kept} {s : State} {a0} (h : Keeps p s) : Keeps p (mioHook a0 s) := by
  unfold mioHook
  repeat' first | with_reducible assumption | with_reducible apply renumber_keeps | with_reducible refine foldl_keeps (fun _ _ _ => ?_) ?_ | with_reducible refine ite_keeps (fun _ => ?_) (fun _ => ?_)

theorem pageHook_keeps {p : Kept} {s s2 : State} {a0 a2} (h : Keeps p s) (h2 : Keeps p s2) : Keeps p (pageHook a0 s a2 s2) := by
  unfold pageHook
  repeat' first
    | with_reducible assumption | with_reducible apply beatHook_keeps | with_reducible apply hazardHook_keeps | with_reducible apply tallyHook_keeps
    | with_reducible apply grantAll_keeps | with_reducible apply telCommit_keeps | with_reducible apply enableHook_keeps
    | with_reducible apply moduleHook_keeps | with_reducible apply epochHook_keeps | with_reducible apply channelHook_keeps
    | with_reducible apply kvHook_keeps | with_reducible apply tenantHook_keeps | with_reducible apply mioHook_keeps
    | with_reducible refine ite_keeps (fun _ => ?_) (fun _ => ?_) | split

theorem groupDone_keeps {p : Kept} {s : State} {a1} (h : Keeps p s) : Keeps p (groupDone s a1) := by
  unfold groupDone
  repeat' first | with_reducible assumption | with_reducible apply planCommitted_keeps | with_reducible apply loadCommitted_keeps | with_reducible apply setGrp_keeps

theorem commitGroups_keeps {p : Kept} {s : State} {a0 a1} (h : Keeps p s) : Keeps p (commitGroups a0 a1 s) := by
  unfold commitGroups
  repeat' first
    | with_reducible assumption | with_reducible apply copyPage_keeps | with_reducible apply pageHook_keeps | with_reducible apply groupDone_keeps
    | with_reducible apply reflush_keeps | with_reducible refine foldl_keeps (fun _ _ _ => ?_) ?_
    | with_reducible refine ite_keeps (fun _ => ?_) (fun _ => ?_)

theorem nowApplyDone_keeps {p : Kept} {s : State} {a0 a1} (h : Keeps p s) : Keeps p (nowApplyDone a0 a1 s) := by
  unfold nowApplyDone
  repeat' first | with_reducible assumption | with_reducible apply commitGroups_keeps | with_reducible refine ite_keeps (fun _ => ?_) (fun _ => ?_)

theorem execTxnNowApplyDone_keeps {p : Kept} {s : State} {a0 a1} (h : Keeps p s) {t} (e : execTxnNowApplyDone a0 a1 s = .next t) : Keeps p t := by
  unfold execTxnNowApplyDone at e
  repeat' (injection e with e; subst e)
  repeat' first | with_reducible assumption | with_reducible apply nowApplyDone_keeps

/-! ### Memory -/

theorem emptBody_keeps {p : Kept} {s : State} {a0} (h : Keeps p s) : IKeeps p (emptBody a0 s) := by
  unfold emptBody
  repeat' first
    | with_reducible assumption | with_reducible apply ikeeps_fault | with_reducible apply ikeeps_block | with_reducible apply ikeeps_done
    | with_reducible refine gate_keeps ?_ (by assumption) | with_reducible apply useTag_keeps | split | dsimp only

theorem storeCheck_keeps {p : Kept} {s : State} {a0 a1} (h : Keeps p s) : Keeps p (storeCheck a0 a1 s).1 := by
  unfold storeCheck
  repeat' first | with_reducible assumption | with_reducible apply partialCheck_keeps | split

theorem loadBody_keeps {p : Kept} {s : State} {a0 a1} (h : Keeps p s) : IKeeps p (loadBody a0 a1 s) := by
  unfold loadBody
  repeat' first
    | with_reducible assumption | with_reducible apply ikeeps_fault | with_reducible apply ikeeps_block | with_reducible apply ikeeps_done
    | with_reducible refine gate_keeps ?_ (by assumption) | with_reducible apply withReads_keeps | with_reducible apply updThread_keeps
    | with_reducible apply useTag_keeps | split | intro _ | dsimp only

theorem execLdf_keeps {p : Kept} {s : State} {a0} (h : Keeps p s) {t} (e : execLdf a0 s = .next t) : Keeps p t := by
  unfold execLdf at e
  repeat' (injection e with e; subst e)
  repeat' first | with_reducible assumption | with_reducible apply issue_keeps | with_reducible apply loadBody_keeps | intro _

theorem execLdk_keeps {p : Kept} {s : State} {a0} (h : Keeps p s) {t} (e : execLdk a0 s = .next t) : Keeps p t := by
  unfold execLdk at e
  repeat' (injection e with e; subst e)
  repeat' first | with_reducible assumption | with_reducible apply issue_keeps | with_reducible apply loadBody_keeps | intro _

theorem storeBody_keeps {p : Kept} {s : State} {a0 a1} (h : Keeps p s) : IKeeps p (storeBody a0 a1 s) := by
  unfold storeBody
  repeat' first
    | with_reducible assumption | with_reducible apply ikeeps_fault | with_reducible apply ikeeps_block | with_reducible apply ikeeps_done
    | with_reducible refine gate_keeps ?_ (by assumption) | with_reducible apply storeCheck_keeps | with_reducible apply useTag_keeps
    | with_reducible apply useStore_keeps | split | dsimp only

theorem execStf_keeps {p : Kept} {s : State} {a0} (h : Keeps p s) {t} (e : execStf a0 s = .next t) : Keeps p t := by
  unfold execStf at e
  repeat' (injection e with e; subst e)
  repeat' first | with_reducible assumption | with_reducible apply issue_keeps | with_reducible apply storeBody_keeps | intro _

theorem execSte_keeps {p : Kept} {s : State} {a0} (h : Keeps p s) {t} (e : execSte a0 s = .next t) : Keeps p t := by
  unfold execSte at e
  repeat' (injection e with e; subst e)
  repeat' first | with_reducible assumption | with_reducible apply issue_keeps | with_reducible apply storeBody_keeps | intro _

theorem execEmpt_keeps {p : Kept} {s : State} {a0} (h : Keeps p s) {t} (e : execEmpt a0 s = .next t) : Keeps p t := by
  unfold execEmpt at e
  repeat' (injection e with e; subst e)
  repeat' first | with_reducible assumption | with_reducible apply issue_keeps | with_reducible apply emptBody_keeps | intro _

/-! ### ServicePort -/

theorem updSp_keeps {p : Kept} {s : State} {a0} (h : Keeps p s) : Keeps p (updSp a0 s) := by
  unfold updSp
  repeat' first | with_reducible assumption | fail_if_no_progress with_reducible apply keeps_upd

theorem emptyBank_keeps {p : Kept} {s : State} {a0} (h : Keeps p s) : Keeps p (emptyBank a0 s) := by
  unfold emptyBank
  repeat' first | with_reducible assumption | with_reducible apply updComp_keeps

theorem dropStaging_keeps {p : Kept} {s : State} (h : Keeps p s) : Keeps p (dropStaging s) := by
  unfold dropStaging
  repeat' first | with_reducible assumption | with_reducible apply updSp_keeps | with_reducible apply emptyBank_keeps | with_reducible refine ite_keeps (fun _ => ?_) (fun _ => ?_) | split

theorem closeSession_keeps {p : Kept} {s : State} (h : Keeps p s) : Keeps p (closeSession s) := by
  unfold closeSession
  repeat' first | with_reducible assumption | with_reducible apply dropStaging_keeps | with_reducible apply updSp_keeps

theorem execSpSessionTimeout_keeps {p : Kept} {s : State} (h : Keeps p s) {t} (e : execSpSessionTimeout s = .next t) : Keeps p t := by
  unfold execSpSessionTimeout at e
  repeat' (injection e with e; subst e)
  repeat' first | with_reducible assumption | with_reducible apply closeSession_keeps

theorem spFirmware_keeps {p : Kept} {s : State} {a0} (hF : ∀ s, Keeps p s → Keeps p (a0 s).2) (h : Keeps p s) : Keeps p (spFirmware a0 s).2 := by
  unfold spFirmware
  repeat' first | with_reducible assumption | with_reducible apply hF | split

theorem spReplay_keeps {p : Kept} {s : State} {a0 a1} (h : Keeps p s) : Keeps p (spReplay a0 a1 s) := by
  unfold spReplay
  repeat' first | with_reducible assumption | with_reducible apply emit_keeps | with_reducible apply countUp_keeps

theorem spAnswer_keeps {p : Kept} {s : State} {a0 a1 a2 a3} (h : Keeps p s) : Keeps p (spAnswer a0 a1 a2 a3 s) := by
  unfold spAnswer
  repeat' first | with_reducible assumption | with_reducible apply spRespond_keeps

theorem malformed_keeps {p : Kept} {s : State} {a0 a1 a2} (h : Keeps p s) : Keeps p (malformed a0 a1 a2 s) := by
  unfold malformed
  repeat' first
    | with_reducible assumption | with_reducible apply countUp_keeps | with_reducible apply spReplay_keeps | with_reducible apply spAnswer_keeps
    | with_reducible refine ite_keeps (fun _ => ?_) (fun _ => ?_) | split

theorem spRequest_keeps {p : Kept} {s : State} {a0 a1 a2} (hF : ∀ s, Keeps p s → Keeps p (a2 s)) (h : Keeps p s) : Keeps p (spRequest a0 a1 a2 s) := by
  unfold spRequest
  repeat' first
    | with_reducible assumption | with_reducible apply hF | with_reducible apply spReplay_keeps | with_reducible apply spAnswer_keeps
    | with_reducible apply updSp_keeps | with_reducible apply countUp_keeps | with_reducible refine ite_keeps (fun _ => ?_) (fun _ => ?_) | split

theorem spNow_keeps {p : Kept} {s : State} {a0 a1 a2} (hF : ∀ s, Keeps p s → Keeps p (a2 s).2) (h : Keeps p s) : Keeps p (spNow a0 a1 a2 s) := by
  unfold spNow
  repeat' first | with_reducible assumption | with_reducible apply hF | with_reducible apply spRequest_keeps | with_reducible apply spAnswer_keeps | intro _

theorem spCode_keeps {p : Kept} {s : State} {a0 a1 a2} (hF : ∀ s, Keeps p s → Keeps p (a2 s).2) (h : Keeps p s) : Keeps p (spCode a0 a1 a2 s) := by
  unfold spCode
  repeat' first | with_reducible assumption | with_reducible apply spNow_keeps

theorem openStaging_keeps {p : Kept} {s : State} {a0 a1 a2} (h : Keeps p s) : Keeps p (openStaging a0 a1 a2 s).2 := by
  unfold openStaging
  repeat' first
    | with_reducible assumption | with_reducible apply dropStaging_keeps | with_reducible apply updComp_keeps | with_reducible apply emptyBank_keeps
    | with_reducible apply updSp_keeps | with_reducible refine ite_keeps (fun _ => ?_) (fun _ => ?_) | split

theorem execStageBegin_keeps {p : Kept} {s : State} {a0 a1 a2} (h : Keeps p s) {t} (e : execStageBegin a0 a1 a2 s = .next t) : Keeps p t := by
  unfold execStageBegin at e
  repeat' (injection e with e; subst e)
  repeat' first | with_reducible assumption | with_reducible apply spCode_keeps | with_reducible apply openStaging_keeps | intro _

theorem spReg_keeps {p : Kept} {s : State} {a0 a1 a2 a3 a4 a5 a6} (hF : ∀ s, Keeps p s → Keeps p (a6 s)) (h : Keeps p s) : Keeps p (spReg a0 a1 a2 a3 a4 a5 a6 s) := by
  unfold spReg
  repeat' first
    | with_reducible assumption | with_reducible apply hF | with_reducible apply spAnswer_keeps | with_reducible apply countEnd_keeps
    | with_reducible apply attachArrive_keeps | with_reducible refine ite_keeps (fun _ => ?_) (fun _ => ?_)

theorem putStaging_keeps {p : Kept} {s : State} {a0 a1 a2 a3} (h : Keeps p s) : Keeps p (putStaging a0 a1 a2 a3 s).2 := by
  unfold putStaging
  repeat' first | with_reducible assumption | with_reducible apply flashFails_keeps | with_reducible apply dropStaging_keeps | with_reducible apply updSp_keeps | split

theorem execStageData_keeps {p : Kept} {s : State} {a0 a1 a2 a3} (h : Keeps p s) {t} (e : execStageData a0 a1 a2 a3 s = .next t) : Keeps p t := by
  unfold execStageData at e
  repeat' (injection e with e; subst e)
  repeat' first | with_reducible assumption | with_reducible apply spCode_keeps | with_reducible apply putStaging_keeps | intro _

theorem execServicePortLink_keeps {p : Kept} {s : State} {a0} (h : Keeps p s) {t} (e : execServicePortLink a0 s = .next t) : Keeps p t := by
  unfold execServicePortLink at e
  repeat' (injection e with e; subst e)
  repeat' first | with_reducible assumption | with_reducible apply updSp_keeps

theorem submitRecord_keeps {p : Kept} {s : State} {a0 a1} (h : Keeps p s) : Keeps p (submitRecord a0 a1 s).2 := by
  unfold submitRecord
  repeat' first | with_reducible assumption | with_reducible apply recordErrAny_keeps | with_reducible apply recPut_keeps | split

theorem endStaging_keeps {p : Kept} {s : State} {a0 a1 a2} (h : Keeps p s) : Keeps p (endStaging a0 a1 a2 s).2 := by
  unfold endStaging
  repeat' first
    | with_reducible assumption | with_reducible apply dropStaging_keeps | with_reducible apply updSp_keeps | with_reducible apply submitRecord_keeps
    | with_reducible apply updComp_keeps | with_reducible apply flashFails_keeps | split

theorem execStageEnd_keeps {p : Kept} {s : State} {a0 a1 a2} (h : Keeps p s) {t} (e : execStageEnd a0 a1 a2 s = .next t) : Keeps p t := by
  unfold execStageEnd at e
  repeat' (injection e with e; subst e)
  repeat' first | with_reducible assumption | with_reducible apply spCode_keeps | with_reducible apply endStaging_keeps | intro _

theorem recordBytes_keeps {p : Kept} {s : State} {a0 a1 a2} (h : Keeps p s) : Keeps p (recordBytes a0 a1 a2 s).2 := by
  unfold recordBytes
  repeat' first | with_reducible assumption | split

theorem execRecordRead_keeps {p : Kept} {s : State} {a0 a1 a2 a3} (h : Keeps p s) {t} (e : execRecordRead a0 a1 a2 a3 s = .next t) : Keeps p t := by
  unfold execRecordRead at e
  repeat' (injection e with e; subst e)
  repeat' first | with_reducible assumption | with_reducible apply spNow_keeps | with_reducible apply recordBytes_keeps | intro _

theorem execSpRegRd_keeps {p : Kept} {s : State} {a0 a1 a2 a3} (h : Keeps p s) {t} (e : execSpRegRd a0 a1 a2 a3 s = .next t) : Keeps p t := by
  unfold execSpRegRd at e
  repeat' (injection e with e; subst e)
  repeat' first
    | with_reducible assumption | with_reducible apply spRequest_keeps | with_reducible apply spReg_keeps | with_reducible apply regRead_keeps
    | with_reducible apply spAnswer_keeps | intro _

theorem execMalformedDatagram_keeps {p : Kept} {s : State} {a0 a1 a2} (h : Keeps p s) {t} (e : execMalformedDatagram a0 a1 a2 s = .next t) : Keeps p t := by
  unfold execMalformedDatagram at e
  repeat' (injection e with e; subst e)
  repeat' first | with_reducible assumption | with_reducible apply malformed_keeps

theorem icmp_keeps {p : Kept} {s : State} {a0 a1} (h : Keeps p s) : Keeps p (icmp a0 a1 s) := by
  unfold icmp
  repeat' first | with_reducible assumption | with_reducible apply emit_keeps | with_reducible refine ite_keeps (fun _ => ?_) (fun _ => ?_)

theorem execIcmpv6Request_keeps {p : Kept} {s : State} {a0 a1} (h : Keeps p s) {t} (e : execIcmpv6Request a0 a1 s = .next t) : Keeps p t := by
  unfold execIcmpv6Request at e
  repeat' (injection e with e; subst e)
  repeat' first | with_reducible assumption | with_reducible apply icmp_keeps

theorem execSpActivate_keeps {p : Kept} {s : State} {a0 a1} (h : Keeps p s) {t} (e : execSpActivate a0 a1 s = .next t) : Keeps p t := by
  unfold execSpActivate at e
  repeat' (injection e with e; subst e)
  repeat' first | with_reducible assumption | with_reducible apply spCode_keeps | with_reducible apply spFirmware_keeps | with_reducible apply fwActivate_keeps | intro _

theorem spHello_keeps {p : Kept} {s : State} {a0} (h : Keeps p s) : Keeps p (spHello a0 s).2 := by
  unfold spHello
  repeat' first | with_reducible assumption | with_reducible apply updSp_keeps | with_reducible apply regRead_keeps | with_reducible refine ite_keeps (fun _ => ?_) (fun _ => ?_) | split

theorem execSpRestart_keeps {p : Kept} {s : State} {a0 a1 a2} (h : Keeps p s) {t} (e : execSpRestart a0 a1 a2 s = .next t) : Keeps p t := by
  unfold execSpRestart at e
  repeat' (injection e with e; subst e)
  repeat' first | with_reducible assumption | with_reducible apply spCode_keeps | with_reducible apply spFirmware_keeps | with_reducible apply fwRestart_keeps | intro _

theorem execSpHello_keeps {p : Kept} {s : State} {a0 a1} (h : Keeps p s) {t} (e : execSpHello a0 a1 s = .next t) : Keeps p t := by
  unfold execSpHello at e
  repeat' (injection e with e; subst e)
  repeat' first | with_reducible assumption | with_reducible apply spNow_keeps | with_reducible apply spHello_keeps | intro _

theorem execSpRegWr_keeps {p : Kept} {s : State} {a0 a1 a2 a3 a4 a5} (h : Keeps p s) {t} (e : execSpRegWr a0 a1 a2 a3 a4 a5 s = .next t) : Keeps p t := by
  unfold execSpRegWr at e
  repeat' (injection e with e; subst e)
  repeat' first
    | with_reducible assumption | with_reducible apply spRequest_keeps | with_reducible apply spReg_keeps | with_reducible apply spAnswer_keeps
    | with_reducible apply regWrite_keeps | intro _

/-! ### Tick -/

theorem beatEvent_keeps {p : Kept} {s : State} {a0} (h : Keeps p s) : Keeps p (beatEvent a0 s) := by
  unfold beatEvent
  repeat' first | with_reducible assumption | with_reducible apply setLive_keeps

theorem beatLoses_keeps {p : Kept} {s : State} {a0} (h : Keeps p s) : ∃ b m, Keeps (p.1, (p.2.1.1, b), m) (beatLoses a0 s) := by
  have hp : Keeps (p.1, (p.2.1.1, p.2.1.2), p.2.2) s := h
  unfold beatLoses
  split
  · have h1 : s.pending = p.1 := congrArg Prod.fst h.1
    have h2 : s.beat.now = p.2.1.1 := congrArg (fun x => x.2.1.1) h.1
    have key : Keeps (p.1, (p.2.1.1, p.2.1.1), false) { s with beat := { s.beat with mode := .lost, last := s.beat.now } } :=
      ⟨Prod.ext h1 (Prod.ext (Prod.ext h2 h2) rfl), ⟨h.2.1, h.2.2, h.2.3, h.2.4, h.2.5, h.2.6, h.2.7⟩⟩
    exact ⟨_, _, fatal_keeps (closingRecord_keeps (planBeatLost_keeps (powerBeatLost_keeps (loseBeatGroups_keeps
      (recordErrAny_keeps (beatEvent_keeps key))))))⟩
  · exact ⟨_, _, hp⟩

theorem execBeatLost_keeps {p : Kept} {s : State} {a0} (h : Keeps p s) {t} (e : execBeatLost a0 s = .next t) :
    ∃ b m, Keeps (p.1, (p.2.1.1, b), m) t := by
  unfold execBeatLost at e
  injection e with e; subst e
  exact beatLoses_keeps h

theorem sendBeat_keeps {p : Kept} {s : State} {a0} (h : Keeps p s) : Keeps p (sendBeat a0 s) := by
  unfold sendBeat
  repeat' first
    | with_reducible assumption | with_reducible apply freshWord_keeps | with_reducible apply sendFlit_keeps | with_reducible apply setLink_keeps
    | with_reducible refine ite_keeps (fun _ => ?_) (fun _ => ?_)

theorem sendMarkers_keeps {p : Kept} {s : State} (h : Keeps p s) : Keeps p (sendMarkers s) := by
  unfold sendMarkers
  repeat' first | with_reducible assumption | with_reducible apply sendBeat_keeps | with_reducible refine foldl_keeps (fun _ _ _ => ?_) ?_ | with_reducible refine ite_keeps (fun _ => ?_) (fun _ => ?_)

theorem beginPoll_keeps {p : Kept} {s : State} (h : Keeps p s) : Keeps p (beginPoll s) := by
  unfold beginPoll
  repeat' first | with_reducible assumption | with_reducible apply countUp_keeps | with_reducible apply updServing_keeps | with_reducible refine ite_keeps (fun _ => ?_) (fun _ => ?_)

theorem wholeTick_keeps {p : Kept} {s : State} {now b lock} (h : Keeps p s) : Keeps (p.1, (b, p.2.1.2), true) (wholeTick now b lock s) := by
  have h1 : s.pending = p.1 := congrArg Prod.fst h.1
  have h2 : s.beat.last = p.2.1.2 := congrArg (fun x => x.2.1.2) h.1
  unfold wholeTick
  dsimp only
  apply awaitTick_keeps
  apply returnTick_keeps
  apply beginRestart_keeps
  apply bootTick_keeps
  apply powerTick_keeps
  apply beginPoll_keeps
  have key : Keeps (p.1, (b, p.2.1.2), true) { s with beat := { s.beat with
      mode := .locked, now := b, tickAt := now, edgeSince := false, lossPeriod := periodNs s, lockAt := none } } :=
    ⟨Prod.ext h1 (Prod.ext (Prod.ext rfl h2) rfl), ⟨h.2.1, h.2.2, h.2.3, h.2.4, h.2.5, h.2.6, h.2.7⟩⟩
  refine ite_keeps (fun _ => ?_) (fun _ => issueAll_keeps ?_) <;>
    exact gyleTick_keeps (refill_keeps (sendMarkers_keeps (commitGroups_keeps (tickBefore_keeps
      (ite_keeps (fun _ => tickLock_keeps (beatEvent_keeps key)) (fun _ => key))))))

theorem lockedArrival_keeps {p : Kept} {s : State} {a0 a1 a2} (h : Keeps p s) : Keeps p (lockedArrival a0 a1 a2 s) := by
  unfold lockedArrival
  repeat' first
    | with_reducible assumption | with_reducible apply noteArrival_keeps | fail_if_no_progress with_reducible apply keeps_beat
    | with_reducible refine ite_keeps (fun _ => ?_) (fun _ => ?_) | split

theorem beatTick_keeps {p : Kept} {s : State} {a0} (h : Keeps p s) {t} (e : beatTick a0 s = .next t) : ∃ b, Keeps (p.1, b) t := by
  unfold beatTick at e
  split at e
  · injection e with e; subst e; exact ⟨p.2, h⟩
  · split at e
    · split at e
      · injection e
      · injection e with e; subst e; exact ⟨_, wholeTick_keeps h⟩
    · injection e with e; subst e; exact ⟨_, wholeTick_keeps h⟩
    · injection e with e; subst e; exact ⟨p.2, h⟩

theorem sourceLocks_keeps {p : Kept} {s : State} {a0 a1} (h : Keeps p s) : ∃ b, Keeps (p.1, b) (sourceLocks a0 a1 s) := by
  unfold sourceLocks
  split
  · exact ⟨_, wholeTick_keeps h⟩
  · exact ⟨p.2, keeps_beat h⟩

theorem acquire_keeps {p : Kept} {s : State} {a0 a1} (h : Keeps p s) : ∃ b, Keeps (p.1, b) (acquire a0 a1 s) := by
  unfold acquire
  split
  · exact ⟨p.2, keeps_beat h⟩
  · dsimp only
    split
    · exact sourceLocks_keeps (noteArrival_keeps (keeps_beat h))
    · exact ⟨p.2, noteArrival_keeps (keeps_beat h)⟩

theorem arrival_keeps {p : Kept} {s : State} {a0 a1 a2} (h : Keeps p s) : ∃ b, Keeps (p.1, b) (arrival a0 a1 a2 s) := by
  unfold arrival
  cases a2
  all_goals
    dsimp only
    split
    · exact ⟨p.2, setCand_keeps h⟩
    · split
      · exact acquire_keeps (setCand_keeps h)
      · exact ⟨p.2, lockedArrival_keeps (setCand_keeps h)⟩
      · exact ⟨p.2, setCand_keeps h⟩

theorem execBeatFrame_keeps {p : Kept} {s : State} {a0 a1} (h : Keeps p s) {t} (e : execBeatFrame a0 a1 s = .next t) :
    ∃ b, Keeps (p.1, b) t := by
  injection e with e; subst e
  exact arrival_keeps h

theorem execBeatMarker_keeps {p : Kept} {s : State} {a0 a1 a2} (h : Keeps p s) {t} (e : execBeatMarker a0 a1 a2 s = .next t) :
    ∃ b, Keeps (p.1, b) t := by
  injection e with e; subst e
  have hc : Keeps p (fecCorrected a0.val a2.corrected s) := fecCorrected_keeps h
  unfold recvFlit
  dsimp only
  split
  · exact ⟨p.2, hc⟩
  · split
    iterate 2
      · split
        · exact arrival_keeps hc
        · exact ⟨p.2, hc⟩
    · split
      · exact ⟨p.2, hc⟩
      · split
        · exact ⟨p.2, flitFails_keeps hc⟩
        · exact arrival_keeps (flitTaken_keeps hc)
    · exact ⟨p.2, hc⟩

theorem execBeatTick_keeps {p : Kept} {s : State} {a0} (h : Keeps p s) {t} (e : execBeatTick a0 s = .next t) :
    ∃ b, Keeps (p.1, b) t := beatTick_keeps h e

/-! ### Vector -/

theorem writeV_keeps {p : Kept} {s : State} {a0 a1} (h : Keeps p s) : IKeeps p (writeV a0 a1 s) := by
  unfold writeV
  repeat' first | with_reducible assumption | with_reducible apply ikeeps_done | with_reducible apply updThread_keeps

theorem vfmaBody_keeps {p : Kept} {s : State} {a0} (h : Keeps p s) : IKeeps p (vfmaBody a0 s) := by
  unfold vfmaBody
  repeat' first | with_reducible assumption | with_reducible apply writeV_keeps

theorem writeLane_keeps {p : Kept} {s : State} {a0 a1} (h : Keeps p s) : IKeeps p (writeLane a0 a1 s) := by
  unfold writeLane
  repeat' first | with_reducible assumption | with_reducible apply ikeeps_done | with_reducible apply updThread_keeps

theorem vsumBody_keeps {p : Kept} {s : State} {a0} (h : Keeps p s) : IKeeps p (vsumBody a0 s) := by
  unfold vsumBody
  repeat' first | with_reducible assumption | with_reducible apply writeLane_keeps

theorem execVsum_keeps {p : Kept} {s : State} {a0} (h : Keeps p s) {t} (e : execVsum a0 s = .next t) : Keeps p t := by
  unfold execVsum at e
  repeat' (injection e with e; subst e)
  repeat' first | with_reducible assumption | with_reducible apply issue_keeps | with_reducible apply vsumBody_keeps | intro _

theorem vec2_keeps {p : Kept} {s : State} {a0 a1 a2 a3} (h : Keeps p s) : Keeps p (vec2 a0 a1 a2 a3 s) := by
  unfold vec2
  repeat' first | with_reducible assumption | with_reducible apply issue_keeps | with_reducible apply writeV_keeps | split | intro _

theorem execVmul_keeps {p : Kept} {s : State} {a0} (h : Keeps p s) {t} (e : execVmul a0 s = .next t) : Keeps p t := by
  unfold execVmul at e
  repeat' (injection e with e; subst e)
  repeat' first | with_reducible assumption | with_reducible apply vec2_keeps

theorem vmovaBody_keeps {p : Kept} {s : State} {a0} (h : Keeps p s) : IKeeps p (vmovaBody a0 s) := by
  unfold vmovaBody
  repeat' first | with_reducible assumption | with_reducible apply ikeeps_held | with_reducible apply writeV_keeps | with_reducible refine ite_ikeeps (fun _ => ?_) (fun _ => ?_)

theorem execVmova_keeps {p : Kept} {s : State} {a0} (h : Keeps p s) {t} (e : execVmova a0 s = .next t) : Keeps p t := by
  unfold execVmova at e
  repeat' (injection e with e; subst e)
  repeat' first | with_reducible assumption | with_reducible apply issue_keeps | with_reducible apply vmovaBody_keeps | intro _

theorem execVmin_keeps {p : Kept} {s : State} {a0} (h : Keeps p s) {t} (e : execVmin a0 s = .next t) : Keeps p t := by
  unfold execVmin at e
  repeat' (injection e with e; subst e)
  repeat' first | with_reducible assumption | with_reducible apply vec2_keeps

theorem execVmovs_keeps {p : Kept} {s : State} {a0} (h : Keeps p s) {t} (e : execVmovs a0 s = .next t) : Keeps p t := by
  unfold execVmovs at e
  repeat' (injection e with e; subst e)
  repeat' first | with_reducible assumption | with_reducible apply issue_keeps | with_reducible apply writeLane_keeps | intro _

theorem execVsub_keeps {p : Kept} {s : State} {a0} (h : Keeps p s) {t} (e : execVsub a0 s = .next t) : Keeps p t := by
  unfold execVsub at e
  repeat' (injection e with e; subst e)
  repeat' first | with_reducible assumption | with_reducible apply vec2_keeps

theorem execVadd_keeps {p : Kept} {s : State} {a0} (h : Keeps p s) {t} (e : execVadd a0 s = .next t) : Keeps p t := by
  unfold execVadd at e
  repeat' (injection e with e; subst e)
  repeat' first | with_reducible assumption | with_reducible apply vec2_keeps

theorem vec1_keeps {p : Kept} {s : State} {a0 a1 a2} (h : Keeps p s) : Keeps p (vec1 a0 a1 a2 s) := by
  unfold vec1
  repeat' first | with_reducible assumption | with_reducible apply issue_keeps | with_reducible apply writeV_keeps | intro _

theorem execRsq_keeps {p : Kept} {s : State} {a0} (h : Keeps p s) {t} (e : execRsq a0 s = .next t) : Keeps p t := by
  unfold execRsq at e
  repeat' (injection e with e; subst e)
  repeat' first | with_reducible assumption | with_reducible apply vec1_keeps

theorem execVmax_keeps {p : Kept} {s : State} {a0} (h : Keeps p s) {t} (e : execVmax a0 s = .next t) : Keeps p t := by
  unfold execVmax at e
  repeat' (injection e with e; subst e)
  repeat' first | with_reducible assumption | with_reducible apply vec2_keeps

theorem execVbcast_keeps {p : Kept} {s : State} {a0} (h : Keeps p s) {t} (e : execVbcast a0 s = .next t) : Keeps p t := by
  unfold execVbcast at e
  repeat' (injection e with e; subst e)
  repeat' first | with_reducible assumption | with_reducible apply issue_keeps | with_reducible apply writeV_keeps | intro _

theorem execVfma_keeps {p : Kept} {s : State} {a0} (h : Keeps p s) {t} (e : execVfma a0 s = .next t) : Keeps p t := by
  unfold execVfma at e
  repeat' (injection e with e; subst e)
  repeat' first | with_reducible assumption | with_reducible apply issue_keeps | with_reducible apply vfmaBody_keeps | intro _

theorem execExp2_keeps {p : Kept} {s : State} {a0} (h : Keeps p s) {t} (e : execExp2 a0 s = .next t) : Keeps p t := by
  unfold execExp2 at e
  repeat' (injection e with e; subst e)
  repeat' first | with_reducible assumption | with_reducible apply vec1_keeps

end Sys2Proof.Machine
end

