-- ==== Sys2Proof/WellFormed.lean ====
section
/-! DEFINITION. Which command terms stand for a command: lengths and numbers within what the manual gives the operands that the
types alone do not bound. -/

namespace Sys2Proof

/-- At most n bytes. -/
def bytesMax (n : Nat) (l : List Byte) : Bool := decide (l.length ≤ n)

/-- Exactly n bytes. -/
def bytesAre (n : Nat) (l : List Byte) : Bool := l.length == n

/-- Host physical addresses are 52 bits wide (R359). DEDUCED, log 63. -/
def hostOk (m : HostMem) : Bool := m.all fun q => decide (q.1 + q.2.length ≤ 2 ^ 52)

/-- A value within the width of its access (R46). DEDUCED, log 63. -/
def fitsWidth (w : Width) (v : BitVec 64) : Bool :=
  match w with
  | .w8 => decide (v.toNat < 2 ^ 8) | .w16 => decide (v.toNat < 2 ^ 16) | .w32 => decide (v.toNat < 2 ^ 32) | .w64 | .odd => true

/-- A CXL.mem access: an offset in the 256 MiB of the range, and at most one 64-byte line (R363). DEDUCED, log 63. -/
def hdmOk (addr len : Nat) (write : Option (List Byte)) : Bool :=
  decide (addr < 2 ^ 28) && (match write with
    | some l => l.length == len
    | none => true) && decide (len ≤ 64)

/-- The parts of a DOE object within its 262,144 bytes (R368). DEDUCED, log 63. -/
def doeOk (r : DoeReq) : Bool :=
  match r with
  | .spdm (.chunkSend _ l) => bytesMax 262144 l
  | .spdm (.vendor l) => bytesMax 262144 l
  | _ => true

/-- A link flit is 276 bytes (R375). -/
def flitOk (f : LinkFlit) : Bool := bytesAre 276 f.bytes

/-- Outcomes of CALs: sums of 12-bit results, at most two CALs in succession (R470). DEDUCED, log 63. -/
def calsOk (l : List (Nat × Nat)) : Bool := decide (l.length ≤ 2) && l.all fun q => decide (q.1 < 2 ^ 20) && decide (q.2 < 2 ^ 20)

/-- An echo request in one datagram. -/
def icmpOk (r : IcmpReq) : Bool :=
  match r with
  | .echo l => bytesMax 1232 l
  | .solicitation => true

/-- Whether a term stands for a command. DEDUCED, log 63. -/
def Instr.wf (i : Instr) : Bool :=
  match i with
  | .beatFrame _ _ => true
  | .beatMarker _ _ flit => flitOk flit
  | .beatTick _ => true
  | .beatLost _ => true
  | .candLockTimeout _ _ => true
  | .beatRestart => true
  | .registerWrite _ _ _ _ width value => fitsWidth width value
  | .rcRead _ _ _ _ => true
  | .latchRead _ _ _ _ => true
  | .txnAlloc _ => true
  | .blkTxnEnrol _ _ _ => true
  | .blkTxnWithdraw _ _ _ => true
  | .txnArm _ => true
  | .txnArmNow _ => true
  | .txnAbort _ => true
  | .txnRelease _ => true
  | .txnValidationDone _ => true
  | .txnNowApplyDone _ _ => true
  | .add _ => true
  | .sub _ => true
  | .mul _ => true
  | .and_ _ => true
  | .or_ _ => true
  | .xor_ _ => true
  | .shl _ => true
  | .shr _ => true
  | .sar _ => true
  | .min_ _ => true
  | .max_ _ => true
  | .minu _ => true
  | .maxu _ => true
  | .slt _ => true
  | .sltu _ => true
  | .addi _ => true
  | .andi _ => true
  | .ori _ => true
  | .xori _ => true
  | .shli _ => true
  | .shri _ => true
  | .sari _ => true
  | .slti _ => true
  | .lih _ => true
  | .nop _ => true
  | .halt _ => true
  | .rdsys _ => true
  | .beq _ => true
  | .bne _ => true
  | .blt _ => true
  | .bge _ => true
  | .bltu _ => true
  | .bgeu _ => true
  | .jal _ => true
  | .jr _ => true
  | .ldf _ => true
  | .ldk _ => true
  | .ste _ => true
  | .stf _ => true
  | .empt _ => true
  | .bind _ => true
  | .unbind _ => true
  | .dmq _ => true
  | .vadd _ => true
  | .vsub _ => true
  | .vmul _ => true
  | .vfma _ => true
  | .vmax _ => true
  | .vmin _ => true
  | .vsum _ => true
  | .vbcast _ => true
  | .vmova _ => true
  | .vmovs _ => true
  | .exp2 _ => true
  | .rsq _ => true
  | .mvd _ => true
  | .mma _ => true
  | .mmax _ => true
  | .cvt _ => true
  | .qcf _ => true
  | .topk _ => true
  | .snd _ => true
  | .sndr _ => true
  | .rdm _ => true
  | .tadd _ => true
  | .tset _ => true
  | .twait _ => true
  | .threadWake _ _ => true
  | .mvdStreamEnd _ _ => true
  | .mvdResult _ => true
  | .arrayStagingDone _ _ => true
  | .arrayStreamEnd _ => true
  | .arrayPassCheck _ _ => true
  | .arrayDrainDone _ _ => true
  | .edgeOccupancyEnd _ _ => true
  | .edgeResultReady _ _ => true
  | .hqPermitRelease _ => true
  | .dmaDescStart _ _ => true
  | .dmaDescEnd _ _ => true
  | .failureNotice _ => true
  | .cacheMissFill _ _ => true
  | .cacheWriteback _ _ => true
  | .fabricArrival _ => true
  | .bankClearDone _ _ => true
  | .spargeVisit _ _ _ => true
  | .cawRead _ _ => true
  | .cawWrite _ _ => true
  | .cawDiscard _ _ => true
  | .threadStart _ _ _ => true
  | .threadStop _ _ _ => true
  | .coreReset _ _ => true
  | .tagInit _ _ _ _ => true
  | .tallyAdd _ => true
  | .tallySet _ => true
  | .tallyRegistration _ => true
  | .tallyWakeReply _ => true
  | .tallyRegRetry _ _ => true
  | .tallyCmdAdd _ _ _ => true
  | .tallyCmdSet _ _ _ => true
  | .flushWaits _ _ => true
  | .routerHeader _ _ _ => true
  | .reduceAtRouter _ _ _ _ => true
  | .transitEntryRelease _ _ => true
  | .reduceAtOwner _ _ _ => true
  | .readAtMergePoint _ _ _ _ => true
  | .mergeEntryClose _ _ => true
  | .readReplyFanout _ _ => true
  | .flitParityError _ _ _ => true
  | .flitReplay _ _ _ _ => true
  | .flushMerge _ _ => true
  | .flushReduce _ _ => true
  | .stackReadRequest _ _ => true
  | .stackWriteRequest _ _ => true
  | .chStart _ _ _ => true
  | .chAbort _ _ _ => true
  | .chDescFetch _ _ _ => true
  | .chWaitRelease _ _ _ => true
  | .chPoolSpace _ _ _ => true
  | .chSegmentDone _ _ _ _ => true
  | .chDescEnd _ _ => true
  | .hdClear _ _ => true
  | .hdMarkWrite _ _ => true
  | .hdMarkClear _ _ => true
  | .load _ host => hostOk host
  | .loadContent => true
  | .loadThreadStart => true
  | .install _ host => hostOk host
  | .holdingQueryTimeout _ => true
  | .gristUnitArrival _ host => hostOk host
  | .release _ => true
  | .unload _ => true
  | .unloadTeardown => true
  | .epochDrainRelease _ _ => true
  | .stagedSwitchCopy _ _ _ => true
  | .stagedSwitchDone _ => true
  | .adInstall _ host => hostOk host
  | .adRetire _ => true
  | .adapterSlotFree _ => true
  | .hostPoll host => hostOk host
  | .admit_ host _ => hostOk host
  | .reqEnd => true
  | .rebind => true
  | .prefill host _ => hostOk host
  | .selection => true
  | .outputCollect _ => true
  | .stepComplete _ => true
  | .specVerifyIssue _ => true
  | .stCmdEnd _ => true
  | .stSel _ _ => true
  | .pxSel _ _ => true
  | .flushModel _ => true
  | .specSel _ _ => true
  | .hostLinkTrain _ _ _ _ => true
  | .hostLinkDown _ => true
  | .hostLinkUp _ => true
  | .hostReadData _ data => bytesMax 4096 data
  | .hostWriteObserved _ => true
  | .hostRequestError _ => true
  | .hostRequestTimeout _ => true
  | .h2dSnoop => true
  | .hdmAccess addr len write _ => hdmOk addr len write
  | .irqStatusClear _ _ => true
  | .msixUnmask _ => true
  | .ideCheckFail => true
  | .doeRequest req => doeOk req
  | .doeAbort => true
  | .linkTrainDone _ => true
  | .linkTrainTimeout _ => true
  | .linkRetryTimer _ => true
  | .linkHello _ flit => flitOk flit
  | .hsHello _ nonce _ => bytesAre 32 nonce
  | .hsReport _ _ _ _ _ => true
  | .hsKem _ ct => bytesAre 1568 ct
  | .hsFinish _ mac => bytesAre 32 mac
  | .hsTimeout _ => true
  | .linkFecLoss _ => true
  | .retrain _ _ => true
  | .linkDataFlit _ flit => flitOk flit
  | .linkCredit _ flit => flitOk flit
  | .linkAck _ flit => flitOk flit
  | .linkNak _ flit => flitOk flit
  | .linkFlitFail _ _ _ _ => true
  | .delayReqSend _ _ => true
  | .delayReq _ flit _ _ => flitOk flit
  | .delayRsp _ flit _ => flitOk flit
  | .pclWr _ _ => true
  | .pclRd _ _ => true
  | .flushReadReply _ => true
  | .pclWrAck _ _ => true
  | .pclRdData _ _ => true
  | .pclRegWr _ _ _ => true
  | .pclRegRd _ _ => true
  | .pclRegRsp _ _ => true
  | .svcReq _ _ => true
  | .svcRsp _ _ => true
  | .remoteTimeout _ => true
  | .rtCopy _ _ => true
  | .getReport _ => true
  | .getKemKey => true
  | .getCerts => true
  | .tenantBind => true
  | .tenantUnbind => true
  | .sessionOpen => true
  | .sessionClose => true
  | .ideKeys => true
  | .mbSubmit _ => true
  | .mbReset _ => true
  | .mbData _ _ => true
  | .signBucketRefill _ => true
  | .powerOnValid _ => true
  | .inputLow => true
  | .inputHigh => true
  | .inputRangeFail => true
  | .powerWindowEnd _ blades _ => blades.length == 4
  | .phaseFault _ _ _ => true
  | .phaseRetryTimer _ _ _ => true
  | .phaseCleanTimer _ _ _ => true
  | .converterFault _ _ => true
  | .breakerTrip _ _ _ => true
  | .kilnEntryDone _ => true
  | .vcoreStageEnd _ => true
  | .railStageDone _ calA calB => calsOk calA && calsOk calB
  | .powerRetry _ => true
  | .clockStepDone _ => true
  | .thermalEval _ => true
  | .currentLimitTimer _ _ => true
  | .coolantLoss => true
  | .connSuspect _ => true
  | .reclose _ _ _ => true
  | .conversionDone _ _ _ => true
  | .telRepeat _ _ => true
  | .injectedTrigger _ _ => true
  | .cal _ _ => true
  | .calCover _ _ => true
  | .calDone _ z y _ => calsOk [(z, y)]
  | .telemStale _ _ => true
  | .threadFaultClassify _ _ => true
  | .faultSuspend _ _ => true
  | .planArm _ _ _ => true
  | .planApply _ => true
  | .planResume _ => true
  | .floorMapRetry _ => true
  | .seBootDone => true
  | .mcBootDone _ _ hub => hub.length == 4 && hub.all calsOk
  | .startupFieldsTimeout => true
  | .selftestDone _ _ _ => true
  | .selftestTimeout _ => true
  | .spHello _ _ => true
  | .spRegRd _ _ _ _ => true
  | .spRegWr _ _ _ _ _ _ => true
  | .stageBegin _ _ _ => true
  | .stageData _ _ data _ => bytesMax 1212 data
  | .stageEnd _ digest _ => bytesAre 32 digest
  | .spActivate _ _ => true
  | .spRestart _ _ _ => true
  | .recordRead _ _ _ _ => true
  | .spSessionTimeout => true
  | .fwActivate _ _ => true
  | .fwRestart _ _ _ => true
  | .componentBoot _ => true
  | .inputLowClear => true
  | .coolantLow => true
  | .hostLinkRecovery => true
  | .servicePortLink _ => true
  | .icmpv6Request _ req => icmpOk req
  | .malformedDatagram _ _ _ => true

end Sys2Proof
end

