-- ==== Sys2Proof/Tests/Slice0.lean ====
section
/-! SUPPORT. Tests, and for every statement with hypotheses a concrete state and operands that meet them. -/

set_option Elab.async false

namespace Sys2Proof.Tests

open Sys2Proof Sys2Proof.Machine

/-! ### A small engine: field 0 is on, core 0 runs thread 0 from handle 0 -/

/-- Word 0 of a handle: valid, readable and writable, of a class, with an extent in slots at a slot. -/
def hw (tagged cls ext base : Nat) : DWord := BitVec.ofNat 64 (2 ^ 63 + 2 ^ 61 + 2 ^ 60 + 2 ^ 59 * tagged + 2 ^ 56 * cls + 2 ^ 24 * ext + base)

/-- A thread that is READY with some registers. -/
def th (s : Map DWord) : Thread := { Thread.reset with st := .ready, s := s }

/-- Core 0: handle 0 holds code, handle 1 data, handle 2 tagged data, handle 48 is bound. -/
def core0 (s : Map DWord) : Core :=
  { Core.reset with
    threads := [(0, th s)]
    handles := [(0, hw 0 0 16 0), (2, hw 0 1 512 512), (4, hw 1 1 512 1024), (96, hw 0 1 4 512 ||| 0x4000000000000000)]
    bankMode := 0x555554 }

/-- The engine with a word at offset 0 of the code handle and registers of thread 0. -/
def progS (w : Nat) (s : Map DWord) : State :=
  { State.reset with
    fields := [(0, { FieldPower.reset with st := .on })]
    cores := [(0, core0 s)]
    mem := writeBytes [] 0 (leBytes 8 w) }

/-- The engine with a word at offset 0 of the code handle. -/
def prog (w : Nat) : State := progS w [(1, 8), (2, 3)]

/-- Thread 0 of core 0 is offered a slot. -/
def iss : Issue := ⟨⟨0, 0, 0⟩, 0, 77, [], []⟩

/-- The state after the fetch. -/
def qOf (s : State) : State := (readCheck 0 [] [fetchRng iss s] s).1

/-- What the instruction sees. -/
def kOf (s : State) : Iss := issView iss s (qOf s)

/-- What `Offered` asks, as one check. -/
def offeredChk (op : Nat) (s : State) : Bool :=
  coreRuns s 0 && (issThread iss s).st == .ready && myTurn (coreAt s 0) 0 77 && fetchFault (coreAt s 0) (fetchAt (issThread iss s)) == none
    && clearingBank (coreAt s 0) (fetchRng iss s) == none && (scoreBlock (coreAt s 0) (fetchRng iss s) false).isNone
    && (readCheck 0 [] [fetchRng iss s] s).2.isNone && fw (kOf s) 63 56 == op && opAssigned op && (kOf s).word.toNat % 2 ^ 56 &&& reservedBits op == 0
    && !reservedEnc (kOf s) op

theorem offered_of {op : Nat} {s : State} (h : offeredChk op s = true) : Offered op iss s (kOf s) (qOf s) := by
  simp only [offeredChk, Bool.and_eq_true, beq_iff_eq, Bool.not_eq_true', Option.isNone_iff_eq_none] at h
  obtain ⟨⟨⟨⟨⟨⟨⟨⟨⟨⟨h1, h2⟩, ht⟩, h3⟩, h4⟩, h5⟩, hr⟩, h6⟩, h7⟩, h8⟩, h9⟩ := h
  exact ⟨h1, h2, ht, h3, h4, h5, Prod.ext rfl hr, rfl, h6, h7, h8, h9⟩

/-! ### Ill-formed terms are refused: one for each check of `Instr.wf` -/

/-- A command is refused by `wf`. -/
def ill (i : Instr) : Bool := !i.wf

theorem smoke_write_width : ill (.registerWrite 0 .host 8 0x40 .w32 0x100000000) = true ∧ ill (.registerWrite 0 .host 8 0x40 .w8 256) = true ∧
    ill (.registerWrite 0 .host 8 0x40 .w16 65536) = true := by decide
theorem smoke_host_address : [Instr.load .host [(2 ^ 52, [0])], .install .host [(2 ^ 52, [0])], .gristUnitArrival 0 [(2 ^ 52, [0])],
    .adInstall .host [(2 ^ 52, [0])], .hostPoll [(2 ^ 52, [0])], .admit_ [(2 ^ 52, [0])] 0, .prefill [(2 ^ 52, [0])] 0].all ill = true := by decide
theorem smoke_host_data : ill (.hostReadData 0 (List.replicate 4097 0)) = true := by decide +kernel
theorem smoke_hdm : ill (.hdmAccess (2 ^ 28) 1 none false) = true ∧ ill (.hdmAccess 0 2 (some [1]) false) = true ∧ ill (.hdmAccess 0 65 none false) = true := by decide
theorem smoke_doe (l : List Byte) (h : l.length = 262145) : ill (.doeRequest (.spdm (.chunkSend true l))) = true ∧
    ill (.doeRequest (.spdm (.vendor l))) = true := by
  simp [ill, Instr.wf, doeOk, bytesMax, h]
theorem smoke_handshake : ill (.hsHello 0 [1] true) = true ∧ ill (.hsKem 0 [1]) = true ∧ ill (.hsFinish 0 [1]) = true := by decide
theorem smoke_flit : let f : LinkFlit := ⟨[1], 0⟩
    [Instr.beatMarker 0 5 f, .linkHello 0 f, .linkDataFlit 0 f, .linkCredit 0 f, .linkAck 0 f, .linkNak 0 f, .delayReq 0 f 1 2, .delayRsp 0 f 1].all ill = true := by decide
theorem smoke_power : ill (.powerWindowEnd 0 [1] 0) = true := by decide
theorem smoke_cals : ill (.railStageDone 0 [(0, 0), (0, 0), (0, 0)] []) = true ∧ ill (.railStageDone 0 [] [(2 ^ 20, 0)]) = true ∧
    ill (.calDone 0 (2 ^ 20) 0 0) = true ∧ ill (.calDone 0 0 (2 ^ 20) 0) = true ∧ ill (.mcBootDone 0 [] []) = true ∧
    ill (.mcBootDone 0 [] [[], [], [], [(2 ^ 20, 0)]]) = true := by decide
theorem smoke_stage : ill (.stageData ⟨1, 7, 3⟩ 0 (List.replicate 1213 0) true) = true ∧ ill (.stageEnd ⟨1, 7, 3⟩ [1] true) = true := by decide +kernel
theorem smoke_echo : ill (.icmpv6Request true (.echo (List.replicate 1233 0))) = true := by decide +kernel
theorem test_no_word_spells_a_command : decodeTableWord 64 0x1000000000000000 = none := rfl
/-! ### IdleOnEmptyQueue -/

theorem wit_idle : State.reset.pending = [] := rfl

/-! ### StepKeepsCanonicalMemories -/

theorem wit_canonical : Canonical State.reset := ⟨rfl, rfl, rfl, rfl, rfl, rfl, rfl⟩
theorem wit_canonical_step : step State.reset = .next State.reset := rfl

/-! ### ScalarRegisterResults -/

theorem wit_add : Offered 0x10 iss (prog (2 ^ 56 * 0x10)) (kOf (prog (2 ^ 56 * 0x10))) (qOf (prog (2 ^ 56 * 0x10))) := offered_of (by decide)
theorem wit_sub : Offered 0x11 iss (prog (2 ^ 56 * 0x11)) (kOf (prog (2 ^ 56 * 0x11))) (qOf (prog (2 ^ 56 * 0x11))) := offered_of (by decide)
theorem wit_mul : Offered 0x12 iss (prog (2 ^ 56 * 0x12)) (kOf (prog (2 ^ 56 * 0x12))) (qOf (prog (2 ^ 56 * 0x12))) := offered_of (by decide)
theorem wit_and : Offered 0x13 iss (prog (2 ^ 56 * 0x13)) (kOf (prog (2 ^ 56 * 0x13))) (qOf (prog (2 ^ 56 * 0x13))) := offered_of (by decide)
theorem wit_or : Offered 0x14 iss (prog (2 ^ 56 * 0x14)) (kOf (prog (2 ^ 56 * 0x14))) (qOf (prog (2 ^ 56 * 0x14))) := offered_of (by decide)
theorem wit_xor : Offered 0x15 iss (prog (2 ^ 56 * 0x15)) (kOf (prog (2 ^ 56 * 0x15))) (qOf (prog (2 ^ 56 * 0x15))) := offered_of (by decide)
theorem wit_shl : Offered 0x16 iss (prog (2 ^ 56 * 0x16)) (kOf (prog (2 ^ 56 * 0x16))) (qOf (prog (2 ^ 56 * 0x16))) := offered_of (by decide)
theorem wit_shr : Offered 0x17 iss (prog (2 ^ 56 * 0x17)) (kOf (prog (2 ^ 56 * 0x17))) (qOf (prog (2 ^ 56 * 0x17))) := offered_of (by decide)
theorem wit_sar : Offered 0x18 iss (prog (2 ^ 56 * 0x18)) (kOf (prog (2 ^ 56 * 0x18))) (qOf (prog (2 ^ 56 * 0x18))) := offered_of (by decide)
theorem wit_min : Offered 0x19 iss (prog (2 ^ 56 * 0x19)) (kOf (prog (2 ^ 56 * 0x19))) (qOf (prog (2 ^ 56 * 0x19))) := offered_of (by decide)
theorem wit_max : Offered 0x1A iss (prog (2 ^ 56 * 0x1A)) (kOf (prog (2 ^ 56 * 0x1A))) (qOf (prog (2 ^ 56 * 0x1A))) := offered_of (by decide)
theorem wit_minu : Offered 0x1B iss (prog (2 ^ 56 * 0x1B)) (kOf (prog (2 ^ 56 * 0x1B))) (qOf (prog (2 ^ 56 * 0x1B))) := offered_of (by decide)
theorem wit_maxu : Offered 0x1C iss (prog (2 ^ 56 * 0x1C)) (kOf (prog (2 ^ 56 * 0x1C))) (qOf (prog (2 ^ 56 * 0x1C))) := offered_of (by decide)
theorem wit_slt : Offered 0x1D iss (prog (2 ^ 56 * 0x1D)) (kOf (prog (2 ^ 56 * 0x1D))) (qOf (prog (2 ^ 56 * 0x1D))) := offered_of (by decide)
theorem wit_sltu : Offered 0x1E iss (prog (2 ^ 56 * 0x1E)) (kOf (prog (2 ^ 56 * 0x1E))) (qOf (prog (2 ^ 56 * 0x1E))) := offered_of (by decide)

/-! ### ScalarImmediateResults -/

theorem wit_addi : Offered 0x20 iss (prog (2 ^ 56 * 0x20 + 2 ^ 31)) (kOf (prog (2 ^ 56 * 0x20 + 2 ^ 31))) (qOf (prog (2 ^ 56 * 0x20 + 2 ^ 31))) := offered_of (by decide)
theorem wit_andi : Offered 0x23 iss (prog (2 ^ 56 * 0x23 + 2 ^ 31)) (kOf (prog (2 ^ 56 * 0x23 + 2 ^ 31))) (qOf (prog (2 ^ 56 * 0x23 + 2 ^ 31))) := offered_of (by decide)
theorem wit_ori : Offered 0x24 iss (prog (2 ^ 56 * 0x24 + 2 ^ 31)) (kOf (prog (2 ^ 56 * 0x24 + 2 ^ 31))) (qOf (prog (2 ^ 56 * 0x24 + 2 ^ 31))) := offered_of (by decide)
theorem wit_xori : Offered 0x25 iss (prog (2 ^ 56 * 0x25 + 2 ^ 31)) (kOf (prog (2 ^ 56 * 0x25 + 2 ^ 31))) (qOf (prog (2 ^ 56 * 0x25 + 2 ^ 31))) := offered_of (by decide)
theorem wit_shli : Offered 0x26 iss (prog (2 ^ 56 * 0x26 + 2 ^ 31)) (kOf (prog (2 ^ 56 * 0x26 + 2 ^ 31))) (qOf (prog (2 ^ 56 * 0x26 + 2 ^ 31))) := offered_of (by decide)
theorem wit_shri : Offered 0x27 iss (prog (2 ^ 56 * 0x27 + 2 ^ 31)) (kOf (prog (2 ^ 56 * 0x27 + 2 ^ 31))) (qOf (prog (2 ^ 56 * 0x27 + 2 ^ 31))) := offered_of (by decide)
theorem wit_sari : Offered 0x28 iss (prog (2 ^ 56 * 0x28 + 2 ^ 31)) (kOf (prog (2 ^ 56 * 0x28 + 2 ^ 31))) (qOf (prog (2 ^ 56 * 0x28 + 2 ^ 31))) := offered_of (by decide)
theorem wit_slti : Offered 0x2D iss (prog (2 ^ 56 * 0x2D + 2 ^ 31)) (kOf (prog (2 ^ 56 * 0x2D + 2 ^ 31))) (qOf (prog (2 ^ 56 * 0x2D + 2 ^ 31))) := offered_of (by decide)
theorem wit_lih : Offered 0x2F iss (prog (2 ^ 56 * 0x2F + 2 ^ 31)) (kOf (prog (2 ^ 56 * 0x2F + 2 ^ 31))) (qOf (prog (2 ^ 56 * 0x2F + 2 ^ 31))) := offered_of (by decide)
theorem wit_rdsys0 : Offered 0x03 iss (prog (2 ^ 56 * 3 + 0)) (kOf (prog (2 ^ 56 * 3 + 0))) (qOf (prog (2 ^ 56 * 3 + 0))) ∧ fw (kOf (prog (2 ^ 56 * 3 + 0))) 31 0 = 0 := ⟨offered_of (by decide), by decide⟩
theorem wit_rdsys1 : Offered 0x03 iss (prog (2 ^ 56 * 3 + 1)) (kOf (prog (2 ^ 56 * 3 + 1))) (qOf (prog (2 ^ 56 * 3 + 1))) ∧ fw (kOf (prog (2 ^ 56 * 3 + 1))) 31 0 = 1 := ⟨offered_of (by decide), by decide⟩
theorem wit_rdsys2 : Offered 0x03 iss (prog (2 ^ 56 * 3 + 2)) (kOf (prog (2 ^ 56 * 3 + 2))) (qOf (prog (2 ^ 56 * 3 + 2))) ∧ fw (kOf (prog (2 ^ 56 * 3 + 2))) 31 0 = 2 := ⟨offered_of (by decide), by decide⟩
theorem wit_rdsys3 : Offered 0x03 iss (prog (2 ^ 56 * 3 + 3)) (kOf (prog (2 ^ 56 * 3 + 3))) (qOf (prog (2 ^ 56 * 3 + 3))) ∧ fw (kOf (prog (2 ^ 56 * 3 + 3))) 31 0 = 3 := ⟨offered_of (by decide), by decide⟩
theorem wit_rdsys4 : Offered 0x03 iss (prog (2 ^ 56 * 3 + 4)) (kOf (prog (2 ^ 56 * 3 + 4))) (qOf (prog (2 ^ 56 * 3 + 4))) ∧ fw (kOf (prog (2 ^ 56 * 3 + 4))) 31 0 = 4 := ⟨offered_of (by decide), by decide⟩
theorem wit_nop : Offered 0x01 iss (prog (2 ^ 56 * 0x01)) (kOf (prog (2 ^ 56 * 0x01))) (qOf (prog (2 ^ 56 * 0x01))) := offered_of (by decide)
theorem wit_halt : Offered 0x02 iss (prog (2 ^ 56 * 0x02)) (kOf (prog (2 ^ 56 * 0x02))) (qOf (prog (2 ^ 56 * 0x02))) := offered_of (by decide)

/-! ### RejectedInstructionsFaultTheirThread -/

theorem wit_notReady : instrOf (.halt iss) = some (0x02, iss) ∧ coreRuns State.reset (coreId iss.core) = false := by decide
theorem wit_fetchFault : let s := { prog 0 with cores := [(0, { core0 [] with handles := [] })] }
    coreRuns s 0 = true ∧ (issThread iss s).st = .ready ∧ myTurn (coreAt s 0) 0 77 = true ∧ fetchFault (coreAt s 0) 0 = some E.handleClass := by decide
theorem wit_illegal : let s := prog (2 ^ 56 * 0x10 + 1)
    coreRuns s 0 = true ∧ (issThread iss s).st = .ready ∧ myTurn (coreAt s 0) 0 77 = true ∧ fetchFault (coreAt s 0) 0 = none ∧
    clearingBank (coreAt s 0) (fetchRng iss s) = none ∧ (scoreBlock (coreAt s 0) (fetchRng iss s) false).isNone = true ∧
    fw (issView iss s (qOf s)) 63 56 = 0x10 ∧ (issView iss s (qOf s)).word.toNat % 2 ^ 56 &&& reservedBits 0x10 ≠ 0 := by decide
theorem wit_opcode0 : fw (kOf (prog 0)) 63 56 = 0 ∧ opAssigned 0 = false := by decide

/-! ### BranchesAndJumps -/

theorem wit_beq : Offered 48 iss (prog (2 ^ 56 * 48 + 2 ^ 46 + 2 ^ 42 + 4294967280)) (kOf (prog (2 ^ 56 * 48 + 2 ^ 46 + 2 ^ 42 + 4294967280))) (qOf (prog (2 ^ 56 * 48 + 2 ^ 46 + 2 ^ 42 + 4294967280))) ∧ sext 32 (fw (kOf (prog (2 ^ 56 * 48 + 2 ^ 46 + 2 ^ 42 + 4294967280))) 31 0) % 8 = 0 :=
  ⟨offered_of (by decide), by decide⟩
theorem wit_beq_mis : Offered 48 iss (prog (2 ^ 56 * 48 + 2 ^ 46 + 2 ^ 42 + 4)) (kOf (prog (2 ^ 56 * 48 + 2 ^ 46 + 2 ^ 42 + 4))) (qOf (prog (2 ^ 56 * 48 + 2 ^ 46 + 2 ^ 42 + 4))) ∧ sext 32 (fw (kOf (prog (2 ^ 56 * 48 + 2 ^ 46 + 2 ^ 42 + 4))) 31 0) % 8 ≠ 0 :=
  ⟨offered_of (by decide), by decide⟩
theorem wit_bne : Offered 49 iss (prog (2 ^ 56 * 49 + 2 ^ 46 + 2 ^ 42 + 4294967280)) (kOf (prog (2 ^ 56 * 49 + 2 ^ 46 + 2 ^ 42 + 4294967280))) (qOf (prog (2 ^ 56 * 49 + 2 ^ 46 + 2 ^ 42 + 4294967280))) ∧ sext 32 (fw (kOf (prog (2 ^ 56 * 49 + 2 ^ 46 + 2 ^ 42 + 4294967280))) 31 0) % 8 = 0 :=
  ⟨offered_of (by decide), by decide⟩
theorem wit_bne_mis : Offered 49 iss (prog (2 ^ 56 * 49 + 2 ^ 46 + 2 ^ 42 + 4)) (kOf (prog (2 ^ 56 * 49 + 2 ^ 46 + 2 ^ 42 + 4))) (qOf (prog (2 ^ 56 * 49 + 2 ^ 46 + 2 ^ 42 + 4))) ∧ sext 32 (fw (kOf (prog (2 ^ 56 * 49 + 2 ^ 46 + 2 ^ 42 + 4))) 31 0) % 8 ≠ 0 :=
  ⟨offered_of (by decide), by decide⟩
theorem wit_blt : Offered 50 iss (prog (2 ^ 56 * 50 + 2 ^ 46 + 2 ^ 42 + 4294967280)) (kOf (prog (2 ^ 56 * 50 + 2 ^ 46 + 2 ^ 42 + 4294967280))) (qOf (prog (2 ^ 56 * 50 + 2 ^ 46 + 2 ^ 42 + 4294967280))) ∧ sext 32 (fw (kOf (prog (2 ^ 56 * 50 + 2 ^ 46 + 2 ^ 42 + 4294967280))) 31 0) % 8 = 0 :=
  ⟨offered_of (by decide), by decide⟩
theorem wit_blt_mis : Offered 50 iss (prog (2 ^ 56 * 50 + 2 ^ 46 + 2 ^ 42 + 4)) (kOf (prog (2 ^ 56 * 50 + 2 ^ 46 + 2 ^ 42 + 4))) (qOf (prog (2 ^ 56 * 50 + 2 ^ 46 + 2 ^ 42 + 4))) ∧ sext 32 (fw (kOf (prog (2 ^ 56 * 50 + 2 ^ 46 + 2 ^ 42 + 4))) 31 0) % 8 ≠ 0 :=
  ⟨offered_of (by decide), by decide⟩
theorem wit_bge : Offered 51 iss (prog (2 ^ 56 * 51 + 2 ^ 46 + 2 ^ 42 + 4294967280)) (kOf (prog (2 ^ 56 * 51 + 2 ^ 46 + 2 ^ 42 + 4294967280))) (qOf (prog (2 ^ 56 * 51 + 2 ^ 46 + 2 ^ 42 + 4294967280))) ∧ sext 32 (fw (kOf (prog (2 ^ 56 * 51 + 2 ^ 46 + 2 ^ 42 + 4294967280))) 31 0) % 8 = 0 :=
  ⟨offered_of (by decide), by decide⟩
theorem wit_bge_mis : Offered 51 iss (prog (2 ^ 56 * 51 + 2 ^ 46 + 2 ^ 42 + 4)) (kOf (prog (2 ^ 56 * 51 + 2 ^ 46 + 2 ^ 42 + 4))) (qOf (prog (2 ^ 56 * 51 + 2 ^ 46 + 2 ^ 42 + 4))) ∧ sext 32 (fw (kOf (prog (2 ^ 56 * 51 + 2 ^ 46 + 2 ^ 42 + 4))) 31 0) % 8 ≠ 0 :=
  ⟨offered_of (by decide), by decide⟩
theorem wit_bltu : Offered 52 iss (prog (2 ^ 56 * 52 + 2 ^ 46 + 2 ^ 42 + 4294967280)) (kOf (prog (2 ^ 56 * 52 + 2 ^ 46 + 2 ^ 42 + 4294967280))) (qOf (prog (2 ^ 56 * 52 + 2 ^ 46 + 2 ^ 42 + 4294967280))) ∧ sext 32 (fw (kOf (prog (2 ^ 56 * 52 + 2 ^ 46 + 2 ^ 42 + 4294967280))) 31 0) % 8 = 0 :=
  ⟨offered_of (by decide), by decide⟩
theorem wit_bltu_mis : Offered 52 iss (prog (2 ^ 56 * 52 + 2 ^ 46 + 2 ^ 42 + 4)) (kOf (prog (2 ^ 56 * 52 + 2 ^ 46 + 2 ^ 42 + 4))) (qOf (prog (2 ^ 56 * 52 + 2 ^ 46 + 2 ^ 42 + 4))) ∧ sext 32 (fw (kOf (prog (2 ^ 56 * 52 + 2 ^ 46 + 2 ^ 42 + 4))) 31 0) % 8 ≠ 0 :=
  ⟨offered_of (by decide), by decide⟩
theorem wit_bgeu : Offered 53 iss (prog (2 ^ 56 * 53 + 2 ^ 46 + 2 ^ 42 + 4294967280)) (kOf (prog (2 ^ 56 * 53 + 2 ^ 46 + 2 ^ 42 + 4294967280))) (qOf (prog (2 ^ 56 * 53 + 2 ^ 46 + 2 ^ 42 + 4294967280))) ∧ sext 32 (fw (kOf (prog (2 ^ 56 * 53 + 2 ^ 46 + 2 ^ 42 + 4294967280))) 31 0) % 8 = 0 :=
  ⟨offered_of (by decide), by decide⟩
theorem wit_bgeu_mis : Offered 53 iss (prog (2 ^ 56 * 53 + 2 ^ 46 + 2 ^ 42 + 4)) (kOf (prog (2 ^ 56 * 53 + 2 ^ 46 + 2 ^ 42 + 4))) (qOf (prog (2 ^ 56 * 53 + 2 ^ 46 + 2 ^ 42 + 4))) ∧ sext 32 (fw (kOf (prog (2 ^ 56 * 53 + 2 ^ 46 + 2 ^ 42 + 4))) 31 0) % 8 ≠ 0 :=
  ⟨offered_of (by decide), by decide⟩
theorem wit_jal : Offered 56 iss (prog (2 ^ 56 * 56 + 2 ^ 46 + 2 ^ 42 + 4294967280)) (kOf (prog (2 ^ 56 * 56 + 2 ^ 46 + 2 ^ 42 + 4294967280))) (qOf (prog (2 ^ 56 * 56 + 2 ^ 46 + 2 ^ 42 + 4294967280))) ∧ sext 32 (fw (kOf (prog (2 ^ 56 * 56 + 2 ^ 46 + 2 ^ 42 + 4294967280))) 31 0) % 8 = 0 :=
  ⟨offered_of (by decide), by decide⟩
theorem wit_jal_mis : Offered 56 iss (prog (2 ^ 56 * 56 + 2 ^ 46 + 2 ^ 42 + 4)) (kOf (prog (2 ^ 56 * 56 + 2 ^ 46 + 2 ^ 42 + 4))) (qOf (prog (2 ^ 56 * 56 + 2 ^ 46 + 2 ^ 42 + 4))) ∧ sext 32 (fw (kOf (prog (2 ^ 56 * 56 + 2 ^ 46 + 2 ^ 42 + 4))) 31 0) % 8 ≠ 0 :=
  ⟨offered_of (by decide), by decide⟩
theorem wit_jr : Offered 0x39 iss (prog (2 ^ 56 * 0x39 + 2 ^ 46 + 16)) (kOf (prog (2 ^ 56 * 0x39 + 2 ^ 46 + 16))) (qOf (prog (2 ^ 56 * 0x39 + 2 ^ 46 + 16))) ∧
    ((BitVec.ofInt 64 ((fs (kOf (prog (2 ^ 56 * 0x39 + 2 ^ 46 + 16))) 50 46).toInt + sext 32 (fw (kOf (prog (2 ^ 56 * 0x39 + 2 ^ 46 + 16))) 31 0))).toNat : Int) % 8 = 0 := ⟨offered_of (by decide), by decide⟩
theorem wit_jr_mis : Offered 0x39 iss (prog (2 ^ 56 * 0x39 + 2 ^ 46 + 4)) (kOf (prog (2 ^ 56 * 0x39 + 2 ^ 46 + 4))) (qOf (prog (2 ^ 56 * 0x39 + 2 ^ 46 + 4))) ∧
    ((BitVec.ofInt 64 ((fs (kOf (prog (2 ^ 56 * 0x39 + 2 ^ 46 + 4))) 50 46).toInt + sext 32 (fw (kOf (prog (2 ^ 56 * 0x39 + 2 ^ 46 + 4))) 31 0))).toNat : Int) % 8 ≠ 0 := ⟨offered_of (by decide), by decide⟩
theorem wit_pcOutside : let s := { prog 0 with cores := [(0, { core0 [] with threads := [(0, { th [] with pc := 512 })] })] }
    let h := hview (coreAt s 0) 0
    coreRuns s 0 = true ∧ (issThread iss s).st = .ready ∧ myTurn (coreAt s 0) 0 77 = true ∧ h.valid = true ∧ h.rd = true ∧ h.tagged = false ∧ h.cls = 0 ∧
    fetchAt (issThread iss s) % 8 = 0 ∧ h.ext < fetchAt (issThread iss s) + 8 := by decide
theorem wit_beyond : let th := landAt (2 ^ 18) Thread.reset
    th.beyond = true ∧ fetchAt th = 2 ^ 18 ∧ (landAt (2 ^ 18 - 8) Thread.reset).beyond = false := by decide

/-! ### VectorResults -/

theorem wit_vadd : Offered 80 iss (prog (2 ^ 56 * 80 + 2 ^ 42)) (kOf (prog (2 ^ 56 * 80 + 2 ^ 42))) (qOf (prog (2 ^ 56 * 80 + 2 ^ 42))) := offered_of (by decide)
theorem wit_vsub : Offered 81 iss (prog (2 ^ 56 * 81 + 2 ^ 42)) (kOf (prog (2 ^ 56 * 81 + 2 ^ 42))) (qOf (prog (2 ^ 56 * 81 + 2 ^ 42))) := offered_of (by decide)
theorem wit_vmul : Offered 82 iss (prog (2 ^ 56 * 82 + 2 ^ 42)) (kOf (prog (2 ^ 56 * 82 + 2 ^ 42))) (qOf (prog (2 ^ 56 * 82 + 2 ^ 42))) := offered_of (by decide)
theorem wit_vfma : Offered 83 iss (prog (2 ^ 56 * 83 + 2 ^ 42)) (kOf (prog (2 ^ 56 * 83 + 2 ^ 42))) (qOf (prog (2 ^ 56 * 83 + 2 ^ 42))) := offered_of (by decide)
theorem wit_vmax : Offered 84 iss (prog (2 ^ 56 * 84 + 2 ^ 42)) (kOf (prog (2 ^ 56 * 84 + 2 ^ 42))) (qOf (prog (2 ^ 56 * 84 + 2 ^ 42))) := offered_of (by decide)
theorem wit_vmin : Offered 85 iss (prog (2 ^ 56 * 85 + 2 ^ 42)) (kOf (prog (2 ^ 56 * 85 + 2 ^ 42))) (qOf (prog (2 ^ 56 * 85 + 2 ^ 42))) := offered_of (by decide)
theorem wit_vsum : Offered 86 iss (prog (2 ^ 56 * 86 + 2 ^ 42)) (kOf (prog (2 ^ 56 * 86 + 2 ^ 42))) (qOf (prog (2 ^ 56 * 86 + 2 ^ 42))) := offered_of (by decide)
theorem wit_vbcast : Offered 87 iss (prog (2 ^ 56 * 87 + 2 ^ 42)) (kOf (prog (2 ^ 56 * 87 + 2 ^ 42))) (qOf (prog (2 ^ 56 * 87 + 2 ^ 42))) := offered_of (by decide)
theorem wit_vmovs : Offered 89 iss (prog (2 ^ 56 * 89 + 2 ^ 42)) (kOf (prog (2 ^ 56 * 89 + 2 ^ 42))) (qOf (prog (2 ^ 56 * 89 + 2 ^ 42))) := offered_of (by decide)
theorem wit_exp2 : Offered 92 iss (prog (2 ^ 56 * 92 + 0)) (kOf (prog (2 ^ 56 * 92 + 0))) (qOf (prog (2 ^ 56 * 92 + 0))) := offered_of (by decide)
theorem wit_rsq : Offered 93 iss (prog (2 ^ 56 * 93 + 0)) (kOf (prog (2 ^ 56 * 93 + 0))) (qOf (prog (2 ^ 56 * 93 + 0))) := offered_of (by decide)
theorem wit_vmova : Offered 0x58 iss (prog (2 ^ 56 * 0x58 + 2 ^ 33 * 3)) (kOf (prog (2 ^ 56 * 0x58 + 2 ^ 33 * 3))) (qOf (prog (2 ^ 56 * 0x58 + 2 ^ 33 * 3))) ∧ accPending (kOf (prog (2 ^ 56 * 0x58 + 2 ^ 33 * 3))) 0 = false ∧ fw (kOf (prog (2 ^ 56 * 0x58 + 2 ^ 33 * 3))) 36 35 = 0 :=
  ⟨offered_of (by decide), by decide⟩

/-! ### LoadsWriteTheirRegister -/

/-- LDF.64 and LDK.64 through handle 2, and EMPT of 64 bytes. -/
def ldS (op : Nat) : State :=
  { progS (2 ^ 56 * op + 2 ^ 54 * 2 + 2 ^ 48 * 2 + 2 ^ 43 + 2 ^ 38 * 2) [(1, 32), (2, 64)] with
    cores := [(0, { core0 [(1, 32), (2, 64)] with full := [1025, 1026] })] }
theorem wit_ldf : Offered 0x40 iss (ldS 0x40) (kOf (ldS 0x40)) (qOf (ldS 0x40)) ∧
    memCheck (kOf (ldS 0x40)) (memUse (kOf (ldS 0x40)) 64 false (some true) true) true false true none = none ∧
    (gate 0 [memUse (kOf (ldS 0x40)) 64 false (some true) true] (qOf (ldS 0x40))).isNone = true := ⟨offered_of (by decide), by decide, by decide⟩
theorem wit_ldk : Offered 0x41 iss (ldS 0x41) (kOf (ldS 0x41)) (qOf (ldS 0x41)) ∧
    memCheck (kOf (ldS 0x41)) (memUse (kOf (ldS 0x41)) 64 false (some true) false) true false false none = none ∧
    (gate 0 [memUse (kOf (ldS 0x41)) 64 false (some true) false] (qOf (ldS 0x41))).isNone = true := ⟨offered_of (by decide), by decide, by decide⟩
theorem wit_empt : Offered 0x44 iss (ldS 0x44) (kOf (ldS 0x44)) (qOf (ldS 0x44)) ∧
    memCheck (kOf (ldS 0x44)) (memUse (kOf (ldS 0x44)) 64 false (some true) true) true false true (some (fs (kOf (ldS 0x44)) 42 38)) = none ∧
    (gate 0 [memUse (kOf (ldS 0x44)) 64 false (some true) true] (qOf (ldS 0x44))).isNone = true := ⟨offered_of (by decide), by decide, by decide⟩

/-! ### StoresWriteExactlyTheirBytes -/

/-- STE.64 and STF.64 through handle 2 from v2. -/
def stS (op : Nat) : State := progS (2 ^ 56 * op + 2 ^ 54 * 2 + 2 ^ 48 * 2 + 2 ^ 43 + 2 ^ 38 * 2) [(1, 32), (2, 64)]
theorem wit_ste : Offered 0x42 iss (stS 0x42) (kOf (stS 0x42)) (qOf (stS 0x42)) ∧
    memCheck (kOf (stS 0x42)) (memUse (kOf (stS 0x42)) 64 true (some false) true) false true true none = none ∧
    (gate 0 [memUse (kOf (stS 0x42)) 64 true (some false) true] (qOf (stS 0x42))).isNone = true := ⟨offered_of (by decide), by decide, by decide⟩
theorem wit_stf : Offered 0x43 iss (stS 0x43) (kOf (stS 0x43)) (qOf (stS 0x43)) ∧
    memCheck (kOf (stS 0x43)) (memUse (kOf (stS 0x43)) 64 true none true) false true false none = none ∧
    (gate 0 [memUse (kOf (stS 0x43)) 64 true none true] (qOf (stS 0x43))).isNone = true := ⟨offered_of (by decide), by decide, by decide⟩

/-! ### BindUnbindAndEnqueue -/

/-- BIND of handle 50 to bytes [64, 64 + n) of handle 1, readable. -/
def bindS (n : Nat) : State := progS (2 ^ 56 * 0x48 + 2 ^ 50 * 50 + 2 ^ 44 + 2 ^ 39 + 2 ^ 34 * 2 + 2 ^ 33) [(1, 64), (2, BitVec.ofNat 64 n)]
theorem wit_bind0 : Offered 0x48 iss (bindS 0) (kOf (bindS 0)) (qOf (bindS 0)) ∧ bindCheck (kOf (bindS 0)) = none ∧
    fs (kOf (bindS 0)) 38 34 = 0 := ⟨offered_of (by decide), by decide, by decide⟩
theorem wit_bind : Offered 0x48 iss (bindS 128) (kOf (bindS 128)) (qOf (bindS 128)) ∧ bindCheck (kOf (bindS 128)) = none ∧
    fs (kOf (bindS 128)) 38 34 ≠ 0 ∧ (fh (kOf (bindS 128)) 49 44).cls ≠ 2 ∧
    (fh (kOf (bindS 128)) 49 44).base + (fh (kOf (bindS 128)) 49 44).ext ≤ 0x30000 := ⟨offered_of (by decide), by decide, by decide, by decide, by decide⟩
/-- UNBIND. -/
def unbS (h : Nat) : State := prog (2 ^ 56 * 0x49 + 2 ^ 50 * h)
theorem wit_unbind : Offered 0x49 iss (unbS 48) (kOf (unbS 48)) (qOf (unbS 48)) ∧ 48 ≤ fw (kOf (unbS 48)) 55 50 := ⟨offered_of (by decide), by decide⟩
theorem wit_unbindPlaced : Offered 0x49 iss (unbS 47) (kOf (unbS 47)) (qOf (unbS 47)) ∧ fw (kOf (unbS 47)) 55 50 < 48 := ⟨offered_of (by decide), by decide⟩
/-- DMQ of a PUT of n bytes from handle 1. -/
def dmqS (n : Nat) : State :=
  progS (2 ^ 56 * 0x4A + 2 ^ 46 + 2 ^ 41 * 2) [(1, BitVec.ofNat 64 (2 ^ 60 * 2 + 2 ^ 54 + n)), (2, 0x100000000000)]
theorem wit_dmq : Offered 0x4A iss (dmqS 64) (kOf (dmqS 64)) (qOf (dmqS 64)) ∧
    dmqCheck (kOf (dmqS 64)).x (fs (kOf (dmqS 64)) 50 46) (fs (kOf (dmqS 64)) 45 41) = none ∧
    (dmqBlock (kOf (dmqS 64)).x (descOf (kOf (dmqS 64)).x (fs (kOf (dmqS 64)) 50 46) (fs (kOf (dmqS 64)) 45 41))).isNone = true ∧
    (descOf (kOf (dmqS 64)).x (fs (kOf (dmqS 64)) 50 46) (fs (kOf (dmqS 64)) 45 41)).len ≠ 0 := ⟨offered_of (by decide), by decide, by decide, by decide⟩
theorem wit_dmq0 : Offered 0x4A iss (dmqS 0) (kOf (dmqS 0)) (qOf (dmqS 0)) ∧
    dmqCheck (kOf (dmqS 0)).x (fs (kOf (dmqS 0)) 50 46) (fs (kOf (dmqS 0)) 45 41) = none ∧
    (dmqBlock (kOf (dmqS 0)).x (descOf (kOf (dmqS 0)).x (fs (kOf (dmqS 0)) 50 46) (fs (kOf (dmqS 0)) 45 41))).isNone = true ∧
    (descOf (kOf (dmqS 0)).x (fs (kOf (dmqS 0)) 50 46) (fs (kOf (dmqS 0)) 45 41)).len = 0 := ⟨offered_of (by decide), by decide, by decide, by decide⟩

/-! ### UnitInstructionsTakeTheirEntry -/

/-- An engine with a word, registers, and core 0 changed. -/
def progC (w : Nat) (s : Map DWord) (f : Core → Core) : State := { progS w s with cores := [(0, f (core0 s))] }
/-- MVD of K elements from handles 1 and 1 at offsets 0 and 1024. -/
def mvdS (k : Nat) : State := progS (2 ^ 56 * 0x60 + 2 ^ 43 + 2 ^ 37 + 2 ^ 27 + 2 ^ 22 * 2) [(1, 1024), (2, BitVec.ofNat 64 k)]
theorem wit_mvd0 : Offered 0x60 iss (mvdS 0) (kOf (mvdS 0)) (qOf (mvdS 0)) ∧ mvdCheck (kOf (mvdS 0)) = none ∧
    fn (kOf (mvdS 0)) 26 22 = 0 := ⟨offered_of (by decide), by decide, by decide⟩
theorem wit_mvd : Offered 0x60 iss (mvdS 32) (kOf (mvdS 32)) (qOf (mvdS 32)) ∧ mvdCheck (kOf (mvdS 32)) = none ∧
    fn (kOf (mvdS 32)) 26 22 ≠ 0 ∧ accPending (kOf (mvdS 32)) 0 = false ∧
    (gateLines 0 (mvdUses (kOf (mvdS 32))) [] (qOf (mvdS 32))).isNone = true ∧ (kOf (mvdS 32)).x.units = [] :=
  ⟨offered_of (by decide), by decide, by decide, by decide, by decide, by decide⟩
/-- An array instruction from handle 1 at 0 and 2048 to 8192, with a permit. -/
def arrS (op : Nat) : State :=
  { progS (2 ^ 56 * op + 2 ^ 50 + 2 ^ 39 + 2 ^ 34 + 2 ^ 28 + 2 ^ 23 * 2 + 2 ^ 17) [(1, 2048), (2, 8192)] with
    fieldUnits := [(0, { FieldUnits.reset with permits := [0] })] }
theorem wit_mma : Offered 0x61 iss (arrS 0x61) (kOf (arrS 0x61)) (qOf (arrS 0x61)) ∧ arrayCheck (kOf (arrS 0x61)) = none ∧
    (gate 0 (arrayUses (kOf (arrS 0x61))) (qOf (arrS 0x61))).isNone = true ∧ (kOf (arrS 0x61)).x.units = [] ∧
    (unitsOf (qOf (arrS 0x61)) 0).permits.contains 0 = true := ⟨offered_of (by decide), by decide, by decide, by decide, by decide⟩
theorem wit_mmax : Offered 0x62 iss (arrS 0x62) (kOf (arrS 0x62)) (qOf (arrS 0x62)) ∧ arrayCheck (kOf (arrS 0x62)) = none ∧
    (gate 0 (arrayUses (kOf (arrS 0x62))) (qOf (arrS 0x62))).isNone = true ∧ (kOf (arrS 0x62)).x.units = [] ∧
    (unitsOf (qOf (arrS 0x62)) 0).permits.contains 0 = true := ⟨offered_of (by decide), by decide, by decide, by decide, by decide⟩
/-- CVT from F32 (code f) to a narrow format (code g), QCF with residuals at 4096, and TOPK: N elements, 8 best. -/
def edgS (op f g n : Nat) : State :=
  progS (2 ^ 56 * op + 2 ^ 50 + 2 ^ 39 + 2 ^ 34 + 2 ^ 29 * 2 + (if op = 0x6A then 2 ^ 24 * 3 else 2 ^ 25 * f + 2 ^ 21 * g)
      + (if op = 0x69 then 2 ^ 10 + 2 ^ 5 * 4 else 0)) [(1, 8192), (2, BitVec.ofNat 64 n), (3, BitVec.ofNat 64 (Nat.min n 8)), (4, 4096)]
theorem wit_cvt0 : Offered 104 iss (edgS 104 9 5 0) (kOf (edgS 104 9 5 0)) (qOf (edgS 104 9 5 0)) ∧ cvtCheck (kOf (edgS 104 9 5 0)) = none ∧ fn (kOf (edgS 104 9 5 0)) 33 29 = 0 :=
  ⟨offered_of (by decide), by decide, by decide⟩
theorem wit_cvt : Offered 104 iss (edgS 104 9 5 32) (kOf (edgS 104 9 5 32)) (qOf (edgS 104 9 5 32)) ∧ cvtCheck (kOf (edgS 104 9 5 32)) = none ∧ fn (kOf (edgS 104 9 5 32)) 33 29 ≠ 0 ∧
    (gateLines 0 (cvtUses (kOf (edgS 104 9 5 32))) (((cvtUses (kOf (edgS 104 9 5 32))).filter fun u => !u.write).flatMap useLines) (qOf (edgS 104 9 5 32))).isNone = true ∧ (kOf (edgS 104 9 5 32)).x.units = [] :=
  ⟨offered_of (by decide), by decide, by decide, by decide, by decide⟩
theorem wit_qcf0 : Offered 105 iss (edgS 105 9 5 0) (kOf (edgS 105 9 5 0)) (qOf (edgS 105 9 5 0)) ∧ cvtCheck (kOf (edgS 105 9 5 0)) = none ∧ fn (kOf (edgS 105 9 5 0)) 33 29 = 0 :=
  ⟨offered_of (by decide), by decide, by decide⟩
theorem wit_qcf : Offered 105 iss (edgS 105 9 5 32) (kOf (edgS 105 9 5 32)) (qOf (edgS 105 9 5 32)) ∧ cvtCheck (kOf (edgS 105 9 5 32)) = none ∧ fn (kOf (edgS 105 9 5 32)) 33 29 ≠ 0 ∧
    (gateLines 0 (cvtUses (kOf (edgS 105 9 5 32))) (((cvtUses (kOf (edgS 105 9 5 32))).filter fun u => !u.write).flatMap useLines) (qOf (edgS 105 9 5 32))).isNone = true ∧ (kOf (edgS 105 9 5 32)).x.units = [] :=
  ⟨offered_of (by decide), by decide, by decide, by decide, by decide⟩
theorem wit_topk0 : Offered 106 iss (edgS 106 9 5 0) (kOf (edgS 106 9 5 0)) (qOf (edgS 106 9 5 0)) ∧ topkCheck (kOf (edgS 106 9 5 0)) = none ∧ fn (kOf (edgS 106 9 5 0)) 28 24 = 0 :=
  ⟨offered_of (by decide), by decide, by decide⟩
theorem wit_topk : Offered 106 iss (edgS 106 9 5 32) (kOf (edgS 106 9 5 32)) (qOf (edgS 106 9 5 32)) ∧ topkCheck (kOf (edgS 106 9 5 32)) = none ∧ fn (kOf (edgS 106 9 5 32)) 28 24 ≠ 0 ∧
    (gateLines 0 (topkUses (kOf (edgS 106 9 5 32))) (((topkUses (kOf (edgS 106 9 5 32))).filter fun u => !u.write).flatMap useLines) (qOf (edgS 106 9 5 32))).isNone = true ∧ (kOf (edgS 106 9 5 32)).x.units = [] :=
  ⟨offered_of (by decide), by decide, by decide, by decide, by decide⟩

/-! ### FabricAndTallyInstructionsSend -/

/-- SND of n bytes of handle 1 to the store of core 1. -/
def sndS (n : Nat) : State := progS (2 ^ 56 * 0x70 + 2 ^ 50 + 2 ^ 40 * 2 + 2 ^ 35 + 2 ^ 34) [(1, 0x40000), (2, BitVec.ofNat 64 n)]
theorem wit_snd0 : Offered 0x70 iss (sndS 0) (kOf (sndS 0)) (qOf (sndS 0)) ∧ sndCheck (kOf (sndS 0)) (qOf (sndS 0)) = none ∧
    fn (kOf (sndS 0)) 44 40 = 0 := ⟨offered_of (by decide), by decide, by decide⟩
theorem wit_snd : Offered 0x70 iss (sndS 512) (kOf (sndS 512)) (qOf (sndS 512)) ∧ sndCheck (kOf (sndS 512)) (qOf (sndS 512)) = none ∧
    fn (kOf (sndS 512)) 44 40 = 512 ∧ (gate 0 [sndUse (kOf (sndS 512))] (qOf (sndS 512))).isNone = true ∧
    injectUsed (coreAt (qOf (sndS 512)) 0) + (1 + 512 / 32) ≤ 32 := ⟨offered_of (by decide), by decide, by decide, by decide, by decide⟩
/-- SNDR of a0 to core 1 with a TOTAL. -/
def sndrS (n : Nat) : State := progS (2 ^ 56 * 0x71 + 2 ^ 48 + 2 ^ 43 * 2 + 2 ^ 30 * n) [(1, 0x40000), (2, 70000)]
theorem wit_sndr0 : Offered 0x71 iss (sndrS 0) (kOf (sndrS 0)) (qOf (sndrS 0)) ∧ sndrCheck (kOf (sndrS 0)) (qOf (sndrS 0)) = none ∧
    fw (kOf (sndrS 0)) 42 30 = 0 := ⟨offered_of (by decide), by decide, by decide⟩
theorem wit_sndr : Offered 0x71 iss (sndrS 8190) (kOf (sndrS 8190)) (qOf (sndrS 8190)) ∧
    sndrCheck (kOf (sndrS 8190)) (qOf (sndrS 8190)) = none ∧ fw (kOf (sndrS 8190)) 42 30 ≠ 0 ∧
    accPending (kOf (sndrS 8190)) 0 = false ∧ injectUsed (coreAt (qOf (sndrS 8190)) 0) + 9 ≤ 32 :=
  ⟨offered_of (by decide), by decide, by decide, by decide, by decide⟩
/-- RDM of n bytes of stack 0 into handle 1. -/
def rdmS (n : Nat) : State := progS (2 ^ 56 * 0x72 + 2 ^ 50 + 2 ^ 40 * 2 + 2 ^ 35) [(1, 0x100000000000), (2, BitVec.ofNat 64 n)]
theorem wit_rdm0 : Offered 0x72 iss (rdmS 0) (kOf (rdmS 0)) (qOf (rdmS 0)) ∧ rdmCheck (kOf (rdmS 0)) (qOf (rdmS 0)) = none ∧
    fn (kOf (rdmS 0)) 44 40 = 0 := ⟨offered_of (by decide), by decide, by decide⟩
theorem wit_rdm : Offered 0x72 iss (rdmS 64) (kOf (rdmS 64)) (qOf (rdmS 64)) ∧ rdmCheck (kOf (rdmS 64)) (qOf (rdmS 64)) = none ∧
    fn (kOf (rdmS 64)) 44 40 ≠ 0 ∧ (gate 0 [rdmUse (kOf (rdmS 64))] (qOf (rdmS 64))).isNone = true ∧
    injectUsed (coreAt (qOf (rdmS 64)) 0) + 1 ≤ 32 := ⟨offered_of (by decide), by decide, by decide, by decide, by decide⟩
/-- A tally instruction on tally 31,743 with v. -/
def talS (op v : Nat) : State :=
  { progS (2 ^ 56 * op + 2 ^ 46 + 2 ^ 26 * 31739 + v) [(1, 4), (2, 0)] with owner := [(0, 0)], tallyOwner := [(31743, 0)] }
theorem wit_tadd0 : Offered 0x78 iss (talS 0x78 0) (kOf (talS 0x78 0)) (qOf (talS 0x78 0)) ∧ taddCheck (kOf (talS 0x78 0)) = none ∧
    (tallyVal (kOf (talS 0x78 0))).toNat = 0 := ⟨offered_of (by decide), by decide, by decide⟩
theorem wit_tadd : Offered 0x78 iss (talS 0x78 0xFFFFFE) (kOf (talS 0x78 0xFFFFFE)) (qOf (talS 0x78 0xFFFFFE)) ∧
    taddCheck (kOf (talS 0x78 0xFFFFFE)) = none ∧ (tallyVal (kOf (talS 0x78 0xFFFFFE))).toNat ≠ 0 ∧
    injectUsed (coreAt (qOf (talS 0x78 0xFFFFFE)) 0) + 1 ≤ 32 := ⟨offered_of (by decide), by decide, by decide, by decide⟩
theorem wit_tset : Offered 0x79 iss (talS 0x79 0) (kOf (talS 0x79 0)) (qOf (talS 0x79 0)) ∧ taddCheck (kOf (talS 0x79 0)) = none ∧
    injectUsed (coreAt (qOf (talS 0x79 0)) 0) + 1 ≤ 32 := ⟨offered_of (by decide), by decide, by decide⟩
theorem wit_peek : let S := talS 0x7A (2 ^ 25)
    Offered 0x7A iss S (kOf S) (qOf S) ∧ (tallyNum (kOf S)).toNat < 31744 ∧ fw (kOf S) 25 25 = 1 ∧
    tallyDark (qOf S) 31743 = false ∧ fenceOwner (qOf S) 0 (mfind (qOf S).tallyOwner 31743) = true :=
  ⟨offered_of (by decide), by decide, by decide, by decide, by decide⟩
theorem wit_twait : let S := talS 0x7A 0
    Offered 0x7A iss S (kOf S) (qOf S) ∧ (tallyNum (kOf S)).toNat < 31744 ∧ fw (kOf S) 25 25 = 0 ∧
    injectUsed (coreAt (qOf S) 0) + 1 ≤ 32 := ⟨offered_of (by decide), by decide, by decide, by decide⟩

/-! ### InstructionsLeaveTheRestUnchanged -/

theorem wit_frame : instrOf (.stf iss) = some (0x43, iss) ∧ (stS 0x43).pending = [] := by decide

/-! ### UnitEventsAdvanceEntries -/

/-- An entry of a unit in a phase. -/
def ent (kind : UnitKind) (ph : UPhase) (word : Nat) : UnitEntry :=
  { id := 7, kind := kind, phase := ph, thread := 0, pc := 16, word := BitVec.ofNat 64 word, srcs := [⟨false, 512, 2⟩], dst := [⟨false, 1024, 128⟩],
    dstTagged := true, addrs := [16384, 16416, 32768], vals := [32, 0, 0], sums := [], data := [], lanes := [], writes := [(32768, [1, 2])], active := false,
    again := false, checked := 0 }
/-- Core 0 holds one entry. -/
def unitS (u : UnitEntry) : State := progC 0 [] fun x => { x with units := [u] }
/-- The reference of core 0. -/
def c0 : CoreRef := ⟨0, 0, 0⟩
theorem wit_mvdStream : let s := unitS (ent .mv .running (2 ^ 56 * 0x60)); fieldOn s 0 = true ∧
    unitIn (coreAt s 0) .mv .running = some (ent .mv .running (2 ^ 56 * 0x60)) ∧
    (ent .mv .running (2 ^ 56 * 0x60)).srcs.any (·.stack) = false ∧ readCheck 0 [] (ent .mv .running (2 ^ 56 * 0x60)).srcs s = (s, none) :=
  ⟨by decide, by decide, by decide, rfl⟩
/-- An MVD whose weights lie behind the cache, with their lines present. -/
def entC : UnitEntry := { ent .mv .running (2 ^ 56 * 0x60) with srcs := [⟨true, 512, 2⟩, ⟨false, 512, 2⟩] }
def cachedS : State := progC 0 [] fun x => { x with units := [entC], cache := (List.range 5).map fun j => (64 + j, ⟨false, 0, List.replicate 256 1, 0, j⟩) }
theorem wit_mvdCached : fieldOn cachedS 0 = true ∧ unitIn (coreAt cachedS 0) .mv .running = some entC ∧ entC.srcs.any (·.stack) = true ∧
    entC.data = [] ∧ ((linesOf 16384 (mvdBytes entC)).all fun l => (mfind (coreAt cachedS 0).cache l).isSome) = true := by
  decide +kernel
theorem wit_mvdCachedCheck : accessCheck 0 [] entC.srcs (linesOf 16384 (mvdBytes entC)) (streamAhead 0 cachedS) = (streamAhead 0 cachedS, none) := by
  set_option maxRecDepth 20000 in
  rfl
theorem wit_mvdResult : let s := unitS (ent .mv .formed 0); fieldOn s 0 = true ∧
    unitIn (coreAt s 0) .mv .formed = some (ent .mv .formed 0) := by decide
theorem wit_staging : let u := ent .array .running (2 ^ 56 * 0x61); fieldOn (unitS u) 0 = true ∧
    unitIn (coreAt (unitS u) 0) .array .running = some u ∧ readCheck 0 [] (u.srcs.take 2) (unitS u) = (unitS u, none) :=
  ⟨by decide, by decide, rfl⟩
theorem wit_streamEnd : let u := ent .array .streaming (2 ^ 56 * 0x61); fieldOn (unitS u) 0 = true ∧
    unitIn (coreAt (unitS u) 0) .array .streaming = some u := by decide
theorem wit_passCheck : let u := ent .array .formed (2 ^ 56 * 0x61); fieldOn (unitS u) 0 = true ∧
    checkDue (coreAt (unitS u) 0) = some u ∧ u.again = false ∧ cellsAgree (cellsAfter u []) = true ∧
    cellsAgree (cellsAfter u [⟨3, 5, 1⟩]) = false := by decide +kernel
theorem wit_passCheckAgain : let u := { ent .array .formed (2 ^ 56 * 0x61) with again := true }; fieldOn (unitS u) 0 = true ∧
    checkDue (coreAt (unitS u) 0) = some u ∧ u.again = true ∧ cellsAgree (cellsAfter u [⟨32, 32, -2⟩]) = false := by decide +kernel
theorem wit_drain : let u := { ent .array .formed (2 ^ 56 * 0x61) with checked := 1 }; fieldOn (unitS u) 0 = true ∧
    ((coreAt (unitS u) 0).units.find? fun u => u.kind == .array && u.phase == .formed && u.checked == arrayPasses u.word) = some u ∧
    arrayAcc u.word = false := by decide
theorem wit_edgeEnd : let u := ent .edge .running (2 ^ 56 * 0x68); fieldOn (unitS u) 0 = true ∧
    unitIn (coreAt (unitS u) 0) .edge .running = some u ∧ readCheck 0 [] u.srcs (unitS u) = (unitS u, none) :=
  ⟨by decide, by decide, rfl⟩
theorem wit_edgeReady : let u := ent .edge .formed (2 ^ 56 * 0x68); fieldOn (unitS u) 0 = true ∧
    unitIn (coreAt (unitS u) 0) .edge .formed = some u ∧ u.dst.any (·.stack) = false ∧
    (∀ w ∈ u.writes, partialCheck 0 [] w.1 w.2.length (unitS u) = (unitS u, none)) :=
  ⟨by decide, by decide, by decide, fun w h => by
    obtain rfl : w = (32768, [1, 2]) := by simpa [ent] using h
    rfl⟩
/-- The quota of field 0 is 1, core 0 holds the permit and cores wait. -/
def permS (q : List Nat) : State :=
  setLive (pHq 0) 0x60 1 (setLive (pHq 0) 0x40 1 { prog 0 with fieldUnits := [(0, { FieldUnits.reset with permits := [0], quotaQ := q })] })
theorem wit_permit : fieldOn (permS []) 0 = true ∧ (unitsOf (permS []) 0).quotaQ = [] ∧
    ((coreAt (permS []) 0).units.any fun u => u.kind == .array && u.phase != .stuck) = false := by decide
theorem wit_permitPasses : fieldOn (permS [5]) 0 = true ∧ (unitsOf (permS [5]) 0).quotaQ = [5] ∧ 5 / 4096 = 0 / 4096 ∧
    0 ∈ (unitsOf (permS [5]) 0).permits ∧ (without 0 (unitsOf (permS [5]) 0).permits).length < effQuota (permS [5]) 0 := by decide

/-! ### CoreEventsAct -/

/-- A descriptor of core 0: a PUT or GET of 64 bytes of handle 1. -/
def dsc (op : Nat) : Desc :=
  { id := 3, op := op, handle := 1, off := 0, len := 64, notify := false, tally := 0, remote := BitVec.ofNat 64 0x40000, loc := 16384, tagged := false,
    active := false, credit := false, buf := [], sent := false, left := 64, failed := none }
/-- Core 0 with a descriptor in its queue. -/
def dmaS (d : Desc) : State := progC 0 [] fun x => { x with dmq := [d] }
theorem wit_wake : let s := progC 0 [] fun x => { x with threads := [(0, { th [] with st := .blocked, met := true })] }
    coreRuns s 0 = true ∧ (threadAt (coreAt s 0) 0).st = .blocked ∧ (threadAt (coreAt s 0) 0).met = true := by decide
theorem wit_descStart : let s := dmaS (dsc 2); coreRuns s 0 = true ∧
    ((coreAt s 0).dmq.find? fun d => d.active && d.op == 2 && !d.sent && putReady (coreAt s 0) d != 0) = none ∧
    ((coreAt s 0).dmq.find? fun d => !d.active) = some (dsc 2) ∧ ((coreAt s 0).dmq.filter (·.active)).length < 4 ∧
    remoteOf s 0 (dsc 2) = .floor ∧ (dsc 2).buf = [] ∧ putReady (coreAt s 0) (dsc 2) = (dsc 2).len ∧
    (let u := updDesc 0 3 (fun d => { d with active := true }) s; readCheck 0 [] [rngOf false 16384 64] u = (u, none)) :=
  ⟨by decide, by decide, by decide, by decide, by decide, by decide, by decide, rfl⟩
theorem wit_descEnd : let d := { dsc 1 with active := true, left := 0 }
    ((coreAt (dmaS d) 0).dmq.filter (·.active))[0]? = some d ∧ d.op = 1 ∧ d.failed = none := by decide
theorem wit_notice : let s := { dmaS (dsc 2) with notices := [⟨.desc 0 3, E.targetDark, 0⟩] }
    s.notices[0]? = some ⟨.desc 0 3, E.targetDark, 0⟩ := rfl
theorem wit_noticeRdm : let s := { dmaS (dsc 2) with notices := [⟨.rdm 0 1 64, E.targetDark, 0⟩] }
    s.notices[0]? = some ⟨.rdm 0 1 64, E.targetDark, 0⟩ ∧ bit (coreAt s 0).dmaErr 63 = false := ⟨rfl, rfl⟩
/-- A DATA message of 32 bytes to slot 512 of core 0, tagged. -/
def arr : Msg := { msgNull with addr := 16384, tag := true, payload := List.replicate 32 7 }
/-- It has arrived. -/
def arrSt : State := { progC 0 [] (fun x => { x with eject := [arr] }) with owner := [(0, 0)] }
theorem wit_arrival : fieldSt arrSt 0 = .on ∧ (coreAt arrSt 0).eject = [arr] ∧ answersGone arrSt 0 arr.origin = false ∧ fenceOwner arrSt arr.src (mfind arrSt.owner 0) = true ∧
    landing (coreAt arrSt 0) arr = .write ∧ arr.cls ≠ .reduce := by decide
/-- A core with a cache bank, a miss whose line has come, and lines. -/
def cacheS (l : Map CacheLine) : State :=
  progC 0 [] fun x => { x with bankMode := 0x955554, misses := [⟨64, some [1]⟩], cache := l }
theorem wit_fill : coreRuns (cacheS []) 0 = true ∧ (coreAt (cacheS []) 0).misses.find? (fun q => q.line == 64) = some ⟨64, some [1]⟩ ∧
    cacheBanks (coreAt (cacheS []) 0) ≠ 0 ∧ victim (coreAt (cacheS []) 0) 64 = none := by decide
/-- The set of line 64 is full of dirty lines. -/
def fullSet : Map CacheLine := [(0, ⟨true, 1, [9], 11, 0⟩), (16, ⟨true, 2, [9], 11, 0⟩), (32, ⟨true, 3, [9], 11, 0⟩), (48, ⟨true, 4, [9], 11, 0⟩)]
theorem wit_writeback : coreRuns (cacheS fullSet) 0 = true ∧ writebackDue (coreAt (cacheS fullSet) 0) = some (0, ⟨true, 1, [9], 11, 0⟩) := by decide
theorem wit_sparge : fieldSt (prog 0) 0 = .on ∧ bankMode (coreAt (prog 0) 0) ((coreAt (prog 0) 0).sparge / 512) = 0 := by decide

/-! ### WindowCommandsReachTheCore -/

/-- Window of field 0 at core 0, a space and an index. -/
def cawS (sp i : Nat) (s : State) : State := setLive (pCaw 0) 0x804 (BitVec.ofNat 32 (2 ^ 14 * sp + i)) s
/-- Core 0 with stopped threads. -/
def idleS : State := progC 0 [] fun x => { x with threads := [(0, { th [(1, 5)] with st := .stopped })] }
theorem wit_caw : let s := cawS 0 0x130 idleS; pageDark s (pCaw 0) = false ∧ coreIdCheck s (liveF s (pCaw 0) 0x800 11 0) = none ∧
    liveF s (pCaw 0) 0x804 15 14 = 0 ∧ coreReg (coreAt s 0) (liveF s (pCaw 0) 0x804 13 0) = some 0 := by decide
theorem wit_cawShadow : let s := cawS 1 0x80 idleS; pageDark s (pCaw 0) = false ∧ coreIdCheck s (liveF s (pCaw 0) 0x800 11 0) = none ∧
    liveF s (pCaw 0) 0x804 15 14 = 1 ∧ liveF s (pCaw 0) 0x804 13 0 = 0x80 ∧ sealedCore s .host 0 = false ∧
    pageLocked s (pCaw 0) = false := by decide
theorem wit_cawShadowEdge : let s := cawS 1 0x5F idleS; liveF s (pCaw 0) 0x804 15 14 = 1 ∧ liveF s (pCaw 0) 0x804 13 0 = 0x5F := by decide
theorem wit_cawCtx : let s := cawS 2 0x1F idleS; pageDark s (pCaw 0) = false ∧ coreIdCheck s (liveF s (pCaw 0) 0x800 11 0) = none ∧
    liveF s (pCaw 0) 0x804 15 14 = 2 ∧ liveF s (pCaw 0) 0x804 13 0 = 0x1F ∧ sealedCore s .host 0 = false ∧
    (threadAt (coreAt s 0) 0).st = .stopped ∧ ctxRead (threadAt (coreAt s 0) 0) 0x1F = some 0 := by decide
theorem wit_coreCmd : coreEnabled idleS (coreId c0) = true ∧ c0.field = 0 ∧ pageDark idleS (pCaw 0) = false ∧
    coreIdCheck idleS (4096 * 0 + liveF idleS (pCaw 0) 0x800 11 0) = none ∧ sealedCore idleS .host 0 = false ∧
    (hview (coreAt idleS 0) 2).tagged = true ∧ (hview (coreAt idleS 0) 1).tagged = false ∧ (hview (coreAt idleS 0) 63).valid = false := by decide

/-! ### HazardDetectorCommands -/

theorem wit_hd : pageDark (prog 0) (pHd 0) = false ∧ (live (prog 0) (pHd 0) 0x808).toNat % 8 = 0 := by decide
theorem wit_hdMisaligned : let s := setLive (pHd 0) 0x808 4 (prog 0); pageDark s (pHd 0) = false ∧
    (live s (pHd 0) 0x808).toNat % 8 ≠ 0 ∧ errValid s (pHd 0) = false := by decide

/-! ### TalliesAddFireAndWake -/

/-- A message to tally 5 at the block of field 0, from core 0. -/
def tmsg (op : TallyOp) (v : Nat) : Msg := { msgNull with cls := .tally, op := op, tally := 5, value := v, src := 0 }
/-- It has reached the block. -/
def tallyS (q : Msg) : State :=
  { prog 0 with tallyIn := [(0, [(2, q)])], owner := [(0, 0)], tallyOwner := [(5, 0)], waits := [(2, [⟨5, 0, .thread 0 1⟩])] }
theorem wit_tallyAdd : isDark (tallyS (tmsg .add 0xFFFFFE)) 0 = false ∧ mget [] (tallyS (tmsg .add 0xFFFFFE)).tallyIn 0 = [(2, tmsg .add 0xFFFFFE)] ∧
    fenceOwner (tallyS (tmsg .add 0xFFFFFE)) 0 (mfind (tallyS (tmsg .add 0xFFFFFE)).tallyOwner 5) = true := by decide
theorem wit_tallySet : isDark (tallyS (tmsg .set 0)) 0 = false ∧ mget [] (tallyS (tmsg .set 0)).tallyIn 0 = [(2, tmsg .set 0)] ∧
    fenceOwner (tallyS (tmsg .set 0)) 0 (mfind (tallyS (tmsg .set 0)).tallyOwner 5) = true := by decide
theorem wit_tallyReg : isDark (tallyS (tmsg .reg 0)) 0 = false ∧ mget [] (tallyS (tmsg .reg 0)).tallyIn 0 = [(2, tmsg .reg 0)] ∧
    (tallyAt (tallyS (tmsg .reg 0)) 5).epoch = (tmsg .reg 0).epoch ∧ (mget [] (tallyS (tmsg .reg 0)).waits (4 * 0 + 2)).length < 16 := by decide
theorem wit_tallyRegFull : let s := { tallyS (tmsg .reg 0) with waits := [(2, List.replicate 16 ⟨6, 0, .thread 0 1⟩)] }
    16 ≤ (mget [] s.waits (4 * 0 + 2)).length ∧ srcIsCore (tmsg .reg 0).src = true := by decide
theorem wit_tallyCmd : pageDark (prog 0) (fieldPage 0 8) = false := by decide
/-- Thread 0 of core 0 waits on tally 5. -/
def waitTh : Thread := { th [] with st := .blocked, wait := .tally 5 0 3 }
theorem wit_wakeReply : let s := progC 0 [] fun x => { x with threads := [(0, waitTh)], wakes := [{ tmsg .wake 7 with epoch := 1 }] }
    isDark s 0 = false ∧ (threadAt (coreAt s 0) 0).st = .blocked ∧ (threadAt (coreAt s 0) 0).wait = .tally 5 0 3 ∧
    (threadAt (coreAt s 0) 0).met = false := by decide
theorem wit_regRetry : let s := progC 0 [] fun x => { x with threads := [(0, waitTh)], refused := [0] }
    isDark s 0 = false ∧ (coreAt s 0).refused.contains 0 = true ∧ (threadAt (coreAt s 0) 0).wait = .tally 5 0 3 := by decide

/-! ### RoutersRouteDropAndReplay -/

/-- A DATA message to core (CX 5, CY 0) of field 0. -/
def hop : Msg := { msgNull with dx := 5, addr := 0x140000, payload := List.replicate 32 1, src := 0 }
/-- It is at the head of the combine input of router 0. -/
def routeS (m : Msg) : State := { prog 0 with routers := [(0, { Router.reset with queues := [(12, [m])] })] }
/-- What a head must meet to be routed, as one check. -/
def routable (s : State) (m : Msg) : Bool :=
  !isDark s 0 && headOf s 0 6 false == some m && m.path.isEmpty && !localLost s 0 6 && m.cls != .reduce && !atMergePoint 0 m && granted s 0 6 false m
theorem wit_route : let s := routeS hop; let p := popHead 0 6 false s; routable s hop = true ∧ nextDir 0 (atWaypoint 0 hop) = 4 ∧
    shutOff p (fieldOfCore (neighbour 0 4)) = false ∧ linkFailed p 0 4 = false ∧ retired p (neighbour 0 4) = false ∧
    hasRoom 16 (outQueue p 0 4 false) hop = true := by decide
theorem wit_routeFull : let s := { prog 0 with routers := [(0, { Router.reset with queues := [(12, [hop])], outq := [(8, List.replicate 8 { hop with dx := 6 })] })] }
    routable s hop = true ∧ hasRoom 16 (outQueue (popHead 0 6 false s) 0 4 false) hop = false := by decide
theorem wit_routeFailed : let s := { prog 0 with routers := [(0, { Router.reset with queues := [(12, [hop])], failed := [4] })] }
    routable s hop = true ∧ linkFailed (popHead 0 6 false s) 0 4 = true := by decide
theorem wit_arrive : let y := { hop with dx := 0, addr := 0 }; let s := routeS y; let p := popHead 0 6 false s
    routable s y = true ∧ nextDir 0 (atWaypoint 0 y) = 0 ∧ isArrival (atWaypoint 0 y) = true ∧ linkFailed p 0 0 = false ∧
    (coreAt p 0).eject = [] ∧ fieldSt p 0 = .on ∧ (atWaypoint 0 y).cls = .data := by decide
/-- A message in the output queue of router 1 toward router 0, awaiting a replay there where `w`. -/
def crossS (w : Bool) : State := { prog 0 with routers := [(0, { Router.reset with replay := if w then [8] else [] }),
  (1, { Router.reset with outq := [(6, [hop])] })] }
theorem wit_cross : upstream (crossS false) 0 4 false = [hop] ∧ linkRuns (crossS false) 0 4 false = true ∧
    hasRoom 16 (inQueue (crossS false) 0 4 false) hop = true := by decide
theorem wit_replay : isDark (crossS true) 0 = false ∧ arriving (crossS true) 0 4 false = some hop ∧ inReplay (crossS true) 0 4 false = true ∧
    onFloor 0 4 = true ∧ linkFailed (crossS false) 0 4 = false := by decide

/-! ### ReductionsCombineAndReadsMerge -/

/-- A contribution of 1 of TOTAL 2 to the owner at a core of field 0. -/
def red (dx : Nat) : Msg :=
  { msgNull with cls := .reduce, dx := dx, addr := 0x40000 * dx, rtag := 6, total := 2, count := 1, lt := true, src := 0, payload := List.replicate 256 1 }
/-- A head with a combine table. -/
def redS (m : Msg) (l : Map Combine) : State :=
  { prog 0 with routers := [(0, { Router.reset with queues := [(12, [m])], combine := l })], owner := [(0, 0)] }
/-- What a head must meet for its row, as one check. -/
def atHead (s : State) (m : Msg) : Bool :=
  !isDark s 0 && headOf s 0 6 false == some m && m.path.isEmpty && !localLost s 0 6 && granted s 0 6 false m
theorem wit_transit : let s := redS (red 5) [(0, ⟨false, red 5, false⟩)]; atHead s (red 5) = true ∧
    atData 0 (red 5) = false ∧ ((routerAt s 0).combine.find? fun e => !e.2.owner && canAdd e.2.msg (red 5)) = some (0, ⟨false, red 5, false⟩) := by decide +kernel
theorem wit_release : let s := redS hop [(0, ⟨false, red 5, false⟩)]; mfind (routerAt s 0).combine 0 = some ⟨false, red 5, false⟩ ∧
    granted { s with routers := [(0, { routerAt s 0 with queues := [] })] } 0 6 false (red 5) = true ∧
    (moveOn 0 (red 5) (setRouter 0 { routerAt s 0 with combine := mdel (routerAt s 0).combine 0 } s)).isSome = true := by decide +kernel
theorem wit_owner : let s := redS (red 0) [(0, ⟨true, red 0, false⟩)]; atHead s (red 0) = true ∧ atData 0 (red 0) = true ∧
    linkFailed s 0 0 = false ∧ fenceOwner s 0 (mfind s.owner 0) = true ∧
    ((routerAt s 0).combine.find? fun e => e.2.owner && e.2.msg.rtag == 6) = some (0, ⟨true, red 0, false⟩) ∧ canAdd (red 0) (red 0) = true := by decide +kernel
theorem wit_ownerNew : let s := redS (red 0) []; atHead s (red 0) = true ∧ freeIndex (routerAt s 0).combine 8 = some 0 ∧
    ownerGranted s 0 6 false = true ∧ ((routerAt s 0).combine.find? fun e => e.2.owner && e.2.msg.rtag == 6) = none := by decide +kernel
/-- A READ of 32 bytes of core 0. -/
def rdq (nomerge : Bool) : Msg := { msgNull with cls := .read, addr := 16384, rflits := 1, nomerge := nomerge, src := 0, origin := .rdm 0 1 0 }
/-- It is at the head of input 6, with a merge table. -/
def rdS (m : Msg) (l : Map MergeEntry) : State :=
  { prog 0 with routers := [(0, { Router.reset with queues := [(12, [m])], merge := l })], owner := [(0, 0)] }
theorem wit_readServe : let s := rdS (rdq true) []; let p := popHead 0 6 false s; atHead s (rdq true) = true ∧ atData 0 (rdq true) = true ∧
    fieldSt p 0 = .on ∧ clearingBank (coreAt p 0) (rngOf false 16384 32) = none ∧ readFenced s (atWaypoint 0 (rdq true)) = true ∧
    linkFailed p 0 0 = false ∧ openEntry p 0 (rdq true) = none ∧ anyMode (coreAt p 0) (rngOf false 16384 32) 2 = false ∧
    (readCheck 0 [] [rngOf false 16384 32] p).2 = none := by decide +kernel
theorem wit_readOpen : freeMerge (popHead 0 6 false (rdS (rdq false) [])) 0 (rdq false) = some 0 := by decide +kernel
/-- An entry that is open for it. -/
def openE : MergeEntry := ⟨16384, 1, [mergeReq (rdq false)], true, 0, some [1], 0⟩
theorem wit_readAbsorb : (openEntry (popHead 0 6 false (rdS (rdq false) [(3, openE)])) 0 (atWaypoint 0 (rdq false))).isSome = true := by decide +kernel
theorem wit_close : let s := rdS (rdq false) [(3, openE)]; mfind (routerAt s 0).merge 3 = some openE ∧ openE.reply.isSome = true ∧
    (routerAt s 0).fan.contains 3 = false := by decide +kernel
theorem wit_copy : let s := setRouter 0 { routerAt (rdS (rdq false) [(3, openE)]) 0 with fan := [3] } (prog 0); (routerAt s 0).fan = 3 :: [] ∧
    mfind (routerAt s 0).merge 3 = some openE ∧ openE.reqs = mergeReq (rdq false) :: [] := by decide +kernel
theorem wit_flush : pageDark (prog 0) (pFab 0) = false ∧ reaches .mc (prog 0) = true := by decide +kernel

/-! ### RegisterAccesses -/

theorem wit_reaches : reaches .mc (prog 0) = true ∧ reaches .host { prog 0 with host := { (prog 0).host with memSpace := true } } = true := by decide
theorem wit_cfg : ((regAt (fieldPage 0 1) 0x40).isSome && isCfg 0x40 && !pageDark (prog 0) (fieldPage 0 1) &&
    !pageLocked (prog 0) (fieldPage 0 1) && ((regAt (fieldPage 0 1) 0x40).map fun r => accMask [.rw] r != 0) == some true) = true := by decide
/-- Page +1 of field 0 is enrolled in a group in a state. -/
def grpS (st : GState) : State :=
  { prog 0 with groups := [(0, { groupReset with st := st, pages := [fieldPage 0 1], commit := 9 })] }
theorem wit_cfgLocked : pageLocked (grpS .armed) (fieldPage 0 1) = true ∧ pageDark (grpS .armed) (fieldPage 0 1) = false ∧
    (regAt (fieldPage 0 1) 0x40).isSome = true := by decide
theorem wit_reserved : ((regAt 8 0x800).map fun r => ((2 : Word) &&& reservedMask r != 0 : Bool)) = some true ∧ isCfg 0x800 = false ∧
    isShadowOff 0x800 = false ∧ pageDark (prog 0) 8 = false := by decide
theorem wit_unassigned : regAt 8 0x900 = none ∧ isShadowOff 0x440 = true ∧ isShadowOff 0x7FC = true := by decide
theorem wit_blkErr : ((regAt 8 0x10).map fun r => ((0x80000000 : Word) &&& reservedMask r == 0 : Bool)) = some true := by decide
theorem wit_dark : darkPage State.reset (fieldPage 0 1) = true := by decide

/-! ### TransactionGroupsLive -/

theorem wit_alloc : (grp State.reset 0).st = .free ∧ (∀ j < 0, (grp State.reset j).st ≠ .free) := by decide
theorem wit_allocMc : let s := { State.reset with groups := (List.range 60).map fun k => (k, { groupReset with st := .opened }) }
    (grp s 60).st = .free ∧ (∀ j < 60, (grp s j).st ≠ .free) ∧ 60 < 64 := by decide +kernel
theorem wit_enrol : let s := { State.reset with groups := [(3, { groupReset with st := .opened })] }
    pageAssigned 8 = true ∧ pageDark s 8 = false ∧ pageLocked s 8 = false ∧ pageGroup s 8 = none ∧ (grp s 3).st = .opened := by decide
theorem wit_withdraw : let s := { State.reset with groups := [(3, { groupReset with st := .opened, pages := [8] })] }
    pageAssigned 8 = true ∧ pageDark s 8 = false ∧
    pageLocked s 8 = false ∧ pageGroup s 8 = some 3 := by decide
theorem wit_arm : (grp (grpS .opened) (sel (grpS .opened) .host).1).st = .opened ∧
    1 ≤ ((grp (grpS .opened) 0).commit - (grpS .opened).beat.now).toNat ∧ (grpS .opened).beat.mode ≠ .locked := by decide
theorem wit_armLate : let s := { grpS .opened with beat := { BeatUnit.reset with mode := .locked, now := 9 } }
    (grp s 0).st = .opened ∧ ¬ (1 ≤ ((grp s 0).commit - s.beat.now).toNat) ∧ s.beat.mode = .locked := by decide
theorem wit_done : (grp (grpS .done) 0).st = .done ∧ (grp (grpS .done) 0).st ≠ .opened ∧ (grp (grpS .done) 0).st ≠ .armed := by decide
theorem wit_validate : (grp (grpS .validating) 0).st = .validating ∧ pageBad (grpS .validating) (grp (grpS .validating) 0) (fieldPage 0 1) = none := by decide +kernel
theorem wit_validateBad : let s := { grpS .validating with shadow := [(regKey (fieldPage 0 1) 0x40, 4)] }
    (grp s 0).st = .validating ∧ (pageBad s (grp s 0) (fieldPage 0 1)).isSome = true := by decide +kernel
theorem wit_nowApply : let s := { prog 0 with groups := [(0, { groupReset with st := .irrevocable, isNow := true, pages := [fieldPage 0 1] })] }
    (grp s 0).st = .irrevocable ∧ (grp s 0).isNow = true ∧ s.recov.plan = none ∧ s.weights.load = none ∧ pageKind (fieldPage 0 1) = .clock 0 := by decide
theorem wit_nowApplyHook : (∀ n o q, pageHook n o (fieldPage 0 1) q = q) ∧ (∀ f, pageKind (fieldPage 0 1) ≠ .fabric f ∧ pageKind (fieldPage 0 1) ≠ .caw f) ∧
    Canonical { prog 0 with groups := [(0, { groupReset with st := .irrevocable, isNow := true, pages := [fieldPage 0 1] })] } := by
  refine ⟨fun n o q => rfl, fun f => ⟨?_, ?_⟩, ⟨rfl, rfl, rfl, rfl, rfl, rfl, rfl⟩⟩ <;> (have h : pageKind (fieldPage 0 1) = .clock 0 := rfl) <;> rw [h] <;> exact PageKind.noConfusion

/-! ### BeatUnitFollowsItsSource -/

/-- A well-formed frame. -/
def frameN (n : Beat) : BeatFrame := ⟨0xA5, n, 0, true⟩
/-- The beat unit in a mode, its source the external input, which has sent two frames. -/
def beatS (m : BeatMode) : State :=
  { State.reset with live := [(regKey 8 0x40, 1), (regKey 8 0x44, 4000)], shadow := [(regKey 8 0x40, 1), (regKey 8 0x44, 4000)], beat := { BeatUnit.reset with mode := m, activeSrc := 1, acq := ⟨6, 2, 0, true⟩, ext := ⟨6, 2, 0, true⟩, lossPeriod := 4000 } }
/-- Link 2 is up. -/
def upS : State := { beatS .locked with links := [(2, { Link.reset with st := .up })] }
theorem wit_beatFrame : (beatS .acquiring).beat.activeSrc.toNat = candSrc .ext ∧ (beatS .acquiring).beat.mode = .acquiring ∧
    (7 : Beat) = (beatS .acquiring).beat.acq.number + 1 ∧ 0 - (beatS .acquiring).beat.acq.last ≤ 16 * periodNs (beatS .acquiring) := by decide
theorem wit_frameDelay : compDelay (beatS .acquiring) = 0 ∧ (beatS .acquiring).beat.lockAt = none := by decide
theorem wit_frameLate : 0 < compDelay { beatS .acquiring with live := [(regKey 8 0x40, 1), (regKey 8 0x44, 4000), (regKey 8 0x48, 100)] } := by decide
/-- A BEAT flit of number 7, sealed with the keys of the peer of link 2. -/
def beatFlit (key : List Byte × List Byte) : LinkFlit := ⟨sealFlit key tyBeat 0 0 (leBytes 6 7), 0⟩
theorem wit_marker : linkUp upS 2 = true ∧ ¬ upS.beat.activeSrc.toNat = candSrc (.link 2) ∧ (linkAt upS 1).st = .down ∧
    flitDue (linkAt upS 2) (flitSeq (flitHeader tyBeat 0 0)) = some 0 ∧ flitType (flitHeader tyBeat 0 0) = tyBeat := by decide
theorem wit_lockAt : let s := { beatS .acquiring with beat := { (beatS .acquiring).beat with lockAt := some 8 } }
    s.beat.mode = .acquiring ∧ s.beat.lockAt = some 8 ∧ tickDue 40 { s with beat := { s.beat with edgeSince := true, prevArrival := some 40 } } = true := by decide
theorem wit_locked : (beatS .locked).beat.mode = .locked ∧ (candOf (beatS .locked) .ext).seen = true ∧
    (7 : Beat) = (candOf (beatS .locked) .ext).number + 1 ∧ (beatS .locked).beat.broken = false ∧ tickDue 40 (beatS .locked) = false := by decide
theorem wit_lost : (beatS .locked).beat.edgeSince = false ∧ 16 * (beatS .locked).beat.lossPeriod < 70000 - (beatS .locked).beat.tickAt ∧
    (beatS .locked).recov.plan = none := by decide
theorem wit_silent : 16 * periodNs (beatS .locked) < 300000 - (candOf (beatS .locked) .ext).last ∧ 1 - (candOf (beatS .locked) .ext).last ≤ 16 * periodNs (beatS .locked) := by decide
theorem wit_restart : (beatS .lost).beat.mode ≠ .locked ∧ beatCheck (beatS .lost) = none ∧ Canonical (beatS .lost) :=
  ⟨by decide, by decide +kernel, ⟨rfl, rfl, rfl, rfl, rfl, rfl, rfl⟩⟩
theorem wit_restartBad : beatCheck { beatS .lost with shadow := [(regKey 8 0x40, 1), (regKey 8 0x44, 1)] } = some (E.beatCfgInvalid, 0x44) := by decide +kernel

/-! ### OnlyTicksMoveTheBeat -/

theorem wit_onlyTicks : ∃ t, exec .beatRestart (beatS .locked) = .next t ∧ (beatS .locked).beat.mode = .locked := ⟨_, rfl, rfl⟩
/-- An edge arrived at time 0. -/
def edgeS (s : State) : State := { s with beat := { s.beat with edgeSince := true, prevArrival := some 0 } }
theorem wit_onlyTicksTick : let s := edgeS (beatS .locked); s.beat.mode = .locked ∧ tickDue 0 s = true ∧ ∃ t, exec (.beatTick 0) s = .next t :=
  ⟨rfl, rfl, _, rfl⟩
theorem wit_onlyTicksEnter : let s := edgeS { beatS .acquiring with beat := { (beatS .acquiring).beat with lockAt := some 8 } }
    s.beat.mode ≠ .locked ∧ tickDue 0 s = true ∧ ∃ t, exec (.beatTick 0) s = .next t ∧ t.beat.mode = .locked :=
  ⟨by decide, rfl, wholeTick 0 8 true (edgeS { beatS .acquiring with beat := { (beatS .acquiring).beat with lockAt := some 8 } }), rfl,
    eq_of_beq (congrArg (fun x => x.2.2) (wholeTick_keeps (p := ([], (0, 0), false)) ⟨rfl, ⟨rfl, rfl, rfl, rfl, rfl, rfl, rfl⟩⟩).1)⟩

/-! ### StacksReadAndWriteTheirRegions -/

/-- The key of the stack's region. -/
def skey : StoreKey := [7, 9]
/-- Stack 0 is on, with a region of 1 MB under key slot 3 and a request. -/
def stackS (keys : Map StoreKey) (m : Msg) : State :=
  { State.reset with
    fields := [(0, { FieldPower.reset with st := .on })]
    live := [(regKey (stackPage 0 0) 0x44, 1), (regKey (stackPage 0 0) 0x48, 0x80000003)]
    stk := [(0, { Stack.reset with keys := keys, inbox := [m] })] }
/-- A READ of two flits at an offset, from another stack. -/
def sreq (off : Nat) : Msg := { msgNull with cls := .read, addr := stackAddr 0 off, rflits := 2, src := 0x7D001, origin := .desc 0 4 }
/-- A DATA message. -/
def swr (off : Nat) : Msg := { msgNull with addr := stackAddr 0 off, payload := [1, 2], src := 0x7D001, origin := .desc 0 4 }
theorem wit_stackRead : let s := stackS [(3, skey)] (sreq 512)
    frontRuns s 0 (sreq 512) = true ∧ stackOn s 0 = true ∧ accessRegion s 0 512 64 = .ok 0 ∧ fenceStack s 0x7D001 0 512 = true ∧
    regionKey s 0 0 = 3 ∧ regionWeight s 0 0 = false ∧ (sreq 512).rvia = false := by decide +kernel
theorem wit_stackWrite : let s := stackS [(3, skey)] (swr 511)
    frontRuns s 0 (swr 511) = true ∧ accessRegion s 0 511 2 = .ok 0 ∧ fenceStack s 0x7D001 0 511 = true ∧ isSegIn (swr 511) = false := by decide +kernel
theorem wit_stackNoRegion : accessRegion (stackS [] (sreq 0x100000)) 0 0x100000 64 = .error E.stackNoRegion ∧
    accessRegion (stackS [] (sreq 0xFFFE0)) 0 0xFFFE0 64 = .error E.lenOverrun := by decide +kernel
theorem wit_stackFence : fenceStack (stackS [] { sreq 0 with src := 0 }) 0 0 0 = false ∧ accessRegion (stackS [] (sreq 0)) 0 0 64 = .ok 0 := by decide +kernel
theorem wit_stackKey : mfind (stackAt (stackS [] (sreq 0)) 0).keys (regionKey (stackS [] (sreq 0)) 0 0) = none ∧
    fenceStack (stackS [] (sreq 0)) 0x7D001 0 0 = true := by decide +kernel
theorem wit_stackEcc : (eccEvents 0 512 (hitsIn [.failed (stackAddr 0 512)] (touched false (stackAddr 0 512) 64).1
    (touched false (stackAddr 0 512) 64).2) (stackS [] (sreq 512))).1 = some E.stackEccFail := by decide +kernel
/-- The region is a WEIGHT region, its unit 1 consistent with one CRC and misread as another. -/
def crcS : State := { stackS [(3, skey)] (sreq 512) with
  live := [(regKey (stackPage 0 0) 0x44, 1), (regKey (stackPage 0 0) 0x48, 0xC0000003)]
  stackMem := (List.range 512).map fun i => (stackAddr 0 512 + i, 0)
  stackKey := [(stackAddr 0 512 / 512, skey)], stackCrc := [(stackAddr 0 512 / 512, 0)] }
theorem wit_stackCrc : regionWeight crcS 0 0 = true ∧ accessRegion crcS 0 512 64 = .ok 0 ∧
    [false, true].all (fun g => crc32c (readBytes crcS skey [] g (512 * (stackAddr 0 512 / 512)) 512) != crcOf crcS (stackAddr 0 512 / 512)) = true := by
  decide +kernel

/-! ### ChannelsRunTheirLists -/

/-- A fill of 64 bytes at the start of stack 0, the last descriptor of its list. -/
def fillD : ChDesc := { op := 2, notify := true, tally := 5, wait := false, waitTally := 0, last := true, tag := false, src := 0,
                        dst := BitVec.ofNat 64 (stackAddr 0 0), len := 64, next := 0 }
/-- Channel 2 of stack 0. -/
def chanS (c : Chan) : State :=
  { stackS [(3, skey)] msgNull with stk := [(0, { Stack.reset with keys := [(3, skey)], chans := [(2, c)] })] }
theorem wit_chStart : pageDark (chanS .reset) (stackPage 0 1) = false ∧ (chanAt (stackAt (chanS .reset) 0) 2).st = .idle := by decide +kernel
theorem wit_chBusy : (chanAt (stackAt (chanS { Chan.reset with st := .running }) 0) 2).st = .running := by decide
theorem wit_chFetch : let s := chanS { Chan.reset with st := .running }
    stackRuns s 0 = true ∧ behind s 0 (stackAddr 0 0) 32 = false ∧ accessRegion s 0 0 32 = .ok 0 ∧ mfind (stackAt s 0).keys (regionKey s 0 0) = some skey := by decide +kernel
/-- The bytes of a descriptor that does nothing and ends its list. -/
def chNop : List Byte := leBytes 8 (3 * 2 ^ 60 + 2 ^ 27) ++ leBytes 24 0
theorem wit_chFetchOk : let s := { chanS { Chan.reset with st := .running } with stackMem := putBytes [] (stackAddr 0 0) chNop, stackKey := [(stackAddr 0 0 / 512, skey)] }
    plainBytes s skey (stackAddr 0 0) 32 = chNop ∧ chDescCheck s 0 (chDescOf chNop).1 (chDescOf chNop).2 = none ∧ (chDescOf chNop).1.wait = false := by decide +kernel
theorem wit_chFetchBad : chDescCheck (chanS .reset) 0 (chDescOf (List.replicate 32 0)).1 0 = some E.dmaOpInvalid := by decide +kernel
theorem wit_chWait : let s := chanS { Chan.reset with st := .waiting, desc := some fillD, woken := some 1 }
    stackRuns s 0 = true ∧ (chanAt (stackAt s 0) 2).woken = some 1 ∧ (1 : BitVec 16) ≠ (chanAt (stackAt s 0) 2).lastEpoch := by decide +kernel
theorem wit_chPool : let s := { chanS { Chan.reset with st := .stalled, desc := some fillD } with owner := [(0, 0)] }
    sideOwn s 0 fillD.dst = true ∧ chanTenant s 0 (chanAt (stackAt s 0) 2) = some 3 ∧ fenceSide s (some 3) fillD.dst 0 = true ∧ segLen fillD 0 = 64 ∧
    sideCheck s fillD.dst 64 = none ∧ placeKey s 0 fillD.dst 0 = some skey ∧
    poolUnits 64 ≤ (stackAt s 0).poolFree := by decide +kernel
/-- Its segment. -/
def fillG : Seg := ⟨0, 0, 64, 64, List.replicate 64 0, 1, some skey, false⟩
theorem wit_chSegment : let s := chanS { Chan.reset with st := .running, desc := some fillD, started := 64, segs := [fillG] }
    chRemote s fillD = none ∧ fillG.data ≠ [] ∧ fillG.data.length = fillG.len ∧ behind s 0 (stackAddr 0 0) 64 = false := by decide +kernel
theorem wit_chEnd : let s := chanS { Chan.reset with st := .running, desc := some fillD, started := 64 }
    stackRuns s 0 = true ∧ (chanAt (stackAt s 0) 2).segs = [] ∧ fillD.len ≤ (chanAt (stackAt s 0) 2).started := by decide +kernel
theorem wit_chEndFailed : let s := chanS { Chan.reset with st := .running, desc := some fillD, failed := some E.fenceViolation }
    stackRuns s 0 = true ∧ chRemote s fillD = none ∧ (chanAt (stackAt s 0) 2).failed = some E.fenceViolation := by decide +kernel

/-! ### ModelsLoadAndUnload -/

/-- Page 0x0018 with a model's status. -/
def wlS (st : Nat) (w : Weights) : State := { State.reset with live := [(regKey 0x18 0x200, BitVec.ofNat 32 (2 ^ 29 * st))], weights := w }
/-- A placement of one core of field 0, with one byte of content and a tally. -/
def onePlace : Placed :=
  { img := { PImg.mk 7 false false false [] [] [] [] with
      fields := [⟨0, 1, 0, [⟨0, 1, [64], []⟩], [⟨0, false, 8, [5]⟩], [], [], [], []⟩], tallies := [(5, 2)] }, cores := [[0]] }
/-- A model with that placement. -/
def placedW (j : Option LoadJob) : Weights := { State.reset.weights with models := [(0, { Model.reset with place := some onePlace })], load := j }
/-- An image without ranges. -/
def noImg : GristImg := ⟨1, 7, 0, 0, [], 0, [], [], []⟩
theorem wit_loadBusy : let s := { State.reset with live := [(regKey 0x18 0x820, 0x40000000)] }
    s.weights.asked = none ∧ cmdBusy s 0x820 = true := by decide +kernel
theorem wit_load : State.reset.weights.asked ≠ some 1 ∧ cmdBusy State.reset 0x820 = false ∧ mcStops State.reset = false ∧
    modelState State.reset 0 = 0 ∧ addr64 State.reset 0x80C = 0 := by decide +kernel
theorem wit_loadRefused : let s := { wlS 1 (placedW (some ⟨0, .commit 60, noImg⟩)) with groups := [(60, { groupReset with st := .done, code := E.late })] }
    (grp s 60).st = .done ∧ s.weights.load = some ⟨0, .commit 60, noImg⟩ := by decide +kernel
theorem wit_loadContent : let s := wlS 1 (placedW (some ⟨0, .content, noImg⟩))
    (modelAt s 0).place = some onePlace ∧ (∀ c ∈ coresOf onePlace, (coreAt s c).clearing = []) ∧ boundCore onePlace 0 0 = some 0 := by decide +kernel
theorem wit_loadLanding : let s := wlS 1 (placedW (some ⟨0, .landing, noImg⟩))
    (modelAt s 0).place = some onePlace ∧ contentsFly s 0 = false ∧ onePlace.img.debug = false := by decide +kernel
theorem wit_loadThreads : let s := wlS 1 (placedW (some ⟨0, .threads, noImg⟩))
    pageGroup s 0x18 = none ∧ (threadAt (coreAt s 0) 0).st = .stopped ∧ (1 : BitVec 16).getLsbD 0 = true := by decide +kernel
theorem wit_unload : let s := wlS 2 (placedW none)
    modelState s 0 = 2 ∧ pageLocked s 0x18 = false ∧ streamsOf s 0 = [] ∧ cmdBusy s 0x820 = false := by decide +kernel
theorem wit_unloadLocked : let s := { wlS 2 (placedW none) with groups := [(0, { groupReset with st := .armed, pages := [0x18] })] }
    modelState s 0 ≠ 0 ∧ pageLocked s 0x18 = true := by decide +kernel
theorem wit_teardown : let s := wlS 3 { placedW none with unloading := some 0 }
    modelState s 0 = 3 ∧ inflight s 0 0 = 0 ∧ inflight s 0 1 = 0 ∧ (modelAt s 0).place = some onePlace := by decide +kernel

/-! ### EpochsInstallSwitchAndDrain -/

/-- Model 0 is READY with its placement, epoch A ACTIVE, epoch B in a state. -/
def epS (b : Nat) (w : Weights) : State :=
  { State.reset with
    live := [(regKey 0x18 0x200, BitVec.ofNat 32 (2 ^ 30 + 2 ^ 23 * 3 + 2 ^ 20 * b)), (regKey 0x18 0x800, 0x40)], weights := w
    beat := { BeatUnit.reset with mode := .locked } }
/-- A core range of one unit of 32 bytes at offset 0 of handle 0, without a mirror, and one unit's digest. -/
def oneImg (d : List Byte) : GristImg := ⟨2, 7, 0, 0, [], 0, [], [⟨0, 0, 0, 0xFF, 0, 0, 0, 32, 0, 0, 0⟩], [[d]]⟩
/-- An install of epoch B of model 0 whose unit has arrived. -/
def oneInst (d : List Byte) (host : Bool) : Inst :=
  ⟨0, 1, 0, false, oneImg d, .units, [], none, [(0, 0)], some ⟨0, 0, 0, [], host⟩, 0, 0⟩
theorem wit_install : let s := epS 0 (placedW none)
    cmdBusy s 0x820 = false ∧ mcStops s = false ∧ modelState s 0 = 2 ∧ epochSt s 0 1 = 0 ∧ pageLocked s 0x18 = false ∧ bits (live s 0x18 0x800) 6 6 = 1 := by
  decide +kernel
theorem wit_installBusy : epochSt (epS 2 (placedW none)) 0 1 ≠ 0 ∧ modelState (epS 2 (placedW none)) 0 ≠ 0 := by decide +kernel
theorem wit_installStreamed : let s := { epS 0 (placedW none) with live := [(regKey 0x18 0x200, 0x50000000), (regKey 0x18 0x800, 0x80)] }
    modelState s 0 = 2 ∧ epochSt s 0 0 = 0 ∧ bits (live s 0x18 0x800) 7 7 = 1 ∧ streamed s 0 = true := by decide +kernel
theorem wit_queryTimeout : let s := epS 1 { placedW none with inst := some { oneInst [] false with phase := .query } }
    instAt s 0 = some { oneInst [] false with phase := .query } ∧ (oneInst [] false).todo = [(0, 0)] ∧ (oneInst [] false).held.find? (svcLinks s).contains = none := by
  decide +kernel
theorem wit_queryPeer : let s := { epS 1 (placedW none) with
      live := [(regKey 0x703 0x40, 0x80000000)], links := [(3, { Link.reset with st := .up, peerJoined := true })] }
    [3].find? (svcLinks s).contains = some 3 := by decide +kernel
theorem wit_unitBad : let s := epS 1 { placedW none with inst := some (oneInst [] false) }
    (modelAt s 0).suspended = false ∧ unitLen (rangeOf (oneImg []) 0) 0 = 32 := by decide +kernel
theorem wit_unitDigest : sha256 ((List.range 32).map (mget 0 [])) ≠ [] := by
  intro h
  have := congrArg List.length h
  revert this
  decide +kernel
theorem wit_unitGood : let l := (List.range 32).map (mget 0 [])
    ((oneImg (sha256 l)).digests.getD 0 []).getD 0 [] = sha256 l ∧ gristPlace (epS 1 (placedW none)) 0 = some onePlace ∧
    coreUnit onePlace (rangeOf (oneImg (sha256 l)) 0) 0 = some (0, 0) ∧ (rangeOf (oneImg (sha256 l)) 0).stageStack = 0xFF :=
  ⟨rfl, by decide +kernel, rfl, rfl⟩
theorem wit_unitHost : let s := { epS 1 { placedW none with inst := some (oneInst [] true) } with live := [(regKey 0x20 0x48, 0xC0000001)] }
    (readImage ((oneImg []).addr + envHdr + unitPos (rangeOf (oneImg []) 0) 0) (unitLen (rangeOf (oneImg []) 0) 0) [] s).1 = .ok (List.replicate 32 0) ∧
    hostUnit s 0 (oneImg []) (rangeOf (oneImg []) 0) 0 (List.replicate 32 0) = [] ∧ s.weights.load = none := by
  refine ⟨?_, rfl, rfl⟩
  decide +kernel
theorem wit_epRelease : let s := epS 2 (placedW none)
    modelState s 0 ≠ 0 ∧ epochSt s 0 1 = 2 ∧ pageLocked s 0x18 = false := by decide +kernel
theorem wit_epDrain : let s := epS 4 (placedW none)
    s.beat.mode = .locked ∧ epochSt s 0 1 = 4 ∧ inflight s 0 1 = 0 ∧ (modelAt s 0).switching = none ∧ epochSt s 0 0 ≠ 4 := by decide +kernel
/-- Model 0 switches to epoch B, whose one unit has a mirror at the start of stack 0. -/
def switchS (ph : SwitchPhase) : State :=
  { stackS [(3, skey)] msgNull with
    weights := { State.reset.weights with models := [(0, { Model.reset with
      place := some onePlace, switching := some ⟨1, ph⟩, epB := some ⟨2, 7, 0, 0, [], 0, [], [⟨0, 0, 0, 0, 0, 0, 0, 32, 0, 0, 0⟩], [[]]⟩ })] }
    beat := { BeatUnit.reset with mode := .locked } }
theorem wit_switchCopy : inflight (switchS .draining) 0 (1 - 1) = 0 ∧ accessRegion (switchS .draining) 0 0 32 = .ok 0 ∧
    stackRead 0 0 32 true [] (switchS .draining) = (.ok (plainBytes (switchS .draining) skey (stackAddr 0 0) 32), switchS .draining) :=
  ⟨by decide +kernel, by decide +kernel, rfl⟩
theorem wit_switchUnits : let g : GristImg := ⟨2, 7, 0, 0, [], 0, [], [⟨0, 0, 0, 0, 0, 0, 0, 32, 0, 0, 0⟩], [[]]⟩
    (unitsOfImg g).filter (fun y => (rangeOf g y.1).kind == 0) = [(0, 0)] ∧ coreUnit onePlace (rangeOf g 0) 0 = some (0, 0) := by decide
theorem wit_switchWait : inflight { switchS .draining with live := [(regKey 0x18 0x300, 2)] } 0 0 ≠ 0 := by decide +kernel
theorem wit_switchDone : (modelAt (switchS .done) 0).switching = some ⟨1, .done⟩ ∧ (switchS .done).beat.mode = .locked ∧ srvOn (switchS .done) = false := by
  decide +kernel
theorem wit_unitDigestHost : sha256 [] ≠ [] := by
  intro h
  have := congrArg List.length h
  revert this
  decide +kernel

/-! ### AdapterSlotsLive -/

/-- Slot 0 in a state with streams bound. -/
def adS (a : AdSt) (refs : Nat) : State :=
  { epS 0 { placedW none with adapters := [(0, ⟨a, refs, 3, 0, 0, 0, 0, 32⟩)] } with beat := { BeatUnit.reset with mode := .locked } }
theorem wit_adInstall : cmdBusy (adS .ready 0) 0x850 = false ∧ mcStops (adS .ready 0) = false ∧ (adapterAt (adS .ready 0) 0).st ≠ .free ∧
    modelState (adS .ready 0) 0 = 2 ∧ (adapterAt (epS 0 (placedW none)) 0).st = .free := by decide +kernel
theorem wit_adReserved : bits (live { adS .ready 0 with live := [(regKey 0x18 0x834, 0xFFFF0000)] } 0x18 0x834) 31 16 = 0xFFFF := by decide
theorem wit_adBusy : let s := { adS .ready 0 with live := [(regKey 0x18 0x850, 0x40000000)] }
    ¬ (s.weights.adAsked = true ∨ (cmdBusy s 0x850 = false ∧ mcStops s = false)) := by decide +kernel
theorem wit_adFree : (adS .retiring 0).beat.mode = .locked ∧ (adapterAt (adS .retiring 0) 0).st = .retiring ∧ (adapterAt (adS .retiring 0) 0).refs = 0 ∧
    (adapterAt (adS .retiring 2) 0).refs ≠ 0 := by decide

/-! ### PollRequestsAndSelections -/

/-- Serving state with a poll due and the exchange memory behind the aperture. -/
def srvS (v : Serving) (ex : Map Byte) : State :=
  { State.reset with
    live := [(regKey 0x10 0x40, 4), (regKey 0x10 0x44, 0), (regKey 0x10 0x4C, 0x2000), (regKey 0x10 0x54, 0x3000), (regKey 0x10 0x64, 1),
             (regKey 0x16 0x50, 100), (regKey 0x1A 0x40, 0x20000), (regKey 0x20 0x48, 0xC0000001)]
    serving := v, exch := ex, sec := { State.reset.sec with tenants := [(0, 7)] } }
/-- A poll is due. -/
def pollV : Serving := { State.reset.serving with polling := true }
theorem exchRead_get (s : State) (a n j : Nat) (h : j < n) : (exchRead s a n)[j]? = some (mget 0 s.exch (a + j)) := by
  induction n generalizing a j with
  | zero => exact absurd h (Nat.not_lt_zero _)
  | succ n ih =>
    unfold exchRead
    cases j with
    | zero => rfl
    | succ j => rw [List.getElem?_cons_succ, ih _ _ (Nat.lt_of_succ_lt_succ h)]; congr 2; omega
theorem le_one (l : List Byte) (j : Nat) (b : Byte) (h : l[j]? = some b) : le l j 1 = b.toNat := by
  unfold le
  obtain ⟨h1, h2⟩ := List.getElem?_eq_some_iff.mp h
  rw [List.drop_eq_getElem_cons h1, h2]
  simp [leNat]
theorem aper_live {a b : State} (h : a.live = b.live) (o n : Nat) : aperRange a o n = aperRange b o n := by
  have k : ∀ o, aperByte a o = aperByte b o := fun o => by unfold aperByte live; rw [h]
  unfold aperRange; rw [k, k]
theorem poll_read (ex : Map Byte) : readHost 1 (srvAddr (srvS pollV ex) 0) 4160 [] (srvS pollV ex) =
    (.ok (exchRead (srvS pollV ex) 0 4160), srvS pollV ex) := by
  have e : srvAddr (srvS pollV ex) 0 = srvAddr (srvS pollV []) 0 := by unfold srvAddr liveF; simp only [live, srvS]
  have h : aperRange (srvS pollV ex) (srvAddr (srvS pollV []) 0) 4160 = some (true, 0) := by
    rw [aper_live (a := srvS pollV ex) (b := srvS pollV []) rfl]; decide +kernel
  rw [e]; unfold readHost; rw [h]; rfl
theorem wit_poll : (srvS pollV []).serving.polling = true ∧ ∀ i, i < 4096 → le (exchRead (srvS pollV []) 0 4160) i 1 = (streamAt (srvS pollV []) i).sumSeen := by
  refine ⟨rfl, fun i h => ?_⟩
  rw [le_one _ i 0 (by rw [exchRead_get _ _ _ _ (by omega)]; rfl)]; rfl
theorem wit_pollFail : ∃ u, readHost 1 (srvAddr { State.reset with serving := pollV } 0) 4160 [] { State.reset with serving := pollV } = (.error E.hostUnmapped, u) := by
  unfold readHost
  have h : aperRange { State.reset with serving := pollV } (srvAddr { State.reset with serving := pollV } 0) 4160 = none := by decide +kernel
  rw [h]; exact ⟨_, rfl⟩
/-- The request line of stream 3: END with SEQ 1. -/
def endLine : Map Byte := [(3, 1), (0x20C0, 1), (0x20C2, 2), (0x20FE, 1)]
theorem wit_pollLine : le (exchRead (srvS pollV endLine) 0 4160) 3 1 ≠ (streamAt (srvS pollV endLine) 3).sumSeen ∧
    (∀ j, j < 4096 → j ≠ 3 → le (exchRead (srvS pollV endLine) 0 4160) j 1 = (streamAt (srvS pollV endLine) j).sumSeen) := by
  refine ⟨?_, fun j h n => ?_⟩
  · rw [le_one _ 3 1 (by rw [exchRead_get _ _ _ _ (by omega)]; rfl)]; decide
  · rw [le_one _ j 0 ?_]; · rfl
    rw [exchRead_get _ _ _ _ (by omega)]
    have e : mget 0 endLine (0 + j) = 0 := by
      unfold mget endLine
      simp only [mfind]
      have h1 : ¬ 3 = 0 + j := by omega
      have h2 : ¬ 0x20C0 = 0 + j := by omega
      have h3 : ¬ 0x20C2 = 0 + j := by omega
      have h4 : ¬ 0x20FE = 0 + j := by omega
      rw [if_neg h1, if_neg h2, if_neg h3, if_neg h4]; rfl
    exact congrArg some e
theorem wit_pollLines : let s := srvS pollV endLine
    0 < liveF s 0x10 0x40 12 0 ∧ (readHost 1 (srvAddr s 1 + 64 * 3) 64 [] s).1.toOption = some (exchRead s 0x20C0 64) ∧
    (readHost 1 (srvAddr s 2 + 64 * 3) 64 [] s).1.toOption = some (exchRead s 0x30C0 64) ∧ le (exchRead s 0x20C0 64) 0 2 = 1 ∧ le (exchRead s 0x20C0 64) 0x3E 2 = 1 ∧
    le (exchRead s 0x20C0 64) 2 1 = 2 ∧ canHold { s with serving := { s.serving with polling := false, cons := 0 } } 64 = true := by decide +kernel
theorem wit_pollTorn : let s := srvS pollV [(3, 1), (0x20C0, 1)]
    le (exchRead s 0x20C0 64) 0 2 ≠ le (exchRead s 0x20C0 64) 0x3E 2 := by decide +kernel
/-- A request of stream 3 in hand. -/
def reqV (op : Nat) (clean : Bool) (x : Stream) : Serving :=
  { State.reset.serving with streams := [(3, x)], work := [⟨3, 1, some ⟨1, op, 0, 0, 0, 0, 0, 1, 0, 0, clean⟩, none, false⟩] }
/-- A stream in a state. -/
def strm (st : StreamSt) : Stream := { Stream.reset with st := st, step := 5, pos := 64, tokens := List.replicate 64 9 }
theorem wit_reqEnd : (frontReq (srvS (reqV 2 true (strm .waitSel)) []) 2).isSome = true ∧ (streamAt (srvS (reqV 2 true (strm .waitSel)) []) 3).st ≠ .free ∧
    (streamAt (srvS (reqV 2 true (strm .waitSel)) []) 3).run = none := by decide
/-- A step in flight. -/
def runRec : StepRec :=
  { kind := 0, step := 4, pos := 64, count := 1, final := true, epoch := 0, draftEpoch := none, mainLeft := true, draftLeft := false, batch := none,
    code := 0, resv := 128, depth := 0, size := 1, nodes := [], verifying := false, treeBeat := 0, first := false, token := 9, prevA := 0,
    prevPath := [], prevNodes := [], prevPos := 0, probe := false, out := none }
theorem wit_reqEndRun : let s := srvS (reqV 2 true { strm .inFlight with run := some runRec }) []
    (frontReq s 2).isSome = true ∧ (streamAt s 3).run ≠ none ∧ (streamAt s 3).st ≠ .ending := by decide
theorem wit_reqEndFree : (streamAt (srvS (reqV 2 true (strm .free)) []) 3).st = .free ∧ (frontReq (srvS (reqV 2 false (strm .free)) []) 2).isSome = true := by decide
theorem wit_rebind : (frontReq (srvS (reqV 3 true (strm .waitSel)) []) 3).isSome = true ∧ (frontReq (srvS (reqV 3 true (strm .free)) []) 3).isSome = true := by decide
/-- The key of session 0 for what comes in. -/
def selKey : List Byte := [7, 224, 145, 145, 69, 201, 212, 186, 251, 86, 190, 64, 208, 168, 212, 160, 237, 146, 193, 192, 130, 215, 65, 208, 189,
  160, 63, 92, 211, 48, 104, 112]
theorem selKey_eq : (keysOf (srvS State.reset.serving []) 0).1 = selKey := by decide +kernel
/-- A selection of stream 3: token, action, accept, sealed under the session's key. -/
def selQ (tok act acc step : Nat) : SelEntry :=
  let nonce := List.replicate 12 0
  let ct := gcmCrypt (aesKeys selKey) nonce (leBytes 4 tok ++ leBytes 1 act ++ leBytes 1 acc ++ List.replicate 10 0)
  ⟨7, step, nonce, ct, gcmTag (aesKeys selKey) nonce (leBytes 1 2 ++ leBytes 2 3 ++ leBytes 4 step) ct⟩
/-- It is in hand. -/
def selV (q : SelEntry) (x : Stream) : Serving := { State.reset.serving with streams := [(3, x)], work := [⟨3, 1, none, some q, false⟩] }
/-- The engine with it in hand. -/
def selS (q : SelEntry) (x : Stream) : State := srvS (selV q x) []
theorem wit_selection : (selS (selQ 5 0 0 4) (strm .waitSel)).serving.work.length = 1 ∧ (4 + 1) % 2 ^ 32 = (strm .waitSel).step ∧
    vocab (selS (selQ 5 0 0 4) (strm .waitSel)) 0 = 100 ∧ (strm .waitSel).pos < 64 * liveF (selS (selQ 5 0 0 4) (strm .waitSel)) 0x1A 0x40 27 13 := by
  decide +kernel
/-- What opens with that key. -/
def selGet (q : SelEntry) : Option (Nat × Nat × Nat) :=
  match gcmOpen selKey q.nonce (leBytes 1 2 ++ leBytes 2 3 ++ leBytes 4 q.step) q.sealed_ q.tag with
  | some p => if zeros p 6 10 && decide (le p 4 1 < 2) then some (le p 0 4, le p 4 1, le p 5 1) else none
  | none => none
theorem selOpen_eq (q r : SelEntry) (x : Stream) (h : x.session = 0) : openSel (selS q x) 3 r = selGet r := by
  have e : (streamAt (selS q x) 3).session = 0 := by
    show (mget Stream.reset [(3, x)] 3).session = 0
    exact h
  have k : (keysOf (selS q x) 0).1 = selKey := selKey_eq
  unfold openSel selGet
  rw [e, k] <;> rfl
theorem wit_selOpen : openSel (selS (selQ 5 0 0 4) (strm .waitSel)) 3 (selQ 5 0 0 4) = some (5, 0, 0) :=
  (selOpen_eq _ _ _ rfl).trans (by decide +kernel)
theorem wit_selStale : (8 + 1) % 2 ^ 32 ≠ (strm .waitSel).step := by decide
theorem wit_selBad : openSel (selS (selQ 5 0 0 4) (strm .waitSel)) 3 { selQ 5 0 0 4 with tag := [] } = none :=
  (selOpen_eq _ _ _ rfl).trans (by decide +kernel)
theorem wit_selToken : openSel (selS (selQ 200 0 9 4) (strm .waitSel)) 3 (selQ 200 0 9 4) = some (200, 0, 9) :=
  (selOpen_eq _ _ _ rfl).trans (by decide +kernel)
theorem wit_selEnd : openSel (selS (selQ 0 1 1 4) (strm .waitSel)) 3 (selQ 0 1 1 4) = some (0, 1, 1) :=
  (selOpen_eq _ _ _ rfl).trans (by decide +kernel)
theorem wit_selRound : let y := { strm .waitSel with lastNodes := [⟨9, 0xFF, 0, 1⟩, ⟨4, 0, 1, 3⟩], lastDepth := 3 }
    y.lastNodes[1]? = some ⟨4, 0, 1, 3⟩ ∧ openSel (selS (selQ 5 0 1 4) y) 3 (selQ 5 0 1 4) = some (5, 0, 1) ∧ y.pos + 1 + 1 < 1024 :=
  ⟨rfl, (selOpen_eq _ _ _ rfl).trans (by decide +kernel), by decide⟩
theorem wit_selLimit : 64 * liveF (selS (selQ 5 0 0 4) (strm .waitSel)) 0x1A 0x40 27 13 = 1024 ∧ 1024 ≤ ({ strm .waitSel with pos := 2000 }).pos := by decide +kernel

/-! ### AdmitAndPrefillSetStreams -/

/-- A prompt of one token at aperture offset 0, sealed for stream 3. -/
def promptL (op tok : Nat) : List Byte :=
  let nonce := List.replicate 12 0
  let ct := gcmCrypt (aesKeys selKey) nonce (leBytes 4 tok)
  nonce ++ List.replicate 4 0 ++ ct ++
    gcmTag (aesKeys selKey) nonce (leBytes 1 1 ++ leBytes 2 3 ++ leBytes 2 1 ++ leBytes 1 op ++ leBytes 4 1) ct
/-- A request of stream 3 in hand, model 0 ready for tenant 0, session 0 open. -/
def admS (op : Nat) (x : Stream) (ex : Map Byte) : State :=
  let s := srvS (reqV op true x) ex
  { s with
    live := [(regKey 0x10 0x40, 4), (regKey 0x10 0x64, 1), (regKey 0x12 0x40, 0x80000000), (regKey 0x16 0x40, 0x80000000), (regKey 0x16 0x50, 100),
             (regKey 0x18 0x200, 0x40000000), (regKey 0x1A 0x40, 0x20000), (regKey 0x1A 0x44, 0x200000), (regKey 0x20 0x48, 0xC0000001)]
    sec := { s.sec with sessions := [(0, { Session.reset with st := .opened })] } }
/-- The request. -/
def admR (op : Nat) : ReqEntry := ⟨1, op, 0, 0, 0, 0, 0, 1, 0, 0, true⟩
theorem wit_admit : frontReq (admS 1 .reset []) 1 = some (⟨3, 1, some (admR 1), none, false⟩, admR 1, []) ∧ admitChecks (admS 1 .reset []) 3 (admR 1) = none ∧
    (admitTokens 3 (admR 1) [9] 0 (admS 1 .reset [])).isSome = true := ⟨rfl, by decide +kernel, by decide +kernel⟩
theorem wit_admitBad : admitChecks (admS 1 .reset []) 3 { admR 1 with clean := false } = some E.reqInvalid ∧
    admitChecks (admS 1 (strm .waitSel) []) 3 (admR 1) = some E.streamBusy ∧ admitChecks (admS 1 .reset []) 3 { admR 1 with topk := 2000 } = some E.countOverrun := by
  decide +kernel
theorem wit_admitFull : (admitTokens 3 (admR 1) [9] 0 { admS 1 .reset [] with live := [] }).isSome = true ∧
    (admitTokens 3 (admR 1) [9] 0 { admS 1 .reset [] with live := [(regKey 0x1A 0x40, 0x20000)] }).isNone = true := by decide +kernel
/-- What opens with the session's key. -/
def promptGet (op : Nat) (l : List Byte) : Option (List Nat) :=
  (gcmOpen selKey (bytesAt l 0 12) (leBytes 1 1 ++ leBytes 2 3 ++ leBytes 2 1 ++ leBytes 1 op ++ leBytes 4 1) (bytesAt l 16 4) (bytesAt l 20 16)).map
    fun p => [le p 0 4]
theorem wit_promptOpen : promptGet 1 (promptL 1 9) = some [9] ∧ promptGet 4 (promptL 4 7) = some [7] := by decide +kernel
theorem wit_promptRead : (promptL 1 9).length = 36 ∧ (readHost 5 0 36 [] (admS 1 .reset (writeBytes [] 0 (promptL 1 9)))).1.toOption = some (promptL 1 9) := by decide +kernel
theorem wit_promptKey (op : Nat) (x : Stream) (ex : Map Byte) : (keysOf (admS op x ex) 0).1 = (keysOf (admS 1 .reset []) 0).1 := rfl
theorem wit_prefill : frontReq (admS 4 (strm .needPrefill) []) 4 = some (⟨3, 1, some (admR 4), none, false⟩, admR 4, []) ∧
    (streamAt (admS 4 (strm .needPrefill) []) 3).st = .needPrefill ∧ 1 ≤ ctxLimit (admS 4 (strm .needPrefill) []) 0 ∧
    (prefillTokens 3 (admR 4) [7] 0 (admS 4 (strm .needPrefill) [])).isSome = true := ⟨rfl, by decide +kernel, by decide +kernel, by decide +kernel⟩

/-! ### OutputsCompleteSteps -/

/-- Model 0 with a placement and its output map, stream 3 in flight. -/
def outS (r : StepRec) (st : StreamSt) : State :=
  let s := srvS { State.reset.serving with streams := [(3, { strm st with run := some r })] } []
  { s with
    live := [(regKey 0x10 0x40, 4), (regKey 0x16 0x40, 0x80000000), (regKey 0x16 0x48, 0x28000), (regKey 0x16 0x50, 1), (regKey 0x18 0x200, 0x40000000),
             (regKey 0x20 0x48, 0xC0000001)]
    weights := placedW none, tallies := [(5, ⟨0, 1⟩)], beat := { BeatUnit.reset with mode := .locked, now := 9 } }
theorem wit_collect : let s := outS runRec .inFlight
    mioF s 0 2 29 15 = 5 ∧ mioValid s 0 = true ∧ slotCore s 0 (mioF s 0 1 24 18) (mioF s 0 1 17 6) = some 0 ∧ (tallyAt s 5).epoch ≠ (modelAt s 0).outEpoch := by
  decide +kernel
theorem wit_collectNone : let s := outS runRec .inFlight
    (streamAt s (outDesc (List.replicate 256 0)).stream).run = none ∧ (modelAt s 0).collect = none ∧ (modelAt State.reset 0).place = none := by decide +kernel
/-- A descriptor of its step: one segment of 32 bytes, KIND 0. -/
def outL (seg : Nat) : List Byte :=
  leBytes 2 3 ++ leBytes 1 0 ++ leBytes 1 1 ++ leBytes 4 4 ++ leBytes 8 1 ++ leBytes 8 seg ++ List.replicate 232 0
/-- What the hub has read of it: the descriptor, then its segment. -/
def outC (desc : Option (List Byte)) (l : List Byte) : Collect := ⟨desc, [(0, 256)], 0, [(0, l)], false⟩
theorem wit_collectDesc : let q := outC none (outL (2 ^ 50 + 1024))
    collected q = true ∧ collected { q with got := [] } = false ∧ (outDesc (collectBytes q)).stream = 3 ∧
    (outDesc (collectBytes q)).step = runRec.step ∧ runRec.kind ≠ 2 := by decide +kernel
theorem wit_collectStep : let q := outC (some (outL (2 ^ 50 + 1024))) (List.replicate 32 1)
    let d := outDesc (outL (2 ^ 50 + 1024))
    collected q = true ∧ d.stream = 3 ∧ d.kind = 0 ∧ runRec.step = d.step ∧ segsOk onePlace d = true ∧
    4 * vocab (outS runRec .inFlight) 0 ≤ segTotal d := by decide +kernel
theorem wit_collectBad : segsOk onePlace (outDesc (outL 1024)) = false := by decide +kernel
theorem wit_verify : let s := outS { runRec with kind := 2, nodes := [⟨9, 0xFF, 0, 1⟩], treeBeat := 8 } .inFlight
    s.beat.mode = .locked ∧ modelHold s 0 = .none ∧ inflight s 0 (activeEp s 0) < 4096 ∧ (8 : Beat) ≠ s.beat.now := by decide +kernel
theorem wit_verifyHold : modelHold { outS runRec .inFlight with live := [] } 0 ≠ .none := by decide +kernel
theorem wit_complete : let r := { runRec with mainLeft := false, out := some ⟨0, 1, [1, 2, 3, 4], 0⟩ }
    recordable (outS r .inFlight) = true ∧ (streamAt (outS r .ending) 3).st = .ending ∧ (streamAt (outS r .inFlight) 3).run = some r := by decide +kernel
theorem wit_abandon : let s := { outS { runRec with mainLeft := false, out := some ⟨0, 0, [], 0⟩ } .inFlight with live := [] }
    recordable s = false ∧ (streamAt s 3).st = .inFlight := by decide +kernel

/-! ### ServingRegistersSelectAndEnd -/

theorem wit_stSel : let x := strm .waitSel
    x.epoch < 2 ∧ x.model < 64 ∧ x.tenant < 256 ∧ x.step < 2 ^ 32 ∧ x.ad = none ∧ x.sumSeen < 256 ∧ x.reqSeq < 65536 ∧ x.selSeq < 65536 ∧ x.session < 65536 := by
  decide
/-- A prefix entry without references. -/
def pxE : PxEntry := ⟨5, 0xFFFF, 0, 0, 0, false, 0, 0, none, false, 3, .live, 0⟩
theorem wit_pxSel : pxAt (srvS { State.reset.serving with px := [(2, pxE)] } []) 2 = some pxE ∧ pxAt State.reset 2 = none := by decide
theorem wit_specSel : (streamAt (srvS { State.reset.serving with streams := [(0, { strm .waitSel with spec := true })] } []) 0).spec = true ∧
    (streamAt State.reset 0).spec = false := by decide
theorem wit_stCmdEnd : let s := srvS { State.reset.serving with streams := [(0, strm .waitSel)] } []
    (streamAt s 0).st ≠ .free ∧ (streamAt s 0).st ≠ .ending ∧ (streamAt s 0).run = none ∧ s.serving.late = [] ∧ canHold s 64 = true := by decide +kernel
theorem wit_stCmdEndRun : let s := srvS { State.reset.serving with streams := [(0, { strm .inFlight with run := some runRec })] } []
    (streamAt s 0).st ≠ .free ∧ (streamAt s 0).st ≠ .ending ∧ (streamAt s 0).run ≠ none := by decide
theorem wit_flushModel : (pxAt (srvS { State.reset.serving with px := [(2, pxE), (3, { pxE with refs := 1 })] } []) 3) = some { pxE with refs := 1 } := by decide

/-! ### HostInterfaceServesTheHost -/

/-- The host link is up with requests and accesses outstanding. -/
def hostS (reqs : List HostReq) (jobs : List HostJob) : State :=
  { State.reset with host := { State.reset.host with up := true, cacheEn := true, hdmOn := true, reqs := reqs, jobs := jobs, ideIo := true } }
theorem wit_train : State.reset.host.up = false ∧ ({ State.reset with boot := { State.reset.boot with serviceReady := true } }).boot.serviceReady = true := by decide
theorem wit_linkDown : (hostS [] []).host.up = true ∧ (hostS [] []).host.reqs = [] ∧ (hostS [] []).host.ideIo = true := by decide
/-- A READ of a core's GET of two bytes. -/
def getJ : HostJob := ⟨8, .get { msgNull with cls := .read, rflits := 1, origin := .desc 0 4 } 0, [], 1, false⟩
theorem wit_hostRead : let q : HostReq := ⟨9, false, 8, 0, 0, 2, []⟩; let s := hostS [q] [getJ]
    s.host.reqs.find? (·.id == 9) = some q ∧ s.host.waiting = [] ∧ s.host.jobs.find? (·.id == q.job) = some getJ ∧ hostReady s = true ∧ getJ.left = 1 := by decide
theorem wit_hostReadMore : let q : HostReq := ⟨9, false, 8, 0, 0, 2, []⟩
    (hostS [q] [{ getJ with left := 2 }]).host.jobs.find? (·.id == q.job) = some { getJ with left := 2 } := by decide
theorem wit_hostWrite : let q : HostReq := ⟨9, true, 8, 0, 0, 2, [1, 2]⟩; let j : HostJob := ⟨8, .put (.desc 0 4) 2, [], 1, false⟩; let s := hostS [q] [j]
    s.host.reqs.find? (·.id == 9) = some q ∧ s.host.jobs.find? (·.id == q.job) = some j ∧ (hostS [] []).host.reqs.find? (·.id == 9) = none := by decide
theorem wit_hostSend : (hostS [] []).host.waiting = [] ∧ (hostS [] []).host.reqs.length < 1024 ∧ hostReady (hostS [] []) = true := by decide
theorem wit_hdm : (hostS [] []).host.hdmOn = true ∧ 8 + ([1] : List Byte).length ≤ 0x10000000 ∧ 0x10000000 < 0x10000000 + ([1] : List Byte).length := by decide
theorem wit_msix : let s := { hostS [] [] with host := { (hostS [] []).host with msixMask := 0xF, pba := 4 } }
    s.host.up = true ∧ bit s.host.pba 2 = true := by decide

/-! ### ChainLinksTrainFailAndCountFlits -/

/-- Link 0 in a state, with requests outstanding; the engine is side A, its keys are zeros. -/
def linkS (st : LinkSt) (reqs : List ClReq) : State :=
  { State.reset with
    links := [(0, { Link.reset with st := st, keys := List.replicate 72 0, sideA := true, credits := [9, 9, 9, 9] })]
    clReqs := reqs
    cores := [(0, { Core.reset with dmq := [dsc 0] })] }
/-- The flit that the peer would send next, of a type. -/
def peerFlit (ty : Nat) (body : List Byte) : LinkFlit := ⟨sealFlit (dirKey (List.replicate 72 0) false) ty 0 0 body, 1⟩
theorem wit_linkStates : (linkAt (linkS .training []) 0).st = .training ∧ (linkAt (linkS .hello []) 0).st = .hello ∧ (linkAt (linkS .up []) 0).st = .up ∧
    (linkAt (linkS .up []) 0).nakFor = none ∧ (linkAt (linkS .attest []) 0).st = .attest ∧ flitRoom (linkAt (linkS .up []) 0) = true ∧
    (linkAt (linkS .up []) 0).ctlq = [] := by decide
theorem wit_linkQuiet : (linkAt (linkS .training []) 0).txq = [] ∧ (linkS .training []).clReqs.filter (·.link == 0) = [] ∧ mget [] (linkS .training []).linkIn 0 = [] ∧
    (linkAt (linkS .training []) 0).failWait = false := by decide
theorem wit_linkTrains : let s := { linkS .down [] with live := [(regKey (pLink 0) 0x40, 0x80000000)] }
    (linkAt s 0).st = .down ∧ linkEnabled s 0 = true ∧ ((mget .reset s.boot.comps 4).dead.contains 0 || restarts s 4 0) = false := by decide
theorem wit_linkNak : let s := { linkS .up [] with links := [(0, { Link.reset with st := .up, nakFor := some 0 })] }
    (linkAt s 0).st = .up ∧ (linkAt s 0).nakFor ≠ none ∧ flitDue (linkAt s 0) 0 = some 0 ∧ flitDue (linkAt s 0) 1 = none ∧
    keptType 0 = true ∧ keptType 5 = false := by decide
theorem wit_linkHelloFlit : let f := clearFlit 7 0 [1, 0, 1, 0xA1, 1]
    f.length = 276 ∧ flitType f = 7 ∧ le f 8 1 = 1 ∧ le (clearFlit 7 0 [1, 0, 1, 0xA1, 2]) 8 1 ≠ 1 := by decide +kernel
theorem wit_linkFlits : ∀ ty ∈ [7, 0, 1, 2, 3, 5, 6], let f := peerFlit ty []
    f.bytes.length = 276 ∧ flitType f.bytes = ty ∧ flitDue (linkAt (linkS .up []) 0) (flitSeq f.bytes) = some 0 ∧
    (openFlit (dirKey (linkAt (linkS .up []) 0).keys !(linkAt (linkS .up []) 0).sideA) 0 f.bytes).isSome = true := by decide +kernel
theorem wit_linkTagFails : openFlit (dirKey (linkAt (linkS .up []) 0).keys !(linkAt (linkS .up []) 0).sideA) 0 (clearFlit 0 0 []) = none := by decide +kernel
theorem wit_delay : State.reset.beat.linkDelays.length = 8 := by decide
theorem wit_rtFree : pageLocked State.reset (linkPage 0 2) = false ∧ pageLocked { State.reset with groups := [(0, { groupReset with st := .armed, pages := [linkPage 0 2] })] } (linkPage 0 2) = true := by
  decide
theorem wit_remoteReq : let q : ClReq := ⟨7, 0, 0, 5, .desc 0 (dsc 0).id, false, 0, false, 64⟩
    (linkS .up [q]).clReqs.find? (·.mtag == 7) = some q ∧ (coreAt (linkS .up [q]) 0).dmq.find? (·.id == (dsc 0).id) = some (dsc 0) ∧
    (linkS .up []).clReqs.find? (·.mtag == 7) = none := by decide

/-! ### ChainMessagesAreCheckedServedAndAnswered -/

/-- A message of a type to this engine, with an address, a length, bytes, a status and a service part. -/
def pclOf (op a len : Nat) (data : List Byte) (st : Code) (svc : Option Svc) : Pcl :=
  { op := op, hops := 1, len := len, dest := 1, srcM := 2, tagged := false, status := st, mtag := 7, addr := a, keyId := 4499794199765773359, data := data, svc := svc }
/-- Module 1, joined, with window 0 of L0 on core 0 and window 1 on page 0; the message is the first of VC 0 of L0. -/
def inS (p : Pcl) (reqs : List ClReq) : State :=
  { linkS .up reqs with
    links := [(0, { Link.reset with st := .up, rx := lset Link.reset.rx 0 ⟨0, 0, pclWire p, []⟩ })]
    fields := [(0, { FieldPower.reset with st := .on })]
    owner := [(0, 0)]
    sec := { State.reset.sec with tenants := [(0, 0)] }
    weights := { State.reset.weights with inst := some ⟨0, 0, 0, false, ⟨0, 0, 0, 0, [], 0, [], [], []⟩, .query, [], none, [], some ⟨1, 2, 2, [], false⟩, 0, 0⟩ }
    live := [(regKey (linkPage 0 1) 0x40, 0xE0000200), (regKey (linkPage 0 1) 0x4C, 1), (regKey (linkPage 0 1) 0x58, 0xF0000200),
             (regKey (linkPage 0 1) 0x64, 1), (regKey (linkPage 0 1) 0x6C, 0x2000), (regKey pCl 0x40, 0x80000001)] }
/-- The first message of VC 0 of L0, of a type. -/
def headIs (s : State) (p : Pcl) (op : Nat) : Bool := rxHead (linkAt s 0) 0 == some p && p.op == op && (linkAt s 0).st == .up
theorem wit_inWr : let p := pclOf 1 0 2 [1, 2] 0 none
    (headIs (inS p []) p 1 && decide ((inboundCheck (inS p []) p).toOption = some 0)) = true := by decide +kernel
theorem wit_inRd : let p := pclOf 2 0 32 [] 0 none
    (headIs (inS p []) p 2 && decide ((inboundCheck (inS p []) p).toOption = some 0)) = true := by decide +kernel
theorem wit_inReg : let p := pclOf 5 0x10 4 [1, 0, 0, 0] 0 none; let q := pclOf 6 0x10 4 [0, 0, 0, 0] 0 none
    (headIs (inS p []) p 5 && decide ((inboundCheck (inS p []) p).toOption = some 0x200000000010) && headIs (inS q []) q 6 &&
      decide ((inboundCheck (inS q []) q).toOption = some 0x200000000010) && decide (addrKind 0x200000000010 = .pages)) = true := by decide +kernel
theorem wit_inRefused : let p := pclOf 1 0x2000 2 [1, 2] 0 none
    (headIs (inS p []) p 1 && joined (inS p []) && decide ((inboundCheck (inS p []) p).toOption = none)) = true := by decide +kernel
theorem wit_inIdle : rxHead (linkAt (linkS .up []) 0) 0 = none := by decide
theorem wit_flushReply : let q : ClIn := ⟨3, 0, pclOf 1 0 2 [1, 2] 0 none, 0, [5], 0, [], 0⟩; let s := { linkS .up [] with clIns := [q], clFlushed := [(0, 3, 5)] }
    s.clFlushed.find? (·.1 == 0) = some (0, 3, 5) ∧ s.clIns.find? (·.id == 3) = some q ∧ q.flush = [5] ∧
    (linkS .up []).clFlushed.find? (·.1 == 0) = none := by decide
theorem wit_responses : let r : ClReq := ⟨7, 0, 0, 5, .desc 0 (dsc 0).id, false, 0, false, 64⟩
    (headIs (inS (pclOf 3 0 0 [] 0 none) [r]) (pclOf 3 0 0 [] 0 none) 3 && headIs (inS (pclOf 4 0 2 [1, 2] 0 none) [r]) (pclOf 4 0 2 [1, 2] 0 none) 4 && decide ((linkAt (inS (pclOf 3 0 0 [] 0 none) [r]) 0).rx.length = 4) &&
      headIs (inS (pclOf 3 0 0 [] 9 none) [r]) (pclOf 3 0 0 [] 9 none) 3 && decide ((inS (pclOf 3 0 0 [] 0 none) [r]).clReqs.find? (·.mtag == 7) = some r)) = true := by
  decide +kernel
theorem wit_regRsp : let r : ClReq := ⟨7, 0, 0, 5, .spReg 1 2 3, false, 0, false, 0⟩
    headIs (inS (pclOf 7 0 4 [1, 0, 0, 0] 0 none) [r]) (pclOf 7 0 4 [1, 0, 0, 0] 0 none) 7 = true := by decide +kernel
theorem wit_svcQuery : let p := pclOf 8 0 64 [] 0 (some (.query 9 9)); let q := pclOf 8 0 64 [] 0 (some (.fetch 9 9 0 0 0 64))
    (headIs (inS p []) p 8 && headIs (inS q []) q 8 && decide (holder (inS p []) 9 9 = none)) = true := by decide +kernel
theorem wit_svcAnswer : let p := pclOf 9 0 64 [] 0 (some (.answer 9 true)); let q := pclOf 9 0 66 [1, 2] 0 (some (.payload 9 1 2 0))
    let r : ClReq := ⟨7, 0, 0, 5, .svc 0, false, 0, false, 0⟩
    (headIs (inS p [r]) p 9 && headIs (inS q [r]) q 9 && (instAt (inS p [r]) 0).any (fun i => decide (i.phase = .query) && i.cur.any (fun u => u.range == 1 && u.unit == 2))) = true := by
  decide +kernel
theorem wit_svcHeld : let s := setEpochSt 0 0 3 { inS (pclOf 8 0 0 [] 0 none) [] with
      weights := { State.reset.weights with models := [(0, { Model.reset with place := some onePlace, epA := some noImg })] } }
    holder s noImg.imageId 4499794199765773359 = some (0, 0) ∧ epImg (modelAt s 0) 0 = some noImg ∧ gristPlace s 0 = some onePlace := by decide +kernel

/-! ### LinksAttestTheirPeers -/

/-- L0 in ATTEST with messages sent and received; the security engine runs with its identity and leaves. -/
def hsS (mine theirs : List (List Byte)) (bucket : Nat) : State :=
  { State.reset with
    links := [(0, { Link.reset with st := .attest, hs := { Hs.reset with mine := mine, theirs := theirs } })]
    sec := { State.reset.sec with bootId := some 5, identityOk := true, leaf := 3, reservedTo := 256, tree := some (0, [1]), bucket := bucket } }
theorem wit_hsAt : ∀ q ∈ [(1, 0), (1, 1), (2, 1), (3, 2), (4, 3)], let s := hsS (List.replicate q.1 [1]) (List.replicate q.2 [2]) 9
    (linkAt s 0).st = .attest ∧ (linkAt s 0).hs.mine.length = q.1 ∧ (linkAt s 0).hs.theirs.length = q.2 ∧ seRuns s = true := by decide
theorem wit_hsSigns : ∃ r v, signReport none [7] true (updHs 0 (fun h => { h with theirs := [[7]] }) (hsS [[1]] [] 9)) = (.ok r, v) := ⟨_, _, rfl⟩
theorem wit_hsWaits : ∃ v, signReport none [7] true (updHs 0 (fun h => { h with theirs := [[7]] }) (hsS [[1]] [] 0)) = (.error E.attestRate, v) := ⟨_, rfl⟩
/-- A report that repeats the nonce [1 …], names the key [] and the device 1; only its signatures, which no evaluation can make, are left open. -/
def reportOf : List Byte :=
  leBytes 4 0x54505241 ++ leBytes 2 1 ++ List.replicate 10 0 ++ leBytes 16 1 ++ List.replicate 16 0 ++ leBytes 32 1 ++ List.replicate 32 0 ++ sha256 [] ++ List.replicate 272 0
theorem wit_reportGood (pk csig sig : List Byte) (hl : pk.length = 60) (hd : leBytes 16 1 ≠ deviceBytes) (hc : hssVerify Config.provisioningKey (pk ++ leBytes 16 1) csig = true)
    (hr : hssVerify pk reportOf sig = true) :
    reportGood (hsS [leBytes 32 1] [[2]] 9) 0 reportOf sig [] (pk ++ leBytes 16 1 ++ csig) = true := by
  have e : (le reportOf 0 4 == 0x54505241 && le reportOf 4 2 == 1 && decide (bytesAt reportOf 0x10 16 = leBytes 16 1)
      && decide (bytesAt reportOf 0x70 32 = sha256 []) && decide (bytesAt reportOf 0x30 32 = leBytes 32 1)
      && (le reportOf 0x0E 2 % 0x4000 == (linkAt (hsS [leBytes 32 1] [[2]] 9) 0).peerModule.toNat)
      && (List.range 5).all fun c => decide (liveF (hsS [leBytes 32 1] [[2]] 9) pSec 0x40 15 0 ≤ le reportOf (0xB0 + 48 * c + 2) 2)) = true := by decide +kernel
  simp only [Bool.and_eq_true] at e
  obtain ⟨⟨⟨⟨⟨⟨e1, e2⟩, e3⟩, e4⟩, e5⟩, e6⟩, e7⟩ := e
  have k : (leBytes 16 1).length = 16 := by decide
  have b1 : bytesAt (pk ++ leBytes 16 1 ++ csig) 0 60 = pk := by
    simp only [bytesAt, List.drop_zero, List.append_assoc]
    exact List.take_left' hl
  have b2 : bytesAt (pk ++ leBytes 16 1 ++ csig) 60 16 = leBytes 16 1 := by
    simp only [bytesAt, List.append_assoc]
    rw [List.drop_left' hl]
    exact List.take_left' k
  have b3 : bytesAt (pk ++ leBytes 16 1 ++ csig) 0 76 = pk ++ leBytes 16 1 := by
    have h : (pk ++ leBytes 16 1).length = 76 := by simp [hl, k]
    simp only [bytesAt, List.drop_zero, ← h, List.take_left]
  have b4 : (pk ++ leBytes 16 1 ++ csig).drop 76 = csig := by
    have h : (pk ++ leBytes 16 1).length = 76 := by simp [hl, k]
    rw [← h, List.drop_left]
  have m : (linkAt (hsS [leBytes 32 1] [[2]] 9) 0).hs.mine.headD [] = leBytes 32 1 := by decide +kernel
  simp only [reportGood, b1, b2, b3, b4, m, hc, hr, e1, e2, e3, e4, e5, e6, e7, hd, Bool.and_true, ne_eq, not_false_eq_true, decide_true]

/-! ### SecurityCommandsActInOrder -/

/-- A command at the head of the security engine's queue. -/
def seS (op : Nat) (body : List Byte) (tenants : Map (BitVec 256)) (sessions : Map Session) : State :=
  { hsS [] [] 9 with sec := { (hsS [] [] 9).sec with queue := [⟨.mailbox 1, op, 7, body, false⟩], tenants := tenants, sessions := sessions } }
theorem wit_seHead : ∀ op ∈ [1, 2, 3, 4, 5, 6, 7, 8], (seS op [] [] []).sec.queue.head?.map (fun c => (c.op, c.bad)) = some (op, false) ∧ seRuns (seS op [] [] []) = true ∧
    (hsS [] [] 9).sec.queue.head?.map (fun c => (c.op, c.bad)) ≠ some (op, false) := by decide
theorem wit_seSign : (hsS [] [] 9).sec.leaf < 2 ^ 30 ∧ (hsS [] [] 9).sec.bucket ≠ 0 ∧ (hsS [] [] 9).sec.identityOk = true ∧ (hsS [] [] 0).sec.bucket = 0 := by decide
theorem wit_seExhausted : let s := { hsS [] [] 9 with sec := { (hsS [] [] 9).sec with leaf := 2 ^ 30 } }
    2 ^ 30 ≤ s.sec.leaf := by decide
theorem wit_seTenants : (mfind (seS 4 [3] [(3, 1)] []).sec.tenants 3).isSome = true ∧ mfind (seS 4 [3] [] []).sec.tenants 3 = none ∧ le [(3 : Byte)] 0 1 = 3 := by decide
theorem wit_seUnbind : let s := seS 5 [3] [(3, 1)] [(2, ⟨.opened, 3, 1, 0, 0⟩)]; let b := seS 5 [3] [(3, 1)] [(2, ⟨.bound, 3, 1, 0, 0⟩)]
    tenantInUse s 3 = false ∧ (sessionAt s 2).st = .opened ∧ (sessionAt s 2).tenant = 3 ∧ tenantInUse b 3 = true := by decide +kernel
theorem wit_seOpen : let b : List Byte := [3, 0, 2, 0]; let s := seS 6 b [(3, 1)] []
    le b 2 2 = 2 ∧ (sessionAt s 2).st = .closed ∧ (mfind s.sec.tenants (le b 0 1)).isSome = true ∧ (sessionAt s 2).gen ≠ 0xFFFFFFFF ∧
    8192 ≤ le [3, 0, 0, 0x20] 2 2 ∧ (sessionAt (seS 6 b [] [(2, ⟨.closed, 0, 0xFFFFFFFF, 0, 0⟩)]) 2).gen = 0xFFFFFFFF := by decide

/-! ### MailboxAndDoeCarryCommands -/

theorem wit_mbIdle : (mailboxAt State.reset 1).st ≠ 1 ∧ State.reset.sec.queue = [] ∧ (parseCmd (.mailbox 1) (requestBytes (mailboxAt State.reset 1))).bad = true := by decide +kernel
theorem wit_mbGood : let x : Mailbox := { Mailbox.reset with req := [(0, 2)] }
    (parseCmd (.mailbox 1) (requestBytes x)).bad = false ∧ seRuns (hsS [] [] 9) = true ∧ (hsS [] [] 9).sec.queue = [] := by decide +kernel
theorem wit_mbBusy : let s := { State.reset with sec := { State.reset.sec with mailboxes := [(1, { Mailbox.reset with st := 1 })] } }
    (mailboxAt s 1).st = 1 := by decide
theorem wit_doeUp : (hostS [] []).host.up = true ∧ State.reset.host.up = false ∧ (parseCmd .doe ([2] ++ List.replicate 15 0)).bad = false ∧ (parseCmd .doe [2]).bad = true := by
  decide +kernel
theorem wit_bucket : let s := { hsS [[1]] [[7]] 0 with links := [(0, { Link.reset with st := .attest, hs := { Hs.reset with mine := [[1]], theirs := [[7]], wantSign := true } })] }
    (∀ j, j < 8 → j ≠ 0 → (linkAt s j).hs.wantSign = false) ∧ (linkAt s 0).st = .attest ∧ (linkAt s 0).hs.wantSign = true ∧ seRuns s = true ∧ (linkAt s 0).hs.mine.length = 1 := by
  decide
theorem wit_bucketSigns : ∃ r v, signReport none [7] true (let s := hsS [[1]] [[7]] 0
    { s with sec := { s.sec with bucket := Nat.min 256 (s.sec.bucket + 1) } }) = (.ok r, v) := ⟨_, _, rfl⟩

/-! ### ModuleInputCapsAndCoolant -/

/-- Fields 0 and 1 are on; the ladder has taken actions. -/
def pmS (acts : List CapAct) (under : Nat) : State :=
  { State.reset with
    fields := [(0, { FieldPower.reset with st := .on }), (1, { FieldPower.reset with st := .on, powCap := 3 })]
    pm := { State.reset.pm with acts := acts, under := under } }
theorem wit_pm : State.reset.pm.valid = false ∧ State.reset.pm.inputLow = false ∧ State.reset.pm.connSuspect = false ∧ coolantOut State.reset = false := by decide +kernel
theorem wit_over : capEffFine (pmS [] 0) < 240 * 40000 ∧ limitActs (pmS [] 0) < 5 ∧ fieldSt (pmS [] 0) 0 ≠ .dark := by decide +kernel
theorem wit_overSlow : let s := pmS (List.replicate 5 .limit) 0
    capEffFine s < 240 * 40000 ∧ 5 ≤ limitActs s ∧ slowActs s < 3 := by decide +kernel
theorem wit_overKiln : let s := pmS (List.replicate 3 (.slower [0]) ++ List.replicate 5 .limit) 0
    5 ≤ limitActs s ∧ 3 ≤ slowActs s ∧ kilnVictim s = some 0 ∧ kilnVictim State.reset = none := by decide +kernel
theorem wit_under : let s := pmS [.limit] 9
    ¬ (capEffFine s < 240 * 10) ∧ 10 * 240 * 10 < 9 * capEffFine s ∧ s.pm.under = 9 ∧ s.pm.acts = [.limit] ∧ 9 * capEffFine s ≤ 10 * 240 * 33000 ∧
    ¬ (capEffFine s < 240 * 30000) := by decide +kernel
theorem wit_coolant : let s := { State.reset with convs := [(160, { Conv.reset with readings := [(10, (5, 1))] })] }
    coolantOut s = true ∧ s.pm.coolantLow = false := by decide +kernel

/-! ### FieldsPhasesBreakersClocksAndHeat -/

/-- Field 0 with its power side. -/
def fpS (x : FieldPower) : State := { State.reset with fields := [(0, x)] }
theorem wit_phase : let s := fpS { FieldPower.reset with st := .on, brkClosed := true, vcore := [(1, .off), (2, .retried), (3, .failed)] }
    fieldSt s 0 = .on ∧ mfind (railPhases (fieldOf s 0) .vcore) 0 = none ∧ mfind (railPhases (fieldOf s 0) .vcore) 1 = some .off ∧
    mfind (railPhases (fieldOf s 0) .vcore) 2 = some .retried ∧ (0 : Fin 36).val < railSize .vcore ∧ (fieldOf s 0).fcA = false ∧ (fieldOf s 0).fcB = false ∧
    (fieldOf s 0).brkClosed = true := by decide
theorem wit_nine : let s := fpS { FieldPower.reset with st := .on, vcore := (List.range 9).map fun i => (i, .failed) }
    9 ≤ phasesDown (fieldOf s 0).vcore ∧ fieldSt s 0 = .on := by decide
theorem wit_three : let s := fpS { FieldPower.reset with st := .on, vret := (List.range 3).map fun i => (i, .failed) }
    3 ≤ phasesDown (fieldOf s 0).vret ∧ phasesDown (fieldOf s 0).vcore < 9 := by decide
theorem wit_second : let s := fpS { FieldPower.reset with st := .on, fcA := true }
    (fieldOf s 0).fcA = true ∧ (fieldOf s 0).fcB = false ∧ fieldSt s 0 = .on := by decide
theorem wit_reclose : let s := fpS { FieldPower.reset with shortAt := some 5 }
    fieldSt s 0 = .dark ∧ (fieldOf s 0).brkLocked = false ∧ (fieldOf s 0).shortAt = some 5 ∧ 40000000000 ≤ 40000000005 - 5 := by decide
theorem wit_kilnEntry : (fieldOf (fpS { FieldPower.reset with kilnEntry := true }) 0).kilnEntry = true := by decide
theorem wit_attempts : (fieldOf (fpS { FieldPower.reset with attempt := some ⟨1, true, 0⟩ }) 0).attempt = some ⟨1, true, 0⟩ ∧
    (fieldOf (fpS { FieldPower.reset with attempt := some ⟨0, true, 0⟩ }) 0).attempt = some ⟨0, true, 0⟩ := by decide
theorem wit_fcuDead : let s := { fpS { FieldPower.reset with attempt := some ⟨0, true, 0⟩ } with boot := { State.reset.boot with comps := [(2, { Component.reset with dead := [0] })] } }
    (compAt s 2).dead.contains 0 = true := by decide
theorem wit_retry : (fieldOf (fpS { FieldPower.reset with retryAt := some 0 }) 0).retryAt = some 0 ∧ (State.reset.beat.now - 0).toNat < 2 ^ 47 := by decide
theorem wit_temp : let s := { fpS { FieldPower.reset with st := .on } with convs := [(0, { Conv.reset with readings := [(8, (2900, 1))] })] }
    fieldSt s 0 ≠ .dark ∧ restarts s 2 0 = false ∧ fieldTemp s 0 = some 2900 ∧ tempsOlder s 0 40000002 40000000 = true ∧ (fieldOf s 0).stale = false ∧
    20 * (liveF s pPm 0x4C 15 8 + 40) ≤ 2900 := by decide +kernel
theorem wit_cold : let s := { fpS { FieldPower.reset with st := .on } with convs := [(0, { Conv.reset with readings := [(8, (1200, 1))] })] }
    fieldTemp s 0 = some 1200 ∧ 1200 < 20 * (liveF s pPm 0x4C 15 8 - 5 + 40) := by decide +kernel

/-! ### ConvertersConvertInjectAndCalibrate -/

/-- Converter 0 of field 0 with its configuration: two regular entries of inputs 1 and 8, one injected entry, armed for every trigger. -/
def telS (y : Conv) : State :=
  { fpS { FieldPower.reset with st := .on } with
    convs := [(0, y)]
    live := [(regKey (pTel 0) 0x40, 0xE0020064), (regKey (pTel 0) 0x44, 0x00710000), (regKey (pTel 0) 0x48, 0x81)] }
theorem wit_tel : let s := telS { Conv.reset with job := .regular 0, running := true }
    convDark s 0 = false ∧ seqInput s 0 0 = 1 ∧ 0 + 1 < seqLen s 0 ∧ injLen s 0 = 1 ∧ bit (live s (pTel 0) 0x40) 29 = true ∧ bit (live s (pTel 0) 0x44) 20 = true ∧
    seqRepeat s 0 = true ∧ pageDark s (pTel 0) = false ∧ covering s 0 = false := by decide +kernel
theorem wit_telLast : let s := { telS { Conv.reset with job := .regular 1, running := true } with live := [(regKey (pTel 0) 0x40, 0x80020064)] }
    seqLen s 0 ≤ 1 + 1 ∧ seqRepeat s 0 = false ∧ covering s 0 = false ∧ seqInput s 0 1 ≠ 15 := by decide +kernel
theorem wit_telCover : let s := { telS { Conv.reset with job := .regular 1, running := true } with
      convs := [(0, { Conv.reset with job := .regular 1, running := true }), (1, { Conv.reset with job := .cal true })],
      live := [(regKey (pTel 0) 0x40, 0xE0020064), (regKey (pTel 1) 0x40, 0xE0020064)] }
    covering s 0 = true ∧ 0 < seqLen s (partner 0) ∧ seqLen s 0 ≤ 1 + 1 ∧ (inCal s 0 || inCal s (partner 0)) = true := by decide +kernel
theorem wit_telDark : convDark State.reset 0 = true ∧ pageDark State.reset (pTel 0) = true := by decide +kernel
theorem wit_calFactors : calFactors 0 344064 = some (0, 0x8000) ∧ calFactors 0 0 = none := by decide
theorem wit_calFails : let s := telS { Conv.reset with job := .cal true, calFails := 1 }
    (convAt s 0).job = .cal true ∧ (convAt s 0).calFails = 1 ∧ (convAt s 0).failed = false ∧ (convAt s (partner 0)).failed = false ∧
    (convAt { s with convs := s.convs ++ [(1, { Conv.reset with failed := true })] } (partner 0)).failed = true := by decide +kernel

/-! ### FaultsAreClassifiedPlannedAndResumed -/

/-- Core 0 belongs to model 0, READY with its placement; thread 0 is FAULTED with a code; faults reported, and a plan. -/
def recS (code : Code) (rep : List FaultRec) (p : Option RecPlan) (q : List FaultEntry) : State :=
  { epS 0 (placedW none) with
    fields := [(0, { FieldPower.reset with st := .on })]
    owner := [(0, 0)]
    cores := [(0, { Core.reset with threads := [(0, { Thread.reset with st := .faulted })], coreErr := BitVec.ofNat 64 (2 ^ 32 * code.toNat) })]
    recov := { State.reset.recov with reported := rep, plan := p, queue := q } }
/-- An entry of one fault of core 5. -/
def entS : FaultEntry := entryOf ⟨E.arrayCheckFail, 0, 5, 3⟩ 0
theorem wit_classify : let s := recS E.actParity [] none []
    mfind s.owner 0 = some 0 ∧ (threadAt (coreAt s 0) 0).st = .faulted ∧ (coreAt s 0).classified.contains 0 = false ∧ mcStops s = false ∧ loading s 0 = false ∧
    (modelAt s 0).place.isSome = true ∧ bits (coreAt s 0).coreErr 47 32 = E.actParity.toNat ∧ bits (coreAt (recS E.stackUnavailable [] none []) 0).coreErr 47 32 = E.stackUnavailable.toNat := by
  decide +kernel
theorem wit_faults : let s := recS 0 [⟨E.linkAttestFail, 1, 64, 0⟩] none []
    mcStops s = false ∧ mayRetire s 64 = false ∧ mayRetire s (64 + 1) = true ∧ fieldSt State.reset 0 = .dark ∧ fieldSt s 0 ≠ .dark ∧
    modelState s 0 ≠ 0 ∧ ({ s with debugModels := [0] }).debugModels.contains 0 = true := by decide +kernel
theorem wit_queue : let s := recS 0 [] (some (newPlan entS)) []
    conflicts s (newPlan entS) (entryOf ⟨E.arrayCheckFail, 0, 6, 3⟩ 0) = false ∧ s.recov.queue.find? (sameFault · entS) = none ∧ s.recov.queue.length < 64 := by decide +kernel
theorem wit_queueFull : (recS 0 [] (some (newPlan entS)) (List.replicate 64 entS)).recov.queue.length = 64 ∧
    (List.replicate 64 entS).find? (sameFault · (entryOf ⟨E.arrayCheckFail, 0, 6, 3⟩ 0)) = none := by decide +kernel
theorem wit_plan : let s := recS 0 [] (some (newPlan entS)) []
    (newPlan entS).phase = .planning ∧ s.beat.mode = .locked ∧ inFuture 9 (beatNow s) = true ∧ s.recov.overflow = false ∧
    firstOf (enrolFails s) (planPages s (((newPlan entS).entry.models.foldl planModel (retireAll entS s, { newPlan entS with moves := [], demote := [], lose := [] })).2) []) = none ∧
    lowestFree s 4 60 = some 60 ∧ waysFit s (newPlan entS) [] = true := by decide +kernel
theorem wit_planDone : let s := { recS 0 [] (some { newPlan entS with phase := .armed, group := 60 }) [] with groups := [(60, { groupReset with st := .done })] }
    (grp s 60).st = .done ∧ mcStops s = false := by decide +kernel
theorem wit_planApplying : let p := { newPlan entS with phase := .applying }
    contentsWait (recS 0 [] (some p) []) p.entry.models = false ∧ p.entry.models.any (contentsFly (recS 0 [] (some p) [])) = false ∧ p.copying = [] ∧ p.written = false ∧ copiesFly (recS 0 [] (some p) []) = false ∧ (recS 0 [] (some p) []).weights.inst = none ∧ modelReady (recS 0 [] (some p) []) 0 = true := by decide +kernel
theorem wit_floorDue : ({ State.reset with boot := { State.reset.boot with floorDue := true } }).boot.floorDue = true := by decide

/-! ### StartUpSelfTestAndFirmwareCommands -/

/-- A start-up stage, with self-tests that run and a RESTART. -/
def bootS (stage : Nat) (testing : List Nat) (r : Option Restart) : State :=
  { State.reset with boot := { State.reset.boot with stage := stage, testing := testing, restart := r, comps := [], records := [] } }
theorem wit_seBoot : (bootS 1 [] none).boot.stage = 1 ∧ seRead (bootS 1 [] none) 1 = none ∧ seRead (bootS 1 [] none) 2 = none := by decide
theorem wit_seDead : (compAt (bootUnit 0 0 (bootS 1 [] none)).2 0).dead.contains 0 = true := by decide +kernel
/-- Start-up with an image in bank A that verifies, of the component asked for; no evaluation can check a signature. -/
theorem wit_seAlive (b : List Byte) (hb : b.isEmpty = false)
    (h : fwCheck { bootS 1 [] none with boot := { (bootS 1 [] none).boot with comps := [(0, { Component.reset with bankA := b })] } } 0 b = none) :
    (compAt (bootUnit 0 0 { bootS 1 [] none with boot := { (bootS 1 [] none).boot with comps := [(0, { Component.reset with bankA := b })] } }).2 0).dead.contains 0 = false := by
  have e : bankImg (compAt { bootS 1 [] none with boot := { (bootS 1 [] none).boot with comps := [(0, { Component.reset with bankA := b })] } } 0)
      (compAt { bootS 1 [] none with boot := { (bootS 1 [] none).boot with comps := [(0, { Component.reset with bankA := b })] } } 0).bootBank = b := rfl
  simp only [bootUnit, e, h]
  simp [unitRuns, updComp, updBoot, compAt, mget_mset_same, without]
theorem wit_mcBoot : (bootS 2 [] none).boot.stage = 2 ∧ (compAt (bootS 2 [] none) 1).dead.contains 0 = false := by decide
theorem wit_selftest : let s := bootS 4 [0] none
    s.boot.testing.contains 0 = true ∧ coreEnabled s 65 = true ∧ mayRetire s 65 = true ∧ mayRetire s 0 = false ∧ without 0 s.boot.testing = [] ∧ s.boot.stage < 5 := by decide
theorem wit_fwRefused : activateCheck (bootS 9 [] none) 7 = some E.updProtocol ∧ restartCheck (bootS 9 [] none) 7 0 = some E.updProtocol ∧
    restartCheck (bootS 9 [] none) 2 3 = none := by decide +kernel
theorem wit_fwActivate : let s := { bootS 9 [] none with boot := { (bootS 9 [] none).boot with comps := [(2, { Component.reset with inactive := 2 })] } }
    (compAt s 2).inactive = 2 ∧ activateCheck s 2 = none := by
  refine ⟨rfl, ?_⟩
  simp [activateCheck, firstFail, runsOf, compAt, mget, mfind, bootS, Component.reset]
theorem wit_restartBegins : let s := bootS 9 [] (some ⟨0, 0, [], false⟩)
    restartWaits s 0 0 = false ∧ restartWaits { s with boot := { s.boot with restart := some ⟨2, 0, [], false⟩ } } 2 0 = true := by decide +kernel
theorem wit_componentBoot : let s := bootS 9 [] (some ⟨3, 0, [1], true⟩)
    s.boot.restart = some ⟨3, 0, [1], true⟩ ∧ (bootUnit 3 0 s).1 = false := by decide +kernel

/-! ### ServicePortAnswersItsRequests -/

/-- The service port answers, with a session open and a staging. -/
def spS (session : Option Nat) (g : Option Staging) : State :=
  { bootS 9 [] none with sp := { State.reset.sp with up := true, session := session, staging := g } }
/-- A request of session 3 with SEQ 7. -/
def dgS : Dgram := ⟨1, 7, 3⟩
theorem wit_spFresh : let s := spS (some 3) none
    spAnswers s = true ∧ spCached dgS s = none ∧ spOpen dgS s = false ∧ spOutstanding dgS s < 64 ∧ inSession dgS s = true ∧ (compAt s 2).inactive ≠ 3 ∧
    s.boot.serviceReady = false ∧ spAnswers State.reset = false := by decide
theorem wit_spRepeat : let s := { spS none none with sp := { (spS none none).sp with cache := [(1, [⟨7, 1, 0, []⟩])] } }
    spAnswers s = true ∧ spCached dgS s = some ⟨7, 1, 0, []⟩ := by decide
theorem wit_spOpen : let s := { spS none none with sp := { (spS none none).sp with waiting := [(1, 7, 0)] } }
    spCached dgS s = none ∧ spOpen dgS s = true := by decide
theorem wit_spMany : let s := { spS none none with sp := { (spS none none).sp with waiting := (List.range 64).map fun i => (1, i + 8, 0) } }
    spCached dgS s = none ∧ spOpen dgS s = false ∧ 64 ≤ spOutstanding dgS s := by decide +kernel
theorem wit_spReg : regArgs 0 4 0x800 = true ∧ ownModule (spS none none) = 0 ∧ regArgs 0x3FFF 0 0 = false ∧ joined (spS none none) = false := by decide +kernel
theorem wit_spRemote : let s := { spS none none with links := [(0, { Link.reset with st := .up })], live := [(regKey pCl 0x40, 0x80000001)], routes := [(routeKey 8 0 0, 0xFFFFF0FF)] }
    regArgs 2 4 0x800 = true ∧ (2 : Nat) ≠ ownModule s ∧ joined s = true ∧ routeFor s 8 2 = .link 0 ∧ linkUp s 0 = true ∧ mget [] s.linkIn (homeLink s 0) = [] ∧ outstanding s (homeLink s 0) < 1024 := by decide +kernel
theorem wit_stagingDone : let g : Staging := ⟨8, 2, [(0, [1, 2])]⟩; let s := spS (some 3) (some g)
    s.sp.staging = some g ∧ inSession dgS s = true ∧ stagedBytes g = some [1, 2] ∧ submitCopy s [1, 2] = none ∧ stagedBytes ⟨2, 2, []⟩ = none ∧
    stagedBytes ⟨2, 2, [(0, [1, 2])]⟩ = some [1, 2] := by decide +kernel
theorem wit_icmp : liveF (spS none none) pSp 0x50 31 31 ≠ 1 ∧ (spS none none).boot.serviceReady = false := by decide +kernel

/-! ### BeatsAreComparedModulo -/

theorem wit_armPassed : let s := { State.reset with groups := [(0, { groupReset with st := .opened, commit := 9 })], beat := { BeatUnit.reset with now := 9 } }
    reaches .mc s = true ∧ (grp s (sel s .mc).1).st = .opened ∧ ((grp s 0).commit.toNat + 2 ^ 48 - s.beat.now.toNat) % 2 ^ 48 = 0 := by decide
/-- The worked example of R35. -/
theorem test_inFuture_example : inFuture 0x10 0xFFFFFFFFFFF0 = true ∧ inFuture 0xFFFFFFFFFFF0 0xFFFFFFFFFFF0 = false := by decide

/-! ### BucketsOfPositions -/

theorem test_bucket_bounds : bucket 127 = 0 ∧ bucket 128 = 1 ∧ bucket 1048575 = 7 ∧ bucketBound 128 = 512 := by decide

/-! ### LockedPagesDiscardWrites -/

theorem wit_lockedPage : reaches .mc (grpS .armed) = true ∧ fieldPage 0 1 ≠ 0xC ∧ pageAssigned (fieldPage 0 1) = true ∧ pageDark (grpS .armed) (fieldPage 0 1) = false ∧
    pageGroup (grpS .armed) (fieldPage 0 1) = some 0 ∧ (grp (grpS .armed) 0).st = .armed ∧ (grp (grpS .validating) 0).st = .validating ∧
    (grp (grpS .irrevocable) 0).st = .irrevocable ∧ (regAt (fieldPage 0 1) 0x40).isSome = true ∧
    ((regAt (fieldPage 0 1) 0x18).map fun r => ((0x80000000 : Word) &&& reservedMask r == 0 : Bool)) = some true := by decide
theorem wit_lockedPair : (regAt pPm 0x40).isSome = true ∧ (regAt pPm 0x44).isSome = true := by decide

/-! ### GroupsRefuseWrongStates -/

theorem wit_wrongState : reaches .mc State.reset = true ∧ (grp State.reset (sel State.reset .mc).1).st ≠ .opened ∧ (grp State.reset (sel State.reset .mc).1).st ≠ .armed ∧
    (grp State.reset (sel State.reset .mc).1).st ≠ .done := by decide

/-! ### UnbindInvalidatesDynamicHandles -/

theorem wit_unbindDynamic : Offered 0x49 iss (unbS 63) (kOf (unbS 63)) (qOf (unbS 63)) ∧ 48 ≤ fw (kOf (unbS 63)) 55 50 ∧
    (hview (coreAt (qOf (unbS 63)) 0) 63).valid = false ∧ (hview (coreAt (qOf (unbS 48)) 0) 48).valid = true := ⟨offered_of (by decide), by decide, by decide, by decide⟩

/-! ### ResultsAreCalibrated -/

theorem wit_calibrate : let s := telS { Conv.reset with job := .regular 0, running := true }
    convDark s 0 = false ∧ (convAt s 0).job = .regular 0 ∧ seqInput s 0 0 ≠ 15 ∧ inputReserved 0 (seqInput s 0 0) = false ∧
    inputReserved 0 (injInput s 0 0) = false ∧ inputReserved 1 (seqInput s 1 0) = false := by decide +kernel
theorem test_calibrate_tie_to_even : calibrate 1 0 0x4000 = 0 ∧ calibrate 3 0 0x4000 = 2 ∧ calibrate 4095 0 0xFFFF = 4095 := by decide

/-! ### SlotsRebindToTheNearestCore -/

theorem wit_nearest : let s := prog 0
    (nearest [0, 1, 64] 2 = some 1) ∧ nearest [1, 64] 65 = some 1 ∧ nearest [] 5 = none ∧ coreGone s 0 4096 = true ∧ coreGone s 0 0 = false ∧
    rebindSlots (coreGone s 0) [1, 2] [0, 4096] = some ([0, 2], [1]) ∧ (∀ c ∈ [0, 4096], c ∉ [1, 2]) := by decide +kernel

/-! ### CommandsChangeOnlyTheirUnits -/

theorem wit_giveBack : ∃ r, giveBack State.reset (.txnAlloc .mc) = some r := ⟨_, rfl⟩
theorem wit_giveBackNext : exec (.txnAlloc .mc) State.reset = .next (allocGroup .mc State.reset) := rfl

/-! ### ChecksumCellsCatchOneError -/

/-- The first pass of an MMA whose operands are zeros. -/
def pass0 : PassRows := (arrayRows (ent .array .formed (2 ^ 56 * 0x61))).getD 0 ([], [])
theorem wit_checksums : pass0.1.length = 32 ∧ pass0.2.length = 32 ∧ (pass0.1.all fun r => r.length == 32) = true ∧
    (pass0.2.all fun r => r.length == 32) = true := by decide +kernel
theorem wit_checksumsDue : let u := ent .array .formed (2 ^ 56 * 0x61); fieldOn (unitS u) 0 = true ∧ checkDue (coreAt (unitS u) 0) = some u ∧
    (arrayRows u)[u.checked]? = some pass0 ∧ u.again = false := by decide +kernel

/-! ### CoreEventsWindowAndChannelsComplete -/

theorem wit_completeWindow : let s := cawS 0 0x130 idleS; reaches .host { s with host := { s.host with memSpace := true } } = true ∧ reaches .mc s = true ∧
    pageDark s (pCaw 0) = false ∧ cawRefused s 0 = none ∧ s.badParity = [] ∧ cawRefused (cawS 1 0x80 idleS) 0 = none := by decide
theorem wit_completeChan : let s := chanS { Chan.reset with st := .stalled, segs := [⟨3, 0, 64, 0, [], 1, none, false⟩] }
    stackRuns s 0 = true ∧ (chanAt (stackAt s 0) 2).st = .stalled ∧
    (chanAt (stackAt s 0) 2).segs.find? (·.id == 3) = some ⟨3, 0, 64, 0, [], 1, none, false⟩ := by decide +kernel
theorem wit_completeFetch : let s := { chanS { Chan.reset with st := .running } with stackMem := putBytes [] (stackAddr 0 0) chNop, stackKey := [(stackAddr 0 0 / 512, skey)] }
    stackRead 0 0 32 false [] s = (.ok chNop, s) := by
  set_option maxRecDepth 50000 in
  rfl

/-! ### HostAccessesNeedMemorySpace -/

theorem wit_bar : barMaster (.txnAlloc .host) = some .host ∧ (prog 0).host.memSpace = false := by decide

end Sys2Proof.Tests
end

section
/-! Completing a step whose record cannot be written: where it is abandoned as R23 says, and the state that refutes
OutputsCompleteSteps. -/

namespace Sys2Proof.Machine

open Sys2Proof

/-! ### What the end of a step's holdings leaves as it was -/

/-- What completion reads of a state is as in another: the beat, the host link, streams, queue, and every register outside page
0x0018, where the in-flight tallies lie. -/
structure ServingKept (s t : State) : Prop where
  beat : t.beat = s.beat
  host : t.host = s.host
  streams : t.serving.streams = s.serving.streams
  queue : t.serving.queue = s.serving.queue
  regs : ∀ p off, p ≠ pWl → off < 4096 → live t p off = live s p off

theorem ServingKept.refl (s : State) : ServingKept s s := ⟨rfl, rfl, rfl, rfl, fun _ _ _ _ => rfl⟩

theorem ServingKept.trans {s t u : State} (h : ServingKept s t) (g : ServingKept t u) : ServingKept s u :=
  ⟨g.beat.trans h.beat, g.host.trans h.host, g.streams.trans h.streams, g.queue.trans h.queue,
    fun p off hp ho => (g.regs p off hp ho).trans (h.regs p off hp ho)⟩

theorem servingKept_freeStage (i m : Nat) (s : State) : ServingKept s (freeStage i m s) := ⟨rfl, rfl, rfl, rfl, fun _ _ _ _ => rfl⟩

theorem servingKept_batches (f : Map Batch → Map Batch) (s : State) :
    ServingKept s (updServing (fun v => { v with batches := f v.batches }) s) := ⟨rfl, rfl, rfl, rfl, fun _ _ _ _ => rfl⟩

/-- The bound puts the tally's register in page 0x0018: a number above it can name a register of a later page. -/
theorem servingKept_flightEnds {m : Nat} (hm : m < 64) (e : Nat) (s : State) : ServingKept s (flightEnds m e s) := by
  have hregs : ∀ v p off, p ≠ pWl → off < 4096 → live (setLive pWl (0x300 + 4 * m) v s) p off = live s p off := fun v p off hp ho => by
    rw [live_setLive v s (by omega) ho, if_neg fun h => hp h.1.symm]
  unfold flightEnds setInflight
  split <;> exact ⟨rfl, rfl, rfl, rfl, hregs _⟩

theorem draftOf_lt (s : State) (m : Nat) : draftOf s m < 64 := Nat.mod_lt _ (by decide)

theorem servingKept_batchEnds (b : Nat) (s : State) (hb : ∀ x, mfind s.serving.batches b = some x → x.model < 64) :
    ServingKept s (batchEnds b s) := by
  unfold batchEnds
  split
  · rename_i x hx
    split
    · exact ((servingKept_batches (mdel · b) s).trans (servingKept_flightEnds (hb x hx) x.epoch _)).trans (servingKept_freeStage ..)
    · exact servingKept_batches (mput · b _) s
  · exact .refl s

/-- The model of stream i and that of its step's batch are among the 64 of the engine. -/
def ModelsInRange (s : State) (i : Nat) (r : StepRec) : Prop :=
  (streamAt s i).model < 64 ∧ ∀ b x, r.batch = some b → mfind s.serving.batches b = some x → x.model < 64

theorem servingKept_stepLeaves {s : State} {i : Nat} {r : StepRec} (h : ModelsInRange s i r) : ServingKept s (stepLeaves i r s) := by
  obtain ⟨hmodel, hbatch⟩ := h
  have hstages : ∀ u : State, ServingKept u
      (let t := freeStage i (streamAt s i).model u
       if (streamAt s i).spec then freeStage i (draftOf t (streamAt s i).model) t else t) := fun u => by
    dsimp only
    split
    · exact (servingKept_freeStage ..).trans (servingKept_freeStage ..)
    · exact servingKept_freeStage ..
  unfold stepLeaves
  refine ServingKept.trans ?_ (hstages _)
  split
  · rename_i b hb
    exact servingKept_batchEnds b s fun x hx => hbatch b x hb hx
  · have hdraft : ∀ u e, ServingKept u (flightEnds (draftOf u (streamAt s i).model) e u) := fun u e => servingKept_flightEnds (draftOf_lt ..) ..
    split
    · split
      · exact hdraft ..
      · exact .refl s
    · refine (servingKept_flightEnds hmodel r.epoch s).trans ?_
      split
      · exact hdraft ..
      · exact .refl _

/-- Whether records can be written rests on the host link and on pages 0x0010 and 0x0020. -/
theorem recordable_of_servingKept {s t : State} (h : ServingKept s t) : recordable t = recordable s := by
  have hsrv : srvAddr t 3 = srvAddr s 3 := by
    simp only [srvAddr, liveF, h.regs pSrv (0x48 + 8 * 3) (by decide) (by decide), h.regs pSrv (0x44 + 8 * 3) (by decide) (by decide)]
  have haper : ∀ o, aperByte t o = aperByte s o := fun o => by
    unfold aperByte
    by_cases hn : o / 2 ^ 40 < 16
    · have hreg : ∀ k, k ≤ 0x48 → live t pHost (k + 16 * (o / 2 ^ 40)) = live s pHost (k + 16 * (o / 2 ^ 40)) :=
        fun k hk => h.regs pHost _ (by decide) (by omega)
      simp only [hreg 0x40 (by decide), hreg 0x44 (by decide), hreg 0x48 (by decide)]
    · simp only [hn, false_and, if_false]
  unfold recordable hostReady
  rw [h.host, hsrv, haper]

/-! ### Abandoning a step (R23) -/

theorem streamAt_of_servingKept {s t : State} (h : ServingKept s t) (i : Nat) : streamAt t i = streamAt s i := by
  unfold streamAt
  rw [h.streams]

theorem streamAt_updStream (i : Nat) (f : Stream → Stream) (s : State) : streamAt (updStream i f s) i = f (streamAt s i) := by
  simp [updStream, setStream, updServing, streamAt]

@[simp] theorem recordable_updStream (i : Nat) (f : Stream → Stream) (s : State) : recordable (updStream i f s) = recordable s := rfl
@[simp] theorem updStream_queue (i : Nat) (f : Stream → Stream) (s : State) : (updStream i f s).serving.queue = s.serving.queue := rfl
@[simp] theorem updStream_beat (i : Nat) (f : Stream → Stream) (s : State) : (updStream i f s).beat = s.beat := rfl

/-- With records out of reach a complete step is issued again without charge, and the queue stays (R23, R302), where its models are
ones that the engine has. -/
theorem stepComplete_abandons {s : State} {i : Nat} {r : StepRec} {o : OutRec} (hrun : (streamAt s i).run = some r) (hout : r.out = some o)
    (hmain : r.mainLeft = false) (hdraft : r.draftLeft = false) (hrec : recordable s = false) (hst : (streamAt s i).st = .inFlight)
    (hr : ModelsInRange s i r) :
    let t := stepComplete i s
    (streamAt t i).run = none ∧ (streamAt t i).st = .scheduled ∧ (streamAt t i).pos = r.pos ∧ (streamAt t i).token = r.token ∧
      (streamAt t i).first = r.first ∧ (streamAt t i).paid = Nat.max 1 r.count :: (streamAt s i).paid ∧
      (streamAt t i).nextBeat = s.beat.now + 1 ∧ t.serving.queue = s.serving.queue := by
  have hkept := servingKept_stepLeaves hr
  have habandon : abandonStep i s =
      reissue i r (paidFor r :: (streamAt s i).paid) (updStream i (fun x => { x with run := none }) (stepLeaves i r s)) := by
    simp [abandonStep, hrun, hst]
  have hclosed : recordable (abandonStep i s) = false := by
    rw [habandon, reissue, recordable_updStream, recordable_updStream, recordable_of_servingKept hkept, hrec]
  have hstep : stepComplete i s = abandonStep i s := by
    simp [stepComplete, hrun, hout, hmain, hdraft, hrec, closingRecord, hclosed]
  rw [hstep, habandon]
  simp [reissue, streamAt_updStream, streamAt_of_servingKept hkept, hst, paidFor, hkept.beat, hkept.queue]

/-! ### A model number that no engine has -/

/-- A plain step of epoch 1 whose output has come back. -/
def strayStep : StepRec :=
  { kind := 0, step := 4, pos := 64, count := 1, final := true, epoch := 1, draftEpoch := none, mainLeft := false, draftLeft := false,
    batch := none, code := 0, resv := 128, depth := 0, size := 1, nodes := [], verifying := false, probe := false, treeBeat := 0,
    first := false, token := 9, prevA := 0, prevPath := [], prevNodes := [], prevPos := 0, out := some ⟨0, 0, [], 0⟩ }

/-- Stream 3 of a model is in flight, the beat is LOST, a notice waits in the queue, and the host aperture that holds the ring
translates to exchange memory but has the size 0. -/
def strayState (model : Nat) : State :=
  { State.reset with
    live := [(regKey pHost 0x48, 0xC0100000)]
    beat := { BeatUnit.reset with mode := .lost }
    serving := { State.reset.serving with
      streams := [(3, { Stream.reset with st := .inFlight, model := model, run := some strayStep })]
      queue := [plainEntry .reset 3 6 0 0 false] } }

theorem strayState_not_recordable : ∀ model ∈ [0, 8018], recordable (strayState model) = false := by decide +kernel

/-- Of a model that the engine has, the step is abandoned and the notice stays. -/
theorem strayState_queue_stays : (stepComplete 3 (strayState 0)).serving.queue = (strayState 0).serving.queue := by
  have hrange : ModelsInRange (strayState 0) 3 strayStep := ⟨by decide, fun _ _ hb => nomatch hb⟩
  obtain ⟨-, -, -, -, -, -, -, hqueue⟩ := stepComplete_abandons rfl rfl rfl rfl (strayState_not_recordable 0 (by decide)) rfl hrange
  exact hqueue

/-- The in-flight tally of model 8,018 is the size register of that aperture. -/
theorem strayTally_is_apertureSize : regKey pWl (0x300 + 4 * 8018) = regKey pHost 0x48 := rfl

/-- The fall of that tally from 16 to 15 gives the aperture a size. -/
theorem strayState_abandoned_recordable : recordable (abandonStep 3 (strayState 8018)) = true := by decide +kernel

/-- So the closing record of R39 takes the notice out of the queue. -/
theorem strayState_queue_taken : (stepComplete 3 (strayState 8018)).serving.queue = [] := by decide +kernel

/-- Refutes O34: its last clause bounds no model number, and where a step of model 8,018 is abandoned the tally that falls is the size of
a host aperture, records can be written again, and the closing record takes the queue. With the models in range the clause holds
(`stepComplete_abandons`). -/
theorem not_outputsCompleteSteps : ¬ Obligations.OutputsCompleteSteps := by
  unfold Obligations.OutputsCompleteSteps
  intro h
  obtain ⟨-, -, -, -, -, -, habandoned⟩ := h (strayState 8018)
  obtain ⟨t, hstep, -, -, -, -, -, -, -, hqueue⟩ :=
    habandoned 3 strayStep ⟨0, 0, [], 0⟩ rfl rfl rfl rfl (strayState_not_recordable 8018 (by decide)) rfl
  obtain rfl : stepComplete 3 (strayState 8018) = t := Host.Outcome.next.inj hstep
  rw [strayState_queue_taken] at hqueue
  exact absurd hqueue (List.cons_ne_nil _ _).symm

end Sys2Proof.Machine
end

section
/-! SUPPORT. What frames, markers, ticks, the loss of the beat and changes of the host link alone can move: the beat number, BEAT_LAST,
whether the unit is LOCKED, and Memory Space Enable. Every other operation leaves them as they were, from every state, canonical or not:
one lemma for each, in the order of the model. A proof that computes is `(rfl)` and not `rfl`, so that the simplifier rewrites with the
lemma where a fold's step is to be proved for every state. -/

namespace Sys2Proof.Machine

open Sys2Proof

/-- The beat number and BEAT_LAST, whether the unit is LOCKED, and Memory Space Enable, of the two units that hold them. -/
def steadyParts (b : BeatUnit) (h : HostIf) : (Beat × Beat) × Bool × Bool := ((b.now, b.last), b.mode == .locked, h.memSpace)

/-- What only frames, markers, ticks, the loss of the beat and changes of the host link move. -/
def steady (s : State) : (Beat × Beat) × Bool × Bool := steadyParts s.beat s.host

@[simp] theorem steady_mk {x0 x1 x2 x3 x4 x5 b x7 x8 x9 x10 x11 x12 x13 x14 x15 x16 x17 x18 x19 x20 x21 x22 x23 x24 x25 x26 x27 x28 x29 x30 h x32 x33 x34 x35 x36 x37 x38 x39 x40 x41 x42 x43 x44 x45 x46} :
    steady (State.mk x0 x1 x2 x3 x4 x5 b x7 x8 x9 x10 x11 x12 x13 x14 x15 x16 x17 x18 x19 x20 x21 x22 x23 x24 x25 x26 x27 x28 x29 x30 h x32 x33 x34 x35 x36 x37 x38 x39 x40 x41 x42 x43 x44 x45 x46) = steadyParts b h := (rfl)

@[simp] theorem steadyParts_self (s : State) : steadyParts s.beat s.host = steady s := (rfl)

@[simp] theorem steadyParts_beat {b : BeatUnit} {h y1 y4 y5 y6 y7 y8 y9 y10 y11 y12 y13 y14 y15 y16} :
    steadyParts (BeatUnit.mk b.mode y1 b.now b.last y4 y5 y6 y7 y8 y9 y10 y11 y12 y13 y14 y15 y16) h = steadyParts b h := (rfl)

@[simp] theorem steadyParts_host {b} {h : HostIf} {y0 y1 y2 y4 y5 y6 y7 y8 y9 y10 y11 y12 y13 y14 y15 y16 y17 y18 y19} :
    steadyParts b (HostIf.mk y0 y1 y2 h.memSpace y4 y5 y6 y7 y8 y9 y10 y11 y12 y13 y14 y15 y16 y17 y18 y19) = steadyParts b h := (rfl)

@[simp] theorem steady_ite {c : Prop} [Decidable c] (s t : State) : steady (if c then s else t) = if c then steady s else steady t := apply_ite ..

@[simp] theorem steady_foldl {α : Type} {f : State → α → State} {l : List α} {s : State} (hf : ∀ s x, steady (f s x) = steady s) :
    steady (l.foldl f s) = steady s := by
  induction l generalizing s with
  | nil => rfl
  | cons a l ih => exact (ih ..).trans (hf s a)

@[simp] theorem steady_foldr {α : Type} {f : α → State → State} {l : List α} {s : State} (hf : ∀ x s, steady (f x s) = steady s) :
    steady (l.foldr f s) = steady s := by
  induction l with
  | nil => rfl
  | cons a l ih => exact (hf a _).trans ih

@[simp] theorem steady_foldl_fst {α β : Type} {f : State × β → α → State × β} {l : List α} {q : State × β}
    (hf : ∀ q x, steady (f q x).1 = steady q.1) : steady (l.foldl f q).1 = steady q.1 := by
  induction l generalizing q with
  | nil => rfl
  | cons a l ih => exact (ih ..).trans (hf q a)

@[simp] theorem steady_foldl_snd {α β : Type} {f : β × State → α → β × State} {l : List α} {q : β × State}
    (hf : ∀ q x, steady (f q x).2 = steady q.2) : steady (l.foldl f q).2 = steady q.2 := by
  induction l generalizing q with
  | nil => rfl
  | cons a l ih => exact (ih ..).trans (hf q a)

theorem steady_of_eq_fst {α : Type} {q : State × α} {a : α} {t : State} (e : q = (t, a)) : steady t = steady q.1 := by rw [e]
theorem steady_of_eq_snd {α : Type} {q : α × State} {a : α} {t : State} (e : q = (a, t)) : steady t = steady q.2 := by rw [e]

/-- The state with which the end of an offered instruction leaves the engine. -/
def IRes.state : IRes → State
  | .fault _ s => s
  | .block _ s => s
  | .held s => s
  | .done s _ => s

@[simp] theorem IRes.state_fault (c : Code) (s : State) : (IRes.fault c s).state = s := (rfl)
@[simp] theorem IRes.state_block (w : WaitOn) (s : State) : (IRes.block w s).state = s := (rfl)
@[simp] theorem IRes.state_held (s : State) : (IRes.held s).state = s := (rfl)
@[simp] theorem IRes.state_done (s : State) (pc : BitVec 18) : (IRes.done s pc).state = s := (rfl)
@[simp] theorem IRes.state_ite {c : Prop} [Decidable c] (r q : IRes) : (if c then r else q).state = if c then r.state else q.state := apply_ite ..
@[simp] theorem steady_getD {o : Option State} {s : State} (h : ∀ t, o = some t → steady t = steady s) : steady (o.getD s) = steady s := by
  cases o with
  | none => rfl
  | some t => exact h t rfl

/-! ### Ops -/

@[simp] theorem steady_freshWord {s : State} : steady (freshWord s).2 = steady s := (rfl)

@[simp] theorem steady_freshBytes {s : State} {a0} : steady (freshBytes a0 s).2 = steady s := by
  induction a0 generalizing s with
  | zero => rfl
  | succ n ih => simp [freshBytes, ih]

@[simp] theorem steady_emit {s : State} {a0} : steady (emit a0 s) = steady s := (rfl)

/-! ### Regs -/

@[simp] theorem steady_setLive {s : State} {a b v} : steady (setLive a b v s) = steady s := (rfl)
@[simp] theorem steady_lastDrop {s : State} {a0 a1 a2} : steady (lastDrop a0 a1 a2 s) = steady s := (rfl)
@[simp] theorem steady_setLiveF {s : State} {a0 a1 a2 a3 a4} : steady (setLiveF a0 a1 a2 a3 a4 s) = steady s := (rfl)
@[simp] theorem steady_countUp {s : State} {a0 a1 a2 a3 a4} : steady (countUp a0 a1 a2 a3 a4 s) = steady s := (rfl)
@[simp] theorem steady_countWidth {s : State} : steady (countWidth s) = steady s := (rfl)
@[simp] theorem steady_dropWidth {s : State} {a0 a1 a2} : steady (dropWidth a0 a1 a2 s) = steady s := (rfl)
@[simp] theorem steady_logPut {s : State} {a0 a1 a2 a3 a4} : steady (logPut a0 a1 a2 a3 a4 s) = steady s := (rfl)
@[simp] theorem steady_reloadWindow {s : State} {a0} : steady (reloadWindow a0 s) = steady s := by simp [reloadWindow]
@[simp] theorem steady_reloadShadows {s : State} {a} : steady (reloadShadows a s) = steady s := (rfl)

@[simp] theorem steady_reloadPage {s : State} {a0} : steady (reloadPage a0 s) = steady s := by
  unfold reloadPage
  split <;> simp

@[simp] theorem steady_resetPage {s : State} {a} : steady (resetPage a s) = steady s := (rfl)
@[simp] theorem steady_countWrap {s : State} {a0 a1 a2} : steady (countWrap a0 a1 a2 s) = steady s := (rfl)
@[simp] theorem steady_setShadow {s : State} {a b v} : steady (setShadow a b v s) = steady s := (rfl)
@[simp] theorem steady_sendDue {s : State} : steady (sendDue s) = steady s := by simp [sendDue]
@[simp] theorem steady_raiseIrq {s : State} {a0} : steady (raiseIrq a0 s) = steady s := by simp [raiseIrq]
@[simp] theorem steady_recordErr {s : State} {a0 a1 a2} : steady (recordErr a0 a1 a2 s) = steady s := by simp [recordErr]
@[simp] theorem steady_recordErrAny {s : State} {a0 a1} : steady (recordErrAny a0 a1 s) = steady s := by simp [recordErrAny]
@[simp] theorem steady_unsupportedReq {s : State} : steady (unsupportedReq s) = steady s := (rfl)
@[simp] theorem steady_viaBar {s : State} {a0 a1} (hF : ∀ s, steady (a1 s) = steady s) : steady (viaBar a0 a1 s) = steady s := by simp [viaBar, hF]
@[simp] theorem steady_dropUnassigned {s : State} {a0 a1 a2} : steady (dropUnassigned a0 a1 a2 s) = steady s := (rfl)

@[simp] theorem steady_commitPage {s : State} {a0} : steady (commitPage a0 s) = steady s := by
  unfold commitPage
  rw [steady_reloadShadows]
  refine steady_foldl fun s e => ?_
  dsimp only
  split <;> simp

@[simp] theorem steady_logTransient {s : State} {a0 a1 a2} : steady (logTransient a0 a1 a2 s) = steady s := (rfl)
@[simp] theorem steady_fatal {s : State} {a0} : steady (fatal a0 s) = steady s := by simp [fatal]
@[simp] theorem steady_report {s : State} {a0 a1 a2} : steady (report a0 a1 a2 s) = steady s := (rfl)
@[simp] theorem steady_setBoth {s : State} {a b v} : steady (setBoth a b v s) = steady s := (rfl)

/-! ### CoreOps -/

@[simp] theorem steady_hitReport {s : State} {a0 a1 a2 a3} : steady (hitReport a0 a1 a2 a3 s) = steady s := by
  unfold hitReport
  split <;> simp

@[simp] theorem steady_setCore {s : State} {a0 a1} : steady (setCore a0 a1 s) = steady s := (rfl)

@[simp] theorem steady_takeLineHit {a0 a1 a3} {a2 : State × Option Code} : steady (takeLineHit a0 a1 a2 a3).1 = steady a2.1 := by
  unfold takeLineHit
  dsimp only
  (repeat' split) <;> simp

@[simp] theorem steady_noteBad {s : State} {a0 a1 a2} : steady (noteBad a0 a1 a2 s) = steady s := by
  unfold noteBad
  split <;> simp

@[simp] theorem steady_takeHit {a0 a2} {a1 : State × Option Code} : steady (takeHit a0 a1 a2).1 = steady a1.1 := by simp [takeHit]

@[simp] theorem steady_accessCheck {s : State} {a0 a1 a2 a3} : steady (accessCheck a0 a1 a2 a3 s).1 = steady s :=
  steady_foldl_fst fun q x => by
    split
    · simp
    · split <;> simp

@[simp] theorem steady_readCheck {s : State} {a0 a1 a2} : steady (readCheck a0 a1 a2 s).1 = steady s := by simp [readCheck]
@[simp] theorem steady_partialCheck {s : State} {a0 a1 a2 a3} : steady (partialCheck a0 a1 a2 a3 s).1 = steady s := by simp [partialCheck]
@[simp] theorem steady_noteFault {s : State} {a0 a1 a2 a3} : steady (noteFault a0 a1 a2 a3 s) = steady s := by simp [noteFault]
@[simp] theorem steady_faultThread {s : State} {a0 a1 a2} : steady (faultThread a0 a1 a2 s) = steady s := by simp [faultThread]
@[simp] theorem steady_setUnits {s : State} {a0 a1} : steady (setUnits a0 a1 s) = steady s := (rfl)

@[simp] theorem steady_hdOutsideWrite {s : State} {a0 a1} : steady (hdOutsideWrite a0 a1 s) = steady s := by
  unfold hdOutsideWrite
  dsimp only
  split
  · refine steady_foldl fun s w => ?_
    split <;> simp
  · rfl

@[simp] theorem steady_clearMem {s : State} {a0} : steady (clearMem a0 s) = steady s := (rfl)
@[simp] theorem steady_recordDma {s : State} {a0 a1 a2 a3 a4} : steady (recordDma a0 a1 a2 a3 a4 s) = steady s := by simp [recordDma]
@[simp] theorem steady_hdFire {s : State} {a0 a1} : steady (hdFire a0 a1 s) = steady s := by simp [hdFire]
@[simp] theorem steady_updCore {s : State} {a0 a1} : steady (updCore a0 a1 s) = steady s := (rfl)
@[simp] theorem steady_writeMem {s : State} {a l} : steady (writeMem a l s) = steady s := (rfl)
@[simp] theorem steady_hdRecord {s : State} {a0 a1} : steady (hdRecord a0 a1 s) = steady s := by simp [hdRecord]
@[simp] theorem steady_hdBlocked {s : State} {a0 a1 a2 a3 a4} : steady (hdBlocked a0 a1 a2 a3 a4 s) = steady s := by simp [hdBlocked]

@[simp] theorem steady_hdRead {s : State} {a0 a1 a2 a3 a4} : steady (hdRead a0 a1 a2 a3 a4 s) = steady s := by
  unfold hdRead
  dsimp only
  split
  · refine steady_foldl fun s w => ?_
    split <;> simp
  · rfl

/-! ### MsgOps -/

@[simp] theorem steady_refillCore {s : State} {a0} : steady (refillCore a0 s) = steady s := (rfl)
@[simp] theorem steady_setRouter {s : State} {a0 a1} : steady (setRouter a0 a1 s) = steady s := (rfl)

@[simp] theorem steady_injectEngine {s : State} {a0 a1} : steady (injectEngine a0 a1 s) = steady s := by
  unfold injectEngine
  split <;> simp

@[simp] theorem steady_sendAdd {s : State} {a0 a1 a2 a3} : steady (sendAdd a0 a1 a2 a3 s) = steady s := by simp [sendAdd]
@[simp] theorem steady_sendNotify {s : State} {a0 a1 a2 a3} : steady (sendNotify a0 a1 a2 a3 s) = steady s := by simp [sendNotify]
@[simp] theorem steady_fenceRefused {s : State} {a0 a1} : steady (fenceRefused a0 a1 s) = steady s := by simp [fenceRefused]
@[simp] theorem steady_injectLocal {s : State} {a0 a1} : steady (injectLocal a0 a1 s) = steady s := (rfl)
@[simp] theorem steady_descLanded {s : State} {a0 a1 a2} : steady (descLanded a0 a1 a2 s) = steady s := (rfl)
@[simp] theorem steady_setStack {s : State} {a0 a1} : steady (setStack a0 a1 s) = steady s := (rfl)
@[simp] theorem steady_updChan {s : State} {a0 a1 a2} : steady (updChan a0 a1 a2 s) = steady s := (rfl)
@[simp] theorem steady_segLanded {s : State} {a0 a1 a2 a3} : steady (segLanded a0 a1 a2 a3 s) = steady s := (rfl)

@[simp] theorem steady_landed {s : State} {a0 a1} : steady (landed a0 a1 s) = steady s := by
  unfold landed
  split <;> simp

@[simp] theorem steady_notify {s : State} {a0 a1 a2} : steady (notify a0 a1 a2 s) = steady s := by simp [notify]
@[simp] theorem steady_copyUnclean {s : State} {a0} : steady (copyUnclean a0 s) = steady s := (rfl)
@[simp] theorem steady_fenceRefusedAny {s : State} {a0} : steady (fenceRefusedAny a0 s) = steady s := by simp [fenceRefusedAny]
@[simp] theorem steady_setModel {s : State} {a0 a1} : steady (setModel a0 a1 s) = steady s := (rfl)
@[simp] theorem steady_updModel {s : State} {a0 a1} : steady (updModel a0 a1 s) = steady s := (rfl)
@[simp] theorem steady_injectFcu {s : State} {a0 a1} : steady (injectFcu a0 a1 s) = steady s := by simp [injectFcu]
@[simp] theorem steady_enqueue {s : State} {a0 a1 a2} : steady (enqueue a0 a1 a2 s) = steady s := (rfl)

/-! ### ChainOps -/

@[simp] theorem steady_setLink {s : State} {a0 a1} : steady (setLink a0 a1 s) = steady s := (rfl)
@[simp] theorem steady_sendFlit {s : State} {a0 a1 a2 a3} : steady (sendFlit a0 a1 a2 a3 s) = steady s := (rfl)

@[simp] theorem steady_pumpCtl {s : State} {a0 a1} : steady (pumpCtl a0 a1 s) = steady s := by
  induction a1 generalizing s with
  | zero => rfl
  | succ n ih => unfold pumpCtl; dsimp only; split <;> simp [ih]

theorem steady_takeReq {s : State} {a0} {w} {t} (e : takeReq a0 s = some (w, t)) : steady t = steady s := by
  unfold takeReq at e
  split at e <;> cases e
  simp

@[simp] theorem steady_sendCtl {s : State} {a0 a1 a2} : steady (sendCtl a0 a1 a2 s) = steady s := by simp [sendCtl]
@[simp] theorem steady_returnCredits {s : State} {a0 a1} : steady (returnCredits a0 a1 s) = steady s := by simp [returnCredits]

@[simp] theorem steady_movedOn {s : State} {a0} : steady (movedOn a0 s) = steady s := by
  unfold movedOn
  split <;> simp

@[simp] theorem steady_pumpVc {s : State} {a0 a1 a2} : steady (pumpVc a0 a1 a2 s) = steady s := by
  induction a2 generalizing s with
  | zero => rfl
  | succ n ih => unfold pumpVc; dsimp only; split <;> simp [ih]

@[simp] theorem steady_pumpTx {s : State} {a0} : steady (pumpTx a0 s) = steady s := by simp [pumpTx]
@[simp] theorem steady_spRespond {s : State} {a0 a1 a2 a3 a4} : steady (spRespond a0 a1 a2 a3 a4 s) = steady s := by simp [spRespond]
@[simp] theorem steady_transmit {s : State} {a0 a1 a2 a3} : steady (transmit a0 a1 a2 a3 s) = steady s := by simp [transmit]
@[simp] theorem steady_egress {s : State} {a0 a1 a2 a3 a4} : steady (egress a0 a1 a2 a3 a4 s) = steady s := by simp [egress]

@[simp] theorem steady_sendResp {s : State} {a0 a1} : steady (sendResp a0 a1 s) = steady s := by
  unfold sendResp
  split <;> simp

@[simp] theorem steady_inEnded {s : State} {a0} : steady (inEnded a0 s) = steady s := (rfl)

@[simp] theorem steady_finishIn {s : State} {a0} : steady (finishIn a0 s) = steady s := by
  unfold finishIn
  split <;> simp

@[simp] theorem steady_updIn {s : State} {a0 a1} : steady (updIn a0 a1 s) = steady s := (rfl)
@[simp] theorem steady_inRead {s : State} {a0 a1 a2} : steady (inRead a0 a1 a2 s) = steady s := by simp [inRead]

@[simp] theorem steady_attachReply {s : State} {a0} : steady (attachReply a0 s) = steady s := by
  unfold attachReply
  split <;> simp

@[simp] theorem steady_clLast {s : State} {a0 a1} : steady (clLast a0 a1 s) = steady s := (rfl)
@[simp] theorem steady_countEnd {s : State} {a0 a1} : steady (countEnd a0 a1 s) = steady s := by simp [countEnd]
@[simp] theorem steady_setInst {s : State} {a0 a1} : steady (setInst a0 a1 s) = steady s := (rfl)

@[simp] theorem steady_svcFails {s : State} {a0} : steady (svcFails a0 s) = steady s := by
  unfold svcFails
  split <;> simp

@[simp] theorem steady_failPart {s : State} {a0 a1 a2} : steady (failPart a0 a1 a2 s) = steady s := by
  unfold failPart
  split <;> simp

@[simp] theorem steady_transitOut {s : State} {a0 a1 a2 a3} : steady (transitOut a0 a1 a2 a3 s) = steady s := by
  unfold transitOut
  grind [steady_transmit, steady_movedOn, steady_countUp, steady_takeReq, steady_countEnd, steady_failPart, steady_sendResp]

@[simp] theorem steady_originate {s : State} {a0 a1 a2 a3 a4} : steady (originate a0 a1 a2 a3 a4 s) = steady s := by
  unfold originate
  (repeat' split) <;> simp

@[simp] theorem steady_attachFront {s : State} {a0} : steady (attachFront a0 s) = steady s := by
  unfold attachFront
  (repeat' split) <;> simp

@[simp] theorem steady_attachDrain {s : State} {a0 a1} : steady (attachDrain a0 a1 s) = steady s := by
  induction a1 generalizing s with
  | zero => rfl
  | succ n ih => simp [attachDrain, ih]

@[simp] theorem steady_reqEnded {s : State} {a0} : steady (reqEnded a0 s) = steady s := by simp [reqEnded]
@[simp] theorem steady_flushAnswered {s : State} {a0 a1} : steady (flushAnswered a0 a1 s) = steady s := by simp [flushAnswered]
@[simp] theorem steady_inFails {s : State} {a0 a1} : steady (inFails a0 a1 s) = steady s := by simp [inFails]

@[simp] theorem steady_endReq {s : State} {a0 a1} : steady (endReq a0 a1 s) = steady s := by
  unfold endReq
  grind [steady_takeReq, steady_reqEnded, steady_countEnd, steady_failPart]

@[simp] theorem steady_attachArrive {s : State} {a0 a1} : steady (attachArrive a0 a1 s) = steady s := by simp [attachArrive]

/-! ### Operands -/

@[simp] theorem steady_useCheck {s : State} {a0 a1 a2} : steady (useCheck a0 a1 a2 s).1 = steady s := by simp [useCheck]
@[simp] theorem steady_issued {s : State} {a0 a1 a2 a3} : steady (issued a0 a1 a2 a3 s) = steady s := (rfl)
@[simp] theorem steady_blockThread {s : State} {a0 a1 a2 a3} : steady (blockThread a0 a1 a2 a3 s) = steady s := by simp [blockThread]
@[simp] theorem steady_passOffer {s : State} {a0 a1 a2} : steady (passOffer a0 a1 a2 s) = steady s := (rfl)

theorem steady_settle {c t cycle} {r : IRes} : steady (settle c t cycle r) = steady r.state := by
  cases r <;> simp [settle]

@[simp] theorem steady_issue {s : State} {a0 a1 a2} (hF : ∀ k s, steady (a2 k s).state = steady s) : steady (issue a0 a1 a2 s) = steady s := by
  unfold issue
  dsimp only
  (repeat' split) <;> simp [hF, steady_settle]

@[simp] theorem steady_requestLine {s : State} {a0 a1} : steady (requestLine a0 a1 s) = steady s := by simp [requestLine]

theorem steady_missBlock {s : State} {a0 a1} {w} {t} (e : missBlock a0 a1 s = some (w, t)) : steady t = steady s := by
  unfold missBlock at e
  dsimp only at e
  split at e <;> cases e
  refine steady_foldl_snd fun q x => ?_
  split
  · rfl
  · split <;> simp

theorem steady_gateLines {s : State} {a0 a1 a2} {w} {t} (e : gateLines a0 a1 a2 s = some (w, t)) : steady t = steady s := by
  unfold gateLines at e
  grind [steady_missBlock]

theorem steady_gate {s : State} {a0 a1} {w} {t} (e : gate a0 a1 s = some (w, t)) : steady t = steady s := by
  unfold gate at e
  grind [steady_gateLines]

@[simp] theorem steady_withPlainReads {s : State} {a0 a1 a3} (hF : ∀ s, steady (a3 s).state = steady s) : steady (withPlainReads a0 a1 s a3).state = steady s := by
  unfold withPlainReads
  dsimp only
  split
  · simp
  · split
    · rename_i e
      simp [steady_missBlock e]
    · simp [hF]

@[simp] theorem steady_withReads {s : State} {a0 a1 a3} (hF : ∀ s, steady (a3 s).state = steady s) : steady (withReads a0 a1 s a3).state = steady s := by simp [withReads, hF]
@[simp] theorem steady_useTag {s : State} {a0 a1 a2} : steady (useTag a0 a1 a2 s) = steady s := by simp [useTag]
@[simp] theorem steady_useStore {s : State} {a0 a1 a2} : steady (useStore a0 a1 a2 s) = steady s := by simp [useStore]
@[simp] theorem steady_updThread {s : State} {a0 a1} : steady (updThread a0 a1 s) = steady s := (rfl)

/-! ### HostOps -/

@[simp] theorem steady_hostFail {s : State} {a0 a1 a2} : steady (hostFail a0 a1 a2 s) = steady s := by simp [hostFail]

@[simp] theorem steady_updHost {s : State} {f} (hf : ∀ h, (f h).memSpace = h.memSpace) : steady (updHost f s) = steady s := by
  simp [steady, steadyParts, updHost, hf]

@[simp] theorem steady_askLines {s : State} {a0 a1 a2 a3 a4} : steady (askLines a0 a1 a2 a3 a4 s) = steady s := by simp [askLines]

@[simp] theorem steady_readHost {s : State} {a0 a1 a2 a3} : steady (readHost a0 a1 a2 a3 s).2 = steady s := by
  unfold readHost
  (repeat' split) <;> simp

@[simp] theorem steady_exchWrite {s : State} {a l} : steady (exchWrite a l s) = steady s := (rfl)
@[simp] theorem steady_sendLine {s : State} {a0} : steady (sendLine a0 s) = steady s := by simp [sendLine]

@[simp] theorem steady_issueLines {s : State} {a0} : steady (issueLines a0 s) = steady s := by
  induction a0 generalizing s with
  | nil => rfl
  | cons q l ih => simp [issueLines, ih]

theorem steady_takeHostReq {s : State} {a0} {w} {t} (e : takeHostReq a0 s = some (w, t)) : steady t = steady s := by
  unfold takeHostReq at e
  grind [steady_updHost, steady_issueLines]

@[simp] theorem steady_lineDone {s : State} {a0 a1 a2} : steady (lineDone a0 a1 a2 s).2 = steady s := by
  unfold lineDone
  grind [steady_updHost]

@[simp] theorem steady_hostSend {s : State} {a0 a1 a2 a3 a4 a5} : steady (hostSend a0 a1 a2 a3 a4 a5 s) = steady s := by
  unfold hostSend
  grind [steady_updHost, steady_issueLines]

/-! ### Fabric -/

@[simp] theorem steady_popUpstream {s : State} {a0 a1 a2} : steady (popUpstream a0 a1 a2 s) = steady s := by simp [popUpstream]
@[simp] theorem steady_dropArriving {s : State} {a0 a1 a2} : steady (dropArriving a0 a1 a2 s) = steady s := by simp [dropArriving]

@[simp] theorem steady_hubWrite {s : State} {a0} : steady (hubWrite a0 s) = steady s := by
  unfold hubWrite
  split <;> simp

@[simp] theorem steady_noteDropped {s : State} {a0} : steady (noteDropped a0 s) = steady s := by
  unfold noteDropped
  split <;> simp

@[simp] theorem steady_fabEvent {s : State} {a0 a1 a2 a3 a4} : steady (fabEvent a0 a1 a2 a3 a4 s) = steady s := by simp [fabEvent]
@[simp] theorem steady_dropMsg {s : State} {a0 a1 a2 a3} : steady (dropMsg a0 a1 a2 a3 s) = steady s := by simp [dropMsg]

theorem steady_sendOut {s : State} {a0 a1 a2} {t} (e : sendOut a0 a1 a2 s = some t) : steady t = steady s := by
  unfold sendOut at e
  grind [steady_setRouter]

theorem steady_hop {s : State} {a0 a1} {t} (e : hop a0 a1 s = some t) : steady t = steady s := by
  unfold hop at e
  grind [steady_dropMsg, steady_sendOut, steady_enqueue]

@[simp] theorem steady_dropOut {s : State} {a0 a1 a2} : steady (dropOut a0 a1 a2 s) = steady s := by simp [dropOut]
@[simp] theorem steady_dropBefore {s : State} {a0} : steady (dropBefore a0 s) = steady s := by simp [dropBefore]

@[simp] theorem steady_pull {s : State} {a0 a1 a2 a3} : steady (pull a0 a1 a2 a3 s) = steady s := by
  induction a3 generalizing s with
  | zero => rfl
  | succ n ih => unfold pull; split <;> simp [ih]

@[simp] theorem steady_fetchInput {s : State} {a0 a1 a2} : steady (fetchInput a0 a1 a2 s) = steady s := by simp [fetchInput]

@[simp] theorem steady_noteGrant {s : State} {a0 a1 a2 a3} : steady (noteGrant a0 a1 a2 a3 s) = steady s := by
  unfold noteGrant
  split <;> simp

@[simp] theorem steady_fanNext {s : State} {a0} : steady (fanNext a0 s) = steady s := by
  unfold fanNext
  dsimp only
  (repeat' split) <;> simp

@[simp] theorem steady_popHead {s : State} {a0 a1 a2} : steady (popHead a0 a1 a2 s) = steady s := by simp [popHead]

theorem steady_onHead {s : State} {a0 a1 a2 a3 a4} (hF : ∀ x s t, a4 x s = some t → steady t = steady s) : steady (onHead a0 a1 a2 a3 a4 s) = steady s := by
  unfold onHead
  split
  · rfl
  · dsimp only
    split
    · simp
    · rename_i m _
      have hact : steady (((a4 m (fetchInput a0 a1 a2 s)).map (noteGrant a0 a1 a2 m)).getD (fetchInput a0 a1 a2 s)) = steady (fetchInput a0 a1 a2 s) := by
        refine steady_getD fun t e => ?_
        obtain ⟨u, hu, rfl⟩ := Option.map_eq_some_iff.1 e
        simp [hF _ _ _ hu]
      simp [hact]

@[simp] theorem steady_replyAtEntry {s : State} {a0 a1} : steady (replyAtEntry a0 a1 s) = steady s := by
  unfold replyAtEntry
  dsimp only
  (repeat' split) <;> simp

@[simp] theorem steady_fillArrives {s : State} {a0 a1 a2} : steady (fillArrives a0 a1 a2 s) = steady s := (rfl)
@[simp] theorem steady_tallyArrives {s : State} {a0 a1 a2} : steady (tallyArrives a0 a1 a2 s) = steady s := (rfl)
@[simp] theorem steady_channelWake {s : State} {a0 a1} : steady (channelWake a0 a1 s) = steady s := (rfl)

@[simp] theorem steady_readFails {s : State} {a0 a1 a2 a3} : steady (readFails a0 a1 a2 a3 s) = steady s := by
  induction a2 generalizing s a3 with
  | zero => rfl
  | succ n ih =>
    unfold readFails
    split
    · split
      · split
        · simp [ih]
        · rfl
      · rfl
    · simp

@[simp] theorem steady_readRefused {s : State} {a0 a1} : steady (readRefused a0 a1 s) = steady s := by simp [readRefused]

@[simp] theorem steady_hubRead {s : State} {a0 a1} : steady (hubRead a0 a1 s) = steady s := by
  unfold hubRead
  split <;> simp

@[simp] theorem steady_hubReply {s : State} {a0 a1 a2} : steady (hubReply a0 a1 a2 s) = steady s := by
  unfold hubReply
  split <;> simp

@[simp] theorem steady_hubArrive {s : State} {a0 a1} : steady (hubArrive a0 a1 s) = steady s := by
  unfold hubArrive
  (repeat' split) <;> simp

@[simp] theorem steady_deliver {s : State} {a0 a1} : steady (deliver a0 a1 s) = steady s := by
  unfold deliver
  (repeat' split) <;> simp

theorem steady_moveOn {s : State} {a0 a1} {t} (e : moveOn a0 a1 s = some t) : steady t = steady s := by
  unfold moveOn at e
  grind [steady_hop, steady_dropMsg, steady_deliver, steady_sendOut]

@[simp] theorem steady_routerHeader {s : State} {a0 a1 a2} : steady (routerHeader a0 a1 a2 s) = steady s := by
  unfold routerHeader
  grind [steady_onHead, steady_moveOn, steady_popHead]

@[simp] theorem steady_failLink {s : State} {a0 a1} : steady (failLink a0 a1 s) = steady s := by simp [failLink]

@[simp] theorem steady_flitReplay {s : State} {a0 a1 a2 a3} : steady (flitReplay a0 a1 a2 a3 s) = steady s := by
  unfold flitReplay
  split <;> simp

@[simp] theorem steady_parityError {s : State} {a0 a1 a2} : steady (parityError a0 a1 a2 s) = steady s := by simp [parityError]

/-! ### Reduce -/

@[simp] theorem steady_transitRelease {s : State} {a0 a1} : steady (transitRelease a0 a1 s) = steady s := by
  unfold transitRelease
  dsimp only
  split
  · split
    · rfl
    · refine steady_getD fun t e => ?_
      obtain ⟨u, hu, rfl⟩ := Option.map_eq_some_iff.1 e
      simp [steady_moveOn hu]
  · rfl

@[simp] theorem steady_countCombine {s : State} {a0} : steady (countCombine a0 s) = steady s := (rfl)

@[simp] theorem steady_startDelivery {s : State} {a0} : steady (startDelivery a0 s) = steady s := by
  unfold startDelivery
  split <;> simp

@[simp] theorem steady_setCombine {s : State} {a0 a1 a2} : steady (setCombine a0 a1 a2 s) = steady s := (rfl)
@[simp] theorem steady_ownerPut {s : State} {a0 a1 a2} : steady (ownerPut a0 a1 a2 s) = steady s := by simp [ownerPut]
@[simp] theorem steady_reduceMismatch {s : State} {a0 a1 a2} : steady (reduceMismatch a0 a1 a2 s) = steady s := by simp [reduceMismatch]

theorem steady_reduceOwned {s : State} {a0 a1 a2 a3} {t} (e : reduceOwned a0 a1 a2 a3 s = some t) : steady t = steady s := by
  unfold reduceOwned at e
  grind [steady_popHead, steady_dropMsg, steady_fenceRefusedAny, steady_countCombine, steady_ownerPut, steady_reduceMismatch, steady_setRouter]

@[simp] theorem steady_reduceAtOwner {s : State} {a0 a1 a2} : steady (reduceAtOwner a0 a1 a2 s) = steady s := by
  unfold reduceAtOwner
  grind [steady_onHead, steady_reduceOwned]

theorem steady_reduceOnWay {s : State} {a0 a1 a2 a3 a4} {t} (e : reduceOnWay a0 a1 a2 a3 a4 s = some t) : steady t = steady s := by
  unfold reduceOnWay at e
  grind [steady_countCombine, steady_setCombine, steady_popHead, steady_moveOn]

@[simp] theorem steady_reduceAtRouter {s : State} {a0 a1 a2 a3} : steady (reduceAtRouter a0 a1 a2 a3 s) = steady s := by
  unfold reduceAtRouter
  grind [steady_onHead, steady_reduceOnWay]

@[simp] theorem steady_flushReduce {s : State} {a0} : steady (flushReduce a0 s) = steady s := by simp [flushReduce]
@[simp] theorem steady_onPage {s : State} {a0 a1 a2 a3} (hF : ∀ s, steady (a3 s) = steady s) : steady (onPage a0 a1 a2 a3 s) = steady s := by simp [onPage, hF]

/-! ### ReadMerge -/

@[simp] theorem steady_setMerge {s : State} {a0 a1 a2} : steady (setMerge a0 a1 a2 s) = steady s := (rfl)
@[simp] theorem steady_absorb {s : State} {a0 a1 a2} : steady (absorb a0 a1 a2 s) = steady s := (rfl)
@[simp] theorem steady_openMerge {s : State} {a0 a1 a2 a3} : steady (openMerge a0 a1 a2 a3 s) = steady s := (rfl)

@[simp] theorem steady_readAtEdge {s : State} {a0 a1} : steady (readAtEdge a0 a1 s) = steady s := by
  unfold readAtEdge
  (repeat' split) <;> simp

@[simp] theorem steady_fanout {s : State} {a0 a1} : steady (fanout a0 a1 s) = steady s := by
  unfold fanout
  dsimp only
  (repeat' split) <;> simp

theorem steady_readAtEntry {s : State} {a0 a1} {t} (e : readAtEntry a0 a1 s = some t) : steady t = steady s := by
  unfold readAtEntry at e
  grind [steady_absorb, steady_moveOn, steady_openMerge]

@[simp] theorem steady_flushMerge {s : State} {a0} : steady (flushMerge a0 s) = steady s := by simp [flushMerge]

@[simp] theorem steady_serveRead {s : State} {a0 a1 a2} : steady (serveRead a0 a1 a2 s) = steady s := by
  unfold serveRead
  dsimp only
  (repeat' split) <;> simp

theorem steady_readAtCore {s : State} {a0 a1 a2} {t} (e : readAtCore a0 a1 a2 s = some t) : steady t = steady s := by
  unfold readAtCore at e
  grind [steady_dropMsg, steady_absorb, steady_serveRead]

@[simp] theorem steady_mergeClose {s : State} {a0 a1} : steady (mergeClose a0 a1 s) = steady s := by
  unfold mergeClose
  split <;> simp

theorem steady_readMerges {s : State} {a0 a1 a2 a3 a4} {t} (e : readMerges a0 a1 a2 a3 a4 s = some t) : steady t = steady s := by
  unfold readMerges at e
  grind [steady_popHead, steady_readRefused, steady_fenceRefusedAny, steady_readAtCore, steady_dropMsg, steady_deliver, steady_readAtEdge, steady_readAtEntry]

@[simp] theorem steady_readAtMergePoint {s : State} {a0 a1 a2 a3} : steady (readAtMergePoint a0 a1 a2 a3 s) = steady s := by
  unfold readAtMergePoint
  grind [steady_onHead, steady_readMerges]

/-! ### Unit -/

@[simp] theorem steady_grantPermit {s : State} {a0} : steady (grantPermit a0 s) = steady s := (rfl)

@[simp] theorem steady_grantWaiting {s : State} {a0 a1} : steady (grantWaiting a0 a1 s) = steady s := by
  induction a1 generalizing s with
  | zero => rfl
  | succ n ih => unfold grantWaiting; split <;> simp [ih]

@[simp] theorem steady_grantAll {s : State} {a0} : steady (grantAll a0 s) = steady s := by simp [grantAll]
@[simp] theorem steady_releasePermit {s : State} {a0} : steady (releasePermit a0 s) = steady s := by simp [releasePermit]
@[simp] theorem steady_requestPermit {s : State} {a0} : steady (requestPermit a0 s).state = steady s := by simp [requestPermit]
@[simp] theorem steady_entryTaken {s : State} {a0 a1 a2} : steady (entryTaken a0 a1 a2 s) = steady s := by simp [entryTaken]
@[simp] theorem steady_takeEntry {s : State} {a0 a1 a2} : steady (takeEntry a0 a1 a2 s).state = steady s := by simp [takeEntry]

@[simp] theorem steady_edgeTake {s : State} {a0 a1 a2} : steady (edgeTake a0 a1 a2 s).state = steady s := by
  unfold edgeTake
  dsimp only
  split
  · rename_i e
    simp [steady_gateLines e]
  · simp

@[simp] theorem steady_cvtBody {s : State} {a0} : steady (cvtBody a0 s).state = steady s := by
  unfold cvtBody
  split <;> simp

@[simp] theorem steady_arrayBody {s : State} {a0} : steady (arrayBody a0 s).state = steady s := by
  unfold arrayBody
  split
  · rfl
  · split
    · simp
    · split
      · rename_i e
        simp [steady_gate e]
      · simp

@[simp] theorem steady_requestAhead {s : State} {a0 a1 a2} : steady (requestAhead a0 a1 a2 s) = steady s := by simp [requestAhead]

@[simp] theorem steady_streamAhead {s : State} {a0} : steady (streamAhead a0 s) = steady s := by
  unfold streamAhead
  dsimp only
  (repeat' split) <;> simp

@[simp] theorem steady_mvdBody {s : State} {a0} : steady (mvdBody a0 s).state = steady s := by
  unfold mvdBody
  split
  · rfl
  · split
    · rfl
    · split
      · rfl
      · split
        · rename_i e
          simp [steady_gateLines e]
        · simp

@[simp] theorem steady_topkBody {s : State} {a0} : steady (topkBody a0 s).state = steady s := by
  unfold topkBody
  split <;> simp

/-! ### Arrival -/

@[simp] theorem steady_loseLine {s : State} {a0 a1 a2} : steady (loseLine a0 a1 a2 s) = steady s := by simp [loseLine]

@[simp] theorem steady_writeback {s : State} {a0 a1} : steady (writeback a0 a1 s) = steady s := by
  unfold writeback
  (repeat' split) <;> simp

@[simp] theorem steady_spargeFinds {s : State} {a0 a1 a2} : steady (spargeFinds a0 a1 a2 s) = steady s := by
  unfold spargeFinds
  split <;> simp

@[simp] theorem steady_spargeVisit {s : State} {a0 a1 a2} : steady (spargeVisit a0 a1 a2 s) = steady s := by simp [spargeVisit]

@[simp] theorem steady_installLine {s : State} {a0 a1} : steady (installLine a0 a1 s) = steady s := by
  unfold installLine
  dsimp only
  (repeat' split) <;> simp

@[simp] theorem steady_bankClearDone {s : State} {a0 a1} : steady (bankClearDone a0 a1 s) = steady s := (rfl)
@[simp] theorem steady_arrivalWrite {s : State} {a0 a1} : steady (arrivalWrite a0 a1 s) = steady s := by simp [arrivalWrite]
@[simp] theorem steady_missFill {s : State} {a0 a1} : steady (missFill a0 a1 s) = steady s := by simp [missFill]
@[simp] theorem steady_arrivalDiscard {s : State} {a0 a1 a2} : steady (arrivalDiscard a0 a1 a2 s) = steady s := by simp [arrivalDiscard]
@[simp] theorem steady_arrivalDone {s : State} {a0 a1} : steady (arrivalDone a0 a1 s) = steady s := by simp [arrivalDone]

@[simp] theorem steady_fabricArrival {s : State} {a0} : steady (fabricArrival a0 s) = steady s := by
  unfold fabricArrival
  dsimp only
  (repeat' split) <;> simp

/-! ### Txn -/

@[simp] theorem steady_setGrp {s : State} {a0 a1} : steady (setGrp a0 a1 s) = steady s := (rfl)
@[simp] theorem steady_endGroup {s : State} {a0 a1 a2 a3} : steady (endGroup a0 a1 a2 a3 s) = steady s := by simp [endGroup]
@[simp] theorem steady_endPlain {s : State} {a0 a1} : steady (endPlain a0 a1 s) = steady s := by simp [endPlain]

@[simp] theorem steady_tickBefore {s : State} {a0} : steady (tickBefore a0 s) = steady s := by
  refine steady_foldl fun s e => ?_
  dsimp only
  split
  · rfl
  · split <;> simp

@[simp] theorem steady_enrol {s : State} {a0 a1 a2} : steady (enrol a0 a1 a2 s) = steady s := by
  unfold enrol
  dsimp only
  (repeat' split) <;> simp

@[simp] theorem steady_setSel {s : State} {a0 a1} : steady (setSel a0 a1 s) = steady s := (rfl)

@[simp] theorem steady_allocGroup {s : State} {a0} : steady (allocGroup a0 s) = steady s := by
  unfold allocGroup
  split <;> simp

@[simp] theorem steady_withdraw {s : State} {a0 a1 a2} : steady (withdraw a0 a1 a2 s) = steady s := by
  unfold withdraw
  (repeat' split) <;> simp

@[simp] theorem steady_clearEnrol {s : State} {a0} : steady (clearEnrol a0 s) = steady s := by simp [clearEnrol]
@[simp] theorem steady_tickLock {s : State} {a0} : steady (tickLock a0 s) = steady s := by simp [tickLock]
@[simp] theorem steady_txnState {s : State} : steady (txnState s) = steady s := by simp [txnState]
@[simp] theorem steady_armGroup {s : State} {a0} : steady (armGroup a0 s) = steady s := by simp [armGroup]
@[simp] theorem steady_abortGroup {s : State} {a0} : steady (abortGroup a0 s) = steady s := by simp [abortGroup]

@[simp] theorem steady_claimPage {s : State} {a0} : steady (claimPage a0 s) = steady s := by
  unfold claimPage
  split <;> simp

@[simp] theorem steady_losePage {s : State} {a0} : steady (losePage a0 s) = steady s := by
  unfold losePage
  dsimp only
  (repeat' split) <;> simp

@[simp] theorem steady_armNow {s : State} {a0} : steady (armNow a0 s) = steady s := by simp [armNow]
@[simp] theorem steady_loseBeatGroups {s : State} : steady (loseBeatGroups s) = steady s := by simp [loseBeatGroups]
@[simp] theorem steady_releaseGroup {s : State} {a0} : steady (releaseGroup a0 s) = steady s := by simp [releaseGroup]

/-! ### Beat -/

@[simp] theorem steady_noteArrival {s : State} {a0} : steady (noteArrival a0 s) = steady s := (rfl)
@[simp] theorem steady_candLinkDown {s : State} {a0} : steady (candLinkDown a0 s) = steady s := (rfl)
@[simp] theorem steady_beatCommitShadows {s : State} : steady (beatCommitShadows s) = steady s := by simp [beatCommitShadows]

@[simp] theorem steady_setCand {s : State} {a0 a1} : steady (setCand a0 a1 s) = steady s := by
  unfold setCand
  split <;> simp

@[simp] theorem steady_candTimeout {s : State} {a0 a1} : steady (candTimeout a0 a1 s) = steady s := by simp [candTimeout]

@[simp] theorem steady_restart {s : State} : steady (restart s) = steady s := by
  unfold restart
  split
  · rfl
  · rename_i hm
    split
    · simp
    · have hc : steady (beatCommitShadows s) = steady s := by simp
      have hl : (s.beat.mode == .locked) = false := by simpa using hm
      simp only [steady, steadyParts, Prod.mk.injEq, hl] at hc ⊢
      obtain ⟨hbeat, -, hspace⟩ := hc
      refine ⟨hbeat, ?_, hspace⟩
      split <;> rfl

/-! ### StackOps -/

@[simp] theorem steady_stackLast {s : State} {a0 a1} : steady (stackLast a0 a1 s) = steady s := (rfl)

@[simp] theorem steady_eccEvent {a0 a1 a3} {a2 : Option Code × State} : steady (eccEvent a0 a1 a2 a3).2 = steady a2.2 := by
  unfold eccEvent
  split <;> simp

@[simp] theorem steady_writeUnit {s : State} {k chk a l} : steady (writeUnit k chk a l s) = steady s := (rfl)

@[simp] theorem steady_requestFails {s : State} {a0 a1 a2} : steady (requestFails a0 a1 a2 s) = steady s := by
  unfold requestFails
  split <;> simp

@[simp] theorem steady_eccEvents {s : State} {a0 a1 a2} : steady (eccEvents a0 a1 a2 s).2 = steady s := by simp [eccEvents]

@[simp] theorem steady_readUnit {s : State} {a0 a1 a2 a3 a4 a5 a6} : steady (readUnit a0 a1 a2 a3 a4 a5 a6 s).2 = steady s := by
  unfold readUnit
  dsimp only
  (repeat' split) <;> simp

@[simp] theorem steady_readUnits {s : State} {a0 a1 a2 a3 a4 a5 a6} : steady (readUnits a0 a1 a2 a3 a4 a5 a6 s).2 = steady s := by
  induction a6 generalizing s with
  | nil => rfl
  | cons q l ih =>
    unfold readUnits
    split
    · rename_i e
      simp [steady_of_eq_snd e]
    · rename_i e
      have h := steady_of_eq_snd e
      split <;> rename_i e' <;> simp [steady_of_eq_snd e', ih, h]

@[simp] theorem steady_stackRead {s : State} {a0 a1 a2 a3 a4} : steady (stackRead a0 a1 a2 a3 a4 s).2 = steady s := by
  unfold stackRead
  grind [steady_stackLast, steady_eccEvents, steady_readUnits]

@[simp] theorem steady_serveStackRead {s : State} {a0 a1 a2} : steady (serveStackRead a0 a1 a2 s) = steady s := by
  unfold serveStackRead
  grind [steady_requestFails, steady_stackLast, steady_stackRead, steady_injectEngine]

@[simp] theorem steady_writeStack {s : State} {a0 a1 a2 a3} : steady (writeStack a0 a1 a2 a3 s) = steady s := by simp [writeStack]

@[simp] theorem steady_stackPut {s : State} {a0 a1 a2 a3 a4} : steady (stackPut a0 a1 a2 a3 a4 s).2 = steady s := by
  unfold stackPut
  grind [steady_eccEvents, steady_writeStack]

@[simp] theorem steady_serveSegIn {s : State} {a0 a1 a2 a3 a4 a5} : steady (serveSegIn a0 a1 a2 a3 a4 a5 s) = steady s := by
  unfold serveSegIn
  grind [steady_failPart, steady_fenceRefusedAny, steady_stackPut, steady_segLanded]

@[simp] theorem steady_stackWrite {s : State} {a0 a1 a2 a3} : steady (stackWrite a0 a1 a2 a3 s).2 = steady s := by
  unfold stackWrite
  (repeat' split) <;> simp

@[simp] theorem steady_serveStackWrite {s : State} {a0 a1 a2} : steady (serveStackWrite a0 a1 a2 s) = steady s := by
  unfold serveStackWrite
  grind [steady_serveSegIn, steady_requestFails, steady_stackLast, steady_stackWrite, steady_landed, steady_sendNotify]

@[simp] theorem steady_serveFront {s : State} {a0 a1} : steady (serveFront a0 a1 s) = steady s := by
  unfold serveFront
  split <;> simp

@[simp] theorem steady_serveEarlier {s : State} {a0 a1 a2 a3 a4} : steady (serveEarlier a0 a1 a2 a3 a4 s) = steady s := by
  induction a4 generalizing s with
  | zero => rfl
  | succ n ih => simp [serveEarlier, ih]

@[simp] theorem steady_inOrder {s : State} {a0 a1 a2 a3} : steady (inOrder a0 a1 a2 a3 s) = steady s := by simp [inOrder]

@[simp] theorem steady_requestRow {s : State} {a0 a1 a2} : steady (requestRow a0 a1 a2 s) = steady s := by
  unfold requestRow
  split <;> simp

/-! ### Kv -/

@[simp] theorem steady_subReserved {s : State} {a0 a1} : steady (subReserved a0 a1 s) = steady s := (rfl)
@[simp] theorem steady_freeFrame {s : State} {a0 a1 a2} : steady (freeFrame a0 a1 a2 s) = steady s := (rfl)
@[simp] theorem steady_updServing {s : State} {a0} : steady (updServing a0 s) = steady s := (rfl)
@[simp] theorem steady_setPx {s : State} {a0 a1} : steady (setPx a0 a1 s) = steady s := (rfl)

@[simp] theorem steady_pxRelease {s : State} {a0} : steady (pxRelease a0 s) = steady s := by
  unfold pxRelease
  split <;> simp

@[simp] theorem steady_setStream {s : State} {a0 a1} : steady (setStream a0 a1 s) = steady s := (rfl)
@[simp] theorem steady_updStream {s : State} {a0 a1} : steady (updStream a0 a1 s) = steady s := (rfl)

@[simp] theorem steady_releaseKv {s : State} {a0 a1 a2} : steady (releaseKv a0 a1 a2 s) = steady s := by
  unfold releaseKv
  dsimp only
  (repeat' split) <;> simp

@[simp] theorem steady_pxChild {s : State} {a0 a1} : steady (pxChild a0 a1 s) = steady s := by
  unfold pxChild
  split <;> simp

@[simp] theorem steady_pxDetach {s : State} {a0} : steady (pxDetach a0 s) = steady s := by
  unfold pxDetach
  split <;> simp

@[simp] theorem steady_pxDetachAll {s : State} {a0} : steady (pxDetachAll a0 s) = steady s := by simp [pxDetachAll]
@[simp] theorem steady_writeMap {s : State} {a0 a1 a2 a3} : steady (writeMap a0 a1 a2 a3 s) = steady s := by simp [writeMap]
@[simp] theorem steady_evict {s : State} {a0} : steady (evict a0 s) = steady s := by simp [evict]

theorem steady_takeFrame {s : State} {a0} {w} {t} (e : takeFrame a0 s = some (w, t)) : steady t = steady s := by
  unfold takeFrame at e
  grind [steady_updModel, steady_evict]

@[simp] theorem steady_allocBlock {s : State} {a0 a1 a2 a3} : steady (allocBlock a0 a1 a2 a3 s) = steady s := by
  unfold allocBlock
  grind [steady_takeFrame, steady_writeMap, steady_subReserved, steady_updStream]

theorem steady_pxSlot {s : State} {w} {t} (e : pxSlot s = some (w, t)) : steady t = steady s := by
  unfold pxSlot at e
  grind [steady_evict]

@[simp] theorem steady_publishOne {s : State} {a0 a1 a2 a3} : steady (publishOne a0 a1 a2 a3 s) = steady s := by
  unfold publishOne
  grind [steady_updStream, steady_pxSlot, steady_setPx, steady_pxChild]

@[simp] theorem steady_publish {s : State} {a0 a1 a2 a3 a4 a5} : steady (publish a0 a1 a2 a3 a4 a5 s) = steady s := by
  induction a5 generalizing s with
  | zero => rfl
  | succ n ih => simp [publish, ih]

@[simp] theorem steady_allocCand {s : State} {a0 a1 a2} : steady (allocCand a0 a1 a2 s) = steady s := by
  unfold allocCand
  grind [steady_takeFrame, steady_subReserved, steady_updStream]

@[simp] theorem steady_adoptOne {s : State} {a0 a1 a2 a3 a5} : steady (adoptOne a0 a1 a2 a3 s a5) = steady s := by
  unfold adoptOne
  split <;> simp

@[simp] theorem steady_adopt {s : State} {a0 a1 a2 a3 a4} : steady (adopt a0 a1 a2 a3 a4 s) = steady s := by simp [adopt]
@[simp] theorem steady_allocBlocks {s : State} {a0 a1 a2 a3 a4} : steady (allocBlocks a0 a1 a2 a3 a4 s) = steady s := by simp [allocBlocks]
@[simp] theorem steady_addReserved {s : State} {a0 a1} : steady (addReserved a0 a1 s) = steady s := (rfl)

/-! ### ServeOps -/

@[simp] theorem steady_freeStage {s : State} {a0 a1} : steady (freeStage a0 a1 s) = steady s := (rfl)
@[simp] theorem steady_setInflight {s : State} {a0 a1 a2} : steady (setInflight a0 a1 a2 s) = steady s := by simp [setInflight]
@[simp] theorem steady_flightEnds {s : State} {a0 a1} : steady (flightEnds a0 a1 s) = steady s := by simp [flightEnds]

@[simp] theorem steady_batchEnds {s : State} {a0} : steady (batchEnds a0 s) = steady s := by
  unfold batchEnds
  split <;> simp

@[simp] theorem steady_setAdapter {s : State} {a0 a1} : steady (setAdapter a0 a1 s) = steady s := (rfl)
@[simp] theorem steady_adapterRef {s : State} {a0 a1} : steady (adapterRef a0 a1 s) = steady s := (rfl)
@[simp] theorem steady_setEpochSt {s : State} {a0 a1 a2} : steady (setEpochSt a0 a1 a2 s) = steady s := (rfl)
@[simp] theorem steady_queueEntry {s : State} {a0} : steady (queueEntry a0 s) = steady s := (rfl)
@[simp] theorem steady_setSession {s : State} {a0 a1} : steady (setSession a0 a1 s) = steady s := (rfl)

@[simp] theorem steady_freeStream {s : State} {a0} : steady (freeStream a0 s) = steady s := by
  unfold freeStream
  dsimp only
  (repeat' split) <;> simp

@[simp] theorem steady_endStream {s : State} {a0 a1} : steady (endStream a0 a1 s) = steady s := by
  unfold endStream
  dsimp only
  (repeat' split) <;> simp

@[simp] theorem steady_setLastCode {s : State} {a0 a1} : steady (setLastCode a0 a1 s) = steady s := (rfl)
@[simp] theorem steady_reissue {s : State} {a0 a1 a2} : steady (reissue a0 a1 a2 s) = steady s := (rfl)
@[simp] theorem steady_result {s : State} {a0 a1 a2 a3} : steady (result a0 a1 a2 a3 s) = steady s := (rfl)

@[simp] theorem steady_stepLeaves {s : State} {a0 a1} : steady (stepLeaves a0 a1 s) = steady s := by
  unfold stepLeaves
  (repeat' split) <;> simp

@[simp] theorem steady_notice {s : State} {a0 a1 a2} : steady (notice a0 a1 a2 s) = steady s := by simp [notice]
@[simp] theorem steady_endNotice {s : State} {a0} : steady (endNotice a0 s) = steady s := by simp [endNotice]

@[simp] theorem steady_abandonStep {s : State} {a0} : steady (abandonStep a0 s) = steady s := by
  unfold abandonStep
  dsimp only
  (repeat' split) <;> simp

@[simp] theorem steady_endWith {s : State} {a0 a1} : steady (endWith a0 a1 s) = steady s := by simp [endWith]
@[simp] theorem steady_setStaged {s : State} {a0 a1 a2} : steady (setStaged a0 a1 a2 s) = steady s := (rfl)
@[simp] theorem steady_epochEmpty {s : State} {a0 a1} : steady (epochEmpty a0 a1 s) = steady s := by simp [epochEmpty]
@[simp] theorem steady_setModelState {s : State} {a0 a1} : steady (setModelState a0 a1 s) = steady s := (rfl)

/-! ### Handle -/

@[simp] theorem steady_dmqBody {s : State} {a0} : steady (dmqBody a0 s).state = steady s := by
  unfold dmqBody
  dsimp only
  (repeat' split) <;> simp

@[simp] theorem steady_bindBody {s : State} {a0} : steady (bindBody a0 s).state = steady s := by
  unfold bindBody
  split <;> simp

@[simp] theorem steady_unbindBody {s : State} {a0} : steady (unbindBody a0 s).state = steady s := by simp [unbindBody]

/-! ### Dma -/

@[simp] theorem steady_reportTransfer {s : State} {a0 a1} : steady (reportTransfer a0 a1 s) = steady s := by
  unfold reportTransfer
  split <;> simp

@[simp] theorem steady_updDesc {s : State} {a0 a1 a2} : steady (updDesc a0 a1 a2 s) = steady s := (rfl)
@[simp] theorem steady_failDesc {s : State} {a0 a1 a2} : steady (failDesc a0 a1 a2 s) = steady s := (rfl)
@[simp] theorem steady_sendRemote {s : State} {a0 a1 a2 a3 a4 a5} : steady (sendRemote a0 a1 a2 a3 a4 a5 s) = steady s := by simp [sendRemote]

@[simp] theorem steady_startPut {s : State} {a0 a1 a2 a3} : steady (startPut a0 a1 a2 a3 s) = steady s := by
  unfold startPut
  dsimp only
  (repeat' split) <;> simp

@[simp] theorem steady_readPut {s : State} {a0 a1 a2} : steady (readPut a0 a1 a2 s) = steady s := by
  unfold readPut
  dsimp only
  (repeat' split) <;> simp

@[simp] theorem steady_startClean {s : State} {a0 a1 a2} : steady (startClean a0 a1 a2 s) = steady s := by simp [startClean]
@[simp] theorem steady_getPieces {s : State} {a0 a1 a2} : steady (getPieces a0 a1 a2 s) = steady s := by simp [getPieces]

@[simp] theorem steady_startGet {s : State} {a0 a1 a2} : steady (startGet a0 a1 a2 s) = steady s := by
  unfold startGet
  (repeat' split) <;> simp

@[simp] theorem steady_activate {s : State} {c d k} : steady (activate c d k s) = steady s := by
  unfold activate
  dsimp only
  split
  · simp
  · generalize remoteOf s c d = r
    have hgo : ∀ u : State, steady (if d.op = 1 then startGet c d r u else readPut c d k u) = steady u := fun u => by split <;> simp
    cases r with
    | bad e => dsimp only; split <;> simp
    | floor => exact (hgo _).trans (by simp)
    | _ =>
      dsimp only
      split
      · exact (hgo _).trans (by simp)
      · rfl

@[simp] theorem steady_descStart {s : State} {a0 a1} : steady (descStart a0 a1 s) = steady s := by
  unfold descStart
  dsimp only
  (repeat' split) <;> simp

@[simp] theorem steady_descFailed {s : State} {a0 a1} : steady (descFailed a0 a1 s) = steady s := by
  unfold descFailed
  split <;> simp

@[simp] theorem steady_descDone {s : State} {a0 a1} : steady (descDone a0 a1 s) = steady s := by simp [descDone]

@[simp] theorem steady_descEnd {s : State} {a0 a1} : steady (descEnd a0 a1 s) = steady s := by
  unfold descEnd
  split <;> simp

@[simp] theorem steady_missFails {s : State} {a0 a1 a2} : steady (missFails a0 a1 a2 s) = steady s := by simp [missFails]

@[simp] theorem steady_readLost {s : State} {a0 a1} : steady (readLost a0 a1 s) = steady s := by
  unfold readLost
  split <;> simp

@[simp] theorem steady_noticeActs {s : State} {a0} : steady (noticeActs a0 s) = steady s := by
  unfold noticeActs
  split <;> simp

@[simp] theorem steady_failureNotice {s : State} {a0} : steady (failureNotice a0 s) = steady s := by
  unfold failureNotice
  split <;> simp

/-! ### UnitEvents -/

@[simp] theorem steady_faultUnit {s : State} {a0 a1 a2} : steady (faultUnit a0 a1 a2 s) = steady s := by simp [faultUnit]
@[simp] theorem steady_stickUnit {s : State} {a0 a1 a2} : steady (stickUnit a0 a1 a2 s) = steady s := by simp [stickUnit]
@[simp] theorem steady_retireUnit {s : State} {a0 a1} : steady (retireUnit a0 a1 s) = steady s := (rfl)

@[simp] theorem steady_drainDone {s : State} {a0 a1} : steady (drainDone a0 a1 s) = steady s := by
  unfold drainDone
  dsimp only
  (repeat' split) <;> simp

@[simp] theorem steady_permitIdle {s : State} {a0} : steady (permitIdle a0 s) = steady s := by simp [permitIdle]

@[simp] theorem steady_stagingDone {s : State} {a0 a1} : steady (stagingDone a0 a1 s) = steady s := by
  unfold stagingDone
  dsimp only
  (repeat' split) <;> simp

@[simp] theorem steady_mvdDone {s : State} {a0} : steady (mvdDone a0 s) = steady s := by
  unfold mvdDone
  split <;> simp

@[simp] theorem steady_arrayFailed {s : State} {a0 a1} : steady (arrayFailed a0 a1 s) = steady s := by simp [arrayFailed]

@[simp] theorem steady_passCheck {s : State} {a0 a1} : steady (passCheck a0 a1 s) = steady s := by
  unfold passCheck
  split <;> simp

@[simp] theorem steady_streamAgain {s : State} {a0 a1} : steady (streamAgain a0 a1 s) = steady s := by simp [streamAgain]

@[simp] theorem steady_edgeEnd {s : State} {a0 a1} : steady (edgeEnd a0 a1 s) = steady s := by
  unfold edgeEnd
  dsimp only
  (repeat' split) <;> simp

@[simp] theorem steady_nextMvd {s : State} {a0} : steady (nextMvd a0 s) = steady s := by simp [nextMvd]

@[simp] theorem steady_streamEnd {s : State} {a0} : steady (streamEnd a0 s) = steady s := by
  unfold streamEnd
  split <;> simp

@[simp] theorem steady_mvdStreamEnd {s : State} {a0 a1} : steady (mvdStreamEnd a0 a1 s) = steady s := by
  unfold mvdStreamEnd
  dsimp only
  (repeat' split) <;> simp

@[simp] theorem steady_edgeStore {s : State} {a0 a1 a2 a3} : steady (edgeStore a0 a1 a2 a3 s) = steady s := by
  unfold edgeStore
  dsimp only
  (repeat' split) <;> simp

@[simp] theorem steady_edgeReady {s : State} {a0 a1} : steady (edgeReady a0 a1 s) = steady s := by
  unfold edgeReady
  dsimp only
  (repeat' split) <;> simp

/-! ### Caw -/

@[simp] theorem steady_cawStatus {s : State} {a0 a1} : steady (cawStatus a0 a1 s) = steady s := (rfl)

@[simp] theorem steady_viaWindow {s : State} {a0 a1 a2} (hF : ∀ s, steady (a2 s) = steady s) : steady (viaWindow a0 a1 a2 s) = steady s := by
  unfold viaWindow
  grind [steady_onPage, steady_cawStatus]

@[simp] theorem steady_openCmd {s : State} {a0 a1 a2} : steady (openCmd a0 a1 a2 s) = steady s := (rfl)
@[simp] theorem steady_refuseSealed {s : State} {a0} : steady (refuseSealed a0 s) = steady s := (rfl)
@[simp] theorem steady_coreCmd {s : State} {a0 a1 a2 a3} : steady (coreCmd a0 a1 a2 a3 s) = steady s := by simp [coreCmd]
@[simp] theorem steady_cawReserved {s : State} {a0} : steady (cawReserved a0 s) = steady s := by simp [cawReserved]
@[simp] theorem steady_sealedCmd {s : State} {a0 a1 a2 a3} : steady (sealedCmd a0 a1 a2 a3 s) = steady s := by simp [sealedCmd]
@[simp] theorem steady_cawLive {s : State} {a0 a1 a2 a3} : steady (cawLive a0 a1 a2 a3 s) = steady s := by simp [cawLive]
@[simp] theorem steady_cawLocked {s : State} {a0} : steady (cawLocked a0 s) = steady s := by simp [cawLocked]
@[simp] theorem steady_cawShadow {s : State} {a0 a1 a2 a3} : steady (cawShadow a0 a1 a2 a3 s) = steady s := by simp [cawShadow]

@[simp] theorem steady_cawCtx {s : State} {a0 a1 a2 a3} : steady (cawCtx a0 a1 a2 a3 s) = steady s := by
  unfold cawCtx
  dsimp only
  (repeat' split) <;> simp

@[simp] theorem steady_cawWrite {s : State} {a0 a1} : steady (cawWrite a0 a1 s) = steady s := by
  unfold cawWrite
  (repeat' split) <;> simp

@[simp] theorem steady_cawResult {s : State} {a0 a1} : steady (cawResult a0 a1 s) = steady s := (rfl)

@[simp] theorem steady_cawRead {s : State} {a0 a1} : steady (cawRead a0 a1 s) = steady s := by
  unfold cawRead
  dsimp only
  (repeat' split) <;> simp

@[simp] theorem steady_reloadCores {s : State} {a0} : steady (reloadCores a0 s) = steady s := by simp [reloadCores]
@[simp] theorem steady_cawDiscard {s : State} {a0} : steady (cawDiscard a0 s) = steady s := by simp [cawDiscard]

/-! ### FabricInstr -/

@[simp] theorem steady_sendLocal {s : State} {a0 a1} : steady (sendLocal a0 a1 s).state = steady s := by simp [sendLocal]

@[simp] theorem steady_sndBody {s : State} {a0} : steady (sndBody a0 s).state = steady s := by
  unfold sndBody
  split
  · rfl
  · dsimp only
    split
    · rfl
    · split
      · rename_i e
        simp [steady_gate e]
      · simp

@[simp] theorem steady_rdmBody {s : State} {a0} : steady (rdmBody a0 s).state = steady s := by
  unfold rdmBody
  split
  · rfl
  · dsimp only
    split
    · rfl
    · split
      · rename_i e
        simp [steady_gate e]
      · simp

@[simp] theorem steady_sndrBody {s : State} {a0} : steady (sndrBody a0 s).state = steady s := by
  unfold sndrBody
  split <;> simp

/-! ### TallyInstr -/

@[simp] theorem steady_taddBody {s : State} {a0 a1} : steady (taddBody a0 a1 s).state = steady s := by
  unfold taddBody
  split <;> simp

@[simp] theorem steady_peek {s : State} {a0} : steady (peek a0 s) = steady s := by simp [peek]
@[simp] theorem steady_twaitBody {s : State} {a0} : steady (twaitBody a0 s).state = steady s := by simp [twaitBody]
@[simp] theorem steady_wakeThread {s : State} {a0 a1} : steady (wakeThread a0 a1 s) = steady s := by simp [wakeThread]

/-! ### Tally -/

@[simp] theorem steady_sendWake {s : State} {a0 a1 a2} : steady (sendWake a0 a1 a2 s) = steady s := by
  unfold sendWake
  split <;> simp

@[simp] theorem steady_wakeWaiters {s : State} {a0} : steady (wakeWaiters a0 s) = steady s := by simp [wakeWaiters]
@[simp] theorem steady_tallyFenced {s : State} {a0 a2} (hF : ∀ s, steady (a2 s) = steady s) : steady (tallyFenced a0 s a2) = steady s := by simp [tallyFenced, hF]

theorem steady_tallyFront {s : State} {a0 a1} {w} {t} (e : tallyFront a0 a1 s = some (w, t)) : steady t = steady s := by
  unfold tallyFront at e
  split at e
  · cases e
  · split at e
    · split at e <;> cases e
      simp
    · cases e

@[simp] theorem steady_tallyRow {s : State} {a0 a1 a2} (hF : ∀ x y s, steady (a2 x y s) = steady s) : steady (tallyRow a0 a1 a2 s) = steady s := by
  unfold tallyRow
  grind [steady_tallyFront, steady_tallyFenced]

@[simp] theorem steady_setTally {s : State} {a0 a1} : steady (setTally a0 a1 s) = steady s := (rfl)
@[simp] theorem steady_tallyPut {s : State} {a0 a1} : steady (tallyPut a0 a1 s) = steady s := by simp [tallyPut]
@[simp] theorem steady_tallyAdd {s : State} {a0 a1} : steady (tallyAdd a0 a1 s) = steady s := by simp [tallyAdd]
@[simp] theorem steady_tallySet {s : State} {a0 a1} : steady (tallySet a0 a1 s) = steady s := by simp [tallySet]
@[simp] theorem steady_sendReg {s : State} {a0 a1 a2 a3} : steady (sendReg a0 a1 a2 a3 s) = steady s := by simp [sendReg]

@[simp] theorem steady_tallyRegRetry {s : State} {a0 a1} : steady (tallyRegRetry a0 a1 s) = steady s := by
  unfold tallyRegRetry
  dsimp only
  (repeat' split) <;> simp

@[simp] theorem steady_tallyCmd {s : State} {a0 a1 a2} : steady (tallyCmd a0 a1 a2 s) = steady s := by simp [tallyCmd]

@[simp] theorem steady_refuseWait {s : State} {a0 a1} : steady (refuseWait a0 a1 s) = steady s := by
  unfold refuseWait
  (repeat' split) <;> simp

@[simp] theorem steady_wakeReply {s : State} {a0 a1} : steady (wakeReply a0 a1 s) = steady s := by
  unfold wakeReply
  dsimp only
  (repeat' split) <;> simp

@[simp] theorem steady_tallyRegister {s : State} {a0 a1 a2} : steady (tallyRegister a0 a1 a2 s) = steady s := by simp [tallyRegister]

@[simp] theorem steady_tallyWakeReply {s : State} {a0} : steady (tallyWakeReply a0 s) = steady s := by
  unfold tallyWakeReply
  split <;> simp

/-! ### Grist -/

@[simp] theorem steady_readImage {s : State} {a0 a1 a2} : steady (readImage a0 a1 a2 s).2 = steady s := by
  unfold readImage
  grind [steady_readHost]

@[simp] theorem steady_openFails {s : State} {a0} : steady (openFails a0 s) = steady s := by simp [openFails]

@[simp] theorem steady_openEnvelope {s : State} {a0 a1 a2 a3} : steady (openEnvelope a0 a1 a2 a3 s).2 = steady s := by
  unfold openEnvelope
  split
  · rename_i e
    simp [steady_of_eq_snd e]
  · rename_i e
    have h := steady_of_eq_snd e
    split
    · simp [h]
    · split
      · simp [h]
      · split
        · rename_i e'
          simp [steady_of_eq_snd e', h]
        · rename_i e'
          split <;> simp [steady_of_eq_snd e', h]

@[simp] theorem steady_putCore {s : State} {a0 a1 a2} : steady (putCore a0 a1 a2 s) = steady s := by simp [putCore]

@[simp] theorem steady_putUnit {s : State} {a0 a1 a2 a3 a4} : steady (putUnit a0 a1 a2 a3 a4 s).2 = steady s := by
  unfold putUnit
  (repeat' split) <;> simp

@[simp] theorem steady_takeUnit {s : State} {a0 a1 a2 a3} : steady (takeUnit a0 a1 a2 a3 s).2 = steady s := by
  unfold takeUnit
  dsimp only
  (repeat' split) <;> simp

/-! ### Teardown -/

@[simp] theorem steady_freeRegion {s : State} {a0} : steady (freeRegion a0 s) = steady s := by
  unfold freeRegion
  split <;> simp

@[simp] theorem steady_recycleTally {s : State} {a0} : steady (recycleTally a0 s) = steady s := by simp [recycleTally]
@[simp] theorem steady_giveUpUnits {s : State} {a0} : steady (giveUpUnits a0 s) = steady s := by simp [giveUpUnits]
@[simp] theorem steady_freeCoreAs {s : State} {a0 a1} : steady (freeCoreAs a0 a1 s) = steady s := by simp [freeCoreAs]
@[simp] theorem steady_freeCore {s : State} {a0} : steady (freeCore a0 s) = steady s := by simp [freeCore]
@[simp] theorem steady_freeTally {s : State} {a0} : steady (freeTally a0 s) = steady s := by simp [freeTally]
@[simp] theorem steady_clearPlacement {s : State} {a0 a1} : steady (clearPlacement a0 a1 s) = steady s := by simp [clearPlacement]

@[simp] theorem steady_emptyModel {s : State} {a0} : steady (emptyModel a0 s) = steady s := by
  unfold emptyModel
  split <;> simp

/-! ### Install -/

@[simp] theorem steady_sendSvc {s : State} {a0 a1 a2} : steady (sendSvc a0 a1 a2 s) = steady s := by simp [sendSvc]

@[simp] theorem steady_payloadArrives {s : State} {a0 a1 a2 a3 a4} : steady (payloadArrives a0 a1 a2 a3 a4 s) = steady s := by
  unfold payloadArrives
  split <;> simp

@[simp] theorem steady_showInstall {s : State} {a0} : steady (showInstall a0 s) = steady s := (rfl)
@[simp] theorem steady_reloadEnds {s : State} {a0 a1} : steady (reloadEnds a0 a1 s) = steady s := by simp [reloadEnds]
@[simp] theorem steady_svcResp {s : State} {a0 a1 a2 a3 a4} : steady (svcResp a0 a1 a2 a3 a4 s) = steady s := by simp [svcResp]
@[simp] theorem steady_serveNow {s : State} {a0 a1 a2} : steady (serveNow a0 a1 a2 s) = steady s := (rfl)

@[simp] theorem steady_answerQuery {s : State} {a0 a1 a2 a3} : steady (answerQuery a0 a1 a2 a3 s) = steady s := by
  unfold answerQuery
  dsimp only
  rw [steady_svcResp]
  split <;> simp

@[simp] theorem steady_openStack {s : State} {a0 a1 a2} : steady (openStack a0 a1 a2 s) = steady s := by
  unfold openStack
  (repeat' split) <;> simp

@[simp] theorem steady_answerFetch {s : State} {a0 a1 a2 a3 a4 a5 a6 a7} : steady (answerFetch a0 a1 a2 a3 a4 a5 a6 a7 s) = steady s := by
  unfold answerFetch
  split
  · simp
  · split
    · dsimp only
      split <;> rename_i e <;> simp [steady_of_eq_snd e]
    · simp

@[simp] theorem steady_sendFetches {s : State} {a0 a1 a2 a3 a4 a5} : steady (sendFetches a0 a1 a2 a3 a4 a5 s) = steady s := by simp [sendFetches]
@[simp] theorem steady_sendQueries {s : State} {a0 a1} : steady (sendQueries a0 a1 s) = steady s := by simp [sendQueries]
@[simp] theorem steady_putInst {s : State} {a0 a1} : steady (putInst a0 a1 s) = steady s := by simp [putInst]
@[simp] theorem steady_startInst {s : State} {a0 a1} : steady (startInst a0 a1 s) = steady s := by simp [startInst]
@[simp] theorem steady_setCmdResult {s : State} {a0 a1 a2} : steady (setCmdResult a0 a1 a2 s) = steady s := (rfl)
@[simp] theorem steady_endCmd {s : State} {a0 a1} : steady (endCmd a0 a1 s) = steady s := (rfl)
@[simp] theorem steady_openCore {s : State} {a0 a1 a2} : steady (openCore a0 a1 a2 s) = steady s := by simp [openCore]

@[simp] theorem steady_openUnit {s : State} {a0 a1 a2 a3} : steady (openUnit a0 a1 a2 a3 s) = steady s := by
  unfold openUnit
  (repeat' split) <;> simp

@[simp] theorem steady_openRanges {s : State} {a0} : steady (openRanges a0 s) = steady s := by
  unfold openRanges
  split <;> simp

@[simp] theorem steady_loadFails {s : State} {a0} : steady (loadFails a0 s) = steady s := by
  unfold loadFails
  (repeat' split) <;> simp

@[simp] theorem steady_modelInstEnds {s : State} {a0 a1} : steady (modelInstEnds a0 a1 s) = steady s := by
  unfold modelInstEnds
  split <;> simp

@[simp] theorem steady_adapterInstEnds {s : State} {a0} : steady (adapterInstEnds a0 s) = steady s := by simp [adapterInstEnds]

@[simp] theorem steady_instEnds {s : State} {a0 a1} : steady (instEnds a0 a1 s) = steady s := by
  unfold instEnds
  split <;> simp

@[simp] theorem steady_beginUnit {s : State} {a0} : steady (beginUnit a0 s) = steady s := by
  unfold beginUnit
  (repeat' split) <;> simp

@[simp] theorem steady_unitWritten {s : State} {a0 a1 a2 a3} : steady (unitWritten a0 a1 a2 a3 s) = steady s := by
  unfold unitWritten
  grind [steady_instEnds, steady_putUnit, steady_beginUnit, steady_putInst]

@[simp] theorem steady_hostUnitArrives {s : State} {a0 a1 a2 a3} : steady (hostUnitArrives a0 a1 a2 a3 s) = steady s := by
  unfold hostUnitArrives
  grind [steady_readImage, steady_instEnds, steady_unitWritten]

@[simp] theorem steady_unitArrives {s : State} {a0 a1} : steady (unitArrives a0 a1 s) = steady s := by
  unfold unitArrives
  (repeat' split) <;> simp

@[simp] theorem steady_startReload {s : State} {a0 a1 a2} : steady (startReload a0 a1 a2 s) = steady s := by
  unfold startReload
  split <;> simp

@[simp] theorem steady_queryTimeout {s : State} {a0} : steady (queryTimeout a0 s) = steady s := by
  unfold queryTimeout
  split <;> simp

@[simp] theorem steady_queryAnswered {s : State} {a0 a1 a2} : steady (queryAnswered a0 a1 a2 s) = steady s := by
  unfold queryAnswered
  split <;> simp

/-! ### Load -/

@[simp] theorem steady_sendContent {s : State} {a0 a1 a2 a3} : steady (sendContent a0 a1 a2 a3 s) = steady s := by
  unfold sendContent
  split <;> simp

@[simp] theorem steady_switchModel {s : State} {a0 a1} : steady (switchModel a0 a1 s) = steady s := by simp [switchModel]

@[simp] theorem steady_loadGrist {s : State} {a0 a1 a2 a3} : steady (loadGrist a0 a1 a2 a3 s).2 = steady s := by
  unfold loadGrist
  grind [steady_openEnvelope]

@[simp] theorem steady_loadBegins {s : State} {a0 a1} : steady (loadBegins a0 a1 s) = steady s := (rfl)
@[simp] theorem steady_wlCommand {s : State} {a0 a1} (hF : ∀ s, steady (a1 s) = steady s) : steady (wlCommand a0 a1 s) = steady s := by simp [wlCommand, hF]

@[simp] theorem steady_releaseCmd {s : State} : steady (releaseCmd s) = steady s := by
  unfold releaseCmd
  dsimp only
  (repeat' split) <;> simp

@[simp] theorem steady_adapterImage {s : State} {a0 a1} : steady (adapterImage a0 a1 s).2 = steady s := by
  unfold adapterImage
  grind [steady_openEnvelope]

@[simp] theorem steady_adInstallCmd {s : State} {a0} : steady (adInstallCmd a0 s) = steady s := by
  unfold adInstallCmd
  dsimp only
  split
  · simp
  · split <;> rename_i e <;> simp [steady_of_eq_snd e]

@[simp] theorem steady_ownPlacement {s : State} {a0 a1} : steady (ownPlacement a0 a1 s) = steady s := by simp [ownPlacement]

@[simp] theorem steady_installImage {s : State} {a0 a1 a2 a3} : steady (installImage a0 a1 a2 a3 s).2 = steady s := by
  unfold installImage
  grind [steady_openEnvelope]

@[simp] theorem steady_installBegins {s : State} {a0} : steady (installBegins a0 s) = steady s := by simp [installBegins]

@[simp] theorem steady_installCmd {s : State} {a0} : steady (installCmd a0 s) = steady s := by
  unfold installCmd
  grind [steady_endCmd, steady_installImage, steady_installBegins, steady_setCmdResult]

@[simp] theorem steady_drainRelease {s : State} {a0 a1} : steady (drainRelease a0 a1 s) = steady s := by simp [drainRelease]
@[simp] theorem steady_mcRelease {s : State} {a0} : steady (mcRelease a0 s) = steady s := by simp [mcRelease]

@[simp] theorem steady_loadCommitted {s : State} {a0} : steady (loadCommitted a0 s) = steady s := by
  unfold loadCommitted
  (repeat' split) <;> simp

@[simp] theorem steady_copyUnit {s : State} {a0 a1 a2 a3 a4} : steady (copyUnit a0 a1 a2 a3 a4 s).2 = steady s := by
  unfold copyUnit
  grind [steady_putCore, steady_stackRead]

@[simp] theorem steady_stagedCopy {s : State} {a0 a1 a2} : steady (stagedCopy a0 a1 a2 s) = steady s := by
  unfold stagedCopy
  (repeat' split) <;> simp

@[simp] theorem steady_startPlacement {s : State} {a0} : steady (startPlacement a0 s) = steady s := by simp [startPlacement]
@[simp] theorem steady_adapterFree {s : State} {a0} : steady (adapterFree a0 s) = steady s := by simp [adapterFree]
@[simp] theorem steady_writeContent {s : State} {a0 a1} : steady (writeContent a0 a1 s) = steady s := by simp [writeContent]

@[simp] theorem steady_loadContent {s : State} : steady (loadContent s) = steady s := by
  unfold loadContent
  (repeat' split) <;> simp

@[simp] theorem steady_shadowSlot {s : State} {a0 a1} : steady (shadowSlot a0 a1 s) = steady s := (rfl)
@[simp] theorem steady_shadowWatches {s : State} {a0 a1} : steady (shadowWatches a0 a1 s) = steady s := by simp [shadowWatches]

@[simp] theorem steady_shadowRegion {s : State} {a0 a1} : steady (shadowRegion a0 a1 s) = steady s := by
  unfold shadowRegion
  dsimp only
  (repeat' split) <;> simp

@[simp] theorem steady_loadShadows {s : State} {a0 a1} : steady (loadShadows a0 a1 s) = steady s := by simp [loadShadows]

theorem steady_mcGroup {s : State} {a0 a1} {w} {t} (e : mcGroup a0 a1 s = .ok (w, t)) : steady t = steady s := by
  unfold mcGroup at e
  split at e
  · cases e
  · split at e <;> cases e
    simp

@[simp] theorem steady_loadStart {s : State} {a0} : steady (loadStart a0 s) = steady s := by
  unfold loadStart
  dsimp only
  split
  · simp
  · rename_i e
    simp [steady_mcGroup e]

@[simp] theorem steady_unloadTeardown {s : State} : steady (unloadTeardown s) = steady s := by
  unfold unloadTeardown
  split <;> simp

@[simp] theorem steady_loadImage {s : State} {a0 a1 a2} : steady (loadImage a0 a1 a2 s).2 = steady s := by
  unfold loadImage
  grind [steady_openEnvelope]

@[simp] theorem steady_loadPlacement {s : State} {a0} : steady (loadPlacement a0 s).2 = steady s := by
  unfold loadPlacement
  grind [steady_loadImage]

@[simp] theorem steady_loadChecks {s : State} {a0} : steady (loadChecks a0 s).2 = steady s := by
  unfold loadChecks
  grind [steady_loadPlacement, steady_loadGrist]

@[simp] theorem steady_loadCmd {s : State} {a0} : steady (loadCmd a0 s) = steady s := by
  unfold loadCmd
  grind [steady_loadChecks, steady_endCmd, steady_loadStart]

@[simp] theorem steady_unloadModel {s : State} {a0 a1} : steady (unloadModel a0 a1 s) = steady s := by simp [unloadModel]

@[simp] theorem steady_loadThreadStart {s : State} : steady (loadThreadStart s) = steady s := by
  unfold loadThreadStart
  (repeat' split) <;> simp

@[simp] theorem steady_adCommand {s : State} {a0 a1} (hF : ∀ s, steady (a1 s) = steady s) : steady (adCommand a0 a1 s) = steady s := by simp [adCommand, hF]
@[simp] theorem steady_adRetireCmd {s : State} : steady (adRetireCmd s) = steady s := by simp [adRetireCmd]

@[simp] theorem steady_unloadCmd {s : State} : steady (unloadCmd s) = steady s := by
  unfold unloadCmd
  dsimp only
  (repeat' split) <;> simp

/-! ### Telemetry -/

@[simp] theorem steady_calOutcome.updBoot' {s : State} : steady (calOutcome.updBoot' s) = steady s := (rfl)
@[simp] theorem steady_setConv {s : State} {a0 a1} : steady (setConv a0 a1 s) = steady s := (rfl)
@[simp] theorem steady_updConv {s : State} {a0 a1} : steady (updConv a0 a1 s) = steady s := (rfl)
@[simp] theorem steady_startRecal {s : State} {a0} : steady (startRecal a0 s) = steady s := by simp [startRecal]
@[simp] theorem steady_startPass {s : State} {a0 a1} : steady (startPass a0 a1 s) = steady s := by simp [startPass]
@[simp] theorem steady_telEvent {s : State} {a0 a1} : steady (telEvent a0 a1 s) = steady s := (rfl)
@[simp] theorem steady_passDone {s : State} {a0 a1} : steady (passDone a0 a1 s) = steady s := by simp [passDone]
@[simp] theorem steady_afterCovered {s : State} {a0 a1 a2} : steady (afterCovered a0 a1 a2 s) = steady s := by simp [afterCovered]

@[simp] theorem steady_goOn {s : State} {a0 a1} : steady (goOn a0 a1 s) = steady s := by
  unfold goOn
  dsimp only
  (repeat' split) <;> simp

@[simp] theorem steady_injTrigger {s : State} {a0 a1} : steady (injTrigger a0 a1 s) = steady s := by
  unfold injTrigger
  dsimp only
  (repeat' split) <;> simp

@[simp] theorem steady_fieldTrigger {s : State} {a0 a1} : steady (fieldTrigger a0 a1 s) = steady s := by simp [fieldTrigger]
@[simp] theorem steady_telCommit {s : State} {a0 a1} : steady (telCommit a0 a1 s) = steady s := by simp [telCommit]
@[simp] theorem steady_injectedDone {s : State} {a0 a1} : steady (injectedDone a0 a1 s) = steady s := by simp [injectedDone]
@[simp] theorem steady_afterInjected {s : State} {a0 a1 a2} : steady (afterInjected a0 a1 a2 s) = steady s := by simp [afterInjected]
@[simp] theorem steady_stageSixFails {s : State} : steady (stageSixFails s) = steady s := by simp [stageSixFails]

@[simp] theorem steady_calOutcome {s : State} {a0 a1 a2} : steady (calOutcome a0 a1 a2 s) = steady s := by
  unfold calOutcome
  split <;> simp

@[simp] theorem steady_calDone {s : State} {a0 a1 a2 a3} : steady (calDone a0 a1 a2 a3 s) = steady s := by
  unfold calDone
  split <;> simp

@[simp] theorem steady_afterInjCovered {s : State} {a0 a1 a2} : steady (afterInjCovered a0 a1 a2 s) = steady s := by simp [afterInjCovered]
@[simp] theorem steady_afterRegular {s : State} {a0 a1 a2} : steady (afterRegular a0 a1 a2 s) = steady s := by simp [afterRegular]
@[simp] theorem steady_plausHold {s : State} {a0 a1} : steady (plausHold a0 a1 s) = steady s := by simp [plausHold]
@[simp] theorem steady_plausFails {s : State} {a0} : steady (plausFails a0 s) = steady s := by simp [plausFails]
@[simp] theorem steady_plausPasses {s : State} {a0} : steady (plausPasses a0 s) = steady s := by simp [plausPasses]

@[simp] theorem steady_plausCheck {s : State} {a0 a1 a2} : steady (plausCheck a0 a1 a2 s) = steady s := by
  unfold plausCheck
  split <;> simp

@[simp] theorem steady_regularResult {s : State} {a0 a1 a2 a3 a4} : steady (regularResult a0 a1 a2 a3 a4 s) = steady s := by simp [regularResult]
@[simp] theorem steady_injectedResult {s : State} {a0 a1 a2 a3} : steady (injectedResult a0 a1 a2 a3 s) = steady s := (rfl)

@[simp] theorem steady_conversionDone {s : State} {a0 a1 a2} : steady (conversionDone a0 a1 a2 s) = steady s := by
  unfold conversionDone
  (repeat' split) <;> simp

@[simp] theorem steady_startCal {s : State} {a0 a1} : steady (startCal a0 a1 s) = steady s := by
  unfold startCal
  dsimp only
  (repeat' split) <;> simp

@[simp] theorem steady_telRepeat {s : State} {a0 a1} : steady (telRepeat a0 a1 s) = steady s := by simp [telRepeat]

/-! ### Flash -/

@[simp] theorem steady_updBoot {s : State} {a0} : steady (updBoot a0 s) = steady s := (rfl)
@[simp] theorem steady_updComp {s : State} {a0 a1} : steady (updComp a0 a1 s) = steady s := (rfl)
@[simp] theorem steady_unitRuns {s : State} {a0 a1 a2 a3} : steady (unitRuns a0 a1 a2 a3 s) = steady s := (rfl)
@[simp] theorem steady_flashFails {s : State} : steady (flashFails s) = steady s := by simp [flashFails]
@[simp] theorem steady_recPut {s : State} {a0 a1 a2} : steady (recPut a0 a1 a2 s) = steady s := by simp [recPut]
@[simp] theorem steady_recWrite {s : State} {a0 a1 a2 a3} : steady (recWrite a0 a1 a2 a3 s) = steady s := by simp [recWrite]
@[simp] theorem steady_serviceMode {s : State} {a0} : steady (serviceMode a0 s) = steady s := by simp [serviceMode]

@[simp] theorem steady_bootUnit {s : State} {a0 a1} : steady (bootUnit a0 a1 s).2 = steady s := by
  unfold bootUnit
  dsimp only
  (repeat' split) <;> simp

@[simp] theorem steady_floorPut {s : State} {a0} : steady (floorPut a0 s) = steady s := by simp [floorPut]

/-! ### Power -/

@[simp] theorem steady_setField {s : State} {a0 a1} : steady (setField a0 a1 s) = steady s := (rfl)
@[simp] theorem steady_updField {s : State} {a0 a1} : steady (updField a0 a1 s) = steady s := (rfl)
@[simp] theorem steady_stackLost {s : State} {n} : steady (stackLost n s) = steady s := (rfl)
@[simp] theorem steady_fieldLost {s : State} {f} : steady (fieldLost f s) = steady s := by simp [fieldLost]
@[simp] theorem steady_noteLost {s : State} {a0} : steady (noteLost a0 s) = steady s := by simp [noteLost]
@[simp] theorem steady_goDark {s : State} {a0 a1} : steady (goDark a0 a1 s) = steady s := by simp [goDark]
@[simp] theorem steady_imposeDark {s : State} {a0 a1} : steady (imposeDark a0 a1 s) = steady s := by simp [imposeDark]
@[simp] theorem steady_fieldFault {s : State} {a0 a1} : steady (fieldFault a0 a1 s) = steady s := (rfl)
@[simp] theorem steady_phasesChanged {s : State} {a0} : steady (phasesChanged a0 s) = steady s := by simp [phasesChanged]
@[simp] theorem steady_updPm {s : State} {a0} : steady (updPm a0 s) = steady s := (rfl)
@[simp] theorem steady_coolantLow {s : State} : steady (coolantLow s) = steady s := by simp [coolantLow]
@[simp] theorem steady_fldEvent {s : State} {a0 a1} : steady (fldEvent a0 a1 s) = steady s := (rfl)
@[simp] theorem steady_fieldOnNow {s : State} {a0} : steady (fieldOnNow a0 s) = steady s := by simp [fieldOnNow]
@[simp] theorem steady_kilnBegins {s : State} {a0} : steady (kilnBegins a0 s) = steady s := (rfl)
@[simp] theorem steady_targetStep {s : State} {a0} : steady (targetStep a0 s) = steady s := by simp [targetStep]

@[simp] theorem steady_giveSlots {s : State} {a0} : steady (giveSlots a0 s) = steady s := by
  induction a0 generalizing s with
  | zero => rfl
  | succ n ih =>
    unfold giveSlots
    split
    · split <;> simp [ih]
    · rfl

@[simp] theorem steady_attemptEnds {s : State} {a0} : steady (attemptEnds a0 s) = steady s := (rfl)
@[simp] theorem steady_deferTimeout {s : State} {a0 a1} : steady (deferTimeout a0 a1 s) = steady s := by simp [deferTimeout]

@[simp] theorem steady_evalStage {s : State} {a0 a1 a2 a3} : steady (evalStage a0 a1 a2 a3 s).2 = steady s := by
  unfold evalStage
  (repeat' split) <;> simp

@[simp] theorem steady_powerTick {s : State} {a0 a1} : steady (powerTick a0 a1 s) = steady s := by
  refine (steady_foldl_snd fun q f => steady_evalStage).trans (steady_giveSlots.trans ?_)
  refine (steady_foldl fun s f => by split <;> simp).trans (steady_foldl fun s f => ?_)
  split <;> simp

@[simp] theorem steady_clockStepDone {s : State} {a0} : steady (clockStepDone a0 s) = steady s := by simp [clockStepDone]

@[simp] theorem steady_railCals {s : State} {a0 a1} : steady (railCals a0 a1 s) = steady s := by
  unfold railCals
  dsimp only
  (repeat' split) <;> simp

@[simp] theorem steady_connSuspect {s : State} {a0} : steady (connSuspect a0 s) = steady s := by simp [connSuspect]

@[simp] theorem steady_thermalEval {s : State} {a0} : steady (thermalEval a0 s) = steady s := by
  unfold thermalEval
  (repeat' split) <;> simp

@[simp] theorem steady_reloadKeys {s : State} {a0} : steady (reloadKeys a0 s) = steady s := by simp [reloadKeys]
@[simp] theorem steady_phaseClean {s : State} {a0 a1 a2} : steady (phaseClean a0 a1 a2 s) = steady s := by simp [phaseClean]
@[simp] theorem steady_allDark {s : State} {a0 a1} : steady (allDark a0 a1 s) = steady s := by simp [allDark]
@[simp] theorem steady_powerOnValid {s : State} {a0} : steady (powerOnValid a0 s) = steady s := by simp [powerOnValid]
@[simp] theorem steady_railSeq {s : State} {a0 a1 a2} : steady (railSeq a0 a1 a2 s) = steady s := by simp [railSeq]
@[simp] theorem steady_putLimit {s : State} {a0} : steady (putLimit a0 s) = steady s := by simp [putLimit]
@[simp] theorem steady_pairLost {s : State} {a0} : steady (pairLost a0 s) = steady s := by simp [pairLost]

@[simp] theorem steady_railDone {s : State} {a0 a1 a2} : steady (railDone a0 a1 a2 s) = steady s := by
  unfold railDone
  split <;> simp

@[simp] theorem steady_currentTimer {s : State} {a0 a1} : steady (currentTimer a0 a1 s) = steady s := (rfl)

@[simp] theorem steady_stageEnd {s : State} {a0} : steady (stageEnd a0 s) = steady s := by
  unfold stageEnd
  split <;> simp

@[simp] theorem steady_phaseRetry {s : State} {a0 a1 a2} : steady (phaseRetry a0 a1 a2 s) = steady s := by simp [phaseRetry]

@[simp] theorem steady_powerRetry {s : State} {a0} : steady (powerRetry a0 s) = steady s := by
  unfold powerRetry
  split <;> simp

@[simp] theorem steady_putLimits {s : State} : steady (putLimits s) = steady s := steady_foldl fun _ _ => by simp

@[simp] theorem steady_capAction {s : State} : steady (capAction s) = steady s := by
  unfold capAction
  (repeat' split) <;> simp

@[simp] theorem steady_capUndo {s : State} : steady (capUndo s) = steady s := by
  unfold capUndo
  (repeat' split) <;> simp

@[simp] theorem steady_windowEnd {s : State} {a0 a1 a2} : steady (windowEnd a0 a1 a2 s) = steady s := by simp [windowEnd]
@[simp] theorem steady_telemStale {s : State} {a0 a1} : steady (telemStale a0 a1 s) = steady s := by simp [telemStale]
@[simp] theorem steady_converterFault {s : State} {a0 a1} : steady (converterFault a0 a1 s) = steady s := by simp [converterFault]
@[simp] theorem steady_inputLow {s : State} : steady (inputLow s) = steady s := by simp [inputLow]
@[simp] theorem steady_inputRangeFail {s : State} : steady (inputRangeFail s) = steady s := by simp [inputRangeFail]
@[simp] theorem steady_kilnEntryDone {s : State} {a0} : steady (kilnEntryDone a0 s) = steady s := by simp [kilnEntryDone]
@[simp] theorem steady_powerBeatLost {s : State} : steady (powerBeatLost s) = steady s := steady_foldl fun _ _ => by split <;> simp
@[simp] theorem steady_coolantLoss {s : State} : steady (coolantLoss s) = steady s := by simp [coolantLoss]
@[simp] theorem steady_reclose {s : State} {a0 a1} : steady (reclose a0 a1 s) = steady s := by simp [reclose]
@[simp] theorem steady_breakerTrip {s : State} {a0 a1 a2} : steady (breakerTrip a0 a1 a2 s) = steady s := by simp [breakerTrip]

@[simp] theorem steady_phaseFault {s : State} {a0 a1 a2} : steady (phaseFault a0 a1 a2 s) = steady s := by
  unfold phaseFault
  dsimp only
  (repeat' split) <;> simp

/-! ### Issue -/

@[simp] theorem steady_rebindNow {s : State} {a0} : steady (rebindNow a0 s).2 = steady s := by
  unfold rebindNow
  dsimp only
  (repeat' split) <;> simp

@[simp] theorem steady_setBalance {s : State} {a0 a1} : steady (setBalance a0 a1 s) = steady s := by simp [setBalance]
@[simp] theorem steady_flightBegins {s : State} {a0 a1} : steady (flightBegins a0 a1 s) = steady s := by simp [flightBegins]
@[simp] theorem steady_issueCapture {s : State} {a0 a1} : steady (issueCapture a0 a1 s).2 = steady s := by simp [issueCapture]

@[simp] theorem steady_stageAlloc {s : State} {a0 a1 a2} : steady (stageAlloc a0 a1 a2 s).2 = steady s := by
  unfold stageAlloc
  dsimp only
  (repeat' split) <;> simp

@[simp] theorem steady_writeList {s : State} {a0 a1 a2} : steady (writeList a0 a1 a2 s) = steady s := by simp [writeList]

@[simp] theorem steady_putList {s : State} {a0 a1 a2 a3} : steady (putList a0 a1 a2 a3 s).2 = steady s := by
  unfold putList
  grind [steady_stageAlloc, steady_writeList]

@[simp] theorem steady_sendMarker {s : State} {a0 a1} : steady (sendMarker a0 a1 s) = steady s := by
  unfold sendMarker
  dsimp only
  (repeat' split) <;> simp

@[simp] theorem steady_inFlightNow {s : State} {a0 a1 a2} : steady (inFlightNow a0 a1 a2 s) = steady s := (rfl)

@[simp] theorem steady_issueStep {s : State} {a0 a1} : steady (issueStep a0 a1 s) = steady s := by
  unfold issueStep
  split <;> simp

@[simp] theorem steady_holdStream {s : State} {a0 a1} : steady (holdStream a0 a1 s) = steady s := by
  unfold holdStream
  split <;> simp

@[simp] theorem steady_joinGather {s : State} {a0} : steady (joinGather a0 s) = steady s := by simp [joinGather]
@[simp] theorem steady_tryStream {s : State} {a0} : steady (tryStream a0 s) = steady s := by simp [tryStream]

@[simp] theorem steady_tryMember {s : State} {a0 a1 a2} : steady (tryMember a0 a1 a2 s).2 = steady s := by
  unfold tryMember
  dsimp only
  (repeat' split) <;> simp

@[simp] theorem steady_takeMembers {s : State} {a0 a1 a2 a3} : steady (takeMembers a0 a1 a2 a3 s).2 = steady s := by
  induction a2 generalizing s a1 a3 with
  | nil => cases a1 <;> rfl
  | cons i l ih =>
    cases a1 with
    | zero => rfl
    | succ n =>
      unfold takeMembers
      split <;> rename_i e <;> simp [ih, steady_of_eq_snd e]

@[simp] theorem steady_issueBatch {s : State} {a0 a2} : steady (issueBatch a0 s a2) = steady s := by simp [issueBatch]

@[simp] theorem steady_stagedDone {s : State} {a0} : steady (stagedDone a0 s) = steady s := by
  unfold stagedDone
  split <;> simp

@[simp] theorem steady_verifyIssue {s : State} {a0} : steady (verifyIssue a0 s) = steady s := by
  unfold verifyIssue
  dsimp only
  (repeat' split) <;> simp

@[simp] theorem steady_issueAll {s : State} {a0} : steady (issueAll a0 s) = steady s := by simp [issueAll]
@[simp] theorem steady_refill {s : State} {a0} : steady (refill a0 s) = steady s := by simp [refill]
@[simp] theorem steady_renumber {s : State} {a0} : steady (renumber a0 s) = steady s := (rfl)

/-! ### Channel -/

@[simp] theorem steady_chanRegister {s : State} {a0 a1 a2 a3} : steady (chanRegister a0 a1 a2 a3 s) = steady s := by simp [chanRegister]
@[simp] theorem steady_chanFails {s : State} {a0 a1 a2} : steady (chanFails a0 a1 a2 s) = steady s := (rfl)
@[simp] theorem steady_segRemote {s : State} {a0 a1 a2 a3 a4 a5 a6 a7 a8 a9 a10} : steady (segRemote a0 a1 a2 a3 a4 a5 a6 a7 a8 a9 a10 s) = steady s := by simp [segRemote]
@[simp] theorem steady_segSend {s : State} {a0 a1 a2 a3 a4 a5} : steady (segSend a0 a1 a2 a3 a4 a5 s) = steady s := by simp [segSend]
@[simp] theorem steady_addSeg {s : State} {a0 a1 a2} : steady (addSeg a0 a1 a2 s) = steady s := (rfl)
@[simp] theorem steady_segFetch {s : State} {a0 a1 a2 a3 a4} : steady (segFetch a0 a1 a2 a3 a4 s) = steady s := by simp [segFetch]

@[simp] theorem steady_startSeg {s : State} {a0 a1 a2 a3 a4} : steady (startSeg a0 a1 a2 a3 a4 s) = steady s := by
  unfold startSeg
  grind [steady_chanFails, steady_fenceRefusedAny, steady_segSend, steady_addSeg, steady_stackRead, steady_segFetch]

@[simp] theorem steady_stallPool {s : State} {a0 a1} : steady (stallPool a0 a1 s) = steady s := by simp [stallPool]

@[simp] theorem steady_startSegs {s : State} {a0 a1 a2 a3 a4} : steady (startSegs a0 a1 a2 a3 a4 s) = steady s := by
  induction a4 generalizing s with
  | zero => rfl
  | succ n ih => simp [startSegs, ih]

@[simp] theorem steady_runDesc {s : State} {a0 a1 a2} : steady (runDesc a0 a1 a2 s) = steady s := by
  unfold runDesc
  dsimp only
  (repeat' split) <;> simp

@[simp] theorem steady_waitRelease {s : State} {a0 a1 a2} : steady (waitRelease a0 a1 a2 s) = steady s := by
  unfold waitRelease
  dsimp only
  (repeat' split) <;> simp

@[simp] theorem steady_segFails {s : State} {a0 a1 a2 a3} : steady (segFails a0 a1 a2 a3 s) = steady s := (rfl)

@[simp] theorem steady_segWrite {s : State} {a0 a1 a2 a3} : steady (segWrite a0 a1 a2 a3 s) = steady s := by
  unfold segWrite
  grind [steady_inOrder, steady_stackPut, steady_segFails, steady_segLanded]

@[simp] theorem steady_dropSeg {s : State} {a0 a1 a2} : steady (dropSeg a0 a1 a2 s) = steady s := (rfl)

@[simp] theorem steady_segDone {s : State} {a0 a1 a2 a3} : steady (segDone a0 a1 a2 a3 s) = steady s := by
  unfold segDone
  dsimp only
  (repeat' split) <;> simp

@[simp] theorem steady_beginDesc {s : State} {a0 a1 a2 a3} : steady (beginDesc a0 a1 a2 a3 s) = steady s := by simp [beginDesc]
@[simp] theorem steady_chanError {s : State} {a0 a1 a2} : steady (chanError a0 a1 a2 s) = steady s := by simp [chanError]

@[simp] theorem steady_descFetch {s : State} {a0 a1 a2} : steady (descFetch a0 a1 a2 s) = steady s := by
  unfold descFetch
  grind [steady_chanError, steady_inOrder, steady_stackRead, steady_sendNotify, steady_updChan, steady_beginDesc]

@[simp] theorem steady_freeDesc {s : State} {a0 a1} : steady (freeDesc a0 a1 s) = steady s := by simp [freeDesc]
@[simp] theorem steady_poolSpace {s : State} {a0 a1 a2} : steady (poolSpace a0 a1 a2 s) = steady s := by simp [poolSpace]
@[simp] theorem steady_chStart {s : State} {a0 a1} : steady (chStart a0 a1 s) = steady s := by simp [chStart]

@[simp] theorem steady_chAbort {s : State} {a0 a1} : steady (chAbort a0 a1 s) = steady s := by
  unfold chAbort
  dsimp only
  (repeat' split) <;> simp

@[simp] theorem steady_reportChannel {s : State} {a0 a1} : steady (reportChannel a0 a1 s) = steady s := by simp [reportChannel]

@[simp] theorem steady_chDescEnd {s : State} {a0 a1} : steady (chDescEnd a0 a1 s) = steady s := by
  unfold chDescEnd
  dsimp only
  (repeat' split) <;> simp

/-! ### Link -/

@[simp] theorem steady_fecCorrected {s : State} {a0 a1} : steady (fecCorrected a0 a1 s) = steady s := (rfl)
@[simp] theorem steady_updLink {s : State} {a0 a1} : steady (updLink a0 a1 s) = steady s := (rfl)
@[simp] theorem steady_queuedGone {s : State} {a0 a1} : steady (queuedGone a0 a1 s) = steady s := by simp [queuedGone]
@[simp] theorem steady_linkGone {s : State} {a0} : steady (linkGone a0 s) = steady s := by simp [linkGone]
@[simp] theorem steady_linkFailure {s : State} {a0} : steady (linkFailure a0 s) = steady s := by simp [linkFailure]
@[simp] theorem steady_linkFails {s : State} {a0 a1} : steady (linkFails a0 a1 s) = steady s := by simp [linkFails]

@[simp] theorem steady_flitFails {s : State} {a0 a1 a2} : steady (flitFails a0 a1 a2 s) = steady s := by
  unfold flitFails
  (repeat' split) <;> simp

@[simp] theorem steady_flitTaken {s : State} {a0 a1} : steady (flitTaken a0 a1 s) = steady s := by simp [flitTaken]

@[simp] theorem steady_recvFlit {s : State} {a0 a1 a2 a3} (hF : ∀ x b s, steady (a3 x b s) = steady s) : steady (recvFlit a0 a1 a2 a3 s) = steady s := by
  unfold recvFlit
  dsimp only
  (repeat' split) <;> simp [hF]

@[simp] theorem steady_creditBody {s : State} {a0 a1} : steady (creditBody a0 a1 s) = steady s := by simp [creditBody]
@[simp] theorem steady_rxConsume {s : State} {a0 a1 a2} : steady (rxConsume a0 a1 a2 s) = steady s := by simp [rxConsume]
@[simp] theorem steady_answerUnmapped {s : State} {a0 a1} : steady (answerUnmapped a0 a1 s) = steady s := by simp [answerUnmapped]

@[simp] theorem steady_transitWay {s : State} {a0 a1 a2} : steady (transitWay a0 a1 a2 s).2 = steady s := by
  unfold transitWay
  dsimp only
  (repeat' split) <;> simp

@[simp] theorem steady_transitMsg {s : State} {a0 a1 a2 a3} : steady (transitMsg a0 a1 a2 a3 s) = steady s := by
  unfold transitMsg
  split <;> rename_i e <;> simp [steady_of_eq_snd e]

theorem steady_rxAuto {s : State} {a0 a1 a2} {t} (e : rxAuto a0 a1 a2 s = some t) : steady t = steady s := by
  unfold rxAuto at e
  grind [steady_rxConsume, steady_countUp, steady_transitMsg]

@[simp] theorem steady_rxSettle {s : State} {a0 a1 a2} : steady (rxSettle a0 a1 a2 s) = steady s := by
  induction a2 generalizing s with
  | zero => rfl
  | succ n ih =>
    unfold rxSettle
    split
    · split
      · rename_i e
        simp [ih, steady_rxAuto e]
      · rfl
    · rfl

@[simp] theorem steady_takeMsg {s : State} {a0 a1 a2 a3} (hF : ∀ x s, steady (a3 x s) = steady s) : steady (takeMsg a0 a1 a2 a3 s) = steady s := by
  unfold takeMsg
  dsimp only
  (repeat' split) <;> simp [hF]

@[simp] theorem steady_refuseIn {s : State} {a0 a1 a2} : steady (refuseIn a0 a1 a2 s) = steady s := by simp [refuseIn]

@[simp] theorem steady_inboundReq {s : State} {a0 a1 a2} (hF : ∀ x y s, steady (a1 x y s) = steady s) : steady (inboundReq a0 a1 a2 s) = steady s := by
  unfold inboundReq
  grind [steady_refuseIn]

@[simp] theorem steady_sendFlush {s : State} {a0 a1 a2 a3} : steady (sendFlush a0 a1 a2 a3 s) = steady s := by simp [sendFlush]
@[simp] theorem steady_serveWr {s : State} {a0 a1 a2} : steady (serveWr a0 a1 a2 s) = steady s := by simp [serveWr]
@[simp] theorem steady_lateResp {s : State} : steady (lateResp s) = steady s := (rfl)

@[simp] theorem steady_response {s : State} {a0 a1} (hF : ∀ x s, steady (a1 x s) = steady s) : steady (response a0 a1 s) = steady s := by
  unfold response
  grind [steady_endReq, steady_lateResp, steady_takeReq, steady_reqEnded]

@[simp] theorem steady_serveRd {s : State} {a0 a1 a2} : steady (serveRd a0 a1 a2 s) = steady s := by simp [serveRd]
@[simp] theorem steady_trainTimeout {s : State} {a0} : steady (trainTimeout a0 s) = steady s := by simp [trainTimeout]
@[simp] theorem steady_sendHello {s : State} {a0} : steady (sendHello a0 s) = steady s := by simp [sendHello]
@[simp] theorem steady_enterAttest {s : State} {a0} : steady (enterAttest a0 s) = steady s := (rfl)
@[simp] theorem steady_linkIsUp {s : State} {a0 a1 a2} : steady (linkIsUp a0 a1 a2 s) = steady s := (rfl)

@[simp] theorem steady_svcRequest {s : State} {a0 a1} : steady (svcRequest a0 a1 s) = steady s := by
  unfold svcRequest
  split <;> simp

@[simp] theorem steady_tryTrain {s : State} {a0} : steady (tryTrain a0 s) = steady s := by simp [tryTrain]
@[simp] theorem steady_retryTimer {s : State} {a0} : steady (retryTimer a0 s) = steady s := by simp [retryTimer]
@[simp] theorem steady_retrain {s : State} {a0} : steady (retrain a0 s) = steady s := by simp [retrain]
@[simp] theorem steady_dataBody {s : State} {a0 a1 a2} : steady (dataBody a0 a1 a2 s) = steady s := by simp [dataBody]
@[simp] theorem steady_deliverRead {s : State} {a0 a1} : steady (deliverRead a0 a1 s) = steady s := by simp [deliverRead]
@[simp] theorem steady_delaySend {s : State} {a0 a1} : steady (delaySend a0 a1 s) = steady s := by simp [delaySend]
@[simp] theorem steady_delayReq {s : State} {a0 a1 a2 a3} : steady (delayReq a0 a1 a2 a3 s) = steady s := by simp [delayReq]
@[simp] theorem steady_nakBody {s : State} {a0 a1} : steady (nakBody a0 a1 s) = steady s := by simp [nakBody]

@[simp] theorem steady_peerHello {s : State} {a0 a1} : steady (peerHello a0 a1 s) = steady s := by
  unfold peerHello
  split <;> simp

@[simp] theorem steady_svcResponse {s : State} {a0 a1} : steady (svcResponse a0 a1 s) = steady s := by
  unfold svcResponse
  split <;> simp

@[simp] theorem steady_trainDone {s : State} {a0} : steady (trainDone a0 s) = steady s := by simp [trainDone]

@[simp] theorem steady_flushReply {s : State} {a0} : steady (flushReply a0 s) = steady s := by
  unfold flushReply
  split <;> simp

@[simp] theorem steady_flitFail {s : State} {a0 a1 a2 a3} : steady (flitFail a0 a1 a2 a3 s) = steady s := by
  unfold flitFail
  dsimp only
  (repeat' split) <;> simp

@[simp] theorem steady_rtCopy {s : State} {a0} : steady (rtCopy a0 s) = steady s := by simp [rtCopy]
@[simp] theorem steady_delayRsp {s : State} {a0 a1 a2} : steady (delayRsp a0 a1 a2 s) = steady s := (rfl)
@[simp] theorem steady_fecLoss {s : State} {a0} : steady (fecLoss a0 s) = steady s := by simp [fecLoss]
@[simp] theorem steady_ackBody {s : State} {a0 a1} : steady (ackBody a0 a1 s) = steady s := by simp [ackBody]

/-! ### Recovery -/

@[simp] theorem steady_pauseStream {s : State} {a0} : steady (pauseStream a0 s) = steady s := (rfl)

@[simp] theorem steady_stopInstall {s : State} {a0} : steady (stopInstall a0 s) = steady s := by
  unfold stopInstall
  split <;> simp

@[simp] theorem steady_suspendModel {s : State} {a0 a1} : steady (suspendModel a0 a1 s) = steady s := by
  unfold suspendModel
  split <;> simp

@[simp] theorem steady_suspendAll {s : State} {a0 a1 a2 a3} : steady (suspendAll a0 a1 a2 a3 s).2 = steady s := by simp [suspendAll]

@[simp] theorem steady_demoteNow {s : State} {a0 a1 a2} : steady (demoteNow a0 a1 a2 s) = steady s := by
  unfold demoteNow
  split <;> simp

@[simp] theorem steady_reloadAt {s : State} {a0 a1 a2} : steady (reloadAt a0 a1 a2 s) = steady s := steady_foldl fun s e => by split <;> simp
@[simp] theorem steady_loseModel {s : State} {a0 a1} : steady (loseModel a0 a1 s) = steady s := by simp [loseModel]
@[simp] theorem steady_updRecov {s : State} {a0} : steady (updRecov a0 s) = steady s := (rfl)
@[simp] theorem steady_setPlan {s : State} {a0} : steady (setPlan a0 s) = steady s := (rfl)
@[simp] theorem steady_logAbort {s : State} {a0} : steady (logAbort a0 s) = steady s := (rfl)

@[simp] theorem steady_abortPlan {s : State} {a0 a1} : steady (abortPlan a0 a1 s) = steady s := by
  unfold abortPlan
  split <;> simp

@[simp] theorem steady_logResolve {s : State} {a0 a1 a2} : steady (logResolve a0 a1 a2 s) = steady s := (rfl)
@[simp] theorem steady_logMerged {s : State} {a0} : steady (logMerged a0 s) = steady s := by simp [logMerged]

@[simp] theorem steady_enqueueFault {s : State} {a0} : steady (enqueueFault a0 s) = steady s := by
  unfold enqueueFault
  (repeat' split) <;> simp

@[simp] theorem steady_faultStrikes {s : State} {a0 a1 a2 a3 a4 a5} : steady (faultStrikes a0 a1 a2 a3 a4 a5 s) = steady s := by simp [faultStrikes]
@[simp] theorem steady_stackFault {s : State} {a0 a1 a2} : steady (stackFault a0 a1 a2 s) = steady s := by simp [stackFault]
@[simp] theorem steady_copyReads {s : State} {a0 a1 a2} : steady (copyReads a0 a1 a2 s) = steady s := by simp [copyReads]
@[simp] theorem steady_needPrefill {s : State} {a0} : steady (needPrefill a0 s) = steady s := by simp [needPrefill]

@[simp] theorem steady_resumeModel {s : State} {a0 a1} : steady (resumeModel a0 a1 s) = steady s := by
  unfold resumeModel
  dsimp only
  (repeat' split) <;> simp

@[simp] theorem steady_dropPrefixes {s : State} {a0} : steady (dropPrefixes a0 s) = steady s := by simp [dropPrefixes]

@[simp] theorem steady_planResume {s : State} {a0} : steady (planResume a0 s) = steady s := by
  unfold planResume
  split <;> simp

@[simp] theorem steady_reloadSlots {s : State} {a0 a1} : steady (reloadSlots a0 a1 s) = steady s := steady_foldl fun s e => by split <;> simp
@[simp] theorem steady_retireAll {s : State} {a0} : steady (retireAll a0 s) = steady s := by simp [retireAll]

@[simp] theorem steady_planCommitted {s : State} {a0} : steady (planCommitted a0 s) = steady s := by
  unfold planCommitted
  split <;> simp

@[simp] theorem steady_restartThreads {s : State} {a0} : steady (restartThreads a0 s) = steady s := by
  unfold restartThreads
  split <;> simp

@[simp] theorem steady_reloadSlot {s : State} {a0} : steady (reloadSlot a0 s) = steady s := by
  unfold reloadSlot
  split
  · rfl
  · split
    · rfl
    · refine steady_foldl fun s e => ?_
      split <;> simp

@[simp] theorem steady_logLasting {s : State} {a0} : steady (logLasting a0 s).2 = steady s := (rfl)
@[simp] theorem steady_coreFault {s : State} {a0 a1} : steady (coreFault a0 a1 s) = steady s := by simp [coreFault]
@[simp] theorem steady_fieldStrikes {s : State} {a0 a1 a2} : steady (fieldStrikes a0 a1 a2 s) = steady s := by simp [fieldStrikes]
@[simp] theorem steady_routerFault {s : State} {a0 a1} : steady (routerFault a0 a1 s) = steady s := by simp [routerFault]
@[simp] theorem steady_placementFault {s : State} {a0 a1} : steady (placementFault a0 a1 s) = steady s := by simp [placementFault]

@[simp] theorem steady_faultSuspend {s : State} {a0 a1} : steady (faultSuspend a0 a1 s) = steady s := by
  unfold faultSuspend
  split <;> simp

@[simp] theorem steady_endCopies {s : State} {a0} : steady (endCopies a0 s) = steady s := by
  unfold endCopies
  dsimp only
  rw [steady_setPlan, steady_foldl fun _ _ => steady_reloadSlots, steady_foldl fun _ _ => steady_updModel, steady_foldl fun s q => by
    split
    · split <;> simp
    · rfl]
  exact steady_foldl fun _ _ => steady_clearMem

@[simp] theorem steady_resendContent {s : State} {a0} : steady (resendContent a0 s) = steady s := by
  unfold resendContent
  split <;> simp

@[simp] theorem steady_shadowWay {s : State} {a0} : steady (shadowWay a0 s) = steady s := (rfl)
@[simp] theorem steady_withPlace {s : State} {a0 a1} : steady (withPlace a0 a1 s) = steady s := (rfl)

@[simp] theorem steady_planModel {a : State × RecPlan} {m} : steady (planModel a m).1 = steady a.1 := by
  unfold planModel
  dsimp only
  (repeat' split) <;> simp

@[simp] theorem steady_shadowMoves {s : State} {a0 a1} : steady (shadowMoves a0 a1 s) = steady s := by
  unfold shadowMoves
  split <;> simp

@[simp] theorem steady_shadowTarget {s : State} {a0 a1} : steady (shadowTarget a0 a1 s) = steady s := (rfl)
@[simp] theorem steady_shadowQuotas {s s2 : State} {a1} : steady (shadowQuotas s a1 s2) = steady s2 := by simp [shadowQuotas]

@[simp] theorem steady_shadowLeaves {s : State} {a0} : steady (shadowLeaves a0 s) = steady s := by
  unfold shadowLeaves
  refine (steady_foldl fun s q => ?_).trans (by simp)
  split <;> simp

@[simp] theorem steady_planShadows {s s2 : State} {a1 a2} : steady (planShadows s a1 a2 s2) = steady s2 := by
  unfold planShadows
  dsimp only
  rw [steady_foldl fun _ _ => by split <;> simp, steady_shadowQuotas, steady_foldl fun _ _ => by simp, steady_foldl fun _ _ => by split <;> simp,
    steady_foldl fun _ _ => steady_shadowTarget]
  exact steady_foldl fun _ _ => steady_shadowMoves

@[simp] theorem steady_planArm {s : State} {a0 a1 a2} : steady (planArm a0 a1 a2 s) = steady s := by
  unfold planArm
  dsimp only
  (repeat' split) <;> simp

@[simp] theorem steady_classify {s : State} {a0 a1} : steady (classify a0 a1 s) = steady s := by
  unfold classify
  split <;> simp

@[simp] theorem steady_floorRetry {s : State} {a0} : steady (floorRetry a0 s) = steady s := by simp [floorRetry]

@[simp] theorem steady_chRestart {s : State} {a0} : steady (chRestart a0 s) = steady s := by
  unfold chRestart
  grind [steady_stackRead, steady_chStart, steady_setLive]

@[simp] theorem steady_demoteStreams {s : State} {a0 a1} : steady (demoteStreams a0 a1 s) = steady s := by simp [demoteStreams]

@[simp] theorem steady_awaitTick {s : State} : steady (awaitTick s) = steady s := by
  refine steady_foldl fun s e => ?_
  split <;> simp

@[simp] theorem steady_planFails {s : State} {a0} : steady (planFails a0 s) = steady s := by simp [planFails]
@[simp] theorem steady_beginCopies {s : State} {a0} : steady (beginCopies a0 s) = steady s := by simp [beginCopies]

@[simp] theorem steady_planApply {s : State} {a0} : steady (planApply a0 s) = steady s := by
  unfold planApply
  (repeat' split) <;> simp

@[simp] theorem steady_returnTick {s : State} : steady (returnTick s) = steady s := by simp [returnTick]

@[simp] theorem steady_planBeatLost {s : State} : steady (planBeatLost s) = steady s := by
  unfold planBeatLost
  split <;> simp

/-! ### Poll -/

@[simp] theorem steady_itemDone {s : State} {a0} : steady (itemDone a0 s) = steady s := by simp [itemDone]

@[simp] theorem steady_settleSel {s : State} {a0} : steady (settleSel a0 s).2 = steady s := by
  unfold settleSel
  (repeat' split) <;> simp

@[simp] theorem steady_settleItem {s : State} {a0} : steady (settleItem a0 s).2 = steady s := by
  unfold settleItem
  (repeat' split) <;> simp

@[simp] theorem steady_settleList {s : State} {a0} : steady (settleList a0 s).2 = steady s := by
  induction a0 generalizing s with
  | nil => rfl
  | cons it l ih => unfold settleList; split <;> rename_i e <;> simp [ih, steady_of_eq_snd e]

@[simp] theorem steady_settleWork {s : State} {a0} : steady (settleWork a0 s) = steady s := by simp [settleWork]

theorem steady_reserve {s : State} {a0 a1 a2 a3} {t} (e : reserve a0 a1 a2 a3 s = some t) : steady t = steady s := by
  unfold reserve at e
  grind [steady_addReserved, steady_updStream]

theorem steady_lookupReserve {s : State} {a0 a1} {t} (e : lookupReserve a0 a1 s = some t) : steady t = steady s := by
  unfold lookupReserve at e
  dsimp only at e
  split at e
  · cases e
  · rename_i e0
    have h := steady_reserve e0
    split at e
    · rw [steady_reserve e, h]; simp
    · cases e; rw [h]; simp

theorem steady_admitTokens {s : State} {a0 a1 a2 a3} {t} (e : admitTokens a0 a1 a2 a3 s = some t) : steady t = steady s := by
  unfold admitTokens at e
  grind [steady_setStream, steady_setSession, steady_adapterRef, steady_lookupReserve]

@[simp] theorem steady_specSel {s : State} {a0} : steady (specSel a0 s) = steady s := (rfl)
@[simp] theorem steady_requestDone {s : State} {a0 a1 a2 a3 a4} : steady (requestDone a0 a1 a2 a3 a4 s) = steady s := by simp [requestDone]

@[simp] theorem steady_openPrompt {s : State} {a0 a1 a2 a3} : steady (openPrompt a0 a1 a2 a3 s).2 = steady s := by
  unfold openPrompt
  grind [steady_readHost, steady_countUp]

@[simp] theorem steady_admitReq {s : State} {a0 a1} : steady (admitReq a0 a1 s) = steady s := by
  unfold admitReq
  dsimp only
  (repeat' split) <;> grind [steady_requestDone, steady_openPrompt, steady_admitTokens]

@[simp] theorem steady_flushModel {s : State} : steady (flushModel s) = steady s := by simp [flushModel]
@[simp] theorem steady_selectPlain {s : State} {a0 a1} : steady (selectPlain a0 a1 s) = steady s := (rfl)
@[simp] theorem steady_discardSel {s : State} {a0 a1} : steady (discardSel a0 a1 s) = steady s := by simp [discardSel]
@[simp] theorem steady_selectRound {s : State} {a0 a1 a2} : steady (selectRound a0 a1 a2 s) = steady s := by simp [selectRound]
@[simp] theorem steady_selectNow {s : State} {a0 a1 a2 a3} : steady (selectNow a0 a1 a2 a3 s) = steady s := by simp [selectNow]

@[simp] theorem steady_handleSel {s : State} {a0 a1} : steady (handleSel a0 a1 s) = steady s := by
  unfold handleSel
  dsimp only
  (repeat' split) <;> simp

@[simp] theorem steady_selection {s : State} : steady (selection s) = steady s := by
  unfold selection
  (repeat' split) <;> simp

@[simp] theorem steady_rebindReq {s : State} : steady (rebindReq s) = steady s := by
  unfold rebindReq
  dsimp only
  (repeat' split) <;> simp

@[simp] theorem steady_endRequest {s : State} : steady (endRequest s) = steady s := by
  unfold endRequest
  (repeat' split) <;> simp

theorem steady_prefillTokens {s : State} {i r tokens blocks t} (e : prefillTokens i r tokens blocks s = some t) : steady t = steady s := by
  unfold prefillTokens at e
  grind [steady_lookupReserve, steady_updStream, steady_releaseKv]

@[simp] theorem steady_countTorn {s : State} {a0} : steady (countTorn a0 s) = steady s := by simp [countTorn]

@[simp] theorem steady_readLines {s : State} {a0 a1 a2} : steady (readLines a0 a1 a2 s).2 = steady s := by
  unfold readLines
  grind [steady_readHost, steady_countTorn]

@[simp] theorem steady_readChanged {s : State} {a0 a1 a2 a3} : steady (readChanged a0 a1 a2 a3 s).2 = steady s := by
  induction a2 generalizing s a1 a3 with
  | nil => cases a1 <;> rfl
  | cons e l ih =>
    cases a1 with
    | zero => rfl
    | succ n => unfold readChanged; split <;> rename_i e <;> simp [ih, steady_of_eq_snd e]

@[simp] theorem steady_hostPoll {s : State} {a0} : steady (hostPoll a0 s) = steady s := by
  unfold hostPoll
  grind [steady_updServing, steady_readHost, steady_readChanged, steady_settleWork]

@[simp] theorem steady_stSel {s : State} {a0} : steady (stSel a0 s) = steady s := (rfl)
@[simp] theorem steady_cmdResult {s : State} {a0 a1 a2} : steady (cmdResult a0 a1 a2 s) = steady s := by simp [cmdResult]
@[simp] theorem steady_stCmdEnd {s : State} : steady (stCmdEnd s) = steady s := by simp [stCmdEnd]

@[simp] theorem steady_prefillReq {s : State} {a0 a1} : steady (prefillReq a0 a1 s) = steady s := by
  unfold prefillReq
  dsimp only
  (repeat' split) <;> grind [steady_requestDone, steady_openPrompt, steady_prefillTokens]

@[simp] theorem steady_pxSel {s : State} {a0} : steady (pxSel a0 s) = steady s := (rfl)

/-! ### Output -/

@[simp] theorem steady_recWritten {s : State} : steady (recWritten s) = steady s := by
  unfold recWritten
  split <;> simp

@[simp] theorem steady_copyAnswers {s : State} {a0 a1 a2 a3} : steady (copyAnswers a0 a1 a2 a3 s) = steady s := (rfl)

@[simp] theorem steady_lateEnter {s : State} {a0} : steady (lateEnter a0 s) = steady s := by
  induction a0 generalizing s with
  | nil => rfl
  | cons e l ih => simp [lateEnter, ih]

@[simp] theorem steady_sendPieces {s : State} {a0} : steady (sendPieces a0 s).2.2 = steady s := by
  induction a0 generalizing s with
  | nil => rfl
  | cons p l ih =>
    unfold sendPieces
    split
    · simp
    · simp [ih]
    · split <;> simp [ih]

@[simp] theorem steady_endedEntry {s : State} {a0} : steady (endedEntry a0 s) = steady s := (rfl)
@[simp] theorem steady_dropLater {s : State} {a0} : steady (dropLater a0 s) = steady s := (rfl)

@[simp] theorem steady_entriesLost {s : State} {a0 a1} : steady (entriesLost a0 a1 s) = steady s := by
  unfold entriesLost
  dsimp only
  (repeat' split) <;> simp

@[simp] theorem steady_dissolve {s : State} {a0} : steady (dissolve a0 s) = steady s := by simp [dissolve]

@[simp] theorem steady_dissolveFirst {s : State} : steady (dissolveFirst s) = steady s := by
  unfold dissolveFirst
  split <;> simp

@[simp] theorem steady_updRec {s : State} {a0} : steady (updRec a0 s) = steady s := (rfl)

@[simp] theorem steady_sendHeader {s : State} : steady (sendHeader s).2 = steady s := by
  unfold sendHeader
  dsimp only
  (repeat' split) <;> simp

@[simp] theorem steady_startRecs {s : State} {a0} : steady (startRecs a0 s) = steady s := by
  induction a0 generalizing s with
  | zero => rfl
  | succ n ih =>
    unfold startRecs
    split
    · split
      · rfl
      · split
        · simp [ih]
        · dsimp only
          split
          · split
            · simp [ih]
            · split <;> rename_i e <;> simp [ih, steady_of_eq_snd e]
          · simp
    · rfl

@[simp] theorem steady_writeOn {s : State} : steady (writeOn s) = steady s := by simp [writeOn]
@[simp] theorem steady_closeRecord {s : State} {a0 a1} : steady (closeRecord a0 a1 s) = steady s := by simp [closeRecord]
@[simp] theorem steady_closingRecord {s : State} : steady (closingRecord s) = steady s := by simp [closingRecord]

@[simp] theorem steady_sealEntry {s : State} {a0 a1} : steady (sealEntry a0 a1 s).2 = steady s := by
  unfold sealEntry
  split <;> simp

@[simp] theorem steady_publishKv {s : State} {a0 a1 a2} : steady (publishKv a0 a1 a2 s) = steady s := by
  unfold publishKv
  dsimp only
  (repeat' split) <;> simp

@[simp] theorem steady_stepComplete {s : State} {a0} : steady (stepComplete a0 s) = steady s := by
  unfold stepComplete
  dsimp only
  (repeat' split) <;> simp

@[simp] theorem steady_hubAsks {s : State} {a0 a1} : steady (hubAsks a0 a1 s) = steady s := by simp [hubAsks]
@[simp] theorem steady_startCollect {s : State} {a0 a1 a2} : steady (startCollect a0 a1 a2 s) = steady s := by simp [startCollect]
@[simp] theorem steady_outputTaken {s : State} {a0 a1} : steady (outputTaken a0 a1 s) = steady s := by simp [outputTaken]
@[simp] theorem steady_outputSkipped {s : State} {a0 a1} : steady (outputSkipped a0 a1 s) = steady s := by simp [outputSkipped]
@[simp] theorem steady_mainAnswers {s : State} {a0 a1 a2 a3 a4} : steady (mainAnswers a0 a1 a2 a3 a4 s) = steady s := (rfl)

@[simp] theorem steady_draftAnswers {s : State} {a0 a1 a2 a3 a4} : steady (draftAnswers a0 a1 a2 a3 a4 s) = steady s := by
  unfold draftAnswers
  dsimp only
  (repeat' split) <;> simp

theorem steady_outputOf {s : State} {a0 a1 a2 a3} {t} (e : outputOf a0 a1 a2 a3 s = some t) : steady t = steady s := by
  unfold outputOf at e
  grind [steady_mainAnswers, steady_draftAnswers, steady_copyAnswers]

@[simp] theorem steady_outputCollect {s : State} {a0} : steady (outputCollect a0 s) = steady s := by
  unfold outputCollect
  dsimp only
  (repeat' split) <;> grind [steady_startCollect, steady_outputSkipped, steady_outputOf, steady_outputTaken]

@[simp] theorem steady_gyleTick {s : State} {a0} : steady (gyleTick a0 s) = steady s := by
  unfold gyleTick
  grind [steady_sendHeader, steady_writeOn, steady_closeRecord]

@[simp] theorem steady_entryWriteEnds {s : State} {a0} : steady (entryWriteEnds a0 s) = steady s := by
  unfold entryWriteEnds
  grind [steady_writeOn, steady_dissolveFirst, steady_sendHeader, steady_updRec]

@[simp] theorem steady_headerWriteEnds {s : State} {a0} : steady (headerWriteEnds a0 s) = steady s := by simp [headerWriteEnds]
@[simp] theorem steady_recordsStop {s : State} : steady (recordsStop s) = steady s := by simp [recordsStop]

/-! ### Host -/

@[simp] theorem steady_ideEnds {s : State} : steady (ideEnds s) = steady s := (rfl)
@[simp] theorem steady_ideCheckFail {s : State} : steady (ideCheckFail s) = steady s := by simp [ideCheckFail]
@[simp] theorem steady_hostLinkRecovery {s : State} : steady (hostLinkRecovery s) = steady s := by simp [hostLinkRecovery]

@[simp] theorem steady_jobEnds {s : State} {a0} : steady (jobEnds a0 s) = steady s := by
  unfold jobEnds
  split <;> simp

@[simp] theorem steady_lineEnds {s : State} {a0 a1 a2} : steady (lineEnds a0 a1 a2 s) = steady s := by
  unfold lineEnds
  dsimp only
  (repeat' split) <;> simp

@[simp] theorem steady_hostReqFails {s : State} {a0} : steady (hostReqFails a0 s) = steady s := by
  unfold hostReqFails
  grind [steady_takeHostReq, steady_lineEnds]

@[simp] theorem steady_irqClear {s : State} {a0} : steady (irqClear a0 s) = steady s := (rfl)
@[simp] theorem steady_msixUnmask {s : State} {a0} : steady (msixUnmask a0 s) = steady s := by simp [msixUnmask]

@[simp] theorem steady_hostAnswers {s : State} {a0 a1 a2} : steady (hostAnswers a0 a1 a2 s) = steady s := by
  unfold hostAnswers
  grind [steady_takeHostReq, steady_lineEnds]

@[simp] theorem steady_hostLinkTrain {s : State} {a0 a1 a2 a3} : steady (hostLinkTrain a0 a1 a2 a3 s) = steady s := by simp [hostLinkTrain]

@[simp] theorem steady_hdmAccess {s : State} {a0 a1 a2 a3} : steady (hdmAccess a0 a1 a2 a3 s) = steady s := by
  unfold hdmAccess
  split <;> simp

/-! ### Security -/

@[simp] theorem steady_updSec {s : State} {a0} : steady (updSec a0 s) = steady s := (rfl)
@[simp] theorem steady_updMailbox {s : State} {a0 a1} : steady (updMailbox a0 a1 s) = steady s := (rfl)
@[simp] theorem steady_doeAnswer {s : State} {a0} : steady (doeAnswer a0 s) = steady s := by simp [doeAnswer]

@[simp] theorem steady_respond {s : State} {a0 a1 a2 a3 a4} : steady (respond a0 a1 a2 a3 a4 s) = steady s := by
  unfold respond
  split <;> simp

@[simp] theorem steady_failMalformed {s : State} {a0} : steady (failMalformed a0 s) = steady s := by
  induction a0 generalizing s with
  | zero => rfl
  | succ n ih => unfold failMalformed; split <;> simp [ih]

@[simp] theorem steady_settleCmds {s : State} : steady (settleCmds s) = steady s := by simp [settleCmds]
@[simp] theorem steady_submit {s : State} {a0 a1} : steady (submit a0 a1 s) = steady s := by simp [submit]
@[simp] theorem steady_mbSubmit {s : State} {a0} : steady (mbSubmit a0 s) = steady s := by simp [mbSubmit]
@[simp] theorem steady_doeRefused {s : State} : steady (doeRefused s) = steady s := (rfl)

@[simp] theorem steady_takeLeaf {s : State} {a0} : steady (takeLeaf a0 s).2 = steady s := by
  unfold takeLeaf
  dsimp only
  (repeat' split) <;> simp

@[simp] theorem steady_signReport {s : State} {a0 a1 a2} : steady (signReport a0 a1 a2 s).2 = steady s := by
  unfold signReport
  grind [steady_takeLeaf]

@[simp] theorem steady_attestFails {s : State} {a0} : steady (attestFails a0 s) = steady s := by simp [attestFails]
@[simp] theorem steady_hsFinish {s : State} {a0 a1} : steady (hsFinish a0 a1 s) = steady s := by simp [hsFinish]

@[simp] theorem steady_cmdReport {s : State} {a0 a1} : steady (cmdReport a0 a1 s).2 = steady s := by
  unfold cmdReport
  grind [steady_signReport]

@[simp] theorem steady_mbData {s : State} {a0 a1} : steady (mbData a0 a1 s) = steady s := by
  unfold mbData
  split <;> simp

@[simp] theorem steady_updHs {s : State} {a0 a1} : steady (updHs a0 a1 s) = steady s := (rfl)

@[simp] theorem steady_serve {s : State} {a0 a1} (hF : ∀ l s, steady (a1 l s).2 = steady s) : steady (serve a0 a1 s) = steady s := by
  unfold serve
  dsimp only
  (repeat' split) <;> simp [hF]

@[simp] theorem steady_cmdOpen {s : State} {a0} : steady (cmdOpen a0 s).2 = steady s := by
  unfold cmdOpen
  dsimp only
  (repeat' split) <;> simp

@[simp] theorem steady_sendHs {s : State} {a0 a1 a2} : steady (sendHs a0 a1 a2 s) = steady s := (rfl)

@[simp] theorem steady_sendReport {s : State} {a0 a1} : steady (sendReport a0 a1 s) = steady s := by
  unfold sendReport
  grind [steady_signReport, steady_sendHs, steady_updHs]

@[simp] theorem steady_serveWaiting {s : State} {a0 a1} : steady (serveWaiting a0 a1 s) = steady s := by simp [serveWaiting]

@[simp] theorem steady_bucketRefill {s : State} {a0} : steady (bucketRefill a0 s) = steady s := by
  unfold bucketRefill
  exact (steady_foldl fun _ _ => by simp).trans (by simp)

@[simp] theorem steady_mbReset {s : State} {a0} : steady (mbReset a0 s) = steady s := by simp [mbReset]
@[simp] theorem steady_hsTimeout {s : State} {a0} : steady (hsTimeout a0 s) = steady s := by simp [hsTimeout]

@[simp] theorem steady_spdmRequest {s : State} {a0} : steady (spdmRequest a0 s) = steady s := by
  unfold spdmRequest
  split <;> simp

@[simp] theorem steady_doeRequest {s : State} {a0} : steady (doeRequest a0 s) = steady s := by
  unfold doeRequest
  (repeat' split) <;> simp

@[simp] theorem steady_cmdBind {s : State} {a0} : steady (cmdBind a0 s).2 = steady s := by
  unfold cmdBind
  dsimp only
  (repeat' split) <;> simp

@[simp] theorem steady_hsHello {s : State} {a0 a1 a2} : steady (hsHello a0 a1 a2 s) = steady s := by simp [hsHello]
@[simp] theorem steady_doeAbort {s : State} : steady (doeAbort s) = steady s := by simp [doeAbort]

@[simp] theorem steady_cmdUnbind {s : State} {a0} : steady (cmdUnbind a0 s).2 = steady s := by
  unfold cmdUnbind
  dsimp only
  (repeat' split) <;> simp

@[simp] theorem steady_cmdIde {s : State} {a0} : steady (cmdIde a0 s).2 = steady s := by simp [cmdIde]
@[simp] theorem steady_sendFinish {s : State} {a0} : steady (sendFinish a0 s) = steady s := by simp [sendFinish]
@[simp] theorem steady_hsKem {s : State} {a0 a1} : steady (hsKem a0 a1 s) = steady s := by simp [hsKem]

@[simp] theorem steady_cmdClose {s : State} {a0} : steady (cmdClose a0 s).2 = steady s := by
  unfold cmdClose
  dsimp only
  (repeat' split) <;> simp

@[simp] theorem steady_hsReport {s : State} {a0 a1 a2 a3 a4} : steady (hsReport a0 a1 a2 a3 a4 s) = steady s := by simp [hsReport]

/-! ### Boot -/

@[simp] theorem steady_beginBeat {s : State} {a0} : steady (beginBeat a0 s) = steady s := by simp [beginBeat]
@[simp] theorem steady_fwResult {s : State} {a0 a1} : steady (fwResult a0 a1 s) = steady s := (rfl)

@[simp] theorem steady_readFloor {s : State} : steady (readFloor s) = steady s := by
  unfold readFloor
  split <;> simp

@[simp] theorem steady_logCopies {s : State} {a0} : steady (logCopies a0 s) = steady s := by simp [logCopies]

@[simp] theorem steady_recLack {s : State} {a0 a1} : steady (recLack a0 a1 s) = steady s := by
  unfold recLack
  split <;> simp

@[simp] theorem steady_setRes {s : State} {a0 a1} : steady (setRes a0 a1 s) = steady s := (rfl)
@[simp] theorem steady_migrateRec {s : State} {a0 a1 a2} : steady (migrateRec a0 a1 a2 s) = steady s := by simp [migrateRec]

@[simp] theorem steady_resolveRec {s : State} {a0 a2} : steady (resolveRec a0 s a2) = steady s := by
  unfold resolveRec
  dsimp only
  (repeat' split) <;> simp

@[simp] theorem steady_mcRecords {s : State} {a0} : steady (mcRecords a0 s) = steady s := by
  unfold mcRecords
  exact (steady_foldl fun _ _ => by simp).trans (by simp)

@[simp] theorem steady_unitBooted {s : State} {a0 a1 a2} : steady (unitBooted a0 a1 a2 s) = steady s := by
  unfold unitBooted
  split <;> simp

@[simp] theorem steady_beginRestart {s : State} : steady (beginRestart s) = steady s := by
  unfold beginRestart
  (repeat' split) <;> simp

@[simp] theorem steady_componentBoot {s : State} {a0} : steady (componentBoot a0 s) = steady s := by
  unfold componentBoot
  split <;> simp

@[simp] theorem steady_selftestTimeout {s : State} {a0} : steady (selftestTimeout a0 s) = steady s := by simp [selftestTimeout]
@[simp] theorem steady_endFields {s : State} : steady (endFields s) = steady s := (rfl)
@[simp] theorem steady_fieldsTimeout {s : State} : steady (fieldsTimeout s) = steady s := by simp [fieldsTimeout]

@[simp] theorem steady_beginFields {s : State} : steady (beginFields s) = steady s := by
  unfold beginFields
  exact (steady_foldl fun _ _ => by simp).trans (by simp)

@[simp] theorem steady_startNextCal {s : State} : steady (startNextCal s) = steady s := by
  unfold startNextCal
  split <;> simp

@[simp] theorem steady_beginCals {s : State} : steady (beginCals s) = steady s := by simp [beginCals]
@[simp] theorem steady_routesStage {s : State} {now} : steady (routesStage now s) = steady s := by simp [routesStage]

@[simp] theorem steady_calStage {s : State} {a0} : steady (calStage a0 s) = steady s := by
  unfold calStage
  split <;> simp

@[simp] theorem steady_linkStage {s : State} {a0} : steady (linkStage a0 s) = steady s := by simp [linkStage]

@[simp] theorem steady_bootTick {s : State} {a0} : steady (bootTick a0 s) = steady s := by
  unfold bootTick
  split <;> simp

@[simp] theorem steady_digestCfg {s : State} : steady (digestCfg s) = steady s := (rfl)

@[simp] theorem steady_seBootDone {s : State} : steady (seBootDone s) = steady s := by
  unfold seBootDone
  dsimp only
  (repeat' split) <;> simp

@[simp] theorem steady_testFails {s : State} {a0 a2} : steady (testFails a0 s a2) = steady s := by simp [testFails]
@[simp] theorem steady_selftestDone {s : State} {a0 a1 a2} : steady (selftestDone a0 a1 a2 s) = steady s := by simp [selftestDone]
@[simp] theorem steady_fwRefused {s : State} {a0} : steady (fwRefused a0 s) = steady s := by simp [fwRefused]

@[simp] theorem steady_fwRestart {s : State} {a0 a1} : steady (fwRestart a0 a1 s).2 = steady s := by
  unfold fwRestart
  split <;> simp

@[simp] theorem steady_commitCfg {s : State} {a0} : steady (commitCfg a0 s) = steady s := by
  unfold commitCfg
  split <;> simp

@[simp] theorem steady_mcBootDone {s : State} {a0 a1 a2} : steady (mcBootDone a0 a1 a2 s) = steady s := by simp [mcBootDone]

@[simp] theorem steady_fwActivate {s : State} {a0} : steady (fwActivate a0 s).2 = steady s := by
  unfold fwActivate
  split <;> simp

/-! ### Scalar -/

@[simp] theorem steady_writeD {s : State} {a0 a1} : steady (writeD a0 a1 s).state = steady s := (rfl)
@[simp] theorem steady_scalarRR {s : State} {a0 a1 a2} : steady (scalarRR a0 a1 a2 s) = steady s := by simp [scalarRR]
@[simp] theorem steady_scalarRI {s : State} {a0 a1 a2} : steady (scalarRI a0 a1 a2 s) = steady s := by simp [scalarRI]

/-! ### Branch -/

@[simp] theorem steady_linkTo {s : State} {a0 a1} : steady (linkTo a0 a1 s).state = steady s := (rfl)
@[simp] theorem steady_branch {s : State} {a0 a1 a2} : steady (branch a0 a1 a2 s) = steady s := by simp [branch]

/-! ### ReadRegs -/

@[simp] theorem steady_shown {s : State} {a0 a1} : steady (shown a0 a1 s).2 = steady s := by
  unfold shown
  split <;> simp

@[simp] theorem steady_shownTemp {s : State} {a0} : steady (shownTemp a0 s).2 = steady s := by
  unfold shownTemp
  split <;> simp

@[simp] theorem steady_hubShown {s : State} {a0 a1 a2} : steady (hubShown a0 a1 a2 s).2 = steady s := by
  unfold hubShown
  split <;> simp

@[simp] theorem steady_coolWord {s : State} : steady (coolWord s).2 = steady s := by
  unfold coolWord
  dsimp only
  (repeat' split) <;> simp

@[simp] theorem steady_bladeWord {s : State} {a0} : steady (bladeWord a0 s).2 = steady s := by simp [bladeWord]

theorem steady_pmWord {s : State} {k off w t} (e : pmWord s k off = some (w, t)) : steady t = steady s := by
  unfold pmWord at e
  grind [steady_shown, steady_coolWord, steady_bladeWord]

theorem steady_fcuWord {s : State} {a1 a2} {w} {t} (e : fcuWord s a1 a2 = some (w, t)) : steady t = steady s := by
  unfold fcuWord at e
  grind [steady_shownTemp]

@[simp] theorem steady_anyWord {s : State} : steady (anyWord s).2 = steady s := (rfl)

theorem steady_vcoreWord {s : State} {f off w t} (e : vcoreWord s f off = some (w, t)) : steady t = steady s := by
  unfold vcoreWord at e
  grind [steady_anyWord, steady_shown]

theorem steady_railsWord {s : State} {f off w t} (e : railsWord s f off = some (w, t)) : steady t = steady s := by
  unfold railsWord at e
  grind [steady_anyWord]

theorem steady_reported {s : State} {m q off w t} (e : reported s m q off = some (w, t)) : steady t = steady s := by
  unfold reported at e
  (repeat' split at e) <;> simp at e <;> grind [steady_pmWord, steady_fcuWord, steady_vcoreWord, steady_railsWord]

@[simp] theorem steady_regWord {s : State} {a1 a2 a3} : steady (regWord s a1 a2 a3).2 = steady s := by
  unfold regWord
  split
  · split <;> rfl
  · split
    · rfl
    · cases e : reported s a1 a2 a3 with
      | none => dsimp only; (repeat' split) <;> rfl
      | some v =>
        have hv : steady v.2 = steady s := steady_reported (w := v.1) e
        dsimp only
        (repeat' split) <;> first | rfl | exact hv

/-! ### Hazard -/

@[simp] theorem steady_hdMarkWrite {s : State} {a0} : steady (hdMarkWrite a0 s) = steady s := by simp [hdMarkWrite]
@[simp] theorem steady_hdMarkClear {s : State} {a0} : steady (hdMarkClear a0 s) = steady s := (rfl)
@[simp] theorem steady_hdClear {s : State} {a0} : steady (hdClear a0 s) = steady s := (rfl)

/-! ### Registers -/

@[simp] theorem steady_plainWrite {s : State} {a0 a1 a2} : steady (plainWrite a0 a1 a2 s) = steady s := by
  unfold plainWrite
  split <;> simp

@[simp] theorem steady_txnWrite {s : State} {a0 a1 a2} : steady (txnWrite a0 a1 a2 s) = steady s := by
  unfold txnWrite
  split <;> simp

@[simp] theorem steady_wlWrite {s : State} {a0} : steady (wlWrite a0 s) = steady s := by simp [wlWrite]

@[simp] theorem steady_cmds {s : State} {l : List (Bool × (State → State))} (hl : ∀ c ∈ l, ∀ s, steady (c.2 s) = steady s) : steady (cmds l s) = steady s := by
  unfold cmds
  induction l generalizing s with
  | nil => rfl
  | cons c l ih =>
    have hc : steady (if c.1 then c.2 s else s) = steady s := by simp [hl c List.mem_cons_self]
    exact (ih fun d hd => hl d (List.mem_cons_of_mem c hd)).trans hc

@[simp] theorem steady_adInstallAsked {s : State} : steady (adInstallAsked s) = steady s := by simp [adInstallAsked]

@[simp] theorem steady_servingWrite {s : State} {a0 a1 a2} : steady (servingWrite a0 a1 a2 s) = steady s := by
  unfold servingWrite
  split <;> simp

@[simp] theorem steady_mailboxWrite {s : State} {a0 a1 a2} : steady (mailboxWrite a0 a1 a2 s) = steady s := by
  unfold mailboxWrite
  split <;> simp

@[simp] theorem steady_fwWrite {s : State} {a0} : steady (fwWrite a0 s) = steady s := by simp [fwWrite]

@[simp] theorem steady_tallyWrite {s : State} {a0 a1 a2} : steady (tallyWrite a0 a1 a2 s) = steady s := by
  unfold tallyWrite
  (repeat' split) <;> simp

@[simp] theorem steady_linkWrite {s : State} {a0 a1 a2 a3} : steady (linkWrite a0 a1 a2 a3 s) = steady s := by simp [linkWrite]

@[simp] theorem steady_actionWrite {s : State} {a0 a1 a2 a3 a4} : steady (actionWrite a0 a1 a2 a3 a4 s) = steady s := by
  unfold actionWrite
  split <;> simp

@[simp] theorem steady_latch {s : State} {a0 a1} : steady (latch a0 a1 s) = steady s := by
  unfold latch
  split <;> simp

@[simp] theorem steady_cfgWrite {s : State} {a0 a1 a2 a3} : steady (cfgWrite a0 a1 a2 a3 s) = steady s := by simp [cfgWrite]

@[simp] theorem steady_noteWindow {s : State} {a0 a1 a2} : steady (noteWindow a0 a1 a2 s) = steady s := by
  unfold noteWindow
  split <;> simp

@[simp] theorem steady_headerWrite {s : State} {a0 a1 a2 a3} : steady (headerWrite a0 a1 a2 a3 s) = steady s := by
  unfold headerWrite
  split <;> simp

@[simp] theorem steady_writeReg {s : State} {a0 a1 a2 a3 a4} : steady (writeReg a0 a1 a2 a3 a4 s) = steady s := by
  unfold writeReg
  (repeat' split) <;> simp

@[simp] theorem steady_regWrite {s : State} {a0 a1 a2 a3 a4 a5} : steady (regWrite a0 a1 a2 a3 a4 a5 s) = steady s := by
  unfold regWrite
  split <;> simp

@[simp] theorem steady_pclReg {s : State} {a0 a1 a2} (hF : ∀ x y q s, steady (a1 x y q s).2 = steady s) : steady (pclReg a0 a1 a2 s) = steady s := by
  unfold pclReg
  dsimp only
  (repeat' split) <;> simp [hF]

@[simp] theorem steady_readClears {s : State} {a0 a1 a2} : steady (readClears a0 a1 a2 s) = steady s := by
  unfold readClears
  split <;> simp

@[simp] theorem steady_readReg {s : State} {a0 a1 a2 a3} : steady (readReg a0 a1 a2 a3 s).2 = steady s := by
  unfold readReg
  split <;> simp

@[simp] theorem steady_regRead {s : State} {ms q off w} : steady (regRead ms q off w s).2 = steady s := by
  unfold regRead
  dsimp only
  (repeat' split) <;> simp

@[simp] theorem steady_busRead {s : State} {a0 a1 a2 a3} : steady (busRead a0 a1 a2 a3 s) = steady s := by simp [busRead]

@[simp] theorem steady_regResponse {s : State} {a0 a1} : steady (regResponse a0 a1 s) = steady s := by
  unfold regResponse
  split <;> simp

/-! ### Validate -/

@[simp] theorem steady_validationDone {s : State} {a0} : steady (validationDone a0 s) = steady s := by
  unfold validationDone
  dsimp only
  (repeat' split) <;> simp

/-! ### Commit -/

@[simp] theorem steady_hazardHook {s s2 : State} {a0} : steady (hazardHook a0 s s2) = steady s2 := by simp [hazardHook]
@[simp] theorem steady_clearBanks {s : State} {c old new} : steady (clearBanks c old new s) = steady s := by simp [clearBanks]
@[simp] theorem steady_windowCommit {s : State} {a0} : steady (windowCommit a0 s) = steady s := by simp [windowCommit]
@[simp] theorem steady_epochHook {s s2 : State} : steady (epochHook s s2) = steady s2 := by simp [epochHook]
@[simp] theorem steady_ungather {s : State} {a0} : steady (ungather a0 s) = steady s := by simp [ungather]
@[simp] theorem steady_channelHook {s s2 : State} : steady (channelHook s s2) = steady s2 := by simp [channelHook]
@[simp] theorem steady_reflush {s : State} : steady (reflush s) = steady s := by simp [reflush]
@[simp] theorem steady_tallyHook {s s2 : State} {a0 a1} : steady (tallyHook a0 a1 s s2) = steady s2 := by simp [tallyHook]
@[simp] theorem steady_enableHook {s s2 : State} {a0} : steady (enableHook a0 s s2) = steady s2 := by simp [enableHook]

@[simp] theorem steady_moduleHook {s s2 : State} : steady (moduleHook s s2) = steady s2 := by
  unfold moduleHook
  exact (steady_foldl fun _ _ => by split <;> simp).trans (by simp)

@[simp] theorem steady_copyPage {s : State} {a0} : steady (copyPage a0 s) = steady s := by
  unfold copyPage
  split <;> simp

@[simp] theorem steady_beatHook {s s2 : State} : steady (beatHook s s2) = steady s2 := by simp [beatHook]
@[simp] theorem steady_kvHook {s s2 : State} : steady (kvHook s s2) = steady s2 := by simp [kvHook]

@[simp] theorem steady_tenantHook {s s2 : State} {a0} : steady (tenantHook a0 s s2) = steady s2 :=
  steady_foldl fun _ _ => by dsimp only; split <;> simp

@[simp] theorem steady_mioHook {s : State} {a0} : steady (mioHook a0 s) = steady s := by simp [mioHook]

@[simp] theorem steady_pageHook {s s2 : State} {a0 a2} : steady (pageHook a0 s a2 s2) = steady s2 := by
  unfold pageHook
  split <;> simp

@[simp] theorem steady_groupDone {s : State} {a1} : steady (groupDone s a1) = steady s := by simp [groupDone]
@[simp] theorem steady_commitGroups {s : State} {a0 a1} : steady (commitGroups a0 a1 s) = steady s := by simp [commitGroups]
@[simp] theorem steady_nowApplyDone {s : State} {a0 a1} : steady (nowApplyDone a0 a1 s) = steady s := by simp [nowApplyDone]

/-! ### Memory -/

@[simp] theorem steady_emptBody {s : State} {a0} : steady (emptBody a0 s).state = steady s := by
  unfold emptBody
  dsimp only
  split
  · rfl
  · split
    · rename_i e
      simp [steady_gate e]
    · simp

@[simp] theorem steady_storeCheck {s : State} {a0 a1} : steady (storeCheck a0 a1 s).1 = steady s := by
  unfold storeCheck
  split <;> simp

@[simp] theorem steady_loadBody {s : State} {a0 a1} : steady (loadBody a0 a1 s).state = steady s := by
  unfold loadBody
  dsimp only
  split
  · rfl
  · split
    · rename_i e
      simp [steady_gate e]
    · simp

@[simp] theorem steady_storeBody {s : State} {a0 a1} : steady (storeBody a0 a1 s).state = steady s := by
  unfold storeBody
  dsimp only
  split
  · rfl
  · split
    · rename_i e
      simp [steady_gate e]
    · split <;> simp

/-! ### ServicePort -/

@[simp] theorem steady_updSp {s : State} {a0} : steady (updSp a0 s) = steady s := (rfl)
@[simp] theorem steady_emptyBank {s : State} {a0} : steady (emptyBank a0 s) = steady s := (rfl)

@[simp] theorem steady_dropStaging {s : State} : steady (dropStaging s) = steady s := by
  unfold dropStaging
  split <;> simp

@[simp] theorem steady_closeSession {s : State} : steady (closeSession s) = steady s := by simp [closeSession]

@[simp] theorem steady_spFirmware {s : State} {a0} (hF : ∀ s, steady (a0 s).2 = steady s) : steady (spFirmware a0 s).2 = steady s := by
  unfold spFirmware
  grind

@[simp] theorem steady_spReplay {s : State} {a0 a1} : steady (spReplay a0 a1 s) = steady s := (rfl)
@[simp] theorem steady_spAnswer {s : State} {a0 a1 a2 a3} : steady (spAnswer a0 a1 a2 a3 s) = steady s := by simp [spAnswer]

@[simp] theorem steady_malformed {s : State} {a0 a1 a2} : steady (malformed a0 a1 a2 s) = steady s := by
  unfold malformed
  (repeat' split) <;> simp

@[simp] theorem steady_spRequest {s : State} {a0 a1 a2} (hF : ∀ s, steady (a2 s) = steady s) : steady (spRequest a0 a1 a2 s) = steady s := by
  unfold spRequest
  grind [steady_spReplay, steady_spAnswer, steady_updSp, steady_countUp]

@[simp] theorem steady_spNow {s : State} {a0 a1 a2} (hF : ∀ s, steady (a2 s).2 = steady s) : steady (spNow a0 a1 a2 s) = steady s := by simp [spNow, hF]
@[simp] theorem steady_spCode {s : State} {a0 a1 a2} (hF : ∀ s, steady (a2 s).2 = steady s) : steady (spCode a0 a1 a2 s) = steady s := by simp [spCode, hF]

@[simp] theorem steady_openStaging {s : State} {a0 a1 a2} : steady (openStaging a0 a1 a2 s).2 = steady s := by
  unfold openStaging
  (repeat' split) <;> simp

@[simp] theorem steady_spReg {s : State} {a0 a1 a2 a3 a4 a5 a6} (hF : ∀ s, steady (a6 s) = steady s) : steady (spReg a0 a1 a2 a3 a4 a5 a6 s) = steady s := by simp [spReg, hF]

@[simp] theorem steady_putStaging {s : State} {a0 a1 a2 a3} : steady (putStaging a0 a1 a2 a3 s).2 = steady s := by
  unfold putStaging
  (repeat' split) <;> simp

@[simp] theorem steady_submitRecord {s : State} {a0 a1} : steady (submitRecord a0 a1 s).2 = steady s := by
  unfold submitRecord
  split <;> simp

@[simp] theorem steady_endStaging {s : State} {a0 a1 a2} : steady (endStaging a0 a1 a2 s).2 = steady s := by
  unfold endStaging
  (repeat' split) <;> simp

@[simp] theorem steady_recordBytes {s : State} {a0 a1 a2} : steady (recordBytes a0 a1 a2 s).2 = steady s := by
  unfold recordBytes
  split <;> simp

@[simp] theorem steady_icmp {s : State} {a0 a1} : steady (icmp a0 a1 s) = steady s := by simp [icmp]

@[simp] theorem steady_spHello {s : State} {a0} : steady (spHello a0 s).2 = steady s := by
  unfold spHello
  split <;> simp

/-! ### Tick -/

@[simp] theorem steady_beatEvent {s : State} {a0} : steady (beatEvent a0 s) = steady s := (rfl)
@[simp] theorem steady_sendBeat {s : State} {a0} : steady (sendBeat a0 s) = steady s := by simp [sendBeat]
@[simp] theorem steady_sendMarkers {s : State} : steady (sendMarkers s) = steady s := by simp [sendMarkers]
@[simp] theorem steady_beginPoll {s : State} : steady (beginPoll s) = steady s := by simp [beginPoll]

@[simp] theorem steady_lockedArrival {s : State} {a0 a1 a2} : steady (lockedArrival a0 a1 a2 s) = steady s := by
  unfold lockedArrival
  split <;> simp

/-! ### Vector -/

@[simp] theorem steady_writeV {s : State} {a0 a1} : steady (writeV a0 a1 s).state = steady s := (rfl)
@[simp] theorem steady_vfmaBody {s : State} {a0} : steady (vfmaBody a0 s).state = steady s := (rfl)
@[simp] theorem steady_writeLane {s : State} {a0 a1} : steady (writeLane a0 a1 s).state = steady s := (rfl)
@[simp] theorem steady_vsumBody {s : State} {a0} : steady (vsumBody a0 s).state = steady s := (rfl)
@[simp] theorem steady_vec2 {s : State} {a0 a1 a2 a3} : steady (vec2 a0 a1 a2 a3 s) = steady s := by simp [vec2]
@[simp] theorem steady_vmovaBody {s : State} {a0} : steady (vmovaBody a0 s).state = steady s := by simp [vmovaBody]
@[simp] theorem steady_vec1 {s : State} {a0 a1 a2} : steady (vec1 a0 a1 a2 s) = steady s := by simp [vec1]

end Sys2Proof.Machine
end

section
/-! The beat number moves at ticks alone, and LOCKED is left at the loss of the beat alone (R28). -/

namespace Sys2Proof.Machine

open Sys2Proof

/-- Frames, markers, ticks and the loss of the beat, which act on the beat unit, and what changes the host link. -/
def movesSteady : Instr → Bool
  | .beatFrame .. | .beatMarker .. | .beatTick .. | .beatLost .. | .hostLinkDown .. | .hostLinkUp .. => true
  | _ => false

theorem steady_of_next {s t u : State} (h : Host.Outcome.next u = (Host.Outcome.next t : Result)) (hu : steady u = steady s) : steady t = steady s := by
  cases h
  exact hu

theorem steady_of_exec {c : Instr} {s t : State} (h : exec c s = .next t) (hc : movesSteady c = false) : steady t = steady s := by
  cases c with
  | beatFrame => cases hc
  | beatMarker => cases hc
  | beatTick => cases hc
  | beatLost => cases hc
  | hostLinkDown => cases hc
  | hostLinkUp => cases hc
  | _ => exact steady_of_next h (by simp)

/-- What `steady` says of two states, part by part. -/
theorem steady_eq_iff {s t : State} : steady t = steady s ↔
    t.beat.now = s.beat.now ∧ t.beat.last = s.beat.last ∧ (t.beat.mode = .locked ↔ s.beat.mode = .locked) ∧ t.host.memSpace = s.host.memSpace := by
  have hb : (t.beat.mode == .locked) = (s.beat.mode == .locked) ↔ (t.beat.mode = .locked ↔ s.beat.mode = .locked) := by
    rw [Bool.eq_iff_iff, beq_iff_eq, beq_iff_eq]
  simp only [steady, steadyParts, Prod.mk.injEq, hb, and_assoc]

/-! ### Ticks -/

/-- Whatever else runs at a tick, it leaves the unit LOCKED with the tick's number (R28, R36). -/
theorem steady_wholeTick (now : Nat) (b : Beat) (lock : Bool) (s : State) :
    steady (wholeTick now b lock s) = ((b, s.beat.last), true, s.host.memSpace) := by
  have hissue : ∀ u : State, steady (if u.recov.overflow then u else issueAll b u) = steady u := fun u => by split <;> simp
  have hlock : ∀ u : State, steady (if lock then tickLock b (beatEvent 0 u) else u) = steady u := fun u => by split <;> simp
  unfold wholeTick
  dsimp only
  rw [steady_awaitTick, steady_returnTick, steady_beginRestart, steady_bootTick, steady_powerTick, steady_beginPoll, hissue, steady_gyleTick,
    steady_refill, steady_sendMarkers, steady_commitGroups, steady_tickBefore, hlock]
  rfl

theorem wholeTick_locked (now : Nat) (b : Beat) (lock : Bool) (s : State) :
    (wholeTick now b lock s).beat.mode = .locked ∧ (wholeTick now b lock s).beat.now = b := by
  have h := steady_wholeTick now b lock s
  simp only [steady, steadyParts, Prod.mk.injEq, beq_iff_eq] at h
  exact ⟨h.2.1, h.1.1⟩

/-! ### Arrivals -/

/-- An arrival leaves the number and the mode, or makes a unit that is not LOCKED so (R27, R28). -/
theorem arrival_steady_or_locks (c : Cand) (now : Nat) (n : Option Beat) (s : State) :
    steady (arrival c now n s) = steady s ∨ s.beat.mode ≠ .locked ∧ (arrival c now n s).beat.mode = .locked := by
  unfold arrival
  dsimp only
  generalize hv : setCand c _ s = v
  have hs : steady v = steady s := by rw [← hv, steady_setCand]
  have hmode : v.beat.mode = .locked ↔ s.beat.mode = .locked := (steady_eq_iff.1 hs).2.2.1
  split
  · exact .inl hs
  · split
    case h_1 hacq =>
      have hne : s.beat.mode ≠ .locked := fun h => by rw [hmode.2 h] at hacq; cases hacq
      unfold acquire
      split
      · exact .inl (by simpa using hs)
      · dsimp only
        split
        · unfold sourceLocks
          split
          · exact .inr ⟨hne, (wholeTick_locked ..).1⟩
          · exact .inl (by simpa using hs)
        · exact .inl (by simpa using hs)
    · exact .inl (by simpa using hs)
    · exact .inl hs

/-- A flit is acted on after what its arrival does to its link, or only its link changes (R377). -/
theorem recvFlit_steady_or_acts (n ty : Nat) (f : LinkFlit) (act : Nat → List Byte → State → State) (s : State) :
    steady (recvFlit n ty f act s) = steady s ∨ ∃ vc b u, steady u = steady s ∧ recvFlit n ty f act s = act vc b u := by
  unfold recvFlit
  dsimp only
  have hacts : ∀ vc b, ∃ vc' b' u, steady u = steady s ∧ act vc b (fecCorrected n f.corrected s) = act vc' b' u :=
    fun vc b => ⟨vc, b, _, steady_fecCorrected, rfl⟩
  split
  · exact .inl (by simp)
  · split
    · split
      · exact .inr (hacts ..)
      · exact .inl (by simp)
    · split
      · exact .inr (hacts ..)
      · exact .inl (by simp)
    · split
      · exact .inl (by simp)
      · split
        · exact .inl (by simp)
        · exact .inr ⟨_, _, _, by simp, rfl⟩
    · exact .inl (by simp)

theorem frame_or_marker_steady_or_locks {c : Instr} {s t : State} (h : exec c s = .next t)
    (hc : (∃ now f, c = .beatFrame now f) ∨ ∃ l now f, c = .beatMarker l now f) :
    steady t = steady s ∨ s.beat.mode ≠ .locked ∧ t.beat.mode = .locked := by
  obtain ⟨now, f, rfl⟩ | ⟨l, now, f, rfl⟩ := hc
  · obtain rfl := Host.Outcome.next.inj h
    exact arrival_steady_or_locks ..
  · obtain rfl := Host.Outcome.next.inj h
    obtain hs | ⟨vc, b, u, hu, he⟩ := recvFlit_steady_or_acts l.val tyBeat f
      (fun _ b => arrival (.link l) (now - le b 8 4) (some (BitVec.ofNat 48 (le b 0 6)))) s
    · exact .inl hs
    · rw [he]
      obtain ha | ⟨hne, hl⟩ := arrival_steady_or_locks (.link l) (now - le b 8 4) (some (BitVec.ofNat 48 (le b 0 6))) u
      · exact .inl (ha.trans hu)
      · exact .inr ⟨fun h => hne ((steady_eq_iff.1 hu).2.2.1.2 h), hl⟩

/-! ### BEAT_TICK, BEAT_LOST and the host link -/

theorem beatTick_of_not_due {now : Nat} {s : State} (h : tickDue now s = false) : exec (.beatTick now) s = .next s := by
  simp [exec, execBeatTick, beatTick, h]

/-- A tick of a LOCKED unit (R28). -/
theorem beatTick_of_locked {now : Nat} {s : State} (h : tickDue now s = true) (hl : s.beat.mode = .locked) :
    exec (.beatTick now) s = if s.beat.broken then .fault .beatUndefined else .next (wholeTick now (s.beat.now + 1) false s) := by
  simp [exec, execBeatTick, beatTick, h, hl]

/-- The tick with which an ACQUIRING unit enters LOCKED (R27). -/
theorem beatTick_of_acquiring {now : Nat} {s : State} {b : Beat} (h : tickDue now s = true) (ha : s.beat.mode = .acquiring)
    (hb : s.beat.lockAt = some b) : exec (.beatTick now) s = .next (wholeTick now b true s) := by
  simp [exec, execBeatTick, beatTick, h, ha, hb]

theorem beatTick_idles_or_locks {now : Nat} {s t : State} (h : exec (.beatTick now) s = .next t) (hl : s.beat.mode ≠ .locked) :
    t = s ∨ tickDue now s = true ∧ t.beat.mode = .locked := by
  cases hd : tickDue now s with
  | false => exact .inl (Host.Outcome.next.inj ((beatTick_of_not_due hd).symm.trans h)).symm
  | true =>
    simp only [exec, execBeatTick, beatTick, hd, Bool.not_true, Bool.false_eq_true, if_false] at h
    split at h
    · contradiction
    · obtain rfl := Host.Outcome.next.inj h
      exact .inr ⟨rfl, (wholeTick_locked ..).1⟩
    · exact .inl (Host.Outcome.next.inj h).symm

/-- The loss of the beat keeps BEAT_NOW and copies it to BEAT_LAST (R39). -/
theorem steady_beatLoses {now : Nat} {s : State} (h : s.beat.mode = .locked ∧ !s.beat.edgeSince ∧ 16 * s.beat.lossPeriod < now - s.beat.tickAt) :
    steady (beatLoses now s) = ((s.beat.now, s.beat.now), false, s.host.memSpace) := by
  unfold beatLoses
  rw [if_pos h]
  dsimp only
  rw [steady_fatal, steady_closingRecord, steady_planBeatLost, steady_powerBeatLost, steady_loseBeatGroups, steady_recordErrAny, steady_beatEvent]
  rfl

theorem beatLoses_of_not {now : Nat} {s : State} (h : ¬ (s.beat.mode = .locked ∧ !s.beat.edgeSince ∧ 16 * s.beat.lossPeriod < now - s.beat.tickAt)) :
    beatLoses now s = s := if_neg h

/-- Neither end of the host link touches the beat. -/
theorem hostLink_keeps_beat {c : Instr} {s t : State} (h : exec c s = .next t)
    (hc : (∃ d, c = .hostLinkDown d) ∨ ∃ g, c = .hostLinkUp g) :
    t.beat.now = s.beat.now ∧ (t.beat.mode = .locked ↔ s.beat.mode = .locked) := by
  have hbeat : ∀ {u : State} {f : HostIf → HostIf}, steady u = steady (updHost f s) →
      u.beat.now = s.beat.now ∧ (u.beat.mode = .locked ↔ s.beat.mode = .locked) := fun hu => ⟨(steady_eq_iff.1 hu).1, (steady_eq_iff.1 hu).2.2.1⟩
  obtain ⟨d, rfl⟩ | ⟨g, rfl⟩ := hc
  · obtain rfl := Host.Outcome.next.inj h
    refine hbeat (f := configAfter d) ?_
    unfold hostLinkDown
    dsimp only
    split
    · rfl
    · rw [steady_recordsStop, steady_foldl fun _ _ => steady_hostReqFails, steady_countUp, steady_recordErrAny, steady_ideEnds]
      exact steady_updHost fun _ => rfl
  · obtain rfl := Host.Outcome.next.inj h
    show (hostLinkUp g s).beat.now = _ ∧ _
    unfold hostLinkUp
    split
    · exact hbeat steady_sendDue
    · exact ⟨rfl, Iff.rfl⟩

/-! ### The invariant -/

/-- Every command but a due tick keeps the number of a LOCKED unit, and every one but BEAT_LOST the mode. -/
theorem locked_keeps {c : Instr} {s t : State} (h : exec c s = .next t) (hl : s.beat.mode = .locked)
    (hc : ∀ now, c = .beatTick now → tickDue now s = false) : t.beat.now = s.beat.now ∧ (t.beat.mode ≠ .locked → ∃ now, c = .beatLost now) := by
  have hsteady : steady t = steady s → t.beat.now = s.beat.now ∧ (t.beat.mode ≠ .locked → ∃ now, c = .beatLost now) := fun hs => by
    obtain ⟨hnow, -, hmode, -⟩ := steady_eq_iff.1 hs
    exact ⟨hnow, fun hne => absurd (hmode.2 hl) hne⟩
  have harrival : steady t = steady s ∨ s.beat.mode ≠ .locked ∧ t.beat.mode = .locked → _ := fun ha =>
    hsteady (ha.resolve_right fun hr => hr.1 hl)
  cases c with
  | beatFrame now f => exact harrival (frame_or_marker_steady_or_locks h (.inl ⟨_, _, rfl⟩))
  | beatMarker l now f => exact harrival (frame_or_marker_steady_or_locks h (.inr ⟨_, _, _, rfl⟩))
  | beatTick now =>
    obtain rfl := Host.Outcome.next.inj ((beatTick_of_not_due (hc now rfl)).symm.trans h)
    exact hsteady rfl
  | beatLost now =>
    obtain rfl : beatLoses now s = t := Host.Outcome.next.inj h
    refine ⟨?_, fun _ => ⟨now, rfl⟩⟩
    by_cases hlost : s.beat.mode = .locked ∧ !s.beat.edgeSince ∧ 16 * s.beat.lossPeriod < now - s.beat.tickAt
    · exact congrArg (fun k => k.1.1) (steady_beatLoses hlost)
    · rw [beatLoses_of_not hlost]
  | hostLinkDown d =>
    obtain ⟨hnow, hmode⟩ := hostLink_keeps_beat h (.inl ⟨d, rfl⟩)
    exact ⟨hnow, fun hne => absurd (hmode.2 hl) hne⟩
  | hostLinkUp g =>
    obtain ⟨hnow, hmode⟩ := hostLink_keeps_beat h (.inr ⟨g, rfl⟩)
    exact ⟨hnow, fun hne => absurd (hmode.2 hl) hne⟩
  | _ => exact hsteady (steady_of_exec h rfl)

/-- Whether a command is a frame, a marker or a due tick. -/
def entersLocked (c : Instr) (s : State) : Prop :=
  (∃ now f, c = .beatFrame now f) ∨ (∃ l now f, c = .beatMarker l now f) ∨ ∃ now, c = .beatTick now ∧ tickDue now s = true

/-- A unit that is not LOCKED keeps its number and stays so, or a frame, marker or tick makes it LOCKED. -/
theorem not_locked_keeps_or_enters {c : Instr} {s t : State} (h : exec c s = .next t) (hl : s.beat.mode ≠ .locked) :
    (t.beat.now = s.beat.now ∧ t.beat.mode ≠ .locked) ∨ (t.beat.mode = .locked ∧ entersLocked c s) := by
  have hsteady : steady t = steady s → t.beat.now = s.beat.now ∧ t.beat.mode ≠ .locked := fun hs => by
    obtain ⟨hnow, -, hmode, -⟩ := steady_eq_iff.1 hs
    exact ⟨hnow, fun hlt => hl (hmode.1 hlt)⟩
  cases c with
  | beatFrame now f =>
    exact (frame_or_marker_steady_or_locks h (.inl ⟨_, _, rfl⟩)).imp hsteady fun hr => ⟨hr.2, .inl ⟨_, _, rfl⟩⟩
  | beatMarker l now f =>
    exact (frame_or_marker_steady_or_locks h (.inr ⟨_, _, _, rfl⟩)).imp hsteady fun hr => ⟨hr.2, .inr (.inl ⟨_, _, _, rfl⟩)⟩
  | beatTick now =>
    exact (beatTick_idles_or_locks h hl).imp (fun he => hsteady (by rw [he])) fun hr => ⟨hr.2, .inr (.inr ⟨now, rfl, hr.1⟩)⟩
  | beatLost now =>
    obtain rfl : beatLoses now s = t := Host.Outcome.next.inj h
    rw [beatLoses_of_not fun hlost => hl hlost.1]
    exact .inl ⟨rfl, hl⟩
  | hostLinkDown d =>
    obtain ⟨hnow, hmode⟩ := hostLink_keeps_beat h (.inl ⟨d, rfl⟩)
    exact .inl ⟨hnow, fun hlt => hl (hmode.1 hlt)⟩
  | hostLinkUp g =>
    obtain ⟨hnow, hmode⟩ := hostLink_keeps_beat h (.inr ⟨g, rfl⟩)
    exact .inl ⟨hnow, fun hlt => hl (hmode.1 hlt)⟩
  | _ => exact .inl (hsteady (steady_of_exec h rfl))

/-- Settles O26: `steady` is what every other command leaves as it was, and each command that moves it is looked at by itself. -/
theorem onlyTicksMoveTheBeat : Obligations.OnlyTicksMoveTheBeat := by
  unfold Obligations.OnlyTicksMoveTheBeat
  intro c s t h
  refine ⟨fun hl => ⟨?_, locked_keeps h hl⟩, fun hl hmoved => ?_⟩
  · rintro ⟨now, rfl, hdue⟩
    rw [beatTick_of_locked hdue hl] at h
    split at h
    · cases h
    · obtain rfl := Host.Outcome.next.inj h
      exact wholeTick_locked ..
  · obtain ⟨hnow, hmode⟩ | hlocks := not_locked_keeps_or_enters h hl
    · exact absurd hmoved (not_or.2 ⟨hmode, not_not.2 hnow⟩)
    · exact hlocks

end Sys2Proof.Machine
end

section
/-! Comparing beats (R35), and how the validation of a group ends (R57, R516). -/

namespace Sys2Proof.Machine

open Sys2Proof

theorem grp_setGrp (g k : Nat) (x : Group) (s : State) : grp (setGrp g x s) k = if g = k then x else grp s k := by
  simp [grp, mget_mset]

@[simp] theorem grp_setGrp_same (g : Nat) (x : Group) (s : State) : grp (setGrp g x s) g = x := by simp [grp_setGrp]

theorem viaBar_of_reaches {m : Master} {s : State} {act : State → State} (h : reaches m s = true) : viaBar m act s = act s := if_pos h

/-- A group that ends is DONE with the result, page and code that it ends with (R63). -/
theorem grp_endGroup (g : Nat) (r : GResult) (page : Nat) (c : Code) (s : State) :
    grp (endGroup g r page c s) g = { grp s g with st := .done, res := r, page := page, code := c } := grp_setGrp_same ..

/-! ### Comparing beats (R35) -/

theorem beat_sub_toNat (c b : Beat) : (c - b).toNat = (c.toNat + 2 ^ 48 - b.toNat) % 2 ^ 48 := by
  rw [BitVec.toNat_sub]
  have := b.isLt
  congr 1
  omega

theorem inFuture_iff (c b : Beat) : inFuture c b = true ↔ 1 ≤ (c.toNat + 2 ^ 48 - b.toNat) % 2 ^ 48 ∧ (c.toNat + 2 ^ 48 - b.toNat) % 2 ^ 48 ≤ 2 ^ 47 - 1 := by
  rw [← beat_sub_toNat, inFuture, Bool.and_eq_true, decide_eq_true_eq, decide_eq_true_eq]

/-- An OPEN group whose arm comes too late ends LATE (R35, R57 step 3). -/
theorem armGroup_of_late {m : Master} {s : State} (hopen : (grp s (sel s m).1).st = .opened) (hlate : armLate s (grp s (sel s m).1).commit = true) :
    armGroup m s = endPlain (sel s m).1 .late s := by
  simp [armGroup, hopen, hlate]

/-- Settles O49: the engine's comparison is on the difference modulo 2^48, and a group that it finds passed ends LATE. -/
theorem beatsAreComparedModulo : Obligations.BeatsAreComparedModulo := by
  unfold Obligations.BeatsAreComparedModulo
  refine ⟨inFuture_iff, fun b => ?_, fun m s => ?_⟩
  · simp [inFuture]
  · intro g d hreach hopen hpassed
    have hlate : armLate s (grp s g).commit = true := by
      have hnot : inFuture (grp s g).commit (beatNow s) = false := by
        rw [← Bool.not_eq_true, inFuture_iff]
        exact hpassed
      simp [armLate, hnot]
    have hend : grp (armGroup m s) g = { grp s g with st := .done, res := .late, page := 0, code := E.late } := by
      rw [armGroup_of_late hopen hlate]
      exact grp_endGroup ..
    exact ⟨armGroup m s, congrArg _ (viaBar_of_reaches hreach), by rw [hend], by rw [hend], by rw [hend]⟩

/-! ### A page of an FCU that restarts (R516) -/

/-- Group 0 validates the clock page of field 0, whose FCU restarts. -/
def restartingState : State :=
  { State.reset with
    groups := [(0, { groupReset with st := .validating, pages := [fieldPage 0 1] })]
    boot := { State.reset.boot with restart := some ⟨2, 0, [], true⟩ } }

theorem restartingState_page_good : pageBad restartingState (grp restartingState 0) (fieldPage 0 1) = none := by decide +kernel

theorem restartingState_page_lost : (grp restartingState 0).pages.find? (pageRestarts restartingState) = some (fieldPage 0 1) := by decide +kernel

/-- No page of the group rejects. -/
def noneRejects (s : State) (g : Nat) : Prop := ∀ p ∈ (grp s g).pages, pageBad s (grp s g) p = none

theorem rejections_eq_nil {s : State} {g : Nat} (h : noneRejects s g) :
    ((grp s g).pages.filterMap fun p => (pageBad s (grp s g) p).map (p, ·)) = [] :=
  List.filterMap_eq_nil_iff.2 fun p hp => by rw [h p hp]; rfl

/-- A page of an FCU that restarts is lost to a group whose validation ends, which ends PAGE_LOST (R516). -/
theorem validationDone_loses {g p : Nat} {s : State} (hst : (grp s g).st = .validating) (hgood : noneRejects s g)
    (hlost : (grp s g).pages.find? (pageRestarts s) = some p) : validationDone g s = endGroup g .pageLost p E.pageLost s := by
  simp only [validationDone, hst, ne_eq, not_true_eq_false, if_false, rejections_eq_nil hgood, hlost]

/-- With no FCU of its pages restarting, the group is ARMED, an immediate one IRREVOCABLE (R57 step 3, R61). -/
theorem validationDone_arms {g : Nat} {s : State} (hst : (grp s g).st = .validating) (hgood : noneRejects s g)
    (hruns : ∀ p ∈ (grp s g).pages, pageRestarts s p = false) :
    validationDone g s = setGrp g { grp s g with st := if (grp s g).isNow then .irrevocable else .armed } s := by
  have hkept : (grp s g).pages.find? (pageRestarts s) = none := List.find?_eq_none.2 fun p hp => by simp [hruns p hp]
  simp only [validationDone, hst, ne_eq, not_true_eq_false, if_false, rejections_eq_nil hgood, hkept]

/-- Refutes O24: its clause of a validation without a rejection leaves out R516. Where the FCU of a group's page restarts the page is lost to
the group, which ends PAGE_LOST though no page rejects. With none restarting the clause holds (`validationDone_arms`). -/
theorem not_transactionGroupsLive : ¬ Obligations.TransactionGroupsLive := by
  unfold Obligations.TransactionGroupsLive
  intro h
  have hgood : noneRejects restartingState 0 := fun p hp => by
    obtain rfl : p = fieldPage 0 1 := List.mem_singleton.1 hp
    exact restartingState_page_good
  obtain ⟨-, -, -, -, -, -, -, -, -, -, -, -, -, -, hvalidates, -, -⟩ := h .mc restartingState rfl
  obtain ⟨t, hstep, -, hgrp⟩ := hvalidates 0 rfl hgood
  obtain rfl : validationDone 0 restartingState = t := Host.Outcome.next.inj hstep
  rw [validationDone_loses (g := 0) rfl hgood restartingState_page_lost] at hgrp
  exact absurd ((congrArg Group.st (grp_endGroup ..)).symm.trans (congrArg Group.st hgrp)) (by decide)

end Sys2Proof.Machine
end

section
/-! SUPPORT. What shadows, commits and recorded errors do to the registers (R51, R52, R53, R57). -/

namespace Sys2Proof.Machine

open Sys2Proof

/-! ### Maps and bits -/

theorem mfind_mdrop {α : Type} (q : Nat → Bool) (m : Map α) (k : Nat) : mfind (mdrop q m) k = if q k then none else mfind m k := by
  induction m with
  | nil => simp [mdrop]
  | cons e m ih =>
    obtain ⟨j, v⟩ := e
    by_cases hj : q j <;> by_cases hk : j = k <;> simp_all [mdrop, mfind]

theorem mfind_eq_none_of_above {α : Type} {b k : Nat} {m : Map α} (h : above b m) (hk : k ≤ b) : mfind m k = none := by
  induction m with
  | nil => rfl
  | cons e m ih =>
    obtain ⟨j, v⟩ := e
    have hne : j ≠ k := by have := h.1; omega
    rw [mfind, if_neg hne, ih h.2]

theorem mdrop_eq_filter {α : Type} (q : Nat → Bool) (m : Map α) : mdrop q m = m.filter fun e => !q e.1 := by
  induction m with
  | nil => rfl
  | cons e m ih =>
    obtain ⟨j, v⟩ := e
    by_cases hj : q j <;> simp [mdrop, hj, ih]

/-- Bits that a mask takes from one word and the others from another. -/
theorem mixed_self (m x : Word) : (x &&& ~~~m) ||| (x &&& m) = x := by
  rw [← BitVec.and_or_distrib_left, BitVec.or_comm, BitVec.or_not_self, BitVec.and_allOnes]

theorem bits_eq_extractLsb' (w : Word) (hi lo : Nat) : bits w hi lo = (w.extractLsb' lo (hi - lo + 1)).toNat := by
  rw [bits, BitVec.extractLsb'_toNat, Nat.shiftRight_eq_div_pow]

/-- A field that lies in the mask reads as in the word the mask takes. -/
theorem bits_mixed {m : Word} {hi lo : Nat} (hm : m.extractLsb' lo (hi - lo + 1) = BitVec.allOnes _) (a b : Word) :
    bits ((a &&& ~~~m) ||| (b &&& m)) hi lo = bits b hi lo := by
  rw [bits_eq_extractLsb', bits_eq_extractLsb']
  congr 1
  apply BitVec.eq_of_getLsbD_eq
  intro i hi
  have hmi : m.getLsbD (lo + i) = true := by
    have := congrArg (BitVec.getLsbD · i) hm
    simpa [BitVec.getLsbD_extractLsb', hi] using this
  have hlt : lo + i < 32 := BitVec.lt_of_getLsbD hmi
  simp only [BitVec.getLsbD_extractLsb', BitVec.getLsbD_or, BitVec.getLsbD_and, BitVec.getLsbD_not, hmi]
  simp

theorem bit_withBits_31_self (w : Word) : bit (withBits w 31 31 1) 31 = true := by
  simp [bit, withBits]

theorem bit_withBits_30 (w : Word) : bit (withBits w 30 30 1) 31 = bit w 31 := by
  simp [bit, withBits]

/-- A code under VALID. -/
theorem withBits_valid (c : Code) : withBits (BitVec.ofNat 32 c.toNat) 31 31 1 = BitVec.ofNat 32 (2 ^ 31 + c.toNat) := by
  have hc := c.isLt
  have hlow : BitVec.ofNat 32 c.toNat &&& 0x80000000#32 = 0#32 := by
    apply BitVec.eq_of_toNat_eq
    have := Nat.and_two_pow c.toNat 31
    rw [Nat.testBit_lt_two_pow (by omega)] at this
    simpa [Nat.mod_eq_of_lt (show c.toNat < 4294967296 by omega)] using this
  have hkeep : BitVec.ofNat 32 c.toNat &&& ~~~0x80000000#32 = BitVec.ofNat 32 c.toNat := by
    have := mixed_self 0x80000000#32 (BitVec.ofNat 32 c.toNat)
    rwa [hlow, BitVec.or_zero] at this
  calc withBits (BitVec.ofNat 32 c.toNat) 31 31 1
    _ = (BitVec.ofNat 32 c.toNat &&& ~~~0x80000000#32) ||| 0x80000000#32 := by simp [withBits]
    _ = BitVec.ofNat 32 c.toNat + 0x80000000#32 := by rw [hkeep, BitVec.add_eq_or_of_and_eq_zero _ _ hlow]
    _ = BitVec.ofNat 32 (2 ^ 31 + c.toNat) := by
      rw [Nat.add_comm, BitVec.ofNat_add]
      norm_num

/-! ### Shadows -/

theorem shadow_setShadow {p q a b : Nat} (v : Word) (s : State) (ha : a < 4096) (hb : b < 4096) :
    shadow (setShadow p a v s) q b = if p = q ∧ a = b then v else shadow s q b := by
  have hkey : regKey p a = regKey q b ↔ p = q ∧ a = b := regKey_inj ha hb
  have hlive : live (setShadow p a v s) q b = live s q b := rfl
  by_cases hq : p = q ∧ a = b
  · obtain ⟨rfl, rfl⟩ := hq
    rw [if_pos ⟨rfl, rfl⟩, shadow, hlive]
    by_cases hv : v = live s p a <;> simp [setShadow, hv, mfind_mdel, mfind_mput]
  · have hne : regKey p a ≠ regKey q b := fun h => hq (hkey.1 h)
    rw [if_neg hq, shadow, shadow, hlive]
    by_cases hv : v = live s p a <;> simp [setShadow, hv, mfind_mdel, mfind_mput, hne]

theorem live_congr {s t : State} (h : t.live = s.live) (q a : Nat) : live t q a = live s q a := by rw [live, live, h]

/-! ### Commits (R52, R57 step 6) -/

/-- A shadow's RW fields become live. -/
def commitEntry (p : Nat) (s : State) (e : Nat × Word) : State :=
  match regAt p (e.1 % 4096) with
  | some r => setLive p (e.1 % 4096) ((live s p (e.1 % 4096) &&& ~~~accMask [.rw] r) ||| (e.2 &&& accMask [.rw] r)) s
  | none => s

theorem commitPage_eq (p : Nat) (s : State) : commitPage p s = reloadShadows p ((pageShadows p s).foldl (commitEntry p) s) := rfl

theorem live_commitEntry {p a : Nat} {k : Nat} {r : RegRow} (v : Word) (s : State) (hk : k / 4096 = p) (ha : a < 4096) (hr : regAt p a = some r) :
    live (commitEntry p s (k, v)) p a = if k = regKey p a then (live s p a &&& ~~~accMask [.rw] r) ||| (v &&& accMask [.rw] r) else live s p a := by
  have hkey : k = regKey p a ↔ k % 4096 = a := by unfold regKey; omega
  unfold commitEntry
  dsimp only
  by_cases h : k % 4096 = a
  · rw [h, hr, if_pos (hkey.2 h)]
    exact live_setLive_same ..
  · rw [if_neg fun e => h (hkey.1 e)]
    split
    · rw [live_setLive _ _ (by omega) ha, if_neg fun e => h e.2]
    · rfl

theorem live_foldl_commitEntry {p a : Nat} {r : RegRow} {l : Map Word} (s : State) (hl : rising l = true) (hp : ∀ e ∈ l, e.1 / 4096 = p)
    (ha : a < 4096) (hr : regAt p a = some r) :
    live (l.foldl (commitEntry p) s) p a =
      (live s p a &&& ~~~accMask [.rw] r) ||| ((mfind l (regKey p a)).getD (live s p a) &&& accMask [.rw] r) := by
  induction l generalizing s with
  | nil => exact (mixed_self ..).symm
  | cons e l ih =>
    obtain ⟨k, v⟩ := e
    obtain ⟨habove, hrise⟩ := (rising_cons k v l).1 hl
    have hk := live_commitEntry v s (hp _ List.mem_cons_self) ha hr
    rw [List.foldl_cons, ih _ hrise fun e he => hp e (List.mem_cons_of_mem _ he), hk, mfind]
    by_cases h : k = regKey p a
    · rw [if_pos h, if_pos h, mfind_eq_none_of_above habove h.ge]
      exact mixed_self ..
    · rw [if_neg h, if_neg h]

/-- A page's commit gives the RW fields of a register their shadow values and keeps the others (R52). -/
theorem live_commitPage {p a : Nat} {r : RegRow} {s : State} (hs : rising s.shadow = true) (ha : a < 4096) (hr : regAt p a = some r) :
    live (commitPage p s) p a = (live s p a &&& ~~~accMask [.rw] r) ||| (shadow s p a &&& accMask [.rw] r) := by
  have hpage : pageShadows p s = mdrop (fun k => !(k / 4096 == p)) s.shadow := by simp [pageShadows, mdrop_eq_filter]
  have hfind : mfind (pageShadows p s) (regKey p a) = mfind s.shadow (regKey p a) := by
    have hp : regKey p a / 4096 = p := by unfold regKey; omega
    simp [hpage, mfind_mdrop, hp]
  have hmem : ∀ e ∈ pageShadows p s, e.1 / 4096 = p := fun e he => by simpa using (List.mem_filter.1 he).2
  have hlive : live (commitPage p s) p a = live ((pageShadows p s).foldl (commitEntry p) s) p a := by
    rw [commitPage_eq]
    rfl
  rw [hlive, live_foldl_commitEntry s (hpage ▸ rising_mdrop _ hs) hmem ha hr, hfind, shadow]

/-! ### Recording errors (R51) -/

/-- The state without what an error's record can change beside the registers: the host interface, what leaves the engine, and the
environment's words. -/
def offRegs (s : State) : State := { s with live := [], host := .reset, out := [], freeCount := 0 }

theorem offRegs_foldl {α : Type} {f : State → α → State} (h : ∀ s x, offRegs (f s x) = offRegs s) (l : List α) (s : State) :
    offRegs (l.foldl f s) = offRegs s := by
  induction l generalizing s with
  | nil => rfl
  | cons x l ih => rw [List.foldl_cons, ih, h]

theorem offRegs_sendDue (s : State) : offRegs (sendDue s) = offRegs s := by
  unfold sendDue
  split
  · exact offRegs_foldl (fun s v => by split <;> rfl) ..
  · rfl

theorem offRegs_raiseIrq (v : Nat) (s : State) : offRegs (raiseIrq v s) = offRegs s := by
  unfold raiseIrq
  dsimp only
  split
  · rfl
  · split
    · exact offRegs_sendDue _
    · rfl

theorem offRegs_recordErr (p : Nat) (c : Code) (info : Word) (s : State) : offRegs (recordErr p c info s) = offRegs s := by
  unfold recordErr
  split
  · rfl
  · dsimp only
    split
    · rfl
    · exact offRegs_raiseIrq ..

theorem offRegs_recordErrAny (p : Nat) (c : Code) (s : State) : offRegs (recordErrAny p c s) = offRegs s := offRegs_recordErr ..

theorem live_sendDue (s : State) : (sendDue s).live = s.live := by
  have hfold : ∀ (go : BitVec 4) (l : List Nat) (t : State),
      (l.foldl (fun s v => if bit go v then emit (.msix v (s.host.msix.getD v ⟨0, 0⟩)) s else s) t).live = t.live := by
    intro go l
    induction l with
    | nil => exact fun _ => rfl
    | cons v l ih => intro t; rw [List.foldl_cons, ih]; split <;> rfl
  unfold sendDue
  split
  · exact hfold ..
  · rfl

/-- Raising a vector changes no register but HI_IRQ_STATUS. -/
theorem live_raiseIrq (v : Nat) (s : State) {q a : Nat} (ha : a < 4096) (hne : a ≠ 0x800) : live (raiseIrq v s) q a = live s q a := by
  have hset : ∀ w, live (setLive pIrq 0x800 w s) q a = live s q a := fun w => by
    rw [live_setLive _ _ (by decide) ha, if_neg fun h => hne h.2.symm]
  unfold raiseIrq
  dsimp only
  split
  · rfl
  · split
    · rw [live_congr (live_sendDue _)]
      exact hset _
    · exact hset _

theorem live_recordErr_first {p : Nat} {c : Code} {info : Word} {s : State} {a : Nat} (h : errValid s p = false) (ha : a < 4096) (hne : a ≠ 0x800) :
    live (recordErr p c info s) p a = if a = 0x14 then info else if a = 0x10 then BitVec.ofNat 32 (2 ^ 31 + c.toNat) else live s p a := by
  have hset : live (setLive p 0x14 info (setLive p 0x10 (withBits (BitVec.ofNat 32 c.toNat) 31 31 1) s)) p a =
      if a = 0x14 then info else if a = 0x10 then BitVec.ofNat 32 (2 ^ 31 + c.toNat) else live s p a := by
    rw [live_setLive _ _ (by decide) ha, live_setLive _ _ (by decide) ha, withBits_valid]
    simp [eq_comm]
  unfold recordErr
  rw [if_neg (by simp [h])]
  dsimp only
  split
  · exact hset
  · rw [live_raiseIrq _ _ ha hne, hset]

/-- A page that records an error shows VALID (R51). -/
theorem errValid_recordErr (p : Nat) (c : Code) (info : Word) (s : State) : errValid (recordErr p c info s) p = true := by
  by_cases h : errValid s p = true
  · rw [recordErr, if_pos h, errValid, live_setLive_same, bit_withBits_30]
    exact h
  · have hc := c.isLt
    rw [errValid, live_recordErr_first (by simpa using h) (by decide) (by decide), ← withBits_valid]
    exact bit_withBits_31_self _

/-- The first error that a page records stands in BLK_ERR under VALID (R51). -/
theorem live_recordErr_code {p : Nat} {c : Code} {info : Word} {s : State} (h : errValid s p = false) :
    live (recordErr p c info s) p 0x10 = BitVec.ofNat 32 (2 ^ 31 + c.toNat) := live_recordErr_first h (by decide) (by decide)

/-- What the first error adds stands in BLK_ERRINFO (R51). -/
theorem live_recordErr_info {p : Nat} {c : Code} {info : Word} {s : State} (h : errValid s p = false) :
    live (recordErr p c info s) p 0x14 = info := live_recordErr_first h (by decide) (by decide)

end Sys2Proof.Machine
end

section
/-! Accesses of the registers (R42, R46, R49 to R56, R65). -/

namespace Sys2Proof.Machine

open Sys2Proof

/-! ### Fields of a word -/

theorem getLsbD_fieldMask (hi lo i : Nat) :
    (BitVec.ofNat 32 ((2 ^ (hi - lo + 1) - 1) * 2 ^ lo)).getLsbD i = decide (i < 32 ∧ lo ≤ i ∧ i - lo < hi - lo + 1) := by
  rw [BitVec.getLsbD_ofNat, Nat.testBit_mul_two_pow, Nat.testBit_two_pow_sub_one]
  simp only [Bool.decide_and]

/-- A word with one field set shows that field's bits there, and its own elsewhere. -/
theorem getLsbD_withBits (w : Word) {hi lo v : Nat} (i : Nat) :
    (withBits w hi lo v).getLsbD i = if lo ≤ i ∧ i - lo < hi - lo + 1 then decide (i < 32) && v.testBit (i - lo) else w.getLsbD i := by
  unfold withBits
  simp only [BitVec.getLsbD_or, BitVec.getLsbD_and, BitVec.getLsbD_not, getLsbD_fieldMask]
  rw [BitVec.getLsbD_ofNat, Nat.testBit_mul_two_pow]
  by_cases h32 : i < 32
  · by_cases hin : lo ≤ i ∧ i - lo < hi - lo + 1
    · have hd : decide (i < 32 ∧ lo ≤ i ∧ i - lo < hi - lo + 1) = true := decide_eq_true ⟨h32, hin⟩
      rw [if_pos hin, hd]
      simp [h32, hin.1]
    · have hd : decide (i < 32 ∧ lo ≤ i ∧ i - lo < hi - lo + 1) = false := decide_eq_false fun h => hin h.2
      rw [if_neg hin, hd]
      simp [h32]
  · simp [h32, BitVec.getLsbD_of_ge w i (by omega)]

theorem bits_withBits (w : Word) {hi lo v : Nat} (hhi : hi < 32) (hlo : lo ≤ hi) (hv : v < 2 ^ (hi - lo + 1)) : bits (withBits w hi lo v) hi lo = v := by
  apply Nat.eq_of_testBit_eq
  intro i
  rw [bits, Nat.testBit_mod_two_pow, Nat.testBit_div_two_pow, BitVec.testBit_toNat, getLsbD_withBits]
  by_cases hi' : i < hi - lo + 1
  · simp [hi', show i + lo < 32 by omega]
  · have hge : 2 ^ (hi - lo + 1) ≤ 2 ^ i := Nat.pow_le_pow_right (by decide) (by omega)
    simp [hi', Nat.testBit_lt_two_pow (lt_of_lt_of_le hv hge)]

/-- Clearing the lower half of a word leaves the upper half. -/
theorem toNat_withBits_low (w : Word) : (withBits w 15 0 0).toNat = 2 ^ 16 * (w.toNat / 2 ^ 16) := by
  apply Nat.eq_of_testBit_eq
  intro i
  rw [BitVec.testBit_toNat, getLsbD_withBits, Nat.testBit_two_pow_mul, Nat.testBit_div_two_pow, BitVec.testBit_toNat]
  by_cases hi : i < 16
  · simp [hi]
  · simp [hi, show i - 16 + 16 = i by omega, show 16 ≤ i by omega]

/-- A word cleared in both halves is 0. -/
theorem withBits_halves (w : Word) : withBits (withBits w 31 16 0) 15 0 0 = 0 := by
  apply BitVec.eq_of_getLsbD_eq
  intro i hi
  rw [getLsbD_withBits, getLsbD_withBits]
  by_cases h : i < 16
  · simp [h]
  · simp [h, show 16 ≤ i by omega, show i - 16 < 16 by omega]

/-- CNET_LAST_DROP's fields stand side by side (R65). -/
theorem lastDrop_word {m p o : Nat} (hp : p < 2 ^ 14) (ho : o < 4096) :
    withBits (withBits (BitVec.ofNat 32 o) 31 28 m) 27 14 p = BitVec.ofNat 32 (2 ^ 28 * m + 2 ^ 14 * p + o) := by
  apply BitVec.eq_of_getLsbD_eq
  intro i hi
  rw [getLsbD_withBits, getLsbD_withBits, BitVec.getLsbD_ofNat, BitVec.getLsbD_ofNat, Nat.add_assoc,
    Nat.testBit_two_pow_mul_add _ (by omega), Nat.testBit_two_pow_mul_add _ (by omega)]
  by_cases h14 : i < 14
  · simp [hi, h14, show i < 28 by omega, show ¬ 14 ≤ i by omega, show ¬ 28 ≤ i by omega]
  · by_cases h28 : i < 28
    · simp [hi, h14, h28, show 14 ≤ i by omega, show i - 14 < 14 by omega]
    · simp [hi, h28, show 14 ≤ i by omega, show ¬ i - 14 < 14 by omega, show 28 ≤ i by omega, show i - 28 < 4 by omega]

/-! ### Discarded accesses (R46, R49, R65) -/

theorem liveF_countUp {p off hi lo k : Nat} (s : State) (hhi : hi < 32) (hlo : lo ≤ hi) :
    liveF (countUp p off hi lo k s) p off hi lo = Nat.min (2 ^ (hi - lo + 1) - 1) (liveF s p off hi lo + k) := by
  have hpos : 0 < 2 ^ (hi - lo + 1) := Nat.two_pow_pos _
  have hlt : Nat.min (2 ^ (hi - lo + 1) - 1) (liveF s p off hi lo + k) < 2 ^ (hi - lo + 1) := by
    have := Nat.min_le_left (2 ^ (hi - lo + 1) - 1) (liveF s p off hi lo + k)
    change min _ _ < _
    omega
  rw [countUp, setLiveF, liveF, live_setLive_same]
  exact bits_withBits _ hhi hlo hlt

/-- The last drop is named without a change of another register. -/
theorem live_lastDrop (m p o : Nat) (s : State) {q a : Nat} (ha : a < 4096) (hne : a ≠ 0x804) : live (lastDrop m p o s) q a = live s q a := by
  rw [lastDrop, live_setLive _ _ (by decide) ha, if_neg fun h => hne h.2.symm]

theorem live_lastDrop_same {m p o : Nat} (s : State) (hp : p < 2 ^ 14) (ho : o < 4096) :
    live (lastDrop m p o s) 4 0x804 = BitVec.ofNat 32 (2 ^ 28 * m + 2 ^ 14 * p + o) := by
  rw [lastDrop, live_setLive_same, lastDrop_word hp ho]

/-- A discarded write counts in its half of the counters and is the last drop. -/
theorem drop_counts {m p o : Nat} (s : State) (hi : Bool) (hp : p < 2 ^ 14) (ho : o < 4096) :
    let t := if hi then dropWidth m p o s else dropUnassigned m p o s
    t.shadow = s.shadow ∧ t.cores = s.cores ∧
      liveF t 4 0x800 (if hi then 31 else 15) (if hi then 16 else 0) =
        Nat.min 65535 (liveF s 4 0x800 (if hi then 31 else 15) (if hi then 16 else 0) + 1) ∧
      live t 4 0x804 = BitVec.ofNat 32 (2 ^ 28 * m + 2 ^ 14 * p + o) := by
  cases hi with
  | false =>
    refine ⟨rfl, rfl, ?_, live_lastDrop_same _ hp ho⟩
    exact (congrArg (bits · 15 0) (live_lastDrop _ _ _ _ (by decide) (by decide))).trans (liveF_countUp s (by decide) (by decide))
  | true =>
    refine ⟨rfl, rfl, ?_, live_lastDrop_same _ hp ho⟩
    exact (congrArg (bits · 31 16) (live_lastDrop _ _ _ _ (by decide) (by decide))).trans (liveF_countUp s (by decide) (by decide))

/-! ### A recorded error leaves the engine's other parts (R51) -/

theorem records_error (p : Nat) (c : Code) (s : State) :
    errValid (recordErrAny p c s) p = true ∧ (recordErrAny p c s).shadow = s.shadow ∧ (recordErrAny p c s).cores = s.cores ∧
      (recordErrAny p c s).mem = s.mem ∧ (errValid s p = false → live (recordErrAny p c s) p 0x10 = BitVec.ofNat 32 (2 ^ 31 + c.toNat)) := by
  have hoff := offRegs_recordErrAny p c s
  exact ⟨errValid_recordErr .., (congrArg State.shadow hoff :), (congrArg State.cores hoff :), (congrArg State.mem hoff :), fun h => live_recordErr_code h⟩

/-! ### Writes of the configuration area (R52, R54, R56) -/

theorem noteWindow_of_locked {m : Master} {p o : Nat} {s : State} (h : pageLocked s p = true) : noteWindow m p o s = s := by
  unfold noteWindow
  split
  · exact if_pos h
  · rfl

theorem pageLocked_recordErrAny (p q : Nat) (c : Code) (s : State) : pageLocked (recordErrAny p c s) q = pageLocked s q := by
  have hg : (recordErrAny p c s).groups = s.groups := (congrArg State.groups (offRegs_recordErrAny p c s) :)
  simp only [pageLocked, pageGroup, grp, hg]

/-- Who writes a window of a chain link is noted in that link alone. -/
theorem noteWindow_links (m : Master) (p o : Nat) (s : State) :
    { noteWindow m p o s with links := s.links } = s ∧ ((∀ n, pageKind p ≠ .link n 1) → (noteWindow m p o s).links = s.links) := by
  unfold noteWindow
  split
  · rename_i n hk
    exact ⟨by dsimp only; split <;> rfl, fun h => absurd hk (h n)⟩
  · exact ⟨rfl, fun _ => rfl⟩

theorem shadow_congr {s t : State} (hs : t.shadow = s.shadow) (hl : t.live = s.live) (q a : Nat) : shadow t q a = shadow s q a := by
  rw [shadow, shadow, hs, live_congr hl]

/-- An aligned 32-bit write is what `writeReg` does. -/
theorem registerWrite_w32 {now : Nat} {m : Master} {page : BitVec 14} {off : BitVec 12} {v : BitVec 64} {s : State}
    (hm : reaches m s = true) (hal : off.toNat % 4 = 0) :
    exec (.registerWrite now m page off .w32 v) s = .next (writeReg now m page.toNat off.toNat (BitVec.ofNat 32 v.toNat) s) := by
  change Host.Outcome.next (viaBar m _ s) = _
  rw [viaBar_of_reaches hm, regWrite, if_pos hal]
  rfl

theorem not_isShadowOff_of_isCfg {o : Nat} (h : isCfg o = true) : isShadowOff o = false := by
  simp only [isCfg, isShadowOff, Bool.and_eq_true, Bool.and_eq_false_iff, decide_eq_true_eq, decide_eq_false_iff_not] at h ⊢
  omega

section
variable {now : Nat} {m : Master} {p o : Nat} {v : Word} {r : RegRow} {s : State}

theorem writeReg_cfg (hdark : pageDark s p = false) (hr : regAt p o = some r) (hcfg : isCfg o = true) :
    writeReg now m p o v s = noteWindow m p o (cfgWrite p o r v s) := by
  simp [writeReg, not_isShadowOff_of_isCfg hcfg, hdark, hr, hcfg]

theorem writeReg_cfg_locked (hdark : pageDark s p = false) (hr : regAt p o = some r) (hcfg : isCfg o = true) (hl : pageLocked s p = true) :
    writeReg now m p o v s = recordErrAny p E.txnShadowLocked s := by
  rw [writeReg_cfg hdark hr hcfg, cfgWrite, if_pos hl, noteWindow_of_locked (by rw [pageLocked_recordErrAny, hl])]

theorem writeReg_reserved (hdark : pageDark s p = false) (hr : regAt p o = some r) (hcfg : isCfg o = false) (hs : isShadowOff o = false)
    (hv : v &&& reservedMask r ≠ 0) : writeReg now m p o v s = recordErrAny p E.reservedBit s := by
  simp only [writeReg, hs, hdark, hr, hcfg, Bool.or_false, Bool.false_eq_true, if_false, if_pos hv]

theorem writeReg_unassigned (h : isShadowOff o = true ∨ pageDark s p = true ∨ regAt p o = none) :
    writeReg now m p o v s = dropUnassigned (masterId m) p o s := by
  unfold writeReg
  by_cases hd : (isShadowOff o || pageDark s p) = true
  · rw [if_pos hd]
  · have hr : regAt p o = none := by
      simp only [Bool.or_eq_true, not_or] at hd
      exact (h.resolve_left hd.1).resolve_left hd.2
    rw [if_neg hd, hr]

/-- A write of BLK_ERR with VALID 1 clears it and BLK_ERRINFO (R51). -/
theorem writeReg_errClear (hdark : pageDark s p = false) (hr : regAt p 0x10 = some r) (hres : v &&& reservedMask r = 0) (hv : bit v 31 = true) :
    writeReg now m p 0x10 v s = setLive p 0x10 0 (setLive p 0x14 0 s) := by
  simp [writeReg, isShadowOff, isCfg, hdark, hr, hres, headerWrite, hv]

end

/-- A write of the configuration area changes its shadow, and for a window of a chain link who wrote it (R52). -/
theorem writeReg_cfg_shadow {now : Nat} {m : Master} {p o : Nat} {v : Word} {r : RegRow} {s : State} (ho : o < 4096)
    (hr : regAt p o = some r) (hcfg : isCfg o = true) (hdark : pageDark s p = false) (hl : pageLocked s p = false) (hrw : accMask [.rw] r ≠ 0) :
    let k := accMask [.rw] r ||| reservedMask r
    let t := writeReg now m p o v s
    { t with shadow := s.shadow, links := s.links } = s ∧ ((∀ n, pageKind p ≠ .link n 1) → t.links = s.links) ∧
      shadow t p o = (shadow s p o &&& ~~~k) ||| (v &&& k) ∧ ∀ q a, a < 4096 → q ≠ p ∨ a ≠ o → shadow t q a = shadow s q a := by
  intro k t
  let u := setShadow p o ((shadow s p o &&& ~~~k) ||| (v &&& k)) s
  have ht : t = noteWindow m p o u := by
    simp only [t, u]
    rw [writeReg_cfg hdark hr hcfg, cfgWrite, if_neg (by simp [hl]), if_neg hrw]
  obtain ⟨hframe, hlinks⟩ := noteWindow_links m p o u
  have hshadow : ∀ q a, shadow t q a = shadow u q a := fun q a => by
    rw [ht]
    exact shadow_congr (congrArg State.shadow hframe) (congrArg State.live hframe) q a
  refine ⟨?_, fun h => ht ▸ hlinks h, ?_, fun q a ha hne => ?_⟩
  · rw [ht]
    exact congrArg (fun w : State => { w with shadow := s.shadow, links := s.links }) hframe
  · rw [hshadow, shadow_setShadow _ _ ho ho, if_pos ⟨rfl, rfl⟩]
  · rw [hshadow, shadow_setShadow _ _ ho ha, if_neg]
    rintro ⟨rfl, rfl⟩
    exact hne.elim (fun h => h rfl) fun h => h rfl

/-! ### Accesses of other widths (R46) -/

/-- A write of a width or an alignment that R46 does not take is discarded. -/
theorem registerWrite_misfit {now : Nat} {m : Master} {page : BitVec 14} {off : BitVec 12} {x : Width} {v : BitVec 64} {s : State}
    (hm : reaches m s = true) (hx : (x = .w32 → off.toNat % 4 ≠ 0) ∧ (x = .w64 → off.toNat % 8 ≠ 0)) :
    exec (.registerWrite now m page off x v) s = .next (dropWidth (masterId m) page.toNat off.toNat s) := by
  change Host.Outcome.next (viaBar m _ s) = _
  rw [viaBar_of_reaches hm]
  obtain ⟨h32, h64⟩ := hx
  cases x with
  | w32 => rw [regWrite, if_neg (h32 rfl)]
  | w64 => rw [regWrite, if_neg (h64 rfl)]
  | _ => rfl

/-- Whether a master reaches the registers is not for a register write to change. -/
theorem reaches_writeReg (k : Master) (now : Nat) (m : Master) (p o : Nat) (v : Word) (s : State) : reaches k (writeReg now m p o v s) = reaches k s := by
  obtain ⟨-, -, -, hmem⟩ := steady_eq_iff.1 (steady_writeReg (s := s) (a0 := now) (a1 := m) (a2 := p) (a3 := o) (a4 := v))
  rw [reaches, reaches, hmem]

/-- A 64-bit write is its two halves, the lower first (R46). -/
theorem registerWrite_w64 {now : Nat} {m : Master} {page : BitVec 14} {off : BitVec 12} {v : BitVec 64} {s : State}
    (hm : reaches m s = true) (hal : off.toNat % 8 = 0) :
    ∃ t, exec (.registerWrite now m page off .w32 (BitVec.ofNat 64 (v.toNat % 2 ^ 32))) s = .next t ∧
      exec (.registerWrite now m page off .w64 v) s =
        exec (.registerWrite now m page (off + 4) .w32 (BitVec.ofNat 64 (v.toNat / 2 ^ 32))) t := by
  have hv := v.isLt
  have hoff : (off + 4).toNat = off.toNat + 4 := by
    have := off.isLt
    rw [BitVec.toNat_add]
    change (off.toNat + 4) % 4096 = _
    omega
  have hlow : BitVec.ofNat 32 (BitVec.ofNat 64 (v.toNat % 2 ^ 32)).toNat = v.setWidth 32 := by
    apply BitVec.eq_of_toNat_eq
    simp only [BitVec.toNat_ofNat, BitVec.toNat_setWidth]
    omega
  have hhigh : BitVec.ofNat 32 (BitVec.ofNat 64 (v.toNat / 2 ^ 32)).toNat = BitVec.ofNat 32 (v.toNat / 2 ^ 32) := by
    apply BitVec.eq_of_toNat_eq
    simp only [BitVec.toNat_ofNat]
    omega
  refine ⟨_, registerWrite_w32 hm (by omega), ?_⟩
  rw [registerWrite_w32 (by rw [reaches_writeReg, hm]) (by omega), hoff, hlow, hhigh]
  change Host.Outcome.next (viaBar m _ s) = _
  rw [viaBar_of_reaches hm, regWrite, if_pos hal]

/-! ### Reads (R46, R50, R65) -/

/-- What a read returns goes to the reader's `busOut`. -/
theorem busRead_eq {m : Master} {page : BitVec 14} {off : BitVec 12} {x : Width} {s : State} {q : DWord × State}
    (h : regRead (masterId m) page.toNat off.toNat x s = q) : busRead m page off x s = { q.2 with busOut := mset 0 q.2.busOut (masterId m) q.1 } := by
  rw [busRead, h]

/-- An aligned 32-bit read returns what `readReg` reads, and has its side effects. -/
theorem busRead_w32 {m : Master} {page : BitVec 14} {off : BitVec 12} {s : State} (hal : off.toNat % 4 = 0) :
    let q := readReg (masterId m) page.toNat off.toNat 0xFFFFFFFF s
    busRead m page off .w32 s = { q.2 with busOut := mset 0 q.2.busOut (masterId m) (BitVec.ofNat 64 q.1.toNat) } := by
  intro q
  have hq : q.1.toNat / 2 ^ 0 % 2 ^ 32 = q.1.toNat := by have := q.1.isLt; omega
  have hr : regRead (masterId m) page.toNat off.toNat .w32 s = (BitVec.ofNat 64 q.1.toNat, q.2) := by
    have hw : ¬ (widthBytes .w32 = 0 ∨ off.toNat % widthBytes .w32 ≠ 0) := by simp [widthBytes, hal]
    unfold regRead
    dsimp only
    rw [if_neg hw, if_neg (by decide), hal]
    change (BitVec.ofNat 64 (q.1.toNat / 2 ^ 0 % 2 ^ 32), q.2) = _
    rw [hq]
  exact busRead_eq hr

/-- The pages of a dark field read as 0 and are not cleared (R50). -/
theorem readReg_dark {ms p o : Nat} {k : Word} {s : State} (hd : darkPage s p = true) (h0 : o ≠ 0) (hC : o ≠ 0xC) :
    readReg ms p o k s = (0, s) := by
  have hw : regWord s ms p o = (0, s) := by
    unfold regWord
    repeat' split
    all_goals simp_all
  simp [readReg, hd, hw]

/-- The discard counters of the control network (R65). -/
def discardsRow : RegRow := ⟨0x800, 4, 1, [⟨31, 16, .rc, 0⟩, ⟨15, 0, .rc, 0⟩]⟩

theorem regAt_discards : regAt 4 0x800 = some discardsRow := by decide

/-- A read of the discard counters returns them, and clears those of which it returns a bit. -/
theorem readReg_discards (ms : Nat) (k : Word) (s : State) :
    readReg ms 4 0x800 k s = (live s 4 0x800, readClears 4 0x800 k s) := by
  have hw : regWord s ms 4 0x800 = (live s 4 0x800, s) := by
    unfold regWord
    rw [if_neg (by decide), regAt_discards]
    change (live s 4 0x800 &&& ~~~accMask [.wo] discardsRow, s) = _
    rw [show ~~~accMask [.wo] discardsRow = BitVec.allOnes 32 from rfl, BitVec.and_allOnes]
  simp only [readReg, hw]
  rfl

theorem readClears_discards_all (s : State) : readClears 4 0x800 0xFFFFFFFF s = setLiveF 4 0x800 15 0 0 (setLiveF 4 0x800 31 16 0 s) := rfl
theorem readClears_discards_low (s : State) : readClears 4 0x800 0xFFFF s = setLiveF 4 0x800 15 0 0 s := rfl

/-- A read of BEAT_NOW latches the upper bits for BEAT_NOW_HI. -/
theorem readReg_beatNow (ms : Nat) (k : Word) (s : State) :
    readReg ms 8 0x64 k s = (s.beat.now.setWidth 32, { s with beat := { s.beat with nowHi := BitVec.ofNat 16 (s.beat.now.toNat / 2 ^ 32) } }) := rfl

theorem readReg_beatNowHi (ms : Nat) (k : Word) (s : State) : readReg ms 8 0x68 k s = (s.beat.nowHi.setWidth 32, s) := rfl

/-- What a master has read stands in its `busOut`. -/
theorem mget_busOut_same (s : State) (k : Nat) (v : DWord) : mget 0 { s with busOut := mset 0 s.busOut k v }.busOut k = v := by
  simp

/-- A 32-bit read of the discard counters returns and clears both (R65). -/
theorem discards_read_w32 {m : Master} {s : State} (hm : reaches m s = true) :
    ∃ t, exec (.rcRead m 4 0x800 .w32) s = .next t ∧ mget 0 t.busOut (masterId m) = BitVec.ofNat 64 (live s 4 0x800).toNat ∧
      live t 4 0x800 = 0 ∧ ∀ q a, a < 4096 → q ≠ 4 ∨ a ≠ 0x800 → live t q a = live s q a := by
  refine ⟨busRead m 4 0x800 .w32 s, congrArg Host.Outcome.next (viaBar_of_reaches hm), ?_⟩
  have hread : readReg (masterId m) (4 : BitVec 14).toNat (0x800 : BitVec 12).toNat 0xFFFFFFFF s = (live s 4 0x800, readClears 4 0x800 0xFFFFFFFF s) :=
    readReg_discards ..
  rw [busRead_w32 (by decide), hread, readClears_discards_all]
  refine ⟨mget_busOut_same .., ?_, fun q a ha hne => ?_⟩
  · change live (setLiveF 4 0x800 15 0 0 (setLiveF 4 0x800 31 16 0 s)) 4 0x800 = 0
    simp only [setLiveF, live_setLive_same, withBits_halves]
  · change live (setLiveF 4 0x800 15 0 0 (setLiveF 4 0x800 31 16 0 s)) q a = _
    have hno : ¬ (4 = q ∧ 0x800 = a) := fun h => hne.elim (· h.1.symm) (· h.2.symm)
    rw [setLiveF, live_setLive _ _ (by decide) ha, if_neg hno, setLiveF, live_setLive _ _ (by decide) ha, if_neg hno]

/-- A 16-bit one returns and clears its own half. -/
theorem discards_read_w16 {m : Master} {s : State} (hm : reaches m s = true) :
    ∃ t, exec (.rcRead m 4 0x800 .w16) s = .next t ∧ mget 0 t.busOut (masterId m) = BitVec.ofNat 64 ((live s 4 0x800).toNat % 2 ^ 16) ∧
      (live t 4 0x800).toNat = 2 ^ 16 * ((live s 4 0x800).toNat / 2 ^ 16) := by
  refine ⟨busRead m 4 0x800 .w16 s, congrArg Host.Outcome.next (viaBar_of_reaches hm), ?_⟩
  have hread : regRead (masterId m) 4 0x800 .w16 s =
      (BitVec.ofNat 64 ((live s 4 0x800).toNat / 2 ^ 0 % 2 ^ 16), readClears 4 0x800 0xFFFF s) := by
    change (BitVec.ofNat 64 ((readReg (masterId m) 4 0x800 0xFFFF s).1.toNat / 2 ^ 0 % 2 ^ 16), (readReg (masterId m) 4 0x800 0xFFFF s).2) = _
    rw [readReg_discards]
  rw [busRead_eq (page := 4) (off := 0x800) hread, readClears_discards_low]
  refine ⟨by rw [mget_busOut_same, Nat.pow_zero, Nat.div_one], ?_⟩
  change (live (setLiveF 4 0x800 15 0 0 s) 4 0x800).toNat = _
  rw [setLiveF, live_setLive_same, toNat_withBits_low]

/-- BEAT_NOW and then BEAT_NOW_HI read the 48 bits of one tick (R42). -/
theorem beatNow_read {m : Master} {s : State} (hm : reaches m s = true) :
    ∃ t, exec (.latchRead m 8 0x64 .w32) s = .next t ∧ (mget 0 t.busOut (masterId m)).toNat = s.beat.now.toNat % 2 ^ 32 ∧
      t.beat.nowHi.toNat = s.beat.now.toNat / 2 ^ 32 ∧
      ∃ u, exec (.latchRead m 8 0x68 .w32) t = .next u ∧ (mget 0 u.busOut (masterId m)).toNat = s.beat.now.toNat / 2 ^ 32 := by
  have hnow := s.beat.now.isLt
  have hhi : (BitVec.ofNat 16 (s.beat.now.toNat / 2 ^ 32)).toNat = s.beat.now.toNat / 2 ^ 32 := by
    rw [BitVec.toNat_ofNat]
    omega
  refine ⟨busRead m 8 0x64 .w32 s, congrArg Host.Outcome.next (viaBar_of_reaches hm), ?_⟩
  have hread : readReg (masterId m) (8 : BitVec 14).toNat (0x64 : BitVec 12).toNat 0xFFFFFFFF s = _ := readReg_beatNow (masterId m) 0xFFFFFFFF s
  rw [busRead_w32 (by decide), hread]
  refine ⟨?_, hhi, ?_⟩
  · rw [mget_busOut_same, BitVec.toNat_ofNat, BitVec.toNat_setWidth]
    omega
  · generalize hv : ({ s with beat := { s.beat with nowHi := BitVec.ofNat 16 (s.beat.now.toNat / 2 ^ 32) } } : State) = t
    refine ⟨busRead m 8 0x68 .w32 _, congrArg Host.Outcome.next (viaBar_of_reaches (by subst hv; exact hm)), ?_⟩
    rw [busRead_w32 (by decide)]
    have hread (t : State) : readReg (masterId m) (8 : BitVec 14).toNat (0x68 : BitVec 12).toNat 0xFFFFFFFF t = _ :=
      readReg_beatNowHi (masterId m) 0xFFFFFFFF t
    rw [hread, mget_busOut_same, BitVec.toNat_ofNat, BitVec.toNat_setWidth]
    subst hv
    change (BitVec.ofNat 16 (s.beat.now.toNat / 2 ^ 32)).toNat % 2 ^ 32 % 2 ^ 64 = _
    rw [hhi]
    omega

/-- A read in a dark field returns 0 and clears nothing (R50). -/
theorem dark_read {m : Master} {page : BitVec 14} {off : BitVec 12} {s : State} (hm : reaches m s = true) (hd : darkPage s page.toNat = true)
    (hal : off.toNat % 4 = 0) (h0 : off.toNat ≠ 0) (hC : off.toNat ≠ 0xC) :
    ∃ t, exec (.rcRead m page off .w32) s = .next t ∧ mget 0 t.busOut (masterId m) = 0 ∧ t.live = s.live := by
  refine ⟨busRead m page off .w32 s, congrArg Host.Outcome.next (viaBar_of_reaches hm), ?_⟩
  rw [busRead_w32 hal, readReg_dark hd h0 hC]
  exact ⟨mget_busOut_same .., rfl⟩

/-- Settles O23: each access is one of the cases above. -/
theorem registerAccesses : Obligations.RegisterAccesses := by
  unfold Obligations.RegisterAccesses
  intro now m page off v s p o w v32 records drops hm
  have hp : p < 2 ^ 14 := page.isLt
  have ho : o < 4096 := off.isLt
  have hw32 (hal : o % 4 = 0) : w .w32 = .next (writeReg now m p o v32 s) := registerWrite_w32 hm hal
  have hmisfit {x : Width} (hx : (x = .w32 → o % 4 ≠ 0) ∧ (x = .w64 → o % 8 ≠ 0)) : ∃ t, w x = .next t ∧ drops true t :=
    ⟨_, registerWrite_misfit hm hx, drop_counts s true hp ho⟩
  refine ⟨fun r hal hr hcfg hdark hl hrw => ⟨_, hw32 hal, writeReg_cfg_shadow ho hr hcfg hdark hl hrw⟩,
    fun r hal hr hcfg hdark hl => ⟨_, hw32 hal, ?_⟩,
    fun r hal hr hcfg hs hdark hv => ⟨_, hw32 hal, ?_⟩,
    fun hal h => ⟨_, hw32 hal, ?_⟩,
    hmisfit ⟨nofun, nofun⟩, hmisfit ⟨nofun, nofun⟩, hmisfit ⟨nofun, nofun⟩, fun hal => hmisfit ⟨fun _ => hal, nofun⟩,
    fun hal => hmisfit ⟨nofun, fun _ => hal⟩, registerWrite_w64 hm, fun r hoff hr hdark hres hv => ⟨_, hw32 (by omega), ?_⟩,
    discards_read_w32 hm, discards_read_w16 hm, beatNow_read hm, dark_read hm⟩
  · rw [writeReg_cfg_locked hdark hr hcfg hl]
    exact records_error ..
  · rw [writeReg_reserved hdark hr hcfg hs hv]
    exact records_error ..
  · rw [writeReg_unassigned h]
    exact drop_counts s false hp ho
  · have hbit : bit v32 31 = true := by
      have hlt := v32.isLt
      rw [bit, ← BitVec.testBit_toNat, Nat.testBit_eq_decide_div_mod_eq, decide_eq_true_eq]
      omega
    rw [hoff, writeReg_errClear hdark (hoff ▸ hr) hres hbit]
    refine ⟨live_setLive_same .., ?_, fun q a ha hne => ?_⟩
    · rw [live_setLive _ _ (by decide) (by decide), if_neg (by simp), live_setLive_same]
    · have hne10 : ¬ (p = q ∧ 0x10 = a) := fun h => hne.elim (· h.1.symm) (·.1 h.2.symm)
      have hne14 : ¬ (p = q ∧ 0x14 = a) := fun h => hne.elim (· h.1.symm) (·.2 h.2.symm)
      rw [live_setLive _ _ (by decide) ha, if_neg hne10, live_setLive _ _ (by decide) ha, if_neg hne14]

end Sys2Proof.Machine
end

section
/-! SUPPORT. What leaves the transaction groups and the recovery plan as they were, of what the loss of the beat runs (R39). -/

namespace Sys2Proof.Machine

open Sys2Proof

/-- The transaction groups and the recovery plan. -/
def txnPart (s : State) : Map Group × Option RecPlan := (s.groups, s.recov.plan)

@[simp] theorem txnPart_mk {x0 x1 x2 x3 x4 x5 x6 g x8 x9 x10 x11 x12 x13 x14 x15 x16 x17 x18 x19 x20 x21 x22 x23 x24 x25 x26 x27 x28 x29 x30 x31 x32 x33 x34 x35 x36 x37 x38 x39 x40 x41 x42 x43 r x45 x46} :
    txnPart (State.mk x0 x1 x2 x3 x4 x5 x6 g x8 x9 x10 x11 x12 x13 x14 x15 x16 x17 x18 x19 x20 x21 x22 x23 x24 x25 x26 x27 x28 x29 x30 x31 x32 x33 x34 x35 x36 x37 x38 x39 x40 x41 x42 x43 r x45 x46) = (g, r.plan) := (rfl)

@[simp] theorem txnPart_self (s : State) : (s.groups, s.recov.plan) = txnPart s := (rfl)

@[simp] theorem txnPart_ite {c : Prop} [Decidable c] (s t : State) : txnPart (if c then s else t) = if c then txnPart s else txnPart t := apply_ite ..

@[simp] theorem txnPart_foldl {α : Type} {f : State → α → State} {l : List α} {s : State} (hf : ∀ s x, txnPart (f s x) = txnPart s) :
    txnPart (l.foldl f s) = txnPart s := by
  induction l generalizing s with
  | nil => rfl
  | cons a l ih => exact (ih ..).trans (hf s a)

theorem txnPart_of_eq_snd {α : Type} {q : α × State} {a : α} {t : State} (e : q = (a, t)) : txnPart t = txnPart q.2 := by rw [e]

@[simp] theorem txnPart_freshWord {s : State} : txnPart (freshWord s).2 = txnPart s := (rfl)

@[simp] theorem txnPart_emit {s : State} {a0} : txnPart (emit a0 s) = txnPart s := (rfl)

@[simp] theorem txnPart_setLive {s : State} {a b v} : txnPart (setLive a b v s) = txnPart s := (rfl)

@[simp] theorem txnPart_setLiveF {s : State} {a0 a1 a2 a3 a4} : txnPart (setLiveF a0 a1 a2 a3 a4 s) = txnPart s := (rfl)

@[simp] theorem txnPart_countUp {s : State} {a0 a1 a2 a3 a4} : txnPart (countUp a0 a1 a2 a3 a4 s) = txnPart s := (rfl)

@[simp] theorem txnPart_reloadWindow {s : State} {a0} : txnPart (reloadWindow a0 s) = txnPart s := by simp [reloadWindow]

@[simp] theorem txnPart_reloadShadows {s : State} {a} : txnPart (reloadShadows a s) = txnPart s := (rfl)

@[simp] theorem txnPart_reloadPage {s : State} {a0} : txnPart (reloadPage a0 s) = txnPart s := by
  unfold reloadPage
  split <;> simp

@[simp] theorem txnPart_sendDue {s : State} : txnPart (sendDue s) = txnPart s := by simp [sendDue]

@[simp] theorem txnPart_raiseIrq {s : State} {a0} : txnPart (raiseIrq a0 s) = txnPart s := by simp [raiseIrq]

@[simp] theorem txnPart_recordErr {s : State} {a0 a1 a2} : txnPart (recordErr a0 a1 a2 s) = txnPart s := by simp [recordErr]

@[simp] theorem txnPart_recordErrAny {s : State} {a0 a1} : txnPart (recordErrAny a0 a1 s) = txnPart s := by simp [recordErrAny]

@[simp] theorem txnPart_fatal {s : State} {a0} : txnPart (fatal a0 s) = txnPart s := by simp [fatal]

@[simp] theorem txnPart_setModel {s : State} {a0 a1} : txnPart (setModel a0 a1 s) = txnPart s := (rfl)

@[simp] theorem txnPart_updModel {s : State} {a0 a1} : txnPart (updModel a0 a1 s) = txnPart s := (rfl)

@[simp] theorem txnPart_hostFail {s : State} {a0 a1 a2} : txnPart (hostFail a0 a1 a2 s) = txnPart s := by simp [hostFail]

@[simp] theorem txnPart_updHost {s : State} {f} : txnPart (updHost f s) = txnPart s := (rfl)

@[simp] theorem txnPart_exchWrite {s : State} {a l} : txnPart (exchWrite a l s) = txnPart s := (rfl)

@[simp] theorem txnPart_sendLine {s : State} {a0} : txnPart (sendLine a0 s) = txnPart s := by simp [sendLine]

@[simp] theorem txnPart_issueLines {s : State} {a0} : txnPart (issueLines a0 s) = txnPart s := by
  induction a0 generalizing s with
  | nil => rfl
  | cons q l ih => simp [issueLines, ih]

@[simp] theorem txnPart_hostSend {s : State} {a0 a1 a2 a3 a4 a5} : txnPart (hostSend a0 a1 a2 a3 a4 a5 s) = txnPart s := by
  unfold hostSend
  grind [txnPart_updHost, txnPart_issueLines]

@[simp] theorem txnPart_updServing {s : State} {a0} : txnPart (updServing a0 s) = txnPart s := (rfl)

@[simp] theorem txnPart_setStream {s : State} {a0 a1} : txnPart (setStream a0 a1 s) = txnPart s := (rfl)

@[simp] theorem txnPart_updStream {s : State} {a0 a1} : txnPart (updStream a0 a1 s) = txnPart s := (rfl)

@[simp] theorem txnPart_freeStage {s : State} {a0 a1} : txnPart (freeStage a0 a1 s) = txnPart s := (rfl)

@[simp] theorem txnPart_setInflight {s : State} {a0 a1 a2} : txnPart (setInflight a0 a1 a2 s) = txnPart s := by simp [setInflight]

@[simp] theorem txnPart_flightEnds {s : State} {a0 a1} : txnPart (flightEnds a0 a1 s) = txnPart s := by simp [flightEnds]

@[simp] theorem txnPart_batchEnds {s : State} {a0} : txnPart (batchEnds a0 s) = txnPart s := by
  unfold batchEnds
  split <;> simp

@[simp] theorem txnPart_queueEntry {s : State} {a0} : txnPart (queueEntry a0 s) = txnPart s := (rfl)

@[simp] theorem txnPart_reissue {s : State} {a0 a1 a2} : txnPart (reissue a0 a1 a2 s) = txnPart s := (rfl)

@[simp] theorem txnPart_stepLeaves {s : State} {a0 a1} : txnPart (stepLeaves a0 a1 s) = txnPart s := by
  unfold stepLeaves
  (repeat' split) <;> simp

@[simp] theorem txnPart_setField {s : State} {a0 a1} : txnPart (setField a0 a1 s) = txnPart s := (rfl)

@[simp] theorem txnPart_updField {s : State} {a0 a1} : txnPart (updField a0 a1 s) = txnPart s := (rfl)

@[simp] theorem txnPart_attemptEnds {s : State} {a0} : txnPart (attemptEnds a0 s) = txnPart s := (rfl)

@[simp] theorem txnPart_powerBeatLost {s : State} : txnPart (powerBeatLost s) = txnPart s := txnPart_foldl fun _ _ => by split <;> simp

@[simp] theorem txnPart_recWritten {s : State} : txnPart (recWritten s) = txnPart s := by
  unfold recWritten
  split <;> simp

@[simp] theorem txnPart_lateEnter {s : State} {a0} : txnPart (lateEnter a0 s) = txnPart s := by
  induction a0 generalizing s with
  | nil => rfl
  | cons e l ih => simp [lateEnter, ih]

@[simp] theorem txnPart_sendPieces {s : State} {a0} : txnPart (sendPieces a0 s).2.2 = txnPart s := by
  induction a0 generalizing s with
  | nil => rfl
  | cons p l ih =>
    unfold sendPieces
    split
    · simp
    · simp [ih]
    · split <;> simp [ih]

@[simp] theorem txnPart_endedEntry {s : State} {a0} : txnPart (endedEntry a0 s) = txnPart s := (rfl)

@[simp] theorem txnPart_dropLater {s : State} {a0} : txnPart (dropLater a0 s) = txnPart s := (rfl)

@[simp] theorem txnPart_entriesLost {s : State} {a0 a1} : txnPart (entriesLost a0 a1 s) = txnPart s := by
  unfold entriesLost
  dsimp only
  (repeat' split) <;> simp

@[simp] theorem txnPart_dissolve {s : State} {a0} : txnPart (dissolve a0 s) = txnPart s := by simp [dissolve]

@[simp] theorem txnPart_dissolveFirst {s : State} : txnPart (dissolveFirst s) = txnPart s := by
  unfold dissolveFirst
  split <;> simp

@[simp] theorem txnPart_updRec {s : State} {a0} : txnPart (updRec a0 s) = txnPart s := (rfl)

@[simp] theorem txnPart_sendHeader {s : State} : txnPart (sendHeader s).2 = txnPart s := by
  unfold sendHeader
  dsimp only
  (repeat' split) <;> simp

@[simp] theorem txnPart_startRecs {s : State} {a0} : txnPart (startRecs a0 s) = txnPart s := by
  induction a0 generalizing s with
  | zero => rfl
  | succ n ih =>
    unfold startRecs
    split
    · split
      · rfl
      · split
        · simp [ih]
        · dsimp only
          split
          · split
            · simp [ih]
            · split <;> rename_i e <;> simp [ih, txnPart_of_eq_snd e]
          · simp
    · rfl

@[simp] theorem txnPart_writeOn {s : State} : txnPart (writeOn s) = txnPart s := by simp [writeOn]

@[simp] theorem txnPart_closeRecord {s : State} {a0 a1} : txnPart (closeRecord a0 a1 s) = txnPart s := by simp [closeRecord]

@[simp] theorem txnPart_closingRecord {s : State} : txnPart (closingRecord s) = txnPart s := by simp [closingRecord]

@[simp] theorem txnPart_beatEvent {s : State} {a0} : txnPart (beatEvent a0 s) = txnPart s := (rfl)

end Sys2Proof.Machine
end

section
/-! The beat unit and its source (R27, R30, R38 to R41, R379, R527). -/

namespace Sys2Proof.Machine

open Sys2Proof

theorem groups_of_txnPart {s t : State} (h : txnPart t = txnPart s) : t.groups = s.groups := congrArg Prod.fst h
theorem plan_of_txnPart {s t : State} (h : txnPart t = txnPart s) : t.recov.plan = s.recov.plan := congrArg Prod.snd h

/-! ### The loss of the beat ends the busy groups (R39, R61) -/

theorem txnPart_endGroup (g : Nat) (r : GResult) (page : Nat) (c : Code) (s : State) :
    txnPart (endGroup g r page c s) = (mset groupReset s.groups g { grp s g with st := .done, res := r, page := page, code := c }, s.recov.plan) := by
  have hreload : txnPart ((grp s g).pages.foldl (fun s p => reloadPage p s) s) = txnPart s := by simp
  unfold endGroup
  dsimp only
  generalize (grp s g).pages.foldl (fun s p => reloadPage p s) s = t at hreload ⊢
  obtain ⟨hgroups, hplan⟩ := Prod.mk.inj hreload
  rw [setGrp, txnPart_mk, hgroups, hplan]

theorem grp_endGroup_ne {g k : Nat} (r : GResult) (page : Nat) (c : Code) (s : State) (h : g ≠ k) : grp (endGroup g r page c s) k = grp s k := by
  have hg : (endGroup g r page c s).groups = _ := congrArg Prod.fst (txnPart_endGroup g r page c s)
  rw [grp, hg, mget_mset, if_neg h, grp]

/-- What the loss of the beat does to one group. -/
def loseBeatGroup (s : State) (e : Nat × Group) : State := if groupBusy (grp s e.1) then endPlain e.1 .beatLost s else s

theorem plan_loseBeatGroups (s : State) : (loseBeatGroups s).recov.plan = s.recov.plan := by
  have hfold : ∀ (l : Map Group) (s : State), (l.foldl loseBeatGroup s).recov.plan = s.recov.plan := by
    intro l
    induction l with
    | nil => exact fun _ => rfl
    | cons e l ih =>
      intro s
      rw [List.foldl_cons, ih, loseBeatGroup]
      split
      · exact congrArg Prod.snd (txnPart_endGroup ..)
      · rfl
  exact hfold ..

/-- Whether a group has ended with the loss of the beat. -/
def endedLost (g : Group) : Prop := g.st = .done ∧ g.res = .beatLost

theorem loseBeatGroup_ends (s : State) (e : Nat × Group) (k : Nat) :
    (endedLost (grp s k) ∨ groupBusy (grp s k) = true ∧ k = e.1 → endedLost (grp (loseBeatGroup s e) k)) ∧
      (k ≠ e.1 → grp (loseBeatGroup s e) k = grp s k) := by
  unfold loseBeatGroup
  split
  next hbusy =>
    refine ⟨fun h => ?_, fun hne => grp_endGroup_ne _ _ _ _ hne.symm⟩
    by_cases hk : k = e.1
    · subst hk
      have hend : grp (endPlain e.1 .beatLost s) e.1 = _ := grp_endGroup e.1 .beatLost 0 (resultCode .beatLost) s
      rw [hend]
      exact ⟨rfl, rfl⟩
    · have hsame : grp (endPlain e.1 .beatLost s) k = grp s k := grp_endGroup_ne _ _ _ _ fun h => hk h.symm
      rw [hsame]
      exact h.resolve_right fun h => hk h.2
  next hidle =>
    refine ⟨fun h => h.resolve_right ?_, fun _ => rfl⟩
    rintro ⟨hbusy, rfl⟩
    exact hidle hbusy

theorem foldl_loseBeatGroup_ends {l : Map Group} {s : State} {k : Nat}
    (h : endedLost (grp s k) ∨ groupBusy (grp s k) = true ∧ k ∈ l.map (·.1)) : endedLost (grp (l.foldl loseBeatGroup s) k) := by
  induction l generalizing s with
  | nil => exact h.resolve_right fun h => List.not_mem_nil h.2
  | cons e l ih =>
    obtain ⟨hends, hkeeps⟩ := loseBeatGroup_ends s e k
    apply ih
    by_cases hk : k = e.1
    · exact .inl (hends (h.imp_right fun h => ⟨h.1, hk⟩))
    · rw [hkeeps hk]
      exact h.imp_right fun h => ⟨h.1, (List.mem_cons.1 h.2).resolve_left hk⟩

theorem mem_keys_of_mfind {α : Type} {m : Map α} {k : Nat} {v : α} (h : mfind m k = some v) : k ∈ m.map (·.1) := by
  induction m with
  | nil => cases h
  | cons e m ih =>
    obtain ⟨j, w⟩ := e
    rw [mfind] at h
    split at h
    next hj => exact List.mem_cons.2 (.inl hj.symm)
    next => exact List.mem_cons_of_mem _ (ih h)

/-- Each busy group ends with BEAT_LOST (R39). -/
theorem loseBeatGroups_ends {s : State} {k : Nat} (h : groupBusy (grp s k) = true) : endedLost (grp (loseBeatGroups s) k) := by
  refine foldl_loseBeatGroup_ends (.inr ⟨h, ?_⟩)
  rw [grp, mget] at h
  cases hf : mfind s.groups k with
  | some g => exact mem_keys_of_mfind hf
  | none =>
    rw [hf] at h
    cases h

/-- Without a recovery plan the loss of the beat leaves the groups as `loseBeatGroups` does. -/
theorem groups_beatLoses {now : Nat} {s : State} (h : s.beat.mode = .locked ∧ !s.beat.edgeSince ∧ 16 * s.beat.lossPeriod < now - s.beat.tickAt)
    (hplan : s.recov.plan = none) : ∃ u, (beatLoses now s).groups = (loseBeatGroups u).groups ∧ u.groups = s.groups := by
  unfold beatLoses
  rw [if_pos h]
  dsimp only
  generalize hu : recordErrAny pBeat E.beatLost _ = u
  have hsame : txnPart u = txnPart s := by
    rw [← hu, txnPart_recordErrAny, txnPart_beatEvent]
    rfl
  have hnone : (powerBeatLost (loseBeatGroups u)).recov.plan = none := by
    rw [plan_of_txnPart txnPart_powerBeatLost, plan_loseBeatGroups, plan_of_txnPart hsame, hplan]
  have hidle : planBeatLost (powerBeatLost (loseBeatGroups u)) = powerBeatLost (loseBeatGroups u) := by rw [planBeatLost, hnone]
  refine ⟨u, ?_, groups_of_txnPart hsame⟩
  rw [hidle]
  have hall : txnPart (fatal E.beatLost (closingRecord (powerBeatLost (loseBeatGroups u)))) = txnPart (loseBeatGroups u) := by
    rw [txnPart_fatal, txnPart_closingRecord, txnPart_powerBeatLost]
  exact groups_of_txnPart hall

theorem beatLost_ends {now : Nat} {s : State} (hl : s.beat.mode = .locked) (he : s.beat.edgeSince = false)
    (hlong : 16 * s.beat.lossPeriod < now - s.beat.tickAt) :
    ∃ t, exec (.beatLost now) s = .next t ∧ t.beat.mode ≠ .locked ∧ t.beat.now = s.beat.now ∧ t.beat.last = s.beat.now ∧
      (s.recov.plan = none → ∀ k, groupBusy (grp s k) = true → (grp t k).st = .done ∧ (grp t k).res = .beatLost) := by
  have hlost : s.beat.mode = .locked ∧ !s.beat.edgeSince ∧ 16 * s.beat.lossPeriod < now - s.beat.tickAt := ⟨hl, by simp [he], hlong⟩
  have hs := steady_beatLoses hlost
  simp only [steady, steadyParts, Prod.mk.injEq, beq_eq_false_iff_ne] at hs
  obtain ⟨⟨hnow, hlast⟩, hmode, -⟩ := hs
  refine ⟨_, rfl, hmode, hnow, hlast, fun hplan k hbusy => ?_⟩
  obtain ⟨u, hgroups, hu⟩ := groups_beatLoses hlost hplan
  have hk : grp (beatLoses now s) k = grp (loseBeatGroups u) k := by rw [grp, grp, hgroups]
  rw [hk]
  exact loseBeatGroups_ends (by rwa [grp, hu])

/-! ### Arrivals (R27, R38, R41) -/

/-- The run of a candidate after an arrival (R27): a number, or a frame that is not well-formed. -/
def runAfter (s : State) (x : CandState) (n : Option Beat) (t : Nat) : CandState :=
  match n with
  | none => runBroken x
  | some b => runNext (periodNs s) x b t

/-- A candidate's state is one part of the beat unit. -/
theorem setCand_eq (c : Cand) (x : CandState) (s : State) : ∃ e l, setCand c x s = { s with beat := { s.beat with ext := e, links := l } } := by
  cases c with
  | ext => exact ⟨x, s.beat.links, rfl⟩
  | link n => exact ⟨s.beat.ext, lset s.beat.links n.val x, rfl⟩

theorem setCand_mode (c : Cand) (x : CandState) (s : State) : (setCand c x s).beat.mode = s.beat.mode := by cases c <;> rfl
theorem setCand_activeSrc (c : Cand) (x : CandState) (s : State) : (setCand c x s).beat.activeSrc = s.beat.activeSrc := by cases c <;> rfl

/-- The candidates are those of the same two parts of the beat unit. -/
theorem candOf_congr {s t : State} (hext : t.beat.ext = s.beat.ext) (hlinks : t.beat.links = s.beat.links) (c : Cand) : candOf t c = candOf s c := by
  cases c with
  | ext => exact hext
  | link n => exact congrArg (·.getD n.val .reset) hlinks

section
variable {c : Cand} {n : Option Beat} {at' : Nat} {s : State}

/-- An arrival that is not the selected source's, or that comes in IDLE or LOST, changes its candidate's run alone. -/
theorem arrival_of_unselected (h : ¬ s.beat.activeSrc.toNat = candSrc c ∨ s.beat.mode = .idle ∨ s.beat.mode = .lost) :
    arrival c at' n s = setCand c (runAfter s (candOf s c) n at') s := by
  change (if (setCand c (runAfter s (candOf s c) n at') s).beat.activeSrc.toNat ≠ candSrc c then _ else _) = _
  rw [setCand_activeSrc, setCand_mode]
  split
  · rfl
  next hsel =>
    obtain hm | hm := h.resolve_left fun hne => hsel hne
    · rw [hm]
      rfl
    · rw [hm]
      rfl

theorem arrival_of_acquiring (hsel : s.beat.activeSrc.toNat = candSrc c) (hm : s.beat.mode = .acquiring) :
    arrival c at' n s = acquire at' n (setCand c (runAfter s (candOf s c) n at') s) := by
  change (if (setCand c (runAfter s (candOf s c) n at') s).beat.activeSrc.toNat ≠ candSrc c then _ else _) = _
  rw [setCand_activeSrc, setCand_mode, if_neg (not_not.2 hsel), hm]
  rfl

theorem arrival_of_locked (hsel : s.beat.activeSrc.toNat = candSrc c) (hm : s.beat.mode = .locked) :
    arrival c at' n s = lockedArrival at' (candOf s c) n (setCand c (runAfter s (candOf s c) n at') s) := by
  change (if (setCand c (runAfter s (candOf s c) n at') s).beat.activeSrc.toNat ≠ candSrc c then _ else _) = _
  rw [setCand_activeSrc, setCand_mode, if_neg (not_not.2 hsel), hm]
  rfl

theorem acquire_waits {b : Beat} (h : (runAfter s s.beat.acq (some b) at').run ≠ 3) :
    acquire at' (some b) s = noteArrival at' { s with beat := { s.beat with acq := runAfter s s.beat.acq (some b) at' } } := if_neg h

theorem acquire_locks {b : Beat} (h : (runAfter s s.beat.acq (some b) at').run = 3) :
    acquire at' (some b) s =
      sourceLocks at' b (noteArrival at' { s with beat := { s.beat with acq := runAfter s s.beat.acq (some b) at' } }) := if_pos h

/-- In ACQUIRING the run of the selected source is the acquisition's too; until it is three the unit waits (R27). -/
theorem acquiring_waits (hsel : s.beat.activeSrc.toNat = candSrc c) (hm : s.beat.mode = .acquiring)
    (hrun : (runAfter s s.beat.acq n at').run ≠ 3) :
    let t := arrival c at' n s
    t.beat.acq = runAfter s s.beat.acq n at' ∧ t.beat.mode = .acquiring ∧ t.beat.now = s.beat.now ∧ t.beat.lockAt = s.beat.lockAt ∧
      candOf t c = candOf (setCand c (runAfter s (candOf s c) n at') s) c := by
  intro t
  have ht : t = _ := arrival_of_acquiring hsel hm
  obtain ⟨e, l, hv⟩ := setCand_eq c (runAfter s (candOf s c) n at') s
  rw [ht, hv]
  cases n with
  | none => exact ⟨rfl, hm, rfl, rfl, candOf_congr rfl rfl c⟩
  | some b =>
    rw [acquire_waits (by exact hrun)]
    exact ⟨rfl, hm, rfl, rfl, candOf_congr rfl rfl c⟩

/-- The arrival that completes a run of three locks the unit at once where the compensation delay is 0, else with the next tick (R27). -/
theorem acquiring_locks {b : Beat} (hsel : s.beat.activeSrc.toNat = candSrc c) (hm : s.beat.mode = .acquiring)
    (hrun : (runAfter s s.beat.acq (some b) at').run = 3) :
    let t := arrival c at' (some b) s
    (compDelay s = 0 → t.beat.mode = .locked ∧ t.beat.now = b) ∧
      (0 < compDelay s → t.beat.mode = .acquiring ∧ t.beat.lockAt = some (b + 1) ∧ t.beat.prevArrival = some at' ∧ t.beat.edgeSince = true) := by
  intro t
  have ht : t = _ := arrival_of_acquiring hsel hm
  obtain ⟨e, l, hv⟩ := setCand_eq c (runAfter s (candOf s c) (some b) at') s
  rw [ht, hv]
  rw [acquire_locks (by exact hrun), sourceLocks]
  refine ⟨fun hd => ?_, fun hd => ?_⟩
  · rw [if_pos (by exact hd)]
    exact wholeTick_locked ..
  · rw [if_neg (by exact hd.ne')]
    exact ⟨hm, rfl, rfl, rfl⟩

/-- In LOCKED a number is noted; one out of order breaks the source (R38, R41). -/
theorem locked_notes {b : Beat} (hsel : s.beat.activeSrc.toNat = candSrc c) (hm : s.beat.mode = .locked) :
    let t := arrival c at' (some b) s
    t.beat.edgeSince = true ∧ t.beat.prevArrival = some at' ∧ t.beat.mode = .locked ∧ t.beat.now = s.beat.now ∧
      candOf t c = candOf (setCand c (runAfter s (candOf s c) (some b) at') s) c ∧ t.live = s.live ∧ t.groups = s.groups ∧
      t.beat.broken = (s.beat.broken || (candOf s c).seen && (candOf s c).number + 1 != b) := by
  intro t
  have ht : t = _ := arrival_of_locked hsel hm
  obtain ⟨e, l, hv⟩ := setCand_eq c (runAfter s (candOf s c) (some b) at') s
  rw [ht, hv]
  unfold lockedArrival
  dsimp only
  split
  next hbroken => exact ⟨rfl, rfl, hm, rfl, candOf_congr rfl rfl c, rfl, rfl, by rw [hbroken, Bool.or_true]⟩
  next hfine => exact ⟨rfl, rfl, hm, rfl, candOf_congr rfl rfl c, rfl, rfl, by rw [Bool.eq_false_iff.2 hfine, Bool.or_false]; rfl⟩

/-- A malformed frame breaks the source (R41). -/
theorem locked_breaks (hsel : s.beat.activeSrc.toNat = candSrc c) (hm : s.beat.mode = .locked) :
    let t := arrival c at' none s
    t.beat.mode = .locked ∧ t.beat.now = s.beat.now ∧ t.beat.broken = true := by
  intro t
  have ht : t = _ := arrival_of_locked hsel hm
  obtain ⟨e, l, hv⟩ := setCand_eq c (runAfter s (candOf s c) none at') s
  rw [ht, hv]
  exact ⟨hm, rfl, rfl⟩

end

/-! ### Markers (R379) -/

section
variable {l : Fin 8} {now : Nat} {f : LinkFlit} {s : State}

theorem beatMarker_of_down (h : (linkAt (fecCorrected l.val f.corrected s) l.val).st = .down) :
    exec (.beatMarker l now f) s = .next (fecCorrected l.val f.corrected s) := by
  change Host.Outcome.next (recvFlit _ _ _ _ s) = _
  unfold recvFlit
  dsimp only
  rw [h]
  dsimp only
  rw [ite_self]

variable {q : Nat} (hlen : f.bytes.length = 276) (hty : flitType f.bytes = tyBeat) (hup : (linkAt (fecCorrected l.val f.corrected s) l.val).st = .up)
  (hq : flitDue (linkAt (fecCorrected l.val f.corrected s) l.val) (flitSeq f.bytes) = some q)

include hlen hty hup hq

/-- A marker whose tag does not check is passed over (R379). -/
theorem beatMarker_of_failed
    (hopen : openFlit (dirKey (linkAt (fecCorrected l.val f.corrected s) l.val).keys !(linkAt (fecCorrected l.val f.corrected s) l.val).sideA) q f.bytes
      = none) :
    exec (.beatMarker l now f) s = .next (setLink l.val { linkAt (fecCorrected l.val f.corrected s) l.val with rxSeq := q + 1 }
      (fecCorrected l.val f.corrected s)) := by
  refine Eq.trans (b := Host.Outcome.next (flitFails l.val tyBeat q (fecCorrected l.val f.corrected s))) ?_ rfl
  change Host.Outcome.next (recvFlit _ _ _ _ s) = _
  unfold recvFlit
  dsimp only
  rw [if_neg (by simp [hlen, hty]), hup]
  dsimp only
  rw [hq]
  dsimp only
  rw [hopen]

/-- A marker whose tag checks is an arrival of its link (R379). -/
theorem beatMarker_of_opened {b : List Byte}
    (hopen : openFlit (dirKey (linkAt (fecCorrected l.val f.corrected s) l.val).keys !(linkAt (fecCorrected l.val f.corrected s) l.val).sideA) q f.bytes
      = some b) :
    exec (.beatMarker l now f) s = .next (arrival (.link l) (now - le b 8 4) (some (BitVec.ofNat 48 (le b 0 6)))
      (flitTaken l.val q (fecCorrected l.val f.corrected s))) := by
  change Host.Outcome.next (recvFlit _ _ _ _ s) = _
  unfold recvFlit
  dsimp only
  rw [if_neg (by simp [hlen, hty]), hup]
  dsimp only
  rw [hq]
  dsimp only
  rw [hopen]

end

/-! ### Ticks, silence and RESTART (R30, R40, R527) -/

theorem tickDue_iff {now a : Nat} {s : State} (ha : s.beat.prevArrival = some a) (he : s.beat.edgeSince = true) :
    tickDue now s = decide (now + compDelay s = a + if compDelay s = 0 then 0 else measuredPeriod s) := by
  rw [tickDue, ha, he, Bool.true_and]

theorem restart_of_locked {s : State} (h : s.beat.mode = .locked) : restart s = s := if_pos h

/-- RESTART with a shadow that fails records it and keeps the unit (R40, R527). -/
theorem restart_refused {s : State} {e : Code} {off : Nat} (hm : s.beat.mode ≠ .locked) (hc : beatCheck s = some (e, off)) :
    (restart s).beat = s.beat ∧ errValid (restart s) 8 = true ∧ (errValid s 8 = false → live (restart s) 8 0x14 = BitVec.ofNat 32 off) := by
  have hr : restart s = reloadShadows pBeat (recordErr pBeat e (BitVec.ofNat 32 off) s) := by
    rw [restart, if_neg hm, hc]
    rfl
  rw [hr]
  exact ⟨(congrArg State.beat (offRegs_recordErr pBeat e (BitVec.ofNat 32 off) s) :), errValid_recordErr pBeat e (BitVec.ofNat 32 off) s,
    fun h => live_recordErr_info h⟩

/-- BEAT_SRC and BEAT_PERIOD. -/
def beatSrcRow : RegRow := ⟨0x40, 4, 1, [⟨19, 12, .rw, 0⟩, ⟨3, 0, .rw, 0⟩]⟩
def beatPeriodRow : RegRow := ⟨0x44, 4, 1, [⟨16, 0, .rw, 0⟩]⟩

theorem regAt_beatSrc : regAt 8 0x40 = some beatSrcRow := by decide
theorem regAt_beatPeriod : regAt 8 0x44 = some beatPeriodRow := by decide

/-- RESTART adopts the shadows (R40). -/
theorem restart_adopts {s : State} (hcan : Canonical s) (hm : s.beat.mode ≠ .locked) (hc : beatCheck s = none) :
    let t := restart s
    t.beat.mode = (if shadowF s 8 0x40 3 0 = 0 then .idle else .acquiring) ∧ t.beat.activeSrc = BitVec.ofNat 4 (shadowF s 8 0x40 3 0) ∧
      periodNs t = shadowF s 8 0x44 16 0 ∧ t.beat.acq = CandState.reset ∧ t.beat.lockAt = none ∧ t.beat.now = s.beat.now := by
  intro t
  have ht : t = _ := if_neg hm
  rw [hc] at ht
  have hsrc : beatSrc (beatCommitShadows s) = shadowF s 8 0x40 3 0 :=
    (congrArg (bits · 3 0) (live_commitPage hcan.shadow (by decide) regAt_beatSrc)).trans (bits_mixed (by decide) ..)
  have hperiod : periodNs (beatCommitShadows s) = shadowF s 8 0x44 16 0 :=
    (congrArg (bits · 16 0) (live_commitPage hcan.shadow (by decide) regAt_beatPeriod)).trans (bits_mixed (by decide) ..)
  have hnow : (beatCommitShadows s).beat.now = s.beat.now := (steady_eq_iff.1 steady_beatCommitShadows).1
  rw [ht, ← hsrc]
  exact ⟨rfl, rfl, hperiod, rfl, rfl, hnow⟩

/-- Settles O25: each command is one of the cases above. -/
theorem beatUnitFollowsItsSource : Obligations.BeatUnitFollowsItsSource := by
  unfold Obligations.BeatUnitFollowsItsSource
  intro s track arrives selected
  have htrack : ∀ u x n at', track u x n at' = runAfter u x n at' := by
    intro u x n at'
    cases n with
    | none => rfl
    | some b => simp [track, runAfter, runNext, and_assoc]
  have harrives : ∀ i c n at' u, arrives i c n at' u → exec i s = .next (arrival c at' n u) := by
    rintro i c n at' u (⟨f, rfl, rfl, rfl, rfl⟩ | ⟨l, now, f, q, b, rfl, rfl, hlen, hty, hup, hq, hopen, rfl, rfl, rfl⟩)
    · rfl
    · exact beatMarker_of_opened hlen hty hup hq hopen
  simp only [htrack]
  refine ⟨fun i c n at' u ha hsel => ?_, fun i c n at' u ha hsel hm => ⟨_, harrives i c n at' u ha, acquiring_waits hsel hm⟩,
    fun i c b at' u ha hsel hm hrun => ?_, fun now hdue => ⟨fun b hm hb => ?_, fun hm hb => ?_, fun hm hb => ?_⟩,
    fun now a ha he => tickDue_iff ha he, fun now h => beatTick_of_not_due h,
    fun i c b at' u ha hsel hm => ⟨_, harrives _ _ _ _ _ ha, locked_notes hsel hm⟩,
    fun i c at' u ha hsel hm => ⟨_, harrives _ _ _ _ _ ha, locked_breaks hsel hm⟩,
    fun l now f h => beatMarker_of_down h, fun l now f q hlen hty hup hq hopen => beatMarker_of_failed hlen hty hup hq hopen,
    fun now hl he hlong => beatLost_ends hl he hlong, fun now h => ⟨_, rfl, beatLoses_of_not ?_⟩,
    fun c now h => ⟨_, rfl, if_pos h⟩, fun c now h => ⟨_, rfl, if_neg (Nat.not_lt.2 h)⟩,
    fun h => ⟨_, rfl, restart_of_locked h⟩, fun e off hm hc => ⟨_, rfl, restart_refused hm hc⟩,
    fun hcan hm hc => ⟨_, rfl, restart_adopts hcan hm hc⟩⟩
  · rw [harrives i c n at' u ha, arrival_of_unselected hsel]
  · obtain ⟨hnone, hdelay⟩ := acquiring_locks hsel hm hrun
    exact ⟨fun hd => ⟨_, harrives _ _ _ _ _ ha, hnone hd⟩, fun hd => ⟨_, harrives _ _ _ _ _ ha, hdelay hd⟩⟩
  · exact ⟨_, beatTick_of_acquiring hdue hm hb, wholeTick_locked ..⟩
  · rw [beatTick_of_locked hdue hm, hb]
    exact ⟨_, rfl, wholeTick_locked ..⟩
  · rw [beatTick_of_locked hdue hm, hb]
    rfl
  · rintro ⟨hl, he, -⟩
    exact h.elim (fun hne => hne hl) fun hseen => by simp [hseen] at he

end Sys2Proof.Machine
end

section
/-! Every step keeps the addressed memories canonical (R52, R206, R359). -/

namespace Sys2Proof.Machine

open Sys2Proof

/-- Whatever a command does to the beat unit, it keeps the queue and the canonical form. -/
theorem exec_keeps {p : Kept} {c : Instr} {s t : State} (h : Keeps p s) (e : exec c s = .next t) : ∃ b, Keeps (p.1, b) t := by
  cases c with
  | beatFrame => exact execBeatFrame_keeps h e
  | beatMarker => exact execBeatMarker_keeps h e
  | beatTick => exact execBeatTick_keeps h e
  | beatLost =>
    obtain ⟨b, m, hk⟩ := execBeatLost_keeps h e
    exact ⟨_, hk⟩
  | candLockTimeout => exact ⟨_, execCandLockTimeout_keeps h e⟩ | beatRestart => exact ⟨_, execBeatRestart_keeps h e⟩
  | registerWrite => exact ⟨_, execRegisterWrite_keeps h e⟩ | rcRead => exact ⟨_, execRcRead_keeps h e⟩
  | latchRead => exact ⟨_, execLatchRead_keeps h e⟩ | txnAlloc => exact ⟨_, execTxnAlloc_keeps h e⟩
  | blkTxnEnrol => exact ⟨_, execBlkTxnEnrol_keeps h e⟩ | blkTxnWithdraw => exact ⟨_, execBlkTxnWithdraw_keeps h e⟩
  | txnArm => exact ⟨_, execTxnArm_keeps h e⟩ | txnArmNow => exact ⟨_, execTxnArmNow_keeps h e⟩ | txnAbort => exact ⟨_, execTxnAbort_keeps h e⟩
  | txnRelease => exact ⟨_, execTxnRelease_keeps h e⟩ | txnValidationDone => exact ⟨_, execTxnValidationDone_keeps h e⟩
  | txnNowApplyDone => exact ⟨_, execTxnNowApplyDone_keeps h e⟩ | add => exact ⟨_, execAdd_keeps h e⟩ | sub => exact ⟨_, execSub_keeps h e⟩
  | mul => exact ⟨_, execMul_keeps h e⟩ | and_ => exact ⟨_, execAnd_keeps h e⟩ | or_ => exact ⟨_, execOr_keeps h e⟩
  | xor_ => exact ⟨_, execXor_keeps h e⟩ | shl => exact ⟨_, execShl_keeps h e⟩ | shr => exact ⟨_, execShr_keeps h e⟩
  | sar => exact ⟨_, execSar_keeps h e⟩ | min_ => exact ⟨_, execMin_keeps h e⟩ | max_ => exact ⟨_, execMax_keeps h e⟩
  | minu => exact ⟨_, execMinu_keeps h e⟩ | maxu => exact ⟨_, execMaxu_keeps h e⟩ | slt => exact ⟨_, execSlt_keeps h e⟩
  | sltu => exact ⟨_, execSltu_keeps h e⟩ | addi => exact ⟨_, execAddi_keeps h e⟩ | andi => exact ⟨_, execAndi_keeps h e⟩
  | ori => exact ⟨_, execOri_keeps h e⟩ | xori => exact ⟨_, execXori_keeps h e⟩ | shli => exact ⟨_, execShli_keeps h e⟩
  | shri => exact ⟨_, execShri_keeps h e⟩ | sari => exact ⟨_, execSari_keeps h e⟩ | slti => exact ⟨_, execSlti_keeps h e⟩
  | lih => exact ⟨_, execLih_keeps h e⟩ | nop => exact ⟨_, execNop_keeps h e⟩ | halt => exact ⟨_, execHalt_keeps h e⟩
  | rdsys => exact ⟨_, execRdsys_keeps h e⟩ | beq => exact ⟨_, execBeq_keeps h e⟩ | bne => exact ⟨_, execBne_keeps h e⟩
  | blt => exact ⟨_, execBlt_keeps h e⟩ | bge => exact ⟨_, execBge_keeps h e⟩ | bltu => exact ⟨_, execBltu_keeps h e⟩
  | bgeu => exact ⟨_, execBgeu_keeps h e⟩ | jal => exact ⟨_, execJal_keeps h e⟩ | jr => exact ⟨_, execJr_keeps h e⟩
  | ldf => exact ⟨_, execLdf_keeps h e⟩ | ldk => exact ⟨_, execLdk_keeps h e⟩ | ste => exact ⟨_, execSte_keeps h e⟩
  | stf => exact ⟨_, execStf_keeps h e⟩ | empt => exact ⟨_, execEmpt_keeps h e⟩ | bind => exact ⟨_, execBind_keeps h e⟩
  | unbind => exact ⟨_, execUnbind_keeps h e⟩ | dmq => exact ⟨_, execDmq_keeps h e⟩ | vadd => exact ⟨_, execVadd_keeps h e⟩
  | vsub => exact ⟨_, execVsub_keeps h e⟩ | vmul => exact ⟨_, execVmul_keeps h e⟩ | vfma => exact ⟨_, execVfma_keeps h e⟩
  | vmax => exact ⟨_, execVmax_keeps h e⟩ | vmin => exact ⟨_, execVmin_keeps h e⟩ | vsum => exact ⟨_, execVsum_keeps h e⟩
  | vbcast => exact ⟨_, execVbcast_keeps h e⟩ | vmova => exact ⟨_, execVmova_keeps h e⟩ | vmovs => exact ⟨_, execVmovs_keeps h e⟩
  | exp2 => exact ⟨_, execExp2_keeps h e⟩ | rsq => exact ⟨_, execRsq_keeps h e⟩ | mvd => exact ⟨_, execMvd_keeps h e⟩
  | mma => exact ⟨_, execMma_keeps h e⟩ | mmax => exact ⟨_, execMmax_keeps h e⟩ | cvt => exact ⟨_, execCvt_keeps h e⟩
  | qcf => exact ⟨_, execQcf_keeps h e⟩ | topk => exact ⟨_, execTopk_keeps h e⟩ | snd => exact ⟨_, execSnd_keeps h e⟩
  | sndr => exact ⟨_, execSndr_keeps h e⟩ | rdm => exact ⟨_, execRdm_keeps h e⟩ | tadd => exact ⟨_, execTadd_keeps h e⟩
  | tset => exact ⟨_, execTset_keeps h e⟩ | twait => exact ⟨_, execTwait_keeps h e⟩ | threadWake => exact ⟨_, execThreadWake_keeps h e⟩
  | mvdStreamEnd => exact ⟨_, execMvdStreamEnd_keeps h e⟩ | mvdResult => exact ⟨_, execMvdResult_keeps h e⟩
  | arrayStagingDone => exact ⟨_, execArrayStagingDone_keeps h e⟩ | arrayStreamEnd => exact ⟨_, execArrayStreamEnd_keeps h e⟩
  | arrayPassCheck => exact ⟨_, execArrayPassCheck_keeps h e⟩ | arrayDrainDone => exact ⟨_, execArrayDrainDone_keeps h e⟩
  | edgeOccupancyEnd => exact ⟨_, execEdgeOccupancyEnd_keeps h e⟩ | edgeResultReady => exact ⟨_, execEdgeResultReady_keeps h e⟩
  | hqPermitRelease => exact ⟨_, execHqPermitRelease_keeps h e⟩ | dmaDescStart => exact ⟨_, execDmaDescStart_keeps h e⟩
  | dmaDescEnd => exact ⟨_, execDmaDescEnd_keeps h e⟩ | failureNotice => exact ⟨_, execFailureNotice_keeps h e⟩
  | cacheMissFill => exact ⟨_, execCacheMissFill_keeps h e⟩ | cacheWriteback => exact ⟨_, execCacheWriteback_keeps h e⟩
  | fabricArrival => exact ⟨_, execFabricArrival_keeps h e⟩ | bankClearDone => exact ⟨_, execBankClearDone_keeps h e⟩
  | spargeVisit => exact ⟨_, execSpargeVisit_keeps h e⟩ | cawRead => exact ⟨_, execCawRead_keeps h e⟩ | cawWrite => exact ⟨_, execCawWrite_keeps h e⟩
  | cawDiscard => exact ⟨_, execCawDiscard_keeps h e⟩ | threadStart => exact ⟨_, execThreadStart_keeps h e⟩
  | threadStop => exact ⟨_, execThreadStop_keeps h e⟩ | coreReset => exact ⟨_, execCoreReset_keeps h e⟩ | tagInit => exact ⟨_, execTagInit_keeps h e⟩
  | tallyAdd => exact ⟨_, execTallyAdd_keeps h e⟩ | tallySet => exact ⟨_, execTallySet_keeps h e⟩
  | tallyRegistration => exact ⟨_, execTallyRegistration_keeps h e⟩ | tallyWakeReply => exact ⟨_, execTallyWakeReply_keeps h e⟩
  | tallyRegRetry => exact ⟨_, execTallyRegRetry_keeps h e⟩ | tallyCmdAdd => exact ⟨_, execTallyCmdAdd_keeps h e⟩
  | tallyCmdSet => exact ⟨_, execTallyCmdSet_keeps h e⟩ | flushWaits => exact ⟨_, execFlushWaits_keeps h e⟩
  | routerHeader => exact ⟨_, execRouterHeader_keeps h e⟩ | reduceAtRouter => exact ⟨_, execReduceAtRouter_keeps h e⟩
  | transitEntryRelease => exact ⟨_, execTransitEntryRelease_keeps h e⟩ | reduceAtOwner => exact ⟨_, execReduceAtOwner_keeps h e⟩
  | readAtMergePoint => exact ⟨_, execReadAtMergePoint_keeps h e⟩ | mergeEntryClose => exact ⟨_, execMergeEntryClose_keeps h e⟩
  | readReplyFanout => exact ⟨_, execReadReplyFanout_keeps h e⟩ | flitParityError => exact ⟨_, execFlitParityError_keeps h e⟩
  | flitReplay => exact ⟨_, execFlitReplay_keeps h e⟩ | flushMerge => exact ⟨_, execFlushMerge_keeps h e⟩
  | flushReduce => exact ⟨_, execFlushReduce_keeps h e⟩ | stackReadRequest => exact ⟨_, execStackReadRequest_keeps h e⟩
  | stackWriteRequest => exact ⟨_, execStackWriteRequest_keeps h e⟩ | chStart => exact ⟨_, execChStart_keeps h e⟩
  | chAbort => exact ⟨_, execChAbort_keeps h e⟩ | chDescFetch => exact ⟨_, execChDescFetch_keeps h e⟩
  | chWaitRelease => exact ⟨_, execChWaitRelease_keeps h e⟩ | chPoolSpace => exact ⟨_, execChPoolSpace_keeps h e⟩
  | chSegmentDone => exact ⟨_, execChSegmentDone_keeps h e⟩ | chDescEnd => exact ⟨_, execChDescEnd_keeps h e⟩
  | hdClear => exact ⟨_, execHdClear_keeps h e⟩ | hdMarkWrite => exact ⟨_, execHdMarkWrite_keeps h e⟩
  | hdMarkClear => exact ⟨_, execHdMarkClear_keeps h e⟩ | load => exact ⟨_, execLoad_keeps h e⟩ | loadContent => exact ⟨_, execLoadContent_keeps h e⟩
  | loadThreadStart => exact ⟨_, execLoadThreadStart_keeps h e⟩ | install => exact ⟨_, execInstall_keeps h e⟩
  | holdingQueryTimeout => exact ⟨_, execHoldingQueryTimeout_keeps h e⟩ | gristUnitArrival => exact ⟨_, execGristUnitArrival_keeps h e⟩
  | release => exact ⟨_, execRelease_keeps h e⟩ | unload => exact ⟨_, execUnload_keeps h e⟩
  | unloadTeardown => exact ⟨_, execUnloadTeardown_keeps h e⟩ | epochDrainRelease => exact ⟨_, execEpochDrainRelease_keeps h e⟩
  | stagedSwitchCopy => exact ⟨_, execStagedSwitchCopy_keeps h e⟩ | stagedSwitchDone => exact ⟨_, execStagedSwitchDone_keeps h e⟩
  | adInstall => exact ⟨_, execAdInstall_keeps h e⟩ | adRetire => exact ⟨_, execAdRetire_keeps h e⟩
  | adapterSlotFree => exact ⟨_, execAdapterSlotFree_keeps h e⟩ | hostPoll => exact ⟨_, execHostPoll_keeps h e⟩
  | admit_ => exact ⟨_, execAdmit_keeps h e⟩ | reqEnd => exact ⟨_, execReqEnd_keeps h e⟩ | rebind => exact ⟨_, execRebind_keeps h e⟩
  | prefill => exact ⟨_, execPrefill_keeps h e⟩ | selection => exact ⟨_, execSelection_keeps h e⟩
  | outputCollect => exact ⟨_, execOutputCollect_keeps h e⟩ | stepComplete => exact ⟨_, execStepComplete_keeps h e⟩
  | specVerifyIssue => exact ⟨_, execSpecVerifyIssue_keeps h e⟩ | stCmdEnd => exact ⟨_, execStCmdEnd_keeps h e⟩
  | stSel => exact ⟨_, execStSel_keeps h e⟩ | pxSel => exact ⟨_, execPxSel_keeps h e⟩ | flushModel => exact ⟨_, execFlushModel_keeps h e⟩
  | specSel => exact ⟨_, execSpecSel_keeps h e⟩ | hostLinkTrain => exact ⟨_, execHostLinkTrain_keeps h e⟩
  | hostLinkDown => exact ⟨_, execHostLinkDown_keeps h e⟩ | hostLinkUp => exact ⟨_, execHostLinkUp_keeps h e⟩
  | hostReadData => exact ⟨_, execHostReadData_keeps h e⟩ | hostWriteObserved => exact ⟨_, execHostWriteObserved_keeps h e⟩
  | hostRequestError => exact ⟨_, execHostRequestError_keeps h e⟩ | hostRequestTimeout => exact ⟨_, execHostRequestTimeout_keeps h e⟩
  | h2dSnoop => exact ⟨_, execH2dSnoop_keeps h e⟩ | hdmAccess => exact ⟨_, execHdmAccess_keeps h e⟩
  | irqStatusClear => exact ⟨_, execIrqStatusClear_keeps h e⟩ | msixUnmask => exact ⟨_, execMsixUnmask_keeps h e⟩
  | ideCheckFail => exact ⟨_, execIdeCheckFail_keeps h e⟩ | doeRequest => exact ⟨_, execDoeRequest_keeps h e⟩
  | doeAbort => exact ⟨_, execDoeAbort_keeps h e⟩ | linkTrainDone => exact ⟨_, execLinkTrainDone_keeps h e⟩
  | linkTrainTimeout => exact ⟨_, execLinkTrainTimeout_keeps h e⟩ | linkRetryTimer => exact ⟨_, execLinkRetryTimer_keeps h e⟩
  | linkHello => exact ⟨_, execLinkHello_keeps h e⟩ | hsHello => exact ⟨_, execHsHello_keeps h e⟩ | hsReport => exact ⟨_, execHsReport_keeps h e⟩
  | hsKem => exact ⟨_, execHsKem_keeps h e⟩ | hsFinish => exact ⟨_, execHsFinish_keeps h e⟩ | hsTimeout => exact ⟨_, execHsTimeout_keeps h e⟩
  | linkFecLoss => exact ⟨_, execLinkFecLoss_keeps h e⟩ | retrain => exact ⟨_, execRetrain_keeps h e⟩
  | linkDataFlit => exact ⟨_, execLinkDataFlit_keeps h e⟩ | linkCredit => exact ⟨_, execLinkCredit_keeps h e⟩
  | linkAck => exact ⟨_, execLinkAck_keeps h e⟩ | linkNak => exact ⟨_, execLinkNak_keeps h e⟩ | linkFlitFail => exact ⟨_, execLinkFlitFail_keeps h e⟩
  | delayReqSend => exact ⟨_, execDelayReqSend_keeps h e⟩ | delayReq => exact ⟨_, execDelayReq_keeps h e⟩
  | delayRsp => exact ⟨_, execDelayRsp_keeps h e⟩ | pclWr => exact ⟨_, execPclWr_keeps h e⟩ | pclRd => exact ⟨_, execPclRd_keeps h e⟩
  | flushReadReply => exact ⟨_, execFlushReadReply_keeps h e⟩ | pclWrAck => exact ⟨_, execPclWrAck_keeps h e⟩
  | pclRdData => exact ⟨_, execPclRdData_keeps h e⟩ | pclRegWr => exact ⟨_, execPclRegWr_keeps h e⟩ | pclRegRd => exact ⟨_, execPclRegRd_keeps h e⟩
  | pclRegRsp => exact ⟨_, execPclRegRsp_keeps h e⟩ | svcReq => exact ⟨_, execSvcReq_keeps h e⟩ | svcRsp => exact ⟨_, execSvcRsp_keeps h e⟩
  | remoteTimeout => exact ⟨_, execRemoteTimeout_keeps h e⟩ | rtCopy => exact ⟨_, execRtCopy_keeps h e⟩
  | getReport => exact ⟨_, execGetReport_keeps h e⟩ | getKemKey => exact ⟨_, execGetKemKey_keeps h e⟩ | getCerts => exact ⟨_, execGetCerts_keeps h e⟩
  | tenantBind => exact ⟨_, execTenantBind_keeps h e⟩ | tenantUnbind => exact ⟨_, execTenantUnbind_keeps h e⟩
  | sessionOpen => exact ⟨_, execSessionOpen_keeps h e⟩ | sessionClose => exact ⟨_, execSessionClose_keeps h e⟩
  | ideKeys => exact ⟨_, execIdeKeys_keeps h e⟩ | mbSubmit => exact ⟨_, execMbSubmit_keeps h e⟩ | mbReset => exact ⟨_, execMbReset_keeps h e⟩
  | mbData => exact ⟨_, execMbData_keeps h e⟩ | signBucketRefill => exact ⟨_, execSignBucketRefill_keeps h e⟩
  | powerOnValid => exact ⟨_, execPowerOnValid_keeps h e⟩ | inputLow => exact ⟨_, execInputLow_keeps h e⟩
  | inputHigh => exact ⟨_, execInputHigh_keeps h e⟩ | inputRangeFail => exact ⟨_, execInputRangeFail_keeps h e⟩
  | powerWindowEnd => exact ⟨_, execPowerWindowEnd_keeps h e⟩ | phaseFault => exact ⟨_, execPhaseFault_keeps h e⟩
  | phaseRetryTimer => exact ⟨_, execPhaseRetryTimer_keeps h e⟩ | phaseCleanTimer => exact ⟨_, execPhaseCleanTimer_keeps h e⟩
  | converterFault => exact ⟨_, execConverterFault_keeps h e⟩ | breakerTrip => exact ⟨_, execBreakerTrip_keeps h e⟩
  | kilnEntryDone => exact ⟨_, execKilnEntryDone_keeps h e⟩ | vcoreStageEnd => exact ⟨_, execVcoreStageEnd_keeps h e⟩
  | railStageDone => exact ⟨_, execRailStageDone_keeps h e⟩ | powerRetry => exact ⟨_, execPowerRetry_keeps h e⟩
  | clockStepDone => exact ⟨_, execClockStepDone_keeps h e⟩ | thermalEval => exact ⟨_, execThermalEval_keeps h e⟩
  | currentLimitTimer => exact ⟨_, execCurrentLimitTimer_keeps h e⟩ | coolantLoss => exact ⟨_, execCoolantLoss_keeps h e⟩
  | connSuspect => exact ⟨_, execConnSuspect_keeps h e⟩ | reclose => exact ⟨_, execReclose_keeps h e⟩
  | conversionDone => exact ⟨_, execConversionDone_keeps h e⟩ | telRepeat => exact ⟨_, execTelRepeat_keeps h e⟩
  | injectedTrigger => exact ⟨_, execInjectedTrigger_keeps h e⟩ | cal => exact ⟨_, execCal_keeps h e⟩ | calCover => exact ⟨_, execCalCover_keeps h e⟩
  | calDone => exact ⟨_, execCalDone_keeps h e⟩ | telemStale => exact ⟨_, execTelemStale_keeps h e⟩
  | threadFaultClassify => exact ⟨_, execThreadFaultClassify_keeps h e⟩ | faultSuspend => exact ⟨_, execFaultSuspend_keeps h e⟩
  | planArm => exact ⟨_, execPlanArm_keeps h e⟩ | planApply => exact ⟨_, execPlanApply_keeps h e⟩ | planResume => exact ⟨_, execPlanResume_keeps h e⟩
  | floorMapRetry => exact ⟨_, execFloorMapRetry_keeps h e⟩ | seBootDone => exact ⟨_, execSeBootDone_keeps h e⟩
  | mcBootDone => exact ⟨_, execMcBootDone_keeps h e⟩ | startupFieldsTimeout => exact ⟨_, execStartupFieldsTimeout_keeps h e⟩
  | selftestDone => exact ⟨_, execSelftestDone_keeps h e⟩ | selftestTimeout => exact ⟨_, execSelftestTimeout_keeps h e⟩
  | spHello => exact ⟨_, execSpHello_keeps h e⟩ | spRegRd => exact ⟨_, execSpRegRd_keeps h e⟩ | spRegWr => exact ⟨_, execSpRegWr_keeps h e⟩
  | stageBegin => exact ⟨_, execStageBegin_keeps h e⟩ | stageData => exact ⟨_, execStageData_keeps h e⟩
  | stageEnd => exact ⟨_, execStageEnd_keeps h e⟩ | spActivate => exact ⟨_, execSpActivate_keeps h e⟩
  | spRestart => exact ⟨_, execSpRestart_keeps h e⟩ | recordRead => exact ⟨_, execRecordRead_keeps h e⟩
  | spSessionTimeout => exact ⟨_, execSpSessionTimeout_keeps h e⟩ | fwActivate => exact ⟨_, execFwActivate_keeps h e⟩
  | fwRestart => exact ⟨_, execFwRestart_keeps h e⟩ | componentBoot => exact ⟨_, execComponentBoot_keeps h e⟩
  | inputLowClear => exact ⟨_, execInputLowClear_keeps h e⟩ | coolantLow => exact ⟨_, execCoolantLow_keeps h e⟩
  | hostLinkRecovery => exact ⟨_, execHostLinkRecovery_keeps h e⟩ | servicePortLink => exact ⟨_, execServicePortLink_keeps h e⟩
  | icmpv6Request => exact ⟨_, execIcmpv6Request_keeps h e⟩ | malformedDatagram => exact ⟨_, execMalformedDatagram_keeps h e⟩

/-- The canonical form says nothing of the queue. -/
theorem canonical_withPending {s : State} (h : Canonical s) (cs : List Instr) : Canonical { s with pending := cs } :=
  ⟨h.live, h.shadow, h.mem, h.stackMem, h.stackKey, h.stackCrc, h.exch⟩

/-- Settles O3: the command at the front acts on the engine with the rest of the queue, and every command keeps both. -/
theorem stepKeepsCanonicalMemories : Obligations.StepKeepsCanonicalMemories := by
  unfold Obligations.StepKeepsCanonicalMemories
  intro s t hcan hstep
  unfold step at hstep
  split at hstep
  case h_1 hempty =>
    cases hstep
    exact ⟨hcan, by rw [hempty]; rfl⟩
  case h_2 c cs hfront =>
    obtain ⟨b, hqueue, hcan'⟩ := exec_keeps ⟨rfl, canonical_withPending hcan cs⟩ hstep
    exact ⟨hcan', (congrArg Prod.fst hqueue).trans (by rw [hfront]; rfl)⟩

end Sys2Proof.Machine
end

section
/-! What the registers and states hold right after reset (R57, R201, R233, R250, R255, R310, R333, R400, R429, R461, R463, R479). -/

namespace Sys2Proof.Machine

open Sys2Proof

theorem pageKind_fieldPage {f r : Nat} (hf : f < 80) (hr : r < 16) : pageKind (fieldPage f r) = fieldRole f r := by
  have hdiv : (fieldPage f r - 0x100) / 16 = f := by unfold fieldPage; omega
  have hmod : (fieldPage f r - 0x100) % 16 = r := by unfold fieldPage; omega
  rw [pageKind, if_neg (by unfold fieldPage; omega), if_pos (by unfold fieldPage; omega), hdiv, hmod]

/-- The same registers stand on a page of every field (R48). -/
theorem regAt_fieldPage {f r : Nat} (hf : f < 80) (hr : r < 16) (off : Nat) : regAt (fieldPage f r) off = regAt (fieldPage 0 r) off := by
  simp only [regAt, pageAssigned, pageKind_fieldPage hf hr, pageKind_fieldPage (show 0 < 80 by decide) hr]
  interval_cases r <;> rfl

/-- Right after reset a register of a field's page holds what the same register of field 0 does. -/
theorem live_reset_fieldPage {f r : Nat} (hf : f < 80) (hr : r < 16) (off : Nat) : live State.reset (fieldPage f r) off = resetWord (fieldPage 0 r) off := by
  change resetWord (fieldPage f r) off = _
  rw [resetWord, resetWord, regAt_fieldPage hf hr]

/-- What the module controller's read of a register returns right after reset. -/
theorem rcRead_reset {page : BitVec 14} {off : BitVec 12} {v : Nat} (hal : off.toNat % 4 = 0) (hv : v < 2 ^ 32)
    (h : (regWord State.reset 0 page.toNat off.toNat).1 = BitVec.ofNat 32 v) :
    ∃ t, exec (.rcRead .mc page off .w32) State.reset = .next t ∧ mget 0 t.busOut 0 = BitVec.ofNat 64 v := by
  refine ⟨busRead .mc page off .w32 State.reset, rfl, ?_⟩
  have hread : (readReg 0 page.toNat off.toNat 0xFFFFFFFF State.reset).1 = BitVec.ofNat 32 v := by
    rw [← h]
    unfold readReg
    dsimp only
    split <;> rfl
  rw [busRead_w32 hal]
  change mget 0 (mset 0 _ 0 (BitVec.ofNat 64 (readReg 0 page.toNat off.toNat 0xFFFFFFFF State.reset).1.toNat)) 0 = _
  rw [mget_mset_same, hread, BitVec.toNat_ofNat, Nat.mod_eq_of_lt hv]

/-- Settles O48: the reads and the reset words are computed, and no state is listed that is not as after reset. -/
theorem resetLeavesWhatTheSpecStates : Obligations.ResetLeavesWhatTheSpecStates := by
  unfold Obligations.ResetLeavesWhatTheSpecStates
  intro r reads fieldRegs
  have hreads : ∀ q ∈ reads, q.2.1.toNat % 4 = 0 ∧ q.2.2 < 2 ^ 32 ∧ (regWord State.reset 0 q.1.toNat q.2.1.toNat).1 = BitVec.ofNat 32 q.2.2 := by
    decide
  have hfields : ∀ q ∈ fieldRegs, q.1 < 16 ∧ resetWord (fieldPage 0 q.1) q.2.1 = BitVec.ofNat 32 q.2.2 := by decide
  have hmodels : ∀ m < 64, modelState State.reset m = 0 := by decide
  refine ⟨fun q hq => ?_, fun f hf q hq => ?_, fun _ _ => rfl, fun _ _ => rfl, fun _ _ => ⟨rfl, rfl⟩, fun _ _ => rfl, fun _ => rfl, hmodels,
    fun _ => rfl, fun _ _ => ⟨rfl, rfl⟩, rfl, rfl, rfl, rfl⟩
  · obtain ⟨hal, hv, hword⟩ := hreads q hq
    exact rcRead_reset hal hv hword
  · obtain ⟨hpage, hword⟩ := hfields q hq
    have hlive := (live_reset_fieldPage hf hpage q.2.1).trans hword
    exact ⟨hlive, hlive⟩

end Sys2Proof.Machine
end

section
/-! Transaction commands in a state that does not accept them, and writes to a locked page: discarded and recorded (R51, R54, R57, R64). -/

namespace Sys2Proof.Machine

open Sys2Proof

/-! ### Words -/

theorem getLsbD_overflowBit {i : Nat} (hi : i < 32) : (0x40000000 : Word).getLsbD i = decide (i = 30) := by
  interval_cases i <;> rfl

theorem withBits_overflow (w : Word) : withBits w 30 30 1 = w ||| 0x40000000 := by
  apply BitVec.eq_of_getLsbD_eq
  intro i hi
  rw [getLsbD_withBits, BitVec.getLsbD_or, getLsbD_overflowBit hi]
  by_cases h30 : i = 30
  · simp [h30]
  · rw [if_neg (by omega), decide_eq_false h30, Bool.or_false]

/-- A code under VALID, and then under OVF too. -/
theorem code_overflow (c : Code) : BitVec.ofNat 32 (2 ^ 31 + c.toNat) ||| 0x40000000 = BitVec.ofNat 32 (2 ^ 31 + 2 ^ 30 + c.toNat) := by
  have hc := c.isLt
  have hclear : (BitVec.ofNat 32 (2 ^ 31 + c.toNat)).getLsbD 30 = false := by
    have hbit : (2 ^ 31 + c.toNat).testBit 30 = false := by
      rw [Nat.testBit_eq_decide_div_mod_eq]
      exact decide_eq_false (by omega)
    rw [BitVec.getLsbD_ofNat, hbit, Bool.and_false]
  have hdisjoint : BitVec.ofNat 32 (2 ^ 31 + c.toNat) &&& 0x40000000 = 0 := by
    apply BitVec.eq_of_getLsbD_eq
    intro i hi
    rw [BitVec.getLsbD_and, getLsbD_overflowBit hi]
    by_cases h30 : i = 30
    · rw [h30, hclear]
      rfl
    · simp [h30]
  rw [← BitVec.add_eq_or_of_and_eq_zero _ _ hdisjoint, show 2 ^ 31 + 2 ^ 30 + c.toNat = 2 ^ 31 + c.toNat + 2 ^ 30 by omega,
    BitVec.ofNat_add (2 ^ 31 + c.toNat) (2 ^ 30)]
  rfl

theorem and_upperHalf_of_lt {w : Word} (h : w.toNat < 2 ^ 16) : w &&& 0xFFFF0000 = 0 := by
  apply BitVec.eq_of_toNat_eq
  have hmask : (0xFFFF0000 : Word).toNat = 2 ^ 16 * 0xFFFF := rfl
  apply Nat.eq_of_testBit_eq
  intro i
  rw [BitVec.toNat_and, hmask, Nat.testBit_and, Nat.testBit_two_pow_mul]
  by_cases hi : 16 ≤ i
  · simp [Nat.testBit_lt_two_pow (lt_of_lt_of_le h (Nat.pow_le_pow_right (by decide) hi))]
  · simp [hi]

/-! ### What a recorded error shows, and what it leaves as it was (R51) -/

/-- A further error sets OVF and leaves BLK_ERRINFO (R51). -/
theorem recordErrAny_again {p : Nat} {c : Code} {s : State} (h : errValid s p = true) :
    live (recordErrAny p c s) p 0x10 = live s p 0x10 ||| 0x40000000 ∧ ∀ a < 4096, a ≠ 0x10 → live (recordErrAny p c s) p a = live s p a := by
  have hset : recordErrAny p c s = setLive p 0x10 (live s p 0x10 ||| 0x40000000) (freshWord s).2 := by
    rw [← withBits_overflow]
    exact if_pos h
  rw [hset]
  exact ⟨live_setLive_same .., fun a ha hne => (live_setLive _ _ (by decide) ha).trans (if_neg fun e => hne e.2.symm)⟩

/-- BLK_TXN is not for an error to change. -/
theorem live_recordErrAny_blkTxn (p : Nat) (c : Code) (s : State) : live (recordErrAny p c s) p 0x18 = live s p 0x18 := by
  cases h : errValid s p with
  | false => exact live_recordErr_first h (by decide) (by decide)
  | true => exact (recordErrAny_again h).2 _ (by decide) (by decide)

/-- What an error leaves as it was, and what BLK_ERR shows of it (R51). -/
theorem recordErrAny_records (p : Nat) (c : Code) (s : State) :
    let t := recordErrAny p c s
    t.groups = s.groups ∧ t.groupSel = s.groupSel ∧ t.shadow = s.shadow ∧ t.cores = s.cores ∧
      (errValid s p = false → live t p 0x10 = BitVec.ofNat 32 (2 ^ 31 + c.toNat)) ∧
      (errValid s p = true → live t p 0x10 = live s p 0x10 ||| 0x40000000 ∧ live t p 0x14 = live s p 0x14) := by
  have hoff := offRegs_recordErrAny p c s
  exact ⟨(congrArg State.groups hoff :), (congrArg State.groupSel hoff :), (congrArg State.shadow hoff :), (congrArg State.cores hoff :),
    fun h => live_recordErr_code h, fun h => ⟨(recordErrAny_again h).1, (recordErrAny_again h).2 _ (by decide) (by decide)⟩⟩

/-- The same error twice: OVF stands beside the code (R51). -/
theorem recordErrAny_twice (p : Nat) (c : Code) (s : State) :
    let t := recordErrAny p c (recordErrAny p c s)
    (errValid s p = false → live t p 0x10 = BitVec.ofNat 32 (2 ^ 31 + 2 ^ 30 + c.toNat)) ∧
      (errValid s p = true → live t p 0x10 = live s p 0x10 ||| 0x40000000 ∧ live t p 0x14 = live s p 0x14) := by
  intro t
  obtain ⟨-, -, -, -, hfirst, hagain⟩ := recordErrAny_records p c s
  obtain ⟨hcode, hrest⟩ := recordErrAny_again (c := c) (s := recordErrAny p c s) (errValid_recordErr ..)
  refine ⟨fun h => ?_, fun h => ?_⟩
  · exact hcode.trans (by rw [hfirst h, code_overflow])
  · obtain ⟨hcode', hinfo⟩ := hagain h
    exact ⟨hcode.trans (by rw [hcode', BitVec.or_assoc, BitVec.or_self]), (hrest _ (by decide) (by decide)).trans hinfo⟩

/-! ### Commands on a group in another state (R64) -/

section
variable {m : Master} {s : State}

theorem armGroup_of_not_opened (h : (grp s (sel s m).1).st ≠ .opened) : armGroup m s = txnState s := if_pos h
theorem armNow_of_not_opened (h : (grp s (sel s m).1).st ≠ .opened) : armNow m s = txnState s := if_pos h
theorem abortGroup_of_other (h : (grp s (sel s m).1).st ≠ .opened) (h' : (grp s (sel s m).1).st ≠ .armed) : abortGroup m s = txnState s :=
  if_neg (not_or.2 ⟨h, h'⟩)
theorem releaseGroup_of_not_done (h : (grp s (sel s m).1).st ≠ .done) : releaseGroup m s = txnState s := if_neg h
theorem txnWrite_commitLow (v : Word) (h : (grp s (sel s m).1).st ≠ .opened) : txnWrite m 0x808 v s = txnState s := if_neg h
theorem txnWrite_commitHigh (v : Word) (h : (grp s (sel s m).1).st ≠ .opened) : txnWrite m 0x80C v s = txnState s := if_neg h

/-- A write to a register of the transaction controller's action area that sets no reserved bit (R55). -/
theorem registerWrite_txn {now : Nat} {off : BitVec 12} {v : BitVec 64} {r : RegRow} (hm : reaches m s = true) (hal : off.toNat % 4 = 0)
    (haction : 0x800 ≤ off.toNat) (hr : regAt 0xC off.toNat = some r) (hres : BitVec.ofNat 32 v.toNat &&& reservedMask r = 0) :
    exec (.registerWrite now m 0xC off .w32 v) s = .next (txnWrite m off.toNat (BitVec.ofNat 32 v.toNat) s) := by
  have hdark : pageDark s 0xC = false := rfl
  have hcfg : isCfg off.toNat = false := by simp only [isCfg, Bool.and_eq_false_iff, decide_eq_false_iff_not]; omega
  have hshadow : isShadowOff off.toNat = false := by simp only [isShadowOff, Bool.and_eq_false_iff, decide_eq_false_iff_not]; omega
  rw [registerWrite_w32 hm hal]
  change Host.Outcome.next (writeReg now m 0xC off.toNat _ s) = _
  simp only [writeReg, hshadow, hdark, hr, hcfg, hres, Bool.or_false, Bool.false_eq_true, if_false, ne_eq, not_true_eq_false]
  rw [if_neg (by omega)]
  rfl

end

/-- Settles O52: each command and write ends in the record of TXN_GROUP_STATE, which leaves groups, selections and shadows. -/
theorem groupsRefuseWrongStates : Obligations.GroupsRefuseWrongStates := by
  unfold Obligations.GroupsRefuseWrongStates
  intro now m s x w refused hm
  have hbar : ∀ act : State → State, Host.Outcome.next (viaBar m act s) = (.next (act s) : Result) := fun act => by rw [viaBar_of_reaches hm]
  have hrefused : refused (.next (txnState s)) := ⟨_, rfl, recordErrAny_records pTxn E.txnGroupState s⟩
  have hcommand : ∀ {act : State → State}, act s = txnState s → refused (.next (viaBar m act s)) := fun hact => by
    rw [hbar, hact]
    exact hrefused
  have hwrite : ∀ {off : BitVec 12} {v : BitVec 64} {r : RegRow}, off.toNat % 4 = 0 → 0x800 ≤ off.toNat → regAt 0xC off.toNat = some r →
      BitVec.ofNat 32 v.toNat &&& reservedMask r = 0 → w off v = .next (txnWrite m off.toNat (BitVec.ofNat 32 v.toNat) s) := registerWrite_txn hm
  refine ⟨fun h => ⟨hcommand (armGroup_of_not_opened h), hcommand (armNow_of_not_opened h), fun v => ?_, fun v hv => ?_⟩,
    fun h h' => hcommand (abortGroup_of_other h h'), fun h => hcommand (releaseGroup_of_not_done h), ?_, ?_, ?_, ?_⟩
  · rw [hwrite (r := ⟨0x808, 4, 1, [frw 31 0 0]⟩) rfl (by decide) rfl BitVec.and_zero]
    exact (txnWrite_commitLow _ h).symm ▸ hrefused
  · rw [hwrite (r := ⟨0x80C, 4, 1, [frw 15 0 0]⟩) rfl (by decide) rfl (and_upperHalf_of_lt (by rw [BitVec.toNat_ofNat]; exact hv))]
    exact (txnWrite_commitHigh _ h).symm ▸ hrefused
  all_goals exact (hwrite rfl (by decide) rfl rfl).trans (hbar _).symm

/-! ### Accesses of a locked page (R54, R57) -/

theorem isCfg_of_bounds {o : Nat} (hlo : 0x40 ≤ o) (hhi : o < 0x400) : isCfg o = true := by
  simp only [isCfg, Bool.and_eq_true, decide_eq_true_eq]
  exact ⟨hlo, hhi⟩

section
variable {now : Nat} {m : Master} {p g : Nat} {s : State}

theorem pageLocked_of_group (hg : pageGroup s p = some g) (hst : (grp s g).st = .validating ∨ (grp s g).st = .armed ∨ (grp s g).st = .irrevocable) :
    pageLocked s p = true := by
  simp only [pageLocked, hg, groupBusy]
  obtain h | h | h := hst <;> simp [h]

theorem pageDark_recordErrAny (q : Nat) (c : Code) : pageDark (recordErrAny q c s) p = pageDark s p := by
  have hoff := offRegs_recordErrAny q c s
  have hfields : (recordErrAny q c s).fields = s.fields := (congrArg State.fields hoff :)
  have hboot : (recordErrAny q c s).boot = s.boot := (congrArg State.boot hoff :)
  simp only [pageDark, fieldSt, fieldOf, restarts, hfields, hboot]

/-- The page is checked before the group: one that is enrolled elsewhere, in a group that is not DONE, is busy (R57 step 2). -/
theorem enrol_of_busy (h : pageAssigned p = true) (hdark : pageDark s p = false) (hp : p ≠ 0xC) (hg : pageGroup s p = some g)
    (hst : (grp s g).st ≠ .done) (k : Nat) : enrol m p k s = recordErrAny p E.txnPageBusy s := by
  have hp' : p ≠ pTxn := hp
  simp [enrol, h, hdark, hp', hg, hst]

theorem withdraw_of_locked (h : pageAssigned p = true) (hdark : pageDark s p = false) (hp : p ≠ 0xC) (hl : pageLocked s p = true) (k : Nat) :
    withdraw m p k s = recordErrAny p E.txnShadowLocked s := by
  have hp' : p ≠ pTxn := hp
  simp [withdraw, h, hdark, hp', hl]

/-- A write of BLK_TXN that sets no reserved bit enrols or withdraws (R51). -/
theorem writeReg_blkTxn {v : Word} {r : RegRow} (hdark : pageDark s p = false) (hr : regAt p 0x18 = some r) (hres : v &&& reservedMask r = 0) :
    writeReg now m p 0x18 v s = if bit v 31 then enrol m p (bits v 5 0) s else withdraw m p (bits v 5 0) s := by
  simp [writeReg, isShadowOff, isCfg, hdark, hr, hres, headerWrite]

/-- Each half of a 64-bit write of a locked page's configuration area is recorded (R46, R54). -/
theorem registerWrite_w64_locked {page : BitVec 14} {off : BitVec 12} {v : BitVec 64} (hm : reaches m s = true) (hal : off.toNat % 8 = 0)
    (hlo : 0x40 ≤ off.toNat) (hhi : off.toNat < 0x400) (hr : (regAt page.toNat off.toNat).isSome = true)
    (hr' : (regAt page.toNat (off.toNat + 4)).isSome = true) (hdark : pageDark s page.toNat = false) (hl : pageLocked s page.toNat = true) :
    exec (.registerWrite now m page off .w64 v) s =
      .next (recordErrAny page.toNat E.txnShadowLocked (recordErrAny page.toNat E.txnShadowLocked s)) := by
  obtain ⟨r, hr⟩ := Option.isSome_iff_exists.1 hr
  obtain ⟨r', hr'⟩ := Option.isSome_iff_exists.1 hr'
  have hcfg' : isCfg (off.toNat + 4) = true := isCfg_of_bounds (by omega) (by omega)
  change Host.Outcome.next (viaBar m _ s) = _
  rw [viaBar_of_reaches hm, regWrite, if_pos hal, writeReg_cfg_locked hdark hr (isCfg_of_bounds hlo hhi) hl,
    writeReg_cfg_locked (by rw [pageDark_recordErrAny, hdark]) hr' hcfg' (by rw [pageLocked_recordErrAny, hl])]

end

/-- Settles O51: each access ends in a record of its error, which leaves shadows, groups and BLK_TXN. -/
theorem lockedPagesDiscardWrites : Obligations.LockedPagesDiscardWrites := by
  unfold Obligations.LockedPagesDiscardWrites
  intro now m page s g p recorded locked busy hm hp hassigned hdark hg hst
  have hl : pageLocked s p = true := pageLocked_of_group hg hst
  have hdone : (grp s g).st ≠ .done := by obtain h | h | h := hst <;> simp [h]
  have hrecorded : ∀ c, recorded c false (.next (recordErrAny p c s)) := fun c => by
    obtain ⟨hgroups, -, hshadow, hcores, hfirst, hagain⟩ := recordErrAny_records p c s
    exact ⟨_, rfl, hshadow, hgroups, hcores, live_recordErrAny_blkTxn .., hfirst, hagain⟩
  have htwice : locked true (.next (recordErrAny p E.txnShadowLocked (recordErrAny p E.txnShadowLocked s))) := by
    obtain ⟨hgroups, -, hshadow, hcores, -, -⟩ := recordErrAny_records p E.txnShadowLocked s
    obtain ⟨hgroups', -, hshadow', hcores', -, -⟩ := recordErrAny_records p E.txnShadowLocked (recordErrAny p E.txnShadowLocked s)
    obtain ⟨hfirst, hagain⟩ := recordErrAny_twice p E.txnShadowLocked s
    exact ⟨_, rfl, hshadow'.trans hshadow, hgroups'.trans hgroups, hcores'.trans hcores,
      (live_recordErrAny_blkTxn ..).trans (live_recordErrAny_blkTxn ..), hfirst, hagain⟩
  have henrol : ∀ k, enrol m p k s = recordErrAny p E.txnPageBusy s := enrol_of_busy hassigned hdark hp hg hdone
  have hwithdraw : ∀ k, withdraw m p k s = recordErrAny p E.txnShadowLocked s := withdraw_of_locked hassigned hdark hp hl
  refine ⟨fun off v hal hlo hhi hr => ?_, fun off v hal hlo hhi hr hr' => ?_, fun v r hr hres => ?_, fun k => ⟨?_, ?_⟩⟩
  · obtain ⟨r, hr⟩ := Option.isSome_iff_exists.1 hr
    rw [registerWrite_w32 hm hal, writeReg_cfg_locked hdark hr (isCfg_of_bounds hlo hhi) hl]
    exact hrecorded _
  · rw [registerWrite_w64_locked hm hal hlo hhi hr hr' hdark hl]
    exact htwice
  · have hbit : bit (BitVec.ofNat 32 v.toNat) 31 = v.getLsbD 31 := by
      rw [bit, BitVec.getLsbD_ofNat, BitVec.testBit_toNat]
      rfl
    rw [registerWrite_w32 hm rfl]
    change if v.getLsbD 31 then busy (.next (writeReg now m p 0x18 _ s)) else locked false (.next (writeReg now m p 0x18 _ s))
    rw [writeReg_blkTxn hdark hr hres, hbit]
    split
    · rw [henrol]
      exact hrecorded _
    · rw [hwithdraw]
      exact hrecorded _
  · change busy (.next (viaBar m _ s))
    rw [viaBar_of_reaches hm, henrol]
    exact hrecorded _
  · change locked false (.next (viaBar m _ s))
    rw [viaBar_of_reaches hm, hwithdraw]
    exact hrecorded _

end Sys2Proof.Machine
end

section
/-! A conversion that the frame of O57 does not cover: at stage 6 of start-up the lasting failure of a pair leaves the engine in service mode
(R476, R508). -/

namespace Sys2Proof.Machine

open Sys2Proof

/-- Stage 6 of start-up, with the hub's first pair of converters: converter 160 converts its entry 0, which is input 15; a comparison of the
pair has failed before, as both pages show, and its recalibration is over; converter 161 has read 100 on that input. -/
def failingPair : State :=
  { State.reset with
    live := [(regKey (pTel 160) 0x10, 0x80000000), (regKey (pTel 160) 0x48, 15), (regKey (pTel 161) 0x10, 0x80000000)]
    convs := [(160, { Conv.reset with job := .regular 0, plausFail := true }), (161, { Conv.reset with readings := [(15, (100, 0))] })]
    boot := { BootUnit.reset with stage := 6 } }

/-- The result 0 lies further from 100 than the comparison allows, so the failure is lasting. -/
theorem failingPair_enters_serviceMode : (conversionDone 160 0 0 failingPair).boot.serviceMode = true := by decide

theorem failingPair_not_in_serviceMode : failingPair.boot.serviceMode = false := rfl

/-- Refutes O57: CONVERSION_DONE can set service mode, and `giveBack` names no part of start-up for it. -/
theorem not_commandsChangeOnlyTheirUnits : ¬ Obligations.CommandsChangeOnlyTheirUnits := by
  unfold Obligations.CommandsChangeOnlyTheirUnits
  intro h
  obtain ⟨hback, -⟩ := h (.conversionDone 160 0 0) failingPair (conversionDone 160 0 0 failingPair) _ rfl rfl
  have hboot : (conversionDone 160 0 0 failingPair).boot = failingPair.boot := (congrArg State.boot hback :)
  have hmode := congrArg BootUnit.serviceMode hboot
  rw [failingPair_enters_serviceMode, failingPair_not_in_serviceMode] at hmode
  cases hmode

end Sys2Proof.Machine
end

section
/-! SUPPORT. What an instruction's operations leave as they were: the engine beside its records, the other cores, and the other threads of
the core (R77, R79, R105). -/

namespace Sys2Proof.Machine

open Sys2Proof

/-! ### Beside the records -/

/-- The engine without what it records about its work: registers of the pages, interrupts, reports, the hazard detector's and the permits'
units, and the bytes marked bad. -/
def sansRecords (s : State) : State :=
  { s with live := [], out := [], host := .reset, freeCount := 0, fieldUnits := [], recov := .reset, badParity := [] }

theorem sansRecords_of_offRegs {s t : State} (h : offRegs t = offRegs s) : sansRecords t = sansRecords s := (congrArg sansRecords h :)

theorem sansRecords_foldl {α : Type} {f : State → α → State} (h : ∀ s x, sansRecords (f s x) = sansRecords s) (l : List α) (s : State) :
    sansRecords (l.foldl f s) = sansRecords s := by
  induction l generalizing s with
  | nil => rfl
  | cons x l ih => rw [List.foldl_cons, ih, h]

@[simp] theorem sansRecords_report (c : Code) (kind unit : Nat) (s : State) : sansRecords (report c kind unit s) = sansRecords s := rfl
@[simp] theorem sansRecords_recordErr (p : Nat) (c : Code) (info : Word) (s : State) : sansRecords (recordErr p c info s) = sansRecords s :=
  sansRecords_of_offRegs (offRegs_recordErr ..)
@[simp] theorem sansRecords_fenceRefused (p src : Nat) (s : State) : sansRecords (fenceRefused p src s) = sansRecords s :=
  sansRecords_recordErr p E.fenceViolation (BitVec.ofNat 32 src) s

@[simp] theorem sansRecords_noteBad (c : Nat) (h : StoreHit) (x : Core) (s : State) : sansRecords (noteBad c h x s) = sansRecords s := by
  unfold noteBad
  split
  · split <;> rfl
  · rfl

@[simp] theorem sansRecords_hitReport (c : Nat) (h : StoreHit) (x : Core) (e : Option Code) (s : State) :
    sansRecords (hitReport c h x e s) = sansRecords s := by
  unfold hitReport
  split
  · split <;> rfl
  · rfl
  · rfl

@[simp] theorem sansRecords_hdRecord (f : Nat) (r : DWord) (s : State) : sansRecords (hdRecord f r s) = sansRecords s := by
  unfold hdRecord
  dsimp only
  split <;> rfl

@[simp] theorem sansRecords_hdBlocked (c t pc cycle reason : Nat) (s : State) : sansRecords (hdBlocked c t pc cycle reason s) = sansRecords s := by
  unfold hdBlocked
  dsimp only
  split
  · exact sansRecords_hdRecord ..
  · rfl

@[simp] theorem sansRecords_hdRead (c t pc cycle : Nat) (rs : List Rng) (s : State) : sansRecords (hdRead c t pc cycle rs s) = sansRecords s := by
  unfold hdRead
  dsimp only
  split
  · refine sansRecords_foldl (fun s w => ?_) ..
    split
    · split
      · exact sansRecords_hdRecord ..
      · rfl
    · rfl
  · rfl

@[simp] theorem sansRecords_hdOutsideWrite (c : Nat) (r : Rng) (s : State) : sansRecords (hdOutsideWrite c r s) = sansRecords s := by
  unfold hdOutsideWrite
  dsimp only
  split
  · refine sansRecords_foldl (fun s w => ?_) ..
    split
    · split <;> rfl
    · rfl
  · rfl

theorem cores_of_sansRecords {s t : State} (h : sansRecords t = sansRecords s) : t.cores = s.cores := (congrArg State.cores h :)
theorem mem_of_sansRecords {s t : State} (h : sansRecords t = sansRecords s) : t.mem = s.mem := (congrArg State.mem h :)

/-! ### Cores of a state -/

theorem coreAt_congr {s t : State} (h : t.cores = s.cores) (d : Nat) : coreAt t d = coreAt s d := by rw [coreAt, coreAt, h]

theorem coreAt_of_sansRecords {s t : State} (h : sansRecords t = sansRecords s) (d : Nat) : coreAt t d = coreAt s d :=
  coreAt_congr (cores_of_sansRecords h) d

@[simp] theorem coreAt_updCore_same (c : Nat) (f : Core → Core) (s : State) : coreAt (updCore c f s) c = f (coreAt s c) := coreAt_setCore_same ..

theorem coreAt_updCore_ne {c d : Nat} (f : Core → Core) (s : State) (h : d ≠ c) : coreAt (updCore c f s) d = coreAt s d :=
  coreAt_setCore_ne _ _ h.symm

@[simp] theorem coreAt_hdRead (c t pc cycle : Nat) (rs : List Rng) (s : State) (d : Nat) : coreAt (hdRead c t pc cycle rs s) d = coreAt s d :=
  coreAt_of_sansRecords (sansRecords_hdRead ..) d
@[simp] theorem coreAt_hdBlocked (c t pc cycle reason : Nat) (s : State) (d : Nat) : coreAt (hdBlocked c t pc cycle reason s) d = coreAt s d :=
  coreAt_of_sansRecords (sansRecords_hdBlocked ..) d
@[simp] theorem coreAt_recordErr (p : Nat) (e : Code) (info : Word) (s : State) (d : Nat) : coreAt (recordErr p e info s) d = coreAt s d :=
  coreAt_of_sansRecords (sansRecords_recordErr ..) d
@[simp] theorem coreAt_writeMem (a : Nat) (l : List Byte) (s : State) (d : Nat) : coreAt (writeMem a l s) d = coreAt s d := rfl
@[simp] theorem mem_updCore (c : Nat) (f : Core → Core) (s : State) : (updCore c f s).mem = s.mem := rfl
@[simp] theorem mem_hdRead (c t pc cycle : Nat) (rs : List Rng) (s : State) : (hdRead c t pc cycle rs s).mem = s.mem :=
  mem_of_sansRecords (sansRecords_hdRead ..)

/-- The engine without its records and its cores. -/
def sansCores (s : State) : State := { sansRecords s with cores := [] }

theorem sansCores_of_sansRecords {s t : State} (h : sansRecords t = sansRecords s) : sansCores t = sansCores s :=
  congrArg (fun u : State => { u with cores := [] }) h

/-! ### What the checks of the store change (R212 to R218) -/

/-- A core without what an access's check can change of it: the records of its store, and its cached lines. -/
def sansChecks (x : Core) : Core := { x with storeStat := 0, storeLast := 0, cache := [] }

/-- Only records of errors and cached lines of core c are changed. -/
structure Checked (c : Nat) (s q : State) : Prop where
  rest : sansCores q = sansCores s
  others : ∀ d, d ≠ c → coreAt q d = coreAt s d
  core : sansChecks (coreAt q c) = sansChecks (coreAt s c)

theorem Checked.refl (c : Nat) (s : State) : Checked c s s := ⟨rfl, fun _ _ => rfl, rfl⟩

theorem Checked.trans {c : Nat} {s q r : State} (h : Checked c s q) (g : Checked c q r) : Checked c s r :=
  ⟨g.rest.trans h.rest, fun d hd => (g.others d hd).trans (h.others d hd), g.core.trans h.core⟩

theorem checked_of_sansRecords {c : Nat} {s t : State} (h : sansRecords t = sansRecords s) : Checked c s t :=
  ⟨sansCores_of_sansRecords h, fun d _ => coreAt_of_sansRecords h d, congrArg sansChecks (coreAt_of_sansRecords h c)⟩

theorem checked_setCore {c : Nat} {s : State} {x : Core} (h : sansChecks x = sansChecks (coreAt s c)) : Checked c s (setCore c x s) :=
  ⟨rfl, fun _ hd => coreAt_setCore_ne _ _ hd.symm, by rw [coreAt_setCore_same, h]⟩

theorem sansChecks_hitEvent (h : StoreHit) (x : Core) : sansChecks (hitEvent h x).1 = sansChecks x := by
  unfold hitEvent
  dsimp only
  split
  · split <;> rfl
  · split <;> rfl
  · split <;> rfl

theorem checked_takeHit (c : Nat) (q : State × Option Code) (h : StoreHit) : Checked c q.1 (takeHit c q h).1 :=
  (checked_setCore (sansChecks_hitEvent h _)).trans
    ((checked_of_sansRecords (sansRecords_noteBad ..)).trans (checked_of_sansRecords (sansRecords_hitReport ..)))

theorem checked_takeLineHit (c : Nat) (lines : List Nat) (q : State × Option Code) (h : StoreHit) : Checked c q.1 (takeLineHit c lines q h).1 := by
  unfold takeLineHit
  dsimp only
  split
  · exact .refl ..
  · refine (checked_setCore ?_).trans (checked_of_sansRecords (sansRecords_hitReport ..))
    exact sansChecks_hitEvent h _

theorem checked_accessCheck (c : Nat) (k : StoreCheck) (rs : List Rng) (lines : List Nat) (s : State) :
    Checked c s (accessCheck c k rs lines s).1 := by
  have hfold : ∀ (l : StoreCheck) (q : State × Option Code), Checked c s q.1 → Checked c s (l.foldl (fun q h =>
      if bankMode (coreAt q.1 c) (bankOf (hitSlot h)) = 2 then takeLineHit c lines q h
      else if slotIn rs (hitSlot h) then takeHit c q h else q) q).1 := by
    intro l
    induction l with
    | nil => exact fun q h => h
    | cons e l ih =>
      refine fun q h => ih _ (h.trans ?_)
      dsimp only
      split
      · exact checked_takeLineHit ..
      · split
        · exact checked_takeHit ..
        · exact .refl ..
  exact hfold _ (s, none) (.refl ..)

theorem checked_readCheck (c : Nat) (k : StoreCheck) (rs : List Rng) (s : State) : Checked c s (readCheck c k rs s).1 := checked_accessCheck ..

section
variable {c : Nat} {s q : State} (h : Checked c s q)
include h

theorem Checked.threads : (coreAt q c).threads = (coreAt s c).threads := (congrArg Core.threads h.core :)
theorem Checked.handles : (coreAt q c).handles = (coreAt s c).handles := (congrArg Core.handles h.core :)
theorem Checked.full : (coreAt q c).full = (coreAt s c).full := (congrArg Core.full h.core :)
theorem Checked.dmq : (coreAt q c).dmq = (coreAt s c).dmq := (congrArg Core.dmq h.core :)
theorem Checked.units : (coreAt q c).units = (coreAt s c).units := (congrArg Core.units h.core :)
theorem Checked.mem : q.mem = s.mem := (congrArg State.mem h.rest :)
theorem Checked.threadAt (t : Nat) : threadAt (coreAt q c) t = threadAt (coreAt s c) t := by
  rw [Machine.threadAt, Machine.threadAt, h.threads]
theorem Checked.hview (n : Nat) : hview (coreAt q c) n = hview (coreAt s c) n := by
  simp only [Machine.hview, handleReg, h.handles]

end

/-- What a read that finds nothing answers with. -/
theorem checked_of_readCheck {c : Nat} {k : StoreCheck} {rs : List Rng} {s q : State} {e : Option Code} (h : readCheck c k rs s = (q, e)) :
    Checked c s q := by
  have := checked_readCheck c k rs s
  rwa [h] at this

/-! ### An offered instruction -/

section
variable {op : Nat} {i : Issue} {s q : State} {k : Iss} (h : Offered op i s k q)
include h

theorem Offered.core : k.c = coreId i.core := by rw [h.view]; rfl
theorem Offered.thread : k.t = i.thread.val := by rw [h.view]; rfl
theorem Offered.cycle : k.cycle = i.cycle := by rw [h.view]; rfl
theorem Offered.seen : k.x = coreAt q k.c := by rw [h.view]; rfl
theorem Offered.errors : k.data = i.data := by rw [h.view]; rfl
theorem Offered.checked : Checked k.c s q := by rw [h.core]; exact checked_of_readCheck h.read
theorem Offered.regs : k.th = threadAt (coreAt q k.c) k.t := by
  rw [h.checked.threadAt, h.view]
  rfl
theorem Offered.ready' : (threadAt (coreAt q k.c) k.t).st = .ready := by
  rw [← h.regs, h.view]
  exact h.ready
theorem Offered.issue (body : Iss → State → IRes) : issue op i body s = settle k.c k.t k.cycle (body k q) := by
  rw [issue_offered h, h.cycle]

end

end Sys2Proof.Machine
end

section
/-! Handles: BIND, UNBIND and DMQ (R80, R83 to R85, R92, R93, R96, R117). -/

namespace Sys2Proof.Machine

open Sys2Proof

/-! ### Fields of a word of any width -/

theorem testBit_bits {n : Nat} (w : BitVec n) (hi lo i : Nat) : (bits w hi lo).testBit i = (decide (i < hi - lo + 1) && bit w (i + lo)) := by
  rw [bits, Nat.testBit_mod_two_pow, Nat.testBit_div_two_pow, BitVec.testBit_toNat, bit]

/-- A bit outside the field that is set. -/
theorem bit_withBits_outside {n : Nat} (w : BitVec n) {hi lo v i : Nat} (h : i < lo ∨ lo + (hi - lo) < i) : bit (withBits w hi lo v) i = bit w i := by
  have hmask : (BitVec.ofNat n ((2 ^ (hi - lo + 1) - 1) * 2 ^ lo)).getLsbD i = false := by
    rw [BitVec.getLsbD_ofNat, Nat.testBit_mul_two_pow, Nat.testBit_two_pow_sub_one]
    have : ¬ (lo ≤ i ∧ i - lo < hi - lo + 1) := by omega
    simp only [Bool.and_eq_false_iff, decide_eq_false_iff_not]
    tauto
  simp only [withBits, bit, BitVec.getLsbD_or, BitVec.getLsbD_and, BitVec.getLsbD_not, hmask, Bool.and_false, Bool.or_false, Bool.not_false,
    Bool.and_true]
  by_cases hn : i < n
  · rw [decide_eq_true hn, Bool.and_true]
  · rw [decide_eq_false hn, Bool.and_false, BitVec.getLsbD_of_ge w i (by omega)]

/-- A field beside the field that is set. -/
theorem bits_withBits_outside {n : Nat} (w : BitVec n) {hi lo v a b : Nat} (hab : b ≤ a) (h : a < lo ∨ lo + (hi - lo) < b) :
    bits (withBits w hi lo v) a b = bits w a b := by
  apply Nat.eq_of_testBit_eq
  intro i
  rw [testBit_bits, testBit_bits]
  by_cases hi' : i < a - b + 1
  · rw [bit_withBits_outside w (by omega)]
  · rw [decide_eq_false hi', Bool.false_and, Bool.false_and]

theorem bit_withBits_cleared (w : DWord) : bit (withBits w 63 63 0) 63 = false := by simp [bit, withBits]

/-! ### The handle table (R80) -/

/-- What a handle word holds: DYN of word 0 is the table's own (R80). -/
def heldWord (i : Nat) (v : DWord) : DWord := if i % 2 = 0 then withBits v 62 62 (if 96 ≤ i then 1 else 0) else v

theorem handleReg_setHandleReg (i j : Nat) (v : DWord) (x : Core) :
    handleReg (setHandleReg i v x) j = if i = j then heldWord i v else handleReg x j := by
  change (mfind (mset (handleReset i) x.handles i (heldWord i v)) j).getD (handleReset j) = _
  rw [mfind_mset]
  by_cases h : i = j
  · subst h
    rw [if_pos rfl, if_pos rfl]
    split
    · exact Eq.symm ‹_›
    · rfl
  · rw [if_neg h, if_neg h]
    rfl

/-- A handle's entry is not for DYN to change. -/
theorem viewOf_heldWord (h : Nat) (v w : DWord) : viewOf (heldWord (2 * h) v) (heldWord (2 * h + 1) w) = viewOf v w := by
  have heven : 2 * h % 2 = 0 := by omega
  have hodd : ¬ (2 * h + 1) % 2 = 0 := by omega
  simp only [heldWord, if_pos heven, if_neg hodd, viewOf]
  simp only [bit_withBits_outside v (i := 63) (hi := 62) (lo := 62) (by decide), bit_withBits_outside v (i := 61) (hi := 62) (lo := 62) (by decide),
    bit_withBits_outside v (i := 60) (hi := 62) (lo := 62) (by decide), bit_withBits_outside v (i := 59) (hi := 62) (lo := 62) (by decide),
    bits_withBits_outside v (a := 58) (b := 56) (hi := 62) (lo := 62) (by decide) (by decide),
    bits_withBits_outside v (a := 47) (b := 24) (hi := 62) (lo := 62) (by decide) (by decide),
    bits_withBits_outside v (a := 12) (b := 0) (hi := 62) (lo := 62) (by decide) (by decide)]

/-- Clearing VALID leaves an entry's other fields (R85). -/
theorem viewOf_invalidated (v w : DWord) : viewOf (withBits v 63 63 0) w = { viewOf v w with valid := false } := by
  simp only [viewOf, bit_withBits_cleared, bit_withBits_outside v (i := 61) (hi := 63) (lo := 63) (by decide),
    bit_withBits_outside v (i := 60) (hi := 63) (lo := 63) (by decide), bit_withBits_outside v (i := 59) (hi := 63) (lo := 63) (by decide),
    bits_withBits_outside v (a := 58) (b := 56) (hi := 63) (lo := 63) (by decide) (by decide),
    bits_withBits_outside v (a := 47) (b := 24) (hi := 63) (lo := 63) (by decide) (by decide),
    bits_withBits_outside v (a := 12) (b := 0) (hi := 63) (lo := 63) (by decide) (by decide)]

theorem hview_congr {x y : Core} (h : y.handles = x.handles) (n : Nat) : hview y n = hview x n := by simp only [hview, handleReg, h]

/-- Setting both words of a handle changes that handle alone. -/
theorem hview_setHandleReg_both (h j : Nat) (v w : DWord) (x : Core) :
    hview (setHandleReg (2 * h + 1) w (setHandleReg (2 * h) v x)) j = if j = h then viewOf v w else hview x j := by
  rw [hview, handleReg_setHandleReg, handleReg_setHandleReg, handleReg_setHandleReg, handleReg_setHandleReg]
  by_cases hj : j = h
  · subst hj
    rw [if_neg (by omega), if_pos rfl, if_pos rfl, if_pos rfl]
    exact viewOf_heldWord ..
  · rw [if_neg (by omega), if_neg (by omega), if_neg (by omega), if_neg (by omega), if_neg hj]
    rfl

/-- Invalidating a handle changes its VALID alone (R85). -/
theorem hview_unbind (h j : Nat) (x : Core) :
    hview (setHandleReg (2 * h) (withBits (handleReg x (2 * h)) 63 63 0) x) j = if j = h then { hview x h with valid := false } else hview x j := by
  have hodd : 2 * h ≠ 2 * j + 1 := by omega
  rw [hview, handleReg_setHandleReg, handleReg_setHandleReg, if_neg hodd]
  by_cases hj : j = h
  · subst hj
    rw [if_pos rfl, if_pos rfl, hview, ← viewOf_invalidated]
    have := viewOf_heldWord j (withBits (handleReg x (2 * j)) 63 63 0) (handleReg x (2 * j + 1))
    rwa [show heldWord (2 * j + 1) (handleReg x (2 * j + 1)) = handleReg x (2 * j + 1) from if_neg (by omega)] at this
  · rw [if_neg (by omega), if_neg hj]
    rfl

/-! ### Issuing (R77) -/

@[simp] theorem coreAt_issued (c t : Nat) (cycle : DWord) (pc : BitVec 18) (s : State) :
    coreAt (issued c t cycle pc s) c = { setThread t { threadAt (coreAt s c) t with pc := pc } (coreAt s c) with
      lastIssued := t, offerCycle := cycle, passed := List.range 16 } := coreAt_setCore_same ..

theorem threadAt_issued (c t u : Nat) (cycle : DWord) (pc : BitVec 18) (s : State) :
    threadAt (coreAt (issued c t cycle pc s) c) u = if t = u then { threadAt (coreAt s c) t with pc := pc } else threadAt (coreAt s c) u := by
  rw [coreAt_issued]
  exact threadAt_setThread ..

@[simp] theorem threadAt_issued_same (c t : Nat) (cycle : DWord) (pc : BitVec 18) (s : State) :
    threadAt (coreAt (issued c t cycle pc s) c) t = { threadAt (coreAt s c) t with pc := pc } := by rw [threadAt_issued, if_pos rfl]

theorem hview_issued (c t : Nat) (cycle : DWord) (pc : BitVec 18) (s : State) (n : Nat) :
    hview (coreAt (issued c t cycle pc s) c) n = hview (coreAt s c) n := hview_congr (by rw [coreAt_issued]; rfl) n

/-- The core of a thread that faults: its record, and the thread's state (R79). -/
theorem coreAt_faultThread (c t : Nat) (e : Code) (s : State) :
    coreAt (faultThread c t e s) c = { setThread t { threadAt (coreAt s c) t with st := .faulted, wait := .none, met := false } (coreAt s c) with
      coreErr := if bit (coreAt s c).coreErr 63 then (coreAt s c).coreErr
        else BitVec.ofNat 64 (2 ^ 63 + 2 ^ 32 * e.toNat + 2 ^ 24 * t + (threadAt (coreAt s c) t).pc.toNat) } := by
  rw [faultThread, noteFault, coreAt_recordErr, coreAt_setCore_same, coreAt_setCore_same]
  rfl

/-! ### UNBIND (R85) -/

section
variable {i : Issue} {s q : State} {k : Iss} (h : Offered 0x49 i s k q)
include h

theorem exec_unbind_placed (hh : fw k 55 50 < 48) : exec (.unbind i) s = .next (faultThread k.c k.t E.handleKind q) := by
  change Host.Outcome.next (issue 0x49 i unbindBody s) = _
  rw [h.issue, unbindBody, if_pos hh]
  rfl

theorem exec_unbind_dynamic (hh : 48 ≤ fw k 55 50) :
    ∃ t, exec (.unbind i) s = .next t ∧
      (∀ j, hview (coreAt t k.c) j = if j = fw k 55 50 then { hview (coreAt q k.c) (fw k 55 50) with valid := false } else hview (coreAt q k.c) j) ∧
      threadAt (coreAt t k.c) k.t = { threadAt (coreAt q k.c) k.t with pc := k.pc + 8 } ∧ t.mem = q.mem ∧ t.stackMem = q.stackMem := by
  have hbody := h.issue unbindBody
  rw [unbindBody, if_neg (by omega), settle] at hbody
  refine ⟨_, congrArg Host.Outcome.next hbody, fun j => ?_, ?_, rfl, rfl⟩
  · rw [hview_issued, coreAt_updCore_same, hview_unbind]
  · rw [threadAt_issued_same, coreAt_updCore_same]
    rfl

end

/-- Settles O53: of a dynamic handle VALID alone changes, and a placed one is rejected before anything changes. -/
theorem unbindInvalidatesDynamicHandles : Obligations.UnbindInvalidatesDynamicHandles := by
  unfold Obligations.UnbindInvalidatesDynamicHandles
  intro i s q k h hoff
  refine ⟨fun hdyn => ?_, fun hplaced => ⟨exec_unbind_placed hoff hplaced, fun j => hview_congr (by rw [coreAt_faultThread]; rfl) j⟩⟩
  obtain ⟨t, hexec, hview', hrest⟩ := exec_unbind_dynamic hoff hdyn
  have hsame : hview (coreAt t k.c) h = { hview (coreAt q k.c) h with valid := false } := (hview' h).trans (if_pos rfl)
  have hother : ∀ j, j ≠ h → hview (coreAt t k.c) j = hview (coreAt q k.c) j := fun j hj => (hview' j).trans (if_neg hj)
  refine ⟨t, hexec, by rw [hsame], hsame, hother, fun hinvalid j => ?_, hrest⟩
  by_cases hj : j = h
  · rw [hj, hsame, ← hinvalid]
  · exact hother j hj

/-! ### BIND (R84) -/

theorem firstFail_none {l : List (Bool × Code)} (h : firstFail l = none) : ∀ e ∈ l, e.1 = false := by
  induction l with
  | nil => exact fun _ he => absurd he List.not_mem_nil
  | cons a l ih =>
    obtain ⟨b, c⟩ := a
    rw [firstFail] at h
    split at h
    · cases h
    · rename_i hb
      exact List.forall_mem_cons.2 ⟨by simpa using hb, ih h⟩

theorem bits_lt {n : Nat} (w : BitVec n) (hi lo : Nat) : bits w hi lo < 2 ^ (hi - lo + 1) := Nat.mod_lt _ (Nat.two_pow_pos _)

theorem bit_ofNat {n v i : Nat} (hi : i < n) : bit (BitVec.ofNat n v) i = decide (v / 2 ^ i % 2 = 1) := by
  rw [bit, BitVec.getLsbD_ofNat, decide_eq_true hi, Bool.true_and, Nat.testBit_eq_decide_div_mod_eq]

theorem bits_ofNat {v : Nat} (hi lo : Nat) (hv : v < 2 ^ 64) : bits (BitVec.ofNat 64 v) hi lo = v / 2 ^ lo % 2 ^ (hi - lo + 1) := by
  rw [bits, BitVec.toNat_ofNat, Nat.mod_eq_of_lt hv]

/-- An entry whose word 0 is put together from its fields (R80). -/
theorem viewOf_fields {r w t cls n b : Nat} (hr : r < 2) (hw : w < 2) (ht : t < 2) (hcls : cls < 8) (hn : n < 2 ^ 24) (hb : b < 2 ^ 13) (w1 : DWord) :
    viewOf (BitVec.ofNat 64 (2 ^ 63 + 2 ^ 61 * r + 2 ^ 60 * w + 2 ^ 59 * t + 2 ^ 56 * cls + 2 ^ 24 * n + b)) w1 =
      ⟨true, r == 1, w == 1, decide (t = 1), cls, n * (if cls = 2 then 256 else 32), if cls = 2 then 256 * bits w1 41 8 else b * 32⟩ := by
  have hlt : 2 ^ 63 + 2 ^ 61 * r + 2 ^ 60 * w + 2 ^ 59 * t + 2 ^ 56 * cls + 2 ^ 24 * n + b < 2 ^ 64 := by omega
  have hcls' : bits (BitVec.ofNat 64 (2 ^ 63 + 2 ^ 61 * r + 2 ^ 60 * w + 2 ^ 59 * t + 2 ^ 56 * cls + 2 ^ 24 * n + b)) 58 56 = cls := by
    rw [bits_ofNat _ _ hlt]
    omega
  simp only [viewOf, hcls', bits_ofNat _ _ hlt, bit_ofNat (n := 64) (show 63 < 64 by decide), bit_ofNat (n := 64) (show 61 < 64 by decide),
    bit_ofNat (n := 64) (show 60 < 64 by decide), bit_ofNat (n := 64) (show 59 < 64 by decide), HView.mk.injEq, Bool.beq_eq_decide_eq]
  refine ⟨decide_eq_true (by omega), decide_eq_decide.2 (by omega), decide_eq_decide.2 (by omega), decide_eq_decide.2 (by omega), trivial, ?_, ?_⟩
  · congr 1
    omega
  · congr 2
    omega

/-- The extent and the first byte of an entry lie in its class's units (R80). -/
theorem hview_units (x : Core) (n : Nat) :
    (hview x n).cls < 8 ∧ (hview x n).ext / bindUnit (hview x n) < 2 ^ 24 ∧ (hview x n).base % bindUnit (hview x n) = 0 := by
  have hext := bits_lt (handleReg x (2 * n)) 47 24
  refine ⟨bits_lt (handleReg x (2 * n)) 58 56, ?_, ?_⟩
  · change bits (handleReg x (2 * n)) 47 24 * (if (hview x n).cls = 2 then 256 else 32) / bindUnit (hview x n) < 2 ^ 24
    unfold bindUnit
    split <;> omega
  · change (if (hview x n).cls = 2 then _ else _) % bindUnit (hview x n) = 0
    unfold bindUnit
    split <;> omega

/-- The bound handle, where the source lies in its core store or in the stack windows (R84). -/
theorem viewOf_boundWords {k : Iss} (hc : bindCheck k = none) (hlen : fs k 38 34 ≠ 0)
    (hin : if (fh k 49 44).cls = 2 then (fh k 49 44).base + (fh k 49 44).ext ≤ 2 ^ 42 else (fh k 49 44).base + (fh k 49 44).ext ≤ 0x30000) :
    viewOf (boundWords k).1 (boundWords k).2 = ⟨true, fw k 33 33 == 1, fw k 32 32 == 1, (fh k 49 44).tagged, (fh k 49 44).cls, fn k 38 34,
      (fh k 49 44).base + fn k 43 39⟩ := by
  have hall := firstFail_none hc
  simp only [List.mem_cons, List.not_mem_nil, or_false, forall_eq_or_imp, forall_eq, Bool.or_eq_false_iff, bne_eq_false_iff_eq,
    decide_eq_false_iff_not] at hall
  obtain ⟨-, -, ⟨hoff, hlenUnit⟩, -, hover, -⟩ := hall
  obtain ⟨hcls, hext, hbase⟩ := hview_units k.x (fw k 49 44)
  have hpos : 0 < fn k 38 34 := Nat.pos_of_ne_zero fun h0 => hlen (BitVec.eq_of_toNat_eq h0)
  have hr := bits_lt k.word 33 33
  have hw := bits_lt k.word 32 32
  have ht : b2n (fh k 49 44).tagged < 2 := by unfold b2n; split <;> decide
  have htag : decide (b2n (fh k 49 44).tagged = 1) = (fh k 49 44).tagged := by cases (fh k 49 44).tagged <;> rfl
  change fn k 43 39 % _ = 0 at hoff
  change fn k 38 34 % _ = 0 at hlenUnit
  change ¬ (fh k 49 44).ext < fn k 43 39 + fn k 38 34 at hover
  change (fh k 49 44).cls < 8 at hcls
  change (fh k 49 44).ext / bindUnit (fh k 49 44) < 2 ^ 24 at hext
  change (fh k 49 44).base % bindUnit (fh k 49 44) = 0 at hbase
  have hn : fn k 38 34 / bindUnit (fh k 49 44) < 2 ^ 24 := lt_of_le_of_lt (Nat.div_le_div_right (by omega)) hext
  by_cases h2 : (fh k 49 44).cls = 2
  · have hunit : bindUnit (fh k 49 44) = 256 := if_pos h2
    rw [if_pos h2] at hin
    rw [hunit] at hoff hlenUnit hbase hn
    have hw1 : bits (BitVec.ofNat 64 ((fh k 49 44).base + fn k 43 39)) 41 8 = ((fh k 49 44).base + fn k 43 39) / 256 := by
      rw [bits_ofNat _ _ (by omega)]
      omega
    have := viewOf_fields hr hw ht hcls hn (show 0 < 2 ^ 13 by decide) (BitVec.ofNat 64 ((fh k 49 44).base + fn k 43 39))
    rw [if_pos h2, if_pos h2, hw1, htag, Nat.add_zero] at this
    simp only [boundWords, if_pos h2, hunit]
    refine this.trans ?_
    congr 1 <;> omega
  · have hunit : bindUnit (fh k 49 44) = 32 := if_neg h2
    rw [if_neg h2] at hin
    rw [hunit] at hoff hlenUnit hbase hn
    have := viewOf_fields hr hw ht hcls hn (show ((fh k 49 44).base + fn k 43 39) / 32 < 2 ^ 13 by omega) 0
    rw [if_neg h2, if_neg h2, htag] at this
    simp only [boundWords, if_neg h2, hunit]
    refine this.trans ?_
    congr 1 <;> omega

section
variable {i : Issue} {s q : State} {k : Iss} (h : Offered 0x48 i s k q) (hc : bindCheck k = none)
include h hc

theorem exec_bind_empty (hlen : fs k 38 34 = 0) : exec (.bind i) s = .next (issued k.c k.t k.cycle (k.pc + 8) q) := by
  change Host.Outcome.next (issue 0x48 i bindBody s) = _
  simp only [h.issue, bindBody, hc, if_pos hlen]
  rfl

theorem exec_bind (hlen : fs k 38 34 ≠ 0) :
    ∃ t, exec (.bind i) s = .next t ∧
      (threadAt (coreAt t k.c) k.t = { threadAt (coreAt q k.c) k.t with pc := k.pc + 8 } ∧ t.mem = q.mem ∧ t.stackMem = q.stackMem) ∧
      ∀ j, hview (coreAt t k.c) j = if j = fw k 55 50 then viewOf (boundWords k).1 (boundWords k).2 else hview (coreAt q k.c) j := by
  have hbody := h.issue bindBody
  simp only [bindBody, hc, if_neg hlen, settle] at hbody
  refine ⟨_, congrArg Host.Outcome.next hbody, ⟨?_, rfl, rfl⟩, fun j => ?_⟩
  · rw [threadAt_issued_same, coreAt_updCore_same]
    rfl
  · rw [hview_issued, coreAt_updCore_same, hview_setHandleReg_both]

end

/-! ### DMQ (R92, R93, R96) -/

/-- The scoreboard entries that a descriptor which moves bytes adds (R87). -/
theorem descScored_entry {d : Desc} (hlen : d.len ≠ 0) (l : List Score) :
    (if descScored d then l ++ [⟨d.id, d.op == 1, descRng d⟩] else l) =
      l ++ (if d.op ≤ 2 ∧ d.tagged = false then [⟨d.id, d.op == 1, rngOf false d.loc d.len⟩] else []) := by
  by_cases hs : d.op ≤ 2 ∧ d.tagged = false
  · have hrng : descRng d = rngOf false d.loc d.len := by
      rw [descRng, decide_eq_false (by omega)]
    rw [if_pos hs, if_pos (by simp [descScored, hs, hlen]), hrng]
  · rw [if_neg hs, if_neg, List.append_nil]
    simpa [descScored, hlen] using hs

section
variable {i : Issue} {s q : State} {k : Iss} (h : Offered 0x4A i s k q) (hc : dmqCheck k.x (fs k 50 46) (fs k 45 41) = none)
  (hb : dmqBlock k.x (descOf k.x (fs k 50 46) (fs k 45 41)) = none)
include h hc hb

theorem exec_dmq_empty (hlen : (descOf k.x (fs k 50 46) (fs k 45 41)).len = 0) :
    exec (.dmq i) s = .next (issued k.c k.t k.cycle (k.pc + 8) (sendNotify k.c k.c (bit (fs k 50 46) 38) (bits (fs k 50 46) 53 39) q)) := by
  change Host.Outcome.next (issue 0x4A i dmqBody s) = _
  simp only [h.issue, dmqBody, hc, hb, if_pos hlen]
  rfl

theorem exec_dmq (hlen : (descOf k.x (fs k 50 46) (fs k 45 41)).len ≠ 0) :
    let d := descOf k.x (fs k 50 46) (fs k 45 41)
    ∃ t, exec (.dmq i) s = .next t ∧
      (threadAt (coreAt t k.c) k.t = { threadAt (coreAt q k.c) k.t with pc := k.pc + 8 } ∧ t.mem = q.mem ∧ t.stackMem = q.stackMem) ∧
      (coreAt t k.c).dmq = (coreAt q k.c).dmq ++ [d] ∧
      (coreAt t k.c).score = (coreAt q k.c).score ++
        (if d.op ≤ 2 ∧ d.tagged = false then [⟨d.id, d.op == 1, rngOf false d.loc d.len⟩] else []) ∧
      (coreAt t k.c).handles = (coreAt q k.c).handles := by
  intro d
  have hbody := h.issue dmqBody
  simp only [dmqBody, hc, hb, if_neg hlen, settle] at hbody
  refine ⟨_, congrArg Host.Outcome.next hbody, ⟨?_, rfl, rfl⟩, ?_, ?_, ?_⟩
  · rw [threadAt_issued_same, coreAt_updCore_same]
    rfl
  · rw [coreAt_issued, coreAt_updCore_same]
    rfl
  · rw [coreAt_issued, coreAt_updCore_same]
    exact descScored_entry hlen _
  · rw [coreAt_issued, coreAt_updCore_same]
    rfl

end

/-- Settles O12: BIND and DMQ end as their bodies say once the checks are passed, and UNBIND as above. -/
theorem bindUnbindAndEnqueue : Obligations.BindUnbindAndEnqueue := by
  unfold Obligations.BindUnbindAndEnqueue
  intro i s q k src off len dst w0 w1 d goesOn
  refine ⟨exec_bind_empty, fun h hc hlen hin => ?_, fun h hdyn => ?_, fun h hplaced => ?_, fun h hc hb hlen => ?_, exec_dmq_empty⟩
  · obtain ⟨t, hexec, hgoes, hview⟩ := exec_bind h hc hlen
    exact ⟨t, hexec, hgoes, (hview dst).trans ((if_pos rfl).trans (viewOf_boundWords hc hlen hin)), fun j hj => (hview j).trans (if_neg hj)⟩
  · obtain ⟨t, hexec, hview, hgoes⟩ := exec_unbind_dynamic h hdyn
    exact ⟨t, hexec, hgoes, (hview dst).trans (if_pos rfl), fun j hj => (hview j).trans (if_neg hj)⟩
  · rw [exec_unbind_placed h hplaced, h.core, h.thread]
  · obtain ⟨t, hexec, hgoes, hdmq, hscore, hhandles⟩ := exec_dmq h hc hb hlen
    exact ⟨t, hexec, hgoes, hdmq, hscore, rfl, rfl, rfl, rfl, rfl, hhandles⟩

end Sys2Proof.Machine
end

section
/-! Loads and stores (R70, R71, R82, R115, R206, R212). -/

namespace Sys2Proof.Machine

open Sys2Proof

/-! ### Waiting threads (R77) -/

theorem mfind_map {α β : Type} (f : α → β) (m : Map α) (k : Nat) : mfind (m.map fun e => (e.1, f e.2)) k = (mfind m k).map f := by
  induction m with
  | nil => rfl
  | cons e m ih =>
    rw [List.map_cons, mfind, mfind, ih]
    split <;> rfl

/-- A thread after an event that meets the waits of `p`. -/
def metBy (p : WaitOn → Bool) (th : Thread) : Thread := if th.st == .blocked && p th.wait then { th with met := true } else th

theorem metBy_of_not_blocked {p : WaitOn → Bool} {th : Thread} (h : th.st ≠ .blocked) : metBy p th = th := by
  rw [metBy, beq_false_of_ne h]
  rfl

/-- An event concerns the blocked threads whose wait it meets, and them alone. -/
theorem threadAt_meetWaits (p : WaitOn → Bool) (x : Core) (n : Nat) : threadAt (meetWaits p x) n = metBy p (threadAt x n) := by
  change (mfind (x.threads.map fun e => (e.1, metBy p e.2)) n).getD .reset = metBy p ((mfind x.threads n).getD .reset)
  rw [mfind_map]
  cases mfind x.threads n <;> rfl

theorem threadAt_meetWaits_of_not_blocked (p : WaitOn → Bool) {x : Core} {n : Nat} (h : (threadAt x n).st ≠ .blocked) :
    threadAt (meetWaits p x) n = threadAt x n := by
  rw [threadAt_meetWaits, metBy_of_not_blocked h]

/-! ### Tags (R70) -/

theorem mem_insertAsc {k j : Nat} {l : List Nat} : k ∈ insertAsc j l ↔ k = j ∨ k ∈ l := by
  induction l with
  | nil => simp [insertAsc]
  | cons a l ih =>
    rw [insertAsc]
    split
    · simp
    · split
      · rename_i h
        simp [h]
      · simp only [List.mem_cons, ih]
        tauto

theorem mem_foldl_insertAsc {k : Nat} {js l : List Nat} : k ∈ js.foldl (fun l k => insertAsc k l) l ↔ k ∈ js ∨ k ∈ l := by
  induction js generalizing l with
  | nil => simp
  | cons j js ih =>
    rw [List.foldl_cons, ih, mem_insertAsc, List.mem_cons]
    tauto

theorem allFull_setFull (r : Rng) (x : Core) : allFull (setFull r x) r = true :=
  List.all_eq_true.2 fun _ hk => List.contains_iff_mem.2 (mem_foldl_insertAsc.2 (.inl hk))

theorem mem_slotsOf {k : Nat} {r : Rng} : k ∈ slotsOf r ↔ r.first ≤ k ∧ k < r.first + r.count := by
  simp only [slotsOf, List.mem_map, List.mem_range]
  constructor
  · rintro ⟨a, ha, rfl⟩
    omega
  · exact fun h => ⟨k - r.first, by omega, by omega⟩

theorem allEmpty_setEmpty (r : Rng) (x : Core) : allEmpty (setEmpty r x) r = true := by
  refine List.all_eq_true.2 fun k hk => ?_
  obtain ⟨hlo, hhi⟩ := mem_slotsOf.1 hk
  have hnot : k ∉ x.full.filter fun k => !(r.first ≤ k && k < r.first + r.count) := fun hmem => by
    simp [hlo, hhi] at hmem
  have hcontains : (setEmpty r x).full.contains k = false := by
    rw [Bool.eq_false_iff]
    exact fun hc => hnot (List.contains_iff_mem.1 hc)
  rw [hcontains]
  rfl

theorem allFull_congr {x y : Core} (h : y.full = x.full) (r : Rng) : allFull y r = allFull x r := by rw [allFull, allFull, h]
theorem allEmpty_congr {x y : Core} (h : y.full = x.full) (r : Rng) : allEmpty y r = allEmpty x r := by rw [allEmpty, allEmpty, h]

section
variable {c : Nat} {u : Use} {full : Bool} {s : State}

theorem useTag_untagged (h : u.h.tagged = false) : useTag c u full s = s := if_neg (by simp [h])

theorem threadAt_useTag {n : Nat} (h : (threadAt (coreAt s c) n).st ≠ .blocked) :
    threadAt (coreAt (useTag c u full s) c) n = threadAt (coreAt s c) n := by
  unfold useTag
  split
  · rw [coreAt_updCore_same]
    split <;> exact threadAt_meetWaits_of_not_blocked _ h
  · rfl

theorem allFull_useTag (h : u.h.tagged = true) : allFull (coreAt (useTag c u true s) c) (useRng u) = true := by
  rw [useTag, if_pos h, coreAt_updCore_same]
  exact allFull_setFull ..

theorem allEmpty_useTag (h : u.h.tagged = true) : allEmpty (coreAt (useTag c u false s) c) (useRng u) = true := by
  rw [useTag, if_pos h, coreAt_updCore_same]
  exact allEmpty_setEmpty ..

@[simp] theorem mem_useTag : (useTag c u full s).mem = s.mem := by
  unfold useTag
  split <;> rfl

@[simp] theorem stackMem_useTag : (useTag c u full s).stackMem = s.stackMem := by
  unfold useTag
  split <;> rfl

theorem cache_useTag : (coreAt (useTag c u full s) c).cache = (coreAt s c).cache := by
  unfold useTag
  split
  · rw [coreAt_updCore_same]
    split <;> rfl
  · rfl

end

/-! ### The cache (R89) -/

/-- A core without its cached lines and the stamp of their latest use. -/
def sansCache (x : Core) : Core := { x with cache := [], useStamp := 0 }

theorem sansCache_touchLines (l : List Nat) (x : Core) : sansCache (touchLines l x) = sansCache x := by
  induction l generalizing x with
  | nil => rfl
  | cons a l ih =>
    refine (ih _).trans ?_
    dsimp only
    split <;> rfl

theorem sansCache_cacheWrite (a : Nat) (l : List Byte) (x : Core) : sansCache (cacheWrite x a l) = sansCache x := by
  induction l generalizing x a with
  | nil => rfl
  | cons b l ih =>
    refine (ih _ _).trans ?_
    unfold cacheSet
    split <;> rfl

theorem threadAt_of_sansCache {x y : Core} (h : sansCache y = sansCache x) (n : Nat) : threadAt y n = threadAt x n := by
  have hthreads : y.threads = x.threads := (congrArg Core.threads h :)
  rw [threadAt, threadAt, hthreads]

/-- A use of lines does not change their bytes. -/
theorem data_touchLines (l : List Nat) (x : Core) (j : Nat) :
    (mfind (touchLines l x).cache j).map CacheLine.data = (mfind x.cache j).map CacheLine.data := by
  induction l generalizing x with
  | nil => rfl
  | cons a l ih =>
    refine (ih _).trans ?_
    dsimp only
    split
    · rename_i e he
      rw [mfind_mput]
      split
      · rename_i haj
        rw [← haj, he]
        rfl
      · rfl
    · rfl

theorem cacheRead_touchLines (l : List Nat) (x : Core) (a n : Nat) : cacheRead (touchLines l x) a n = cacheRead x a n := by
  induction n generalizing a with
  | zero => rfl
  | succ n ih =>
    have hdata := data_touchLines l x (a / 256)
    rw [cacheRead, cacheRead, ih]
    congr 1
    cases hx : mfind x.cache (a / 256) with
    | none =>
      rw [hx] at hdata
      rw [Option.map_eq_none_iff.1 hdata]
    | some e =>
      rw [hx] at hdata
      obtain ⟨e', he', hd⟩ := Option.map_eq_some_iff.1 hdata
      rw [he']
      exact congrArg (fun d : List Byte => d.getD (a % 256) 0) hd

theorem readMem_congr {s t : State} (h : t.mem = s.mem) (a n : Nat) : readMem t a n = readMem s a n := by
  induction n generalizing a with
  | zero => rfl
  | succ n ih => rw [readMem, readMem, ih, h]

theorem useBytes_touched (c : Nat) (u : Use) (l : List Nat) (s : State) : useBytes c u (updCore c (touchLines l) s) = useBytes c u s := by
  unfold useBytes
  rw [coreAt_updCore_same, cacheRead_touchLines, readMem_congr (mem_updCore ..)]

theorem useBytes_congr {c : Nat} {s t : State} (hc : coreAt t c = coreAt s c) (hm : t.mem = s.mem) (u : Use) : useBytes c u t = useBytes c u s := by
  unfold useBytes
  rw [hc, readMem_congr hm]

/-! ### Reads that nothing holds back and nothing fails (R213) -/

theorem missBlock_of_gate {c : Nat} {us : List Use} {s : State} (h : gate c us s = none) : missBlock c (us.flatMap useLines) s = none := by
  unfold gate gateLines at h
  dsimp only at h
  repeat' split at h
  all_goals first | exact h | cases h

/-- What a clean plain read goes on with: the lines it used are touched. -/
theorem withPlainReads_clean {k : Iss} {us : List Use} {s : State} (hg : gate k.c us s = none) (hu : useCheck k.c k.data us s = (s, none))
    (go : State → IRes) : withPlainReads k us s go = go (updCore k.c (touchLines (us.flatMap useLines)) s) := by
  simp only [withPlainReads, hu, missBlock_of_gate hg]

theorem withReads_clean {k : Iss} {us : List Use} {s : State} (hg : gate k.c us s = none) (hu : useCheck k.c k.data us s = (s, none))
    (go : State → IRes) : withReads k us s go =
      go (hdRead k.c k.t k.pc.toNat k.cycle.toNat (us.map useRng) (updCore k.c (touchLines (us.flatMap useLines)) s)) :=
  withPlainReads_clean hg hu _

/-! ### LDF, LDK and EMPT (R115) -/

theorem handleChk_tagged {h : HView} {rd wr : Bool} {l : List Nat} (hc : handleChk h rd wr l true = none) : h.tagged = true := by
  unfold handleChk at hc
  split at hc
  · cases hc
  · split at hc
    · cases hc
    · split at hc
      · cases hc
      · split at hc
        · cases hc
        · rename_i hn
          simpa using hn

theorem tagged_of_memCheck {k : Iss} {u : Use} {rd wr : Bool} {len : Option DWord} (h : memCheck k u rd wr true len = none) : u.h.tagged = true := by
  unfold memCheck at h
  split at h
  · cases h
  · exact handleChk_tagged ‹_›

theorem loadReg_st (k : Iss) (l : List Byte) (th : Thread) : (loadReg k l th).st = th.st := by
  unfold loadReg
  split
  · exact setS_st ..
  · rfl

/-- The state that a load leaves at its end, before the thread goes on. -/
def afterLoad (ldf : Bool) (k : Iss) (q : State) : State :=
  let u := memUse k (memSize k) false (some true) ldf
  let t := updThread k (loadReg k (useBytes k.c u q))
    (hdRead k.c k.t k.pc.toNat k.cycle.toNat [useRng u] (updCore k.c (touchLines (useLines u)) q))
  if ldf then useTag k.c u false t else t

section
variable {q : State} {k : Iss} (ldf : Bool)

theorem loadBody_clean (hc : memCheck k (memUse k (memSize k) false (some true) ldf) true false ldf none = none)
    (hg : gate k.c [memUse k (memSize k) false (some true) ldf] q = none)
    (hu : useCheck k.c k.data [memUse k (memSize k) false (some true) ldf] q = (q, none)) :
    loadBody ldf k q = .done (afterLoad ldf k q) (k.pc + 8) := by
  have hbytes : useBytes k.c (memUse k (memSize k) false (some true) ldf) (hdRead k.c k.t k.pc.toNat k.cycle.toNat
      [useRng (memUse k (memSize k) false (some true) ldf)] (updCore k.c (touchLines (useLines (memUse k (memSize k) false (some true) ldf))) q)) =
      useBytes k.c (memUse k (memSize k) false (some true) ldf) q :=
    (useBytes_congr (coreAt_hdRead ..) (mem_hdRead ..) _).trans (useBytes_touched ..)
  simp only [loadBody, hc, hg]
  rw [withReads_clean hg hu]
  simp only [List.map_cons, List.map_nil, List.flatMap_cons, List.flatMap_nil, List.append_nil, hbytes]
  rfl

theorem mem_afterLoad : (afterLoad ldf k q).mem = q.mem := by
  unfold afterLoad
  dsimp only
  split
  · rw [mem_useTag]
    exact mem_hdRead ..
  · exact mem_hdRead ..

theorem stackMem_afterLoad : (afterLoad ldf k q).stackMem = q.stackMem := by
  have hrec := sansRecords_hdRead k.c k.t k.pc.toNat k.cycle.toNat [useRng (memUse k (memSize k) false (some true) ldf)]
    (updCore k.c (touchLines (useLines (memUse k (memSize k) false (some true) ldf))) q)
  have hstack := (congrArg State.stackMem hrec :)
  unfold afterLoad
  dsimp only
  split
  · rw [stackMem_useTag]
    exact hstack
  · exact hstack

/-- The core before the tags change. -/
theorem coreAt_updThread_hdRead (f : Thread → Thread) (l : List Nat) (rs : List Rng) :
    coreAt (updThread k f (hdRead k.c k.t k.pc.toNat k.cycle.toNat rs (updCore k.c (touchLines l) q))) k.c =
      setThread k.t (f (threadAt (coreAt q k.c) k.t)) (touchLines l (coreAt q k.c)) := by
  rw [updThread, coreAt_setCore_same, coreAt_hdRead, coreAt_updCore_same, threadAt_of_sansCache (sansCache_touchLines ..)]

theorem threadAt_afterLoad (h : (threadAt (coreAt q k.c) k.t).st = .ready) : threadAt (coreAt (afterLoad ldf k q) k.c) k.t =
    loadReg k (useBytes k.c (memUse k (memSize k) false (some true) ldf) q) (threadAt (coreAt q k.c) k.t) := by
  unfold afterLoad
  dsimp only
  split
  · rw [threadAt_useTag, coreAt_updThread_hdRead, threadAt_setThread_same]
    rw [coreAt_updThread_hdRead, threadAt_setThread_same, loadReg_st, h]
    decide
  · rw [coreAt_updThread_hdRead, threadAt_setThread_same]

end

section
variable {i : Issue} {s q : State} {k : Iss} {op : Nat} (h : Offered op i s k q)
include h

/-- A load whose checks and reads find nothing loads its register (R115). -/
theorem load_done (ldf : Bool) (hc : memCheck k (memUse k (memSize k) false (some true) ldf) true false ldf none = none)
    (hg : gate k.c [memUse k (memSize k) false (some true) ldf] q = none)
    (hu : useCheck k.c i.data [memUse k (memSize k) false (some true) ldf] q = (q, none)) :
    let t := issued k.c k.t k.cycle (k.pc + 8) (afterLoad ldf k q)
    issue op i (loadBody ldf) s = t ∧ threadAt (coreAt t k.c) k.t =
      { loadReg k (useBytes k.c (memUse k (memSize k) false (some true) ldf) q) (threadAt (coreAt q k.c) k.t) with pc := k.pc + 8 } ∧
      (∀ a, mget 0 t.mem a = mget 0 q.mem a) ∧ t.stackMem = q.stackMem := by
  rw [← h.errors] at hu
  refine ⟨?_, ?_, fun a => congrArg (mget 0 · a) (mem_afterLoad ldf), stackMem_afterLoad ldf⟩
  · rw [h.issue, loadBody_clean ldf hc hg hu]
    rfl
  · rw [threadAt_issued_same, threadAt_afterLoad ldf h.ready']

end

/-- Settles O10: a load ends in `afterLoad`, and EMPT in its tags. -/
theorem loadsWriteTheirRegister : Obligations.LoadsWriteTheirRegister := by
  unfold Obligations.LoadsWriteTheirRegister
  intro i s q k u e reg done
  refine ⟨fun h hc hg hu => ?_, fun h hc hg hu => ?_, fun h hc hg => ?_⟩
  · obtain ⟨hexec, hthread, hmem, hstack⟩ := load_done h true hc hg hu
    refine ⟨_, congrArg Host.Outcome.next hexec, ⟨hthread, hmem, hstack⟩, ?_⟩
    rw [allEmpty_congr (by rw [coreAt_issued])]
    exact allEmpty_useTag (tagged_of_memCheck hc)
  · obtain ⟨hexec, hthread, hmem, hstack⟩ := load_done h false hc hg hu
    refine ⟨_, congrArg Host.Outcome.next hexec, ⟨hthread, hmem, hstack⟩, ?_⟩
    rw [coreAt_issued]
    change (coreAt (updThread ..) k.c).full = _
    rw [coreAt_updThread_hdRead]
    exact (congrArg Core.full (sansCache_touchLines ..) :)
  · have hbody := h.issue emptBody
    have hthread : threadAt (coreAt (useTag k.c e false q) k.c) k.t = threadAt (coreAt q k.c) k.t := threadAt_useTag (by rw [h.ready']; decide)
    change memCheck k (memUse k (fs k 42 38).toNat false (some true) true) true false true (some (fs k 42 38)) = none at hc
    change gate k.c [memUse k (fs k 42 38).toNat false (some true) true] q = none at hg
    simp only [emptBody, hc, hg, settle] at hbody
    refine ⟨_, congrArg Host.Outcome.next hbody, ?_, ?_, mem_useTag, stackMem_useTag⟩
    · rw [allEmpty_congr (by rw [coreAt_issued])]
      exact allEmpty_useTag (tagged_of_memCheck hc)
    · rw [threadAt_issued_same]
      exact congrArg (fun th : Thread => { th with pc := k.pc + 8 }) hthread

/-! ### STE and STF (R115) -/

@[simp] theorem length_leBytes (n v : Nat) : (leBytes n v).length = n := by
  induction n generalizing v with
  | zero => rfl
  | succ n ih => rw [leBytes, List.length_cons, ih]

theorem length_storeBytes (k : Iss) : (storeBytes k).length = memSize k := by
  unfold storeBytes
  split
  · rename_i h
    rw [length_leBytes, memSize, if_pos h]
  · exact length_leBytes ..

section
variable {c : Nat} {u : Use} {l : List Byte} {s : State}

theorem useStore_store (h : u.h.cls ≠ 2) : useStore c u l s = writeMem (coreAddr c (u.h.base + u.off)) l s := if_neg h

theorem useStore_cached (h : u.h.cls = 2) :
    useStore c u l s = updCore c (fun x => touchLines (useLines u) (cacheWrite x (u.h.base + u.off) l)) s := if_pos h

theorem sansCache_useStore : sansCache (coreAt (useStore c u l s) c) = sansCache (coreAt s c) := by
  by_cases h : u.h.cls = 2
  · rw [useStore_cached h, coreAt_updCore_same, sansCache_touchLines, sansCache_cacheWrite]
  · rw [useStore_store h, coreAt_writeMem]

@[simp] theorem stackMem_useStore : (useStore c u l s).stackMem = s.stackMem := by
  unfold useStore
  split <;> rfl

end

/-- What a store does to the engine, before its thread goes on. -/
def afterStore (ste : Bool) (k : Iss) (q : State) : State :=
  let u := memUse k (memSize k) true (if ste then some false else none) true
  useTag k.c u true (useStore k.c u (storeBytes k) q)

section
variable {i : Issue} {s q : State} {k : Iss} {op : Nat} (h : Offered op i s k q) (ste : Bool)
include h

theorem threadAt_afterStore : threadAt (coreAt (afterStore ste k q) k.c) k.t = threadAt (coreAt q k.c) k.t := by
  have hkept : threadAt (coreAt (useStore k.c (memUse k (memSize k) true (if ste then some false else none) true) (storeBytes k) q) k.c) k.t =
      threadAt (coreAt q k.c) k.t := threadAt_of_sansCache sansCache_useStore _
  rw [afterStore, threadAt_useTag, hkept]
  rw [hkept, h.ready']
  decide

/-- A store whose checks find nothing writes the bytes of its register (R105, R115). -/
theorem store_done (hc : memCheck k (memUse k (memSize k) true (if ste then some false else none) true) false true ste none = none)
    (hg : gate k.c [memUse k (memSize k) true (if ste then some false else none) true] q = none)
    (hs : storeCheck k (memUse k (memSize k) true (if ste then some false else none) true) q = (q, none)) :
    let u := memUse k (memSize k) true (if ste then some false else none) true
    let a := coreAddr k.c (u.h.base + u.off)
    let t := issued k.c k.t k.cycle (k.pc + 8) (afterStore ste k q)
    issue op i (storeBody ste) s = t ∧
      threadAt (coreAt t k.c) k.t = { threadAt (coreAt q k.c) k.t with pc := k.pc + 8 } ∧ t.stackMem = q.stackMem ∧
      (u.h.cls ≠ 2 → readMem t a (memSize k) = storeBytes k ∧ ∀ b, b < a ∨ a + memSize k ≤ b → mget 0 t.mem b = mget 0 q.mem b) ∧
      (u.h.cls = 2 → t.mem = q.mem ∧
        (coreAt t k.c).cache = (touchLines (useLines u) (cacheWrite (coreAt q k.c) (u.h.base + u.off) (storeBytes k))).cache) ∧
      (u.h.tagged = true → allFull (coreAt t k.c) (useRng u) = true) ∧
      (u.h.tagged = false → (coreAt t k.c).full = (coreAt q k.c).full) := by
  intro u a t
  have hlen := length_storeBytes k
  refine ⟨?_, ?_, ?_, fun hcls => ?_, fun hcls => ⟨?_, ?_⟩, fun htag => ?_, fun htag => ?_⟩
  · simp only [h.issue, storeBody, hc, hg, hs]
    rfl
  · rw [threadAt_issued_same, threadAt_afterStore h]
  · exact stackMem_useTag.trans stackMem_useStore
  · have hmem : t.mem = (writeMem a (storeBytes k) q).mem := by
      change (useTag ..).mem = _
      rw [mem_useTag, useStore_store hcls]
    rw [readMem_congr hmem, hmem, ← hlen]
    exact ⟨readMem_writeMem .., fun b hb => mget_writeBytes_outside _ _ _ _ hb⟩
  · change (useTag ..).mem = _
    rw [mem_useTag, useStore_cached hcls]
    rfl
  · rw [coreAt_issued]
    change (coreAt (useTag ..) k.c).cache = _
    rw [cache_useTag, useStore_cached hcls, coreAt_updCore_same]
  · rw [allFull_congr (by rw [coreAt_issued])]
    exact allFull_useTag htag
  · rw [coreAt_issued]
    change (coreAt (useTag ..) k.c).full = _
    rw [useTag_untagged htag]
    exact (congrArg Core.full sansCache_useStore :)

end

/-- Settles O11: STE and STF end in `afterStore`. -/
theorem storesWriteExactlyTheirBytes : Obligations.StoresWriteExactlyTheirBytes := by
  unfold Obligations.StoresWriteExactlyTheirBytes
  intro i s q k u l done
  refine ⟨fun h hc hg hs => ?_, fun h hc hg hs => ?_⟩
  · obtain ⟨hexec, hdone⟩ := store_done h true hc hg hs
    exact ⟨_, congrArg Host.Outcome.next hexec, hdone⟩
  · obtain ⟨hexec, hdone⟩ := store_done h false hc hg hs
    exact ⟨_, congrArg Host.Outcome.next hexec, hdone⟩

end Sys2Proof.Machine
end

section
/-! Fabric and tally instructions (R127 to R134, R182). -/

namespace Sys2Proof.Machine

open Sys2Proof

/-! ### Messages on their way (R180, R185, R186) -/

/-- A message without what says where it goes: destination, plane and waypoint. -/
def sansRoute (m : Msg) : Msg := { m with plane := false, wp := false, wx := 0, wy := 0, lastField := 0, dx := 0, dy := 0, dport := 0, addr := 0, tally := 0 }

theorem sansRoute_stamp (s : State) (r : Nat) (m : Msg) : sansRoute (stamp s r m) = sansRoute m := by
  unfold stamp
  dsimp only
  generalize (if m.cls = .reduce then _ else _ : Bool) = plane
  split <;> rfl

theorem sansRoute_towardAddr (a : Nat) (m : Msg) : sansRoute (towardAddr a m) = sansRoute m := by
  unfold towardAddr
  split <;> rfl

theorem sansRoute_towardTally (s : State) (r t : Nat) (m : Msg) : sansRoute (towardTally s r t m) = sansRoute m := by
  unfold towardTally
  split <;> rfl

@[simp] theorem addr_stamp (s : State) (r : Nat) (m : Msg) : (stamp s r m).addr = m.addr := by
  unfold stamp
  dsimp only
  generalize (if m.cls = .reduce then _ else _ : Bool) = plane
  split <;> rfl

@[simp] theorem tally_stamp (s : State) (r : Nat) (m : Msg) : (stamp s r m).tally = m.tally := by
  unfold stamp
  dsimp only
  generalize (if m.cls = .reduce then _ else _ : Bool) = plane
  split <;> rfl

@[simp] theorem addr_towardAddr (a : Nat) (m : Msg) : (towardAddr a m).addr = a := by
  unfold towardAddr
  split <;> rfl

@[simp] theorem tally_towardAddr (a : Nat) (m : Msg) : (towardAddr a m).tally = m.tally := by
  unfold towardAddr
  split <;> rfl

@[simp] theorem tally_towardTally (s : State) (r t : Nat) (m : Msg) : (towardTally s r t m).tally = t := by
  unfold towardTally
  split <;> rfl

/-! ### Sending (R127, R182) -/

theorem sendLocal_fits {k : Iss} {m : Msg} {s : State} (h : injectUsed (coreAt s k.c) + flits m ≤ 32) :
    sendLocal k m s = .done (injectLocal k.c m s) (k.pc + 8) := if_neg (by omega)

/-- A thread that has sent from a state which differs in what reads touch goes on, its message last in the queue. -/
theorem sent_goesOn {k : Iss} {q q' : State} (hrest : sansCores q' = sansCores q) (hcore : sansCache (coreAt q' k.c) = sansCache (coreAt q k.c)) (m : Msg) :
    let t := issued k.c k.t k.cycle (k.pc + 8) (injectLocal k.c m q')
    (threadAt (coreAt t k.c) k.t = { threadAt (coreAt q k.c) k.t with pc := k.pc + 8 } ∧
      (t.mem = q.mem ∧ t.stackMem = q.stackMem ∧ t.tallies = q.tallies ∧ (coreAt t k.c).full = (coreAt q k.c).full)) ∧
      (coreAt t k.c).inject = (coreAt q k.c).inject ++ [stamp q' k.c m] := by
  have hthread := threadAt_of_sansCache hcore k.t
  have hfull : (coreAt q' k.c).full = (coreAt q k.c).full := (congrArg Core.full hcore :)
  have hinject : (coreAt q' k.c).inject = (coreAt q k.c).inject := (congrArg Core.inject hcore :)
  refine ⟨⟨?_, (congrArg State.mem hrest :), (congrArg State.stackMem hrest :), (congrArg State.tallies hrest :), ?_⟩, ?_⟩
  · rw [threadAt_issued_same, injectLocal, coreAt_updCore_same]
    exact congrArg (fun th : Thread => { th with pc := k.pc + 8 }) hthread
  · rw [coreAt_issued, injectLocal, coreAt_updCore_same]
    exact hfull
  · rw [coreAt_issued, injectLocal, coreAt_updCore_same]
    exact congrArg (· ++ [stamp q' k.c m]) hinject

theorem coreAt_blockThread (c t : Nat) (cycle : DWord) (w : WaitOn) (s : State) :
    coreAt (blockThread c t cycle w s) c = setThread t { threadAt (coreAt s c) t with st := .blocked, wait := w, met := false } (coreAt s c) := by
  rw [blockThread, coreAt_hdBlocked, coreAt_setCore_same]

theorem sansCores_blockThread (c t : Nat) (cycle : DWord) (w : WaitOn) (s : State) : sansCores (blockThread c t cycle w s) = sansCores s := by
  rw [blockThread, sansCores_of_sansRecords (sansRecords_hdBlocked ..)]
  rfl

/-- A thread that has sent and waits keeps its program counter. -/
theorem sent_blocks (k : Iss) (q : State) (w : WaitOn) (m : Msg) :
    let t := blockThread k.c k.t k.cycle w (injectLocal k.c m q)
    (t.mem = q.mem ∧ t.stackMem = q.stackMem ∧ t.tallies = q.tallies ∧ (coreAt t k.c).full = (coreAt q k.c).full) ∧
      (coreAt t k.c).inject = (coreAt q k.c).inject ++ [stamp q k.c m] ∧
      threadAt (coreAt t k.c) k.t = { threadAt (coreAt q k.c) k.t with st := .blocked, wait := w, met := false } := by
  have hrest := sansCores_blockThread k.c k.t k.cycle w (injectLocal k.c m q)
  have hcore : coreAt (injectLocal k.c m q) k.c = { coreAt q k.c with inject := (coreAt q k.c).inject ++ [stamp q k.c m] } := coreAt_updCore_same ..
  refine ⟨⟨(congrArg State.mem hrest :), (congrArg State.stackMem hrest :), (congrArg State.tallies hrest :), ?_⟩, ?_, ?_⟩ <;>
    rw [coreAt_blockThread, hcore]
  · rfl
  · rfl
  · exact threadAt_setThread_same ..

@[simp] theorem length_readMem (s : State) (a n : Nat) : (readMem s a n).length = n := by
  induction n generalizing a with
  | zero => rfl
  | succ n ih => rw [readMem, List.length_cons, ih]

@[simp] theorem length_cacheRead (x : Core) (a n : Nat) : (cacheRead x a n).length = n := by
  induction n generalizing a with
  | zero => rfl
  | succ n ih => rw [cacheRead, List.length_cons, ih]

@[simp] theorem length_useBytes (c : Nat) (u : Use) (s : State) : (useBytes c u s).length = u.len := by
  unfold useBytes
  split
  · exact length_cacheRead ..
  · exact length_readMem ..

section
variable {i : Issue} {s q : State} {k : Iss}

/-! ### SND (R127) -/

theorem sndCheck_len {k : Iss} {s : State} (h : sndCheck k s = none) : fn k 44 40 % 32 = 0 := by
  unfold sndCheck at h
  dsimp only at h
  split at h
  · cases h
  · split at h
    · cases h
    · rename_i hfail
      have halign := firstFail_none hfail _ List.mem_cons_self
      simp only [Bool.or_eq_false_iff, bne_eq_false_iff_eq] at halign
      exact halign.1.1

theorem flits_sndMsg {k : Iss} {l : List Byte} (h : l.length % 32 = 0) : flits (sndMsg k l) = 1 + l.length / 32 := by
  have : (sndMsg k l).payload = l := (congrArg Msg.payload (sansRoute_towardAddr ..) :)
  rw [flits, this]
  omega

theorem exec_snd_empty (h : Offered 0x70 i s k q) (hc : sndCheck k q = none) (hlen : fn k 44 40 = 0) :
    exec (.snd i) s = .next (issued k.c k.t k.cycle (k.pc + 8) q) := by
  change Host.Outcome.next (issue 0x70 i sndBody s) = _
  simp only [h.issue, sndBody, hc]
  rw [if_pos (show (sndUse k).len = 0 from hlen)]
  rfl

theorem exec_snd (h : Offered 0x70 i s k q) (hc : sndCheck k q = none) (hlen : fn k 44 40 ≠ 0) (hg : gate k.c [sndUse k] q = none)
    (hu : useCheck k.c i.data [sndUse k] q = (q, none)) (hfit : injectUsed (coreAt q k.c) + (1 + fn k 44 40 / 32) ≤ 32) :
    exec (.snd i) s = .next (issued k.c k.t k.cycle (k.pc + 8)
      (injectLocal k.c (sndMsg k (useBytes k.c (sndUse k) q)) (updCore k.c (touchLines (useLines (sndUse k))) q))) := by
  have hmod := sndCheck_len hc
  have hinject : (touchLines (useLines (sndUse k)) (coreAt q k.c)).inject = (coreAt q k.c).inject := (congrArg Core.inject (sansCache_touchLines ..) :)
  have hroom : injectUsed (coreAt (updCore k.c (touchLines (useLines (sndUse k))) q) k.c) + flits (sndMsg k (useBytes k.c (sndUse k) q)) ≤ 32 := by
    rw [coreAt_updCore_same, injectUsed, hinject, flits_sndMsg (by rw [length_useBytes]; exact hmod), length_useBytes]
    exact hfit
  have hfree : ¬ 32 < injectUsed k.x + 1 + (sndUse k).len / 32 := by
    rw [h.seen, show (sndUse k).len = fn k 44 40 from rfl]
    omega
  rw [← h.errors] at hu
  change Host.Outcome.next (issue 0x70 i sndBody s) = _
  simp only [h.issue, sndBody, hc, hg]
  rw [if_neg (show (sndUse k).len ≠ 0 from hlen), if_neg hfree, withPlainReads_clean hg hu]
  simp only [List.flatMap_cons, List.flatMap_nil, List.append_nil, useBytes_touched]
  rw [sendLocal_fits hroom]
  rfl

/-! ### SNDR (R128) -/

theorem exec_sndr_empty (h : Offered 0x71 i s k q) (hc : sndrCheck k q = none) (htotal : fw k 42 30 = 0) :
    exec (.sndr i) s = .next (issued k.c k.t k.cycle (k.pc + 8) q) := by
  change Host.Outcome.next (issue 0x71 i sndrBody s) = _
  simp only [h.issue, sndrBody, hc]
  rw [if_pos htotal]
  rfl

theorem exec_sndr (h : Offered 0x71 i s k q) (hc : sndrCheck k q = none) (htotal : fw k 42 30 ≠ 0) (hp : accPending k (fw k 55 54) = false)
    (hfit : injectUsed (coreAt q k.c) + 9 ≤ 32) :
    exec (.sndr i) s = .next (issued k.c k.t k.cycle (k.pc + 8) (injectLocal k.c (sndrMsg k) q)) := by
  have hpayload : (sndrMsg k).payload = leBytes 256 (regA k.th (fw k 55 54)).toNat := (congrArg Msg.payload (sansRoute_towardAddr ..) :)
  have hflits : flits (sndrMsg k) = 9 := by rw [flits, hpayload, length_leBytes]
  change Host.Outcome.next (issue 0x71 i sndrBody s) = _
  simp only [h.issue, sndrBody, hc, hp]
  rw [if_neg htotal, if_neg Bool.false_ne_true, sendLocal_fits (by rwa [hflits])]
  rfl

/-! ### RDM (R129) -/

theorem exec_rdm_empty (h : Offered 0x72 i s k q) (hc : rdmCheck k q = none) (hlen : fn k 44 40 = 0) :
    exec (.rdm i) s = .next (issued k.c k.t k.cycle (k.pc + 8) q) := by
  change Host.Outcome.next (issue 0x72 i rdmBody s) = _
  simp only [h.issue, rdmBody, hc]
  rw [if_pos (show (rdmUse k).len = 0 from hlen)]
  rfl

theorem exec_rdm (h : Offered 0x72 i s k q) (hc : rdmCheck k q = none) (hlen : fn k 44 40 ≠ 0) (hg : gate k.c [rdmUse k] q = none)
    (hfit : injectUsed (coreAt q k.c) + 1 ≤ 32) :
    exec (.rdm i) s = .next (issued k.c k.t k.cycle (k.pc + 8) (injectLocal k.c (rdmMsg k) q)) := by
  have hpayload : (rdmMsg k).payload = [] := (congrArg Msg.payload (sansRoute_towardAddr ..) :)
  have hflits : flits (rdmMsg k) = 1 := by rw [flits, hpayload]; rfl
  change Host.Outcome.next (issue 0x72 i rdmBody s) = _
  simp only [h.issue, rdmBody, hc, hg]
  rw [if_neg (show (rdmUse k).len ≠ 0 from hlen), sendLocal_fits (by rwa [hflits])]
  rfl

/-! ### TADD and TSET (R133) -/

@[simp] theorem payload_tallyMsg (k : Iss) (s : State) (op : TallyOp) : (tallyMsg k s op).payload = [] :=
  (congrArg Msg.payload (sansRoute_towardTally ..) :)

/-- The message of TADD and TSET. -/
def addMsg (k : Iss) (s : State) (op : TallyOp) : Msg := { tallyMsg k s op with value := (tallyVal k).toNat }

theorem flits_addMsg (k : Iss) (s : State) (op : TallyOp) : flits (addMsg k s op) = 1 := by
  rw [flits, show (addMsg k s op).payload = [] from payload_tallyMsg ..]
  rfl

theorem taddBody_sends {op : TallyOp} (hc : taddCheck k = none) (hne : ¬ (op = .add ∧ tallyVal k = 0)) (hfit : injectUsed (coreAt q k.c) + 1 ≤ 32) :
    taddBody op k q = .done (injectLocal k.c (addMsg k q op) q) (k.pc + 8) := by
  simp only [taddBody, hc]
  rw [if_neg hne]
  exact sendLocal_fits (m := addMsg k q op) (by rwa [flits_addMsg])

theorem exec_tadd_zero (h : Offered 0x78 i s k q) (hc : taddCheck k = none) (hv : (tallyVal k).toNat = 0) :
    exec (.tadd i) s = .next (issued k.c k.t k.cycle (k.pc + 8) q) := by
  have hbody : taddBody .add k q = .done q (k.pc + 8) := by
    rw [taddBody, hc]
    exact if_pos ⟨rfl, BitVec.eq_of_toNat_eq hv⟩
  change Host.Outcome.next (issue 0x78 i (taddBody .add) s) = _
  rw [h.issue, hbody]
  rfl

/-- What the message of a tally instruction says, once stamped. -/
theorem tallyMsg_stamped (k : Iss) (s : State) (op : TallyOp) {m : Msg} (h : { m with value := 0, epoch := 0, thread := 0 } = { tallyMsg k s op with value := 0, epoch := 0, thread := 0 }) :
    (stamp s k.c m).src = k.c ∧ (stamp s k.c m).cls = .tally ∧ (stamp s k.c m).op = op ∧ (stamp s k.c m).tally = (tallyNum k).toNat := by
  have hstamp := sansRoute_stamp s k.c m
  have hroute := sansRoute_towardTally s k.c (tallyNum k).toNat { msgNull with cls := .tally, op := op, src := k.c }
  exact ⟨(congrArg Msg.src hstamp :).trans ((congrArg Msg.src h :).trans (congrArg Msg.src hroute :)),
    (congrArg Msg.cls hstamp :).trans ((congrArg Msg.cls h :).trans (congrArg Msg.cls hroute :)),
    (congrArg Msg.op hstamp :).trans ((congrArg Msg.op h :).trans (congrArg Msg.op hroute :)),
    (tally_stamp ..).trans ((congrArg Msg.tally h :).trans (tally_towardTally ..))⟩

theorem exec_tadd (h : Offered 0x78 i s k q) (hc : taddCheck k = none) (hne : ¬ (TallyOp.add = .add ∧ tallyVal k = 0))
    (hfit : injectUsed (coreAt q k.c) + 1 ≤ 32) :
    exec (.tadd i) s = .next (issued k.c k.t k.cycle (k.pc + 8) (injectLocal k.c (addMsg k q .add) q)) := by
  change Host.Outcome.next (issue 0x78 i (taddBody .add) s) = _
  rw [h.issue, taddBody_sends hc hne hfit]
  rfl

theorem exec_tset (h : Offered 0x79 i s k q) (hc : taddCheck k = none) (hfit : injectUsed (coreAt q k.c) + 1 ≤ 32) :
    exec (.tset i) s = .next (issued k.c k.t k.cycle (k.pc + 8) (injectLocal k.c (addMsg k q .set) q)) := by
  change Host.Outcome.next (issue 0x79 i (taddBody .set) s) = _
  rw [h.issue, taddBody_sends (op := .set) hc (fun hz => TallyOp.noConfusion hz.1) hfit]
  rfl

/-! ### TWAIT (R134) -/

theorem exec_twait_peek (h : Offered 0x7A i s k q) (hn : (tallyNum k).toNat < 31744) (hp : fw k 25 25 = 1)
    (hdark : tallyDark q (tallyNum k).toNat = false) (hf : fenceOwner q k.c (mfind q.tallyOwner (tallyNum k).toNat) = true) :
    exec (.twait i) s = .next (retire k (setS (fw k 55 51) (tallyWord (tallyAt q (tallyNum k).toNat))) (k.pc + 8) q) := by
  change Host.Outcome.next (issue 0x7A i twaitBody s) = _
  simp only [h.issue, twaitBody, if_neg (not_le.2 hn), if_pos hp, peek, hdark, hf]
  rfl

/-- The registration that a TWAIT sends. -/
def waitMsg (k : Iss) (q : State) : Msg := { tallyMsg k q .reg with epoch := BitVec.ofNat 16 (fn k 45 41), thread := k.t }

theorem exec_twait (h : Offered 0x7A i s k q) (hn : (tallyNum k).toNat < 31744) (hp : fw k 25 25 = 0) (hfit : injectUsed (coreAt q k.c) + 1 ≤ 32) :
    exec (.twait i) s = .next (blockThread k.c k.t k.cycle (.tally (tallyNum k).toNat (BitVec.ofNat 16 (fn k 45 41)) (fw k 55 51))
      (injectLocal k.c (waitMsg k q) q)) := by
  have hflits : flits (waitMsg k q) = 1 := by
    rw [flits, show (waitMsg k q).payload = [] from payload_tallyMsg ..]
    rfl
  have hroom : ¬ 32 < injectUsed k.x + flits (waitMsg k q) := by
    rw [h.seen, hflits]
    omega
  have hpeek : ¬ fw k 25 25 = 1 := by omega
  change Host.Outcome.next (issue 0x7A i twaitBody s) = _
  have hbody : twaitBody k q = .block (.tally (tallyNum k).toNat (BitVec.ofNat 16 (fn k 45 41)) (fw k 55 51)) (injectLocal k.c (waitMsg k q) q) :=
    (if_neg (not_le.2 hn)).trans ((if_neg hpeek).trans (if_neg hroom))
  rw [h.issue, hbody]
  rfl

end

/-- Settles O14: each instruction sends its message as above, which its way leaves as it is. -/
theorem fabricAndTallyInstructionsSend : Obligations.FabricAndTallyInstructionsSend := by
  unfold Obligations.FabricAndTallyInstructionsSend
  intro i s q k skip fits same goesOn sends v
  refine ⟨exec_snd_empty, fun h hc hlen hg hu hfit => ?_, exec_sndr_empty, fun h hc htotal hp hfit => ?_, exec_rdm_empty,
    fun h hc hlen hg hfit => ?_, exec_tadd_zero, fun h hc hv hfit => ?_, fun h hc hfit => ?_, exec_twait_peek, fun h hn hp hfit => ?_⟩
  · obtain ⟨hgoes, hinject⟩ := sent_goesOn (k := k) (q := q) (q' := updCore k.c (touchLines (useLines (sndUse k))) q) rfl
      (by rw [coreAt_updCore_same, sansCache_touchLines]) (sndMsg k (useBytes k.c (sndUse k) q))
    have hroute := (sansRoute_stamp (updCore k.c (touchLines (useLines (sndUse k))) q) k.c (sndMsg k (useBytes k.c (sndUse k) q))).trans
      (sansRoute_towardAddr ..)
    exact ⟨_, _, exec_snd h hc hlen hg hu hfit, hgoes, ⟨hinject, (congrArg Msg.src hroute :)⟩, (congrArg Msg.cls hroute :),
      (addr_stamp ..).trans (addr_towardAddr ..), (congrArg Msg.payload hroute :), (congrArg Msg.tag hroute :), (congrArg Msg.notify hroute :),
      (tally_stamp ..).trans (tally_towardAddr ..)⟩
  · obtain ⟨hgoes, hinject⟩ := sent_goesOn (k := k) (q := q) rfl rfl (sndrMsg k)
    have hroute := (sansRoute_stamp q k.c (sndrMsg k)).trans (sansRoute_towardAddr ..)
    exact ⟨_, _, exec_sndr h hc htotal hp hfit, hgoes, ⟨hinject, (congrArg Msg.src hroute :)⟩, (congrArg Msg.cls hroute :),
      (addr_stamp ..).trans (addr_towardAddr ..), (congrArg Msg.payload hroute :), (congrArg Msg.rtag hroute :), (congrArg Msg.total hroute :),
      (congrArg Msg.count hroute :), (congrArg Msg.lt hroute :), (congrArg Msg.tag hroute :), (congrArg Msg.notify hroute :),
      (tally_stamp ..).trans (tally_towardAddr ..)⟩
  · obtain ⟨hgoes, hinject⟩ := sent_goesOn (k := k) (q := q) rfl rfl (rdmMsg k)
    have hroute := (sansRoute_stamp q k.c (rdmMsg k)).trans (sansRoute_towardAddr ..)
    exact ⟨_, _, exec_rdm h hc hlen hg hfit, hgoes, ⟨hinject, (congrArg Msg.src hroute :)⟩, (congrArg Msg.cls hroute :),
      (addr_stamp ..).trans (addr_towardAddr ..), (congrArg Msg.rcore hroute :), (congrArg Msg.rflits hroute :), (congrArg Msg.roff hroute :),
      (congrArg Msg.rtagged hroute :), (congrArg Msg.rnotify hroute :), (congrArg Msg.rtally hroute :)⟩
  · obtain ⟨hgoes, hinject⟩ := sent_goesOn (k := k) (q := q) rfl rfl (addMsg k q .add)
    obtain ⟨hsrc, hcls, hop, htally⟩ := tallyMsg_stamped k q .add (m := addMsg k q .add) rfl
    exact ⟨_, _, exec_tadd h hc (fun hz => hv (congrArg BitVec.toNat hz.2)) hfit, hgoes, ⟨hinject, hsrc⟩, hcls, hop,
      (congrArg Msg.value (sansRoute_stamp ..) :), htally⟩
  · obtain ⟨hgoes, hinject⟩ := sent_goesOn (k := k) (q := q) rfl rfl (addMsg k q .set)
    obtain ⟨hsrc, hcls, hop, htally⟩ := tallyMsg_stamped k q .set (m := addMsg k q .set) rfl
    exact ⟨_, _, exec_tset h hc hfit, hgoes, ⟨hinject, hsrc⟩, hcls, hop, (congrArg Msg.value (sansRoute_stamp ..) :), htally⟩
  · obtain ⟨hsame, hinject, hthread⟩ := sent_blocks k q (.tally (tallyNum k).toNat (BitVec.ofNat 16 (fn k 45 41)) (fw k 55 51)) (waitMsg k q)
    obtain ⟨hsrc, hcls, hop, htally⟩ := tallyMsg_stamped k q .reg (m := waitMsg k q) rfl
    have hstamp := sansRoute_stamp q k.c (waitMsg k q)
    exact ⟨_, _, exec_twait h hn hp hfit, hsame, ⟨hinject, hsrc⟩, hcls, hop, htally,
      (congrArg (fun m => m.epoch.toNat) hstamp :).trans (BitVec.toNat_ofNat ..), (congrArg Msg.thread hstamp :), hthread⟩

end Sys2Proof.Machine
end

section
/-! What an instruction can change beyond its own thread (R79, R105, R110, R113, R114, R115, R206). -/

namespace Sys2Proof.Machine

open Sys2Proof

/-- The engine without its records, its cores and the bytes of the core stores. -/
def sansStore (s : State) : State := { sansCores s with mem := [] }

/-- A thread, whether or not its wait condition has been met. -/
def unmet (th : Thread) : Thread := { th with met := false }

theorem unmet_metBy (p : WaitOn → Bool) (th : Thread) : unmet (metBy p th) = unmet th := by
  unfold metBy
  split <;> rfl

/-- Only core c and the records are changed; in it, other threads than t keep all but the note that what they wait for has come; and
the bytes of the core stores for which `keep` holds are as they were. -/
structure Framed (keep : Nat → Prop) (c t : Nat) (s q : State) : Prop where
  rest : sansStore q = sansStore s
  others : ∀ d, d ≠ c → coreAt q d = coreAt s d
  threads : ∀ n, n ≠ t → unmet (threadAt (coreAt q c) n) = unmet (threadAt (coreAt s c) n)
  mem : ∀ a, keep a → mget 0 q.mem a = mget 0 s.mem a

section
variable {keep : Nat → Prop} {c t : Nat}

@[refl] theorem Framed.refl (s : State) : Framed keep c t s s := ⟨rfl, fun _ _ => rfl, fun _ _ => rfl, fun _ _ => rfl⟩

theorem Framed.trans {s q r : State} (h : Framed keep c t s q) (g : Framed keep c t q r) : Framed keep c t s r :=
  ⟨g.rest.trans h.rest, fun d hd => (g.others d hd).trans (h.others d hd), fun n hn => (g.threads n hn).trans (h.threads n hn),
    fun a ha => (g.mem a ha).trans (h.mem a ha)⟩

theorem Checked.framed {s q : State} (h : Checked c s q) : Framed keep c t s q :=
  ⟨(congrArg (fun u : State => { u with mem := [] }) h.rest :), h.others, fun n _ => by rw [h.threadAt], fun a _ => by rw [h.mem]⟩

theorem framed_of_sansRecords {s q : State} (h : sansRecords q = sansRecords s) : Framed keep c t s q := (checked_of_sansRecords h).framed

theorem framed_foldl {α : Type} {f : State → α → State} (h : ∀ s x, Framed keep c t s (f s x)) (l : List α) (s : State) :
    Framed keep c t s (l.foldl f s) := by
  induction l generalizing s with
  | nil => exact .refl s
  | cons x l ih => exact (h s x).trans (ih _)

theorem framed_foldl_snd {α β : Type} {f : β × State → α → β × State} (h : ∀ p x, Framed keep c t p.2 (f p x).2) (l : List α) (p : β × State) :
    Framed keep c t p.2 (l.foldl f p).2 := by
  induction l generalizing p with
  | nil => exact .refl p.2
  | cons x l ih => exact (h p x).trans (ih _)

/-! ### What changes one core -/

theorem framed_setCore {s : State} {x : Core} (h : ∀ n, n ≠ t → unmet (threadAt x n) = unmet (threadAt (coreAt s c) n)) :
    Framed keep c t s (setCore c x s) :=
  ⟨rfl, fun _ hd => coreAt_setCore_ne _ _ hd.symm, fun n hn => by rw [coreAt_setCore_same, h n hn], fun _ _ => rfl⟩

theorem Framed.of_setCore {s q : State} {x : Core} (g : Framed keep c t (setCore c x s) q)
    (h : ∀ n, n ≠ t → unmet (threadAt x n) = unmet (threadAt (coreAt s c) n)) : Framed keep c t s q := (framed_setCore h).trans g

theorem framed_updCore {f : Core → Core} (h : ∀ x n, n ≠ t → unmet (threadAt (f x) n) = unmet (threadAt x n)) (s : State) :
    Framed keep c t s (updCore c f s) := framed_setCore (h (coreAt s c))

theorem framed_updCore_of_threads {f : Core → Core} (h : ∀ x, (f x).threads = x.threads) (s : State) : Framed keep c t s (updCore c f s) :=
  framed_updCore (fun x n _ => by rw [threadAt, threadAt, h]) s

theorem framed_passOffer (cycle : DWord) (s : State) : Framed keep c t s (passOffer c t cycle s) := framed_setCore fun _ _ => rfl

theorem framed_setThread (th : Thread) (s : State) : Framed keep c t s (setCore c (setThread t th (coreAt s c)) s) :=
  framed_setCore fun _ hn => by rw [threadAt_setThread_ne _ _ hn.symm]

theorem framed_noteFault (n : Nat) (pc : BitVec 18) (e : Code) (s : State) : Framed keep c t s (noteFault c n pc e s) := by
  unfold noteFault
  exact (framed_of_sansRecords (sansRecords_recordErr ..)).of_setCore fun _ _ => rfl

theorem framed_faultThread (e : Code) (s : State) : Framed keep c t s (faultThread c t e s) :=
  (framed_setThread _ s).trans (framed_noteFault ..)

theorem framed_blockThread (cycle : DWord) (w : WaitOn) (s : State) : Framed keep c t s (blockThread c t cycle w s) :=
  (framed_setThread _ s).trans (framed_of_sansRecords (sansRecords_hdBlocked ..))

theorem framed_issued (cycle : DWord) (pc : BitVec 18) (s : State) : Framed keep c t s (issued c t cycle pc s) :=
  framed_setCore fun _ hn => congrArg unmet (threadAt_setThread_ne { threadAt (coreAt s c) t with pc := pc } (coreAt s c) hn.symm :)

theorem framed_settle {s : State} {cycle : DWord} {r : IRes} (h : Framed keep c t s r.state) : Framed keep c t s (settle c t cycle r) :=
  h.trans (match r with
    | .fault .. => framed_faultThread ..
    | .block .. => framed_blockThread ..
    | .held .. => framed_passOffer ..
    | .done .. => framed_issued ..)

theorem framed_updThread (k : Iss) (f : Thread → Thread) (s : State) : Framed keep k.c k.t s (updThread k f s) := framed_setThread _ s

/-! ### Messages of the core (R182) -/

theorem framed_injectLocal (m : Msg) (s : State) : Framed keep c t s (injectLocal c m s) := framed_setCore fun _ _ => rfl

theorem threads_refillFrom (s : State) (n : Nat) (x : Core) : (refillFrom s c n x).threads = x.threads := by
  induction n generalizing x with
  | zero => rfl
  | succ n ih =>
    unfold refillFrom
    split
    · split
      · exact ih _
      · rfl
    · rfl

theorem framed_refillCore (s : State) : Framed keep c t s (refillCore c s) := framed_updCore_of_threads (fun _ => threads_refillFrom ..) s

theorem framed_injectEngine {m : Msg} (h : unitPort m.src = 0) (s : State) : Framed keep c t s (injectEngine c m s) := by
  simp only [injectEngine, h]
  exact (framed_refillCore _).of_setCore fun _ _ => rfl

theorem src_towardAddr (a : Nat) (m : Msg) : (towardAddr a m).src = m.src := (congrArg Msg.src (sansRoute_towardAddr a m) :)

theorem src_towardTally (s : State) (r n : Nat) (m : Msg) : (towardTally s r n m).src = m.src :=
  (congrArg Msg.src (sansRoute_towardTally s r n m) :)

section
variable (hport : unitPort c = 0)
include hport

theorem framed_requestLine (line : Nat) (s : State) : Framed keep c t s (requestLine c line s) :=
  (framed_injectEngine ((congrArg unitPort (src_towardAddr ..)).trans hport) _).of_setCore fun _ _ => rfl

theorem framed_sendNotify (on : Bool) (n : Nat) (s : State) : Framed keep c t s (sendNotify c c on n s) := by
  unfold sendNotify
  split
  · exact framed_injectEngine ((congrArg unitPort (src_towardTally ..)).trans hport) s
  · rfl

/-! ### What blocks an instruction (R119, R206) -/

theorem framed_missBlock {lines : List Nat} {s : State} {w : WaitOn × State} (h : missBlock c lines s = some w) : Framed keep c t s w.2 := by
  unfold missBlock at h
  dsimp only at h
  split at h
  · cases h
  · cases h
    refine framed_foldl_snd (fun p l => ?_) _ (false, s)
    split
    · rfl
    · split
      · exact framed_requestLine hport l p.2
      · rfl

theorem framed_gateLines {us : List Use} {lines : List Nat} {s : State} {w : WaitOn × State} (h : gateLines c us lines s = some w) :
    Framed keep c t s w.2 := by
  unfold gateLines at h
  dsimp only at h
  split at h
  · cases h; rfl
  · split at h
    · cases h; rfl
    · split at h
      · cases h; rfl
      · split at h
        · cases h; rfl
        · exact framed_missBlock hport h

theorem framed_gate {us : List Use} {s : State} {w : WaitOn × State} (h : gate c us s = some w) : Framed keep c t s w.2 :=
  framed_gateLines hport h

end

/-! ### Reads and writes of operands (R115, R206) -/

theorem framed_touchLines (l : List Nat) (s : State) : Framed keep c t s (updCore c (touchLines l) s) :=
  framed_updCore_of_threads (f := touchLines l) (fun x => (congrArg Core.threads (sansCache_touchLines l x) :)) s

theorem framed_withPlainReads {k : Iss} (hport : unitPort k.c = 0) {us : List Use} {s : State} {go : State → IRes}
    (hgo : ∀ q, Framed keep k.c k.t q (go q).state) : Framed keep k.c k.t s (withPlainReads k us s go).state := by
  have hcheck : Framed keep k.c k.t s (useCheck k.c k.data us s).1 := (checked_accessCheck ..).framed
  unfold withPlainReads
  dsimp only
  split
  · exact hcheck
  · split
    · rename_i hmiss
      exact hcheck.trans (framed_missBlock hport hmiss)
    · exact (hcheck.trans (framed_touchLines ..)).trans (hgo _)

theorem framed_hdRead (n pc cycle : Nat) (rs : List Rng) (s : State) : Framed keep c t s (hdRead c n pc cycle rs s) :=
  framed_of_sansRecords (sansRecords_hdRead ..)

theorem framed_withReads {k : Iss} (hport : unitPort k.c = 0) {us : List Use} {s : State} {go : State → IRes}
    (hgo : ∀ q, Framed keep k.c k.t q (go q).state) : Framed keep k.c k.t s (withReads k us s go).state :=
  framed_withPlainReads hport fun _ => (framed_hdRead ..).trans (hgo _)

theorem framed_useTag (u : Use) (full : Bool) (s : State) : Framed keep c t s (useTag c u full s) := by
  unfold useTag
  split
  · refine framed_updCore (fun x n _ => ?_) s
    split <;> exact (congrArg unmet (threadAt_meetWaits ..)).trans (unmet_metBy ..)
  · rfl

theorem framed_useStore {u : Use} {l : List Byte} (h : u.h.cls ≠ 2 → ∀ a, keep a → a < coreAddr c (u.h.base + u.off) ∨ coreAddr c (u.h.base + u.off) + l.length ≤ a)
    (s : State) : Framed keep c t s (useStore c u l s) := by
  by_cases hcls : u.h.cls = 2
  · rw [useStore_cached hcls]
    refine framed_updCore_of_threads (fun x => ?_) s
    exact (congrArg Core.threads ((sansCache_touchLines ..).trans (sansCache_cacheWrite ..)) :)
  · rw [useStore_store hcls]
    exact ⟨rfl, fun _ _ => rfl, fun _ _ => rfl, fun a ha => mget_writeBytes_outside _ _ _ _ (h hcls a ha)⟩

/-! ### Unit entries and permits (R119, R143, R144, R173, R247) -/

theorem framed_grantPermit (n : Nat) (s : State) : Framed keep c t s (grantPermit n s) := framed_of_sansRecords rfl

theorem framed_requestPermit (k : Iss) (s : State) : Framed keep c t s (requestPermit k s).state := by
  unfold requestPermit
  dsimp only
  split
  · exact framed_grantPermit k.c s
  · split <;> exact framed_of_sansRecords rfl

theorem framed_entryTaken (k : Iss) (e : UnitEntry) (reads : List Use) (s : State) : Framed keep k.c k.t s (entryTaken k e reads s) :=
  (framed_hdRead ..).of_setCore fun _ _ => rfl

theorem framed_requestAhead (hport : unitPort c = 0) (a n : Nat) (s : State) : Framed keep c t s (requestAhead c a n s) :=
  framed_foldl (fun s l => by
    dsimp only
    split
    · rfl
    · exact framed_requestLine hport l s) _ s

theorem framed_streamAhead (hport : unitPort c = 0) (s : State) : Framed keep c t s (streamAhead c s) := by
  unfold streamAhead
  dsimp only
  split
  · split
    · exact (framed_requestAhead hport _ _ _).of_setCore fun n _ => congrArg unmet (threadAt_of_sansCache (sansCache_touchLines ..) n)
    · rfl
  · rfl

theorem framed_edgeTake {k : Iss} (hport : unitPort k.c = 0) (us : List Use) (vals : List DWord) (s : State) :
    Framed keep k.c k.t s (edgeTake k us vals s).state := by
  unfold edgeTake
  dsimp only
  split
  · rename_i hgate
    exact framed_gateLines hport hgate
  · split
    · rfl
    · split
      · exact framed_entryTaken ..
      · exact framed_withReads hport fun q => framed_entryTaken ..

/-! ### The bodies of the instructions -/

/-- Whether a byte of the core stores lies outside the range that a store of the word writes. -/
def outsideStore (k : Iss) (a : Nat) : Prop :=
  (fh k 53 48).cls = 2 ∨ a < coreAddr k.c ((fh k 53 48).base + memOff k) ∨ coreAddr k.c ((fh k 53 48).base + memOff k) + memSize k ≤ a

theorem framed_storeCheck (k : Iss) (u : Use) (s : State) : Framed keep k.c k.t s (storeCheck k u s).1 := by
  unfold storeCheck
  split
  · rfl
  · exact (checked_readCheck ..).framed

section
variable {k : Iss} (hport : unitPort k.c = 0)
include hport

theorem framed_mvdBody (s : State) : Framed keep k.c k.t s (mvdBody k s).state := by
  unfold mvdBody
  split
  · rfl
  · split
    · rfl
    · split
      · rfl
      · split
        · rename_i hgate
          exact framed_gateLines hport hgate
        · dsimp only
          split
          · rfl
          · exact (framed_entryTaken ..).trans (framed_streamAhead hport _)

theorem framed_arrayBody (s : State) : Framed keep k.c k.t s (arrayBody k s).state := by
  unfold arrayBody
  split
  · rfl
  · split
    · exact framed_requestPermit k s
    · split
      · rename_i hgate
        exact framed_gate hport hgate
      · dsimp only
        split
        · rfl
        · exact framed_entryTaken ..

theorem framed_cvtBody (s : State) : Framed keep k.c k.t s (cvtBody k s).state := by
  unfold cvtBody
  split
  · rfl
  · split
    · rfl
    · exact framed_edgeTake hport ..

theorem framed_topkBody (s : State) : Framed keep k.c k.t s (topkBody k s).state := by
  unfold topkBody
  split
  · rfl
  · split
    · rfl
    · exact framed_edgeTake hport ..

theorem framed_loadBody (ldf : Bool) (s : State) : Framed keep k.c k.t s (loadBody ldf k s).state := by
  unfold loadBody
  dsimp only
  split
  · rfl
  · split
    · rename_i hgate
      exact framed_gate hport hgate
    · refine framed_withReads hport fun q => ?_
      split
      · exact (framed_updThread ..).trans (framed_useTag ..)
      · exact framed_updThread ..

theorem framed_emptBody (s : State) : Framed keep k.c k.t s (emptBody k s).state := by
  unfold emptBody
  dsimp only
  split
  · rfl
  · split
    · rename_i hgate
      exact framed_gate hport hgate
    · exact framed_useTag ..

theorem framed_storeBody (hkeep : ∀ a, keep a → outsideStore k a) (ste : Bool) (s : State) : Framed keep k.c k.t s (storeBody ste k s).state := by
  unfold storeBody
  dsimp only
  split
  · rfl
  · split
    · rename_i hgate
      exact framed_gate hport hgate
    · split
      · exact framed_storeCheck ..
      · refine (framed_storeCheck ..).trans (.trans (framed_useStore (fun hcls a ha => ?_) _) (framed_useTag ..))
        rw [length_storeBytes]
        exact (hkeep a ha).resolve_left hcls

theorem framed_dmqBody (s : State) : Framed keep k.c k.t s (dmqBody k s).state := by
  unfold dmqBody
  dsimp only
  split
  · rfl
  · split
    · rfl
    · split
      · exact framed_sendNotify hport ..
      · exact framed_setCore fun _ _ => rfl

end

theorem framed_bindBody (k : Iss) (s : State) : Framed keep k.c k.t s (bindBody k s).state := by
  unfold bindBody
  split
  · rfl
  · split
    · rfl
    · exact framed_setCore fun _ _ => rfl

theorem framed_unbindBody (k : Iss) (s : State) : Framed keep k.c k.t s (unbindBody k s).state := by
  unfold unbindBody
  dsimp only
  split
  · rfl
  · exact framed_setCore fun _ _ => rfl

theorem framed_sendLocal (k : Iss) (m : Msg) (s : State) : Framed keep k.c k.t s (sendLocal k m s).state := by
  unfold sendLocal
  split
  · rfl
  · exact framed_injectLocal m s

theorem framed_sndBody {k : Iss} (hport : unitPort k.c = 0) (s : State) : Framed keep k.c k.t s (sndBody k s).state := by
  unfold sndBody
  split
  · rfl
  · dsimp only
    split
    · rfl
    · split
      · rename_i hgate
        exact framed_gate hport hgate
      · split
        · rfl
        · exact framed_withPlainReads hport fun q => framed_sendLocal ..

theorem framed_sndrBody (k : Iss) (s : State) : Framed keep k.c k.t s (sndrBody k s).state := by
  unfold sndrBody
  split
  · rfl
  · split
    · rfl
    · split
      · rfl
      · exact framed_sendLocal ..

theorem framed_rdmBody {k : Iss} (hport : unitPort k.c = 0) (s : State) : Framed keep k.c k.t s (rdmBody k s).state := by
  unfold rdmBody
  split
  · rfl
  · dsimp only
    split
    · rfl
    · split
      · rename_i hgate
        exact framed_gate hport hgate
      · exact framed_sendLocal ..

theorem framed_taddBody (op : TallyOp) (k : Iss) (s : State) : Framed keep k.c k.t s (taddBody op k s).state := by
  unfold taddBody
  split
  · rfl
  · split
    · rfl
    · exact framed_sendLocal ..

theorem framed_peek (k : Iss) (s : State) : Framed keep k.c k.t s (peek k s) := by
  unfold peek
  dsimp only
  split
  · rfl
  · split
    · exact framed_of_sansRecords (sansRecords_fenceRefused ..)
    · exact framed_updThread ..

theorem framed_twaitBody (k : Iss) (s : State) : Framed keep k.c k.t s (twaitBody k s).state := by
  unfold twaitBody
  split
  · rfl
  · split
    · exact framed_peek k s
    · dsimp only
      split
      · rfl
      · exact framed_injectLocal _ s

theorem framed_vmovaBody (k : Iss) (s : State) : Framed keep k.c k.t s (vmovaBody k s).state := by
  unfold vmovaBody
  split
  · rfl
  · exact framed_updThread ..

end

end Sys2Proof.Machine
end

section
/-! The frame of every instruction (R79, R105, R110, R113, R114, R115, R206). -/

namespace Sys2Proof.Machine

open Sys2Proof

/-! ### The ends of an issue -/

/-- What holds of the state as it is, of a fault, of a block and of what the instruction does holds of the issue (R77, R78, R106, R108). -/
theorem issue_induct {op : Nat} {i : Issue} {body : Iss → State → IRes} {s : State} {P : State → Prop} (hidle : P s)
    (hfault : ∀ e q, Checked (coreId i.core) s q → P (faultThread (coreId i.core) i.thread.val e q))
    (hblock : ∀ w, P (blockThread (coreId i.core) i.thread.val i.cycle w s))
    (hoffered : ∀ k q, Offered op i s k q → P (settle k.c k.t k.cycle (body k q))) : P (issue op i body s) := by
  have hread := checked_readCheck (coreId i.core) i.fetch [hrng (hview (coreAt s (coreId i.core)) 0) (issThread i s).pc.toNat 8] s
  unfold issue
  dsimp only
  split
  · exact hidle
  · rename_i hgo
    split
    · exact hfault _ _ (.refl ..)
    · rename_i hfetch
      split
      · exact hblock _
      · rename_i hclear
        split
        · exact hblock _
        · rename_i hscore
          split
          · exact hfault _ _ hread
          · rename_i hnone
            split
            · exact hfault _ _ hread
            · rename_i hknown
              split
              · exact hidle
              · rename_i hop
                split
                · exact hfault _ _ hread
                · rename_i hres
                  simp only [Bool.or_eq_true, Bool.not_eq_true', bne_iff_ne, not_or, not_not, Bool.not_eq_false, decide_eq_true_eq, Bool.not_eq_true] at hgo hknown hop hres
                  obtain ⟨⟨hruns, hready⟩, hturn⟩ := hgo
                  exact hoffered (issView i s _) _ ⟨hruns, hready, hturn, hfetch, hclear, hscore, Prod.ext rfl hnone, rfl, hop, hop ▸ hknown, hres.1, hres.2⟩

theorem framed_issue {op : Nat} {i : Issue} {body : Iss → State → IRes} {s : State} {keep : Nat → Prop}
    (h : ∀ k q, Offered op i s k q → Framed keep k.c k.t q (body k q).state) : Framed keep (coreId i.core) i.thread.val s (issue op i body s) := by
  refine issue_induct (.refl s) (fun e q hq => hq.framed.trans (framed_faultThread e q)) (fun w => framed_blockThread _ w s) fun k q ho => ?_
  rw [← ho.core, ← ho.thread]
  exact ho.checked.framed.trans (framed_settle (h k q ho))

/-! ### What a scalar instruction keeps of its own thread and core (R113, R114) -/

/-- Thread t of core c keeps its registers but scalar d, and the core its handles, tags, queue and unit entries. -/
structure OwnKept (d c t : Nat) (s q : State) : Prop where
  scalars : ∀ n, n ≠ d → regS (threadAt (coreAt q c) t) n = regS (threadAt (coreAt s c) t) n
  vectors : (threadAt (coreAt q c) t).v = (threadAt (coreAt s c) t).v
  accumulators : (threadAt (coreAt q c) t).a = (threadAt (coreAt s c) t).a
  handles : (coreAt q c).handles = (coreAt s c).handles
  full : (coreAt q c).full = (coreAt s c).full
  dmq : (coreAt q c).dmq = (coreAt s c).dmq
  units : (coreAt q c).units = (coreAt s c).units

/-- How a scalar instruction or a branch ends: rejected, or going on with at most its destination changed. -/
inductive ScalarEnd (k : Iss) (q : State) : IRes → Prop
  | rejects (e : Code) : ScalarEnd k q (.fault e q)
  | goesOn (pc : BitVec 18) : ScalarEnd k q (.done q pc)
  | writes {f : Thread → Thread} (hs : ∀ th n, n ≠ fw k 55 51 → regS (f th) n = regS th n) (hv : ∀ th, (f th).v = th.v) (ha : ∀ th, (f th).a = th.a)
      (pc : BitVec 18) : ScalarEnd k q (.done (updThread k f q) pc)

theorem regS_setS_ne {n m : Nat} (v : DWord) (th : Thread) (h : m ≠ n) : regS (setS n v th) m = regS th m := by
  rw [regS_setS, if_neg h.symm]
  split
  · rename_i hm
    rw [hm, regS_zero]
  · rfl

theorem v_setS (n : Nat) (v : DWord) (th : Thread) : (setS n v th).v = th.v := by unfold setS; split <;> rfl
theorem a_setS (n : Nat) (v : DWord) (th : Thread) : (setS n v th).a = th.a := by unfold setS; split <;> rfl

theorem scalarEnd_writeD (k : Iss) (v : DWord) (q : State) : ScalarEnd k q (writeD k v q) :=
  .writes (fun th _ h => regS_setS_ne v th h) (v_setS _ v) (a_setS _ v) _

theorem scalarEnd_linkTo (k : Iss) (target : Int) (q : State) : ScalarEnd k q (linkTo k target q) :=
  .writes (f := fun th => landAt target (setS (fw k 55 51) ((pcNext k).setWidth 64) th)) (fun th _ h => regS_setS_ne _ th h) (v_setS _ _) (a_setS _ _) _

theorem scalarEnd_landAt (k : Iss) (target : Int) (pc : BitVec 18) (q : State) : ScalarEnd k q (.done (updThread k (landAt target) q) pc) :=
  .writes (f := landAt target) (fun _ _ _ => rfl) (fun _ => rfl) (fun _ => rfl) _

theorem scalarEnd_stopped (k : Iss) (pc : BitVec 18) (q : State) : ScalarEnd k q (.done (updThread k (fun th => { th with st := .stopped }) q) pc) :=
  .writes (f := fun th => { th with st := .stopped }) (fun _ _ _ => rfl) (fun _ => rfl) (fun _ => rfl) _

theorem ScalarEnd.ite {k : Iss} {q : State} {p : Prop} [Decidable p] {r r' : IRes} (h : ScalarEnd k q r) (h' : ScalarEnd k q r') :
    ScalarEnd k q (if p then r else r') := by
  split
  · exact h
  · exact h'

theorem ScalarEnd.framed {k : Iss} {q : State} {r : IRes} {keep : Nat → Prop} (h : ScalarEnd k q r) : Framed keep k.c k.t q r.state := by
  cases h with
  | rejects => exact .refl q
  | goesOn => exact .refl q
  | writes => exact framed_updThread ..

/-- A core without the round robin's place and its record of errors. -/
def sansOffer (x : Core) : Core := { x with coreErr := 0, lastIssued := 0, offerCycle := 0, passed := [] }

section
variable {d c t : Nat}

theorem OwnKept.refl (s : State) : OwnKept d c t s s := ⟨fun _ _ => rfl, rfl, rfl, rfl, rfl, rfl, rfl⟩

theorem OwnKept.trans {s q r : State} (h : OwnKept d c t s q) (g : OwnKept d c t q r) : OwnKept d c t s r :=
  ⟨fun n hn => (g.scalars n hn).trans (h.scalars n hn), g.vectors.trans h.vectors, g.accumulators.trans h.accumulators, g.handles.trans h.handles,
    g.full.trans h.full, g.dmq.trans h.dmq, g.units.trans h.units⟩

theorem Checked.ownKept {s q : State} (h : Checked c s q) : OwnKept d c t s q :=
  ⟨fun n _ => by rw [h.threadAt], by rw [h.threadAt], by rw [h.threadAt], h.handles, h.full, h.dmq, h.units⟩

/-- A core whose thread t becomes one with the same registers but scalar d. -/
theorem ownKept_setThread {s q : State} {th : Thread} (hcore : sansOffer (coreAt q c) = sansOffer (setThread t th (coreAt s c)))
    (hs : ∀ n, n ≠ d → regS th n = regS (threadAt (coreAt s c) t) n) (hv : th.v = (threadAt (coreAt s c) t).v)
    (ha : th.a = (threadAt (coreAt s c) t).a) : OwnKept d c t s q := by
  have hthreads : (coreAt q c).threads = (setThread t th (coreAt s c)).threads := (congrArg Core.threads hcore :)
  have hth : threadAt (coreAt q c) t = th := by
    rw [threadAt, hthreads]
    exact threadAt_setThread_same t th (coreAt s c)
  exact ⟨fun n hn => by rw [hth, hs n hn], by rw [hth, hv], by rw [hth, ha], (congrArg Core.handles hcore :), (congrArg Core.full hcore :),
    (congrArg Core.dmq hcore :), (congrArg Core.units hcore :)⟩

theorem ownKept_faultThread (e : Code) (s : State) : OwnKept d c t s (faultThread c t e s) :=
  ownKept_setThread (th := { threadAt (coreAt s c) t with st := .faulted, wait := .none, met := false }) (congrArg sansOffer (coreAt_faultThread c t e s) :) (fun _ _ => rfl) rfl rfl

theorem ownKept_blockThread (cycle : DWord) (w : WaitOn) (s : State) : OwnKept d c t s (blockThread c t cycle w s) :=
  ownKept_setThread (th := { threadAt (coreAt s c) t with st := .blocked, wait := w, met := false }) (congrArg sansOffer (coreAt_blockThread c t cycle w s) :) (fun _ _ => rfl) rfl rfl

theorem ownKept_issued (cycle : DWord) (pc : BitVec 18) (s : State) : OwnKept d c t s (issued c t cycle pc s) :=
  ownKept_setThread (th := { threadAt (coreAt s c) t with pc := pc }) (congrArg sansOffer (coreAt_issued c t cycle pc s) :) (fun _ _ => rfl) rfl rfl

end

theorem ScalarEnd.ownKept {k : Iss} {q : State} {r : IRes} (h : ScalarEnd k q r) : OwnKept (fw k 55 51) k.c k.t q (settle k.c k.t k.cycle r) := by
  cases h with
  | rejects e => exact ownKept_faultThread e q
  | goesOn pc => exact ownKept_issued _ pc q
  | writes hs hv ha pc =>
    refine .trans ?_ (ownKept_issued _ pc _)
    exact ownKept_setThread (congrArg sansOffer (coreAt_setCore_same k.c _ q) :) (hs _) (hv _) (ha _)

theorem ownKept_issue {op : Nat} {i : Issue} {body : Iss → State → IRes} {s : State} (h : ∀ k q, ScalarEnd k q (body k q)) :
    OwnKept (bits (wordAtPc s (coreId i.core) (issThread i s).pc.toNat) 55 51) (coreId i.core) i.thread.val s (issue op i body s) := by
  refine issue_induct (.refl s) (fun e q hq => hq.ownKept.trans (ownKept_faultThread e q)) (fun w => ownKept_blockThread _ w s) fun k q ho => ?_
  have hword : k.word = wordAtPc s (coreId i.core) (issThread i s).pc.toNat := by rw [ho.view]; rfl
  rw [← hword, ← ho.core, ← ho.thread]
  exact ho.checked.ownKept.trans (h k q).ownKept

/-! ### The bodies of all instructions -/

/-- What the body of an instruction keeps. -/
structure BodyKeeps (op : Nat) (body : Iss → State → IRes) : Prop where
  framed : ∀ keep k q, unitPort k.c = 0 → (op = 0x42 ∨ op = 0x43 → ∀ a, keep a → outsideStore k a) → Framed keep k.c k.t q (body k q).state
  scalar : op < 0x40 → ∀ k q, ScalarEnd k q (body k q)

theorem bodyKeeps_scalar {op : Nat} {body : Iss → State → IRes} (h : ∀ k q, ScalarEnd k q (body k q)) : BodyKeeps op body :=
  ⟨fun _ k q _ _ => (h k q).framed, fun _ => h⟩

theorem bodyKeeps_other {op : Nat} {body : Iss → State → IRes} (hop : 0x40 ≤ op)
    (h : ∀ keep k q, unitPort k.c = 0 → Framed keep k.c k.t q (body k q).state) : BodyKeeps op body :=
  ⟨fun keep k q hport _ => h keep k q hport, fun hlt => absurd hlt (not_lt.2 hop)⟩

theorem bodyKeeps_store {op : Nat} {ste : Bool} (hop : op = 0x42 ∨ op = 0x43) : BodyKeeps op (storeBody ste) :=
  ⟨fun _ _ q hport hkeep => framed_storeBody hport (hkeep hop) ste q, fun hlt => absurd hlt (by omega)⟩

theorem exec_body {x : Instr} {op : Nat} {i : Issue} (h : instrOf x = some (op, i)) :
    ∃ body, (∀ s, exec x s = .next (issue op i body s)) ∧ BodyKeeps op body := by
  cases x with
  | add | sub | mul | and_ | or_ | xor_ | shl | shr | sar | min_ | max_ | minu | maxu | slt | sltu | addi | andi | ori | xori | shli | shri | sari
  | slti | lih | rdsys =>
    cases h
    exact ⟨_, fun _ => rfl, bodyKeeps_scalar fun k q => scalarEnd_writeD k _ q⟩
  | nop =>
    cases h
    exact ⟨_, fun _ => rfl, bodyKeeps_scalar fun k q => .goesOn _⟩
  | halt =>
    cases h
    exact ⟨_, fun _ => rfl, bodyKeeps_scalar fun k q => scalarEnd_stopped k _ q⟩
  | beq | bne | blt | bge | bltu | bgeu =>
    cases h
    exact ⟨_, fun _ => rfl, bodyKeeps_scalar fun k q => .ite (.rejects _) (.ite (scalarEnd_landAt k _ _ q) (.goesOn _))⟩
  | jal | jr =>
    cases h
    exact ⟨_, fun _ => rfl, bodyKeeps_scalar fun k q => .ite (.rejects _) (scalarEnd_linkTo k _ q)⟩
  | ldf | ldk =>
    cases h
    exact ⟨_, fun _ => rfl, bodyKeeps_other (by decide) fun _ _ q hport => framed_loadBody hport _ q⟩
  | ste => cases h; exact ⟨_, fun _ => rfl, bodyKeeps_store (.inl rfl)⟩
  | stf => cases h; exact ⟨_, fun _ => rfl, bodyKeeps_store (.inr rfl)⟩
  | empt => cases h; exact ⟨_, fun _ => rfl, bodyKeeps_other (by decide) fun _ _ q hport => framed_emptBody hport q⟩
  | bind => cases h; exact ⟨_, fun _ => rfl, bodyKeeps_other (by decide) fun _ k q _ => framed_bindBody k q⟩
  | unbind => cases h; exact ⟨_, fun _ => rfl, bodyKeeps_other (by decide) fun _ k q _ => framed_unbindBody k q⟩
  | dmq => cases h; exact ⟨_, fun _ => rfl, bodyKeeps_other (by decide) fun _ _ q hport => framed_dmqBody hport q⟩
  | vadd | vsub | vmul | vfma | vmax | vmin | vsum | vbcast | vmovs | exp2 | rsq =>
    cases h
    exact ⟨_, fun _ => rfl, bodyKeeps_other (by decide) fun _ k q _ => framed_updThread k _ q⟩
  | vmova => cases h; exact ⟨_, fun _ => rfl, bodyKeeps_other (by decide) fun _ k q _ => framed_vmovaBody k q⟩
  | mvd => cases h; exact ⟨_, fun _ => rfl, bodyKeeps_other (by decide) fun _ _ q hport => framed_mvdBody hport q⟩
  | mma | mmax => cases h; exact ⟨_, fun _ => rfl, bodyKeeps_other (by decide) fun _ _ q hport => framed_arrayBody hport q⟩
  | cvt | qcf => cases h; exact ⟨_, fun _ => rfl, bodyKeeps_other (by decide) fun _ _ q hport => framed_cvtBody hport q⟩
  | topk => cases h; exact ⟨_, fun _ => rfl, bodyKeeps_other (by decide) fun _ _ q hport => framed_topkBody hport q⟩
  | snd => cases h; exact ⟨_, fun _ => rfl, bodyKeeps_other (by decide) fun _ _ q hport => framed_sndBody hport q⟩
  | sndr => cases h; exact ⟨_, fun _ => rfl, bodyKeeps_other (by decide) fun _ k q _ => framed_sndrBody k q⟩
  | rdm => cases h; exact ⟨_, fun _ => rfl, bodyKeeps_other (by decide) fun _ _ q hport => framed_rdmBody hport q⟩
  | tadd | tset => cases h; exact ⟨_, fun _ => rfl, bodyKeeps_other (by decide) fun _ k q _ => framed_taddBody _ k q⟩
  | twait => cases h; exact ⟨_, fun _ => rfl, bodyKeeps_other (by decide) fun _ k q _ => framed_twaitBody k q⟩
  | _ => cases h

theorem unitPort_coreId (c : CoreRef) : unitPort (coreId c) = 0 := by
  have hcore : coreId c / 4096 = c.field.val := by
    have := c.cy.isLt
    have := c.cx.isLt
    unfold coreId
    omega
  have := c.field.isLt
  rw [unitPort, hcore, if_neg (by omega), if_neg (by omega), if_neg (by omega)]

/-- The bytes outside the store range of the word at a thread's program counter, as the thread sees it at issue. -/
def keptBytes (op : Nat) (i : Issue) (s : State) (a : Nat) : Prop :=
  let w := wordAtPc s (coreId i.core) (issThread i s).pc.toNat
  op = 0x42 ∨ op = 0x43 → let h := hview (coreAt s (coreId i.core)) (bits w 53 48)
    h.cls = 2 ∨ a < coreAddr (coreId i.core) (h.base + (regS (issThread i s) (bits w 47 43)).toNat + bits w 37 20) ∨
      coreAddr (coreId i.core) (h.base + (regS (issThread i s) (bits w 47 43)).toNat + bits w 37 20) + (if bits w 55 54 = 0 then 8 else if bits w 55 54 = 1 then 32 else 64) ≤ a

theorem outsideStore_of_keptBytes {op : Nat} {i : Issue} {s q : State} {k : Iss} (ho : Offered op i s k q) (hop : op = 0x42 ∨ op = 0x43) {a : Nat}
    (h : keptBytes op i s a) : outsideStore k a := by
  have hview := ho.checked.hview
  have hseen := ho.seen
  have hkept := h hop
  rw [outsideStore, fh, hseen, hview, memOff, ← Nat.add_assoc]
  rw [ho.view]
  exact hkept

/-- Settles O15: the frame of the issue, and the scalar instructions' own end. -/
theorem instructionsLeaveTheRestUnchanged : Obligations.InstructionsLeaveTheRestUnchanged := by
  unfold Obligations.InstructionsLeaveTheRestUnchanged
  intro x op i s t hx hexec c th w
  obtain ⟨body, hbody, hkeeps⟩ := exec_body hx
  obtain rfl : issue op i body s = t := by
    rw [hbody] at hexec
    exact Host.Outcome.next.inj hexec
  have hframe : Framed (keptBytes op i s) c i.thread.val s (issue op i body s) := framed_issue fun k q ho =>
    hkeeps.framed _ k q (by rw [ho.core]; exact unitPort_coreId i.core) fun hop _ ha => outsideStore_of_keptBytes ho hop ha
  have hrest := hframe.rest
  refine ⟨hframe.others, fun n hn => ?_, hframe.mem, (congrArg State.stackMem hrest :), (congrArg State.exch hrest :), (congrArg State.tallies hrest :),
    (congrArg State.beat hrest :), (congrArg State.serving hrest :), (congrArg State.links hrest :), (congrArg State.fields hrest :),
    (congrArg State.boot hrest :), (congrArg State.pending hrest :), fun hop => ?_⟩
  · have hth := hframe.threads n hn
    exact ⟨(congrArg Thread.s hth :), (congrArg Thread.v hth :), (congrArg Thread.a hth :), (congrArg Thread.pc hth :), (congrArg Thread.st hth :),
      (congrArg Thread.wait hth :)⟩
  · have hown : OwnKept (bits w 55 51) c i.thread.val s (issue op i body s) := ownKept_issue (hkeeps.scalar hop)
    exact ⟨hown.scalars, hown.vectors, hown.accumulators, hown.handles, hown.full, hown.dmq, hown.units⟩

end Sys2Proof.Machine
end

section
/-! What the issue of an instruction can end in (R77, R78, R106, R108). -/

namespace Sys2Proof.Machine

open Sys2Proof

theorem sansCores_faultThread (c t : Nat) (e : Code) (s : State) : sansCores (faultThread c t e s) = sansCores s := by
  rw [faultThread, noteFault, sansCores_of_sansRecords (sansRecords_recordErr ..)]
  rfl

section
variable {op : Nat} {i : Issue} {body : Iss → State → IRes} {s : State}

/-- A thread that is offered no slot changes nothing (R77). -/
theorem issue_idle (h : coreRuns s (coreId i.core) = false ∨ (issThread i s).st ≠ .ready ∨ myTurn (coreAt s (coreId i.core)) i.thread.val i.cycle = false) :
    issue op i body s = s := by
  refine if_pos ?_
  simp only [Bool.or_eq_true, Bool.not_eq_true', bne_iff_ne]
  tauto

section
variable (hruns : coreRuns s (coreId i.core) = true) (hready : (issThread i s).st = .ready)
  (hturn : myTurn (coreAt s (coreId i.core)) i.thread.val i.cycle = true)
include hruns hready hturn

theorem not_idle : ¬ ((!coreRuns s (coreId i.core) || (threadAt (coreAt s (coreId i.core)) i.thread.val).st != .ready ||
    !myTurn (coreAt s (coreId i.core)) i.thread.val i.cycle) = true) := by
  have : (threadAt (coreAt s (coreId i.core)) i.thread.val).st = .ready := hready
  simp [hruns, hturn, this]

/-- A failing fetch faults the thread (R78). -/
theorem issue_fetchFault {e : Code} (hfetch : fetchFault (coreAt s (coreId i.core)) (fetchAt (issThread i s)) = some e) :
    issue op i body s = faultThread (coreId i.core) i.thread.val e s := by
  refine (if_neg (not_idle hruns hready hturn)).trans ?_
  rw [show fetchFault (coreAt s (coreId i.core)) (fetchAt (threadAt (coreAt s (coreId i.core)) i.thread.val)) = some e from hfetch]

/-- An unassigned opcode and a reserved bit or encoding fault the thread (R106, R108). -/
theorem issue_illegal {q : State} (hfetch : fetchFault (coreAt s (coreId i.core)) (fetchAt (issThread i s)) = none)
    (hbank : clearingBank (coreAt s (coreId i.core)) (fetchRng i s) = none) (hscore : scoreBlock (coreAt s (coreId i.core)) (fetchRng i s) false = none)
    (hread : readCheck (coreId i.core) i.fetch [fetchRng i s] s = (q, none))
    (hill : opAssigned (fw (issView i s q) 63 56) = false ∨ (fw (issView i s q) 63 56 = op ∧
      ((issView i s q).word.toNat % 2 ^ 56 &&& reservedBits op ≠ 0 ∨ reservedEnc (issView i s q) op = true))) :
    issue op i body s = faultThread (coreId i.core) i.thread.val E.illegalOp q := by
  refine (if_neg (not_idle hruns hready hturn)).trans ?_
  simp only [show fetchFault (coreAt s (coreId i.core)) (fetchAt (threadAt (coreAt s (coreId i.core)) i.thread.val)) = none from hfetch,
    show clearingBank (coreAt s (coreId i.core)) (hrng (hview (coreAt s (coreId i.core)) 0) (threadAt (coreAt s (coreId i.core)) i.thread.val).pc.toNat 8) = none from hbank,
    show scoreBlock (coreAt s (coreId i.core)) (hrng (hview (coreAt s (coreId i.core)) 0) (threadAt (coreAt s (coreId i.core)) i.thread.val).pc.toNat 8) false = none from hscore,
    show readCheck (coreId i.core) i.fetch [hrng (hview (coreAt s (coreId i.core)) 0) (threadAt (coreAt s (coreId i.core)) i.thread.val).pc.toNat 8] s = (q, none) from hread]
  rcases hill with hun | ⟨hop, hres⟩
  · exact if_pos (by rw [show opAssigned (bits (wordAtPc s (coreId i.core) (threadAt (coreAt s (coreId i.core)) i.thread.val).pc.toNat) 63 56) = false from hun]; rfl)
  · split
    · rfl
    · refine (if_neg (not_not.2 hop)).trans (if_pos ?_)
      rw [Bool.or_eq_true, decide_eq_true_iff]
      exact hres

end
end

/-- Settles O7: each clause is a branch of the issue. -/
theorem rejectedInstructionsFaultTheirThread : Obligations.RejectedInstructionsFaultTheirThread := by
  unfold Obligations.RejectedInstructionsFaultTheirThread
  intro x op i s hx
  obtain ⟨body, hexec, -⟩ := exec_body hx
  refine ⟨fun h => ?_, fun e hruns hready hturn hfetch => ?_, fun q hruns hready hturn hfetch hbank hscore hread hill => ?_, fun e q => ?_⟩
  · rw [hexec, issue_idle h]
  · rw [hexec, issue_fetchFault hruns hready hturn hfetch]
  · rw [hexec, issue_illegal hruns hready hturn hfetch hbank hscore hread hill]
  · rw [coreAt_faultThread]
    exact ⟨threadAt_setThread_same i.thread.val { threadAt (coreAt q (coreId i.core)) i.thread.val with st := .faulted, wait := .none, met := false }
      (coreAt q (coreId i.core)), rfl, rfl, (congrArg State.mem (sansCores_faultThread ..) :)⟩

end Sys2Proof.Machine
end

section
/-! What the events of a core do (R69, R72, R77, R87, R89, R90, R94, R95, R211, R217). -/

namespace Sys2Proof.Machine

open Sys2Proof

/-! ### Messages of the core's engines (R182) -/

/-- A core without the messages it has yet to inject. -/
def sansQueues (x : Core) : Core := { x with engine := [], inject := [] }

/-- The engine without its cores. -/
def bare (s : State) : State := { s with cores := [] }

@[simp] theorem bare_updCore (c : Nat) (f : Core → Core) (s : State) : bare (updCore c f s) = bare s := rfl

/-- Only messages that core c is to inject are added. -/
structure Sent (c : Nat) (s q : State) : Prop where
  rest : bare q = bare s
  others : ∀ d, d ≠ c → coreAt q d = coreAt s d
  core : sansQueues (coreAt q c) = sansQueues (coreAt s c)

section
variable {c : Nat}

@[refl] theorem Sent.refl (s : State) : Sent c s s := ⟨rfl, fun _ _ => rfl, rfl⟩

theorem Sent.trans {s q r : State} (h : Sent c s q) (g : Sent c q r) : Sent c s r :=
  ⟨g.rest.trans h.rest, fun d hd => (g.others d hd).trans (h.others d hd), g.core.trans h.core⟩

theorem Sent.dmq {s q : State} (h : Sent c s q) : (coreAt q c).dmq = (coreAt s c).dmq := (congrArg Core.dmq h.core :)
theorem Sent.score {s q : State} (h : Sent c s q) : (coreAt q c).score = (coreAt s c).score := (congrArg Core.score h.core :)
theorem Sent.mem {s q : State} (h : Sent c s q) : q.mem = s.mem := (congrArg State.mem h.rest :)
theorem Sent.credits {s q : State} (h : Sent c s q) : q.credits = s.credits := (congrArg State.credits h.rest :)

theorem sent_foldl {α : Type} {f : State → α → State} (h : ∀ s x, Sent c s (f s x)) (l : List α) (s : State) : Sent c s (l.foldl f s) := by
  induction l generalizing s with
  | nil => exact .refl s
  | cons x l ih => exact (h s x).trans (ih _)

theorem sansQueues_refillFrom (s : State) (n : Nat) (x : Core) : sansQueues (refillFrom s c n x) = sansQueues x := by
  induction n generalizing x with
  | zero => rfl
  | succ n ih =>
    unfold refillFrom
    split
    · split
      · exact ih _
      · rfl
    · rfl

theorem sent_injectEngine {m : Msg} (h : unitPort m.src = 0) (s : State) : Sent c s (injectEngine c m s) := by
  simp only [injectEngine, h]
  refine ⟨(bare_updCore ..).trans (bare_updCore ..), fun d hd => ?_, ?_⟩
  · rw [refillCore, coreAt_updCore_ne _ _ hd, coreAt_updCore_ne _ _ hd]
  · rw [refillCore, coreAt_updCore_same, sansQueues_refillFrom, coreAt_updCore_same]
    rfl

theorem sent_sendNotify (hport : unitPort c = 0) (on : Bool) (n : Nat) (s : State) : Sent c s (sendNotify c c on n s) := by
  unfold sendNotify
  split
  · exact sent_injectEngine ((congrArg unitPort (src_towardTally ..)).trans hport) s
  · rfl

end

/-! ### Wakes (R77) -/

theorem exec_threadWake {c : CoreRef} {t : Fin 16} {s : State} (hruns : coreRuns s (coreId c) = true)
    (hst : (threadAt (coreAt s (coreId c)) t.val).st = .blocked) (hmet : (threadAt (coreAt s (coreId c)) t.val).met = true) :
    exec (.threadWake c t) s = .next (setCore (coreId c) (setThread t.val { threadAt (coreAt s (coreId c)) t.val with st := .ready, wait := .none, met := false }
      (coreAt s (coreId c))) s) := by
  change Host.Outcome.next (if coreRuns s (coreId c) then wakeThread (coreId c) t.val s else s) = _
  simp only [if_pos hruns, wakeThread, hst, hmet]
  rfl

/-! ### The DMA queue (R94, R95) -/

theorem coreAt_updDesc (c id : Nat) (f : Desc → Desc) (s : State) :
    coreAt (updDesc c id f s) c = { coreAt s c with dmq := (coreAt s c).dmq.map fun d => if d.id = id then f d else d } := coreAt_updCore_same ..

theorem sent_getPieces {c : Nat} (hport : unitPort c = 0) (d : Desc) (s : State) : Sent c s (getPieces c d towardAddr s) :=
  sent_foldl (fun s _ => sent_injectEngine ((congrArg unitPort (src_towardAddr ..)).trans hport) s) _ s

theorem exec_descStart {c : CoreRef} {chk : StoreCheck} {s : State} {d : Desc} (hruns : coreRuns s (coreId c) = true)
    (hgo : ((coreAt s (coreId c)).dmq.find? fun d => d.active && d.op == 2 && !d.sent && putReady (coreAt s (coreId c)) d != 0) = none)
    (hd : ((coreAt s (coreId c)).dmq.find? fun d => !d.active) = some d) (hroom : ((coreAt s (coreId c)).dmq.filter (·.active)).length < 4) :
    exec (.dmaDescStart c chk) s = .next (activate (coreId c) d chk s) := by
  change Host.Outcome.next (descStart (coreId c) chk s) = _
  simp only [descStart, hruns, hgo, hd, if_pos hroom]
  rfl

/-- Descriptor d of core c is active. -/
def started (c : Nat) (d : Desc) (s : State) : State := updDesc c d.id (fun d => { d with active := true }) s

theorem activate_floorGet {c : Nat} {d : Desc} {chk : StoreCheck} {s : State} (hr : remoteOf s c d = .floor) (hop : d.op = 1) :
    activate c d chk s = getPieces c d towardAddr (started c d s) := by
  rw [activate, if_neg (by omega)]
  simp only [hr, if_pos hop]
  rfl

theorem putReady_congr {x y : Core} {d : Desc} (hclear : y.clearing = x.clearing) (hfull : y.full = x.full) : putReady y d = putReady x d := by
  simp only [putReady, clearingBank, allFull, hclear, hfull]

theorem activate_floorPut {c : Nat} {d : Desc} {chk : StoreCheck} {s : State} (hr : remoteOf s c d = .floor) (hop : d.op = 2)
    (hbuf : d.buf = []) (hlen : 0 < d.len) (hready : putReady (coreAt s c) d = d.len)
    (hread : readCheck c chk [rngOf false d.loc d.len] (started c d s) =
      (started c d s, none)) :
    activate c d chk s = startPut c d .floor (readMem s (coreAddr c d.loc) d.len) (started c d s) := by
  have hready' : putReady (coreAt (started c d s) c) d = d.len := by
    rw [← hready, started, coreAt_updDesc]
    exact putReady_congr rfl rfl
  rw [activate, if_neg (by omega)]
  simp only [hr]
  change (if d.op = 1 then startGet c d .floor (started c d s) else readPut c d chk (started c d s)) = _
  rw [if_neg (by omega), readPut]
  simp only [hready', hbuf, List.length_nil, Nat.add_zero, hread, List.nil_append]
  rw [if_neg (by omega), show remoteOf (started c d s) c d = .floor from hr, readMem_congr (s := started c d s) (t := s) rfl]

theorem mem_map_started {c : Nat} {d : Desc} {s : State} {p : Desc → Bool} (hd : (coreAt s c).dmq.find? p = some d) :
    { d with active := true } ∈ (coreAt (started c d s) c).dmq := by
  rw [started, coreAt_updDesc]
  exact List.mem_map.2 ⟨d, List.mem_of_find?_eq_some hd, if_pos rfl⟩

theorem sent_startPut_floor {c : Nat} (hport : unitPort c = 0) (d : Desc) (l : List Byte) (s : State) :
    Sent c (updDesc c d.id (fun d => { d with buf := l, sent := decide (d.len ≤ l.length) }) s) (startPut c d .floor l s) :=
  sent_foldl (fun s _ => sent_injectEngine ((congrArg unitPort (src_towardAddr ..)).trans hport) s) _ _

/-- The GET at the front of the queue starts (R94). -/
theorem exec_descStart_get {c : CoreRef} {chk : StoreCheck} {s : State} {d : Desc} (hruns : coreRuns s (coreId c) = true)
    (hgo : ((coreAt s (coreId c)).dmq.find? fun d => d.active && d.op == 2 && !d.sent && putReady (coreAt s (coreId c)) d != 0) = none)
    (hd : ((coreAt s (coreId c)).dmq.find? fun d => !d.active) = some d) (hroom : ((coreAt s (coreId c)).dmq.filter (·.active)).length < 4)
    (hr : remoteOf s (coreId c) d = .floor) (hop : d.op = 1) :
    ∃ t e, exec (.dmaDescStart c chk) s = .next t ∧ e ∈ (coreAt t (coreId c)).dmq ∧ e.id = d.id ∧ e.active = true ∧ t.mem = s.mem ∧ t.credits = s.credits := by
  have hsent := sent_getPieces (unitPort_coreId c) d (started (coreId c) d s)
  refine ⟨_, { d with active := true }, (exec_descStart hruns hgo hd hroom).trans (congrArg _ (activate_floorGet hr hop)), ?_, rfl, rfl,
    hsent.mem, hsent.credits⟩
  rw [hsent.dmq]
  exact mem_map_started hd

/-- The PUT at the front of the queue starts, and reads and sends all its bytes where they are ready (R70, R94). -/
theorem exec_descStart_put {c : CoreRef} {chk : StoreCheck} {s : State} {d : Desc} (hruns : coreRuns s (coreId c) = true)
    (hgo : ((coreAt s (coreId c)).dmq.find? fun d => d.active && d.op == 2 && !d.sent && putReady (coreAt s (coreId c)) d != 0) = none)
    (hd : ((coreAt s (coreId c)).dmq.find? fun d => !d.active) = some d) (hroom : ((coreAt s (coreId c)).dmq.filter (·.active)).length < 4)
    (hr : remoteOf s (coreId c) d = .floor) (hop : d.op = 2) (hbuf : d.buf = []) (hlen : 0 < d.len) (hready : putReady (coreAt s (coreId c)) d = d.len)
    (hread : readCheck (coreId c) chk [rngOf false d.loc d.len] (started (coreId c) d s) = (started (coreId c) d s, none)) :
    ∃ t e, (exec (.dmaDescStart c chk) s = .next t ∧ e ∈ (coreAt t (coreId c)).dmq ∧ e.id = d.id ∧ e.active = true ∧ t.mem = s.mem ∧
      t.credits = s.credits) ∧ e.sent = true ∧ e.buf = readMem s (coreAddr (coreId c) d.loc) d.len := by
  have hsent := sent_startPut_floor (unitPort_coreId c) d (readMem s (coreAddr (coreId c) d.loc) d.len) (started (coreId c) d s)
  refine ⟨_, { d with active := true, buf := readMem s (coreAddr (coreId c) d.loc) d.len, sent := decide (d.len ≤ (readMem s (coreAddr (coreId c) d.loc) d.len).length) },
    ⟨(exec_descStart hruns hgo hd hroom).trans (congrArg _ (activate_floorPut hr hop hbuf hlen hready hread)), ?_, rfl, rfl,
    hsent.mem, hsent.credits⟩, ?_, rfl⟩
  · rw [hsent.dmq, coreAt_updDesc]
    exact List.mem_map.2 ⟨_, mem_map_started hd, if_pos rfl⟩
  · rw [length_readMem]
    exact decide_eq_true le_rfl

/-- Descriptor d has left the queue with its scoreboard entry and its credit. -/
def descFreed (c : Nat) (d : Desc) (s : State) : State :=
  { updCore c (fun x => descMeets d.id (x.score.any (·.id == d.id))
      { x with dmq := x.dmq.filter (·.id != d.id), score := x.score.filter (·.id != d.id),
               draining := x.draining && (x.dmq.filter (·.id != d.id)).any (·.active) }) s with
    credits := if d.credit then s.credits - 1 else s.credits }

theorem descDone_clean {d : Desc} (h : d.failed = none) (c : Nat) (s : State) :
    descDone c d s = sendNotify c c d.notify d.tally (descFreed c d s) := by
  rw [descDone, descFailed, h]
  rfl

theorem coreAt_descFreed (c : Nat) (d : Desc) (s : State) : (coreAt (descFreed c d s) c).dmq = (coreAt s c).dmq.filter (fun e => e.id != d.id) ∧
    (coreAt (descFreed c d s) c).score = (coreAt s c).score.filter (fun e => e.id != d.id) := by
  have h := coreAt_updCore_same c (fun x => descMeets d.id (x.score.any (·.id == d.id))
      { x with dmq := x.dmq.filter (·.id != d.id), score := x.score.filter (·.id != d.id),
               draining := x.draining && (x.dmq.filter (·.id != d.id)).any (·.active) }) s
  exact ⟨(congrArg Core.dmq h :), (congrArg Core.score h :)⟩

/-- A descriptor with nothing left ends (R94). -/
theorem exec_descEnd {c : CoreRef} {j : Fin 4} {s : State} {d : Desc} (hd : ((coreAt s (coreId c)).dmq.filter (·.active))[j.val]? = some d)
    (hleft : d.left = 0) (hsent : d.op = 1 ∨ d.sent = true) (hok : d.failed = none) :
    ∃ t, exec (.dmaDescEnd c j) s = .next t ∧ (coreAt t (coreId c)).dmq = (coreAt s (coreId c)).dmq.filter (fun e => e.id != d.id) ∧
      (coreAt t (coreId c)).score = (coreAt s (coreId c)).score.filter (fun e => e.id != d.id) ∧
      t.credits = (if d.credit then s.credits - 1 else s.credits) ∧ t.mem = s.mem := by
  have hexec : exec (.dmaDescEnd c j) s = .next (descDone (coreId c) d s) := by
    change Host.Outcome.next (descEnd (coreId c) j.val s) = _
    simp only [descEnd, hd]
    rw [if_pos ⟨hleft, hsent⟩]
  rw [descDone_clean hok] at hexec
  have hnotified := sent_sendNotify (unitPort_coreId c) d.notify d.tally (descFreed (coreId c) d s)
  obtain ⟨hdmq, hscore⟩ := coreAt_descFreed (coreId c) d s
  exact ⟨_, hexec, hnotified.dmq.trans hdmq, hnotified.score.trans hscore, hnotified.credits, hnotified.mem⟩

/-- A failed descriptor has nothing left to move (R95). -/
theorem exec_failureNotice_desc {n j a id : Nat} {code : Code} {s : State} (h : s.notices[j]? = some ⟨.desc n id, code, a⟩) :
    ∃ t, exec (.failureNotice j) s = .next t ∧ t.notices = s.notices.eraseIdx j ∧
      ∀ e ∈ (coreAt t n).dmq, e.id = id → e.left = 0 ∧ e.sent = true ∧ e.failed.isSome = true := by
  have hexec : exec (.failureNotice j) s = .next (failDesc n id code { s with notices := s.notices.eraseIdx j }) := by
    change Host.Outcome.next (failureNotice j s) = _
    simp only [failureNotice, h, noticeActs]
  refine ⟨_, hexec, rfl, fun e he hid => ?_⟩
  rw [failDesc, coreAt_updDesc] at he
  obtain ⟨d, -, hd⟩ := List.mem_map.1 he
  split at hd
  · rw [← hd]
    exact ⟨rfl, rfl, rfl⟩
  · rename_i hne
    exact absurd ((congrArg Desc.id hd).trans hid) hne

/-- A failed RDM is recorded in DMA_ERR (R95, R211). -/
theorem exec_failureNotice_rdm {n j a h off : Nat} {code : Code} {s : State} (hn : s.notices[j]? = some ⟨.rdm n h off, code, a⟩)
    (hfree : bit (coreAt s n).dmaErr 63 = false) :
    ∃ t, exec (.failureNotice j) s = .next t ∧ t.notices = s.notices.eraseIdx j ∧
      (coreAt t n).dmaErr = BitVec.ofNat 64 (2 ^ 63 + 2 ^ 32 * code.toNat + 2 ^ 20 * h + off % 2 ^ 18) := by
  have hexec : exec (.failureNotice j) s = .next (recordDma n code false h off { s with notices := s.notices.eraseIdx j }) := by
    change Host.Outcome.next (failureNotice j s) = _
    simp only [failureNotice, hn, noticeActs]
  have hrecord : recordDma n code false h off { s with notices := s.notices.eraseIdx j } =
      setCore n { coreAt s n with dmaErr := BitVec.ofNat 64 (2 ^ 63 + 2 ^ 32 * code.toNat + 2 ^ 26 * b2n false + 2 ^ 20 * h + off % 2 ^ 18) }
        { s with notices := s.notices.eraseIdx j } := if_neg (by rw [show coreAt { s with notices := s.notices.eraseIdx j } n = coreAt s n from rfl, hfree]; decide)
  refine ⟨_, hexec, ?_⟩
  rw [hrecord]
  exact ⟨rfl, by rw [coreAt_setCore_same]; rfl⟩

/-! ### Arrivals (R72) -/

theorem startDelivery_busy {r : Nat} {s : State} (h : (coreAt s r).eject ≠ []) : startDelivery r s = s := by
  have hbusy : portFree s r = false := by
    rw [portFree, List.isEmpty_eq_false_iff.2 h]
    rfl
  rw [startDelivery, hbusy]

/-- A delivery that starts fills a free ejection port. -/
theorem startDelivery_parts (r : Nat) (s : State) : (startDelivery r s).mem = s.mem ∧ (coreAt (startDelivery r s) r).full = (coreAt s r).full := by
  unfold startDelivery
  split
  · exact ⟨rfl, by rw [coreAt_updCore_same]⟩
  · exact ⟨rfl, rfl⟩

theorem landed_parts (o : Origin) (n : Nat) (s : State) (c : Nat) : (landed o n s).mem = s.mem ∧
    (coreAt (landed o n s) c).eject = (coreAt s c).eject ∧ (coreAt (landed o n s) c).full = (coreAt s c).full := by
  unfold landed
  split
  · rename_i d id
    by_cases hc : c = d
    · subst hc
      rw [descLanded, coreAt_updCore_same]
      exact ⟨rfl, rfl, rfl⟩
    · rw [descLanded, coreAt_updCore_ne _ _ hc]
      exact ⟨rfl, rfl, rfl⟩
  · exact ⟨rfl, rfl, rfl⟩
  · exact ⟨rfl, rfl, rfl⟩

theorem arrivalWrite_parts {c : Nat} (hport : unitPort c = 0) (m : Msg) (s : State) :
    (arrivalWrite c m s).mem = (writeMem (coreAddr c (m.addr % 0x40000)) m.payload s).mem ∧
      (coreAt (arrivalWrite c m s) c).eject = (coreAt s c).eject ∧
      (coreAt (arrivalWrite c m s) c).full = (if setsTags m then (setFull (arrivalRng m) (coreAt s c)).full else (coreAt s c).full) := by
  unfold arrivalWrite
  dsimp only
  generalize hmarked : (if setsTags m then _ else _ : State) = q
  have hq : q.mem = (writeMem (coreAddr c (m.addr % 0x40000)) m.payload s).mem ∧ (coreAt q c).eject = (coreAt s c).eject ∧
      (coreAt q c).full = (if setsTags m then (setFull (arrivalRng m) (coreAt s c)).full else (coreAt s c).full) := by
    subst hmarked
    split
    · rw [coreAt_updCore_same]
      exact ⟨rfl, rfl, rfl⟩
    · split
      · exact ⟨rfl, rfl, rfl⟩
      · have hrecords := sansRecords_hdOutsideWrite c (arrivalRng m) (writeMem (coreAddr c (m.addr % 0x40000)) m.payload s)
        rw [mem_of_sansRecords hrecords, coreAt_of_sansRecords hrecords]
        exact ⟨rfl, rfl, rfl⟩
  have hsent := sent_sendNotify hport m.notify m.tally q
  obtain ⟨hmem, heject, hfull⟩ := landed_parts m.origin m.payload.length (sendNotify c c m.notify m.tally q) c
  obtain ⟨hqmem, hqeject, hqfull⟩ := hq
  exact ⟨hmem.trans (hsent.mem.trans hqmem), heject.trans ((congrArg Core.eject hsent.core :).trans hqeject),
    hfull.trans ((congrArg Core.full hsent.core :).trans hqfull)⟩

/-- An arrival leaves the port. -/
def ejected (c : Nat) (s : State) : State := updCore c (fun x => { x with eject := x.eject.drop 1 }) s

theorem exec_fabricArrival {c : CoreRef} {m : Msg} {l : List Msg} {s : State} (hon : fieldSt s (coreId c / 4096) = .on)
    (hhead : (coreAt s (coreId c)).eject = m :: l) (hhere : answersGone s (coreId c) m.origin = false)
    (hfence : fenceOwner s m.src (mfind s.owner (coreId c)) = true) (hland : landing (coreAt s (coreId c)) m = .write) (hcls : m.cls ≠ .reduce) :
    exec (.fabricArrival c) s = .next (startDelivery (coreId c) (ejected (coreId c) (arrivalWrite (coreId c) m s))) := by
  have hon' : fieldSt s (fieldOfCore (coreId c)) = .on := hon
  change Host.Outcome.next (fabricArrival (coreId c) s) = _
  rw [fabricArrival, startDelivery_busy (by rw [hhead]; exact List.cons_ne_nil _ _)]
  simp only [hon', hhead, hhere, hfence, hland, arrivalDone, if_neg hcls]
  rfl

/-- The arrival at the head of the port is written, fills its tagged slots, and leaves (R72). -/
theorem exec_fabricArrival_writes {c : CoreRef} {m : Msg} {l : List Msg} {s : State} (hon : fieldSt s (coreId c / 4096) = .on)
    (hhead : (coreAt s (coreId c)).eject = m :: l) (hhere : answersGone s (coreId c) m.origin = false)
    (hfence : fenceOwner s m.src (mfind s.owner (coreId c)) = true) (hland : landing (coreAt s (coreId c)) m = .write) (hcls : m.cls ≠ .reduce) :
    let a := coreAddr (coreId c) (m.addr % 0x40000)
    ∃ t, exec (.fabricArrival c) s = .next t ∧ (l ≠ [] → (coreAt t (coreId c)).eject = l) ∧ readMem t a m.payload.length = m.payload ∧
      (∀ b, b < a ∨ a + m.payload.length ≤ b → mget 0 t.mem b = mget 0 s.mem b) ∧
      (m.tag = true → allFull (coreAt t (coreId c)) (arrivalRng m) = true) ∧
      (setsTags m = false → (coreAt t (coreId c)).full = (coreAt s (coreId c)).full) := by
  obtain ⟨hmem, heject, hfull⟩ := arrivalWrite_parts (unitPort_coreId c) m s
  obtain ⟨hdmem, hdfull⟩ := startDelivery_parts (coreId c) (ejected (coreId c) (arrivalWrite (coreId c) m s))
  have hleft : (coreAt (ejected (coreId c) (arrivalWrite (coreId c) m s)) (coreId c)).eject = l := by
    rw [ejected, coreAt_updCore_same, heject, hhead]
    rfl
  have hall : (coreAt (ejected (coreId c) (arrivalWrite (coreId c) m s)) (coreId c)).full = (coreAt (arrivalWrite (coreId c) m s) (coreId c)).full := by
    rw [ejected, coreAt_updCore_same]
  have hbytes : (startDelivery (coreId c) (ejected (coreId c) (arrivalWrite (coreId c) m s))).mem =
      (writeMem (coreAddr (coreId c) (m.addr % 0x40000)) m.payload s).mem := hdmem.trans hmem
  refine ⟨_, exec_fabricArrival hon hhead hhere hfence hland hcls, fun hl => ?_, ?_, fun b hb => ?_, fun htag => ?_, fun htags => ?_⟩
  · rw [startDelivery_busy (by rwa [hleft]), hleft]
  · rw [readMem_congr hbytes, readMem_writeMem]
  · rw [hbytes]
    exact mget_writeBytes_outside _ _ _ _ hb
  · have hset : setsTags m = true := by rw [setsTags, htag]; rfl
    rw [if_pos hset] at hfull
    rw [allFull_congr (hdfull.trans (hall.trans hfull))]
    exact allFull_setFull ..
  · rw [hdfull, hall, hfull, htags]
    rfl

/-! ### Fills (R90) -/

/-- A core holds a line clean with bytes l at a place, and its miss table does not name it. -/
structure LineHeld (line : Nat) (l : List Byte) (place : Nat × Nat) (x : Core) : Prop where
  present : ∃ e, mfind x.cache line = some e ∧ e.dirty = false ∧ e.data = l ∧ (e.bank, e.row) = place
  free : ∀ q ∈ x.misses, q.line ≠ line

section
variable {line : Nat} {l : List Byte} {place : Nat × Nat}

theorem LineHeld.congr {x y : Core} (h : LineHeld line l place x) (hcache : y.cache = x.cache) (hmisses : y.misses = x.misses) : LineHeld line l place y :=
  ⟨by rw [hcache]; exact h.present, by rw [hmisses]; exact h.free⟩

theorem LineHeld.touch {x : Core} (h : LineHeld line l place x) (lines : List Nat) : LineHeld line l place (touchLines lines x) := by
  induction lines generalizing x with
  | nil => exact h
  | cons a lines ih =>
    refine ih (x := match mfind x.cache a with
      | some e => { x with cache := mput x.cache a { e with used := x.useStamp + 1 }, useStamp := x.useStamp + 1 }
      | none => x) ?_
    split
    · rename_i e he
      obtain ⟨e', he', hdirty, hdata, hplace⟩ := h.present
      refine ⟨?_, h.free⟩
      by_cases ha : a = line
      · subst ha
        obtain rfl : e = e' := Option.some.inj (he.symm.trans he')
        exact ⟨{ e with used := x.useStamp + 1 }, by rw [mfind_mput, if_pos rfl], hdirty, hdata, hplace⟩
      · exact ⟨e', by rw [mfind_mput, if_neg ha, he'], hdirty, hdata, hplace⟩
    · exact h

theorem LineHeld.sent {c : Nat} {s q : State} (h : LineHeld line l place (coreAt s c)) (g : Sent c s q) : LineHeld line l place (coreAt q c) :=
  h.congr (congrArg Core.cache g.core :) (congrArg Core.misses g.core :)

theorem LineHeld.request {c : Nat} (hport : unitPort c = 0) {s : State} (h : LineHeld line l place (coreAt s c)) {a : Nat} (ha : a ≠ line) :
    LineHeld line l place (coreAt (requestLine c a s) c) := by
  refine LineHeld.sent (s := updCore c (fun x => { x with misses := x.misses ++ [⟨a, none⟩] }) s) ?_
    (sent_injectEngine ((congrArg unitPort (src_towardAddr ..)).trans hport) _)
  rw [coreAt_updCore_same]
  refine ⟨h.present, fun q hq => ?_⟩
  rcases List.mem_append.1 hq with hq | hq
  · exact h.free q hq
  · rwa [List.mem_singleton.1 hq]

theorem LineHeld.requestAhead {c : Nat} (hport : unitPort c = 0) {s : State} (h : LineHeld line l place (coreAt s c)) (a n : Nat) :
    LineHeld line l place (coreAt (requestAhead c a n s) c) := by
  unfold Machine.requestAhead
  generalize (linesOf a n).take 8 = lines
  induction lines generalizing s with
  | nil => exact h
  | cons b lines ih =>
    refine ih (s := if (mfind (coreAt s c).cache b).isSome || (coreAt s c).misses.any (·.line == b) || decide (8 ≤ (coreAt s c).misses.length) then s
      else requestLine c b s) ?_
    split
    · exact h
    · rename_i habsent
      refine h.request hport fun hb => habsent ?_
      obtain ⟨e, he, -⟩ := h.present
      rw [hb, he]
      rfl

theorem LineHeld.streamAhead {c : Nat} (hport : unitPort c = 0) {s : State} (h : LineHeld line l place (coreAt s c)) :
    LineHeld line l place (coreAt (streamAhead c s) c) := by
  unfold Machine.streamAhead
  dsimp only
  split
  · split
    · refine LineHeld.requestAhead hport ?_ _ _
      rw [coreAt_updCore_same]
      refine LineHeld.touch ?_ _
      exact h.congr rfl rfl
    · exact h
  · exact h

end

/-- A core whose line has arrived and is put in a free way (R90). -/
def filled (line : Nat) (l : List Byte) (x : Core) : Core := missEnds line
  { x with cache := mput x.cache line ⟨false, x.useStamp + 1, l, (linePlace x line).1, (linePlace x line).2⟩, useStamp := x.useStamp + 1 }

theorem lineHeld_filled (line : Nat) (l : List Byte) (x : Core) : LineHeld line l (linePlace x line) (filled line l x) := by
  refine ⟨⟨⟨false, x.useStamp + 1, l, (linePlace x line).1, (linePlace x line).2⟩, ?_, rfl, rfl, rfl⟩, fun q hq => ?_⟩
  · exact (mfind_mput ..).trans (if_pos rfl)
  · exact bne_iff_ne.1 (List.mem_filter.1 hq).2

theorem installLine_free {c line : Nat} {k : Nat} {l : List Byte} {s : State} (hruns : coreRuns s c = true)
    (hmiss : (coreAt s c).misses.find? (fun q => q.line == line) = some ⟨k, some l⟩) (hbanks : cacheBanks (coreAt s c) ≠ 0)
    (hfree : victim (coreAt s c) line = none) : installLine c line s = setCore c (filled line l (coreAt s c)) s := by
  simp only [installLine, hruns, hmiss, if_neg hbanks, hfree]
  rfl

theorem exec_cacheMissFill {c : CoreRef} {line k : Nat} {l : List Byte} {s : State} (hruns : coreRuns s (coreId c) = true)
    (hmiss : (coreAt s (coreId c)).misses.find? (fun q => q.line == line) = some ⟨k, some l⟩) (hbanks : cacheBanks (coreAt s (coreId c)) ≠ 0)
    (hfree : victim (coreAt s (coreId c)) line = none) :
    ∃ t e, exec (.cacheMissFill c line) s = .next t ∧ mfind (coreAt t (coreId c)).cache line = some e ∧ e.dirty = false ∧ e.data = l ∧
      (e.bank, e.row) = linePlace (coreAt s (coreId c)) line ∧ (∀ q ∈ (coreAt t (coreId c)).misses, q.line ≠ line) ∧
      (unitIn (coreAt s (coreId c)) .mv .running = none →
        (coreAt t (coreId c)).misses = (coreAt s (coreId c)).misses.filter (fun q => q.line != line)) := by
  have hexec : exec (.cacheMissFill c line) s = .next (streamAhead (coreId c) (setCore (coreId c) (filled line l (coreAt s (coreId c))) s)) := by
    rw [← installLine_free hruns hmiss hbanks hfree]
    rfl
  have hheld : LineHeld line l (linePlace (coreAt s (coreId c)) line)
      (coreAt (streamAhead (coreId c) (setCore (coreId c) (filled line l (coreAt s (coreId c))) s)) (coreId c)) :=
    LineHeld.streamAhead (unitPort_coreId c) (by rw [coreAt_setCore_same]; exact lineHeld_filled ..)
  obtain ⟨e, he, hdirty, hdata, hplace⟩ := hheld.present
  refine ⟨_, e, hexec, he, hdirty, hdata, hplace, hheld.free, fun hidle => ?_⟩
  have hstream : streamAhead (coreId c) (setCore (coreId c) (filled line l (coreAt s (coreId c))) s) = setCore (coreId c) (filled line l (coreAt s (coreId c))) s := by
    have hunit : unitIn (filled line l (coreAt s (coreId c))) .mv .running = none := hidle
    rw [streamAhead, coreAt_setCore_same, hunit]
  rw [hstream, coreAt_setCore_same]
  rfl

/-! ### Write-backs (R90, R215) -/

section
variable {c : Nat} {chk : StoreCheck} {v : Nat × CacheLine} {s : State} (hruns : coreRuns s c = true) (hdue : writebackDue (coreAt s c) = some v)
include hruns hdue

theorem writeback_sends (hlost : lostHits chk = []) : writeback c chk s =
    injectEngine c (lineMsg c v.1 (.wback c v.1) v.2.data) (updCore c (dropLine v.1) s) := by
  simp only [writeback, hruns, hdue, hlost]

theorem writeback_loses {h : StoreHit} {l : StoreCheck} (hlost : lostHits chk = h :: l) : writeback c chk s = loseLine c v.1 h s := by
  simp only [writeback, hruns, hdue, hlost]

end

theorem dropLine_absent (line : Nat) (x : Core) : mfind (dropLine line x).cache line = none := (mfind_mdel ..).trans (if_pos rfl)

theorem cache_recordDma (c : Nat) (e : Code) (ext : Bool) (h off : Nat) (s : State) : (coreAt (recordDma c e ext h off s) c).cache = (coreAt s c).cache := by
  unfold recordDma
  dsimp only
  split
  · rfl
  · rw [coreAt_setCore_same]

theorem loseLine_absent (c line : Nat) (h : StoreHit) (s : State) : mfind (coreAt (loseLine c line h s) c).cache line = none := by
  rw [loseLine, coreAt_of_sansRecords (sansRecords_report ..), cache_recordDma, coreAt_updCore_same]
  exact dropLine_absent ..

theorem exec_cacheWriteback {c : CoreRef} {chk : StoreCheck} {v : Nat × CacheLine} {s : State} (hruns : coreRuns s (coreId c) = true)
    (hdue : writebackDue (coreAt s (coreId c)) = some v) :
    let m := lineMsg (coreId c) v.1 (.wback (coreId c) v.1) v.2.data
    (lostHits chk = [] → exec (.cacheWriteback c chk) s = .next (injectEngine (coreId c) m (updCore (coreId c) (dropLine v.1) s))) ∧
      (∀ h l, lostHits chk = h :: l → exec (.cacheWriteback c chk) s = .next (loseLine (coreId c) v.1 h s) ∧
        mfind (coreAt (loseLine (coreId c) v.1 h s) (coreId c)).cache v.1 = none) ∧
      mfind (coreAt (updCore (coreId c) (dropLine v.1) s) (coreId c)).cache v.1 = none ∧
      m.cls = .data ∧ m.addr = 0x100000000000 + 256 * v.1 ∧ m.payload = v.2.data := by
  have hmsg := sansRoute_towardAddr (stackBase + 256 * v.1)
    { msgNull with cls := .data, src := coreId c, payload := v.2.data, origin := .wback (coreId c) v.1 }
  refine ⟨fun hlost => congrArg Host.Outcome.next (writeback_sends hruns hdue hlost),
    fun h l hlost => ⟨congrArg Host.Outcome.next (writeback_loses hruns hdue hlost), loseLine_absent ..⟩, ?_, (congrArg Msg.cls hmsg :),
    addr_towardAddr .., (congrArg Msg.payload hmsg :)⟩
  rw [coreAt_updCore_same]
  exact dropLine_absent ..

/-! ### Bank clearing and the sparge (R69, R217) -/

theorem exec_bankClearDone (c : CoreRef) (b : Fin 12) (s : State) :
    ∃ t, exec (.bankClearDone c b) s = .next t ∧ (coreAt t (coreId c)).clearing = (coreAt s (coreId c)).clearing.filter (fun k => k ≠ b.val) ∧
      ∀ j th, mfind (coreAt s (coreId c)).threads j = some th → th.st = .blocked → th.wait = .bankClear b.val →
        mfind (coreAt t (coreId c)).threads j = some { th with met := true } := by
  refine ⟨bankClearDone (coreId c) b.val s, rfl, ?_, fun j th hth hst hwait => ?_⟩
  · rw [bankClearDone, coreAt_updCore_same]
    rfl
  · rw [bankClearDone, coreAt_updCore_same]
    refine (mfind_map (metBy fun w => w == .bankClear b.val) _ j).trans ?_
    have hmet : (th.st == .blocked && th.wait == .bankClear b.val) = true := by rw [hst, hwait]; exact beq_self_eq_true _
    rw [hth, Option.map_some, metBy, if_pos hmet]

theorem exec_spargeVisit_clean {c : CoreRef} {s : State} (hon : fieldSt s (coreId c / 4096) = .on) :
    ∃ t, exec (.spargeVisit c .clean .clean) s = .next t ∧ (coreAt t (coreId c)).sparge = ((coreAt s (coreId c)).sparge + 1) % 6144 ∧
      (coreAt t (coreId c)).storeStat = (coreAt s (coreId c)).storeStat ∧ t.mem = s.mem := by
  have hon' : fieldSt s (fieldOfCore (coreId c)) = .on := hon
  have hexec : exec (.spargeVisit c .clean .clean) s =
      .next (updCore (coreId c) (fun x => { x with sparge := ((coreAt s (coreId c)).sparge + 1) % 6144 }) s) := by
    change Host.Outcome.next (spargeVisit (coreId c) .clean .clean s) = _
    simp only [spargeVisit, hon', spargeFinds, ite_self]
    rfl
  exact ⟨_, hexec, by rw [coreAt_updCore_same], by rw [coreAt_updCore_same], rfl⟩

theorem exec_spargeVisit_failed {c : CoreRef} {s : State} (hon : fieldSt s (coreId c / 4096) = .on)
    (hmode : bankMode (coreAt s (coreId c)) ((coreAt s (coreId c)).sparge / 512) = 0) :
    ∃ t, exec (.spargeVisit c .failed .clean) s = .next t ∧ (coreAt t (coreId c)).sparge = ((coreAt s (coreId c)).sparge + 1) % 6144 ∧
      (coreAt t (coreId c)).storeLast = BitVec.ofNat 64 (2 ^ 63 + 2 ^ 59 * 5 + (coreAt s (coreId c)).sparge) ∧ t.mem = s.mem := by
  have hon' : fieldSt s (fieldOfCore (coreId c)) = .on := hon
  have hmode' : bankMode (coreAt s (coreId c)) (bankOf (coreAt s (coreId c)).sparge) = 0 := hmode
  have hexec : exec (.spargeVisit c .failed .clean) s = .next (updCore (coreId c) (fun x => { x with sparge := ((coreAt s (coreId c)).sparge + 1) % 6144 })
      (report E.storeUncorrectable 0 (coreId c)
        (updCore (coreId c) (fun x => storeLast 5 (coreAt s (coreId c)).sparge (statUp 16 x)) s))) := by
    change Host.Outcome.next (spargeVisit (coreId c) .failed .clean s) = _
    simp only [spargeVisit, hon', hmode', spargeFinds, if_pos]
    rfl
  refine ⟨_, hexec, by rw [coreAt_updCore_same], ?_, rfl⟩
  rw [coreAt_updCore_same, coreAt_of_sansRecords (sansRecords_report ..), coreAt_updCore_same]
  rfl

/-- Settles O17: each event of a core does what is stated of it above. -/
theorem coreEventsAct : Obligations.CoreEventsAct := by
  unfold Obligations.CoreEventsAct
  intro c chk s n x
  exact ⟨fun _ => exec_threadWake,
    fun _ hruns hgo hd hroom hr => ⟨exec_descStart_get hruns hgo hd hroom hr, exec_descStart_put hruns hgo hd hroom hr⟩,
    fun _ _ => exec_descEnd, fun _ _ _ _ => exec_failureNotice_desc, fun _ _ _ _ _ => exec_failureNotice_rdm, fun _ _ => exec_fabricArrival_writes,
    fun _ _ _ => exec_cacheMissFill, fun _ => exec_cacheWriteback, exec_bankClearDone c (s := s), exec_spargeVisit_clean, exec_spargeVisit_failed⟩

end Sys2Proof.Machine
end

section
/-! The core access window (R75, R80, R98, R100 to R105, R406). -/

namespace Sys2Proof.Machine

open Sys2Proof

/-! ### Access to the window (R50, R100) -/

theorem onPage_acts {m : Master} {p off : Nat} {act : State → State} {s : State} (hreach : reaches m s = true) (hdark : pageDark s p = false) :
    onPage m p off act s = act s := by
  rw [onPage, viaBar_of_reaches hreach, hdark]
  rfl

theorem cawRefused_none {s : State} {f : Nat} (hsel : coreIdCheck s (cawCore s f) = none) (hspace : liveF s (pCaw f) 0x804 15 14 ≠ 3) : cawRefused s f = none := by
  rw [cawRefused, hsel]
  exact if_neg hspace

@[simp] theorem live_cawStatus (f : Nat) (e : Code) (s : State) : live (cawStatus f e s) (pCaw f) 0x814 = BitVec.ofNat 32 e.toNat := live_setLive_same ..

@[simp] theorem coreAt_cawStatus (f : Nat) (e : Code) (s : State) (d : Nat) : coreAt (cawStatus f e s) d = coreAt s d := rfl

theorem cawData_eq (s : State) (f : Nat) : cawData s f = BitVec.ofNat 64 (2 ^ 32 * (live s (pCaw f) 0x80C).toNat + (live s (pCaw f) 0x808).toNat) := by
  have hhi := (live s (pCaw f) 0x80C).isLt
  have hlo := (live s (pCaw f) 0x808).isLt
  refine BitVec.eq_of_toNat_eq ?_
  rw [cawData, BitVec.toNat_or, BitVec.toNat_shiftLeft, BitVec.toNat_ofNat, BitVec.toNat_ofNat, BitVec.toNat_ofNat,
    Nat.mod_eq_of_lt (b := 2 ^ 64) (a := (live s (pCaw f) 0x80C).toNat) (by omega), Nat.mod_eq_of_lt (b := 2 ^ 64) (a := (live s (pCaw f) 0x808).toNat) (by omega),
    Nat.mod_eq_of_lt (by rw [Nat.shiftLeft_eq]; omega), ← Nat.shiftLeft_add_eq_or_of_lt hlo, Nat.shiftLeft_eq, Nat.mod_eq_of_lt (by omega), Nat.mul_comm]

/-! ### READ (R100 to R103, R406) -/

/-- What READ of a value leaves in the window. -/
theorem live_cawResult (f : Nat) (w : DWord) (s : State) : (live (cawResult f w s) (pCaw f) 0x808).toNat = w.toNat % 2 ^ 32 ∧
    (live (cawResult f w s) (pCaw f) 0x80C).toNat = w.toNat / 2 ^ 32 ∧ live (cawResult f w s) (pCaw f) 0x814 = 0 := by
  have hw := w.isLt
  refine ⟨?_, ?_, live_cawStatus ..⟩
  · rw [cawResult, cawStatus, live_setLive _ _ (by decide) (by decide), if_neg (by omega), live_setLive _ _ (by decide) (by decide), if_neg (by omega),
      live_setLive_same, BitVec.toNat_ofNat]
  · rw [cawResult, cawStatus, live_setLive _ _ (by decide) (by decide), if_neg (by omega), live_setLive_same, BitVec.toNat_ofNat]
    omega

section
variable {m : Master} {f : Fin 80} {s : State}

theorem exec_cawRead (hreach : reaches m s = true) (hdark : pageDark s (pCaw f.val) = false) {w : DWord} (h : cawRead m f.val s = cawResult f.val w s) :
    ∃ t, exec (.cawRead m f) s = .next t ∧ t.cores = s.cores ∧ t.mem = s.mem ∧ (live t (pCaw f.val) 0x808).toNat = w.toNat % 2 ^ 32 ∧
      (live t (pCaw f.val) 0x80C).toNat = w.toNat / 2 ^ 32 ∧ live t (pCaw f.val) 0x814 = 0 := by
  have hexec : exec (.cawRead m f) s = .next (cawResult f.val w s) := by
    rw [← h]
    exact congrArg Host.Outcome.next (onPage_acts hreach hdark)
  exact ⟨_, hexec, rfl, rfl, live_cawResult ..⟩

theorem cawRead_live {w : DWord} (hsel : coreIdCheck s (cawCore s f.val) = none) (hspace : liveF s (pCaw f.val) 0x804 15 14 = 0)
    (hreg : coreReg (coreAt s (cawCore s f.val)) (liveF s (pCaw f.val) 0x804 13 0) = some w) : cawRead m f.val s = cawResult f.val w s := by
  simp only [cawRead, cawRefused_none hsel (by omega), hspace, hreg]

theorem cawRead_shadow (hsel : coreIdCheck s (cawCore s f.val) = none) (hspace : liveF s (pCaw f.val) 0x804 15 14 = 1)
    (hi : liveF s (pCaw f.val) 0x804 13 0 < 0x60 ∨ liveF s (pCaw f.val) 0x804 13 0 = 0x80) :
    cawRead m f.val s = cawResult f.val (shadowReg (coreAt s (cawCore s f.val)) (liveF s (pCaw f.val) 0x804 13 0)) s := by
  simp only [cawRead, cawRefused_none hsel (by omega), hspace, if_pos hi]

/-- Which indices of a context are assigned does not depend on the thread (R102). -/
theorem ctxRead_isNone (a b : Thread) (r : Nat) : (ctxRead a r).isNone = (ctxRead b r).isNone := by
  unfold ctxRead
  (repeat' split) <;> rfl

theorem ctxCheck_none {x : Core} {i : Nat} (hi : i < 0x2000) (hassigned : (ctxRead .reset (i % 512)).isNone = false)
    (hidle : (threadAt x (i / 512 % 16)).st = .stopped ∨ (threadAt x (i / 512 % 16)).st = .faulted) : ctxCheck x i = none := by
  rw [ctxCheck, if_neg (by simp [hassigned, hi])]
  rcases hidle with h | h <;> rw [h] <;> decide

theorem cawRead_ctx {w : DWord} (hsel : coreIdCheck s (cawCore s f.val) = none) (hspace : liveF s (pCaw f.val) 0x804 15 14 = 2)
    (hi : liveF s (pCaw f.val) 0x804 13 0 < 0x2000) (hsealed : sealedCore s m (cawCore s f.val) = false)
    (hidle : (threadAt (coreAt s (cawCore s f.val)) (liveF s (pCaw f.val) 0x804 13 0 / 512 % 16)).st = .stopped ∨
      (threadAt (coreAt s (cawCore s f.val)) (liveF s (pCaw f.val) 0x804 13 0 / 512 % 16)).st = .faulted)
    (hw : ctxRead (threadAt (coreAt s (cawCore s f.val)) (liveF s (pCaw f.val) 0x804 13 0 / 512 % 16)) (liveF s (pCaw f.val) 0x804 13 0 % 512) = some w) :
    cawRead m f.val s = cawResult f.val w s := by
  have hassigned : (ctxRead .reset (liveF s (pCaw f.val) 0x804 13 0 % 512)).isNone = false := by rw [ctxRead_isNone _ _, hw]; rfl
  simp only [cawRead, cawRefused_none hsel (by omega), hspace, hassigned, hsealed, ctxCheck_none hi hassigned hidle, hw]
  exact (if_neg (by simp [hi])).trans (if_neg Bool.false_ne_true)

/-! ### WRITE (R86, R98, R101, R103) -/

theorem cawWrite_shadow (hsel : coreIdCheck s (cawCore s f.val) = none) (hspace : liveF s (pCaw f.val) 0x804 15 14 = 1)
    (hi : liveF s (pCaw f.val) 0x804 13 0 < 0x60 ∨ liveF s (pCaw f.val) 0x804 13 0 = 0x80) (hsealed : sealedCore s m (cawCore s f.val) = false)
    (hfree : pageLocked s (pCaw f.val) = false) :
    cawWrite m f.val s = cawStatus f.val 0 (updCore (cawCore s f.val) (setShadowReg (liveF s (pCaw f.val) 0x804 13 0) (cawData s f.val)) s) := by
  simp only [cawWrite, cawRefused_none hsel (by omega), hspace, cawShadow, hsealed, hfree]
  rw [if_neg (by omega), if_neg (by omega)]
  rfl

theorem shadowReg_setShadowReg_same (i : Nat) (v : DWord) (x : Core) :
    shadowReg (setShadowReg i v x) i = if i < 0x80 ∧ i % 2 = 0 then withBits v 62 62 0 else v := by
  unfold setShadowReg
  dsimp only
  generalize (if i < 0x80 ∧ i % 2 = 0 then withBits v 62 62 0 else v) = w
  unfold shadowReg
  dsimp only
  split
  · rename_i hw
    rw [mfind_mdel, if_pos rfl, hw]
    rfl
  · rw [mfind_mput, if_pos rfl]
    rfl

theorem shadowReg_setShadowReg_ne {i j : Nat} (v : DWord) (x : Core) (h : j ≠ i) : shadowReg (setShadowReg i v x) j = shadowReg x j := by
  unfold setShadowReg
  dsimp only
  generalize (if i < 0x80 ∧ i % 2 = 0 then withBits v 62 62 0 else v) = w
  unfold shadowReg
  dsimp only
  split
  · rw [mfind_mdel, if_neg h.symm]
    rfl
  · rw [mfind_mput, if_neg h.symm]
    rfl

theorem exec_cawWrite_shadow (hreach : reaches m s = true) (hdark : pageDark s (pCaw f.val) = false) (hsel : coreIdCheck s (cawCore s f.val) = none)
    (hspace : liveF s (pCaw f.val) 0x804 15 14 = 1) (hi : liveF s (pCaw f.val) 0x804 13 0 < 0x60 ∨ liveF s (pCaw f.val) 0x804 13 0 = 0x80)
    (hsealed : sealedCore s m (cawCore s f.val) = false) (hfree : pageLocked s (pCaw f.val) = false) :
    exec (.cawWrite m f) s = .next (cawStatus f.val 0 (updCore (cawCore s f.val) (setShadowReg (liveF s (pCaw f.val) 0x804 13 0) (cawData s f.val)) s)) := by
  rw [← cawWrite_shadow (m := m) hsel hspace hi hsealed hfree]
  exact congrArg Host.Outcome.next (onPage_acts hreach hdark)

theorem cawWrite_scalar (hsel : coreIdCheck s (cawCore s f.val) = none) (hspace : liveF s (pCaw f.val) 0x804 15 14 = 2)
    (hi : liveF s (pCaw f.val) 0x804 13 0 < 0x2000) (hsealed : sealedCore s m (cawCore s f.val) = false)
    (hidle : (threadAt (coreAt s (cawCore s f.val)) (liveF s (pCaw f.val) 0x804 13 0 / 512 % 16)).st = .stopped ∨
      (threadAt (coreAt s (cawCore s f.val)) (liveF s (pCaw f.val) 0x804 13 0 / 512 % 16)).st = .faulted)
    (hreg : liveF s (pCaw f.val) 0x804 13 0 % 512 < 0x20) :
    cawWrite m f.val s = cawStatus f.val 0 (setCore (cawCore s f.val) (setThread (liveF s (pCaw f.val) 0x804 13 0 / 512 % 16)
      (setS (liveF s (pCaw f.val) 0x804 13 0 % 512) (cawData s f.val) (threadAt (coreAt s (cawCore s f.val)) (liveF s (pCaw f.val) 0x804 13 0 / 512 % 16)))
      (coreAt s (cawCore s f.val))) s) := by
  have hassigned : (ctxRead .reset (liveF s (pCaw f.val) 0x804 13 0 % 512)).isNone = false := by rw [ctxRead, if_pos hreg]; rfl
  simp only [cawWrite, cawRefused_none hsel (by omega), hspace, cawCtx, hassigned, hsealed, ctxCheck_none hi hassigned hidle, ctxWrite, if_pos hreg, openCmd]
  exact (if_neg (by simp [hi])).trans ((if_neg Bool.false_ne_true).trans (if_neg (by omega)))

end

/-! ### DISCARD (R98, R100) -/

theorem mem_of_mfind {α : Type} {k : Nat} {v : α} {m : Map α} (h : mfind m k = some v) : (k, v) ∈ m := by
  induction m with
  | nil => cases h
  | cons e m ih =>
    obtain ⟨a, w⟩ := e
    rw [mfind] at h
    split at h
    · rename_i hk
      rw [← hk, Option.some.inj h]
      exact List.mem_cons_self
    · exact List.mem_cons_of_mem _ (ih h)

theorem mem_dirtyCores {s : State} {f d : Nat} (hf : d / 4096 = f) (hd : (coreAt s d).dirty = true) : d ∈ dirtyCores s f := by
  have hfind : mfind s.cores d = some (coreAt s d) := by
    rw [coreAt, mget] at hd ⊢
    cases hx : mfind s.cores d with
    | some x => rfl
    | none =>
      rw [hx] at hd
      cases hd
  refine List.mem_map.2 ⟨(d, coreAt s d), List.mem_filter.2 ⟨mem_of_mfind hfind, ?_⟩, rfl⟩
  rw [hd, Bool.and_true]
  exact beq_iff_eq.2 hf

/-- A reload of some cores. -/
theorem coreAt_reload (l : List Nat) (s : State) (d : Nat) :
    coreAt (l.foldl (fun s c => updCore c reloadCore s) s) d = if d ∈ l then reloadCore (coreAt s d) else coreAt s d := by
  induction l generalizing s with
  | nil => rfl
  | cons c l ih =>
    rw [List.foldl_cons, ih]
    by_cases hd : d = c
    · subst hd
      rw [coreAt_updCore_same, if_pos List.mem_cons_self]
      split <;> rfl
    · rw [coreAt_updCore_ne _ _ hd]
      simp only [List.mem_cons, hd, false_or]

/-- DISCARD leaves no core of the field dirty (R98, R100). -/
theorem coreAt_reloadCores {s : State} {f d : Nat} (hf : d / 4096 = f) : (coreAt (reloadCores f s) d).dirty = false ∧
    ((coreAt s d).dirty = true → (coreAt (reloadCores f s) d).shadowRegs = []) ∧ (coreAt (reloadCores f s) d).handles = (coreAt s d).handles := by
  rw [reloadCores, coreAt_reload]
  split
  · exact ⟨rfl, fun _ => rfl, rfl⟩
  · rename_i hclean
    have hdirty : (coreAt s d).dirty = false := Bool.eq_false_iff.2 fun h => hclean (mem_dirtyCores hf h)
    exact ⟨hdirty, fun h => absurd h (Bool.eq_false_iff.1 hdirty), rfl⟩

theorem exec_cawDiscard {m : Master} {f : Fin 80} {s : State} (hreach : reaches m s = true) (hdark : pageDark s (pCaw f.val) = false)
    (hfree : pageLocked s (pCaw f.val) = false) : exec (.cawDiscard m f) s = .next (cawStatus f.val 0 (reloadCores f.val s)) := by
  refine congrArg Host.Outcome.next ((onPage_acts hreach hdark).trans ?_)
  rw [cawDiscard, hfree]
  rfl

/-! ### Commands on a core (R75, R104) -/

theorem coreIdCheck_coreId {r : CoreRef} {s : State} (h : coreEnabled s (coreId r) = true) : coreIdCheck s (coreId r) = none := by
  have hf := r.field.isLt
  have hy := r.cy.isLt
  have hx := r.cx.isLt
  have hvalid : coreIdValid (coreId r) = true := by
    rw [coreIdValid, Bool.and_eq_true, decide_eq_true_iff, decide_eq_true_iff, coreId]
    omega
  rw [coreIdCheck, hvalid, h]
  rfl

theorem fieldOfCore_coreId (r : CoreRef) : fieldOfCore (coreId r) = r.field.val := by
  have hy := r.cy.isLt
  have hx := r.cx.isLt
  rw [fieldOfCore, coreId]
  omega

theorem viaWindow_acts {m : Master} {r : CoreRef} {act : State → State} {s : State} (hreach : reaches m s = true)
    (hdark : pageDark s (pCaw r.field.val) = false) (hon : coreEnabled s (coreId r) = true) : viaWindow m (coreId r) act s = act s := by
  rw [viaWindow, fieldOfCore_coreId]
  rw [onPage_acts hreach hdark, coreIdCheck_coreId hon]

/-- Thread states that START and STOP act on, and what they leave. -/
def startOf (pc : BitVec 18) (th : Thread) : Thread :=
  match th.st with
  | .stopped | .faulted => { th with st := .ready, wait := .none, met := false, pc := pc, beyond := false }
  | _ => th

def stopOf (th : Thread) : Thread :=
  match th.st with
  | .ready | .blocked => { th with st := .stopped, wait := .none, met := false }
  | _ => th

theorem startOf_startOf (pc : BitVec 18) (th : Thread) : startOf pc (startOf pc th) = startOf pc th := by
  unfold startOf
  cases h : th.st <;> simp only [h]

theorem stopOf_stopOf (th : Thread) : stopOf (stopOf th) = stopOf th := by
  unfold stopOf
  cases h : th.st <;> simp only [h]

theorem threadAt_startThread (t j : Nat) (x : Core) : threadAt (startThread t x) j =
    if j = t then startOf ((mget 0 x.startPc j).setWidth 18) (threadAt x j) else threadAt x j := by
  by_cases hj : j = t
  · subst hj
    cases hst : (threadAt x j).st <;> simp only [startThread, startOf, hst, threadAt_setThread_same, if_true]
  · rw [if_neg hj, startThread]
    split
    · exact threadAt_setThread_ne _ { x with classified := without t x.classified } (Ne.symm hj)
    · exact threadAt_setThread_ne _ { x with classified := without t x.classified } (Ne.symm hj)
    · rfl

theorem startPc_startThread (t : Nat) (x : Core) : (startThread t x).startPc = x.startPc := by
  unfold startThread
  dsimp only
  split <;> rfl

theorem threadAt_stopThread (t j : Nat) (x : Core) : threadAt (stopThread t x) j = if j = t then stopOf (threadAt x j) else threadAt x j := by
  by_cases hj : j = t
  · subst hj
    cases hst : (threadAt x j).st <;> simp only [stopThread, stopOf, hst, threadAt_setThread_same, if_true]
  · rw [if_neg hj, stopThread]
    split
    · exact threadAt_setThread_ne _ _ (Ne.symm hj)
    · exact threadAt_setThread_ne _ _ (Ne.symm hj)
    · rfl

theorem threadAt_startAll (l : List Nat) (j : Nat) (x : Core) : threadAt (l.foldl (fun x t => startThread t x) x) j =
    if j ∈ l then startOf ((mget 0 x.startPc j).setWidth 18) (threadAt x j) else threadAt x j := by
  induction l generalizing x with
  | nil => rfl
  | cons t l ih =>
    rw [List.foldl_cons, ih, startPc_startThread, threadAt_startThread]
    by_cases hj : j = t
    · simp [hj, startOf_startOf]
    · simp [hj]

theorem threadAt_stopAll (l : List Nat) (j : Nat) (x : Core) : threadAt (l.foldl (fun x t => stopThread t x) x) j =
    if j ∈ l then stopOf (threadAt x j) else threadAt x j := by
  induction l generalizing x with
  | nil => rfl
  | cons t l ih =>
    rw [List.foldl_cons, ih, threadAt_stopThread]
    by_cases hj : j = t
    · simp [hj, stopOf_stopOf]
    · simp [hj]

theorem mem_maskThreads {j : Fin 16} {mask : BitVec 16} : j.val ∈ maskThreads mask.toNat ↔ mask.getLsbD j.val = true := by
  rw [maskThreads, List.mem_filter, List.mem_range, BitVec.getLsbD, Nat.testBit_eq_decide_div_mod_eq]
  simp [j.isLt]

theorem maskThreads_zero : maskThreads 0 = [] := by decide

theorem threadCmd_start (mask : Nat) (x : Core) : (threadCmd mask 0 x).1 = (maskThreads mask).foldl (fun x t => startThread t x) x := by
  simp only [threadCmd, maskThreads_zero, List.foldl_nil, List.contains_nil, Bool.not_false, List.filter_true]

theorem threadCmd_stop (mask : Nat) (x : Core) : threadCmd 0 mask x = ((maskThreads mask).foldl (fun x t => stopThread t x) x, 0) := by
  simp only [threadCmd, maskThreads_zero, List.filter_nil, List.foldl_nil, List.any_nil]
  rfl

section
variable {m : Master} {r : CoreRef} {s : State} (hreach : reaches m s = true) (hdark : pageDark s (pCaw r.field.val) = false)
  (hon : coreEnabled s (coreId r) = true)
include hreach hdark hon

theorem exec_threadStart (mask : BitVec 16) (j : Fin 16) :
    let y := coreAt s (coreId r)
    let u := threadAt y j.val
    ∃ t, exec (.threadStart m r mask) s = .next t ∧
      (mask.getLsbD j.val = true → u.st = .stopped ∨ u.st = .faulted → threadAt (coreAt t (coreId r)) j.val =
        { u with st := .ready, wait := .none, met := false, pc := BitVec.ofNat 18 (mget 0 y.startPc j.val).toNat, beyond := false }) ∧
      (mask.getLsbD j.val = false ∨ u.st = .ready ∨ u.st = .blocked → threadAt (coreAt t (coreId r)) j.val = u) := by
  intro y u
  have hthread : threadAt (coreAt (openCmd r.field.val (coreId r) (threadCmd mask.toNat 0) s) (coreId r)) j.val =
      if mask.getLsbD j.val = true then startOf ((mget 0 y.startPc j.val).setWidth 18) u else u := by
    rw [openCmd, coreAt_cawStatus, coreAt_setCore_same, threadCmd_start, threadAt_startAll]
    exact if_congr mem_maskThreads rfl rfl
  refine ⟨_, congrArg Host.Outcome.next (viaWindow_acts hreach hdark hon), fun hbit hst => ?_, fun hkeep => ?_⟩
  · rw [hthread, if_pos hbit, startOf]
    rcases hst with h | h <;> simp only [h] <;> rfl
  · rw [hthread]
    rcases hkeep with h | h | h
    · rw [h]
      rfl
    · simp only [startOf, h, ite_self]
    · simp only [startOf, h, ite_self]

theorem exec_threadStop (mask : BitVec 16) (j : Fin 16) :
    let u := threadAt (coreAt s (coreId r)) j.val
    ∃ t, exec (.threadStop m r mask) s = .next t ∧ live t (pCaw r.field.val) 0x814 = 0 ∧
      (mask.getLsbD j.val = true → u.st = .ready ∨ u.st = .blocked → threadAt (coreAt t (coreId r)) j.val =
        { u with st := .stopped, wait := .none, met := false }) ∧
      (mask.getLsbD j.val = false ∨ u.st = .stopped ∨ u.st = .faulted → threadAt (coreAt t (coreId r)) j.val = u) := by
  intro u
  have hthread : threadAt (coreAt (openCmd r.field.val (coreId r) (threadCmd 0 mask.toNat) s) (coreId r)) j.val =
      if mask.getLsbD j.val = true then stopOf u else u := by
    rw [openCmd, coreAt_cawStatus, coreAt_setCore_same, threadCmd_stop, threadAt_stopAll]
    exact if_congr mem_maskThreads rfl rfl
  refine ⟨_, congrArg Host.Outcome.next (viaWindow_acts hreach hdark hon), ?_, fun hbit hst => ?_, fun hkeep => ?_⟩
  · rw [openCmd, live_cawStatus, threadCmd_stop]
    rfl
  · rw [hthread, if_pos hbit, stopOf]
    rcases hst with h | h <;> simp only [h]
  · rw [hthread]
    rcases hkeep with h | h | h
    · rw [h]
      rfl
    · simp only [stopOf, h, ite_self]
    · simp only [stopOf, h, ite_self]

theorem exec_coreReset : exec (.coreReset m r) s = .next (cawStatus r.field.val 0 (setCore (coreId r) (resetCore (coreAt s (coreId r))) s)) :=
  congrArg Host.Outcome.next (viaWindow_acts hreach hdark hon)

theorem exec_tagInit {h : Fin 64} {b : Bool} (hsealed : sealedCore s m (coreId r) = false) :
    exec (.tagInit m r h b) s = .next (cawStatus r.field.val (tagInit h.val b (coreAt s (coreId r))).2
      (setCore (coreId r) (tagInit h.val b (coreAt s (coreId r))).1 s)) := by
  refine congrArg Host.Outcome.next ((viaWindow_acts hreach hdark hon).trans ?_)
  rw [sealedCmd, hsealed]
  rfl

end

theorem mfind_filter_keys {α : Type} {q : Nat → Bool} {m : Map α} {k : Nat} (h : q k = false) : mfind (m.filter fun e => q e.1) k = none := by
  induction m with
  | nil => rfl
  | cons e m ih =>
    rw [List.filter_cons]
    split
    · rename_i he
      rw [mfind, if_neg fun hk => by rw [hk, h] at he; cases he]
      exact ih
    · exact ih

/-- RESET leaves no dynamic handle valid (R104). -/
theorem resetCore_dynamic {x : Core} {h : Nat} (hdyn : 48 ≤ h) : (hview (resetCore x) h).valid = false := by
  have hgone : handleReg (resetCore x) (2 * h) = 0x4000000000000000 := by
    have hfind : mfind (x.handles.filter (·.1 < 96)) (2 * h) = none := by
      exact mfind_filter_keys (q := fun k => decide (k < 96)) (decide_eq_false (by omega))
    rw [handleReg, mget, show (resetCore x).handles = x.handles.filter (·.1 < 96) from rfl, hfind, Option.getD_none, handleReset, if_pos (by omega)]
  rw [hview, viewOf, hgone]
  exact (by decide : bit (0x4000000000000000 : DWord) 63 = false)

/-- What TAG_INIT reports, and the tags it leaves (R75). -/
theorem tagInit_status (h : Nat) (b : Bool) (x : Core) : (tagInit h b x).2 =
    if (hview x h).valid = false then E.handleInvalid else if (hview x h).tagged = false then E.tagMode else 0 := by
  cases hvalid : (hview x h).valid <;> cases htagged : (hview x h).tagged <;> simp [tagInit, hvalid, htagged]

theorem tagInit_tags {h : Nat} (b : Bool) {x : Core} (hvalid : (hview x h).valid = true) (htagged : (hview x h).tagged = true) :
    (if b then allFull (tagInit h b x).1 (hrng (hview x h) 0 (hview x h).ext) else allEmpty (tagInit h b x).1 (hrng (hview x h) 0 (hview x h).ext)) = true := by
  have htags : (tagInit h b x).1 = if b then setFull (hrng (hview x h) 0 (hview x h).ext) x else setEmpty (hrng (hview x h) 0 (hview x h).ext) x := by
    rw [tagInit, hvalid, htagged]
    rfl
  rw [htags]
  cases b
  · exact allEmpty_setEmpty ..
  · exact allFull_setFull ..

/-- Settles O18: each command of the window ends in the state given above. -/
theorem windowCommandsReachTheCore : Obligations.WindowCommandsReachTheCore := by
  unfold Obligations.WindowCommandsReachTheCore
  intro m f s p c x i th v idle answers sel hreach hdark
  have hv : cawData s f.val = v := cawData_eq s f.val
  refine ⟨fun w hsel hspace hreg => exec_cawRead hreach hdark (cawRead_live hsel hspace hreg),
    fun hsel hspace hi => exec_cawRead hreach hdark (cawRead_shadow hsel hspace hi),
    fun w hsel hspace hi hidle hw => exec_cawRead hreach hdark (cawRead_ctx hsel hspace hi hidle.1 hidle.2 hw),
    fun hsel hspace hi hsealed hfree => ?_, fun hsel hspace hi hidle hreg => ?_, fun hfree => ?_, fun r mask j hr hon => ?_⟩
  · refine ⟨_, exec_cawWrite_shadow hreach hdark hsel hspace hi hsealed hfree, ?_⟩
    have hcore : coreAt (updCore (cawCore s f.val) (setShadowReg i v) s) c = setShadowReg i v x := coreAt_updCore_same ..
    rw [coreAt_cawStatus, hv, hcore]
    exact ⟨rfl, rfl, rfl, live_cawStatus .., shadowReg_setShadowReg_same .., fun j hj => shadowReg_setShadowReg_ne _ _ hj⟩
  · refine ⟨_, congrArg Host.Outcome.next ((onPage_acts hreach hdark).trans (cawWrite_scalar hsel hspace hi hidle.1 hidle.2 hreg)), live_cawStatus .., ?_, rfl⟩
    have hcore : ∀ y, coreAt (setCore (cawCore s f.val) y s) c = y := fun _ => coreAt_setCore_same ..
    rw [coreAt_cawStatus, hv, hcore]
    exact threadAt_setThread_same ..
  · exact ⟨_, exec_cawDiscard hreach hdark hfree, live_cawStatus .., fun d hd => coreAt_reloadCores hd⟩
  · subst hr
    refine ⟨exec_threadStart hreach hdark hon mask j, exec_threadStop hreach hdark hon mask j, ⟨_, exec_coreReset hreach hdark hon, live_cawStatus .., ?_⟩,
      fun h b hsealed => ⟨_, exec_tagInit hreach hdark hon hsealed, ?_, fun hvalid htagged => ?_⟩⟩
    · rw [coreAt_cawStatus, coreAt_setCore_same]
      exact ⟨rfl, rfl, rfl, rfl, rfl, fun h hdyn => resetCore_dynamic hdyn, rfl⟩
    · rw [live_cawStatus, tagInit_status]
    · rw [coreAt_cawStatus, coreAt_setCore_same]
      exact tagInit_tags b hvalid htagged

end Sys2Proof.Machine
end

section
/-! Unit events, window commands and channels complete (R75, R100, R104, R119, R143, R148, R149, R173, R229 to R232, R247). -/

namespace Sys2Proof.Machine

open Sys2Proof

/-! ### Unit entries (R119) -/

/-- A core has an entry with a number, and those with it are in a phase. -/
structure Stands (id : Nat) (ph : UPhase) (x : Core) : Prop where
  there : ∃ v ∈ x.units, v.id = id
  phase : ∀ v ∈ x.units, v.id = id → v.phase = ph

/-- A core has no entry with a number. -/
def Retired (id : Nat) (x : Core) : Prop := ∀ v ∈ x.units, v.id ≠ id

section
variable {id : Nat} {ph : UPhase} {x : Core}

theorem Stands.has (h : Stands id ph x) : ∃ v ∈ x.units, v.id = id ∧ v.phase = ph := by
  obtain ⟨v, hv, hid⟩ := h.there
  exact ⟨v, hv, hid, h.phase v hv hid⟩

theorem stands_congr {y : Core} (hunits : y.units.map (fun v => (v.id, v.phase)) = x.units.map fun v => (v.id, v.phase)) (h : Stands id ph x) : Stands id ph y := by
  have hmem : ∀ {v : UnitEntry}, v ∈ y.units → ∃ w ∈ x.units, w.id = v.id ∧ w.phase = v.phase := fun {v} hv => by
    have hpair : (v.id, v.phase) ∈ x.units.map fun v => (v.id, v.phase) := hunits ▸ List.mem_map_of_mem hv
    obtain ⟨w, hw, he⟩ := List.mem_map.1 hpair
    exact ⟨w, hw, (Prod.mk.inj he).1, (Prod.mk.inj he).2⟩
  obtain ⟨v, hv, hid⟩ := h.there
  have hpair : (v.id, v.phase) ∈ y.units.map fun v => (v.id, v.phase) := hunits.symm ▸ List.mem_map_of_mem hv
  obtain ⟨w, hw, he⟩ := List.mem_map.1 hpair
  refine ⟨⟨w, hw, ((Prod.mk.inj he).1).trans hid⟩, fun v' hv' hid' => ?_⟩
  obtain ⟨w', hw', hwid, hwph⟩ := hmem hv'
  rw [← hwph]
  exact h.phase w' hw' (hwid.trans hid')

theorem mem_updUnit {n : Nat} {f : UnitEntry → UnitEntry} {v : UnitEntry} :
    v ∈ (updUnit n f x).units ↔ ∃ w ∈ x.units, (if w.id = n then f w else w) = v := List.mem_map

/-- An entry takes a phase. -/
theorem stands_updUnit {u : UnitEntry} (hu : u ∈ x.units) {f : UnitEntry → UnitEntry} (hid : ∀ v, (f v).id = v.id) (hph : ∀ v, (f v).phase = ph) :
    Stands u.id ph (updUnit u.id f x) := by
  refine ⟨⟨f u, mem_updUnit.2 ⟨u, hu, if_pos rfl⟩, hid u⟩, fun v hv hvid => ?_⟩
  obtain ⟨w, -, rfl⟩ := mem_updUnit.1 hv
  split
  · exact hph w
  · rename_i hne
    rw [if_neg hne] at hvid
    exact absurd hvid hne

/-- A change of another entry leaves it. -/
theorem Stands.updUnit_ne (h : Stands id ph x) {n : Nat} (hn : n ≠ id) {f : UnitEntry → UnitEntry} (hid : ∀ v, (f v).id = v.id) : Stands id ph (updUnit n f x) := by
  obtain ⟨v, hv, hvid⟩ := h.there
  refine ⟨⟨v, mem_updUnit.2 ⟨v, hv, if_neg fun hvn => hn (hvn.symm.trans hvid)⟩, hvid⟩, fun v' hv' hvid' => ?_⟩
  obtain ⟨w, hw, rfl⟩ := mem_updUnit.1 hv'
  split at hvid'
  · rename_i hwn
    rw [hid, hwn] at hvid'
    exact absurd hvid' hn
  · rename_i hwn
    rw [if_neg hwn]
    exact h.phase w hw hvid'

theorem Retired.updUnit (h : Retired id x) (n : Nat) {f : UnitEntry → UnitEntry} (hid : ∀ v, (f v).id = v.id) : Retired id (updUnit n f x) := by
  intro v hv
  obtain ⟨w, hw, rfl⟩ := mem_updUnit.1 hv
  split
  · rw [hid]
    exact h w hw
  · exact h w hw

theorem unitIn_some {kind : UnitKind} {u : UnitEntry} (h : unitIn x kind ph = some u) : u ∈ x.units ∧ u.phase = ph := by
  have hp := List.find?_some h
  rw [Bool.and_eq_true] at hp
  exact ⟨List.mem_of_find?_eq_some h, eq_of_beq hp.2⟩

/-- An entry in another phase has another number. -/
theorem Stands.ne_of_phase (h : Stands id ph x) {u : UnitEntry} (hu : u ∈ x.units) (hph : u.phase ≠ ph) : u.id ≠ id := fun hid => hph (h.phase u hu hid)

theorem Stands.startWaiting (h : Stands id ph x) (hph : ph ≠ .queued) (kind : UnitKind) : Stands id ph (startWaiting kind x) := by
  unfold Machine.startWaiting
  split
  · rename_i u hu
    obtain ⟨hmem, hqueued⟩ := unitIn_some hu
    exact h.updUnit_ne (h.ne_of_phase hmem (by rw [hqueued]; exact hph.symm)) fun _ => rfl
  · exact h

theorem Stands.beginStaging (h : Stands id ph x) (hph : ph ≠ .queued) : Stands id ph (beginStaging x) := by
  unfold Machine.beginStaging
  split
  · exact h
  · split
    · rename_i u hu
      obtain ⟨hmem, hqueued⟩ := unitIn_some hu
      exact h.updUnit_ne (h.ne_of_phase hmem (by rw [hqueued]; exact hph.symm)) fun _ => rfl
    · exact h

/-- What the array does next leaves an entry that is formed formed. -/
theorem Stands.arrayAdvance_formed (h : Stands id .formed x) : Stands id .formed (arrayAdvance x) := by
  refine Stands.beginStaging ?_ (by decide)
  unfold beginStream
  split
  · rename_i u hu
    dsimp only
    split
    · rename_i hgo
      simp only [Bool.and_eq_true] at hgo
      exact h.updUnit_ne (h.ne_of_phase (List.mem_of_find?_eq_some hu) (by rw [eq_of_beq hgo.1.1]; decide)) fun _ => rfl
    · exact h
  · exact h

/-- What the array does next leaves an entry that is staged staged, or streaming. -/
theorem Stands.arrayAdvance_staged (h : Stands id .staged x) : Stands id .staged (arrayAdvance x) ∨ Stands id .streaming (arrayAdvance x) := by
  unfold arrayAdvance beginStream
  split
  · rename_i u hu
    dsimp only
    split
    · by_cases hid : u.id = id
      · subst hid
        exact .inr (Stands.beginStaging (stands_updUnit (List.mem_of_find?_eq_some hu) (fun _ => rfl) fun _ => rfl) (by decide))
      · exact .inl (Stands.beginStaging (h.updUnit_ne hid fun _ => rfl) (by decide))
    · exact .inl (h.beginStaging (by decide))
  · exact .inl (h.beginStaging (by decide))

theorem Retired.arrayAdvance (h : Retired id x) : Retired id (arrayAdvance x) := by
  have hstream : Retired id (beginStream x) := by
    unfold beginStream
    split
    · dsimp only
      split
      · exact h.updUnit _ fun _ => rfl
      · exact h
    · exact h
  unfold Machine.arrayAdvance Machine.beginStaging
  split
  · exact hstream
  · split
    · exact hstream.updUnit _ fun _ => rfl
    · exact hstream

end

theorem retired_retireUnit (c id : Nat) (s : State) : Retired id (coreAt (retireUnit c id s) c) := by
  rw [retireUnit, coreAt_updCore_same]
  intro v hv
  exact of_decide_eq_true (List.mem_filter.1 hv).2

/-! ### The stream ahead (R144) -/

/-- The numbers and phases of a core's entries. -/
def phases (x : Core) : List (Nat × UPhase) := x.units.map fun v => (v.id, v.phase)

theorem phases_requestAhead {c : Nat} (hport : unitPort c = 0) (a n : Nat) (s : State) : phases (coreAt (requestAhead c a n s) c) = phases (coreAt s c) := by
  unfold requestAhead
  generalize (linesOf a n).take 8 = lines
  induction lines generalizing s with
  | nil => rfl
  | cons l lines ih =>
    refine (ih _).trans ?_
    dsimp only
    split
    · rfl
    · have hsent := sent_injectEngine (c := c) (m := towardAddr (stackBase + 256 * l) { msgNull with cls := .read, rflits := 8, rcore := c, src := c, origin := .fill c l })
        ((congrArg unitPort (src_towardAddr ..)).trans hport) (updCore c (fun x => { x with misses := x.misses ++ [⟨l, none⟩] }) s)
      have hunits := (congrArg Core.units hsent.core :)
      rw [coreAt_updCore_same] at hunits
      exact congrArg (List.map fun v : UnitEntry => (v.id, v.phase)) hunits

theorem phases_streamAhead {c : Nat} (hport : unitPort c = 0) (s : State) : phases (coreAt (streamAhead c s) c) = phases (coreAt s c) := by
  unfold streamAhead
  dsimp only
  split
  · split
    · rw [phases_requestAhead hport, coreAt_updCore_same]
      have htouch : ∀ l y, (touchLines l y).units = y.units := fun l y => (congrArg Core.units (sansCache_touchLines l y) :)
      rw [phases, htouch, phases]
      refine (List.map_map ..).trans (List.map_congr_left fun v _ => ?_)
      dsimp only [Function.comp]
      split <;> rfl
    · rfl
  · rfl

/-! ### Checks of a store without bad bytes (R212 to R215) -/

theorem accessCheck_clean {c : Nat} {rs : List Rng} {lines : List Nat} {s : State} (h : s.badParity = []) : accessCheck c [] rs lines s = (s, none) := by
  simp [accessCheck, badHits, h]

theorem readCheck_clean {c : Nat} {rs : List Rng} {s : State} (h : s.badParity = []) : readCheck c [] rs s = (s, none) := accessCheck_clean h

theorem partialCheck_clean {c a n : Nat} {s : State} (h : s.badParity = []) : partialCheck c [] a n s = (s, none) := readCheck_clean h

/-- The lanes of an MVD whose operands lie in the store of its core. -/
def storedLanes (c : Nat) (u : UnitEntry) (s : State) : List Word :=
  mvdResult (coreAt s c) u (u.vals.getD 0 0).toNat (storeRead s c (u.addrs.getD 0 0) (mvdBytes u))
    (storeRead s c (u.addrs.getD 1 0) ((u.vals.getD 0 0).toNat + (u.vals.getD 0 0).toNat / 32))

/-! ### Events of the units (R143, R148, R149, R173, R247) -/

section
variable {c : CoreRef} {s : State} {u : UnitEntry} (hon : fieldOn s (coreId c) = true)
include hon

theorem exec_mvdStreamEnd (hbad : s.badParity = []) (hu : unitIn (coreAt s (coreId c)) .mv .running = some u) (hsrc : u.srcs.any (·.stack) = false) :
    ∃ t, exec (.mvdStreamEnd c []) s = .next t ∧ ∃ v ∈ (coreAt t (coreId c)).units, v.id = u.id ∧ v.phase = .formed := by
  have hahead : streamAhead (coreId c) s = s := by
    simp only [streamAhead, hu, hsrc]
    rfl
  have hlen : ¬ (storeRead s (coreId c) (u.addrs.getD 0 0) (mvdBytes u)).length < mvdBytes u := by rw [storeRead, length_readMem]; exact lt_irrefl _
  have hend : mvdStreamEnd (coreId c) [] s = nextMvd (coreId c) (updCore (coreId c)
      (updUnit u.id fun v => { v with phase := .formed, lanes := storedLanes (coreId c) u s, data := [] }) s) := by
    simp only [mvdStreamEnd, hahead, hu, hsrc, accessCheck_clean hbad]
    exact (if_neg hlen).trans (if_neg (lt_irrefl _))
  refine ⟨_, congrArg Host.Outcome.next ((if_pos hon).trans hend), Stands.has (stands_congr (phases_streamAhead (unitPort_coreId c) _) ?_)⟩
  rw [coreAt_updCore_same, coreAt_updCore_same]
  refine Stands.startWaiting (ph := .formed) ?_ (by decide) _
  exact stands_updUnit (unitIn_some hu).1 (fun _ => rfl) fun _ => rfl

theorem exec_mvdResult (hu : unitIn (coreAt s (coreId c)) .mv .formed = some u) :
    ∃ t, exec (.mvdResult c) s = .next t ∧ ∀ v ∈ (coreAt t (coreId c)).units, v.id ≠ u.id := by
  refine ⟨_, congrArg Host.Outcome.next (if_pos hon), ?_⟩
  simp only [mvdDone, hu]
  exact retired_retireUnit _ _ _

theorem exec_arrayStagingDone (hbad : s.badParity = []) (hu : unitIn (coreAt s (coreId c)) .array .running = some u) :
    ∃ t, exec (.arrayStagingDone c []) s = .next t ∧ ((∃ v ∈ (coreAt t (coreId c)).units, v.id = u.id ∧ v.phase = .staged) ∨
      ∃ v ∈ (coreAt t (coreId c)).units, v.id = u.id ∧ v.phase = .streaming) := by
  refine ⟨_, congrArg Host.Outcome.next (if_pos hon), ?_⟩
  simp only [stagingDone, hu, readCheck_clean hbad]
  rw [coreAt_updCore_same]
  refine (Stands.arrayAdvance_staged ?_).imp Stands.has Stands.has
  exact stands_updUnit (unitIn_some hu).1 (fun _ => rfl) fun _ => rfl

theorem exec_arrayStreamEnd (hu : unitIn (coreAt s (coreId c)) .array .streaming = some u) :
    ∃ t, exec (.arrayStreamEnd c) s = .next t ∧ ∃ v ∈ (coreAt t (coreId c)).units, v.id = u.id ∧ v.phase = .formed := by
  refine ⟨_, congrArg Host.Outcome.next (if_pos hon), ?_⟩
  simp only [streamEnd, hu]
  rw [coreAt_updCore_same]
  refine (Stands.arrayAdvance_formed ?_).has
  exact stands_updUnit (unitIn_some hu).1 (fun _ => rfl) fun _ => rfl

theorem exec_arrayDrainDone (hbad : s.badParity = [])
    (hu : ((coreAt s (coreId c)).units.find? fun u => u.kind == .array && u.phase == .formed && u.checked == arrayPasses u.word) = some u) :
    ∃ t, exec (.arrayDrainDone c []) s = .next t ∧ ∀ v ∈ (coreAt t (coreId c)).units, v.id ≠ u.id := by
  refine ⟨_, congrArg Host.Outcome.next (if_pos hon), ?_⟩
  simp only [drainDone, hu, readCheck_clean hbad, ite_self]
  rw [coreAt_updCore_same]
  exact Retired.arrayAdvance (retired_retireUnit _ _ _)

theorem exec_edgeOccupancyEnd (hbad : s.badParity = []) (hu : unitIn (coreAt s (coreId c)) .edge .running = some u) :
    ∃ t, exec (.edgeOccupancyEnd c []) s = .next t ∧ ∃ v ∈ (coreAt t (coreId c)).units, v.id = u.id ∧ v.phase = .formed := by
  refine ⟨_, congrArg Host.Outcome.next (if_pos hon), ?_⟩
  simp only [edgeEnd, hu, readCheck_clean hbad]
  rw [coreAt_updCore_same]
  refine Stands.has (Stands.startWaiting (ph := .formed) ?_ (by decide) _)
  exact stands_updUnit (unitIn_some hu).1 (fun _ => rfl) fun _ => rfl

omit hon in
theorem edgeStore_clean (hbad : s.badParity = []) (n : Nat) (ws : List (Nat × List Byte)) : edgeStore n u [] ws s =
    retireUnit n u.id (updCore n (fillDst u) (ws.foldl (fun s w => writeMem (coreAddr n w.1) w.2 s) s)) := by
  have hchecks : ∀ l : List (Nat × List Byte), l.foldl (fun (q : State × Option Code) w =>
      let r := partialCheck n [] w.1 w.2.length q.1
      (r.1, q.2.or r.2)) (s, none) = (s, none) := by
    intro l
    induction l with
    | nil => rfl
    | cons w l ih =>
      rw [List.foldl_cons]
      dsimp only
      rw [partialCheck_clean hbad]
      exact ih
  rw [edgeStore, hchecks]

theorem exec_edgeResultReady (hbad : s.badParity = []) (hu : unitIn (coreAt s (coreId c)) .edge .formed = some u) (hdst : u.dst.any (·.stack) = false) :
    ∃ t, exec (.edgeResultReady c []) s = .next t ∧ ∀ v ∈ (coreAt t (coreId c)).units, v.id ≠ u.id := by
  refine ⟨_, congrArg Host.Outcome.next (if_pos hon), ?_⟩
  simp only [edgeReady, hu, hdst, edgeStore_clean hbad]
  exact retired_retireUnit _ _ _

omit hon in
theorem unitsOf_setUnits (f : Nat) (y : FieldUnits) (s : State) : unitsOf (setUnits f y s) f = y := by
  rw [unitsOf, setUnits, mget_mset, if_pos rfl]

theorem exec_hqPermitRelease (hidle : ((coreAt s (coreId c)).units.any fun u => u.kind == .array && u.phase != .stuck) = false)
    (hqueue : (unitsOf s (fieldOfCore (coreId c))).quotaQ = []) :
    ∃ t, exec (.hqPermitRelease c) s = .next t ∧ coreId c ∉ (unitsOf t (fieldOfCore (coreId c))).permits := by
  refine ⟨_, congrArg Host.Outcome.next (if_pos hon), ?_⟩
  rw [permitIdle, hidle]
  change coreId c ∉ (unitsOf (releasePermit (coreId c) s) _).permits
  unfold releasePermit
  dsimp only
  split
  · rw [grantAll, unitsOf_setUnits, hqueue, List.length_nil, grantWaiting, unitsOf_setUnits]
    exact fun hmem => of_decide_eq_true (List.mem_filter.1 hmem).2 rfl
  · rename_i hnone
    exact fun hmem => hnone (List.contains_iff_mem.2 hmem)

end

/-! ### Channels (R229 to R232) -/

theorem stackAt_setStack (n : Nat) (x : Stack) (s : State) : stackAt (setStack n x s) n = x := by
  rw [stackAt, setStack_stk, mget_mset, if_pos rfl]

theorem chanAt_setChan (ch : Nat) (c : Chan) (x : Stack) : chanAt (setChan ch c x) ch = c := by
  rw [chanAt, setChan, mget_mset, if_pos rfl]

@[simp] theorem chanAt_updChan (n ch : Nat) (f : Chan → Chan) (s : State) :
    chanAt (stackAt (updChan n ch f s) n) ch = f (chanAt (stackAt s n) ch) := by
  rw [updChan, stackAt_setStack, chanAt_setChan]

theorem chanAt_dropSeg (n ch : Nat) (g : Seg) (s : State) : chanAt (stackAt (dropSeg n ch g s) n) ch =
    { chanAt (stackAt s n) ch with segs := (chanAt (stackAt s n) ch).segs.filter (·.id != g.id) } := by
  rw [dropSeg, stackAt_setStack]
  exact chanAt_updChan n ch (fun c => { c with segs := c.segs.filter (·.id != g.id) }) s

theorem stackAt_injectEngine (r : Nat) (m : Msg) (s : State) (n : Nat) : stackAt (injectEngine r m s) n = stackAt s n := by
  unfold injectEngine
  split <;> rfl

theorem stackAt_sendNotify (r src : Nat) (on : Bool) (t : Nat) (s : State) (n : Nat) : stackAt (sendNotify r src on t s) n = stackAt s n := by
  unfold sendNotify
  split
  · exact stackAt_injectEngine ..
  · rfl

/-- A descriptor without segments frees its credit and counts as done. -/
theorem chanAt_freeDesc {n ch : Nat} {s : State} (h : (chanAt (stackAt s n) ch).segs = []) : chanAt (stackAt (freeDesc n ch s) n) ch =
    { chanAt (stackAt s n) ch with credit := false, done := (chanAt (stackAt s n) ch).done + 1, started := 0 } := by
  rw [freeDesc, h, List.foldl_nil]
  exact chanAt_updChan n ch (fun c => { c with credit := false, done := c.done + 1, started := 0 }) s

theorem serveEarlier_none {n a len : Nat} {chk : StackCheck} {s : State} (h : behind s n a len = false) (k : Nat) : serveEarlier n a len chk k s = s := by
  cases k with
  | zero => rfl
  | succ k =>
    rw [serveEarlier, h]
    rfl

theorem exec_chStart {m : Master} {n : Fin 24} {ch : Fin 16} {s : State} (hreach : reaches m s = true) (hdark : pageDark s (stackPage n.val 1) = false)
    (hfree : ¬ (ch.val = 15 ∧ mcUses s n.val = true)) (hst : (chanAt (stackAt s n.val) ch.val).st = .idle) :
    ∃ t, exec (.chStart m n ch) s = .next t ∧ (chanAt (stackAt t n.val) ch.val).st = .running := by
  refine ⟨_, congrArg Host.Outcome.next (onPage_acts hreach hdark), ?_⟩
  rw [chStart, if_neg hfree, if_pos (.inl hst), chanAt_updChan]

theorem exec_chAbort {m : Master} {n : Fin 24} {ch : Fin 16} {s : State} (hreach : reaches m s = true) (hdark : pageDark s (stackPage n.val 1) = false)
    (hst : (chanAt (stackAt s n.val) ch.val).st = .running) (hsegs : (chanAt (stackAt s n.val) ch.val).segs = []) :
    ∃ t, exec (.chAbort m n ch) s = .next t ∧ (chanAt (stackAt t n.val) ch.val).st = .idle := by
  refine ⟨_, congrArg Host.Outcome.next (onPage_acts hreach hdark), ?_⟩
  simp only [chAbort, hst, hsegs, List.isEmpty_nil, if_true]
  rw [chanAt_updChan]

section
variable {n : Fin 24} {ch : Fin 16} {s : State} (hruns : stackRuns s n.val = true)
include hruns

theorem exec_chDescFetch {l : List Byte} (hst : (chanAt (stackAt s n.val) ch.val).st = .running) (hdesc : (chanAt (stackAt s n.val) ch.val).desc = none)
    (habort : (chanAt (stackAt s n.val) ch.val).aborting = false) (hin : 32 * (chanAt (stackAt s n.val) ch.val).cur + 32 ≤ stackUsed)
    (hfirst : behind s n.val (stackAddr n.val (32 * (chanAt (stackAt s n.val) ch.val).cur)) 32 = false)
    (hread : stackRead n.val (32 * (chanAt (stackAt s n.val) ch.val).cur) 32 false [] s = (.ok l, s))
    (hcheck : chDescCheck s n.val (chDescOf l).1 (chDescOf l).2 = none) :
    exec (.chDescFetch n ch []) s = .next (beginDesc n.val ch.val (chDescOf l).1 [] s) := by
  refine congrArg Host.Outcome.next ?_
  simp only [descFetch, hruns, hst, hdesc, habort, inOrder, serveEarlier_none hfirst, hfirst, hread, hcheck]
  exact (if_neg (by decide)).trans ((if_neg (not_lt.2 hin)).trans (if_neg Bool.false_ne_true))

theorem exec_chWaitRelease {d : ChDesc} {e : BitVec 16} (hst : (chanAt (stackAt s n.val) ch.val).st = .waiting)
    (hdesc : (chanAt (stackAt s n.val) ch.val).desc = some d) (hok : (chanAt (stackAt s n.val) ch.val).refused = false)
    (hwoken : (chanAt (stackAt s n.val) ch.val).woken = some e) (hmoved : e ≠ (chanAt (stackAt s n.val) ch.val).lastEpoch) :
    exec (.chWaitRelease n ch []) s = .next (runDesc n.val ch.val [] (updChan n.val ch.val (fun y => { y with lastEpoch := e, st := .running })
      (updChan n.val ch.val (fun y => { y with woken := none }) s))) := by
  refine congrArg Host.Outcome.next ?_
  simp only [waitRelease, hruns, hst, hdesc, hok, hwoken, if_neg hmoved]
  rfl

theorem exec_chPoolSpace (hst : (chanAt (stackAt s n.val) ch.val).st = .stalled) : exec (.chPoolSpace n ch []) s = .next (runDesc n.val ch.val [] s) := by
  refine congrArg Host.Outcome.next (if_pos ?_)
  rw [hruns, hst]
  rfl

theorem exec_chSegmentDone {g : Seg} (hst : (chanAt (stackAt s n.val) ch.val).st = .stalled)
    (hg : (chanAt (stackAt s n.val) ch.val).segs.find? (·.id == g.id) = some g) (hdata : g.data = []) (hleft : g.left = 0) :
    ∃ t, exec (.chSegmentDone n ch g.id []) s = .next t ∧
      (chanAt (stackAt t n.val) ch.val).segs = (chanAt (stackAt s n.val) ch.val).segs.filter (·.id != g.id) := by
  have hstalled : (chanAt (stackAt (dropSeg n.val ch.val g s) n.val) ch.val).st ≠ .running := by
    rw [chanAt_dropSeg, hst]
    decide
  have hexec : exec (.chSegmentDone n ch g.id []) s = .next (dropSeg n.val ch.val g s) := by
    refine congrArg Host.Outcome.next ?_
    simp only [segDone, hruns, hg, hdata, List.isEmpty_nil, Bool.true_or, if_true, hleft, if_neg hstalled]
    rfl
  exact ⟨_, hexec, by rw [chanAt_dropSeg]⟩

theorem exec_chDescEnd {d : ChDesc} (hst : (chanAt (stackAt s n.val) ch.val).st = .running) (habort : (chanAt (stackAt s n.val) ch.val).aborting = false)
    (hdesc : (chanAt (stackAt s n.val) ch.val).desc = some d) (hok : (chanAt (stackAt s n.val) ch.val).failed = none)
    (hsegs : (chanAt (stackAt s n.val) ch.val).segs = []) (hall : d.len ≤ (chanAt (stackAt s n.val) ch.val).started) :
    ∃ t, exec (.chDescEnd n ch) s = .next t ∧ (chanAt (stackAt t n.val) ch.val).desc = none ∧
      (chanAt (stackAt t n.val) ch.val).done = (chanAt (stackAt s n.val) ch.val).done + 1 := by
  have hexec : exec (.chDescEnd n ch) s = .next (sendNotify (stackRouter n.val 0).1 (srcStack n.val) d.notify d.tally
      (updChan n.val ch.val (nextDesc d) (freeDesc n.val ch.val s))) := by
    refine congrArg Host.Outcome.next ?_
    simp only [chDescEnd, hruns, hst, hdesc, habort, hok, hsegs]
    exact (if_neg Bool.false_ne_true).trans (if_pos ⟨rfl, hall⟩)
  refine ⟨_, hexec, ?_⟩
  rw [stackAt_sendNotify, chanAt_updChan, chanAt_freeDesc hsegs]
  exact ⟨rfl, rfl⟩

end

/-! ### The window's commands (R75, R100, R104) -/

theorem coreIdCheck_of_cawRefused {s : State} {f : Nat} (h : cawRefused s f = none) : coreIdCheck s (cawCore s f) = none := by
  unfold cawRefused at h
  split at h
  · cases h
  · assumption

theorem fieldOf_cawCore (s : State) (f : Nat) : cawCore s f / 4096 = f := by
  have := bits_lt (live s (pCaw f) 0x800) 11 0
  rw [cawCore, liveF]
  omega

/-- Settles O59: each event and command completes as stated of it above. -/
theorem coreEventsWindowAndChannelsComplete : Obligations.CoreEventsWindowAndChannelsComplete := by
  unfold Obligations.CoreEventsWindowAndChannelsComplete
  refine ⟨?_, ?_, ?_, ?_, ?_⟩
  · intro c s u n x has gone hon hbad
    exact ⟨exec_mvdStreamEnd hon hbad, exec_mvdResult hon, exec_arrayStagingDone hon hbad, exec_arrayStreamEnd hon, exec_arrayDrainDone hon hbad,
      exec_edgeOccupancyEnd hon hbad, exec_edgeResultReady hon hbad, exec_hqPermitRelease hon⟩
  · intro m f s p x i hreach hdark hsel
    have hcore := coreIdCheck_of_cawRefused hsel
    refine ⟨fun w hspace hreg => ?_, fun hspace hi hsealed hfree => ?_, fun hfree => ?_⟩
    · obtain ⟨t, hexec, -, -, hlow, -, hstatus⟩ := exec_cawRead hreach hdark (cawRead_live hcore hspace hreg)
      exact ⟨t, hexec, hstatus, hlow⟩
    · refine ⟨_, exec_cawWrite_shadow hreach hdark hcore hspace (.inr hi) hsealed hfree, live_cawStatus .., ?_⟩
      rw [coreAt_cawStatus, coreAt_updCore_same, show liveF s (pCaw f.val) 0x804 13 0 = 0x80 from hi]
      exact shadowReg_setShadowReg_same ..
    · exact ⟨_, exec_cawDiscard hreach hdark hfree, (coreAt_reloadCores (fieldOf_cawCore s f.val)).1⟩
  · intro m r mask j h s n th v hreach hdark hon
    obtain ⟨t, hstart, hready, -⟩ := exec_threadStart hreach hdark hon mask j
    obtain ⟨t', hstop, -, hstopped, -⟩ := exec_threadStop hreach hdark hon mask j
    refine ⟨fun hbit hst => ⟨t, hstart, ?_⟩, fun hbit hst => ⟨t', hstop, ?_⟩, ⟨_, exec_coreReset hreach hdark hon, ?_⟩, fun hsealed hvalid htagged =>
      ⟨_, exec_tagInit hreach hdark hon hsealed, ?_⟩⟩
    · exact congrArg Thread.st (hready hbit (.inl hst))
    · exact congrArg Thread.st (hstopped hbit (.inl hst))
    · change threadAt (coreAt (cawStatus _ _ _) _) _ = _
      rw [coreAt_cawStatus, coreAt_setCore_same]
      rfl
    · rw [coreAt_cawStatus, coreAt_setCore_same]
      exact tagInit_tags true hvalid htagged
  · intro m n ch s c after hreach hdark
    exact ⟨exec_chStart hreach hdark, exec_chAbort hreach hdark⟩
  · intro n ch s c after hruns
    exact ⟨fun _ => exec_chDescFetch hruns, fun _ _ => exec_chWaitRelease hruns, exec_chPoolSpace hruns, fun _ => exec_chSegmentDone hruns,
      fun _ => exec_chDescEnd hruns⟩

end Sys2Proof.Machine
end

section
/-! Scalar instructions, branches and jumps (R113, R114). -/

namespace Sys2Proof.Machine

open Sys2Proof

/-! ### What a read of the store leaves as it was (R213 to R215) -/

/-- What every error that an access meets keeps, the access's check keeps. -/
theorem accessCheck_induct {P : State → Prop} {c : Nat} {lines : List Nat} {s : State} (hs : P s) (hhit : ∀ q h, P q.1 → P (takeHit c q h).1)
    (hline : ∀ q h, P q.1 → P (takeLineHit c lines q h).1) (k : StoreCheck) (rs : List Rng) : P (accessCheck c k rs lines s).1 := by
  have hfold : ∀ (l : StoreCheck) (q : State × Option Code), P q.1 → P (l.foldl (fun q h =>
      if bankMode (coreAt q.1 c) (bankOf (hitSlot h)) = 2 then takeLineHit c lines q h
      else if slotIn rs (hitSlot h) then takeHit c q h else q) q).1 := by
    intro l
    induction l with
    | nil => exact fun q hq => hq
    | cons e l ih =>
      refine fun q hq => ih _ ?_
      dsimp only
      split
      · exact hline q e hq
      · split
        · exact hhit q e hq
        · exact hq
  exact hfold _ (s, none) hs

/-- An error's report counts at RECOV_LOG alone. -/
theorem live_hitReport (c : Nat) (h : StoreHit) (x : Core) (e : Option Code) (s : State) {p off : Nat} (hkey : regKey p off ≠ regKey 0 0xA10) :
    live (hitReport c h x e s) p off = live s p off := by
  unfold hitReport
  split
  · split
    · rfl
    · exact live_setLive_ne _ s hkey.symm
  · rfl
  · rfl

theorem live_noteBad (c : Nat) (h : StoreHit) (x : Core) (s : State) (p off : Nat) : live (noteBad c h x s) p off = live s p off := by
  unfold noteBad
  split
  · split <;> rfl
  · rfl

theorem live_readCheck (c : Nat) (k : StoreCheck) (rs : List Rng) (s : State) {p off : Nat} (hkey : regKey p off ≠ regKey 0 0xA10) :
    live (readCheck c k rs s).1 p off = live s p off := by
  refine accessCheck_induct (P := fun t => live t p off = live s p off) rfl (fun q h hq => ?_) (fun q h hq => ?_) k rs
  · exact (live_hitReport _ _ _ _ _ hkey).trans ((live_noteBad ..).trans hq)
  · unfold takeLineHit
    dsimp only
    split
    · exact hq
    · exact (live_hitReport _ _ _ _ _ hkey).trans hq

section
variable {op : Nat} {i : Issue} {s q : State} {k : Iss} (h : Offered op i s k q)
include h

theorem Offered.beat : q.beat = s.beat := (congrArg State.beat h.checked.rest :)

/-- The fetch leaves every input of a field's clock step. -/
theorem Offered.clockInputs (f : Nat) : effStep q f = effStep s f := by
  have hlive : live q (0x100 + 16 * f + 1) 0x40 = live s (0x100 + 16 * f + 1) 0x40 := by
    have := live_readCheck (coreId i.core) i.fetch [fetchRng i s] s (p := 0x100 + 16 * f + 1) (off := 0x40) (by unfold regKey; omega)
    rwa [h.read] at this
  have hfields : fieldOf q f = fieldOf s f := by
    have : q.fields = s.fields := (congrArg State.fields h.checked.rest :)
    rw [fieldOf, fieldOf, this]
  rw [effStep, effStep, reqStep, reqStep, liveF, liveF, hlive, hfields]

/-! ### Scalar results (R112, R113) -/

/-- An instruction whose body writes D retires with D written. -/
theorem Offered.writesD {v : Iss → State → DWord} {w : DWord} (hv : v k q = w) :
    (.next (Machine.issue op i (fun k s => writeD k (v k s) s) s) : Result) = .next (retire k (setS (fw k 55 51) w) (k.pc + 8) q) := by
  rw [h.issue, ← hv]
  rfl

end

theorem sub_eq_ofInt (a b : DWord) : a - b = BitVec.ofInt 64 (a.toInt - b.toInt) := by
  exact BitVec.eq_of_toInt_eq (by rw [BitVec.toInt_sub, BitVec.toInt_ofInt])

theorem opShl_eq (a b : DWord) : opShl a b = BitVec.ofNat 64 (2 ^ (b.toNat % 64) * a.toNat) := by
  refine BitVec.eq_of_toNat_eq ?_
  rw [opShl, shAmt, BitVec.toNat_shiftLeft, BitVec.toNat_ofNat, Nat.shiftLeft_eq, Nat.mul_comm]

theorem opShr_eq (a b : DWord) : opShr a b = BitVec.ofNat 64 (a.toNat / 2 ^ (b.toNat % 64)) := by
  refine BitVec.eq_of_toNat_eq ?_
  rw [opShr, shAmt, BitVec.toNat_ushiftRight, BitVec.toNat_ofNat, Nat.shiftRight_eq_div_pow]
  refine (Nat.mod_eq_of_lt ?_).symm
  exact lt_of_le_of_lt (Nat.div_le_self ..) a.isLt

theorem opSar_eq (a b : DWord) : opSar a b = BitVec.ofInt 64 (a.toInt / 2 ^ (b.toNat % 64)) := by
  rw [opSar, shAmt, BitVec.sshiftRight, Int.shiftRight_eq_div_pow]
  norm_cast

theorem slt_eq_decide (a b : DWord) : a.slt b = decide (a.toInt < b.toInt) := rfl
theorem ult_eq_decide (a b : DWord) : a.ult b = decide (a.toNat < b.toNat) := rfl

theorem opMin_eq (a b : DWord) : opMin a b = if a.toInt < b.toInt then a else b := by simp [opMin, slt_eq_decide]
theorem opMax_eq (a b : DWord) : opMax a b = if a.toInt < b.toInt then b else a := by simp [opMax, slt_eq_decide]
theorem opMinu_eq (a b : DWord) : opMinu a b = if a.toNat < b.toNat then a else b := by simp [opMinu, ult_eq_decide]
theorem opMaxu_eq (a b : DWord) : opMaxu a b = if a.toNat < b.toNat then b else a := by simp [opMaxu, ult_eq_decide]
theorem opSlt_eq (a b : DWord) : opSlt a b = if a.toInt < b.toInt then 1 else 0 := by simp [opSlt, boolWord, slt_eq_decide]
theorem opSltu_eq (a b : DWord) : opSltu a b = if a.toNat < b.toNat then 1 else 0 := by simp [opSltu, boolWord, ult_eq_decide]

/-- Settles O5: each instruction writes its operation's result to D. -/
theorem scalarRegisterResults : Obligations.ScalarRegisterResults := by
  unfold Obligations.ScalarRegisterResults
  intro i s q k a b d
  exact ⟨fun h => h.writesD (BitVec.add_def ..), fun h => h.writesD (sub_eq_ofInt a b), fun h => h.writesD (BitVec.mul_def ..), fun h => h.writesD rfl,
    fun h => h.writesD rfl, fun h => h.writesD rfl, fun h => h.writesD (opShl_eq a b), fun h => h.writesD (opShr_eq a b),
    fun h => h.writesD (opSar_eq a b), fun h => h.writesD (opMin_eq a b), fun h => h.writesD (opMax_eq a b), fun h => h.writesD (opMinu_eq a b),
    fun h => h.writesD (opMaxu_eq a b), fun h => h.writesD (opSlt_eq a b), fun h => h.writesD (opSltu_eq a b)⟩

/-! ### Immediates (R113) -/

/-- LIH sets the immediate's 32 bits above the lower half of A. -/
theorem opLih_eq (a : DWord) {n : Nat} : opLih a ((BitVec.ofNat 32 n).signExtend 64) = BitVec.ofNat 64 (2 ^ 32 * n + a.toNat % 2 ^ 32) := by
  refine BitVec.eq_of_getLsbD_eq fun i hi => ?_
  have hlow : (0xFFFFFFFF : DWord).getLsbD i = decide (i < 32) := by
    rw [show (0xFFFFFFFF : DWord) = BitVec.ofNat 64 (2 ^ 32 - 1) from rfl, BitVec.getLsbD_ofNat, Nat.testBit_two_pow_sub_one]
    simp [hi]
  rw [opLih, BitVec.getLsbD_or, BitVec.getLsbD_and, hlow, BitVec.getLsbD_shiftLeft, BitVec.getLsbD_signExtend, BitVec.getLsbD_ofNat, BitVec.getLsbD_ofNat,
    Nat.testBit_two_pow_mul_add _ (Nat.mod_lt _ (by decide))]
  by_cases h32 : i < 32
  · simp only [hi, h32, decide_true, Bool.not_true, Bool.and_false, Bool.false_and, Bool.false_or, Bool.and_true, Bool.true_and, if_true,
      Nat.testBit_mod_two_pow, BitVec.testBit_toNat]
  · have hsub : i - 32 < 32 := by omega
    have hsub' : i - 32 < 64 := by omega
    simp [hi, h32, hsub, hsub']

/-- The system values of RDSYS. -/
theorem sysValue_beat {k : Iss} {q : State} (hsel : fw k 31 0 = 3) : sysValue k q = BitVec.ofNat 64 q.beat.now.toNat := by
  rw [sysValue, hsel]
  exact BitVec.eq_of_toNat_eq (by simp)

theorem sysValue_step {k : Iss} {q : State} (hsel : fw k 31 0 = 4) : sysValue k q = BitVec.ofNat 64 (effStep q (fieldOfCore k.c)) := by
  rw [sysValue, hsel]
  rfl

/-- Settles O6: each instruction writes its operation's result, or the system value, to D; NOP and HALT write none. -/
theorem scalarImmediateResults : Obligations.ScalarImmediateResults := by
  unfold Obligations.ScalarImmediateResults
  intro i s q k a b d
  refine ⟨fun h => h.writesD (BitVec.add_def a b), fun h => h.writesD rfl, fun h => h.writesD rfl, fun h => h.writesD rfl,
    fun h => h.writesD (opShl_eq a b), fun h => h.writesD (opShr_eq a b), fun h => h.writesD (opSar_eq a b), fun h => h.writesD (opSlt_eq a b),
    fun h => h.writesD (opLih_eq a), fun h hsel => h.writesD ?_, fun h hsel => h.writesD ?_, fun h hsel => h.writesD ?_, fun h hsel => h.writesD ?_,
    fun h hsel => h.writesD ?_, fun h => ?_, fun h => ?_⟩
  · simp only [sysValue, hsel, h.core]
  · simp only [sysValue, hsel, h.thread]
  · simp only [sysValue, hsel, h.cycle]
  · rw [sysValue_beat hsel, h.beat]
  · rw [sysValue_step hsel, h.clockInputs, h.core, fieldOfCore]
  · exact congrArg Host.Outcome.next (h.issue _)
  · exact congrArg Host.Outcome.next (h.issue _)

/-! ### Branches and jumps (R114) -/

theorem not_slt_eq (a b : DWord) : (!a.slt b) = decide (b.toInt ≤ a.toInt) := by
  rw [slt_eq_decide, ← decide_not]
  exact decide_eq_decide.2 not_lt

theorem not_ult_eq (a b : DWord) : (!a.ult b) = decide (b.toNat ≤ a.toNat) := by
  rw [ult_eq_decide, ← decide_not]
  exact decide_eq_decide.2 not_lt

/-- The immediate is misaligned as its word is. -/
theorem sext_mod_eight (v : Nat) : sext 32 v % 8 = 0 ↔ v % 8 = 0 := by
  rw [sext, BitVec.toInt_eq_toNat_cond, BitVec.toNat_ofNat]
  split <;> omega

section
variable {op : Nat} {i : Issue} {s q : State} {k : Iss} (h : Offered op i s k q)
include h

theorem Offered.faults (e : Code) : settle k.c k.t k.cycle (.fault e q) = faultThread (coreId i.core) i.thread.val e q := by
  rw [← h.core, ← h.thread]
  rfl

/-- An aligned branch goes to its target where its condition holds, and on where not. -/
theorem Offered.branch {p : DWord → DWord → Bool} {b : Bool} (hp : p (fs k 50 46) (fs k 45 41) = b) (himm : immZ k % 8 = 0) :
    (.next (Machine.branch op p i s) : Result) =
      .next (if b then retire k (landAt (k.pc.toNat + immZ k)) (pcOf (k.pc.toNat + immZ k)) q else issued k.c k.t k.cycle (k.pc + 8) q) := by
  subst hp
  rw [Machine.branch, h.issue, if_neg (not_not.2 ((sext_mod_eight _).1 himm))]
  split <;> rfl

theorem Offered.branch_misaligned (p : DWord → DWord → Bool) (himm : immZ k % 8 ≠ 0) :
    (.next (Machine.branch op p i s) : Result) = .next (faultThread (coreId i.core) i.thread.val E.alignFault q) := by
  rw [Machine.branch, h.issue, if_pos fun hz => himm ((sext_mod_eight _).2 hz), h.faults]

end

/-- What JAL and JR leave of a thread: D holds the offset of the following word. -/
theorem settle_linkTo (k : Iss) (v : Int) (q : State) : settle k.c k.t k.cycle (linkTo k v q) =
    retire k (fun th => landAt v (setS (fw k 55 51) (BitVec.ofNat 64 (k.pc + 8).toNat) th)) (BitVec.ofInt 18 v) q := by
  have hlink : (pcNext k).setWidth 64 = BitVec.ofNat 64 (k.pc + 8).toNat := BitVec.eq_of_toNat_eq (by simp [pcNext])
  rw [linkTo, hlink]
  rfl

/-- The target of JR. -/
theorem jrTarget (k : Iss) : fs k 50 46 + immS k = BitVec.ofInt 64 ((fs k 50 46).toInt + immZ k) := by
  rw [BitVec.ofInt_add, BitVec.ofInt_toInt]
  rfl

section
variable {i : Issue} {s q : State} {k : Iss}

theorem exec_jal (h : Offered 0x38 i s k q) (himm : immZ k % 8 = 0) : exec (.jal i) s =
    .next (retire k (fun th => landAt (k.pc.toNat + immZ k) (setS (fw k 55 51) (BitVec.ofNat 64 (k.pc + 8).toNat) th)) (BitVec.ofInt 18 (k.pc.toNat + immZ k)) q) := by
  refine congrArg Host.Outcome.next ((h.issue _).trans ?_)
  rw [if_neg (not_not.2 ((sext_mod_eight _).1 himm)), settle_linkTo]

theorem exec_jal_misaligned (h : Offered 0x38 i s k q) (himm : immZ k % 8 ≠ 0) :
    exec (.jal i) s = .next (faultThread (coreId i.core) i.thread.val E.alignFault q) := by
  refine congrArg Host.Outcome.next ((h.issue _).trans ?_)
  rw [if_pos fun hz => himm ((sext_mod_eight _).2 hz), h.faults]

theorem exec_jr (h : Offered 0x39 i s k q) {v : Nat} (hv : (BitVec.ofInt 64 ((fs k 50 46).toInt + immZ k)).toNat = v) (hal : v % 8 = 0) :
    exec (.jr i) s = .next (retire k (fun th => landAt v (setS (fw k 55 51) (BitVec.ofNat 64 (k.pc + 8).toNat) th)) (BitVec.ofInt 18 v) q) := by
  refine congrArg Host.Outcome.next ((h.issue _).trans ?_)
  dsimp only
  rw [jrTarget, hv, if_neg (not_not.2 hal), settle_linkTo]

theorem exec_jr_misaligned (h : Offered 0x39 i s k q) (hal : (BitVec.ofInt 64 ((fs k 50 46).toInt + immZ k)).toNat % 8 ≠ 0) :
    exec (.jr i) s = .next (faultThread (coreId i.core) i.thread.val E.alignFault q) := by
  refine congrArg Host.Outcome.next ((h.issue _).trans ?_)
  dsimp only
  rw [jrTarget, if_pos hal, h.faults]

end

/-- A handle that serves a fetch but for its extent faults it with LEN_OVERRUN. -/
theorem fetchFault_overrun {x : Core} {pc : Nat} (hvalid : (hview x 0).valid = true) (hrd : (hview x 0).rd = true) (htag : (hview x 0).tagged = false)
    (hcls : (hview x 0).cls = 0 ∨ (hview x 0).cls = 1) (hal : pc % 8 = 0) (hext : (hview x 0).ext < pc + 8) : fetchFault x pc = some E.lenOverrun := by
  have hclass : ((hview x 0).cls == 0 || (hview x 0).cls == 1) = true := by
    rw [Bool.or_eq_true, beq_iff_eq, beq_iff_eq]
    exact hcls
  simp [fetchFault, hvalid, hrd, htag, hclass, hal, hext]

/-- Settles O8: a branch and a jump end as above, and a thread beyond every handle 0 fetches at 2^18. -/
theorem branchesAndJumps : Obligations.BranchesAndJumps := by
  unfold Obligations.BranchesAndJumps
  intro i s q k a b imm c rel far goto link bad
  refine ⟨fun himm => ⟨fun h => h.branch rfl himm, fun h => h.branch rfl himm, fun h => h.branch rfl himm, fun h => h.branch (not_slt_eq a b) himm,
      fun h => h.branch rfl himm, fun h => h.branch (not_ult_eq a b) himm, fun h => exec_jal h himm⟩,
    fun hfar h => exec_jr h rfl (Int.natCast_eq_zero.1 hfar),
    fun himm => ⟨fun h => h.branch_misaligned _ himm, fun h => h.branch_misaligned _ himm, fun h => h.branch_misaligned _ himm,
      fun h => h.branch_misaligned _ himm, fun h => h.branch_misaligned _ himm, fun h => h.branch_misaligned _ himm, fun h => exec_jal_misaligned h himm⟩,
    fun hfar h => exec_jr_misaligned h fun hz => hfar (Int.natCast_eq_zero.2 hz), ?_, fun th => rfl, fun th hb => ?_⟩
  · intro x op hx hruns hready hturn hv hvalid hrd htag hcls hal hext
    obtain ⟨body, hexec, -⟩ := exec_body hx
    rw [hexec, issue_fetchFault hruns hready hturn (fetchFault_overrun hvalid hrd htag hcls hal hext)]
  · have hat : fetchAt th = 2 ^ 18 := if_pos hb
    rw [hat]
    exact ⟨rfl, fun hv hext => by omega⟩

end Sys2Proof.Machine
end

section
/-! Vector instructions (R110, R112, R118). -/

namespace Sys2Proof.Machine

open Sys2Proof

theorem if_isI32 {α : Type} (k : Iss) (a b : α) : (if isI32 k then a else b) = if fw k 43 42 = 1 then a else b :=
  if_congr beq_iff_eq rfl rfl

/-- A lane in a scalar register, as a number: I32 signed, F32 not (R118). -/
theorem laneToS_eq (k : Iss) (w : Word) : laneToS k w = if fw k 43 42 = 1 then BitVec.ofInt 64 w.toInt else BitVec.ofNat 64 w.toNat := by
  have hwide : w.setWidth 64 = BitVec.ofNat 64 w.toNat := BitVec.eq_of_toNat_eq (by simp)
  rw [laneToS, if_isI32, hwide]
  rfl

theorem zipWith_lanesOf {n m : Nat} (f : Word → Word → Word) (a : BitVec n) (b : BitVec m) (l : Nat) :
    List.zipWith f (lanesOf a l) (lanesOf b l) = (List.range l).map fun j => f (lane a j) (lane b j) := by
  rw [lanesOf, lanesOf, List.zipWith_map, List.zipWith_self]

theorem i32Max_eq (a b : Word) : i32Max a b = if a.toInt < b.toInt then b else a := by
  simp [i32Max, BitVec.slt]

theorem i32Min_eq (a b : Word) : i32Min a b = if a.toInt < b.toInt then a else b := by
  rcases lt_trichotomy a.toInt b.toInt with hlt | heq | hgt
  · simp [i32Min, BitVec.slt, hlt, hlt.le]
  · simp [i32Min, BitVec.slt, BitVec.eq_of_toInt_eq heq]
  · simp [i32Min, BitVec.slt, hgt, hgt.le]

section
variable {op : Nat} {i : Issue} {s q : State} {k : Iss} (h : Offered op i s k q)
include h

/-- An instruction whose body writes lanes retires with them in VD. -/
theorem Offered.writesV {l : Iss → List Word} {g : Nat → Word} (hl : l k = (List.range 16).map g) :
    Machine.issue op i (fun k s => writeV k (l k) s) s = retire k (setV (fw k 55 52) (fromLanes 512 ((List.range 16).map g))) (k.pc + 8) q := by
  rw [h.issue, ← hl]
  rfl

/-- An instruction whose body writes a lane to a scalar register retires with it in sS. -/
theorem Offered.writesLane {l : Iss → Word} {w : Word} (hl : l k = w) :
    Machine.issue op i (fun k s => writeLane k (l k) s) s =
      retire k (setS (fw k 41 37) (if fw k 43 42 = 1 then BitVec.ofInt 64 w.toInt else BitVec.ofNat 64 w.toNat)) (k.pc + 8) q := by
  rw [h.issue, writeLane, laneToS_eq, hl]
  rfl

/-- VD ← VA op VB, lane by lane: F32 by `f`, I32 by `g`. -/
theorem Offered.vec2 (f g g' : Word → Word → Word) (hg : ∀ x y, g x y = g' x y) : Machine.vec2 op f g i s =
    retire k (setV (fw k 55 52) (fromLanes 512 ((List.range 16).map fun j =>
      if fw k 43 42 = 1 then g' (lane (regV k.th (fw k 51 48)) j) (lane (regV k.th (fw k 47 44)) j)
      else f (lane (regV k.th (fw k 51 48)) j) (lane (regV k.th (fw k 47 44)) j)))) (k.pc + 8) q := by
  refine h.writesV ((zipWith_lanesOf ..).trans (List.map_congr_left fun j _ => ?_))
  rw [if_isI32]
  split
  · exact hg ..
  · rfl

/-- VD ← op VA, lane by lane. -/
theorem Offered.vec1 (f : Word → Word) : Machine.vec1 op f i s =
    retire k (setV (fw k 55 52) (fromLanes 512 ((List.range 16).map fun j => f (lane (regV k.th (fw k 51 48)) j)))) (k.pc + 8) q :=
  h.writesV (List.map_map ..)

end

section
variable {i : Issue} {s q : State} {k : Iss}

theorem exec_vfma (h : Offered 0x53 i s k q) : exec (.vfma i) s = .next (retire k (setV (fw k 55 52) (fromLanes 512 ((List.range 16).map fun j =>
    if fw k 43 42 = 1 then lane (regV k.th (fw k 51 48)) j * lane (regV k.th (fw k 47 44)) j + lane (regV k.th (fw k 55 52)) j
    else f32Fma (lane (regV k.th (fw k 51 48)) j) (lane (regV k.th (fw k 47 44)) j) (lane (regV k.th (fw k 55 52)) j)))) (k.pc + 8) q) := by
  refine congrArg Host.Outcome.next (h.writesV ?_)
  rw [lanesOf, lanesOf, lanesOf, List.zip_map', List.zipWith_map, List.zipWith_self]
  exact List.map_congr_left fun j _ => if_isI32 ..

/-- The sum of the lanes, from lane 0 to lane 15. -/
theorem exec_vsum (h : Offered 0x56 i s k q) : exec (.vsum i) s =
    .next (retire k (setS (fw k 41 37) (
      let w := ((List.range 15).map fun j => lane (regV k.th (fw k 51 48)) (j + 1)).foldl (fun a b => if fw k 43 42 = 1 then a + b else f32Add a b)
        (lane (regV k.th (fw k 51 48)) 0)
      if fw k 43 42 = 1 then BitVec.ofInt 64 w.toInt else BitVec.ofNat 64 w.toNat)) (k.pc + 8) q) := by
  refine congrArg Host.Outcome.next (h.writesLane ?_)
  have hadd : (if isI32 k then (· + ·) else f32Add) = fun a b : Word => if fw k 43 42 = 1 then a + b else f32Add a b := by
    rw [if_isI32]
    split <;> rfl
  have hlanes : lanesOf (fv k 51 48) 16 = lane (fv k 51 48) 0 :: (List.range 15).map fun j => lane (fv k 51 48) (j + 1) := by
    rw [lanesOf, List.range_succ_eq_map, List.map_cons, List.map_map]
    rfl
  rw [hadd, hlanes, List.drop_succ_cons, List.drop_zero, List.headD_cons]
  rfl

theorem exec_vmova (h : Offered 0x58 i s k q) (hp : accPending k (fw k 36 35) = false) : exec (.vmova i) s =
    .next (retire k (setV (fw k 55 52) (fromLanes 512 ((List.range 16).map fun j => lane (regA k.th (fw k 36 35)) (16 * fw k 34 33 + j)))) (k.pc + 8) q) := by
  refine congrArg Host.Outcome.next ((h.issue _).trans ?_)
  rw [vmovaBody, hp]
  rfl

end

/-- Settles O9: each instruction writes the lanes, or the scalar, of its operation. -/
theorem vectorResults : Obligations.VectorResults := by
  unfold Obligations.VectorResults
  intro i s q k x y z int d sc
  refine ⟨fun h => congrArg Host.Outcome.next (h.vec2 f32Add (· + ·) (· + ·) fun _ _ => rfl), fun h => congrArg Host.Outcome.next (h.vec2 f32Sub (· - ·) (· - ·) fun _ _ => rfl),
    fun h => congrArg Host.Outcome.next (h.vec2 f32Mul (· * ·) (· * ·) fun _ _ => rfl), fun h => exec_vfma h, fun h => congrArg Host.Outcome.next (h.vec2 f32Max _ (fun a b => if a.toInt < b.toInt then b else a) i32Max_eq),
    fun h => congrArg Host.Outcome.next (h.vec2 f32Min _ (fun a b => if a.toInt < b.toInt then a else b) i32Min_eq), fun h => exec_vsum h, fun h => congrArg Host.Outcome.next (h.writesV ?_),
    fun h hp => exec_vmova h hp, fun h => congrArg Host.Outcome.next (h.writesLane rfl), fun h => congrArg Host.Outcome.next (h.vec1 f32Exp2),
    fun h => congrArg Host.Outcome.next (h.vec1 f32Rsq)⟩
  have hlane : (fs k 41 37).setWidth 32 = BitVec.ofNat 32 ((fs k 41 37).toNat % 2 ^ 32) := BitVec.eq_of_toNat_eq (by simp)
  rw [hlane, ← List.length_range (n := 16), ← List.map_const']
  rfl

end Sys2Proof.Machine
end

section
/-! SUPPORT. What the stream ahead of an MVD changes (R144), and what an entry that is taken leaves as it was (R119). -/

namespace Sys2Proof.Machine

open Sys2Proof

/-! ### The stream ahead (R144) -/

/-- An entry without the operand bytes that it has taken. -/
def undata (u : UnitEntry) : UnitEntry := { u with data := [] }

/-- A core without what an MVD's stream ahead can change of it: the messages it has yet to inject, its misses and cached lines, and the bytes
that its entries have taken. -/
def sansStream (x : Core) : Core :=
  { x with engine := [], inject := [], misses := [], cache := [], useStamp := 0, units := x.units.map undata }

/-- Only what an MVD's stream ahead can change of core c is changed. -/
structure Streamed (c : Nat) (s q : State) : Prop where
  rest : bare q = bare s
  core : sansStream (coreAt q c) = sansStream (coreAt s c)

section
variable {c : Nat}

@[refl] theorem Streamed.refl (s : State) : Streamed c s s := ⟨rfl, rfl⟩

theorem Streamed.trans {s q r : State} (h : Streamed c s q) (g : Streamed c q r) : Streamed c s r := ⟨g.rest.trans h.rest, g.core.trans h.core⟩

theorem Sent.streamed {s q : State} (h : Sent c s q) : Streamed c s q := ⟨h.rest, (congrArg sansStream h.core :)⟩

theorem streamed_updCore {f : Core → Core} (h : ∀ x, sansStream (f x) = sansStream x) (s : State) : Streamed c s (updCore c f s) :=
  ⟨rfl, by rw [coreAt_updCore_same, h]⟩

theorem streamed_requestLine (hport : unitPort c = 0) (line : Nat) (s : State) : Streamed c s (requestLine c line s) :=
  .trans (streamed_updCore (f := fun x => { x with misses := x.misses ++ [⟨line, none⟩] }) (fun _ => rfl) s)
    (sent_injectEngine ((congrArg unitPort (src_towardAddr ..)).trans hport) _).streamed

theorem streamed_requestAhead (hport : unitPort c = 0) (a n : Nat) (s : State) : Streamed c s (requestAhead c a n s) := by
  unfold requestAhead
  generalize (linesOf a n).take 8 = lines
  induction lines generalizing s with
  | nil => exact .refl s
  | cons l lines ih =>
    refine .trans ?_ (ih _)
    dsimp only
    split
    · exact .refl s
    · exact streamed_requestLine hport l s

theorem sansStream_touchLines (l : List Nat) (x : Core) : sansStream (touchLines l x) = sansStream x := (congrArg sansStream (sansCache_touchLines l x) :)

theorem sansStream_updUnit_data (id : Nat) (l : List (List Byte)) (x : Core) : sansStream (updUnit id (fun u => { u with data := l }) x) = sansStream x := by
  have hunits : (updUnit id (fun u => { u with data := l }) x).units.map undata = x.units.map undata := by
    refine (List.map_map ..).trans (List.map_congr_left fun v _ => ?_)
    dsimp only [Function.comp]
    split <;> rfl
  rw [sansStream, hunits]
  rfl

theorem streamed_streamAhead (hport : unitPort c = 0) (s : State) : Streamed c s (streamAhead c s) := by
  unfold streamAhead
  dsimp only
  split
  · split
    · refine .trans (streamed_updCore (fun x => ?_) s) (streamed_requestAhead hport _ _ _)
      rw [sansStream_touchLines, sansStream_updUnit_data]
    · exact .refl s
  · exact .refl s

variable {s q : State} (h : Streamed c s q)
include h

theorem Streamed.mem : q.mem = s.mem := (congrArg State.mem h.rest :)
theorem Streamed.stackMem : q.stackMem = s.stackMem := (congrArg State.stackMem h.rest :)
theorem Streamed.threads : (coreAt q c).threads = (coreAt s c).threads := (congrArg Core.threads h.core :)
theorem Streamed.full : (coreAt q c).full = (coreAt s c).full := (congrArg Core.full h.core :)
theorem Streamed.units : (coreAt q c).units.map undata = (coreAt s c).units.map undata := (congrArg Core.units h.core :)

theorem Streamed.threadAt (n : Nat) : threadAt (coreAt q c) n = threadAt (coreAt s c) n := by rw [Machine.threadAt, Machine.threadAt, h.threads]

/-- An entry keeps all but its data. -/
theorem Streamed.entry {v : UnitEntry} (hv : v ∈ (coreAt s c).units) : ∃ w ∈ (coreAt q c).units, undata w = undata v :=
  List.mem_map.1 (h.units ▸ List.mem_map_of_mem hv)

end

/-! ### Taking an entry (R119) -/

/-- A new entry e is the last of the core of an instruction; `strip` takes off what else of entries may have changed. Registers, tags and
memory are as they were. -/
structure EntryTaken (strip : UnitEntry → UnitEntry) (k : Iss) (q : State) (e : UnitEntry) (t : State) : Prop where
  units : (coreAt t k.c).units.map strip = ((coreAt q k.c).units ++ [e]).map strip
  threads : (coreAt t k.c).threads = (coreAt q k.c).threads
  full : (coreAt t k.c).full = (coreAt q k.c).full
  mem : t.mem = q.mem
  stackMem : t.stackMem = q.stackMem

section
variable {strip : UnitEntry → UnitEntry} {k : Iss} {q t : State} {e : UnitEntry}

theorem entryTaken_taken (k : Iss) (e : UnitEntry) (reads : List Use) (q : State) : EntryTaken id k q e (entryTaken k e reads q) := by
  have hrec := sansRecords_hdRead k.c k.t k.pc.toNat k.cycle.toNat (reads.map useRng)
    (updCore k.c (fun x => { x with units := x.units ++ [e], nextId := x.nextId + 1 }) q)
  have hcore : coreAt (entryTaken k e reads q) k.c = { coreAt q k.c with units := (coreAt q k.c).units ++ [e], nextId := (coreAt q k.c).nextId + 1 } := by
    rw [entryTaken, coreAt_hdRead, coreAt_updCore_same]
  exact ⟨by rw [hcore], by rw [hcore], by rw [hcore], (congrArg State.mem hrec :), (congrArg State.stackMem hrec :)⟩

/-- The MVD on the path streams ahead. -/
theorem EntryTaken.streamAhead (hport : unitPort k.c = 0) (h : EntryTaken id k q e t) : EntryTaken undata k q e (streamAhead k.c t) := by
  have hs := streamed_streamAhead hport t
  have hunits := h.units
  rw [List.map_id, List.map_id] at hunits
  exact ⟨by rw [hs.units, hunits], hs.threads.trans h.threads, hs.full.trans h.full, hs.mem.trans h.mem, hs.stackMem.trans h.stackMem⟩

/-- Lines that the operands use are touched, and the detector sees the reads, before the entry is taken. -/
theorem EntryTaken.of_touched {l : List Nat} {rs : List Rng}
    (h : EntryTaken strip k (hdRead k.c k.t k.pc.toNat k.cycle.toNat rs (updCore k.c (touchLines l) q)) e t) : EntryTaken strip k q e t := by
  have hrec := sansRecords_hdRead k.c k.t k.pc.toNat k.cycle.toNat rs (updCore k.c (touchLines l) q)
  have hcore : sansCache (coreAt (hdRead k.c k.t k.pc.toNat k.cycle.toNat rs (updCore k.c (touchLines l) q)) k.c) = sansCache (coreAt q k.c) := by
    rw [coreAt_hdRead, coreAt_updCore_same, sansCache_touchLines]
  refine ⟨h.units.trans ?_, h.threads.trans (congrArg Core.threads hcore :), h.full.trans (congrArg Core.full hcore :),
    h.mem.trans (congrArg State.mem hrec :), h.stackMem.trans (congrArg State.stackMem hrec :)⟩
  exact congrArg (fun l => (l ++ [e]).map strip) (congrArg Core.units hcore :)

/-- The thread goes on behind the instruction that took the entry. -/
theorem EntryTaken.goesOn (h : EntryTaken strip k q e t) {kind : UnitKind} {ph : UPhase} {srcs : List Rng} (hkind : e.kind = kind)
    (hissue : e.word = k.word ∧ e.thread = k.t ∧ e.pc = k.pc) (hphase : e.phase = ph) (hsrcs : e.srcs = srcs) :
    let t' := issued k.c k.t k.cycle (k.pc + 8) t
    (∃ e, (coreAt t' k.c).units.map strip = ((coreAt q k.c).units ++ [e]).map strip ∧ e.kind = kind ∧ e.word = k.word ∧ e.thread = k.t ∧ e.pc = k.pc ∧
      e.phase = ph ∧ e.srcs = srcs) ∧ threadAt (coreAt t' k.c) k.t = { threadAt (coreAt q k.c) k.t with pc := k.pc + 8 } ∧
      t'.mem = q.mem ∧ t'.stackMem = q.stackMem ∧ (coreAt t' k.c).full = (coreAt q k.c).full := by
  obtain ⟨hword, hthread, hpc⟩ := hissue
  refine ⟨⟨e, ?_, hkind, hword, hthread, hpc, hphase, hsrcs⟩, ?_, h.mem, h.stackMem, ?_⟩
  · rw [coreAt_issued]
    exact h.units
  · rw [threadAt_issued_same, threadAt, threadAt, h.threads]
  · rw [coreAt_issued]
    exact h.full

end

end Sys2Proof.Machine
end

section
/-! Unit instructions at issue: MVD, MMA, MMAX, CVT, QCF and TOPK (R108, R119 to R126, R143, R148, R173). -/

namespace Sys2Proof.Machine

open Sys2Proof

/-! ### The entries of a core's units (R119) -/

theorem inPlace_of_kind (x : Core) (kind : UnitKind) : (unitsOfKind x kind).filter inPlace =
    x.units.filter fun u => u.kind == kind && (u.phase == .queued || u.phase == .running) := by
  rw [unitsOfKind, List.filter_filter]
  exact List.filter_congr fun u _ => Bool.and_comm ..

theorem entriesFull_eq_false {k : Iss} (h : k.x.units.length < 8) : entriesFull k = false := decide_eq_false (not_le.2 h)

/-- Whether an entry of the MV path or the edge converter runs at once: where no other holds a place of its unit. -/
def placePhase (x : Core) (kind : UnitKind) : UPhase := if ((unitsOfKind x kind).filter inPlace).isEmpty then .running else .queued

theorem placePhase_eq {x : Core} {kind : UnitKind} {l : List UnitEntry}
    (h : (x.units.filter fun u => u.kind == kind && (u.phase == .queued || u.phase == .running)) = l) :
    placePhase x kind = if l = [] then .running else .queued := by
  rw [placePhase, inPlace_of_kind, h]
  exact if_congr List.isEmpty_iff rfl rfl

/-- An instruction that only goes on (R4). -/
theorem Offered.skips {op : Nat} {i : Issue} {s q : State} {k : Iss} (h : Offered op i s k q) {body : Iss → State → IRes}
    (hbody : body k q = .done q (pcNext k)) : (.next (Machine.issue op i body s) : Result) = .next (issued k.c k.t k.cycle (k.pc + 8) q) := by
  rw [h.issue, hbody]
  rfl

/-- An instruction that takes an entry goes on behind it. -/
theorem Offered.issues {op : Nat} {i : Issue} {s q t : State} {k : Iss} (h : Offered op i s k q) {body : Iss → State → IRes}
    (hbody : body k q = .done t (pcNext k)) : (.next (Machine.issue op i body s) : Result) = .next (issued k.c k.t k.cycle (k.pc + 8) t) := by
  rw [h.issue, hbody]
  rfl

theorem Offered.port {op : Nat} {i : Issue} {s q : State} {k : Iss} (h : Offered op i s k q) : unitPort k.c = 0 := by
  rw [h.core]
  exact unitPort_coreId i.core

/-! ### MVD (R120, R143, R144) -/

/-- The entry of an MVD. -/
def mvdEntry (k : Iss) : UnitEntry := { newEntry k .mv (mvdUses k) [] [fs k 26 22] with phase := placePhase k.x .mv }

theorem mvdBody_empty {k : Iss} (hc : mvdCheck k = none) (hlen : fn k 26 22 = 0) (q : State) : mvdBody k q = .done q (pcNext k) := by
  simp only [mvdBody, hc, hlen, if_true]

theorem mvdBody_takes {k : Iss} {q : State} (hc : mvdCheck k = none) (hlen : fn k 26 22 ≠ 0) (hacc : accPending k (fw k 55 54) = false)
    (hgate : gateLines k.c (mvdUses k) [] q = none) (hplace : ((unitsOfKind k.x .mv).filter inPlace).length < 2) (hfree : k.x.units.length < 8) :
    mvdBody k q = .done (streamAhead k.c (entryTaken k (mvdEntry k) (mvdUses k) q)) (pcNext k) := by
  simp only [mvdBody, hc, if_neg hlen, hacc, hgate, entriesFull_eq_false hfree, decide_eq_false (not_le.2 hplace), Bool.or_self]
  rfl

/-! ### MMA and MMAX (R121, R122, R148, R247) -/

/-- The phase of a new entry of the array: it is staged at once where a buffer is free and no other is being staged. -/
def stagePhase (x : Core) : UPhase :=
  if decide (buffersUsed x < 2) && !(x.units.filter inArray).any (·.phase == .running) then .running else .queued

/-- The entry of an array instruction: with ACC its output is a source too. -/
def arrayEntry (k : Iss) : UnitEntry :=
  let e := newEntry k .array (arrayUses k) ((arrayUses k).drop 2) []
  { (if arrayAcc k.word then { e with srcs := (arrayUses k).map useRng, dstTagged := false } else e) with
    active := (k.x.units.filter inArray).isEmpty, phase := stagePhase k.x }

theorem arrayBody_takes {k : Iss} {q : State} (hc : arrayCheck k = none) (hgate : gate k.c (arrayUses k) q = none)
    (hplace : (k.x.units.filter inArray).length < 2) (hfree : k.x.units.length < 8)
    (hagain : ((k.x.units.filter inArray).any fun u => u.again && !u.active) = false) (hpermit : (unitsOf q (k.c / 4096)).permits.contains k.c = true) :
    arrayBody k q = .done (entryTaken k (arrayEntry k) ((arrayUses k).take (if arrayAcc k.word then 3 else 2)) q) (pcNext k) := by
  have hheld : (unitsOf q (fieldOfCore k.c)).permits.contains k.c = true := hpermit
  simp only [arrayBody, hc, hheld, hgate, entriesFull_eq_false hfree, decide_eq_false (not_le.2 hplace), hagain, Bool.or_self]
  rfl

theorem stagePhase_eq (x : Core) : stagePhase x =
    if buffersUsed x < 2 ∧ ((x.units.filter inArray).any fun u => u.phase == .running) = false then .running else .queued :=
  if_congr (by rw [Bool.and_eq_true, decide_eq_true_iff, Bool.not_eq_true']) rfl rfl

theorem srcs_arrayEntry (k : Iss) : (arrayEntry k).srcs = ((arrayUses k).take (if arrayAcc k.word then 3 else 2)).map useRng := by
  unfold arrayEntry
  cases arrayAcc k.word <;> rfl

theorem arrayEntry_issue (k : Iss) : (arrayEntry k).kind = .array ∧ (arrayEntry k).word = k.word ∧ (arrayEntry k).thread = k.t ∧ (arrayEntry k).pc = k.pc := by
  unfold arrayEntry
  cases arrayAcc k.word <;> exact ⟨rfl, rfl, rfl, rfl⟩

/-! ### CVT, QCF and TOPK (R124 to R126, R173) -/

theorem missBlock_of_gateLines {c : Nat} {us : List Use} {lines : List Nat} {s : State} (h : gateLines c us lines s = none) : missBlock c lines s = none := by
  unfold gateLines at h
  dsimp only at h
  split at h
  · cases h
  · split at h
    · cases h
    · split at h
      · cases h
      · split at h
        · cases h
        · exact h

/-- Reads that fail nowhere and miss no line. -/
theorem withReads_clear {k : Iss} {us : List Use} {s : State} (hread : useCheck k.c k.data us s = (s, none)) (hmiss : missBlock k.c (us.flatMap useLines) s = none)
    (go : State → IRes) : withReads k us s go =
      go (hdRead k.c k.t k.pc.toNat k.cycle.toNat (us.map useRng) (updCore k.c (touchLines (us.flatMap useLines)) s)) := by
  simp only [withReads, withPlainReads, hread, hmiss]

/-- Only uses behind the cache have lines. -/
theorem flatMap_useLines_cached (us : List Use) : (us.filter (·.h.cls == 2)).flatMap useLines = us.flatMap useLines := by
  induction us with
  | nil => rfl
  | cons u us ih =>
    by_cases hcls : u.h.cls = 2
    · rw [List.filter_cons_of_pos (by simpa using hcls), List.flatMap_cons, List.flatMap_cons, ih]
    · have hlines : useLines u = [] := if_neg fun h => hcls h.1
      rw [List.filter_cons_of_neg (by simpa using hcls), List.flatMap_cons, hlines, ih, List.nil_append]

/-- The entry of an edge instruction, with the bytes of its sources behind the cache. -/
def edgeEntry (k : Iss) (uses : List Use) (vals : List DWord) (data : List (List Byte)) : UnitEntry :=
  { newEntry k .edge uses (uses.filter (·.write)) vals with phase := placePhase k.x .edge, data := data }

section
variable {k : Iss} {q : State} {uses : List Use} (hgate : gateLines k.c uses ((uses.filter fun u => !u.write).flatMap useLines) q = none)
  (hplace : ((unitsOfKind k.x .edge).filter inPlace).length < 2) (hfree : k.x.units.length < 8)
  (hread : useCheck k.c k.data ((uses.filter fun u => !u.write).filter (·.h.cls == 2)) q = (q, none))
include hgate hplace hfree hread

/-- An edge instruction takes its entry, with what its sources behind the cache hold. -/
theorem edgeTake_takes (vals : List DWord) : ∃ data t, edgeTake k uses vals q = .done t (pcNext k) ∧ EntryTaken id k q (edgeEntry k uses vals data) t := by
  simp only [edgeTake, hgate, entriesFull_eq_false hfree, decide_eq_false (not_le.2 hplace), Bool.or_self]
  by_cases hcached : ((uses.filter fun u => !u.write).filter (·.h.cls == 2)).isEmpty
  · exact ⟨[], _, if_pos hcached, entryTaken_taken k (edgeEntry k uses vals []) _ q⟩
  · have hmiss := missBlock_of_gateLines hgate
    rw [← flatMap_useLines_cached] at hmiss
    exact ⟨_, _, (if_neg hcached).trans (withReads_clear hread hmiss _), .of_touched (entryTaken_taken k (edgeEntry k uses vals (List.map _ _)) _ _)⟩

end

section
variable {op : Nat} {i : Issue} {s q : State} {k : Iss} (h : Offered op i s k q)
include h

/-- An edge instruction that passes its checks and finds room issues with its entry. -/
theorem Offered.edgeIssues {body : Iss → State → IRes} {uses : List Use} {vals : List DWord} (hbody : body k q = edgeTake k uses vals q)
    (hgate : gateLines k.c uses ((uses.filter fun u => !u.write).flatMap useLines) q = none)
    (hplace : (k.x.units.filter fun u => u.kind == .edge && (u.phase == .queued || u.phase == .running)).length < 2) (hfree : k.x.units.length < 8)
    (hread : useCheck k.c i.data ((uses.filter fun u => !u.write).filter (·.h.cls == 2)) q = (q, none)) :
    ∃ t0 data, (.next (Machine.issue op i body s) : Result) = .next (issued k.c k.t k.cycle (k.pc + 8) t0) ∧
      EntryTaken id k q (edgeEntry k uses vals data) t0 := by
  rw [← inPlace_of_kind] at hplace
  rw [← h.errors] at hread
  obtain ⟨data, t, htake, htaken⟩ := edgeTake_takes hgate hplace hfree hread vals
  exact ⟨t, data, h.issues (hbody.trans htake), htaken⟩

end

theorem cvtBody_empty {k : Iss} (hc : cvtCheck k = none) (hlen : fn k 33 29 = 0) (q : State) : cvtBody k q = .done q (pcNext k) := by
  simp only [cvtBody, hc, hlen, if_true]

theorem cvtBody_edge {k : Iss} (hc : cvtCheck k = none) (hlen : fn k 33 29 ≠ 0) (q : State) :
    cvtBody k q = edgeTake k (cvtUses k) [fs k 33 29, fs k 20 16] q := by
  simp only [cvtBody, hc, if_neg hlen]

theorem topkBody_empty {k : Iss} (hc : topkCheck k = none) (hlen : fn k 28 24 = 0) (q : State) : topkBody k q = .done q (pcNext k) := by
  simp only [topkBody, hc, hlen, if_true]

theorem topkBody_edge {k : Iss} (hc : topkCheck k = none) (hlen : fn k 28 24 ≠ 0) (q : State) :
    topkBody k q = edgeTake k (topkUses k) [fs k 33 29, fs k 28 24, fs k 23 19] q := by
  simp only [topkBody, hc, if_neg hlen]

/-- Settles O13: each instruction issues with the entry given above, or only goes on. -/
theorem unitInstructionsTakeTheirEntry : Obligations.UnitInstructionsTakeTheirEntry := by
  unfold Obligations.UnitInstructionsTakeTheirEntry
  intro i s q k skip takes mv ed ar roomA phA srcA roomE
  have harray : ∀ {op}, Offered op i s k q → arrayCheck k = none → roomA → ∃ t, (.next (Machine.issue op i arrayBody s) : Result) = .next t ∧ takes id .array phA srcA t := by
    rintro op h hc ⟨hgate, hplace, hfree, hagain, hpermit⟩
    obtain ⟨hkind, hissue⟩ := arrayEntry_issue k
    exact ⟨_, h.issues (arrayBody_takes hc hgate hplace hfree hagain hpermit),
      (entryTaken_taken k (arrayEntry k) _ q).goesOn hkind hissue (stagePhase_eq k.x) (srcs_arrayEntry k)⟩
  have hedge : ∀ {op} {body : Iss → State → IRes} {uses : List Use} {vals : List DWord}, Offered op i s k q → body k q = edgeTake k uses vals q → roomE uses →
      ∃ t, (.next (Machine.issue op i body s) : Result) = .next t ∧
        takes id .edge (if ed = [] then .running else .queued) (uses.filter fun u => !u.write) t := by
    rintro op body uses vals h hbody ⟨hgate, hplace, hfree, hread⟩
    obtain ⟨t0, data, hexec, htaken⟩ := h.edgeIssues hbody hgate hplace hfree hread
    exact ⟨_, hexec, htaken.goesOn rfl ⟨rfl, rfl, rfl⟩ (placePhase_eq rfl) rfl⟩
  refine ⟨fun h hc hlen => h.skips (mvdBody_empty hc hlen q), fun h hc hlen hacc hgate hplace hfree => ?_, harray, harray,
    fun h hc hlen => h.skips (cvtBody_empty hc hlen q), fun h hc hlen hroom => hedge h (cvtBody_edge hc hlen q) hroom,
    fun h hc hlen => h.skips (cvtBody_empty hc hlen q), fun h hc hlen hroom => hedge h (cvtBody_edge hc hlen q) hroom,
    fun h hc hlen => h.skips (topkBody_empty hc hlen q), fun h hc hlen hroom => hedge h (topkBody_edge hc hlen q) hroom⟩
  have hplace' : ((unitsOfKind k.x .mv).filter inPlace).length < 2 := by rwa [inPlace_of_kind]
  exact ⟨_, h.issues (mvdBody_takes hc hlen hacc hgate hplace' hfree),
    ((entryTaken_taken k (mvdEntry k) (mvdUses k) q).streamAhead h.port).goesOn rfl ⟨rfl, rfl, rfl⟩ (placePhase_eq rfl) rfl⟩

end Sys2Proof.Machine
end

section
/-! Tally blocks: adds, sets, fires, registrations and wakes (R131 to R135, R137, R139, R403). -/

namespace Sys2Proof.Machine

open Sys2Proof

/-! ### What messages and fires leave as they were (R253) -/

/-- The engine without its cores, its routers, and the hazard detector's and the permits' units. -/
def sansFire (s : State) : State := { s with cores := [], routers := [], fieldUnits := [] }

theorem sansFire_injectEngine (r : Nat) (m : Msg) (s : State) : sansFire (injectEngine r m s) = sansFire s := by
  unfold injectEngine
  split <;> rfl

theorem sansFire_sendWake (key t : Nat) (w : Waiter) (s : State) : sansFire (sendWake key t w s) = sansFire s := by
  unfold sendWake
  cases w <;> exact sansFire_injectEngine ..

theorem sansFire_sendWakes (key t : Nat) (l : List WaitEntry) (s : State) : sansFire (l.foldl (fun s e => sendWake key t e.who s) s) = sansFire s := by
  induction l generalizing s with
  | nil => rfl
  | cons e l ih => rw [List.foldl_cons, ih, sansFire_sendWake]

theorem sansFire_hdFire (f i : Nat) (s : State) : sansFire (hdFire f i s) = sansFire s := by
  unfold hdFire
  split <;> rfl

section
variable {s t : State} (h : sansFire t = sansFire s)
include h

theorem tallies_of_sansFire : t.tallies = s.tallies := (congrArg State.tallies h :)
theorem tallyIn_of_sansFire : t.tallyIn = s.tallyIn := (congrArg State.tallyIn h :)
theorem waits_of_sansFire : t.waits = s.waits := (congrArg State.waits h :)

end

/-! ### A fire frees every waiter (R132, R134) -/

/-- The waiters of tally t in one wait list are woken and leave it. -/
def wakeList (t : Nat) (s : State) (key : Nat) : State :=
  let l := mget [] s.waits key
  let go := l.filter (·.tally == t)
  if go.isEmpty then s
  else go.foldl (fun s e => sendWake key t e.who s) { s with waits := mset [] s.waits key (l.filter (·.tally != t)) }

theorem wakeWaiters_eq (t : Nat) (s : State) : wakeWaiters t s = (waitKeys t).foldl (wakeList t) s := rfl

/-- Only the list's own waiters on t leave it. -/
theorem waits_wakeList (t : Nat) (s : State) (key w : Nat) :
    mget [] (wakeList t s key).waits w = if w = key then (mget [] s.waits w).filter (·.tally != t) else mget [] s.waits w := by
  unfold wakeList
  dsimp only
  split
  · rename_i hnone
    split
    · rename_i hw
      refine (List.filter_eq_self.2 fun e he => ?_).symm
      rw [bne_iff_ne]
      rintro rfl
      exact List.filter_eq_nil_iff.1 (List.isEmpty_iff.1 hnone) e (hw ▸ he) (beq_self_eq_true _)
    · rfl
  · rw [waits_of_sansFire (sansFire_sendWakes ..)]
    change mget [] (mset [] s.waits key _) w = _
    rw [mget_mset]
    by_cases hw : w = key
    · subst hw
      simp only [if_true]
    · rw [if_neg hw, if_neg (Ne.symm hw)]

theorem wakeList_parts (t : Nat) (s : State) (key : Nat) : (wakeList t s key).tallies = s.tallies ∧ (wakeList t s key).tallyIn = s.tallyIn := by
  unfold wakeList
  dsimp only
  split
  · exact ⟨rfl, rfl⟩
  · exact ⟨(tallies_of_sansFire (sansFire_sendWakes ..) :), (tallyIn_of_sansFire (sansFire_sendWakes ..) :)⟩

theorem waits_foldl_wakeList (t : Nat) (keys : List Nat) (s : State) (w : Nat) :
    mget [] (keys.foldl (wakeList t) s).waits w = if w ∈ keys then (mget [] s.waits w).filter (·.tally != t) else mget [] s.waits w := by
  induction keys generalizing s with
  | nil => rfl
  | cons key keys ih =>
    rw [List.foldl_cons, ih, waits_wakeList]
    by_cases hw : w = key
    · subst hw
      simp only [if_true, List.filter_filter, Bool.and_self, ite_self, List.mem_cons_self]
    · simp only [List.mem_cons, hw, if_false, false_or]

theorem wakeWaiters_parts (t : Nat) (s : State) : (wakeWaiters t s).tallies = s.tallies ∧ (wakeWaiters t s).tallyIn = s.tallyIn := by
  rw [wakeWaiters_eq]
  generalize waitKeys t = keys
  induction keys generalizing s with
  | nil => exact ⟨rfl, rfl⟩
  | cons key keys ih => exact ⟨(ih _).1.trans (wakeList_parts ..).1, (ih _).2.trans (wakeList_parts ..).2⟩

/-- No waiter on the tally is left. -/
theorem wakeWaiters_frees (t : Nat) (s : State) : ∀ w ∈ waitKeys t, ∀ e ∈ mget [] (wakeWaiters t s).waits w, e.tally ≠ t := by
  intro w hw e he
  rw [wakeWaiters_eq, waits_foldl_wakeList, if_pos hw] at he
  exact bne_iff_ne.1 (List.mem_filter.1 he).2

/-! ### A tally takes its value (R132) -/

/-- Tally k takes value y, its waiters leave their lists if its EPOCH changes, and no other tally and no message changes. -/
structure TallyTakes (k : Nat) (y : Tally) (s t : State) : Prop where
  value : tallyAt t k = y
  others : ∀ j, j ≠ k → tallyAt t j = tallyAt s j
  stays : y.epoch = (tallyAt s k).epoch → t.waits = s.waits
  fires : y.epoch ≠ (tallyAt s k).epoch → ∀ w ∈ waitKeys k, ∀ e ∈ mget [] t.waits w, e.tally ≠ k
  messages : t.tallyIn = s.tallyIn

theorem tallyAt_setTally (k j : Nat) (y : Tally) (s : State) : tallyAt (setTally k y s) j = if k = j then y else tallyAt s j := mget_mset ..

theorem tallyPut_takes (k : Nat) (y : Tally) (s : State) : TallyTakes k y s (tallyPut k y s) := by
  have hset : ∀ t : State, t.tallies = (setTally k y s).tallies → tallyAt t k = y ∧ ∀ j, j ≠ k → tallyAt t j = tallyAt s j := by
    intro t ht
    have hat : ∀ j, tallyAt t j = if k = j then y else tallyAt s j := fun j => by rw [← tallyAt_setTally, tallyAt, tallyAt, ht]
    exact ⟨(hat k).trans (if_pos rfl), fun j hj => (hat j).trans (if_neg hj.symm)⟩
  by_cases hep : y.epoch = (tallyAt s k).epoch
  · rw [tallyPut, if_pos hep]
    obtain ⟨hval, hothers⟩ := hset _ rfl
    exact ⟨hval, hothers, fun _ => rfl, fun hne => absurd hep hne, rfl⟩
  · rw [tallyPut, if_neg hep]
    have hfire : sansFire (if k < 30720 then hdFire (k / 384) (k % 384) (setTally k y s) else setTally k y s) = sansFire (setTally k y s) := by
      split
      · exact sansFire_hdFire ..
      · rfl
    obtain ⟨htallies, hmsgs⟩ := wakeWaiters_parts k (if k < 30720 then hdFire (k / 384) (k % 384) (setTally k y s) else setTally k y s)
    obtain ⟨hval, hothers⟩ := hset _ (htallies.trans (tallies_of_sansFire hfire))
    exact ⟨hval, hothers, fun heq => absurd heq hep, fun _ => wakeWaiters_frees k _, hmsgs.trans (tallyIn_of_sansFire hfire :)⟩

/-- R132 in numbers: COUNT goes on modulo TARGET, and EPOCH counts how often it passed it. -/
theorem addTo_eq (tgt : Nat) (y : Tally) (v : Nat) : addTo tgt y v = if tgt = 0 then ⟨BitVec.ofNat 24 (y.count.toNat + v), y.epoch⟩
    else ⟨BitVec.ofNat 24 ((y.count.toNat + v) % tgt), BitVec.ofNat 16 (y.epoch.toNat + (y.count.toNat + v) / tgt)⟩ := by
  have hepoch : ∀ n, y.epoch + BitVec.ofNat 16 n = BitVec.ofNat 16 (y.epoch.toNat + n) := fun n => by rw [BitVec.ofNat_add, BitVec.ofNat_toNat, BitVec.setWidth_eq]
  unfold addTo
  dsimp only
  split
  · rfl
  · rw [hepoch]

/-! ### The message at the front of a block (R134, R135, R403) -/

/-- The engine after the front message of a tally block has left it. -/
def tallyPopped (b : Nat) (l : List (Nat × Msg)) (s : State) : State := { s with tallyIn := mset [] s.tallyIn b l }

section
variable {b : Nat} {q : Nat × Msg} {l : List (Nat × Msg)} {s : State} (hdark : b < 80 → isDark s b = false) (hfront : mget [] s.tallyIn b = q :: l)
  (hfence : fenceOwner s q.2.src (mfind s.tallyOwner q.2.tally) = true)
include hdark hfront hfence

/-- A row does what it does with a front message of its kind that the fence passes, which leaves the block. -/
theorem tallyRow_front {op : TallyOp} (hop : q.2.op = op) (act : Nat → Msg → State → State) :
    tallyRow b op act s = act q.1 q.2 (tallyPopped b l s) := by
  have hlit : ¬ (b < 80 ∧ isDark s b = true) := fun h => by simp [hdark h.1] at h
  have hpass : fenceOwner (tallyPopped b l s) q.2.src (mfind s.tallyOwner q.2.tally) = true := hfence
  simp only [tallyRow, tallyFront, if_neg hlit, hfront, hop, if_true, tallyFenced]
  exact if_pos hpass

theorem exec_tallyUpdate {op : TallyOp} (hop : q.2.op = op) {y : Tally} {act : Nat → Msg → State → State}
    (hact : act q.1 q.2 (tallyPopped b l s) = tallyPut q.2.tally y (tallyPopped b l s)) :
    mget [] (tallyRow b op act s).tallyIn b = l ∧ TallyTakes q.2.tally y (tallyPopped b l s) (tallyRow b op act s) := by
  rw [tallyRow_front hdark hfront hfence hop, hact]
  have htakes := tallyPut_takes q.2.tally y (tallyPopped b l s)
  exact ⟨by rw [htakes.messages]; exact mget_mset_same .., htakes⟩

end

/-- A refused registration leaves tallies, lists and messages, and its core repeats it (R135). -/
theorem refuseWait_parts (b : Nat) (w : Waiter) (s : State) : (refuseWait b w s).tallies = s.tallies ∧ (refuseWait b w s).waits = s.waits ∧
    (refuseWait b w s).tallyIn = s.tallyIn := by
  by_cases hb : b < 80
  · simp only [refuseWait, if_pos hb]
    cases w <;> exact ⟨rfl, rfl, rfl⟩
  · simp only [refuseWait, if_neg hb]
    cases w <;> exact ⟨rfl, rfl, rfl⟩

theorem refuseWait_thread (b c t : Nat) (s : State) : t ∈ (coreAt (refuseWait b (.thread c t) s) c).refused := by
  unfold refuseWait
  dsimp only
  rw [coreAt_updCore_same]
  exact mem_insertAsc.2 (.inl rfl)

/-- The wait list of port p of block b. -/
theorem portKey_eq (b p : Nat) : (if b < 80 then 4 * b + p else 320 + (b - 80)) = if b < 80 then 4 * b + p else 240 + b := by
  split <;> omega

section
variable {b p key : Nat} {m : Msg} {s : State} (hkey : (if b < 80 then 4 * b + p else 240 + b) = key)
include hkey

theorem tallyRegister_answered (hep : (tallyAt s m.tally).epoch ≠ m.epoch) : tallyRegister b p m s = sendWake key m.tally (waiterOf m) s := by
  rw [tallyRegister, if_pos hep, portKey_eq, hkey]

theorem tallyRegister_listed (hep : (tallyAt s m.tally).epoch = m.epoch) (hroom : (mget [] s.waits key).length < 16) : tallyRegister b p m s =
    { s with waits := mset [] s.waits key (mget [] s.waits key ++ [⟨m.tally, m.epoch, waiterOf m⟩]) } := by
  rw [tallyRegister, if_neg (not_not.2 hep), portKey_eq, hkey, if_neg (not_le.2 hroom)]

theorem tallyRegister_refused (hep : (tallyAt s m.tally).epoch = m.epoch) (hfull : 16 ≤ (mget [] s.waits key).length) :
    tallyRegister b p m s = refuseWait b (waiterOf m) s := by
  rw [tallyRegister, if_neg (not_not.2 hep), portKey_eq, hkey, if_pos hfull]

/-- No registration changes a tally or a message. -/
theorem tallyRegister_parts : (tallyRegister b p m s).tallies = s.tallies ∧ (tallyRegister b p m s).tallyIn = s.tallyIn := by
  by_cases hep : (tallyAt s m.tally).epoch = m.epoch
  · by_cases hfull : 16 ≤ (mget [] s.waits key).length
    · rw [tallyRegister_refused hkey hep hfull]
      obtain ⟨htallies, -, hmsgs⟩ := refuseWait_parts b (waiterOf m) s
      exact ⟨htallies, hmsgs⟩
    · rw [tallyRegister_listed hkey hep (not_le.1 hfull)]
      exact ⟨rfl, rfl⟩
  · rw [tallyRegister_answered hkey hep]
    exact ⟨tallies_of_sansFire (sansFire_sendWake ..), tallyIn_of_sansFire (sansFire_sendWake ..)⟩

end

/-! ### Replies at a core (R134, R135) -/

theorem tallyWord_wake (v : Nat) (e : BitVec 16) : tallyWord ⟨BitVec.ofNat 24 v, e⟩ = BitVec.ofNat 64 (2 ^ 16 * (v % 2 ^ 24) + e.toNat) := by
  rw [tallyWord, BitVec.toNat_ofNat]

/-- A wake of another EPOCH than the one expected completes TWAIT. -/
theorem wakeReply_completes {c : Nat} {m : Msg} {s : State} {num : Nat} {expect : BitVec 16} {d : Nat}
    (hst : (threadAt (coreAt s c) m.thread).st = .blocked) (hwait : (threadAt (coreAt s c) m.thread).wait = .tally num expect d)
    (hmet : (threadAt (coreAt s c) m.thread).met = false) (hnum : m.tally = num) (hep : m.epoch ≠ expect) : wakeReply c m s =
      setCore c (setThread m.thread { setS d (BitVec.ofNat 64 (2 ^ 16 * (m.value % 2 ^ 24) + m.epoch.toNat)) (threadAt (coreAt s c) m.thread) with
        pc := (threadAt (coreAt s c) m.thread).pc + 8, met := true } (coreAt s c)) s := by
  have hmine : ((threadAt (coreAt s c) m.thread).met || num != m.tally) = false := by rw [hmet, hnum, bne_self_eq_false]; rfl
  simp only [wakeReply, hst, hwait, tallyWord_wake]
  exact (if_neg (by rw [hmine]; decide)).trans (if_neg hep)

/-- The oldest wake of a core is taken up (R134). -/
theorem exec_tallyWakeReply {c : CoreRef} {m : Msg} {l : List Msg} {s : State} (hdark : isDark s (coreId c / 4096) = false)
    (hwakes : (coreAt s (coreId c)).wakes = m :: l) :
    exec (.tallyWakeReply c) s = .next (wakeReply (coreId c) m (updCore (coreId c) (fun x => { x with wakes := l }) s)) := by
  have hlit : isDark s (fieldOfCore (coreId c)) = false := hdark
  refine congrArg Host.Outcome.next ?_
  simp only [tallyWakeReply, hlit, hwakes]

/-- The registration of a thread, as it is sent again. -/
def regMsg (s : State) (c t num : Nat) (expect : BitVec 16) : Msg :=
  towardTally s c num { msgNull with cls := .tally, op := .reg, src := c, epoch := expect, thread := t }

theorem regMsg_fields (s : State) (c t num : Nat) (expect : BitVec 16) : (regMsg s c t num expect).cls = .tally ∧ (regMsg s c t num expect).op = .reg ∧
    (regMsg s c t num expect).tally = num ∧ (regMsg s c t num expect).epoch = expect ∧ (regMsg s c t num expect).thread = t := by
  have hroute := sansRoute_towardTally s c num { msgNull with cls := .tally, op := .reg, src := c, epoch := expect, thread := t }
  exact ⟨(congrArg Msg.cls hroute :), (congrArg Msg.op hroute :), tally_towardTally .., (congrArg Msg.epoch hroute :), (congrArg Msg.thread hroute :)⟩

/-- A refused registration goes out again (R135). -/
theorem exec_tallyRegRetry {c : CoreRef} {j : Fin 16} {s : State} {num : Nat} {expect : BitVec 16} {d : Nat} (hdark : isDark s (coreId c / 4096) = false)
    (hrefused : (coreAt s (coreId c)).refused.contains j.val = true) (hst : (threadAt (coreAt s (coreId c)) j.val).st = .blocked)
    (hwait : (threadAt (coreAt s (coreId c)) j.val).wait = .tally num expect d) : exec (.tallyRegRetry c j) s =
      let t := updCore (coreId c) (fun x => { x with refused := without j.val x.refused }) s
      .next (injectEngine (coreId c) (regMsg t (coreId c) j.val num expect) t) := by
  have hgo : (isDark s (fieldOfCore (coreId c)) || !(coreAt s (coreId c)).refused.contains j.val) = false := by
    rw [hrefused, Bool.not_true, Bool.or_false]
    exact hdark
  refine congrArg Host.Outcome.next ((if_neg (by rw [hgo]; decide)).trans ?_)
  simp only [hst, hwait]
  rfl

/-- Settles O20: each row of a block, each command and each reply does what is stated of it above. -/
theorem talliesAddFireAndWake : Obligations.TalliesAddFireAndWake := by
  unfold Obligations.TalliesAddFireAndWake
  intro s add takes front
  have htakes : ∀ {m k y t v}, TallyTakes k y { s with tallyIn := m } t → y = v → takes k v t := fun h hy => hy ▸ ⟨h.value, h.others, h.stays, h.fires⟩
  refine ⟨?_, ?_, ?_, ?_, ?_, ?_⟩
  · rintro b q l ⟨hdark, hfront, hfence⟩ hop
    obtain ⟨hmsgs, hval⟩ := exec_tallyUpdate hdark hfront hfence hop (act := fun _ m => tallyAdd m.tally m.value) rfl
    exact ⟨_, rfl, hmsgs, htakes hval (addTo_eq ..)⟩
  · rintro b q l ⟨hdark, hfront, hfence⟩ hop
    obtain ⟨hmsgs, hval⟩ := exec_tallyUpdate hdark hfront hfence hop (act := fun _ m => tallySet m.tally m.value) rfl
    exact ⟨_, rfl, hmsgs, htakes hval (addTo_eq ..)⟩
  · rintro b q l ⟨hdark, hfront, hfence⟩ hop key
    refine ⟨_, congrArg Host.Outcome.next (tallyRow_front hdark hfront hfence hop (tallyRegister b.val)), ?_, ?_, fun hep => ?_, fun hep hroom => ?_,
      fun hep hfull => ?_⟩
    · rw [(tallyRegister_parts rfl).2]
      exact mget_mset_same ..
    · exact (tallyRegister_parts rfl).1
    · rw [tallyRegister_answered (s := tallyPopped b.val l s) rfl hep]
      exact (waits_of_sansFire (sansFire_sendWake ..) :)
    · rw [tallyRegister_listed (s := tallyPopped b.val l s) rfl hep hroom]
      exact mget_mset_same ..
    · rw [tallyRegister_refused (s := tallyPopped b.val l s) rfl hep hfull]
      refine ⟨(refuseWait_parts ..).2.1, fun hcore => ?_⟩
      rw [waiterOf, if_pos hcore]
      exact refuseWait_thread ..
  · intro m f v hreach hdark k
    refine ⟨fun hv => ⟨⟨_, ?_, htakes (tallyPut_takes k _ s) (addTo_eq ..)⟩, ⟨_, ?_, htakes (tallyPut_takes k _ s) (addTo_eq ..)⟩⟩, fun hv => ?_, ?_⟩
    · exact congrArg Host.Outcome.next ((onPage_acts hreach hdark).trans (if_neg hv))
    · exact congrArg Host.Outcome.next ((onPage_acts hreach hdark).trans (if_neg hv))
    · refine ⟨_, congrArg Host.Outcome.next ((onPage_acts hreach hdark).trans (if_pos hv)), ?_, errValid_recordErr ..⟩
      exact (congrArg State.tallies (offRegs_recordErrAny ..) :)
    · exact ⟨_, congrArg Host.Outcome.next (onPage_acts hreach hdark), (wakeWaiters_parts k s).1, wakeWaiters_frees k s⟩
  · intro c y l num expect d hdark hwakes th hst hwait hmet hnum hep
    have hcore : coreAt (updCore (coreId c) (fun x => { x with wakes := l }) s) (coreId c) = { coreAt s (coreId c) with wakes := l } := coreAt_updCore_same ..
    have hth : threadAt (coreAt (updCore (coreId c) (fun x => { x with wakes := l }) s) (coreId c)) y.thread = th := by rw [hcore]; rfl
    refine ⟨_, (exec_tallyWakeReply hdark hwakes).trans (congrArg Host.Outcome.next
      (wakeReply_completes (by rw [hth]; exact hst) (by rw [hth]; exact hwait) (by rw [hth]; exact hmet) hnum hep)), ?_, ?_⟩
    · rw [coreAt_setCore_same, hcore]
      rfl
    · rw [coreAt_setCore_same, threadAt_setThread_same, hth]
  · intro c j num expect d hdark hrefused th hst hwait
    exact ⟨_, exec_tallyRegRetry hdark hrefused hst hwait, regMsg_fields ..⟩

end Sys2Proof.Machine
end

section
/-! Events of the MV path, the matrix array and the edge converter, and permits (R119, R142 to R144, R147 to R154, R173, R247). -/

namespace Sys2Proof.Machine

open Sys2Proof

/-! ### Entries as a unit goes on (R119, R148) -/

section
variable {id : Nat} {ph : UPhase} {x : Core} {u v : UnitEntry}

theorem updated_mem (hu : u ∈ x.units) (f : UnitEntry → UnitEntry) : f u ∈ (updUnit u.id f x).units := mem_updUnit.2 ⟨u, hu, if_pos rfl⟩

/-- A change of another entry leaves it. -/
theorem kept_mem (hv : v ∈ x.units) {n : Nat} (hn : n ≠ v.id) (f : UnitEntry → UnitEntry) : v ∈ (updUnit n f x).units :=
  mem_updUnit.2 ⟨v, hv, if_neg hn.symm⟩

theorem Stands.kept_startWaiting (h : Stands v.id ph x) (hph : ph ≠ .queued) (hv : v ∈ x.units) (kind : UnitKind) : v ∈ (Machine.startWaiting kind x).units := by
  unfold Machine.startWaiting
  split
  · rename_i w hw
    obtain ⟨hmem, hqueued⟩ := unitIn_some hw
    exact kept_mem hv (h.ne_of_phase hmem (by rw [hqueued]; exact hph.symm)) _
  · exact hv

theorem Stands.kept_beginStaging (h : Stands v.id ph x) (hph : ph ≠ .queued) (hv : v ∈ x.units) : v ∈ (Machine.beginStaging x).units := by
  unfold Machine.beginStaging
  split
  · exact hv
  · split
    · rename_i w hw
      obtain ⟨hmem, hqueued⟩ := unitIn_some hw
      exact kept_mem hv (h.ne_of_phase hmem (by rw [hqueued]; exact hph.symm)) _
    · exact hv

/-- What starts to stream is the first entry that holds a place of the array, and it was staged. -/
theorem beginStream_cases (x : Core) : beginStream x = x ∨
    ∃ w ∈ x.units, w.phase = .staged ∧ beginStream x = updUnit w.id (fun u => { u with phase := .streaming, active := true }) x := by
  unfold beginStream
  split
  · rename_i w hw
    dsimp only
    split
    · rename_i hgo
      simp only [Bool.and_eq_true] at hgo
      exact .inr ⟨w, List.mem_of_find?_eq_some hw, eq_of_beq hgo.1.1, rfl⟩
    · exact .inl rfl
  · exact .inl rfl

theorem beginStaging_cases (x : Core) : beginStaging x = x ∨ ∃ n, beginStaging x = updUnit n (fun u => { u with phase := .running }) x := by
  unfold beginStaging
  split
  · exact .inl rfl
  · split
    · exact .inr ⟨_, rfl⟩
    · exact .inl rfl

/-- A formed entry stays as it is when the array goes on. -/
theorem Stands.kept_arrayAdvance (h : Stands v.id .formed x) (hv : v ∈ x.units) : v ∈ (Machine.arrayAdvance x).units := by
  rw [Machine.arrayAdvance]
  rcases beginStream_cases x with heq | ⟨w, hw, hstaged, heq⟩
  · rw [heq]
    exact h.kept_beginStaging (by decide) hv
  · have hne : w.id ≠ v.id := h.ne_of_phase hw (by rw [hstaged]; decide)
    rw [heq]
    exact (h.updUnit_ne hne (f := fun u => { u with phase := .streaming, active := true }) fun _ => rfl).kept_beginStaging (by decide) (kept_mem hv hne _)

/-- A staged entry stays as it is when the array goes on, or it streams. -/
theorem Stands.staged_arrayAdvance (h : Stands v.id .staged x) (hv : v ∈ x.units) :
    v ∈ (Machine.arrayAdvance x).units ∨ { v with phase := .streaming, active := true } ∈ (Machine.arrayAdvance x).units := by
  rw [Machine.arrayAdvance]
  rcases beginStream_cases x with heq | ⟨w, hw, -, heq⟩
  · rw [heq]
    exact .inl (h.kept_beginStaging (by decide) hv)
  · rw [heq]
    by_cases hid : w.id = v.id
    · rw [hid]
      refine .inr (Stands.kept_beginStaging (ph := .streaming) ?_ (by decide) (updated_mem hv fun u => { u with phase := .streaming, active := true }))
      exact stands_updUnit hv (fun _ => rfl) fun _ => rfl
    · exact .inl ((h.updUnit_ne hid (f := fun u => { u with phase := .streaming, active := true }) fun _ => rfl).kept_beginStaging (by decide) (kept_mem hv hid _))

end

/-- An entry without its phase and its hold of the active place. -/
def sansPhase (u : UnitEntry) : UnitEntry := { u with phase := .queued, active := false }

/-- A core without its unit entries. -/
def sansUnits (x : Core) : Core := { x with units := [] }

theorem sansPhase_updUnit {f : UnitEntry → UnitEntry} (hf : ∀ u, sansPhase (f u) = sansPhase u) (n : Nat) (x : Core) :
    (updUnit n f x).units.map sansPhase = x.units.map sansPhase := by
  refine (List.map_map ..).trans (List.map_congr_left fun u _ => ?_)
  dsimp only [Function.comp]
  split
  · exact hf u
  · rfl

/-- The array goes on: phases change, and which entry holds the active place. -/
theorem arrayAdvance_parts (x : Core) : (arrayAdvance x).units.map sansPhase = x.units.map sansPhase ∧ sansUnits (arrayAdvance x) = sansUnits x := by
  have hstage : ∀ y, (beginStaging y).units.map sansPhase = y.units.map sansPhase ∧ sansUnits (beginStaging y) = sansUnits y := by
    intro y
    rcases beginStaging_cases y with heq | ⟨n, heq⟩
    · rw [heq]
      exact ⟨rfl, rfl⟩
    · rw [heq]
      exact ⟨sansPhase_updUnit (f := fun u => { u with phase := .running }) (fun _ => rfl) n y, rfl⟩
  rw [arrayAdvance, (hstage _).1, (hstage _).2]
  rcases beginStream_cases x with heq | ⟨w, -, -, heq⟩
  · rw [heq]
    exact ⟨rfl, rfl⟩
  · rw [heq]
    exact ⟨sansPhase_updUnit (f := fun u => { u with phase := .streaming, active := true }) (fun _ => rfl) _ x, rfl⟩

theorem full_arrayAdvance (x : Core) : (arrayAdvance x).full = x.full := (congrArg Core.full (arrayAdvance_parts x).2 :)

/-- An entry that takes its end in a unit with a queue behind it: it is formed, and the next of the queue starts. -/
theorem formed_startWaiting {x : Core} {u : UnitEntry} (hu : u ∈ x.units) {f : UnitEntry → UnitEntry} (hid : ∀ v, (f v).id = v.id)
    (hph : ∀ v, (f v).phase = .formed) (kind : UnitKind) : f u ∈ (startWaiting kind (updUnit u.id f x)).units :=
  Stands.kept_startWaiting (ph := .formed) (hid u ▸ stands_updUnit hu hid hph) (by decide) (updated_mem hu f) kind

theorem formed_arrayAdvance {x : Core} {u : UnitEntry} (hu : u ∈ x.units) {f : UnitEntry → UnitEntry} (hid : ∀ v, (f v).id = v.id)
    (hph : ∀ v, (f v).phase = .formed) : f u ∈ (arrayAdvance (updUnit u.id f x)).units :=
  Stands.kept_arrayAdvance (hid u ▸ stands_updUnit hu hid hph) (updated_mem hu f)

theorem staged_arrayAdvance {x : Core} {u : UnitEntry} (hu : u ∈ x.units) {f : UnitEntry → UnitEntry} (hid : ∀ v, (f v).id = v.id)
    (hph : ∀ v, (f v).phase = .staged) : f u ∈ (arrayAdvance (updUnit u.id f x)).units ∨
      { f u with phase := .streaming, active := true } ∈ (arrayAdvance (updUnit u.id f x)).units :=
  Stands.staged_arrayAdvance (hid u ▸ stands_updUnit hu hid hph) (updated_mem hu f)

theorem regA_metBy (p : WaitOn → Bool) (th : Thread) (k : Nat) : regA (metBy p th) k = regA th k := by
  unfold metBy
  split <;> rfl

theorem regA_retireUnit (c id t k : Nat) (s : State) : regA (threadAt (coreAt (retireUnit c id s) c) t) k = regA (threadAt (coreAt s c) t) k := by
  rw [retireUnit, coreAt_updCore_same, threadAt_meetWaits, regA_metBy]
  rfl

theorem units_retireUnit (c id : Nat) (s : State) : (coreAt (retireUnit c id s) c).units = (coreAt s c).units.filter (·.id ≠ id) := by
  rw [retireUnit, coreAt_updCore_same]
  rfl

theorem full_retireUnit (c id : Nat) (s : State) : (coreAt (retireUnit c id s) c).full = (coreAt s c).full := by
  rw [retireUnit, coreAt_updCore_same]
  rfl

/-! ### The MV path (R142 to R144) -/

/-- The state in which an MVD's lanes are formed and the next MVD starts. -/
def mvdFormed (c id : Nat) (lanes : List Word) (s : State) : State :=
  nextMvd c (updCore c (updUnit id fun u => { u with phase := .formed, lanes := lanes, data := [] }) s)

theorem mvdFormed_formed {c : Nat} (hport : unitPort c = 0) {s : State} {u : UnitEntry} (hu : u ∈ (coreAt s c).units) (lanes : List Word) :
    (∃ v ∈ (coreAt (mvdFormed c u.id lanes s) c).units, v.id = u.id ∧ v.phase = .formed ∧ v.lanes = lanes) ∧ (mvdFormed c u.id lanes s).mem = s.mem := by
  have hstream := streamed_streamAhead hport (updCore c (startWaiting .mv) (updCore c (updUnit u.id fun u => { u with phase := .formed, lanes := lanes, data := [] }) s))
  obtain ⟨v, hv, hsame⟩ := hstream.entry (v := { u with phase := .formed, lanes := lanes, data := [] }) (by
    rw [coreAt_updCore_same, coreAt_updCore_same]
    exact formed_startWaiting (f := fun u => { u with phase := .formed, lanes := lanes, data := [] }) hu (fun _ => rfl) (fun _ => rfl) .mv)
  exact ⟨⟨v, hv, (congrArg UnitEntry.id hsame :), (congrArg UnitEntry.phase hsame :), (congrArg UnitEntry.lanes hsame :)⟩, hstream.mem⟩

/-- Bytes of lines that are all there are taken whole (R144). -/
theorem cacheRun_present {x : Core} {a n : Nat} (h : ∀ j < n, (mfind x.cache ((a + j) / 256)).isSome = true) : cacheRun x a n = cacheRead x a n := by
  induction n generalizing a with
  | zero => rfl
  | succ n ih =>
    have hrest : cacheRun x (a + 1) n = cacheRead x (a + 1) n := ih fun j hj => by
      rw [Nat.add_assoc, Nat.add_comm 1]
      exact h (j + 1) (by omega)
    obtain ⟨e, he⟩ := Option.isSome_iff_exists.1 (h 0 (by omega))
    rw [Nat.add_zero] at he
    simp only [cacheRun, cacheRead, he, hrest]

theorem mem_linesOf {a n j : Nat} (hj : j < n) : (a + j) / 256 ∈ linesOf a n := by
  rw [linesOf, if_neg (by omega)]
  exact List.mem_map.2 ⟨(a + j) / 256 - a / 256, List.mem_range.2 (by omega), by omega⟩

/-- The weight bytes of an MVD whose streaming ends: in its entry where they lie behind the cache, in the store otherwise. -/
def mvdWeights (c : Nat) (u : UnitEntry) (s : State) : List Byte :=
  if u.srcs.any (·.stack) then u.data.headD [] else storeRead s c (u.addrs.getD 0 0) (mvdBytes u)

/-- The lines of an MVD's weights behind the cache. -/
def mvdLines (u : UnitEntry) : List Nat := if u.srcs.any (·.stack) then linesOf (u.addrs.getD 0 0) (mvdBytes u) else []

/-- An MVD that has all its weight bytes, its operands read without error, is formed. -/
theorem mvdStreamEnd_formed {c : Nat} {chk : StoreCheck} {s q : State} {u : UnitEntry} (hahead : streamAhead c s = q)
    (hu : unitIn (coreAt q c) .mv .running = some u) (hlen : (mvdWeights c u q).length = mvdBytes u)
    (hcheck : accessCheck c chk u.srcs (mvdLines u) q = (q, none)) :
    mvdStreamEnd c chk s = mvdFormed c u.id (mvdResult (coreAt q c) u (u.vals.getD 0 0).toNat (mvdWeights c u q)
      (storeRead q c (u.addrs.getD 1 0) ((u.vals.getD 0 0).toNat + (u.vals.getD 0 0).toNat / 32))) q := by
  simp only [mvdStreamEnd, hahead, hu]
  simp only [mvdLines] at hcheck
  rw [hcheck]
  exact (if_neg (hlen.symm.not_gt :)).trans (if_neg (lt_irrefl _))

section
variable {c : Nat} {chk : StoreCheck} {s : State} {u : UnitEntry} (hu : unitIn (coreAt s c) .mv .running = some u)
include hu

/-- An MVD whose operands lie in the store, read without error. -/
theorem mvdStreamEnd_stored (hsrc : u.srcs.any (·.stack) = false) (hread : readCheck c chk u.srcs s = (s, none)) :
    mvdStreamEnd c chk s = mvdFormed c u.id (storedLanes c u s) s := by
  have hahead : streamAhead c s = s := by
    simp only [streamAhead, hu, hsrc]
    rfl
  have hweights : mvdWeights c u s = storeRead s c (u.addrs.getD 0 0) (mvdBytes u) := by rw [mvdWeights, hsrc, if_neg Bool.false_ne_true]
  have hlines : mvdLines u = [] := by rw [mvdLines, hsrc, if_neg Bool.false_ne_true]
  rw [mvdStreamEnd_formed hahead hu (by rw [hweights, storeRead, length_readMem]) (by rw [hlines]; exact hread), hweights]
  rfl

/-- The state in which an MVD behind the cache has taken all its weight bytes. -/
def weightsTaken (c : Nat) (u : UnitEntry) (s : State) : State :=
  updCore c (fun x => touchLines (linesOf (u.addrs.getD 0 0) (mvdBytes u))
    (updUnit u.id (fun v => { v with data := [cacheRead (coreAt s c) (u.addrs.getD 0 0) (mvdBytes u)] }) x)) s

theorem streamAhead_whole (hsrc : u.srcs.any (·.stack) = true) (hdata : u.data = [])
    (hlines : ∀ l ∈ linesOf (u.addrs.getD 0 0) (mvdBytes u), (mfind (coreAt s c).cache l).isSome = true) : streamAhead c s = weightsTaken c u s := by
  have hrun : cacheRun (coreAt s c) (u.addrs.getD 0 0) (mvdBytes u) = cacheRead (coreAt s c) (u.addrs.getD 0 0) (mvdBytes u) :=
    cacheRun_present fun j hj => hlines _ (mem_linesOf hj)
  simp only [streamAhead, hu, hsrc, hdata, if_true, List.headD_nil, List.length_nil, Nat.add_zero, Nat.sub_zero, List.nil_append, hrun, length_cacheRead,
    Nat.sub_self]
  rfl

/-- The MVD still runs, with its bytes. -/
theorem unitIn_weightsTaken : unitIn (coreAt (weightsTaken c u s) c) .mv .running =
    some { u with data := [cacheRead (coreAt s c) (u.addrs.getD 0 0) (mvdBytes u)] } := by
  have hunits : (coreAt (weightsTaken c u s) c).units = (coreAt s c).units.map fun v =>
      if v.id = u.id then { v with data := [cacheRead (coreAt s c) (u.addrs.getD 0 0) (mvdBytes u)] } else v := by
    rw [weightsTaken, coreAt_updCore_same]
    exact (congrArg Core.units (sansCache_touchLines ..) :)
  rw [unitIn, hunits, List.find?_map]
  have hsame : ((fun v : UnitEntry => v.kind == .mv && v.phase == .running) ∘ fun v : UnitEntry =>
      if v.id = u.id then { v with data := [cacheRead (coreAt s c) (u.addrs.getD 0 0) (mvdBytes u)] } else v) = fun v => v.kind == .mv && v.phase == .running := by
    funext v
    dsimp only [Function.comp]
    split <;> rfl
  rw [hsame]
  change (unitIn (coreAt s c) .mv .running).map _ = _
  rw [hu, Option.map_some, if_pos rfl]

omit hu in
theorem threadAt_weightsTaken (t : Nat) : threadAt (coreAt (weightsTaken c u s) c) t = threadAt (coreAt s c) t := by
  rw [weightsTaken, coreAt_updCore_same, threadAt_of_sansCache (sansCache_touchLines ..)]
  rfl

omit hu in
theorem mvdBytes_data (l : List (List Byte)) : mvdBytes { u with data := l } = mvdBytes u := rfl

omit hu in
theorem storeRead_weightsTaken (a n : Nat) : storeRead (weightsTaken c u s) c a n = storeRead s c a n := readMem_congr (s := s) (t := weightsTaken c u s) rfl _ _

/-- An MVD whose weights lie behind the cache, their lines all there and read without error. -/
theorem mvdStreamEnd_cached (hsrc : u.srcs.any (·.stack) = true) (hdata : u.data = [])
    (hlines : ∀ l ∈ linesOf (u.addrs.getD 0 0) (mvdBytes u), (mfind (coreAt s c).cache l).isSome = true)
    (hread : accessCheck c chk u.srcs (linesOf (u.addrs.getD 0 0) (mvdBytes u)) (streamAhead c s) = (streamAhead c s, none)) :
    mvdStreamEnd c chk s = mvdFormed c u.id (mvdResult (coreAt s c) u (u.vals.getD 0 0).toNat (cacheRead (coreAt s c) (u.addrs.getD 0 0) (mvdBytes u))
      (storeRead s c (u.addrs.getD 1 0) ((u.vals.getD 0 0).toNat + (u.vals.getD 0 0).toNat / 32))) (weightsTaken c u s) := by
  rw [streamAhead_whole hu hsrc hdata hlines] at hread
  have hlanes : ∀ l w act, mvdResult (coreAt (weightsTaken c u s) c) { u with data := l } (u.vals.getD 0 0).toNat w act =
      mvdResult (coreAt s c) u (u.vals.getD 0 0).toNat w act := fun l w act => by
    simp only [mvdResult, threadAt_weightsTaken]
  have hweights : ∀ l, mvdWeights c { u with data := [l] } (weightsTaken c u s) = l := fun l => by
    rw [mvdWeights, hsrc, if_pos rfl, List.headD_cons]
  have hcached : ∀ l, mvdLines { u with data := l } = linesOf (u.addrs.getD 0 0) (mvdBytes u) := fun l => by
    rw [mvdLines, hsrc, if_pos rfl, mvdBytes_data]
  rw [mvdStreamEnd_formed (streamAhead_whole hu hsrc hdata hlines) (unitIn_weightsTaken hu) ((congrArg List.length (hweights _)).trans (length_cacheRead ..))
    (by rw [hcached]; exact hread), hweights, hlanes, storeRead_weightsTaken]

end

/-- An MVD's lanes are available: they are in its accumulator, and its entry has retired. -/
theorem mvdDone_writes {n : Nat} {s : State} {u : UnitEntry} (hu : unitIn (coreAt s n) .mv .formed = some u) :
    regA (threadAt (coreAt (mvdDone n s) n) u.thread) (bits u.word 55 54) = fromLanes 2048 u.lanes ∧
    (∀ k, k ≠ bits u.word 55 54 → regA (threadAt (coreAt (mvdDone n s) n) u.thread) k = regA (threadAt (coreAt s n) u.thread) k) ∧
    (coreAt (mvdDone n s) n).units = (coreAt s n).units.filter (fun v => v.id ≠ u.id) ∧ (mvdDone n s).mem = s.mem := by
  have hdone : mvdDone n s = retireUnit n u.id (updCore n (fun x =>
      setThread u.thread (setA (bits u.word 55 54) (fromLanes 2048 u.lanes) (threadAt x u.thread)) x) s) := by simp only [mvdDone, hu]
  have hreg : ∀ k, regA (threadAt (coreAt (mvdDone n s) n) u.thread) k =
      if bits u.word 55 54 = k then fromLanes 2048 u.lanes else regA (threadAt (coreAt s n) u.thread) k := fun k => by
    rw [hdone, regA_retireUnit, coreAt_updCore_same, threadAt_setThread_same, regA_setA]
  refine ⟨(hreg _).trans (if_pos rfl), fun k hk => (hreg k).trans (if_neg hk.symm), ?_, by rw [hdone]; rfl⟩
  rw [hdone, units_retireUnit, coreAt_updCore_same]
  rfl

/-! ### The matrix array (R147 to R155) -/

section
variable {n : Nat} {chk : StoreCheck} {errs : List CellError} {s : State} {u : UnitEntry}

/-- Both operands' bytes are in the entry; it is staged, and may stream at once. -/
theorem stagingDone_holds (hu : unitIn (coreAt s n) .array .running = some u) (hread : readCheck n chk (u.srcs.take 2) s = (s, none)) :
    (∃ v ∈ (coreAt (stagingDone n chk s) n).units, v.id = u.id ∧ (v.phase = .staged ∨ v.phase = .streaming) ∧ v.data.length = 2) ∧
      (stagingDone n chk s).mem = s.mem := by
  obtain ⟨d, hlength, hdone⟩ : ∃ d : List (List Byte), d.length = 2 ∧ stagingDone n chk s =
      updCore n (fun x => arrayAdvance (updUnit u.id (fun u => { u with phase := .staged, data := d }) x)) s :=
    ⟨[_, _], rfl, by simp only [stagingDone, hu, hread]; rfl⟩
  rw [hdone, coreAt_updCore_same]
  refine ⟨?_, rfl⟩
  rcases staged_arrayAdvance (f := fun u => { u with phase := .staged, data := d }) (unitIn_some hu).1 (fun _ => rfl) fun _ => rfl with hv | hv
  · exact ⟨_, hv, rfl, .inl rfl, hlength⟩
  · exact ⟨_, hv, rfl, .inr rfl, hlength⟩

/-- The instruction is formed and gives the active place free. -/
theorem streamEnd_forms (hu : unitIn (coreAt s n) .array .streaming = some u) :
    { u with phase := .formed, active := false } ∈ (coreAt (streamEnd n s) n).units := by
  simp only [streamEnd, hu]
  rw [coreAt_updCore_same]
  exact formed_arrayAdvance (f := fun u => { u with phase := .formed, active := false }) (unitIn_some hu).1 (fun _ => rfl) fun _ => rfl

theorem coreAt_logTransient (e : Code) (kind unit : Nat) (s : State) (d : Nat) : coreAt (logTransient e kind unit s) d = coreAt s d := rfl

/-- A pass whose checksums agree is counted, and its sums are kept (R152). -/
theorem passCheck_agree (hu : checkDue (coreAt s n) = some u) (hagree : cellsAgree (cellsAfter u errs) = true) :
    { u with checked := u.checked + 1, sums := u.sums ++ [passSums (cellsAfter u errs)] } ∈ (coreAt (passCheck n errs s) n).units := by
  have hmem := updated_mem (List.mem_of_find?_eq_some hu) fun u' => { u' with checked := u'.checked + 1, sums := u'.sums ++ [passSums (cellsAfter u errs)] }
  simp only [passCheck, hu, hagree, Bool.not_true, Bool.false_eq_true, if_false]
  split
  · rw [coreAt_logTransient, coreAt_updCore_same]
    exact hmem
  · rw [coreAt_updCore_same]
    exact hmem

/-- What re-executes is the last entry, as it was before its staging (R153). -/
theorem getLast?_reExecute (u : UnitEntry) (x : Core) : ∃ v, (reExecute u x).units.getLast? = some v ∧
    sansPhase v = sansPhase { u with again := true, checked := 0, data := [], sums := [] } := by
  have hlast := congrArg List.getLast? (arrayAdvance_parts { x with units := x.units.filter (·.id ≠ u.id) ++
    [{ u with phase := .queued, active := false, again := true, checked := 0, data := [], sums := [] }] }).1
  rw [List.getLast?_map, List.getLast?_map, List.getLast?_concat] at hlast
  exact Option.map_eq_some_iff.1 hlast

theorem sansUnits_reExecute (u : UnitEntry) (x : Core) : sansUnits (reExecute u x) = sansUnits x := (arrayAdvance_parts _).2

/-- A first mismatch: it is noted, and the instruction is put last to execute once more (R153). -/
theorem passCheck_again (hu : checkDue (coreAt s n) = some u) (hfail : cellsAgree (cellsAfter u errs) = false) (hagain : u.again = false) :
    passCheck n errs s = updCore n (reExecute u) (updCore n (noteMismatch u) s) := by
  simp only [passCheck, hu, hfail, Bool.not_false, if_true, hagain, Bool.false_eq_true, if_false]

/-- A mismatch of the re-execution fails the array (R154). -/
theorem passCheck_fails (hu : checkDue (coreAt s n) = some u) (hfail : cellsAgree (cellsAfter u errs) = false) (hagain : u.again = true) :
    passCheck n errs s = report E.arrayCheckFail 0 n (arrayFailed n u (updCore n (noteMismatch u) s)) := by
  simp only [passCheck, hu, hfail, Bool.not_false, if_true, hagain]

end

/-- The array of core n is FAILED, a thread of it has faulted and memory is m. -/
structure FailedArray (n t : Nat) (m : Map Byte) (s : State) : Prop where
  failed : bit (coreAt s n).arrayStat 63 = true
  thread : (threadAt (coreAt s n) t).st = .faulted
  mem : s.mem = m

theorem coreAt_faultUnit (c : Nat) (u : UnitEntry) (e : Code) (s : State) :
    coreAt (faultUnit c u e s) c = { setThread u.thread { threadAt (coreAt s c) u.thread with st := .faulted, wait := .none, met := false } (coreAt s c) with
      coreErr := if bit (coreAt s c).coreErr 63 then (coreAt s c).coreErr
        else BitVec.ofNat 64 (2 ^ 63 + 2 ^ 32 * e.toNat + 2 ^ 24 * u.thread + u.pc.toNat) } := by
  rw [faultUnit, noteFault, coreAt_recordErr, coreAt_setCore_same, coreAt_setCore_same]
  rfl

theorem mem_faultUnit (c : Nat) (u : UnitEntry) (e : Code) (s : State) : (faultUnit c u e s).mem = s.mem :=
  (congrArg State.mem (sansRecords_recordErr ..) :)

theorem threadAt_faultUnit (c : Nat) (u : UnitEntry) (e : Code) (s : State) (t : Nat) : threadAt (coreAt (faultUnit c u e s) c) t =
    if u.thread = t then { threadAt (coreAt s c) u.thread with st := .faulted, wait := .none, met := false } else threadAt (coreAt s c) t := by
  rw [coreAt_faultUnit, ← threadAt_setThread]
  rfl

section
variable {n t : Nat} {m : Map Byte} {s : State} (h : FailedArray n t m s)
include h

theorem FailedArray.faultUnit (v : UnitEntry) (e : Code) : FailedArray n t m (faultUnit n v e s) := by
  refine ⟨?_, ?_, (mem_faultUnit ..).trans h.mem⟩
  · rw [coreAt_faultUnit]
    exact h.failed
  · rw [threadAt_faultUnit]
    split
    · rfl
    · exact h.thread

theorem FailedArray.meetWaits (c : Nat) (p : WaitOn → Bool) : FailedArray n t m (updCore c (meetWaits p) s) := by
  by_cases hc : c = n
  · subst hc
    refine ⟨?_, ?_, h.mem⟩
    · rw [coreAt_updCore_same]
      exact h.failed
    · rw [coreAt_updCore_same, threadAt_meetWaits_of_not_blocked _ (by rw [h.thread]; decide)]
      exact h.thread
  · have hcore : coreAt (updCore c (Machine.meetWaits p) s) n = coreAt s n := coreAt_updCore_ne _ _ (Ne.symm hc)
    exact ⟨hcore ▸ h.failed, hcore ▸ h.thread, h.mem⟩

theorem FailedArray.grantWaiting (f k : Nat) : FailedArray n t m (grantWaiting f k s) := by
  induction k generalizing s with
  | zero => exact h
  | succ k ih =>
    rw [Machine.grantWaiting]
    split
    · exact h
    · split
      · exact ih (FailedArray.meetWaits (s := grantPermit _ s) ⟨h.failed, h.thread, h.mem⟩ _ _)
      · exact h

theorem FailedArray.releasePermit (c : Nat) : FailedArray n t m (releasePermit c s) := by
  unfold Machine.releasePermit
  dsimp only
  split
  · exact FailedArray.grantWaiting (s := setUnits _ _ s) ⟨h.failed, h.thread, h.mem⟩ _ _
  · exact h

theorem FailedArray.report (e : Code) (kind unit : Nat) : FailedArray n t m (report e kind unit s) := ⟨h.failed, h.thread, h.mem⟩

end

/-- FAILED of ARRAY_STAT (R155). -/
theorem bit_failed (w : DWord) : bit (withBits w 63 63 1) 63 = true := by simp [bit, withBits]

/-- FAILED is set, the thread of the instruction faults, then those of the other instructions in the array (R154). -/
theorem failedArray_arrayFailed (n : Nat) (u : UnitEntry) (s : State) : FailedArray n u.thread s.mem (arrayFailed n u s) := by
  unfold arrayFailed
  refine FailedArray.releasePermit ?_ n
  generalize List.filter _ _ = others
  have hfirst : FailedArray n u.thread s.mem (faultUnit n u E.arrayCheckFail (updCore n (fun x =>
      { x with arrayStat := withBits x.arrayStat 63 63 1,
               units := x.units.map fun v => if v.kind == .array then { v with phase := .stuck, active := false } else v }) s)) := by
    refine ⟨?_, ?_, mem_faultUnit ..⟩
    · rw [coreAt_faultUnit, coreAt_updCore_same]
      exact bit_failed (coreAt s n).arrayStat
    · rw [threadAt_faultUnit, if_pos rfl]
  generalize faultUnit n u E.arrayCheckFail _ = q at hfirst
  induction others generalizing q with
  | nil => exact hfirst
  | cons v others ih =>
    rw [List.foldl_cons]
    split
    · exact ih q hfirst
    · exact ih _ (hfirst.faultUnit v _)

theorem allFull_fillDst {u : UnitEntry} (htag : u.dstTagged = true) {d : Rng} (hd : d ∈ u.dst.take 1) (x : Core) : allFull (fillDst u x) d = true := by
  rw [fillDst, if_pos htag]
  cases hdst : u.dst with
  | nil => rw [hdst] at hd; cases hd
  | cons r rs =>
    rw [hdst, List.take_succ_cons, List.take_zero, List.mem_singleton] at hd
    rw [hd]
    exact allFull_setFull r x

/-- Bytes that are written are read, and no others change. -/
theorem readMem_of_written {t s : State} {a : Nat} {l : List Byte} (h : t.mem = (writeMem a l s).mem) :
    readMem t a l.length = l ∧ ∀ b, b < a ∨ a + l.length ≤ b → mget 0 t.mem b = mget 0 s.mem b :=
  ⟨(readMem_congr h _ _).trans (readMem_writeMem ..), fun b hb => (congrArg (mget 0 · b) h).trans (mget_writeBytes_outside _ _ _ _ hb)⟩

section
variable {n : Nat} {chk : StoreCheck} {s : State} {u : UnitEntry}

/-- A drain that reads what it needs without error writes the output tile and retires the entry (R148, R149). -/
theorem drainDone_writes (hu : ((coreAt s n).units.find? fun u => u.kind == .array && u.phase == .formed && u.checked == arrayPasses u.word) = some u)
    (hread : arrayAcc u.word = true → readCheck n chk (u.srcs.drop 2) s = (s, none)) :
    drainDone n chk s = updCore n arrayAdvance (retireUnit n u.id (updCore n (fillDst u)
      (writeMem (coreAddr n (u.addrs.getD 2 0)) (arrayOutput u (storeRead s n (u.addrs.getD 2 0) (arrayOutLen u.word))) s))) := by
  have hcheck : (if arrayAcc u.word then readCheck n chk (u.srcs.drop 2) s else (s, none)) = (s, none) := by
    split
    · exact hread ‹_›
    · rfl
  simp only [drainDone, hu, hcheck]

/-! ### The edge converter (R173) -/

/-- The instruction forms what it writes. -/
theorem edgeEnd_forms (hu : unitIn (coreAt s n) .edge .running = some u) (hread : readCheck n chk u.srcs s = (s, none)) :
    { u with phase := .formed, writes := edgeWrites u (edgeData n u s).1 (edgeData n u s).2, data := [] } ∈ (coreAt (edgeEnd n chk s) n).units ∧
      (edgeEnd n chk s).mem = s.mem := by
  simp only [edgeEnd, hu, hread]
  refine ⟨?_, rfl⟩
  rw [coreAt_updCore_same]
  exact formed_startWaiting (f := fun v => { v with phase := .formed, writes := edgeWrites v (edgeData n u s).1 (edgeData n u s).2, data := [] })
    (unitIn_some hu).1 (fun _ => rfl) (fun _ => rfl) .edge

theorem foldl_partialCheck {ws : List (Nat × List Byte)} (h : ∀ w ∈ ws, partialCheck n chk w.1 w.2.length s = (s, none)) :
    ws.foldl (fun (q : State × Option Code) w => ((partialCheck n chk w.1 w.2.length q.1).1, q.2.or (partialCheck n chk w.1 w.2.length q.1).2)) (s, none) =
      (s, none) := by
  induction ws with
  | nil => rfl
  | cons w ws ih =>
    rw [List.foldl_cons, h w List.mem_cons_self]
    exact ih fun v hv => h v (List.mem_cons_of_mem _ hv)

/-- The results reach a destination in the store, and the entry retires. -/
theorem edgeReady_writes (hu : unitIn (coreAt s n) .edge .formed = some u) (hdst : u.dst.any (·.stack) = false)
    (hcheck : ∀ w ∈ u.writes, partialCheck n chk w.1 w.2.length s = (s, none)) :
    edgeReady n chk s = retireUnit n u.id (updCore n (fillDst u) (u.writes.foldl (fun s w => writeMem (coreAddr n w.1) w.2 s) s)) := by
  simp only [edgeReady, hu, hdst, edgeStore, foldl_partialCheck hcheck]

end

/-! ### Permits (R247) -/

theorem unitsOf_grantPermit (d : Nat) (s : State) : unitsOf (grantPermit d s) (fieldOfCore d) =
    { unitsOf s (fieldOfCore d) with
      permits := insertAsc d (unitsOf s (fieldOfCore d)).permits, quotaQ := without d (unitsOf s (fieldOfCore d)).quotaQ } :=
  (unitsOf_setUnits (fieldOfCore d) _ s :)

section
variable {n : Nat} {s : State} (hidle : ((coreAt s n).units.any fun u => u.kind == .array && u.phase != .stuck) = false)
include hidle

theorem permitIdle_releases : permitIdle n s = releasePermit n s := by rw [permitIdle, hidle, if_neg Bool.false_ne_true]

/-- No core waits: the permit is given back. -/
theorem permits_permitIdle (hqueue : (unitsOf s (fieldOfCore n)).quotaQ = []) :
    (unitsOf (permitIdle n s) (fieldOfCore n)).permits = without n (unitsOf s (fieldOfCore n)).permits := by
  rw [permitIdle_releases hidle, releasePermit]
  split
  · rw [grantAll, unitsOf_setUnits, hqueue, List.length_nil, grantWaiting, unitsOf_setUnits]
  · rename_i hnone
    refine (List.filter_eq_self.2 fun d hd => ?_).symm
    simp only [decide_eq_true_eq]
    rintro rfl
    exact hnone (List.contains_iff_mem.2 hd)

/-- One core waits, and the quota has room for it: it receives the permit. -/
theorem unitsOf_permitIdle {d : Nat} (hqueue : (unitsOf s (fieldOfCore n)).quotaQ = [d]) (hfield : fieldOfCore d = fieldOfCore n)
    (hpermit : n ∈ (unitsOf s (fieldOfCore n)).permits)
    (hroom : (without n (unitsOf s (fieldOfCore n)).permits).length < effQuota s (fieldOfCore n)) :
    unitsOf (permitIdle n s) (fieldOfCore n) =
      { unitsOf s (fieldOfCore n) with permits := insertAsc d (without n (unitsOf s (fieldOfCore n)).permits), quotaQ := without d [d] } := by
  rw [permitIdle_releases hidle, releasePermit]
  dsimp only
  rw [if_pos (List.contains_iff_mem.2 hpermit), grantAll, unitsOf_setUnits, hqueue, List.length_singleton, grantWaiting]
  simp only [unitsOf_setUnits]
  rw [if_pos (by exact hroom), grantWaiting]
  change unitsOf (grantPermit d _) _ = _
  rw [← hfield]
  rw [unitsOf_grantPermit, unitsOf_setUnits]

end

/-! ### The obligation -/

/-- Settles O16: each event finds the entry that it concerns and leaves of it what the lemma about that event says. -/
theorem unitEventsAdvanceEntries : Obligations.UnitEventsAdvanceEntries := by
  unfold Obligations.UnitEventsAdvanceEntries
  intro c chk errs s u n x hon k a act formed
  refine ⟨fun hu hsrc hread => ?_, fun hu hsrc hdata hlines hread => ?_, fun hu => ⟨_, congrArg Host.Outcome.next (if_pos hon), mvdDone_writes hu⟩,
    fun hu hread => ?_, fun hu => ?_, fun hu hagree => ?_, fun hu hfail hagain => ?_, fun hu hfail hagain => ?_, fun hu hread => ?_, fun hu hread => ?_,
    fun hu hdst hcheck => ?_, fun hidle hqueue => ⟨_, congrArg Host.Outcome.next (if_pos hon), permits_permitIdle hidle hqueue⟩,
    fun d hidle hqueue hfield hpermit hroom => ?_⟩
  · refine ⟨_, congrArg Host.Outcome.next ((if_pos hon).trans (mvdStreamEnd_stored hu hsrc hread)), ?_⟩
    exact mvdFormed_formed (unitPort_coreId c) (unitIn_some hu).1 _
  · refine ⟨_, congrArg Host.Outcome.next ((if_pos hon).trans (mvdStreamEnd_cached hu hsrc hdata hlines hread)), ?_⟩
    exact mvdFormed_formed (unitPort_coreId c) (unitIn_some (unitIn_weightsTaken hu)).1 _
  · obtain ⟨⟨v, hv, hid, hphase, hlength⟩, hmem⟩ := stagingDone_holds hu hread
    exact ⟨_, v, congrArg Host.Outcome.next (if_pos hon), hv, hid, hphase, hlength, hmem⟩
  · exact ⟨_, _, congrArg Host.Outcome.next (if_pos hon), streamEnd_forms hu, rfl, rfl, rfl, rfl⟩
  · exact ⟨_, _, congrArg Host.Outcome.next (if_pos hon), passCheck_agree hu hagree, rfl, rfl, rfl⟩
  · obtain ⟨v, hlast, hsame⟩ := getLast?_reExecute u (noteMismatch u x)
    refine ⟨_, v, congrArg Host.Outcome.next ((if_pos hon).trans (passCheck_again hu hfail hagain)), ?_, (congrArg UnitEntry.id hsame :),
      (congrArg UnitEntry.again hsame :), (congrArg UnitEntry.word hsame :), (congrArg UnitEntry.addrs hsame :), (congrArg UnitEntry.checked hsame :), ?_, rfl⟩
    · rw [coreAt_updCore_same, coreAt_updCore_same]
      exact hlast
    · rw [coreAt_updCore_same, coreAt_updCore_same]
      exact (congrArg Core.arrayLast (sansUnits_reExecute u (noteMismatch u x)) :)
  · have hfailed := (failedArray_arrayFailed n u (updCore n (noteMismatch u) s)).report E.arrayCheckFail 0 n
    exact ⟨_, congrArg Host.Outcome.next ((if_pos hon).trans (passCheck_fails hu hfail hagain)), hfailed.failed, hfailed.thread, hfailed.mem⟩
  · intro a out
    obtain ⟨hout, hother⟩ := readMem_of_written (t := drainDone n chk s) (a := a) (l := out) (s := s) (by rw [drainDone_writes hu hread]; rfl)
    refine ⟨_, congrArg Host.Outcome.next (if_pos hon), hout, hother, ?_, fun htag d hd => ?_⟩
    · rw [drainDone_writes hu hread, coreAt_updCore_same]
      exact Retired.arrayAdvance (retired_retireUnit _ _ _)
    · rw [drainDone_writes hu hread, coreAt_updCore_same, allFull_congr (full_arrayAdvance _), allFull_congr (full_retireUnit ..),
        coreAt_updCore_same]
      exact allFull_fillDst htag hd _
  · obtain ⟨hv, hmem⟩ := edgeEnd_forms hu hread
    exact ⟨_, _, congrArg Host.Outcome.next (if_pos hon), hv, rfl, rfl, rfl, hmem⟩
  · refine ⟨_, congrArg Host.Outcome.next ((if_pos hon).trans (edgeReady_writes hu hdst hcheck)), retired_retireUnit _ _ _, fun a l hwrites => ?_⟩
    exact readMem_of_written (by rw [hwrites]; rfl)
  · refine ⟨_, congrArg Host.Outcome.next (if_pos hon), ?_⟩
    change d ∈ (unitsOf (permitIdle n s) _).permits ∧ (unitsOf (permitIdle n s) _).quotaQ = []
    rw [show n / 4096 = fieldOfCore n from rfl, unitsOf_permitIdle hidle hqueue hfield hpermit hroom]
    exact ⟨mem_insertAsc.2 (.inl rfl), by simp [without]⟩

end Sys2Proof.Machine
end

section
/-! SUPPORT. The checksum row and column of a pass of the matrix array, and an error in one of its cells (R152). -/

namespace Sys2Proof.Machine

open Sys2Proof

/-! ### The checksum of a tile's rows (R152) -/

@[simp] theorem dotInt_nil_left (b : List Int) : dotInt [] b = 0 := rfl
@[simp] theorem dotInt_nil_right (a : List Int) : dotInt a [] = 0 := by rw [dotInt, List.zip_nil_right]; rfl

theorem dotInt_eq_sum (a b : List Int) : dotInt a b = ((a.zip b).map fun p => p.1 * p.2).sum := by
  rw [List.sum_eq_foldl, List.foldl_map]
  rfl

@[simp] theorem dotInt_cons (x y : Int) (a b : List Int) : dotInt (x :: a) (y :: b) = x * y + dotInt a b := by
  simp only [dotInt_eq_sum, List.zip_cons_cons, List.map_cons, List.sum_cons]

theorem dotInt_comm (a b : List Int) : dotInt a b = dotInt b a := by
  induction a generalizing b with
  | nil => simp
  | cons x a ih => cases b with
    | nil => simp
    | cons y b => rw [dotInt_cons, dotInt_cons, ih, mul_comm]

theorem dotInt_zipWith_add (x : List Int) {y z : List Int} (h : y.length = z.length) :
    dotInt x (List.zipWith (· + ·) y z) = dotInt x y + dotInt x z := by
  induction x generalizing y z with
  | nil => rfl
  | cons a x ih => match y, z, h with
    | [], [], _ => rfl
    | b :: y, c :: z, h =>
      rw [List.zipWith_cons_cons, dotInt_cons, dotInt_cons, dotInt_cons, ih (Nat.succ.inj h)]
      ring

theorem dotInt_replicate_zero (x : List Int) (k : Nat) : dotInt x (List.replicate k 0) = 0 := by
  induction x generalizing k with
  | nil => rfl
  | cons a x ih => cases k with
    | zero => rfl
    | succ k => rw [List.replicate_succ, dotInt_cons, ih, mul_zero, add_zero]

theorem dotInt_foldl_add (x : List Int) {k : Nat} {rows : List (List Int)} (hrows : ∀ r ∈ rows, r.length = k) {acc : List Int}
    (hacc : acc.length = k) : dotInt x (rows.foldl (List.zipWith (· + ·)) acc) = dotInt x acc + (rows.map (dotInt x)).sum := by
  induction rows generalizing acc with
  | nil => simp
  | cons r rows ih =>
    have hr : r.length = k := hrows r List.mem_cons_self
    rw [List.foldl_cons, ih (fun q hq => hrows q (List.mem_cons_of_mem _ hq)) (by rw [List.length_zipWith, hacc, hr, min_self]),
      dotInt_zipWith_add x (hacc.trans hr.symm), List.map_cons, List.sum_cons, add_assoc]

/-- The product with the checksum is the sum of the products with the rows: products are linear. -/
theorem dotInt_checkRow (x : List Int) {rows : List (List Int)} (hrows : ∀ r ∈ rows, r.length = 32) :
    dotInt x (checkRow rows) = (rows.map (dotInt x)).sum := by
  rw [checkRow, dotInt_foldl_add x hrows List.length_replicate, dotInt_replicate_zero, zero_add]

theorem dotInt_checkRow_left (x : List Int) {rows : List (List Int)} (hrows : ∀ r ∈ rows, r.length = 32) :
    dotInt (checkRow rows) x = (rows.map fun r => dotInt r x).sum := by
  rw [dotInt_comm, dotInt_checkRow x hrows]
  exact congrArg List.sum (List.map_congr_left fun r _ => dotInt_comm x r)

/-! ### The three comparisons, as gaps of rows and columns (R152) -/

/-- By how much cell 32 of a row differs from the sum of its first 32 cells. -/
def rowGap (r : List Int) : Int := r.getD 32 0 - (r.take 32).sum

/-- By how much the cell of row 32 in column j differs from the sum of the first 32 cells of the column. -/
def colGap (m : List (List Int)) (j : Nat) : Int := (m.getD 32 []).getD j 0 - ((m.take 32).map fun r => r.getD j 0).sum

/-- The comparisons hold exactly where no row and no column has a gap, row 32 and column 32 included. -/
theorem cellsAgree_iff {m : List (List Int)} (hm : m.length = 33) :
    cellsAgree m = true ↔ (∀ r ∈ m, rowGap r = 0) ∧ ∀ j < 33, colGap m j = 0 := by
  have hrows : m = m.take 32 ++ [m.getD 32 []] := by
    rw [List.getD_eq_getElem _ _ (by omega : 32 < m.length), List.take_concat_get' m 32 (by omega), List.take_of_length_le (by omega)]
  have hrow : (∀ r ∈ m, rowGap r = 0) ↔ (∀ r ∈ m.take 32, rowGap r = 0) ∧ rowGap (m.getD 32 []) = 0 := by
    conv_lhs => rw [hrows]
    simp only [List.forall_mem_append, List.forall_mem_singleton]
  have hcol : (∀ j < 33, colGap m j = 0) ↔ (∀ j < 32, colGap m j = 0) ∧ colGap m 32 = 0 := Nat.forall_lt_succ_right
  rw [hrow, hcol]
  simp only [cellsAgree, rowGap, colGap, Bool.and_eq_true, List.all_eq_true, List.mem_range, beq_iff_eq, sub_eq_zero]
  tauto

/-! ### The cells of a pass (R152) -/

/-- The cells of the row that x feeds: its products with the weight rows, then the one with their checksum. -/
def cellRow (w : List (List Int)) (x : List Int) : List Int := w.map (dotInt x) ++ [dotInt x (checkRow w)]

theorem cellRow_eq_map (w : List (List Int)) (x : List Int) : cellRow w x = (w ++ [checkRow w]).map (dotInt x) := by
  rw [cellRow, List.map_append, List.map_singleton]

theorem passCells_eq (p : PassRows) : passCells p = p.1.map (cellRow p.2) ++ [cellRow p.2 (checkRow p.1)] :=
  (List.map_congr_left fun x _ => (cellRow_eq_map p.2 x).symm).trans List.map_append

section
variable {w : List (List Int)} (hw : w.length = 32)
include hw

theorem length_cellRow (x : List Int) : (cellRow w x).length = 33 := by
  rw [cellRow, List.length_append, List.length_map, hw, List.length_singleton]

theorem take_cellRow (x : List Int) : (cellRow w x).take 32 = w.map (dotInt x) :=
  List.take_left' (List.length_map _ |>.trans hw)

theorem getD_cellRow_last (x : List Int) : (cellRow w x).getD 32 0 = dotInt x (checkRow w) := by
  rw [cellRow, List.getD_append_right _ _ _ _ (by rw [List.length_map, hw]), List.length_map, hw]
  rfl

/-- Each cell is the product of what feeds its row with what feeds its column. -/
theorem exists_getD_cellRow {j : Nat} (hj : j < 33) : ∃ y, ∀ x, (cellRow w x).getD j 0 = dotInt x y := by
  have hlen : j < (w ++ [checkRow w]).length := by rw [List.length_append, hw]; exact hj
  refine ⟨(w ++ [checkRow w])[j], fun x => ?_⟩
  rw [cellRow_eq_map, List.getD_eq_getElem _ _ (by rwa [List.length_map]), List.getElem_map]

/-- A row has no gap: its cell of column 32 is fed by the weight checksum. -/
theorem rowGap_cellRow (hrows : ∀ r ∈ w, r.length = 32) (x : List Int) : rowGap (cellRow w x) = 0 := by
  rw [rowGap, getD_cellRow_last hw, take_cellRow hw, dotInt_checkRow x hrows, sub_self]

end

theorem forall_length_passCells {p : PassRows} (hw : p.2.length = 32) : ∀ r ∈ passCells p, r.length = 33 := by
  rw [passCells_eq, List.forall_mem_append, List.forall_mem_map, List.forall_mem_singleton]
  exact ⟨fun x _ => length_cellRow hw x, length_cellRow hw _⟩

section
variable {p : PassRows} (ha : p.1.length = 32) (hw : p.2.length = 32)
include ha

theorem length_passCells : (passCells p).length = 33 := by
  rw [passCells_eq, List.length_append, List.length_map, ha, List.length_singleton]

theorem take_passCells : (passCells p).take 32 = p.1.map (cellRow p.2) := by
  rw [passCells_eq, List.take_left' (List.length_map _ |>.trans ha)]

theorem getD_passCells_last : (passCells p).getD 32 [] = cellRow p.2 (checkRow p.1) := by
  rw [passCells_eq, List.getD_append_right _ _ _ _ (by rw [List.length_map, ha]), List.length_map, ha]
  rfl

include hw

theorem passSums_passCells : passSums (passCells p) = tileDot p.1 p.2 := by
  rw [passSums, take_passCells ha, List.map_map]
  exact List.map_congr_left fun x _ => take_cellRow hw x

/-- A column has no gap: its cell of row 32 is fed by the activation checksum. -/
theorem colGap_passCells (hrows : ∀ r ∈ p.1, r.length = 32) {j : Nat} (hj : j < 33) : colGap (passCells p) j = 0 := by
  obtain ⟨y, hy⟩ := exists_getD_cellRow hw hj
  rw [colGap, getD_passCells_last ha, take_passCells ha, List.map_map, hy, dotInt_checkRow_left y hrows, sub_eq_zero]
  exact congrArg List.sum (List.map_congr_left fun x _ => (hy x).symm)

/-- Correct cells pass the comparisons. -/
theorem cellsAgree_passCells (harows : ∀ r ∈ p.1, r.length = 32) (hwrows : ∀ r ∈ p.2, r.length = 32) : cellsAgree (passCells p) = true := by
  refine (cellsAgree_iff (length_passCells ha)).2 ⟨?_, fun j => colGap_passCells ha hw harows⟩
  rw [passCells_eq, List.forall_mem_append, List.forall_mem_map, List.forall_mem_singleton]
  exact ⟨fun x _ => rowGap_cellRow hw hwrows x, rowGap_cellRow hw hwrows _⟩

end

/-! ### An error in one cell (R152) -/

@[simp] theorem cellsWith_nil (m : List (List Int)) : cellsWith [] m = m := by
  simp [cellsWith]

/-- One error changes one cell. -/
theorem cellsWith_singleton (e : CellError) (m : List (List Int)) :
    cellsWith [e] m = m.modify e.row (·.modify e.col (· + e.delta)) := by
  refine List.ext_getElem (by simp [cellsWith]) fun i _ _ => List.ext_getElem ?_ fun j _ _ => ?_
  · by_cases hi : e.row.val = i <;> simp [cellsWith, hi]
  · by_cases hi : e.row.val = i <;> by_cases hj : e.col.val = j <;> simp [cellsWith, hi, hj]

theorem sum_take_modify_add (d : Int) {r : List Int} {j : Nat} (hj : j < r.length) (k : Nat) :
    ((r.modify j (· + d)).take k).sum = (r.take k).sum + if j < k then d else 0 := by
  induction r generalizing j k with
  | nil => cases hj
  | cons x r ih => cases k with
    | zero => simp
    | succ k => cases j with
      | zero => simp [add_right_comm]
      | succ j => simp [ih (Nat.lt_of_succ_lt_succ hj), add_assoc]

/-- An error in a row shows in its gap: cell 32 is compared with the sum of the others. -/
theorem rowGap_modify_add (d : Int) {r : List Int} (hr : r.length = 33) {j : Nat} (hj : j < 33) :
    rowGap (r.modify j (· + d)) = rowGap r + if j = 32 then d else -d := by
  have hlast : (r.modify j (· + d)).getD 32 0 = r.getD 32 0 + if j = 32 then d else 0 := by
    rw [List.getD_eq_getElem _ _ (by rw [List.length_modify]; omega), List.getD_eq_getElem _ _ (by omega), List.getElem_modify]
    split <;> simp
  rw [rowGap, hlast, sum_take_modify_add d (hj.trans_eq hr.symm), rowGap]
  by_cases hc : j = 32
  · rw [if_pos hc, if_neg (by omega : ¬j < 32), if_pos hc]
    ring
  · rw [if_neg hc, if_pos (by omega : j < 32), if_neg hc]
    ring

/-- Where the cells agree, an error in any one of them opens a gap in its row. -/
theorem cellsAgree_cellsWith_singleton {m : List (List Int)} (hm : m.length = 33) (hrows : ∀ r ∈ m, r.length = 33)
    (hagree : cellsAgree m = true) {e : CellError} (he : e.delta ≠ 0) : cellsAgree (cellsWith [e] m) = false := by
  rw [Bool.eq_false_iff, cellsWith_singleton, Ne, cellsAgree_iff (by rw [List.length_modify, hm])]
  rintro ⟨hgaps, -⟩
  have hlt : e.row.val < m.length := hm.symm ▸ e.row.isLt
  have hmem : m[e.row.val] ∈ m := List.getElem_mem hlt
  have hbefore : rowGap m[e.row.val] = 0 := ((cellsAgree_iff hm).1 hagree).1 _ hmem
  have hafter : rowGap (m[e.row.val].modify e.col (· + e.delta)) = 0 :=
    hgaps _ (List.mem_iff_getElem.2 ⟨e.row, by rwa [List.length_modify], List.getElem_modify_eq ..⟩)
  rw [rowGap_modify_add e.delta (hrows _ hmem) e.col.isLt, hbefore, zero_add] at hafter
  split at hafter
  · exact he hafter
  · exact he (neg_eq_zero.1 hafter)

end Sys2Proof.Machine
end

section
/-! The check of a pass of the matrix array (R152, R153). -/

namespace Sys2Proof.Machine

open Sys2Proof

theorem cellsAfter_eq {u : UnitEntry} {p : PassRows} (hp : (arrayRows u)[u.checked]? = some p) (errs : List CellError) :
    cellsAfter u errs = cellsWith errs (passCells p) := by
  rw [cellsAfter, List.getD_eq_getElem?_getD, hp, Option.getD_some]

section
variable {c : CoreRef} {s : State} {u : UnitEntry} {errs : List CellError} (hon : fieldOn s (coreId c) = true)
  (hu : checkDue (coreAt s (coreId c)) = some u)
include hon hu

/-- A pass that agrees is counted, with its sums kept. -/
theorem exec_arrayPassCheck_agree (hagree : cellsAgree (cellsAfter u errs) = true) :
    ∃ t v, exec (.arrayPassCheck c errs) s = .next t ∧ v ∈ (coreAt t (coreId c)).units ∧ v.id = u.id ∧ v.checked = u.checked + 1 ∧
      v.sums = u.sums ++ [passSums (cellsAfter u errs)] :=
  ⟨_, _, congrArg Host.Outcome.next (if_pos hon), passCheck_agree hu hagree, rfl, rfl, rfl⟩

/-- The first mismatch puts the instruction last, with no pass checked and no sums kept. -/
theorem exec_arrayPassCheck_again (hfail : cellsAgree (cellsAfter u errs) = false) (hagain : u.again = false) :
    ∃ t v, exec (.arrayPassCheck c errs) s = .next t ∧ (coreAt t (coreId c)).units.getLast? = some v ∧ v.id = u.id ∧ v.again = true ∧
      v.checked = 0 ∧ v.sums = [] := by
  obtain ⟨v, hlast, hsame⟩ := getLast?_reExecute u (noteMismatch u (coreAt s (coreId c)))
  refine ⟨_, v, congrArg Host.Outcome.next ((if_pos hon).trans (passCheck_again hu hfail hagain)), ?_, (congrArg UnitEntry.id hsame :),
    (congrArg UnitEntry.again hsame :), (congrArg UnitEntry.checked hsame :), (congrArg UnitEntry.sums hsame :)⟩
  rw [coreAt_updCore_same, coreAt_updCore_same]
  exact hlast

end

/-- Settles O58: the product with a checksum is the sum of the products, so correct cells leave no gap, and an error opens one in
its row; ARRAY_PASS_CHECK then counts the pass or executes the instruction again. -/
theorem checksumCellsCatchOneError : Obligations.ChecksumCellsCatchOneError := by
  unfold Obligations.ChecksumCellsCatchOneError
  intro p ha hw harows hwrows
  have hagree : cellsAgree (passCells p) = true := cellsAgree_passCells ha hw harows hwrows
  have hsums : passSums (passCells p) = tileDot p.1 p.2 := passSums_passCells ha hw
  have hcatch : ∀ e : CellError, e.delta ≠ 0 → cellsAgree (cellsWith [e] (passCells p)) = false := fun e =>
    cellsAgree_cellsWith_singleton (length_passCells ha) (forall_length_passCells hw) hagree
  refine ⟨hagree, hsums, hcatch, fun c s u hon hu hp => ⟨?_, fun e he hagain => ?_⟩⟩
  · have hcells : cellsAfter u [] = passCells p := (cellsAfter_eq hp []).trans (cellsWith_nil _)
    rw [← hsums, ← hcells]
    exact exec_arrayPassCheck_agree hon hu (hcells ▸ hagree)
  · exact exec_arrayPassCheck_again hon hu (cellsAfter_eq hp [e] ▸ hcatch e he) hagain

end Sys2Proof.Machine
end

section
/-! The values of the W4F codes (R161). -/

namespace Sys2Proof.Machine

open Sys2Proof

theorem signed_odd (n m : Nat) : signed (n % 2 == 1) m = (-1) ^ n * (m : Int) := by
  obtain hn | hn := Nat.even_or_odd n
  · simp [signed, Nat.even_iff.1 hn, hn.neg_one_pow]
  · simp [signed, Nat.odd_iff.1 hn, hn.neg_one_pow]

theorem codeNaN_of_ne_a8f {f : Fmt} (hf : f ≠ .a8f) (c : Nat) : codeNaN f c = false := by
  rw [codeNaN, beq_false_of_ne hf, Bool.false_and]

/-- A W4F code is its sign times the integer that its exponent and mantissa give, in units of one half. -/
theorem codeInt_w4f (c : Nat) :
    codeInt .w4f c = (-1) ^ (c / 8) *
      (if c / 2 % 4 = 0 then (c % 2 : Nat) else (2 + (c % 2 : Nat)) * 2 ^ (c / 2 % 4 - 1) : Int) := by
  rw [codeInt, signed_odd]
  split
  · rfl
  · push_cast
    rfl

/-- Settles O56: the sign's bit is the power of −1, the rest is the two cases of the exponent, and only A8F has NaN codes. -/
theorem w4fCodesHaveTheirValues : Obligations.W4fCodesHaveTheirValues := by
  unfold Obligations.W4fCodesHaveTheirValues
  have hzero : codeInt .w4f 8 = 0 := by
    rw [codeInt_w4f]
    rfl
  exact ⟨rfl, hzero, fun c _ => ⟨codeNaN_of_ne_a8f (by decide) c, codeInt_w4f c⟩⟩

end Sys2Proof.Machine
end

section
/-! SUPPORT. Routers: reading a router back, what leaves every router as it was, and what a row of a router does with the head that it
takes (R181, R182, R197). -/

namespace Sys2Proof.Machine

open Sys2Proof

/-! ### Reading a router -/

theorem routerAt_setRouter (r d : Nat) (x : Router) (s : State) : routerAt (setRouter r x s) d = if r = d then x else routerAt s d := mget_mset ..

@[simp] theorem routerAt_setRouter_same (r : Nat) (x : Router) (s : State) : routerAt (setRouter r x s) r = x := by
  rw [routerAt_setRouter, if_pos rfl]

theorem routerAt_congr {s t : State} (h : t.routers = s.routers) (d : Nat) : routerAt t d = routerAt s d := by rw [routerAt, routerAt, h]

theorem routers_recordErr (p : Nat) (c : Code) (info : Word) (s : State) : (recordErr p c info s).routers = s.routers :=
  (congrArg State.routers (offRegs_recordErr ..) :)

/-- What every step of a fold keeps, the fold keeps. -/
theorem foldl_same {α β : Type} {g : State → β} {f : State → α → State} (h : ∀ s x, g (f s x) = g s) (l : List α) (s : State) :
    g (l.foldl f s) = g s := by
  induction l generalizing s with
  | nil => rfl
  | cons x l ih => rw [List.foldl_cons, ih, h]

/-- The state without what sending on the chain's links changes. -/
def offLinks (s : State) : State := { s with links := [], out := [] }

theorem offLinks_sendFlit (n ty vc : Nat) (body : List Byte) (s : State) : offLinks (sendFlit n ty vc body s) = offLinks s := rfl
theorem offLinks_setLink (n : Nat) (x : Link) (s : State) : offLinks (setLink n x s) = offLinks s := rfl

theorem offLinks_sendCtl (n ty : Nat) (body : List Byte) (s : State) : offLinks (sendCtl n ty body s) = offLinks s := by
  unfold sendCtl
  dsimp only
  split
  · rfl
  · split
    · exact offLinks_sendFlit ..
    · exact offLinks_setLink ..

theorem offLinks_movedOn (back : Option (Nat × Nat × Nat)) (s : State) : offLinks (movedOn back s) = offLinks s := by
  unfold movedOn
  split
  · unfold returnCredits
    dsimp only
    split
    · exact offLinks_setLink ..
    · rw [offLinks_sendCtl, offLinks_setLink, offLinks_setLink]
  · rfl

theorem routers_movedOn (back : Option (Nat × Nat × Nat)) (s : State) : (movedOn back s).routers = s.routers :=
  (congrArg State.routers (offLinks_movedOn ..) :)

/-- Dropping a message changes no router: it records the drop and gives back what the message held (R197). -/
theorem routers_dropMsg (r d : Nat) (dark : Bool) (m : Msg) (s : State) : (dropMsg r d dark m s).routers = s.routers := by
  have hnote : (noteDropped m s).routers = s.routers := by
    unfold noteDropped
    split
    · rfl
    · exact routers_movedOn ..
    · rfl
  cases dark <;> exact (routers_recordErr ..).trans hnote

theorem live_setLive_off {p q a b : Nat} (v : Word) (s : State) (ha : a < 4096) (hb : b < 4096) (hne : a ≠ b) :
    live (setLive p a v s) q b = live s q b := by rw [live_setLive v s ha hb, if_neg fun h => hne h.2]

/-- An error's record changes no register of a page but BLK_ERR, BLK_ERRINFO and HI_IRQ_STATUS (R51). -/
theorem live_recordErr_ne {q a : Nat} (p : Nat) (c : Code) (info : Word) (s : State) (ha : a < 4096) (hcode : a ≠ 0x10) (hinfo : a ≠ 0x14)
    (hirq : a ≠ 0x800) : live (recordErr p c info s) q a = live s q a := by
  unfold recordErr
  split
  · exact live_setLive_off _ _ (by decide) ha hcode.symm
  · have hcodes : live (setLive p 0x14 info (setLive p 0x10 (withBits (BitVec.ofNat 32 c.toNat) 31 31 1) s)) q a = live s q a := by
      rw [live_setLive_off _ _ (by decide) ha hinfo.symm, live_setLive_off _ _ (by decide) ha hcode.symm]
    dsimp only
    split
    · exact hcodes
    · exact (live_raiseIrq _ _ ha hirq).trans hcodes

/-! ### The output port that served an input (R181) -/

@[simp] theorem live_noteGrant (r port : Nat) (plane : Bool) (m : Msg) (s : State) (p off : Nat) :
    live (noteGrant r port plane m s) p off = live s p off := by
  unfold noteGrant
  split <;> rfl

@[simp] theorem cores_noteGrant (r port : Nat) (plane : Bool) (m : Msg) (s : State) : (noteGrant r port plane m s).cores = s.cores := by
  unfold noteGrant
  split <;> rfl

/-! ### The head that a row takes (R181, R197) -/

/-- A head stands at an input of a router: its field is not dark, its local link has not failed, and its output port is the input's to
take. The router reads it in q, where the input has fetched what stands before it. -/
structure HeadReady (s q : State) (r port : Nat) (plane : Bool) (m : Msg) : Prop where
  fetched : fetchInput r port plane s = q
  on : isDark s (fieldOfCore r) = false
  head : headOf q r port plane = some m
  link : localLost q r port = false
  turn : granted q r port plane m = true

section
variable {s q : State} {r port : Nat} {plane : Bool} {m : Msg} (h : HeadReady s q r port plane m) {mine : Msg → Bool} (hmine : mine m = true)
  {act : Msg → State → Option State}
include h hmine

/-- A row acts on a head that is its own, and the output port notes the input. -/
theorem HeadReady.acts {u : State} (hact : act m q = some u) : onHead r port plane mine act s = noteGrant r port plane m u := by
  rw [onHead, if_neg (by simp [h.on])]
  simp only [h.fetched, h.head, hmine, h.link, h.turn, hact, Bool.not_true, Bool.false_eq_true, if_false, Option.map_some, Option.getD_some]

/-- A head that cannot move stays. -/
theorem HeadReady.stays (hact : act m q = none) : onHead r port plane mine act s = q := by
  rw [onHead, if_neg (by simp [h.on])]
  simp only [h.fetched, h.head, hmine, h.link, h.turn, hact, Bool.not_true, Bool.false_eq_true, if_false, Option.map_none, Option.getD_none]

end

end Sys2Proof.Machine
end

section
/-! How heads move, and how links replay (R180, R181, R186, R197, R199, R203). -/

namespace Sys2Proof.Machine

open Sys2Proof

/-! ### The next hop (R180, R186, R197) -/

theorem sendOut_room {r d : Nat} {y : Msg} {s : State} (hroom : hasRoom 16 (outQueue s r d y.plane) y = true) : sendOut r d y s = some (setRouter r
    { routerAt s r with outq := mset [] (routerAt s r).outq (qKey d y.plane) (outQueue s r d y.plane ++ [{ y with lastField := fieldOfCore r }]) } s) :=
  if_pos hroom

theorem sendOut_full {r d : Nat} {y : Msg} {s : State} (hfull : hasRoom 16 (outQueue s r d y.plane) y = false) : sendOut r d y s = none :=
  if_neg (Bool.eq_false_iff.1 hfull)

section
variable {r d : Nat} {m y : Msg} {s : State} (hpath : m.path = []) (hy : atWaypoint r m = y) (hnext : nextDir r y = d)
include hpath hy hnext

/-- A head on its way joins the output queue of its direction. -/
theorem moveOn_queues (hd : d ≠ 0) (haway : (shutOff s (fieldOfCore (neighbour r d)) && fieldOfCore (neighbour r d) != fieldOfCore r) = false)
    (hlink : linkFailed s r d = false) (hret : retired s (neighbour r d) = false) : moveOn r m s = sendOut r d y s := by
  unfold moveOn
  simp only [hpath, hy, hnext, List.isEmpty_nil, Bool.not_true, Bool.false_eq_true, if_false]
  cases d with
  | zero => exact absurd rfl hd
  | succ d => simp only [haway, hlink, hret, Bool.false_eq_true, if_false]

/-- Before a dark field or a failed link it is dropped. -/
theorem moveOn_drops (hd : d ≠ 0) {away : Bool}
    (haway : (shutOff s (fieldOfCore (neighbour r d)) && fieldOfCore (neighbour r d) != fieldOfCore r) = away)
    (hlost : away = true ∨ linkFailed s r d = true) : moveOn r m s = some (dropMsg r d away y s) := by
  unfold moveOn
  simp only [hpath, hy, hnext, List.isEmpty_nil, Bool.not_true, Bool.false_eq_true, if_false]
  cases d with
  | zero => exact absurd rfl hd
  | succ d =>
    cases away with
    | false => simp only [haway, hlost.resolve_left Bool.false_ne_true, Bool.false_eq_true, if_false, if_true]
    | true => simp only [haway, if_true]

/-- Data at its destination is delivered into the free ejection port. -/
theorem moveOn_ejects (hd : d = 0) (harr : isArrival y = true) (hlink : linkFailed s r 0 = false) (hfree : (coreAt s r).eject = [])
    (hon : fieldSt s (fieldOfCore r) = .on) (hcls : y.cls = .data) : moveOn r m s = some (updCore r (fun x => { x with eject := [y] }) s) := by
  obtain ⟨hport, hvia, horigin⟩ : y.dport = 0 ∧ y.rvia = false ∧ ∀ c l, y.origin ≠ .fill c l := by
    simp only [isArrival, Bool.and_eq_true, beq_iff_eq, Bool.not_eq_true'] at harr
    refine ⟨harr.1.1.1, harr.1.2, fun c l ho => ?_⟩
    simp [ho] at harr
  have hlast : lastLinkFailed s r y = false := by simp [lastLinkFailed, hport, hlink]
  have hroom : portFree s r = true := by simp [portFree, hfree, hon]
  have hdeliver : deliver r y s = updCore r (fun x => { x with eject := [y] }) s := by
    unfold deliver
    simp only [hport, hcls, hvia, reduceCtorEq, if_false, Bool.false_and, Bool.false_eq_true]
    split
    · exact absurd ‹_› (horigin _ _)
    · rw [updCore, updCore, hfree, List.nil_append]
  unfold moveOn
  simp only [hpath, hy, hnext, hd, List.isEmpty_nil, Bool.not_true, Bool.false_eq_true, if_false, hlast, hroom, Bool.and_false, hdeliver]

end

/-- A dropped message is the field's last event, and TARGET_DARK is recorded (R197, R203). -/
theorem dropMsg_records (r d : Nat) (dark : Bool) (m : Msg) (s : State) :
    live (dropMsg r d dark m s) (pFab (fieldOfCore r)) 0x818 = BitVec.ofNat 32 (2 ^ 28 * (if dark then 1 else 2) + 2 ^ 25 * clsNum m.cls +
      2 ^ 22 * d + 2 ^ 19 * b2n m.plane + coreIndex r) ∧ errValid (dropMsg r d dark m s) (pFab (fieldOfCore r)) = true :=
  ⟨(live_recordErr_ne _ _ _ _ (by decide) (by decide) (by decide) (by decide)).trans (live_setLive_same ..), errValid_recordErr ..⟩

/-! ### Dimension order (R180) -/

theorem firstStep_eq (r gx gy : Nat) :
    firstStep false r gx gy = (if meshX r < gx then 4 else if gx < meshX r then 3 else if meshY r < gy then 1 else if gy < meshY r then 2 else 0) ∧
      firstStep true r gx gy = (if meshY r < gy then 1 else if gy < meshY r then 2 else if meshX r < gx then 4 else if gx < meshX r then 3 else 0) := by
  simp only [firstStep, alongX, alongY]
  grind

/-! ### Crossing a link (R180, R182) -/

theorem pull_one {r k : Nat} {plane : Bool} {s : State} {m : Msg} {rest : List Msg} (hup : upstream s r k plane = m :: rest)
    (hruns : linkRuns s r k plane = true) (hroom : hasRoom 16 (inQueue s r k plane) m = true) :
    pull r k plane 1 s = enqueue r k m (popUpstream r k plane s) := by
  simp only [pull, hup, hruns, hroom, Bool.and_self, if_true]

/-! ### Failed links (R199) -/

/-- A link of a router is failed. -/
def markFailed (r p : Nat) (s : State) : State := setRouter r { routerAt s r with failed := insertAsc p (routerAt s r).failed } s

theorem failLink_eq (r port : Nat) (s : State) : failLink r port s = if port = 0 ∨ onFloor r port = false then markFailed r port s
    else dropOut (neighbour r port) (opposite port) false (dropOut r port false (markFailed (neighbour r port) (opposite port) (markFailed r port s))) := rfl

theorem linkFailed_markFailed {r p d q : Nat} {s : State} : linkFailed (markFailed r p s) d q = true ↔ (d = r ∧ q = p) ∨ linkFailed s d q = true := by
  simp only [linkFailed, markFailed, routerAt_setRouter, List.contains_iff_mem]
  split
  · subst_vars
    simp [mem_insertAsc]
  · simp [Ne.symm ‹_›]

theorem routers_foldl_dropMsg (r d : Nat) (dark : Bool) (l : List Msg) (s : State) :
    (l.foldl (fun s m => dropMsg r d dark m s) s).routers = s.routers :=
  foldl_same (g := State.routers) (fun _ _ => routers_dropMsg ..) l s

theorem linkFailed_dropOut (r d : Nat) (dark : Bool) (s : State) (n q : Nat) : linkFailed (dropOut r d dark s) n q = linkFailed s n q := by
  have hqueue : ∀ (o : Map (List Msg)) (l : List Msg) (t : State),
      linkFailed (l.foldl (fun s m => dropMsg r d dark m s) (setRouter r { routerAt t r with outq := o } t)) n q = linkFailed t n q := fun o l t => by
    rw [linkFailed, routerAt_congr (routers_foldl_dropMsg ..), routerAt_setRouter]
    split
    · rw [linkFailed, ‹r = n›]
    · rfl
  exact (hqueue ..).trans (hqueue ..)

/-- A failed link is failed at both its ends (R199). -/
theorem failLink_fails (r port : Nat) (s : State) : linkFailed (failLink r port s) r port = true ∧
    (port ≠ 0 → onFloor r port = true → linkFailed (failLink r port s) (neighbour r port) (opposite port) = true) := by
  have hself : linkFailed (markFailed r port s) r port = true := linkFailed_markFailed.2 (.inl ⟨rfl, rfl⟩)
  rw [failLink_eq]
  split
  · exact ⟨hself, fun h0 hfloor => absurd ‹_› (not_or.2 ⟨h0, by simp [hfloor]⟩)⟩
  · rw [linkFailed_dropOut, linkFailed_dropOut, linkFailed_dropOut, linkFailed_dropOut]
    exact ⟨linkFailed_markFailed.2 (.inr hself), fun _ _ => linkFailed_markFailed.2 (.inl ⟨rfl, rfl⟩)⟩

/-! ### Parity (R199) -/

section
variable {c : CoreRef} {k : Fin 5} {plane : Bool} {s : State} {m : Msg} (hon : isDark s (fieldOfCore (coreId c)) = false)
  (harr : arriving s (coreId c) k.val plane = some m)
include hon harr

theorem exec_flitParityError (hlink : linkFailed s (coreId c) k.val = false) :
    exec (.flitParityError c k plane) s = .next (setRouter (coreId c)
      { routerAt s (coreId c) with replay := insertAsc (qKey k.val plane) (routerAt s (coreId c)).replay } s) := by
  change Host.Outcome.next (parityError _ _ _ _) = _
  rw [parityError, hon, hlink, harr]
  rfl

theorem exec_flitReplay_clean (hwait : inReplay s (coreId c) k.val plane = true) : ∃ t, exec (.flitReplay c k plane true) s = .next t ∧
    t.cores = s.cores ∧ t.routers = (setRouter (coreId c)
      { routerAt s (coreId c) with replay := without (qKey k.val plane) (routerAt s (coreId c)).replay } s).routers := by
  refine ⟨_, rfl, ?_⟩
  rw [flitReplay, hon, hwait, harr]
  exact ⟨(congrArg State.cores (offRegs_recordErr ..) :), routers_recordErr ..⟩

theorem exec_flitReplay_fails (hwait : inReplay s (coreId c) k.val plane = true) :
    ∃ u, exec (.flitReplay c k plane false) s = .next (report E.fabricLinkFail 1 (coreId c) (failLink (coreId c) k.val u)) := by
  change ∃ u, Host.Outcome.next (flitReplay _ _ _ _ _) = _
  rw [flitReplay, hon, hwait, harr]
  exact ⟨_, rfl⟩

end

section
variable {c : CoreRef} {port : Fin 11} {plane : Bool} {s q : State} {m : Msg} (h : HeadReady s q (coreId c) port.val plane m)
  (hcls : m.cls ≠ .reduce) (hmerge : atMergePoint (coreId c) m = false)
include h hcls hmerge

theorem exec_routerHeader {u : State} (hmove : moveOn (coreId c) m (popHead (coreId c) port.val plane q) = some u) :
    exec (.routerHeader c port plane) s = .next (noteGrant (coreId c) port.val plane m u) :=
  congrArg Host.Outcome.next (h.acts (by simp [hcls, hmerge]) hmove)

theorem exec_routerHeader_stays (hmove : moveOn (coreId c) m (popHead (coreId c) port.val plane q) = none) :
    exec (.routerHeader c port plane) s = .next q :=
  congrArg Host.Outcome.next (h.stays (by simp [hcls, hmerge]) hmove)

end

/-- Settles O21: a head moves on as the next hop of its plane says, and each parity event ends as stated of it above. -/
theorem routersRouteDropAndReplay : Obligations.RoutersRouteDropAndReplay := by
  unfold Obligations.RoutersRouteDropAndReplay
  intro c port plane s m r y d n q p away
  refine ⟨fun hon hhead hpath hlink hcls hmerge hturn => ?_, firstStep_eq r, fun k rest => pull_one, fun k hon harr => ⟨fun hlink => ?_, fun hwait => ?_, fun hwait => ?_⟩⟩
  · have hready : HeadReady s q r port.val plane m := ⟨rfl, hon, hhead, hlink, hturn⟩
    refine ⟨fun hd haway hfail hret => ?_, fun hd hlost => ?_, fun hd harr hfail hfree hfield hdata => ?_⟩
    · have hmove := moveOn_queues hpath rfl rfl hd haway hfail hret
      exact ⟨fun hroom => exec_routerHeader hready hcls hmerge (hmove.trans (sendOut_room hroom)),
        fun hfull => exec_routerHeader_stays hready hcls hmerge (hmove.trans (sendOut_full hfull))⟩
    · have hrec := dropMsg_records r d away y p
      have hvalid : errValid (noteGrant r port.val plane m (dropMsg r d away y p)) (pFab (fieldOfCore r)) = true :=
        (congrArg (bit · 31) (live_noteGrant ..)).trans hrec.2
      exact ⟨_, exec_routerHeader hready hcls hmerge (moveOn_drops hpath rfl rfl hd rfl hlost), rfl, (live_noteGrant ..).trans hrec.1, hvalid⟩
    · refine ⟨_, exec_routerHeader hready hcls hmerge (moveOn_ejects hpath rfl rfl hd harr hfail hfree hfield hdata), ?_, rfl⟩
      rw [coreAt_congr (cores_noteGrant ..), coreAt_updCore_same]
  · refine ⟨_, exec_flitParityError hon harr hlink, ?_, rfl⟩
    rw [inReplay, routerAt_setRouter_same, List.contains_iff_mem]
    exact mem_insertAsc.2 (.inl rfl)
  · obtain ⟨t, hexec, hcores, hrouters⟩ := exec_flitReplay_clean hon harr hwait
    refine ⟨t, hexec, ?_, ?_, hcores⟩ <;> rw [routerAt_congr hrouters, routerAt_setRouter_same]
  · obtain ⟨u, hexec⟩ := exec_flitReplay_fails hon harr hwait
    exact ⟨_, hexec, failLink_fails r k.val u⟩

end Sys2Proof.Machine
end

section
/-! Reductions in the network, and reads that merge (R181, R182, R190 to R195, R203, R210, R403). -/

namespace Sys2Proof.Machine

open Sys2Proof

/-! ### What a row leaves of its router (R181) -/

/-- Noting the input that an output port served changes only that note. -/
theorem routerAt_noteGrant (r port : Nat) (plane : Bool) (m : Msg) (s : State) :
    ∃ g, routerAt (noteGrant r port plane m s) r = { routerAt s r with grant := g } := by
  unfold noteGrant
  split
  · exact ⟨_, rfl⟩
  · exact ⟨_, routerAt_setRouter_same ..⟩

section
variable (r port : Nat) (plane : Bool) (m : Msg) (s : State)

/-- What does not read that note is as it was. -/
theorem router_noteGrant {α : Type} (f : Router → α) (hf : ∀ x g, f { x with grant := g } = f x) :
    f (routerAt (noteGrant r port plane m s) r) = f (routerAt s r) := by
  obtain ⟨g, hg⟩ := routerAt_noteGrant r port plane m s
  rw [hg, hf]

@[simp] theorem combine_noteGrant : (routerAt (noteGrant r port plane m s) r).combine = (routerAt s r).combine :=
  router_noteGrant r port plane m s Router.combine fun _ _ => rfl

@[simp] theorem merge_noteGrant : (routerAt (noteGrant r port plane m s) r).merge = (routerAt s r).merge :=
  router_noteGrant r port plane m s Router.merge fun _ _ => rfl

theorem queues_noteGrant : (routerAt (noteGrant r port plane m s) r).queues = (routerAt s r).queues :=
  router_noteGrant r port plane m s Router.queues fun _ _ => rfl

theorem ownerTurn_noteGrant : (routerAt (noteGrant r port plane m s) r).ownerTurn = (routerAt s r).ownerTurn :=
  router_noteGrant r port plane m s Router.ownerTurn fun _ _ => rfl

end

@[simp] theorem routerAt_setCombine (r i : Nat) (e : Combine) (s : State) :
    routerAt (setCombine r i e s) r = { routerAt s r with combine := mput (routerAt s r).combine i e } := routerAt_setRouter_same ..

@[simp] theorem routerAt_setMerge (r i : Nat) (e : MergeEntry) (s : State) :
    routerAt (setMerge r i e s) r = { routerAt s r with merge := mput (routerAt s r).merge i e } := routerAt_setRouter_same ..

@[simp] theorem routerAt_countUp (p off hi lo k : Nat) (s : State) (d : Nat) : routerAt (countUp p off hi lo k s) d = routerAt s d := rfl

@[simp] theorem routerAt_countCombine (r : Nat) (s : State) (d : Nat) : routerAt (countCombine r s) d = routerAt s d := rfl

/-- An owner entry that leaves takes the ejection port, and stands in its table until it has left (R192). -/
@[simp] theorem routerAt_startDelivery (r : Nat) (s : State) (d : Nat) : routerAt (startDelivery r s) d = routerAt s d := by
  unfold startDelivery
  split <;> rfl

theorem mfind_mput_same {α : Type} (m : Map α) (k : Nat) (v : α) : mfind (mput m k v) k = some v := by rw [mfind_mput, if_pos rfl]

section
variable (r port : Nat) (plane : Bool) (m : Msg) (s : State)

theorem combine_added (k : Nat) (e : Combine) :
    mfind (routerAt (noteGrant r port plane m (countCombine r (setCombine r k e s))) r).combine k = some e := by simp [mfind_mput_same]

theorem combine_ownerPut (k : Nat) (y : Msg) :
    mfind (routerAt (noteGrant r port plane m (ownerPut r k y s)) r).combine k = some ⟨true, y, decide (y.count = y.total)⟩ := by
  simp [ownerPut, mfind_mput_same, beq_eq_decide]

theorem combine_ownerAdded (k : Nat) (y : Msg) :
    mfind (routerAt (noteGrant r port plane m (countCombine r (ownerPut r k y s))) r).combine k = some ⟨true, y, decide (y.count = y.total)⟩ := by
  simp [ownerPut, mfind_mput_same, beq_eq_decide]

theorem merge_absorbed (e : Nat × MergeEntry) (y : Msg) : mfind (routerAt (noteGrant r port plane m (absorb r e y s)) r).merge e.1 =
    some { e.2 with reqs := e.2.reqs ++ [mergeReq y] } := by simp [absorb, mfind_mput_same]

theorem merge_opened (i : Nat) (y : Msg) (reply : Option (List Byte)) :
    mfind (routerAt (noteGrant r port plane m (openMerge r i y reply s)) r).merge i =
      some ⟨y.addr, y.rflits, [mergeReq y], true, (routerAt s r).mergeNo, reply, r⟩ := by simp [openMerge, mfind_mput_same]

end

/-! ### A message at its waypoint (R186) -/

/-- At its waypoint a message forgets it, and nothing else. -/
theorem atWaypoint_eq (r : Nat) (m : Msg) : ∃ w, atWaypoint r m = { m with wp := w } := by
  unfold atWaypoint
  split
  · exact ⟨_, rfl⟩
  · exact ⟨m.wp, rfl⟩

section
variable (r : Nat) (m : Msg)

/-- What does not read the waypoint's bit is as it was. -/
theorem msg_atWaypoint {α : Type} (f : Msg → α) (hf : ∀ w, f { m with wp := w } = f m) : f (atWaypoint r m) = f m := by
  obtain ⟨w, hw⟩ := atWaypoint_eq r m
  rw [hw, hf]

theorem addr_atWaypoint : (atWaypoint r m).addr = m.addr := msg_atWaypoint r m Msg.addr fun _ => rfl
theorem rflits_atWaypoint : (atWaypoint r m).rflits = m.rflits := msg_atWaypoint r m Msg.rflits fun _ => rfl
@[simp] theorem dport_atWaypoint : (atWaypoint r m).dport = m.dport := msg_atWaypoint r m Msg.dport fun _ => rfl
theorem nomerge_atWaypoint : (atWaypoint r m).nomerge = m.nomerge := msg_atWaypoint r m Msg.nomerge fun _ => rfl
theorem count_atWaypoint : (atWaypoint r m).count = m.count := msg_atWaypoint r m Msg.count fun _ => rfl
theorem total_atWaypoint : (atWaypoint r m).total = m.total := msg_atWaypoint r m Msg.total fun _ => rfl

end

/-! ### Sums (R190) -/

/-- Lane j of a payload. -/
def payWord (a : Msg) (j : Nat) : Word := BitVec.ofNat 32 (leNat ((a.payload.drop (4 * j)).take 4))

/-- A sum adds lane by lane, in F32 or modulo 2^32, and adds the counts. -/
theorem redSum_eq (a b : Msg) : redSum a b = { a with
    count := a.count + b.count,
    payload := laneBytes ((List.range 64).map fun j => if a.lt then payWord a j + payWord b j else f32Add (payWord a j) (payWord b j)) } := by
  rw [redSum, payLanes, payLanes, List.zipWith_map, List.zipWith_self]
  rfl

/-! ### Reductions (R191, R192) -/

section
variable {c : CoreRef} {port : Fin 11} {plane : Bool} {s q p : State} {m : Msg} (h : HeadReady s q (coreId c) port.val plane m)
  (hp : popHead (coreId c) port.val plane q = p) (hpath : m.path = []) (hcls : m.cls = .reduce)
include h hp hpath hcls

/-- A REDUCE on its way is added into a matching transit entry that has room within TOTAL. -/
theorem exec_reduceAtRouter (busy : Bool) (hway : atData (coreId c) m = false) {k : Nat} {e : Combine}
    (hfind : ((routerAt q (coreId c)).combine.find? fun e => !e.2.owner && canAdd e.2.msg m) = some (k, e)) :
    exec (.reduceAtRouter c port plane busy) s = .next (noteGrant (coreId c) port.val plane m (countCombine (coreId c)
      (setCombine (coreId c) k { e with msg := redSum e.msg m } p))) := by
  subst hp
  refine congrArg Host.Outcome.next (h.acts (by simp [hcls, hway, hpath]) ?_)
  rw [reduceOnWay, hfind]

variable (hdata : atData (coreId c) m = true) (hlink : linkFailed q (coreId c) 0 = false)
  (hfence : fenceOwner q m.src (mfind q.owner (coreId c)) = true)
include hdata hlink hfence

/-- At its destination it is added into the owner entry with its tag. -/
theorem exec_reduceAtOwner_adds {k : Nat} {e : Combine}
    (hfind : ((routerAt q (coreId c)).combine.find? fun e => e.2.owner && e.2.msg.rtag == m.rtag) = some (k, e))
    (hroom : canAdd e.msg m = true) : exec (.reduceAtOwner c port plane) s = .next (noteGrant (coreId c) port.val plane m (countCombine (coreId c)
      (ownerPut (coreId c) k (redSum e.msg m) p))) := by
  subst hp
  refine congrArg Host.Outcome.next (h.acts (by simp [hcls, hdata, hpath]) ?_)
  simp only [reduceOwned, hlink, hfence, hfind, hroom, Bool.not_true, Bool.false_eq_true, if_false, if_true]

/-- Where there is none and its turn has come, it opens one. -/
theorem exec_reduceAtOwner_opens {k : Nat}
    (hfind : ((routerAt q (coreId c)).combine.find? fun e => e.2.owner && e.2.msg.rtag == m.rtag) = none)
    (hturn : ownerGranted q (coreId c) port.val plane = true)
    (hfree : freeIndex (routerAt q (coreId c)).combine 8 = some k) :
    exec (.reduceAtOwner c port plane) s = .next (noteGrant (coreId c) port.val plane m (ownerPut (coreId c) k (atWaypoint (coreId c) m)
      (setRouter (coreId c) { routerAt p (coreId c) with
        ownerTurn := qKey port.val plane } p))) := by
  subst hp
  refine congrArg Host.Outcome.next (h.acts (by simp [hcls, hdata, hpath]) ?_)
  simp only [reduceOwned, hlink, hfence, hfind, hturn, hfree, Bool.not_true, Bool.false_eq_true, if_false]

end

/-- A transit entry that is granted its port and can move on leaves its table. -/
theorem exec_transitEntryRelease {c : CoreRef} {k : Fin 8} {s u : State} {e : Combine} (hon : isDark s (fieldOfCore (coreId c)) = false)
    (he : mfind (routerAt s (coreId c)).combine k.val = some e) (howner : e.owner = false)
    (hturn : granted s (coreId c) 6 e.msg.plane e.msg = true)
    (hmove : moveOn (coreId c) e.msg (setRouter (coreId c) { routerAt s (coreId c) with combine := mdel (routerAt s (coreId c)).combine k.val } s) = some u) :
    exec (.transitEntryRelease c k) s = .next (noteGrant (coreId c) 6 e.msg.plane e.msg u) := by
  refine congrArg Host.Outcome.next ?_
  simp only [transitRelease, hon, he, howner, hturn, hmove, Bool.not_true, Bool.or_self, Bool.false_eq_true, if_false, Option.map_some, Option.getD_some]

/-! ### Reads that merge (R194, R195, R210) -/

section
variable {r : Nat} {chk : StoreCheck} {y : Msg} {p : State} {off : Rng} (hoff : rngOf false (y.addr % 0x40000) (32 * y.rflits) = off)
  (hon : fieldSt p (fieldOfCore r) = .on) (hclear : clearingBank (coreAt p r) off = none) (hlink : linkFailed p r 0 = false)
include hoff hon hclear hlink

theorem readAtCore_absorbs {e : Nat × MergeEntry} (he : openEntry p r y = some e) : readAtCore r chk y p = some (absorb r e y p) := by
  simp [readAtCore, hoff, hon, hclear, hlink, he]

variable (hnew : openEntry p r y = none)
include hnew

theorem readAtCore_serves : readAtCore r chk y p = some (serveRead r chk y p) := by simp [readAtCore, hoff, hon, hclear, hlink, hnew]

end

section
variable {r : Nat} {chk : StoreCheck} {y : Msg} {p u : State} {off : Rng} (hoff : rngOf false (y.addr % 0x40000) (32 * y.rflits) = off)
  (hmode : anyMode (coreAt p r) off 2 = false) (hread : readCheck r chk [off] p = (u, none))
include hoff hmode hread

theorem serveRead_opens {i : Nat} (hfree : freeMerge u r y = some i) :
    serveRead r chk y p = openMerge r i y (some (readMem u y.addr (32 * y.rflits))) u := by
  simp [serveRead, hoff, hmode, hread, hfree]

theorem serveRead_answers (hno : y.nomerge = true) : serveRead r chk y p = injectEngine r (replyMsg y r (readMem u y.addr (32 * y.rflits))) u := by
  simp [serveRead, hoff, hmode, hread, freeMerge, hno]

end

/-- A READ that the fence passes at the core whose store holds its data does what the core makes of it. -/
theorem exec_readAtMergePoint {c : CoreRef} {port : Fin 11} {plane : Bool} {chk : StoreCheck} {s q u : State} {m : Msg}
    (h : HeadReady s q (coreId c) port.val plane m) (hpath : m.path = []) (hcls : m.cls = .read) (hdata : atData (coreId c) m = true)
    (hport : m.dport = 0) (hfence : readFenced q (atWaypoint (coreId c) m) = true)
    (hcore : readAtCore (coreId c) chk (atWaypoint (coreId c) m) (popHead (coreId c) port.val plane q) = some u) :
    exec (.readAtMergePoint c port plane chk) s = .next (noteGrant (coreId c) port.val plane m u) := by
  refine congrArg Host.Outcome.next (h.acts (by simp [hpath, atMergePoint, hcls, hdata]) ?_)
  simp [readMerges, hfence, hdata, hport, hcore]

theorem exec_mergeEntryClose {c : CoreRef} {k : Fin 16} {s : State} {e : MergeEntry} (he : mfind (routerAt s (coreId c)).merge k.val = some e) :
    exec (.mergeEntryClose c k) s = .next (setMerge (coreId c) k.val { e with accepting := false } s) := by
  refine congrArg Host.Outcome.next ?_
  rw [mergeClose, he]

theorem exec_readReplyFanout {c : CoreRef} {k : Fin 16} {s : State} {e : MergeEntry} (hon : isDark s (fieldOfCore (coreId c)) = false)
    (he : mfind (routerAt s (coreId c)).merge k.val = some e) (hreply : e.reply.isSome = true)
    (hfan : (routerAt s (coreId c)).fan.contains k.val = false) :
    exec (.readReplyFanout c k) s = .next (fanNext (coreId c) (setRouter (coreId c) { routerAt s (coreId c) with
      merge := mput (routerAt s (coreId c)).merge k.val { e with accepting := false }, fan := (routerAt s (coreId c)).fan ++ [k.val] } s)) := by
  refine congrArg Host.Outcome.next ?_
  simp only [fanout, hon, he, hreply, hfan, Bool.not_false, Bool.and_self, if_true]

/-- The next copy goes to the next requester, and the entry frees after its last (R182, R195). -/
theorem fanNext_sends {r i : Nat} {s : State} {rest : List Nat} {e : MergeEntry} {l : List Byte} {a : MergeReq} {as : List MergeReq}
    (hfree : mget [] (routerAt s r).queues (qKey 5 false) = []) (hfree' : mget [] (routerAt s r).queues (qKey 5 true) = [])
    (hfan : (routerAt s r).fan = i :: rest) (he : mfind (routerAt s r).merge i = some e) (hreply : e.reply = some l) (hreqs : e.reqs = a :: as) :
    fanNext r s = enqueue r 5 (stamp s r (mergeReply e a e.src l)) (setRouter r
      (if as = [] then { routerAt s r with merge := mdel (routerAt s r).merge i, fan := rest }
        else { routerAt s r with merge := mput (routerAt s r).merge i { e with reqs := as } }) s) := by
  simp only [fanNext, hfree, hfree', hfan, he, hreply, hreqs, List.isEmpty_nil, Bool.and_self, List.isEmpty_iff]

/-! ### Flushes (R203) -/

/-- A change of every router of a list. -/
theorem routerAt_foldl {f : State → Nat → State} {g : Router → Router}
    (hf : ∀ s r d, routerAt (f s r) d = if r = d then g (routerAt s d) else routerAt s d) (hg : ∀ x, g (g x) = g x)
    (l : List Nat) (s : State) (d : Nat) : routerAt (l.foldl f s) d = if d ∈ l then g (routerAt s d) else routerAt s d := by
  induction l generalizing s with
  | nil => simp
  | cons r l ih =>
    rw [List.foldl_cons, ih, hf]
    by_cases hrd : r = d
    · simp [hrd, hg]
    · simp [hrd, Ne.symm hrd]

/-- A router that its field does not list is as after reset. -/
theorem mem_routersOf {s : State} {f d : Nat} (hd : fieldOfCore d = f) (hne : routerAt s d ≠ .reset) : d ∈ routersOf s f := by
  cases hfind : mfind s.routers d with
  | none => exact absurd (by rw [routerAt, mget, hfind]; rfl) hne
  | some x => exact List.mem_map.2 ⟨(d, x), List.mem_filter.2 ⟨mem_of_mfind hfind, by simp [hd]⟩, rfl⟩

/-- A flush of a field does to every router of it what it does to each that the field lists. -/
theorem routerAt_flush {f : State → Nat → State} {g : Router → Router} {n d : Nat}
    (hf : ∀ s r d, routerAt (f s r) d = if r = d then g (routerAt s d) else routerAt s d) (hg : ∀ x, g (g x) = g x)
    (hreset : g .reset = .reset) (s : State) (hd : fieldOfCore d = n) : routerAt ((routersOf s n).foldl f s) d = g (routerAt s d) := by
  rw [routerAt_foldl hf hg]
  split
  · rfl
  · rename_i hmem
    have hres : routerAt s d = .reset := by
      by_contra hne
      exact hmem (mem_routersOf hd hne)
    rw [hres, hreset]

theorem routerAt_flushMerge {f d : Nat} (s : State) (hd : fieldOfCore d = f) :
    routerAt (flushMerge f s) d = { routerAt s d with merge := [], fan := [] } := by
  refine routerAt_flush (g := fun x => { x with merge := [], fan := [] }) (fun s r d => ?_) (fun _ => rfl) rfl s hd
  rw [routerAt_setRouter]
  split
  · rw [‹r = d›]
  · rfl

theorem routerAt_flushReduce {f d : Nat} (s : State) (hd : fieldOfCore d = f) :
    routerAt (flushReduce f s) d = { routerAt s d with combine := (routerAt s d).combine.filter fun e => e.2.leaving } := by
  refine routerAt_flush (g := fun x => { x with combine := x.combine.filter fun e => e.2.leaving }) (fun s r d => ?_) (fun x => ?_) rfl s hd
  · rw [routerAt_setRouter]
    split
    · rw [‹r = d›]
    · rfl
  · simp [List.filter_filter]

/-- Settles O22: each row, reply and flush does what is stated of it above. -/
theorem reductionsCombineAndReadsMerge : Obligations.ReductionsCombineAndReadsMerge := by
  unfold Obligations.ReductionsCombineAndReadsMerge
  intro c port plane s m r q p x y word lanes sum off at_ fenced
  have hready : at_ → HeadReady s q r port.val plane m := fun ⟨hon, hhead, _, hlink, hturn⟩ => ⟨rfl, hon, hhead, hlink, hturn⟩
  have hpath : at_ → m.path = [] := fun ⟨_, _, hpath, _⟩ => hpath
  have haddr : y.addr = m.addr := addr_atWaypoint r m
  have hflits : y.rflits = m.rflits := rflits_atWaypoint r m
  have hoff : rngOf false (y.addr % 0x40000) (32 * y.rflits) = off := by rw [haddr, hflits]
  refine ⟨fun k e hat hcls hway hfind => ?_, fun k e u => exec_transitEntryRelease, fun k e hat hcls hdata hfenced hfind hroom => ?_,
    fun k hat hcls hdata hfenced hfind hturn hfree => ?_,
    fun chk hat hcls hdata hport hfence hon hclear hlink => ⟨fun e he => ?_, fun u hnew hmode hread => ⟨fun i hfree => ?_, fun hno => ?_⟩⟩,
    fun k e he => ?_, fun k e => exec_readReplyFanout, fun i rest e l a as => fanNext_sends, fun h f hreach hdark => ⟨?_, ?_⟩⟩
  · refine ⟨_, exec_reduceAtRouter (hready hat) rfl (hpath hat) hcls true hway hfind, ?_, ?_⟩
    · exact (combine_added ..).trans (congrArg (fun z => some { e with msg := z }) (redSum_eq ..))
    · rw [queues_noteGrant, routerAt_countCombine, routerAt_setCombine]
  · refine ⟨_, exec_reduceAtOwner_adds (hready hat) rfl (hpath hat) hcls hdata hfenced.1 hfenced.2 hfind hroom, ?_⟩
    exact (combine_ownerAdded ..).trans (congrArg (fun z : Msg => some (⟨true, z, decide (e.msg.count + m.count = e.msg.total)⟩ : Combine)) (redSum_eq ..))
  · refine ⟨_, exec_reduceAtOwner_opens (hready hat) rfl (hpath hat) hcls hdata hfenced.1 hfenced.2 hfind hturn hfree, ?_, ?_⟩
    · refine (combine_ownerPut ..).trans ?_
      rw [count_atWaypoint, total_atWaypoint]
    · rw [ownerTurn_noteGrant, ownerPut, routerAt_startDelivery, routerAt_setCombine, routerAt_setRouter_same]
  · exact ⟨_, exec_readAtMergePoint (hready hat) (hpath hat) hcls hdata hport hfence (readAtCore_absorbs hoff hon hclear hlink he), merge_absorbed ..⟩
  · have hserve := serveRead_opens hoff hmode hread hfree
    rw [haddr, hflits] at hserve
    refine ⟨_, exec_readAtMergePoint (hready hat) (hpath hat) hcls hdata hport hfence
      ((readAtCore_serves hoff hon hclear hlink hnew).trans (congrArg some hserve)), (merge_opened ..).trans ?_⟩
    rw [← haddr, ← hflits]
  · have hserve := serveRead_answers hoff hmode hread ((nomerge_atWaypoint r m).trans hno)
    rw [haddr, hflits] at hserve
    exact exec_readAtMergePoint (hready hat) (hpath hat) hcls hdata hport hfence
      ((readAtCore_serves hoff hon hclear hlink hnew).trans (congrArg some hserve))
  · refine ⟨_, exec_mergeEntryClose he, ?_, rfl⟩
    rw [routerAt_setMerge]
    exact mfind_mput_same ..
  · refine ⟨_, congrArg Host.Outcome.next (onPage_acts hreach hdark), fun d hd => ?_⟩
    rw [routerAt_flushMerge s hd]
    exact ⟨rfl, rfl⟩
  · refine ⟨_, congrArg Host.Outcome.next (onPage_acts hreach hdark), fun d hd => ?_⟩
    rw [routerAt_flushReduce s hd]
    exact ⟨rfl, rfl⟩

end Sys2Proof.Machine
end

section
/-! SUPPORT. What the operations of a load leave as they were: the models and installs, and the registers of page 0x0018 (R57, R184, R242,
R264). -/

namespace Sys2Proof.Machine

open Sys2Proof

/-! ### Weights -/

theorem weights_recordErrAny (p : Nat) (c : Code) (s : State) : (recordErrAny p c s).weights = s.weights :=
  (congrArg State.weights (offRegs_recordErrAny ..) :)

theorem weights_injectFcu (f : Nat) (m : Msg) (s : State) : (injectFcu f m s).weights = s.weights :=
  (congrArg State.weights (sansFire_injectEngine ..) :)

theorem weights_sendContent (m : Nat) (p : Placed) (f : FieldImg) (c : ContentRec) (s : State) :
    (sendContent m p f c s).weights = s.weights := by
  unfold sendContent
  split
  · exact foldl_same (g := State.weights) (fun _ _ => weights_injectFcu ..) ..
  · rfl

/-- Contents on their way change no model (R242). -/
theorem weights_writeContent (m : Nat) (p : Placed) (s : State) : (writeContent m p s).weights = s.weights := by
  refine foldl_same (g := State.weights) (fun s f => ?_) ..
  have hsent : (f.content.foldl (fun s c => sendContent m p f c s) s).weights = s.weights :=
    foldl_same (g := State.weights) (fun _ _ => weights_sendContent ..) ..
  dsimp only
  split
  · exact hsent
  · exact hsent

/-- Threads that start change no model (R242). -/
theorem weights_startPlacement (p : Placed) (s : State) : (startPlacement p s).weights = s.weights :=
  foldl_same (g := State.weights) (fun _ _ => by exact foldl_same (g := State.weights) (fun _ _ => by rfl) ..) ..

theorem weights_clearEnrol (ps : List Nat) (s : State) : (clearEnrol ps s).weights = s.weights := foldl_same (g := State.weights) (fun _ _ => by rfl) ..

theorem weights_mcRelease (g : Nat) (s : State) : (mcRelease g s).weights = s.weights := weights_clearEnrol ..

/-! ### Messages on the chain (R264, R376) -/

theorem offLinks_pumpCtl (n k : Nat) (s : State) : offLinks (pumpCtl n k s) = offLinks s := by
  induction k generalizing s with
  | zero => rfl
  | succ k ih =>
    unfold pumpCtl
    dsimp only
    split
    · split
      · rw [ih, offLinks_sendFlit, offLinks_setLink]
      · rfl
    · rfl

theorem offLinks_pumpVc (n vc k : Nat) (s : State) : offLinks (pumpVc n vc k s) = offLinks s := by
  induction k generalizing s with
  | zero => rfl
  | succ k ih =>
    unfold pumpVc
    dsimp only
    split
    · rw [ih, foldl_same (g := offLinks) fun _ _ => offLinks_movedOn .., offLinks_sendFlit, offLinks_setLink]
    · rfl

theorem offLinks_transmit (n vc : Nat) (back : Option (Nat × Nat × Nat)) (p : Pcl) (s : State) : offLinks (transmit n vc back p s) = offLinks s := by
  have hpump : ∀ s, offLinks (pumpTx n s) = offLinks s := fun s =>
    (foldl_same (g := offLinks) (fun _ _ => offLinks_pumpVc ..) ..).trans (offLinks_pumpCtl ..)
  rw [transmit, hpump, offLinks_setLink]

theorem weights_of_offLinks {s t : State} (h : offLinks t = offLinks s) : t.weights = s.weights := (congrArg State.weights h :)

theorem weights_sendSvc (l who : Nat) (q : Svc) (s : State) : (sendSvc l who q s).weights = s.weights := by
  unfold sendSvc
  exact (weights_of_offLinks (offLinks_transmit ..)).trans rfl

/-- The queries of an install change no model (R264). -/
theorem weights_sendQueries (who : Nat) (i : Inst) (s : State) : (sendQueries who i s).weights = s.weights :=
  foldl_same (g := State.weights) (fun _ _ => weights_sendSvc ..) ..

/-- An install of a model that begins is the one under way, and no other job changes (R264). -/
theorem installBegins_weights (i : Inst) (s : State) : (installBegins i s).weights.inst = some i ∧ (installBegins i s).weights.load = s.weights.load := by
  rw [installBegins, startInst, weights_sendQueries]
  exact ⟨rfl, rfl⟩

/-! ### Shadows and enrolment (R52, R57, R242) -/

/-- The models and the registers. -/
def modelsAndRegs (s : State) : Weights × Map Word := (s.weights, s.live)

theorem modelsAndRegs_loadShadows (tenant : Nat) (p : Placed) (s : State) : modelsAndRegs (loadShadows tenant p s) = modelsAndRegs s := by
  have hregion : ∀ s q, modelsAndRegs (shadowRegion tenant q s) = modelsAndRegs s := fun s q => by
    unfold shadowRegion
    dsimp only
    split <;> rfl
  have hwatches : ∀ s f, modelsAndRegs (shadowWatches p f s) = modelsAndRegs s := fun s f => foldl_same (g := modelsAndRegs) (fun _ _ => by rfl) ..
  have hslots : ∀ s (l : List (Nat × SlotRec)), modelsAndRegs (l.foldl (fun s q => shadowSlot q.1 q.2 s) s) = modelsAndRegs s := fun s l =>
    foldl_same (g := modelsAndRegs) (fun _ _ => by rfl) ..
  unfold loadShadows
  refine (foldl_same (g := modelsAndRegs) hregion ..).trans ((foldl_same (g := modelsAndRegs) (fun _ _ => by rfl) ..).trans
    (foldl_same (g := modelsAndRegs) (fun s e => ?_) ..))
  dsimp only
  split
  · exact (hwatches ..).trans (hslots ..)
  · exact hslots ..

/-- An enrolment is discarded, refused with a record, or writes BLK_TXN and changes the groups (R51, R57). -/
theorem enrol_cases (m : Master) (p g : Nat) (s : State) : enrol m p g s = dropUnassigned (masterId m) p 0x18 s ∨
    (∃ c, enrol m p g s = recordErrAny p c s) ∨ ∃ w gs, enrol m p g s = setLive p 0x18 w { s with groups := gs } := by
  unfold enrol
  split
  · exact .inl rfl
  · split
    · exact .inr (.inl ⟨_, rfl⟩)
    · dsimp only
      split_ifs
      · exact .inr (.inl ⟨_, rfl⟩)
      · exact .inr (.inl ⟨_, rfl⟩)
      · cases pageGroup s p with
        | none => exact .inr (.inr ⟨_, _, rfl⟩)
        | some h => exact .inr (.inr ⟨_, _, rfl⟩)

/-- Of the registers, enrolment changes none of the configuration area and none of the models (R49, R51, R57). -/
theorem live_enrol {q a : Nat} (m : Master) (p g : Nat) (s : State) (hlo : 0x18 < a) (hhi : a < 0x800) : live (enrol m p g s) q a = live s q a := by
  obtain h | ⟨c, h⟩ | ⟨w, gs, h⟩ := enrol_cases m p g s <;> rw [h]
  · rw [dropUnassigned, live_lastDrop _ _ _ _ (by omega) (by omega), countUp, setLiveF, live_setLive_off _ _ (by decide) (by omega) (by omega)]
  · exact live_recordErr_ne _ _ _ _ (by omega) (by omega) (by omega) (by omega)
  · rw [live_setLive_off _ _ (by decide) (by omega) (by omega)]
    rfl

theorem weights_enrol (m : Master) (p g : Nat) (s : State) : (enrol m p g s).weights = s.weights := by
  obtain h | ⟨c, h⟩ | ⟨w, gs, h⟩ := enrol_cases m p g s <;> rw [h]
  · rw [dropUnassigned, lastDrop, setLive_weights, countUp, setLiveF, setLive_weights]
  · exact weights_recordErrAny ..
  · rw [setLive_weights]

/-- A group that the module controller arms is validating, and neither the models nor their registers change (R57, R242). -/
theorem mcGroup_arms {pages : List Nat} {lead g : Nat} {s t : State} (h : mcGroup pages lead s = .ok (g, t)) :
    (grp t g).st = .validating ∧ t.weights = s.weights ∧ ∀ q a, 0x18 < a → a < 0x800 → live t q a = live s q a := by
  unfold mcGroup at h
  split at h
  · cases h
  · split at h
    · cases h
    · dsimp only at h
      cases h
      have halloc : (allocGroup .mc s).weights = s.weights ∧ (allocGroup .mc s).live = s.live := by
        unfold allocGroup
        split <;> exact ⟨rfl, rfl⟩
      refine ⟨?_, ?_, fun q a hlo hhi => ?_⟩
      · rw [grp_setGrp_same]
      · exact (foldl_same (g := State.weights) (fun _ _ => weights_enrol ..) ..).trans halloc.1
      · exact (foldl_same (g := fun s => live s q a) (fun _ _ => live_enrol _ _ _ _ hlo hhi) ..).trans (live_congr halloc.2 ..)

end Sys2Proof.Machine
end

section
/-! Models load and unload (R184, R241 to R243, R258, R260, R264, R273, R274, R280, R281, R405). -/

namespace Sys2Proof.Machine

open Sys2Proof

/-! ### Models -/

theorem modelAt_setModel_same (m : Nat) (x : Model) (s : State) : modelAt (setModel m x s) m = x := (mget_mset ..).trans (if_pos rfl)

theorem modelAt_congr {s t : State} (h : t.weights = s.weights) (m : Nat) : modelAt t m = modelAt s m := by rw [modelAt, modelAt, h]

/-- The load under way is another. -/
def setLoad (j : Option LoadJob) (s : State) : State := { s with weights := { s.weights with load := j } }

/-! ### Commands of page 0x0018 (R280) -/

/-- The state in which a command of page 0x0018 acts: where it is the one asked for, it is asked for no longer. -/
def takeAsked (op : Nat) (s : State) : State :=
  if s.weights.asked = some op then { s with weights := { s.weights with asked := none } } else s

theorem takeAsked_eq (op : Nat) (s : State) : ∃ a, takeAsked op s = { s with weights := { s.weights with asked := a } } := by
  unfold takeAsked
  split
  · exact ⟨_, rfl⟩
  · exact ⟨s.weights.asked, rfl⟩

section
variable {ma : Master} {op off : Nat} {act : State → State} {s : State}

theorem onPage_pWl (hreach : reaches ma s = true) : onPage ma pWl off act s = act s := onPage_acts hreach rfl

theorem wlCommand_acts (h : s.weights.asked = some op ∨ (cmdBusy s 0x820 = false ∧ mcStops s = false)) :
    wlCommand op act s = act (takeAsked op s) := by
  unfold wlCommand takeAsked
  split
  · rfl
  · obtain ⟨hbusy, hstops⟩ := h.resolve_left ‹_›
    rw [hbusy, hstops]
    rfl

theorem wlCommand_busy (hasked : s.weights.asked = none) (hbusy : cmdBusy s 0x820 = true) : wlCommand op act s = recordErrAny pWl E.wlBusy s := by
  rw [wlCommand, hasked, hbusy]
  rfl

end

theorem live_endCmd_failed {c : Code} (hc : c ≠ 0) (s : State) :
    live (endCmd 0x820 c s) pWl 0x820 = BitVec.ofNat 32 (2 ^ 31 + 2 ^ 30 + c.toNat) := by
  rw [endCmd, if_neg hc, setCmdResult, live_setLive_same]
  norm_num

/-- A command that finds another one BUSY is recorded and does nothing else to the models (R280). -/
theorem wlBusy_recorded (s : State) : (recordErrAny pWl E.wlBusy s).weights = s.weights ∧ errValid (recordErrAny pWl E.wlBusy s) pWl = true ∧
    live (recordErrAny pWl E.wlBusy s) pWl 0x820 = live s pWl 0x820 :=
  ⟨weights_recordErrAny .., errValid_recordErr .., live_recordErr_ne _ _ _ _ (by decide) (by decide) (by decide) (by decide)⟩

/-! ### What a LOAD checks first (R258, R260, R281) -/

theorem mem_of_firstFail {l : List (Bool × Code)} {c : Code} (h : firstFail l = some c) : ∃ e ∈ l, e.2 = c := by
  induction l with
  | nil => cases h
  | cons e l ih =>
    rw [firstFail] at h
    split at h
    · exact ⟨e, List.mem_cons_self, Option.some.inj h⟩
    · obtain ⟨e', hmem, he'⟩ := ih h
      exact ⟨e', List.mem_cons_of_mem _ hmem, he'⟩

theorem loadArgs_ne_zero {s : State} {c : Code} (h : loadArgs s = some c) : c ≠ 0 := by
  obtain ⟨e, hmem, rfl⟩ := mem_of_firstFail h
  simp only [List.mem_cons, List.not_mem_nil, or_false] at hmem
  obtain rfl | rfl | rfl | rfl := hmem <;> dsimp only <;> decide

section
variable {s : State}

theorem loadArgs_notEmpty (h : modelState s (wlF s 5 0) ≠ 0) : loadArgs s = some E.modelBusy := by
  simp [loadArgs, firstFail, h]

variable (h : modelState s (wlF s 5 0) = 0)
include h

theorem loadArgs_pinnedStreamed (hpin : wlF s 8 8 = 1) (hstr : wlF s 9 9 = 1) : loadArgs s = some E.modelArgInvalid := by
  simp [loadArgs, firstFail, h, hpin, hstr]

theorem loadArgs_noSecond (hpin : wlF s 8 8 = 0) (hstr : wlF s 9 9 = 0) (haddr : addr64 s 0x80C = 0) : loadArgs s = some E.modelArgInvalid := by
  simp [loadArgs, firstFail, h, hpin, hstr, haddr]

theorem loadArgs_noDraftee (hpin : wlF s 8 8 = 1) (hstr : wlF s 9 9 = 0) (hdraft : wlF s 10 10 = 1) (hq : modelState s (wlF s 21 16) = 0) :
    loadArgs s = some E.modelInvalid := by
  simp [loadArgs, firstFail, h, hpin, hstr, hdraft, hq]

end

/-! ### How a LOAD ends or begins (R242, R281) -/

/-- The group of a LOAD that its checks pass: of the pages of its placement, in the state in which they hold their shadows. -/
def loadGroup (m : Nat) (pl : LoadPlan) (u : State) : Except Code (Nat × State) :=
  mcGroup (loadPages pl.placed) (loadLead u pl.placed) (loadShadows (wlF u 31 24) pl.placed (loadBegins m pl u))

section
variable {host : HostMem} {s u : State}

theorem loadCmd_refused {c : Code} (h : loadArgs s = some c) : loadCmd host s = endCmd 0x820 c s := by
  rw [loadCmd, loadChecks, h]

theorem loadCmd_fails {c : Code} (h : loadChecks host s = (.error c, u)) : loadCmd host s = endCmd 0x820 c u := by rw [loadCmd, h]

variable {pl : LoadPlan} (h : loadChecks host s = (.ok pl, u))
include h

theorem loadCmd_ungrouped {c : Code} (hgroup : loadGroup (wlF u 5 0) pl u = .error c) : loadCmd host s = endCmd 0x820 c u := by
  rw [loadGroup] at hgroup
  simp only [loadCmd, h, loadStart, hgroup]

theorem loadCmd_arms {g : Nat} {w : State} (hgroup : loadGroup (wlF u 5 0) pl u = .ok (g, w)) :
    loadCmd host s = setCmdResult 0x820 1 0 (setLoad (some ⟨wlF u 5 0, .commit g, pl.img⟩) w) := by
  rw [loadGroup] at hgroup
  simp only [loadCmd, h, loadStart, hgroup]
  rfl

end

/-- MODEL_STATUS of a model whose load begins says LOADING. -/
theorem modelState_loadBegins (m : Nat) (pl : LoadPlan) (u : State) : modelState (loadBegins m pl u) m = 1 := by
  have hpin : wlF u 8 8 < 2 := bits_lt ..
  have htenant : wlF u 31 24 < 256 := bits_lt ..
  have hdraftee : wlF u 21 16 < 64 := bits_lt ..
  have hstr : b2n pl.streamed < 2 := by unfold b2n; split <;> decide
  rw [modelState, liveF, loadBegins, live_setLive_same, bits, BitVec.toNat_ofNat]
  split <;> omega

/-- A LOAD that passes: the model is LOADING with its placement, its group is validating, and the command reads BUSY. -/
theorem loadCmd_begins {pl : LoadPlan} {u w : State} {g m : Nat} (hm : m < 64)
    (hgroup : loadGroup m pl u = .ok (g, w))
    {t : State} (ht : t = setCmdResult 0x820 1 0 (setLoad (some ⟨m, .commit g, pl.img⟩) w)) :
    t.weights.load = some ⟨m, .commit g, pl.img⟩ ∧ (modelAt t m).place = some pl.placed ∧ modelState t m = 1 ∧ (grp t g).st = .validating ∧
      live t pWl 0x820 = 0x40000000 := by
  subst ht
  obtain ⟨hst, hweights, hlive⟩ := mcGroup_arms hgroup
  have hshadows := modelsAndRegs_loadShadows (wlF u 31 24) pl.placed (loadBegins m pl u)
  have hmodels : w.weights = (loadBegins m pl u).weights := hweights.trans (congrArg Prod.fst hshadows)
  refine ⟨rfl, ?_, ?_, hst, live_setLive_same ..⟩
  · have hplace : modelAt (loadBegins m pl u) m = { Model.reset with place := some pl.placed, alt := pl.alt } := modelAt_setModel_same ..
    rw [← modelAt_congr hmodels] at hplace
    exact congrArg Model.place hplace
  · rw [← modelState_loadBegins m pl u, modelState, liveF, setCmdResult, live_setLive_off _ _ (by decide) (by omega) (by omega)]
    exact congrArg (bits · 31 29) ((hlive _ _ (by omega) (by omega)).trans (live_congr (congrArg Prod.snd hshadows) ..))

/-! ### The stages of a load (R242, R243, R264) -/

/-- A model becomes READY with epoch A ACTIVE, and the command is done. -/
def madeReady (m : Nat) (s : State) : State := endCmd 0x820 0 (setModelState m 2 (setEpochSt m 0 3 (setBoth pWl (0x40 + 4 * m) 0 s)))

section
variable {s : State} {j : LoadJob} (hload : s.weights.load = some j)
include hload

/-- A group that has ended otherwise than COMMITTED refuses the load. -/
theorem exec_loadContent_refused {g : Nat} (hphase : j.phase = .commit g) (hdone : (grp s g).st = .done) : exec .loadContent s =
    .next (setCmdResult 0x820 3 (grp s g).code (setLive pWl (0x200 + 4 * j.model) 0 (setModel j.model .reset
      (mcRelease g (setLoad none s))))) := by
  refine congrArg Host.Outcome.next ?_
  simp only [loadContent, hload, hphase, hdone, if_true]
  rfl

variable {p : Placed} (hplace : (modelAt s j.model).place = some p)
include hplace

/-- The banks being clear, the contents leave for their cores. -/
theorem exec_loadContent_sends (hphase : j.phase = .content) (hclear : ∀ c ∈ coresOf p, (coreAt s c).clearing = []) : exec .loadContent s =
    .next (writeContent j.model p (setLoad (some { j with phase := .landing }) s)) := by
  refine congrArg Host.Outcome.next ?_
  have hnone : ((coresOf p).any fun c => !(coreAt s c).clearing.isEmpty) = false :=
    List.any_eq_false.2 fun c hc => by simp [hclear c hc]
  simp only [loadContent, hload, hphase, hplace, hnone, Bool.false_eq_true, if_false]
  rfl

/-- None being under way any more, the install begins. -/
theorem exec_loadContent_installs (hphase : j.phase = .landing) (hfly : contentsFly s j.model = false) : exec .loadContent s =
    .next (installBegins (loadInst s j) (setLoad (some { j with phase := .install }) s)) := by
  refine congrArg Host.Outcome.next ?_
  simp only [loadContent, hload, hphase, hplace, hfly, Bool.false_eq_true, if_false]
  rfl

theorem exec_loadThreadStart (hphase : j.phase = .threads) (hpage : pageGroup s pWl = none) : exec .loadThreadStart s =
    .next (madeReady j.model (startPlacement p (setLoad none s))) := by
  refine congrArg Host.Outcome.next ?_
  simp only [loadThreadStart, hload, hphase, hplace, hpage, Option.isSome_none, Bool.false_eq_true, if_false]
  rfl

end

/-- One field's only record, without marks, leaves as messages of up to 512 bytes. -/
theorem writeContent_one {m k : Nat} {p : Placed} {f : FieldImg} {c : ContentRec} (hfields : p.img.fields = [f]) (hdebug : p.img.debug = false)
    (hcontent : f.content = [c]) (hbound : boundCore p f.field c.slot = some k) (s : State) : writeContent m p s =
      (piecesOf 512 512 c.off (patched p f c).length).foldl (fun s q => injectFcu f.field (towardAddr (coreAddr k (c.off + q.1))
        { msgNull with cls := .data, payload := ((patched p f c).drop q.1).take q.2, origin := .fcu m c.full }) s) s := by
  simp only [writeContent, hfields, hdebug, hcontent, List.foldl_cons, List.foldl_nil, Bool.false_eq_true, if_false, sendContent, hbound]

/-- A refused load leaves its model EMPTY and its group FREE. -/
theorem loadRefused_state {g m : Nat} (hm : m < 64) (c : Code) (s : State) {t : State} (ht : t = setCmdResult 0x820 3 c
    (setLive pWl (0x200 + 4 * m) 0 (setModel m .reset (mcRelease g (setLoad none s))))) :
    t.weights.load = none ∧ live t pWl 0x820 = BitVec.ofNat 32 (2 ^ 31 + 2 ^ 30 + c.toNat) ∧ modelState t m = 0 ∧ modelAt t m = Model.reset ∧
      (grp t g).st = .free := by
  subst ht
  refine ⟨congrArg Weights.load (weights_mcRelease ..), ?_, ?_, modelAt_setModel_same .., ?_⟩
  · rw [setCmdResult, live_setLive_same]
    norm_num
  · rw [modelState, liveF, setCmdResult, live_setLive_off _ _ (by decide) (by omega) (by omega), live_setLive_same]
    decide
  · have hfree : grp (mcRelease g (setLoad none s)) g = groupReset := grp_setGrp_same ..
    rw [grp] at hfree ⊢
    exact congrArg Group.st hfree

theorem madeReady_state {m : Nat} (hm : m < 64) (s : State) : modelState (madeReady m s) m = 2 ∧ epochSt (madeReady m s) m 0 = 3 ∧
    activeEp (madeReady m s) m = 0 ∧ live (madeReady m s) pWl 0x820 = 0x80000000 := by
  refine ⟨?_, ?_, ?_, live_setLive_same ..⟩
  · rw [modelState, liveF, madeReady, endCmd, setCmdResult, live_setLive_off _ _ (by decide) (by omega) (by omega), setModelState, setLiveF,
      live_setLive_same, bits_withBits _ (by decide) (by decide) (by decide)]
  · rw [epochSt, liveF, madeReady, endCmd, setCmdResult, live_setLive_off _ _ (by decide) (by omega) (by omega), setModelState, setLiveF,
      live_setLive_same, bits_withBits_outside _ (by decide) (by decide), setEpochSt, setLiveF, live_setLive_same]
    exact bits_withBits _ (by decide) (by decide) (by decide)
  · rw [activeEp, liveF, madeReady, endCmd, setCmdResult, live_setLive_off _ _ (by decide) (by omega) (by omega), setModelState, setLiveF,
      live_setLive_off _ _ (by omega) (by omega) (by omega), setEpochSt, setLiveF, live_setLive_off _ _ (by omega) (by omega) (by omega),
      setBoth, live_setLive_same]
    decide

/-! ### Threads of a placement start (R104, R242) -/

/-- The start offsets of a slot. -/
def setStartPcs (pcs : List Nat) (x : Core) : Core :=
  pcs.zipIdx.foldl (fun x k => { x with startPc := mset 0 x.startPc k.2 (BitVec.ofNat 64 k.1) }) x

theorem threads_setStartPcs (pcs : List Nat) (x : Core) : (setStartPcs pcs x).threads = x.threads := by
  unfold setStartPcs
  generalize pcs.zipIdx = l
  induction l generalizing x with
  | nil => rfl
  | cons k l ih => rw [List.foldl_cons, ih]

theorem startPc_foldl (l : List Nat) (i j : Nat) (x : Core) :
    mget 0 ((l.zipIdx i).foldl (fun x k => { x with startPc := mset 0 x.startPc k.2 (BitVec.ofNat 64 k.1) }) x).startPc j =
      if i ≤ j then (l[j - i]?.map (BitVec.ofNat 64)).getD (mget 0 x.startPc j) else mget 0 x.startPc j := by
  induction l generalizing i x with
  | nil => simp
  | cons a l ih =>
    rw [List.zipIdx_cons, List.foldl_cons, ih, mget_mset]
    obtain hlt | rfl | ⟨d, rfl⟩ : j < i ∨ j = i ∨ ∃ d, j = i + 1 + d := by
      obtain h | h | h := Nat.lt_trichotomy j i
      · exact .inl h
      · exact .inr (.inl h)
      · exact .inr (.inr (Nat.exists_eq_add_of_lt h |>.imp fun d hd => by omega))
    · simp [show ¬ i + 1 ≤ j by omega, show ¬ i ≤ j by omega, show i ≠ j by omega]
    · simp
    · simp [show i ≤ i + 1 + d by omega, show i ≠ i + 1 + d by omega, show i + 1 + d - i = d + 1 by omega]

theorem startPc_setStartPcs {pcs : List Nat} {n a : Nat} (h : pcs[n]? = some a) (x : Core) :
    mget 0 (setStartPcs pcs x).startPc n = BitVec.ofNat 64 a := by
  rw [setStartPcs, startPc_foldl, if_pos (Nat.zero_le n), Nat.sub_zero, h]
  rfl

/-- A core of which a slot's record starts threads. -/
def startSlot (mask : BitVec 16) (pcs : List Nat) (x : Core) : Core := (threadCmd mask.toNat 0 (setStartPcs pcs x)).1

theorem startPlacement_one {p : Placed} {f : FieldImg} {r : SlotRec} {k : Nat} (hfields : p.img.fields = [f]) (hrecs : f.recs = [r])
    (hcores : p.cores = [[k]]) (s : State) : startPlacement p s = updCore k (startSlot r.start r.pcs) s := by
  simp only [startPlacement, hfields, hrecs, hcores, List.zip_cons_cons, List.zip_nil_right, List.foldl_cons, List.foldl_nil]
  rfl

/-- A stopped thread that the mask names is READY at its start offset. -/
theorem started_thread {mask : BitVec 16} {pcs : List Nat} {x : Core} {n : Nat} (hn : n < 16) (hmask : mask.getLsbD n = true)
    (hst : (threadAt x n).st = .stopped) : (threadAt (startSlot mask pcs x) n).st = .ready ∧
      ∀ a, pcs[n]? = some a → (threadAt (startSlot mask pcs x) n).pc = BitVec.ofNat 18 a := by
  have hmem : n ∈ maskThreads mask.toNat := mem_maskThreads (j := ⟨n, hn⟩).2 hmask
  have hthread : threadAt (setStartPcs pcs x) n = threadAt x n := by rw [threadAt, threadAt, threads_setStartPcs]
  rw [startSlot, threadCmd_start, threadAt_startAll, if_pos hmem, hthread]
  simp only [startOf, hst, true_and]
  intro a ha
  rw [startPc_setStartPcs ha, BitVec.setWidth_ofNat_of_le (by decide)]

/-! ### UNLOAD (R273, R274) -/

/-- The streams of a model do not depend on the registers of page 0x0018. -/
theorem streamsOf_setLive {m a : Nat} (ha : a < 4096) (v : Word) (s : State) : streamsOf (setLive pWl a v s) m = streamsOf s m := by
  have hdraft : ∀ k, draftOf (setLive pWl a v s) k = draftOf s k := fun k => by
    rw [draftOf, liveF, live_setLive_ne v s (by unfold regKey pWl; omega)]
    rfl
  simp only [streamsOf, hdraft, setLive_serving]

section
variable {s : State}

theorem unloadCmd_empty (h : modelState s (wlF s 5 0) = 0) :
    live (unloadCmd s) pWl 0x820 = BitVec.ofNat 32 (2 ^ 31 + 2 ^ 30 + E.modelInvalid.toNat) := by
  have hcmd : unloadCmd s = endCmd 0x820 E.modelInvalid s := by simp [unloadCmd, firstFail, h]
  rw [hcmd, live_endCmd_failed (by decide)]

variable (h : modelState s (wlF s 5 0) ≠ 0)
include h

theorem unloadCmd_locked (hlocked : pageLocked s pWl = true) :
    live (unloadCmd s) pWl 0x820 = BitVec.ofNat 32 (2 ^ 31 + 2 ^ 30 + E.epochBusy.toNat) ∧ (unloadCmd s).weights = s.weights := by
  have hcmd : unloadCmd s = endCmd 0x820 E.epochBusy s := by simp [unloadCmd, firstFail, h, wlLocked, hlocked]
  rw [hcmd, live_endCmd_failed (by decide)]
  exact ⟨rfl, rfl⟩

/-- Without streams, the model is UNLOADING at once and the command is BUSY. -/
theorem unloadCmd_begins (hfree : pageLocked s pWl = false) (hstreams : streamsOf s (wlF s 5 0) = []) :
    modelState (unloadCmd s) (wlF s 5 0) = 3 ∧ (unloadCmd s).weights.unloading = some (wlF s 5 0) ∧ live (unloadCmd s) pWl 0x820 = 0x40000000 := by
  have hm : wlF s 5 0 < 64 := bits_lt ..
  have hnone : streamsOf (setCmdResult 0x820 1 0 { s with weights := { s.weights with unloading := some (wlF s 5 0) } }) (wlF s 5 0) = [] :=
    (streamsOf_setLive (by decide) ..).trans hstreams
  have hcmd : unloadCmd s = setModelState (wlF s 5 0) 3
      (setCmdResult 0x820 1 0 { s with weights := { s.weights with unloading := some (wlF s 5 0) } }) := by
    have hbegin : unloadCmd s = unloadModel (wlF s 5 0) E.modelUnloaded
        (setCmdResult 0x820 1 0 { s with weights := { s.weights with unloading := some (wlF s 5 0) } }) := by
      simp [unloadCmd, firstFail, h, wlLocked, hfree]
    rw [hbegin, unloadModel, hnone, List.foldl_nil]
  rw [hcmd]
  refine ⟨?_, rfl, ?_⟩
  · rw [modelState, liveF, setModelState, setLiveF, live_setLive_same, bits_withBits _ (by decide) (by decide) (by decide)]
  · rw [setModelState, setLiveF, live_setLive_off _ _ (by omega) (by decide) (by omega), setCmdResult, live_setLive_same]
    rfl

end

/-! ### What a teardown frees stays free (R274, R402, R405) -/

/-- The owners of cores and tallies, the core stores, and the model whose UNLOAD is under way. -/
def holdings (s : State) : Map Nat × Map Nat × Map Byte × Option Nat := (s.owner, s.tallyOwner, s.mem, s.weights.unloading)

/-- From s to t nothing free is taken and no store byte that is 0 is written, and the same UNLOAD is under way. -/
structure Frees (s t : State) : Prop where
  owner : ∀ c, mfind s.owner c = none → mfind t.owner c = none
  tally : ∀ k, mfind s.tallyOwner k = none → mfind t.tallyOwner k = none
  mem : ∀ a, mget 0 s.mem a = 0 → mget 0 t.mem a = 0
  unloading : t.weights.unloading = s.weights.unloading

theorem Frees.refl (s : State) : Frees s s := ⟨fun _ h => h, fun _ h => h, fun _ h => h, rfl⟩

theorem Frees.trans {s t u : State} (h : Frees s t) (g : Frees t u) : Frees s u :=
  ⟨fun c hc => g.owner c (h.owner c hc), fun k hk => g.tally k (h.tally k hk), fun a ha => g.mem a (h.mem a ha), g.unloading.trans h.unloading⟩

theorem frees_of_holdings {s t : State} (h : holdings t = holdings s) : Frees s t := by
  simp only [holdings, Prod.mk.injEq] at h
  obtain ⟨howner, htally, hmem, hunloading⟩ := h
  exact ⟨fun _ hc => howner ▸ hc, fun _ hk => htally ▸ hk, fun _ ha => hmem ▸ ha, hunloading⟩

theorem frees_foldl {α : Type} {f : State → α → State} (hf : ∀ s x, Frees s (f s x)) (l : List α) (s : State) : Frees s (l.foldl f s) := by
  induction l generalizing s with
  | nil => exact .refl s
  | cons x l ih => exact (hf s x).trans (ih _)

/-- What each step of a fold frees is free at its end. -/
theorem freed_foldl {α : Type} {f : State → α → State} {P : State → Prop} (hf : ∀ s x, Frees s (f s x)) (hP : ∀ s t, Frees s t → P s → P t)
    {x : α} (hx : ∀ s, P (f s x)) {l : List α} (hmem : x ∈ l) (s : State) : P (l.foldl f s) := by
  induction l generalizing s with
  | nil => cases hmem
  | cons y l ih =>
    obtain rfl | hmem := List.mem_cons.1 hmem
    · exact hP _ _ (frees_foldl hf l _) (hx s)
    · exact ih hmem _

/-! ### What a placement holds is freed (R137, R239, R274, R402, R405) -/

theorem holdings_releasePermit (c : Nat) (s : State) : holdings (releasePermit c s) = holdings s := by
  have hgrant : ∀ (f n : Nat) (s : State), holdings (grantWaiting f n s) = holdings s := by
    intro f n
    induction n with
    | zero => exact fun _ => rfl
    | succ n ih =>
      intro s
      unfold grantWaiting
      split
      · rfl
      · split
        · exact (ih _).trans rfl
        · rfl
  unfold releasePermit
  dsimp only
  split
  · exact (hgrant ..).trans rfl
  · rfl

/-- A core is FREE and its store zero. -/
def CoreFreed (c : Nat) (s : State) : Prop := mfind s.owner c = none ∧ ∀ a, a / 0x40000 = c → mget 0 s.mem a = 0

theorem CoreFreed.stays {c : Nat} {s t : State} (h : Frees s t) (hc : CoreFreed c s) : CoreFreed c t :=
  ⟨h.owner c hc.1, fun a ha => h.mem a (hc.2 a ha)⟩

theorem holdings_setUnits (f : Nat) (u : FieldUnits) (s : State) : holdings (setUnits f u s) = holdings s := rfl

theorem holdings_giveUpUnits (c : Nat) (s : State) : holdings (giveUpUnits c s) = holdings s := by
  unfold giveUpUnits
  dsimp only
  rw [holdings_setUnits, holdings_releasePermit]
  rfl

theorem freeCore_frees (c : Nat) (s : State) : Frees s (freeCore c s) ∧ CoreFreed c (freeCore c s) := by
  have hunits := frees_of_holdings (holdings_giveUpUnits c s)
  unfold freeCore freeCoreAs
  generalize giveUpUnits c s = u at hunits ⊢
  have hmem : ∀ a, mget 0 (mdrop (fun a => a / 0x40000 == c) u.mem) a = if a / 0x40000 = c then 0 else mget 0 u.mem a := fun a => by
    rw [mget, mfind_mdrop]
    by_cases ha : a / 0x40000 = c
    · simp [ha]
    · simp [ha, mget]
  exact ⟨hunits.trans ⟨fun d hd => (mfind_mdel ..).trans (by rw [show mfind (updCore c clearedCore u).owner d = none from hd, ite_self]),
    fun _ hk => hk, fun a ha => (hmem a).trans (by rw [ha, ite_self]), rfl⟩,
    (mfind_mdel ..).trans (if_pos rfl), fun a ha => (hmem a).trans (if_pos ha)⟩

theorem holdings_wakeWaiters (t : Nat) (s : State) : holdings (wakeWaiters t s) = holdings s := by
  rw [wakeWaiters_eq]
  refine foldl_same (g := holdings) (fun s key => ?_) ..
  unfold wakeList
  dsimp only
  split
  · rfl
  · exact (congrArg holdings (sansFire_sendWakes ..) :)

theorem freeTally_frees (k : Nat) (s : State) : Frees s (freeTally k s) ∧ mfind (freeTally k s).tallyOwner k = none := by
  have htarget : ∀ u, holdings u = holdings s → Frees s { wakeWaiters k (setTally k { tallyAt u k with count := 0 } u) with
      tallyOwner := mdel (wakeWaiters k (setTally k { tallyAt u k with count := 0 } u)).tallyOwner k } := fun u hu => by
    have hwaits : holdings (wakeWaiters k (setTally k { tallyAt u k with count := 0 } u)) = holdings s :=
      (holdings_wakeWaiters ..).trans hu
    exact (frees_of_holdings hwaits).trans ⟨fun _ hc => hc, fun j hj => by rw [mfind_mdel, hj, ite_self], fun _ ha => ha, rfl⟩
  refine ⟨?_, (mfind_mdel ..).trans (if_pos rfl)⟩
  unfold freeTally
  dsimp only
  split
  · exact htarget _ rfl
  · exact htarget _ rfl

theorem holdings_setBoth (p off : Nat) (v : Word) (s : State) : holdings (setBoth p off v s) = holdings s := rfl

theorem holdings_flushes (f : Nat) (s : State) : holdings (flushMerge f (flushReduce f s)) = holdings s :=
  (foldl_same (g := holdings) (fun _ _ => by rfl) ..).trans (foldl_same (g := holdings) (fun _ _ => by rfl) ..)

theorem holdings_freeRegion (q : StackRec) (s : State) : holdings (freeRegion q s) = holdings s := by
  unfold freeRegion
  split
  · dsimp only
    rw [holdings_setBoth, holdings_setBoth, holdings_setBoth]
  · rfl

theorem holdings_setPx (i : Nat) (e : Option PxEntry) (s : State) : holdings (setPx i e s) = holdings s := rfl
theorem holdings_freeFrame (m : Nat) (stack : Bool) (f : Nat) (s : State) : holdings (freeFrame m stack f s) = holdings s := rfl

theorem holdings_pxDetach (i : Nat) (s : State) : holdings (pxDetach i s) = holdings s := by
  have hchild : ∀ k up s, holdings (pxChild k up s) = holdings s := fun k up s => by
    unfold pxChild
    split
    · exact holdings_setPx ..
    · rfl
  unfold pxDetach
  split
  · split
    · rfl
    · dsimp only
      split
      · rw [holdings_freeFrame, holdings_setPx, hchild]
      · rw [holdings_setPx, hchild]
  · rfl

theorem holdings_epochEmpty (m e : Nat) (s : State) : holdings (epochEmpty m e s) = holdings s :=
  (foldl_same (g := holdings) (fun _ _ => holdings_pxDetach ..) ..).trans rfl

/-- A placement that leaves the floor frees its cores and tallies. -/
theorem clearPlacement_frees (m : Nat) (p : Placed) (s : State) : Frees s (clearPlacement m p s) ∧
    (∀ c ∈ coresOf p, CoreFreed c (clearPlacement m p s)) ∧ ∀ e ∈ p.img.tallies, mfind (clearPlacement m p s).tallyOwner e.1 = none := by
  have hcore : ∀ s c, Frees s (freeCore c s) := fun s c => (freeCore_frees c s).1
  have htally : ∀ s (e : Nat × Nat), Frees s (freeTally e.1 s) := fun s e => (freeTally_frees e.1 s).1
  have hflush : ∀ u, Frees u ((heldFields p).foldl (fun s f => flushMerge f (flushReduce f s)) u) :=
    frees_foldl (fun _ _ => frees_of_holdings (holdings_flushes ..)) _
  have hregion : ∀ u, Frees u (p.img.regions.foldl (fun s q => freeRegion q s) u) := frees_foldl (fun _ _ => frees_of_holdings (holdings_freeRegion ..)) _
  have hquota : ∀ u : State, Frees u ((heldFields p).foldl (fun s f => setBoth (pHeavy f) 0x40 (quotaWord s f) s)
      (updModel m (fun x => { x with place := none }) { u with debugModels := without m u.debugModels })) := fun u =>
    frees_of_holdings ((foldl_same (g := holdings) (fun _ _ => holdings_setBoth ..) ..).trans rfl)
  refine ⟨(frees_foldl hcore ..).trans ((hflush _).trans ((hregion _).trans ((frees_foldl htally ..).trans (hquota _)))), fun c hc => ?_, fun e he => ?_⟩
  · exact CoreFreed.stays ((hflush _).trans ((hregion _).trans ((frees_foldl htally ..).trans (hquota _))))
      (freed_foldl hcore (fun _ _ => CoreFreed.stays) (fun s => (freeCore_frees c s).2) hc s)
  · exact (hquota _).tally _ (freed_foldl (P := fun s => mfind s.tallyOwner e.1 = none) htally (fun _ _ h => h.tally _) (fun s => (freeTally_frees e.1 s).2) he _)

/-! ### A model is EMPTY (R274) -/

/-- The last that a model's teardown does: its record and its registers are as after reset. -/
theorem emptyModel_ends {m : Nat} {p : Placed} {s : State} (hplace : (modelAt s m).place = some p) :
    ∃ u, emptyModel m s = setLive pWl (0x300 + 4 * m) 0 (setLive pWl (0x200 + 4 * m) 0 (setBoth pWl (0x40 + 4 * m) 0 (setModel m .reset u))) ∧
      holdings u = holdings (clearPlacement m p s) := by
  have hreloads : ∀ (t : State) l, holdings { t with weights := { t.weights with reloads := l } } = holdings t := fun _ _ => rfl
  refine ⟨_, rfl, ?_⟩
  simp only [hplace]
  rw [hreloads, holdings_epochEmpty, holdings_epochEmpty]

theorem emptyModel_registers {m : Nat} (hm : m < 64) (u : State) {t : State}
    (ht : t = setLive pWl (0x300 + 4 * m) 0 (setLive pWl (0x200 + 4 * m) 0 (setBoth pWl (0x40 + 4 * m) 0 u))) :
    live t pWl (0x200 + 4 * m) = 0 ∧ live t pWl (0x40 + 4 * m) = 0 := by
  subst ht
  constructor
  · rw [live_setLive_off _ _ (by omega) (by omega) (by omega), live_setLive_same]
  · rw [live_setLive_off _ _ (by omega) (by omega) (by omega), live_setLive_off _ _ (by omega) (by omega) (by omega), setBoth, live_setLive_same]

/-- The UNLOAD of a model that is EMPTY again ends. -/
def endUnload (s : State) : State := endCmd 0x820 0 { s with weights := { s.weights with unloading := none } }

/-- The state after a model's teardown, which ends its UNLOAD. -/
def tornDown (m : Nat) (s : State) : State := if s.weights.unloading = some m then endUnload (emptyModel m s) else emptyModel m s

/-- The lowest UNLOADING model without work in flight is torn down. -/
theorem exec_unloadTeardown {m : Nat} {s : State} (hm : m < 64) (hst : modelState s m = 3) (hA : inflight s m 0 = 0) (hB : inflight s m 1 = 0)
    (hlow : ∀ j < m, ¬ (modelState s j = 3 ∧ inflight s j 0 = 0 ∧ inflight s j 1 = 0)) : exec .unloadTeardown s = .next (tornDown m s) := by
  have hfind : ((List.range 64).find? fun m => modelState s m == 3 && inflight s m 0 == 0 && inflight s m 1 == 0) = some m :=
    List.find?_range_eq_some.2 ⟨by simp [hst, hA, hB], List.mem_range.2 hm, fun j hj => by
      have h := hlow j hj
      simp only [Bool.not_eq_true', Bool.and_eq_false_iff, beq_eq_false_iff_ne]
      tauto⟩
  refine congrArg Host.Outcome.next ?_
  simp only [unloadTeardown, hfind, tornDown, endUnload]

theorem live_endUnload {a : Nat} (s : State) (ha : a < 0x800) : live (endUnload s) pWl a = live s pWl a := by
  rw [endUnload, endCmd, setCmdResult, live_setLive_off _ _ (by decide) (by omega) (by omega)]
  rfl

/-- What the end of a command of page 0x0018 leaves of the models and of what they hold. -/
structure SameModels (s t : State) : Prop where
  owner : t.owner = s.owner
  mem : t.mem = s.mem
  tallyOwner : t.tallyOwner = s.tallyOwner
  models : t.weights.models = s.weights.models
  live : ∀ a < 0x800, live t pWl a = live s pWl a

theorem endUnload_same (s : State) : SameModels s (endUnload s) := ⟨rfl, rfl, rfl, rfl, fun _ => live_endUnload s⟩

theorem tornDown_same (m : Nat) (s : State) : SameModels (emptyModel m s) (tornDown m s) := by
  unfold tornDown
  split
  · exact endUnload_same _
  · exact ⟨rfl, rfl, rfl, rfl, fun _ _ => rfl⟩

/-- After its teardown a model is EMPTY, and its cores, their stores and its tallies are free. -/
theorem tornDown_state {m : Nat} {p : Placed} {s : State} (hm : m < 64) (hplace : (modelAt s m).place = some p) : modelState (tornDown m s) m = 0 ∧
    activeEp (tornDown m s) m = 0 ∧ epochSt (tornDown m s) m 0 = 0 ∧ epochSt (tornDown m s) m 1 = 0 ∧ modelAt (tornDown m s) m = Model.reset ∧
    (s.weights.unloading = some m → live (tornDown m s) pWl 0x820 = 0x80000000 ∧ (tornDown m s).weights.unloading = none) ∧
    (∀ c ∈ coresOf p, CoreFreed c (tornDown m s)) ∧ ∀ e ∈ p.img.tallies, mfind (tornDown m s).tallyOwner e.1 = none := by
  obtain ⟨u, hempty, hholdings⟩ := emptyModel_ends hplace
  obtain ⟨howner, hmem, htallies, hmodels, hlive⟩ := tornDown_same m s
  obtain ⟨hstatus, hepoch⟩ := emptyModel_registers hm _ hempty
  obtain ⟨-, hcores, htally⟩ := clearPlacement_frees m p s
  have hfrees : Frees (clearPlacement m p s) (emptyModel m s) := frees_of_holdings (by rw [hempty]; exact hholdings)
  have hstatus' : live (tornDown m s) pWl (0x200 + 4 * m) = 0 := (hlive _ (by omega)).trans hstatus
  refine ⟨by rw [modelState, liveF, hstatus']; decide, ?_, by rw [epochSt, liveF, hstatus']; decide, by rw [epochSt, liveF, hstatus']; decide, ?_,
    fun hunload => ?_, fun c hc => ?_, fun e he => ?_⟩
  · rw [activeEp, liveF, hlive _ (by omega), hepoch]
    decide
  · rw [modelAt, hmodels, hempty]
    exact modelAt_setModel_same ..
  · rw [tornDown, if_pos hunload]
    exact ⟨live_setLive_same .., rfl⟩
  · have hfreed := (hcores c hc).stays hfrees
    exact ⟨by rw [howner]; exact hfreed.1, fun a ha => by rw [hmem]; exact hfreed.2 a ha⟩
  · rw [htallies]
    exact hfrees.tally _ (htally e he)

/-! ### The commands (R280, R281) -/

section
variable {ma : Master} {s : State} (hreach : reaches ma s = true)
include hreach

theorem exec_load {host : HostMem} (hfree : s.weights.asked = some 1 ∨ (cmdBusy s 0x820 = false ∧ mcStops s = false)) :
    exec (.load ma host) s = .next (loadCmd host (takeAsked 1 s)) :=
  congrArg Host.Outcome.next ((onPage_pWl hreach).trans (wlCommand_acts hfree))

theorem exec_unload (hfree : s.weights.asked = some 4 ∨ (cmdBusy s 0x820 = false ∧ mcStops s = false)) :
    exec (.unload ma) s = .next (unloadCmd (takeAsked 4 s)) :=
  congrArg Host.Outcome.next ((onPage_pWl hreach).trans (wlCommand_acts hfree))

/-- LOAD and UNLOAD are discarded while a command is BUSY. -/
theorem exec_of_busy {host : HostMem} {i : Instr} (hi : i ∈ [Instr.load ma host, Instr.unload ma]) (hasked : s.weights.asked = none)
    (hbusy : cmdBusy s 0x820 = true) : exec i s = .next (recordErrAny pWl E.wlBusy s) := by
  simp only [List.mem_cons, List.not_mem_nil, or_false] at hi
  obtain rfl | rfl := hi <;> exact congrArg Host.Outcome.next ((onPage_pWl hreach).trans (wlCommand_busy hasked hbusy))

end

/-- A LOAD that a check before its images refuses changes no group, no model and no load. -/
theorem load_refuses {host : HostMem} {s : State} {c : Code} (h : loadArgs s = some c) :
    live (loadCmd host (takeAsked 1 s)) pWl 0x820 = BitVec.ofNat 32 (2 ^ 31 + 2 ^ 30 + c.toNat) ∧ (loadCmd host (takeAsked 1 s)).groups = s.groups ∧
      (loadCmd host (takeAsked 1 s)).weights.models = s.weights.models ∧ (loadCmd host (takeAsked 1 s)).weights.load = s.weights.load := by
  obtain ⟨a, ha⟩ := takeAsked_eq 1 s
  have hargs : loadArgs (takeAsked 1 s) = some c := by rw [ha]; exact h
  rw [loadCmd_refused hargs, ha]
  exact ⟨live_endCmd_failed (loadArgs_ne_zero h) _, rfl, rfl, rfl⟩

/-- Settles O29: each command and stage ends as stated of it above. -/
theorem modelsLoadAndUnload : Obligations.ModelsLoadAndUnload := by
  unfold Obligations.ModelsLoadAndUnload
  intro s ma host m str pin free failed s1 hreach
  refine ⟨fun i hi hasked hbusy => ⟨_, exec_of_busy hreach hi hasked hbusy, wlBusy_recorded s⟩, fun hfree => ?_, fun j g hload hphase hdone hm => ?_,
    fun j p hload hphase hplace hclear => ?_, fun j p hload hphase hplace hfly => ?_, fun j p hload hphase hplace hpage hm => ?_, fun hfree => ?_,
    fun k p hk hst hA hB hlow hplace => ?_⟩
  · refine ⟨_, exec_load hreach hfree, fun h => (load_refuses (loadArgs_notEmpty h)).1, fun h hpin hstr => (load_refuses (loadArgs_pinnedStreamed h hpin hstr)).1,
      fun h hpin hstr haddr => (load_refuses (loadArgs_noSecond h hpin hstr haddr)).1,
      fun h hpin hstr hdraft hq => (load_refuses (loadArgs_noDraftee h hpin hstr hdraft hq)).1, fun c hc => load_refuses hc, ?_⟩
    split
    · rename_i c u hchecks
      exact loadCmd_fails hchecks
    · rename_i pl u hchecks
      split
      · rename_i c hgroup
        exact loadCmd_ungrouped hchecks hgroup
      · rename_i g w hgroup
        exact loadCmd_begins (bits_lt ..) hgroup (loadCmd_arms hchecks hgroup)
  · exact ⟨_, exec_loadContent_refused hload hphase hdone, loadRefused_state hm _ s rfl⟩
  · have hweights := weights_writeContent j.model p (setLoad (some { j with phase := .landing }) s)
    exact ⟨_, exec_loadContent_sends hload hplace hphase hclear, (congrArg Weights.load hweights :), (congrArg Weights.inst hweights :),
      fun f c k hfields hdebug hcontent hbound => writeContent_one hfields hdebug hcontent hbound _⟩
  · obtain ⟨hinst, hkept⟩ := installBegins_weights (loadInst s j) (setLoad (some { j with phase := .install }) s)
    exact ⟨_, _, exec_loadContent_installs hload hplace hphase hfly, hkept, hinst, rfl, rfl, rfl, rfl, rfl⟩
  · obtain ⟨hst, hep, hact, hres⟩ := madeReady_state hm (startPlacement p (setLoad none s))
    refine ⟨_, exec_loadThreadStart hload hplace hphase hpage, congrArg Weights.load (weights_startPlacement ..), hst, hep, hact, hres,
      fun f r k hfields hrecs hcores n hn hmask hstopped => ?_⟩
    have hcore : coreAt (madeReady j.model (startPlacement p (setLoad none s))) k =
        startSlot r.start r.pcs (coreAt s k) := by
      rw [startPlacement_one hfields hrecs hcores]
      exact (coreAt_congr rfl k).trans (coreAt_updCore_same ..)
    rw [hcore]
    exact started_thread hn hmask hstopped
  · obtain ⟨a, ha⟩ := takeAsked_eq 4 s
    have hexec := exec_unload hreach hfree
    rw [ha] at hexec
    refine ⟨_, hexec, fun h => unloadCmd_empty h, fun h hlocked => ?_, fun h hopen hstreams => unloadCmd_begins h hopen hstreams⟩
    obtain ⟨hres, hweights⟩ := unloadCmd_locked (s := { s with weights := { s.weights with asked := a } }) h hlocked
    exact ⟨hres, (congrArg Weights.models hweights :)⟩
  · exact ⟨_, exec_unloadTeardown hk hst hA hB hlow, tornDown_state hk hplace⟩

end Sys2Proof.Machine
end

section
/-! SUPPORT. What a stack's bytes, keys and CRCs are after a write, and what a read that meets no error returns (R219, R220, R225). -/

namespace Sys2Proof.Machine

open Sys2Proof

/-! ### Bytes -/

theorem mfind_putBytes (m : Map Byte) (a : Nat) (l : List Byte) (b : Nat) :
    mfind (putBytes m a l) b = if a ≤ b ∧ b < a + l.length then l[b - a]? else mfind m b := by
  induction l generalizing m a with
  | nil => rw [putBytes, if_neg fun h => by simp only [List.length_nil] at h; omega]
  | cons x l ih =>
    rw [putBytes, ih, mfind_mput, List.length_cons]
    by_cases hlater : a + 1 ≤ b ∧ b < a + 1 + l.length
    · rw [if_pos hlater, if_pos (by omega), show b - a = b - (a + 1) + 1 by omega, List.getElem?_cons_succ]
    · rw [if_neg hlater]
      by_cases hb : a = b
      · rw [if_pos hb, if_pos (by omega), show b - a = 0 by omega, List.getElem?_cons_zero]
      · rw [if_neg hb, if_neg (by omega)]

theorem plainBytes_eq (s : State) (k : StoreKey) (a n : Nat) : plainBytes s k a n = (List.range n).map fun i => plainByte s k (a + i) := by
  induction n generalizing a with
  | zero => rfl
  | succ n ih =>
    rw [plainBytes, ih, List.range_succ_eq_map, List.map_cons, List.map_map, Nat.add_zero]
    simp [Function.comp_def, Nat.add_assoc, Nat.add_comm 1]

theorem length_plainBytes (s : State) (k : StoreKey) (a n : Nat) : (plainBytes s k a n).length = n := by
  rw [plainBytes_eq, List.length_map, List.length_range]

theorem getElem?_plainBytes {s : State} {k : StoreKey} {a n i : Nat} (hi : i < n) : (plainBytes s k a n)[i]? = some (plainByte s k (a + i)) := by
  rw [plainBytes_eq, List.getElem?_map, List.getElem?_range hi, Option.map_some]

/-- A check without hits lets every byte read as it decrypts. -/
theorem readBytes_clean (s : State) (k : StoreKey) (again : Bool) (a n : Nat) : readBytes s k [] again a n = plainBytes s k a n :=
  List.zipIdx_map_fst 0 _

/-- How a byte decrypts rests on its unit's key and bytes alone (R225). -/
theorem plainByte_congr {s t : State} {b : Nat} (hkey : mfind t.stackKey (b / 512) = mfind s.stackKey (b / 512))
    (hmem : ∀ c, c / 512 = b / 512 → mfind t.stackMem c = mfind s.stackMem c) (k : StoreKey) : plainByte t k b = plainByte s k b := by
  have hstored : ∀ c, c / 512 = b / 512 → storedByte t c = storedByte s c := fun c hc => by rw [storedByte, storedByte, hmem c hc]
  have hblock : ((List.range 16).map fun i => storedByte t (b / 16 * 16 + i)) = (List.range 16).map fun i => storedByte s (b / 16 * 16 + i) :=
    List.map_congr_left fun i hi => hstored _ (by have := List.mem_range.1 hi; omega)
  rw [plainByte, plainByte, hkey, hstored b rfl, hblock]

theorem length_splice {old new : List Byte} {p : Nat} (h : p + new.length ≤ old.length) : (splice old p new).length = old.length := by
  simp only [splice, List.length_append, List.length_take, List.length_drop]
  omega

theorem getElem?_splice {old new : List Byte} {p : Nat} (h : p + new.length ≤ old.length) (i : Nat) :
    (splice old p new)[i]? = if p ≤ i ∧ i < p + new.length then new[i - p]? else old[i]? := by
  have htake : (old.take p).length = p := by rw [List.length_take]; omega
  by_cases hlow : i < p
  · rw [if_neg (by omega), splice, List.append_assoc, List.getElem?_append_left (by omega), List.getElem?_take_of_lt hlow]
  · rw [splice, List.append_assoc, List.getElem?_append_right (by omega), htake]
    by_cases hin : i - p < new.length
    · rw [if_pos (by omega), List.getElem?_append_left hin]
    · rw [if_neg (by omega), List.getElem?_append_right (by omega), List.getElem?_drop]
      congr 1
      omega

/-! ### Units (R220) -/

/-- A 512-byte unit that a range of local addresses touches. -/
def inUnits (a len x : Nat) : Prop := a / 512 ≤ x ∧ x ≤ (a + len - 1) / 512

/-- A range that reaches a boundary between units and the range from there touch different units. -/
theorem inUnits_append {a n m x : Nat} (hn : 0 < n) (hm : 0 < m) (hb : (a + n) % 512 = 0) :
    (inUnits a (n + m) x ↔ inUnits a n x ∨ inUnits (a + n) m x) ∧ ¬ (inUnits a n x ∧ inUnits (a + n) m x) := by
  simp only [inUnits]
  omega

/-! ### Writes (R220, R225) -/

/-- State v is s with bytes written from a local address under a key: the bytes are stored, every unit that they touch is under the
key, its other bytes are as they decrypted, its CRC is that of its bytes where it was consistent, and nothing else changes. -/
structure Written (k : StoreKey) (a : Nat) (l : List Byte) (s v : State) : Prop where
  rest : v = { s with stackMem := v.stackMem, stackKey := v.stackKey, stackCrc := v.stackCrc }
  stored : ∀ i, i < l.length → mfind v.stackMem (a + i) = l[i]?
  key : ∀ x, inUnits a l.length x → mfind v.stackKey x = some k
  merged : ∀ b, inUnits a l.length (b / 512) → b < a ∨ a + l.length ≤ b → mfind v.stackMem b = some (plainByte s k b)
  crc : ∀ x, inUnits a l.length x → (mfind s.stackCrc x).isSome = true →
    mfind v.stackCrc x = some (crc32c ((List.range 512).map fun i => (mfind v.stackMem (512 * x + i)).getD 0))
  outside : ∀ x, ¬ inUnits a l.length x → mfind v.stackKey x = mfind s.stackKey x ∧ mfind v.stackCrc x = mfind s.stackCrc x ∧
    ∀ b, b / 512 = x → mfind v.stackMem b = mfind s.stackMem b

/-- The bytes of a unit after a write within it: those of the write, and the others as they decrypt. -/
def unitBytes (k : StoreKey) (a : Nat) (l : List Byte) (s : State) : List Byte := splice (plainBytes s k (512 * (a / 512)) 512) (a % 512) l

section
variable {k : StoreKey} {a : Nat} {l : List Byte} {s : State} (hfit : a % 512 + l.length ≤ 512)
include hfit

theorem length_unitBytes : (unitBytes k a l s).length = 512 := by
  rw [unitBytes, length_splice (by rwa [length_plainBytes]), length_plainBytes]

theorem getElem?_unitBytes {i : Nat} (hi : i < 512) : (unitBytes k a l s)[i]? =
    if a % 512 ≤ i ∧ i < a % 512 + l.length then l[i - a % 512]? else some (plainByte s k (512 * (a / 512) + i)) := by
  rw [unitBytes, getElem?_splice (by rwa [length_plainBytes]), getElem?_plainBytes hi]

/-- A write of a whole unit leaves none of its old bytes. -/
theorem writeUnit_new : (if l.length == 512 then l else splice (readBytes s k [] false (512 * (a / 512)) 512) (a % 512) l) = unitBytes k a l s := by
  rw [readBytes_clean]
  by_cases hwhole : l.length = 512
  · have hstart : a % 512 = 0 := by omega
    have hrest : (plainBytes s k (512 * (a / 512)) 512).drop l.length = [] := List.drop_eq_nil_of_le (by rw [length_plainBytes, hwhole])
    rw [if_pos (beq_iff_eq.2 hwhole), unitBytes, splice, hstart, Nat.zero_add, hrest, List.take_zero, List.nil_append, List.append_nil]
  · rw [if_neg fun h => hwhole (beq_iff_eq.1 h), unitBytes]

theorem written_writeUnit (hl : 0 < l.length) : Written k a l s (writeUnit k [] a l s) := by
  have hlen := length_unitBytes (k := k) (s := s) hfit
  have hunit : ∀ x, inUnits a l.length x ↔ x = a / 512 := fun x => by
    simp only [inUnits]
    omega
  have hmem : ∀ b, mfind (writeUnit k [] a l s).stackMem b =
      if b / 512 = a / 512 then (unitBytes k a l s)[b - 512 * (a / 512)]? else mfind s.stackMem b := fun b => by
    simp only [writeUnit, writeUnit_new hfit]
    rw [mfind_putBytes, hlen]
    exact if_congr (by omega) rfl rfl
  have hkey : ∀ x, mfind (writeUnit k [] a l s).stackKey x = if a / 512 = x then some k else mfind s.stackKey x := fun x => mfind_mput ..
  refine ⟨rfl, fun i hi => ?_, fun x hx => ?_, fun b hb hout => ?_, fun x hx hcrc => ?_, fun x hx => ?_⟩
  · rw [hmem, if_pos (by omega), getElem?_unitBytes hfit (by omega), if_pos (by omega)]
    congr 1
    omega
  · rw [hkey, if_pos ((hunit x).1 hx).symm]
  · have hb := (hunit _).1 hb
    rw [hmem, if_pos hb, getElem?_unitBytes hfit (by omega), if_neg (by omega)]
    congr 2
    omega
  · obtain rfl := (hunit x).1 hx
    have hbytes : ((List.range 512).map fun i => (mfind (writeUnit k [] a l s).stackMem (512 * (a / 512) + i)).getD 0) = unitBytes k a l s := by
      refine List.ext_getElem (by rw [List.length_map, List.length_range, hlen]) fun i hi hi' => ?_
      rw [List.getElem_map, List.getElem_range, hmem, if_pos (by omega), show 512 * (a / 512) + i - 512 * (a / 512) = i by omega,
        List.getElem?_eq_getElem hi', Option.getD_some]
    rw [hbytes]
    simp only [writeUnit, writeUnit_new hfit, hcrc, Bool.or_true, if_true, mfind_mput]
  · have hx := fun h => hx ((hunit x).2 h)
    refine ⟨by rw [hkey, if_neg fun h => hx h.symm], ?_, fun b hb => by rw [hmem, if_neg (hb ▸ hx)]⟩
    simp only [writeUnit]
    split
    · rw [mfind_mput, if_neg fun h => hx h.symm]
    · rfl

end

/-- A write up to a boundary between units and the write from there make one. -/
theorem Written.append {k : StoreKey} {a : Nat} {l r : List Byte} {s v w : State} (hv : Written k a l s v) (hw : Written k (a + l.length) r v w)
    (hl : 0 < l.length) (hr : 0 < r.length) (hb : (a + l.length) % 512 = 0) : Written k a (l ++ r) s w := by
  have hunits : ∀ x, inUnits a (l ++ r).length x → inUnits a l.length x ∧ ¬ inUnits (a + l.length) r.length x ∨
      ¬ inUnits a l.length x ∧ inUnits (a + l.length) r.length x := fun x hx => by
    have h := inUnits_append (x := x) hl hr hb
    rw [List.length_append] at hx
    tauto
  have hnone : ∀ x, ¬ inUnits a (l ++ r).length x → ¬ inUnits a l.length x ∧ ¬ inUnits (a + l.length) r.length x := fun x hx => by
    have h := inUnits_append (x := x) hl hr hb
    rw [List.length_append] at hx
    tauto
  refine ⟨?_, fun i hi => ?_, fun x hx => ?_, fun b hx hout => ?_, fun x hx hcrc => ?_, fun x hx => ?_⟩
  · rw [hw.rest, hv.rest]
  · rw [List.length_append] at hi
    by_cases hfirst : i < l.length
    · have hfar : ¬ inUnits (a + l.length) r.length ((a + i) / 512) := by simp only [inUnits]; omega
      rw [(hw.outside _ hfar).2.2 _ rfl, hv.stored i hfirst, List.getElem?_append_left hfirst]
    · rw [show a + i = a + l.length + (i - l.length) by omega, hw.stored _ (by omega), List.getElem?_append_right (by omega)]
  · obtain ⟨hfirst, hfar⟩ | ⟨-, hsecond⟩ := hunits x hx
    · rw [(hw.outside _ hfar).1, hv.key x hfirst]
    · exact hw.key x hsecond
  · rw [List.length_append] at hout
    obtain ⟨hfirst, hfar⟩ | ⟨hfar, hsecond⟩ := hunits _ hx
    · have hlow : b < a ∨ a + l.length ≤ b := by omega
      rw [(hw.outside _ hfar).2.2 _ rfl, hv.merged b hfirst hlow]
    · have hkept := hv.outside _ hfar
      rw [hw.merged b hsecond (by simp only [inUnits] at hsecond; omega), plainByte_congr hkept.1 hkept.2.2]
  · obtain ⟨hfirst, hfar⟩ | ⟨hfar, hsecond⟩ := hunits x hx
    · have hbytes : ∀ i ∈ List.range 512, (mfind w.stackMem (512 * x + i)).getD 0 = (mfind v.stackMem (512 * x + i)).getD 0 := fun i hi => by
        rw [(hw.outside _ hfar).2.2 _ (by have := List.mem_range.1 hi; omega)]
      rw [(hw.outside _ hfar).2.1, hv.crc x hfirst hcrc, List.map_congr_left hbytes]
    · exact hw.crc x hsecond (by rwa [(hv.outside _ hfar).2.1])
  · obtain ⟨hfirst, hsecond⟩ := hnone x hx
    obtain ⟨hkey, hcrc, hmem⟩ := hv.outside x hfirst
    obtain ⟨hkey', hcrc', hmem'⟩ := hw.outside x hsecond
    exact ⟨hkey'.trans hkey, hcrc'.trans hcrc, fun b hb => (hmem' b hb).trans (hmem b hb)⟩

/-- The units of a range in turn: the write of what remains of a list from one of its bytes on. -/
theorem written_pieces (k : StoreKey) (a : Nat) (l : List Byte) (fuel off : Nat) (s : State) (hoff : off < l.length) (hfuel : l.length - off ≤ fuel) :
    Written k (a + off) (l.drop off) s ((pieces 512 512 a fuel off (l.length - off)).foldl
      (fun s q => writeUnit k [] (a + q.1) ((l.drop q.1).take q.2) s) s) := by
  induction fuel generalizing off s with
  | zero => omega
  | succ fuel ih =>
    have hpiece : Nat.min (Nat.min 512 (l.length - off)) (512 - (a + off) % 512) = min (min 512 (l.length - off)) (512 - (a + off) % 512) := rfl
    rw [pieces, if_neg (by omega), List.foldl_cons]
    dsimp only
    rw [hpiece]
    generalize hn : min (min 512 (l.length - off)) (512 - (a + off) % 512) = n
    have htake : ((l.drop off).take n).length = n := by rw [List.length_take, List.length_drop]; omega
    have hfirst : Written k (a + off) ((l.drop off).take n) s (writeUnit k [] (a + off) ((l.drop off).take n) s) :=
      written_writeUnit (by omega) (by omega)
    by_cases hlast : l.length - off = n
    · have hall : (l.drop off).take n = l.drop off := List.take_of_length_le (by rw [List.length_drop]; omega)
      have hdone : pieces 512 512 a fuel (off + n) (l.length - off - n) = [] := by
        cases fuel with
        | zero => rfl
        | succ fuel => rw [pieces, if_pos (by omega)]
      rw [hdone, List.foldl_nil]
      rwa [hall] at hfirst ⊢
    · have hrest := ih (off + n) (writeUnit k [] (a + off) ((l.drop off).take n) s) (by omega) (by omega)
      have happend := hfirst.append (r := l.drop (off + n)) (by rwa [htake, Nat.add_assoc]) (by omega)
        (by rw [List.length_drop]; omega) (by rw [htake]; omega)
      have hwhole : (l.drop off).take n ++ l.drop (off + n) = l.drop off := by rw [← List.drop_drop, List.take_append_drop]
      rwa [hwhole, ← Nat.sub_sub] at happend

theorem written_writeStack (k : StoreKey) (a : Nat) {l : List Byte} (s : State) (hl : 0 < l.length) : Written k a l s (writeStack k [] a l s) :=
  written_pieces k a l l.length 0 s hl (Nat.sub_le ..)

end Sys2Proof.Machine
end

section
/-! SUPPORT. Reads and writes of a stack that meet no error (R219, R223, R225), and the request at its front (R226). -/

namespace Sys2Proof.Machine

open Sys2Proof

/-! ### Accesses without hits -/

theorem piecesOf_within {a len : Nat} (hlen : 0 < len) (hfit : a % 512 + len ≤ 512) : piecesOf 512 512 a len = [(0, len)] := by
  obtain ⟨n, rfl⟩ : ∃ n, len = n + 1 := ⟨len - 1, by omega⟩
  have hpiece : Nat.min (Nat.min 512 (n + 1)) (512 - (a + 0) % 512) = n + 1 := by
    change min (min 512 (n + 1)) (512 - (a + 0) % 512) = n + 1
    omega
  rw [piecesOf, pieces, if_neg (by omega), hpiece]
  dsimp only
  rw [Nat.sub_self]
  cases n with
  | zero => rfl
  | succ n => rw [pieces, if_pos rfl]

/-- A read within one unit, whose CRC nothing asks for, returns its bytes decrypted (R225). -/
theorem stackRead_within {s : State} {n off len r : Nat} {k : StoreKey} (hregion : accessRegion s n off len = .ok r)
    (hkey : mfind (stackAt s n).keys (regionKey s n r) = some k) (hlen : 0 < len) (hfit : stackAddr n off % 512 + len ≤ 512) :
    stackRead n off len false [] s = (.ok (plainBytes s k (stackAddr n off) len), s) := by
  have hunits : readUnits n off false k [] (stackAddr n off) [(0, len)] s = (.ok (plainBytes s k (stackAddr n off) len), s) := by
    simp only [readUnits, readUnit, readBytes_clean, Bool.not_false, if_true, Nat.add_zero, List.append_nil]
  simp only [stackRead, hregion, storeKey, hkey, Bool.false_and, hitsIn, List.filter_nil, eccEvents, List.foldl_nil]
  rw [piecesOf_within hlen hfit, hunits]

theorem stackPut_clean (n off : Nat) (k : StoreKey) (l : List Byte) (s : State) :
    stackPut n off k l [] s = (none, writeStack k [] (stackAddr n off) l s) := by
  have hhits : mergedHits [] (stackAddr n off) l.length = [] := by simp [mergedHits, hitsIn]
  rw [stackPut, hhits]
  rfl

/-! ### The request at the front (R226) -/

section
variable {s : State} {n : Nat} {m : Msg} {q : List Msg} (hq : (stackAt s n).inbox = m :: q) (hruns : frontRuns s n m = true)
include hq hruns

/-- A request that can be served, and is no READ, leaves the queue and is served as a write. -/
theorem requestRow_write (hcls : m.cls ≠ .read) (chk : StackCheck) :
    requestRow n false chk s = serveStackWrite n m chk (setStack n { stackAt s n with inbox := q } s) := by
  have hrow : ((m.cls == .read) == false) = true := by simpa using hcls
  simp only [requestRow, serveFront, hq, hrow, hruns, if_true, if_neg hcls]

end

/-- A DATA message from no channel is written under its region's key, and its tally is notified (R226). -/
theorem serveStackWrite_writes {s : State} {n r : Nat} {m : Msg} {k : StoreKey} (hon : stackOn s n = true)
    (horigin : ∀ st ch id d, m.origin ≠ .segIn st ch id d) (hregion : accessRegion s n (m.addr - stackAddr n 0) m.payload.length = .ok r)
    (hfence : fenceStack s m.src n (m.addr - stackAddr n 0) = true) (hkey : mfind (stackAt s n).keys (regionKey s n r) = some k) :
    serveStackWrite n m [] s = landed m.origin m.payload.length (sendNotify (requestRouter m) (srcStack n) m.notify m.tally
      (writeStack k [] (stackAddr n (m.addr - stackAddr n 0)) m.payload s)) := by
  have hcheck : requestCheck s n m m.payload.length = none := by
    simp only [requestCheck, hon, hregion, hfence, Bool.not_true, Bool.false_eq_true, if_false, if_true]
  have hwrite : stackWrite n (m.addr - stackAddr n 0) m.payload [] s = (none, writeStack k [] (stackAddr n (m.addr - stackAddr n 0)) m.payload s) := by
    simp only [stackWrite, hregion, storeKey, hkey, stackPut_clean]
  unfold serveStackWrite
  split
  · rename_i st ch id d h
    exact absurd h (horigin st ch id d)
  · simp only [hcheck, hwrite]

end Sys2Proof.Machine
end

section
/-! Requests at a stack (R211, R219, R220, R222, R223, R225, R226, R230, R403): a write that no channel asked for, and the state that refutes
StacksReadAndWriteTheirRegions. -/

namespace Sys2Proof.Machine

open Sys2Proof

/-- A message from no channel's segment is written as R226 says: this is the clause of O27 on writes, for every origin but a segment's. -/
theorem exec_stackWriteRequest {s : State} {n : Fin 24} {m : Msg} {q : List Msg} {r : Nat} {k : StoreKey}
    (hruns : frontRuns s n.val m = true) (hon : stackOn s n.val = true) (hq : (stackAt s n.val).inbox = m :: q) (hcls : m.cls ≠ .read)
    (horigin : ∀ st ch id d, m.origin ≠ .segIn st ch id d) (hlen : 0 < m.payload.length)
    (hregion : accessRegion s n.val (m.addr - stackAddr n.val 0) m.payload.length = .ok r)
    (hfence : fenceStack s m.src n.val (m.addr - stackAddr n.val 0) = true) (hkey : mfind (stackAt s n.val).keys (regionKey s n.val r) = some k) :
    ∃ v, exec (.stackWriteRequest n []) s =
        .next (landed m.origin m.payload.length (sendNotify (requestRouter m) (srcStack n.val) m.notify m.tally v)) ∧
      Written k (stackAddr n.val (m.addr - stackAddr n.val 0)) m.payload (setStack n.val { stackAt s n.val with inbox := q } s) v := by
  refine ⟨_, congrArg Host.Outcome.next ((requestRow_write hq hruns hcls []).trans (serveStackWrite_writes hon horigin hregion hfence ?_)),
    written_writeStack k _ _ hlen⟩
  rw [stackAt_setStack]
  exact hkey

/-! ### Bytes of a segment that is no more -/

/-- Bytes for a segment that its channel no longer has are dropped, whatever the class of their message. -/
theorem serveStackWrite_strayPart {n st ch id d : Nat} {m : Msg} {s : State} (horigin : m.origin = .segIn st ch id d)
    (hgone : (chanAt (stackAt s st) ch).segs.find? (·.id == id) = none) (chk : StackCheck) : serveStackWrite n m chk s = s := by
  simp only [serveStackWrite, horigin, serveSegIn, hgone]

/-- A CTL message of one byte at the start of stack 0, whose origin is segment 0 of channel 0 there. -/
def strayPart : Msg :=
  { msgNull with cls := .ctl, addr := stackAddr 0 0, payload := [1], src := srcStack 1, origin := .segIn 0 0 0 (stackAddr 0 0) }

/-- Stack 0 is on, with a region of 1 MB under key slot 3, that message at its front and no channel at work. -/
def strayPartState : State :=
  { State.reset with
    fields := [(0, { FieldPower.reset with st := .on })]
    live := [(regKey (stackPage 0 0) 0x44, 1), (regKey (stackPage 0 0) 0x48, 0x80000003)]
    stk := [(0, { Stack.reset with keys := [(3, [7])], inbox := [strayPart] })] }

theorem strayPartState_writable : frontRuns strayPartState 0 strayPart = true ∧ stackOn strayPartState 0 = true ∧
    accessRegion strayPartState 0 0 1 = .ok 0 ∧ fenceStack strayPartState strayPart.src 0 0 = true ∧
    mfind (stackAt strayPartState 0).keys (regionKey strayPartState 0 0) = some [7] := by decide +kernel

/-- Refutes O27: a part that a channel asked for is told by its class DATA as well as by its origin (`isSegIn`), the request path serves it
by its origin alone, and so a CTL message whose origin is a segment that is no more is dropped where the clause on writes has its byte
stored. Without such an origin that clause holds (`exec_stackWriteRequest`). -/
theorem not_stacksReadAndWriteTheirRegions : ¬ Obligations.StacksReadAndWriteTheirRegions := by
  unfold Obligations.StacksReadAndWriteTheirRegions
  intro h
  obtain ⟨hruns, hon, hokIn⟩ := strayPartState_writable
  obtain ⟨-, -, hwrites, -⟩ := h strayPartState 0 strayPart [] hruns hon rfl
  obtain ⟨t, v, hexec, ht, -, hstored, -⟩ := hwrites 0 [7] (by decide) rfl (by decide) hokIn
  have hdropped : exec (.stackWriteRequest 0 []) strayPartState = .next (setStack 0 { stackAt strayPartState 0 with inbox := [] } strayPartState) :=
    congrArg Host.Outcome.next ((requestRow_write rfl hruns (by decide) []).trans (serveStackWrite_strayPart rfl rfl []))
  obtain rfl : setStack 0 { stackAt strayPartState 0 with inbox := [] } strayPartState = t := Host.Outcome.next.inj (hdropped.symm.trans hexec)
  obtain rfl : setStack 0 { stackAt strayPartState 0 with inbox := [] } strayPartState = v := ht
  exact absurd (hstored 0 (by decide)) (by rw [setStack_stackMem]; exact (Option.some_ne_none _).symm)

end Sys2Proof.Machine
end

section
/-! Stack DMA channels (R221, R228 to R232, R234, R266, R403). -/

namespace Sys2Proof.Machine

open Sys2Proof

/-! ### Channels of a state -/

theorem chanAt_setChan_ne {ch j : Nat} (hj : j ≠ ch) (c : Chan) (x : Stack) : chanAt (setChan ch c x) j = chanAt x j :=
  mget_mset_ne _ _ _ hj.symm

theorem stackAt_updChan (n ch : Nat) (f : Chan → Chan) (s : State) :
    stackAt (updChan n ch f s) n = setChan ch (f (chanAt (stackAt s n) ch)) (stackAt s n) := stackAt_setStack ..

theorem chanAt_updChan_ne {ch j : Nat} (hj : j ≠ ch) (n : Nat) (f : Chan → Chan) (s : State) :
    chanAt (stackAt (updChan n ch f s) n) j = chanAt (stackAt s n) j := by
  rw [stackAt_updChan, chanAt_setChan_ne hj]

@[simp] theorem poolFree_updChan (n ch : Nat) (f : Chan → Chan) (s : State) : (stackAt (updChan n ch f s) n).poolFree = (stackAt s n).poolFree := by
  rw [stackAt_updChan]
  rfl

@[simp] theorem segLanded_live (n ch id k : Nat) (s : State) : (segLanded n ch id k s).live = s.live := rfl
@[simp] theorem segLanded_stackMem (n ch id k : Nat) (s : State) : (segLanded n ch id k s).stackMem = s.stackMem := rfl
@[simp] theorem segLanded_stackKey (n ch id k : Nat) (s : State) : (segLanded n ch id k s).stackKey = s.stackKey := rfl
@[simp] theorem dropSeg_live (n ch : Nat) (g : Seg) (s : State) : (dropSeg n ch g s).live = s.live := rfl
@[simp] theorem dropSeg_stackMem (n ch : Nat) (g : Seg) (s : State) : (dropSeg n ch g s).stackMem = s.stackMem := rfl
@[simp] theorem dropSeg_stackKey (n ch : Nat) (g : Seg) (s : State) : (dropSeg n ch g s).stackKey = s.stackKey := rfl

theorem stackAt_congr {s t : State} (h : t.stk = s.stk) (n : Nat) : stackAt t n = stackAt s n := by rw [stackAt, stackAt, h]

theorem stackAt_recordErrAny (p : Nat) (c : Code) (s : State) (n : Nat) : stackAt (recordErrAny p c s) n = stackAt s n :=
  stackAt_congr (congrArg State.stk (offRegs_recordErrAny p c s) :) n

/-- A channel in ERROR holds the code, and page +1 records it (R232, R234). -/
theorem chanError_state (n ch : Nat) (e : Code) (s : State) :
    chanAt (stackAt (chanError n ch e s) n) ch = { chanAt (stackAt s n) ch with st := .error, code := e } ∧
      errValid (chanError n ch e s) (stackPage n 1) = true := by
  refine ⟨?_, errValid_recordErr ..⟩
  rw [chanError, stackAt_recordErrAny, chanAt_updChan]

/-! ### What a descriptor frees (R230) -/

theorem chanAt_dropSeg_ne {ch j : Nat} (hj : j ≠ ch) (n : Nat) (g : Seg) (s : State) :
    chanAt (stackAt (dropSeg n ch g s) n) j = chanAt (stackAt s n) j := by
  rw [dropSeg, stackAt_setStack]
  exact chanAt_updChan_ne hj n (fun c => { c with segs := c.segs.filter (·.id != g.id) }) s

theorem poolFree_dropSeg (n ch : Nat) (g : Seg) (s : State) : (stackAt (dropSeg n ch g s) n).poolFree = (stackAt s n).poolFree + g.pool := by
  rw [dropSeg, stackAt_setStack, poolFree_updChan]

theorem chanAt_foldl_dropSeg (n ch : Nat) (l : List Seg) (s : State) : chanAt (stackAt (l.foldl (fun s g => dropSeg n ch g s) s) n) ch =
    { chanAt (stackAt s n) ch with segs := (chanAt (stackAt s n) ch).segs.filter fun q => l.all fun g => q.id != g.id } := by
  induction l generalizing s with
  | nil => simp
  | cons g l ih =>
    rw [List.foldl_cons, ih, chanAt_dropSeg]
    simp only [List.filter_filter, List.all_cons, Bool.and_comm]

/-- A descriptor that ends leaves its channel without segments and without a credit, and counts. -/
theorem chanAt_freeDesc_same (n ch : Nat) (s : State) : chanAt (stackAt (freeDesc n ch s) n) ch =
    { chanAt (stackAt s n) ch with segs := [], credit := false, done := (chanAt (stackAt s n) ch).done + 1, started := 0 } := by
  have hnone : ((chanAt (stackAt s n) ch).segs.filter fun q => (chanAt (stackAt s n) ch).segs.all fun g => q.id != g.id) = [] :=
    List.filter_eq_nil_iff.2 fun q hq hall => by simpa using List.all_eq_true.1 hall q hq
  have hdropped := chanAt_foldl_dropSeg n ch (chanAt (stackAt s n) ch).segs s
  rw [hnone] at hdropped
  refine (chanAt_updChan n ch (fun c => { c with credit := false, done := c.done + 1, started := 0 }) _).trans ?_
  rw [hdropped]

theorem chanAt_freeDesc_ne {ch j : Nat} (hj : j ≠ ch) (n : Nat) (s : State) :
    chanAt (stackAt (freeDesc n ch s) n) j = chanAt (stackAt s n) j :=
  (chanAt_updChan_ne hj n (fun c => { c with credit := false, done := c.done + 1, started := 0 }) _).trans
    (foldl_same (g := fun s => chanAt (stackAt s n) j) (fun _ _ => chanAt_dropSeg_ne hj ..) ..)

/-! ### START and ABORT (R232, R266) -/

section
variable {n ch : Nat} {s : State}

theorem chStart_runs (hfree : ¬ (ch = 15 ∧ mcUses s n = true)) (hst : (chanAt (stackAt s n) ch).st = .idle ∨ (chanAt (stackAt s n) ch).st = .error) :
    chStart n ch s = updChan n ch (fun c => { c with
      st := .running, code := 0, desc := none, failed := none, aborting := false, cur := liveF s (stackPage n 1) (0x800 + 32 * ch) 31 0,
      lastEpoch := (live s (stackPage n 1) (0x804 + 32 * ch)).setWidth 16 }) s := by
  have hepoch : chOff ch 4 = 0x804 + 32 * ch := by rw [chOff]; omega
  rw [chStart, if_neg hfree, if_pos hst, hepoch]
  rfl

theorem chStart_refused (h : (ch = 15 ∧ mcUses s n = true) ∨ ((chanAt (stackAt s n) ch).st ≠ .idle ∧ (chanAt (stackAt s n) ch).st ≠ .error)) :
    chStart n ch s = recordErrAny (stackPage n 1) E.stackChBusy s := by
  obtain h | ⟨hidle, herror⟩ := h
  · rw [chStart, if_pos h]
    rfl
  · rw [chStart, if_neg (not_or.2 ⟨hidle, herror⟩)]
    exact ite_self _

theorem chAbort_flying (hst : (chanAt (stackAt s n) ch).st = .running ∨ (chanAt (stackAt s n) ch).st = .waiting ∨ (chanAt (stackAt s n) ch).st = .stalled)
    (hsegs : (chanAt (stackAt s n) ch).segs ≠ []) : chAbort n ch s = updChan n ch (fun c => { c with aborting := true, st := .running }) s := by
  have hfly : (chanAt (stackAt s n) ch).segs.isEmpty = false := List.isEmpty_eq_false_iff.2 hsegs
  obtain h | h | h := hst <;> simp only [chAbort, h, hfly, Bool.false_eq_true, if_false]

/-- With no segment in flight, what ABORT frees first: the descriptor under way. -/
theorem chAbort_settled (hst : (chanAt (stackAt s n) ch).st = .running ∨ (chanAt (stackAt s n) ch).st = .waiting ∨ (chanAt (stackAt s n) ch).st = .stalled)
    (hsegs : (chanAt (stackAt s n) ch).segs = []) : chAbort n ch s = updChan n ch (fun c => { c with st := .idle, desc := none, aborting := false })
      (if (chanAt (stackAt s n) ch).desc.isSome then freeDesc n ch s else s) := by
  obtain h | h | h := hst <;> simp only [chAbort, h, hsegs, List.isEmpty_nil, if_true]

end

section
variable {m : Master} {n : Fin 24} {ch : Fin 16} {s : State} (hreach : reaches m s = true) (hdark : pageDark s (stackPage n.val 1) = false)
include hreach hdark

theorem exec_chStart_runs (hfree : ¬ (ch.val = 15 ∧ mcUses s n.val = true))
    (hst : (chanAt (stackAt s n.val) ch.val).st = .idle ∨ (chanAt (stackAt s n.val) ch.val).st = .error) :
    ∃ t, exec (.chStart m n ch) s = .next t ∧ (∀ j, j ≠ ch.val → chanAt (stackAt t n.val) j = chanAt (stackAt s n.val) j) ∧
      chanAt (stackAt t n.val) ch.val = { chanAt (stackAt s n.val) ch.val with
        st := .running, code := 0, desc := none, failed := none, aborting := false, cur := liveF s (stackPage n.val 1) (0x800 + 32 * ch.val) 31 0,
        lastEpoch := (live s (stackPage n.val 1) (0x804 + 32 * ch.val)).setWidth 16 } :=
  ⟨_, congrArg Host.Outcome.next ((onPage_acts hreach hdark).trans (chStart_runs hfree hst)), fun _ hj => chanAt_updChan_ne hj .., chanAt_updChan ..⟩

theorem exec_chStart_refused (h : (ch.val = 15 ∧ mcUses s n.val = true) ∨
      ((chanAt (stackAt s n.val) ch.val).st ≠ .idle ∧ (chanAt (stackAt s n.val) ch.val).st ≠ .error)) :
    ∃ t, exec (.chStart m n ch) s = .next t ∧ chanAt (stackAt t n.val) ch.val = chanAt (stackAt s n.val) ch.val ∧
      errValid t (stackPage n.val 1) = true ∧
      (errValid s (stackPage n.val 1) = false → bits (live t (stackPage n.val 1) 0x10) 15 0 = E.stackChBusy.toNat) := by
  obtain ⟨hvalid, -, -, -, hcode⟩ := records_error (stackPage n.val 1) E.stackChBusy s
  refine ⟨_, congrArg Host.Outcome.next ((onPage_acts hreach hdark).trans (chStart_refused h)), ?_, hvalid, fun hclear => ?_⟩
  · rw [stackAt_recordErrAny]
  · rw [hcode hclear]
    decide

theorem exec_chAbort_ends
    (hst : (chanAt (stackAt s n.val) ch.val).st = .running ∨ (chanAt (stackAt s n.val) ch.val).st = .waiting ∨ (chanAt (stackAt s n.val) ch.val).st = .stalled) :
    ∃ t, exec (.chAbort m n ch) s = .next t ∧ (∀ j, j ≠ ch.val → chanAt (stackAt t n.val) j = chanAt (stackAt s n.val) j) ∧
      ((chanAt (stackAt s n.val) ch.val).segs = [] → (chanAt (stackAt t n.val) ch.val).st = .idle ∧ (chanAt (stackAt t n.val) ch.val).desc = none ∧
        (chanAt (stackAt t n.val) ch.val).aborting = false) ∧
      ((chanAt (stackAt s n.val) ch.val).segs ≠ [] →
        chanAt (stackAt t n.val) ch.val = { chanAt (stackAt s n.val) ch.val with aborting := true, st := .running }) := by
  by_cases hsegs : (chanAt (stackAt s n.val) ch.val).segs = []
  · refine ⟨_, congrArg Host.Outcome.next ((onPage_acts hreach hdark).trans (chAbort_settled hst hsegs)), fun j hj => ?_,
      fun _ => by rw [chanAt_updChan]; exact ⟨rfl, rfl, rfl⟩, fun h => absurd hsegs h⟩
    rw [chanAt_updChan_ne hj]
    split
    · exact chanAt_freeDesc_ne hj ..
    · rfl
  · exact ⟨_, congrArg Host.Outcome.next ((onPage_acts hreach hdark).trans (chAbort_flying hst hsegs)), fun _ hj => chanAt_updChan_ne hj ..,
      fun h => absurd h hsegs, fun _ => chanAt_updChan ..⟩

end

/-! ### Descriptors are fetched (R221, R229) -/

/-- A descriptor lies within one unit. -/
theorem stackRead_desc {s : State} {n cur r : Nat} {k : StoreKey} (hregion : accessRegion s n (32 * cur) 32 = .ok r)
    (hkey : mfind (stackAt s n).keys (regionKey s n r) = some k) :
    stackRead n (32 * cur) 32 false [] s = (.ok (plainBytes s k (stackAddr n (32 * cur)) 32), s) :=
  stackRead_within hregion hkey (by decide) (by simp only [stackAddr, stackBase, stackWin]; omega)

section
variable {n : Fin 24} {ch : Fin 16} {s : State} (hruns : stackRuns s n.val = true)
include hruns

theorem exec_chDescFetch_refused {l : List Byte} {e : Code} (hst : (chanAt (stackAt s n.val) ch.val).st = .running)
    (hdesc : (chanAt (stackAt s n.val) ch.val).desc = none)
    (habort : (chanAt (stackAt s n.val) ch.val).aborting = false) (hin : 32 * (chanAt (stackAt s n.val) ch.val).cur + 32 ≤ stackUsed)
    (hfirst : behind s n.val (stackAddr n.val (32 * (chanAt (stackAt s n.val) ch.val).cur)) 32 = false)
    (hread : stackRead n.val (32 * (chanAt (stackAt s n.val) ch.val).cur) 32 false [] s = (.ok l, s))
    (hcheck : chDescCheck s n.val (chDescOf l).1 (chDescOf l).2 = some e) :
    ∃ t, exec (.chDescFetch n ch []) s = .next t ∧
      chanAt (stackAt t n.val) ch.val =
        { chanAt (stackAt s n.val) ch.val with st := .error, code := e, done := (chanAt (stackAt s n.val) ch.val).done + 1 } ∧
      errValid t (stackPage n.val 1) = true := by
  have hexec : descFetch n.val ch.val [] s = chanError n.val ch.val e (sendNotify (stackRouter n.val 0).1 (srcStack n.val)
      (descFetch.descNotifies (chDescOf l).1) (chDescOf l).1.tally (updChan n.val ch.val (fun c => { c with done := c.done + 1 }) s)) := by
    simp only [descFetch, hruns, hst, hdesc, habort, inOrder, serveEarlier_none hfirst, hfirst, hread, hcheck]
    exact (if_neg (by decide)).trans ((if_neg (not_lt.2 hin)).trans (if_neg Bool.false_ne_true))
  obtain ⟨hchan, hvalid⟩ := chanError_state n.val ch.val e (sendNotify (stackRouter n.val 0).1 (srcStack n.val)
    (descFetch.descNotifies (chDescOf l).1) (chDescOf l).1.tally (updChan n.val ch.val (fun c => { c with done := c.done + 1 }) s))
  refine ⟨_, congrArg Host.Outcome.next hexec, ?_, hvalid⟩
  rw [hchan, stackAt_sendNotify, chanAt_updChan]

end

/-! ### Descriptors wait (R231) -/

section
variable {n ch : Nat} {s : State} {d : ChDesc} {chk : StackCheck}

/-- A channel with a descriptor that has passed its checks. -/
def begun (d : ChDesc) (c : Chan) : Chan :=
  { c with desc := some d, started := 0, segs := [], failed := none, woken := none, refused := false, st := if d.wait then .waiting else .running }

theorem beginDesc_waits (hwait : d.wait = true) : beginDesc n ch d chk s =
    chanRegister n ch d.waitTally (chanAt (stackAt s n) ch).lastEpoch (updChan n ch (begun d) s) := by
  unfold beginDesc
  dsimp only
  rw [if_pos hwait, chanAt_updChan]
  rfl

theorem beginDesc_runs (hwait : d.wait = false) : beginDesc n ch d chk s = runDesc n ch chk (updChan n ch (begun d) s) :=
  if_neg (Bool.eq_false_iff.1 hwait)

variable {e : BitVec 16} (hruns : stackRuns s n = true) (hst : (chanAt (stackAt s n) ch).st = .waiting)
  (hdesc : (chanAt (stackAt s n) ch).desc = some d) (hok : (chanAt (stackAt s n) ch).refused = false)
include hruns hst hdesc hok

/-- A wake without a fire: the channel registers again. -/
theorem waitRelease_again (hwoken : (chanAt (stackAt s n) ch).woken = some (chanAt (stackAt s n) ch).lastEpoch) : waitRelease n ch chk s =
    chanRegister n ch d.waitTally (chanAt (stackAt s n) ch).lastEpoch (updChan n ch (fun c => { c with woken := none }) s) := by
  simp only [waitRelease, hruns, hst, hdesc, hok, hwoken]
  rfl

theorem waitRelease_moved (hwoken : (chanAt (stackAt s n) ch).woken = some e) (hmoved : e ≠ (chanAt (stackAt s n) ch).lastEpoch) :
    waitRelease n ch chk s = runDesc n ch chk (updChan n ch (fun c => { c with lastEpoch := e, st := .running })
      (updChan n ch (fun c => { c with woken := none }) s)) := by
  simp only [waitRelease, hruns, hst, hdesc, hok, hwoken, if_neg hmoved]
  rfl

end

/-! ### Descriptors run (R230, R231) -/

section
variable {n ch : Nat} {s : State} {d : ChDesc} {chk : StackCheck}

theorem runDesc_local (hdesc : (chanAt (stackAt s n) ch).desc = some d) (hlocal : chRemote s d = none) :
    runDesc n ch chk s = startSegs n ch d chk (d.len / 32 + 1) s := by
  simp only [runDesc, hdesc, hlocal]

/-- No segment starts once the whole range has. -/
theorem startSegs_all (hall : d.len ≤ (chanAt (stackAt s n) ch).started) (fuel : Nat) : startSegs n ch d chk fuel s = s := by
  cases fuel with
  | zero => rfl
  | succ fuel =>
    rw [startSegs]
    exact if_pos (by simp [hall])

theorem behind_nothing (s : State) (n a : Nat) : behind s n a 0 = false := by simp [behind, sharesUnit]

theorem inOrder_first {a len : Nat} (h : behind s n a len = false) : inOrder n a len chk s = s := serveEarlier_none h _

/-- A fill with room begins its first segment. -/
theorem startSegs_fill (hop : d.op = 2) (hlen : 0 < d.len) (hstarted : (chanAt (stackAt s n) ch).started = 0)
    (hsegs : (chanAt (stackAt s n) ch).segs = []) (hfailed : (chanAt (stackAt s n) ch).failed = none)
    (habort : (chanAt (stackAt s n) ch).aborting = false) (hroom : poolUnits (segLen d 0) ≤ (stackAt s n).poolFree) (fuel : Nat) :
    startSegs n ch d chk (fuel + 1) s =
      startSegs n ch d chk fuel (startSeg n ch d 0 chk (updChan n ch (fun c => { c with st := .running }) s)) := by
  have hreads : segReads s n d 0 = (0, 0) := if_neg fun h => h.1 hop
  have hfree : ¬ (stackAt s n).poolFree < poolUnits (segLen d 0) := by omega
  have hmore : ¬ d.len ≤ 0 := by omega
  rw [startSegs]
  simp only [hstarted, hsegs, hfailed, habort, hreads, inOrder_first (behind_nothing s n 0), behind_nothing, hfree, hmore]
  simp

theorem chanAt_addSeg (n ch : Nat) (g : Seg) (s : State) : chanAt (stackAt (addSeg n ch g s) n) ch = { chanAt (stackAt s n) ch with
    segs := (chanAt (stackAt s n) ch).segs ++ [g], started := g.off + g.len, nextSeg := (chanAt (stackAt s n) ch).nextSeg + 1 } := by
  rw [addSeg, stackAt_setStack]
  exact chanAt_updChan n ch (fun c => { c with segs := c.segs ++ [g], started := g.off + g.len, nextSeg := c.nextSeg + 1 }) s

theorem poolFree_addSeg (n ch : Nat) (g : Seg) (s : State) : (stackAt (addSeg n ch g s) n).poolFree = (stackAt s n).poolFree - g.pool := by
  rw [addSeg, stackAt_setStack, poolFree_updChan]

/-- The segment that a fill of one segment is. -/
def fillSeg (c : Chan) (len : Nat) (k : StoreKey) : Seg := ⟨c.nextSeg, 0, len, len, List.replicate len 0, poolUnits len, some k, false⟩

/-- A fill's segment whose range and fence are in order holds its pool units, its zeros and the key of its place. -/
theorem startSeg_fill {k : StoreKey} (hop : d.op = 2) (hown : sideOwn s n d.dst = true) (hwhole : segLen d 0 = d.len)
    (hfence : fenceSide s (chanTenant s n (chanAt (stackAt s n) ch)) d.dst 0 = true) (hrange : sideCheck s d.dst d.len = none)
    (hplace : placeKey s n d.dst 0 = some k) (hsegs : (chanAt (stackAt s n) ch).segs = []) :
    (stackAt (startSeg n ch d 0 chk s) n).poolFree = (stackAt s n).poolFree - poolUnits d.len ∧
      chanAt (stackAt (startSeg n ch d 0 chk s) n) ch = { chanAt (stackAt s n) ch with
        started := d.len, nextSeg := (chanAt (stackAt s n) ch).nextSeg + 1, segs := [fillSeg (chanAt (stackAt s n) ch) d.len k] } := by
  have hbrings : startSeg.segBrings s n d = true := by simp [startSeg.segBrings, hop]
  have hcheck : segCheck s (chanTenant s n (chanAt (stackAt s n) ch)) d 0 d.len = none := by
    simp [segCheck, firstSome, hop, hrange, hfence]
  have hown' : ∀ g, sideOwn (addSeg n ch g s) n d.dst = true := fun _ => hown
  have hstart : startSeg n ch d 0 chk s = updChan n ch
      (fun c => { c with segs := c.segs.map fun q => if q.id = (chanAt (stackAt s n) ch).nextSeg then { q with data := List.replicate d.len 0 } else q })
      (addSeg n ch { fillSeg (chanAt (stackAt s n) ch) d.len k with data := [] } s) := by
    simp only [startSeg, hwhole, hbrings, hplace, hcheck, hown, hop, segSend, hown', fillSeg]
    rfl
  rw [hstart, poolFree_updChan, chanAt_updChan, poolFree_addSeg, chanAt_addSeg, hsegs]
  exact ⟨rfl, by simp [fillSeg]⟩

end

theorem exec_chPoolSpace_fill {n : Fin 24} {ch : Fin 16} {s : State} {d : ChDesc} {k : StoreKey} (hruns : stackRuns s n.val = true)
    (hst : (chanAt (stackAt s n.val) ch.val).st = .stalled) (hdesc : (chanAt (stackAt s n.val) ch.val).desc = some d) (hop : d.op = 2)
    (hown : sideOwn s n.val d.dst = true) (hfence : fenceSide s (chanTenant s n.val (chanAt (stackAt s n.val) ch.val)) d.dst 0 = true)
    (hlen : 0 < d.len) (hwhole : segLen d 0 = d.len) (hstarted : (chanAt (stackAt s n.val) ch.val).started = 0)
    (hsegs : (chanAt (stackAt s n.val) ch.val).segs = []) (hfailed : (chanAt (stackAt s n.val) ch.val).failed = none)
    (habort : (chanAt (stackAt s n.val) ch.val).aborting = false) (hroom : poolUnits d.len ≤ (stackAt s n.val).poolFree)
    (hrange : sideCheck s d.dst d.len = none) (hplace : placeKey s n.val d.dst 0 = some k) (chk : StackCheck) :
    ∃ t, exec (.chPoolSpace n ch chk) s = .next t ∧ (stackAt t n.val).poolFree = (stackAt s n.val).poolFree - poolUnits d.len ∧
      chanAt (stackAt t n.val) ch.val = { chanAt (stackAt s n.val) ch.val with
        st := .running, started := d.len, nextSeg := (chanAt (stackAt s n.val) ch.val).nextSeg + 1,
        segs := [fillSeg (chanAt (stackAt s n.val) ch.val) d.len k] } := by
  have hlocal : chRemote s d = none := if_pos (by rw [hop]; decide)
  let r := updChan n.val ch.val (fun c => { c with st := .running }) s
  have hr : chanAt (stackAt r n.val) ch.val = { chanAt (stackAt s n.val) ch.val with st := .running } := chanAt_updChan ..
  obtain ⟨hpool, hchan⟩ := startSeg_fill (s := r) (ch := ch.val) (chk := chk) (k := k) hop hown hwhole (by rw [hr]; exact hfence) hrange
    (by rw [placeKey, stackAt_updChan]; exact hplace) (by rw [hr]; exact hsegs)
  have hexec : poolSpace n.val ch.val chk s = startSeg n.val ch.val d 0 chk r := by
    rw [poolSpace, hruns, hst, if_pos (by decide), runDesc_local hdesc hlocal,
      startSegs_fill hop hlen hstarted hsegs hfailed habort (by rwa [hwhole]), startSegs_all (by rw [hchan])]
  refine ⟨_, congrArg Host.Outcome.next hexec, ?_, ?_⟩
  · rw [hpool, poolFree_updChan]
  · rw [hchan, hr]
    rfl

/-! ### Segments are written (R221, R223, R230) -/

/-- A segment of whose bytes some have been written. -/
def landedSeg (id k : Nat) (g : Seg) : Seg := if g.id = id then { g with left := g.left - k } else g

theorem landedSeg_id (id k : Nat) (g : Seg) : (landedSeg id k g).id = g.id := by
  unfold landedSeg
  split <;> rfl

theorem find?_landedSeg {l : List Seg} {g : Seg} (hg : l.find? (·.id == g.id) = some g) (k : Nat) :
    (l.map (landedSeg g.id k)).find? (·.id == g.id) = some { g with left := g.left - k } := by
  have hsame : ((fun q : Seg => q.id == g.id) ∘ landedSeg g.id k) = fun q => q.id == g.id := funext fun q => by
    rw [Function.comp_apply, landedSeg_id]
  rw [List.find?_map, hsame, hg, Option.map_some, landedSeg, if_pos rfl]

/-- The other segments are as they were. -/
theorem filter_landedSeg (l : List Seg) (id k : Nat) : (l.map (landedSeg id k)).filter (·.id != id) = l.filter (·.id != id) := by
  have hsame : ((fun q : Seg => q.id != id) ∘ landedSeg id k) = fun q => q.id != id := funext fun q => by
    rw [Function.comp_apply, landedSeg_id]
  rw [List.filter_map, hsame]
  refine (List.map_congr_left fun q hq => ?_).trans (List.map_id _)
  exact if_neg fun h => by simpa [h] using (List.mem_filter.1 hq).2

theorem chRemote_congr {s t : State} (h : t.live = s.live) (d : ChDesc) : chRemote t d = chRemote s d := by
  have hlocal : ∀ a, sideLocal t a = sideLocal s a := fun a => by rw [sideLocal, sideLocal, ownModule, ownModule, liveF, liveF, live_congr h]
  simp only [chRemote, hlocal]

theorem segWrite_writes {n ch : Nat} {s : State} {d : ChDesc} {g : Seg} {k : StoreKey} (hdesc : (chanAt (stackAt s n) ch).desc = some d)
    (hkey : g.key = some k) (hfirst : behind s n (bits d.dst 49 0 + g.off) g.len = false) : segWrite n ch g [] s =
      segLanded n ch g.id g.len (writeStack k [] (stackAddr n (bits d.dst 49 0 + g.off - stackAddr n 0)) g.data s) := by
  simp only [segWrite, hdesc, inOrder_first hfirst, hfirst, hkey, Option.getD_some, stackPut_clean, Bool.false_eq_true, if_false]

/-- A segment whose last bytes are written leaves the channel, with its pool units; no further one starts where the range has none. -/
theorem segDone_writes {n ch : Nat} {s v : State} {d : ChDesc} {g : Seg} (hruns : stackRuns s n = true)
    (hdesc : (chanAt (stackAt s n) ch).desc = some d) (hlocal : chRemote s d = none) (hall : d.len ≤ (chanAt (stackAt s n) ch).started)
    (hg : (chanAt (stackAt s n) ch).segs.find? (·.id == g.id) = some g) (hdata : g.data ≠ []) (hleft : g.left = g.len) (hlost : g.lost = false)
    (hwrite : segWrite n ch g [] s = segLanded n ch g.id g.len v) (hstk : v.stk = s.stk) (hlive : v.live = s.live) :
    segDone n ch g.id [] s = dropSeg n ch { g with left := 0 } (segLanded n ch g.id g.len v) := by
  have hlanded : chanAt (stackAt (segLanded n ch g.id g.len v) n) ch =
      { chanAt (stackAt s n) ch with segs := (chanAt (stackAt s n) ch).segs.map (landedSeg g.id g.len) } := by
    rw [segLanded, chanAt_updChan, stackAt_congr hstk]
    rfl
  have hfound : (chanAt (stackAt (segLanded n ch g.id g.len v) n) ch).segs.find? (·.id == g.id) = some { g with left := 0 } := by
    rw [hlanded, find?_landedSeg hg, hleft, Nat.sub_self]
  let w := dropSeg n ch { g with left := 0 } (segLanded n ch g.id g.len v)
  have hdesc' : (chanAt (stackAt w n) ch).desc = some d := by
    rw [chanAt_dropSeg, hlanded]
    exact hdesc
  have hall' : d.len ≤ (chanAt (stackAt w n) ch).started := by
    rw [chanAt_dropSeg, hlanded]
    exact hall
  have hlive' : w.live = s.live := by rw [dropSeg_live, segLanded_live, hlive]
  have hlocal' : chRemote w d = none := (chRemote_congr hlive' d).trans hlocal
  have hrest : runDesc n ch [] w = w := by rw [runDesc_local hdesc' hlocal', startSegs_all hall']
  have hopen : (g.data.isEmpty || g.lost) = false := by rw [List.isEmpty_eq_false_iff.2 hdata, hlost, Bool.or_self]
  simp only [segDone, hruns, hg, hopen, hwrite, hfound, Bool.not_true, Bool.false_eq_true, if_false, if_true]
  exact (if_congr Iff.rfl hrest rfl).trans (ite_self w)

theorem exec_chSegmentDone_writes {n : Fin 24} {ch : Fin 16} {s : State} {d : ChDesc} {g : Seg} {k : StoreKey} (hruns : stackRuns s n.val = true)
    (hdesc : (chanAt (stackAt s n.val) ch.val).desc = some d) (hlocal : chRemote s d = none)
    (hall : d.len ≤ (chanAt (stackAt s n.val) ch.val).started) (hg : (chanAt (stackAt s n.val) ch.val).segs.find? (·.id == g.id) = some g)
    (hdata : g.data ≠ []) (hlen : g.data.length = g.len) (hleft : g.left = g.len) (hlost : g.lost = false) (hkey : g.key = some k)
    (hfirst : behind s n.val (bits d.dst 49 0 + g.off) g.len = false) :
    let a := stackAddr n.val (bits d.dst 49 0 + g.off - stackAddr n.val 0)
    ∃ t, exec (.chSegmentDone n ch g.id []) s = .next t ∧
      (chanAt (stackAt t n.val) ch.val).segs = (chanAt (stackAt s n.val) ch.val).segs.filter (·.id != g.id) ∧
      (stackAt t n.val).poolFree = (stackAt s n.val).poolFree + g.pool ∧
      ∀ i, i < g.len → mfind t.stackMem (a + i) = g.data[i]? ∧ mfind t.stackKey ((a + i) / 512) = some k := by
  intro a
  obtain ⟨v, hwrite, hwritten⟩ : ∃ v, segWrite n.val ch.val g [] s = segLanded n.val ch.val g.id g.len v ∧ Written k a g.data s v :=
    ⟨_, segWrite_writes hdesc hkey hfirst, written_writeStack k a s (List.length_pos_of_ne_nil hdata)⟩
  have hstk : v.stk = s.stk := (congrArg State.stk hwritten.rest :)
  have hexec := segDone_writes hruns hdesc hlocal hall hg hdata hleft hlost hwrite hstk (congrArg State.live hwritten.rest :)
  refine ⟨_, congrArg Host.Outcome.next hexec, ?_, ?_, fun i hi => ?_⟩
  · rw [chanAt_dropSeg, segLanded, chanAt_updChan, stackAt_congr hstk]
    exact filter_landedSeg ..
  · rw [poolFree_dropSeg, segLanded, poolFree_updChan, stackAt_congr hstk]
  · rw [dropSeg_stackMem, segLanded_stackMem, dropSeg_stackKey, segLanded_stackKey]
    refine ⟨hwritten.stored i (by omega), hwritten.key _ ?_⟩
    simp only [inUnits]
    omega

/-! ### Descriptors end (R232, R234, R391) -/

/-- What the module controller hears of changes neither the channel nor page +1. -/
theorem reportChannel_state (e : Code) (n ch : Nat) (s : State) : chanAt (stackAt (reportChannel e n s) n) ch = chanAt (stackAt s n) ch ∧
    errValid (reportChannel e n s) (stackPage n 1) = errValid s (stackPage n 1) := by
  unfold reportChannel
  split <;> exact ⟨rfl, rfl⟩

section
variable {n : Fin 24} {ch : Fin 16} {s : State} {d : ChDesc} (hruns : stackRuns s n.val = true)
  (hst : (chanAt (stackAt s n.val) ch.val).st = .running ∨ (chanAt (stackAt s n.val) ch.val).st = .stalled)
  (habort : (chanAt (stackAt s n.val) ch.val).aborting = false) (hdesc : (chanAt (stackAt s n.val) ch.val).desc = some d)
include hruns hst habort hdesc

theorem exec_chDescEnd_done (hfailed : (chanAt (stackAt s n.val) ch.val).failed = none) (hsegs : (chanAt (stackAt s n.val) ch.val).segs = [])
    (hall : d.len ≤ (chanAt (stackAt s n.val) ch.val).started) : exec (.chDescEnd n ch) s = .next (sendNotify (stackRouter n.val 0).1
      (srcStack n.val) d.notify d.tally (updChan n.val ch.val (nextDesc d) (freeDesc n.val ch.val s))) := by
  have hactive : ((chanAt (stackAt s n.val) ch.val).st == .running || (chanAt (stackAt s n.val) ch.val).st == .stalled) = true := by simpa using hst
  refine congrArg Host.Outcome.next ?_
  simp only [chDescEnd, hruns, hactive, hdesc, habort, hfailed, hsegs]
  exact (if_neg Bool.false_ne_true).trans (if_pos ⟨rfl, hall⟩)

theorem exec_chDescEnd_failed {e : Code} (hfailed : (chanAt (stackAt s n.val) ch.val).failed = some e)
    (hover : chRemote s d = none ∨ segsOver (chanAt (stackAt s n.val) ch.val) = true) :
    ∃ t, exec (.chDescEnd n ch) s = .next t ∧ chanAt (stackAt t n.val) ch.val = { chanAt (stackAt s n.val) ch.val with
        st := .error, code := e, desc := none, segs := [], credit := false, done := (chanAt (stackAt s n.val) ch.val).done + 1, started := 0 } ∧
      errValid t (stackPage n.val 1) = true := by
  have hactive : ((chanAt (stackAt s n.val) ch.val).st == .running || (chanAt (stackAt s n.val) ch.val).st == .stalled) = true := by simpa using hst
  have hended : ((chRemote s d).isSome && !segsOver (chanAt (stackAt s n.val) ch.val)) = false := by
    obtain h | h := hover <;> simp [h]
  let u := sendNotify (stackRouter n.val 0).1 (srcStack n.val) d.notify d.tally
    (updChan n.val ch.val (fun c => { c with desc := none }) (freeDesc n.val ch.val s))
  have hexec : chDescEnd n.val ch.val s = reportChannel e n.val (chanError n.val ch.val e u) := by
    simp only [chDescEnd, hruns, hactive, hdesc, habort, hfailed]
    exact (if_neg Bool.false_ne_true).trans (if_neg (Bool.eq_false_iff.1 hended))
  obtain ⟨hreported, hkept⟩ := reportChannel_state e n.val ch.val (chanError n.val ch.val e u)
  obtain ⟨hchan, hvalid⟩ := chanError_state n.val ch.val e u
  refine ⟨_, congrArg Host.Outcome.next hexec, ?_, hkept.trans hvalid⟩
  rw [hreported, hchan, stackAt_sendNotify, chanAt_updChan, chanAt_freeDesc_same]

end

/-- A descriptor without segments leaves the routers, and gives back the credit that it holds. -/
theorem freeDesc_credits {n ch : Nat} {s : State} (hsegs : (chanAt (stackAt s n) ch).segs = []) : (freeDesc n ch s).routers = s.routers ∧
    (freeDesc n ch s).credits = if (chanAt (stackAt s n) ch).credit = true then s.credits - 1 else s.credits := by
  rw [freeDesc, hsegs]
  exact ⟨rfl, rfl⟩

/-- Settles O28: each command and event of a channel ends as stated of it above. -/
theorem channelsRunTheirLists : Obligations.ChannelsRunTheirLists := by
  unfold Obligations.ChannelsRunTheirLists
  intro s m n ch x c p after others hreach
  refine ⟨fun hdark hfree hst => exec_chStart_runs hreach hdark hfree hst, fun hdark h => exec_chStart_refused hreach hdark h,
    fun hdark hst => exec_chAbort_ends hreach hdark hst, ?_, ?_, ?_, ?_, ?_, ?_⟩
  · intro l k r hruns hst hdesc habort hin hfirst hregion hkey hl d base
    have hread : stackRead n.val (32 * c.cur) 32 false [] s = (.ok l, s) := hl ▸ stackRead_desc hregion hkey
    refine ⟨fun hcheck => ⟨_, _, exec_chDescFetch hruns hst hdesc habort hin hfirst hread hcheck, rfl, fun hwait => ?_, fun hwait => ?_⟩,
      fun e hcheck => exec_chDescFetch_refused hruns hst hdesc habort hin hfirst hread hcheck⟩
    · exact beginDesc_waits hwait
    · exact beginDesc_runs hwait
  · intro d e chk hruns hst hdesc hok hwoken
    refine ⟨waitRelease n.val ch.val chk s, rfl, fun h => ?_, fun h => ?_⟩
    · subst h
      exact waitRelease_again hruns hst hdesc hok hwoken
    · exact waitRelease_moved hruns hst hdesc hok hwoken h
  · intro d k chk hruns hst hdesc hop hown hfence hlen hwhole hstarted hsegs hfailed habort hroom hrange hplace
    exact exec_chPoolSpace_fill hruns hst hdesc hop hown hfence hlen hwhole hstarted hsegs hfailed habort hroom hrange hplace chk
  · intro d g k hruns hdesc hlocal hall hg hdata hlen hleft hlost hkey off hfirst
    exact exec_chSegmentDone_writes hruns hdesc hlocal hall hg hdata hlen hleft hlost hkey hfirst
  · intro d hruns hst habort hdesc hfailed hsegs hall
    obtain ⟨hrouters, hcredits⟩ := freeDesc_credits hsegs
    refine ⟨_, _, exec_chDescEnd_done hruns hst habort hdesc hfailed hsegs hall, rfl, hrouters, hcredits, ?_⟩
    refine (chanAt_updChan ..).trans ?_
    rw [chanAt_freeDesc hsegs]
    rfl
  · intro d e hruns hst habort hdesc hfailed hover
    obtain ⟨t, hexec, hchan, hvalid⟩ := exec_chDescEnd_failed hruns hst habort hdesc hfailed hover
    exact ⟨t, hexec, congrArg Chan.st hchan, congrArg Chan.code hchan, congrArg Chan.desc hchan, congrArg Chan.segs hchan,
      congrArg Chan.done hchan, hvalid⟩

end Sys2Proof.Machine
end

section
/-! Commands of the hazard detector (R252, R254, R255). -/

namespace Sys2Proof.Machine

open Sys2Proof

/-! ### HD_MARK_DATA (R255) -/

theorem bits_offset_mod_eight (d : Word) : bits d 2 0 = d.toNat % 8 := by simp [bits]

theorem bit_31_iff_le (d : Word) : bit d 31 = true ↔ 2 ^ 31 ≤ d.toNat := by
  rw [bit, ← BitVec.msb_eq_getLsbD_last, BitVec.msb_eq_decide, decide_eq_true_iff]

/-! ### MARK_WRITE (R255) -/

/-- The marks after a MARK_WRITE of an aligned entry: the entry, or none where it is not VALID. -/
def marksWritten (marks : Map Word) (k : Nat) (d : Word) : Map Word := if bit d 31 = true then mput marks k d else mdel marks k

theorem mfind_marksWritten (marks : Map Word) (k j : Nat) (d : Word) :
    mfind (marksWritten marks k d) j = if k = j then (if 2 ^ 31 ≤ d.toNat then some d else none) else mfind marks j := by
  unfold marksWritten
  by_cases hvalid : bit d 31 = true
  · rw [if_pos hvalid, if_pos ((bit_31_iff_le d).1 hvalid), mfind_mput]
  · rw [if_neg hvalid, if_neg (mt (bit_31_iff_le d).2 hvalid), mfind_mdel]

theorem hdMarkWrite_aligned {f : Nat} {s : State} (h : (live s (pHd f) 0x808).toNat % 8 = 0) : hdMarkWrite f s =
    setUnits f { unitsOf s f with
      marks := marksWritten (unitsOf s f).marks (liveF s (pHd f) 0x804 11 0) (live s (pHd f) 0x808) } s := by
  unfold hdMarkWrite marksWritten
  dsimp only
  rw [bits_offset_mod_eight, if_neg (not_not.2 h)]
  split <;> rfl

theorem hdMarkWrite_misaligned {f : Nat} {s : State} (h : (live s (pHd f) 0x808).toNat % 8 ≠ 0) :
    hdMarkWrite f s = recordErrAny (pHd f) E.alignFault s := by
  refine if_pos ?_
  rwa [bits_offset_mod_eight]

theorem fieldUnits_recordErrAny (p : Nat) (c : Code) (s : State) : (recordErrAny p c s).fieldUnits = s.fieldUnits :=
  (congrArg State.fieldUnits (offRegs_recordErrAny p c s) :)

/-! ### The commands (R252, R254, R255) -/

section
variable {m : Master} {f : Fin 80} {s : State} (hreach : reaches m s = true) (hdark : pageDark s (pHd f.val) = false)
include hreach hdark

theorem exec_hdClear : exec (.hdClear m f) s = .next (hdClear f.val s) := congrArg Host.Outcome.next (onPage_acts hreach hdark)

theorem exec_hdMarkWrite : exec (.hdMarkWrite m f) s = .next (hdMarkWrite f.val s) := congrArg Host.Outcome.next (onPage_acts hreach hdark)

theorem exec_hdMarkClear : exec (.hdMarkClear m f) s = .next (hdMarkClear f.val s) := congrArg Host.Outcome.next (onPage_acts hreach hdark)

end

/-- Settles O19: a command acts on the detector of its field alone, and MARK_WRITE either writes one entry or records a fault. -/
theorem hazardDetectorCommands : Obligations.HazardDetectorCommands := by
  unfold Obligations.HazardDetectorCommands
  intro m f s hreach hdark u d k
  refine ⟨⟨_, exec_hdClear hreach hdark, ?_⟩, fun haligned => ⟨_, exec_hdMarkWrite hreach hdark, ?_⟩,
    fun hmisaligned hfirst => ⟨_, exec_hdMarkWrite hreach hdark, ?_⟩, ⟨_, exec_hdMarkClear hreach hdark, ?_⟩⟩
  · rw [hdClear, unitsOf_setUnits]
    exact ⟨rfl, rfl, rfl, rfl, rfl⟩
  · rw [hdMarkWrite_aligned haligned, unitsOf_setUnits]
    exact ⟨rfl, rfl, (mfind_marksWritten ..).trans (if_pos rfl), fun j hj => (mfind_marksWritten ..).trans (if_neg hj.symm)⟩
  · rw [hdMarkWrite_misaligned hmisaligned]
    exact ⟨fieldUnits_recordErrAny .., live_recordErr_code hfirst⟩
  · rw [hdMarkClear, unitsOf_setUnits]
    exact ⟨rfl, rfl, rfl⟩

end Sys2Proof.Machine
end

section
/-! SUPPORT. What installs, adapters and the prefix tree write, and what they leave as it was (R264, R271, R275, R280, R332). -/

namespace Sys2Proof.Machine

open Sys2Proof

/-! ### Results of page 0x0018 (R280) -/

theorem live_endCmd_ne {off a : Nat} (hoff : off < 4096) (ha : a < 4096) (hne : off ≠ a) (c : Code) (s : State) (q : Nat) :
    live (endCmd off c s) q a = live s q a := live_setLive_off _ _ hoff ha hne

theorem live_endCmd_done (off : Nat) (s : State) : live (endCmd off 0 s) pWl off = 0x80000000 := live_setLive_same ..

theorem live_endCmd_code {c : Code} (hc : c ≠ 0) (off : Nat) (s : State) :
    live (endCmd off c s) pWl off = BitVec.ofNat 32 (2 ^ 31 + 2 ^ 30 + c.toNat) := by
  rw [endCmd, if_neg hc, setCmdResult, live_setLive_same]
  norm_num

/-! ### States of epochs (R268) -/

theorem epLo_cases (e : Nat) : epLo e = 23 ∨ epLo e = 20 := by
  unfold epLo
  split <;> simp

theorem epLo_other {e : Nat} (he : e < 2) : epLo (1 - e) ≠ epLo e := by
  obtain rfl | rfl : e = 0 ∨ e = 1 := by omega
  all_goals decide

theorem epochSt_congr {s t : State} {m : Nat} (h : live t pWl (0x200 + 4 * m) = live s pWl (0x200 + 4 * m)) (e : Nat) : epochSt t m e = epochSt s m e := by
  rw [epochSt, epochSt, liveF, liveF, h]

theorem epochSt_setEpochSt_same {v : Nat} (hv : v < 8) (m e : Nat) (s : State) : epochSt (setEpochSt m e v s) m e = v := by
  rw [epochSt, liveF, setEpochSt, setLiveF, live_setLive_same]
  obtain h | h := epLo_cases e <;> rw [h] <;> exact bits_withBits _ (by decide) (by decide) hv

theorem epochSt_setEpochSt_other {e d : Nat} (h : epLo d ≠ epLo e) (m v : Nat) (s : State) : epochSt (setEpochSt m e v s) m d = epochSt s m d := by
  rw [epochSt, liveF, setEpochSt, setLiveF, live_setLive_same, bits_withBits_outside _ (by omega) ?_]
  · rfl
  · obtain he | he := epLo_cases e <;> obtain hd | hd := epLo_cases d <;> omega

/-- Whether an epoch was installed STAGED is no part of its state. -/
theorem epochSt_setStaged (m e d : Nat) (b : Bool) (s : State) : epochSt (setStaged m e b s) m d = epochSt s m d := by
  have hlo : 20 ≤ epLo d := by obtain h | h := epLo_cases d <;> omega
  rw [epochSt, liveF, setStaged, setLiveF, live_setLive_same, bits_withBits_outside _ (by omega) ?_]
  · rfl
  · split <;> omega

theorem epochSt_endCmd {m off : Nat} (hm : m < 64) (hlo : 0x800 ≤ off) (hoff : off < 4096) (c : Code) (s : State) (e : Nat) :
    epochSt (endCmd off c s) m e = epochSt s m e := epochSt_congr (live_endCmd_ne hoff (by omega) (by omega) ..) e

/-! ### The prefix tree (R329, R332) -/

/-- The engine without its serving state and its models. -/
def offPrefix (s : State) : State := { s with serving := .reset, weights := { s.weights with models := [] } }

/-- What the engine keeps of a model, without its frames. -/
def sansFrames (s : State) (m : Nat) : Model := { modelAt s m with kv := Model.reset.kv }

theorem modelAt_setModel (m k : Nat) (x : Model) (s : State) : modelAt (setModel m x s) k = if m = k then x else modelAt s k := mget_mset ..

theorem modelAt_updModel_same (m : Nat) (f : Model → Model) (s : State) : modelAt (updModel m f s) m = f (modelAt s m) := modelAt_setModel_same ..

theorem offPrefix_setPx (i : Nat) (e : Option PxEntry) (s : State) : offPrefix (setPx i e s) = offPrefix s := rfl
theorem offPrefix_freeFrame (m : Nat) (stack : Bool) (f : Nat) (s : State) : offPrefix (freeFrame m stack f s) = offPrefix s := rfl
theorem sansFrames_setPx (i : Nat) (e : Option PxEntry) (s : State) (m : Nat) : sansFrames (setPx i e s) m = sansFrames s m := rfl

theorem sansFrames_freeFrame (k : Nat) (stack : Bool) (f : Nat) (s : State) (m : Nat) : sansFrames (freeFrame k stack f s) m = sansFrames s m := by
  rw [sansFrames, freeFrame, updModel, modelAt_setModel]
  split
  · subst k
    rfl
  · rfl

/-- A prefix entry that is detached changes the tree, and of a model only its frames (R332). -/
theorem pxDetach_same (i : Nat) (s : State) : offPrefix (pxDetach i s) = offPrefix s ∧ sansFrames (pxDetach i s) = sansFrames s := by
  have hchild : ∀ k up, offPrefix (pxChild k up s) = offPrefix s ∧ sansFrames (pxChild k up s) = sansFrames s := fun k up => by
    unfold pxChild
    split <;> exact ⟨rfl, rfl⟩
  unfold pxDetach
  split
  · split
    · exact ⟨rfl, rfl⟩
    · dsimp only
      split
      · exact ⟨by rw [offPrefix_freeFrame, offPrefix_setPx, (hchild _ _).1],
          funext fun m => by rw [sansFrames_freeFrame, sansFrames_setPx, (hchild _ _).2]⟩
      · exact ⟨by rw [offPrefix_setPx, (hchild _ _).1], funext fun m => by rw [sansFrames_setPx, (hchild _ _).2]⟩
  · exact ⟨rfl, rfl⟩

theorem offPrefix_pxDetachAll (p : PxEntry → Bool) (s : State) : offPrefix (pxDetachAll p s) = offPrefix s :=
  foldl_same (g := offPrefix) (fun _ _ => (pxDetach_same ..).1) ..

theorem sansFrames_pxDetachAll (p : PxEntry → Bool) (s : State) : sansFrames (pxDetachAll p s) = sansFrames s :=
  foldl_same (g := sansFrames) (fun _ _ => (pxDetach_same ..).2) ..

/-! ### An epoch becomes EMPTY (R271) -/

theorem offPrefix_epochEmpty (m e : Nat) (s : State) : offPrefix (epochEmpty m e s) = offPrefix (setStaged m e false (setEpochSt m e 0 s)) :=
  (offPrefix_pxDetachAll ..).trans rfl

theorem live_epochEmpty (m e : Nat) (s : State) : (epochEmpty m e s).live = (setStaged m e false (setEpochSt m e 0 s)).live :=
  (congrArg State.live (offPrefix_epochEmpty m e s) :)

theorem epochSt_epochEmpty_same (m e : Nat) (s : State) : epochSt (epochEmpty m e s) m e = 0 := by
  rw [epochSt_congr (live_congr (live_epochEmpty m e s) ..), epochSt_setStaged, epochSt_setEpochSt_same (by decide)]

theorem epochSt_epochEmpty_other {e d : Nat} (h : epLo d ≠ epLo e) (m : Nat) (s : State) : epochSt (epochEmpty m e s) m d = epochSt s m d := by
  rw [epochSt_congr (live_congr (live_epochEmpty m e s) ..), epochSt_setStaged, epochSt_setEpochSt_other h]

theorem epImg_setEpImg_same (e : Nat) (g : Option GristImg) (x : Model) : epImg (setEpImg e g x) e = g := by
  unfold epImg setEpImg
  split <;> rfl

/-- The manifest of an epoch that becomes EMPTY goes. -/
theorem epImg_epochEmpty (m e : Nat) (s : State) : epImg (modelAt (epochEmpty m e s) m) e = none := by
  have hframes : sansFrames (epochEmpty m e s) m = sansFrames (updModel m (setEpImg e none) s) m := congrFun (sansFrames_pxDetachAll ..) m
  have himg : ∀ t, epImg (modelAt t m) e = epImg (sansFrames t m) e := fun _ => rfl
  rw [himg, hframes, ← himg, modelAt_updModel_same, epImg_setEpImg_same]

/-! ### Adapter slots (R275) -/

theorem adapterAt_setAdapter (k j : Nat) (x : Adapter) (s : State) : adapterAt (setAdapter k x s) j = if k = j then x else adapterAt s j := mget_mset ..

theorem adapterAt_congr {s t : State} (h : t.weights.adapters = s.weights.adapters) (k : Nat) : adapterAt t k = adapterAt s k := by
  rw [adapterAt, adapterAt, h]

/-! ### Installs by their number (R264) -/

theorem instAt_congr {s t : State} (h : t.weights = s.weights) (who : Nat) : instAt t who = instAt s who := by rw [instAt, instAt, h]

theorem instAt_setInst_same (who : Nat) (x : Option Inst) (s : State) : instAt (setInst who x s) who = x := by
  unfold instAt setInst
  dsimp only
  split_ifs
  · rfl
  · rfl
  · cases x with
    | none => exact (mfind_mdel ..).trans (if_pos rfl)
    | some i => exact (mfind_mput ..).trans (if_pos rfl)

theorem weights_putInst (who : Nat) (i : Inst) (s : State) : (putInst who i s).weights = (setInst who (some i) s).weights := by
  unfold putInst
  dsimp only
  split <;> rfl

theorem instAt_putInst_same (who : Nat) (i : Inst) (s : State) : instAt (putInst who i s) who = some i :=
  (instAt_congr (weights_putInst ..) _).trans (instAt_setInst_same ..)

/-- An install's new state changes of the registers only WL_PROGRESS and WL_SOURCE. -/
theorem live_putInst {a : Nat} (ha : a < 4096) (hprogress : a ≠ 0x824) (hsource : a ≠ 0x828) (who : Nat) (i : Inst) (s : State) (q : Nat) :
    live (putInst who i s) q a = live s q a := by
  unfold putInst
  dsimp only
  split
  · rw [showInstall, live_setLive_off _ _ (by decide) ha hsource.symm, live_setLive_off _ _ (by decide) ha hprogress.symm]
    rfl
  · rfl

theorem live_of_offLinks {s t : State} (h : offLinks t = offLinks s) : t.live = s.live := (congrArg State.live h :)

theorem live_sendSvc (l who : Nat) (q : Svc) (s : State) : (sendSvc l who q s).live = s.live := by
  unfold sendSvc
  exact (live_of_offLinks (offLinks_transmit ..)).trans rfl

theorem live_startInst {a : Nat} (ha : a < 4096) (hprogress : a ≠ 0x824) (hsource : a ≠ 0x828) (who : Nat) (i : Inst) (s : State) (q : Nat) :
    live (startInst who i s) q a = live s q a :=
  (live_congr (foldl_same (g := State.live) (fun _ _ => live_sendSvc ..) ..) ..).trans (live_putInst ha hprogress hsource ..)

theorem weights_startInst (who : Nat) (i : Inst) (s : State) : (startInst who i s).weights = (setInst who (some i) s).weights :=
  (weights_sendQueries ..).trans (weights_putInst ..)

end Sys2Proof.Machine
end

section
/-! Adapter slots fill, retire and are free again (R263, R264, R275, R278, R280). -/

namespace Sys2Proof.Machine

open Sys2Proof

/-! ### Commands of AD_CMD (R280) -/

/-- The state in which AD_INSTALL acts: where it is the one asked for, it is asked for no longer. -/
def takeAdAsked (s : State) : State := if s.weights.adAsked = true then { s with weights := { s.weights with adAsked := false } } else s

theorem takeAdAsked_eq (s : State) : ∃ a, takeAdAsked s = { s with weights := { s.weights with adAsked := a } } := by
  unfold takeAdAsked
  split
  · exact ⟨_, rfl⟩
  · exact ⟨s.weights.adAsked, rfl⟩

section
variable {ma : Master} {host : HostMem} {s : State} (hreach : reaches ma s = true)
include hreach

theorem exec_adInstall (hfree : s.weights.adAsked = true ∨ (cmdBusy s 0x850 = false ∧ mcStops s = false)) :
    exec (.adInstall ma host) s = .next (adInstallCmd host (takeAdAsked s)) := by
  refine congrArg Host.Outcome.next ((onPage_pWl hreach).trans ?_)
  unfold adCommand takeAdAsked
  by_cases hasked : s.weights.adAsked = true
  · simp [hasked]
  · obtain ⟨hbusy, hstops⟩ := hfree.resolve_left hasked
    simp [hasked, hbusy, hstops]

theorem exec_adInstall_busy (hasked : s.weights.adAsked = false) (hbusy : cmdBusy s 0x850 = true ∨ mcStops s = true) :
    exec (.adInstall ma host) s = .next (recordErrAny pWl E.wlBusy s) := by
  refine congrArg Host.Outcome.next ((onPage_pWl hreach).trans ?_)
  simp [adCommand, hasked, hbusy]

theorem exec_adRetire (hbusy : cmdBusy s 0x850 = false) (hstops : mcStops s = false) : exec (.adRetire ma) s = .next (adRetireCmd s) := by
  refine congrArg Host.Outcome.next ((onPage_pWl hreach).trans ?_)
  simp [adCommand, hbusy, hstops]

theorem exec_adRetire_busy (hbusy : cmdBusy s 0x850 = true) : exec (.adRetire ma) s = .next (recordErrAny pWl E.wlBusy s) := by
  refine congrArg Host.Outcome.next ((onPage_pWl hreach).trans ?_)
  simp [adCommand, hbusy]

end

/-! ### AD_INSTALL (R263, R275) -/

/-- The slot that an AD_INSTALL fills with an image for model m. -/
def slotOf (v m : Nat) (g : GristImg) (s : State) : Adapter :=
  ⟨.installing, 0, v, modelTenant s m, m, (rangeOf g 0).unit, (rangeOf g 0).off, (rangeOf g 0).len⟩

/-- The install of an adapter's image for model m, as it begins. -/
def adapterInst (m : Nat) (g : GristImg) (s : State) : Inst :=
  { model := m, epoch := 0, tenant := modelTenant s m, staged := false, img := g, phase := .query, held := [], peer := none,
    todo := unitsOfImg g, cur := none, bytes := 0, hostUnits := 0 }

/-- The command is BUSY and slot k filled. -/
def slotFilled (k v m : Nat) (g : GristImg) (s : State) : State :=
  let t := setAdapter k (slotOf v m g s) (setCmdResult 0x850 1 0 s)
  { t with weights := { t.weights with adSlot := k } }

theorem adapterAt_slotFilled (k v m : Nat) (g : GristImg) (s : State) (j : Nat) :
    adapterAt (slotFilled k v m g s) j = if k = j then slotOf v m g s else adapterAt s j := by
  have hslots : (slotFilled k v m g s).weights.adapters = (setAdapter k (slotOf v m g s) s).weights.adapters := rfl
  rw [adapterAt_congr hslots, adapterAt_setAdapter]

theorem live_slotFilled (k v m : Nat) (g : GristImg) (s : State) : live (slotFilled k v m g s) pWl 0x850 = 0x40000000 := by
  have hlive : (slotFilled k v m g s).live = (setCmdResult 0x850 1 0 s).live := rfl
  exact (live_congr hlive ..).trans (live_setLive_same ..)

/-- The slot is filled, and the adapter's install begins. -/
def adapterBegins (k v m : Nat) (g : GristImg) (s : State) : State :=
  startInst 1 (adapterInst m g (slotFilled k v m g s)) (slotFilled k v m g s)

section
variable {host : HostMem} {s u : State}

theorem adInstallCmd_reserved (hv : liveF s pWl 0x834 31 16 = 0xFFFF) :
    live (adInstallCmd host s) pWl 0x850 = BitVec.ofNat 32 (2 ^ 31 + 2 ^ 30 + E.reservedValue.toNat) ∧
      (adInstallCmd host s).weights.adapters = s.weights.adapters := by
  have hcmd : adInstallCmd host s = endCmd 0x850 E.reservedValue s := by simp [adInstallCmd, firstFail, hv]
  rw [hcmd]
  exact ⟨live_endCmd_code (by decide) .., rfl⟩

variable (hv : liveF s pWl 0x834 31 16 ≠ 0xFFFF)
include hv

theorem adInstallCmd_invalid (h : (adapterAt s (liveF s pWl 0x830 9 0)).st ≠ .free ∨ modelState s (liveF s pWl 0x834 5 0) ≠ 2) :
    live (adInstallCmd host s) pWl 0x850 = BitVec.ofNat 32 (2 ^ 31 + 2 ^ 30 + E.adapterInvalid.toNat) ∧
      (adInstallCmd host s).weights.adapters = s.weights.adapters := by
  have hinvalid : ((adapterAt s (liveF s pWl 0x830 9 0)).st != .free || !modelReady s (liveF s pWl 0x834 5 0)) = true := by
    simpa [modelReady] using h
  have hcmd : adInstallCmd host s = endCmd 0x850 E.adapterInvalid s := by simp [adInstallCmd, firstFail, hv, hinvalid]
  rw [hcmd]
  exact ⟨live_endCmd_code (by decide) .., rfl⟩

variable (hslot : (adapterAt s (liveF s pWl 0x830 9 0)).st = .free) (hready : modelState s (liveF s pWl 0x834 5 0) = 2)
include hslot hready

theorem adInstallCmd_fails {c : Code} (h : adapterImage (liveF s pWl 0x834 5 0) host s = (.error c, u)) : adInstallCmd host s = endCmd 0x850 c u := by
  simp [adInstallCmd, firstFail, hv, hslot, modelReady, hready, h]

theorem adInstallCmd_begins {g : GristImg} (h : adapterImage (liveF s pWl 0x834 5 0) host s = (.ok g, u)) :
    adInstallCmd host s = adapterBegins (liveF s pWl 0x830 9 0) (liveF s pWl 0x834 31 16) (liveF s pWl 0x834 5 0) g u := by
  simp only [adInstallCmd, firstFail, beq_eq_false_iff_ne.2 hv, hslot, modelReady, hready, h, bne_self_eq_false, beq_self_eq_true, Bool.not_true,
    Bool.or_false, Bool.false_eq_true, if_false]
  rfl

end

/-- A slot that is filled is INSTALLING with its image's place, the others stay, and the command reads BUSY. -/
theorem adapterBegins_state (k v m : Nat) (g : GristImg) (s : State) {t : State} (ht : t = adapterBegins k v m g s) :
    live t pWl 0x850 = 0x40000000 ∧ t.weights.adSlot = k ∧ adapterAt t k = slotOf v m g s ∧ (∀ j, j ≠ k → adapterAt t j = adapterAt s j) ∧
      ∃ i, t.weights.adInst = some i ∧ i.model = m ∧ i.img = g ∧ i.phase = .query ∧ i.todo = unitsOfImg g := by
  have hweights : t.weights = { (slotFilled k v m g s).weights with adInst := some (adapterInst m g (slotFilled k v m g s)) } := by
    rw [ht]
    exact weights_startInst ..
  have hslot : ∀ j, adapterAt t j = adapterAt (slotFilled k v m g s) j := adapterAt_congr (by rw [hweights])
  refine ⟨?_, by rw [hweights]; rfl, ?_, fun j hj => ?_, ⟨_, by rw [hweights], rfl, rfl, rfl, rfl⟩⟩
  · rw [ht]
    exact (live_startInst (by decide) (by decide) (by decide) ..).trans (live_slotFilled ..)
  · rw [hslot, adapterAt_slotFilled, if_pos rfl]
  · rw [hslot, adapterAt_slotFilled, if_neg hj.symm]

/-! ### AD_RETIRE (R278) -/

section
variable {s : State}

theorem adRetireCmd_ready (h : (adapterAt s (liveF s pWl 0x830 9 0)).st = .ready) : adRetireCmd s =
    endCmd 0x850 0 (setAdapter (liveF s pWl 0x830 9 0) { adapterAt s (liveF s pWl 0x830 9 0) with st := .retiring } s) := if_pos h

theorem adRetireCmd_invalid (h : (adapterAt s (liveF s pWl 0x830 9 0)).st ≠ .ready) : adRetireCmd s = endCmd 0x850 E.adapterInvalid s := if_neg h

theorem adRetireCmd_others {j : Nat} (hj : j ≠ liveF s pWl 0x830 9 0) : adapterAt (adRetireCmd s) j = adapterAt s j := by
  by_cases h : (adapterAt s (liveF s pWl 0x830 9 0)).st = .ready
  · rw [adRetireCmd_ready h]
    exact (adapterAt_setAdapter ..).trans (if_neg hj.symm)
  · rw [adRetireCmd_invalid h]
    rfl

end

/-! ### ADAPTER_SLOT_FREE (R278) -/

theorem adapterAt_pxDetachAll (p : PxEntry → Bool) (s : State) (k : Nat) : adapterAt (pxDetachAll p s) k = adapterAt s k :=
  adapterAt_congr (congrArg (fun s => s.weights.adapters) (offPrefix_pxDetachAll p s) :) k

/-- A RETIRING slot that no stream refers to is FREE, and the others stay. -/
theorem adapterFree_frees {k : Nat} {s : State} (hmode : s.beat.mode = .locked) (hst : (adapterAt s k).st = .retiring) (hrefs : (adapterAt s k).refs = 0) :
    (adapterAt (adapterFree k s) k).st = .free ∧ ∀ j, j ≠ k → adapterAt (adapterFree k s) j = adapterAt s j := by
  rw [adapterFree, if_pos ⟨hmode, hst, hrefs⟩]
  refine ⟨?_, fun j hj => ?_⟩
  · rw [adapterAt_pxDetachAll, adapterAt_setAdapter, if_pos rfl]
    rfl
  · rw [adapterAt_pxDetachAll, adapterAt_setAdapter, if_neg hj.symm]

theorem adapterFree_stays {k : Nat} {s : State} (h : (adapterAt s k).st ≠ .retiring ∨ (adapterAt s k).refs ≠ 0) : adapterFree k s = s :=
  if_neg fun ⟨_, hst, hrefs⟩ => h.elim (· hst) (· hrefs)

/-- Settles O31: each command and the tick's release of a slot end as stated of them above. -/
theorem adapterSlotsLive : Obligations.AdapterSlotsLive := by
  unfold Obligations.AdapterSlotsLive
  intro s ma host k v m free failed s1 hreach
  refine ⟨fun hfree => ?_, fun hbusy => ?_, fun hbusy => ⟨_, exec_adRetire_busy hreach hbusy, weights_recordErrAny .., errValid_recordErr ..⟩,
    fun hbusy hstops => ⟨_, exec_adRetire hreach hbusy hstops, fun hready => ?_, fun hst => ?_, fun j hj => adRetireCmd_others hj⟩,
    fun n hmode hst hrefs => ⟨_, rfl, adapterFree_frees hmode hst hrefs⟩, fun n h => ⟨_, rfl, adapterFree_stays h⟩⟩
  · obtain ⟨a, ha⟩ := takeAdAsked_eq s
    have hexec := exec_adInstall (host := host) hreach hfree
    rw [ha] at hexec
    refine ⟨_, hexec, fun hv => adInstallCmd_reserved hv, fun hv hinvalid => adInstallCmd_invalid hv hinvalid, fun hv hslot hready => ?_⟩
    · have hs1 : s1 = { s with weights := { s.weights with adAsked := a } } := ha
      rw [hs1]
      split
      · rename_i c u himage
        exact adInstallCmd_fails (s := { s with weights := { s.weights with adAsked := a } }) hv hslot hready himage
      · rename_i g u himage
        exact adapterBegins_state _ _ _ _ _
          (adInstallCmd_begins (s := { s with weights := { s.weights with adAsked := a } }) hv hslot hready himage)
  · obtain ⟨hasked, hbusy⟩ := not_or.1 hbusy
    refine ⟨_, exec_adInstall_busy hreach (by simpa using hasked) ?_, weights_recordErrAny .., errValid_recordErr ..⟩
    by_contra h
    exact hbusy (by simpa using h)
  · rw [adRetireCmd_ready hready]
    exact ⟨(adapterAt_setAdapter ..).trans (if_pos rfl), live_endCmd_done ..⟩
  · rw [adRetireCmd_invalid hst]
    exact ⟨live_endCmd_code (by decide) .., rfl⟩

end Sys2Proof.Machine
end

section
/-! SUPPORT. What image reads, unit writes and failed installs leave as they were (R220, R264, R272, R362). -/

namespace Sys2Proof.Machine

open Sys2Proof

/-! ### Reads of host memory (R360, R362) -/

theorem weights_hostFail (c : Code) (req off : Nat) (s : State) : (hostFail c req off s).weights = s.weights := by
  unfold hostFail
  dsimp only
  rw [weights_recordErrAny]
  split <;> rfl

theorem weights_askLines (req off a : Nat) (mem : HostMem) (l : List (Nat × Nat)) (s : State) : (askLines req off a mem l s).weights = s.weights := by
  refine foldl_same (g := State.weights) (fun s e => ?_) ..
  dsimp only
  split
  · rfl
  · exact (weights_hostFail ..).trans rfl

theorem weights_readHost (req o len : Nat) (mem : HostMem) (s : State) : (readHost req o len mem s).2.weights = s.weights := by
  unfold readHost
  split
  · rfl
  · split
    · exact weights_hostFail ..
    · rfl
    · split
      · dsimp only
        split
        · exact weights_askLines ..
        · exact weights_askLines ..
      · exact weights_hostFail ..

theorem weights_readImage (o len : Nat) (mem : HostMem) (s : State) : (readImage o len mem s).2.weights = s.weights := by
  have h := weights_readHost 4 o len mem s
  unfold readImage
  split
  · rename_i hread
    rwa [hread] at h
  · rename_i hread
    rwa [hread] at h

/-! ### Writes to the cores (R264) -/

theorem weights_putCore (c a : Nat) (l : List Byte) (s : State) : (putCore c a l s).weights = s.weights := by
  unfold putCore
  split
  · rfl
  · exact (congrArg State.weights (sansRecords_hdOutsideWrite ..) :)

/-- Bytes written to a core are read there (R264). -/
theorem readMem_putCore (c a : Nat) (l : List Byte) (s : State) : readMem (putCore c a l s) (coreAddr c a) l.length = l := by
  unfold putCore
  split
  · rename_i h
    rw [List.isEmpty_iff.1 h]
    rfl
  · exact (readMem_of_written (mem_of_sansRecords (sansRecords_hdOutsideWrite ..))).1

/-! ### A failed install leaves its ranges undefined (R264) -/

theorem weights_freshBytes (n : Nat) (s : State) : (freshBytes n s).2.weights = s.weights := by
  induction n generalizing s with
  | zero => rfl
  | succ n ih => exact (ih _).trans rfl

theorem weights_openCore (c a len : Nat) (s : State) : (openCore c a len s).weights = s.weights := by
  unfold openCore
  split
  · rfl
  · exact weights_freshBytes ..

theorem weights_openStack (n off len : Nat) (s : State) : (openStack n off len s).weights = s.weights := by
  unfold openStack
  split
  · rfl
  · split
    · rfl
    · exact (foldl_same (g := State.weights) (fun _ _ => by rfl) ..).trans (weights_freshBytes ..)

theorem weights_openUnit (p : Placed) (staged : Bool) (r : GRange) (u : Nat) (s : State) : (openUnit p staged r u s).weights = s.weights := by
  have hcore : (if staged then s else match coreUnit p r u with
      | some e => openCore e.1 e.2 (unitLen r u) s
      | none => s).weights = s.weights := by
    split
    · rfl
    · split
      · exact weights_openCore ..
      · rfl
  unfold openUnit
  dsimp only
  by_cases hlen : unitLen r u = 0
  · rw [if_pos hlen]
  · rw [if_neg hlen]
    by_cases hkind : r.kind = 0
    · rw [if_pos hkind]
      by_cases hmirror : r.stageStack = 0xFF
      · rw [if_pos hmirror]
        exact hcore
      · rw [if_neg hmirror]
        exact (weights_openStack ..).trans hcore
    · rw [if_neg hkind]
      exact weights_openStack ..

theorem weights_openRanges (i : Inst) (s : State) : (openRanges i s).weights = s.weights := by
  unfold openRanges
  split
  · rfl
  · exact foldl_same (g := State.weights) (fun _ _ => weights_openUnit ..) ..

theorem weights_sendFetches (who : Nat) (i : Inst) (l r u len : Nat) (s : State) : (sendFetches who i l r u len s).weights = s.weights :=
  foldl_same (g := State.weights) (fun _ _ => weights_sendSvc ..) ..

end Sys2Proof.Machine
end

section
/-! Epochs are installed, released, switched and drained (R263, R264, R268, R270 to R273, R280, R281). -/

namespace Sys2Proof.Machine

open Sys2Proof

/-! ### INSTALL (R263, R264) -/

/-- The install of an image of model m as epoch e, as it begins. -/
def epochInst (m e : Nat) (staged : Bool) (g : GristImg) (s : State) : Inst :=
  { model := m, epoch := e, tenant := modelTenant s m, staged := staged || mirrorsOnly s m, img := g, phase := .query, held := [], peer := none,
    todo := unitsOfImg g, cur := none, bytes := 0, hostUnits := 0 }

section
variable {host : HostMem} {s u : State}

theorem installCmd_notReady (h : modelState s (wlF s 5 0) ≠ 2) :
    live (installCmd host s) pWl 0x820 = BitVec.ofNat 32 (2 ^ 31 + 2 ^ 30 + E.modelInvalid.toNat) ∧ (installCmd host s).weights.inst = s.weights.inst := by
  have hcmd : installCmd host s = endCmd 0x820 E.modelInvalid s := by simp [installCmd, firstFail, modelReady, h]
  rw [hcmd]
  exact ⟨live_endCmd_code (by decide) .., rfl⟩

variable (hready : modelState s (wlF s 5 0) = 2)
include hready

theorem installCmd_epochBusy (h : pageLocked s pWl = true ∨ epochSt s (wlF s 5 0) (wlF s 6 6) ≠ 0) :
    live (installCmd host s) pWl 0x820 = BitVec.ofNat 32 (2 ^ 31 + 2 ^ 30 + E.epochBusy.toNat) ∧ (installCmd host s).weights.inst = s.weights.inst := by
  have hbusy : (wlLocked s || epochSt s (wlF s 5 0) (wlF s 6 6) != 0) = true := by simpa [wlLocked] using h
  have hcmd : installCmd host s = endCmd 0x820 E.epochBusy s := by simp [installCmd, firstFail, modelReady, hready, hbusy]
  rw [hcmd]
  exact ⟨live_endCmd_code (by decide) .., rfl⟩

variable (hlocked : pageLocked s pWl = false) (hepoch : epochSt s (wlF s 5 0) (wlF s 6 6) = 0)
include hlocked hepoch

theorem installCmd_stagedStreamed (hstaged : wlF s 7 7 = 1) (hstr : streamed s (wlF s 5 0) = true) :
    live (installCmd host s) pWl 0x820 = BitVec.ofNat 32 (2 ^ 31 + 2 ^ 30 + E.gristMismatch.toNat) := by
  have hcmd : installCmd host s = endCmd 0x820 E.gristMismatch s := by
    simp [installCmd, firstFail, modelReady, wlLocked, hready, hlocked, hepoch, hstaged, hstr]
  rw [hcmd, live_endCmd_code (by decide)]

variable (hstaged : ¬ (wlF s 7 7 = 1 ∧ streamed s (wlF s 5 0) = true))
include hstaged

/-- An INSTALL that passes its first checks is judged by its image. -/
theorem installCmd_judged : installCmd host s = match installImage (wlF s 5 0) (wlF s 6 6) (wlF s 7 7 == 1) host s with
    | (.error c, u) => endCmd 0x820 c u
    | (.ok g, u) => installBegins (epochInst (wlF s 5 0) (wlF s 6 6) (wlF s 7 7 == 1) g u) (setCmdResult 0x820 1 0 u) := by
  have hpass : (wlF s 7 7 == 1 && streamed s (wlF s 5 0)) = false := by simpa using hstaged
  simp only [installCmd, firstFail, modelReady, wlLocked, hready, hlocked, hepoch, hpass, beq_self_eq_true, bne_self_eq_false, Bool.not_true,
    Bool.or_self, Bool.false_eq_true, if_false]
  rfl

theorem installCmd_fails {c : Code} (h : installImage (wlF s 5 0) (wlF s 6 6) (wlF s 7 7 == 1) host s = (.error c, u)) :
    installCmd host s = endCmd 0x820 c u := by
  rw [installCmd_judged hready hlocked hepoch hstaged, h]

theorem installCmd_begins {g : GristImg} (h : installImage (wlF s 5 0) (wlF s 6 6) (wlF s 7 7 == 1) host s = (.ok g, u)) :
    installCmd host s = installBegins (epochInst (wlF s 5 0) (wlF s 6 6) (wlF s 7 7 == 1) g u) (setCmdResult 0x820 1 0 u) := by
  rw [installCmd_judged hready hlocked hepoch hstaged, h]

end

/-- An epoch whose install begins is INSTALLING, and the command's result stays. -/
theorem installBegins_registers {i : Inst} (hm : i.model < 64) (s : State) :
    epochSt (installBegins i s) i.model i.epoch = 1 ∧ live (installBegins i s) pWl 0x820 = live s pWl 0x820 := by
  constructor
  · rw [installBegins, epochSt_congr (live_startInst (by omega) (by omega) (by omega) ..), epochSt_setEpochSt_same (by decide)]
  · rw [installBegins, live_startInst (by decide) (by decide) (by decide), setEpochSt, setLiveF, live_setLive_off _ _ (by omega) (by decide) (by omega)]
    rfl

/-- After an INSTALL that passes, its epoch is INSTALLING, the command BUSY and its install begins with the queries. -/
theorem installCmd_installs {m e : Nat} {staged : Bool} {g : GristImg} {u t : State} (hm : m < 64)
    (ht : t = installBegins (epochInst m e staged g u) (setCmdResult 0x820 1 0 u)) : epochSt t m e = 1 ∧ live t pWl 0x820 = 0x40000000 ∧
      ∃ i, t.weights.inst = some i ∧ i.model = m ∧ i.epoch = e ∧ i.img = g ∧ i.phase = .query ∧ i.held = [] ∧ i.todo = unitsOfImg g := by
  obtain ⟨hinstalling, hres⟩ := installBegins_registers (i := epochInst m e staged g u) hm (setCmdResult 0x820 1 0 u)
  rw [ht]
  exact ⟨hinstalling, hres.trans (live_setLive_same ..), _, (installBegins_weights ..).1, rfl, rfl, rfl, rfl, rfl, rfl⟩

/-! ### Units in turn (R264) -/

/-- A digest unit that is asked of a peer, or of the host. -/
def unitAsked (g : GristImg) (q : Nat × Nat) (host : Bool) : UnitIn := ⟨q.1, q.2, unitLen (rangeOf g q.1) q.2, [], host⟩

section
variable {who : Nat} {i : Inst} {s : State} (hi : instAt s who = some i)
include hi

theorem beginUnit_last (htodo : i.todo = []) : beginUnit who s = instEnds who 0 s := by
  simp only [beginUnit, hi, htodo]

variable {q : Nat × Nat} {l : List (Nat × Nat)} (htodo : i.todo = q :: l)
include htodo

theorem beginUnit_host (hpeer : i.peer = none) : beginUnit who s = putInst who { i with cur := some (unitAsked i.img q true) } s := by
  simp only [beginUnit, hi, htodo, hpeer]
  rfl

theorem beginUnit_peer {k : Nat} (hpeer : i.peer = some k) (hup : (svcLinks s).contains k = true) : beginUnit who s =
    sendFetches who i k q.1 q.2 (unitLen (rangeOf i.img q.1) q.2) (putInst who { i with cur := some (unitAsked i.img q false) } s) := by
  simp only [beginUnit, hi, htodo, hpeer, hup, if_true]
  rfl

end

theorem svcLinks_putInst (who : Nat) (i : Inst) (s : State) : svcLinks (putInst who i s) = svcLinks s := by
  have hjoined : joined (putInst who i s) = joined s := by
    rw [joined, joined, liveF, liveF, live_putInst (by decide) (by decide) (by decide)]
  have hlinks : (putInst who i s).links = s.links := by
    unfold putInst
    dsimp only
    split <;> rfl
  simp only [svcLinks, hjoined, linkUp, linkAt, hlinks]

/-- An install whose queries have had their time, with the peer that its payload comes from. -/
def queriesOver (peer : Option Nat) (i : Inst) : Inst := { i with phase := .units, peer := peer }

theorem queryTimeout_begins {who : Nat} {i : Inst} {s : State} (hi : instAt s who = some i) (hphase : i.phase = .query) :
    queryTimeout who s = beginUnit who (putInst who (queriesOver (i.held.find? (svcLinks s).contains) i) s) := by
  simp only [queryTimeout, hi, hphase, ne_eq, not_true_eq_false, if_false]
  rfl

section
variable {who : Nat} {i : Inst} {q : Nat × Nat} {l : List (Nat × Nat)} {s : State} (hi : instAt s who = some i)
  (hphase : i.phase = .query) (htodo : i.todo = q :: l)
include hi hphase htodo

/-- The queries having had their time, the payload comes from the host where no peer has answered. -/
theorem queryTimeout_host (hheld : i.held.find? (svcLinks s).contains = none) :
    instAt (queryTimeout who s) who = some { i with phase := .units, peer := none, cur := some (unitAsked i.img q true) } := by
  have hinst := instAt_putInst_same who (queriesOver none i) s
  rw [queryTimeout_begins hi hphase, hheld, beginUnit_host hinst htodo rfl, instAt_putInst_same]
  rfl

/-- It comes from the answering peer on the lowest link otherwise. -/
theorem queryTimeout_peer {k : Nat} (hheld : i.held.find? (svcLinks s).contains = some k) :
    instAt (queryTimeout who s) who = some { i with phase := .units, peer := some k, cur := some (unitAsked i.img q false) } := by
  have hinst := instAt_putInst_same who (queriesOver (some k) i) s
  have hup : (svcLinks (putInst who (queriesOver (some k) i) s)).contains k = true := by
    rw [svcLinks_putInst]
    exact List.find?_some hheld
  rw [queryTimeout_begins hi hphase, hheld, beginUnit_peer hinst htodo rfl hup, instAt_congr (weights_sendFetches ..), instAt_putInst_same]
  rfl

end

/-! ### A unit arrives (R264) -/

/-- The bytes that a peer has sent of a unit. -/
def peerBytes (i : Inst) (u : UnitIn) : List Byte := (List.range (unitLen (rangeOf i.img u.range) u.unit)).map (mget 0 u.got)

section
variable {host : HostMem} {i : Inst} {u : UnitIn} {s : State} (hi : s.weights.inst = some i) (hrun : (modelAt s i.model).suspended = false)
  (hcur : i.cur = some u)
include hi hrun hcur

section
variable (hpeer : u.host = false) (hleft : u.left = 0)
include hpeer hleft

theorem unitArrives_bad (hbad : sha256 (peerBytes i u) ≠ (i.img.digests.getD u.range []).getD u.unit []) :
    (unitArrives 0 host s).weights.inst = some { i with cur := some { u with host := true } } := by
  have hinst : instAt s 0 = some i := hi
  have hgood : unitGood i.img u.range u.unit (peerBytes i u) = false := decide_eq_false hbad
  rw [peerBytes] at hgood
  simp only [unitArrives, hinst, hrun, hcur, hpeer, hleft, hgood, Bool.false_eq_true, and_false, if_false, ne_eq, not_true_eq_false]
  rfl

theorem unitArrives_good (hgood : sha256 (peerBytes i u) = (i.img.digests.getD u.range []).getD u.unit []) :
    unitArrives 0 host s = unitWritten 0 i u (peerBytes i u) s := by
  have hinst : instAt s 0 = some i := hi
  have hgood : unitGood i.img u.range u.unit (peerBytes i u) = true := decide_eq_true hgood
  rw [peerBytes] at hgood ⊢
  simp only [unitArrives, hinst, hrun, hcur, hpeer, hleft, hgood, Bool.false_eq_true, and_false, if_false, if_true, ne_eq, not_true_eq_false]

end

theorem unitArrives_hostBad {ct : List Byte} {v : State} (hhost : u.host = true)
    (hread : readImage (i.img.addr + envHdr + unitPos (rangeOf i.img u.range) u.unit) (unitLen (rangeOf i.img u.range) u.unit) host s = (.ok ct, v))
    (hbad : sha256 (hostUnit v i.tenant i.img (rangeOf i.img u.range) u.unit ct) ≠ (i.img.digests.getD u.range []).getD u.unit []) :
    unitArrives 0 host s = instEnds 0 E.gristDigestFail v := by
  have hinst : instAt s 0 = some i := hi
  have hgood : unitGood i.img u.range u.unit (hostUnit v i.tenant i.img (rangeOf i.img u.range) u.unit ct) = false := decide_eq_false hbad
  simp only [unitArrives, hinst, hrun, hcur, hhost, Bool.false_eq_true, and_false, if_false, if_true, hostUnitArrives, hread, hgood]

end

/-- An install with one more unit written. -/
def unitDone (i : Inst) (u : UnitIn) (n : Nat) : Inst :=
  { i with todo := i.todo.drop 1, cur := none, bytes := i.bytes + n, hostUnits := i.hostUnits + b2n u.host }

/-- A unit of a core range goes into its core, and the next begins. -/
theorem unitWritten_core {i : Inst} {u : UnitIn} {l : List Byte} {p : Placed} {k a : Nat} {s : State} (hplace : gristPlace s i.model = some p)
    (hkind : (rangeOf i.img u.range).kind = 0) (hstaged : i.staged = false) (hmirror : (rangeOf i.img u.range).stageStack = 0xFF)
    (hcore : coreUnit p (rangeOf i.img u.range) u.unit = some (k, a)) :
    unitWritten 0 i u l s = beginUnit 0 (putInst 0 (unitDone i u l.length) (putCore k a l s)) := by
  have hput : putUnit p i.staged (rangeOf i.img u.range) u.unit l s = (none, putCore k a l s) := by
    simp only [putUnit, hkind, hstaged, hmirror, hcore, if_true, true_or, Bool.false_eq_true, if_false]
  simp only [unitWritten, hplace, hput]
  rfl

/-! ### How the install of a model ends (R264) -/

/-- The install of a model that no LOAD began is over: the epoch is READY. -/
theorem instEnds_ready {i : Inst} {s : State} (hi : s.weights.inst = some i) (hload : s.weights.load = none) (hm : i.model < 64) :
    (instEnds 0 0 s).weights.inst = none ∧ epochSt (instEnds 0 0 s) i.model i.epoch = 2 ∧ live (instEnds 0 0 s) pWl 0x820 = 0x80000000 := by
  have hinst : instAt s 0 = some i := hi
  have hend : instEnds 0 0 s = endCmd 0x820 0 (setStaged i.model i.epoch
      (i.staged && !streamed (setInst 0 none s) i.model) (setEpochSt i.model i.epoch 2 (setInst 0 none s))) := by
    have hnone : (setInst 0 none s).weights.load = none := hload
    simp only [instEnds, hinst, ne_eq, not_true_eq_false, false_and, if_false, if_true, modelInstEnds, hnone]
  rw [hend]
  exact ⟨rfl, by rw [epochSt_endCmd hm (by decide) (by decide), epochSt_setStaged, epochSt_setEpochSt_same (by decide)], live_endCmd_done ..⟩

/-- One that fails leaves the epoch EMPTY, and the command ends with the code. -/
theorem instEnds_fails {i : Inst} {c : Code} {s : State} (hc : c ≠ 0) (hi : s.weights.inst = some i) (hload : s.weights.load = none) (hm : i.model < 64) :
    (instEnds 0 c s).weights.inst = none ∧ live (instEnds 0 c s) pWl 0x820 = BitVec.ofNat 32 (2 ^ 31 + 2 ^ 30 + c.toNat) ∧
      epochSt (instEnds 0 c s) i.model i.epoch = 0 := by
  have hinst : instAt s 0 = some i := hi
  have hend : instEnds 0 c s = endCmd 0x820 c (epochEmpty i.model i.epoch (setInst 0 none (openRanges i s))) := by
    have hnone : (setInst 0 none (openRanges i s)).weights.load = none := (congrArg Weights.load (weights_openRanges i s)).trans hload
    simp only [instEnds, hinst, ne_eq, hc, not_false_eq_true, true_and, Nat.zero_lt_two, if_true, if_false, modelInstEnds, hnone]
  rw [hend]
  refine ⟨?_, live_endCmd_code hc .., by rw [epochSt_endCmd hm (by decide) (by decide), epochSt_epochEmpty_same]⟩
  have hprefix := offPrefix_epochEmpty i.model i.epoch (setInst 0 none (openRanges i s))
  exact (congrArg (fun s => s.weights.inst) hprefix :)

/-- The end of a unit changes no store. -/
theorem mem_beginUnit_host {i : Inst} {s : State} (hi : s.weights.inst = some i) (hpeer : i.peer = none) : (beginUnit 0 s).mem = s.mem := by
  have hinst : instAt s 0 = some i := hi
  cases htodo : i.todo with
  | nil =>
    rw [beginUnit_last hinst htodo]
    simp only [instEnds, hinst, ne_eq, not_true_eq_false, false_and, if_false, if_true, modelInstEnds]
    split <;> rfl
  | cons q l =>
    rw [beginUnit_host hinst htodo hpeer]
    rfl

/-- An install with the units still to be verified and the bytes verified, between two units. -/
def betweenUnits (r : List (Nat × Nat)) (n : Nat) (i : Inst) : Inst := { i with todo := r, cur := none, bytes := n }

theorem unitDone_peer {i : Inst} {u : UnitIn} {q : Nat × Nat} {r : List (Nat × Nat)} {n : Nat} (htodo : i.todo = q :: r) (hpeer : u.host = false) :
    unitDone i u n = betweenUnits r (i.bytes + n) i := by
  rw [unitDone, htodo, hpeer]
  rfl

/-- After a unit's write its bytes are in the core, and the next unit waits for the host or the install is over. -/
theorem unitWritten_state {i : Inst} {r : List (Nat × Nat)} {n k a : Nat} {l : List Byte} {s t : State} (hpeer : i.peer = none)
    (ht : t = beginUnit 0 (putInst 0 (betweenUnits r n i) (putCore k a l s))) : readMem t (coreAddr k a) l.length = l ∧
      (∀ q r', r = q :: r' → t.weights.inst = some { i with todo := r, bytes := n, cur := some (unitAsked i.img q true) }) ∧
      (r = [] → s.weights.load = none → i.model < 64 → i.epoch < 2 →
        t.weights.inst = none ∧ epochSt t i.model i.epoch = 2 ∧ live t pWl 0x820 = 0x80000000) := by
  have hinst : instAt (putInst 0 (betweenUnits r n i) (putCore k a l s)) 0 = some (betweenUnits r n i) := instAt_putInst_same ..
  have hmem : t.mem = (putCore k a l s).mem := by
    rw [ht]
    exact (mem_beginUnit_host hinst hpeer).trans rfl
  have hload : (putInst 0 (betweenUnits r n i) (putCore k a l s)).weights.load = (putCore k a l s).weights.load := rfl
  refine ⟨(readMem_congr hmem ..).trans (readMem_putCore ..), fun q r' hr => ?_, fun hr hnone hm _ => ?_⟩
  · rw [ht, beginUnit_host hinst hr hpeer]
    exact instAt_putInst_same 0 ..
  · rw [ht, beginUnit_last hinst hr]
    rw [weights_putCore, hnone] at hload
    exact instEnds_ready (i := betweenUnits r n i) hinst hload hm

/-! ### RELEASE (R273) -/

section
variable {s : State}

theorem releaseCmd_empty (h : modelState s (wlF s 5 0) = 0) :
    live (releaseCmd s) pWl 0x820 = BitVec.ofNat 32 (2 ^ 31 + 2 ^ 30 + E.modelInvalid.toNat) := by
  have hcmd : releaseCmd s = endCmd 0x820 E.modelInvalid s := by simp [releaseCmd, firstFail, h]
  rw [hcmd, live_endCmd_code (by decide)]

variable (hmodel : modelState s (wlF s 5 0) ≠ 0)
include hmodel

theorem releaseCmd_busy (h : pageLocked s pWl = true ∨ epochSt s (wlF s 5 0) (wlF s 6 6) ≠ 2) :
    live (releaseCmd s) pWl 0x820 = BitVec.ofNat 32 (2 ^ 31 + 2 ^ 30 + E.epochBusy.toNat) := by
  have hbusy : (wlLocked s || epochSt s (wlF s 5 0) (wlF s 6 6) != 2) = true := by simpa [wlLocked] using h
  have hcmd : releaseCmd s = endCmd 0x820 E.epochBusy s := by simp [releaseCmd, firstFail, hmodel, hbusy]
  rw [hcmd, live_endCmd_code (by decide)]

/-- A released epoch is EMPTY without a manifest, and the command is done. -/
theorem releaseCmd_releases (hlocked : pageLocked s pWl = false) (hepoch : epochSt s (wlF s 5 0) (wlF s 6 6) = 2) :
    epochSt (releaseCmd s) (wlF s 5 0) (wlF s 6 6) = 0 ∧ epImg (modelAt (releaseCmd s) (wlF s 5 0)) (wlF s 6 6) = none ∧
      live (releaseCmd s) pWl 0x820 = 0x80000000 := by
  have hm : wlF s 5 0 < 64 := bits_lt ..
  have hcmd : releaseCmd s = endCmd 0x820 0 (epochEmpty (wlF s 5 0) (wlF s 6 6) s) := by
    simp [releaseCmd, firstFail, hmodel, wlLocked, hlocked, hepoch]
  rw [hcmd]
  exact ⟨by rw [epochSt_endCmd hm (by decide) (by decide), epochSt_epochEmpty_same], epImg_epochEmpty (wlF s 5 0) (wlF s 6 6) s, live_endCmd_done ..⟩

end

/-! ### Switches (R271, R272) -/

theorem drainRelease_releases {m e : Nat} {s : State} (hmode : s.beat.mode = .locked) (hst : epochSt s m e = 4) (htally : inflight s m e = 0)
    (hswitch : (modelAt s m).switching = none) : drainRelease m e s = epochEmpty m e s := if_pos ⟨hmode, hst, htally, by rw [hswitch]; rfl⟩

theorem drainRelease_stays {m e : Nat} {s : State} (h : epochSt s m e ≠ 4 ∨ inflight s m e ≠ 0 ∨ (modelAt s m).switching ≠ none) :
    drainRelease m e s = s :=
  if_neg fun ⟨_, hst, htally, hswitch⟩ => h.elim (· hst) (·.elim (· htally) (· (Option.isNone_iff_eq_none.1 hswitch)))

/-- Every mirror of the target of a staged switch is copied. -/
def switchCopied (m d : Nat) (s : State) : State := updModel m (fun x => { x with switching := some ⟨d, .done⟩ }) s

theorem mem_switchCopied (m d : Nat) (s : State) : (switchCopied m d s).mem = s.mem := rfl

/-- The old epoch's tally being 0, the one mirror of the target goes into its core. -/
theorem stagedCopy_one {m d c a : Nat} {p : Placed} {g : GristImg} {q : Nat × Nat} {l : List Byte} {s v : State}
    (hswitch : (modelAt s m).switching = some ⟨d, .draining⟩) (hplace : (modelAt s m).place = some p) (htally : inflight s m (1 - d) = 0)
    (hrun : (modelAt s m).suspended = false) (himg : epImg (modelAt s m) d = some g) (hmode : s.beat.mode = .locked)
    (hunits : (unitsOfImg g).filter (fun y => (rangeOf g y.1).kind == 0) = [q])
    (hread : stackRead (rangeOf g q.1).stageStack ((rangeOf g q.1).stageOff + q.2 * (rangeOf g q.1).len) (rangeOf g q.1).len true [] s = (.ok l, v))
    (hcore : coreUnit p (rangeOf g q.1) q.2 = some (c, a)) : stagedCopy m [] [] s = switchCopied m d (putCore c a l v) := by
  have hcopy : copyUnit p g q [] [] s = (false, putCore c a l v) := by simp only [copyUnit, hread, hcore]
  simp only [stagedCopy, hswitch, hplace, hmode, htally, hrun, himg, hunits, List.foldl_cons, List.foldl_nil, hcopy, ne_eq, not_true_eq_false,
    Bool.false_eq_true, or_self, if_false, List.isEmpty_nil, if_true]
  rfl

theorem stagedCopy_waits {m d : Nat} {chk again : StackCheck} {s : State} (hswitch : (modelAt s m).switching = some ⟨d, .draining⟩)
    (htally : inflight s m (1 - d) ≠ 0) : stagedCopy m chk again s = s := by
  simp only [stagedCopy, hswitch]
  cases (modelAt s m).place with
  | none => rfl
  | some p => exact if_pos (.inr (.inr (.inl htally)))

/-- The target of a staged switch is ACTIVE and the old epoch EMPTY. -/
def switched (m d : Nat) (s : State) : State :=
  updModel m (fun x => { x with switching := none }) (epochEmpty m (1 - d) (setEpochSt m d 3 s))

theorem switched_state {d : Nat} (hd : d < 2) (m : Nat) (s : State) : epochSt (switched m d s) m d = 3 ∧ epochSt (switched m d s) m (1 - d) = 0 ∧
    (modelAt (switched m d s) m).switching = none := by
  have hlive : ∀ e, epochSt (switched m d s) m e = epochSt (epochEmpty m (1 - d) (setEpochSt m d 3 s)) m e := fun _ => rfl
  refine ⟨?_, ?_, congrArg Model.switching (modelAt_updModel_same ..)⟩
  · rw [hlive, epochSt_epochEmpty_other (epLo_other hd).symm, epochSt_setEpochSt_same (by decide)]
  · rw [hlive, epochSt_epochEmpty_same]

/-- Without serving or host, no step is issued with the switch. -/
theorem stagedDone_switches {m d : Nat} {s : State} (hswitch : (modelAt s m).switching = some ⟨d, .done⟩) (hmode : s.beat.mode = .locked)
    (hidle : srvOn (switched m d s) = false ∨ hostReady (switched m d s) = false) : stagedDone m s = switched m d s := by
  have hnone : (srvOn (switched m d s) && hostReady (switched m d s)) = false := by
    obtain h | h := hidle <;> simp [h]
  rw [switched] at hnone ⊢
  simp only [stagedDone, hswitch, hmode, and_self, if_true, hnone, Bool.false_eq_true, if_false]

/-- Settles O30: each command, arrival and tick's work ends as stated of it above. -/
theorem epochsInstallSwitchAndDrain : Obligations.EpochsInstallSwitchAndDrain := by
  unfold Obligations.EpochsInstallSwitchAndDrain
  intro s ma host m e staged free failed s1 hreach
  have hm : m < 64 := bits_lt ..
  refine ⟨fun hfree => ?_, fun who i q l hi hphase htodo hheld => ⟨_, rfl, queryTimeout_host hi hphase htodo hheld⟩,
    fun who i q l k hi hphase htodo hheld => ⟨_, rfl, queryTimeout_peer hi hphase htodo hheld⟩, fun i u hi hrun hcur hpeer hleft => ⟨?_, ?_⟩,
    fun i u ct v hi hrun hcur hhost hread hbad hload hmodel hepoch => ?_, fun hfree => ?_, fun k d hmode hst htally hswitch => ?_,
    fun k d h => ⟨_, rfl, drainRelease_stays h⟩, fun k d p g q c a r v l hswitch hplace htally hrun himg hmode hunits hr hread hcore => ?_,
    fun k d chk again hswitch htally => ⟨_, rfl, stagedCopy_waits hswitch htally⟩, fun k d hswitch hd hmode => ?_⟩
  · obtain ⟨a, ha⟩ := takeAsked_eq 2 s
    have hexec : exec (.install ma host) s = .next (installCmd host (takeAsked 2 s)) :=
      congrArg Host.Outcome.next ((onPage_pWl hreach).trans (wlCommand_acts hfree))
    have hs1 : s1 = { s with weights := { s.weights with asked := a } } := ha
    rw [ha] at hexec
    refine ⟨_, hexec, fun hst => installCmd_notReady hst, fun hst hbusy => installCmd_epochBusy hst hbusy,
      fun hst hopen hep hstaged hstr => installCmd_stagedStreamed hst hopen hep hstaged hstr, fun hst hopen hep hpass => ?_⟩
    rw [hs1]
    split
    · rename_i c u himage
      exact installCmd_fails (s := { s with weights := { s.weights with asked := a } }) hst hopen hep hpass himage
    · rename_i g u himage
      exact installCmd_installs hm (installCmd_begins (s := { s with weights := { s.weights with asked := a } }) hst hopen hep hpass himage)
  · exact fun hbad => ⟨_, rfl, unitArrives_bad hi hrun hcur hpeer hleft hbad⟩
  · intro q r k a p hgood htodo hplace hkind hstaged hmirror hcore hnopeer
    refine ⟨_, rfl, ?_⟩
    rw [unitArrives_good hi hrun hcur hpeer hleft hgood, unitWritten_core hplace hkind hstaged hmirror hcore, unitDone_peer htodo hpeer]
    exact unitWritten_state hnopeer rfl
  · have hweights := weights_readImage (i.img.addr + envHdr + unitPos (rangeOf i.img u.range) u.unit) (unitLen (rangeOf i.img u.range) u.unit) host s
    rw [hread] at hweights
    exact ⟨_, congrArg Host.Outcome.next (unitArrives_hostBad hi hrun hcur hhost hread hbad),
      instEnds_fails (by decide) ((congrArg Weights.inst hweights).trans hi) ((congrArg Weights.load hweights).trans hload) hmodel⟩
  · obtain ⟨a, ha⟩ := takeAsked_eq 3 s
    have hexec : exec (.release ma) s = .next (releaseCmd (takeAsked 3 s)) :=
      congrArg Host.Outcome.next ((onPage_pWl hreach).trans (wlCommand_acts hfree))
    rw [ha] at hexec
    exact ⟨_, hexec, fun hst => releaseCmd_empty hst, fun hst hbusy => releaseCmd_busy hst hbusy,
      fun hst hopen hep => releaseCmd_releases hst hopen hep⟩
  · exact ⟨_, congrArg Host.Outcome.next (drainRelease_releases hmode hst htally hswitch), epochSt_epochEmpty_same .., epImg_epochEmpty ..⟩
  · subst hr
    exact ⟨_, congrArg Host.Outcome.next (stagedCopy_one hswitch hplace htally hrun himg hmode hunits hread hcore),
      (readMem_congr (mem_switchCopied ..) ..).trans (readMem_putCore ..), congrArg Model.switching (modelAt_updModel_same ..)⟩
  · obtain ⟨hactive, hempty, hnone⟩ := switched_state hd k.val s
    exact ⟨_, _, rfl, hactive, hempty, hnone, fun hidle => stagedDone_switches hswitch hmode hidle⟩

end Sys2Proof.Machine
end

section
/-! SUPPORT. Messages of a chain link: how one is taken from its buffer, and what the floor carries for it (R375, R376, R391). -/

namespace Sys2Proof.Machine

open Sys2Proof

/-! ### What sending on links leaves (R376) -/

theorem eq_of_offLinks {s t : State} (h : offLinks t = offLinks s) : t = { s with links := t.links, out := t.out } :=
  congrArg (fun u => { u with links := t.links, out := t.out }) h

theorem linkAt_setLink_same (n : Nat) (x : Link) (s : State) : linkAt (setLink n x s) n = x := mget_mset_same ..

/-- What arrives on a link and from whom. -/
def received (x : Link) : List RxVc × BitVec 14 := (x.rx, x.peerModule)

theorem received_sendFlit (n ty vc : Nat) (body : List Byte) (s : State) :
    received (linkAt (sendFlit n ty vc body s) n) = received (linkAt s n) := by
  unfold sendFlit emit
  exact (congrArg received (linkAt_setLink_same ..)).trans rfl

theorem received_sendCtl (n ty : Nat) (body : List Byte) (s : State) : received (linkAt (sendCtl n ty body s) n) = received (linkAt s n) := by
  unfold sendCtl
  dsimp only
  split
  · rfl
  · split
    · exact received_sendFlit ..
    · exact (congrArg received (linkAt_setLink_same ..)).trans rfl

/-! ### Receive buffers (R375, R376) -/

/-- A link with another receive buffer of a VC. -/
def setRx (vc : Nat) (b : RxVc) (x : Link) : Link := { x with rx := lset x.rx vc b }

theorem rxBuf_setRx_same {vc : Nat} {x : Link} (h : vc < x.rx.length) (b : RxVc) : rxBuf (setRx vc b x) vc = b := by
  rw [rxBuf, setRx, lset, List.getD_eq_getElem?_getD, List.getElem?_set_self h]
  rfl

theorem rxBuf_setRx_ne {vc v : Nat} (h : v ≠ vc) (b : RxVc) (x : Link) : rxBuf (setRx vc b x) v = rxBuf x v := by
  rw [rxBuf, rxBuf, setRx, lset, List.getD_eq_getElem?_getD, List.getElem?_set_ne h.symm, List.getD_eq_getElem?_getD]

theorem length_setRx (vc : Nat) (b : RxVc) (x : Link) : (setRx vc b x).rx.length = x.rx.length := List.length_set ..

theorem rxBuf_congr {x y : Link} (h : received y = received x) (v : Nat) : rxBuf y v = rxBuf x v := by
  have hrx : y.rx = x.rx := congrArg Prod.fst h
  rw [rxBuf, rxBuf, hrx]

/-- The credits of k flits of a VC, as a CREDIT flit carries them. -/
def creditBytes (vc k : Nat) : List Byte := (List.range 4).flatMap fun v => leBytes 2 (if v = vc then k else 0)

/-- A receive buffer whose free flits have all been credited. -/
def credited (b : RxVc) : RxVc := { b with base := rxFree b }

theorem returnCredits_none {n vc : Nat} {s : State} (h : rxFree (rxBuf (linkAt s n) vc) ≤ (rxBuf (linkAt s n) vc).base) : returnCredits n vc s = s :=
  if_pos (Nat.sub_eq_zero_of_le h)

theorem returnCredits_some {n vc : Nat} {s : State} (h : (rxBuf (linkAt s n) vc).base < rxFree (rxBuf (linkAt s n) vc)) : returnCredits n vc s =
    sendCtl n tyCredit (creditBytes vc (rxFree (rxBuf (linkAt s n) vc) - (rxBuf (linkAt s n) vc).base))
      (setLink n (setRx vc (credited (rxBuf (linkAt s n) vc)) (linkAt s n)) s) := if_neg (Nat.sub_ne_zero_of_lt h)

theorem offLinks_returnCredits (n vc : Nat) (s : State) : offLinks (returnCredits n vc s) = offLinks s := by
  obtain h | h := Nat.lt_or_ge (rxBuf (linkAt s n) vc).base (rxFree (rxBuf (linkAt s n) vc))
  · rw [returnCredits_some h, offLinks_sendCtl, offLinks_setLink]
  · rw [returnCredits_none h]

/-- A control flit leaves at once where the link is UP with room and none waits. -/
theorem sendCtl_leaves {n ty : Nat} {body : List Byte} {s : State} (hup : (linkAt s n).st = .up) (hroom : flitRoom (linkAt s n) = true)
    (hidle : (linkAt s n).ctlq = []) : sendCtl n ty body s = sendFlit n ty 0 body s := by
  simp [sendCtl, hup, hroom, hidle]

theorem out_sendFlit (n ty vc : Nat) (body : List Byte) (s : State) : (sendFlit n ty vc body s).out = s.out ++
    [.flit n (sealFlit (dirKey (linkAt s n).keys (linkAt s n).sideA) ty vc (linkAt s n).txSeq body)] := rfl

section
variable {n vc : Nat} {s : State} {r : RxVc} (hvc : vc < (linkAt s n).rx.length)
include hvc

/-- A buffer that is written and credited stands with the credits returned, beside the others as they were. -/
theorem rxBuf_returnCredits : rxBuf (linkAt (returnCredits n vc (setLink n (setRx vc r (linkAt s n)) s)) n) vc =
      { r with base := Nat.max r.base (rxFree r) } ∧
    ∀ v, v ≠ vc → rxBuf (linkAt (returnCredits n vc (setLink n (setRx vc r (linkAt s n)) s)) n) v = rxBuf (linkAt s n) v := by
  have hlink := linkAt_setLink_same n (setRx vc r (linkAt s n)) s
  have hbuf : rxBuf (linkAt (setLink n (setRx vc r (linkAt s n)) s) n) vc = r := by rw [hlink, rxBuf_setRx_same hvc]
  obtain h | h := Nat.lt_or_ge r.base (rxFree r)
  · rw [returnCredits_some (by rw [hbuf]; exact h), hbuf, hlink]
    have hrx := (received_sendCtl n tyCredit (creditBytes vc (rxFree r - r.base))
      (setLink n (setRx vc (credited r) (setRx vc r (linkAt s n))) (setLink n (setRx vc r (linkAt s n)) s))).trans
        (congrArg received (linkAt_setLink_same ..))
    refine ⟨?_, fun v hv => ?_⟩
    · rw [rxBuf_congr hrx, rxBuf_setRx_same (by rwa [length_setRx]), credited, show Nat.max r.base (rxFree r) = rxFree r from Nat.max_eq_right h.le]
    · rw [rxBuf_congr hrx, rxBuf_setRx_ne hv, rxBuf_setRx_ne hv]
  · rw [returnCredits_none (by rw [hbuf]; exact h), hlink]
    refine ⟨?_, fun v hv => rxBuf_setRx_ne hv ..⟩
    rw [rxBuf_setRx_same hvc, show Nat.max r.base (rxFree r) = r.base from Nat.max_eq_left h]

/-- The credits of flits that nothing holds leave in a CREDIT flit; without such flits nothing leaves. -/
theorem out_returnCredits : (rxFree r ≤ r.base → (returnCredits n vc (setLink n (setRx vc r (linkAt s n)) s)).out = s.out) ∧
    (r.base < rxFree r → (linkAt s n).st = .up → flitRoom (linkAt s n) = true → (linkAt s n).ctlq = [] →
      (returnCredits n vc (setLink n (setRx vc r (linkAt s n)) s)).out = s.out ++ [.flit n (sealFlit (dirKey (linkAt s n).keys (linkAt s n).sideA)
        tyCredit 0 (linkAt s n).txSeq (creditBytes vc (rxFree r - r.base)))]) := by
  have hlink := linkAt_setLink_same n (setRx vc r (linkAt s n)) s
  have hbuf : rxBuf (linkAt (setLink n (setRx vc r (linkAt s n)) s) n) vc = r := by rw [hlink, rxBuf_setRx_same hvc]
  refine ⟨fun h => ?_, fun h hup hroom hidle => ?_⟩
  · rw [returnCredits_none (by rw [hbuf]; exact h)]
    rfl
  · rw [returnCredits_some (by rw [hbuf]; exact h), hbuf, hlink]
    have hlink' := linkAt_setLink_same n (setRx vc (credited r) (setRx vc r (linkAt s n))) (setLink n (setRx vc r (linkAt s n)) s)
    rw [sendCtl_leaves (by rw [hlink']; exact hup) (by rw [hlink']; exact hroom) (by rw [hlink']; exact hidle), out_sendFlit, hlink']
    rfl

end

/-! ### A message is taken (R375, R376) -/

/-- The buffer of a VC without its first message and the padding behind it. -/
def tookFirst (b : RxVc) : RxVc := trimRx { b with pos := b.pos + wireLen b.buf, buf := b.buf.drop (wireLen b.buf) }

theorem rxConsume_none (n vc : Nat) (s : State) :
    rxConsume n vc none s = returnCredits n vc (setLink n (setRx vc (tookFirst (rxBuf (linkAt s n) vc)) (linkAt s n)) s) := rfl

theorem offLinks_rxConsume (n vc : Nat) (s : State) : offLinks (rxConsume n vc none s) = offLinks s := by
  rw [rxConsume_none, offLinks_returnCredits, offLinks_setLink]

theorem peerModule_rxConsume (n vc : Nat) (s : State) : (linkAt (rxConsume n vc none s) n).peerModule = (linkAt s n).peerModule := by
  have hcredits : ∀ t, (linkAt (returnCredits n vc t) n).peerModule = (linkAt t n).peerModule := fun t => by
    obtain h | h := Nat.lt_or_ge (rxBuf (linkAt t n) vc).base (rxFree (rxBuf (linkAt t n) vc))
    · have hsent := (congrArg Prod.snd (received_sendCtl n tyCredit (creditBytes vc (rxFree (rxBuf (linkAt t n) vc) - (rxBuf (linkAt t n) vc).base))
        (setLink n (setRx vc (credited (rxBuf (linkAt t n) vc)) (linkAt t n)) t)) :)
      rw [linkAt_setLink_same] at hsent
      rw [returnCredits_some h]
      exact hsent
    · rw [returnCredits_none h]
  rw [rxConsume_none, hcredits, linkAt_setLink_same]
  rfl

/-- What a command does with the first message, before the messages behind it are looked at. -/
def actedOn (n vc : Nat) (p : Pcl) (act : Pcl → State → State) (s : State) : State := act p (rxConsume n vc none s)

theorem takeMsg_takes {n vc op : Nat} {act : Pcl → State → State} {p : Pcl} {s : State} (hhead : rxHead (linkAt s n) vc = some p) (hop : p.op = op)
    (hup : (linkAt s n).st = .up) : takeMsg n vc op act s = rxSettle n vc (rxCount (actedOn n vc p act s) n vc) (actedOn n vc p act s) := by
  simp only [takeMsg, hhead, hop, hup, and_self, if_true]
  rfl

theorem takeMsg_idle {n vc op : Nat} {act : Pcl → State → State} {p : Pcl} {s : State} (h : (linkAt s n).st ≠ .up ∨ rxHead (linkAt s n) vc = none ∨
    (rxHead (linkAt s n) vc = some p ∧ p.op ≠ op)) : takeMsg n vc op act s = s := by
  unfold takeMsg
  split
  · rename_i q hq
    refine if_neg fun ⟨hop, hup⟩ => ?_
    obtain h | h | ⟨h, hne⟩ := h
    · exact h hup
    · rw [hq] at h
      cases h
    · rw [hq] at h
      cases h
      exact hne hop
  · rfl

/-! ### Messages that enter the floor at an attachment (R184, R391) -/

theorem routers_injectEngine_congr {s t : State} (hlive : t.live = s.live) (hrouters : t.routers = s.routers) (r : Nat) (m : Msg) :
    (injectEngine r m t).routers = (injectEngine r m s).routers := by
  have hstamp : stamp t r m = stamp s r m := by
    unfold stamp
    dsimp only
    rw [live_congr hlive]
  have hrouter : routerAt t r = routerAt s r := by rw [routerAt, routerAt, hrouters]
  unfold injectEngine
  split
  · exact hrouters
  · dsimp only
    rw [setRouter_routers, setRouter_routers, hstamp, hrouter, hrouters]

theorem live_injectEngine (r : Nat) (m : Msg) (s : State) : (injectEngine r m s).live = s.live := (congrArg State.live (sansFire_injectEngine r m s) :)
theorem clIns_injectEngine (r : Nat) (m : Msg) (s : State) : (injectEngine r m s).clIns = s.clIns := (congrArg State.clIns (sansFire_injectEngine r m s) :)
theorem clReqs_injectEngine (r : Nat) (m : Msg) (s : State) : (injectEngine r m s).clReqs = s.clReqs := (congrArg State.clReqs (sansFire_injectEngine r m s) :)
theorem nextTag_injectEngine (r : Nat) (m : Msg) (s : State) : (injectEngine r m s).nextTag = s.nextTag := (congrArg State.nextTag (sansFire_injectEngine r m s) :)

/-- At most 512 bytes are one piece. -/
theorem piecesOf_one {len : Nat} (hlen : 0 < len) (hmax : len ≤ 512) : piecesOf 512 (2 ^ 50) 0 len = [(0, len)] := by
  obtain ⟨k, rfl⟩ := Nat.exists_eq_succ_of_ne_zero hlen.ne'
  have hn : Nat.min (Nat.min 512 (k + 1)) (2 ^ 50 - (0 + 0) % 2 ^ 50) = k + 1 := by
    rw [show Nat.min 512 (k + 1) = k + 1 from Nat.min_eq_right hmax]
    exact Nat.min_eq_left (by omega)
  rw [piecesOf, pieces, if_neg hlen.ne']
  dsimp only
  rw [hn, Nat.sub_self]
  cases k <;> rfl

/-! ### Entries kept by a number -/

theorem find?_map_keyed {α : Type} {key : α → Nat} {k : Nat} {f : α → α} (hkey : ∀ x, key (f x) = key x) {l : List α} {x : α}
    (h : l.find? (key · == k) = some x) : (l.map fun y => if key y = k then f y else y).find? (key · == k) = some (f x) := by
  have hsame : ((key · == k) ∘ fun y => if key y = k then f y else y) = (key · == k) := funext fun y => by
    dsimp only [Function.comp]
    split
    · rw [hkey]
    · rfl
  have hx : key x = k := by simpa using List.find?_some h
  rw [List.find?_map, hsame, h, Option.map_some, if_pos hx]

theorem filter_map_keyed {α : Type} {key : α → Nat} {k : Nat} {f : α → α} (hkey : ∀ x, key (f x) = key x) (l : List α) :
    (l.map fun y => if key y = k then f y else y).filter (key · != k) = l.filter (key · != k) := by
  induction l with
  | nil => rfl
  | cons y l ih =>
    rw [List.map_cons, List.filter_cons, List.filter_cons, ih]
    by_cases h : key y = k
    · simp [h, hkey]
    · simp [h]

end Sys2Proof.Machine
end

section
/-! Inbound chain messages are checked, served and answered (R264, R265, R376, R384, R390 to R394, R518). -/

namespace Sys2Proof.Machine

open Sys2Proof

/-! ### The check of a request (R384) -/

theorem inboundCheck_rxConsume (n vc : Nat) (s : State) (p : Pcl) : inboundCheck (rxConsume n vc none s) p = inboundCheck s p := by
  rw [eq_of_offLinks (offLinks_rxConsume n vc s)]
  rfl

section
variable {s : State} {p : Pcl}

theorem inboundCheck_out (h : joined s = false) : inboundCheck s p = .error E.unmapped := by simp [inboundCheck, h]

theorem inboundCheck_unmatched (hlen : p.len ≤ 4096) (h : ∀ w, w < 256 → winMatch s p w = false) : inboundCheck s p = .error E.unmapped := by
  have hnone : (List.range 256).find? (winMatch s p) = none :=
    List.find?_eq_none.2 fun w hw => by simp [h w (List.mem_range.1 hw)]
  cases hjoined : joined s with
  | false => exact inboundCheck_out hjoined
  | true => rw [inboundCheck, if_neg (by simp [hjoined]), if_neg (by omega), if_neg (by omega), hnone]

theorem inboundCheck_long (hjoined : joined s = true) (hlen : 4096 < p.len) :
    inboundCheck s p = .error (if p.len = 0xFFFF then E.reservedValue else E.lenOverrun) := by
  rw [inboundCheck, if_neg (by simp [hjoined])]
  by_cases hreserved : p.len = 0xFFFF
  · rw [if_pos hreserved, if_pos hreserved]
  · rw [if_neg hreserved, if_pos hlen, if_neg hreserved]

/-- A request that passes is of at most 4,096 bytes and mapped by the lowest window that matches; a data request's range is its tenant's. -/
theorem inboundCheck_ok {a : Nat} (h : inboundCheck s p = .ok a) : joined s = true ∧ p.len ≤ 4096 ∧ ∃ w, w < 256 ∧ winMatch s p w = true ∧
    (∀ v, v < w → winMatch s p v = false) ∧ a = winTarget s w + (p.addr - winBase s w) ∧
      (p.op = 1 ∨ p.op = 2 → tenantOwns s (winF s w 0 7 0) a p.len = true ∧ mappedCheck s a p.len = none) := by
  unfold inboundCheck at h
  split at h
  · cases h
  · rename_i hjoined
    split at h
    · cases h
    · split at h
      · cases h
      · rename_i hlen
        refine ⟨by simpa using hjoined, by omega, ?_⟩
        split at h
        · cases h
        · rename_i w hw
          obtain ⟨hmatch, hmem, hlow⟩ := List.find?_range_eq_some.1 hw
          refine ⟨w, List.mem_range.1 hmem, hmatch, fun v hv => by simpa using hlow v hv, ?_⟩
          dsimp only at h
          split at h
          · rename_i hop
            cases h
            exact ⟨rfl, fun hdata => by omega⟩
          · split at h
            · cases h
            · rename_i howns
              split at h
              · cases h
              · rename_i hmapped
                cases h
                exact ⟨rfl, fun _ => ⟨by simpa using howns, hmapped⟩⟩

end

/-! ### Requests are refused or served (R384, R391, R393) -/

section
variable {n : Nat} {p : Pcl} {s : State}

theorem inboundReq_refused {e : Code} {serve : Pcl → Nat → State → State} (h : inboundCheck s p = .error e) :
    inboundReq n serve p s = refuseIn n p e s := by rw [inboundReq, h]

theorem inboundReq_served {a : Nat} {serve : Pcl → Nat → State → State} (h : inboundCheck s p = .ok a) : inboundReq n serve p s = serve p a s := by
  rw [inboundReq, h]

variable {act : Nat → Nat → Pcl → State → DWord × State}

theorem pclReg_refused {e : Code} (h : inboundCheck s p = .error e) : pclReg n act p s = refuseIn n p e s := by rw [pclReg, h]

/-- A register write and a register read of a peer, and what each returns. -/
def peerWrite (now : Nat) (n : Fin 8) (pg off : Nat) (q : Pcl) (s : State) : DWord × State :=
  (0, regWrite now (.peer n) pg off .w32 (BitVec.ofNat 64 (leNat (q.data.take 4))) s)
def peerRead (n : Fin 8) (pg off : Nat) (_ : Pcl) (s : State) : DWord × State := regRead (masterId (.peer n)) pg off .w32 s

/-- An access that its window maps to the register window is performed and answered. -/
theorem pclReg_performed {a : Nat} (h : inboundCheck s p = .ok a) (hpages : addrKind a = .pages) : pclReg n act p s =
    sendResp n (respTo (act ((a - regWindow) / 4096) (a % 4096) p s).2 p 0 (leBytes 4 (act ((a - regWindow) / 4096) (a % 4096) p s).1.toNat))
      (act ((a - regWindow) / 4096) (a % 4096) p s).2 := by
  simp only [pclReg, h, hpages]

end

theorem pclReg_written {now : Nat} {n : Fin 8} {p : Pcl} {a : Nat} {s : State} (h : inboundCheck s p = .ok a) (hpages : addrKind a = .pages) :
    pclReg n.val (peerWrite now n) p s =
      let v := regWrite now (.peer n) ((a - regWindow) / 4096) (a % 4096) .w32 (BitVec.ofNat 64 (leNat (p.data.take 4))) s
      sendResp n.val (respTo v p 0 [0, 0, 0, 0]) v := by
  have hnone : leBytes 4 (0 : DWord).toNat = [0, 0, 0, 0] := by decide
  rw [pclReg_performed h hpages, peerWrite]
  dsimp only
  rw [hnone]

theorem pclReg_read {n : Fin 8} {p : Pcl} {a : Nat} {s : State} (h : inboundCheck s p = .ok a) (hpages : addrKind a = .pages) :
    pclReg n.val (peerRead n) p s =
      let r := regRead (8 + n.val) ((a - regWindow) / 4096) (a % 4096) .w32 s
      sendResp n.val (respTo r.2 p 0 (leBytes 4 r.1.toNat)) r.2 := pclReg_performed h hpages

/-- The DATA message that carries all bytes of a WR of at most 512. -/
def wrMsg (n id a : Nat) (p : Pcl) : Msg := towardAddr a
  { msgNull with cls := .data, tag := p.tagged && decide (a < 0x2000000000), src := srcAttach n, payload := p.data.take p.len, origin := .chain n id }

/-- The flush READ that follows a WR to the router of an address. -/
def flushMsg (n id a : Nat) (p : Pcl) : Msg := towardAddr (a / 32 * 32)
  { msgNull with cls := .read, nomerge := true, rflits := 1, roff := p.mtag % 4, src := srcAttach n, origin := .chainFlush n id (addrRouter a) }

/-- The READ that asks for all bytes of a RD of at most 512. -/
def rdMsg (n id a : Nat) (p : Pcl) : Msg := towardAddr a
  { msgNull with cls := .read, rflits := p.len / 32, roff := p.mtag % 4, src := srcAttach n, origin := .chain n id }

/-- A request accepted under the next number. -/
def accepted (n : Nat) (p : Pcl) (a left : Nat) (s : State) : State :=
  { s with nextTag := s.nextTag + 1, clIns := s.clIns ++ [⟨s.nextTag, n, p, a, [], left, [], 0⟩] }

/-- A request with one more flush READ under way. -/
def flushAdded (a : Nat) (q : ClIn) : ClIn := { q with flush := q.flush ++ [addrRouter a] }

/-- The state in which a WR of at most 512 bytes has sent them, and that in which its flush READ has followed. -/
def wrSent (n a : Nat) (p : Pcl) (s : State) : State := injectEngine (linkRouter n (p.mtag % 4)) (wrMsg n s.nextTag a p) (accepted n p a 0 s)
def wrFlushed (n a : Nat) (p : Pcl) (s : State) : State :=
  injectEngine (linkRouter n (p.mtag % 4)) (flushMsg n s.nextTag a p) (updIn s.nextTag (flushAdded a) (wrSent n a p s))

/-- The state in which a RD of at most 512 bytes has asked for them. -/
def rdSent (n a : Nat) (p : Pcl) (s : State) : State := injectEngine (linkRouter n (p.mtag % 4)) (rdMsg n s.nextTag a p) (accepted n p a p.len s)

section
variable {n a : Nat} {p : Pcl} {s : State} (hlen : 0 < p.len) (hmax : p.len ≤ 512)
include hlen hmax

theorem serveWr_one : serveWr n p a s = finishIn s.nextTag (wrFlushed n a p s) := by
  unfold serveWr
  rw [piecesOf_one hlen hmax]
  rfl

theorem serveRd_one : serveRd n p a s = finishIn s.nextTag (rdSent n a p s) := by
  unfold serveRd
  rw [piecesOf_one hlen hmax]
  rfl

end

/-- Accepting a request changes nothing of what enters the floor. -/
theorem routers_injectEngine_accepted (r : Nat) (m : Msg) (n : Nat) (p : Pcl) (a left : Nat) (s : State) :
    (injectEngine r m (accepted n p a left s)).routers = (injectEngine r m s).routers :=
  routers_injectEngine_congr (s := s) (t := accepted n p a left s) rfl rfl r m

section
variable {id : Nat} {q : ClIn} {s : State}

theorem find?_appended (hnew : ∀ r ∈ s.clIns, r.id ≠ id) (hq : q.id = id) : (s.clIns ++ [q]).find? (·.id == id) = some q := by
  rw [List.find?_append, List.find?_eq_none.2 fun r hr => by simpa using hnew r hr]
  simp [hq]

theorem finishIn_unflushed (h : s.clIns.find? (·.id == id) = some q) (hop : q.hdr.op = 1) (hflush : q.flush ≠ []) : finishIn id s = s := by
  have hmore : q.flush.isEmpty = false := by simpa using hflush
  simp only [finishIn, h, hop, if_true, hmore, Bool.false_eq_true, if_false]

theorem finishIn_flushed (h : s.clIns.find? (·.id == id) = some q) (hop : q.hdr.op = 1) (hflush : q.flush = []) :
    finishIn id s = sendResp q.link (respTo s q.hdr q.failed []) (inEnded id s) := by
  simp only [finishIn, h, hop, if_true, hflush, List.isEmpty_nil]

theorem finishIn_unread (h : s.clIns.find? (·.id == id) = some q) (hop : q.hdr.op ≠ 1) (hfailed : q.failed = 0) (hleft : q.left ≠ 0) :
    finishIn id s = s := by
  simp only [finishIn, h, hop, if_false, hfailed, ne_eq, not_true_eq_false, hleft]

theorem find?_updIn {f : ClIn → ClIn} (hf : ∀ r, (f r).id = r.id) (h : s.clIns.find? (·.id == id) = some q) :
    (updIn id f s).clIns.find? (·.id == id) = some (f q) := find?_map_keyed hf h

end

theorem updIn_last {id : Nat} {q : ClIn} {f : ClIn → ClIn} {l : List ClIn} {s : State} (hs : s.clIns = l ++ [q]) (hnew : ∀ r ∈ l, r.id ≠ id)
    (hq : q.id = id) : (updIn id f s).clIns = l ++ [f q] := by
  have hsame : l.map (fun r => if r.id = id then f r else r) = l := (List.map_congr_left fun r hr => if_neg (hnew r hr)).trans (List.map_id l)
  rw [updIn, hs, List.map_append, hsame, List.map_singleton, if_pos hq]

section
variable {n a : Nat} {p : Pcl} {s : State} (hlen : 0 < p.len) (hmax : p.len ≤ 512) (hnew : ∀ q ∈ s.clIns, q.id ≠ s.nextTag)
include hlen hmax hnew

/-- A WR of at most 512 bytes sends them and one flush READ, and is kept until it is answered. -/
theorem serveWr_sends (hop : p.op = 1) :
    (serveWr n p a s).clIns = s.clIns ++ [⟨s.nextTag, n, p, a, [addrRouter a], 0, [], 0⟩] ∧ (serveWr n p a s).nextTag = s.nextTag + 1 ∧
      (serveWr n p a s).routers = (injectEngine (linkRouter n (p.mtag % 4)) (flushMsg n s.nextTag a p)
        (injectEngine (linkRouter n (p.mtag % 4)) (wrMsg n s.nextTag a p) s)).routers := by
  have hsent : (wrSent n a p s).clIns = s.clIns ++ [⟨s.nextTag, n, p, a, [], 0, [], 0⟩] := clIns_injectEngine ..
  have hins : (wrFlushed n a p s).clIns = s.clIns ++ [⟨s.nextTag, n, p, a, [addrRouter a], 0, [], 0⟩] := by
    rw [wrFlushed, clIns_injectEngine, updIn_last hsent hnew rfl]
    rfl
  have htag : (wrSent n a p s).nextTag = s.nextTag + 1 := nextTag_injectEngine ..
  have hlive : (wrSent n a p s).live = s.live := live_injectEngine ..
  have hrouters : (wrSent n a p s).routers = (injectEngine (linkRouter n (p.mtag % 4)) (wrMsg n s.nextTag a p) s).routers :=
    routers_injectEngine_accepted ..
  rw [serveWr_one hlen hmax, finishIn_unflushed (by rw [hins]; exact find?_appended hnew rfl) hop (List.cons_ne_nil _ _)]
  refine ⟨hins, ?_, ?_⟩
  · rw [wrFlushed, nextTag_injectEngine, ← htag]
    rfl
  · rw [wrFlushed]
    exact routers_injectEngine_congr (s := injectEngine (linkRouter n (p.mtag % 4)) (wrMsg n s.nextTag a p) s)
      (t := updIn s.nextTag (flushAdded a) (wrSent n a p s)) (hlive.trans (live_injectEngine ..).symm) hrouters ..

/-- A RD of at most 512 bytes sends one READ, and is kept until its bytes have been read. -/
theorem serveRd_sends (hop : p.op = 2) : (serveRd n p a s).clIns = s.clIns ++ [⟨s.nextTag, n, p, a, [], p.len, [], 0⟩] ∧
    (serveRd n p a s).routers = (injectEngine (linkRouter n (p.mtag % 4)) (rdMsg n s.nextTag a p) s).routers := by
  have hins : (rdSent n a p s).clIns = s.clIns ++ [⟨s.nextTag, n, p, a, [], p.len, [], 0⟩] := clIns_injectEngine ..
  rw [serveRd_one hlen hmax, finishIn_unread (by rw [hins]; exact find?_appended hnew rfl) (by rw [hop]; decide) rfl hlen.ne']
  exact ⟨hins, routers_injectEngine_accepted ..⟩

end

/-! ### Flush READs are answered (R391) -/

theorem flushReply_none {n : Nat} {s : State} (h : s.clFlushed.find? (·.1 == n) = none) : flushReply n s = s := by rw [flushReply, h]

/-- A request without the flush READ to a router. -/
def flushDropped (r : Nat) (q : ClIn) : ClIn := { q with flush := dropOne r q.flush }

section
variable {n id r : Nat} {q : ClIn} {s : State} (hreply : s.clFlushed.find? (·.1 == n) = some (n, id, r))
  (hq : s.clIns.find? (·.id == id) = some q)
include hreply hq

/-- The state with the first flush reply of an attachment taken. -/
theorem flushReply_taken : flushReply n s = finishIn id (updIn id (flushDropped r) { s with clFlushed := s.clFlushed.erase (n, id, r) }) ∧
    (updIn id (flushDropped r) { s with clFlushed := s.clFlushed.erase (n, id, r) }).clIns.find? (·.id == id) = some (flushDropped r q) := by
  refine ⟨?_, find?_updIn (fun _ => rfl) hq⟩
  rw [flushReply, hreply]
  rfl

variable (hop : q.hdr.op = 1)
include hop

/-- The reply to the last one ends the request with its response. -/
theorem flushReply_last (hflush : q.flush = [r]) : ∃ u, flushReply n s = sendResp q.link (respTo s q.hdr q.failed []) u ∧
    u.clIns = s.clIns.filter (·.id != id) ∧ u.clFlushed = s.clFlushed.erase (n, id, r) ∧ u.out = s.out := by
  obtain ⟨htaken, hfound⟩ := flushReply_taken hreply hq
  have hdone : (flushDropped r q).flush = [] := by simp [flushDropped, hflush, dropOne]
  rw [htaken, finishIn_flushed hfound hop hdone]
  exact ⟨_, rfl, filter_map_keyed (f := flushDropped r) (fun _ => rfl) _, rfl, rfl⟩

/-- The reply to an earlier one sends nothing. -/
theorem flushReply_earlier {r' : Nat} {l : List Nat} (hflush : q.flush = r :: r' :: l) : (flushReply n s).out = s.out ∧
    (flushReply n s).links = s.links ∧ (flushReply n s).clIns.find? (·.id == id) = some { q with flush := r' :: l } := by
  obtain ⟨htaken, hfound⟩ := flushReply_taken hreply hq
  have hdrop : flushDropped r q = { q with flush := r' :: l } := by simp [flushDropped, hflush, dropOne]
  rw [htaken, finishIn_unflushed hfound hop (by rw [hdrop]; exact List.cons_ne_nil _ _)]
  exact ⟨rfl, rfl, hdrop ▸ hfound⟩

end

/-! ### Responses end requests (R391, R392) -/

/-- The engine without an outstanding request. -/
def withoutReq (mtag : Nat) (s : State) : State := { s with clReqs := s.clReqs.filter (·.mtag != mtag) }

section
variable {p : Pcl} {act : ClReq → State → State} {s : State}

theorem response_late (h : s.clReqs.find? (·.mtag == p.mtag) = none) : response p act s = lateResp s := by
  unfold response
  split
  · rw [h]
  · rw [takeReq, h]

variable {q : ClReq} (h : s.clReqs.find? (·.mtag == p.mtag) = some q)
include h

theorem response_fails (hst : p.status ≠ 0) : response p act s =
    reqEnded q (countEnd p.status q.module (failPart q.origin q.len p.status (withoutReq p.mtag s))) := by
  simp only [response, hst, ne_eq, not_false_eq_true, if_true, h, endReq, takeReq]
  rfl

theorem response_acts (hst : p.status = 0) : response p act s = reqEnded q (act q (withoutReq p.mtag s)) := by
  simp only [response, hst, ne_eq, not_true_eq_false, if_false, takeReq, h]
  rfl

end

/-- A late response is counted. -/
theorem lateResp_counts (s : State) : liveF (lateResp s) pCl 0x814 31 16 = Nat.min 0xFFFF (liveF s pCl 0x814 31 16 + 1) ∧
    (lateResp s).clReqs = s.clReqs := ⟨liveF_countUp s (by decide) (by decide), rfl⟩

/-- The commands that handle responses, with the type of each. -/
def responses (n : Fin 8) (vc : Fin 4) : List (Nat × Instr) := [(3, .pclWrAck n vc), (4, .pclRdData n vc), (7, .pclRegRsp n vc), (9, .svcRsp n vc)]

theorem exec_response {n : Fin 8} {vc : Fin 4} {i : Nat × Instr} (hi : i ∈ responses n vc) :
    ∃ act : Pcl → ClReq → State → State, ∀ s, exec i.2 s = .next (takeMsg n.val vc.val i.1 (fun p => response p (act p)) s) := by
  simp only [responses, List.mem_cons, List.not_mem_nil, or_false] at hi
  obtain rfl | rfl | rfl | rfl := hi <;> exact ⟨_, fun _ => rfl⟩

/-- A descriptor of which some more bytes have been written. -/
def descCounted (len : Nat) (d : Desc) : Desc := { d with left := d.left - len }

/-- Bytes written at a descriptor's destination are counted there. -/
theorem descLanded_counts {c id len : Nat} {e : Desc} {s : State} (h : (coreAt s c).dmq.find? (·.id == id) = some e) :
    (coreAt (descLanded c id len s) c).dmq.find? (·.id == id) = some { e with left := e.left - len } := by
  rw [descLanded, coreAt_updCore_same]
  exact find?_map_keyed (f := descCounted len) (fun _ => rfl) h

/-- The DATA message that carries read bytes to a descriptor's destination. -/
def readMsg (p : Pcl) (q : ClReq) (c id : Nat) : Msg := towardAddr q.loc
  { msgNull with cls := .data, tag := q.tagged, src := srcAttach q.home, payload := p.data, origin := .desc c id }

theorem deliverRead_one {p : Pcl} {q : ClReq} {c id : Nat} (horigin : q.origin = .desc c id) (hlen : 0 < p.data.length) (hmax : p.data.length ≤ 512)
    (s : State) : deliverRead p q s = injectEngine (linkRouter q.home (p.mtag % 4)) (readMsg p q c id) s := by
  have htake : (p.data.drop 0).take p.data.length = p.data := by rw [List.drop_zero, List.take_length]
  rw [deliverRead, piecesOf_one hlen hmax]
  simp only [List.foldl_cons, List.foldl_nil, horigin, htake]
  rfl

/-! ### Service messages (R264, R265, R393) -/

/-- An answer that the image is held records the link in the install that asked; another changes nothing. -/
theorem queryAnswered_records {who l : Nat} {held : Bool} {i : Inst} {s : State} (hi : instAt s who = some i) (hphase : i.phase = .query) :
    (queryAnswered who l held s).clReqs = s.clReqs ∧ (held = false → (queryAnswered who l held s).weights = s.weights) ∧
      (held = true → instAt (queryAnswered who l held s) who = some { i with held := insertAsc l i.held }) := by
  have hclReqs : ∀ j, (putInst who j s).clReqs = s.clReqs := fun j => by
    unfold putInst
    dsimp only
    split <;> rfl
  cases held with
  | false => simp [queryAnswered, hi]
  | true => simp [queryAnswered, hi, hphase, hclReqs, instAt_putInst_same]

theorem payloadArrives_counts {who r a o : Nat} {l : List Byte} {i : Inst} {w : UnitIn} {s : State} (hi : instAt s who = some i)
    (hcur : i.cur = some w) (hr : w.range = r) (ha : w.unit = a) : instAt (payloadArrives who r a o l s) who =
      some { i with cur := some { w with got := putBytes w.got o l, left := w.left - l.length } } := by
  simp only [payloadArrives, hi, instAt_setInst_same, hcur, Option.map_some, hr, ha, and_self, if_true]

/-- Whether a query finds its image held: a model holds it and fewer than two other installs are served. -/
def queryHeld (n : Nat) (image : BitVec 128) (key : DWord) (s : State) : Bool :=
  (holder s image key).isSome && decide (((servedOther s n image key).filter fun e => !servedStale s e).length < 2)

/-- The installs being served once a query has been answered. -/
def queryServed (n : Nat) (image : BitVec 128) (key : DWord) (s : State) : State :=
  let t := { s with weights := { s.weights with serving := s.weights.serving.filter fun e => !servedStale s e } }
  if queryHeld n image key s then serveNow n image key t else t

theorem answerQuery_eq (n : Nat) (p : Pcl) (image : BitVec 128) (key : DWord) (s : State) :
    answerQuery n p image key s = svcResp n p 0 [] (.answer image (queryHeld n image key s)) (queryServed n image key s) := rfl

theorem servedBy_rxConsume (n vc : Nat) (image : BitVec 128) (key : DWord) (s : State) :
    servedBy (rxConsume n vc none s) n image key = servedBy s n image key := by
  funext e
  rw [servedBy, servedBy, peerModule_rxConsume]

theorem servedOther_rxConsume (n vc : Nat) (image : BitVec 128) (key : DWord) (s : State) :
    servedOther (rxConsume n vc none s) n image key = servedOther s n image key := by
  rw [servedOther, servedOther, servedBy_rxConsume, weights_of_offLinks (offLinks_rxConsume n vc s)]

theorem holder_rxConsume (n vc : Nat) (image : BitVec 128) (key : DWord) (s : State) : holder (rxConsume n vc none s) image key = holder s image key := by
  rw [eq_of_offLinks (offLinks_rxConsume n vc s)]
  rfl

theorem servedStale_rxConsume (n vc : Nat) (s : State) : servedStale (rxConsume n vc none s) = servedStale s := by
  rw [eq_of_offLinks (offLinks_rxConsume n vc s)]
  rfl

theorem queryHeld_rxConsume (n vc : Nat) (image : BitVec 128) (key : DWord) (s : State) :
    queryHeld n image key (rxConsume n vc none s) = queryHeld n image key s := by
  rw [queryHeld, queryHeld, holder_rxConsume, servedOther_rxConsume, servedStale_rxConsume]

theorem queryHeld_iff {n : Nat} {image : BitVec 128} {key : DWord} {s : State} : queryHeld n image key s = true ↔
    (holder s image key).isSome = true ∧ ((servedOther s n image key).filter fun e => !servedStale s e).length < 2 := by
  rw [queryHeld, Bool.and_eq_true, decide_eq_true_iff]

theorem serving_serveNow (n : Nat) (image : BitVec 128) (key : DWord) (s : State) : (serveNow n image key s).weights.serving =
    servedOther s n image key ++ [⟨(linkAt s n).peerModule, image, key, s.beat.now⟩] := rfl

/-- The install of a query that finds its image held is being served. -/
theorem queryServed_serves {n : Nat} {image : BitVec 128} {key : DWord} {s : State} (h : queryHeld n image key s = true) :
    ∃ e ∈ (queryServed n image key s).weights.serving, servedBy s n image key e = true := by
  refine ⟨⟨(linkAt s n).peerModule, image, key, s.beat.now⟩, ?_, by simp [servedBy]⟩
  rw [queryServed]
  dsimp only
  rw [if_pos h, serving_serveNow]
  exact List.mem_append_right _ List.mem_cons_self

theorem answerFetch_unheld {n : Nat} {p : Pcl} {image : BitVec 128} {key : DWord} {r a o len : Nat} {s : State} (h : holder s image key = none) :
    answerFetch n p image key r a o len s = svcResp n p E.unmapped [] (.payload image r a o) s := by rw [answerFetch, h]

/-- A fetch of an image that is held is answered with at most the bytes asked for. -/
theorem answerFetch_held {n : Nat} {p : Pcl} {image : BitVec 128} {key : DWord} {r a o len : Nat} {m : Nat × Nat} {g : GristImg} {pl : Placed} {s : State}
    (h : holder s image key = some m) (himg : epImg (modelAt s m.1) m.2 = some g) (hplace : gristPlace s m.1 = some pl) :
    ∃ st data v, answerFetch n p image key r a o len s = svcResp n p st data (.payload image r a o) v ∧ data.length ≤ len := by
  simp only [answerFetch, h, himg, hplace]
  split
  · exact ⟨_, _, _, rfl, (List.length_take_le ..)⟩
  · exact ⟨_, _, _, rfl, Nat.zero_le _⟩

section
variable {n vc : Nat} {s : State}

theorem clReqs_rxConsume : (rxConsume n vc none s).clReqs = s.clReqs := (congrArg State.clReqs (offLinks_rxConsume n vc s) :)
theorem clIns_rxConsume : (rxConsume n vc none s).clIns = s.clIns := (congrArg State.clIns (offLinks_rxConsume n vc s) :)
theorem live_rxConsume : (rxConsume n vc none s).live = s.live := (congrArg State.live (offLinks_rxConsume n vc s) :)
theorem nextTag_rxConsume : (rxConsume n vc none s).nextTag = s.nextTag := (congrArg State.nextTag (offLinks_rxConsume n vc s) :)
theorem routers_rxConsume : (rxConsume n vc none s).routers = s.routers := (congrArg State.routers (offLinks_rxConsume n vc s) :)
theorem weights_rxConsume : (rxConsume n vc none s).weights = s.weights := weights_of_offLinks (offLinks_rxConsume n vc s)
theorem cores_rxConsume : (rxConsume n vc none s).cores = s.cores := (congrArg State.cores (offLinks_rxConsume n vc s) :)

theorem routers_injectEngine_rxConsume (r : Nat) (m : Msg) : (injectEngine r m (rxConsume n vc none s)).routers = (injectEngine r m s).routers :=
  routers_injectEngine_congr live_rxConsume routers_rxConsume ..

theorem gristPlace_rxConsume (m : Nat) : gristPlace (rxConsume n vc none s) m = gristPlace s m := by
  rw [eq_of_offLinks (offLinks_rxConsume n vc s)]
  rfl

/-- What is left once a response has been taken from its buffer and the request it answers from the engine. -/
def answered (n vc mtag : Nat) (s : State) : State := { rxConsume n vc none s with clReqs := s.clReqs.filter (·.mtag != mtag) }

theorem withoutReq_rxConsume (mtag : Nat) : withoutReq mtag (rxConsume n vc none s) = answered n vc mtag s :=
  congrArg (fun l => { rxConsume n vc none s with clReqs := List.filter (·.mtag != mtag) l }) clReqs_rxConsume

theorem weights_answered (mtag : Nat) : (answered n vc mtag s).weights = s.weights := weights_rxConsume

theorem coreAt_answered (mtag a : Nat) : coreAt (answered n vc mtag s) a = coreAt s a :=
  coreAt_congr (by rw [answered]; exact cores_rxConsume) a

theorem routers_injectEngine_answered (mtag r : Nat) (m : Msg) :
    (injectEngine r m (answered n vc mtag s)).routers = (injectEngine r m s).routers :=
  routers_injectEngine_congr (by rw [answered]; exact live_rxConsume) (by rw [answered]; exact routers_rxConsume) ..

/-- A message leaves its buffer with the padding behind it, and the flits freed are credited to their VC. -/
theorem rxConsume_credits (hvc : vc < (linkAt s n).rx.length) : let x := linkAt s n; let r := tookFirst (rxBuf x vc)
    rxBuf (linkAt (rxConsume n vc none s) n) vc = { r with base := Nat.max r.base (rxFree r) } ∧
      (∀ v, v ≠ vc → rxBuf (linkAt (rxConsume n vc none s) n) v = rxBuf x v) ∧
      (rxFree r ≤ r.base → (rxConsume n vc none s).out = s.out) ∧
      (r.base < rxFree r → x.st = .up → flitRoom x = true → x.ctlq = [] → (rxConsume n vc none s).out =
        s.out ++ [.flit n (sealFlit (dirKey x.keys x.sideA) 1 0 x.txSeq ((List.range 4).flatMap fun v =>
          leBytes 2 (if v = vc then rxFree r - r.base else 0)))]) := by
  obtain ⟨hsame, hothers⟩ := rxBuf_returnCredits (r := tookFirst (rxBuf (linkAt s n) vc)) hvc
  obtain ⟨hnone, hsome⟩ := out_returnCredits (r := tookFirst (rxBuf (linkAt s n) vc)) hvc
  exact ⟨hsame, hothers, hnone, hsome⟩

end

/-! ### The commands that take a message -/

/-- The first message of a VC, on a link that is UP, with its type. -/
def FirstIs (n vc op : Nat) (p : Pcl) (s : State) : Prop := rxHead (linkAt s n) vc = some p ∧ p.op = op ∧ (linkAt s n).st = .up

/-- A command takes a VC's first message, does what is said, and what is behind the message is settled. -/
def Takes (n vc : Nat) (i : Instr) (s : State) (P : State → Prop) : Prop :=
  ∃ t u, exec i s = .next t ∧ t = rxSettle n vc (rxCount u n vc) u ∧ P u

theorem exec_takes {n vc op : Nat} {i : Instr} {act : Pcl → State → State} {p : Pcl} {s : State} {P : State → Prop}
    (hexec : exec i s = .next (takeMsg n vc op act s)) (hhead : FirstIs n vc op p s) (hP : P (act p (rxConsume n vc none s))) : Takes n vc i s P :=
  ⟨_, _, hexec, takeMsg_takes hhead.1 hhead.2.1 hhead.2.2, hP⟩

/-- The commands that take messages, with the type of each. -/
def messages (now : Nat) (n : Fin 8) (vc : Fin 4) : List (Nat × Instr) :=
  [(1, .pclWr n vc), (2, .pclRd n vc), (3, .pclWrAck n vc), (4, .pclRdData n vc), (5, .pclRegWr now n vc), (6, .pclRegRd n vc), (7, .pclRegRsp n vc),
    (8, .svcReq n vc), (9, .svcRsp n vc)]

theorem exec_message {now : Nat} {n : Fin 8} {vc : Fin 4} {i : Nat × Instr} (hi : i ∈ messages now n vc) :
    ∃ act, ∀ s, exec i.2 s = .next (takeMsg n.val vc.val i.1 act s) := by
  simp only [messages, List.mem_cons, List.not_mem_nil, or_false] at hi
  obtain rfl | rfl | rfl | rfl | rfl | rfl | rfl | rfl | rfl := hi <;> exact ⟨_, fun _ => rfl⟩

section
variable {n : Fin 8} {vc : Fin 4} {p : Pcl} {s : State}

/-! #### Requests (R390, R391, R392) -/

theorem request_refused {e : Code} (he : inboundCheck s p = .error e) :
    (FirstIs n vc 1 p s → Takes n vc (.pclWr n vc) s (· = refuseIn n p e (rxConsume n vc none s))) ∧
      (FirstIs n vc 2 p s → Takes n vc (.pclRd n vc) s (· = refuseIn n p e (rxConsume n vc none s))) ∧
      (∀ now, FirstIs n vc 5 p s → Takes n vc (.pclRegWr now n vc) s (· = refuseIn n p e (rxConsume n vc none s))) ∧
      (FirstIs n vc 6 p s → Takes n vc (.pclRegRd n vc) s (· = refuseIn n p e (rxConsume n vc none s))) := by
  have hrefused : inboundCheck (rxConsume n vc none s) p = .error e := (inboundCheck_rxConsume ..).trans he
  exact ⟨fun hhead => exec_takes (act := inboundReq n.val (serveWr n.val)) rfl hhead (inboundReq_refused hrefused),
    fun hhead => exec_takes (act := inboundReq n.val (serveRd n.val)) rfl hhead (inboundReq_refused hrefused),
    fun now hhead => exec_takes (act := pclReg n.val (peerWrite now n)) rfl hhead (pclReg_refused hrefused),
    fun hhead => exec_takes (act := pclReg n.val (peerRead n)) rfl hhead (pclReg_refused hrefused)⟩

section
variable {a : Nat} (hok : inboundCheck s p = .ok a)
include hok

theorem pclWr_served (hhead : FirstIs n vc 1 p s) (hlen : 0 < p.len) (hmax : p.len ≤ 512) (hnew : ∀ q ∈ s.clIns, q.id ≠ s.nextTag) :
    Takes n vc (.pclWr n vc) s fun u => u.clIns = s.clIns ++ [⟨s.nextTag, n.val, p, a, [addrRouter a], 0, [], 0⟩] ∧ u.nextTag = s.nextTag + 1 ∧
      u.routers = (injectEngine (linkRouter n.val (p.mtag % 4)) (flushMsg n s.nextTag a p)
        (injectEngine (linkRouter n.val (p.mtag % 4)) (wrMsg n s.nextTag a p) s)).routers := by
  refine exec_takes (act := inboundReq n.val (serveWr n.val)) rfl hhead ?_
  rw [inboundReq_served ((inboundCheck_rxConsume ..).trans hok)]
  obtain ⟨hins, htag, hrouters⟩ := serveWr_sends (n := n.val) (a := a) (s := rxConsume n vc none s) hlen hmax
    (by rw [clIns_rxConsume, nextTag_rxConsume]; exact hnew) hhead.2.1
  rw [clIns_rxConsume, nextTag_rxConsume] at hins
  rw [nextTag_rxConsume] at htag hrouters
  refine ⟨hins, htag, hrouters.trans (routers_injectEngine_congr ?_ (routers_injectEngine_rxConsume ..) ..)⟩
  rw [live_injectEngine, live_injectEngine, live_rxConsume]

theorem pclRd_served (hhead : FirstIs n vc 2 p s) (hlen : 0 < p.len) (hmax : p.len ≤ 512) (hnew : ∀ q ∈ s.clIns, q.id ≠ s.nextTag) :
    Takes n vc (.pclRd n vc) s fun u => u.clIns = s.clIns ++ [⟨s.nextTag, n.val, p, a, [], p.len, [], 0⟩] ∧
      u.routers = (injectEngine (linkRouter n.val (p.mtag % 4)) (rdMsg n s.nextTag a p) s).routers := by
  refine exec_takes (act := inboundReq n.val (serveRd n.val)) rfl hhead ?_
  rw [inboundReq_served ((inboundCheck_rxConsume ..).trans hok)]
  obtain ⟨hins, hrouters⟩ := serveRd_sends (n := n.val) (a := a) (s := rxConsume n vc none s) hlen hmax
    (by rw [clIns_rxConsume, nextTag_rxConsume]; exact hnew) hhead.2.1
  rw [clIns_rxConsume, nextTag_rxConsume] at hins
  rw [nextTag_rxConsume] at hrouters
  exact ⟨hins, hrouters.trans (routers_injectEngine_rxConsume ..)⟩

theorem pclRegWr_performed (now : Nat) (hhead : FirstIs n vc 5 p s) (hpages : addrKind a = .pages) : Takes n vc (.pclRegWr now n vc) s fun u =>
    let v := regWrite now (.peer n) ((a - regWindow) / 4096) (a % 4096) .w32 (BitVec.ofNat 64 (leNat (p.data.take 4))) (rxConsume n vc none s)
    u = sendResp n (respTo v p 0 [0, 0, 0, 0]) v :=
  exec_takes (act := pclReg n.val (peerWrite now n)) rfl hhead (pclReg_written ((inboundCheck_rxConsume ..).trans hok) hpages)

theorem pclRegRd_performed (hhead : FirstIs n vc 6 p s) (hpages : addrKind a = .pages) : Takes n vc (.pclRegRd n vc) s fun u =>
    let r := regRead (8 + n.val) ((a - regWindow) / 4096) (a % 4096) .w32 (rxConsume n vc none s)
    u = sendResp n (respTo r.2 p 0 (leBytes 4 r.1.toNat)) r.2 :=
  exec_takes (act := pclReg n.val (peerRead n)) rfl hhead (pclReg_read ((inboundCheck_rxConsume ..).trans hok) hpages)

end

/-! #### Responses (R384, R391, R392) -/

theorem response_unasked (hlate : s.clReqs.find? (·.mtag == p.mtag) = none) {i : Nat × Instr} (hi : i ∈ responses n vc) (hhead : FirstIs n vc i.1 p s) :
    Takes n vc i.2 s fun u => liveF u pCl 0x814 31 16 = Nat.min 0xFFFF (liveF s pCl 0x814 31 16 + 1) ∧ u.clReqs = s.clReqs := by
  obtain ⟨act, hexec⟩ := exec_response hi
  refine exec_takes (hexec s) hhead ?_
  rw [response_late ((congrArg _ clReqs_rxConsume).trans hlate)]
  obtain ⟨hcount, hreqs⟩ := lateResp_counts (rxConsume n vc none s)
  rw [liveF, liveF, live_congr live_rxConsume] at hcount
  exact ⟨hcount, hreqs.trans clReqs_rxConsume⟩

section
variable {q : ClReq} (hq : s.clReqs.find? (·.mtag == p.mtag) = some q)
include hq

theorem found_rxConsume : (rxConsume n vc none s).clReqs.find? (·.mtag == p.mtag) = some q := (congrArg _ clReqs_rxConsume).trans hq

/-- A response with a code fails the request it answers. -/
theorem response_withCode (hst : p.status ≠ 0) {i : Nat × Instr} (hi : i ∈ responses n vc) (hhead : FirstIs n vc i.1 p s) :
    Takes n vc i.2 s (· = reqEnded q (countEnd p.status q.module (failPart q.origin q.len p.status (answered n vc p.mtag s)))) := by
  obtain ⟨act, hexec⟩ := exec_response hi
  refine exec_takes (hexec s) hhead ?_
  rw [response_fails (found_rxConsume hq) hst, withoutReq_rxConsume]

variable (hst : p.status = 0)
include hst

theorem response_taken {act : ClReq → State → State} :
    response p act (rxConsume n vc none s) = reqEnded q (act q (answered n vc p.mtag s)) := by
  rw [response_acts (found_rxConsume hq) hst, withoutReq_rxConsume]

theorem pclWrAck_counts {a d : Nat} {e : Desc} (hhead : FirstIs n vc 3 p s) (horigin : q.origin = .desc a d)
    (hdesc : (coreAt s a).dmq.find? (·.id == d) = some e) : Takes n vc (.pclWrAck n vc) s fun u => ∃ v, u = reqEnded q v ∧
      v.clReqs = (answered n vc p.mtag s).clReqs ∧ (coreAt v a).dmq.find? (·.id == d) = some { e with left := e.left - q.len } := by
  have hcount := descLanded_counts (len := q.len) (s := answered n vc p.mtag s) (by rw [coreAt_answered]; exact hdesc)
  refine exec_takes (act := fun p => response p fun q => landed q.origin q.len) rfl hhead ⟨descLanded a d q.len (answered n vc p.mtag s), ?_, rfl, hcount⟩
  rw [response_taken hq hst, horigin]
  rfl

theorem pclRdData_delivers {a d : Nat} (hhead : FirstIs n vc 4 p s) (horigin : q.origin = .desc a d) (hlen : 0 < p.data.length)
    (hmax : p.data.length ≤ 512) : Takes n vc (.pclRdData n vc) s fun u => ∃ v, u = reqEnded q v ∧ v.clReqs = (answered n vc p.mtag s).clReqs ∧
      v.routers = (injectEngine (linkRouter q.home (p.mtag % 4)) (readMsg p q a d) s).routers := by
  refine exec_takes (act := fun p => response p (deliverRead p)) rfl hhead ⟨deliverRead p q (answered n vc p.mtag s), response_taken hq hst, ?_, ?_⟩
  · rw [deliverRead_one horigin hlen hmax, clReqs_injectEngine]
  · rw [deliverRead_one horigin hlen hmax, routers_injectEngine_answered]

theorem pclRegRsp_responds {dst op seq : Nat} (hhead : FirstIs n vc 7 p s) (horigin : q.origin = .spReg dst op seq) :
    Takes n vc (.pclRegRsp n vc) s
      (· = reqEnded q (spRespond dst op 0 seq (if op = 2 then leBytes 4 (leNat (p.data.take 4)) else []) (answered n vc p.mtag s))) := by
  refine exec_takes (act := fun p => response p (regResponse p)) rfl hhead ?_
  rw [response_taken hq hst]
  simp only [regResponse, horigin]

section
variable {who : Nat} (hhead : FirstIs n vc 9 p s) (horigin : q.origin = .svc who)
include hhead horigin

theorem svcRsp_answer {image : BitVec 128} {held : Bool} {i : Inst} (hsvc : p.svc = some (.answer image held)) (hi : instAt s who = some i)
    (hphase : i.phase = .query) : Takes n vc (.svcRsp n vc) s fun u => ∃ v, u = reqEnded q v ∧ v.clReqs = (answered n vc p.mtag s).clReqs ∧
      (held = false → v.weights = s.weights) ∧ (held = true → instAt v who = some { i with held := insertAsc q.link i.held }) := by
  obtain ⟨hreqs, hno, hyes⟩ := queryAnswered_records (l := q.link) (held := held) (s := answered n vc p.mtag s)
    ((instAt_congr (weights_answered _) who).trans hi) hphase
  refine exec_takes (act := fun p => response p (svcResponse p)) rfl hhead ⟨queryAnswered who q.link held (answered n vc p.mtag s), ?_, hreqs,
    fun h => (hno h).trans (weights_answered _), hyes⟩
  rw [response_taken hq hst, svcResponse, horigin, hsvc]

theorem svcRsp_payload {image : BitVec 128} {r a o : Nat} {i : Inst} {w : UnitIn} (hsvc : p.svc = some (.payload image r a o))
    (hi : instAt s who = some i) (hcur : i.cur = some w) (hr : w.range = r) (ha : w.unit = a) : Takes n vc (.svcRsp n vc) s fun u =>
      ∃ v, u = reqEnded q v ∧
        instAt v who = some { i with cur := some { w with got := putBytes w.got o p.data, left := w.left - p.data.length } } := by
  refine exec_takes (act := fun p => response p (svcResponse p)) rfl hhead ⟨payloadArrives who r a o p.data (answered n vc p.mtag s), ?_,
    payloadArrives_counts ((instAt_congr (weights_answered _) who).trans hi) hcur hr ha⟩
  rw [response_taken hq hst, svcResponse, horigin, hsvc]

end
end

/-! #### Service requests (R264, R265, R393) -/

section
variable (hhead : FirstIs n vc 8 p s)
include hhead

theorem svcReq_query {image : BitVec 128} {key : DWord} (hsvc : p.svc = some (.query image key)) : Takes n vc (.svcReq n vc) s fun u =>
    ∃ held v, u = svcResp n p 0 [] (.answer image held) v ∧
      (held = true ↔ (holder s image key).isSome = true ∧ ((servedOther s n image key).filter fun e => !servedStale s e).length < 2) ∧
      (held = true → ∃ e ∈ v.weights.serving, servedBy s n image key e = true) := by
  refine exec_takes (act := svcRequest n.val) rfl hhead
    ⟨queryHeld n image key s, queryServed n image key (rxConsume n vc none s), ?_, queryHeld_iff, fun hheld => ?_⟩
  · rw [svcRequest, hsvc]
    exact (answerQuery_eq ..).trans (by rw [queryHeld_rxConsume])
  · rw [← servedBy_rxConsume n vc]
    exact queryServed_serves ((queryHeld_rxConsume ..).trans hheld)

variable {image : BitVec 128} {key : DWord} {r a o len : Nat} (hsvc : p.svc = some (.fetch image key r a o len))
include hsvc

theorem svcReq_fetch_unheld (hholder : holder s image key = none) :
    Takes n vc (.svcReq n vc) s (· = svcResp n p E.unmapped [] (.payload image r a o) (rxConsume n vc none s)) := by
  refine exec_takes (act := svcRequest n.val) rfl hhead ?_
  rw [svcRequest, hsvc]
  exact answerFetch_unheld ((holder_rxConsume ..).trans hholder)

theorem svcReq_fetch_held {m : Nat × Nat} {g : GristImg} {pl : Placed} (hholder : holder s image key = some m)
    (himg : epImg (modelAt s m.1) m.2 = some g) (hplace : gristPlace s m.1 = some pl) : Takes n vc (.svcReq n vc) s fun u =>
      ∃ st data v, u = svcResp n p st data (.payload image r a o) v ∧ data.length ≤ len := by
  refine exec_takes (act := svcRequest n.val) rfl hhead ?_
  rw [svcRequest, hsvc]
  exact answerFetch_held ((holder_rxConsume ..).trans hholder) ((congrArg (epImg · m.2) (modelAt_congr weights_rxConsume _)).trans himg)
    ((gristPlace_rxConsume _).trans hplace)

end
end

/-- Settles O38: each message is taken, checked and acted on as the lemmas above say of its command. -/
theorem chainMessagesAreCheckedServedAndAnswered : Obligations.ChainMessagesAreCheckedServedAndAnswered := by
  unfold Obligations.ChainMessagesAreCheckedServedAndAnswered
  intro s n vc p head c x after k found rest desc
  have hvc : (linkAt s n.val).rx.length = 4 → vc.val < (linkAt s n.val).rx.length := fun hlen => hlen.symm ▸ vc.isLt
  refine ⟨fun now i hi hidle => ?_, ⟨clIns_rxConsume, live_rxConsume, clReqs_rxConsume, fun hlen => rxConsume_credits (hvc hlen)⟩,
    inboundCheck_out, inboundCheck_unmatched, inboundCheck_long, fun a => inboundCheck_ok, fun e => request_refused,
    fun a hhead hok => pclWr_served hok hhead, fun a hhead hok => pclRd_served hok hhead, fun a now hhead hok => pclRegWr_performed hok now hhead,
    fun a hhead hok => pclRegRd_performed hok hhead, fun h => ⟨_, rfl, flushReply_none h⟩, fun id r q hreply hq hop hflush => ?_,
    fun id r r' l q hreply hq hop hflush => ⟨_, rfl, flushReply_earlier hreply hq hop hflush⟩, fun hlate i => response_unasked hlate,
    fun q hq hst i => response_withCode hq hst, fun q a d e hq hst hhead => pclWrAck_counts hq hst hhead,
    fun q a d hq hst hhead => pclRdData_delivers hq hst hhead, fun q dst op seq hq hst hhead => pclRegRsp_responds hq hst hhead,
    fun image key hhead => svcReq_query hhead, fun image key r a o len hhead => svcReq_fetch_unheld hhead,
    fun image key r a o len m g pl hhead hsvc => svcReq_fetch_held hhead hsvc, fun q who image held inst hq hst hhead horigin => svcRsp_answer hq hst hhead horigin,
    fun q who image r a o inst w hq hst hhead horigin => svcRsp_payload hq hst hhead horigin⟩
  · obtain ⟨act, hexec⟩ := exec_message hi
    exact ⟨_, hexec s, takeMsg_idle hidle⟩
  · obtain ⟨u, hu, hins, hflushed, hout⟩ := flushReply_last hreply hq hop hflush
    exact ⟨_, u, rfl, hu, hins, hflushed, hout⟩

end Sys2Proof.Machine
end

section
/-! A step takes the command at the front of the queue; the host's accesses without Memory Space Enable (R357); buckets (R325). -/

namespace Sys2Proof.Machine

open Sys2Proof

theorem step_of_pending {s : State} {c : Instr} {cs : List Instr} (h : s.pending = c :: cs) : step s = exec c { s with pending := cs } := by
  rw [step, h]

/-- Settles O1. -/
theorem stepRunsFront : Obligations.StepRunsFront := fun _ _ _ => step_of_pending rfl

/-- Settles O2. -/
theorem idleOnEmptyQueue : Obligations.IdleOnEmptyQueue := fun s h => by rw [step, h]

/-! ### Accesses of the host (R357) -/

/-- A command that a master sends to the register window does what it does through the window's gate. -/
theorem exec_viaBar {i : Instr} {m : Master} (h : barMaster i = some m) (s : State) : ∃ act : State → State, exec i s = .next (viaBar m act s) := by
  have hwindow : ∀ c act, ∃ act' : State → State, (.next (viaWindow m c act s) : Result) = .next (viaBar m act' s) :=
    fun c act => ⟨_, by rw [viaWindow, onPage]⟩
  cases i <;> simp only [barMaster, Option.some.injEq, reduceCtorEq] at h <;> subst h
  case threadStart | threadStop | coreReset | tagInit => exact hwindow _ _
  all_goals exact ⟨_, rfl⟩

/-- Settles O60: every such command stops at the window's gate. -/
theorem hostAccessesNeedMemorySpace : Obligations.HostAccessesNeedMemorySpace := by
  intro i s hi hspace
  obtain ⟨act, hexec⟩ := exec_viaBar hi s
  have hgate : viaBar .host act s = unsupportedReq s := if_neg (by simp [reaches, hspace])
  exact ⟨hexec.trans (congrArg _ hgate), rfl, rfl, rfl, rfl, rfl, rfl⟩

/-! ### Buckets (R325) -/

/-- The bounds of the buckets but the last. -/
def lowerBounds : List Nat := [128, 512, 2048, 8192, 32768, 131072, 524288]

/-- In a rising list, the first entry above p stands behind those that are not above it. -/
theorem find?_above_eq {l : List Nat} {p : Nat} (h : l.Pairwise (· < ·)) :
    l.find? (p < ·) = l[(l.filter (· ≤ p)).length]? ∧ ∀ (k c : Nat), k < (l.filter (· ≤ p)).length → l[k]? = some c → c ≤ p := by
  induction l with
  | nil => simp
  | cons b l ih =>
    obtain ⟨hb, hl⟩ := List.pairwise_cons.1 h
    by_cases hbp : b ≤ p
    · obtain ⟨hfind, hlow⟩ := ih hl
      refine ⟨by simp [hbp, hfind], fun k c hk hc => ?_⟩
      cases k with
      | zero => simpa using (Option.some.inj hc) ▸ hbp
      | succ k => exact hlow k c (by simpa [hbp] using hk) hc
    · have hnone : (b :: l).filter (· ≤ p) = [] := List.filter_eq_nil_iff.2 fun x hx => by
        have : b ≤ x := (List.mem_cons.1 hx).elim (fun h => h ▸ le_refl _) fun h => (hb x h).le
        simpa using by omega
      rw [hnone]
      exact ⟨by simp [show p < b by omega], by simp⟩

/-- Settles O50: a position that lies above every bound but the last has the last bucket. -/
theorem bucketsOfPositions : Obligations.BucketsOfPositions := by
  unfold Obligations.BucketsOfPositions
  intro bounds p hp
  have hbounds : bounds = lowerBounds ++ [1048576] := rfl
  have hbucket : bucket p = (lowerBounds.filter (· ≤ p)).length := rfl
  have hbound : bucketBound p = (lowerBounds.find? (p < ·)).getD 1048576 := rfl
  have hle : bucket p ≤ lowerBounds.length := List.length_filter_le ..
  obtain ⟨hfind, hlow⟩ := find?_above_eq (p := p) (l := lowerBounds) (by decide)
  have hbelow : ∀ (k c : Nat), k < bucket p → bounds[k]? = some c → c ≤ p := fun k c hk hc =>
    hlow k c hk (by rwa [hbounds, List.getElem?_append_left (by omega)] at hc)
  rw [← hbucket] at hfind
  cases hb : lowerBounds[bucket p]? with
  | none =>
    have hlast : bucket p = lowerBounds.length := by rw [List.getElem?_eq_none_iff] at hb; omega
    exact ⟨1048576, by rw [hbounds, hlast]; rfl, hp, by rw [hbound, hfind, hb]; rfl, hbelow⟩
  | some b =>
    obtain ⟨hlt, -⟩ := List.getElem?_eq_some_iff.1 hb
    refine ⟨b, by rw [hbounds, List.getElem?_append_left hlt, hb], ?_, by rw [hbound, hfind, hb]; rfl, hbelow⟩
    simpa using List.find?_some (hfind.trans hb)

end Sys2Proof.Machine
end

section
/-! The core that takes a lost slot (R490). -/

namespace Sys2Proof.Machine

open Sys2Proof

/-- The comparison that decides which of two free cores a slot prefers, by hop distance. -/
def nearer (c : Nat) (best : Option Nat) (k : Nat) : Option Nat :=
  match best with
  | some b => if hops c k < hops c b then some k else best
  | none => some k

theorem nearest_eq (free : List Nat) (c : Nat) : nearest free c = free.foldl (nearer c) none := rfl

/-- A fold that starts from a core ends with one: that core or one of the list, at no greater distance than any, and the first of those at
its distance. -/
theorem foldl_nearer {c : Nat} {l : List Nat} {b : Nat} (h : (b :: l).Pairwise (· < ·)) :
    ∃ k ∈ b :: l, l.foldl (nearer c) (some b) = some k ∧ ∀ j ∈ b :: l, hops c k ≤ hops c j ∧ (hops c k = hops c j → k ≤ j) := by
  induction l generalizing b with
  | nil => exact ⟨b, by simp, rfl, by simp⟩
  | cons a l ih =>
    obtain ⟨hb, hl⟩ := List.pairwise_cons.1 h
    have hba : b < a := hb a (by simp)
    rw [List.foldl_cons]
    by_cases hless : hops c a < hops c b
    · obtain ⟨k, hk, hfold, hmin⟩ := ih hl
      refine ⟨k, by simp at hk ⊢; tauto, by rw [nearer, if_pos hless]; exact hfold, ?_⟩
      have := (hmin a (by simp)).1
      intro j hj
      rcases List.mem_cons.1 hj with rfl | hj
      · exact ⟨by omega, by omega⟩
      · exact hmin j hj
    · obtain ⟨k, hk, hfold, hmin⟩ := ih (b := b) (List.pairwise_cons.2 ⟨fun x hx => hb x (by simp [hx]), (List.pairwise_cons.1 hl).2⟩)
      refine ⟨k, by simp at hk ⊢; tauto, by rw [nearer, if_neg hless]; exact hfold, ?_⟩
      have hkb := hmin b (by simp)
      intro j hj
      rcases List.mem_cons.1 hj with rfl | hj
      · exact hkb
      rcases List.mem_cons.1 hj with rfl | hj
      · exact ⟨by omega, fun _ => by omega⟩
      · exact hmin j (by simp [hj])

theorem nearest_some {free : List Nat} {c k : Nat} (hsort : free.Pairwise (· < ·)) (h : nearest free c = some k) :
    k ∈ free ∧ ∀ j ∈ free, hops c k ≤ hops c j ∧ (hops c k = hops c j → k ≤ j) := by
  match free with
  | [] => simp [nearest] at h
  | b :: l =>
    obtain ⟨k', hk, hfold, hmin⟩ := foldl_nearer (c := c) hsort
    obtain rfl : k' = k := by rw [nearest_eq, List.foldl_cons, nearer, hfold] at h; exact Option.some.inj h
    exact ⟨hk, hmin⟩

theorem nearest_none {free : List Nat} {c : Nat} (hsort : free.Pairwise (· < ·)) (h : nearest free c = none) : free = [] := by
  match free with
  | [] => rfl
  | b :: l =>
    obtain ⟨k, -, hfold, -⟩ := foldl_nearer (c := c) hsort
    rw [nearest_eq, List.foldl_cons, nearer, hfold] at h
    cases h

/-! ### The free cores of recovery (R490) -/

theorem mem_freeCores {s : State} {f k : Nat} (h : k ∈ freeCores s f) :
    fieldOfCore k = f ∧ k % 4096 < 3840 ∧ coreEnabled s k = true ∧ mfind s.owner k = none := by
  unfold freeCores at h
  split at h
  · cases h
  · obtain ⟨hk, hfree⟩ := List.mem_filter.1 h
    obtain ⟨i, hi, rfl⟩ := List.mem_map.1 hk
    have hi := List.mem_range.1 hi
    simp only [Bool.and_eq_true, Option.isNone_iff_eq_none] at hfree
    obtain ⟨⟨hon, howner⟩, -⟩ := hfree
    exact ⟨by unfold fieldOfCore; omega, by omega, hon, howner⟩

theorem pairwise_freeCores (s : State) (f : Nat) : (freeCores s f).Pairwise (· < ·) := by
  unfold freeCores
  split
  · exact .nil
  · exact (List.pairwise_map.2 (List.pairwise_lt_range.imp fun h => by omega)).filter _

theorem mem_freeEverywhere {s : State} {m k : Nat} (h : k ∈ freeEverywhere s m) :
    fieldOfCore k ∉ barredFields s m (draftsTo s m) ∧ coreEnabled s k = true ∧ fieldSt s (fieldOfCore k) = .on ∧ mfind s.owner k = none ∧
      fieldOfCore k < 80 ∧ k % 4096 < 3840 := by
  obtain ⟨f, hf, hk⟩ := List.mem_flatMap.1 h
  have hf : f < 80 := List.mem_range.1 hf
  split at hk
  · rename_i hopen
    obtain ⟨rfl, hindex, hon, howner⟩ := mem_freeCores hk
    simp only [Bool.and_eq_true, decide_eq_true_eq, Bool.not_eq_true', List.contains_eq_mem, decide_eq_false_iff_not] at hopen
    exact ⟨hopen.2, hon, hopen.1, howner, hf, hindex⟩
  · cases hk

/-- The free cores are listed by rising ID. -/
theorem pairwise_freeEverywhere (s : State) (m : Nat) : (freeEverywhere s m).Pairwise (· < ·) := by
  refine List.pairwise_flatMap.2 ⟨fun f _ => ?_, ?_⟩
  · split
    · exact pairwise_freeCores s f
    · exact .nil
  · refine List.pairwise_lt_range.imp fun {f g} hfg x hx y hy => ?_
    split at hx
    · split at hy
      · have hxf := (mem_freeCores hx).1
        have hyg := (mem_freeCores hy).1
        unfold fieldOfCore at hxf hyg
        omega
      · cases hy
    · cases hx

/-! ### Slots bound anew (R490) -/

theorem mem_without {k j : Nat} {l : List Nat} : j ∈ without k l ↔ j ∈ l ∧ j ≠ k := by simp [without]

/-- Binding slots anew from rising free cores: a slot that is not gone keeps its core, another takes a free core, and what is left was
free. -/
theorem rebindSlots_some {gone : Nat → Bool} {free cs l rest : List Nat} (hsort : free.Pairwise (· < ·)) (h : rebindSlots gone free cs = some (l, rest)) :
    l.length = cs.length ∧ (∀ k ∈ rest, k ∈ free) ∧ (∀ k ∈ l, k ∈ free ∨ k ∈ cs) ∧
      ∀ (i c k : Nat), cs[i]? = some c → l[i]? = some k → if gone c then k ∈ free else k = c := by
  induction cs generalizing free l rest with
  | nil =>
    obtain ⟨rfl, rfl⟩ : [] = l ∧ free = rest := by simpa [rebindSlots] using h
    simp
  | cons c cs ih =>
    rw [rebindSlots] at h
    by_cases hc : gone c = true
    · rw [if_pos hc] at h
      cases hn : nearest free c with
      | none => simp [hn] at h
      | some k =>
        simp only [hn, Option.map_eq_some_iff, Prod.mk.injEq] at h
        obtain ⟨⟨l', rest'⟩, hrec, rfl, rfl⟩ := h
        have hk := (nearest_some hsort hn).1
        obtain ⟨hlen, hrest, hfrom, hslots⟩ := ih (hsort.filter _) hrec
        refine ⟨by simp [hlen], fun j hj => (mem_without.1 (hrest j hj)).1, fun j hj => ?_, fun i d j hd hj => ?_⟩
        · rcases List.mem_cons.1 hj with rfl | hj
          · exact .inl hk
          · exact (hfrom j hj).imp (fun h => (mem_without.1 h).1) (List.mem_cons_of_mem _)
        · cases i with
          | zero =>
            obtain ⟨rfl, rfl⟩ : c = d ∧ k = j := by simpa using And.intro hd hj
            simpa [hc] using hk
          | succ i =>
            have hslot := hslots i d j hd hj
            by_cases hg : gone d = true
            · rw [if_pos hg] at hslot ⊢
              exact (mem_without.1 hslot).1
            · rwa [if_neg hg] at hslot ⊢
    · rw [if_neg hc] at h
      simp only [Option.map_eq_some_iff, Prod.mk.injEq] at h
      obtain ⟨⟨l', rest'⟩, hrec, rfl, rfl⟩ := h
      obtain ⟨hlen, hrest, hfrom, hslots⟩ := ih hsort hrec
      refine ⟨by simp [hlen], hrest, fun j hj => ?_, fun i d j hd hj => ?_⟩
      · rcases List.mem_cons.1 hj with rfl | hj
        · simp
        · exact (hfrom j hj).imp id (List.mem_cons_of_mem _)
      · cases i with
        | zero =>
          obtain ⟨rfl, rfl⟩ : c = d ∧ c = j := by simpa using And.intro hd hj
          simp [hc]
        | succ i => exact hslots i d j hd hj

/-- The cores that slots take are theirs alone: none is left for another slot, and none is taken twice. -/
theorem rebindSlots_taken {gone : Nat → Bool} {free cs l rest : List Nat} (hsort : free.Pairwise (· < ·)) (hcs : ∀ c ∈ cs, c ∉ free)
    (h : rebindSlots gone free cs = some (l, rest)) : (∀ k ∈ rest, k ∉ l) ∧ (l.filter fun k => free.contains k).Nodup := by
  induction cs generalizing free l rest with
  | nil =>
    obtain ⟨rfl, rfl⟩ : [] = l ∧ free = rest := by simpa [rebindSlots] using h
    simp
  | cons c cs ih =>
    obtain ⟨hcfree, hcs⟩ := List.forall_mem_cons.1 hcs
    rw [rebindSlots] at h
    by_cases hc : gone c = true
    · rw [if_pos hc] at h
      cases hn : nearest free c with
      | none => simp [hn] at h
      | some k =>
        simp only [hn, Option.map_eq_some_iff, Prod.mk.injEq] at h
        obtain ⟨⟨l', rest'⟩, hrec, rfl, rfl⟩ := h
        have hk := (nearest_some hsort hn).1
        obtain ⟨-, hrest, hfrom, -⟩ := rebindSlots_some (hsort.filter _) hrec
        obtain ⟨hleft, hnodup⟩ := ih (hsort.filter _) (fun d hd hmem => hcs d hd (mem_without.1 hmem).1) hrec
        have hkl : k ∉ l' := fun hmem => (hfrom k hmem).elim (fun h => (mem_without.1 h).2 rfl) fun h => hcs k h hk
        refine ⟨fun j hj hmem => ?_, ?_⟩
        · rcases List.mem_cons.1 hmem with rfl | hmem
          · exact (mem_without.1 (hrest _ hj)).2 rfl
          · exact hleft j hj hmem
        · have hsame : (l'.filter fun j => free.contains j) = l'.filter fun j => (without k free).contains j :=
            List.filter_congr fun j hj => by
              have hjk : j ≠ k := fun h => hkl (h ▸ hj)
              simp [without, hjk]
          rw [List.filter_cons_of_pos (by simpa using hk), hsame]
          exact List.nodup_cons.2 ⟨fun hmem => hkl (List.mem_filter.1 hmem).1, hnodup⟩
    · rw [if_neg hc] at h
      simp only [Option.map_eq_some_iff, Prod.mk.injEq] at h
      obtain ⟨⟨l', rest'⟩, hrec, rfl, rfl⟩ := h
      obtain ⟨-, hrest, -⟩ := rebindSlots_some hsort hrec
      obtain ⟨hleft, hnodup⟩ := ih hsort hcs hrec
      refine ⟨fun j hj hmem => ?_, ?_⟩
      · rcases List.mem_cons.1 hmem with rfl | hmem
        · exact hcfree (hrest _ hj)
        · exact hleft j hj hmem
      · rwa [List.filter_cons_of_neg (by simpa using hcfree)]

/-- Binding fails only where the free cores run out. -/
theorem rebindSlots_none {gone : Nat → Bool} {free cs : List Nat} (hsort : free.Pairwise (· < ·)) (h : rebindSlots gone free cs = none) :
    free.length < (cs.filter fun c => gone c).length := by
  induction cs generalizing free with
  | nil => simp [rebindSlots] at h
  | cons c cs ih =>
    rw [rebindSlots] at h
    by_cases hc : gone c = true
    · rw [if_pos hc] at h
      rw [List.filter_cons_of_pos hc, List.length_cons]
      cases hn : nearest free c with
      | none => simp [nearest_none hsort hn]
      | some k =>
        simp only [hn, Option.map_eq_none_iff] at h
        have hrec : (without k free).length < (cs.filter fun c => gone c).length := ih (hsort.filter _) h
        have herase : without k free = free.erase k := by
          rw [List.Nodup.erase_eq_filter (hsort.imp fun h => h.ne)]
          exact List.filter_congr fun j _ => by rw [Bool.eq_iff_iff]; simp
        rw [herase, List.length_erase_of_mem (nearest_some hsort hn).1] at hrec
        have := List.length_pos_of_mem (nearest_some hsort hn).1
        change free.length < (cs.filter fun c => gone c).length + 1
        omega
    · rw [if_neg hc, Option.map_eq_none_iff] at h
      rw [List.filter_cons_of_neg hc]
      exact ih hsort h

/-- Settles O55. -/
theorem slotsRebindToTheNearestCore : Obligations.SlotsRebindToTheNearestCore := by
  unfold Obligations.SlotsRebindToTheNearestCore
  intro s m taken gone free
  have hsort : free.Pairwise (· < ·) := (pairwise_freeEverywhere s m).filter _
  refine ⟨fun k hk => mem_freeEverywhere hk, fun c h => nearest_none hsort h, fun c k h => nearest_some hsort h, fun cs l rest hcs h => ?_,
    fun cs h => rebindSlots_none hsort h⟩
  obtain ⟨hlen, hrest, -, hslots⟩ := rebindSlots_some hsort h
  obtain ⟨hleft, hnodup⟩ := rebindSlots_taken hsort hcs h
  exact ⟨hlen, fun k hk => ⟨hrest k hk, hleft k hk⟩, hnodup, hslots⟩

end Sys2Proof.Machine
end

section
/-! A replay that ends is a recorded event, and a record may send a vector: the link's claim that a taken flit sends nothing fails (R366, R377). -/

namespace Sys2Proof.Machine

open Sys2Proof

/-- The vectors that are requested and not masked leave in their order (R366). -/
theorem out_sendDue {s : State} (hup : s.host.up = true) :
    (sendDue s).out = s.out ++ ([0, 1, 2, 3].filter fun v => bit (s.host.pba &&& ~~~s.host.msixMask) v).map fun v => .msix v (s.host.msix.getD v ⟨0, 0⟩) := by
  have hfold : ∀ (l : List Nat) (go : BitVec 4) (u : State),
      (l.foldl (fun s v => if bit go v then emit (.msix v (s.host.msix.getD v ⟨0, 0⟩)) s else s) u).out =
        u.out ++ (l.filter fun v => bit go v).map fun v => .msix v (u.host.msix.getD v ⟨0, 0⟩) := by
    intro l go
    induction l with
    | nil => intro u; simp
    | cons v l ih =>
      intro u
      rw [List.foldl_cons, ih]
      cases hv : bit go v <;> simp [hv]
  rw [sendDue, if_pos hup]
  exact hfold _ _ _

/-- A cause of vector 1 that is new, enabled and not masked is sent at once (R366). -/
theorem out_raiseIrq_one {s : State} (hup : s.host.up = true) (hmask : s.host.msixMask = 0) (hpba : s.host.pba = 0)
    (hnew : bit (live s pIrq 0x800) 1 = false) (hen : bit (live s pIrq 0x40) 1 = true) :
    (raiseIrq 1 s).out = s.out ++ [.msix 1 (s.host.msix.getD 1 ⟨0, 0⟩)] := by
  have hlive : bit (live (setLive pIrq 0x800 (withBits (live s pIrq 0x800) 1 1 1) s) pIrq 0x40) 1 = true := by
    rw [live_setLive_off _ _ (by decide) (by decide) (by decide), hen]
  rw [raiseIrq, if_neg (by simp [hnew]), if_pos hlive]
  refine (out_sendDue (by exact hup)).trans ?_
  simp only [setLive_host, setLive_out, hpba, hmask]
  rfl

/-- The first error of a page without errors is a cause of vector 1 (R365). -/
theorem out_recordErr_first {s : State} {p : Nat} (c : Code) (w : Word) (hup : s.host.up = true) (hmask : s.host.msixMask = 0) (hpba : s.host.pba = 0)
    (hnew : bit (live s pIrq 0x800) 1 = false) (hen : bit (live s pIrq 0x40) 1 = true) (herr : (sumGroup p).any (errValid s) = false)
    (hp : errValid s p = false) : (recordErr p c w s).out = s.out ++ [.msix 1 (s.host.msix.getD 1 ⟨0, 0⟩)] := by
  have hlive : ∀ v u a, a < 4096 → a ≠ 0x10 → a ≠ 0x14 → live (setLive p 0x14 v (setLive p 0x10 u s)) pIrq a = live s pIrq a := by
    intro v u a ha _ _
    rw [live_setLive_off _ _ (by decide) ha (by omega), live_setLive_off _ _ (by decide) ha (by omega)]
  rw [recordErr, if_neg (by simp [hp]), if_neg (by simp [herr]), out_raiseIrq_one]
  all_goals simp [*]

/-- Link 0 is UP and waits for flit 0 to be sent again; the host link is up and no vector is masked. -/
def linkAwaitingReplay : State :=
  { State.reset with
    links := [(0, { Link.reset with st := .up, nakFor := some 0 })]
    host := { HostIf.reset with up := true, msixMask := 0 } }

/-- The flit that ends the replay, without corrected codewords. -/
def replayedFlit : LinkFlit := ⟨[], 0⟩

/-- Taking that flit records CHAIN_REPLAY, and the record raises vector 1, which leaves at once. -/
theorem out_flitTaken_replayed : (flitTaken 0 0 (fecCorrected 0 replayedFlit.corrected linkAwaitingReplay)).out = [.msix 1 ⟨0, 0⟩] :=
  out_recordErr_first (s := (freshWord (countUp (pLink 0) 0x804 31 16 1 (fecCorrected 0 0 linkAwaitingReplay))).2) (p := pLink 0) E.chainReplay
    ((freshWord (countUp (pLink 0) 0x804 31 16 1 (fecCorrected 0 0 linkAwaitingReplay))).1.setWidth 32)
    rfl rfl rfl (by decide +kernel) (by decide +kernel) (by decide +kernel) (by decide +kernel)

/-- Refutes O37: a flit that ends an outstanding NAK is recorded as a replay (R377), and the record's interrupt leaves as MSI-X vector 1,
so that `u.out = s.out` fails though no ACK is due. -/
theorem not_chainLinksTrainFailAndCountFlits : ¬ Obligations.ChainLinksTrainFailAndCountFlits := by
  intro h
  obtain ⟨-, -, -, -, -, -, -, -, -, -, -, htaken, -⟩ := h linkAwaitingReplay 0
  obtain ⟨-, -, -, -, -, -, hquiet, -⟩ := htaken replayedFlit 0 (by decide)
  have hout : (flitTaken 0 0 (fecCorrected 0 replayedFlit.corrected linkAwaitingReplay)).out = [] := (hquiet (by decide)).2
  rw [out_flitTaken_replayed] at hout
  cases hout

/-! ### The calibration of a partner is covered (R471, R475) -/

/-- Converter 160 is in entry 512 of a running pass, and its partner 161, whose sequence has two entries, has failed. -/
def passBeyondTheList : State :=
  { State.reset with
    convs := [(160, { Conv.reset with job := .regular 512, running := true }), (161, { Conv.reset with failed := true })]
    live := [(regKey (pTel 161) 0x40, 0x00020000)] }

theorem passBeyondTheList_covers : convDark passBeyondTheList 160 = false ∧ (convAt passBeyondTheList 160).job = .regular 512 ∧
    seqInput passBeyondTheList 160 512 ≠ 15 ∧ (convAt passBeyondTheList 160).running = true ∧ seqLen passBeyondTheList 160 ≤ 512 + 1 ∧
    covering passBeyondTheList 160 = true ∧ 0 < seqLen passBeyondTheList (partner 160) := by decide +kernel

/-- The result of entry 512 goes to the partner's TEL_CTRL and makes its sequence empty: nothing is left to cover, and the pass ends. -/
theorem conversionDone_passBeyondTheList : (convAt (conversionDone 160 0 0 passBeyondTheList) 160).job = .idle := by decide +kernel

/-- Refutes O44: the entry number of a regular conversion is not bounded in the state. Entry 512 of converter 160 has its result register at offset
0x840 + 4 * 512 of page 0x3C, which is TEL_CTRL of page 0x3D, the partner's. The written result holds 0 in the partner's RSEQ_LEN, and the
converter does not go on with the partner's sequence. -/
theorem not_convertersConvertInjectAndCalibrate : ¬ Obligations.ConvertersConvertInjectAndCalibrate := by
  intro h
  obtain ⟨-, hregular, -⟩ := h passBeyondTheList 160
  obtain ⟨hpower, hjob, hinput, hrunning, hlast, hcover, hpartner⟩ := passBeyondTheList_covers
  obtain ⟨t, hexec, -, -, -, -, -, hcovers⟩ := hregular 0 0 512 hpower hjob hinput
  obtain rfl : conversionDone 160 0 0 passBeyondTheList = t := Host.Outcome.next.inj hexec
  have hfor : (convAt (conversionDone 160 0 0 passBeyondTheList) 160).job = .regularFor 0 := hcovers (by decide) hrunning hlast hcover hpartner
  rw [conversionDone_passBeyondTheList] at hfor
  cases hfor

end Sys2Proof.Machine

end

section
/-! Calibrated results (R469): the rounding, and the result registers, which nothing but a result writes. -/

namespace Sys2Proof.Machine

open Sys2Proof

/-! ### To nearest, ties to even -/

/-- The quotient that is rounded is nearest, and even where two are equally near. -/
theorem roundDiv_nearest (a : Nat) : let r := roundDiv a (2 ^ 15)
    2 * a ≤ r * 2 ^ 16 + 2 ^ 15 ∧ r * 2 ^ 16 ≤ 2 * a + 2 ^ 15 ∧ (r * 2 ^ 16 + 2 ^ 15 = 2 * a ∨ r * 2 ^ 16 = 2 * a + 2 ^ 15 → r % 2 = 0) := by
  simp only [roundDiv]
  split_ifs <;> omega

/-- What the calibrated code is held from: the nearest whole number, on either side of zero. -/
theorem calibrate_nearest (raw : Nat) (ofs : BitVec 8) (gain : BitVec 16) : ∃ r : Int,
    let num : Int := ((raw : Int) - ofs.toInt) * gain.toNat
    2 * num - 2 ^ 15 ≤ r * 2 ^ 16 ∧ r * 2 ^ 16 ≤ 2 * num + 2 ^ 15 ∧
    (r * 2 ^ 16 = 2 * num - 2 ^ 15 ∨ r * 2 ^ 16 = 2 * num + 2 ^ 15 → r % 2 = 0) ∧ (calibrate raw ofs gain : Int) = min 4095 (max 0 r) := by
  by_cases hd : (raw : Int) - ofs.toInt ≤ 0
  · obtain ⟨k, hk⟩ := Int.eq_ofNat_of_zero_le (a := -((raw : Int) - ofs.toInt)) (by omega)
    have hnum : ((raw : Int) - ofs.toInt) * gain.toNat = -((k * gain.toNat : Nat) : Int) := by
      rw [show (raw : Int) - ofs.toInt = -(k : Int) by omega]
      push_cast
      ring
    have hnear := roundDiv_nearest (k * gain.toNat)
    refine ⟨-(roundDiv (k * gain.toNat) (2 ^ 15) : Int), ?_⟩
    simp only [hnum, calibrate, if_pos hd] at hnear ⊢
    generalize k * gain.toNat = a at hnear ⊢
    generalize roundDiv a (2 ^ 15) = r at hnear ⊢
    omega
  · obtain ⟨k, hk⟩ := Int.eq_ofNat_of_zero_le (a := (raw : Int) - ofs.toInt) (by omega)
    have hnum : ((raw : Int) - ofs.toInt) * gain.toNat = ((k * gain.toNat : Nat) : Int) := by rw [hk]; push_cast; rfl
    have hnear := roundDiv_nearest (k * gain.toNat)
    refine ⟨(roundDiv (k * gain.toNat) (2 ^ 15) : Int), ?_⟩
    have hcode : calibrate raw ofs gain = Nat.min 4095 (roundDiv (k * gain.toNat) (2 ^ 15)) := by
      rw [calibrate, if_neg hd, hk, Int.toNat_natCast]
    simp only [hnum, hcode] at hnear ⊢
    generalize k * gain.toNat = a at hnear ⊢
    generalize roundDiv a (2 ^ 15) = r at hnear ⊢
    have hmin : Nat.min 4095 r = min 4095 r := rfl
    omega

theorem calibrate_lt (raw : Nat) (ofs : BitVec 8) (gain : BitVec 16) : calibrate raw ofs gain < 4096 := by
  simp only [calibrate]
  split
  · decide
  · exact Nat.lt_succ_of_le (Nat.min_le_left ..)

/-- Bits 11..0 of a result word are its code (R479). -/
theorem bits_resultWord (covered : Bool) (input pass : Nat) {code : Nat} (h : code < 4096) : bits (resultWord covered input pass code) 11 0 = code := by
  rw [bits, resultWord, BitVec.toNat_ofNat]
  cases covered <;> simp only [b2n] <;> omega

/-! ### The result registers (R479) -/

/-- The registers between 0x840 and 0x8BF of every page. -/
def resultRegs (s : State) : Nat → Nat → Word := fun q a => if 0x840 ≤ a ∧ a < 0x8C0 then live s q a else 0

theorem live_of_resultRegs {s t : State} (h : resultRegs t = resultRegs s) (q : Nat) {a : Nat} (ha : 0x840 ≤ a ∧ a < 0x8C0) : live t q a = live s q a := by
  have hqa := congrFun (congrFun h q) a
  rwa [resultRegs, resultRegs, if_pos ha, if_pos ha] at hqa

theorem resultRegs_congr {s t : State} (h : ∀ q a, 0x840 ≤ a → a < 0x8C0 → live t q a = live s q a) : resultRegs t = resultRegs s := by
  funext q a
  unfold resultRegs
  split
  · next ha => exact h q a ha.1 ha.2
  · rfl

theorem resultRegs_setLive {off : Nat} (p : Nat) (v : Word) (s : State) (h : off < 0x840 ∨ 0x8C0 ≤ off ∧ off < 4096) :
    resultRegs (setLive p off v s) = resultRegs s :=
  resultRegs_congr fun _ _ _ _ => live_setLive_off v s (by omega) (by omega) (by omega)

theorem resultRegs_recordErrAny (p : Nat) (c : Code) (s : State) : resultRegs (recordErrAny p c s) = resultRegs s :=
  resultRegs_congr fun _ _ _ _ => live_recordErr_ne p c _ _ (by omega) (by omega) (by omega) (by omega)

theorem resultRegs_updConv (n : Nat) (f : Conv → Conv) (s : State) : resultRegs (updConv n f s) = resultRegs s := rfl

theorem resultRegs_telEvent (n i : Nat) (s : State) : resultRegs (telEvent n i s) = resultRegs s := resultRegs_setLive _ _ _ (by decide)

theorem resultRegs_startRecal (n : Nat) (s : State) : resultRegs (startRecal n s) = resultRegs s := by
  unfold startRecal
  dsimp only
  split_ifs <;> rfl

theorem resultRegs_plausHold (n : Nat) (v : Bool) (s : State) : resultRegs (plausHold n v s) = resultRegs s := by
  unfold plausHold
  split <;> rfl

theorem resultRegs_logTransient (c : Code) (kind unit : Nat) (s : State) : resultRegs (logTransient c kind unit s) = resultRegs s :=
  resultRegs_setLive _ _ _ (by decide)

theorem resultRegs_stageSixFails (s : State) : resultRegs (stageSixFails s) = resultRegs s := by
  unfold stageSixFails
  split <;> rfl

theorem resultRegs_plausFails (n : Nat) (s : State) : resultRegs (plausFails n s) = resultRegs s := by
  have hrec : resultRegs (recordErrAny (pTel (partner n)) E.telemPlausFail (recordErrAny (pTel n) E.telemPlausFail
      (telEvent (partner n) 3 (telEvent n 3 s)))) = resultRegs s := by
    rw [resultRegs_recordErrAny, resultRegs_recordErrAny, resultRegs_telEvent, resultRegs_telEvent]
  unfold plausFails
  dsimp only
  split_ifs
  · exact (resultRegs_plausHold ..).trans hrec
  · exact (resultRegs_plausHold ..).trans hrec
  · exact (resultRegs_stageSixFails _).trans hrec
  · exact (resultRegs_stageSixFails _).trans hrec

theorem resultRegs_plausPasses (n : Nat) (s : State) : resultRegs (plausPasses n s) = resultRegs s := by
  unfold plausPasses
  dsimp only
  split_ifs
  · rw [resultRegs_plausHold, resultRegs_logTransient, resultRegs_updConv]
  · exact resultRegs_plausHold ..

theorem resultRegs_plausCheck (n code now : Nat) (s : State) : resultRegs (plausCheck n code now s) = resultRegs s := by
  have hput : ∀ d, resultRegs (setLive (pTel (partner n)) 0x818 d (setLive (pTel n) 0x818 d s)) = resultRegs s := fun d => by
    rw [resultRegs_setLive _ _ _ (by decide), resultRegs_setLive _ _ _ (by decide)]
  unfold plausCheck
  dsimp only
  split
  · split_ifs
    · exact (resultRegs_plausFails ..).trans (hput _)
    · exact (resultRegs_plausPasses ..).trans (hput _)
    · rfl
  · rfl

/-! ### What follows a result -/

theorem resultRegs_startPass (n now : Nat) (s : State) : resultRegs (startPass n now s) = resultRegs s := by
  unfold startPass
  split <;> rfl

theorem resultRegs_passDone (n now : Nat) (s : State) : resultRegs (passDone n now s) = resultRegs s := by
  unfold passDone
  dsimp only
  split_ifs
  · rfl
  · exact resultRegs_startPass ..
  · rfl
  · exact resultRegs_telEvent ..

theorem resultRegs_afterRegular (n k now : Nat) (s : State) : resultRegs (afterRegular n k now s) = resultRegs s := by
  unfold afterRegular
  dsimp only
  split_ifs
  · rfl
  · rfl
  · rfl
  · exact resultRegs_passDone ..

theorem resultRegs_afterCovered (n k now : Nat) (s : State) : resultRegs (afterCovered n k now s) = resultRegs s := by
  unfold afterCovered
  split
  · rfl
  · exact resultRegs_passDone ..

theorem resultRegs_goOn (n now : Nat) (s : State) : resultRegs (goOn n now s) = resultRegs s := by
  unfold goOn
  dsimp only
  split
  · rfl
  · split
    · exact resultRegs_startPass ..
    · split
      · split
        · exact resultRegs_startPass ..
        · rfl
      · rfl

theorem resultRegs_injectedDone (n now : Nat) (s : State) : resultRegs (injectedDone n now s) = resultRegs s := by
  unfold injectedDone
  dsimp only
  split
  · rfl
  · exact resultRegs_goOn ..

theorem resultRegs_afterInjected (n k now : Nat) (s : State) : resultRegs (afterInjected n k now s) = resultRegs s := by
  have hdone : resultRegs (telEvent n 1 (countUp (pTel n) 0x814 31 16 1 s)) = resultRegs s :=
    (resultRegs_telEvent ..).trans (resultRegs_setLive _ _ _ (by decide))
  unfold afterInjected
  dsimp only
  split_ifs
  · rfl
  · exact hdone
  · exact (resultRegs_injectedDone ..).trans hdone

theorem resultRegs_afterInjCovered (n k now : Nat) (s : State) : resultRegs (afterInjCovered n k now s) = resultRegs s := by
  unfold afterInjCovered
  split
  · rfl
  · exact (resultRegs_injectedDone ..).trans (resultRegs_telEvent ..)

/-! ### Results are written -/

/-- A regular result stands in its entry's register, with its code in bits 11..0. -/
theorem liveF_regularResult {n k by_ raw now : Nat} {s : State} (hk : k < 16) (hres : inputReserved n (seqInput s n k) = false) :
    liveF (regularResult n k by_ raw now s) (pTel n) (0x840 + 4 * k) 11 0 = calibrate raw (convAt s by_).ofs (convAt s by_).gain := by
  set w := resultWord (n != by_) (seqInput s n k) (convAt s n).passes (calibrate raw (convAt s by_).ofs (convAt s by_).gain) with hw
  have hregs : resultRegs (regularResult n k by_ raw now s) = resultRegs (setLive (pTel n) (0x840 + 4 * k) w s) := by
    unfold regularResult
    simp only [hres, Bool.false_eq_true, if_false]
    split_ifs
    · exact resultRegs_plausCheck ..
    · exact resultRegs_plausCheck ..
    · rfl
    · rfl
  rw [liveF, live_of_resultRegs hregs _ (by omega), live_setLive_same, hw, bits_resultWord _ _ _ (calibrate_lt ..)]

/-- An injected result stands in its entry's register. -/
theorem liveF_injectedResult {n k by_ raw : Nat} {s : State} (hres : inputReserved n (injInput s n k) = false) :
    liveF (injectedResult n k by_ raw s) (pTel n) (0x880 + 4 * k) 11 0 = calibrate raw (convAt s by_).ofs (convAt s by_).gain := by
  unfold injectedResult
  simp only [hres, Bool.false_eq_true, if_false]
  rw [liveF, live_setLive_same, bits_resultWord _ _ _ (calibrate_lt ..)]

theorem liveF_of_resultRegs {s t : State} (h : resultRegs t = resultRegs s) (q hi lo : Nat) {a : Nat} (ha : 0x840 ≤ a ∧ a < 0x8C0) :
    liveF t q a hi lo = liveF s q a hi lo := by rw [liveF, liveF, live_of_resultRegs h q ha]

/-- Settles O54: what follows a result leaves the result registers. -/
theorem resultsAreCalibrated : Obligations.ResultsAreCalibrated := by
  refine ⟨calibrate_nearest, fun n => ⟨rfl, rfl⟩, fun s m raw now k hpower hk => ⟨?_, ?_, ?_, ?_⟩⟩
  · intro hjob _ hres
    refine ⟨_, rfl, ?_⟩
    rw [conversionDone, if_neg (by simp [hpower]), hjob]
    exact (liveF_of_resultRegs ((resultRegs_startRecal ..).trans (resultRegs_afterRegular ..)) _ _ _ (by omega)).trans (liveF_regularResult hk hres)
  · intro hjob _ hres
    refine ⟨_, rfl, ?_⟩
    rw [conversionDone, if_neg (by simp [hpower]), hjob]
    exact (liveF_of_resultRegs ((resultRegs_startRecal ..).trans (resultRegs_afterCovered ..)) _ _ _ (by omega)).trans (liveF_regularResult hk hres)
  · intro hjob hk4 hres
    refine ⟨_, rfl, ?_⟩
    rw [conversionDone, if_neg (by simp [hpower]), hjob]
    exact (liveF_of_resultRegs (resultRegs_afterInjected ..) _ _ _ (by omega)).trans (liveF_injectedResult hres)
  · intro hjob hk4 hres
    refine ⟨_, rfl, ?_⟩
    rw [conversionDone, if_neg (by simp [hpower]), hjob]
    exact (liveF_of_resultRegs (resultRegs_afterInjCovered ..) _ _ _ (by omega)).trans (liveF_injectedResult hres)

end Sys2Proof.Machine

end

section
/-! Streams and prefix entries: what ending a stream and detaching entries leave as it was (R309, R320, R332). -/

namespace Sys2Proof.Machine

open Sys2Proof

/-! ### Streams -/

theorem streamAt_setStream (i j : Nat) (x : Stream) (s : State) : streamAt (setStream i x s) j = if i = j then x else streamAt s j := mget_mset ..

theorem streamAt_setStream_same (i : Nat) (x : Stream) (s : State) : streamAt (setStream i x s) i = x := by rw [streamAt_setStream, if_pos rfl]

theorem streamAt_setStream_ne {i j : Nat} (h : i ≠ j) (x : Stream) (s : State) : streamAt (setStream i x s) j = streamAt s j := by
  rw [streamAt_setStream, if_neg h]

theorem streamAt_congr {s t : State} (h : t.serving.streams = s.serving.streams) (i : Nat) : streamAt t i = streamAt s i := by rw [streamAt, streamAt, h]

/-- The engine without what a stream holds: streams, prefix entries, models and adapters, sessions. -/
def offStream (s : State) : State :=
  { s with serving := { s.serving with streams := [], px := [] }, weights := .reset, sec := { s.sec with sessions := [] } }

theorem offStream_setStream (i : Nat) (x : Stream) (s : State) : offStream (setStream i x s) = offStream s := rfl
theorem offStream_updStream (i : Nat) (f : Stream → Stream) (s : State) : offStream (updStream i f s) = offStream s := rfl
theorem offStream_updModel (m : Nat) (f : Model → Model) (s : State) : offStream (updModel m f s) = offStream s := rfl
theorem offStream_freeFrame (m : Nat) (stack : Bool) (k : Nat) (s : State) : offStream (freeFrame m stack k s) = offStream s := rfl
theorem offStream_freeStage (i m : Nat) (s : State) : offStream (freeStage i m s) = offStream s := rfl
theorem offStream_setSession (h : Nat) (x : Session) (s : State) : offStream (setSession h x s) = offStream s := rfl

theorem offStream_pxRelease (i : Nat) (s : State) : offStream (pxRelease i s) = offStream s := by
  unfold pxRelease
  split
  · split <;> rfl
  · rfl

theorem offStream_releaseKv (i m : Nat) (draft : Bool) (s : State) : offStream (releaseKv i m draft s) = offStream s := by
  have hblocks : ∀ l : Map Frame, offStream (l.foldl (fun s e => if e.2.shared then s else freeFrame m e.2.stack e.2.num s) s) = offStream s := fun l =>
    foldl_same (g := offStream) (fun s e => by split <;> rfl) l s
  unfold releaseKv
  dsimp only
  rw [offStream_updStream, subReserved, offStream_updModel, foldl_same (g := offStream) fun s e => offStream_pxRelease e s]
  split
  · exact (offStream_freeFrame ..).trans (hblocks _)
  · exact hblocks _

/-- A stream that becomes FREE changes what it holds, and nothing else. -/
theorem offStream_freeStream (i : Nat) (s : State) : offStream (freeStream i s) = offStream s := by
  have hadapter : offStream (match (streamAt s i).ad with | some a => adapterRef a.1 false s | none => s) = offStream s := by
    split <;> rfl
  unfold freeStream
  dsimp only
  rw [offStream_setStream]
  split_ifs <;> simp only [offStream_setSession, offStream_freeStage, offStream_releaseKv] <;> exact hadapter

theorem streamAt_freeStream_same (i : Nat) (s : State) : ∃ x : Stream, streamAt (freeStream i s) i = x ∧ x.st = .free ∧ x.lastCode = (streamAt s i).lastCode ∧
    x.sumSeen = (streamAt s i).sumSeen := ⟨_, streamAt_setStream_same .., rfl, rfl, rfl⟩

/-- A stream without a step in flight that is neither FREE nor ENDING becomes FREE when it ends (R309). -/
theorem endStream_frees {i : Nat} {s : State} (hfree : (streamAt s i).st ≠ .free) (hending : (streamAt s i).st ≠ .ending) (hrun : (streamAt s i).run = none)
    (c : Code) : endStream i c s = freeStream i s := by
  unfold endStream
  simp only [hrun]
  split <;> simp_all

/-- One with a step in flight becomes ENDING. -/
theorem endStream_ends {i : Nat} {s : State} (hfree : (streamAt s i).st ≠ .free) (hending : (streamAt s i).st ≠ .ending) (hrun : (streamAt s i).run ≠ none)
    (c : Code) : endStream i c s = updStream i (fun x => { x with st := .ending, endCode := c, joined := none }) s := by
  unfold endStream
  simp only [Option.isSome_iff_ne_none.2 hrun]
  split <;> simp_all

/-! ### Prefix entries (R332) -/

theorem pxAt_setPx (i j : Nat) (e : Option PxEntry) (s : State) : pxAt (setPx i e s) j = if i = j then e else pxAt s j := by
  cases e with
  | none => exact mfind_mdel ..
  | some x => exact mfind_mput ..

theorem pxAt_freeFrame (m : Nat) (stack : Bool) (k : Nat) (s : State) (j : Nat) : pxAt (freeFrame m stack k s) j = pxAt s j := rfl

/-- Counting children changes no entry's model or state. -/
theorem pxAt_pxChild {k j : Nat} {up : Bool} {s : State} {e' : PxEntry} (h : pxAt (pxChild k up s) j = some e') :
    ∃ e, pxAt s j = some e ∧ e.model = e'.model ∧ e.st = e'.st := by
  unfold pxChild at h
  split at h
  · next e hk =>
    rw [pxAt_setPx] at h
    split at h
    · next hkj =>
      obtain rfl : _ = e' := Option.some.inj h
      exact ⟨e, hkj ▸ hk, rfl, rfl⟩
    · exact ⟨e', h, rfl, rfl⟩
  · exact ⟨e', h, rfl, rfl⟩

/-- After an entry is detached it is not LIVE, and the others keep their model and state. -/
theorem pxAt_pxDetach {i j : Nat} {s : State} {e' : PxEntry} (h : pxAt (pxDetach i s) j = some e') :
    (e'.st = .live → i ≠ j) ∧ ∃ e, pxAt s j = some e ∧ e.model = e'.model ∧ (e'.st = .live → e.st = .live) := by
  unfold pxDetach at h
  split at h
  · next e hi =>
    split at h
    · next hst =>
      refine ⟨?_, e', h, rfl, id⟩
      rintro hlive rfl
      rw [hi] at h
      exact hst (Option.some.inj h ▸ hlive)
    · dsimp only at h
      split at h
      · rw [pxAt_freeFrame, pxAt_setPx] at h
        split at h
        · cases h
        · next hij =>
          obtain ⟨d, hd, hmodel, hst⟩ := pxAt_pxChild h
          exact ⟨fun _ => hij, d, hd, hmodel, fun hlive => hst.trans hlive⟩
      · rw [pxAt_setPx] at h
        split at h
        · next hij =>
          subst hij
          obtain rfl := Option.some.inj h
          refine ⟨by simp, e, hi, ?_, by simp⟩
          cases hget : pxAt (pxChild e.parent false s) i with
          | none => rfl
          | some d =>
            obtain ⟨e0, he0, hmodel, -⟩ := pxAt_pxChild hget
            rw [hi] at he0
            exact (Option.some.inj he0 ▸ hmodel : _)
        · next hij =>
          obtain ⟨d, hd, hmodel, hst⟩ := pxAt_pxChild h
          exact ⟨fun _ => hij, d, hd, hmodel, fun hlive => hst.trans hlive⟩
  · next hi =>
    refine ⟨?_, e', h, rfl, id⟩
    rintro - rfl
    rw [hi] at h
    cases h

/-- A LIVE entry after some are detached was LIVE, of the same model, and is none of them. -/
theorem pxAt_foldl_pxDetach {j : Nat} {e' : PxEntry} (l : List (Nat × PxEntry)) (s : State)
    (h : pxAt (l.foldl (fun s e => pxDetach e.1 s) s) j = some e') (hlive : e'.st = .live) :
    j ∉ l.map (·.1) ∧ ∃ e, pxAt s j = some e ∧ e.model = e'.model ∧ e.st = .live := by
  induction l generalizing s with
  | nil => exact ⟨List.not_mem_nil, e', h, rfl, hlive⟩
  | cons a l ih =>
    obtain ⟨hj, e, he, hmodel, hst⟩ := ih _ h
    obtain ⟨hne, d, hd, hdmodel, hdst⟩ := pxAt_pxDetach he
    refine ⟨?_, d, hd, hdmodel.trans hmodel, hdst hst⟩
    rw [List.map_cons, List.mem_cons, not_or]
    exact ⟨(hne hst).symm, hj⟩

/-- After the entries of a model are detached none of them is LIVE (R332). -/
theorem pxDetachAll_model {k j : Nat} {s : State} {e : PxEntry} (h : pxAt (pxDetachAll (fun e => e.model == k) s) j = some e) (hmodel : e.model = k) :
    e.st ≠ .live := by
  intro hlive
  obtain ⟨hj, d, hd, hdmodel, -⟩ := pxAt_foldl_pxDetach _ s h hlive
  exact hj (List.mem_map.2 ⟨(j, d), List.mem_filter.2 ⟨mem_of_mfind hd, by simp [hdmodel, hmodel]⟩, rfl⟩)

theorem streams_pxDetach (i : Nat) (s : State) : (pxDetach i s).serving.streams = s.serving.streams := by
  have hchild : ∀ k up (s : State), (pxChild k up s).serving.streams = s.serving.streams := fun k up s => by
    unfold pxChild
    split <;> rfl
  unfold pxDetach
  split
  · split
    · rfl
    · dsimp only
      split <;> exact hchild ..
  · rfl

theorem streams_pxDetachAll (p : PxEntry → Bool) (s : State) : (pxDetachAll p s).serving.streams = s.serving.streams :=
  foldl_same (g := fun s => s.serving.streams) (fun _ _ => streams_pxDetach ..) ..

/-! ### The words of an entry (R283) -/

theorem streamCode_lt (c : StreamSt) : streamCode c < 8 := by cases c <;> decide
theorem holdCode_lt (h : Hold) : holdCode h < 8 := by cases h <;> decide

/-- Word 0: state, epoch, model, tenant, adapter and step do not overlap. -/
theorem bits_streamWord_0 {c ep model tenant ad step : Nat} (hc : c < 8) (hep : ep < 2) (hm : model < 64) (ht : tenant < 256) (had : ad < 2 ^ 46) (hlow : ad % 2 ^ 32 = 0)
    (hstep : step < 2 ^ 32) : let w := BitVec.ofNat 64 (2 ^ 61 * c + 2 ^ 60 * ep + 2 ^ 54 * model + 2 ^ 46 * tenant + ad + step)
    bits w 63 61 = c ∧ bits w 60 60 = ep ∧ bits w 59 54 = model ∧ bits w 53 46 = tenant ∧ bits w 31 0 = step := by
  simp only [bits, BitVec.toNat_ofNat]
  omega

/-- Word 2: hold reason, SUM_SEEN and the next beat. -/
theorem bits_streamWord_2 {h sum beat : Nat} (hh : h < 8) (hsum : sum < 256) (hbeat : beat < 2 ^ 48) :
    let w := BitVec.ofNat 64 (2 ^ 60 * h + 2 ^ 48 * sum + beat)
    bits w 63 60 = h ∧ bits w 55 48 = sum ∧ bits w 47 0 = beat := by
  simp only [bits, BitVec.toNat_ofNat]
  omega

/-- Word 3: code, sequence numbers and session. -/
theorem bits_streamWord_3 {c req sel session : Nat} (hc : c < 65536) (hreq : req < 65536) (hsel : sel < 65536) (hs : session < 65536) :
    let w := BitVec.ofNat 64 (2 ^ 48 * c + 2 ^ 32 * req + 2 ^ 16 * sel + session)
    bits w 63 48 = c ∧ bits w 47 32 = req ∧ bits w 31 16 = sel ∧ bits w 15 0 = session := by
  simp only [bits, BitVec.toNat_ofNat]
  omega

/-- Where an entry's adapter stands in word 0. -/
theorem adapterBits_fit {ad : Option (Nat × Nat)} (h : ∀ a, ad = some a → a.1 < 1024 ∧ a.2 < 65536) :
    (match ad with | some a => 2 ^ 45 + 2 ^ 35 * a.1 | none => 0) < 2 ^ 46 ∧ (match ad with | some a => 2 ^ 45 + 2 ^ 35 * a.1 | none => 0) % 2 ^ 32 = 0 := by
  cases ad with
  | none => decide
  | some a =>
    have ha := (h a rfl).1
    dsimp only
    omega

/-! ### ST_CMD.END (R309, R312) -/

/-- The result of ST_CMD.END is reported as the stream's latest code, whether it waits for room or not. -/
theorem streamAt_cmdResult (i : Nat) (c : Code) (ended : Bool) (s : State) : streamAt (cmdResult i c ended s) i = { streamAt s i with lastCode := c } := by
  unfold cmdResult
  split <;> exact streamAt_updStream ..

theorem queue_freeStream (i : Nat) (s : State) : (freeStream i s).serving.queue = s.serving.queue :=
  (congrArg (fun s => s.serving.queue) (offStream_freeStream i s) :)

/-- With room the result is queued. -/
theorem queue_cmdResult {i : Nat} {c : Code} {ended : Bool} {s : State} (hlate : s.serving.late = []) (hroom : canHold s 64 = true) :
    (cmdResult i c ended s).serving.queue = s.serving.queue ++ [plainEntry s i 5 c 0 ended] := by
  rw [cmdResult, if_pos ⟨by rw [hlate]; rfl, hroom⟩]
  rfl

/-- Settles O35. -/
theorem servingRegistersSelectAndEnd : Obligations.ServingRegistersSelectAndEnd := by
  intro s m hreach
  have hpage : ∀ {p off : Nat} (act : State → State), pageDark s p = false → onPage m p off act s = act s := fun _ => onPage_acts hreach
  refine ⟨fun i => ?_, fun i => ?_, fun i => ?_, ?_, ?_⟩
  · refine ⟨stSel i.val s, _, _, _, _, congrArg Host.Outcome.next (hpage _ rfl), rfl, live_setLive_same .., fun hep hm ht hstep had => ?_, fun hsum => ?_,
      fun hreq hsel hs => ?_⟩
    · exact bits_streamWord_0 (streamCode_lt _) hep hm ht (adapterBits_fit had).1 (adapterBits_fit had).2 hstep
    · exact bits_streamWord_2 (holdCode_lt _) hsum (BitVec.isLt _)
    · exact bits_streamWord_3 (BitVec.isLt _) hreq hsel hs
  · refine ⟨pxSel i s, congrArg Host.Outcome.next (hpage _ rfl), live_setLive_same .., rfl, rfl, fun hnone => ?_, fun e he => ?_⟩
    · simp only [pxSel, hnone, updServing]
    · simp only [pxSel, he, updServing]
  · refine ⟨specSel i.val s, congrArg Host.Outcome.next (hpage _ rfl), rfl, ?_, fun hspec => ?_, fun hspec => ?_⟩
    · exact (live_setLive_off _ _ (by decide) (by decide) (by decide)).trans (live_setLive_same ..)
    all_goals
      refine (live_setLive_same ..).trans ?_
      rw [hspec]
      rfl
  · set i := bits (live s 0x11 0x800) 11 0 with hi
    refine ⟨stCmdEnd s, congrArg Host.Outcome.next (hpage _ rfl), fun hfree => ?_, fun hfree hending hrun => ?_, fun hfree hending hrun => ?_⟩
    · have hact : stCmdEnd s = cmdResult i E.streamState false s := if_pos hfree
      rw [hact, streamAt_cmdResult]
      exact ⟨rfl, hfree⟩
    · have hat := streamAt_cmdResult i 0 true s
      have hact : stCmdEnd s = freeStream i (cmdResult i 0 true s) := by
        refine (if_neg hfree).trans ?_
        rw [endStream_frees] <;> simp only [liveF, ← hi, hrun, Option.isNone_none, hat, ne_eq, hfree, hending, not_false_eq_true]
      rw [hact]
      obtain ⟨x, hx, hst, hcode, -⟩ := streamAt_freeStream_same i (cmdResult i 0 true s)
      rw [hx, hcode, hat]
      refine ⟨hst, rfl, fun hlate hroom => ⟨plainEntry s i 5 0 0 true, ?_, rfl, rfl, rfl, rfl⟩⟩
      rw [queue_freeStream, queue_cmdResult hlate hroom]
    · have hat := streamAt_cmdResult i 0 false s
      have hact : stCmdEnd s = updStream i (fun x => { x with st := .ending, endCode := 0, joined := none }) (cmdResult i 0 false s) := by
        refine (if_neg hfree).trans ?_
        have hnone : (streamAt s i).run.isNone = false := by simpa [Option.isSome_iff_ne_none] using hrun
        rw [endStream_ends] <;> simp only [liveF, ← hi, hnone, hat, ne_eq, hfree, hending, hrun, not_false_eq_true]
      rw [hact, streamAt_updStream, hat]
      exact ⟨rfl, rfl⟩
  · exact ⟨flushModel s, congrArg Host.Outcome.next (hpage _ rfl), streams_pxDetachAll .., fun j e he hmodel => pxDetachAll_model he hmodel⟩

end Sys2Proof.Machine

end

section
/-! The host interface: the link, requests to host memory, exchange memory and vectors (R354, R357, R360 to R367). -/

namespace Sys2Proof.Machine

open Sys2Proof

/-! ### What a record leaves of the host interface -/

/-- The host interface without the vectors that are pending. -/
def sansPba (s : State) : HostIf := { s.host with pba := 0 }

theorem sansPba_sendDue (s : State) : sansPba (sendDue s) = sansPba s := by
  have hfold : ∀ (l : List Nat) (go : BitVec 4) (u : State),
      sansPba (l.foldl (fun s v => if bit go v then emit (.msix v (s.host.msix.getD v ⟨0, 0⟩)) s else s) u) = sansPba u := fun l go u =>
    foldl_same (g := sansPba) (fun s v => by split <;> rfl) l u
  unfold sendDue
  split
  · exact hfold ..
  · rfl

theorem sansPba_raiseIrq (v : Nat) (s : State) : sansPba (raiseIrq v s) = sansPba s := by
  unfold raiseIrq
  dsimp only
  split
  · rfl
  · split
    · exact (sansPba_sendDue _).trans rfl
    · rfl

theorem sansPba_recordErr (p : Nat) (c : Code) (info : Word) (s : State) : sansPba (recordErr p c info s) = sansPba s := by
  unfold recordErr
  split
  · rfl
  · dsimp only
    split
    · rfl
    · exact sansPba_raiseIrq ..

theorem sansPba_recordErrAny (p : Nat) (c : Code) (s : State) : sansPba (recordErrAny p c s) = sansPba s := sansPba_recordErr ..

/-- A field of the host interface that is not the pending vectors. -/
theorem host_of_sansPba {α : Type} {s t : State} (h : sansPba t = sansPba s) (f : HostIf → α) (hf : ∀ x b, f { x with pba := b } = f x) : f t.host = f s.host := by
  rw [← hf t.host 0, ← hf s.host 0]
  exact congrArg f h

theorem bit_raiseIrq (v : Fin 4) (s : State) : bit (live (raiseIrq v.val s) pIrq 0x800) v.val = true := by
  have hv := v.isLt
  have hset : bit (withBits (live s pIrq 0x800) v.val v.val 1) v.val = true := by
    rw [bit, getLsbD_withBits, if_pos ⟨Nat.le_refl _, by omega⟩]
    simp
    omega
  unfold raiseIrq
  dsimp only
  split
  · next h => exact h
  · split
    · rw [live_congr (live_sendDue _)]
      exact (congrArg (bit · v.val) (live_setLive_same ..)).trans hset
    · exact (congrArg (bit · v.val) (live_setLive_same ..)).trans hset

/-- A register that is not BLK_ERR keeps the page's VALID. -/
theorem errValid_setLive {off : Nat} (p q : Nat) (v : Word) (s : State) (hoff : off < 4096) (hne : off ≠ 0x10) : errValid (setLive p off v s) q = errValid s q := by
  rw [errValid, live_setLive_off _ _ hoff (by decide) hne, errValid]

theorem errValid_raiseIrq (v q : Nat) (s : State) : errValid (raiseIrq v s) q = errValid s q := by
  rw [errValid, live_raiseIrq _ _ (by decide) (by decide), errValid]

theorem errValid_recordErrAny (p : Nat) (c : Code) (s : State) : errValid (recordErrAny p c s) p = true := errValid_recordErr ..

/-- The code that a page shows once it has recorded its first error. -/
theorem bits_recordErrAny {p : Nat} (c : Code) {s : State} (h : errValid s p = false) : bits (live (recordErrAny p c s) p 0x10) 15 0 = c.toNat := by
  have hc := c.isLt
  have hcode : live (recordErrAny p c s) p 0x10 = BitVec.ofNat 32 (2 ^ 31 + c.toNat) := live_recordErr_code (s := (freshWord s).2) h
  rw [hcode, bits, BitVec.toNat_ofNat]
  omega

/-! ### Requests -/

/-- A request that is taken leaves the list; with none waiting nothing else goes out. -/
theorem takeHostReq_some {s : State} {id : Nat} {q : HostReq} (hq : s.host.reqs.find? (·.id == id) = some q) (hwait : s.host.waiting = []) :
    takeHostReq id s = some (q, updHost (fun h => { h with reqs := h.reqs.filter (·.id != id) }) s) := by
  simp only [takeHostReq, hq, updHost, hwait, issueLines]

theorem takeHostReq_none {s : State} {id : Nat} (hq : s.host.reqs.find? (·.id == id) = none) : takeHostReq id s = none := by
  simp only [takeHostReq, hq]

/-- An access after one of its requests, with what it has read or with the failure. -/
def jobAfter (q : HostReq) (ok : Bool) (l : List Byte) (j : HostJob) : HostJob :=
  { j with got := if q.write then j.got else j.got ++ [(q.id, l)], left := j.left - 1, failed := j.failed || !ok }

theorem lineDone_last {s : State} {q : HostReq} {ok : Bool} {l : List Byte} {j : HostJob} (hj : s.host.jobs.find? (·.id == q.job) = some j) (hleft : j.left = 1) :
    lineDone q ok l s = (some (jobAfter q ok l j), updHost (fun h => { h with jobs := h.jobs.filter (·.id != j.id) }) s) := by
  simp only [lineDone, hj, hleft, jobAfter]
  rfl

theorem lineDone_more {s : State} {q : HostReq} {ok : Bool} {l : List Byte} {j : HostJob} (hj : s.host.jobs.find? (·.id == q.job) = some j) (hleft : 2 ≤ j.left) :
    lineDone q ok l s = (none, updHost (fun h => { h with jobs := h.jobs.map fun k => if k.id = j.id then jobAfter q ok l j else k }) s) := by
  simp only [lineDone, hj]
  rw [if_neg (by omega)]
  rfl

theorem hostAnswers_takes {s t : State} {id : Nat} {q : HostReq} {l : List Byte} (htake : takeHostReq id s = some (q, t)) (hready : hostReady s = true)
    (hline : q.write = false → l.length = 64) : hostAnswers id q.write l s = lineEnds q true ((l.drop (q.addr % 64)).take q.len) t := by
  rw [hostAnswers, htake]
  refine if_neg ?_
  rintro (h | ⟨hw, hl⟩ | h)
  · exact h rfl
  · exact hl (hline hw)
  · simp [hready] at h

/-- The lines of a range that is one line. -/
theorem linesOfRange_one {a : Nat} (h : a % 64 = 0) : linesOfRange a 64 = [(0, 64)] := by
  simp [linesOfRange, piecesOf, pieces, h]

/-- A line's access is one request, which goes out at once where none waits. -/
theorem hostSend_one {w : HostWho} {write : Bool} {o a : Nat} {l : List Byte} {s : State} (hwait : s.host.waiting = []) (hroom : s.host.reqs.length < 1024) (ha : a % 64 = 0) :
    let q : HostReq := ⟨s.host.nextReq + 1, write, s.host.nextReq, o, a, 64, l.take 64⟩
    hostSend w write o a 64 l s = sendLine q (updHost (fun h => { h with reqs := h.reqs ++ [q], waiting := [] })
      (updHost (fun h => { h with nextReq := h.nextReq + 1 + 1, jobs := h.jobs ++ [⟨h.nextReq, w, [], 1, false⟩], waiting := [q] }) s)) := by
  simp only [hostSend, linesOfRange_one ha, updHost, hwait, List.length_singleton, List.nil_append, List.range_one, List.zip_cons_cons, List.zip_nil_right, List.map_cons,
    List.map_nil, issueLines, if_pos hroom, Nat.add_zero, List.drop_zero]

/-! ### Exchange memory (R363) -/

theorem exchRead_eq (s : State) (a n : Nat) : exchRead s a n = (List.range n).map fun i => mget 0 s.exch (a + i) := by
  induction n generalizing a with
  | zero => rfl
  | succ n ih =>
    rw [exchRead, ih, List.range_succ_eq_map, List.map_cons, List.map_map]
    exact congrArg₂ List.cons rfl (List.map_congr_left fun i _ => by simp [Nat.add_assoc, Nat.add_comm 1 i])

/-- Bytes written are what a read of them returns. -/
theorem exchRead_exchWrite (a : Nat) (l : List Byte) (s : State) : exchRead (exchWrite a l s) a l.length = l := by
  rw [exchRead_eq]
  refine List.ext_getElem (by simp) fun i hi hl => ?_
  rw [List.getElem_map, List.getElem_range]
  exact mget_writeBytes_inside _ _ _ _ hl

/-- An access beyond the range, or interleaved, is an HDM error. -/
theorem hdmAccess_refused {s : State} {a len : Nat} {w : Option (List Byte)} {x : Bool} (hup : s.host.up = true) (hhdm : s.host.hdmOn = true)
    (hbad : x = true ∨ 0x10000000 < a + (match w with | some l => List.length l | none => len)) : hdmAccess a len w x s = emit .hdmError s := by
  rcases w with _ | l
  · obtain rfl | hbad := hbad
    · simp [hdmAccess, hup, hhdm]
    · simp [hdmAccess, exchSize, hup, hhdm, show 0x10000000 < a + len from hbad]
  · obtain rfl | hbad := hbad
    · simp [hdmAccess, hup, hhdm]
    · simp [hdmAccess, exchSize, hup, hhdm, show 0x10000000 < a + l.length from hbad]

/-! ### The parts of the statement -/

theorem hostFail_host (req off : Nat) (s : State) : sansPba (hostFail E.hostAccessFail req off s) = { sansPba s with lastFail := (off, req) } := by
  unfold hostFail
  dsimp only
  rw [sansPba_recordErrAny]
  rfl

theorem notices_recordErrAny (p : Nat) (c : Code) (s : State) : (recordErrAny p c s).notices = s.notices :=
  (congrArg State.notices (offRegs_recordErrAny p c s) :)

theorem notices_hostFail (req off : Nat) (s : State) : (hostFail E.hostAccessFail req off s).notices = s.notices := notices_recordErrAny ..

/-- The failure of an access's last request notifies the write's origin (R361, R362). -/
theorem hostReqFails_last {s : State} {id : Nat} {q : HostReq} {j : HostJob} {o : Origin} {n : Nat} (hq : s.host.reqs.find? (·.id == id) = some q) (hwait : s.host.waiting = [])
    (hj : s.host.jobs.find? (·.id == q.job) = some j) (hleft : j.left = 1) (hwho : j.who = .put o n) (ho : o ≠ .none) : let t := hostReqFails id s
    t.host.reqs = s.host.reqs.filter (·.id != id) ∧ errValid t 0x20 = true ∧ t.host.lastFail = (q.off, 3) ∧ t.notices = s.notices ++ [⟨o, E.hostAccessFail, 0⟩] := by
  set u := updHost (fun h => { h with reqs := h.reqs.filter (·.id != id) }) s with hu
  set v := hostFail E.hostAccessFail 3 q.off u with hv
  have hhost := hostFail_host 3 q.off u
  have hjobs : v.host.jobs = s.host.jobs := (congrArg HostIf.jobs hhost :)
  have hends : hostReqFails id s = notify o E.hostAccessFail 0 (updHost (fun h => { h with jobs := h.jobs.filter (·.id != j.id) }) v) := by
    have hwhoq : reqCode (((u.host.jobs.find? (·.id == q.job)).map (·.who)).getD .entry) = 3 := by rw [show u.host.jobs = s.host.jobs from rfl, hj, Option.map_some, hwho]; rfl
    simp only [hostReqFails, takeHostReq_some hq hwait, ← hu]
    rw [lineEnds, if_neg (by decide), hwhoq, ← hv, lineDone_last (hjobs ▸ hj) hleft]
    simp [jobEnds, jobAfter, hwho]
  rw [hends, notify, if_neg ho]
  refine ⟨?_, ?_, ?_, ?_⟩
  · exact (congrArg HostIf.reqs hhost :)
  · exact errValid_recordErrAny ..
  · exact (congrArg HostIf.lastFail hhost :)
  · exact congrArg (· ++ _) (notices_hostFail 3 q.off u)

/-- The vectors that unmasking one sends (R366). -/
theorem unmasked_filter (pba : BitVec 4) (v : Fin 4) (h : bit pba v.val = true) :
    [0, 1, 2, 3].filter (fun k => bit (pba &&& ~~~withBits (0xF : BitVec 4) v.val v.val 0) k) = [v.val] := by
  revert pba v
  decide

theorem bit_unmasked (mask : BitVec 4) (v : Fin 4) : bit (withBits mask v.val v.val 0) v.val = false := by
  revert mask v
  decide

theorem bit_pending_unmasked (pba mask : BitVec 4) (v : Fin 4) : bit (pba &&& withBits mask v.val v.val 0) v.val = false := by
  revert pba mask v
  decide

theorem sendDue_down {s : State} (h : s.host.up = false) : sendDue s = s := by rw [sendDue, h]; rfl

/-- The requested vectors that stay pending are those that are masked. -/
theorem pba_sendDue {s : State} (h : s.host.up = true) : (sendDue s).host.pba = s.host.pba &&& s.host.msixMask := by
  have hfold : ∀ (l : List Nat) (go : BitVec 4) (u : State),
      (l.foldl (fun s v => if bit go v then emit (.msix v (s.host.msix.getD v ⟨0, 0⟩)) s else s) u).host.pba = u.host.pba := fun l go u =>
    foldl_same (g := fun s => s.host.pba) (fun s v => by split <;> rfl) l u
  rw [sendDue, if_pos h]
  exact hfold ..

theorem msixUnmask_spec (s : State) (v : Fin 4) : let t := msixUnmask v.val s
    bit t.host.msixMask v.val = false ∧ (s.host.up = true → bit t.host.pba v.val = false) ∧
    (s.host.up = true → s.host.msixMask = 0xF → bit s.host.pba v.val = true → t.out = s.out ++ [.msix v.val (s.host.msix.getD v.val ⟨0, 0⟩)]) ∧
    (s.host.up = false → t.out = s.out ∧ t.host.pba = s.host.pba) := by
  have hmask : (msixUnmask v.val s).host.msixMask = withBits s.host.msixMask v.val v.val 0 :=
    (congrArg HostIf.msixMask (sansPba_sendDue { s with host := { s.host with msixMask := withBits s.host.msixMask v.val v.val 0 } }) :)
  refine ⟨hmask ▸ bit_unmasked .., fun hup => ?_, fun hup hF hpend => ?_, fun hup => ?_⟩
  · rw [msixUnmask, pba_sendDue (by exact hup)]
    exact bit_pending_unmasked ..
  · rw [msixUnmask]
    refine (out_sendDue (by exact hup)).trans (congrArg (s.out ++ ·) ?_)
    simp only [hF, unmasked_filter _ v hpend, List.map_singleton]
  · rw [msixUnmask, sendDue_down (by exact hup)]
    exact ⟨rfl, rfl⟩

/-- HOST_LINK_DOWN of a link that is up: what stands before the outstanding requests fail (R364). -/
def linkTakenDown (c : DownCause) (s : State) : State :=
  countUp pHost 0x80C 31 16 1 (recordErrAny pHost E.hostLinkDown (ideEnds (updHost (fun h => { h with up := false, rate := 0, width := 0, lopt := false, wentDown := true })
    (updHost (configAfter c) s))))

theorem hostLinkDown_up {c : DownCause} {s : State} (h : s.host.up = true) :
    hostLinkDown c s = recordsStop (s.host.reqs.foldl (fun s q => hostReqFails q.id s) (linkTakenDown c s)) := by
  simp only [hostLinkDown, h, linkTakenDown, Bool.not_true, Bool.false_eq_true, if_false]

theorem linkTakenDown_spec (c : DownCause) (s : State) : let u := linkTakenDown c s
    sansPba u = { configAfter c s.host with up := false, rate := 0, width := 0, lopt := false, wentDown := true, ideIo := false, ideCm := false, pba := 0 } ∧
    errValid u 0x20 = true ∧ u.exch = s.exch := by
  refine ⟨(sansPba_recordErrAny ..).trans rfl, ?_, ?_⟩
  · exact (errValid_setLive _ _ _ _ (by decide) (by decide)).trans (errValid_recordErrAny ..)
  · exact (congrArg State.exch (offRegs_recordErrAny pHost E.hostLinkDown _) :)

theorem configAfter_reqs (c : DownCause) (h : HostIf) : (configAfter c h).reqs = h.reqs := by cases c <;> rfl

/-- An answer that is the last of its access, or not the last. -/
theorem hostAnswers_last {s : State} {id : Nat} {q : HostReq} {j : HostJob} (hq : s.host.reqs.find? (·.id == id) = some q) (hwait : s.host.waiting = [])
    (hj : s.host.jobs.find? (·.id == q.job) = some j) (hready : hostReady s = true) {l : List Byte} (hline : q.write = false → l.length = 64) (hleft : j.left = 1) :
    hostAnswers id q.write l s = jobEnds (jobAfter q true ((l.drop (q.addr % 64)).take q.len) j)
      { s with host := { s.host with reqs := s.host.reqs.filter (·.id != id), jobs := s.host.jobs.filter (·.id != j.id) } } := by
  rw [hostAnswers_takes (takeHostReq_some hq hwait) hready hline, lineEnds]
  dsimp only
  rw [if_pos rfl, lineDone_last (by exact hj) hleft]
  rfl

theorem hostAnswers_more {s : State} {id : Nat} {q : HostReq} {j : HostJob} (hq : s.host.reqs.find? (·.id == id) = some q) (hwait : s.host.waiting = [])
    (hj : s.host.jobs.find? (·.id == q.job) = some j) (hready : hostReady s = true) {l : List Byte} (hline : q.write = false → l.length = 64) (hleft : 2 ≤ j.left) :
    hostAnswers id q.write l s = { s with host := { s.host with
      reqs := s.host.reqs.filter (·.id != id),
      jobs := s.host.jobs.map fun k => if k.id = j.id then jobAfter q true ((l.drop (q.addr % 64)).take q.len) j else k } } := by
  rw [hostAnswers_takes (takeHostReq_some hq hwait) hready hline, lineEnds]
  dsimp only
  rw [if_pos rfl, lineDone_more (by exact hj) hleft]
  rfl

/-- An access of reads with one more line. -/
theorem jobAfter_read {q : HostReq} {j : HostJob} (hq : q.write = false) (l : List Byte) :
    jobAfter q true l j = { j with got := j.got ++ [(q.id, l)], left := j.left - 1 } := by
  simp only [jobAfter, hq, Bool.not_true, Bool.or_false, Bool.false_eq_true, if_false]

theorem hostLinkTrain_spec {s : State} {lopt std : Bool} (rate width : Nat) (hup : s.host.up = false) (hready : s.boot.serviceReady = true) (hmode : (lopt || std) = true) :
    let t := hostLinkTrain lopt std rate width s
    t.host.up = true ∧ t.host.rate = rate ∧ t.host.width = width ∧ t.host.lopt = lopt ∧ t.host.reqs = s.host.reqs := by
  set h := { s.host with up := true, rate := rate, width := width, lopt := lopt, wentDown := false } with hh
  have hhost : sansPba (hostLinkTrain lopt std rate width s) = { h with pba := 0 } := by
    have hm : (!lopt && !std) = false := by rw [← Bool.not_or, hmode]; rfl
    have hs : ∀ u : State, sansPba (emit (.presents (fnIdentity u)) (sendDue (countUp pHost 0x200 31 16 1 { s with host := h }))) = { h with pba := 0 } := fun u =>
      (sansPba_sendDue _).trans rfl
    simp only [hostLinkTrain, hup, hready, hm, Bool.not_true, Bool.or_false, Bool.false_eq_true, if_false]
    split
    · exact (sansPba_raiseIrq ..).trans (hs _)
    · exact hs _
  exact ⟨(congrArg HostIf.up hhost :), (congrArg HostIf.rate hhost :), (congrArg HostIf.width hhost :), (congrArg HostIf.lopt hhost :), (congrArg HostIf.reqs hhost :)⟩

/-- Settles O36: each row through its own lemma above. -/
theorem hostInterfaceServesTheHost : Obligations.HostInterfaceServesTheHost := by
  intro s h
  refine ⟨fun rate width hup hready => ?_, fun lopt std rate width hup hready hmode => ?_, fun lopt std rate width hstays => ?_, fun c hup hreqs => ?_, fun c hup => ?_,
    fun c hup => ?_, ⟨rfl, rfl, rfl, rfl, rfl, rfl⟩, fun g => ?_, fun hup => ?_, fun id q j l hq hwait hj => ?_, fun id l hq i hi => ?_,
    fun w o a l hready hwait hroom ha hl => ?_, ⟨_, rfl, rfl⟩, fun a len l hup hhdm hfit => ?_, fun a len hup hhdm hfit => ?_, fun a len w x hup hhdm hbad => ?_,
    fun m v hreach => ?_, fun v => ⟨_, rfl, msixUnmask_spec s v⟩, fun hide => ?_, fun hio hcm => ?_⟩
  · have hact : hostLinkTrain false false (rate.val + 1) (width.val + 1) s = recordErrAny pHost E.hostLinkMode s := by
      simp only [hostLinkTrain, show s.host.up = false from hup, hready]
      rfl
    refine ⟨_, congrArg Host.Outcome.next hact, ?_, ?_, errValid_recordErrAny .., bits_recordErrAny _⟩
    · exact (host_of_sansPba (sansPba_recordErrAny ..) HostIf.up fun _ _ => rfl).trans hup
    · exact host_of_sansPba (sansPba_recordErrAny ..) HostIf.reqs fun _ _ => rfl
  · exact ⟨_, rfl, hostLinkTrain_spec _ _ hup hready hmode⟩
  · refine ⟨_, rfl, if_pos ?_⟩
    obtain hup | hready := hstays
    · rw [show s.host.up = true from hup, Bool.true_or]
    · rw [hready, Bool.not_false, Bool.or_true]
  · obtain ⟨hhost, herr, hexch⟩ := linkTakenDown_spec c s
    have hfield : ∀ {α : Type} (f : HostIf → α), (∀ x b, f { x with pba := b } = f x) → f (linkTakenDown c s).host =
        f { configAfter c s.host with up := false, rate := 0, width := 0, lopt := false, wentDown := true, ideIo := false, ideCm := false, pba := 0 } := fun f hf => by
      rw [← hf _ 0]
      exact congrArg f hhost
    refine ⟨_, linkTakenDown c s, congrArg Host.Outcome.next (hostLinkDown_up hup), ?_, ?_, ?_, herr, ?_, ?_, ?_, hexch⟩
    · rw [show s.host.reqs = [] from hreqs]
      rfl
    · exact hfield HostIf.up fun _ _ => rfl
    · exact ((hfield HostIf.reqs fun _ _ => rfl).trans (configAfter_reqs ..)).trans hreqs
    · have hcache := hfield HostIf.cacheEn fun _ _ => rfl
      have hhdm := hfield HostIf.hdmOn fun _ _ => rfl
      have hspace := hfield HostIf.memSpace fun _ _ => rfl
      have hmask := hfield HostIf.msixMask fun _ _ => rfl
      rintro (rfl | rfl) <;> exact ⟨hcache, hhdm, hspace, hmask⟩
    · have hcache := hfield HostIf.cacheEn fun _ _ => rfl
      have hspace := hfield HostIf.memSpace fun _ _ => rfl
      rintro (rfl | rfl) <;> exact ⟨hcache, hspace⟩
    · rintro rfl
      exact hfield HostIf.memSpace fun _ _ => rfl
  · obtain ⟨hhost, -, -⟩ := linkTakenDown_spec c s
    exact ⟨_, linkTakenDown c s, congrArg Host.Outcome.next (hostLinkDown_up hup), rfl, (congrArg HostIf.up hhost :),
      ((congrArg HostIf.reqs hhost :) : (linkTakenDown c s).host.reqs = _).trans (configAfter_reqs ..)⟩
  · refine congrArg Host.Outcome.next ?_
    simp only [hostLinkDown, show s.host.up = false from hup]
    rfl
  · refine ⟨_, rfl, fun hup => ?_, fun hup => ?_⟩
    · rw [hostLinkUp, if_neg (by simp [show s.host.up = false from hup])]
    · rw [hostLinkUp, if_pos hup]
      have hhost := sansPba_sendDue (updHost (fun h => { h with
        cacheEn := g.cacheEn, hdmOn := g.hdmOn, memSpace := g.memSpace, msix := g.msix.toList, msixMask := g.mask, aer := h.aer &&& ~~~g.aerClear }) s)
      exact ⟨(congrArg HostIf.cacheEn hhost :), (congrArg HostIf.hdmOn hhost :), (congrArg HostIf.memSpace hhost :), (congrArg HostIf.msix hhost :),
        (congrArg HostIf.msixMask hhost :), (congrArg HostIf.aer hhost :), live_sendDue _⟩
  · refine ⟨_, rfl, ?_⟩
    rw [hostLinkRecovery, if_pos hup]
    exact ⟨bit_raiseIrq 3 _, (host_of_sansPba (sansPba_raiseIrq ..) HostIf.up fun _ _ => rfl).trans hup⟩
  · refine ⟨fun hw hl hready => ⟨fun m k hleft hok hwho => ?_, fun hleft => ?_⟩, fun o n hw hready hleft hok hwho => ?_, fun o n hleft hwho ho i hi => ?_⟩
    · have hans := hostAnswers_last (l := l) hq hwait hj hready (fun _ => hl) hleft
      rw [hw, jobAfter_read hw, hleft] at hans
      refine congrArg Host.Outcome.next (hans.trans ?_)
      simp only [jobEnds, hwho, hok, Bool.false_eq_true, if_false]
      rfl
    · have hans := hostAnswers_more (l := l) hq hwait hj hready (fun _ => hl) hleft
      rw [hw, jobAfter_read hw] at hans
      exact congrArg Host.Outcome.next hans
    · have hans := hostAnswers_last (l := []) hq hwait hj hready (fun h => by simp [hw] at h) hleft
      rw [hw] at hans
      refine congrArg Host.Outcome.next (hans.trans ?_)
      simp only [jobEnds, jobAfter, hwho, hok, Bool.not_true, Bool.or_false, Bool.false_eq_true, if_false]
      rfl
    · have hfails := hostReqFails_last hq hwait hj hleft hwho ho
      simp only [List.mem_cons, List.not_mem_nil, or_false] at hi
      obtain rfl | rfl := hi <;> exact ⟨_, rfl, hfails⟩
  · have htake := takeHostReq_none hq
    have hans : ∀ w, hostAnswers id w l s = s ∧ hostAnswers id w [] s = s := fun w => by simp only [hostAnswers, htake, and_self]
    have hfail : hostReqFails id s = s := by simp only [hostReqFails, htake]
    simp only [List.mem_cons, List.not_mem_nil, or_false] at hi
    obtain rfl | rfl | rfl | rfl := hi
    · exact congrArg Host.Outcome.next (hans false).1
    · exact congrArg Host.Outcome.next (hans true).2
    · exact congrArg Host.Outcome.next hfail
    · exact congrArg Host.Outcome.next hfail
  · have hsent : ∀ (q : HostReq) (u : State), u.out = s.out → hostReady u = hostReady s → q.len = 64 →
        (sendLine q u).out = s.out ++ [if q.write then .itoMWr q.id (q.addr / 64) q.data else .rdCurr q.id (q.addr / 64)] := fun q u hout hu hlen => by
      rw [sendLine, hu, hready, if_neg (by decide)]
      cases hq : q.write
      · exact congrArg (· ++ _) hout
      · rw [if_neg (by decide), if_pos hlen]
        exact congrArg (· ++ _) hout
    rw [hostSend_one hwait hroom ha, hostSend_one hwait hroom ha, List.take_of_length_le (by omega)]
    exact ⟨hsent _ _ rfl rfl rfl, hsent _ _ rfl rfl rfl⟩
  · refine ⟨exchWrite a l s, congrArg Host.Outcome.next ?_, rfl, exchRead_exchWrite .., fun b hb => mget_writeBytes_outside _ _ _ _ hb⟩
    simp [hdmAccess, exchSize, show s.host.up = true from hup, show s.host.hdmOn = true from hhdm, Nat.not_lt.2 hfit]
  · refine ⟨_, congrArg Host.Outcome.next ?_, rfl⟩
    simp [hdmAccess, exchSize, show s.host.up = true from hup, show s.host.hdmOn = true from hhdm, Nat.not_lt.2 hfit]
    rfl
  · refine ⟨_, congrArg Host.Outcome.next ?_, rfl⟩
    exact hdmAccess_refused hup hhdm hbad
  · exact ⟨_, congrArg Host.Outcome.next (onPage_acts hreach rfl), live_setLive_same .., rfl⟩
  · have hact : ideCheckFail s = raiseIrq 3 (countUp 0x22 0x804 31 16 1 (recordErrAny pHost E.ideCheckFail (ideEnds s))) := if_pos (by
      obtain hio | hcm := hide
      · rw [show s.host.ideIo = true from hio, Bool.true_or]
      · rw [show s.host.ideCm = true from hcm, Bool.or_true])
    have hhost : sansPba (ideCheckFail s) = sansPba (ideEnds s) := by
      rw [hact, sansPba_raiseIrq]
      exact sansPba_recordErrAny ..
    refine ⟨_, rfl, (congrArg HostIf.ideIo hhost :), (congrArg HostIf.ideCm hhost :), (congrArg HostIf.up hhost :), ?_, ?_⟩
    · rw [hact, errValid_raiseIrq]
      exact (errValid_setLive _ _ _ _ (by decide) (by decide)).trans (errValid_recordErrAny ..)
    · rw [hact]
      exact bit_raiseIrq 3 _
  · refine ⟨_, rfl, if_neg ?_⟩
    rw [show s.host.ideIo = false from hio, show s.host.ideCm = false from hcm]
    decide

end Sys2Proof.Machine

end

section
/-! The boot KEM's key has 1,568 bytes (R410). -/

namespace Sys2Proof.Machine

open Sys2Proof

theorem length_foldl_keep {α β : Type} {f : List α → β → List α} {n : Nat} (h : ∀ a b, (f a b).length = n) (l : List β) (a : List α) (ha : a.length = n) :
    (l.foldl f a).length = n := by
  induction l generalizing a with
  | nil => exact ha
  | cons x l ih => exact ih _ (h a x)

theorem length_keccak {a : List DWord} (h : a.length = 25) : (keccak a).length = 25 :=
  length_foldl_keep (fun a i => by simp [kecRound]) _ _ h

theorem length_kecAbsorb (a : List DWord) (b : List Byte) : (kecAbsorb a b).length = 25 := length_keccak (by simp)

theorem length_laneBytes (a : List DWord) : (a.flatMap fun w => leBytes 8 w.toNat).length = 8 * a.length := by
  induction a with
  | nil => rfl
  | cons w a ih =>
    rw [List.flatMap_cons, List.length_append, ih, length_leBytes, List.length_cons]
    omega

theorem length_sha3Long (l : List Byte) : (sha3Long l).length = 64 := by
  have hlanes : ∀ m : List (List Byte), (m.foldl kecAbsorb (List.replicate 25 0)).length = 25 := fun m =>
    length_foldl_keep length_kecAbsorb m _ (List.length_replicate ..)
  simp only [sha3Long, sponge]
  rw [List.length_take, show 64 / 72 + 1 = 1 from rfl, kecSqueeze, kecSqueeze, List.append_nil, List.length_take, length_laneBytes, hlanes]
  rfl

/-- The public key: four polynomials of 384 bytes and the seed of the matrix. -/
theorem length_kemGen_ek (seed : List Byte) : (kemGen seed).ek.length = 1568 := by
  have hrow : ∀ (l : List Nat) (f : Nat → Poly), ((l.map f).flatMap (polyBytes 12)).length = 384 * l.length := fun l f => by
    induction l with
    | nil => rfl
    | cons i l ih =>
      rw [List.map_cons, List.flatMap_cons, List.length_append, ih, polyBytes, length_leBytes, List.length_cons]
      omega
  simp only [kemGen]
  rw [List.length_append, hrow, List.length_take, length_sha3Long]
  rfl

end Sys2Proof.Machine

end

section
/-! The security engine: commands in their order, responses, and signatures (R408, R409, R427, R430). -/

namespace Sys2Proof.Machine

open Sys2Proof

/-! ### Commands and responses -/

theorem seRuns_congr {s t : State} (hboot : t.boot = s.boot) (hid : t.sec.bootId = s.sec.bootId) : seRuns t = seRuns s := by
  rw [seRuns, seRuns, restarts, restarts, hboot, hid]

theorem mailboxAt_updMailbox (m j : Nat) (f : Mailbox → Mailbox) (s : State) :
    mailboxAt (updMailbox m f s) j = if m = j then f (mailboxAt s m) else mailboxAt s j := mget_mset ..

theorem mailboxAt_updMailbox_same (m : Nat) (f : Mailbox → Mailbox) (s : State) : mailboxAt (updMailbox m f s) m = f (mailboxAt s m) := by
  rw [mailboxAt_updMailbox, if_pos rfl]

theorem mailboxAt_updMailbox_ne {m j : Nat} (h : j ≠ m) (f : Mailbox → Mailbox) (s : State) : mailboxAt (updMailbox m f s) j = mailboxAt s j := by
  rw [mailboxAt_updMailbox, if_neg h.symm]

/-- The security engine without its mailboxes and the DOE message that is fetched in chunks. -/
def sansBoxes (s : State) : SecEngine := { s.sec with mailboxes := [], doeOut := [] }

/-- A response changes its sender's mailbox, or what DOE answers. -/
theorem sansBoxes_respond (src : CmdSrc) (op tag : Nat) (c : Code) (body : List Byte) (s : State) : sansBoxes (respond src op tag c body s) = sansBoxes s := by
  unfold respond
  dsimp only
  split
  · rfl
  · unfold doeAnswer
    dsimp only
    split <;> rfl

theorem queue_respond (src : CmdSrc) (op tag : Nat) (c : Code) (body : List Byte) (s : State) : (respond src op tag c body s).sec.queue = s.sec.queue :=
  (congrArg SecEngine.queue (sansBoxes_respond ..) :)

/-- A command of a master that is not at fault waits until its turn. -/
theorem settleCmds_id {s : State} (h : ∀ c ∈ s.sec.queue.head?, c.bad = false) : settleCmds s = s := by
  unfold settleCmds
  cases hq : s.sec.queue with
  | nil => rfl
  | cons c rest =>
    have hc : c.bad = false := h c (by simp [hq])
    rw [List.length_cons, failMalformed]
    simp [hq, hc]

/-- The first command fails where it is malformed, and then the next has its turn (R427). -/
theorem settleCmds_cons {s : State} {c : SeCmd} {rest : List SeCmd} (hq : s.sec.queue = c :: rest) :
    settleCmds s = if c.bad = true ∧ seRuns s = true then settleCmds (respond c.src c.op c.rtag E.seCmdInvalid [] (updSec (fun x => { x with queue := rest }) s)) else s := by
  have hlen : (respond c.src c.op c.rtag E.seCmdInvalid [] (updSec (fun x => { x with queue := rest }) s)).sec.queue.length = rest.length :=
    congrArg List.length (queue_respond ..)
  rw [settleCmds, settleCmds, hlen, hq, List.length_cons, failMalformed]
  simp only [hq, Bool.and_eq_true]

/-- What every command that fails leaves holds after the malformed ones have failed. -/
theorem settleCmds_same {β : Type} {g : State → β} (hqueue : ∀ (s : State) l, g (updSec (fun x => { x with queue := l }) s) = g s)
    (hrespond : ∀ src op tag body (s : State), g (respond src op tag E.seCmdInvalid body s) = g s) (s : State) : g (settleCmds s) = g s := by
  have hfail : ∀ n s, g (failMalformed n s) = g s := by
    intro n
    induction n with
    | zero => exact fun _ => rfl
    | succ n ih =>
      intro s
      unfold failMalformed
      split
      · split
        · rw [ih, hrespond, hqueue]
        · rfl
      · rfl
  exact hfail ..

/-- A command that waits is served in its turn, by the row of its OP (R427). -/
theorem serve_head {op : Nat} {act : List Byte → State → (Code × List Byte) × State} {s : State} {c : SeCmd} {rest : List SeCmd} (hq : s.sec.queue = c :: rest)
    (hop : c.op = op) (hbad : c.bad = false) (hruns : seRuns s = true) : let r := act c.body (updSec (fun x => { x with queue := rest }) s)
    serve op act s = settleCmds (respond c.src c.op c.rtag r.1.1 (if r.1.1 = 0 then r.1.2 else []) r.2) := by
  simp only [serve, hq, hop, hbad, hruns, and_self, if_true]

theorem serve_other {op : Nat} {act : List Byte → State → (Code × List Byte) × State} {s : State}
    (h : s.sec.queue.head?.map (fun c => (c.op, c.bad)) ≠ some (op, false) ∨ seRuns s = false) : serve op act s = s := by
  unfold serve
  split
  · next c rest hq =>
    refine if_neg ?_
    rintro ⟨hop, hbad, hruns⟩
    obtain h | h := h
    · exact h (by rw [hq, List.head?_cons, Option.map_some, hop, hbad])
    · rw [hruns] at h
      cases h
  · rfl

/-! ### Signatures (R408, R409) -/

/-- A signature takes the next leaf: what it leaves in the security engine, and what it keeps beside. -/
structure LeafTaken (flash : Bool) (s t : State) : Prop where
  leafFree : s.sec.leaf < 2 ^ 30
  bucketFull : s.sec.bucket ≠ 0
  leaf : t.sec.leaf = s.sec.leaf + 1
  bucket : t.sec.bucket = s.sec.bucket - 1
  reserved : s.sec.leaf < t.sec.reservedTo
  reservedRises : s.sec.reservedTo ≤ t.sec.reservedTo
  tree : t.sec.tree.map (·.1) = some (s.sec.leaf / 2 ^ 15)
  newTree : s.sec.tree.map (·.1) ≠ some (s.sec.leaf / 2 ^ 15) → treeKey t = signedTree (s.sec.leaf / 2 ^ 15)
  halt : t.sec.signHalt = decide (2 ^ 30 ≤ s.sec.leaf + 1)
  seed : t.sec.kemSeed = s.sec.kemSeed
  links : t.links = s.links

theorem recWrite_ok (t v : Nat) (l : List Byte) (s : State) : ∃ f, recWrite t v l true s = updBoot f s := by
  rw [recWrite, recPut]
  exact ⟨_, if_pos rfl⟩

/-- Signing succeeds only as R408 allows it. -/
theorem takeLeaf_ok {flash : Bool} {s t : State} {q : Nat} (h : takeLeaf flash s = (.ok q, t)) : q = s.sec.leaf ∧ LeafTaken flash s t := by
  unfold takeLeaf at h
  dsimp only at h
  split at h
  · cases h
  next hleaf =>
  split at h
  · cases h
  next hbucket =>
  split at h
  · cases h
  split at h
  · cases h
  next hwritten =>
  set bound := (s.sec.tree.map (·.1) == some (s.sec.leaf / 2 ^ 15)) with hbound
  set upTo := (if s.sec.reservedTo ≤ s.sec.leaf then s.sec.leaf - s.sec.leaf % 256 + 256 else s.sec.reservedTo) with hupTo
  set s1 := (if (decide (s.sec.reservedTo ≤ s.sec.leaf) || !bound) = true
    then recWrite 2 (curVersion s 2) (leafBytes upTo (if bound = true then s.sec.tree else some (s.sec.leaf / 2 ^ 15, signedTree (s.sec.leaf / 2 ^ 15)))) flash s else s) with hs1
  have hsame : s1.sec = s.sec ∧ s1.links = s.links := by
    rw [hs1]
    split
    · next hneed =>
      cases flash with
      | true =>
        obtain ⟨f, hf⟩ := recWrite_ok 2 (curVersion s 2) (leafBytes upTo (if bound = true then s.sec.tree else some (s.sec.leaf / 2 ^ 15, signedTree (s.sec.leaf / 2 ^ 15)))) s
        rw [hf]
        exact ⟨rfl, rfl⟩
      | false => simp [hneed] at hwritten
    · exact ⟨rfl, rfl⟩
  obtain ⟨hsec, hlinks⟩ := hsame
  obtain ⟨hq, ht⟩ := Prod.mk.inj h
  obtain rfl := Except.ok.inj hq
  subst ht
  refine ⟨rfl, ⟨Nat.lt_of_not_le hleaf, hbucket, rfl, congrArg (SecEngine.bucket · - 1) hsec, ?_, ?_, ?_, ?_, rfl, (congrArg SecEngine.kemSeed hsec :), hlinks⟩⟩
  · show s.sec.leaf < upTo
    rw [hupTo]
    split <;> omega
  · show s.sec.reservedTo ≤ upTo
    rw [hupTo]
    split <;> omega
  · show (if bound = true then s.sec.tree else _).map (·.1) = _
    split
    · next hb => simpa [hbound] using hb
    · rfl
  · intro hne
    have hb : bound = false := by simpa [hbound] using hne
    show ((if bound = true then s.sec.tree else _).map (·.2)).getD [] = _
    rw [hb]
    rfl

/-- A report that is signed is the body over the leaf taken, signed under the leaf's tree (R408, R411). -/
theorem signReport_ok {tn : Option Nat} {nonce : List Byte} {flash : Bool} {s v : State} {r : List Byte × List Byte} (h : signReport tn nonce flash s = (.ok r, v)) :
    LeafTaken flash s v ∧ r.1 = reportBody v tn nonce s.sec.leaf ∧ r.2 = hssSign (treeKey v) s.sec.leaf r.1 := by
  unfold signReport at h
  split at h
  · next q t htake =>
    obtain ⟨rfl, htaken⟩ := takeLeaf_ok htake
    obtain ⟨hr, rfl⟩ := Prod.mk.inj h
    obtain rfl := Except.ok.inj hr
    exact ⟨htaken, rfl, rfl⟩
  · cases h

theorem signReport_exhausted {s : State} (h : 2 ^ 30 ≤ s.sec.leaf) (tn : Option Nat) (nonce : List Byte) (flash : Bool) :
    (signReport tn nonce flash s).1 = .error E.identityExhausted ∧ (signReport tn nonce flash s).2.sec.signHalt = true := by
  have htake : takeLeaf flash s = (.error E.identityExhausted, updSec (fun x => { x with signHalt := true }) s) := if_pos h
  rw [signReport, htake]
  exact ⟨rfl, rfl⟩

/-- With an empty bucket no signature is made, and nothing changes (R409). -/
theorem signReport_rate {s : State} (hbucket : s.sec.bucket = 0) (hleaf : s.sec.leaf < 2 ^ 30) (tn : Option Nat) (nonce : List Byte) (flash : Bool) :
    signReport tn nonce flash s = (.error E.attestRate, s) := by
  have htake : takeLeaf flash s = (.error E.attestRate, s) := (if_neg (Nat.not_le.2 hleaf)).trans (if_pos hbucket)
  rw [signReport, htake]

theorem signReport_signs {s : State} (hleaf : s.sec.leaf < 2 ^ 30) (hbucket : s.sec.bucket ≠ 0) (hid : s.sec.identityOk = true) (tn : Option Nat) (nonce : List Byte) :
    ∃ r v, signReport tn nonce true s = (.ok r, v) := by
  have htake : ∃ t, takeLeaf true s = (.ok s.sec.leaf, t) := by
    have hmax : ¬ leafMax ≤ s.sec.leaf := Nat.not_le.2 hleaf
    unfold takeLeaf
    dsimp only
    rw [if_neg hmax, if_neg hbucket, if_neg (by simp [hid]), if_neg (by simp)]
    exact ⟨_, rfl⟩
  obtain ⟨t, ht⟩ := htake
  rw [signReport, ht]
  exact ⟨_, _, rfl⟩

end Sys2Proof.Machine

end

section
/-! The security engine's commands, one lemma for what each does (R411 to R416, R425, R428). -/

namespace Sys2Proof.Machine

open Sys2Proof

/-! ### Stacks and sessions -/

theorem stackAt_setStack_ne {n j : Nat} (h : n ≠ j) (x : Stack) (s : State) : stackAt (setStack n x s) j = stackAt s j := (mget_mset ..).trans (if_neg h)

theorem sessionAt_setSession (h j : Nat) (x : Session) (s : State) : sessionAt (setSession h x s) j = if h = j then x else sessionAt s j := mget_mset ..

theorem sessionAt_setSession_same (h : Nat) (x : Session) (s : State) : sessionAt (setSession h x s) h = x := by rw [sessionAt_setSession, if_pos rfl]

theorem sessionAt_setSession_ne {h j : Nat} (hj : h ≠ j) (x : Session) (s : State) : sessionAt (setSession h x s) j = sessionAt s j := by
  rw [sessionAt_setSession, if_neg hj]

/-- The key slot of every stack is changed alike. -/
def onKeys (f : Map StoreKey → Map StoreKey) (l : List Nat) (s : State) : State := l.foldl (fun s n => setStack n { stackAt s n with keys := f (stackAt s n).keys } s) s

theorem sec_onKeys (f : Map StoreKey → Map StoreKey) (l : List Nat) (s : State) : (onKeys f l s).sec = s.sec :=
  foldl_same (g := State.sec) (f := fun s n => setStack n { stackAt s n with keys := f (stackAt s n).keys } s) (fun _ _ => rfl) l s

theorem stackAt_onKeys (f : Map StoreKey → Map StoreKey) (l : List Nat) (hl : l.Nodup) (s : State) (k : Nat) :
    stackAt (onKeys f l s) k = if k ∈ l then { stackAt s k with keys := f (stackAt s k).keys } else stackAt s k := by
  induction l generalizing s with
  | nil => rfl
  | cons n l ih =>
    obtain ⟨hn, hl⟩ := List.nodup_cons.1 hl
    rw [onKeys, List.foldl_cons]
    refine (ih hl _).trans ?_
    by_cases hk : n = k
    · subst hk
      simp only [stackAt_setStack, hn, if_false, List.mem_cons_self, if_true]
    · simp only [stackAt_setStack_ne hk, List.mem_cons, Ne.symm hk, false_or]

/-! ### TENANT_BIND and TENANT_UNBIND (R414, R415) -/

/-- The sessions of a tenant that are open are closed, one after the other. -/
def closeOpen (t : Nat) (l : List (Nat × Session)) (s : State) : State :=
  l.foldl (fun s e => if e.2.st = .opened ∧ e.2.tenant = t then setSession e.1 { e.2 with st := .closed } s else s) s

theorem closeOpen_cons (t : Nat) (e : Nat × Session) (l : List (Nat × Session)) (s : State) :
    closeOpen t (e :: l) s = closeOpen t l (if e.2.st = .opened ∧ e.2.tenant = t then setSession e.1 { e.2 with st := .closed } s else s) := rfl

theorem closeOpen_same {β : Type} {g : State → β} (h : ∀ k x (s : State), g (setSession k x s) = g s) (t : Nat) (l : List (Nat × Session)) (s : State) :
    g (closeOpen t l s) = g s :=
  foldl_same (g := g) (fun s e => by split; exacts [h _ _ _, rfl]) l s

theorem closeOpen_keepsClosed (t : Nat) (l : List (Nat × Session)) (s : State) {h : Nat} (hclosed : (sessionAt s h).st = .closed) :
    (sessionAt (closeOpen t l s) h).st = .closed := by
  induction l generalizing s with
  | nil => exact hclosed
  | cons e l ih =>
    rw [closeOpen_cons]
    refine ih _ ?_
    split
    · rw [sessionAt_setSession]
      split
      · rfl
      · exact hclosed
    · exact hclosed

/-- Every open session of the tenant that the list names is closed. -/
theorem closeOpen_closes {t h : Nat} {x : Session} {l : List (Nat × Session)} (hmem : (h, x) ∈ l) (hopen : x.st = .opened) (ht : x.tenant = t) (s : State) :
    (sessionAt (closeOpen t l s) h).st = .closed := by
  induction l generalizing s with
  | nil => cases hmem
  | cons e l ih =>
    rw [closeOpen_cons]
    obtain rfl | hmem := List.mem_cons.1 hmem
    · refine closeOpen_keepsClosed _ _ _ ?_
      rw [if_pos ⟨hopen, ht⟩, sessionAt_setSession, if_pos rfl]
    · exact ih hmem _

/-- A session that is open is one of the engine's entries. -/
theorem mem_sessions {s : State} {h : Nat} (hopen : (sessionAt s h).st = .opened) : (h, sessionAt s h) ∈ s.sec.sessions := by
  cases hfind : mfind s.sec.sessions h with
  | none =>
    rw [sessionAt, mget, hfind] at hopen
    cases hopen
  | some x =>
    rw [sessionAt, mget, hfind]
    exact mem_of_mfind hfind

theorem cmdBind_spec (s : State) (b : List Byte) : let n := le b 0 1
    let kw := hkdf (decap s (bytesAt b 8 1568)) (some (bootBytes s)) (ascii "PW1 bind" ++ leBytes 1 n) 32
    let opened := gcmOpen kw (List.replicate 12 0) (leBytes 1 n ++ kemHash s) (bytesAt b 1576 32) (bytesAt b 1608 16)
    ((mfind s.sec.tenants n).isSome = true → cmdBind b s = ((E.tenantBusy, []), s)) ∧
    (mfind s.sec.tenants n = none → opened = none → cmdBind b s = ((E.bindAuthFail, []), s)) ∧
    (∀ l, mfind s.sec.tenants n = none → opened = some l → cmdBind b s = ((0, []),
      onKeys (fun m => mput m n (storeKeyOf (BitVec.ofNat 256 (leNat l)) (s.sec.bootId.getD 0))) (List.range 24)
        (updSec (fun x => { x with tenants := mput x.tenants n (BitVec.ofNat 256 (leNat l)) }) s))) := by
  unfold cmdBind
  dsimp only
  refine ⟨fun h => ?_, fun h hopen => ?_, fun l h hopen => ?_⟩
  · rw [if_pos h]
  · rw [if_neg (by simp [h]), hopen]
  · rw [if_neg (by simp [h]), hopen]
    rfl

theorem cmdUnbind_free {s : State} {b : List Byte} (h : tenantInUse s (le b 0 1) = false) : cmdUnbind b s = ((0, []),
    updSec (fun x => { x with tenants := mdel x.tenants (le b 0 1) })
      (closeOpen (le b 0 1) s.sec.sessions (onKeys (fun m => mdel m (le b 0 1)) (List.range 24) s))) := by
  unfold cmdUnbind
  dsimp only
  rw [if_neg (by simp [h]), show ((List.range 24).foldl (fun s n => setStack n { stackAt s n with keys := mdel (stackAt s n).keys (le b 0 1) } s) s).sec.sessions = s.sec.sessions from
    congrArg SecEngine.sessions (sec_onKeys (fun m => mdel m (le b 0 1)) _ s)]
  rfl

/-! ### IDE_KEYS (R425) -/

/-- The keys of a slot: both directions and four substreams, with their first IVs. -/
def slotKeys (s : State) (b : List Byte) : List (Nat × Nat × Nat × List Byte × BitVec 96) :=
  [0, 1].flatMap fun d => [0, 1, 2, 3].map fun u => (le b 1568 1, d, u, ideKey s (decap s (bytesAt b 0 1568)) (le b 1568 1) d u, ideFirstIv)

theorem mem_keyTable {α : Type} (slot : Nat) (k : Nat → Nat → List Byte) (v : α) {dir sub : Nat} {key : List Byte} {iv : α} :
    (slot, dir, sub, key, iv) ∈ ([0, 1].flatMap fun d => [0, 1, 2, 3].map fun u => (slot, d, u, k d u, v)) ↔ dir < 2 ∧ sub < 4 ∧ iv = v ∧ key = k dir sub := by
  have hdir : dir ∈ [0, 1] ↔ dir < 2 := by simp only [List.mem_cons, List.not_mem_nil, or_false]; omega
  have hsub : sub ∈ [0, 1, 2, 3] ↔ sub < 4 := by simp only [List.mem_cons, List.not_mem_nil, or_false]; omega
  rw [List.mem_flatMap, ← hdir, ← hsub]
  constructor
  · rintro ⟨d, hd, h⟩
    obtain ⟨u, hu, he⟩ := List.mem_map.1 h
    simp only [Prod.mk.injEq, true_and] at he
    obtain ⟨rfl, rfl, rfl, rfl⟩ := he
    exact ⟨hd, hu, rfl, rfl⟩
  · rintro ⟨hd, hu, rfl, rfl⟩
    exact ⟨dir, hd, List.mem_map.2 ⟨sub, hu, rfl⟩⟩

theorem mem_slotKeys {s : State} {b : List Byte} {dir sub : Nat} {key : List Byte} {iv : BitVec 96} :
    (le b 1568 1, dir, sub, key, iv) ∈ slotKeys s b ↔ dir < 2 ∧ sub < 4 ∧ iv = ideFirstIv ∧ key = ideKey s (decap s (bytesAt b 0 1568)) (le b 1568 1) dir sub :=
  mem_keyTable (le b 1568 1) (fun d u => ideKey s (decap s (bytesAt b 0 1568)) (le b 1568 1) d u) ideFirstIv

theorem cmdIde_up {s : State} (hup : s.host.up = true) (b : List Byte) : let u := (cmdIde b s).2
    u.host = { s.host with ideIo := true, ideCm := true } ∧
    u.sec = { s.sec with ideKeys := s.sec.ideKeys.filter (·.1 != le b 1568 1) ++ slotKeys s b, ideSlot := some (le b 1568 1) } := by
  simp only [cmdIde]
  rw [if_pos (show (updSec _ s).host.up = true from hup)]
  exact ⟨rfl, rfl⟩

theorem cmdIde_down {s : State} (hup : s.host.up = false) (b : List Byte) : let u := (cmdIde b s).2
    u.host = s.host ∧ u.sec = { s.sec with ideKeys := s.sec.ideKeys.filter (·.1 != le b 1568 1) ++ slotKeys s b } := by
  simp only [cmdIde]
  rw [if_neg (show ¬ (updSec _ s).host.up = true from Bool.not_eq_true _ ▸ hup)]
  exact ⟨rfl, rfl⟩

/-! ### SESSION_OPEN and SESSION_CLOSE (R416) -/

theorem cmdOpen_spec (s : State) (b : List Byte) : let h := le b 2 2
    let x := sessionAt s h
    let tenant := mfind s.sec.tenants (le b 0 1)
    (8192 ≤ h → cmdOpen b s = ((E.sessionInvalid, []), s)) ∧ (h < 8192 → x.st ≠ .closed → cmdOpen b s = ((E.sessionBusy, []), s)) ∧
    (h < 8192 → x.st = .closed → tenant = none → cmdOpen b s = ((E.tenantUnbound, []), s)) ∧
    (h < 8192 → x.st = .closed → tenant.isSome = true → x.gen = 0xFFFFFFFF → cmdOpen b s = ((E.sessionInvalid, []), s)) ∧
    (h < 8192 → x.st = .closed → tenant.isSome = true → x.gen ≠ 0xFFFFFFFF →
      cmdOpen b s = ((0, leBytes 4 (x.gen + 1)), setSession h ⟨.opened, le b 0 1, x.gen + 1, 0, 0⟩ s)) := by
  dsimp only
  unfold cmdOpen
  dsimp only
  refine ⟨fun hrange => ?_, fun hrange hst => ?_, fun hrange hst ht => ?_, fun hrange hst ht hgen => ?_, fun hrange hst ht hgen => ?_⟩
  · rw [if_pos hrange]
  · rw [if_neg (Nat.not_le.2 hrange), if_pos hst]
  · rw [if_neg (Nat.not_le.2 hrange), if_neg (not_not.2 hst), ht]
    rfl
  all_goals
    obtain ⟨x, hx⟩ := Option.isSome_iff_exists.1 ht
    rw [if_neg (Nat.not_le.2 hrange), if_neg (not_not.2 hst), hx, Option.isNone_some, if_neg Bool.false_ne_true]
  · rw [if_pos hgen]
  · rw [if_neg hgen]

theorem cmdClose_spec (s : State) (b : List Byte) : let h := le b 0 2
    let x := sessionAt s h
    (8192 ≤ h → cmdClose b s = ((E.sessionInvalid, []), s)) ∧ (h < 8192 → x.st ≠ .opened → cmdClose b s = ((E.sessionBusy, []), s)) ∧
    (h < 8192 → x.st = .opened → cmdClose b s = ((0, []), setSession h { x with st := .closed } s)) := by
  dsimp only
  unfold cmdClose
  dsimp only
  refine ⟨fun hrange => ?_, fun hrange hst => ?_, fun hrange hst => ?_⟩
  · rw [if_pos hrange]
  · rw [if_neg (Nat.not_le.2 hrange), if_pos hst]
  · rw [if_neg (Nat.not_le.2 hrange), if_neg (not_not.2 hst)]

/-! ### GET_REPORT (R411) -/

theorem cmdReport_ok {flash : Bool} {b : List Byte} {s v : State} {r : List Byte × List Byte}
    (h : signReport (if le b 0 2 = 0xFFFF then none else some (le b 0 2)) (bytesAt b 4 32) flash s = (.ok r, v)) : cmdReport flash b s = ((0, r.1 ++ r.2), v) := by
  simp only [cmdReport, h]

theorem cmdReport_error {flash : Bool} {b : List Byte} {s v : State} {e : Code}
    (h : signReport (if le b 0 2 = 0xFFFF then none else some (le b 0 2)) (bytesAt b 4 32) flash s = (.error e, v)) : cmdReport flash b s = ((e, []), v) := by
  simp only [cmdReport, h]

/-- Settles O40: a row serves the head of the queue by its command, of which the lemmas above say what it does. -/
theorem securityCommandsActInOrder : Obligations.SecurityCommandsActInOrder := by
  intro s q
  refine ⟨fun flash i hi hother => ?_, fun c rest hq => settleCmds_cons hq, fun flash c rest hq hop hbad hruns => ?_, fun tn nonce flash r v hsign => ?_,
    fun tn nonce flash hleaf => signReport_exhausted hleaf .., fun tn nonce flash hbucket hleaf => by rw [signReport_rate hbucket hleaf],
    fun tn nonce hleaf hbucket hid => signReport_signs hleaf hbucket hid .., ?_, ?_, ?_, ?_, ?_, ?_, ?_, fun m op tag code body => ?_⟩
  · simp only [List.mem_cons, List.not_mem_nil, or_false] at hi
    obtain rfl | rfl | rfl | rfl | rfl | rfl | rfl | rfl := hi <;> exact ⟨_, rfl, serve_other hother⟩
  · refine ⟨_, _, _, _, rfl, serve_head hq hop hbad hruns, fun r v hr => ?_, fun e v he => ?_⟩
    · rw [cmdReport_ok hr]
      exact ⟨rfl, if_pos rfl, rfl⟩
    · rw [cmdReport_error he]
      exact ⟨rfl, ite_self _, rfl⟩
  · obtain ⟨hleaf, hbody, hsig⟩ := signReport_ok hsign
    exact ⟨hbody, hsig, hleaf.leaf, hleaf.reserved, hleaf.tree, hleaf.newTree, hleaf.halt, hleaf.reservedRises, hleaf.bucketFull, hleaf.bucket, hleaf.leafFree⟩
  · intro c rest hq hop hbad hruns
    exact ⟨_, _, _, _, rfl, serve_head hq hop hbad hruns, rfl, rfl, length_kemGen_ek _, rfl⟩
  · intro c rest hq hop hbad hruns
    exact ⟨_, _, _, _, rfl, serve_head hq hop hbad hruns, rfl, rfl, rfl⟩
  · intro c rest hq hop hbad hruns
    obtain ⟨hbusy, hauth, hbinds⟩ := cmdBind_spec (q rest) c.body
    refine ⟨_, _, _, _, rfl, serve_head hq hop hbad hruns, fun h => ?_, fun h hopen => ?_, fun l h hopen => ?_⟩
    · rw [hbusy h]
      exact ⟨rfl, rfl⟩
    · rw [hauth h hopen]
      exact ⟨rfl, rfl⟩
    · rw [hbinds l h hopen]
      refine ⟨rfl, rfl, ?_, fun k hk => ?_, fun k hk => ?_⟩
      · rw [sec_onKeys]
        exact mfind_mput_same ..
      · rw [sec_onKeys]
        exact (mfind_mput ..).trans (if_neg hk.symm)
      · rw [stackAt_onKeys _ _ List.nodup_range, if_pos (List.mem_range.2 hk)]
        exact mfind_mput_same ..
  · intro c rest hq hop hbad hruns
    refine ⟨_, _, _, _, rfl, serve_head hq hop hbad hruns, fun h => ?_, fun h => ?_⟩
    · rw [show cmdUnbind c.body (q rest) = ((E.tenantBusy, []), q rest) from if_pos h]
      exact ⟨rfl, rfl⟩
    · have hact : cmdUnbind c.body (q rest) = _ := cmdUnbind_free h
      rw [hact]
      have hsec : ∀ u, (closeOpen (le c.body 0 1) s.sec.sessions (onKeys (fun m => mdel m (le c.body 0 1)) (List.range 24) u)).sec.tenants = u.sec.tenants := fun u =>
        (closeOpen_same (g := fun s => s.sec.tenants) (fun _ _ _ => rfl) _ _ _).trans (congrArg SecEngine.tenants (sec_onKeys ..))
      refine ⟨rfl, ?_, fun k hk => ?_, fun k hk => ?_, fun h hopen ht => ?_⟩
      · exact (congrArg (mfind · (le c.body 0 1)) (congrArg (mdel · (le c.body 0 1)) (hsec (q rest)))).trans ((mfind_mdel ..).trans (if_pos rfl))
      · exact (congrArg (mfind · k) (congrArg (mdel · (le c.body 0 1)) (hsec (q rest)))).trans ((mfind_mdel ..).trans (if_neg hk.symm))
      · have hstk : ∀ u, stackAt (closeOpen (le c.body 0 1) s.sec.sessions u) k = stackAt u k := closeOpen_same (g := fun s => stackAt s k) (fun _ _ _ => rfl) _ _
        refine (congrArg (fun x : Stack => mfind x.keys (le c.body 0 1)) (hstk _)).trans ?_
        rw [stackAt_onKeys _ _ List.nodup_range, if_pos (List.mem_range.2 hk)]
        exact (mfind_mdel ..).trans (if_pos rfl)
      · exact closeOpen_closes (mem_sessions hopen) hopen ht _
  · intro c rest hq hop hbad hruns
    obtain ⟨hrange, hbusy, hunbound, hspent, hopens⟩ := cmdOpen_spec (q rest) c.body
    refine ⟨_, _, _, _, rfl, serve_head hq hop hbad hruns, fun h => ?_, fun h hst => ?_, fun h hst ht => ?_, fun h hst ht hgen => ?_, fun h hst ht hgen => ?_⟩
    · rw [hrange h]
      exact ⟨rfl, rfl⟩
    · rw [hbusy h hst]
      exact ⟨rfl, rfl⟩
    · rw [hunbound h hst ht]
      exact ⟨rfl, rfl⟩
    · rw [hspent h hst ht hgen]
      exact ⟨rfl, rfl⟩
    · rw [hopens h hst ht hgen]
      exact ⟨rfl, if_pos rfl, sessionAt_setSession_same .., fun j hj => sessionAt_setSession_ne hj.symm ..⟩
  · intro c rest hq hop hbad hruns
    obtain ⟨hrange, hbusy, hcloses⟩ := cmdClose_spec (q rest) c.body
    refine ⟨_, _, _, _, rfl, serve_head hq hop hbad hruns, fun h => ?_, fun h hst => ?_, fun h hst => ?_⟩
    · rw [hrange h]
      exact ⟨rfl, rfl⟩
    · rw [hbusy h hst]
      exact ⟨rfl, rfl⟩
    · rw [hcloses h hst]
      exact ⟨rfl, sessionAt_setSession_same .., fun j hj => sessionAt_setSession_ne hj.symm ..⟩
  · intro c rest hq hop hbad hruns
    have hkeys : (cmdIde c.body (q rest)).2.sec.ideKeys = s.sec.ideKeys.filter (·.1 != le c.body 1568 1) ++ slotKeys s c.body := by
      cases hup : (q rest).host.up
      · exact (congrArg SecEngine.ideKeys (cmdIde_down hup c.body).2 :)
      · exact (congrArg SecEngine.ideKeys (cmdIde_up hup c.body).2 :)
    have hlink : (cmdIde c.body (q rest)).2.host.up = s.host.up := by
      cases hup : (q rest).host.up
      · exact (congrArg HostIf.up (cmdIde_down hup c.body).1 :)
      · exact (congrArg HostIf.up (cmdIde_up hup c.body).1 :)
    refine ⟨_, _, _, _, rfl, serve_head hq hop hbad hruns, rfl, hlink, fun hup => ?_, fun hup => ?_, fun e he hslot => ?_, fun dir sub key iv => ?_⟩
    · obtain ⟨hhost, hsec⟩ := cmdIde_up (s := q rest) hup c.body
      exact ⟨congrArg HostIf.ideIo hhost, congrArg HostIf.ideCm hhost, congrArg SecEngine.ideSlot hsec⟩
    · obtain ⟨hhost, hsec⟩ := cmdIde_down (s := q rest) hup c.body
      exact ⟨hhost, (congrArg SecEngine.ideSlot hsec :)⟩
    · rw [hkeys]
      exact List.mem_append_left _ (List.mem_filter.2 ⟨he, by simpa using hslot⟩)
    · rw [hkeys, List.mem_append, List.mem_filter]
      exact (or_iff_right fun h => by simp at h).trans mem_slotKeys
  · have hbox := mailboxAt_updMailbox_same m (fun x => { x with st := if code = 0 then 2 else 3, resp := leBytes 2 op ++ leBytes 2 code.toNat ++ leBytes 4 body.length ++ leBytes 4 tag ++ List.replicate 4 0 ++ body, code := code }) s
    exact ⟨congrArg Mailbox.st hbox, congrArg Mailbox.code hbox, congrArg Mailbox.resp hbox⟩

end Sys2Proof.Machine

end

section
/-! Mailboxes, DOE and the signature bucket (R368, R409, R427, R430). -/

namespace Sys2Proof.Machine

open Sys2Proof

/-! ### Mailboxes (R430) -/

/-- What a malformed command's failure leaves in a mailbox: its request buffer and BYTE. -/
theorem byte_settleCmds (k : Nat) (s : State) : (mailboxAt (settleCmds s) k).byte = (mailboxAt s k).byte := by
  refine settleCmds_same (g := fun s => (mailboxAt s k).byte) (fun _ _ => rfl) (fun src op tag body s => ?_) s
  unfold respond
  dsimp only
  split
  · rw [mailboxAt_updMailbox]
    split
    · next h => rw [h]
    · rfl
  · unfold doeAnswer
    dsimp only
    split <;> rfl

theorem tenants_settleCmds (s : State) : (settleCmds s).sec.tenants = s.sec.tenants :=
  settleCmds_same (g := fun s => s.sec.tenants) (fun _ _ => rfl) (fun _ _ _ _ _ => (congrArg SecEngine.tenants (sansBoxes_respond ..) :)) s

/-- A queue without malformed commands waits. -/
theorem settleCmds_wellFormed {s : State} (h : ∀ c ∈ s.sec.queue, c.bad = false) : settleCmds s = s :=
  settleCmds_id fun c hc => h c (List.mem_of_mem_head? hc)

/-- A malformed command that waits alone fails at once. -/
theorem settleCmds_single {s : State} {c : SeCmd} (hq : s.sec.queue = [c]) (hbad : c.bad = true) (hruns : seRuns s = true) :
    settleCmds s = respond c.src c.op c.rtag E.seCmdInvalid [] (updSec (fun x => { x with queue := [] }) s) := by
  rw [settleCmds_cons hq, if_pos ⟨hbad, hruns⟩]
  refine settleCmds_id fun d hd => ?_
  rw [queue_respond] at hd
  cases hd

/-- The header of a response without a body has 16 bytes. -/
theorem length_emptyResponse (op tag : Nat) (c : Code) : (leBytes 2 op ++ leBytes 2 c.toNat ++ leBytes 4 ([] : List Byte).length ++ leBytes 4 tag ++
    List.replicate 4 (0 : Byte) ++ []).length = 16 := by simp

theorem parseCmd_bad (src : CmdSrc) (l : List Byte) : let c := parseCmd src l
    c.bad = false ↔ 16 ≤ l.length ∧ le l 2 2 = 0 ∧ zeros l 12 4 = true ∧ opLen c.op = some (le l 4 4) ∧ c.body.length = le l 4 4 ∧
      zeros c.body (opResv c.op).1 (opResv c.op).2 = true ∧ (c.op = 8 → le c.body 1568 1 ≤ 1) := by
  simp only [parseCmd]
  simp [and_assoc]

/-! ### DOE (R368, R371) -/

/-- A counter of DOE that rises by one stops at its bound. -/
theorem liveF_countUp_doe (hi lo : Nat) (hhi : hi < 32) (hlo : lo ≤ hi) (hw : hi - lo + 1 = 16) (s : State) :
    liveF (countUp 0x22 0x800 hi lo 1 s) 0x22 0x800 hi lo = Nat.min 0xFFFF (liveF s 0x22 0x800 hi lo + 1) := by
  rw [liveF_countUp s hhi hlo, hw]
  rfl

theorem doeAnswer_short {l : List Byte} (h : l.length ≤ 4096) (s : State) : doeAnswer l s = emit (.doe 1 l) (countUp 0x22 0x800 15 0 1 s) := if_pos h

theorem doeRequest_spdm {s : State} (hup : s.host.up = true) (r : SpdmReq) : doeRequest (.spdm r) s = spdmRequest r s := if_neg (by simp [hup])

theorem length_bytesAt_le (l : List Byte) (off n : Nat) : (bytesAt l off n).length ≤ n := by
  rw [bytesAt, List.length_take]
  exact Nat.min_le_left ..

/-- A short answer of DOE is counted, and the security engine stays. -/
theorem doe_answers {s : State} {l : List Byte} (h : l.length ≤ 4096) : let t := doeAnswer l s
    liveF t 0x22 0x800 15 0 = Nat.min 0xFFFF (liveF s 0x22 0x800 15 0 + 1) ∧ t.sec = s.sec ∧ t.out = s.out ++ [.doe 1 l] := by
  rw [doeAnswer_short h]
  exact ⟨liveF_countUp_doe 15 0 (by decide) (by decide) rfl s, rfl, rfl⟩

/-! ### The signature bucket (R409) -/

theorem linkAt_updLink_same (n : Nat) (f : Link → Link) (s : State) : linkAt (updLink n f s) n = f (linkAt s n) := linkAt_setLink_same ..

theorem linkAt_updLink_ne {n j : Nat} (h : n ≠ j) (f : Link → Link) (s : State) : linkAt (updLink n f s) j = linkAt s j := (mget_mset ..).trans (if_neg h)

theorem linkAt_updHs_same (n : Nat) (f : Hs → Hs) (s : State) : linkAt (updHs n f s) n = { linkAt s n with hs := f (linkAt s n).hs } := linkAt_updLink_same ..

theorem linkAt_updHs_ne {n j : Nat} (h : n ≠ j) (f : Hs → Hs) (s : State) : linkAt (updHs n f s) j = linkAt s j := linkAt_updLink_ne h ..

/-- A message that leaves is the last of the own messages. -/
theorem linkAt_sendHs_same (n step : Nat) (l : List Byte) (s : State) :
    linkAt (sendHs n step l s) n = { linkAt s n with hs := { (linkAt s n).hs with mine := (linkAt s n).hs.mine ++ [l] } } :=
  linkAt_updHs_same n (fun h => { h with mine := h.mine ++ [l] }) s

theorem linkAt_sendHs_ne {n j : Nat} (h : n ≠ j) (step : Nat) (l : List Byte) (s : State) : linkAt (sendHs n step l s) j = linkAt s j :=
  linkAt_updHs_ne h (fun h => { h with mine := h.mine ++ [l] }) s

theorem out_sendHs (n step : Nat) (l : List Byte) (s : State) : (sendHs n step l s).out = s.out ++ [.handshake n step l] := rfl

/-- A link whose report does not wait is passed over. -/
theorem serveWaiting_none {flash : Bool} {n : Nat} {s : State} (h : (linkAt s n).hs.wantSign = false) : serveWaiting flash n s = s := by
  refine if_neg ?_
  rintro ⟨-, hw, -⟩
  rw [h] at hw
  cases hw

/-- The links below 8 that do not wait are passed over. -/
theorem foldl_serveWaiting_none {flash : Bool} (l : List Nat) {s : State} (h : ∀ j ∈ l, (linkAt s j).hs.wantSign = false) :
    l.foldl (fun s n => serveWaiting flash n s) s = s := by
  induction l with
  | nil => rfl
  | cons j l ih =>
    rw [List.foldl_cons, serveWaiting_none (h j List.mem_cons_self)]
    exact ih fun k hk => h k (List.mem_cons_of_mem _ hk)

/-- Where one link waits, only it is served. -/
theorem foldl_serveWaiting_one {flash : Bool} {n : Nat} (hn : n < 8) {s : State} (hbefore : ∀ j, j < 8 → j ≠ n → (linkAt s j).hs.wantSign = false)
    (hafter : ∀ j, j < 8 → j ≠ n → (linkAt (serveWaiting flash n s) j).hs.wantSign = false) :
    (List.range 8).foldl (fun s n => serveWaiting flash n s) s = serveWaiting flash n s := by
  have hsplit : List.range 8 = List.range n ++ n :: (List.range (7 - n)).map (n + 1 + ·) := by
    interval_cases n <;> rfl
  rw [hsplit, List.foldl_append, foldl_serveWaiting_none _ fun j hj => hbefore j (by rw [List.mem_range] at hj; omega) (by rw [List.mem_range] at hj; omega), List.foldl_cons]
  refine foldl_serveWaiting_none _ fun j hj => ?_
  obtain ⟨i, hi, rfl⟩ := List.mem_map.1 hj
  rw [List.mem_range] at hi
  exact hafter _ (by omega) (by omega)

/-- The own report leaves once it is signed. -/
theorem sendReport_signed {flash : Bool} {n : Nat} {s v : State} {r : List Byte × List Byte} (hsign : signReport none ((linkAt s n).hs.theirs.headD []) flash s = (.ok r, v)) :
    let w := sendReport n flash s
    linkAt w n = { linkAt s n with hs := { (linkAt s n).hs with wantSign := false, mine := (linkAt s n).hs.mine ++ [r.1 ++ r.2 ++ kemPublic v ++ certs] } } ∧
    (∀ j, j ≠ n → linkAt w j = linkAt s j) ∧ w.out = v.out ++ [.handshake n 2 (r.1 ++ r.2 ++ kemPublic v ++ certs)] ∧ kemPublic v = kemPublic s := by
  obtain ⟨htaken, -, -⟩ := signReport_ok hsign
  have hlinks : ∀ j, linkAt v j = linkAt s j := fun j => by rw [linkAt, linkAt, htaken.links]
  have hreport : sendReport n flash s = sendHs n 2 (r.1 ++ r.2 ++ kemPublic v ++ certs) (updHs n (fun h => { h with wantSign := false }) v) := by
    simp only [sendReport, hsign]
  dsimp only
  rw [hreport]
  refine ⟨?_, fun j hj => ?_, rfl, ?_⟩
  · rw [linkAt_sendHs_same, linkAt_updHs_same, hlinks]
  · rw [linkAt_sendHs_ne hj.symm, linkAt_updHs_ne hj.symm, hlinks]
  · rw [kemPublic, kemPublic, kemPair, kemPair, htaken.seed]

/-- A waiting report that gets its signature leaves, and the ciphertext where it was due (R423). -/
theorem serveWaiting_signs {flash : Bool} {n : Nat} {s v : State} {r : List Byte × List Byte} (hst : (linkAt s n).st = .attest) (hwant : (linkAt s n).hs.wantSign = true)
    (hruns : seRuns s = true) (hmine : (linkAt s n).hs.mine.length = 1) (hsign : signReport none ((linkAt s n).hs.theirs.headD []) flash s = (.ok r, v)) :
    let t := serveWaiting flash n s
    (linkAt t n).hs.wantSign = false ∧ (∀ j, j ≠ n → linkAt t j = linkAt s j) ∧
    t.out = v.out ++ [.handshake n 2 (r.1 ++ r.2 ++ kemPublic s ++ certs)] ++ (if (linkAt s n).hs.kemDue.isEmpty then [] else [.handshake n 3 (linkAt s n).hs.kemDue]) := by
  obtain ⟨hat, hother, hout, hkem⟩ := sendReport_signed hsign
  have htwo : (linkAt (sendReport n flash s) n).hs.mine.length = 2 := by rw [hat]; simp [hmine]
  have hdue : (linkAt (sendReport n flash s) n).hs.kemDue = (linkAt s n).hs.kemDue := by rw [hat]
  have hserve : serveWaiting flash n s = if (linkAt s n).hs.kemDue.isEmpty then sendReport n flash s else
      sendHs n 3 (linkAt s n).hs.kemDue (updHs n (fun h => { h with kemDue := [] }) (sendReport n flash s)) := by
    unfold serveWaiting
    dsimp only
    rw [if_pos ⟨hst, hwant, hruns⟩, hdue]
    cases (linkAt s n).hs.kemDue.isEmpty
    · rw [if_pos ⟨htwo, rfl⟩, if_neg Bool.false_ne_true]
    · rw [if_neg (fun h => Bool.false_ne_true h.2), if_pos rfl]
  dsimp only
  rw [hserve]
  rw [hkem] at hout
  cases (linkAt s n).hs.kemDue.isEmpty
  · rw [if_neg Bool.false_ne_true, if_neg Bool.false_ne_true]
    refine ⟨?_, fun j hj => ?_, ?_⟩
    · rw [linkAt_sendHs_same, linkAt_updHs_same, hat]
    · rw [linkAt_sendHs_ne hj.symm, linkAt_updHs_ne hj.symm, hother j hj]
    · rw [out_sendHs]
      exact congrArg (· ++ _) hout
  · rw [if_pos rfl, if_pos rfl, List.append_nil, hat]
    exact ⟨rfl, hother, hout⟩

/-- The bucket after a refill. -/
def refilled (s : State) : State := { s with sec := { s.sec with bucket := Nat.min 256 (s.sec.bucket + 1) } }

/-- Settles O41. -/
theorem mailboxAndDoeCarryCommands : Obligations.MailboxAndDoeCarryCommands := by
  intro s m k x others counted hreach
  have hbar : ∀ act : State → State, Host.Outcome.next (viaBar m act s) = (Host.Outcome.next (act s) : Result) := fun _ => congrArg _ (viaBar_of_reaches hreach)
  set submitted := updSec (fun y => { y with queue := y.queue ++ [parseCmd (.mailbox k) (requestBytes x)] }) (updMailbox k (fun x => { x with st := 1, resp := [], code := 0 }) s)
    with hsubmitted
  have hsubmit : x.st ≠ 1 → mbSubmit k s = settleCmds submitted := fun hst => if_neg hst
  have hbox : mailboxAt submitted k = { x with st := 1, resp := [], code := 0 } := mailboxAt_updMailbox_same k (fun x => { x with st := 1, resp := [], code := 0 }) s
  have hothers : others submitted := fun j hj => mailboxAt_updMailbox_ne hj (fun x => { x with st := 1, resp := [], code := 0 }) s
  refine ⟨fun hst => ?_, fun hst => ?_, fun hst hqueue hbad => ?_, fun hst hqueue hruns hbad => ?_, ?_, fun v => ?_, ?_, fun l src => ?_, fun r hup => ?_, fun i hup => ?_,
    fun hup => ?_, fun hup r hr => ?_, fun hup r hr => ?_, by decide, fun l hup => ?_, fun l hup hqueue hruns hbad => ?_, fun last l hup hlong => ?_, fun l hup hfit => ?_,
    fun l hup hfit => ?_, fun n hup => ?_, ?_, fun flash hnone => ?_, fun flash n r v hnone hst hwant hruns hmine hsign => ?_⟩
  · refine ⟨_, hbar _, ?_⟩
    rw [show mbSubmit (masterId m) s = recordErrAny pMailbox E.seCmdInvalid s from if_pos hst]
    exact ⟨(congrArg State.sec (offRegs_recordErrAny ..) :), errValid_recordErrAny ..⟩
  · exact ⟨_, submitted, (hbar _).trans rfl, hsubmit hst, rfl, hbox, hothers, rfl⟩
  · refine ⟨submitted, (hbar _).trans (congrArg _ ?_), rfl, hbox, hothers⟩
    refine (hsubmit hst).trans (settleCmds_wellFormed fun c hc => ?_)
    obtain hc | hc := List.mem_append.1 hc
    · exact hqueue c hc
    · exact List.mem_singleton.1 hc ▸ hbad
  · have hq : submitted.sec.queue = [parseCmd (.mailbox k) (requestBytes x)] := by
      show s.sec.queue ++ _ = _
      rw [hqueue, List.nil_append]
    have hact := (hsubmit hst).trans (settleCmds_single hq hbad ((seRuns_congr rfl rfl : seRuns submitted = seRuns s).trans hruns))
    set emptied := updSec (fun x => { x with queue := [] }) submitted with hemptied
    have hat : mailboxAt (mbSubmit k s) k = { x with
        st := 3
        resp := (leBytes 2 (parseCmd (.mailbox k) (requestBytes x)).op ++ leBytes 2 E.seCmdInvalid.toNat ++ leBytes 4 ([] : List Byte).length ++
          leBytes 4 (parseCmd (.mailbox k) (requestBytes x)).rtag ++ List.replicate 4 0 ++ [])
        code := E.seCmdInvalid } := by
      rw [hact]
      refine (mailboxAt_updMailbox_same ..).trans ?_
      rw [show mailboxAt emptied k = mailboxAt submitted k from rfl, hbox]
      rfl
    refine ⟨_, hbar _, ?_, congrArg Mailbox.st hat, congrArg Mailbox.code hat, (congrArg Mailbox.req hat :), ?_, fun j hj => ?_⟩
    · rw [hact, queue_respond]
      rfl
    · exact (congrArg (fun y : Mailbox => y.resp.length) hat).trans (length_emptyResponse ..)
    · rw [hact]
      exact (mailboxAt_updMailbox_ne hj ..).trans (hothers j hj)
  · set dropped := updSec (fun x => { x with queue := x.queue.filter (·.src != .mailbox k) }) s with hdropped
    refine ⟨_, hbar _, ?_, ?_, fun hqueue => ?_⟩
    · refine (mailboxAt_updMailbox_same ..).trans ?_
      rw [byte_settleCmds]
      rfl
    · exact tenants_settleCmds dropped
    · have hsettle : settleCmds dropped = dropped := settleCmds_wellFormed fun c hc => hqueue c (List.mem_of_mem_filter hc)
      refine ⟨fun j hj => ?_, ?_⟩
      · refine (mailboxAt_updMailbox_ne hj ..).trans ?_
        rw [hsettle]
        rfl
      · exact (congrArg (fun s : State => s.sec.queue) hsettle :)
  · exact ⟨_, hbar _, mailboxAt_updMailbox_same .., fun j hj => mailboxAt_updMailbox_ne hj .., rfl⟩
  · refine ⟨_, hbar _, mailboxAt_updMailbox_same .., fun j hj => mailboxAt_updMailbox_ne hj .., ?_⟩
    refine (mget_mset_same ..).trans ?_
    exact BitVec.eq_of_toNat_eq (by simp [mbWord, x, k])
  · exact ⟨rfl, rfl, rfl, rfl, parseCmd_bad src l⟩
  · have hdown : doeRequest r s = s := if_pos (by simp [hup])
    exact ⟨s, congrArg Host.Outcome.next hdown, rfl⟩
  · have hact : doeRequest (.discovery i) s = emit (.doe 0 (doeDiscovery i.toNat)) (countUp 0x22 0x800 15 0 1 s) := if_neg (by simp [hup])
    exact ⟨_, congrArg Host.Outcome.next hact, rfl, rfl, liveF_countUp_doe 15 0 (by decide) (by decide) rfl s⟩
  · have hact : doeRequest .cdat s = emit (.doe 2 Config.cdat) (countUp 0x22 0x800 15 0 1 s) := if_neg (by simp [hup])
    exact ⟨_, congrArg Host.Outcome.next hact, rfl, rfl, liveF_countUp_doe 15 0 (by decide) (by decide) rfl s⟩
  · have hrefused : doeRequest r s = doeRefused s := by
      simp only [List.mem_cons, List.not_mem_nil, or_false] at hr
      obtain rfl | rfl := hr <;> exact if_neg (by simp [hup])
    exact ⟨_, congrArg Host.Outcome.next hrefused, rfl, rfl, liveF_countUp_doe 31 16 (by decide) (by decide) rfl s⟩
  · simp only [List.mem_cons, List.not_mem_nil, or_false] at hr
    obtain rfl | rfl | rfl := hr <;> exact ⟨_, congrArg Host.Outcome.next (doeRequest_spdm hup _), doe_answers (by decide)⟩
  · exact ⟨_, updSec (fun y => { y with queue := y.queue ++ [parseCmd .doe l] }) s, congrArg Host.Outcome.next (doeRequest_spdm hup _), rfl, rfl, rfl, rfl⟩
  · have hq : (updSec (fun y => { y with queue := y.queue ++ [parseCmd .doe l] }) s).sec.queue = [parseCmd .doe l] := by
      show s.sec.queue ++ _ = _
      rw [hqueue, List.nil_append]
    have hact := settleCmds_single hq hbad ((seRuns_congr rfl rfl : seRuns (updSec _ s) = seRuns s).trans hruns)
    obtain ⟨hcount, hsec, hout⟩ := doe_answers (s := updSec (fun x => { x with queue := [] }) (updSec (fun y => { y with queue := y.queue ++ [parseCmd .doe l] }) s))
      (l := [0x12, 0x7E, 0, 0] ++ (leBytes 2 (le l 0 2) ++ leBytes 2 E.seCmdInvalid.toNat ++ leBytes 4 0 ++ leBytes 4 (le l 8 4) ++ List.replicate 4 0)) (by simp)
    have hanswer : doeRequest (.spdm (.vendor l)) s = doeAnswer ([0x12, 0x7E, 0, 0] ++ (leBytes 2 (le l 0 2) ++ leBytes 2 E.seCmdInvalid.toNat ++ leBytes 4 0 ++ leBytes 4 (le l 8 4) ++
        List.replicate 4 0)) (updSec (fun x => { x with queue := [] }) (updSec (fun y => { y with queue := y.queue ++ [parseCmd .doe l] }) s)) := by
      refine (doeRequest_spdm hup _).trans (hact.trans ?_)
      simp only [respond, parseCmd, List.append_nil, List.length_nil]
    rw [← hanswer] at hcount hsec hout
    refine ⟨_, rfl, hsec.trans ?_, hcount, hout⟩
    show { s.sec with queue := [] } = s.sec
    rw [← hqueue]
  · have hact : doeRequest (.spdm (.chunkSend last l)) s = doeRefused (updSec (fun x => { x with doeIn := [] }) s) :=
      (doeRequest_spdm hup _).trans (if_pos (by rw [List.length_append, doeMax]; exact hlong))
    exact ⟨_, congrArg Host.Outcome.next hact, rfl, liveF_countUp_doe 31 16 (by decide) (by decide) rfl _, rfl, rfl⟩
  · have hact : doeRequest (.spdm (.chunkSend false l)) s = doeAnswer [0x12, 0x05, 0, 0] (updSec (fun x => { x with doeIn := s.sec.doeIn ++ l }) s) :=
      (doeRequest_spdm hup _).trans ((if_neg (by rw [List.length_append, doeMax]; omega)).trans rfl)
    obtain ⟨hcount, hsec, hout⟩ := doe_answers (s := updSec (fun x => { x with doeIn := s.sec.doeIn ++ l }) s) (l := [0x12, 0x05, 0, 0]) (by decide)
    rw [← hact] at hcount hsec hout
    exact ⟨_, rfl, (congrArg SecEngine.doeIn hsec :), (congrArg SecEngine.queue hsec :), hcount, hout⟩
  · refine ⟨_, updSec (fun y => { y with queue := y.queue ++ [parseCmd .doe (s.sec.doeIn ++ l)] }) (updSec (fun x => { x with doeIn := [] }) s), congrArg Host.Outcome.next (doeRequest_spdm hup _),
      (if_neg (by rw [List.length_append, doeMax]; omega)).trans rfl, rfl, rfl⟩
  · have hlen : ([0x12, 0x06, 0, 1] ++ bytesAt s.sec.doeOut (4080 * n) 4080 : List Byte).length ≤ 4096 := by
      have := length_bytesAt_le s.sec.doeOut (4080 * n) 4080
      rw [List.length_append]
      show 4 + _ ≤ 4096
      omega
    obtain ⟨-, hsec, hout⟩ := doe_answers (s := s) hlen
    exact ⟨_, congrArg Host.Outcome.next (doeRequest_spdm hup _), hsec, hout⟩
  · exact ⟨_, countUp 0x22 0x800 31 16 1 (updSec (fun x => { x with queue := x.queue.filter (·.src != .doe), doeIn := [], doeOut := [] }) s), rfl, rfl, rfl, rfl, rfl, rfl,
      liveF_countUp_doe 31 16 (by decide) (by decide) rfl _⟩
  · exact ⟨refilled s, congrArg Host.Outcome.next (foldl_serveWaiting_none _ fun j hj => hnone j (List.mem_range.1 hj)), rfl⟩
  · obtain ⟨hdone, hrest, hout⟩ := serveWaiting_signs (s := refilled s) hst hwant ((seRuns_congr rfl rfl : seRuns (refilled s) = seRuns s).trans hruns) hmine hsign
    have hone : bucketRefill flash s = serveWaiting flash n.val (refilled s) := 
      foldl_serveWaiting_one n.isLt hnone fun j hj hne => (congrArg (fun x : Link => x.hs.wantSign) (hrest j hne)).trans (hnone j hj hne)
    exact ⟨_, congrArg Host.Outcome.next hone, hdone, hout⟩

end Sys2Proof.Machine

end

section
/-! What the traffic of the links leaves of each link: its state, its wait, and its keys (R374, R376, R396). -/

namespace Sys2Proof.Machine

open Sys2Proof

/-- State, wait and keys of every link. -/
def linkLife (s : State) : Nat → LinkSt × Bool × List Byte := fun n => ((linkAt s n).st, (linkAt s n).failWait, (linkAt s n).keys)

theorem linkLife_of_links {s t : State} (h : t.links = s.links) : linkLife t = linkLife s := funext fun n => by rw [linkLife, linkLife, linkAt, linkAt, h]

theorem linkAt_setLink (n j : Nat) (x : Link) (s : State) : linkAt (setLink n x s) j = if n = j then x else linkAt s j := mget_mset ..

/-- A link that is set with its state, wait and keys keeps them. -/
theorem linkLife_setLink {n : Nat} {x : Link} {s : State} (h : (x.st, x.failWait, x.keys) = linkLife s n) : linkLife (setLink n x s) = linkLife s := by
  funext j
  rw [linkLife, linkAt_setLink]
  split
  · next hj => exact hj ▸ h
  · rfl

/-! ### Sending (R376, R377) -/

theorem linkLife_sendFlit (n ty vc : Nat) (body : List Byte) (s : State) : linkLife (sendFlit n ty vc body s) = linkLife s := linkLife_setLink rfl

theorem linkLife_sendCtl (n ty : Nat) (body : List Byte) (s : State) : linkLife (sendCtl n ty body s) = linkLife s := by
  unfold sendCtl
  dsimp only
  split
  · rfl
  · split
    · exact linkLife_sendFlit ..
    · exact linkLife_setLink rfl

theorem linkLife_returnCredits (n vc : Nat) (s : State) : linkLife (returnCredits n vc s) = linkLife s := by
  unfold returnCredits
  dsimp only
  split
  · rfl
  · rw [linkLife_sendCtl]
    exact linkLife_setLink rfl

theorem linkLife_movedOn (back : Option (Nat × Nat × Nat)) (s : State) : linkLife (movedOn back s) = linkLife s := by
  unfold movedOn
  split
  · rw [linkLife_returnCredits]
    exact linkLife_setLink rfl
  · rfl

theorem linkLife_pumpCtl (n k : Nat) (s : State) : linkLife (pumpCtl n k s) = linkLife s := by
  induction k generalizing s with
  | zero => rfl
  | succ k ih =>
    unfold pumpCtl
    dsimp only
    split
    · split
      · rw [ih, linkLife_sendFlit]
        exact linkLife_setLink rfl
      · rfl
    · rfl

theorem linkLife_pumpVc (n vc k : Nat) (s : State) : linkLife (pumpVc n vc k s) = linkLife s := by
  induction k generalizing s with
  | zero => rfl
  | succ k ih =>
    unfold pumpVc
    dsimp only
    split
    · rw [ih, foldl_same (g := linkLife) (fun s (q : TxMsg) => linkLife_movedOn q.back s), linkLife_sendFlit]
      exact linkLife_setLink rfl
    · rfl

theorem linkLife_transmit (n vc : Nat) (back : Option (Nat × Nat × Nat)) (p : Pcl) (s : State) : linkLife (transmit n vc back p s) = linkLife s := by
  unfold transmit pumpTx
  dsimp only
  rw [foldl_same (g := linkLife) (fun s v => linkLife_pumpVc n v _ s), linkLife_pumpCtl]
  exact linkLife_setLink rfl

/-! ### Across the floor, and how requests end (R390, R391, R396) -/

theorem links_injectEngine (r : Nat) (m : Msg) (s : State) : (injectEngine r m s).links = s.links := by
  unfold injectEngine
  split <;> rfl

theorem linkLife_egress (n l vc : Nat) (back : Option (Nat × Nat × Nat)) (p : Pcl) (s : State) : linkLife (egress n l vc back p s) = linkLife s := by
  unfold egress
  split
  · exact linkLife_transmit ..
  · exact linkLife_of_links (links_injectEngine ..)

theorem linkLife_sendResp (n : Nat) (p : Pcl) (s : State) : linkLife (sendResp n p s) = linkLife s := by
  unfold sendResp
  split
  · split
    · exact linkLife_egress ..
    · rfl
  · rfl

theorem links_countEnd (c : Code) (m : Nat) (s : State) : (countEnd c m s).links = s.links := by
  unfold countEnd
  split_ifs <;> rfl

theorem links_failPart (o : Origin) (n : Nat) (c : Code) (s : State) : (failPart o n c s).links = s.links := by
  unfold failPart
  split
  · rfl
  · split <;> rfl
  · unfold spRespond
    dsimp only
    split <;> rfl
  · unfold svcFails
    split <;> rfl
  · rfl

/-- A request that ends with a code: what it counts, and how its origin hears. -/
theorem linkLife_ended (o : Origin) (n m : Nat) (c : Code) (s : State) : linkLife (countEnd c m (failPart o n c s)) = linkLife s :=
  linkLife_of_links ((links_countEnd ..).trans (links_failPart ..))

theorem linkLife_takeReq {mtag : Nat} {s t : State} {q : ClReq} (h : takeReq mtag s = some (q, t)) : linkLife t = linkLife s := by
  unfold takeReq at h
  split at h
  · obtain ⟨-, rfl⟩ := Prod.mk.inj (Option.some.inj h)
    rfl
  · cases h

theorem linkLife_originate (n : Nat) (o : Origin) (loc : Nat) (tagged : Bool) (p : Pcl) (s : State) : linkLife (originate n o loc tagged p s) = linkLife s := by
  unfold originate
  dsimp only
  split
  · split
    · exact (linkLife_egress ..).trans rfl
    · exact linkLife_ended ..
  · exact linkLife_ended ..

theorem linkLife_transitOut (n vc : Nat) (o : Origin) (p : Pcl) (s : State) : linkLife (transitOut n vc o p s) = linkLife s := by
  unfold transitOut
  dsimp only
  split
  · exact linkLife_transmit ..
  · refine Eq.trans ?_ (linkLife_movedOn (match o with | .transit k v id => some (k, v, id) | _ => none) s)
    generalize movedOn (match o with | .transit k v id => some (k, v, id) | _ => none) s = u
    split
    · rfl
    · split
      · split
        · next q hq => exact (linkLife_ended ..).trans (linkLife_takeReq hq)
        · rfl
      · exact linkLife_sendResp ..

theorem linkLife_inAnswered (n id : Nat) (p : Pcl) (s : State) : linkLife (sendResp n p (inEnded id s)) = linkLife s := (linkLife_sendResp ..).trans rfl

theorem linkLife_finishIn (id : Nat) (s : State) : linkLife (finishIn id s) = linkLife s := by
  unfold finishIn
  split
  · split_ifs
    · exact linkLife_inAnswered ..
    · rfl
    · exact linkLife_inAnswered ..
    · exact linkLife_inAnswered ..
    · rfl
  · rfl

theorem linkLife_attachReply (m : Msg) (s : State) : linkLife (attachReply m s) = linkLife s := by
  unfold attachReply
  split
  · exact (linkLife_finishIn ..).trans rfl
  · rfl
  · rfl

theorem linkLife_attachFront (n : Nat) (s : State) : linkLife (attachFront n s) = linkLife s := by
  unfold attachFront
  split
  · rfl
  · dsimp only
    split
    · exact (linkLife_attachReply ..).trans rfl
    · split_ifs
      · exact (linkLife_transitOut ..).trans rfl
      · exact (linkLife_originate ..).trans rfl
      · rfl

theorem linkLife_attachDrain (n k : Nat) (s : State) : linkLife (attachDrain n k s) = linkLife s := by
  induction k generalizing s with
  | zero => rfl
  | succ k ih =>
    unfold attachDrain
    dsimp only
    split
    · exact linkLife_attachFront ..
    · rw [ih, linkLife_attachFront]

theorem linkLife_reqEnded (q : ClReq) (s : State) : linkLife (reqEnded q s) = linkLife s := linkLife_attachDrain ..

theorem linkLife_endReq (mtag : Nat) (c : Code) (s : State) : linkLife (endReq mtag c s) = linkLife s := by
  unfold endReq
  split
  · next q hq => rw [linkLife_reqEnded, linkLife_ended, linkLife_takeReq hq]
  · rfl

/-! ### A link that goes DOWN (R374, R396) -/

theorem linkLife_queuedGone (n : Nat) (p : Pcl) (s : State) : linkLife (queuedGone n p s) = linkLife s := by
  unfold queuedGone
  split_ifs
  · rfl
  · exact linkLife_endReq ..
  · exact linkLife_sendResp ..

/-- A link that goes DOWN is DOWN without keys, whatever the messages do that end with it. -/
theorem linkGone_down {n : Nat} {s : State} (h : (linkAt s n).st ≠ .down) : (linkAt (linkGone n s) n).st = .down ∧ (linkAt (linkGone n s) n).keys = [] := by
  set x := linkAt s n with hx
  set y : Link := { Link.reset with peerModule := x.peerModule, peerJoined := x.peerJoined, failWait := x.failWait, winMc := x.winMc } with hy
  have hserving : ∀ (b : Bool) (f : List Served → List Served) (u : State),
      linkLife (if b then { u with weights := { u.weights with serving := f u.weights.serving } } else u) = linkLife u := fun b f u => by split <;> rfl
  have hlife : linkLife (linkGone n s) = linkLife (setLink n y s) := by
    unfold linkGone
    dsimp only
    rw [if_neg h, linkLife_attachDrain]
    refine (hserving _ (fun l => l.filter (·.module != x.peerModule)) _).trans ?_
    rw [foldl_same (g := linkLife) (fun s (q : ClReq) => linkLife_endReq q.mtag E.peerGone s),
      foldl_same (g := linkLife) (fun s (q : TxMsg) => (linkLife_movedOn q.back _).trans (linkLife_queuedGone n q.msg s))]
    rfl
  have hn : linkLife (linkGone n s) n = (.down, x.failWait, []) := by
    rw [hlife, linkLife, linkAt_setLink, if_pos rfl]
    rfl
  exact ⟨congrArg Prod.fst hn, congrArg (fun p => p.2.2) hn⟩

theorem links_recordErrAny (p : Nat) (c : Code) (s : State) : (recordErrAny p c s).links = s.links := (congrArg State.links (offRegs_recordErrAny p c s) :)

/-- A link that fails waits, DOWN and without keys. -/
theorem linkFails_down {n : Nat} {s : State} (h : (linkAt s n).st ≠ .down) (c : Code) : let t := linkFails n c s
    (linkAt t n).st = .down ∧ (linkAt t n).failWait = true ∧ (linkAt t n).keys = [] := by
  obtain ⟨hdown, hkeys⟩ := linkGone_down (s := countUp (pLink n) 0x804 15 0 1 s) h
  have hat : linkAt (linkFails n c s) n = { linkAt (linkGone n (countUp (pLink n) 0x804 15 0 1 s)) n with failWait := true } := by
    rw [linkAt, show (linkFails n c s).links = (linkFailure n s).links from links_recordErrAny ..]
    exact linkAt_updLink_same ..
  dsimp only
  rw [hat]
  exact ⟨hdown, rfl, hkeys⟩

/-! ### The handshake (R423, R424) -/

/-- A handshake that fails rejects the peer. -/
theorem attestFails_down {n : Nat} {s : State} (h : (linkAt s n).st = .attest) : let t := attestFails n s
    (linkAt t n).st = .down ∧ (linkAt t n).failWait = true ∧ (linkAt t n).keys = [] :=
  linkFails_down (s := countUp pSec 0x80C 15 0 1 s) (by rw [show linkAt (countUp pSec 0x80C 15 0 1 s) n = linkAt s n from rfl, h]; decide) _

theorem hsAt_iff {s : State} {n a b : Nat} : hsAt s n a b = true ↔ (linkAt s n).st = .attest ∧ (linkAt s n).hs.mine.length = a ∧ (linkAt s n).hs.theirs.length = b ∧ seRuns s = true := by
  simp only [hsAt, Bool.and_eq_true, beq_iff_eq, and_assoc]

theorem hsAt_false {s : State} {n a b : Nat}
    (h : ¬ ((linkAt s n).st = .attest ∧ (linkAt s n).hs.mine.length = a ∧ (linkAt s n).hs.theirs.length = b ∧ seRuns s = true)) : hsAt s n a b = false :=
  Bool.not_eq_true _ ▸ fun hat => h (hsAt_iff.1 hat)

theorem links_flashFails (s : State) : (flashFails s).links = s.links := links_recordErrAny ..

theorem links_recWrite (t v : Nat) (l : List Byte) (ok : Bool) (s : State) : (recWrite t v l ok s).links = s.links := by
  rw [recWrite, recPut]
  split
  · rfl
  · exact links_flashFails _

/-- A leaf that is refused leaves the links. -/
theorem links_takeLeaf {flash : Bool} {s t : State} {c : Code} (h : takeLeaf flash s = (.error c, t)) : t.links = s.links := by
  unfold takeLeaf at h
  dsimp only at h
  split at h
  · exact (Prod.mk.inj h).2 ▸ rfl
  split at h
  · exact (Prod.mk.inj h).2 ▸ rfl
  split at h
  · exact (Prod.mk.inj h).2 ▸ rfl
  split at h
  · rw [← (Prod.mk.inj h).2]
    show (if _ then _ else _ : State).links = _
    split
    · exact links_recWrite ..
    · rfl
  · cases (Prod.mk.inj h).1

theorem links_signReport_error {tn : Option Nat} {nonce : List Byte} {flash : Bool} {s v : State} {c : Code} (h : signReport tn nonce flash s = (.error c, v)) :
    v.links = s.links := by
  unfold signReport at h
  split at h
  · cases (Prod.mk.inj h).1
  · next c' t htake =>
    obtain ⟨-, rfl⟩ := Prod.mk.inj h
    exact links_takeLeaf htake

theorem length_freshBytes (n : Nat) (s : State) : (freshBytes n s).1.length = 8 * n := by
  induction n generalizing s with
  | zero => rfl
  | succ n ih =>
    rw [freshBytes, List.length_append, ih, length_leBytes]
    omega

/-- Fresh bytes come from the environment. -/
theorem freshBytes_state (n : Nat) (s : State) : ∃ k, (freshBytes n s).2 = { s with freeCount := k } := by
  induction n generalizing s with
  | zero => exact ⟨_, rfl⟩
  | succ n ih =>
    obtain ⟨k, hk⟩ := ih (freshWord s).2
    exact ⟨k, hk⟩

theorem reportGood_spec {s : State} {n : Nat} {report sig key cert : List Byte} (h : reportGood s n report sig key cert = true) :
    hssVerify Config.provisioningKey (bytesAt cert 0 76) (cert.drop 76) = true ∧ hssVerify (bytesAt cert 0 60) report sig = true ∧
    bytesAt report 0x70 32 = sha256 key ∧ bytesAt report 0x30 32 = (linkAt s n).hs.mine.headD [] ∧ bytesAt report 0x10 16 ≠ deviceBytes ∧
    ∀ c, c < 5 → liveF s pSec 0x40 15 0 ≤ le report (0xB0 + 48 * c + 2) 2 := by
  simp only [reportGood, Bool.and_eq_true, decide_eq_true_eq, List.all_eq_true, List.mem_range] at h
  obtain ⟨⟨⟨⟨⟨⟨⟨⟨⟨hcert, hsig⟩, -⟩, -⟩, hdev⟩, hkey⟩, hnonce⟩, hother⟩, -⟩, hsvn⟩ := h
  exact ⟨hcert, hsig, hkey, hnonce, hdev ▸ hother, hsvn⟩

/-- An accepted report: the peer's ciphertext is made, and leaves where the own report has gone. -/
theorem hsReport_accepts {s : State} {n : Nat} {report sig key cert : List Byte} (hst : (linkAt s n).st = .attest) (htheirs : (linkAt s n).hs.theirs.length = 1)
    (hruns : seRuns s = true) (hgood : reportGood s n report sig key cert = true) : ∃ r k, r.length = 32 ∧
      hsReport n report sig key cert s =
        (let u := updHs n (fun h => { h with theirs := h.theirs ++ [report ++ sig ++ key ++ cert], ssSent := (kemEncaps key r).2 }) { s with freeCount := k }
         if (linkAt s n).hs.mine.length = 2 then sendHs n 3 (kemEncaps key r).1 u else updHs n (fun h => { h with kemDue := (kemEncaps key r).1 }) u) := by
  obtain ⟨k, hk⟩ := freshBytes_state 4 s
  refine ⟨(freshBytes 4 s).1, k, length_freshBytes 4 s, ?_⟩
  unfold hsReport
  dsimp only
  rw [if_neg (by simp [hst, htheirs, hruns]), if_neg (by simp [hgood]), hk]

/-- The own MAC rests on the first three own messages, not on the fourth. -/
theorem finishMac_append (h : Hs) (l : List Byte) (hmine : h.mine.length = 3) : finishMac { h with mine := h.mine ++ [l] } = finishMac h := by
  have hget : ∀ i, i < 3 → (h.mine ++ [l]).getD i [] = h.mine.getD i [] := fun i hi => by
    rw [List.getD_append _ _ _ _ (by omega)]
  have hhead : (h.mine ++ [l]).headD [] = h.mine.headD [] := by
    cases hm : h.mine with
    | nil => rw [hm] at hmine; cases hmine
    | cons a m => rfl
  have hside : ownSide { h with mine := h.mine ++ [l] } = ownSide h := rfl
  have hkeys : linkKeys { h with mine := h.mine ++ [l] } = linkKeys h := by
    rw [linkKeys, linkKeys, hside]
    dsimp only
    rw [hhead]
  rw [finishMac, finishMac, hside, hkeys]
  dsimp only
  rw [hget 0 (by decide), hget 1 (by decide), hget 2 (by decide)]

/-- Settles O39. -/
theorem linksAttestTheirPeers : Obligations.LinksAttestTheirPeers := by
  intro s n x rejected at_
  refine ⟨fun nonce flash r v hat hlen hsign => ?_, fun nonce flash c v hat hlen hsign => ?_, fun nonce flash hnot => ?_, fun nonce hbucket hleaf => ?_,
    fun report sig key cert hst htheirs hruns hgood hmine => ?_, fun report sig key cert hst htheirs hruns hgood hmine => ?_, fun report sig key cert hst htheirs hruns hbad => ?_,
    fun report sig key cert hnot => ?_, fun report sig key cert hgood => reportGood_spec hgood, fun ct hst htheirs hlen hruns hmine => ?_, fun ct hst htheirs hlen hruns hmine => ?_,
    fun ct hnot => ?_, fun hat => ?_, fun mac hat hmac => ?_, fun mac hnot => ?_, fun hst => ?_, fun hst => ?_⟩
  · have hact : hsHello n.val nonce flash s = sendReport n.val flash (updHs n.val (fun h => { h with theirs := [nonce] }) s) := by
      rw [hsHello, hsAt_iff.2 hat, hlen]
      rfl
    have hu := linkAt_updHs_same n.val (fun h => { h with theirs := [nonce] }) s
    obtain ⟨hat', -, hout, -⟩ := sendReport_signed (n := n.val) (s := updHs n.val (fun h => { h with theirs := [nonce] }) s) (by rw [hu]; exact hsign)
    rw [← hact, hu] at hat'
    rw [← hact] at hout
    obtain ⟨hst, hmine, -, -⟩ := hat
    refine ⟨_, rfl, hout, ?_, ?_, ?_, ?_⟩
    · exact (congrArg (fun y : Link => y.hs.theirs) hat' :)
    · exact (congrArg (fun y : Link => y.hs.wantSign) hat' :)
    · refine ((congrArg (fun y : Link => y.hs.mine.length) hat' :) : _).trans ?_
      rw [List.length_append, show (linkAt s n.val).hs.mine.length = 1 from hmine]
      rfl
    · exact ((congrArg Link.st hat' :) : _).trans hst
  · have hact : hsHello n.val nonce flash s = sendReport n.val flash (updHs n.val (fun h => { h with theirs := [nonce] }) s) := by
      rw [hsHello, hsAt_iff.2 hat, hlen]
      rfl
    have hu := linkAt_updHs_same n.val (fun h => { h with theirs := [nonce] }) s
    have hwaits : hsHello n.val nonce flash s = updHs n.val (fun h => { h with wantSign := true }) v := by
      rw [hact, sendReport, hu]
      simp only [List.headD_cons, hsign]
    have hv : linkAt v n.val = linkAt (updHs n.val (fun h => { h with theirs := [nonce] }) s) n.val := by rw [linkAt, linkAt, links_signReport_error hsign]
    have hat' : linkAt (hsHello n.val nonce flash s) n.val = { x with hs := { x.hs with theirs := [nonce], wantSign := true } } := by
      rw [hwaits, linkAt_updHs_same, hv, hu]
    exact ⟨_, rfl, (congrArg (fun y : Link => y.hs.theirs) hat' :), (congrArg (fun y : Link => y.hs.wantSign) hat' :), (congrArg (fun y : Link => y.hs.mine) hat' :),
      (congrArg State.out hwaits :)⟩
  · refine ⟨s, congrArg Host.Outcome.next (if_neg ?_), rfl⟩
    rw [Bool.and_eq_true, hsAt_iff, beq_iff_eq, not_and_or]
    exact hnot
  · rw [signReport_rate hbucket hleaf]
    exact ⟨rfl, rfl⟩
  · obtain ⟨r, k, hr, hact⟩ := hsReport_accepts hst htheirs hruns hgood
    dsimp only at hact
    rw [if_pos hmine] at hact
    have hat : linkAt (hsReport n.val report sig key cert s) n.val = linkAt _ n.val := congrArg (linkAt · n.val) hact
    rw [linkAt_sendHs_same, linkAt_updHs_same] at hat
    refine ⟨_, r, rfl, hr, ((congrArg Link.st hat :) : _).trans hst, (congrArg State.out hact :), (congrArg (fun y : Link => y.hs.ssSent) hat :),
      (congrArg (fun y : Link => y.hs.theirs) hat :), ((congrArg (fun y : Link => y.hs.mine.length) hat :) : _).trans ?_⟩
    rw [List.length_append, show (linkAt { s with freeCount := k } n.val).hs.mine.length = 2 from hmine]
    rfl
  · obtain ⟨r, k, hr, hact⟩ := hsReport_accepts hst htheirs hruns hgood
    dsimp only at hact
    rw [if_neg hmine] at hact
    have hat : linkAt (hsReport n.val report sig key cert s) n.val = linkAt _ n.val := congrArg (linkAt · n.val) hact
    rw [linkAt_updHs_same, linkAt_updHs_same] at hat
    exact ⟨_, r, rfl, hr, (congrArg State.out hact :), (congrArg (fun y : Link => y.hs.kemDue) hat :), (congrArg (fun y : Link => y.hs.ssSent) hat :),
      (congrArg (fun y : Link => y.hs.mine) hat :)⟩
  · have hact : hsReport n.val report sig key cert s = attestFails n.val s := by
      unfold hsReport
      dsimp only
      rw [if_neg (by simp [show (linkAt s n.val).st = .attest from hst, show (linkAt s n.val).hs.theirs.length = 1 from htheirs, hruns]), if_pos (by simp [hbad])]
    exact ⟨_, congrArg Host.Outcome.next hact, attestFails_down hst⟩
  · exact ⟨s, congrArg Host.Outcome.next (if_pos (hnot.imp_right .inl)), rfl⟩
  · set u := updHs n.val (fun h => { h with theirs := h.theirs ++ [ct], ssGot := decap s ct }) s with hu
    have hat := linkAt_updHs_same n.val (fun h => { h with theirs := h.theirs ++ [ct], ssGot := decap s ct }) s
    have hhs : hsAt u n.val 3 3 = true := by
      refine hsAt_iff.2 ⟨?_, ?_, ?_, (seRuns_congr rfl rfl : seRuns u = seRuns s).trans hruns⟩
      · rw [hu, hat]
        exact hst
      · rw [hu, hat]
        exact hmine
      · rw [hu, hat, List.length_append, show (linkAt s n.val).hs.theirs.length = 2 from htheirs]
        rfl
    have hact : hsKem n.val ct s = sendHs n.val 4 (finishMac (linkAt u n.val).hs) u := by
      unfold hsKem
      dsimp only
      rw [if_neg (by simp [show (linkAt s n.val).st = .attest from hst, show (linkAt s n.val).hs.theirs.length = 2 from htheirs, hlen, hruns])]
      exact if_pos hhs
    have hat' : linkAt (hsKem n.val ct s) n.val =
        { linkAt u n.val with hs := { (linkAt u n.val).hs with mine := (linkAt u n.val).hs.mine ++ [finishMac (linkAt u n.val).hs] } } := by rw [hact, linkAt_sendHs_same]
    have hmine' : (linkAt u n.val).hs.mine = x.hs.mine := by rw [hu, hat]
    refine ⟨_, finishMac (linkAt u n.val).hs, rfl, ?_, ?_, (congrArg State.out hact :), ?_, ?_⟩
    · exact ((congrArg (fun y : Link => y.hs.ssGot) hat' :) : _).trans (congrArg (fun y : Link => y.hs.ssGot) hat)
    · exact ((congrArg (fun y : Link => y.hs.theirs) hat' :) : _).trans (congrArg (fun y : Link => y.hs.theirs) hat)
    · rw [hat', hmine']
    · rw [hat']
      exact finishMac_append _ _ (hmine' ▸ hmine)
  · set u := updHs n.val (fun h => { h with theirs := h.theirs ++ [ct], ssGot := decap s ct }) s with hu
    have hat := linkAt_updHs_same n.val (fun h => { h with theirs := h.theirs ++ [ct], ssGot := decap s ct }) s
    have hhs : hsAt u n.val 3 3 = false := hsAt_false fun h => hmine (by
      have h3 := h.2.1
      rw [hu, hat] at h3
      exact h3)
    have hact : hsKem n.val ct s = u := by
      unfold hsKem
      dsimp only
      rw [if_neg (by simp [show (linkAt s n.val).st = .attest from hst, show (linkAt s n.val).hs.theirs.length = 2 from htheirs, hlen, hruns])]
      exact if_neg (by rw [hhs]; decide)
    exact ⟨_, congrArg Host.Outcome.next hact, rfl, congrArg (fun y : Link => y.hs.theirs) hat⟩
  · refine ⟨s, congrArg Host.Outcome.next (if_pos ?_), rfl⟩
    obtain h | h | h := hnot
    exacts [.inl h, .inr (.inl h), .inr (.inr (.inl h))]
  · have hact : hsFinish n.val (finishMac x.hs) s = linkIsUp n.val (linkKeys x.hs) (ownSide x.hs) s := by
      rw [hsFinish, if_pos (hsAt_iff.2 hat)]
      exact if_pos rfl
    have hup : linkAt (linkIsUp n.val (linkKeys x.hs) (ownSide x.hs) s) n.val = _ := linkAt_updLink_same ..
    refine ⟨_, congrArg Host.Outcome.next hact, ?_⟩
    rw [hup]
    exact ⟨rfl, rfl, rfl, rfl, rfl, rfl, rfl, rfl, fun j hj => linkAt_updLink_ne hj.symm ..⟩
  · have hact : hsFinish n.val mac s = attestFails n.val s := by
      rw [hsFinish, if_pos (hsAt_iff.2 hat)]
      exact if_neg hmac
    exact ⟨_, congrArg Host.Outcome.next hact, attestFails_down hat.1⟩
  · refine ⟨s, congrArg Host.Outcome.next (if_neg ?_), rfl⟩
    rw [hsAt_false hnot]
    decide
  · exact ⟨_, congrArg Host.Outcome.next (if_pos hst), attestFails_down hst⟩
  · exact ⟨s, congrArg Host.Outcome.next (if_neg hst), rfl⟩

end Sys2Proof.Machine

end

section
/-! A field that goes dark (R439, R442, R447, R497): what the loss leaves of the power side, and what stands of the field. -/

namespace Sys2Proof.Machine

open Sys2Proof

/-! ### What a loss leaves of the power side -/

/-- A recorded error stays recorded, whatever page records another. -/
theorem errValid_recordErr_stays {q : Nat} (p : Nat) (c : Code) (info : Word) {s : State} (h : errValid s q = true) :
    errValid (recordErr p c info s) q = true := by
  by_cases hq : p = q
  · subst hq
    exact errValid_recordErr ..
  have hset (a : Nat) (ha : a < 4096) (v : Word) (u : State) : errValid (setLive p a v u) q = errValid u q := by
    rw [errValid, live_setLive _ _ ha (by decide), if_neg fun h => hq h.1, ← errValid]
  unfold recordErr
  split
  · rwa [hset _ (by decide)]
  · dsimp only
    split
    · rwa [hset _ (by decide), hset _ (by decide)]
    · rwa [errValid_raiseIrq, hset _ (by decide), hset _ (by decide)]

theorem live_resetPage {p q : Nat} (off : Nat) (s : State) (hoff : off < 4096) (hne : q ≠ p) : live (resetPage p s) q off = live s q off := by
  have hkey : ¬ (regKey q off / 4096 == p) = true := by
    rw [regKey, beq_iff_eq]
    omega
  rw [live, live, resetPage, mget, mget, mfind_mdrop, if_neg hkey]

/-- The fields, the power manager, the faults reported and an error of page 0x0038 are kept. -/
structure PowerKept (s t : State) : Prop where
  fields : t.fields = s.fields
  pm : t.pm = s.pm
  reported : t.recov.reported = s.recov.reported
  err : errValid s pPm = true → errValid t pPm = true

namespace PowerKept

theorem refl (s : State) : PowerKept s s := ⟨rfl, rfl, rfl, id⟩

theorem trans {s t u : State} (h : PowerKept s t) (h' : PowerKept t u) : PowerKept s u :=
  ⟨h'.fields.trans h.fields, h'.pm.trans h.pm, h'.reported.trans h.reported, h'.err ∘ h.err⟩

theorem foldl {α : Type} {f : State → α → State} (hf : ∀ s x, PowerKept s (f s x)) (l : List α) (s : State) : PowerKept s (l.foldl f s) := by
  induction l generalizing s with
  | nil => exact refl s
  | cons x l ih => exact (hf s x).trans (ih _)

theorem of_live {s t : State} (hf : t.fields = s.fields) (hp : t.pm = s.pm) (hr : t.recov.reported = s.recov.reported) (hl : t.live = s.live) :
    PowerKept s t :=
  ⟨hf, hp, hr, fun h => by rwa [errValid, live_congr hl]⟩

theorem ofSetLive {off : Nat} (p : Nat) (v : Word) (s : State) (hoff : off < 4096) (hne : off ≠ 0x10) : PowerKept s (setLive p off v s) :=
  ⟨rfl, rfl, rfl, fun h => by rwa [errValid_setLive _ _ _ _ hoff hne]⟩

theorem ofRecordErr (p : Nat) (c : Code) (info : Word) (s : State) : PowerKept s (recordErr p c info s) :=
  ⟨(congrArg State.fields (offRegs_recordErr ..) :), (congrArg State.pm (offRegs_recordErr ..) :),
    (congrArg (·.recov.reported) (offRegs_recordErr ..) :), errValid_recordErr_stays p c info⟩

theorem ofRecordErrAny (p : Nat) (c : Code) (s : State) : PowerKept s (recordErrAny p c s) :=
  (of_live rfl rfl rfl rfl : PowerKept s (freshWord s).2).trans (ofRecordErr ..)

theorem ofResetPage {p : Nat} (s : State) (hp : pPm ≠ p) : PowerKept s (resetPage p s) :=
  ⟨rfl, rfl, rfl, fun h => by rwa [errValid, live_resetPage _ _ (by decide) hp]⟩

/-! ### Groups that lose a page (R58) -/

theorem ofSetGrp (g : Nat) (x : Group) (s : State) : PowerKept s (setGrp g x s) := of_live rfl rfl rfl rfl

theorem ofReloadPage (p : Nat) (s : State) : PowerKept s (reloadPage p s) := by
  unfold reloadPage
  split
  · unfold reloadWindow
    refine PowerKept.trans ?_ (foldl (fun _ _ => ?_) ..)
    · exact of_live rfl rfl rfl rfl
    · exact of_live rfl rfl rfl rfl
  · exact of_live rfl rfl rfl rfl

theorem ofEndGroup (g : Nat) (r : GResult) (p : Nat) (c : Code) (s : State) : PowerKept s (endGroup g r p c s) :=
  (foldl (fun _ _ => ofReloadPage ..) ..).trans (ofSetGrp ..)

theorem ofClaimPage (p : Nat) (s : State) : PowerKept s (claimPage p s) := by
  unfold claimPage
  split
  · split
    · exact ofEndGroup ..
    · exact refl s
  · exact refl s

theorem ofLosePage (p : Nat) (s : State) : PowerKept s (losePage p s) := by
  unfold losePage
  dsimp only
  split
  · exact (ofClaimPage ..).trans (ofSetGrp ..)
  · exact ofClaimPage ..

/-! ### Messages before the field (R197) -/

theorem ofSetRouter (r : Nat) (x : Router) (s : State) : PowerKept s (setRouter r x s) := of_live rfl rfl rfl rfl

theorem ofMovedOn (back : Option (Nat × Nat × Nat)) (s : State) : PowerKept s (movedOn back s) :=
  of_live (congrArg State.fields (offLinks_movedOn back s) :) (congrArg State.pm (offLinks_movedOn back s) :)
    (congrArg (·.recov.reported) (offLinks_movedOn back s) :) (live_of_offLinks (offLinks_movedOn back s))

theorem ofNoteDropped (m : Msg) (s : State) : PowerKept s (noteDropped m s) := by
  unfold noteDropped
  split
  · exact of_live rfl rfl rfl rfl
  · exact ofMovedOn ..
  · exact refl s

theorem ofCountUp {off : Nat} (p hi lo k : Nat) (s : State) (hoff : off < 4096) (hne : off ≠ 0x10) : PowerKept s (countUp p off hi lo k s) :=
  ofSetLive _ _ _ hoff hne

theorem ofFabEvent (r kind port : Nat) (m : Msg) (c : Code) (s : State) : PowerKept s (fabEvent r kind port m c s) :=
  (ofSetLive _ _ _ (by decide) (by decide)).trans (ofRecordErr ..)

theorem ofDropMsg (r d : Nat) (dark : Bool) (m : Msg) (s : State) : PowerKept s (dropMsg r d dark m s) := by
  refine (ofNoteDropped m s).trans (PowerKept.trans ?_ (ofFabEvent ..))
  split
  · exact ofCountUp _ _ _ _ _ (by decide) (by decide)
  · exact ofCountUp _ _ _ _ _ (by decide) (by decide)

theorem ofDropOut (r d : Nat) (dark : Bool) (s : State) : PowerKept s (dropOut r d dark s) :=
  foldl (fun _ _ => (ofSetRouter ..).trans (foldl (fun _ _ => ofDropMsg ..) ..)) ..

theorem ofDropBefore (f : Nat) (s : State) : PowerKept s (dropBefore f s) := by
  refine foldl (fun s r => ?_) ..
  split
  · exact refl s
  · refine foldl (fun s d => ?_) ..
    split
    · exact ofDropOut ..
    · exact refl s

/-! ### The field's own contents (R222, R491) -/

theorem ofUpdModel (m : Nat) (g : Model → Model) (s : State) : PowerKept s (updModel m g s) := of_live rfl rfl rfl rfl

theorem ofNoteLost (f : Nat) (s : State) : PowerKept s (noteLost f s) := by
  refine foldl (fun s e => ?_) ..
  dsimp only
  split
  · exact refl s
  · exact ofUpdModel ..

theorem ofStackLost (n : Nat) (s : State) : PowerKept s (stackLost n s) := by
  unfold stackLost
  refine PowerKept.trans ?_ (foldl (fun s k => ofResetPage s ?_) ..)
  · exact of_live rfl rfl rfl rfl
  · rw [stackPage, pPm]
    omega

theorem ofFieldLost (f : Nat) (s : State) : PowerKept s (fieldLost f s) := by
  unfold fieldLost
  refine PowerKept.trans (PowerKept.trans ?_ (foldl (fun s r => ofResetPage s ?_) ..)) (foldl (fun _ _ => ofStackLost ..) ..)
  · exact of_live rfl rfl rfl rfl
  · rw [fieldPage, pPm]
    omega

/-! ### Events and permits -/

theorem ofFldEvent (f i : Nat) (s : State) : PowerKept s (fldEvent f i s) := ofSetLive _ _ _ (by decide) (by decide)

theorem ofRaiseIrq (v : Nat) (s : State) : PowerKept s (raiseIrq v s) :=
  ⟨(congrArg State.fields (offRegs_raiseIrq ..) :), (congrArg State.pm (offRegs_raiseIrq ..) :),
    (congrArg (·.recov.reported) (offRegs_raiseIrq ..) :), fun h => by rwa [errValid_raiseIrq]⟩

theorem ofFatal (c : Code) (s : State) : PowerKept s (fatal c s) := by
  unfold fatal
  split
  · exact refl s
  · exact (ofSetLive _ _ _ (by decide) (by decide)).trans (ofRaiseIrq ..)

end PowerKept

/-! ### The field itself -/

theorem fieldOf_setField_same (f : Nat) (x : FieldPower) (s : State) : fieldOf (setField f x s) f = x := mget_mset_same ..
theorem fieldOf_updField_same (f : Nat) (h : FieldPower → FieldPower) (s : State) : fieldOf (updField f h s) f = h (fieldOf s f) := mget_mset_same ..
theorem fieldOf_updField_ne {f g : Nat} (h : FieldPower → FieldPower) (s : State) (hne : f ≠ g) : fieldOf (updField f h s) g = fieldOf s g :=
  mget_mset_ne _ _ _ hne
theorem fieldOf_congr {s t : State} (h : t.fields = s.fields) (f : Nat) : fieldOf t f = fieldOf s f := by rw [fieldOf, fieldOf, h]
theorem fieldSt_congr {s t : State} (h : t.fields = s.fields) (f : Nat) : fieldSt t f = fieldSt s f := by rw [fieldSt, fieldSt, fieldOf_congr h]

/-- Everything but the fields is kept as `PowerKept` says, and no field but f changes. -/
structure OnField (f : Nat) (s t : State) : Prop where
  others : ∀ g, g ≠ f → fieldOf t g = fieldOf s g
  pm : t.pm = s.pm
  reported : t.recov.reported = s.recov.reported
  err : errValid s pPm = true → errValid t pPm = true

theorem OnField.trans {f : Nat} {s t u : State} (h : OnField f s t) (h' : OnField f t u) : OnField f s u :=
  ⟨fun g hg => (h'.others g hg).trans (h.others g hg), h'.pm.trans h.pm, h'.reported.trans h.reported, h'.err ∘ h.err⟩

theorem PowerKept.onField {f : Nat} {s t : State} (h : PowerKept s t) : OnField f s t :=
  ⟨fun g _ => fieldOf_congr h.fields g, h.pm, h.reported, h.err⟩

theorem onField_updField (f : Nat) (g : FieldPower → FieldPower) (s : State) : OnField f s (updField f g s) :=
  ⟨fun _ hg => fieldOf_updField_ne _ _ hg.symm, rfl, rfl, id⟩

/-- What a field that has gone dark keeps of what it held (R439, R447, R454). -/
def darkened (cause : Nat) (x : FieldPower) : FieldPower :=
  let keep := fun (m : Map PhaseSt) => m.filter (·.2 == .failed)
  { FieldPower.reset with
      lastDark := cause, kilnCap := x.kilnCap, kilnHeat := false, darkBy := x.darkBy, target := x.target, retryAt := none,
      vcore := keep x.vcore, vret := keep x.vret, vfab := keep x.vfab, fcA := x.fcA, fcB := x.fcB, brkLocked := x.brkLocked,
      shortAt := x.shortAt, reclosedAt := x.reclosedAt, overTemp := x.overTemp, powCap := x.powCap,
      plausHold := x.plausLasting, plausLasting := x.plausLasting }

theorem goDark_off {f cause : Nat} {s : State} (h : (fieldOf s f).st = .dark ∧ (fieldOf s f).attempt.isNone) :
    goDark f cause s = updField f (fun x => { x with brkClosed := false }) s := if_pos h

/-- What the field holds is lost before the field itself is set. -/
theorem goDark_lost {f cause : Nat} {s : State} (h : ¬ ((fieldOf s f).st = .dark ∧ (fieldOf s f).attempt.isNone)) :
    ∃ u, PowerKept s u ∧ goDark f cause s = updField f (darkened cause) u := by
  refine ⟨_, ?_, if_neg h⟩
  have hpages := PowerKept.foldl (fun s r => PowerKept.ofLosePage (fieldPage f r) s) (List.range 16) s
  have hstacks := PowerKept.foldl (fun s n => PowerKept.foldl (fun s k => PowerKept.ofLosePage (stackPage n k) s) (List.range 8) s)
    ((List.range 24).filter fun n => stackField n == f)
  exact (((hpages.trans (hstacks _)).trans (.ofNoteLost ..)).trans (.ofDropBefore ..)).trans (.ofFieldLost ..)

theorem onField_goDark (f cause : Nat) (s : State) : OnField f s (goDark f cause s) := by
  by_cases h : (fieldOf s f).st = .dark ∧ (fieldOf s f).attempt.isNone
  · rw [goDark_off h]
    exact onField_updField ..
  · obtain ⟨u, hkept, hdark⟩ := goDark_lost (cause := cause) h
    rw [hdark]
    exact hkept.onField.trans (onField_updField ..)

/-- The field afterwards: dark, with its breaker open. -/
theorem fieldOf_goDark (f cause : Nat) (s : State) : fieldOf (goDark f cause s) f =
    if (fieldOf s f).st = .dark ∧ (fieldOf s f).attempt.isNone then { fieldOf s f with brkClosed := false } else darkened cause (fieldOf s f) := by
  by_cases h : (fieldOf s f).st = .dark ∧ (fieldOf s f).attempt.isNone
  · rw [goDark_off h, fieldOf_updField_same, if_pos h]
  · obtain ⟨u, hkept, hdark⟩ := goDark_lost (cause := cause) h
    rw [hdark, fieldOf_updField_same, fieldOf_congr hkept.fields, if_neg h]

theorem onField_imposeDark (f cause : Nat) (s : State) : OnField f s (imposeDark f cause s) := (onField_updField ..).trans (onField_goDark ..)

theorem fieldOf_imposeDark (f cause : Nat) (s : State) : fieldOf (imposeDark f cause s) f =
    if (fieldOf s f).st = .dark ∧ (fieldOf s f).attempt.isNone then { fieldOf s f with darkBy := some cause, brkClosed := false }
    else darkened cause { fieldOf s f with darkBy := some cause } := by
  rw [imposeDark, fieldOf_goDark, fieldOf_updField_same]

end Sys2Proof.Machine
end

section
/-! The module's input, the power windows with their ladder, coolant and connections (R434, R435, R449, R450, R453, R456). -/

namespace Sys2Proof.Machine

open Sys2Proof

/-! ### Passes over the fields -/

/-- A pass that sets up P of each field it visits, keeps an invariant, and keeps P of the others. -/
theorem foldl_each {I : State → Prop} {P : Nat → State → Prop} {op : State → Nat → State} (hI : ∀ s f, I s → I (op s f))
    (hnew : ∀ s f, I s → P f (op s f)) (hkeep : ∀ s f g, I s → g ≠ f → P g s → P g (op s f)) (l : List Nat) {s : State} (h0 : I s) :
    I (l.foldl op s) ∧ ∀ f, f ∈ l ∨ P f s → P f (l.foldl op s) := by
  induction l generalizing s with
  | nil => exact ⟨h0, fun f h => h.resolve_left List.not_mem_nil⟩
  | cons x l ih =>
    obtain ⟨hinv, hrest⟩ := ih (hI s x h0)
    refine ⟨hinv, fun f h => hrest f ?_⟩
    by_cases hx : f = x
    · subst hx
      exact .inr (hnew _ _ h0)
    · exact h.imp (fun hm => (List.mem_cons.1 hm).resolve_left hx) (hkeep _ _ _ h0 hx)

/-- A pass over the fields that changes each of them by itself. -/
theorem fieldOf_foldl_updField (g : FieldPower → FieldPower) {l : List Nat} (hnd : l.Nodup) (s : State) (f : Nat) :
    fieldOf (l.foldl (fun s f => updField f g s) s) f = if f ∈ l then g (fieldOf s f) else fieldOf s f := by
  induction l generalizing s with
  | nil => rfl
  | cons x l ih =>
    obtain ⟨hx, hnd⟩ := List.nodup_cons.1 hnd
    rw [List.foldl_cons, ih hnd]
    by_cases hf : f = x
    · subst hf
      rw [if_neg hx, if_pos List.mem_cons_self, fieldOf_updField_same]
    · rw [fieldOf_updField_ne _ _ (Ne.symm hf)]
      simp only [List.mem_cons, hf, false_or]

/-! ### Every field dark (R497) -/

/-- The field is dark for a cause, with its breaker open. -/
def darkFor (cause f : Nat) (s : State) : Prop := fieldSt s f = .dark ∧ (fieldOf s f).darkBy = some cause ∧ (fieldOf s f).brkClosed = false

theorem darkFor_imposeDark (f cause : Nat) (s : State) : darkFor cause f (imposeDark f cause s) := by
  rw [darkFor, fieldSt, fieldOf_imposeDark]
  split
  · next h => exact ⟨h.1, rfl, rfl⟩
  · exact ⟨rfl, rfl, rfl⟩

theorem darkFor_congr {cause f : Nat} {s t : State} (h : fieldOf t f = fieldOf s f) : darkFor cause f t ↔ darkFor cause f s := by
  rw [darkFor, darkFor, fieldSt, fieldSt, h]

theorem liveF_fatal (c : Code) (s : State) : liveF (fatal c s) pIrq 0x818 31 31 = 1 := by
  unfold fatal
  split
  · assumption
  · rw [liveF, live_raiseIrq _ _ (by decide) (by decide), live_setLive_same, bits_withBits _ (by decide) (by decide) (by decide)]

/-- The power manager and its recorded error, through a pass that darkens the fields. -/
theorem allDark_spec (c : Code) (cause : Nat) {s : State} (h : errValid s pPm = true) :
    (∀ f, f < 80 → darkFor cause f (allDark c cause s)) ∧ errValid (allDark c cause s) pPm = true ∧
      liveF (allDark c cause s) pIrq 0x818 31 31 = 1 ∧ (allDark c cause s).pm = s.pm := by
  obtain ⟨⟨hpm, herr⟩, hdark⟩ := foldl_each (I := fun t => t.pm = s.pm ∧ errValid t pPm = true) (P := darkFor cause)
    (op := fun s f => imposeDark f cause s)
    (fun t f ht => ⟨(onField_imposeDark f cause t).pm.trans ht.1, (onField_imposeDark f cause t).err ht.2⟩)
    (fun t f _ => darkFor_imposeDark f cause t)
    (fun t f g _ hne hg => (darkFor_congr ((onField_imposeDark f cause t).others g hne)).2 hg) allFields ⟨rfl, h⟩
  have hfatal := PowerKept.ofFatal c (allFields.foldl (fun s f => imposeDark f cause s) s)
  exact ⟨fun f hf => (darkFor_congr (fieldOf_congr hfatal.fields f)).2 (hdark f (.inl (List.mem_range.2 hf))), hfatal.err herr,
    liveF_fatal .., hfatal.pm.trans hpm⟩

/-! ### HQ_LIMIT (R248, R450) -/

/-- What granting permits leaves: the fields, the power manager and every register but HQ_PEAK. -/
structure LimitKept (s t : State) : Prop where
  fields : t.fields = s.fields
  pm : t.pm = s.pm
  live : ∀ q a, a < 4096 → a ≠ 0x800 → live t q a = live s q a

theorem LimitKept.refl (s : State) : LimitKept s s := ⟨rfl, rfl, fun _ _ _ _ => rfl⟩

theorem LimitKept.trans {s t u : State} (h : LimitKept s t) (h' : LimitKept t u) : LimitKept s u :=
  ⟨h'.fields.trans h.fields, h'.pm.trans h.pm, fun q a ha hne => (h'.live q a ha hne).trans (h.live q a ha hne)⟩

theorem limitKept_grantPermit (c : Nat) (s : State) : LimitKept s (grantPermit c s) :=
  ⟨rfl, rfl, fun _ _ ha hne => live_setLive_off _ _ (by decide) ha hne.symm⟩

theorem limitKept_grantWaiting (f n : Nat) (s : State) : LimitKept s (grantWaiting f n s) := by
  induction n generalizing s with
  | zero => exact .refl s
  | succ n ih =>
    unfold grantWaiting
    split
    · exact .refl s
    · split
      · next c _ _ _ =>
        have hcore : LimitKept (grantPermit c s) (updCore c (meetWaits fun w => w == .quota) (grantPermit c s)) := ⟨rfl, rfl, fun _ _ _ _ => rfl⟩
        exact ((limitKept_grantPermit c s).trans hcore).trans (ih _)
      · exact .refl s

/-- A pass over the fields sets the limit of each that is not dark. -/
theorem putLimits_spec (s : State) :
    (putLimits s).fields = s.fields ∧ (putLimits s).pm = s.pm ∧ (∀ a, a < 4096 → a ≠ 0x800 → a ≠ 0x60 → ∀ q, live (putLimits s) q a = live s q a) ∧
      ∀ f, f < 80 → fieldSt s f ≠ .dark → live (putLimits s) (pHq f) 0x60 = BitVec.ofNat 32 (1920 - 384 * limitActs s) := by
  let I : State → Prop := fun t => t.fields = s.fields ∧ t.pm = s.pm ∧ ∀ a, a < 4096 → a ≠ 0x800 → a ≠ 0x60 → ∀ q, live t q a = live s q a
  let P : Nat → State → Prop := fun f t => fieldSt s f ≠ .dark → live t (pHq f) 0x60 = BitVec.ofNat 32 (1920 - 384 * limitActs s)
  have hset (t : State) (f : Nat) : LimitKept (setLive (pHq f) 0x60 (BitVec.ofNat 32 (1920 - 384 * limitActs t)) t)
      (grantAll f (setLive (pHq f) 0x60 (BitVec.ofNat 32 (1920 - 384 * limitActs t)) t)) := limitKept_grantWaiting ..
  have hstep (t : State) (f : Nat) (ht : I t) : I (putLimit f t) := by
    unfold putLimit
    split
    · exact ht
    · obtain ⟨hf, hp, hl⟩ := ht
      exact ⟨(hset t f).fields.trans hf, (hset t f).pm.trans hp, fun a ha h800 h60 q =>
        ((hset t f).live q a ha h800).trans ((live_setLive_off _ _ (by decide) ha h60.symm).trans (hl a ha h800 h60 q))⟩
  have hnew (t : State) (f : Nat) (ht : I t) : P f (putLimit f t) := by
    intro hdark
    obtain ⟨hf, hp, -⟩ := ht
    rw [putLimit, if_neg (by rwa [fieldSt_congr hf]), (hset t f).live _ _ (by decide) (by decide), live_setLive_same, limitActs, hp, limitActs]
  have hkeep (t : State) (f g : Nat) (_ : I t) (hne : g ≠ f) (hg : P g t) : P g (putLimit f t) := by
    intro hdark
    unfold putLimit
    split
    · exact hg hdark
    · have hpage : ¬ (pHq f = pHq g ∧ (0x60 : Nat) = 0x60) := fun h => hne (by
        have := h.1
        simp only [pHq, fieldPage] at this
        omega)
      rw [(hset t f).live _ _ (by decide) (by decide), live_setLive _ _ (by decide) (by decide), if_neg hpage, hg hdark]
  obtain ⟨⟨hf, hp, hl⟩, hall⟩ := foldl_each hstep hnew hkeep allFields (s := s) ⟨rfl, rfl, fun _ _ _ _ _ => rfl⟩
  exact ⟨hf, hp, hl, fun f hf80 => hall f (.inl (List.mem_range.2 hf80))⟩

/-! ### Counters of page 0x003A -/

/-- Another field of the register that a counter shares. -/
theorem liveF_countUp_outside {p off hi lo h l k : Nat} (s : State) (hl : l ≤ h) (hlo : lo ≤ hi) (hout : hi < l ∨ h < lo) :
    liveF (countUp p off hi lo k s) p off h l = liveF s p off h l := by
  rw [countUp, setLiveF, liveF, live_setLive_same]
  exact bits_withBits_outside _ hl (by omega)

/-! ### The windows (R435, R449, R450) -/

/-- A window whose power or whose blades exceed the cap. -/
def overWindow (s : State) (w : Nat) (bl : List Nat) : Prop := capEffFine s < 240 * w ∨ ∃ b ∈ bl, 2200 < b

/-- The means of the window are kept. -/
def windowNoted (w now : Nat) (s : State) : State := updPm (fun p => { p with watts := w, wattsAt := now }) s

theorem over_iff (s : State) (w now : Nat) (bl : List Nat) :
    (decide (capEffFine (windowNoted w now s) < 240 * w) || bl.any fun b => decide (2200 < b)) = true ↔ overWindow s w bl := by
  rw [Bool.or_eq_true, decide_eq_true_eq, List.any_eq_true]
  simp only [decide_eq_true_eq]
  exact Iff.rfl

theorem windowEnd_over {s : State} {w now : Nat} {bl : List Nat} (h : overWindow s w bl) :
    windowEnd w bl now s = capAction (updPm (fun p => { p with under := 0 }) (countUp pPmMeas 0x814 31 16 1 (windowNoted w now s))) :=
  if_pos ((over_iff s w now bl).2 h)

theorem windowEnd_within {s : State} {w now : Nat} {bl : List Nat} (h : ¬ overWindow s w bl) :
    windowEnd w bl now s = if 10 * 240 * w < 9 * capEffFine s then
      if s.pm.under + 1 = 10 then capUndo (updPm (fun p => { p with under := 0 }) (windowNoted w now s))
      else updPm (fun p => { p with under := p.under + 1 }) (windowNoted w now s)
    else updPm (fun p => { p with under := 0 }) (windowNoted w now s) := if_neg (mt (over_iff s w now bl).1 h)

/-- The state in which an over window takes its action. -/
def windowOver (w now : Nat) (s : State) : State := updPm (fun p => { p with under := 0 }) (countUp pPmMeas 0x814 31 16 1 (windowNoted w now s))

theorem kilnVictim_mem {s : State} {f : Nat} (h : kilnVictim s = some f) : f < 80 ∧ fieldSt s f = .on ∧ (fieldOf s f).kilnCap = false := by
  have hfold : ∀ (cur : Nat → Nat) (l : List Nat) (b : Option Nat), (l.foldl (fun best f => match best with
      | some g => if cur g < cur f then some f else some g
      | none => some f) b) = some f → b = some f ∨ f ∈ l := by
    intro cur l
    induction l with
    | nil => exact fun b h => .inl h
    | cons x l ih =>
      intro b h
      rcases ih _ h with hb | hmem
      · cases b with
        | none => exact .inr (Option.some.inj hb ▸ List.mem_cons_self)
        | some g =>
          dsimp only at hb
          split at hb
          · exact .inr (Option.some.inj hb ▸ List.mem_cons_self)
          · exact .inl hb
      · exact .inr (List.mem_cons_of_mem _ hmem)
  have hmem := (hfold _ _ _ h).resolve_left nofun
  simpa [allFields] using hmem

/-! ### The action of an over window (R450) -/

theorem counted_windowOver (w now : Nat) (s : State) :
    liveF (windowOver w now s) pPmMeas 0x814 31 16 = Nat.min 0xFFFF (liveF s pPmMeas 0x814 31 16 + 1) :=
  liveF_countUp (windowNoted w now s) (by decide) (by decide)

theorem over_limits {w now : Nat} {bl : List Nat} {s : State} (hover : overWindow s w bl) (hrung : limitActs s < 5) :
    (windowEnd w bl now s).pm = { s.pm with watts := w, wattsAt := now, under := 0, acts := .limit :: s.pm.acts } ∧
      liveF (windowEnd w bl now s) pPmMeas 0x814 31 16 = Nat.min 0xFFFF (liveF s pPmMeas 0x814 31 16 + 1) ∧ (windowEnd w bl now s).fields = s.fields ∧
      ∀ f, f < 80 → fieldSt s f ≠ .dark → live (windowEnd w bl now s) (pHq f) 0x60 = BitVec.ofNat 32 (1920 - 384 * (limitActs s + 1)) := by
  have hact : windowEnd w bl now s = putLimits (updPm (fun p => { p with acts := .limit :: p.acts }) (windowOver w now s)) :=
    (windowEnd_over hover).trans (if_pos hrung)
  obtain ⟨hf, hp, hl, hlim⟩ := putLimits_spec (updPm (fun p => { p with acts := .limit :: p.acts }) (windowOver w now s))
  rw [hact]
  exact ⟨hp, (congrArg (bits · 31 16) (hl _ (by decide) (by decide) (by decide) _)).trans (counted_windowOver w now s), hf, hlim⟩

theorem over_slows {w now : Nat} {bl : List Nat} {s : State} (hover : overWindow s w bl) (hrung : 5 ≤ limitActs s) (hslow : slowActs s < 3) :
    windowEnd w bl now s =
      let fs := allFields.filter fun f => fieldSt s f == .on && decide ((fieldOf s f).powCap < 3)
      updPm (fun p => { p with acts := .slower fs :: p.acts })
        (fs.foldl (fun s f => updField f (fun x => { x with powCap := x.powCap + 1 }) s) (windowOver w now s)) :=
  (windowEnd_over hover).trans ((if_neg (Nat.not_lt.2 hrung)).trans (if_pos hslow))

theorem over_third {w now : Nat} {bl : List Nat} {s : State} (hover : overWindow s w bl) (hrung : 5 ≤ limitActs s) (hslow : 3 ≤ slowActs s) :
    windowEnd w bl now s = match kilnVictim s with
      | some f => recordErrAny pPm E.powerCapKiln (countUp pPmMeas 0x814 7 0 1
          (updPm (fun p => { p with acts := .kiln f :: p.acts }) (updField f (fun x => { x with kilnCap := true }) (windowOver w now s))))
      | none => windowOver w now s :=
  (windowEnd_over hover).trans ((if_neg (Nat.not_lt.2 hrung)).trans (if_neg (Nat.not_lt.2 hslow)))

end Sys2Proof.Machine
end

section
/-! The ladder's steps, coolant and connections; R434, R435, R449, R450, R453 and R456 together. -/

namespace Sys2Proof.Machine

open Sys2Proof

/-- The on fields that are not yet at the slowest step of the power cap. -/
def slowable (s : State) : List Nat := allFields.filter fun f => fieldSt s f == .on && decide ((fieldOf s f).powCap < 3)

theorem mem_slowable {s : State} {f : Nat} : f ∈ slowable s ↔ f < 80 ∧ fieldSt s f = .on ∧ (fieldOf s f).powCap < 3 := by
  simp [slowable, allFields]

theorem nodup_slowable (s : State) : (slowable s).Nodup := List.nodup_range.filter _

theorem pm_foldl_updField (g : FieldPower → FieldPower) (l : List Nat) (s : State) :
    (l.foldl (fun s f => updField f g s) s).pm = s.pm ∧ (l.foldl (fun s f => updField f g s) s).live = s.live :=
  ⟨foldl_same (g := State.pm) (f := fun s f => updField f g s) (fun _ _ => rfl) l s,
    foldl_same (g := State.live) (f := fun s f => updField f g s) (fun _ _ => rfl) l s⟩

/-- The second rung slows every field that can be slowed. -/
theorem over_slowed {w now : Nat} {bl : List Nat} {s : State} (hover : overWindow s w bl) (hrung : 5 ≤ limitActs s) (hslow : slowActs s < 3) :
    (windowEnd w bl now s).pm = { s.pm with watts := w, wattsAt := now, under := 0, acts := .slower (slowable s) :: s.pm.acts } ∧
      liveF (windowEnd w bl now s) pPmMeas 0x814 31 16 = Nat.min 0xFFFF (liveF s pPmMeas 0x814 31 16 + 1) ∧
      ∀ f, fieldOf (windowEnd w bl now s) f = if f ∈ slowable s then { fieldOf s f with powCap := (fieldOf s f).powCap + 1 } else fieldOf s f := by
  obtain ⟨hpm, hlive⟩ := pm_foldl_updField (fun x => { x with powCap := x.powCap + 1 }) (slowable s) (windowOver w now s)
  rw [over_slows hover hrung hslow]
  refine ⟨congrArg (fun p : PowerMgr => { p with acts := .slower (slowable s) :: p.acts }) hpm,
    (congrArg (bits · 31 16) (live_congr hlive _ _)).trans (counted_windowOver w now s), fun f => ?_⟩
  exact fieldOf_foldl_updField _ (nodup_slowable s) (windowOver w now s) f

/-- The third rung imposes kiln on the field with the highest current. -/
theorem over_kiln {w now f : Nat} {bl : List Nat} {s : State} (hover : overWindow s w bl) (hrung : 5 ≤ limitActs s) (hslow : 3 ≤ slowActs s)
    (hv : kilnVictim s = some f) :
    let t := windowEnd w bl now s
    t.pm = { s.pm with watts := w, wattsAt := now, under := 0, acts := .kiln f :: s.pm.acts } ∧
      liveF t pPmMeas 0x814 31 16 = Nat.min 0xFFFF (liveF s pPmMeas 0x814 31 16 + 1) ∧
      liveF t pPmMeas 0x814 7 0 = Nat.min 0xFF (liveF s pPmMeas 0x814 7 0 + 1) ∧
      t.fields = (updField f (fun x => { x with kilnCap := true }) s).fields ∧ errValid t pPm = true := by
  intro t
  let u := updPm (fun p => { p with acts := .kiln f :: p.acts }) (updField f (fun x => { x with kilnCap := true }) (windowOver w now s))
  have ht : t = recordErrAny pPm E.powerCapKiln (countUp pPmMeas 0x814 7 0 1 u) := (over_third hover hrung hslow).trans (by rw [hv])
  have hreg : live t pPmMeas 0x814 = live (countUp pPmMeas 0x814 7 0 1 u) pPmMeas 0x814 := by
    rw [ht]
    exact live_recordErr_ne _ _ _ _ (by decide) (by decide) (by decide) (by decide)
  have hkept := PowerKept.ofRecordErrAny pPm E.powerCapKiln (countUp pPmMeas 0x814 7 0 1 u)
  rw [← ht] at hkept
  refine ⟨hkept.pm, ?_, ?_, hkept.fields, ht ▸ errValid_recordErrAny ..⟩
  · rw [liveF, hreg]
    exact (liveF_countUp_outside u (by decide) (by decide) (by decide)).trans (counted_windowOver w now s)
  · rw [liveF, hreg]
    refine (liveF_countUp u (by decide) (by decide)).trans (congrArg (fun k => Nat.min 0xFF (k + 1)) ?_)
    exact liveF_countUp_outside (windowNoted w now s) (by decide) (by decide) (by decide)

/-! ### The action undone (R450) -/

theorem undo_kept {s : State} {a : CapAct} {l : List CapAct} (h : s.pm.acts = a :: l) : (capUndo s).pm = { s.pm with acts := l } := by
  rw [capUndo, h]
  cases a with
  | limit => exact (putLimits_spec _).2.1
  | slower fs => exact (pm_foldl_updField ..).1
  | kiln f => rfl

theorem undo_kiln {s : State} {f : Nat} {l : List CapAct} (h : s.pm.acts = .kiln f :: l) :
    fieldOf (capUndo s) f = { fieldOf s f with kilnCap := false } := by
  rw [capUndo, h]
  exact fieldOf_updField_same f _ (updPm (fun p => { p with acts := l }) s)

theorem undo_limit {s : State} {l : List CapAct} (h : s.pm.acts = .limit :: l) :
    (capUndo s).fields = s.fields ∧ ∀ f, f < 80 → fieldSt s f ≠ .dark → live (capUndo s) (pHq f) 0x60 = BitVec.ofNat 32 (1920 - 384 * (limitActs s - 1)) := by
  have hacts : limitActs (updPm (fun p => { p with acts := l }) s) = limitActs s - 1 := by
    rw [limitActs, limitActs, h]
    rfl
  obtain ⟨hf, -, -, hlim⟩ := putLimits_spec (updPm (fun p => { p with acts := l }) s)
  rw [hacts] at hlim
  rw [capUndo, h]
  exact ⟨hf, hlim⟩

/-! ### The bounds of CAP_EFF (R449) -/

theorem capEffFine_le (s : State) : capEffFine s ≤ 240 * (100 * liveF s pPm 0x40 8 0) := (Nat.min_le_left _ _).trans (Nat.min_le_left _ _)

theorem capEffFine_low {s : State} (h : s.pm.connSuspect = true ∨ s.pm.inputLow = true) : capEffFine s ≤ 240 * 24750 := by
  have hlow : (if s.pm.connSuspect || s.pm.inputLow then 24750 * 240 else 240 * (100 * liveF s pPm 0x40 8 0)) = 24750 * 240 :=
    if_pos (Bool.or_eq_true _ _ ▸ h)
  exact ((Nat.min_le_left _ _).trans (Nat.min_le_right _ _)).trans (le_of_eq hlow)

/-! ### Coolant and connections (R453, R456) -/

theorem coolantLow_out {s : State} (h : coolantOut s = true) :
    (coolantLow s).pm = { s.pm with coolantLow := true } ∧ (coolantLow s).fields = s.fields ∧ (s.pm.coolantLow = false → errValid (coolantLow s) pPm = true) := by
  rw [coolantLow, if_pos h]
  by_cases hlow : s.pm.coolantLow = true
  · rw [if_pos hlow]
    exact ⟨hlow ▸ rfl, rfl, fun h => absurd hlow (by rw [h]; decide)⟩
  · rw [if_neg hlow]
    have hkept := PowerKept.ofRecordErrAny pPm E.coolantLow (updPm (fun p => { p with coolantLow := true }) s)
    exact ⟨hkept.pm, hkept.fields, fun _ => errValid_recordErrAny ..⟩

theorem connSuspect_first (b : Fin 4) {s : State} (h : s.pm.connSuspect = false) :
    (connSuspect b.val s).pm = { s.pm with connSuspect := true } ∧ errValid (connSuspect b.val s) pPm = true ∧
      (errValid s pPm = false → bits (live (connSuspect b.val s) pPm 0x14) 31 0 = b.val) ∧
      (connSuspect b.val s).recov.reported = s.recov.reported ++ [⟨E.connSuspect, 2, b.val, 0⟩] := by
  let u := updPm (fun p => { p with connSuspect := true }) s
  have hact : connSuspect b.val s = report E.connSuspect 2 b.val (recordErr pPm E.connSuspect (BitVec.ofNat 32 b.val) u) := if_neg (by rw [h]; decide)
  have hkept := PowerKept.ofRecordErr pPm E.connSuspect (BitVec.ofNat 32 b.val) u
  rw [hact]
  refine ⟨hkept.pm, errValid_recordErr pPm E.connSuspect (BitVec.ofNat 32 b.val) u, fun hv => ?_, congrArg (· ++ _) hkept.reported⟩
  have hb := b.isLt
  refine (congrArg (bits · 31 0) (live_recordErr_info (info := BitVec.ofNat 32 b.val) (s := u) hv)).trans ?_
  rw [bits, BitVec.toNat_ofNat]
  omega

/-- Settles O42, a lemma for each rung of the ladder, and one pass over the fields for the fatal conditions. -/
theorem moduleInputCapsAndCoolant : Obligations.ModuleInputCapsAndCoolant := by
  unfold Obligations.ModuleInputCapsAndCoolant
  intro s dark isOver counted kept
  refine ⟨fun now h => ⟨_, congrArg Host.Outcome.next (if_neg (by rw [h]; decide) : powerOnValid now s = _), rfl, rfl, rfl, rfl⟩,
    fun now h => ⟨_, congrArg Host.Outcome.next (if_pos h : powerOnValid now s = _), rfl⟩,
    fun h => ⟨_, congrArg Host.Outcome.next (if_neg (by rw [h]; decide) : inputLow s = _), ?_, errValid_recordErrAny .., ?_⟩,
    fun h => ⟨_, congrArg Host.Outcome.next (if_pos h : inputLow s = _), rfl⟩, ⟨_, rfl, rfl⟩,
    ⟨_, rfl, liveF_countUp s (by decide) (by decide), rfl, rfl⟩, ?range, ?loss, ?limits, ?slows, ?kiln, ?nothing, fun f => kilnVictim_mem, ?under,
    ?within, ?undone, ⟨capEffFine_le s, capEffFine_low⟩, ?coolant, fun h => ⟨_, congrArg Host.Outcome.next (if_neg (by rw [h]; decide) : coolantLow s = _), rfl⟩,
    ?conn, fun b h => ⟨_, congrArg Host.Outcome.next (if_pos h : connSuspect b.val s = _), rfl⟩⟩
  · exact (PowerKept.ofRecordErrAny ..).pm
  · exact (PowerKept.ofRecordErrAny ..).fields
  case range =>
    obtain ⟨hdark, herr, hfatal, hpm⟩ := allDark_spec E.inputRangeFail 7 (errValid_recordErrAny pPm E.inputRangeFail s)
    exact ⟨_, rfl, hdark, herr, hfatal, hpm.trans (PowerKept.ofRecordErrAny ..).pm⟩
  case loss =>
    obtain ⟨hdark, herr, hfatal, hpm⟩ := allDark_spec E.coolantLoss 8 (s := updPm (fun p => { p with coolantTrip := true }) (recordErrAny pPm E.coolantLoss s))
      (errValid_recordErrAny pPm E.coolantLoss s)
    exact ⟨_, rfl, hdark, herr, hfatal, hpm.trans (congrArg (fun p : PowerMgr => { p with coolantTrip := true }) (PowerKept.ofRecordErrAny pPm E.coolantLoss s).pm)⟩
  case limits =>
    intro w bl now hover hrung
    obtain ⟨hpm, hcount, hfields, hlim⟩ := over_limits (now := now) hover hrung
    exact ⟨_, rfl, by simp only [kept, hpm, and_self], hcount, by rw [hpm], by rw [hpm], hlim, hfields⟩
  case slows =>
    intro w bl now hover hrung hslow
    obtain ⟨hpm, hcount, hfields⟩ := over_slowed (now := now) hover hrung hslow
    refine ⟨_, rfl, by simp only [kept, hpm, and_self], hcount, by rw [hpm], ⟨slowable s, by rw [hpm], fun f => mem_slowable⟩, fun f hf => (hfields f).trans ?_⟩
    exact if_congr (mem_slowable.trans (and_iff_right hf)) rfl rfl
  case kiln =>
    intro w bl now f hover hrung hslow hv
    obtain ⟨hpm, hcount, hkiln, hfields, herr⟩ := over_kiln (now := now) hover hrung hslow hv
    exact ⟨_, rfl, by simp only [kept, hpm, and_self], hcount, by rw [hpm], by rw [hpm], (fieldOf_congr hfields f).trans (fieldOf_updField_same ..),
      fun g hg => (fieldOf_congr hfields g).trans (fieldOf_updField_ne _ _ hg.symm), herr, hkiln⟩
  case nothing =>
    intro w bl now hover hrung hslow hv
    have hact : windowEnd w bl now s = windowOver w now s := (over_third hover hrung hslow).trans (by rw [hv])
    exact ⟨_, congrArg Host.Outcome.next hact, ⟨rfl, rfl, rfl, rfl⟩, counted_windowOver w now s, rfl, rfl⟩
  case under =>
    intro w bl now hwithin hlow hnine
    exact ⟨_, congrArg Host.Outcome.next ((windowEnd_within hwithin).trans ((if_pos hlow).trans (if_neg (by omega)))), rfl⟩
  case within =>
    intro w bl now hwithin hhigh
    exact ⟨_, congrArg Host.Outcome.next ((windowEnd_within hwithin).trans (if_neg (by omega))), rfl⟩
  case undone =>
    intro w bl now a l hwithin hlow hnine hacts
    let u := updPm (fun p => { p with under := 0 }) (windowNoted w now s)
    have hact : windowEnd w bl now s = capUndo u := (windowEnd_within hwithin).trans ((if_pos hlow).trans (if_pos (by omega)))
    have hpm : (capUndo u).pm = { s.pm with watts := w, wattsAt := now, under := 0, acts := l } := undo_kept (s := u) hacts
    refine ⟨_, congrArg Host.Outcome.next hact, by simp only [kept, hpm, and_self], by rw [hpm], by rw [hpm], ?_, ?_⟩
    · rintro f rfl
      exact undo_kiln (s := u) hacts
    · rintro rfl
      exact undo_limit (s := u) hacts
  case coolant => exact fun h => ⟨_, rfl, coolantLow_out h⟩
  case conn => exact fun b h => ⟨_, rfl, connSuspect_first b h⟩

end Sys2Proof.Machine
end

section
/-! Phases, converters, breakers, ramps, clock and heat of one field (R437 to R440, R443 to R446, R448, R451, R452, R454, R455, R468). -/

namespace Sys2Proof.Machine

open Sys2Proof

/-! ### Fields that have gone dark -/

/-- A field that is dark and not coming up. -/
def FieldOff (x : FieldPower) : Prop := x.st = .dark ∧ x.attempt = none

theorem fieldOff_iff (x : FieldPower) : x.st = .dark ∧ x.attempt.isNone ↔ FieldOff x := by rw [FieldOff, Option.isNone_iff_eq_none]

theorem fieldOf_goDark_on {f cause : Nat} {s : State} (h : ¬ FieldOff (fieldOf s f)) : fieldOf (goDark f cause s) f = darkened cause (fieldOf s f) := by
  rw [fieldOf_goDark, if_neg (mt (fieldOff_iff _).1 h)]

theorem fieldOf_imposeDark_on {f cause : Nat} {s : State} (h : ¬ FieldOff (fieldOf s f)) :
    fieldOf (imposeDark f cause s) f = darkened cause { fieldOf s f with darkBy := some cause } := by
  rw [fieldOf_imposeDark, if_neg (mt (fieldOff_iff _).1 h)]

/-! ### What leaves the fields -/

theorem fields_recordErr (p : Nat) (c : Code) (info : Word) (s : State) : (recordErr p c info s).fields = s.fields := (PowerKept.ofRecordErr ..).fields
theorem fields_recordErrAny (p : Nat) (c : Code) (s : State) : (recordErrAny p c s).fields = s.fields := (PowerKept.ofRecordErrAny ..).fields

theorem fields_report (c : Code) (kind unit : Nat) (s : State) : (report c kind unit s).fields = s.fields := rfl
theorem fields_updBoot (g : BootUnit → BootUnit) (s : State) : (updBoot g s).fields = s.fields := rfl
theorem fields_fldEvent (f i : Nat) (s : State) : (fldEvent f i s).fields = s.fields := rfl
theorem reported_report (c : Code) (kind unit : Nat) (s : State) : (report c kind unit s).recov.reported = s.recov.reported ++ [⟨c, kind, unit, 0⟩] := rfl
theorem reported_updBoot (g : BootUnit → BootUnit) (s : State) : (updBoot g s).recov.reported = s.recov.reported := rfl

/-- Everything but the converters. -/
def sansConvs (s : State) : State := { s with convs := [] }

theorem sansConvs_injTrigger (n k : Nat) (s : State) : sansConvs (injTrigger n k s) = sansConvs s := by
  unfold injTrigger
  dsimp only
  split
  · rfl
  · split <;> rfl

theorem sansConvs_fieldTrigger (f k : Nat) (s : State) : sansConvs (fieldTrigger f k s) = sansConvs s :=
  (sansConvs_injTrigger ..).trans (sansConvs_injTrigger ..)

theorem fields_fieldTrigger (f k : Nat) (s : State) : (fieldTrigger f k s).fields = s.fields := (congrArg State.fields (sansConvs_fieldTrigger f k s) :)
theorem recov_fieldTrigger (f k : Nat) (s : State) : (fieldTrigger f k s).recov = s.recov := (congrArg State.recov (sansConvs_fieldTrigger f k s) :)

/-! ### Phases (R437, R438) -/

theorem railPhases_setRail (r : Rail) (m : Map PhaseSt) (x : FieldPower) : railPhases (setRail r m x) r = m := by cases r <;> rfl

/-- A rail holds one fewer, or a changed, phase; the rest of the field stands. -/
theorem st_setRail (r : Rail) (m : Map PhaseSt) (x : FieldPower) : (setRail r m x).st = x.st := by cases r <;> rfl

/-- A rail of the field is set. -/
theorem railPhases_setField (f : Nat) (r : Rail) (m : Map PhaseSt) (x : FieldPower) (s : State) :
    railPhases (fieldOf (setField f (setRail r m x) s) f) r = m := by rw [fieldOf_setField_same, railPhases_setRail]

theorem phasesChanged_nine {f : Nat} {s : State} (hon : ¬ FieldOff (fieldOf s f)) (h : 9 ≤ phasesDown (fieldOf s f).vcore) :
    phasesChanged f s = fieldFault f E.phaseFail (imposeDark f 4 s) := (if_neg (mt (fieldOff_iff _).1 hon)).trans (if_pos h)

theorem phasesChanged_three {f : Nat} {s : State} (hon : ¬ FieldOff (fieldOf s f)) (h : phasesDown (fieldOf s f).vcore < 9)
    (hrail : 3 ≤ phasesDown (fieldOf s f).vret ∨ 3 ≤ phasesDown (fieldOf s f).vfab) :
    phasesChanged f s = fieldFault f E.railFail (imposeDark f 6 (recordErrAny (fieldPage f 3) E.railFail s)) :=
  (if_neg (mt (fieldOff_iff _).1 hon)).trans ((if_neg (Nat.not_le.2 h)).trans (if_pos hrail))

theorem phasesChanged_few {f : Nat} {s : State} (h : phasesDown (fieldOf s f).vcore < 9) (hret : phasesDown (fieldOf s f).vret < 3)
    (hfab : phasesDown (fieldOf s f).vfab < 3) : phasesChanged f s = s := by
  unfold phasesChanged
  dsimp only
  rw [if_neg (Nat.not_le.2 h), if_neg (not_or.2 ⟨Nat.not_le.2 hret, Nat.not_le.2 hfab⟩), ite_self]

/-- A field that its faulty parts have darkened is reported. -/
theorem fieldFault_imposeDark {f cause : Nat} {c : Code} {s u : State} (hkept : PowerKept s u) (hon : ¬ FieldOff (fieldOf s f)) :
    let t := fieldFault f c (imposeDark f cause u)
    (fieldSt t f = .dark ∧ (fieldOf t f).attempt = none ∧ (fieldOf t f).brkClosed = false) ∧ (fieldOf t f).darkBy = some cause ∧
      (fieldOf t f).lastDark = cause ∧ t.recov.reported = s.recov.reported ++ [⟨c, 2, f, 0⟩] := by
  intro t
  have hu : fieldOf u f = fieldOf s f := fieldOf_congr hkept.fields f
  have hfield : fieldOf t f = darkened cause { fieldOf u f with darkBy := some cause } := fieldOf_imposeDark_on (by rwa [hu])
  refine ⟨⟨?_, ?_, ?_⟩, ?_, ?_, congrArg (· ++ _) ((onField_imposeDark f cause u).reported.trans hkept.reported)⟩
  · rw [fieldSt, hfield]
    rfl
  all_goals rw [hfield]; rfl

/-- The first fault of a phase switches it off. -/
theorem phaseFault_first {f p : Nat} {r : Rail} {s : State} (hon : ¬ FieldOff (fieldOf s f)) (hp : p < railSize r)
    (h : mfind (railPhases (fieldOf s f) r) p = none) :
    let u := fieldTrigger f 0 (setField f (setRail r (mput (railPhases (fieldOf s f) r) p .off) (fieldOf s f)) s)
    phaseFault f r p s = phasesChanged f u ∧ mfind (railPhases (fieldOf u f) r) p = some .off ∧ u.recov = s.recov ∧
      fieldSt u f = (fieldOf s f).st := by
  intro u
  have hu : fieldOf u f = setRail r (mput (railPhases (fieldOf s f) r) p .off) (fieldOf s f) :=
    (fieldOf_congr (fields_fieldTrigger ..) f).trans (fieldOf_setField_same ..)
  refine ⟨?_, ?_, recov_fieldTrigger .., ?_⟩
  · unfold phaseFault
    dsimp only
    rw [if_neg (by rw [fieldOff_iff]; exact not_or.2 ⟨Nat.not_le.2 hp, hon⟩), h]
  · rw [hu, railPhases_setRail, mfind_mput_same]
  · rw [fieldSt, hu, st_setRail]

/-- The state in which a phase that was tried again has failed, before the field acts on it. -/
def phaseFailed (f : Nat) (r : Rail) (p : Nat) (s : State) : State :=
  report E.phaseFail 2 f (updBoot (fun b => { b with floorDue := true }) (recordErrAny (railPage f r) E.phaseFail (fldEvent f 1 (fieldTrigger f 0
    (setField f (setRail r (mput (railPhases (fieldOf s f) r) p .failed) (fieldOf s f)) s)))))

theorem phaseFault_again {f p : Nat} {r : Rail} {s : State} (hon : ¬ FieldOff (fieldOf s f)) (hp : p < railSize r)
    (h : mfind (railPhases (fieldOf s f) r) p = some .retried) : phaseFault f r p s = phasesChanged f (phaseFailed f r p s) := by
  unfold phaseFault phaseFailed
  dsimp only
  rw [if_neg (by rw [fieldOff_iff]; exact not_or.2 ⟨Nat.not_le.2 hp, hon⟩), h]

theorem fields_phaseFailed (f : Nat) (r : Rail) (p : Nat) (s : State) : (phaseFailed f r p s).fields =
    (setField f (setRail r (mput (railPhases (fieldOf s f) r) p .failed) (fieldOf s f)) s).fields := by
  rw [phaseFailed, fields_report, fields_updBoot, fields_recordErrAny, fields_fldEvent, fields_fieldTrigger]

/-- A phase that fails again is FAILED, recorded, reported and due in the floor map. -/
theorem phaseFailed_spec (f : Nat) (r : Rail) (p : Nat) (s : State) :
    mfind (railPhases (fieldOf (phaseFailed f r p s) f) r) p = some .failed ∧
      (phaseFailed f r p s).recov.reported = s.recov.reported ++ [⟨E.phaseFail, 2, f, 0⟩] ∧ errValid (phaseFailed f r p s) (railPage f r) = true ∧
      (phaseFailed f r p s).boot.floorDue = true := by
  refine ⟨?_, ?_, errValid_recordErrAny (railPage f r) E.phaseFail _, rfl⟩
  · rw [fieldOf_congr (fields_phaseFailed ..), railPhases_setField, mfind_mput_same]
  · rw [phaseFailed, reported_report, reported_updBoot, (PowerKept.ofRecordErrAny ..).reported, (PowerKept.ofFldEvent ..).reported, recov_fieldTrigger]
    rfl

theorem phaseFault_same {f p : Nat} {r : Rail} {s : State} (h : railSize r ≤ p ∨ FieldOff (fieldOf s f) ∨
    mfind (railPhases (fieldOf s f) r) p = some .off ∨ mfind (railPhases (fieldOf s f) r) p = some .failed) : phaseFault f r p s = s := by
  unfold phaseFault
  dsimp only
  by_cases hno : railSize r ≤ p ∨ (fieldOf s f).st = .dark ∧ (fieldOf s f).attempt.isNone
  · rw [if_pos hno]
  · rw [if_neg hno]
    rw [fieldOff_iff] at hno
    rcases h with h | h | h | h
    · exact absurd (.inl h) hno
    · exact absurd (.inr h) hno
    · rw [h]
    · rw [h]

theorem phaseRetry_off {f p : Nat} {r : Rail} {s : State} (h : mfind (railPhases (fieldOf s f) r) p = some .off) :
    railPhases (fieldOf (phaseRetry f r p s) f) r = mput (railPhases (fieldOf s f) r) p .retried := by
  rw [phaseRetry, if_pos h]
  exact railPhases_setField ..

/-- A register of a page other than the interrupts' is not touched by an error's record, BLK_ERR and BLK_ERRINFO aside. -/
theorem live_recordErr_page {q a : Nat} (p : Nat) (c : Code) (info : Word) (s : State) (ha : a < 4096) (hcode : a ≠ 0x10) (hinfo : a ≠ 0x14)
    (hq : q ≠ pIrq) : live (recordErr p c info s) q a = live s q a := by
  have hset (v : Word) (u : State) : live (setLive pIrq 0x800 v u) q a = live u q a := by
    rw [live_setLive _ _ (by decide) ha, if_neg fun h => hq h.1.symm]
  have hirq (u : State) : live (raiseIrq 1 u) q a = live u q a := by
    unfold raiseIrq
    dsimp only
    split
    · rfl
    · split
      · exact (live_congr (live_sendDue _) q a).trans (hset _ _)
      · exact hset _ _
  unfold recordErr
  split
  · exact live_setLive_off _ _ (by decide) ha hcode.symm
  · dsimp only
    split
    · exact (live_setLive_off _ _ (by decide) ha hinfo.symm).trans (live_setLive_off _ _ (by decide) ha hcode.symm)
    · exact (hirq _).trans ((live_setLive_off _ _ (by decide) ha hinfo.symm).trans (live_setLive_off _ _ (by decide) ha hcode.symm))

/-- Whether a clean VCORE phase is counted (R437). -/
def countClean (f : Nat) (r : Rail) (s : State) : State := if r = .vcore then countUp (fieldPage f 2) 0x800 15 0 1 s else s

theorem countClean_kept (f : Nat) (r : Rail) (s : State) : (countClean f r s).fields = s.fields ∧ (countClean f r s).recov = s.recov ∧
    ∀ p, errValid (countClean f r s) p = errValid s p := by
  unfold countClean
  split
  · exact ⟨rfl, rfl, fun p => errValid_setLive _ _ _ _ (by decide) (by decide)⟩
  · exact ⟨rfl, rfl, fun _ => rfl⟩

/-- A phase that stays clean after its second try was transient: recorded, counted and logged. -/
theorem phaseClean_retried {f p : Nat} {r : Rail} {s : State} (h : mfind (railPhases (fieldOf s f) r) p = some .retried) :
    let t := phaseClean f r p s
    railPhases (fieldOf t f) r = mdel (railPhases (fieldOf s f) r) p ∧ errValid t (railPage f r) = true ∧
      t.recov.log = (⟨s.recov.nextLog, E.phaseRetry, 2, 1, f, 0⟩ :: s.recov.log).take 64 ∧
      (r = .vcore → liveF t (fieldPage f 2) 0x800 15 0 = Nat.min 0xFFFF (liveF s (fieldPage f 2) 0x800 15 0 + 1)) := by
  intro t
  let u := setField f (setRail r (mdel (railPhases (fieldOf s f) r) p) (fieldOf s f)) s
  let v := recordErrAny (railPage f r) E.phaseRetry u
  have ht : t = logTransient E.phaseRetry 2 f (countClean f r v) := if_pos h
  obtain ⟨hfields, hrecov, herr⟩ := countClean_kept f r v
  have hlog : v.recov = s.recov := (congrArg State.recov (offRegs_recordErrAny (railPage f r) E.phaseRetry u) :)
  rw [ht]
  refine ⟨?_, ?_, ?_, fun hr => ?_⟩
  · have hfield : fieldOf (logTransient E.phaseRetry 2 f (countClean f r v)) f = fieldOf u f :=
      fieldOf_congr (hfields.trans (fields_recordErrAny ..)) f
    rw [hfield]
    exact railPhases_setField ..
  · exact (errValid_setLive (off := 0xA10) 0 (railPage f r) _ _ (by decide) (by decide)).trans ((herr _).trans (errValid_recordErrAny ..))
  · exact congrArg (fun k : Recovery => (LogEntry.mk k.nextLog E.phaseRetry 2 1 f 0 :: k.log).take 64) (hrecov.trans hlog)
  · have hpage : ¬ (0 = fieldPage f 2 ∧ (0xA10 : Nat) = 0x800) := fun h => absurd h.2 (by decide)
    have hcount : liveF (logTransient E.phaseRetry 2 f (countClean f r v)) (fieldPage f 2) 0x800 15 0 = liveF (countClean f r v) (fieldPage f 2) 0x800 15 0 :=
      congrArg (bits · 15 0) ((live_setLive _ _ (by decide) (by decide)).trans (if_neg hpage))
    have hv : live v (fieldPage f 2) 0x800 = live s (fieldPage f 2) 0x800 :=
      live_recordErr_page _ _ _ _ (by decide) (by decide) (by decide) (by rw [fieldPage, pIrq]; omega)
    rw [hcount, countClean, if_pos hr, liveF_countUp v (by decide) (by decide), liveF, hv]
    rfl

end Sys2Proof.Machine
end

section
/-! Converters, breakers, the way up, clock and heat of one field; its rules together. -/

namespace Sys2Proof.Machine

open Sys2Proof

/-! ### Converters and breakers (R438, R454, R455) -/

theorem converterFault_first {f : Nat} (b : Bool) {s : State} (hon : ¬ FieldOff (fieldOf s f)) (ha : (fieldOf s f).fcA = false)
    (hb : (fieldOf s f).fcB = false) :
    let t := converterFault f b s
    fieldOf t f = (if b then { fieldOf s f with fcB := true } else { fieldOf s f with fcA := true }) ∧
      t.recov.reported = s.recov.reported ++ [⟨E.convDegraded, 2, f, 0⟩] ∧ errValid t (fieldPage f 3) = true := by
  intro t
  let u := updField f (fun x => if b then { x with fcB := true } else { x with fcA := true }) s
  have hfirst : ¬ ((fieldOf s f).st = .dark ∧ (fieldOf s f).attempt.isNone ∨ (if b then (fieldOf s f).fcB else (fieldOf s f).fcA) = true) := by
    rw [fieldOff_iff, ha, hb, ite_self]
    exact not_or.2 ⟨hon, Bool.false_ne_true⟩
  have hother : ¬ (if b then (fieldOf s f).fcA else (fieldOf s f).fcB) = true := by
    rw [ha, hb, ite_self]
    exact Bool.false_ne_true
  have ht : t = report E.convDegraded 2 f (recordErrAny (fieldPage f 3) E.convDegraded u) := (if_neg hfirst).trans (if_neg hother)
  have hkept := PowerKept.ofRecordErrAny (fieldPage f 3) E.convDegraded u
  rw [ht]
  refine ⟨?_, congrArg (· ++ _) hkept.reported, errValid_recordErrAny (fieldPage f 3) E.convDegraded u⟩
  rw [fieldOf_congr (fields_report ..), fieldOf_congr hkept.fields]
  exact fieldOf_updField_same ..

/-- The second failed converter takes the field down. -/
theorem converterFault_second {f : Nat} {b : Bool} {s : State} (hon : ¬ FieldOff (fieldOf s f))
    (hfirst : (if b then (fieldOf s f).fcB else (fieldOf s f).fcA) = false) (hother : (if b then (fieldOf s f).fcA else (fieldOf s f).fcB) = true) :
    let t := converterFault f b s
    (fieldSt t f = .dark ∧ (fieldOf t f).attempt = none ∧ (fieldOf t f).brkClosed = false) ∧ (fieldOf t f).darkBy = some 5 ∧
      t.recov.reported = s.recov.reported ++ [⟨E.convDegraded, 2, f, 0⟩] := by
  intro t
  let u := updField f (fun x => if b then { x with fcB := true } else { x with fcA := true }) s
  have hacts : ¬ ((fieldOf s f).st = .dark ∧ (fieldOf s f).attempt.isNone ∨ (if b then (fieldOf s f).fcB else (fieldOf s f).fcA) = true) := by
    rw [fieldOff_iff, hfirst]
    exact not_or.2 ⟨hon, Bool.false_ne_true⟩
  have ht : t = fieldFault f E.convDegraded (imposeDark f 5 u) := (if_neg hacts).trans (if_pos hother)
  have hu : ¬ FieldOff (fieldOf u f) := by
    rw [(fieldOf_updField_same .. : fieldOf u f = _)]
    cases b <;> exact hon
  obtain ⟨hdark, hby, -, htold⟩ := fieldFault_imposeDark (cause := 5) (c := E.convDegraded) (PowerKept.refl u) hu
  rw [ht]
  exact ⟨hdark, hby, htold⟩

theorem converterFault_same {f : Nat} {b : Bool} {s : State} (h : FieldOff (fieldOf s f) ∨ (if b then (fieldOf s f).fcB else (fieldOf s f).fcA) = true) :
    converterFault f b s = s := if_pos (by rwa [fieldOff_iff])

/-- A field whose breaker has tripped is dark and keeps what the trip noted. -/
theorem breakerTrip_over {f now : Nat} {s : State} (hclosed : (fieldOf s f).brkClosed = true) (hon : ¬ FieldOff (fieldOf s f)) :
    let t := breakerTrip f true now s
    fieldOf t f = darkened 3 { fieldOf s f with overTemp := true } ∧ errValid t pPm = true ∧
      t.recov.reported = s.recov.reported ++ [⟨E.overTemp, 2, f, 0⟩] := by
  intro t
  let u := updField f (fun x => { x with overTemp := true }) s
  have ht : t = fieldFault f E.overTemp (recordErrAny pPm E.overTemp (goDark f 3 u)) := (if_neg (by rw [hclosed]; decide)).trans (if_pos rfl)
  have hu : fieldOf u f = { fieldOf s f with overTemp := true } := fieldOf_updField_same ..
  have hkept := PowerKept.ofRecordErrAny pPm E.overTemp (goDark f 3 u)
  rw [ht, fieldFault]
  refine ⟨?_, errValid_recordErrAny pPm E.overTemp (goDark f 3 u), ?_⟩
  · rw [fieldOf_congr (fields_report ..), fieldOf_congr hkept.fields, fieldOf_goDark_on (by rw [hu]; exact hon), hu]
  · rw [reported_report, hkept.reported, (onField_goDark ..).reported]
    rfl

/-- Whether a trip comes within 60 s of a RECLOSE (R455). -/
def soonAgain (x : FieldPower) (now : Nat) : Bool := match x.reclosedAt with
  | some r => decide (now - r ≤ 240000000000)
  | none => false

theorem breakerTrip_short {f now : Nat} {s : State} (hclosed : (fieldOf s f).brkClosed = true) (hon : ¬ FieldOff (fieldOf s f)) :
    let t := breakerTrip f false now s
    fieldOf t f = darkened 2 { fieldOf s f with shortAt := some now, brkLocked := (fieldOf s f).brkLocked || soonAgain (fieldOf s f) now } ∧
      errValid t pPm = true ∧ t.recov.reported = s.recov.reported ++ [⟨E.fieldShort, 2, f, 0⟩] := by
  intro t
  let lock := soonAgain (fieldOf s f) now
  let u := updField f (fun x => { x with shortAt := some now, brkLocked := x.brkLocked || lock }) s
  let v := recordErrAny pPm E.fieldShort (goDark f 2 u)
  let w := if lock then recordErrAny pPmField E.breakerLocked v else v
  have ht : t = fieldFault f E.fieldShort w := (if_neg (by rw [hclosed]; decide)).trans (if_neg Bool.false_ne_true)
  have hu : fieldOf u f = { fieldOf s f with shortAt := some now, brkLocked := (fieldOf s f).brkLocked || lock } := fieldOf_updField_same ..
  have hkept : PowerKept (goDark f 2 u) v := .ofRecordErrAny ..
  have hlock : PowerKept v w := by
    unfold w
    split
    · exact .ofRecordErrAny ..
    · exact .refl v
  rw [ht, fieldFault]
  refine ⟨?_, hlock.err (errValid_recordErrAny pPm E.fieldShort (goDark f 2 u)), ?_⟩
  · rw [fieldOf_congr (fields_report ..), fieldOf_congr hlock.fields, fieldOf_congr hkept.fields, fieldOf_goDark_on (by rw [hu]; exact hon), hu]
  · rw [reported_report, hlock.reported, hkept.reported, (onField_goDark ..).reported]
    rfl

/-- What keeps a field's breaker from being closed again. -/
def recloseBarred (s : State) (f now : Nat) : Prop :=
  80 ≤ f ∨ fieldSt s f ≠ .dark ∨ (fieldOf s f).brkLocked = true ∨ ∃ r, (fieldOf s f).shortAt = some r ∧ now - r < 40000000000

theorem early_iff (o : Option Nat) (now : Nat) : (match o with
    | some t => decide (now - t < seconds 10)
    | none => false) = true ↔ ∃ r, o = some r ∧ now - r < 40000000000 := by
  cases o with
  | none => simp
  | some r => exact decide_eq_true_iff.trans (by simp [seconds])

theorem recloseBarred_iff (s : State) (f now : Nat) : (decide (80 ≤ f) || (fieldOf s f).st != .dark || (fieldOf s f).brkLocked || (match (fieldOf s f).shortAt with
    | some t => decide (now - t < seconds 10)
    | none => false)) = true ↔ recloseBarred s f now := by
  rw [Bool.or_eq_true, early_iff, Bool.or_eq_true, Bool.or_eq_true, decide_eq_true_eq, bne_iff_ne, or_assoc, or_assoc]
  exact Iff.rfl

theorem reclose_barred {f now : Nat} {s : State} (h : recloseBarred s f now) :
    live (reclose f now s) pPmField 0x804 ≠ 0 ∧ (reclose f now s).fields = s.fields := by
  have hact : reclose f now s = setLive pPmField 0x804 (BitVec.ofNat 32 (Nat.max 1 (bits (freshWord s).1 15 0))) (freshWord s).2 :=
    if_pos ((recloseBarred_iff s f now).2 h)
  rw [hact, live_setLive_same]
  refine ⟨fun hzero => ?_, rfl⟩
  have hlt : bits (freshWord s).1 15 0 < 2 ^ (15 - 0 + 1) := bits_lt ..
  have hmax : Nat.max 1 (bits (freshWord s).1 15 0) < 2 ^ 32 := Nat.max_lt.2 ⟨by decide, lt_trans hlt (by decide)⟩
  have hone : 1 ≤ Nat.max 1 (bits (freshWord s).1 15 0) := Nat.le_max_left ..
  have hnat := congrArg BitVec.toNat hzero
  rw [BitVec.toNat_ofNat, Nat.mod_eq_of_lt hmax] at hnat
  rw [hnat] at hone
  exact absurd hone (by decide)

theorem reclose_opens {f now : Nat} {s : State} (h : ¬ recloseBarred s f now) :
    live (reclose f now s) pPmField 0x804 = 0 ∧ fieldOf (reclose f now s) f =
      if (fieldOf s f).shortAt.isSome then { fieldOf s f with shortAt := none, reclosedAt := some now } else fieldOf s f := by
  have hact : reclose f now s = if (fieldOf s f).shortAt.isSome then
      updField f (fun x => { x with shortAt := none, reclosedAt := some now }) (setLive pPmField 0x804 0 s) else setLive pPmField 0x804 0 s :=
    if_neg (mt (recloseBarred_iff s f now).1 h)
  have hlive (g : FieldPower → FieldPower) (u : State) : live (updField f g u) pPmField 0x804 = live u pPmField 0x804 := rfl
  rw [hact]
  split
  · exact ⟨(hlive _ _).trans (live_setLive_same ..), fieldOf_updField_same f _ (setLive pPmField 0x804 0 s)⟩
  · exact ⟨live_setLive_same .., rfl⟩

/-! ### The field's controller boots (R443, R515) -/

/-- Booting a unit changes no field, and not whether service is ready. -/
theorem bootUnit_kept (c u : Nat) (s : State) :
    (bootUnit c u s).2.fields = s.fields ∧ (bootUnit c u s).2.boot.serviceReady = s.boot.serviceReady := by
  have hrec (t : State) (p : Nat) (e : Code) (i : Word) : (recordErr p e i t).fields = t.fields ∧ (recordErr p e i t).boot = t.boot :=
    ⟨fields_recordErr .., (congrArg State.boot (offRegs_recordErr ..) :)⟩
  have hmode (t : State) (e : Code) : (serviceMode e t).fields = t.fields ∧ (serviceMode e t).boot.serviceReady = t.boot.serviceReady := by
    unfold serviceMode
    split <;> exact ⟨rfl, rfl⟩
  have hcomp (t : State) (g : Component → Component) : (updComp c g t).fields = t.fields ∧ (updComp c g t).boot.serviceReady = t.boot.serviceReady := ⟨rfl, rfl⟩
  have hruns (t : State) (k : Nat) (b : Bool) : (unitRuns c u k b t).fields = t.fields ∧ (unitRuns c u k b t).boot.serviceReady = t.boot.serviceReady := ⟨rfl, rfl⟩
  unfold bootUnit
  dsimp only
  split
  · exact hruns ..
  · split
    · exact ⟨((hcomp _ _).1.trans (hruns _ _ _).1).trans ((hrec _ _ _ _).1.trans (hcomp _ _).1),
        ((hcomp _ _).2.trans (hruns _ _ _).2).trans ((congrArg BootUnit.serviceReady (hrec _ _ _ _).2).trans (hcomp _ _).2)⟩
    · exact ⟨((hmode _ _).1.trans (hcomp _ _).1).trans ((hrec _ _ _ _).1.trans (hcomp _ _).1),
        ((hmode _ _).2.trans (hcomp _ _).2).trans ((congrArg BootUnit.serviceReady (hrec _ _ _ _).2).trans (hcomp _ _).2)⟩

theorem fields_setConv (n : Nat) (x : Conv) (s : State) : (setConv n x s).fields = s.fields := rfl
theorem fields_updConv (n : Nat) (g : Conv → Conv) (s : State) : (updConv n g s).fields = s.fields := rfl

theorem fields_calOutcome (n z y : Nat) (s : State) : (calOutcome n z y s).fields = s.fields := by
  unfold calOutcome
  split
  · dsimp only
    split <;> rfl
  · have hrec : (recordErrAny (pTel n) E.telemCalFail (telEvent n 2 s)).fields = s.fields := fields_recordErrAny ..
    have hconv (g : Conv → Conv) (t : State) : (calOutcome.updBoot' (updConv n g t)).fields = t.fields := rfl
    dsimp only
    split
    · rw [fields_report, hconv, fields_updConv, hrec]
    · rw [fields_updConv, hrec]

theorem fields_railCals (n : Nat) (l : List (Nat × Nat)) (s : State) : (railCals n l s).fields = s.fields := by
  unfold railCals
  split
  · rfl
  · dsimp only
    split
    · exact (fields_calOutcome ..).trans (fields_calOutcome ..)
    · exact fields_calOutcome ..

theorem fields_startPass (n now : Nat) (s : State) : (startPass n now s).fields = s.fields := by
  unfold startPass
  split <;> rfl

theorem fields_telCommit (n now : Nat) (s : State) : (telCommit n now s).fields = s.fields := by
  unfold telCommit
  simp only [apply_ite State.fields, fields_setConv, fields_startPass, ite_self]

theorem fields_railSeq (n : Nat) (l : List Nat) (now : Nat) (s : State) : (railSeq n l now s).fields = s.fields := (fields_telCommit ..).trans rfl

theorem fields_putLimit (f : Nat) (s : State) : (putLimit f s).fields = s.fields := by
  unfold putLimit
  split
  · rfl
  · exact (limitKept_grantWaiting ..).fields

theorem fields_reloadKeys (n : Nat) (s : State) : (reloadKeys n s).fields = s.fields := foldl_same (g := State.fields) (fun _ _ => by rfl) ..

/-! ### The rail stage (R443) -/

/-- A field is up in kiln, unless a dark target has been imposed on it. -/
def RailUp (routed : Bool) (f : Nat) (t : State) : Prop :=
  (fieldOf t f).darkBy = none → fieldSt t f = .kiln ∧ (fieldOf t f).ready = true ∧ (fieldOf t f).unrouted = routed

theorem RailUp.congr {b : Bool} {f : Nat} {s t : State} (h : RailUp b f s) (hf : t.fields = s.fields) : RailUp b f t := by
  rwa [RailUp, fieldSt, fieldOf_congr hf]

theorem railUp_imposeDark (b : Bool) (f cause : Nat) (s : State) : RailUp b f (imposeDark f cause s) := by
  intro h
  rw [fieldOf_imposeDark] at h
  split at h <;> exact nomatch h

theorem RailUp.pairLost {b : Bool} {f : Nat} {s : State} (h : RailUp b f s) (hf : f < 80) : RailUp b f (pairLost (2 * f) s) := by
  have hpair : 2 * f / 2 = f := by omega
  unfold Machine.pairLost
  split
  · rw [if_pos (by omega), hpair]
    exact (railUp_imposeDark b f 9 s).congr (fields_report ..)
  · exact h

/-- The stacks whose edge field comes up boot, or darken it. -/
def stacksUp (f : Nat) (s : State) : State :=
  ((List.range 24).filter fun n => stackField n == f).foldl (fun s n =>
    let t := (bootUnit 3 n s).2
    if (compAt t 3).dead.contains n then imposeDark f 11 t else reloadKeys n t) s

theorem RailUp.stacksUp {b : Bool} {f : Nat} {s : State} (h : RailUp b f s) : RailUp b f (stacksUp f s) := by
  unfold Machine.stacksUp
  induction (List.range 24).filter (fun n => stackField n == f) generalizing s with
  | nil => exact h
  | cons n l ih =>
    refine ih ?_
    dsimp only
    split
    · exact railUp_imposeDark b f 11 (bootUnit 3 n s).2
    · exact (h.congr (bootUnit_kept 3 n s).1).congr (fields_reloadKeys ..)

/-- The field's state as its controller reports READY. -/
def railReady (f : Nat) (s : State) : State :=
  fldEvent f 2 (updField f (fun x => { x with
    st := .kiln, ready := true, unrouted := s.boot.serviceReady, overTemp := false, attempt := some ⟨1, false, 0⟩ }) s)

theorem railUp_railReady (f : Nat) (s : State) : RailUp s.boot.serviceReady f (railReady f s) := by
  intro _
  rw [fieldSt, railReady, fieldOf_congr (fields_fldEvent ..), fieldOf_updField_same]
  exact ⟨rfl, rfl, rfl⟩

/-- The converters of the field are calibrated and configured. -/
def railConverters (f : Nat) (calA calB : List (Nat × Nat)) (now : Nat) (s : State) : State :=
  railSeq (2 * f + 1) ((s.boot.cfg.map (·.telB)).getD (telDefaults true)) now
    (railSeq (2 * f) ((s.boot.cfg.map (·.telA)).getD (telDefaults false)) now (railCals (2 * f + 1) calB (railCals (2 * f) calA s)))

theorem fields_railConverters (f : Nat) (calA calB : List (Nat × Nat)) (now : Nat) (s : State) : (railConverters f calA calB now s).fields = s.fields := by
  rw [railConverters, fields_railSeq, fields_railSeq, fields_railCals, fields_railCals]

theorem railDone_booted {f : Nat} {la lb : List (Nat × Nat)} {s : State} {a : Attempt} (ha : (fieldOf s f).attempt = some a) (hrun : a.running = true)
    (hstage : a.stage = 0) (hboot : (compAt (bootUnit 2 f s).2 2).dead.contains f = false) :
    railDone f la lb s =
      let t := stacksUp f (putLimit f (pairLost (2 * f) (railConverters f la lb s.beat.tickAt (railReady f (bootUnit 2 f s).2))))
      if effTarget t f = .kiln then updField f (fun x => { x with attempt := none }) t else t := by
  unfold railDone
  rw [ha]
  dsimp only
  rw [if_neg (by rw [hstage, hrun]; decide), if_neg (by rw [hboot]; decide)]
  rfl

theorem railDone_dead {f : Nat} {la lb : List (Nat × Nat)} {s : State} {a : Attempt} (ha : (fieldOf s f).attempt = some a) (hrun : a.running = true)
    (hstage : a.stage = 0) (hboot : (compAt (bootUnit 2 f s).2 2).dead.contains f = true) :
    railDone f la lb s = fieldFault f E.fwSigFail (imposeDark f 11 (bootUnit 2 f s).2) := by
  unfold railDone
  rw [ha]
  dsimp only
  rw [if_neg (by rw [hstage, hrun]; decide), if_pos hboot]

theorem railUp_railDone {f : Nat} (hf : f < 80) {la lb : List (Nat × Nat)} {s : State} {a : Attempt} (ha : (fieldOf s f).attempt = some a)
    (hrun : a.running = true) (hstage : a.stage = 0) (hboot : (compAt (bootUnit 2 f s).2 2).dead.contains f = false) :
    RailUp s.boot.serviceReady f (railDone f la lb s) := by
  rw [railDone_booted ha hrun hstage hboot, ← (bootUnit_kept 2 f s).2]
  have hup := ((((railUp_railReady f (bootUnit 2 f s).2).congr (fields_railConverters f la lb s.beat.tickAt _)).pairLost hf).congr (fields_putLimit f _)).stacksUp
  dsimp only
  split
  · intro hby
    rw [fieldOf_updField_same] at hby
    rw [fieldSt, fieldOf_updField_same]
    exact hup hby
  · exact hup

theorem railDone_same {f : Nat} {la lb : List (Nat × Nat)} {s : State} (h : ∀ a, (fieldOf s f).attempt = some a → a.running = false ∨ a.stage ≠ 0) :
    railDone f la lb s = s := by
  unfold railDone
  split
  · next a ha =>
    refine if_pos ?_
    rcases h a ha with h | h
    · exact .inr (by rw [h]; rfl)
    · exact .inl h
  · rfl

end Sys2Proof.Machine
end

section
/-! Clock, heat and current of one field, and the rules of fields together. -/

namespace Sys2Proof.Machine

open Sys2Proof

/-! ### Clock, heat and current (R436, R448, R451, R452, R468) -/

theorem vcoreOfStep_lt {k : Nat} (h : k < 4) : vcoreOfStep k = [850, 750, 680, 600].getD k 0 := by
  have hall : ∀ k < 4, vcoreOfStep k = [850, 750, 680, 600].getD k 0 := by decide
  exact hall k h

theorem vcoreSet_on {s : State} {f : Nat} (h : (fieldOf s f).st = .on) : vcoreSet s f = 8 * vcoreOfStep (fieldOf s f).clk := by
  unfold vcoreSet
  dsimp only
  rw [h]

theorem vcoreSet_ramp {s : State} {f : Nat} {a : Attempt} (h : (fieldOf s f).st = .kiln) (ha : (fieldOf s f).attempt = some a) :
    vcoreSet s f = (fieldOf s f).stage * vcoreOfStep (effStep s f) := by
  unfold vcoreSet
  dsimp only
  rw [h, ha]

/-- A reading at T_CAP, the tenth of which in a row slows the thermal cap. -/
def hotStep (tCap c : Nat) (x : FieldPower) : FieldPower :=
  if tempCode tCap ≤ c then
    if x.hot + 1 = 10 then { x with hot := 0, thermCap := Nat.min 3 (x.thermCap + 1) } else { x with hot := x.hot + 1 }
  else { x with hot := 0 }

/-- A reading below T_CAP - 5, the hundredth of which in a row eases it. -/
def coolStep (tCap c : Nat) (x : FieldPower) : FieldPower :=
  if c < tempCode (tCap - 5) then
    let y := if x.cool + 1 = 100 then { x with cool := 0, thermCap := x.thermCap - 1 } else { x with cool := x.cool + 1 }
    if 1000 ≤ y.coolKiln + 1 then { y with coolKiln := 1000, kilnHeat := false } else { y with coolKiln := y.coolKiln + 1 }
  else { x with cool := 0, coolKiln := 0 }

/-- A reading at T_KILN. -/
def kilnStep (tKiln c : Nat) (x : FieldPower) : FieldPower := if tempCode tKiln ≤ c then { x with kilnHeat := true } else x

theorem thermalEval_temp {f c : Nat} {s : State} (hst : fieldSt s f ≠ .dark) (hc : fieldTemp s f = some c) :
    let u := if tempCode (liveF s pPm 0x4C 7 0) ≤ c then fldEvent f 3 s else s
    thermalEval f s = setField f (kilnStep (liveF u pPm 0x4C 23 16) c (coolStep (liveF u pPm 0x4C 15 8) c (hotStep (liveF u pPm 0x4C 15 8) c (fieldOf u f)))) u := by
  unfold thermalEval
  rw [if_neg hst, hc]
  rfl

/-- An event of a field changes no register of the power manager's page. -/
theorem liveF_fldEvent_pm (f i off hi lo : Nat) (s : State) (hoff : off < 4096) : liveF (fldEvent f i s) pPm off hi lo = liveF s pPm off hi lo := by
  have hpage : ¬ (fieldPage f 0 = pPm ∧ (0x800 : Nat) = off) := fun h => by
    have := h.1
    rw [fieldPage, pPm] at this
    omega
  rw [liveF, fldEvent, live_setLive _ _ (by decide) hoff, if_neg hpage, liveF]

theorem bit_fldEvent {i : Nat} (f : Nat) (s : State) (hi : i < 32) : bit (live (fldEvent f i s) (fieldPage f 0) 0x800) i = true := by
  rw [fldEvent, live_setLive_same, bit, getLsbD_withBits, if_pos ⟨Nat.le_refl _, by omega⟩]
  simp [hi]

theorem kilnStep_spec (t c : Nat) (x : FieldPower) : (tempCode t ≤ c → (kilnStep t c x).kilnHeat = true) ∧ (kilnStep t c x).hot = x.hot ∧
    (kilnStep t c x).cool = x.cool ∧ (kilnStep t c x).thermCap = x.thermCap ∧ (kilnStep t c x).st = x.st := by
  unfold kilnStep
  split
  · exact ⟨fun _ => rfl, rfl, rfl, rfl, rfl⟩
  · next h => exact ⟨fun h' => absurd h' h, rfl, rfl, rfl, rfl⟩

theorem hotStep_at {t c : Nat} (x : FieldPower) (h : tempCode t ≤ c) : (hotStep t c x).st = x.st ∧
    (x.hot = 9 → (hotStep t c x).thermCap = Nat.min 3 (x.thermCap + 1) ∧ (hotStep t c x).hot = 0) ∧
      (x.hot ≠ 9 → (hotStep t c x).thermCap = x.thermCap ∧ (hotStep t c x).hot = x.hot + 1) := by
  rw [hotStep, if_pos h]
  split
  · exact ⟨rfl, fun _ => ⟨rfl, rfl⟩, fun h => absurd h (by omega)⟩
  · exact ⟨rfl, fun h => absurd h (by omega), fun _ => ⟨rfl, rfl⟩⟩

theorem hotStep_below {t c : Nat} (x : FieldPower) (h : c < tempCode t) : hotStep t c x = { x with hot := 0 } := if_neg (Nat.not_le.2 h)

theorem coolStep_warm {t c : Nat} (x : FieldPower) (h : tempCode (t - 5) ≤ c) : coolStep t c x = { x with cool := 0, coolKiln := 0 } := if_neg (Nat.not_lt.2 h)

theorem coolStep_cold {t c : Nat} (x : FieldPower) (h : c < tempCode (t - 5)) : (coolStep t c x).st = x.st ∧ (coolStep t c x).hot = x.hot ∧
    (x.cool = 99 → (coolStep t c x).thermCap = x.thermCap - 1 ∧ (coolStep t c x).cool = 0) ∧
      (x.cool ≠ 99 → (coolStep t c x).thermCap = x.thermCap ∧ (coolStep t c x).cool = x.cool + 1) := by
  rw [coolStep, if_pos h]
  dsimp only
  split
  · split
    · exact ⟨rfl, rfl, fun _ => ⟨rfl, rfl⟩, fun h => absurd h (by omega)⟩
    · exact ⟨rfl, rfl, fun _ => ⟨rfl, rfl⟩, fun h => absurd h (by omega)⟩
  · split
    · exact ⟨rfl, rfl, fun h => absurd h (by omega), fun _ => ⟨rfl, rfl⟩⟩
    · exact ⟨rfl, rfl, fun h => absurd h (by omega), fun _ => ⟨rfl, rfl⟩⟩

theorem tempCode_sub_le (t : Nat) : tempCode (t - 5) ≤ tempCode t := by
  rw [tempCode, tempCode]
  omega

/-- The three steps of a reading, in the order of R452. -/
def thermalStep (tCap tKiln c : Nat) (x : FieldPower) : FieldPower := kilnStep tKiln c (coolStep tCap c (hotStep tCap c x))

theorem thermalStep_hot {tCap tKiln c : Nat} (x : FieldPower) (h : tempCode tCap ≤ c) :
    let y := thermalStep tCap tKiln c x
    y.cool = 0 ∧ (x.hot = 9 → y.thermCap = Nat.min 3 (x.thermCap + 1) ∧ y.hot = 0) ∧ (x.hot ≠ 9 → y.thermCap = x.thermCap ∧ y.hot = x.hot + 1) ∧ y.st = x.st := by
  intro y
  have hy : y = kilnStep tKiln c { hotStep tCap c x with cool := 0, coolKiln := 0 } :=
    congrArg (kilnStep tKiln c) (coolStep_warm _ ((tempCode_sub_le tCap).trans h))
  obtain ⟨-, hhot, hcool, hcap, hst⟩ := kilnStep_spec tKiln c { hotStep tCap c x with cool := 0, coolKiln := 0 }
  obtain ⟨hst', hnine, hless⟩ := hotStep_at x h
  rw [hy]
  refine ⟨hcool, fun hx => ⟨hcap.trans (hnine hx).1, hhot.trans (hnine hx).2⟩, fun hx => ⟨hcap.trans (hless hx).1, hhot.trans (hless hx).2⟩, hst.trans hst'⟩

theorem thermalStep_cold {tCap tKiln c : Nat} (x : FieldPower) (h : c < tempCode (tCap - 5)) :
    let y := thermalStep tCap tKiln c x
    y.hot = 0 ∧ (x.cool = 99 → y.thermCap = x.thermCap - 1 ∧ y.cool = 0) ∧ (x.cool ≠ 99 → y.thermCap = x.thermCap ∧ y.cool = x.cool + 1) ∧ y.st = x.st := by
  intro y
  have hy : y = kilnStep tKiln c (coolStep tCap c { x with hot := 0 }) :=
    congrArg (fun z => kilnStep tKiln c (coolStep tCap c z)) (hotStep_below x (lt_of_lt_of_le h (tempCode_sub_le tCap)))
  obtain ⟨-, hhot, hcool, hcap, hst⟩ := kilnStep_spec tKiln c (coolStep tCap c { x with hot := 0 })
  rw [hy]
  obtain ⟨hst', hhot', hnine, hless⟩ := coolStep_cold { x with hot := 0 } h
  exact ⟨hhot.trans hhot', fun hx => ⟨hcap.trans (hnine hx).1, hcool.trans (hnine hx).2⟩,
    fun hx => ⟨hcap.trans (hless hx).1, hcool.trans (hless hx).2⟩, hst.trans hst'⟩

/-- Neither hot nor cold: both counts start again. -/
theorem st_thermalStep (tCap tKiln c : Nat) (x : FieldPower) : (thermalStep tCap tKiln c x).st = x.st := by
  rcases Nat.lt_or_ge c (tempCode tCap) with h | h
  · rcases Nat.lt_or_ge c (tempCode (tCap - 5)) with h' | h'
    · exact (thermalStep_cold x h').2.2.2
    · rw [thermalStep, hotStep_below x h, coolStep_warm _ h', (kilnStep_spec ..).2.2.2.2]
  · exact (thermalStep_hot x h).2.2.2

theorem thermalEval_spec {f c : Nat} {s : State} (hst : fieldSt s f ≠ .dark) (hc : fieldTemp s f = some c) :
    fieldOf (thermalEval f s) f = thermalStep (liveF s pPm 0x4C 15 8) (liveF s pPm 0x4C 23 16) c (fieldOf s f) ∧
      (tempCode (liveF s pPm 0x4C 7 0) ≤ c → bit (live (thermalEval f s) (fieldPage f 0) 0x800) 3 = true) := by
  rw [thermalEval_temp hst hc]
  split
  · refine ⟨?_, fun _ => bit_fldEvent f s (by decide)⟩
    rw [fieldOf_setField_same, liveF_fldEvent_pm _ _ _ _ _ _ (by decide), liveF_fldEvent_pm _ _ _ _ _ _ (by decide)]
    rfl
  · next hcool => exact ⟨fieldOf_setField_same .., fun h => absurd h hcool⟩

theorem effStep_stale {t : State} {f : Nat} (h : (fieldOf t f).stale = true) : 3 ≤ effStep t f := by
  have hcap : 3 ≤ thermalCap (fieldOf t f) := by
    rw [thermalCap, h]
    exact (Nat.le_max_left 3 _).trans (Nat.le_max_right _ _)
  exact (hcap.trans (Nat.le_max_left _ _)).trans (Nat.le_max_right _ _)

theorem telemStale_old {f now : Nat} {s : State} (hst : fieldSt s f = .on) (hold : tempsOlder s f now 40000000 = true) (hfresh : (fieldOf s f).stale = false) :
    let t := telemStale f now s
    fieldOf t f = { fieldOf s f with stale := true } ∧ errValid t (fieldPage f 0) = true ∧ 3 ≤ effStep t f := by
  intro t
  have ht : t = recordErrAny (fieldPage f 0) E.telemStale (updField f (fun x => { x with stale := true }) s) :=
    if_pos ⟨hst, hold, by rw [hfresh]; rfl⟩
  have hfield : fieldOf t f = { fieldOf s f with stale := true } := by
    rw [ht, fieldOf_congr (fields_recordErrAny ..), fieldOf_updField_same]
  exact ⟨hfield, ht ▸ errValid_recordErrAny .., effStep_stale (by rw [hfield])⟩

theorem telemStale_same {f now : Nat} {s : State} (h : fieldSt s f ≠ .on ∨ tempsOlder s f now 40000000 = false ∨ (fieldOf s f).stale = true) :
    telemStale f now s = s := by
  refine if_neg ?_
  rintro ⟨hst, hold, hfresh⟩
  rcases h with h | h | h
  · exact h hst
  · have hold' : tempsOlder s f now 40000000 = true := hold
    rw [h] at hold'
    exact Bool.false_ne_true hold'
  · rw [h] at hfresh
    exact Bool.false_ne_true hfresh

theorem fieldOf_clockStepDone {f : Nat} {s : State} (hst : fieldSt s f ≠ .dark) (hrun : restarts s 2 f = false) :
    fieldOf (clockStepDone f s) f = { fieldOf s f with clk := effStep s f } := by
  have hact : clockStepDone f s = updField f (fun x => { x with clk := effStep s f }) s :=
    if_neg (by rw [hrun]; exact not_or.2 ⟨hst, Bool.false_ne_true⟩)
  rw [hact, fieldOf_updField_same]

/-! ### Kiln entry, stages and retries (R440, R444, R446) -/

theorem kilnEntryDone_spec {f : Nat} {s : State} (h : (fieldOf s f).kilnEntry = true) :
    fieldOf (kilnEntryDone f s) f = { fieldOf s f with kilnEntry := false } ∧ (unitsOf (kilnEntryDone f s) f).permits = [] ∧
      (unitsOf (kilnEntryDone f s) f).quotaQ = [] ∧ (kilnEntryDone f s).cores = s.cores := by
  let u := updField f (fun x => { x with kilnEntry := false }) s
  have hact : kilnEntryDone f s = setUnits f { unitsOf u f with permits := [], quotaQ := [] } u := if_pos h
  have hunits : unitsOf (setUnits f { unitsOf u f with permits := [], quotaQ := [] } u) f = { unitsOf u f with permits := [], quotaQ := [] } := unitsOf_setUnits ..
  rw [hact, hunits]
  have hfields : (setUnits f { unitsOf u f with permits := [], quotaQ := [] } u).fields = u.fields := rfl
  exact ⟨(fieldOf_congr hfields f).trans (fieldOf_updField_same ..), rfl, rfl, rfl⟩

theorem stageEnd_runs {f : Nat} {s : State} {a : Attempt} (ha : (fieldOf s f).attempt = some a) (hrun : a.running = true) (hstage : 1 ≤ a.stage) :
    fieldOf (stageEnd f s) f = { fieldOf s f with attempt := some ⟨a.stage + 1, false, 0⟩ } := by
  unfold stageEnd
  rw [ha]
  dsimp only
  rw [if_pos ⟨hrun, hstage⟩, fieldOf_updField_same]

theorem stageEnd_same {f : Nat} {s : State} (h : ∀ a, (fieldOf s f).attempt = some a → a.running = false ∨ a.stage = 0) : stageEnd f s = s := by
  unfold stageEnd
  split
  · next a ha =>
    refine if_neg fun hrun => ?_
    rcases h a ha with h | h
    · rw [h] at hrun
      exact Bool.false_ne_true hrun.1
    · omega
  · rfl

theorem powerRetry_due {f : Nat} {s : State} {b : Beat} (hb : (fieldOf s f).retryAt = some b) (hdue : (s.beat.now - b).toNat < 2 ^ 47) :
    fieldOf (powerRetry f s) f = { fieldOf s f with retryAt := none } := by
  unfold powerRetry
  rw [hb]
  dsimp only
  rw [if_pos hdue, fieldOf_updField_same]

theorem powerRetry_same {f : Nat} {s : State} (h : ∀ b, (fieldOf s f).retryAt = some b → 2 ^ 47 ≤ (s.beat.now - b).toNat) : powerRetry f s = s := by
  unfold powerRetry
  split
  · next b hb => exact if_neg (Nat.not_lt.2 (h b hb))
  · rfl

/-! ### The rules of fields together -/

theorem darkBy_fieldFault (f cause : Nat) (c : Code) (s : State) :
    fieldSt (fieldFault f c (imposeDark f cause s)) f = .dark ∧ (fieldOf (fieldFault f c (imposeDark f cause s)) f).darkBy = some cause := by
  have hfields : (fieldFault f c (imposeDark f cause s)).fields = (imposeDark f cause s).fields := fields_report ..
  rw [fieldSt_congr hfields, fieldOf_congr hfields]
  exact ⟨(darkFor_imposeDark f cause s).1, (darkFor_imposeDark f cause s).2.1⟩

/-- What `phasesChanged` does to a field that is up. -/
theorem phasesChanged_spec {f : Nat} {s : State} (hon : ¬ FieldOff (fieldOf s f)) :
    let t := phasesChanged f s
    let dark := fieldSt t f = .dark ∧ (fieldOf t f).attempt = none ∧ (fieldOf t f).brkClosed = false
    (9 ≤ phasesDown (fieldOf s f).vcore → dark ∧ (fieldOf t f).darkBy = some 4 ∧ (fieldOf t f).lastDark = 4 ∧
      t.recov.reported = s.recov.reported ++ [⟨E.phaseFail, 2, f, 0⟩]) ∧
    (phasesDown (fieldOf s f).vcore < 9 → 3 ≤ phasesDown (fieldOf s f).vret ∨ 3 ≤ phasesDown (fieldOf s f).vfab →
      dark ∧ (fieldOf t f).darkBy = some 6 ∧ (fieldOf t f).lastDark = 6 ∧ t.recov.reported = s.recov.reported ++ [⟨E.railFail, 2, f, 0⟩]) := by
  intro t dark
  refine ⟨fun h => ?_, fun h hrail => ?_⟩
  · simp only [dark, t, phasesChanged_nine hon h]
    exact fieldFault_imposeDark (.refl s) hon
  · simp only [dark, t, phasesChanged_three hon h hrail]
    exact fieldFault_imposeDark (.ofRecordErrAny ..) hon

/-- A rail of which one phase changed. -/
theorem phase_moves {m m' : Map PhaseSt} {p : Nat} {o : Option PhaseSt} (h : ∀ q, mfind m' q = if p = q then o else mfind m q) :
    mfind m' p = o ∧ ∀ q, q ≠ p → mfind m' q = mfind m q :=
  ⟨(h p).trans (if_pos rfl), fun q hq => (h q).trans (if_neg hq.symm)⟩

theorem execReclose_reaches {m : Master} {g : BitVec 7} {now : Nat} {s : State} (h : reaches m s = true) :
    exec (.reclose m g now) s = .next (reclose g.toNat now s) := congrArg Host.Outcome.next (viaBar_of_reaches h)

/-- Settles O43: phases, converters and breakers through the loss of the field, the way up through what its stages leave of it. -/
theorem fieldsPhasesBreakersClocksAndHeat : Obligations.FieldsPhasesBreakersClocksAndHeat := by
  unfold Obligations.FieldsPhasesBreakersClocksAndHeat
  intro s n f x off dark told at_
  have hf : f < 80 := n.isLt
  refine ⟨?faultSame, ?first, ?again, ?faultSame', fun hon => (phasesChanged_spec hon).1, fun hon h => (phasesChanged_spec hon).2 h, phasesChanged_few,
    ?retry, ?retrySame, ?clean, ?cleanSame, ?convFirst, ?convA, ?convB, ?convSame, ?tripSame, ?heated, ?short, ?barred, ?opens, ?kiln, ?kilnSame, ?stage,
    fun h => ⟨_, congrArg Host.Outcome.next (stageEnd_same h), rfl⟩, fun la lb h => ⟨_, congrArg Host.Outcome.next (railDone_same h), rfl⟩, ?dead, ?up,
    fun b hb hdue => ⟨_, rfl, powerRetry_due hb hdue⟩, fun h => ⟨_, congrArg Host.Outcome.next (powerRetry_same h), rfl⟩, ?clock, ?vOn, ?vRamp, ?clockSame,
    ?heatSame, ?heat, ⟨_, rfl, fieldOf_updField_same ..⟩, ⟨_, rfl, fieldOf_updField_same ..⟩, fun now hst hold hfresh => ⟨_, rfl, telemStale_old hst hold hfresh⟩,
    fun now h => ⟨_, congrArg Host.Outcome.next (telemStale_same h), rfl⟩⟩
  case faultSame =>
    exact fun r p h => ⟨_, congrArg Host.Outcome.next (phaseFault_same (h.imp id .inl)), rfl⟩
  case first =>
    intro r p hon hp h
    obtain ⟨hact, hoff, hrecov, hst⟩ := phaseFault_first hon hp h
    exact ⟨_, _, congrArg Host.Outcome.next hact, rfl, hoff, hrecov, hst⟩
  case again =>
    intro r p hon hp h
    exact ⟨_, _, congrArg Host.Outcome.next (phaseFault_again hon hp h), rfl, phaseFailed_spec f r p.val s⟩
  case faultSame' =>
    exact fun r p _ _ h => ⟨_, congrArg Host.Outcome.next (phaseFault_same (.inr (.inr h))), rfl⟩
  case retry =>
    intro r p h
    refine ⟨_, rfl, phase_moves fun q => ?_⟩
    rw [phaseRetry_off h, mfind_mput]
  case retrySame => exact fun r p h => ⟨_, congrArg Host.Outcome.next (if_neg h : phaseRetry f r p.val s = s), rfl⟩
  case clean =>
    intro r p h
    obtain ⟨hrail, herr, hlog, hcount⟩ := phaseClean_retried h
    obtain ⟨hgone, hothers⟩ := phase_moves fun q => (congrArg (mfind · q) hrail).trans (mfind_mdel ..)
    exact ⟨_, rfl, hgone, hothers, herr, hlog, hcount⟩
  case cleanSame => exact fun r p h => ⟨_, congrArg Host.Outcome.next (if_neg h : phaseClean f r p.val s = s), rfl⟩
  case convFirst => exact fun b hon ha hb => ⟨_, rfl, converterFault_first b hon ha hb⟩
  case convA => exact fun hon ha hb => ⟨_, rfl, converterFault_second (b := true) hon hb ha⟩
  case convB => exact fun hon ha hb => ⟨_, rfl, converterFault_second (b := false) hon ha hb⟩
  case convSame => exact fun b h => ⟨_, congrArg Host.Outcome.next (converterFault_same h), rfl⟩
  case tripSame =>
    exact fun b now h => ⟨_, congrArg Host.Outcome.next (if_pos (by rw [h]; rfl) : breakerTrip f b now s = s), rfl⟩
  case heated =>
    intro now hclosed hon
    obtain ⟨hfield, herr, htold⟩ := breakerTrip_over (now := now) hclosed hon
    refine ⟨_, rfl, ⟨?_, ?_, ?_⟩, ?_, ?_, ?_, herr, htold⟩
    · exact congrArg FieldPower.st hfield
    all_goals rw [hfield]; rfl
  case short =>
    intro now hclosed hon
    obtain ⟨hfield, herr, htold⟩ := breakerTrip_short (now := now) hclosed hon
    refine ⟨_, rfl, ⟨?_, ?_, ?_⟩, ?_, ?_, herr, htold, ?_⟩
    · exact congrArg FieldPower.st hfield
    all_goals rw [hfield]; rfl
  case barred => exact fun m g now hm h => ⟨_, execReclose_reaches hm, reclose_barred h⟩
  case opens =>
    intro m now hm hst hlock hshort
    have hg : (BitVec.ofNat 7 f).toNat = f := by
      rw [BitVec.toNat_ofNat]
      omega
    have hfree : ¬ recloseBarred s f now := by
      rintro (h | h | h | ⟨r, hr, hsoon⟩)
      · exact absurd hf (Nat.not_lt.2 h)
      · exact h hst
      · exact Bool.false_ne_true (hlock.symm.trans h)
      · exact absurd hsoon (Nat.not_lt.2 (hshort r hr))
    refine ⟨_, execReclose_reaches hm, ?_⟩
    rw [hg]
    exact reclose_opens hfree
  case kiln => exact fun h => ⟨_, rfl, kilnEntryDone_spec h⟩
  case kilnSame =>
    exact fun h => ⟨_, congrArg Host.Outcome.next (if_neg (by rw [h]; decide) : kilnEntryDone f s = s), rfl⟩
  case stage => exact fun a ha hrun hstage => ⟨_, rfl, stageEnd_runs ha hrun hstage⟩
  case dead =>
    intro a la lb ha hrun hstage hboot
    refine ⟨_, congrArg Host.Outcome.next (railDone_dead ha hrun hstage hboot), ?_⟩
    exact darkBy_fieldFault f 11 E.fwSigFail (bootUnit 2 f s).2
  case up => exact fun a la lb ha hrun hstage hboot => ⟨_, rfl, railUp_railDone hf ha hrun hstage hboot⟩
  case clock =>
    intro hst hrun
    exact ⟨_, rfl, fieldOf_clockStepDone hst hrun⟩
  case vOn => exact fun hst hclk => (vcoreSet_on hst).trans (congrArg (8 * ·) (vcoreOfStep_lt hclk))
  case vRamp => exact fun hst a ha hstep => (vcoreSet_ramp hst ha).trans (congrArg (x.stage * ·) (vcoreOfStep_lt hstep))
  case clockSame => exact fun h => ⟨_, congrArg Host.Outcome.next (if_pos h : clockStepDone f s = s), rfl⟩
  case heatSame =>
    intro h
    refine ⟨_, congrArg Host.Outcome.next (?_ : thermalEval f s = s), rfl⟩
    unfold thermalEval
    rcases h with h | h
    · exact if_pos h
    · rw [h]
      exact ite_self _
  case heat =>
    intro c hst hc
    obtain ⟨hfield, hevent⟩ := thermalEval_spec hst hc
    refine ⟨_, rfl, hevent, fun h => ?_, fun h => ?_, fun h => ?_, ?_⟩
    · rw [hfield]
      exact (kilnStep_spec ..).1 h
    · rw [hfield]
      obtain ⟨hcool, hnine, hless, -⟩ := thermalStep_hot (tKiln := liveF s pPm 0x4C 23 16) x h
      exact ⟨hcool, hnine, hless⟩
    · rw [hfield]
      obtain ⟨hhot, hnine, hless, -⟩ := thermalStep_cold (tKiln := liveF s pPm 0x4C 23 16) x h
      exact ⟨hhot, hnine, hless⟩
    · rw [hfield]
      exact st_thermalStep ..

end Sys2Proof.Machine
end

section
/-! The service port: requests answered once, sessions, registers, staging and records (R503, R504, R514, R516 to R522). -/

namespace Sys2Proof.Machine

open Sys2Proof

/-! ### A request that is accepted (R520) -/

section
variable (d : Dgram) (s : State)

/-- A request that may be carried out: the port answers, and neither the request nor 64 of its requester are known. -/
def spFresh : Prop := spAnswers s = true ∧ spCached d s = none ∧ spOpen d s = false ∧ spOutstanding d s < 64

/-- The state in which an accepted request is carried out. -/
def spTaken : State :=
  { countUp pSp 0x800 31 0 1 s with sp := { s.sp with waiting := s.sp.waiting ++ [(d.from_, d.seq.toNat, d.session.toNat)] } }

variable {d s}

theorem spRequest_fresh (h : spFresh d s) (op : Nat) (act : State → State) : spRequest d op act s = act (spTaken d s) := by
  obtain ⟨hans, hcache, hopen, hout⟩ := h
  unfold spRequest
  rw [if_neg (by rw [hans]; decide), hcache]
  dsimp only
  rw [if_neg (by rw [hopen]; decide), if_neg (by omega)]
  rfl

theorem spNow_fresh (h : spFresh d s) (op : Nat) (f : State → (Code × List Byte) × State) :
    spNow d op f s = spRespond d.from_ op (f (spTaken d s)).1.1 d.seq.toNat (f (spTaken d s)).1.2 (f (spTaken d s)).2 := spRequest_fresh h op _

theorem spCode_fresh (h : spFresh d s) (op : Nat) (f : State → Code × State) :
    spCode d op f s = spRespond d.from_ op (f (spTaken d s)).1 d.seq.toNat [] (f (spTaken d s)).2 := spNow_fresh h op _

theorem live_spTaken {q a : Nat} (ha : a < 4096) (hq : q ≠ pSp) : live (spTaken d s) q a = live s q a :=
  (live_setLive (p := pSp) (a := 0x800) _ s (by decide) ha).trans (if_neg fun h => hq h.1.symm)

/-! ### A request that is not accepted (R520) -/

theorem spRequest_silent (h : spAnswers s = false) (op : Nat) (act : State → State) : spRequest d op act s = s := if_pos (by rw [h]; rfl)

theorem spRequest_cached (h : spAnswers s = true) {r : SpResp} (hr : spCached d s = some r) (op : Nat) (act : State → State) :
    spRequest d op act s = spReplay d r s := by
  unfold spRequest
  rw [if_neg (by rw [h]; decide), hr]

theorem spRequest_open (h : spAnswers s = true) (hr : spCached d s = none) (hopen : spOpen d s = true) (op : Nat) (act : State → State) :
    spRequest d op act s = s := by
  unfold spRequest
  rw [if_neg (by rw [h]; decide), hr]
  exact if_pos hopen

theorem spRequest_full (h : spAnswers s = true) (hr : spCached d s = none) (hopen : spOpen d s = false) (hfull : 64 ≤ spOutstanding d s) (op : Nat)
    (act : State → State) : spRequest d op act s = spRespond d.from_ op E.updProtocol d.seq.toNat [] s := by
  unfold spRequest
  rw [if_neg (by rw [h]; decide), hr]
  dsimp only
  rw [if_neg (by rw [hopen]; decide), if_pos hfull]
  rfl

theorem spReplay_spec (r : SpResp) : (spReplay d r s).out = s.out ++ [.datagram d.from_ r.op r.status r.seq r.data] ∧
    liveF (spReplay d r s) pSp 0x808 15 0 = Nat.min 0xFFFF (liveF s pSp 0x808 15 0 + 1) ∧ (spReplay d r s).sp = s.sp ∧ (spReplay d r s).boot = s.boot :=
  ⟨rfl, liveF_countUp s (by decide) (by decide), rfl, rfl⟩

end

/-- A command that is a request of an operation. -/
def IsRequest (d : Dgram) (op : Nat) (i : Instr) : Prop := ∃ act : State → State, ∀ s, exec i s = .next (spRequest d op act s)

/-- A response goes out, is kept in the requester's cache, and the request is no longer open. -/
theorem spRespond_spec (dst op : Nat) (c : Code) (seq : Nat) (l : List Byte) (s : State) :
    let t := spRespond dst op c seq l s
    t.out = s.out ++ [.datagram dst op c seq l] ∧ (mget [] t.sp.cache dst).head? = some ⟨seq, op, c, l⟩ ∧
      t.sp.waiting = s.sp.waiting.filter (fun w => !(w.1 == dst && w.2.1 == seq)) ∧ t.sp.session = s.sp.session ∧ t.sp.staging = s.sp.staging ∧ t.boot = s.boot := by
  have hcache (m : Map (List SpResp)) (r : SpResp) : (mget [] (mput m dst ((r :: mget [] m dst).take 256)) dst).head? = some r := by
    rw [mget, mfind_mput_same]
    rfl
  unfold spRespond
  dsimp only
  split
  · exact ⟨rfl, hcache .., rfl, rfl, rfl, rfl⟩
  · exact ⟨rfl, hcache .., rfl, rfl, rfl, rfl⟩

/-! ### HELLO (R518) -/

/-- Reading MC_STATE changes nothing of the service port. -/
theorem sp_regRead_mcState (s : State) : (regRead (masterId .service) pMc 0x60 .w32 s).2.sp = s.sp := by
  have hword : (regWord s (masterId .service) pMc 0x60).2 = s := by
    unfold regWord
    rw [if_neg (by decide)]
    split
    · rfl
    · simp only [apply_ite Prod.snd]
      have hrep : reported s (masterId .service) pMc 0x60 = some (mcWord s 0x60, s) := rfl
      rw [hrep]
      simp
  have hclears (m : Word) : (readClears pMc 0x60 m s).sp = s.sp := by
    unfold readClears
    split
    · exact foldl_same (g := State.sp) (f := fun t (f : Fld) => setLiveF pMc 0x60 f.hi f.lo (rcRestart s pMc 0x60) t) (fun _ _ => rfl) ..
    · rfl
  have hreg (m : Word) : (readReg (masterId .service) pMc 0x60 m s).2.sp = s.sp := by
    unfold readReg
    dsimp only
    split
    · rw [hword]
    · rw [hword]
      exact hclears m
  unfold regRead
  dsimp only
  rw [if_neg (by decide), if_neg (by decide)]
  exact hreg (fld (2 ^ (8 * widthBytes .w32) - 1) (8 * (0x60 % 4)))

theorem spHello_open {s : State} (h : s.sp.session = none) : (spHello true s).1.1 = 0 ∧ (spHello true s).1.2.length = 24 ∧
    (spHello true s).2.sp.session = some s.sp.nextSession := by
  unfold spHello
  rw [if_neg (by rw [h]; exact fun h' => h'.2 rfl)]
  dsimp only
  rw [sp_regRead_mcState]
  refine ⟨rfl, ?_, rfl⟩
  simp

theorem spHello_refused {s : State} (h : s.sp.session ≠ none) : spHello true s = ((E.updProtocol, []), s) := if_pos ⟨rfl, h⟩

theorem spHello_plain (s : State) : (spHello false s).1.1 = 0 ∧ (spHello false s).1.2.length = 24 ∧ (spHello false s).2.sp.session = s.sp.session := by
  unfold spHello
  rw [if_neg (by simp)]
  dsimp only
  rw [sp_regRead_mcState]
  refine ⟨rfl, ?_, rfl⟩
  simp

/-! ### Registers (R393, R518) -/

section
variable {d : Dgram} {s : State}

theorem ownModule_spTaken : ownModule (spTaken d s) = ownModule s := congrArg (bits · 13 0) (live_spTaken (by decide) (by decide))
theorem joined_spTaken : joined (spTaken d s) = joined s :=
  congrArg (fun w => bits w 31 31 == 1) (live_spTaken (q := pCl) (a := 0x40) (by decide) (by decide))

theorem routeFor_spTaken (m : Nat) : routeFor (spTaken d s) 8 m = routeFor s 8 m := by
  have hbank : routeBank (spTaken d s) 8 = routeBank s 8 := congrArg (bits · 0 0) (live_spTaken (q := pCl) (a := 0x48) (by decide) (by decide))
  unfold routeFor
  rw [hbank, ownModule_spTaken]
  rfl

variable {op mo pg off : Nat} {data : Word} {own : State → State}

theorem spReg_bad (h : regArgs mo pg off = false) : spReg d op mo pg off data own s = spRespond d.from_ op E.updProtocol d.seq.toNat [] s :=
  if_pos (by rw [h]; rfl)

theorem spReg_own (h : regArgs mo pg off = true) (hm : mo = ownModule s) : spReg d op mo pg off data own s = own s :=
  (if_neg (by rw [h]; decide)).trans (if_pos hm)

theorem spReg_misaligned (h : regArgs mo pg off = true) (hm : mo ≠ ownModule s) (hoff : off % 4 ≠ 0) :
    spReg d op mo pg off data own s = spRespond d.from_ op E.updProtocol d.seq.toNat [] s :=
  (if_neg (by rw [h]; decide)).trans ((if_neg hm).trans (if_pos hoff))

theorem spReg_alone (h : regArgs mo pg off = true) (hm : mo ≠ ownModule s) (hoff : off % 4 = 0) (hj : joined s = false) :
    spReg d op mo pg off data own s = spRespond d.from_ op E.unmapped d.seq.toNat [] (countEnd E.unmapped mo s) :=
  (if_neg (by rw [h]; decide)).trans ((if_neg hm).trans ((if_neg (by omega)).trans (if_pos (by rw [hj]; rfl))))

/-- The message of a register access of another module. -/
def spRegMsg (op mo pg off : Nat) (data : Word) (s : State) : Pcl :=
  { op := if op = 2 then 6 else 5, hops := 0, len := 4, dest := mo, srcM := ownModule s, tagged := false, status := 0, mtag := 0,
    addr := regWindow + 4096 * pg + off, keyId := 0, data := if op = 2 then [] else leBytes 4 data.toNat }

theorem spReg_remote (h : regArgs mo pg off = true) (hm : mo ≠ ownModule s) (hoff : off % 4 = 0) (hj : joined s = true) :
    spReg d op mo pg off data own s =
      attachArrive (homeLink s 0) (floorMsg (homeLink s 0) 0 0 0 (.spReg d.from_ op d.seq.toNat) (spRegMsg op mo pg off data s)) s :=
  (if_neg (by rw [h]; decide)).trans ((if_neg hm).trans ((if_neg (by omega)).trans (if_neg (by rw [hj]; decide))))

end

theorem clReqs_of_offLinks {s t : State} (h : offLinks t = offLinks s) : t.clReqs = s.clReqs := (congrArg State.clReqs h :)
theorem sp_of_offLinks {s t : State} (h : offLinks t = offLinks s) : t.sp = s.sp := (congrArg State.sp h :)

theorem egress_kept (n l vc : Nat) (back : Option (Nat × Nat × Nat)) (p : Pcl) (s : State) :
    (egress n l vc back p s).clReqs = s.clReqs ∧ (egress n l vc back p s).sp = s.sp := by
  have hfire (r : Nat) (m : Msg) : (injectEngine r m s).sp = s.sp := (congrArg State.sp (sansFire_injectEngine r m s) :)
  unfold egress
  split
  · have hlinks := offLinks_transmit l vc back p s
    exact ⟨clReqs_of_offLinks hlinks, sp_of_offLinks hlinks⟩
  · exact ⟨clReqs_injectEngine .., hfire ..⟩

/-- A request that finds its attachment idle is looked up at once, and is outstanding from then on. -/
theorem attachArrive_idle {n l : Nat} {m : Msg} {p : Pcl} {s : State} (hidle : mget [] s.linkIn n = []) (hp : m.pcl = some p) (hsrc : srcIsLink m.src = false)
    (hroom : outstanding s n < 1024) (hroute : routeFor s 8 p.dest = .link l) (hup : linkUp s l = true) :
    ∃ q, (attachArrive n m s).clReqs = s.clReqs ++ [q] ∧ q.origin = m.origin ∧ q.module = p.dest ∧ q.link = l ∧ (attachArrive n m s).sp = s.sp := by
  let u : State := { s with linkIn := mset [] s.linkIn n [m] }
  let t : State := { u with linkIn := mset [] u.linkIn n [] }
  have harrive : attachArrive n m s = attachFront n u := by
    unfold attachArrive
    rw [hidle]
    show attachDrain n 1 u = _
    unfold attachDrain
    dsimp only
    split
    · rfl
    · rfl
  have hfront : attachFront n u = originate n m.origin m.roff m.rtagged p t := by
    have hin : mget [] u.linkIn n = [m] := mget_mset_same [] s.linkIn n [m]
    unfold attachFront
    rw [hin]
    dsimp only
    rw [hp]
    dsimp only
    rw [if_neg (by rw [hsrc]; decide), if_pos (by exact hroom)]
  have hroute' : routeFor t 8 p.dest = .link l := hroute
  rw [harrive, hfront, originate, hroute']
  dsimp only
  rw [if_pos (by exact hup)]
  obtain ⟨hreqs, hsp⟩ := egress_kept n l 0 none { p with mtag := t.nextTag % 2 ^ 32 } { t with
    nextTag := t.nextTag + 1, clReqs := t.clReqs ++ [⟨t.nextTag % 2 ^ 32, n, l, p.dest, m.origin, p.op == 1, m.roff, m.rtagged, if p.op = 1 ∨ p.op = 2 then p.len else 0⟩] }
  exact ⟨_, hreqs, rfl, rfl, rfl, hsp⟩

end Sys2Proof.Machine
end

section
/-! Staging, records and sessions of the service port (R503, R504, R518, R519); its rules together. -/

namespace Sys2Proof.Machine

open Sys2Proof

/-! ### Components and banks (R519) -/

theorem compAt_updComp_same (c : Nat) (g : Component → Component) (s : State) : compAt (updComp c g s) c = g (compAt s c) := mget_mset_same ..

theorem compAt_updComp (c k : Nat) (g : Component → Component) (s : State) : compAt (updComp c g s) k = if c = k then g (compAt s k) else compAt s k := by
  by_cases h : c = k
  · subst h
    rw [if_pos rfl, compAt_updComp_same]
  · rw [if_neg h]
    exact mget_mset_ne _ _ _ h

theorem compAt_congr {s t : State} (h : t.boot = s.boot) (c : Nat) : compAt t c = compAt s c := by rw [compAt, compAt, h]

theorem compAt_updSp (g : ServicePort → ServicePort) (s : State) (c : Nat) : compAt (updSp g s) c = compAt s c := rfl

theorem bankImg_setBankImg (k : Nat) (l : List Byte) (x : Component) : bankImg (setBankImg k l x) k = l := by
  unfold bankImg setBankImg
  split <;> rfl

theorem runBank_setBankImg (k : Nat) (l : List Byte) (x : Component) : (setBankImg k l x).runBank = x.runBank := by
  unfold setBankImg
  split <;> rfl

theorem inactive_setBankImg (k : Nat) (l : List Byte) (x : Component) : (setBankImg k l x).inactive = x.inactive := by
  unfold setBankImg
  split <;> rfl

/-- The inactive bank of a component after it has been emptied. -/
theorem compAt_emptyBank (c : Nat) (s : State) : compAt (emptyBank c s) c = setBankImg (idleBank (compAt s c)) [] { compAt s c with inactive := 0 } :=
  compAt_updComp_same ..

theorem inactive_emptyBank (c : Nat) (s : State) : (compAt (emptyBank c s) c).inactive = 0 := by rw [compAt_emptyBank, inactive_setBankImg]

theorem runBank_emptyBank (c k : Nat) (s : State) : (compAt (emptyBank c s) k).runBank = (compAt s k).runBank := by
  rw [emptyBank, compAt_updComp]
  split
  · rw [runBank_setBankImg]
  · rfl

/-! ### The staging in progress (R518, R519) -/

theorem dropStaging_none {s : State} (h : s.sp.staging = none) : dropStaging s = s := by rw [dropStaging, h]

theorem dropStaging_some {s : State} {g : Staging} (h : s.sp.staging = some g) :
    dropStaging s = updSp (fun x => { x with staging := none }) (if g.target < 5 then emptyBank g.target s else s) := by rw [dropStaging, h]

/-- What ending a staging does: none is left, its bank is EMPTY, and every unit runs what it ran. -/
theorem dropStaging_spec (s : State) : (dropStaging s).sp = { s.sp with staging := none } ∧
    (∀ g, s.sp.staging = some g → g.target < 5 → (compAt (dropStaging s) g.target).inactive = 0) ∧
    (∀ k, (compAt (dropStaging s) k).runBank = (compAt s k).runBank) ∧ (s.sp.staging = none → dropStaging s = s) := by
  cases h : s.sp.staging with
  | none =>
    rw [dropStaging_none h]
    exact ⟨h ▸ rfl, nofun, fun _ => rfl, fun _ => rfl⟩
  | some g =>
    rw [dropStaging_some h]
    split
    · refine ⟨rfl, fun g' hg' _ => ?_, fun k => runBank_emptyBank g.target k s, nofun⟩
      rw [← Option.some.inj hg']
      exact inactive_emptyBank g.target s
    · next ht => exact ⟨rfl, fun g' hg' ht' => absurd (Option.some.inj hg' ▸ ht') ht, fun _ => rfl, nofun⟩

theorem closeSession_spec (s : State) : (closeSession s).sp.session = none ∧ (closeSession s).sp.staging = none ∧
    (∀ g, s.sp.staging = some g → g.target < 5 → (compAt (closeSession s) g.target).inactive = 0) ∧
    (s.sp.staging = none → (closeSession s).boot = s.boot) := by
  obtain ⟨hsp, hbank, -, hnone⟩ := dropStaging_spec s
  have hboot (g : ServicePort → ServicePort) (t : State) : (updSp g t).boot = t.boot := rfl
  refine ⟨rfl, ?_, hbank, fun h => (hboot _ _).trans (congrArg State.boot (hnone h))⟩
  exact congrArg ServicePort.staging hsp

/-- A flash write that failed is recorded; nothing else of the port or of the components changes. -/
theorem flashFails_kept (s : State) : (flashFails s).sp = s.sp ∧ (flashFails s).boot = s.boot ∧ errValid (flashFails s) pFlash = true :=
  ⟨(congrArg State.sp (offRegs_recordErrAny pFlash E.flashWriteFail (countUp pFlash 0x808 15 0 1 s)) :),
    (congrArg State.boot (offRegs_recordErrAny pFlash E.flashWriteFail (countUp pFlash 0x808 15 0 1 s)) :), errValid_recordErrAny ..⟩

/-! ### STAGE_BEGIN (R519 step 1) -/

section
variable {d : Dgram} {s : State} {t len : Nat}

theorem openStaging_closed (h : inSession d s = false) : openStaging d t len s = (E.updProtocol, s) := if_pos (by rw [h]; rfl)

theorem openStaging_target (hs : inSession d s = true) (ht : 5 ≤ t) (h8 : t ≠ 8) : openStaging d t len s = (E.updProtocol, s) :=
  (if_neg (by rw [hs]; decide)).trans (if_pos (by simp [h8, Nat.not_lt.2 ht]))

/-- A target that exists. -/
def stageTarget (t : Nat) : Prop := t < 5 ∨ t = 8

theorem openStaging_known (hs : inSession d s = true) (ht : stageTarget t) : openStaging d t len s =
    if len = 0xFFFFFFFF then (E.reservedValue, s)
    else if stageRoom t < len then (E.sizeOverrun, s)
    else if t < 5 ∧ (compAt s t).inactive = 3 then (E.updProtocol, s)
    else if len = 0 then (0, s)
    else
      (0, updSp (fun x => { x with staging := some ⟨t, len, []⟩ })
        (if t < 5 then updComp t (fun x => { x with inactive := 1 }) (emptyBank t (dropStaging s)) else dropStaging s)) :=
  (if_neg (by rw [hs]; decide)).trans (if_neg (by rcases ht with h | h <;> simp [h]))

theorem stageRoom_lt (t : Nat) : stageRoom t < 0xFFFFFFFF := by
  have hall : ∀ k < 5, [2, 16, 4, 2, 2].getD k 0 ≤ 16 := by decide
  have hlist : [2, 16, 4, 2, 2].getD t 0 ≤ 16 := by
    by_cases h : t < 5
    · exact hall t h
    · rw [List.getD_eq_default _ _ (by simp; omega)]
      decide
  unfold stageRoom
  split
  · decide
  · omega

theorem openStaging_activated (hs : inSession d s = true) (ht : t < 5) (hact : (compAt s t).inactive = 3) (hlen : len ≤ stageRoom t) :
    openStaging d t len s = (E.updProtocol, s) := by
  have hroom := stageRoom_lt t
  rw [openStaging_known hs (.inl ht), if_neg (by omega), if_neg (by omega), if_pos ⟨ht, hact⟩]

theorem openStaging_empty (hs : inSession d s = true) (ht : (t < 5 ∧ (compAt s t).inactive ≠ 3) ∨ t = 8) : openStaging d t 0 s = (0, s) := by
  rw [openStaging_known hs (ht.imp And.left id), if_neg (by decide), if_neg (by omega), if_neg, if_pos rfl]
  rintro ⟨h5, h3⟩
  rcases ht with h | h
  · exact h.2 h3
  · omega

theorem openStaging_bank (hs : inSession d s = true) (ht : t < 5) (hlen : len ≠ 0) (hroom : len ≤ stageRoom t) (hact : (compAt s t).inactive ≠ 3) :
    let r := openStaging d t len s
    r.1 = 0 ∧ r.2.sp.staging = some ⟨t, len, []⟩ ∧ (compAt r.2 t).inactive = 1 ∧ bankImg (compAt r.2 t) (1 - (compAt s t).runBank) = [] ∧
      (compAt r.2 t).runBank = (compAt s t).runBank := by
  intro r
  have hlt := stageRoom_lt t
  have hr : r = (0, updSp (fun x => { x with staging := some ⟨t, len, []⟩ }) (updComp t (fun x => { x with inactive := 1 }) (emptyBank t (dropStaging s)))) := by
    unfold r
    rw [openStaging_known hs (.inl ht), if_neg (by omega), if_neg (by omega), if_neg (fun h => hact h.2), if_neg hlen, if_pos ht]
  have hrun := (dropStaging_spec s).2.2.1 t
  have hcomp : compAt r.2 t = { setBankImg (1 - (compAt s t).runBank) [] { compAt (dropStaging s) t with inactive := 0 } with inactive := 1 } := by
    rw [hr, ← hrun]
    dsimp only
    rw [compAt_updSp, compAt_updComp_same, compAt_emptyBank, idleBank]
  refine ⟨by rw [hr], by rw [hr]; rfl, by rw [hcomp], ?_, ?_⟩
  · rw [hcomp]
    exact bankImg_setBankImg ..
  · rw [hcomp]
    exact (runBank_setBankImg ..).trans hrun

end

/-! ### STAGE_DATA (R519 step 2) -/

section
variable {d : Dgram} {s : State} {off : Nat} {l : List Byte} {ok : Bool}

theorem putStaging_refused (h : s.sp.staging = none ∨ inSession d s = false ∨ off % 1024 ≠ 0 ∨ 1024 < l.length) :
    putStaging d off l ok s = (E.updProtocol, s) := by
  unfold putStaging
  cases hg : s.sp.staging with
  | none => rfl
  | some g =>
    refine if_pos ?_
    rcases h with h | h | h
    · rw [hg] at h
      exact nomatch h
    · exact .inl (by rw [h]; rfl)
    · exact .inr h

variable {g : Staging}

theorem putStaging_step (hg : s.sp.staging = some g) (hs : inSession d s = true) (hoff : off % 1024 = 0) (hl : l.length ≤ 1024) :
    putStaging d off l ok s = if g.len < off + l.length then (E.lenOverrun, s)
      else if g.target < 5 ∧ !ok then (E.flashWriteFail, flashFails (dropStaging s))
      else (0, updSp (fun x => { x with staging := some { g with
        chunks := mput g.chunks (off / 1024) (l ++ (mget [] g.chunks (off / 1024)).drop l.length) } }) s) := by
  unfold putStaging
  rw [hg]
  refine if_neg ?_
  rw [hs]
  rintro (h | h | h)
  · exact absurd h (by decide)
  · exact h hoff
  · omega

theorem putStaging_kept (hg : s.sp.staging = some g) (hs : inSession d s = true) (hoff : off % 1024 = 0) (hl : l.length ≤ 1024)
    (hlen : off + l.length ≤ g.len) (hok : ok = true ∨ 5 ≤ g.target) :
    let r := putStaging d off l ok s
    r.1 = 0 ∧ ∃ x, r.2.sp.staging = some x ∧ x.target = g.target ∧ x.len = g.len ∧ (mget [] x.chunks (off / 1024)).take l.length = l ∧
      ∀ k, k ≠ off / 1024 → mget [] x.chunks k = mget [] g.chunks k := by
  intro r
  have hr : r = (0, updSp (fun x => { x with staging := some { g with
      chunks := mput g.chunks (off / 1024) (l ++ (mget [] g.chunks (off / 1024)).drop l.length) } }) s) := by
    unfold r
    rw [putStaging_step hg hs hoff hl, if_neg (by omega), if_neg]
    rintro ⟨ht, hno⟩
    rcases hok with h | h
    · rw [h] at hno
      exact absurd hno (by decide)
    · omega
  rw [hr]
  refine ⟨rfl, _, rfl, rfl, rfl, ?_, fun k hk => ?_⟩
  · rw [mget, mfind_mput_same]
    exact List.take_left' rfl
  · rw [mget, mfind_mput, if_neg hk.symm, mget]

theorem putStaging_fails (hg : s.sp.staging = some g) (hs : inSession d s = true) (hoff : off % 1024 = 0) (hl : l.length ≤ 1024)
    (hlen : off + l.length ≤ g.len) (ht : g.target < 5) :
    let r := putStaging d off l false s
    r.1 = E.flashWriteFail ∧ r.2.sp.staging = none ∧ errValid r.2 pFlash = true ∧ (compAt r.2 g.target).inactive = 0 := by
  intro r
  have hr : r = (E.flashWriteFail, flashFails (dropStaging s)) := by
    unfold r
    rw [putStaging_step hg hs hoff hl, if_neg (by omega), if_pos ⟨ht, rfl⟩]
  obtain ⟨hsp, hboot, herr⟩ := flashFails_kept (dropStaging s)
  obtain ⟨hdrop, hbank, -⟩ := dropStaging_spec s
  rw [hr]
  refine ⟨rfl, ?_, herr, ?_⟩
  · rw [hsp, hdrop]
  · rw [compAt_congr hboot]
    exact hbank g hg ht

end

/-! ### STAGE_END (R503, R504, R519 step 3) -/

section
variable {d : Dgram} {s : State} {dg : List Byte} {ok : Bool}

theorem endStaging_refused (h : s.sp.staging = none ∨ inSession d s = false) : endStaging d dg ok s = (E.updProtocol, s) := by
  unfold endStaging
  cases hg : s.sp.staging with
  | none => rfl
  | some g =>
    refine if_pos ?_
    rcases h with h | h
    · rw [hg] at h
      exact nomatch h
    · rw [h]
      rfl

variable {g : Staging}

theorem endStaging_wrong (hg : s.sp.staging = some g) (hs : inSession d s = true)
    (h : stagedBytes g = none ∨ ∃ l, stagedBytes g = some l ∧ sha256 l ≠ dg) : endStaging d dg ok s = (E.updProtocol, dropStaging s) := by
  unfold endStaging
  rw [hg]
  dsimp only
  rw [if_neg (by rw [hs]; decide)]
  rcases h with h | ⟨l, h, hne⟩
  · rw [h]
  · rw [h]
    exact if_pos hne

theorem endStaging_whole {l : List Byte} (hg : s.sp.staging = some g) (hs : inSession d s = true) (hl : stagedBytes g = some l) :
    endStaging d (sha256 l) true s = if g.target = 8 then submitRecord l true (updSp (fun x => { x with staging := none }) s)
      else (0, updComp g.target (fun x => setBankImg (idleBank x) l { x with inactive := 2 }) (updSp (fun x => { x with staging := none }) s)) := by
  unfold endStaging
  rw [hg]
  dsimp only
  rw [if_neg (by rw [hs]; decide), hl]
  dsimp only
  rw [if_neg (not_not.2 rfl)]
  rfl

theorem endStaging_bank {l : List Byte} (hg : s.sp.staging = some g) (hs : inSession d s = true) (hl : stagedBytes g = some l) (ht : g.target < 5) :
    let r := endStaging d (sha256 l) true s
    r.1 = 0 ∧ r.2.sp.staging = none ∧ (compAt r.2 g.target).inactive = 2 ∧ bankImg (compAt r.2 g.target) (1 - (compAt s g.target).runBank) = l := by
  intro r
  let u := updSp (fun x => { x with staging := none }) s
  have hr : r = (0, updComp g.target (fun x => setBankImg (idleBank x) l { x with inactive := 2 }) u) := (endStaging_whole hg hs hl).trans (if_neg (by omega))
  have hcomp : compAt r.2 g.target = setBankImg (1 - (compAt s g.target).runBank) l { compAt s g.target with inactive := 2 } := by
    rw [hr]
    exact compAt_updComp_same g.target _ u
  refine ⟨by rw [hr], by rw [hr]; rfl, ?_, ?_⟩
  · rw [hcomp, inactive_setBankImg]
  · rw [hcomp, bankImg_setBankImg]

/-- What a submission makes depends on the start-up unit alone. -/
theorem submitCopy_congr {s t : State} (h : t.boot = s.boot) (l : List Byte) : submitCopy t l = submitCopy s l := by
  have hres (k : Nat) : recRes t k = recRes s k := by rw [recRes, recRes, h]
  have hcopy (k j : Nat) : recCopy t k j = recCopy s k j := by rw [recCopy, recCopy, h]
  have hseq (k : Nat) : recNextSeq t k = recNextSeq s k := by simp only [recNextSeq, hres, hcopy]
  have hver (k : Nat) : curVersion t k = curVersion s k := by rw [curVersion, curVersion, h]
  have huse (k : Nat) : recUse t k = recUse s k := by simp only [recUse, recChoose, hcopy, h]
  have hmin (k : Nat) : minSvn t k = minSvn s k := by simp only [minSvn, huse]
  simp only [submitCopy, hseq, hver, hmin]

theorem endStaging_badRecord {l : List Byte} (hg : s.sp.staging = some g) (hs : inSession d s = true) (hl : stagedBytes g = some l) (ht : g.target = 8)
    (hbad : submitCopy s l = none) :
    let r := endStaging d (sha256 l) true s
    r.1 = E.cfgRecordInvalid ∧ r.2.sp.staging = none ∧ errValid r.2 pMc = true ∧ r.2.boot.records = s.boot.records := by
  intro r
  let u := updSp (fun x => { x with staging := none }) s
  have hcopy : submitCopy u l = none := (submitCopy_congr (s := s) (t := u) rfl l).trans hbad
  have hr : r = (E.cfgRecordInvalid, recordErrAny pMc E.cfgRecordInvalid u) := by
    refine ((endStaging_whole hg hs hl).trans (if_pos ht)).trans ?_
    rw [submitRecord, hcopy]
  have hkept := offRegs_recordErrAny pMc E.cfgRecordInvalid u
  rw [hr]
  exact ⟨rfl, (congrArg (·.sp.staging) hkept :), errValid_recordErrAny .., (congrArg (·.boot.records) hkept :)⟩

end

/-! ### Firmware and records (R508, R518) -/

theorem recordBytes_refused {t slot off : Nat} {s : State} (h : t = 0 ∨ 7 < t ∨ 1 < slot) : recordBytes t slot off s = ((E.updProtocol, []), s) := if_pos h

theorem recordBytes_read {t slot off : Nat} {s : State} (h1 : 1 ≤ t) (h7 : t ≤ 7) (hslot : slot ≤ 1) :
    recordBytes t slot off s = ((0, bytesAt (recCopy s t slot) off 1024), s) := if_neg (by omega)

theorem isRequest_now {d : Dgram} {op : Nat} {i : Instr} {f : State → (Code × List Byte) × State} (h : ∀ s, exec i s = .next (spNow d op f s)) :
    IsRequest d op i := ⟨fun s => spAnswer d op (f s).1.1 (f s).1.2 (f s).2, h⟩

theorem isRequest_code {d : Dgram} {op : Nat} {i : Instr} {f : State → Code × State} (h : ∀ s, exec i s = .next (spCode d op f s)) : IsRequest d op i :=
  isRequest_now (f := fun s => (((f s).1, []), (f s).2)) h

/-- The message of a register access does not come from a link. -/
theorem srcIsLink_floorMsg (l k vc : Nat) (o : Origin) (p : Pcl) : srcIsLink (floorMsg l k vc 0 o p).src = false := by
  have hsrc : (floorMsg l k vc 0 o p).src = 0 := rfl
  rw [hsrc]
  rfl

/-- Settles O47: every request goes through the one rule of R520, then the rule of its own operation. -/
theorem servicePortAnswersItsRequests : Obligations.ServicePortAnswersItsRequests := by
  unfold Obligations.ServicePortAnswersItsRequests
  intro s d all fresh u0 answers same
  have hrequest : ∀ i, all i → IsRequest d i.1 i.2 := by
    intro i hi
    simp only [all, List.mem_cons, List.not_mem_nil, or_false] at hi
    rcases hi with rfl | rfl | rfl | rfl | rfl | rfl | rfl | rfl | rfl | rfl
    · exact isRequest_now fun _ => rfl
    · exact isRequest_now fun _ => rfl
    · exact ⟨_, fun _ => rfl⟩
    · exact ⟨_, fun _ => rfl⟩
    · exact isRequest_code fun _ => rfl
    · exact isRequest_code fun _ => rfl
    · exact isRequest_code fun _ => rfl
    · exact isRequest_code fun _ => rfl
    · exact isRequest_code fun _ => rfl
    · exact isRequest_now fun _ => rfl
  refine ⟨?silent, ?cached, ?opened, ?full, fun dst op c seq l => spRespond_spec dst op c seq l s, ?hello, ?helloNo, ?helloPlain, ?regBad, ?regOwn, ?regMis, ?regAlone,
    ?regRemote, ?beginNo, ?beginBig, ?beginOnes, ?beginNone, ?begin, ?dataNo, ?dataLong, ?data, ?dataFail, ?endNo, ?endWrong, ?endBank, ?endRecord, ?fwNo, ?fw,
    ?readNo, ?read, ⟨_, rfl, closeSession_spec s⟩, fun up => ⟨_, rfl, rfl⟩, ?icmp, ?icmpNo, ?malSilent, ?malCount, ?malAnswer⟩
  case silent =>
    intro i hi h
    obtain ⟨act, hact⟩ := hrequest i hi
    exact ⟨_, hact s, spRequest_silent h _ _⟩
  case cached =>
    intro i r hi h hr
    obtain ⟨act, hact⟩ := hrequest i hi
    exact ⟨_, (hact s).trans (congrArg Host.Outcome.next (spRequest_cached h hr _ _)), spReplay_spec r⟩
  case opened =>
    intro i hi h hr hopen
    obtain ⟨act, hact⟩ := hrequest i hi
    exact ⟨_, hact s, spRequest_open h hr hopen _ _⟩
  case full =>
    intro i hi h hr hopen hfull
    obtain ⟨act, hact⟩ := hrequest i hi
    exact ⟨_, hact s, spRequest_full h hr hopen hfull _ _⟩
  case hello => exact fun hf h => ⟨_, _, _, _, rfl, spNow_fresh hf 1 _, spHello_open (s := spTaken d s) h⟩
  case helloNo =>
    intro hf h
    have hno := spHello_refused (s := spTaken d s) h
    exact ⟨_, _, _, _, rfl, spNow_fresh hf 1 _, congrArg (·.1.1) hno, congrArg (·.1.2) hno, congrArg (·.2) hno⟩
  case helloPlain => exact fun hf => ⟨_, _, _, _, rfl, spNow_fresh hf 1 _, spHello_plain (spTaken d s)⟩
  case regBad =>
    intro now mo pg off v hf h
    exact ⟨⟨_, _, _, _, rfl, (spRequest_fresh hf 2 _).trans (spReg_bad h), rfl, rfl⟩, ⟨_, _, _, _, rfl, (spRequest_fresh hf 3 _).trans (spReg_bad h), rfl, rfl⟩⟩
  case regOwn =>
    intro now mo pg off v hf h hm
    have hm' : mo.toNat = ownModule (spTaken d s) := hm.trans ownModule_spTaken.symm
    exact ⟨⟨_, _, _, _, rfl, (spRequest_fresh hf 2 _).trans (spReg_own h hm'), rfl, rfl, rfl⟩,
      ⟨_, _, _, _, rfl, (spRequest_fresh hf 3 _).trans (spReg_own h hm'), rfl, rfl, rfl⟩⟩
  case regMis =>
    intro now mo pg off v hf h hm hoff
    have hm' : mo.toNat ≠ ownModule (spTaken d s) := by rwa [ownModule_spTaken]
    exact ⟨⟨_, _, _, _, rfl, (spRequest_fresh hf 2 _).trans (spReg_misaligned h hm' hoff), rfl, rfl⟩,
      ⟨_, _, _, _, rfl, (spRequest_fresh hf 3 _).trans (spReg_misaligned h hm' hoff), rfl, rfl⟩⟩
  case regAlone =>
    intro now mo pg off v hf h hm hoff hj
    have hm' : mo.toNat ≠ ownModule (spTaken d s) := by rwa [ownModule_spTaken]
    have hj' : joined (spTaken d s) = false := by rwa [joined_spTaken]
    exact ⟨⟨_, _, _, _, rfl, (spRequest_fresh hf 2 _).trans (spReg_alone h hm' hoff hj'), rfl, rfl⟩,
      ⟨_, _, _, _, rfl, (spRequest_fresh hf 3 _).trans (spReg_alone h hm' hoff hj'), rfl, rfl⟩⟩
  case regRemote =>
    intro now mo pg off v l hf h hm hoff hj hroute hup hidle hroom
    have hm' : mo.toNat ≠ ownModule (spTaken d s) := by rwa [ownModule_spTaken]
    have hj' : joined (spTaken d s) = true := by rwa [joined_spTaken]
    have hroute' : routeFor (spTaken d s) 8 mo.toNat = .link l := by rwa [routeFor_spTaken]
    have hsent (op : Nat) (data : Word) (own : State → State) : ∃ q, (spReg d op mo.toNat pg.toNat off.toNat data own (spTaken d s)).clReqs = s.clReqs ++ [q] ∧
        q.origin = .spReg d.from_ op d.seq.toNat ∧ q.module = mo.toNat ∧ q.link = l ∧ (spReg d op mo.toNat pg.toNat off.toNat data own (spTaken d s)).sp = u0.sp := by
      rw [spReg_remote h hm' hoff hj']
      exact attachArrive_idle (p := spRegMsg op mo.toNat pg.toNat off.toNat data (spTaken d s)) hidle rfl (srcIsLink_floorMsg ..) hroom hroute' hup
    obtain ⟨q, hq⟩ := hsent 2 0 _
    obtain ⟨q', hq'⟩ := hsent 3 v _
    exact ⟨⟨_, q, congrArg Host.Outcome.next (spRequest_fresh hf 2 _), hq⟩, ⟨_, q', congrArg Host.Outcome.next (spRequest_fresh hf 3 _), hq'⟩⟩
  case beginNo =>
    intro g len hf h
    have hno : openStaging d g.toNat len.toNat (spTaken d s) = (E.updProtocol, spTaken d s) := by
      by_cases hs : inSession d s = true
      · rcases h with h | h | h
        · exact absurd h (by rw [hs]; decide)
        · exact openStaging_target hs (by omega) h.2
        · exact openStaging_activated hs h.1 h.2.1 h.2.2
      · exact openStaging_closed (eq_false_of_ne_true hs)
    exact ⟨_, _, _, _, rfl, spCode_fresh hf 0x10 _, congrArg Prod.fst hno, congrArg Prod.snd hno⟩
  case beginBig =>
    intro g len hf hs ht hroom hones
    have hlen : len.toNat ≠ 0xFFFFFFFF := fun h => hones (BitVec.eq_of_toNat_eq h)
    have hno : openStaging d g.toNat len.toNat (spTaken d s) = (E.sizeOverrun, spTaken d s) :=
      (openStaging_known (s := spTaken d s) hs ht).trans ((if_neg hlen).trans (if_pos hroom))
    exact ⟨_, _, _, _, rfl, spCode_fresh hf 0x10 _, congrArg Prod.fst hno, congrArg Prod.snd hno⟩
  case beginOnes =>
    intro g hf hs ht
    have hno : openStaging d g.toNat (0xFFFFFFFF : Word).toNat (spTaken d s) = (E.reservedValue, spTaken d s) := (openStaging_known (s := spTaken d s) hs ht).trans (if_pos rfl)
    exact ⟨_, _, _, _, rfl, spCode_fresh hf 0x10 _, congrArg Prod.fst hno, congrArg Prod.snd hno⟩
  case beginNone =>
    intro g hf hs ht
    have hno : openStaging d g.toNat (0 : Word).toNat (spTaken d s) = (0, spTaken d s) := openStaging_empty hs ht
    exact ⟨_, _, _, _, rfl, spCode_fresh hf 0x10 _, congrArg Prod.fst hno, congrArg Prod.snd hno⟩
  case begin =>
    intro g len hf hs ht hlen hroom hact
    have hlen' : len.toNat ≠ 0 := fun h => hlen (BitVec.eq_of_toNat_eq h)
    exact ⟨_, _, _, _, rfl, spCode_fresh hf 0x10 _, openStaging_bank (s := spTaken d s) hs ht hlen' hroom hact⟩
  case dataNo =>
    intro off l ok hf h
    have hno : putStaging d off.toNat l ok (spTaken d s) = (E.updProtocol, spTaken d s) := putStaging_refused h
    exact ⟨_, _, _, _, rfl, spCode_fresh hf 0x11 _, congrArg Prod.fst hno, congrArg Prod.snd hno⟩
  case dataLong =>
    intro off l ok g hf hg hs hoff hl hlen
    have hno : putStaging d off.toNat l ok (spTaken d s) = (E.lenOverrun, spTaken d s) := (putStaging_step (s := spTaken d s) hg hs hoff hl).trans (if_pos hlen)
    exact ⟨_, _, _, _, rfl, spCode_fresh hf 0x11 _, congrArg Prod.fst hno, congrArg Prod.snd hno⟩
  case data =>
    intro off l ok g hf hg hs hoff hl hlen hok
    exact ⟨_, _, _, _, rfl, spCode_fresh hf 0x11 _, putStaging_kept (s := spTaken d s) hg hs hoff hl hlen hok⟩
  case dataFail =>
    intro off l g hf hg hs hoff hl hlen ht
    exact ⟨_, _, _, _, rfl, spCode_fresh hf 0x11 _, putStaging_fails (s := spTaken d s) hg hs hoff hl hlen ht⟩
  case endNo =>
    intro dg ok hf h
    have hno : endStaging d dg ok (spTaken d s) = (E.updProtocol, spTaken d s) := endStaging_refused h
    exact ⟨_, _, _, _, rfl, spCode_fresh hf 0x12 _, congrArg Prod.fst hno, congrArg Prod.snd hno⟩
  case endWrong =>
    intro dg ok g hf hg hs hwrong
    have hno : endStaging d dg ok (spTaken d s) = (E.updProtocol, dropStaging (spTaken d s)) := endStaging_wrong hg hs hwrong
    obtain ⟨hsp, hbank, -⟩ := dropStaging_spec (spTaken d s)
    refine ⟨_, _, _, _, rfl, spCode_fresh hf 0x12 _, congrArg Prod.fst hno, ?_, fun ht => ?_⟩
    · rw [hno]
      exact congrArg ServicePort.staging hsp
    · rw [hno]
      exact hbank g hg ht
  case endBank =>
    intro g l hf hg hs hl ht
    exact ⟨_, _, _, _, rfl, spCode_fresh hf 0x12 _, endStaging_bank (s := spTaken d s) hg hs hl ht⟩
  case endRecord =>
    intro g l hf hg hs hl ht hbad
    exact ⟨_, _, _, _, rfl, spCode_fresh hf 0x12 _,
      endStaging_badRecord (s := spTaken d s) hg hs hl ht ((submitCopy_congr (s := s) (t := spTaken d s) rfl l).trans hbad)⟩
  case fwNo =>
    intro c u hf h
    have hno (f : State → Code × State) : spFirmware f (spTaken d s) = (E.updProtocol, spTaken d s) :=
      if_neg fun hr => Bool.false_ne_true (h.symm.trans hr)
    exact ⟨⟨_, _, _, _, rfl, spCode_fresh hf 0x13 _, congrArg Prod.fst (hno _), congrArg Prod.snd (hno _)⟩,
      ⟨_, _, _, _, rfl, spCode_fresh hf 0x14 _, congrArg Prod.fst (hno _), congrArg Prod.snd (hno _)⟩⟩
  case fw =>
    intro c u hf h
    have hyes (f : State → Code × State) : spFirmware f (spTaken d s) = f (spTaken d s) := if_pos h
    exact ⟨⟨_, _, _, _, rfl, spCode_fresh hf 0x13 _, congrArg Prod.fst (hyes _), congrArg Prod.snd (hyes _)⟩,
      ⟨_, _, _, _, rfl, spCode_fresh hf 0x14 _, congrArg Prod.fst (hyes _), congrArg Prod.snd (hyes _)⟩⟩
  case readNo =>
    intro ty sl off hf h
    have hno : recordBytes ty.toNat sl.toNat off.toNat (spTaken d s) = ((E.updProtocol, []), spTaken d s) := recordBytes_refused h
    exact ⟨_, _, _, _, rfl, spNow_fresh hf 0x20 _, ⟨congrArg (·.1.1) hno, congrArg Prod.snd hno⟩, congrArg (·.1.2) hno⟩
  case read =>
    intro ty sl off hf h1 h7 hsl
    have hread : recordBytes ty.toNat sl.toNat off.toNat (spTaken d s) = ((0, bytesAt (recCopy s ty.toNat sl.toNat) off.toNat 1024), spTaken d s) :=
      recordBytes_read h1 h7 hsl
    refine ⟨_, _, _, _, rfl, spNow_fresh hf 0x20 _, ⟨congrArg (·.1.1) hread, congrArg Prod.snd hread⟩, congrArg (·.1.2) hread, ?_⟩
    rw [congrArg (·.1.2) hread]
    exact List.length_take_le ..
  case icmp => exact fun gl r hans h => ⟨_, congrArg Host.Outcome.next (if_pos ⟨hans, h⟩ : icmp gl r s = _), rfl⟩
  case icmpNo =>
    intro gl r h
    refine ⟨_, congrArg Host.Outcome.next (if_neg ?_ : icmp gl r s = s), rfl⟩
    rintro ⟨hans, hin⟩
    rcases h with h | ⟨hgl, h⟩
    · exact absurd hans (by rw [h]; decide)
    · exact hin.elim (fun h' => absurd h' (by rw [hgl]; decide)) h
  case malSilent => exact fun w op h => ⟨_, congrArg Host.Outcome.next (if_pos (by rw [h]; rfl) : malformed d w op.toNat s = s), rfl⟩
  case malCount =>
    intro w op hans h
    have hact : malformed d w op.toNat s = countUp pSp 0x804 15 0 1 s := (if_neg (by rw [hans]; decide)).trans (by rcases h with rfl | rfl <;> rfl)
    exact ⟨_, congrArg Host.Outcome.next hact, rfl, rfl, liveF_countUp s (by decide) (by decide)⟩
  case malAnswer =>
    intro w op hans h hr
    refine ⟨_, rfl, (if_neg (by rw [hans]; decide)).trans ?_⟩
    rcases h with rfl | rfl
    · simp only [hr]
      rfl
    · simp only [hr]
      rfl

end Sys2Proof.Machine
end

section
/-! Reads of the host's tables, requests and their results (R285 to R291, R307, R309, R360). -/

namespace Sys2Proof.Machine

open Sys2Proof

/-! ### Bytes that a read of host memory covers (R360) -/

theorem hostBytes_isSome (mem : HostMem) (a n : Nat) : (hostBytes mem a n).isSome ↔ ∀ k < n, (hostByte mem (a + k)).isSome := by
  induction n generalizing a with
  | zero => simp [hostBytes]
  | succ n ih =>
    have hstep : (hostBytes mem a (n + 1)).isSome ↔ (hostByte mem a).isSome ∧ (hostBytes mem (a + 1) n).isSome := by
      rw [hostBytes]
      cases hostByte mem a <;> cases hostBytes mem (a + 1) n <;> simp
    rw [hstep, ih, Nat.forall_lt_succ_left]
    simp only [Nat.add_zero]
    exact and_congr_right fun _ => forall₂_congr fun k _ => by rw [show a + 1 + k = a + (k + 1) by omega]

/-- The pieces of a range leave no byte out. -/
theorem pieces_cover {most align a k : Nat} (hmost : 0 < most) (halign : 0 < align) (fuel off len : Nat) (hfuel : len ≤ fuel) (hlo : off ≤ k) (hhi : k < off + len) :
    ∃ p ∈ pieces most align a fuel off len, p.1 ≤ k ∧ k < p.1 + p.2 := by
  induction fuel generalizing off len with
  | zero => omega
  | succ fuel ih =>
    have hmod := Nat.mod_lt (a + off) halign
    have hn : 0 < Nat.min (Nat.min most len) (align - (a + off) % align) := by
      refine Nat.lt_min.2 ⟨Nat.lt_min.2 ⟨hmost, by omega⟩, by omega⟩
    have hle : Nat.min (Nat.min most len) (align - (a + off) % align) ≤ len := (Nat.min_le_left ..).trans (Nat.min_le_right ..)
    rw [pieces, if_neg (by omega)]
    dsimp only
    generalize Nat.min (Nat.min most len) (align - (a + off) % align) = n at hn hle
    by_cases hk : k < off + n
    · exact ⟨_, List.mem_cons_self, hlo, hk⟩
    · obtain ⟨p, hp, hcover⟩ := ih (off + n) (len - n) (by omega) (by omega) (by omega)
      exact ⟨p, List.mem_cons_of_mem _ hp, hcover⟩

/-- A read that brought nothing of some byte brought nothing of one of its lines. -/
theorem line_missing {mem : HostMem} {a len : Nat} (h : hostBytes mem a len = none) : ∃ e ∈ linesOfRange a len, hostBytes mem (a + e.1) e.2 = none := by
  by_contra hno
  have hall : ∀ e ∈ linesOfRange a len, (hostBytes mem (a + e.1) e.2).isSome := fun e he =>
    Option.isSome_iff_ne_none.2 fun hnone => hno ⟨e, he, hnone⟩
  have hsome : (hostBytes mem a len).isSome := by
    rw [hostBytes_isSome]
    intro k hk
    obtain ⟨p, hp, hlo, hhi⟩ := pieces_cover (most := 64) (align := 64) (a := a) (k := k) (by decide) (by decide) len 0 len (Nat.le_refl _) (Nat.zero_le _) (by omega)
    have hbyte := (hostBytes_isSome mem (a + p.1) p.2).1 (hall p hp) (k - p.1) (by omega)
    rwa [show a + p.1 + (k - p.1) = a + k by omega] at hbyte
  rw [h] at hsome
  exact Bool.false_ne_true hsome

/-! ### What a read of host memory leaves (R362) -/

theorem serving_recordErrAny (p : Nat) (c : Code) (s : State) : (recordErrAny p c s).serving = s.serving := (congrArg State.serving (offRegs_recordErrAny p c s) :)
theorem sec_recordErrAny (p : Nat) (c : Code) (s : State) : (recordErrAny p c s).sec = s.sec := (congrArg State.sec (offRegs_recordErrAny p c s) :)
theorem beat_recordErrAny (p : Nat) (c : Code) (s : State) : (recordErrAny p c s).beat = s.beat := (congrArg State.beat (offRegs_recordErrAny p c s) :)

/-- The parts of the state that streams and sessions are read from. -/
def servingPart (s : State) : Serving × SecEngine × BeatUnit := (s.serving, s.sec, s.beat)

theorem servingPart_hostFail (c : Code) (req off : Nat) (s : State) : servingPart (hostFail c req off s) = servingPart s := by
  unfold hostFail
  dsimp only
  rw [servingPart, serving_recordErrAny, sec_recordErrAny, beat_recordErrAny]
  split <;> rfl

theorem servingPart_askLines (req off a : Nat) (mem : HostMem) (l : List (Nat × Nat)) (s : State) : servingPart (askLines req off a mem l s) = servingPart s := by
  refine foldl_same (g := servingPart) (fun s e => ?_) ..
  dsimp only
  split
  · rfl
  · exact (servingPart_hostFail ..).trans rfl

theorem servingPart_readHost (req o len : Nat) (mem : HostMem) (s : State) : servingPart (readHost req o len mem s).2 = servingPart s := by
  unfold readHost
  split
  · rfl
  · split
    · exact servingPart_hostFail ..
    · rfl
    · split
      · dsimp only
        split
        · exact servingPart_askLines ..
        · exact servingPart_askLines ..
      · exact servingPart_hostFail ..

theorem errValid_hostFail (c : Code) (req off : Nat) (s : State) : errValid (hostFail c req off s) pHost = true := errValid_recordErrAny ..

/-- A line that brought nothing is a host failure, whatever the other lines bring. -/
theorem errValid_askLines {req off a : Nat} {mem : HostMem} (l : List (Nat × Nat)) (s : State)
    (h : errValid s pHost = true ∨ ∃ e ∈ l, hostBytes mem (a + e.1) e.2 = none) : errValid (askLines req off a mem l s) pHost = true := by
  induction l generalizing s with
  | nil =>
    rcases h with h | ⟨e, he, -⟩
    · exact h
    · exact absurd he List.not_mem_nil
  | cons e l ih =>
    refine ih _ ?_
    dsimp only
    split
    · next hsome =>
      rcases h with h | ⟨e', he', hnone⟩
      · exact .inl h
      · rcases List.mem_cons.1 he' with rfl | hmem
        · rw [hnone] at hsome
          exact absurd hsome Bool.false_ne_true
        · exact .inr ⟨e', hmem, hnone⟩
    · exact .inl (errValid_hostFail ..)

/-- A read that fails is a host failure. -/
theorem errValid_readHost {req o len : Nat} {mem : HostMem} {s u : State} {c : Code} (h : readHost req o len mem s = (.error c, u)) : errValid u pHost = true := by
  unfold readHost at h
  split at h
  · exact nomatch congrArg Prod.fst h
  · split at h
    · obtain ⟨-, rfl⟩ := Prod.mk.inj h
      exact errValid_hostFail ..
    · exact nomatch congrArg Prod.fst h
    · split at h
      · dsimp only at h
        split at h
        · exact nomatch congrArg Prod.fst h
        · next hnone =>
          obtain ⟨-, rfl⟩ := Prod.mk.inj h
          exact errValid_askLines _ _ (.inr (line_missing hnone))
      · obtain ⟨-, rfl⟩ := Prod.mk.inj h
        exact errValid_hostFail ..

theorem serving_of_read {req o len : Nat} {mem : HostMem} {s u : State} {r : Except Code (List Byte)} (h : readHost req o len mem s = (r, u)) :
    servingPart u = servingPart s := (congrArg (fun q => servingPart q.2) h).symm.trans (servingPart_readHost ..)

theorem serving_of_part {s t : State} (h : servingPart t = servingPart s) : t.serving = s.serving := congrArg Prod.fst h

/-! ### Request results (R289, R291) -/

/-- The state in which a request has its result. -/
def requestState (i : Nat) (r : ReqEntry) (c : Code) (ended : Bool) (s : State) : State :=
  updStream i (fun x => { x with reqSeq := r.seq }) (result i c r.seq ended s)

theorem streamAt_result (i : Nat) (c : Code) (seq : Nat) (ended : Bool) (s : State) : streamAt (result i c seq ended s) i = { streamAt s i with lastCode := c } :=
  streamAt_updStream ..

theorem streamAt_requestState (i : Nat) (r : ReqEntry) (c : Code) (ended : Bool) (s : State) :
    streamAt (requestState i r c ended s) i = { streamAt s i with reqSeq := r.seq, lastCode := c } := by
  rw [requestState, streamAt_updStream, streamAt_result]

theorem queue_requestState (i : Nat) (r : ReqEntry) (c : Code) (ended : Bool) (s : State) :
    (requestState i r c ended s).serving.queue = s.serving.queue ++ [plainEntry s i 5 c r.seq ended] := rfl

/-- A stream's request has been answered: its latest code and number, and the result queued. -/
def Answered (s u : State) (i : Nat) (c : Code) (seq : Nat) (ended : Bool) : Prop :=
  (streamAt u i).lastCode = c ∧ (streamAt u i).reqSeq = seq ∧
    ∃ e, u.serving.queue = s.serving.queue ++ [e] ∧ e.stream = i ∧ e.kind = 5 ∧ e.code = c ∧ e.reqSeq = seq ∧ e.ended = ended

theorem answered_requestState (i : Nat) (r : ReqEntry) (c : Code) (ended : Bool) (s : State) : Answered s (requestState i r c ended s) i c r.seq ended := by
  rw [Answered, streamAt_requestState]
  exact ⟨rfl, rfl, _, queue_requestState .., rfl, rfl, rfl, rfl, rfl⟩

/-! ### END and REBIND (R291, R309) -/

theorem frontReq_none {s : State} (op : Nat) (h : s.serving.work = []) : frontReq s op = none := by rw [frontReq, h]

/-- What END leaves before the work goes on. -/
def endState (it : PollItem) (r : ReqEntry) (s : State) : State :=
  if r.clean = false then requestState it.stream r E.reqInvalid false s
  else if (streamAt s it.stream).st = .free then requestState it.stream r E.streamState false s
  else endStream it.stream 0 (requestState it.stream r 0 (streamAt s it.stream).run.isNone s)

theorem endRequest_front {s : State} {it : PollItem} {r : ReqEntry} {l : List PollItem} (h : frontReq s 2 = some (it, r, l)) :
    endRequest s = settleWork ({ it with req := none } :: l) (endState it r s) := by
  unfold endRequest endState
  rw [h]
  dsimp only
  cases hclean : r.clean with
  | false => rfl
  | true =>
    by_cases hst : (streamAt s it.stream).st = .free
    · rw [if_neg (by decide), if_pos hst, hst]
      rfl
    · rw [if_neg (by decide), if_neg hst]
      have hcheck : firstFail [(!true, E.reqInvalid), ((streamAt s it.stream).st == .free, E.streamState)] = none := by
        rw [beq_eq_false_iff_ne.2 hst]
        rfl
      rw [hcheck]
      rfl

theorem endState_unclean {it : PollItem} {r : ReqEntry} {s : State} (h : r.clean = false) :
    Answered s (endState it r s) it.stream E.reqInvalid r.seq false ∧ (streamAt (endState it r s) it.stream).st = (streamAt s it.stream).st := by
  rw [endState, if_pos h]
  exact ⟨answered_requestState .., by rw [streamAt_requestState]⟩

theorem endState_free {it : PollItem} {r : ReqEntry} {s : State} (h : r.clean = true) (hst : (streamAt s it.stream).st = .free) :
    Answered s (endState it r s) it.stream E.streamState r.seq false := by
  rw [endState, if_neg (by rw [h]; decide), if_pos hst]
  exact answered_requestState ..

theorem reqSeq_freeStream (i : Nat) (s : State) : (streamAt (freeStream i s) i).reqSeq = (streamAt s i).reqSeq := by
  have h : ∃ x : Stream, streamAt (freeStream i s) i = x ∧ x.reqSeq = (streamAt s i).reqSeq := ⟨_, streamAt_setStream_same .., rfl⟩
  obtain ⟨x, hx, hseq⟩ := h
  rw [hx, hseq]

theorem endState_idle {it : PollItem} {r : ReqEntry} {s : State} (h : r.clean = true) (hfree : (streamAt s it.stream).st ≠ .free)
    (hending : (streamAt s it.stream).st ≠ .ending) (hrun : (streamAt s it.stream).run = none) :
    Answered s (endState it r s) it.stream 0 r.seq true ∧ (streamAt (endState it r s) it.stream).st = .free := by
  have hact : endState it r s = freeStream it.stream (requestState it.stream r 0 true s) := by
    rw [endState, if_neg (by rw [h]; decide), if_neg hfree, hrun]
    refine endStream_frees ?_ ?_ ?_ 0
    · rwa [streamAt_requestState]
    · rwa [streamAt_requestState]
    · rwa [streamAt_requestState]
  obtain ⟨x, hx, hst, hcode, -⟩ := streamAt_freeStream_same it.stream (requestState it.stream r 0 true s)
  obtain ⟨hlast, hseq, hqueue⟩ := answered_requestState it.stream r 0 true s
  rw [Answered, hact, hx, ← hx, reqSeq_freeStream, hx, queue_freeStream]
  exact ⟨⟨hcode.trans hlast, hseq, hqueue⟩, hst⟩

theorem endState_running {it : PollItem} {r : ReqEntry} {s : State} (h : r.clean = true) (hfree : (streamAt s it.stream).st ≠ .free)
    (hending : (streamAt s it.stream).st ≠ .ending) (hrun : (streamAt s it.stream).run ≠ none) :
    Answered s (endState it r s) it.stream 0 r.seq false ∧ (streamAt (endState it r s) it.stream).st = .ending ∧
      (streamAt (endState it r s) it.stream).run = (streamAt s it.stream).run := by
  have hnone : (streamAt s it.stream).run.isNone = false := by
    rw [Option.isNone_eq_false_iff, Option.isSome_iff_ne_none]
    exact hrun
  have hact : endState it r s = updStream it.stream (fun x => { x with st := .ending, endCode := 0, joined := none }) (requestState it.stream r 0 false s) := by
    rw [endState, if_neg (by rw [h]; decide), if_neg hfree, hnone]
    refine endStream_ends ?_ ?_ ?_ 0
    · rwa [streamAt_requestState]
    · rwa [streamAt_requestState]
    · rwa [streamAt_requestState]
  obtain ⟨hlast, hseq, hqueue⟩ := answered_requestState it.stream r 0 false s
  rw [Answered, hact, streamAt_updStream]
  refine ⟨⟨hlast, hseq, hqueue⟩, rfl, ?_⟩
  rw [streamAt_requestState]

/-- What REBIND leaves before the work goes on. -/
def rebindState (it : PollItem) (r : ReqEntry) (s : State) : State :=
  if r.clean = false then requestState it.stream r E.reqInvalid false s
  else if (streamAt s it.stream).st = .free ∨ (streamAt s it.stream).st = .ending then requestState it.stream r E.streamState false s
  else requestState it.stream r 0 false (updStream it.stream (fun x => { x with
    rebind := some (if r.adapter / 2 ^ 15 = 1 then some (r.adapter % 1024) else none) }) s)

theorem rebindReq_front {s : State} {it : PollItem} {r : ReqEntry} {l : List PollItem} (h : frontReq s 3 = some (it, r, l)) :
    rebindReq s = settleWork ({ it with req := none } :: l) (rebindState it r s) := by
  unfold rebindReq rebindState
  rw [h]
  dsimp only
  cases hclean : r.clean with
  | false => rfl
  | true =>
    rw [if_neg (by decide : ¬ (true = false))]
    by_cases hst : (streamAt s it.stream).st = .free ∨ (streamAt s it.stream).st = .ending
    · rw [if_pos hst]
      have hcheck : firstFail [(!true, E.reqInvalid), ((streamAt s it.stream).st == .free || (streamAt s it.stream).st == .ending, E.streamState)] = some E.streamState := by
        rcases hst with hst | hst <;> rw [hst] <;> rfl
      rw [hcheck]
      rfl
    · rw [if_neg hst]
      obtain ⟨hfree, hending⟩ := not_or.1 hst
      have hcheck : firstFail [(!true, E.reqInvalid), ((streamAt s it.stream).st == .free || (streamAt s it.stream).st == .ending, E.streamState)] = none := by
        rw [beq_eq_false_iff_ne.2 hfree, beq_eq_false_iff_ne.2 hending]
        rfl
      rw [hcheck]
      rfl

end Sys2Proof.Machine
end

section
/-! The poll and selections (R285 to R288, R296, R307, R346, R348). -/

namespace Sys2Proof.Machine

open Sys2Proof

/-! ### The poll (R287) -/

/-- The poll's turn has come. -/
def pollTaken (s : State) : State := { s with serving := { s.serving with polling := false } }

/-- CONS as the poll read it. -/
def consRead (h : List Byte) (s : State) : State := updServing (fun v => { v with cons := le h 0x1000 8 }) s

/-- Streams whose summary byte has changed. -/
def changedOf (h : List Byte) (s : State) : List (Nat × Nat) :=
  (pollOrder s.beat.now (List.range 4096)).filterMap fun i => if le h i 1 ≠ (streamAt s i).sumSeen then some (i, le h i 1) else none

theorem hostPoll_idle {mem : HostMem} {s : State} (h : s.serving.polling = false) : hostPoll mem s = s := if_pos (by rw [h]; rfl)

theorem hostPoll_error {mem : HostMem} {s u : State} {c : Code} (h : s.serving.polling = true)
    (hr : readHost 1 (srvAddr (pollTaken s) 0) 4160 mem (pollTaken s) = (.error c, u)) : hostPoll mem s = u := by
  have hr' : readHost 1 (srvAddr (updServing (fun v => { v with polling := false }) s) 0) 4160 mem (updServing (fun v => { v with polling := false }) s) =
    (.error c, u) := hr
  unfold hostPoll
  rw [if_neg (by rw [h]; decide)]
  dsimp only
  rw [hr']

theorem hostPoll_read {mem : HostMem} {s u : State} {l : List Byte} (h : s.serving.polling = true)
    (hr : readHost 1 (srvAddr (pollTaken s) 0) 4160 mem (pollTaken s) = (.ok l, u)) :
    hostPoll mem s = settleWork (readChanged mem (liveF (consRead l u) pSrv 0x40 12 0) (changedOf l (consRead l u)) [] (consRead l u)).1
      (readChanged mem (liveF (consRead l u) pSrv 0x40 12 0) (changedOf l (consRead l u)) [] (consRead l u)).2 := by
  have hr' : readHost 1 (srvAddr (updServing (fun v => { v with polling := false }) s) 0) 4160 mem (updServing (fun v => { v with polling := false }) s) =
    (.ok l, u) := hr
  unfold hostPoll
  rw [if_neg (by rw [h]; decide)]
  dsimp only
  rw [hr']
  rfl

theorem changedOf_none {l : List Byte} {s : State} (h : ∀ i, i < 4096 → le l i 1 = (streamAt s i).sumSeen) : changedOf l s = [] := by
  refine List.filterMap_eq_nil_iff.2 fun i hi => if_neg (not_not.2 (h i ?_))
  rcases List.mem_append.1 hi with hi | hi
  · exact List.mem_range.1 (List.mem_of_mem_filter hi)
  · exact List.mem_range.1 (List.mem_of_mem_filter hi)

theorem filterMap_single {α β : Type} {f : α → Option β} {a : α} {b : β} {l : List α} (hnd : l.Nodup) (ha : a ∈ l) (hf : f a = some b)
    (hothers : ∀ x ∈ l, x ≠ a → f x = none) : l.filterMap f = [b] := by
  induction l with
  | nil => exact absurd ha List.not_mem_nil
  | cons x l ih =>
    obtain ⟨hx, hnd⟩ := List.nodup_cons.1 hnd
    by_cases hxa : x = a
    · subst hxa
      have hrest : l.filterMap f = [] := List.filterMap_eq_nil_iff.2 fun y hy =>
        hothers y (List.mem_cons_of_mem _ hy) (fun h => hx (h ▸ hy))
      rw [List.filterMap_cons_some hf, hrest]
    · rw [List.filterMap_cons_none (hothers x List.mem_cons_self hxa)]
      exact ih hnd ((List.mem_cons.1 ha).resolve_left (Ne.symm hxa)) fun y hy => hothers y (List.mem_cons_of_mem _ hy)

theorem mem_pollOrder {b : Beat} {l : List Nat} {i : Nat} : i ∈ pollOrder b l ↔ i ∈ l := by
  rw [pollOrder, List.mem_append, List.mem_filter, List.mem_filter, decide_eq_true_eq, decide_eq_true_eq, ← and_or_left]
  exact and_iff_left (Nat.lt_or_ge _ _).symm

theorem nodup_pollOrder (b : Beat) {l : List Nat} (h : l.Nodup) : (pollOrder b l).Nodup := by
  refine List.nodup_append.2 ⟨h.filter _, h.filter _, fun x hx y hy hxy => ?_⟩
  have hle := (List.mem_filter.1 hx).2
  have hlt := (List.mem_filter.1 hy).2
  rw [decide_eq_true_eq] at hle hlt
  omega

theorem changedOf_one {l : List Byte} {s : State} {i : Nat} (hi : i < 4096) (hne : le l i 1 ≠ (streamAt s i).sumSeen)
    (h : ∀ j, j < 4096 → j ≠ i → le l j 1 = (streamAt s j).sumSeen) : changedOf l s = [(i, le l i 1)] :=
  filterMap_single (nodup_pollOrder _ List.nodup_range) (mem_pollOrder.2 (List.mem_range.2 hi)) (if_pos hne)
    fun j hj hji => if_neg (not_not.2 (h j (List.mem_range.1 (mem_pollOrder.1 hj)) hji))

/-- What the lines of one stream give. -/
theorem readLines_read {mem : HostMem} {i sum : Nat} {s w1 w2 : State} {a b : List Byte} (ha : readHost 1 (srvAddr s 1 + 64 * i) 64 mem s = (.ok a, w1))
    (hb : readHost 1 (srvAddr w1 2 + 64 * i) 64 mem w1 = (.ok b, w2)) :
    readLines mem i sum s = if (reqOf a).1 || (selOf b).1 then (none, countTorn (selOf b).1 (countTorn (reqOf a).1 w2))
      else (some { stream := i, sum := sum, req := if (reqOf a).2.seq ≠ (streamAt w2 i).reqSeq then some (reqOf a).2 else none,
                   sel := if (selOf b).2.seq ≠ (streamAt w2 i).selSeq then some (selOf b).2 else none, keep := false }, w2) := by
  unfold readLines
  rw [ha]
  dsimp only
  rw [hb]

theorem readChanged_one {mem : HostMem} {n i sum : Nat} {s : State} (hn : 0 < n) :
    readChanged mem n [(i, sum)] [] s = (((readLines mem i sum s).1.toList), (readLines mem i sum s).2) := by
  obtain ⟨k, rfl⟩ := Nat.exists_eq_succ_of_ne_zero hn.ne'
  unfold readChanged
  cases h : readLines mem i sum s with
  | mk o t => cases o <;> simp [readChanged]

theorem serving_countTorn (on : Bool) (s : State) : (countTorn on s).serving = s.serving := by
  unfold countTorn
  split <;> rfl

/-- A request that names an operation, with room for its result, is left for a command. -/
theorem settleWork_request {it : PollItem} {r : ReqEntry} {s : State} (hr : it.req = some r) (h1 : 1 ≤ r.op) (h4 : r.op ≤ 4) (hroom : canHold s 64 = true) :
    settleWork [it] s = updServing (fun v => { v with work := [it] }) s := by
  have hitem : settleItem it s = (some it, s) := by
    unfold settleItem
    rw [hr]
    dsimp only
    rw [if_neg (by omega), if_neg (by rw [hroom]; decide), if_neg (by omega)]
  have hlist : settleList [it] s = ([it], s) := by
    unfold settleList
    rw [hitem]
  unfold settleWork
  rw [hlist]

/-! ### Notices and selections (R306, R307) -/

theorem streamAt_notice (i : Nat) (c : Code) (ended : Bool) (s : State) : streamAt (notice i c ended s) i = { streamAt s i with lastCode := c } := by
  have hlast : streamAt (setLastCode i c s) i = { streamAt s i with lastCode := c } := streamAt_updStream ..
  unfold notice
  dsimp only
  rw [← hlast]
  split <;> rfl

/-- A notice enters the next record, or waits for room. -/
theorem queue_notice (i : Nat) (c : Code) (ended : Bool) (s : State) :
    (notice i c ended s).serving.queue = s.serving.queue ++ [plainEntry s i 6 c 0 ended] ∨
      (notice i c ended s).serving.late = s.serving.late ++ [plainEntry s i 6 c 0 ended] := by
  unfold notice
  dsimp only
  split
  · exact .inl rfl
  · exact .inr rfl

theorem late_freeStream (i : Nat) (s : State) : (freeStream i s).serving.late = s.serving.late :=
  (congrArg (fun s => s.serving.late) (offStream_freeStream i s) :)

theorem streamAt_discardSel (i : Nat) (c : Code) (s : State) : streamAt (discardSel i c s) i = { streamAt s i with lastCode := c } := by
  unfold discardSel
  dsimp only
  rw [streamAt_notice]
  split
  · rfl
  · split <;> rfl

/-- A stream in WAIT_SEL that ends with a notice. -/
theorem endWith_waiting {i : Nat} {s : State} (c : Code) (hst : (streamAt s i).st = .waitSel) (hrun : (streamAt s i).run = none) :
    endWith i c s = freeStream i (notice i c true s) := by
  unfold endWith
  rw [if_neg (by rw [hrun]; decide)]
  refine endStream_frees ?_ ?_ ?_ c
  · rw [streamAt_notice, hst]
    decide
  · rw [streamAt_notice, hst]
    decide
  · rwa [streamAt_notice]

theorem openSel_updStream (i : Nat) (q p : SelEntry) (s : State) : openSel (updStream i (fun x => { x with selSeq := p.seq }) s) i q = openSel s i q := by
  unfold openSel
  rw [streamAt_updStream]
  rfl

section
variable {i : Nat} {q : SelEntry} {s : State}

/-- A selection's sequence number is noted, whatever becomes of it. -/
def selSeen (i : Nat) (q : SelEntry) (s : State) : State := updStream i (fun x => { x with selSeq := q.seq }) s

theorem streamAt_selSeen (i : Nat) (q : SelEntry) (s : State) : streamAt (selSeen i q s) i = { streamAt s i with selSeq := q.seq } := streamAt_updStream ..

/-- A selection that is discarded leaves the stream but for its number and code. -/
theorem streamAt_discarded (i : Nat) (q : SelEntry) (c : Code) (s : State) :
    streamAt (discardSel i c (selSeen i q s)) i = { streamAt s i with selSeq := q.seq, lastCode := c } := by
  rw [streamAt_discardSel, streamAt_selSeen]

theorem handleSel_stale (h : (q.step + 1) % 2 ^ 32 ≠ (streamAt s i).step) : handleSel i q s = discardSel i E.selStale (selSeen i q s) := if_pos h

theorem handleSel_unopened (h : (q.step + 1) % 2 ^ 32 = (streamAt s i).step) (ho : openSel s i q = none) :
    handleSel i q s = discardSel i E.selAuthFail (selSeen i q s) := by
  have ho' : openSel (selSeen i q s) i q = none := (openSel_updStream ..).trans ho
  refine (if_neg (not_not.2 h)).trans ?_
  show (match openSel (selSeen i q s) i q with | none => _ | some (token, action, accept) => _) = _
  rw [ho']
  rfl

/-- Whether ACCEPT names no node of the verified tree (R346). -/
def acceptBad (x : Stream) (acc : Nat) : Prop := if x.lastNodes.isEmpty then acc ≠ 0 else x.lastNodes.length ≤ acc

theorem acceptBad_iff (x : Stream) (acc : Nat) : acceptBad x acc ↔ (x.lastNodes = [] ∧ acc ≠ 0) ∨ (x.lastNodes ≠ [] ∧ x.lastNodes.length ≤ acc) := by
  unfold acceptBad
  cases x.lastNodes with
  | nil => simp
  | cons n l => simp

variable {tok act acc : Nat}

theorem handleSel_opened (h : (q.step + 1) % 2 ^ 32 = (streamAt s i).step) (ho : openSel s i q = some (tok, act, acc)) :
    handleSel i q s = if act = 0 ∧ vocab s (streamAt s i).model ≤ tok then discardSel i E.selTokenInvalid (selSeen i q s)
      else if (if (streamAt s i).lastNodes.isEmpty then acc ≠ 0 else (streamAt s i).lastNodes.length ≤ acc) then discardSel i E.selAcceptInvalid (selSeen i q s)
      else selectNow i tok act acc (selSeen i q s) := by
  have ho' : openSel (selSeen i q s) i q = some (tok, act, acc) := (openSel_updStream ..).trans ho
  refine (if_neg (not_not.2 h)).trans ?_
  show (match openSel (selSeen i q s) i q with | none => _ | some (token, action, accept) => _) = _
  rw [ho']
  rfl

theorem handleSel_token (h : (q.step + 1) % 2 ^ 32 = (streamAt s i).step) (ho : openSel s i q = some (tok, act, acc)) (hact : act = 0)
    (htok : vocab s (streamAt s i).model ≤ tok) : handleSel i q s = discardSel i E.selTokenInvalid (selSeen i q s) :=
  (handleSel_opened h ho).trans (if_pos ⟨hact, htok⟩)

theorem handleSel_accept (h : (q.step + 1) % 2 ^ 32 = (streamAt s i).step) (ho : openSel s i q = some (tok, act, acc))
    (htok : act = 0 → tok < vocab s (streamAt s i).model) (hacc : acceptBad (streamAt s i) acc) :
    handleSel i q s = discardSel i E.selAcceptInvalid (selSeen i q s) :=
  (handleSel_opened h ho).trans ((if_neg fun h => absurd (htok h.1) (Nat.not_lt.2 h.2)).trans (if_pos hacc))

theorem handleSel_valid (h : (q.step + 1) % 2 ^ 32 = (streamAt s i).step) (ho : openSel s i q = some (tok, act, acc))
    (htok : act = 0 → tok < vocab s (streamAt s i).model) (hacc : ¬ acceptBad (streamAt s i) acc) : handleSel i q s = selectNow i tok act acc (selSeen i q s) :=
  (handleSel_opened h ho).trans ((if_neg fun h => absurd (htok h.1) (Nat.not_lt.2 h.2)).trans (if_neg hacc))

/-- ACTION 1 ends the stream. -/
theorem selectNow_ends (hst : (streamAt s i).st = .waitSel) (hrun : (streamAt s i).run = none) :
    (streamAt (selectNow i tok 1 acc (selSeen i q s)) i).st = .free ∧
      ∃ e, ((selectNow i tok 1 acc (selSeen i q s)).serving.queue = s.serving.queue ++ [e] ∨
        (selectNow i tok 1 acc (selSeen i q s)).serving.late = s.serving.late ++ [e]) ∧ e.stream = i ∧ e.kind = 6 ∧ e.code = 0 ∧ e.ended = true := by
  have hact : selectNow i tok 1 acc (selSeen i q s) = freeStream i (notice i 0 true (selSeen i q s)) := by
    refine (if_pos rfl).trans (endWith_waiting 0 ?_ ?_)
    · rwa [streamAt_selSeen]
    · rwa [streamAt_selSeen]
  obtain ⟨x, hx, hfree, -⟩ := streamAt_freeStream_same i (notice i 0 true (selSeen i q s))
  rw [hact, queue_freeStream, late_freeStream, hx]
  exact ⟨hfree, _, queue_notice i 0 true (selSeen i q s), rfl, rfl, rfl, rfl⟩

/-- The limit of R315, in tokens. -/
theorem ctxLimit_selSeen (m : Nat) : ctxLimit (selSeen i q s) m = 64 * liveF s 0x1A (0x40 + 12 * m) 27 13 := rfl

theorem streamAt_selectPlain (tok : Nat) (t : State) : streamAt (selectPlain i tok t) i =
    { streamAt t i with tokens := (streamAt t i).tokens.take (streamAt t i).pos ++ [tok], token := tok, prevA := 0, prevPath := [] } := streamAt_updStream ..

theorem ctxLimit_selectPlain (tok m : Nat) (t : State) : ctxLimit (selectPlain i tok t) m = ctxLimit t m := rfl

theorem selectNow_plain (hnodes : (streamAt s i).lastNodes = []) :
    selectNow i tok 0 acc (selSeen i q s) =
      if ctxLimit (selectPlain i tok (selSeen i q s)) (streamAt (selectPlain i tok (selSeen i q s)) i).model ≤ (streamAt (selectPlain i tok (selSeen i q s)) i).pos
      then endWith i E.contextLimit (selectPlain i tok (selSeen i q s))
      else updStream i (fun x => { x with st := .scheduled, hold := .none, nextBeat := (selectPlain i tok (selSeen i q s)).beat.now + 1 }) (selectPlain i tok (selSeen i q s)) := by
  have hround : (!(streamAt (selSeen i q s) i).lastNodes.isEmpty) = false := by
    rw [streamAt_selSeen, hnodes]
    rfl
  unfold selectNow
  rw [if_neg (by decide), hround]
  rfl

/-- A plain step goes on with the token appended. -/
theorem selectNow_continues (hnodes : (streamAt s i).lastNodes = []) (hpos : (streamAt s i).pos < 64 * liveF s 0x1A (0x40 + 12 * (streamAt s i).model) 27 13) :
    streamAt (selectNow i tok 0 acc (selSeen i q s)) i = { streamAt s i with
      selSeq := q.seq, tokens := (streamAt s i).tokens.take (streamAt s i).pos ++ [tok], token := tok, prevA := 0, prevPath := [], st := .scheduled, hold := .none,
      nextBeat := s.beat.now + 1 } := by
  rw [selectNow_plain hnodes, if_neg, streamAt_updStream, streamAt_selectPlain, streamAt_selSeen]
  · rfl
  · rw [streamAt_selectPlain, ctxLimit_selectPlain, streamAt_selSeen, ctxLimit_selSeen]
    exact Nat.not_le.2 hpos

/-- At the context limit it ends. -/
theorem selectNow_limit (hnodes : (streamAt s i).lastNodes = []) (hpos : 64 * liveF s 0x1A (0x40 + 12 * (streamAt s i).model) 27 13 ≤ (streamAt s i).pos)
    (hst : (streamAt s i).st = .waitSel) (hrun : (streamAt s i).run = none) :
    (streamAt (selectNow i tok 0 acc (selSeen i q s)) i).st = .free ∧ (streamAt (selectNow i tok 0 acc (selSeen i q s)) i).lastCode = E.contextLimit := by
  have hact : selectNow i tok 0 acc (selSeen i q s) = freeStream i (notice i E.contextLimit true (selectPlain i tok (selSeen i q s))) := by
    rw [selectNow_plain hnodes, if_pos]
    · refine endWith_waiting E.contextLimit ?_ ?_
      · rwa [streamAt_selectPlain, streamAt_selSeen]
      · rwa [streamAt_selectPlain, streamAt_selSeen]
    · rw [streamAt_selectPlain, ctxLimit_selectPlain, streamAt_selSeen, ctxLimit_selSeen]
      exact hpos
  obtain ⟨x, hx, hfree, hcode, -⟩ := streamAt_freeStream_same i (notice i E.contextLimit true (selectPlain i tok (selSeen i q s)))
  rw [hact, hx]
  refine ⟨hfree, hcode.trans ?_⟩
  rw [streamAt_notice]

end

end Sys2Proof.Machine
end

section
/-! A selection of a verified round (R346, R348); polls, requests and selections together. -/

namespace Sys2Proof.Machine

open Sys2Proof

/-! ### The context limit beside the counters of page 0x001B -/

/-- A field that straddles the upper end of a 16-bit counter, by its two parts. -/
theorem bits_straddle (w : Word) : bits w 27 13 = 8 * bits w 27 16 + bits w 15 0 / 8192 := by
  simp only [bits]
  omega

/-- A counter in the low half of a register that rises does not lower the field that straddles it. -/
theorem straddle_countUp (p off k : Nat) (s : State) : liveF s p off 27 13 ≤ liveF (countUp p off 15 0 k s) p off 27 13 := by
  have hhigh : bits (live (countUp p off 15 0 k s) p off) 27 16 = bits (live s p off) 27 16 := liveF_countUp_outside s (by decide) (by decide) (by decide)
  have hlow : bits (live (countUp p off 15 0 k s) p off) 15 0 = Nat.min (2 ^ 16 - 1) (bits (live s p off) 15 0 + k) := liveF_countUp s (by decide) (by decide)
  have hlt : bits (live s p off) 15 0 < 2 ^ (15 - 0 + 1) := bits_lt ..
  have hle : bits (live s p off) 15 0 ≤ Nat.min (2 ^ 16 - 1) (bits (live s p off) 15 0 + k) := Nat.le_min.2 ⟨by omega, by omega⟩
  rw [liveF, liveF, bits_straddle, bits_straddle, hhigh, hlow]
  exact Nat.add_le_add_left (Nat.div_le_div_right hle) _

/-- The counters that a round raises lower no model's context limit. -/
theorem ctxLimit_counted (a h m : Nat) (s : State) : ctxLimit s m ≤ ctxLimit (countUp 0x1B 0x810 15 0 h (countUp 0x1B 0x80C 31 0 a s)) m := by
  have hset (off : Nat) (v : Word) (t : State) (hne : 4096 * 0x1B + off ≠ 4096 * pKv + (0x40 + 12 * m)) :
      live (setLive 0x1B off v t) pKv (0x40 + 12 * m) = live t pKv (0x40 + 12 * m) := live_setLive_ne _ _ hne
  have hfirst : live (countUp 0x1B 0x80C 31 0 a s) pKv (0x40 + 12 * m) = live s pKv (0x40 + 12 * m) :=
    hset _ _ _ (by rw [pKv]; omega)
  refine Nat.mul_le_mul_left 64 ?_
  by_cases hm : m = 508
  · subst hm
    have halias (t : State) : live t pKv (0x40 + 12 * 508) = live t 0x1B 0x810 := rfl
    rw [ctxBlocks, liveF, ← hfirst, halias, ← liveF, ctxBlocks, liveF.eq_def _ pKv, halias, ← liveF]
    exact straddle_countUp ..
  · have hsecond : live (countUp 0x1B 0x810 15 0 h (countUp 0x1B 0x80C 31 0 a s)) pKv (0x40 + 12 * m) = live s pKv (0x40 + 12 * m) :=
      (hset _ _ _ (by rw [pKv]; omega)).trans hfirst
    rw [ctxBlocks, ctxBlocks, liveF, liveF, hsecond]

/-! ### A round's selection (R346, R348) -/

theorem setBalance_kept (t v : Nat) (s : State) : (setBalance t v s).serving.streams = s.serving.streams ∧ (setBalance t v s).live = s.live ∧
    (setBalance t v s).beat = s.beat ∧ balance (setBalance t v s) t = if s.beat.mode = .lost then balance s t else v := by
  unfold setBalance
  split
  · exact ⟨rfl, rfl, rfl, rfl⟩
  · exact ⟨rfl, rfl, rfl, mget_mset_same ..⟩

/-- The state in which a round has been paid for and counted, before the stream itself moves on. -/
def roundPaid (i accept : Nat) (s : State) : State :=
  let x := streamAt s i
  let a := (x.lastNodes.getD accept ⟨0, 0, 0, 0⟩).depth
  countUp 0x1B 0x810 15 0 (sizeAfter s x a).2.2 (countUp 0x1B 0x80C 31 0 (a + 1)
    (setBalance x.tenant (Nat.min (fullBalance s x.tenant) (balance s x.tenant + 16 * (x.lastDepth - a))) s))

theorem roundPaid_kept (i accept : Nat) (s : State) : streamAt (roundPaid i accept s) i = streamAt s i ∧ (roundPaid i accept s).beat = s.beat ∧
    (∀ m, ctxLimit s m ≤ ctxLimit (roundPaid i accept s) m) ∧
    balance (roundPaid i accept s) (streamAt s i).tenant = if s.beat.mode = .lost then balance s (streamAt s i).tenant
      else Nat.min (fullBalance s (streamAt s i).tenant) (balance s (streamAt s i).tenant +
        16 * ((streamAt s i).lastDepth - ((streamAt s i).lastNodes.getD accept ⟨0, 0, 0, 0⟩).depth)) := by
  obtain ⟨hstreams, hlive, hbeat, hbal⟩ := setBalance_kept (streamAt s i).tenant (Nat.min (fullBalance s (streamAt s i).tenant) (balance s (streamAt s i).tenant +
    16 * ((streamAt s i).lastDepth - ((streamAt s i).lastNodes.getD accept ⟨0, 0, 0, 0⟩).depth))) s
  refine ⟨streamAt_congr hstreams i, hbeat, fun m => ?_, hbal⟩
  refine le_trans (le_of_eq ?_) (ctxLimit_counted _ _ m _)
  rw [ctxLimit, ctxLimit, ctxBlocks, ctxBlocks, liveF, liveF, live_congr hlive]

theorem selectRound_stream (i token accept : Nat) (s : State) :
    ∃ x : Stream, streamAt (selectRound i token accept s) i = x ∧ x.model = (streamAt s i).model ∧
      x.pos = (streamAt s i).pos + ((streamAt s i).lastNodes.getD accept ⟨0, 0, 0, 0⟩).depth + 1 ∧ x.token = token ∧
      x.prevA = ((streamAt s i).lastNodes.getD accept ⟨0, 0, 0, 0⟩).depth ∧ x.lastPos = (streamAt s i).pos := by
  have hstream := (roundPaid_kept i accept s).1
  refine ⟨_, streamAt_updStream i _ (roundPaid i accept s), ?_, rfl, rfl, rfl, rfl⟩
  exact (congrArg Stream.model hstream :)

theorem selectRound_kept (i token accept : Nat) (s : State) : (selectRound i token accept s).beat = s.beat ∧
    (∀ m, ctxLimit s m ≤ ctxLimit (selectRound i token accept s) m) ∧
    balance (selectRound i token accept s) (streamAt s i).tenant = if s.beat.mode = .lost then balance s (streamAt s i).tenant
      else Nat.min (fullBalance s (streamAt s i).tenant) (balance s (streamAt s i).tenant +
        16 * ((streamAt s i).lastDepth - ((streamAt s i).lastNodes.getD accept ⟨0, 0, 0, 0⟩).depth)) := (roundPaid_kept i accept s).2

section
variable {i tok acc : Nat} {q : SelEntry} {s : State} {n : Node}

theorem getD_of_getElem? {l : List Node} (h : l[acc]? = some n) (d : Node) : l.getD acc d = n := by
  rw [List.getD_eq_getElem?_getD, h]
  rfl

/-- An accepted round goes on from the position after the accepted nodes. -/
theorem selectNow_round (hn : (streamAt s i).lastNodes[acc]? = some n)
    (hpos : (streamAt s i).pos + n.depth + 1 < 64 * liveF s 0x1A (0x40 + 12 * (streamAt s i).model) 27 13) :
    let u := selectNow i tok 0 acc (selSeen i q s)
    let z := streamAt u i
    z.st = .scheduled ∧ z.pos = (streamAt s i).pos + n.depth + 1 ∧ z.token = tok ∧ z.prevA = n.depth ∧ z.lastPos = (streamAt s i).pos ∧
      z.nextBeat = s.beat.now + 1 ∧ balance u (streamAt s i).tenant = if s.beat.mode = .lost then balance s (streamAt s i).tenant
        else Nat.min (fullBalance s (streamAt s i).tenant) (balance s (streamAt s i).tenant + 16 * ((streamAt s i).lastDepth - n.depth)) := by
  intro u z
  let t := selSeen i q s
  have ht : streamAt t i = { streamAt s i with selSeq := q.seq } := streamAt_selSeen ..
  have hdepth : ((streamAt t i).lastNodes.getD acc ⟨0, 0, 0, 0⟩).depth = n.depth := by
    rw [ht]
    exact congrArg Node.depth (getD_of_getElem? hn _)
  have hround : (!(streamAt t i).lastNodes.isEmpty) = true := by
    rw [ht]
    cases hl : (streamAt s i).lastNodes with
    | nil =>
      rw [hl] at hn
      exact nomatch hn
    | cons => rfl
  let v := selectRound i tok acc t
  obtain ⟨x, hx, hmodel, hxpos, htok, hprev, hlast⟩ := selectRound_stream i tok acc t
  obtain ⟨hbeat, hlimit, hbal⟩ := selectRound_kept i tok acc t
  rw [hdepth] at hxpos hprev hbal
  rw [ht] at hxpos hmodel hlast hbal
  have hgoes : ¬ ctxLimit v (streamAt v i).model ≤ (streamAt v i).pos := by
    rw [show streamAt v i = x from hx, hxpos, hmodel]
    exact Nat.not_le.2 (lt_of_lt_of_le hpos (hlimit _))
  have hu : u = updStream i (fun x => { x with st := .scheduled, hold := .none, nextBeat := v.beat.now + 1 }) v := by
    unfold u selectNow
    rw [if_neg (by decide), hround]
    exact if_neg hgoes
  have hz : z = { x with st := .scheduled, hold := .none, nextBeat := v.beat.now + 1 } := by
    unfold z
    rw [hu, streamAt_updStream, ← hx]
  rw [hz]
  refine ⟨rfl, hxpos, htok, hprev, hlast, ?_, ?_⟩
  · exact congrArg (fun b : BeatUnit => b.now + 1) hbeat
  · rw [hu]
    exact hbal

end

/-! ### What handling the work leaves (R287) -/

theorem cons_settleSel (it : PollItem) (s : State) : (settleSel it s).2.serving.cons = s.serving.cons := by
  have hdone (it : PollItem) (s : State) : (itemDone it s).serving.cons = s.serving.cons := by
    unfold itemDone
    split <;> rfl
  unfold settleSel
  split
  · exact hdone ..
  · split
    · rfl
    · exact hdone ..
    · exact hdone ..
    · exact hdone ..
    · exact hdone ..

theorem cons_settleItem (it : PollItem) (s : State) : (settleItem it s).2.serving.cons = s.serving.cons := by
  unfold settleItem
  split
  · exact cons_settleSel ..
  · dsimp only
    split
    · exact cons_settleSel ..
    · split
      · exact cons_settleSel ..
      · split
        · exact cons_settleSel ..
        · rfl

theorem cons_settleList (l : List PollItem) (s : State) : (settleList l s).2.serving.cons = s.serving.cons := by
  induction l generalizing s with
  | nil => rfl
  | cons it l ih =>
    have hitem := cons_settleItem it s
    unfold settleList
    split
    · next h => rwa [h] at hitem
    · next h =>
      rw [h] at hitem
      exact (ih _).trans hitem

theorem cons_settleWork (l : List PollItem) (s : State) : (settleWork l s).serving.cons = s.serving.cons := cons_settleList l s

theorem serving_readLines {mem : HostMem} {i sum : Nat} {s w : State} {c c' : Bool} {it : PollItem}
    (h : readLines mem i sum s = if (c || c') = true then (none, countTorn c' (countTorn c w)) else (some it, w)) : (readLines mem i sum s).2.serving = w.serving := by
  rw [h]
  split
  · rw [serving_countTorn, serving_countTorn]
  · rfl

/-! ### Polls, requests and selections together -/

theorem selection_front {s : State} {it : PollItem} {q : SelEntry} {l : List PollItem} (hw : s.serving.work = it :: l) (hr : it.req = none) (hq : it.sel = some q) :
    selection s = settleWork ({ it with sel := none } :: l) (handleSel it.stream q s) := by
  unfold selection
  rw [hw]
  dsimp only
  rw [hr, hq]

/-- Settles O32, the poll by what it reads, each request and selection by what it leaves before the work goes on. -/
theorem pollRequestsAndSelections : Obligations.PollRequestsAndSelections := by
  unfold Obligations.PollRequestsAndSelections
  intro s host x v answered
  have hpart {r : Except Code (List Byte)} {u : State} (hr : readHost 1 (srvAddr v 0) 4160 host v = (r, u)) : u.serving = { s.serving with polling := false } :=
    serving_of_part (serving_of_read hr)
  refine ⟨fun h => ⟨_, congrArg Host.Outcome.next (hostPoll_idle h), rfl⟩, fun c u h hr => ⟨_, congrArg Host.Outcome.next (hostPoll_error h hr), rfl, hpart hr, errValid_readHost hr⟩,
    ?unchanged, ?changed, ?idle, ?reqEnd, ?rebind, ?selection⟩
  case unchanged =>
    intro l u h hr hsame
    have hstreams : (consRead l u).serving.streams = s.serving.streams := (congrArg Serving.streams (hpart hr) :)
    have hnone : changedOf l (consRead l u) = [] :=
      changedOf_none fun i hi => (hsame i hi).trans (congrArg Stream.sumSeen (streamAt_congr hstreams i)).symm
    have hact : hostPoll host s = settleWork [] (consRead l u) := by
      rw [hostPoll_read h hr, hnone]
      cases liveF (consRead l u) pSrv 0x40 12 0 <;> rfl
    exact ⟨_, congrArg Host.Outcome.next hact, congrArg (fun p : Serving => { p with cons := le l 0x1000 8, work := [] }) (hpart hr)⟩
  case changed =>
    intro l u i a b w1 w2 h hr hi hne hothers hmax w ha hb
    have hstreams : (consRead l u).serving.streams = s.serving.streams := (congrArg Serving.streams (hpart hr) :)
    have hstream (j : Nat) : streamAt (consRead l u) j = x j := streamAt_congr hstreams j
    have hone : changedOf l (consRead l u) = [(i, le l i 1)] :=
      changedOf_one hi (by rw [hstream]; exact hne) fun j hj hji => (hothers j hj hji).trans (congrArg Stream.sumSeen (hstream j)).symm
    have hw2 : w2.serving = { s.serving with polling := false, cons := le l 0x1000 8 } :=
      ((serving_of_part (serving_of_read hb)).trans (serving_of_part (serving_of_read ha))).trans (congrArg (fun p : Serving => { p with cons := le l 0x1000 8 }) (hpart hr))
    have hstreams2 : w2.serving.streams = s.serving.streams := (congrArg Serving.streams hw2 :)
    have hx2 : streamAt w2 i = x i := streamAt_congr hstreams2 i
    have hact : hostPoll host s = settleWork (readLines host i (le l i 1) (consRead l u)).1.toList (readLines host i (le l i 1) (consRead l u)).2 := by
      rw [hostPoll_read h hr, hone, readChanged_one (by exact hmax)]
    have hlines := readLines_read (sum := le l i 1) (s := consRead l u) ha hb
    refine ⟨_, congrArg Host.Outcome.next hact, ?_, fun htorn => ?_, fun ha0 hb0 hseq h1 h4 hroom => ?_⟩
    · rw [cons_settleWork, serving_readLines hlines, hw2]
    · have hnone : readLines host i (le l i 1) (consRead l u) = (none, countTorn (selOf b).1 (countTorn (reqOf a).1 w2)) := hlines.trans (if_pos (by
        rw [Bool.or_eq_true]
        exact htorn.imp (bne_iff_ne.2 ·) (bne_iff_ne.2 ·)))
      rw [hnone]
      refine ⟨rfl, ?_⟩
      show (countTorn _ (countTorn _ w2)).serving.streams = _
      rw [serving_countTorn, serving_countTorn, hstreams2]
    · have hwhole : ((reqOf a).1 || (selOf b).1) = false := by
        rw [Bool.or_eq_false_iff]
        exact ⟨bne_eq_false_iff_eq.2 ha0, bne_eq_false_iff_eq.2 hb0⟩
      have hsome := hlines.trans (if_neg (by rw [hwhole]; decide))
      rw [hx2, if_pos (by exact hseq)] at hsome
      rw [hsome]
      rw [show (Option.toList (some _) : List PollItem) = [_] from rfl, settleWork_request rfl h1 h4 hroom]
      exact ⟨hstreams2, _, rfl, rfl, rfl, rfl⟩
  case idle =>
    intro i hi hw
    simp only [List.mem_cons, List.not_mem_nil, or_false] at hi
    rcases hi with rfl | rfl | rfl
    · refine ⟨_, congrArg Host.Outcome.next (?_ : endRequest s = s), rfl⟩
      rw [endRequest, frontReq_none _ hw]
    · refine ⟨_, congrArg Host.Outcome.next (?_ : rebindReq s = s), rfl⟩
      rw [rebindReq, frontReq_none _ hw]
    · refine ⟨_, congrArg Host.Outcome.next (?_ : selection s = s), rfl⟩
      rw [selection, hw]
  case reqEnd =>
    intro it r l h
    exact ⟨_, _, rfl, endRequest_front h, endState_unclean, endState_free, endState_idle, endState_running⟩
  case rebind =>
    intro it r l h
    refine ⟨_, _, rfl, rebindReq_front h, fun hclean hst => ?_, fun hclean hfree hending => ?_⟩
    · rw [rebindState, if_neg (by rw [hclean]; decide), if_pos hst]
      exact answered_requestState ..
    · rw [rebindState, if_neg (by rw [hclean]; decide), if_neg (not_or.2 ⟨hfree, hending⟩)]
      obtain ⟨hcode, hseq, hqueue⟩ := answered_requestState it.stream r 0 false (updStream it.stream (fun x => { x with
        rebind := some (if r.adapter / 2 ^ 15 = 1 then some (r.adapter % 1024) else none) }) s)
      refine ⟨⟨hcode, hseq, hqueue⟩, ?_, ?_, ?_⟩
      all_goals rw [streamAt_requestState, streamAt_updStream]
  case selection =>
    intro it q l hw hr hq
    refine ⟨_, _, rfl, selection_front hw hr hq, ?_⟩
    intro y z kept limit
    refine ⟨fun h => ?_, fun h => ⟨fun ho => ?_, fun tok act acc ho => ⟨fun hact htok => ?_, fun htok hacc => ?_, fun hact hacc hst hrun => ?_,
      fun hact htok hnodes hacc hpos => ?_, fun n hact htok hn hpos => ?_, fun hact htok hnodes hacc hpos hst hrun => ?_⟩⟩⟩
    · exact (congrArg (streamAt · it.stream) (handleSel_stale h)).trans (streamAt_discarded ..)
    · exact (congrArg (streamAt · it.stream) (handleSel_unopened h ho)).trans (streamAt_discarded ..)
    · exact (congrArg (streamAt · it.stream) (handleSel_token h ho hact htok)).trans (streamAt_discarded ..)
    · exact (congrArg (streamAt · it.stream) (handleSel_accept h ho htok ((acceptBad_iff y acc).2 hacc))).trans (streamAt_discarded ..)
    · have hgood : ¬ acceptBad y acc := by
        rw [acceptBad_iff]
        rcases hacc with ⟨hnil, hzero⟩ | hlt
        · simp [hnil, hzero]
        · rintro (⟨hnil, -⟩ | ⟨-, hle⟩)
          · rw [hnil] at hlt
            exact absurd hlt (Nat.not_lt_zero _)
          · omega
      have hnow := handleSel_valid h ho (fun h0 => absurd (h0.symm.trans hact) (by decide)) hgood
      simp only [z, hnow, hact]
      exact selectNow_ends hst hrun
    · have hgood : ¬ acceptBad y acc := by
        rw [acceptBad_iff]
        simp [hnodes, hacc]
      have hnow := handleSel_valid h ho (fun _ => htok) hgood
      simp only [z, hnow, hact]
      exact selectNow_continues hnodes hpos
    · have hlt : acc < y.lastNodes.length := (List.getElem?_eq_some_iff.1 hn).1
      have hgood : ¬ acceptBad y acc := by
        rw [acceptBad_iff]
        rintro (⟨hnil, -⟩ | ⟨-, hle⟩)
        · rw [hnil] at hlt
          exact absurd hlt (Nat.not_lt_zero _)
        · omega
      have hnow := handleSel_valid h ho (fun _ => htok) hgood
      simp only [z, hnow, hact]
      exact selectNow_round hn hpos
    · have hgood : ¬ acceptBad y acc := by
        rw [acceptBad_iff]
        simp [hnodes, hacc]
      have hnow := handleSel_valid h ho (fun _ => htok) hgood
      simp only [z, hnow, hact]
      exact selectNow_limit hnodes hpos hst hrun

end Sys2Proof.Machine
end

section
/-! ADMIT and PREFILL: prompts, lookup, adoption and reservation (R290, R291, R319, R320, R330, R337, R416, R419). -/

namespace Sys2Proof.Machine

open Sys2Proof

/-! ### What lookup and reservation leave (R319, R330) -/

theorem servingPart_writeMap (m i k : Nat) (f : Frame) (s : State) : servingPart (writeMap m i k f s) = servingPart s := by
  have hunits (key : StoreKey) (a : Nat) (l : List Byte) : servingPart (writeStack key [] a l s) = servingPart s :=
    foldl_same (g := servingPart) (f := fun s (q : Nat × Nat) => writeUnit key [] (a + q.1) ((l.drop q.1).take q.2) s) (fun _ _ => rfl) ..
  unfold writeMap stackWrite
  dsimp only
  split
  · rfl
  · split
    · rfl
    · rw [stackPut_clean]
      exact hunits ..

/-- A stream gains frames: its own entry changes in what it holds, and nothing else of the streams, sessions or the beat that is read here. -/
structure Holds (i : Nat) (s t : State) : Prop where
  stream : ∃ kv dkv, streamAt t i = { streamAt s i with kv := kv, dkv := dkv }
  queue : t.serving.queue = s.serving.queue
  sessions : t.sec = s.sec
  beat : t.beat = s.beat

namespace Holds

theorem refl (i : Nat) (s : State) : Holds i s s := ⟨⟨_, _, rfl⟩, rfl, rfl, rfl⟩

theorem trans {i : Nat} {s t u : State} (h : Holds i s t) (h' : Holds i t u) : Holds i s u := by
  obtain ⟨kv, dkv, hstream⟩ := h.stream
  obtain ⟨kv', dkv', hstream'⟩ := h'.stream
  exact ⟨⟨kv', dkv', by rw [hstream', hstream]⟩, h'.queue.trans h.queue, h'.sessions.trans h.sessions, h'.beat.trans h.beat⟩

theorem of_part {i : Nat} {s t : State} (h : servingPart t = servingPart s) : Holds i s t := by
  have hserving := serving_of_part h
  refine ⟨⟨_, _, streamAt_congr (congrArg Serving.streams hserving) i⟩, congrArg Serving.queue hserving, ?_, ?_⟩
  · exact congrArg (fun q => q.2.1) h
  · exact congrArg (fun q => q.2.2) h

theorem ofSetKv (i : Nat) (draft : Bool) (k : StreamKv) (s : State) : Holds i s (updStream i (setKv draft k) s) := by
  refine ⟨?_, rfl, rfl, rfl⟩
  rw [streamAt_updStream]
  cases draft
  · exact ⟨_, _, rfl⟩
  · exact ⟨_, _, rfl⟩

theorem ofSetPx (i e : Nat) (x : Option PxEntry) (s : State) : Holds i s (setPx e x s) := ⟨⟨_, _, rfl⟩, rfl, rfl, rfl⟩
theorem ofUpdModel (i m : Nat) (f : Model → Model) (s : State) : Holds i s (updModel m f s) := ⟨⟨_, _, rfl⟩, rfl, rfl, rfl⟩
theorem ofCountUp (i p off hi lo k : Nat) (s : State) : Holds i s (countUp p off hi lo k s) := ⟨⟨_, _, rfl⟩, rfl, rfl, rfl⟩

theorem ofAdoptOne (i m : Nat) (draft : Bool) (b : Beat) (s : State) (e : Nat) : Holds i s (adoptOne i m draft b s e) := by
  unfold adoptOne
  split
  · exact refl i s
  · exact ((ofSetPx ..).trans (ofSetKv ..)).trans (of_part (servingPart_writeMap ..))

theorem foldl {α : Type} {i : Nat} {f : State → α → State} (hf : ∀ s x, Holds i s (f s x)) (l : List α) (s : State) : Holds i s (l.foldl f s) := by
  induction l generalizing s with
  | nil => exact refl i s
  | cons x l ih => exact (hf s x).trans (ih _)

theorem ofAdopt (i m : Nat) (draft : Bool) (b : Beat) (es : List Nat) (s : State) : Holds i s (adopt i m draft b es s) := foldl (fun s e => ofAdoptOne i m draft b s e) es s

theorem ofReserve {i m n : Nat} {draft : Bool} {s t : State} (h : reserve i m draft n s = some t) : Holds i s t := by
  unfold reserve at h
  split at h
  · obtain rfl := Option.some.inj h
    have hset : Holds i s (updStream i (fun x => setKv draft { kvOf x draft with resv := n } x) s) := ofSetKv i draft { kvOf (streamAt s i) draft with resv := n } s
    exact hset.trans (ofUpdModel ..)
  · exact nomatch h

end Holds

/-- After the lookup a stream begins at the end of its adopted blocks, with the frames it holds and reserves. -/
theorem lookupReserve_spec {i blocks : Nat} {s t : State} (h : lookupReserve i blocks s = some t) :
    (∃ kv dkv a, streamAt t i = { streamAt s i with kv := kv, dkv := dkv, pos := 64 * a }) ∧ t.serving.queue = s.serving.queue ∧ t.sec = s.sec := by
  unfold lookupReserve at h
  extract_lets x b q dq es ds a spec s₁ s₂ s₃ s₄ at h
  have hstopped : Holds i s s₁ := by
    unfold s₁
    split
    · exact Holds.ofCountUp ..
    · exact Holds.refl ..
  have hown : Holds i s₁ s₂ := (Holds.ofAdopt ..).trans (Holds.ofCountUp ..)
  have hdraft : Holds i s₂ s₃ := by
    unfold s₃
    split
    · exact (Holds.ofAdopt ..).trans (Holds.ofCountUp ..)
    · exact Holds.refl ..
  obtain ⟨⟨kv, dkv, hstream⟩, hqueue, hsec, -⟩ := (hstopped.trans hown).trans hdraft
  have hplaced : ∃ kv dkv, streamAt s₄ i = { streamAt s i with kv := kv, dkv := dkv, pos := 64 * a } :=
    ⟨_, _, (streamAt_updStream ..).trans (by rw [hstream])⟩
  have hplacedRest : s₄.serving.queue = s₃.serving.queue ∧ s₄.sec = s₃.sec := ⟨rfl, rfl⟩
  clear_value s₁ s₂ s₃ s₄
  have hheld : Holds i s₄ t := by
    split at h
    · exact nomatch h
    · next w hw =>
      split at h
      · exact (Holds.ofReserve hw).trans (Holds.ofReserve h)
      · exact Option.some.inj h ▸ Holds.ofReserve hw
  obtain ⟨⟨kv', dkv', hstream'⟩, hqueue', hsec', -⟩ := hheld
  obtain ⟨kv'', dkv'', hplaced⟩ := hplaced
  exact ⟨⟨kv', dkv', a, by rw [hstream', hplaced]⟩, hqueue'.trans (hplacedRest.1.trans hqueue), hsec'.trans (hplacedRest.2.trans hsec)⟩

/-! ### Prompts (R419) -/

theorem servingPart_openPrompt {i : Nat} {r : ReqEntry} {key : List Byte} {mem : HostMem} {s v : State} {o : Except Code (List Nat)}
    (h : openPrompt i r key mem s = (o, v)) : servingPart v = servingPart s := by
  have hread := servingPart_readHost 5 r.prompt.toNat (32 + 4 * r.promptLen) mem s
  unfold openPrompt at h
  split at h
  · next heq =>
    obtain ⟨-, rfl⟩ := Prod.mk.inj h
    rwa [heq] at hread
  · next heq =>
    rw [heq] at hread
    dsimp only at h
    split at h
    · obtain ⟨-, rfl⟩ := Prod.mk.inj h
      exact hread
    · obtain ⟨-, rfl⟩ := Prod.mk.inj h
      exact hread

/-! ### Answers (R289) -/

/-- A request answered with a code that leaves the stream as it was. -/
def KeptWith (s u : State) (i seq : Nat) (c : Code) : Prop := Answered s u i c seq false ∧ streamAt u i = { streamAt s i with reqSeq := seq, lastCode := c }

theorem keptWith_requestState {s v : State} (h : servingPart v = servingPart s) (i : Nat) (r : ReqEntry) (c : Code) :
    KeptWith s (requestState i r c false v) i r.seq c := by
  have hserving := serving_of_part h
  have hstream : streamAt v i = streamAt s i := streamAt_congr (congrArg Serving.streams hserving) i
  obtain ⟨hcode, hseq, e, hqueue, he⟩ := answered_requestState i r c false v
  refine ⟨⟨hcode, hseq, e, hqueue.trans (congrArg (· ++ [e]) (congrArg Serving.queue hserving)), he⟩, ?_⟩
  rw [streamAt_requestState, hstream]

theorem answered_of_queue {s w : State} (h : w.serving.queue = s.serving.queue) (i : Nat) (r : ReqEntry) (c : Code) :
    Answered s (requestState i r c false w) i c r.seq false := by
  obtain ⟨hcode, hseq, e, hqueue, he⟩ := answered_requestState i r c false w
  exact ⟨hcode, hseq, e, hqueue.trans (congrArg (· ++ [e]) h), he⟩

/-- What a request that asks for a prompt leaves before the work goes on: the first failing check, the prompt, the frames. -/
def promptState (i : Nat) (r : ReqEntry) (check : Option Code) (opened : Except Code (List Nat) × State) (take : List Nat → State → Option State)
    (s : State) : State :=
  match check with
  | some c => requestState i r c false s
  | none => match opened with
    | (.error c, v) => requestState i r c false v
    | (.ok tokens, v) => match take tokens v with
      | some w => requestState i r 0 false w
      | none => requestState i r E.kvExhausted false v

section
variable {i : Nat} {r : ReqEntry} {opened : Except Code (List Nat) × State} {take : List Nat → State → Option State} {s v w : State} {c : Code} {l : List Nat}

theorem promptState_check {check : Option Code} (h : check = some c) : KeptWith s (promptState i r check opened take s) i r.seq c := by
  rw [h]
  exact keptWith_requestState rfl i r c

theorem promptState_error {check : Option Code} (h : check = none) (ho : opened = (.error c, v)) (hv : servingPart v = servingPart s) :
    KeptWith s (promptState i r check opened take s) i r.seq c := by
  rw [h, ho]
  exact keptWith_requestState hv i r c

theorem promptState_full {check : Option Code} (h : check = none) (ho : opened = (.ok l, v)) (hv : servingPart v = servingPart s) (ht : take l v = none) :
    KeptWith s (promptState i r check opened take s) i r.seq E.kvExhausted := by
  have hact : promptState i r check opened take s = requestState i r E.kvExhausted false v := by
    rw [h, ho]
    unfold promptState
    dsimp only
    rw [ht]
  rw [hact]
  exact keptWith_requestState hv i r E.kvExhausted

theorem promptState_taken {check : Option Code} (h : check = none) (ho : opened = (.ok l, v)) (ht : take l v = some w) :
    promptState i r check opened take s = requestState i r 0 false w := by
  rw [h, ho]
  unfold promptState
  dsimp only
  rw [ht]

end

/-! ### ADMIT (R290) -/

theorem admitReq_front {mem : HostMem} {blocks : Nat} {s : State} {it : PollItem} {r : ReqEntry} {l : List PollItem} (h : frontReq s 1 = some (it, r, l)) :
    admitReq mem blocks s = settleWork ({ it with req := none } :: l)
      (promptState it.stream r (admitChecks s it.stream r) (openPrompt it.stream r (keysOf s r.session).1 mem s) (fun tokens v => admitTokens it.stream r tokens blocks v) s) := by
  unfold admitReq
  rw [h]
  dsimp only
  cases hcheck : admitChecks s it.stream r with
  | some c => rfl
  | none =>
    cases hopen : openPrompt it.stream r (keysOf s r.session).1 mem s with
    | mk o v =>
      cases o with
      | error c => rfl
      | ok tokens => 
        unfold promptState
        dsimp only
        cases admitTokens it.stream r tokens blocks v with
        | none => rfl
        | some w => rfl

theorem admitChecks_unclean {s : State} {i : Nat} {r : ReqEntry} (h : r.clean = false ∨ r.promptLen = 0) : admitChecks s i r = some E.reqInvalid := by
  have hbad : (!r.clean || r.promptLen == 0) = true := by
    rcases h with h | h <;> simp [h]
  unfold admitChecks
  dsimp only
  rw [hbad]
  rfl

section
variable {s : State} {i : Nat} {r : ReqEntry} (hclean : r.clean = true) (hlen : r.promptLen ≠ 0)
include hclean hlen

theorem request_whole : (!r.clean || r.promptLen == 0) = false := by
  rw [hclean, beq_eq_false_iff_ne.2 hlen]
  rfl

theorem admitChecks_busy (hst : (streamAt s i).st ≠ .free) : admitChecks s i r = some E.streamBusy := by
  have hbusy : ((streamAt s i).st != .free) = true := bne_iff_ne.2 hst
  unfold admitChecks
  dsimp only
  rw [request_whole hclean hlen, hbusy]
  rfl

theorem admitChecks_topk (hst : (streamAt s i).st = .free) {c : Code} (hk : topkReqCheck r.topk = some c) : admitChecks s i r = some c := by
  have hfree : ((streamAt s i).st != .free) = false := bne_eq_false_iff_eq.2 hst
  unfold admitChecks
  dsimp only
  rw [request_whole hclean hlen, hfree, hk]
  rfl

end

theorem topkReqCheck_ones : topkReqCheck 0xFFFF = some E.reservedValue := rfl

theorem topkReqCheck_over {k : Nat} (h : 1024 < k) (hne : k ≠ 0xFFFF) : topkReqCheck k = some E.countOverrun := by
  unfold topkReqCheck
  rw [beq_eq_false_iff_ne.2 hne, decide_eq_true h]
  rfl

theorem topkReqCheck_within {k : Nat} (h : k ≤ 1024) : topkReqCheck k = none := by
  unfold topkReqCheck
  rw [beq_eq_false_iff_ne.2 (by omega), decide_eq_false (by omega)]
  rfl

/-- An admitted stream: what its request names, its prompt's tokens, and the session bound to it. -/
theorem admitTokens_spec {i : Nat} {r : ReqEntry} {l : List Nat} {blocks : Nat} {v w : State} (h : admitTokens i r l blocks v = some w) :
    (∃ kv dkv a, streamAt w i = { admitted v (streamAt v i) r l with kv := kv, dkv := dkv, pos := 64 * a }) ∧ w.serving.queue = v.serving.queue ∧
      (sessionAt w r.session).st = .bound ∧ (sessionAt w r.session).stream = i := by
  let x := admitted v (streamAt v i) r l
  let t := setStream i x (setSession r.session { sessionAt v r.session with st := .bound, stream := i } v)
  let u := match x.ad with
    | some a => adapterRef a.1 true t
    | none => t
  have hu : u.serving = t.serving ∧ u.sec = t.sec := by
    unfold u
    split
    · exact ⟨rfl, rfl⟩
    · exact ⟨rfl, rfl⟩
  have hlookup : lookupReserve i blocks u = some w := h
  obtain ⟨⟨kv, dkv, a, hstream⟩, hqueue, hsec⟩ := lookupReserve_spec hlookup
  have hx : streamAt u i = x := (streamAt_congr (congrArg Serving.streams hu.1) i).trans (streamAt_setStream_same ..)
  have hsession : sessionAt w r.session = { sessionAt v r.session with st := .bound, stream := i } := by
    rw [sessionAt, hsec, hu.2]
    exact sessionAt_setSession_same r.session { sessionAt v r.session with st := .bound, stream := i } v
  rw [hsession]
  exact ⟨⟨kv, dkv, a, by rw [hstream, hx]⟩, hqueue.trans ((congrArg Serving.queue hu.1).trans rfl), rfl, rfl⟩

/-! ### PREFILL (R291, R320) -/

/-- The first failing check of a PREFILL. -/
def prefillCheck (s : State) (i : Nat) (r : ReqEntry) : Option Code :=
  (firstFail [(!r.clean || r.promptLen == 0, E.reqInvalid), ((streamAt s i).st != .needPrefill, E.streamState)]).orElse fun _ =>
    (topkReqCheck r.topk).orElse fun _ => promptLenCheck s (streamAt s i).model r.promptLen

theorem prefillReq_front {mem : HostMem} {blocks : Nat} {s : State} {it : PollItem} {r : ReqEntry} {l : List PollItem} (h : frontReq s 4 = some (it, r, l)) :
    prefillReq mem blocks s = settleWork ({ it with req := none } :: l)
      (promptState it.stream r (prefillCheck s it.stream r) (openPrompt it.stream r (keysOf s (streamAt s it.stream).session).1 mem s)
        (fun tokens v => prefillTokens it.stream r tokens blocks v) s) := by
  unfold prefillReq
  rw [h]
  dsimp only
  rw [← prefillCheck]
  cases hcheck : prefillCheck s it.stream r with
  | some c => rfl
  | none =>
    cases hopen : openPrompt it.stream r (keysOf s (streamAt s it.stream).session).1 mem s with
    | mk o v =>
      cases o with
      | error c => rfl
      | ok tokens =>
        unfold promptState
        dsimp only
        cases prefillTokens it.stream r tokens blocks v with
        | none => rfl
        | some w => rfl

theorem prefillCheck_unclean {s : State} {i : Nat} {r : ReqEntry} (h : r.clean = false ∨ r.promptLen = 0) : prefillCheck s i r = some E.reqInvalid := by
  have hbad : (!r.clean || r.promptLen == 0) = true := by
    rcases h with h | h <;> simp [h]
  unfold prefillCheck
  rw [hbad]
  rfl

section
variable {s : State} {i : Nat} {r : ReqEntry} (hclean : r.clean = true) (hlen : r.promptLen ≠ 0)
include hclean hlen

theorem prefillCheck_state (hst : (streamAt s i).st ≠ .needPrefill) : prefillCheck s i r = some E.streamState := by
  unfold prefillCheck
  rw [request_whole hclean hlen, bne_iff_ne.2 hst]
  rfl

theorem prefillCheck_needed (hst : (streamAt s i).st = .needPrefill) :
    prefillCheck s i r = (topkReqCheck r.topk).orElse fun _ => promptLenCheck s (streamAt s i).model r.promptLen := by
  unfold prefillCheck
  rw [request_whole hclean hlen, bne_eq_false_iff_eq.2 hst]
  rfl

end

/-- What a stream held is released: its own entry alone among the streams changes. -/
theorem holds_releaseKv (i m : Nat) (draft : Bool) (s : State) : Holds i s (releaseKv i m draft s) := by
  have hframe (m : Nat) (stack : Bool) (k : Nat) (t : State) : Holds i t (freeFrame m stack k t) := Holds.ofUpdModel ..
  have hrelease (e : Nat) (t : State) : Holds i t (pxRelease e t) := by
    unfold pxRelease
    split
    · split
      · exact (Holds.ofSetPx ..).trans (hframe ..)
      · exact Holds.ofSetPx ..
    · exact Holds.refl ..
  unfold releaseKv
  extract_lets k s₁ s₂ s₃
  have hblocks : Holds i s s₁ := by
    refine Holds.foldl (fun t e => ?_) k.blocks s
    split
    · exact Holds.refl ..
    · exact hframe ..
  have hcand : Holds i s₁ s₂ := by
    unfold s₂
    split
    · exact hframe ..
    · exact Holds.refl ..
  have hentries : Holds i s₂ s₃ := Holds.foldl (fun t e => hrelease e t) k.entries s₂
  clear_value s₁ s₂ s₃
  exact ((hblocks.trans hcand).trans hentries).trans ((Holds.ofUpdModel ..).trans (Holds.ofSetKv ..))

/-- A stream that is to be prefilled anew. -/
theorem prefillTokens_spec {i : Nat} {r : ReqEntry} {l : List Nat} {blocks : Nat} {v w : State} (h : prefillTokens i r l blocks v = some w) :
    (∃ x : Stream, streamAt w i = x ∧ x.st = .scheduled ∧ x.tokens = l ∧ x.promptEnd = r.promptLen ∧ x.first = true ∧ x.nextBeat = v.beat.now + 1 ∧
      x.model = (streamAt v i).model) ∧ w.serving.queue = v.serving.queue := by
  let x := streamAt v i
  let t := releaseKv i x.model false v
  let u := if x.spec then releaseKv i (draftOf t x.model) true t else t
  have hu : Holds i v u := by
    refine (holds_releaseKv i x.model false v).trans ?_
    unfold u
    split
    · exact holds_releaseKv ..
    · exact Holds.refl ..
  obtain ⟨⟨kv, dkv, hstream⟩, hqueue, -, hbeat⟩ := hu
  have hlookup : lookupReserve i blocks (updStream i (fun x => { x with
    st := .scheduled, pos := 0, promptEnd := r.promptLen, prompt := r.prompt, nextBeat := u.beat.now + 1, hold := .none, first := true,
    tokens := l, paid := [], prevA := 0, prevPath := [], lastNodes := [], lastPos := 0, probe := false }) u) = some w := h
  obtain ⟨⟨kv', dkv', a, hstream'⟩, hqueue', -⟩ := lookupReserve_spec hlookup
  refine ⟨⟨_, hstream', ?_⟩, hqueue'.trans hqueue⟩
  rw [streamAt_updStream, hstream, hbeat]
  exact ⟨rfl, rfl, rfl, rfl, rfl, rfl⟩

/-- Settles O33, both requests through the one pattern of check, prompt and frames. -/
theorem admitAndPrefillSetStreams : Obligations.AdmitAndPrefillSetStreams := by
  unfold Obligations.AdmitAndPrefillSetStreams
  intro s host blocks x answered kept rest
  refine ⟨fun i hi hw => ?_, fun it r l h => ⟨_, _, rfl, admitReq_front h, fun hbad => promptState_check (admitChecks_unclean hbad),
      fun hclean hlen hst => promptState_check (admitChecks_busy hclean hlen hst), fun hclean hlen hst hk => ?_, fun hclean hlen hst hk hne => ?_,
      fun c hc => promptState_check hc, fun hnone o v ho => ⟨fun c hc => ?_, fun tokens hok hfull => ?_, fun tokens w hok htaken => ?_⟩⟩,
    fun it r l h => ⟨_, _, rfl, prefillReq_front h, fun hbad => promptState_check (prefillCheck_unclean hbad),
      fun hclean hlen hst => promptState_check (prefillCheck_state hclean hlen hst), fun hclean hlen hst hk => ?_, fun hclean hlen hst hk hne => ?_,
      fun hclean hlen hst hk hones => ?_, fun hclean hlen hst hk hones hmodel hctx o v ho => ⟨fun c hc => ?_, fun tokens w hok htaken => ?_⟩⟩⟩
  · simp only [List.mem_cons, List.not_mem_nil, or_false] at hi
    rcases hi with rfl | rfl
    · refine ⟨_, congrArg Host.Outcome.next (?_ : admitReq host blocks s = s), rfl⟩
      rw [admitReq, frontReq_none _ hw]
    · refine ⟨_, congrArg Host.Outcome.next (?_ : prefillReq host blocks s = s), rfl⟩
      rw [prefillReq, frontReq_none _ hw]
  · exact promptState_check (admitChecks_topk hclean hlen hst (hk ▸ topkReqCheck_ones))
  · exact promptState_check (admitChecks_topk hclean hlen hst (topkReqCheck_over hk hne))
  · exact promptState_error hnone (hc ▸ ho) (servingPart_openPrompt ho)
  · exact promptState_full hnone (hok ▸ ho) (servingPart_openPrompt ho) hfull
  · have hpart := servingPart_openPrompt ho
    obtain ⟨⟨kv, dkv, a, hstream⟩, hqueue, hbound, hof⟩ := admitTokens_spec htaken
    have hq : w.serving.queue = s.serving.queue := hqueue.trans (congrArg Serving.queue (serving_of_part hpart))
    rw [promptState_taken hnone (hok ▸ ho) htaken, streamAt_requestState, hstream]
    refine ⟨answered_of_queue hq .., rfl, rfl, rfl, rfl, rfl, rfl, rfl, rfl, ?_, ?_, hbound, hof⟩
    · exact congrArg (fun q => q.2.2.now + 1) hpart
    · exact Nat.mul_mod_right 64 a
  · refine promptState_check ?_
    rw [prefillCheck_needed hclean hlen hst, hk]
    rfl
  · refine promptState_check ?_
    rw [prefillCheck_needed hclean hlen hst, topkReqCheck_over hk hne]
    rfl
  · refine promptState_check ?_
    rw [prefillCheck_needed hclean hlen hst, topkReqCheck_within hk, hones]
    rfl
  all_goals
    have hcheck : prefillCheck s it.stream r = none := by
      rw [prefillCheck_needed hclean hlen hst, topkReqCheck_within hk]
      have hfits : decide (ctxLimit s (streamAt s it.stream).model < r.promptLen) = false := decide_eq_false (Nat.not_lt.2 hctx)
      simp only [Option.orElse_none, promptLenCheck, beq_eq_false_iff_ne.2 hones, hfits, Bool.and_false]
      rfl
  · exact promptState_error hcheck (hc ▸ ho) (servingPart_openPrompt ho)
  · have hpart := servingPart_openPrompt ho
    obtain ⟨⟨y, hstream, hsched, htok, hend, hfirst, hbeat, hmod⟩, hqueue⟩ := prefillTokens_spec htaken
    have hq : w.serving.queue = s.serving.queue := hqueue.trans (congrArg Serving.queue (serving_of_part hpart))
    have hx : streamAt v it.stream = x it.stream := streamAt_congr (congrArg Serving.streams (serving_of_part hpart)) _
    rw [promptState_taken hcheck (hok ▸ ho) htaken, streamAt_requestState, hstream]
    refine ⟨answered_of_queue hq .., hsched, htok, hend, hfirst, hbeat.trans ?_, hmod.trans (congrArg Stream.model hx)⟩
    exact congrArg (fun q => q.2.2.now + 1) hpart

end Sys2Proof.Machine
end

section
/-! What the loss of a field and of a link leave of start-up, firmware and records (R439, R396, R508, R515). -/

namespace Sys2Proof.Machine

open Sys2Proof

/-- Start-up, firmware and records are as they were. -/
structure BootKept (s t : State) : Prop where
  boot : t.boot = s.boot

namespace BootKept

theorem refl (s : State) : BootKept s s := ⟨rfl⟩

theorem trans {s t u : State} (h : BootKept s t) (h' : BootKept t u) : BootKept s u := ⟨h'.boot.trans h.boot⟩

theorem foldl {α : Type} {f : State → α → State} (hf : ∀ s x, BootKept s (f s x)) (l : List α) (s : State) : BootKept s (l.foldl f s) := by
  induction l generalizing s with
  | nil => exact refl s
  | cons x l ih => exact (hf s x).trans (ih _)

/-! ### Errors and groups -/

theorem ofRecordErr (p : Nat) (c : Code) (info : Word) (s : State) : BootKept s (recordErr p c info s) := ⟨(congrArg State.boot (offRegs_recordErr ..) :)⟩
theorem ofRecordErrAny (p : Nat) (c : Code) (s : State) : BootKept s (recordErrAny p c s) := ⟨(congrArg State.boot (offRegs_recordErrAny ..) :)⟩
theorem ofSetLive (p off : Nat) (v : Word) (s : State) : BootKept s (setLive p off v s) := ⟨rfl⟩

theorem ofFatal (c : Code) (s : State) : BootKept s (fatal c s) := by
  have hraise (v : Nat) (t : State) : BootKept t (raiseIrq v t) := ⟨(congrArg State.boot (offRegs_raiseIrq ..) :)⟩
  unfold fatal
  split
  · exact refl s
  · exact (ofSetLive ..).trans (hraise ..)

theorem ofReloadPage (p : Nat) (s : State) : BootKept s (reloadPage p s) := by
  have hshadows : BootKept s (reloadShadows p s) := ⟨rfl⟩
  unfold reloadPage
  split
  · exact hshadows.trans (foldl (fun _ _ => ⟨by rfl⟩) ..)
  · exact hshadows

theorem ofClaimPage (p : Nat) (s : State) : BootKept s (claimPage p s) := by
  have hend (g : Nat) (r : GResult) (c : Code) : BootKept s (endGroup g r p c s) := (foldl (fun _ _ => ofReloadPage ..) ..).trans ⟨rfl⟩
  unfold claimPage
  split
  · split
    · exact hend ..
    · exact refl s
  · exact refl s

theorem ofLosePage (p : Nat) (s : State) : BootKept s (losePage p s) := by
  unfold losePage
  dsimp only
  split
  · exact (ofClaimPage ..).trans ⟨rfl⟩
  · exact ofClaimPage ..

/-! ### Messages before a field that goes dark (R197) -/

theorem of_offLinks {s t : State} (h : offLinks t = offLinks s) : BootKept s t := ⟨(congrArg State.boot h :)⟩

theorem ofMovedOn (back : Option (Nat × Nat × Nat)) (s : State) : BootKept s (movedOn back s) := of_offLinks (offLinks_movedOn back s)

theorem ofDropMsg (r d : Nat) (dark : Bool) (m : Msg) (s : State) : BootKept s (dropMsg r d dark m s) := by
  have hnoted : BootKept s (noteDropped m s) := by
    unfold noteDropped
    split
    · exact ⟨rfl⟩
    · exact ofMovedOn ..
    · exact refl s
  have hevent (kind port : Nat) (c : Code) (t : State) : BootKept t (fabEvent r kind port m c t) := (ofSetLive ..).trans (ofRecordErr ..)
  refine hnoted.trans (trans ?_ (hevent ..))
  split
  · exact ofSetLive ..
  · exact ofSetLive ..

theorem ofDropBefore (f : Nat) (s : State) : BootKept s (dropBefore f s) := by
  have hrouter (r : Nat) (x : Router) (t : State) : BootKept t (setRouter r x t) := ⟨rfl⟩
  have hout (r d : Nat) (t : State) : BootKept t (dropOut r d true t) := foldl (fun _ _ => (hrouter ..).trans (foldl (fun _ _ => ofDropMsg ..) ..)) ..
  refine foldl (fun s r => ?_) ..
  split
  · exact refl s
  · refine foldl (fun s d => ?_) ..
    split
    · exact hout ..
    · exact refl s

theorem ofNoteLost (f : Nat) (s : State) : BootKept s (noteLost f s) := by
  refine foldl (fun s e => ?_) ..
  dsimp only
  split
  · exact refl s
  · exact ⟨rfl⟩

theorem ofStackLost (n : Nat) (s : State) : BootKept s (stackLost n s) := by
  have hreset (p : Nat) (t : State) : BootKept t (resetPage p t) := ⟨rfl⟩
  unfold stackLost
  refine trans ?_ (foldl (fun _ _ => hreset ..) ..)
  exact ⟨rfl⟩

/-! ### A link that goes DOWN (R396) -/

theorem ofEgress (n l vc : Nat) (back : Option (Nat × Nat × Nat)) (p : Pcl) (s : State) : BootKept s (egress n l vc back p s) := by
  have hinject (r : Nat) (m : Msg) : BootKept s (injectEngine r m s) := by
    unfold injectEngine
    split <;> exact ⟨rfl⟩
  unfold egress
  split
  · exact of_offLinks (offLinks_transmit ..)
  · exact hinject ..

theorem ofSendResp (n : Nat) (p : Pcl) (s : State) : BootKept s (sendResp n p s) := by
  unfold sendResp
  split
  · split
    · exact ofEgress ..
    · exact ofSetLive ..
  · exact ofSetLive ..

/-- A request that ends with a code: what it counts, and how its origin hears. -/
theorem ofEnded (o : Origin) (n m : Nat) (c : Code) (s : State) : BootKept s (countEnd c m (failPart o n c s)) := by
  have hcount (t : State) : BootKept t (countEnd c m t) := by
    unfold countEnd
    split_ifs <;> exact ⟨rfl⟩
  refine trans ?_ (hcount _)
  unfold failPart
  split
  · exact ⟨rfl⟩
  · split <;> exact ⟨rfl⟩
  · unfold spRespond
    dsimp only
    split <;> exact ⟨rfl⟩
  · unfold svcFails
    split <;> exact ⟨rfl⟩
  · exact refl s

theorem ofTakeReq {mtag : Nat} {s t : State} {q : ClReq} (h : takeReq mtag s = some (q, t)) : BootKept s t := by
  unfold takeReq at h
  split at h
  · obtain ⟨-, rfl⟩ := Prod.mk.inj (Option.some.inj h)
    exact ⟨rfl⟩
  · cases h

theorem ofOriginate (n : Nat) (o : Origin) (loc : Nat) (tagged : Bool) (p : Pcl) (s : State) : BootKept s (originate n o loc tagged p s) := by
  have htagged (k : Nat) (l : List ClReq) : BootKept s { s with nextTag := k, clReqs := l } := ⟨rfl⟩
  unfold originate
  dsimp only
  split
  · split
    · exact (htagged ..).trans (ofEgress ..)
    · exact ofEnded ..
  · exact ofEnded ..

theorem ofTransitOut (n vc : Nat) (o : Origin) (p : Pcl) (s : State) : BootKept s (transitOut n vc o p s) := by
  unfold transitOut
  dsimp only
  split
  · exact of_offLinks (offLinks_transmit ..)
  · refine trans (ofMovedOn (match o with | .transit k v id => some (k, v, id) | _ => none) s) ?_
    generalize movedOn (match o with | .transit k v id => some (k, v, id) | _ => none) s = u
    split
    · exact ofSetLive ..
    · split
      · split
        · next q hq => exact (ofTakeReq hq).trans (ofEnded ..)
        · exact refl u
      · exact ofSendResp ..

theorem ofFinishIn (id : Nat) (s : State) : BootKept s (finishIn id s) := by
  have hended : BootKept s (inEnded id s) := ⟨rfl⟩
  have hanswered (n : Nat) (p : Pcl) : BootKept s (sendResp n p (inEnded id s)) := hended.trans (ofSendResp ..)
  unfold finishIn
  split
  · split_ifs
    · exact hanswered ..
    · exact refl s
    · exact hanswered ..
    · exact hanswered ..
    · exact refl s
  · exact refl s

theorem ofAttachFront (n : Nat) (s : State) : BootKept s (attachFront n s) := by
  have hreply (m : Msg) (t : State) : BootKept t (attachReply m t) := by
    have hread (id : Nat) (f : ClIn → ClIn) (u : State) : BootKept u (updIn id f u) := ⟨rfl⟩
    unfold attachReply
    split
    · unfold inRead
      exact (hread ..).trans (ofFinishIn ..)
    · exact ⟨rfl⟩
    · exact refl t
  have htaken (l : List Msg) : BootKept s { s with linkIn := mset [] s.linkIn n l } := ⟨rfl⟩
  unfold attachFront
  split
  · exact refl s
  · dsimp only
    split
    · exact (htaken _).trans (hreply ..)
    · split_ifs
      · exact (htaken _).trans (ofTransitOut ..)
      · exact (htaken _).trans (ofOriginate ..)
      · exact refl s

theorem ofAttachDrain (n k : Nat) (s : State) : BootKept s (attachDrain n k s) := by
  induction k generalizing s with
  | zero => exact refl s
  | succ k ih =>
    unfold attachDrain
    dsimp only
    split
    · exact ofAttachFront ..
    · exact (ofAttachFront ..).trans (ih _)

theorem ofEndReq (mtag : Nat) (c : Code) (s : State) : BootKept s (endReq mtag c s) := by
  unfold endReq
  split
  · next q hq => exact ((ofTakeReq hq).trans (ofEnded ..)).trans (ofAttachDrain ..)
  · exact refl s

theorem ofQueuedGone (n : Nat) (p : Pcl) (s : State) : BootKept s (queuedGone n p s) := by
  unfold queuedGone
  split_ifs
  · exact ofSetLive ..
  · exact ofEndReq ..
  · exact ofSendResp ..

theorem ofLinkGone (n : Nat) (s : State) : BootKept s (linkGone n s) := by
  have hcand (c : Cand) (x : CandState) (t : State) : BootKept t (setCand c x t) := by
    cases c <;> exact ⟨rfl⟩
  unfold linkGone
  extract_lets x _ s₁ _ s₂ s₃ s₄ _
  have hreset : BootKept s s₁ := ⟨rfl⟩
  split
  · exact refl s
  · have hcut : BootKept s s₂ := hreset.trans (trans ⟨by rfl⟩ (hcand ..))
    have hqueue : BootKept s₂ s₃ := foldl (fun _ _ => (ofQueuedGone ..).trans (ofMovedOn ..)) ..
    have hend : BootKept s₃ s₄ := foldl (fun _ _ => ofEndReq ..) ..
    clear_value s₂ s₃ s₄
    refine (hcut.trans (hqueue.trans hend)).trans (trans ?_ (ofAttachDrain ..))
    split
    · exact ⟨rfl⟩
    · exact refl s₄

end BootKept

/-! ### A field that goes dark (R439) -/

theorem boot_fieldLost (f : Nat) (s : State) : (fieldLost f s).boot = { s.boot with testing := without f s.boot.testing } := by
  unfold fieldLost
  extract_lets mine _ conv _ s₁ s₂
  have hlost : s₁.boot = { s.boot with testing := without f s.boot.testing } := rfl
  have hreset : BootKept s₁ s₂ := BootKept.foldl (fun _ _ => ⟨by rfl⟩) ..
  clear_value s₁ s₂
  exact ((BootKept.foldl (fun _ _ => BootKept.ofStackLost ..) ..).boot.trans hreset.boot).trans hlost

theorem boot_goDark (f cause : Nat) (s : State) : (goDark f cause s).boot =
    if (fieldOf s f).st = .dark ∧ (fieldOf s f).attempt.isNone then s.boot else { s.boot with testing := without f s.boot.testing } := by
  unfold goDark
  extract_lets x keep s₁ s₂ s₃
  have hpages : BootKept s s₁ := BootKept.foldl (fun _ _ => BootKept.ofLosePage ..) ..
  have hstacks : BootKept s₁ s₂ := BootKept.foldl (fun _ _ => BootKept.foldl (fun _ _ => BootKept.ofLosePage ..) ..) ..
  have hlost : s₃.boot = { s.boot with testing := without f s.boot.testing } := by
    have hbefore : BootKept s (dropBefore f (noteLost f s₂)) := ((hpages.trans hstacks).trans (.ofNoteLost ..)).trans (.ofDropBefore ..)
    unfold s₃
    rw [boot_fieldLost, hbefore.boot]
  clear_value s₃
  split
  · rfl
  · exact hlost

/-- The self-test of a field that goes dark ends with it, and nothing else of start-up. -/
theorem boot_imposeDark (f cause : Nat) (s : State) : (imposeDark f cause s).boot =
    if (fieldOf s f).st = .dark ∧ (fieldOf s f).attempt.isNone then s.boot else { s.boot with testing := without f s.boot.testing } := by
  rw [imposeDark, boot_goDark, fieldOf_updField_same]
  rfl

/-- Start-up, without the fields that are tested. -/
def bootUntested (s : State) : BootUnit := { s.boot with testing := [] }

theorem bootUntested_imposeDark (f cause : Nat) (s : State) : bootUntested (imposeDark f cause s) = bootUntested s := by
  unfold bootUntested
  rw [boot_imposeDark]
  split <;> rfl

theorem bootUntested_allDark (c : Code) (cause : Nat) (s : State) : bootUntested (allDark c cause s) = bootUntested s := by
  have hfields : bootUntested (allFields.foldl (fun s f => imposeDark f cause s) s) = bootUntested s :=
    foldl_same (g := bootUntested) (f := fun s (f : Nat) => imposeDark f cause s) (fun s f => bootUntested_imposeDark f cause s) ..
  rw [← hfields]
  exact congrArg (fun b : BootUnit => { b with testing := [] }) (BootKept.ofFatal ..).boot

end Sys2Proof.Machine
end

section
/-! The boots of the security engine and of the module controller (R504 to R508, R515). -/

namespace Sys2Proof.Machine

open Sys2Proof

/-! ### A unit boots (R515) -/

/-- What booting units changes: the components, and whether service mode has begun. -/
structure Boots (s t : State) : Prop where
  boot : ∃ comps mode cause, t.boot = { s.boot with comps := comps, serviceMode := mode, cause := cause } ∧ (s.boot.serviceMode = true → mode = true)
  sec : t.sec = s.sec
  serving : t.serving = s.serving

namespace Boots

theorem refl (s : State) : Boots s s := ⟨⟨_, _, _, rfl, id⟩, rfl, rfl⟩

theorem trans {s t u : State} (h : Boots s t) (h' : Boots t u) : Boots s u := by
  obtain ⟨⟨comps, mode, cause, hboot, hmode⟩, hsec, hserving⟩ := h
  obtain ⟨⟨comps', mode', cause', hboot', hmode'⟩, hsec', hserving'⟩ := h'
  refine ⟨⟨comps', mode', cause', by rw [hboot', hboot], fun hs => hmode' ?_⟩, hsec'.trans hsec, hserving'.trans hserving⟩
  rw [hboot]
  exact hmode hs

theorem foldl {α : Type} {f : State → α → State} (hf : ∀ s x, Boots s (f s x)) (l : List α) (s : State) : Boots s (l.foldl f s) := by
  induction l generalizing s with
  | nil => exact refl s
  | cons x l ih => exact (hf s x).trans (ih _)

theorem ofUpdComp (c : Nat) (g : Component → Component) (s : State) : Boots s (updComp c g s) := ⟨⟨_, _, _, rfl, id⟩, rfl, rfl⟩

theorem ofRecordErr (p : Nat) (c : Code) (info : Word) (s : State) : Boots s (recordErr p c info s) :=
  ⟨⟨_, _, _, (BootKept.ofRecordErr p c info s).boot, id⟩, (congrArg State.sec (offRegs_recordErr ..) :), (congrArg State.serving (offRegs_recordErr ..) :)⟩

theorem ofServiceMode (c : Code) (s : State) : Boots s (serviceMode c s) := by
  unfold serviceMode
  split
  · exact refl s
  · exact ⟨⟨_, _, _, rfl, fun _ => rfl⟩, rfl, rfl⟩

theorem ofBootUnit (c u : Nat) (s : State) : Boots s (bootUnit c u s).2 := by
  have hruns (k : Nat) (b : Bool) (t : State) : Boots t (unitRuns c u k b t) := ofUpdComp ..
  unfold bootUnit
  dsimp only
  split
  · exact hruns ..
  · split
    · dsimp only
      exact (((ofUpdComp ..).trans (ofRecordErr ..)).trans (hruns ..)).trans (ofUpdComp ..)
    · dsimp only
      exact (((ofUpdComp ..).trans (ofRecordErr ..)).trans (ofUpdComp ..)).trans (ofServiceMode ..)

variable {s t : State} (h : Boots s t)
include h

theorem stage : t.boot.stage = s.boot.stage := by
  obtain ⟨_, _, _, hboot, -⟩ := h.boot
  rw [hboot]

theorem cfg : t.boot.cfg = s.boot.cfg := by
  obtain ⟨_, _, _, hboot, -⟩ := h.boot
  rw [hboot]

theorem restart : t.boot.restart = s.boot.restart := by
  obtain ⟨_, _, _, hboot, -⟩ := h.boot
  rw [hboot]

theorem records : t.boot.records = s.boot.records := by
  obtain ⟨_, _, _, hboot, -⟩ := h.boot
  rw [hboot]

theorem mode (hs : s.boot.serviceMode = true) : t.boot.serviceMode = true := by
  obtain ⟨_, _, _, hboot, hmode⟩ := h.boot
  rw [hboot]
  exact hmode hs

end Boots

/-! ### The security engine boots (R508 stage 1) -/

theorem seRead_congr {s t : State} (h : t.boot.records = s.boot.records) (k : Nat) : seRead t k = seRead s k := by
  have hcopy (j : Nat) : recCopy t k j = recCopy s k j := by rw [recCopy, recCopy, h]
  simp only [seRead, recChoose, hcopy]

theorem serviceMode_begun (c : Code) (s : State) : (serviceMode c s).boot.serviceMode = true := by
  unfold serviceMode
  split
  · assumption
  · rfl

/-- The security engine, without its mailboxes, its queue and what DOE fetches. -/
def sansQueue (s : State) : SecEngine := { sansBoxes s with queue := [] }

theorem sansQueue_settleCmds (s : State) : sansQueue (settleCmds s) = sansQueue s :=
  settleCmds_same (g := sansQueue) (fun _ _ => rfl) (fun _ _ _ _ _ => congrArg (fun x : SecEngine => { x with queue := [] }) (sansBoxes_respond ..)) s

theorem sansQueue_congr {s t : State} (h : t.sec = s.sec) : sansQueue t = sansQueue s := by rw [sansQueue, sansQueue, sansBoxes, sansBoxes, h]

theorem settleCmds_kept (s : State) : (settleCmds s).boot = s.boot ∧ (settleCmds s).serving = s.serving := by
  have hrespond (src : CmdSrc) (op tag : Nat) (c : Code) (l : List Byte) (t : State) :
      ((respond src op tag c l t).boot, (respond src op tag c l t).serving) = (t.boot, t.serving) := by
    unfold respond
    dsimp only
    split
    · rfl
    · unfold doeAnswer
      dsimp only
      split <;> rfl
  exact Prod.mk.inj (settleCmds_same (g := fun t => (t.boot, t.serving)) (fun _ _ => rfl) (fun _ _ _ _ _ => hrespond ..) s)

/-- What the identity record says (R408). -/
def identityRead (s : State) : State :=
  match seRead s 1 with
  | some _ => updSec (fun x => { x with identityOk := true }) s
  | none => recLack 1 false s

/-- What the leaf state's record says (R408). -/
def leafRead (s : State) : State :=
  match seRead s 2 with
  | some l => updSec (fun x => { x with
      leaf := le l 0 4, reservedTo := le l 0 4, tree := leafTree l, signHalt := x.signHalt || decide (leafMax ≤ le l 0 4) }) s
  | none => recLack 2 false s

theorem identityRead_spec (s : State) : (identityRead s).boot.records = s.boot.records ∧ ((seRead s 1).isSome = true → (identityRead s).sec.identityOk = true) ∧
    (seRead s 1 = none → (identityRead s).sec.identityOk = false ∧ (identityRead s).boot.serviceMode = true) := by
  unfold identityRead
  cases hread : seRead s 1 with
  | some l => exact ⟨rfl, fun _ => rfl, fun h => nomatch h⟩
  | none =>
    have hlack := Boots.ofServiceMode E.cfgRecordInvalid (updSec (fun x => { x with identityOk := false }) s)
    exact ⟨hlack.records, fun h => (by cases h), fun _ => ⟨congrArg SecEngine.identityOk hlack.sec, serviceMode_begun ..⟩⟩

theorem leafRead_spec (s : State) : (leafRead s).sec.identityOk = s.sec.identityOk ∧ (s.boot.serviceMode = true → (leafRead s).boot.serviceMode = true) ∧
    (∀ l, seRead s 2 = some l → (leafRead s).sec.leaf = le l 0 4 ∧ (leafRead s).sec.reservedTo = le l 0 4 ∧ (leafRead s).sec.tree = leafTree l ∧
      (2 ^ 30 ≤ le l 0 4 → (leafRead s).sec.signHalt = true)) ∧
    (seRead s 2 = none → (leafRead s).sec.signHalt = true ∧ (leafRead s).boot.serviceMode = true) := by
  unfold leafRead
  cases hread : seRead s 2 with
  | some l =>
    refine ⟨rfl, id, fun l' hl' => ?_, fun h => nomatch h⟩
    obtain rfl := Option.some.inj hl'
    refine ⟨rfl, rfl, rfl, fun hmax => ?_⟩
    have hhalt : (s.sec.signHalt || decide (leafMax ≤ le l 0 4)) = true := by rw [decide_eq_true (show leafMax ≤ le l 0 4 from hmax), Bool.or_true]
    exact hhalt
  | none =>
    have hlack := Boots.ofServiceMode E.cfgRecordInvalid (updSec (fun x => { x with signHalt := true }) s)
    exact ⟨(congrArg SecEngine.identityOk hlack.sec).trans rfl, fun h => hlack.mode h, fun l h => (by cases h),
      fun _ => ⟨congrArg SecEngine.signHalt hlack.sec, serviceMode_begun ..⟩⟩

theorem seBootDone_other {s : State} (h : s.boot.stage ≠ 1) : seBootDone s = s := if_pos h

theorem seBootDone_dead {s : State} (h : s.boot.stage = 1) (hdead : (compAt (bootUnit 0 0 s).2 0).dead.contains 0 = true) : seBootDone s = (bootUnit 0 0 s).2 := by
  unfold seBootDone
  rw [if_neg (not_not.2 h)]
  dsimp only
  rw [if_pos hdead]

/-- What the boot draws and sets once the records are read. -/
structure Drawn (s t : State) : Prop where
  bootId : t.sec.bootId.isSome = true
  pubKey : t.serving.pubKey.length = 32
  kemSeed : t.sec.kemSeed.length = 64
  rest : ∃ id seed, t.sec = { s.sec with bootId := id, kemSeed := seed }
  boot : t.boot = { s.boot with stage := 2 }

/-- The security engine's boot: its records, its draws, the controller's boot, and the commands that waited (R508). -/
theorem seBootDone_boots {s : State} (h : s.boot.stage = 1) (hdead : (compAt (bootUnit 0 0 s).2 0).dead.contains 0 = false) :
    ∃ u, Drawn (leafRead (identityRead (bootUnit 0 0 s).2)) u ∧ seBootDone s = settleCmds (bootUnit 1 0 u).2 := by
  unfold seBootDone
  rw [if_neg (not_not.2 h)]
  extract_lets u₁ u₂ u₃ a b k g u₄ _ u₅
  rw [if_neg (by rw [hdead]; decide)]
  have hread : u₃ = leafRead (identityRead u₁) := rfl
  obtain ⟨m, hm⟩ := freshBytes_state 4 b.2
  obtain ⟨n, hn⟩ := freshBytes_state 8 k.2
  have hg : g.2.sec = u₃.sec ∧ g.2.boot = u₃.boot := by
    rw [hn, hm]
    exact ⟨rfl, rfl⟩
  rw [← hread]
  have hdrawn : u₄.sec = { g.2.sec with bootId := some (BitVec.ofNat 128 (a.1.toNat + 2 ^ 64 * b.1.toNat)), kemSeed := g.1 } ∧ u₄.boot = g.2.boot := ⟨rfl, rfl⟩
  have hkey : u₅.sec = u₄.sec ∧ u₅.boot = u₄.boot ∧ u₅.serving.pubKey = k.1 := ⟨rfl, rfl, rfl⟩
  have hk : k.1.length = 32 := length_freshBytes ..
  have hseed : g.1.length = 64 := length_freshBytes ..
  clear_value u₃ k g u₄ u₅
  obtain ⟨hsec, hboot⟩ := hdrawn
  obtain ⟨hsec', hboot', hpub⟩ := hkey
  rw [hsec, hg.1] at hsec'
  rw [hboot, hg.2] at hboot'
  have hstage : (updBoot (fun b => { b with stage := 2 }) u₅).boot = { u₅.boot with stage := 2 } := rfl
  refine ⟨updBoot (fun b => { b with stage := 2 }) u₅, ⟨?_, hpub ▸ hk, ?_, ⟨_, _, hsec'⟩, by rw [hstage, hboot']⟩, rfl⟩
  · exact congrArg (·.bootId.isSome) hsec'
  · exact (congrArg (·.kemSeed.length) hsec').trans hseed

/-! ### Records (R504 to R506) -/

/-- The components' images and the unit that restarts. -/
def bootRuns (s : State) : Map Component × Option Restart := (s.boot.comps, s.boot.restart)

theorem BootKept.runs {s t : State} (h : BootKept s t) : bootRuns t = bootRuns s := by rw [bootRuns, bootRuns, h.boot]

theorem bootRuns_imposeDark (f cause : Nat) (s : State) : bootRuns (imposeDark f cause s) = bootRuns s :=
  (congrArg (fun b : BootUnit => (b.comps, b.restart)) (bootUntested_imposeDark f cause s) :)

theorem bootRuns_serviceMode (c : Code) (s : State) : bootRuns (serviceMode c s) = bootRuns s := by
  unfold serviceMode
  split <;> rfl

theorem bootRuns_recLack (k : Nat) (b : Bool) (s : State) : bootRuns (recLack k b s) = bootRuns s := by
  have hdark : bootRuns (allFields.foldl (fun s f => imposeDark f 1 s) s) = bootRuns s :=
    foldl_same (g := bootRuns) (f := fun s (f : Nat) => imposeDark f 1 s) (fun s f => bootRuns_imposeDark f 1 s) ..
  unfold recLack
  split
  · exact (bootRuns_serviceMode ..).trans rfl
  · exact (bootRuns_serviceMode ..).trans rfl
  · exact (bootRuns_serviceMode ..).trans hdark
  · split
    · exact bootRuns_serviceMode ..
    · rfl
  · split
    · exact bootRuns_serviceMode ..
    · rfl
  · rfl

theorem bootRuns_recPut (k : Nat) (l : List Byte) (ok : Bool) (s : State) : bootRuns (recPut k l ok s) = bootRuns s := by
  unfold recPut
  dsimp only
  split
  · rfl
  · exact (BootKept.ofRecordErrAny ..).runs.trans rfl

theorem bootRuns_resolveRec (bad : List Nat) (s : State) (k : Nat) : bootRuns (resolveRec bad s k) = bootRuns s := by
  have hlog : bootRuns (logCopies k s) = bootRuns s := by
    refine BootKept.runs (BootKept.foldl (fun s j => ?_) ..)
    dsimp only
    split
    · exact .refl s
    · exact .ofRecordErrAny ..
  have hset (r : RecRes) (t : State) : bootRuns (setRes k r t) = bootRuns t := rfl
  have herr (c : Code) (t : State) : bootRuns (recordErrAny pMc c t) = bootRuns t := (BootKept.ofRecordErrAny ..).runs
  have hmigrate (cur : Nat) (ok : Bool) (t : State) : bootRuns (migrateRec k cur ok t) = bootRuns t := by
    unfold migrateRec
    dsimp only
    split
    · exact bootRuns_recPut ..
    · rw [bootRuns_serviceMode, herr, bootRuns_recPut]
  unfold resolveRec
  dsimp only
  generalize (if k = 1 ∨ k = 3 then 0xFFFF else curVersion s k) = cur
  split
  · rw [bootRuns_recLack, hset, hlog]
  · rw [bootRuns_recLack, hset, hlog]
  · rw [bootRuns_serviceMode, herr, hset, hlog]
  · split
    · rw [hmigrate, hset, hlog]
    · rw [hset, hlog]

theorem bootRuns_mcRecords (bad : List Nat) (s : State) : bootRuns (mcRecords bad s) = bootRuns s := by
  have hresolve (l : List Nat) (t : State) : bootRuns (l.foldl (resolveRec bad) t) = bootRuns t :=
    foldl_same (g := bootRuns) (fun s k => bootRuns_resolveRec bad s k) ..
  unfold mcRecords
  dsimp only
  rw [hresolve]
  split <;> rfl

end Sys2Proof.Machine
end

section
/-! Stage 2's registers, self-test, and the units that restart (R40, R507, R508, R511, R515, R516). -/

namespace Sys2Proof.Machine

open Sys2Proof

/-! ### The module controller boots (R507, R508) -/

/-- The stage and the configuration in force. -/
def bootPlan (s : State) : Nat × Option BootCfg := (s.boot.stage, s.boot.cfg)

theorem BootKept.plan {s t : State} (h : BootKept s t) : bootPlan t = bootPlan s := by rw [bootPlan, bootPlan, h.boot]
theorem Boots.plan {s t : State} (h : Boots s t) : bootPlan t = bootPlan s := by rw [bootPlan, bootPlan, h.stage, h.cfg]

theorem bootPlan_calOutcome (n z y : Nat) (s : State) : bootPlan (calOutcome n z y s) = bootPlan s := by
  unfold calOutcome
  split
  · dsimp only
    split <;> rfl
  · have hrec : bootPlan (recordErrAny (pTel n) E.telemCalFail (telEvent n 2 s)) = bootPlan s := (BootKept.ofRecordErrAny ..).plan.trans rfl
    have hconv (g : Conv → Conv) (t : State) : bootPlan (updConv n g t) = bootPlan t := rfl
    have hreport (c : Code) (k u : Nat) (g : Conv → Conv) (t : State) : bootPlan (report c k u (calOutcome.updBoot' (updConv n g t))) = bootPlan t := rfl
    dsimp only
    split
    · rw [hreport, hconv, hrec]
    · rw [hconv, hrec]

theorem bootPlan_railCals (n : Nat) (l : List (Nat × Nat)) (s : State) : bootPlan (railCals n l s) = bootPlan s := by
  unfold railCals
  split
  · rfl
  · dsimp only
    split
    · exact (bootPlan_calOutcome ..).trans (bootPlan_calOutcome ..)
    · exact bootPlan_calOutcome ..

theorem bootPlan_railSeq (n : Nat) (l : List Nat) (now : Nat) (s : State) : bootPlan (railSeq n l now s) = bootPlan s := by
  have hpass (t : State) : bootPlan (startPass n now t) = bootPlan t := by
    unfold startPass
    split <;> rfl
  have hconv (x : Conv) (t : State) : bootPlan (setConv n x t) = bootPlan t := rfl
  have hcommit (t : State) : bootPlan (telCommit n now t) = bootPlan t := by
    unfold telCommit
    simp only [apply_ite bootPlan, hconv, hpass, ite_self]
  exact (hcommit _).trans rfl

theorem bootPlan_pairLost (n : Nat) (s : State) : bootPlan (pairLost n s) = bootPlan s := by
  have huntested {t u : State} (h : bootUntested u = bootUntested t) : bootPlan u = bootPlan t :=
    (congrArg (fun b : BootUnit => (b.stage, b.cfg)) h :)
  unfold pairLost
  split
  · split
    · exact huntested (bootUntested_imposeDark (n / 2) 9 s)
    · split
      · exact huntested (bootUntested_allDark ..)
      · rfl
  · rfl

/-- RESTART of the beat unit acts on its own page, and on what an error records. -/
theorem live_restart {q a : Nat} (s : State) (hq : q ≠ pBeat) (hirq : q ≠ pIrq) (ha : a < 4096) (hcode : a ≠ 0x10) (hinfo : a ≠ 0x14) :
    live (restart s) q a = live s q a := by
  have hentry (t : State) (e : Nat × Word) : live (commitEntry pBeat t e) q a = live t q a := by
    unfold commitEntry
    split
    · exact (live_setLive _ _ (Nat.mod_lt _ (by decide)) ha).trans (if_neg fun h => hq h.1.symm)
    · rfl
  have hcommit (t : State) : live (beatCommitShadows t) q a = live t q a := by
    rw [beatCommitShadows, commitPage_eq]
    exact (live_congr rfl q a).trans (foldl_same (g := fun t => live t q a) hentry ..)
  have hreload (t : State) : live (reloadPage pBeat t) q a = live t q a := rfl
  unfold restart
  split
  · rfl
  · split
    · rw [hreload]
      exact live_recordErr_page _ _ _ _ ha hcode hinfo hirq
    · exact (live_congr rfl q a).trans (hcommit s)

theorem restart_kept (s : State) : BootKept s (restart s) := by
  have hcommit : BootKept s (beatCommitShadows s) := by
    rw [beatCommitShadows, commitPage_eq]
    refine BootKept.trans (BootKept.foldl (fun t e => ?_) ..) ⟨by rfl⟩
    unfold commitEntry
    split
    · exact .ofSetLive ..
    · exact .refl t
  unfold restart
  split
  · exact .refl s
  · split
    · exact (BootKept.ofRecordErr ..).trans (.ofReloadPage ..)
    · exact hcommit.trans ⟨by rfl⟩

/-- The registers that a configuration commits. -/
theorem commitCfg_spec (c : BootCfg) (s : State) : live (commitCfg c s) pCl 0x40 = BitVec.ofNat 32 (c.moduleId % 2 ^ 14) ∧
    live (commitCfg c s) pPm 0x40 = BitVec.ofNat 32 c.pmCap ∧ bootPlan (commitCfg c s) = bootPlan s := by
  have hboth {p q a : Nat} (v : Word) (t : State) (ha : a < 4096) (hp : p ≠ q) (off : Nat) (hoff : off < 4096) : live (setBoth p off v t) q a = live t q a :=
    (live_setLive _ _ hoff ha).trans (if_neg fun h => hp h.1)
  have hsame (p : Nat) (v : Word) (t : State) : live (setBoth p 0x40 v t) p 0x40 = v := live_setLive_same ..
  have hplan (p a : Nat) (v : Word) (t : State) : bootPlan (setBoth p a v t) = bootPlan t := rfl
  have haddr {q : Nat} (l : List Word) (k : Word) (t : State) (hq : 0x30 ≠ q) :
      live (setBoth 0x30 0x50 k (setBoth 0x30 (0x40 + 4 * 3) (l.getD 3 0) (setBoth 0x30 (0x40 + 4 * 2) (l.getD 2 0) (setBoth 0x30 (0x40 + 4 * 1) (l.getD 1 0)
        (setBoth 0x30 (0x40 + 4 * 0) (l.getD 0 0) t))))) q 0x40 = live t q 0x40 := by
    rw [hboth _ _ (by decide) hq _ (by decide), hboth _ _ (by decide) hq _ (by decide), hboth _ _ (by decide) hq _ (by decide),
      hboth _ _ (by decide) hq _ (by decide), hboth _ _ (by decide) hq _ (by decide)]
  have hmodule (v w : Word) : live (setBoth pPm 0x40 w (setBoth pCl 0x40 v s)) pCl 0x40 = v :=
    (hboth _ _ (by decide) (by decide) _ (by decide)).trans (hsame ..)
  unfold commitCfg
  dsimp only
  split
  · refine ⟨?_, ?_, ?_⟩
    · exact (haddr [_, _, _, _] _ _ (by decide)).trans (hmodule ..)
    · exact (haddr [_, _, _, _] _ _ (by decide)).trans (hsame ..)
    · rfl
  · exact ⟨hmodule .., hsame .., rfl⟩

theorem mcBootDone_spec (now : Nat) (bad : List Nat) (hub : List (List (Nat × Nat))) {s : State} (h : s.boot.stage = 2) (hdead : (compAt s 1).dead.contains 0 = false) :
    let t := mcBootDone now bad hub s
    ∃ c, t.boot.stage = 3 ∧ t.boot.cfg = some c ∧ live t pCl 0x40 = BitVec.ofNat 32 (c.moduleId % 2 ^ 14) ∧ live t pPm 0x40 = BitVec.ofNat 32 c.pmCap := by
  have hgo : ¬ (s.boot.stage ≠ 2 ∨ (compAt s 1).dead.contains 0 = true) := by
    rw [h, hdead]
    decide
  unfold mcBootDone
  rw [if_neg hgo]
  extract_lets s₁ c s₂ s₃ s₄ s₅
  have hset : bootPlan s₂ = (3, some c) := rfl
  have hrails : bootPlan s₃ = bootPlan s₂ :=
    foldl_same (g := bootPlan) (f := fun s (k : Nat) => railSeq (160 + k) (Config.hubSeq k) now (railCals (160 + k) (hub.getD k []) s))
      (fun _ _ => (bootPlan_railSeq ..).trans (bootPlan_railCals ..)) ..
  have hlost : bootPlan s₄ = bootPlan s₃ := bootPlan_pairLost ..
  have hlinks : Boots s₄ s₅ := Boots.foldl (fun _ _ => .ofBootUnit ..) ..
  clear_value c s₂ s₃ s₄ s₅
  have hbegin : bootPlan (beginBeat c (commitCfg c s₅)) = (3, some c) := by
    refine ((restart_kept _).plan.trans ?_).trans (hlinks.plan.trans (hlost.trans (hrails.trans hset)))
    exact (commitCfg_spec c s₅).2.2
  have hlive {q : Nat} (hq : q ≠ pBeat) (hirq : q ≠ pIrq) : live (beginBeat c (commitCfg c s₅)) q 0x40 = live (commitCfg c s₅) q 0x40 :=
    (live_restart _ hq hirq (by decide) (by decide) (by decide)).trans (live_congr rfl ..)
  obtain ⟨hstage, hcfg⟩ := Prod.mk.inj hbegin
  exact ⟨c, hstage, hcfg, (hlive (by decide) (by decide)).trans (commitCfg_spec c s₅).1, (hlive (by decide) (by decide)).trans (commitCfg_spec c s₅).2.1⟩

end Sys2Proof.Machine
end

section
/-! Self-test, ACTIVATE and RESTART (R481, R504, R511, R514 to R516). -/

namespace Sys2Proof.Machine

open Sys2Proof

/-! ### Self-test (R511) -/

/-- What no write of the floor map changes. -/
structure FloorKept (s t : State) : Prop where
  fields : t.fields = s.fields
  repair : t.repair = s.repair
  testing : t.boot.testing = s.boot.testing

theorem FloorKept.trans {s t u : State} (h : FloorKept s t) (h' : FloorKept t u) : FloorKept s u :=
  ⟨h'.fields.trans h.fields, h'.repair.trans h.repair, h'.testing.trans h.testing⟩

theorem floorKept_recPut (k : Nat) (l : List Byte) (ok : Bool) (s : State) : FloorKept s (recPut k l ok s) := by
  have hfails (t : State) : FloorKept t (flashFails t) :=
    ⟨(fields_recordErrAny ..).trans rfl, (congrArg State.repair (offRegs_recordErrAny ..) :), congrArg BootUnit.testing (BootKept.ofRecordErrAny ..).boot⟩
  unfold recPut
  dsimp only
  split
  · exact ⟨rfl, rfl, rfl⟩
  · refine FloorKept.trans ?_ (hfails _)
    exact ⟨rfl, rfl, rfl⟩

theorem floorPut_spec (ok : Bool) (s : State) : FloorKept s (floorPut ok s) ∧ (floorPut ok s).boot.floorDue = !ok :=
  ⟨(floorKept_recPut ..).trans ⟨rfl, rfl, rfl⟩, rfl⟩

/-- The floor map is written, or is due, once a field has been tested. -/
def floorSettled (failed flash : Bool) (s : State) : State :=
  if s.boot.testing.isEmpty && decide (5 ≤ s.boot.stage) then floorPut flash s
  else if failed then updBoot (fun b => { b with floorDue := true }) s
  else s

theorem floorSettled_kept (failed flash : Bool) (s : State) : FloorKept s (floorSettled failed flash s) := by
  unfold floorSettled
  split
  · exact (floorPut_spec flash s).1
  · split
    · exact ⟨rfl, rfl, rfl⟩
    · exact ⟨rfl, rfl, rfl⟩

/-- The self-test of a field has ended. -/
def tested (n : Nat) (s : State) : State := updBoot (fun b => { b with testing := without n b.testing }) s

theorem selftestDone_other {n : Nat} {l : List (Fin 60 × Fin 64 × Fin 6)} {flash : Bool} {s : State} (h : s.boot.testing.contains n = false) :
    selftestDone n l flash s = s := by
  unfold selftestDone
  rw [h]
  rfl

theorem selftestDone_tested {n : Nat} {l : List (Fin 60 × Fin 64 × Fin 6)} {flash : Bool} {s : State} (h : s.boot.testing.contains n = true) :
    selftestDone n l flash s = floorSettled (!l.isEmpty) flash (l.foldl (testFails n) (tested n s)) := by
  unfold selftestDone floorSettled
  rw [h, ← tested]
  cases l <;> rfl

theorem without_without (n : Nat) (l : List Nat) : without n (without n l) = without n l := by
  rw [without, without, List.filter_filter]
  simp only [Bool.and_self]

/-- One core is retired, with its router where `router` says so. -/
def retireOne (c : Nat) (why : Byte) (router : Bool) (s : State) : State := retireAll { entryOf ⟨0, 0, c, 0⟩ 0 with retire := [(c, why, router)] } s

/-- Failed cores leave the fields that are still tested, and the stage. -/
theorem testFails_kept {n : Nat} {l : List Nat} {k : Nat} (q : Fin 60 × Fin 64 × Fin 6) {s : State}
    (h : s.boot.testing = without n l ∧ s.boot.stage = k) : (testFails n s q).boot.testing = without n l ∧ (testFails n s q).boot.stage = k := by
  have hone (c : Nat) (why : Byte) (r : Bool) : (retireOne c why r s).boot.testing = without n l ∧ (retireOne c why r s).boot.stage = k := h
  have hdark : (fieldFault n E.fabricLinkFail (imposeDark n 9 s)).boot.testing = without n l ∧ (fieldFault n E.fabricLinkFail (imposeDark n 9 s)).boot.stage = k := by
    have hfault (t : State) : (fieldFault n E.fabricLinkFail t).boot = t.boot := rfl
    rw [hfault, boot_imposeDark]
    split
    · exact h
    · exact ⟨by rw [h.1, without_without], h.2⟩
  unfold testFails
  dsimp only
  split
  · exact h
  · split
    · split
      · exact hone ..
      · exact hdark
    · exact hone ..

theorem foldl_testFails_kept {n : Nat} {t : List Nat} {k : Nat} (l : List (Fin 60 × Fin 64 × Fin 6)) {s : State}
    (h : s.boot.testing = without n t ∧ s.boot.stage = k) : (l.foldl (testFails n) s).boot.testing = without n t ∧ (l.foldl (testFails n) s).boot.stage = k := by
  induction l generalizing s with
  | nil => exact h
  | cons q l ih => exact ih (testFails_kept q h)

theorem selftestDone_spec {n : Nat} (l : List (Fin 60 × Fin 64 × Fin 6)) (flash : Bool) {s : State} (h : s.boot.testing.contains n = true) :
    (selftestDone n l flash s).boot.testing = without n s.boot.testing ∧
      (without n s.boot.testing = [] → 5 ≤ s.boot.stage → (selftestDone n l flash s).boot.floorDue = !flash) ∧
      (without n s.boot.testing ≠ [] ∨ s.boot.stage < 5 → l ≠ [] → (selftestDone n l flash s).boot.floorDue = true) := by
  obtain ⟨htesting, hstage⟩ := foldl_testFails_kept (n := n) (t := s.boot.testing) (k := s.boot.stage) l (s := tested n s) ⟨rfl, rfl⟩
  rw [selftestDone_tested h]
  generalize l.foldl (testFails n) (tested n s) = u at htesting hstage
  refine ⟨(floorSettled_kept ..).testing.trans htesting, fun hlast hstage5 => ?_, fun hmore hfailed => ?_⟩
  · have hnow : (u.boot.testing.isEmpty && decide (5 ≤ u.boot.stage)) = true := by
      rw [htesting, hlast, hstage, decide_eq_true hstage5]
      rfl
    rw [floorSettled, if_pos hnow]
    exact (floorPut_spec flash u).2
  · have hlater : ¬ (u.boot.testing.isEmpty && decide (5 ≤ u.boot.stage)) = true := by
      rw [htesting, hstage, Bool.and_eq_true, List.isEmpty_iff, decide_eq_true_eq]
      exact fun hboth => hmore.elim (fun hne => hne hboth.1) (fun hearly => absurd hboth.2 (Nat.not_le.2 hearly))
    have hnonempty : (!l.isEmpty) = true := by simpa using hfailed
    rw [floorSettled, if_neg hlater, if_pos hnonempty]
    rfl

theorem selftestDone_none {n : Nat} (flash : Bool) {s : State} (h : s.boot.testing.contains n = true) (hmore : without n s.boot.testing ≠ [] ∨ s.boot.stage < 5) :
    selftestDone n [] flash s = tested n s := by
  have hlater : ¬ ((tested n s).boot.testing.isEmpty && decide (5 ≤ (tested n s).boot.stage)) = true := by
    have htested : (tested n s).boot.testing = without n s.boot.testing ∧ (tested n s).boot.stage = s.boot.stage := ⟨rfl, rfl⟩
    rw [htested.1, htested.2, Bool.and_eq_true, List.isEmpty_iff, decide_eq_true_eq]
    exact fun hboth => hmore.elim (fun hne => hne hboth.1) (fun hearly => absurd hboth.2 (Nat.not_le.2 hearly))
  rw [selftestDone_tested h]
  exact if_neg hlater

theorem retireOne_spec {c : Nat} (why : Byte) (router : Bool) {s : State} (h : coreEnabled s c = true) : (retireOne c why router s).fields = s.fields ∧
    ∀ k, repairOf (retireOne c why router s) k =
      if c = k then { repairOf s c with enabled := false, reason := why, routerRetired := (repairOf s c).routerRetired || router } else repairOf s k := by
  have henabled : (repairOf s c).enabled = true := h
  have hset : retireOne c why router s = { s with repair := mset .reset s.repair c { repairOf s c with
      enabled := false, reason := if (repairOf s c).enabled then why else (repairOf s c).reason, routerRetired := (repairOf s c).routerRetired || router } } := rfl
  refine ⟨rfl, fun k => ?_⟩
  have hfind (x : Repair) : repairOf { s with repair := mset .reset s.repair c x } k = if c = k then x else repairOf s k := mget_mset Repair.reset ..
  rw [hset, henabled, if_pos rfl, hfind]

section
variable {n c : Nat} {q : Fin 60 × Fin 64 × Fin 6} {s : State} (hc : 4096 * n + q.1.val * 64 + q.2.1.val = c) (henabled : coreEnabled s c = true) (hfail : q.2.2.val ≠ 0)
include hc henabled hfail

theorem testFails_eq : testFails n s q = if q.2.2.val = 5 then
    (if mayRetire s c then retireOne c (BitVec.ofNat 8 q.2.2.val) true s else fieldFault n E.fabricLinkFail (imposeDark n 9 s))
    else retireOne c (BitVec.ofNat 8 q.2.2.val) false s := by
  unfold testFails
  dsimp only
  rw [hc, if_neg (by rw [henabled]; simpa using hfail)]
  rfl

theorem testFails_core (hcore : q.2.2.val ≠ 5) : testFails n s q = retireOne c (BitVec.ofNat 8 q.2.2.val) false s := by
  rw [testFails_eq hc henabled hfail, if_neg hcore]

theorem testFails_router (hlink : q.2.2.val = 5) (hmay : mayRetire s c = true) : testFails n s q = retireOne c (BitVec.ofNat 8 q.2.2.val) true s := by
  rw [testFails_eq hc henabled hfail, if_pos hlink, if_pos hmay]

theorem testFails_field (hlink : q.2.2.val = 5) (hmay : mayRetire s c = false) : testFails n s q = fieldFault n E.fabricLinkFail (imposeDark n 9 s) := by
  rw [testFails_eq hc henabled hfail, if_pos hlink, if_neg (by rw [hmay]; decide)]

end

theorem selftestTimeout_spec {n : Nat} {s : State} (h : s.boot.testing.contains n = true) : let t := selftestTimeout n s
    ∃ c, fieldSt t n = .dark ∧ (fieldOf t n).darkBy = some 9 ∧ t.recov.reported = s.recov.reported ++ [⟨c, 2, n, 0⟩] := by
  unfold selftestTimeout
  rw [if_pos h]
  dsimp only
  have hreported : (imposeDark n 9 (freshWord s).2).recov.reported = s.recov.reported := (onField_imposeDark ..).reported
  refine ⟨(freshWord s).1.setWidth 16, (darkBy_fieldFault ..).1, (darkBy_fieldFault ..).2, ?_⟩
  exact (reported_report ..).trans (congrArg (· ++ [_]) hreported)

/-! ### ACTIVATE and RESTART (R514, R516) -/

theorem fwRefused_idle (c : Code) {s : State} (h : s.boot.restart = none) : fwRefused c s = fwResult 3 c s := by
  rw [fwRefused, h]
  rfl

theorem fwRefused_busy (c : Code) {s : State} (h : s.boot.restart ≠ none) : fwRefused c s = recordErrAny pFlash c s :=
  if_pos (Option.isSome_iff_ne_none.2 h)

/-- A refusal leaves the components and the RESTART that runs. -/
theorem fwRefused_spec (c : Code) (s : State) : (fwRefused c s).boot.comps = s.boot.comps ∧ (fwRefused c s).boot.restart = s.boot.restart ∧
    (s.boot.restart = none → (fwRefused c s).boot.fwState = 3 ∧ (fwRefused c s).boot.fwCode = c) ∧
    (s.boot.restart ≠ none → errValid (fwRefused c s) pFlash = true ∧ (fwRefused c s).boot.fwState = s.boot.fwState) := by
  by_cases h : s.boot.restart = none
  · rw [fwRefused_idle c h]
    exact ⟨rfl, rfl, fun _ => ⟨rfl, rfl⟩, fun hne => absurd h hne⟩
  · rw [fwRefused_busy c h]
    have hboot := (BootKept.ofRecordErrAny pFlash c s).boot
    exact ⟨congrArg _ hboot, congrArg _ hboot, fun h' => absurd h' h, fun _ => ⟨errValid_recordErrAny .., congrArg _ hboot⟩⟩

theorem fwActivate_refused {c : Nat} {e : Code} {s : State} (h : activateCheck s c = some e) : (fwActivate c s).2 = fwRefused e s := by
  rw [fwActivate, h]

theorem fwActivate_taken {c : Nat} {s : State} (h : activateCheck s c = none) : let t := (fwActivate c s).2
    compAt t c = { compAt s c with bootBank := 1 - (compAt s c).runBank, inactive := 3 } ∧ (s.boot.restart = none → t.boot.fwState = 2 ∧ t.boot.fwCode = 0) := by
  have hrun (f : Component → Component) : (updComp c f s).boot.restart = s.boot.restart := rfl
  have hresult (k : Nat) (e : Code) (t : State) (j : Nat) : compAt (fwResult k e t) j = compAt t j := rfl
  rw [fwActivate, h]
  dsimp only
  rw [hrun]
  split
  · next hbusy => exact ⟨compAt_updComp_same .., fun hnone => absurd hnone (Option.isSome_iff_ne_none.1 hbusy)⟩
  · exact ⟨(hresult ..).trans (compAt_updComp_same ..), fun _ => ⟨rfl, rfl⟩⟩

theorem activateCheck_unstaged {s : State} {c : Nat} (h : 4 < c ∨ (compAt s c).inactive ≠ 2) : activateCheck s c = some E.updProtocol := by
  unfold activateCheck
  split
  · rfl
  · next hc =>
    have hstaged : ((compAt s c).inactive != 2) = true := bne_iff_ne.2 (h.resolve_left hc)
    dsimp only
    rw [hstaged]
    rfl

theorem fwRestart_refused {c u : Nat} {e : Code} {s : State} (h : restartCheck s c u = some e) : (fwRestart c u s).2 = fwRefused e s := by
  rw [fwRestart, h]

theorem fwRestart_taken {c u : Nat} {s : State} (h : restartCheck s c u = none) : let l := if c < 2 then [0] else if u = 0xFF then List.range (unitsOfComp c) else [u]
    (fwRestart c u s).2 = beginRestart (fwResult 1 0 (updBoot (fun b => { b with restart := some ⟨c, l.headD 0, l.drop 1, false⟩ }) s)) := by
  rw [fwRestart, h]

/-! ### A unit stops (R516) -/

theorem beginRestart_waits {s : State} {r : Restart} (h : s.boot.restart = some r) (hwait : r.begun = true ∨ restartWaits s r.component r.unit = true) :
    beginRestart s = s := by
  have hstop : (r.begun || restartWaits s r.component r.unit) = true := by
    rcases hwait with h' | h' <;> simp [h']
  unfold beginRestart
  rw [h]
  dsimp only
  rw [if_pos hstop]

/-- The unit's pages are lost to armed groups before it stops. -/
def unitClaimed (r : Restart) (s : State) : State :=
  (unitPages r.component r.unit).foldl (fun s p => claimPage p s) (updBoot (fun b => { b with restart := some { r with begun := true } }) s)

theorem beginRestart_begins {s : State} {r : Restart} (h : s.boot.restart = some r) (hbegun : r.begun = false) (hgo : restartWaits s r.component r.unit = false) :
    beginRestart s = match r.component with
      | 2 => updField r.unit (fun x => { x with ready := false }) (unitClaimed r s)
      | 4 => linkGone r.unit (unitClaimed r s)
      | _ => unitClaimed r s := by
  have hstart : ¬ (r.begun || restartWaits s r.component r.unit) = true := by
    rw [hbegun, hgo]
    decide
  unfold beginRestart
  rw [h]
  dsimp only
  rw [if_neg hstart]
  rfl

theorem beginRestart_spec {s : State} {r : Restart} (h : s.boot.restart = some r) (hbegun : r.begun = false) (hgo : restartWaits s r.component r.unit = false) :
    (beginRestart s).boot.restart = some { r with begun := true } ∧ (r.component = 2 → (fieldOf (beginRestart s) r.unit).ready = false) ∧
      (r.component = 4 → (linkAt (beginRestart s) r.unit).st = .down) := by
  have hclaimed : (unitClaimed r s).boot.restart = some { r with begun := true } :=
    congrArg BootUnit.restart (BootKept.foldl (fun _ _ => .ofClaimPage ..) ..).boot
  rw [beginRestart_begins h hbegun hgo]
  generalize unitClaimed r s = u at hclaimed
  split
  · next hc => exact ⟨hclaimed, fun _ => congrArg _ (fieldOf_updField_same ..), fun h4 => absurd (hc.symm.trans h4) (by decide)⟩
  · next hc =>
    refine ⟨(congrArg BootUnit.restart (BootKept.ofLinkGone r.unit u).boot).trans hclaimed, fun h2 => absurd (hc.symm.trans h2) (by decide), fun _ => ?_⟩
    by_cases hdown : (linkAt u r.unit).st = .down
    · rw [linkGone, if_pos hdown]
      exact hdown
    · exact (linkGone_down hdown).1
  · next h2 h4 => exact ⟨hclaimed, fun h => absurd h h2, fun h => absurd h h4⟩

/-! ### A restarting unit boots (R515) -/

theorem boot_tryTrain (n : Nat) (s : State) : (tryTrain n s).boot = s.boot := by
  unfold tryTrain
  dsimp only
  split <;> rfl

theorem boot_putLimit (f : Nat) (s : State) : (putLimit f s).boot = s.boot := by
  have hcore (c : Nat) (t : State) : BootKept t (updCore c (meetWaits fun w => w == .quota) (grantPermit c t)) := ⟨rfl⟩
  have hgrant (n : Nat) (t : State) : BootKept t (grantWaiting f n t) := by
    induction n generalizing t with
    | zero => exact .refl t
    | succ n ih =>
      unfold grantWaiting
      split
      · exact .refl t
      · split
        · exact (hcore ..).trans (ih _)
        · exact .refl t
  unfold putLimit
  split
  · rfl
  · exact ((BootKept.ofSetLive ..).trans (hgrant ..)).boot

/-- What a booted unit does next leaves the components, and the units that wait to restart. -/
theorem bootRuns_unitBooted (bad : List Nat) (c u : Nat) (s : State) : bootRuns (unitBooted bad c u s) = bootRuns s := by
  have hof {t v : State} (h : v.boot = t.boot) : bootRuns v = bootRuns t := BootKept.runs ⟨h⟩
  have hfault (f : Nat) (e : Code) (t : State) : bootRuns (fieldFault f e t) = bootRuns t := rfl
  have hfield (f : Nat) (g : FieldPower → FieldPower) (t : State) : bootRuns (updField f g t) = bootRuns t := rfl
  unfold unitBooted
  dsimp only
  split
  · exact hof (settleCmds_kept s).1
  · split
    · rfl
    · exact bootRuns_mcRecords ..
  · split
    · rw [hfault, bootRuns_imposeDark]
    · rw [hof (boot_putLimit ..), hfield]
  · split
    · rw [hfault, bootRuns_imposeDark]
    · rfl
  · split
    · rfl
    · exact hof (boot_tryTrain ..)
  · rfl

theorem componentBoot_idle {bad : List Nat} {s : State} (h : ∀ r, s.boot.restart = some r → r.begun = false) : componentBoot bad s = s := by
  unfold componentBoot
  split
  · rfl
  · next r hr =>
    rw [h r hr]
    rfl

/-- The unit has booted, and the next of the component is named. -/
def unitRestarted (bad : List Nat) (r : Restart) (next : List Nat) (s : State) : State :=
  unitBooted bad r.component r.unit (updBoot (fun x => { x with restart := next.head?.map fun u => ⟨r.component, u, next.drop 1, false⟩ }) (bootUnit r.component r.unit s).2)

theorem compAt_unitRestarted (bad : List Nat) (r : Restart) (next : List Nat) (s : State) :
    compAt (unitRestarted bad r next s) r.component = compAt (bootUnit r.component r.unit s).2 r.component ∧
      (unitRestarted bad r next s).boot.restart = next.head?.map fun u => ⟨r.component, u, next.drop 1, false⟩ := by
  obtain ⟨hcomps, hrestart⟩ := Prod.mk.inj (bootRuns_unitBooted bad r.component r.unit
    (updBoot (fun x => { x with restart := next.head?.map fun u => ⟨r.component, u, next.drop 1, false⟩ }) (bootUnit r.component r.unit s).2))
  exact ⟨congrArg (fun m : Map Component => mget Component.reset m r.component) hcomps, hrestart⟩

theorem componentBoot_boots {bad : List Nat} {s : State} {r : Restart} (h : s.boot.restart = some r) (hbegun : r.begun = true) :
    componentBoot bad s = let next := if (bootUnit r.component r.unit s).1 then r.rest else []
      let t := unitRestarted bad r next s
      if next.isEmpty then (if (compAt t r.component).dead.contains r.unit then fwResult 3 E.fwFallback t else fwResult 2 0 t) else beginRestart t := by
  unfold componentBoot
  rw [h]
  dsimp only
  rw [hbegun]
  rfl

theorem componentBoot_last {bad : List Nat} {s : State} {r : Restart} (h : s.boot.restart = some r) (hbegun : r.begun = true)
    (hlast : r.rest = [] ∨ (bootUnit r.component r.unit s).1 = false) :
    componentBoot bad s = if (compAt (bootUnit r.component r.unit s).2 r.component).dead.contains r.unit then fwResult 3 E.fwFallback (unitRestarted bad r [] s)
      else fwResult 2 0 (unitRestarted bad r [] s) := by
  have hnext : (if (bootUnit r.component r.unit s).1 then r.rest else []) = [] := by
    rcases hlast with h' | h' <;> simp [h']
  rw [componentBoot_boots h hbegun]
  dsimp only
  rw [hnext, (compAt_unitRestarted ..).1]
  rfl

theorem componentBoot_next {bad : List Nat} {s : State} {r : Restart} {u : Nat} {l : List Nat} (h : s.boot.restart = some r) (hbegun : r.begun = true)
    (hrest : r.rest = u :: l) (hran : (bootUnit r.component r.unit s).1 = true) : componentBoot bad s = beginRestart (unitRestarted bad r (u :: l) s) := by
  rw [componentBoot_boots h hbegun, hran, hrest]
  rfl

end Sys2Proof.Machine
end

section
/-! Start-up, self-test and firmware commands (R408, R410, R504, R508, R509, R511, R512, R514 to R516, R523). -/

namespace Sys2Proof.Machine

open Sys2Proof

/-- What the security engine's boot leaves (R508). -/
theorem seBootDone_spec {s : State} (h : s.boot.stage = 1) (hdead : (compAt (bootUnit 0 0 s).2 0).dead.contains 0 = false) : let t := seBootDone s
    t.boot.stage = 2 ∧ t.sec.bootId.isSome = true ∧ t.serving.pubKey.length = 32 ∧ t.sec.kemSeed.length = 64 ∧
      ((seRead s 1).isSome = true → t.sec.identityOk = true) ∧ (seRead s 1 = none → t.sec.identityOk = false ∧ t.boot.serviceMode = true) ∧
      (∀ l, seRead s 2 = some l → t.sec.leaf = le l 0 4 ∧ t.sec.reservedTo = le l 0 4 ∧ t.sec.tree = leafTree l ∧ (2 ^ 30 ≤ le l 0 4 → t.sec.signHalt = true)) ∧
      (seRead s 2 = none → t.sec.signHalt = true ∧ t.boot.serviceMode = true) := by
  obtain ⟨u, hdrawn, heq⟩ := seBootDone_boots h hdead
  have hfirst := Boots.ofBootUnit 0 0 s
  obtain ⟨hrecords, hid, hnoId⟩ := identityRead_spec (bootUnit 0 0 s).2
  obtain ⟨hkeep, hmono, hleaf, hnoLeaf⟩ := leafRead_spec (identityRead (bootUnit 0 0 s).2)
  rw [seRead_congr hfirst.records] at hid hnoId
  rw [seRead_congr (hrecords.trans hfirst.records)] at hleaf hnoLeaf
  generalize leafRead (identityRead (bootUnit 0 0 s).2) = v at *
  have hlast := Boots.ofBootUnit 1 0 u
  have hsec : sansQueue (seBootDone s) = sansQueue u := by
    rw [heq, sansQueue_settleCmds, sansQueue_congr hlast.sec]
  obtain ⟨id, seed, hrest⟩ := hdrawn.rest
  have hfield {α : Type} (f : SecEngine → α) (hf : ∀ s, f (sansQueue s) = f s.sec) : f (seBootDone s).sec = f u.sec := by
    rw [← hf, hsec, hf]
  have hrestField {α : Type} (f : SecEngine → α) (hf : ∀ s, f (sansQueue s) = f s.sec) (hv : ∀ x : SecEngine, f { x with bootId := id, kemSeed := seed } = f x) :
      f (seBootDone s).sec = f v.sec := by
    rw [hfield f hf, hrest, hv]
  have hboot : (seBootDone s).boot = (bootUnit 1 0 u).2.boot := by rw [heq, (settleCmds_kept _).1]
  have hmode (hm : v.boot.serviceMode = true) : (seBootDone s).boot.serviceMode = true := by
    rw [hboot]
    exact hlast.mode (by rw [hdrawn.boot]; exact hm)
  have hidentity : (seBootDone s).sec.identityOk = v.sec.identityOk := hrestField SecEngine.identityOk (fun _ => rfl) (fun _ => rfl)
  have hhalt : (seBootDone s).sec.signHalt = v.sec.signHalt := hrestField SecEngine.signHalt (fun _ => rfl) (fun _ => rfl)
  refine ⟨?_, ?_, ?_, ?_, fun hi => hidentity.trans (hkeep.trans (hid hi)), fun hi => ⟨hidentity.trans (hkeep.trans (hnoId hi).1), hmode (hmono (hnoId hi).2)⟩,
    fun l hl => ?_, fun hl => ⟨hhalt.trans (hnoLeaf hl).1, hmode (hnoLeaf hl).2⟩⟩
  · rw [hboot, hlast.stage, hdrawn.boot]
  · rw [hfield SecEngine.bootId fun _ => rfl]
    exact hdrawn.bootId
  · rw [heq, (settleCmds_kept _).2, hlast.serving]
    exact hdrawn.pubKey
  · rw [hfield SecEngine.kemSeed fun _ => rfl]
    exact hdrawn.kemSeed
  · obtain ⟨hnext, hto, htree, hspent⟩ := hleaf l hl
    exact ⟨(hrestField SecEngine.leaf (fun _ => rfl) (fun _ => rfl)).trans hnext, (hrestField SecEngine.reservedTo (fun _ => rfl) (fun _ => rfl)).trans hto,
      (hrestField SecEngine.tree (fun _ => rfl) (fun _ => rfl)).trans htree, fun hmax => hhalt.trans (hspent hmax)⟩

theorem execFwActivate_reaches {m : Master} {c : Fin 8} {s : State} (h : reaches m s = true) : exec (.fwActivate m c) s = .next (fwActivate c.val s).2 :=
  congrArg Host.Outcome.next (onPage_acts h rfl)

theorem execFwRestart_reaches {m : Master} {c : Fin 8} {u : Byte} {s : State} (h : reaches m s = true) :
    exec (.fwRestart m c u) s = .next (fwRestart c.val u.toNat s).2 :=
  congrArg Host.Outcome.next (onPage_acts h rfl)

/-- A self-test of one core that failed (R511). -/
theorem selftestDone_core {n : Fin 80} {y : Fin 60} {x : Fin 64} {r : Fin 6} (flash : Bool) {s : State} (h : s.boot.testing.contains n.val = true)
    (henabled : coreEnabled s (4096 * n.val + y.val * 64 + x.val) = true) (hfail : r.val ≠ 0) : let c := 4096 * n.val + y.val * 64 + x.val
    let t := selftestDone n.val [(y, x, r)] flash s
    (r.val ≠ 5 → (repairOf t c).enabled = false ∧ (repairOf t c).reason = BitVec.ofNat 8 r.val ∧
        (repairOf t c).routerRetired = (repairOf s c).routerRetired ∧ t.fields = s.fields ∧ ∀ k, k ≠ c → repairOf t k = repairOf s k) ∧
      (r.val = 5 → mayRetire s c = true → (repairOf t c).enabled = false ∧ (repairOf t c).routerRetired = true) ∧
      (r.val = 5 → mayRetire s c = false → fieldSt t n.val = .dark ∧ (fieldOf t n.val).darkBy = some 9) := by
  intro c t
  have hkept : FloorKept (testFails n.val (tested n.val s) (y, x, r)) t := by
    unfold t
    rw [selftestDone_tested h]
    exact floorSettled_kept ..
  have hrepair (k : Nat) : repairOf t k = repairOf (testFails n.val (tested n.val s) (y, x, r)) k := by rw [repairOf, repairOf, hkept.repair]
  have hcore : coreEnabled (tested n.val s) c = true := henabled
  have hsame : (tested n.val s).fields = s.fields ∧ ∀ k, repairOf (tested n.val s) k = repairOf s k := ⟨rfl, fun _ => rfl⟩
  refine ⟨fun hr => ?_, fun hr hmay => ?_, fun hr hmay => ?_⟩
  · obtain ⟨hfields, hall⟩ := retireOne_spec (BitVec.ofNat 8 r.val) false hcore
    have hact : testFails n.val (tested n.val s) (y, x, r) = retireOne c (BitVec.ofNat 8 r.val) false (tested n.val s) := testFails_core rfl hcore hfail hr
    rw [hact] at hkept
    simp only [hrepair, hact, hall]
    refine ⟨by rw [if_pos trivial], by rw [if_pos trivial], ?_, hkept.fields.trans (hfields.trans hsame.1), fun k hk => ?_⟩
    · rw [if_pos trivial, Bool.or_false, hsame.2]
    · rw [if_neg hk.symm, hsame.2]
  · have hact : testFails n.val (tested n.val s) (y, x, r) = retireOne c (BitVec.ofNat 8 r.val) true (tested n.val s) := testFails_router rfl hcore hfail hr hmay
    rw [hrepair, hact, (retireOne_spec (BitVec.ofNat 8 r.val) true hcore).2, if_pos rfl]
    exact ⟨rfl, Bool.or_true _⟩
  · have hact : testFails n.val (tested n.val s) (y, x, r) = fieldFault n.val E.fabricLinkFail (imposeDark n.val 9 (tested n.val s)) :=
      testFails_field rfl hcore hfail hr hmay
    rw [hact] at hkept
    rw [fieldSt_congr hkept.fields, fieldOf_congr hkept.fields]
    exact darkBy_fieldFault ..

/-- An FCU that has booted is ready. -/
theorem ready_unitBooted {bad : List Nat} {u : Nat} {s : State} (h : (compAt s 2).dead.contains u = false) : (fieldOf (unitBooted bad 2 u s) u).ready = true := by
  have hact : unitBooted bad 2 u s = putLimit u (updField u (fun x => { x with ready := true }) s) := if_neg (by rw [h]; decide)
  rw [hact, fieldOf_congr (fields_putLimit ..), fieldOf_updField_same]

theorem ready_unitRestarted {bad : List Nat} {r : Restart} {s : State} (hc : r.component = 2) (hdead : (compAt (bootUnit 2 r.unit s).2 2).dead.contains r.unit = false) :
    (fieldOf (unitRestarted bad r [] s) r.unit).ready = true := by
  rw [unitRestarted, hc]
  exact ready_unitBooted hdead

/-- Settles O46, clause by clause from the boots, the self-tests and the units that restart. -/
theorem startUpSelfTestAndFirmwareCommands : Obligations.StartUpSelfTestAndFirmwareCommands := by
  unfold Obligations.StartUpSelfTestAndFirmwareCommands
  intro s seOk
  refine ⟨fun h => ⟨_, rfl, seBootDone_other h⟩, fun h hdead => ⟨_, rfl, seBootDone_dead h hdead⟩, fun h => ⟨_, rfl, seBootDone_spec h.1 h.2⟩,
    fun now bad hub h => ⟨_, rfl, if_pos h⟩, fun now bad hub h hdead => ?_, fun h => ?_, fun h => ⟨_, rfl, if_neg h⟩,
    fun n l flash h => ⟨⟨_, rfl, selftestDone_other h⟩, _, rfl, if_neg (by rw [h]; decide)⟩, fun n flash h hmore => ⟨_, rfl, selftestDone_none flash h hmore⟩,
    fun n l flash h => ⟨_, rfl, selftestDone_spec l flash h⟩, fun n y x r flash => ?_, fun n h => ?_, fun m c e hm hc => ?_, fun m c hm hc => ?_,
    fun c h => activateCheck_unstaged h, fun m c u e hm hc => ?_, fun m c u hm hc => ?_, fun r hr hbegun hgo => beginRestart_spec hr hbegun hgo,
    fun r hr hwait => beginRestart_waits hr hwait, fun bad h => ⟨_, rfl, componentBoot_idle h⟩, fun bad r hr hbegun hlast => ?_,
    fun bad r u l hr hbegun hrest hran => ?_, fun bad r hr hbegun hc hrest hdead => ?_⟩
  · obtain ⟨c, hc⟩ := mcBootDone_spec now (bad.map (·.val)) hub h hdead
    exact ⟨_, c, rfl, hc⟩
  · refine ⟨endFields s, congrArg Host.Outcome.next (if_pos h), rfl, rfl, ?_, rfl⟩
    have hramps (t : State) : liveF (setLiveF pPm 0x44 22 16 4 t) pPm 0x44 22 16 = 4 := by
      rw [liveF, setLiveF, live_setLive_same, bits_withBits _ (by decide) (by decide) (by decide)]
    exact hramps _
  · intro c h henabled hr
    obtain ⟨hcore, hrouter, hfield⟩ := selftestDone_core flash h henabled hr
    exact ⟨fun h5 => ⟨_, rfl, hcore h5⟩, fun h5 hmay => ⟨_, rfl, hrouter h5 hmay⟩, fun h5 hmay => ⟨_, rfl, hfield h5 hmay⟩⟩
  · obtain ⟨c, hc⟩ := selftestTimeout_spec h
    exact ⟨_, c, rfl, hc⟩
  · obtain ⟨hcomps, -, hidle, hbusy⟩ := fwRefused_spec e s
    exact ⟨_, execFwActivate_reaches hm, fwActivate_refused hc ▸ ⟨hcomps, hidle, hbusy⟩⟩
  · exact ⟨_, execFwActivate_reaches hm, fwActivate_taken hc⟩
  · obtain ⟨-, hrestart, hidle, hbusy⟩ := fwRefused_spec e s
    exact ⟨_, execFwRestart_reaches hm, fwRestart_refused hc ▸ ⟨hrestart, hidle, fun hne => (hbusy hne).1⟩⟩
  · have hunit : (if u.toNat = 0xFF then List.range (unitsOfComp c.val) else [u.toNat]) = if u = 0xFF then List.range (unitsOfComp c.val) else [u.toNat] :=
      if_congr (by rw [← BitVec.toNat_inj]; rfl) rfl rfl
    exact ⟨_, _, _, execFwRestart_reaches hm, fwRestart_taken hc, rfl, rfl, by rw [hunit]⟩
  · refine ⟨_, rfl, ?_⟩
    rw [componentBoot_last hr hbegun hlast]
    have hrestart := (compAt_unitRestarted (bad.map (·.val)) r [] s).2
    split
    · next hdead => exact ⟨hrestart, fun h => absurd (hdead.symm.trans h) (by decide), fun _ => ⟨rfl, rfl⟩⟩
    · next hran => exact ⟨hrestart, fun _ => ⟨rfl, rfl⟩, fun h => absurd h hran⟩
  · exact ⟨_, _, rfl, componentBoot_next hr hbegun hrest hran, (compAt_unitRestarted ..).2⟩
  · refine ⟨_, rfl, ?_⟩
    have hdead' : ¬ (compAt (bootUnit r.component r.unit s).2 r.component).dead.contains r.unit = true := by
      rw [hc, hdead]
      decide
    rw [componentBoot_last hr hbegun (.inl hrest), if_neg hdead']
    exact ready_unitRestarted hc hdead

end Sys2Proof.Machine
end

section
/-! What suspension and losses leave of the running plan, the queue and the placements (R274, R309, R488). -/

namespace Sys2Proof.Machine

open Sys2Proof

/-- The plan and the queue are as they were, and so are placement and suspension of the models in `keep`. -/
structure Held (keep : Nat → Prop) (s t : State) : Prop where
  plan : t.recov.plan = s.recov.plan
  queue : t.recov.queue = s.recov.queue
  model : ∀ m, keep m → (modelAt t m).place = (modelAt s m).place ∧ (modelAt t m).suspended = (modelAt s m).suspended

namespace Held

variable {keep : Nat → Prop}

theorem refl (s : State) : Held keep s s := ⟨rfl, rfl, fun _ _ => ⟨rfl, rfl⟩⟩

theorem trans {s t u : State} (h : Held keep s t) (h' : Held keep t u) : Held keep s u :=
  ⟨h'.plan.trans h.plan, h'.queue.trans h.queue, fun m hm => ⟨(h'.model m hm).1.trans (h.model m hm).1, (h'.model m hm).2.trans (h.model m hm).2⟩⟩

theorem foldl {α : Type} {f : State → α → State} (hf : ∀ s x, Held keep s (f s x)) (l : List α) (s : State) : Held keep s (l.foldl f s) := by
  induction l generalizing s with
  | nil => exact refl s
  | cons x l ih => exact (hf s x).trans (ih _)

theorem of_parts {s t : State} (hr : t.recov = s.recov) (hm : t.weights.models = s.weights.models) : Held keep s t :=
  ⟨congrArg Recovery.plan hr, congrArg Recovery.queue hr, fun m _ => by rw [modelAt, modelAt, hm]; exact ⟨rfl, rfl⟩⟩

theorem of_offRegs {s t : State} (h : offRegs t = offRegs s) : Held keep s t := of_parts (congrArg State.recov h :) (congrArg (·.weights.models) h :)
theorem of_offLinks {s t : State} (h : offLinks t = offLinks s) : Held keep s t := of_parts (congrArg State.recov h :) (congrArg (·.weights.models) h :)

theorem ofSetLive (p off : Nat) (v : Word) (s : State) : Held keep s (setLive p off v s) := of_parts rfl rfl
theorem ofSetBoth (p off : Nat) (v : Word) (s : State) : Held keep s (setBoth p off v s) := of_parts rfl rfl
theorem ofUpdServing (f : Serving → Serving) (s : State) : Held keep s (updServing f s) := of_parts rfl rfl
theorem ofUpdStream (i : Nat) (f : Stream → Stream) (s : State) : Held keep s (updStream i f s) := of_parts rfl rfl
theorem ofUpdCore (c : Nat) (f : Core → Core) (s : State) : Held keep s (updCore c f s) := of_parts rfl rfl
theorem ofRaiseIrq (v : Nat) (s : State) : Held keep s (raiseIrq v s) := of_offRegs (offRegs_raiseIrq ..)
theorem ofLogPut (c : Code) (kind result unit us : Nat) (s : State) : Held keep s (logPut c kind result unit us s) := ⟨rfl, rfl, fun _ _ => ⟨rfl, rfl⟩⟩

/-- A model may change in anything else, or where it is not kept. -/
theorem ofUpdModel {m : Nat} {f : Model → Model} (hf : keep m → ∀ x, (f x).place = x.place ∧ (f x).suspended = x.suspended) (s : State) :
    Held keep s (updModel m f s) := by
  refine ⟨rfl, rfl, fun k hk => ?_⟩
  have hset : modelAt (updModel m f s) k = if m = k then f (modelAt s m) else modelAt s k := mget_mset Model.reset ..
  rw [hset]
  split
  · next h =>
    subst h
    exact hf hk _
  · exact ⟨rfl, rfl⟩

/-! ### Streams (R269, R309, R319, R332) -/

theorem ofFreeStage (i m : Nat) (s : State) : Held keep s (freeStage i m s) := ofUpdModel (fun _ _ => by exact ⟨rfl, rfl⟩) s
theorem ofFreeFrame (m : Nat) (stack : Bool) (k : Nat) (s : State) : Held keep s (freeFrame m stack k s) := ofUpdModel (fun _ _ => by exact ⟨rfl, rfl⟩) s

theorem ofPxRelease (e : Nat) (s : State) : Held keep s (pxRelease e s) := by
  have hset (i : Nat) (x : Option PxEntry) (t : State) : Held keep t (setPx i x t) := ofUpdServing ..
  unfold pxRelease
  split
  · split
    · exact (hset ..).trans (ofFreeFrame ..)
    · exact hset ..
  · exact refl s

theorem ofReleaseKv (i m : Nat) (draft : Bool) (s : State) : Held keep s (releaseKv i m draft s) := by
  have hreserved (n : Nat) (t : State) : Held keep t (subReserved m n t) := ofUpdModel (fun _ _ => by exact ⟨rfl, rfl⟩) t
  unfold releaseKv
  extract_lets k s₁ s₂ s₃
  have hblocks : Held keep s s₁ := by
    refine foldl (fun t e => ?_) k.blocks s
    split
    · exact refl t
    · exact ofFreeFrame ..
  have hcand : Held keep s₁ s₂ := by
    unfold s₂
    split
    · exact ofFreeFrame ..
    · exact refl s₁
  have hentries : Held keep s₂ s₃ := foldl (fun t e => ofPxRelease e t) k.entries s₂
  clear_value s₁ s₂ s₃
  exact ((hblocks.trans hcand).trans hentries).trans ((hreserved ..).trans (ofUpdStream ..))

theorem ofFreeStream (i : Nat) (s : State) : Held keep s (freeStream i s) := by
  have hstream (x : Stream) (t : State) : Held keep t (setStream i x t) := ofUpdServing ..
  have hsession (h : Nat) (x : Session) (t : State) : Held keep t (setSession h x t) := of_parts rfl rfl
  have hown (m : Nat) (draft : Bool) (t : State) : Held keep t (freeStage i m (releaseKv i m draft t)) := (ofReleaseKv ..).trans (ofFreeStage ..)
  unfold freeStream
  extract_lets x s₁ s₂ s₃ y s₄
  have hadapter : Held keep s s₁ := by
    unfold s₁
    split
    · exact of_parts rfl rfl
    · exact refl s
  have hmodel : Held keep s₁ s₂ := hown ..
  have hdraft : Held keep s₂ s₃ := by
    unfold s₃
    split
    · exact hown ..
    · exact refl s₂
  have hbound : Held keep s₃ s₄ := by
    unfold s₄
    split
    · exact hsession ..
    · exact refl s₃
  exact (((hadapter.trans hmodel).trans hdraft).trans hbound).trans (hstream ..)

theorem ofNotice (i : Nat) (c : Code) (ended : Bool) (s : State) : Held keep s (notice i c ended s) := by
  have hcode : Held keep s (setLastCode i c s) := ofUpdStream ..
  unfold notice
  dsimp only
  split
  · exact hcode.trans (ofUpdServing ..)
  · exact hcode.trans (ofUpdServing ..)

theorem ofEndWith (i : Nat) (c : Code) (s : State) : Held keep s (endWith i c s) := by
  have hend (t : State) : Held keep t (endStream i c t) := by
    unfold endStream
    dsimp only
    split
    · exact refl t
    · exact refl t
    · split
      · exact ofUpdStream ..
      · exact ofFreeStream ..
  unfold endWith
  split
  · exact hend s
  · exact (ofNotice ..).trans (hend _)

theorem ofFlightEnds (m e : Nat) (s : State) : Held keep s (flightEnds m e s) := by
  unfold flightEnds setInflight
  split
  · exact ofSetLive ..
  · exact ofSetLive ..

theorem ofBatchEnds (b : Nat) (s : State) : Held keep s (batchEnds b s) := by
  unfold batchEnds
  split
  · split
    · exact ((ofUpdServing ..).trans (ofFlightEnds ..)).trans (ofFreeStage ..)
    · exact ofUpdServing ..
  · exact refl s

theorem ofStepLeaves (i : Nat) (r : StepRec) (s : State) : Held keep s (stepLeaves i r s) := by
  unfold stepLeaves
  extract_lets x own s₁ s₂
  have hstep : Held keep s s₁ := by
    unfold s₁
    split
    · exact ofBatchEnds ..
    · have hown : Held keep s own := by
        unfold own
        split
        · exact refl s
        · exact ofFlightEnds ..
      split
      · exact hown.trans (ofFlightEnds ..)
      · exact hown
  have hstage : Held keep s₁ s₂ := ofFreeStage ..
  split
  · exact (hstep.trans hstage).trans (ofFreeStage ..)
  · exact hstep.trans hstage

theorem ofAbandonStep (i : Nat) (s : State) : Held keep s (abandonStep i s) := by
  have hend (t : State) : Held keep t (endNotice i t) := (ofNotice ..).trans (ofFreeStream ..)
  have hissue (r : StepRec) (l : List Nat) (t : State) : Held keep t (reissue i r l t) := ofUpdStream ..
  unfold abandonStep
  dsimp only
  split
  · exact refl s
  · split
    · exact ((ofStepLeaves ..).trans (ofUpdStream ..)).trans (hend _)
    · exact ((ofStepLeaves ..).trans (ofUpdStream ..)).trans (hissue ..)

theorem ofPxDetachAll (p : PxEntry → Bool) (s : State) : Held keep s (pxDetachAll p s) := by
  have hset (i : Nat) (x : Option PxEntry) (t : State) : Held keep t (setPx i x t) := ofUpdServing ..
  have hchild (k : Nat) (up : Bool) (t : State) : Held keep t (pxChild k up t) := by
    unfold pxChild
    split
    · exact hset ..
    · exact refl t
  refine foldl (fun t e => ?_) ..
  unfold pxDetach
  split
  · split
    · exact refl t
    · dsimp only
      split
      · exact (hchild ..).trans ((hset ..).trans (ofFreeFrame ..))
      · exact (hchild ..).trans (hset ..)
  · exact refl t

/-! ### Cores, routers, tallies and channels (R134, R203, R232, R274) -/

theorem ofInjectEngine (r : Nat) (m : Msg) (s : State) : Held keep s (injectEngine r m s) := by
  unfold injectEngine
  split
  · exact of_parts rfl rfl
  · exact of_parts rfl rfl

theorem ofWakeWaiters (n : Nat) (s : State) : Held keep s (wakeWaiters n s) := by
  have hsend (key : Nat) (w : Waiter) (t : State) : Held keep t (sendWake key n w t) := by
    unfold sendWake
    dsimp only
    split
    · exact ofInjectEngine ..
    · exact ofInjectEngine ..
  have hwaits (w : Map (List WaitEntry)) (t : State) : Held keep t { t with waits := w } := of_parts rfl rfl
  refine foldl (fun t key => ?_) ..
  dsimp only
  split
  · exact refl t
  · exact (hwaits ..).trans (foldl (fun _ _ => hsend ..) ..)

theorem ofFlush (f : Nat) (s : State) : Held keep s (flushMerge f (flushReduce f s)) := by
  have hset (r : Nat) (x : Router) (t : State) : Held keep t (setRouter r x t) := of_parts rfl rfl
  have hreduce : Held keep s (flushReduce f s) := foldl (fun _ _ => (ofSetLive ..).trans (hset ..)) ..
  exact hreduce.trans (foldl (fun _ _ => hset ..) ..)

theorem ofFreeRegion (q : StackRec) (s : State) : Held keep s (freeRegion q s) := by
  unfold freeRegion
  split
  · exact of_parts rfl rfl
  · exact refl s

theorem ofFreeTally (n : Nat) (s : State) : Held keep s (freeTally n s) := by
  have hset (x : Tally) (t : State) : Held keep t (setTally n x t) := of_parts rfl rfl
  have howner (t : State) : Held keep t { t with tallyOwner := mdel t.tallyOwner n } := of_parts rfl rfl
  unfold freeTally
  extract_lets s₁ s₂
  have htarget : Held keep s s₁ := by
    unfold s₁
    split
    · exact ofSetBoth ..
    · exact of_parts rfl rfl
  exact htarget.trans (((hset ..).trans (ofWakeWaiters ..)).trans (howner _))

theorem ofGrantWaiting (f n : Nat) (s : State) : Held keep s (grantWaiting f n s) := by
  have hgrant (c : Nat) (t : State) : Held keep t (updCore c (meetWaits fun w => w == .quota) (grantPermit c t)) := of_parts rfl rfl
  induction n generalizing s with
  | zero => exact refl s
  | succ n ih =>
    unfold grantWaiting
    split
    · exact refl s
    · split
      · exact (hgrant ..).trans (ih _)
      · exact refl s

theorem ofFreeCore (c : Nat) (s : State) : Held keep s (freeCore c s) := by
  have hunits (f : Nat) (x : FieldUnits) (t : State) : Held keep t (setUnits f x t) := of_parts rfl rfl
  have hcredits (n : Nat) (t : State) : Held keep t { t with credits := n } := of_parts rfl rfl
  have hpermit (t : State) : Held keep t (releasePermit c t) := by
    unfold releasePermit
    dsimp only
    split
    · exact (hunits ..).trans (ofGrantWaiting ..)
    · exact refl t
  have hgives : Held keep s (giveUpUnits c s) := ((hcredits _ s).trans (hpermit _)).trans (hunits ..)
  have hclear (p : Nat → Bool) (t : State) : Held keep t { clearMem p t with owner := mdel t.owner c } := of_parts rfl rfl
  exact (hgives.trans (ofUpdCore ..)).trans (hclear ..)

theorem ofChAbort (n ch : Nat) (s : State) : Held keep s (chAbort n ch s) := by
  have hchan (f : Chan → Chan) (t : State) : Held keep t (updChan n ch f t) := of_parts rfl rfl
  have hseg (g : Seg) (t : State) : Held keep t (dropSeg n ch g t) := of_parts rfl rfl
  have hcredits (k : Nat) (t : State) : Held keep t { t with credits := k } := of_parts rfl rfl
  have hdesc : Held keep s (freeDesc n ch s) := ((foldl (fun _ _ => hseg ..) ..).trans (hchan ..)).trans (hcredits ..)
  have hidle (f : Chan → Chan) : Held keep s (updChan n ch f (if (chanAt (stackAt s n) ch).desc.isSome then freeDesc n ch s else s)) := by
    refine trans ?_ (hchan ..)
    split
    · exact hdesc
    · exact refl s
  have hstop : Held keep s (if (chanAt (stackAt s n) ch).segs.isEmpty then
      updChan n ch (fun c => { c with st := .idle, desc := none, aborting := false }) (if (chanAt (stackAt s n) ch).desc.isSome then freeDesc n ch s else s)
      else updChan n ch (fun c => { c with aborting := true, st := .running }) s) := by
    split
    · exact hidle _
    · exact hchan ..
  unfold chAbort
  dsimp only
  split
  · exact hstop
  · exact hstop
  · exact hstop
  · exact refl s

/-! ### Installs (R264) -/

theorem ofWriteStack (k : StoreKey) (chk : StackCheck) (a : Nat) (l : List Byte) (s : State) : Held keep s (writeStack k chk a l s) := by
  have hunit (b : Nat) (v : List Byte) (t : State) : Held keep t (writeUnit k chk b v t) := of_parts rfl rfl
  exact foldl (fun _ _ => hunit ..) ..

theorem ofFreshBytes (n : Nat) (s : State) : Held keep s (freshBytes n s).2 := by
  obtain ⟨k, hk⟩ := freshBytes_state n s
  rw [hk]
  exact of_parts rfl rfl

theorem ofOpenStack (n off len : Nat) (s : State) : Held keep s (openStack n off len s) := by
  unfold openStack
  split
  · exact refl s
  · split
    · exact refl s
    · exact (ofFreshBytes ..).trans (ofWriteStack ..)

theorem ofOpenCore (c a len : Nat) (s : State) : Held keep s (openCore c a len s) := by
  have hmem (b : Nat) (l : List Byte) (t : State) : Held keep t (writeMem b l t) := of_parts rfl rfl
  unfold openCore
  split
  · exact refl s
  · exact (ofFreshBytes ..).trans (hmem ..)

theorem ofOpenUnit (p : Placed) (staged : Bool) (r : GRange) (u : Nat) (s : State) : Held keep s (openUnit p staged r u s) := by
  unfold openUnit
  dsimp only
  split
  · exact refl s
  · split
    · have hcore : Held keep s (if staged then s else match coreUnit p r u with
          | some e => openCore e.1 e.2 (unitLen r u) s
          | none => s) := by
        split
        · exact refl s
        · split
          · exact ofOpenCore ..
          · exact refl s
      split
      · exact hcore
      · exact hcore.trans (ofOpenStack ..)
    · exact ofOpenStack ..

theorem ofOpenRanges (i : Inst) (s : State) : Held keep s (openRanges i s) := by
  unfold openRanges
  split
  · exact refl s
  · exact foldl (fun _ _ => ofOpenUnit ..) ..

theorem ofEpochEmpty (m e : Nat) (s : State) : Held keep s (epochEmpty m e s) := by
  have himg (x : Model) : (setEpImg e none x).place = x.place ∧ (setEpImg e none x).suspended = x.suspended := by
    unfold setEpImg
    split <;> exact ⟨rfl, rfl⟩
  have hstate (v : Nat) (t : State) : Held keep t (setEpochSt m e v t) := ofSetLive ..
  have hstaged (v : Bool) (t : State) : Held keep t (setStaged m e v t) := ofSetLive ..
  exact (((ofUpdModel (fun _ => himg) s).trans (hstate ..)).trans (hstaged ..)).trans (ofPxDetachAll ..)

/-- A model that becomes EMPTY leaves every other one as it is. -/
theorem ofEmptyModel {m : Nat} (hm : ¬ keep m) (s : State) : Held keep s (emptyModel m s) := by
  have hmodel (f : Model → Model) (t : State) : Held keep t (updModel m f t) := ofUpdModel (fun h => absurd h hm) t
  have hreset (t : State) : Held keep t (setModel m .reset t) := hmodel (fun _ => .reset) t
  have hdebug (t : State) : Held keep t { t with debugModels := without m t.debugModels } := of_parts rfl rfl
  have hcores (l : List Nat) (t : State) : Held keep t (l.foldl (fun s c => freeCore c s) t) := foldl (fun _ _ => ofFreeCore ..) ..
  have hflush (l : List Nat) (t : State) : Held keep t (l.foldl (fun s f => flushMerge f (flushReduce f s)) t) := foldl (fun _ _ => ofFlush ..) ..
  have hregions (l : List StackRec) (t : State) : Held keep t (l.foldl (fun s q => freeRegion q s) t) := foldl (fun _ _ => ofFreeRegion ..) ..
  have htallies (l : List (Nat × Nat)) (t : State) : Held keep t (l.foldl (fun s e => freeTally e.1 s) t) := foldl (fun _ _ => ofFreeTally ..) ..
  have hquotas (l : List Nat) (t : State) : Held keep t (l.foldl (fun s f => setBoth (pHeavy f) 0x40 (quotaWord s f) s) t) := foldl (fun _ _ => ofSetBoth ..) ..
  have hclear (p : Placed) : Held keep s (clearPlacement m p s) :=
    ((((((hcores ..).trans (hflush ..)).trans (hregions ..)).trans (htallies ..)).trans (hdebug _)).trans (hmodel ..)).trans (hquotas ..)
  unfold emptyModel
  extract_lets s₁ s₂ w s₃
  have hplace : Held keep s s₁ := by
    unfold s₁
    split
    · exact hclear _
    · exact refl s
  have hepochs : Held keep s₁ s₂ := (ofEpochEmpty ..).trans (ofEpochEmpty ..)
  have hreloads : Held keep s₂ s₃ := of_parts rfl rfl
  exact ((hplace.trans hepochs).trans hreloads).trans ((((hreset _).trans (ofSetBoth ..)).trans (ofSetLive ..)).trans (ofSetLive ..))

/-- A LOAD that fails leaves every model but the one loaded. -/
theorem ofLoadFails {c : Code} {s : State} (hk : ∀ j, s.weights.load = some j → ¬ keep j.model) : Held keep s (loadFails c s) := by
  have hend (st : Nat) (t : State) : Held keep t (setCmdResult 0x820 st c t) := ofSetLive ..
  have hweights (t : State) : Held keep t { t with weights := { t.weights with load := none, inst := none } } := of_parts rfl rfl
  unfold loadFails
  split
  · next j hj =>
    have hopen : Held keep s (match s.weights.inst with
        | some i => openRanges i s
        | none => s) := by
      split
      · exact ofOpenRanges ..
      · exact refl s
    exact ((hopen.trans (hweights _)).trans (ofEmptyModel (hk j hj) _)).trans (hend ..)
  · exact refl s

end Held

end Sys2Proof.Machine
end

section
/-! Suspension, and the entries that faults become (R480 to R488). -/

namespace Sys2Proof.Machine

open Sys2Proof

/-! ### Suspension (R488) -/

/-- Suspending model m: its placement stays, it is suspended where it has one, and nothing else is said of the others. -/
structure Suspends (m : Nat) (s t : State) : Prop where
  plan : t.recov.plan = s.recov.plan
  queue : t.recov.queue = s.recov.queue
  place : ∀ j, (modelAt t j).place = (modelAt s j).place
  stays : ∀ j, (modelAt s j).suspended = true → (modelAt t j).suspended = true
  now : (modelAt s m).place.isSome = true → (modelAt t m).suspended = true

/-- Every model is as it was. -/
def allKept (_ : Nat) : Prop := True

theorem held_stopInstall (m : Nat) (s : State) : Held allKept s (stopInstall m s) := by
  have hinst (x : Option Inst) : Held allKept s (setInst 0 x s) := .of_parts rfl rfl
  unfold stopInstall
  extract_lets s₁
  have hstop : Held allKept s s₁ := by
    unfold s₁
    split
    · split
      · exact hinst _
      · exact .refl s
    · exact .refl s
  exact hstop.trans (.ofUpdModel (fun _ _ => by exact ⟨rfl, rfl⟩) _)

theorem suspendModel_spec (keep : Bool) (m : Nat) (s : State) : Suspends m s (suspendModel keep m s) := by
  unfold suspendModel
  split
  · next hnone => exact ⟨rfl, rfl, fun _ => rfl, fun _ h => h, fun h => by rw [hnone] at h; cases h⟩
  · next p _ =>
    extract_lets s₁ s₂ s₃ s₄ s₅
    have hmodel (j : Nat) : modelAt s₁ j = if m = j then { modelAt s m with suspended := true, collect := none } else modelAt s j := mget_mset Model.reset ..
    have hset : s₁.recov = s.recov := rfl
    have hsteps : Held allKept s₁ s₂ := .foldl (fun _ _ => .ofAbandonStep ..) ..
    have hpause : Held allKept s₂ s₃ := .foldl (fun _ _ => .ofUpdStream ..) ..
    have hcores : Held allKept s₃ s₄ := by
      unfold s₄
      split
      · exact .refl s₃
      · exact .foldl (fun _ _ => .ofUpdCore ..) ..
    have hwake : Held allKept s₄ s₅ := .foldl (fun _ _ => .ofWakeWaiters ..) ..
    have hchans (l : List (Nat × Nat)) (t : State) : Held allKept t (l.foldl (fun s c => chAbort c.1 c.2 s) t) := .foldl (fun _ _ => .ofChAbort ..) ..
    have hrest := ((((hsteps.trans hpause).trans hcores).trans hwake).trans (hchans (chansOf s₅ p) _)).trans (held_stopInstall m _)
    clear_value s₁ s₂ s₃ s₄ s₅
    refine ⟨hrest.plan.trans (congrArg _ hset), hrest.queue.trans (congrArg _ hset), fun j => (hrest.model j trivial).1.trans ?_,
      fun j hj => (hrest.model j trivial).2.trans ?_, fun _ => (hrest.model m trivial).2.trans ?_⟩
    · rw [hmodel]
      split
      · next h => rw [h]
      · rfl
    · rw [hmodel]
      split
      · rfl
      · exact hj
    · rw [hmodel, if_pos rfl]

/-- A pass that suspends models leaves each of those with a placement suspended. -/
theorem foldl_suspendModel (keep : Nat → Bool) (l : List Nat) (s : State) : let t := l.foldl (fun s m => suspendModel (keep m) m s) s
    t.recov.plan = s.recov.plan ∧ t.recov.queue = s.recov.queue ∧ (∀ j, (modelAt t j).place = (modelAt s j).place) ∧
      (∀ j, (modelAt s j).suspended = true → (modelAt t j).suspended = true) ∧ ∀ m ∈ l, (modelAt s m).place.isSome = true → (modelAt t m).suspended = true := by
  induction l generalizing s with
  | nil => exact ⟨rfl, rfl, fun _ => rfl, fun _ h => h, fun m h => by cases h⟩
  | cons m l ih =>
    have hone := suspendModel_spec (keep m) m s
    obtain ⟨hplan, hqueue, hplace, hstays, hnow⟩ := ih (suspendModel (keep m) m s)
    refine ⟨hplan.trans hone.plan, hqueue.trans hone.queue, fun j => (hplace j).trans (hone.place j), fun j hj => hstays j (hone.stays j hj), fun k hk hp => ?_⟩
    rcases List.mem_cons.1 hk with rfl | hk
    · exact hstays k (hone.now hp)
    · exact hnow k hk (by rw [hone.place]; exact hp)

/-- Suspending what a fault strikes leaves the plan and the queue; the models named are suspended. -/
theorem suspendAll_spec (c : Code) (keep : Option Nat) (ms fs : List Nat) (s : State) : let r := suspendAll c keep ms fs s
    r.2.recov.plan = s.recov.plan ∧ r.2.recov.queue = s.recov.queue ∧ (∀ m ∈ r.1.1, (modelAt r.2 m).suspended = true) ∧
      ∀ m ∈ struck s ms fs, loading s m = false → (modelAt s m).place.isSome = true → m ∈ r.1.1 := by
  unfold suspendAll
  extract_lets all fields s₁ all' chans s₂ s₃
  have hload : Held (fun m => loading s m = false) s s₁ := by
    have hloaded (j : LoadJob) (hj : s.weights.load = some j) : ¬ loading s j.model = false := by
      simp [loading, hj]
    unfold s₁
    split
    · exact .ofLoadFails hloaded
    · exact .refl s
  obtain ⟨hplan, hqueue, -, -, hnow⟩ := foldl_suspendModel (fun m => keep == some m) all' s₁
  have hplaced : ∀ m ∈ all', (modelAt s₁ m).place.isSome = true := fun m hm => (List.mem_filter.1 hm).2
  have hflush : Held allKept s₂ s₃ := .foldl (fun _ _ => .ofFlush ..) ..
  have hirq : Held allKept s₃ (if all'.isEmpty then s₃ else raiseIrq 2 s₃) := by
    split
    · exact .refl s₃
    · exact .ofRaiseIrq ..
  have hlast := hflush.trans hirq
  refine ⟨hlast.plan.trans (hplan.trans hload.plan), hlast.queue.trans (hqueue.trans hload.queue), fun m hm => (hlast.model m trivial).2.trans (hnow m hm (hplaced m hm)),
    fun m hm hl hp => List.mem_filter.2 ⟨hm, ?_⟩⟩
  rw [(hload.model m hl).1]
  exact hp

theorem mem_struck {s : State} {m : Nat} (fs : List Nat) : m ∈ struck s [m] fs := by
  unfold struck
  simp

/-! ### The fault that is taken up (R480 to R486) -/

/-- The fault has left the reports, and the units over an uncorrectable codeword are loaded again. -/
def faultTaken (s : State) (q : FaultRec) (l : List FaultRec) : State :=
  if q.code = E.storeUncorrectable then reloadSlot q.unit { s with recov := { s.recov with reported := l } } else { s with recov := { s.recov with reported := l } }

/-- What a lasting fault does, once it is counted and logged. -/
def faultActs (q : FaultRec) (reload : Bool) (now : Nat) (s : State) : State :=
  if q.kind = 0 then coreFault q now s
  else if q.kind = 1 then routerFault q now s
  else if q.kind = 2 then
    (if (fieldSt s q.unit = .dark ∨ fieldWasLost s q.unit) ∧ q.code ≠ E.connSuspect then fieldStrikes q q.unit now s else s)
  else if q.kind = 3 then stackFault q reload now s
  else if q.kind = 6 then placementFault q now s
  else s

/-- The state in which a lasting fault has been counted and logged. -/
def faultLogged (s : State) (q : FaultRec) (l : List FaultRec) : State := (logLasting q (faultTaken s q l)).2

/-- A fault with its log entry. -/
def numbered (s : State) (q : FaultRec) (l : List FaultRec) : FaultRec := { q with entry := (faultTaken s q l).recov.nextLog }

section
variable {s : State} {q : FaultRec} {l : List FaultRec} (h : s.recov.reported = q :: l) (hstop : mcStops s = false)

theorem faultSuspend_none (now : Nat) (reload : Bool) (h : s.recov.reported = [] ∨ mcStops s = true) : faultSuspend now reload s = s := by
  unfold faultSuspend
  split
  · rfl
  · next hr =>
    rw [hr] at h
    exact if_pos (h.resolve_left (by simp))

include h hstop

theorem faultSuspend_clean (now : Nat) (hcode : q.code = E.storeUncorrectable) : faultSuspend now true s = logTransient q.code q.kind q.unit (faultTaken s q l) := by
  unfold faultSuspend
  rw [h]
  dsimp only
  rw [if_neg (by rw [hstop]; decide), if_pos ⟨hcode, rfl⟩]
  rfl

theorem faultSuspend_lasting (now : Nat) {reload : Bool} (hlasting : q.code ≠ E.storeUncorrectable ∨ reload = false) :
    faultSuspend now reload s = faultActs (numbered s q l) reload now (faultLogged s q l) := by
  have hno : ¬ (q.code = E.storeUncorrectable ∧ reload = true) := by
    rintro ⟨hcode, hreload⟩
    rcases hlasting with h' | h'
    · exact h' hcode
    · rw [h'] at hreload
      cases hreload
  unfold faultSuspend
  rw [h]
  dsimp only
  rw [if_neg (by rw [hstop]; decide), if_neg hno]
  rfl

end

/-- The fault leaves the state as an entry that takes its place, with the fault's own log number and time. -/
def Strikes (s : State) (q : FaultRec) (l : List FaultRec) (now : Nat) (P : FaultEntry → State → Prop) (t : State) : Prop :=
  ∃ e u, t = enqueueFault e u ∧ e.faults = [{ q with entry := (faultTaken s q l).recov.nextLog }] ∧ e.at_ = now ∧ P e u

theorem faultStrikes_eq (q : FaultRec) (now : Nat) (keep : Option Nat) (ms fs : List Nat) (f : FaultEntry → FaultEntry) (s : State) :
    faultStrikes q now keep ms fs f s = enqueueFault { f (entryOf q now) with
      models := (suspendAll q.code keep ms fs s).1.1.filter fun m => keep ≠ some m, chans := (suspendAll q.code keep ms fs s).1.2 } (suspendAll q.code keep ms fs s).2 := rfl

/-- An entry that changes neither the fault nor its time strikes as it is. -/
theorem strikes_faultStrikes {s v : State} {q : FaultRec} {l : List FaultRec} {now : Nat} {P : FaultEntry → State → Prop} {keep : Option Nat} {ms fs : List Nat}
    {f : FaultEntry → FaultEntry} (hf : (f (entryOf (numbered s q l) now)).faults = [numbered s q l] ∧ (f (entryOf (numbered s q l) now)).at_ = now)
    (hP : P { f (entryOf (numbered s q l) now) with models := (suspendAll q.code keep ms fs v).1.1.filter fun m => keep ≠ some m, chans := (suspendAll q.code keep ms fs v).1.2 }
      (suspendAll q.code keep ms fs v).2) : Strikes s q l now P (faultStrikes (numbered s q l) now keep ms fs f v) :=
  ⟨_, _, faultStrikes_eq .., hf.1, hf.2, hP⟩

section
variable {s : State} {q : FaultRec} {l : List FaultRec} (now : Nat)

/-- A core's fault (R481, R484). -/
theorem coreFault_strikes : Strikes s q l now (fun e u => e.cores = [q.unit] ∧ e.fields = [] ∧
      (q.code ≠ E.actParity → q.code ≠ E.cacheLineLost → e.retire = [(q.unit, retireReason q.code, false)]) ∧
      (q.code = E.actParity → mfind (faultTaken s q l).recov.parityAt q.unit = none → e.retire = []) ∧
      (∀ m ∈ e.models, (modelAt u m).suspended = true) ∧ u.recov.plan = (faultTaken s q l).recov.plan ∧ u.recov.queue = (faultTaken s q l).recov.queue)
    (coreFault (numbered s q l) now (faultLogged s q l)) := by
  unfold coreFault
  extract_lets soft go v
  have hparity : (faultLogged s q l).recov.parityAt = (faultTaken s q l).recov.parityAt := rfl
  have hv : v.recov.plan = (faultTaken s q l).recov.plan ∧ v.recov.queue = (faultTaken s q l).recov.queue := by
    unfold v
    split
    · exact ⟨rfl, rfl⟩
    · exact ⟨rfl, rfl⟩
  obtain ⟨hplan, hqueue, hsuspended, -⟩ := suspendAll_spec q.code none [] [fieldOfCore q.unit] v
  refine strikes_faultStrikes ⟨rfl, rfl⟩ ⟨rfl, rfl, fun hact hline => ?_, fun hact hfirst => ?_, fun m hm => hsuspended m (List.mem_filter.1 hm).1,
    hplan.trans hv.1, hqueue.trans hv.2⟩
  · have hhard : ¬ soft := fun h => h.elim hact hline
    have hgo : go = true := by simp [go, hhard]
    exact if_pos hgo
  · have hsoft : soft := .inl hact
    have hgo : go = false := by
      have hagain : again (faultLogged s q l).recov.parityAt q.unit now = false := by rw [again, hparity, hfirst]
      simp only [go, decide_eq_true hsoft, Bool.not_true, Bool.false_or]
      exact hagain
    exact if_neg (by rw [hgo]; decide)

theorem fieldStrikes_strikes (f : Nat) (v : State) : Strikes s q l now (fun e _ => e.fields = [f] ∧ e.retire = [] ∧ e.cores = [])
    (fieldStrikes (numbered s q l) f now v) := by
  unfold fieldStrikes
  dsimp only
  exact strikes_faultStrikes ⟨rfl, rfl⟩ ⟨rfl, rfl, rfl⟩

/-- A lasting fabric link failure of a router that R200 admits (R483). -/
theorem routerFault_retires (h : mayRetire (faultTaken s q l) q.unit = true) : Strikes s q l now (fun e _ => e.retire = [(q.unit, 5, true)] ∧ e.cores = [q.unit])
    (routerFault (numbered s q l) now (faultLogged s q l)) := by
  have hmay : mayRetire (faultLogged s q l) (numbered s q l).unit = true := h
  rw [routerFault, if_pos hmay]
  exact strikes_faultStrikes ⟨rfl, rfl⟩ ⟨rfl, rfl⟩

theorem routerFault_darkens (h : mayRetire (faultTaken s q l) q.unit = false) : Strikes s q l now (fun e _ => e.fields = [fieldOfCore q.unit] ∧ e.retire = [])
    (routerFault (numbered s q l) now (faultLogged s q l)) := by
  have hmay : ¬ mayRetire (faultLogged s q l) (numbered s q l).unit = true := by
    have hsame : mayRetire (faultLogged s q l) (numbered s q l).unit = mayRetire (faultTaken s q l) q.unit := rfl
    rw [hsame, h]
    decide
  rw [routerFault, if_neg hmay]
  obtain ⟨e, u, ht, hfaults, hat, hfields, hretire, -⟩ := fieldStrikes_strikes (s := s) (q := q) (l := l) now (fieldOfCore q.unit) (imposeDark (fieldOfCore q.unit) 9 (faultLogged s q l))
  exact ⟨e, u, ht, hfaults, hat, hfields, hretire⟩

/-- An uncorrectable stack error names its stack (R485). -/
theorem stackFault_strikes (reload : Bool) (h : q.code = E.stackEccFail ∨ q.code = E.stackCrcFail) : Strikes s q l now (fun e _ => e.stackNos = [q.unit])
    (stackFault (numbered s q l) reload now (faultLogged s q l)) := by
  have hcode : (numbered s q l).code = E.stackEccFail ∨ (numbered s q l).code = E.stackCrcFail := h
  unfold stackFault
  dsimp only
  rw [if_pos hcode]
  exact strikes_faultStrikes ⟨rfl, rfl⟩ rfl

/-- A placement under debug keeps its own threads and is in no entry (R482). -/
theorem placementFault_debug (hstate : modelState s q.unit ≠ 0) (hdebug : s.debugModels.contains q.unit = true) (hcode : q.code = E.placementFault) :
    Strikes s q l now (fun e _ => e.cores = [] ∧ ∀ m ∈ e.models, m ≠ q.unit) (placementFault (numbered s q l) now (faultLogged s q l)) := by
  have htaken : faultTaken s q l = { s with recov := { s.recov with reported := l } } := if_neg (by rw [hcode]; decide)
  have hpage : modelState (faultLogged s q l) q.unit = modelState s q.unit := by
    have hne : regKey 0 0xA10 ≠ regKey pWl (0x200 + 4 * q.unit) := by
      rw [regKey, regKey, pWl]
      omega
    have hlog : modelState (faultLogged s q l) q.unit = modelState (countUp 0 0xA10 15 0 1 (faultTaken s q l)) q.unit := rfl
    have hcount (t : State) : modelState (countUp 0 0xA10 15 0 1 t) q.unit = modelState t q.unit := by
      rw [modelState, modelState, liveF, liveF, countUp, setLiveF, live_setLive_ne _ _ hne]
    rw [hlog, hcount, htaken]
    rfl
  have hstate' : ¬ modelState (faultLogged s q l) (numbered s q l).unit = 0 := by
    have hunit : (numbered s q l).unit = q.unit := rfl
    rwa [hunit, hpage]
  have hdebug' : (faultLogged s q l).debugModels.contains (numbered s q l).unit = true := by
    have hsame : (faultLogged s q l).debugModels = (faultTaken s q l).debugModels := rfl
    rw [hsame, htaken]
    exact hdebug
  have hcode' : (numbered s q l).code = E.placementFault := hcode
  unfold placementFault
  dsimp only
  rw [if_neg hstate', if_pos hcode', if_pos hdebug']
  refine strikes_faultStrikes ⟨rfl, rfl⟩ ⟨rfl, fun m hm hq => ?_⟩
  have hkeep := (List.mem_filter.1 hm).2
  rw [hq] at hkeep
  simp [numbered] at hkeep

end

end Sys2Proof.Machine
end

section
/-! Classification, the queue, plans and resume (R482, R489 to R496, R504). -/

namespace Sys2Proof.Machine

open Sys2Proof

/-! ### Thread faults (R482) -/

theorem isSome_foldl_mput {α : Type} (x : α) {k : Nat} (l : List Nat) {a : Map α} (h : k ∈ l ∨ (mfind a k).isSome = true) :
    (mfind (l.foldl (fun a j => mput a j x) a) k).isSome = true := by
  induction l generalizing a with
  | nil => exact h.resolve_left (by simp)
  | cons j l ih =>
    refine ih ?_
    rw [mfind_mput]
    rcases h with h | h
    · rcases List.mem_cons.1 h with rfl | h
      · exact .inr (by rw [if_pos rfl]; rfl)
      · exact .inl h
    · refine .inr ?_
      split
      · rfl
      · exact h

/-- A thread's fault that is to be classified. -/
structure ToClassify (s : State) (c t m : Nat) : Prop where
  owner : mfind s.owner c = some m
  faulted : (threadAt (coreAt s c) t).st = .faulted
  fresh : (coreAt s c).classified.contains t = false
  runs : mcStops s = false

/-- The thread's fault has been noted as classified. -/
def classified (c t : Nat) (s : State) : State := updCore c (fun x => { x with classified := insertAsc t x.classified }) s

/-- The code of a core's fault. -/
def faultCode (s : State) (c : Nat) : Code := BitVec.ofNat 16 (bits (coreAt s c).coreErr 47 32)

/-- The codes that a block reports by itself. -/
def hardCodes : List Code := [E.storeUncorrectable, E.actParity, E.cacheLineLost, E.arrayCheckFail, E.stackEccFail, E.stackCrcFail]

/-- The models of a suspension wait for an edge field, with their channels. -/
def awaiting (r : (List Nat × List (Nat × Nat)) × State) : State :=
  updRecov (fun v => { v with awaitStack := r.1.1.foldl (fun a m => mput a m r.1.2) v.awaitStack }) r.2

theorem classify_same {s : State} {c t : Nat} (h : mfind s.owner c = none ∨ (threadAt (coreAt s c) t).st ≠ .faulted ∨ (coreAt s c).classified.contains t = true ∨ mcStops s = true) :
    classify c t s = s := by
  unfold classify
  dsimp only
  split
  · rfl
  · next hm => exact if_pos (h.resolve_left (by simp [hm]))

section
variable {s : State} {c t m : Nat} (h : ToClassify s c t m) (hload : loading s m = false)
include h hload

theorem classify_due : classify c t s = if hardCodes.contains (faultCode s c) then classified c t s
    else if faultCode s c = E.stackUnavailable then
      awaiting (suspendAll (faultCode s c) none [m] [] (classified c t s))
    else report E.placementFault 6 m (classified c t s) := by
  have hgo : ¬ ((threadAt (coreAt s c) t).st ≠ .faulted ∨ (coreAt s c).classified.contains t = true ∨ mcStops s = true) := by
    rw [h.faulted, h.fresh, h.runs]
    decide
  have hload' : ¬ loading (classified c t s) m = true := by
    have hsame : loading (classified c t s) m = loading s m := rfl
    rw [hsame, hload]
    decide
  unfold classify
  rw [h.owner]
  dsimp only
  rw [if_neg hgo, ← classified, if_neg hload', if_neg hload', ← faultCode, ← hardCodes]
  rfl

theorem classify_hard (hc : hardCodes.contains (faultCode s c) = true) : classify c t s = classified c t s := by
  rw [classify_due h hload, if_pos hc]

theorem classify_placement (hc : hardCodes.contains (faultCode s c) = false) (hne : faultCode s c ≠ E.stackUnavailable) :
    classify c t s = report E.placementFault 6 m (classified c t s) := by
  rw [classify_due h hload, if_neg (by rw [hc]; decide), if_neg hne]

/-- A model that waits for an edge field is noted (R482). -/
theorem classify_waits (hc : faultCode s c = E.stackUnavailable) (hp : (modelAt s m).place.isSome = true) : (mfind (classify c t s).recov.awaitStack m).isSome = true := by
  have hhard : ¬ hardCodes.contains (faultCode s c) = true := by
    rw [hc]
    decide
  rw [classify_due h hload, if_neg hhard, if_pos hc]
  exact isSome_foldl_mput _ _ (.inl ((suspendAll_spec _ none [m] [] (classified c t s)).2.2.2 m (mem_struck []) hload hp))

end

/-! ### The queue (R494, R495) -/

theorem recov_fatal (c : Code) (s : State) : (fatal c s).recov = s.recov := by
  unfold fatal
  split
  · rfl
  · exact (congrArg State.recov (offRegs_raiseIrq ..) :)

section
variable {s : State} {p : RecPlan} (e : FaultEntry) (hp : s.recov.plan = some p) (hno : conflicts s p e = false) (hnew : s.recov.queue.find? (sameFault · e) = none)
include hp hno hnew

theorem enqueueFault_new : enqueueFault e s = if s.recov.queue.length < 64 then updRecov (fun r => { r with queue := r.queue ++ [e] }) s
    else fatal E.recoveryOverflow (updRecov (fun r => { r with overflow := true }) s) := by
  unfold enqueueFault
  rw [hp]
  dsimp only
  rw [if_neg (by rw [hno]; decide), hnew]

theorem enqueueFault_waits (h : s.recov.queue.length < 64) : (enqueueFault e s).recov = { s.recov with queue := s.recov.queue ++ [e] } := by
  rw [enqueueFault_new e hp hno hnew, if_pos h]
  rfl

theorem enqueueFault_overflows (h : 64 ≤ s.recov.queue.length) : (enqueueFault e s).recov.overflow = true ∧ liveF (enqueueFault e s) 0x21 0x818 31 31 = 1 := by
  rw [enqueueFault_new e hp hno hnew, if_neg (Nat.not_lt.2 h)]
  exact ⟨by rw [recov_fatal]; rfl, liveF_fatal ..⟩

end

/-! ### Bindings (R239, R490) -/

theorem mem_of_nearest {free : List Nat} {c k : Nat} (h : nearest free c = some k) : k ∈ free := by
  have hfold (l : List Nat) (o : Option Nat) : ∀ k, l.foldl (fun best k => match best with
      | some b => if hops c k < hops c b then some k else best
      | none => some k) o = some k → k ∈ l ∨ o = some k := by
    induction l generalizing o with
    | nil => exact fun k h => .inr h
    | cons a l ih =>
      intro k hk
      rcases ih _ k hk with hl | ho
      · exact .inl (List.mem_cons_of_mem _ hl)
      · cases o with
        | none => exact .inl (List.mem_cons.2 (.inl (Option.some.inj ho).symm))
        | some b =>
          dsimp only at ho
          split at ho
          · exact .inl (List.mem_cons.2 (.inl (Option.some.inj ho).symm))
          · exact .inr ho
  exact (hfold free none k h).resolve_right (by simp)

/-- A slot that is bound anew keeps a core that serves, or takes one that was free. -/
theorem rebindSlots_mem {gone : Nat → Bool} {free cs : List Nat} {r : List Nat × List Nat} (h : rebindSlots gone free cs = some r) :
    (∀ c ∈ r.1, gone c = false ∨ c ∈ free) ∧ ∀ c ∈ r.2, c ∈ free := by
  induction cs generalizing free r with
  | nil =>
    obtain rfl := Option.some.inj h
    exact ⟨fun c hc => (by cases hc), fun c hc => hc⟩
  | cons c cs ih =>
    unfold rebindSlots at h
    split at h
    · split at h
      · cases h
      · next k hk =>
        obtain ⟨r', hr, rfl⟩ := Option.map_eq_some_iff.1 h
        obtain ⟨hbound, hrest⟩ := ih hr
        have hless {j : Nat} (hj : j ∈ without k free) : j ∈ free := (mem_without.1 hj).1
        refine ⟨fun j hj => ?_, fun j hj => hless (hrest j hj)⟩
        rcases List.mem_cons.1 hj with rfl | hj
        · exact .inr (mem_of_nearest hk)
        · exact (hbound j hj).imp_right hless
    · next hgone =>
      obtain ⟨r', hr, rfl⟩ := Option.map_eq_some_iff.1 h
      obtain ⟨hbound, hrest⟩ := ih hr
      refine ⟨fun j hj => ?_, hrest⟩
      rcases List.mem_cons.1 hj with rfl | hj
      · exact .inl (by simpa using hgone)
      · exact hbound j hj

theorem rebindAll_mem {gone : Nat → Bool} {free : List Nat} {css r : List (List Nat)} (h : rebindAll gone free css = some r) :
    ∀ cs ∈ r, ∀ c ∈ cs, gone c = false ∨ c ∈ free := by
  induction css generalizing free r with
  | nil =>
    obtain rfl := Option.some.inj h
    exact fun cs hcs => by cases hcs
  | cons ds css ih =>
    unfold rebindAll at h
    split at h
    · cases h
    · next q hq =>
      obtain ⟨hbound, hrest⟩ := rebindSlots_mem hq
      obtain ⟨r', hr, rfl⟩ := Option.map_eq_some_iff.1 h
      intro cs hcs c hc
      rcases List.mem_cons.1 hcs with rfl | hcs
      · exact hbound c hc
      · exact (ih hr cs hcs c hc).imp_right (hrest c)

theorem rebound_spec {s : State} {m : Nat} {p q : Placed} (h : rebound s m p = some q) : q.img = p.img ∧
    ∀ f ∈ heldFields q, hqSum (withPlace m (some q) s) f ≤ liveF (withPlace m (some q) s) (pHeavy f) 0x68 11 0 := by
  unfold rebound at h
  split at h
  · cases h
  · split at h
    · next hquota =>
      obtain rfl := Option.some.inj h
      exact ⟨rfl, fun f hf => of_decide_eq_true (List.all_eq_true.1 hquota f hf)⟩
    · cases h

/-! ### Arming (R489) -/

/-- Why no plan is armed now. -/
def ArmWaits (s : State) (p : RecPlan) (commit : Beat) (ways : List (Fin 80 × Fin 160 × Word)) : Prop :=
  p.phase ≠ .planning ∨ mcStops s = true ∨ s.recov.overflow = true ∨ s.beat.mode ≠ .locked ∨ (!inFuture commit (beatNow s)) = true ∨ (!waysFit s p ways) = true

theorem planArm_waits {s : State} {commit : Beat} {flash : Bool} {ways : List (Fin 80 × Fin 160 × Word)}
    (h : ∀ p, s.recov.plan = some p → ArmWaits s p commit ways) : planArm commit flash ways s = s := by
  unfold planArm
  split
  · rfl
  · next p hp => exact if_pos (h p hp)

/-- The plan as computed, with the state in which its decisions hold. -/
def planned (s : State) (p : RecPlan) : State × RecPlan := p.entry.models.foldl planModel (retireAll p.entry s, { p with moves := [], demote := [], lose := [] })

/-- The pages of the plan are lost to the groups that held them. -/
def planClaimed (s : State) (p : RecPlan) (ways : List (Fin 80 × Fin 160 × Word)) : State :=
  (planPages s (planned s p).2 ways).foldl (fun s k => claimPage k s) s

section
variable {s : State} {p : RecPlan} {commit : Beat} (flash : Bool) {ways : List (Fin 80 × Fin 160 × Word)} (hp : s.recov.plan = some p) (hgo : ¬ ArmWaits s p commit ways)
include hp hgo

theorem planArm_arms {g : Nat} (hpages : firstOf (enrolFails (planClaimed s p ways)) (planPages s (planned s p).2 ways) = none)
    (hfree : lowestFree (planClaimed s p ways) 4 60 = some g) : ∃ t x, planArm commit flash ways s = t ∧ t.recov.plan = some x ∧
      x.phase = .armed ∧ x.group = g ∧ x.moves = (planned s p).2.moves ∧ x.demote = (planned s p).2.demote ∧ x.lose = (planned s p).2.lose ∧
        x.entry = (planned s p).2.entry ∧ (grp t g).st = .validating ∧ (grp t g).commit = commit := by
  have hgo' := hgo
  unfold ArmWaits at hgo'
  unfold planArm
  rw [hp]
  dsimp only
  rw [planClaimed, planned] at hpages hfree
  rw [if_neg hgo', hpages, hfree]
  have hplan (x : Option RecPlan) (v : State) : (setPlan x v).recov.plan = x := rfl
  have hgroup (x : Option RecPlan) (y : Group) (v : State) : grp (setPlan x (setGrp g y v)) g = y := grp_setGrp_same ..
  exact ⟨_, _, rfl, hplan _ _, rfl, rfl, rfl, rfl, rfl, rfl, by rw [hgroup], by rw [hgroup]⟩

theorem planArm_refused (h : firstOf (enrolFails (planClaimed s p ways)) (planPages s (planned s p).2 ways) ≠ none ∨ lowestFree (planClaimed s p ways) 4 60 = none) :
    planArm commit flash ways s = planClaimed s p ways := by
  have hgo' := hgo
  unfold ArmWaits at hgo'
  unfold planArm
  rw [hp]
  dsimp only
  rw [planClaimed, planned] at h ⊢
  rw [if_neg hgo']
  split
  · next hpages hfree => exact absurd h (by simp [hpages, hfree])
  · rfl

end

/-! ### Applying (R489, R491, R492) -/

theorem planApply_idle {now : Nat} {s : State} (h : ∀ p, s.recov.plan = some p → p.phase = .planning ∨ (p.phase = .armed ∧ (grp s p.group).st ≠ .done)) :
    planApply now s = s := by
  unfold planApply
  split
  · rfl
  · next p hp =>
    split
    · rfl
    · rcases h p hp with hphase | ⟨hphase, hst⟩
      · rw [hphase]
      · rw [hphase]
        exact if_pos hst

section
variable {now : Nat} {s : State} {p : RecPlan} (hp : s.recov.plan = some p) (hover : s.recov.overflow = false) (hstop : mcStops s = false)
include hp hover hstop

theorem planApply_runs : planApply now s = match p.phase with
    | .planning => s
    | .armed =>
      if (grp s p.group).st ≠ .done then s
      else if !p.committed then planFails p s
      else if p.again then setPlan (some (replan p p.entry)) (mcRelease p.group s)
      else beginCopies p (p.lose.foldl (fun t m => loseModel m (usSince p.entry.at_ now) t)
        (p.demote.foldl (fun t e => demoteStreams e.1 (usSince p.entry.at_ now) t) (mcRelease p.group s)))
    | .applying =>
      if p.started then s
      else if !p.copying.isEmpty then (if copiesFly s then s else endCopies p s)
      else if contentsWait s p.entry.models || p.entry.models.any (contentsFly s) then s
      else if !p.written then setPlan (some { p with written := true }) (p.entry.models.foldl (fun s m => resendContent m s) s)
      else setPlan (some { p with started := true }) (p.entry.chans.foldl (fun s q => chRestart q s) (p.entry.models.foldl (fun s m => restartThreads m s) s)) := by
  have hgo : ¬ (s.recov.overflow || mcStops s) = true := by
    rw [hover, hstop]
    decide
  unfold planApply
  rw [hp]
  dsimp only
  exact if_neg hgo

/-- A group that ended without committing aborts the plan (R495). -/
theorem planApply_fails (hphase : p.phase = .armed) (hst : (grp s p.group).st = .done) (hc : p.committed = false) : let t := planApply now s
    t.recov.plan = some (replan p p.entry) ∧ liveF t 0 0xA14 15 0 = Nat.min 0xFFFF (liveF s 0 0xA14 15 0 + 1) ∧
      (grp t p.group).st = .free ∧ ∃ k us, t.recov.log.head? = some ⟨s.recov.nextLog, E.planAborted, k, 6, us, 0⟩ := by
  have hact : planApply now s = planFails p s := by
    rw [planApply_runs hp hover hstop, hphase]
    dsimp only
    rw [if_neg (not_not.2 hst), if_pos (by rw [hc]; rfl)]
  have hcleared (l : List Nat) (t : State) : live (clearEnrol l t) 0 0xA14 = live t 0 0xA14 :=
    foldl_same (g := fun t => live t 0 0xA14) (f := fun s (k : Nat) => setLive k 0x18 (withBits (live s k 0x18) 31 31 0) s)
      (fun _ _ => live_setLive_off _ _ (by decide) (by decide) (by decide)) ..
  have hlive (x : Group) (q : Option RecPlan) (g : Nat) (t : State) : live (setPlan q (setGrp g x t)) 0 0xA14 = live t 0 0xA14 := rfl
  have hlogged (c : Code) (k r u us : Nat) (t : State) : live (logPut c k r u us t) 0 0xA14 = live t 0 0xA14 := rfl
  have hlog (l : List Nat) (t : State) : (clearEnrol l t).recov = t.recov :=
    foldl_same (g := State.recov) (f := fun s (k : Nat) => setLive k 0x18 (withBits (live s k 0x18) 31 31 0) s) (fun _ _ => rfl) ..
  have hkept (x : Group) (q : Option RecPlan) (g : Nat) (t : State) : (setPlan q (setGrp g x t)).recov.log = t.recov.log := rfl
  have hgroup (x : Option RecPlan) (y : Group) (v : State) : grp (setPlan x (setGrp p.group y v)) p.group = y := grp_setGrp_same ..
  rw [hact]
  refine ⟨rfl, ?_, by rw [planFails, mcRelease, hgroup]; rfl, (p.entry.faults.headD ⟨0, 0, 0, 0⟩).kind, (p.entry.faults.headD ⟨0, 0, 0, 0⟩).unit, ?_⟩
  · rw [liveF, planFails, mcRelease, hlive, hcleared, logAbort, hlogged]
    exact liveF_countUp s (by decide) (by decide)
  · rw [planFails, mcRelease, hkept, hlog]
    rfl

/-- A committed plan is applied, and what waits behind it stays (R489). -/
theorem planApply_commits (hphase : p.phase = .armed) (hst : (grp s p.group).st = .done) (hc : p.committed = true) (hagain : p.again = false) :
    ∃ l, (planApply now s).recov.plan = some { p with
        phase := .applying, unclean := l, copying := p.moves.flatMap fun e => match mfind p.src e.1 with
          | some old => (movedSlots old e.2).map fun q => (e.1, q.1, q.2.1, q.2.2.1, q.2.2.2)
          | none => [] } ∧ (∀ c ∈ p.unclean, c ∈ l) ∧ (planApply now s).recov.queue = s.recov.queue := by
  have hact : planApply now s = beginCopies p (p.lose.foldl (fun t m => loseModel m (usSince p.entry.at_ now) t)
      (p.demote.foldl (fun t e => demoteStreams e.1 (usSince p.entry.at_ now) t) (mcRelease p.group s))) := by
    rw [planApply_runs hp hover hstop, hphase]
    dsimp only
    rw [if_neg (not_not.2 hst), if_neg (by rw [hc]; decide), if_neg (by rw [hagain]; decide)]
  have hrelease : Held allKept s (mcRelease p.group s) := by
    have hgroup (x : Group) (t : State) : Held allKept t (setGrp p.group x t) := .of_parts rfl rfl
    exact (Held.foldl (fun _ _ => .ofSetLive ..) ..).trans (hgroup ..)
  have hdemote (m us : Nat) (t : State) : Held allKept t (demoteStreams m us t) := (Held.ofPxDetachAll ..).trans (.ofLogPut ..)
  have hlose (m us : Nat) (t : State) : Held allKept t (loseModel m us t) := by
    have hunload (c : Code) : Held allKept t (unloadModel m c t) := by
      have hstate : Held allKept t (setModelState m 3 t) := .ofSetLive ..
      exact hstate.trans (.foldl (fun _ _ => .ofEndWith ..) ..)
    unfold loseModel
    split
    · exact .refl t
    · exact (hunload _).trans (.ofLogPut ..)
  have hcopy (m a b : Nat) (t : State) : Held allKept t (copyReads m a b t) := .foldl (fun _ _ => .ofInjectEngine ..) ..
  have hbegin (t : State) : (beginCopies p t).recov.queue = t.recov.queue := by
    unfold beginCopies
    extract_lets all bad t₁
    have hcopies : Held allKept t t₁ := by
      refine .foldl (fun u q => ?_) ..
      split
      · exact .refl u
      · exact hcopy ..
    have hset (x : Option RecPlan) (u : State) : (setPlan x u).recov.queue = u.recov.queue := rfl
    rw [hset]
    exact hcopies.queue
  rw [hact]
  refine ⟨_, rfl, fun c hc => mem_foldl_insertAsc.2 (.inr hc), ?_⟩
  rw [hbegin]
  exact ((hrelease.trans (.foldl (fun _ _ => hdemote ..) ..)).trans (.foldl (fun _ _ => hlose ..) ..)).queue

section
variable (hphase : p.phase = .applying) (hstarted : p.started = false)
include hphase hstarted

theorem planApply_copied (hcopy : p.copying ≠ []) (hin : copiesFly s = false) : ∃ l, (planApply now s).recov.plan = some { p with copying := [], lostFrames := l } ∧
    ∀ m, m ∈ l ↔ m ∈ p.lostFrames ∨ ∃ q ∈ p.copying, q.1 = m ∧ copyBad s p m q.2.2.2.1 = true := by
  have hact : planApply now s = endCopies p s := by
    have hsome : (!p.copying.isEmpty) = true := by simpa using hcopy
    rw [planApply_runs hp hover hstop, hphase]
    dsimp only
    rw [if_neg (by rw [hstarted]; decide), if_pos hsome, if_neg (by rw [hin]; decide)]
  rw [hact]
  refine ⟨_, rfl, fun m => mem_foldl_insertAsc.trans (or_comm.trans (or_congr_right ?_))⟩
  constructor
  · intro h
    obtain ⟨q, hq, rfl⟩ := List.mem_map.1 h
    obtain ⟨hmem, hbad⟩ := List.mem_filter.1 hq
    exact ⟨q, hmem, rfl, hbad⟩
  · rintro ⟨q, hmem, rfl, hbad⟩
    exact List.mem_map.2 ⟨q, List.mem_filter.2 ⟨hmem, hbad⟩, rfl⟩

theorem planApply_content (hcopy : p.copying = []) (hin : ¬ (contentsWait s p.entry.models = true ∨ p.entry.models.any (contentsFly s) = true)) :
    (p.written = false → (planApply now s).recov.plan = some { p with written := true }) ∧ (p.written = true → (planApply now s).recov.plan = some { p with started := true }) := by
  have hnone : ¬ (!p.copying.isEmpty) = true := by simp [hcopy]
  rw [planApply_runs hp hover hstop, hphase]
  dsimp only
  rw [if_neg (by rw [hstarted]; decide), if_neg hnone, if_neg (by rwa [Bool.or_eq_true])]
  constructor
  · intro hw
    rw [if_pos (by rw [hw]; rfl)]
    rfl
  · intro hw
    rw [if_neg (by rw [hw]; decide)]
    rfl

end

end

theorem planApply_waits {now : Nat} {s : State} {p : RecPlan} (hp : s.recov.plan = some p) (hphase : p.phase = .applying)
    (h : p.started = true ∨ (p.copying ≠ [] ∧ copiesFly s = true) ∨ (p.copying = [] ∧ (contentsWait s p.entry.models = true ∨ p.entry.models.any (contentsFly s) = true))) :
    planApply now s = s := by
  unfold planApply
  rw [hp]
  dsimp only
  split
  · rfl
  · rw [hphase]
    dsimp only
    split
    · rfl
    · next hstarted =>
      rcases h with h | ⟨hcopy, hfly⟩ | ⟨hcopy, hwait⟩
      · exact absurd h hstarted
      · rw [if_pos (by simpa using hcopy), if_pos hfly]
      · rw [if_neg (by simp [hcopy]), if_pos (by rwa [Bool.or_eq_true])]

/-! ### The floor map (R504) -/

theorem floorRetry_due (ok : Bool) {s : State} (h : s.boot.floorDue = true) : let t := floorRetry ok s
    t.boot.floorDue = !ok ∧ (ok = false → errValid t pFlash = true) ∧ t.repair = s.repair := by
  rw [floorRetry, if_pos h]
  obtain ⟨hkept, hdue⟩ := floorPut_spec ok s
  refine ⟨hdue, fun hok => ?_, hkept.repair⟩
  subst hok
  have hlive (f : BootUnit → BootUnit) (t : State) : errValid (updBoot f t) pFlash = errValid t pFlash := rfl
  have hfails (t : State) : errValid (flashFails t) pFlash = true := errValid_recordErrAny ..
  rw [floorPut, hlive, recWrite, recPut]
  exact (congrArg (errValid · pFlash) (if_neg (by decide))).trans (hfails _)

end Sys2Proof.Machine
end

section
/-! Resume, and the whole of faults and recovery (R480 to R496, R504). -/

namespace Sys2Proof.Machine

open Sys2Proof

/-! ### Resume (R491, R493) -/

/-- No model is claimed to be as it was: only the plan and the queue. -/
def noneKept (_ : Nat) : Prop := False

theorem held_setInst (who : Nat) (x : Option Inst) (s : State) : Held noneKept s (setInst who x s) := by
  unfold setInst
  dsimp only
  refine Held.of_parts rfl ?_
  split
  · rfl
  · split <;> rfl

theorem held_putInst (i : Inst) (s : State) : Held noneKept s (putInst 0 i s) := by
  have hshow (t : State) : Held noneKept t (showInstall i t) := .of_parts rfl rfl
  exact (held_setInst ..).trans (hshow _)

theorem held_sendFetches (who : Nat) (i : Inst) (l r u len : Nat) (s : State) : Held noneKept s (sendFetches who i l r u len s) := by
  have hsvc (k : Nat) (q : Svc) (t : State) : Held noneKept t (sendSvc k who q t) := by
    have htag (n : Nat) (reqs : List ClReq) : Held noneKept t { t with nextTag := n, clReqs := reqs } := .of_parts rfl rfl
    exact (htag ..).trans (.of_offLinks (offLinks_transmit ..))
  exact .foldl (fun _ _ => hsvc ..) ..

/-- The install of a model that ends leaves the plan and the queue. -/
theorem held_instEnds (s : State) : Held noneKept s (instEnds 0 0 s) := by
  have hmodel (i : Inst) (t : State) : Held noneKept t (modelInstEnds i 0 t) := by
    have hstate (v : Nat) (u : State) : Held noneKept u (setEpochSt i.model i.epoch v u) := .ofSetLive ..
    have hstaged (v : Bool) (u : State) : Held noneKept u (setStaged i.model i.epoch v u) := .ofSetLive ..
    have hend (u : State) : Held noneKept u (endCmd 0x820 0 u) := .ofSetLive ..
    have hload (j : Option LoadJob) : Held noneKept t { t with weights := { t.weights with load := j } } := .of_parts rfl rfl
    unfold modelInstEnds
    split
    · exact (hload _).trans (hstate ..)
    · exact ((hstate ..).trans (hstaged ..)).trans (hend _)
  unfold instEnds
  split
  · exact .refl s
  · exact (held_setInst ..).trans (hmodel ..)

theorem held_beginUnit (s : State) : Held noneKept s (beginUnit 0 s) := by
  unfold beginUnit
  split
  · exact .refl s
  · dsimp only
    split
    · exact held_instEnds s
    · split
      · split
        · exact (held_putInst ..).trans (held_sendFetches ..)
        · exact held_putInst ..
      · exact held_putInst ..

/-- A stream of a model that resumes. -/
def resumeStream (lost : Stream → Bool) (s : State) (i : Nat) : State :=
  if lost (streamAt s i) && ((streamAt s i).st == .paused || (streamAt s i).st == .scheduled || (streamAt s i).st == .waitSel) then needPrefill i s
  else if (streamAt s i).st = .paused ∧ !stillPaused s (streamAt s i) then updStream i (fun x => { x with st := x.back, nextBeat := s.beat.now + 1 }) s
  else s

/-- A model that resumes: it is not suspended any more, and its streams go on. -/
def resumed (lost : Stream → Bool) (m : Nat) (s : State) : State :=
  (streamsOf (updModel m (fun x => { x with suspended := false }) s) m).foldl (resumeStream lost) (updModel m (fun x => { x with suspended := false }) s)

theorem resumeModel_eq (lost : Stream → Bool) (m : Nat) (s : State) : resumeModel lost m s =
    if !modelReady s m || !(modelAt s m).suspended then s
    else match (resumed lost m s).weights.inst with
      | some i => if i.model = m ∧ i.phase = .units then beginUnit 0 (resumed lost m s) else resumed lost m s
      | none => resumed lost m s := rfl

/-- A stream that resumes changes no model, no register and no install. -/
theorem resumeStream_kept (lost : Stream → Bool) (s : State) (i : Nat) :
    Held allKept s (resumeStream lost s i) ∧ (resumeStream lost s i).live = s.live ∧ (resumeStream lost s i).weights.inst = s.weights.inst := by
  have hnotice (c : Code) (ended : Bool) (t : State) : (notice i c ended t).live = t.live ∧ (notice i c ended t).weights.inst = t.weights.inst := by
    unfold notice
    dsimp only
    split <;> exact ⟨rfl, rfl⟩
  unfold resumeStream
  split
  · exact ⟨(Held.ofUpdStream ..).trans (.ofNotice ..), (hnotice ..).1, (hnotice ..).2⟩
  · split
    · exact ⟨.ofUpdStream .., rfl, rfl⟩
    · exact ⟨.refl s, rfl, rfl⟩

theorem resumed_kept (lost : Stream → Bool) (m : Nat) (s : State) : Held (· ≠ m) s (resumed lost m s) ∧ (resumed lost m s).live = s.live ∧
    (resumed lost m s).weights.inst = s.weights.inst ∧ (modelAt (resumed lost m s) m).suspended = false := by
  have hset : Held (· ≠ m) s (updModel m (fun x => { x with suspended := false }) s) := .ofUpdModel (fun h => absurd rfl h) s
  have hself : modelAt (updModel m (fun x => { x with suspended := false }) s) m = { modelAt s m with suspended := false } := mget_mset_same ..
  have hrest : (updModel m (fun x => { x with suspended := false }) s).live = s.live ∧
      (updModel m (fun x => { x with suspended := false }) s).weights.inst = s.weights.inst := ⟨rfl, rfl⟩
  unfold resumed
  generalize updModel m (fun x => { x with suspended := false }) s = v at hset hself hrest
  have hfold (keep : Nat → Prop) (l : List Nat) (t : State) : Held keep t (l.foldl (resumeStream lost) t) :=
    .foldl (fun t i => by
      obtain ⟨hplan, hqueue, hmodel⟩ := (resumeStream_kept lost t i).1
      exact ⟨hplan, hqueue, fun m _ => hmodel m trivial⟩) ..
  refine ⟨hset.trans (hfold ..), ?_, ?_, ?_⟩
  · exact (foldl_same (g := State.live) (fun t i => (resumeStream_kept lost t i).2.1) ..).trans hrest.1
  · exact (foldl_same (g := fun t => t.weights.inst) (fun t i => (resumeStream_kept lost t i).2.2) ..).trans hrest.2
  · exact ((hfold allKept ..).model m trivial).2.trans (congrArg Model.suspended hself)

theorem held_resumeModel (lost : Stream → Bool) (m : Nat) (s : State) : Held noneKept s (resumeModel lost m s) := by
  have hresumed : Held noneKept s (resumed lost m s) := by
    obtain ⟨hplan, hqueue, -⟩ := (resumed_kept lost m s).1
    exact ⟨hplan, hqueue, fun _ h => h.elim⟩
  rw [resumeModel_eq]
  split
  · exact .refl s
  · split
    · split
      · exact hresumed.trans (held_beginUnit _)
      · exact hresumed
    · exact hresumed

/-- Where no install goes on, a model that resumes leaves registers and the suspension of every other one. -/
theorem resumeModel_idle {lost : Stream → Bool} {m : Nat} {s : State} (h : s.weights.inst = none) : let t := resumeModel lost m s
    t.weights.inst = none ∧ t.live = s.live ∧ (∀ j, (modelAt s j).suspended = false → (modelAt t j).suspended = false) ∧
      (modelReady s m = true → (modelAt t m).suspended = false) := by
  obtain ⟨hheld, hlive, hinst, hself⟩ := resumed_kept lost m s
  rw [resumeModel_eq]
  split
  · next hskip =>
    refine ⟨h, rfl, fun _ h => h, fun hready => ?_⟩
    rw [hready] at hskip
    simpa using hskip
  · rw [show (resumed lost m s).weights.inst = none from hinst.trans h]
    refine ⟨hinst.trans h, hlive, fun j hj => ?_, fun _ => hself⟩
    by_cases hm : j = m
    · exact hm ▸ hself
    · exact (hheld.model j hm).2.trans hj

theorem foldl_resumeModel_idle {lost : State → Stream → Bool} (l : List Nat) {s : State} (h : s.weights.inst = none) :
    let t := l.foldl (fun s m => resumeModel (lost s) m s) s
    (∀ j, (modelAt s j).suspended = false → (modelAt t j).suspended = false) ∧ ∀ m ∈ l, modelReady s m = true → (modelAt t m).suspended = false := by
  induction l generalizing s with
  | nil => exact ⟨fun _ h => h, fun m hm => by cases hm⟩
  | cons m l ih =>
    obtain ⟨hinst, hlive, hstays, hself⟩ := resumeModel_idle (lost := lost s) (m := m) h
    obtain ⟨hstays', hnow⟩ := ih hinst
    refine ⟨fun j hj => hstays' j (hstays j hj), fun k hk hready => ?_⟩
    rcases List.mem_cons.1 hk with rfl | hk
    · exact hstays' k (hself hready)
    · refine hnow k hk ?_
      have hsame : modelReady (resumeModel (lost s) m s) k = modelReady s k := by
        rw [modelReady, modelReady, modelState, modelState, liveF, liveF, live_congr hlive]
      rwa [hsame]

/-- Why a plan does not resume now. -/
def ResumeWaits (s : State) (p : RecPlan) : Prop :=
  p.phase ≠ .applying ∨ (!p.started) = true ∨ mcStops s = true ∨ s.recov.overflow = true ∨ s.beat.mode ≠ .locked

theorem planResume_waits {now : Nat} {s : State} (h : ∀ p, s.recov.plan = some p → ResumeWaits s p) : planResume now s = s := by
  unfold planResume
  split
  · rfl
  · next p hp => exact if_pos (h p hp)

theorem planResume_resumes {now : Nat} {s : State} {p : RecPlan} (hp : s.recov.plan = some p) (hgo : ¬ ResumeWaits s p) : let t := planResume now s
    t.recov.plan = s.recov.queue.head?.map newPlan ∧ t.recov.queue = s.recov.queue.drop 1 ∧
      (s.weights.inst = none → ∀ m ∈ p.entry.models, modelReady s m = true → (modelAt t m).suspended = false) := by
  have hgo' := hgo
  unfold ResumeWaits at hgo'
  unfold planResume
  rw [hp]
  dsimp only
  rw [if_neg hgo']
  have hmodels : Held noneKept s (p.entry.models.foldl (fun s m => resumeModel (frameLost s p) m s) s) := .foldl (fun _ _ => held_resumeModel ..) ..
  have hidle (hinst : s.weights.inst = none) := (foldl_resumeModel_idle (lost := fun s => frameLost s p) p.entry.models hinst).2
  generalize p.entry.models.foldl (fun s m => resumeModel (frameLost s p) m s) s = v at hmodels hidle
  have hprefixes : Held allKept v (dropPrefixes p v) := .ofPxDetachAll ..
  have hlog (l : List FaultRec) (us : Nat) (t : State) : Held allKept t (l.foldl (fun s q => logResolve q.entry (planResult p) us s) t) :=
    .foldl (fun _ _ => by exact ⟨rfl, rfl, fun _ _ => ⟨rfl, rfl⟩⟩) ..
  have hirq (t : State) : Held allKept t (if p.entry.models.isEmpty then t else raiseIrq 2 t) := by
    split
    · exact .refl t
    · exact .ofRaiseIrq ..
  have hrest := (hprefixes.trans (hlog p.entry.faults (usSince p.entry.at_ now) _)).trans (hirq _)
  generalize (if p.entry.models.isEmpty then _ else _ : State) = w at hrest ⊢
  have hset : (updRecov (fun r => { r with plan := r.queue.head?.map newPlan, queue := r.queue.drop 1 }) w).recov.plan = w.recov.queue.head?.map newPlan ∧
      (updRecov (fun r => { r with plan := r.queue.head?.map newPlan, queue := r.queue.drop 1 }) w).recov.queue = w.recov.queue.drop 1 ∧
      ∀ m, modelAt (updRecov (fun r => { r with plan := r.queue.head?.map newPlan, queue := r.queue.drop 1 }) w) m = modelAt w m := ⟨rfl, rfl, fun _ => rfl⟩
  obtain ⟨hplan, hqueue, hmodel⟩ := hset
  have hq : w.recov.queue = s.recov.queue := hrest.queue.trans hmodels.queue
  refine ⟨by rw [hplan, hq], by rw [hqueue, hq], fun hinst m hm hready => ?_⟩
  rw [hmodel, (hrest.model m trivial).2]
  exact hidle hinst m hm hready

/-! ### The whole (R480 to R496, R504) -/

theorem strikes_exec {s : State} {q : FaultRec} {l : List FaultRec} {now : Nat} {reload : Bool} {P : FaultEntry → State → Prop}
    (h : Strikes s q l now P (faultSuspend now reload s)) : ∃ t e u, exec (.faultSuspend now reload) s = .next t ∧ t = enqueueFault e u ∧
      e.faults = [{ q with entry := (faultTaken s q l).recov.nextLog }] ∧ e.at_ = now ∧ P e u := by
  obtain ⟨e, u, ht, hrest⟩ := h
  exact ⟨_, e, u, rfl, ht, hrest⟩

theorem Strikes.mono {s t : State} {q : FaultRec} {l : List FaultRec} {now : Nat} {P Q : FaultEntry → State → Prop} (h : Strikes s q l now P t)
    (himp : ∀ e u, P e u → Q e u) : Strikes s q l now Q t := by
  obtain ⟨e, u, ht, hfaults, hat, hP⟩ := h
  exact ⟨e, u, ht, hfaults, hat, himp e u hP⟩

/-- A logged fault that needs nothing of the units over it. -/
theorem faultLogged_spec {s : State} {q : FaultRec} (l : List FaultRec) (h : q.code ≠ E.storeUncorrectable) : let t := faultLogged s q l
    t.recov.reported = l ∧ (t.recov.log.head? = some ⟨s.recov.nextLog, q.code, q.kind, 0, q.unit, 0⟩ ∧ t.recov.nextLog = s.recov.nextLog + 1) ∧
      t.recov.plan = s.recov.plan ∧ t.recov.queue = s.recov.queue ∧ liveF t 0 0xA10 15 0 = Nat.min 0xFFFF (liveF s 0 0xA10 15 0 + 1) ∧
      t.weights = s.weights ∧ t.fields = s.fields := by
  have htaken : faultTaken s q l = { s with recov := { s.recov with reported := l } } := if_neg h
  have hlive (c : Code) (k r u us : Nat) (t : State) (a : Nat) : liveF (logPut c k r u us t) 0 a 15 0 = liveF t 0 a 15 0 := rfl
  have hcount (t : State) : liveF (countUp 0 0xA10 15 0 1 t) 0 0xA10 15 0 = Nat.min 0xFFFF (liveF t 0 0xA10 15 0 + 1) := liveF_countUp t (by decide) (by decide)
  unfold faultLogged logLasting
  rw [htaken]
  exact ⟨rfl, ⟨rfl, rfl⟩, rfl, rfl, (hlive ..).trans (hcount _), rfl, rfl⟩

/-- An uncorrectable codeword of a core that no model holds is only logged. -/
theorem faultClean_spec {s : State} {q : FaultRec} (l : List FaultRec) (h : mfind s.owner q.unit = none) : let t := logTransient q.code q.kind q.unit (faultTaken s q l)
    t.recov.reported = l ∧ (t.recov.log.head? = some ⟨s.recov.nextLog, q.code, q.kind, 1, q.unit, 0⟩ ∧ t.recov.nextLog = s.recov.nextLog + 1) ∧
      t.recov.plan = s.recov.plan ∧ t.recov.queue = s.recov.queue ∧ t.cores = s.cores ∧ t.weights = s.weights := by
  have htaken : faultTaken s q l = { s with recov := { s.recov with reported := l } } := by
    have howner : mfind ({ s with recov := { s.recov with reported := l } } : State).owner q.unit = none := h
    unfold faultTaken
    split
    · rw [reloadSlot, howner]
    · rfl
  rw [htaken]
  exact ⟨rfl, ⟨rfl, rfl⟩, rfl, rfl, rfl, rfl⟩

theorem armWaits_of {s : State} {commit : Beat} {ways : List (Fin 80 × Fin 160 × Word)} (h : (∀ p, s.recov.plan = some p → p.phase ≠ .planning) ∨ mcStops s = true ∨
    s.recov.overflow = true ∨ s.beat.mode ≠ .locked ∨ inFuture commit (beatNow s) = false ∨ ∃ p, s.recov.plan = some p ∧ waysFit s p ways = false) :
    ∀ p, s.recov.plan = some p → ArmWaits s p commit ways := by
  intro p hp
  rcases h with h | h | h | h | h | ⟨p', hp', h⟩
  · exact .inl (h p hp)
  · exact .inr (.inl h)
  · exact .inr (.inr (.inl h))
  · exact .inr (.inr (.inr (.inl h)))
  · exact .inr (.inr (.inr (.inr (.inl (by rw [h]; rfl)))))
  · obtain rfl := Option.some.inj (hp.symm.trans hp')
    exact .inr (.inr (.inr (.inr (.inr (by rw [h]; rfl)))))

theorem not_armWaits {s : State} {p : RecPlan} {commit : Beat} {ways : List (Fin 80 × Fin 160 × Word)} (hphase : p.phase = .planning) (hstop : mcStops s = false)
    (hover : s.recov.overflow = false) (hlock : s.beat.mode = .locked) (hfuture : inFuture commit (beatNow s) = true) (hfit : waysFit s p ways = true) :
    ¬ ArmWaits s p commit ways := by
  rw [ArmWaits, hphase, hstop, hover, hlock, hfuture, hfit]
  decide

theorem not_resumeWaits {s : State} {p : RecPlan} (hphase : p.phase = .applying) (hstarted : p.started = true) (hstop : mcStops s = false)
    (hover : s.recov.overflow = false) (hlock : s.beat.mode = .locked) : ¬ ResumeWaits s p := by
  rw [ResumeWaits, hphase, hstarted, hstop, hover, hlock]
  decide

/-- Settles O45, each clause from the lemma about its command. -/
theorem faultsAreClassifiedPlannedAndResumed : Obligations.FaultsAreClassifiedPlannedAndResumed := by
  unfold Obligations.FaultsAreClassifiedPlannedAndResumed
  intro s logged base takes lasting strikes hard code due
  have hdue {c : CoreRef} {k : Fin 16} {m : Nat} (h : due c k m) : ToClassify s (coreId c) k.val m := ⟨h.1, h.2.1, h.2.2.1, h.2.2.2⟩
  refine ⟨fun c k h => ⟨_, rfl, classify_same h⟩, fun c k m h hload hc => ?_, fun c k m h hload hc hne => ?_,
    fun c k m h hload hc hp => ⟨_, rfl, classify_waits (hdue h) hload hc hp⟩, fun now reload h => ⟨_, rfl, faultSuspend_none now reload h⟩,
    fun now q l h hcode => ⟨_, congrArg Host.Outcome.next (faultSuspend_clean h.1 h.2 now hcode), rfl, faultClean_spec l⟩,
    fun now reload q l h hlast hcode hkind => ?_, fun now reload q l h hlast hkind => strikes_exec ?_, fun now reload q l h hlast hkind hmay => strikes_exec ?_,
    fun now reload q l h hlast hkind hmay => strikes_exec ?_, fun now reload q l h hlast hkind hdark hcode => strikes_exec ?_,
    fun now reload q l h hlast hcode hkind hlit => ?_, fun now reload q l h hlast hkind hcode => strikes_exec ?_,
    fun now reload q l h hlast hkind hstate hdebug hcode => strikes_exec ?_, fun e h => ?_, fun e p hp hno hnew hroom => enqueueFault_waits e hp hno hnew hroom,
    fun e p hp hno hnew hfull => enqueueFault_overflows e hp hno hnew hfull, fun gone free css r h => rebindAll_mem h,
    fun m c hc => ⟨(mem_freeEverywhere hc).2.2.1, (mem_freeEverywhere hc).1⟩, fun m p q h => rebound_spec h,
    fun commit flash ways h => ⟨_, rfl, planArm_waits (armWaits_of h)⟩, fun commit flash ways p hp hphase hstop hover hlock hfuture hfit => ?_,
    fun now h => ⟨_, rfl, planApply_idle h⟩, fun now p hp hover hstop hphase hst hc => ⟨_, rfl, planApply_fails hp hover hstop hphase hst hc⟩,
    fun now p hp hover hstop hphase hst hc hagain => ?_, fun now p hp hover hstop hphase hstarted => ?_, fun now p hp hphase h => ⟨_, rfl, planApply_waits hp hphase h⟩,
    fun now p hp hphase hstarted hstop hover hlock => ⟨_, rfl, planResume_resumes hp (not_resumeWaits hphase hstarted hstop hover hlock)⟩,
    fun now h => ⟨_, rfl, planResume_waits fun p hp => ?_⟩, fun ok h => ⟨_, rfl, floorRetry_due ok h⟩, fun ok h => ⟨_, rfl, if_neg (by rw [h]; decide)⟩⟩
  · exact ⟨_, congrArg Host.Outcome.next (classify_hard (hdue h) hload hc), coreAt_updCore_same .., rfl, rfl⟩
  · refine ⟨_, congrArg Host.Outcome.next (classify_placement (hdue h) hload hc hne), rfl, ?_⟩
    have hcore (t : State) : coreAt (report E.placementFault 6 m t) (coreId c) = coreAt t (coreId c) := rfl
    rw [hcore, classified, coreAt_updCore_same]
    exact mem_insertAsc.2 (.inl rfl)
  · have hact : faultActs (numbered s q l) reload now (faultLogged s q l) = faultLogged s q l := by
      have hk : (numbered s q l).kind = q.kind := rfl
      unfold faultActs
      rw [hk]
      rcases hkind with hkind | hkind <;> rw [hkind] <;> rfl
    obtain ⟨hreported, hlog, hplan, hqueue, hcount, hweights, -⟩ := faultLogged_spec (s := s) l hcode
    exact ⟨_, congrArg Host.Outcome.next ((faultSuspend_lasting h.1 h.2 now hlast).trans hact), hreported, hlog, hplan, hqueue, hcount, hweights⟩
  · rw [faultSuspend_lasting h.1 h.2 now hlast, faultActs, if_pos (show (numbered s q l).kind = 0 from hkind)]
    refine (coreFault_strikes now).mono fun e u he => ?_
    obtain ⟨hcores, hfields, hretire, hkeeps, hrest⟩ := he
    refine ⟨hcores, hfields, hretire, fun hact hfirst => hkeeps hact ?_, hrest⟩
    have htaken : faultTaken s q l = { s with recov := { s.recov with reported := l } } := if_neg (by rw [hact]; decide)
    rw [htaken]
    exact hfirst
  · rw [faultSuspend_lasting h.1 h.2 now hlast, faultActs, show (numbered s q l).kind = 1 from hkind]
    exact routerFault_retires now hmay
  · rw [faultSuspend_lasting h.1 h.2 now hlast, faultActs, show (numbered s q l).kind = 1 from hkind]
    exact routerFault_darkens now hmay
  · have hlost : (fieldSt (faultLogged s q l) (numbered s q l).unit = .dark ∨ fieldWasLost (faultLogged s q l) (numbered s q l).unit = true) ∧
        (numbered s q l).code ≠ E.connSuspect := ⟨hdark, hcode⟩
    rw [faultSuspend_lasting h.1 h.2 now hlast, faultActs, show (numbered s q l).kind = 2 from hkind, if_neg (by decide), if_neg (by decide), if_pos rfl, if_pos hlost]
    exact (fieldStrikes_strikes now q.unit _).mono fun _ _ he => ⟨he.1, he.2.2⟩
  · have hfield : fieldSt (faultLogged s q l) (numbered s q l).unit = fieldSt s q.unit ∧
        fieldWasLost (faultLogged s q l) (numbered s q l).unit = fieldWasLost s q.unit := by
      have htaken : faultTaken s q l = { s with recov := { s.recov with reported := l } } := if_neg hcode
      unfold faultLogged
      rw [htaken]
      exact ⟨rfl, rfl⟩
    have hno : ¬ ((fieldSt (faultLogged s q l) (numbered s q l).unit = .dark ∨ fieldWasLost (faultLogged s q l) (numbered s q l).unit = true) ∧
        (numbered s q l).code ≠ E.connSuspect) := by
      rw [hfield.1, hfield.2]
      rintro ⟨hbad, hother⟩
      rcases hlit with ⟨hst, hlost⟩ | hconn
      · exact hbad.elim hst fun h => by rw [hlost] at h; cases h
      · exact hother hconn
    have hact : faultActs (numbered s q l) reload now (faultLogged s q l) = faultLogged s q l := by
      rw [faultActs, show (numbered s q l).kind = 2 from hkind, if_neg (by decide), if_neg (by decide), if_pos rfl, if_neg hno]
    obtain ⟨hreported, hlog, hplan, -, -, -, hfields⟩ := faultLogged_spec (s := s) l hcode
    exact ⟨_, congrArg Host.Outcome.next ((faultSuspend_lasting h.1 h.2 now hlast).trans hact), hreported, hlog, hplan, hfields⟩
  · rw [faultSuspend_lasting h.1 h.2 now hlast, faultActs, show (numbered s q l).kind = 3 from hkind]
    exact stackFault_strikes now reload hcode
  · rw [faultSuspend_lasting h.1 h.2 now hlast, faultActs, show (numbered s q l).kind = 6 from hkind]
    exact placementFault_debug now hstate hdebug hcode
  · rw [enqueueFault, h]
  · have hgo := not_armWaits (ways := ways) hphase hstop hover hlock hfuture hfit
    intro r c
    refine ⟨fun g hpages hfree => ?_, fun hbad => ⟨_, rfl, planArm_refused flash hp hgo hbad⟩⟩
    obtain ⟨t, x, ht, hx⟩ := planArm_arms flash hp hgo hpages hfree
    exact ⟨t, x, congrArg Host.Outcome.next ht, hx⟩
  · obtain ⟨l, hl⟩ := planApply_commits (now := now) hp hover hstop hphase hst hc hagain
    exact ⟨_, l, rfl, hl⟩
  · intro waits
    refine ⟨fun hcopy hin => ?_, fun hcopy hin hw => ⟨_, rfl, (planApply_content hp hover hstop hphase hstarted hcopy hin).1 hw⟩,
      fun hcopy hin hw => ⟨_, rfl, (planApply_content hp hover hstop hphase hstarted hcopy hin).2 hw⟩⟩
    obtain ⟨l, hl⟩ := planApply_copied (now := now) hp hover hstop hphase hstarted hcopy hin
    exact ⟨_, l, rfl, hl⟩
  · rcases h with h | h | h
    · exact (h p hp).imp_right fun hs => .inl (by rw [hs]; rfl)
    · exact .inr (.inr (.inl h))
    · exact .inr (.inr (.inr (.inr h)))

end Sys2Proof.Machine
end
